-- ==== Sys2Proof/Word.lean ====
section
/-! DEFINITION. The word types, the unit numbers of R10, the register names of the BAR maps (R420) and the small
enumerations that commands carry as operands. -/

namespace Sys2Proof

/-- One byte; multi-byte quantities are little-endian (R3). -/
abbrev Byte := BitVec 8
/-- A run of bytes, byte 0 first. -/
abbrev Bytes := List Byte
abbrev Word := BitVec 32
abbrev DWord := BitVec 64

/-- Comb k, super k and strand k share one numbering (R10). -/
abbrev Comb := Fin 8
abbrev Super := Fin 8
/-- A partition is numbered by its lowest comb (R10). -/
abbrev Part := Fin 8
abbrev Die := Fin 2
/-- Host functions: 0 is PF0, k + 1 is VF(k + 1) (R10). -/
abbrev Fn := Fin 9
abbrev Ring := Fin 16
/-- Logical ports +X −X +Y −Y +Z −Z (R368). -/
abbrev LPort := Fin 6
/-- Physical ports +X −X +Y −Y +Z −Z +Z2 −Z2 (R10). -/
abbrev PPort := Fin 8
/-- Logical cells 0–19 (R178) and physical cells 0–20 (R10). -/
abbrev Cell := Fin 20
abbrev PCell := Fin 21
/-- Sequencer scalar registers s0–s31 (R111), vector registers v0–v31 (R216), Hild registers r0–r15 (R286). -/
abbrev SReg := Fin 32
abbrev VReg := Fin 32
abbrev HReg := Fin 16
abbrev PredIx := Fin 16
abbrev Lane := Fin 17
abbrev JobIx := Fin 12
abbrev KeyId := Fin 64

/-- How an access meets a register: the low or high four bytes, or the whole (R8). -/
inductive Acc where
  | low4 | high4 | whole
  deriving DecidableEq, Repr

/-- Every register of the BAR maps, by the block that holds it (R420, R480, R511, R537, R556, R573); the last four are the
function's configuration space: what R415, R423, R425, R428 and R433 name of it. -/
inductive Reg where
  | sqBase (r : Ring) | cqBase (r : Ring) | dbAddr (r : Ring) | headAddr (r : Ring)
  | sqEpoch (r : Ring) | sqCfg (r : Ring) | sqStatus (r : Ring) | ringEvcnt (r : Ring)
  | eqBase | eqHeadAddr | eqEpoch | eqCfg | eqStatus | eqEvcnt | hiveAddr | hiveStatus
  | supRgn (i : Fin 16) | supMap
  | fnStatus | fnEvcnt | fnEvcnt2 | ckptList | ckptCfg | ckptStatus | ckptEvcnt | partEVf
  | hstSem (i : Fin 4096)
  | topo (k : Comb) | rngStatus (k : Comb) | rngEvcnt (k : Comb) | rngStep (k : Comb)
  | humTime (k : Comb) | humStatus (k : Comb) | humEvcnt (k : Comb) | humBeatCfg (k : Comb)
  | humBeat (k : Comb) | humSlack (k : Comb)
  | seqCfg (k : Comb) | seqStatus (k : Comb) | seqEvcnt (k : Comb) | seqPc (k : Comb)
  | seqPred (k : Comb) | seqRetain (k : Comb)
  | cellStatus (k : Comb) | cellEvcnt (k : Comb) | cellErrlog (k : Comb)
  | vecStatus (k : Comb) | vecEvcnt (k : Comb)
  | rowStatus (k : Comb) | rowEvcnt (k : Comb) | rowClip (k : Comb)
  | wagLink (k : Comb) | wagStatus (k : Comb) | wagEvcnt (k : Comb) | wagEvcnt2 (k : Comb)
  | wagEvcnt3 (k : Comb) | wagLeaseCmt (k : Comb) | wagJob (k : Comb) (j : JobIx)
  | supStatus (k : Super) | supEvcnt (k : Super) | supErrlog (k : Super) | supScrub (k : Super)
  | supEvcnt2 (k : Super)
  | prpKeystateLo (k : Super) | prpKeystateHi (k : Super) | prpStatus (k : Super) | prpEvcnt (k : Super)
  | prpEvcnt2 (k : Super) | prpEvcnt3 (k : Super) | prpCcstat (k : Super) | prpErrlog (k : Super)
  | hldGtab (k : Super) | hldPtab (k : Super) | hldCommit (k : Super) | hldStatus (k : Super)
  | hldEvcnt (k : Super) | hldEvcnt2 (k : Super) | hldDp (k : Super)
  | humCfg | humEpoch | wagCoord | wagPortmap | wagPort (p : PPort)
  | prpBridge (d : Die) | prpBridgeEvcnt (d : Die) | prpBridgeEvcnt2 (d : Die)
  | winBase | winStatus
  | qnCrown | qnStatus | qnEvcnt | qnEvcnt2 | qnPartCmd | qnPart (k : Part) | qnDebug
  | evtResetCmd | evtStatus | evtEvcnt | evtEvcnt2 | evtDrain | evtWdog | evtEwCfg
  | evtSum (k : Part) | evtModlog
  | pwrLimit | pwrStatus | pwrEvcnt | pwrInput | pwrTherm | pwrTsup | pwrPartE (k : Part)
  | clkStatus | clkEvcnt
  | qnBootStatus | qnBootCmd | qnRepair
  | wagLease (k : Comb) (rx : Bool) (p : LPort) (slot : Fin 512)
  | pciCommand | pciPm | pciSriov | pciDevctl
  deriving DecidableEq, Repr

/-- The predicate fields of a sequencer instruction: PEN, PRED and SENSE (R114). -/
structure PredF where
  pen   : Bool
  pred  : PredIx
  sense : Bool
  deriving DecidableEq, Repr

/-- Where a vector or row command runs: comb and logical cell. -/
structure At where
  comb : Comb
  cell : Cell
  deriving DecidableEq, Repr

/-- What one vector instruction takes from its operation block: the cell, COUNT, TAILZ and the iteration (R220, R221). -/
structure VCtx where
  comb  : Comb
  cell  : Cell
  count : Nat
  tailz : Bool
  iter  : Nat
  deriving DecidableEq, Repr

/-- The memory operands of a vector instruction: the slot address of this iteration, SPACE (true: comb store), FMT,
ROUND, RAW and ACC (R222). -/
structure MemArg where
  addr      : Nat
  combStore : Bool
  fmt       : BitVec 3
  round     : BitVec 2
  raw       : Bool
  acc       : BitVec 2
  deriving DecidableEq, Repr

/-- A doorbell or head word: COUNT and EPOCH (R85). -/
structure DbWord where
  count : Word
  epoch : Word
  deriving DecidableEq, Repr

/-- What a poll read: a submission ring's doorbell and head words, or an event ring's head word (R91). -/
inductive PollSrc where
  | ring (p : Part) (r : Ring)
  | events (f : Fn)
  deriving DecidableEq, Repr

/-- Bits that the DRAM of a super has flipped since its latest command: for each line by its number (device offset bits
[35:7], R344), the flipped bits of its 128 data bytes and, above them, of its 16 bytes of ECC space (R308, R310). -/
abbrev Flips := List (Nat × BitVec 1152)

/-- The copy of a row under repair: the super, and the bits that its DRAM has flipped meanwhile (R328). -/
structure RowCopy where
  k : Super
  flips : Flips
  deriving DecidableEq, Repr

/-- A flit as it arrives over a die-to-die link: its direction, its sequence number and its sealed body (R364). -/
structure LinkFlit where
  dir : Fin 2
  seq : DWord
  body : Bytes
  deriving DecidableEq, Repr

/-- What happens to the elastic buffer of one direction of a strand-port: its new fill of 0 to 4 slots (R56). -/
structure Slip where
  port : LPort
  dir : Fin 2
  fill : Fin 5
  deriving DecidableEq, Repr

/-- The cell that faults, and a second one that faults in the same clock (R181). -/
structure CellHit where
  cell : PCell
  also : Option PCell := none
  deriving DecidableEq, Repr

/-- Who issues a memory request (R28, R362). -/
inductive Requester where
  | comb (k : Comb)
  | hild (k : Super)
  | queen (d : Die)
  | operator
  deriving DecidableEq, Repr

/-- The hum-sync record's fields that the receiver uses (R404), in 1/16 ns. -/
structure HumSync where
  state : BitVec 2
  depth : Byte
  tTx : DWord
  tEchoTx : DWord
  tEchoRx : DWord
  deriving DecidableEq, Repr

/-- The router that made a record's MAC, as the nonce names it: its coordinate, the logical port it sent the record on and
its strand (R405). -/
structure RecFrom where
  x : BitVec 5 := 0
  y : BitVec 5 := 0
  z : BitVec 5 := 0
  port : LPort := 0
  strand : Comb := 0
  deriving DecidableEq, Repr

/-- An alarm body with its MAC and the sender that the MAC is checked for (R405). -/
structure AlarmRec where
  cause : Byte
  x : Byte
  y : Byte
  z : Byte
  relay : Bool
  jobId : Word
  frame : Word
  mac : DWord := 0
  sender : RecFrom := {}
  deriving DecidableEq, Repr

/-- A vote or verdict body with its MAC and the sender that the MAC is checked for (R405). -/
structure VoteRec where
  value : Bool
  stepTag : BitVec 16
  jobId : Word
  epoch : Word
  mac : DWord := 0
  sender : RecFrom := {}
  deriving DecidableEq, Repr

/-- A wire frame as it arrives: KIND of its link word (R370), the symbols of its codeword in error (R369) and, for a data
frame, its route header and the 592 bytes behind it: flit meta and payload encrypted, and the tag (R393). -/
structure Flit where
  kind : BitVec 2
  errs : Nat := 0
  jobId : Word
  flow : BitVec 16
  fkgen : BitVec 6
  strand : Comb
  sx : Byte
  sy : Byte
  sz : Byte
  seq : DWord
  body : Bytes
  deriving DecidableEq, Repr

/-- The code of R369 corrects up to 15 symbols of a codeword; with more in error the codeword is uncorrectable. -/
def Flit.cwOk (f : Flit) : Bool := decide (f.errs ≤ 15)

/-- The management transports that carry SPDM sessions (R432, R567). -/
inductive SpdmChan where
  | doe | mctp
  deriving DecidableEq, Repr

/-- The reference inputs of R548. -/
inductive RefClk where
  | fabric | pcie
  deriving DecidableEq, Repr

/-- A scope of the thermal thresholds (R552): a compute die, or the DRAM of a super. -/
inductive ThermScope where
  | die (d : Die)
  | dram (k : Super)
  deriving DecidableEq, Repr

/-- The content of a crown sideband message (R440, R445). -/
inductive Sideband where
  | heartbeat (epoch : Word) (die : Die)
  | claim (epoch : Word) (die : Die)
  deriving DecidableEq, Repr

/-- A configuration write of R441, by its target. -/
inductive CfgWrite where
  | keySlotLoad (k : Super) (id : KeyId) (key : Nat)
  | linkKey (link : Fin 14) (dir : Fin 2) (key : Nat)
  | fuseSvn (svn : Fin 128)
  | slotTable (k : Comb) (rx : Bool) (p : LPort) (slot : Fin 512) (entry : BitVec 16)
  | jobEntry (k : Comb) (j : JobIx) (value : DWord)
  | topo (k : Comb) (assigned : Bool) (psize : BitVec 2) (pbase : Part)
  | nocLink (a : Comb) (b : Comb) (on : Bool)
  | hildTable (k : Super) (isSealed : Bool) (rows : List (Nat × Word × Word))
  | rowClip (k : Comb) (clip : Word) (isSealed : Bool)
  deriving DecidableEq, Repr

/-- How a host read of a forager fails (R427). -/
inductive HostFail where
  | timeout | badCompletion
  deriving DecidableEq, Repr

/-- What the failed host read was for (R427). -/
inductive HostReadKind where
  | word (src : PollSrc)
  | descriptor (p : Part) (r : Ring)
  | descData (p : Part) (r : Ring)
  | transferData (k : Comb) (forager : Fin 4)
  | ckptList (p : Part)
  deriving DecidableEq, Repr

/-- The three engines of a cell, by the ENGINE code of R159. -/
inductive Engine where
  | array | vector | row
  deriving DecidableEq, Repr

/-- A change of configuration space that R431 watches. -/
inductive CfgSpace where
  | bar | busMaster | memSpace | sriov
  deriving DecidableEq, Repr

end Sys2Proof
end

