-- ==== Sys2Proof/Syntax.lean ====
section
/-! DEFINITION. The commands of the module: one constructor for every row of spec/opcode_table.json, in the table's
order. Operands are what comes from outside the module (a value written, bytes read from the host, a measured quantity,
the outcome of a physical or cryptographic check) and the unit the command concerns. -/

namespace Sys2Proof

/-- One command of the module. The comment before each group names the chapter. -/
inductive Instr where
  -- registers (R5–R8)
  | registerWrite (f : Fn) (reg : Reg) (acc : Acc) (value : DWord)
  | w1cWrite (f : Fn) (reg : Reg) (acc : Acc) (bits : DWord)
  | lowHalfRead (f : Fn) (reg : Reg) (acc : Acc)
  -- power and thermal (R540–R556)
  | inputPowerGood (mV : Nat)
  | undervoltageDetect (mV : Nat)
  | undervoltageClear (mV : Nat)
  | inputFault (mV : Nat)
  | railFault (rail : Fin 10)
  | latchRelease (mV : Nat)
  | powerSample (watts avg mV mA : BitVec 16)
  | overpowerSustained
  | overpowerClear
  | thermalSample (die0 die1 : List Int) (dram : List (List Int))
  | thermalDiv4End (d : Die)
  | thermalClear (scope : ThermScope)
  | pwrLimitWrite (f : Fn) (value : Word)
  | energyReport64 (p : Part) (uj : Word)
  | fabricRefLoss
  | pcieRefLoss
  | refReturn (ref : RefClk)
  | pllUnlock (pll : Fin 23)
  -- boot (R557–R565)
  | bootStart
  | imageLoaded (flashOk queen1Agrees : Bool)
  | bootReady
  | enterRecovery (f : Fn)
  | commitSvn (f : Fn)
  | rcvGo (f : Fn) (len : BitVec 26)
  | recoveryFlashDone (readBackOk : Bool)
  -- I3C, MCTP, PLDM (R566–R569)
  | entdaa (addr : BitVec 7)
  | setdasa (addr : BitVec 7)
  | rstdaa
  | getpid
  | getbcr
  | getdcr
  | getmxds
  | setEndpointId (eid : Byte)
  | getSensorReading (id : BitVec 16)
  | getStateSensorReadings (id : BitVec 16)
  | setNumericEffecterValue (id : BitVec 16) (watts : Word)
  | pollForPlatformEventMessage
  | pldmUpdateComponent (header : Bytes)
  | pldmTransferData (offset : Nat) (data : Bytes)
  | verifyComplete
  | activateFirmware
  -- Dweut monitor (R570–R572)
  | help
  | ver
  | stat
  | sum (k : Part)
  | sens
  | log (n : Nat)
  | reset (d u : BitVec 3)
  | peek (addr : BitVec 40) (n : Nat)
  | traceOn
  | traceOff
  -- pins and reset requests (R488–R489, R574)
  | modRstNRelease (heldUs : Nat)
  | perstNRelease
  | resetComb (u : Comb)
  | resetSuper (u : Super)
  | resetStrandPort (u : Comb) (port : Fin 8)
  | resetPartition (u : Part)
  | resetModuleWarm
  | resetModuleCold
  | superResetDone (k : Super) (flips : Flips)
  -- watchdogs (R485–R487)
  | combWatchdog (k : Comb)
  | superWatchdog (k : Super)
  | hildWatchdog (k : Super)
  | foragerWatchdog (k : Comb) (f : Fin 4)
  | crownSidebandSilent
  -- recovery (R491–R510)
  | smokeDrainDone (p : Part)
  | drainDeadline (p : Part)
  | recoveryDone (p : Part)
  | ewWindowEnd (p : Part)
  -- the crown (R440–R446)
  | heartbeat
  | sidebandMessageReceive (seq : Word) (mac : BitVec 64) (msg : Sideband)
  | supersedure
  | configWrite (epoch : Word) (die : Die) (w : CfgWrite)
  | queenRegionLoss (d : Die)
  -- partitions, contexts, keys (R452–R479)
  | partitionCreate (pbase : Part) (psize : BitVec 2)
  | partitionRemove (pbase : Part)
  | removeSlotsEmpty (pbase : Part)
  | endContext (pbase : Part)
  | retireFlushDone (k : Super) (id : KeyId)
  | keyScrubDone (k : Super) (id : KeyId)
  | bind (pbase : Part) (manifest : Bytes)
  | key (pbase : Part) (envelope : Bytes)
  | debugChallenge
  | debugUnlock (token : Bytes) (authKey : BitVec 256) (ageMs : Nat)
  | getMeasurements (index : Byte) (nonce : BitVec 256)
  -- hum (R50–R60)
  | humCfgWrite (f : Fn) (value : Word)
  | humSyncReceive (k : Comb) (port : LPort) (rec : HumSync)
  | humLockAcquired (k : Comb)
  | humOffsetExceeded (k : Comb)
  | holdoverExpire (k : Comb)
  | elasticSlip (k : Comb) (slip : Slip)
  | controlSlot (k : Comb)
  | beatGridStart (p : Part)
  | beatBoundary (k : Comb) (uj : Word)
  | frame64Poll (f : Fn)
  -- rings and descriptors (R81–R108)
  | doorbellReadDone (src : PollSrc) (db head : DbWord)
  | descriptorFetchDone (p : Part) (r : Ring) (descs : List Bytes)
  | descriptorStart (p : Part) (r : Ring)
  | compute (p : Part) (r : Ring)
  | copy (p : Part) (r : Ring) (host : Bytes)
  | fabric (p : Part) (r : Ring)
  | update (p : Part) (r : Ring)
  | syncSet (p : Part) (r : Ring)
  | syncAdd (p : Part) (r : Ring)
  | syncWaitGe (p : Part) (r : Ring)
  | syncWaitEq (p : Part) (r : Ring)
  | fence (p : Part) (r : Ring)
  | timetable (p : Part) (r : Ring)
  | checkpoint (p : Part) (r : Ring) (list : Bytes)
  | checkpointStepReady (p : Part)
  | snapshotCopyDone (p : Part)
  | checkpointShardsVisible (p : Part)
  | checkpointManifestVisible (p : Part)
  | restore (p : Part) (r : Ring) (list manifests : Bytes)
  | restorePass1Done (p : Part) (records : List Bytes)
  | restorePass2Done (p : Part) (records : List Bytes)
  | egress (p : Part) (r : Ring)
  | smoke (p : Part) (r : Ring)
  | descriptorComplete (p : Part) (r : Ring) (idx : Word)
  | ringEnable (p : Part) (r : Ring) (cfg : Word)
  | ringDisable (p : Part) (r : Ring) (cfg : Word)
  | eventRingEnable (f : Fn) (cfg : Word)
  | eventRingDisable (f : Fn) (cfg : Word)
  -- the sequencer (R109–R147)
  | nop (k : Comb) (h : PredF)
  | endProg (k : Comb) (h : PredF)
  | programEnd (k : Comb)
  | jump (k : Comb) (h : PredF) (imm : Word)
  | bnz (k : Comb) (h : PredF) (a : SReg) (imm : Word)
  | loop (k : Comb) (h : PredF) (a : SReg) (imm : Word)
  | beatDone (k : Comb) (h : PredF)
  | seqFence (k : Comb) (h : PredF) (scope : BitVec 2)
  | ldi (k : Comb) (h : PredF) (a : SReg) (imm : Word)
  | ldhi (k : Comb) (h : PredF) (a : SReg) (imm : Word)
  | seqAdd (k : Comb) (h : PredF) (a b c : SReg)
  | seqAddi (k : Comb) (h : PredF) (a b : SReg) (imm : Word)
  | seqSub (k : Comb) (h : PredF) (a b c : SReg)
  | seqMul (k : Comb) (h : PredF) (a b c : SReg)
  | seqAnd (k : Comb) (h : PredF) (a b c : SReg)
  | seqOr (k : Comb) (h : PredF) (a b c : SReg)
  | seqXor (k : Comb) (h : PredF) (a b c : SReg)
  | seqShl (k : Comb) (h : PredF) (a b : SReg) (sh : BitVec 6)
  | seqShr (k : Comb) (h : PredF) (a b : SReg) (sh : BitVec 6)
  | seqLd (k : Comb) (h : PredF) (a b : SReg) (imm : Word)
  | seqSt (k : Comb) (h : PredF) (a b : SReg) (imm : Word)
  | rdbeat (k : Comb) (h : PredF) (a : SReg)
  | rdhum (k : Comb) (h : PredF) (a : SReg)
  | pcheck (k : Comb) (h : PredF) (b c : SReg) (target : PredIx) (mode : BitVec 4)
  | pvote (k : Comb) (h : PredF) (mask : BitVec 16)
  | psem (k : Comb) (h : PredF) (b : SReg) (target : PredIx) (ge : Bool) (sem : BitVec 12)
  | pset (k : Comb) (h : PredF) (target : PredIx) (value : Bool)
  | fclr (k : Comb) (h : PredF)
  | move (k : Comb) (h : PredF) (b : SReg) (forager : Fin 4)
  | cell (k : Comb) (h : PredF) (b c : SReg)
  | hild (k : Comb) (h : PredF) (b c : SReg) (first : BitVec 12)
  | semSet (k : Comb) (h : PredF) (b : SReg) (sem : Word)
  | semAdd (k : Comb) (h : PredF) (b : SReg) (sem : Word)
  | semWaitGe (k : Comb) (h : PredF) (b : SReg) (sem : Word)
  | semWaitEq (k : Comb) (h : PredF) (b : SReg) (sem : Word)
  | predicateResolve (k : Comb) (m : PredIx)
  | retentionRelease (k : Comb)
  | transferComplete (k : Comb) (forager : Fin 4) (host : Bytes)
  | memoryWriteAck (k : Comb)
  -- cells (R148–R185)
  | matmul (x : At)
  | bwdPair (x : At)
  | cellOpComplete (x : At) (e : Engine)
  | cellFault (k : Comb) (cells : CellHit) (store : BitVec 3) (offset : BitVec 24)
  | cellCorrectedError (k : Comb) (n : PCell)
  | spareSwapDone (k : Comb) (ok : Bool)
  | entropyStartupDone (k : Comb) (raw : BitVec 4096)
  | entropyHealthFail (k : Comb) (raw : BitVec 1024)
  -- the vector engine (R216–R238)
  | vprog (x : At)
  | vecLd (x : VCtx) (vd : VReg) (m : MemArg)
  | vecLdb (x : VCtx) (vd : VReg) (m : MemArg)
  | vecSt (x : VCtx) (va : VReg) (m : MemArg)
  | gather (x : VCtx) (vd va : VReg) (m : MemArg)
  | scatter (x : VCtx) (va vb : VReg) (m : MemArg)
  | scatadd (x : VCtx) (va vb : VReg) (m : MemArg)
  | vecAdd (x : VCtx) (vd va vb : VReg)
  | vecSub (x : VCtx) (vd va vb : VReg)
  | vecMul (x : VCtx) (vd va vb : VReg)
  | vecFma (x : VCtx) (vd va vb vc : VReg)
  | vecAddi (x : VCtx) (vd va : VReg) (imm : Word)
  | muli (x : VCtx) (vd va : VReg) (imm : Word)
  | fmai (x : VCtx) (vd va vb : VReg) (imm : Word)
  | vecMax (x : VCtx) (vd va vb : VReg)
  | vecMin (x : VCtx) (vd va vb : VReg)
  | maxi (x : VCtx) (vd va : VReg) (imm : Word)
  | mini (x : VCtx) (vd va : VReg) (imm : Word)
  | vecAbs (x : VCtx) (vd va : VReg)
  | neg (x : VCtx) (vd va : VReg)
  | vecDiv (x : VCtx) (vd va vb : VReg)
  | vecSqrt (x : VCtx) (vd va : VReg)
  | vecCmp (x : VCtx) (vd va vb : VReg) (cond : Word)
  | vecSel (x : VCtx) (vd va vb vc : VReg)
  | vecExp (x : VCtx) (vd va : VReg)
  | exp2 (x : VCtx) (vd va : VReg)
  | vecLog (x : VCtx) (vd va : VReg)
  | rcp (x : VCtx) (vd va : VReg)
  | vecRsqrt (x : VCtx) (vd va : VReg)
  | tanh (x : VCtx) (vd va : VReg)
  | sigmoid (x : VCtx) (vd va : VReg)
  | gelu (x : VCtx) (vd va : VReg)
  | iadd (x : VCtx) (vd va vb : VReg)
  | isub (x : VCtx) (vd va vb : VReg)
  | uaddsat (x : VCtx) (vd va vb : VReg)
  | vecAnd (x : VCtx) (vd va vb : VReg)
  | vecOr (x : VCtx) (vd va vb : VReg)
  | vecXor (x : VCtx) (vd va vb : VReg)
  | vecShl (x : VCtx) (vd va : VReg) (imm : Word)
  | vecShr (x : VCtx) (vd va : VReg) (imm : Word)
  | ftoi (x : VCtx) (vd va : VReg)
  | itof (x : VCtx) (vd va : VReg)
  | iota (x : VCtx) (vd : VReg) (imm : Word)
  | movi (x : VCtx) (vd : VReg) (imm : Word)
  | rsum (x : VCtx) (va : VReg) (m : MemArg)
  | rmax (x : VCtx) (va : VReg) (m : MemArg)
  | rmin (x : VCtx) (va : VReg) (m : MemArg)
  | ramax (x : VCtx) (va : VReg) (m : MemArg)
  | rsumsq (x : VCtx) (va : VReg) (m : MemArg)
  -- the row engine (R239–R269)
  | lnFwd (x : At)
  | rmsFwd (x : At)
  | lnBwd (x : At)
  | rmsBwd (x : At)
  | smFwd (x : At)
  | smMerge (x : At)
  | smBwd (x : At)
  | xent (x : At)
  | rowdot (x : At)
  | attnDs (x : At)
  | pexnorm (x : At)
  | clipscale (x : At)
  | attn (x : At)
  | rowClipWrite (f : Fn) (k : Comb) (value : DWord)
  -- the Hild unit (R271–R307)
  | hildRunStart (k : Super)
  | hildGroupDone (k : Super)
  | hildRunDone (k : Super)
  | hldEnd (k : Super)
  | hldLd (k : Super) (d : HReg) (slot : BitVec 3)
  | hldSt (k : Super) (a : BitVec 6) (slot : BitVec 3) (round : BitVec 2)
  | hldAdd (k : Super) (d : HReg) (a b : BitVec 6)
  | hldSub (k : Super) (d : HReg) (a b : BitVec 6)
  | hldMul (k : Super) (d : HReg) (a b : BitVec 6)
  | hldFma (k : Super) (d : HReg) (a b c : BitVec 6)
  | hldDiv (k : Super) (d : HReg) (a b : BitVec 6)
  | hldSqrt (k : Super) (d : HReg) (a : BitVec 6)
  | hldRsqrt (k : Super) (d : HReg) (a : BitVec 6)
  | hldMax (k : Super) (d : HReg) (a b : BitVec 6)
  | hldMin (k : Super) (d : HReg) (a b : BitVec 6)
  | hldAbs (k : Super) (d : HReg) (a : BitVec 6)
  | sign (k : Super) (d : HReg) (a : BitVec 6)
  | hldCmp (k : Super) (d : HReg) (a b : BitVec 6) (cond : BitVec 3)
  | hldSel (k : Super) (d : HReg) (a b c : BitVec 6)
  | clamp (k : Super) (d : HReg) (a b c : BitVec 6)
  | hldExp (k : Super) (d : HReg) (a : BitVec 6)
  | noise (k : Super) (d : HReg) (a b : BitVec 6)
  | rnd (k : Super) (d : HReg) (a : BitVec 6) (round : BitVec 2) (fmt : BitVec 3)
  -- supers and Propolis (R308–R366)
  | regionCommit (p : Part)
  | regionInitDone (p : Part)
  | memoryRead (sup : BitVec 4) (off : BitVec 36) (who : Requester) (line tags tree : Flips)
  | memoryWrite (sup : BitVec 4) (off : BitVec 36) (who : Requester) (data : Bytes) (line tags tree : Flips)
  | partialWrite (sup : BitVec 4) (off : BitVec 36) (who : Requester) (data : Bytes) (between : List (BitVec 36 × Bytes))
      (line tags tree : Flips)
  | treeFormatDone (k : Super)
  | dramRefresh (k : Super)
  | patrolScrubRead (k : Super) (flips : Flips)
  | rowRepairDone (copy : RowCopy)
  | linkFlitCrcFail (k : Super)
  | linkReplayLimit (k : Super)
  | linkAuthFail (link : Fin 14) (flit : LinkFlit)
  -- the host port (R412–R436)
  | bar2Read (off : BitVec 30) (n : Nat)
  | bar2Write (off : BitVec 30) (data : Bytes)
  | malformedMmio (f : Fn) (isRead : Bool)
  | hostReadFail (fail : HostFail) (what : HostReadKind)
  | ideCheckFail (f : Fn)
  | kSetGo (f : Fn) (set : Fin 2)
  | lockInterfaceRequest (k : Part)
  | startInterfaceRequest (k : Part)
  | stopInterfaceRequest (k : Part)
  | pciConfigWrite (k : Part) (what : CfgSpace)
  | doeAbort
  | vfFlr (k : Part)
  | pf0Flr
  | vfEnableClear
  | hotReset
  | hostLinkDown
  | perstNAssert
  | d3hotEnter (f : Fn)
  | busMasterClear (f : Fn)
  | memorySpaceClear (f : Fn)
  -- the fabric (R367–R411)
  | coordWrite (f : Fn) (value : DWord)
  | portmapWrite (f : Fn) (value : Word)
  | trainingDone (k : Comb) (p : LPort)
  | trainingTimeout (k : Comb) (p : LPort)
  | trainingRetry (k : Comb) (p : LPort)
  | laneHardFail (p : PPort) (rx : Bool) (lane : Fin 16)
  | laneErrorWindow (p : PPort) (lane : Fin 16)
  | spareReq (k : Comb) (p : LPort) (lane : Fin 16)
  | spareAck (k : Comb) (p : LPort) (lane : Fin 16)
  | spareTrainDone (p : PPort) (frame : Word)
  | spareSwitch (k : Comb) (p : LPort) (lane : Fin 16) (frame : Word)
  | spareSwitchFrame (p : PPort) (rx : Bool)
  | wagJobWrite (f : Fn) (k : Comb) (j : JobIx) (value : DWord)
  | wagLeaseWrite (f : Fn) (k : Comb) (rx : Bool) (p : LPort) (slot : Fin 512) (value : BitVec 16)
  | leaseCommit (f : Fn) (k : Comb) (j : BitVec 4)
  | leaseRelease (f : Fn) (k : Comb) (j : BitVec 4)
  | localTxSlot (k : Comb) (p : LPort)
  | transitFlitReceive (k : Comb) (p : LPort) (flit : Flit)
  | transitTxSlot (k : Comb) (p : LPort)
  | dataFlitReceive (k : Comb) (p : LPort) (flit : Flit)
  | flitWriteVisible (k : Comb) (flow : Nat)
  | alarmReceive (k : Comb) (p : LPort) (rec : AlarmRec)
  | voteRecordReceive (k : Comb) (p : LPort) (rec : VoteRec)
  | verdictRecordReceive (k : Comb) (p : LPort) (rec : VoteRec)
  | abortedExpire (k : Comb) (j : JobIx)
  | wireFrameReceive (k : Comb) (p : LPort) (flit : Flit)
  -- later rows of the table
  | hostLinkUp (gts : Nat) (width : Nat)
  | keyProg (f : Fn) (set : Fin 2)
  | spdmSessionEstablish (chan : SpdmChan)
  | cancelUpdate
  deriving DecidableEq, Repr

end Sys2Proof
end

