-- ==== Sys2Proof/Decode.lean ====
section
/-! DEFINITION. The command a word spells. The table of spec/opcode_table.json gives no row any bits (every row's
"fields" is empty), so no word spells a command by the table. The words of a comb program have an encoding of their own
(R114, R115), and `seqDecode` reads it. -/

namespace Sys2Proof

/-- The command that a word of nbits bits spells by the table's bits: none, since no row has bits. -/
def decodeTableWord (_nbits _w : Nat) : Option Instr := none

/-- The instruction that a sequencer word spells on comb k (R114, R115): none where an RSV bit is set, the opcode is not
listed, or PEN is set on an instruction marked "no PEN". -/
def seqDecode (k : Comb) (w : DWord) : Option Instr :=
  let h : PredF := ⟨w.getLsbD 13, ⟨(w.extractLsb' 8 4).toNat, (w.extractLsb' 8 4).isLt⟩, w.getLsbD 12⟩
  let a : SReg := ⟨(w.extractLsb' 16 5).toNat, (w.extractLsb' 16 5).isLt⟩
  let b : SReg := ⟨(w.extractLsb' 21 5).toNat, (w.extractLsb' 21 5).isLt⟩
  let c : SReg := ⟨(w.extractLsb' 26 5).toNat, (w.extractLsb' 26 5).isLt⟩
  let imm := w.extractLsb' 32 32
  let target : PredIx := ⟨(imm.extractLsb' 0 4).toNat, (imm.extractLsb' 0 4).isLt⟩
  if w.extractLsb' 14 2 ≠ 0 ∨ w.getLsbD 31 = true then none else
  match (w.extractLsb' 0 8).toNat with
  | 0x00 => some (.nop k h)
  | 0x01 => if h.pen then none else some (.endProg k h)
  | 0x02 => some (.jump k h imm)
  | 0x03 => some (.bnz k h a imm)
  | 0x04 => some (.loop k h a imm)
  | 0x05 => if h.pen then none else some (.beatDone k h)
  | 0x06 => if h.pen then none else some (.seqFence k h (imm.extractLsb' 0 2))
  | 0x20 => some (.ldi k h a imm)
  | 0x21 => some (.ldhi k h a imm)
  | 0x22 => some (.seqAdd k h a b c)
  | 0x23 => some (.seqAddi k h a b imm)
  | 0x24 => some (.seqSub k h a b c)
  | 0x25 => some (.seqMul k h a b c)
  | 0x26 => some (.seqAnd k h a b c)
  | 0x27 => some (.seqOr k h a b c)
  | 0x28 => some (.seqXor k h a b c)
  | 0x29 => some (.seqShl k h a b (imm.extractLsb' 0 6))
  | 0x2A => some (.seqShr k h a b (imm.extractLsb' 0 6))
  | 0x2B => some (.seqLd k h a b imm)
  | 0x2C => some (.seqSt k h a b imm)
  | 0x2D => some (.rdbeat k h a)
  | 0x2E => some (.rdhum k h a)
  | 0x40 => some (.pcheck k h b c target (imm.extractLsb' 4 4))
  | 0x41 => some (.pvote k h (imm.extractLsb' 0 16))
  | 0x42 => some (.psem k h b target (imm.getLsbD 4) (imm.extractLsb' 16 12))
  | 0x43 => some (.pset k h target (imm.getLsbD 4))
  | 0x44 => some (.fclr k h)
  | 0x60 => some (.move k h b ⟨(imm.extractLsb' 0 2).toNat, (imm.extractLsb' 0 2).isLt⟩)
  | 0x61 => some (.cell k h b c)
  | 0x62 => some (.hild k h b c (imm.extractLsb' 0 12))
  | 0x80 => some (.semSet k h b imm)
  | 0x81 => some (.semAdd k h b imm)
  | 0x82 => some (.semWaitGe k h b imm)
  | 0x83 => some (.semWaitEq k h b imm)
  | _ => none

end Sys2Proof
end

