-- ==== Sys2Proof/Config.lean ====
section
/-! DEFINITION. What the spec leaves open or defines by reference to another standard: opaque constants, so that no
proof can see a value, and every claim holds for all of them. -/

namespace Sys2Proof.Config

/-- Free bits: the n-th free value of the run (R103, R164, R201 and every other undefined value). -/
opaque freeValue : Nat → BitVec 512

/-- The generators of R201: the next state, the 16- and 32-bit draws of a state, and the state of lane l of unit u that no reseed
has loaded. -/
opaque genNext : BitVec 128 → BitVec 128
opaque genDraw16 : BitVec 128 → BitVec 16
opaque genDraw32 : BitVec 128 → BitVec 32
opaque genStart : Nat → Nat → BitVec 128

/-- Free bytes: byte i of the n-th undefined store range (R164). -/
opaque freeByte : Nat → Nat → Byte

/-- The approximate functions of R226 on finite inputs whose value the spec does not state (log entry 2). -/
opaque approxExp : Word → Word
opaque approxExp2 : Word → Word
opaque approxLog : Word → Word
opaque approxRcp : Word → Word
opaque approxRsqrt : Word → Word
opaque approxTanh : Word → Word
opaque approxSigmoid : Word → Word
opaque approxGelu : Word → Word

/-- The Gaussian draw z of R301 from its two draws, within 2⁻²⁰. -/
opaque gauss : Word → Word → Word

/-- SHA-512 (FIPS 180-4), referred to and not defined by the spec. -/
opaque sha512 : Bytes → BitVec 512
/-- Ed25519 verification of a 64-byte signature under a public key. -/
opaque ed25519Verify : BitVec 256 → Bytes → Bytes → Bool
/-- The Ed25519 public key of a seed, and a signature under it. -/
opaque ed25519Pub : BitVec 256 → BitVec 256
opaque ed25519Sign : BitVec 256 → Bytes → Bytes
/-- HMAC-SHA-512 of a message under a key. -/
opaque hmacSha512 : Bytes → Bytes → BitVec 512
/-- AES-256-GCM (NIST SP 800-38D): byte i of the key stream of a key and nonce, and the 16-byte tag over additional data and
ciphertext. -/
opaque gcmStream : BitVec 256 → BitVec 96 → Nat → Byte
opaque gcmTag : BitVec 256 → BitVec 96 → Bytes → Bytes → Vector Byte 16
/-- Bytes under the key stream: encryption and decryption. -/
def gcmMask (key : BitVec 256) (nonce : BitVec 96) (bs : Bytes) : Bytes := bs.mapIdx fun i b => b ^^^ gcmStream key nonce i
/-- Sealing: the ciphertext followed by its tag. -/
def gcmSeal (key : BitVec 256) (nonce : BitVec 96) (aad plain : Bytes) : Bytes :=
  gcmMask key nonce plain ++ (gcmTag key nonce aad (gcmMask key nonce plain)).toList
/-- Opening a ciphertext with its tag; `none` when the tag fails. -/
def gcmOpen (key : BitVec 256) (nonce : BitVec 96) (aad body : Bytes) : Option Bytes :=
  let c := body.take (body.length - 16)
  if body.drop (body.length - 16) = (gcmTag key nonce aad c).toList then some (gcmMask key nonce c) else none
/-- HKDF-SHA-512 over an input keying material, a salt and an info string: byte i of its output. -/
opaque hkdfByte : Bytes → Bytes → Bytes → Nat → Byte
/-- X25519 shared secret of a private key and a public key, and the public key of a private key. -/
opaque x25519 : BitVec 256 → BitVec 256 → BitVec 256
opaque x25519Pub : BitVec 256 → BitVec 256

/-- The UDS fuse (R447) and the digest of the boot ROM (R448). -/
opaque uds : BitVec 256
opaque bootRomDigest : BitVec 512
/-- The bytes of a crown sideband message, whose layout the spec does not give: a claim or a heartbeat, its epoch and its die. -/
opaque sidebandBytes : Bool → Nat → Nat → Bytes
/-- Fuses written at module test (R447): the debug state and the hash of the debug authority's key. -/
opaque fusedDebugState : BitVec 2
opaque dbgAuth : BitVec 512
/-- The boot ROM's stored hash of firmware-signing key index i (R560). -/
opaque fwKeyHash : Nat → BitVec 512

/-- AES-256-XTS of IEEE 1619 (R340) on one 16-byte block: K1, K2, tweak, block number; and its inverse. -/
opaque xtsEncrypt : BitVec 256 → BitVec 256 → BitVec 128 → Nat → BitVec 128 → BitVec 128
opaque xtsDecrypt : BitVec 256 → BitVec 256 → BitVec 128 → Nat → BitVec 128 → BitVec 128

/-- What a DRAM byte holds before anything is stored there, by super, device offset and power cycle. -/
opaque dramByte : Nat → Nat → Nat → Byte
/-- The 16 check bytes of the Reed–Solomon code over 128 data bytes (R310), whose generator the spec does not give. -/
opaque rsCheck : Bytes → Bytes
/-- What the Reed–Solomon decoder makes of an error pattern beyond the limits that R310 states, with no die or one die
erased: none where it detects the error, else the code word by which its result differs from the stored line. -/
opaque rsFar : BitVec 1152 → Option (Fin 16) → Option (BitVec 1152)
/-- Which byte of the 144 of a line lies where on the 16 dies, 9 on each (R308): byte b lies on die (dieLayout b) / 9. -/
opaque dieLayout : Equiv.Perm (Fin 144)
/-- The rows that fail the n-th march test of the supers, each as 512 × row + 16 × channel + bank (R329, R562). -/
opaque marchRows : Nat → List (Super × BitVec 24)
/-- The counter-cache set a node falls in (R350). -/
opaque cacheSet : Nat → Nat
/-- The number of pinned nodes (levels 5–8) in a counter-cache set (R350). -/
opaque pinnedWays : Nat → Nat
/-- DETAIL of an event record of a type and cause for which no rule gives it (R108). -/
opaque openDetail : Byte → Byte → BitVec 56
/-- The I3C identity words: provisioned ID, device characteristics, maximum data speed (R566). -/
opaque i3cPid : BitVec 48
opaque i3cDcr : Byte
opaque i3cBcr : Byte
opaque i3cMxds : BitVec 16
/-- The boot flash as the module test left it (R557). -/
opaque flashByte : Nat → Byte
/-- The certificates of slot 0 that the flash holds, root to DeviceID (R449, R557); the signed part of an alias certificate, whose
encoding the spec does not give: the alias key, the four digests, the security version and the debug state. -/
opaque vendorCertificates : Bytes
opaque aliasCertBody : BitVec 256 → List (BitVec 512) → BitVec 7 → BitVec 2 → Bytes

end Sys2Proof.Config
end

