-- ==== Sys2Proof/Machine/State.lean ====
section
/-! DEFINITION. The state of the module, as plain data: every register, queue, store and mode the spec names, the queue
of waiting commands, and two fields of the model's own (the output trace and the free-value counter). -/

namespace Sys2Proof.Machine

/-- A sparse memory: (address, byte) pairs, addresses strictly rising, no entry 0; an unlisted address reads 0. -/
abbrev Mem := List (Nat × Byte)

/-- A sparse table over α: (key, value) pairs, keys strictly rising, no entry equal to the table's default. -/
abbrev Tab (α : Type) := List (Nat × α)

/-- A W1C status bit with its companion event count (R7, R85). `seen` bit f: function f's latest read of the register
returned the bit and hardware has not set it since. -/
structure Sticky where
  on   : Bool := false
  cnt  : Nat := 0
  seen : BitVec 9 := 0
  deriving DecidableEq, Repr

/-- The predicate states of R123. -/
inductive PState where
  | isFalse | isTrue | pending
  deriving DecidableEq, Repr

/-- How a pending predicate will resolve (R128–R130). -/
inductive Arm where
  | none
  | finite (outstanding : Nat)
  | decision (sem : Nat)
  | resolved (value : Bool)
  | verdict (mask : BitVec 16) (tag : BitVec 16) (posted : Bool)
  deriving DecidableEq, Repr

/-- An operation block in a cell's queue with the offset of the CELL instruction that dispatched it (R160, R163). -/
structure OpBlock where
  bytes  : Bytes
  cellPc : Word
  sq     : Nat
  deriving DecidableEq, Repr

/-- What a running operation writes: a range of the cell store or of the comb store, a vector register or its first n elements,
a statistics record (R164). -/
inductive Dest where
  | store (lo len : Nat)
  | comb (lo len : Nat)
  | vreg (r : Nat)
  | vpart (r n : Nat)
  | stats (rec : Nat)
  deriving DecidableEq, Repr

/-- An operation an engine of the cell runs, with its destinations (R161, R164) and what it writes to the cell store when it
completes: its histogram records (R213). -/
structure Running where
  engine : Engine
  block  : OpBlock
  dests  : List Dest
  late   : List (Nat × Bytes) := []
  deriving DecidableEq, Repr

/-- A transfer block on a forager (R119) with the instruction that issued it. -/
structure Transfer where
  block : Bytes
  movePc : Word
  spec  : PredF
  held  : Bool
  issue : Nat
  deriving DecidableEq, Repr

/-- What a held entry writes (R136). -/
inductive HeldKind where
  | ppa (ppa : Nat) (data : Bytes)
  | flits (flow start : Nat) (last : Bool) (flits : List (Bytes × Nat))
  | host (addr : DWord) (data : Bytes) (clear : Bool) (refill : Nat)
  | semOp (sem : Nat) (add : Bool) (value : DWord)
  deriving DecidableEq, Repr

/-- One entry of the retention buffer: its write, the instruction that issued it, the predicate and sense under which
that instruction executed, the reserved bytes, and how far it has gone (R136–R139). -/
structure Held where
  kind   : HeldKind
  issue  : Nat
  pc     : Word
  spec   : PredF
  bytes  : Nat
  filled : Bool
  deriving DecidableEq, Repr

/-- A write that has left for its destination and is not acknowledged (R120, R138, R140): a host write or a memory write,
the program and instruction that issued it, and for an entry of the retention buffer its 4 KiB granule. -/
structure OutWrite where
  host  : Bool
  prog  : Nat
  issue : Nat
  held  : Option Nat
  deriving DecidableEq, Repr

/-- The COMPUTE descriptor a program runs for: partition, ring and descriptor number (R109). -/
structure RunDesc where
  part : Part
  ring : Ring
  idx  : Word
  deriving DecidableEq, Repr

/-- The hum of one router and its beat grid (R46–R74). Times are in 1/80 ns: 64 is a router clock, 1,024 a slot, 2^19 a
frame. `carry`: slewed millionths of a unit not yet a whole clock (R53); `due`: an admitted timetable whose origin this comb
has not reached (R69); `missed`: the boundary, with its marker, at which another comb of the partition has overrun (R72). -/
structure Hum where
  time       : Nat := 0
  state      : BitVec 2 := 0
  parent     : BitVec 4 := 15
  offset     : Int := 0
  slew       : Int := 0
  carry      : Int := 0
  okRun      : Nat := 0
  badRun     : Nat := 0
  lockLost   : Sticky := {}
  slip       : Sticky := {}
  overrun    : Sticky := {}
  slackLow   : Sticky := {}
  beatFrames : BitVec 12 := 0
  cfgFrames : BitVec 12 := 0
  active     : Bool := false
  origin     : BitVec 48 := 0
  beat       : BitVec 48 := 0
  beatStart  : Nat := 0
  marker     : Option Nat := none
  due        : Bool := false
  missed     : Option (Nat × Option Nat) := none
  lastSlack  : Nat := 0
  warn       : BitVec 6 := 4
  deriving DecidableEq, Repr

/-- The sequencer of one comb, its predicates, retention buffer and forager queues (R109–R147). `progNo`: which of the
programs that it has run is the current one. -/
structure Seq where
  runahead   : BitVec 7 := 64
  state      : BitVec 2 := 0
  stall      : BitVec 4 := 0
  squash     : Sticky := {}
  retainFull : Sticky := {}
  progFault  : Sticky := {}
  pc         : Word := 0
  sqIndex    : Word := 0
  progPpa    : DWord := 0
  progLen    : Word := 0
  progStep   : DWord := 0
  running    : Option RunDesc := none
  wait       : Option (Nat × DWord × Bool × Bool) := none
  waiting    : List RunDesc := []
  regs       : Vector DWord 32 := .replicate 32 0
  preds      : Vector PState 16 := .replicate 16 .isFalse
  arms       : Vector Arm 16 := .replicate 16 .none
  finite     : Bool := false
  issued     : Nat := 0
  specs      : List (Nat × PredIx) := []
  retain     : List Held := []
  queues     : Vector (List Transfer) 4 := .replicate 4 []
  unacked    : List OutWrite := []
  progNo     : Nat := 0
  ending     : Bool := false
  squashFirst : Option PredIx := none
  squashBytes : Nat := 0
  wdogFrames : Nat := 0
  wdogIssue  : Nat := 0
  deriving DecidableEq, Repr

/-- What a bank of the tile buffer holds (R153, R154): the tile at an offset of the cell store, its elements row by row as the fill
took them. -/
structure Bank where
  base : Nat
  els  : List Word
  deriving DecidableEq, Repr

/-- One physical cell: its stores, its dispatch queue and the operation each engine runs (R157, R161, R216, R247).
Vector element e of register v is key 4096 v + e; word w of record i is key 2 i + w. -/
structure CellState where
  store   : Mem := []
  vregs   : Tab Word := []
  stats   : Tab Word := []
  queue   : List OpBlock := []
  running : List Running := []
  banks   : Vector (Option Bank) 8 := .replicate 8 none
  deriving DecidableEq, Repr

/-- The registers of CELL_STATUS, CELL_EVCNT and CELL_ERRLOG (R185) and a swap in progress (R180). -/
structure CellRegs where
  failed   : BitVec 21 := 0
  degraded : Bool := false
  ce       : Sticky := {}
  ue       : Sticky := {}
  swap     : Sticky := {}
  errCell  : BitVec 5 := 0
  errStore : BitVec 3 := 0
  errOff   : BitVec 24 := 0
  errTag   : Word := 0
  swapping : Option PCell := none
  deriving DecidableEq, Repr

/-- The generators of a unit (R201, R202): the seed that its latest reseed loaded (none before the first), and how many draws
each lane has taken since. -/
structure Gens where
  seed  : Option (BitVec 256) := none
  drawn : Tab Nat := []
  deriving DecidableEq, Repr

/-- The entropy source and reseed registers of one comb (R204–R207). `seed`: the conditioned seed kept ready while `ready`. -/
structure Rng where
  state  : BitVec 2 := 0
  ready  : Bool := false
  seed   : BitVec 256 := 0
  fails  : Nat := 0
  rct    : Sticky := {}
  apt    : Sticky := {}
  skip   : Sticky := {}
  reseeds : Nat := 0
  step   : DWord := 0
  deriving DecidableEq, Repr

/-- A strand-port: its state code (R377), run of uncorrectable codewords (R379), elastic fill for each direction, TX first (R56), whether it stays DOWN
(R379), the latest hum-sync record received (R404) and the lane records waiting to be sent (R381). -/
structure StrandPort where
  state   : BitVec 2 := 0
  uncorr  : Nat := 0
  fill    : Vector Nat 2 := .replicate 2 2
  stuck   : Bool := false
  lastTx  : DWord := 0
  lastRx  : DWord := 0
  laneRecs : List (BitVec 2 × Nat × Word) := []
  deriving DecidableEq, Repr

/-- A vote part that has arrived at a router: `none` is this module's comb position, `some p` a child port (R409). -/
structure VotePart where
  src  : Nat
  port : Bool
  val  : Bool
  tag  : BitVec 16
  deriving DecidableEq, Repr

/-- One job entry of a router (R382, R411) with the router's own state for the job: the fabric key (an identity, the
value itself is never visible, R450), the flit sequence counter (R395), EPOCH and vote parts (R409, R410). -/
structure JobEntry where
  jobId   : Word := 0
  role    : BitVec 2 := 0
  vparent : BitVec 4 := 15
  vchild  : BitVec 6 := 0
  aports  : BitVec 6 := 0
  leased  : Bool := false
  aborted : Bool := false
  keyed   : Bool := false
  fkgen   : BitVec 6 := 0
  fkey    : BitVec 256 := 0
  seq     : DWord := 0
  epoch   : Word := 0
  abortAt : Nat := 0
  votes   : List VotePart := []
  voteAt  : Nat := 0
  deriving DecidableEq, Repr

/-- A flit waiting to be sent on a flow (R396, R399, R400, R402): of a FABRIC descriptor, or of a MOVE of program `prog`,
`held` by the retention buffer before; `sem`: the semaphore that counts the transfer it completes (R119). -/
structure QFlit where
  dstSpace : BitVec 2
  dst      : DWord
  data     : Bytes
  tokens   : Nat
  fromBeat : Nat
  xfer     : Nat
  desc     : Option RunDesc
  prog     : Nat := 0
  held     : Bool := false
  sem      : Option Nat := none
  last     : Bool
  late     : Bool := false
  deriving DecidableEq, Repr

/-- An accepted flit in the ejection buffer of a router: what it writes and the tokens that count when it is visible (R397,
R398). -/
structure EjFlit where
  space  : BitVec 2
  dst    : DWord
  data   : Bytes
  tokens : Nat
  deriving DecidableEq, Repr

/-- A flow of an admitted timetable on this comb (R391, R400, R403). -/
structure FlowRt where
  index     : Nat
  tx        : Bool
  queue     : List QFlit := []
  sent      : Nat := 0
  lastSeq   : Option DWord := none
  visible   : List EjFlit := []
  beatTokens : Nat := 0
  dropped   : Nat := 0
  deferred  : Nat := 0
  beatFlits : Nat := 0
  deriving DecidableEq, Repr

/-- The router of one comb (R367–R411). Lease key: 512 × (6 × dir + p) + slot, dir 1 for RX (R383). -/
structure Router where
  ports   : Vector StrandPort 6 := .replicate 6 {}
  jobs    : Vector JobEntry 12 := .replicate 12 {}
  lease   : Tab (BitVec 16) := []
  cmtErr  : BitVec 4 := 0
  alarmTx : Sticky := {}
  alarmRx : Sticky := {}
  authFail : Sticky := {}
  flitLost : Sticky := {}
  dispOvf : Sticky := {}
  linkDown : Sticky := {}
  seqExh  : Sticky := {}
  misroute : Sticky := {}
  cwUncorr : Sticky := {}
  laneWarn : Sticky := {}
  spareSwap : Sticky := {}
  flows   : List FlowRt := []
  forward : List (Nat × Flit) := []
  alarms  : List (JobIx × AlarmRec × BitVec 6) := []
  votesOut : List (JobIx × VoteRec × BitVec 6) := []
  verdictsOut : List (JobIx × VoteRec × BitVec 6) := []
  txFlits : DWord := 0
  rxFlits : DWord := 0
  deriving DecidableEq, Repr

/-- Everything of comb k (R14). -/
structure CombState where
  assigned  : Bool := false
  psize     : BitVec 2 := 0
  pbase     : Part := 0
  subst     : BitVec 5 := 31
  grpPwr    : BitVec 4 := 0
  sparePwr  : Bool := false
  seqPwr    : Bool := false
  routerPwr : Bool := false
  hum       : Hum := {}
  seq       : Seq := {}
  cells     : Vector CellState 21 := .replicate 21 {}
  cellRegs  : CellRegs := {}
  rng       : Rng := {}
  gens      : Gens := {}
  vecSat    : Sticky := {}
  vecCollide : Sticky := {}
  rowEmpty  : Sticky := {}
  rowIgnored : Sticky := {}
  rowClipWr : Sticky := {}
  clip      : Word := 0x7F800000
  clipSealed : Bool := false
  store     : Mem := []
  router    : Router := {}
  deriving DecidableEq, Repr

/-- A Hild run (R271). `prog`: the program that issued a HILD; `gate`: its predicate and sense while it is gated; `desc`:
the UPDATE descriptor, if any. -/
structure HildRun where
  comb   : Comb
  first  : Nat
  count  : Nat
  step   : DWord
  stats  : DWord
  prog   : Nat
  gate   : Option PredF
  desc   : Option RunDesc
  deriving DecidableEq, Repr

/-- A staged write of a gated run: super-local PPA and bytes (R295). -/
structure StagedWrite where
  ppa  : Nat
  data : Bytes
  deriving DecidableEq, Repr

/-- The run the unit executes: the group table entries and the programs it read at its start (R277), its current group by
position, groups done, the staged result buffer and how many whole groups it holds, the first poisoned line, the bytes moved, and
what the current group's statistics record will say (R274, R295–R298, R303). `computed`: the current group's results exist. -/
structure CurRun where
  run     : HildRun
  ents    : Bytes := []
  progs   : Bytes := []
  next    : Nat
  done    : Nat := 0
  staged  : List StagedWrite := []
  inBuffer : Nat := 0
  computed : Bool := false
  poison  : Option Nat := none
  bytes   : Nat := 0
  dw2     : Word := 0
  w2      : Word := 0
  counted : Nat := 0
  deriving DecidableEq, Repr

/-- The element a Hild lane executes: registers r0–r15 and what its sources and streams hold (R284, R286). `badSlots`:
streams whose line is poisoned; `outs`: what its ST instructions stored; `nonfin`: stores that met a NaN or an infinity. -/
structure LaneState where
  regs    : Vector Word 16 := .replicate 16 0
  scalars : Vector Word 16 := .replicate 16 0
  stepT   : Word := 0
  catchup : Word := 0
  streams : Vector Word 8 := .replicate 8 0
  fmts    : Vector (BitVec 3) 8 := .replicate 8 0
  outs    : List (Nat × Word) := []
  lane    : Nat := 0
  isPriv  : Bool := false
  voided  : Bool := false
  badSlots : BitVec 8 := 0
  nonfin  : Nat := 0
  ended   : Bool := false
  deriving DecidableEq, Repr

/-- The Hild unit of one super (R271–R307). `discarded`: the STEPs of runs discarded under R295 (R514). -/
structure Hild where
  gtab    : DWord := 0
  ptab    : DWord := 0
  commit  : DWord := 0
  state   : BitVec 2 := 0
  queue   : List HildRun := []
  cur     : Option CurRun := none
  group   : BitVec 12 := 0
  nonfinite : Sticky := {}
  discard : Sticky := {}
  rowcnt  : Sticky := {}
  poison  : Sticky := {}
  seedFail : Sticky := {}
  isSealed : Bool := false
  discarded : List DWord := []
  dp      : List (Nat × Word × Word) := []
  step    : Option DWord := none
  rounding : Gens := {}
  noise   : Gens := {}
  lane    : LaneState := {}
  deriving DecidableEq, Repr

/-- An XTS key pair K1, K2 (R335). -/
structure XtsKeys where
  k1 : BitVec 256 := 0
  k2 : BitVec 256 := 0
  deriving DecidableEq, Repr

/-- A key slot (R335–R338): its state code, the content key delivered for it, the XTS pair and KM of the slot table, and the
copies of the pair in the line ciphers of comb node k and of the base die (R336). -/
structure Slot where
  state : BitVec 2 := 0
  key   : BitVec 256 := 0
  xts   : XtsKeys := {}
  km    : BitVec 256 := 0
  node  : XtsKeys := {}
  base  : XtsKeys := {}
  deriving DecidableEq, Repr

/-- One direction of a die-to-die link (R364, R365): its key, the number of the next flit sent and of the next expected, and
whether a failed flit has ended the use of the key. -/
structure LinkDir where
  key  : BitVec 256 := 0
  sent : DWord := 0
  next : DWord := 0
  dead : Bool := false
  deriving DecidableEq, Repr

/-- What a request to a super asks for: the line read, bytes written, or a partial write with the writes of the Hild unit to
its sector that land before it does (R352, R353). -/
inductive MemOp where
  | read
  | write (data : Bytes)
  | partial' (data : Bytes) (between : List (Nat × Bytes))
  deriving DecidableEq, Repr

/-- A request at a super: who issued it, the device offset, what it asks, and the hum time of the super's comb at which it
arrived (R497). -/
structure MemReq where
  who : Requester
  off : Nat
  op  : MemOp
  time : Nat
  deriving DecidableEq, Repr

/-- Everything of super k: what its lines hold, as plaintext by device offset, with the bits that DRAM now returns wrong by
line; version counters per sector, the counter tree and its keys, the key slots, requests waiting at the super link by
requester, repair and scrub state, link and registers (R308–R366). Node key: 2^24 × level + index. `fill`: the power cycle
that DRAM contents no one wrote belong to. -/
structure SuperState where
  mem     : Mem := []
  dramErr : Tab (BitVec 1152) := []
  fill    : Nat := 0
  ctr     : Tab Nat := []
  nodeCtr : Tab Nat := []
  kTree   : BitVec 256 := 0
  kPoison : BitVec 256 := 0
  cache   : List (Nat × Bool) := []
  poison  : List Nat := []
  badNodes : List Nat := []
  zeroed  : List (Nat × Nat) := []
  tree    : BitVec 2 := 0
  slots   : Vector Slot 64 := .replicate 64 {}
  toScrub : List (KeyId × Nat × Nat) := []
  dataCur : Nat := 0
  sealCur : Nat := 0xE50000000
  powered : Bool := false
  state   : BitVec 2 := 0
  hot     : Bool := false
  dieMark : Bool := false
  die     : BitVec 4 := 0
  ce      : Sticky := {}
  ue      : Sticky := {}
  ppr     : Sticky := {}
  pprExh  : Sticky := {}
  retry   : Sticky := {}
  errOff  : BitVec 36 := 0
  errSrc  : BitVec 3 := 0
  errSealed : Bool := false
  errSet  : Bool := false
  scrub   : BitVec 8 := 24
  scrubPos : Nat := 0
  refreshes : Nat := 0
  spares  : Tab Nat := []
  remap   : Tab Nat := []
  lineCe  : Tab Nat := []
  repairing : Option Nat := none
  repairQ : List Nat := []
  repairLog : List Nat := []
  scrubLog : List (Nat × Bool) := []
  waiting : Vector (List MemReq) 6 := .replicate 6 []
  turn    : Fin 6 := 0
  link    : Vector LinkDir 2 := .replicate 2 {}
  tagFail : Sticky := {}
  nodeFail : Sticky := {}
  ctrExh  : Sticky := {}
  ctrWarn : Sticky := {}
  keyRefused : Sticky := {}
  lateDrop : Sticky := {}
  mergeRetry : Sticky := {}
  dbgBlock : Sticky := {}
  linkAuth : Sticky := {}
  hits    : Word := 0
  misses  : Word := 0
  perrOff : BitVec 36 := 0
  perrKind : BitVec 3 := 0
  perrLevel : BitVec 4 := 0
  perrKey : BitVec 6 := 0
  replays : Nat := 0
  linkDead : Bool := false
  resetting : Bool := false
  hild    : Hild := {}
  deriving DecidableEq, Repr

/-- A fetched descriptor's progress (R96). -/
inductive DStage where
  | fetched | started | active | done
  deriving DecidableEq, Repr

/-- A fetched descriptor and, once decided, its completion (R86, R101). `combsLeft`: combs, supers or shards that still
owe a part; `unsent`: supers whose Hild queue has yet to take a run (R273); `moved`: bytes or flits moved; `begun`: it has started; `held`: a SMOKE whose record follows the
reset (R493); `blocked`: a CHECKPOINT that waits for a running one (R518). -/
structure Desc where
  idx    : Word
  bytes  : Bytes
  stage  : DStage := .fetched
  status : Byte := 0
  detail : Word := 0
  detail2 : BitVec 56 := 0
  comb   : Comb := 0
  combsLeft : List Comb := []
  unsent : List Comb := []
  moved  : Nat := 0
  fails  : List (Byte × Word × BitVec 56 × Comb) := []
  written : Nat := 0
  order   : Nat := 0
  begun   : Bool := false
  held    : Bool := false
  blocked : Bool := false
  deriving DecidableEq, Repr

/-- A submission and completion ring pair (R84). `before`: STATE before the latest stop (R496); `pass`, `passCq`: LOG2_SIZE
and the completion ring's base in the pass that the latest enable began, under which its records are written. -/
structure RingState where
  sqBase  : DWord := 0
  cqBase  : DWord := 0
  dbAddr  : DWord := 0
  headAddr : DWord := 0
  epoch   : Word := 0
  enable  : Bool := false
  log2    : BitVec 5 := 6
  pollDiv : BitVec 6 := 0
  consumed : Word := 0
  state   : BitVec 2 := 0
  staleDb : Sticky := {}
  fault   : Sticky := {}
  cqFull  : Sticky := {}
  dbCount : Word := 0
  dbEpoch : Word := 0
  head    : Word := 0
  written : Word := 0
  fetching : Nat := 0
  polled  : Bool := false
  afterWait : Bool := false
  before  : BitVec 2 := 0
  pass    : BitVec 5 := 6
  passCq  : DWord := 0
  descs   : List Desc := []
  deriving DecidableEq, Repr

/-- An event ring (R84, R108). -/
structure EvRing where
  base    : DWord := 0
  headAddr : DWord := 0
  epoch   : Word := 0
  enable  : Bool := false
  log2    : BitVec 5 := 6
  written : Word := 0
  lost    : Sticky := {}
  stale   : Sticky := {}
  lostNow : Word := 0
  head    : Word := 0
  polled  : Bool := false
  deriving DecidableEq, Repr

/-- A flow descriptor of a timetable image (R391). -/
structure Flow where
  dispatch : Bool
  defer    : Bool
  pos      : Nat
  dx : Int
  dy : Int
  dz : Int
  x0 : Nat
  x1 : Nat
  y0 : Nat
  y1 : Nat
  z0 : Nat
  z1 : Nat
  first  : Nat
  count  : Nat
  stride : Nat
  tokenBytes : Nat
  rxComb : Bool
  rxSem  : Nat
  rxSemEn : Bool
  rxFlits : Nat
  rxBase : Nat
  txStat : Nat
  rxStat : Nat
  deriving DecidableEq, Repr

/-- A timetable image's content (R67, R390). -/
structure Timetable where
  beatFrames : Nat
  origin : BitVec 48
  energy : Nat
  digest : BitVec 512
  flows  : List Flow
  deriving DecidableEq, Repr

/-- A key-table entry of a manifest (R458): KEY_ID, OWNER, KIND. -/
structure KeyEnt where
  id    : KeyId
  owner : Nat
  kind  : BitVec 2
  deriving DecidableEq, Repr

/-- A bound job manifest (R457, R458). -/
structure Manifest where
  jobId   : Word
  owners  : List (BitVec 256)
  recips  : List (BitVec 256)
  programs : List (BitVec 512)
  keys    : List KeyEnt
  groups  : List (Nat × Word)
  psize   : BitVec 2
  policy  : BitVec 2
  clearBudget : Nat
  clip    : Word
  ttDigest : BitVec 512
  hildDigest : BitVec 512
  digest  : BitVec 512
  deriving DecidableEq, Repr

/-- The context of a partition (R456–R473): `state` is the code 0 NONE, 1 BOUND, 2 READY, 3 ENDING. -/
structure Context where
  state   : BitVec 2 := 0
  man     : Option Manifest := none
  ctxKey  : BitVec 256 := 0
  ckptKey : Option (BitVec 256) := none
  shares  : List (Nat × BitVec 256) := []
  clearLeft : Nat := 0
  refills : Nat := 0
  seqs    : List (Nat × DWord) := []
  seqCkpt : DWord := 0
  verdicts : DWord := 0
  deriving DecidableEq, Repr

/-- One region table register (R318). -/
structure Region where
  kind  : BitVec 3 := 0
  pos   : BitVec 3 := 0
  keyId : BitVec 6 := 0
  share : BitVec 10 := 0
  deriving DecidableEq, Repr

/-- A recovery or teardown in progress (R491–R508). `scope` is the hive record's SCOPE code; `smokes`: the SMOKE
descriptors it serves, each with its HIVE address and whether it was absorbed (R504); `record`: the hive record once
captured; `again`: nodes that failed to verify at a super's reset exit (R501); `lost`: the descriptors in flight at an FLR (R101). -/
structure Recovery where
  domain : BitVec 4
  scope  : BitVec 2 := 0
  teardown : Bool := false
  captured : Bool := false
  unit   : Comb
  combs  : List Comb
  supers : List Super
  cause1 : Byte := 0
  alarm1 : Byte := 0
  unit1  : Word := 0
  cause2 : Byte := 0
  unit2  : Word := 0
  escalated : Bool := false
  drainTo : Bool := false
  byDesc : Bool := false
  byCmd  : Bool := false
  noHost : Bool := false
  smokes : List (RunDesc × DWord × Bool) := []
  record : Bytes := []
  hiveWritten : Bool := false
  again  : List (Super × Nat) := []
  lost   : List (Ring × Desc) := []
  seq    : BitVec 16 := 0
  frame  : Nat := 0
  humStop : DWord := 0
  beat   : BitVec 48 := 0
  origin : Word := 0
  deriving DecidableEq, Repr

/-- A shard record a checkpoint has written: what its manifest entry says (R527). -/
structure ShardEnt where
  shard  : Nat
  len    : Nat
  seq    : Nat
  recLen : Nat
  digest : BitVec 512
  deriving DecidableEq, Repr

/-- A running checkpoint (R513–R533). `auto`: 0 descriptor, 1 trigger, 2 salvage; `list` is empty while the standing list
has not arrived; `step` is s, `label` the step of the committed records; `wrote`: the shard records are written. -/
structure Ckpt where
  ring    : Option RunDesc
  auto    : Nat
  list    : Bytes := []
  step    : DWord := 0
  label   : DWord := 0
  salvage : Bool := false
  hold    : Bool := false
  id      : BitVec 256 := 0
  wrote   : Bool := false
  entries : List ShardEnt := []
  mseq    : Nat := 0
  moved   : Nat := 0
  deriving DecidableEq, Repr

/-- A running restore (R534–R536). -/
structure Restore where
  ring  : RunDesc
  list  : Bytes
  manifests : Bytes
  pass  : Nat
  deriving DecidableEq, Repr

/-- Early-warning window counts of R509, one per monitor, and windows since the last trigger. -/
structure EwCounts where
  counts : Vector Nat 7 := .replicate 7 0
  sinceTrigger : Nat := 16
  combIx : Vector Comb 7 := .replicate 7 0
  deriving DecidableEq, Repr

/-- Everything of partition k. -/
structure PartState where
  live    : Bool := false
  psize   : BitVec 2 := 0
  removing : Bool := false
  busyCmd : BitVec 2 := 0
  ctx     : Context := {}
  rings   : Vector RingState 16 := .replicate 16 {}
  evq     : EvRing := {}
  sems    : Tab DWord := []
  rgn     : Vector Region 16 := .replicate 16 {}
  locked  : Bool := false
  ready   : Bool := false
  mapErr  : BitVec 4 := 0
  hiveAddr : DWord := 0
  hiveWr  : Sticky := {}
  hiveDrop : Sticky := {}
  hiveSeq : BitVec 16 := 0
  hiveCopy : Bytes := []
  sum     : DWord := 0
  recov   : List Recovery := []
  stopped : Bool := false
  ew      : EwCounts := {}
  ckptList : DWord := 0
  auto    : Bool := false
  autoSalv : Bool := false
  ckptCount : BitVec 14 := 0
  ckptState : BitVec 2 := 0
  absorbed : Sticky := {}
  orphaned : Sticky := {}
  ckptDone : Nat := 0
  lastStep : BitVec 48 := 0
  ckpt    : Option Ckpt := none
  restore : Option Restore := none
  tt      : Option Timetable := none
  nextTt  : Option Timetable := none
  energy  : Word := 0
  peak    : Word := 0
  votes   : List VotePart := []
  lastCompute : DWord := 0
  fetchNo : Nat := 0
  deriving DecidableEq, Repr

/-- A host function (R415, R423, R425, R428–R435). `keySets` bit i: key set i is programmed; `mps`, `mrrs`: the codes of
Max_Payload_Size and Max_Read_Request_Size, 128 bytes × 2^code. -/
structure FnState where
  timeout : Sticky := {}
  cplBad  : Sticky := {}
  badMmio : Sticky := {}
  ideFail : Sticky := {}
  noIde   : Sticky := {}
  secure  : Bool := false
  keySets : BitVec 2 := 0
  activeSet : Nat := 0
  tdi     : BitVec 2 := 0
  d3      : Bool := false
  busMaster : Bool := false
  memSpace : Bool := false
  mps     : BitVec 3 := 0
  mrrs    : BitVec 3 := 2
  relaxed : Bool := true
  latch   : List (Reg × Word) := []
  deriving DecidableEq, Repr

/-- One die: its crown copy (R441), throttle causes (R552–R554), fuses (R447, R561), repair record (R565) and bridge
receiver (R366). Thermal flags: the die's own cause, its divide-by-4 request, and the DRAM causes of its supers. -/
structure DieState where
  crownEpoch : Word := 0
  crownDie : Die := 0
  region  : Bool := false
  uv      : Bool := false
  overpwr : Bool := false
  thermDie : Bool := false
  therm4  : Bool := false
  thermDram : BitVec 8 := 0
  temp    : Int := 0
  svn     : BitVec 7 := 0
  revoke  : BitVec 4 := 0
  unlocks : BitVec 8 := 0
  repair  : List Word := []
  groupAuth : Vector Sticky 4 := .replicate 4 {}
  hostAuth : Sticky := {}
  mgmtAuth : Sticky := {}
  deriving DecidableEq, Repr

/-- A spare substitution in progress on one direction of a port (R380): the lane, whether the spare is driven, and the
switch frame. -/
structure Subst where
  lane  : Fin 16
  ack   : Bool := false
  frame : Option Word := none
  deriving DecidableEq, Repr

/-- A physical fabric port (R411). -/
structure PortState where
  failedTx : BitVec 17 := 0
  failedRx : BitVec 17 := 0
  spareTx : BitVec 5 := 31
  spareRx : BitVec 5 := 31
  on      : Bool := false
  subTx   : Option Subst := none
  subRx   : Option Subst := none
  deriving DecidableEq, Repr

/-- An entry of the log the monitor prints (R571). -/
inductive LogEnt where
  | refused (what : String)
  | crown (epoch : Word) (die : Die)
  | boot (stage fail : Nat)
  deriving DecidableEq, Repr

/-- A journalled state change and whether a target write of it was accepted (R443). -/
structure JournalEnt where
  op      : BitVec 3
  part    : Part
  touched : Bool
  deriving DecidableEq, Repr

/-- The queens, the crown and the debug state (R440–R480). -/
structure Queen where
  epoch   : Word := 0
  die     : Die := 0
  q0      : BitVec 2 := 0
  q1      : BitVec 2 := 0
  sbSeq   : Word := 0
  rxSeq   : Option Word := none
  journal : List JournalEnt := []
  staleWr : Sticky := {}
  crownChg : Sticky := {}
  manRej  : Sticky := {}
  envRej  : Sticky := {}
  sbMac   : Sticky := {}
  dbgUnlock : Sticky := {}
  cmdBusy : Bool := false
  cmdErr  : BitVec 4 := 0
  challenge : Option (BitVec 256) := none
  unlocking : Bool := false
  dbgActive : Bool := false
  scope   : BitVec 3 := 0
  log     : List LogEnt := []
  repFull : Sticky := {}
  deriving DecidableEq, Repr

/-- The power domains that are on from stage ROM (R42, R562): the queens, PCIe, debug, the die NoCs, the two halves of the
die bridge. -/
structure FixedDomains where
  queens : BitVec 2 := 0
  pcie   : Bool := false
  debug  : Bool := false
  noc    : BitVec 2 := 0
  bridge : BitVec 2 := 0
  deriving DecidableEq, Repr

/-- The power controller, its registers and the references (R538–R556). -/
structure Power where
  rails   : BitVec 10 := 0x3FF
  pwrgd   : Bool := true
  thermtripN : Bool := true
  latched : Bool := false
  inputFaulted : Bool := false
  volt    : BitVec 16 := 0
  curr    : BitVec 16 := 0
  watts   : BitVec 16 := 0
  avg     : BitVec 16 := 0
  limit   : BitVec 11 := 1500
  limErr  : BitVec 2 := 0
  uv      : Sticky := {}
  therm   : Sticky := {}
  overpwr : Sticky := {}
  tDram   : Int := 0
  tDramSup : Super := 0
  tSup    : Vector Int 8 := .replicate 8 0
  frefLoss : Sticky := {}
  prefLoss : Sticky := {}
  pllUnlock : Sticky := {}
  frefOk  : Bool := false
  prefOk  : Bool := false
  frefLost : Bool := false
  prefLost : Bool := false
  fixed   : FixedDomains := {}
  deriving DecidableEq, Repr

/-- The reset that brought the module up (R562). -/
inductive BootKind where
  | powerOn | cold | warm
  deriving DecidableEq, Repr

/-- Boot, flash and recovery mode (R557–R573). -/
structure Boot where
  stage   : BitVec 4 := 0
  fail    : BitVec 4 := 0
  imgSvn  : BitVec 7 := 0
  kind    : BootKind := .powerOn
  boots   : BitVec 16 := 0
  busy    : Bool := false
  err     : BitVec 4 := 0
  toRecovery : Bool := false
  erased  : Bool := false
  flash   : Tab Byte := []
  staging : Nat := 0
  stageLen : Nat := 0
  buildId : DWord := 0
  commit  : Bool := false
  dQueen  : BitVec 512 := 0
  dSeq    : BitVec 512 := 0
  dHild   : BitVec 512 := 0
  cdi1    : BitVec 512 := 0
  deriving DecidableEq, Repr

/-- A PLDM platform event held for the BMC (R568). -/
structure PlatEvent where
  kind   : Byte
  cause  : Byte
  detail : BitVec 56
  deriving DecidableEq, Repr

/-- Management over I3C and the monitor (R566–R572). -/
structure Mgmt where
  i3cDyn  : Option (BitVec 7) := none
  eid     : Byte := 0
  events  : List PlatEvent := []
  evLost  : Nat := 0
  updMode : Bool := false
  updErased : Bool := false
  updOk   : Bool := false
  updHdr  : Bytes := []
  updGot  : Nat := 0
  verified : Bool := false
  trace   : Bool := false
  spdmDoe : Bool := false
  spdmMctp : Bool := false
  doeError : Bool := false
  deriving DecidableEq, Repr

/-- The event registers of PF0 (R511). -/
structure EvtRegs where
  resetBusy : Bool := false
  resetErr : BitVec 3 := 0
  resetPort : Option (Comb × LPort) := none
  resetSup : Option Super := none
  modState : BitVec 2 := 0
  recovery : Sticky := {}
  escalate : Sticky := {}
  drainTo : Sticky := {}
  wdog    : Sticky := {}
  ewTrip  : Sticky := {}
  lateFlit : Sticky := {}
  drain   : BitVec 16 := 50
  wdogLim : BitVec 16 := 2385
  ceThr   : BitVec 16 := 256
  slackThr : Byte := 4
  repairThr : Byte := 4
  margin  : Byte := 5
  trig    : BitVec 7 := 0x7F
  modlog  : DWord := 0
  deriving DecidableEq, Repr

/-- The module registers of the host port and the fabric (R50, R372, R373, R413, R436). -/
structure ModuleRegs where
  humRoot : Bool := true
  rootX   : BitVec 5 := 0
  rootY   : BitVec 5 := 0
  rootZ   : BitVec 5 := 0
  humEpoch : DWord := 0
  x       : BitVec 5 := 0
  y       : BitVec 5 := 0
  z       : BitVec 5 := 0
  dimX    : BitVec 5 := 0
  dimY    : BitVec 5 := 0
  dimZ    : BitVec 5 := 0
  attached : Bool := false
  mapEn   : BitVec 6 := 0
  zpSkip  : Bool := false
  znSkip  : Bool := false
  winBase : BitVec 10 := 0
  winDenied : Sticky := {}
  winAddr : BitVec 40 := 0
  linkUp  : Bool := false
  gts     : Nat := 0
  width   : Nat := 0
  perstN  : Bool := false
  vfEnable : Bool := false
  numVfs  : Nat := 0
  pairLinks : List (Comb × Comb) := []
  groupLinks : BitVec 4 := 0
  bridge  : Vector (Vector LinkDir 2) 6 := .replicate 6 (.replicate 2 {})
  evq     : EvRing := {}
  deriving DecidableEq, Repr

/-- What leaves the module: the model's own trace, newest first. -/
inductive Output where
  | completion (p : Part) (r : Ring) (addr : DWord) (rec : Bytes)
  | event (f : Fn) (addr : DWord) (rec : Bytes)
  | hostWrite (f : Fn) (addr : DWord) (data : Bytes) (relaxed : Bool)
  | hostRead (f : Fn) (addr : DWord) (len : Nat)
  | mmioData (f : Fn) (reg : Reg) (value : DWord)
  | mmioRefused (f : Fn) (isRead : Bool)
  | readReply (who : Requester) (status : Byte) (data : Bytes)
  | windowData (data : Bytes)
  | windowAbort
  | frame (k : Comb) (p : LPort) (link : Bytes) (flit : Option Flit)
  | record (k : Comb) (p : LPort) (type : Byte) (a : AlarmRec) (v : VoteRec)
  | humSync (k : Comb) (p : LPort) (rec : HumSync)
  | laneRec (k : Comb) (p : LPort) (op : BitVec 2) (lane : Nat) (frame : Word)
  | spdm (code status : Byte) (body : Bytes)
  | i3c (data : Bytes)
  | pldm (ok : Bool) (data : Bytes)
  | uart (words : List DWord) (err : Nat)
  | sideband (msg : Sideband) (seq : Word)
  | withT (request : Output)
  deriving DecidableEq, Repr

/-- A request of a function to the host: a read of some bytes with what it is for, or a posted write of n bytes and what it
says. -/
inductive HostItem where
  | read (addr : DWord) (len : Nat) (what : HostReadKind)
  | post (len : Nat) (what : Output)
  deriving DecidableEq, Repr

/-- The queues of the host port (R16): for each function its requests that wait to be issued and the reads it has issued
whose completion has not arrived (R424); the turn and the deficits of the read and the write arbiter (R426). -/
structure HostPort where
  waiting : Vector (List HostItem) 9 := .replicate 9 []
  owed    : Vector (List (HostReadKind × Nat)) 9 := .replicate 9 []
  rdTurn  : Fn := 0
  wrTurn  : Fn := 0
  rdDef   : Vector Nat 9 := .replicate 9 0
  wrDef   : Vector Nat 9 := .replicate 9 0
  deriving DecidableEq, Repr

/-- The state of the module. `pending` is the queue of waiting commands, `out` the trace of what left the module,
`draws` the counter that free values are drawn at. -/
structure State where
  pending : List Instr
  out     : List Output
  draws   : Nat
  combs   : Vector CombState 8
  supers  : Vector SuperState 8
  parts   : Vector PartState 8
  fns     : Vector FnState 9
  dies    : Vector DieState 2
  ports   : Vector PortState 8
  queen   : Queen
  power   : Power
  boot    : Boot
  mgmt    : Mgmt
  evt     : EvtRegs
  mod     : ModuleRegs
  host    : HostPort
  deriving DecidableEq, Repr

/-- Why the module model stops. No meaning of this model stops: the constructor is raised by none of them. -/
inductive Fault where
  /-- Raised by no meaning; kept because the interface asks for a fault type. Safe: it never occurs. -/
  | unreachable
  deriving DecidableEq, Repr

/-- Why a command is refused. -/
inductive Refusal where
  /-- Raised by an arm of exec whose command has no meaning yet. Safe: nothing is claimed of it. -/
  | notModelled (mnemonic : String)
  deriving DecidableEq, Repr

/-- What one command answers. -/
abbrev Out := Host.Outcome State Fault Refusal

/-- The module right after power-on: every rail in regulation, PWRGD released, the boot ROMs about to start (R542,
R562), every register at its Reset value (R9). -/
def State.reset : State where
  pending := []
  out := []
  draws := 0
  combs := .replicate 8 {}
  supers := .replicate 8 {}
  parts := .replicate 8 {}
  fns := .replicate 9 {}
  dies := .replicate 2 {}
  ports := .replicate 8 {}
  queen := {}
  power := {}
  boot := {}
  mgmt := {}
  evt := {}
  mod := {}
  host := {}

end Sys2Proof.Machine
end

