-- ==== Sys2Proof/Machine/Bits.lean ====
section
/-! DEFINITION. Little-endian bytes, bit fields, sparse tables, vectors and status bits: the helpers every meaning
uses. -/

namespace Sys2Proof.Machine

/-- The value of a run of bytes, byte 0 least significant (R3). -/
def le : Bytes → Nat
  | [] => 0
  | b :: bs => b.toNat + 256 * le bs

/-- The n low bytes of v, least significant first (R3). -/
def leBytes : Nat → Nat → Bytes
  | 0, _ => []
  | n + 1, v => BitVec.ofNat 8 v :: leBytes n (v / 256)

/-- n bytes of bs from offset off. -/
def slice (bs : Bytes) (off n : Nat) : Bytes := (bs.drop off).take n

/-- The n-byte field at offset off of a layout (R4). -/
def fieldAt (bs : Bytes) (off n : Nat) : Nat := le (slice bs off n)

/-- Bits [hi:lo] of v (R4). -/
def bits (v hi lo : Nat) : Nat := v / 2 ^ lo % 2 ^ (hi + 1 - lo)

/-- A Bool as a bit. -/
def b2n (b : Bool) : Nat := if b then 1 else 0

/-- bs cut or zero-filled to n bytes. -/
def padTo (n : Nat) (bs : Bytes) : Bytes := (bs ++ List.replicate n 0).take n

/-- A w-bit value read as signed. -/
def signedOf (w v : Nat) : Int := if v % 2 ^ w < 2 ^ (w - 1) then (v % 2 ^ w : Nat) else (v % 2 ^ w : Nat) - (2 ^ w : Nat)

/-- ⌈a ÷ b⌉. -/
def ceilDiv (a b : Nat) : Nat := (a + b - 1) / b

/-- Whether every byte of bs is 0. -/
def allZero (bs : Bytes) : Bool := bs.all (· == 0)

/-- Every index of a Fin range, ascending. -/
def fins (n : Nat) : List (Fin n) := List.finRange n

/-- The vector with entry i changed by f. -/
def upd {α : Type} {n : Nat} (v : Vector α n) (i : Fin n) (f : α → α) : Vector α n := v.set i.val (f v[i])

/-- The value a table holds at a key. -/
def tabGet {α : Type} (d : α) : Tab α → Nat → α
  | [], _ => d
  | (a, v) :: r, k => if a = k then v else tabGet d r k

/-- The non-default entries of a run of values from key lo. -/
def tabRun {α : Type} [DecidableEq α] (d : α) : Nat → List α → Tab α
  | _, [] => []
  | lo, v :: r => if v = d then tabRun d (lo + 1) r else (lo, v) :: tabRun d (lo + 1) r

/-- The table with a run of values from key lo. -/
def tabPut {α : Type} [DecidableEq α] (d : α) (t : Tab α) (lo : Nat) (vs : List α) : Tab α :=
  (t.filter fun e => decide (e.1 < lo)) ++ tabRun d lo vs ++ t.filter fun e => decide (lo + vs.length ≤ e.1)

/-- The table with v at key k. -/
def tabSet {α : Type} [DecidableEq α] (d : α) (t : Tab α) (k : Nat) (v : α) : Tab α := tabPut d t k [v]

/-- The canonical form: keys strictly rising, each above lo, no entry the default. -/
def tabWfFrom {α : Type} [DecidableEq α] (d : α) : Nat → Tab α → Bool
  | _, [] => true
  | lo, (a, v) :: r => decide (lo ≤ a) && decide (v ≠ d) && tabWfFrom d (a + 1) r

/-- The canonical form of a table. -/
def tabWf {α : Type} [DecidableEq α] (d : α) (t : Tab α) : Bool := tabWfFrom d 0 t

/-- The table with every key from lo to hi − 1 at its default. -/
def tabClear {α : Type} (t : Tab α) (lo hi : Nat) : Tab α := t.filter fun e => decide (e.1 < lo) || decide (hi ≤ e.1)

/-- Well-formed memory: canonical over bytes with default 0. -/
def Mem.wf (m : Mem) : Bool := tabWf (0 : Byte) m

/-- One byte of memory. -/
def memByte (m : Mem) (a : Nat) : Byte := tabGet 0 m a

/-- n bytes of memory from address a. -/
def memRead (m : Mem) : Nat → Nat → Bytes
  | _, 0 => []
  | a, n + 1 => memByte m a :: memRead m (a + 1) n

/-- Memory with bytes stored from address a. -/
def memWrite (m : Mem) (a : Nat) (bs : Bytes) : Mem := tabPut 0 m a bs

/-- A little-endian value of n bytes at address a. -/
def memNat (m : Mem) (a n : Nat) : Nat := le (memRead m a n)

/-- A status bit set by hardware, its count advanced modulo 2^w (R85). -/
def hit (w : Nat) (s : Sticky) : Sticky := ⟨true, (s.cnt + 1) % 2 ^ w, 0⟩

/-- n events at once; none leaves the bit alone. -/
def hitN (w n : Nat) (s : Sticky) : Sticky := if n = 0 then s else ⟨true, (s.cnt + n) % 2 ^ w, 0⟩

/-- The bit as function f reads it: the record of R7 follows. -/
def observe (f : Fn) (s : Sticky) : Sticky :=
  { s with seen := if s.on then s.seen ||| (1#9 <<< f.val) else s.seen &&& ~~~ (1#9 <<< f.val) }

/-- A write of 1 by function f: the bit clears only for events f has seen (R7). -/
def clearBy (f : Fn) (s : Sticky) : Sticky :=
  if s.on && s.seen.getLsbD f.val then { s with on := false, seen := 0 } else s

/-- The least significant 32 bits as a word, 64 bits as a double word. -/
def w32 (n : Nat) : Word := BitVec.ofNat 32 n
def w64 (n : Nat) : DWord := BitVec.ofNat 64 n

end Sys2Proof.Machine
end

