-- ==== Sys2Proof/Machine/Flags.lean ====
section
/-! DEFINITION. FP32 classes and comparisons: the conditions and flags that instructions test (R128, R223, R225, R285). -/

namespace Sys2Proof.Machine

/-- Sign, exponent and fraction fields of an FP32 value. -/
def fSign (w : Word) : Bool := w.getLsbD 31
def fExp (w : Word) : Nat := w.toNat / 8388608 % 256
def fFrac (w : Word) : Nat := w.toNat % 8388608
def fMag (w : Word) : Nat := w.toNat % 2147483648

def fIsNaN (w : Word) : Bool := decide (fExp w = 255) && decide (fFrac w ≠ 0)
def fIsInf (w : Word) : Bool := decide (fExp w = 255) && decide (fFrac w = 0)
def fIsFinite (w : Word) : Bool := decide (fExp w ≠ 255)
def fIsZero (w : Word) : Bool := decide (fMag w = 0)

/-- The order of FP32 values other than NaN, the two zeros equal. -/
def fKey (w : Word) : Int := if fSign w then -(fMag w : Int) else (fMag w : Int)

def fEq (a b : Word) : Bool := !fIsNaN a && !fIsNaN b && decide (fKey a = fKey b)
def fLt (a b : Word) : Bool := !fIsNaN a && !fIsNaN b && decide (fKey a < fKey b)
def fLe (a b : Word) : Bool := !fIsNaN a && !fIsNaN b && decide (fKey a ≤ fKey b)

/-- The low half of a scalar register as an FP32 value. -/
def lowWord (d : DWord) : Word := d.setWidth 32

end Sys2Proof.Machine
end

