-- ==== Sys2Proof/Machine/Operands.lean ====
section
/-! DEFINITION. Operand forms: the fields of transfer blocks and descriptors, and their format checks (R95, R119). -/

namespace Sys2Proof.Machine

/-- The fields of a transfer block (R119). -/
structure Xfer where
  srcSpace : Nat
  dstSpace : Nat
  srcCell  : Nat
  dstCell  : Nat
  cls      : Nat
  recip    : Nat
  flow     : Nat
  sem      : Nat
  semEn    : Bool
  src      : Nat
  dst      : Nat
  rowBytes : Nat
  rows     : Nat
  srcStride : Nat
  dstStride : Nat
  deriving DecidableEq, Repr

/-- The fields read from a block's 64 bytes. -/
def decodeXfer (b : Bytes) : Xfer :=
  { srcSpace := bits (fieldAt b 0 1) 3 0, dstSpace := bits (fieldAt b 0 1) 7 4
    srcCell := bits (fieldAt b 1 1) 4 0, dstCell := bits (fieldAt b 2 1) 4 0
    cls := bits (fieldAt b 3 1) 1 0, recip := bits (fieldAt b 3 1) 7 4
    flow := fieldAt b 4 2, sem := bits (fieldAt b 6 2) 11 0, semEn := bits (fieldAt b 6 2) 15 15 == 1
    src := fieldAt b 8 8, dst := fieldAt b 16 8, rowBytes := fieldAt b 24 4, rows := fieldAt b 28 4
    srcStride := fieldAt b 32 8, dstStride := fieldAt b 40 8 }

/-- Bytes a transfer covers. -/
def Xfer.total (x : Xfer) : Nat := x.rowBytes * x.rows

/-- Whether the RSV fields are 0 and every field lies in its stated range (R119, R146). -/
def xferFormatOk (b : Bytes) : Bool :=
  let x := decodeXfer b
  bits (fieldAt b 1 1) 7 5 == 0 && bits (fieldAt b 2 1) 7 5 == 0 && bits (fieldAt b 3 1) 3 2 == 0 &&
  bits (fieldAt b 6 2) 14 12 == 0 && allZero (slice b 48 16) &&
  decide (x.srcSpace ≤ 3) && decide (1 ≤ x.dstSpace) && decide (x.dstSpace ≤ 5) &&
  (x.srcSpace != 3 || decide (x.srcCell ≤ 19)) && (x.dstSpace != 3 || decide (x.dstCell ≤ 19)) &&
  (x.dstSpace == 5 || x.cls == 0) && ((x.dstSpace == 5 && x.cls == 1) || x.recip == 0) &&
  decide (1 ≤ x.rowBytes) && decide (x.rowBytes ≤ 16777216) && decide (1 ≤ x.rows) && decide (x.rows ≤ 65536) &&
  decide (x.total ≤ 4294967295)

/-- The start of each row in a space of 64-bit addresses; DESIGN CHOICE (log entry 97): it wraps modulo 2^64. -/
def rowStarts (base stride rows : Nat) : List Nat := (List.range rows).map fun i => (base + i * stride) % 2 ^ 64

/-- Bytes cut into rows of n. -/
def rowsOfBytes (n : Nat) : Nat → Bytes → List Bytes
  | 0, _ => []
  | k + 1, bs => if bs.isEmpty then [] else bs.take n :: rowsOfBytes n k (bs.drop n)

/-- The plaintext size of a record of t bytes (R470). -/
def plainOfRecord (t : Nat) : Nat := t - 64 - 16 * ceilDiv (t - 64) 4112

/-- Flits of a transfer: for a DATA flow 512 bytes each; for a DISPATCH flow of tb-byte tokens, ⌊512 ÷ tb⌋ tokens a flit, or
a larger token over ⌈tb ÷ 512⌉ flits. Each flit with the tokens whose last byte it holds (R400, R401). -/
def flitsOf (dispatch : Bool) (tb : Nat) (data : Bytes) : List (Bytes × Nat) :=
  if !dispatch then (rowsOfBytes 512 (data.length / 512 + 1) data).map fun b => (b, 0)
  else if tb ≤ 512 then
    (rowsOfBytes (512 / tb * tb) (data.length / tb + 1) data).map fun b => (b, b.length / tb)
  else
    ((rowsOfBytes tb (data.length / tb + 1) data).map fun tok =>
      let fs := rowsOfBytes 512 (tb / 512 + 1) tok
      fs.mapIdx fun i b => (b, if i + 1 = fs.length then 1 else 0)).flatten

/-- Groups of n elements. -/
def groupsOf {α : Type} (n : Nat) : Nat → List α → List (List α)
  | 0, _ => []
  | k + 1, xs => if xs.isEmpty then [] else xs.take n :: groupsOf n k (xs.drop n)

end Sys2Proof.Machine
end

