-- ==== Sys2Proof/Machine/Fp.lean ====
section
/-! DEFINITION. The number formats of R186, their conversions and rounding modes (R193–R199), the FP32 arithmetic of R208,
the group sums of the array (R209, R210), the reductions of R231 and the exponent histogram of R212. Formats and modes are named by their codes (R150, R196). -/

namespace Sys2Proof.Machine

/-! ### Formats (R186) -/

/-- Bytes of one element (R188). -/
def elemBytes (fmt : Nat) : Nat := if fmt ≤ 1 then 1 else if fmt ≤ 3 then 2 else 4
/-- Fraction bits. -/
def fracBits : Nat → Nat
  | 0 => 3 | 1 => 2 | 2 => 7 | 3 => 10 | _ => 23
/-- The exponent of the smallest normal value. -/
def eMin : Nat → Int
  | 0 => -6 | 1 => -14 | 2 => -126 | 3 => -14 | _ => -126
/-- The encoding of the largest finite value. -/
def maxFin : Nat → Nat
  | 0 => 0x7E | 1 => 0x7B | 2 => 0x7F7F | 3 => 0x7BFF | _ => 0x7F7FFFFF
/-- The encoding of +∞; E4M3 has none, and its NaN stands there (R193). -/
def infOf : Nat → Nat
  | 0 => 0x7F | 1 => 0x7C | 2 => 0x7F80 | 3 => 0x7C00 | _ => 0x7F800000
/-- The canonical NaN (R190). -/
def nanOf : Nat → Nat
  | 0 => 0x7F | 1 => 0x7E | 2 => 0x7FC0 | 3 => 0x7E00 | _ => 0x7FC00000
/-- The weight of the sign bit. -/
def signW (fmt : Nat) : Nat := 2 ^ (8 * elemBytes fmt - 1)

/-- Some FP32 constants. -/
def fNaN : Word := 0x7FC00000
def fInf : Word := 0x7F800000
def fNegInf : Word := 0xFF800000
def fOne : Word := 0x3F800000
def fNegZero : Word := 0x80000000
/-- A zero, and an infinity, of a sign. -/
def fZeroS (n : Bool) : Word := if n then fNegZero else 0
def fInfS (n : Bool) : Word := if n then fNegInf else fInf
/-- A value with every NaN made canonical (R190). -/
def canon (w : Word) : Word := if fIsNaN w then fNaN else w

/-! ### Rounding (R195–R197) -/

/-- Whether a mode takes x_hi: `rem` of 2^sh is d, r the 16-bit draw, `odd` the last bit of x_lo's encoding. Mode 3 here is
truncation, which no field names. -/
def takesHi (mode r sh rem : Nat) (odd : Bool) : Bool :=
  if rem = 0 then false else
  match mode with
  | 0 => decide (2 ^ sh < 2 * rem) || (decide (2 ^ sh = 2 * rem) && odd)
  | 1 => decide (r < rem * 65536 / 2 ^ sh)
  | 2 => !odd
  | _ => false

/-- Whether a rounding mode may be used with a destination format (R196, R198). -/
def roundOk (mode fmt : Nat) : Bool := decide (mode < 2) || (mode == 2 && (fmt == 2 || fmt == 3))

/-- The encoding of x_lo for m × 2^e on the format's grid, the shift that d is counted in, and the rest (R195). Encodings
continue past the largest finite value. -/
def gridLo (fmt m : Nat) (e : Int) : Nat × Nat × Nat :=
  let p := fracBits fmt
  let q : Int := max ((Nat.log2 m : Int) + e) (eMin fmt) - p
  let sh := (q - e).toNat
  ((q - (eMin fmt - p)).toNat * 2 ^ p + m * 2 ^ (e - q).toNat / 2 ^ sh, sh, m % 2 ^ sh)

/-- The encoding of the magnitude m × 2^e rounded to a format, possibly past the largest finite value (R195, R196). -/
def roundEnc (fmt mode r m : Nat) (e : Int) : Nat :=
  if m = 0 then 0 else
  let (lo, sh, rem) := gridLo fmt m e
  if takesHi mode r sh rem (lo % 2 == 1) then lo + 1 else lo

/-- A finite value ±m × 2^e converted to a format (R193, R195–R197): RTO never overflows; E4M3 overflows to 0x7F. -/
def roundTo (fmt mode r : Nat) (neg : Bool) (m : Nat) (e : Int) : Nat :=
  let v := roundEnc fmt mode r m e
  if v ≤ maxFin fmt then v + b2n neg * signW fmt
  else if mode = 2 then maxFin fmt + b2n neg * signW fmt
  else if fmt = 0 then 0x7F else infOf fmt + b2n neg * signW fmt

/-- ±m × 2^e as FP32 under RNE. -/
def fDyad (neg : Bool) (m : Nat) (e : Int) : Word := w32 (roundTo 4 0 0 neg m e)

/-- An element of a format widened exactly to FP32 (R187, R194). -/
def widen (fmt raw : Nat) : Word :=
  let neg := decide (1 ≤ raw / signW fmt % 2)
  let mag := raw % signW fmt
  let p := fracBits fmt
  if maxFin fmt < mag then (if fmt ≠ 0 ∧ mag = infOf fmt then fInfS neg else fNaN)
  else if mag / 2 ^ p = 0 then fDyad neg mag (eMin fmt - p)
  else fDyad neg (2 ^ p + mag % 2 ^ p) (eMin fmt - p + (mag / 2 ^ p - 1 : Nat))

/-- A finite FP32 value in units of 2^−149. -/
def fixOf (w : Word) : Int :=
  let m := if fExp w = 0 then fFrac w else (8388608 + fFrac w) * 2 ^ (fExp w - 1)
  if fSign w then -(m : Int) else m

/-- An exact number n × 2^e rounded to FP32 by RNE; an exact zero takes the sign given. -/
def fRound (n e : Int) (zneg : Bool) : Word := if n = 0 then fZeroS zneg else fDyad (decide (n < 0)) n.natAbs e

/-- An FP32 value converted to a format under a rounding mode with a 16-bit draw (R193–R198). -/
def convertTo (fmt mode r : Nat) (w : Word) : Nat :=
  if fIsNaN w then nanOf fmt
  else if fIsInf w then (if fmt = 0 then 0x7F else infOf fmt + b2n (fSign w) * signW fmt)
  else if fmt = 4 then w.toNat
  else roundTo fmt mode r (fSign w) (fixOf w).natAbs (-149)

/-- Whether an encoding is a NaN or an infinity of its format. -/
def isSpecial (fmt v : Nat) : Bool := decide (maxFin fmt < v % signW fmt)

/-- Whether a conversion meets a NaN or an infinity (R192). -/
def meetsSpecial (fmt : Nat) (w : Word) (v : Nat) : Bool := !fIsFinite w || isSpecial fmt v

/-! ### Arithmetic (R191, R208) -/

/-- Addition. -/
def fAdd (a b : Word) : Word :=
  if fIsNaN a || fIsNaN b then fNaN
  else if fIsInf a then (if fIsInf b && (fSign a != fSign b) then fNaN else a)
  else if fIsInf b then b
  else fRound (fixOf a + fixOf b) (-149) (fSign a && fSign b)

/-- The value with its sign inverted, a NaN canonical (R225). -/
def fNeg (a : Word) : Word := if fIsNaN a then fNaN else a ^^^ 0x80000000
/-- The value with its sign cleared, a NaN canonical (R225). -/
def fAbs (a : Word) : Word := if fIsNaN a then fNaN else a &&& 0x7FFFFFFF

/-- Subtraction. -/
def fSub (a b : Word) : Word := fAdd a (fNeg b)

/-- Multiplication. -/
def fMul (a b : Word) : Word :=
  let n := fSign a != fSign b
  if fIsNaN a || fIsNaN b then fNaN
  else if fIsInf a || fIsInf b then (if fIsZero a || fIsZero b then fNaN else fInfS n)
  else fRound (fixOf a * fixOf b) (-298) n

/-- a × b + c, rounded once. -/
def fFma (a b c : Word) : Word :=
  let n := fSign a != fSign b
  if fIsNaN a || fIsNaN b || fIsNaN c then fNaN
  else if fIsInf a || fIsInf b then
    (if fIsZero a || fIsZero b || (fIsInf c && (fSign c != n)) then fNaN else fInfS n)
  else if fIsInf c then c
  else fRound (fixOf a * fixOf b + fixOf c * 2 ^ 149) (-298) (n && fSign c)

/-- Division: the quotient to 350 bits past the point, with a last bit that says whether it is cut. -/
def fDiv (a b : Word) : Word :=
  let n := fSign a != fSign b
  if fIsNaN a || fIsNaN b then fNaN
  else if fIsInf a then (if fIsInf b then fNaN else fInfS n)
  else if fIsInf b then fZeroS n
  else if fIsZero b then (if fIsZero a then fNaN else fInfS n)
  else
    let x := (fixOf a).natAbs * 2 ^ 350
    let y := (fixOf b).natAbs
    if fIsZero a then fZeroS n else fDyad n (2 * (x / y) + b2n (x % y != 0)) (-351)

/-- ⌊√n⌋ below 2^k, bit by bit. -/
def isqrt (n : Nat) : Nat → Nat → Nat
  | 0, r => r
  | k + 1, r => if (r + 2 ^ k) * (r + 2 ^ k) ≤ n then isqrt n k (r + 2 ^ k) else isqrt n k r

/-- Square root. -/
def fSqrt (a : Word) : Word :=
  if fIsNaN a then fNaN
  else if fIsZero a then a
  else if fSign a then fNaN
  else if fIsInf a then a
  else
    let n := (fixOf a).natAbs * 2 ^ 101
    let r := isqrt n 192 0
    fDyad false (2 * r + b2n (r * r != n)) (-126)

/-- MAX and MIN (R225). -/
def fMax (a b : Word) : Word :=
  if fIsNaN a || fIsNaN b then fNaN
  else if fKey a = fKey b then (if fSign a then b else a)
  else if fKey a < fKey b then b else a
def fMin (a b : Word) : Word :=
  if fIsNaN a || fIsNaN b then fNaN
  else if fKey a = fKey b then (if fSign a then a else b)
  else if fKey a < fKey b then a else b

/-- The conditions of CMP: 0 EQ, 1 LT, 2 LE, 3 NE, 4 UNORD (R223). -/
def fCond (cond : Nat) (a b : Word) : Bool :=
  match cond with
  | 0 => fEq a b
  | 1 => fLt a b
  | 2 => fLe a b
  | 3 => !fEq a b
  | _ => fIsNaN a || fIsNaN b

/-- A condition as a mask. -/
def fMask (c : Bool) : Word := if c then 0xFFFFFFFF else 0
/-- SEL: bit 31 of a selects b, else c (R223). -/
def fSel (a b c : Word) : Word := if a.getLsbD 31 then b else c

/-- FP32 to a signed integer, toward zero, saturating; NaN gives 0 (R223). -/
def fToInt (a : Word) : Word :=
  if fIsNaN a then 0
  else if fIsInf a then (if fSign a then 0x80000000 else 0x7FFFFFFF)
  else
    let m := (fixOf a).natAbs / 2 ^ 149
    if fSign a then (if 2 ^ 31 ≤ m then 0x80000000 else w32 (2 ^ 32 - m)) else if 2 ^ 31 ≤ m then 0x7FFFFFFF else w32 m

/-- A signed integer, and an unsigned one, to FP32 by RNE. -/
def intToF (a : Word) : Word := fRound a.toInt 0 false
def natToF (n : Nat) : Word := fRound n 0 false

/-! ### The array's sums (R209, R210) -/

/-- Whether a product is NaN, is an infinity of a sign, and its exact value otherwise in units of 2^−298. -/
def prodNaN (p : Word × Word) : Bool :=
  fIsNaN p.1 || fIsNaN p.2 || (fIsInf p.1 && fIsZero p.2) || (fIsZero p.1 && fIsInf p.2)
def prodSign (p : Word × Word) : Bool := fSign p.1 != fSign p.2
def prodInf (n : Bool) (p : Word × Word) : Bool := (fIsInf p.1 || fIsInf p.2) && prodSign p == n

/-- The sum of one group of products, rounded once (R210). -/
def groupSum (ps : List (Word × Word)) : Word :=
  if ps.any prodNaN then fNaN
  else if ps.any (prodInf false) then (if ps.any (prodInf true) then fNaN else fInf)
  else if ps.any (prodInf true) then fNegInf
  else fRound ((ps.map fun p => fixOf p.1 * fixOf p.2).sum) (-298) (ps.all fun p => (fIsZero p.1 || fIsZero p.2) && prodSign p)

/-- One pass for one output element: the accumulator and the 128 products in groups of 16 (R209). -/
def macPass (a : Word) (ps : List (Word × Word)) : Word := (groupsOf 16 8 ps).foldl (fun a g => fAdd a (groupSum g)) a

/-! ### Reductions (R231) -/

/-- The lane partials take one row of elements, lane by lane. -/
def laneStep (f : Word → Word → Word) : List Word → List Word → List Word
  | p :: ps, x :: xs => f p x :: laneStep f ps xs
  | ps, _ => ps

/-- The fixed tree over 2^k partials. -/
def treeOf (f : Word → Word → Word) : Nat → List Word → Word
  | 0, ps => ps.headD 0
  | k + 1, ps => treeOf f k (List.zipWith f (ps.take (2 ^ k)) (ps.drop (2 ^ k)))

/-- The reductions of R231 by their last three opcode bits: 0 RSUM, 1 RMAX, 2 RMIN, 3 RAMAX, 4 RSUMSQ. -/
inductive Red where
  | sum | max | min | amax | sumsq
  deriving DecidableEq, Repr

/-- The combination ⊕ of a reduction. -/
def Red.join : Red → Word → Word → Word
  | .sum => fAdd | .sumsq => fAdd | .max => fMax | .amax => fMax | .min => fMin
/-- How a lane takes an element. -/
def Red.take : Red → Word → Word → Word
  | .sum => fAdd | .max => fMax | .min => fMin
  | .amax => fun p x => fMax p (fAbs x)
  | .sumsq => fun p x => fFma x x p
/-- The identity a lane starts from. -/
def Red.one : Red → Word
  | .max => fNegInf | .min => fInf | _ => 0

/-- A reduction of a list of elements in the order of R231. -/
def reduce (r : Red) (xs : List Word) : Word :=
  treeOf r.join 7 ((groupsOf 128 (xs.length / 128 + 1) xs).foldl (laneStep r.take) (List.replicate 128 r.one))

/-- The row sum and row maximum of R241. -/
def rowSum (xs : List Word) : Word := reduce .sum xs
def rowMax (xs : List Word) : Word := reduce .max xs

/-! ### The exponent histogram (R212–R214) -/

/-- The bin that counts a value. -/
def histBin (w : Word) : Nat :=
  if fIsNaN w then 59 else if fIsInf w then 60 else if fIsZero w then 0
  else if fExp w < 87 then 57 else if 142 < fExp w then 58 else fExp w - 86

/-- The record of some values: 64 counts, saturating. -/
def histRec (ws : List Word) : Bytes :=
  let bins := ws.map histBin
  ((List.range 64).map fun b => leBytes 4 (min (bins.count b) 0xFFFFFFFF)).flatten

end Sys2Proof.Machine
end

