-- ==== Sys2Proof/Machine/Approx.lean ====
section
/-! DEFINITION. The approximate functions of R226 and the Gaussian draw of R301. The special values are the spec's; on other
inputs a result is a free value that is held to the stated bound about the exact value (log entry 2). The exact values are
computed in integers, right to far less than the bounds. -/

namespace Sys2Proof.Machine

/-! ### Exact values in units of 2^−240 -/

/-- The number m × 2^e. -/
structure Dyad where
  m : Int
  e : Int
  deriving DecidableEq, Repr

/-- 1, ln 2, 1 ÷ √(2π) and π ÷ 2. -/
def oneF : Int := 2 ^ 240
def ln2F : Int := 0xB17217F7D1CF79ABC9E3B39803F2F6AF40F343267298B62D8A0D175B8BAA
def invSqrt2PiF : Int := 0x662114CF50D942343F2CF1402EAE38BFD3829F30512706D8C0471B480263
def halfPiF : Int := 0x1921FB54442D18469898CC51701B839A252049C1114CF98E804177D4C7627

/-- A product, and a finite FP32 value. -/
def mulF (a b : Int) : Int := a * b / oneF
def fixF (x : Word) : Int := fixOf x * 2 ^ 91

/-- 1 + r/k × (1 + r/(k+d) × (1 + …)), n terms. -/
def seriesF (d : Nat) : Nat → Nat → Int → Int
  | 0, _, _ => oneF
  | n + 1, k, r => oneF + mulF r (seriesF d n (k + d) r) / k

/-- e^x. -/
def expD (x : Int) : Dyad := let n := x / ln2F; ⟨seriesF 1 60 1 (x - n * ln2F), n - 240⟩

/-- 1/k + z/(k+2) + z²/(k+4) + …, n terms. -/
def atanhF : Nat → Nat → Int → Int
  | 0, _, _ => 0
  | n + 1, k, z => oneF / k + mulF z (atanhF n (k + 2) z)

/-- ln of v × 2^e. -/
def lnF (v : Nat) (e : Int) : Int :=
  let l := Nat.log2 v
  let m : Int := (v : Int) * oneF / 2 ^ l
  let z := (m - oneF) * oneF / (m + oneF)
  2 * mulF z (atanhF 80 1 (mulF z z)) + (l + e) * ln2F

/-- 1 − r/(k(k+1)) × (1 − r/((k+2)(k+3)) × (1 − …)), n terms: cos from k = 1, sin ÷ x from k = 2, of r = x². -/
def trigF : Nat → Nat → Int → Int
  | 0, _, _ => oneF
  | n + 1, k, r => oneF - mulF r (trigF n (k + 2) r) / (k * (k + 1) : Nat)

/-- The numbers that the functions of R226 compute. -/
def exactExp (x : Word) : Dyad :=
  let v := fixF x
  if v ≤ -130 * oneF then ⟨0, 0⟩ else if 130 * oneF ≤ v then ⟨1, 200⟩ else expD v
def exactExp2 (x : Word) : Dyad :=
  let v := fixF x
  if v ≤ -200 * oneF then ⟨0, 0⟩ else if 200 * oneF ≤ v then ⟨1, 200⟩
  else ⟨seriesF 1 60 1 (mulF (v % oneF) ln2F), v / oneF - 240⟩
def exactLog (x : Word) : Dyad := ⟨lnF (fixOf x).natAbs (-149), -240⟩
def exactTanh (x : Word) : Dyad :=
  let v := fixF x
  let a := (v.natAbs : Int)
  let r := if 20 * oneF ≤ a then oneF - 1
    else if a * 4096 < oneF then a - mulF a (mulF a a) / 3
    else let y := expD (2 * a); let e := y.m * 2 ^ (y.e + 240).toNat; (e - oneF) * oneF / (e + oneF)
  ⟨if v < 0 then -r else r, -240⟩
def exactSigmoid (x : Word) : Dyad :=
  let v := fixF x
  if v ≤ -130 * oneF then ⟨0, 0⟩ else if 130 * oneF ≤ v then ⟨oneF - 1, -240⟩
  else
    let y := expD (-(v.natAbs : Int))
    let b : Int := 2 ^ (-y.e).toNat
    ⟨(if v < 0 then y.m else b) * 2 ^ 440 / (b + y.m), -440⟩
def exactGelu (x : Word) : Dyad :=
  let v := fixF x
  if v < -8 * oneF then ⟨0, 0⟩ else if 8 * oneF < v then ⟨fixOf x * oneF - 1, -389⟩
  else
    let r := mulF v v
    let y := expD (-r / 2)
    let d := y.m / 2 ^ (-(y.e + 240)).toNat
    ⟨fixOf x * (oneF / 2 + mulF (mulF invSqrt2PiF d) (mulF v (seriesF 2 200 3 r))), -389⟩

/-- z of R301 from the draws d₁ and d₂. -/
def exactGauss (d1 d2 : Word) : Dyad :=
  let r : Int := isqrt ((2 * (32 * ln2F - lnF (d1.toNat + 1) 0)) * oneF).toNat 244 0
  let t := halfPiF * (d2.toNat % 2 ^ 30 : Nat) / 2 ^ 30
  let q := mulF t t
  let c := trigF 50 1 q
  let n := mulF t (trigF 50 2 q)
  ⟨mulF r (match d2.toNat / 2 ^ 30 with | 0 => c | 1 => -n | 2 => -c | _ => n), -240⟩

/-! ### Bounds -/

/-- An FP32 value in units of 2^−149, an infinity as ±2^128. -/
def fixInf (w : Word) : Int := if fIsInf w then (if fSign w then -(2 ^ 277) else 2 ^ 277) else fixOf w

/-- Whether w lies within b × 2^−20 × 2^q of x; an infinity also where x lies beyond the largest finite value. -/
def nearBy (b : Nat) (q : Int) (x : Dyad) (w : Word) : Bool :=
  let t := min x.e (min (q - 20) (-169))
  let a := fixInf w * 2 ^ (-149 - t).toNat
  let v := x.m * 2 ^ (x.e - t).toNat
  !fIsNaN w && (decide ((a - v).natAbs ≤ b * 2 ^ (q - 20 - t).toNat) ||
    (fIsInf w && fSign w == decide (x.m < 0) && decide (2 ^ (128 - t).toNat ≤ v.natAbs)))

/-- Whether w lies within b units in the last place of x, the subnormal spacing below 2^−126 (R226); and within 2^−a of it. -/
def nearUlp (b : Nat) (x : Dyad) (w : Word) : Bool :=
  nearBy (b * 2 ^ 20 + 1) (if x.m = 0 then -149 else max (Nat.log2 x.m.natAbs + x.e - 23) (-149)) x w
def nearAbs (a : Nat) (x : Dyad) (w : Word) : Bool := nearBy (2 ^ 20 + 1) (-(a : Int)) x w

/-- A free value where it keeps the bound, else the nearest FP32 value. -/
def held (free : Word) (ok : Dyad → Word → Bool) (x : Dyad) : Word :=
  if ok x free then free else fRound x.m x.e false

/-- A unit in the last place at the magnitude of an FP32 encoding, in units of 2^−149. -/
def ulpOf (enc : Nat) : Nat := 2 ^ (max (enc / 8388608) 1 - 1)

/-- The FP32 magnitude at encoding v, in units of 2^−149. -/
def magOf (v : Nat) : Nat := (fixOf (w32 v)).natAbs

/-- One of the encodings about `lo` that satisfy `ok`, picked by a free word; infinity past the largest finite value. -/
def pickNear (lo : Nat) (ok : Nat → Bool) (free : Word) : Nat :=
  let cs := ((List.range 5).map fun i => lo + i - 2).filter fun v => decide (v ≤ 0x7F800000) && ok v
  (cs.getD (free.toNat % max cs.length 1) (min lo 0x7F800000))

/-- 1 ÷ x of a finite non-zero x, within 1 ulp: |c × x − 1| ≤ u × x. -/
def rcpMag (x : Nat) (free : Word) : Nat :=
  let lo := roundEnc 4 3 0 (2 ^ 400 / x) (-251)
  pickNear lo (fun v =>
    let c := magOf v * x
    decide (v = 0x7F800000) && decide (0x7F7FFFFF ≤ lo) || decide (v < 0x7F800000) &&
    decide (c ≤ 2 ^ 298 + ulpOf lo * x) && decide (2 ^ 298 ≤ c + ulpOf lo * x)) free

/-- 1 ÷ √x of a finite positive x, within 1 ulp: (c − u)² × x ≤ 1 ≤ (c + u)² × x. -/
def rsqrtMag (x : Nat) (free : Word) : Nat :=
  let lo := roundEnc 4 3 0 (isqrt (2 ^ 601 / x) 301 0) (-226)
  pickNear lo (fun v =>
    let c := magOf v
    let u := ulpOf lo
    decide ((c - u) * (c - u) * x ≤ 2 ^ 447) && decide (2 ^ 447 ≤ (c + u) * (c + u) * x)) free

/-! ### The functions -/

def aExp (x : Word) : Word :=
  if fIsNaN x then fNaN else if fIsInf x then (if fSign x then 0 else fInf)
  else held (Config.approxExp x) (nearUlp 2) (exactExp x)
def aExp2 (x : Word) : Word :=
  if fIsNaN x then fNaN else if fIsInf x then (if fSign x then 0 else fInf)
  else held (Config.approxExp2 x) (nearUlp 1) (exactExp2 x)
def aLog (x : Word) : Word :=
  if fIsNaN x then fNaN else if fIsZero x then fNegInf else if fSign x then fNaN
  else if fIsInf x then fInf
  else held (Config.approxLog x) (if fLe 0x3F000000 x && fLe x 0x40000000 then nearAbs 22 else nearUlp 2) (exactLog x)
def aRcp (x : Word) : Word :=
  if fIsNaN x then fNaN else if fIsZero x then fInfS (fSign x) else if fIsInf x then fZeroS (fSign x)
  else w32 (rcpMag (fixOf x).natAbs (Config.approxRcp x) + b2n (fSign x) * signW 4)
def aRsqrt (x : Word) : Word :=
  if fIsNaN x then fNaN else if fIsZero x then fInfS (fSign x) else if fSign x then fNaN
  else if fIsInf x then 0 else w32 (rsqrtMag (fixOf x).natAbs (Config.approxRsqrt x))
def aTanh (x : Word) : Word :=
  if fIsNaN x then fNaN else if fIsInf x then (if fSign x then 0xBF800000 else fOne)
  else held (Config.approxTanh x) (nearUlp 3) (exactTanh x)
def aSigmoid (x : Word) : Word :=
  if fIsNaN x then fNaN else if fIsInf x then (if fSign x then 0 else fOne)
  else held (Config.approxSigmoid x) (nearUlp 3) (exactSigmoid x)
def aGelu (x : Word) : Word :=
  if fIsNaN x then fNaN else if fIsInf x then (if fSign x then fNegZero else fInf)
  else held (Config.approxGelu x) (if fLe 0xC0800000 x then nearUlp 4 else nearAbs 30) (exactGelu x)

/-- The Gaussian draw of R301, within 2⁻²⁰ of the formula's value. -/
def aGauss (d1 d2 : Word) : Word := held (Config.gauss d1 d2) (nearAbs 20) (exactGauss d1 d2)

end Sys2Proof.Machine
end

