-- ==== Sys2Proof/Machine/Ops.lean ====
section
/-! DEFINITION. Operations over the units of the module that every family shares: changing one unit, the trace, time,
free values, events, completion records, rings. -/

namespace Sys2Proof.Machine

/-- The state with comb k changed by f. -/
def State.modComb (s : State) (k : Comb) (f : CombState → CombState) : State := { s with combs := upd s.combs k f }
/-- The state with super k changed by f. -/
def State.modSuper (s : State) (k : Super) (f : SuperState → SuperState) : State := { s with supers := upd s.supers k f }
/-- The state with partition p changed by f. -/
def State.modPart (s : State) (p : Part) (f : PartState → PartState) : State := { s with parts := upd s.parts p f }
/-- The state with function f0 changed by f. -/
def State.modFn (s : State) (f0 : Fn) (f : FnState → FnState) : State := { s with fns := upd s.fns f0 f }
/-- The state with die d changed by f. -/
def State.modDie (s : State) (d : Die) (f : DieState → DieState) : State := { s with dies := upd s.dies d f }
/-- The state with physical port p changed by f. -/
def State.modPort (s : State) (p : PPort) (f : PortState → PortState) : State := { s with ports := upd s.ports p f }
/-- The state with the sequencer of comb k changed by f. -/
def State.modSeq (s : State) (k : Comb) (f : Seq → Seq) : State := s.modComb k fun c => { c with seq := f c.seq }
/-- The state with the hum of comb k changed by f. -/
def State.modHum (s : State) (k : Comb) (f : Hum → Hum) : State := s.modComb k fun c => { c with hum := f c.hum }
/-- The state with the router of comb k changed by f. -/
def State.modRouter (s : State) (k : Comb) (f : Router → Router) : State :=
  s.modComb k fun c => { c with router := f c.router }
/-- The state with strand-port p of comb k changed by f. -/
def State.modSPort (s : State) (k : Comb) (p : LPort) (f : StrandPort → StrandPort) : State :=
  s.modRouter k fun r => { r with ports := upd r.ports p f }
/-- The state with job entry j of comb k's router changed by f. -/
def State.modJob (s : State) (k : Comb) (j : JobIx) (f : JobEntry → JobEntry) : State :=
  s.modRouter k fun r => { r with jobs := upd r.jobs j f }
/-- The state with physical cell n of comb k changed by f. -/
def State.modCell (s : State) (k : Comb) (n : PCell) (f : CellState → CellState) : State :=
  s.modComb k fun c => { c with cells := upd c.cells n f }
/-- The state with the Hild unit of super k changed by f. -/
def State.modHild (s : State) (k : Super) (f : Hild → Hild) : State := s.modSuper k fun u => { u with hild := f u.hild }
/-- The state with ring r of partition p changed by f. -/
def State.modRing (s : State) (p : Part) (r : Ring) (f : RingState → RingState) : State :=
  s.modPart p fun q => { q with rings := upd q.rings r f }
/-- The state with the context of partition p changed by f. -/
def State.modCtx (s : State) (p : Part) (f : Context → Context) : State := s.modPart p fun q => { q with ctx := f q.ctx }
/-- The state with the queens changed by f. -/
def State.modQueen (s : State) (f : Queen → Queen) : State := { s with queen := f s.queen }
/-- The state with the event registers of PF0 changed by f. -/
def State.modEvt (s : State) (f : EvtRegs → EvtRegs) : State := { s with evt := f s.evt }
/-- The state with the power controller changed by f. -/
def State.modPower (s : State) (f : Power → Power) : State := { s with power := f s.power }
/-- The state with boot and flash changed by f. -/
def State.modBoot (s : State) (f : Boot → Boot) : State := { s with boot := f s.boot }
/-- The state with the management interfaces changed by f. -/
def State.modMgmt (s : State) (f : Mgmt → Mgmt) : State := { s with mgmt := f s.mgmt }
/-- The state with the module registers changed by f. -/
def State.modMod (s : State) (f : ModuleRegs → ModuleRegs) : State := { s with mod := f s.mod }

/-- The state changed by f once for each element of a list, in order. -/
def forEach {α : Type} (l : List α) (f : α → State → State) (s : State) : State := l.foldl (fun t a => f a t) s

/-- The state changed by f when c holds. -/
def doIf (c : Bool) (f : State → State) (s : State) : State := if c then f s else s

/-- One item leaves the module. -/
def emit (o : Output) (s : State) : State := { s with out := o :: s.out }

/-- Several items leave the module, the first of the list first. -/
def emitAll (os : List Output) (s : State) : State := { s with out := os.reverse ++ s.out }

/-- The free value at the draw counter, w bits of it. -/
def drawNow (w : Nat) (s : State) : BitVec w := BitVec.ofNat w (Config.freeValue s.draws).toNat

/-- The counter after a draw. -/
def drawn (s : State) : State := { s with draws := s.draws + 1 }

/-- What a meaning without a stop answers. -/
def done (s : State) : Out := .next s

/-! ### The host port (R16, R423–R426, R433) -/

/-- Pieces of n bytes from a, cut at multiples of u. -/
def pieces (u : Nat) : Nat → Nat → Nat → List (Nat × Nat)
  | 0, _, _ => []
  | k + 1, a, n => if n = 0 then [] else
    let m := min n (u - a % u)
    (a, m) :: pieces u k (a + m) (n - m)

/-- Whether function f may issue requests: D0, Bus Master Enable, its interface not in ERROR (R431, R433). -/
def canRequest (s : State) (f : Fn) : Bool := let q := s.fns[f]; q.busMaster && !q.d3 && q.tdi != 3

/-- Reads outstanding beyond a function's 64 reserved ones, and the completion data that all of them have coming (R424). -/
def readsShared (h : HostPort) : Nat := (h.owed.toList.map fun l => l.length - 64).sum
def dataOwed (h : HostPort) : Nat := ((h.owed.toList.flatten).map (·.2)).sum

/-- Whether one more read of n bytes may be outstanding for a function: 64 are reserved to it, 448 shared, and its data must
fit in the completion buffer of 512 KiB (R424). -/
def readFits (h : HostPort) (f : Fn) (n : Nat) : Bool :=
  (decide (h.owed[f].length < 64) || decide (readsShared h < 448)) && decide (dataOwed h + n ≤ 524288)

/-- Whether a function's request may be issued now. -/
def mayIssue (s : State) (f : Fn) (x : HostItem) : Bool :=
  canRequest s f && match x with
    | .read _ n _ => readFits s.host f n
    | .post _ _ => true

/-- A request of function f as it leaves: with the T bit set while its interface is in RUN (R431). -/
def asSent (s : State) (f : Fn) (o : Output) : Output := if s.fns[f].tdi = 2 then .withT o else o

/-- A request is issued: a posted write leaves, a read leaves and its completion is owed. -/
def issueHost (f : Fn) (x : HostItem) (s : State) : State :=
  match x with
  | .read a n what => { s with
      out := asSent s f (.hostRead f a n) :: s.out, host := { s.host with owed := upd s.host.owed f (· ++ [(what, n)]) } }
  | .post _ o => { s with out := asSent s f o :: s.out }

/-- A request presented by function f: issued at once, or behind what waits (R426). -/
def hostPut (f : Fn) (x : HostItem) (s : State) : State :=
  if s.host.waiting[f].isEmpty && mayIssue s f x then issueHost f x s
  else { s with host := { s.host with waiting := upd s.host.waiting f (· ++ [x]) } }

/-- Requests presented in order. -/
def hostPutAll (f : Fn) (xs : List HostItem) (s : State) : State := forEach xs (hostPut f) s

/-- The size that an arbiter counts of a request it serves: bytes read for the read arbiter (rd), payload for the other
(R426). -/
def HostItem.costFor (rd : Bool) (x : HostItem) : Option Nat :=
  match x, rd with
  | .read _ n _, true => some n
  | .post n _, false => some n
  | _, _ => none

/-- The waiting requests of function f issued in order as far as they may be and a deficit pays for them: the state and what
is left of the deficit, 0 where nothing of its kind waits at the head. -/
def spendDeficit (rd : Bool) (f : Fn) : Nat → Nat → State → State × Nat
  | 0, d, s => (s, d)
  | n + 1, d, s =>
    match s.host.waiting[f] with
    | [] => (s, 0)
    | x :: r =>
      match x.costFor rd with
      | none => (s, 0)
      | some c =>
        if mayIssue s f x && decide (c ≤ d) then
          spendDeficit rd f n (d - c) (issueHost f x { s with host := { s.host with waiting := upd s.host.waiting f fun _ => r } })
        else (s, d)

/-- The turn of an arbiter: the function it stands at gets a quantum of 512 bytes (R426). -/
def arbTurn (rd : Bool) (s : State) : State :=
  let h := s.host
  let f := if rd then h.rdTurn else h.wrTurn
  let d := (if rd then h.rdDef[f] else h.wrDef[f]) + 512
  let x := spendDeficit rd f h.waiting[f].length d s
  { x.1 with host := if rd then { x.1.host with rdTurn := f + 1, rdDef := upd x.1.host.rdDef f fun _ => x.2 }
                     else { x.1.host with wrTurn := f + 1, wrDef := upd x.1.host.wrDef f fun _ => x.2 } }

/-- Whether the first waiting request of some function may be issued. -/
def hostReady (s : State) : Bool := (fins 9).any fun f =>
  match s.host.waiting[f] with
  | [] => false
  | x :: _ => mayIssue s f x

/-- Turns of both arbiters until nothing more may be issued. -/
def drainTurns : Nat → State → State
  | 0, s => s
  | n + 1, s => if hostReady s then drainTurns n (arbTurn true (arbTurn false s)) else s

/-- Waiting requests issued as far as the limits allow (R424, R426). -/
def drainHost (s : State) : State :=
  drainTurns (9 * ((s.host.waiting.toList.flatten).map fun x => ((x.costFor true).getD 0 + (x.costFor false).getD 0) / 512 + 2).sum) s

/-- Whether the reads for one purpose have all been issued, so that their completions can arrive. -/
def hostIssued (s : State) (f : Fn) (what : HostReadKind) : Bool :=
  !s.host.waiting[f].any fun x => match x with
    | .read _ _ w => decide (w = what)
    | _ => false

/-- The completions of a function's reads for one purpose have arrived or failed; what waited for their places goes on. -/
def hostArrived (f : Fn) (what : HostReadKind) (s : State) : State :=
  drainHost { s with host := { s.host with owed := upd s.host.owed f fun l => l.filter fun e => decide (e.1 ≠ what) } }

/-- A function whose requests an FLR has stopped: what it had waiting or outstanding is gone (R433). -/
def hostDrop (f : Fn) (s : State) : State :=
  { s with host := { s.host with waiting := upd s.host.waiting f fun _ => [], owed := upd s.host.owed f fun _ => []
                                 rdDef := upd s.host.rdDef f fun _ => 0, wrDef := upd s.host.wrDef f fun _ => 0 } }

/-- Max_Payload_Size and Max_Read_Request_Size of a function in bytes (R423). -/
def maxPayload (s : State) (f : Fn) : Nat := 128 * 2 ^ min s.fns[f].mps.toNat 2
def maxRead (s : State) (f : Fn) : Nat := 128 * 2 ^ min s.fns[f].mrrs.toNat 5

/-- A read of n bytes of host memory from a, in requests of allowed size (R423). -/
def hostReads (s : State) (f : Fn) (a n : Nat) (what : HostReadKind) : List HostItem :=
  let u := maxRead s f
  (pieces u (n / u + 2) a n).map fun e => .read (w64 e.1) e.2 what

/-- A write of bytes to host memory at a, in requests of allowed size; `data`: it may carry Relaxed Ordering (R423, R425). -/
def hostWrites (s : State) (f : Fn) (a : Nat) (bytes : Bytes) (data : Bool) : List HostItem :=
  let u := maxPayload s f
  (pieces u (bytes.length / u + 2) a bytes.length).map fun e =>
    .post e.2 (.hostWrite f (w64 e.1) (slice bytes (e.1 - a) e.2) (data && s.fns[f].relaxed))

/-- Whether function f's data can be read now: it may issue requests, none of them waits, one more read fits (R424, R426). -/
def hostOpen (s : State) (f : Fn) : Bool :=
  canRequest s f && s.host.waiting[f].isEmpty && readFits s.host f (maxRead s f)

/-- The reads of a transfer's data go out; DESIGN CHOICE (log entry 99): their completions arrive with the command that says
what was read, each before the next read takes its place. -/
def hostFetch (f : Fn) (rs : List (Nat × Nat)) (s : State) : State :=
  let u := maxRead s f
  emitAll ((rs.map fun r => (pieces u (r.2 / u + 2) r.1 r.2).map fun e => asSent s f (.hostRead f (w64 e.1) e.2)).flatten) s

/-- Whether a posted write of a function still waits to be issued. -/
def postWaits (s : State) (f : Fn) : Bool := s.host.waiting[f].any fun x => match x with
  | .post _ _ => true
  | _ => false

/-! ### Time (R46, R47): units of 1/80 ns -/

/-- Units of a router clock, a slot, a frame, a nanosecond. -/
def clockUnits : Nat := 64
def slotUnits : Nat := 1024
def frameUnits : Nat := 524288
def nsUnits : Nat := 80

/-- The hum time of comb k's router in nanoseconds, truncated. -/
def humNs (s : State) (k : Comb) : DWord := w64 (s.combs[k].hum.time / nsUnits)
/-- The absolute frame number of comb k's router. -/
def frameOf (s : State) (k : Comb) : Nat := s.combs[k].hum.time / frameUnits
/-- The slot number within the frame. -/
def slotOf (s : State) (k : Comb) : Nat := s.combs[k].hum.time / slotUnits % 512
/-- The beat number of comb k, 0 while no beat grid is active (R101). -/
def beatOf (s : State) (k : Comb) : BitVec 48 := if s.combs[k].hum.active then s.combs[k].hum.beat else 0

/-! ### Partitions (R10, R22, R82) -/

/-- A partition number as its lowest comb; a comb number as the super beside it. -/
def fnOf (p : Part) : Fn := ⟨p.val + 1, by omega⟩
/-- The partition a VF number serves. -/
def partOfFn (f : Fn) : Option Part := if h : f.val = 0 then none else some ⟨f.val - 1, by omega⟩
/-- The size of partition p in combs. -/
def sizeOf (s : State) (p : Part) : Nat := 2 ^ s.parts[p].psize.toNat
/-- Whether comb k belongs to partition p. -/
def inPart (s : State) (p : Part) (k : Comb) : Bool :=
  s.parts[p].live && s.combs[k].assigned && decide (s.combs[k].pbase = p)
/-- The combs of partition p, ascending; super and strand numbers are the same. -/
def combsOf (s : State) (p : Part) : List Comb := (fins 8).filter (inPart s p)
/-- The partition that comb k belongs to. -/
def partOf (s : State) (k : Comb) : Option Part :=
  if s.combs[k].assigned && s.parts[s.combs[k].pbase].live then some s.combs[k].pbase else none
/-- The comb at position i of partition p. -/
def combAt (p : Part) (i : Nat) : Comb := Fin.ofNat 8 (p.val + i)
/-- The position of comb k in its partition. -/
def posOf (p : Part) (k : Comb) : Nat := k.val - p.val
/-- The comb whose forager 0 serves ring r of partition p (R82). -/
def serving (s : State) (p : Part) (r : Ring) : Comb := combAt p (r.val % sizeOf s p)
/-- The die of a comb or super (R10). -/
def dieOf (k : Comb) : Die := ⟨k.val / 4, by omega⟩
/-- The live partitions. -/
def liveParts (s : State) : List Part := (fins 8).filter fun p => s.parts[p].live
/-- The live partitions with a comb on die d. -/
def partsOnDie (s : State) (d : Die) : List Part :=
  (liveParts s).filter fun p => (combsOf s p).any fun k => decide (dieOf k = d)
/-- The combs named by a mask of bits; 0 names every comb of the partition (R95). -/
def combsMask (s : State) (p : Part) (mask : Nat) : List Comb :=
  if mask = 0 then combsOf s p else (fins 8).filter fun k => mask.testBit k.val
/-- The job ID a partition is bound to, 0 when it has none. -/
def jobOf (s : State) (p : Part) : Word := (s.parts[p].ctx.man.map (·.jobId)).getD 0

/-! ### Status codes (R106), event types and causes -/

def stOK : Byte := 0x00
def stSkipped : Byte := 0x01
def stSquashed : Byte := 0x02
def stBeatOverrun : Byte := 0x10
def stTimetableReject : Byte := 0x11
def stIntegrityFail : Byte := 0x20
def stKeyRetired : Byte := 0x21
def stCounterExhausted : Byte := 0x22
def stPoison : Byte := 0x23
def stFabricAbort : Byte := 0x30
def stLinkDown : Byte := 0x31
def stDispatchOverflow : Byte := 0x32
def stEgressDenied : Byte := 0x40
def stEgressBudget : Byte := 0x41
def stFormatError : Byte := 0x50
def stAccessViolation : Byte := 0x51
def stRestoreMismatchStep : Byte := 0x60
def stRestoreShape : Byte := 0x61
def stRestoreDigest : Byte := 0x62
def stResetAborted : Byte := 0x70
def stInternal : Byte := 0xFF

def evWarning : Byte := 0x01
def evFault : Byte := 0x02
def evAbortReceived : Byte := 0x03
def evRecoveryDone : Byte := 0x04
def evCheckpointTrigger : Byte := 0x05
def evCrownChange : Byte := 0x06

/-- Reset domain codes of R488. -/
def domDisable : BitVec 4 := 0
def domCell : BitVec 4 := 1
def domComb : BitVec 4 := 2
def domSuper : BitVec 4 := 3
def domStrandPort : BitVec 4 := 4
def domPartition : BitVec 4 := 5
def domWarm : BitVec 4 := 6
def domCold : BitVec 4 := 7
def domTeardown : BitVec 4 := 8

/-- Whether a status has the effect "Partition stopped" (R106). -/
def stopsPartition (st : Byte) : Bool := st == stIntegrityFail || st == stCounterExhausted || st == stInternal

/-- Whether a status lets the SIG_SEM increment happen (R99). -/
def signals (st : Byte) : Bool := st == stOK || st == stSkipped || st == stSquashed || st == stDispatchOverflow

/-- Whether the registers of BAR0 are served: stage READY, or a held module (R505, R573). -/
def regsServed (s : State) : Bool := s.boot.stage == 5 || s.evt.modState == 2

/-! ### Rings and events -/

/-- L of a ring: values outside 6–16 are treated as 6 (R84). -/
def ringLog (l : BitVec 5) : Nat := if 6 ≤ l.toNat ∧ l.toNat ≤ 16 then l.toNat else 6

/-- PHASE of record number j in a ring of 2^L slots (R101). -/
def phaseOf (j : Word) (log2 : Nat) : Bool := j.toNat / 2 ^ log2 % 2 == 0

/-- An event record's 32 bytes (R108). -/
def eventRec (type cause : Byte) (comb : Comb) (lost : Word) (time : DWord) (beat : BitVec 48) (detail : BitVec 56)
    (phase : Bool) : Bytes :=
  [type, cause, BitVec.ofNat 8 comb.val, 0] ++ leBytes 4 lost.toNat ++ leBytes 8 time.toNat ++ leBytes 6 beat.toNat
    ++ [0, 0] ++ leBytes 7 detail.toNat ++ [if phase then 1 else 0]

/-- Whether an event ring takes a record now (R108). -/
def EvRing.free (e : EvRing) : Bool := e.enable && decide ((e.written - e.head).toNat < 2 ^ ringLog e.log2)

/-- The ring after one event: written, or lost and counted (R108). -/
def EvRing.push (e : EvRing) : EvRing :=
  if e.free then { e with written := e.written + 1, lostNow := 0 }
  else { e with lost := hit 32 e.lost, lostNow := e.lostNow + 1 }

/-- The record an event ring writes for an event, if it writes one, in its next slot of host memory. -/
def evOut (f : Fn) (e : EvRing) (type cause : Byte) (comb : Comb) (time : DWord) (beat : BitVec 48)
    (detail : BitVec 56) : List HostItem :=
  if e.free then
    [.post 32 (.event f (e.base + w64 (32 * (e.written.toNat % 2 ^ ringLog e.log2)))
      (eventRec type cause comb e.lostNow time beat detail (phaseOf e.written (ringLog e.log2))))]
  else []

/-- An event for partition p's own event ring. -/
def eventToPart (p : Part) (type cause : Byte) (comb : Comb) (detail : BitVec 56) (s : State) : State :=
  (hostPutAll (fnOf p) (evOut (fnOf p) s.parts[p].evq type cause comb (humNs s comb) (beatOf s comb) detail) s).modPart p
    fun q => { q with evq := q.evq.push }

/-- An event for the PF0 event ring. -/
def eventToPf0 (type cause : Byte) (comb : Comb) (detail : BitVec 56) (s : State) : State :=
  (hostPutAll 0 (evOut 0 s.mod.evq type cause comb (humNs s comb) (beatOf s comb) detail) s).modMod
    fun m => { m with evq := m.evq.push }

/-- A platform event kept for the BMC: the 64 oldest unread are kept, the rest counted (R568). `kind` 1: a numeric sensor
entered another band; 2: a state sensor changed; `cause`: the sensor's ID; `detail`: its new reading (log entry 47). -/
def platEvent (kind cause : Byte) (detail : BitVec 56) (s : State) : State :=
  s.modMgmt fun m => if m.events.length < 64 then { m with events := m.events ++ [⟨kind, cause, detail⟩] }
    else { m with evLost := m.evLost + 1 }

/-- An event of partition p: its own ring, and a summary to PF0 (R108). -/
def postEvent (p : Part) (type cause : Byte) (comb : Comb) (detail : BitVec 56) (s : State) : State :=
  eventToPf0 type cause comb detail (eventToPart p type cause comb detail s)

/-- The reset of a unit of no partition, or of a strand-port, is complete: BUSY clears, and RECOVERY_DONE with the domain
code goes to PF0 only (R490, R511). -/
def unitResetDone (dom : BitVec 4) (k : Comb) (s : State) : State :=
  eventToPf0 evRecoveryDone 0 k (dom.setWidth 56)
    (s.modEvt fun e => { e with recovery := hit 16 e.recovery, resetBusy := false, resetPort := none, resetSup := none })

/-- A completion record's 32 bytes (R101, R102). -/
def completionRec (d : Desc) (ring : Ring) (beat : BitVec 48) (phase : Bool) : Bytes :=
  leBytes 4 (fieldAt d.bytes 4 4) ++ [d.status, BitVec.ofNat 8 (ring.val + 16 * d.comb.val), 0, 0]
    ++ leBytes 6 beat.toNat ++ [0, 0] ++ leBytes 4 d.idx.toNat ++ leBytes 4 d.detail.toNat ++ leBytes 7 d.detail2.toNat
    ++ [if phase then 1 else 0]

/-- The descriptor of a ring with a given number. -/
def findDesc (g : RingState) (idx : Word) : Option Desc := g.descs.find? fun d => d.idx == idx

/-- The ring with descriptor idx changed by f. -/
def RingState.modDesc (g : RingState) (idx : Word) (f : Desc → Desc) : RingState :=
  { g with descs := g.descs.map fun d => if d.idx = idx then f d else d }

/-- The state with one descriptor changed. -/
def State.modDesc (s : State) (p : Part) (r : Ring) (idx : Word) (f : Desc → Desc) : State :=
  s.modRing p r fun g => g.modDesc idx f

/-- A descriptor's outcome is decided: the first decision stands (R107). -/
def Desc.decide' (d : Desc) (st : Byte) (detail : Word) (detail2 : BitVec 56) (comb : Comb) : Desc :=
  if d.stage = .done then d else { d with stage := .done, status := st, detail := detail, detail2 := detail2, comb := comb }

/-- Descriptor idx of ring r is decided with a status. -/
def finish (p : Part) (r : Ring) (idx : Word) (st : Byte) (detail : Word) (detail2 : BitVec 56) (comb : Comb)
    (s : State) : State :=
  s.modDesc p r idx fun d => d.decide' st detail detail2 comb

/-! ### Semaphores (R98–R100) -/

/-- The value of a semaphore (R98). -/
def semVal (s : State) (p : Part) (i : Nat) : DWord := tabGet 0 s.parts[p].sems i
/-- A semaphore set. -/
def semPut (p : Part) (i : Nat) (v : DWord) (s : State) : State := s.modPart p fun q => { q with sems := tabSet 0 q.sems i v }

/-- A PSEM DECISION's value: bits [1:0], 0 undecided (R130). -/
def decision (v : DWord) : Option Bool := if v.toNat % 4 = 0 then none else some (v.toNat % 4 == 1)

/-- Arms that wait on semaphore sem see a value of it (R130). -/
def armSees (sem : Nat) (v : DWord) (a : Arm) : Arm :=
  match a with
  | .decision i => if i = sem then (match decision v with | some b => .resolved b | none => a) else a
  | _ => a

/-- A wait that a value satisfies stays satisfied (R100). -/
def waitSees (sem : Nat) (v : DWord) (w : Option (Nat × DWord × Bool × Bool)) : Option (Nat × DWord × Bool × Bool) :=
  w.map fun (i, x, ge, met) => (i, x, ge, met || (decide (i = sem) && if ge then decide (x ≤ v) else decide (v = x)))

/-- A started SYNC wait that a value satisfies completes (R99, R100). -/
def syncSees (sem : Nat) (v : DWord) (d : Desc) : Desc :=
  let op := bits (fieldAt d.bytes 18 1) 1 0
  let x : DWord := w64 (fieldAt d.bytes 24 8)
  if d.stage = .active ∧ fieldAt d.bytes 0 1 = 5 ∧ op < 2 ∧ fieldAt d.bytes 16 2 = sem ∧
      (if op = 0 then decide (x ≤ v) else decide (v = x)) = true
  then d.decide' stOK 0 0 d.comb else d

/-- A ring in WAITING runs again once no wait of it is outstanding. -/
def RingState.unwait (g : RingState) : RingState :=
  { g with state := if g.state = 2 ∧ !g.descs.any (fun d => (d.stage = .active && fieldAt d.bytes 0 1 == 5) || d.blocked)
                    then 1 else g.state }

/-- A semaphore takes a value: every wait is evaluated after the operation (R100). -/
def semWrite (p : Part) (sem : Nat) (v : DWord) (s : State) : State :=
  let s := semPut p sem v s
  let s := forEach (combsOf s p) (fun k s => s.modSeq k fun q =>
    { q with arms := q.arms.map (armSees sem v), wait := waitSees sem v q.wait }) s
  s.modPart p fun q => { q with rings := q.rings.map fun g => RingState.unwait { g with descs := g.descs.map (syncSees sem v) } }

/-! ### Records (R84, R99, R101, R105) -/

/-- The ring after one completion record: the descriptor leaves it, and a disabled ring reads DISABLED once the last
record is written (R84). -/
def RingState.retire (g : RingState) (idx : Word) : RingState :=
  let ds := g.descs.filter fun d => d.idx != idx
  { g with descs := ds, written := g.written + 1
           state := if g.enable then g.state else if ds.isEmpty then 0 else g.state }

/-- Where record number j of a pass lies in host memory (R86). -/
def RingState.slotAddr (g : RingState) (j : Word) : DWord := g.passCq + w64 (32 * (j.toNat % 2 ^ ringLog g.pass))

/-- One completion record is written: the SIG_SEM increment first (R99), then the record in the next slot of the pass, as one
posted write (R84, R101). -/
def writeRecord (p : Part) (r : Ring) (d : Desc) (s : State) : State :=
  let g := s.parts[p].rings[r]
  let L := ringLog g.pass
  let k := serving s p r
  let hdr := fieldAt d.bytes 10 2
  let s := if bits hdr 15 15 = 1 ∧ signals d.status then semWrite p (bits hdr 11 0) (semVal s p (bits hdr 11 0) + 1) s else s
  (hostPut (fnOf p) (.post 32 (.completion p r (g.slotAddr g.written) (completionRec d r (beatOf s k) (phaseOf g.written L))))
    s).modRing p r
    fun g => g.retire d.idx

/-- The failure that decides a COMPUTE or UPDATE over its parts: the first in time (R107, R147). -/
def Desc.worst (d : Desc) : Option (Byte × Word × BitVec 56 × Comb) := d.fails.find? fun f => decide (f.1 ≠ stSquashed)

/-- A descriptor is decided with a status, unless one of its parts has failed before (R107). -/
def Desc.decideFirst (d : Desc) (st : Byte) (detail : Word) (detail2 : BitVec 56) (comb : Comb) : Desc :=
  match d.worst with
  | some (st', a, b, c) => d.decide' st' a b c
  | none => d.decide' st detail detail2 comb

/-- A descriptor decided by a stop: started ones with the status of the fault unless they failed before it, fetched ones
RESET_ABORTED (R105, R107). -/
def Desc.stop (d : Desc) (st : Byte) (detail : Word) (detail2 : BitVec 56) (comb : Comb) (dom : BitVec 4) : Desc :=
  if d.held then d else
  match d.stage with
  | .fetched => d.decide' stResetAborted (dom.setWidth 32) 0 comb
  | _ => d.decideFirst st detail detail2 comb

/-- A ring stopped under R105. -/
def RingState.stop (g : RingState) (st : Byte) (detail : Word) (detail2 : BitVec 56) (comb : Comb) (dom : BitVec 4) :
    RingState :=
  { g with fetching := 0
           before := if g.state = 3 then g.before else g.state
           state := if g.enable then 3 else g.state
           descs := g.descs.map fun d => d.stop st detail detail2 comb dom }

/-- The listed rings of partition p stop under R105, started descriptors with the given status. -/
def stopRings (p : Part) (rs : List Ring) (st : Byte) (detail : Word) (detail2 : BitVec 56) (dom : BitVec 4)
    (s : State) : State :=
  forEach rs (fun r s => s.modRing p r fun g => g.stop st detail detail2 (serving s p r) dom) s

/-- Every decided record of a ring is written, in ring order. -/
def flushRing (p : Part) (r : Ring) (s : State) : State :=
  forEach (s.parts[p].rings[r].descs.filter fun d => d.stage = .done) (fun d s => writeRecord p r d s) s

/-- Every owed record of partition p is written (R499). -/
def flushRings (p : Part) (s : State) : State := forEach (fins 16) (fun r s => flushRing p r s) s

end Sys2Proof.Machine
end

