-- ==== Sys2Proof/Machine/Gens.lean ====
section
/-! DEFINITION. The random bits of stochastic conversions: the generators of R201 and R202 and the health tests of R204. -/

namespace Sys2Proof.Machine

/-! ### Generators (R201, R202) -/

/-- The state that a reseed loads into lane l of unit u (R202). -/
def seededState (seed : BitVec 256) (u l : Nat) : BitVec 128 :=
  let x := (Config.sha512 (leBytes 32 seed.toNat ++ leBytes 2 u ++ leBytes 2 l)).extractLsb' 0 128
  if x = 0 then BitVec.ofNat 128 (l + 1) else x

/-- The state of lane l of unit u i draws from now. -/
def Gens.state (g : Gens) (u l i : Nat) : BitVec 128 :=
  Nat.repeat Config.genNext (tabGet 0 g.drawn l + i) (match g.seed with
    | some x => seededState x u l
    | none => Config.genStart u l)

/-- The i-th next 16-bit and 32-bit draw of lane l of unit u. -/
def Gens.draw16 (g : Gens) (u l i : Nat) : Nat := (Config.genDraw16 (g.state u l i)).toNat
def Gens.draw32 (g : Gens) (u l i : Nat) : Word := Config.genDraw32 (g.state u l i)

/-- Draws taken: pairs of a lane and a number. -/
def Gens.take (g : Gens) (ls : List (Nat × Nat)) : Gens :=
  { g with drawn := ls.foldl (fun t e => tabSet 0 t e.1 (tabGet 0 t e.1 + e.2)) g.drawn }

/-- How many of n elements, dealt to w lanes in turn, fall to lane j. -/
def shareOf (w n j : Nat) : Nat := ceilDiv (n - j) w

/-- The draws that w lanes take for n elements with m draws each. -/
def drawsOf (w m n : Nat) : List (Nat × Nat) := (List.range (min n w)).map fun j => (j, m * shareOf w n j)

/-- The same over the 128 lanes of an engine of a cell: m rows of n elements. -/
def laneShare (n j : Nat) : Nat := shareOf 128 n j
def laneDraws (m n : Nat) : List (Nat × Nat) := drawsOf 128 m n

/-- Unit numbers (R202): the cells of comb k, and the Hild rounding and noise generators of super k. -/
def cellUnit (k : Comb) : Nat := k.val
def roundingUnit (k : Super) : Nat := 0x100 + k.val
def noiseUnit (k : Super) : Nat := 0x200 + k.val

/-- Lane j of an engine of a logical cell: 0 the array output stage, 1 the vector engine, 2 the row engine (R202). -/
def cellLane (n : Cell) (e : Engine) (j : Nat) : Nat :=
  384 * n.val + 128 * (match e with | .array => 0 | .vector => 1 | .row => 2) + j

/-- The i-th next draw of lane j of an engine of logical cell n of comb k. -/
def cellDraw (s : State) (x : At) (e : Engine) (j i : Nat) : Nat :=
  s.combs[x.comb].gens.draw16 (cellUnit x.comb) (cellLane x.cell e j) i

/-- Draws taken by the lanes of an engine. -/
def takeDraws (x : At) (e : Engine) (ls : List (Nat × Nat)) (s : State) : State :=
  if ls.isEmpty then s else
  s.modComb x.comb fun c => { c with gens := c.gens.take (ls.map fun l => (cellLane x.cell e l.1, l.2)) }

/-! ### The entropy source (R204) -/

/-- A seed conditioned from 1,024 raw bits, which are free values. -/
def freshSeed (s : State) : BitVec 256 :=
  (Config.sha512 (leBytes 64 (drawNow 512 s).toNat ++ leBytes 64 (drawNow 512 (drawn s)).toNat)).extractLsb' 0 256

/-- Bit i says that bits i to i + 2n − 1 are all 1, where bit i of x says it of n bits. -/
def runDouble (x n : Nat) : Nat := Nat.land x (x / 2 ^ n)

/-- Whether 81 consecutive raw bits of n are identical (R204): 80 consecutive pairs of neighbours are equal. -/
def rctFails (n raw : Nat) : Bool :=
  let y := 2 ^ (n - 1) - 1 - Nat.xor raw (raw / 2) % 2 ^ (n - 1)
  let y16 := runDouble (runDouble (runDouble (runDouble y 1) 2) 4) 8
  let y64 := runDouble (runDouble y16 16) 32
  decide (Nat.land y64 (y16 / 2 ^ 64) ≠ 0)

/-- The 1 bits among the low 2^k bits. -/
def onesIn : Nat → Nat → Nat
  | 0, x => x % 2
  | k + 1, x => onesIn k x + onesIn k (x / 2 ^ 2 ^ k)

/-- Whether a window of 1,024 raw bits holds 840 or more equal to its first (R204). -/
def aptFails (w : Nat) : Bool := let n := onesIn 10 w; decide (840 ≤ if w % 2 = 1 then n else 1024 - n)

end Sys2Proof.Machine
end

