-- ==== Sys2Proof/Machine/Identity.lean ====
section
/-! DEFINITION. Keys and secrets derived from the fuses and the measured firmware (R448), and the crown MAC (R445). -/

namespace Sys2Proof.Machine

/-- The first bits of HKDF-SHA-512 over an input keying material, a salt and an info string, byte 0 lowest (R3). -/
def hkdf (w : Nat) (ikm salt info : Bytes) : BitVec w :=
  BitVec.ofNat w (le ((List.range (w / 8)).map (Config.hkdfByte ikm salt info)))

/-- HKDF of R448: no salt, an info string that names the key. -/
def derive (ikm info : Bytes) : BitVec 256 := hkdf 256 ikm [] info

/-- "ADL-" in front of the name of a derived key. -/
def adl (name : Bytes) : Bytes := [0x41, 0x44, 0x4C, 0x2D] ++ name

/-- The unique device secret as bytes (R447). -/
def udsBytes : Bytes := leBytes 32 Config.uds.toNat

/-- The DeviceID seed and public key: of the UDS alone, through every firmware change (R448). -/
def devidSeed : BitVec 256 := derive udsBytes (adl [0x44, 0x45, 0x56, 0x49, 0x44])
def devidPub : BitVec 256 := Config.ed25519Pub devidSeed

/-- K_crown (R448). -/
def kCrown : BitVec 256 := derive udsBytes (adl [0x43, 0x52, 0x4F, 0x57, 0x4E])

/-- cdi0: the UDS and the boot ROM; cdi1: the three component digests, the security version and the debug state on top (R448). -/
def cdi0 : BitVec 512 := Config.hmacSha512 udsBytes (leBytes 64 Config.bootRomDigest.toNat)
def cdi1Of (dQueen dSeq dHild : BitVec 512) (svn : BitVec 7) : BitVec 512 :=
  Config.hmacSha512 (leBytes 64 cdi0.toNat) (leBytes 64 dQueen.toNat ++ leBytes 64 dSeq.toNat ++ leBytes 64 dHild.toNat ++
    leBytes 4 svn.toNat ++ leBytes 1 Config.fusedDebugState.toNat)

/-- The alias seed and public key, and the content key of key ID 0, of a cdi1 (R448). -/
def aliasSeed (cdi1 : BitVec 512) : BitVec 256 := derive (leBytes 64 cdi1.toNat) (adl [0x41, 0x4C, 0x49, 0x41, 0x53])
def aliasPub (cdi1 : BitVec 512) : BitVec 256 := Config.ed25519Pub (aliasSeed cdi1)
def qregKey (cdi1 : BitVec 512) : BitVec 256 := derive (leBytes 64 cdi1.toNat) (adl [0x51, 0x52, 0x45, 0x47])

/-- A signature by the alias key over SHA-512 of some bytes (R448, R476). -/
def aliasSign (cdi1 : BitVec 512) (body : Bytes) : Bytes :=
  Config.ed25519Sign (aliasSeed cdi1) (leBytes 64 (Config.sha512 body).toNat)

/-- The alias certificate that a boot issues, signed by the DeviceID key, and the chain of SPDM slot 0 (R449). -/
def aliasCert (cdi1 : BitVec 512) (digests : List (BitVec 512)) (svn : BitVec 7) : Bytes :=
  let body := Config.aliasCertBody (aliasPub cdi1) digests svn Config.fusedDebugState
  body ++ Config.ed25519Sign devidSeed body
def certChain (cdi1 : BitVec 512) (digests : List (BitVec 512)) (svn : BitVec 7) : Bytes :=
  Config.vendorCertificates ++ aliasCert cdi1 digests svn

/-- The MAC of a crown sideband message: 8 bytes of HMAC-SHA-512 under K_crown over the message and its sequence (R445). -/
def crownMac (msg : Sideband) (seq : Word) : BitVec 64 :=
  let body := match msg with
    | .heartbeat e d => Config.sidebandBytes false e.toNat d.val
    | .claim e d => Config.sidebandBytes true e.toNat d.val
  BitVec.ofNat 64 (le ((leBytes 64 (Config.hmacSha512 (leBytes 32 kCrown.toNat) (body ++ leBytes 4 seq.toNat)).toNat).take 8))

end Sys2Proof.Machine
end

