-- ==== Sys2Proof/Machine/Map.lean ====
section
/-! DEFINITION. Where things lie: the partition address map of R318–R322, the counter tree and its cache (R346–R351), and
the comb and cell stores. -/

namespace Sys2Proof.Machine

/-- One region of a committed table: its PPA range and its base on the supers at positions 0 to S − 1 (R321, R322). -/
structure RgnMap where
  kind  : Nat
  pos   : Nat
  keyId : KeyId
  p0    : Nat
  len   : Nat
  base  : List Nat
  deriving DecidableEq, Repr

/-- Kinds 3 and 4 lie in the sealed window (R318). -/
def kindSealed (k : Nat) : Bool := k == 3 || k == 4
/-- Kinds 2 and 4 lie on one super. -/
def kindLocal (k : Nat) : Bool := k == 2 || k == 4

/-- Bytes of SHARE (R318). -/
def shareBytes (g : Region) : Nat := g.share.toNat * 67108864

/-- Whether a region uses the super at position i. -/
def usesPos (g : Region) (i : Nat) : Bool := !kindLocal g.kind.toNat || decide (g.pos.toNat = i)

/-- The cursors after a region (R321). -/
def advance (g : Region) (cur : List Nat) : List Nat := cur.mapIdx fun i c => if usesPos g i then c + shareBytes g else c

/-- The regions laid end to end from PPA p0, with data and sealed cursors dc and sc. -/
def layRegions (size : Nat) : List Region → Nat → List Nat → List Nat → List RgnMap
  | [], _, _, _ => []
  | g :: rest, p0, dc, sc =>
    if g.kind = 0 then [] else
    let sl := kindSealed g.kind.toNat
    let len := if kindLocal g.kind.toNat then shareBytes g else size * shareBytes g
    let m : RgnMap := ⟨g.kind.toNat, g.pos.toNat, Fin.ofNat 64 g.keyId.toNat, p0, len, if sl then sc else dc⟩
    m :: (if sl then layRegions size rest (p0 + len) dc (advance g sc) else layRegions size rest (p0 + len) (advance g dc) sc)

/-- The start of the sealed window, of the queen regions, and of the metadata reservation with its tag region, counter tree
and controller area (R315, R316). -/
def sealedBase : Nat := 0xE50000000
def queenBase : Nat := 0xE30000000
def metaBase : Nat := 0xED0000000
def tagBase : Nat := 0xED0000000
def treeBase : Nat := 0xFB5000000
def controlBase : Nat := 0xFFE000000

/-- The spaces of a super's device offset map (R315). -/
inductive Space where
  | tagData | sealed | tags | tree | control
  deriving DecidableEq, Repr

/-- The space a device offset lies in (R315). -/
def spaceOf (off : Nat) : Space :=
  if off < sealedBase then .tagData else if off < metaBase then .sealed else if off < treeBase then .tags
  else if off < controlBase then .tree else .control

/-- The regions of partition p's table. -/
def regionMap (s : State) (p : Part) : List RgnMap :=
  layRegions (sizeOf s p) s.parts[p].rgn.toList 0 (List.replicate (sizeOf s p) 0) (List.replicate (sizeOf s p) sealedBase)

/-- The end of the partition's PPA space. -/
def ppaEnd (s : State) (p : Part) : Nat := ((regionMap s p).map (·.len)).sum

/-- Whether n bytes from a lie in the usable PPA space (READY set, R320). -/
def inPpa (s : State) (p : Part) (a n : Nat) : Bool := s.parts[p].ready && decide (a + n ≤ ppaEnd s p)

/-- The region a PPA lies in. -/
def regionAt (s : State) (p : Part) (a : Nat) : Option RgnMap :=
  if s.parts[p].ready then (regionMap s p).find? fun m => decide (m.p0 ≤ a) && decide (a < m.p0 + m.len) else none

/-- Super and device offset of a PPA in its region (R322). -/
def devOf (s : State) (p : Part) (m : RgnMap) (a : Nat) : Super × Nat :=
  let o := a - m.p0
  if kindLocal m.kind then (combAt p m.pos, m.base.getD m.pos 0 + o)
  else
    let S := sizeOf s p
    let q := o / 4096 % S
    (combAt p q, m.base.getD q 0 + o / 4096 / S * 4096 + o % 4096)

/-- The PPA of a device offset of super k in a region, if the region holds it. -/
def ppaIn (s : State) (p : Part) (m : RgnMap) (k : Super) (off : Nat) : Option Nat :=
  let i := posOf p k
  let b := m.base.getD i 0
  if kindLocal m.kind then
    if m.pos = i ∧ b ≤ off ∧ off < b + m.len then some (m.p0 + (off - b)) else none
  else
    let S := sizeOf s p
    if b ≤ off ∧ off < b + m.len / S then some (m.p0 + ((off - b) / 4096 * S + i) * 4096 + (off - b) % 4096) else none

/-- The partition, region and PPA that own a device offset of super k. -/
def ownerAt (s : State) (k : Super) (off : Nat) : Option (Part × RgnMap × Nat) :=
  match partOf s k with
  | none => none
  | some p =>
    if s.parts[p].ready then (regionMap s p).findSome? fun m => (ppaIn s p m k off).map fun a => (p, m, a) else none

/-- Whether an offset of super k lies in a queen region (R315). -/
def inQueenRegion (k : Super) (off : Nat) : Bool := (k.val == 0 || k.val == 4) && decide (queenBase ≤ off) && decide (off < sealedBase)

/-- Whether an offset is in the sealed layout (R315). -/
def sealedAt (k : Super) (off : Nat) : Bool := (decide (sealedBase ≤ off) && decide (off < metaBase)) || inQueenRegion k off

/-- The partitions with a region over the device offsets lo to hi − 1 of super k. -/
def ownersOver (s : State) (k : Super) (lo hi : Nat) : List Part :=
  match partOf s k with
  | none => []
  | some p =>
    if s.parts[p].ready && (regionMap s p).any (fun m =>
        let b := m.base.getD (posOf p k) 0
        let n := if kindLocal m.kind then (if m.pos = posOf p k then m.len else 0) else m.len / sizeOf s p
        decide (0 < n) && decide (b < hi) && decide (lo < b + n)) then [p] else []

/-- The lines and the sectors that n bytes from a touch. -/
def linesOf (a n : Nat) : List (Nat × Nat) := pieces 128 (n / 128 + 2) a n
def sectorsOf (a n : Nat) : List (Nat × Nat) := pieces 512 (n / 512 + 2) a n

/-! ### The counter tree (R346–R351) -/

/-- The node of a level that covers an offset, and the node above a node. -/
def nodeOf (level off : Nat) : Nat := level * 16777216 + off / 2 ^ (9 + 3 * level)
def nodeLevel (n : Nat) : Nat := n / 16777216
def nodeIndex (n : Nat) : Nat := n % 16777216
def nodeParent (n : Nat) : Nat := (nodeLevel n + 1) * 16777216 + nodeIndex n / 8
/-- The first byte a node covers and the bytes it covers. -/
def nodeBase (n : Nat) : Nat := nodeIndex n * 2 ^ (9 + 3 * nodeLevel n)
def nodeSpan (n : Nat) : Nat := 2 ^ (9 + 3 * nodeLevel n)

/-- Whether a node over an offset is poisoned (R356). -/
def nodeBad (u : SuperState) (off : Nat) : Bool := (List.range 8).any fun i => u.badNodes.contains (nodeOf (i + 1) off)

/-- A counter event of the cache: the node, and whether its parent counter is exhausted (else it reached 2^55). -/
abbrev CtrEvent := Nat × Bool

/-- A dirty node leaves the cache: its parent counter advances by 1 (R351); at 2^56 it stays (R356). -/
def writeBack (n : Nat) (u : SuperState) : SuperState × List CtrEvent :=
  let c := tabGet 0 u.nodeCtr n + 1
  if c = 2 ^ 56 then ({ u with ctrExh := hit 16 u.ctrExh, perrOff := BitVec.ofNat 36 (nodeBase n), perrKind := 5,
                               perrLevel := BitVec.ofNat 4 (nodeLevel n + 1), perrKey := 0 }, [(n, true)])
  else if c = 2 ^ 55 then ({ u with nodeCtr := tabSet 0 u.nodeCtr n c, ctrWarn := hit 16 u.ctrWarn }, [(n, false)])
  else ({ u with nodeCtr := tabSet 0 u.nodeCtr n c }, [])

/-- The entries of a node's cache set, least recent last. -/
def setOf (u : SuperState) (n : Nat) : List (Nat × Bool) :=
  u.cache.filter fun e => decide (nodeLevel e.1 < 5) && decide (Config.cacheSet e.1 = Config.cacheSet n)

/-- The node that must leave a full set, if any. -/
def victim (u : SuperState) (n : Nat) : Option (Nat × Bool) :=
  if 16 - Config.pinnedWays (Config.cacheSet n) < (setOf u n).length then (setOf u n).getLast? else none

/-- A node looked up, brought in with its ancestors if absent, made most recent, and dirtied if d (R350). -/
def touchNode : Nat → Nat → Bool → SuperState → SuperState × List CtrEvent
  | 0, _, _, u => (u, [])
  | k + 1, n, d, u =>
    if 5 ≤ nodeLevel n then
      ({ u with hits := u.hits + 1, cache := if d then (n, true) :: u.cache.filter (fun e => decide (e.1 ≠ n)) else u.cache }, [])
    else
      match u.cache.find? fun e => decide (e.1 = n) with
      | some e => ({ u with hits := u.hits + 1, cache := (n, e.2 || d) :: u.cache.filter fun e => decide (e.1 ≠ n) }, [])
      | none =>
        let (u, w) := touchNode k (nodeParent n) false { u with misses := u.misses + 1 }
        let u := { u with cache := (n, d) :: u.cache }
        match victim u n with
        | none => (u, w)
        | some (v, false) => ({ u with cache := u.cache.filter fun e => decide (e.1 ≠ v) }, w)
        | some (v, true) =>
          let (u, x) := writeBack v u
          if x.any (·.2) then (u, w ++ x) else
          let (u, y) := touchNode k (nodeParent v) true { u with cache := u.cache.filter fun e => decide (e.1 ≠ v) }
          (u, w ++ x ++ y)

/-- The counter of the sector at an offset is fetched or advanced through the cache. -/
def touchCtr (off : Nat) (d : Bool) (u : SuperState) : SuperState × List CtrEvent := touchNode 8 (nodeOf 1 off) d u

/-- Every dirty node of a level is written back (R351). -/
def flushLevel (lvl : Nat) (u : SuperState) : SuperState :=
  (u.cache.filter fun e => e.2 && decide (nodeLevel e.1 = lvl)).foldl
    (fun u e =>
      let (u, x) := writeBack e.1 u
      if x.any (·.2) then u else
      let pn := nodeParent e.1
      { u with cache := (if lvl < 8 then [(pn, true)] else []) ++
          (u.cache.filter fun c => decide (c.1 ≠ pn)).map fun c => if c.1 = e.1 then (c.1, false) else c }) u

/-- Every dirty node is written back, leaves first, and the roots updated (R351). -/
def flushTree (u : SuperState) : SuperState := (List.range 8).foldl (fun u i => flushLevel (i + 1) u) u

/-- A formatted tree: counters 0, no bad node, an empty cache, every node written; every sector is a zero sector (R349). -/
def formatTree (u : SuperState) : SuperState :=
  { u with ctr := [], nodeCtr := [], cache := [], badNodes := [], poison := [], mem := [], tree := 1
           dramErr := tabClear u.dramErr (treeBase / 128) (controlBase / 128) }

/-! ### The comb store and the cell stores -/

/-- Bytes of the comb store, and of a cell store (R14). -/
def combStoreBytes : Nat := 25165824
def cellStoreBytes : Nat := 3145728
/-- Bytes of cell-store space as forager transfers reach it: the store, then the row-statistics records (R248). -/
def cellSpaceBytes : Nat := 3407872

/-- The physical cell that logical cell n of comb k names (R178): the spare stands in for SUBST. -/
def physCell (s : State) (k : Comb) (n : Cell) : PCell :=
  if s.combs[k].subst.toNat = n.val then 20 else n.castSucc

/-- Bytes of a comb store. -/
def combRead (s : State) (k : Comb) (a n : Nat) : Bytes := memRead s.combs[k].store a n
/-- A comb store written. -/
def combWrite (k : Comb) (a : Nat) (data : Bytes) (s : State) : State :=
  s.modComb k fun c => { c with store := memWrite c.store a data }
/-- Byte i of the row-statistics store: record i / 8, whose word w is bytes 4 w to 4 w + 3 (R247, R248). -/
def statByte (t : Tab Word) (i : Nat) : Byte := (tabGet 0 t (i / 4)).extractLsb' (8 * (i % 4)) 8
/-- Bytes of the row-statistics store written. -/
def statWrite (t : Tab Word) : Nat → Bytes → Tab Word
  | _, [] => t
  | i, b :: bs =>
    let w := (tabGet 0 t (i / 4)) &&& ~~~ (0xFF#32 <<< (8 * (i % 4))) ||| (b.setWidth 32) <<< (8 * (i % 4))
    statWrite (tabSet 0 t (i / 4) w) (i + 1) bs

/-- Bytes of a logical cell's space: its store, and its row-statistics records behind it (R248). -/
def cellRead (s : State) (k : Comb) (n : Cell) (a len : Nat) : Bytes :=
  let c := s.combs[k].cells[physCell s k n]
  let m := min len (cellStoreBytes - a)
  memRead c.store a m ++ (List.range (len - m)).map fun i => statByte c.stats (a + m - cellStoreBytes + i)
/-- A logical cell's space written. -/
def cellWrite (k : Comb) (n : Cell) (a : Nat) (data : Bytes) (s : State) : State :=
  let m := cellStoreBytes - a
  s.modCell k (physCell s k n) fun c => { c with
    store := memWrite c.store a (data.take m), stats := statWrite c.stats (a + m - cellStoreBytes) (data.drop m) }

end Sys2Proof.Machine
end

