-- ==== Sys2Proof/Machine/Dram.lean ====
section
/-! DEFINITION. What the DRAM of a super holds and how it reads back: the two codes of R310–R312, line ciphertext (R340,
R341), line tags (R344, R345), tree nodes with their MACs (R346–R348), and what a read of a line meets (R352). A written line
is kept as its plaintext; ciphertext, tags, check bytes and nodes are what the rules make of it and of the slot keys. -/

namespace Sys2Proof.Machine

/-! ### Error correction (R308, R310–R312) -/

/-- The byte of a line, or of its ECC space from 128 on, in a pattern of flipped bits. -/
def flipByte (e : BitVec 1152) (i : Nat) : Nat := e.toNat / 2 ^ (8 * i) % 256

/-- The die that holds byte i of a line, 9 bytes on each (R308); the assignment is free. -/
def byteDie (i : Fin 144) : Fin 16 := ⟨(Config.dieLayout i).val / 9, by omega⟩

/-- The bytes of a line in error, and those outside a die. -/
def badBytes (e : BitVec 1152) : List (Fin 144) := (fins 144).filter fun i => decide (flipByte e i.val ≠ 0)
def badOutside (e : BitVec 1152) (d : Fin 16) : List (Fin 144) := (badBytes e).filter fun i => decide (byteDie i ≠ d)

/-- The symbol code (R310): any 8 byte errors are corrected, with a die erased any 3 more outside it; up to 16 are detected.
What is left after correction, or none. -/
def symbolDecode (e : BitVec 1152) (die : Option (Fin 16)) : Option (BitVec 1152) :=
  let n := match die with
    | none => (badBytes e).length
    | some d => (badOutside e d).length
  if n ≤ (if die.isNone then 8 else 3) then some 0 else if n ≤ 16 then none else Config.rsFar e die

/-- The trials of R312 that decode: one for each die, its bytes erased. -/
def dieTrials (e : BitVec 1152) : List (Fin 16) := (fins 16).filter fun d => (symbolDecode e (some d)).isSome

/-- The remainder of a polynomial over GF(2) of degree below n + 16 by (x + 1)(x^15 + x + 1) (R311). -/
def cyclicRem : Nat → Nat → Nat
  | 0, v => v
  | n + 1, v => cyclicRem n (if v.testBit (n + 16) then Nat.xor v (0x18005 * 2 ^ n) else v)

/-- The check of a chunk of 34 bytes (R311). -/
def chunkCheck (chunk : Nat) : Nat := cyclicRem 272 (chunk % 2 ^ 272 * 65536)

/-- The flipped bits of tag and data in the order of R311, tag first. -/
def sealedSeq (e : BitVec 1152) : Nat := e.toNat / 2 ^ 1024 % 2 ^ 64 + e.toNat % 2 ^ 1024 * 2 ^ 64

/-- Chunk c of a pattern as one word of the code: its 34 bytes above its 16-bit check. -/
def sealedChunk (e : BitVec 1152) (c : Nat) : Nat :=
  sealedSeq e / 2 ^ (272 * c) % 2 ^ 272 * 65536 + e.toNat / 2 ^ (1088 + 16 * c) % 65536

/-- A chunk after correction of a single bit: what is left of its flipped bits, or none (R311). -/
def chunkDecode (w : Nat) : Option Nat :=
  let r := cyclicRem 272 w
  if r = 0 then some w
  else ((List.range 288).find? fun i => cyclicRem 272 (2 ^ i) == r).map fun i => Nat.xor w (2 ^ i)

/-- A pattern put together from its four chunks. -/
def ofChunks (ws : List Nat) : BitVec 1152 :=
  let seq := (ws.mapIdx fun c w => w / 65536 * 2 ^ (272 * c)).sum
  BitVec.ofNat 1152 (seq / 2 ^ 64 + seq % 2 ^ 64 * 2 ^ 1024 + (ws.mapIdx fun c w => w % 65536 * 2 ^ (1088 + 16 * c)).sum)

/-- The sealed layout (R310, R311): each chunk corrects one bit on its own. -/
def sealedDecode (e : BitVec 1152) : Option (BitVec 1152) :=
  (((List.range 4).map fun c => chunkDecode (sealedChunk e c)).allSome).map ofChunks

/-- What error correction makes of a line: the flipped bits that remain, whether it corrected some, and a die that it
marks. -/
structure Decoded where
  left : BitVec 1152 := 0
  corrected : Bool := false
  mark : Option (Fin 16) := none
  deriving DecidableEq, Repr

/-- Line l of super k read through its ECC (R310–R314); none: it is uncorrectable. -/
def decodeLine (u : SuperState) (k : Super) (l : Nat) : Option Decoded :=
  let e := tabGet 0 u.dramErr l
  if sealedAt k (128 * l) then
    if u.dieMark then none else if e = 0 then some {} else (sealedDecode e).map fun r => ⟨r, decide (r ≠ e), none⟩
  else if e = 0 then some {}
  else match symbolDecode e (if u.dieMark then some (Fin.ofNat 16 u.die.toNat) else none) with
  | some r => some ⟨r, decide (r ≠ e), none⟩
  | none =>
    if u.dieMark then none else
    match dieTrials e with
    | [d] => (symbolDecode e (some d)).map fun r => ⟨r, false, some d⟩
    | _ => none

/-! ### Encryption (R340, R341) -/

/-- The tweak of the sector that holds a PPA, or a device offset of a queen region, under a key ID (R340). -/
def sectorTweak (addr keyId : Nat) : BitVec 128 := BitVec.ofNat 128 (addr / 512 % 2 ^ 55 + keyId % 64 * 2 ^ 64)

/-- Where a line lies for its cipher: the PPA of the line and its key ID, or the device offset and key ID 0 in a queen
region (R340). -/
def cipherPlace (s : State) (k : Super) (l : Nat) : Option (Nat × KeyId) :=
  if inQueenRegion k (128 * l) then some (128 * l, 0) else (ownerAt s k (128 * l)).map fun o => (o.2.2, o.2.1.keyId)

/-- The eight blocks of a line through a block function. -/
def lineBlocks (f : Nat → BitVec 128 → BitVec 128) (addr : Nat) (bytes : Bytes) : Bytes :=
  (List.range 8).flatMap fun i => leBytes 16 (f (8 * (addr / 128 % 4) + i) (BitVec.ofNat 128 (fieldAt bytes (16 * i) 16))).toNat

/-- A line encrypted under an XTS pair (R340), and decrypted. -/
def encryptLine (x : XtsKeys) (addr keyId : Nat) (plain : Bytes) : Bytes :=
  lineBlocks (Config.xtsEncrypt x.k1 x.k2 (sectorTweak addr keyId)) addr plain
def decryptLine (x : XtsKeys) (addr keyId : Nat) (cipher : Bytes) : Bytes :=
  lineBlocks (Config.xtsDecrypt x.k1 x.k2 (sectorTweak addr keyId)) addr cipher

/-- The 128 bytes that a line of data holds in DRAM: zeros for a poisoned line (R355) and where a scrub left them (R360), the
ciphertext for a line of a written sector, what was there before otherwise. -/
def storedLine (s : State) (k : Super) (l : Nat) : Bytes :=
  let u := s.supers[k]
  if u.poison.contains l then List.replicate 128 0
  else if tabGet 0 u.ctr (l / 4) ≠ 0 then
    match cipherPlace s k l with
    | some (a, id) => encryptLine u.slots[id].xts a id.val (memRead u.mem (128 * l) 128)
    | none => memRead u.mem (128 * l) 128
  else (List.range 128).map fun i =>
    if u.zeroed.any fun r => decide (r.1 ≤ 128 * l + i) && decide (128 * l + i < r.2) then 0
    else Config.dramByte k.val (128 * l + i) u.fill

/-! ### Tags (R344, R345) -/

/-- The IV of a line's tag (R344). -/
def lineIv (ctr line k keyId : Nat) (poison : Bool) : BitVec 96 :=
  BitVec.ofNat 96 (ctr % 2 ^ 56 + line % 2 ^ 29 * 2 ^ 56 + k % 8 * 2 ^ 85 + keyId % 64 * 2 ^ 88 + b2n poison * 2 ^ 94)

/-- An 8-byte tag over bytes kept in clear: the first 8 bytes of the AES-256-GCM tag of an empty plaintext (R344, R348). -/
def tag8 (key : BitVec 256) (iv : BitVec 96) (aad : Bytes) : BitVec 64 :=
  BitVec.ofNat 64 (le ((Config.gcmSeal key iv aad []).take 8))

/-- The tag of a line over given ciphertext, under the current counter of its sector (R344, R355). -/
def lineTag (s : State) (k : Super) (l : Nat) (cipher : Bytes) : BitVec 64 :=
  let u := s.supers[k]
  let id := ((cipherPlace s k l).map (·.2)).getD 0
  let bad := u.poison.contains l
  tag8 (if bad then u.kPoison else u.slots[id].km) (lineIv (tabGet 0 u.ctr (l / 4)) l k.val id.val bad) cipher

/-- Where the tag of a tag-data line lies (R345): the line of the tag region and the byte within it. -/
def tagLine (l : Nat) : Nat := tagBase / 128 + l / 16
def tagByte (l : Nat) : Nat := 8 * (l % 16)

/-- The 16 bytes of ECC space of a line of data: in the sealed layout its tag and four chunk checks, else the check bytes of
the symbol code (R310, R311). -/
def eccSpace (s : State) (k : Super) (l : Nat) : Bytes :=
  let data := storedLine s k l
  if sealedAt k (128 * l) then
    let tag := (lineTag s k l data).toNat
    let seq := tag + le data * 2 ^ 64
    leBytes 8 tag ++ (List.range 4).flatMap fun c => leBytes 2 (chunkCheck (seq / 2 ^ (272 * c)))
  else Config.rsCheck data

/-! ### Tree nodes (R346–R348) -/

/-- The base of a level within the tree area (R346). -/
def levelBase (level : Nat) : Nat :=
  [0, 0, 0x3B400000, 0x42A80000, 0x43950000, 0x43B2A000, 0x43B66000, 0x43B6E000, 0x43B6F000].getD level 0

/-- The device offset of a node, and the line it lies in (R346). -/
def nodeAddr (n : Nat) : Nat := treeBase + levelBase (nodeLevel n) + 64 * nodeIndex n
def nodeLine (n : Nat) : Nat := nodeAddr n / 128

/-- The counter slot of a node that covers an offset (R346). -/
def nodeSlot (level off : Nat) : Nat := off / 2 ^ (6 + 3 * level) % 8

/-- Counter i of a node: a sector's version counter at level 1, the parent counter of a node below above it (R347). -/
def nodeCounter (u : SuperState) (n i : Nat) : Nat :=
  if nodeLevel n = 1 then tabGet 0 u.ctr (8 * nodeIndex n + i)
  else tabGet 0 u.nodeCtr ((nodeLevel n - 1) * 16777216 + 8 * nodeIndex n + i)

/-- Bytes 0–55 of a node: its eight counters (R347). -/
def nodeCounters (u : SuperState) (n : Nat) : Bytes := (List.range 8).flatMap fun i => leBytes 7 (nodeCounter u n i)

/-- The IV of a node MAC (R348). -/
def nodeIv (parent index level k : Nat) (poison : Bool) : BitVec 96 :=
  BitVec.ofNat 96 (parent % 2 ^ 56 + index % 2 ^ 24 * 2 ^ 56 + level % 16 * 2 ^ 80 + k % 8 * 2 ^ 84 + b2n poison * 2 ^ 94 + 2 ^ 95)

/-- The MAC of a node over given counter bytes (R348). -/
def nodeMac (u : SuperState) (k : Super) (n : Nat) (counters : Bytes) : BitVec 64 :=
  let bad := u.badNodes.contains n
  tag8 (if bad then u.kPoison else u.kTree) (nodeIv (tabGet 0 u.nodeCtr n) (nodeIndex n) (nodeLevel n) k.val bad) counters

/-- The 64 bytes of a node as DRAM holds it (R347). -/
def nodeBytes (u : SuperState) (k : Super) (n : Nat) : Bytes :=
  nodeCounters u n ++ leBytes 8 (nodeMac u k n (nodeCounters u n)).toNat

/-- Bytes with the bits of a number flipped. -/
def flipBytes (bs : Bytes) (v : Nat) : Bytes := bs.mapIdx fun i b => b ^^^ BitVec.ofNat 8 (v / 2 ^ (8 * i))

/-- Whether a node that is fetched verifies (R348, R350): its line is correctable, and what it reads matches its MAC. -/
def nodeVerifies (u : SuperState) (k : Super) (n : Nat) : Bool :=
  match decodeLine u k (nodeLine n) with
  | none => false
  | some d =>
    let e := d.left.toNat / 2 ^ (8 * (nodeAddr n % 128)) % 2 ^ 512
    decide (e = 0) ||
      decide (nodeMac u k n (flipBytes (nodeCounters u n) (e % 2 ^ 448)) =
        nodeMac u k n (nodeCounters u n) ^^^ BitVec.ofNat 64 (e / 2 ^ 448))

/-- The nodes that lie in a line of the tree area. -/
def nodesIn (l : Nat) : List Nat :=
  (List.range 2).filterMap fun h =>
    let o := 128 * l + 64 * h - treeBase
    ((List.range 8).reverse.find? fun i => decide (levelBase (i + 1) ≤ o)).map fun i =>
      (i + 1) * 16777216 + (o - levelBase (i + 1)) / 64

/-- The pinned nodes, levels 5 to 8, that fail to verify when they are loaded (R350): a node none of whose bits is flipped
verifies. -/
def failedPins (u : SuperState) (k : Super) : List Nat :=
  ((u.dramErr.map (·.1)).flatMap fun l => if treeBase / 128 ≤ l ∧ l < controlBase / 128 then nodesIn l else []).filter fun n =>
    decide (5 ≤ nodeLevel n) && !nodeVerifies u k n

/-- The nodes between a sector and its nearest cached ancestor, the highest first: they are fetched and verified in this
order (R350). -/
def missingNodes (u : SuperState) (off : Nat) : List Nat :=
  (((List.range 4).takeWhile fun i => !u.cache.any fun e => decide (e.1 = nodeOf (i + 1) off)).map fun i => nodeOf (i + 1) off).reverse

/-- The first node that fails when the counter of the sector at an offset is fetched. -/
def failingNode (u : SuperState) (k : Super) (off : Nat) : Option Nat :=
  (missingNodes u off).find? fun n => !nodeVerifies u k n

/-! ### What a read of a line meets (R352, R355, R356) -/

/-- What a read of a line of data meets: a node that fails, a poisoned node, a zero sector, a poisoned line, an uncorrectable
line, a tag that fails, or the line: the bits still wrong in its ciphertext. -/
inductive LineRead where
  | badNode (n : Nat)
  | deadNode
  | zero
  | poisoned
  | lost
  | badTag
  | good (left : BitVec 1024)
  deriving DecidableEq, Repr

/-- The flipped bits left in a line's tag: in the ECC space of a sealed line, in the tag region otherwise; none: its line of
the tag region is uncorrectable. -/
def tagLeft (u : SuperState) (k : Super) (l : Nat) (d : Decoded) : Option (BitVec 64) :=
  if sealedAt k (128 * l) then some (BitVec.ofNat 64 (d.left.toNat / 2 ^ 1024))
  else (decodeLine u k (tagLine l)).map fun t => BitVec.ofNat 64 (t.left.toNat / 2 ^ (8 * tagByte l))

/-- Whether the tag fetched verifies over the ciphertext read (R352). -/
def tagMatches (s : State) (k : Super) (l : Nat) (left : BitVec 1024) (tag : BitVec 64) : Bool :=
  decide (left = 0 ∧ tag = 0) ||
    decide (lineTag s k l (flipBytes (storedLine s k l) left.toNat) = lineTag s k l (storedLine s k l) ^^^ tag)

/-- A line fetched with its tag, corrected and verified. -/
def lineCheck (s : State) (k : Super) (l : Nat) : LineRead :=
  let u := s.supers[k]
  if u.poison.contains l then .poisoned
  else match decodeLine u k l with
  | none => .lost
  | some d =>
    match tagLeft u k l d with
    | none => .lost
    | some t => if tagMatches s k l (d.left.setWidth 1024) t then .good (d.left.setWidth 1024) else .badTag

/-- The steps of R352 for the line that holds an offset. -/
def readOutcome (s : State) (k : Super) (off : Nat) : LineRead :=
  let u := s.supers[k]
  if nodeBad u off then .deadNode
  else match failingNode u k off with
  | some n => .badNode n
  | none => if tabGet 0 u.ctr (off / 512) = 0 then .zero else lineCheck s k (off / 128)

/-- The 128 bytes of plaintext of a line that verified: decrypted by the line cipher of comb node k, or of the base die for
the Hild unit (R336, R352). -/
def plainLine (s : State) (k : Super) (l : Nat) (hild : Bool) (left : BitVec 1024) : Bytes :=
  let u := s.supers[k]
  if left = 0 then memRead u.mem (128 * l) 128
  else match cipherPlace s k l with
  | some (a, id) => decryptLine (if hild then u.slots[id].base else u.slots[id].node) a id.val (flipBytes (storedLine s k l) left.toNat)
  | none => memRead u.mem (128 * l) 128

/-! ### Bits that a write settles -/

/-- Flipped bits of bytes lo to hi − 1 of a line gone, and those of its ECC space. -/
def clearFlips (l lo hi : Nat) (u : SuperState) : SuperState :=
  let e := (tabGet 0 u.dramErr l).toNat
  let mask := 2 ^ 1024 - 1 - (2 ^ (8 * hi) - 2 ^ (8 * lo))
  { u with dramErr := tabSet 0 u.dramErr l (BitVec.ofNat 1152 (Nat.land e mask)) }

/-- A line written whole, with its ECC space. -/
def settleLine (l : Nat) (u : SuperState) : SuperState := { u with dramErr := tabSet 0 u.dramErr l 0 }

/-- The tag of a line rewritten: the tag group of its sector in the tag region, or the line's own ECC space (R343). -/
def settleTag (k : Super) (l : Nat) (u : SuperState) : SuperState :=
  if sealedAt k (128 * l) then clearFlips l 0 0 u else clearFlips (tagLine l) (32 * (l % 16 / 4)) (32 * (l % 16 / 4) + 32) u

/-- What DRAM has flipped since the latest command. -/
def applyFlips (k : Super) (fs : Flips) (s : State) : State :=
  { s with supers := upd s.supers k fun u => fs.foldl (fun u f =>
      { u with dramErr := tabSet 0 u.dramErr f.1 (tabGet 0 u.dramErr f.1 ^^^ f.2) }) u }

end Sys2Proof.Machine
end

