-- ==== Sys2Proof/Machine/Repair.lean ====
section
/-! DEFINITION. Corrected and uncorrectable lines, poison, the repair record and row repair (R309–R313, R328, R329, R355,
R565). -/

namespace Sys2Proof.Machine

/-- The die whose queen region lies on a super, if any (R315). -/
def regionDie (k : Super) : Option Die := if k.val = 0 then some 0 else if k.val = 4 then some 1 else none

/-- The super that holds a die's queen region. -/
def regionSuper (d : Die) : Super := if d.val = 0 then 0 else 4

/-! ### The repair record (R565) -/

/-- A repair-record entry: LOC, TYPE and VALID. -/
def repairWord (type loc : Nat) : Word := w32 (loc + 2 ^ 29 * type + 2 ^ 31)

/-- An event recorded in die d's repair record; a full record sets FULL and posts a WARNING to PF0. -/
def recordRepair (d : Die) (type loc : Nat) (s : State) : State :=
  if s.dies[d].repair.length < 1024 then s.modDie d fun e => { e with repair := e.repair ++ [repairWord type loc] }
  else eventToPf0 evWarning 0xD0 0 (Config.openDetail evWarning 0xD0)
    (s.modQueen fun q => { q with repFull := hit 16 q.repFull })

/-! ### Early-warning counts of a super -/

/-- A monitor of the partition that owns super k counts one more (R509). -/
def ewSuper (k : Super) (m : Fin 7) (s : State) : State :=
  match partOf s k with
  | none => s
  | some p => s.modPart p fun q => { q with ew := { q.ew with counts := upd q.ew.counts m (· + 1),
                                                               combIx := upd q.ew.combIx m fun _ => k } }

/-! ### Rows (R309, R328) -/

/-- Channel, bank and row of a device offset (R309). -/
def channelOf (off : Nat) : Nat := Nat.xor (bits off 16 12) (bits off 25 21)
def bankOf (off : Nat) : Nat := bits off 20 17
def rowOf (off : Nat) : Nat := bits off 35 21
/-- The bank of a channel, and the row, as one number: 16 × channel + bank, then 512 × row above it. -/
def bankKey (off : Nat) : Nat := 16 * channelOf off + bankOf off
def rowKey (off : Nat) : Nat := 512 * rowOf off + bankKey off

/-- A row that needs repair is queued; with no spare left PPR_EXHAUSTED is set (R329). -/
def needRepair (k : Super) (row : Nat) (s : State) : State :=
  let u := s.supers[k]
  if u.repairing = some row ∨ u.repairQ.contains row then s
  else if 16 ≤ tabGet 0 u.spares (row % 512) then
    ewSuper k 6 (s.modSuper k fun u => { u with pprExh := hit 16 u.pprExh })
  else s.modSuper k fun u =>
    if u.repairing.isNone then { u with repairing := some row } else { u with repairQ := u.repairQ ++ [row] }

/-- A line poisoned: zero ciphertext under a poison tag (R355); its row needs repair (R328). -/
def poisonLine (k : Super) (l : Nat) (s : State) : State :=
  if s.supers[k].poison.contains l then s
  else needRepair k (rowKey (128 * l)) (s.modSuper k fun u => settleTag k l (settleLine l { u with poison := l :: u.poison }))

/-- A line was corrected (R310): counted; the fourth time since the last cold boot its row needs repair (R328). -/
def lineCorrected (k : Super) (l : Nat) (s : State) : State :=
  let n := tabGet 0 s.supers[k].lineCe l + 1
  let s := ewSuper k 0 (s.modSuper k fun u => { u with ce := hit 32 u.ce, lineCe := tabSet 0 u.lineCe l n })
  if n = 4 then needRepair k (rowKey (128 * l)) s else s

/-- A line of data that stays uncorrectable (R313): UE, the error log with its SOURCE, poison. -/
def lineUncorrectable (k : Super) (l : Nat) (src : BitVec 3) (s : State) : State :=
  poisonLine k l (s.modSuper k fun u => { u with
    ue := hit 16 u.ue, errOff := BitVec.ofNat 36 (128 * l), errSrc := src, errSealed := sealedAt k (128 * l), errSet := true })

/-! ### The repair of a row (R328, R329) -/

/-- The 32 lines of a row: its 4 KiB of one bank and channel (R309). -/
def rowLines (row : Nat) : List Nat :=
  let r := row / 512
  let chan := Nat.xor (row % 512 / 16) (r % 32)
  (List.range 32).map fun i => (r * 2097152 + row % 16 * 131072 + chan * 4096) / 128 + i

/-- One line of a row copied to the spare: corrected where it can be, poisoned where not (R328). -/
def copyLine (k : Super) (l : Nat) (s : State) : State :=
  match decodeLine s.supers[k] k l with
  | some d => s.modSuper k fun u => { u with dramErr := tabSet 0 u.dramErr l d.left }
  | none => if l < metaBase / 128 then lineUncorrectable k l 2 s else s

/-- The row under repair copied to its spare, remapped, logged in the controller area, recorded (R328, R329, R565). -/
def effRepaired (k : Super) (s : State) : State :=
  match s.supers[k].repairing with
  | none => s
  | some r =>
    let s := forEach (rowLines r) (copyLine k) s
    let s := s.modSuper k fun u => { u with
      spares := tabSet 0 u.spares (r % 512) (tabGet 0 u.spares (r % 512) + 1)
      remap := tabSet 0 u.remap r (tabGet 0 u.spares (r % 512) + 1)
      ppr := hit 16 u.ppr, repairing := none, repairLog := u.repairLog ++ [r] }
    ewSuper k 6 (recordRepair (dieOf k) 3 (k.val + 8 * (r % 512 / 16) + 256 * (r % 16) + 4096 * (r / 512)) s)

/-- The repairs that waited are taken up again. -/
def nextRepair (k : Super) (s : State) : State :=
  let q := s.supers[k].repairQ
  forEach q (fun r s => needRepair k r s) (s.modSuper k fun u => { u with repairQ := [] })

end Sys2Proof.Machine
end

