-- ==== Sys2Proof/Machine/Resets.lean ====
section
/-! DEFINITION. Power domains (R37–R41), zeroing, reseeding and the resets of R488, each as one operation. -/

namespace Sys2Proof.Machine

/-! ### Ports and the parent (R51, R368, R373) -/

/-- The physical port behind a logical port (R368, R373). -/
def physPort (s : State) (p : LPort) : PPort :=
  if p.val = 4 ∧ s.mod.zpSkip then 6 else if p.val = 5 ∧ s.mod.znSkip then 7 else p.castLE (by omega)

/-- The module's distance in hops toward a coordinate in one dimension, and whether the + way is taken (R51). -/
def hopWay (at' root dim : Nat) : Nat × Bool :=
  let d := dim + 1
  let plus := (root + d - at' % d) % d
  let minus := (at' + d - root % d) % d
  if plus ≤ minus then (plus, true) else (minus, false)

/-- The logical port toward the hum root: Z first, then Y, then X (R51). -/
def rootPort (s : State) : Option LPort :=
  let m := s.mod
  let z := hopWay m.z.toNat m.rootZ.toNat m.dimZ.toNat
  let y := hopWay m.y.toNat m.rootY.toNat m.dimY.toNat
  let x := hopWay m.x.toNat m.rootX.toNat m.dimX.toNat
  if m.humRoot then none
  else if 0 < z.1 then some (if z.2 then 4 else 5)
  else if 0 < y.1 then some (if y.2 then 2 else 3)
  else if 0 < x.1 then some (if x.2 then 0 else 1)
  else none

/-- PARENT: the physical index of the port toward the hum root, 15 at the root (R51, R58). -/
def parentCode (s : State) : BitVec 4 :=
  match rootPort s with
  | some p => BitVec.ofNat 4 (physPort s p).val
  | none => 15

/-- The hum of a router that powers on: a root reads LOCKED from time 0, another FREE (R54). -/
def freshHum (s : State) : Hum := { state := if s.mod.humRoot then 2 else 0, parent := parentCode s }

/-! ### Power domains -/

/-- Whether a slot-table entry of comb k's strand is other than idle (R39). -/
def leaseLive (c : CombState) : Bool := c.router.lease.any fun e => decide (bits e.2.toNat 1 0 ≠ 0)

/-- Whether super k holds live data: a key slot 1–63 that is not EMPTY (R40). -/
def superLive (u : SuperState) : Bool := (fins 64).any fun i => decide (0 < i.val) && decide (u.slots[i].state ≠ 0)

/-- Whether the queens self-test the spare cells: from the checked image to READY of a power-on or cold boot (R38, R562). -/
def cellTest (s : State) : Bool := s.boot.stage == 4 && decide (s.boot.kind ≠ .warm)

/-- The comb with its domains as R37–R39 give (`test`: its spare is under self-test); a router that comes on starts its
entropy source and its hum (h) afresh. DESIGN CHOICE (log entry 84): the other registers of a domain that goes off and comes
on again keep their values. -/
def powerComb (test : Bool) (h : Hum) (c : CombState) : CombState :=
  let on := c.assigned || leaseLive c
  let c := if on && !c.routerPwr then { c with rng := {}, hum := h } else c
  let c := if !on && c.routerPwr then { c with router := { c.router with ports := c.router.ports.map fun p =>
      if p.state = 2 then { p with state := 1, fill := .replicate 2 2, uncorr := 0 } else p } } else c
  { c with grpPwr := if c.assigned then 15 else 0, seqPwr := c.assigned
           sparePwr := c.assigned && decide (c.subst ≠ 31) || c.cellRegs.swapping.isSome || test, routerPwr := on }

/-- Whether the base-die domain of super k is on (R40); it goes off with no request queued (R324). -/
def superOn (k : Super) (assigned : Bool) (u : SuperState) : Bool :=
  assigned || superLive u || k.val == 0 || k.val == 4 || u.waiting.toList.any fun q => !q.isEmpty

/-- The slot that a load leaves: the first 768 bits of HKDF-SHA-512 over the content key, a fresh salt, the super index and
the key ID are K1, K2 and KM (R337), and every copy of the pair is written with them (R336). -/
def loadedSlot (k : Super) (id : KeyId) (content salt : BitVec 256) : Slot :=
  let m := hkdf 768 (leBytes 32 content.toNat) (leBytes 32 salt.toNat) [BitVec.ofNat 8 k.val, BitVec.ofNat 8 id.val]
  let x : XtsKeys := ⟨m.extractLsb' 0 256, m.extractLsb' 256 256⟩
  { state := 1, key := content, xts := x, km := m.extractLsb' 512 256, node := x, base := x }

/-- Both directions of a link with fresh keys, their sequences from 0 (R364). -/
def freshLink (w : BitVec 512) : Vector LinkDir 2 :=
  Vector.ofFn fun d => if d.val = 0 then { key := w.extractLsb' 0 256 } else { key := w.extractLsb' 256 256 }

/-- The super link of super k brought up or retrained: the queen draws its keys (R364). -/
def keySuperLink (k : Super) (s : State) : State :=
  drawn (s.modSuper k fun u => { u with link := freshLink (drawNow 512 s) })

/-- A bridge link brought up or rekeyed: comb groups 0–3, host channel 4, management channel 5 (R364). -/
def keyBridge (g : Fin 6) (s : State) : State :=
  drawn (s.modMod fun m => { m with bridge := upd m.bridge g fun _ => freshLink (drawNow 512 s) })

/-- The base-die domain of super k on: fresh K_tree and K_poison, the tree about to be formatted (R349), key ID 0 loaded under
the queen-region key (R335, R448, R450), the super link brought up. -/
def wakeSuper (k : Super) (s : State) : State :=
  let w := drawNow 512 s
  let salt : BitVec 256 := drawNow 256 (drawn s)
  keySuperLink k (drawn (drawn (s.modSuper k fun u => { formatTree u with
    powered := true, state := 0, tree := 0, kTree := w.extractLsb' 0 256, kPoison := w.extractLsb' 256 256
    slots := upd u.slots 0 fun _ => loadedSlot k 0 (qregKey s.boot.cdi1) salt })))

/-- Whether a queen reigns: domains are switched on at its command (R43, R562). -/
def queenReigns (s : State) : Bool := s.boot.stage == 4 || s.boot.stage == 5

/-- The base-die domain of super k as R40 gives: powering on formats the tree (R349), powering off writes the nodes back and
leaves the DRAM in self-refresh (R324). -/
def powerSuper (k : Super) (s : State) : State :=
  let on := superOn k s.combs[k].assigned s.supers[k]
  if on && queenReigns s && !s.supers[k].powered then wakeSuper k s
  else if !on && s.supers[k].powered then
    s.modSuper k fun u => { flushTree u with
      powered := false, state := 2, cache := [], slots := upd u.slots 0 fun _ => {}, link := .replicate 2 {} }
  else s

/-- Every switched domain of combs and supers follows its condition (R43). -/
def powerAll (s : State) : State :=
  forEach (fins 8) (fun k s => powerSuper k (s.modComb k (powerComb (cellTest s) (freshHum s)))) s

/-! ### Comb -/

/-- Every store of a comb zeroed (R122). -/
def zeroStores (c : CombState) : CombState := { c with cells := .replicate 21 {}, store := [] }

/-- A comb after a reset of its domain (R488, R122, R123, R127): FAILED, DEGRADED and SUBST survive (R184), a sealed
ROW_CLIP survives (R266), COMPUTE descriptors of rings that other combs serve go on waiting (R105, R113); the router, hum and
entropy source are not in the domain. -/
def resetCombState (c : CombState) : CombState :=
  { zeroStores c with
    seq := { waiting := c.seq.waiting, progNo := c.seq.progNo }
    cellRegs := { failed := c.cellRegs.failed, degraded := c.cellRegs.degraded, swapping := c.cellRegs.swapping }
    vecSat := {}, vecCollide := {}, rowEmpty := {}, rowIgnored := {}, rowClipWr := {}
    clip := if c.clipSealed then c.clip else 0x7F800000 }

/-- A reseed that is skipped: counted, with a WARNING (R206). -/
def skipReseed (k : Comb) (s : State) : State :=
  let s := s.modComb k fun c => { c with rng := { c.rng with skip := hit 16 c.rng.skip } }
  match partOf s k with
  | some p => postEvent p evWarning 0x80 k (Config.openDetail evWarning 0x80) s
  | none => eventToPf0 evWarning 0x80 k (Config.openDetail evWarning 0x80) s

/-- The ready seed is taken: a completed reseed counts, and the source keeps the next one ready (R204, R207). -/
def takeSeed (k : Comb) (s : State) : State :=
  (s.modComb k fun c => { c with rng := { c.rng with reseeds := (c.rng.reseeds + 1) % 2 ^ 16, seed := freshSeed s } }) |> drawn |> drawn

/-- A reseed of comb k's cell generators (R202, R203): skipped unless the entropy source is OK (R206). -/
def reseed (k : Comb) (step : Option DWord) (s : State) : State :=
  if s.combs[k].rng.state = 1 then
    (takeSeed k s).modComb k fun c => { c with
      gens := { seed := some s.combs[k].rng.seed }, rng := { c.rng with step := step.getD c.rng.step } }
  else skipReseed k s

/-- A comb reset: state and reseed. -/
def resetCombDomain (k : Comb) (s : State) : State := reseed k none (s.modComb k resetCombState)

/-! ### Super -/

/-- The Hild unit after a reset of its base die: the sealed table stays until teardown (R299), STOPPED until a partition
reset (R307). -/
def resetHild (h : Hild) : Hild := { isSealed := h.isSealed, dp := h.dp, state := if h.state = 3 then 3 else 0, rounding := h.rounding, noise := h.noise }

/-- A super at the start of its controller reset (R501, R324): dirty nodes written back, DRAM in self-refresh; slots,
roots, SUP_STATUS bits and counts, the marked die and repairs survive. -/
def resetSuperState (u : SuperState) : SuperState :=
  let u := flushTree u
  { mem := u.mem, dramErr := u.dramErr, fill := u.fill, ctr := u.ctr, nodeCtr := u.nodeCtr, kTree := u.kTree
    kPoison := u.kPoison, poison := u.poison, badNodes := u.badNodes
    zeroed := u.zeroed, tree := u.tree, slots := u.slots, toScrub := u.toScrub, dataCur := u.dataCur
    sealCur := u.sealCur, powered := u.powered, state := 2, dieMark := u.dieMark, die := u.die, ce := u.ce, ue := u.ue
    ppr := u.ppr, pprExh := u.pprExh, retry := u.retry, scrubPos := u.scrubPos, spares := u.spares, remap := u.remap
    lineCe := u.lineCe, repairQ := u.repairQ, repairLog := u.repairLog, scrubLog := u.scrubLog, waiting := u.waiting
    turn := u.turn, resetting := u.powered, hild := resetHild u.hild }

/-! ### Key slots at reset (R339, R451) -/

/-- The device ranges of super k held under a key ID. -/
def keyRanges (s : State) (k : Super) (id : KeyId) : List (KeyId × Nat × Nat) :=
  match partOf s k with
  | none => []
  | some p =>
    ((regionMap s p).filter fun m => decide (m.keyId = id)).filterMap fun m =>
      let b := m.base.getD (posOf p k) 0
      let n := if kindLocal m.kind then (if m.pos = posOf p k then m.len else 0) else m.len / sizeOf s p
      if n = 0 then none else some (id, b, b + n)

/-- A slot without key material, SCRUBBING (R338, R360). -/
def Slot.scrubbing : Slot := { state := 3 }

/-- A slot zeroised: SCRUBBING over its ranges; EMPTY stays EMPTY (R338). -/
def zeroiseSlot (k : Super) (id : KeyId) (s : State) : State :=
  if s.supers[k].slots[id].state = 0 then s else
  let rs := keyRanges s k id
  s.modSuper k fun u => { u with
    slots := upd u.slots id fun _ => .scrubbing
    toScrub := if u.slots[id].state = 3 then u.toScrub else u.toScrub ++ rs }

/-- Every slot 1–63 of every super zeroised. -/
def zeroiseAll (s : State) : State :=
  forEach (fins 8) (fun k s => forEach ((fins 64).filter fun i => 0 < i.val) (fun i s => zeroiseSlot k i s) s) s

/-- The retirements of super k that a reset meets: their flush and zeroising complete before it takes effect (R361). -/
def flushSlots (k : Super) (s : State) : State :=
  forEach ((fins 64).filter fun i => decide (s.supers[k].slots[i].state = 2)) (zeroiseSlot k) s

/-- Whether a waiting request comes from the partition of super k: from its combs or Hild units. -/
def ofOwner (s : State) (k : Super) (r : MemReq) : Bool :=
  match r.who with
  | .comb c => decide (partOf s c = partOf s k)
  | .hild _ => true
  | _ => false

/-- The waiting requests of super k's partition complete with RESET_ABORTED; those of others go on waiting (R324, R325). -/
def abortWaiting (k : Super) (s : State) : State :=
  let rs := s.supers[k].waiting.toList.flatten.filter (ofOwner s k)
  emitAll (rs.map fun r => .readReply r.who stResetAborted [])
    (s.modSuper k fun u => { u with waiting := u.waiting.map fun q => q.filter fun r => !ofOwner s k r })

/-- What a super finishes before its logic is reset: the repair of a row and the retirements of slots (R324, R361). -/
def quietSuper (k : Super) (s : State) : State := flushSlots k (effRepaired k s)

/-- A super controller reset begins; an unpowered base die is not reset. -/
def resetSuperDomain (k : Super) (s : State) : State :=
  if s.supers[k].powered then (abortWaiting k (quietSuper k s)).modSuper k resetSuperState else s

/-- The context, fabric and checkpoint keys of a partition zeroised; the context becomes NONE. -/
def dropContext (p : Part) (s : State) : State :=
  forEach (fins 8) (fun k s => if s.combs[k].assigned ∧ s.combs[k].pbase = p then
      forEach (fins 12) (fun j s => s.modJob k j fun e => { e with keyed := false, fkey := 0 }) s else s)
    (s.modCtx p fun _ => {})

/-! ### Module resets (R488, R562) -/

/-- A router through a module warm reset: job entries and leases survive (R386); the rest is as at power-on. -/
def warmRouter (r : Router) : Router :=
  { jobs := Vector.ofFn fun j : JobIx => { r.jobs[j] with aborted := false, abortAt := 0, votes := [], epoch := 0 }
    lease := r.lease }

/-- The hum through a module warm reset: the router domain stays on, so its time runs on and it does not enter FREE (R48,
R49); with HUM_CFG back at its Reset value the module is a root, LOCKED (R54; log entry 85). -/
def warmHum (on : Bool) (h : Hum) : Hum := if on then { time := h.time, state := 2 } else {}

/-- An entropy source through a module warm reset: the router domain stays on, so its registers survive (R207); from FAILED it
starts afresh (R205; log entry 102). -/
def warmRng (on : Bool) (g : Rng) : Rng := if !on then {} else if g.state = 3 then { g with state := 0, fails := 0 } else g

/-- A comb through a module reset; a swap of a cell ends with it: boot substitutes the spare after a cold reset (R184), and after a
warm one the comb is DEGRADED, since its failed cell may not serve (log entry 107). -/
def moduleComb (cold : Bool) (c : CombState) : CombState :=
  let c := resetCombState { c with seq := {}, cellRegs := { c.cellRegs with
    swapping := none, degraded := c.cellRegs.degraded || (!cold && c.cellRegs.swapping.isSome) } }
  if cold then { c with assigned := false, psize := 0, pbase := 0, clip := 0x7F800000, clipSealed := false, hum := {}, rng := {}
                        router := {} }
  else { c with hum := warmHum c.routerPwr c.hum, rng := warmRng c.routerPwr c.rng, router := warmRouter c.router }

/-- A partition through a module warm reset: its context, its region table with LOCKED and READY, and PWR_PART_E survive
(R320, R451, R556). -/
def warmPart (q : PartState) : PartState :=
  { live := q.live, psize := q.psize, ctx := q.ctx, rgn := q.rgn, locked := q.locked, ready := q.ready
    energy := q.energy, peak := q.peak }

/-- A die through a module reset: fuses, the repair record and the throttle causes of PWR_STATUS stay (R556). -/
def moduleDie (d : DieState) : DieState :=
  { svn := d.svn, revoke := d.revoke, unlocks := d.unlocks, repair := d.repair, uv := d.uv, overpwr := d.overpwr
    thermDie := d.thermDie, therm4 := d.therm4, thermDram := d.thermDram, temp := d.temp }

/-- The queens through a module reset: the epoch and the unlock survive a warm reset (R440, R478). -/
def moduleQueen (cold : Bool) (q : Queen) : Queen :=
  if cold then {}
  else { epoch := q.epoch, die := q.die, dbgUnlock := q.dbgUnlock, dbgActive := q.dbgActive, scope := q.scope
         journal := q.journal }

/-- A module warm or cold reset, from any state, up to the start of the boot ROMs (R488, R562): EVT_MODLOG and the
PWR_ and CLK_ registers survive (R511, R556), a warm reset reads RECOVERING. -/
def moduleReset (cold : Bool) (s : State) : State :=
  let s := forEach (fins 8) quietSuper (if cold then zeroiseAll s else s)
  let s := { s with
    combs := s.combs.map (moduleComb cold)
    supers := s.supers.map fun u => { resetSuperState u with
      resetting := false, waiting := .replicate 6 [], lineCe := if cold then [] else u.lineCe, hild := if cold then {} else { resetHild u.hild with state := 0 } }
    parts := s.parts.map (if cold then fun q => { energy := q.energy, peak := q.peak } else warmPart)
    fns := .replicate 9 {}
    dies := s.dies.map moduleDie
    ports := .replicate 8 {}
    queen := moduleQueen cold s.queen
    boot := { kind := if cold then .cold else .warm, boots := s.boot.boots, toRecovery := s.boot.toRecovery
              erased := s.boot.erased, flash := s.boot.flash, cdi1 := s.boot.cdi1, dQueen := s.boot.dQueen, dSeq := s.boot.dSeq
              dHild := s.boot.dHild }
    mgmt := {}
    evt := { modlog := s.evt.modlog, modState := if cold then 0 else 1 }
    mod := { perstN := s.mod.perstN, pairLinks := if cold then [] else s.mod.pairLinks
             groupLinks := if cold then 0 else s.mod.groupLinks }
    host := {} }
  let s := powerAll s
  forEach ((fins 8).filter fun k => s.combs[k].seqPwr) (fun k s => reseed k none s) s

/-- The log of the fault that started a module reset (R511). -/
def logFirst (cause : Byte) (unit : Word) (s : State) : State :=
  s.modEvt fun e => { e with modlog := w64 (cause.toNat + 256 * (unit.toNat % 65536)) }

/-- The log of the fault that held the module. -/
def logSecond (cause : Byte) (unit : Word) (s : State) : State :=
  s.modEvt fun e => { e with modlog := w64 (e.modlog.toNat % 16777216 + 16777216 * cause.toNat + 4294967296 * (unit.toNat % 65536)) }

/-- The held module (R505): every router, PHY and cell domain off, every node written back and DRAM in self-refresh (R351). -/
def holdModule (s : State) : State :=
  let s := platEvent 2 20 2 s
  { s with
    combs := s.combs.map fun c => { c with grpPwr := 0, sparePwr := false, seqPwr := false, routerPwr := false }
    supers := s.supers.map fun u => { flushTree u with state := 2 }
    ports := s.ports.map fun p => { p with on := false }
    parts := s.parts.map fun q => { q with stopped := q.live }
    evt := { s.evt with modState := 2 } }

end Sys2Proof.Machine
end

