-- ==== Sys2Proof/Machine/Faults.lean ====
section
/-! DEFINITION. Faults: squashing, halting a comb, alarms (R405–R407), stopping a partition and starting its recovery
(R491 step 1, R498, R499), escalation (R502, R503) and the checkpoints they end (R533). -/

namespace Sys2Proof.Machine

/-! ### Squash and halt (R142, R164) -/

/-- The distinct instructions of some held entries (R144: SQUASH_CNT counts instructions). -/
def issuesOf (hs : List Held) : List Nat := (hs.map (·.issue)).dedup

/-- CLEAR bytes to refund for squashed entries: those charged since the last refill (R473). -/
def refund (refills : Nat) (hs : List Held) : Nat :=
  (hs.map fun h => match h.kind with
    | .host _ data true r => if r = refills then data.length else 0
    | _ => 0).sum

/-- The held entries of comb k that satisfy f are squashed; CLEAR charges go back (R139, R142, R473). -/
def squashHeld (k : Comb) (f : Held → Bool) (s : State) : State :=
  let hs := s.combs[k].seq.retain.filter f
  let s := s.modSeq k fun q => { q with
    retain := q.retain.filter fun h => !f h
    squash := hitN 16 (issuesOf hs).length q.squash }
  match partOf s k with
  | none => s
  | some p => s.modCtx p fun c => { c with clearLeft := c.clearLeft + refund c.refills hs }

/-- Every held entry is squashed; an entry whose release has begun has left the buffer (R142). -/
def squashAll (k : Comb) (s : State) : State := squashHeld k (fun _ => true) s

/-- Free bytes: what an undefined store range holds. -/
def freeBytes (n : Nat) (s : State) : Bytes := (List.range n).map (Config.freeByte s.draws)

/-- Free words: what an undefined run of elements holds. -/
def freeWords (n : Nat) (s : State) : List Word :=
  (List.range n).map fun e => w32 (le ((List.range 4).map fun b => Config.freeByte s.draws (4 * e + b)))

/-- The destination of a stopped operation takes undefined contents (R164). -/
def undefine (k : Comb) (n : PCell) (d : Dest) (s : State) : State :=
  drawn (match d with
  | .store lo len => s.modCell k n fun c => { c with store := memWrite c.store lo (freeBytes len s) }
  | .comb lo len => s.modComb k fun c => { c with store := memWrite c.store lo (freeBytes len s) }
  | .vreg r => s.modCell k n fun c => { c with vregs := tabPut 0 c.vregs (4096 * r) (freeWords 4096 s) }
  | .vpart r m => s.modCell k n fun c => { c with vregs := tabPut 0 c.vregs (4096 * r) (freeWords m s) }
  | .stats r => s.modCell k n fun c => { c with stats := tabPut 0 c.stats (2 * r) (freeWords 2 s) })

/-- The running operations of a cell stopped: queue discarded, destinations undefined (R164). -/
def stopCell (k : Comb) (n : PCell) (s : State) : State :=
  let rs := s.combs[k].cells[n].running
  let s := forEach rs (fun e s => forEach e.dests (undefine k n) s) s
  s.modCell k n fun c => { c with queue := [], running := [], banks := .replicate 8 none }

/-- Every cell of a comb stopped. -/
def stopCells (k : Comb) (s : State) : State := forEach (fins 21) (fun n s => stopCell k n s) s

/-- A sequencer HALTED, its program ended, nothing issued until reset (R144). -/
def haltSeq (k : Comb) (s : State) : State :=
  s.modSeq k fun q => { q with state := 3, stall := 0, ending := false }

/-- A comb halted by a fault, overrun or abort: squash, halt, cells stopped (R142, R164). -/
def haltComb (k : Comb) (s : State) : State := stopCells k (haltSeq k (squashAll k s))

/-! ### Hild runs (R297) -/

/-- Queued and staging runs of super k that satisfy f are discarded; DISCARD counts staged runs (R295). -/
def discardHild (k : Super) (f : HildRun → Bool) (s : State) : State :=
  s.modHild k fun h =>
    let staged := match h.cur with
      | some c => decide (h.state = 1) && f c.run
      | none => false
    { h with queue := h.queue.filter fun r => !f r
             cur := if staged then none else h.cur
             state := if staged then 0 else h.state
             discard := if staged then hit 16 h.discard else h.discard }

/-- A HILD run that stops after it has voided a block reports POISON, whatever stops it (R275, R298). -/
def reportPoison (k : Super) (s : State) : State :=
  match s.supers[k].hild.cur, partOf s k with
  | some c, some p =>
    match c.run.desc, c.poison with
    | none, some a => if s.supers[k].hild.state = 2 then postEvent p evFault stPoison k (BitVec.ofNat 56 a) s else s
    | _, _ => s
  | _, _ => s

/-- The run in WRITING stops at a block boundary, its commit record left OPEN (R297). -/
def stopHild (k : Super) (s : State) : State :=
  (reportPoison k s).modHild k fun h => if h.state = 2 then { h with cur := none, state := 0 } else h

/-! ### Checkpoints (R533) -/

/-- A running checkpoint ends without its manifest; an automatic one reports the status (R517). -/
def orphanCkpt (p : Part) (st : Byte) (s : State) : State :=
  match s.parts[p].ckpt with
  | none => s
  | some c =>
    let s := s.modPart p fun q => { q with ckpt := none, ckptState := 0, orphaned := hit 16 q.orphaned }
    if c.auto = 0 then s
    else postEvent p evCheckpointTrigger 0xB0 p (BitVec.ofNat 56 (st.toNat + 256 * (c.step.toNat % 2 ^ 48))) s

/-- The plan ranges of a buffer list: PPA and length of each shard entry (R520). -/
def planRanges (list : Bytes) : List (Nat × Nat) :=
  (List.range (list.length / 64 - 1)).map fun i => (fieldAt list (64 * (i + 1)) 8, fieldAt list (64 * (i + 1) + 8) 8)

/-- One sector piece of a PPA range takes undefined contents. -/
def undefineSector (p : Part) (a n : Nat) (s : State) : State :=
  match regionAt s p a with
  | none => s
  | some m =>
    let (k, off) := devOf s p m a
    drawn (s.modSuper k fun u => { u with
      mem := memWrite u.mem off (freeBytes n s)
      ctr := if tabGet 0 u.ctr (off / 512) = 0 then tabSet 0 u.ctr (off / 512) 1 else u.ctr })

/-- Every plan range takes undefined contents (R535, R536). -/
def undefinePlan (p : Part) (list : Bytes) (s : State) : State :=
  forEach (planRanges list) (fun r s => forEach (sectorsOf r.1 r.2) (fun e s => undefineSector p e.1 e.2 s) s) s

/-- A running restore ends; the plan ranges are undefined (R536). -/
def dropRestore (p : Part) (s : State) : State :=
  match s.parts[p].restore with
  | none => s
  | some r => undefinePlan p r.list (s.modPart p fun q => { q with restore := none })

/-! ### Alarms (R405–R407) -/

/-- The member entry of a router: role 1 (R382). -/
def memberJob (s : State) (k : Comb) : Option JobIx :=
  (fins 12).find? fun j => decide (s.combs[k].router.jobs[j].role = 1)

/-- This module's coordinate as DETAIL2 and ORIGIN give it: x [4:0], y [12:8], z [20:16]. -/
def coordWord (s : State) : Word := w32 (s.mod.x.toNat + 256 * s.mod.y.toNat + 65536 * s.mod.z.toNat)

/-- An alarm of comb k's router for job entry j, with this module as the origin. -/
def alarmRec (s : State) (k : Comb) (j : JobIx) (cause : Byte) (relay : Bool) : AlarmRec :=
  { cause := cause, x := s.mod.x.setWidth 8, y := s.mod.y.setWidth 8, z := s.mod.z.setWidth 8, relay := relay
    jobId := s.combs[k].router.jobs[j].jobId, frame := w32 (frameOf s k) }

/-- ABORTED is set and the alarm queued for every APORTS port except the one it arrived on (R407 steps 3, 5). -/
def abortJob (k : Comb) (j : JobIx) (rec : AlarmRec) (arrived : Option LPort) (s : State) : State :=
  s.modRouter k fun r =>
    let e := r.jobs[j]
    let mask : BitVec 6 := match arrived with
      | none => e.aports
      | some q => e.aports &&& ~~~ (1#6 <<< q.val)
    { r with jobs := upd r.jobs j fun e => { e with aborted := true, abortAt := frameOf s k, votes := [] }
             alarms := r.alarms ++ [(j, rec, mask)] }

/-- The other combs of the partition get the alarm within 200 ns (R407 step 4). -/
def spreadAlarm (p : Part) (k : Comb) (rec : AlarmRec) (s : State) : State :=
  forEach ((combsOf s p).filter fun c => decide (c ≠ k)) (fun c s =>
    match memberJob s c with
    | none => s
    | some j => if s.combs[c].router.jobs[j].aborted then s
                else (abortJob c j rec none s).modRouter c fun r => { r with alarmRx := hit 16 r.alarmRx }) s

/-- The router of comb k raises an alarm for its partition's job: ABORTED and ALARM_TX at the origin, then the other combs.
`none`: there is no job entry, or the job is already aborted. -/
def raiseAlarm (p : Part) (k : Comb) (cause : Byte) (s : State) : State :=
  match memberJob s k with
  | none => s
  | some j =>
    if s.combs[k].router.jobs[j].aborted then s
    else
      let a := alarmRec s k j cause false
      spreadAlarm p k a ((abortJob k j a none s).modRouter k fun r => { r with alarmTx := hit 16 r.alarmTx })

/-- A relay router raises an alarm: RELAY 1, sent on APORTS; no partition of this module is a member (R407). -/
def raiseRelay (k : Comb) (j : JobIx) (cause : Byte) (s : State) : State :=
  if s.combs[k].router.jobs[j].aborted then s
  else (abortJob k j (alarmRec s k j cause true) none s).modRouter k fun r => { r with alarmTx := hit 16 r.alarmTx }

/-- Whether partition p's job is already aborted at comb k (R407 step 1). -/
def jobAborted (s : State) (k : Comb) : Bool :=
  match memberJob s k with
  | none => false
  | some j => s.combs[k].router.jobs[j].aborted

/-! ### Stopping a partition and starting its recovery (R498, R499) -/

/-- What a fault says: the status of the started descriptors (and CAUSE1), their DETAIL and DETAIL2, the alarm cause, the
unit code, the comb concerned, and the combs and supers that R498 resets. `received`: an alarm of another module; `evDet`: DETAIL
of the event record where a rule gives it its own (R275). -/
structure FaultInfo where
  status  : Byte
  detail  : Word
  detail2 : BitVec 56 := 0
  alarm   : Byte := 0
  unit    : Word := 0
  comb    : Comb
  combs   : List Comb
  supers  : List Super := []
  received : Bool := false
  origin  : Word := 0
  evDet   : Option (BitVec 56) := none
  deriving DecidableEq, Repr

/-- DETAIL of the FAULT or ABORT_RECEIVED record: the unit code of INTERNAL (R333), else the alarm cause (R407). -/
def FaultInfo.evDetail (f : FaultInfo) : BitVec 56 :=
  f.evDet.getD (if f.status = stInternal then f.unit.setWidth 56 else BitVec.ofNat 56 f.alarm.toNat)

/-- The FAULT record of a later failure whose effect is "Partition stopped" (R107). -/
def secondEvent (p : Part) (f : FaultInfo) (s : State) : State :=
  if stopsPartition f.status then postEvent p evFault f.status f.comb f.evDetail s else s

/-- The domain code of a recovery by comb and super resets: the larger one (R488). -/
def resetCode (supers : List Super) : BitVec 4 := if supers.isEmpty then domComb else domSuper

/-- Beat counting stops on the combs of a partition (R73). -/
def clearActive (p : Part) (s : State) : State :=
  forEach (combsOf s p) (fun k s => s.modHum k fun h => { h with active := false, marker := none, due := false }) s

/-- Step 1 of a smoke on some combs: issue stops, held entries are squashed, queued Hild runs are discarded (R491). -/
def stopIssue (combs : List Comb) (s : State) : State :=
  forEach combs (fun k s => discardHild k (fun _ => true) (haltSeq k (squashAll k s))) s

/-- The recovery of partition p as its queen keeps it from step 1 on. -/
def newRecovery (dom : BitVec 4) (scope : BitVec 2) (f : FaultInfo) (s : State) : Recovery :=
  { domain := dom, scope := scope, unit := f.comb, combs := f.combs, supers := f.supers, cause1 := f.status
    alarm1 := f.alarm, unit1 := f.unit, frame := frameOf s f.comb, humStop := humNs s f.comb, beat := beatOf s f.comb
    origin := f.origin }

/-- The SMOKE descriptors of a recovery that a larger domain takes over end with RESET_ABORTED (R103, R503). -/
def abortSmokes (r : Recovery) (dom : BitVec 4) (s : State) : State :=
  forEach r.smokes (fun m s => s.modDesc m.1.part m.1.ring m.1.idx fun e =>
    { e with held := false }.decide' stResetAborted (dom.setWidth 32) 0 e.comb) s

/-- A recovery that takes over another: the union of their units, the first fault first (R498, R504). -/
def Recovery.takes (r old : Recovery) : Recovery :=
  { r with combs := (r.combs ++ old.combs).dedup, supers := (r.supers ++ old.supers).dedup, byCmd := r.byCmd || old.byCmd
           cause1 := if old.cause1 = 0 then r.cause1 else old.cause1, alarm1 := if old.cause1 = 0 then r.alarm1 else old.alarm1
           unit1 := if old.cause1 = 0 then r.unit1 else old.unit1 }

/-- Recovery r becomes the only one of partition p: it takes over the others, whose SMOKEs end. -/
def takeOver (p : Part) (r : Recovery) (s : State) : State :=
  let old := s.parts[p].recov
  let s := forEach old (fun o s => abortSmokes o r.domain s) s
  s.modPart p fun q => { q with recov := [old.foldl Recovery.takes r] }

/-- Step 1 of a whole partition's recovery: combs halt, issue stops, rings stop, beat counting and checkpoints end. -/
def stopWhole (p : Part) (st : Byte) (detail : Word) (detail2 : BitVec 56) (dom : BitVec 4) (s : State) : State :=
  let s := forEach (combsOf s p) (fun k s => haltComb k s) s
  let s := stopIssue (combsOf s p) s
  let s := stopRings p (fins 16) st detail detail2 dom s
  let s := clearActive p (dropRestore p (orphanCkpt p st s))
  s.modPart p fun q => { q with stopped := true }

/-- A fault of the job or partition class takes effect: the event goes out, the partition stops, and its recovery begins;
it takes over the recoveries of single units (R498). -/
def beginRecovery (p : Part) (f : FaultInfo) (s : State) : State :=
  let dom := resetCode f.supers
  let s := postEvent p (if f.received then evAbortReceived else evFault) f.status f.comb f.evDetail s
  let r := newRecovery dom 0 f s
  takeOver p r (stopWhole p f.status f.detail f.detail2 dom s)

/-- The warm reset that a fault during a partition recovery escalates to (R503). -/
def escalateWarm (f : FaultInfo) (s : State) : State :=
  let s := s.modEvt fun e => { e with escalate := hit 16 e.escalate }
  if s.evt.modState = 1 then holdModule (logSecond f.status f.unit s)
  else moduleReset false (logFirst f.status f.unit s)

/-- A second fault escalates a recovery to the partition, or to a module warm reset (R503): the larger recovery smokes
afresh; its descriptors complete with RESET_ABORTED. -/
def escalateTo (p : Part) (r : Recovery) (f : FaultInfo) (s : State) : State :=
  if r.domain = domPartition then escalateWarm f s
  else
    let s := s.modEvt fun e => { e with escalate := hit 16 e.escalate }
    let s := stopWhole p stResetAborted 5 0 domPartition s
    takeOver p { newRecovery domPartition 0 f s with combs := combsOf s p, supers := combsOf s p, cause1 := r.cause1
                                                     alarm1 := r.alarm1, unit1 := r.unit1, cause2 := f.status
                                                     unit2 := f.unit, escalated := true, origin := r.origin } s

/-- A second fault in a unit of the partition: its event, then the escalation (R107, R503). -/
def escalate (p : Part) (r : Recovery) (f : FaultInfo) (s : State) : State := escalateTo p r f (secondEvent p f s)

/-- Whether a fault lies in a unit of the domain under recovery (R502). -/
def inDomain (f : FaultInfo) (r : Recovery) : Bool :=
  r.combs.contains f.comb || f.supers.any fun k => r.supers.contains k || r.combs.contains k

/-- Whether a teardown of the partition runs. -/
def tearingDown (s : State) (p : Part) : Bool := s.parts[p].recov.any (·.teardown)

/-- A fault of a queen, which stops nothing outside the queen (R481), is a second fault of every recovery that runs, and of
the reset of a super that belongs to no partition (R502, R503, R508). -/
def queenFault (st : Byte) (s : State) : State :=
  if s.evt.resetSup.isSome then escalateWarm { status := st, detail := 0, comb := 0, combs := [] } s else
  forEach (fins 8) (fun p s =>
    if tearingDown s p then s else
    match s.parts[p].recov with
    | [] => s
    | r :: _ => escalateTo p r { status := st, detail := 0, comb := p, combs := [] } s) s

/-- A fault of a partition: nothing during a teardown (R508), an escalation for a second fault, else a recovery. An alarm
is no second fault (R502). -/
def partitionFault (p : Part) (f : FaultInfo) (s : State) : State :=
  if tearingDown s p then s
  else if f.received then
    (if s.parts[p].recov.any (fun r => decide (r.scope = 0)) then s else beginRecovery p f s)
  else match s.parts[p].recov.find? (inDomain f) with
    | some r => escalate p r f s
    | none => beginRecovery p f s

/-- A job fault that comb k's router raises: the alarm, then the recovery of R498's job row; nothing when the job is
already aborted (R407 step 1). -/
def jobFault (p : Part) (k : Comb) (cause st : Byte) (detail : Word) (detail2 : BitVec 56) (s : State) : State :=
  if jobAborted s k then s
  else
    let s := raiseAlarm p k cause s
    partitionFault p { status := st, detail := detail, detail2 := detail2, alarm := cause, comb := k, combs := combsOf s p
                       origin := coordWord s } s

/-- The job fault whose descriptors take FABRIC_ABORT with this module as the origin (R407 step 4). -/
def fabricAbort (p : Part) (k : Comb) (cause : Byte) (s : State) : State :=
  jobFault p k cause stFabricAbort (cause.setWidth 32) ((coordWord s).setWidth 56) s

/-- A fault of the partition class whose event record has the DETAIL given, if one is: an alarm PARTITION_FAULT, then the
recovery with the given super resets (R499). -/
def stopPartitionAs (p : Part) (k : Comb) (st : Byte) (detail : Word) (detail2 : BitVec 56) (unit : Word)
    (supers : List Super) (evDet : Option (BitVec 56)) (s : State) : State :=
  let s := raiseAlarm p k 0x07 s
  partitionFault p { status := st, detail := detail, detail2 := detail2, alarm := 0x07, unit := unit, comb := k
                     combs := combsOf s p, supers := supers, origin := coordWord s, evDet := evDet } s

/-- A fault of the partition class (R499). -/
def stopPartition (p : Part) (k : Comb) (st : Byte) (detail : Word) (detail2 : BitVec 56) (unit : Word)
    (supers : List Super) (s : State) : State := stopPartitionAs p k st detail detail2 unit supers none s

/-- A unit watchdog or link fault: INTERNAL with its unit code in DETAIL (R333, R486). -/
def stopInternal (p : Part) (k : Comb) (unit : Word) (supers : List Super) (s : State) : State :=
  stopPartition p k stInternal unit 0 unit supers s

/-- A descriptor's failure: its status, and the stop it raises where the effect is "Partition stopped" (R107). -/
def failDesc (p : Part) (r : Ring) (idx : Word) (st : Byte) (detail : Word) (detail2 : BitVec 56) (k : Comb)
    (s : State) : State :=
  let s := finish p r idx st detail detail2 k s
  if stopsPartition st then stopPartition p k st detail detail2 (if st = stInternal then detail else 0) [] s else s

/-- The rings that comb k serves in partition p (R82). -/
def ringsServed (s : State) (p : Part) (k : Comb) : List Ring := (fins 16).filter fun r => decide (serving s p r = k)

/-- A descriptor takes a comb's part of its outcome: failures collect, and the last comb decides (R107, R147). -/
def Desc.combEnd (d : Desc) (k : Comb) (st : Byte) (detail : Word) (detail2 : BitVec 56) : Desc :=
  { d with combsLeft := d.combsLeft.filter fun c => decide (c ≠ k)
           fails := if st = stOK then d.fails else d.fails ++ [(st, detail, detail2, k)] }

/-- A checkpoint or restore whose descriptor lies on a ring that comb k serves ends with it (R105, R533). -/
def endServed (p : Part) (k : Comb) (s : State) : State :=
  let s := match s.parts[p].ckpt with
    | some c => if c.ring.any (fun (d : RunDesc) => decide (serving s p d.ring = k)) then orphanCkpt p stResetAborted s else s
    | none => s
  match s.parts[p].restore with
  | some x => if serving s p x.ring.ring = k then dropRestore p s else s
  | none => s

/-- A program fault on comb k (R146): HALTED, squash, cells stopped, the program's HILD runs discarded, the COMPUTE
descriptor's part ends with the status, and the comb is recovered alone (R498, R490). -/
def programFault (k : Comb) (st : Byte) (detail : Word) (detail2 : BitVec 56) (s : State) : State :=
  match partOf s k, s.combs[k].seq.running with
  | some p, some d =>
    let s := (haltComb k s).modSeq k fun q => { q with progFault := hit 16 q.progFault, running := none }
    let n := s.combs[k].seq.progNo
    let s := forEach (combsOf s p) (fun u s =>
      discardHild u (fun r => decide (r.comb = k) && decide (r.prog = n) && r.desc.isNone) s) s
    let s := s.modDesc p d.ring d.idx fun e =>
      let e := e.combEnd k st detail detail2
      if e.combsLeft.isEmpty ∨ serving s p d.ring = k then e.decideFirst st detail detail2 k else e
    let s := endServed p k (stopRings p (ringsServed s p k) stResetAborted 2 0 domComb s)
    if tearingDown s p then s
    else
      let f : FaultInfo := { status := st, detail := detail, detail2 := detail2, comb := k, combs := [k] }
      let s := postEvent p evFault st k (Config.openDetail evFault st) s
      if s.parts[p].recov.any (inDomain f) then s
      else s.modPart p fun q => { q with recov := q.recov ++ [newRecovery domComb 1 f s] }
  | _, _ => s

end Sys2Proof.Machine
end

