-- ==== Sys2Proof/Machine/SuperOps.lean ====
section
/-! DEFINITION. What accesses to a super share: module faults, queen regions, marked dies, node and tag failures (R312–R314,
R354–R356, R446), and what the read of a line leaves behind (R350, R352). -/

namespace Sys2Proof.Machine

/-! ### Module faults (R481, R503, R505) -/

/-- A fault of the module class: a module warm reset, a held module if one runs, recovery mode during a cold reset (R503) with
a FAIL code that no rule names. -/
def moduleFault (st : Byte) (unit : Word) (s : State) : State :=
  if s.boot.kind = .cold ∧ s.boot.stage.toNat < 5 then
    drawn (s.modBoot fun b => { b with stage := 6, fail := drawNow 4 s, toRecovery := false })
  else if s.evt.modState = 1 then
    holdModule (logSecond st unit (s.modEvt fun e => { e with escalate := hit 16 e.escalate }))
  else moduleReset false (logFirst st unit s)

/-- A queen region is lost (R446): its queen goes on from the other copy and rewrites its region, unless a marked die keeps
it unreadable (R314); with both lost the module takes a warm reset. -/
def regionLost (d : Die) (s : State) : State :=
  let s := s.modDie d fun e => { e with region := false }
  if s.dies[(1 - d : Die)].region then
    (queenFault stIntegrityFail s).modDie d fun e => { e with region := !s.supers[regionSuper d].dieMark }
  else moduleFault stIntegrityFail 0 s

/-- A die of super k is marked (R312): recorded; sealed data of the super is lost (R314). -/
def markDie (k : Super) (die : Fin 16) (s : State) : State :=
  let s := s.modSuper k fun u => { u with dieMark := true, die := BitVec.ofNat 4 die.val }
  let s := ewSuper k 1 (recordRepair (dieOf k) 2 (k.val + 8 * die.val) s)
  let s := forEach (ownersOver s k sealedBase metaBase) (fun p s => stopPartition p k stIntegrityFail 0 0 0 [] s) s
  match regionDie k with
  | some d => regionLost d s
  | none => s

/-! ### Integrity failures (R356) -/

/-- A poisoned node (R356): NODE_FAIL and its log, TREE DEGRADED, a queen region under it lost. -/
def nodeNote (k : Super) (n : Nat) (s : State) : State :=
  let s := s.modSuper k fun u => { u with
    badNodes := if u.badNodes.contains n then u.badNodes else n :: u.badNodes
    nodeFail := hit 16 u.nodeFail, tree := 2, perrOff := BitVec.ofNat 36 (nodeBase n), perrKind := 3
    perrLevel := BitVec.ofNat 4 (nodeLevel n), perrKey := 0 }
  let s := s.modSuper k (clearFlips (nodeLine n) (nodeAddr n % 128) (nodeAddr n % 128 + 64))
  match regionDie k with
  | some d => if nodeBase n < sealedBase ∧ queenBase < nodeBase n + nodeSpan n then regionLost d s else s
  | none => s

/-- Every owner with a line under a node is stopped, with the PPA of the line that met it in DETAIL2 (R106, R356). -/
def stopUnder (k : Super) (n : Nat) (ppa : BitVec 56) (s : State) : State :=
  forEach (ownersOver s k (nodeBase n) (nodeBase n + nodeSpan n)) (fun p s => stopPartition p k stIntegrityFail 0 ppa 0 [] s) s

/-- The PPA of a device offset of super k as DETAIL2 gives it, 0 where no region holds it. -/
def ppaDetail (s : State) (k : Super) (off : Nat) : BitVec 56 :=
  BitVec.ofNat 56 (((ownerAt s k off).map fun o => o.2.2).getD 0)

/-- A node fails under an access to an offset (R356). -/
def nodeFails (k : Super) (n off : Nat) (s : State) : State :=
  stopUnder k n (ppaDetail s k (off / 128 * 128)) (nodeNote k n s)

/-- A tag that fails (R354, R356): the line poisoned, TAG_FAIL and its log. -/
def tagNote (k : Super) (l : Nat) (kind : BitVec 3) (s : State) : State :=
  let key := ((ownerAt s k (128 * l)).map fun o => o.2.1.keyId.val).getD 0
  poisonLine k l (s.modSuper k fun u => { u with
    tagFail := hit 16 u.tagFail, perrOff := BitVec.ofNat 36 (128 * l), perrKind := kind, perrLevel := 0
    perrKey := BitVec.ofNat 6 key })

/-- The owner of a line stopped with a status and the PPA of the line. -/
def stopOwner (k : Super) (off : Nat) (st : Byte) (s : State) : State :=
  match ownerAt s k off with
  | some (p, _, a) => stopPartition p k st 0 (BitVec.ofNat 56 a) 0 [] s
  | none => s

/-! ### Counters through the cache (R350, R351, R356, R357) -/

/-- A WARNING with cause 0x90 to each owner under a counter that reached 2^55 (R357). -/
def warnCtr (k : Super) (lo hi : Nat) (s : State) : State :=
  forEach (ownersOver s k lo hi) (fun p s => postEvent p evWarning 0x90 k (Config.openDetail evWarning 0x90) s) s

/-- A node counter that would reach 2^56: every owner under the parent node is stopped (R356). -/
def stopExhausted (k : Super) (n : Nat) (s : State) : State :=
  let pn := nodeParent n
  forEach (ownersOver s k (nodeBase pn) (nodeBase pn + nodeSpan pn)) (fun p s =>
    stopPartition p k stCounterExhausted 0 0 0 [] s) s

/-- Counter events of a super reported to the owners (R356, R357). -/
def reportCtr (k : Super) (ev : List CtrEvent) (s : State) : State :=
  forEach ev (fun e s => if e.2 then stopExhausted k e.1 s else warnCtr k (nodeBase e.1) (nodeBase e.1 + nodeSpan e.1) s) s

/-- What reading line l leaves behind: a corrected line counted, a die marked (R310, R312). -/
def noteDecode (k : Super) (l : Nat) (s : State) : State :=
  match decodeLine s.supers[k] k l with
  | none => s
  | some d =>
    let s := if d.corrected then lineCorrected k l s else s
    match d.mark with
    | some m => markDie k m s
    | none => s

/-- The nodes fetched for a sector are read, up to the first that fails. -/
def noteNodes (k : Super) (off : Nat) (s : State) : State :=
  let u := s.supers[k]
  forEach ((missingNodes u off).takeWhile (nodeVerifies u k)) (fun n s => noteDecode k (nodeLine n) s) s

/-- The counter of a sector brought into the cache (R350). -/
def fetchCtr (k : Super) (off : Nat) (s : State) : State :=
  let s := noteNodes k off s
  let x := touchCtr off false s.supers[k]
  reportCtr k x.2 (s.modSuper k fun _ => x.1)

/-- A line and its tag are read (R345, R352). -/
def noteLine (k : Super) (l : Nat) (s : State) : State :=
  let s := noteDecode k l s
  if sealedAt k (128 * l) then s else noteDecode k (tagLine l) s

/-- What a read of the line that holds an offset leaves in the super (R350, R352, R355, R356); src: its SOURCE (R334). The
owner of a line that fails is stopped by the requester's status. -/
def meetLine (k : Super) (off : Nat) (src : BitVec 3) (s : State) : State :=
  match readOutcome s k off with
  | .deadNode => s
  | .badNode n => nodeNote k n (noteNodes k off s)
  | .zero | .poisoned => fetchCtr k off s
  | .lost => lineUncorrectable k (off / 128) src (fetchCtr k off s)
  | .badTag => tagNote k (off / 128) 1 (noteLine k (off / 128) (fetchCtr k off s))
  | .good _ => noteLine k (off / 128) (fetchCtr k off s)

end Sys2Proof.Machine
end

