-- ==== Sys2Proof/Machine/Ppa.lean ====
section
/-! DEFINITION. Partition memory: reads and writes of PPA ranges by the units of the partition (R28, R339, R342, R343,
R352–R357). -/

namespace Sys2Proof.Machine

/-! ### Access results -/

/-- Why an access to partition memory fails. `gone`: the partition was stopped while the access was served. -/
inductive MemErr where
  | violation (addr : Nat)
  | keyRetired (k : Super) (id : KeyId) (ppa : Nat)
  | poison (ppa : Nat)
  | integrity (ppa : Nat)
  | exhausted (k : Super) (off : Nat) (id : KeyId) (ppa : Nat)
  | gone
  deriving DecidableEq, Repr

/-- The status, DETAIL and DETAIL2 of a failed access (R106). -/
def MemErr.status : MemErr → Byte × Word × BitVec 56
  | .violation a => (stAccessViolation, 0, BitVec.ofNat 56 a)
  | .keyRetired _ id a => (stKeyRetired, w32 id.val, BitVec.ofNat 56 a)
  | .poison a => (stPoison, 0, BitVec.ofNat 56 a)
  | .integrity a => (stIntegrityFail, 0, BitVec.ofNat 56 a)
  | .exhausted _ _ _ a => (stCounterExhausted, 0, BitVec.ofNat 56 a)
  | .gone => (stResetAborted, 0, 0)

/-! ### Routes (R21, R26, R28) -/

/-- One leg of a memory request's way: a NoC pair link, a bridge comb group, the super link. -/
inductive Hop where
  | pair (a b : Comb)
  | group (g : Fin 4)
  | link (j : Super)
  deriving DecidableEq, Repr

/-- The comb at the other end of comb k's bridge group. -/
def acrossOf (k : Comb) : Comb := if k.val < 4 then ⟨k.val % 4 + 4, by omega⟩ else ⟨k.val % 4, by omega⟩

/-- The route from comb node k to super j (R28). -/
def routeOf (k : Comb) (j : Super) : List Hop :=
  if k = j then [.link j]
  else if dieOf k = dieOf j then [.pair k j, .link j]
  else if j = acrossOf k then [.group (Fin.ofNat 4 k.val), .link j]
  else [.group (Fin.ofNat 4 k.val), .pair (acrossOf k) j, .link j]

/-- Whether a leg carries anything: a link is enabled while both its ends share a partition (R21, R26). -/
def hopOpen (s : State) (h : Hop) : Bool :=
  match h with
  | .pair a b => s.mod.pairLinks.contains (if a.val ≤ b.val then (a, b) else (b, a))
  | .group g => s.mod.groupLinks.getLsbD g.val
  | .link _ => true

/-- Whether every leg of a route is open. -/
def routeOpen (s : State) (k : Comb) (j : Super) : Bool := (routeOf k j).all (hopOpen s)

/-- Whether a super serves a request to an offset now: ACTIVE, its tree formatted, its bank not under repair (R325, R328,
R349). -/
def superServes (u : SuperState) (off : Nat) : Bool :=
  u.powered && u.state == 1 && u.tree != 0 &&
  match u.repairing with
  | some r => decide (r % 512 ≠ bankKey off)
  | none => true

/-- Whether n bytes of partition memory from PPA a are served now to comb k: every super on the way answers, over open links;
requests that are not wait (R325, R328, R349). -/
def ppaServes (s : State) (k : Comb) (p : Part) (a n : Nat) : Bool :=
  (pieces 4096 (n / 4096 + 2) a n).all fun x =>
    match regionAt s p x.1 with
    | none => true
    | some m => let d := devOf s p m x.1; superServes s.supers[d.1] d.2 && routeOpen s k d.1

/-- Whether every super of a partition answers every request now. -/
def partServes (s : State) (p : Part) : Bool :=
  (combsOf s p).all fun k => superServes s.supers[k] 0 && s.supers[k].repairing.isNone

/-! ### Reads -/

/-- Bytes within one line. -/
def readLine (s : State) (p : Part) (hild : Bool) (a n : Nat) : Except MemErr Bytes :=
  match regionAt s p a with
  | none => .error (.violation a)
  | some m =>
    let d := devOf s p m a
    if s.supers[d.1].slots[m.keyId].state ≠ 1 then .error (.keyRetired d.1 m.keyId (a / 128 * 128))
    else match readOutcome s d.1 d.2 with
    | .zero => .ok (List.replicate n 0)
    | .deadNode | .poisoned | .lost => .error (.poison (a / 128 * 128))
    | .badNode _ | .badTag => .error (.integrity (a / 128 * 128))
    | .good e => .ok (slice (plainLine s d.1 (d.2 / 128) hild e) (d.2 % 128) n)

/-- The bytes read before the first failing line, and that failure. -/
def readLines (s : State) (p : Part) (hild : Bool) : List (Nat × Nat) → Bytes × Option MemErr
  | [] => ([], none)
  | (a, n) :: r =>
    match readLine s p hild a n with
    | .error e => ([], some e)
    | .ok bs => let x := readLines s p hild r; (bs ++ x.1, x.2)

/-- n bytes of partition memory from PPA a as a read meets them, up to the first failing line. -/
def ppaRead (s : State) (p : Part) (a n : Nat) : Bytes × Option MemErr := readLines s p false (linesOf a n)

/-- The same for a stream of the Hild unit, decrypted by the base die's own line cipher (R352). -/
def hildRead (s : State) (p : Part) (a n : Nat) : Bytes × Option MemErr := readLines s p true (linesOf a n)

/-- n bytes of partition memory, or `none` when some line fails. -/
def ppaBytes (s : State) (p : Part) (a n : Nat) : Option Bytes :=
  match ppaRead s p a n with
  | (bs, none) => some bs
  | _ => none

/-- What a failed access leaves in the registers of its super: KEY_REFUSED (and LATE_DROP for a write), CTR_EXH and the
error log (R339, R356). -/
def noteErr (isWrite : Bool) (e : MemErr) (s : State) : State :=
  match e with
  | .keyRetired k _ _ => s.modSuper k fun u =>
      { u with keyRefused := hit 16 u.keyRefused, lateDrop := if isWrite then hit 16 u.lateDrop else u.lateDrop }
  | .exhausted k off id _ => s.modSuper k fun u =>
      { u with ctrExh := hit 16 u.ctrExh, perrOff := BitVec.ofNat 36 off, perrKind := 4, perrLevel := 0,
               perrKey := BitVec.ofNat 6 id.val }
  | _ => s

/-- A write refused because the key table does not list the key ID of the region at a (R339, R469). -/
def noteUnlisted (p : Part) (a : Nat) (s : State) : State :=
  match regionAt s p a with
  | none => s
  | some m => noteErr true (.keyRetired (devOf s p m a).1 m.keyId a) s

/-- What the read of one line leaves behind. -/
def touchLine (p : Part) (src : BitVec 3) (a : Nat) (s : State) : State :=
  match regionAt s p a with
  | none => s
  | some m =>
    let d := devOf s p m a
    if s.supers[d.1].slots[m.keyId].state ≠ 1 then noteErr false (.keyRetired d.1 m.keyId a) s else meetLine d.1 d.2 src s

/-- What the read of some lines leaves behind, up to the first that fails. -/
def touchLines (p : Part) (src : BitVec 3) : List (Nat × Nat) → State → State
  | [], s => s
  | (a, n) :: r, s =>
    match readLine s p (src == 3) a n with
    | .error _ => touchLine p src a s
    | .ok _ => touchLines p src r (touchLine p src a s)

/-- What a read of n bytes of partition memory from PPA a leaves behind: counter fetches, corrected and poisoned lines,
refusals (R310, R339, R350, R352). -/
def ppaTouch (p : Part) (src : BitVec 3) (a n : Nat) (s : State) : State := touchLines p src (linesOf a n) s

/-- The failure of an access that stopped the partition on its way is `gone`. -/
def goneIf (old new : State) (p : Part) (e : Option MemErr) : Option MemErr :=
  if new.parts[p].stopped && !old.parts[p].stopped then some .gone else e

/-- A demand read of n bytes of partition memory from PPA a: what it leaves behind, the bytes, the failure. -/
def ppaFetch (p : Part) (a n : Nat) (s : State) : State × Bytes × Option MemErr :=
  let t := ppaTouch p 0 a n s
  let x := ppaRead s p a n
  (t, x.1, goneIf s t p x.2)

/-! ### Writes -/

/-- The lines of a write piece that it covers in part. -/
def partLines (off n : Nat) : List Nat := ((linesOf off n).filter fun l => decide (l.2 < 128)).map fun l => l.1 / 128
/-- The lines of a write piece that it covers whole. -/
def wholeLines (off n : Nat) : List Nat := ((linesOf off n).filter fun l => decide (l.2 = 128)).map fun l => l.1 / 128

/-- The lines of a sector that a piece does not touch. -/
def siblings (off n : Nat) : List Nat :=
  let touched := (linesOf off n).map fun l => l.1 / 128
  ((List.range 4).map fun i => off / 512 * 4 + i).filter fun l => !touched.contains l

/-- The sector of super k written by one request: its counter advances by exactly 1 (R343), the lines written hold what was
sent, whole lines lose poison (R354), siblings keep theirs with a new tag; the siblings of a zero sector are filled with
encrypted zeros. -/
def storeSector (k : Super) (off : Nat) (data : Bytes) (u : SuperState) : SuperState × List CtrEvent :=
  let c := tabGet 0 u.ctr (off / 512) + 1
  let x := touchCtr off true u
  let sector := (List.range 4).map fun i => off / 512 * 4 + i
  let fresh := if c = 1 then sector else (linesOf off data.length).map fun l => l.1 / 128
  let u := sector.foldl (fun u l => settleTag k l u) (fresh.foldl (fun u l => settleLine l u) x.1)
  ({ u with ctr := tabSet 0 u.ctr (off / 512) c
            mem := memWrite u.mem off data
            poison := u.poison.filter fun l => !(wholeLines off data.length).contains l && !(decide (c = 1) && decide (l / 4 = off / 512))
            ctrWarn := if c = 2 ^ 55 then hit 16 u.ctrWarn else u.ctrWarn }, x.2)

/-- One sector piece stored, its counter advanced: counter events and the warning at 2^55. -/
def storePiece (k : Super) (off : Nat) (data : Bytes) (s : State) : State :=
  let c := tabGet 0 s.supers[k].ctr (off / 512)
  let s := noteNodes k off s
  let x := storeSector k off data s.supers[k]
  let s := reportCtr k x.2 (s.modSuper k fun _ => x.1)
  if c + 1 = 2 ^ 55 then warnCtr k (off / 512 * 512) (off / 512 * 512 + 512) s else s

/-- How a sector of a write ends (R354). -/
inductive SectorEnd where
  | stored
  | poison (l : Nat)
  | badNode (n : Nat)
  | badTag (l : Nat)
  | exhausted
  deriving DecidableEq, Repr

/-- A merge or partial write: the lines it reads, and the first row of R354 that applies. -/
def mergeSector (k : Super) (off : Nat) (data : Bytes) (src : BitVec 3) (s : State) : State × SectorEnd :=
  let part := partLines off data.length
  let sib := siblings off data.length
  let is (r : LineRead) (l : Nat) : Bool := lineCheck s k l == r
  let t := forEach (part ++ sib) (noteLine k) (noteNodes k off s)
  match part.find? (is .badTag) with
  | some l => (tagNote k l 1 t, .badTag l)
  | none =>
    match sib.find? (is .badTag) with
    | some l => (tagNote k l 2 t, .badTag l)
    | none =>
      match part.find? fun l => is .poisoned l || is .lost l with
      | some l => (doIf (is .lost l) (lineUncorrectable k l src) t, .poison l)
      | none => (storePiece k off data (forEach (sib.filter (is .lost)) (fun l s => lineUncorrectable k l src s) t), .stored)

/-- One sector of a write settled by the lines it meets (R343, R354, R356). -/
def settleSector (k : Super) (key : KeyId) (off : Nat) (data : Bytes) (src : BitVec 3) (s : State) : State × SectorEnd :=
  let u := s.supers[k]
  let c := tabGet 0 u.ctr (off / 512)
  if nodeBad u off then (s, .poison (off / 128))
  else match failingNode u k off with
  | some n => (nodeNote k n (noteNodes k off s), .badNode n)
  | none =>
    if c + 1 = 2 ^ 56 then (noteErr true (.exhausted k off key 0) s, .exhausted)
    else if c = 0 then (storePiece k off data s, .stored)
    else mergeSector k off data src s

/-- What the end of a sector's write tells its requester: a failure at the PPA a of the piece that began at offset off. -/
def SectorEnd.err (e : SectorEnd) (k : Super) (key : KeyId) (off a : Nat) : Option MemErr :=
  match e with
  | .stored => none
  | .poison l => some (.poison (a / 128 * 128 + (128 * l - off / 128 * 128)))
  | .badNode _ => some (.integrity (a / 128 * 128))
  | .badTag l => some (.integrity (a / 512 * 512 + 128 * (l % 4)))
  | .exhausted => some (.exhausted k off key (a / 512 * 512))

/-- One sector piece written: the state and the failure. -/
def writeSector (p : Part) (a : Nat) (data : Bytes) (s : State) : State × Option MemErr :=
  match regionAt s p a with
  | none => (s, some (.violation a))
  | some m =>
    let d := devOf s p m a
    if s.supers[d.1].slots[m.keyId].state ≠ 1 then
      (noteErr true (.keyRetired d.1 m.keyId a) s, some (.keyRetired d.1 m.keyId (a / 128 * 128)))
    else
      let x := settleSector d.1 m.keyId d.2 data 0 s
      (x.1, goneIf s x.1 p (x.2.err d.1 m.keyId d.2 a))

/-- The pieces of a write in address order, up to the first that fails. -/
def writePieces (p : Part) (a0 : Nat) (data : Bytes) : List (Nat × Nat) → State → State × Option MemErr
  | [], s => (s, none)
  | (a, n) :: r, s =>
    match writeSector p a (slice data (a - a0) n) s with
    | (s, some e) => (s, some e)
    | (s, none) => writePieces p a0 data r s

/-- Bytes written to partition memory from PPA a, one write request for each sector touched (log entry 11). -/
def ppaWrite (p : Part) (a : Nat) (data : Bytes) (s : State) : State × Option MemErr :=
  writePieces p a data (sectorsOf a data.length) s

/-- Bytes written where the write is known to go through or its failure is reported elsewhere. -/
def ppaPut (p : Part) (a : Nat) (data : Bytes) (s : State) : State := (ppaWrite p a data s).1

end Sys2Proof.Machine
end

