-- ==== Sys2Proof/Machine/Egress.lean ====
section
/-! DEFINITION. Ingest and egress records, the egress checks, the CLEAR budget, and the host-sourced write rule
(R469–R473). -/

namespace Sys2Proof.Machine

/-- Egress classes of R471. -/
def clsSealed : Nat := 1
def clsCheckpoint : Nat := 2
def clsClear : Nat := 3
def clsIngest : Nat := 4

/-- The nonce of chunk j of a record (R471). -/
def recNonce (seq party cls j : Nat) : BitVec 96 := BitVec.ofNat 96 ((seq + j) % 2 ^ 64 + 2 ^ 64 * party + 2 ^ 68 * cls)

/-- A record's 64-byte header (R470). -/
def recHeader (magic cls party jobId len seq step : Nat) (ref : BitVec 256) : Bytes :=
  leBytes 4 magic ++ leBytes 1 cls ++ leBytes 1 party ++ [0, 0] ++ leBytes 4 jobId ++ leBytes 4 len ++ leBytes 8 seq
    ++ leBytes 8 step ++ leBytes 32 ref.toNat

/-- Pieces of at most 4,096 bytes. -/
def chunksOf : Nat → Bytes → List Bytes
  | 0, _ => []
  | k + 1, bs => if bs.isEmpty then [] else bs.take 4096 :: chunksOf k (bs.drop 4096)

/-- The number of chunks of n bytes. -/
def chunkCount (n : Nat) : Nat := ceilDiv n 4096

/-- The size of a record of n plaintext bytes (R470). -/
def recBytes (n : Nat) : Nat := n + 64 + 16 * chunkCount n

/-- A sealed record: the header, then each chunk sealed with the header and its number as additional data (R470, R471). -/
def sealRecord (key : BitVec 256) (hdr : Bytes) (seq party cls : Nat) (plain : Bytes) : Bytes :=
  hdr ++ ((chunksOf (plain.length / 4096 + 1) plain).mapIdx fun j c =>
    Config.gcmSeal key (recNonce seq party cls j) (hdr ++ leBytes 4 j) c).flatten

/-- Chunks opened one by one: the plaintext up to the first that fails, and that chunk's number. -/
def openChunks (key : BitVec 256) (hdr : Bytes) (seq party cls : Nat) : Nat → Nat → Bytes → Bytes × Option Nat
  | 0, _, _ => ([], none)
  | k + 1, j, bs => if bs.isEmpty then ([], none) else
    match Config.gcmOpen key (recNonce seq party cls j) (hdr ++ leBytes 4 j) (bs.take 4112) with
    | none => ([], some j)
    | some pt => let (r, e) := openChunks key hdr seq party cls k (j + 1) (bs.drop 4112); (pt ++ r, e)

/-- An ingest record opened under a content key: the verified plaintext and the byte offset of the first chunk that fails
(R469, R471); a header that is not an ingest record of this size fails at offset 0. -/
def openIngest (key : BitVec 256) (job : Word) (rec : Bytes) : Bytes × Option Nat :=
  let hdr := rec.take 64
  let n := fieldAt hdr 12 4
  if fieldAt hdr 0 4 ≠ 0x52454302 ∨ fieldAt hdr 4 1 ≠ clsIngest ∨ fieldAt hdr 6 2 ≠ 0 ∨ fieldAt hdr 8 4 ≠ job.toNat ∨
      rec.length ≠ recBytes n then ([], some 0)
  else
    let (pt, e) := openChunks key hdr (fieldAt hdr 16 8) (fieldAt hdr 5 1) clsIngest (chunkCount n + 1) 0 (rec.drop 64)
    (pt, e.map fun j => 64 + 4112 * j)

/-- The key of a SEALED record to recipient r (R471). -/
def sealKey (c : Context) (m : Manifest) (r : Nat) : BitVec 256 :=
  hkdf 256 (leBytes 32 (Config.x25519 c.ctxKey (m.recips.getD r 0)).toNat) (leBytes 64 m.digest.toNat) [1, BitVec.ofNat 8 r]

/-- The nonce counter of a recipient. -/
def seqFor (c : Context) (r : Nat) : DWord := ((c.seqs.find? fun e => decide (e.1 = r)).map (·.2)).getD 0

/-- The nonce counter of a class and recipient (R471). -/
def egressSeq (c : Context) (cls r : Nat) : DWord := if cls = clsSealed then seqFor c r else c.seqCkpt

/-- The context after a record of n plaintext bytes: its counter advances by the chunk count. -/
def bumpSeq (c : Context) (cls r n : Nat) : Context :=
  if cls = clsSealed then
    { c with seqs := (r, seqFor c r + BitVec.ofNat 64 (chunkCount n)) :: c.seqs.filter fun e => decide (e.1 ≠ r) }
  else if cls = clsCheckpoint then { c with seqCkpt := c.seqCkpt + BitVec.ofNat 64 (chunkCount n) }
  else c

/-- What a host-bound write of `len` bytes and class cls puts at its destination for the bytes `plain` read so far: the
record's header and chunks, or for CLEAR the bytes unchanged. -/
def egressPart (s : State) (p : Part) (cls r len : Nat) (plain : Bytes) : Bytes :=
  let c := s.parts[p].ctx
  match c.man with
  | none => plain
  | some m =>
    if cls = clsClear then plain else
    let seq := (egressSeq c cls r).toNat
    let party := if cls = clsSealed then r else 0
    let hdr := recHeader 0x52454301 cls party m.jobId.toNat len seq c.verdicts.toNat (Config.x25519Pub c.ctxKey)
    sealRecord (if cls = clsSealed then sealKey c m r else c.ckptKey.getD 0) hdr seq party cls plain

/-- The bytes a host-bound write of class cls puts at its destination: the record, or for CLEAR the bytes unchanged. -/
def egressBytes (s : State) (p : Part) (cls r : Nat) (plain : Bytes) : Bytes := egressPart s p cls r plain.length plain

/-- The checks of R472 in order: the failing status with DETAIL and DETAIL2, or none. -/
def egressCheck (s : State) (p : Part) (cls r len : Nat) : Option (Byte × Word × BitVec 56) :=
  let c := s.parts[p].ctx
  match c.man with
  | none => some (stEgressDenied, 0, 0)
  | some m =>
    if cls ≠ 1 ∧ cls ≠ 2 ∧ cls ≠ 3 then some (stEgressDenied, 0, 0)
    else if cls = clsSealed ∧ m.recips.length ≤ r then some (stEgressDenied, 1, 0)
    else if cls = clsCheckpoint ∧ c.ckptKey.isNone then some (stEgressDenied, 2, 0)
    else if cls = clsClear ∧ m.clearBudget = 0 then some (stEgressDenied, 3, 0)
    else if !s.fns[fnOf p].secure then some (stEgressDenied, w32 cls, 0)
    else if cls = clsClear ∧ c.clearLeft < len then some (stEgressBudget, w32 len, BitVec.ofNat 56 c.clearLeft)
    else if cls ≠ clsClear ∧ 2 ^ 64 - 1 < (egressSeq c cls r).toNat + chunkCount len then some (stEgressDenied, w32 cls, 0)
    else none

/-- A data write refused while the stream is not Secure notes EGRESS_NOIDE (R429). -/
def noteNoIde (p : Part) (s : State) : State :=
  if s.fns[fnOf p].secure then s else s.modFn (fnOf p) fun f => { f with noIde := hit 16 f.noIde }

/-- A CLEAR write is charged at its check (R473). -/
def chargeClear (p : Part) (cls len : Nat) (s : State) : State :=
  if cls = clsClear then s.modCtx p fun c => { c with clearLeft := c.clearLeft - len } else s

/-- The CLEAR budget is refilled at a resolution of p0, and the context's verdict count advances (R470, R473). -/
def refillClear (p : Part) (s : State) : State :=
  s.modCtx p fun c => match c.man with
    | none => c
    | some m => { c with clearLeft := m.clearBudget, refills := c.refills + 1, verdicts := c.verdicts + 1 }

/-- What R469 says of a host-sourced write to PPA a: by the kind of the key of the region there. -/
inductive IngestKind where
  | delivered (key : BitVec 256)
  | clear
  | refused
  | unlisted (id : KeyId)
  deriving DecidableEq, Repr

/-- The ingest rule for PPA a (R469). -/
def ingestKind (s : State) (p : Part) (a : Nat) : IngestKind :=
  match regionAt s p a with
  | none => .refused
  | some m =>
    match s.parts[p].ctx.man with
    | none => .unlisted m.keyId
    | some man =>
      match man.keys.find? fun e => decide (e.id = m.keyId) with
      | none => .unlisted m.keyId
      | some e =>
        if e.kind = 1 then .delivered (s.supers[(devOf s p m a).1].slots[m.keyId].key)
        else if e.kind = 3 then .clear else .refused

end Sys2Proof.Machine
end

