-- ==== Sys2Proof/Machine/HildGate.lean ====
section
/-! DEFINITION. How a Hild run ends (R297, R298), its commit record and its gate (R295, R296, R515). -/

namespace Sys2Proof.Machine

/-! ### A run ends (R107, R147, R295, R297, R298) -/

/-- The SQUASHED part of the lowest comb. -/
def Desc.squashedPart (d : Desc) : Option (Byte × Word × BitVec 56 × Comb) :=
  (fins 8).findSome? fun k => d.fails.find? fun f => decide (f.1 = stSquashed) && decide (f.2.2.2 = k)

/-- A COMPUTE descriptor is decided once no comb owes a part (R147). -/
def Desc.settle (d : Desc) (k : Comb) : Desc :=
  if !d.combsLeft.isEmpty then d else
  match d.worst with
  | some (st, a, b, c) => d.decide' st a b c
  | none =>
    match d.squashedPart with
    | some (st, a, _, c) => d.decide' st a (BitVec.ofNat 56 ((d.fails.map fun f => f.2.2.1.toNat).sum)) c
    | none => d.decide' stOK (w32 d.moved) 0 k

/-- The part of an UPDATE that ran on super k ends. -/
def endPart (k : Super) (d : RunDesc) (st : Byte) (detail : Word) (d2 : BitVec 56) (bytes : Nat) (s : State) : State :=
  s.modDesc d.part d.ring d.idx fun e =>
    ({ e with moved := if st = stOK then e.moved + bytes else e.moved }.combEnd k st detail d2).settle (serving s d.part d.ring)

/-- The status a run completes with: POISON once it voided a block, whatever fails later (R107, R298). -/
def runStatus (c : CurRun) (st : Byte) (detail : Word) (d2 : BitVec 56) : Byte × Word × BitVec 56 :=
  match c.poison with
  | none => (st, detail, d2)
  | some a => (stPoison, 0, BitVec.ofNat 56 a)

/-- The current run leaves the unit with a status; one that stops its partition leaves the unit STOPPED (R297, R307). A HILD
reports its failure in one FAULT record whose DETAIL is what DETAIL2 would be (R275). -/
def endRun (k : Super) (st : Byte) (detail : Word) (d2 : BitVec 56) (s : State) : State :=
  match s.supers[k].hild.cur, partOf s k with
  | some c, some p =>
    let halt := st == stIntegrityFail || st == stCounterExhausted
    let (est, ed, ed2) := runStatus c st detail d2
    let s := s.modHild k fun h => { h with cur := none, state := if halt then 3 else 0 }
    let s := match c.run.desc with
      | some d => endPart k d est ed ed2 c.bytes s
      | none => if est = stOK ∨ stopsPartition est then s else postEvent p evFault est k ed2 s
    if stopsPartition st then
      stopPartitionAs p k st detail d2 (if st = stInternal then detail else 0) []
        (if c.run.desc.isNone ∧ est = st then some d2 else none) s
    else s
  | _, _ => s

/-- A staging run is discarded: nothing is written and no event is posted; an UPDATE's part ends with the status (R295). -/
def dropRun (k : Super) (st : Byte) (detail : Word) (d2 : BitVec 56) (s : State) : State :=
  match s.supers[k].hild.cur with
  | none => s
  | some c =>
    let s := s.modHild k fun h => { h with
      cur := none, state := 0, discard := hit 16 h.discard, discarded := (h.discarded ++ [c.run.step]).dedup }
    match c.run.desc with
    | some d => endPart k d st detail d2 0 s
    | none => s

/-- A failed memory access of the run (R107, R297, R361): the run ends; an access that stopped the partition has ended it. -/
def runMemFail (k : Super) (e : MemErr) (s : State) : State :=
  let (st, d, d2) := e.status
  match e with
  | .gone => s
  | _ => if st = stKeyRetired ∧ s.supers[k].hild.state = 1 then dropRun k st d d2 s else endRun k st d d2 s

/-- Writes to partition memory in order, up to the first that fails. -/
def putAll (p : Part) : List StagedWrite → State → State × Option MemErr
  | [], s => (s, none)
  | w :: r, s =>
    match ppaWrite p w.ppa w.data s with
    | (s, some e) => (s, some e)
    | (s, none) => putAll p r s

/-! ### The commit record and the gate -/

/-- The 64 bytes of a commit record (R296). -/
def commitRec (state : Nat) (r : HildRun) (groups : Nat) (time : DWord) : Bytes :=
  leBytes 8 state ++ leBytes 8 r.step.toNat ++ leBytes 2 r.first ++ leBytes 2 r.count ++ leBytes 2 groups ++ [0, 0]
    ++ leBytes 8 time.toNat ++ List.replicate 32 0

/-- The commit record of super k written, unless BASE is 0 (R296); a write that fails ends the run (R297). -/
def putCommit (k : Super) (state : Nat) (r : HildRun) (groups : Nat) (s : State) : State :=
  let base := s.supers[k].hild.commit.toNat
  match partOf s k with
  | none => s
  | some p =>
    if base = 0 then s
    else
      match ppaWrite p base (commitRec state r groups (humNs s k)) s with
      | (s, none) => s
      | (s, some m) => runMemFail k m s

/-- Whether the commit record of super k can be written now. -/
def commitServes (s : State) (k : Super) : Bool :=
  let base := s.supers[k].hild.commit.toNat
  base == 0 || (partOf s k).any fun p => ppaServes s k p base 64

/-- Whether a checkpoint holds the writes of a run (R515): one runs in its hold and the run's STEP exceeds its step. -/
def ckptHolds (s : State) (k : Super) (r : HildRun) : Bool :=
  match partOf s k with
  | none => false
  | some p => match s.parts[p].ckpt with
    | none => false
    | some c => c.hold && decide (c.step < r.step)

/-- The result buffer of the current run drains in element order, once every super on the way answers; the groups in it are done;
a write that fails ends the run (R295, R297). -/
def drainRun (k : Super) (s : State) : State :=
  match s.supers[k].hild.cur, partOf s k with
  | some c, some p =>
    if !(c.staged.all fun w => ppaServes s k p w.ppa w.data.length) then s else
    match putAll p c.staged s with
    | (s, none) => s.modHild k fun h => { h with cur := h.cur.map fun c =>
        { c with staged := [], done := c.done + c.inBuffer, inBuffer := 0 } }
    | (s, some m) => runMemFail k m s
  | _, _ => s

/-- A staged run goes to WRITING: commit record OPEN, then the buffer drains (R295); held while a checkpoint holds it. -/
def openGate (k : Super) (s : State) : State :=
  match s.supers[k].hild.cur, partOf s k with
  | some c, some _ =>
    if s.supers[k].hild.state = 1 ∧ c.run.gate.isNone ∧ !ckptHolds s k c.run ∧ commitServes s k then
      drainRun k (putCommit k 1 c.run c.done (s.modHild k fun h => { h with state := 2 }))
    else s
  | _, _ => s

/-- Predicate m of comb k resolves for one super's unit: gated runs under it become ungated, or are discarded (R295). -/
def resolveGate (k : Comb) (m : PredIx) (v : Bool) (u : Super) (s : State) : State :=
  let hit' : HildRun → Bool := fun r => decide (r.comb = k) &&
    match r.gate with
    | some g => decide (g.pred = m)
    | none => false
  let lose : HildRun → Bool := fun r => hit' r &&
    match r.gate with
    | some g => g.sense != v
    | none => false
  let free : HildRun → HildRun := fun r => if hit' r then { r with gate := none } else r
  let gone := (s.supers[u].hild.queue ++ (s.supers[u].hild.cur.map (·.run)).toList).filter lose
  let s := (discardHild u lose s).modHild u fun h => { h with discarded := (h.discarded ++ gone.map (·.step)).dedup }
  openGate u (s.modHild u fun h => { h with queue := h.queue.map free, cur := h.cur.map fun c => { c with run := free c.run } })

/-- Predicate m of comb k resolves for every Hild unit. -/
def resolveGates (k : Comb) (m : PredIx) (v : Bool) (s : State) : State := forEach (fins 8) (resolveGate k m v) s

end Sys2Proof.Machine
end

