-- ==== Sys2Proof/Machine/SeqOps.lean ====
section
/-! DEFINITION. What sequencer commands share: registers, semaphores, predicates, issue and stalls, program start and end
(R109–R147). -/

namespace Sys2Proof.Machine

/-! ### Registers and the program counter -/

/-- A scalar register; s0 reads 0 (R111). -/
def sreg (s : State) (k : Comb) (r : SReg) : DWord := if r.val = 0 then 0 else s.combs[k].seq.regs[r]

/-- A scalar register written; writes to s0 are ignored. -/
def setSreg (k : Comb) (r : SReg) (v : DWord) (s : State) : State :=
  if r.val = 0 then s else s.modSeq k fun q => { q with regs := upd q.regs r fun _ => v }

/-- A 32-bit immediate sign-extended (R114). -/
def simm (i : Word) : DWord := i.signExtend 64

/-- The byte offset IMM instructions from the PC, over the integers (R115, R116). -/
def targetOf (s : State) (k : Comb) (imm : Int) : Int := (s.combs[k].seq.pc.toNat : Int) + 8 * imm

/-- Whether a byte offset lies within the image. -/
def inImage (s : State) (k : Comb) (t : Int) : Bool := decide (0 ≤ t) && decide (t < s.combs[k].seq.progLen.toNat)

/-! ### Semaphores (R99) -/

/-- SET and ADD (R99); ADD wraps modulo 2^64. -/
def semApply (p : Part) (sem : Nat) (add : Bool) (v : DWord) (s : State) : State :=
  semWrite p sem (if add then semVal s p sem + v else v) s

/-! ### Stalls and issue (R132, R133, R143) -/

/-- Instructions issued since the oldest speculative one still pending, counting it (R133). -/
def window (q : Seq) : Nat :=
  match (q.specs.filter fun e => q.preds[e.2] == .pending).map (·.1) with
  | [] => 0
  | x :: xs => q.issued - xs.foldl min x

/-- The run-ahead limit: values above 64 are treated as 64 (R144). -/
def runahead (q : Seq) : Nat := min q.runahead.toNat 64

/-- The sequencer stalls with a code. -/
def stallWith (k : Comb) (code : Nat) (s : State) : State :=
  s.modSeq k fun q => { q with state := 2, stall := BitVec.ofNat 4 code }

/-- Whether comb k stands in the origin frame of its first grid and beat 0 has not begun: its sequencer waits (R70). -/
def awaitsBeat0 (s : State) (k : Comb) : Bool :=
  let h := s.combs[k].hum
  h.due && !h.active && decide (h.origin.toNat ≤ frameOf s k)

/-- Whether comb k's sequencer can issue: a program runs, it does not wait for END or for a beat. -/
def canIssue (s : State) (k : Comb) : Bool :=
  let q := s.combs[k].seq
  q.running.isSome && (q.state == 1 || q.state == 2) && !q.ending && !(q.state == 2 && q.stall == 7) && !awaitsBeat0 s k

/-- Whether the word that the PC points at in the program image spells no instruction (R114, R115): an illegal instruction,
whatever is issued for it. DESIGN CHOICE (log entry 89): a command's operands stand for the word's fields; an image that
cannot be read says nothing. -/
def fetchBad (s : State) (k : Comb) : Bool :=
  let q := s.combs[k].seq
  match (partOf s k).bind fun p => ppaBytes s p (q.progPpa.toNat + q.pc.toNat) 8 with
  | none => false
  | some w => (seqDecode k (w64 (le w))).isNone

/-- FORMAT_ERROR at the instruction (R146). -/
def illegal (k : Comb) (s : State) : State := programFault k stFormatError s.combs[k].seq.pc 0 s

/-- ACCESS_VIOLATION at the instruction with the offending address (R146). -/
def progViolation (k : Comb) (addr : Nat) (s : State) : State :=
  programFault k stAccessViolation s.combs[k].seq.pc (BitVec.ofNat 56 addr) s

/-- One instruction issues: it counts, the PC moves, a stall ends. -/
def stepPc (k : Comb) (next : Int) (s : State) : State :=
  s.modSeq k fun q => { q with pc := w32 next.toNat, issued := q.issued + 1, state := 1, stall := 0, wait := none }

/-- The predicate condition of an instruction (R115, R132). -/
inductive Guard where
  | run | skip | spec | wait
  deriving DecidableEq, Repr

/-- What the predicate fields make of an instruction: it runs, does nothing, runs speculatively, or stalls. -/
def guardOf (s : State) (k : Comb) (h : PredF) (speculable : Bool) : Guard :=
  if !h.pen then .run else
  match s.combs[k].seq.preds[h.pred] with
  | .pending => if speculable && decide (0 < runahead s.combs[k].seq) then .spec else .wait
  | .isTrue => if h.sense then .run else .skip
  | .isFalse => if h.sense then .skip else .run

/-- Whether issuing one more instruction would exceed the window (R133); a first speculative one opens it at 1. -/
def windowFull (q : Seq) (g : Guard) : Bool :=
  let w := window q
  if w = 0 then (match g with | .spec => decide (runahead q < 1) | _ => false) else decide (runahead q < w + 1)

/-- Issue of an instruction: the body runs when the predicate lets it, on a state in which a speculative one is noted.
`next` is where the PC goes when the body runs. -/
def issueTo (k : Comb) (h : PredF) (speculable : Bool) (next : Int) (body : State → State) (s : State) : State :=
  if !canIssue s k then s else
  let g := guardOf s k h speculable
  let fall := targetOf s k 1
  if fetchBad s k then illegal k s else
  if windowFull s.combs[k].seq g then stallWith k 1 s else
  match g with
  | .wait => stallWith k 4 s
  | .skip => if inImage s k fall then stepPc k fall s else illegal k s
  | .run => if inImage s k next then body (stepPc k next s) else illegal k s
  | .spec =>
    if inImage s k next then
      body ((stepPc k next s).modSeq k fun q => { q with specs := (q.issued - 1, h.pred) :: q.specs })
    else illegal k s

/-- Issue of an instruction that falls through. -/
def issue (k : Comb) (h : PredF) (speculable : Bool) (body : State → State) (s : State) : State :=
  issueTo k h speculable (targetOf s k 1) body s

/-- Issue of an instruction that writes one scalar register (R115). -/
def issueReg (k : Comb) (h : PredF) (a : SReg) (v : State → DWord) (s : State) : State :=
  issue k h false (setSreg k a (v s)) s

/-- Issue with a check that runs only when the instruction would execute: a stall code, a fault, or none. -/
inductive Block where
  | none
  | stall (code : Nat)
  | bad
  | violation (addr : Nat)
  | fail (st : Byte) (detail : Word) (detail2 : BitVec 56)
  deriving DecidableEq, Repr

/-- Issue of an instruction with checks of its own, evaluated when its predicate lets it execute. -/
def issueIf (k : Comb) (h : PredF) (speculable : Bool) (check : State → Block) (body : State → State) (s : State) : State :=
  if !canIssue s k then s else
  let g := guardOf s k h speculable
  let go := match g with | .run => true | .spec => true | _ => false
  if fetchBad s k ∨ windowFull s.combs[k].seq g ∨ !go then issue k h speculable body s else
  match check s with
  | .none => issue k h speculable body s
  | .stall c => stallWith k c s
  | .bad => illegal k s
  | .violation a => progViolation k a s
  | .fail st d d2 => programFault k st d d2 s

/-- Whether the instruction issued now executes, or is refused by its own checks. -/
def wouldIssue (s : State) (k : Comb) (h : PredF) (speculable : Bool) : Bool :=
  let g := guardOf s k h speculable
  canIssue s k && !fetchBad s k && !windowFull s.combs[k].seq g && match g with
    | .run | .spec => true
    | _ => false

/-- Issue of a "no PEN" instruction: PEN = 1 is illegal (R115). -/
def issueNoPen (k : Comb) (h : PredF) (f : State → State) (s : State) : State :=
  if !canIssue s k then s else if h.pen ∨ fetchBad s k then illegal k s
  else if windowFull s.combs[k].seq .run then stallWith k 1 s else f s

/-! ### Held writes (R134–R138) -/

/-- Bytes and entries held. -/
def heldBytes (q : Seq) : Nat := (q.retain.map (·.bytes)).sum
def heldEntries (q : Seq) : Nat := q.retain.length
def retainBytes : Nat := 2097152
def retainEntries : Nat := 1024

/-- Whether an external write issued now is held: its own predicate is pending, or the buffer is not empty (R134, R135). -/
def mustHold (s : State) (k : Comb) (h : PredF) : Bool :=
  (h.pen && s.combs[k].seq.preds[h.pred] == .pending) || !s.combs[k].seq.retain.isEmpty

/-- The predicate under which an entry waits: none once resolved (R138). -/
def specOf (s : State) (k : Comb) (h : PredF) : PredF :=
  { h with pen := h.pen && s.combs[k].seq.preds[h.pred] == .pending }

/-- A semaphore operation of a program: held, or applied at once (R134, R135). -/
def progSem (k : Comb) (h : PredF) (sem : Nat) (add : Bool) (v : DWord) (s : State) : State :=
  if mustHold s k h then
    s.modSeq k fun q => { q with retain := q.retain ++
      [⟨.semOp sem add v, q.issued - 1, q.pc - 8, specOf s k h, 0, true⟩] }
  else match partOf s k with
    | none => s
    | some p => semApply p sem add v s

/-- The check of SEM_SET and SEM_ADD: the index, then room for one entry when it is held. DESIGN CHOICE (log entry 96): with
1,024 entries held it stalls with code 3 and sets no RETAIN_FULL, since R137 speaks of a MOVE only. -/
def semCheck (k : Comb) (h : PredF) (sem : Word) (s : State) : Block :=
  if 4095 < sem.toNat then .violation sem.toNat
  else if mustHold s k h ∧ retainEntries ≤ heldEntries s.combs[k].seq then .stall 3 else .none

/-! ### Predicates (R123–R130) -/

/-- A predicate takes a state. -/
def setPred (k : Comb) (m : PredIx) (v : PState) (a : Arm) (s : State) : State :=
  s.modSeq k fun q => { q with preds := upd q.preds m fun _ => v, arms := upd q.arms m fun _ => a }

/-- The state of a resolved predicate. -/
def pstate (b : Bool) : PState := if b then .isTrue else .isFalse

/-- A PENDING predicate of comb k resolves (R125): entries under it are let go or squashed, the squash is remembered for
the program's end status, gated Hild runs open or go (R138, R139, R147, R295). -/
def resolvePred (k : Comb) (m : PredIx) (v : Bool) (s : State) : State :=
  let bad : Held → Bool := fun h => h.spec.pen && decide (h.spec.pred = m) && (h.spec.sense != v)
  let lost := (s.combs[k].seq.retain.filter bad)
  let s := squashHeld k bad s
  resolveGates k m v <| (setPred k m (pstate v) .none s).modSeq k fun q => { q with
    retain := q.retain.map fun h => if h.spec.pred = m then { h with spec := { h.spec with pen := false } } else h
    specs := q.specs.filter fun e => decide (e.2 ≠ m)
    squashFirst := if lost.isEmpty then q.squashFirst else q.squashFirst.orElse fun _ => some m
    squashBytes := q.squashBytes + (lost.map (·.bytes)).sum
    queues := q.queues.map fun ts => (ts.filter fun t => !(t.held && t.spec.pen && decide (t.spec.pred = m) && (t.spec.sense != v)
      && !isLocalDst t)).map fun t => if t.spec.pred = m then { t with spec := { t.spec with pen := false } } else t }
where
  /-- Whether a transfer's destination is a comb store or a cell store. -/
  isLocalDst (t : Transfer) : Bool := let d := bits (fieldAt t.block 0 1) 7 4; d == 2 || d == 3

/-- Operations dispatched before number n that have not completed on comb k. -/
def opsBefore (s : State) (k : Comb) (n : Nat) : Bool :=
  (fins 21).any fun c => s.combs[k].cells[c].queue.any (fun b => decide (b.sq < n)) ||
    s.combs[k].cells[c].running.any fun r => decide (r.block.sq < n)

/-- Whether any cell operation of comb k is queued or running. -/
def cellsBusy (s : State) (k : Comb) : Bool :=
  (fins 21).any fun c => !s.combs[k].cells[c].queue.isEmpty || !s.combs[k].cells[c].running.isEmpty

/-! ### Votes (R129, R409) -/

/-- Whether partition p votes through its routers: an admitted timetable and a member entry at position 0. -/
def votesOnFabric (s : State) (p : Part) : Bool :=
  (s.parts[p].tt.isSome || s.parts[p].nextTt.isSome) && (memberJob s p).isSome

/-- The masked predicates of comb k: all resolved, and all TRUE. -/
def maskResolved (s : State) (k : Comb) (mask : BitVec 16) : Bool :=
  (fins 16).all fun m => !mask.getLsbD m.val || s.combs[k].seq.preds[m] != .pending
def maskTrue (s : State) (k : Comb) (mask : BitVec 16) : Bool :=
  (fins 16).all fun m => !mask.getLsbD m.val || s.combs[k].seq.preds[m] == .isTrue

/-- A comb's vote part reaches the strand of position 0, or the partition's own reduction (R129, R409). -/
def addVote (p : Part) (v : VotePart) (s : State) : State :=
  if votesOnFabric s p then
    match memberJob s p with
    | some j => s.modJob p j fun e => { e with votes := e.votes ++ [v], voteAt := s.combs[p].hum.time }
    | none => s
  else s.modPart p fun q => { q with votes := q.votes ++ [v] }

/-- The comb posts its local vote once every masked predicate has resolved (R129). -/
def postVote (k : Comb) (s : State) : State :=
  match s.combs[k].seq.arms[(0 : PredIx)], partOf s k with
  | .verdict mask tag false, some p =>
    if maskResolved s k mask then
      addVote p ⟨posOf p k, false, maskTrue s k mask, tag⟩ (setPred k 0 .pending (.verdict mask tag true) s)
    else s
  | _, _ => s

/-- Vote parts combined: TRUE only if every part is TRUE with one tag (R409). -/
def combineVotes (vs : List VotePart) : Bool :=
  match vs with
  | [] => false
  | v :: r => v.val && r.all fun w => w.val && decide (w.tag = v.tag)

/-- The verdict resolves p0 of every comb of the partition that awaits it; the CLEAR budget is refilled (R129, R473). -/
def verdictAt (p : Part) (v : Bool) (s : State) : State :=
  let s := refillClear p s
  forEach (combsOf s p) (fun k s =>
    match s.combs[k].seq.arms[(0 : PredIx)] with
    | .verdict _ _ _ => postVote k (resolvePred k 0 v s)
    | _ => s) s

/-! ### Program start and end (R109–R113, R145, R147) -/

/-- The COMPUTE descriptor a run belongs to. -/
def descOf (s : State) (d : RunDesc) : Option Desc := findDesc s.parts[d.part].rings[d.ring] d.idx

/-- A program starts on comb k: registers, entry, cache, reseed for a new STEP (R109–R111, R203). -/
def startProgram (k : Comb) (d : RunDesc) (s : State) : State :=
  match descOf s d with
  | none => s
  | some e =>
    let step : DWord := w64 (fieldAt e.bytes 40 8)
    let s := if s.combs[k].rng.step = step then s else reseed k (some step) s
    let s := s.modPart d.part fun q => { q with lastCompute := step }
    let regs : Vector DWord 32 := Vector.ofFn fun i : SReg =>
      if i.val = 1 then w64 (fieldAt e.bytes 32 8) else if i.val = 2 then step
      else if i.val = 3 then w64 (posOf d.part k) else if i.val = 4 then w64 (sizeOf s d.part) else 0
    s.modSeq k fun q => { q with
      state := 1, stall := 0, running := some d, sqIndex := d.idx, pc := w32 (fieldAt e.bytes 28 4)
      progPpa := w64 (fieldAt e.bytes 16 8), progLen := w32 (fieldAt e.bytes 24 4), progStep := step, regs := regs
      progNo := q.progNo + 1, issued := 0, specs := [], ending := false, squashFirst := none, squashBytes := 0, wait := none
      wdogFrames := 0, wdogIssue := 0 }

/-- The flits queued on the flows of comb k that its current program sends, and those of them that the retention buffer
released. A transfer to a flow completes, and a fabric write is acknowledged, when its flits are sent (log entry 90). -/
def progFlits (s : State) (k : Comb) : List QFlit :=
  (s.combs[k].router.flows.map fun f => f.queue.filter fun x => x.desc.isNone && decide (x.prog = s.combs[k].seq.progNo)).flatten
def heldFlits (s : State) (k : Comb) : List QFlit := (progFlits s k).filter (·.held)

/-- The conditions of END (R145). -/
def endReady (s : State) (k : Comb) : Bool :=
  let q := s.combs[k].seq
  !cellsBusy s k && q.queues.all (fun t => t.isEmpty) && (progFlits s k).isEmpty && q.retain.isEmpty

/-- Whether a COMPUTE descriptor still awaits its outcome. -/
def descLive (s : State) (d : RunDesc) : Bool :=
  match descOf s d with
  | some e => e.stage == .active
  | none => false

/-- The program of the first COMPUTE descriptor that waits for comb k starts (R113); those that a stop has decided are
passed over. -/
def startNext (k : Comb) (s : State) : State :=
  match s.combs[k].seq.waiting.filter (descLive s) with
  | [] => s.modSeq k fun q => { q with waiting := [] }
  | w :: ws => startProgram k w (s.modSeq k fun q => { q with waiting := ws })

/-- The program of comb k ends without a fault (R147); a waiting COMPUTE descriptor's program then starts (R113). -/
def endProgram (k : Comb) (s : State) : State :=
  match s.combs[k].seq.running with
  | none => s
  | some d =>
    let q := s.combs[k].seq
    let s := s.modDesc d.part d.ring d.idx fun e =>
      (match q.squashFirst with
       | some m => e.combEnd k stSquashed (w32 m.val) (BitVec.ofNat 56 q.squashBytes)
       | none => e.combEnd k stOK 0 0).settle (serving s d.part d.ring)
    let s := s.modSeq k fun q => { q with state := 0, stall := 0, running := none, ending := false, wait := none
                                          regs := .replicate 32 0, specs := [] }
    startNext k s

end Sys2Proof.Machine
end

