-- ==== Sys2Proof/Machine/FabricOps.lean ====
section
/-! DEFINITION. What fabric and hum commands share: ports and parents, strand-ports going down, early-warning counts, job
entries and leases, votes combined (R51, R368, R373, R377, R378, R382–R388, R409, R509). -/

namespace Sys2Proof.Machine

/-! ### Ports -/

/-- The logical port that a physical port serves, if any. -/
def logPort (s : State) (q : PPort) : Option LPort := (fins 6).find? fun p => decide (physPort s p = q)

/-- The strand that owns a data lane (R367). -/
def strandOf (lane : Nat) : Comb := Fin.ofNat 8 (lane / 2)

/-- The sender's hops from the hum root (R404). -/
def rootDepth (s : State) : Nat :=
  let m := s.mod
  if m.humRoot then 0
  else (hopWay m.z.toNat m.rootZ.toNat m.dimZ.toNat).1 + (hopWay m.y.toNat m.rootY.toNat m.dimY.toNat).1 +
    (hopWay m.x.toNat m.rootX.toNat m.dimX.toNat).1

/-- PARENT of every router (R51, R58). -/
def setParents (s : State) : State :=
  let v := parentCode s
  forEach (fins 8) (fun k s => s.modHum k fun h => { h with parent := v }) s

/-- Whether a strand-port is UP (R377). -/
def portUp (s : State) (k : Comb) (p : LPort) : Bool := s.combs[k].router.ports[p].state == 2

/-- The timetable that comb k runs under: of a replacement, the old one until the comb has reached its origin (R69). -/
def ttOf (s : State) (p : Part) (k : Comb) : Option Timetable :=
  if s.combs[k].hum.due then s.parts[p].tt.orElse fun _ => s.parts[p].nextTt
  else s.parts[p].nextTt.orElse fun _ => s.parts[p].tt

/-! ### Early-warning counts (R509) -/

/-- A monitor of comb k's partition counts n more; the comb concerned is remembered. -/
def ewCount (k : Comb) (m : Fin 7) (n : Nat) (s : State) : State :=
  match partOf s k with
  | none => s
  | some p => s.modPart p fun q => { q with ew := { q.ew with counts := upd q.ew.counts m (· + n),
                                                               combIx := upd q.ew.combIx m fun _ => k } }

/-! ### Slot tables (R383, R387) -/

/-- The key of the entry for direction (RX when set), logical port and slot (R383). -/
def leaseKey (rx : Bool) (p slot : Nat) : Nat := 512 * (6 * (if rx then 1 else 0) + p) + slot

/-- A slot-table entry. -/
def leaseAt (c : CombState) (rx : Bool) (p slot : Nat) : BitVec 16 := tabGet 0 c.router.lease (leaseKey rx p slot)

/-- KIND, JOB and PORT of an entry. -/
def entKind (e : BitVec 16) : Nat := bits e.toNat 1 0
def entJob (e : BitVec 16) : Nat := bits e.toNat 5 2
def entPort (e : BitVec 16) : Nat := bits e.toNat 8 6

/-- The slot number of data slot d (R387). -/
def dataSlot (d : Nat) : Nat := if d ≤ 254 then d + 1 else d + 2
/-- The data slot of a slot number, if it is one. -/
def slotData (s : Nat) : Option Nat :=
  if s = 0 ∨ s = 256 ∨ 512 ≤ s then none else some (if s ≤ 255 then s - 1 else s - 2)

/-- The job entries with a non-idle entry at logical port p, in either direction. -/
def jobsOnPort (c : CombState) (p : LPort) : List JobIx :=
  (fins 12).filter fun j => c.router.lease.any fun e =>
    decide (entKind e.2 ≠ 0) && decide (entJob e.2 = j.val) && decide (e.1 / 512 % 6 = p.val)

/-- Whether any job entry of the module is LEASED (R372). -/
def anyLeased (s : State) : Bool := (fins 8).any fun k => (fins 12).any fun j => s.combs[k].router.jobs[j].leased

/-- Whether any job holds a lease on the module (R50). -/
def anyLease (s : State) : Bool := anyLeased s || (fins 8).any fun k => leaseLive s.combs[k]

/-- A refused operator write is logged. -/
def logRefusal (what : String) (s : State) : State :=
  s.modQueen fun q => { q with log := (.refused what :: q.log).take 64 }

/-! ### A strand-port goes down (R378) -/

/-- The lanes of a port whose FAILED bit is set in either direction, as a mask (R378). -/
def failedMask (s : State) (p : LPort) : BitVec 56 :=
  let q := s.ports[physPort s p]
  (q.failedTx ||| q.failedRx).setWidth 56

/-- LINK_DOWN for each job with a lease entry on the port: a member aborts, a relay passes the alarm (R378). -/
def linkDown (k : Comb) (p : LPort) (mask : BitVec 56) (s : State) : State :=
  forEach (jobsOnPort s.combs[k] p) (fun j s =>
    if s.combs[k].router.jobs[j].role = 1 then
      match partOf s k with
      | some q => jobFault q k 0x03 stLinkDown (w32 p.val) mask s
      | none => s
    else if s.combs[k].router.jobs[j].role = 2 then raiseRelay k j 0x03 s
    else s) s

/-- The state a strand-port falls to: TRAINING when it is enabled and powered and not held down, and the fabric reference is
not lost (R377, R379, R550). -/
def downState (s : State) (p : LPort) (stuck : Bool) : BitVec 2 :=
  if !stuck && !s.power.frefLost && s.mod.mapEn.getLsbD p.val && s.ports[physPort s p].on then 1 else 0

/-- The parent port of a LOCKED hum goes down (R54). -/
def humLosesParent (k : Comb) (p : LPort) (s : State) : State :=
  if rootPort s = some p ∧ s.combs[k].hum.state = 2 then s.modHum k fun h => { h with state := 3 } else s

/-- Strand-port p of comb k leaves UP, or restarts, with the given DETAIL2 mask; `stuck`: it stays DOWN (R378, R379). -/
def strandDown (k : Comb) (p : LPort) (mask : BitVec 56) (stuck : Bool) (s : State) : State :=
  let wasUp := portUp s k p
  let st := downState s p stuck
  let s := s.modSPort k p fun q => { q with state := st, stuck := stuck, fill := .replicate 2 2, uncorr := 0 }
  if !wasUp then s else
  let s := humLosesParent k p (ewCount k 2 1 s)
  if (jobsOnPort s.combs[k] p).isEmpty then s
  else linkDown k p mask (s.modRouter k fun r => { r with linkDown := hit 16 r.linkDown })

/-! ### Routes (R387, R388, R391) -/

/-- The ports of a dimension's hops, in the direction of the offset's sign. -/
def dimHops (d : Int) (plus minus : LPort) : List LPort :=
  List.replicate d.natAbs (if 0 < d then plus else minus)

/-- The output port of every hop of a flow: X, then Y, then Z (R388). -/
def routePorts (f : Flow) : List LPort := dimHops f.dx 0 1 ++ dimHops f.dy 2 3 ++ dimHops f.dz 4 5

/-- The port at the neighbour that faces a port. -/
def facing (p : LPort) : LPort := if p.val % 2 = 0 then Fin.ofNat 6 (p.val + 1) else Fin.ofNat 6 (p.val - 1)

/-- The source's output port, and the port at which the destination receives. -/
def firstPort (f : Flow) : Option LPort := (routePorts f).head?
def lastPort (f : Flow) : Option LPort := (routePorts f).getLast?.map facing

/-- The data slots in which the source sends (R391). -/
def flowSlots (f : Flow) : List Nat := (List.range f.count).map fun i => (f.first + i * f.stride) % 510

/-- The data slots in which the destination receives (R388). -/
def arriveSlots (f : Flow) : List Nat := (flowSlots f).map fun d => (d + 2 * ((routePorts f).length - 1)) % 510

/-- The flow, among those comb k runs, that claims a LOCAL entry at port q and data slot d. -/
def claimant (s : State) (p : Part) (k : Comb) (tx : Bool) (q : LPort) (d : Nat) : Option (FlowRt × Flow) :=
  (s.combs[k].router.flows.filter fun f => f.tx == tx).findSome? fun f =>
    match (ttOf s p k).bind fun t => t.flows[f.index]? with
    | none => none
    | some fl =>
      if (if tx then firstPort fl else lastPort fl) = some q ∧ (if tx then flowSlots fl else arriveSlots fl).contains d
      then some (f, fl) else none

/-- The runtime of one flow of comb k changed. -/
def modFlow (k : Comb) (tx : Bool) (i : Nat) (g : FlowRt → FlowRt) (s : State) : State :=
  s.modRouter k fun r => { r with flows := r.flows.map fun f => if f.tx = tx ∧ f.index = i then g f else f }

/-! ### Votes combined (R409) -/

/-- Whether every part a router waits for has arrived: its own combs' and each child port's. -/
def votesComplete (s : State) (p : Part) (e : JobEntry) : Bool :=
  decide ((e.votes.filter fun v => !v.port).length = sizeOf s p) &&
  (fins 6).all fun q => !e.vchild.getLsbD q.val || e.votes.any fun v => v.port && decide (v.src = q.val)

/-- The step tag of combined parts. -/
def voteTag (vs : List VotePart) : BitVec 16 := match vs with | [] => 0 | v :: _ => v.tag

end Sys2Proof.Machine
end

