-- ==== Sys2Proof/Machine/RunAhead.lean ====
section
/-! DEFINITION. MOVE, CELL and HILD, transfers, the retention buffer's release and the resolution of predicates (R118,
R119, R128–R141, R160, R272, R469, R472). -/

namespace Sys2Proof.Machine

/-! ### Flows -/

/-- The runtime of the flow that comb k sends. -/
def txFlow (s : State) (k : Comb) (i : Nat) : Option FlowRt :=
  s.combs[k].router.flows.find? fun f => f.tx && decide (f.index = i)

/-- Flow i of the timetable that comb k runs under (R69). -/
def flowOf (s : State) (p : Part) (k : Comb) (i : Nat) : Option Flow := (ttOf s p k).bind fun t => t.flows[i]?

/-- Flits queued on a flow of comb k. -/
def queueFlits (k : Comb) (i : Nat) (qs : List QFlit) (s : State) : State :=
  s.modRouter k fun r => { r with flows := r.flows.map fun f =>
    if f.tx ∧ f.index = i then { f with queue := f.queue ++ qs } else f }

/-- The queued form of a transfer's flits of program `prog`: the receive window gives each its destination as it is sent
(R400); the last one completes the transfer and increments its semaphore (R119). -/
def xferFlits (fl : Flow) (prog : Nat) (held : Bool) (sem : Option Nat) (start : Nat) (last : Bool) (fs : List (Bytes × Nat)) :
    List QFlit :=
  fs.mapIdx fun n f =>
    let l := last && decide (n + 1 = fs.length)
    { dstSpace := if fl.rxComb then 2 else 1, dst := 0, data := f.1, tokens := f.2, fromBeat := 0, xfer := start + n
      desc := none, prog := prog, held := held, sem := if l then sem else none, last := l : QFlit }

/-! ### External writes of a transfer (R134, R136) -/

/-- Bytes cut at 4 KiB granules from a PPA. -/
def ppaEntries (a : Nat) (data : Bytes) : List HeldKind :=
  (pieces 4096 (data.length / 4096 + 2) a data.length).map fun e => .ppa e.1 (slice data (e.1 - a) e.2)

/-- Bytes cut into host writes of at most 4 KiB. -/
def hostEntries (a : Nat) (clear : Bool) (refill : Nat) (data : Bytes) : List HeldKind :=
  (rowsOfBytes 4096 (data.length / 4096 + 1) data).mapIdx fun i d => .host (w64 (a + 4096 * i)) d clear refill

/-- Rows of a transfer paired with their destination starts. -/
def dstRows (x : Xfer) (plain : Bytes) : List (Nat × Bytes) :=
  (rowStarts x.dst x.dstStride x.rows).zip (rowsOfBytes x.rowBytes x.rows plain)

/-- What of the bytes read so far can be sent in units of n: all of a whole transfer of `total`, else the whole units. -/
def wholeUnits (n total : Nat) (bs : Bytes) : Bytes := if total ≤ bs.length then bs else bs.take (bs.length / n * n)

/-- The source bytes of one flit, or of one token that takes several (R400, R401). -/
def flitUnit (fl : Flow) : Nat := if !fl.dispatch then 512 else if fl.tokenBytes ≤ 512 then 512 / fl.tokenBytes * fl.tokenBytes else fl.tokenBytes

/-- The external writes of a transfer whose source bytes are `plain`, row by row: partition memory, flits, or the host. An
ingest record's plaintext and an egress record are contiguous (R469, R470). Where a failed read leaves `plain` short, what it
covers whole is written (R146). DESIGN CHOICE (log entry 95): contiguous small rows share no entry of the retention buffer. -/
def extWrites (s : State) (p : Part) (k : Comb) (x : Xfer) (plain : Bytes) : List HeldKind :=
  if x.dstSpace = 1 then
    (if x.srcSpace = 0 ∧ plain.length ≠ x.total then ppaEntries x.dst plain
     else ((dstRows x plain).map fun r => ppaEntries r.1 r.2).flatten)
  else if x.dstSpace = 4 then
    match flowOf s p k x.flow with
    | none => []
    | some fl =>
      let fs := flitsOf fl.dispatch fl.tokenBytes (wholeUnits (flitUnit fl) x.total plain)
      (groupsOf 8 (fs.length + 1) fs).mapIdx fun i g =>
        .flits x.flow (8 * i) (decide (fs.length ≤ 8 * i + 8) && decide (x.total ≤ plain.length)) g
  else if x.dstSpace = 5 then
    let r := s.parts[p].ctx.refills
    if x.cls = clsClear then ((dstRows x plain).map fun e => hostEntries e.1 true r e.2).flatten
    else hostEntries x.dst false r (egressPart s p x.cls x.recip x.total (wholeUnits 4096 x.total plain))
  else []

/-- Where an entry's bytes go: its PPA, its host address, its place among the flits of the flow. -/
def HeldKind.start : HeldKind → Nat
  | .ppa a _ => a
  | .flits _ n _ _ => n
  | .host a _ _ _ => a.toNat
  | .semOp _ _ _ => 0

/-- An entry put among entries in address order, behind those of the same address. -/
def placeEntry (w : HeldKind) : List HeldKind → List HeldKind
  | [] => [w]
  | v :: vs => if w.start < v.start then w :: v :: vs else v :: placeEntry w vs

/-- Entries in address order (R135). -/
def byAddress (ws : List HeldKind) : List HeldKind := ws.foldl (fun r w => placeEntry w r) []

/-- The source size a transfer's external writes are reserved for: the plaintext of an ingest record, else every byte. -/
def plainSize (s : State) (p : Part) (x : Xfer) : Nat :=
  if x.srcSpace = 0 ∧ x.dstSpace = 1 then
    match ingestKind s p x.dst with
    | .delivered _ => plainOfRecord x.total
    | _ => x.total
  else x.total

/-- Data bytes of an entry. -/
def HeldKind.size : HeldKind → Nat
  | .ppa _ d => d.length
  | .flits _ _ _ fs => (fs.map fun f => f.1.length).sum
  | .host _ d _ _ => d.length
  | .semOp _ _ _ => 0

/-- The entries a held transfer reserves: its writes, then its completion increment (R134, R137). -/
def reserve (s : State) (k : Comb) (p : Part) (h : PredF) (x : Xfer) : List Held :=
  let q := s.combs[k].seq
  let mk := fun kind => ({ kind := kind, issue := q.issued - 1, pc := q.pc - 8, spec := specOf s k h, bytes := kind.size
                           filled := false } : Held)
  (byAddress (extWrites s p k x (List.replicate (plainSize s p x) 0))).map mk ++
    (if x.semEn then [mk (.semOp x.sem true 1)] else [])

/-! ### MOVE (R118, R119, R137, R146, R469, R472) -/

/-- The forager a MOVE selects: the named one, or the least loaded, the lower on a tie (R118). -/
def pickForager (q : Seq) (f : Fin 4) : Fin 4 :=
  if f.val ≠ 0 then f
  else
    let n := fun i : Fin 4 => (q.queues[i]).length
    if n 1 ≤ n 2 ∧ n 1 ≤ n 3 then 1 else if n 2 ≤ n 3 then 2 else 3

/-- The first address of some rows outside partition memory. -/
def badRow (s : State) (p : Part) (starts : List Nat) (n : Nat) : Option Nat :=
  (starts.find? fun a => !inPpa s p a n).map fun a => if s.parts[p].ready then max a (ppaEnd s p) else a

/-- The first address of some rows beyond a store of a given size. -/
def badOff (starts : List Nat) (n lim : Nat) : Option Nat := (starts.find? fun a => decide (lim < a + n)).map fun a => max a lim

/-- The offending address of one side of a transfer, if any (R146). -/
def badSide (s : State) (p : Part) (space base stride rows n : Nat) : Option Nat :=
  if space = 1 then badRow s p (rowStarts base stride rows) n
  else if space = 2 then badOff (rowStarts base stride rows) n combStoreBytes
  else if space = 3 then badOff (rowStarts base stride rows) n cellSpaceBytes
  else none

/-- The offending address at the destination: an ingest record's plaintext is contiguous. -/
def badDst (s : State) (p : Part) (x : Xfer) : Option Nat :=
  if x.srcSpace = 0 ∧ x.dstSpace = 1 then
    (if plainSize s p x = x.total then badSide s p 1 x.dst x.dstStride x.rows x.rowBytes
     else badRow s p [x.dst] (plainSize s p x))
  else badSide s p x.dstSpace x.dst x.dstStride x.rows x.rowBytes

/-- The checks of a MOVE that its issue applies, in order: alignment, format, ranges, flow, host source, egress. DESIGN CHOICE
(log entry 98): DETAIL2 is 0 for a flow that is not in the timetable, which has no offending address. -/
def moveFault (k : Comb) (p : Part) (at' : Nat) (s : State) : Block :=
  let blk := combRead s k at' 64
  let x := decodeXfer blk
  let pc := s.combs[k].seq.pc
  if at' % 64 ≠ 0 then .bad
  else if combStoreBytes ≤ at' then .violation at'
  else if !xferFormatOk blk then .bad
  else match badSide s p x.srcSpace x.src x.srcStride x.rows x.rowBytes with
  | some a => .violation a
  | none =>
    if x.dstSpace = 4 ∧ (txFlow s k x.flow).isNone then .violation 0
    else if x.srcSpace = 0 ∧ (x.dstSpace = 2 ∨ x.dstSpace = 3 ∨ x.dstSpace = 5) then .violation x.dst
    else if x.srcSpace = 0 ∧ x.dstSpace = 4 then .violation 0
    else if x.dstSpace = 4 ∧ (match flowOf s p k x.flow with
        | some fl => fl.dispatch && decide (fl.tokenBytes ≠ x.rowBytes)
        | none => false) = true then .bad
    else match badDst s p x with
    | some a => .violation a
    | none =>
      if x.srcSpace = 0 then
        match ingestKind s p x.dst with
        | .refused => .violation x.dst
        | .unlisted _ => .fail stKeyRetired pc (BitVec.ofNat 56 (x.dst / 128 * 128))
        | _ => .none
      else if x.dstSpace = 5 then
        match egressCheck s p x.cls x.recip x.total with
        | some (st, d, d2) => .fail st d d2
        | none => .none
      else .none

/-- The retention stall of a MOVE whose writes must be held (R137). -/
def moveStall (k : Comb) (p : Part) (h : PredF) (x : Xfer) (f : Fin 4) (s : State) : Block :=
  let q := s.combs[k].seq
  let es := reserve s k p h x
  let own := h.pen && q.preds[h.pred] == .pending
  let full := if mustHold s k h ∧ !es.isEmpty then
      (if retainBytes < heldBytes q + (es.map (·.bytes)).sum then 2
       else if retainEntries < heldEntries q + es.length then 3 else 0)
    else 0
  if full ≠ 0 ∧ !(q.retain.isEmpty ∧ !own) then .stall full
  else if 16 ≤ (q.queues[pickForager q f]).length then .stall 9 else .none

/-- A reservation stall is noted once, as it begins (R144). -/
def noteRetain (k : Comb) (b : Block) (s : State) : State :=
  match b with
  | .stall 2 | .stall 3 =>
    if s.combs[k].seq.stall = 2 ∨ s.combs[k].seq.stall = 3 then s
    else s.modSeq k fun q => { q with retainFull := hit 16 q.retainFull }
  | _ => s

/-- What a MOVE leaves in status registers as it issues or is refused: a reservation stall, an egress over a stream that is not
Secure, a write under a key ID that the key table does not list (R144, R429, R339). -/
def noteMove (k : Comb) (p : Part) (x : Xfer) (b : Block) (s : State) : State :=
  let s := noteRetain k b s
  let s := if x.dstSpace = 5 then noteNoIde p s else s
  match b with
  | .fail st _ _ => if st = stKeyRetired then noteUnlisted p x.dst s else s
  | _ => s

/-- A MOVE issues: the transfer joins its forager's queue; a held one reserves its entries; a CLEAR write is charged. -/
def moveIssue (k : Comb) (p : Part) (h : PredF) (blk : Bytes) (f : Fin 4) (s : State) : State :=
  let x := decodeXfer blk
  let es := reserve s k p h x
  let held := mustHold s k h && !es.isEmpty &&
    decide (heldBytes s.combs[k].seq + (es.map (·.bytes)).sum ≤ retainBytes) &&
    decide (heldEntries s.combs[k].seq + es.length ≤ retainEntries)
  let s := if x.dstSpace = 5 then chargeClear p x.cls x.total s else s
  s.modSeq k fun q =>
    let t : Transfer := ⟨blk, q.pc - 8, specOf s k h, held, q.issued - 1⟩
    { q with queues := upd q.queues (pickForager q f) fun ts => ts ++ [t]
             retain := if held then q.retain ++ es else q.retain }

/-- MOVE. -/
def effMove (k : Comb) (h : PredF) (b : SReg) (f : Fin 4) (s : State) : State :=
  match partOf s k with
  | none => s
  | some p =>
    let a := (sreg s k b).toNat
    let blk := combRead s k a 64
    let check := fun s => match moveFault k p a s with
      | .none => moveStall k p h (decodeXfer blk) f s
      | e => e
    let s := if wouldIssue s k h true then noteMove k p (decodeXfer blk) (check s) s else s
    issueIf k h true check (moveIssue k p h blk f) s

/-- MOVE: starts the transfer whose block lies at comb-store offset sB. -/
def execMove (k : Comb) (h : PredF) (b : SReg) (forager : Fin 4) (s : State) : Out := done (effMove k h b forager s)

/-! ### CELL and HILD -/

/-- The cells a mask names. -/
def cellsOf (mask : Nat) : List Cell := (fins 20).filter fun n => mask.testBit n.val

/-- The checks of CELL: mask, alignment, the store's end, a full queue (R160, R161). -/
def cellCheck (k : Comb) (mask a : Nat) (s : State) : Block :=
  if 2 ^ 20 ≤ mask ∨ a % 64 ≠ 0 then .bad
  else if combStoreBytes < a + 128 then .violation (max a combStoreBytes)
  else if (cellsOf mask).any (fun n => decide (8 ≤ (s.combs[k].cells[physCell s k n]).queue.length)) then .stall 10 else .none

/-- CELL: each named cell copies the block into its queue (R160). -/
def execCell (k : Comb) (h : PredF) (b c : SReg) (s : State) : Out :=
  let a := (sreg s k c).toNat
  let mask := (sreg s k b).toNat
  done (issueIf k h true (cellCheck k mask a) (fun s =>
    let q := s.combs[k].seq
    forEach (cellsOf mask) (fun n s => s.modCell k (physCell s k n) fun cs =>
      { cs with queue := cs.queue ++ [⟨combRead s k a 128, q.pc - 8, q.issued - 1⟩] }) s) s)

/-- The checks of HILD (R272) and its full queue (R273). -/
def hildCheck (k : Comb) (n stats : DWord) (first : Nat) (s : State) : Block :=
  if n.toNat < 1 ∨ 4096 < n.toNat ∨ 4096 < first + n.toNat ∨ stats.toNat % 32 ≠ 0 then .bad
  else if 16 ≤ (s.supers[k].hild.queue).length then .stall 9 else .none

/-- HILD: queues a run on super k with s2 as its STEP, gated while its predicate is pending (R271, R295). -/
def execHild (k : Comb) (h : PredF) (b c : SReg) (first : BitVec 12) (s : State) : Out :=
  let n := sreg s k b
  let stats := sreg s k c
  done (issueIf k h true (hildCheck k n stats first.toNat) (fun s =>
    let g := specOf s k h
    s.modHild k fun u => { u with queue := u.queue ++
      [⟨k, first.toNat, n.toNat, sreg s k 2, stats, s.combs[k].seq.progNo, if g.pen then some g else none, none⟩] }) s)

/-! ### Carrying out external writes -/

/-- A memory failure of a program's transfer: a program fault, or a stopped partition (R146, R107). -/
def memFault (k : Comb) (p : Part) (pc : Word) (e : MemErr) (s : State) : State :=
  match e with
  | .violation a => programFault k stAccessViolation pc (BitVec.ofNat 56 a) s
  | .keyRetired _ _ a => programFault k stKeyRetired pc (BitVec.ofNat 56 a) s
  | .poison a => programFault k stPoison pc (BitVec.ofNat 56 a) s
  | .integrity a => stopPartition p k stIntegrityFail 0 (BitVec.ofNat 56 a) 0 [] s
  | .exhausted _ _ _ a => stopPartition p k stCounterExhausted 0 (BitVec.ofNat 56 a) 0 [] s
  | .gone => s

/-- A write of comb k's program leaves for its destination and awaits acknowledgement; `held`: the granule of an entry that
the retention buffer released. -/
def awaitAck (k : Comb) (host : Bool) (issue : Nat) (held : Option Nat) (s : State) : State :=
  s.modSeq k fun q => { q with unacked := q.unacked ++ [⟨host, q.progNo, issue, held⟩] }

/-- One external write of instruction `issue` goes to its destination, or fails. `rel`: it comes from the retention buffer;
`sem`: the semaphore that the last flit of a transfer increments. -/
def putWrite (k : Comb) (p : Part) (issue : Nat) (rel : Bool) (sem : Option Nat) (w : HeldKind) (s : State) :
    State × Option MemErr :=
  match w with
  | .ppa a d =>
    match ppaWrite p a d s with
    | (s, none) => (awaitAck k false issue (if rel then some (a / 4096) else none) s, none)
    | (s, some e) => (s, some e)
  | .flits i n l fs =>
    match flowOf s p k i with
    | none => (s, none)
    | some fl => (queueFlits k i (xferFlits fl s.combs[k].seq.progNo rel sem n l fs) s, none)
  | .host a d _ _ =>
    (awaitAck k true issue (if rel then some 0 else none) (hostPutAll (fnOf p) (hostWrites s (fnOf p) a.toNat d true) s), none)
  | .semOp i add v => (semApply p i add v s, none)

/-- External writes in order, up to the first that fails (R146). -/
def putWrites (k : Comb) (p : Part) (issue : Nat) (sem : Option Nat) : List HeldKind → State → State × Option MemErr
  | [], s => (s, none)
  | w :: ws, s =>
    match putWrite k p issue false sem w s with
    | (s, none) => putWrites k p issue sem ws s
    | (s, some e) => (s, some e)

/-- Whether an entry can be carried out now: its memory request is served, and a semaphore operation follows every older
entry that has been released and acknowledged (R138). -/
def entryServed (s : State) (k : Comb) (p : Part) (w : HeldKind) : Bool :=
  match w with
  | .ppa a d => ppaServes s k p a d.length
  | .semOp _ _ _ => s.combs[k].seq.unacked.all (fun w => w.held.isNone) && (heldFlits s k).isEmpty
  | _ => true

/-- The release of the head entry (R138): its predicate has resolved to its SENSE, its data is there, its destination takes
it. -/
def effRelease (k : Comb) (s : State) : State :=
  match s.combs[k].seq.retain, partOf s k with
  | e :: es, some p =>
    if e.spec.pen = true ∨ e.filled = false ∨ entryServed s k p e.kind = false ∨ s.combs[k].seq.state = 3 then s
    else
      match putWrite k p e.issue true none e.kind (s.modSeq k fun q => { q with retain := es }) with
      | (s, none) => s
      | (s, some m) => memFault k p e.pc m s
  | _, _ => s

/-- RETENTION_RELEASE. -/
def execRetentionRelease (k : Comb) (s : State) : Out := done (effRelease k s)

/-- MEMORY_WRITE_ACK: the oldest outstanding write is acknowledged; a host write only once it has been issued. -/
def execMemoryWriteAck (k : Comb) (s : State) : Out :=
  done (match s.combs[k].seq.unacked with
    | [] => s
    | w :: ws => if w.host ∧ (partOf s k).any (fun p => postWaits s (fnOf p)) then s else s.modSeq k fun q => { q with unacked := ws })

/-! ### Transfers complete (R119, R140, R146, R469) -/

/-- Rows of partition memory read up to the first failing line. -/
def readRows (p : Part) (n : Nat) : List Nat → State → State × Bytes × Option MemErr
  | [], s => (s, [], none)
  | a :: r, s =>
    match ppaFetch p a n s with
    | (s, bs, some e) => (s, bs, some e)
    | (s, bs, none) => let x := readRows p n r s; (x.1, bs ++ x.2.1, x.2.2)

/-- The source bytes of a transfer, and what reading them leaves behind. -/
def readSrc (k : Comb) (p : Part) (x : Xfer) (host : Bytes) (s : State) : State × Bytes × Option MemErr :=
  let starts := rowStarts x.src x.srcStride x.rows
  if x.srcSpace = 0 then (hostFetch (fnOf p) (starts.map fun a => (a, x.rowBytes)) s, host, none)
  else if x.srcSpace = 1 then readRows p x.rowBytes starts s
  else if x.srcSpace = 2 then (s, (starts.map fun a => combRead s k a x.rowBytes).flatten, none)
  else (s, (starts.map fun a => cellRead s k (Fin.ofNat 20 x.srcCell) a x.rowBytes).flatten, none)

/-- Local destination rows written. -/
def writeLocal (k : Comb) (x : Xfer) (data : Bytes) (s : State) : State :=
  forEach (dstRows x data) (fun r s =>
    if x.dstSpace = 2 then combWrite k r.1 r.2 s else cellWrite k (Fin.ofNat 20 x.dstCell) r.1 r.2 s) s

/-- The reserved entries of one instruction filled, in order, with their data. -/
def fillHeld (issue : Nat) : List Held → List HeldKind → List Held
  | [], _ => []
  | h :: hs, ws =>
    if h.issue ≠ issue then h :: fillHeld issue hs ws
    else match ws with
    | [] => { h with filled := true } :: fillHeld issue hs []
    | w :: ws => { h with kind := w, filled := true } :: fillHeld issue hs ws

/-- Whether some row of a transfer's source lies in a 4 KiB granule. -/
def readsGranule (x : Xfer) (g : Nat) : Bool :=
  (rowStarts x.src x.srcStride x.rows).any fun b => decide (b / 4096 ≤ g) && decide (g ≤ (b + x.rowBytes - 1) / 4096)

/-- Whether a transfer's source overlaps, at 4 KiB granularity, a held write of an older instruction that is not yet both
released and acknowledged (R140). -/
def overlapsHeld (q : Seq) (t : Transfer) (x : Xfer) : Bool :=
  x.srcSpace == 1 && ((q.retain.any fun h => decide (h.issue < t.issue) &&
    match h.kind with
    | .ppa a _ => readsGranule x (a / 4096)
    | _ => false) ||
    q.unacked.any fun w => !w.host && (decide (w.prog ≠ q.progNo) || decide (w.issue < t.issue)) &&
      match w.held with
      | some g => readsGranule x g
      | none => false)

/-- Whether every request of a transfer is served now: its source, and its destination unless its writes are held. -/
def xferServed (s : State) (k : Comb) (p : Part) (t : Transfer) (x : Xfer) : Bool :=
  (x.srcSpace != 0 || hostOpen s (fnOf p)) &&
  (x.srcSpace != 1 || (rowStarts x.src x.srcStride x.rows).all fun a => ppaServes s k p a x.rowBytes) &&
  (x.dstSpace != 1 || t.held || (rowStarts x.dst x.dstStride x.rows).all fun a => ppaServes s k p a x.rowBytes)

/-- What a transfer has read is carried to its destination: held entries filled, or the writes made. -/
def writeOut (k : Comb) (p : Part) (t : Transfer) (x : Xfer) (data : Bytes) (s : State) : State × Option MemErr :=
  let s := if x.dstSpace = 2 ∨ x.dstSpace = 3 then writeLocal k x data s else s
  let ws := extWrites s p k x data
  let s := if x.dstSpace = 5 ∧ x.cls ≠ clsClear then s.modCtx p fun c => bumpSeq c x.cls x.recip data.length else s
  if t.held then (s.modSeq k fun q => { q with retain := fillHeld t.issue q.retain (byAddress ws) }, none)
  else putWrites k p t.issue (if x.semEn then some x.sem else none) ws s

/-- A transfer whose bytes have all been read completes, and its semaphore counts it: at once, with the release of its held
entries, or with the last flit it sends to a flow. -/
def deliver (k : Comb) (p : Part) (t : Transfer) (x : Xfer) (data : Bytes) (s : State) : State :=
  match writeOut k p t x data s with
  | (s, some e) => memFault k p t.movePc e s
  | (s, none) => if x.semEn ∧ !t.held ∧ x.dstSpace ≠ 4 then semApply p x.sem true 1 s else s

/-- A transfer ends at a line that failed: what it read before is written, then the fault (R146). -/
def cutShort (k : Comb) (p : Part) (t : Transfer) (x : Xfer) (data : Bytes) (fault : State → State) (s : State) : State :=
  if t.held then fault s
  else match writeOut k p t x data s with
    | (s, some e) => memFault k p t.movePc e s
    | (s, none) => fault s

/-- A transfer's bytes, verified where they are an ingest record (R469), are delivered. -/
def settleXfer (k : Comb) (p : Part) (t : Transfer) (x : Xfer) (data : Bytes) (s : State) : State :=
  if x.srcSpace = 0 ∧ x.dstSpace = 1 then
    match ingestKind s p x.dst with
    | .delivered key =>
      match openIngest key (jobOf s p) data with
      | (plain, none) => deliver k p t x plain s
      | (plain, some o) => cutShort k p t x plain (programFault k stFormatError (w32 o) 0) s
    | .clear => deliver k p t x data s
    | .refused => programFault k stAccessViolation t.movePc (BitVec.ofNat 56 x.dst) s
    | .unlisted _ => programFault k stKeyRetired t.movePc (BitVec.ofNat 56 (x.dst / 128 * 128)) (noteUnlisted p x.dst s)
  else deliver k p t x data s

/-- The head transfer of a forager completes: its source is read and delivered; a line that fails ends it there (R146). It
waits while a request of its own is not served, or behind a write it must see (R140). -/
def effTransfer (k : Comb) (f : Fin 4) (host : Bytes) (s : State) : State :=
  match s.combs[k].seq.queues[f], partOf s k with
  | t :: ts, some p =>
    let x := decodeXfer t.block
    if s.combs[k].seq.state = 3 ∨ s.combs[k].seq.running.isNone ∨ overlapsHeld s.combs[k].seq t x ∨
        (x.srcSpace = 0 ∧ host.length ≠ x.total) ∨ !xferServed s k p t x then s
    else
      match readSrc k p x host (s.modSeq k fun q => { q with queues := upd q.queues f fun _ => ts }) with
      | (s, _, some .gone) => s
      | (s, data, some e) => cutShort k p t x data (memFault k p t.movePc e) s
      | (s, data, none) => settleXfer k p t x data s
  | _, _ => s

/-- TRANSFER_COMPLETE. -/
def execTransferComplete (k : Comb) (forager : Fin 4) (host : Bytes) (s : State) : Out := done (effTransfer k forager host s)

/-! ### Predicates resolve (R125–R130) -/

/-- The value a PENDING predicate resolves to now, if its condition holds. -/
def resolution (s : State) (k : Comb) (m : PredIx) : Option Bool :=
  if s.combs[k].seq.preds[m] ≠ .pending then none else
  match s.combs[k].seq.arms[m] with
  | .finite n => if opsBefore s k n then none else some (!s.combs[k].seq.finite)
  | .resolved v => some v
  | _ => none

/-- The verdict of a partition that votes among its own combs, once every comb has posted (R129). -/
def ownVerdict (p : Part) (s : State) : State :=
  if votesOnFabric s p ∨ (s.parts[p].votes.length : Nat) < sizeOf s p then s
  else verdictAt p (combineVotes s.parts[p].votes) (s.modPart p fun q => { q with votes := [] })

/-- A predicate of comb k resolves; a vote that waited for it is posted (R125, R129). -/
def effResolve (k : Comb) (m : PredIx) (s : State) : State :=
  if m.val = 0 then
    match partOf s k with
    | some p => ownVerdict p s
    | none => s
  else match resolution s k m with
    | some v => postVote k (resolvePred k m v s)
    | none => s

/-- PREDICATE_RESOLVE. -/
def execPredicateResolve (k : Comb) (m : PredIx) (s : State) : Out := done (effResolve k m s)

end Sys2Proof.Machine
end

