-- ==== Sys2Proof/Machine/Cells.lean ====
section
/-! DEFINITION. What the three engines of a cell share: matrices and vectors in the cell store, the operation block and its
checks, start and completion of an operation (R150–R164, R171–R174), cell errors and the spare (R178–R184), and the
entropy source (R204–R206). -/

namespace Sys2Proof.Machine

/-! ### Blocked matrices (R150, R151, R153) -/

/-- A blocked matrix in the cell store: base, format code, tile pitch and extents. -/
structure Mat where
  base : Nat
  fmt  : Nat
  tld  : Nat
  rows : Nat
  cols : Nat
  deriving DecidableEq, Repr

/-- ⌈n ÷ 128⌉. -/
def tiles (n : Nat) : Nat := ceilDiv n 128

/-- A matrix with the pitch its field gives: 0 means as wide as the matrix (R151). -/
def matOf (base fmt tldField rows cols : Nat) : Mat := ⟨base, fmt, if tldField = 0 then tiles cols else tldField, rows, cols⟩

/-- Whether a pitch field is too small for a number of columns (R151). -/
def pitchBad (tldField cols : Nat) : Bool := tldField != 0 && decide (tldField < tiles cols)

/-- Bytes of a tile of a format. -/
def tileBytes (fmt : Nat) : Nat := 16384 * elemBytes fmt

/-- The offset of element (r, c). -/
def Mat.addr (m : Mat) (r c : Nat) : Nat :=
  m.base + (r / 128 * m.tld + c / 128) * tileBytes m.fmt + (128 * (r % 128) + c % 128) * elemBytes m.fmt

/-- The end of the region that the matrix implies: the last byte of its last tile, plus 1 (R163). -/
def Mat.stop (m : Mat) : Nat := m.base + ((tiles m.rows - 1) * m.tld + tiles m.cols) * tileBytes m.fmt

/-- Element (r, c) as stored, widened; beyond the extents too. -/
def Mat.raw (st : Mem) (m : Mat) (r c : Nat) : Word := widen m.fmt (memNat st (m.addr r c) (elemBytes m.fmt))

/-- Element (r, c) as a tile fill takes it: zero beyond the extents (R153). -/
def Mat.get (st : Mem) (m : Mat) (r c : Nat) : Word := if r < m.rows ∧ c < m.cols then m.raw st r c else 0

/-- The tile in tile-row a and tile-column t as a fill takes it into a bank (R153, R154). -/
def Mat.fill (st : Mem) (m : Mat) (a t : Nat) : Bank :=
  ⟨m.addr (128 * a) (128 * t), (List.range 128).flatMap fun r => (List.range 128).map fun c => m.get st (128 * a + r) (128 * t + c)⟩

/-- The tiles that the first fills of an operation take, in the order in which its passes use them, one fill for each tile, while a
bank is free (R154). DESIGN CHOICE (log entry 104): later fills and releases are no steps of their own. -/
def firstFills (uses : List Bank) : List Bank :=
  (uses.foldl (fun ts b => if ts.any fun x => decide (x.base = b.base) then ts else ts ++ [b]) []).take 8

/-- Row r of the matrix. -/
def Mat.row (st : Mem) (m : Mat) (r : Nat) : List Word := (List.range m.cols).map (m.raw st r)

/-- n elements of a plain vector of a format. -/
def vecAt (st : Mem) (base fmt n : Nat) : List Word :=
  (List.range n).map fun i => widen fmt (memNat st (base + i * elemBytes fmt) (elemBytes fmt))

/-! ### Register file and statistics store -/

/-- n entries of a table from key lo, in one pass over a canonical table. -/
def tabTake {α : Type} (d : α) : Nat → Nat → Tab α → List α
  | 0, _, _ => []
  | n + 1, lo, [] => d :: tabTake d n (lo + 1) []
  | n + 1, lo, (a, v) :: r => if a = lo then v :: tabTake d n (lo + 1) r else d :: tabTake d n (lo + 1) ((a, v) :: r)

/-- n entries from key lo: in one pass where the table is canonical. -/
def tabSlice {α : Type} [DecidableEq α] (d : α) (t : Tab α) (lo n : Nat) : List α :=
  let w := t.filter fun e => decide (lo ≤ e.1)
  if tabWfFrom d lo w then tabTake d n lo w else (List.range n).map fun i => tabGet d t (lo + i)

/-- Word w of statistics record i (R247). -/
def statWord (cs : CellState) (i w : Nat) : Word := tabGet 0 cs.stats (2 * i + w)

/-! ### What an operation does -/

/-- The effect of an operation on its cell: bytes of the cell store, runs of register elements, statistics words, what its
completion writes, whether a conversion met a NaN or an infinity, rows counted, free values taken, the draws that each lane of its
engine takes (R201), the tiles of its first fills (R154). -/
structure CellOut where
  mem     : List (Nat × Bytes) := []
  vregs   : List (Nat × List Word) := []
  stats   : List (Nat × Word) := []
  late    : List (Nat × Bytes) := []
  met     : Bool := false
  empty   : Nat := 0
  ignored : Nat := 0
  draws   : Nat := 0
  taken   : List (Nat × Nat) := []
  fills   : List Bank := []
  deriving DecidableEq, Repr

/-- Two effects one after the other. -/
def CellOut.plus (a b : CellOut) : CellOut :=
  { mem := a.mem ++ b.mem, vregs := a.vregs ++ b.vregs, stats := a.stats ++ b.stats, late := a.late ++ b.late
    met := a.met || b.met, empty := a.empty + b.empty, ignored := a.ignored + b.ignored, draws := a.draws + b.draws
    taken := a.taken ++ b.taken, fills := a.fills ++ b.fills }

/-- What the effect writes, as destinations (R164). -/
def CellOut.dests (o : CellOut) : List Dest :=
  ((o.mem ++ o.late).map fun w => Dest.store w.1 w.2.length) ++
  (o.vregs.map fun w => Dest.vreg (w.1 / 4096)) ++ ((o.stats.map fun w => w.1 / 2).dedup.map Dest.stats)

/-- The finiteness accumulator of comb k takes note (R127). -/
def noteMet (k : Comb) (met : Bool) (s : State) : State := doIf met (fun s => s.modSeq k fun q => { q with finite := true }) s

/-- A cell takes the effect of an operation of an engine. -/
def applyOut (x : At) (e : Engine) (o : CellOut) (s : State) : State :=
  let s := s.modCell x.comb (physCell s x.comb x.cell) fun c => { c with
    store := o.mem.foldl (fun m w => memWrite m w.1 w.2) c.store
    vregs := o.vregs.foldl (fun t w => tabPut 0 t w.1 w.2) c.vregs
    stats := o.stats.foldl (fun t w => tabSet 0 t w.1 w.2) c.stats
    banks := if o.fills.isEmpty then c.banks else Vector.ofFn fun i : Fin 8 => o.fills[i.val]? }
  let s := s.modComb x.comb fun c => { c with rowEmpty := hitN 24 o.empty c.rowEmpty, rowIgnored := hitN 24 o.ignored c.rowIgnored }
  noteMet x.comb o.met (takeDraws x e o.taken { s with draws := s.draws + o.draws })

/-! ### Converted output (R171 steps 2–4, R192, R212) -/

/-- How an output is converted: format, rounding code, scale. -/
structure Conv where
  fmt   : Nat
  mode  : Nat
  scale : Word
  deriving DecidableEq, Repr

/-- What the lanes of an engine draw from now on: the i-th next draw of lane j. -/
abbrev Draws := Nat → Nat → Nat

/-- The draws that are left after an effect has taken its own. -/
def Draws.after (d : Draws) (o : CellOut) : Draws := fun j i =>
  d j (i + ((o.taken.filter fun t => decide (t.1 = j)).map (·.2)).sum)

/-- Whether an output draws: SR to a format other than FP32 (R198, R201). -/
def Conv.random (c : Conv) : Bool := c.mode == 1 && c.fmt != 4

/-- One value scaled and converted with a 16-bit draw r: the encoding and whether it met a NaN or an infinity. -/
def Conv.one (c : Conv) (r : Nat) (v : Word) : Nat × Bool :=
  let x := fMul v c.scale
  let e := convertTo c.fmt c.mode r x
  (e, meetsSpecial c.fmt x e)

/-- Values converted; value j takes draw number ix j of lane j mod 128. -/
def Conv.run (c : Conv) (d : Draws) (ix : Nat → Nat) (vs : List Word) : List (Nat × Bool) :=
  vs.mapIdx fun j v => c.one (d (j % 128) (ix j)) v

/-- Row r of a blocked output, as pieces that lie together: one for each tile. -/
def rowPieces (m : Mat) (r : Nat) (es : List Nat) : List (Nat × Bytes) :=
  (groupsOf 128 (tiles m.cols) es).mapIdx fun b g => (m.addr r (128 * b), (g.map (leBytes (elemBytes m.fmt))).flatten)

/-- How many elements lane c mod 128 converts ahead of element (r, c) of an n × w output: row by row (R242), and tile by tile in
row-major tile order, each tile row by row (R166, R170, R171). -/
def rankByRow (w r c : Nat) : Nat := r * laneShare w (c % 128) + c / 128
def rankByTile (n w r c : Nat) : Nat :=
  128 * (r / 128) * laneShare w (c % 128) + c / 128 * min 128 (n - 128 * (r / 128)) + r % 128

/-- A whole blocked output of rows of values, element (r, c) with draw number ix r c of its lane. -/
def convRows (m : Mat) (c : Conv) (d : Draws) (ix : Nat → Nat → Nat) (rows : List (List Word)) : CellOut :=
  let outs := rows.mapIdx fun r vs => c.run d (ix r) vs
  { mem := (outs.mapIdx fun r es => rowPieces m r (es.map (·.1))).flatten
    met := outs.any fun es => es.any (·.2)
    taken := if c.random then laneDraws m.rows m.cols else [] }

/-- A histogram record written at completion, when enabled (R213). -/
def histOut (en : Bool) (off : Nat) (rows : List (List Word)) : CellOut :=
  { late := if en then [(off, histRec rows.flatten)] else [] }

/-! ### The operation block and its checks (R159, R163) -/

/-- What a check finds: FORMAT_ERROR, or ACCESS_VIOLATION with the offset of R163. -/
inductive BlockBad where
  | format
  | access (off : Nat)
  deriving DecidableEq, Repr

def BlockBad.status : BlockBad → Byte × BitVec 56
  | .format => (stFormatError, 0)
  | .access a => (stAccessViolation, BitVec.ofNat 56 a)

/-- The first of several findings, FORMAT_ERROR ahead of ACCESS_VIOLATION. -/
def blockBad (format : Bool) (regions : List (Nat × Nat)) (limit : Nat) : Option BlockBad :=
  if format then some .format
  else ((regions.find? fun r => decide (limit < r.2)).map fun r => .access (max r.1 limit))

/-- Fields of the header. -/
def opEngine (b : Bytes) : Nat := bits (fieldAt b 0 1) 1 0
def opCode (b : Bytes) : Nat := fieldAt b 1 1
def opWait (b : Bytes) : Bool := bits (fieldAt b 2 1) 0 0 == 1
def opTag (b : Bytes) : Word := w32 (fieldAt b 4 4)

/-- Whether the header's RSV bits are all 0. -/
def opHeaderOk (b : Bytes) : Bool :=
  bits (fieldAt b 0 1) 7 2 == 0 && bits (fieldAt b 2 1) 7 1 == 0 && fieldAt b 3 1 == 0 && allZero (slice b 8 8)

/-- Whether ENGINE and OPC name an operation (R165, R220, R243). -/
def opKnown (b : Bytes) : Bool :=
  match opEngine b with
  | 0 => opCode b == 1 || opCode b == 2
  | 1 => opCode b == 1
  | 2 => (decide (1 ≤ opCode b) && decide (opCode b ≤ 12)) || opCode b == 16
  | _ => false

/-- Whether bits of a mask are all 0 in a byte. -/
def clear (b : Bytes) (off mask : Nat) : Bool := Nat.land (fieldAt b off 1) mask == 0

/-- One bit of a byte, and a value within bounds. -/
def flag (b : Bytes) (off i : Nat) : Bool := bits (fieldAt b off 1) i i == 1
def within (lo v hi : Nat) : Bool := decide (lo ≤ v) && decide (v ≤ hi)

/-- Whether ATTN runs on the row engine: it holds the array too (R239). -/
def holdsArray (r : Running) : Bool := r.engine == .array || (r.engine == .row && opCode r.block.bytes == 16)

/-- Whether the engines an operation needs are free (R161, R239). -/
def enginesFree (e : Engine) (code : Nat) (cs : CellState) : Bool :=
  match e with
  | .array => !cs.running.any holdsArray
  | .vector => !cs.running.any fun r => r.engine == .vector
  | .row => !(cs.running.any fun r => r.engine == .row) && (code != 16 || !cs.running.any holdsArray)

/-- The engine's code in the header. -/
def engineCode : Engine → Nat
  | .array => 0 | .vector => 1 | .row => 2

/-- The head block of a cell's queue leaves it with a failed check (R163); the draw is for an offset no rule states. -/
def failHead (x : At) (b : OpBlock) (bad : BlockBad) (s : State) : State :=
  programFault x.comb bad.status.1 b.cellPc bad.status.2
    ((drawn s).modCell x.comb (physCell s x.comb x.cell) fun c => { c with queue := c.queue.drop 1 })

/-- The block at the head of cell x's queue, when it is operation `code` of engine e. -/
def headOp (x : At) (s : State) : Option OpBlock := (s.combs[x.comb].cells[physCell s x.comb x.cell]).queue.head?

/-- Whether the operation at the head may start: its engines free, and earlier ones done when WAIT is 1 (R161). -/
def mayStart (e : Engine) (b : OpBlock) (cs : CellState) : Bool :=
  enginesFree e (opCode b.bytes) cs && (!opWait b.bytes || cs.running.isEmpty)

/-- The operation at the head leaves the queue and is held by its engine. -/
def holdOp (x : At) (e : Engine) (b : OpBlock) (dests : List Dest) (late : List (Nat × Bytes)) (s : State) : State :=
  s.modCell x.comb (physCell s x.comb x.cell) fun c =>
    { c with queue := c.queue.drop 1, running := c.running ++ [⟨e, b, dests, late⟩] }

/-- The block at the head is met by the command of one operation: an unknown one fails, another's waits, a bad one fails, a
good one starts when its engine is free. -/
def meetHead (x : At) (e : Engine) (code : Nat) (check : State → PCell → Bytes → Option BlockBad)
    (start : OpBlock → State → State) (s : State) : State :=
  match headOp x s with
  | none => s
  | some b =>
    let n := physCell s x.comb x.cell
    if !opKnown b.bytes then failHead x b .format s
    else if opEngine b.bytes ≠ engineCode e ∨ opCode b.bytes ≠ code then s
    else if !opHeaderOk b.bytes then failHead x b .format s
    else match check s n b.bytes with
      | some bad => failHead x b bad s
      | none => if mayStart e b s.combs[x.comb].cells[n] then start b s else s

/-- An operation whose effect is a function of the cell as it stands. -/
def startOp (x : At) (e : Engine) (code : Nat) (check : State → PCell → Bytes → Option BlockBad)
    (run : State → PCell → Draws → Bytes → CellOut) (s : State) : State :=
  meetHead x e code check (fun b s =>
    let n := physCell s x.comb x.cell
    let o := run s n (cellDraw s x e) b.bytes
    applyOut x e o (holdOp x e b o.dests o.late s)) s

/-! ### Completion (R127, R128, R161, R174) -/

/-- The operation of an engine completes: its histogram records are written, its engine is free, and a PCHECK FINITE whose
operations are all done resolves. -/
def effOpComplete (x : At) (e : Engine) (s : State) : State :=
  let n := physCell s x.comb x.cell
  match s.combs[x.comb].cells[n].running.find? fun r => r.engine == e with
  | none => s
  | some r =>
    let s := s.modCell x.comb n fun c => { c with
      store := r.late.foldl (fun m w => memWrite m w.1 w.2) c.store
      banks := if holdsArray r then .replicate 8 none else c.banks
      running := c.running.filter fun r => r.engine != e }
    forEach ((fins 16).filter fun m => decide (0 < m.val)) (fun m s =>
      match s.combs[x.comb].seq.arms[m] with
      | .finite _ => effResolve x.comb m s
      | _ => s) s

/-- CELL_OP_COMPLETE. -/
def execCellOpComplete (x : At) (e : Engine) (s : State) : Out := done (effOpComplete x e s)

/-! ### Cell errors and the spare (R179–R184) -/

/-- The TAG of the operation running on a cell, or 0. -/
def tagOf (cs : CellState) : Word := ((cs.running.head?).map fun r => opTag r.block.bytes).getD 0

/-- A cell fault during a swap of the same comb: the swap ends and the comb is reset afresh (R182, R503). -/
def escalateSwap (p : Part) (k : Comb) (unit : Word) (s : State) : State :=
  match s.parts[p].recov.find? fun r => r.combs.contains k with
  | none => stopInternal p k unit [] s
  | some r =>
    let s := s.modEvt fun e => { e with escalate := hit 16 e.escalate }
    let s := stopWhole p stResetAborted (domComb.setWidth 32) 0 domComb s
    let f : FaultInfo := { status := stInternal, detail := unit, unit := unit, alarm := 0x07, comb := k, combs := r.combs }
    takeOver p { newRecovery r.domain r.scope f s with
      supers := r.supers, cause1 := r.cause1, alarm1 := r.alarm1, unit1 := r.unit1, cause2 := stInternal, unit2 := unit
      escalated := true, origin := r.origin } s

/-- A cell that failed: FAILED, and its entry of the repair record (R182, R184, R565). -/
def cellFailed (k : Comb) (n : PCell) (s : State) : State :=
  recordRepair (dieOf k) 1 (k.val + 8 * n.val)
    (s.modComb k fun c => { c with cellRegs := { c.cellRegs with failed := c.cellRegs.failed ||| (1#21 <<< n.val) } })

/-- The unit code of a cell (R180). -/
def cellUnitCode (k : Comb) (n : PCell) : Word := w32 (0x0C00 + 32 * k.val + n.val)

/-- Whether a cell can fault: it has not failed, and it is in service or its comb's self-test runs (R37, R180, R183, R562). A
failed cell is clock-gated and isolated. -/
def cellRuns (s : State) (k : Comb) (n : PCell) : Bool :=
  let c := s.combs[k]
  !c.cellRegs.failed.getLsbD n.val && (cellTest s ||
    (c.assigned && (decide (n.val < 20) || decide (c.subst ≠ 31) || c.cellRegs.swapping.isSome)))

/-- What a cell fault records: FAILED, UE and CELL_ERRLOG (R180, R185). -/
def logCellFault (k : Comb) (n : PCell) (store : BitVec 3) (offset : BitVec 24) (s : State) : State :=
  (cellFailed k n s).modComb k fun b => { b with cellRegs := { b.cellRegs with
    ue := hit 16 b.cellRegs.ue, errCell := BitVec.ofNat 5 n.val, errStore := store
    errOff := if store = 4 then 0 else offset, errTag := tagOf s.combs[k].cells[n] } }

/-- The comb can no longer be assigned; a swap of it ends (R181). -/
def degrade (k : Comb) (s : State) : State :=
  s.modComb k fun b => { b with sparePwr := b.assigned && decide (b.subst ≠ 31) || cellTest s, cellRegs := { b.cellRegs with degraded := true, swapping := none } }

/-- A cell of a comb outside a partition fails its self-test: the spare takes its place, or the comb is DEGRADED (R181). -/
def testFault (k : Comb) (n : PCell) (s : State) : State :=
  let c := s.combs[k]
  if n.val = 20 ∨ c.subst ≠ 31 ∨ c.cellRegs.failed.getLsbD 20 then degrade k s
  else s.modComb k fun b => { b with subst := BitVec.ofNat 5 n.val }

/-- A cell of a partition's comb faults: the partition stops with INTERNAL, and the spare is swapped in unless it stands for
another, has failed, or two cells fault at once (R180–R182). -/
def serviceFault (p : Part) (k : Comb) (n : PCell) (two : Bool) (s : State) : State :=
  let c := s.combs[k]
  let unit := cellUnitCode k n
  if c.cellRegs.swapping.isSome then escalateSwap p k unit (degrade k s)
  else if c.subst ≠ 31 ∨ two ∨ c.cellRegs.failed.getLsbD 20 then stopInternal p k unit [] (degrade k s)
  else (stopInternal p k unit [] s).modComb k fun b =>
    { b with sparePwr := true, cellRegs := { b.cellRegs with swapping := some n } }

/-- A cell fault (R180–R183), `also` being a second cell that faults in the same clock. A spare that fails its self-test and
stands in for none sets FAILED only. -/
def effCellFault (k : Comb) (n : PCell) (store : BitVec 3) (offset : BitVec 24) (also : Option PCell) (s : State) : State :=
  if !cellRuns s k n then s else
  let two := also.any fun m => decide (m ≠ n) && cellRuns s k m
  let s0 := if two then (also.map fun m => logCellFault k m store offset s).getD s else s
  match partOf s k with
  | none =>
    if n.val = 20 ∧ s.combs[k].subst = 31 ∧ !two then cellFailed k n s
    else if two then degrade k (logCellFault k n store offset s0)
    else testFault k n (logCellFault k n store offset s0)
  | some p => serviceFault p k n two (logCellFault k n store offset s0)

/-- CELL_FAULT. -/
def execCellFault (k : Comb) (x : CellHit) (store : BitVec 3) (offset : BitVec 24) (s : State) : Out :=
  done (effCellFault k x.cell store offset x.also s)

/-- CELL_CORRECTED_ERROR (R179): counted, and fed to the early-warning monitor (R185, R509). -/
def execCellCorrectedError (k : Comb) (n : PCell) (s : State) : Out :=
  done (if cellRuns s k n then
      ewCount k 0 1 (s.modComb k fun c => { c with cellRegs := { c.cellRegs with ce := hit 32 c.cellRegs.ce } })
    else s)

/-- The swap in progress ends: the spare stands in, its stores zeroed (R180); or its self-test failed, a cell fault (R179), and
the comb is DEGRADED (R181). -/
def effSwapDone (k : Comb) (ok : Bool) (s : State) : State :=
  match s.combs[k].cellRegs.swapping with
  | none => s
  | some n =>
    if ok then
      ewCount k 1 1 (s.modComb k fun c => { c with
        subst := BitVec.ofNat 5 n.val, cells := upd c.cells (20 : Fin 21) fun _ => {}
        cellRegs := { c.cellRegs with swapping := none, swap := hit 16 c.cellRegs.swap } })
    else
      degrade k (logCellFault k 20 4 0 s)

/-- SPARE_SWAP_DONE. -/
def execSpareSwapDone (k : Comb) (ok : Bool) (s : State) : Out := done (effSwapDone k ok s)

/-! ### The entropy source (R204–R206) -/

/-- The source of comb k enters FAILED: a WARNING with cause 0x81 (R206). -/
def rngFailed (k : Comb) (s : State) : State :=
  match partOf s k with
  | some p => postEvent p evWarning 0x81 k (Config.openDetail evWarning 0x81) s
  | none => eventToPf0 evWarning 0x81 k (Config.openDetail evWarning 0x81) s

/-- Health tests that failed, as their status bits say. -/
def Rng.tested (g : Rng) (rct apt : Bool) : Rng :=
  { g with rct := if rct then hit 16 g.rct else g.rct, apt := if apt then hit 16 g.apt else g.apt }

/-- Whether one of the four windows of 4,096 start-up bits fails the proportion test. -/
def aptStartup (raw : Nat) : Bool := (List.range 4).any fun i => aptFails (raw / 2 ^ (1024 * i) % 2 ^ 1024)

/-- The start-up tests or the retest of comb k's source over 4,096 raw bits (bit i the i-th): OK with a seed ready, RETEST, or
FAILED at the third failure in a row (R204, R205). -/
def effStartup (k : Comb) (raw : BitVec 4096) (s : State) : State :=
  let g := s.combs[k].rng
  if !s.combs[k].routerPwr ∨ g.state = 1 ∨ g.state = 3 then s else
  let rct := rctFails 4096 raw.toNat
  let apt := aptStartup raw.toNat
  let s := s.modComb k fun c => { c with rng := c.rng.tested rct apt }
  if !rct ∧ !apt then
    (s.modComb k fun c => { c with rng := { c.rng with state := 1, ready := true, fails := 0, seed := freshSeed s } }) |> drawn |> drawn
  else if 3 ≤ g.fails + 1 then
    rngFailed k (s.modComb k fun c => { c with rng := { c.rng with state := 3, ready := false, fails := g.fails + 1 } })
  else s.modComb k fun c => { c with rng := { c.rng with state := 2, ready := false, fails := g.fails + 1 } }

/-- ENTROPY_STARTUP_DONE. -/
def execEntropyStartupDone (k : Comb) (raw : BitVec 4096) (s : State) : Out := done (effStartup k raw s)

/-- The continuous tests of comb k's source meet 1,024 raw bits: a test that fails sets its status bit, and from OK the source
goes to RETEST and its seed is discarded (R204, R205). -/
def effHealthFail (k : Comb) (raw : BitVec 1024) (s : State) : State :=
  let rct := rctFails 1024 raw.toNat
  let apt := aptFails raw.toNat
  if !s.combs[k].routerPwr ∨ (!rct ∧ !apt) then s
  else s.modComb k fun c =>
    let g := c.rng.tested rct apt
    { c with rng := if g.state = 1 then { g with state := 2, fails := 1, ready := false, seed := 0 } else g }

/-- ENTROPY_HEALTH_FAIL. -/
def execEntropyHealthFail (k : Comb) (raw : BitVec 1024) (s : State) : Out := done (effHealthFail k raw s)

end Sys2Proof.Machine
end

