-- ==== Sys2Proof/Machine/VecOps.lean ====
section
/-! DEFINITION. The vector instruction format and its checks (R222, R223, R228), the element functions that the vector engine
and the MATMUL epilogue share, and the register and memory accesses of one instruction (R224–R232). -/

namespace Sys2Proof.Machine

/-! ### Instructions (R222, R223) -/

/-- The fields of a vector instruction. -/
structure VInstr where
  vop : Nat
  vd  : VReg
  va  : VReg
  vb  : VReg
  vc  : VReg
  fmt : Nat
  rsv : Nat
  imm : Word
  deriving DecidableEq, Repr

/-- The fields read from a word. -/
def decodeVec (w : Nat) : VInstr :=
  { vop := bits w 7 0, vd := Fin.ofNat 32 (bits w 12 8), va := Fin.ofNat 32 (bits w 17 13), vb := Fin.ofNat 32 (bits w 22 18)
    vc := Fin.ofNat 32 (bits w 27 23), fmt := bits w 30 28, rsv := bits w 31 31, imm := w32 (w / 2 ^ 32) }

/-- What IMM holds: nothing, any 32 bits, a number up to a bound, or the control fields of a memory instruction. -/
inductive ImmUse where
  | none | any | upTo (n : Nat) | control
  deriving DecidableEq, Repr

/-- The register fields an operation uses (VD, VA, VB, VC) and its IMM; `none`: not an operation (R223). -/
def vecUses (vop : Nat) : Option (Bool × Bool × Bool × Bool × ImmUse) :=
  if vop = 0x01 ∨ vop = 0x02 then some (true, false, false, false, .control)
  else if vop = 0x03 then some (false, true, false, false, .control)
  else if vop = 0x04 then some (true, true, false, false, .control)
  else if vop = 0x05 ∨ vop = 0x06 then some (false, true, true, false, .control)
  else if vop = 0x10 ∨ vop = 0x11 ∨ vop = 0x12 ∨ vop = 0x17 ∨ vop = 0x18 ∨ vop = 0x1D then some (true, true, true, false, .none)
  else if vop = 0x13 ∨ vop = 0x20 then some (true, true, true, true, .none)
  else if vop = 0x14 ∨ vop = 0x15 ∨ vop = 0x19 ∨ vop = 0x1A then some (true, true, false, false, .any)
  else if vop = 0x16 then some (true, true, true, false, .any)
  else if vop = 0x1B ∨ vop = 0x1C ∨ vop = 0x1E then some (true, true, false, false, .none)
  else if vop = 0x1F then some (true, true, true, false, .upTo 4)
  else if 0x28 ≤ vop ∧ vop ≤ 0x2F then some (true, true, false, false, .none)
  else if 0x40 ≤ vop ∧ vop ≤ 0x45 then some (true, true, true, false, .none)
  else if vop = 0x46 ∨ vop = 0x47 then some (true, true, false, false, .upTo 31)
  else if vop = 0x48 ∨ vop = 0x49 then some (true, true, false, false, .none)
  else if vop = 0x4A ∨ vop = 0x4B then some (true, false, false, false, .any)
  else if 0x50 ≤ vop ∧ vop ≤ 0x54 then some (false, true, false, false, .control)
  else none

/-- Whether a rounding code, RAW, ACC and format suit a memory operation (R222, R223, R228). -/
def controlOk (vop fmt round : Nat) (raw : Bool) (acc : Nat) : Bool :=
  if vop = 0x03 ∨ vop = 0x05 then
    decide (fmt ≤ 4) && acc == 0 && (!raw || fmt == 4) && (fmt != 4 || round == 0) &&
      (decide (round < 2) || (round == 2 && (fmt == 2 || fmt == 3)))
  else if vop = 0x06 then fmt == 4 && round == 0 && !raw && acc == 0
  else if vop < 0x10 then decide (fmt ≤ 4) && round == 0 && acc == 0 && (!raw || fmt == 4)
  else fmt == 0 && round == 0 && !raw && decide (acc < 3)

/-- Whether an instruction passes the checks of its fields. -/
def instrOk (i : VInstr) : Bool :=
  match vecUses i.vop with
  | none => false
  | some (d, a, b, c, imm) =>
    let n := i.imm.toNat
    i.rsv == 0 && (d || i.vd.val == 0) && (a || i.va.val == 0) && (b || i.vb.val == 0) && (c || i.vc.val == 0) &&
    (match imm with
      | .none => n == 0 && i.fmt == 0
      | .any => i.fmt == 0
      | .upTo m => decide (n ≤ m) && i.fmt == 0
      | .control => decide (n < 256) && controlOk i.vop i.fmt (bits n 4 3) (bits n 5 5 == 1) (bits n 7 6))

/-! ### Element functions (R223–R226) -/

/-- 32-bit unsigned addition that saturates. -/
def uaddSat (a b : Word) : Word := if 2 ^ 32 ≤ a.toNat + b.toNat then 0xFFFFFFFF else a + b
/-- Whether it saturates. -/
def uaddOver (a b : Word) : Bool := decide (2 ^ 32 ≤ a.toNat + b.toNat)

/-- The element function of an operation on va, vb, vc and IMM; `none` for memory instructions, IOTA and reductions. -/
def vecFun (vop : Nat) : Option (Word → Word → Word → Word → Word) :=
  if vop = 0x10 then some fun a b _ _ => fAdd a b
  else if vop = 0x11 then some fun a b _ _ => fSub a b
  else if vop = 0x12 then some fun a b _ _ => fMul a b
  else if vop = 0x13 then some fun a b c _ => fFma a b c
  else if vop = 0x14 then some fun a _ _ i => fAdd a i
  else if vop = 0x15 then some fun a _ _ i => fMul a i
  else if vop = 0x16 then some fun a b _ i => fFma a i b
  else if vop = 0x17 then some fun a b _ _ => fMax a b
  else if vop = 0x18 then some fun a b _ _ => fMin a b
  else if vop = 0x19 then some fun a _ _ i => fMax a i
  else if vop = 0x1A then some fun a _ _ i => fMin a i
  else if vop = 0x1B then some fun a _ _ _ => fAbs a
  else if vop = 0x1C then some fun a _ _ _ => fNeg a
  else if vop = 0x1D then some fun a b _ _ => fDiv a b
  else if vop = 0x1E then some fun a _ _ _ => fSqrt a
  else if vop = 0x1F then some fun a b _ i => fMask (fCond i.toNat a b)
  else if vop = 0x20 then some fun a b c _ => fSel a b c
  else if vop = 0x28 then some fun a _ _ _ => aExp a
  else if vop = 0x29 then some fun a _ _ _ => aExp2 a
  else if vop = 0x2A then some fun a _ _ _ => aLog a
  else if vop = 0x2B then some fun a _ _ _ => aRcp a
  else if vop = 0x2C then some fun a _ _ _ => aRsqrt a
  else if vop = 0x2D then some fun a _ _ _ => aTanh a
  else if vop = 0x2E then some fun a _ _ _ => aSigmoid a
  else if vop = 0x2F then some fun a _ _ _ => aGelu a
  else if vop = 0x40 then some fun a b _ _ => a + b
  else if vop = 0x41 then some fun a b _ _ => a - b
  else if vop = 0x42 then some fun a b _ _ => uaddSat a b
  else if vop = 0x43 then some fun a b _ _ => a &&& b
  else if vop = 0x44 then some fun a b _ _ => a ||| b
  else if vop = 0x45 then some fun a b _ _ => a ^^^ b
  else if vop = 0x46 then some fun a _ _ i => a <<< (i.toNat % 32)
  else if vop = 0x47 then some fun a _ _ i => a >>> (i.toNat % 32)
  else if vop = 0x48 then some fun a _ _ _ => fToInt a
  else if vop = 0x49 then some fun a _ _ _ => intToF a
  else if vop = 0x4B then some fun _ _ _ i => i
  else none

/-! ### Registers (R216, R227) -/

/-- The physical cell a vector instruction runs on. -/
def vecCell (x : VCtx) (s : State) : PCell := physCell s x.comb x.cell

/-- Elements 0 to COUNT − 1 of a register. -/
def vget (x : VCtx) (r : VReg) (s : State) : List Word :=
  tabSlice 0 (s.combs[x.comb].cells[vecCell x s]).vregs (4096 * r.val) x.count

/-- Elements from 0 of a register written; with TAILZ the rest is written +0. -/
def vset (x : VCtx) (r : VReg) (vs : List Word) (s : State) : State :=
  let tail := if x.tailz then List.replicate (4096 - x.count) 0 else []
  s.modCell x.comb (vecCell x s) fun c => { c with vregs := tabPut 0 c.vregs (4096 * r.val) (vs ++ tail) }

/-- What an instruction yields: the state, the destinations it wrote, and the fault it met. -/
structure VRes where
  state : State
  dests : List Dest
  bad   : Option BlockBad
  deriving DecidableEq, Repr

/-- An instruction that writes register vd. -/
def vres (x : VCtx) (vd : VReg) (vs : List Word) (s : State) : VRes := ⟨vset x vd vs s, [.vreg vd.val], none⟩

/-- Three elements at a time. -/
def zip3 (f : Word → Word → Word → Word) : List Word → List Word → List Word → List Word
  | a :: as, b :: bs, c :: cs => f a b c :: zip3 f as bs cs
  | _, _, _ => []

/-- One, two and three source registers. -/
def vec1 (f : Word → Word) (x : VCtx) (vd va : VReg) (s : State) : VRes := vres x vd ((vget x va s).map f) s
def vec2 (f : Word → Word → Word) (x : VCtx) (vd va vb : VReg) (s : State) : VRes :=
  vres x vd (List.zipWith f (vget x va s) (vget x vb s)) s
def vec3 (f : Word → Word → Word → Word) (x : VCtx) (vd va vb vc : VReg) (s : State) : VRes :=
  vres x vd (zip3 f (vget x va s) (vget x vb s) (vget x vc s)) s

/-- UADDSAT: each element that saturates sets and counts SAT (R232). -/
def vecSatAdd (x : VCtx) (vd va vb : VReg) (s : State) : VRes :=
  let sat := ((List.zipWith uaddOver (vget x va s) (vget x vb s)).filter id).length
  let r := vec2 uaddSat x vd va vb s
  { r with state := r.state.modComb x.comb fun c => { c with vecSat := hitN 32 sat c.vecSat } }

/-- IOTA. -/
def vecIota (x : VCtx) (vd : VReg) (imm : Word) (s : State) : VRes :=
  vres x vd ((List.range x.count).map fun e => imm + w32 e) s
/-- MOVI. -/
def vecMovi (x : VCtx) (vd : VReg) (imm : Word) (s : State) : VRes := vres x vd (List.replicate x.count imm) s

/-! ### Memory (R221, R228–R230) -/

/-- The store an instruction addresses, and its size. -/
def spaceMem (x : VCtx) (comb : Bool) (s : State) : Mem :=
  if comb then s.combs[x.comb].store else (s.combs[x.comb].cells[vecCell x s]).store
def spaceEnd (comb : Bool) : Nat := if comb then combStoreBytes else cellStoreBytes

/-- That store changed. -/
def spacePut (x : VCtx) (comb : Bool) (f : Mem → Mem) (s : State) : State :=
  if comb then s.modComb x.comb fun c => { c with store := f c.store }
  else s.modCell x.comb (vecCell x s) fun c => { c with store := f c.store }

/-- A destination in that store. -/
def spaceDest (comb : Bool) (a n : Nat) : Dest := if comb then .comb a n else .store a n

/-- What is wrong with n elements of a size at the slot address (R163, R229). -/
def addrBad (m : MemArg) (size n : Nat) : Option BlockBad :=
  blockBad (decide (m.addr % size ≠ 0)) [(m.addr, m.addr + n * size)] (spaceEnd m.combStore)

/-- An element as a load takes it. -/
def loadVal (m : MemArg) (v : Nat) : Word := if m.raw then w32 v else widen m.fmt.toNat v

/-- An element as a store writes it with a 16-bit draw r: the encoding and whether a conversion met a NaN or an infinity. -/
def storeVal (m : MemArg) (r : Nat) (w : Word) : Nat × Bool :=
  if m.raw then (w.toNat, false)
  else
    let e := convertTo m.fmt.toNat m.round.toNat r w
    (e, meetsSpecial m.fmt.toNat w e)

/-- Whether a store draws: SR to a format other than FP32 (R201, R228). -/
def storeRandom (m : MemArg) : Bool := !m.raw && m.round == 1 && m.fmt != 4

/-- Elements as a store writes them, element e with a draw of lane e mod 128 (R228), and the state after their draws. -/
def storeVals (x : VCtx) (m : MemArg) (ws : List Word) (s : State) : List (Nat × Bool) × State :=
  let a : At := ⟨x.comb, x.cell⟩
  (ws.mapIdx fun e w => storeVal m (cellDraw s a .vector (e % 128) (e / 128)) w,
    if storeRandom m then takeDraws a .vector (laneDraws 1 ws.length) s else s)

/-- The element size of a memory argument. -/
def argSize (m : MemArg) : Nat := elemBytes m.fmt.toNat

/-- LD. -/
def vecLoad (x : VCtx) (vd : VReg) (m : MemArg) (s : State) : VRes :=
  match addrBad m (argSize m) x.count with
  | some b => ⟨s, [], some b⟩
  | none => vres x vd ((List.range x.count).map fun e => loadVal m (memNat (spaceMem x m.combStore s) (m.addr + e * (argSize m)) (argSize m))) s

/-- LDB. -/
def vecLoadB (x : VCtx) (vd : VReg) (m : MemArg) (s : State) : VRes :=
  match addrBad m (argSize m) 1 with
  | some b => ⟨s, [], some b⟩
  | none => vres x vd (List.replicate x.count (loadVal m (memNat (spaceMem x m.combStore s) m.addr (argSize m)))) s

/-- ST. -/
def vecStore (x : VCtx) (va : VReg) (m : MemArg) (s : State) : VRes :=
  match addrBad m (argSize m) x.count with
  | some b => ⟨s, [], some b⟩
  | none =>
    let (outs, s) := storeVals x m (vget x va s) s
    let bytes := (outs.map fun o => leBytes (argSize m) o.1).flatten
    let s := spacePut x m.combStore (fun st => memWrite st m.addr bytes) s
    ⟨noteMet x.comb (outs.any (·.2)) s, [spaceDest m.combStore m.addr bytes.length], none⟩

/-- The addresses that indices name, up to the first beyond the space (R229). -/
def indexed (m : MemArg) (size : Nat) : List Word → List Nat × Option BlockBad
  | [] => ([], none)
  | i :: r =>
    let a := m.addr + i.toNat * size
    if spaceEnd m.combStore < a + size then ([], some (.access a))
    else let (as, b) := indexed m size r; (a :: as, b)

/-- The slot address of an indexed access: aligned, and within the space. -/
def slotAddrBad (m : MemArg) (size : Nat) : Option BlockBad :=
  blockBad (decide (m.addr % size ≠ 0)) [(m.addr, m.addr + 1)] (spaceEnd m.combStore)

/-- GATHER: elements ahead of a faulting index are written. -/
def vecGather (x : VCtx) (vd va : VReg) (m : MemArg) (s : State) : VRes :=
  match slotAddrBad m (argSize m) with
  | some b => ⟨s, [], some b⟩
  | none =>
    let (as, bad) := indexed m (argSize m) (vget x va s)
    let vs := as.map fun a => loadVal m (memNat (spaceMem x m.combStore s) a (argSize m))
    match bad with
    | none => vres x vd vs s
    | some b => ⟨vset { x with tailz := false } vd vs s, [.vpart vd.val vs.length], some b⟩

/-- SCATTER: ascending elements, each overwritten one counted (R230). -/
def vecScatter (x : VCtx) (va vb : VReg) (m : MemArg) (s : State) : VRes :=
  match slotAddrBad m (argSize m) with
  | some b => ⟨s, [], some b⟩
  | none =>
    let (as, bad) := indexed m (argSize m) (vget x vb s)
    let (outs, s) := storeVals x m ((vget x va s).take as.length) s
    let s := spacePut x m.combStore (fun st =>
      (as.zip outs).foldl (fun st w => memWrite st w.1 (leBytes (argSize m) w.2.1)) st) s
    let s := s.modComb x.comb fun c => { c with vecCollide := hitN 32 (as.length - as.dedup.length) c.vecCollide }
    ⟨noteMet x.comb (outs.any (·.2)) s, as.map fun a => spaceDest m.combStore a (argSize m), bad⟩

/-- SCATADD: FP32 elements in place, ascending, each addition rounded (R230). -/
def vecScatAdd (x : VCtx) (va vb : VReg) (m : MemArg) (s : State) : VRes :=
  match slotAddrBad m 4 with
  | some b => ⟨s, [], some b⟩
  | none =>
    let (as, bad) := indexed m 4 (vget x vb s)
    let r := (as.zip (vget x va s)).foldl (fun (acc : Mem × Bool) w =>
      let v := fAdd (widen 4 (memNat acc.1 w.1 4)) w.2
      (memWrite acc.1 w.1 (leBytes 4 v.toNat), acc.2 || !fIsFinite v)) (spaceMem x m.combStore s, false)
    ⟨noteMet x.comb r.2 (spacePut x m.combStore (fun _ => r.1) s), as.map fun a => spaceDest m.combStore a 4, bad⟩

/-! ### Reductions (R231) -/

/-- A reduction: WRITE, CHAIN (combines after iteration 0) or COMBINE. -/
def vecReduce (red : Red) (x : VCtx) (va : VReg) (m : MemArg) (s : State) : VRes :=
  match addrBad m 4 1 with
  | some b => ⟨s, [], some b⟩
  | none =>
    let r := reduce red (vget x va s)
    let old := widen 4 (memNat (spaceMem x m.combStore s) m.addr 4)
    let v := if m.acc = 2 ∨ (m.acc = 1 ∧ x.iter ≠ 0) then red.join old r else r
    ⟨noteMet x.comb (!fIsFinite v) (spacePut x m.combStore (fun st => memWrite st m.addr (leBytes 4 v.toNat)) s),
      [spaceDest m.combStore m.addr 4], none⟩

/-- The reduction of an operation code 0x50–0x54. -/
def redOf (vop : Nat) : Red :=
  match vop - 0x50 with
  | 0 => .sum | 1 => .max | 2 => .min | 3 => .amax | _ => .sumsq

end Sys2Proof.Machine
end

