-- ==== Sys2Proof/Machine/Array.lean ====
section
/-! DEFINITION. The matrix array: MATMUL with its vector epilogue (R165–R168, R235, R236), BWD_PAIR (R169, R170, R177), and
the output stage (R171–R173). -/

namespace Sys2Proof.Machine

/-! ### Sums and accumulator tiles -/

/-- The accumulator a after the passes over kt tiles of the contraction index, in ascending order (R166, R170, R209). -/
def dotFrom (kt : Nat) (u v : Nat → Word) (a : Word) : Word :=
  (List.range kt).foldl (fun a t => macPass a ((List.range 128).map fun i => (u (128 * t + i), v (128 * t + i)))) a

/-- An accumulator tile as the four registers from register v0 hold it (R167). -/
def accRuns (v0 : Nat) (tile : Nat → Nat → Word) : List (Nat × List Word) :=
  (List.range 4).map fun q => (4096 * (v0 + q), (List.range 4096).map fun e => tile (32 * q + e / 128) (e % 128))

/-- An entry of an operand as the passes take it, transposed when the block says so (R155, R166). -/
def operand (st : Mem) (m : Mat) (t : Bool) (r c : Nat) : Word := if t then m.get st c r else m.get st r c

/-- The rows that the passes of tile-row a of n rows take in (R168). -/
def takenRows (n a : Nat) : Nat := if a + 1 = tiles n then max 8 (ceilDiv (n - 128 * a) 8 * 8) else 128

/-- A rectangle of values. -/
def grid (rows cols : Nat) (f : Nat → Nat → Word) : List (List Word) :=
  (List.range rows).map fun r => (List.range cols).map (f r)

/-! ### The MATMUL block (R165) -/

def mmM (b : Bytes) : Nat := fieldAt b 16 2
def mmN (b : Bytes) : Nat := fieldAt b 18 2
def mmK (b : Bytes) : Nat := fieldAt b 20 2
def mmAT (b : Bytes) : Bool := flag b 23 4
def mmBT (b : Bytes) : Bool := flag b 23 5
def mmAccIn (b : Bytes) : Bool := flag b 23 6
def mmHist (b : Bytes) : Bool := flag b 24 2
def mmEpi (b : Bytes) : Bool := flag b 24 3
def mmAccVreg (b : Bytes) : Nat := bits (fieldAt b 25 1) 4 0
def mmHistOff (b : Bytes) : Nat := fieldAt b 48 4
def mmEpiOff (b : Bytes) : Nat := fieldAt b 52 4
/-- Rows and columns of A and of B as stored. -/
def mmRowsA (b : Bytes) : Nat := if mmAT b then mmK b else mmM b
def mmColsA (b : Bytes) : Nat := if mmAT b then mmM b else mmK b
def mmRowsB (b : Bytes) : Nat := if mmBT b then mmN b else mmK b
def mmColsB (b : Bytes) : Nat := if mmBT b then mmK b else mmN b
/-- The matrices. -/
def mmA (b : Bytes) : Mat := matOf (fieldAt b 32 4) (bits (fieldAt b 22 1) 2 0) (fieldAt b 56 2) (mmRowsA b) (mmColsA b)
def mmB (b : Bytes) : Mat := matOf (fieldAt b 36 4) (bits (fieldAt b 22 1) 6 4) (fieldAt b 58 2) (mmRowsB b) (mmColsB b)
def mmC (b : Bytes) : Mat := matOf (fieldAt b 40 4) (bits (fieldAt b 23 1) 2 0) (fieldAt b 60 2) (mmM b) (mmN b)
def mmCin (b : Bytes) : Mat := matOf (fieldAt b 44 4) 4 (fieldAt b 60 2) (mmM b) (mmN b)
/-- The output conversion. -/
def mmConv (b : Bytes) : Conv := ⟨bits (fieldAt b 23 1) 2 0, bits (fieldAt b 24 1) 1 0, w32 (fieldAt b 28 4)⟩

/-! ### The epilogue block (R235, R236) -/

/-- The 128 bytes of an epilogue block. -/
def epiBytes (st : Mem) (b : Bytes) : Bytes := memRead st (mmEpiOff b) 128
def epiNinstr (e : Bytes) : Nat := bits (fieldAt e 0 1) 3 0
def epiEn (e : Bytes) (j : Nat) : Bool := flag e (12 + 8 * j) 5
def epiPerRow (e : Bytes) (j : Nat) : Bool := flag e (12 + 8 * j) 4
def epiOff (e : Bytes) (j : Nat) : Nat := fieldAt e (8 + 8 * j) 4
def epiFmt (e : Bytes) (j : Nat) : Nat := bits (fieldAt e (12 + 8 * j) 1) 2 0
def epiList (e : Bytes) : List VInstr := (List.range (epiNinstr e)).map fun j => decodeVec (fieldAt e (64 + 8 * j) 8)

/-- The operations an epilogue may use: ADD to MINI, ABS, NEG, CMP, SEL, EXP, TANH, SIGMOID, GELU (R236). -/
def epiAllowed (vop : Nat) : Bool :=
  within 0x10 vop 0x1C || vop == 0x1F || vop == 0x20 || vop == 0x28 || within 0x2D vop 0x2F

/-- Whether an epilogue instruction passes its checks: register fields name E0–E7, and the destination is not one of the
read-only E4–E7. -/
def epiInstrOk (i : VInstr) : Bool :=
  epiAllowed i.vop && instrOk i && decide (i.vd.val < 4) && decide (i.va.val < 8) && decide (i.vb.val < 8) && decide (i.vc.val < 8)

/-- Whether an epilogue block passes the checks of its fields. -/
def epiOk (e : Bytes) : Bool :=
  within 1 (epiNinstr e) 8 && clear e 0 0xF0 && allZero (slice e 1 7) && allZero (slice e 40 24) &&
  ((List.range 4).all fun j => clear e (12 + 8 * j) 0xC8 && allZero (slice e (13 + 8 * j) 3) &&
    (!epiEn e j || (decide (epiOff e j % 64 = 0) && decide (epiFmt e j ≤ 4)))) &&
  ((List.range 8).drop (epiNinstr e)).all (fun j => fieldAt e (64 + 8 * j) 8 == 0) && (epiList e).all epiInstrOk

/-- The regions of the slots used: one element for each row or column. -/
def epiRegions (b e : Bytes) : List (Nat × Nat) :=
  ((List.range 4).filter (epiEn e)).map fun j =>
    (epiOff e j, epiOff e j + (if epiPerRow e j then mmM b else mmN b) * elemBytes (epiFmt e j))

/-- The instructions act on the eight registers of one element. -/
def epiRun : List VInstr → List Word → List Word
  | [], es => es
  | i :: r, es =>
    let v := match vecFun i.vop with
      | some f => f (es.getD i.va 0) (es.getD i.vb 0) (es.getD i.vc 0) i.imm
      | none => 0
    epiRun r (es.set i.vd.val v)

/-- Slot j's vector as register E(4 + j) holds it at (r, c); a slot that is not used holds free value n + j. -/
def epiSlot (st : Mem) (e : Bytes) (n j r c : Nat) : Word :=
  if epiEn e j then
    widen (epiFmt e j) (memNat st (epiOff e j + (if epiPerRow e j then r else c) * elemBytes (epiFmt e j)) (elemBytes (epiFmt e j)))
  else w32 (Config.freeValue (n + j)).toNat

/-- The value v of element (r, c) after the epilogue. -/
def epiElem (st : Mem) (e : Bytes) (n r c : Nat) (v : Word) : Word :=
  (epiRun (epiList e) ([v, 0, 0, 0] ++ (List.range 4).map fun j => epiSlot st e n j r c)).headD 0

/-! ### MATMUL -/

/-- Whether the fields of the body are within their ranges (R163, R165). -/
def mmForm (b : Bytes) : Bool :=
  within 1 (mmM b) 16384 && within 1 (mmN b) 16384 && within 1 (mmK b) 16384 &&
  decide ((mmA b).fmt ≤ 3) && decide ((mmB b).fmt ≤ 3) && decide ((mmC b).fmt ≤ 4) && decide ((mmConv b).mode ≤ 1) &&
  clear b 22 0x88 && clear b 23 0x88 && clear b 24 0xF0 && clear b 25 0xE0 && allZero (slice b 26 2) && allZero (slice b 62 66) &&
  decide (mmAccVreg b % 4 = 0) && decide (mmAccVreg b ≤ 24) &&
  decide ((mmA b).base % 1024 = 0) && decide ((mmB b).base % 1024 = 0) && decide ((mmC b).base % 1024 = 0) &&
  (!mmAccIn b || decide ((mmCin b).base % 1024 = 0)) && (!mmEpi b || decide (mmEpiOff b % 1024 = 0)) &&
  (!mmHist b || decide (mmHistOff b % 256 = 0)) &&
  !pitchBad (fieldAt b 56 2) (mmColsA b) && !pitchBad (fieldAt b 58 2) (mmColsB b) && !pitchBad (fieldAt b 60 2) (mmN b)

/-- The regions of the body. -/
def mmRegions (b : Bytes) : List (Nat × Nat) :=
  [((mmA b).base, (mmA b).stop), ((mmB b).base, (mmB b).stop), ((mmC b).base, (mmC b).stop)] ++
  (if mmAccIn b then [((mmCin b).base, (mmCin b).stop)] else []) ++
  (if mmHist b then [(mmHistOff b, mmHistOff b + 256)] else []) ++
  (if mmEpi b then [(mmEpiOff b, mmEpiOff b + 128)] else [])

/-- The checks of a MATMUL block. The epilogue block is read only where it lies within the cell store. -/
def mmCheck (st : Mem) (b : Bytes) : Option BlockBad :=
  let e := epiBytes st b
  let epi := mmEpi b && decide (mmEpiOff b + 128 ≤ cellStoreBytes)
  blockBad (!mmForm b || (epi && !epiOk e)) (mmRegions b ++ (if epi then epiRegions b e else [])) cellStoreBytes

/-- The accumulator value that the passes of element (r, c) start from: the input tile's, or +0. -/
def mmInit (st : Mem) (b : Bytes) (r c : Nat) : Word := if mmAccIn b then (mmCin b).raw st r c else 0

/-- The accumulator value of element (r, c) after all passes (R166). -/
def mmAcc (st : Mem) (b : Bytes) (r c : Nat) : Word :=
  dotFrom (tiles (mmK b)) (fun i => operand st (mmA b) (mmAT b) r i) (fun i => operand st (mmB b) (mmBT b) i c) (mmInit st b r c)

/-- Output tile t in the order of the loop, as its accumulator registers hold it after its passes (R167, R168). -/
def mmTile (st : Mem) (b : Bytes) (t r c : Nat) : Word :=
  let a := t / tiles (mmN b)
  let i := 128 * a + r
  let j := 128 * (t % tiles (mmN b)) + c
  if r < takenRows (mmM b) a then mmAcc st b i j else mmInit st b i j

/-- What the registers hold afterwards: the last output tile, and the one before it in the other group (R167). -/
def mmVregs (st : Mem) (b : Bytes) : List (Nat × List Word) :=
  let total := tiles (mmM b) * tiles (mmN b)
  ((List.range total).drop (total - 2)).flatMap fun t => accRuns (mmAccVreg b + 4 * (t % 2)) (mmTile st b t)

/-- The values that enter the histogram and the scale: after the epilogue when there is one (R171). -/
def mmValues (st : Mem) (b : Bytes) (n : Nat) : List (List Word) :=
  grid (mmM b) (mmN b) fun r c => if mmEpi b then epiElem st (epiBytes st b) n r c (mmAcc st b r c) else mmAcc st b r c

/-- The tiles of the first passes of an operation with mt × nt × kt passes, n inside m and k inside n, each pass using some. -/
def passFills (mt nt kt : Nat) (uses : Nat → Nat → Nat → List Bank) : List Bank :=
  firstFills ((List.range (min 64 (mt * nt * kt))).flatMap fun p => uses (p / (nt * kt)) (p / kt % nt) (p % kt))

/-- The first fills of a MATMUL (R154, R166). -/
def mmFills (st : Mem) (b : Bytes) : List Bank :=
  passFills (tiles (mmM b)) (tiles (mmN b)) (tiles (mmK b)) fun m n k =>
    [if mmAT b then (mmA b).fill st k m else (mmA b).fill st m k, if mmBT b then (mmB b).fill st n k else (mmB b).fill st k n]

/-- The effect of a MATMUL on a cell's store; n is the next free value. -/
def mmRun (st : Mem) (n : Nat) (d : Draws) (b : Bytes) : CellOut :=
  let rows := mmValues st b n
  let o := (convRows (mmC b) (mmConv b) d (rankByTile (mmM b) (mmN b)) rows).plus (histOut (mmHist b) (mmHistOff b) rows)
  { o with vregs := mmVregs st b, draws := 4, fills := mmFills st b }

/-- The store of a cell. -/
def storeOf (x : At) (s : State) (n : PCell) : Mem := (s.combs[x.comb].cells[n]).store

/-- MATMUL. -/
def execMatmul (x : At) (s : State) : Out :=
  done (startOp x .array 1 (fun s n b => mmCheck (storeOf x s n) b) (fun s n d b => mmRun (storeOf x s n) s.draws d b) s)

/-! ### The BWD_PAIR block (R169) -/

def bpM (b : Bytes) : Nat := fieldAt b 16 2
def bpN (b : Bytes) : Nat := fieldAt b 18 2
def bpK (b : Bytes) : Nat := fieldAt b 20 2
def bpDxVreg (b : Bytes) : Nat := bits (fieldAt b 25 1) 4 0
def bpAccIn (b : Bytes) : Bool := flag b 25 5
def bpFinal (b : Bytes) : Bool := flag b 25 6
def bpMode (b : Bytes) : Nat := bits (fieldAt b 26 1) 1 0
def bpHistDx (b : Bytes) : Bool := flag b 26 2
/-- HIST_DW counts only with DW_FINAL (R173). -/
def bpHistDw (b : Bytes) : Bool := flag b 26 3 && bpFinal b
def bpHistOff (b : Bytes) : Nat := fieldAt b 60 4
def bpX (b : Bytes) : Mat := matOf (fieldAt b 36 4) (bits (fieldAt b 22 1) 2 0) (fieldAt b 64 2) (bpM b) (bpK b)
def bpW (b : Bytes) : Mat := matOf (fieldAt b 40 4) (bits (fieldAt b 22 1) 6 4) (fieldAt b 66 2) (bpK b) (bpN b)
def bpDy (b : Bytes) : Mat := matOf (fieldAt b 44 4) (bits (fieldAt b 23 1) 2 0) (fieldAt b 68 2) (bpM b) (bpN b)
def bpDx (b : Bytes) : Mat := matOf (fieldAt b 48 4) (bits (fieldAt b 24 1) 2 0) (fieldAt b 70 2) (bpM b) (bpK b)
def bpDwAcc (b : Bytes) : Mat := matOf (fieldAt b 52 4) 4 0 (bpK b) (bpN b)
def bpDw (b : Bytes) : Mat := matOf (fieldAt b 56 4) (bits (fieldAt b 24 1) 6 4) (fieldAt b 72 2) (bpK b) (bpN b)
def bpConvDx (b : Bytes) : Conv := ⟨(bpDx b).fmt, bpMode b, w32 (fieldAt b 28 4)⟩
def bpConvDw (b : Bytes) : Conv := ⟨(bpDw b).fmt, bpMode b, w32 (fieldAt b 32 4)⟩
/-- Whether dW tile (k, n) is kept (R170). -/
def bpKeep (b : Bytes) (k n : Nat) : Bool := (fieldAt b 76 4).testBit n && (fieldAt b 80 1).testBit k
/-- The kept tiles, in row-major order. -/
def bpKept (b : Bytes) : List (Nat × Nat) :=
  ((List.range (tiles (bpK b))).flatMap fun k => (List.range (tiles (bpN b))).map fun n => (k, n)).filter fun t => bpKeep b t.1 t.2

/-- Whether the fields of the body are within their ranges. -/
def bpForm (b : Bytes) : Bool :=
  within 1 (bpM b) 16384 && within 1 (bpN b) 4096 && within 1 (bpK b) 1024 &&
  decide ((bpX b).fmt ≤ 3) && decide ((bpW b).fmt ≤ 3) && decide ((bpDy b).fmt ≤ 3) && decide ((bpDx b).fmt ≤ 4) &&
  (!bpFinal b || decide ((bpDw b).fmt ≤ 4)) && decide (bpMode b ≤ 1) &&
  clear b 22 0x88 && clear b 23 0xF8 && clear b 24 0x88 && clear b 25 0x80 && clear b 26 0xF0 && clear b 27 0xFF &&
  allZero (slice b 74 2) && allZero (slice b 81 47) &&
  decide (bpDxVreg b % 4 = 0) && decide (bpDxVreg b + 4 * tiles (bpK b) ≤ 32) &&
  ([bpX b, bpW b, bpDy b, bpDx b, bpDwAcc b].all fun m => decide (m.base % 1024 = 0)) &&
  (!bpFinal b || decide ((bpDw b).base % 1024 = 0)) && (!(bpHistDx b || bpHistDw b) || decide (bpHistOff b % 256 = 0)) &&
  !pitchBad (fieldAt b 64 2) (bpK b) && !pitchBad (fieldAt b 66 2) (bpN b) && !pitchBad (fieldAt b 68 2) (bpN b) &&
  !pitchBad (fieldAt b 70 2) (bpK b) && (!bpFinal b || !pitchBad (fieldAt b 72 2) (bpN b))

/-- The regions of the body. -/
def bpRegions (b : Bytes) : List (Nat × Nat) :=
  ([bpX b, bpW b, bpDy b, bpDx b, bpDwAcc b].map fun m => (m.base, m.stop)) ++
  (if bpFinal b then [((bpDw b).base, (bpDw b).stop)] else []) ++
  (if bpHistDx b then [(bpHistOff b, bpHistOff b + 256)] else []) ++
  (if bpHistDw b then [(bpHistOff b + 256, bpHistOff b + 512)] else [])

/-- The checks of a BWD_PAIR block. -/
def bpCheck (b : Bytes) : Option BlockBad := blockBad (!bpForm b) (bpRegions b) cellStoreBytes

/-! ### BWD_PAIR (R170) -/

/-- Element (r, k) of dX before the output stage: dY · Wᵀ over ascending tiles of N. -/
def bpDxAcc (st : Mem) (b : Bytes) (r k : Nat) : Word :=
  dotFrom (tiles (bpN b)) (fun i => (bpDy b).get st r i) (fun i => (bpW b).get st k i) 0

/-- Element (k, c) of the dW accumulators afterwards: Xᵀ · dY over ascending tiles of M. -/
def bpDwNew (st : Mem) (b : Bytes) (k c : Nat) : Word :=
  dotFrom (tiles (bpM b)) (fun i => (bpX b).get st i k) (fun i => (bpDy b).get st i c)
    (if bpAccIn b then (bpDwAcc b).raw st k c else 0)

/-- Part of a blocked output: tile (a, t) within the extents, row by row. -/
def convTile (m : Mat) (c : Conv) (d : Draws) (a t : Nat) (v : Nat → Nat → Word) : CellOut :=
  let w := min 128 (m.cols - 128 * t)
  let n := min 128 (m.rows - 128 * a)
  let outs := (grid n w fun r j => v (128 * a + r) (128 * t + j)).mapIdx fun r vs => c.run d (fun _ => r) vs
  { mem := outs.mapIdx fun r es => (m.addr (128 * a + r) (128 * t), (es.map fun e => leBytes (elemBytes m.fmt) e.1).flatten)
    met := outs.any fun es => es.any (·.2)
    taken := if c.random then laneDraws n w else [] }

/-- The kept dW accumulators as the passes leave them: FP32, unscaled, no output conversion (R172). -/
def bpAccOut (st : Mem) (b : Bytes) : List (Nat × Bytes) :=
  (bpKept b).flatMap fun t =>
    (List.range (min 128 (bpK b - 128 * t.1))).map fun r =>
      ((bpDwAcc b).addr (128 * t.1 + r) (128 * t.2),
        (List.range (min 128 (bpN b - 128 * t.2))).flatMap fun c => leBytes 4 (bpDwNew st b (128 * t.1 + r) (128 * t.2 + c)).toNat)

/-- The values of the kept dW tiles. -/
def bpDwValues (st : Mem) (b : Bytes) : List (List Word) :=
  (bpKept b).flatMap fun t =>
    grid (min 128 (bpK b - 128 * t.1)) (min 128 (bpN b - 128 * t.2)) fun r c => bpDwNew st b (128 * t.1 + r) (128 * t.2 + c)

/-- The final dW conversions, when DW_FINAL, after the conversions of effect o (R170, R177). -/
def bpDwOut (st : Mem) (b : Bytes) (d : Draws) (o : CellOut) : CellOut :=
  if bpFinal b then
    (bpKept b).foldl (fun o t => o.plus (convTile (bpDw b) (bpConvDw b) (d.after o) t.1 t.2 (bpDwNew st b))) o
  else o

/-- What the dX registers hold afterwards: the last tile-row, for each k (R170). -/
def bpVregs (st : Mem) (b : Bytes) : List (Nat × List Word) :=
  (List.range (tiles (bpK b))).flatMap fun k =>
    accRuns (bpDxVreg b + 4 * k) fun r c => bpDxAcc st b (128 * (tiles (bpM b) - 1) + r) (128 * k + c)

/-- The first fills of a BWD_PAIR: each dY tile once, then for every k the W tile of the dX pass and the X tile of the dW pass
(R154, R170). -/
def bpFills (st : Mem) (b : Bytes) : List Bank :=
  passFills (tiles (bpM b)) (tiles (bpN b)) (tiles (bpK b)) fun m n k =>
    [(bpDy b).fill st m n, (bpW b).fill st k n, (bpX b).fill st m k]

/-- The effect of a BWD_PAIR on a cell's store. -/
def bpRun (st : Mem) (d : Draws) (b : Bytes) : CellOut :=
  let rows := grid (bpM b) (bpK b) (bpDxAcc st b)
  let o := (convRows (bpDx b) (bpConvDx b) d (rankByTile (bpM b) (bpK b)) rows).plus (histOut (bpHistDx b) (bpHistOff b) rows)
  let o := o.plus { mem := bpAccOut st b, vregs := bpVregs st b, fills := bpFills st b }
  (bpDwOut st b d o).plus (histOut (bpHistDw b) (bpHistOff b + 256) (bpDwValues st b))

/-- BWD_PAIR. -/
def execBwdPair (x : At) (s : State) : Out :=
  done (startOp x .array 2 (fun _ _ b => bpCheck b) (fun s n d b => bpRun (storeOf x s n) d b) s)

end Sys2Proof.Machine
end

