-- ==== Sys2Proof/Machine/Propolis.lean ====
section
/-! DEFINITION. Commands of the supers and of Propolis: region tables, memory requests, formatting, refresh, scrub, row
repair and links (R316–R333, R342–R366). -/

namespace Sys2Proof.Machine

/-! ### Region tables (R318–R321, R359) -/

/-- The first ERR code an entry fails (R319). -/
def regionErr (size : Nat) (g : Region) : Nat :=
  if 5 ≤ g.kind.toNat ∨ g.share.toNat < 1 ∨ 916 < g.share.toNat then 1
  else if (if kindLocal g.kind.toNat then decide (size ≤ g.pos.toNat) else decide (g.pos ≠ 0)) then 2
  else if g.keyId = 0 then 3 else 0

/-- How far the data cursor may go on a super (R321). -/
def dataEnd (k : Super) : Nat := if k.val = 0 ∨ k.val = 4 then queenBase else sealedBase

/-- Whether cursors lie within their limits. -/
def cursorsFit (lim : Nat → Nat) (cur : List Nat) : Bool := (cur.mapIdx fun i c => decide (c ≤ lim i)).all id

/-- The ERR code of a table's entries, checked in order with the cursors before each (R320). -/
def tableErr (p : Part) (size : Nat) : List Region → List Nat → List Nat → Nat
  | [], _, _ => 0
  | g :: rest, dc, sc =>
    if g.kind = 0 then 0
    else if regionErr size g ≠ 0 then regionErr size g
    else if kindSealed g.kind.toNat then
      let sc := advance g sc
      if cursorsFit (fun _ => metaBase) sc then tableErr p size rest dc sc else 5
    else
      let dc := advance g dc
      if cursorsFit (fun i => dataEnd (combAt p i)) dc then tableErr p size rest dc sc else 4

/-- The result of a commit of partition p's table. -/
def commitTable (s : State) (p : Part) : Nat :=
  let n := sizeOf s p
  let t := s.parts[p].rgn.toList
  match t.head? with
  | none => 6
  | some g => if g.kind = 0 then 6 else tableErr p n t (List.replicate n 0) (List.replicate n sealedBase)

/-- The cursors of a table's end: data and sealed (R321). -/
def tableCursors : List Region → List Nat → List Nat → List Nat × List Nat
  | [], dc, sc => (dc, sc)
  | g :: rest, dc, sc =>
    if g.kind = 0 then (dc, sc)
    else if kindSealed g.kind.toNat then tableCursors rest dc (advance g sc) else tableCursors rest (advance g dc) sc

/-- The queen allocates the regions of a committed table: the cursors of every super of the partition advance (R321). -/
def allocate (p : Part) (s : State) : State :=
  let x := tableCursors s.parts[p].rgn.toList (List.replicate (sizeOf s p) 0) (List.replicate (sizeOf s p) sealedBase)
  forEach (combsOf s p) (fun k s => s.modSuper k fun u =>
    { u with dataCur := x.1.getD (posOf p k) 0, sealCur := x.2.getD (posOf p k) sealedBase }) s

/-- REGION_COMMIT: the table validated; a pass sets LOCKED and allocates, a failure ERR; ignored while LOCKED (R320, R321). -/
def effCommit (p : Part) (s : State) : State :=
  if !s.parts[p].live ∨ s.parts[p].locked then s
  else
    let e := commitTable s p
    let s := s.modPart p fun q => { q with locked := decide (e = 0), mapErr := BitVec.ofNat 4 e }
    if e = 0 then allocate p s else s

/-- REGION_COMMIT. -/
def execRegionCommit (p : Part) (s : State) : Out := done (doIf (regsServed s) (effCommit p) s)

/-- Device offsets lo to hi − 1 of a super become zero sectors (R359). -/
def zeroSectors (lo hi : Nat) (u : SuperState) : SuperState :=
  { u with ctr := tabClear u.ctr (lo / 512) (hi / 512), mem := tabClear u.mem lo hi
           poison := u.poison.filter fun l => decide (l * 128 < lo) || decide (hi ≤ l * 128) }

/-- The device ranges of partition p's table on super k. -/
def rangesOn (s : State) (p : Part) (k : Super) : List (Nat × Nat) :=
  (regionMap s p).filterMap fun m =>
    let b := m.base.getD (posOf p k) 0
    let n := if kindLocal m.kind then (if m.pos = posOf p k then m.len else 0) else m.len / sizeOf s p
    if n = 0 then none else some (b, b + n)

/-- REGION_INIT_DONE: every sector of every region is a zero sector, and READY is set (R320, R359). -/
def effInitDone (p : Part) (s : State) : State :=
  if !s.parts[p].locked ∨ s.parts[p].ready then s
  else
    let s := forEach (combsOf s p) (fun k s =>
      forEach (rangesOn s p k) (fun r s => s.modSuper k (zeroSectors r.1 r.2)) s) s
    s.modPart p fun q => { q with ready := true }

/-- REGION_INIT_DONE. -/
def execRegionInitDone (p : Part) (s : State) : Out := done (effInitDone p s)

/-! ### Requests (R11, R28, R316, R325, R328, R339, R362) -/

/-- Whether an offset of super k lies in a tenant range (R362). -/
def tenantAt (s : State) (k : Super) (off : Nat) : Bool :=
  inQueenRegion k off ||
  (match ownerAt s k off with
   | some (_, m, _) => s.supers[k].slots[m.keyId].state != 0
   | none => false) ||
  s.supers[k].toScrub.any fun r => decide (r.2.1 ≤ off) && decide (off < r.2.2)

/-- How a request is met: under a key ID, as stored bytes, or refused (dbg: DBG_BLOCK counts it). -/
inductive Access where
  | ok (key : KeyId)
  | stored
  | refused (dbg : Bool)
  deriving DecidableEq, Repr

/-- What a requester's access to an offset meets: partition memory is its own partition's, a queen region is the two queens'
(R19), the metadata reservation nobody's (R316). -/
def accessOf (s : State) (k : Super) (off : Nat) (who : Requester) : Access :=
  if metaBase ≤ off then .refused false
  else match who with
  | .operator => if tenantAt s k off then .refused true else .stored
  | .queen _ => if inQueenRegion k off then .ok 0 else .refused (tenantAt s k off)
  | .comb c => match ownerAt s k off with
    | some (p, m, _) => if inPart s p c then .ok m.keyId else .refused (tenantAt s k off)
    | none => .refused (tenantAt s k off)
  | .hild j => match ownerAt s k off with
    | some (_, m, _) => if j = k then .ok m.keyId else .refused (tenantAt s k off)
    | none => .refused (tenantAt s k off)

/-- DBG_BLOCK of a super (R362). -/
def dbgBlock (k : Super) (s : State) : State := s.modSuper k fun u => { u with dbgBlock := hit 16 u.dbgBlock }

/-- A refused request. -/
def refuse (k : Super) (who : Requester) (dbg : Bool) (s : State) : State :=
  emit (.readReply who stAccessViolation []) (if dbg then dbgBlock k s else s)

/-- A request under a key whose slot is not ACTIVE (R339). -/
def refuseKey (k : Super) (who : Requester) (isWrite : Bool) (s : State) : State :=
  emit (.readReply who stKeyRetired []) (s.modSuper k fun u => { u with
    keyRefused := hit 16 u.keyRefused, lateDrop := if isWrite then hit 16 u.lateDrop else u.lateDrop })

/-- The bits of line l that a read returns wrong after correction; all of them where it is uncorrectable. -/
def leftAfter (u : SuperState) (k : Super) (l : Nat) : BitVec 1152 :=
  match decodeLine u k l with
  | some d => d.left
  | none => tabGet 0 u.dramErr l

/-- A line of stored bytes as read without decryption or tag check, corrected by ECC where it can be. -/
def rawLine (s : State) (k : Super) (l : Nat) : Bytes :=
  let e := leftAfter s.supers[k] k l
  if e = 0 then storedLine s k l else flipBytes (storedLine s k l) (e.toNat % 2 ^ 1024)

/-- The stored bytes of a super as read without decryption or tag check (R422). -/
def storedBytes (s : State) (k : Super) (off n : Nat) : Bytes :=
  (linesOf off n).flatMap fun x => slice (rawLine s k (x.1 / 128)) (x.1 % 128) x.2

/-- A Hild run whose access fails verification stops, and the unit with it (R297, R307). -/
def hildIntegrity (who : Requester) (s : State) : State :=
  match who with
  | .hild k => (reportPoison k s).modHild k fun h => { h with cur := none, queue := [], state := 3 }
  | _ => s

/-- A request that fails verification. -/
def replyIntegrity (who : Requester) (s : State) : State := emit (.readReply who stIntegrityFail []) (hildIntegrity who s)

/-- The SOURCE of an uncorrectable line (R334). -/
def srcOfReq (who : Requester) : BitVec 3 := match who with
  | .hild _ => 3
  | _ => 0

/-- Whether a requester is the Hild unit, whose lines the base die's own line cipher decrypts (R352). -/
def byHild (who : Requester) : Bool := match who with
  | .hild _ => true
  | _ => false

/-! ### Requesters of a super link (R29, R30) -/

/-- The requester of super link j that a request comes by: comb j itself, the NoC pair link of another comb of the die, the
bridge comb group, or within the base die and from the queens. -/
def linkPort (j : Super) (who : Requester) : Fin 6 :=
  match who with
  | .comb c =>
    if c = j then 0
    else if dieOf c = dieOf j then ⟨1 + (if c.val % 4 < j.val % 4 then c.val % 4 else c.val % 4 - 1) % 3, by omega⟩
    else 4
  | _ => 5

/-- Flits of 256 bytes that n bytes take (R364). -/
def linkFlits (n : Nat) : Nat := max 1 (ceilDiv n 256)

/-- Flits sent and received on one direction of a link. -/
def LinkDir.pass (n : Nat) (d : LinkDir) : LinkDir := { d with sent := d.sent + w64 n, next := d.next + w64 n }

/-- A request and its answer cross the super link: n flits to the super, m back; requests of the Hild unit do not leave the
base die. -/
def crossLink (k : Super) (who : Requester) (n m : Nat) (s : State) : State :=
  if byHild who then s else
  s.modSuper k fun u => { u with link := Vector.ofFn fun d => (u.link[d]).pass (if d.val = 0 then n else m) }

/-! ### Serving a request (R352–R354) -/

/-- A read served (R352): the reply carries the line as its requester's line cipher decrypts it. -/
def serveRead (k : Super) (off : Nat) (who : Requester) (s : State) : State :=
  match accessOf s k off who with
  | .refused dbg => refuse k who dbg s
  | .stored => emit (.readReply who stOK (storedBytes s k off 128)) s
  | .ok key =>
    if s.supers[k].slots[key].state ≠ 1 then refuseKey k who false s
    else
      let t := meetLine k off (srcOfReq who) (crossLink k who 1 1 s)
      match readOutcome s k off with
      | .deadNode | .poisoned | .lost => emit (.readReply who stPoison []) t
      | .zero => emit (.readReply who stOK (List.replicate 128 0)) t
      | .good e => emit (.readReply who stOK (plainLine s k (off / 128) (byHild who) e)) t
      | .badNode n => replyIntegrity who (stopUnder k n (ppaDetail s k off) t)
      | .badTag => replyIntegrity who (stopOwner k off stIntegrityFail t)

/-- The failure of a sector's write in the super and at its owner (R356). -/
def failSector (k : Super) (off : Nat) (e : SectorEnd) (s : State) : State × Byte :=
  match e with
  | .stored => (s, stOK)
  | .poison _ => (s, stPoison)
  | .badNode n => (stopUnder k n (ppaDetail s k (off / 128 * 128)) s, stIntegrityFail)
  | .badTag l => (stopOwner k (128 * l) stIntegrityFail s, stIntegrityFail)
  | .exhausted => (stopOwner k (off / 512 * 512) stCounterExhausted s, stCounterExhausted)

/-- The sectors of a write settled one by one; the first that fails gives the request's status (R107, R354). -/
def settleAll (k : Super) (key : KeyId) (base : Nat) (data : Bytes) (src : BitVec 3) :
    List (Nat × Nat) → State → State × Byte
  | [], s => (s, stOK)
  | (a, n) :: r, s =>
    let x := settleSector k key a (slice data (a - base) n) src s
    let y := failSector k a x.2 x.1
    let z := settleAll k key base data src r y.1
    (z.1, if y.2 = stOK then z.2 else y.2)

/-- A write served. -/
def serveWrite (k : Super) (off : Nat) (who : Requester) (data : Bytes) (s : State) : State :=
  match accessOf s k off who with
  | .refused dbg => refuse k who dbg s
  | .stored => refuse k who false s
  | .ok key =>
    if s.supers[k].slots[key].state ≠ 1 then refuseKey k who true s
    else
      let x := settleAll k key off data (srcOfReq who) (sectorsOf off data.length) (crossLink k who (linkFlits data.length) 1 s)
      if x.2 = stIntegrityFail ∨ x.2 = stCounterExhausted then emit (.readReply who x.2 []) (hildIntegrity who x.1)
      else emit (.readReply who x.2 []) x.1

/-- A partial write (R353): the line read with its counter c, merged, and sent as a write that expects c. A write of the Hild
unit to the sector that lands in between moves the counter: the write is refused, MERGE_RETRY counts, and it starts again. -/
def servePartial (k : Super) (off : Nat) (who : Requester) (data : Bytes) : List (Nat × Bytes) → State → State
  | [], s => serveWrite k off who data s
  | w :: r, s =>
    let c := tabGet 0 s.supers[k].ctr (off / 512)
    match accessOf s k off who with
    | .ok key =>
      if s.supers[k].slots[key].state ≠ 1 then refuseKey k who true s
      else match readOutcome s k off with
      | .zero | .good _ =>
        let t := serveWrite k w.1 (.hild k) w.2 (meetLine k off (srcOfReq who) s)
        if tabGet 0 t.supers[k].ctr (off / 512) = c then servePartial k off who data r t
        else servePartial k off who data r (t.modSuper k fun u => { u with mergeRetry := hit 16 u.mergeRetry })
      | _ => serveWrite k off who data s
    | _ => serveWrite k off who data s

/-- A request served. -/
def serveReq (k : Super) (r : MemReq) (s : State) : State :=
  match r.op with
  | .read => serveRead k r.off r.who s
  | .write data => serveWrite k r.off r.who data s
  | .partial' data between => servePartial k r.off r.who data between s

/-- The next requester of a super link whose oldest request can be served, from a given turn on (R29). -/
def nextPort (u : SuperState) : Option (Fin 6 × MemReq × List MemReq) :=
  ((List.range 6).map fun i => Fin.ofNat 6 (u.turn.val + i)).findSome? fun i =>
    match u.waiting[i] with
    | [] => none
    | r :: rest => if superServes u r.off then some (i, r, rest) else none

/-- The waiting requests of a super are served one from each requester in turn, each requester's in order (R29, R30). -/
def drainSuper : Nat → Super → State → State
  | 0, _, s => s
  | n + 1, k, s =>
    match nextPort s.supers[k] with
    | none => s
    | some (i, r, rest) =>
      drainSuper n k (serveReq k r (s.modSuper k fun u => { u with waiting := upd u.waiting i fun _ => rest, turn := i + 1 }))

/-- Every request that waited at super k is served as far as the super serves it again. -/
def resumeSuper (k : Super) (s : State) : State := drainSuper (s.supers[k].waiting.toList.map List.length).sum k s

/-- A request reaches its super: refused at once where the requester has no access (R11, R28, R316, R362), served if the super
serves it and nothing of its requester waits before it, else it waits (R30, R325, R328, R349). -/
def submit (k : Super) (r : MemReq) (s : State) : State :=
  match accessOf s k r.off r.who with
  | .refused dbg => refuse k r.who dbg s
  | _ =>
    let i := linkPort k r.who
    if (match r.who with
        | .comb c => !routeOpen s c k
        | _ => false) then s
    else if superServes s.supers[k] r.off && s.supers[k].waiting[i].isEmpty then serveReq k r s
    else s.modSuper k fun u => { u with waiting := upd u.waiting i (· ++ [r]) }

/-- The super that bits 39 to 36 of a device address name (R11). -/
def devSuper (sup : BitVec 4) : Super := Fin.ofNat 8 sup.toNat

/-- A request by device address, whose bits 39 to 36 are sup: bit 39 must be 0 (R11). -/
def request (sup : BitVec 4) (who : Requester) (flips : Flips) (off : Nat) (op : MemOp) (s : State) : State :=
  if sup.getLsbD 3 then emit (.readReply who stAccessViolation []) s
  else submit (devSuper sup) ⟨who, off, op, s.combs[devSuper sup].hum.time⟩ (applyFlips (devSuper sup) flips s)

/-- MEMORY_READ of the line that holds a device address. The bits that the DRAM flipped since its latest command come as those
of the lines of data, of tags and of the counter tree. -/
def execMemoryRead (sup : BitVec 4) (off : BitVec 36) (who : Requester) (line tags tree : Flips) (s : State) : Out :=
  done (request sup who (line ++ tags ++ tree) (off.toNat / 128 * 128) .read s)

/-- MEMORY_WRITE: whole lines. -/
def execMemoryWrite (sup : BitVec 4) (off : BitVec 36) (who : Requester) (data : Bytes) (line tags tree : Flips) (s : State) :
    Out :=
  done (if off.toNat % 128 = 0 ∧ data.length % 128 = 0 ∧ data ≠ [] then
    request sup who (line ++ tags ++ tree) off.toNat (.write data) s else s)

/-- PARTIAL_WRITE: fewer than 128 bytes of one line; `between`: the Hild unit's writes to its sector that land between its
read and its write (R353). -/
def execPartialWrite (sup : BitVec 4) (off : BitVec 36) (who : Requester) (data : Bytes) (between : List (BitVec 36 × Bytes))
    (line tags tree : Flips) (s : State) : Out :=
  done (if data = [] ∨ 128 ≤ data.length ∨ 128 < off.toNat % 128 + data.length then s
    else request sup who (line ++ tags ++ tree) off.toNat (.partial' data (between.map fun w => (w.1.toNat, w.2))) s)

/-! ### Formatting, refresh, scrub and repair (R323, R326–R329, R349) -/

/-- TREE_FORMAT_DONE: the tree reads READY, a super in INIT becomes ACTIVE, and what waited proceeds (R349). -/
def execTreeFormatDone (k : Super) (s : State) : Out :=
  done (if s.supers[k].powered ∧ s.supers[k].tree = 0 then
    resumeSuper k (s.modSuper k fun u => { u with tree := 1, state := if u.state = 0 then 1 else u.state }) else s)

/-- DRAM_REFRESH: the rows are refreshed while the controller is out of self-refresh (R323). -/
def execDramRefresh (k : Super) (s : State) : Out :=
  done (if s.supers[k].powered ∧ s.supers[k].state ≠ 2 then s.modSuper k fun u => { u with refreshes := u.refreshes + 1 } else s)

/-- The lines of data whose tags lie in a line of the tag region, of sectors that were written. -/
def taggedLines (u : SuperState) (l : Nat) : List Nat :=
  ((List.range 16).map fun i => (l - tagBase / 128) * 16 + i).filter fun x => decide (tabGet 0 u.ctr (x / 4) ≠ 0)

/-- An uncorrectable line found by scrub, by the space it lies in (R313, R315, R356). -/
def scrubLost (k : Super) (l : Nat) (s : State) : State :=
  match spaceOf (128 * l) with
  | .tagData | .sealed => lineUncorrectable k l 1 s
  | .tags => forEach (taggedLines s.supers[k] l) (fun x s => lineUncorrectable k x 1 s) (s.modSuper k (settleLine l))
  | .tree => forEach (nodesIn l) (fun n s => nodeFails k n (nodeBase n) s) (s.modSuper k (settleLine l))
  | .control => s.modSuper k (settleLine l)

/-- PATROL_SCRUB_READ: the next line is read; a corrected line is written back, an uncorrectable one poisoned (R326), in every
state but self-refresh (R327); the scrub log holds what it found. -/
def effScrub (k : Super) (s : State) : State :=
  let u := s.supers[k]
  if !u.powered ∨ u.state = 2 then s else
  let l := u.scrubPos / 128
  let s := s.modSuper k fun u => { u with scrubPos := (128 * l + 128) % 2 ^ 36 }
  match decodeLine u k l with
  | none => scrubLost k l (s.modSuper k fun u => { u with scrubLog := u.scrubLog ++ [(l, true)] })
  | some d =>
    if d.corrected ∨ d.mark.isSome then
      (noteDecode k l s).modSuper k fun u => { u with
        dramErr := tabSet 0 u.dramErr l d.left, scrubLog := u.scrubLog ++ [(l, false)] }
    else s

/-- PATROL_SCRUB_READ. -/
def execPatrolScrubRead (k : Super) (flips : Flips) (s : State) : Out := done (effScrub k (applyFlips k flips s))

/-- ROW_REPAIR_DONE: the row is copied and remapped, the next repair begins, and the bank's requests proceed (R328). -/
def execRowRepairDone (x : RowCopy) (s : State) : Out :=
  done (if s.supers[x.k].repairing.isNone then s
    else resumeSuper x.k (nextRepair x.k (effRepaired x.k (applyFlips x.k x.flips s))))

/-! ### Links (R333, R363–R365) -/

/-- LINK_FLIT_CRC_FAIL: a replay; above 4,096 in a window each counts for RETRAIN (R333, R509). -/
def execLinkFlitCrcFail (k : Super) (s : State) : Out :=
  done (if !s.supers[k].powered ∨ s.supers[k].resetting then s else
    let n := s.supers[k].replays + 1
    let s := s.modSuper k fun u => { u with retry := hit 16 u.retry, replays := n }
    if 4096 < n then ewSuper k 2 s else s)

/-- LINK_REPLAY_LIMIT: a link fault stops the partition of comb k; STATE reads FAILED until the reset (R333). -/
def execLinkReplayLimit (k : Super) (s : State) : Out :=
  done (if !s.supers[k].powered ∨ s.supers[k].resetting then s else
    let s := s.modSuper k fun u => { u with state := 3, linkDead := true }
    match partOf s k with
    | some p => stopInternal p k (w32 (0x1400 + k.val)) [k] s
    | none => s)

/-- The partitions an authentication failure of a link stops, and the super reset it needs (R363). -/
def linkOwners (s : State) (link : Fin 14) : List Part × List Super :=
  if h : link.val < 8 then
    let k : Super := ⟨link.val, h⟩
    (((partOf s k).toList), [k])
  else if link.val < 12 then ((if s.parts[(0 : Part)].live && s.parts[(0 : Part)].psize == 3 then [0] else []), [])
  else (partsOnDie s 1, [])

/-- The nonce of a link flit (R364). -/
def linkNonce (seq : DWord) (link : Fin 14) (dir : Fin 2) : BitVec 96 :=
  BitVec.ofNat 96 (seq.toNat + link.val * 2 ^ 64 + dir.val * 2 ^ 72)

/-- One direction of a link: direction 0 goes to the super, or from die 0 to die 1. -/
def linkDir (s : State) (link : Fin 14) (dir : Fin 2) : LinkDir :=
  if h : link.val < 8 then (s.supers[(⟨link.val, h⟩ : Super)]).link[dir] else (s.mod.bridge[(⟨link.val - 8, by omega⟩ : Fin 6)])[dir]

/-- One direction of a link changed by f. -/
def modLink (link : Fin 14) (dir : Fin 2) (f : LinkDir → LinkDir) (s : State) : State :=
  if h : link.val < 8 then s.modSuper ⟨link.val, h⟩ fun u => { u with link := upd u.link dir f }
  else s.modMod fun m => { m with bridge := upd m.bridge ⟨link.val - 8, by omega⟩ fun v => upd v dir f }

/-- Whether a flit of 256 bytes at most with its 16-byte tag fails authentication at its receiver: its sequence is not the
next expected, or its tag does not verify (R364, R365). -/
def linkFlitFails (d : LinkDir) (link : Fin 14) (dir : Fin 2) (seq : DWord) (body : Bytes) : Bool :=
  decide (seq ≠ d.next) || (Config.gcmOpen d.key (linkNonce seq link dir) [] body).isNone

/-- The die that holds the receiving end of a bridge link's direction (R366). -/
def rxDieOf (dir : Fin 2) : Die := 1 - dir

/-- An authentication failure (R363, R365): counted at the receiver, the key is used no more until the link is rekeyed, and the
owners are stopped; a bridge link is rekeyed at once. At a super of no partition that is under reset it is a second fault
(R503). -/
def effLinkAuth (link : Fin 14) (dir : Fin 2) (s : State) : State :=
  let s := modLink link dir (fun d => { d with dead := true }) s
  let s := if h : link.val < 8 then s.modSuper ⟨link.val, h⟩ fun u => { u with linkAuth := hit 16 u.linkAuth }
    else s.modDie (rxDieOf dir) fun d =>
      if h : link.val < 12 then { d with groupAuth := upd d.groupAuth ⟨link.val - 8, by omega⟩ (hit 16) }
      else if link.val = 12 then { d with hostAuth := hit 16 d.hostAuth }
      else { d with mgmtAuth := hit 16 d.mgmtAuth }
  if link.val = 13 then moduleFault stIntegrityFail 0 s
  else
    let (ps, ks) := linkOwners s link
    if ps = [] ∧ ks.any (fun k => s.supers[k].resetting) then
      escalateWarm { status := stIntegrityFail, detail := 0, comb := 0, combs := [] } s else
    let s := if h : link.val < 8 then s else keyBridge ⟨link.val - 8, by omega⟩ s
    forEach ps (fun p s => stopPartition p (ks.headD p) stIntegrityFail 0 0 0 ks s) s

/-- LINK_AUTH_FAIL: a flit that passed its CRC arrives; on a key already failed it is discarded, one that verifies is taken. -/
def execLinkAuthFail (link : Fin 14) (x : LinkFlit) (s : State) : Out :=
  done (if (linkDir s link x.dir).dead then s
    else if linkFlitFails (linkDir s link x.dir) link x.dir x.seq x.body then effLinkAuth link x.dir s
    else modLink link x.dir (fun d => { d with next := d.next + 1 }) s)

end Sys2Proof.Machine
end

