-- ==== Sys2Proof/Machine/HumCmds.lean ====
section
/-! DEFINITION. The hum, frames and beats: synchronisation, slips, the beat grid, boundaries and polls (R46–R80, R91). -/

namespace Sys2Proof.Machine

/-! ### Hum root (R50) -/

/-- HUM_CFG's fields taken from a written value. -/
def humFields (v : Word) (m : ModuleRegs) : ModuleRegs :=
  { m with humRoot := v.getLsbD 0, rootX := v.extractLsb' 8 5, rootY := v.extractLsb' 13 5, rootZ := v.extractLsb' 18 5 }

/-- HUM_CFG written: refused and logged while a job holds a lease; a root loads HUM_EPOCH and reads LOCKED, another module
goes to FREE (R50, R54). DESIGN CHOICE (log entry 86): a HUM_EPOCH that is no multiple of 0.8 ns is kept as it is, so slots and
clocks of the router lie where its time, counted in 1/80 ns, passes multiples of 1,024 and of 64. -/
def effHumCfg (f : Fn) (v : Word) (s : State) : State :=
  if f.val ≠ 0 then s
  else if anyLease s then logRefusal "HUM_CFG" s
  else
    let s := s.modMod (humFields v)
    let s := setParents s
    forEach (fins 8) (fun k s => s.modHum k fun h =>
      if v.getLsbD 0 then
        { h with time := s.mod.humEpoch.toNat * nsUnits, state := 2, offset := 0, slew := 0, carry := 0, okRun := 0, badRun := 0 }
      else { h with state := 0, okRun := 0, badRun := 0 }) s

/-- HUM_CFG_WRITE. -/
def execHumCfgWrite (f : Fn) (value : Word) (s : State) : Out := done (doIf (regsServed s) (effHumCfg f value) s)

/-! ### Hum-sync (R52–R55) -/

/-- The offset of R52 in 1/16 ns: ((t2 − t1) − (t4 − t3)) ÷ 2. -/
def humOffset (t1 t2 t3 t4 : Int) : Int := ((t2 - t1) - (t4 - t3)) / 2

/-- Local time in 1/16 ns. -/
def now16 (s : State) (k : Comb) : Nat := s.combs[k].hum.time / 5

/-- The hum of a router after an exchange with its parent that gave an offset (R53, R54): FREE steps to the parent's time,
the other states count frames inside ±5 ns and exchanges beyond ±20 ns. -/
def humExchange (off : Int) (h : Hum) : Hum :=
  let h := { h with offset := off }
  if h.state = 0 then { h with time := ((h.time : Int) - off * 5).toNat, state := 1, okRun := 0, badRun := 0 }
  else if h.state = 1 then { h with okRun := if -80 ≤ off ∧ off ≤ 80 then h.okRun + 1 else 0 }
  else if h.state = 2 then { h with badRun := if off < -320 ∨ 320 < off then h.badRun + 1 else 0 }
  else if -320 ≤ off ∧ off ≤ 320 then { h with state := 2, badRun := 0, okRun := 0 }
  else { h with state := 1, okRun := 0 }

/-- The slew rate in ppm that corrects an offset: against its sign, and otherwise a free value within ±200 (R53; log
entry 15). -/
def freeSlew (off : Int) (s : State) : Int :=
  let v : Nat := (drawNow 64 s).toNat
  if 0 < off then -((v % 201 : Nat) : Int) else if off < 0 then ((v % 201 : Nat) : Int) else ((v % 401 : Nat) : Int) - 200

/-- A hum-sync record arrives on an UP strand-port: its times are kept, and from the parent it gives an offset (R52). -/
def effHumSync (k : Comb) (port : LPort) (rec' : HumSync) (s : State) : State :=
  if !portUp s k port then s else
  let now := now16 s k
  let s := s.modSPort k port fun q => { q with lastTx := rec'.tTx, lastRx := w64 now }
  if rootPort s = some port ∧ rec'.tEchoTx ≠ 0 then
    let off := humOffset rec'.tTx.toNat now rec'.tEchoTx.toNat rec'.tEchoRx.toNat
    let v := freeSlew off s
    (drawn s).modHum k fun h => { humExchange off h with slew := v }
  else s

/-- HUM_SYNC_RECEIVE. -/
def execHumSyncReceive (k : Comb) (port : LPort) (rec' : HumSync) (s : State) : Out := done (effHumSync k port rec' s)

/-- HUM_LOCK_ACQUIRED: ACQUIRE goes to LOCKED after 16 consecutive frames within ±5 ns (R54). -/
def execHumLockAcquired (k : Comb) (s : State) : Out :=
  done (if s.combs[k].hum.state = 1 ∧ 16 ≤ s.combs[k].hum.okRun then
    s.modHum k fun h => { h with state := 2, badRun := 0 } else s)

/-- HUM_OFFSET_EXCEEDED: LOCKED goes to HOLDOVER after 4 consecutive exchanges beyond ±20 ns (R54). -/
def execHumOffsetExceeded (k : Comb) (s : State) : Out :=
  done (if s.combs[k].hum.state = 2 ∧ 4 ≤ s.combs[k].hum.badRun then s.modHum k fun h => { h with state := 3 } else s)

/-- A hum loss on strand k (R57): LOCK_LOST, FREE, and an alarm HUM_LOSS for the job of comb k's partition. -/
def humLoss (k : Comb) (s : State) : State :=
  let s := s.modHum k fun h => { h with state := 0, lockLost := hit 16 h.lockLost, okRun := 0, badRun := 0 }
  match partOf s k with
  | none => s
  | some p => fabricAbort p k 0x02 s

/-- HOLDOVER_EXPIRE. -/
def execHoldoverExpire (k : Comb) (s : State) : Out := done (if s.combs[k].hum.state = 3 then humLoss k s else s)

/-- ELASTIC_SLIP: the fill of one direction's buffer of 4 slots moves; outside 1–3 the slip is recorded and the strand-port
retrains (R56, R378). -/
def execElasticSlip (k : Comb) (x : Slip) (s : State) : Out :=
  done (if !portUp s k x.port then s else
    let s := s.modSPort k x.port fun q => { q with fill := upd q.fill x.dir fun _ => x.fill.val }
    if x.fill.val = 0 ∨ x.fill.val = 4 then strandDown k x.port 0 false (s.modHum k fun h => { h with slip := hit 16 h.slip }) else s)

/-! ### The beat grid (R63–R69) -/

/-- The runtime flows of a timetable on the comb at position pos: those it sends, and those it receives (R392). -/
def inBox (s : State) (f : Flow) : Bool :=
  let m := s.mod
  decide (f.x0 ≤ m.x.toNat ∧ m.x.toNat ≤ f.x1 ∧ f.y0 ≤ m.y.toNat ∧ m.y.toNat ≤ f.y1 ∧ f.z0 ≤ m.z.toNat ∧ m.z.toNat ≤ f.z1)

/-- A coordinate moved back by an offset, modulo the dimension. -/
def backBy (c : Nat) (d : Int) (dim : Nat) : Nat := (((c : Int) - d) % ((dim : Int) + 1)).toNat

/-- The source coordinate from which a flow would end at this module. -/
def srcOf (s : State) (f : Flow) : Nat × Nat × Nat :=
  let m := s.mod
  (backBy m.x.toNat f.dx m.dimX.toNat, backBy m.y.toNat f.dy m.dimY.toNat, backBy m.z.toNat f.dz m.dimZ.toNat)

/-- Whether this module is the destination of a flow: its source lies in the box. -/
def isDest (s : State) (f : Flow) : Bool :=
  let (x, y, z) := srcOf s f
  decide (f.x0 ≤ x ∧ x ≤ f.x1 ∧ f.y0 ≤ y ∧ y ≤ f.y1 ∧ f.z0 ≤ z ∧ z ≤ f.z1)

/-- The flows that comb k of a partition sends and receives under a timetable. -/
def flowsOfComb (s : State) (p : Part) (k : Comb) (t : Timetable) : List FlowRt :=
  (t.flows.mapIdx fun i f =>
    (if f.pos = posOf p k ∧ inBox s f then [({ index := i, tx := true } : FlowRt)] else []) ++
    (if f.pos = posOf p k ∧ isDest s f then [({ index := i, tx := false } : FlowRt)] else [])).flatten

/-- Whether a comb that waits for a timetable stands at slot 0 of its origin frame (R63), with the boundary of a running grid
there behind it (R69). -/
def atOrigin (s : State) (k : Comb) (t : Timetable) : Bool :=
  let h := s.combs[k].hum
  h.due && decide (frameOf s k % 2 ^ 48 = t.origin.toNat) && decide (slotOf s k = 0) &&
    (!h.active || decide (h.beatStart = frameOf s k))

/-- A comb enters the new grid: beat 0 for a first timetable, the number goes on for a replacement (R63, R69). -/
def startGrid (t : Timetable) (f : Nat) (h : Hum) : Hum :=
  { h with beatFrames := BitVec.ofNat 12 (t.beatFrames - 1), active := true, due := false, missed := none
           beat := if h.active then h.beat else 0, beatStart := f, marker := none }

/-- The flows of the new grid, each with what its predecessor of the same number holds (log entry 21). -/
def carryFlows (old new : List FlowRt) : List FlowRt :=
  new.map fun f => match old.find? fun g => g.tx == f.tx && decide (g.index = f.index) with
    | some g => { f with queue := g.queue, lastSeq := g.lastSeq, visible := g.visible }
    | none => f

/-! ### Polls (R91) -/

/-- The head word of an event ring is read; a poll whose reads are still under way is not started again. -/
def pollEvents (f : Fn) (s : State) : State :=
  let what : HostReadKind := .word (.events f)
  match partOfFn f with
  | none =>
    if s.mod.evq.enable && !s.mod.evq.polled && canRequest s f then
      (hostPut f (.read s.mod.evq.headAddr 8 what) s).modMod fun m => { m with evq := { m.evq with polled := true } }
    else s
  | some p =>
    if s.parts[p].evq.enable && !s.parts[p].evq.polled && canRequest s f then
      (hostPut f (.read s.parts[p].evq.headAddr 8 what) s).modPart p fun q => { q with evq := { q.evq with polled := true } }
    else s

/-- A ring is polled: its doorbell and head words are read; with ring 0 the event ring's head word too. -/
def pollRing (p : Part) (r : Ring) (s : State) : State :=
  let g := s.parts[p].rings[r]
  let what : HostReadKind := .word (.ring p r)
  if g.enable && (g.state == 1 || g.state == 2) && canRequest s (fnOf p) then
    let s := doIf (!g.polled) (fun s =>
      (hostPutAll (fnOf p) [.read g.dbAddr 8 what, .read g.headAddr 8 what] s).modRing p r fun g => { g with polled := true }) s
    if r.val = 0 then pollEvents (fnOf p) s else s
  else s

/-- The rings of comb k due at beat n: n mod N = 0. -/
def pollDue (k : Comb) (p : Part) (n : Nat) (s : State) : State :=
  forEach ((ringsServed s p k).filter fun r => decide (n % ((s.parts[p].rings[r]).pollDiv.toNat + 1) = 0))
    (fun r s => pollRing p r s) s

/-- The polls of a frame whose number is a multiple of 64, for one function: rings without an active beat grid, and the
event ring where ring 0 is DISABLED or STOPPED. DESIGN CHOICE (log entry 87): PF0's event ring is polled here too, at the
frames of comb 0. DESIGN CHOICE (log entry 88): ring 0 with ENABLE 0 that still drains is not polled, and its partition's event
ring is then polled at no poll. -/
def effPoll64 (f : Fn) (s : State) : State :=
  match partOfFn f with
  | none => if frameOf s 0 % 64 = 0 ∧ slotOf s 0 = 0 then pollEvents f s else s
  | some p =>
    if !s.parts[p].live ∨ frameOf s p % 64 ≠ 0 ∨ slotOf s p ≠ 0 then s
    else
      let s := forEach ((fins 16).filter fun r => !(s.combs[serving s p r]).hum.active) (fun r s => pollRing p r s) s
      let g := s.parts[p].rings[(0 : Ring)]
      if g.state = 0 ∨ g.state = 3 then pollEvents f s else s

/-- A sequencer that waits in BEAT_DONE goes on at the boundary (R70). -/
def wakeBeat (k : Comb) (s : State) : State :=
  if s.combs[k].seq.state = 2 ∧ s.combs[k].seq.stall = 7 then s.modSeq k fun q => { q with state := 1, stall := 0 } else s

/-- Comb k enters the grid of a timetable: its flows start; a first grid begins beat 0, for which its sequencer has waited
(R63, R70, R396). -/
def enterGrid (p : Part) (t : Timetable) (k : Comb) (s : State) : State :=
  (s.modHum k (startGrid t (frameOf s k))).modRouter k fun r =>
    { r with flows := carryFlows r.flows (flowsOfComb s p k t), txFlits := 0, rxFlits := 0 }

/-- A member router without a fabric key raises NO_FABRIC_KEY at the start of a grid (R467). -/
def needKey (p : Part) (k : Comb) (s : State) : State :=
  match memberJob s k with
  | none => s
  | some j => if s.combs[k].router.jobs[j].keyed then s else fabricAbort p k 0x20 s

/-- The next timetable takes effect on the combs that stand at slot 0 of its origin frame; on the last of them it is the
partition's timetable. Beat 0 is polled as a beat of which every N is a divisor (R63, R69, R91). -/
def effGridStart (p : Part) (s : State) : State :=
  match s.parts[p].nextTt with
  | none => s
  | some t =>
    if s.parts[p].stopped then s
    else
      let ks := (combsOf s p).filter fun k => atOrigin s k t
      let first := ks.filter fun k => !s.combs[k].hum.active
      let s := forEach ks (enterGrid p t) s
      let s := if (combsOf s p).any fun k => s.combs[k].hum.due then s
        else s.modPart p fun q => { q with tt := some t, nextTt := none }
      forEach first (fun k s => pollDue k p 0 s) (forEach ks (needKey p) s)

/-- BEAT_GRID_START. -/
def execBeatGridStart (p : Part) (s : State) : Out := done (effGridStart p s)

/-- FRAME64_POLL. -/
def execFrame64Poll (f : Fn) (s : State) : Out := done (effPoll64 f s)

/-! ### Beat boundaries (R70–R77, R403, R547) -/

/-- The first unit of time of the next beat of comb k. -/
def boundaryOf (h : Hum) : Nat := (h.beatStart + h.beatFrames.toNat + 1) * frameUnits

/-- Whether a time lies in slot 0 of a beat that begins at b. -/
def inFirstSlot (t b : Nat) : Bool := decide (b ≤ t) && decide (t < b + slotUnits)

/-- Whether comb k stands at slot 0 of its next beat. -/
def atBoundary (s : State) (k : Comb) : Bool :=
  let h := s.combs[k].hum
  h.active && inFirstSlot h.time (boundaryOf h)

/-- The whole slots between a marker and a boundary; none for an absent marker or one posted at the boundary (R71, R74). -/
def slackAt (marker : Option Nat) (b : Nat) : Option Nat :=
  match marker with
  | none => none
  | some m => if m < b then some ((b - m) / slotUnits) else none

/-- Whether a slack lies below WARN × B × 512 ÷ 64 (R74). -/
def slackIsLow (h : Hum) (x : Nat) : Bool := decide (x * 64 < h.warn.toNat * (h.beatFrames.toNat + 1) * 512)

/-- The slack of a beat recorded, and SLACK_LOW where it is low (R74). -/
def recordSlack (k : Comb) (x : Nat) (s : State) : State :=
  let low := slackIsLow s.combs[k].hum x
  let s := s.modHum k fun h => { h with lastSlack := x, slackLow := if low then hit 16 h.slackLow else h.slackLow }
  if low then ewCount k 5 1 s else s

/-- A 16-byte dispatch record (R403). -/
def dispRec (beat : BitVec 48) (tokens dropped deferred : Nat) : Bytes :=
  leBytes 4 beat.toNat ++ leBytes 4 tokens ++ leBytes 4 dropped ++ leBytes 4 deferred

/-- Flits of a flow that wait at a beat's end, and their tokens. -/
def waiting (f : FlowRt) (beat : BitVec 48) : List QFlit := f.queue.filter fun x => decide (x.fromBeat ≤ beat.toNat)
def tokensIn (qs : List QFlit) : Nat := (qs.map (·.tokens)).sum

/-- The FABRIC descriptors among some flits take dropped or newly deferred tokens; a dropped transfer ends with the beat
(R402, R403). -/
def markOverflow (p : Part) (k : Comb) (drop : Bool) (qs : List QFlit) (s : State) : State :=
  forEach ((qs.filterMap (·.desc)).dedup) (fun d s =>
    let n := tokensIn (qs.filter fun q => decide (q.desc = some d) && (drop || !q.late))
    s.modDesc p d.ring d.idx fun e =>
      let e := { e with fails := e.fails ++ [(stDispatchOverflow, if drop then w32 n else 0, if drop then 0 else BitVec.ofNat 56 n, k)] }
      if drop then e.decide' stDispatchOverflow (w32 n) (BitVec.ofNat 56 (e.fails.map fun f => f.2.2.1.toNat).sum) k else e) s

/-- Transfers among some waiting flits that drop or defer tokens for the first time: each has one last flit (R403). -/
def newlyLate (qs : List QFlit) : Nat := (qs.filter fun q => q.last && !q.late).length

/-- A sending flow after a beat's end: DROP empties what waited, DEFER marks it. -/
def endTxQueue (fl : Flow) (beat : BitVec 48) (g : FlowRt) : FlowRt :=
  { g with queue := if fl.defer then g.queue.map fun x => if x.fromBeat ≤ beat.toNat then { x with late := true } else x
                    else g.queue.filter fun x => !decide (x.fromBeat ≤ beat.toNat)
           beatTokens := 0, beatFlits := 0 }

/-- The end of a beat for one sending dispatch flow: DROP, which ends the transfers it cuts and so counts them, or DEFER;
DISP_OVF, and the record at TX_STAT (R402, R403). -/
def endTxFlow (p : Part) (k : Comb) (fl : Flow) (f : FlowRt) (beat : BitVec 48) (s : State) : State :=
  let qs := waiting f beat
  let n := tokensIn qs
  let s := if n = 0 then s else markOverflow p k (!fl.defer) qs s
  let s := s.modRouter k fun r => { r with dispOvf := hitN 32 (newlyLate qs) r.dispOvf }
  let s := if fl.defer then s else forEach (qs.filterMap (·.sem)) (fun i s => semApply p i true 1 s) s
  let s := if f.beatTokens = 0 ∧ n = 0 then s
    else combWrite k fl.txStat (dispRec beat f.beatTokens (if fl.defer then 0 else n) (if fl.defer then n else 0)) s
  s.modRouter k fun r => { r with flows := r.flows.map fun g =>
    if g.tx ∧ g.index = f.index then endTxQueue fl beat g else g }

/-- The end of a beat for one receiving dispatch flow: the record at RX_STAT. -/
def endRxFlow (k : Comb) (fl : Flow) (f : FlowRt) (beat : BitVec 48) (s : State) : State :=
  let s := if f.beatTokens = 0 then s else combWrite k fl.rxStat (dispRec beat f.beatTokens 0 0) s
  s.modRouter k fun r => { r with flows := r.flows.map fun g =>
    if !g.tx ∧ g.index = f.index then { g with beatTokens := 0, beatFlits := 0 } else g }

/-- The end of a beat for every flow of a comb. -/
def endFlows (p : Part) (k : Comb) (beat : BitVec 48) (s : State) : State :=
  forEach s.combs[k].router.flows (fun f s =>
    match (ttOf s p k).bind fun t => t.flows[f.index]? with
    | none => s
    | some fl =>
      if !fl.dispatch then s.modRouter k fun r => { r with flows := r.flows.map fun g =>
        if g.tx = f.tx ∧ g.index = f.index then { g with beatFlits := 0 } else g }
      else if f.tx then endTxFlow p k fl f beat s else endRxFlow k fl f beat s) s

/-- LAST, and PEAK since the latest timetable admission (R556). -/
def recordEnergy (p : Part) (uj : Word) (s : State) : State :=
  s.modPart p fun q => { q with energy := uj, peak := if q.peak.toNat < uj.toNat then uj else q.peak }

/-- The energy of a completed beat reported once for a partition, with the WARNING of R77 when it exceeds E_j by more than
5 % (R547). -/
def reportEnergy (p : Part) (uj : Word) (s : State) : State :=
  let s := recordEnergy p uj s
  match s.parts[p].tt with
  | none => s
  | some t => if t.energy * 105 < uj.toNat * 100 then postEvent p evWarning 0xC0 p (uj.setWidth 56) s else s

/-- The other combs of a partition that reach the same boundary sample their markers there although the job is aborted by
then (R71, R72). -/
def keepMarkers (p : Part) (k : Comb) (b : Nat) (s : State) : State :=
  forEach ((combsOf s p).filter fun j => decide (j ≠ k)) (fun j s => s.modHum j fun h =>
    if h.active ∧ boundaryOf h = b then { h with missed := some (b, h.marker) } else h) s

/-- The overrun of comb k at the boundary b (R72). -/
def overrun (k : Comb) (p : Part) (beat : BitVec 48) (b : Nat) (s : State) : State :=
  let s := keepMarkers p k b (s.modHum k fun h => { h with overrun := hit 16 h.overrun })
  jobFault p k 0x01 stBeatOverrun (beat.setWidth 32) 0 s

/-- The marker of comb k sampled at a boundary at which another comb of its partition has already overrun: its slack is
recorded, or its own overrun counted (R71, R72). -/
def lateSample (k : Comb) (s : State) : State :=
  match s.combs[k].hum.missed with
  | none => s
  | some (b, m) =>
    if !inFirstSlot s.combs[k].hum.time b then s else
    let s := s.modHum k fun h => { h with missed := none }
    match slackAt m b with
    | some x => recordSlack k x s
    | none => s.modHum k fun h => { h with overrun := hit 16 h.overrun }

/-- A beat boundary of comb k (R71): the marker is sampled, the beat number advances, a waiting BEAT_DONE completes, flows
end their beat, the lowest comb reports the energy, and due rings are polled; an absent marker is an overrun. -/
def effBoundary (k : Comb) (uj : Word) (s : State) : State :=
  match partOf s k with
  | none => s
  | some p =>
    if !atBoundary s k then lateSample k s else
    let h := s.combs[k].hum
    let slack := slackAt h.marker (boundaryOf h)
    let s := endFlows p k h.beat s
    let s := match slack with
      | some x => recordSlack k x s
      | none => s
    let s := s.modHum k fun h => { h with beat := h.beat + 1, beatStart := h.beatStart + h.beatFrames.toNat + 1, marker := none }
    let s := wakeBeat k s
    let s := if k = p then reportEnergy p uj s else s
    let s := if slack.isNone then overrun k p h.beat (boundaryOf h) s else s
    pollDue k p (h.beat.toNat + 1) s

/-! ### Time on an empty queue (R46, R47, R485; log entry 3) -/

/-- The watchdog of a sequencer at the end of a frame: a frame without an issue counts while it is RUNNING or STALLED other
than at BEAT; any issue clears the count. -/
def watchFrame (q : Seq) : Seq :=
  if (q.state = 1 ∨ q.state = 2) ∧ q.stall ≠ 7 ∧ q.issued = q.wdogIssue then { q with wdogFrames := q.wdogFrames + 1 }
  else { q with wdogFrames := 0, wdogIssue := q.issued }

/-- The hum after one slot of the reference: the router clock runs faster or slower by the slew rate, and its gain or loss
shows as whole clocks; a slot number is never skipped (R48, R53). -/
def humSlot (h : Hum) : Hum :=
  let c := h.carry + slotUnits * h.slew
  let up : Int := clockUnits * 1000000
  let t := h.time + slotUnits
  if up ≤ c ∧ (t + clockUnits) / slotUnits = h.time / slotUnits + 1 then { h with time := t + clockUnits, carry := c - up }
  else if c ≤ -up then { h with time := t - clockUnits, carry := c + up }
  else { h with time := t, carry := c }

/-- One slot passes at a comb: its router's hum runs on while the router domain is powered. -/
def combSlot (c : CombState) : CombState :=
  if !c.routerPwr then c
  else
    let h := humSlot c.hum
    { c with hum := h, seq := if h.time / frameUnits = c.hum.time / frameUnits then c.seq else watchFrame c.seq }

/-- One slot passes. -/
def passSlot (s : State) : State := { s with combs := s.combs.map combSlot }

/-- BEAT_BOUNDARY. -/
def execBeatBoundary (k : Comb) (uj : Word) (s : State) : Out := done (effBoundary k uj s)

end Sys2Proof.Machine
end

