-- ==== Sys2Proof/Machine/Rings.lean ====
section
/-! DEFINITION. Rings: polls answered, descriptors fetched, records written, rings enabled and disabled (R81–R94,
R101–R105). -/

namespace Sys2Proof.Machine

/-! ### Polls answered (R89, R90, R92) -/

/-- The head word as a ring accepts it: its epoch, and no further ahead than the records written (R89). -/
def headOk (epoch written head : Word) (w : DbWord) : Bool :=
  decide (w.epoch = epoch) && decide ((w.count - head).toNat ≤ (written - head).toNat)

/-- A ring after the head word of a poll. -/
def RingState.takeHead (g : RingState) (w : DbWord) : RingState :=
  if headOk g.epoch g.written g.head w then { g with head := w.count } else { g with staleDb := hit 16 g.staleDb }

/-- Whether a doorbell word with a valid epoch makes a ring fault (R90). -/
def RingState.dbFault (g : RingState) (w : DbWord) : Bool :=
  decide (w.epoch = g.epoch) && decide (2 ^ ringLog g.pass < (w.count - g.consumed).toNat)

/-- A ring after the doorbell word of a poll that makes no fault. -/
def RingState.takeDb (g : RingState) (w : DbWord) : RingState :=
  if w.epoch = g.epoch then { g with dbCount := w.count, dbEpoch := w.epoch } else { g with staleDb := hit 16 g.staleDb }

/-- Descriptors a poll wants, and completion slots not yet spoken for (R92). -/
def RingState.wanted (g : RingState) : Nat := min (g.dbCount - g.consumed).toNat 256
def RingState.slotsFree (g : RingState) : Nat := 2 ^ ringLog g.pass - (g.consumed - g.head).toNat

/-- The host reads of n descriptors, cut where the ring wraps. -/
def fetchReads (s : State) (p : Part) (r : Ring) (g : RingState) (n : Nat) : List HostItem :=
  let L := 2 ^ ringLog g.pass
  let i := g.consumed.toNat % L
  let a := min n (L - i)
  let base := g.sqBase.toNat
  hostReads s (fnOf p) (base + 64 * i) (64 * a) (.descriptor p r) ++
    (if a < n then hostReads s (fnOf p) base (64 * (n - a)) (.descriptor p r) else [])

/-- A ring begins to fetch what its limits allow (R92). -/
def startFetch (p : Part) (r : Ring) (s : State) : State :=
  let g := s.parts[p].rings[r]
  if g.fetching ≠ 0 then s else
  let n := min g.wanted g.slotsFree
  let s := s.modRing p r fun g => { g with fetching := n, cqFull := if n < g.wanted then hit 16 g.cqFull else g.cqFull }
  if n = 0 then s else hostPutAll (fnOf p) (fetchReads s p r g n) s

/-- A ring fault: STOPPED, RING_FAULT, and a FAULT record that names the ring (R90). -/
def ringFault (p : Part) (r : Ring) (s : State) : State :=
  postEvent p evFault 0xE0 (serving s p r) (BitVec.ofNat 56 r.val)
    (s.modRing p r fun g => { g with state := 3, before := 3, fault := hit 16 g.fault, fetching := 0 })

/-- The words of one ring's poll arrive: the head word is judged first, and a doorbell word that makes a ring fault stops the
ring (R89, R90). -/
def pollAnswer (p : Part) (r : Ring) (db head : DbWord) (s : State) : State :=
  let g := s.parts[p].rings[r]
  if !g.polled then s else
  let s := s.modRing p r fun g => { g with polled := false }
  if !g.enable ∨ (g.state ≠ 1 ∧ g.state ≠ 2) then s
  else
    let s := s.modRing p r fun g => g.takeHead head
    if g.dbFault db then ringFault p r s else startFetch p r (s.modRing p r fun g => g.takeDb db)

/-- An event ring after the head word of a poll (R89). -/
def EvRing.takeHead (e : EvRing) (w : DbWord) : EvRing :=
  let e' := { e with polled := false }
  if !e.polled ∨ !e.enable then e'
  else if headOk e.epoch e.written e.head w then { e' with head := w.count } else { e' with stale := hit 16 e.stale }

/-- The function that polls for a ring or an event ring. -/
def pollFn (src : PollSrc) : Fn :=
  match src with
  | .ring p _ => fnOf p
  | .events f => f

/-- The words of a poll arrive, for a ring or an event ring: once the reads have been issued. -/
def effDoorbell (src : PollSrc) (db head : DbWord) (s : State) : State :=
  if !hostIssued s (pollFn src) (.word src) then s else
  let s := hostArrived (pollFn src) (.word src) s
  match src with
  | .ring p r => pollAnswer p r db head s
  | .events f =>
    match partOfFn f with
    | none => s.modMod fun m => { m with evq := m.evq.takeHead head }
    | some p => s.modPart p fun q => { q with evq := q.evq.takeHead head }

/-- DOORBELL_READ_DONE. -/
def execDoorbellReadDone (src : PollSrc) (db head : DbWord) (s : State) : Out := done (effDoorbell src db head s)

/-! ### Fetch (R86, R92) -/

/-- The fetched descriptors of a ring, numbered from CONSUMED. -/
def fetched (base : Word) (order : Nat) (descs : List Bytes) : List Desc :=
  descs.mapIdx fun i b => { idx := base + w32 i, bytes := b, order := order + i }

/-- Fetched descriptors arrive: each speaks for a completion slot. -/
def effFetchDone (p : Part) (r : Ring) (descs : List Bytes) (s : State) : State :=
  if !hostIssued s (fnOf p) (.descriptor p r) then s else
  let s := hostArrived (fnOf p) (.descriptor p r) s
  let g := s.parts[p].rings[r]
  if g.fetching = 0 ∨ descs.length ≠ g.fetching ∨ !descs.all (fun b => b.length == 64) then s else
  let n := s.parts[p].fetchNo
  s.modPart p fun q => { q with
    fetchNo := n + descs.length
    rings := upd q.rings r fun g => { g with
      fetching := 0, consumed := g.consumed + w32 descs.length, descs := g.descs ++ fetched g.consumed n descs } }

/-- DESCRIPTOR_FETCH_DONE. -/
def execDescriptorFetchDone (p : Part) (r : Ring) (descs : List Bytes) (s : State) : Out := done (effFetchDone p r descs s)

/-! ### Completion (R99, R101, R107) -/

/-- DESCRIPTOR_COMPLETE: the record of a decided descriptor is written. -/
def effComplete (p : Part) (r : Ring) (idx : Word) (s : State) : State :=
  match findDesc s.parts[p].rings[r] idx with
  | some d => if d.stage = .done then writeRecord p r d s else s
  | none => s

/-- DESCRIPTOR_COMPLETE. -/
def execDescriptorComplete (p : Part) (r : Ring) (idx : Word) (s : State) : Out := done (effComplete p r idx s)

/-! ### Ring registers (R84, R88) -/

/-- LOG2_SIZE and POLL_DIV of a written HST_SQ_CFG. -/
def cfgFields (cfg : Word) (g : RingState) : RingState := { g with log2 := cfg.extractLsb' 1 5, pollDiv := cfg.extractLsb' 8 6 }

/-- A ring enabled: the counts start at 0 and the phase at 1 (R88); its pass keeps the size and the base it begins with until
its last record is written (R84). -/
def RingState.start (g : RingState) : RingState :=
  { g with enable := true, state := 1, consumed := 0, written := 0, head := 0, dbCount := 0, dbEpoch := g.epoch, descs := []
           fetching := 0, polled := false, afterWait := false, pass := g.log2, passCq := g.cqBase }

/-- A descriptor of a ring that is disabled: unstarted ones and unsatisfied SYNC waits end with RESET_ABORTED (R84, R100). -/
def Desc.disable (d : Desc) (k : Comb) : Desc :=
  if d.stage = .fetched ∨ (fieldAt d.bytes 0 1 = 5 ∧ fieldAt d.bytes 18 1 % 4 < 2) then d.decide' stResetAborted 0 0 k else d

/-- A ring disabled: fetching stops, and it reads DISABLED once its records are written (R84). -/
def RingState.disable (g : RingState) (k : Comb) : RingState :=
  { g with enable := false, fetching := 0, polled := false, descs := g.descs.map fun d => d.disable k
           state := if g.descs.isEmpty then 0 else g.state }

/-- HST_SQ_CFG written (R84): ENABLE 1 takes effect once the ring has reached DISABLED; while ENABLE is 1, LOG2_SIZE keeps
its value. -/
def RingState.writeCfg (g : RingState) (k : Comb) (cfg : Word) : RingState :=
  if g.enable then
    let g := { g with pollDiv := cfg.extractLsb' 8 6 }
    if cfg.getLsbD 0 then g else g.disable k
  else
    let g := cfgFields cfg g
    if cfg.getLsbD 0 ∧ g.state = 0 then g.start else g

/-- Whether a recovery or a DEGRADED comb keeps ring r of partition p STOPPED (R181, R483). -/
def keepsStopped (s : State) (p : Part) (r : Ring) : Bool :=
  (s.parts[p].recov.any fun x => decide (x.scope = 0) || (decide (x.scope = 1) && x.combs.contains (serving s p r))) ||
    (combsOf s p).any fun k => s.combs[k].cellRegs.degraded

/-- HST_SQ_CFG of ring r written through VF(p + 1); a ring enabled during the recovery that stopped it stays STOPPED. -/
def writeSqCfg (p : Part) (r : Ring) (cfg : Word) (s : State) : State :=
  if s.parts[p].live then
    s.modRing p r fun g =>
      let g := g.writeCfg (serving s p r) cfg
      if g.enable && keepsStopped s p r then { g with state := 3 } else g
  else s

/-- RING_ENABLE: a write that sets ENABLE. -/
def execRingEnable (p : Part) (r : Ring) (cfg : Word) (s : State) : Out :=
  done (if cfg.getLsbD 0 ∧ regsServed s then writeSqCfg p r cfg s else s)

/-- RING_DISABLE: a write that clears ENABLE. -/
def execRingDisable (p : Part) (r : Ring) (cfg : Word) (s : State) : Out :=
  done (if cfg.getLsbD 0 ∨ !regsServed s then s else writeSqCfg p r cfg s)

/-- HST_EQ_CFG written: the same for an event ring (R84, R88). -/
def EvRing.writeCfg (e : EvRing) (cfg : Word) : EvRing :=
  if e.enable then (if cfg.getLsbD 0 then e else { e with enable := false, polled := false })
  else
    let e := { e with log2 := cfg.extractLsb' 1 5 }
    if cfg.getLsbD 0 then { e with enable := true, written := 0, head := 0, polled := false } else e

/-- HST_EQ_CFG of a function written. -/
def writeEqCfg (f : Fn) (cfg : Word) (s : State) : State :=
  match partOfFn f with
  | none => s.modMod fun m => { m with evq := m.evq.writeCfg cfg }
  | some p => if s.parts[p].live then s.modPart p fun q => { q with evq := q.evq.writeCfg cfg } else s

/-- EVENT_RING_ENABLE. -/
def execEventRingEnable (f : Fn) (cfg : Word) (s : State) : Out :=
  done (if cfg.getLsbD 0 ∧ regsServed s then writeEqCfg f cfg s else s)

/-- EVENT_RING_DISABLE. -/
def execEventRingDisable (f : Fn) (cfg : Word) (s : State) : Out :=
  done (if cfg.getLsbD 0 ∨ !regsServed s then s else writeEqCfg f cfg s)

end Sys2Proof.Machine
end

