-- ==== Sys2Proof/Machine/DescOps.lean ====
section
/-! DEFINITION. The checks a descriptor passes before it starts: format, access and context (R95, R455, R462). -/

namespace Sys2Proof.Machine

/-! ### Fields of a descriptor -/

def Desc.opcode (d : Desc) : Nat := fieldAt d.bytes 0 1
def Desc.combMask (d : Desc) : Nat := fieldAt d.bytes 3 1
/-- The field of n bytes at an offset. -/
def Desc.field (d : Desc) (off n : Nat) : Nat := fieldAt d.bytes off n

/-- Opcodes of the descriptor table. -/
def opCompute : Nat := 1
def opCopy : Nat := 2
def opFabric : Nat := 3
def opUpdate : Nat := 4
def opSync : Nat := 5
def opFence : Nat := 6
def opTimetable : Nat := 7
def opCheckpoint : Nat := 8
def opRestore : Nat := 9
def opEgress : Nat := 10
def opSmoke : Nat := 11

/-! ### Format (R95) -/

/-- Bits of header byte i that a field covers. -/
def hdrMask (i : Nat) : Byte :=
  ([0xFF, 0x01, 0xCF, 0xFF, 0xFF, 0xFF, 0xFF, 0xFF, 0x03, 0x0F, 0xFF, 0x8F, 0, 0, 0, 0] : Bytes).getD i 0

/-- Runs of body bytes that fields cover whole: first byte and count. -/
def bodyRuns (op : Nat) : List (Nat × Nat) :=
  if op = opCompute then [(16, 32)] else if op = opCopy then [(16, 20)]
  else if op = opFabric then [(16, 2), (20, 26)] else if op = opUpdate then [(16, 4), (24, 16)]
  else if op = opSync then [(16, 1), (24, 8)] else if op = opTimetable then [(16, 12)]
  else if op = opCheckpoint then [(16, 12), (32, 8)] else if op = opRestore then [(16, 12), (32, 12)]
  else if op = opEgress then [(16, 20)] else if op = opSmoke then [(16, 12)] else []

/-- Body bytes that fields cover in part. -/
def bodyParts (op : Nat) : List (Nat × Byte) :=
  if op = opCopy then [(36, 3), (37, 3)] else if op = opSync then [(17, 0x0F), (18, 3)]
  else if op = opFence then [(16, 3)] else if op = opSmoke then [(28, 1), (29, 7)] else []

/-- Bits of byte i of a descriptor that a field covers. -/
def coverMask (op i : Nat) : Byte :=
  if i < 16 then hdrMask i
  else if (bodyRuns op).any fun r => decide (r.1 ≤ i) && decide (i < r.1 + r.2) then 0xFF
  else ((bodyParts op).find? fun r => decide (r.1 = i)).elim 0 (·.2)

/-- The offset of the RSV field that byte i lies in: header fields that span bytes are named by their first. -/
def rsvField (i : Nat) : Nat := if i = 11 then 10 else if 12 ≤ i ∧ i < 16 then 12 else i

/-- Offsets of RSV fields that are not 0. -/
def rsvBad (d : Desc) : List Nat :=
  ((List.range 64).filter fun i => (d.bytes.getD i 0) &&& ~~~ (coverMask d.opcode i) != 0).map rsvField

/-- A field's offset when its condition fails. -/
def badIf (c : Bool) (off : Nat) : List Nat := if c then [off] else []

/-- Offsets of body fields outside their stated range or alignment. DESIGN CHOICE (log entry 91): an ENTRY that is not below
PROG_LEN counts as outside the range of ENTRY. -/
def bodyBad (d : Desc) : List Nat :=
  let f := d.field
  if d.opcode = opCompute then
    badIf (f 16 8 % 64 ≠ 0) 16 ++ badIf (f 24 4 < 64 || 16777216 < f 24 4 || f 24 4 % 64 ≠ 0) 24 ++
      badIf (f 28 4 % 8 ≠ 0 || f 24 4 ≤ f 28 4) 28
  else if d.opcode = opCopy then
    badIf (f 32 4 = 0) 32 ++ badIf (2 < f 36 1 % 4) 36 ++ badIf (f 37 1 % 4 = 0 || f 37 1 % 4 = 3) 37
  else if d.opcode = opFabric then badIf (f 20 4 = 0) 20
  else if d.opcode = opUpdate then
    badIf (4095 < f 16 2) 16 ++ badIf (f 18 2 = 0 || 4096 < f 16 2 + f 18 2) 18 ++ badIf (f 32 8 % 32 ≠ 0) 32
  else if d.opcode = opFence then badIf (f 16 1 % 4 = 3) 16
  else if d.opcode = opTimetable then badIf (f 16 8 % 64 ≠ 0) 16 ++ badIf (f 24 4 < 64 || 1048576 < f 24 4) 24
  else if d.opcode = opCheckpoint then badIf (f 16 8 % 64 ≠ 0) 16 ++ badIf (f 24 4 = 0 || 65536 < f 24 4) 24
  else if d.opcode = opRestore then badIf (f 24 4 < 64 || 1048576 < f 24 4) 24 ++ badIf (f 40 4 = 0 || 65536 < f 40 4) 40
  else if d.opcode = opEgress then badIf (f 32 4 = 0) 32
  else if d.opcode = opSmoke then badIf (f 24 4 < 102400) 24
  else []

/-- EGRESS and RECIPIENT: 0 unless OPCODE is EGRESS, and RECIPIENT 0 unless the class is SEALED. -/
def egressBad (d : Desc) : List Nat :=
  if d.opcode = opEgress then badIf (d.field 8 1 % 4 ≠ clsSealed && d.field 9 1 % 16 ≠ 0) 9
  else badIf (d.field 8 1 % 4 ≠ 0) 8 ++ badIf (d.field 9 1 % 16 ≠ 0) 9

/-- The byte offset of the first bad field, if any. -/
def formatBad (d : Desc) : Option Nat :=
  if d.opcode = 0 ∨ opSmoke < d.opcode then some 0
  else (rsvBad d ++ egressBad d ++ bodyBad d).min?

/-! ### Access (R95) -/

/-- The combs of a partition as a mask. -/
def partMask (s : State) (p : Part) : Nat := ((combsOf s p).map fun k => 2 ^ k.val).sum

/-- The combs a mask names outside a partition, as a mask. -/
def outside (s : State) (p : Part) (mask : Nat) : Nat :=
  (((fins 8).filter fun k => mask.testBit k.val && !inPart s p k).map fun k => 2 ^ k.val).sum

/-- The flow of a FABRIC descriptor and the comb that sends on it. -/
def descFlow (s : State) (p : Part) (i : Nat) : Option (Comb × Flow) :=
  (combsOf s p).findSome? fun k => match flowOf s p k i with
    | some fl => if combAt p fl.pos = k then some (k, fl) else none
    | none => none

/-- Bytes a FABRIC descriptor sends: 512 for each flit, or TOKEN_BYTES for each token. -/
def fabricBytes (d : Desc) (fl : Flow) : Nat := d.field 20 4 * (if fl.dispatch then fl.tokenBytes else 512)

/-- The ranges of a descriptor's body: a space (1 PPA, 2 comb store), a start and a length. -/
def bodyRanges (s : State) (p : Part) (d : Desc) : List (Nat × Nat × Nat) :=
  let f := d.field
  if d.opcode = opCompute then [(1, f 16 8, f 24 4)]
  else if d.opcode = opCopy then [(f 36 1 % 4, f 16 8, f 32 4), (f 37 1 % 4, f 24 8, f 32 4)]
  else if d.opcode = opFabric then
    (match descFlow s p (f 16 2) with
     | some (_, fl) => [(1, f 24 8, fabricBytes d fl)]
     | none => [])
  else if d.opcode = opUpdate then (if f 32 8 = 0 then [] else [(1, f 32 8, 32 * sizeOf s p * f 18 2)])
  else if d.opcode = opTimetable then [(1, f 16 8, f 24 4)]
  else if d.opcode = opEgress then [(1, f 16 8, f 32 4)]
  else []

/-- The first offending address of a range, if any. -/
def rangeBad (s : State) (p : Part) (r : Nat × Nat × Nat) : Option Nat :=
  if r.1 = 1 then (if inPpa s p r.2.1 r.2.2 then none else some (if s.parts[p].ready then max r.2.1 (ppaEnd s p) else r.2.1))
  else if r.1 = 2 then (if r.2.1 + r.2.2 ≤ combStoreBytes then none else some (max r.2.1 combStoreBytes))
  else none

/-- Whether a PPA has a bit set above those that the partition's PPA space needs. -/
def upperBits (s : State) (p : Part) (a : Nat) : Bool := decide (2 ^ (Nat.log2 (ppaEnd s p - 1) + 1) ≤ a)

/-- DETAIL2 of the access check, if it fails: COMBS, then the ranges in their order, then ARG_PPA, whose upper bits must be 0. -/
def accessBad (s : State) (p : Part) (d : Desc) : Option Nat :=
  let out := outside s p d.combMask
  if out ≠ 0 then some out
  else if d.opcode = opSmoke ∧ d.field 28 1 % 2 = 1 ∧ outside s p (2 ^ (d.field 29 1 % 8)) ≠ 0 then some (2 ^ (d.field 29 1 % 8))
  else match (bodyRanges s p d).findSome? (rangeBad s p) with
    | some a => some a
    | none => if d.opcode = opCompute ∧ upperBits s p (d.field 32 8) then some (d.field 32 8) else none

/-! ### Context (R455, R462) -/

/-- Opcodes that the context state gates. -/
def gatedOp (op : Nat) : Bool := [opCompute, opUpdate, opFabric, opTimetable, opCheckpoint, opRestore, opEgress].contains op

/-- Whether key ID i is loaded on every super of the partition. -/
def keyLoaded (s : State) (p : Part) (i : KeyId) : Bool := (combsOf s p).all fun k => s.supers[k].slots[i].state == 1

/-- The listed key IDs that are not loaded, ascending. -/
def missingKeys (s : State) (p : Part) (m : Manifest) : List KeyId :=
  (fins 64).filter fun i => m.keys.any (fun e => decide (e.id = i)) && !keyLoaded s p i

/-- Whether the fabric key is required (R456). -/
def fabricRequired (s : State) (p : Part) (m : Manifest) : Bool :=
  decide (m.ttDigest ≠ 0) || (decide (m.owners.length = 1) && (combsOf s p).any fun k =>
    (fins 12).any fun j => let e := s.combs[k].router.jobs[j]
      decide (e.role = 1) && decide (e.jobId = m.jobId) && e.leased)

/-- Whether the member entries of the partition's routers hold the fabric key. -/
def fabricLoaded (s : State) (p : Part) : Bool :=
  let ks := (combsOf s p).filterMap fun k => (memberJob s k).map fun j => s.combs[k].router.jobs[j].keyed
  !ks.isEmpty && ks.all id

/-- The first required key that is missing, as DETAIL of R462 gives it; 0 when the context is READY. -/
def missingCode (s : State) (p : Part) (m : Manifest) : Nat :=
  match missingKeys s p m with
  | i :: _ => i.val
  | [] => if fabricRequired s p m && !fabricLoaded s p then 0xFF
          else if m.policy ≠ 0 ∧ s.parts[p].ctx.ckptKey.isNone then 0xFE else 0

/-- The queen judges the required keys of a bound context (R456): READY when none is missing, else BOUND. -/
def judgeContext (p : Part) (s : State) : State :=
  match s.parts[p].ctx.man with
  | none => s
  | some m =>
    if s.parts[p].ctx.state = 1 ∨ s.parts[p].ctx.state = 2 then
      s.modCtx p fun c => { c with state := if missingCode s p m = 0 then 2 else 1 }
    else s

/-- The context of comb k's partition is judged. -/
def judgeComb (k : Comb) (s : State) : State :=
  match partOf s k with
  | some p => judgeContext p s
  | none => s

/-- DETAIL of the context check, if it fails. -/
def contextBad (s : State) (p : Part) (d : Desc) : Option Nat :=
  let c := s.parts[p].ctx
  if !gatedOp d.opcode then none
  else if c.state = 0 then some 0
  else if c.state = 1 then some ((c.man.map (missingCode s p)).getD 0)
  else none

/-- The status of the first check that a descriptor fails before it starts. -/
def startBad (s : State) (p : Part) (d : Desc) : Option (Byte × Word × BitVec 56) :=
  if s.parts[p].removing then some (stResetAborted, 8, 0) else
  match formatBad d with
  | some o => some (stFormatError, w32 o, 0)
  | none => match accessBad s p d with
    | some a => some (stAccessViolation, 0, BitVec.ofNat 56 a)
    | none => match contextBad s p d with
      | some c => some (stKeyRetired, w32 c, 0)
      | none => if d.opcode = opSmoke ∧ tearingDown s p then some (stResetAborted, 8, 0) else none

/-! ### Start (R96, R97) -/

/-- The predicate's value for a descriptor: `none` while it is unresolved on some named comb. -/
def descPred (s : State) (p : Part) (d : Desc) : Option Bool :=
  let b := d.field 2 1
  let m : PredIx := Fin.ofNat 16 b
  if b < 128 then some true
  else
    let ks := combsMask s p d.combMask
    if ks.any fun k => s.combs[k].seq.preds[m] == .pending then none
    else some (ks.all fun k => s.combs[k].seq.preds[m] == pstate (b.testBit 6))

/-- Whether a descriptor is a SYNC wait. -/
def Desc.isWait (d : Desc) : Bool := decide (d.opcode = opSync) && decide (d.field 18 1 % 4 < 2)

/-- The next descriptor of a ring to start, when ring order lets it (R96). -/
def nextToStart (g : RingState) : Option Desc :=
  match g.descs.find? fun d => d.stage = .fetched with
  | none => none
  | some d =>
    let first := (g.descs.head?.map (·.idx)) == some d.idx
    if (d.field 1 1 % 2 = 1 ∨ g.afterWait) ∧ !first then none else some d

/-- A fetched descriptor starts, fails a check, is skipped, or waits for its predicate. -/
def effStart (p : Part) (r : Ring) (s : State) : State :=
  match nextToStart s.parts[p].rings[r] with
  | none => s
  | some d =>
    let k := serving s p r
    let leave := fun s : State => s.modRing p r fun g => { g with afterWait := false }
    match startBad s p d with
    | some (st, d1, d2) => finish p r d.idx st d1 d2 k (leave s)
    | none =>
      match descPred s p d with
      | none => s
      | some false => finish p r d.idx stSkipped (w32 (d.field 2 1 % 16)) 0 k (leave s)
      | some true =>
        s.modRing p r fun g => { g.modDesc d.idx fun e => { e with stage := .started, comb := k, begun := true } with afterWait := d.isWait }

/-- DESCRIPTOR_START. -/
def execDescriptorStart (p : Part) (r : Ring) (s : State) : Out := done (effStart p r s)

/-- The started descriptor of a ring with an opcode. -/
def startedDesc (s : State) (p : Part) (r : Ring) (op : Nat) : Option Desc :=
  s.parts[p].rings[r].descs.find? fun d => decide (d.stage = .started) && decide (d.opcode = op)

/-- A started descriptor is at work. -/
def activate (p : Part) (r : Ring) (idx : Word) (f : Desc → Desc) (s : State) : State :=
  s.modDesc p r idx fun e => f { e with stage := .active }

/-- A descriptor fails with the status of a failed memory access. -/
def failMem (p : Part) (r : Ring) (idx : Word) (e : MemErr) (s : State) : State :=
  failDesc p r idx e.status.1 e.status.2.1 e.status.2.2 (serving s p r) s

end Sys2Proof.Machine
end

