-- ==== Sys2Proof/Machine/Fabric.lean ====
section
/-! DEFINITION. The Waggle fabric: coordinates and port map, strand-ports, spare lanes, job entries and leases, slots and
flits, alarms, votes and verdicts (R60, R367–R411, R500). -/

namespace Sys2Proof.Machine

/-! ### Coordinates and port map (R372–R374, R41) -/

/-- A port's power domain switched: switched off, its FAILED and SPARE fields clear (R379, R411). -/
def portPower (on : Bool) (q : PortState) : PortState := if on then { q with on := true } else {}

/-- Every strand-port of a logical port: down, and training again where it is enabled and powered (R374, R377). -/
def restartPort (p : LPort) (s : State) : State := forEach (fins 8) (fun k s => strandDown k p 0 false s) s

/-- A strand-port that has become enabled and powered begins to train (R377). -/
def startTraining (s : State) : State :=
  forEach (fins 8) (fun k s => forEach (fins 6) (fun p s =>
    let q := s.combs[k].router.ports[p]
    if q.state = 0 ∧ !q.stuck ∧ downState s p false = 1 then s.modSPort k p fun q => { q with state := 1 } else s) s) s

/-- The fields of WAG_COORD (R372). -/
def coordFields (v : DWord) (m : ModuleRegs) : ModuleRegs :=
  { m with x := v.extractLsb' 0 5, y := v.extractLsb' 5 5, z := v.extractLsb' 10 5, dimX := v.extractLsb' 16 5
           dimY := v.extractLsb' 21 5, dimZ := v.extractLsb' 26 5, attached := v.getLsbD 31 }

/-- WAG_COORD written: refused and logged while a job entry is LEASED; ATTACHED switches the port domains (R372, R41). -/
def effCoord (f : Fn) (v : DWord) (s : State) : State :=
  if f.val ≠ 0 then s
  else if anyLeased s then logRefusal "WAG_COORD" s
  else
    let was := s.mod.attached
    let s := setParents (s.modMod (coordFields v))
    if s.mod.attached = was then s
    else
      let s := forEach (fins 8) (fun q s => s.modPort q (portPower (s.mod.attached && (logPort s q).isSome))) s
      if s.mod.attached then startTraining s else forEach (fins 6) restartPort s

/-- COORD_WRITE. -/
def execCoordWrite (f : Fn) (value : DWord) (s : State) : Out := done (doIf (regsServed s) (effCoord f value) s)

/-- Whether a port-map write takes a logical port down: its physical port changes or its EN bit clears (R374). -/
def portChanged (old new : State) (p : LPort) : Bool :=
  decide (physPort old p ≠ physPort new p) || (old.mod.mapEn.getLsbD p.val && !new.mod.mapEn.getLsbD p.val)

/-- The port domains after a port-map write: a cleared EN bit powers its port off, a port that serves no logical port is off,
an enabled one is on while the module is attached (R41, R379). -/
def mapPower (old : State) (q : PPort) (s : State) : State :=
  match logPort s q with
  | none => s.modPort q (portPower false)
  | some p =>
    if old.mod.mapEn.getLsbD p.val ∧ !s.mod.mapEn.getLsbD p.val then s.modPort q (portPower false)
    else s.modPort q (portPower (s.mod.attached && (s.ports[q].on || s.mod.mapEn.getLsbD p.val || portChanged old s p)))

/-- WAG_PORTMAP written (R373, R374). -/
def effPortmap (f : Fn) (v : Word) (s : State) : State :=
  if f.val ≠ 0 then s
  else
    let old := s
    let s := s.modMod fun m => { m with mapEn := v.extractLsb' 0 6, zpSkip := v.getLsbD 6, znSkip := v.getLsbD 7 }
    let s := setParents (forEach (fins 8) (fun q s => mapPower old q s) s)
    startTraining (forEach ((fins 6).filter fun p => portChanged old s p) restartPort s)

/-- PORTMAP_WRITE. -/
def execPortmapWrite (f : Fn) (value : Word) (s : State) : Out := done (doIf (regsServed s) (effPortmap f value) s)

/-! ### Training (R377) -/

/-- A strand-port reset by EVT_RESET_CMD is complete (R488). -/
def portResetDone (k : Comb) (p : LPort) (s : State) : State :=
  if s.evt.resetPort = some (k, p) then unitResetDone domStrandPort k s else s

/-- TRAINING_DONE: both directions are UP. -/
def execTrainingDone (k : Comb) (p : LPort) (s : State) : Out :=
  done (if s.combs[k].router.ports[p].state = 1 ∧ s.combs[k].routerPwr ∧ downState s p false = 1 then
    portResetDone k p (s.modSPort k p fun q => { q with state := 2, uncorr := 0 }) else s)

/-- TRAINING_TIMEOUT: the strand-port goes DOWN. -/
def execTrainingTimeout (k : Comb) (p : LPort) (s : State) : Out :=
  done (if s.combs[k].router.ports[p].state = 1 then
    portResetDone k p (s.modSPort k p fun q => { q with state := 0 }) else s)

/-- TRAINING_RETRY: the strand-port trains again, 1 s later. -/
def execTrainingRetry (k : Comb) (p : LPort) (s : State) : Out :=
  done (if s.combs[k].router.ports[p].state = 0 ∧ !s.combs[k].router.ports[p].stuck ∧ downState s p false = 1 then
    s.modSPort k p fun q => { q with state := 1 } else s)

/-! ### Lanes and spares (R379–R381) -/

/-- The spare field of a port's direction, and the substitution in progress there. -/
def spareOf (q : PortState) (rx : Bool) : BitVec 5 := if rx then q.spareRx else q.spareTx
def substOf (q : PortState) (rx : Bool) : Option Subst := if rx then q.subRx else q.subTx

/-- A substitution in progress set or ended. -/
def setSubst (rx : Bool) (u : Option Subst) (q : PortState) : PortState := if rx then { q with subRx := u } else { q with subTx := u }

/-- The spare of a direction taken for a lane. -/
def takeSpare (rx : Bool) (lane : Fin 16) (q : PortState) : PortState :=
  if rx then { q with spareRx := BitVec.ofNat 5 lane.val } else { q with spareTx := BitVec.ofNat 5 lane.val }

/-- A lane's FAILED bit set. -/
def failLane (rx : Bool) (lane : Fin 16) (q : PortState) : PortState :=
  if rx then { q with failedRx := q.failedRx ||| (1#17 <<< lane.val) } else { q with failedTx := q.failedTx ||| (1#17 <<< lane.val) }

/-- A spare substituted for a lane of strand k: SPARE_SWAP and the monitor (R411, R509). -/
def countSwap (k : Comb) (s : State) : State :=
  ewCount k 1 1 (s.modRouter k fun r => { r with spareSwap := hit 16 r.spareSwap })

/-- A hard failure of a lane (R379): FAILED; any substitution on the port ends (R380); the spare, if free, takes the lane in
the retraining, else the strand-port stays DOWN. -/
def effLaneFail (q : PPort) (rx : Bool) (lane : Fin 16) (s : State) : State :=
  match logPort s q with
  | none => s
  | some p =>
    if !s.ports[q].on then s else
    let k := strandOf lane.val
    let free := decide (spareOf s.ports[q] rx = 31)
    let s := s.modPort q fun t => setSubst true none (setSubst false none (failLane rx lane t))
    let s := if free then countSwap k (s.modPort q (takeSpare rx lane)) else s
    strandDown k p (failedMask s p) (!free || s.combs[k].router.ports[p].stuck) s

/-- LANE_HARD_FAIL. -/
def execLaneHardFail (p : PPort) (rx : Bool) (lane : Fin 16) (s : State) : Out := done (effLaneFail p rx lane s)

/-- A lane record queued on every strand of a port (R381). -/
def sendLaneRec (p : LPort) (rec' : BitVec 2 × Nat × Word) (s : State) : State :=
  forEach (fins 8) (fun k s => s.modSPort k p fun q => { q with laneRecs := q.laneRecs ++ [rec'] }) s

/-- LANE_ERROR_WINDOW: LANE_WARN; a free receive spare starts a substitution with SPARE_REQ (R380). -/
def effLaneWarn (q : PPort) (lane : Fin 16) (s : State) : State :=
  match logPort s q with
  | none => s
  | some p =>
    if !s.ports[q].on then s else
    let k := strandOf lane.val
    let s := ewCount k 3 1 (s.modRouter k fun r => { r with laneWarn := hit 16 r.laneWarn })
    if s.ports[q].spareRx = 31 ∧ s.ports[q].subRx = none then
      sendLaneRec p (1, lane.val, 0) (s.modPort q (setSubst true (some { lane := lane })))
    else s

/-- LANE_ERROR_WINDOW. -/
def execLaneErrorWindow (p : PPort) (lane : Fin 16) (s : State) : Out := done (effLaneWarn p lane s)

/-- Whether strand k is the lowest-numbered UP strand of a port, on which a lane record counts (R381). -/
def lowestUp (s : State) (k : Comb) (p : LPort) : Bool := (fins 8).find? (fun j => portUp s j p) == some k

/-- SPARE_REQ: the transmitter drives the spare as well and answers SPARE_ACK. -/
def execSpareReq (k : Comb) (p : LPort) (lane : Fin 16) (s : State) : Out :=
  let q := physPort s p
  done (if lowestUp s k p ∧ s.ports[q].spareTx = 31 ∧ s.ports[q].subTx = none then
    sendLaneRec p (2, lane.val, 0) (s.modPort q (setSubst false (some { lane := lane, ack := true })))
  else s)

/-- SPARE_ACK: the receiver starts to train the spare. -/
def execSpareAck (k : Comb) (p : LPort) (lane : Fin 16) (s : State) : Out :=
  let q := physPort s p
  done (if lowestUp s k p ∧ s.ports[q].subRx = some { lane := lane } then
    s.modPort q (setSubst true (some { lane := lane, ack := true })) else s)

/-- SPARE_TRAIN_DONE: the receiver names a switch frame at least 16 frames ahead. -/
def effSpareTrained (q : PPort) (frame : Word) (s : State) : State :=
  match s.ports[q].subRx, logPort s q with
  | some u, some p =>
    let ahead := (frame - w32 (frameOf s (strandOf u.lane.val))).toNat
    if u.ack ∧ u.frame = none ∧ 16 ≤ ahead ∧ ahead < 2147483648 then
      sendLaneRec p (3, u.lane.val, frame) (s.modPort q (setSubst true (some { u with frame := some frame })))
    else s
  | _, _ => s

/-- SPARE_TRAIN_DONE. -/
def execSpareTrainDone (p : PPort) (frame : Word) (s : State) : Out := done (effSpareTrained p frame s)

/-- SPARE_SWITCH: the transmitter records the switch frame. -/
def execSpareSwitch (k : Comb) (p : LPort) (lane : Fin 16) (frame : Word) (s : State) : Out :=
  let q := physPort s p
  done (if lowestUp s k p ∧ s.ports[q].subTx = some { lane := lane, ack := true } then
    s.modPort q (setSubst false (some { lane := lane, ack := true, frame := some frame })) else s)

/-- The switch at slot 0 of the named frame: the lane moves to the spare, SPARE_SWAP (R380). -/
def effSpareSwitch (q : PPort) (rx : Bool) (s : State) : State :=
  match substOf s.ports[q] rx with
  | none => s
  | some u =>
    let k := strandOf u.lane.val
    if u.frame = some (w32 (frameOf s k)) ∧ slotOf s k = 0 then
      countSwap k (s.modPort q fun t => setSubst rx none (takeSpare rx u.lane t))
    else s

/-- SPARE_SWITCH_FRAME. -/
def execSpareSwitchFrame (p : PPort) (rx : Bool) (s : State) : Out := done (effSpareSwitch p rx s)

/-! ### Job entries and leases (R382–R386, R411) -/

/-- The RW fields of WAG_JOB in a written value; an entry that is no longer a member entry of the same job loses its key. -/
def jobFields (v : DWord) (e : JobEntry) : JobEntry :=
  let e' := { e with jobId := v.setWidth 32, role := v.extractLsb' 32 2, vparent := v.extractLsb' 34 4
                     vchild := v.extractLsb' 38 6, aports := v.extractLsb' 44 6 }
  if e'.role = 1 ∧ e'.jobId = e.jobId then e' else { e' with keyed := false, fkey := 0, fkgen := 0 }

/-- Whether a member write is refused: the job ID is not the one bound to comb k's partition, or another member entry
exists (R382). -/
def memberRefused (s : State) (k : Comb) (j : JobIx) (v : DWord) : Bool :=
  match partOf s k with
  | none => true
  | some p => s.parts[p].ctx.man.isNone || decide (jobOf s p ≠ v.setWidth 32) ||
      (fins 12).any fun i => decide (i ≠ j) && decide (s.combs[k].router.jobs[i].role = 1)

/-- WAG_JOB written (R382, R411). -/
def effJobWrite (f : Fn) (k : Comb) (j : JobIx) (v : DWord) (s : State) : State :=
  if f.val ≠ 0 ∨ s.combs[k].router.jobs[j].leased then s
  else if v.extractLsb' 32 2 = (3 : BitVec 2) then logRefusal "WAG_JOB" s
  else if v.extractLsb' 32 2 = (1 : BitVec 2) ∧ memberRefused s k j v then logRefusal "WAG_JOB" s
  else s.modJob k j (jobFields v)

/-- WAG_JOB_WRITE. -/
def execWagJobWrite (f : Fn) (k : Comb) (j : JobIx) (value : DWord) (s : State) : Out :=
  done (doIf (regsServed s) (effJobWrite f k j value) s)

/-- The job entry with an index, when it is one of the 12. -/
def jobAt (c : CombState) (j : Nat) : Option JobEntry := c.router.jobs[j]?

/-- Whether a write to a slot-table entry is refused (R384). -/
def leaseRefused (c : CombState) (rx : Bool) (p : LPort) (slot : Fin 512) (v : BitVec 16) : Bool :=
  let old := leaseAt c rx p.val slot.val
  let leased := fun e => ((jobAt c (entJob e)).map (·.leased)).getD false
  let live := decide (entKind v ≠ 0)
  (live && (decide (slot.val = 0) || decide (slot.val = 256))) || decide (entKind v = 3) ||
  (live && ((jobAt c (entJob v)).map fun e => decide (e.role = 0)).getD true) ||
  (live && decide (entKind old ≠ 0) && decide (entJob old ≠ entJob v)) ||
  (decide (entKind old ≠ 0) && leased old) || (live && leased v)

/-- WAG_LEASE written: refused and logged under R384, else stored; the router domain follows (R39). -/
def effLeaseWrite (f : Fn) (k : Comb) (rx : Bool) (p : LPort) (slot : Fin 512) (v : BitVec 16) (s : State) : State :=
  if f.val ≠ 0 then s
  else if leaseRefused s.combs[k] rx p slot v then logRefusal "WAG_LEASE" s
  else powerAll (s.modRouter k fun r => { r with lease := tabSet 0 r.lease (leaseKey rx p.val slot.val) (v &&& 0x1FF) })

/-- WAG_LEASE_WRITE. -/
def execWagLeaseWrite (f : Fn) (k : Comb) (rx : Bool) (p : LPort) (slot : Fin 512) (value : BitVec 16) (s : State) : Out :=
  done (doIf (regsServed s) (effLeaseWrite f k rx p slot value) s)

/-- Whether one TRANSIT entry of job j has its pair, two data slots on or back (R385). -/
def pairOk (c : CombState) (j : Nat) (e : Nat × BitVec 16) : Bool :=
  let rx := decide (3072 ≤ e.1)
  let q := e.1 / 512 % 6
  if entKind e.2 ≠ 2 ∨ entJob e.2 ≠ j then true else
  match slotData (e.1 % 512) with
  | none => false
  | some d =>
    let o := leaseAt c (!rx) (entPort e.2) (dataSlot (if rx then (d + 2) % 510 else (d + 508) % 510))
    decide (entPort e.2 < 6) && decide (entKind o = 2) && decide (entJob o = j) && decide (entPort o = q)

/-- A mask names enabled ports only. -/
def maskEnabled (s : State) (m : BitVec 6) : Bool := (m &&& ~~~ s.mod.mapEn) == 0

/-- The number of ports a mask names. -/
def maskCount (m : BitVec 6) : Nat := ((fins 6).filter fun p => m.getLsbD p.val).length

/-- The result code of a commit: 0 when every check passes (R385, R411). -/
def commitErr (s : State) (k : Comb) (j : BitVec 4) : BitVec 4 :=
  let c := s.combs[k]
  match jobAt c j.toNat with
  | none => 1
  | some e =>
    if e.role = 0 then 1
    else if !c.router.lease.all (pairOk c j.toNat) then 2
    else if e.role = 2 ∧ 1 < maskCount e.vchild then 3
    else if !maskEnabled s e.vchild || !maskEnabled s e.aports ||
        !(e.vparent == 15 || (decide (e.vparent.toNat < 6) && s.mod.mapEn.getLsbD e.vparent.toNat)) then 4
    else 0

/-- LEASED written for an entry that exists. -/
def setLeased (k : Comb) (j : BitVec 4) (v : Bool) (s : State) : State :=
  if h : j.toNat < 12 then s.modJob k ⟨j.toNat, h⟩ fun e => { e with leased := v } else s

/-- The checks of a commit, then LEASED, or ERR (R385). -/
def effLeaseCommit (k : Comb) (j : BitVec 4) (s : State) : State :=
  let e := commitErr s k j
  let s := s.modRouter k fun r => { r with cmtErr := e }
  if e = 0 then judgeComb k (setLeased k j true s) else s

/-- LEASE_COMMIT. -/
def execLeaseCommit (f : Fn) (k : Comb) (j : BitVec 4) (s : State) : Out :=
  done (if f.val ≠ 0 ∨ !regsServed s then s else effLeaseCommit k j s)

/-- Whether the member partition of a job entry runs a context (R385). -/
def memberRuns (s : State) (k : Comb) (e : JobEntry) : Bool :=
  decide (e.role = 1) && match partOf s k with
    | none => false
    | some p => decide (s.parts[p].ctx.state ≠ 0)

/-- The result code of a release: 0 when it is accepted (R385, R411). -/
def releaseErr (s : State) (k : Comb) (j : BitVec 4) : BitVec 4 :=
  match jobAt s.combs[k] j.toNat with
  | none => 1
  | some e => if e.role = 0 then 1 else if memberRuns s k e then 5 else 0

/-- LEASED clears, unless the entry is free or the job's partition here runs a context (R385). -/
def effLeaseRelease (k : Comb) (j : BitVec 4) (s : State) : State :=
  let e := releaseErr s k j
  let s := s.modRouter k fun r => { r with cmtErr := e }
  if e = 0 then judgeComb k (setLeased k j false s) else s

/-- LEASE_RELEASE. -/
def execLeaseRelease (f : Fn) (k : Comb) (j : BitVec 4) (s : State) : Out :=
  done (if f.val ≠ 0 ∨ !regsServed s then s else effLeaseRelease k j s)

/-! ### Sending (R395, R396, R399–R401) -/

/-- The entry of the current slot at a port. -/
def entryNow (s : State) (k : Comb) (rx : Bool) (p : LPort) : BitVec 16 := leaseAt s.combs[k] rx p.val (slotOf s k)

/-- Slots of a flow left in the current beat, the current one included. -/
def slotsLeft (s : State) (k : Comb) (fl : Flow) (d : Nat) : Nat :=
  let h := s.combs[k].hum
  let frames := boundaryOf h / frameUnits - 1 - frameOf s k
  fl.count * frames + ((flowSlots fl).filter fun x => decide (d ≤ x)).length

/-- Flits of one token. -/
def tokenFlits (fl : Flow) : Nat := if fl.dispatch then ceilDiv fl.tokenBytes 512 else 1

/-- Whether the head flit may go in this slot: its beat has come, and a token that it starts fits in the allocation that is
left (R399, R401). -/
def flitReady (s : State) (k : Comb) (fl : Flow) (d : Nat) (x : QFlit) : Bool :=
  decide (x.fromBeat ≤ s.combs[k].hum.beat.toNat) &&
  (decide (x.xfer % tokenFlits fl ≠ 0) || decide (tokenFlits fl ≤ slotsLeft s k fl d))

/-- The flit meta and the payload of a data frame (R393). -/
structure FlitMeta where
  pad : Bool
  dstSpace : BitVec 2
  bytes : BitVec 16
  tokens : BitVec 16
  dst : DWord
  xferFlit : Word
  beat : BitVec 48
  payload : Bytes
  deriving DecidableEq, Repr

/-- Meta and payload as the bytes that are encrypted, and read back (R393). -/
def metaBytes (m : FlitMeta) : Bytes :=
  leBytes 2 (m.pad.toNat + 2 * m.dstSpace.toNat) ++ leBytes 2 m.bytes.toNat ++ leBytes 4 m.tokens.toNat ++
    leBytes 8 m.dst.toNat ++ leBytes 8 m.xferFlit.toNat ++ leBytes 40 m.beat.toNat ++ m.payload
def metaOf (b : Bytes) : FlitMeta :=
  { pad := (fieldAt b 0 1).testBit 0, dstSpace := BitVec.ofNat 2 (bits (fieldAt b 0 1) 2 1), bytes := BitVec.ofNat 16 (fieldAt b 2 2)
    tokens := BitVec.ofNat 16 (fieldAt b 4 2), dst := w64 (fieldAt b 8 8), xferFlit := w32 (fieldAt b 16 4)
    beat := BitVec.ofNat 48 (fieldAt b 24 6), payload := b.drop 64 }

/-- The route header of a flit, authenticated as additional data (R393). -/
def routeHeader (x : Flit) : Bytes :=
  leBytes 4 x.jobId.toNat ++ leBytes 2 x.flow.toNat ++ leBytes 1 x.fkgen.toNat ++ leBytes 1 x.strand.val ++ [x.sx, x.sy, x.sz] ++
    leBytes 5 0 ++ leBytes 8 x.seq.toNat ++ leBytes 8 0

/-- The sending key of a flit's source under a fabric key, and the nonce (R394). -/
def sendKey (fkey : BitVec 256) (x : Flit) : BitVec 256 :=
  hkdf 256 (leBytes 32 fkey.toNat) [] [x.sx, x.sy, x.sz, BitVec.ofNat 8 x.strand.val]
def flitNonce (x : Flit) : BitVec 96 := BitVec.ofNat 96 (x.seq.toNat + 2 ^ 64 * x.fkgen.toNat)

/-- A data flit of comb k's router for a job (R393, R394). -/
def mkFlit (s : State) (k : Comb) (e : JobEntry) (flow : Nat) (m : FlitMeta) : Flit :=
  let x : Flit := { kind := 1, jobId := e.jobId, flow := BitVec.ofNat 16 flow, fkgen := e.fkgen, strand := k
                    sx := s.mod.x.setWidth 8, sy := s.mod.y.setWidth 8, sz := s.mod.z.setWidth 8, seq := e.seq, body := [] }
  { x with body := Config.gcmSeal (sendKey e.fkey x) (flitNonce x) (routeHeader x) (metaBytes m) }

/-- The meta of a queued flit sent to a destination address, and that of a pad with random payload (R393, R396). -/
def flitMeta (s : State) (k : Comb) (x : QFlit) (dst : DWord) : FlitMeta :=
  { pad := false, dstSpace := x.dstSpace, bytes := BitVec.ofNat 16 x.data.length, tokens := BitVec.ofNat 16 x.tokens, dst := dst
    xferFlit := w32 x.xfer, beat := s.combs[k].hum.beat, payload := padTo 512 x.data }
def padMeta (s : State) (k : Comb) : FlitMeta :=
  { pad := true, dstSpace := 0, bytes := 0, tokens := 0, dst := 0, xferFlit := 0, beat := s.combs[k].hum.beat
    payload := freeBytes 512 s }

/-- The link word of the frame that router k sends in its current slot (R370). -/
def linkWord (s : State) (k : Comb) (kind : BitVec 2) : Bytes :=
  leBytes 2 kind.toNat ++ leBytes 2 (slotOf s k) ++ leBytes 4 (frameOf s k % 4294967296) ++ leBytes 8 0

/-- A wire frame sent on a port: its link word and, of a data frame, the flit (R369, R370). -/
def sendFrame (k : Comb) (q : LPort) (kind : BitVec 2) (x : Option Flit) (s : State) : State :=
  emit (.frame k q (linkWord s k kind) x) s

/-- Bookkeeping of a sent flit for its FABRIC descriptor: it completes with its last flit, with DISPATCH_OVERFLOW when
tokens were deferred (R399, R403). -/
def sentForDesc (p : Part) (k : Comb) (x : QFlit) (s : State) : State :=
  match x.desc with
  | none => s
  | some d => s.modDesc p d.ring d.idx fun e =>
      let e := { e with moved := e.moved + 1 }
      if !x.last then e
      else if e.fails.isEmpty then e.decide' stOK (w32 e.moved) 0 k
      else e.decide' stDispatchOverflow 0 (BitVec.ofNat 56 (e.fails.map fun f => f.2.2.1.toNat).sum) k

/-- The last flit of a MOVE's transfer completes it: its semaphore counts it (R119). -/
def sentForMove (p : Part) (x : QFlit) (s : State) : State :=
  match x.sem with
  | some i => semApply p i true 1 s
  | none => s

/-- One flit of a job leaves: the sequence counter advances, and reaching its limit raises SEQ_EXHAUSTED (R395). -/
def advanceSeq (p : Part) (k : Comb) (j : JobIx) (s : State) : State :=
  let s := s.modRouter k fun r => { r with jobs := upd r.jobs j fun e => { e with seq := e.seq + 1 }, txFlits := r.txFlits + 1 }
  if s.combs[k].router.jobs[j].seq = BitVec.allOnes 64 then
    fabricAbort p k 0x06 (s.modRouter k fun r => { r with seqExh := hit 16 r.seqExh })
  else s

/-- A pad flit of a flow, with random payload (R396). -/
def sendPad (k : Comb) (q : LPort) (e : JobEntry) (flow : Nat) (s : State) : State :=
  drawn (sendFrame k q 1 (some (mkFlit s k e flow (padMeta s k))) s)

/-- The claimed slot of a flow: the next flit if it is ready, else a pad (R396). -/
def sendClaimed (p : Part) (k : Comb) (q : LPort) (j : JobIx) (f : FlowRt) (fl : Flow) (d : Nat) (s : State) : State :=
  let e := s.combs[k].router.jobs[j]
  match f.queue with
  | x :: _ =>
    if flitReady s k fl d x then
      let win := fl.dispatch || x.desc.isNone
      let dst : DWord := if win then w64 (fl.rxBase + 512 * (f.sent % fl.rxFlits)) else x.dst
      let s := sendFrame k q 1 (some (mkFlit s k e f.index (flitMeta s k x dst))) s
      let s := modFlow k true f.index (fun g => { g with queue := g.queue.drop 1, sent := (if win then g.sent + 1 else g.sent),
                                                           beatTokens := g.beatTokens + x.tokens, beatFlits := g.beatFlits + 1 }) s
      advanceSeq p k j (sentForMove p x (sentForDesc p k x s))
    else advanceSeq p k j (sendPad k q e f.index s)
  | [] => advanceSeq p k j (sendPad k q e f.index s)

/-- A LOCAL TX slot (R396): an idle frame unless an active grid's flow claims the slot, the key is loaded and the counter is
not exhausted. -/
def effLocalTx (k : Comb) (q : LPort) (s : State) : State :=
  let v := entryNow s k false q
  if entKind v ≠ 1 ∨ !portUp s k q ∨ !s.combs[k].routerPwr then s else
  let idle := sendFrame k q 0 none s
  match partOf s k, memberJob s k, slotData (slotOf s k) with
  | some p, some j, some d =>
    let e := s.combs[k].router.jobs[j]
    if !s.combs[k].hum.active ∨ e.aborted ∨ !e.keyed ∨ e.seq = BitVec.allOnes 64 ∨ entJob v ≠ j.val then idle
    else match claimant s p k true q d with
    | none => idle
    | some (f, fl) => sendClaimed p k q j f fl d s
  | _, _, _ => idle

/-- LOCAL_TX_SLOT. -/
def execLocalTxSlot (k : Comb) (p : LPort) (s : State) : Out := done (effLocalTx k p s)

/-! ### Transit (R387, R389) -/

/-- A received codeword: uncorrectable ones are counted, and the run of them (R379, R411). -/
def noteCodeword (k : Comb) (q : LPort) (ok : Bool) (s : State) : State :=
  if ok then s.modSPort k q fun t => { t with uncorr := 0 }
  else (s.modSPort k q fun t => { t with uncorr := t.uncorr + 1 }).modRouter k fun r => { r with cwUncorr := hit 16 r.cwUncorr }

/-- MISROUTE set and counted. -/
def misroute (k : Comb) (s : State) : State := s.modRouter k fun r => { r with misroute := hit 16 r.misroute }

/-- Whether comb k's router passes transit traffic: its hum has left FREE since it was lost (R57). -/
def transitOn (s : State) (k : Comb) : Bool := s.combs[k].hum.state != 0

/-- A flit in an RX TRANSIT entry: KIND data and the entry's job, else MISROUTE; forwarded two data slots on (R389). -/
def effTransitRx (k : Comb) (q : LPort) (fl : Flit) (s : State) : State :=
  let v := entryNow s k true q
  match slotData (slotOf s k), jobAt s.combs[k] (entJob v) with
  | some d, some e =>
    if entKind v ≠ 2 ∨ !portUp s k q ∨ !transitOn s k then s else
    let s := noteCodeword k q fl.cwOk s
    if fl.cwOk ∧ fl.kind = 1 ∧ fl.jobId = e.jobId then
      s.modRouter k fun r => { r with forward := r.forward ++ [(leaseKey false (entPort v) (dataSlot ((d + 2) % 510)), { fl with errs := 0 })] }
    else misroute k s
  | _, _ => s

/-- TRANSIT_FLIT_RECEIVE. -/
def execTransitFlitReceive (k : Comb) (p : LPort) (flit : Flit) (s : State) : Out := done (effTransitRx k p flit s)

/-- A TX TRANSIT slot: the flit that waits for it, or a void frame (R389). -/
def effTransitTx (k : Comb) (q : LPort) (s : State) : State :=
  if entKind (entryNow s k false q) ≠ 2 ∨ !portUp s k q ∨ !transitOn s k then s else
  let key := leaseKey false q.val (slotOf s k)
  match s.combs[k].router.forward.find? fun e => decide (e.1 = key) with
  | some e => (sendFrame k q 1 (some e.2) s).modRouter k fun r => { r with forward := r.forward.filter fun e => decide (e.1 ≠ key) }
  | none => sendFrame k q 2 none s

/-- TRANSIT_TX_SLOT. -/
def execTransitTxSlot (k : Comb) (p : LPort) (s : State) : Out := done (effTransitTx k p s)

/-! ### Receiving (R397, R398, R500) -/

/-- A failing check of R397: the flit delivers nothing, and the alarm rises. -/
def flitFails (p : Part) (k : Comb) (cause : Byte) (count : Router → Router) (s : State) : State :=
  fabricAbort p k cause (s.modRouter k count)

def countLost (r : Router) : Router := { r with flitLost := hit 16 r.flitLost }
def countAuth (r : Router) : Router := { r with authFail := hit 16 r.authFail }
def countMisroute (r : Router) : Router := { r with misroute := hit 16 r.misroute }

/-- Whether a flit's header names the claiming flow and its source (R397). -/
def headerOk (s : State) (k : Comb) (e : JobEntry) (f : FlowRt) (fl : Flow) (x : Flit) : Bool :=
  let (a, b, c) := srcOf s fl
  decide (x.jobId = e.jobId) && decide (x.flow.toNat = f.index) && decide (x.strand = k) &&
  decide (x.sx.toNat = a) && decide (x.sy.toNat = b) && decide (x.sz.toNat = c)

/-- Whether a flit's SEQ exceeds the last one accepted on its flow (R397). -/
def flitFresh (f : FlowRt) (x : Flit) : Bool := match f.lastSeq with
  | none => true
  | some q => decide (q < x.seq)

/-- A flit authenticated and decrypted: the loaded generation, a SEQ above the last accepted, and a tag that verifies under
the sending key of its source (R394, R397); none where one of them fails. -/
def openFlit (e : JobEntry) (f : FlowRt) (x : Flit) : Option FlitMeta :=
  if e.keyed ∧ x.fkgen = e.fkgen ∧ flitFresh f x then
    (Config.gcmOpen (sendKey e.fkey x) (flitNonce x) (routeHeader x) x.body).map metaOf
  else none

/-- Whether a flit's destination range exists (R397). -/
def flitRange (s : State) (p : Part) (x : FlitMeta) : Bool :=
  if x.dstSpace = 1 then inPpa s p x.dst.toNat x.bytes.toNat
  else if x.dstSpace = 2 then decide (x.dst.toNat + x.bytes.toNat ≤ combStoreBytes) else false

/-- Flits in the ejection buffer of router k: accepted, their writes not yet visible; it holds 512 payloads (R398). -/
def ejecting (s : State) (k : Comb) : Nat := (s.combs[k].router.flows.map fun f => f.visible.length).sum

/-- The payload of an accepted flit written under the partition's keys (R397). -/
def deliverFlit (p : Part) (k : Comb) (x : EjFlit) (s : State) : State :=
  if x.space = 2 then combWrite k x.dst.toNat x.data s
  else match ppaWrite p x.dst.toNat x.data s with
    | (s, some (.exhausted _ _ _ a)) => stopPartition p k stCounterExhausted 0 (BitVec.ofNat 56 a) 0 [] s
    | (s, some (.integrity a)) => stopPartition p k stIntegrityFail 0 (BitVec.ofNat 56 a) 0 [] s
    | (s, _) => s

/-- An accepted flit as the ejection buffer holds it. -/
def ejFlit (fl : Flow) (x : FlitMeta) : EjFlit :=
  ⟨x.dstSpace, x.dst, x.payload.take x.bytes.toNat, if fl.dispatch then x.tokens.toNat else 1⟩

/-- A flit in a claimed LOCAL RX entry, in the order of R397's checks. -/
def acceptFlit (p : Part) (k : Comb) (e : JobEntry) (f : FlowRt) (fl : Flow) (x : Flit) (s : State) : State :=
  if x.kind ≠ 1 ∨ !x.cwOk then flitFails p k 0x04 countLost s
  else if !headerOk s k e f fl x then flitFails p k 0x04 countMisroute s
  else match openFlit e f x with
  | none => flitFails p k 0x05 countAuth s
  | some m =>
    if !m.pad && !flitRange s p m then fabricAbort p k 0x09 s
    else
      let s := (modFlow k false f.index (fun g => { g with lastSeq := some x.seq }) s).modRouter k fun r =>
        { r with rxFlits := r.rxFlits + 1 }
      if m.pad then s
      else if 512 ≤ ejecting s k then flitFails p k 0x04 countLost s
      else modFlow k false f.index (fun g => { g with visible := g.visible ++ [ejFlit fl m]
                                                      beatTokens := g.beatTokens + m.tokens.toNat, beatFlits := g.beatFlits + 1 }) s

/-- A frame in a LOCAL RX entry of the member job: a late flit after an abort (R500), else the checks where a flow claims
the slot. -/
def effDataFlit (k : Comb) (q : LPort) (x : Flit) (s : State) : State :=
  let v := entryNow s k true q
  match partOf s k, memberJob s k, slotData (slotOf s k) with
  | some p, some j, some d =>
    if entKind v ≠ 1 ∨ entJob v ≠ j.val ∨ !portUp s k q then s else
    let e := s.combs[k].router.jobs[j]
    if e.aborted then
      let s := noteCodeword k q x.cwOk s
      if x.kind = 1 ∧ x.cwOk then s.modEvt fun v => { v with lateFlit := hit 32 v.lateFlit } else s
    else if !s.combs[k].hum.active then s
    else match claimant s p k false q d with
    | none => s
    | some (f, fl) => acceptFlit p k e f fl x (noteCodeword k q x.cwOk s)
  | _, _, _ => s

/-- DATA_FLIT_RECEIVE. -/
def execDataFlitReceive (k : Comb) (p : LPort) (flit : Flit) (s : State) : Out := done (effDataFlit k p flit s)

/-- The oldest flit in the ejection buffer is written to its destination and visible there: RX_SEM advances by 1, or by its
tokens (R397); it waits while its super does not answer. -/
def effVisible (k : Comb) (flow : Nat) (s : State) : State :=
  match partOf s k with
  | none => s
  | some p =>
    match s.combs[k].router.flows.find? fun f => !f.tx && decide (f.index = flow), flowOf s p k flow with
    | some f, some fl =>
      match f.visible with
      | [] => s
      | x :: _ =>
        if x.space ≠ 2 ∧ !ppaServes s k p x.dst.toNat x.data.length then s else
        let s := deliverFlit p k x (modFlow k false flow (fun g => { g with visible := g.visible.drop 1 }) s)
        if fl.rxSemEn then semApply p fl.rxSem true (w64 x.tokens) s else s
    | _, _ => s

/-- FLIT_WRITE_VISIBLE. -/
def execFlitWriteVisible (k : Comb) (flow : Nat) (s : State) : Out := done (effVisible k flow s)

/-- A wire frame that no claimed LOCAL RX entry and no TRANSIT entry takes: CW_UNCORR, and MISROUTE for a data flit in an
idle entry (R389, R411). -/
def effWireFrame (k : Comb) (q : LPort) (x : Flit) (s : State) : State :=
  let v := entryNow s k true q
  let claimed : Bool := match partOf s k, slotData (slotOf s k) with
    | some p, some d => entKind v == 1 && s.combs[k].hum.active && (claimant s p k false q d).isSome
    | _, _ => false
  if !portUp s k q ∨ entKind v = 2 ∨ claimed then s else
  let s := noteCodeword k q x.cwOk s
  if x.cwOk ∧ x.kind = 1 ∧ entKind v = 0 then misroute k s else s

/-- WIRE_FRAME_RECEIVE. -/
def execWireFrameReceive (k : Comb) (p : LPort) (flit : Flit) (s : State) : Out := done (effWireFrame k p flit s)

/-! ### Alarms received (R407) -/

/-- The job entry of a router that names a job. -/
def jobNamed (s : State) (k : Comb) (id : Word) : Option JobIx :=
  (fins 12).find? fun j => decide (s.combs[k].router.jobs[j].role ≠ 0) && decide (s.combs[k].router.jobs[j].jobId = id)

/-- Whether two frame numbers, low 32 bits, lie within 64 of each other. -/
def frameNear (a b : Word) : Bool := decide ((a - b).toNat ≤ 64) || decide ((b - a).toNat ≤ 64)

/-- The control key of a job (R405). -/
def controlKey (e : JobEntry) : BitVec 256 := hkdf 256 (leBytes 32 e.fkey.toNat) [] [0xFF, 0xFF, 0xFF, 0xFF]

/-- The MAC of a record: its counter field (FRAME or EPOCH) and its sender in the nonce, the body as additional data (R405). -/
def recordMac (e : JobEntry) (type counter : Nat) (c : RecFrom) (body : Bytes) : DWord :=
  let nonce := counter + 2 ^ 32 * type + 2 ^ 40 * c.x.toNat + 2 ^ 45 * c.y.toNat + 2 ^ 50 * c.z.toNat + 2 ^ 55 * c.port.val +
    2 ^ 58 * c.strand.val
  w64 (le ((Config.gcmSeal (controlKey e) (BitVec.ofNat 96 nonce) body []).take 8))

/-- The bodies of an alarm record and of a vote (TYPE 2) or verdict (TYPE 3) record (R405). -/
def alarmBody (a : AlarmRec) : Bytes :=
  [1, a.cause, a.x, a.y, a.z, BitVec.ofNat 8 a.relay.toNat, 0, 0] ++ leBytes 4 a.jobId.toNat ++ leBytes 4 a.frame.toNat
def voteBody (type : Nat) (v : VoteRec) : Bytes :=
  [BitVec.ofNat 8 type, BitVec.ofNat 8 v.value.toNat] ++ leBytes 2 v.stepTag.toNat ++ leBytes 4 0 ++ leBytes 4 v.jobId.toNat ++
    leBytes 4 v.epoch.toNat

def alarmMac (e : JobEntry) (a : AlarmRec) : DWord := recordMac e 1 a.frame.toNat a.sender (alarmBody a)
def voteMac (e : JobEntry) (type : Nat) (v : VoteRec) : DWord := recordMac e type v.epoch.toNat v.sender (voteBody type v)

/-- Whether a member accepts a vote or verdict record: its own EPOCH, and the MAC (R410). -/
def voteOk (e : JobEntry) (type : Nat) (v : VoteRec) : Bool := decide (v.epoch = e.epoch) && decide (v.mac = voteMac e type v)

/-- Whether a member router accepts an alarm (R407 step 2): FRAME within 64 frames; of a relay alarm the cause, with a MAC of
zero or a member's fresh one, of any other the MAC. -/
def alarmOk (s : State) (k : Comb) (e : JobEntry) (a : AlarmRec) : Bool :=
  frameNear a.frame (w32 (frameOf s k)) &&
  (if a.relay then (a.cause == 0x03 || a.cause == 0x04) && (a.mac == 0 || a.mac == alarmMac e a) else a.mac == alarmMac e a)

/-- The origin coordinate of an alarm as DETAIL2 and ORIGIN give it. -/
def originWord (a : AlarmRec) : Word := w32 (a.x.toNat % 32 + 256 * (a.y.toNat % 32) + 65536 * (a.z.toNat % 32))

/-- An alarm received for a job: discarded when aborted, checked by a member, passed on (R407). -/
def effAlarm (k : Comb) (q : LPort) (a : AlarmRec) (s : State) : State :=
  match jobNamed s k a.jobId with
  | none => s
  | some j =>
    let e := s.combs[k].router.jobs[j]
    if e.aborted then s
    else if e.role = 1 ∧ !alarmOk s k e a then s.modRouter k countAuth
    else
      let s := (abortJob k j a (some q) s).modRouter k fun r => { r with alarmRx := hit 16 r.alarmRx }
      match partOf s k with
      | some p =>
        if e.role = 1 then
          partitionFault p { status := stFabricAbort, detail := a.cause.setWidth 32, detail2 := (originWord a).setWidth 56
                             alarm := a.cause, comb := k, combs := combsOf s p, received := true, origin := originWord a }
            (spreadAlarm p k a s)
        else s
      | none => s

/-- ALARM_RECEIVE. -/
def execAlarmReceive (k : Comb) (p : LPort) (rec' : AlarmRec) (s : State) : Out := done (effAlarm k p rec' s)

/-- ABORTED_EXPIRE: ABORTED clears 4,096 frames after it was set (R407). -/
def execAbortedExpire (k : Comb) (j : JobIx) (s : State) : Out :=
  let e := s.combs[k].router.jobs[j]
  done (if e.aborted ∧ e.abortAt + 4096 ≤ frameOf s k then s.modJob k j fun e => { e with aborted := false } else s)

/-! ### Votes and verdicts (R409, R410) -/

/-- The mask of one logical port. -/
def portMask (v : BitVec 4) : BitVec 6 := if v.toNat < 6 then 1#6 <<< v.toNat else 0

/-- A vote record from a child port: a member adds it, a relay passes it to its parent (R409, R410). -/
def effVote (k : Comb) (q : LPort) (v : VoteRec) (s : State) : State :=
  match jobNamed s k v.jobId with
  | none => s
  | some j =>
    let e := s.combs[k].router.jobs[j]
    if e.aborted ∨ !e.vchild.getLsbD q.val then s
    else if e.role = 2 then s.modRouter k fun r => { r with votesOut := r.votesOut ++ [(j, v, portMask e.vparent)] }
    else if !voteOk e 2 v then s.modRouter k countAuth
    else s.modJob k j fun e => { e with votes := e.votes ++ [⟨q.val, true, v.value, v.stepTag⟩], voteAt := s.combs[k].hum.time }

/-- VOTE_RECORD_RECEIVE. -/
def execVoteRecordReceive (k : Comb) (p : LPort) (rec' : VoteRec) (s : State) : Out := done (effVote k p rec' s)

/-- A verdict record from the parent port: a member resolves p0 and advances EPOCH; it goes on to the children (R409,
R410). -/
def effVerdict (k : Comb) (q : LPort) (v : VoteRec) (s : State) : State :=
  match jobNamed s k v.jobId with
  | none => s
  | some j =>
    let e := s.combs[k].router.jobs[j]
    if e.aborted ∨ e.vparent.toNat ≠ q.val then s
    else if e.role = 2 then s.modRouter k fun r => { r with verdictsOut := r.verdictsOut ++ [(j, v, e.vchild)] }
    else if !voteOk e 3 v then s.modRouter k countAuth
    else
      let s := s.modRouter k fun r => { r with
        jobs := upd r.jobs j fun e => { e with epoch := e.epoch + 1, votes := [] }
        verdictsOut := r.verdictsOut ++ [(j, v, e.vchild)] }
      match partOf s k with
      | some p => verdictAt p v.value s
      | none => s

/-- VERDICT_RECORD_RECEIVE. -/
def execVerdictRecordReceive (k : Comb) (p : LPort) (rec' : VoteRec) (s : State) : Out := done (effVerdict k p rec' s)

/-! ### Control slots (R60, R404, R409) -/

/-- The member's combined vote, once every part has arrived 200 ns ago: a vote record on VPARENT, or at the root the verdict
on every VCHILD port and the resolution of p0 (R409). -/
def combineAt (k : Comb) (s : State) : State :=
  match partOf s k, memberJob s k with
  | some p, some j =>
    let e := s.combs[k].router.jobs[j]
    if e.aborted ∨ k ≠ p ∨ !votesComplete s p e ∨ s.combs[k].hum.time < e.voteAt + 200 * nsUnits then s
    else
      let v : VoteRec := { value := combineVotes e.votes, stepTag := voteTag e.votes, jobId := e.jobId, epoch := e.epoch }
      let s := s.modJob k j fun e => { e with votes := [] }
      if e.vparent = 15 then
        let s := s.modRouter k fun r => { r with
          jobs := upd r.jobs j fun e => { e with epoch := e.epoch + 1 }
          verdictsOut := r.verdictsOut ++ [(j, v, e.vchild)] }
        verdictAt p v.value s
      else s.modRouter k fun r => { r with votesOut := r.votesOut ++ [(j, v, portMask e.vparent)] }
  | _, _ => s

/-- No alarm, no vote: what fills the other half of a record. -/
def noAlarm : AlarmRec := { cause := 0, x := 0, y := 0, z := 0, relay := false, jobId := 0, frame := 0 }
def noVote : VoteRec := { value := false, stepTag := 0, jobId := 0, epoch := 0 }

/-- This router as the sender of a record on a port. -/
def sentFrom (s : State) (k : Comb) (p : LPort) : RecFrom := ⟨s.mod.x, s.mod.y, s.mod.z, p, k⟩

/-- A record as it goes out on a port: a member sends it with a fresh MAC, a relay unchanged (R405, R407, R409). -/
def signAlarm (s : State) (k : Comb) (j : JobIx) (a : AlarmRec) (p : LPort) : AlarmRec :=
  let e := s.combs[k].router.jobs[j]
  if e.role ≠ 1 then a else
  let a := { a with sender := sentFrom s k p }
  { a with mac := alarmMac e a }
def signVote (s : State) (k : Comb) (j : JobIx) (type : Nat) (v : VoteRec) (p : LPort) : VoteRec :=
  let e := s.combs[k].router.jobs[j]
  if e.role ≠ 1 then v else
  let v := { v with sender := sentFrom s k p }
  { v with mac := voteMac e type v }

/-- Ports a record is sent on: those of its mask that are UP. -/
def sendPorts (s : State) (k : Comb) (m : BitVec 6) : List LPort := (fins 6).filter fun p => m.getLsbD p.val && portUp s k p

/-- Every pending record of a router, sent and gone (R60). -/
def sendRecords (k : Comb) (s : State) : State :=
  let r := s.combs[k].router
  let al := (r.alarms.map fun (j, a, m) => (sendPorts s k m).map fun p => Output.record k p 1 (signAlarm s k j a p) noVote).flatten
  let vo := (r.votesOut.map fun (j, v, m) => (sendPorts s k m).map fun p => Output.record k p 2 noAlarm (signVote s k j 2 v p)).flatten
  let ve := (r.verdictsOut.map fun (j, v, m) => (sendPorts s k m).map fun p =>
    Output.record k p 3 noAlarm (signVote s k j 3 v p)).flatten
  (emitAll (al ++ vo ++ ve) s).modRouter k fun r => { r with alarms := [], votesOut := [], verdictsOut := [] }

/-- The hum-sync and lane records of control slot 0 on one UP port (R52, R381, R404). -/
def sendSync (k : Comb) (p : LPort) (s : State) : State :=
  if !portUp s k p then s else
  let h := s.combs[k].hum
  let q := s.combs[k].router.ports[p]
  let s := emit (.humSync k p { state := h.state, depth := BitVec.ofNat 8 (rootDepth s), tTx := w64 (now16 s k)
                                tEchoTx := q.lastTx, tEchoRx := q.lastRx }) s
  match q.laneRecs with
  | [] => s
  | (op, lane, fr) :: rest => (emit (.laneRec k p op lane fr) s).modSPort k p fun q => { q with laneRecs := rest }

/-- A control slot of router k (R60). -/
def effControl (k : Comb) (s : State) : State :=
  let n := slotOf s k
  if !s.combs[k].routerPwr ∨ (n ≠ 0 ∧ n ≠ 256) then s else
  let s := emitAll (((fins 6).filter fun p => portUp s k p).map fun p => .frame k p (linkWord s k 3) none) s
  let s := if n = 0 then forEach (fins 6) (fun p s => sendSync k p s) s else s
  sendRecords k (combineAt k s)

/-- CONTROL_SLOT. -/
def execControlSlot (k : Comb) (s : State) : Out := done (effControl k s)

end Sys2Proof.Machine
end

