-- ==== Sys2Proof/Machine/Descr.lean ====
section
/-! DEFINITION. The descriptors COMPUTE, COPY, FABRIC, UPDATE, SYNC, FENCE and EGRESS (R99, R103, R109, R271, R399, R402,
R461, R469, R472). -/

namespace Sys2Proof.Machine

/-! ### COMPUTE (R109, R113, R461) -/

/-- The digest check of a joint context: the image is one of the manifest's programs. -/
def digestOk (m : Manifest) (image : Bytes) : Bool :=
  decide (m.owners.length = 1) || m.programs.contains (Config.sha512 image)

/-- A COMPUTE reaches one comb: its program starts, or waits for the one that runs there (R113). -/
def computeOn (d : RunDesc) (k : Comb) (s : State) : State :=
  if s.combs[k].seq.running.isNone ∧ s.combs[k].seq.state ≠ 3 then startProgram k d s
  else s.modSeq k fun q => { q with waiting := q.waiting ++ [d] }

/-- COMPUTE: the digest check, then a program on each named comb. -/
def effCompute (p : Part) (r : Ring) (s : State) : State :=
  match startedDesc s p r opCompute, s.parts[p].ctx.man with
  | some d, some m =>
    let kk := serving s p r
    if m.owners.length ≠ 1 ∧ !ppaServes s kk p (d.field 16 8) (d.field 24 4) then s else
    match if m.owners.length = 1 then (s, [], none) else ppaFetch p (d.field 16 8) (d.field 24 4) s with
    | (s, _, some e) => failMem p r d.idx e s
    | (s, img, none) =>
      if !digestOk m img then
        failDesc p r d.idx stAccessViolation 0 (BitVec.ofNat 56 (d.field 16 8)) kk s
      else
        let ks := combsMask s p d.combMask
        let s := activate p r d.idx (fun e => { e with combsLeft := ks }) s
        forEach ks (fun k s => computeOn ⟨p, r, d.idx⟩ k s) s
  | _, _ => s

/-- COMPUTE. -/
def execCompute (p : Part) (r : Ring) (s : State) : Out := done (effCompute p r s)

/-! ### COPY (R469) -/

/-- The lowest comb that COMBS names. -/
def firstComb (s : State) (p : Part) (d : Desc) : Comb := (combsMask s p d.combMask).headD p

/-- Bytes written to a COPY's destination space. -/
def copyPut (p : Part) (k : Comb) (space a : Nat) (data : Bytes) (s : State) : State × Option MemErr :=
  if space = 1 then ppaWrite p a data s else (combWrite k a data s, none)

/-- A COPY's data written: the source's failure, or the write's, decides, else OK with the bytes moved. -/
def copyEnd (p : Part) (r : Ring) (d : Desc) (data : Bytes) (err : Option MemErr) (s : State) : State :=
  match copyPut p (firstComb s p d) (d.field 37 1 % 4) (d.field 24 8) data s with
  | (s, some e) => failMem p r d.idx e s
  | (s, none) => match err with
    | some e => failMem p r d.idx e s
    | none => finish p r d.idx stOK (w32 (d.field 32 4)) 0 (serving s p r) s

/-- The regions that n bytes from a PPA touch. -/
def regionsOver (s : State) (p : Part) (a n : Nat) : List RgnMap :=
  (regionMap s p).filter fun m => decide (m.p0 < a + n) && decide (a < m.p0 + m.len)

/-- Whether a host source may not reach a destination range: the comb store, or a region under a GENERATED key. -/
def hostRefused (s : State) (p : Part) (space a n : Nat) : Bool :=
  decide (space ≠ 1) || (regionsOver s p a n).any fun m => match ingestKind s p (max a m.p0) with
    | .refused => true
    | _ => false

/-- A host-sourced COPY, by the key kind of its destination (R469). -/
def copyHost (p : Part) (r : Ring) (d : Desc) (host : Bytes) (s : State) : State :=
  let a := d.field 24 8
  let k := serving s p r
  if hostRefused s p (d.field 37 1 % 4) a (d.field 32 4) then
    failDesc p r d.idx stAccessViolation 0 (BitVec.ofNat 56 a) k s
  else match ingestKind s p a with
    | .delivered key =>
      match openIngest key (jobOf s p) host with
      | (plain, none) => copyEnd p r d plain none s
      | (plain, some o) => failDesc p r d.idx stFormatError (w32 o) 0 k (ppaPut p a plain s)
    | .unlisted id => failMem p r d.idx (.keyRetired (serving s p r) id (a / 128 * 128)) (noteUnlisted p a s)
    | _ => copyEnd p r d host none s

/-- COPY: it waits while a request of its own is not served. -/
def effCopy (p : Part) (r : Ring) (host : Bytes) (s : State) : State :=
  match startedDesc s p r opCopy with
  | none => s
  | some d =>
    let n := d.field 32 4
    let k := serving s p r
    if d.field 37 1 % 4 = 1 ∧ !ppaServes s k p (d.field 24 8) n then s
    else if d.field 36 1 % 4 = 0 then
      (if host.length = n ∧ hostOpen s (fnOf p) then copyHost p r d host (hostFetch (fnOf p) [(d.field 16 8, n)] s) else s)
    else if d.field 36 1 % 4 = 1 then
      if !ppaServes s k p (d.field 16 8) n then s else
      match ppaFetch p (d.field 16 8) n s with
      | (s, _, some .gone) => s
      | (s, data, err) => copyEnd p r d data err s
    else copyEnd p r d (combRead s (firstComb s p d) (d.field 16 8) n) none s

/-- COPY. -/
def execCopy (p : Part) (r : Ring) (host : Bytes) (s : State) : Out := done (effCopy p r host s)

/-! ### FABRIC (R399, R402) -/

/-- The flits of a FABRIC descriptor: DATA flits to DST_PPA, or tokens to the receive window. -/
def descFlits (d : Desc) (rd : RunDesc) (fl : Flow) (data : Bytes) : List QFlit :=
  let fs := flitsOf fl.dispatch fl.tokenBytes data
  fs.mapIdx fun n f =>
    { dstSpace := if fl.dispatch && fl.rxComb then 2 else 1, dst := w64 (d.field 32 8 + 512 * n), data := f.1, tokens := f.2
      fromBeat := d.field 40 6, xfer := n, desc := some rd, last := decide (n + 1 = fs.length) : QFlit }

/-- Whether a beat has already begun on comb k. -/
def beatBegun (s : State) (k : Comb) (b : Nat) : Bool := s.combs[k].hum.active && decide (b ≤ s.combs[k].hum.beat.toNat)

/-- FABRIC: the flow, COMBS and beat checks, then the flits join the flow's queue. -/
def effFabric (p : Part) (r : Ring) (s : State) : State :=
  match startedDesc s p r opFabric with
  | none => s
  | some d =>
    let kk := serving s p r
    match descFlow s p (d.field 16 2) with
    | none => failDesc p r d.idx stAccessViolation 0 0 kk s
    | some (k, fl) =>
      let other := d.combMask - d.combMask % (2 ^ (k.val + 1)) + d.combMask % 2 ^ k.val
      let n := fabricBytes d fl
      if other ≠ 0 then failDesc p r d.idx stAccessViolation 0 (BitVec.ofNat 56 other) kk s
      else if beatBegun s k (d.field 40 6) then failDesc p r d.idx stTimetableReject 8 0 kk s
      else if !ppaServes s kk p (d.field 24 8) n then s
      else match ppaFetch p (d.field 24 8) n s with
        | (s, _, some e) => failMem p r d.idx e s
        | (s, data, none) =>
          queueFlits k (d.field 16 2) (descFlits d ⟨p, r, d.idx⟩ fl data) (activate p r d.idx id s)

/-- FABRIC. -/
def execFabric (p : Part) (r : Ring) (s : State) : Out := done (effFabric p r s)

/-! ### UPDATE (R271, R273) -/

/-- The supers that an UPDATE descriptor has yet to send a run to: all that it names when it has just started. -/
def toSend (s : State) (p : Part) (d : Desc) : List Comb :=
  if d.opcode ≠ opUpdate then []
  else if d.stage = .started then combsMask s p d.combMask
  else if d.stage = .active then d.unsent else []

/-- Those of them whose Hild queue has room for a run. -/
def canSend (s : State) (p : Part) (d : Desc) : List Comb :=
  (toSend s p d).filter fun k => decide (s.supers[k].hild.queue.length < 16)

/-- UPDATE: one run on the super of each named comb; a run that finds a queue full waits, and the ring's other descriptors go
on (R273). -/
def effUpdate (p : Part) (r : Ring) (s : State) : State :=
  match s.parts[p].rings[r].descs.find? fun d => !(canSend s p d).isEmpty with
  | none => s
  | some d =>
    let ks := canSend s p d
    let rest := (toSend s p d).filter fun k => !ks.contains k
    let s := activate p r d.idx (fun e =>
      { e with combsLeft := if d.stage = .started then combsMask s p d.combMask else e.combsLeft, unsent := rest }) s
    forEach ks (fun k s => s.modHild k fun h => { h with queue := h.queue ++
      [⟨k, d.field 16 2, d.field 18 2, w64 (d.field 24 8), w64 (d.field 32 8), 0, none, some ⟨p, r, d.idx⟩⟩] }) s

/-- UPDATE. -/
def execUpdate (p : Part) (r : Ring) (s : State) : Out := done (effUpdate p r s)

/-! ### SYNC (R99, R100) -/

/-- The started SYNC descriptor of a ring with an operation. -/
def startedSync (s : State) (p : Part) (r : Ring) (op : Nat) : Option Desc :=
  match startedDesc s p r opSync with
  | some d => if d.field 18 1 % 4 = op then some d else none
  | none => none

/-- The SYNC descriptor's semaphore and operand. -/
def Desc.sem (d : Desc) : Nat := d.field 16 2 % 4096
def Desc.value (d : Desc) : DWord := w64 (d.field 24 8)

/-- SET and ADD complete at once. -/
def syncWrite (p : Part) (r : Ring) (op : Nat) (s : State) : State :=
  match startedSync s p r op with
  | none => s
  | some d => finish p r d.idx stOK 0 0 (serving s p r) (semApply p d.sem (op == 3) d.value s)

/-- WAIT_GE and WAIT_EQ complete when satisfied; the ring reads WAITING meanwhile. -/
def syncWait (p : Part) (r : Ring) (op : Nat) (s : State) : State :=
  match startedSync s p r op with
  | none => s
  | some d =>
    let v := semVal s p d.sem
    if (if op = 0 then decide (d.value ≤ v) else decide (v = d.value)) then finish p r d.idx stOK 0 0 (serving s p r) s
    else (activate p r d.idx id s).modRing p r fun g => { g with state := if g.state = 1 then 2 else g.state }

/-- SYNC SET. -/
def execSyncSet (p : Part) (r : Ring) (s : State) : Out := done (syncWrite p r 2 s)
/-- SYNC ADD. -/
def execSyncAdd (p : Part) (r : Ring) (s : State) : Out := done (syncWrite p r 3 s)
/-- SYNC WAIT_GE. -/
def execSyncWaitGe (p : Part) (r : Ring) (s : State) : Out := done (syncWait p r 0 s)
/-- SYNC WAIT_EQ. -/
def execSyncWaitEq (p : Part) (r : Ring) (s : State) : Out := done (syncWait p r 1 s)

/-! ### FENCE (R103) -/

/-- Whether every write that a partition issued to any super is acknowledged. -/
def memoryQuiet (s : State) (p : Part) : Bool :=
  (combsOf s p).all fun k =>
    s.combs[k].seq.unacked.all (·.host) && s.combs[k].router.flows.all (fun f => f.visible.isEmpty) &&
    !((s.supers[k].hild.cur.map (·.computed)).getD false && decide (s.supers[k].hild.state = 2))

/-- Whether what a FENCE of a scope waits for has drained. -/
def fenceDone (s : State) (p : Part) (r : Ring) (d : Desc) : Bool :=
  let scope := d.field 16 1 % 4
  if scope = 0 then (s.parts[p].rings[r].descs.head?.map (·.idx)) == some d.idx
  else if scope = 1 then (fins 16).all fun q => s.parts[p].rings[q].descs.all fun e => decide (d.order ≤ e.order)
  else memoryQuiet s p

/-- Whether a descriptor is a FENCE at work. -/
def Desc.isFence (d : Desc) : Bool := (d.stage == .started || d.stage == .active) && decide (d.opcode = opFence)

/-- FENCE: the first one of the ring whose scope has drained completes (R96); otherwise the one just started waits. -/
def effFence (p : Part) (r : Ring) (s : State) : State :=
  match s.parts[p].rings[r].descs.find? fun d => d.isFence && fenceDone s p r d with
  | some d => finish p r d.idx stOK 0 0 (serving s p r) s
  | none =>
    match startedDesc s p r opFence with
    | some d => activate p r d.idx id s
    | none => s

/-- FENCE. -/
def execFence (p : Part) (r : Ring) (s : State) : Out := done (effFence p r s)

/-! ### EGRESS (R470–R473) -/

/-- EGRESS: the checks of R472, the charge, then the record or the clear bytes. -/
def effEgress (p : Part) (r : Ring) (s : State) : State :=
  match startedDesc s p r opEgress with
  | none => s
  | some d =>
    let cls := d.field 8 1 % 4
    let rc := d.field 9 1 % 16
    let n := d.field 32 4
    let k := serving s p r
    match egressCheck s p cls rc n with
    | some (st, a, b) => failDesc p r d.idx st a b k (noteNoIde p s)
    | none =>
      if !ppaServes s k p (d.field 16 8) n then s else
      match ppaFetch p (d.field 16 8) n (chargeClear p cls n s) with
      | (s, _, some e) => failMem p r d.idx e s
      | (s, data, none) =>
        let out := egressBytes s p cls rc data
        let s := hostPutAll (fnOf p) (hostWrites s (fnOf p) (d.field 24 8) out true) s
        finish p r d.idx stOK (w32 out.length) 0 k (s.modCtx p fun c => bumpSeq c cls rc n)

/-- EGRESS. -/
def execEgress (p : Part) (r : Ring) (s : State) : Out := done (effEgress p r s)

end Sys2Proof.Machine
end

