-- ==== Sys2Proof/Machine/Ckpt.lean ====
section
/-! DEFINITION. Checkpoints and restores (R513–R537). -/

namespace Sys2Proof.Machine

/-! ### Commit records (R296, R514) -/

/-- The supers of partition p whose HLD_COMMIT.BASE is not 0. -/
def committing (s : State) (p : Part) : List Super :=
  (combsOf s p).filter fun k => decide (s.supers[k].hild.commit ≠ 0)

/-- STATE and STEP of the commit record of super k. -/
def commitOf (s : State) (p : Part) (k : Super) : Except MemErr (Nat × DWord) :=
  match ppaRead s p s.supers[k].hild.commit.toNat 64 with
  | (bs, none) => .ok (fieldAt bs 0 1, w64 (fieldAt bs 8 8))
  | (_, some e) => .error e

/-- The commit records of a list of supers, or the first failed read. -/
def commitsOf (s : State) (p : Part) : List Super → Except MemErr (List (Super × Nat × DWord))
  | [] => .ok []
  | k :: r => match commitOf s p k, commitsOf s p r with
    | .ok (st, x), .ok l => .ok ((k, st, x) :: l)
    | .error e, _ => .error e
    | _, .error e => .error e

/-- What reading the commit records leaves behind, up to the first that fails. -/
def touchCommits (p : Part) : List Super → State → State
  | [], s => s
  | k :: r, s =>
    let t := ppaTouch p 0 s.supers[k].hild.commit.toNat 64 s
    match commitOf s p k with
    | .ok _ => touchCommits p r t
    | .error _ => t

/-- The commit records of some supers read. -/
def readCommits (p : Part) (ks : List Super) (s : State) : State × Except MemErr (List (Super × Nat × DWord)) :=
  let t := touchCommits p ks s
  (t, match goneIf s t p none with
    | some e => .error e
    | none => commitsOf s p ks)

/-- The STEPs of queued, staging and writing runs of the partition. -/
def runSteps (s : State) (p : Part) : List DWord :=
  ((combsOf s p).map fun k => (s.supers[k].hild.queue ++ (s.supers[k].hild.cur.map (·.run)).toList).map (·.step)).flatten

/-- The highest of some STEPs. -/
def maxStep (l : List DWord) : Option DWord := l.foldl (fun m x => match m with
  | none => some x
  | some y => some (if y < x then x else y)) none

/-- The lowest of some STEPs. -/
def minStep (l : List DWord) : Option DWord := l.foldl (fun m x => match m with
  | none => some x
  | some y => some (if x < y then x else y)) none

/-- The first STEP, in super order, that differs from the record of the lowest STEP (R514; log entry 112). -/
def firstDiffer (rs : List (Super × Nat × DWord)) : Option DWord :=
  (rs.find? fun e => decide (minStep (rs.map (·.2.2)) ≠ some e.2.2)).map (·.2.2)

/-! ### The buffer list (R519–R523) -/

/-- A shard entry: its index, range and host buffer (R520). -/
structure Shard where
  index : Nat
  ppa   : Nat
  len   : Nat
  host  : Nat
  hostLen : Nat
  deriving DecidableEq, Repr

/-- The shard entries of a list. -/
def shardsOf (list : Bytes) : List Shard :=
  (List.range (list.length / 64 - 1)).map fun i =>
    let f := fieldAt list
    let o := 64 * (i + 1)
    ⟨i, f o 8, f (o + 8) 8, f (o + 16) 8, f (o + 24) 8⟩

/-- The plan digest (R521). -/
def planDigest (list : Bytes) : BitVec 512 :=
  Config.sha512 ((List.range (list.length / 64 - 1)).map fun i => slice list (64 * (i + 1)) 16).flatten

/-- The shards a partition writes (R522). -/
def ownShards (list : Bytes) : List Shard :=
  (shardsOf list).filter fun h => decide (h.index % fieldAt list 8 2 = fieldAt list 10 2)

/-- The record size of a shard of n bytes (R524). -/
def shardRecBytes (n : Nat) : Nat := n + 256 + 16 * ceilDiv (n + 192) 4096

/-- The manifest size for n entries (R527). -/
def manifestBytes (n : Nat) : Nat := 592 + 96 * n

/-- The first byte of the header field that byte i lies in (R519). -/
def hdrField (i : Nat) : Nat :=
  (([0, 4, 5, 8, 10, 12, 13, 14, 15, 16, 24, 28, 32, 40, 48] : List Nat).filter (· ≤ i)).getLastD 0

/-- Offsets of header fields that hold a non-zero byte among the listed bytes. -/
def nonZero (list : Bytes) (is : List Nat) : List Nat := (is.filter fun i => list.getD i 0 != 0).map hdrField

/-- RSV bytes of the header. -/
def hdrRsv : List Nat := [5, 6, 7, 15, 28, 29, 30, 31] ++ (List.range 16).map (48 + ·)

/-- Offsets of the bad extents JX, JY and JZ, and of a wrong MAGIC. -/
def extentBad (list : Bytes) : List Nat :=
  let f := fieldAt list
  badIf (f 0 4 ≠ 0x434B4C01) 0 ++ badIf (f 12 1 = 0 || 16 < f 12 1) 12 ++ badIf (f 13 1 = 0 || 24 < f 13 1) 13 ++
    badIf (f 14 1 = 0 || 32 < f 14 1) 14

/-- Offsets of bad shard fields: range, RSV, and what a writer or a restore asks of HOST and HOST_LEN. -/
def shardBad (list : Bytes) (hostBad lenBad : Shard → Bool) : List Nat :=
  ((shardsOf list).map fun h =>
    let o := 64 * (h.index + 1)
    badIf (h.ppa % 64 ≠ 0) o ++ badIf (h.len = 0 || 2 ^ 36 < h.len) (o + 8) ++ badIf (hostBad h) (o + 16) ++
      badIf (lenBad h) (o + 24) ++ badIf (!allZero (slice list (o + 32) 32)) (o + 32)).flatten

/-- Whether two ranges meet. -/
def meets (a n b m : Nat) : Bool := decide (a < b + m) && decide (b < a + n)

/-- SALVAGE and SNAP of a list. -/
def listSalvage (list : Bytes) : Bool := fieldAt list 4 1 % 2 == 1
def listSnap (list : Bytes) : Bool := fieldAt list 4 1 / 2 % 2 == 1

/-- The plaintext bytes of the shards a partition writes. -/
def ownBytes (list : Bytes) : Nat := ((ownShards list).map (·.len)).sum

/-- The first bad byte of a checkpoint's buffer list (R523). -/
def ckptListBad (s : State) (p : Part) (salvage : Bool) (list : Bytes) : Option Nat :=
  let f := fieldAt list
  let own : Shard → Bool := fun h => decide (h.index % f 8 2 = f 10 2)
  let snap := listSnap list
  (extentBad list ++ badIf (3 < f 4 1) 4 ++ nonZero list hdrRsv ++
    badIf (salvage && (combsOf s p).any fun k => s.combs[k].hum.active) 4 ++
    badIf (f 8 2 = 0 || 4096 < f 8 2) 8 ++ badIf (f 8 2 ≤ f 10 2) 10 ++ badIf (f 16 8 % 64 ≠ 0) 16 ++
    badIf (f 24 4 < manifestBytes (ownShards list).length) 24 ++
    badIf (f 32 8 % 4096 ≠ 0 || (!snap && f 32 8 ≠ 0) ||
      (snap && (shardsOf list).any fun h => meets (f 32 8) (f 40 8) h.ppa h.len)) 32 ++
    badIf (snap && f 40 8 < ownBytes list) 40 ++
    shardBad list (fun h => h.host % 64 ≠ 0 || (own h && h.host = 0)) (fun h => own h && h.hostLen < shardRecBytes h.len)).min?

/-- The first plan or snapshot range outside the PPA space: its offending address. -/
def planBad (s : State) (p : Part) (list : Bytes) (snap : Bool) : Option Nat :=
  ((shardsOf list).findSome? fun h => rangeBad s p (1, h.ppa, h.len)).or
    (if snap then rangeBad s p (1, fieldAt list 32 8, fieldAt list 40 8) else none)

/-! ### Ends -/

/-- A descriptor that no longer waits for a checkpoint. -/
def Desc.unblock (d : Desc) : Desc := { d with blocked := false }

/-- Descriptors that waited for a checkpoint may start (R518). -/
def unblockCkpt (p : Part) (s : State) : State :=
  s.modPart p fun q => { q with rings := q.rings.map fun g => RingState.unwait { g with descs := g.descs.map Desc.unblock } }

/-- The end of a checkpoint is reported: the descriptor's record, or the event record of R517. -/
def reportCkpt (p : Part) (ring : Option RunDesc) (st : Byte) (d1 : Word) (d2 : BitVec 56) (step : DWord) (s : State) : State :=
  match ring with
  | some rd => failDesc p rd.ring rd.idx st d1 d2 (serving s p rd.ring) s
  | none =>
    let s := postEvent p evCheckpointTrigger 0xB0 p (BitVec.ofNat 56 (st.toNat + 256 * (step.toNat % 2 ^ 48))) s
    if stopsPartition st then stopPartition p p st d1 d2 (if st = stInternal then d1 else 0) [] s else s

/-- Every Hild run that a checkpoint held goes on (R533). -/
def releaseHold (p : Part) (s : State) : State := forEach (combsOf s p) (fun k s => openGate k s) s

/-- A running checkpoint ends without its manifest (R533). -/
def endCkpt (p : Part) (st : Byte) (d1 : Word) (d2 : BitVec 56) (s : State) : State :=
  match s.parts[p].ckpt with
  | none => s
  | some c =>
    let s := s.modPart p fun q => { q with ckpt := none, ckptState := 0, orphaned := hit 16 q.orphaned }
    releaseHold p (unblockCkpt p (reportCkpt p c.ring st d1 d2 c.step s))

/-- A running checkpoint ends with a failed access. -/
def endCkptErr (p : Part) (e : MemErr) (s : State) : State := endCkpt p e.status.1 e.status.2.1 e.status.2.2 s

/-- A running restore leaves the partition. -/
def clearRestore (p : Part) (s : State) : State := s.modPart p fun q => { q with restore := none }

/-- A running restore fails with a status before it has written anything. -/
def endRestore (p : Part) (st : Byte) (d1 : Word) (d2 : BitVec 56) (s : State) : State :=
  match s.parts[p].restore with
  | none => s
  | some r => failDesc p r.ring.ring r.ring.idx st d1 d2 (serving s p r.ring.ring) (clearRestore p s)

/-- A running restore is ended by an event: the plan ranges are undefined (R536). -/
def abortRestore (p : Part) (st : Byte) (d1 : Word) (d2 : BitVec 56) (s : State) : State :=
  match s.parts[p].restore with
  | none => s
  | some r => endRestore p st d1 d2 (undefinePlan p r.list s)

/-! ### Shard records (R524–R526, R530) -/

/-- The instance key of a checkpoint. -/
def instanceKey (ckptKey id : BitVec 256) : BitVec 256 :=
  hkdf 256 (leBytes 32 ckptKey.toNat) (leBytes 32 id.toNat) [0x41, 0x44, 0x4C, 0x2D, 0x43, 0x4B, 0x50, 0x54]

/-- SHAPE_DIGEST (R526). -/
def shapeDigest (job : Word) (list : Bytes) (psize : BitVec 2) (man : BitVec 512) : BitVec 512 :=
  Config.sha512 (leBytes 4 job.toNat ++ slice list 12 3 ++ leBytes 1 psize.toNat ++ leBytes 64 man.toNat ++
    leBytes 64 (planDigest list).toNat)

/-- The trailer of a shard record (R525). -/
def trailer (job : Word) (step : DWord) (shard n : Nat) (shape data : BitVec 512) : Bytes :=
  padTo 192 (leBytes 4 0x434B5401 ++ leBytes 4 job.toNat ++ leBytes 8 step.toNat ++ leBytes 4 shard ++ leBytes 4 0 ++
    leBytes 8 n ++ leBytes 64 shape.toNat ++ leBytes 64 data.toNat)

/-- The record of one shard. -/
def shardRecord (c : Ckpt) (key : BitVec 256) (job : Word) (shape : BitVec 512) (h : Shard) (seq : Nat) (data : Bytes) : Bytes :=
  let plain := data ++ trailer job c.label h.index h.len shape (Config.sha512 data)
  sealRecord key (recHeader 0x52454301 clsCheckpoint 0 job.toNat plain.length seq c.label.toNat c.id) seq 0 clsCheckpoint plain

/-- The shard records written in list order from their source addresses, up to the first failed read. -/
def writeShards (p : Part) (c : Ckpt) (key : BitVec 256) (job : Word) (shape : BitVec 512) :
    List (Shard × Nat) → Nat → List ShardEnt → State → State × List ShardEnt × Nat × Option MemErr
  | [], seq, es, s => (s, es, seq, none)
  | (h, src) :: r, seq, es, s =>
    match ppaFetch p src h.len s with
    | (s, _, some e) => (s, es, seq, some e)
    | (s, data, none) =>
      let rec' := shardRecord c key job shape h seq data
      let s := hostPutAll (fnOf p) (hostWrites s (fnOf p) h.host rec' true) s
      writeShards p c key job shape r (seq + chunkCount (h.len + 192))
        (es ++ [⟨h.index, h.len, seq, rec'.length, Config.sha512 rec'⟩]) s

/-- The packed sources of the shards in the snapshot region. -/
def snapSources : Nat → List Shard → List (Shard × Nat)
  | _, [] => []
  | a, h :: r => (h, a) :: snapSources (a + h.len) r

/-- The shards of the running checkpoint are read, sealed and written (R530 step 5). -/
def runShards (p : Part) (src : List (Shard × Nat)) (s : State) : State :=
  match s.parts[p].ckpt, s.parts[p].ctx.man with
  | some c, some m =>
    if !s.fns[fnOf p].secure then endCkpt p stEgressDenied (w32 clsCheckpoint) 0 (noteNoIde p s) else
    let key := instanceKey (s.parts[p].ctx.ckptKey.getD 0) c.id
    let shape := shapeDigest m.jobId c.list s.parts[p].psize m.digest
    match writeShards p c key m.jobId shape src 0 [] s with
    | (s, _, _, some e) => endCkptErr p e s
    | (s, es, seq, none) => s.modPart p fun q => { q with
        ckptState := 2
        ckpt := some { c with wrote := true, entries := es, mseq := seq, moved := (es.map (·.recLen)).sum } }
  | _, _ => s

/-- Steps 4 and 5 of R530 begin: with SNAP the copy runs first. -/
def beginShards (p : Part) (s : State) : State :=
  match s.parts[p].ckpt with
  | none => s
  | some c =>
    let s := s.modPart p fun q => { q with ckptState := 2 }
    if listSnap c.list then s else runShards p ((ownShards c.list).map fun h => (h, h.ppa)) s

/-! ### Start (R514, R516, R518, R523, R532) -/

/-- A checkpoint that passed its checks starts: s is fixed, and a salvage checkpoint checks the records at once. -/
def fixStep (p : Part) (ring : Option RunDesc) (auto : Nat) (salvage : Bool) (list : Bytes) (want : DWord) (s : State) : State :=
  let stop := fun (st : Byte) (d1 : Word) (d2 : BitVec 56) (s : State) => reportCkpt p ring st d1 d2 want s
  match readCommits p (committing s p) s with
  | (s, .error e) => stop e.status.1 e.status.2.1 e.status.2.2 s
  | (s, .ok rs) =>
    let found := (maxStep (runSteps s p ++ rs.map (·.2.2))).getD (drawNow 64 s)
    let step := if want = BitVec.allOnes 64 then found else want
    let c : Ckpt := { ring := ring, auto := auto, list := list, step := step, label := step, salvage := salvage, hold := true
                      id := drawNow 256 (drawn s) }
    let s := (drawn (drawn s)).modPart p fun q => { q with ckpt := some c, ckptState := 1 }
    if !salvage then s
    else
      let first := (rs.head?.map (·.2.2)).getD step
      match rs.find? fun e => decide (e.2.1 ≠ 2) || decide (e.2.2 ≠ first) with
      | some e => endCkpt p stRestoreMismatchStep 0 (BitVec.ofNat 56 e.2.2.toNat) s
      | none => beginShards p (s.modPart p fun q => { q with ckpt := some { c with step := first, label := first } })

/-- The checks of R523 in order, then the start. -/
def startCkpt (p : Part) (ring : Option RunDesc) (auto count : Nat) (list : Bytes) (want : DWord) (s : State) : State :=
  let salvage := listSalvage list || decide (auto = 2)
  if count < 2 ∨ 8193 < count then drawn (reportCkpt p ring stFormatError (drawNow 32 s) 0 want s)
  else match ckptListBad s p salvage list with
  | some o => reportCkpt p ring stFormatError (w32 o) 0 want s
  | none =>
    match planBad s p list (listSnap list) with
    | some a => reportCkpt p ring stAccessViolation 0 (BitVec.ofNat 56 a) want s
    | none => fixStep p ring auto salvage list want s

/-- Whether a list of bytes is the whole of a list of so many entries; a count out of range needs no list. -/
def listGiven (count : Nat) (list : Bytes) : Bool := decide (count < 2) || decide (8193 < count) || list.length == 64 * count

/-- The standing list of an automatic checkpoint arrives (R516, R517). Its STEP is all ones; a refusal before s is fixed
reports a free STEP. -/
def takeStanding (p : Part) (c : Ckpt) (list : Bytes) (s : State) : State :=
  let n := s.parts[p].ckptCount.toNat
  if !listGiven n list ∨ !hostIssued s (fnOf p) (.ckptList p) ∨ !partServes s p then s else
  let s := (hostArrived (fnOf p) (.ckptList p) s).modPart p fun q => { q with ckpt := none, ckptState := 0 }
  unblockCkpt p (startCkpt p none c.auto n list (BitVec.allOnes 64) s)

/-- CHECKPOINT: the descriptor waits for a running checkpoint (R518), is refused by R472, or starts; it waits while a super or the host does not answer. With an automatic
checkpoint that still waits for its standing list, the list is that one. -/
def effCheckpoint (p : Part) (r : Ring) (list : Bytes) (s : State) : State :=
  match s.parts[p].ckpt with
  | some c =>
    if c.auto ≠ 0 ∧ c.list = [] then takeStanding p c list s
    else match startedDesc s p r opCheckpoint with
    | none => s
    | some d => (s.modDesc p r d.idx fun e => { e with blocked := true }).modRing p r fun g =>
        { g with state := if g.state = 1 then 2 else g.state }
  | none =>
    match startedDesc s p r opCheckpoint with
    | none => s
    | some d =>
      if !listGiven (d.field 24 4) list ∨ !partServes s p ∨ !hostOpen s (fnOf p) then s else
      match egressCheck s p clsCheckpoint 0 0 with
      | some (st, a, b) => failDesc p r d.idx st a b (serving s p r) (noteNoIde p s)
      | none => startCkpt p (some ⟨p, r, d.idx⟩) 0 (d.field 24 4) list (w64 (d.field 32 8))
          (hostFetch (fnOf p) [(d.field 16 8, 64 * d.field 24 4)] (activate p r d.idx id s))

/-- CHECKPOINT. -/
def execCheckpoint (p : Part) (r : Ring) (list : Bytes) (s : State) : Out := done (effCheckpoint p r list s)

/-- The refusal of an automatic checkpoint by R462 or R472, if any. -/
def autoRefused (s : State) (p : Part) : Option Byte :=
  let c := s.parts[p].ctx
  if c.state = 0 ∨ c.state = 1 then some stKeyRetired
  else (egressCheck s p clsCheckpoint 0 0).map (·.1)

/-- An automatic checkpoint starts by reading the standing list (R516), or is absorbed (R518) or refused (R517). -/
def autoCkpt (p : Part) (auto : Nat) (s : State) : State :=
  let q := s.parts[p]
  if q.ckpt.isSome ∨ q.stopped then s.modPart p fun q => { q with absorbed := hit 16 q.absorbed }
  else match autoRefused s p with
  | some st => drawn (reportCkpt p none st 0 0 (drawNow 64 s) (if st = stKeyRetired then s else noteNoIde p s))
  | none =>
    (hostPutAll (fnOf p) (hostReads s (fnOf p) q.ckptList.toNat (64 * q.ckptCount.toNat) (.ckptList p)) s).modPart p fun q =>
      { q with ckpt := some { ring := none, auto := auto }, ckptState := 1 }

/-- A CHECKPOINT_TRIGGER is posted; with AUTO it starts a checkpoint (R78, R510, R516). -/
def ckptTrigger (p : Part) (cause : Byte) (k : Comb) (detail : BitVec 56) (s : State) : State :=
  let s := postEvent p evCheckpointTrigger cause k detail s
  if s.parts[p].auto then autoCkpt p 1 s else s

/-! ### The later events of a checkpoint -/

/-- Whether a super satisfies one of the conditions of R514. -/
def stepMet (s : State) (step : DWord) (e : Super × Nat × DWord) : Bool :=
  decide (e.2.1 = 2) && (decide (e.2.2 = step) || s.supers[e.1].hild.discarded.contains step)

/-- CHECKPOINT_STEP_READY: every super satisfies R514, the records agree, and the writing begins. -/
def effStepReady (p : Part) (s : State) : State :=
  match s.parts[p].ckpt with
  | none => s
  | some c =>
    if s.parts[p].ckptState ≠ 1 ∨ c.list = [] ∨ !partServes s p then s else
    match readCommits p (committing s p) s with
    | (s, .error e) => endCkptErr p e s
    | (s, .ok rs) =>
      if !rs.all (stepMet s c.step) then s
      else match firstDiffer rs with
      | some x => endCkpt p stRestoreMismatchStep 0 (BitVec.ofNat 56 x.toNat) s
      | none =>
        let x := (rs.head?.map (·.2.2)).getD c.step
        if c.step < x then drawn (endCkpt p stRestoreMismatchStep 0 (drawNow 56 s) s)
        else beginShards p (s.modPart p fun q => { q with ckpt := some { c with label := x } })

/-- CHECKPOINT_STEP_READY. -/
def execCheckpointStepReady (p : Part) (s : State) : Out := done (effStepReady p s)

/-- The shards copied into the snapshot region, packed in list order, up to the first failure (R530 step 4). -/
def copyShards (p : Part) : List (Shard × Nat) → State → State × Option MemErr
  | [], s => (s, none)
  | (h, dst) :: r, s =>
    match ppaFetch p h.ppa h.len s with
    | (s, _, some e) => (s, some e)
    | (s, data, none) => match ppaWrite p dst data s with
      | (s, some e) => (s, some e)
      | (s, none) => copyShards p r s

/-- SNAPSHOT_COPY_DONE: the copy is in place, the hold ends, and the shards are written from the snapshot. -/
def effSnapDone (p : Part) (s : State) : State :=
  match s.parts[p].ckpt with
  | none => s
  | some c =>
    if s.parts[p].ckptState ≠ 2 ∨ c.wrote ∨ !listSnap c.list ∨ !partServes s p then s else
    let src := snapSources (fieldAt c.list 32 8) (ownShards c.list)
    match copyShards p src s with
    | (s, some e) => endCkptErr p e s
    | (s, none) =>
      runShards p src (releaseHold p (s.modPart p fun q => { q with ckpt := some { c with hold := false } }))

/-- SNAPSHOT_COPY_DONE. -/
def execSnapshotCopyDone (p : Part) (s : State) : Out := done (effSnapDone p s)

/-- WAG_COORD bits [14:0] with ATTACHED in bit 31 (R476). -/
def coordField (s : State) : Nat := s.mod.x.toNat + 32 * s.mod.y.toNat + 1024 * s.mod.z.toNat + 2 ^ 31 * b2n s.mod.attached

/-- A manifest entry (R527). -/
def entryBytes (e : ShardEnt) : Bytes :=
  leBytes 4 e.shard ++ leBytes 4 0 ++ leBytes 8 e.len ++ leBytes 8 e.seq ++ leBytes 8 e.recLen ++ leBytes 64 e.digest.toNat

/-- The manifest's header and entries (R527). -/
def manifestBody (s : State) (p : Part) (c : Ckpt) (m : Manifest) : Bytes :=
  let n := c.entries.length
  padTo 128 (leBytes 4 0x434B4D01 ++ leBytes 4 (manifestBytes n) ++ leBytes 4 m.jobId.toNat ++ leBytes 2 n ++
      leBytes 2 (c.list.length / 64 - 1) ++ leBytes 8 c.label.toNat ++ leBytes 1 (b2n c.salvage) ++
      leBytes 1 (p.val + 8 * s.parts[p].psize.toNat) ++ slice c.list 12 3 ++ [0] ++ slice c.list 10 2 ++ slice c.list 8 2 ++
      [0, 0] ++ leBytes 4 (coordField s) ++ leBytes 8 (humNs s p).toNat ++ leBytes 8 c.mseq ++ leBytes 32 c.id.toNat) ++
    padTo 384 (leBytes 64 m.digest.toNat ++ leBytes 64 (planDigest c.list).toNat ++
      leBytes 64 (shapeDigest m.jobId c.list s.parts[p].psize m.digest).toNat ++ leBytes 32 devidPub.toNat ++
      leBytes 32 (aliasPub s.boot.cdi1).toNat) ++
    (c.entries.map entryBytes).flatten

/-- The manifest with its KEY_TAG and SIGNATURE (R528). -/
def signManifest (cdi1 : BitVec 512) (key : BitVec 256) (mseq : Nat) (body : Bytes) : Bytes :=
  let tagged := body ++ Config.gcmSeal key (recNonce mseq 0 clsCheckpoint 0) body []
  tagged ++ aliasSign cdi1 tagged

/-- CHECKPOINT_SHARDS_VISIBLE: the hold ends and the manifest is written (R529, R530). -/
def effShardsVisible (p : Part) (s : State) : State :=
  match s.parts[p].ckpt, s.parts[p].ctx.man with
  | some c, some m =>
    if s.parts[p].ckptState ≠ 2 ∨ !c.wrote ∨ postWaits s (fnOf p) then s
    else if !s.fns[fnOf p].secure then endCkpt p stEgressDenied (w32 clsCheckpoint) 0 (noteNoIde p s)
    else
      let man := signManifest s.boot.cdi1 (instanceKey (s.parts[p].ctx.ckptKey.getD 0) c.id) c.mseq (manifestBody s p c m)
      let s := hostPutAll (fnOf p) (hostWrites s (fnOf p) (fieldAt c.list 16 8) man false) s
      releaseHold p (s.modPart p fun q => { q with
        ckptState := 3, ckpt := some { c with hold := false, moved := c.moved + man.length } })
  | _, _ => s

/-- CHECKPOINT_SHARDS_VISIBLE. -/
def execCheckpointShardsVisible (p : Part) (s : State) : Out := done (effShardsVisible p s)

/-- CHECKPOINT_MANIFEST_VISIBLE: LAST_STEP and DONE_CNT, and the checkpoint completes (R529, R537). -/
def effManifestVisible (p : Part) (s : State) : State :=
  match s.parts[p].ckpt with
  | none => s
  | some c =>
    if s.parts[p].ckptState ≠ 3 ∨ postWaits s (fnOf p) then s else
    let s := s.modPart p fun q => { q with
      ckpt := none, ckptState := 0, lastStep := c.label.setWidth 48, ckptDone := (q.ckptDone + 1) % 2 ^ 16 }
    unblockCkpt p (match c.ring with
      | some rd => finish p rd.ring rd.idx stOK (w32 c.moved) 0 (serving s p rd.ring) s
      | none => reportCkpt p none stOK 0 0 c.label s)

/-- CHECKPOINT_MANIFEST_VISIBLE. -/
def execCheckpointManifestVisible (p : Part) (s : State) : Out := done (effManifestVisible p s)

/-! ### Restore (R534–R536) -/

/-- A manifest of a block: its offset and its bytes. -/
abbrev ManAt := Nat × Bytes

/-- The manifests of a block by their LENGTH fields, or the offset of the first field that does not fit (R534). -/
def cutManifests : Nat → Nat → Bytes → Except Nat (List ManAt)
  | 0, o, bs => if bs.isEmpty then .ok [] else .error o
  | k + 1, o, bs =>
    if bs.isEmpty then .ok []
    else if fieldAt bs 0 4 ≠ 0x434B4D01 ∨ bs.length < 8 then .error o
    else
      let n := fieldAt bs 4 4
      if n < 592 ∨ bs.length < n then .error (o + 4)
      else match cutManifests k (o + n) (bs.drop n) with
        | .error e => .error e
        | .ok l => .ok ((o, bs.take n) :: l)

/-- The manifest entries of one manifest. -/
def manEntries (m : Bytes) : List ShardEnt :=
  (List.range (min (fieldAt m 12 2) ((m.length - 592) / 96))).map fun i =>
    let o := 512 + 96 * i
    ⟨fieldAt m o 4, fieldAt m (o + 8) 8, fieldAt m (o + 16) 8, fieldAt m (o + 24) 8, BitVec.ofNat 512 (fieldAt m (o + 32) 64)⟩

/-- Every entry of some manifests that names a shard. -/
def entriesFor (ms : List ManAt) (i : Nat) : List ShardEnt := ((ms.map fun m => manEntries m.2).flatten).filter fun e => decide (e.shard = i)

/-- The first bad byte of a restore's buffer list (R534). -/
def restoreListBad (ms : List ManAt) (list : Bytes) : Option Nat :=
  (extentBad list ++ nonZero list ([4, 5, 6, 7, 8, 9, 10, 11, 15] ++ (List.range 48).map (16 + ·)) ++
    shardBad list (fun h => h.host = 0) (fun h => (entriesFor ms h.index).any fun e => decide (h.hostLen < e.recLen))).min?

/-- Whether a manifest's KEY_TAG and SIGNATURE verify (R528, R534). -/
def manVerified (s : State) (p : Part) (m : Bytes) : Bool :=
  match s.parts[p].ctx.ckptKey with
  | none => false
  | some ck =>
    let key := instanceKey ck (BitVec.ofNat 256 (fieldAt m 56 32))
    let body := m.take (m.length - 80)
    let tagged := m.take (m.length - 64)
    decide (Config.gcmOpen key (recNonce (fieldAt m 48 8) 0 clsCheckpoint 0) body (slice m (m.length - 80) 16) = some []) &&
      Config.ed25519Verify (BitVec.ofNat 256 (fieldAt m 352 32)) (leBytes 64 (Config.sha512 tagged).toNat) (m.drop (m.length - 64))

/-- STEP of a manifest. -/
def manStep (m : Bytes) : DWord := w64 (fieldAt m 16 8)

/-- The first shape item of a manifest that differs (R534). -/
def shapeItem (s : State) (p : Part) (man : Manifest) (list m : Bytes) : Option Nat :=
  if fieldAt m 8 4 ≠ man.jobId.toNat ∨ fieldAt m 128 64 ≠ man.digest.toNat then some 1
  else if slice m 26 3 ≠ slice list 12 3 then some 2
  else if bits (fieldAt m 25 1) 4 3 ≠ s.parts[p].psize.toNat then some 3
  else if fieldAt m 192 64 ≠ (planDigest list).toNat then some 4 else none

/-- The first shard that is not in exactly one manifest entry with its LENGTH. -/
def shardMissing (ms : List ManAt) (list : Bytes) : Option Nat :=
  ((shardsOf list).find? fun h => match entriesFor ms h.index with
    | [e] => decide (e.len ≠ h.len)
    | _ => true).map (·.index)

/-- The checks of R534 before pass 1, in order: the failing status with DETAIL and DETAIL2. -/
def restoreBad (s : State) (p : Part) (man : Manifest) (list block : Bytes) : Option (Byte × Word × BitVec 56) :=
  let cut := cutManifests (block.length / 592 + 1) 0 block
  let ms : List ManAt := match cut with
    | .ok l => l
    | .error _ => []
  match restoreListBad ms list with
  | some o => some (stFormatError, w32 o, 0)
  | none => match cut with
  | .error o => some (stFormatError, w32 (0x80000000 + o), 0)
  | .ok ms => match planBad s p list false with
  | some a => some (stAccessViolation, 0, BitVec.ofNat 56 a)
  | none => match ms.findIdx? fun m => !manVerified s p m.2 with
  | some i => some (stRestoreDigest, w32 (0x80000000 + i), 0)
  | none => match ms.find? fun m => decide (manStep m.2 ≠ (ms.head?.elim 0 fun m => manStep m.2)) with
  | some m => some (stRestoreMismatchStep, 0, BitVec.ofNat 56 (manStep m.2).toNat)
  | none => match ms.findSome? fun m => shapeItem s p man list m.2 with
  | some i => some (stRestoreShape, w32 i, 0)
  | none => (shardMissing ms list).map fun i => (stRestoreDigest, w32 i, 0)

/-- RESTORE: the checks of R534 up to pass 1; one restore of a partition runs at a time. -/
def effRestore (p : Part) (r : Ring) (list block : Bytes) (s : State) : State :=
  match startedDesc s p r opRestore, s.parts[p].ctx.man with
  | some d, some man =>
    let n := d.field 40 4
    if s.parts[p].restore.isSome ∨ !listGiven n list ∨ block.length ≠ d.field 24 4 ∨ !hostOpen s (fnOf p) then s
    else if n < 2 ∨ 8193 < n then drawn (failDesc p r d.idx stFormatError (drawNow 32 s) 0 (serving s p r) s)
    else
    let s := hostFetch (fnOf p) [(d.field 32 8, 64 * n), (d.field 16 8, d.field 24 4)] s
    match restoreBad s p man list block with
    | some (st, a, b) => failDesc p r d.idx st a b (serving s p r) s
    | none => (activate p r d.idx id s).modPart p fun q => { q with restore := some ⟨⟨p, r, d.idx⟩, list, block, 1⟩ }
  | _, _ => s

/-- RESTORE. -/
def execRestore (p : Part) (r : Ring) (list manifests : Bytes) (s : State) : Out := done (effRestore p r list manifests s)

/-- The manifests of a running restore. -/
def Restore.mans (x : Restore) : List ManAt := match cutManifests (x.manifests.length / 592 + 1) 0 x.manifests with
  | .ok l => l
  | .error _ => []

/-- The entry of shard i in a running restore, and the manifest that holds it. -/
def Restore.entry (x : Restore) (i : Nat) : Option (ShardEnt × Bytes) :=
  x.mans.findSome? fun m => ((manEntries m.2).find? fun e => decide (e.shard = i)).map fun e => (e, m.2)

/-- Whether a staged record passes pass 1 (R534). -/
def recordOk (x : Restore) (job : Word) (h : Shard) (rec : Bytes) : Bool :=
  match x.entry h.index with
  | none => false
  | some (e, _) => decide (Config.sha512 rec = e.digest) && decide (fieldAt rec 4 1 = clsCheckpoint) &&
      decide (fieldAt rec 8 4 = job.toNat) && decide (fieldAt rec 12 4 = (h.len + 192) % 2 ^ 32) && decide (fieldAt rec 16 8 = e.seq)

/-- RESTORE_PASS1_DONE: every record read from HOST, in list order, is checked; pass 2 begins. -/
def effPass1 (p : Part) (records : List Bytes) (s : State) : State :=
  match s.parts[p].restore, s.parts[p].ctx.man with
  | some x, some man =>
    let hs := shardsOf x.list
    if x.pass ≠ 1 ∨ records.length ≠ hs.length ∨ !hostOpen s (fnOf p) then s
    else
    let s := hostFetch (fnOf p) ((hs.zip records).map fun e => (e.1.host, e.2.length)) s
    match (hs.zip records).find? fun e => !recordOk x man.jobId e.1 e.2 with
    | some e => endRestore p stRestoreDigest (w32 e.1.index) 0 s
    | none => s.modPart p fun q => { q with restore := some { x with pass := 2 } }
  | _, _ => s

/-- RESTORE_PASS1_DONE. -/
def execRestorePass1Done (p : Part) (records : List Bytes) (s : State) : Out := done (effPass1 p records s)

/-- The data of a record that passes pass 2 (R535): every chunk tag, the trailer and DATA_DIGEST. -/
def openShard (s : State) (p : Part) (x : Restore) (man : Manifest) (h : Shard) (rec : Bytes) : Option Bytes :=
  match x.entry h.index with
  | none => none
  | some (e, m) =>
    let key := instanceKey (s.parts[p].ctx.ckptKey.getD 0) (BitVec.ofNat 256 (fieldAt m 56 32))
    let (plain, bad) := openChunks key (rec.take 64) e.seq 0 clsCheckpoint (chunkCount (h.len + 192) + 1) 0 (rec.drop 64)
    let data := plain.take h.len
    let shape := shapeDigest man.jobId x.list s.parts[p].psize man.digest
    if bad.isNone ∧ plain.length = h.len + 192 ∧
        plain.drop h.len = trailer man.jobId (manStep m) h.index h.len shape (Config.sha512 data) then some data else none

/-- What pass 2 meets. -/
inductive PassErr where
  | digest (shard : Nat)
  | mem (e : MemErr)
  deriving DecidableEq, Repr

/-- The records of pass 2 in list order, up to the first failure. -/
def loadShards (p : Part) (x : Restore) (man : Manifest) : List (Shard × Bytes) → State → State × Option PassErr
  | [], s => (s, none)
  | (h, rec) :: r, s =>
    match openShard s p x man h rec with
    | none => (s, some (.digest h.index))
    | some data => match ppaWrite p h.ppa data s with
      | (s, some e) => (s, some (.mem e))
      | (s, none) => loadShards p x man r s

/-- The commit records written as DONE with the checkpoint's STEP (R535). -/
def restoreCommits (p : Part) (step : DWord) : List Super → State → State × Option MemErr
  | [], s => (s, none)
  | k :: r, s =>
    match ppaWrite p s.supers[k].hild.commit.toNat
        (commitRec 2 ⟨k, 0, 0, step, 0, 0, none, none⟩ 0 (humNs s k)) s with
    | (s, some e) => (s, some e)
    | (s, none) => restoreCommits p step r s

/-- RESTORE_PASS2_DONE: the shards are verified and written, then the commit records; the restore completes. -/
def effPass2 (p : Part) (records : List Bytes) (s : State) : State :=
  match s.parts[p].restore, s.parts[p].ctx.man with
  | some x, some man =>
    let hs := shardsOf x.list
    if x.pass ≠ 2 ∨ records.length ≠ hs.length ∨ !hostOpen s (fnOf p) ∨ !partServes s p then s
    else
    match loadShards p x man (hs.zip records) (hostFetch (fnOf p) ((hs.zip records).map fun e => (e.1.host, e.2.length)) s) with
    | (s, some (.digest i)) => endRestore p stRestoreDigest (w32 i) 0 (undefinePlan p x.list s)
    | (s, some (.mem e)) => endRestore p e.status.1 e.status.2.1 e.status.2.2 (undefinePlan p x.list s)
    | (s, none) =>
      match restoreCommits p (x.mans.head?.elim 0 fun m => manStep m.2) (committing s p) s with
      | (s, some e) => endRestore p e.status.1 e.status.2.1 e.status.2.2 s
      | (s, none) =>
        finish p x.ring.ring x.ring.idx stOK (w32 (hs.map (·.len)).sum) 0 (serving s p x.ring.ring) (clearRestore p s)
  | _, _ => s

/-- RESTORE_PASS2_DONE. -/
def execRestorePass2Done (p : Part) (records : List Bytes) (s : State) : Out := done (effPass2 p records s)

end Sys2Proof.Machine
end

