-- ==== Sys2Proof/Machine/RegRead.lean ====
section
/-! DEFINITION. Registers as a function reads them: widths, reach and fields (R5, R8, R44, R49, R84, R144, R185, R207,
R238, R266, R269, R307, R318, R319, R334, R366, R372, R373, R411, R420, R435, R436, R480, R511, R512, R537, R556, R573). -/

namespace Sys2Proof.Machine

/-! ### Widths and reach -/

/-- Whether a register is 64 bits wide; WAG_LEASE entries are 16 bits and the others 32 (R8). -/
def regWide : Reg → Bool
  | .sqBase _ | .cqBase _ | .dbAddr _ | .headAddr _ | .sqStatus _ | .ringEvcnt _ | .eqBase | .eqHeadAddr | .eqStatus
  | .eqEvcnt | .hiveAddr | .hiveStatus | .supRgn _ | .fnEvcnt | .ckptList | .ckptStatus | .ckptEvcnt | .partEVf | .hstSem _
  | .rngEvcnt _ | .rngStep _ | .humTime _ | .humEvcnt _ | .humBeatCfg _ | .humBeat _ | .seqStatus _ | .seqEvcnt _ | .seqPc _
  | .seqRetain _ | .cellStatus _ | .cellEvcnt _ | .cellErrlog _ | .vecEvcnt _ | .rowEvcnt _ | .rowClip _ | .wagLink _
  | .wagEvcnt _ | .wagEvcnt2 _ | .wagEvcnt3 _ | .wagJob _ _ | .supStatus _ | .supEvcnt _ | .supErrlog _ | .prpKeystateLo _
  | .prpKeystateHi _ | .prpStatus _ | .prpEvcnt _ | .prpEvcnt2 _ | .prpCcstat _ | .prpErrlog _ | .hldGtab _ | .hldPtab _
  | .hldCommit _ | .hldStatus _ | .hldEvcnt _ | .humEpoch | .wagCoord | .wagPort _ | .prpBridgeEvcnt _ | .winBase
  | .winStatus | .qnCrown | .qnEvcnt | .qnPart _ | .evtEvcnt | .evtEvcnt2 | .evtEwCfg | .evtSum _ | .evtModlog | .pwrEvcnt
  | .pwrInput | .pwrTherm | .pwrTsup | .pwrPartE _ | .clkEvcnt | .qnBootStatus | .qnBootCmd | .qnRepair => true
  | _ => false

/-- The comb a comb-block register belongs to. -/
def regComb : Reg → Option Comb
  | .topo k | .rngStatus k | .rngEvcnt k | .rngStep k | .humTime k | .humStatus k | .humEvcnt k | .humBeatCfg k | .humBeat k
  | .humSlack k | .seqCfg k | .seqStatus k | .seqEvcnt k | .seqPc k | .seqPred k | .seqRetain k | .cellStatus k
  | .cellEvcnt k | .cellErrlog k | .vecStatus k | .vecEvcnt k | .rowStatus k | .rowEvcnt k | .rowClip k | .wagLink k
  | .wagStatus k | .wagEvcnt k | .wagEvcnt2 k | .wagJob k _ => some k
  | _ => none

/-- The super a super-block register belongs to, where a VF can reach it. -/
def regSuper : Reg → Option Super
  | .supStatus k | .supEvcnt k | .supErrlog k | .supEvcnt2 k | .prpKeystateLo k | .prpKeystateHi k | .prpStatus k
  | .prpEvcnt k | .prpEvcnt2 k | .prpEvcnt3 k | .prpCcstat k | .prpErrlog k | .hldGtab k | .hldPtab k | .hldCommit k
  | .hldStatus k | .hldEvcnt k | .hldEvcnt2 k | .hldDp k => some k
  | _ => none

/-- Registers of a VF's own blocks. -/
def regOfVf : Reg → Bool
  | .sqBase _ | .cqBase _ | .dbAddr _ | .headAddr _ | .sqEpoch _ | .sqCfg _ | .sqStatus _ | .ringEvcnt _ | .hiveAddr
  | .hiveStatus | .supRgn _ | .supMap | .ckptList | .ckptCfg | .ckptStatus | .ckptEvcnt | .partEVf | .hstSem _ => true
  | _ => false

/-- Registers of every function's own blocks. -/
def regOfFn : Reg → Bool
  | .eqBase | .eqHeadAddr | .eqEpoch | .eqCfg | .eqStatus | .eqEvcnt | .fnStatus | .fnEvcnt | .fnEvcnt2 | .pciCommand
  | .pciPm | .pciDevctl => true
  | _ => false

/-- Registers of configuration space: they answer at every stage. -/
def regConfig : Reg → Bool
  | .pciCommand | .pciPm | .pciSriov | .pciDevctl => true
  | _ => false

/-- Whether the boot stage lets a register be reached (R573, R574): READY, a held module, or the boot registers. -/
def stageServes (s : State) (f : Fn) (r : Reg) : Bool :=
  regConfig r || s.boot.stage == 5 || (s.evt.modState == 2 && f.val == 0) ||
  match r with
  | .qnBootStatus | .qnBootCmd => f.val == 0
  | _ => false

/-- Whether function f reaches a register (R415, R420 and the rule of each register). -/
def reaches (s : State) (f : Fn) (r : Reg) : Bool :=
  stageServes s f r &&
  match partOfFn f with
  | none => !(regOfVf r)
  | some p =>
    if regConfig r then regOfFn r
    else s.parts[p].live && (regOfFn r || regOfVf r ||
      (match r with
       | .wagJob k j => inPart s p k && s.combs[k].router.jobs[j].role == 1
       | _ => match regComb r with
         | some k => inPart s p k
         | none => match regSuper r with
           | some k => inPart s p k
           | none => false))

/-! ### Fields -/

/-- The value with each field placed at its low bit. -/
def place (fs : List (Nat × Nat)) : Nat := (fs.map fun f => f.2 * 2 ^ f.1).sum

/-- A status bit at a position. -/
def stickyAt (b : Nat) (t : Sticky) : Nat × Nat := (b, b2n t.on)

/-- A signed value in a byte, saturating at ±127 (R58). -/
def satByte (v : Int) : Nat := ((max (-127) (min 127 v)) % 256).toNat
/-- A temperature in a byte. -/
def tempByte (v : Int) : Nat := (v % 256).toNat

/-- Whether the spare lane carries a strand on a logical port, in either direction (R411). -/
def spared (s : State) (k : Comb) (p : LPort) : Bool :=
  let q := s.ports[physPort s p]
  (decide (q.spareTx ≠ 31) && decide (strandOf q.spareTx.toNat = k)) ||
  (decide (q.spareRx ≠ 31) && decide (strandOf q.spareRx.toNat = k))

/-- A job entry as WAG_JOB reads it (R411). -/
def jobWord (e : JobEntry) : Nat :=
  place [(0, e.jobId.toNat), (32, e.role.toNat), (34, e.vparent.toNat), (38, e.vchild.toNat), (44, e.aports.toNat),
    (50, b2n e.leased), (51, b2n e.aborted), (52, b2n e.keyed), (53, e.fkgen.toNat)]

/-- The states of 32 key slots from slot i. -/
def slotWord (u : SuperState) (i : Nat) : Nat :=
  place ((List.range 32).map fun m => (2 * m, ((u.slots[m + i]?).map (·.state.toNat)).getD 0))

/-- Causes and divider of a die (R554, R556). -/
def thermDram (d : DieState) : Bool := decide (d.thermDram ≠ 0)
def dieCauses (d : DieState) : Nat := place [(0, b2n d.uv), (1, b2n (d.thermDie || thermDram d)), (2, b2n d.overpwr)]
def dieDiv (d : DieState) : Nat := if d.thermDie ∧ d.therm4 then 2 else if dieCauses d ≠ 0 then 1 else 0

/-- A ring's status register. -/
def sqStatusVal (g : RingState) : Nat :=
  place [(0, g.consumed.toNat), (32, g.state.toNat), stickyAt 34 g.staleDb, stickyAt 35 g.fault, stickyAt 36 g.cqFull]

/-- Offset of an error log as a function reads it: the device offset for PF0, the PPA for a VF (R334, R366); `set`: the log
has captured an error. -/
def logOff (s : State) (f : Fn) (k : Super) (set : Bool) (off : BitVec 36) : Nat :=
  if !set then 0 else
  match partOfFn f with
  | none => off.toNat
  | some p => match ownerAt s k off.toNat with
    | some (q, _, a) => if q = p then a % 2 ^ 36 else 0
    | none => 0

/-- The registers of a ring block. -/
def ringVal (g : RingState) : Reg → Nat
  | .sqBase _ => g.sqBase.toNat
  | .cqBase _ => g.cqBase.toNat
  | .dbAddr _ => g.dbAddr.toNat
  | .headAddr _ => g.headAddr.toNat
  | .sqEpoch _ => g.epoch.toNat
  | .sqCfg _ => place [(0, b2n g.enable), (1, g.log2.toNat), (8, g.pollDiv.toNat)]
  | .sqStatus _ => sqStatusVal g
  | .ringEvcnt _ => place [(0, g.staleDb.cnt), (16, g.fault.cnt), (32, g.cqFull.cnt)]
  | _ => 0

/-- The registers of an event ring block that every function has. -/
def evRingVal (e : EvRing) : Reg → Nat
  | .eqBase => e.base.toNat
  | .eqHeadAddr => e.headAddr.toNat
  | .eqEpoch => e.epoch.toNat
  | .eqCfg => place [(0, b2n e.enable), (1, e.log2.toNat)]
  | .eqStatus => place [(0, e.written.toNat), stickyAt 32 e.lost, stickyAt 33 e.stale]
  | .eqEvcnt => place [(0, e.lost.cnt), (32, e.stale.cnt)]
  | _ => 0

/-- The other registers of a VF's own blocks (R98, R318, R319, R512, R537, R556). -/
def partVal (s : State) (p : Part) : Reg → Nat
  | .hiveAddr => s.parts[p].hiveAddr.toNat
  | .hiveStatus => let q := s.parts[p]
    place [stickyAt 0 q.hiveWr, stickyAt 1 q.hiveDrop, (16, q.hiveSeq.toNat), (32, q.hiveWr.cnt), (48, q.hiveDrop.cnt)]
  | .supRgn i => let g := s.parts[p].rgn[i]
    place [(0, g.kind.toNat), (3, g.pos.toNat), (8, g.keyId.toNat), (16, g.share.toNat)]
  | .supMap => let q := s.parts[p]; place [(1, b2n q.locked), (2, b2n q.ready), (8, q.mapErr.toNat)]
  | .ckptList => s.parts[p].ckptList.toNat
  | .ckptCfg => let q := s.parts[p]; place [(0, b2n q.auto), (1, b2n q.autoSalv), (2, q.ckptCount.toNat)]
  | .ckptStatus => let q := s.parts[p]
    place [(0, q.ckptState.toNat), stickyAt 2 q.absorbed, stickyAt 3 q.orphaned, (16, q.lastStep.toNat)]
  | .ckptEvcnt => let q := s.parts[p]; place [(0, q.absorbed.cnt), (16, q.orphaned.cnt), (32, q.ckptDone)]
  | .partEVf => place [(0, s.parts[p].energy.toNat), (32, s.parts[p].peak.toNat)]
  | .hstSem i => (semVal s p i.val).toNat
  | _ => 0

/-- A function's block and the registers of its configuration space (R435, R415, R423, R425, R433). -/
def fnVal (s : State) (f : Fn) : Reg → Nat
  | .fnStatus => let q := s.fns[f]
    place [stickyAt 0 q.timeout, stickyAt 1 q.cplBad, stickyAt 2 q.badMmio, stickyAt 3 q.ideFail, stickyAt 4 q.noIde,
      (8, b2n q.secure), (9, q.tdi.toNat), (11, b2n q.d3)]
  | .fnEvcnt => let q := s.fns[f]
    place [(0, q.timeout.cnt), (16, q.cplBad.cnt), (32, q.badMmio.cnt), (48, q.ideFail.cnt)]
  | .fnEvcnt2 => s.fns[f].noIde.cnt
  | .pciCommand => place [(1, b2n s.fns[f].memSpace), (2, b2n s.fns[f].busMaster)]
  | .pciPm => if s.fns[f].d3 then 3 else 0
  | .pciDevctl => let q := s.fns[f]; place [(4, b2n q.relaxed), (5, q.mps.toNat), (12, q.mrrs.toNat)]
  | _ => 0

/-- Topology, entropy and hum of a comb block (R44, R49, R58, R64, R74, R207). DESIGN CHOICE (log entry 94): while the router
domain is off the HUM_ registers read what they held, or their Reset values before it first came on. -/
def humVal (s : State) (k : Comb) : Reg → Nat
  | .topo _ => let c := s.combs[k]
    place [(0, k.val), (3, k.val / 4), (4, b2n c.assigned), (5, c.psize.toNat), (7, c.pbase.val), (16, c.subst.toNat),
      (24, c.grpPwr.toNat), (28, b2n c.sparePwr), (29, b2n c.seqPwr), (30, b2n c.routerPwr)]
  | .rngStatus _ => let g := s.combs[k].rng
    place [(0, g.state.toNat), (2, b2n g.ready), stickyAt 8 g.rct, stickyAt 9 g.apt, stickyAt 10 g.skip]
  | .rngEvcnt _ => let g := s.combs[k].rng; place [(0, g.rct.cnt), (16, g.apt.cnt), (32, g.skip.cnt), (48, g.reseeds)]
  | .rngStep _ => s.combs[k].rng.step.toNat
  | .humTime _ => (humNs s k).toNat
  | .humStatus _ => let h := s.combs[k].hum
    place [(0, h.state.toNat), (2, h.parent.toNat), (8, satByte (h.offset / 16)), stickyAt 16 h.lockLost, stickyAt 17 h.slip,
      stickyAt 18 h.overrun, stickyAt 19 h.slackLow]
  | .humEvcnt _ => let h := s.combs[k].hum
    place [(0, h.lockLost.cnt), (16, h.slip.cnt), (32, h.overrun.cnt), (48, h.slackLow.cnt)]
  | .humBeatCfg _ => let h := s.combs[k].hum; place [(0, h.cfgFrames.toNat), (15, b2n h.active), (16, h.origin.toNat)]
  | .humBeat _ => let h := s.combs[k].hum
    place [(0, h.beat.toNat), (48, if h.active then (frameOf s k - h.beatStart) % 4096 else 0)]
  | .humSlack _ => let h := s.combs[k].hum; place [(0, h.lastSlack % 2 ^ 21), (21, h.warn.toNat)]
  | _ => 0

/-- A predicate's code (R144). -/
def predCode : PState → Nat
  | .isFalse => 0
  | .isTrue => 1
  | .pending => 2

/-- The sequencer registers (R144). -/
def seqVal (q : Seq) : Reg → Nat
  | .seqCfg _ => q.runahead.toNat
  | .seqStatus _ => place [(0, q.state.toNat), (2, q.stall.toNat), (6, window q), stickyAt 16 q.squash, stickyAt 17 q.retainFull,
      stickyAt 18 q.progFault]
  | .seqEvcnt _ => place [(0, q.squash.cnt), (16, q.retainFull.cnt), (32, q.progFault.cnt)]
  | .seqPc _ => place [(0, q.pc.toNat), (32, q.sqIndex.toNat)]
  | .seqPred _ => place ((fins 16).map fun m => (2 * m.val, predCode q.preds[m]))
  | .seqRetain _ => place [(0, heldBytes q), (32, heldEntries q)]
  | _ => 0

/-- Cell, vector and row registers (R185, R238, R266, R269). -/
def cellVal (c : CombState) : Reg → Nat
  | .cellStatus _ => let r := c.cellRegs
    place [(0, r.failed.toNat), (21, b2n r.degraded), stickyAt 24 r.ce, stickyAt 25 r.ue, stickyAt 26 r.swap]
  | .cellEvcnt _ => let r := c.cellRegs; place [(0, r.ce.cnt), (32, r.ue.cnt), (48, r.swap.cnt)]
  | .cellErrlog _ => let r := c.cellRegs
    place [(0, r.errCell.toNat), (5, r.errStore.toNat), (8, r.errOff.toNat), (32, r.errTag.toNat)]
  | .vecStatus _ => place [stickyAt 0 c.vecSat, stickyAt 1 c.vecCollide]
  | .vecEvcnt _ => place [(0, c.vecSat.cnt), (32, c.vecCollide.cnt)]
  | .rowStatus _ => place [stickyAt 0 c.rowEmpty, stickyAt 1 c.rowIgnored, stickyAt 2 c.rowClipWr]
  | .rowEvcnt _ => place [(0, c.rowEmpty.cnt), (24, c.rowIgnored.cnt), (48, c.rowClipWr.cnt)]
  | .rowClip _ => place [(0, c.clip.toNat), (32, b2n c.clipSealed)]
  | _ => 0

/-- Router registers (R411); a VF reads only bits [15:0] of WAG_STATUS. -/
def routerVal (s : State) (f : Fn) (k : Comb) : Reg → Nat
  | .wagLink _ => place ((fins 6).flatMap fun p =>
      [(4 * p.val, (s.combs[k].router.ports[p]).state.toNat), (4 * p.val + 2, b2n (spared s k p))])
  | .wagStatus _ => let r := s.combs[k].router
    place ([stickyAt 0 r.alarmTx, stickyAt 1 r.alarmRx, stickyAt 2 r.authFail, stickyAt 3 r.flitLost, stickyAt 4 r.dispOvf,
      stickyAt 5 r.linkDown, stickyAt 6 r.seqExh] ++ (if f.val = 0 then [stickyAt 16 r.misroute, stickyAt 17 r.cwUncorr,
      stickyAt 18 r.laneWarn, stickyAt 19 r.spareSwap] else []))
  | .wagEvcnt _ => let r := s.combs[k].router
    place [(0, r.alarmTx.cnt), (16, r.alarmRx.cnt), (32, r.authFail.cnt), (48, r.flitLost.cnt)]
  | .wagEvcnt2 _ => let r := s.combs[k].router; place [(0, r.dispOvf.cnt), (32, r.linkDown.cnt), (48, r.seqExh.cnt)]
  | .wagEvcnt3 _ => let r := s.combs[k].router
    place [(0, r.misroute.cnt), (16, r.cwUncorr.cnt), (32, r.laneWarn.cnt), (48, r.spareSwap.cnt)]
  | .wagLeaseCmt _ => place [(8, s.combs[k].router.cmtErr.toNat)]
  | .wagJob _ j => jobWord s.combs[k].router.jobs[j]
  | _ => 0

/-- Super registers (R334). -/
def supVal (s : State) (f : Fn) (k : Super) : Reg → Nat
  | .supStatus _ => let u := s.supers[k]
    place [(0, u.state.toNat), (2, b2n u.hot), (3, b2n u.dieMark), (4, u.die.toNat), stickyAt 8 u.ce, stickyAt 9 u.ue,
      stickyAt 10 u.ppr, stickyAt 11 u.pprExh, stickyAt 12 u.retry]
  | .supEvcnt _ => let u := s.supers[k]; place [(0, u.ce.cnt), (32, u.ue.cnt), (48, u.retry.cnt)]
  | .supErrlog _ => let u := s.supers[k]
    place [(0, logOff s f k u.errSet u.errOff), (36, u.errSrc.toNat), (39, b2n u.errSealed)]
  | .supScrub _ => s.supers[k].scrub.toNat
  | .supEvcnt2 _ => let u := s.supers[k]; place [(0, u.ppr.cnt), (16, u.pprExh.cnt)]
  | _ => 0

/-- Propolis registers (R366). -/
def prpVal (s : State) (f : Fn) (k : Super) : Reg → Nat
  | .prpKeystateLo _ => slotWord s.supers[k] 0
  | .prpKeystateHi _ => slotWord s.supers[k] 32
  | .prpStatus _ => let u := s.supers[k]
    place [(0, u.tree.toNat), stickyAt 8 u.tagFail, stickyAt 9 u.nodeFail, stickyAt 10 u.ctrExh, stickyAt 11 u.ctrWarn,
      stickyAt 12 u.keyRefused, stickyAt 13 u.lateDrop, stickyAt 14 u.mergeRetry, stickyAt 15 u.dbgBlock, stickyAt 16 u.linkAuth]
  | .prpEvcnt _ => let u := s.supers[k]
    place [(0, u.tagFail.cnt), (16, u.nodeFail.cnt), (32, u.ctrExh.cnt), (48, u.ctrWarn.cnt)]
  | .prpEvcnt2 _ => let u := s.supers[k]
    place [(0, u.keyRefused.cnt), (16, u.lateDrop.cnt), (32, u.mergeRetry.cnt), (48, u.dbgBlock.cnt)]
  | .prpEvcnt3 _ => s.supers[k].linkAuth.cnt
  | .prpCcstat _ => let u := s.supers[k]; place [(0, u.hits.toNat), (32, u.misses.toNat)]
  | .prpErrlog _ => let u := s.supers[k]
    place [(0, logOff s f k (u.perrKind != 0) u.perrOff), (36, u.perrKind.toNat), (39, u.perrLevel.toNat), (43, u.perrKey.toNat)]
  | _ => 0

/-- Hild registers (R307). -/
def hildVal (h : Hild) : Reg → Nat
  | .hldGtab _ => h.gtab.toNat
  | .hldPtab _ => h.ptab.toNat
  | .hldCommit _ => h.commit.toNat
  | .hldStatus _ => place [(0, h.state.toNat), (2, h.queue.length), (8, h.group.toNat), stickyAt 32 h.nonfinite,
      stickyAt 33 h.discard, stickyAt 34 h.rowcnt, stickyAt 35 h.poison, stickyAt 36 h.seedFail]
  | .hldEvcnt _ => place [(0, h.nonfinite.cnt), (16, h.discard.cnt), (32, h.rowcnt.cnt), (48, h.poison.cnt)]
  | .hldEvcnt2 _ => h.seedFail.cnt
  | .hldDp _ => place [(0, h.dp.length), (16, b2n h.isSealed)]
  | _ => 0

/-- Module block (R50, R366, R372, R373, R411, R436). -/
def moduleVal (s : State) : Reg → Nat
  | .humCfg => let m := s.mod; place [(0, b2n m.humRoot), (8, m.rootX.toNat), (13, m.rootY.toNat), (18, m.rootZ.toNat)]
  | .humEpoch => s.mod.humEpoch.toNat
  | .wagCoord => let m := s.mod
    place [(0, m.x.toNat), (5, m.y.toNat), (10, m.z.toNat), (16, m.dimX.toNat), (21, m.dimY.toNat), (26, m.dimZ.toNat),
      (31, b2n m.attached)]
  | .wagPortmap => let m := s.mod; place [(0, m.mapEn.toNat), (6, b2n m.zpSkip), (7, b2n m.znSkip)]
  | .wagPort p => let q := s.ports[p]
    place [(0, q.failedTx.toNat), (17, q.failedRx.toNat), (34, q.spareTx.toNat), (39, q.spareRx.toNat), (44, b2n q.on)]
  | .prpBridge d => let e := s.dies[d]
    place ((fins 4).map (fun i => stickyAt i.val e.groupAuth[i]) ++ [stickyAt 4 e.hostAuth, stickyAt 5 e.mgmtAuth])
  | .prpBridgeEvcnt d => place ((fins 4).map fun i => (16 * i.val, (s.dies[d].groupAuth[i]).cnt))
  | .prpBridgeEvcnt2 d => place [(0, s.dies[d].hostAuth.cnt), (16, s.dies[d].mgmtAuth.cnt)]
  | .winBase => place [(30, s.mod.winBase.toNat)]
  | .winStatus => place [stickyAt 0 s.mod.winDenied, (8, s.mod.winAddr.toNat), (48, s.mod.winDenied.cnt)]
  | .pciSriov => place [(0, b2n s.mod.vfEnable), (16, s.mod.numVfs)]
  | _ => 0

/-- CTX of QN_PART: 4 while a REMOVE runs (R480). -/
def ctxCode (q : PartState) : Nat := if q.removing then 4 else q.ctx.state.toNat

/-- Whether the debug paths are open (R478): in the development state from boot on, or by an unlock. -/
def debugOpen (s : State) : Bool := s.queen.dbgActive || (decide (Config.fusedDebugState = 0) && queenReigns s)

/-- Queen registers (R480). -/
def queenVal (s : State) : Reg → Nat
  | .qnCrown => let q := s.queen; place [(0, q.epoch.toNat), (32, q.die.val), (33, q.q0.toNat), (35, q.q1.toNat)]
  | .qnStatus => let q := s.queen
    place [stickyAt 0 q.staleWr, stickyAt 1 q.crownChg, stickyAt 2 q.manRej, stickyAt 3 q.envRej, stickyAt 4 q.sbMac,
      stickyAt 5 q.dbgUnlock]
  | .qnEvcnt => let q := s.queen; place [(0, q.staleWr.cnt), (16, q.crownChg.cnt), (32, q.manRej.cnt), (48, q.envRej.cnt)]
  | .qnEvcnt2 => place [(0, s.queen.sbMac.cnt), (16, s.queen.dbgUnlock.cnt)]
  | .qnPartCmd => place [(8, b2n s.queen.cmdBusy), (9, s.queen.cmdErr.toNat)]
  | .qnPart k => let q := s.parts[k]
    if q.live then place [(0, 1), (1, q.psize.toNat), (3, ctxCode q), (8, ((q.ctx.man.map (·.owners.length)).getD 0)),
      (32, (jobOf s k).toNat)] else 0
  | .qnDebug => place [(0, Config.fusedDebugState.toNat), (2, b2n (debugOpen s)), (3, s.dies[(0 : Die)].unlocks.toNat),
      (11, s.queen.scope.toNat)]
  | _ => 0

/-- Event registers (R511). -/
def evtVal (s : State) : Reg → Nat
  | .evtResetCmd => place [(16, b2n s.evt.resetBusy), (17, s.evt.resetErr.toNat)]
  | .evtStatus => let e := s.evt
    place [(0, e.modState.toNat), stickyAt 8 e.recovery, stickyAt 9 e.escalate, stickyAt 10 e.drainTo, stickyAt 11 e.wdog,
      stickyAt 12 e.ewTrip, stickyAt 13 e.lateFlit]
  | .evtEvcnt => let e := s.evt; place [(0, e.recovery.cnt), (16, e.escalate.cnt), (32, e.drainTo.cnt), (48, e.wdog.cnt)]
  | .evtEvcnt2 => place [(0, s.evt.ewTrip.cnt), (16, s.evt.lateFlit.cnt)]
  | .evtDrain => s.evt.drain.toNat
  | .evtWdog => s.evt.wdogLim.toNat
  | .evtEwCfg => let e := s.evt
    place [(0, e.ceThr.toNat), (16, e.slackThr.toNat), (24, e.repairThr.toNat), (32, e.margin.toNat), (40, e.trig.toNat)]
  | .evtSum k => s.parts[k].sum.toNat
  | .evtModlog => s.evt.modlog.toNat
  | _ => 0

/-- Power and clock registers (R556). -/
def pwrVal (s : State) : Reg → Nat
  | .pwrLimit => place [(0, s.power.limit.toNat), (12, s.power.limErr.toNat)]
  | .pwrStatus => let d0 := s.dies[(0 : Die)]; let d1 := s.dies[(1 : Die)]
    place [(0, dieCauses d0), (3, dieDiv d0), (5, dieCauses d1), (8, dieDiv d1), stickyAt 16 s.power.uv,
      stickyAt 17 s.power.therm, stickyAt 18 s.power.overpwr]
  | .pwrEvcnt => place [(0, s.power.uv.cnt), (16, s.power.therm.cnt), (32, s.power.overpwr.cnt)]
  | .pwrInput => let w := s.power; place [(0, w.volt.toNat), (16, w.curr.toNat), (32, w.watts.toNat), (48, w.avg.toNat)]
  | .pwrTherm => place [(0, tempByte s.dies[(0 : Die)].temp), (8, tempByte s.dies[(1 : Die)].temp),
      (16, tempByte s.power.tDram), (24, s.power.tDramSup.val)]
  | .pwrTsup => place ((fins 8).map fun k => (8 * k.val, tempByte s.power.tSup[k]))
  | .pwrPartE k => place [(0, s.parts[k].energy.toNat), (32, s.parts[k].peak.toNat)]
  | .clkStatus => let w := s.power
    place [stickyAt 0 w.frefLoss, stickyAt 1 w.prefLoss, stickyAt 2 w.pllUnlock, (8, b2n w.frefOk), (9, b2n w.prefOk)]
  | .clkEvcnt => let w := s.power; place [(0, w.frefLoss.cnt), (16, w.prefLoss.cnt), (32, w.pllUnlock.cnt)]
  | _ => 0

/-- Boot registers (R573): STAGE reads 7 on a held module (R505). -/
def bootVal (s : State) : Reg → Nat
  | .qnBootStatus => let b := s.boot
    place [(0, if s.evt.modState = 2 then 7 else b.stage.toNat), (4, b.fail.toNat), (8, b.imgSvn.toNat),
      (16, s.dies[(0 : Die)].svn.toNat), (24, b2n (b.kind == .powerOn && decide (b.boots ≠ 0))), (32, b.boots.toNat)]
  | .qnBootCmd => place [(2, b2n s.boot.busy), (3, s.boot.err.toNat)]
  | .qnRepair => place [(0, s.dies[(0 : Die)].repair.length), (11, s.dies[(1 : Die)].repair.length), stickyAt 22 s.queen.repFull,
      (32, s.queen.repFull.cnt)]
  | _ => 0

/-- The value of a register as function f reads it: 0 where f does not reach it (R420). -/
def regVal (s : State) (f : Fn) (r : Reg) : Nat :=
  if !reaches s f r then 0 else
  match r with
  | .sqBase i | .cqBase i | .dbAddr i | .headAddr i | .sqEpoch i | .sqCfg i | .sqStatus i | .ringEvcnt i =>
    (partOfFn f).elim 0 fun p => ringVal s.parts[p].rings[i] r
  | .eqBase | .eqHeadAddr | .eqEpoch | .eqCfg | .eqStatus | .eqEvcnt =>
    (partOfFn f).elim (evRingVal s.mod.evq r) fun p => evRingVal s.parts[p].evq r
  | .hiveAddr | .hiveStatus | .supRgn _ | .supMap | .ckptList | .ckptCfg | .ckptStatus | .ckptEvcnt | .partEVf | .hstSem _ =>
    (partOfFn f).elim 0 fun p => partVal s p r
  | .fnStatus | .fnEvcnt | .fnEvcnt2 | .pciCommand | .pciPm | .pciDevctl => fnVal s f r
  | .topo k | .rngStatus k | .rngEvcnt k | .rngStep k | .humTime k | .humStatus k | .humEvcnt k | .humBeatCfg k | .humBeat k
  | .humSlack k => humVal s k r
  | .seqCfg k | .seqStatus k | .seqEvcnt k | .seqPc k | .seqPred k | .seqRetain k => seqVal s.combs[k].seq r
  | .cellStatus k | .cellEvcnt k | .cellErrlog k | .vecStatus k | .vecEvcnt k | .rowStatus k | .rowEvcnt k | .rowClip k =>
    cellVal s.combs[k] r
  | .wagLink k | .wagStatus k | .wagEvcnt k | .wagEvcnt2 k | .wagEvcnt3 k | .wagLeaseCmt k | .wagJob k _ => routerVal s f k r
  | .supStatus k | .supEvcnt k | .supErrlog k | .supScrub k | .supEvcnt2 k => supVal s f k r
  | .prpKeystateLo k | .prpKeystateHi k | .prpStatus k | .prpEvcnt k | .prpEvcnt2 k | .prpEvcnt3 k | .prpCcstat k
  | .prpErrlog k => prpVal s f k r
  | .hldGtab k | .hldPtab k | .hldCommit k | .hldStatus k | .hldEvcnt k | .hldEvcnt2 k | .hldDp k => hildVal s.supers[k].hild r
  | .humCfg | .humEpoch | .wagCoord | .wagPortmap | .wagPort _ | .prpBridge _ | .prpBridgeEvcnt _ | .prpBridgeEvcnt2 _
  | .winBase | .winStatus | .pciSriov => moduleVal s r
  | .qnCrown | .qnStatus | .qnEvcnt | .qnEvcnt2 | .qnPartCmd | .qnPart _ | .qnDebug => queenVal s r
  | .evtResetCmd | .evtStatus | .evtEvcnt | .evtEvcnt2 | .evtDrain | .evtWdog | .evtEwCfg | .evtSum _ | .evtModlog => evtVal s r
  | .pwrLimit | .pwrStatus | .pwrEvcnt | .pwrInput | .pwrTherm | .pwrTsup | .pwrPartE _ | .clkStatus | .clkEvcnt => pwrVal s r
  | .qnBootStatus | .qnBootCmd | .qnRepair => bootVal s r
  | .wagLease k rx p slot => (leaseAt s.combs[k] rx p.val slot.val).toNat

end Sys2Proof.Machine
end

