-- ==== Sys2Proof/Machine/Hive.lean ====
section
/-! DEFINITION. The hive record (R493–R497) and the capture of a smoke. -/

namespace Sys2Proof.Machine

/-- A ring entry of a hive record (R496). -/
def hiveRing (g : RingState) : Bytes :=
  padTo 32 (leBytes 4 g.consumed.toNat ++ leBytes 4 g.dbCount.toNat ++ leBytes 4 g.dbEpoch.toNat ++ leBytes 4 g.head.toNat ++
    leBytes 4 g.written.toNat ++ leBytes 1 g.before.toNat ++ leBytes 1 g.log2.toNat ++ leBytes 1 g.pollDiv.toNat)

/-- The event ring's entry: CONSUMED holds WRITTEN, and the DB fields are 0 (R496). -/
def hiveEvRing (e : EvRing) : Bytes :=
  padTo 32 (leBytes 4 e.written.toNat ++ leBytes 8 0 ++ leBytes 4 e.head.toNat ++ leBytes 4 e.written.toNat ++
    leBytes 1 (b2n e.enable) ++ leBytes 1 e.log2.toNat)

/-- The fetched descriptors that have not completed, in ring order and then in number order (R496). -/
def inFlight (s : State) (p : Part) : List (Ring × Desc) :=
  ((fins 16).map fun r => s.parts[p].rings[r].descs.map fun d => (r, d)).flatten

/-- Those of a recovery: an FLR has dropped its own (R101). -/
def recInFlight (s : State) (p : Part) (r : Recovery) : List (Ring × Desc) := r.lost ++ inFlight s p

/-- The oldest 4,096 of them. -/
def hiveInFlight (s : State) (p : Part) (r : Recovery) : List (Ring × Desc) :=
  let l := recInFlight s p r
  if l.length ≤ 4096 then l
  else
    let limit := ((l.map fun e => e.2.order).mergeSort (fun a b => decide (a ≤ b))).getD 4095 0
    l.filter fun e => decide (e.2.order ≤ limit)

/-- An in-flight entry (R496). -/
def hiveDesc (e : Ring × Desc) : Bytes :=
  let d := e.2
  padTo 16 (leBytes 4 (d.field 4 4) ++ leBytes 4 d.idx.toNat ++ leBytes 1 (e.1.val + 16 * b2n d.begun) ++ leBytes 1 d.opcode ++
    leBytes 1 d.combMask)

/-- Logical cells with a running or queued operation, as a mask (R497). -/
def cellBusy (s : State) (k : Comb) : Nat :=
  ((fins 20).map fun n =>
    let c := s.combs[k].cells[physCell s k n]
    if c.queue.isEmpty && c.running.isEmpty then 0 else 2 ^ n.val).sum

/-- A comb entry (R497). -/
def hiveComb (s : State) (p : Part) (k : Comb) : Bytes :=
  let v := fun r n => leBytes n (regVal s (fnOf p) r)
  let c := s.combs[k]
  let seq : DWord := (memberJob s k).elim 0 fun j => c.router.jobs[j].seq
  padTo 256 (v (.seqPc k) 8 ++ v (.seqStatus k) 8 ++ padTo 8 (v (.seqPred k) 4) ++ v (.seqRetain k) 8 ++
    v (.humBeat k) 8 ++ v (.humStatus k) 4 ++ v (.humSlack k) 4 ++ v (.cellStatus k) 8 ++ v (.cellErrlog k) 8 ++
    leBytes 1 (c.seq.queues[(1 : Fin 4)]).length ++ leBytes 1 (c.seq.queues[(2 : Fin 4)]).length ++
    leBytes 1 (c.seq.queues[(3 : Fin 4)]).length ++ [0] ++ leBytes 4 (cellBusy s k) ++ v (.wagLink k) 8 ++
    padTo 8 (v (.wagStatus k) 4) ++ leBytes 8 seq.toNat ++ leBytes 8 c.router.txFlits.toNat ++ leBytes 8 c.router.rxFlits.toNat)

/-- STATE and STEP of a super's commit record, 0 where there is none. -/
def hiveCommit (s : State) (p : Part) (k : Super) : Nat × DWord :=
  if s.supers[k].hild.commit = 0 then (0, 0) else
  match commitOf s p k with
  | .ok e => e
  | .error _ => (0, 0)

/-- The requests that wait at super k, and the oldest of them. -/
def queuedAt (s : State) (k : Super) : List MemReq := s.supers[k].waiting.toList.flatten
def oldestAt (s : State) (k : Super) : Option MemReq :=
  (queuedAt s k).find? fun r => (queuedAt s k).all fun e => decide (r.time ≤ e.time)

/-- OLDEST: the PPA offset of the oldest queued request, all ones if there is none (R497). -/
def oldestPpa (s : State) (k : Super) : Nat :=
  match oldestAt s k with
  | none => 2 ^ 64 - 1
  | some r => ((ownerAt s k r.off).map fun o => o.2.2).getD (2 ^ 64 - 1)

/-- OLDEST_AGE in µs, saturating. -/
def oldestAge (s : State) (k : Super) : Nat :=
  match oldestAt s k with
  | none => 0
  | some r => min ((s.combs[k].hum.time - r.time) / (1000 * nsUnits)) (2 ^ 32 - 1)

/-- A super entry (R497). -/
def hiveSuper (s : State) (p : Part) (k : Super) : Bytes :=
  let v := fun r => leBytes 8 (regVal s (fnOf p) r)
  let c := hiveCommit s p k
  let reads := ((queuedAt s k).filter fun r => r.op == .read).length
  padTo 128 (v (.supStatus k) ++ v (.prpStatus k) ++ v (.hldStatus k) ++ leBytes 2 reads ++
    leBytes 2 ((queuedAt s k).length - reads) ++ [0, 0, 0, 0] ++ leBytes 8 (oldestPpa s k) ++ leBytes 4 (oldestAge s k) ++ leBytes 4 c.1 ++ leBytes 8 c.2.toNat ++ v (.supErrlog k) ++ v (.prpErrlog k) ++
    v (.prpKeystateLo k) ++ v (.prpKeystateHi k))

/-- The combs and supers whose entries are valid: all of them, or the one unit (R495). -/
def hiveCombs (s : State) (p : Part) (r : Recovery) : List Comb :=
  if r.scope = 0 then combsOf s p else if r.scope = 1 then [r.unit] else []
def hiveSupers (s : State) (p : Part) (r : Recovery) : List Super :=
  if r.scope = 0 then combsOf s p else if r.scope = 1 then [] else [r.unit]

/-- The valid mask of some units, by partition position. -/
def posMask (p : Part) (ks : List Comb) : Nat := (ks.map fun k => 2 ^ posOf p k).sum

/-- The 256-byte header (R495). -/
def hiveHeader (s : State) (p : Part) (r : Recovery) (n : Nat) (trunc : Bool) : Bytes :=
  let q := s.parts[p]
  padTo 256 (leBytes 4 0x48565201 ++ leBytes 2 1 ++ leBytes 1 r.scope.toNat ++
    leBytes 1 (p.val + 8 * q.psize.toNat + 32 * (if r.scope = 0 then 0 else posOf p r.unit)) ++ leBytes 4 (36864 + 16 * n) ++
    leBytes 2 r.seq.toNat ++ leBytes 1 r.domain.toNat ++
    leBytes 1 (b2n r.drainTo + 2 * b2n r.escalated + 4 * b2n trunc + 8 * b2n r.byDesc) ++
    [r.cause1, r.alarm1, 0, 0] ++ leBytes 4 r.unit1.toNat ++ [r.cause2, 0, 0, 0] ++ leBytes 4 r.unit2.toNat ++
    leBytes 8 r.humStop.toNat ++ leBytes 8 (humNs s r.unit).toNat ++ leBytes 6 r.beat.toNat ++ [0, 0] ++
    leBytes 4 (jobOf s p).toNat ++ leBytes 4 r.origin.toNat ++ leBytes 8 q.lastCompute.toNat ++ leBytes 4 n ++
    leBytes 1 (posMask p (hiveCombs s p r)) ++ leBytes 1 (posMask p (hiveSupers s p r)))

/-- Entries by partition position: the unit's, or zeros. -/
def byPosition (p : Part) (ks : List Comb) (n : Nat) (f : Comb → Bytes) : Bytes :=
  ((List.range 8).map fun i => match ks.find? fun k => decide (posOf p k = i) with
    | some k => f k
    | none => List.replicate n 0).flatten

/-- The hive record of a recovery (R494–R497). -/
def hiveRecord (s : State) (p : Part) (r : Recovery) : Bytes :=
  let q := s.parts[p]
  let fl := hiveInFlight s p r
  hiveHeader s p r fl.length (decide (4096 < (recInFlight s p r).length)) ++
    padTo 768 ((q.rings.toList.map hiveRing).flatten ++ hiveEvRing q.evq) ++
    byPosition p (hiveCombs s p r) 256 (hiveComb s p) ++ byPosition p (hiveSupers s p r) 128 (hiveSuper s p) ++
    ((List.range 4096).map fun i => leBytes 8 (semVal s p i).toNat).flatten ++ (fl.map hiveDesc).flatten

/-- A record written to a host buffer, or DROPPED (R493, R512). -/
def writeHive (p : Part) (addr : DWord) (rec : Bytes) (s : State) : State × Bool :=
  if addr ≠ 0 ∧ canRequest s (fnOf p) = true then
    ((hostPutAll (fnOf p) (hostWrites s (fnOf p) addr.toNat rec false) s).modPart p fun q => { q with hiveWr := hit 16 q.hiveWr }, true)
  else (s.modPart p fun q => { q with hiveDrop := hit 16 q.hiveDrop }, false)

/-- A record written to several buffers: whether one of them took it. -/
def writeHives (p : Part) (rec : Bytes) : List DWord → State → State × Bool
  | [], s => (s, false)
  | a :: r, s =>
    let (s, x) := writeHive p a rec s
    let (s, y) := writeHives p rec r s
    (s, x || y)

/-- The buffers a smoke's record goes to (R493). -/
def hiveTargets (s : State) (p : Part) (r : Recovery) : List DWord :=
  r.smokes.map (·.2.1) ++ (if r.byDesc || r.noHost then [] else [s.parts[p].hiveAddr])

/-- Step 4 of a smoke: the record is captured, kept by the queen and written; the recovery as it goes on. -/
def capture (p : Part) (r : Recovery) (s : State) : State × Recovery :=
  let seq := s.parts[p].hiveSeq + 1
  let r := { r with seq := seq }
  let s := s.modPart p fun q => { q with hiveSeq := seq }
  let rec' := hiveRecord s p r
  let s := s.modPart p fun q => { q with hiveCopy := rec' }
  let (s, w) := writeHives p rec' (hiveTargets s p r) s
  (s, { r with captured := true, record := rec', hiveWritten := w })

end Sys2Proof.Machine
end

