-- ==== Sys2Proof/Machine/Recovery.lean ====
section
/-! DEFINITION. Smokes, resets, recoveries, teardowns and watchdogs (R481–R512). -/

namespace Sys2Proof.Machine

/-! ### Step 1 of a smoke of one unit (R490, R491) -/

/-- The part of a COMPUTE that runs on a comb under reset ends with RESET_ABORTED (R490). -/
def abandonRun (k : Comb) (d : RunDesc) (s : State) : State :=
  s.modDesc d.part d.ring d.idx fun e => (e.combEnd k stResetAborted 2 0).settle (serving s d.part d.ring)

/-- Every such part of comb k. -/
def abandonRuns (k : Comb) (s : State) : State :=
  forEach s.combs[k].seq.running.toList (abandonRun k) s

/-- Step 1 for a comb: it halts, its HILD runs are discarded, its rings stop, its COMPUTE parts end (R297, R490). -/
def stopComb (p : Part) (k : Comb) (s : State) : State :=
  let s := haltComb k s
  let s := forEach (combsOf s p) (fun u s => discardHild u (fun r => decide (r.comb = k) && r.desc.isNone) s) s
  endServed p k (abandonRuns k (stopRings p (ringsServed s p k) stResetAborted 2 0 domComb s))

/-- An UPDATE descriptor whose run on super k is discarded or stopped by its reset ends with RESET_ABORTED (R297). -/
def endUpdate (k : Super) (d : RunDesc) (dom : BitVec 4) (s : State) : State :=
  s.modDesc d.part d.ring d.idx fun e => (e.combEnd k stResetAborted (dom.setWidth 32) 0).settle (serving s d.part d.ring)

/-- The UPDATE descriptors with a run on super k. -/
def updatesOn (s : State) (k : Super) : List RunDesc :=
  (s.supers[k].hild.queue ++ (s.supers[k].hild.cur.map (·.run)).toList).filterMap (·.desc)

/-- Step 1 for a super: its runs are discarded, the one in WRITING stops (R297, R491). -/
def stopSuper (k : Super) (s : State) : State :=
  let ds := updatesOn s k
  let s := stopHild k (discardHild k (fun _ => true) s)
  forEach ds (fun d s => endUpdate k d domSuper s) s

/-! ### Requests (R489, R504, R511) -/

/-- A request by a SMOKE descriptor, by EVT_RESET_CMD, or by an FLR. -/
inductive Request where
  | smoke (d : RunDesc) (hive : DWord)
  | command
  | flr
  deriving DecidableEq, Repr

/-- A recovery as a request marks it. -/
def Recovery.mark (r : Recovery) (q : Request) (absorbed : Bool) : Recovery :=
  match q with
  | .smoke d a => { r with smokes := r.smokes ++ [(d, a, absorbed)], byDesc := r.byDesc || !absorbed }
  | .command => { r with byCmd := true }
  | .flr => { r with noHost := r.noHost || !absorbed }

/-- The SMOKE descriptor waits for the recovery (R493). -/
def holdSmoke (q : Request) (s : State) : State :=
  match q with
  | .smoke d _ => s.modDesc d.part d.ring d.idx fun e => { e with stage := .active, held := true }
  | _ => s

/-- A request is absorbed by recovery number i of partition p; a record already captured goes to its buffer (R504). -/
def absorb (p : Part) (i : Nat) (q : Request) (s : State) : State :=
  let s := holdSmoke q s
  match s.parts[p].recov[i]? with
  | none => s
  | some r =>
    let s := s.modPart p fun x => { x with recov := x.recov.set i (r.mark q true) }
    match q with
    | .smoke _ a => if r.captured then (writeHive p a r.record s).1 else s
    | _ => s

/-- What a requested reset says of itself: no first fault (R495). -/
def noFault (s : State) (k : Comb) (combs : List Comb) (supers : List Super) : FaultInfo :=
  { status := 0, detail := 0, comb := k, combs := combs, supers := supers, origin := coordWord s }

/-- A reset of partition p is requested: absorbed by one that contains it, else the partition is smoked whole; a larger
request takes over the recoveries of the partition (R504). -/
def askPartition (p : Part) (q : Request) (s : State) : State :=
  let absorbs : Recovery → Bool := fun r => decide (r.scope = 0) && (r.teardown || decide (r.domain = domPartition) || q != .command)
  match s.parts[p].recov.findIdx? absorbs with
  | some i => absorb p i q s
  | none =>
    let s := raiseAlarm p p 0x08 (holdSmoke q s)
    let r := (newRecovery domPartition 0 (noFault s p (combsOf s p) (combsOf s p)) s).mark q false
    takeOver p { r with alarm1 := 0x08 } (stopWhole p stResetAborted 5 0 domPartition s)

/-- A reset of one comb of partition p is requested (R490, R504). -/
def askComb (p : Part) (k : Comb) (q : Request) (s : State) : State :=
  match s.parts[p].recov.findIdx? fun r => r.combs.contains k || r.teardown with
  | some i => absorb p i q s
  | none =>
    let r := (newRecovery domComb 1 (noFault s k [k] []) s).mark q false
    let s := stopComb p k (holdSmoke q s)
    s.modPart p fun x => { x with recov := x.recov ++ [r] }

/-- A reset of one super controller of partition p is requested. -/
def askSuper (p : Part) (k : Super) (q : Request) (s : State) : State :=
  match s.parts[p].recov.findIdx? fun r => r.supers.contains k || r.teardown with
  | some i => absorb p i q s
  | none =>
    let r := (newRecovery domSuper 2 (noFault s k [] [k]) s).mark q false
    let s := stopSuper k s
    s.modPart p fun x => { x with recov := x.recov ++ [r] }

/-- EVT_RESET_CMD accepted: BUSY, ERR 0. -/
def takeCmd (s : State) : State := s.modEvt fun e => { e with resetBusy := true, resetErr := 0 }
/-- EVT_RESET_CMD refused with an ERR. -/
def refuseCmd (err : Nat) (s : State) : State := s.modEvt fun e => { e with resetErr := BitVec.ofNat 3 err }

/-- Whether a partition's teardown keeps a reset command out. -/
def cmdBlocked (s : State) (p : Option Part) : Bool := (p.map (tearingDown s)).getD false

/-- A comb reset by EVT_RESET_CMD; of an unassigned comb it is complete at once. -/
def cmdComb (k : Comb) (s : State) : State :=
  match partOf s k with
  | some p => askComb p k .command (takeCmd s)
  | none => unitResetDone domComb k (resetCombDomain k (takeCmd s))

/-- A super controller reset by EVT_RESET_CMD. -/
def cmdSuper (k : Super) (s : State) : State :=
  match partOf s k with
  | some p => askSuper p k .command (takeCmd s)
  | none =>
    let s := resetSuperDomain k (takeCmd s)
    if s.supers[k].resetting then s.modEvt fun e => { e with resetSup := some k } else unitResetDone domSuper k s

/-- A strand-port reset by EVT_RESET_CMD: the port retrains, or stays DOWN, as after a hard failure with the spare in use until
the operator clears and sets EN (R377, R379, R488). -/
def cmdPort (k : Comb) (p : LPort) (s : State) : State :=
  let s := strandDown k p 0 s.combs[k].router.ports[p].stuck ((takeCmd s).modEvt fun e => { e with resetPort := some (k, p) })
  if s.combs[k].router.ports[p].state = 1 then s else portResetDone k p s

/-- A write of EVT_RESET_CMD with a domain, unit and port (R511). -/
def resetCmd (dom : Nat) (u : Fin 8) (port : Nat) (s : State) : State :=
  if dom = 0 then s
  else if s.evt.resetBusy then refuseCmd 3 s
  else if s.evt.modState = 2 ∧ dom ≠ 7 then refuseCmd 4 s
  else if dom = 2 then (if cmdBlocked s (partOf s u) then refuseCmd 3 s else cmdComb u s)
  else if dom = 3 then (if cmdBlocked s (partOf s u) then refuseCmd 3 s else cmdSuper u s)
  else if dom = 4 then (if h : port < 6 then cmdPort u ⟨port, h⟩ s else refuseCmd 5 s)
  else if dom = 5 then
    (if !s.parts[u].live then refuseCmd 2 s else if cmdBlocked s (some u) then refuseCmd 3 s
     else askPartition u .command (takeCmd s))
  else if dom = 6 then moduleReset false s
  else if dom = 7 then moduleReset true s
  else refuseCmd 1 s

/-- RESET_COMB: a write of EVT_RESET_CMD, served while the registers of BAR0 are. -/
def execResetComb (u : Comb) (s : State) : Out := done (doIf (regsServed s) (resetCmd 2 u 0) s)
/-- RESET_SUPER. -/
def execResetSuper (u : Super) (s : State) : Out := done (doIf (regsServed s) (resetCmd 3 u 0) s)
/-- RESET_STRAND_PORT. -/
def execResetStrandPort (u : Comb) (port : Fin 8) (s : State) : Out := done (doIf (regsServed s) (resetCmd 4 u port.val) s)
/-- RESET_PARTITION. -/
def execResetPartition (u : Part) (s : State) : Out := done (doIf (regsServed s) (resetCmd 5 u 0) s)
/-- RESET_MODULE_WARM. -/
def execResetModuleWarm (s : State) : Out := done (doIf (regsServed s) (resetCmd 6 0 0) s)
/-- RESET_MODULE_COLD. -/
def execResetModuleCold (s : State) : Out := done (doIf (regsServed s) (resetCmd 7 0 0) s)

/-- SMOKE: the partition or one comb, as SCOPE says (R489, R491). -/
def effSmoke (p : Part) (r : Ring) (s : State) : State :=
  match startedDesc s p r opSmoke with
  | none => s
  | some d =>
    let q : Request := .smoke ⟨p, r, d.idx⟩ (w64 (d.field 16 8))
    if d.field 28 1 % 2 = 0 then askPartition p q s else askComb p (Fin.ofNat 8 (d.field 29 1 % 8)) q s

/-- SMOKE. -/
def execSmoke (p : Part) (r : Ring) (s : State) : Out := done (effSmoke p r s)

/-! ### Teardown of a context (R463, R506, R507) -/

/-- The key IDs of a context. -/
def contextKeys (s : State) (p : Part) : List KeyId := (s.parts[p].ctx.man.elim [] fun m => m.keys.map (·.id)).dedup

/-- A key slot's retirement begins (R360 step 1). -/
def retireSlot (k : Super) (id : KeyId) (s : State) : State :=
  s.modSuper k fun u => { u with slots := upd u.slots id fun t => if t.state = 1 then { t with state := 2 } else t }

/-- Every key of a context retires on every super of its partition. -/
def retireKeys (p : Part) (s : State) : State :=
  forEach (combsOf s p) (fun k s => forEach (contextKeys s p) (fun i s => retireSlot k i s) s) s

/-- The context is NONE once every slot of it is EMPTY (R456). -/
def settleContext (p : Part) (s : State) : State :=
  if s.parts[p].ctx.state = 3 ∧ (combsOf s p).all (fun k => (contextKeys s p).all fun i => decide (s.supers[k].slots[i].state = 0)) ∧
      !tearingDown s p
  then
    let s := s.modQueen fun q => { q with
      cmdBusy := q.cmdBusy && s.parts[p].busyCmd != 3
      journal := q.journal.filter fun e => !(decide (e.part = p) && decide (e.op = 3)) }
    s.modPart p fun q => { q with ctx := {}, tt := none, nextTt := none, busyCmd := if q.busyCmd = 3 then 0 else q.busyCmd }
  else s

/-- The keys that a context's end zeroises, and the sealed values it clears (R463 step 3). -/
def zeroiseContext (p : Part) (s : State) : State :=
  let s := forEach (combsOf s p) (fun k s =>
    let s := match memberJob s k with
      | some j => s.modJob k j fun e => { e with keyed := false, fkey := 0 }
      | none => s
    let s := s.modComb k fun c => { c with clipSealed := false }
    s.modHild k fun h => { h with isSealed := false, dp := [] }) s
  s.modCtx p fun c => { c with ckptKey := none, shares := [], ctxKey := 0 }

/-- A comb at the end of a teardown: its stores zeroed, its sequencer IDLE (R122). -/
def idleComb (c : CombState) : CombState :=
  { zeroStores c with seq := { runahead := c.seq.runahead, squash := c.seq.squash, retainFull := c.seq.retainFull
                               progFault := c.seq.progFault, finite := c.seq.finite, progNo := c.seq.progNo } }

/-- A context's teardown begins: HOST_ABORT, then step 1; a recovery of the partition that runs is taken over. -/
def beginTeardown (p : Part) (s : State) : State :=
  if s.parts[p].ctx.state = 0 ∨ s.parts[p].ctx.state = 3 then s else
  let s := raiseAlarm p p 0x08 (s.modCtx p fun c => { c with state := 3 })
  let r := { newRecovery domTeardown 0 (noFault s p [] []) s with teardown := true, alarm1 := 0x08 }
  takeOver p r (stopWhole p stResetAborted 8 0 domTeardown s)

/-! ### Steps 2 to 5 (R491, R492, R499) -/

/-- Whether a comb carries a flow of the partition's timetable. -/
def carriesFlow (s : State) (k : Comb) : Bool := !s.combs[k].router.flows.isEmpty

/-- Whether a smoke drains the fabric, and so waits for frame F + 2 (R491). -/
def drainsFabric (s : State) (p : Part) (r : Recovery) : Bool :=
  decide (r.scope = 0) || (decide (r.scope = 1) && (decide (r.unit = p) || carriesFlow s r.unit))

/-- The combs of the domain under recovery. -/
def domainCombs (s : State) (p : Part) (r : Recovery) : List Comb := if r.scope = 0 then combsOf s p else r.combs

/-- Whether steps 2 and 3 of a smoke have completed. -/
def drained' (s : State) (p : Part) (r : Recovery) : Bool :=
  (!drainsFabric s p r || decide (r.frame + 2 ≤ frameOf s r.unit)) &&
  (domainCombs s p r).all fun k =>
    s.combs[k].seq.unacked.all (·.host) && !postWaits s (fnOf p) && (!drainsFabric s p r || s.combs[k].router.flows.all fun f => f.visible.isEmpty)

/-- Flits not yet visible are discarded when the deadline passes (R492). -/
def dropInFlight (combs : List Comb) (s : State) : State :=
  forEach combs (fun k s => s.modRouter k fun r => { r with flows := r.flows.map fun f => { f with visible := [] } }) s

/-- The strand-ports of the partition's strands that are not UP start again (R488, domain 5). -/
def restartPorts (combs : List Comb) (s : State) : State :=
  forEach combs (fun k s => forEach (fins 6) (fun p s => if portUp s k p then s else strandDown k p 0 s.combs[k].router.ports[p].stuck s) s) s

/-- The resets of a recovery (R498, R499 step 5): a STOPPED Hild unit leaves STATE 3 only with the partition (R307). -/
def applyResets (p : Part) (r : Recovery) (s : State) : State :=
  let s := if r.scope = 0 ∨ r.combs = [] then s
    else abortRestore p stResetAborted (r.domain.setWidth 32) 0 (endCkpt p stResetAborted (r.domain.setWidth 32) 0 s)
  let s := forEach r.supers (fun k s => resetSuperDomain k (stopSuper k s)) s
  let s := forEach r.combs (fun k s => resetCombDomain k s) s
  if r.domain = domPartition then
    restartPorts (combsOf s p) (forEach (combsOf s p) (fun k s => s.modHild k fun h => { h with state := 0 }) s)
  else s

/-- What follows steps 2 and 3: the capture and the resets, or for a teardown the retirement of the keys. -/
def proceed (p : Part) (i : Nat) (late : Bool) (s : State) : State :=
  match s.parts[p].recov[i]? with
  | none => s
  | some r =>
    let r := { r with drainTo := r.drainTo || late }
    let s := if late then dropInFlight (domainCombs s p r) (s.modEvt fun e => { e with drainTo := hit 16 e.drainTo }) else s
    if r.teardown then
      let s := s.modPart p fun q => { q with recov := q.recov.set i { r with captured := true } }
      let s := applyResets p r (forEach (combsOf s p) (fun k s => stopHild k s) s)
      zeroiseContext p (retireKeys p (forEach (combsOf s p) (fun k s => s.modComb k idleComb) s))
    else
      let (s, r) := capture p r s
      applyResets p r (s.modPart p fun q => { q with recov := q.recov.set i r })

/-- SMOKE_DRAIN_DONE: the first waiting smoke of the partition has drained. -/
def effDrainDone (p : Part) (s : State) : State :=
  match s.parts[p].recov.findIdx? fun r => !r.captured && drained' s p r with
  | some i => proceed p i false s
  | none => s

/-- SMOKE_DRAIN_DONE. -/
def execSmokeDrainDone (p : Part) (s : State) : Out := done (effDrainDone p s)

/-- DRAIN_DEADLINE: the first waiting smoke goes on without its drain (R492). -/
def effDeadline (p : Part) (s : State) : State :=
  match s.parts[p].recov.findIdx? fun r => !r.captured with
  | some i => proceed p i true s
  | none => s

/-- DRAIN_DEADLINE. -/
def execDrainDeadline (p : Part) (s : State) : Out := done (effDeadline p s)

/-! ### RECOVERY_DONE (R483, R499, R504) -/

/-- Whether the resets of a recovery are complete: no super of it resets and no comb of it swaps a cell. -/
def resetsDone (s : State) (r : Recovery) : Bool :=
  r.captured && r.supers.all (fun k => !s.supers[k].resetting) && r.combs.all fun k => s.combs[k].cellRegs.swapping.isNone

/-- A SMOKE descriptor completes with OK; DETAIL is the bytes of the record that reached its buffer. -/
def endSmoke (n : Nat) (m : RunDesc × DWord × Bool) (s : State) : State :=
  let d := m.1
  let s := s.modDesc d.part d.ring d.idx fun e =>
    { e with held := false }.decide' stOK (w32 n) 0 (serving s d.part d.ring)
  match findDesc s.parts[d.part].rings[d.ring] d.idx with
  | some e => writeRecord d.part d.ring e s
  | none => s

/-- DETAIL of RECOVERY_DONE (R499). -/
def doneDetail (r : Recovery) : BitVec 56 :=
  BitVec.ofNat 56 (r.domain.toNat + 16 * b2n r.escalated + 32 * b2n r.drainTo + 64 * b2n r.hiveWritten + 65536 * r.seq.toNat)

/-- EVT_SUM of a recovery (R511). -/
def sumWord (s : State) (r : Recovery) : DWord :=
  w64 (r.cause1.toNat + 256 * r.domain.toNat + 4096 * b2n r.escalated + 8192 * b2n r.drainTo + 65536 * r.seq.toNat +
    2 ^ 32 * ((humNs s r.unit).toNat / 1000 % 2 ^ 32))

/-- A recovered partition: it is no longer stopped, unless a comb of it is DEGRADED (R181), and its timetable is gone. -/
def reopen (p : Part) (s : State) : State :=
  let s := forEach (combsOf s p) (fun k s => s.modRouter k fun r => { r with flows := [] }) s
  let bad := (combsOf s p).any fun k => s.combs[k].cellRegs.degraded
  s.modPart p fun q => { q with stopped := bad, tt := none, nextTt := none }

/-- Nodes that failed at a reset exit stop their owners again (R501). -/
def stopAgain (p : Part) (l : List (Super × Nat)) (s : State) : State :=
  match l with
  | [] => s
  | (k, _) :: _ => stopPartition p k stIntegrityFail 0 0 0 [] s

/-- A recovery ends: owed records, SMOKE records, RECOVERY_DONE, then what waited for it: a COMPUTE descriptor of a ring that
went on starts on a comb that was reset alone (R113, R490). -/
def finishRecovery (p : Part) (r : Recovery) (s : State) : State :=
  let n := if r.hiveWritten then r.record.length else 0
  let s := flushRings p s
  let s := forEach (r.smokes.filter fun m => !m.2.2) (endSmoke n) s
  let s := s.modPart p fun q => { q with recov := q.recov.filter fun x => decide (x ≠ r), sum := sumWord s r }
  let s := platEvent 2 (BitVec.ofNat 8 (30 + p.val)) (s.parts[p].sum.setWidth 56) s
  let s := s.modEvt fun e => { e with recovery := hit 16 e.recovery, resetBusy := e.resetBusy && !r.byCmd }
  let s := postEvent p evRecoveryDone r.cause1 r.unit (doneDetail r) s
  let s := forEach (r.smokes.filter (·.2.2)) (endSmoke n) s
  let s := if r.scope = 0 then reopen p s else forEach r.combs (fun k s => startNext k s) s
  let s := settleContext p s
  let s := stopAgain p r.again s
  if s.parts[p].autoSalv ∧ s.parts[p].ctx.state = 2 ∧ !r.teardown ∧ r.again = [] then autoCkpt p 2 s else s

/-- RECOVERY_DONE: the first recovery of the partition whose resets are complete. -/
def effRecoveryDone (p : Part) (s : State) : State :=
  match s.parts[p].recov.find? (resetsDone s) with
  | some r => finishRecovery p r s
  | none => s

/-- RECOVERY_DONE. -/
def execRecoveryDone (p : Part) (s : State) : Out := done (effRecoveryDone p s)

/-- A recovery that resets super k takes note of nodes that failed there. -/
def addAgain (k : Super) (ns : List Nat) (r : Recovery) : Recovery :=
  if r.supers.contains k then { r with again := r.again ++ ns.map fun n => (k, n) } else r

/-- The bad nodes that cover a region of the partition are kept for the end of its recovery. -/
def noteAgain (k : Super) (ns : List Nat) (s : State) : State :=
  forEach (liveParts s) (fun p s =>
    let mine := ns.filter fun n => (ownersOver s k (nodeBase n) (nodeBase n + nodeSpan n)).contains p
    s.modPart p fun q => { q with recov := q.recov.map (addAgain k mine) }) s

/-- A super comes back: its link rekeyed, ACTIVE, its pinned nodes loaded and verified, the repairs that waited taken up
(R350, R364, R501): the nodes that failed are noted in the recoveries that reset it. -/
def wakeController (k : Super) (s : State) : State :=
  let s := (keySuperLink k s).modSuper k fun u => { u with resetting := false, state := 1 }
  let ns := failedPins s.supers[k] k
  nextRepair k (noteAgain k ns (forEach ns (fun n s => nodeNote k n s) s))

/-- SUPER_RESET_DONE: the super serves again, and the requests that waited proceed (R501). -/
def effSuperDone (k : Super) (s : State) : State :=
  if !s.supers[k].resetting then s else
  let s := resumeSuper k (wakeController k s)
  if s.evt.resetSup = some k then unitResetDone domSuper k s else s

/-- SUPER_RESET_DONE. -/
def execSuperResetDone (k : Super) (flips : Flips) (s : State) : Out := done (effSuperDone k (applyFlips k flips s))

/-! ### Watchdogs (R485–R487) -/

/-- WDOG set and counted. -/
def countWdog (s : State) : State := s.modEvt fun e => { e with wdog := hit 16 e.wdog }

/-- Whether comb k has hung (R485). -/
def combHung (s : State) (k : Comb) : Bool :=
  let q := s.combs[k].seq
  let lim := s.evt.wdogLim.toNat
  (q.state == 1 || q.state == 2) && decide (q.stall ≠ 7) && decide (lim ≠ 0) && decide (lim * 64 ≤ q.wdogFrames) && q.issued == q.wdogIssue

/-- COMB_WATCHDOG. -/
def effCombWdog (k : Comb) (s : State) : State :=
  match partOf s k with
  | none => s
  | some p =>
    if !combHung s k then s else
    let unit := w32 (0x0F00 + k.val)
    let s := countWdog s
    let s := match s.combs[k].seq.running with
      | some d => finish d.part d.ring d.idx stInternal unit 0 k s
      | none => s
    let s := raiseAlarm p k 0x21 s
    partitionFault p { status := stInternal, detail := unit, alarm := 0x21, unit := unit, comb := k, combs := combsOf s p
                       origin := coordWord s } s

/-- COMB_WATCHDOG. -/
def execCombWatchdog (k : Comb) (s : State) : Out := done (effCombWdog k s)

/-- A unit watchdog of super k expires (R486). -/
def superHung (k : Super) (unit : Nat) (s : State) : State :=
  let s := countWdog s
  match partOf s k with
  | some p => stopInternal p k (w32 unit) [k] s
  | none => s

/-- SUPER_WATCHDOG: outside self-refresh and row repair. -/
def execSuperWatchdog (k : Super) (s : State) : Out :=
  done (let u := s.supers[k]
        if u.powered ∧ u.state ≠ 2 ∧ u.repairing.isNone ∧ !u.resetting then superHung k (0x1000 + k.val) s else s)

/-- HILD_WATCHDOG: a run in WRITING, or ungated. -/
def execHildWatchdog (k : Super) (s : State) : Out :=
  done (match s.supers[k].hild.cur with
        | some c => if s.supers[k].hild.state = 2 ∨ c.run.gate.isNone then superHung k (0x1100 + k.val) s else s
        | none => s)

/-- FORAGER_WATCHDOG: a transfer that reads no host data (R427, R486). -/
def execForagerWatchdog (k : Comb) (f : Fin 4) (s : State) : Out :=
  done (match partOf s k, s.combs[k].seq.queues[f] with
        | some p, t :: _ =>
          if (decodeXfer t.block).srcSpace = 0 then s
          else stopInternal p k (w32 (0x1200 + 4 * k.val + f.val)) [] (countWdog s)
        | _, _ => s)

/-- CROWN_SIDEBAND_SILENT: the power controller's module warm reset (R487). -/
def execCrownSidebandSilent (s : State) : Out :=
  done (if s.evt.modState = 2 ∨ !s.power.pwrgd then s else moduleFault stInternal 0 s)

/-- MOD_RST_N_RELEASE: warm from 1 µs, cold from 100 ms; a warm reset within a running module reset is absorbed, and a held
module takes a cold one only (R489, R504, R505). -/
def execModRstNRelease (heldUs : Nat) (s : State) : Out :=
  done (if !s.power.pwrgd ∨ heldUs = 0 then s
        else if 100000 ≤ heldUs then moduleReset true s
        else if s.evt.modState ≠ 0 ∨ s.boot.stage.toNat < 5 then s
        else moduleReset false s)

/-! ### Early warning (R509, R510) -/

/-- Whether a die that holds a comb of the partition is within MARGIN of 100 °C. -/
def nearHot (s : State) (p : Part) : Bool :=
  (combsOf s p).any fun k => decide (100 - (s.evt.margin.toNat : Int) ≤ s.dies[dieOf k].temp)

/-- A monitor's count of the window. -/
def ewValue (s : State) (p : Part) (m : Fin 7) : Nat :=
  let n := s.parts[p].ew.counts[m]
  if m.val = 4 then max n (b2n (nearHot s p)) else n

/-- A monitor's threshold. -/
def ewThreshold (e : EvtRegs) (m : Fin 7) : Nat :=
  if m.val = 0 then e.ceThr.toNat else if m.val = 5 then e.slackThr.toNat else if m.val = 6 then e.repairThr.toNat else 1

/-- A monitor that trips: WARNING, then CHECKPOINT_TRIGGER where TRIG and the last 16 windows allow it. THERMAL's count is
of clocks, which the model does not count: a free value. -/
def ewTrip (p : Part) (m : Fin 7) (n : Nat) (s : State) : State :=
  let k : Comb := if n ≤ s.parts[p].ew.counts[m] ∧ 0 < n then s.parts[p].ew.combIx[m] else p
  let cause : Byte := BitVec.ofNat 8 (0xA0 + m.val)
  let detail : BitVec 56 := if m.val = 4 then (drawNow 32 s).setWidth 56 else BitVec.ofNat 56 (n % 2 ^ 32)
  let s := postEvent p evWarning cause k detail ((drawn s).modEvt fun e => { e with ewTrip := hit 16 e.ewTrip })
  if s.evt.trig.getLsbD m.val ∧ 16 ≤ s.parts[p].ew.sinceTrigger then
    ckptTrigger p cause k detail (s.modPart p fun q => { q with ew := { q.ew with sinceTrigger := 0 } })
  else s

/-- EW_WINDOW_END: the monitors are evaluated in order, and the next window begins. -/
def effWindowEnd (p : Part) (s : State) : State :=
  if !s.parts[p].live then s else
  let s := s.modPart p fun q => { q with ew := { q.ew with sinceTrigger := q.ew.sinceTrigger + 1 } }
  let s := forEach (fins 7) (fun m s =>
    if ewThreshold s.evt m ≤ ewValue s p m then ewTrip p m (ewValue s p m) s else s) s
  let s := forEach (combsOf s p) (fun k s => s.modSuper k fun u => { u with replays := 0 }) s
  s.modPart p fun q => { q with ew := { q.ew with counts := .replicate 7 0 } }

/-- EW_WINDOW_END. -/
def execEwWindowEnd (p : Part) (s : State) : Out := done (effWindowEnd p s)

end Sys2Proof.Machine
end

