-- ==== Sys2Proof/Machine/HostPort.lean ====
section
/-! DEFINITION. The host port: the device-memory window, failed reads, IDE, TDISP, SPDM sessions, function resets and link
events (R412–R436, R574). -/

namespace Sys2Proof.Machine

/-! ### Inbound requests (R415, R421, R422) -/

/-- Whether a function exists: PF0, or a VF that VF Enable and NumVFs bring out (R415). -/
def fnPresent (s : State) (f : Fn) : Bool := f.val == 0 || (s.mod.vfEnable && decide (f.val ≤ s.mod.numVfs))

/-- Whether a memory request reaches function f at all (R433). -/
def mmioOpen (s : State) (f : Fn) : Bool := fnPresent s f && s.fns[f].memSpace

/-- BAD_MMIO set and counted (R421, R431). -/
def badMmio (f : Fn) (s : State) : State := s.modFn f fun x => { x with badMmio := hit 16 x.badMmio }

/-- MALFORMED_MMIO: not an aligned 4-byte or 8-byte access (R421), or, of an interface in RUN, a request that does not come
over its stream with the T bit set (R431; log entry 111). -/
def execMalformedMmio (f : Fn) (isRead : Bool) (s : State) : Out :=
  done (emit (.mmioRefused f isRead) (if mmioOpen s f then badMmio f s else s))

/-- The device address of a window byte, its super and offset (R422). -/
def winAddrOf (s : State) (off : Nat) : Nat := s.mod.winBase.toNat * 2 ^ 30 + off
def winSuper (a : Nat) : Super := Fin.ofNat 8 (a / 2 ^ 36 % 8)
def winOff (a : Nat) : Nat := a % 2 ^ 36

/-- A refused window access: DENIED and the device address (R422, R436). -/
def denyWindow (a : Nat) (s : State) : State :=
  s.modMod fun m => { m with winDenied := hit 16 m.winDenied, winAddr := BitVec.ofNat 40 a }

/-- Whether a window byte lies in a tenant range. -/
def winTenant (s : State) (a : Nat) : Bool := a < 2 ^ 39 && tenantAt s (winSuper a) (winOff a)

/-- Whether a window byte is refused (R422). -/
def winRefused (s : State) (a : Nat) : Bool := decide (2 ^ 39 ≤ a) || decide (metaBase ≤ winOff a) || winTenant s a

/-- BAR2_READ: stored bytes, or Completer Abort; a super that does not serve now answers later, line by line (R325). -/
def effBar2Read (off n : Nat) (s : State) : State :=
  if n = 0 ∨ 4096 < off % 4096 + n then s
  else if !mmioOpen s 0 then emit (.mmioRefused 0 true) s
  else if s.boot.stage = 6 then emit (.windowData (List.replicate n 0)) s
  else if !regsServed s then s
  else
    let a := winAddrOf s off
    let as := (List.range n).map (a + ·)
    if as.any (winRefused s) then
      let s := if as.any (winTenant s) then dbgBlock (winSuper a) s else s
      emit .windowAbort (denyWindow a s)
    else if superServes s.supers[winSuper a] (winOff a) then
      emit (.windowData (storedBytes s (winSuper a) (winOff a) n)) s
    else forEach (linesOf (winOff a) n) (fun l s =>
      submit (winSuper a) ⟨.operator, l.1 / 128 * 128, .read, s.combs[winSuper a].hum.time⟩ s) s

/-- BAR2_READ. -/
def execBar2Read (off : BitVec 30) (n : Nat) (s : State) : Out := done (effBar2Read off.toNat n s)

/-- Bytes of the recovery staging buffer: the comb store of comb 0, then that of comb 1 (R564). -/
def stageWrite (off : Nat) (data : Bytes) (s : State) : State :=
  let n := combStoreBytes - off
  combWrite 1 (off - combStoreBytes) (if 33554432 < off + data.length then [] else data.drop n) (combWrite 0 off (data.take n) s)

/-- n bytes of the staging buffer. -/
def stageRead (s : State) (off n : Nat) : Bytes :=
  (List.range n).map fun i => memByte s.combs[if off + i < combStoreBytes then (0 : Comb) else 1].store ((off + i) % combStoreBytes)

/-- BAR2_WRITE: dropped; a write to a tenant range is a refusal of R362 too. In recovery mode it fills the staging buffer,
unless PLDM holds it. -/
def effBar2Write (off : Nat) (data : Bytes) (s : State) : State :=
  if !mmioOpen s 0 then s
  else if s.boot.stage = 6 then
    (if s.boot.busy ∨ s.boot.staging = 2 ∨ 33554432 < off + data.length then s else stageWrite off data s)
  else if !regsServed s then s
  else
    let a := winAddrOf s off
    denyWindow a (if (List.range data.length).any fun i => winTenant s (a + i) then dbgBlock (winSuper a) s else s)

/-- BAR2_WRITE. -/
def execBar2Write (off : BitVec 30) (data : Bytes) (s : State) : Out := done (effBar2Write off.toNat data s)

/-! ### Failed host reads (R427) -/

/-- CPL_TIMEOUT or CPL_BAD. -/
def countFail (f : Fn) (fail : HostFail) (s : State) : State :=
  s.modFn f fun x => match fail with
    | .timeout => { x with timeout := hit 16 x.timeout }
    | .badCompletion => { x with cplBad := hit 16 x.cplBad }

/-- The unit code of a failed host read. -/
def hostUnit (f : Fn) : Word := w32 (0x0E00 + f.val)

/-- The started descriptor of a ring whose host data is being read: COPY, CHECKPOINT or RESTORE. -/
def readingDesc (g : RingState) : Option Desc :=
  g.descs.find? fun d => (d.stage == .started || d.stage == .active) &&
    (decide (d.opcode = opCheckpoint) || decide (d.opcode = opRestore) || (decide (d.opcode = opCopy) && decide (d.field 36 1 % 4 = 0)))

/-- A skipped poll: the last accepted values stand (R89). -/
def skipPoll (src : PollSrc) (s : State) : State :=
  match src with
  | .ring p r => s.modRing p r fun g => { g with polled := false }
  | .events f => match partOfFn f with
    | none => s.modMod fun m => { m with evq := { m.evq with polled := false } }
    | some p => s.modPart p fun q => { q with evq := { q.evq with polled := false } }

/-- Whether a poll is under way. -/
def pollOpen (s : State) (src : PollSrc) : Bool := match src with
  | .ring p r => s.parts[p].rings[r].polled
  | .events f => (partOfFn f).elim s.mod.evq.polled fun p => s.parts[p].evq.polled

/-- A failed read of a transfer's host data: the program ends with INTERNAL and the partition stops. -/
def failTransfer (k : Comb) (f : Fin 4) (fail : HostFail) (s : State) : State :=
  match partOf s k, s.combs[k].seq.queues[f], s.combs[k].seq.running with
  | some p, t :: _, some d =>
    if (decodeXfer t.block).srcSpace ≠ 0 then s else
    let u := hostUnit (fnOf p)
    stopInternal p k u [] (finish d.part d.ring d.idx stInternal u 0 k (countFail (fnOf p) fail s))
  | _, _, _ => s

/-- HOST_READ_FAIL, by what was being read. -/
def effReadFail (fail : HostFail) (what : HostReadKind) (s : State) : State :=
  match what with
  | .word src =>
    if pollOpen s src && hostIssued s (pollFn src) what then
      skipPoll src (countFail (pollFn src) fail (hostArrived (pollFn src) what s)) else s
  | .descriptor p r =>
    if s.parts[p].rings[r].fetching = 0 ∨ !hostIssued s (fnOf p) what then s
    else (countFail (fnOf p) fail (hostArrived (fnOf p) what s)).modRing p r fun g => { g with fetching := 0 }
  | .descData p r =>
    match readingDesc s.parts[p].rings[r] with
    | none => s
    | some d => failDesc p r d.idx stInternal (hostUnit (fnOf p)) 0 (serving s p r) (countFail (fnOf p) fail s)
  | .transferData k f => failTransfer k f fail s
  | .ckptList p =>
    match s.parts[p].ckpt with
    | some c =>
      if c.auto ≠ 0 ∧ c.list = [] ∧ hostIssued s (fnOf p) what then
        endCkpt p stInternal (hostUnit (fnOf p)) 0 (countFail (fnOf p) fail (hostArrived (fnOf p) what s)) else s
    | none => s

/-- HOST_READ_FAIL. -/
def execHostReadFail (fail : HostFail) (what : HostReadKind) (s : State) : Out := done (effReadFail fail what s)

/-! ### IDE (R428–R430) -/

/-- A stream leaves Secure: a checkpoint of its partition ends with EGRESS_DENIED (R429, R533). -/
def unsecure (f : Fn) (s : State) : State :=
  let was := s.fns[f].secure
  let s := s.modFn f fun x => { x with secure := false, keySets := 0 }
  match partOfFn f with
  | some p => if was && s.parts[p].ckpt.isSome then endCkpt p stEgressDenied (w32 clsCheckpoint) 0 (noteNoIde p s) else s
  | none => s

/-- An interface in CONFIG_LOCKED or RUN goes to ERROR (R431). -/
def tdiError (f : Fn) (s : State) : State :=
  s.modFn f fun x => { x with tdi := if x.tdi = 1 ∨ x.tdi = 2 then 3 else x.tdi }

/-- IDE_CHECK_FAIL: the TLP is discarded and the stream goes Insecure. -/
def execIdeCheckFail (f : Fn) (s : State) : Out :=
  done (if s.fns[f].secure then
    tdiError f (unsecure f (s.modFn f fun x => { x with ideFail := hit 16 x.ideFail })) else s)

/-- KEY_PROG: a key set of a stream, over a secured SPDM session. -/
def execKeyProg (f : Fn) (set : Fin 2) (s : State) : Out :=
  done (if s.mgmt.spdmDoe then s.modFn f fun x => { x with keySets := x.keySets ||| (1#2 <<< set.val) } else s)

/-- K_SET_GO: the stream uses a programmed key set and is Secure. -/
def execKSetGo (f : Fn) (set : Fin 2) (s : State) : Out :=
  done (if s.mgmt.spdmDoe ∧ s.fns[f].keySets.getLsbD set.val then
    s.modFn f fun x => { x with activeSet := set.val, secure := true } else s)

/-! ### Function resets (R433) -/

/-- A ring or event ring of an FLR: its registers take their reset values. -/
def flrRings (p : Part) (s : State) : State :=
  s.modPart p fun q => { q with rings := .replicate 16 {}, evq := {}, hiveAddr := 0, hiveWr := {}, hiveDrop := {}, hiveSeq := 0 }

/-- The function's own enables and sizes after an FLR; what it had waiting at the host port is not issued (R433, R434). -/
def flrFn (f : Fn) (s : State) : State :=
  drainHost (hostDrop f (tdiError f (s.modFn f fun x => { x with
    busMaster := false, memSpace := false, d3 := false, mps := 0, mrrs := 2, relaxed := true, latch := [] })))

/-- The descriptors in flight at an FLR are kept for the hive record of the recovery that covers it (R101). -/
def keepLost (l : List (Ring × Desc)) (r : Recovery) : Recovery := if r.scope = 0 then { r with lost := r.lost ++ l } else r

/-- An FLR of VF(p + 1). -/
def flrVf (p : Part) (s : State) : State :=
  let s := flrFn (fnOf p) s
  if !s.parts[p].live then flrRings p s
  else
    let l := inFlight s p
    let s := flrRings p (askPartition p .flr s)
    s.modPart p fun q => { q with recov := q.recov.map (keepLost l) }

/-- VF_FLR. -/
def execVfFlr (k : Part) (s : State) : Out := done (if fnPresent s (fnOf k) then flrVf k s else s)

/-- VF Enable cleared: every VF as for an FLR. -/
def dropVfs (s : State) : State :=
  (forEach (fins 8) flrVf s).modMod fun m => { m with vfEnable := false }

/-- VF_ENABLE_CLEAR. -/
def execVfEnableClear (s : State) : Out := done (if s.mod.vfEnable then dropVfs s else s)

/-- An FLR of PF0: its event ring and HST_WIN_BASE reset, and VF Enable clears. -/
def flrPf0 (s : State) : State :=
  dropVfs ((flrFn 0 s).modMod fun m => { m with evq := {}, winBase := 0 })

/-- PF0_FLR. -/
def execPf0Flr (s : State) : Out := done (flrPf0 s)

/-- A hot reset, link down or PERST_N: every function as for an FLR; IDE, TDISP and SPDM end. -/
def portReset (s : State) : State :=
  let s := forEach (fins 9) unsecure (flrPf0 s)
  let s := forEach (fins 9) (fun f s => s.modFn f fun x => { x with tdi := 0, activeSet := 0 }) s
  (s.modMgmt fun m => { m with spdmDoe := false, spdmMctp := false }).modMod fun m => { m with linkUp := false, gts := 0, width := 0 }

/-- HOT_RESET. -/
def execHotReset (s : State) : Out := done (if s.mod.linkUp then portReset s else s)
/-- HOST_LINK_DOWN. -/
def execHostLinkDown (s : State) : Out := done (if s.mod.linkUp then portReset s else s)
/-- PERST_N_ASSERT. -/
def execPerstNAssert (s : State) : Out := done ((portReset s).modMod fun m => { m with perstN := false })
/-- PERST_N_RELEASE: the port trains (R574). -/
def execPerstNRelease (s : State) : Out := done (s.modMod fun m => { m with perstN := true })

/-- The rates of R412 in tenths of GT/s, and the widths. -/
def linkRates : List Nat := [640, 320, 160, 80, 50, 25]
def linkWidths : List Nat := [8, 4, 2, 1]

/-- HOST_LINK_UP: training completes at a negotiated rate (tenths of GT/s) and width. -/
def execHostLinkUp (gts width : Nat) (s : State) : Out :=
  done (if s.mod.perstN ∧ s.power.pwrgd ∧ !s.power.prefLost ∧ !s.mod.linkUp ∧ linkRates.contains gts ∧ linkWidths.contains width then
    s.modMod fun m => { m with linkUp := true, gts := gts, width := width } else s)

/-- D3HOT_ENTER. -/
def execD3hotEnter (f : Fn) (s : State) : Out := done (s.modFn f fun x => { x with d3 := true })

/-- A change of an enable of a locked interface is an error (R431). -/
def enableChange (f : Fn) (changed : Bool) (s : State) : State := if changed then tdiError f s else s

/-- BUS_MASTER_CLEAR. -/
def execBusMasterClear (f : Fn) (s : State) : Out :=
  done ((enableChange f s.fns[f].busMaster s).modFn f fun x => { x with busMaster := false })

/-- MEMORY_SPACE_CLEAR. -/
def execMemorySpaceClear (f : Fn) (s : State) : Out :=
  done ((enableChange f s.fns[f].memSpace s).modFn f fun x => { x with memSpace := false })

/-! ### TDISP, DOE and SPDM (R431, R432) -/

/-- LOCK_INTERFACE_REQUEST: accepted while the partition exists and the stream is Secure. -/
def execLockInterfaceRequest (k : Part) (s : State) : Out :=
  done (if s.fns[fnOf k].tdi = 0 ∧ s.parts[k].live ∧ s.fns[fnOf k].secure then
    s.modFn (fnOf k) fun x => { x with tdi := 1 } else s)

/-- START_INTERFACE_REQUEST. -/
def execStartInterfaceRequest (k : Part) (s : State) : Out :=
  done (if s.fns[fnOf k].tdi = 1 then s.modFn (fnOf k) fun x => { x with tdi := 2 } else s)

/-- STOP_INTERFACE_REQUEST: an FLR, then CONFIG_UNLOCKED. -/
def execStopInterfaceRequest (k : Part) (s : State) : Out :=
  done ((flrVf k s).modFn (fnOf k) fun x => { x with tdi := 0 })

/-- PCI_CONFIG_WRITE: a change that R431 watches. -/
def execPciConfigWrite (k : Part) (_what : CfgSpace) (s : State) : Out := done (tdiError (fnOf k) s)

/-- DOE_ABORT: DOE Error clears; an exchange of objects is one command, so none is in progress between commands. -/
def execDoeAbort (s : State) : Out := done (s.modMgmt fun m => { m with doeError := false })

/-- SPDM_SESSION_ESTABLISH: served from stage READY; over DOE not while DOE Error stands. -/
def execSpdmSessionEstablish (chan : SpdmChan) (s : State) : Out :=
  done (if s.boot.stage.toNat ≠ 5 then s else match chan with
    | .doe => if s.mgmt.doeError then s else s.modMgmt fun m => { m with spdmDoe := true }
    | .mctp => s.modMgmt fun m => { m with spdmMctp := true })

end Sys2Proof.Machine
end

