-- ==== Sys2Proof/Machine/Trust.lean ====
section
/-! DEFINITION. The crown, partitions, contexts, keys, debug unlock and attestation (R437–R480). -/

namespace Sys2Proof.Machine

/-! ### The crown (R440–R446) -/

/-- Whether the queens serve requests: stage READY, not held (R505, R562). -/
def queensServe (s : State) : Bool := decide (s.boot.stage = 5) && decide (s.evt.modState ≠ 2)

/-- HEARTBEAT: the reigning queen sends the epoch and its die with the next sequence number. -/
def execHeartbeat (s : State) : Out :=
  done (if queensServe s then
    (emit (.sideband (.heartbeat s.queen.epoch s.queen.die) (s.queen.sbSeq + 1)) s).modQueen fun q => { q with sbSeq := q.sbSeq + 1 }
    else s)

/-- State codes of the queens when die d reigns and the other is in state o (R480). -/
def reign (d : Die) (o : BitVec 2) (q : Queen) : Queen :=
  if d.val = 0 then { q with q0 := 2, q1 := o } else { q with q0 := o, q1 := 2 }

/-- The crown token is broadcast to every target (R441). -/
def broadcast (epoch : Word) (d : Die) (s : State) : State :=
  forEach (fins 2) (fun e s => s.modDie e fun x => { x with crownEpoch := epoch, crownDie := d }) s

/-- Sessions and objects that a crown change aborts (R432). -/
def abortSpdm (s : State) : State :=
  s.modMgmt fun m => { m with spdmDoe := false, spdmMctp := false, doeError := true }

/-- DETAIL of CROWN_CHANGE: the epoch and the reigning die (R108). -/
def crownDetail (epoch : Word) (d : Die) : BitVec 56 := BitVec.ofNat 56 (epoch.toNat + 2 ^ 32 * d.val)

/-- CROWN_CHANGE records to PF0 and every enabled partition event ring (R108). -/
def postCrown (epoch : Word) (d : Die) (s : State) : State :=
  let s := eventToPf0 evCrownChange 0 0 (crownDetail epoch d) s
  forEach ((liveParts s).filter fun p => s.parts[p].evq.enable) (fun p s =>
    eventToPart p evCrownChange 0 p (crownDetail epoch d) s) s

/-- The crown passes to die d with an epoch: the journal's unstarted operations are discarded, the others go on (R443). -/
def crownTo (epoch : Word) (d : Die) (other : BitVec 2) (s : State) : State :=
  let s := broadcast epoch d (s.modQueen fun q => reign d other { q with
    epoch := epoch, die := d, crownChg := hit 16 q.crownChg, journal := q.journal.filter (·.touched)
    log := (.crown epoch d :: q.log).take 64 })
  platEvent 2 22 (BitVec.ofNat 56 d.val) (postCrown epoch d (abortSpdm s))

/-- SUPERSEDURE: the standby queen takes the crown; the silent one counts as failed. -/
def execSupersedure (s : State) : Out :=
  done (if !queensServe s then s else
    let d := s.queen.die
    let o : Die := 1 - d
    if (if o.val = 0 then s.queen.q0 else s.queen.q1) = 1 then crownTo (s.queen.epoch + 1) o 3 (queenFault stInternal s) else s)

/-- SIDEBAND_MAC set and counted (R445). -/
def sbFail (s : State) : State := s.modQueen fun q => { q with sbMac := hit 16 q.sbMac }

/-- Whether a sequence number follows the last one accepted. -/
def seqFresh (last : Option Word) (seq : Word) : Bool :=
  match last with
  | none => true
  | some x => decide (0 < (seq - x).toNat) && decide ((seq - x).toNat < 2 ^ 31)

/-- What an accepted sideband message does: one of a higher epoch, or die 0's claim of the same epoch, takes the crown; the
reigning queen's heartbeat changes nothing (R440, R442). -/
def takeMessage (msg : Sideband) (s : State) : State :=
  match msg with
  | .heartbeat e d => if s.queen.epoch < e then crownTo e d 1 s else s
  | .claim e d => if s.queen.epoch < e ∨ (e = s.queen.epoch ∧ d.val = 0 ∧ s.queen.die.val = 1) then crownTo e d 1 s else s

/-- SIDEBAND_MESSAGE_RECEIVE: the message with its sequence and MAC (R445). -/
def execSidebandMessageReceive (seq : Word) (mac : BitVec 64) (msg : Sideband) (s : State) : Out :=
  done (if !queensServe s then s
        else if mac ≠ crownMac msg seq ∨ !seqFresh s.queen.rxSeq seq then sbFail s
        else takeMessage msg (s.modQueen fun q => { q with rxSeq := some seq }))

/-- The die whose crown copy guards a target (R441). -/
def targetDie (w : CfgWrite) : Die :=
  match w with
  | .keySlotLoad k _ _ => dieOf k
  | .linkKey l _ _ => if h : l.val < 8 then ⟨l.val / 4, by omega⟩ else 0
  | .fuseSvn _ => 0
  | .slotTable k _ _ _ _ => dieOf k
  | .jobEntry k _ _ => dieOf k
  | .topo k _ _ _ => dieOf k
  | .nocLink a _ _ => dieOf a
  | .hildTable k _ _ => dieOf k
  | .rowClip k _ _ => dieOf k

/-- A content key loaded into a slot under a fresh salt (R337): only an EMPTY one takes it (R338), of a super whose comb belongs
to a partition (R25, R335). -/
def loadSlot (k : Super) (id : KeyId) (key : BitVec 256) (s : State) : State :=
  if s.supers[k].slots[id].state = 0 ∧ (partOf s k).isSome = true then
    powerAll (drawn (s.modSuper k fun u => { u with slots := upd u.slots id fun _ => loadedSlot k id key (drawNow 256 s) }))
  else logRefusal "key load" s

/-- A NoC pair link or bridge comb group switched (R26). -/
def setLink (a b : Comb) (on : Bool) (m : ModuleRegs) : ModuleRegs :=
  let lo := if a.val ≤ b.val then a else b
  let hi := if a.val ≤ b.val then b else a
  if hi.val = lo.val + 4 then
    { m with groupLinks := if on then m.groupLinks ||| (1#4 <<< lo.val) else m.groupLinks &&& ~~~ (1#4 <<< lo.val) }
  else if dieOf lo = dieOf hi ∧ lo ≠ hi then
    { m with pairLinks := if on then (if m.pairLinks.contains (lo, hi) then m.pairLinks else (lo, hi) :: m.pairLinks)
                          else m.pairLinks.filter fun e => decide (e ≠ (lo, hi)) }
  else m

/-- Whether the enable of a link may be set to `on`: both ends lie in one partition exactly while it is enabled, and no context
runs on either end (R21, R26). -/
def linkMay (s : State) (a b : Comb) (on : Bool) : Bool :=
  let pa := partOf s a
  let pb := partOf s b
  let idle := fun (p : Option Part) => match p with
    | none => true
    | some p => s.parts[p].ctx.state == 0
  (on == (pa.isSome && pa == pb)) && idle pa && idle pb

/-- Whether a written CMB_TOPO names the partition that comb k belongs to, and with it the VF (R22, R441). -/
def topoMay (s : State) (k : Comb) (assigned : Bool) (psize : BitVec 2) (pbase : Part) : Bool :=
  match (liveParts s).find? fun p => (combsOf s p).contains k with
  | none => !assigned
  | some p => assigned && decide (psize = s.parts[p].psize) && decide (pbase = p)

/-- A configuration write at its target (R441): what it writes. The fused SVN follows an image that has reached READY (R563). -/
def applyCfg (w : CfgWrite) (s : State) : State :=
  match w with
  | .keySlotLoad k id key => loadSlot k id (BitVec.ofNat 256 key) s
  | .linkKey l dir key => modLink l dir (fun _ => { key := BitVec.ofNat 256 key }) s
  | .fuseSvn v => if v.val = s.boot.imgSvn.toNat ∧ s.boot.stage = 5 then
      forEach (fins 2) (fun d s => s.modDie d fun x => { x with svn := if x.svn.toNat < v.val then BitVec.ofNat 7 v.val else x.svn }) s
    else logRefusal "fused SVN" s
  | .slotTable k rx p slot e => effLeaseWrite 0 k rx p slot e s
  | .jobEntry k j v => effJobWrite 0 k j v s
  | .topo k b n p => if topoMay s k b n p then s.modComb k fun c => { c with assigned := b, psize := n, pbase := p }
    else logRefusal "CMB_TOPO" s
  | .hildTable k b rows => s.modHild k fun h => { h with isSealed := b, dp := rows }
  | .nocLink a b on => if linkMay s a b on then s.modMod (setLink a b on) else logRefusal "link enable" s
  | .rowClip k v b => s.modComb k fun c => { c with clip := v, clipSealed := b }

/-- CONFIG_WRITE: accepted only when epoch and die both equal the target's copy; else logged as STALE_WR. -/
def execConfigWrite (epoch : Word) (die : Die) (w : CfgWrite) (s : State) : Out :=
  done (let t := s.dies[targetDie w]
        if t.crownEpoch = epoch ∧ t.crownDie = die then applyCfg w s
        else logRefusal "stale write" (s.modQueen fun q => { q with staleWr := hit 16 q.staleWr }))

/-- QUEEN_REGION_LOSS. -/
def execQueenRegionLoss (d : Die) (s : State) : Out := done (if s.dies[d].region then regionLost d s else s)

/-! ### Partitions (R452–R455) -/

/-- The combs of a form. -/
def formCombs (p : Part) (psize : BitVec 2) : List Comb := (List.range (2 ^ psize.toNat)).map fun i => combAt p i

/-- The first check of R452 that fails, as its ERR. -/
def createErr (s : State) (p : Part) (psize : BitVec 2) : Nat :=
  let ks := formCombs p psize
  if p.val % 2 ^ psize.toNat ≠ 0 then 1
  else if ks.any fun k => s.combs[k].assigned then 2
  else if ks.any fun k => s.combs[k].cellRegs.degraded then 3
  else if ks.any fun k => (fins 64).any fun i => decide (0 < i.val) && decide (s.supers[k].slots[i].state ≠ 0) then 4
  else if s.queen.unlocking then 7 else 0

/-- ERR of QN_PART_CMD. -/
def partErr (e : Nat) (s : State) : State := s.modQueen fun q => { q with cmdErr := BitVec.ofNat 4 e }

/-- The links inside a set of combs switched (R26). -/
def setLinks (ks : List Comb) (on : Bool) (s : State) : State :=
  forEach ks (fun a s => forEach (ks.filter fun b => decide (a.val < b.val)) (fun b s => s.modMod (setLink a b on)) s) s

/-- CREATE carried out (R453). -/
def makePartition (p : Part) (psize : BitVec 2) (s : State) : State :=
  let ks := formCombs p psize
  let s := forEach ks (fun k s => s.modComb k fun c => { c with assigned := true, psize := psize, pbase := p }) s
  let s := powerAll (s.modPart p fun q => { live := true, psize := psize, energy := q.energy, peak := q.peak })
  setLinks ks true (forEach ks (fun k s => resetCombDomain k s) s)

/-- PARTITION_CREATE. -/
def effCreate (p : Part) (psize : BitVec 2) (s : State) : State :=
  if !queensServe s then s
  else if s.queen.cmdBusy then partErr 6 s
  else
    let e := createErr s p psize
    if e ≠ 0 then partErr e s else makePartition p psize (partErr 0 s)

/-- PARTITION_CREATE. -/
def execPartitionCreate (pbase : Part) (psize : BitVec 2) (s : State) : Out := done (effCreate pbase psize s)

/-- A command of QN_PART_CMD that goes on: BUSY, and its journal entry (R443). -/
def startPartCmd (op : BitVec 2) (p : Part) (s : State) : State :=
  (s.modQueen fun q => { q with cmdBusy := true, cmdErr := 0, journal := ⟨op.setWidth 3, p, true⟩ :: q.journal }).modPart p
    fun q => { q with busyCmd := op }

/-- PARTITION_REMOVE: the context ends, or the rings stop where there is none; the VF's interface goes to ERROR. -/
def effRemove (p : Part) (s : State) : State :=
  if !queensServe s then s
  else if s.queen.cmdBusy then partErr 6 s
  else if !s.parts[p].live then partErr 5 s
  else
    let s := tdiError (fnOf p) ((startPartCmd 2 p s).modPart p fun q => { q with removing := true })
    if s.parts[p].ctx.state = 0 then stopRings p (fins 16) stResetAborted 8 0 domTeardown s else beginTeardown p s

/-- PARTITION_REMOVE. -/
def execPartitionRemove (pbase : Part) (s : State) : Out := done (effRemove pbase s)

/-- Whether every slot 1–63 of the partition's supers is EMPTY. -/
def slotsEmpty (s : State) (p : Part) : Bool :=
  (combsOf s p).all fun k => (fins 64).all fun i => decide (i.val = 0) || decide (s.supers[k].slots[i].state = 0)

/-- A comb leaves its partition: stores zeroed, its domain at its reset values, its grid and Hild unit too (R454). -/
def releaseComb (k : Comb) (s : State) : State :=
  let s := s.modComb k fun c => { resetCombState { c with clipSealed := false, seq := {} } with assigned := false, psize := 0, pbase := 0 }
  let s := s.modHum k fun h => { h with active := false, marker := none, beatFrames := 0, cfgFrames := 0, origin := 0, beat := 0 }
  (s.modRouter k fun r => { r with flows := [] }).modHild k fun h => { rounding := h.rounding, noise := h.noise }

/-- REMOVE's last steps (R454). -/
def dropPartition (p : Part) (s : State) : State :=
  let ks := combsOf s p
  let s := setLinks ks false (flushRings p s)
  let s := forEach ks releaseComb s
  let s := s.modPart p fun q => { energy := q.energy, peak := q.peak }
  powerAll (s.modQueen fun q => { q with
    cmdBusy := false, journal := q.journal.filter fun e => !(decide (e.part = p) && decide (e.op = 2)) })

/-- REMOVE_SLOTS_EMPTY. -/
def execRemoveSlotsEmpty (pbase : Part) (s : State) : Out :=
  done (let q := s.parts[pbase]
        if q.removing ∧ q.ctx.state = 0 ∧ !tearingDown s pbase ∧ slotsEmpty s pbase = true then dropPartition pbase s else s)

/-- END_CONTEXT: of a partition with no context it is complete at once. -/
def effEndContext (p : Part) (s : State) : State :=
  if !queensServe s then s
  else if s.queen.cmdBusy then partErr 6 s
  else if !s.parts[p].live then partErr 5 s
  else if s.parts[p].ctx.state = 0 then partErr 0 s
  else beginTeardown p (startPartCmd 3 p s)

/-- END_CONTEXT. -/
def execEndContext (pbase : Part) (s : State) : Out := done (effEndContext pbase s)

/-! ### Retirement (R360) -/

/-- RETIRE_FLUSH_DONE: the keys zeroised, the slot SCRUBBING over its ranges. -/
def execRetireFlushDone (k : Super) (id : KeyId) (s : State) : Out :=
  done (if s.supers[k].slots[id].state = 2 then zeroiseSlot k id s else s)

/-- A scrubbed range: zeros under valid ECC, counters 0, no poison (R360). -/
def scrubRange (lo hi : Nat) (u : SuperState) : SuperState :=
  { zeroSectors lo hi u with zeroed := (lo, hi) :: u.zeroed, dramErr := tabClear u.dramErr (lo / 128) (hi / 128) }

/-- Whether every key ID under a node of super k is scrubbed (R356). -/
def nodeScrubbed (s : State) (k : Super) (n : Nat) : Bool :=
  !(inQueenRegion k (nodeBase n) || (decide (nodeBase n < queenBase + 1) && decide (queenBase < nodeBase n + nodeSpan n) && (regionDie k).isSome)) &&
  match partOf s k with
  | none => true
  | some p => (rangesKeys s p k (nodeBase n) (nodeBase n + nodeSpan n)).all fun i => decide (s.supers[k].slots[i].state = 0)
where
  /-- The key IDs of partition p's regions over a range of super k. -/
  rangesKeys (s : State) (p : Part) (k : Super) (lo hi : Nat) : List KeyId :=
    (regionMap s p).filterMap fun m =>
      let b := m.base.getD (posOf p k) 0
      let n := if kindLocal m.kind then (if m.pos = posOf p k then m.len else 0) else m.len / sizeOf s p
      if n ≠ 0 ∧ b < hi ∧ lo < b + n then some m.keyId else none

/-- Poisoned nodes whose key IDs are all scrubbed are reset, and TREE reads READY when none is left (R356). -/
def clearNodes (k : Super) (s : State) : State :=
  let bad := s.supers[k].badNodes.filter fun n => !nodeScrubbed s k n
  s.modSuper k fun u => { u with
    badNodes := bad
    nodeCtr := u.nodeCtr.filter fun e => !(u.badNodes.contains e.1 && !bad.contains e.1)
    tree := if u.tree = 2 ∧ bad = [] then 1 else u.tree }

/-- KEY_SCRUB_DONE: the slot is EMPTY; a context whose slots are all EMPTY is NONE (R360, R456). -/
def effScrubDone (k : Super) (id : KeyId) (s : State) : State :=
  let u := s.supers[k]
  if u.slots[id].state ≠ 3 ∨ u.resetting ∨ !u.powered then s
  else
    let rs := u.toScrub.filter fun e => decide (e.1 = id)
    let s := forEach rs (fun e s => s.modSuper k (scrubRange e.2.1 e.2.2)) s
    let s := s.modSuper k fun u => { u with
      toScrub := u.toScrub.filter fun e => decide (e.1 ≠ id), slots := upd u.slots id fun _ => {} }
    let s := clearNodes k s
    powerAll (forEach (liveParts s) (fun p s => settleContext p s) s)

/-- KEY_SCRUB_DONE. -/
def execKeyScrubDone (k : Super) (id : KeyId) (s : State) : Out := done (effScrubDone k id s)

/-! ### SPDM vendor requests (R464) -/

def rspOk : Byte := 0
def rspAlready : Byte := 1
def rspBadFormat : Byte := 2
def rspBadSignature : Byte := 3
def rspWrongState : Byte := 4
def rspNotAllowed : Byte := 5
def rspSlotBusy : Byte := 6
def rspNoPartition : Byte := 7

/-- The response leaves the module: the request code, the status, the body. -/
def respond (code status : Byte) (body : Bytes) (s : State) : State := emit (.spdm code status body) s

/-! ### Manifests (R457–R460) -/

/-- Byte offsets of the sections of a manifest, from its counts. -/
structure ManLayout where
  owners : Nat
  recips : Nat
  progs  : Nat
  keys   : Nat
  groups : Nat
  sigs   : Nat
  total  : Nat
  deriving DecidableEq, Repr

/-- The layout that a header's counts give (R458). -/
def manLayout (b : Bytes) : ManLayout :=
  let f := fieldAt b
  let o := 256
  let r := o + 32 * f 12 1
  let p := r + 32 * f 13 1
  let k := p + 64 * f 15 1
  let g := k + 8 * f 14 1
  let s := g + 8 * f 16 2
  ⟨o, r, p, k, g, s, s + 64 * f 12 1⟩

/-- n-byte entries of a section as numbers. -/
def entriesOf (b : Bytes) (off n count : Nat) : List Nat := (List.range count).map fun i => fieldAt b (off + n * i) n

/-- The manifest digest (R458). -/
def manDigest (b : Bytes) : BitVec 512 := Config.sha512 (b.take (manLayout b).sigs)

/-- A manifest's content. -/
def parseManifest (b : Bytes) : Manifest :=
  let l := manLayout b
  let f := fieldAt b
  { jobId := w32 (f 8 4)
    owners := (entriesOf b l.owners 32 (f 12 1)).map (BitVec.ofNat 256)
    recips := (entriesOf b l.recips 32 (f 13 1)).map (BitVec.ofNat 256)
    programs := (entriesOf b l.progs 64 (f 15 1)).map (BitVec.ofNat 512)
    keys := (entriesOf b l.keys 8 (f 14 1)).map fun e => ⟨Fin.ofNat 64 (bits e 5 0), bits e 15 8, BitVec.ofNat 2 (bits e 17 16)⟩
    groups := (entriesOf b l.groups 8 (f 16 2)).map fun e => (bits e 15 0, w32 (bits e 63 32))
    psize := BitVec.ofNat 2 (f 18 1), policy := BitVec.ofNat 2 (f 19 1), clearBudget := f 20 4, clip := w32 (f 24 4)
    ttDigest := BitVec.ofNat 512 (f 64 64), hildDigest := BitVec.ofNat 512 (f 128 64), digest := manDigest b }

/-- MAGIC, LENGTH, counts, ranges and RSV fields (R457, R458). -/
def manFormatOk (b : Bytes) : Bool :=
  let l := manLayout b
  let f := fieldAt b
  decide (256 ≤ b.length) && decide (f 0 4 = 0x4D4A4601) && decide (f 4 4 = b.length) && decide (b.length = l.total) &&
  decide (b.length ≤ 65536) && decide (f 8 4 ≠ 0) && decide (1 ≤ f 12 1) && decide (f 12 1 ≤ 16) && decide (f 13 1 ≤ 16) &&
  decide (f 14 1 ≤ 63) && decide (f 15 1 ≤ 8) && decide (f 16 2 ≤ 4096) && decide (f 18 1 ≤ 3) && decide (f 19 1 ≤ 2) &&
  decide (f 20 4 ≤ 1048576) && allZero (slice b 28 4) && allZero (slice b 192 64) &&
  (entriesOf b l.keys 8 (f 14 1)).all (fun e => decide (bits e 63 18 = 0) && decide (bits e 7 6 = 0) && decide (bits e 17 16 ≠ 0)) &&
  (entriesOf b l.groups 8 (f 16 2)).all (fun e => decide (bits e 31 16 = 0)) &&
  decide ((entriesOf b l.owners 32 (f 12 1)).Nodup)

/-- A single-owner manifest binds no digest; a joint one binds them all (R459). -/
def manDigestsOk (m : Manifest) : Bool :=
  if m.owners.length = 1 then m.programs.isEmpty && decide (m.ttDigest = 0) && decide (m.hildDigest = 0)
  else !m.programs.isEmpty && decide (m.ttDigest ≠ 0) && decide (m.hildDigest ≠ 0)

/-- Key IDs and owners (R459). -/
def manKeysOk (m : Manifest) : Bool :=
  decide ((m.keys.map (·.id)).Nodup) && m.keys.all fun e =>
    decide (0 < e.id.val) && if e.kind = 1 then decide (e.owner < m.owners.length) else decide (e.owner = 0)

/-- Whether an FP32 value is finite and positive. -/
def fPositive (w : Word) : Bool := fIsFinite w && !fSign w && !fIsZero w

/-- Private groups (R459). -/
def manGroupsOk (m : Manifest) : Bool :=
  decide ((m.groups.map (·.1)).Nodup) && m.groups.all (fun g => fPositive g.2) && (m.groups.isEmpty || fPositive m.clip)

/-- Every owner's signature over the manifest digest (R458). -/
def manSigned (b : Bytes) (m : Manifest) : Bool :=
  (m.owners.mapIdx fun i k =>
    Config.ed25519Verify k (leBytes 64 m.digest.toNat) (slice b ((manLayout b).sigs + 64 * i) 64)).all id

/-- The status of a BIND by the checks of R459 in order. -/
def bindStatus (s : State) (p : Part) (b : Bytes) : Byte :=
  let m := parseManifest b
  let q := s.parts[p]
  if !q.live then rspNoPartition
  else if q.ctx.state ≠ 0 ∨ q.removing then rspWrongState
  else if !manFormatOk b ∨ m.psize ≠ q.psize then rspBadFormat
  else if !manDigestsOk m then rspBadFormat
  else if !manKeysOk m then rspBadFormat
  else if !manGroupsOk m then rspBadFormat
  else if !manSigned b m then rspBadSignature
  else if (combsOf s p).any fun k => m.keys.any fun e => decide (s.supers[k].slots[e.id].state ≠ 0) then rspSlotBusy
  else rspOk

/-- A key loaded on every super of a partition (R337, R467). -/
def loadAll (p : Part) (id : KeyId) (key : BitVec 256) (s : State) : State :=
  forEach (combsOf s p) (fun k s => loadSlot k id key s) s

/-- The keys that a bind makes itself: GENERATED and CLEAR_INGEST, each fresh (R460). -/
def loadGenerated (p : Part) (m : Manifest) (s : State) : State :=
  forEach (m.keys.filter fun e => decide (e.kind ≠ 1)) (fun e s => loadAll p e.id (drawNow 256 s) (drawn s)) s

/-- The sealed table and ROW_CLIP of a manifest with private groups (R266, R299). -/
def loadSealed (p : Part) (m : Manifest) (s : State) : State :=
  if m.groups.isEmpty then s else
  forEach (combsOf s p) (fun k s =>
    (s.modHild k fun h => { h with isSealed := true, dp := m.groups.map fun g => (g.1, m.clip, g.2) }).modComb k fun c =>
      { c with clip := m.clip, clipSealed := true }) s

/-- An accepted BIND (R460). -/
def acceptBind (p : Part) (m : Manifest) (s : State) : State :=
  let s := (drawn s).modCtx p fun _ => { state := 1, man := some m, ctxKey := drawNow 256 s, clearLeft := m.clearBudget }
  judgeContext p (loadSealed p m (loadGenerated p m s))

/-- BIND. -/
def effBind (p : Part) (b : Bytes) (s : State) : State :=
  if !queensServe s then s else
  let st := bindStatus s p b
  if st = rspOk then respond 1 st [] (acceptBind p (parseManifest b) s)
  else
    let s := if st = rspSlotBusy then logRefusal "key load" s else s
    respond 1 st [] (s.modQueen fun q => { q with manRej := hit 16 q.manRej })

/-- BIND. -/
def execBind (pbase : Part) (manifest : Bytes) (s : State) : Out := done (effBind pbase manifest s)

/-! ### Key envelopes (R465–R468) -/

/-- A key envelope's fields. -/
structure Envelope where
  usage : Nat
  keyId : KeyId
  owner : Nat
  fkgen : BitVec 6
  deriving DecidableEq, Repr

/-- The fields of 224 bytes. -/
def parseEnvelope (b : Bytes) : Envelope :=
  ⟨fieldAt b 8 1, Fin.ofNat 64 (fieldAt b 9 1), fieldAt b 10 1, BitVec.ofNat 6 (fieldAt b 11 1)⟩

/-- MAGIC, USAGE, KEY_ID, FKGEN and RSV fields (R466). -/
def envFormatOk (b : Bytes) : Bool :=
  let f := fieldAt b
  decide (b.length = 224) && decide (f 0 4 = 0x4B454E01) && decide (1 ≤ f 8 1) && decide (f 8 1 ≤ 3) &&
  (if f 8 1 = 1 then decide (1 ≤ f 9 1) && decide (f 9 1 ≤ 63) else decide (f 9 1 = 0)) &&
  decide (f 11 1 < 64) && (decide (f 8 1 = 2) || decide (f 11 1 = 0)) && allZero (slice b 12 4)

/-- Whether OWNER exists and its signature verifies. -/
def envSigned (m : Manifest) (b : Bytes) : Bool :=
  match m.owners[fieldAt b 10 1]? with
  | none => false
  | some k => Config.ed25519Verify k (leBytes 64 (Config.sha512 (b.take 160)).toNat) (slice b 160 64)

/-- Whether the owner may deliver this key (R466). -/
def envAllowed (m : Manifest) (e : Envelope) : Bool :=
  if e.usage = 1 then m.keys.any fun x => decide (x.id = e.keyId) && decide (x.kind = 1) && decide (x.owner = e.owner)
  else if e.usage = 2 then decide (e.owner = 0)
  else (decide (m.policy = 1) && decide (e.owner = 0)) || decide (m.policy = 2)

/-- The wrapped key, if its tag verifies (R465). -/
def unwrap (c : Context) (m : Manifest) (b : Bytes) : Option (BitVec 256) :=
  let shared := Config.x25519 c.ctxKey (BitVec.ofNat 256 (fieldAt b 80 32))
  let kek := hkdf 256 (leBytes 32 shared.toNat) (leBytes 64 m.digest.toNat) (b.take 16)
  (Config.gcmOpen kek 0 (b.take 112) (slice b 112 48)).map fun k => BitVec.ofNat 256 (le k)

/-- The member entries of a partition's routers. -/
def memberEntries (s : State) (p : Part) : List (Comb × JobIx) := (combsOf s p).filterMap fun k => (memberJob s k).map fun j => (k, j)

/-- What becomes of a REGION key: loaded, ALREADY or SLOT_BUSY (R466). -/
def loadRegionKey (p : Part) (id : KeyId) (key : BitVec 256) (s : State) : State × Byte :=
  let ts := (combsOf s p).map fun k => s.supers[k].slots[id]
  if ts.all fun t => decide (t.state = 1) && decide (t.key = key) then (s, rspAlready)
  else if ts.all fun t => decide (t.state = 0) then (loadAll p id key s, rspOk)
  else (logRefusal "key load" s, rspSlotBusy)

/-- What becomes of a FABRIC key (R467). -/
def loadFabricKey (p : Part) (gen : BitVec 6) (key : BitVec 256) (s : State) : State × Byte :=
  let es := memberEntries s p
  let ent := fun (e : Comb × JobIx) => s.combs[e.1].router.jobs[e.2]
  if !es.isEmpty && es.all fun e => (ent e).keyed && decide ((ent e).fkgen = gen) then (s, rspAlready)
  else if es.any fun e => (ent e).keyed && decide ((ent e).fkgen ≠ gen) && !(ent e).aborted && s.combs[e.1].hum.active then
    (s, rspWrongState)
  else
    (forEach (es.filter fun e => !(ent e).keyed || decide ((ent e).fkgen ≠ gen)) (fun e s => s.modJob e.1 e.2 fun x =>
      { x with keyed := true, fkgen := gen, fkey := key, seq := 0 }) s, rspOk)

/-- What becomes of a CHECKPOINT key or share (R468). -/
def loadCkptKey (p : Part) (m : Manifest) (owner : Nat) (key : BitVec 256) (s : State) : State × Byte :=
  let c := s.parts[p].ctx
  if c.ckptKey.isSome ∨ c.shares.any (fun e => decide (e.1 = owner)) then (s, rspAlready)
  else if m.policy = 1 then (s.modCtx p fun c => { c with ckptKey := some key }, rspOk)
  else
    let sh := (owner, key) :: c.shares
    if sh.length = m.owners.length then
      (s.modCtx p fun c => { c with ckptKey := some (sh.foldl (fun x e => x ^^^ e.2) 0), shares := [] }, rspOk)
    else (s.modCtx p fun c => { c with shares := sh }, rspOk)

/-- A KEY request through the checks of R466 in order: the state and the status. -/
def keyRequest (p : Part) (b : Bytes) (s : State) : State × Byte :=
  let q := s.parts[p]
  if !q.live then (s, rspNoPartition) else
  match q.ctx.man with
  | none => (s, rspWrongState)
  | some m =>
    let e := parseEnvelope b
    if (q.ctx.state ≠ 1 ∧ q.ctx.state ≠ 2) ∨ fieldAt b 4 4 ≠ m.jobId.toNat ∨ fieldAt b 16 64 ≠ m.digest.toNat then (s, rspWrongState)
    else if !envFormatOk b then (s, rspBadFormat)
    else if !envSigned m b then (s, rspBadSignature)
    else if !envAllowed m e then (s, rspNotAllowed)
    else match unwrap q.ctx m b with
    | none => (s, rspBadSignature)
    | some key =>
      if e.usage = 1 then loadRegionKey p e.keyId key s
      else if e.usage = 2 then loadFabricKey p e.fkgen key s
      else loadCkptKey p m e.owner key s

/-- KEY. -/
def effKey (p : Part) (b : Bytes) (s : State) : State :=
  if !queensServe s then s else
  let (s, st) := keyRequest p b s
  let s := if st = rspOk ∨ st = rspAlready then s else s.modQueen fun q => { q with envRej := hit 16 q.envRej }
  respond 2 st [] (judgeContext p s)

/-- KEY. -/
def execKey (pbase : Part) (envelope : Bytes) (s : State) : Out := done (effKey pbase envelope s)

/-! ### Debug (R478, R479) -/

/-- DEBUG_CHALLENGE: a fresh challenge; in field-debug state an unlock is then in progress. -/
def effChallenge (s : State) : State :=
  if !queensServe s then s else
  let c : BitVec 256 := drawNow 256 s
  respond 3 rspOk (leBytes 32 c.toNat)
    ((drawn s).modQueen fun q => { q with challenge := some c, unlocking := decide (Config.fusedDebugState = 1) })

/-- DEBUG_CHALLENGE. -/
def execDebugChallenge (s : State) : Out := done (effChallenge s)

/-- The status of an unlock token (R478, R479). -/
def unlockStatus (s : State) (t : Bytes) (auth : BitVec 256) (ageMs : Nat) : Byte :=
  if Config.fusedDebugState ≠ 1 then rspNotAllowed
  else if t.length ≠ 144 ∨ fieldAt t 0 4 ≠ 0x44425501 then rspBadFormat
  else if slice t 8 32 ≠ (leBytes 64 (Config.sha512 (leBytes 32 devidPub.toNat)).toNat).take 32 then rspNotAllowed
  else if s.queen.challenge ≠ some (BitVec.ofNat 256 (fieldAt t 40 32)) ∨ 60000 < ageMs then rspWrongState
  else if Config.sha512 (leBytes 32 auth.toNat) ≠ Config.dbgAuth then rspNotAllowed
  else if !Config.ed25519Verify auth (leBytes 64 (Config.sha512 (t.take 80)).toNat) (slice t 80 64) then rspBadSignature
  else if 255 ≤ s.dies[(0 : Die)].unlocks.toNat then rspNotAllowed else rspOk

/-- An accepted token: one more fuse, every context ended and its keys zeroised, the scoped paths opened. -/
def unlock (scope : BitVec 3) (s : State) : State :=
  let s := forEach (fins 2) (fun d s => s.modDie d fun x => { x with unlocks := x.unlocks + 1 }) s
  let s := forEach (liveParts s) (fun p s => zeroiseContext p (beginTeardown p s)) s
  s.modQueen fun q => { q with dbgUnlock := hit 16 q.dbgUnlock, dbgActive := true, scope := scope }

/-- DEBUG_UNLOCK: the challenge is used up whatever the answer. -/
def effUnlock (t : Bytes) (auth : BitVec 256) (ageMs : Nat) (s : State) : State :=
  if !queensServe s then s else
  let st := unlockStatus s t auth ageMs
  let s := s.modQueen fun q => { q with challenge := none, unlocking := false }
  respond 4 st [] (if st = rspOk then unlock (BitVec.ofNat 3 (fieldAt t 72 1)) s else s)

/-- DEBUG_UNLOCK. -/
def execDebugUnlock (token : Bytes) (authKey : BitVec 256) (ageMs : Nat) (s : State) : Out :=
  done (effUnlock token authKey ageMs s)

/-! ### Attestation (R475, R476) -/

/-- KEYMAP byte of key ID i. -/
def keymapByte (s : State) (p : Part) (m : Manifest) (i : KeyId) : Byte :=
  match m.keys.find? fun e => decide (e.id = i) with
  | none => 0xFF
  | some e => if !keyLoaded s p i then 0xF0
              else if e.kind = 1 then BitVec.ofNat 8 e.owner else if e.kind = 2 then 0x80 else 0x81

/-- LAYOUT: a byte for each comb. -/
def layoutBytes (s : State) : Bytes :=
  (fins 8).map fun k =>
    let c := s.combs[k]
    BitVec.ofNat 8 (c.pbase.val + 8 * c.psize.toNat + 32 * b2n c.assigned + 64 * b2n c.cellRegs.degraded)

/-- Bytes 0–407 of a report. -/
def reportHead (s : State) (kind : Nat) (p : Part) (nonce : BitVec 256) : Bytes :=
  let d := s.dies[(0 : Die)]
  padTo 16 (leBytes 4 0x41545201 ++ leBytes 2 1 ++ leBytes 1 kind ++ leBytes 1 p.val ++ leBytes 4 704) ++
    leBytes 32 nonce.toNat ++ leBytes 32 devidPub.toNat ++ leBytes 32 (aliasPub s.boot.cdi1).toNat ++
    leBytes 64 Config.bootRomDigest.toNat ++ leBytes 64 s.boot.dQueen.toNat ++ leBytes 64 s.boot.dSeq.toNat ++
    leBytes 64 s.boot.dHild.toNat ++ leBytes 4 d.svn.toNat ++
    [Config.fusedDebugState.setWidth 8, BitVec.ofNat 8 (b2n (s.queen.dbgActive || decide (Config.fusedDebugState = 0))), d.unlocks, 0] ++
    leBytes 4 s.queen.epoch.toNat ++ leBytes 4 s.queen.die.val ++ leBytes 8 (humNs s p).toNat ++
    leBytes 4 (coordField s) ++ leBytes 4 0 ++ layoutBytes s

/-- Bytes 408–639 of a partition's report. -/
def reportPart (s : State) (p : Part) : Bytes :=
  let c := s.parts[p].ctx
  match c.man with
  | none => padTo 232 ([0, 0, 0, 0, c.state.setWidth 8] ++ List.replicate 99 0 ++ List.replicate 64 0xFF)
  | some m =>
    let es := memberEntries s p
    let gen : Nat := es.head?.elim 0 fun e => s.combs[e.1].router.jobs[e.2].fkgen.toNat
    padTo 232 (leBytes 4 m.jobId.toNat ++ [c.state.setWidth 8] ++ leBytes 1 m.owners.length ++ [0, 0] ++
      leBytes 64 m.digest.toNat ++ leBytes 32 (if c.state = 3 then 0 else (Config.x25519Pub c.ctxKey).toNat) ++
      ((fins 64).map fun i => if i.val = 0 then 0xFF else keymapByte s p m i) ++
      leBytes 1 (b2n (fabricLoaded s p)) ++ leBytes 1 gen ++
      leBytes 1 (if c.ckptKey.isSome then 1 else if c.shares.isEmpty then 0 else 2) ++ [0] ++
      leBytes 2 ((c.shares.map fun e => 2 ^ e.1).sum) ++ List.replicate 10 0 ++ leBytes 4 m.clearBudget ++
      leBytes 2 (s.supers[p].hild.dp.length % 8192))

/-- A report with its signature (R476). -/
def report (s : State) (part : Option Part) (nonce : BitVec 256) : Bytes :=
  let body := match part with
    | none => reportHead s 0 0 nonce ++ List.replicate 232 0
    | some p => reportHead s 1 p nonce ++ reportPart s p
  body ++ aliasSign s.boot.cdi1 body

/-- The measurement block of an index, if there is one (R475). -/
def measurement (s : State) (index : Nat) (nonce : BitVec 256) : Option Bytes :=
  if index = 1 then some (leBytes 64 Config.bootRomDigest.toNat)
  else if index = 2 then some (leBytes 64 s.boot.dQueen.toNat)
  else if index = 3 then some (leBytes 64 s.boot.dSeq.toNat)
  else if index = 4 then some (leBytes 64 s.boot.dHild.toNat)
  else if index = 0x30 then some (report s none nonce)
  else if h : 0x31 ≤ index ∧ index < 0x39 then
    let p : Part := ⟨index - 0x31, by omega⟩
    if s.parts[p].live then some (report s (some p) nonce) else none
  else none

/-- GET_MEASUREMENTS: the block leaves the module under code 0. -/
def execGetMeasurements (index : Byte) (nonce : BitVec 256) (s : State) : Out :=
  done (if !queensServe s then s else
    match measurement s index.toNat nonce with
    | some b => respond 0 rspOk b s
    | none => s)

end Sys2Proof.Machine
end

