-- ==== Sys2Proof/Machine/TtImage.lean ====
section
/-! DEFINITION. Timetable images and their admission (R64, R67–R69, R76, R80, R390–R392, R461). -/

namespace Sys2Proof.Machine

/-! ### The image (R390, R391) -/

/-- A signed byte. -/
def sbyte (n : Nat) : Int := signedOf 8 n

/-- The flow descriptor of 64 bytes. -/
def decodeFlow (b : Bytes) : Flow :=
  let f := fieldAt b
  { dispatch := f 0 1 % 4 == 2, defer := bits (f 0 1) 2 2 == 1, pos := f 1 1 % 8
    dx := sbyte (f 2 1), dy := sbyte (f 3 1), dz := sbyte (f 4 1)
    x0 := f 8 1, x1 := f 9 1, y0 := f 10 1, y1 := f 11 1, z0 := f 12 1, z1 := f 13 1
    first := f 16 2, count := f 18 2, stride := f 20 2, tokenBytes := f 22 2
    rxComb := f 24 1 % 4 == 2, rxSem := f 26 2 % 4096, rxSemEn := bits (f 26 2) 15 15 == 1
    rxFlits := f 28 4, rxBase := f 32 8, txStat := f 40 4, rxStat := f 44 4 }

/-- Offsets, within a flow descriptor, of what breaks R391 (and R388's one hop at least). -/
def flowBad (S : Nat) (b : Bytes) : List Nat :=
  let f := fieldAt b
  let fl := decodeFlow b
  let kind := f 0 1 % 4
  let far := fun d : Int => decide (31 < d.natAbs)
  badIf (kind = 0 || kind = 3 || (kind = 1 && fl.defer) || bits (f 0 1) 7 3 ≠ 0) 0 ++
  badIf (S ≤ fl.pos || bits (f 1 1) 7 3 ≠ 0) 1 ++
  badIf (far fl.dx || decide ((routePorts fl).length = 0)) 2 ++ badIf (far fl.dy) 3 ++ badIf (far fl.dz) 4 ++
  badIf (f 5 1 ≠ 0) 5 ++ badIf (f 6 1 ≠ 0) 6 ++ badIf (f 7 1 ≠ 0) 7 ++ badIf (f 14 1 ≠ 0) 14 ++ badIf (f 15 1 ≠ 0) 15 ++
  badIf (509 < fl.first) 16 ++ badIf (fl.count = 0 || 510 < fl.count) 18 ++
  badIf (fl.stride = 0 || 509 < fl.stride || (decide (fl.count ≤ 510) && !(flowSlots fl).Nodup)) 20 ++
  badIf (if kind = 2 then fl.tokenBytes = 0 else fl.tokenBytes ≠ 0) 22 ++
  badIf ((f 24 1 % 4 ≠ 1 && f 24 1 % 4 ≠ 2) || bits (f 24 1) 7 2 ≠ 0) 24 ++ badIf (f 25 1 ≠ 0) 25 ++
  badIf (bits (f 26 2) 14 12 ≠ 0) 26 ++ badIf (fl.rxFlits = 0) 28 ++ badIf (fl.rxBase % 512 ≠ 0) 32 ++
  badIf (kind = 2 ∧ fl.txStat % 16 ≠ 0) 40 ++ badIf (kind = 2 ∧ fl.rxStat % 16 ≠ 0) 44 ++
  (((List.range 16).filter fun i => (b.getD (48 + i) 0) != 0).map fun i => 48 + i)

/-- The image with its DIGEST bytes read as 0. -/
def zeroDigest (img : Bytes) : Bytes := img.take 64 ++ List.replicate 64 0 ++ img.drop 128

/-- Offsets of bad header fields. -/
def headerBad (s : State) (p : Part) (img : Bytes) : List Nat :=
  let f := fieldAt img
  badIf (f 0 4 ≠ 0x57544901) 0 ++ badIf (decide (f 4 4 ≠ (jobOf s p).toNat)) 4 ++ badIf (bits (f 8 2) 15 12 ≠ 0) 8 ++
  badIf (f 10 1 % 4 ≠ s.parts[p].psize.toNat || bits (f 10 1) 6 4 ≠ p.val || bits (f 10 1) 3 2 ≠ 0 || bits (f 10 1) 7 7 ≠ 0) 10 ++
  badIf (f 11 1 ≠ 0) 11 ++ badIf (f 12 2 = 0 || 16382 < f 12 2) 12 ++
  ((([14, 15, 22, 23] ++ (List.range 36).map fun i => 28 + i).filter fun i => (img.getD i 0) != 0)) ++
  badIf (decide (Config.sha512 (zeroDigest img) ≠ BitVec.ofNat 512 (f 64 64))) 64

/-- The flow descriptors of an image. -/
def flowBytes (img : Bytes) : List Bytes := rowsOfBytes 64 (img.length / 64) (img.drop 128)

/-- Offsets of bad fields of the flow descriptors. -/
def flowsBad (S : Nat) (img : Bytes) : List Nat :=
  ((flowBytes img).mapIdx fun i b => (flowBad S b).map fun o => 128 + 64 * i + o).flatten

/-- A timetable as its image gives it. -/
def decodeTt (img : Bytes) : Timetable :=
  { beatFrames := fieldAt img 8 2 % 4096 + 1, origin := BitVec.ofNat 48 (fieldAt img 16 6), energy := fieldAt img 24 4
    digest := BitVec.ofNat 512 (fieldAt img 64 64), flows := (flowBytes img).map decodeFlow }

/-! ### Roles and the lease check (R392) -/

/-- A slot-table entry that a flow needs: RX or TX, port, data slot, KIND, and for TRANSIT the other port. -/
structure Need where
  rx   : Bool
  port : LPort
  slot : Nat
  kind : Nat
  other : Nat
  deriving DecidableEq, Repr

/-- The offset of a router from the source after h hops. -/
def hopOffset (f : Flow) (h : Nat) : Int × Int × Int :=
  let ps := (routePorts f).take h
  let n := fun q : LPort => ((ps.filter fun p => decide (p = q)).length : Int)
  (n 0 - n 1, n 2 - n 3, n 4 - n 5)

/-- Whether this module stands h hops from a source in the flow's box. -/
def atHop (s : State) (f : Flow) (h : Nat) : Bool :=
  let (a, b, c) := hopOffset f h
  let m := s.mod
  let x := backBy m.x.toNat a m.dimX.toNat
  let y := backBy m.y.toNat b m.dimY.toNat
  let z := backBy m.z.toNat c m.dimZ.toNat
  decide (f.x0 ≤ x ∧ x ≤ f.x1 ∧ f.y0 ≤ y ∧ y ≤ f.y1 ∧ f.z0 ≤ z ∧ z ≤ f.z1)

/-- LOCAL entries of a flow on this module. -/
def localNeeds (s : State) (f : Flow) : List Need :=
  (match firstPort f with
   | some q => if inBox s f then (flowSlots f).map fun d => ⟨false, q, d, 1, 0⟩ else []
   | none => []) ++
  (match lastPort f with
   | some q => if isDest s f then (arriveSlots f).map fun d => ⟨true, q, d, 1, 0⟩ else []
   | none => [])

/-- TRANSIT entries of a flow on this module (R388). -/
def transitNeeds (s : State) (f : Flow) : List Need :=
  let ps := routePorts f
  ((List.range (ps.length - 1)).map fun i =>
    let h := i + 1
    if !atHop s f h then [] else
    match ps[i]?, ps[h]? with
    | some inn, some out =>
      ((flowSlots f).map fun d =>
        [(⟨true, facing inn, (d + 2 * (h - 1)) % 510, 2, out.val⟩ : Need), ⟨false, out, (d + 2 * h) % 510, 2, (facing inn).val⟩]).flatten
    | _, _ => []).flatten

/-- Whether an entry a flow needs is leased to job entry j of comb k, and its strand-port is UP. -/
def needMet (s : State) (k : Comb) (j : JobIx) (n : Need) : Bool :=
  let e := leaseAt s.combs[k] n.rx n.port.val (dataSlot n.slot)
  s.combs[k].router.jobs[j].leased && decide (entKind e = n.kind) && decide (entJob e = j.val) &&
  (decide (n.kind ≠ 2) || decide (entPort e = n.other)) && portUp s k n.port

/-- The Lease check of R68. -/
def leaseOk (s : State) (p : Part) (t : Timetable) : Bool :=
  t.flows.all fun f =>
    let k := combAt p f.pos
    let needs := localNeeds s f ++ transitNeeds s f
    needs.isEmpty || match memberJob s k with
      | none => false
      | some j => needs.all (needMet s k j)

/-- The first flow that claims a LOCAL entry of an earlier flow on the same comb (R392). -/
def clashAt (s : State) : Nat → List Flow → List (Nat × Need) → Option Nat
  | _, [], _ => none
  | i, f :: fs, seen =>
    let mine := (localNeeds s f).map fun n => (f.pos, n)
    if mine.any fun n => seen.contains n then some i else clashAt s (i + 1) fs (mine ++ seen)

/-! ### Admission (R68, R69, R76) -/

/-- Frames from a frame number to an origin, modulo 2^48. -/
def framesTo (frame : Nat) (o : BitVec 48) : Nat := (o - BitVec.ofNat 48 frame).toNat

/-- The Lead check: F₀ at least max(B, 16) frames ahead, and a beat boundary of a running timetable. -/
def leadOk (s : State) (p : Part) (t : Timetable) : Bool :=
  let h := s.combs[p].hum
  let n := framesTo (frameOf s p) t.origin
  decide (max t.beatFrames 16 ≤ n) && decide (n < 2 ^ 47) &&
  (!h.active || decide ((framesTo h.beatStart t.origin) % (h.beatFrames.toNat + 1) = 0))

/-- P_base in tenths of a watt (R75). -/
def basePower (s : State) : Nat :=
  257 * ((fins 8).filter fun q => s.ports[q].on).length + 300 + 100 * ((fins 8).filter fun k => s.supers[k].powered).length

/-- P_j in watts: E_j ÷ (B × 6.5536 µs). -/
def jobPower (t : Timetable) : Rat := (t.energy * 10000 : Rat) / (t.beatFrames * 65536 : Rat)

/-- The power of another partition's admitted timetables: only one runs at any beat. -/
def partPower (s : State) (p : Part) : Rat :=
  let a := (s.parts[p].tt.map jobPower).getD 0
  let b := (s.parts[p].nextTt.map jobPower).getD 0
  if a ≤ b then b else a

/-- The Energy rule of R76 for a total job power and a limit: (P_base + ΣP) ÷ 0.93 ≤ limit. -/
def energyFits (s : State) (jobs : Rat) (limit : Nat) : Bool :=
  decide ((basePower s : Rat) / 10 + jobs ≤ (limit : Rat) * 93 / 100)

/-- The Energy check for a timetable of partition p. -/
def energyOk (s : State) (p : Part) (t : Timetable) : Bool :=
  energyFits s (jobPower t + (((liveParts s).filter fun q => decide (q ≠ p)).map (partPower s)).sum) s.power.limit.toNat

/-- Whether a die is in emergency throttle (R554). -/
def throttled (d : DieState) : Bool := d.uv || d.overpwr || d.thermDie || decide (d.thermDram ≠ 0)

/-- The Digest check: for a joint job, the manifest's timetable digest. -/
def ttDigestOk (s : State) (p : Part) (t : Timetable) : Bool :=
  match s.parts[p].ctx.man with
  | none => false
  | some m => decide (m.owners.length = 1) || decide (t.digest = m.ttDigest)

/-- The first failing check of R68, by its code; 0 when all pass. Slots 0 and 256 are never data slots (R387), and the
12-bit field holds B − 1, so checks 2 and 3 always pass. -/
def rejectCode (s : State) (p : Part) (t : Timetable) : Nat :=
  if !leaseOk s p t then 1
  else if !leadOk s p t then 4
  else if !ttDigestOk s p t then 5
  else if !energyOk s p t then 6
  else if (combsOf s p).any fun k => throttled s.dies[dieOf k] then 7
  else 0

/-- An admitted timetable: HUM_BEAT_CFG is written, and before a first grid the flows and the verdict count start; PEAK starts afresh (R556). -/
def admitTt (p : Part) (t : Timetable) (s : State) : State :=
  let first := !s.combs[p].hum.active
  let s := s.modPart p fun q => { q with nextTt := some t, tt := if first then none else q.tt, peak := 0 }
  forEach (combsOf s p) (fun k s =>
    let s := s.modHum k fun h => { h with cfgFrames := BitVec.ofNat 12 (t.beatFrames - 1), origin := t.origin, due := true }
    if !first then s else
    let fl := flowsOfComb s p k t
    let s := s.modRouter k fun r => { r with flows := fl }
    match memberJob s k with
    | some j => s.modJob k j fun e => { e with epoch := 0 }
    | none => s) s

/-- The image, checked and admitted: the status and DETAIL that decide the descriptor. -/
def judge (s : State) (p : Part) (img : Bytes) : Byte × Nat :=
  let n := fieldAt img 12 2
  if img.length ≠ 128 + 64 * n then (stFormatError, 24)
  else match (headerBad s p img ++ flowsBad (sizeOf s p) img).min? with
  | some o => (stFormatError, 0x80000000 + o)
  | none =>
    let t := decodeTt img
    match clashAt s 0 t.flows [] with
    | some i => (stFormatError, 0x80000000 + 128 + 64 * i)
    | none => let c := rejectCode s p t; if c = 0 then (stOK, 0) else (stTimetableReject, c)

/-- TIMETABLE: the image is read, checked and admitted, or rejected. -/
def effTimetable (p : Part) (r : Ring) (s : State) : State :=
  match startedDesc s p r opTimetable with
  | none => s
  | some d =>
    if !ppaServes s (serving s p r) p (d.field 16 8) (d.field 24 4) then s else
    match ppaFetch p (d.field 16 8) (d.field 24 4) s with
    | (s, _, some e) => failMem p r d.idx e s
    | (s, img, none) =>
      let (st, c) := judge s p img
      let s := if st = stOK then admitTt p (decodeTt img) s else s
      finish p r d.idx st (w32 c) 0 (serving s p r) s

/-- TIMETABLE. -/
def execTimetable (p : Part) (r : Ring) (s : State) : Out := done (effTimetable p r s)

end Sys2Proof.Machine
end

