-- ==== Sys2Proof/Machine/Power.lean ====
section
/-! DEFINITION. Power, clocks and thermal (R538–R556): input and rails, emergency throttles, the power limit, energy
reports, references and PLLs. -/

namespace Sys2Proof.Machine

/-! ### Input and rails (R540, R542–R544) -/

/-- The power controller after a power-down: its latch and the input fault are all it keeps; VDD_HK, rail 0, stays on while the
input exceeds 20 V (R544). -/
def offPower (latched trip fault hk : Bool) : Power :=
  { rails := if hk then 1 else 0, pwrgd := false, thermtripN := !trip, latched := latched, inputFaulted := fault }

/-- A powered-down module (R539, R544): all state is lost but fuses, the repair record and the flash; what the DRAM will hold is
open. -/
def powerDown (latched trip fault hk : Bool) (s : State) : State :=
  { State.reset with
    pending := s.pending, out := s.out, draws := s.draws + 1
    supers := .replicate 8 { fill := s.draws + 1 }
    dies := s.dies.map fun d => { svn := d.svn, revoke := d.revoke, unlocks := d.unlocks, repair := d.repair }
    power := offPower latched trip fault hk
    boot := { erased := s.boot.erased, flash := s.boot.flash }
    mod := { perstN := s.mod.perstN } }

/-- A measured input voltage as `PWR_INPUT`.VOLT holds it. -/
def voltField (mV : Nat) : BitVec 16 := BitVec.ofNat 16 (min mV 65535)

/-- INPUT_POWER_GOOD: from off and not latched, every rail comes up and PWRGD is released; after an input fault the boot is
that of a module cold reset. -/
def execInputPowerGood (mV : Nat) (s : State) : Out :=
  done (if 49000 ≤ mV ∧ !s.power.pwrgd ∧ !s.power.latched then
    { s with power := { volt := voltField mV, frefLost := s.power.frefLost, prefLost := s.power.prefLost }
             boot := { s.boot with kind := if s.power.inputFaulted then .cold else .powerOn } }
    else s)

/-- RAIL_FAULT: power-down and latch. -/
def execRailFault (_rail : Fin 10) (s : State) : Out := done (if s.power.latched then s else powerDown true false false true s)

/-- INPUT_FAULT. -/
def execInputFault (mV : Nat) (s : State) : Out :=
  done (if (mV < 47000 ∨ 66000 < mV) ∧ s.power.pwrgd then powerDown false false true (decide (20000 < mV)) s else s)

/-- LATCH_RELEASE: below 20 V VDD_HK goes off (R544) and the latch ends; THERMTRIP_N is low as long as it holds (R553). -/
def execLatchRelease (mV : Nat) (s : State) : Out :=
  done (if mV < 20000 ∧ s.power.latched then s.modPower fun w => { w with latched := false, thermtripN := true, rails := 0 } else s)

/-! ### Sensors (R568) -/

/-- The band a reading lies in: 0 normal, 1 warning, 2 critical, 3 fatal, against rising thresholds. -/
def bandUp (v : Int) (w c f : Int) : Nat := if f ≤ v then 3 else if c ≤ v then 2 else if w ≤ v then 1 else 0

/-- The reading of a numeric sensor. -/
def sensorValue (s : State) (id : Nat) : Option Int :=
  if id = 1 then some s.power.volt.toNat
  else if id = 2 then some s.power.curr.toNat
  else if id = 3 then some s.power.avg.toNat
  else if id = 4 then some s.dies[(0 : Die)].temp
  else if id = 5 then some s.dies[(1 : Die)].temp
  else if 6 ≤ id ∧ id ≤ 13 then some s.power.tSup[Fin.ofNat 8 (id - 6)]
  else none

/-- The band of a numeric sensor. -/
def sensorBand (s : State) (id : Nat) : Nat :=
  match sensorValue s id with
  | none => 0
  | some v =>
    if id = 1 then (if v < 47000 ∨ 66000 < v then 3 else if v < 50000 ∨ 64000 < v then 1 else 0)
    else if id = 3 then (if 1600 < v then 2 else if (s.power.limit.toNat : Int) < v then 1 else 0)
    else if id = 4 ∨ id = 5 then bandUp v 100 108 115
    else if 6 ≤ id then bandUp v 90 95 100
    else 0

/-- The numeric sensors 1–13. -/
def sensorIds : List Nat := (List.range 13).map (· + 1)

/-- A platform event for each sensor whose band changed between two states. -/
def bandEvents (old s : State) : State :=
  forEach (sensorIds.filter fun i => sensorBand old i ≠ sensorBand s i) (fun i s =>
    platEvent 1 (BitVec.ofNat 8 i) (BitVec.ofInt 56 ((sensorValue s i).getD 0)) s) s

/-- PWR_INPUT takes a measured voltage. -/
def setVolt (mV : Nat) (s : State) : State := bandEvents s (s.modPower fun w => { w with volt := voltField mV })

/-! ### Emergency throttles (R554, R555) -/

/-- The lowest comb of a partition on one of some dies. -/
def combOnDies (s : State) (p : Part) (ds : List Die) : Option Comb := (combsOf s p).find? fun k => ds.contains (dieOf k)

/-- A cause that became active on some dies, of which `fresh` were not throttled: the WARNING to every partition with a
comb there, then CHECKPOINT_TRIGGER where a die became throttled (R78, R555). -/
def postThrottle (cause : Byte) (ds fresh : List Die) (s : State) : State :=
  if !queensServe s then s else
  let s := forEach (liveParts s) (fun p s => match combOnDies s p ds with
    | some k => postEvent p evWarning cause k (Config.openDetail evWarning cause) s
    | none => s) s
  forEach (liveParts s) (fun p s => match combOnDies s p fresh with
    | some k => ckptTrigger p cause k (Config.openDetail evCheckpointTrigger cause) s
    | none => s) s

/-- The dies that satisfy a test. -/
def diesWith (s : State) (f : DieState → Bool) : List Die := (fins 2).filter fun d => f s.dies[d]

/-- UNDERVOLTAGE_DETECT. -/
def effUnder (mV : Nat) (s : State) : State :=
  if !(mV < 50000 ∧ s.power.pwrgd) then s else
  let s := setVolt mV s
  let ds := diesWith s fun d => !d.uv
  if ds.isEmpty then s else
  let fresh := diesWith s fun d => !throttled d
  postThrottle 0xC1 ds fresh ((s.modPower fun w => { w with uv := hit 16 w.uv }).modDie 0 (fun d => { d with uv := true })
    |>.modDie 1 fun d => { d with uv := true })

/-- UNDERVOLTAGE_DETECT. -/
def execUndervoltageDetect (mV : Nat) (s : State) : Out := done (effUnder mV s)

/-- UNDERVOLTAGE_CLEAR. -/
def execUndervoltageClear (mV : Nat) (s : State) : Out :=
  done (if 51000 ≤ mV ∧ s.power.pwrgd then
    ((setVolt mV s).modDie 0 fun d => { d with uv := false }).modDie 1
      fun d => { d with uv := false }
    else s)

/-- The OVERPOWER cause becomes active on both dies. -/
def overpower (s : State) : State :=
  let ds := diesWith s fun d => !d.overpwr
  if ds.isEmpty then s else
  let fresh := diesWith s fun d => !throttled d
  postThrottle 0xC3 ds fresh ((s.modPower fun w => { w with overpwr := hit 16 w.overpwr }).modDie 0
    (fun d => { d with overpwr := true }) |>.modDie 1 fun d => { d with overpwr := true })

/-! ### Power samples (R545) -/

/-- POWER_SAMPLE: `PWR_INPUT` takes the sample; above 1,600 W both dies throttle. -/
def effPowerSample (watts avg mV mA : BitVec 16) (s : State) : State :=
  if !s.power.pwrgd then s else
  let s := bandEvents s (s.modPower fun w => { w with volt := mV, curr := mA, watts := watts, avg := avg })
  if 1600 < watts.toNat then overpower s else s

/-- POWER_SAMPLE. -/
def execPowerSample (watts avg mV mA : BitVec 16) (s : State) : Out := done (effPowerSample watts avg mV mA s)

/-- OVERPOWER_SUSTAINED. -/
def execOverpowerSustained (s : State) : Out := done (if s.power.pwrgd then overpower s else s)

/-- OVERPOWER_CLEAR. -/
def execOverpowerClear (s : State) : Out :=
  done ((s.modDie 0 fun d => { d with overpwr := false }).modDie 1 fun d => { d with overpwr := false })

/-! ### Thermal (R551–R553) -/

/-- The hottest DRAM die of super k in a sample, the last reading where the sample leaves it out. -/
def dramTemp (s : State) (dram : List Int) (k : Super) : Int := (dram[k.val]?).getD s.power.tSup[k]

/-- The super with the hottest DRAM die, the lowest of several. -/
def hottest (t : Vector Int 8) : Super := (fins 8).foldl (fun b k => if t[b] < t[k] then k else b) 0

/-- The readings of a sample (R323, R556). -/
def takeTemps (die0 die1 : Int) (dram : List Int) (s : State) : State :=
  let t : Vector Int 8 := Vector.ofFn fun k => dramTemp s dram k
  let s := s.modPower fun w => { w with tSup := t, tDram := t[hottest t], tDramSup := hottest t }
  let s := (s.modDie 0 fun d => { d with temp := die0 }).modDie 1 fun d => { d with temp := die1 }
  forEach (fins 8) (fun k s => s.modSuper k fun u => { u with hot := decide (85 < t[k]) }) s

/-- The THERMAL causes that a sample starts or deepens on a die (R552). -/
def heatDie (s : State) (d : Die) (x : DieState) : DieState :=
  let dram := (fins 8).foldl (fun (m : BitVec 8) k =>
    if dieOf k = d ∧ 90 ≤ s.power.tSup[k] then m ||| (1#8 <<< k.val) else m) x.thermDram
  { x with thermDie := x.thermDie || decide (100 ≤ x.temp), therm4 := x.therm4 || decide (108 ≤ x.temp), thermDram := dram }

/-- Whether the THERMAL cause of a die is active. -/
def thermal (d : DieState) : Bool := d.thermDie || decide (d.thermDram ≠ 0)

/-- The THERMAL monitor counts a sample within MARGIN of 100 °C (R509). -/
def countHot (s : State) : State :=
  forEach (diesWith s fun d => decide (100 - (s.evt.margin.toNat : Int) ≤ d.temp)) (fun d s =>
    forEach (partsOnDie s d) (fun p s => match combOnDies s p [d] with
      | some k => ewCount k 4 1 s
      | none => s) s) s

/-- THERMAL_SAMPLE: a trip first (R553), else the readings and the THERMAL causes. -/
def effThermal (die0 die1 : Int) (dram : List Int) (s : State) : State :=
  if !s.power.pwrgd then s
  else if 115 ≤ die0 ∨ 115 ≤ die1 ∨ (fins 8).any (fun k => decide (100 ≤ dramTemp s dram k)) then powerDown true true false true s
  else
    let s := countHot (bandEvents s (takeTemps die0 die1 dram s))
    let ds := diesWith s fun d => !thermal d
    let un := diesWith s fun d => !throttled d
    let t := forEach (fins 2) (fun d t => t.modDie d fun x => heatDie s d x) s
    let began := ds.filter fun d => thermal t.dies[d]
    if began.isEmpty then t else
    postThrottle 0xC2 began (un.filter (began.contains ·)) (t.modPower fun w => { w with therm := hitN 16 began.length w.therm })

/-- The hottest of some sensors, the last reading where none is sampled. -/
def hottestOf (last : Int) : List Int → Int
  | [] => last
  | x :: r => r.foldl max x

/-- THERMAL_SAMPLE: the junction sensors of each die, the DRAM sensors of each super (R551); thresholds act on the hottest of their
scope (R552). -/
def execThermalSample (die0 die1 : List Int) (dram : List (List Int)) (s : State) : Out :=
  done (effThermal (hottestOf s.dies[(0 : Die)].temp die0) (hottestOf s.dies[(1 : Die)].temp die1)
    ((fins 8).map fun k => hottestOf s.power.tSup[k] (dram.getD k.val [])) s)

/-- THERMAL_DIV4_END. -/
def execThermalDiv4End (d : Die) (s : State) : Out := done (s.modDie d fun x => { x with therm4 := false })

/-- THERMAL_CLEAR: a compute die's cause, or that of a super's DRAM. -/
def execThermalClear (scope : ThermScope) (s : State) : Out :=
  done (match scope with
  | .die d => s.modDie d fun x => { x with thermDie := false, therm4 := false }
  | .dram k => s.modDie (dieOf k) fun x => { x with thermDram := x.thermDram &&& ~~~ (1#8 <<< k.val) })

/-! ### The power limit (R546) -/

/-- A new sustained limit validated by the queen: 0 accepted, or the ERR code. -/
def limitErr (s : State) (w : Nat) : Nat :=
  if w < 900 ∨ 1500 < w then 1
  else if !energyFits s (((liveParts s).map (partPower s)).sum) w then 2
  else 0

/-- A write of LIMIT. -/
def setLimit (w : Nat) (s : State) : State :=
  let e := limitErr s w
  bandEvents s (s.modPower fun p => { p with limErr := BitVec.ofNat 2 e, limit := if e = 0 then BitVec.ofNat 11 w else p.limit })

/-- A PF0 write of PWR_LIMIT. -/
def effLimit (f : Fn) (value : Word) (s : State) : State :=
  if f.val = 0 ∧ reaches s f .pwrLimit then setLimit (value.toNat % 2048) s else s

/-- PWR_LIMIT_WRITE. -/
def execPwrLimitWrite (f : Fn) (value : Word) (s : State) : Out := done (effLimit f value s)

/-! ### Energy (R547) -/

/-- ENERGY_REPORT_64: a partition without an active beat grid reports its energy. -/
def execEnergyReport64 (p : Part) (uj : Word) (s : State) : Out :=
  done (if s.parts[p].live ∧ !(combsOf s p).any (fun k => s.combs[k].hum.active) then recordEnergy p uj s else s)

/-! ### References and PLLs (R548–R550, R556) -/

/-- FABRIC_REF_LOSS: every strand-port goes DOWN, and WARNING 0xC4 goes to every partition. -/
def effFabricLoss (s : State) : State :=
  if s.power.frefLost then s else
  let s := s.modPower fun w => { w with frefLost := true, frefOk := false, frefLoss := hit 16 w.frefLoss }
  let s := forEach (fins 8) (fun k s => forEach (fins 6) (fun p s =>
    if s.combs[k].router.ports[p].state = 0 then s else strandDown k p 0 s.combs[k].router.ports[p].stuck s) s) s
  if !queensServe s then s else
  forEach (liveParts s) (fun p s => postEvent p evWarning 0xC4 p (Config.openDetail evWarning 0xC4) s) s

/-- FABRIC_REF_LOSS. -/
def execFabricRefLoss (s : State) : Out := done (effFabricLoss s)

/-- PCIE_REF_LOSS: the link goes down under R433. -/
def execPcieRefLoss (s : State) : Out :=
  done (if s.power.prefLost then s else
    let s := s.modPower fun w => { w with prefLost := true, prefOk := false, prefLoss := hit 16 w.prefLoss }
    if s.mod.linkUp then portReset s else s)

/-- REF_RETURN: the reference is within stability; the strand-ports retrain. -/
def execRefReturn (ref : RefClk) (s : State) : Out :=
  done (match ref with
  | .fabric => startTraining (s.modPower fun w => { w with frefLost := false, frefOk := true })
  | .pcie => s.modPower fun w => { w with prefLost := false, prefOk := true })

/-- PLL_UNLOCK: a module fault with unit code 0x1300 plus the PLL's index. -/
def execPllUnlock (pll : Fin 23) (s : State) : Out :=
  done (if s.power.pwrgd then
    moduleFault stInternal (w32 (0x1300 + pll.val)) (s.modPower fun w => { w with pllUnlock := hit 16 w.pllUnlock })
  else s)

end Sys2Proof.Machine
end

