-- ==== Sys2Proof/Machine/Boot.lean ====
section
/-! DEFINITION. Boot, recovery mode and the fused version (R557–R565, R573). -/

namespace Sys2Proof.Machine

/-! ### The flash and an image (R557–R560) -/

/-- A byte of the flash: as module test left it until the image region was first erased. -/
def flashAt (s : State) (a : Nat) : Byte := if s.boot.erased then tabGet 0xFF s.boot.flash a else Config.flashByte a

/-- n bytes of the flash from offset a. -/
def flashRead (s : State) (a n : Nat) : Bytes := (List.range n).map fun i => flashAt s (a + i)

/-- The image region erased (R564, R569). -/
def flashErase (s : State) : State := s.modBoot fun b => { b with erased := true, flash := [] }

/-- Bytes programmed into the erased flash. -/
def flashProg (a : Nat) (data : Bytes) (s : State) : State :=
  s.modBoot fun b => { b with flash := (data.zipIdx a).foldl (fun t e => tabSet 0xFF t e.2 e.1) b.flash }

/-- A source of image bytes: offset and length. -/
abbrev Image := Nat → Nat → Bytes

/-- TYPE, OFF and LEN of component c in a header. -/
def compType (h : Bytes) (c : Nat) : Nat := fieldAt h (64 + 80 * c) 4
def compOff (h : Bytes) (c : Nat) : Nat := fieldAt h (68 + 80 * c) 4
def compLen (h : Bytes) (c : Nat) : Nat := fieldAt h (72 + 80 * c) 4
def compDigest (h : Bytes) (c : Nat) : Nat := fieldAt h (80 + 80 * c) 64

/-- SVN, COMMIT_SVN and KEY_INDEX of a header. -/
def hdrSvn (h : Bytes) : BitVec 7 := BitVec.ofNat 7 (fieldAt h 8 1 % 128)
def hdrCommit (h : Bytes) : Bool := decide (128 ≤ fieldAt h 8 1)
def hdrKey (h : Bytes) : Nat := fieldAt h 9 1 % 4

/-- The layout check of R560 (FAIL 2). -/
def layoutOk (h : Bytes) : Bool :=
  let len := fieldAt h 4 4
  decide (fieldAt h 0 4 = 0x46485701) && decide (512 ≤ len) && decide (len ≤ 33554432) && decide (fieldAt h 10 1 = 3) &&
  [1, 2, 3].all (fun t => ((List.range 3).filter fun c => compType h c == t).length == 1) &&
  (List.range 3).all (fun c => decide (compOff h c % 512 = 0) && decide (512 ≤ compOff h c) && decide (1 ≤ compLen h c) &&
    decide (compOff h c + compLen h c ≤ len)) &&
  (List.range 3).all fun c => (List.range 3).all fun d => c == d || decide (compOff h c + compLen h c ≤ compOff h d) ||
    decide (compOff h d + compLen h d ≤ compOff h c)

/-- The checks that a header alone decides (R560): 0, or FAIL 2–5. -/
def headerFail (s : State) (h : Bytes) : Nat :=
  let d := s.dies[(0 : Die)]
  let pub : BitVec 256 := BitVec.ofNat 256 (fieldAt h 304 32)
  if !layoutOk h then 2
  else if d.revoke.getLsbD (hdrKey h) ∨ Config.sha512 (slice h 304 32) ≠ Config.fwKeyHash (hdrKey h) then 3
  else if !Config.ed25519Verify pub (leBytes 64 (Config.sha512 (slice h 0 448)).toNat) (slice h 448 64) then 4
  else if (hdrSvn h).toNat < d.svn.toNat then 5
  else 0

/-- Whether component c hashes to its digest. -/
def compOk (img : Image) (h : Bytes) (c : Nat) : Bool :=
  decide ((Config.sha512 (img (compOff h c) (compLen h c))).toNat = compDigest h c)

/-- The checks of R560 in order: 0, or FAIL. `agree`: queen 1 reached the same result. -/
def imageFail (s : State) (img : Image) (agree : Bool) : Nat :=
  let h := img 0 512
  let f := headerFail s h
  if f ≠ 0 then f
  else if !(List.range 3).all (compOk img h) then 6
  else if !agree then 7
  else 0

/-- The measured digest of the component of a type (R448). -/
def measured (h : Bytes) (t : Nat) : BitVec 512 :=
  BitVec.ofNat 512 ((((List.range 3).find? fun c => compType h c == t).map (compDigest h)).getD 0)

/-! ### Stages (R562) -/

/-- A boot result in the log (R571). -/
def logBoot (fail : Nat) (s : State) : State :=
  s.modQueen fun q => { q with log := (LogEnt.boot s.boot.stage.toNat fail :: q.log).take 64 }

/-- Recovery mode with a FAIL code (R560). -/
def toRecovery (fail : Nat) (s : State) : State :=
  logBoot fail (s.modBoot fun b => { b with stage := 6, fail := BitVec.ofNat 4 fail, toRecovery := false })

/-- BOOT_START: from stage ROM the domains of R42 are on and the image is being read, or the ROM enters recovery mode on ENTER_RECOVERY (FAIL 8). -/
def execBootStart (s : State) : Out :=
  done (if !(s.power.pwrgd ∧ s.boot.stage = 0 ∧ s.evt.modState ≠ 2) then s else
    let s := s.modBoot fun b => { b with boots := b.boots + 1 }
    let s := s.modPower fun w => { w with
      frefOk := !w.frefLost, prefOk := !w.prefLost
      fixed := { queens := 3, pcie := true, debug := true, noc := 3, bridge := 3 } }
    if s.boot.toRecovery then toRecovery 8 s else s.modBoot fun b => { b with stage := 1 })

/-- Every key and context is destroyed unless a warm reset re-attests the same cdi1 (R451). -/
def reattest (old new : BitVec 512) (s : State) : State :=
  if s.boot.kind = .warm ∧ old ≠ new then forEach (liveParts s) (fun p s => dropContext p s) (zeroiseAll s) else s

/-- Die 0 takes the crown at boot: epoch 1, or the surviving epoch incremented after a warm reset (R440, R562). -/
def firstCrown (s : State) : State :=
  let e : Word := if s.boot.kind = .warm then s.queen.epoch + 1 else 1
  broadcast e 0 (s.modQueen fun q => { q with epoch := e, die := 0, q0 := 2, q1 := 1
                                              journal := q.journal.filter (·.touched), log := (.crown e 0 :: q.log).take 64 })

/-- One entry of a repair record re-applied (R184, R312, R329). -/
def applyRepair (w : Word) (s : State) : State :=
  let loc := w.toNat % 2 ^ 27
  let u : Fin 8 := Fin.ofNat 8 (loc % 8)
  let t := bits w.toNat 30 29
  if !w.getLsbD 31 then s
  else if t = 1 then s.modComb u fun c =>
    let n := loc / 8 % 32
    if 20 < n ∨ c.subst.toNat = n then c else
    let c := { c with cellRegs := { c.cellRegs with failed := c.cellRegs.failed ||| (1#21 <<< n) } }
    if n < 20 ∧ c.subst = 31 ∧ !c.cellRegs.failed.getLsbD 20 then { c with subst := BitVec.ofNat 5 n }
    else if n = 20 ∧ c.subst = 31 then c
    else { c with cellRegs := { c.cellRegs with degraded := true } }
  else if t = 2 then s.modSuper u fun x => { x with dieMark := true, die := BitVec.ofNat 4 (loc / 8 % 16) }
  else if t = 3 then s.modSuper u fun x =>
    let row := 512 * (loc / 4096) + 16 * (loc / 8 % 32) + loc / 256 % 16
    let n := tabGet 0 x.spares (row % 512)
    if tabGet 0 x.remap row ≠ 0 ∨ 16 ≤ n then x
    else { x with spares := tabSet 0 x.spares (row % 512) (n + 1), remap := tabSet 0 x.remap row (n + 1) }
  else s

/-- The repair records of both dies re-applied at a power-on or cold boot. -/
def applyRepairs (s : State) : State :=
  if s.boot.kind = .warm then s else
  forEach (fins 2) (fun d s => forEach s.dies[d].repair applyRepair s) s

/-- The lines of the queen region of super k that were written. -/
def regionLines (u : SuperState) (k : Super) : List Nat :=
  (u.ctr.filter fun e => inQueenRegion k (512 * e.1)).flatMap fun e => (List.range 4).map fun i => 4 * e.1 + i

/-- The 144 bytes of a line with its ECC space. -/
def lineWord (s : State) (k : Super) (l : Nat) : BitVec 1152 := BitVec.ofNat 1152 (le (storedLine s k l ++ eccSpace s k l))

/-- Key ID 0 of super k loaded again under the queen-region key of new firmware (R448): what the region holds stays in DRAM as it
was written, under the old key. -/
def rekeyRegion (k : Super) (s : State) : State :=
  let t := drawn (s.modSuper k fun u => { u with slots := upd u.slots 0 fun _ => loadedSlot k 0 (qregKey s.boot.cdi1) (drawNow 256 s) })
  t.modSuper k fun u => { u with dramErr := (regionLines u k).foldl (fun e l =>
    tabSet 0 e l (tabGet 0 e l ^^^ lineWord s k l ^^^ lineWord t k l)) u.dramErr }

/-- The queens bring up the module: the repair record is applied (R562), the domains come on, key ID 0 follows a new cdi1 (R448),
and the bridge links are keyed (R364). -/
def bringUp (rekey : Bool) (s : State) : State :=
  let s := doIf rekey (forEach ((fins 8).filter fun k => s.supers[k].powered) rekeyRegion) s
  forEach (fins 6) keyBridge (powerAll (applyRepairs s))

/-- From stage FIRMWARE on with a checked image: cdi1 derived, die 0 takes the crown, self-test begins. -/
def startFirmware (img : Image) (s : State) : State :=
  let h := img 0 512
  let old := s.boot.cdi1
  let new := cdi1Of (measured h 1) (measured h 2) (measured h 3) (hdrSvn h)
  let s := s.modBoot fun b => { b with
    stage := 4, imgSvn := hdrSvn h, commit := hdrCommit h, buildId := w64 (fieldAt h 16 8), dQueen := measured h 1
    dSeq := measured h 2, dHild := measured h 3, cdi1 := new, toRecovery := false, busy := false, staging := 0 }
  bringUp (decide (old ≠ new)) (firstCrown (reattest old new (logBoot 0 s)))

/-- IMAGE_LOADED: both queens check the image. -/
def effImageLoaded (flashOk agree : Bool) (s : State) : State :=
  if s.boot.stage ≠ 1 then s
  else if !flashOk then toRecovery 1 s
  else
    let s := s.modBoot fun b => { b with imgSvn := hdrSvn (flashRead s 0 512) }
    let f := imageFail s (flashRead s) agree
    if f = 0 then startFirmware (flashRead s) s else toRecovery f s

/-- IMAGE_LOADED. -/
def execImageLoaded (flashOk queen1Agrees : Bool) (s : State) : Out := done (effImageLoaded flashOk queen1Agrees s)

/-- The SVN fuses of both dies advanced to the running image's SVN (R563). -/
def fuseSvn (s : State) : State :=
  forEach (fins 2) (fun d s => s.modDie d fun x => { x with svn := if x.svn.toNat < s.boot.imgSvn.toNat then s.boot.imgSvn else x.svn }) s

/-- Super k after self-test: its link keyed, its tree formatted or its pinned nodes verified, and it is ACTIVE (R349, R350, R364,
R562); owners under a pinned node that fails are stopped (R501). -/
def readySuper (k : Super) (s : State) : State :=
  if !s.supers[k].powered then s else
  let ns := failedPins s.supers[k] k
  let s := (wakeController k s).modSuper k fun u => { u with tree := if u.tree = 0 then 1 else u.tree }
  forEach ns (fun n s => stopUnder k n 0 s) (resumeSuper k s)

/-- The rows that fail the march test of a power-on, a free value (log entry 119), are repaired (R328, R329, R562). -/
def marchRepair (s : State) : State :=
  doIf (s.boot.kind == .powerOn) (fun s =>
    drawn (forEach (Config.marchRows s.draws) (fun e s => effRepaired e.1 (needRepair e.1 e.2.toNat s)) s)) s

/-- BOOT_READY: queen regions open, registers served, the SVN fused where COMMIT_SVN says so, the reset complete. -/
def effBootReady (s : State) : State :=
  if s.boot.stage ≠ 4 then s else
  let s := forEach (fins 8) readySuper (marchRepair s)
  let s := powerAll (s.modBoot fun b => { b with stage := 5 })
  let s := forEach (fins 2) (fun d s => s.modDie d fun x => { x with region := !s.supers[regionSuper d].dieMark }) s
  let s := doIf s.boot.commit fuseSvn s
  let s := s.modEvt fun e => { e with modState := 0 }
  let s := platEvent 2 21 5 (platEvent 2 20 0 s)
  match s.boot.kind with
  | .powerOn => s
  | .cold => unitResetDone domCold 0 s
  | .warm => unitResetDone domWarm 0 s

/-- BOOT_READY. -/
def execBootReady (s : State) : Out := done (effBootReady s)

/-! ### QN_BOOT_CMD (R563, R564, R573) -/

/-- ERR of QN_BOOT_CMD. -/
def bootErr (e : BitVec 4) (s : State) : State := s.modBoot fun b => { b with err := e }

/-- OP 1: a module warm reset into recovery mode. -/
def effEnterRecovery (s : State) : State :=
  if s.boot.busy then bootErr 2 s
  else if s.boot.stage ≠ 5 then bootErr 1 s
  else moduleReset false (s.modBoot fun b => { b with toRecovery := true })

/-- OP 2: the running image's SVN is fused. -/
def effCommitSvn (s : State) : State :=
  if s.boot.busy then bootErr 2 s
  else if s.boot.stage ≠ 5 then bootErr 1 s
  else if s.boot.imgSvn.toNat ≤ (s.dies[(0 : Die)].svn).toNat then bootErr 4 s
  else bootErr 0 (fuseSvn s)

/-- The staged image is checked; one that passes is written to the flash (R564). -/
def takeStaged (holder len : Nat) (s : State) : State :=
  let s := s.modBoot fun b => { b with imgSvn := hdrSvn (stageRead s 0 512) }
  let f := imageFail s (stageRead s) true
  if f ≠ 0 then s.modBoot fun b => { b with err := if holder = 1 then 3 else b.err, fail := BitVec.ofNat 4 f, staging := 0 }
  else (flashProg 0 (stageRead s 0 len) (flashErase s)).modBoot fun b =>
    { b with busy := decide (holder = 1), staging := holder, stageLen := len, err := if holder = 1 then 0 else b.err }

/-- OP 3, in recovery mode only. -/
def effRcvGo (len : Nat) (s : State) : State :=
  if s.boot.stage ≠ 6 then bootErr 1 s
  else if s.boot.busy ∨ s.boot.staging ≠ 0 then bootErr 2 s
  else if len < 512 ∨ 33554432 < len then bootErr 5 s
  else takeStaged 1 len s

/-- Whether a command of QN_BOOT_CMD comes from PF0 with the register served: in every stage (R573). -/
def bootCmdOpen (f : Fn) (s : State) : Bool := f.val == 0 && s.power.pwrgd

/-- ENTER_RECOVERY. -/
def execEnterRecovery (f : Fn) (s : State) : Out := done (doIf (bootCmdOpen f s) effEnterRecovery s)
/-- COMMIT_SVN. -/
def execCommitSvn (f : Fn) (s : State) : Out := done (doIf (bootCmdOpen f s) effCommitSvn s)
/-- RCV_GO. -/
def execRcvGo (f : Fn) (len : BitVec 26) (s : State) : Out := done (doIf (bootCmdOpen f s) (effRcvGo len.toNat) s)

/-- RECOVERY_FLASH_DONE: the image read back is checked again, and the boot continues from stage FIRMWARE; a read-back that
fails leaves recovery mode with a FAIL that the rules do not name. -/
def effFlashDone (ok : Bool) (s : State) : State :=
  if s.boot.stage ≠ 6 ∨ s.boot.staging = 0 ∨ s.boot.stageLen = 0 then s
  else if ok then startFirmware (flashRead s) (s.modBoot fun b => { b with stageLen := 0 })
  else
    let f : BitVec 4 := drawNow 4 s
    (drawn s).modBoot fun b => { b with busy := false, err := if b.staging = 1 then 3 else b.err, fail := f, staging := 0, stageLen := 0 }

/-- RECOVERY_FLASH_DONE. -/
def execRecoveryFlashDone (readBackOk : Bool) (s : State) : Out := done (effFlashDone readBackOk s)

end Sys2Proof.Machine
end

