-- ==== Sys2Proof/Machine/HildLane.lean ====
section
/-! DEFINITION. Hild programs: the instruction format and its checks (R283, R289), the lane instructions on one element
(R284–R287, R294, R300, R301), and the commands that run one instruction on the lane a unit holds. -/

namespace Sys2Proof.Machine

/-! ### Source selectors (R284) and registers -/

/-- Whether a selector is one of the table's values. -/
def selOk (sel : Nat) : Bool := decide (sel ≤ 0x24) || sel == 0x28 || sel == 0x29

/-- The value a selector names. -/
def LaneState.src (L : LaneState) (sel : BitVec 6) : Word :=
  let i := sel.toNat
  if i < 16 then L.regs[Fin.ofNat 16 i]
  else if i < 32 then L.scalars[Fin.ofNat 16 (i - 16)]
  else if i = 0x21 then fOne
  else if i = 0x22 then 0xBF800000
  else if i = 0x23 then 0x3F000000
  else if i = 0x24 then 0x40000000
  else if i = 0x28 then L.stepT
  else if i = 0x29 then L.catchup
  else 0

/-- A register written. -/
def LaneState.put (L : LaneState) (d : HReg) (v : Word) : LaneState := { L with regs := upd L.regs d fun _ => v }

/-- An instruction with sources executes unless the program has ended or a selector is reserved: a program with a reserved
selector never starts (R289). -/
def LaneState.runs (L : LaneState) (sels : List (BitVec 6)) : Bool := !L.ended && sels.all fun x => selOk x.toNat

/-- One, two and three sources. -/
def lane1 (f : Word → Word) (d : HReg) (a : BitVec 6) (L : LaneState) : LaneState :=
  if L.runs [a] then L.put d (f (L.src a)) else L
def lane2 (f : Word → Word → Word) (d : HReg) (a b : BitVec 6) (L : LaneState) : LaneState :=
  if L.runs [a, b] then L.put d (f (L.src a) (L.src b)) else L
def lane3 (f : Word → Word → Word → Word) (d : HReg) (a b c : BitVec 6) (L : LaneState) : LaneState :=
  if L.runs [a, b, c] then L.put d (f (L.src a) (L.src b) (L.src c)) else L

/-! ### The operations that are not shared with the vector engine (R285) -/

/-- SIGN. -/
def fSignum (a : Word) : Word :=
  if fIsNaN a then fNaN else if fIsZero a then a else if fSign a then 0xBF800000 else fOne

/-- RND: converted to a format, then widened (R285). -/
def fRnd (fmt mode r : Nat) (a : Word) : Word := widen fmt (convertTo fmt mode r a)

/-- END. -/
def laneEnd (L : LaneState) : LaneState := { L with ended := true }

/-- LD: the element as it stood before the run; a poisoned line voids the block (R286, R298). No program names slot 7 (R289). -/
def laneLd (d : HReg) (slot : BitVec 3) (L : LaneState) : LaneState :=
  if L.ended ∨ slot = 7 then L
  else { L.put d L.streams[Fin.ofNat 8 slot.toNat] with voided := L.voided || L.badSlots.getLsbD slot.toNat }

/-- The mode an ST uses: a BF16 master always converts by SR (R287). -/
def stMode (L : LaneState) (slot : BitVec 3) (mode : BitVec 2) : Nat :=
  if slot = 0 ∧ L.fmts[Fin.ofNat 8 slot.toNat] = 2 then 1 else mode.toNat

/-- ST: converted in one step to the slot's format; r is the 16-bit draw (R285, R287, R304). -/
def laneSt (r : Nat) (a : BitVec 6) (slot : BitVec 3) (mode : BitVec 2) (L : LaneState) : LaneState :=
  let fmt := (L.fmts[Fin.ofNat 8 slot.toNat]).toNat
  if L.runs [a] && slot != 7 && roundOk (stMode L slot mode) fmt then
    let v := convertTo fmt (stMode L slot mode) r (L.src a)
    { L with outs := L.outs ++ [(slot.toNat, w32 v)], nonfin := L.nonfin + b2n (meetsSpecial fmt (L.src a) v) }
  else L

/-- NOISE: A + B × z of two 32-bit draws; a private group's B must be q15, which reads σ_g (R300, R301). -/
def laneNoise (d1 d2 : Word) (d : HReg) (a b : BitVec 6) (L : LaneState) : LaneState :=
  if L.isPriv && b != 0x1F then L else lane2 (fun x y => fFma y (aGauss d1 d2) x) d a b L

/-- RND. -/
def laneRnd (r : Nat) (d : HReg) (a : BitVec 6) (mode : BitVec 2) (fmt : BitVec 3) (L : LaneState) : LaneState :=
  if fmt.toNat ≤ 4 ∧ roundOk mode.toNat fmt.toNat then lane1 (fRnd fmt.toNat mode.toNat r) d a L else L

/-- CMP: conditions above 4 are reserved (R283). -/
def laneCmp (d : HReg) (a b : BitVec 6) (cond : BitVec 3) (L : LaneState) : LaneState :=
  if cond.toNat ≤ 4 then lane2 (fun x y => fMask (fCond cond.toNat x y)) d a b L else L

/-! ### Instructions as 64-bit words (R283) -/

/-- The fields of an instruction. -/
structure HInstr where
  op    : Nat
  d     : HReg
  a     : BitVec 6
  b     : BitVec 6
  c     : BitVec 6
  slot  : BitVec 3
  round : BitVec 2
  fmt   : BitVec 3
  rsv0  : Nat
  rsv1  : Nat
  rsv2  : Nat
  deriving DecidableEq, Repr

/-- The fields read from a word. -/
def decodeHild (w : Nat) : HInstr :=
  { op := bits w 5 0, rsv0 := bits w 7 6, d := Fin.ofNat 16 (bits w 11 8), a := BitVec.ofNat 6 (bits w 17 12)
    b := BitVec.ofNat 6 (bits w 23 18), c := BitVec.ofNat 6 (bits w 29 24), rsv1 := bits w 31 30
    slot := BitVec.ofNat 3 (bits w 34 32), round := BitVec.ofNat 2 (bits w 36 35), fmt := BitVec.ofNat 3 (bits w 39 37)
    rsv2 := bits w 63 40 }

/-- The fields an operation uses, in order D, A, B, C, SLOT, ROUND, FMT; `none`: a reserved OP (R285). -/
def hildUses (op : Nat) : Option (List Bool) :=
  let three := [true, true, true, true, false, false, false]
  let two := [true, true, true, false, false, false, false]
  let one := [true, true, false, false, false, false, false]
  if op = 0x00 then some [false, false, false, false, false, false, false]
  else if op = 0x01 then some [true, false, false, false, true, false, false]
  else if op = 0x02 then some [false, true, false, false, true, true, false]
  else if op = 0x13 ∨ op = 0x1C ∨ op = 0x1D then some three
  else if op = 0x15 ∨ op = 0x16 ∨ op = 0x19 ∨ op = 0x1A ∨ op = 0x1E then some one
  else if op = 0x1B then some [true, true, true, false, false, false, true]
  else if op = 0x20 then some [true, true, false, false, false, true, true]
  else if 0x10 ≤ op ∧ op ≤ 0x1F then some two
  else none

/-- The instructions of a program: up to its first END or its 32nd (R283). -/
def programOf (bs : Bytes) : List HInstr :=
  let all := (List.range 32).map fun i => decodeHild (fieldAt bs (8 * i) 8)
  let body := all.takeWhile fun i => decide (i.op ≠ 0)
  if body.length < 32 then body ++ (all.drop body.length).take 1 else body

/-- The slots named by the LDs or the STs of a program. -/
def slotsOf (op : Nat) (p : List HInstr) : List Nat := (p.filter fun i => decide (i.op = op)).map fun i => i.slot.toNat

/-- The byte of the first bad field of one instruction as group `fmts` (format of each enabled slot) and `isPriv` use it;
`before` are the instructions ahead of it (R289, R300). -/
def instrBad (fmts : List (Option Nat)) (isPriv : Bool) (before : List HInstr) (i : HInstr) : Option Nat :=
  match hildUses i.op with
  | none => some 0
  | some u =>
    let use := fun n => u.getD n false
    let selBad := fun n (x : BitVec 6) => if use n then !selOk x.toNat else x != 0
    let slotFmt := fmts.getD i.slot.toNat none
    let dup := (slotsOf i.op before).contains i.slot.toNat
    if i.rsv0 ≠ 0 then some 0
    else if !use 0 && i.d.val != 0 then some 1
    else if selBad 1 i.a then some 1
    else if selBad 2 i.b || (isPriv && i.op == 0x1F && i.b != 0x1F) then some 2
    else if selBad 3 i.c || i.rsv1 != 0 then some 3
    else if (if use 4 then i.slot == 7 || slotFmt.isNone || dup else i.slot != 0) then some 4
    else if (if i.op = 0x02 then !(i.slot == 0 && slotFmt == some 2) && !roundOk i.round.toNat (slotFmt.getD 4)
             else if i.op = 0x20 then !roundOk i.round.toNat i.fmt.toNat
             else i.round != 0) then some 4
    else if (if use 6 then decide (4 < i.fmt.toNat) else i.fmt != 0) then some 4
    else if i.rsv2 ≠ 0 then some 5
    else none

/-- The bad fields of a program, by byte offset from its first byte. -/
def instrsBad (fmts : List (Option Nat)) (isPriv : Bool) : Nat → List HInstr → List HInstr → List Nat
  | _, _, [] => []
  | n, before, i :: r =>
    ((instrBad fmts isPriv before i).map fun b => 8 * n + b).toList ++ instrsBad fmts isPriv (n + 1) (before ++ [i]) r

/-- Where a program fails its checks: the lowest byte offset, the first byte when W lacks its LD or ST (R289). -/
def programBad (fmts : List (Option Nat)) (isPriv : Bool) (p : List HInstr) : Option Nat :=
  if !(slotsOf 1 p).contains 0 || !(slotsOf 2 p).contains 0 then some 0 else (instrsBad fmts isPriv 0 [] p).head?

/-- Whether a program contains a NOISE. -/
def hasNoise (p : List HInstr) : Bool := p.any fun i => decide (i.op = 0x1F)

/-- Whether an ST or an RND executes and draws: SR to a format other than FP32 (R201, R287). -/
def stDraws (L : LaneState) (a : BitVec 6) (slot : BitVec 3) (mode : BitVec 2) : Bool :=
  L.runs [a] && slot != 7 && stMode L slot mode == 1 && L.fmts[Fin.ofNat 8 slot.toNat] != 4
def rndDraws (L : LaneState) (a : BitVec 6) (mode : BitVec 2) (fmt : BitVec 3) : Bool := L.runs [a] && mode == 1 && decide (fmt.toNat < 4)

/-- A lane before its program has ended. -/
def LaneState.fresh (L : LaneState) : LaneState := { L with ended := false }

/-- How many rounding draws and noise draws an instruction takes (R287, R301). -/
def instrDraws (L : LaneState) (i : HInstr) : Nat :=
  b2n ((i.op == 0x02 && stDraws L i.a i.slot i.round) || (i.op == 0x20 && rndDraws L i.a i.round i.fmt))
def instrNoise (i : HInstr) : Nat := if i.op = 0x1F then 2 else 0

/-- One instruction on the lane: r16 its rounding draw, d1 and d2 its noise draws. -/
def laneOp (r16 : Nat) (d1 d2 : Word) (i : HInstr) (L : LaneState) : LaneState :=
  if i.op = 0x00 then laneEnd L
  else if i.op = 0x01 then laneLd i.d i.slot L
  else if i.op = 0x02 then laneSt r16 i.a i.slot i.round L
  else if i.op = 0x10 then lane2 fAdd i.d i.a i.b L
  else if i.op = 0x11 then lane2 fSub i.d i.a i.b L
  else if i.op = 0x12 then lane2 fMul i.d i.a i.b L
  else if i.op = 0x13 then lane3 fFma i.d i.a i.b i.c L
  else if i.op = 0x14 then lane2 fDiv i.d i.a i.b L
  else if i.op = 0x15 then lane1 fSqrt i.d i.a L
  else if i.op = 0x16 then lane1 aRsqrt i.d i.a L
  else if i.op = 0x17 then lane2 fMax i.d i.a i.b L
  else if i.op = 0x18 then lane2 fMin i.d i.a i.b L
  else if i.op = 0x19 then lane1 fAbs i.d i.a L
  else if i.op = 0x1A then lane1 fSignum i.d i.a L
  else if i.op = 0x1B then laneCmp i.d i.a i.b i.fmt L
  else if i.op = 0x1C then lane3 fSel i.d i.a i.b i.c L
  else if i.op = 0x1D then lane3 (fun x y z => fMin (fMax x y) z) i.d i.a i.b i.c L
  else if i.op = 0x1E then lane1 aExp i.d i.a L
  else if i.op = 0x1F then laneNoise d1 d2 i.d i.a i.b L
  else if i.op = 0x20 then laneRnd r16 i.d i.a i.round i.fmt L
  else L

/-- A program on one element, its lane's next rounding draws rd and noise draws nz numbered from i and j on (R287). -/
def laneRun (rd : Nat → Nat) (nz : Nat → Word) : Nat → Nat → List HInstr → LaneState → LaneState
  | _, _, [], L => L
  | i, j, x :: r, L => laneRun rd nz (i + instrDraws L x) (j + instrNoise x) r (laneOp (rd i) (nz j) (nz (j + 1)) x L)

/-! ### The commands: one instruction on the lane of super k -/

/-- The unit with its lane changed. -/
def State.modLane (s : State) (k : Super) (f : LaneState → LaneState) : State := s.modHild k fun h => { h with lane := f h.lane }

/-- The rounding and noise draws of a lane of the unit of super k (R201, R301). -/
def roundDraw (s : State) (k : Super) (l i : Nat) : Nat := (s.supers[k]).hild.rounding.draw16 (roundingUnit k) l i
def noiseDraw (s : State) (k : Super) (l i : Nat) : Word := (s.supers[k]).hild.noise.draw32 (noiseUnit k) l i

/-- END. -/
def execHldEnd (k : Super) (s : State) : Out := done (s.modLane k laneEnd)

/-- LD; the first poisoned line of a block sets and counts POISON (R298). -/
def execHldLd (k : Super) (d : HReg) (slot : BitVec 3) (s : State) : Out :=
  done (s.modHild k fun h =>
    let L := laneLd d slot h.lane
    { h with lane := L, poison := if L.voided && !h.lane.voided then hit 16 h.poison else h.poison })

/-- ST; a store that meets a NaN or an infinity sets and counts NONFINITE (R304). -/
def execHldSt (k : Super) (a : BitVec 6) (slot : BitVec 3) (round : BitVec 2) (s : State) : Out :=
  done (s.modHild k fun h =>
    let L := laneSt (roundDraw s k h.lane.lane 0) a slot round h.lane
    { h with lane := L, nonfinite := hitN 16 (L.nonfin - h.lane.nonfin) h.nonfinite
             rounding := h.rounding.take [(h.lane.lane, b2n (stDraws h.lane a slot round))] })

/-- ADD. -/
def execHldAdd (k : Super) (d : HReg) (a b : BitVec 6) (s : State) : Out := done (s.modLane k (lane2 fAdd d a b))
/-- SUB. -/
def execHldSub (k : Super) (d : HReg) (a b : BitVec 6) (s : State) : Out := done (s.modLane k (lane2 fSub d a b))
/-- MUL. -/
def execHldMul (k : Super) (d : HReg) (a b : BitVec 6) (s : State) : Out := done (s.modLane k (lane2 fMul d a b))
/-- FMA. -/
def execHldFma (k : Super) (d : HReg) (a b c : BitVec 6) (s : State) : Out := done (s.modLane k (lane3 fFma d a b c))
/-- DIV. -/
def execHldDiv (k : Super) (d : HReg) (a b : BitVec 6) (s : State) : Out := done (s.modLane k (lane2 fDiv d a b))
/-- SQRT. -/
def execHldSqrt (k : Super) (d : HReg) (a : BitVec 6) (s : State) : Out := done (s.modLane k (lane1 fSqrt d a))
/-- RSQRT. -/
def execHldRsqrt (k : Super) (d : HReg) (a : BitVec 6) (s : State) : Out := done (s.modLane k (lane1 aRsqrt d a))
/-- MAX. -/
def execHldMax (k : Super) (d : HReg) (a b : BitVec 6) (s : State) : Out := done (s.modLane k (lane2 fMax d a b))
/-- MIN. -/
def execHldMin (k : Super) (d : HReg) (a b : BitVec 6) (s : State) : Out := done (s.modLane k (lane2 fMin d a b))
/-- ABS. -/
def execHldAbs (k : Super) (d : HReg) (a : BitVec 6) (s : State) : Out := done (s.modLane k (lane1 fAbs d a))
/-- SIGN. -/
def execSign (k : Super) (d : HReg) (a : BitVec 6) (s : State) : Out := done (s.modLane k (lane1 fSignum d a))
/-- CMP. -/
def execHldCmp (k : Super) (d : HReg) (a b : BitVec 6) (cond : BitVec 3) (s : State) : Out :=
  done (s.modLane k (laneCmp d a b cond))
/-- SEL. -/
def execHldSel (k : Super) (d : HReg) (a b c : BitVec 6) (s : State) : Out := done (s.modLane k (lane3 fSel d a b c))
/-- CLAMP: MIN(MAX(A, B), C). -/
def execClamp (k : Super) (d : HReg) (a b c : BitVec 6) (s : State) : Out :=
  done (s.modLane k (lane3 (fun x y z => fMin (fMax x y) z) d a b c))
/-- EXP. -/
def execHldExp (k : Super) (d : HReg) (a : BitVec 6) (s : State) : Out := done (s.modLane k (lane1 aExp d a))
/-- NOISE. -/
def execNoise (k : Super) (d : HReg) (a b : BitVec 6) (s : State) : Out :=
  done (s.modHild k fun h =>
    let l := h.lane.lane
    { h with lane := laneNoise (noiseDraw s k l 0) (noiseDraw s k l 1) d a b h.lane
             noise := h.noise.take [(l, if h.lane.runs [a, b] && !(h.lane.isPriv && b != 0x1F) then 2 else 0)] })
/-- RND. -/
def execRnd (k : Super) (d : HReg) (a : BitVec 6) (round : BitVec 2) (fmt : BitVec 3) (s : State) : Out :=
  done (s.modHild k fun h =>
    { h with lane := laneRnd (roundDraw s k h.lane.lane 0) d a round fmt h.lane
             rounding := h.rounding.take [(h.lane.lane, b2n (rndDraws h.lane a round fmt))] })

end Sys2Proof.Machine
end

