-- ==== Sys2Proof/Machine/HildUnit.lean ====
section
/-! DEFINITION. Hild runs: their start with its checks and its reseed, the groups they compute, their writes, records and
ends (R271–R307). -/

namespace Sys2Proof.Machine

/-! ### Group table entries (R278, R279) -/

/-- A field of an entry: n bytes at an offset. -/
def entNat (e : Bytes) (off n : Nat) : Nat := fieldAt e off n

/-- Stream slot i of an entry: PPA, FMT, EN. -/
def entPpa (e : Bytes) (i : Nat) : Nat := bits (fieldAt e (64 + 8 * i) 8) 39 0
def entFmt (e : Bytes) (i : Nat) : Nat := bits (fieldAt e (64 + 8 * i) 8) 42 40
def entEn (e : Bytes) (i : Nat) : Bool := bits (fieldAt e (64 + 8 * i) 8) 43 43 == 1
/-- VALID, MODE (true: sparse-row), STATS_EN, PROG, T. -/
def entValid (e : Bytes) : Bool := bits (fieldAt e 0 1) 0 0 == 1
def entSparse (e : Bytes) : Bool := bits (fieldAt e 0 1) 1 1 == 1
def entStats (e : Bytes) : Bool := bits (fieldAt e 0 1) 2 2 == 1
def entProg (e : Bytes) : Nat := bits (fieldAt e 1 1) 5 0
def entT (e : Bytes) : Nat := fieldAt e 4 4
/-- Elements of the group: NELEM, or NTOUCH × ROWLEN (R290, R291). -/
def entElems (e : Bytes) : Nat := if entSparse e then fieldAt e 20 4 * fieldAt e 24 2 else bits (fieldAt e 8 8) 35 0
/-- The format of each enabled slot; RC has none. -/
def entFmts (e : Bytes) : List (Option Nat) := (List.range 8).map fun i => if entEn e i && i != 7 then some (entFmt e i) else none

/-- The formats a slot allows (R279). -/
def fmtAllowed (slot fmt : Nat) : Bool :=
  match slot with
  | 0 => fmt == 4 || fmt == 2
  | 1 => decide (fmt ≤ 4)
  | 6 => fmt == 0 || fmt == 2
  | 7 => true
  | _ => fmt == 2 || fmt == 3 || fmt == 4

/-- The offset of an RSV field of n bytes that is not 0. -/
def firstSet (e : Bytes) (off n : Nat) : List Nat := if allZero (slice e off n) then [] else [off]

/-- Bad fields of stream slot i (R279, R289): a misaligned PPA, the FMT, the RSV bits; RC is required for sparse rows. -/
def slotBad (e : Bytes) (i : Nat) : List Nat :=
  let o := 64 + 8 * i
  let used := entEn e i && (i != 7 || entSparse e)
  (if used ∧ entPpa e i % 64 ≠ 0 then [o] else []) ++
  (if (used ∧ !fmtAllowed i (entFmt e i)) ∨ (i = 7 ∧ entSparse e ∧ !entEn e 7) then [o + 5] else []) ++
  (if bits (fieldAt e o 8) 63 44 ≠ 0 then [o + 5] else [])

/-- The offset of an entry's first bad field within it (R278, R289, R293, R300). -/
def entryBad (e : Bytes) (isPriv : Bool) : Option Nat :=
  let sp := entSparse e
  let rows := fieldAt e 16 4
  ((if bits (fieldAt e 0 1) 7 3 ≠ 0 ∨ (isPriv ∧ sp) then [0] else []) ++
   (if bits (fieldAt e 1 1) 7 6 ≠ 0 then [1] else []) ++ firstSet e 2 2 ++
   (if entT e = 2 ^ 32 - 1 then [4] else []) ++
   (if (bits (fieldAt e 8 8) 35 0 = 0) ≠ sp then [8] else []) ++
   (if bits (fieldAt e 8 8) 63 36 ≠ 0 then [12] else []) ++
   (if (rows = 0) = sp then [16] else []) ++
   (if rows < fieldAt e 20 4 then [20] else []) ++
   (if sp ∧ fieldAt e 24 2 = 0 then [24] else []) ++ firstSet e 26 6 ++
   (if sp ∧ fieldAt e 32 8 % 4 ≠ 0 then [32] else []) ++ firstSet e 40 24 ++
   ((List.range 8).map (slotBad e)).flatten ++ firstSet e 192 64).head?

/-- Whether n bytes from PPA a lie in one comb-local region of super k (R289). -/
def localAt (s : State) (p : Part) (k : Super) (a n : Nat) : Bool :=
  match regionAt s p a with
  | none => false
  | some m => kindLocal m.kind && decide (m.pos = posOf p k) && decide (a + n ≤ m.p0 + m.len)

/-- The bytes a stream covers: all its elements, or for a table of rows every row (R279). -/
def streamLen (e : Bytes) (i : Nat) : Nat :=
  let sz := elemBytes (entFmt e i)
  if i = 7 then 4 * fieldAt e 16 4
  else if entSparse e ∧ i ≠ 1 then fieldAt e 16 4 * fieldAt e 24 2 * sz else entElems e * sz

/-- The first stream or index list that lies outside the comb-local regions of super k (R289). -/
def streamBad (s : State) (p : Part) (k : Super) (e : Bytes) : Option Nat :=
  let streams := ((List.range 8).filter fun i => entEn e i && (i != 7 || entSparse e)).map fun i => (entPpa e i, streamLen e i)
  let list := if entSparse e ∧ fieldAt e 20 4 ≠ 0 then [(fieldAt e 32 8, 4 * fieldAt e 20 4)] else []
  (((list ++ streams).filter fun x => !localAt s p k x.1 x.2).map (·.1)).head?

/-! ### The checks of a run (R289) -/

/-- The program an entry names, from the program table. -/
def progOf (progs e : Bytes) : List HInstr := programOf (slice progs (256 * entProg e) 256)

/-- The sealed clip norm and σ of a private group (R299). -/
def privOf (s : State) (k : Super) (g : Nat) : Option (Word × Word) :=
  (s.supers[k].hild.dp.find? fun x => decide (x.1 = g)).map (·.2)

/-- What the checks find in the entry of group g: a status with its DETAIL2. -/
def groupBad (s : State) (p : Part) (k : Super) (g : Nat) (e progs : Bytes) : Option (Byte × Nat) :=
  if !entValid e then none else
  let isPriv := (privOf s k g).isSome
  match entryBad e isPriv with
  | some o => some (stFormatError, 256 * g + o)
  | none =>
    match programBad (entFmts e) isPriv (progOf progs e) with
    | some o => some (stFormatError, 0x80000000 + 256 * entProg e + o)
    | none =>
      if isPriv ∧ !hasNoise (progOf progs e) then some (stFormatError, 256 * g + 1)
      else (streamBad s p k e).map fun a => (stAccessViolation, a)

/-- The entry of the group at position i of a run. -/
def CurRun.ent (c : CurRun) (i : Nat) : Bytes := slice c.ents (256 * i) 256

/-- The next position whose group is VALID. -/
def nextValid (c : CurRun) (i : Nat) : Nat :=
  (((List.range c.run.count).filter fun j => decide (i ≤ j) && entValid (c.ent j)).head?).getD c.run.count

/-- The index list of a sparse-row group (R278). -/
def rowList (bs : Bytes) (n : Nat) : List Nat := (List.range n).map fun i => fieldAt bs (4 * i) 4

/-- Whether a list is strictly ascending. -/
def ascending : List Nat → Bool
  | a :: b :: r => decide (a < b) && ascending (b :: r)
  | _ => true

/-! ### Elements (R279, R290–R292) -/

/-- One element of a group: its number, the row it lies in (dense: none), its position in that row. -/
structure Elem where
  n   : Nat
  row : Option Nat
  t   : Nat
  c   : Nat
  deriving DecidableEq, Repr

/-- The element numbered n of a group with a row list (R290, R291). -/
def elemOf (e : Bytes) (rows : List Nat) (n : Nat) : Elem :=
  if entSparse e then
    let w := max (fieldAt e 24 2) 1
    ⟨n, some (rows.getD (n / w) 0), n / w, n % w⟩
  else ⟨n, none, 0, n⟩

/-- The address of an element in stream slot i (R279). -/
def elemAddr (e : Bytes) (i : Nat) (x : Elem) : Nat :=
  let w := fieldAt e 24 2
  entPpa e i + (match x.row with
    | none => x.n
    | some r => if i = 1 then x.t * w + x.c else r * w + x.c) * elemBytes (entFmt e i)

/-- A row's step count and catch-up distance, with whether ROWCNT_ERR arises (R292). -/
def catchUp (t' rc : Nat) : Nat × Bool := if rc < t' then (t' - rc, false) else (1, true)

/-- What one element reads from a stream slot: the widened value and whether its line is poisoned; another failure ends
the run. -/
def elemRead (s : State) (p : Part) (e : Bytes) (i : Nat) (x : Elem) : Except MemErr (Word × Bool) :=
  match hildRead s p (elemAddr e i x) (elemBytes (entFmt e i)) with
  | (bs, none) => .ok (widen (entFmt e i) (le bs), false)
  | (_, some (.poison _)) => .ok (0, true)
  | (_, some m) => .error m

/-- The lane state an element starts from: the streams its program loads, its scalars, T′ and K (R280, R284, R286). -/
def elemStart (s : State) (p : Part) (k : Super) (g : Nat) (e : Bytes) (prog : List HInstr) (K : Nat) (x : Elem) :
    Except MemErr LaneState :=
  let priv := privOf s k g
  let q : Fin 16 → Word := fun j => match priv with
    | some (c, sd) => if j.val = 14 then c else if j.val = 15 then sd else w32 (fieldAt e (128 + 4 * j.val) 4)
    | none => w32 (fieldAt e (128 + 4 * j.val) 4)
  let init : LaneState :=
    { scalars := Vector.ofFn q, stepT := natToF (entT e + 1), catchup := natToF K, lane := x.n % 2048, isPriv := priv.isSome
      fmts := Vector.ofFn fun j : Fin 8 => BitVec.ofNat 3 (entFmt e j.val) }
  (slotsOf 1 prog).foldlM (init := init) fun L i =>
    (elemRead s p e i x).map fun r => { L with
      streams := upd L.streams (Fin.ofNat 8 i) fun _ => r.1
      badSlots := if r.2 then L.badSlots ||| (1#8 <<< i) else L.badSlots }

/-- One element's results. -/
structure ElemOut where
  x    : Elem
  fin  : LaneState
  deriving DecidableEq, Repr

/-- What an element stored to slot i. -/
def ElemOut.stored (o : ElemOut) (i : Nat) : Nat := ((o.fin.outs.find? fun v => decide (v.1 = i)).map (·.2.toNat)).getD 0

/-- The new stored master of an element, and its squared sums' inputs Δw and w (R303). -/
def masterOf (o : ElemOut) : Word × Word :=
  let w := widen (o.fin.fmts[(0 : Fin 8)]).toNat (o.stored 0)
  (fSub w o.fin.streams[(0 : Fin 8)], w)

/-- The draws of one element's program: of rounding, of noise (R287, R301). -/
def programDraws (L : LaneState) (prog : List HInstr) : Nat := (prog.map (instrDraws L)).sum
def programNoise (prog : List HInstr) : Nat := (prog.map instrNoise).sum

/-- Element n computed from its start: the draws of its lane follow ascending element (R287). -/
def runElem (s : State) (k : Super) (prog : List HInstr) (n : Nat) (L : LaneState) : LaneState :=
  laneRun (fun i => roundDraw s k (n % 2048) (n / 2048 * programDraws L prog + i))
    (fun j => noiseDraw s k (n % 2048) (n / 2048 * programNoise prog + j)) 0 0 prog L

/-- The elements from n on, computed. -/
def runElems (s : State) (p : Part) (k : Super) (g : Nat) (e : Bytes) (prog : List HInstr) (rows : List Nat)
    (ks : List Nat) : List Nat → Except MemErr (List ElemOut)
  | [] => .ok []
  | n :: r =>
    let x := elemOf e rows n
    match elemStart s p k g e prog (ks.getD x.t 1) x with
    | .error m => .error m
    | .ok L => (runElems s p k g e prog rows ks r).map fun t => ⟨x, runElem s k prog n L⟩ :: t

/-- Adjacent pieces joined into one write. -/
def joinWrites : List (Nat × Bytes) → List (Nat × Bytes)
  | (a, x) :: r =>
    match joinWrites r with
    | (b, y) :: t => if a + x.length = b then (a, x ++ y) :: t else (a, x) :: (b, y) :: t
    | [] => [(a, x)]
  | [] => []

/-- The results of a block: its writes slot by slot, RC last; none when an element's LD met poison (R292, R298). -/
def blockWrites (e : Bytes) (sts : List Nat) (b : List ElemOut) : List (Nat × Bytes) :=
  let w := max (fieldAt e 24 2) 1
  (sts.map fun i => joinWrites (b.map fun o =>
    (elemAddr e i o.x, leBytes (elemBytes (entFmt e i)) (o.stored i)))).flatten
  ++ (b.filterMap fun o => o.x.row.bind fun r => if o.x.c + 1 = w then some (entPpa e 7 + 4 * r, leBytes 4 (entT e + 1)) else none)

/-! ### Groups (R290–R298, R303) -/

/-- What a group's computation yields. -/
structure GroupOut where
  writes  : List StagedWrite
  nonfin  : Nat
  voids   : Nat
  poison  : Option Nat
  rowErr  : Nat
  dw2     : Word
  w2      : Word
  counted : Nat
  bytes   : Nat
  rounds  : Nat
  noises  : Nat
  elems   : Nat
  lane    : LaneState
  deriving DecidableEq, Repr

/-- The first poisoned line of some element: the PPA of its line (R298). -/
def firstPoison (e : Bytes) (prog : List HInstr) (os : List ElemOut) : Option Nat :=
  os.findSome? fun o => ((slotsOf 1 prog).find? fun i => o.fin.badSlots.getLsbD i).map fun i => elemAddr e i o.x / 128 * 128

/-- The blocks of a computed group put together. -/
def groupOut (e : Bytes) (prog : List HInstr) (rows : List Nat) (rowErr : Nat) (os : List ElemOut) : GroupOut :=
  let sts := slotsOf 2 prog
  let blocks := groupsOf 2048 (os.length / 2048 + 1) os
  let good := blocks.filter fun b => !b.any (·.fin.voided)
  let parts := fun (f : ElemOut → Word) =>
    treeOf fAdd 11 (good.foldl (fun ps b => laneStep (fun p x => fFma x x p) ps (b.map f)) (List.replicate 2048 0))
  let ws := (good.map (blockWrites e sts)).flatten
  { writes := ws.map fun w => ⟨w.1, w.2⟩
    nonfin := (os.map (·.fin.nonfin)).sum
    voids := blocks.length - good.length
    poison := firstPoison e prog os
    rowErr := rowErr
    dw2 := parts fun o => (masterOf o).1
    w2 := parts fun o => (masterOf o).2
    counted := (good.map List.length).sum
    bytes := os.length * ((slotsOf 1 prog).map fun i => elemBytes (entFmt e i)).sum + (ws.map (·.2.length)).sum
      + (if entSparse e then 12 * rows.length else 0)
    rounds := ((os.head?).map fun o => programDraws o.fin.fresh prog).getD 0
    noises := programNoise prog
    elems := os.length
    lane := (os.head?.map (·.fin)).getD {} }

/-- The ranges of one stream that the elements of a block take, adjacent ones joined. -/
def joinRuns : List (Nat × Nat) → List (Nat × Nat)
  | (a, n) :: r =>
    match joinRuns r with
    | (b, m) :: t => if a + n = b then (a, n + m) :: t else (a, n) :: (b, m) :: t
    | [] => [(a, n)]
  | [] => []

/-- What a group reads: its index list, its row step counts, then block by block the streams of its LDs (R290, R291). -/
def groupReads (e : Bytes) (prog : List HInstr) (rows : List Nat) : List (Nat × Nat) :=
  (if entSparse e ∧ fieldAt e 20 4 ≠ 0 then [(fieldAt e 32 8, 4 * fieldAt e 20 4), (fieldAt e 32 8, 4 * fieldAt e 20 4)] else []) ++
  joinRuns (if entSparse e then rows.map fun r => (entPpa e 7 + 4 * r, 4) else []) ++
  (groupsOf 2048 (entElems e / 2048 + 1) (List.range (entElems e))).flatMap fun b =>
    (slotsOf 1 prog).flatMap fun i => joinRuns (b.map fun n => (elemAddr e i (elemOf e rows n), elemBytes (entFmt e i)))

/-- What the reads of some ranges leave behind, up to the first whose failure ends the run; `s0` is the state they read. -/
def hildTouch (s0 : State) (p : Part) : List (Nat × Nat) → State → State
  | [], s => s
  | (a, n) :: r, s =>
    match (hildRead s0 p a n).2 with
    | none => hildTouch s0 p r (ppaTouch p 3 a n s)
    | some (.poison _) => hildTouch s0 p r (forEach (linesOf a n) (fun l s => touchLine p 3 l.1 s) s)
    | some _ => ppaTouch p 3 a n s

/-- Whether every super on the way serves some ranges now (R325, R328, R349). -/
def hildServes (s : State) (p : Part) (k : Super) (rs : List (Nat × Nat)) : Bool := rs.all fun r => ppaServes s k p r.1 r.2

/-- Why a group cannot be computed. -/
inductive GroupErr where
  | mem (e : MemErr)
  | bad (st : Byte) (d2 : Nat)
  deriving DecidableEq, Repr

/-- The index list of a group, read and checked (R289, R291): strictly ascending, below ROWS. -/
def readRowList (s : State) (p : Part) (g : Nat) (e : Bytes) : Except GroupErr (List Nat) :=
  if !entSparse e then .ok [] else
  match hildRead s p (fieldAt e 32 8) (4 * fieldAt e 20 4) with
  | (_, some m) => .error (.mem m)
  | (bs, none) =>
    let rows := rowList bs (fieldAt e 20 4)
    if !ascending rows then .error (.bad stFormatError (256 * g + 32))
    else match rows.find? fun r => decide (fieldAt e 16 4 ≤ r) with
      | some r => .error (.bad stAccessViolation r)
      | none => .ok rows

/-- The stored row step counts of the listed rows (R292). -/
def readCounts (s : State) (p : Part) (e : Bytes) : List Nat → Except MemErr (List Nat)
  | [] => .ok []
  | r :: rs =>
    match hildRead s p (entPpa e 7 + 4 * r) 4 with
    | (_, some m) => .error m
    | (bs, none) => (readCounts s p e rs).map fun t => le bs :: t

/-- The group at position i of the current run computed from memory as it stands. -/
def computeGroup (s : State) (p : Part) (k : Super) (c : CurRun) (i : Nat) : Except GroupErr GroupOut :=
  let e := c.ent i
  let g := c.run.first + i
  let prog := progOf c.progs e
  match readRowList s p g e with
  | .error x => .error x
  | .ok rows =>
    match readCounts s p e rows with
    | .error m => .error (.mem m)
    | .ok rcs =>
      let ks := rcs.map (catchUp (entT e + 1))
      match runElems s p k g e prog rows (ks.map (·.1)) (List.range (entElems e)) with
      | .error m => .error (.mem m)
      | .ok os => .ok (groupOut e prog rows (ks.filter (·.2)).length os)

/-- Bytes of staged results, and of the result buffer (R295). -/
def stagedBytes (ws : List StagedWrite) : Nat := (ws.map (·.data.length)).sum
def resultBuffer : Nat := 1048576

/-- What a computed group leaves in the unit: its events, its statistics, the bytes it moved, the draws it took. -/
def noteGroup (k : Super) (o : GroupOut) (s : State) : State :=
  s.modHild k fun h => { h with
    nonfinite := hitN 16 o.nonfin h.nonfinite, poison := hitN 16 o.voids h.poison, rowcnt := hitN 16 o.rowErr h.rowcnt
    lane := o.lane, rounding := h.rounding.take (drawsOf 2048 o.rounds o.elems), noise := h.noise.take (drawsOf 2048 o.noises o.elems)
    cur := h.cur.map fun c => { c with
      computed := true, dw2 := o.dw2, w2 := o.w2, counted := o.counted, bytes := c.bytes + o.bytes
      poison := c.poison.orElse fun _ => o.poison } }

/-- The first voided block of a descriptor's run is its failure from that moment on (R107, R298). -/
def notePoison (k : Super) (c : CurRun) (o : GroupOut) (s : State) : State :=
  match c.run.desc, c.poison, o.poison with
  | some d, none, some a => s.modDesc d.part d.ring d.idx fun e =>
      if e.stage = .done then e else { e with fails := e.fails ++ [(stPoison, 0, BitVec.ofNat 56 a, k)] }
  | _, _, _ => s

/-- The 32 bytes of a statistics record (R304). -/
def statsRec (k : Super) (c : CurRun) : Bytes :=
  leBytes 2 (c.run.first + c.next) ++ [BitVec.ofNat 8 k.val, 0] ++ leBytes 4 (entT (c.ent c.next) + 1)
    ++ leBytes 8 c.run.step.toNat ++ leBytes 4 c.dw2.toNat ++ leBytes 4 c.w2.toNat
    ++ leBytes 4 (min c.counted 0xFFFFFFFF) ++ [0, 0, 0, 0]

/-- What the end of a group writes: T := T′, then its statistics record. -/
def groupEndWrites (s : State) (p : Part) (k : Super) (c : CurRun) : List StagedWrite :=
  let e := c.ent c.next
  ⟨s.supers[k].hild.gtab.toNat + 256 * (c.run.first + c.next) + 4, leBytes 4 (entT e + 1)⟩ ::
    (if entStats e ∧ c.run.stats ≠ 0 then
      [⟨c.run.stats.toNat + 32 * (sizeOf s p * c.next + posOf p k), statsRec k c⟩] else [])

/-- The current group computed with its results: nothing where a super on the way does not answer now, an error, or the results
with the state that its reads leave. -/
inductive GroupStep where
  | waits
  | ends (s : State)
  | made (o : GroupOut) (s : State)
  deriving DecidableEq, Repr

/-- The current group of a run computed (R289–R292): reads, checks, results. -/
def stepGroup (k : Super) (p : Part) (c : CurRun) (s : State) : GroupStep :=
  let e := c.ent c.next
  let prog := progOf c.progs e
  let rows := match readRowList s p (c.run.first + c.next) e with
    | .ok rows => rows
    | .error _ => []
  let rs := groupReads e prog rows
  if !hildServes s p k rs then .waits else
  let t := hildTouch s p rs s
  if t.parts[p].stopped && !s.parts[p].stopped then .ends t else
  match computeGroup s p k c c.next with
  | .error (.mem m) => .ends (runMemFail k m t)
  | .error (.bad st d2) => .ends (endRun k st 0 (BitVec.ofNat 56 d2) t)
  | .ok o => .made o (notePoison k c o (noteGroup k o t))

/-- The number of the current group, as HLD_STATUS shows it. -/
def showGroup (k : Super) (c : CurRun) (s : State) : State :=
  s.modHild k fun h => { h with group := BitVec.ofNat 12 (c.run.first + c.next) }

/-- A staging run computes group after group and holds every result, T and statistics included, while they fit in the result
buffer; DESIGN CHOICE (log entry 45): a group whose results do not all fit is computed once the buffer has drained (R295). -/
def stageGroups : Nat → Super → State → State
  | 0, _, s => s
  | n + 1, k, s =>
    match s.supers[k].hild.cur, partOf s k with
    | some c, some p =>
      if s.supers[k].hild.state ≠ 1 ∨ c.run.count ≤ c.next then s
      else match stepGroup k p c (showGroup k c s) with
        | .waits => s
        | .ends t => t
        | .made o t =>
          let c1 := (t.supers[k].hild.cur).getD c
          let ws := c.staged ++ o.writes ++ groupEndWrites t p k c1
          if resultBuffer < stagedBytes ws then s
          else stageGroups n k (t.modHild k fun h => { h with cur := some { c1 with
            staged := ws, inBuffer := c.inBuffer + 1, next := nextValid c (c.next + 1), computed := false
            bytes := c1.bytes + stagedBytes (groupEndWrites t p k c1) } })
    | _, _ => s

/-- The current group of a run in WRITING computed and written, its buffer being empty (R295). -/
def writeGroup (k : Super) (s : State) : State :=
  match s.supers[k].hild.cur, partOf s k with
  | some c, some p =>
    if s.supers[k].hild.state ≠ 2 ∨ c.computed ∨ c.run.count ≤ c.next ∨ c.staged ≠ [] then s
    else match stepGroup k p c (showGroup k c s) with
      | .waits => s
      | .ends t => t
      | .made o t =>
        if !hildServes t p k (o.writes.map fun w => (w.ppa, w.data.length)) then s else
        match putAll p o.writes t with
        | (t, none) => t
        | (t, some m) => runMemFail k m t
  | _, _ => s

/-- The unit goes on with its run: a staging run computes, one in WRITING computes and writes its current group. -/
def runGroup (k : Super) (s : State) : State :=
  match s.supers[k].hild.cur with
  | none => s
  | some c => if s.supers[k].hild.state = 1 then stageGroups c.run.count k s else writeGroup k s

/-! ### HILD_RUN_START (R273, R277, R289, R302) -/

/-- Whether a run contains a private group (R302). -/
def runPrivate (s : State) (k : Super) (c : CurRun) : Bool :=
  (List.range c.run.count).any fun i => entValid (c.ent i) && (privOf s k (c.run.first + i)).isSome

/-- The reseed of the unit for a new step (R203): both kinds of generators from one seed (R202), or skipped (R206), and then
whether the run may go on (R302). -/
def hildReseed (k : Super) (c : CurRun) (s : State) : State × Bool :=
  if nextValid c 0 = c.run.count ∨ s.supers[k].hild.step = some c.run.step then (s, true)
  else if s.combs[k].rng.state = 1 then
    let seed := s.combs[k].rng.seed
    ((takeSeed k s).modHild k fun h =>
      { h with step := some c.run.step, rounding := { seed := some seed }, noise := { seed := some seed } }, true)
  else (skipReseed k s, !runPrivate s k c)

/-- What the checks of a run find, first failure first: the digest of a joint context, then entry by entry. -/
def runBad (s : State) (p : Part) (k : Super) (c : CurRun) : Option (Byte × Nat) :=
  let digest := ((s.parts[p].ctx.man.map (·.hildDigest)).getD 0)
  if digest ≠ 0 ∧ Config.sha512 c.progs ≠ digest then some (stFormatError, 0x80000000)
  else (List.range c.run.count).findSome? fun i => groupBad s p k (c.run.first + i) (c.ent i) c.progs

/-- A run whose private groups find no fresh seed: SEED_FAIL, INTERNAL, the partition stopped; a staging one is discarded
(R302). -/
def seedFails (k : Super) (s : State) : State :=
  let staged := s.supers[k].hild.state = 1
  endRun k stInternal (w32 (0x0D00 + k.val)) 0 (s.modHild k fun h => { h with
    seedFail := hit 16 h.seedFail, discard := if staged then hit 16 h.discard else h.discard
    discarded := if staged then (h.discarded ++ (h.cur.map (·.run.step)).toList).dedup else h.discarded })

/-- A checked run begins: the reseed, the commit record of an ungated run, its first group. -/
def beginRun (k : Super) (c : CurRun) (s : State) : State :=
  let (s, ok) := hildReseed k c s
  if !ok then seedFails k s
  else if c.run.gate.isSome then runGroup k s
  else runGroup k (putCommit k 1 c.run 0 s)

/-- The run at the head of the queue starts, unless a checkpoint holds it (R515). -/
def effRunStart (k : Super) (s : State) : State :=
  let h := s.supers[k].hild
  match h.queue, partOf s k with
  | r :: rest, some p =>
    if h.state ≠ 0 ∨ h.cur.isSome ∨ ckptHolds s k r then s
    else
      let reads := [(h.gtab.toNat + 256 * r.first, 256 * r.count), (h.ptab.toNat, 16384)]
      if !hildServes s p k reads ∨ !commitServes s k then s else
      let (ents, e1) := hildRead s p (h.gtab.toNat + 256 * r.first) (256 * r.count)
      let (progs, e2) := hildRead s p h.ptab.toNat 16384
      let c : CurRun := { run := r, ents := ents, progs := progs, next := 0, bytes := 256 * r.count + 16384 }
      let c := { c with next := nextValid c 0 }
      let old := s
      let s := s.modHild k fun h => { h with
        queue := rest, cur := some c, state := if r.gate.isSome then 1 else 2, group := BitVec.ofNat 12 r.first }
      let s := forEach reads (fun x s => ppaTouch p 3 x.1 x.2 s) s
      match goneIf old s p (e1.orElse fun _ => e2) with
      | some m => runMemFail k m s
      | none =>
        match runBad s p k c with
        | some (st, d2) => endRun k st 0 (BitVec.ofNat 56 d2) s
        | none => beginRun k c s
  | _, _ => s

/-- HILD_RUN_START. -/
def execHildRunStart (k : Super) (s : State) : Out := done (effRunStart k s)

/-! ### HILD_GROUP_DONE (R295, R303, R304) -/

/-- The writes of the current group are acknowledged: T and the statistics record follow, and the next group is computed. -/
def effGroupDone (k : Super) (s : State) : State :=
  let s := if s.supers[k].hild.state = 2 ∧ !(s.supers[k].hild.cur.any fun c => ckptHolds s k c.run) then writeGroup k (drainRun k s)
    else if s.supers[k].hild.state = 1 then openGate k (runGroup k s) else s
  match s.supers[k].hild.cur, partOf s k with
  | some c, some p =>
    if s.supers[k].hild.state ≠ 2 ∨ !c.computed ∨ c.run.count ≤ c.next ∨ ckptHolds s k c.run then s
    else
      let ws := groupEndWrites s p k c
      if !hildServes s p k (ws.map fun w => (w.ppa, w.data.length)) then s else
      match putAll p ws s with
      | (s, some m) => runMemFail k m s
      | (s, none) =>
        runGroup k (s.modHild k fun h => { h with cur := h.cur.map fun c => { c with
          done := c.done + 1, next := nextValid c (c.next + 1), computed := false, bytes := c.bytes + stagedBytes ws } })
  | _, _ => s

/-- HILD_GROUP_DONE. -/
def execHildGroupDone (k : Super) (s : State) : Out := done (effGroupDone k s)

/-! ### HILD_RUN_DONE (R274, R296, R298) -/

/-- Every write of the run is acknowledged: the commit record reads DONE and the run completes, with POISON if it voided a
block. -/
def effRunDone (k : Super) (s : State) : State :=
  match s.supers[k].hild.cur with
  | some c =>
    if s.supers[k].hild.state ≠ 2 ∨ c.next < c.run.count ∨ c.staged ≠ [] ∨ ckptHolds s k c.run ∨ !commitServes s k then s
    else
      let commits := if s.supers[k].hild.commit = 0 then 0 else 128
      let s := (putCommit k 2 c.run c.done s).modHild k fun h => { h with cur := h.cur.map fun c => { c with bytes := c.bytes + commits } }
      endRun k stOK 0 0 s
  | none => s

/-- HILD_RUN_DONE. -/
def execHildRunDone (k : Super) (s : State) : Out := done (effRunDone k s)

end Sys2Proof.Machine
end

