-- ==== Sys2Proof/Machine/Mgmt.lean ====
section
/-! DEFINITION. Management over I3C, MCTP and PLDM, and the Dweut monitor (R566–R572). -/

namespace Sys2Proof.Machine

/-! ### I3C (R566) -/

/-- ENTDAA: a target without a dynamic address takes one. -/
def execEntdaa (addr : BitVec 7) (s : State) : Out :=
  done (if s.power.pwrgd ∧ s.mgmt.i3cDyn.isNone then s.modMgmt fun m => { m with i3cDyn := some addr } else s)

/-- SETDASA: the static address 0x3A is exchanged for a dynamic one. -/
def execSetdasa (addr : BitVec 7) (s : State) : Out :=
  done (if s.power.pwrgd ∧ s.mgmt.i3cDyn.isNone then s.modMgmt fun m => { m with i3cDyn := some addr } else s)

/-- RSTDAA. -/
def execRstdaa (s : State) : Out := done (s.modMgmt fun m => { m with i3cDyn := none })

/-- A directed common command code answers at the dynamic address. -/
def i3cAnswer (data : Bytes) (s : State) : State := if s.mgmt.i3cDyn.isSome then emit (.i3c data) s else s

/-- GETPID: six bytes, byte 0 first as of every quantity that the module sends (R3; log entry 109). -/
def execGetpid (s : State) : Out := done (i3cAnswer (leBytes 6 Config.i3cPid.toNat) s)

/-- GETBCR: no controller role, HDR, Hot-Join or In-Band Interrupt. -/
def execGetbcr (s : State) : Out := done (i3cAnswer [Config.i3cBcr &&& 0x19] s)

/-- GETDCR. -/
def execGetdcr (s : State) : Out := done (i3cAnswer [Config.i3cDcr] s)

/-- GETMXDS. -/
def execGetmxds (s : State) : Out := done (i3cAnswer (leBytes 2 Config.i3cMxds.toNat) s)

/-! ### MCTP and PLDM (R567–R569) -/

/-- Whether the management endpoint answers: from stage ROM on (R567). -/
def mctpServes (s : State) : Bool := s.power.pwrgd

/-- SET_ENDPOINT_ID: MCTP control, always served; the null and broadcast endpoint IDs are no addresses. -/
def execSetEndpointId (eid : Byte) (s : State) : Out :=
  done (if !mctpServes s then s
        else if eid = 0 ∨ eid = 0xFF then emit (.pldm false []) s
        else emit (.pldm true [eid]) (s.modMgmt fun m => { m with eid := eid }))

/-- Whether PLDM type 2 is served: from READY, and by a held module (R505, R567). -/
def monitorServes (s : State) : Bool := mctpServes s && regsServed s

/-- A PLDM answer, or an error. -/
def pldmAnswer (d : Option Bytes) (s : State) : State :=
  match d with
  | some b => emit (.pldm true b) s
  | none => emit (.pldm false []) s

/-- GET_SENSOR_READING: the reading of a numeric sensor, 32 bits, two's complement. -/
def execGetSensorReading (id : BitVec 16) (s : State) : Out :=
  done (if monitorServes s then
    pldmAnswer ((sensorValue s id.toNat).map fun v => leBytes 4 (BitVec.ofInt 32 v).toNat) s else s)

/-- The reading of a state sensor. -/
def stateReading (s : State) (id : Nat) : Option Nat :=
  if id = 20 then some s.evt.modState.toNat
  else if id = 21 then some (if s.evt.modState = 2 then 7 else s.boot.stage.toNat)
  else if id = 22 then some s.queen.die.val
  else if 30 ≤ id ∧ id ≤ 37 then some (s.parts[Fin.ofNat 8 (id - 30)].sum).toNat
  else none

/-- GET_STATE_SENSOR_READINGS. -/
def execGetStateSensorReadings (id : BitVec 16) (s : State) : Out :=
  done (if monitorServes s then pldmAnswer ((stateReading s id.toNat).map (leBytes 8)) s else s)

/-- SET_NUMERIC_EFFECTER_VALUE: effecter 100 is PWR_LIMIT, validated as R546; a refused write answers
ERROR_INVALID_DATA. -/
def effEffecter (id watts : Nat) (s : State) : State :=
  if !monitorServes s then s
  else if id ≠ 100 then emit (.pldm false []) s
  else
    let s := setLimit watts s
    emit (.pldm (decide (s.power.limErr = 0)) []) s

/-- SET_NUMERIC_EFFECTER_VALUE. -/
def execSetNumericEffecterValue (id : BitVec 16) (watts : Word) (s : State) : Out := done (effEffecter id.toNat watts.toNat s)

/-- A platform event as the BMC reads it, with the count of lost events. -/
def eventBytes (e : PlatEvent) (lost : Nat) : Bytes := [e.kind, e.cause] ++ leBytes 7 e.detail.toNat ++ leBytes 4 lost

/-- POLL_FOR_PLATFORM_EVENT_MESSAGE. -/
def execPollForPlatformEventMessage (s : State) : Out :=
  done (if !monitorServes s then s else
    match s.mgmt.events with
    | [] => emit (.pldm true []) s
    | e :: r => emit (.pldm true (eventBytes e s.mgmt.evLost)) (s.modMgmt fun m => { m with events := r, evLost := 0 }))

/-! ### Firmware update (R564, R569) -/

/-- Whether updates are served: READY or recovery mode. -/
def updateServes (s : State) : Bool := mctpServes s && (s.boot.stage == 5 || s.boot.stage == 6)

/-- A request of PLDM type 5: answered from stage ROM on, with an error while the module boots (R567; log entry 113). -/
def update (f : State → State) (s : State) : State :=
  if updateServes s then f s else if mctpServes s then emit (.pldm false []) s else s

/-- Image bytes of an update, to the flash or to the staging buffer. -/
def updatePut (a : Nat) (data : Bytes) (s : State) : State :=
  if s.boot.stage = 6 then stageWrite a data s else flashProg a data s

/-- Image bytes of an update, read back. -/
def updateGet (s : State) : Image := if s.boot.stage = 6 then stageRead s else flashRead s

/-- PLDM_UPDATE_COMPONENT: the header is checked, then the flash is erased; one update at a time. -/
def effPldmUpdate (h : Bytes) (s : State) : State :=
  if s.mgmt.updMode ∨ s.boot.busy ∨ s.boot.staging ≠ 0 then emit (.pldm false []) s
  else if h.length ≠ 512 ∨ headerFail s h ≠ 0 then
    emit (.pldm false []) (if s.boot.stage = 6 ∧ h.length = 512 then
      s.modBoot fun b => { b with fail := BitVec.ofNat 4 (headerFail s h) } else s)
  else
    let s := if s.boot.stage = 6 then s.modBoot fun b => { b with staging := 2, stageLen := 0 } else flashErase s
    let s := s.modMgmt fun m => { m with updMode := true, updErased := true, updOk := true, updHdr := h, updGot := 512, verified := false }
    emit (.pldm true []) (updatePut 0 h s)

/-- PLDM_UPDATE_COMPONENT. -/
def execPldmUpdateComponent (header : Bytes) (s : State) : Out := done (update (effPldmUpdate header) s)

/-- PLDM_TRANSFER_DATA: the next block of the image, at most 4,096 bytes; a component whose last byte arrives is checked. -/
def effPldmTransfer (off : Nat) (data : Bytes) (s : State) : State :=
  let m := s.mgmt
  let upto := off + data.length
  if !m.updMode ∨ data = [] ∨ 4096 < data.length ∨ off ≠ m.updGot ∨ fieldAt m.updHdr 4 4 < upto then emit (.pldm false []) s
  else
    let s := updatePut off data s
    let ended := (List.range 3).filter fun c =>
      decide (off < compOff m.updHdr c + compLen m.updHdr c) && decide (compOff m.updHdr c + compLen m.updHdr c ≤ upto)
    let good := ended.all (compOk (updateGet s) m.updHdr)
    emit (.pldm true []) (s.modMgmt fun m => { m with updGot := upto, updOk := m.updOk && good })

/-- PLDM_TRANSFER_DATA. -/
def execPldmTransferData (offset : Nat) (data : Bytes) (s : State) : Out := done (update (effPldmTransfer offset data) s)

/-- VERIFY_COMPLETE: the result; in recovery mode an image that passes R560 is written to the flash. -/
def effVerify (s : State) : State :=
  if !s.mgmt.updMode then emit (.pldm false []) s
  else
    let ok := s.mgmt.updOk && decide (fieldAt s.mgmt.updHdr 4 4 ≤ s.mgmt.updGot)
    let s := s.modMgmt fun m => { m with verified := ok }
    let s := if s.boot.stage = 6 ∧ ok ∧ s.boot.stageLen = 0 then takeStaged 2 s.mgmt.updGot s else s
    emit (.pldm ok []) s

/-- VERIFY_COMPLETE. -/
def execVerifyComplete (s : State) : Out := done (update effVerify s)

/-- ACTIVATE_FIRMWARE: 6 s reported, then a module warm reset; in recovery mode the boot goes on when the flash is written. -/
def effActivate (s : State) : State :=
  if !(s.mgmt.updMode && s.mgmt.verified) then emit (.pldm false []) s
  else
    let s := emit (.pldm true (leBytes 2 6)) s
    if s.boot.stage = 6 then s.modMgmt fun m => { m with updMode := false } else moduleReset false s

/-- ACTIVATE_FIRMWARE. -/
def execActivateFirmware (s : State) : Out := done (update effActivate s)

/-- CANCEL_UPDATE: update mode ends and the staging buffer is released; after the erase the flash holds no image that passes R560
(R569; log entry 105). -/
def effCancelUpdate (s : State) : State :=
  if !s.mgmt.updMode then emit (.pldm false []) s
  else
    let s := if s.boot.stage = 5 ∧ s.mgmt.updErased ∧ imageFail s (flashRead s) true = 0 then flashErase s else s
    let s := s.modMgmt fun m => { m with updMode := false, updErased := false, updOk := false, updHdr := [], updGot := 0, verified := false }
    emit (.pldm true []) (s.modBoot fun b => if b.staging = 2 ∧ b.stageLen = 0 then { b with staging := 0 } else b)

/-- CANCEL_UPDATE. -/
def execCancelUpdate (s : State) : Out := done (update effCancelUpdate s)

/-! ### The Dweut monitor (R570–R572) -/

/-- Whether a debug scope bit is open: the development state, or a field-debug unlock with the bit set (R479, R571). -/
def scopeOpen (s : State) (bit : Nat) : Bool :=
  decide (Config.fusedDebugState = 0) || (s.queen.dbgActive && s.queen.scope.getLsbD bit)

/-- Whether the stage is READY for the monitor. -/
def readyStage (s : State) : Bool := s.boot.stage == 5 && decide (s.evt.modState ≠ 2)

/-- A command's final line: `OK` with its words, or `ERR n`. -/
def sayOk (ws : List DWord) (s : State) : State := emit (.uart ws 0) s
def sayErr (n : Nat) (s : State) : State := emit (.uart [] n) s

/-- Bytes as 64-bit words. -/
def wordsOf : Nat → Bytes → List DWord
  | 0, _ => []
  | k + 1, b => w64 (le (b.take 8)) :: wordsOf k (b.drop 8)

/-- HELP: a bit for each command of R571, in its order, that is allowed now. -/
def allowedMask (s : State) : Nat :=
  let r := readyStage s
  7 + 8 * b2n r + 16 * b2n r + 32 * b2n r + 64 * b2n (r && scopeOpen s 0) + 128 * b2n (r && scopeOpen s 0)
    + 256 * b2n (r && scopeOpen s 1)

/-- A monitor command runs while the module is powered. -/
def monitor (f : State → State) (s : State) : Out := done (doIf s.power.pwrgd f s)

/-- HELP. -/
def execHelp (s : State) : Out := monitor (sayOk [w64 (allowedMask s)]) s

/-- VER: BUILD_ID, image and fused SVN, the first 8 bytes of each measured digest. -/
def execVer (s : State) : Out :=
  monitor (sayOk [s.boot.buildId, s.boot.imgSvn.setWidth 64, (s.dies[(0 : Die)].svn).setWidth 64, Config.bootRomDigest.setWidth 64,
    s.boot.dQueen.setWidth 64, s.boot.dSeq.setWidth 64, s.boot.dHild.setWidth 64]) s

/-- STAT: QN_BOOT_STATUS, QN_CROWN, EVT_STATUS, PWR_STATUS. -/
def execStat (s : State) : Out :=
  monitor (sayOk [w64 (bootVal s .qnBootStatus), w64 (queenVal s .qnCrown), w64 (evtVal s .evtStatus), w64 (pwrVal s .pwrStatus)]) s

/-- SUM k: EVT_SUM[k] and the header of the queen's copy of the last hive record. -/
def execSum (k : Part) (s : State) : Out :=
  monitor (if readyStage s then sayOk (s.parts[k].sum :: wordsOf 32 (s.parts[k].hiveCopy.take 256)) else sayErr 2) s

/-- SENS: every sensor of R568. -/
def execSens (s : State) : Out :=
  monitor (if readyStage s then
    sayOk (sensorIds.map (fun i => BitVec.ofInt 64 ((sensorValue s i).getD 0)) ++
      ([20, 21, 22] ++ (List.range 8).map (30 + ·)).map (fun i => w64 ((stateReading s i).getD 0))) else sayErr 2) s

/-- A log entry as a word. -/
def logWord : LogEnt → DWord
  | .refused _ => 1
  | .crown e d => w64 (2 + 256 * d.val + 2 ^ 32 * e.toNat)
  | .boot st f => w64 (3 + 256 * st + 65536 * f)

/-- LOG n: the last n, at most 64, entries. -/
def execLog (n : Nat) (s : State) : Out :=
  monitor (if !readyStage s then sayErr 2 else if 64 < n then sayErr 4 else sayOk ((s.queen.log.take n).map logWord)) s

/-- RESET d u: as EVT_RESET_CMD; no final line after a module reset. -/
def monReset (d u : BitVec 3) (s : State) : State :=
  if !(readyStage s ∧ scopeOpen s 0) then sayErr 2 s
  else if d = 0 then sayOk [] s
  else if s.evt.resetBusy then sayErr 5 s
  else
    let t := resetCmd d.toNat (Fin.ofNat 8 u.toNat) 0 s
    if 6 ≤ d.toNat then t
    else if t.evt.resetErr = 0 then sayOk [] t
    else if t.evt.resetErr = 3 then sayErr 5 t else sayErr 4 t

/-- RESET. -/
def execReset (d u : BitVec 3) (s : State) : Out := monitor (monReset d u) s

/-- PEEK a n: stored bytes of a device address; tenant ranges are refused and counted (R362), the metadata reservation is out of
reach (R316; log entry 108). -/
def monPeek (a n : Nat) (s : State) : State :=
  if !(readyStage s ∧ scopeOpen s 0) then sayErr 2 s
  else if n = 0 ∨ 256 < n ∨ 2 ^ 39 < a + n ∨ (List.range n).any (fun i => decide (metaBase ≤ winOff (a + i))) then sayErr 4 s
  else if (List.range n).any fun i => winTenant s (a + i) then sayErr 3 (dbgBlock (winSuper a) s)
  else sayOk (wordsOf ((n + 7) / 8) ((List.range n).flatMap fun i => storedBytes s (winSuper (a + i)) (winOff (a + i)) 1)) s

/-- PEEK. -/
def execPeek (addr : BitVec 40) (n : Nat) (s : State) : Out := monitor (monPeek addr.toNat n) s

/-- TRACE on or off, under the trace scope. -/
def monTrace (on : Bool) (s : State) : State :=
  if !(readyStage s ∧ scopeOpen s 1) then sayErr 2 s else sayOk [] (s.modMgmt fun m => { m with trace := on })

/-- TRACE_ON. -/
def execTraceOn (s : State) : Out := monitor (monTrace true) s
/-- TRACE_OFF. -/
def execTraceOff (s : State) : Out := monitor (monTrace false) s

end Sys2Proof.Machine
end

