-- ==== Sys2Proof/Machine/Regs.lean ====
section
/-! DEFINITION. Host accesses to registers: reads with their latch and their record of W1C bits, clears, and writes (R5–R8,
R84, R144, R266, R307, R318, R411, R420, R421, R431). -/

namespace Sys2Proof.Machine

/-! ### The W1C bits of a register (R7) -/

/-- The W1C bits of a comb's registers changed by g, which takes the bit's position. -/
def combStickies (g : Nat → Sticky → Sticky) (r : Reg) (c : CombState) : CombState :=
  match r with
  | .rngStatus _ => { c with rng := { c.rng with rct := g 8 c.rng.rct, apt := g 9 c.rng.apt, skip := g 10 c.rng.skip } }
  | .humStatus _ => { c with hum := { c.hum with lockLost := g 16 c.hum.lockLost, slip := g 17 c.hum.slip
                                                 overrun := g 18 c.hum.overrun, slackLow := g 19 c.hum.slackLow } }
  | .seqStatus _ => { c with seq := { c.seq with squash := g 16 c.seq.squash, retainFull := g 17 c.seq.retainFull
                                                 progFault := g 18 c.seq.progFault } }
  | .cellStatus _ => { c with cellRegs := { c.cellRegs with ce := g 24 c.cellRegs.ce, ue := g 25 c.cellRegs.ue
                                                            swap := g 26 c.cellRegs.swap } }
  | .vecStatus _ => { c with vecSat := g 0 c.vecSat, vecCollide := g 1 c.vecCollide }
  | .rowStatus _ => { c with rowEmpty := g 0 c.rowEmpty, rowIgnored := g 1 c.rowIgnored, rowClipWr := g 2 c.rowClipWr }
  | .wagStatus _ => { c with router := { c.router with
      alarmTx := g 0 c.router.alarmTx, alarmRx := g 1 c.router.alarmRx, authFail := g 2 c.router.authFail
      flitLost := g 3 c.router.flitLost, dispOvf := g 4 c.router.dispOvf, linkDown := g 5 c.router.linkDown
      seqExh := g 6 c.router.seqExh, misroute := g 16 c.router.misroute, cwUncorr := g 17 c.router.cwUncorr
      laneWarn := g 18 c.router.laneWarn, spareSwap := g 19 c.router.spareSwap } }
  | _ => c

/-- The W1C bits of a super's registers. -/
def superStickies (g : Nat → Sticky → Sticky) (r : Reg) (u : SuperState) : SuperState :=
  match r with
  | .supStatus _ => { u with ce := g 8 u.ce, ue := g 9 u.ue, ppr := g 10 u.ppr, pprExh := g 11 u.pprExh, retry := g 12 u.retry }
  | .prpStatus _ => { u with tagFail := g 8 u.tagFail, nodeFail := g 9 u.nodeFail, ctrExh := g 10 u.ctrExh
                             ctrWarn := g 11 u.ctrWarn, keyRefused := g 12 u.keyRefused, lateDrop := g 13 u.lateDrop
                             mergeRetry := g 14 u.mergeRetry, dbgBlock := g 15 u.dbgBlock, linkAuth := g 16 u.linkAuth }
  | .hldStatus _ => { u with hild := { u.hild with
      nonfinite := g 32 u.hild.nonfinite, discard := g 33 u.hild.discard, rowcnt := g 34 u.hild.rowcnt
      poison := g 35 u.hild.poison, seedFail := g 36 u.hild.seedFail } }
  | _ => u

/-- The W1C bits of a partition's registers. -/
def partStickies (g : Nat → Sticky → Sticky) (r : Reg) (q : PartState) : PartState :=
  match r with
  | .sqStatus i => { q with rings := upd q.rings i fun x =>
      { x with staleDb := g 34 x.staleDb, fault := g 35 x.fault, cqFull := g 36 x.cqFull } }
  | .eqStatus => { q with evq := { q.evq with lost := g 32 q.evq.lost, stale := g 33 q.evq.stale } }
  | .hiveStatus => { q with hiveWr := g 0 q.hiveWr, hiveDrop := g 1 q.hiveDrop }
  | .ckptStatus => { q with absorbed := g 2 q.absorbed, orphaned := g 3 q.orphaned }
  | _ => q

/-- The W1C bits of the module's registers. -/
def moduleStickies (g : Nat → Sticky → Sticky) (r : Reg) (s : State) : State :=
  match r with
  | .eqStatus => s.modMod fun m => { m with evq := { m.evq with lost := g 32 m.evq.lost, stale := g 33 m.evq.stale } }
  | .winStatus => s.modMod fun m => { m with winDenied := g 0 m.winDenied }
  | .prpBridge d => s.modDie d fun e => { e with groupAuth := Vector.ofFn fun i : Fin 4 => g i.val e.groupAuth[i]
                                                 hostAuth := g 4 e.hostAuth, mgmtAuth := g 5 e.mgmtAuth }
  | .qnStatus => s.modQueen fun q => { q with staleWr := g 0 q.staleWr, crownChg := g 1 q.crownChg, manRej := g 2 q.manRej
                                              envRej := g 3 q.envRej, sbMac := g 4 q.sbMac, dbgUnlock := g 5 q.dbgUnlock }
  | .qnRepair => s.modQueen fun q => { q with repFull := g 22 q.repFull }
  | .evtStatus => s.modEvt fun e => { e with recovery := g 8 e.recovery, escalate := g 9 e.escalate, drainTo := g 10 e.drainTo
                                             wdog := g 11 e.wdog, ewTrip := g 12 e.ewTrip, lateFlit := g 13 e.lateFlit }
  | .pwrStatus => s.modPower fun w => { w with uv := g 16 w.uv, therm := g 17 w.therm, overpwr := g 18 w.overpwr }
  | .clkStatus => s.modPower fun w => { w with frefLoss := g 0 w.frefLoss, prefLoss := g 1 w.prefLoss
                                               pllUnlock := g 2 w.pllUnlock }
  | _ => s

/-- Every W1C bit of a register, as function f reaches it, changed by g. -/
def mapStickies (f : Fn) (r : Reg) (g : Nat → Sticky → Sticky) (s : State) : State :=
  match r with
  | .rngStatus k | .humStatus k | .seqStatus k | .cellStatus k | .vecStatus k | .rowStatus k | .wagStatus k =>
    s.modComb k (combStickies g r)
  | .supStatus k | .prpStatus k | .hldStatus k => s.modSuper k (superStickies g r)
  | .sqStatus _ | .hiveStatus | .ckptStatus => (partOfFn f).elim s fun p => s.modPart p (partStickies g r)
  | .eqStatus => (partOfFn f).elim (moduleStickies g r s) fun p => s.modPart p (partStickies g r)
  | .fnStatus => s.modFn f fun x => { x with timeout := g 0 x.timeout, cplBad := g 1 x.cplBad, badMmio := g 2 x.badMmio
                                             ideFail := g 3 x.ideFail, noIde := g 4 x.noIde }
  | _ => moduleStickies g r s

/-- Whether a W1C bit of a register is shown to function f: a VF sees bits [15:0] of WAG_STATUS (R411). -/
def bitShown (f : Fn) (r : Reg) (b : Nat) : Bool :=
  match r with
  | .wagStatus _ => f.val == 0 || decide (b < 16)
  | _ => true

/-! ### Whether an access is taken (R421, R431, R433) -/

/-- Whether an access reaches the registers; configuration space always answers. -/
def accessTaken (s : State) (f : Fn) (r : Reg) : Bool :=
  if regConfig r then s.mod.linkUp && fnPresent s f else mmioOpen s f && decide (s.fns[f].tdi ≠ 3)

/-- An access that is not taken: an interface in ERROR refuses it and counts BAD_MMIO. -/
def refuseAccess (f : Fn) (isRead : Bool) (s : State) : State :=
  let s := if mmioOpen s f then badMmio f s else s
  if isRead then emit (.mmioRefused f true) s else s

/-! ### Reads (R7, R8) -/

/-- The record of what a read returned: g says whether it returned bit b, and with what value. -/
def seenBit (f : Fn) (returned : Option Bool) (t : Sticky) : Sticky :=
  match returned with
  | none => t
  | some v => { t with seen := if v && t.on then t.seen ||| (1#9 <<< f.val) else t.seen &&& ~~~ (1#9 <<< f.val) }

/-- A latched upper half. -/
def latchOf (s : State) (f : Fn) (r : Reg) : Option Word := (s.fns[f].latch.find? fun e => decide (e.1 = r)).map (·.2)

/-- The latch without an entry, or with a new one. -/
def dropLatch (f : Fn) (r : Reg) (s : State) : State :=
  s.modFn f fun x => { x with latch := x.latch.filter fun e => decide (e.1 ≠ r) }
def setLatch (f : Fn) (r : Reg) (w : Word) (s : State) : State :=
  (dropLatch f r s).modFn f fun x => { x with latch := (r, w) :: x.latch }

/-- A read of a register (R8): of a 64-bit register the lower half latches the upper, and the next read of the upper half
returns what was latched. A W1C bit of the upper half counts as seen from the moment of the read that returns it; DESIGN CHOICE
(log entry 93): the spec does not say whether the moment of the latch counts instead. -/
def effRegRead (f : Fn) (r : Reg) (acc : Acc) (s : State) : State :=
  if !accessTaken s f r then refuseAccess f true s else
  let v := regVal s f r
  if !reaches s f r then emit (.mmioData f r 0) s
  else if !regWide r ∨ acc = .whole then
    emit (.mmioData f r (w64 v)) (mapStickies f r (fun b t => if bitShown f r b then observe f t else t) s)
  else match acc with
  | .high4 =>
    match latchOf s f r with
    | some w => emit (.mmioData f r (w.setWidth 64)) (dropLatch f r (mapStickies f r (fun b t =>
        seenBit f (if b < 32 then none else some (w.getLsbD (b - 32))) t) s))
    | none => emit (.mmioData f r (w64 (v / 2 ^ 32))) (mapStickies f r (fun b t => if b < 32 then t else observe f t) s)
  | _ => emit (.mmioData f r (w64 (v % 2 ^ 32)))
      (setLatch f r (w32 (v / 2 ^ 32)) (mapStickies f r (fun b t => if b < 32 then observe f t else t) s))

/-- LOW_HALF_READ: a register read. -/
def execLowHalfRead (f : Fn) (reg : Reg) (acc : Acc) (s : State) : Out := done (effRegRead f reg acc s)

/-- Whether a write has the register's width: a 4-byte write to half of a 64-bit register is ignored (R8). -/
def writeFits (r : Reg) (acc : Acc) : Bool := !regWide r || decide (acc = .whole)

/-- A write of ones to W1C bits (R7). -/
def effClear (f : Fn) (r : Reg) (bits : DWord) (s : State) : State :=
  mapStickies f r (fun b t => if bits.getLsbD b ∧ bitShown f r b then clearBy f t else t) s

/-- W1C_WRITE. -/
def execW1cWrite (f : Fn) (reg : Reg) (acc : Acc) (bits : DWord) (s : State) : Out :=
  done (if !accessTaken s f reg then refuseAccess f false s
        else if reaches s f reg ∧ writeFits reg acc then effClear f reg bits s else s)

/-! ### Writes (R5, R6) -/

/-- Base registers of a ring, held while it is enabled (R84). -/
def writeRingReg (r : Reg) (v : DWord) (g : RingState) : RingState :=
  if g.enable then g else
  match r with
  | .sqBase _ => { g with sqBase := v &&& 0xFFFFFFFFFFFFF000 }
  | .cqBase _ => { g with cqBase := v &&& 0xFFFFFFFFFFFFF000 }
  | .dbAddr _ => { g with dbAddr := v &&& 0xFFFFFFFFFFFFFFF8 }
  | .headAddr _ => { g with headAddr := v &&& 0xFFFFFFFFFFFFFFF8 }
  | .sqEpoch _ => { g with epoch := v.setWidth 32 }
  | _ => g

/-- Base registers of an event ring. -/
def writeEvReg (r : Reg) (v : DWord) (e : EvRing) : EvRing :=
  if e.enable then e else
  match r with
  | .eqBase => { e with base := v &&& 0xFFFFFFFFFFFFF000 }
  | .eqHeadAddr => { e with headAddr := v &&& 0xFFFFFFFFFFFFFFF8 }
  | .eqEpoch => { e with epoch := v.setWidth 32 }
  | _ => e

/-- The fields of SUP_RGN (R318). -/
def regionFields (v : DWord) : Region := ⟨v.extractLsb' 0 3, v.extractLsb' 3 3, v.extractLsb' 8 6, v.extractLsb' 16 10⟩

/-- The other registers of a VF's own blocks. -/
def writePartReg (r : Reg) (v : DWord) (q : PartState) : PartState :=
  match r with
  | .hiveAddr => { q with hiveAddr := v &&& 0xFFFFFFFFFFFFF000 }
  | .supRgn i => if q.locked then q else { q with rgn := upd q.rgn i fun _ => regionFields v }
  | .ckptList => if q.ckptState = 0 then { q with ckptList := v &&& 0xFFFFFFFFFFFFFFC0 } else q
  | .ckptCfg => if q.ckptState = 0 then
      { q with auto := v.getLsbD 0, autoSalv := v.getLsbD 1, ckptCount := v.extractLsb' 2 14 } else q
  | _ => q

/-- Bases of the Hild unit, held while it runs or holds runs (R307). -/
def writeHildReg (r : Reg) (v : DWord) (h : Hild) : Hild :=
  if h.state ≠ 0 ∨ h.queue ≠ [] then h else
  match r with
  | .hldGtab _ => { h with gtab := v &&& 0xFFFFFFFFFFFFF000 }
  | .hldPtab _ => { h with ptab := v &&& 0xFFFFFFFFFFFFF000 }
  | .hldCommit _ => { h with commit := v &&& 0xFFFFFFFFFFFFFFC0 }
  | _ => h

/-- ROW_CLIP of comb k written by function f (R266). -/
def effRowClip (f : Fn) (k : Comb) (v : DWord) (s : State) : State :=
  match partOfFn f with
  | none => s
  | some p =>
    if !inPart s p k then s
    else if s.combs[k].clipSealed then s.modComb k fun c => { c with rowClipWr := hit 16 c.rowClipWr }
    else s.modComb k fun c => { c with clip := v.setWidth 32 }

/-- ROW_CLIP_WRITE. -/
def execRowClipWrite (f : Fn) (k : Comb) (value : DWord) (s : State) : Out :=
  done (doIf (regsServed s) (effRowClip f k value) s)

/-- PF0's operator and module registers. -/
def writePf0 (r : Reg) (v : DWord) (s : State) : State :=
  match r with
  | .supScrub k => s.modSuper k fun u => { u with scrub := v.setWidth 8 }
  | .humCfg => effHumCfg 0 (v.setWidth 32) s
  | .humEpoch => s.modMod fun m => { m with humEpoch := v }
  | .wagCoord => effCoord 0 v s
  | .wagPortmap => effPortmap 0 (v.setWidth 32) s
  | .wagLeaseCmt k => if v.getLsbD 4 then effLeaseRelease k (v.setWidth 4) s else effLeaseCommit k (v.setWidth 4) s
  | .wagJob k j => effJobWrite 0 k j v s
  | .wagLease k rx p slot => effLeaseWrite 0 k rx p slot (v.setWidth 16) s
  | .winBase => s.modMod fun m => { m with winBase := v.extractLsb' 30 10 }
  | .qnPartCmd =>
    let p : Part := Fin.ofNat 8 (bits v.toNat 4 2)
    let op := bits v.toNat 1 0
    if op = 1 then effCreate p (v.extractLsb' 5 2) s else if op = 2 then effRemove p s else if op = 3 then effEndContext p s else s
  | .evtResetCmd => resetCmd (bits v.toNat 2 0) (Fin.ofNat 8 (bits v.toNat 5 3)) (bits v.toNat 8 6) s
  | .evtDrain => s.modEvt fun e => { e with drain := v.setWidth 16 }
  | .evtWdog => s.modEvt fun e => { e with wdogLim := v.setWidth 16 }
  | .evtEwCfg => s.modEvt fun e => { e with ceThr := v.setWidth 16, slackThr := v.extractLsb' 16 8, repairThr := v.extractLsb' 24 8
                                            margin := v.extractLsb' 32 8, trig := v.extractLsb' 40 7 }
  | .pwrLimit => setLimit (v.toNat % 2048) s
  | .qnBootCmd =>
    let op := bits v.toNat 1 0
    if op = 1 then effEnterRecovery s else if op = 2 then effCommitSvn s
    else if op = 3 then effRcvGo (bits v.toNat 57 32) s else s
  | _ => s

/-- Command, power-management and device-control registers of configuration space (R415, R423, R425, R433). -/
def writeConfig (f : Fn) (r : Reg) (v : DWord) (s : State) : State :=
  match r with
  | .pciCommand =>
    let x := s.fns[f]
    let s := enableChange f (decide (x.memSpace ≠ v.getLsbD 1) || decide (x.busMaster ≠ v.getLsbD 2)) s
    drainHost (s.modFn f fun x => { x with memSpace := v.getLsbD 1, busMaster := v.getLsbD 2 })
  | .pciPm => drainHost (s.modFn f fun x => { x with d3 := decide (v.extractLsb' 0 2 = (3 : BitVec 2)) })
  | .pciDevctl => s.modFn f fun x => { x with relaxed := v.getLsbD 4, mps := v.extractLsb' 5 3, mrrs := v.extractLsb' 12 3 }
  | .pciSriov =>
    if f.val ≠ 0 then s
    else if s.mod.vfEnable ∧ !v.getLsbD 0 then dropVfs s
    else s.modMod fun m => { m with vfEnable := v.getLsbD 0
                                    numVfs := if m.vfEnable then m.numVfs else (v.extractLsb' 16 16 : BitVec 16).toNat }
  | _ => s

/-- The registers that the functions of a partition write, beside PF0's own. -/
def writeShared (f : Fn) (r : Reg) (v : DWord) (s : State) : State :=
  match r with
  | .seqCfg k => if s.combs[k].seq.state = 0 then
      s.modSeq k fun q => { q with runahead := v.setWidth 7 } else s
  | .humSlack k => if f.val = 0 then s else s.modHum k fun h => { h with warn := v.extractLsb' 21 6 }
  | .rowClip k => effRowClip f k v s
  | .hldGtab k | .hldPtab k | .hldCommit k => if f.val = 0 then s else s.modHild k (writeHildReg r v)
  | .eqBase | .eqHeadAddr | .eqEpoch =>
    (partOfFn f).elim (s.modMod fun m => { m with evq := writeEvReg r v m.evq }) fun p =>
      s.modPart p fun q => { q with evq := writeEvReg r v q.evq }
  | .eqCfg => writeEqCfg f (v.setWidth 32) s
  | _ => if f.val = 0 then writePf0 r v s else s

/-- A write that function f reaches. -/
def effWriteReg (f : Fn) (r : Reg) (v : DWord) (s : State) : State :=
  match r, partOfFn f with
  | .sqBase i, some p | .cqBase i, some p | .dbAddr i, some p | .headAddr i, some p | .sqEpoch i, some p =>
    s.modRing p i (writeRingReg r v)
  | .sqCfg i, some p => writeSqCfg p i (v.setWidth 32) s
  | .hiveAddr, some p | .supRgn _, some p | .ckptList, some p | .ckptCfg, some p => s.modPart p (writePartReg r v)
  | .supMap, some p => if v.getLsbD 0 then effCommit p s else s
  | .pciCommand, _ | .pciPm, _ | .pciSriov, _ | .pciDevctl, _ => writeConfig f r v s
  | _, _ => writeShared f r v s

/-- REGISTER_WRITE: RW and WO fields act as their maps say, RO and RSV bits store nothing. -/
def execRegisterWrite (f : Fn) (reg : Reg) (acc : Acc) (value : DWord) (s : State) : Out :=
  done (if !accessTaken s f reg then refuseAccess f false s
        else if reaches s f reg ∧ writeFits reg acc then effWriteReg f reg value s else s)

end Sys2Proof.Machine
end

