-- ==== Sys2Proof/Machine/Row.lean ====
section
/-! DEFINITION. The row engine: the common body and its checks (R243–R246), normalisation (R251, R252), soft-max and
cross-entropy (R253–R258), the attention gradient (R263), and per-example norms (R264, R265). -/

namespace Sys2Proof.Machine

/-! ### The common body (R244) -/

def rwRows (b : Bytes) : Nat := fieldAt b 16 2
def rwCols (b : Bytes) : Nat := fieldAt b 18 2
def rwInFmt (b : Bytes) : Nat := bits (fieldAt b 20 1) 2 0
def rwOutFmt (b : Bytes) : Nat := bits (fieldAt b 20 1) 6 4
def rwAuxFmt (b : Bytes) : Nat := bits (fieldAt b 21 1) 2 0
def rwMode (b : Bytes) : Nat := bits (fieldAt b 21 1) 5 4
def rwStats (b : Bytes) : Nat := fieldAt b 22 2
def rwInOff (b : Bytes) : Nat := fieldAt b 24 4
def rwOutOff (b : Bytes) : Nat := fieldAt b 28 4
def rwAux0Off (b : Bytes) : Nat := fieldAt b 32 4
def rwAux1Off (b : Bytes) : Nat := fieldAt b 36 4
def rwAux2Off (b : Bytes) : Nat := fieldAt b 40 4
def rwHistOff (b : Bytes) : Nat := fieldAt b 44 4
def rwAlpha (b : Bytes) : Word := w32 (fieldAt b 48 4)
def rwBeta (b : Bytes) : Word := w32 (fieldAt b 52 4)
def rwScale (b : Bytes) : Word := w32 (fieldAt b 56 4)
def rwHist (b : Bytes) : Bool := flag b 66 0
def rwG (b : Bytes) : Bool := flag b 66 1
def rwB (b : Bytes) : Bool := flag b 66 2
def rwAcc (b : Bytes) : Bool := flag b 66 3
def rwCausal (b : Bytes) : Bool := flag b 66 4
def rwAux2 (b : Bytes) : Bool := flag b 66 5
def rwModeBit (b : Bytes) : Bool := flag b 66 6
/-- QGROUP: 0 is read as 1. -/
def rwQgroup (b : Bytes) : Nat := max 1 (fieldAt b 67 1)
def rwPosQ (b : Bytes) : Nat := fieldAt b 68 4
def rwPosK (b : Bytes) : Nat := fieldAt b 72 4
def rwRpe (b : Bytes) : Nat := fieldAt b 76 2
def rwIn (b : Bytes) : Mat := matOf (rwInOff b) (rwInFmt b) (fieldAt b 60 2) (rwRows b) (rwCols b)
def rwOut (b : Bytes) : Mat := matOf (rwOutOff b) (rwOutFmt b) (fieldAt b 62 2) (rwRows b) (rwCols b)
def rwAux1 (b : Bytes) : Mat := matOf (rwAux1Off b) (rwAuxFmt b) (fieldAt b 64 2) (rwRows b) (rwCols b)
def rwP (b : Bytes) : Mat := matOf (rwAux2Off b) (rwAuxFmt b) (fieldAt b 64 2) (rwRows b) (rwCols b)

/-! ### What an opcode names (R243) -/

/-- The groups of fields of the common body beyond IN and the record base. -/
inductive RowField where
  | out | gamma | betaVec | targets | mat1 | aux2 | acc | alpha | beta | causal | posK | mode | rpe
  deriving DecidableEq, Repr

/-- The groups that the table names for an opcode. -/
def rowFields : Nat → List RowField
  | 0x01 => [.out, .gamma, .betaVec, .beta]
  | 0x02 => [.out, .gamma, .beta]
  | 0x03 => [.out, .gamma, .mat1, .aux2, .acc]
  | 0x04 => [.out, .gamma, .mat1, .aux2, .acc]
  | 0x05 => [.out, .alpha, .causal, .posK, .mode]
  | 0x07 => [.out, .mat1, .alpha, .causal, .posK]
  | 0x08 => [.out, .targets, .aux2, .alpha, .beta, .posK]
  | 0x09 => [.mat1]
  | 0x0A => [.out, .mat1, .aux2, .alpha, .causal, .posK]
  | 0x0B => [.mat1, .mode, .acc, .rpe]
  | 0x0C => [.out, .aux2, .rpe]
  | _ => []

/-- Whether an opcode names a group. -/
def names (b : Bytes) (f : RowField) : Bool := (rowFields (opCode b)).contains f

/-- Whether OUT is written: SM_FWD with MODE 1 writes the record only. -/
def rwHasOut (b : Bytes) : Bool := names b .out && !(opCode b == 5 && rwModeBit b)

/-- Whether every field that the table does not name for the opcode is 0. AUX_FMT is ignored where it serves only targets,
a loss or factors (R244). -/
def rwUnnamed (b : Bytes) : Bool :=
  let z (off n : Nat) : Bool := allZero (slice b off n)
  let g := names b .gamma || opCode b == 0x0B
  (names b .out || (clear b 20 0x70 && clear b 21 0x30 && z 28 4 && z 44 4 && z 56 4 && z 62 2 && clear b 66 0x01)) &&
  (names b .gamma || names b .mat1 || names b .targets || names b .rpe || clear b 21 0x07) &&
  (names b .gamma || names b .targets || z 32 4) && (names b .betaVec || names b .mat1 || z 36 4) &&
  (names b .mat1 || z 64 2) && (names b .aux2 || (z 40 4 && clear b 66 0x20)) &&
  (g || clear b 66 0x02) && (names b .betaVec || clear b 66 0x04) && (names b .acc || clear b 66 0x08) &&
  (names b .causal || (clear b 66 0x10 && z 67 1 && z 68 4)) && (names b .posK || z 72 4) &&
  (names b .mode || clear b 66 0x40) && (names b .alpha || z 48 4) && (names b .beta || z 52 4) && (names b .rpe || z 76 2)

/-- The largest COLS of an opcode (R244). -/
def rwMaxCols (b : Bytes) : Nat := if opCode b ≤ 4 then 8192 else if opCode b = 6 then 128 else 32768

/-- Whether P is written (ATTN_DS). -/
def rwHasP (b : Bytes) : Bool := opCode b == 0x0A && rwAux2 b

/-- RPE suits ROWS; PEXNORM: RPE is 1 in MODE 0, and COLS in MODE 1 (R244, R264). -/
def rwRpeOk (b : Bytes) : Bool :=
  !names b .rpe || (within 1 (rwRpe b) 16384 && rwRows b % rwRpe b == 0 &&
    (opCode b != 0x0B || rwRpe b == (if rwModeBit b then rwCols b else 1)))

/-- Whether AUX_FMT serves anything. -/
def rwAuxUsed (b : Bytes) : Bool :=
  names b .mat1 || rwHasP b || (names b .gamma && rwG b) || (names b .betaVec && rwB b)

/-- Whether the offsets that are used are aligned (R245). -/
def rwAligned (b : Bytes) : Bool :=
  decide (rwInOff b % 1024 = 0) && (!rwHasOut b || decide (rwOutOff b % 1024 = 0)) &&
  (!(rwHasOut b && rwHist b) || decide (rwHistOff b % 256 = 0)) &&
  (!(names b .gamma && rwG b || names b .targets) || decide (rwAux0Off b % 64 = 0)) &&
  (!(names b .betaVec && rwB b) || decide (rwAux1Off b % 64 = 0)) && (!names b .mat1 || decide (rwAux1Off b % 1024 = 0)) &&
  (!rwAux2 b || decide (rwAux2Off b % (if rwHasP b then 1024 else 64) = 0))

/-- Whether the fields of a common body are within their ranges (R163, R198, R244). -/
def rwForm (b : Bytes) : Bool :=
  within 1 (rwRows b) 16384 && within 1 (rwCols b) (rwMaxCols b) && decide (rwInFmt b ≤ 4) &&
  (!rwHasOut b || (decide (rwOutFmt b ≤ 4) && roundOk (rwMode b) (rwOutFmt b) && !pitchBad (fieldAt b 62 2) (rwCols b))) &&
  (!rwAuxUsed b || decide (rwAuxFmt b ≤ 4)) && (!rwHasP b || roundOk (rwMode b) (rwAuxFmt b)) &&
  decide (rwStats b ≤ 32767) && (!rwCausal b || decide (fieldAt b 67 1 ≤ 128)) && rwRpeOk b && rwAligned b &&
  !pitchBad (fieldAt b 60 2) (rwCols b) && (!(names b .mat1 || rwHasP b) || !pitchBad (fieldAt b 64 2) (rwCols b)) &&
  clear b 20 0x88 && clear b 21 0xC8 && clear b 66 0x80 && allZero (slice b 78 50) && rwUnnamed b

/-- Examples of a block: ROWS ÷ RPE. -/
def rwExamples (b : Bytes) : Nat := rwRows b / rwRpe b

/-- Records that a block uses. -/
def rwRecords (b : Bytes) : Nat := if names b .rpe then rwExamples b else rwRows b

/-- Bytes of the plain vector at AUX2_OFF. -/
def rwAux2Bytes (b : Bytes) : Nat :=
  match opCode b with
  | 0x03 => 8 * rwCols b
  | 0x04 => 4 * rwCols b
  | 0x08 => 4 * rwRows b
  | _ => 4 * rwExamples b

/-- The regions of a block. -/
def rwRegions (b : Bytes) : List (Nat × Nat) :=
  let vec (off n : Nat) : List (Nat × Nat) := [(off, off + n)]
  let mat (m : Mat) : List (Nat × Nat) := [(m.base, m.stop)]
  mat (rwIn b) ++ (if rwHasOut b then mat (rwOut b) else []) ++
  (if names b .gamma && rwG b then vec (rwAux0Off b) (rwCols b * elemBytes (rwAuxFmt b)) else []) ++
  (if names b .targets then vec (rwAux0Off b) (4 * rwRows b) else []) ++
  (if names b .betaVec && rwB b then vec (rwAux1Off b) (rwCols b * elemBytes (rwAuxFmt b)) else []) ++
  (if names b .mat1 then mat (rwAux1 b) else []) ++
  (if rwAux2 b then (if rwHasP b then mat (rwP b) else vec (rwAux2Off b) (rwAux2Bytes b)) else []) ++
  (if rwHasOut b && rwHist b then vec (rwHistOff b) 256 else [])

/-- The checks of a common body: free is the offset for a record range above 32,768, for which no rule states one (R245). -/
def rwCheck (free : Nat) (b : Bytes) : Option BlockBad :=
  match blockBad (!rwForm b) (rwRegions b) cellStoreBytes with
  | some e => some e
  | none => if 32768 < rwStats b + rwRecords b then some (.access free) else none

/-! ### Parts of a row operation -/

/-- A row of a matrix, of IN, and of AUX1. -/
def rowIn (cs : CellState) (b : Bytes) (r : Nat) : List Word := (rwIn b).row cs.store r
def rowAux1 (cs : CellState) (b : Bytes) (r : Nat) : List Word := (rwAux1 b).row cs.store r

/-- γ and β: 1 and +0 where they are not enabled (R251). -/
def rowGamma (cs : CellState) (b : Bytes) : List Word :=
  if rwG b then vecAt cs.store (rwAux0Off b) (rwAuxFmt b) (rwCols b) else List.replicate (rwCols b) fOne
def rowBeta (cs : CellState) (b : Bytes) : List Word :=
  if rwB b then vecAt cs.store (rwAux1Off b) (rwAuxFmt b) (rwCols b) else List.replicate (rwCols b) 0

/-- Words 0 and 1 of row r's record. -/
def rowW0 (cs : CellState) (b : Bytes) (r : Nat) : Word := statWord cs (rwStats b + r) 0
def rowW1 (cs : CellState) (b : Bytes) (r : Nat) : Word := statWord cs (rwStats b + r) 1

/-- A record written whole, and word 0 alone; only a NaN sets the finiteness accumulator (R246, R247). -/
def recOut (i : Nat) (w0 w1 : Word) : CellOut := { stats := [(2 * i, w0), (2 * i + 1, w1)], met := fIsNaN w0 || fIsNaN w1 }
def recOut0 (i : Nat) (w0 : Word) : CellOut := { stats := [(2 * i, w0)], met := fIsNaN w0 }

/-- Effects one after another. -/
def outs (l : List CellOut) : CellOut := l.foldl CellOut.plus {}

/-- How the rows of OUT are converted (R246). -/
def rwConv (b : Bytes) : Conv := ⟨rwOutFmt b, rwMode b, rwScale b⟩

/-- The rows of OUT through the histogram, the scale and the conversion (R246). -/
def rowOut (d : Draws) (b : Bytes) (rows : List (List Word)) : CellOut :=
  (convRows (rwOut b) (rwConv b) d (rankByRow (rwCols b)) rows).plus (histOut (rwHist b) (rwHistOff b) rows)

/-- FP32 words written as output conversions (R246). -/
def vecOut (off : Nat) (ws : List Word) : CellOut :=
  { mem := [(off, (ws.map canon).flatMap fun w => leBytes 4 w.toNat)], met := ws.any fun w => !fIsFinite w }

/-- For each row. -/
def perRow {α : Type} (b : Bytes) (f : Nat → α) : List α := (List.range (rwRows b)).map f

/-- Products of two rows, each rounded. -/
def mulRows (xs ys : List Word) : List Word := List.zipWith fMul xs ys

/-! ### Normalisation (R251, R252) -/

/-- The mean, and the reciprocal standard deviation of a row centred on mu. -/
def meanOf (xs : List Word) : Word := fDiv (rowSum xs) (natToF xs.length)
def rstdOf (eps : Word) (ds : List Word) : Word := aRsqrt (fAdd (meanOf (mulRows ds ds)) eps)
/-- x − mu. -/
def centred (mu : Word) (xs : List Word) : List Word := xs.map fun x => fSub x mu

/-- LN_FWD. -/
def lnFwdRun (cs : CellState) (d : Draws) (b : Bytes) : CellOut :=
  let g := rowGamma cs b
  let be := rowBeta cs b
  let mu r := meanOf (rowIn cs b r)
  let rstd r := rstdOf (rwBeta b) (centred (mu r) (rowIn cs b r))
  (outs (perRow b fun r => recOut (rwStats b + r) (mu r) (rstd r))).plus
    (rowOut d b (perRow b fun r =>
      zip3 (fun x g be => fFma (fMul (fSub x (mu r)) (rstd r)) g be) (rowIn cs b r) g be))

/-- RMS_FWD. -/
def rmsFwdRun (cs : CellState) (d : Draws) (b : Bytes) : CellOut :=
  let g := rowGamma cs b
  let rstd r := rstdOf (rwBeta b) (rowIn cs b r)
  (outs (perRow b fun r => recOut (rwStats b + r) 0 (rstd r))).plus
    (rowOut d b (perRow b fun r => List.zipWith (fun x g => fMul (fMul x (rstd r)) g) (rowIn cs b r) g))

/-- x̂ of a row, recomputed from x and the record; the mean of RMS rows is 0. -/
def rowHat (cs : CellState) (b : Bytes) (rms : Bool) (r : Nat) : List Word :=
  (rowIn cs b r).map fun x => fMul (fSub x (if rms then 0 else rowW0 cs b r)) (rowW1 cs b r)

/-- One row of dx. -/
def normDx (cs : CellState) (b : Bytes) (rms : Bool) (g : List Word) (r : Nat) : List Word :=
  let xh := rowHat cs b rms r
  let gy := mulRows (rowAux1 cs b r) g
  let a := meanOf gy
  let bb := meanOf (mulRows gy xh)
  List.zipWith (fun gy xh => fMul (rowW1 cs b r) (fSub (if rms then gy else fSub gy a) (fMul xh bb))) gy xh

/-- The accumulators from their start: +0, or the words at AUX2_OFF when ACC (R252). -/
def accStart (cs : CellState) (b : Bytes) (off : Nat) : List Word :=
  if rwAcc b then vecAt cs.store off 4 (rwCols b) else List.replicate (rwCols b) 0

/-- Rows added in ascending order. -/
def addRows (start : List Word) (rows : List (List Word)) : List Word := rows.foldl (List.zipWith fAdd) start

/-- LN_BWD and RMS_BWD. -/
def normBwdRun (rms : Bool) (cs : CellState) (d : Draws) (b : Bytes) : CellOut :=
  let g := rowGamma cs b
  let dg := addRows (accStart cs b (rwAux2Off b)) (perRow b fun r => mulRows (rowAux1 cs b r) (rowHat cs b rms r))
  let db := addRows (accStart cs b (rwAux2Off b + 4 * rwCols b)) (perRow b fun r => rowAux1 cs b r)
  (rowOut d b (perRow b (normDx cs b rms g))).plus
    (if rwAux2 b then vecOut (rwAux2Off b) (if rms then dg else dg ++ db) else {})

/-! ### Soft-max and cross-entropy (R253–R258) -/

/-- Whether column c of row r is masked. -/
def rowMasked (b : Bytes) (r c : Nat) : Bool := rwCausal b && decide (rwPosQ b + r / rwQgroup b < rwPosK b + c)

/-- z of row r: ALPHA × x, −∞ where masked. -/
def rowZ (cs : CellState) (b : Bytes) (r : Nat) : List Word :=
  (rowIn cs b r).mapIdx fun c x => if rowMasked b r c then fNegInf else fMul (rwAlpha b) x

/-- The probabilities of row r under lse: +0 where masked. -/
def rowProb (cs : CellState) (b : Bytes) (lse : Word) (r : Nat) : List Word :=
  (rowZ cs b r).mapIdx fun c z => if rowMasked b r c then 0 else aExp (fSub z lse)

/-- One chunk of the online pass. -/
def smChunk (ms : Word × Word) (zs : List Word) : Word × Word :=
  let mn := fMax ms.1 (rowMax zs)
  if mn = fNegInf then ms
  else (mn, fAdd (fMul ms.2 (aExp (fSub ms.1 mn))) (rowSum (zs.map fun z => aExp (fSub z mn))))

/-- m and lse of a row of z (R254). -/
def smStats (zs : List Word) : Word × Word :=
  let ms := (groupsOf 128 (tiles zs.length) zs).foldl smChunk (fNegInf, 0)
  (ms.1, fAdd ms.1 (aLog ms.2))

/-- SM_FWD. -/
def smFwdRun (cs : CellState) (d : Draws) (b : Bytes) : CellOut :=
  let st r := smStats (rowZ cs b r)
  (outs (perRow b fun r => recOut (rwStats b + r) (st r).1 (st r).2)).plus
    (if rwModeBit b then {} else rowOut d b (perRow b fun r => rowProb cs b (st r).2 r))

/-- lse of the partial values of a row (R255). -/
def mergeLse (vs : List Word) : Word :=
  let m := rowMax vs
  if m = fNegInf then fNegInf else fAdd m (aLog (rowSum (vs.map fun v => aExp (fSub v m))))

/-- SM_MERGE. -/
def smMergeRun (cs : CellState) (_d : Draws) (b : Bytes) : CellOut :=
  outs (perRow b fun r => recOut (rwStats b + r) (rowMax (rowIn cs b r)) (mergeLse (rowIn cs b r)))

/-- One row of dx of SM_BWD (R256). A masked column adds +0 to the sum, which leaves it as it is. -/
def smDx (cs : CellState) (b : Bytes) (r : Nat) : List Word :=
  let y := rowProb cs b (rowW1 cs b r) r
  let dy := rowAux1 cs b r
  let sum := rowSum ((mulRows dy y).mapIdx fun c p => if rowMasked b r c then 0 else p)
  List.zipWith (fun y dy => fMul (fMul (rwAlpha b) y) (fSub dy sum)) y dy

/-- SM_BWD. -/
def smBwdRun (cs : CellState) (d : Draws) (b : Bytes) : CellOut := rowOut d b (perRow b (smDx cs b))

/-- The target of row r. -/
def xentTarget (cs : CellState) (b : Bytes) (r : Nat) : Nat := memNat cs.store (rwAux0Off b + 4 * r) 4
/-- Whether the row is ignored, and whether its target lies in the slice (R257). -/
def xentIgnored (cs : CellState) (b : Bytes) (r : Nat) : Bool := xentTarget cs b r == 0xFFFFFFFF
def xentHit (cs : CellState) (b : Bytes) (r : Nat) : Bool :=
  !xentIgnored cs b r && decide (rwPosK b ≤ xentTarget cs b r) && decide (xentTarget cs b r < rwPosK b + rwCols b)

/-- One row of dx of XENT. -/
def xentDx (cs : CellState) (b : Bytes) (r : Nat) : List Word :=
  if xentIgnored cs b r then List.replicate (rwCols b) 0
  else (rowZ cs b r).mapIdx fun c z =>
    let e := aExp (fSub z (rowW1 cs b r))
    fMul (fMul (rwBeta b) (rwAlpha b))
      (if xentHit cs b r && decide (rwPosK b + c = xentTarget cs b r) then fSub e fOne else e)

/-- The loss of a row whose target lies in the slice. -/
def xentLoss (cs : CellState) (b : Bytes) (r : Nat) : Word :=
  fSub (rowW1 cs b r) (fMul (rwAlpha b) ((rwIn b).raw cs.store r (xentTarget cs b r - rwPosK b)))

/-- XENT. -/
def xentRun (cs : CellState) (d : Draws) (b : Bytes) : CellOut :=
  let o := (rowOut d b (perRow b (xentDx cs b))).plus (outs (perRow b fun r =>
    if rwAux2 b && xentHit cs b r then vecOut (rwAux2Off b + 4 * r) [xentLoss cs b r] else {}))
  { o with ignored := ((List.range (rwRows b)).filter (xentIgnored cs b)).length }

/-- ROWDOT. -/
def rowdotRun (cs : CellState) (_d : Draws) (b : Bytes) : CellOut :=
  outs (perRow b fun r => recOut0 (rwStats b + r) (rowSum (mulRows (rowIn cs b r) (rowAux1 cs b r))))

/-! ### The attention gradient (R263) -/

/-- One row of dS: ALPHA × P × (dP − D); +0 where masked. -/
def dsRow (cs : CellState) (b : Bytes) (r : Nat) : List Word :=
  (List.zipWith (fun p dp => fMul (fMul (rwAlpha b) p) (fSub dp (rowW0 cs b r)))
    (rowProb cs b (rowW1 cs b r) r) (rowAux1 cs b r)).mapIdx fun c v => if rowMasked b r c then 0 else v

/-- ATTN_DS. P passes with SCALE 1; where OUT and P both draw, an element of OUT draws ahead of the one of P (R242; log entry
103). -/
def attnDsRun (cs : CellState) (d : Draws) (b : Bytes) : CellOut :=
  let p : Conv := ⟨rwAuxFmt b, rwMode b, fOne⟩
  let both := rwAux2 b && p.random && (rwConv b).random
  let o := rowOut (fun j i => d j (if both then 2 * i else i)) b (perRow b (dsRow cs b))
  o.plus (if rwAux2 b then
      convRows (rwP b) p (fun j i => d j (if both then 2 * i + 1 else i)) (rankByRow (rwCols b))
        (perRow b fun r => rowProb cs b (rowW1 cs b r) r)
    else {})

/-! ### Per-example norms (R264, R265) -/

/-- The contribution of example e. In MODE 1 the block is summed as one run of elements, row after row. -/
def pexPart (cs : CellState) (b : Bytes) (e : Nat) : Word :=
  if rwModeBit b then
    rowSum ((List.range (rwRpe b)).flatMap fun i => mulRows (rowIn cs b (e * rwRpe b + i)) (rowAux1 cs b (e * rwRpe b + i)))
  else
    let xx := rowSum (mulRows (rowIn cs b e) (rowIn cs b e))
    let yy := rowSum (mulRows (rowAux1 cs b e) (rowAux1 cs b e))
    if rwG b then fAdd (fMul xx yy) yy else fMul xx yy

/-- PEXNORM. -/
def pexnormRun (cs : CellState) (_d : Draws) (b : Bytes) : CellOut :=
  outs ((List.range (rwExamples b)).map fun e =>
    recOut0 (rwStats b + e) (if rwAcc b then fAdd (rowW0 cs b e) (pexPart cs b e) else pexPart cs b e))

/-- The factor of an example with squared norm v under clip norm C. -/
def clipFactor (clip v : Word) : Word :=
  if fIsNaN v then fNaN else if v = 0 ∨ fLe (fSqrt v) clip then fOne else fDiv clip (fSqrt v)

/-- CLIPSCALE. -/
def clipscaleRun (clip : Word) (cs : CellState) (d : Draws) (b : Bytes) : CellOut :=
  let f e := clipFactor clip (rowW0 cs b e)
  (rowOut d b (perRow b fun r => (rowIn cs b r).map fun x => fMul x (f (r / rwRpe b)))).plus
    (if rwAux2 b then vecOut (rwAux2Off b) ((List.range (rwExamples b)).map f) else {})

/-! ### The commands -/

/-- A row operation of the common body. -/
def startRow (x : At) (code : Nat) (run : State → CellState → Draws → Bytes → CellOut) (s : State) : Out :=
  done (startOp x .row code (fun s _ b => rwCheck (drawNow 56 s).toNat b)
    (fun s n d b => run s s.combs[x.comb].cells[n] d b) s)

/-- LN_FWD. -/
def execLnFwd (x : At) (s : State) : Out := startRow x 0x01 (fun _ => lnFwdRun) s
/-- RMS_FWD. -/
def execRmsFwd (x : At) (s : State) : Out := startRow x 0x02 (fun _ => rmsFwdRun) s
/-- LN_BWD. -/
def execLnBwd (x : At) (s : State) : Out := startRow x 0x03 (fun _ => normBwdRun false) s
/-- RMS_BWD. -/
def execRmsBwd (x : At) (s : State) : Out := startRow x 0x04 (fun _ => normBwdRun true) s
/-- SM_FWD. -/
def execSmFwd (x : At) (s : State) : Out := startRow x 0x05 (fun _ => smFwdRun) s
/-- SM_MERGE. -/
def execSmMerge (x : At) (s : State) : Out := startRow x 0x06 (fun _ => smMergeRun) s
/-- SM_BWD. -/
def execSmBwd (x : At) (s : State) : Out := startRow x 0x07 (fun _ => smBwdRun) s
/-- XENT. -/
def execXent (x : At) (s : State) : Out := startRow x 0x08 (fun _ => xentRun) s
/-- ROWDOT. -/
def execRowdot (x : At) (s : State) : Out := startRow x 0x09 (fun _ => rowdotRun) s
/-- ATTN_DS. -/
def execAttnDs (x : At) (s : State) : Out := startRow x 0x0A (fun _ => attnDsRun) s
/-- PEXNORM. -/
def execPexnorm (x : At) (s : State) : Out := startRow x 0x0B (fun _ => pexnormRun) s
/-- CLIPSCALE: the clip norm is the comb's ROW_CLIP. -/
def execClipscale (x : At) (s : State) : Out := startRow x 0x0C (fun s => clipscaleRun s.combs[x.comb].clip) s

/-! ### ATTN (R259–R262) -/

def atQrows (b : Bytes) : Nat := fieldAt b 16 2
def atHd (b : Bytes) : Nat := fieldAt b 18 2
def atPages (b : Bytes) : Nat := fieldAt b 20 2
def atQgroup (b : Bytes) : Nat := max 1 (fieldAt b 22 1)
def atCont (b : Bytes) : Bool := flag b 23 0
def atFinal (b : Bytes) : Bool := flag b 23 1
def atCausal (b : Bytes) : Bool := flag b 23 2
def atHist (b : Bytes) : Bool := flag b 23 3 && atFinal b
def atKvFmt (b : Bytes) : Nat := bits (fieldAt b 24 1) 6 4
def atPFmt (b : Bytes) : Nat := bits (fieldAt b 25 1) 2 0
def atAccVreg (b : Bytes) : Nat := bits (fieldAt b 27 1) 4 0
def atAlpha (b : Bytes) : Word := w32 (fieldAt b 28 4)
def atPlist (b : Bytes) : Nat := fieldAt b 36 4
def atHistOff (b : Bytes) : Nat := fieldAt b 44 4
def atStats (b : Bytes) : Nat := fieldAt b 48 2
def atPosQ (b : Bytes) : Nat := fieldAt b 52 4
def atQ (b : Bytes) : Mat := matOf (fieldAt b 32 4) (bits (fieldAt b 24 1) 2 0) 0 (atQrows b) (atHd b)
def atOut (b : Bytes) : Mat := matOf (fieldAt b 40 4) (bits (fieldAt b 25 1) 6 4) 0 (atQrows b) (atHd b)
def atConv (b : Bytes) : Conv := ⟨(atOut b).fmt, bits (fieldAt b 26 1) 1 0, w32 (fieldAt b 56 4)⟩

/-- A page-list entry (R260). -/
structure Page where
  k    : Nat
  v    : Nat
  pos0 : Nat
  ntok : Nat
  rsv  : Nat
  deriving DecidableEq, Repr

/-- Entry p of the list. -/
def atPage (st : Mem) (b : Bytes) (p : Nat) : Page :=
  let e := memRead st (atPlist b + 16 * p) 16
  ⟨fieldAt e 0 4, fieldAt e 4 4, fieldAt e 8 4, fieldAt e 12 1, fieldAt e 13 3⟩

/-- The pages. -/
def atList (st : Mem) (b : Bytes) : List Page := (List.range (atPages b)).map (atPage st b)

/-- Whether an entry passes the checks of its fields. -/
def pageOk (p : Page) : Bool := decide (p.k % 1024 = 0) && decide (p.v % 1024 = 0) && within 1 p.ntok 128 && p.rsv == 0

/-- Whether the fields of an ATTN body are within their ranges. What only a FINAL operation uses is checked only then. -/
def atForm (b : Bytes) : Bool :=
  within 1 (atQrows b) 128 && within 1 (atHd b) 128 && within 1 (atPages b) 4096 &&
  (!atCausal b || decide (fieldAt b 22 1 ≤ 128)) && decide ((atQ b).fmt ≤ 3) && decide (atKvFmt b ≤ 3) && decide (atPFmt b ≤ 3) &&
  (!atFinal b || (decide ((atOut b).fmt ≤ 4) && roundOk (atConv b).mode (atOut b).fmt && decide ((atOut b).base % 1024 = 0))) &&
  (!atHist b || decide (atHistOff b % 256 = 0)) && decide (atAccVreg b % 4 = 0) && decide ((atQ b).base % 1024 = 0) &&
  decide (atPlist b % 64 = 0) && decide (atStats b + atQrows b ≤ 32768) &&
  clear b 23 0xF0 && clear b 24 0x88 && clear b 25 0x88 && clear b 26 0xFC && clear b 27 0xE0 && allZero (slice b 50 2) &&
  allZero (slice b 60 68)

/-- The checks of an ATTN block: the body, then the page list where it lies within the cell store (R163, R260). -/
def atCheck (st : Mem) (b : Bytes) : Option BlockBad :=
  let body := [((atQ b).base, (atQ b).stop), (atPlist b, atPlist b + 16 * atPages b)] ++
    (if atFinal b then [((atOut b).base, (atOut b).stop)] else []) ++ (if atHist b then [(atHistOff b, atHistOff b + 256)] else [])
  match blockBad (!atForm b) body cellStoreBytes with
  | some e => some e
  | none =>
    let ps := atList st b
    blockBad (!ps.all pageOk)
      (ps.flatMap fun p => [(p.k, p.k + tileBytes (atKvFmt b)), (p.v, p.v + tileBytes (atKvFmt b))]) cellStoreBytes

/-- The running state of a query row: maximum, sum, and its 128 accumulator elements. -/
structure AttnRow where
  m   : Word
  l   : Word
  acc : List Word
  deriving DecidableEq, Repr

/-- The state row r starts from (R261). -/
def atStart (cs : CellState) (b : Bytes) (r : Nat) : AttnRow :=
  if atCont b then
    { m := statWord cs (atStats b + r) 0, l := statWord cs (atStats b + r) 1
      acc := tabSlice 0 cs.vregs (4096 * (atAccVreg b + r / 32) + 128 * (r % 32)) 128 }
  else { m := fNegInf, l := 0, acc := List.replicate 128 0 }

/-- Whether token j of a page is masked for query row r. -/
def atMasked (b : Bytes) (p : Page) (r j : Nat) : Bool :=
  decide (p.ntok ≤ j) || (atCausal b && decide (atPosQ b + r / atQgroup b < p.pos0 + j))

/-- The scores of query row r against a page: one array pass, scaled, −∞ where masked. -/
def atScores (st : Mem) (b : Bytes) (p : Page) (r : Nat) : List Word :=
  let k := matOf p.k (atKvFmt b) 0 p.ntok (atHd b)
  (List.range 128).map fun j =>
    if atMasked b p r j then fNegInf
    else fMul (atAlpha b) (dotFrom 1 (fun i => (atQ b).get st r i) (fun i => k.get st j i) 0)

/-- A query row takes a page (R261). -/
def atStep (st : Mem) (b : Bytes) (r : Nat) (w : AttnRow) (p : Page) : AttnRow :=
  let s := atScores st b p r
  let v := matOf p.v (atKvFmt b) 0 p.ntok (atHd b)
  let mn := fMax w.m (rowMax s)
  let none := mn = fNegInf
  let corr := if none then fOne else aExp (fSub w.m mn)
  let e := if none then List.replicate 128 0 else s.map fun z => aExp (fSub z mn)
  let pr := e.map fun z => widen (atPFmt b) (convertTo (atPFmt b) 0 0 z)
  { m := mn, l := fFma w.l corr (rowSum e)
    acc := w.acc.mapIdx fun c a => dotFrom 1 (fun j => pr.getD j 0) (fun j => v.get st j c) (fMul corr a) }

/-- Query row r after every page. -/
def atRow (cs : CellState) (b : Bytes) (r : Nat) : AttnRow := (atList cs.store b).foldl (atStep cs.store b r) (atStart cs b r)

/-- The output of a row. -/
def atRowOut (b : Bytes) (w : AttnRow) : List Word :=
  (w.acc.take (atHd b)).map fun a => if fIsZero w.l then 0 else fDiv a w.l

/-- The first fills of an ATTN: for each page its K tile with the query tile, then its V tile (R154, R261). -/
def atFills (st : Mem) (b : Bytes) : List Bank :=
  firstFills ((atList st b).take 8 |>.flatMap fun p =>
    [(atQ b).fill st 0 0, (matOf p.k (atKvFmt b) 0 p.ntok (atHd b)).fill st 0 0, (matOf p.v (atKvFmt b) 0 p.ntok (atHd b)).fill st 0 0])

/-- The effect of an ATTN on its cell. -/
def attnRun (cs : CellState) (d : Draws) (b : Bytes) : CellOut :=
  let rows := (List.range (atQrows b)).map (atRow cs b)
  let recs := outs (rows.mapIdx fun r w => recOut (atStats b + r) w.m (if atFinal b then fAdd w.m (aLog w.l) else w.l))
  let accs : CellOut := { vregs := rows.mapIdx fun r w => (4096 * (atAccVreg b + r / 32) + 128 * (r % 32), w.acc) }
  let o := (recs.plus accs).plus { fills := atFills cs.store b }
  if atFinal b then
    let vals := rows.map (atRowOut b)
    { (o.plus (convRows (atOut b) (atConv b) d (rankByRow (atHd b)) vals)).plus (histOut (atHist b) (atHistOff b) vals) with
      empty := (rows.filter fun w => fIsZero w.l).length }
  else o

/-- ATTN. -/
def execAttn (x : At) (s : State) : Out :=
  done (startOp x .row 0x10 (fun s n b => atCheck (storeOf x s n) b) (fun s n d b => attnRun s.combs[x.comb].cells[n] d b) s)

end Sys2Proof.Machine
end

