-- ==== Sys2Proof/Machine/Sequencer.lean ====
section
/-! DEFINITION. The sequencer's control, scalar, semaphore and predicate instructions (R115–R117, R120, R123–R130, R145). -/

namespace Sys2Proof.Machine

/-- NOP (R115). -/
def execNop (k : Comb) (h : PredF) (s : State) : Out := done (issue k h false id s)

/-- END: issue stops until PROGRAM_END; STALL reads 12 (R145). -/
def execEndProg (k : Comb) (h : PredF) (s : State) : Out :=
  done (issueNoPen k h (fun s => (stallWith k 12 s).modSeq k fun q => { q with ending := true, issued := q.issued + 1 }) s)

/-- The program ends once END's conditions hold (R145, R147). -/
def execProgramEnd (k : Comb) (s : State) : Out :=
  done (if s.combs[k].seq.ending && s.combs[k].seq.running.isSome && endReady s k then endProgram k s else s)

/-- JUMP: PC := PC + 8 × IMM (R115, R116). -/
def execJump (k : Comb) (h : PredF) (imm : Word) (s : State) : Out :=
  done (issueTo k h false (targetOf s k imm.toInt) id s)

/-- BNZ: branches when sA is not 0. -/
def execBnz (k : Comb) (h : PredF) (a : SReg) (imm : Word) (s : State) : Out :=
  done (issueTo k h false (targetOf s k (if sreg s k a = 0 then 1 else imm.toInt)) id s)

/-- LOOP: sA := sA − 1, then branches when sA is not 0; s0 stays 0 and reads 0 after the decrement. -/
def execLoop (k : Comb) (h : PredF) (a : SReg) (imm : Word) (s : State) : Out :=
  let v := sreg s k a - 1
  let after : DWord := if a.val = 0 then 0 else v
  done (issueTo k h false (targetOf s k (if after = 0 then 1 else imm.toInt)) (setSreg k a v) s)

/-- BEAT_DONE: posts the marker and waits for the boundary; at once while no beat grid is active (R70, R117). -/
def execBeatDone (k : Comb) (h : PredF) (s : State) : Out :=
  done (issueNoPen k h (fun s =>
    if !inImage s k (targetOf s k 1) then illegal k s
    else
      let s := stepPc k (targetOf s k 1) s
      if s.combs[k].hum.active then
        stallWith k 7 (s.modHum k fun m => { m with marker := m.marker.orElse fun _ => some m.time })
      else s) s)

/-- Whether a HILD run of comb k's current program is queued or runs. -/
def progHild (s : State) (k : Comb) : Bool :=
  let mine (r : HildRun) : Bool := r.desc.isNone && decide (r.comb = k) && decide (r.prog = s.combs[k].seq.progNo)
  (fins 8).any fun u => s.supers[u].hild.queue.any mine || s.supers[u].hild.cur.any fun c => mine c.run

/-- What a FENCE of a scope still waits for, of the work of the current program (R120, R274). -/
def fenceClear (s : State) (k : Comb) (scope : BitVec 2) : Bool :=
  let q := s.combs[k].seq
  let local' := q.queues.all fun ts => ts.all fun t => let d := bits (fieldAt t.block 0 1) 7 4; d != 2 && d != 3
  let noPpa := q.retain.all fun e => match e.kind with | .ppa _ _ => false | _ => true
  let noPpaT := q.queues.all fun ts => ts.all fun t => bits (fieldAt t.block 0 1) 7 4 != 1
  let acked (host : Bool) := q.unacked.all fun w => decide (w.prog ≠ q.progNo) || w.host != host
  !cellsBusy s k && (decide (scope.toNat < 1) || local') &&
    (decide (scope.toNat < 2) || (noPpa && noPpaT && acked false && !progHild s k)) &&
    (decide (scope.toNat < 3) || (q.queues.all (fun t => t.isEmpty) && q.retain.isEmpty && acked true && (progFlits s k).isEmpty))

/-- FENCE: waits for its scope (R120). -/
def execSeqFence (k : Comb) (h : PredF) (scope : BitVec 2) (s : State) : Out :=
  done (issueNoPen k h (fun s =>
    if !inImage s k (targetOf s k 1) then illegal k s
    else if fenceClear s k scope then stepPc k (targetOf s k 1) s else stallWith k 8 s) s)

/-- LDI: sA := IMM, sign-extended. -/
def execLdi (k : Comb) (h : PredF) (a : SReg) (imm : Word) (s : State) : Out := done (issueReg k h a (fun _ => simm imm) s)

/-- LDHI: sA[63:32] := IMM. -/
def execLdhi (k : Comb) (h : PredF) (a : SReg) (imm : Word) (s : State) : Out :=
  done (issueReg k h a (fun s => imm ++ lowWord (sreg s k a)) s)

/-- ADD: sA := sB + sC modulo 2^64. -/
def execSeqAdd (k : Comb) (h : PredF) (a b c : SReg) (s : State) : Out :=
  done (issueReg k h a (fun s => sreg s k b + sreg s k c) s)

/-- ADDI: sA := sB + IMM. -/
def execSeqAddi (k : Comb) (h : PredF) (a b : SReg) (imm : Word) (s : State) : Out :=
  done (issueReg k h a (fun s => sreg s k b + simm imm) s)

/-- SUB: sA := sB − sC. -/
def execSeqSub (k : Comb) (h : PredF) (a b c : SReg) (s : State) : Out :=
  done (issueReg k h a (fun s => sreg s k b - sreg s k c) s)

/-- MUL: sA := the low 64 bits of sB × sC. -/
def execSeqMul (k : Comb) (h : PredF) (a b c : SReg) (s : State) : Out :=
  done (issueReg k h a (fun s => sreg s k b * sreg s k c) s)

/-- AND. -/
def execSeqAnd (k : Comb) (h : PredF) (a b c : SReg) (s : State) : Out :=
  done (issueReg k h a (fun s => sreg s k b &&& sreg s k c) s)

/-- OR. -/
def execSeqOr (k : Comb) (h : PredF) (a b c : SReg) (s : State) : Out :=
  done (issueReg k h a (fun s => sreg s k b ||| sreg s k c) s)

/-- XOR. -/
def execSeqXor (k : Comb) (h : PredF) (a b c : SReg) (s : State) : Out :=
  done (issueReg k h a (fun s => sreg s k b ^^^ sreg s k c) s)

/-- SHL: logical left shift of sB by IMM[5:0]. -/
def execSeqShl (k : Comb) (h : PredF) (a b : SReg) (sh : BitVec 6) (s : State) : Out :=
  done (issueReg k h a (fun s => sreg s k b <<< sh.toNat) s)

/-- SHR: logical right shift of sB by IMM[5:0]. -/
def execSeqShr (k : Comb) (h : PredF) (a b : SReg) (sh : BitVec 6) (s : State) : Out :=
  done (issueReg k h a (fun s => sreg s k b >>> sh.toNat) s)

/-- The comb-store offset of LD and ST: sB + IMM modulo 2^64. -/
def ldstAddr (s : State) (k : Comb) (b : SReg) (imm : Word) : Nat := (sreg s k b + simm imm).toNat

/-- The checks of LD and ST: 8-byte alignment, then the comb store's end (R146). -/
def ldstCheck (k : Comb) (b : SReg) (imm : Word) (s : State) : Block :=
  let a := ldstAddr s k b imm
  if a % 8 ≠ 0 then .bad else if combStoreBytes ≤ a then .violation a else .none

/-- LD: sA := 8 bytes of the comb store. -/
def execSeqLd (k : Comb) (h : PredF) (a b : SReg) (imm : Word) (s : State) : Out :=
  done (issueIf k h false (ldstCheck k b imm)
    (setSreg k a (w64 (memNat s.combs[k].store (ldstAddr s k b imm) 8))) s)

/-- ST: 8 bytes of the comb store := sA. -/
def execSeqSt (k : Comb) (h : PredF) (a b : SReg) (imm : Word) (s : State) : Out :=
  done (issueIf k h false (ldstCheck k b imm)
    (combWrite k (ldstAddr s k b imm) (leBytes 8 (sreg s k a).toNat)) s)

/-- RDBEAT: sA := the beat number, 0 while no beat grid is active. -/
def execRdbeat (k : Comb) (h : PredF) (a : SReg) (s : State) : Out :=
  done (issueReg k h a (fun s => (beatOf s k).setWidth 64) s)

/-- RDHUM: sA := HUM_TIME. -/
def execRdhum (k : Comb) (h : PredF) (a : SReg) (s : State) : Out := done (issueReg k h a (fun s => humNs s k) s)

/-- Arming waits for a PENDING target, and p0 is no target (R123, R124). -/
def armCheck (k : Comb) (m : PredIx) (extra : Bool) (s : State) : Block :=
  if m.val = 0 ∨ extra then .bad else if s.combs[k].seq.preds[m] = .pending then .stall 5 else .none

/-- What a PCHECK that resolves at once gives (R128). -/
def pcheckNow (mode : BitVec 4) (b c : DWord) : Bool :=
  if mode = 1 then decide (b ≤ c)
  else if mode = 2 then fIsFinite (lowWord b) && fLe (lowWord b) (lowWord c)
  else fIsFinite (lowWord b)

/-- PCHECK (R128): FINITE arms the target, the other modes resolve it at once. -/
def execPcheck (k : Comb) (h : PredF) (b c : SReg) (target : PredIx) (mode : BitVec 4) (s : State) : Out :=
  done (issueIf k h false (armCheck k target (decide (3 < mode.toNat))) (fun s =>
    if mode = 0 then setPred k target .pending (.finite s.combs[k].seq.issued) s
    else setPred k target (pstate (pcheckNow mode (sreg s k b) (sreg s k c))) .none s) s)

/-- PVOTE (R129): arms p0 and posts the local vote once the masked predicates have resolved. DESIGN CHOICE (log entry 92): the
step tag is s2[15:0] as it stands when PVOTE issues. -/
def execPvote (k : Comb) (h : PredF) (mask : BitVec 16) (s : State) : Out :=
  done (issueIf k h false (fun s =>
      if mask.getLsbD 0 then .bad else if s.combs[k].seq.preds[(0 : PredIx)] = .pending then .stall 5 else .none)
    (fun s => postVote k (setPred k 0 .pending (.verdict mask ((sreg s k 2).setWidth 16) false) s)) s)

/-- PSEM (R130): DECISION waits for a value with bits [1:0] non-zero; GE resolves at once. -/
def execPsem (k : Comb) (h : PredF) (b : SReg) (target : PredIx) (ge : Bool) (sem : BitVec 12) (s : State) : Out :=
  done (issueIf k h false (armCheck k target false) (fun s =>
    let v := match partOf s k with
      | some p => semVal s p sem.toNat
      | none => 0
    if ge then setPred k target (pstate (decide (sreg s k b ≤ v))) .none s
    else match decision v with
      | some r => setPred k target .pending (.resolved r) s
      | none => setPred k target .pending (.decision sem.toNat) s) s)

/-- PSET (R115, R124): the target resolves to the value at once. -/
def execPset (k : Comb) (h : PredF) (target : PredIx) (value : Bool) (s : State) : Out :=
  done (issueIf k h false (armCheck k target false) (setPred k target (pstate value) .none) s)

/-- FCLR: clears the finiteness accumulator (R127). -/
def execFclr (k : Comb) (h : PredF) (s : State) : Out :=
  done (issue k h false (fun s => s.modSeq k fun q => { q with finite := false }) s)

/-- SEM_SET (R99, R115): held behind the retention buffer where R134 or R135 holds it. -/
def execSemSet (k : Comb) (h : PredF) (b : SReg) (sem : Word) (s : State) : Out :=
  done (issueIf k h true (semCheck k h sem) (fun s => progSem k h sem.toNat false (sreg s k b) s) s)

/-- SEM_ADD. -/
def execSemAdd (k : Comb) (h : PredF) (b : SReg) (sem : Word) (s : State) : Out :=
  done (issueIf k h true (semCheck k h sem) (fun s => progSem k h sem.toNat true (sreg s k b) s) s)

/-- A semaphore wait: satisfied now or by a value seen since it began (R100), else STALL 6. -/
def semWait (k : Comb) (h : PredF) (sem : Word) (ge : Bool) (v : DWord) (s : State) : State :=
  if !canIssue s k then s else
  let met := match s.combs[k].seq.wait with
    | some (i, _, _, m) => m && decide (i = sem.toNat)
    | none => false
  let cur := match partOf s k with
    | some p => semVal s p sem.toNat
    | none => 0
  let ok := met || (if ge then decide (v ≤ cur) else decide (cur = v))
  let s' := issueIf k h false (fun _ => if 4095 < sem.toNat then .violation sem.toNat else if ok then .none else .stall 6) id s
  if s'.combs[k].seq.stall = 6 then s'.modSeq k fun q => { q with wait := some (sem.toNat, v, ge, false) } else s'

/-- SEM_WAIT_GE. -/
def execSemWaitGe (k : Comb) (h : PredF) (b : SReg) (sem : Word) (s : State) : Out :=
  done (semWait k h sem true (sreg s k b) s)

/-- SEM_WAIT_EQ. -/
def execSemWaitEq (k : Comb) (h : PredF) (b : SReg) (sem : Word) (s : State) : Out :=
  done (semWait k h sem false (sreg s k b) s)

end Sys2Proof.Machine
end

