-- ==== Sys2Proof/Machine/Vector.lean ====
section
/-! DEFINITION. The vector engine: VPROG with its checks (R219–R221, R229), and one command for each of its instructions
(R223–R232). -/

namespace Sys2Proof.Machine

/-! ### One instruction of a list -/

/-- The memory argument of an instruction at a slot address. -/
def memArgOf (i : VInstr) (addr : Nat) : MemArg :=
  let n := i.imm.toNat
  { addr := addr, combStore := bits n 2 2 == 1, fmt := BitVec.ofNat 3 i.fmt, round := BitVec.ofNat 2 (bits n 4 3)
    raw := bits n 5 5 == 1, acc := BitVec.ofNat 2 (bits n 7 6) }

/-- One instruction, its slot addresses given. -/
def vecInstr (x : VCtx) (slots : List Nat) (i : VInstr) (s : State) : VRes :=
  let m := memArgOf i (slots.getD (bits i.imm.toNat 1 0) 0)
  if i.vop = 0x01 then vecLoad x i.vd m s
  else if i.vop = 0x02 then vecLoadB x i.vd m s
  else if i.vop = 0x03 then vecStore x i.va m s
  else if i.vop = 0x04 then vecGather x i.vd i.va m s
  else if i.vop = 0x05 then vecScatter x i.va i.vb m s
  else if i.vop = 0x06 then vecScatAdd x i.va i.vb m s
  else if i.vop = 0x42 then vecSatAdd x i.vd i.va i.vb s
  else if i.vop = 0x4A then vecIota x i.vd i.imm s
  else if 0x50 ≤ i.vop then vecReduce (redOf i.vop) x i.va m s
  else match vecFun i.vop with
    | some f => vec3 (fun a b c => f a b c i.imm) x i.vd i.va i.vb i.vc s
    | none => ⟨s, [], none⟩

/-- Instructions in order up to the first fault; the destinations of those that completed, and what the faulting one wrote. -/
def vecList : List (VCtx × List Nat × VInstr) → State → List Dest → VRes × List Dest
  | [], s, ds => (⟨s, ds, none⟩, [])
  | (x, slots, i) :: r, s, ds =>
    match vecInstr x slots i s with
    | ⟨s, d, none⟩ => vecList r s (ds ++ d)
    | ⟨s, d, some b⟩ => (⟨s, ds, some b⟩, d)

/-- A destination as it stood in an earlier state. -/
def keepDest (k : Comb) (n : PCell) (old : State) (d : Dest) (s : State) : State :=
  let regs := fun r m => s.modCell k n fun c => { c with
    vregs := tabPut 0 c.vregs (4096 * r) (tabSlice 0 (old.combs[k].cells[n]).vregs (4096 * r) m) }
  match d with
  | .store lo len => s.modCell k n fun c => { c with store := memWrite c.store lo (memRead (old.combs[k].cells[n]).store lo len) }
  | .comb lo len => s.modComb k fun c => { c with store := memWrite c.store lo (memRead old.combs[k].store lo len) }
  | .vreg r => regs r 4096
  | .vpart r m => regs r m
  | .stats _ => s

/-- A fault of a vector instruction: a program fault of the comb, whose effect on the destinations of the operation spares what the
faulting instruction has written (R229). -/
def vecFault (x : At) (pc : Word) (e : BlockBad) (kept : List Dest) (s : State) : State :=
  let n := physCell s x.comb x.cell
  forEach kept (keepDest x.comb n s) (programFault x.comb e.status.1 pc e.status.2 s)

/-! ### The VPROG block (R220, R221) -/

def vpCount (b : Bytes) : Nat := fieldAt b 16 2
def vpIter (b : Bytes) : Nat := fieldAt b 18 2
def vpNinstr (b : Bytes) : Nat := bits (fieldAt b 20 1) 3 0
def vpTailz (b : Bytes) : Bool := bits (fieldAt b 20 1) 4 4 == 1
/-- The instruction list. -/
def vpList (b : Bytes) : List VInstr := (List.range (vpNinstr b)).map fun j => decodeVec (fieldAt b (64 + 8 * j) 8)

/-- The address of slot s at iteration i: BASE_s + i × STRIDE_s, over the integers. -/
def vpAddr (b : Bytes) (slot i : Nat) : Int := (fieldAt b (24 + 8 * slot) 4 : Int) + i * signedOf 32 (fieldAt b (28 + 8 * slot) 4)

/-- The extent and element size an instruction takes at its slot: n bytes; `none`: no memory instruction. -/
def vpExtent (count : Nat) (i : VInstr) : Option (Nat × Nat) :=
  let sz := elemBytes i.fmt
  if i.vop = 0x01 ∨ i.vop = 0x03 then some (sz, count * sz)
  else if i.vop = 0x02 then some (sz, sz)
  else if i.vop = 0x04 ∨ i.vop = 0x05 then some (sz, 1)
  else if i.vop = 0x06 then some (4, 1)
  else if 0x50 ≤ i.vop then some (4, 4)
  else none

/-- Every address the checks look at: element size, extent, address, limit (R229). -/
def vpAccesses (b : Bytes) : List (Nat × Nat × Int × Nat) :=
  ((vpList b).map fun i =>
    match vpExtent (vpCount b) i with
    | none => []
    | some (sz, n) => (List.range (vpIter b)).map fun t =>
        (sz, n, vpAddr b (bits i.imm.toNat 1 0) t, spaceEnd (bits i.imm.toNat 2 2 == 1))).flatten

/-- The checks of a VPROG block (R163, R220, R223, R229). -/
def vpCheck (_s : State) (_n : PCell) (b : Bytes) : Option BlockBad :=
  let rest := (List.range 8).drop (vpNinstr b)
  let form := decide (1 ≤ vpCount b) && decide (vpCount b ≤ 4096) && decide (1 ≤ vpIter b) && decide (vpIter b ≤ 4096) &&
    decide (1 ≤ vpNinstr b) && decide (vpNinstr b ≤ 8) && clear b 20 0xE0 && allZero (slice b 21 3) && allZero (slice b 56 8) &&
    rest.all (fun j => fieldAt b (64 + 8 * j) 8 == 0) && (vpList b).all instrOk
  if !form then some .format
  else if (vpAccesses b).any fun a => decide (a.2.2.1 % a.1 ≠ 0) then some .format
  else ((vpAccesses b).find? fun a => decide (a.2.2.1 < 0) || decide ((a.2.2.2 : Int) < a.2.2.1 + a.2.1)).map fun a =>
    .access (if a.2.2.1 < 0 then (a.2.2.1 % 2 ^ 56).toNat else max a.2.2.1.toNat a.2.2.2)

/-- The instructions of every iteration, in order (R221). -/
def vpSteps (x : At) (b : Bytes) : List (VCtx × List Nat × VInstr) :=
  ((List.range (vpIter b)).map fun t =>
    let slots := (List.range 4).map fun j => (vpAddr b j t).toNat
    (vpList b).map fun i => (⟨x.comb, x.cell, vpCount b, vpTailz b, t⟩, slots, i)).flatten

/-- The destinations of the vector operation running on a cell. -/
def setDests (x : At) (ds : List Dest) (s : State) : State :=
  s.modCell x.comb (physCell s x.comb x.cell) fun c => { c with
    running := c.running.map fun r => if r.engine = .vector then { r with dests := ds } else r }

/-- VPROG starts and runs its list; an index beyond its space is a program fault (R229). -/
def vpStart (x : At) (b : OpBlock) (s : State) : State :=
  let (r, kept) := vecList (vpSteps x b.bytes) (holdOp x .vector b [] [] s) []
  let s := setDests x r.dests r.state
  match r.bad with
  | none => s
  | some e => vecFault x b.cellPc e kept s

/-- VPROG. -/
def execVprog (x : At) (s : State) : Out := done (meetHead x .vector 1 vpCheck (vpStart x) s)

/-! ### One instruction as a command -/

/-- Offset of the CELL instruction of the vector operation that runs on the cell; none runs: a free value. -/
def vecPc (x : VCtx) (s : State) : Word :=
  (((s.combs[x.comb].cells[vecCell x s]).running.find? fun r => r.engine == .vector).map (·.block.cellPc)).getD (drawNow 32 s)

/-- What an instruction's command answers: its fault is a program fault of the comb (R146, R229). -/
def vecDone (x : VCtx) (r : VRes) : Out :=
  done (match r.bad with
        | none => r.state
        | some e => vecFault ⟨x.comb, x.cell⟩ (vecPc x r.state) e r.dests (drawn r.state))

/-- An instruction whose fields the block check would refuse is a FORMAT_ERROR (R223). -/
def vecIf (x : VCtx) (ok : Bool) (f : State → VRes) (s : State) : Out :=
  vecDone x (if ok then f s else ⟨s, [], some .format⟩)

/-- Whether the memory argument of an operation passes the checks of its fields. -/
def argOk (vop : Nat) (m : MemArg) : Bool := controlOk vop m.fmt.toNat m.round.toNat m.raw m.acc.toNat

/-- LD (R228). -/
def execVecLd (x : VCtx) (vd : VReg) (m : MemArg) (s : State) : Out :=
  vecIf x (argOk 0x01 m) (vecLoad x vd m) s
/-- LDB (R228). -/
def execVecLdb (x : VCtx) (vd : VReg) (m : MemArg) (s : State) : Out :=
  vecIf x (argOk 0x02 m) (vecLoadB x vd m) s
/-- ST (R228). -/
def execVecSt (x : VCtx) (va : VReg) (m : MemArg) (s : State) : Out :=
  vecIf x (argOk 0x03 m) (vecStore x va m) s
/-- GATHER (R229). -/
def execGather (x : VCtx) (vd va : VReg) (m : MemArg) (s : State) : Out :=
  vecIf x (argOk 0x04 m) (vecGather x vd va m) s
/-- SCATTER (R230). -/
def execScatter (x : VCtx) (va vb : VReg) (m : MemArg) (s : State) : Out :=
  vecIf x (argOk 0x05 m) (vecScatter x va vb m) s
/-- SCATADD (R230). -/
def execScatadd (x : VCtx) (va vb : VReg) (m : MemArg) (s : State) : Out :=
  vecIf x (argOk 0x06 m) (vecScatAdd x va vb m) s
/-- ADD (R223). -/
def execVecAdd (x : VCtx) (vd va vb : VReg) (s : State) : Out :=
  vecDone x (vec2 fAdd x vd va vb s)
/-- SUB (R223). -/
def execVecSub (x : VCtx) (vd va vb : VReg) (s : State) : Out :=
  vecDone x (vec2 fSub x vd va vb s)
/-- MUL (R223). -/
def execVecMul (x : VCtx) (vd va vb : VReg) (s : State) : Out :=
  vecDone x (vec2 fMul x vd va vb s)
/-- FMA (R223). -/
def execVecFma (x : VCtx) (vd va vb vc : VReg) (s : State) : Out :=
  vecDone x (vec3 fFma x vd va vb vc s)
/-- ADDI (R223). -/
def execVecAddi (x : VCtx) (vd va : VReg) (imm : Word) (s : State) : Out :=
  vecDone x (vec1 (fun a => fAdd a imm) x vd va s)
/-- MULI (R223). -/
def execMuli (x : VCtx) (vd va : VReg) (imm : Word) (s : State) : Out :=
  vecDone x (vec1 (fun a => fMul a imm) x vd va s)
/-- FMAI (R223). -/
def execFmai (x : VCtx) (vd va vb : VReg) (imm : Word) (s : State) : Out :=
  vecDone x (vec2 (fun a b => fFma a imm b) x vd va vb s)
/-- MAX (R225). -/
def execVecMax (x : VCtx) (vd va vb : VReg) (s : State) : Out :=
  vecDone x (vec2 fMax x vd va vb s)
/-- MIN (R225). -/
def execVecMin (x : VCtx) (vd va vb : VReg) (s : State) : Out :=
  vecDone x (vec2 fMin x vd va vb s)
/-- MAXI (R225). -/
def execMaxi (x : VCtx) (vd va : VReg) (imm : Word) (s : State) : Out :=
  vecDone x (vec1 (fun a => fMax a imm) x vd va s)
/-- MINI (R225). -/
def execMini (x : VCtx) (vd va : VReg) (imm : Word) (s : State) : Out :=
  vecDone x (vec1 (fun a => fMin a imm) x vd va s)
/-- ABS (R225). -/
def execVecAbs (x : VCtx) (vd va : VReg) (s : State) : Out :=
  vecDone x (vec1 fAbs x vd va s)
/-- NEG (R225). -/
def execNeg (x : VCtx) (vd va : VReg) (s : State) : Out :=
  vecDone x (vec1 fNeg x vd va s)
/-- DIV (R223). -/
def execVecDiv (x : VCtx) (vd va vb : VReg) (s : State) : Out :=
  vecDone x (vec2 fDiv x vd va vb s)
/-- SQRT (R223). -/
def execVecSqrt (x : VCtx) (vd va : VReg) (s : State) : Out :=
  vecDone x (vec1 fSqrt x vd va s)
/-- CMP (R223): conditions above 4 are reserved. -/
def execVecCmp (x : VCtx) (vd va vb : VReg) (cond : Word) (s : State) : Out :=
  vecIf x (decide (cond.toNat ≤ 4)) (vec2 (fun a b => fMask (fCond cond.toNat a b)) x vd va vb) s
/-- SEL (R223). -/
def execVecSel (x : VCtx) (vd va vb vc : VReg) (s : State) : Out :=
  vecDone x (vec3 fSel x vd va vb vc s)
/-- EXP (R226). -/
def execVecExp (x : VCtx) (vd va : VReg) (s : State) : Out :=
  vecDone x (vec1 aExp x vd va s)
/-- EXP2 (R226). -/
def execExp2 (x : VCtx) (vd va : VReg) (s : State) : Out :=
  vecDone x (vec1 aExp2 x vd va s)
/-- LOG (R226). -/
def execVecLog (x : VCtx) (vd va : VReg) (s : State) : Out :=
  vecDone x (vec1 aLog x vd va s)
/-- RCP (R226). -/
def execRcp (x : VCtx) (vd va : VReg) (s : State) : Out :=
  vecDone x (vec1 aRcp x vd va s)
/-- RSQRT (R226). -/
def execVecRsqrt (x : VCtx) (vd va : VReg) (s : State) : Out :=
  vecDone x (vec1 aRsqrt x vd va s)
/-- TANH (R226). -/
def execTanh (x : VCtx) (vd va : VReg) (s : State) : Out :=
  vecDone x (vec1 aTanh x vd va s)
/-- SIGMOID (R226). -/
def execSigmoid (x : VCtx) (vd va : VReg) (s : State) : Out :=
  vecDone x (vec1 aSigmoid x vd va s)
/-- GELU (R226). -/
def execGelu (x : VCtx) (vd va : VReg) (s : State) : Out :=
  vecDone x (vec1 aGelu x vd va s)
/-- IADD (R223). -/
def execIadd (x : VCtx) (vd va vb : VReg) (s : State) : Out :=
  vecDone x (vec2 (fun a b => a + b) x vd va vb s)
/-- ISUB (R223). -/
def execIsub (x : VCtx) (vd va vb : VReg) (s : State) : Out :=
  vecDone x (vec2 (fun a b => a - b) x vd va vb s)
/-- UADDSAT (R223, R232). -/
def execUaddsat (x : VCtx) (vd va vb : VReg) (s : State) : Out :=
  vecDone x (vecSatAdd x vd va vb s)
/-- AND (R223). -/
def execVecAnd (x : VCtx) (vd va vb : VReg) (s : State) : Out :=
  vecDone x (vec2 (fun a b => a &&& b) x vd va vb s)
/-- OR (R223). -/
def execVecOr (x : VCtx) (vd va vb : VReg) (s : State) : Out :=
  vecDone x (vec2 (fun a b => a ||| b) x vd va vb s)
/-- XOR (R223). -/
def execVecXor (x : VCtx) (vd va vb : VReg) (s : State) : Out :=
  vecDone x (vec2 (fun a b => a ^^^ b) x vd va vb s)
/-- SHL (R223): IMM above 31 is a FORMAT_ERROR. -/
def execVecShl (x : VCtx) (vd va : VReg) (imm : Word) (s : State) : Out :=
  vecIf x (decide (imm.toNat ≤ 31)) (vec1 (fun a => a <<< (imm.toNat % 32)) x vd va) s
/-- SHR (R223): IMM above 31 is a FORMAT_ERROR. -/
def execVecShr (x : VCtx) (vd va : VReg) (imm : Word) (s : State) : Out :=
  vecIf x (decide (imm.toNat ≤ 31)) (vec1 (fun a => a >>> (imm.toNat % 32)) x vd va) s
/-- FTOI (R223). -/
def execFtoi (x : VCtx) (vd va : VReg) (s : State) : Out :=
  vecDone x (vec1 fToInt x vd va s)
/-- ITOF (R223). -/
def execItof (x : VCtx) (vd va : VReg) (s : State) : Out :=
  vecDone x (vec1 intToF x vd va s)
/-- IOTA (R223). -/
def execIota (x : VCtx) (vd : VReg) (imm : Word) (s : State) : Out :=
  vecDone x (vecIota x vd imm s)
/-- MOVI (R223). -/
def execMovi (x : VCtx) (vd : VReg) (imm : Word) (s : State) : Out :=
  vecDone x (vecMovi x vd imm s)
/-- RSUM (R231). -/
def execRsum (x : VCtx) (va : VReg) (m : MemArg) (s : State) : Out :=
  vecIf x (argOk 0x50 m) (vecReduce .sum x va m) s
/-- RMAX (R231). -/
def execRmax (x : VCtx) (va : VReg) (m : MemArg) (s : State) : Out :=
  vecIf x (argOk 0x51 m) (vecReduce .max x va m) s
/-- RMIN (R231). -/
def execRmin (x : VCtx) (va : VReg) (m : MemArg) (s : State) : Out :=
  vecIf x (argOk 0x52 m) (vecReduce .min x va m) s
/-- RAMAX (R231). -/
def execRamax (x : VCtx) (va : VReg) (m : MemArg) (s : State) : Out :=
  vecIf x (argOk 0x53 m) (vecReduce .amax x va m) s
/-- RSUMSQ (R231). -/
def execRsumsq (x : VCtx) (va : VReg) (m : MemArg) (s : State) : Out :=
  vecIf x (argOk 0x54 m) (vecReduce .sumsq x va m) s

end Sys2Proof.Machine
end

