-- ==== Sys2Proof/Machine/Dispatch.lean ====
section
/-! DEFINITION. One arm per command: the meaning each calls. -/

namespace Sys2Proof.Machine

/-- The effect of one command on everything but the queue. -/
def exec (i : Instr) (s : State) : Host.Outcome State Fault Refusal :=
  match i with
  | .registerWrite f reg acc value => Sys2Proof.Machine.execRegisterWrite f reg acc value s
  | .w1cWrite f reg acc bits => Sys2Proof.Machine.execW1cWrite f reg acc bits s
  | .lowHalfRead f reg acc => Sys2Proof.Machine.execLowHalfRead f reg acc s
  | .inputPowerGood mV => Sys2Proof.Machine.execInputPowerGood mV s
  | .undervoltageDetect mV => Sys2Proof.Machine.execUndervoltageDetect mV s
  | .undervoltageClear mV => Sys2Proof.Machine.execUndervoltageClear mV s
  | .inputFault mV => Sys2Proof.Machine.execInputFault mV s
  | .railFault rail => Sys2Proof.Machine.execRailFault rail s
  | .latchRelease mV => Sys2Proof.Machine.execLatchRelease mV s
  | .powerSample watts avg mV mA => Sys2Proof.Machine.execPowerSample watts avg mV mA s
  | .overpowerSustained => Sys2Proof.Machine.execOverpowerSustained s
  | .overpowerClear => Sys2Proof.Machine.execOverpowerClear s
  | .thermalSample die0 die1 dram => Sys2Proof.Machine.execThermalSample die0 die1 dram s
  | .thermalDiv4End d => Sys2Proof.Machine.execThermalDiv4End d s
  | .thermalClear scope => Sys2Proof.Machine.execThermalClear scope s
  | .pwrLimitWrite f value => Sys2Proof.Machine.execPwrLimitWrite f value s
  | .energyReport64 p uj => Sys2Proof.Machine.execEnergyReport64 p uj s
  | .fabricRefLoss => Sys2Proof.Machine.execFabricRefLoss s
  | .pcieRefLoss => Sys2Proof.Machine.execPcieRefLoss s
  | .refReturn ref => Sys2Proof.Machine.execRefReturn ref s
  | .pllUnlock pll => Sys2Proof.Machine.execPllUnlock pll s
  | .bootStart => Sys2Proof.Machine.execBootStart s
  | .imageLoaded flashOk queen1Agrees => Sys2Proof.Machine.execImageLoaded flashOk queen1Agrees s
  | .bootReady => Sys2Proof.Machine.execBootReady s
  | .enterRecovery f => Sys2Proof.Machine.execEnterRecovery f s
  | .commitSvn f => Sys2Proof.Machine.execCommitSvn f s
  | .rcvGo f len => Sys2Proof.Machine.execRcvGo f len s
  | .recoveryFlashDone readBackOk => Sys2Proof.Machine.execRecoveryFlashDone readBackOk s
  | .entdaa addr => Sys2Proof.Machine.execEntdaa addr s
  | .setdasa addr => Sys2Proof.Machine.execSetdasa addr s
  | .rstdaa => Sys2Proof.Machine.execRstdaa s
  | .getpid => Sys2Proof.Machine.execGetpid s
  | .getbcr => Sys2Proof.Machine.execGetbcr s
  | .getdcr => Sys2Proof.Machine.execGetdcr s
  | .getmxds => Sys2Proof.Machine.execGetmxds s
  | .setEndpointId eid => Sys2Proof.Machine.execSetEndpointId eid s
  | .getSensorReading id => Sys2Proof.Machine.execGetSensorReading id s
  | .getStateSensorReadings id => Sys2Proof.Machine.execGetStateSensorReadings id s
  | .setNumericEffecterValue id watts => Sys2Proof.Machine.execSetNumericEffecterValue id watts s
  | .pollForPlatformEventMessage => Sys2Proof.Machine.execPollForPlatformEventMessage s
  | .pldmUpdateComponent header => Sys2Proof.Machine.execPldmUpdateComponent header s
  | .pldmTransferData offset data => Sys2Proof.Machine.execPldmTransferData offset data s
  | .verifyComplete => Sys2Proof.Machine.execVerifyComplete s
  | .activateFirmware => Sys2Proof.Machine.execActivateFirmware s
  | .help => Sys2Proof.Machine.execHelp s
  | .ver => Sys2Proof.Machine.execVer s
  | .stat => Sys2Proof.Machine.execStat s
  | .sum k => Sys2Proof.Machine.execSum k s
  | .sens => Sys2Proof.Machine.execSens s
  | .log n => Sys2Proof.Machine.execLog n s
  | .reset d u => Sys2Proof.Machine.execReset d u s
  | .peek addr n => Sys2Proof.Machine.execPeek addr n s
  | .traceOn => Sys2Proof.Machine.execTraceOn s
  | .traceOff => Sys2Proof.Machine.execTraceOff s
  | .modRstNRelease heldUs => Sys2Proof.Machine.execModRstNRelease heldUs s
  | .perstNRelease => Sys2Proof.Machine.execPerstNRelease s
  | .resetComb u => Sys2Proof.Machine.execResetComb u s
  | .resetSuper u => Sys2Proof.Machine.execResetSuper u s
  | .resetStrandPort u port => Sys2Proof.Machine.execResetStrandPort u port s
  | .resetPartition u => Sys2Proof.Machine.execResetPartition u s
  | .resetModuleWarm => Sys2Proof.Machine.execResetModuleWarm s
  | .resetModuleCold => Sys2Proof.Machine.execResetModuleCold s
  | .superResetDone k flips => Sys2Proof.Machine.execSuperResetDone k flips s
  | .combWatchdog k => Sys2Proof.Machine.execCombWatchdog k s
  | .superWatchdog k => Sys2Proof.Machine.execSuperWatchdog k s
  | .hildWatchdog k => Sys2Proof.Machine.execHildWatchdog k s
  | .foragerWatchdog k f => Sys2Proof.Machine.execForagerWatchdog k f s
  | .crownSidebandSilent => Sys2Proof.Machine.execCrownSidebandSilent s
  | .smokeDrainDone p => Sys2Proof.Machine.execSmokeDrainDone p s
  | .drainDeadline p => Sys2Proof.Machine.execDrainDeadline p s
  | .recoveryDone p => Sys2Proof.Machine.execRecoveryDone p s
  | .ewWindowEnd p => Sys2Proof.Machine.execEwWindowEnd p s
  | .heartbeat => Sys2Proof.Machine.execHeartbeat s
  | .sidebandMessageReceive seq mac msg => Sys2Proof.Machine.execSidebandMessageReceive seq mac msg s
  | .supersedure => Sys2Proof.Machine.execSupersedure s
  | .configWrite epoch die w => Sys2Proof.Machine.execConfigWrite epoch die w s
  | .queenRegionLoss d => Sys2Proof.Machine.execQueenRegionLoss d s
  | .partitionCreate pbase psize => Sys2Proof.Machine.execPartitionCreate pbase psize s
  | .partitionRemove pbase => Sys2Proof.Machine.execPartitionRemove pbase s
  | .removeSlotsEmpty pbase => Sys2Proof.Machine.execRemoveSlotsEmpty pbase s
  | .endContext pbase => Sys2Proof.Machine.execEndContext pbase s
  | .retireFlushDone k id => Sys2Proof.Machine.execRetireFlushDone k id s
  | .keyScrubDone k id => Sys2Proof.Machine.execKeyScrubDone k id s
  | .bind pbase manifest => Sys2Proof.Machine.execBind pbase manifest s
  | .key pbase envelope => Sys2Proof.Machine.execKey pbase envelope s
  | .debugChallenge => Sys2Proof.Machine.execDebugChallenge s
  | .debugUnlock token authKey ageMs => Sys2Proof.Machine.execDebugUnlock token authKey ageMs s
  | .getMeasurements index nonce => Sys2Proof.Machine.execGetMeasurements index nonce s
  | .humCfgWrite f value => Sys2Proof.Machine.execHumCfgWrite f value s
  | .humSyncReceive k port rec => Sys2Proof.Machine.execHumSyncReceive k port rec s
  | .humLockAcquired k => Sys2Proof.Machine.execHumLockAcquired k s
  | .humOffsetExceeded k => Sys2Proof.Machine.execHumOffsetExceeded k s
  | .holdoverExpire k => Sys2Proof.Machine.execHoldoverExpire k s
  | .elasticSlip k slip => Sys2Proof.Machine.execElasticSlip k slip s
  | .controlSlot k => Sys2Proof.Machine.execControlSlot k s
  | .beatGridStart p => Sys2Proof.Machine.execBeatGridStart p s
  | .beatBoundary k uj => Sys2Proof.Machine.execBeatBoundary k uj s
  | .frame64Poll f => Sys2Proof.Machine.execFrame64Poll f s
  | .doorbellReadDone src db head => Sys2Proof.Machine.execDoorbellReadDone src db head s
  | .descriptorFetchDone p r descs => Sys2Proof.Machine.execDescriptorFetchDone p r descs s
  | .descriptorStart p r => Sys2Proof.Machine.execDescriptorStart p r s
  | .compute p r => Sys2Proof.Machine.execCompute p r s
  | .copy p r host => Sys2Proof.Machine.execCopy p r host s
  | .fabric p r => Sys2Proof.Machine.execFabric p r s
  | .update p r => Sys2Proof.Machine.execUpdate p r s
  | .syncSet p r => Sys2Proof.Machine.execSyncSet p r s
  | .syncAdd p r => Sys2Proof.Machine.execSyncAdd p r s
  | .syncWaitGe p r => Sys2Proof.Machine.execSyncWaitGe p r s
  | .syncWaitEq p r => Sys2Proof.Machine.execSyncWaitEq p r s
  | .fence p r => Sys2Proof.Machine.execFence p r s
  | .timetable p r => Sys2Proof.Machine.execTimetable p r s
  | .checkpoint p r list => Sys2Proof.Machine.execCheckpoint p r list s
  | .checkpointStepReady p => Sys2Proof.Machine.execCheckpointStepReady p s
  | .snapshotCopyDone p => Sys2Proof.Machine.execSnapshotCopyDone p s
  | .checkpointShardsVisible p => Sys2Proof.Machine.execCheckpointShardsVisible p s
  | .checkpointManifestVisible p => Sys2Proof.Machine.execCheckpointManifestVisible p s
  | .restore p r list manifests => Sys2Proof.Machine.execRestore p r list manifests s
  | .restorePass1Done p records => Sys2Proof.Machine.execRestorePass1Done p records s
  | .restorePass2Done p records => Sys2Proof.Machine.execRestorePass2Done p records s
  | .egress p r => Sys2Proof.Machine.execEgress p r s
  | .smoke p r => Sys2Proof.Machine.execSmoke p r s
  | .descriptorComplete p r idx => Sys2Proof.Machine.execDescriptorComplete p r idx s
  | .ringEnable p r cfg => Sys2Proof.Machine.execRingEnable p r cfg s
  | .ringDisable p r cfg => Sys2Proof.Machine.execRingDisable p r cfg s
  | .eventRingEnable f cfg => Sys2Proof.Machine.execEventRingEnable f cfg s
  | .eventRingDisable f cfg => Sys2Proof.Machine.execEventRingDisable f cfg s
  | .nop k h => Sys2Proof.Machine.execNop k h s
  | .endProg k h => Sys2Proof.Machine.execEndProg k h s
  | .programEnd k => Sys2Proof.Machine.execProgramEnd k s
  | .jump k h imm => Sys2Proof.Machine.execJump k h imm s
  | .bnz k h a imm => Sys2Proof.Machine.execBnz k h a imm s
  | .loop k h a imm => Sys2Proof.Machine.execLoop k h a imm s
  | .beatDone k h => Sys2Proof.Machine.execBeatDone k h s
  | .seqFence k h scope => Sys2Proof.Machine.execSeqFence k h scope s
  | .ldi k h a imm => Sys2Proof.Machine.execLdi k h a imm s
  | .ldhi k h a imm => Sys2Proof.Machine.execLdhi k h a imm s
  | .seqAdd k h a b c => Sys2Proof.Machine.execSeqAdd k h a b c s
  | .seqAddi k h a b imm => Sys2Proof.Machine.execSeqAddi k h a b imm s
  | .seqSub k h a b c => Sys2Proof.Machine.execSeqSub k h a b c s
  | .seqMul k h a b c => Sys2Proof.Machine.execSeqMul k h a b c s
  | .seqAnd k h a b c => Sys2Proof.Machine.execSeqAnd k h a b c s
  | .seqOr k h a b c => Sys2Proof.Machine.execSeqOr k h a b c s
  | .seqXor k h a b c => Sys2Proof.Machine.execSeqXor k h a b c s
  | .seqShl k h a b sh => Sys2Proof.Machine.execSeqShl k h a b sh s
  | .seqShr k h a b sh => Sys2Proof.Machine.execSeqShr k h a b sh s
  | .seqLd k h a b imm => Sys2Proof.Machine.execSeqLd k h a b imm s
  | .seqSt k h a b imm => Sys2Proof.Machine.execSeqSt k h a b imm s
  | .rdbeat k h a => Sys2Proof.Machine.execRdbeat k h a s
  | .rdhum k h a => Sys2Proof.Machine.execRdhum k h a s
  | .pcheck k h b c target mode => Sys2Proof.Machine.execPcheck k h b c target mode s
  | .pvote k h mask => Sys2Proof.Machine.execPvote k h mask s
  | .psem k h b target ge sem => Sys2Proof.Machine.execPsem k h b target ge sem s
  | .pset k h target value => Sys2Proof.Machine.execPset k h target value s
  | .fclr k h => Sys2Proof.Machine.execFclr k h s
  | .move k h b forager => Sys2Proof.Machine.execMove k h b forager s
  | .cell k h b c => Sys2Proof.Machine.execCell k h b c s
  | .hild k h b c first => Sys2Proof.Machine.execHild k h b c first s
  | .semSet k h b sem => Sys2Proof.Machine.execSemSet k h b sem s
  | .semAdd k h b sem => Sys2Proof.Machine.execSemAdd k h b sem s
  | .semWaitGe k h b sem => Sys2Proof.Machine.execSemWaitGe k h b sem s
  | .semWaitEq k h b sem => Sys2Proof.Machine.execSemWaitEq k h b sem s
  | .predicateResolve k m => Sys2Proof.Machine.execPredicateResolve k m s
  | .retentionRelease k => Sys2Proof.Machine.execRetentionRelease k s
  | .transferComplete k forager host => Sys2Proof.Machine.execTransferComplete k forager host s
  | .memoryWriteAck k => Sys2Proof.Machine.execMemoryWriteAck k s
  | .matmul x => Sys2Proof.Machine.execMatmul x s
  | .bwdPair x => Sys2Proof.Machine.execBwdPair x s
  | .cellOpComplete x e => Sys2Proof.Machine.execCellOpComplete x e s
  | .cellFault k cells store offset => Sys2Proof.Machine.execCellFault k cells store offset s
  | .cellCorrectedError k n => Sys2Proof.Machine.execCellCorrectedError k n s
  | .spareSwapDone k ok => Sys2Proof.Machine.execSpareSwapDone k ok s
  | .entropyStartupDone k raw => Sys2Proof.Machine.execEntropyStartupDone k raw s
  | .entropyHealthFail k raw => Sys2Proof.Machine.execEntropyHealthFail k raw s
  | .vprog x => Sys2Proof.Machine.execVprog x s
  | .vecLd x vd m => Sys2Proof.Machine.execVecLd x vd m s
  | .vecLdb x vd m => Sys2Proof.Machine.execVecLdb x vd m s
  | .vecSt x va m => Sys2Proof.Machine.execVecSt x va m s
  | .gather x vd va m => Sys2Proof.Machine.execGather x vd va m s
  | .scatter x va vb m => Sys2Proof.Machine.execScatter x va vb m s
  | .scatadd x va vb m => Sys2Proof.Machine.execScatadd x va vb m s
  | .vecAdd x vd va vb => Sys2Proof.Machine.execVecAdd x vd va vb s
  | .vecSub x vd va vb => Sys2Proof.Machine.execVecSub x vd va vb s
  | .vecMul x vd va vb => Sys2Proof.Machine.execVecMul x vd va vb s
  | .vecFma x vd va vb vc => Sys2Proof.Machine.execVecFma x vd va vb vc s
  | .vecAddi x vd va imm => Sys2Proof.Machine.execVecAddi x vd va imm s
  | .muli x vd va imm => Sys2Proof.Machine.execMuli x vd va imm s
  | .fmai x vd va vb imm => Sys2Proof.Machine.execFmai x vd va vb imm s
  | .vecMax x vd va vb => Sys2Proof.Machine.execVecMax x vd va vb s
  | .vecMin x vd va vb => Sys2Proof.Machine.execVecMin x vd va vb s
  | .maxi x vd va imm => Sys2Proof.Machine.execMaxi x vd va imm s
  | .mini x vd va imm => Sys2Proof.Machine.execMini x vd va imm s
  | .vecAbs x vd va => Sys2Proof.Machine.execVecAbs x vd va s
  | .neg x vd va => Sys2Proof.Machine.execNeg x vd va s
  | .vecDiv x vd va vb => Sys2Proof.Machine.execVecDiv x vd va vb s
  | .vecSqrt x vd va => Sys2Proof.Machine.execVecSqrt x vd va s
  | .vecCmp x vd va vb cond => Sys2Proof.Machine.execVecCmp x vd va vb cond s
  | .vecSel x vd va vb vc => Sys2Proof.Machine.execVecSel x vd va vb vc s
  | .vecExp x vd va => Sys2Proof.Machine.execVecExp x vd va s
  | .exp2 x vd va => Sys2Proof.Machine.execExp2 x vd va s
  | .vecLog x vd va => Sys2Proof.Machine.execVecLog x vd va s
  | .rcp x vd va => Sys2Proof.Machine.execRcp x vd va s
  | .vecRsqrt x vd va => Sys2Proof.Machine.execVecRsqrt x vd va s
  | .tanh x vd va => Sys2Proof.Machine.execTanh x vd va s
  | .sigmoid x vd va => Sys2Proof.Machine.execSigmoid x vd va s
  | .gelu x vd va => Sys2Proof.Machine.execGelu x vd va s
  | .iadd x vd va vb => Sys2Proof.Machine.execIadd x vd va vb s
  | .isub x vd va vb => Sys2Proof.Machine.execIsub x vd va vb s
  | .uaddsat x vd va vb => Sys2Proof.Machine.execUaddsat x vd va vb s
  | .vecAnd x vd va vb => Sys2Proof.Machine.execVecAnd x vd va vb s
  | .vecOr x vd va vb => Sys2Proof.Machine.execVecOr x vd va vb s
  | .vecXor x vd va vb => Sys2Proof.Machine.execVecXor x vd va vb s
  | .vecShl x vd va imm => Sys2Proof.Machine.execVecShl x vd va imm s
  | .vecShr x vd va imm => Sys2Proof.Machine.execVecShr x vd va imm s
  | .ftoi x vd va => Sys2Proof.Machine.execFtoi x vd va s
  | .itof x vd va => Sys2Proof.Machine.execItof x vd va s
  | .iota x vd imm => Sys2Proof.Machine.execIota x vd imm s
  | .movi x vd imm => Sys2Proof.Machine.execMovi x vd imm s
  | .rsum x va m => Sys2Proof.Machine.execRsum x va m s
  | .rmax x va m => Sys2Proof.Machine.execRmax x va m s
  | .rmin x va m => Sys2Proof.Machine.execRmin x va m s
  | .ramax x va m => Sys2Proof.Machine.execRamax x va m s
  | .rsumsq x va m => Sys2Proof.Machine.execRsumsq x va m s
  | .lnFwd x => Sys2Proof.Machine.execLnFwd x s
  | .rmsFwd x => Sys2Proof.Machine.execRmsFwd x s
  | .lnBwd x => Sys2Proof.Machine.execLnBwd x s
  | .rmsBwd x => Sys2Proof.Machine.execRmsBwd x s
  | .smFwd x => Sys2Proof.Machine.execSmFwd x s
  | .smMerge x => Sys2Proof.Machine.execSmMerge x s
  | .smBwd x => Sys2Proof.Machine.execSmBwd x s
  | .xent x => Sys2Proof.Machine.execXent x s
  | .rowdot x => Sys2Proof.Machine.execRowdot x s
  | .attnDs x => Sys2Proof.Machine.execAttnDs x s
  | .pexnorm x => Sys2Proof.Machine.execPexnorm x s
  | .clipscale x => Sys2Proof.Machine.execClipscale x s
  | .attn x => Sys2Proof.Machine.execAttn x s
  | .rowClipWrite f k value => Sys2Proof.Machine.execRowClipWrite f k value s
  | .hildRunStart k => Sys2Proof.Machine.execHildRunStart k s
  | .hildGroupDone k => Sys2Proof.Machine.execHildGroupDone k s
  | .hildRunDone k => Sys2Proof.Machine.execHildRunDone k s
  | .hldEnd k => Sys2Proof.Machine.execHldEnd k s
  | .hldLd k d slot => Sys2Proof.Machine.execHldLd k d slot s
  | .hldSt k a slot round => Sys2Proof.Machine.execHldSt k a slot round s
  | .hldAdd k d a b => Sys2Proof.Machine.execHldAdd k d a b s
  | .hldSub k d a b => Sys2Proof.Machine.execHldSub k d a b s
  | .hldMul k d a b => Sys2Proof.Machine.execHldMul k d a b s
  | .hldFma k d a b c => Sys2Proof.Machine.execHldFma k d a b c s
  | .hldDiv k d a b => Sys2Proof.Machine.execHldDiv k d a b s
  | .hldSqrt k d a => Sys2Proof.Machine.execHldSqrt k d a s
  | .hldRsqrt k d a => Sys2Proof.Machine.execHldRsqrt k d a s
  | .hldMax k d a b => Sys2Proof.Machine.execHldMax k d a b s
  | .hldMin k d a b => Sys2Proof.Machine.execHldMin k d a b s
  | .hldAbs k d a => Sys2Proof.Machine.execHldAbs k d a s
  | .sign k d a => Sys2Proof.Machine.execSign k d a s
  | .hldCmp k d a b cond => Sys2Proof.Machine.execHldCmp k d a b cond s
  | .hldSel k d a b c => Sys2Proof.Machine.execHldSel k d a b c s
  | .clamp k d a b c => Sys2Proof.Machine.execClamp k d a b c s
  | .hldExp k d a => Sys2Proof.Machine.execHldExp k d a s
  | .noise k d a b => Sys2Proof.Machine.execNoise k d a b s
  | .rnd k d a round fmt => Sys2Proof.Machine.execRnd k d a round fmt s
  | .regionCommit p => Sys2Proof.Machine.execRegionCommit p s
  | .regionInitDone p => Sys2Proof.Machine.execRegionInitDone p s
  | .memoryRead sup off who line tags tree => Sys2Proof.Machine.execMemoryRead sup off who line tags tree s
  | .memoryWrite sup off who data line tags tree => Sys2Proof.Machine.execMemoryWrite sup off who data line tags tree s
  | .partialWrite sup off who data between line tags tree => Sys2Proof.Machine.execPartialWrite sup off who data between line tags tree s
  | .treeFormatDone k => Sys2Proof.Machine.execTreeFormatDone k s
  | .dramRefresh k => Sys2Proof.Machine.execDramRefresh k s
  | .patrolScrubRead k flips => Sys2Proof.Machine.execPatrolScrubRead k flips s
  | .rowRepairDone copy => Sys2Proof.Machine.execRowRepairDone copy s
  | .linkFlitCrcFail k => Sys2Proof.Machine.execLinkFlitCrcFail k s
  | .linkReplayLimit k => Sys2Proof.Machine.execLinkReplayLimit k s
  | .linkAuthFail link flit => Sys2Proof.Machine.execLinkAuthFail link flit s
  | .bar2Read off n => Sys2Proof.Machine.execBar2Read off n s
  | .bar2Write off data => Sys2Proof.Machine.execBar2Write off data s
  | .malformedMmio f isRead => Sys2Proof.Machine.execMalformedMmio f isRead s
  | .hostReadFail fail what => Sys2Proof.Machine.execHostReadFail fail what s
  | .ideCheckFail f => Sys2Proof.Machine.execIdeCheckFail f s
  | .kSetGo f set => Sys2Proof.Machine.execKSetGo f set s
  | .lockInterfaceRequest k => Sys2Proof.Machine.execLockInterfaceRequest k s
  | .startInterfaceRequest k => Sys2Proof.Machine.execStartInterfaceRequest k s
  | .stopInterfaceRequest k => Sys2Proof.Machine.execStopInterfaceRequest k s
  | .pciConfigWrite k what => Sys2Proof.Machine.execPciConfigWrite k what s
  | .doeAbort => Sys2Proof.Machine.execDoeAbort s
  | .vfFlr k => Sys2Proof.Machine.execVfFlr k s
  | .pf0Flr => Sys2Proof.Machine.execPf0Flr s
  | .vfEnableClear => Sys2Proof.Machine.execVfEnableClear s
  | .hotReset => Sys2Proof.Machine.execHotReset s
  | .hostLinkDown => Sys2Proof.Machine.execHostLinkDown s
  | .perstNAssert => Sys2Proof.Machine.execPerstNAssert s
  | .d3hotEnter f => Sys2Proof.Machine.execD3hotEnter f s
  | .busMasterClear f => Sys2Proof.Machine.execBusMasterClear f s
  | .memorySpaceClear f => Sys2Proof.Machine.execMemorySpaceClear f s
  | .coordWrite f value => Sys2Proof.Machine.execCoordWrite f value s
  | .portmapWrite f value => Sys2Proof.Machine.execPortmapWrite f value s
  | .trainingDone k p => Sys2Proof.Machine.execTrainingDone k p s
  | .trainingTimeout k p => Sys2Proof.Machine.execTrainingTimeout k p s
  | .trainingRetry k p => Sys2Proof.Machine.execTrainingRetry k p s
  | .laneHardFail p rx lane => Sys2Proof.Machine.execLaneHardFail p rx lane s
  | .laneErrorWindow p lane => Sys2Proof.Machine.execLaneErrorWindow p lane s
  | .spareReq k p lane => Sys2Proof.Machine.execSpareReq k p lane s
  | .spareAck k p lane => Sys2Proof.Machine.execSpareAck k p lane s
  | .spareTrainDone p frame => Sys2Proof.Machine.execSpareTrainDone p frame s
  | .spareSwitch k p lane frame => Sys2Proof.Machine.execSpareSwitch k p lane frame s
  | .spareSwitchFrame p rx => Sys2Proof.Machine.execSpareSwitchFrame p rx s
  | .wagJobWrite f k j value => Sys2Proof.Machine.execWagJobWrite f k j value s
  | .wagLeaseWrite f k rx p slot value => Sys2Proof.Machine.execWagLeaseWrite f k rx p slot value s
  | .leaseCommit f k j => Sys2Proof.Machine.execLeaseCommit f k j s
  | .leaseRelease f k j => Sys2Proof.Machine.execLeaseRelease f k j s
  | .localTxSlot k p => Sys2Proof.Machine.execLocalTxSlot k p s
  | .transitFlitReceive k p flit => Sys2Proof.Machine.execTransitFlitReceive k p flit s
  | .transitTxSlot k p => Sys2Proof.Machine.execTransitTxSlot k p s
  | .dataFlitReceive k p flit => Sys2Proof.Machine.execDataFlitReceive k p flit s
  | .flitWriteVisible k flow => Sys2Proof.Machine.execFlitWriteVisible k flow s
  | .alarmReceive k p rec => Sys2Proof.Machine.execAlarmReceive k p rec s
  | .voteRecordReceive k p rec => Sys2Proof.Machine.execVoteRecordReceive k p rec s
  | .verdictRecordReceive k p rec => Sys2Proof.Machine.execVerdictRecordReceive k p rec s
  | .abortedExpire k j => Sys2Proof.Machine.execAbortedExpire k j s
  | .wireFrameReceive k p flit => Sys2Proof.Machine.execWireFrameReceive k p flit s
  | .hostLinkUp gts width => Sys2Proof.Machine.execHostLinkUp gts width s
  | .keyProg f set => Sys2Proof.Machine.execKeyProg f set s
  | .spdmSessionEstablish chan => Sys2Proof.Machine.execSpdmSessionEstablish chan s
  | .cancelUpdate => Sys2Proof.Machine.execCancelUpdate s

end Sys2Proof.Machine
end

