-- ==== Sys2Proof/Safety.lean ====
section
/-! DEFINITION. What a safe run is, and the pieces of the state that frames speak of. -/

namespace Sys2Proof

/-- A step that answers a next state. -/
def Safe (s : Machine.State) : Prop := ∃ t, Machine.step s = .next t

/-- Every state along n steps is safe. -/
def SafeFor : Nat → Machine.State → Prop
  | 0, _ => True
  | n + 1, s => ∃ t, Machine.step s = .next t ∧ SafeFor n t

namespace Machine

/-- The pieces of the state: what a frame names as possibly changed. -/
inductive Piece where
  /-- The trace of what left the module; the host port's queues; the free-value counter. -/
  | out | host | draws
  /-- Of every comb: partition map and power bits; hum; sequencer; cell memories (stores, vector registers, statistics);
  cell queues, running operations and tile buffers; cell, entropy, generator, vector and row registers; comb store; router. -/
  | combMap | hum | seq | cellMem | cellRun | combRegs | combMem | router
  /-- Of every super: stored data and what DRAM returns of it; counters, tree and node cache; key slots; all other registers with
  the link and what waits at it; the Hild unit. -/
  | superMem | superTree | superKeys | superRegs | hild
  /-- Of every partition: size and life; context; rings; event ring; semaphores; region table; everything else. -/
  | partMap | ctx | rings | evq | sems | regions | partRegs
  /-- The functions; of every die, fuses with the repair record, throttle causes with the
  temperature, and all else; the ports; the queens; the power controller;
  the flash; boot; management; the event registers; the module registers. -/
  | fns | fuses | causes | dies | ports | queen | power | flash | boot | mgmt | evt | mod
  deriving DecidableEq, Repr

/-- What a fault that escalates to a module reset may change: everything but the queue, the flash, the throttle causes and the
power controller. -/
def faultPieces : List Piece := [.out, .host, .draws, .combMap, .hum, .seq, .cellMem, .cellRun, .combRegs, .combMem,
  .router, .superMem, .superTree, .superKeys, .superRegs, .hild, .partMap, .ctx, .rings, .evq, .sems, .regions,
  .partRegs, .fns, .fuses, .dies, .ports, .queen, .boot, .mgmt, .evt, .mod]

/-- What a power-down may change: everything but the queue, the trace, the fuses and the flash (R539, R544). -/
def downPieces : List Piece := [.host, .draws, .combMap, .hum, .seq, .cellMem, .cellRun, .combRegs, .combMem, .router,
  .superMem, .superTree, .superKeys, .superRegs, .hild, .partMap, .ctx, .rings, .evq, .sems, .regions, .partRegs, .fns,
  .causes, .dies, .ports, .queen, .power, .boot, .mgmt, .evt, .mod]

/-- What a program fault on a comb may change. -/
def progPieces : List Piece := [.out, .host, .draws, .seq, .cellMem, .cellRun, .combMem, .superMem, .superTree, .hild,
  .ctx, .rings, .evq, .partRegs, .mod]

/-- A cell with the named pieces blanked. -/
def CellState.without (m : List Piece) (c : CellState) : CellState where
  store := if m.contains .cellMem then [] else c.store
  vregs := if m.contains .cellMem then [] else c.vregs
  stats := if m.contains .cellMem then [] else c.stats
  queue := if m.contains .cellRun then [] else c.queue
  running := if m.contains .cellRun then [] else c.running
  banks := if m.contains .cellRun then .replicate 8 none else c.banks

/-- A comb with the named pieces blanked. -/
def CombState.without (m : List Piece) (c : CombState) : CombState where
  assigned := if m.contains .combMap then false else c.assigned
  psize := if m.contains .combMap then 0 else c.psize
  pbase := if m.contains .combMap then 0 else c.pbase
  subst := if m.contains .combMap then 0 else c.subst
  grpPwr := if m.contains .combMap then 0 else c.grpPwr
  sparePwr := if m.contains .combMap then false else c.sparePwr
  seqPwr := if m.contains .combMap then false else c.seqPwr
  routerPwr := if m.contains .combMap then false else c.routerPwr
  hum := if m.contains .hum then {} else c.hum
  seq := if m.contains .seq then {} else c.seq
  cells := c.cells.map (CellState.without m)
  cellRegs := if m.contains .combRegs then {} else c.cellRegs
  rng := if m.contains .combRegs then {} else c.rng
  gens := if m.contains .combRegs then {} else c.gens
  vecSat := if m.contains .combRegs then {} else c.vecSat
  vecCollide := if m.contains .combRegs then {} else c.vecCollide
  rowEmpty := if m.contains .combRegs then {} else c.rowEmpty
  rowIgnored := if m.contains .combRegs then {} else c.rowIgnored
  rowClipWr := if m.contains .combRegs then {} else c.rowClipWr
  clip := if m.contains .combRegs then 0 else c.clip
  clipSealed := if m.contains .combRegs then false else c.clipSealed
  store := if m.contains .combMem then [] else c.store
  router := if m.contains .router then {} else c.router

/-- A super with the named pieces blanked. -/
def SuperState.without (m : List Piece) (u : SuperState) : SuperState :=
  { (if m.contains .superRegs then ({} : SuperState) else u) with
    mem := if m.contains .superMem then [] else u.mem
    zeroed := if m.contains .superMem then [] else u.zeroed
    dramErr := if m.contains .superMem then [] else u.dramErr
    fill := if m.contains .superMem then 0 else u.fill
    ctr := if m.contains .superTree then [] else u.ctr
    nodeCtr := if m.contains .superTree then [] else u.nodeCtr
    kTree := if m.contains .superTree then 0 else u.kTree
    kPoison := if m.contains .superTree then 0 else u.kPoison
    cache := if m.contains .superTree then [] else u.cache
    poison := if m.contains .superTree then [] else u.poison
    badNodes := if m.contains .superTree then [] else u.badNodes
    tree := if m.contains .superTree then 0 else u.tree
    slots := if m.contains .superKeys then .replicate 64 {} else u.slots
    toScrub := if m.contains .superKeys then [] else u.toScrub
    hild := if m.contains .hild then {} else u.hild }

/-- A partition with the named pieces blanked. -/
def PartState.without (m : List Piece) (q : PartState) : PartState :=
  { (if m.contains .partRegs then ({} : PartState) else q) with
    live := if m.contains .partMap then false else q.live
    psize := if m.contains .partMap then 0 else q.psize
    ctx := if m.contains .ctx then {} else q.ctx
    rings := if m.contains .rings then .replicate 16 {} else q.rings
    evq := if m.contains .evq then {} else q.evq
    sems := if m.contains .sems then [] else q.sems
    rgn := if m.contains .regions then .replicate 16 {} else q.rgn
    locked := if m.contains .regions then false else q.locked
    ready := if m.contains .regions then false else q.ready
    mapErr := if m.contains .regions then 0 else q.mapErr }

/-- A die with the named pieces blanked. -/
def DieState.without (m : List Piece) (d : DieState) : DieState :=
  { (if m.contains .dies then ({} : DieState) else d) with
    svn := if m.contains .fuses then 0 else d.svn
    revoke := if m.contains .fuses then 0 else d.revoke
    unlocks := if m.contains .fuses then 0 else d.unlocks
    repair := if m.contains .fuses then [] else d.repair
    uv := if m.contains .causes then false else d.uv
    overpwr := if m.contains .causes then false else d.overpwr
    thermDie := if m.contains .causes then false else d.thermDie
    therm4 := if m.contains .causes then false else d.therm4
    thermDram := if m.contains .causes then 0 else d.thermDram
    temp := if m.contains .causes then 0 else d.temp }

/-- Boot with the named pieces blanked. -/
def Boot.without (m : List Piece) (b : Boot) : Boot :=
  { (if m.contains .boot then ({} : Boot) else b) with
    flash := if m.contains .flash then [] else b.flash
    erased := if m.contains .flash then false else b.erased }

/-- The state with the named pieces blanked. The queue is never one of them. -/
def State.without (m : List Piece) (s : State) : State where
  pending := s.pending
  out := if m.contains .out then [] else s.out
  host := if m.contains .host then {} else s.host
  draws := if m.contains .draws then 0 else s.draws
  combs := s.combs.map (CombState.without m)
  supers := s.supers.map (SuperState.without m)
  parts := s.parts.map (PartState.without m)
  fns := if m.contains .fns then .replicate 9 {} else s.fns
  dies := s.dies.map (DieState.without m)
  ports := if m.contains .ports then .replicate 8 {} else s.ports
  queen := if m.contains .queen then {} else s.queen
  power := if m.contains .power then {} else s.power
  boot := s.boot.without m
  mgmt := if m.contains .mgmt then {} else s.mgmt
  evt := if m.contains .evt then {} else s.evt
  mod := if m.contains .mod then {} else s.mod

/-- The pieces that a command may change, whatever its operands and the state. -/
def touches : Instr → List Piece
  | .registerWrite .. => .power :: .flash :: faultPieces
  | .w1cWrite .. | .lowHalfRead .. =>
      [.out, .hum, .seq, .combRegs, .router, .superRegs, .hild, .rings, .evq, .partRegs, .fns, .dies, .queen, .power,
       .evt, .mod]
  | .inputPowerGood .. => [.power, .boot]
  | .undervoltageDetect .. | .powerSample .. | .overpowerSustained .. | .thermalSample .. => .causes :: .power :: faultPieces
  | .undervoltageClear .. => [.causes, .power, .mgmt]
  | .inputFault .. | .railFault .. => downPieces
  | .latchRelease .. => [.power]
  | .overpowerClear .. | .thermalDiv4End .. | .thermalClear .. => [.causes]
  | .pwrLimitWrite .. => [.power, .mgmt]
  | .energyReport64 .. => [.partRegs]
  | .fabricRefLoss .. | .pcieRefLoss .. | .pllUnlock .. => .power :: faultPieces
  | .refReturn .. => [.router, .power]
  | .bootStart .. => [.queen, .power, .boot]
  | .imageLoaded .. | .recoveryFlashDone .. =>
      [.draws, .combMap, .hum, .combRegs, .router, .superMem, .superTree, .superKeys, .superRegs, .ctx, .dies, .queen,
       .boot, .mod]
  | .bootReady .. | .enterRecovery .. | .activateFirmware .. | .reset .. | .modRstNRelease .. | .resetComb ..
    | .resetSuper .. | .resetStrandPort .. | .resetPartition .. | .resetModuleWarm .. | .resetModuleCold ..
    | .superResetDone .. | .combWatchdog .. | .superWatchdog .. | .hildWatchdog .. | .foragerWatchdog ..
    | .crownSidebandSilent .. | .smokeDrainDone .. | .drainDeadline .. | .recoveryDone .. | .ewWindowEnd ..
    | .supersedure .. | .queenRegionLoss .. | .holdoverExpire .. | .elasticSlip .. | .controlSlot ..
    | .beatGridStart .. | .beatBoundary .. | .compute .. | .copy .. | .fabric .. | .timetable .. | .checkpoint ..
    | .checkpointStepReady .. | .snapshotCopyDone .. | .checkpointShardsVisible .. | .checkpointManifestVisible ..
    | .restore .. | .restorePass1Done .. | .restorePass2Done .. | .egress .. | .predicateResolve ..
    | .retentionRelease .. | .transferComplete .. | .cellOpComplete .. | .cellFault .. | .hildRunStart ..
    | .hildGroupDone .. | .hildRunDone .. | .memoryRead .. | .memoryWrite .. | .partialWrite ..
    | .treeFormatDone .. | .patrolScrubRead .. | .rowRepairDone .. | .linkReplayLimit .. | .linkAuthFail ..
    | .bar2Read .. | .hostReadFail .. | .ideCheckFail .. | .hotReset .. | .hostLinkDown .. | .perstNAssert ..
    | .coordWrite .. | .portmapWrite .. | .laneHardFail .. | .localTxSlot .. | .dataFlitReceive ..
    | .flitWriteVisible .. | .alarmReceive .. | .verdictRecordReceive .. => faultPieces
  | .commitSvn .. => [.fuses, .boot]
  | .rcvGo .. => [.flash, .boot]
  | .entdaa .. | .setdasa .. | .rstdaa .. | .doeAbort .. | .spdmSessionEstablish .. => [.mgmt]
  | .getpid .. | .getbcr .. | .getdcr .. | .getmxds .. | .getSensorReading .. | .getStateSensorReadings ..
    | .help .. | .ver .. | .stat .. | .sum .. | .sens .. | .log .. | .getMeasurements .. => [.out]
  | .setEndpointId .. | .pollForPlatformEventMessage .. | .traceOn .. | .traceOff .. => [.out, .mgmt]
  | .setNumericEffecterValue .. => [.out, .power, .mgmt]
  | .pldmUpdateComponent .. => [.out, .combMem, .flash, .boot, .mgmt]
  | .pldmTransferData .. => [.out, .combMem, .flash, .mgmt]
  | .verifyComplete .. | .cancelUpdate .. => [.out, .flash, .boot, .mgmt]
  | .peek .. => [.out, .superRegs]
  | .perstNRelease .. | .hostLinkUp .. => [.mod]
  | .heartbeat .. => [.out, .queen]
  | .sidebandMessageReceive .. => [.out, .host, .evq, .dies, .queen, .mgmt, .mod]
  | .configWrite .. =>
      [.draws, .combMap, .hum, .combRegs, .router, .superMem, .superTree, .superKeys, .superRegs, .hild, .fuses, .queen,
       .mod]
  | .partitionCreate .. =>
      [.out, .host, .draws, .combMap, .hum, .seq, .cellMem, .cellRun, .combRegs, .combMem, .router, .superMem,
       .superTree, .superKeys, .superRegs, .partMap, .ctx, .rings, .evq, .sems, .regions, .partRegs, .queen, .mod]
  | .partitionRemove .. => .hum :: .router :: .fns :: .queen :: progPieces
  | .removeSlotsEmpty .. =>

       .combMap :: .hum :: .combRegs :: .router :: .superKeys :: .superRegs :: .partMap :: .sems :: .regions :: .queen :: progPieces
  | .endContext .. => .hum :: .router :: .queen :: progPieces
  | .retireFlushDone .. => [.superKeys]
  | .keyScrubDone .. =>
      [.draws, .combMap, .hum, .combRegs, .router, .superMem, .superTree, .superKeys, .superRegs, .ctx, .partRegs, .queen]
  | .bind .. =>
      [.out, .draws, .combMap, .hum, .combRegs, .router, .superMem, .superTree, .superKeys, .superRegs, .hild, .ctx,
       .queen]
  | .key .. =>
      [.out, .draws, .combMap, .hum, .combRegs, .router, .superMem, .superTree, .superKeys, .superRegs, .ctx, .queen]
  | .debugChallenge .. => [.out, .draws, .queen]
  | .debugUnlock .. => .hum :: .combRegs :: .router :: .fuses :: .queen :: progPieces
  | .humCfgWrite .. => [.hum, .queen, .mod]
  | .humSyncReceive .. => [.draws, .hum, .router]
  | .humLockAcquired .. | .humOffsetExceeded .. => [.hum]
  | .frame64Poll .. | .doorbellReadDone .. => [.out, .host, .rings, .evq, .mod]
  | .descriptorFetchDone .. => [.out, .host, .rings, .partRegs]
  | .descriptorStart .. | .syncWaitGe .. | .syncWaitEq .. | .fence .. | .ringEnable .. | .ringDisable .. => [.rings]
  | .update .. => [.hild, .rings]
  | .syncSet .. | .syncAdd .. => [.seq, .rings, .sems]
  | .smoke .. => .hum :: .router :: progPieces
  | .descriptorComplete .. => [.out, .host, .seq, .rings, .sems]
  | .eventRingEnable .. | .eventRingDisable .. => [.evq, .mod]
  | .nop .. | .endProg .. | .jump .. | .bnz .. | .loop .. | .seqFence .. | .ldi .. | .ldhi .. | .seqAdd ..
    | .seqAddi .. | .seqSub .. | .seqMul .. | .seqAnd .. | .seqOr .. | .seqXor .. | .seqShl .. | .seqShr ..
    | .seqLd .. | .seqSt .. | .rdbeat .. | .rdhum .. | .pcheck .. | .psem .. | .pset .. | .fclr .. | .cell ..
    | .hild .. | .semWaitGe .. | .semWaitEq .. | .vecLd .. | .vecLdb .. | .gather .. | .scatadd .. | .vecAdd ..
    | .vecSub .. | .vecMul .. | .vecFma .. | .vecAddi .. | .muli .. | .fmai .. | .vecMax .. | .vecMin .. | .maxi ..
    | .mini .. | .vecAbs .. | .neg .. | .vecDiv .. | .vecSqrt .. | .vecCmp .. | .vecSel .. | .vecExp .. | .exp2 ..
    | .vecLog .. | .rcp .. | .vecRsqrt .. | .tanh .. | .sigmoid .. | .gelu .. | .iadd .. | .isub .. | .vecAnd ..
    | .vecOr .. | .vecXor .. | .vecShl .. | .vecShr .. | .ftoi .. | .itof .. | .iota .. | .movi .. | .rsum ..
    | .rmax .. | .rmin .. | .ramax .. | .rsumsq .. => progPieces
  | .programEnd .. => [.out, .host, .draws, .seq, .combRegs, .rings, .evq, .partRegs, .mod]
  | .beatDone .. => .hum :: progPieces
  | .pvote .. => .router :: progPieces
  | .move .. => .superRegs :: .fns :: progPieces
  | .semSet .. | .semAdd .. => .sems :: progPieces
  | .memoryWriteAck .. => [.seq]
  | .matmul .. | .bwdPair .. | .vprog .. | .vecSt .. | .scatter .. | .uaddsat .. | .lnFwd .. | .rmsFwd ..
    | .lnBwd .. | .rmsBwd .. | .smFwd .. | .smMerge .. | .smBwd .. | .xent .. | .rowdot .. | .attnDs ..
    | .pexnorm .. | .clipscale .. | .attn .. => .combRegs :: progPieces
  | .cellCorrectedError .. => [.combRegs, .partRegs]
  | .spareSwapDone .. => [.out, .host, .combMap, .cellMem, .cellRun, .combRegs, .partRegs, .fuses, .queen, .mod]
  | .entropyStartupDone .. => [.out, .host, .draws, .combRegs, .evq, .mod]
  | .entropyHealthFail .. | .rowClipWrite .. => [.combRegs]
  | .hldEnd .. | .hldLd .. | .hldSt .. | .hldAdd .. | .hldSub .. | .hldMul .. | .hldFma .. | .hldDiv ..
    | .hldSqrt .. | .hldRsqrt .. | .hldMax .. | .hldMin .. | .hldAbs .. | .sign .. | .hldCmp .. | .hldSel ..
    | .clamp .. | .hldExp .. | .noise .. | .rnd .. => [.hild]
  | .regionCommit .. => [.superRegs, .regions]
  | .regionInitDone .. => [.superMem, .superTree, .regions]
  | .dramRefresh .. => [.superRegs]
  | .linkFlitCrcFail .. => [.superRegs, .partRegs]
  | .bar2Write .. => [.combMem, .superRegs, .mod]
  | .malformedMmio .. => [.out, .fns]
  | .kSetGo .. | .lockInterfaceRequest .. | .startInterfaceRequest .. | .pciConfigWrite .. | .d3hotEnter ..
    | .busMasterClear .. | .memorySpaceClear .. | .keyProg .. => [.fns]
  | .stopInterfaceRequest .. | .vfFlr .. | .pf0Flr .. | .vfEnableClear .. => .hum :: .router :: .fns :: progPieces
  | .trainingDone .. | .trainingTimeout .. => [.out, .host, .router, .evt, .mod]
  | .trainingRetry .. | .transitFlitReceive .. | .voteRecordReceive .. | .abortedExpire .. | .wireFrameReceive .. =>
      [.router]
  | .laneErrorWindow .. | .spareSwitchFrame .. => [.router, .partRegs, .ports]
  | .spareReq .. | .spareTrainDone .. => [.router, .ports]
  | .spareAck .. | .spareSwitch .. => [.ports]
  | .wagJobWrite .. => [.router, .queen]
  | .wagLeaseWrite .. => [.draws, .combMap, .hum, .combRegs, .router, .superMem, .superTree, .superKeys, .superRegs, .queen]
  | .leaseCommit .. | .leaseRelease .. => [.router, .ctx]
  | .transitTxSlot .. => [.out, .router]

/-- t differs from s at most in the named pieces. -/
def Within (m : List Piece) (s t : State) : Prop := t.without m = s.without m

/-- Command c, commanded in s, answers a next state, and that state satisfies P. -/
def Does (c : Instr) (s : State) (P : State → Prop) : Prop := ∃ t, exec c s = .next t ∧ P t

/-- What leaves the module when a request of function f is issued in s (R424, R431). -/
def HostItem.sent (s : State) (f : Fn) : HostItem → Output
  | .read a n _ => asSent s f (.hostRead f a n)
  | .post _ o => asSent s f o

/-- From s to t the posted writes xs of function f left in their order, or, where the function may not issue requests or others
wait before them, joined its queue (R16, R426). -/
def Posted (f : Fn) (xs : List HostItem) (s t : State) : Prop :=
  if s.host.waiting[f] = [] ∧ canRequest s f = true then t.out = (xs.map (HostItem.sent s f)).reverse ++ s.out ∧ t.host = s.host
  else t.out = s.out ∧ t.host.waiting[f] = s.host.waiting[f] ++ xs

/-- In t the descriptor d of a ring is decided with a status, DETAIL and DETAIL2 (R99, R101). -/
def Ended (t : State) (p : Part) (r : Ring) (d : Desc) (st : Byte) (x : Word) (y : BitVec 56) : Prop :=
  ∃ e ∈ t.parts[p].rings[r].descs, e.idx = d.idx ∧ e.stage = .done ∧ e.status = st ∧ e.detail = x ∧ e.detail2 = y

/-- In t partition p, a member of s, is stopped with a recovery begun for status st, every comb of it halted (R499). -/
def Stopped (p : Part) (st : Byte) (s t : State) : Prop :=
  t.parts[p].stopped = true ∧ (∃ r, t.parts[p].recov = [r] ∧ r.cause1 = st ∧ r.scope = 0 ∧ r.teardown = false) ∧
  ∀ k : Comb, inPart s p k = true → t.combs[k].seq.state = 3

/-- The power controller, the boot stage and the module state are ones the spec names (R511, R543, R544, R546, R562). -/
def LegalState (s : State) : Prop :=
  900 ≤ s.power.limit.toNat ∧ s.power.limit.toNat ≤ 1500 ∧ (s.power.latched = true → s.power.pwrgd = false) ∧
  (s.power.pwrgd = false → s.power.rails.toNat ≤ 1) ∧
  (s.boot.stage = 0 ∨ s.boot.stage = 1 ∨ s.boot.stage = 4 ∨ s.boot.stage = 5 ∨ s.boot.stage = 6) ∧ s.evt.modState.toNat ≤ 2

end Machine

end Sys2Proof
end

