-- ==== Sys2Proof/Certificates/Slice0/Obligations.lean ====
section
/-! DEFINITION. The statements for the provers, chapter by chapter of the spec. -/

open Sys2Proof Sys2Proof.Machine

/-! ### The queue and the whole machine -/

/-- One step with command c at the front of the queue is c on the state with the queue's rest. The opcode table gives no row any
bits, so no word spells a command, and placing a word leaves the state. -/
def Obligations.StepRunsFront : Prop :=
  (∀ (c : Instr) (s : State), step { s with pending := c :: s.pending } = exec c s) ∧
  (∀ (s : State) (n w : Nat), decodeTableWord n w = none ∧ s.withFetchWord n w = s)

/-- On an empty queue one slot of 12.8 ns passes (the model's choice, log entry 3): the hum of every powered router runs on
by 16 router clocks, by one more or less where slewing has gathered a whole clock (log entry 12), and never skips a slot; sequencers
change at most their watchdog count and only as a frame ends, nothing else changes. -/
def Obligations.EmptyQueuePassesASlot : Prop := ∀ s : State, s.pending = [] → ∃ t, step s = .next t ∧
  (∀ k : Comb, s.combs[k].routerPwr = false → t.combs[k].hum = s.combs[k].hum) ∧
  (∀ k : Comb, s.combs[k].routerPwr = true → ∃ (n : Nat) (c : Int),
    t.combs[k].hum = { s.combs[k].hum with time := s.combs[k].hum.time + n, carry := c } ∧ (n = 960 ∨ n = 1024 ∨ n = 1088) ∧
    (s.combs[k].hum.time + n) / 1024 ≤ s.combs[k].hum.time / 1024 + 1 ∧
    (s.combs[k].hum.slew = 0 → s.combs[k].hum.carry = 0 → n = 1024)) ∧
  (∀ k : Comb, frameOf t k = frameOf s k → t.combs[k].seq = s.combs[k].seq) ∧ Within [.hum, .seq] s t

/-- Every command answers a next state, and changes at most the pieces that `touches` lists for it: never the queue. -/
def Obligations.CommandsKeepToTheirPieces : Prop := ∀ (c : Instr) (s : State), Does c s (Within (touches c) s)

/-- Every step keeps the power controller, the boot stage and the module state among those the spec names. -/
def Obligations.StepsKeepLegal : Prop := ∀ s t : State, LegalState s → step s = .next t → LegalState t

/-- The state after power-on (R9, R542, R546, R562): every rail in regulation, stage ROM, the sustained limit at 1,500 W, no
partition, no crown epoch, every sequencer idle, no command waiting; and it is a legal state. That the state is taken with
the rails already in regulation is the model's choice (log entry 5). -/
def Obligations.ResetIsAsTheSpecSays : Prop :=
  LegalState State.reset ∧ State.reset.power.rails = 0x3FF ∧ State.reset.power.limit = 1500 ∧ State.reset.boot.stage = 0 ∧
  (∀ p : Part, State.reset.parts[p].live = false ∧ State.reset.parts[p].ctx.state = 0) ∧
  (∀ k : Comb, State.reset.combs[k].seq.state = 0 ∧ State.reset.combs[k].seq.runahead = 64 ∧ State.reset.combs[k].subst = 31 ∧
    State.reset.combs[k].clip = 0x7F800000) ∧
  State.reset.evt.drain = 50 ∧ State.reset.evt.wdogLim = 2385 ∧ State.reset.queen.epoch = 0 ∧ State.reset.pending = []

/-! ### Registers (R5–R8) -/

/-- R8: a read of the lower half of a 64-bit register returns it and latches the upper half; the next read of the upper half by
the same function returns the latched value and drops it; a 32-bit register and an 8-byte read return the value itself. A
4-byte write to either half of a 64-bit register changes nothing. -/
def Obligations.ReadsAndHalfWrites : Prop :=
  (∀ (s : State) (f : Fn) (r : Reg), accessTaken s f r = true → reaches s f r = true →
   (regWide r = true → Does (.lowHalfRead f r .low4) s fun t =>
     t.out = .mmioData f r (w64 (regVal s f r % 2 ^ 32)) :: s.out ∧ latchOf t f r = some (w32 (regVal s f r / 2 ^ 32)) ∧
     (∀ g, g ≠ r → latchOf t f g = latchOf s f g)) ∧
   (∀ w, regWide r = true → latchOf s f r = some w → Does (.lowHalfRead f r .high4) s fun t =>
     t.out = .mmioData f r (w.setWidth 64) :: s.out ∧ latchOf t f r = none) ∧
   (∀ acc, regWide r = false ∨ acc = .whole → Does (.lowHalfRead f r acc) s fun t =>
     t.out = .mmioData f r (w64 (regVal s f r)) :: s.out ∧ ∀ g, latchOf t f g = latchOf s f g)) ∧
  (∀ (s : State) (f : Fn) (r : Reg) (acc : Acc) (v : DWord),
   accessTaken s f r = true → regWide r = true → acc ≠ .whole →
   exec (.registerWrite f r acc v) s = .next s ∧ exec (.w1cWrite f r acc v) s = .next s)

/-- The set-wins rule (R7): a bit that function f has read as 1 clears on f's write, its count kept; one that hardware set
again since, or that only another function has read, stays; and W1C_WRITE applies this to each bit written as 1. -/
def Obligations.ClearsOnlySeenEvents : Prop :=
  (∀ (f : Fn) (x : Sticky), x.on = true → (clearBy f (observe f x)).on = false ∧ (clearBy f (observe f x)).cnt = x.cnt) ∧
  (∀ (f : Fn) (w : Nat) (x : Sticky), clearBy f (hit w x) = hit w x ∧ (hit w x).on = true ∧ (hit w x).cnt = (x.cnt + 1) % 2 ^ w) ∧
  (∀ (f g : Fn) (w : Nat) (x : Sticky), f ≠ g → clearBy f (observe g (hit w x)) = observe g (hit w x)) ∧
  (∀ (s : State) (acc : Acc) (v : DWord), accessTaken s 0 .evtStatus = true → reaches s 0 .evtStatus = true →
    Does (.w1cWrite 0 .evtStatus acc v) s fun t =>
      t.evt.recovery = (if v.getLsbD 8 then clearBy 0 s.evt.recovery else s.evt.recovery) ∧
      t.evt.escalate = (if v.getLsbD 9 then clearBy 0 s.evt.escalate else s.evt.escalate) ∧
      t.evt.drainTo = (if v.getLsbD 10 then clearBy 0 s.evt.drainTo else s.evt.drainTo) ∧
      t.evt.wdog = (if v.getLsbD 11 then clearBy 0 s.evt.wdog else s.evt.wdog) ∧ Within [.evt] s t) ∧
  (∀ (s : State) (f : Fn) (k : Comb) (v : DWord), accessTaken s f (.seqStatus k) = true → reaches s f (.seqStatus k) = true →
    Does (.w1cWrite f (.seqStatus k) .whole v) s fun t =>
      t = s.modSeq k fun q => { q with
        squash := if v.getLsbD 16 then clearBy f q.squash else q.squash
        retainFull := if v.getLsbD 17 then clearBy f q.retainFull else q.retainFull
        progFault := if v.getLsbD 18 then clearBy f q.progFault else q.progFault })

/-- Writes of RW fields (R5, R6): the field takes the value, bits outside it store nothing, everything else stays. -/
def Obligations.WritesSetTheirField : Prop := ∀ (s : State) (v : DWord),
  (∀ acc, accessTaken s 0 .evtDrain = true → reaches s 0 .evtDrain = true →
    exec (.registerWrite 0 .evtDrain acc v) s = .next { s with evt := { s.evt with drain := v.setWidth 16 } }) ∧
  (∀ acc, accessTaken s 0 .evtWdog = true → reaches s 0 .evtWdog = true →
    exec (.registerWrite 0 .evtWdog acc v) s = .next { s with evt := { s.evt with wdogLim := v.setWidth 16 } }) ∧
  (∀ (f : Fn) (k : Comb) (acc : Acc), accessTaken s f (.seqCfg k) = true → reaches s f (.seqCfg k) = true →
    exec (.registerWrite f (.seqCfg k) acc v) s = .next (if s.combs[k].seq.state = 0 then
      s.modSeq k fun q => { q with runahead := v.setWidth 7 } else s)) ∧
  (∀ (f : Fn) (p : Part), f = fnOf p → accessTaken s f .hiveAddr = true → reaches s f .hiveAddr = true →
    exec (.registerWrite f .hiveAddr .whole v) s = .next (s.modPart p fun q => { q with hiveAddr := v &&& 0xFFFFFFFFFFFFF000 })) ∧
  (∀ (f : Fn) (k : Super), f ≠ 0 → accessTaken s f (.hldGtab k) = true → reaches s f (.hldGtab k) = true →
    exec (.registerWrite f (.hldGtab k) .whole v) s = .next (if s.supers[k].hild.state ≠ 0 ∨ s.supers[k].hild.queue ≠ [] then s
      else s.modHild k fun h => { h with gtab := v &&& 0xFFFFFFFFFFFFF000 }))

/-! ### Power, clocks and thermal (R538–R556) -/

/-- R540, R543, R544: good input brings a module that is off and not latched up; a rail that fails powers it down and
latches it off; an input outside its range powers it down; VDD_HK (rail 0) stays on above 20 V; the latch ends below 20 V. Fuses,
flash and queue stay. -/
def Obligations.PowerUpPowerDownAndLatch : Prop := ∀ s : State,
  (∀ mV, 49000 ≤ mV → s.power.pwrgd = false → s.power.latched = false → Does (.inputPowerGood mV) s fun t =>
    t.power.rails = 0x3FF ∧ t.power.pwrgd = true ∧ t.power.limit = 1500 ∧ t.power.thermtripN = true ∧ Within [.power, .boot] s t) ∧
  (∀ mV, s.power.latched = true → exec (.inputPowerGood mV) s = .next s) ∧
  (∀ rail, s.power.latched = false → Does (.railFault rail) s fun t =>
    t.power.rails = 1 ∧ t.power.pwrgd = false ∧ t.power.latched = true ∧ Within downPieces s t) ∧
  (∀ mV, mV < 47000 ∨ 66000 < mV → s.power.pwrgd = true → Does (.inputFault mV) s fun t =>
    t.power.rails = (if 20000 < mV then 1 else 0) ∧ t.power.pwrgd = false ∧ t.power.latched = false ∧ Within downPieces s t) ∧
  (∀ mV, mV < 20000 → s.power.latched = true → Does (.latchRelease mV) s fun t =>
    t.power = { s.power with latched := false, thermtripN := true, rails := 0 } ∧ Within [.power] s t) ∧
  (∀ mV, 20000 ≤ mV → exec (.latchRelease mV) s = .next s)

/-- R545, R554: an input below 50 V, a sample above 1,600 W and a sustained overpower throttle both dies; the causes clear on
both dies; a sample at or below 1,600 W is only taken. -/
def Obligations.ThrottlesOfBothDies : Prop := ∀ s : State, s.power.pwrgd = true →
  (∀ mV, mV < 50000 → Does (.undervoltageDetect mV) s fun t => (∀ d : Die, t.dies[d].uv = true) ∧
    t.power.volt = BitVec.ofNat 16 mV ∧ Within (.causes :: .power :: faultPieces) s t) ∧
  (∀ mV, 51000 ≤ mV → Does (.undervoltageClear mV) s fun t =>
    (∀ d : Die, t.dies[d] = { s.dies[d] with uv := false }) ∧ t.power.volt = BitVec.ofNat 16 (min mV 65535) ∧
    Within [.causes, .power, .mgmt] s t) ∧
  (∀ watts avg mV mA : BitVec 16, Does (.powerSample watts avg mV mA) s fun t =>
    t.power.volt = mV ∧ t.power.curr = mA ∧ t.power.watts = watts ∧ t.power.avg = avg ∧
    (1600 < watts.toNat → ∀ d : Die, t.dies[d].overpwr = true) ∧ (watts.toNat ≤ 1600 → Within [.power, .mgmt] s t)) ∧
  (Does .overpowerSustained s fun t => (∀ d : Die, t.dies[d].overpwr = true) ∧
    ((∃ d : Die, s.dies[d].overpwr = false) → t.power.overpwr = hit 16 s.power.overpwr)) ∧
  (Does .overpowerClear s fun t => (∀ d : Die, t.dies[d] = { s.dies[d] with overpwr := false }) ∧ Within [.causes] s t)

/-- R551–R553: the hottest sensor of its scope counts, the last reading where none is sampled. A junction sensor at 115 °C or a DRAM
sensor at 100 °C trips the module; a cooler sample is recorded, and a die at 100 °C or a DRAM die at 90 °C takes the THERMAL cause,
divide by 4 from 108 °C; the causes end on their clears. -/
def Obligations.TemperaturesThrottleAndTrip : Prop :=
  (∀ (last x : Int) (l : List Int), hottestOf last [] = last ∧ hottestOf last (x :: l) ∈ x :: l ∧
    ∀ y ∈ x :: l, y ≤ hottestOf last (x :: l)) ∧ ∀ s : State,
  (∀ (die0 die1 : List Int) (dram : List (List Int)), s.power.pwrgd = true →
    ((∃ x ∈ die0 ++ die1, 115 ≤ x) ∨ ∃ k : Super, ∃ x ∈ dram.getD k.val [], 100 ≤ x) →
    Does (.thermalSample die0 die1 dram) s fun t => t.power.thermtripN = false ∧ t.power.latched = true ∧ t.power.pwrgd = false ∧
      t.power.rails = 1 ∧ Within downPieces s t) ∧
  (∀ (die0 die1 : List Int) (dram : List (List Int)), s.power.pwrgd = true → hottestOf s.dies[(0 : Die)].temp die0 < 115 →
    hottestOf s.dies[(1 : Die)].temp die1 < 115 → (∀ k : Super, hottestOf s.power.tSup[k] (dram.getD k.val []) < 100) →
    Does (.thermalSample die0 die1 dram) s fun t =>
      t.dies[(0 : Die)].temp = hottestOf s.dies[(0 : Die)].temp die0 ∧ t.dies[(1 : Die)].temp = hottestOf s.dies[(1 : Die)].temp die1 ∧
      (∀ d : Die, t.dies[d].thermDie = (s.dies[d].thermDie || decide (100 ≤ t.dies[d].temp)) ∧
        t.dies[d].therm4 = (s.dies[d].therm4 || decide (108 ≤ t.dies[d].temp))) ∧
      (∀ k : Super, t.power.tSup[k] = hottestOf s.power.tSup[k] (dram.getD k.val []) ∧ (90 ≤ t.power.tSup[k] →
        t.dies[dieOf k].thermDram.getLsbD k.val = true)) ∧
      t.power.pwrgd = true ∧ Within (.causes :: .power :: faultPieces) s t) ∧
  (∀ d : Die, Does (.thermalDiv4End d) s fun t => t.dies[d] = { s.dies[d] with therm4 := false } ∧
    (∀ e : Die, e ≠ d → t.dies[e] = s.dies[e]) ∧ Within [.causes] s t) ∧
  (∀ d : Die, Does (.thermalClear (.die d)) s fun t => t.dies[d] = { s.dies[d] with thermDie := false, therm4 := false } ∧
    (∀ e : Die, e ≠ d → t.dies[e] = s.dies[e]) ∧ Within [.causes] s t) ∧
  (∀ k : Super, Does (.thermalClear (.dram k)) s fun t =>
    (∀ i, t.dies[dieOf k].thermDram.getLsbD i = (s.dies[dieOf k].thermDram.getLsbD i && decide (i ≠ k.val))) ∧
    (∀ e : Die, e ≠ dieOf k → t.dies[e] = s.dies[e]) ∧ Within [.causes] s t)

/-- R546: only PF0 writes PWR_LIMIT; a value outside 900–1,500 W sets ERR 1 and one below the admitted total ERR 2, LIMIT
unchanged; a value that passes takes effect and sets ERR 0. The effecter 100 of R568 is validated the same way. -/
def Obligations.LimitIsValidated : Prop := ∀ s : State,
  (∀ (f : Fn) (v : Word), f ≠ 0 → exec (.pwrLimitWrite f v) s = .next s) ∧
  (∀ v : Word, reaches s 0 .pwrLimit = true → Does (.pwrLimitWrite 0 v) s fun t => Within [.power, .mgmt] s t ∧
    (v.toNat % 2048 < 900 ∨ 1500 < v.toNat % 2048 → t.power = { s.power with limErr := 1 }) ∧
    (900 ≤ v.toNat % 2048 → v.toNat % 2048 ≤ 1500 →
      energyFits s (((liveParts s).map (partPower s)).sum) (v.toNat % 2048) = false → t.power = { s.power with limErr := 2 }) ∧
    (900 ≤ v.toNat % 2048 → v.toNat % 2048 ≤ 1500 →
      energyFits s (((liveParts s).map (partPower s)).sum) (v.toNat % 2048) = true →
      t.power.limErr = 0 ∧ t.power.limit.toNat = v.toNat % 2048)) ∧
  (∀ w : Word, monitorServes s = true → Does (.setNumericEffecterValue 100 w) s fun t => Within [.power, .out, .mgmt] s t ∧
    (w.toNat < 900 ∨ 1500 < w.toNat → t.power = { s.power with limErr := 1 } ∧ t.out = .pldm false [] :: s.out) ∧
    (900 ≤ w.toNat → w.toNat ≤ 1500 → energyFits s (((liveParts s).map (partPower s)).sum) w.toNat = true →
      t.power.limit.toNat = w.toNat ∧ t.out = .pldm true [] :: s.out))

/-- R547–R550: an energy report is LAST, and PEAK where it is larger; a lost fabric reference takes every strand-port DOWN; a
lost PCIe reference is recorded; a reference that returns reads OK; a PLL that loses lock resets the module. -/
def Obligations.EnergyReferencesAndPlls : Prop := ∀ s : State,
  (∀ (p : Part) (uj : Word), s.parts[p].live = true → (∀ k, inPart s p k = true → s.combs[k].hum.active = false) →
    Does (.energyReport64 p uj) s fun t => t.parts[p].energy = uj ∧
      t.parts[p].peak = (if s.parts[p].peak.toNat < uj.toNat then uj else s.parts[p].peak) ∧ Within [.partRegs] s t) ∧
  (s.power.frefLost = false → (∀ (k : Comb) (q : LPort), jobsOnPort s.combs[k] q = []) → Does .fabricRefLoss s fun t =>
    t.power = { s.power with frefLost := true, frefOk := false, frefLoss := hit 16 s.power.frefLoss } ∧
    ∀ (k : Comb) (q : LPort), t.combs[k].router.ports[q].state = 0) ∧
  (s.power.prefLost = false → Does .pcieRefLoss s fun t => t.mod.linkUp = false ∧
    t.power = { s.power with prefLost := true, prefOk := false, prefLoss := hit 16 s.power.prefLoss }) ∧
  (Does (.refReturn .pcie) s fun t => t.power = { s.power with prefLost := false, prefOk := true } ∧ Within [.power] s t) ∧
  (Does (.refReturn .fabric) s fun t => t.power = { s.power with frefLost := false, frefOk := true } ∧ Within [.power, .router] s t) ∧
  (∀ pll : Fin 23, s.power.pwrgd = true → s.evt.modState ≠ 1 → (s.boot.kind = .cold → 5 ≤ s.boot.stage.toNat) →
    Does (.pllUnlock pll) s fun t =>
    t.power = { s.power with pllUnlock := hit 16 s.power.pllUnlock } ∧ t.evt.modState = 1 ∧ t.boot.stage = 0 ∧
    t.evt.modlog = w64 (0xFF + 256 * (0x1300 + pll.val)))

/-! ### Boot and the flash (R557–R565) -/

/-- R560–R563: BOOT_START goes to stage LOAD; an image whose flash does not answer ends in recovery mode with FAIL 1, one that
passes R560 runs, die 0 reigning; BOOT_READY opens the registers and fuses the SVN where COMMIT_SVN says so (stated where no row
fails the march test, no pinned node fails and no request waits). R563, R564:
ENTER_RECOVERY takes a warm reset into recovery mode; COMMIT_SVN fuses the running SVN; RCV_GO in recovery mode refuses a
length outside 512–32 MiB with ERR 5, and an image that fails writes no flash; one read back right boots. -/
def Obligations.BootRunsThroughItsStages : Prop :=
  (∀ s : State,
   (s.power.pwrgd = true → s.boot.stage = 0 → s.evt.modState ≠ 2 → s.boot.toRecovery = false → Does .bootStart s fun t =>
     t.boot = { s.boot with boots := s.boot.boots + 1, stage := 1 } ∧ Within [.power, .boot] s t ∧
     t.power = { s.power with frefOk := !s.power.frefLost, prefOk := !s.power.prefLost
                              fixed := { queens := 3, pcie := true, debug := true, noc := 3, bridge := 3 } }) ∧
   (s.boot.stage = 1 → ∀ agree, Does (.imageLoaded false agree) s fun t => t.boot.stage = 6 ∧ t.boot.fail = 1) ∧
   (s.boot.stage = 1 → ∀ agree, Does (.imageLoaded true agree) s fun t =>
     let u : State := { s with boot := { s.boot with imgSvn := hdrSvn (flashRead s 0 512) } }
     if imageFail u (flashRead u) agree = 0
     then t.boot.stage = 4 ∧ t.boot.fail = s.boot.fail ∧ t.queen.die = 0 ∧ t.queen.q0 = 2 ∧
       t.queen.epoch = (if s.boot.kind = .warm then s.queen.epoch + 1 else 1)
     else t.boot.stage = 6 ∧ t.boot.fail = BitVec.ofNat 4 (imageFail u (flashRead u) agree) ∧ t.queen.epoch = s.queen.epoch) ∧
   (s.boot.stage = 4 → Does .bootReady s fun t => t.boot.stage = 5 ∧ t.evt.modState = 0 ∧
     (s.boot.kind ≠ .powerOn ∨ Config.marchRows s.draws = [] → (∀ k : Super, failedPins s.supers[k] k = [] ∧ s.supers[k].waiting = .replicate 6 []) →
       ∀ d : Die, t.dies[d].svn = if s.boot.commit = true ∧ s.dies[d].svn.toNat < s.boot.imgSvn.toNat then s.boot.imgSvn
         else s.dies[d].svn))) ∧
  (∀ s : State, s.power.pwrgd = true →
   (s.boot.busy = false → s.boot.stage = 5 → Does (.enterRecovery 0) s fun t =>
     t.boot.stage = 0 ∧ t.boot.toRecovery = true ∧ t.evt.modState = 1) ∧
   (s.boot.busy = false → s.boot.stage = 5 → s.dies[(0 : Die)].svn.toNat < s.boot.imgSvn.toNat → Does (.commitSvn 0) s fun t =>
     t.dies[(0 : Die)].svn = s.boot.imgSvn ∧ s.boot.imgSvn.toNat ≤ t.dies[(1 : Die)].svn.toNat ∧ t.boot.err = 0 ∧ Within [.fuses, .boot] s t) ∧
   (∀ len : BitVec 26, s.boot.stage = 6 → s.boot.busy = false → s.boot.staging = 0 → len.toNat < 512 ∨ 33554432 < len.toNat →
     exec (.rcvGo 0 len) s = .next { s with boot := { s.boot with err := 5 } }) ∧
   (∀ len : BitVec 26, s.boot.stage = 6 → s.boot.busy = false → s.boot.staging = 0 → 512 ≤ len.toNat → len.toNat ≤ 33554432 →
     Does (.rcvGo 0 len) s fun t =>
       let u : State := { s with boot := { s.boot with imgSvn := hdrSvn (stageRead s 0 512) } }
       if imageFail u (stageRead u) true = 0
       then t.boot.busy = true ∧ t.boot.err = 0 ∧ flashRead t 0 len.toNat = stageRead s 0 len.toNat ∧ Within [.boot, .flash] s t
       else t.boot.err = 3 ∧ t.boot.fail = BitVec.ofNat 4 (imageFail u (stageRead u) true) ∧ Within [.boot] s t) ∧
   (s.boot.stage = 6 → s.boot.staging ≠ 0 → s.boot.stageLen ≠ 0 → Does (.recoveryFlashDone true) s fun t =>
     t.boot.stage = 4 ∧ t.boot.busy = false ∧ t.boot.staging = 0 ∧ t.queen.die = 0))

/-! ### Management and the monitor (R566–R572) -/

/-- R566: ENTDAA and SETDASA give a target without a dynamic address one, and RSTDAA takes it away; the directed common
command codes answer at it; BCR reports no HDR, Hot-Join, In-Band Interrupt or controller role. -/
def Obligations.TheI3cTargetAnswers : Prop := ∀ s : State, s.power.pwrgd = true →
  (∀ a, s.mgmt.i3cDyn = none → exec (.entdaa a) s = .next { s with mgmt := { s.mgmt with i3cDyn := some a } } ∧
    exec (.setdasa a) s = .next { s with mgmt := { s.mgmt with i3cDyn := some a } }) ∧
  (exec .rstdaa s = .next { s with mgmt := { s.mgmt with i3cDyn := none } }) ∧
  (s.mgmt.i3cDyn.isSome = true →
    (∀ a, exec (.entdaa a) s = .next s ∧ exec (.setdasa a) s = .next s) ∧
    (Does .getpid s fun t => t = { s with out := .i3c (leBytes 6 Config.i3cPid.toNat) :: s.out }) ∧
    (Does .getbcr s fun t => ∃ b : Byte, b &&& 0xE6 = 0 ∧ t = { s with out := .i3c [b] :: s.out }) ∧
    (Does .getdcr s fun t => t = { s with out := .i3c [Config.i3cDcr] :: s.out }) ∧
    (Does .getmxds s fun t => t = { s with out := .i3c (leBytes 2 Config.i3cMxds.toNat) :: s.out }))

/-- R567, R568: the bus owner sets the endpoint ID; sensors answer with the register they name, a sensor that does not exist
with an error; the oldest unread platform event is delivered with the count of lost ones. -/
def Obligations.SensorsAndPlatformEvents : Prop := ∀ s : State, monitorServes s = true →
  (∀ e, e ≠ 0 → e ≠ 0xFF → Does (.setEndpointId e) s fun t =>
    t = { s with mgmt := { s.mgmt with eid := e }, out := .pldm true [e] :: s.out }) ∧
  (∀ e, e = 0 ∨ e = 0xFF → Does (.setEndpointId e) s fun t => t = { s with out := .pldm false [] :: s.out }) ∧
  (Does (.getSensorReading 1) s fun t => t = { s with out := .pldm true (leBytes 4 s.power.volt.toNat) :: s.out }) ∧
  (∀ k : Super, Does (.getSensorReading (BitVec.ofNat 16 (6 + k.val))) s fun t =>
    t = { s with out := .pldm true (leBytes 4 (BitVec.ofInt 32 s.power.tSup[k]).toNat) :: s.out }) ∧
  (∀ id : BitVec 16, 13 < id.toNat → Does (.getSensorReading id) s fun t => t = { s with out := .pldm false [] :: s.out }) ∧
  (∀ p : Part, Does (.getStateSensorReadings (BitVec.ofNat 16 (30 + p.val))) s fun t =>
    t = { s with out := .pldm true (leBytes 8 s.parts[p].sum.toNat) :: s.out }) ∧
  (Does (.getStateSensorReadings 20) s fun t => t = { s with out := .pldm true (leBytes 8 s.evt.modState.toNat) :: s.out }) ∧
  (∀ e r, s.mgmt.events = e :: r → Does .pollForPlatformEventMessage s fun t =>
    t = { s with mgmt := { s.mgmt with events := r, evLost := 0 }, out := .pldm true (eventBytes e s.mgmt.evLost) :: s.out }) ∧
  (s.mgmt.events = [] → Does .pollForPlatformEventMessage s fun t => t = { s with out := .pldm true [] :: s.out })

/-- R569 at stage READY: a header that passes R560 erases the flash and begins the update; the next block of at most 4,096
bytes is programmed; VERIFY_COMPLETE answers the result, and ACTIVATE_FIRMWARE of a verified image takes a warm reset; after an
update cancelled the flash holds no image that passes R560. A header that fails changes no flash. -/
def Obligations.FirmwareUpdates : Prop := ∀ s : State, s.power.pwrgd = true → s.boot.stage = 5 →
  (∀ h : Bytes, s.mgmt.updMode = false → s.boot.busy = false → s.boot.staging = 0 → h.length = 512 →
    Does (.pldmUpdateComponent h) s fun t => if headerFail s h = 0
      then t.out = .pldm true [] :: s.out ∧ t.mgmt.updMode = true ∧ t.mgmt.updGot = 512 ∧ flashRead t 0 512 = h ∧
        Within [.out, .mgmt, .flash] s t
      else t = { s with out := .pldm false [] :: s.out }) ∧
  (∀ (off : Nat) (data : Bytes), s.mgmt.updMode = true → data ≠ [] → data.length ≤ 4096 → off = s.mgmt.updGot →
    off + data.length ≤ fieldAt s.mgmt.updHdr 4 4 → s.boot.erased = true → Does (.pldmTransferData off data) s fun t =>
      t.out = .pldm true [] :: s.out ∧ t.mgmt.updGot = off + data.length ∧ flashRead t off data.length = data ∧
      Within [.out, .mgmt, .flash] s t) ∧
  (s.mgmt.updMode = true → Does .verifyComplete s fun t =>
    t.out = .pldm (s.mgmt.updOk && decide (fieldAt s.mgmt.updHdr 4 4 ≤ s.mgmt.updGot)) [] :: s.out ∧
    t.mgmt.verified = (s.mgmt.updOk && decide (fieldAt s.mgmt.updHdr 4 4 ≤ s.mgmt.updGot)) ∧ Within [.out, .mgmt] s t) ∧
  (s.mgmt.updMode = true → s.mgmt.verified = true → Does .activateFirmware s fun t =>
    ((∀ k : Super, s.supers[k].repairing = none) → t.out = .pldm true [6, 0] :: s.out) ∧ t.boot.stage = 0 ∧ t.boot.kind = .warm ∧
    t.evt.modState = 1 ∧ t.boot.flash = s.boot.flash) ∧
  (s.mgmt.updMode = true → Does .cancelUpdate s fun t => t.out = .pldm true [] :: s.out ∧ t.mgmt.updMode = false ∧
    (s.mgmt.updErased = true → imageFail t (flashRead t) true ≠ 0) ∧
    (imageFail s (flashRead s) true ≠ 0 → t.boot.flash = s.boot.flash) ∧ Within [.out, .mgmt, .boot, .flash] s t)

/-- R570–R572: what each monitor command prints, at stage READY. Under their debug scope, PEEK prints stored bytes but refuses a
tenant's with ERR 3 and the metadata reservation with ERR 4 (the model's choice, log entry 108), TRACE sets the trace and RESET acts as EVT_RESET_CMD; outside it each answers ERR 2 and changes nothing. -/
def Obligations.MonitorCommands : Prop :=
  (∀ s : State, s.power.pwrgd = true → readyStage s = true →
   (Does .help s fun t => ∃ m : DWord, t = { s with out := .uart [m] 0 :: s.out } ∧
     (∀ b, b < 6 → m.getLsbD b = true) ∧ (m.getLsbD 6 = scopeOpen s 0 ∧ m.getLsbD 7 = scopeOpen s 0 ∧ m.getLsbD 8 = scopeOpen s 1)) ∧
   (Does .ver s fun t => ∃ rest, t = { s with out := .uart (s.boot.buildId :: s.boot.imgSvn.setWidth 64 ::
     (s.dies[(0 : Die)].svn).setWidth 64 :: rest) 0 :: s.out }) ∧
   (Does .stat s fun t => t = { s with out := .uart [w64 (regVal s 0 .qnBootStatus), w64 (regVal s 0 .qnCrown),
     w64 (regVal s 0 .evtStatus), w64 (regVal s 0 .pwrStatus)] 0 :: s.out }) ∧
   (∀ k : Part, Does (.sum k) s fun t => ∃ rest, t = { s with out := .uart (s.parts[k].sum :: rest) 0 :: s.out }) ∧
   (Does .sens s fun t => ∃ ws, ws.length = 24 ∧ ws[0]? = some (s.power.volt.setWidth 64) ∧ t = { s with out := .uart ws 0 :: s.out }) ∧
   (∀ n, n ≤ 64 → Does (.log n) s fun t => t = { s with out := .uart ((s.queen.log.take n).map logWord) 0 :: s.out }) ∧
   (∀ n, 64 < n → Does (.log n) s fun t => t = { s with out := .uart [] 4 :: s.out })) ∧
  (∀ s : State, s.power.pwrgd = true → readyStage s = true →
   (∀ (a : BitVec 40) (n : Nat), 1 ≤ n → n ≤ 256 → a.toNat + n ≤ 2 ^ 39 → Does (.peek a n) s fun t =>
     if scopeOpen s 0 = false then t = { s with out := .uart [] 2 :: s.out }
     else if ∃ i, i < n ∧ metaBase ≤ winOff (a.toNat + i) then t = { s with out := .uart [] 4 :: s.out }
     else if ∃ i, i < n ∧ winTenant s (a.toNat + i) = true then t.out = .uart [] 3 :: s.out ∧ Within [.out, .superRegs] s t
     else t = { s with out := .uart (wordsOf ((n + 7) / 8) ((List.range n).flatMap fun i =>
       storedBytes s (winSuper (a.toNat + i)) (winOff (a.toNat + i)) 1)) 0 :: s.out }) ∧
   (exec .traceOn s = .next (if scopeOpen s 1 = true then { s with mgmt := { s.mgmt with trace := true }, out := .uart [] 0 :: s.out }
     else { s with out := .uart [] 2 :: s.out })) ∧
   (exec .traceOff s = .next (if scopeOpen s 1 = true then { s with mgmt := { s.mgmt with trace := false }, out := .uart [] 0 :: s.out }
     else { s with out := .uart [] 2 :: s.out })) ∧
   (∀ (d u : BitVec 3), s.evt.resetBusy = false → 6 ≤ d.toNat → exec (.reset d u) s = .next (if scopeOpen s 0 = true
     then moduleReset (decide (d = 7)) s else { s with out := .uart [] 2 :: s.out })))

/-! ### Resets, watchdogs and recoveries (R481–R512) -/

/-- R488–R490: a reset of an unassigned comb or super resets it alone and reports to PF0 only; of a partition's comb it stops
the comb, halts it and begins a recovery of that comb; a partition reset stops the whole partition. A port that is not UP trains
again, one with a hard failure stays DOWN. A refused request resets nothing. (A super is stated where no row of it is under
repair: a repair that runs is finished first.) -/
def Obligations.ResetCommandsOfUnits : Prop := ∀ s : State, regsServed s = true → s.evt.resetBusy = false → s.evt.modState ≠ 2 →
  (∀ k : Comb, partOf s k = none → Does (.resetComb k) s fun t =>
    t.combs[k].seq = { waiting := s.combs[k].seq.waiting, progNo := s.combs[k].seq.progNo } ∧ t.combs[k].store = [] ∧
    (∀ n : PCell, t.combs[k].cells[n] = {}) ∧ t.combs[k].router = s.combs[k].router ∧ t.combs[k].hum = s.combs[k].hum ∧
    (∀ j : Comb, j ≠ k → t.combs[j] = s.combs[j]) ∧ t.evt.resetBusy = false ∧ t.evt.recovery = hit 16 s.evt.recovery ∧
    t.parts = s.parts ∧ t.supers = s.supers) ∧
  (∀ (k : Comb) (p : Part), partOf s k = some p → s.parts[p].recov = [] → Does (.resetComb k) s fun t =>
    t.combs[k].seq.state = 3 ∧ t.evt.resetBusy = true ∧ t.evt.resetErr = 0 ∧
    ∃ r, t.parts[p].recov = [r] ∧ r.domain = 2 ∧ r.combs = [k] ∧ r.supers = [] ∧ r.byCmd = true) ∧
  (∀ k : Super, partOf s k = none → s.supers[k].powered = true → s.supers[k].repairing = none → Does (.resetSuper k) s fun t =>
    t.supers[k].resetting = true ∧ t.supers[k].state = 2 ∧ t.supers[k].mem = s.supers[k].mem ∧ t.supers[k].ce = s.supers[k].ce ∧
    t.evt.resetBusy = true ∧ t.evt.resetSup = some k ∧ t.parts = s.parts ∧ t.combs = s.combs) ∧
  (∀ (k : Super) (p : Part), partOf s k = some p → s.parts[p].recov = [] → Does (.resetSuper k) s fun t =>
    t.evt.resetBusy = true ∧ ∃ r, t.parts[p].recov = [r] ∧ r.domain = 3 ∧ r.combs = [] ∧ r.supers = [k]) ∧
  (∀ (k : Comb) (port : Fin 8), 6 ≤ port.val → exec (.resetStrandPort k port) s = .next { s with evt := { s.evt with resetErr := 5 } }) ∧
  (∀ (k : Comb) (port : Fin 8) (h : port.val < 6), portUp s k ⟨port.val, h⟩ = false → s.power.frefLost = false →
    s.mod.mapEn.getLsbD port.val = true → s.ports[physPort s ⟨port.val, h⟩].on = true →
    s.combs[k].router.ports[(⟨port.val, h⟩ : LPort)].stuck = false → Does (.resetStrandPort k port) s fun t =>
      t.combs[k].router.ports[(⟨port.val, h⟩ : LPort)].state = 1 ∧ t.evt.resetBusy = true ∧
      t.evt.resetPort = some (k, ⟨port.val, h⟩) ∧ Within [.router, .evt] s t) ∧
  (∀ (k : Comb) (port : Fin 8) (h : port.val < 6), portUp s k ⟨port.val, h⟩ = false →
    s.combs[k].router.ports[(⟨port.val, h⟩ : LPort)].stuck = true → Does (.resetStrandPort k port) s fun t =>
      t.combs[k].router.ports[(⟨port.val, h⟩ : LPort)].state = 0 ∧ t.evt.resetBusy = false ∧
      t.evt.recovery = hit 16 s.evt.recovery) ∧
  (∀ p : Part, s.parts[p].live = true → s.parts[p].recov = [] → Does (.resetPartition p) s fun t => t.parts[p].stopped = true ∧
    (∀ k, inPart s p k = true → t.combs[k].seq.state = 3) ∧
    ∃ r, t.parts[p].recov = [r] ∧ r.domain = 5 ∧ r.combs = combsOf s p ∧ r.supers = combsOf s p) ∧
  (∀ p : Part, s.parts[p].live = false → exec (.resetPartition p) s = .next { s with evt := { s.evt with resetErr := 2 } })

/-- R488, R489: a module warm reset keeps partitions, contexts, key slots, leases and stored data and reads RECOVERING; a
cold reset removes partitions and zeroises every key; both start at stage ROM and keep flash and EVT_MODLOG. MOD_RST_N
held for 100 ms is a cold reset, for less a warm one. (What survives is stated where no row is under repair: a repair that runs is
finished first and may meet faults.) -/
def Obligations.ModuleResets : Prop := ∀ s : State,
  let calm : Prop := ∀ k : Super, s.supers[k].repairing = none
  let warm : State → Prop := fun t => t.boot.stage = 0 ∧ t.boot.kind = .warm ∧ t.evt.modState = 1 ∧
    (∀ p : Part, t.parts[p].recov = [] ∧ t.parts[p].sems = []) ∧
    (∀ k : Comb, t.combs[k].seq = {} ∧ t.combs[k].store = []) ∧
    (calm → t.queen.epoch = s.queen.epoch ∧ t.evt.modlog = s.evt.modlog ∧
      (∀ p : Part, t.parts[p].live = s.parts[p].live ∧ t.parts[p].ctx = s.parts[p].ctx ∧ t.parts[p].rgn = s.parts[p].rgn) ∧
      (∀ k : Comb, t.combs[k].router.lease = s.combs[k].router.lease) ∧
      ∀ k : Super, t.supers[k].mem = s.supers[k].mem ∧ ∀ i : KeyId, 0 < i.val → s.supers[k].slots[i].state ≠ 2 →
        t.supers[k].slots[i] = s.supers[k].slots[i]) ∧
    Within faultPieces s t
  let cold : State → Prop := fun t => t.boot.stage = 0 ∧ t.boot.kind = .cold ∧ t.evt.modState = 0 ∧
    (calm → t.evt.modlog = s.evt.modlog) ∧ (∀ p : Part, t.parts[p].live = false ∧ t.parts[p].ctx = {}) ∧
    (∀ (k : Super) (i : KeyId), 0 < i.val → t.supers[k].slots[i].state = 0 ∨ t.supers[k].slots[i].state = 3) ∧
    (∀ k : Comb, t.combs[k].assigned = false ∧ t.combs[k].router.lease = []) ∧ Within faultPieces s t
  (regsServed s = true → s.evt.resetBusy = false → s.evt.modState ≠ 2 → Does .resetModuleWarm s warm) ∧
  (regsServed s = true → s.evt.resetBusy = false → Does .resetModuleCold s cold) ∧
  (∀ us, 100000 ≤ us → s.power.pwrgd = true → Does (.modRstNRelease us) s cold) ∧
  (∀ us, 1 ≤ us → us < 100000 → s.power.pwrgd = true → s.evt.modState = 0 → 5 ≤ s.boot.stage.toNat →
    Does (.modRstNRelease us) s warm)

/-- R485–R487: a comb whose watchdog count reaches its limit, and a hung super, Hild unit or forager, stop the partition with
INTERNAL and begin its recovery with the resets of R498; a silent crown sideband resets the module. -/
def Obligations.WatchdogsStopThePartition : Prop := ∀ (s : State) (p : Part) (k : Comb), partOf s k = some p → s.parts[p].recov = [] →
  (combHung s k = true → Does (.combWatchdog k) s fun t => Stopped p stInternal s t ∧ t.evt.wdog = hit 16 s.evt.wdog ∧
    ∃ r, t.parts[p].recov = [r] ∧ r.combs = combsOf s p ∧ r.supers = [] ∧ r.unit1 = w32 (0x0F00 + k.val)) ∧
  (s.supers[k].powered = true → s.supers[k].state ≠ 2 → s.supers[k].repairing = none → s.supers[k].resetting = false →
    Does (.superWatchdog k) s fun t => Stopped p stInternal s t ∧ t.evt.wdog = hit 16 s.evt.wdog ∧
      ∃ r, t.parts[p].recov = [r] ∧ r.combs = combsOf s p ∧ r.supers = [k] ∧ r.unit1 = w32 (0x1000 + k.val)) ∧
  (s.supers[k].hild.state = 2 → s.supers[k].hild.cur.isSome = true → Does (.hildWatchdog k) s fun t => Stopped p stInternal s t ∧
    ∃ r, t.parts[p].recov = [r] ∧ r.combs = combsOf s p ∧ r.supers = [k] ∧ r.unit1 = w32 (0x1100 + k.val)) ∧
  (∀ (f : Fin 4) (x : Transfer) (l : List Transfer), s.combs[k].seq.queues[f] = x :: l → (decodeXfer x.block).srcSpace ≠ 0 →
    Does (.foragerWatchdog k f) s fun t => Stopped p stInternal s t ∧
      ∃ r, t.parts[p].recov = [r] ∧ r.combs = combsOf s p ∧ r.supers = [] ∧ r.unit1 = w32 (0x1200 + 4 * k.val + f.val)) ∧
  (s.evt.modState = 0 → s.power.pwrgd = true → (s.boot.kind = .cold → 5 ≤ s.boot.stage.toNat) → Does .crownSidebandSilent s fun t =>
    t.evt.modState = 1 ∧ t.boot.stage = 0 ∧ t.evt.modlog = 0xFF)

/-- R491–R493, R499: a smoke that has drained, or whose deadline passed, is captured and the units of its recovery are reset
(stated where none of its supers is repairing a row and, for a reset of single combs, no checkpoint runs); the recovery ends with
one RECOVERY_DONE, rings and context as they were, and the timetable gone. R501: the end of a super controller reset reads ACTIVE,
the link under fresh keys (stated where no pinned node fails and no repair or request waits). R489, R491: a SMOKE of SCOPE 0 stops its partition and waits for the recovery. R509: a window's
end restarts the counts, and a monitor at its threshold trips. -/
def Obligations.RecoveriesSmokesAndWindows : Prop :=
  (∀ (s : State) (p : Part) (r : Recovery), s.parts[p].recov = [r] → (∀ k ∈ r.supers, s.supers[k].repairing = none) →
   (r.scope = 0 ∨ r.combs = [] ∨ s.parts[p].ckpt = none) →
   (r.captured = false → drained' s p r = true → r.teardown = false → Does (.smokeDrainDone p) s fun t =>
     (∃ r', t.parts[p].recov = [r'] ∧ r'.captured = true ∧ r'.drainTo = r.drainTo ∧ r'.seq = s.parts[p].hiveSeq + 1) ∧
     t.parts[p].hiveSeq = s.parts[p].hiveSeq + 1 ∧
     (∀ k ∈ r.combs, t.combs[k].seq = { waiting := t.combs[k].seq.waiting, progNo := t.combs[k].seq.progNo } ∧ t.combs[k].store = []) ∧
     (∀ k ∈ r.supers, s.supers[k].powered = true → t.supers[k].resetting = true)) ∧
   (r.captured = false → r.teardown = false → Does (.drainDeadline p) s fun t =>
     (∃ r', t.parts[p].recov = [r'] ∧ r'.captured = true ∧ r'.drainTo = true) ∧ t.evt.drainTo = hit 16 s.evt.drainTo ∧
     (∀ k ∈ r.combs, t.combs[k].seq = { waiting := t.combs[k].seq.waiting, progNo := t.combs[k].seq.progNo } ∧ t.combs[k].store = [])) ∧
   (resetsDone s r = true → r.scope = 0 → r.teardown = false → r.again = [] → s.parts[p].autoSalv = false →
     s.parts[p].ctx.state ≠ 3 → Does (.recoveryDone p) s fun t => t.parts[p].recov = [] ∧ t.evt.recovery = hit 16 s.evt.recovery ∧
       t.parts[p].tt = none ∧ t.parts[p].ctx = s.parts[p].ctx ∧ t.parts[p].rgn = s.parts[p].rgn ∧
       t.parts[p].stopped = (combsOf s p).any (fun k => s.combs[k].cellRegs.degraded))) ∧
  (∀ s : State,
   (∀ (k : Super) (flips : Flips), let u := (applyFlips k flips s).supers[k]
     u.resetting = true → s.evt.resetSup ≠ some k → failedPins u k = [] → u.repairQ = [] → u.waiting = .replicate 6 [] →
     Does (.superResetDone k flips) s fun t => t.supers[k] = { u with resetting := false, state := 1, link := t.supers[k].link } ∧
       (∀ d : Fin 2, t.supers[k].link[d].sent = 0 ∧ t.supers[k].link[d].next = 0 ∧ t.supers[k].link[d].dead = false) ∧
       t.draws = s.draws + 1 ∧ Within [.draws, .superMem, .superRegs, .partRegs] s t) ∧
   (∀ (p : Part) (r : Ring) (d : Desc), startedDesc s p r opSmoke = some d → d.field 28 1 % 2 = 0 → s.parts[p].recov = [] →
     Does (.smoke p r) s fun t => t.parts[p].stopped = true ∧ ∃ x, t.parts[p].recov = [x] ∧ x.domain = 5 ∧ x.byDesc = true ∧
       x.combs = combsOf s p ∧ x.supers = combsOf s p ∧ x.smokes = [(⟨p, r, d.idx⟩, w64 (d.field 16 8), false)]) ∧
   (∀ p : Part, s.parts[p].live = true → s.evt.trig = 0 → Does (.ewWindowEnd p) s fun t =>
     (∀ m : Fin 7, t.parts[p].ew.counts[m] = 0) ∧ (∀ k, inPart s p k = true → t.supers[k].replays = 0) ∧
     ((∃ m : Fin 7, ewThreshold s.evt m ≤ ewValue s p m) → t.evt.ewTrip.on = true) ∧
     ((∀ m : Fin 7, ewValue s p m < ewThreshold s.evt m) → Within [.partRegs, .superRegs] s t)))

/-! ### The crown, partitions, contexts and keys (R437–R480) -/

/-- R440, R442, R445: heartbeats carry the epoch and the reigning die; the standby queen takes the crown with the epoch
incremented (stated where no recovery and no reset of a super runs: to one that runs the silent queen is a second fault); a message
whose MAC fails or whose sequence is stale is discarded and counted; a claim of a higher epoch takes the crown. -/
def Obligations.TheCrownPasses : Prop := ∀ s : State, queensServe s = true →
  (Does .heartbeat s fun t => t.out = .sideband (.heartbeat s.queen.epoch s.queen.die) (s.queen.sbSeq + 1) :: s.out ∧
    t.queen = { s.queen with sbSeq := s.queen.sbSeq + 1 } ∧ Within [.out, .queen] s t) ∧
  (s.evt.resetSup = none → (∀ p : Part, s.parts[p].recov = []) → (s.queen.die = 0 ∧ s.queen.q1 = 1 ∨ s.queen.die = 1 ∧ s.queen.q0 = 1) →
    Does .supersedure s fun t => t.queen.epoch = s.queen.epoch + 1 ∧ t.queen.die = 1 - s.queen.die ∧
    (if s.queen.die = 0 then t.queen.q1 = 2 ∧ t.queen.q0 = 3 else t.queen.q0 = 2 ∧ t.queen.q1 = 3) ∧
    t.queen.crownChg = hit 16 s.queen.crownChg ∧
    (∀ d : Die, t.dies[d].crownEpoch = s.queen.epoch + 1 ∧ t.dies[d].crownDie = 1 - s.queen.die) ∧
    t.combs = s.combs ∧ t.supers = s.supers ∧ Within [.out, .host, .evq, .dies, .queen, .mgmt, .mod] s t) ∧
  (∀ seq mac msg, mac ≠ crownMac msg seq ∨ seqFresh s.queen.rxSeq seq = false → Does (.sidebandMessageReceive seq mac msg) s fun t =>
    t.queen = { s.queen with sbMac := hit 16 s.queen.sbMac } ∧ Within [.queen] s t) ∧
  (∀ seq e d, seqFresh s.queen.rxSeq seq = true → s.queen.epoch < e →
    Does (.sidebandMessageReceive seq (crownMac (.claim e d) seq) (.claim e d)) s fun t =>
    t.queen.epoch = e ∧ t.queen.die = d ∧ t.queen.rxSeq = some seq ∧ ∀ x : Die, t.dies[x].crownEpoch = e ∧ t.dies[x].crownDie = d) ∧
  (∀ seq, seqFresh s.queen.rxSeq seq = true → let m : Sideband := .heartbeat s.queen.epoch s.queen.die
    Does (.sidebandMessageReceive seq (crownMac m seq) m) s fun t =>
      t.queen = { s.queen with rxSeq := some seq } ∧ Within [.queen] s t)

/-- R441, R446: a configuration write whose epoch or die differs from its target's copy changes nothing but STALE_WR and the
log; one that carries both is done: a key load gives an EMPTY slot of a partition's super the keys that R337 derives under a fresh
salt, and of another super nothing; a lost queen region is rewritten from the other (stated where no recovery runs), and with both
lost the module resets. -/
def Obligations.ConfigurationIsGuarded : Prop := ∀ s : State,
  (∀ e d w, s.dies[targetDie w].crownEpoch ≠ e ∨ s.dies[targetDie w].crownDie ≠ d → Does (.configWrite e d w) s fun t =>
    t.queen.staleWr = hit 16 s.queen.staleWr ∧ Within [.queen] s t) ∧
  (∀ (k : Super) (id : KeyId) (key : Nat), s.supers[k].slots[id].state = 0 → (partOf s k).isSome = true → s.supers[k].powered = true →
    Does (.configWrite s.dies[dieOf k].crownEpoch s.dies[dieOf k].crownDie (.keySlotLoad k id key)) s fun t =>
      (∃ salt, t.supers[k].slots[id] = loadedSlot k id (BitVec.ofNat 256 key) salt) ∧
      (∀ j : KeyId, j ≠ id → t.supers[k].slots[j] = s.supers[k].slots[j])) ∧
  (∀ (k : Super) (id : KeyId) (key : Nat), s.supers[k].slots[id].state ≠ 0 ∨ partOf s k = none →
    Does (.configWrite s.dies[dieOf k].crownEpoch s.dies[dieOf k].crownDie (.keySlotLoad k id key)) s fun t => Within [.queen] s t) ∧
  (∀ v : Fin 128, v.val = s.boot.imgSvn.toNat → s.boot.stage = 5 → Does (.configWrite s.dies[(0 : Die)].crownEpoch s.dies[(0 : Die)].crownDie (.fuseSvn v)) s fun t =>
    (∀ d : Die, t.dies[d].svn.toNat = max s.dies[d].svn.toNat v.val) ∧ Within [.fuses] s t) ∧
  (∀ (k : Comb) (v : Word) (b : Bool), Does (.configWrite s.dies[dieOf k].crownEpoch s.dies[dieOf k].crownDie (.rowClip k v b)) s
    fun t => t.combs[k].clip = v ∧ t.combs[k].clipSealed = b ∧ Within [.combRegs] s t) ∧
  (∀ d : Die, s.dies[d].region = true → s.dies[(1 - d : Die)].region = true → s.evt.resetSup = none →
    (∀ p : Part, s.parts[p].recov = []) → Does (.queenRegionLoss d) s fun t =>
    t.dies[d].region = !s.supers[regionSuper d].dieMark ∧ Within [.dies] s t) ∧
  (∀ d : Die, s.dies[d].region = true → s.dies[(1 - d : Die)].region = false → s.evt.modState = 0 →
    (s.boot.kind = .cold → 5 ≤ s.boot.stage.toNat) → Does (.queenRegionLoss d) s fun t => t.evt.modState = 1 ∧ t.boot.stage = 0)

/-- R452–R454: CREATE makes the partition of its combs, powered and with zeroed stores, or reports the first check that
fails and changes nothing; REMOVE ends the context or stops the rings, and once its slots are EMPTY the combs are free. -/
def Obligations.PartitionsComeAndGo : Prop := ∀ (s : State) (p : Part), queensServe s = true →
  (∀ n : BitVec 2, s.queen.cmdBusy = false → createErr s p n = 0 → Does (.partitionCreate p n) s fun t =>
    t.parts[p].live = true ∧ t.parts[p].psize = n ∧ t.parts[p].ctx = {} ∧ t.queen.cmdErr = 0 ∧
    (∀ k ∈ formCombs p n, inPart t p k = true ∧ t.combs[k].seqPwr = true ∧ t.combs[k].routerPwr = true ∧
      t.combs[k].seq = { waiting := s.combs[k].seq.waiting, progNo := s.combs[k].seq.progNo } ∧ t.combs[k].store = []) ∧ (∀ q : Part, q ≠ p → t.parts[q] = s.parts[q])) ∧
  (∀ n : BitVec 2, s.queen.cmdBusy = false → createErr s p n ≠ 0 → Does (.partitionCreate p n) s fun t =>
    t.queen = { s.queen with cmdErr := BitVec.ofNat 4 (createErr s p n) } ∧ Within [.queen] s t) ∧
  (s.queen.cmdBusy = true → Does (.partitionCreate p 0) s fun t => t.queen = { s.queen with cmdErr := 6 } ∧ Within [.queen] s t) ∧
  (s.queen.cmdBusy = false → s.parts[p].live = true → s.parts[p].ctx.state = 0 → Does (.partitionRemove p) s fun t =>
    t.queen.cmdBusy = true ∧ t.parts[p].removing = true ∧ t.parts[p].ctx = s.parts[p].ctx ∧
    (∀ r : Ring, s.parts[p].rings[r].enable = true → t.parts[p].rings[r].state = 3) ∧ t.combs = s.combs ∧ t.supers = s.supers) ∧
  (s.queen.cmdBusy = false → s.parts[p].live = true → s.parts[p].ctx.state = 2 → s.parts[p].recov = [] →
    Does (.partitionRemove p) s fun t => t.queen.cmdBusy = true ∧ t.parts[p].removing = true ∧ t.parts[p].ctx.state = 3 ∧
      t.parts[p].stopped = true ∧ ∃ r, t.parts[p].recov = [r] ∧ r.teardown = true ∧ r.domain = 8) ∧
  (s.parts[p].removing = true → s.parts[p].ctx.state = 0 → tearingDown s p = false → slotsEmpty s p = true →
    Does (.removeSlotsEmpty p) s fun t => t.parts[p] = { energy := s.parts[p].energy, peak := s.parts[p].peak } ∧
      t.queen.cmdBusy = false ∧ ∀ k, inPart s p k = true → t.combs[k].assigned = false ∧ t.combs[k].store = [] ∧
        t.combs[k].seq = {} ∧ t.supers[k].hild = { rounding := s.supers[k].hild.rounding, noise := s.supers[k].hild.noise })

/-- R463, R360: END_CONTEXT tears the context down; a retiring slot's key is zeroised and it scrubs, then it is EMPTY and its
ranges read as zeros. -/
def Obligations.ContextsEndAndKeysRetire : Prop := ∀ s : State,
  (∀ p : Part, queensServe s = true → s.queen.cmdBusy = false → s.parts[p].live = true → s.parts[p].ctx.state = 0 →
    Does (.endContext p) s fun t => t.queen = { s.queen with cmdErr := 0 } ∧ Within [.queen] s t) ∧
  (∀ p : Part, queensServe s = true → s.queen.cmdBusy = false → s.parts[p].live = true →
    s.parts[p].ctx.state = 1 ∨ s.parts[p].ctx.state = 2 → s.parts[p].recov = [] → Does (.endContext p) s fun t =>
      t.queen.cmdBusy = true ∧ t.parts[p].ctx.state = 3 ∧ t.parts[p].stopped = true ∧
      (∀ k, inPart s p k = true → t.combs[k].seq.state = 3 ∧ t.combs[k].hum.active = false) ∧
      ∃ r, t.parts[p].recov = [r] ∧ r.teardown = true ∧ r.domain = 8) ∧
  (∀ (k : Super) (id : KeyId), s.supers[k].slots[id].state = 2 → Does (.retireFlushDone k id) s fun t =>
    t.supers[k].slots[id] = { state := 3 } ∧ (∀ j : KeyId, j ≠ id → t.supers[k].slots[j] = s.supers[k].slots[j]) ∧ Within [.superKeys] s t) ∧
  (∀ (k : Super) (id : KeyId), s.supers[k].slots[id].state = 3 → s.supers[k].resetting = false → s.supers[k].powered = true →
    Does (.keyScrubDone k id) s fun t => t.supers[k].slots[id] = {} ∧
      (∀ j : KeyId, j ≠ id → 0 < j.val → t.supers[k].slots[j] = s.supers[k].slots[j]) ∧
      (∀ e ∈ s.supers[k].toScrub, e.1 = id → (e.2.1, e.2.2) ∈ t.supers[k].zeroed) ∧ ∀ e ∈ t.supers[k].toScrub, e.1 ≠ id)

/-- R457–R468: a BIND that passes every check binds the manifest, one that fails changes nothing but MANIFEST_REJ; a KEY that
passes is loaded, one that fails loads nothing and counts ENVELOPE_REJ; each answers its status. R475–R479: a challenge leaves
the module and is the current one; an unlock request uses it up, and only an accepted token fuses a count and opens the scope;
a measurement index that exists is answered. -/
def Obligations.BindingKeysAndDebug : Prop :=
  (∀ (s : State) (p : Part) (b : Bytes), queensServe s = true →
   (Does (.bind p b) s fun t => t.out = .spdm 1 (bindStatus s p b) [] :: s.out ∧
     if bindStatus s p b = rspOk
     then t.parts[p].ctx.man = some (parseManifest b) ∧ t.parts[p].ctx.clearLeft = (parseManifest b).clearBudget ∧
       (t.parts[p].ctx.state = 1 ∨ t.parts[p].ctx.state = 2) ∧ t.queen.manRej = s.queen.manRej
     else t.queen = { s.queen with manRej := hit 16 s.queen.manRej, log := t.queen.log } ∧ Within [.out, .queen] s t) ∧
   (Does (.key p b) s fun t => t.out = .spdm 2 (keyRequest p b s).2 [] :: s.out ∧
     if (keyRequest p b s).2 = rspOk then t.queen.envRej = s.queen.envRej ∧ t.parts[p].live = true ∧
       ((parseEnvelope b).usage = 1 → ∀ k, inPart s p k = true → t.supers[k].slots[(parseEnvelope b).keyId].state = 1) ∧
       ((parseEnvelope b).usage = 2 → ∀ e ∈ memberEntries s p, t.combs[e.1].router.jobs[e.2].keyed = true ∧
         t.combs[e.1].router.jobs[e.2].fkgen = (parseEnvelope b).fkgen ∧
         (s.combs[e.1].router.jobs[e.2].keyed = false ∨ s.combs[e.1].router.jobs[e.2].fkgen ≠ (parseEnvelope b).fkgen →
           t.combs[e.1].router.jobs[e.2].seq = 0))
     else t.queen.envRej = (if (keyRequest p b s).2 = rspAlready then s.queen.envRej else hit 16 s.queen.envRej) ∧
       Within [.out, .queen, .ctx] s t)) ∧
  (∀ s : State, queensServe s = true →
   (Does .debugChallenge s fun t => ∃ c : BitVec 256, t.queen.challenge = some c ∧ t.out = .spdm 3 0 (leBytes 32 c.toNat) :: s.out ∧
     Within [.out, .draws, .queen] s t) ∧
   (∀ tok auth age, Does (.debugUnlock tok auth age) s fun t => t.queen.challenge = none ∧
     if unlockStatus s tok auth age = rspOk
     then t.queen.dbgActive = true ∧ t.queen.scope = BitVec.ofNat 3 (fieldAt tok 72 1) ∧
       ∀ d : Die, t.dies[d].unlocks = s.dies[d].unlocks + 1
     else t.queen = { s.queen with challenge := none, unlocking := false } ∧
       t.out = .spdm 4 (unlockStatus s tok auth age) [] :: s.out ∧ Within [.out, .queen] s t) ∧
   (∀ nonce, Does (.getMeasurements 2 nonce) s fun t => t = { s with out := .spdm 0 0 (leBytes 64 s.boot.dQueen.toNat) :: s.out }) ∧
   (∀ (p : Part) nonce, s.parts[p].live = true → Does (.getMeasurements (BitVec.ofNat 8 (0x31 + p.val)) nonce) s fun t =>
     t = { s with out := .spdm 0 0 (report s (some p) nonce) :: s.out }) ∧
   (∀ (p : Part) nonce, s.parts[p].live = false → exec (.getMeasurements (BitVec.ofNat 8 (0x31 + p.val)) nonce) s = .next s))

/-! ### The host port (R412–R436) -/

/-- R421, R422, R564: a malformed access is refused and counted; a window read returns stored bytes unless a byte of it is
refused, which aborts it and sets DENIED; a window write changes no stored data; in recovery mode the window is the
write-only staging buffer. -/
def Obligations.WindowAccesses : Prop := ∀ s : State, s.fns[(0 : Fn)].memSpace = true →
  (∀ isRead, Does (.malformedMmio 0 isRead) s fun t => t.out = .mmioRefused 0 isRead :: s.out ∧
    t.fns[(0 : Fn)].badMmio = hit 16 s.fns[(0 : Fn)].badMmio ∧ Within [.out, .fns] s t) ∧
  (∀ (off : BitVec 30) (n : Nat), s.boot.stage = 5 → 1 ≤ n → off.toNat % 4096 + n ≤ 4096 →
    (∀ i, i < n → winRefused s (winAddrOf s off.toNat + i) = false) →
    superServes s.supers[winSuper (winAddrOf s off.toNat)] (winOff (winAddrOf s off.toNat)) = true →
    Does (.bar2Read off n) s fun t => t = { s with out := .windowData (storedBytes s (winSuper (winAddrOf s off.toNat))
      (winOff (winAddrOf s off.toNat)) n) :: s.out }) ∧
  (∀ (off : BitVec 30) (n i : Nat), s.boot.stage = 5 → off.toNat % 4096 + n ≤ 4096 → i < n →
    winRefused s (winAddrOf s off.toNat + i) = true → Does (.bar2Read off n) s fun t => t.out = .windowAbort :: s.out ∧
      t.mod.winDenied = hit 16 s.mod.winDenied ∧ t.mod.winAddr = BitVec.ofNat 40 (winAddrOf s off.toNat) ∧
      Within [.out, .superRegs, .mod] s t) ∧
  (∀ (off : BitVec 30) (n : Nat), s.boot.stage = 6 → 1 ≤ n → off.toNat % 4096 + n ≤ 4096 → Does (.bar2Read off n) s fun t =>
    t = { s with out := .windowData (List.replicate n 0) :: s.out }) ∧
  (∀ (off : BitVec 30) (data : Bytes), s.boot.stage = 5 → Does (.bar2Write off data) s fun t =>
    t.mod.winDenied = hit 16 s.mod.winDenied ∧ Within [.superRegs, .mod] s t) ∧
  (∀ (off : BitVec 30) (data : Bytes), s.boot.stage = 6 → s.boot.busy = false → s.boot.staging = 0 →
    off.toNat + data.length ≤ 33554432 → Does (.bar2Write off data) s fun t => stageRead t off.toNat data.length = data ∧
      Within [.combMem] s t)

/-- R427: a failed poll is skipped and counted, a failed descriptor read leaves the descriptor for the next poll, a failed
read of a transfer's data stops the partition with INTERNAL and the function's unit code. -/
def Obligations.FailedHostReads : Prop := ∀ (s : State) (p : Part),
  (∀ r : Ring, s.parts[p].rings[r].polled = true → hostIssued s (fnOf p) (.word (.ring p r)) = true →
    Does (.hostReadFail .timeout (.word (.ring p r))) s fun t =>
    t.parts[p].rings[r] = { s.parts[p].rings[r] with polled := false } ∧
    t.fns[fnOf p].timeout = hit 16 s.fns[fnOf p].timeout ∧ Within [.out, .host, .rings, .fns] s t) ∧
  (∀ r : Ring, s.parts[p].rings[r].fetching ≠ 0 → hostIssued s (fnOf p) (.descriptor p r) = true →
    Does (.hostReadFail .badCompletion (.descriptor p r)) s fun t =>
    t.parts[p].rings[r] = { s.parts[p].rings[r] with fetching := 0 } ∧
    t.fns[fnOf p].cplBad = hit 16 s.fns[fnOf p].cplBad ∧ Within [.out, .host, .rings, .fns] s t) ∧
  (∀ (k : Comb) (f : Fin 4) (x : Transfer) (l : List Transfer) (d : RunDesc), partOf s k = some p → s.parts[p].recov = [] →
    s.combs[k].seq.queues[f] = x :: l → (decodeXfer x.block).srcSpace = 0 → s.combs[k].seq.running = some d →
    Does (.hostReadFail .timeout (.transferData k f)) s fun t => Stopped p stInternal s t ∧
      t.fns[fnOf p].timeout = hit 16 s.fns[fnOf p].timeout ∧
      ∃ r, t.parts[p].recov = [r] ∧ r.unit1 = w32 (0x0E00 + (fnOf p).val) ∧ r.supers = [])

/-- R433, R431: an FLR of a VF resets its rings, enables and hive registers and starts a reset of its partition, keeping
region table and semaphores; STOP_INTERFACE_REQUEST does the same and unlocks the interface; PF0's and a port reset reach
every function (the event ring of PF0 is stated where no checkpoint runs, whose end would be an event for it). -/
def Obligations.FunctionResets : Prop := ∀ s : State,
  (∀ p : Part, fnPresent s (fnOf p) = true → s.parts[p].live = true → s.parts[p].recov = [] → Does (.vfFlr p) s fun t =>
    (∀ r : Ring, t.parts[p].rings[r] = {}) ∧ t.parts[p].evq = {} ∧ t.parts[p].hiveAddr = 0 ∧ t.parts[p].rgn = s.parts[p].rgn ∧
    t.parts[p].sems = s.parts[p].sems ∧ t.fns[fnOf p].busMaster = false ∧ t.fns[fnOf p].memSpace = false ∧
    t.parts[p].stopped = true ∧ ∃ r, t.parts[p].recov = [r] ∧ r.domain = 5 ∧ r.noHost = true) ∧
  (∀ p : Part, s.parts[p].live = true → s.parts[p].recov = [] → Does (.stopInterfaceRequest p) s fun t =>
    t.fns[fnOf p].tdi = 0 ∧ t.fns[fnOf p].busMaster = false ∧ (∀ r : Ring, t.parts[p].rings[r] = {}) ∧
    ∃ r, t.parts[p].recov = [r] ∧ r.domain = 5) ∧
  (Does .pf0Flr s fun t => ((∀ p : Part, s.parts[p].ckpt = none) → t.mod.evq = {}) ∧ t.mod.winBase = 0 ∧ t.mod.vfEnable = false ∧
    ∀ f : Fn, t.fns[f].busMaster = false ∧ t.fns[f].memSpace = false) ∧
  (s.mod.vfEnable = true → Does .vfEnableClear s fun t => t.mod.vfEnable = false ∧ t.fns[(0 : Fn)] = s.fns[(0 : Fn)] ∧
    ∀ p : Part, t.fns[fnOf p].busMaster = false ∧ t.fns[fnOf p].memSpace = false) ∧
  (∀ c : Instr, (c = .hotReset ∨ c = .hostLinkDown ∨ c = .perstNAssert) → s.mod.linkUp = true → Does c s fun t =>
    t.mod.linkUp = false ∧ t.mgmt.spdmDoe = false ∧ t.mgmt.spdmMctp = false ∧
    (∀ f : Fn, t.fns[f].secure = false ∧ t.fns[f].keySets = 0 ∧ t.fns[f].tdi = 0 ∧ t.fns[f].busMaster = false) ∧
    (c = .perstNAssert → t.mod.perstN = false))

/-- R428–R432: a received TLP that fails its check makes the stream Insecure and the interface go to ERROR (stated where no
Hild unit of a checkpointing partition is still staging, a gate that the checkpoint's end would open); IDE_KM programs a
key set and K_SET_GO uses it; LOCK needs a partition and a Secure stream, START follows LOCK, and a watched change of a
locked interface is an ERROR. -/
def Obligations.InterfaceSecurity : Prop := ∀ s : State,
  (∀ f : Fn, s.fns[f].secure = true →
    (∀ p : Part, partOfFn f = some p → s.parts[p].ckpt ≠ none → ∀ k ∈ combsOf s p, s.supers[k].hild.state ≠ 1) →
    Does (.ideCheckFail f) s fun t => t.fns[f].secure = false ∧ t.fns[f].keySets = 0 ∧
    t.fns[f].ideFail = hit 16 s.fns[f].ideFail ∧
    t.fns[f].tdi = if s.fns[f].tdi = 1 ∨ s.fns[f].tdi = 2 then 3 else s.fns[f].tdi) ∧
  (∀ (f : Fn) (i : Fin 2), s.mgmt.spdmDoe = true → Does (.keyProg f i) s fun t => t.fns[f].keySets.getLsbD i.val = true ∧
    t.fns[f].secure = s.fns[f].secure ∧ Within [.fns] s t) ∧
  (∀ (f : Fn) (i : Fin 2), s.mgmt.spdmDoe = true → s.fns[f].keySets.getLsbD i.val = true → Does (.kSetGo f i) s fun t =>
    t.fns[f] = { s.fns[f] with activeSet := i.val, secure := true } ∧ Within [.fns] s t) ∧
  (∀ p : Part, s.fns[fnOf p].tdi = 0 → s.parts[p].live = true → s.fns[fnOf p].secure = true →
    Does (.lockInterfaceRequest p) s fun t => t.fns[fnOf p] = { s.fns[fnOf p] with tdi := 1 } ∧ Within [.fns] s t) ∧
  (∀ p : Part, s.parts[p].live = false ∨ s.fns[fnOf p].secure = false → exec (.lockInterfaceRequest p) s = .next s) ∧
  (∀ p : Part, s.fns[fnOf p].tdi = 1 → Does (.startInterfaceRequest p) s fun t =>
    t.fns[fnOf p] = { s.fns[fnOf p] with tdi := 2 } ∧ Within [.fns] s t) ∧
  (∀ (p : Part) w, s.fns[fnOf p].tdi = 1 ∨ s.fns[fnOf p].tdi = 2 → Does (.pciConfigWrite p w) s fun t =>
    t.fns[fnOf p] = { s.fns[fnOf p] with tdi := 3 } ∧ Within [.fns] s t)

/-- R432, R433, R574: function enables cleared, D3hot, PERST_N released, the link trained at a rate and width of R412, DOE Abort
and an SPDM session established. -/
def Obligations.HostLinkAndSessions : Prop := ∀ s : State,
  (∀ f : Fn, Does (.d3hotEnter f) s fun t => t.fns[f] = { s.fns[f] with d3 := true } ∧ canRequest t f = false ∧ Within [.fns] s t) ∧
  (∀ f : Fn, Does (.busMasterClear f) s fun t => t.fns[f].busMaster = false ∧ canRequest t f = false ∧
    t.fns[f].memSpace = s.fns[f].memSpace ∧ Within [.fns] s t) ∧
  (∀ f : Fn, Does (.memorySpaceClear f) s fun t => t.fns[f].memSpace = false ∧ mmioOpen t f = false ∧
    t.fns[f].busMaster = s.fns[f].busMaster ∧ Within [.fns] s t) ∧
  (exec .perstNRelease s = .next { s with mod := { s.mod with perstN := true } }) ∧
  (s.mod.perstN = true → s.power.pwrgd = true → s.power.prefLost = false → s.mod.linkUp = false →
    ∀ g ∈ linkRates, ∀ w ∈ linkWidths, exec (.hostLinkUp g w) s = .next { s with mod := { s.mod with linkUp := true, gts := g, width := w } }) ∧
  (exec .doeAbort s = .next { s with mgmt := { s.mgmt with doeError := false } }) ∧
  (s.boot.stage = 5 → s.mgmt.doeError = false →
    exec (.spdmSessionEstablish .doe) s = .next { s with mgmt := { s.mgmt with spdmDoe := true } }) ∧
  (s.boot.stage = 5 → exec (.spdmSessionEstablish .mctp) s = .next { s with mgmt := { s.mgmt with spdmMctp := true } })

/-! ### Rings and descriptors (R81–R108) -/

/-- R84, R88: a ring whose records are written is enabled with its counts at 0; a disabled ring fetches nothing, its unstarted
descriptors end with RESET_ABORTED, and with none left it reads DISABLED; an event ring likewise. -/
def Obligations.RingsEnableAndDisable : Prop := ∀ s : State, s.boot.stage = 5 →
  (∀ (p : Part) (r : Ring) (cfg : Word), s.parts[p].live = true → cfg.getLsbD 0 = true → s.parts[p].rings[r].enable = false →
    s.parts[p].rings[r].state = 0 → keepsStopped s p r = false → Does (.ringEnable p r cfg) s fun t =>
      t.parts[p].rings[r].enable = true ∧ t.parts[p].rings[r].state = 1 ∧ t.parts[p].rings[r].consumed = 0 ∧
      t.parts[p].rings[r].written = 0 ∧ t.parts[p].rings[r].log2 = cfg.extractLsb' 1 5 ∧
      t.parts[p].rings[r].pollDiv = cfg.extractLsb' 8 6 ∧ t.parts[p].rings[r].sqBase = s.parts[p].rings[r].sqBase ∧
      t.parts[p].rings[r].pass = cfg.extractLsb' 1 5 ∧ t.parts[p].rings[r].passCq = s.parts[p].rings[r].cqBase ∧
      (∀ q : Ring, q ≠ r → t.parts[p].rings[q] = s.parts[p].rings[q]) ∧ Within [.rings] s t) ∧
  (∀ (p : Part) (r : Ring) (cfg : Word), s.parts[p].live = true → cfg.getLsbD 0 = true → s.parts[p].rings[r].enable = false →
    s.parts[p].rings[r].state ≠ 0 → Does (.ringEnable p r cfg) s fun t =>
      t.parts[p].rings[r].enable = false ∧ t.parts[p].rings[r].descs = s.parts[p].rings[r].descs ∧ Within [.rings] s t) ∧
  (∀ (p : Part) (r : Ring) (cfg : Word), s.parts[p].live = true → cfg.getLsbD 0 = false → s.parts[p].rings[r].enable = true →
    Does (.ringDisable p r cfg) s fun t => t.parts[p].rings[r].enable = false ∧ t.parts[p].rings[r].fetching = 0 ∧
      t.parts[p].rings[r].log2 = s.parts[p].rings[r].log2 ∧
      (∀ d ∈ s.parts[p].rings[r].descs, d.stage = .fetched →
        d.decide' stResetAborted 0 0 (serving s p r) ∈ t.parts[p].rings[r].descs) ∧
      (s.parts[p].rings[r].descs = [] → t.parts[p].rings[r].state = 0) ∧ Within [.rings] s t) ∧
  (∀ cfg : Word, cfg.getLsbD 0 = true → s.mod.evq.enable = false → Does (.eventRingEnable 0 cfg) s fun t =>
    t.mod.evq = { s.mod.evq with enable := true, log2 := cfg.extractLsb' 1 5, written := 0, head := 0, polled := false } ∧
    Within [.mod] s t) ∧
  (∀ (p : Part) (cfg : Word), cfg.getLsbD 0 = false → s.parts[p].live = true → s.parts[p].evq.enable = true →
    Does (.eventRingDisable (fnOf p) cfg) s fun t =>
      t.parts[p].evq = { s.parts[p].evq with enable := false, polled := false } ∧ Within [.evq] s t)

/-- R89–R92: a poll reads the doorbell and head words, at once or behind the function's waiting requests; a word of another epoch only sets STALE_DB; a doorbell more than 2^L
ahead is a ring fault; else the ring fetches up to the doorbell count, 256 a poll, and no more than its free completion
slots, CQ_FULL set and counted where those hold any back; the descriptors arrive in order, numbered from CONSUMED. -/
def Obligations.PollsAndFetches : Prop := ∀ (s : State) (p : Part) (r : Ring) (g : RingState), s.parts[p].rings[r] = g →
  (s.parts[p].live = true → frameOf s p % 64 = 0 → slotOf s p = 0 → (∀ k : Comb, s.combs[k].hum.active = false) →
    g.enable = true → g.state = 1 → g.polled = false → canRequest s (fnOf p) = true → Does (.frame64Poll (fnOf p)) s fun t =>
      t.parts[p].rings[r].polled = true ∧ ∀ a, a = g.dbAddr ∨ a = g.headAddr →
        asSent s (fnOf p) (.hostRead (fnOf p) a 8) ∈ t.out ∨ .read a 8 (.word (.ring p r)) ∈ t.host.waiting[fnOf p]) ∧
  (hostIssued s (fnOf p) (.word (.ring p r)) = true → ∀ db head : DbWord, g.polled = true → g.enable = true → g.state = 1 ∨ g.state = 2 → g.dbFault db = true →
    Does (.doorbellReadDone (.ring p r) db head) s fun t => t.parts[p].rings[r].state = 3 ∧
      t.parts[p].rings[r].fault = hit 16 g.fault ∧ t.parts[p].rings[r].fetching = 0 ∧ t.parts[p].rings[r].descs = g.descs) ∧
  (hostIssued s (fnOf p) (.word (.ring p r)) = true → ∀ db head : DbWord,
    g.polled = true → g.enable = true → g.state = 1 ∨ g.state = 2 → g.dbFault db = false → g.fetching = 0 →
    db.epoch = g.epoch → head.epoch = g.epoch → (head.count - g.head).toNat ≤ (g.written - g.head).toNat →
    Does (.doorbellReadDone (.ring p r) db head) s fun t => t.parts[p].rings[r].dbCount = db.count ∧
      t.parts[p].rings[r].head = head.count ∧ t.parts[p].rings[r].fetching =
        min (min (db.count - g.consumed).toNat 256) (2 ^ ringLog g.pass - (g.consumed - head.count).toNat) ∧
      t.parts[p].rings[r].cqFull = (if 2 ^ ringLog g.pass - (g.consumed - head.count).toNat <
        min (db.count - g.consumed).toNat 256 then hit 16 g.cqFull else g.cqFull) ∧
      t.parts[p].rings[r].staleDb = g.staleDb ∧ Within [.out, .host, .rings] s t) ∧
  (hostIssued s (fnOf p) (.word (.ring p r)) = true → ∀ db head : DbWord, g.polled = true → g.enable = true → g.state = 1 ∨ g.state = 2 → g.fetching = 0 → db.epoch ≠ g.epoch →
    head.epoch = g.epoch → head.count = g.head → Does (.doorbellReadDone (.ring p r) db head) s fun t =>
      t.parts[p].rings[r].dbCount = g.dbCount ∧ t.parts[p].rings[r].staleDb = hit 16 g.staleDb) ∧
  (hostIssued s (fnOf p) (.descriptor p r) = true → ∀ ds : List Bytes, g.fetching ≠ 0 → ds.length = g.fetching → (∀ b ∈ ds, b.length = 64) →
    Does (.descriptorFetchDone p r ds) s fun t => t.parts[p].rings[r].fetching = 0 ∧
      t.parts[p].rings[r].consumed = g.consumed + w32 ds.length ∧
      (t.parts[p].rings[r].descs.map fun d => (d.idx, d.bytes)) =
        (g.descs.map fun d => (d.idx, d.bytes)) ++ ds.mapIdx (fun i b => (g.consumed + w32 i, b)) ∧ Within [.out, .host, .rings, .partRegs] s t)

/-- R95–R97: the next descriptor of a ring starts; one that fails a check is decided with its status, one whose predicate differs
from SENSE with SKIPPED. R84, R99, R101: DESCRIPTOR_COMPLETE writes the record of a decided descriptor into the next slot, counts
it, and increments SIG_SEM first where SIG_EN is set and the status signals; an undecided descriptor stays. -/
def Obligations.DescriptorsStartAndComplete : Prop :=
  (∀ (s : State) (p : Part) (r : Ring) (d : Desc),
   nextToStart s.parts[p].rings[r] = some d →
   (startBad s p d = none → descPred s p d = some true → Does (.descriptorStart p r) s fun t =>
     (∃ e ∈ t.parts[p].rings[r].descs, e.idx = d.idx ∧ e.stage = .started) ∧ Within [.rings] s t) ∧
   (startBad s p d = none → descPred s p d = some false → Does (.descriptorStart p r) s fun t =>
     (∃ e ∈ t.parts[p].rings[r].descs, e.idx = d.idx ∧ e.stage = .done ∧ e.status = stSkipped) ∧ Within [.rings] s t) ∧
   (∀ st d1 d2, startBad s p d = some (st, d1, d2) → Does (.descriptorStart p r) s fun t =>
     (∃ e ∈ t.parts[p].rings[r].descs, e.idx = d.idx ∧ e.stage = .done ∧ e.status = st ∧ e.detail = d1 ∧ e.detail2 = d2) ∧
     Within [.rings] s t) ∧
   (startBad s p d = none → descPred s p d = none → exec (.descriptorStart p r) s = .next s)) ∧
  (∀ (s : State) (p : Part) (r : Ring) (idx : Word) (d : Desc),
   findDesc s.parts[p].rings[r] idx = some d →
   (d.stage = .done → Does (.descriptorComplete p r idx) s fun t =>
     let g := s.parts[p].rings[r]
     Posted (fnOf p) [.post 32 (.completion p r (g.passCq + w64 (32 * (g.written.toNat % 2 ^ ringLog g.pass)))
       (completionRec d r (beatOf s (serving s p r)) (phaseOf g.written (ringLog g.pass))))] s t ∧
     t.parts[p].rings[r].written = s.parts[p].rings[r].written + 1 ∧ (∀ e ∈ t.parts[p].rings[r].descs, e.idx ≠ idx) ∧
     (∀ i, semVal t p i = semVal s p i + if bits (fieldAt d.bytes 10 2) 15 15 = 1 ∧ signals d.status = true ∧
       i = bits (fieldAt d.bytes 10 2) 11 0 then 1 else 0) ∧ Within [.out, .host, .seq, .rings, .sems] s t) ∧
   (d.stage ≠ .done → exec (.descriptorComplete p r idx) s = .next s))

/-- R99, R100: a started SYNC SET or ADD changes its semaphore, modulo 2^64, and completes with OK; a wait completes at once
where the semaphore satisfies it and else leaves the ring WAITING. -/
def Obligations.SyncDescriptors : Prop := ∀ (s : State) (p : Part) (r : Ring) (d : Desc),
  startedDesc s p r opSync = some d →
  (d.field 18 1 % 4 = 2 → Does (.syncSet p r) s fun t => (∀ i, semVal t p i = if i = d.sem then d.value else semVal s p i) ∧
    (∃ e ∈ t.parts[p].rings[r].descs, e.idx = d.idx ∧ e.stage = .done ∧ e.status = stOK) ∧ Within [.seq, .rings, .sems] s t) ∧
  (d.field 18 1 % 4 = 3 → Does (.syncAdd p r) s fun t =>
    (∀ i, semVal t p i = if i = d.sem then semVal s p i + d.value else semVal s p i) ∧
    (∃ e ∈ t.parts[p].rings[r].descs, e.idx = d.idx ∧ e.stage = .done ∧ e.status = stOK) ∧ Within [.seq, .rings, .sems] s t) ∧
  (d.field 18 1 % 4 = 0 → d.value ≤ semVal s p d.sem → Does (.syncWaitGe p r) s fun t =>
    (∃ e ∈ t.parts[p].rings[r].descs, e.idx = d.idx ∧ e.stage = .done ∧ e.status = stOK) ∧ Within [.rings] s t) ∧
  (d.field 18 1 % 4 = 0 → semVal s p d.sem < d.value → s.parts[p].rings[r].state = 1 → Does (.syncWaitGe p r) s fun t =>
    t.parts[p].rings[r].state = 2 ∧ (∃ e ∈ t.parts[p].rings[r].descs, e.idx = d.idx ∧ e.stage = .active) ∧ Within [.rings] s t) ∧
  (d.field 18 1 % 4 = 1 → semVal s p d.sem = d.value → Does (.syncWaitEq p r) s fun t =>
    (∃ e ∈ t.parts[p].rings[r].descs, e.idx = d.idx ∧ e.stage = .done ∧ e.status = stOK) ∧ Within [.rings] s t)

/-- R109, R113, R271, R273: COMPUTE of a single-owner context owes a part on every comb it names and starts or queues a program
there; UPDATE queues one run on each super with room and goes on waiting for the others; FENCE completes once its scope has
drained. -/
def Obligations.ComputeUpdateAndFence : Prop := ∀ (s : State) (p : Part) (r : Ring) (d : Desc),
  (∀ m : Manifest, startedDesc s p r opCompute = some d → s.parts[p].ctx.man = some m → m.owners.length = 1 →
    (∀ k ∈ combsMask s p d.combMask, s.combs[k].seq.running.isSome = true) →
    Does (.compute p r) s fun t => (∃ e ∈ t.parts[p].rings[r].descs, e.idx = d.idx ∧ e.stage = .active ∧
        e.combsLeft = combsMask s p d.combMask) ∧
      (∀ k ∈ combsMask s p d.combMask, t.combs[k].seq.waiting = s.combs[k].seq.waiting ++ [⟨p, r, d.idx⟩] ∧
        t.combs[k].seq.running = s.combs[k].seq.running) ∧ Within [.seq, .rings] s t) ∧
  ((s.parts[p].rings[r].descs.find? fun e => !(canSend s p e).isEmpty) = some d → Does (.update p r) s fun t =>
      (∀ k : Super, if k ∈ canSend s p d then ∃ run, t.supers[k].hild.queue = s.supers[k].hild.queue ++ [run] ∧
        run.first = d.field 16 2 ∧ run.count = d.field 18 2 ∧ run.desc = some ⟨p, r, d.idx⟩ else t.supers[k] = s.supers[k]) ∧
      (∃ e ∈ t.parts[p].rings[r].descs, e.idx = d.idx ∧ e.stage = .active ∧
        e.unsent = (toSend s p d).filter fun k => !(canSend s p d).contains k) ∧ Within [.rings, .hild] s t) ∧
  ((s.parts[p].rings[r].descs.find? fun e => e.isFence && fenceDone s p r e) = some d → Does (.fence p r) s fun t =>
    (∃ e ∈ t.parts[p].rings[r].descs, e.idx = d.idx ∧ e.stage = .done ∧ e.status = stOK) ∧ Within [.rings] s t) ∧
  ((s.parts[p].rings[r].descs.find? fun e => e.isFence && fenceDone s p r e) = none → startedDesc s p r opFence = some d →
    Does (.fence p r) s fun t => (∃ e ∈ t.parts[p].rings[r].descs, e.idx = d.idx ∧ e.stage = .active) ∧ Within [.rings] s t)

/-! ### Descriptors that move data (R390–R402, R469–R473) -/

/-- R469: COPY moves LENGTH bytes from its source to its destination and completes with OK and DETAIL LENGTH; into the comb
store exactly those bytes change. A host source may reach only a region under a CLEAR key, its bytes as they are, or a
DELIVERED one, its ingest record opened; a chunk that fails ends it with FORMAT_ERROR and that chunk's offset. It runs once the
supers on its way answer and a host source can be read; what its read of memory leaves behind is u. -/
def Obligations.CopiesMoveData : Prop := ∀ (s : State) (p : Part) (r : Ring) (d : Desc) (host : Bytes),
  startedDesc s p r opCopy = some d →
  let n := d.field 32 4
  let a := d.field 24 8
  let moved : Bytes → State → Prop := fun data u =>
    (d.field 36 1 % 4 = 1 ∧ ppaServes s (serving s p r) p (d.field 16 8) n = true ∧ ppaFetch p (d.field 16 8) n s = (u, data, none) ∧
      startedDesc u p r opCopy = some d) ∨
    (d.field 36 1 % 4 = 2 ∧ data = combRead s (firstComb s p d) (d.field 16 8) n ∧ u = s)
  (d.field 37 1 % 4 = 1 → ppaServes s (serving s p r) p a n = true) →
  (∀ data u, d.field 37 1 % 4 = 2 → moved data u → let k := firstComb u p d
    Does (.copy p r host) s fun t => combRead t k a data.length = data ∧ Ended t p r d stOK (w32 n) 0 ∧
      (∀ x, x < a ∨ a + data.length ≤ x → memByte t.combs[k].store x = memByte u.combs[k].store x) ∧
      (∀ j : Comb, j ≠ k → t.combs[j] = u.combs[j]) ∧ Within [.combMem, .rings] u t) ∧
  (∀ data u, d.field 37 1 % 4 = 1 → moved data u → (ppaWrite p a data u).2 = none →
    exec (.copy p r host) s = .next (finish p r d.idx stOK (w32 n) 0 (serving (ppaWrite p a data u).1 p r) (ppaWrite p a data u).1)) ∧
  (d.field 36 1 % 4 = 0 → host.length = n → hostOpen s (fnOf p) = true → let u := hostFetch (fnOf p) [(d.field 16 8, n)] s
    (hostRefused u p (d.field 37 1 % 4) a n = true → Does (.copy p r host) s fun t =>
      Ended t p r d stAccessViolation 0 (BitVec.ofNat 56 a) ∧ Within [.out, .rings] s t) ∧
    (hostRefused u p (d.field 37 1 % 4) a n = false → ingestKind u p a = .clear → (ppaWrite p a host u).2 = none →
      exec (.copy p r host) s = .next (finish p r d.idx stOK (w32 n) 0 (serving (ppaWrite p a host u).1 p r) (ppaWrite p a host u).1)) ∧
    (∀ key o, hostRefused u p (d.field 37 1 % 4) a n = false → ingestKind u p a = .delivered key →
      (openIngest key (jobOf u p) host).2 = some o →
      exec (.copy p r host) s = .next (finish p r d.idx stFormatError (w32 o) 0 (serving u p r)
        (ppaPut p a (openIngest key (jobOf u p) host).1 u))))

/-- R470–R473: an EGRESS refused by the checks ends with their status, nothing leaves the module and a stream not secure is
noted; one that passes writes its record at DST, advances the counter of its class by the chunks, and a CLEAR one is charged. (v is
the state once it is charged, u what its read of memory leaves behind.) -/
def Obligations.EgressIsCheckedAndCounted : Prop := ∀ (s : State) (p : Part) (r : Ring) (d : Desc),
  startedDesc s p r opEgress = some d →
  let cls := d.field 8 1 % 4
  let rc := d.field 9 1 % 16
  let n := d.field 32 4
  (∀ st x y, egressCheck s p cls rc n = some (st, x, y) → Does (.egress p r) s fun t => Ended t p r d st x y ∧
    (st = stEgressDenied ∨ st = stEgressBudget) ∧
    (s.fns[fnOf p].secure = false → t.fns[fnOf p].noIde = hit 16 s.fns[fnOf p].noIde) ∧ Within [.rings, .fns] s t) ∧
  (∀ data u, egressCheck s p cls rc n = none → ppaServes s (serving s p r) p (d.field 16 8) n = true →
    let v := chargeClear p cls n s
    v.parts[p].ctx.clearLeft = (if cls = clsClear then s.parts[p].ctx.clearLeft - n else s.parts[p].ctx.clearLeft) ∧
    (ppaFetch p (d.field 16 8) n v = (u, data, none) → startedDesc u p r opEgress = some d → Does (.egress p r) s fun t =>
      Posted (fnOf p) (hostWrites u (fnOf p) (d.field 24 8) (egressBytes u p cls rc data) true) u t ∧
      Ended t p r d stOK (w32 (egressBytes u p cls rc data).length) 0 ∧ t.parts[p].ctx.clearLeft = u.parts[p].ctx.clearLeft ∧
      (cls = clsSealed → seqFor t.parts[p].ctx rc = seqFor u.parts[p].ctx rc + BitVec.ofNat 64 (chunkCount n)) ∧
      t.parts[p].ctx.seqCkpt = (if cls = clsCheckpoint then u.parts[p].ctx.seqCkpt + BitVec.ofNat 64 (chunkCount n)
        else u.parts[p].ctx.seqCkpt) ∧ Within [.out, .host, .ctx, .rings] u t))

/-- R399, R402: a FABRIC on a flow of its own comb whose beat has not begun puts its flits at the end of the flow's queue; a
beat already begun is TIMETABLE_REJECT 8. R67, R68: TIMETABLE is decided by the checks of its image; only an admitted one
becomes the partition's next timetable, with its origin and beat length in HUM_BEAT_CFG. Each runs once the supers on its way
answer; what its read of memory leaves behind is u. -/
def Obligations.FabricAndTimetables : Prop := ∀ (s : State) (p : Part) (r : Ring) (d : Desc),
  (∀ k fl, startedDesc s p r opFabric = some d → descFlow s p (d.field 16 2) = some (k, fl) → d.combMask = 2 ^ k.val →
    (beatBegun s k (d.field 40 6) = true → Does (.fabric p r) s fun t => Ended t p r d stTimetableReject 8 0 ∧ Within [.rings] s t) ∧
    (∀ data u, beatBegun s k (d.field 40 6) = false → ppaServes s (serving s p r) p (d.field 24 8) (fabricBytes d fl) = true →
      ppaFetch p (d.field 24 8) (fabricBytes d fl) s = (u, data, none) → startedDesc u p r opFabric = some d →
      Does (.fabric p r) s fun t => t.combs[k].router.flows = (u.combs[k].router.flows.map fun f =>
          if f.tx = true ∧ f.index = d.field 16 2 then { f with queue := f.queue ++ descFlits d ⟨p, r, d.idx⟩ fl data } else f) ∧
        (∃ e ∈ t.parts[p].rings[r].descs, e.idx = d.idx ∧ e.stage = .active) ∧ Within [.router, .rings] u t)) ∧
  (∀ img u, startedDesc s p r opTimetable = some d → ppaServes s (serving s p r) p (d.field 16 8) (d.field 24 4) = true →
    ppaFetch p (d.field 16 8) (d.field 24 4) s = (u, img, none) → startedDesc u p r opTimetable = some d →
    Does (.timetable p r) s fun t => Ended t p r d (judge u p img).1 (w32 (judge u p img).2) 0 ∧
      if (judge u p img).1 = stOK then t.parts[p].nextTt = some (decodeTt img) ∧
        (∀ k ∈ combsOf u p, t.combs[k].hum.origin = (decodeTt img).origin ∧
          t.combs[k].hum.cfgFrames = BitVec.ofNat 12 ((decodeTt img).beatFrames - 1)) ∧
        Within [.hum, .router, .rings, .partRegs] u t
      else Within [.rings] u t)

/-! ### Checkpoints and restores (R513–R537) -/

/-- R518, R523, R530, R533: a CHECKPOINT that passes its checks fixes its step and holds the runs beyond it; while one runs,
another waits; once every record agrees the shards are copied or written, then the manifest, and its end frees the hold,
sets LAST_STEP and counts. Each runs once the supers answer and earlier host writes have left (u: what reading the commit records
leaves behind). -/
def Obligations.CheckpointsRunInSteps : Prop := ∀ (s : State) (p : Part),
  (∀ (r : Ring) (d : Desc) (list : Bytes), startedDesc s p r opCheckpoint = some d → s.parts[p].ckpt = none →
    list.length = 64 * d.field 24 4 → 2 ≤ d.field 24 4 → d.field 24 4 ≤ 8193 → egressCheck s p clsCheckpoint 0 0 = none →
    listSalvage list = false → partServes s p = true → hostOpen s (fnOf p) = true →
    (∀ o, ckptListBad s p false list = some o → Does (.checkpoint p r list) s fun t =>
      Ended t p r d stFormatError (w32 o) 0 ∧ t.parts[p].ckpt = none ∧ Within [.out, .rings] s t) ∧
    (ckptListBad s p false list = none → planBad s p list (listSnap list) = none → committing s p = [] →
      Does (.checkpoint p r list) s fun t => (∃ c, t.parts[p].ckpt = some c ∧ c.list = list ∧ c.hold = true ∧
        c.ring = some ⟨p, r, d.idx⟩ ∧ (w64 (d.field 32 8) ≠ BitVec.allOnes 64 → c.step = w64 (d.field 32 8))) ∧
        t.parts[p].ckptState = 1 ∧ Within [.out, .draws, .rings, .partRegs] s t)) ∧
  (∀ (r : Ring) (d : Desc) (list : Bytes) c, startedDesc s p r opCheckpoint = some d → s.parts[p].ckpt = some c → c.list ≠ [] →
    Does (.checkpoint p r list) s fun t => t.parts[p].ckpt = some c ∧
      (∃ e ∈ t.parts[p].rings[r].descs, e.idx = d.idx ∧ e.stage = .started ∧ e.blocked = true) ∧ Within [.rings] s t) ∧
  (∀ c rs u, s.parts[p].ckpt = some c → s.parts[p].ckptState = 1 → c.list ≠ [] → partServes s p = true →
    readCommits p (committing s p) s = (u, .ok rs) →
    (rs.all (stepMet u c.step) = false → exec (.checkpointStepReady p) s = .next u) ∧
    (rs.all (stepMet u c.step) = true → firstDiffer rs = none → c.step ≤ (rs.head?.map (·.2.2)).getD c.step →
      listSnap c.list = true → Does (.checkpointStepReady p) s fun t => t.parts[p].ckptState = 2 ∧
        t.parts[p].ckpt = some { c with label := (rs.head?.map (·.2.2)).getD c.step } ∧ Within [.partRegs] u t)) ∧
  (∀ c u, s.parts[p].ckpt = some c → s.parts[p].ckptState = 2 → c.wrote = false → listSnap c.list = true → partServes s p = true →
    copyShards p (snapSources (fieldAt c.list 32 8) (ownShards c.list)) s = (u, none) →
    exec (.snapshotCopyDone p) s = .next (runShards p (snapSources (fieldAt c.list 32 8) (ownShards c.list))
      (releaseHold p (u.modPart p fun q => { q with ckpt := some { c with hold := false } })))) ∧
  (∀ c m, s.parts[p].ckpt = some c → s.parts[p].ckptState = 2 → c.wrote = true → postWaits s (fnOf p) = false →
    s.parts[p].ctx.man = some m → s.fns[fnOf p].secure = true → (∀ k ∈ combsOf s p, s.supers[k].hild.state ≠ 1) →
    Does (.checkpointShardsVisible p) s fun t =>
      let man := signManifest s.boot.cdi1 (instanceKey (s.parts[p].ctx.ckptKey.getD 0) c.id) c.mseq (manifestBody s p c m)
      Posted (fnOf p) (hostWrites s (fnOf p) (fieldAt c.list 16 8) man false) s t ∧ t.parts[p].ckptState = 3 ∧
      t.parts[p].ckpt = some { c with hold := false, moved := c.moved + man.length } ∧ Within [.out, .host, .partRegs] s t) ∧
  (∀ c m, s.parts[p].ckpt = some c → s.parts[p].ckptState = 2 → c.wrote = true → postWaits s (fnOf p) = false →
    s.parts[p].ctx.man = some m → s.fns[fnOf p].secure = false → (∀ k ∈ combsOf s p, s.supers[k].hild.state ≠ 1) →
    Does (.checkpointShardsVisible p) s fun t => t.parts[p].ckpt = none ∧
      t.parts[p].orphaned = hit 16 s.parts[p].orphaned ∧ t.fns[fnOf p].noIde = hit 16 s.fns[fnOf p].noIde) ∧
  (∀ c rd d, s.parts[p].ckpt = some c → s.parts[p].ckptState = 3 → postWaits s (fnOf p) = false → c.ring = some rd →
    findDesc s.parts[p].rings[rd.ring] rd.idx = some d → d.stage ≠ .done → Does (.checkpointManifestVisible p) s fun t =>
      t.parts[p].ckpt = none ∧ t.parts[p].ckptState = 0 ∧ t.parts[p].lastStep = c.label.setWidth 48 ∧
      t.parts[p].ckptDone = (s.parts[p].ckptDone + 1) % 2 ^ 16 ∧ Ended t p rd.ring d stOK (w32 c.moved) 0 ∧
      Within [.rings, .partRegs] s t)

/-- R534–R536: a RESTORE refused by the checks ends with their status; else its records are checked in pass 1, none of them
written if one fails, and in pass 2 opened and written, the commit records last; a failure then leaves the plan undefined. Each step
runs once the host can be read and, in pass 2, the supers answer. -/
def Obligations.RestoresCheckBeforeTheyWrite : Prop := ∀ (s : State) (p : Part) (man : Manifest), s.parts[p].ctx.man = some man →
  (∀ (r : Ring) (d : Desc) (list block : Bytes), startedDesc s p r opRestore = some d → s.parts[p].restore = none →
    list.length = 64 * d.field 40 4 → block.length = d.field 24 4 → 2 ≤ d.field 40 4 → d.field 40 4 ≤ 8193 →
    hostOpen s (fnOf p) = true → let u := hostFetch (fnOf p) [(d.field 32 8, 64 * d.field 40 4), (d.field 16 8, d.field 24 4)] s
    Does (.restore p r list block) s fun t => match restoreBad u p man list block with
      | some (st, x, y) => Ended t p r d st x y ∧ Within [.out, .rings] s t
      | none => t.parts[p].restore = some ⟨⟨p, r, d.idx⟩, list, block, 1⟩ ∧
          (∃ e ∈ t.parts[p].rings[r].descs, e.idx = d.idx ∧ e.stage = .active) ∧ Within [.out, .rings, .partRegs] s t) ∧
  (∀ (x : Restore) (d : Desc) (recs : List Bytes), s.parts[p].restore = some x → x.pass = 1 →
    recs.length = (shardsOf x.list).length → hostOpen s (fnOf p) = true →
    findDesc s.parts[p].rings[x.ring.ring] x.ring.idx = some d → d.stage ≠ .done →
    Does (.restorePass1Done p recs) s fun t => match ((shardsOf x.list).zip recs).find? fun e => !recordOk x man.jobId e.1 e.2 with
      | some e => t.parts[p].restore = none ∧ Ended t p x.ring.ring d stRestoreDigest (w32 e.1.index) 0 ∧
          Within [.out, .rings, .partRegs] s t
      | none => t.parts[p].restore = some { x with pass := 2 } ∧ Within [.out, .partRegs] s t) ∧
  (∀ (x : Restore) (recs : List Bytes), s.parts[p].restore = some x → x.pass = 2 → recs.length = (shardsOf x.list).length →
    hostOpen s (fnOf p) = true → partServes s p = true →
    let v := hostFetch (fnOf p) (((shardsOf x.list).zip recs).map fun e => (e.1.host, e.2.length)) s
    committing (loadShards p x man ((shardsOf x.list).zip recs) v).1 p = [] →
    exec (.restorePass2Done p recs) s = .next (match loadShards p x man ((shardsOf x.list).zip recs) v with
      | (u, some (.digest i)) => endRestore p stRestoreDigest (w32 i) 0 (undefinePlan p x.list u)
      | (u, some (.mem e)) => endRestore p e.status.1 e.status.2.1 e.status.2.2 (undefinePlan p x.list u)
      | (u, none) => finish p x.ring.ring x.ring.idx stOK (w32 ((shardsOf x.list).map (·.len)).sum) 0
          (serving u p x.ring.ring) (clearRestore p u)))

/-! ### The hum and its beats (R46–R80) -/

/-- R50: HUM_CFG written by PF0 while no job holds a lease makes the module the root, its hum HUM_EPOCH and LOCKED, or sends
it to FREE; else it is refused. R52–R54, R56: an exchange with the parent gives the offset; FREE steps to the parent's time,
and the counts of good and bad exchanges move the state; a slip retrains the port. R57: HOLDOVER that expires is a hum loss. -/
def Obligations.HumFollowsItsParent : Prop := ∀ s : State,
  (∀ v : Word, regsServed s = true → anyLease s = false → Does (.humCfgWrite 0 v) s fun t =>
    (∀ k : Comb, t.combs[k].hum.state = (if v.getLsbD 0 then 2 else 0) ∧ t.combs[k].hum.time =
      (if v.getLsbD 0 then s.mod.humEpoch.toNat * nsUnits else s.combs[k].hum.time)) ∧ t.mod.humRoot = v.getLsbD 0 ∧
    t.mod.rootX = v.extractLsb' 8 5 ∧ t.mod.rootY = v.extractLsb' 13 5 ∧ t.mod.rootZ = v.extractLsb' 18 5 ∧ Within [.hum, .mod] s t) ∧
  (∀ v : Word, regsServed s = true → anyLease s = true → Does (.humCfgWrite 0 v) s (Within [.queen] s)) ∧
  (∀ (k : Comb) (q : LPort) (x : HumSync), portUp s k q = true → rootPort s = some q → x.tEchoTx ≠ 0 →
    let off := humOffset x.tTx.toNat (now16 s k) x.tEchoTx.toNat x.tEchoRx.toNat
    let h := s.combs[k].hum
    Does (.humSyncReceive k q x) s fun t => t.combs[k].hum.offset = off ∧
      (-200 ≤ t.combs[k].hum.slew ∧ t.combs[k].hum.slew ≤ 200) ∧
      (h.state = 0 → t.combs[k].hum.state = 1 ∧ t.combs[k].hum.time = ((h.time : Int) - off * 5).toNat) ∧
      (h.state ≠ 0 → t.combs[k].hum.time = h.time) ∧
      (h.state = 1 → t.combs[k].hum.state = 1 ∧ t.combs[k].hum.okRun = if -80 ≤ off ∧ off ≤ 80 then h.okRun + 1 else 0) ∧
      (h.state = 2 → t.combs[k].hum.state = 2 ∧ t.combs[k].hum.badRun = if off < -320 ∨ 320 < off then h.badRun + 1 else 0) ∧
      (h.state = 3 → t.combs[k].hum.state = if -320 ≤ off ∧ off ≤ 320 then 2 else 1) ∧ Within [.draws, .hum, .router] s t) ∧
  (∀ (k : Comb) (q : LPort) (x : HumSync), portUp s k q = true → rootPort s ≠ some q → Does (.humSyncReceive k q x) s fun t =>
    t.combs[k].router.ports[q].lastTx = x.tTx ∧ t.combs[k].router.ports[q].lastRx = w64 (now16 s k) ∧ Within [.router] s t) ∧
  (∀ k : Comb, exec (.humLockAcquired k) s = .next (if s.combs[k].hum.state = 1 ∧ 16 ≤ s.combs[k].hum.okRun then
    s.modHum k fun h => { h with state := 2, badRun := 0 } else s)) ∧
  (∀ k : Comb, exec (.humOffsetExceeded k) s = .next (if s.combs[k].hum.state = 2 ∧ 4 ≤ s.combs[k].hum.badRun then
    s.modHum k fun h => { h with state := 3 } else s)) ∧
  (∀ (k : Comb) (p : Part), s.combs[k].hum.state = 3 → partOf s k = some p → s.parts[p].recov = [] → jobAborted s k = false →
    Does (.holdoverExpire k) s fun t => Stopped p stFabricAbort s t ∧ t.combs[k].hum.state = 0 ∧
      t.combs[k].hum.lockLost = hit 16 s.combs[k].hum.lockLost) ∧
  (∀ k : Comb, s.combs[k].hum.state = 3 → partOf s k = none → Does (.holdoverExpire k) s fun t =>
    t.combs[k].hum.state = 0 ∧ t.combs[k].hum.lockLost = hit 16 s.combs[k].hum.lockLost ∧ Within [.hum] s t) ∧
  (∀ (k : Comb) (q : LPort) (d : Fin 2) (n : Fin 5), portUp s k q = true → n.val ≠ 0 → n.val ≠ 4 →
    Does (.elasticSlip k ⟨q, d, n⟩) s fun t => t.combs[k].router.ports[q].fill[d] = n.val ∧ t.combs[k].hum = s.combs[k].hum ∧
      portUp t k q = true ∧ Within [.router] s t) ∧
  (∀ (k : Comb) (q : LPort) (d : Fin 2) (n : Fin 5), portUp s k q = true → n.val = 0 ∨ n.val = 4 →
    jobsOnPort s.combs[k] q = [] → Does (.elasticSlip k ⟨q, d, n⟩) s fun t =>
      t.combs[k].hum.slip = hit 16 s.combs[k].hum.slip ∧ t.combs[k].router.ports[q].state = downState s q false ∧
      t.combs[k].router.ports[q].fill = .replicate 2 2 ∧ Within [.hum, .router, .partRegs] s t) ∧
  (∀ (k : Comb) (q : LPort) (d : Fin 2) (n : Fin 5) (p : Part) (j : JobIx), portUp s k q = true → n.val = 0 ∨ n.val = 4 →
    jobsOnPort s.combs[k] q = [j] → s.combs[k].router.jobs[j].role = 1 → partOf s k = some p → s.parts[p].recov = [] →
    jobAborted s k = false → Does (.elasticSlip k ⟨q, d, n⟩) s fun t => Stopped p stLinkDown s t ∧
      t.combs[k].router.ports[q].state = downState s q false ∧ t.combs[k].hum.slip = hit 16 s.combs[k].hum.slip)

/-- R63, R69: at slot 0 of its origin frame the next timetable takes effect on a comb, and on the last of them for the
partition; beat 0 is polled (R91). R71, R72, R74: at a boundary the marker's slack is recorded, the beat number advances and a
waiting BEAT_DONE goes on; an absent marker is an overrun, which stops the partition, and every other comb at that boundary still
samples its own. R70: in the origin frame a sequencer issues nothing before beat 0. R60: a control slot sends a frame on every UP port, every pending record, and at slot 0 a hum-sync record. -/
def Obligations.BeatsAndControlSlots : Prop := ∀ s : State,
  (∀ (p : Part) (tt : Timetable), s.parts[p].nextTt = some tt → s.parts[p].stopped = false →
    (∀ k ∈ combsOf s p, atOrigin s k tt = true → ∀ j, memberJob s k = some j → s.combs[k].router.jobs[j].keyed = true) →
    Does (.beatGridStart p) s fun t =>
      (if ∃ k ∈ combsOf s p, s.combs[k].hum.due = true ∧ atOrigin s k tt = false then t.parts[p].tt = s.parts[p].tt ∧
          t.parts[p].nextTt = some tt else t.parts[p].tt = some tt ∧ t.parts[p].nextTt = none) ∧
      (∀ k ∈ combsOf s p, atOrigin s k tt = true → t.combs[k].hum.active = true ∧ t.combs[k].hum.due = false ∧
        t.combs[k].hum.beatFrames = BitVec.ofNat 12 (tt.beatFrames - 1) ∧
        t.combs[k].hum.beatStart = frameOf s k ∧ t.combs[k].hum.marker = none ∧
        t.combs[k].hum.beat = (if s.combs[k].hum.active then s.combs[k].hum.beat else 0) ∧
        ((t.combs[k].router.flows.map fun f => (f.tx, f.index)) = (flowsOfComb s p k tt).map fun f => (f.tx, f.index)) ∧
        (s.combs[k].hum.active = false → canRequest s (fnOf p) = true → ∀ r : Ring, serving s p r = k →
          s.parts[p].rings[r].enable = true → s.parts[p].rings[r].state = 1 → t.parts[p].rings[r].polled = true)) ∧
      (∀ k ∈ combsOf s p, atOrigin s k tt = false → t.combs[k].hum = s.combs[k].hum ∧ t.combs[k].router = s.combs[k].router) ∧
      Within [.out, .host, .hum, .router, .rings, .evq, .partRegs] s t) ∧
  (∀ (k : Comb) (h : PredF), awaitsBeat0 s k = true → exec (.beatDone k h) s = .next s ∧
    ∀ a b c, exec (.seqAdd k h a b c) s = .next s ∧ exec (.move k h b 0) s = .next s ∧ exec (.semSet k h b 0) s = .next s) ∧
  (∀ (k : Comb) (p : Part) (uj : Word) (x : Nat), partOf s k = some p → atBoundary s k = true →
    slackAt s.combs[k].hum.marker (boundaryOf s.combs[k].hum) = some x → Does (.beatBoundary k uj) s fun t => t.combs[k].hum.beat = s.combs[k].hum.beat + 1 ∧
      t.combs[k].hum.beatStart = s.combs[k].hum.beatStart + s.combs[k].hum.beatFrames.toNat + 1 ∧ t.combs[k].hum.marker = none ∧
      t.combs[k].hum.lastSlack = x ∧ t.combs[k].hum.overrun = s.combs[k].hum.overrun ∧ t.combs[k].hum.slackLow =
        (if x * 64 < s.combs[k].hum.warn.toNat * (s.combs[k].hum.beatFrames.toNat + 1) * 512 then hit 16 s.combs[k].hum.slackLow
         else s.combs[k].hum.slackLow) ∧
      (s.combs[k].seq.state = 2 → s.combs[k].seq.stall = 7 → t.combs[k].seq.state = 1 ∧ t.combs[k].seq.stall = 0) ∧
      (k = p → t.parts[p].energy = uj) ∧
      Within [.out, .host, .hum, .seq, .combMem, .router, .rings, .evq, .sems, .partRegs, .mod] s t) ∧
  (∀ (k : Comb) (p : Part) (uj : Word), partOf s k = some p → atBoundary s k = true →
    slackAt s.combs[k].hum.marker (boundaryOf s.combs[k].hum) = none → s.parts[p].recov = [] → jobAborted s k = false →
    Does (.beatBoundary k uj) s fun t => Stopped p stBeatOverrun s t ∧
      t.combs[k].hum.overrun = hit 16 s.combs[k].hum.overrun ∧ t.combs[k].hum.active = false ∧
      ∀ j ∈ combsOf s p, j ≠ k → s.combs[j].hum.active = true → boundaryOf s.combs[j].hum = boundaryOf s.combs[k].hum →
        t.combs[j].hum.missed = some (boundaryOf s.combs[k].hum, s.combs[j].hum.marker)) ∧
  (∀ (k : Comb) (p : Part) (uj : Word) (b : Nat) (m : Option Nat), partOf s k = some p → s.combs[k].hum.active = false →
    s.combs[k].hum.missed = some (b, m) → inFirstSlot s.combs[k].hum.time b = true → Does (.beatBoundary k uj) s fun t =>
      t.combs[k].hum.missed = none ∧ t.combs[k].hum.overrun =
        (if slackAt m b = none then hit 16 s.combs[k].hum.overrun else s.combs[k].hum.overrun) ∧
      (∀ x, slackAt m b = some x → t.combs[k].hum.lastSlack = x) ∧ Within [.hum, .partRegs] s t) ∧
  (∀ (k : Comb) (n : Nat), s.combs[k].routerPwr = true → slotOf s k = n → n = 0 ∨ n = 256 → partOf s k ≠ some k →
    Does (.controlSlot k) s fun t =>
      (∀ q : LPort, portUp s k q = true → .frame k q (linkWord s k 3) none ∈ t.out ∧ (n = 0 → ∃ x : HumSync, .humSync k q x ∈ t.out ∧
        x.state = s.combs[k].hum.state ∧ x.tTx = w64 (now16 s k) ∧ x.tEchoTx = s.combs[k].router.ports[q].lastTx ∧
        x.tEchoRx = s.combs[k].router.ports[q].lastRx) ∧
        (∀ e ∈ s.combs[k].router.alarms, e.2.2.getLsbD q.val = true → .record k q 1 (signAlarm s k e.1 e.2.1 q) noVote ∈ t.out) ∧
        (∀ e ∈ s.combs[k].router.votesOut, e.2.2.getLsbD q.val = true → .record k q 2 noAlarm (signVote s k e.1 2 e.2.1 q) ∈ t.out) ∧
        (∀ e ∈ s.combs[k].router.verdictsOut, e.2.2.getLsbD q.val = true → .record k q 3 noAlarm (signVote s k e.1 3 e.2.1 q) ∈ t.out)) ∧
      t.combs[k].router.alarms = [] ∧ t.combs[k].router.votesOut = [] ∧ t.combs[k].router.verdictsOut = [] ∧
      Within [.out, .router] s t) ∧
  (∀ (k q : Comb) (r : LPort) (j : JobIx) (e : JobEntry), q = k → s.combs[k].routerPwr = true → slotOf s k = 256 →
    partOf s k = some q → memberJob s k = some j → s.combs[k].router.jobs[j] = e → e.aborted = false →
    votesComplete s q e = true → e.voteAt + 200 * nsUnits ≤ s.combs[k].hum.time → e.vparent.toNat = r.val → portUp s k r = true →
    Does (.controlSlot k) s fun t => .record k r 2 noAlarm (signVote s k j 2
        (VoteRec.mk (combineVotes e.votes) (voteTag e.votes) e.jobId e.epoch 0 {}) r) ∈ t.out ∧
      t.combs[k].router.jobs[j].votes = [] ∧ Within [.out, .router] s t)

/-! ### The fabric (R367–R411) -/

/-- R372–R374: WAG_COORD and WAG_PORTMAP set their fields; a first ATTACHED trains every enabled port, a cleared one powers all
off; a port-map write takes down the ports it changes and no other. R377: training ends UP or DOWN, and is tried again. -/
def Obligations.PortsTrain : Prop := ∀ s : State,
  (∀ v : DWord, regsServed s = true → anyLeased s = true → Does (.coordWrite 0 v) s (Within [.queen] s)) ∧
  (∀ v : DWord, regsServed s = true → anyLeased s = false → v.getLsbD 31 = s.mod.attached → Does (.coordWrite 0 v) s fun t =>
    t.mod.x = v.extractLsb' 0 5 ∧ t.mod.y = v.extractLsb' 5 5 ∧ t.mod.z = v.extractLsb' 10 5 ∧ t.mod.dimX = v.extractLsb' 16 5 ∧
    t.mod.dimY = v.extractLsb' 21 5 ∧ t.mod.dimZ = v.extractLsb' 26 5 ∧ t.mod.attached = s.mod.attached ∧ Within [.hum, .mod] s t) ∧
  (∀ v : DWord, regsServed s = true → anyLeased s = false → v.getLsbD 31 = true → s.mod.attached = false →
    Does (.coordWrite 0 v) s fun t => t.mod.attached = true ∧ t.mod.x = v.extractLsb' 0 5 ∧
      (∀ (k : Comb) (q : LPort), t.combs[k].router.ports[q].state = if s.combs[k].router.ports[q].state = 0 ∧
        s.combs[k].router.ports[q].stuck = false ∧ s.power.frefLost = false ∧ s.mod.mapEn.getLsbD q.val = true then 1
        else s.combs[k].router.ports[q].state) ∧ (∀ q : LPort, t.ports[physPort s q].on = true) ∧
      Within [.hum, .router, .ports, .mod] s t) ∧
  (∀ v : DWord, regsServed s = true → anyLeased s = false → v.getLsbD 31 = false → s.mod.attached = true →
    (∀ (k : Comb) (q : LPort), jobsOnPort s.combs[k] q = []) → Does (.coordWrite 0 v) s fun t => t.mod.attached = false ∧
      (∀ q : PPort, t.ports[q] = {}) ∧ (∀ (k : Comb) (q : LPort), t.combs[k].router.ports[q].state = 0) ∧
      Within [.hum, .router, .ports, .partRegs, .mod] s t) ∧
  (∀ v : Word, regsServed s = true → (∀ (k : Comb) (q : LPort), jobsOnPort s.combs[k] q = []) →
    Does (.portmapWrite 0 v) s fun t => t.mod.mapEn = v.extractLsb' 0 6 ∧ t.mod.zpSkip = v.getLsbD 6 ∧ t.mod.znSkip = v.getLsbD 7 ∧
      (∀ (k : Comb) (q : LPort), (portChanged s t q = true → t.combs[k].router.ports[q].state ≠ 2) ∧
        (portChanged s t q = false → portUp s k q = true → portUp t k q = true)) ∧ Within [.hum, .router, .ports, .partRegs, .mod] s t) ∧
  (∀ (k : Comb) (q : LPort), s.combs[k].router.ports[q].state = 1 → s.combs[k].routerPwr = true → downState s q false = 1 →
    Does (.trainingDone k q) s fun t => portUp t k q = true ∧
      (s.evt.resetPort ≠ some (k, q) → Within [.router] s t) ∧ (s.evt.resetPort = some (k, q) →
        t.evt.resetPort = none ∧ t.evt.resetBusy = false ∧ t.evt.recovery = hit 16 s.evt.recovery)) ∧
  (∀ (k : Comb) (q : LPort), s.combs[k].router.ports[q].state = 1 → Does (.trainingTimeout k q) s fun t =>
    t.combs[k].router.ports[q].state = 0 ∧ (s.evt.resetPort ≠ some (k, q) → Within [.router] s t)) ∧
  (∀ (k : Comb) (q : LPort), s.combs[k].router.ports[q].state = 0 → s.combs[k].router.ports[q].stuck = false →
    downState s q false = 1 → Does (.trainingRetry k q) s fun t => t.combs[k].router.ports[q].state = 1 ∧ Within [.router] s t)

/-- R379, R380: a hard failure takes the free spare or leaves the strand-port DOWN; a lane warning substitutes the spare by the
lane records, and the switch frame moves the lane. -/
def Obligations.LanesAreSpared : Prop := ∀ s : State,
  (∀ (q : PPort) (rx : Bool) (lane : Fin 16) (p : LPort), logPort s q = some p → s.ports[q].on = true →
    jobsOnPort s.combs[strandOf lane.val] p = [] → Does (.laneHardFail q rx lane) s fun t =>
      (if rx then t.ports[q].failedRx else t.ports[q].failedTx).getLsbD lane.val = true ∧ t.ports[q].subTx = none ∧
      t.ports[q].subRx = none ∧ Within [.hum, .router, .ports, .partRegs] s t ∧
      (spareOf s.ports[q] rx = 31 → spareOf t.ports[q] rx = BitVec.ofNat 5 lane.val ∧
        t.combs[strandOf lane.val].router.spareSwap = hit 16 s.combs[strandOf lane.val].router.spareSwap ∧
        t.combs[strandOf lane.val].router.ports[p].state = downState s p s.combs[strandOf lane.val].router.ports[p].stuck) ∧
      (spareOf s.ports[q] rx ≠ 31 → spareOf t.ports[q] rx = spareOf s.ports[q] rx ∧
        t.combs[strandOf lane.val].router.ports[p].state = 0 ∧ t.combs[strandOf lane.val].router.ports[p].stuck = true)) ∧
  (∀ (q : PPort) (lane : Fin 16) (p : LPort), logPort s q = some p → s.ports[q].on = true → Does (.laneErrorWindow q lane) s fun t =>
    t.combs[strandOf lane.val].router.laneWarn = hit 16 s.combs[strandOf lane.val].router.laneWarn ∧
    Within [.router, .ports, .partRegs] s t ∧
    if s.ports[q].spareRx = 31 ∧ s.ports[q].subRx = none then t.ports[q] = { s.ports[q] with subRx := some { lane := lane } } ∧
      ∀ k : Comb, t.combs[k].router.ports[p].laneRecs = s.combs[k].router.ports[p].laneRecs ++ [(1, lane.val, 0)]
    else t.ports = s.ports) ∧
  (∀ (k : Comb) (p : LPort) (lane : Fin 16), lowestUp s k p = true → s.ports[physPort s p].spareTx = 31 →
    s.ports[physPort s p].subTx = none → Does (.spareReq k p lane) s fun t =>
      t.ports[physPort s p] = { s.ports[physPort s p] with subTx := some { lane := lane, ack := true } } ∧
      (∀ j : Comb, t.combs[j].router.ports[p].laneRecs = s.combs[j].router.ports[p].laneRecs ++ [(2, lane.val, 0)]) ∧
      Within [.router, .ports] s t) ∧
  (∀ (k : Comb) (p : LPort) (lane : Fin 16), lowestUp s k p = true → s.ports[physPort s p].subRx = some { lane := lane } →
    Does (.spareAck k p lane) s fun t =>
      t.ports[physPort s p] = { s.ports[physPort s p] with subRx := some { lane := lane, ack := true } } ∧ Within [.ports] s t) ∧
  (∀ (q : PPort) (p : LPort) (lane : Fin 16) (frame : Word), logPort s q = some p →
    s.ports[q].subRx = some { lane := lane, ack := true } → 16 ≤ (frame - w32 (frameOf s (strandOf lane.val))).toNat →
    (frame - w32 (frameOf s (strandOf lane.val))).toNat < 2147483648 → Does (.spareTrainDone q frame) s fun t =>
      t.ports[q].subRx = some { lane := lane, ack := true, frame := some frame } ∧
      (∀ j : Comb, t.combs[j].router.ports[p].laneRecs = s.combs[j].router.ports[p].laneRecs ++ [(3, lane.val, frame)]) ∧
      Within [.router, .ports] s t) ∧
  (∀ (k : Comb) (p : LPort) (lane : Fin 16) (frame : Word), lowestUp s k p = true →
    s.ports[physPort s p].subTx = some { lane := lane, ack := true } → Does (.spareSwitch k p lane frame) s fun t =>
      t.ports[physPort s p].subTx = some { lane := lane, ack := true, frame := some frame } ∧ Within [.ports] s t) ∧
  (∀ (q : PPort) (rx : Bool) (u : Subst), substOf s.ports[q] rx = some u →
    u.frame = some (w32 (frameOf s (strandOf u.lane.val))) → slotOf s (strandOf u.lane.val) = 0 →
    Does (.spareSwitchFrame q rx) s fun t => spareOf t.ports[q] rx = BitVec.ofNat 5 u.lane.val ∧ substOf t.ports[q] rx = none ∧
      t.combs[strandOf u.lane.val].router.spareSwap = hit 16 s.combs[strandOf u.lane.val].router.spareSwap ∧
      Within [.router, .ports, .partRegs] s t)

/-- R382–R385: WAG_JOB and WAG_LEASE take an allowed write and log a refused one; a commit or release that its checks pass sets or
clears LEASED, else only ERR. -/
def Obligations.LeasesAreGuarded : Prop := ∀ s : State,
  (∀ (k : Comb) (j : JobIx) (v : DWord), regsServed s = true → s.combs[k].router.jobs[j].leased = false →
    (v.extractLsb' 32 2 = 3 ∨ (v.extractLsb' 32 2 = 1 ∧ memberRefused s k j v = true) →
      Does (.wagJobWrite 0 k j v) s (Within [.queen] s)) ∧
    (v.extractLsb' 32 2 = 0 ∨ v.extractLsb' 32 2 = 2 ∨ (v.extractLsb' 32 2 = 1 ∧ memberRefused s k j v = false) →
      Does (.wagJobWrite 0 k j v) s fun t => t.combs[k].router.jobs[j].jobId = v.setWidth 32 ∧
        t.combs[k].router.jobs[j].role = v.extractLsb' 32 2 ∧ t.combs[k].router.jobs[j].vparent = v.extractLsb' 34 4 ∧
        t.combs[k].router.jobs[j].vchild = v.extractLsb' 38 6 ∧ t.combs[k].router.jobs[j].aports = v.extractLsb' 44 6 ∧
        (∀ i : JobIx, i ≠ j → t.combs[k].router.jobs[i] = s.combs[k].router.jobs[i]) ∧ Within [.router] s t)) ∧
  (∀ (k : Comb) (j : JobIx) (v : DWord), s.combs[k].router.jobs[j].leased = true → exec (.wagJobWrite 0 k j v) s = .next s) ∧
  (∀ (k : Comb) (rx : Bool) (p : LPort) (slot : Fin 512) (v : BitVec 16), regsServed s = true →
    (leaseRefused s.combs[k] rx p slot v = true → Does (.wagLeaseWrite 0 k rx p slot v) s (Within [.queen] s)) ∧
    (leaseRefused s.combs[k] rx p slot v = false → Does (.wagLeaseWrite 0 k rx p slot v) s fun t =>
      ∀ (rx' : Bool) (p' : LPort) (slot' : Fin 512), leaseAt t.combs[k] rx' p'.val slot'.val =
        if rx' = rx ∧ p' = p ∧ slot' = slot then v &&& 0x1FF else leaseAt s.combs[k] rx' p'.val slot'.val)) ∧
  (∀ (k : Comb) (j : JobIx), regsServed s = true → Does (.leaseCommit 0 k (BitVec.ofNat 4 j.val)) s fun t =>
    t.combs[k].router.cmtErr = commitErr s k (BitVec.ofNat 4 j.val) ∧ t.combs[k].router.jobs[j].leased =
      (s.combs[k].router.jobs[j].leased || decide (commitErr s k (BitVec.ofNat 4 j.val) = 0)) ∧ Within [.ctx, .router] s t) ∧
  (∀ (k : Comb) (j : JobIx), regsServed s = true → Does (.leaseRelease 0 k (BitVec.ofNat 4 j.val)) s fun t =>
    t.combs[k].router.cmtErr = releaseErr s k (BitVec.ofNat 4 j.val) ∧ t.combs[k].router.jobs[j].leased =
      (s.combs[k].router.jobs[j].leased && decide (releaseErr s k (BitVec.ofNat 4 j.val) ≠ 0)) ∧ Within [.ctx, .router] s t)

/-- R389: a transit flit of the entry's job goes on two data slots later, unchanged; while the hum is FREE none passes (R57).
R393, R394, R396: a claimed LOCAL slot sends the flow's next flit or a pad, sealed with the job's SEQ, and the last flit of a
transfer counts it (R119). R397: a flit is opened and checked before anything is written, and waits in the ejection buffer; its
write's visibility advances RX_SEM. -/
def Obligations.SlotsCarryFlits : Prop := ∀ s : State,
  (∀ (k : Comb) (q : LPort) (p : Part) (j : JobIx) (d : Nat) (e : JobEntry), entKind (entryNow s k false q) = 1 →
    entJob (entryNow s k false q) = j.val → portUp s k q = true → s.combs[k].routerPwr = true → partOf s k = some p →
    memberJob s k = some j → slotData (slotOf s k) = some d → s.combs[k].hum.active = true → s.combs[k].router.jobs[j] = e →
    e.aborted = false → e.keyed = true → e.seq ≠ BitVec.allOnes 64 → e.seq + 1 ≠ BitVec.allOnes 64 →
    (claimant s p k true q d = none →
      exec (.localTxSlot k q) s = .next { s with out := .frame k q (linkWord s k 0) none :: s.out }) ∧
    (∀ f fl, claimant s p k true q d = some (f, fl) → Does (.localTxSlot k q) s fun t =>
      (∃ (x : Flit) (m : FlitMeta), t.out = .frame k q (linkWord s k 1) (some x) :: s.out ∧ x.kind = 1 ∧ x.jobId = e.jobId ∧
        x.seq = e.seq ∧ x.fkgen = e.fkgen ∧ x.flow = BitVec.ofNat 16 f.index ∧ x.strand = k ∧
        x.body = Config.gcmSeal (sendKey e.fkey x) (flitNonce x) (routeHeader x) (metaBytes m) ∧
        m.beat = s.combs[k].hum.beat ∧ match f.queue.head? with
          | some y => if flitReady s k fl d y = true then m.pad = false ∧ m.payload = padTo 512 y.data ∧
              m.tokens = BitVec.ofNat 16 y.tokens ∧ m.dstSpace = y.dstSpace ∧
              (∀ i, y.sem = some i → semVal t p i = semVal s p i + 1) else m.pad = true
          | none => m.pad = true) ∧
      t.combs[k].router.jobs[j].seq = e.seq + 1 ∧ t.combs[k].router.txFlits = s.combs[k].router.txFlits + 1 ∧
      Within [.out, .draws, .seq, .router, .rings, .sems] s t)) ∧
  (∀ (k : Comb) (q : LPort) (x : Flit), s.combs[k].hum.state = 0 → exec (.transitFlitReceive k q x) s = .next s ∧
    exec (.transitTxSlot k q) s = .next s) ∧
  (∀ (k : Comb) (q : LPort) (x : Flit) (d : Nat) (e : JobEntry), s.combs[k].hum.state ≠ 0 →
    entKind (entryNow s k true q) = 2 → portUp s k q = true → slotData (slotOf s k) = some d → jobAt s.combs[k] (entJob (entryNow s k true q)) = some e →
    Does (.transitFlitReceive k q x) s fun t => Within [.router] s t ∧ if x.cwOk = true ∧ x.kind = 1 ∧ x.jobId = e.jobId then
      t.combs[k].router.forward = s.combs[k].router.forward ++
        [(leaseKey false (entPort (entryNow s k true q)) (dataSlot ((d + 2) % 510)), { x with errs := 0 })]
      else t.combs[k].router.misroute = hit 16 s.combs[k].router.misroute ∧
        t.combs[k].router.forward = s.combs[k].router.forward) ∧
  (∀ (k : Comb) (q : LPort), s.combs[k].hum.state ≠ 0 → entKind (entryNow s k false q) = 2 → portUp s k q = true →
    Does (.transitTxSlot k q) s fun t => Within [.out, .router] s t ∧ t.out = (match s.combs[k].router.forward.find? fun e =>
      decide (e.1 = leaseKey false q.val (slotOf s k)) with
      | some e => .frame k q (linkWord s k 1) (some e.2)
      | none => .frame k q (linkWord s k 2) none) :: s.out) ∧
  (∀ (k : Comb) (q : LPort) (x : Flit) (p : Part) (j : JobIx) (d : Nat) (f : FlowRt) (fl : Flow),
    entKind (entryNow s k true q) = 1 → entJob (entryNow s k true q) = j.val → portUp s k q = true → partOf s k = some p →
    memberJob s k = some j → slotData (slotOf s k) = some d → s.combs[k].router.jobs[j].aborted = false →
    s.combs[k].hum.active = true → claimant s p k false q d = some (f, fl) →
    let e := s.combs[k].router.jobs[j]
    let s1 := (modFlow k false f.index (fun g => { g with lastSeq := some x.seq }) (noteCodeword k q true s)).modRouter k fun r =>
      { r with rxFlits := r.rxFlits + 1 }
    let badMeta : Prop := match openFlit e f x with
      | none => True
      | some m => m.pad = false ∧ (flitRange s p m = false ∨ 512 ≤ ejecting s k)
    (x.kind ≠ 1 ∨ x.cwOk = false ∨ headerOk s k e f fl x = false ∨ badMeta → s.parts[p].recov = [] →
      Does (.dataFlitReceive k q x) s (Stopped p stFabricAbort s)) ∧
    (∀ m, x.kind = 1 → x.cwOk = true → headerOk s k e f fl x = true → openFlit e f x = some m →
      (m.pad = true → exec (.dataFlitReceive k q x) s = .next s1) ∧
      (m.pad = false → flitRange s p m = true → ejecting s k < 512 → exec (.dataFlitReceive k q x) s = .next
        (modFlow k false f.index (fun g => { g with
          visible := g.visible ++ [⟨m.dstSpace, m.dst, m.payload.take m.bytes.toNat, if fl.dispatch then m.tokens.toNat else 1⟩]
          beatTokens := g.beatTokens + m.tokens.toNat, beatFlits := g.beatFlits + 1 }) s1)))) ∧
  (∀ (k : Comb) (q : LPort) (x : Flit) (p : Part) (j : JobIx), entKind (entryNow s k true q) = 1 →
    entJob (entryNow s k true q) = j.val → portUp s k q = true → partOf s k = some p → memberJob s k = some j →
    (slotData (slotOf s k)).isSome = true → s.combs[k].router.jobs[j].aborted = true → Does (.dataFlitReceive k q x) s fun t =>
      t.evt.lateFlit = (if x.kind = 1 ∧ x.cwOk = true then hit 32 s.evt.lateFlit else s.evt.lateFlit) ∧ Within [.router, .evt] s t) ∧
  (∀ (k : Comb) (i : Nat) (p : Part) (f : FlowRt) (fl : Flow) (x : EjFlit) (l : List EjFlit), partOf s k = some p →
    (s.combs[k].router.flows.find? fun f => !f.tx && decide (f.index = i)) = some f → flowOf s p k i = some fl →
    f.visible = x :: l →
    let s1 := modFlow k false i (fun g => { g with visible := g.visible.drop 1 }) s
    let w := ppaWrite p x.dst.toNat x.data s1
    (x.space = 2 → Does (.flitWriteVisible k i) s fun t => combRead t k x.dst.toNat x.data.length = x.data ∧
      (∀ m, semVal t p m = if fl.rxSemEn = true ∧ m = fl.rxSem then semVal s p m + w64 x.tokens else semVal s p m) ∧
      Within [.combMem, .seq, .router, .rings, .sems] s t) ∧
    (x.space ≠ 2 → ppaServes s k p x.dst.toNat x.data.length = false → exec (.flitWriteVisible k i) s = .next s) ∧
    (x.space ≠ 2 → ppaServes s k p x.dst.toNat x.data.length = true → w.2 = none → exec (.flitWriteVisible k i) s = .next
      (if fl.rxSemEn then semApply p fl.rxSem true (w64 x.tokens) w.1 else w.1)))

/-- R407: an alarm for a job that is not aborted sets ABORTED and goes on to every other APORTS port; at a member it is
checked first and stops the partition; ABORTED clears 4,096 frames later. R409, R410: a member collects a child's vote, and
a verdict advances EPOCH, goes to the children and resolves p0; a relay passes both on. R389: other frames are counted. -/
def Obligations.AlarmsVotesAndVerdicts : Prop := ∀ (s : State) (k : Comb) (q : LPort),
  (∀ (a : AlarmRec) (j : JobIx), jobNamed s k a.jobId = some j →
    (s.combs[k].router.jobs[j].aborted = true → exec (.alarmReceive k q a) s = .next s) ∧
    (s.combs[k].router.jobs[j].aborted = false → s.combs[k].router.jobs[j].role = 1 → alarmOk s k s.combs[k].router.jobs[j] a = false →
      Does (.alarmReceive k q a) s fun t => t.combs[k].router.authFail = hit 16 s.combs[k].router.authFail ∧
        t.combs[k].router.jobs = s.combs[k].router.jobs ∧ Within [.router] s t) ∧
    (∀ p, s.combs[k].router.jobs[j].aborted = false → s.combs[k].router.jobs[j].role = 1 → alarmOk s k s.combs[k].router.jobs[j] a = true →
      partOf s k = some p → s.parts[p].recov = [] → Does (.alarmReceive k q a) s fun t => Stopped p stFabricAbort s t ∧
        t.combs[k].router.jobs[j].aborted = true ∧ t.combs[k].router.alarmRx = hit 16 s.combs[k].router.alarmRx ∧
        (j, a, s.combs[k].router.jobs[j].aports &&& ~~~(1#6 <<< q.val)) ∈ t.combs[k].router.alarms) ∧
    (s.combs[k].router.jobs[j].aborted = false → s.combs[k].router.jobs[j].role = 2 → Does (.alarmReceive k q a) s fun t =>
      t.combs[k].router.jobs[j].aborted = true ∧ Within [.router] s t ∧
      (j, a, s.combs[k].router.jobs[j].aports &&& ~~~(1#6 <<< q.val)) ∈ t.combs[k].router.alarms)) ∧
  (∀ j : JobIx, exec (.abortedExpire k j) s = .next (if s.combs[k].router.jobs[j].aborted = true ∧
    s.combs[k].router.jobs[j].abortAt + 4096 ≤ frameOf s k then s.modJob k j fun e => { e with aborted := false } else s)) ∧
  (∀ (v : VoteRec) (j : JobIx) (e : JobEntry), jobNamed s k v.jobId = some j → s.combs[k].router.jobs[j] = e → e.aborted = false →
    (e.vchild.getLsbD q.val = true → e.role = 2 → Does (.voteRecordReceive k q v) s fun t =>
      t.combs[k].router.votesOut = s.combs[k].router.votesOut ++ [(j, v, portMask e.vparent)] ∧ Within [.router] s t) ∧
    (e.vchild.getLsbD q.val = true → e.role = 1 → voteOk e 2 v = true → Does (.voteRecordReceive k q v) s fun t =>
      t.combs[k].router.jobs[j].votes = e.votes ++ [⟨q.val, true, v.value, v.stepTag⟩] ∧ Within [.router] s t) ∧
    (e.role = 1 →
      (e.vchild.getLsbD q.val = true → voteOk e 2 v = false → Does (.voteRecordReceive k q v) s fun t =>
        t.combs[k].router.authFail = hit 16 s.combs[k].router.authFail ∧ t.combs[k].router.jobs = s.combs[k].router.jobs ∧
        Within [.router] s t) ∧
      (e.vparent.toNat = q.val → voteOk e 3 v = false → Does (.verdictRecordReceive k q v) s fun t =>
        t.combs[k].router.authFail = hit 16 s.combs[k].router.authFail ∧ t.combs[k].router.jobs = s.combs[k].router.jobs ∧
        Within [.router] s t)) ∧
    (e.vparent.toNat = q.val → e.role = 2 → Does (.verdictRecordReceive k q v) s fun t =>
      t.combs[k].router.verdictsOut = s.combs[k].router.verdictsOut ++ [(j, v, e.vchild)] ∧ Within [.router] s t) ∧
    (∀ p, e.vparent.toNat = q.val → e.role = 1 → voteOk e 3 v = true → partOf s k = some p →
      exec (.verdictRecordReceive k q v) s = .next (verdictAt p v.value (s.modRouter k fun r => { r with
        jobs := upd r.jobs j fun e => { e with epoch := e.epoch + 1, votes := [] }
        verdictsOut := r.verdictsOut ++ [(j, v, e.vchild)] })))) ∧
  (∀ x : Flit, portUp s k q = true → entKind (entryNow s k true q) = 0 → Does (.wireFrameReceive k q x) s fun t =>
    t.combs[k].router.cwUncorr = (if x.cwOk then s.combs[k].router.cwUncorr else hit 16 s.combs[k].router.cwUncorr) ∧
    t.combs[k].router.misroute = (if x.cwOk = true ∧ x.kind = 1 then hit 16 s.combs[k].router.misroute
      else s.combs[k].router.misroute) ∧ Within [.router] s t)

/-! ### The sequencer (R109–R147) -/

/-- R115, R116, R132: an instruction whose predicate lets it run writes its one register and moves the PC past it; s0 stays 0;
one whose predicate differs from its SENSE only moves on, one whose predicate is PENDING stalls 4; a branch goes where IMM
says, and past the image's end is a program fault. -/
def Obligations.ScalarInstructions : Prop := ∀ (s : State) (k : Comb) (h : PredF), canIssue s k = true → fetchBad s k = false →
  windowFull s.combs[k].seq (guardOf s k h false) = false → inImage s k (targetOf s k 1) = true →
  let at' : Word → State → Prop := fun v t => t.combs[k].seq.pc = v ∧ t.combs[k].seq.issued = s.combs[k].seq.issued + 1 ∧
    t.combs[k].seq.state = 1 ∧ t.combs[k].seq.stall = 0 ∧ (∀ j : Comb, j ≠ k → t.combs[j] = s.combs[j])
  let next := s.combs[k].seq.pc + 8
  let wrote : SReg → DWord → State → Prop := fun a v t => at' next t ∧ Within [.seq] s t ∧
    ∀ i : SReg, sreg t k i = if i = a ∧ a.val ≠ 0 then v else sreg s k i
  let same : State → Prop := fun t => ∀ i : SReg, sreg t k i = sreg s k i
  (guardOf s k h false = .wait → ∀ a b c, Does (.seqAdd k h a b c) s fun t => t.combs[k].seq.state = 2 ∧
    t.combs[k].seq.stall = 4 ∧ t.combs[k].seq.pc = s.combs[k].seq.pc ∧ same t ∧ Within [.seq] s t) ∧
  (guardOf s k h false = .skip → ∀ a b c, Does (.seqAdd k h a b c) s fun t => at' next t ∧ same t ∧ Within [.seq] s t) ∧
  (guardOf s k h false = .run → ∀ (a b c : SReg) (imm : Word),
    Does (.nop k h) s (wrote 0 0) ∧ Does (.ldi k h a imm) s (wrote a (imm.signExtend 64)) ∧
    Does (.ldhi k h a imm) s (wrote a (imm ++ (sreg s k a).setWidth 32)) ∧
    Does (.seqAdd k h a b c) s (wrote a (sreg s k b + sreg s k c)) ∧
    Does (.seqAddi k h a b imm) s (wrote a (sreg s k b + imm.signExtend 64)) ∧
    Does (.seqSub k h a b c) s (wrote a (sreg s k b - sreg s k c)) ∧ Does (.seqMul k h a b c) s (wrote a (sreg s k b * sreg s k c)) ∧
    Does (.seqAnd k h a b c) s (wrote a (sreg s k b &&& sreg s k c)) ∧
    Does (.seqOr k h a b c) s (wrote a (sreg s k b ||| sreg s k c)) ∧
    Does (.seqXor k h a b c) s (wrote a (sreg s k b ^^^ sreg s k c)) ∧
    (∀ sh : BitVec 6, Does (.seqShl k h a b sh) s (wrote a (sreg s k b <<< sh.toNat)) ∧
      Does (.seqShr k h a b sh) s (wrote a (sreg s k b >>> sh.toNat))) ∧
    Does (.rdbeat k h a) s (wrote a (if s.combs[k].hum.active then s.combs[k].hum.beat.setWidth 64 else 0)) ∧
    Does (.rdhum k h a) s (wrote a (BitVec.ofNat 64 (s.combs[k].hum.time / 80))) ∧
    Does (.fclr k h) s (fun t => at' next t ∧ same t ∧ t.combs[k].seq.finite = false ∧ Within [.seq] s t) ∧
    (let addr := (sreg s k b + imm.signExtend 64).toNat
     (addr % 8 = 0 → addr < combStoreBytes →
      Does (.seqLd k h a b imm) s (wrote a (BitVec.ofNat 64 (memNat s.combs[k].store addr 8))) ∧
      Does (.seqSt k h a b imm) s fun t => at' next t ∧ same t ∧ memNat t.combs[k].store addr 8 = (sreg s k a).toNat ∧
        (∀ x, x < addr ∨ addr + 8 ≤ x → memByte t.combs[k].store x = memByte s.combs[k].store x) ∧ Within [.seq, .combMem] s t) ∧
     (addr % 8 ≠ 0 → exec (.seqLd k h a b imm) s = .next (illegal k s) ∧ exec (.seqSt k h a b imm) s = .next (illegal k s)) ∧
     (addr % 8 = 0 → combStoreBytes ≤ addr → exec (.seqLd k h a b imm) s = .next (progViolation k addr s) ∧
      exec (.seqSt k h a b imm) s = .next (progViolation k addr s))) ∧
    (let goal := targetOf s k imm.toInt
     (inImage s k goal = true → Does (.jump k h imm) s (fun t => at' (w32 goal.toNat) t ∧ same t ∧ Within [.seq] s t) ∧
      Does (.bnz k h a imm) s (fun t => at' (if sreg s k a = 0 then next else w32 goal.toNat) t ∧ same t ∧ Within [.seq] s t) ∧
      Does (.loop k h a imm) s fun t => at' (if a.val = 0 ∨ sreg s k a = 1 then next else w32 goal.toNat) t ∧
        (∀ i : SReg, sreg t k i = if i = a ∧ a.val ≠ 0 then sreg s k a - 1 else sreg s k i) ∧ Within [.seq] s t) ∧
     (∀ p d, inImage s k goal = false → partOf s k = some p → s.combs[k].seq.running = some d → Does (.jump k h imm) s fun t =>
      t.combs[k].seq.state = 3 ∧ t.combs[k].seq.running = none ∧ t.combs[k].seq.progFault = hit 16 s.combs[k].seq.progFault ∧
      t.combs[k].seq.retain = []))) ∧
  (h.pen = false → (s.combs[k].hum.active = false → Does (.beatDone k h) s fun t => at' next t ∧ same t ∧ Within [.seq] s t) ∧
    (s.combs[k].hum.active = true → Does (.beatDone k h) s fun t => t.combs[k].seq.state = 2 ∧ t.combs[k].seq.stall = 7 ∧
      t.combs[k].seq.pc = next ∧ same t ∧ t.combs[k].hum.marker =
        (match s.combs[k].hum.marker with | some m => some m | none => some s.combs[k].hum.time) ∧ Within [.seq, .hum] s t) ∧
    (∀ sc, fenceClear s k sc = true → Does (.seqFence k h sc) s fun t => at' next t ∧ same t ∧ Within [.seq] s t) ∧
    (∀ sc, fenceClear s k sc = false → Does (.seqFence k h sc) s fun t => t.combs[k].seq.state = 2 ∧ t.combs[k].seq.stall = 8 ∧
      t.combs[k].seq.pc = s.combs[k].seq.pc ∧ same t ∧ Within [.seq] s t) ∧
    Does (.endProg k h) s fun t => t.combs[k].seq.ending = true ∧ t.combs[k].seq.state = 2 ∧ t.combs[k].seq.stall = 12 ∧ same t ∧
      Within [.seq] s t) ∧
  (h.pen = true → ∀ sc, exec (.seqFence k h sc) s = .next (illegal k s) ∧ exec (.endProg k h) s = .next (illegal k s) ∧
    exec (.beatDone k h) s = .next (illegal k s))

/-- R109–R113, R145, R147: COMPUTE on an idle comb starts its program at ENTRY with s1–s4 as R111 gives, and a new STEP loads the
cell generators with the conditioned seed (R202, R203); END's conditions end it, the sequencer idle and the comb's part OK or
SQUASHED. R114, R115: a word of the image that spells no instruction is an illegal one. -/
def Obligations.ProgramsStartAndEnd : Prop := ∀ (s : State) (p : Part) (r : Ring) (d : Desc) (k : Comb),
  (∀ m : Manifest, startedDesc s p r opCompute = some d → s.parts[p].ctx.man = some m → m.owners.length = 1 →
    combsMask s p d.combMask = [k] → s.combs[k].seq.running = none → s.combs[k].seq.state ≠ 3 →
    findDesc s.parts[p].rings[r] d.idx = some d → Does (.compute p r) s fun t =>
      t.combs[k].seq.running = some ⟨p, r, d.idx⟩ ∧ t.combs[k].seq.state = 1 ∧ t.combs[k].seq.pc = w32 (d.field 28 4) ∧
      t.combs[k].seq.progPpa = w64 (d.field 16 8) ∧ t.combs[k].seq.progLen = w32 (d.field 24 4) ∧
      (∀ i : SReg, sreg t k i = if i.val = 1 then w64 (d.field 32 8) else if i.val = 2 then w64 (d.field 40 8)
        else if i.val = 3 then w64 (posOf p k) else if i.val = 4 then w64 (sizeOf s p) else 0) ∧
      t.combs[k].seq.preds = s.combs[k].seq.preds ∧ t.combs[k].store = s.combs[k].store ∧
      (s.combs[k].rng.step = w64 (d.field 40 8) → t.combs[k].gens = s.combs[k].gens) ∧
      (s.combs[k].rng.step ≠ w64 (d.field 40 8) → s.combs[k].rng.state = 1 →
        t.combs[k].gens = { seed := some s.combs[k].rng.seed } ∧ t.combs[k].rng.step = w64 (d.field 40 8))) ∧
  (∀ (h : PredF) (a b c : SReg), canIssue s k = true → fetchBad s k = true → exec (.nop k h) s = .next (illegal k s) ∧
    exec (.seqAdd k h a b c) s = .next (illegal k s) ∧ exec (.semSet k h b 0) s = .next (illegal k s) ∧
    exec (.endProg k h) s = .next (illegal k s)) ∧
  (s.combs[k].seq.ending = true → s.combs[k].seq.running = some ⟨p, r, d.idx⟩ → endReady s k = true →
    s.combs[k].seq.waiting = [] → findDesc s.parts[p].rings[r] d.idx = some d → Does (.programEnd k) s fun t =>
      t.combs[k].seq.running = none ∧ t.combs[k].seq.state = 0 ∧ (∀ i : SReg, sreg t k i = 0) ∧ Within [.seq, .rings] s t ∧
      (d.combsLeft = [k] → d.fails = [] → d.stage ≠ .done →
        (s.combs[k].seq.squashFirst = none → Ended t p r d stOK (w32 d.moved) 0) ∧
        (∀ m, s.combs[k].seq.squashFirst = some m → ∃ y, Ended t p r d stSquashed (w32 m.val) y))) ∧
  (s.combs[k].seq.ending = true → endReady s k = false → exec (.programEnd k) s = .next s)

/-- R123–R130: PCHECK, PSET and PSEM arm or resolve their target; p0 is no target, and a PENDING one stalls; PVOTE gives this
comb's part. R99, R100, R134: a semaphore operation applies at once or waits behind the held writes; a wait goes on once
satisfied. -/
def Obligations.PredicatesAndSemaphores : Prop := ∀ (s : State) (k : Comb),
  (∀ (h : PredF) (m : PredIx) (b c : SReg), canIssue s k = true → fetchBad s k = false → guardOf s k h false = .run →
    windowFull s.combs[k].seq .run = false → inImage s k (targetOf s k 1) = true →
    let takes : PState → State → Prop := fun v t => t.combs[k].seq.pc = s.combs[k].seq.pc + 8 ∧
      (∀ i : PredIx, t.combs[k].seq.preds[i] = if i = m then v else s.combs[k].seq.preds[i]) ∧ Within [.seq] s t
    let stalls : State → Prop := fun t => t.combs[k].seq.stall = 5 ∧ t.combs[k].seq.state = 2 ∧
      t.combs[k].seq.preds = s.combs[k].seq.preds ∧ t.combs[k].seq.pc = s.combs[k].seq.pc ∧ Within [.seq] s t
    (m = 0 → ∀ v, exec (.pset k h m v) s = .next (illegal k s)) ∧
    (m ≠ 0 → s.combs[k].seq.preds[m] = .pending → (∀ v, Does (.pset k h m v) s stalls) ∧
      (∀ mode : BitVec 4, mode.toNat ≤ 3 → Does (.pcheck k h b c m mode) s stalls) ∧
      (∀ ge sem, Does (.psem k h b m ge sem) s stalls)) ∧
    (∀ mask : BitVec 16, mask.getLsbD 0 = false → s.combs[k].seq.preds[(0 : PredIx)] = .pending →
      Does (.pvote k h mask) s stalls) ∧
    (m ≠ 0 → s.combs[k].seq.preds[m] ≠ .pending → (∀ v, Does (.pset k h m v) s (takes (pstate v))) ∧
      Does (.pcheck k h b c m 0) s (fun t => takes .pending t ∧ t.combs[k].seq.arms[m] = .finite (s.combs[k].seq.issued + 1)) ∧
      Does (.pcheck k h b c m 1) s (takes (pstate (decide (sreg s k b ≤ sreg s k c)))) ∧
      Does (.pcheck k h b c m 2) s (takes (pstate (fIsFinite (lowWord (sreg s k b)) && fLe (lowWord (sreg s k b)) (lowWord (sreg s k c))))) ∧
      Does (.pcheck k h b c m 3) s (takes (pstate (fIsFinite (lowWord (sreg s k b))))) ∧
      (∀ (p : Part) (sem : BitVec 12), partOf s k = some p →
        Does (.psem k h b m true sem) s (takes (pstate (decide (sreg s k b ≤ semVal s p sem.toNat)))) ∧
        Does (.psem k h b m false sem) s (takes .pending))) ∧
    (∀ (mask : BitVec 16) (p : Part), mask.getLsbD 0 = false → s.combs[k].seq.preds[(0 : PredIx)] ≠ .pending → partOf s k = some p →
      votesOnFabric s p = false → Does (.pvote k h mask) s fun t => t.combs[k].seq.preds[(0 : PredIx)] = .pending ∧
        t.combs[k].seq.pc = s.combs[k].seq.pc + 8 ∧ t.parts[p].votes = (if maskResolved s k mask = true then
          s.parts[p].votes ++ [⟨posOf p k, false, maskTrue s k mask, (sreg s k 2).setWidth 16⟩] else s.parts[p].votes) ∧
        Within [.seq, .partRegs] s t) ∧
    (∀ (p : Part) (sem : Word), partOf s k = some p → sem.toNat ≤ 4095 → s.combs[k].seq.retain = [] →
      Does (.semSet k h b sem) s (fun t => (∀ i, semVal t p i = if i = sem.toNat then sreg s k b else semVal s p i) ∧
        t.combs[k].seq.pc = s.combs[k].seq.pc + 8 ∧ Within [.seq, .rings, .sems] s t) ∧
      Does (.semAdd k h b sem) s (fun t => (∀ i, semVal t p i = if i = sem.toNat then semVal s p i + sreg s k b else semVal s p i) ∧
        t.combs[k].seq.pc = s.combs[k].seq.pc + 8 ∧ Within [.seq, .rings, .sems] s t)) ∧
    (∀ sem : Word, sem.toNat ≤ 4095 → s.combs[k].seq.retain ≠ [] → heldEntries s.combs[k].seq < retainEntries →
      Does (.semAdd k h b sem) s fun t => t.combs[k].seq.retain.length = s.combs[k].seq.retain.length + 1 ∧
        t.combs[k].seq.pc = s.combs[k].seq.pc + 8 ∧ Within [.seq] s t) ∧
    (∀ (p : Part) (sem : Word), partOf s k = some p → sem.toNat ≤ 4095 → s.combs[k].seq.wait = none →
      (sreg s k b ≤ semVal s p sem.toNat → Does (.semWaitGe k h b sem) s fun t => t.combs[k].seq.state = 1 ∧
        t.combs[k].seq.stall = 0 ∧ t.combs[k].seq.pc = s.combs[k].seq.pc + 8 ∧ Within [.seq] s t) ∧
      (semVal s p sem.toNat = sreg s k b → Does (.semWaitEq k h b sem) s fun t => t.combs[k].seq.state = 1 ∧
        t.combs[k].seq.stall = 0 ∧ t.combs[k].seq.pc = s.combs[k].seq.pc + 8 ∧ Within [.seq] s t) ∧
      (semVal s p sem.toNat < sreg s k b → Does (.semWaitGe k h b sem) s fun t => t.combs[k].seq.state = 2 ∧
        t.combs[k].seq.stall = 6 ∧ t.combs[k].seq.pc = s.combs[k].seq.pc ∧
        t.combs[k].seq.wait = some (sem.toNat, sreg s k b, true, false) ∧ Within [.seq] s t)))

/-- R118, R160, R271: MOVE, CELL and HILD queue their work. R124–R139: a predicate that resolves lets go of the writes under it or
squashes them; held writes apply in order, a semaphore operation behind what is not yet acknowledged; a transfer moves its bytes,
and where a line fails what it read before is written first (R146). -/
def Obligations.HeldWritesAndTransfers : Prop := ∀ (s : State) (k : Comb),
  (∀ (h : PredF) (b c : SReg), canIssue s k = true → fetchBad s k = false → guardOf s k h true = .run → windowFull s.combs[k].seq .run = false →
    inImage s k (targetOf s k 1) = true →
    (cellCheck k (sreg s k b).toNat (sreg s k c).toNat s = .none → Does (.cell k h b c) s fun t =>
      (∀ n ∈ cellsOf (sreg s k b).toNat, t.combs[k].cells[physCell s k n].queue = s.combs[k].cells[physCell s k n].queue ++
        [⟨combRead s k (sreg s k c).toNat 128, s.combs[k].seq.pc, s.combs[k].seq.issued⟩]) ∧
      t.combs[k].seq.pc = s.combs[k].seq.pc + 8 ∧ Within [.seq, .cellRun] s t) ∧
    (∀ first, hildCheck k (sreg s k b) (sreg s k c) first.toNat s = .none → Does (.hild k h b c first) s fun t =>
      t.supers[k].hild.queue = s.supers[k].hild.queue ++
        [⟨k, first.toNat, (sreg s k b).toNat, sreg s k 2, sreg s k c, s.combs[k].seq.progNo, none, none⟩] ∧
      t.combs[k].seq.pc = s.combs[k].seq.pc + 8 ∧ Within [.seq, .hild] s t) ∧
    (∀ (p : Part) (f : Fin 4), partOf s k = some p → moveFault k p (sreg s k b).toNat s = .none →
      moveStall k p h (decodeXfer (combRead s k (sreg s k b).toNat 64)) f s = .none →
      (decodeXfer (combRead s k (sreg s k b).toNat 64)).dstSpace ≠ 5 → s.combs[k].seq.retain = [] →
      Does (.move k h b f) s fun t => t.combs[k].seq.queues[pickForager s.combs[k].seq f] =
          s.combs[k].seq.queues[pickForager s.combs[k].seq f] ++
            [⟨combRead s k (sreg s k b).toNat 64, s.combs[k].seq.pc, specOf s k h, false, s.combs[k].seq.issued⟩] ∧
        t.combs[k].seq.pc = s.combs[k].seq.pc + 8 ∧ t.combs[k].seq.retain = [] ∧ Within [.seq] s t)) ∧
  (∀ (m : PredIx) (v : Bool), m ≠ 0 → resolution s k m = some v → s.combs[k].seq.arms[(0 : PredIx)] = .none →
    (∀ u : Super, s.supers[u].hild.queue = [] ∧ s.supers[u].hild.cur = none) → Does (.predicateResolve k m) s fun t =>
      t.combs[k].seq.preds[m] = pstate v ∧ t.combs[k].seq.retain =
        ((s.combs[k].seq.retain.filter fun e => !(e.spec.pen && decide (e.spec.pred = m) && (e.spec.sense != v))).map fun e =>
          if e.spec.pred = m then { e with spec := { e.spec with pen := false } } else e) ∧ Within [.seq, .ctx, .hild] s t) ∧
  (∀ p : Part, partOf s k = some p → votesOnFabric s p = false → sizeOf s p ≤ s.parts[p].votes.length →
    exec (.predicateResolve k 0) s = .next (verdictAt p (combineVotes s.parts[p].votes) (s.modPart p fun q => { q with votes := [] }))) ∧
  (∀ (e : Held) (l : List Held) (p : Part), s.combs[k].seq.retain = e :: l → partOf s k = some p → e.spec.pen = false →
    e.filled = true → s.combs[k].seq.state ≠ 3 →
    let s1 := s.modSeq k fun q => { q with retain := l }
    (∀ i add v, e.kind = .semOp i add v →
      ((∀ w ∈ s.combs[k].seq.unacked, w.held = none) → heldFlits s k = [] → Does (.retentionRelease k) s fun t =>
        t.combs[k].seq.retain = l ∧ semVal t p i = (if add then semVal s p i + v else v) ∧ Within [.seq, .rings, .sems] s t) ∧
      ((∃ w ∈ s.combs[k].seq.unacked, w.held ≠ none) ∨ heldFlits s k ≠ [] → exec (.retentionRelease k) s = .next s)) ∧
    (∀ a b c x, e.kind = .host a b c x → Does (.retentionRelease k) s fun t => t.combs[k].seq.retain = l ∧
      t.combs[k].seq.unacked = s.combs[k].seq.unacked ++ [⟨true, s.combs[k].seq.progNo, e.issue, some 0⟩] ∧
      Posted (fnOf p) (hostWrites s (fnOf p) a.toNat b true) s t ∧ Within [.out, .host, .seq] s t) ∧
    (∀ i n z fs fl, e.kind = .flits i n z fs → flowOf s p k i = some fl → exec (.retentionRelease k) s = .next
      (queueFlits k i (xferFlits fl s.combs[k].seq.progNo true none n z fs) s1)) ∧
    (∀ a b, e.kind = .ppa a b → if ppaServes s k p a b.length then exec (.retentionRelease k) s = .next
        (match ppaWrite p a b s1 with
        | (u, none) => awaitAck k false e.issue (some (a / 4096)) u
        | (u, some m) => memFault k p e.pc m u)
      else exec (.retentionRelease k) s = .next s)) ∧
  (s.combs[k].seq.unacked = [] → exec (.memoryWriteAck k) s = .next s) ∧
  (∀ (w : OutWrite) (ws : List OutWrite), s.combs[k].seq.unacked = w :: ws →
    (w.host = false ∨ (∀ p, partOf s k = some p → postWaits s (fnOf p) = false) →
      exec (.memoryWriteAck k) s = .next (s.modSeq k fun q => { q with unacked := ws })) ∧
    (∀ p, w.host = true → partOf s k = some p → postWaits s (fnOf p) = true → exec (.memoryWriteAck k) s = .next s)) ∧
  (∀ (f : Fin 4) (t0 : Transfer) (ts : List Transfer) (p : Part) (host : Bytes), s.combs[k].seq.queues[f] = t0 :: ts →
    partOf s k = some p → s.combs[k].seq.state ≠ 3 → s.combs[k].seq.running.isSome = true →
    let x := decodeXfer t0.block
    (x.srcSpace = 2 → x.dstSpace = 2 → x.rows = 1 → x.src < 2 ^ 64 → x.dst < 2 ^ 64 → x.semEn = false → t0.held = false →
      0 < x.rowBytes → Does (.transferComplete k f host) s fun t => t.combs[k].seq.queues[f] = ts ∧
        combRead t k x.dst x.rowBytes = combRead s k x.src x.rowBytes ∧ Within [.seq, .combMem] s t) ∧
    (overlapsHeld s.combs[k].seq t0 x = true ∨ xferServed s k p t0 x = false → exec (.transferComplete k f host) s = .next s) ∧
    (∀ u data, overlapsHeld s.combs[k].seq t0 x = false → xferServed s k p t0 x = true →
      (x.srcSpace = 0 → host.length = x.total) →
      let read := readSrc k p x host (s.modSeq k fun q => { q with queues := upd q.queues f fun _ => ts })
      (read = (u, data, none) → exec (.transferComplete k f host) s = .next (settleXfer k p t0 x data u)) ∧
      (∀ e, e ≠ .gone → read = (u, data, some e) → exec (.transferComplete k f host) s = .next
        (cutShort k p t0 x data (memFault k p t0.movePc e) u))))

/-! ### Cells (R150–R266) -/

/-- R160–R163, R166, R170, R174, R220–R265: the block at the head of a cell's queue starts when its fields pass and its engine is
free: it leaves the queue, its engine holds it, and the cell takes exactly its results; the lanes that convert have drawn (R201), and
the tile buffer holds the tiles of the first fills (R154); an unknown one is a FORMAT_ERROR. A faulting vector instruction keeps
what it wrote (R229). A one-tile MATMUL leaves its sums in its four accumulator registers; row operations write their statistics words. -/
def Obligations.CellOperations : Prop := ∀ (s : State) (x : At) (b : OpBlock), headOp x s = some b →
  let n := physCell s x.comb x.cell
  let cs := s.combs[x.comb].cells[n]
  let array := cellDraw s x .array
  let row := cellDraw s x .row
  let ran : Engine → CellOut → State → Prop := fun e o t =>
    t.combs[x.comb].cells[n].queue = cs.queue.drop 1 ∧
    t.combs[x.comb].gens = (takeDraws x e o.taken s).combs[x.comb].gens ∧
    (∀ i : Fin 8, t.combs[x.comb].cells[n].banks[i] = if o.fills = [] then cs.banks[i] else o.fills[i.val]?) ∧
    (∃ r, t.combs[x.comb].cells[n].running = cs.running ++ [r] ∧ r.engine = e ∧ r.block = b ∧ r.late = o.late) ∧
    t.combs[x.comb].cells[n].store = o.mem.foldl (fun m w => memWrite m w.1 w.2) cs.store ∧
    t.combs[x.comb].cells[n].vregs = o.vregs.foldl (fun t w => tabPut 0 t w.1 w.2) cs.vregs ∧
    t.combs[x.comb].cells[n].stats = o.stats.foldl (fun t w => tabSet 0 t w.1 w.2) cs.stats ∧
    t.combs[x.comb].seq.finite = (s.combs[x.comb].seq.finite || o.met) ∧ t.draws = s.draws + o.draws ∧
    (∀ m : PCell, m ≠ n → t.combs[x.comb].cells[m] = s.combs[x.comb].cells[m]) ∧ Within [.draws, .seq, .cellMem, .cellRun, .combRegs] s t
  let word : State → Nat → Nat → Word := fun t i w => statWord t.combs[x.comb].cells[n] i w
  (opKnown b.bytes = false → exec (.matmul x) s = .next (failHead x b .format s) ∧
    exec (.vprog x) s = .next (failHead x b .format s) ∧ exec (.lnFwd x) s = .next (failHead x b .format s)) ∧
  (opHeaderOk b.bytes = true → opEngine b.bytes = 0 → mayStart .array b cs = true →
    (opCode b.bytes = 1 → mmCheck cs.store b.bytes = none → Does (.matmul x) s fun t => ran .array (mmRun cs.store s.draws array b.bytes) t ∧
      (mmM b.bytes ≤ 128 → mmN b.bytes ≤ 128 → ∀ q e, q < 4 → e < 4096 →
        tabGet 0 t.combs[x.comb].cells[n].vregs (4096 * (mmAccVreg b.bytes + q) + e) =
          mmTile cs.store b.bytes 0 (32 * q + e / 128) (e % 128))) ∧
    (opCode b.bytes = 2 → bpCheck b.bytes = none → Does (.bwdPair x) s (ran .array (bpRun cs.store array b.bytes)))) ∧
  (opHeaderOk b.bytes = true → opEngine b.bytes = 1 → mayStart .vector b cs = true → opCode b.bytes = 1 →
    vpCheck s n b.bytes = none →
    let r := vecList (vpSteps x b.bytes) (holdOp x .vector b [] [] s) []
    (r.1.bad = none → exec (.vprog x) s = .next (setDests x r.1.dests r.1.state)) ∧
    (∀ e, r.1.bad = some e → exec (.vprog x) s = .next (vecFault x b.cellPc e r.2 (setDests x r.1.dests r.1.state)))) ∧
  (opHeaderOk b.bytes = true → opEngine b.bytes = 2 → mayStart .row b cs = true →
    (opCode b.bytes = 16 → atCheck cs.store b.bytes = none → Does (.attn x) s (ran .row (attnRun cs row b.bytes))) ∧
    (rwCheck 0 b.bytes = none →
      let i := rwStats b.bytes
      let rows := rwRows b.bytes
      (opCode b.bytes = 1 → Does (.lnFwd x) s fun t => ran .row (lnFwdRun cs row b.bytes) t ∧ ∀ r, r < rows →
        word t (i + r) 0 = meanOf (rowIn cs b.bytes r) ∧ word t (i + r) 1 =
          rstdOf (rwBeta b.bytes) (centred (meanOf (rowIn cs b.bytes r)) (rowIn cs b.bytes r))) ∧
      (opCode b.bytes = 2 → Does (.rmsFwd x) s fun t => ran .row (rmsFwdRun cs row b.bytes) t ∧ ∀ r, r < rows →
        word t (i + r) 0 = 0 ∧ word t (i + r) 1 = rstdOf (rwBeta b.bytes) (rowIn cs b.bytes r)) ∧
      (opCode b.bytes = 3 → Does (.lnBwd x) s (ran .row (normBwdRun false cs row b.bytes))) ∧
      (opCode b.bytes = 4 → Does (.rmsBwd x) s (ran .row (normBwdRun true cs row b.bytes))) ∧
      (opCode b.bytes = 5 → Does (.smFwd x) s fun t => ran .row (smFwdRun cs row b.bytes) t ∧ ∀ r, r < rows →
        word t (i + r) 0 = (smStats (rowZ cs b.bytes r)).1 ∧ word t (i + r) 1 = (smStats (rowZ cs b.bytes r)).2) ∧
      (opCode b.bytes = 6 → Does (.smMerge x) s fun t => ran .row (smMergeRun cs row b.bytes) t ∧ ∀ r, r < rows →
        word t (i + r) 0 = rowMax (rowIn cs b.bytes r) ∧ word t (i + r) 1 = mergeLse (rowIn cs b.bytes r)) ∧
      (opCode b.bytes = 7 → Does (.smBwd x) s (ran .row (smBwdRun cs row b.bytes))) ∧
      (opCode b.bytes = 8 → Does (.xent x) s (ran .row (xentRun cs row b.bytes))) ∧
      (opCode b.bytes = 9 → Does (.rowdot x) s fun t => ran .row (rowdotRun cs row b.bytes) t ∧ ∀ r, r < rows →
        word t (i + r) 0 = rowSum (mulRows (rowIn cs b.bytes r) (rowAux1 cs b.bytes r)) ∧ word t (i + r) 1 = statWord cs (i + r) 1) ∧
      (opCode b.bytes = 10 → Does (.attnDs x) s (ran .row (attnDsRun cs row b.bytes))) ∧
      (opCode b.bytes = 11 → Does (.pexnorm x) s fun t => ran .row (pexnormRun cs row b.bytes) t ∧ ∀ e, e < rwExamples b.bytes →
        word t (i + e) 0 = if rwAcc b.bytes then fAdd (statWord cs (i + e) 0) (pexPart cs b.bytes e) else pexPart cs b.bytes e) ∧
      (opCode b.bytes = 12 → Does (.clipscale x) s (ran .row (clipscaleRun s.combs[x.comb].clip cs row b.bytes)))))

/-- R174: at completion an operation's engine is free and its histogram records are written. R127, R128: with no other operation
left on the comb, the completion of the last resolves a PCHECK FINITE: FALSE when a NaN or an infinity was met. R179–R184: a
fault of a cell in service marks it FAILED, is logged, stops the partition with INTERNAL and starts the swap to the spare; without
a spare, or with two faults in one clock, the comb is DEGRADED; a fault during the swap escalates; one met by the self-test of a
comb in no partition gives the cell to the spare. R204–R206: the entropy source's tests over raw bits. R266: ROW_CLIP is written
by the owner of the comb unless SEALED. -/
def Obligations.CellFaultsEntropyAndClip : Prop := ∀ (s : State) (k : Comb),
  (∀ (c : Cell) (e : Engine) (r : Running), (s.combs[k].cells[physCell s k c].running.find? fun r => r.engine == e) = some r →
    (∀ m : PredIx, ∀ i, s.combs[k].seq.arms[m] ≠ .finite i) → Does (.cellOpComplete ⟨k, c⟩ e) s fun t =>
      t.combs[k].cells[physCell s k c].running = s.combs[k].cells[physCell s k c].running.filter (fun r => r.engine != e) ∧
      t.combs[k].cells[physCell s k c].store =
        r.late.foldl (fun m w => memWrite m w.1 w.2) s.combs[k].cells[physCell s k c].store ∧
      (e = .array → t.combs[k].cells[physCell s k c].banks = .replicate 8 none) ∧
      (∀ m : PCell, m ≠ physCell s k c → t.combs[k].cells[m] = s.combs[k].cells[m]) ∧ Within [.cellMem, .cellRun] s t) ∧
  (∀ (x : At) (e : Engine) (r : Running) (m : PredIx) (v : Nat), x.comb = k →
    s.combs[k].cells[physCell s k x.cell].running = [r] → r.engine = e → s.combs[k].cells[physCell s k x.cell].queue = [] →
    (∀ c : PCell, c ≠ physCell s k x.cell → s.combs[k].cells[c].running = [] ∧ s.combs[k].cells[c].queue = []) →
    m ≠ 0 → s.combs[k].seq.preds[m] = .pending → s.combs[k].seq.arms[m] = .finite v →
    (∀ i : PredIx, i ≠ m → s.combs[k].seq.arms[i] = .none) →
    (∀ u : Super, s.supers[u].hild.queue = [] ∧ s.supers[u].hild.cur = none) → Does (.cellOpComplete x e) s fun t =>
      t.combs[k].seq.preds[m] = pstate (!s.combs[k].seq.finite) ∧ Within [.seq, .cellMem, .cellRun, .ctx, .hild] s t) ∧
  (∀ (n : PCell) (store : BitVec 3) (off : BitVec 24) (also : Option PCell), cellRuns s k n = true →
    let c := s.combs[k].cellRegs
    let two : Prop := ∃ m, also = some m ∧ m ≠ n ∧ cellRuns s k m = true
    let logged : State → Prop := fun t => t.combs[k].cellRegs.failed.getLsbD n.val = true ∧
      (∀ m, also = some m → m ≠ n → cellRuns s k m = true → t.combs[k].cellRegs.failed.getLsbD m.val = true) ∧
      (also = none → t.combs[k].cellRegs.ue = hit 16 c.ue) ∧ t.combs[k].cellRegs.errCell = BitVec.ofNat 5 n.val ∧
      t.combs[k].cellRegs.errStore = store ∧ t.combs[k].cellRegs.errOff = (if store = 4 then 0 else off)
    let spare : Prop := s.combs[k].subst = 31 ∧ n.val ≠ 20 ∧ c.failed.getLsbD 20 = false ∧ ¬two
    (∀ p, partOf s k = some p → s.parts[p].recov = [] → c.swapping = none → Does (.cellFault k ⟨n, also⟩ store off) s fun t =>
      Stopped p stInternal s t ∧ (∃ r, t.parts[p].recov = [r] ∧ r.unit1 = w32 (0x0C00 + 32 * k.val + n.val)) ∧ logged t ∧
      (spare → t.combs[k].cellRegs.swapping = some n ∧ t.combs[k].sparePwr = true) ∧
      (¬spare → t.combs[k].cellRegs.swapping = none ∧ t.combs[k].cellRegs.degraded = true)) ∧
    (∀ p r, partOf s k = some p → s.parts[p].recov = [r] → k ∈ r.combs → c.swapping.isSome = true →
      Does (.cellFault k ⟨n, also⟩ store off) s fun t => logged t ∧ t.combs[k].cellRegs.swapping = none ∧
        t.combs[k].cellRegs.degraded = true ∧ t.evt.escalate = hit 16 s.evt.escalate ∧ ∃ r', t.parts[p].recov = [r'] ∧
        r'.escalated = true ∧ r'.cause1 = r.cause1 ∧ r'.cause2 = stInternal) ∧
    (partOf s k = none → n.val ≠ 20 ∨ s.combs[k].subst ≠ 31 ∨ two → Does (.cellFault k ⟨n, also⟩ store off) s fun t => logged t ∧
      (spare → t.combs[k].subst = BitVec.ofNat 5 n.val ∧ t.combs[k].cellRegs.degraded = c.degraded) ∧
      (¬spare → t.combs[k].cellRegs.degraded = true ∧ t.combs[k].subst = s.combs[k].subst)) ∧
    (partOf s k = none → n.val = 20 → s.combs[k].subst = 31 → ¬two → Does (.cellFault k ⟨n, also⟩ store off) s fun t =>
      t.combs[k].cellRegs.failed.getLsbD 20 = true ∧ t.combs[k].cellRegs.ue = c.ue ∧ t.combs[k].cellRegs.degraded = c.degraded ∧
      t.combs[k].subst = s.combs[k].subst)) ∧
  (∀ n : PCell, cellRuns s k n = false → exec (.cellCorrectedError k n) s = .next s ∧
    ∀ store off also, exec (.cellFault k ⟨n, also⟩ store off) s = .next s) ∧
  (∀ (n : PCell) (p : Part), cellRuns s k n = true → partOf s k = some p → Does (.cellCorrectedError k n) s fun t =>
    t.combs[k].cellRegs.ce = hit 32 s.combs[k].cellRegs.ce ∧
    t.parts[p].ew.counts[(0 : Fin 7)] = s.parts[p].ew.counts[(0 : Fin 7)] + 1 ∧ Within [.combRegs, .partRegs] s t) ∧
  (∀ n : PCell, s.combs[k].cellRegs.swapping = some n →
    Does (.spareSwapDone k true) s (fun t => t.combs[k].subst = BitVec.ofNat 5 n.val ∧ t.combs[k].cells[(20 : PCell)] = {} ∧
      t.combs[k].cellRegs.swapping = none ∧ t.combs[k].cellRegs.swap = hit 16 s.combs[k].cellRegs.swap ∧
      (∀ c : PCell, c ≠ 20 → t.combs[k].cells[c] = s.combs[k].cells[c]) ∧
      Within [.combMap, .cellMem, .cellRun, .combRegs, .partRegs] s t) ∧
    Does (.spareSwapDone k false) s fun t => t.combs[k].subst = s.combs[k].subst ∧
      t.combs[k].sparePwr = (s.combs[k].assigned && decide (s.combs[k].subst ≠ 31) || cellTest s) ∧
      t.combs[k].cellRegs.ue = hit 16 s.combs[k].cellRegs.ue ∧
      t.combs[k].cellRegs.swapping = none ∧ t.combs[k].cellRegs.degraded = true ∧
      t.combs[k].cellRegs.failed.getLsbD 20 = true ∧ t.combs[k].cells = s.combs[k].cells) ∧
  (∀ raw : BitVec 4096, s.combs[k].routerPwr = true → s.combs[k].rng.state = 0 ∨ s.combs[k].rng.state = 2 →
    (rctFails 4096 raw.toNat = false → aptStartup raw.toNat = false → Does (.entropyStartupDone k raw) s fun t =>
      t.combs[k].rng.state = 1 ∧ t.combs[k].rng.ready = true ∧ t.combs[k].rng.seed = freshSeed s ∧
      t.combs[k].rng.fails = 0 ∧ Within [.draws, .combRegs] s t) ∧
    (rctFails 4096 raw.toNat = true ∨ aptStartup raw.toNat = true → Does (.entropyStartupDone k raw) s fun t =>
      t.combs[k].rng.state = (if s.combs[k].rng.fails < 2 then 2 else 3) ∧ t.combs[k].rng.ready = false ∧
      t.combs[k].rng.fails = s.combs[k].rng.fails + 1 ∧
      t.combs[k].rng.rct = (if rctFails 4096 raw.toNat then hit 16 s.combs[k].rng.rct else s.combs[k].rng.rct) ∧
      t.combs[k].rng.apt = (if aptStartup raw.toNat then hit 16 s.combs[k].rng.apt else s.combs[k].rng.apt) ∧
      Within [.out, .host, .combRegs, .evq, .mod] s t ∧ (s.combs[k].rng.fails < 2 → Within [.combRegs] s t))) ∧
  (∀ raw : BitVec 1024, s.combs[k].routerPwr = true → rctFails 1024 raw.toNat = true ∨ aptFails raw.toNat = true →
    Does (.entropyHealthFail k raw) s fun t =>
      t.combs[k].rng.rct = (if rctFails 1024 raw.toNat then hit 16 s.combs[k].rng.rct else s.combs[k].rng.rct) ∧
      t.combs[k].rng.apt = (if aptFails raw.toNat then hit 16 s.combs[k].rng.apt else s.combs[k].rng.apt) ∧
      t.combs[k].rng.state = (if s.combs[k].rng.state = 1 then 2 else s.combs[k].rng.state) ∧
      (s.combs[k].rng.state = 1 → t.combs[k].rng.ready = false) ∧ Within [.combRegs] s t) ∧
  (∀ (p : Part) (v : DWord), regsServed s = true → inPart s p k = true → Does (.rowClipWrite (fnOf p) k v) s fun t =>
    t.combs[k].clip = (if s.combs[k].clipSealed then s.combs[k].clip else v.setWidth 32) ∧
    t.combs[k].rowClipWr = (if s.combs[k].clipSealed then hit 16 s.combs[k].rowClipWr else s.combs[k].rowClipWr) ∧
    Within [.combRegs] s t) ∧
  (∀ (p : Part) (v : DWord), inPart s p k = false → exec (.rowClipWrite (fnOf p) k v) s = .next s)

/-! ### The vector engine (R216–R232) -/

/-- R223–R231: an instruction writes elements 0 to COUNT − 1 of its destination register, from the same elements of its
sources, and +0 beyond them with TAILZ; memory instructions widen, convert, gather and scatter elements; reductions write one
FP32 word; nothing else changes. A reserved condition, a shift above 31 or a misaligned address is a FORMAT_ERROR. -/
def Obligations.VectorInstructions : Prop := ∀ (s : State) (x : VCtx), 1 ≤ x.count → x.count ≤ 4096 →
  let reg : State → VReg → Nat → Word := fun t r e => tabGet 0 (t.combs[x.comb].cells[vecCell x s]).vregs (4096 * r.val + e)
  let puts : VReg → (Nat → Word) → State → Prop := fun vd f t => (∀ (r : VReg) (e : Nat), e < 4096 → reg t r e =
      if r = vd then (if e < x.count then f e else if x.tailz then 0 else reg s r e) else reg s r e) ∧
    (t.combs[x.comb].cells[vecCell x s]).store = (s.combs[x.comb].cells[vecCell x s]).store ∧
    ∀ n : PCell, n ≠ vecCell x s → t.combs[x.comb].cells[n] = s.combs[x.comb].cells[n]
  let gives : VReg → (Nat → Word) → State → Prop := fun vd f t => puts vd f t ∧ Within [.cellMem] s t
  let bad : State := programFault x.comb stFormatError (vecPc x s) 0 (drawn s)
  (∀ (vd va vb vc : VReg) (i : Word),
    let f1 : (Word → Word) → State → Prop := fun f => gives vd fun e => f (reg s va e)
    let f2 : (Word → Word → Word) → State → Prop := fun f => gives vd fun e => f (reg s va e) (reg s vb e)
    Does (.vecAdd x vd va vb) s (f2 fAdd) ∧ Does (.vecSub x vd va vb) s (f2 fSub) ∧ Does (.vecMul x vd va vb) s (f2 fMul) ∧
    Does (.vecFma x vd va vb vc) s (gives vd fun e => fFma (reg s va e) (reg s vb e) (reg s vc e)) ∧
    Does (.vecSel x vd va vb vc) s (gives vd fun e => if (reg s va e).getLsbD 31 then reg s vb e else reg s vc e) ∧
    Does (.vecAddi x vd va i) s (f1 fun a => fAdd a i) ∧ Does (.muli x vd va i) s (f1 fun a => fMul a i) ∧
    Does (.fmai x vd va vb i) s (f2 fun a b => fFma a i b) ∧ Does (.vecMax x vd va vb) s (f2 fMax) ∧
    Does (.vecMin x vd va vb) s (f2 fMin) ∧ Does (.maxi x vd va i) s (f1 fun a => fMax a i) ∧
    Does (.mini x vd va i) s (f1 fun a => fMin a i) ∧ Does (.vecAbs x vd va) s (f1 fAbs) ∧ Does (.neg x vd va) s (f1 fNeg) ∧
    Does (.vecDiv x vd va vb) s (f2 fDiv) ∧ Does (.vecSqrt x vd va) s (f1 fSqrt) ∧ Does (.vecExp x vd va) s (f1 aExp) ∧
    Does (.exp2 x vd va) s (f1 aExp2) ∧ Does (.vecLog x vd va) s (f1 aLog) ∧ Does (.rcp x vd va) s (f1 aRcp) ∧
    Does (.vecRsqrt x vd va) s (f1 aRsqrt) ∧ Does (.tanh x vd va) s (f1 aTanh) ∧ Does (.sigmoid x vd va) s (f1 aSigmoid) ∧
    Does (.gelu x vd va) s (f1 aGelu) ∧ Does (.iadd x vd va vb) s (f2 fun a b => a + b) ∧
    Does (.isub x vd va vb) s (f2 fun a b => a - b) ∧ Does (.vecAnd x vd va vb) s (f2 fun a b => a &&& b) ∧
    Does (.vecOr x vd va vb) s (f2 fun a b => a ||| b) ∧ Does (.vecXor x vd va vb) s (f2 fun a b => a ^^^ b) ∧
    Does (.ftoi x vd va) s (f1 fToInt) ∧ Does (.itof x vd va) s (f1 intToF) ∧
    Does (.iota x vd i) s (gives vd fun e => i + w32 e) ∧ Does (.movi x vd i) s (gives vd fun _ => i) ∧
    Does (.uaddsat x vd va vb) s (fun t => puts vd (fun e => if 2 ^ 32 ≤ (reg s va e).toNat + (reg s vb e).toNat then 0xFFFFFFFF
      else reg s va e + reg s vb e) t ∧ t.combs[x.comb].vecSat = hitN 32 ((List.range x.count).filter fun e =>
        decide (2 ^ 32 ≤ (reg s va e).toNat + (reg s vb e).toNat)).length s.combs[x.comb].vecSat ∧ Within [.cellMem, .combRegs] s t) ∧
    (i.toNat ≤ 4 → Does (.vecCmp x vd va vb i) s (f2 fun a b => if fCond i.toNat a b then 0xFFFFFFFF else 0)) ∧
    (4 < i.toNat → exec (.vecCmp x vd va vb i) s = .next bad) ∧
    (i.toNat ≤ 31 → Does (.vecShl x vd va i) s (f1 fun a => a <<< i.toNat) ∧ Does (.vecShr x vd va i) s (f1 fun a => a >>> i.toNat)) ∧
    (31 < i.toNat → exec (.vecShl x vd va i) s = .next bad ∧ exec (.vecShr x vd va i) s = .next bad)) ∧
  (∀ (v vb : VReg) (m : MemArg),
    let sz := argSize m
    let mem : State → Mem := fun t => if m.combStore then t.combs[x.comb].store else (t.combs[x.comb].cells[vecCell x s]).store
    let ix : Nat → Nat := fun e => m.addr + (reg s vb e).toNat * sz
    let kept : State → Prop := fun t => (∀ (r : VReg) (e : Nat), e < 4096 → reg t r e = reg s r e) ∧
      Within [.seq, .cellMem, .combMem, .combRegs] s t
    let put : Nat → Nat := fun e =>
      (storeVal m (cellDraw s ⟨x.comb, x.cell⟩ .vector (e % 128) (e / 128)) (reg s v e)).1 % 256 ^ sz
    (argOk 1 m = true → addrBad m sz x.count = none →
      Does (.vecLd x v m) s (gives v fun e => loadVal m (memNat (mem s) (m.addr + e * sz) sz)) ∧
      Does (.vecLdb x v m) s (gives v fun _ => loadVal m (memNat (mem s) m.addr sz))) ∧
    (argOk 1 m = true → m.addr % sz ≠ 0 → exec (.vecLd x v m) s = .next bad) ∧
    (argOk 3 m = true → addrBad m sz x.count = none → Does (.vecSt x v m) s fun t => kept t ∧
      (∀ e, e < x.count → memNat (mem t) (m.addr + e * sz) sz = put e) ∧ t.combs[x.comb].gens =
        (if storeRandom m then takeDraws ⟨x.comb, x.cell⟩ .vector (laneDraws 1 x.count) s else s).combs[x.comb].gens ∧
      ∀ a, a < m.addr ∨ m.addr + x.count * sz ≤ a → memByte (mem t) a = memByte (mem s) a) ∧
    (slotAddrBad m sz = none → (∀ e, e < x.count → ix e + sz ≤ spaceEnd m.combStore) →
      (argOk 4 m = true → Does (.gather x v vb m) s (gives v fun e => loadVal m (memNat (mem s) (ix e) sz))) ∧
      ((∀ e f, e < x.count → f < x.count → reg s vb e = reg s vb f → e = f) →
        (argOk 5 m = true → Does (.scatter x v vb m) s fun t => kept t ∧
          (∀ e, e < x.count → memNat (mem t) (ix e) sz = put e) ∧
          ∀ a, (∀ e, e < x.count → a < ix e ∨ ix e + sz ≤ a) → memByte (mem t) a = memByte (mem s) a) ∧
        (argOk 6 m = true → Does (.scatadd x v vb m) s fun t => kept t ∧
          (∀ e, e < x.count → memNat (mem t) (ix e) 4 = (fAdd (widen 4 (memNat (mem s) (ix e) 4)) (reg s v e)).toNat) ∧
          ∀ a, (∀ e, e < x.count → a < ix e ∨ ix e + 4 ≤ a) → memByte (mem t) a = memByte (mem s) a))) ∧
    (argOk 0x50 m = true → addrBad m 4 1 = none →
      let xs := (List.range x.count).map (reg s v)
      let left : Red → State → Prop := fun red t => kept t ∧ memNat (mem t) m.addr 4 =
          (if m.acc = 2 ∨ (m.acc = 1 ∧ x.iter ≠ 0) then red.join (widen 4 (memNat (mem s) m.addr 4)) (reduce red xs)
            else reduce red xs).toNat ∧
        ∀ a, a < m.addr ∨ m.addr + 4 ≤ a → memByte (mem t) a = memByte (mem s) a
      Does (.rsum x v m) s (left .sum) ∧ Does (.rmax x v m) s (left .max) ∧ Does (.rmin x v m) s (left .min) ∧
      Does (.ramax x v m) s (left .amax) ∧ Does (.rsumsq x v m) s (left .sumsq)))

/-! ### Hild (R271–R307) -/

/-- R202, R203, R273, R277, R289, R295–R298, R302: a run leaves the queue when the unit is idle, the supers on the way answer and no
checkpoint holds it; one that fails its checks ends before it writes anything; a new step loads both kinds of generators from one
seed, and a run with a private group that finds no fresh seed stops its partition; a gated run drains its buffer only once its
predicate is resolved; at the end of a group T advances and the statistics record is written; a finished run ends OK, or POISON if
it voided a block. -/
def Obligations.HildRuns : Prop := ∀ (s : State) (k : Super) (p : Part), partOf s k = some p →
  let h := s.supers[k].hild
  (h.queue = [] ∨ h.state ≠ 0 ∨ h.cur ≠ none → exec (.hildRunStart k) s = .next s) ∧
  (∀ (r : HildRun) (rest : List HildRun), h.queue = r :: rest → h.state = 0 → h.cur = none →
    let reads := [(h.gtab.toNat + 256 * r.first, 256 * r.count), (h.ptab.toNat, 16384)]
    let ents := hildRead s p (h.gtab.toNat + 256 * r.first) (256 * r.count)
    let progs := hildRead s p h.ptab.toNat 16384
    let c0 : CurRun := { run := r, ents := ents.1, progs := progs.1, next := 0, bytes := 256 * r.count + 16384 }
    let c : CurRun := { c0 with next := nextValid c0 0 }
    let u : State := forEach reads (fun x s => ppaTouch p 3 x.1 x.2 s) (s.modHild k fun h => { h with
      queue := rest, cur := some c, state := if r.gate.isSome then 1 else 2, group := BitVec.ofNat 12 r.first })
    let ended : State := u.modHild k fun h => { h with cur := none, state := 0 }
    let failed := goneIf s u p (ents.2.orElse fun _ => progs.2)
    (ckptHolds s k r = true ∨ hildServes s p k reads = false ∨ commitServes s k = false → exec (.hildRunStart k) s = .next s) ∧
    (ckptHolds s k r = false → hildServes s p k reads = true → commitServes s k = true →
      (∀ m, failed = some m → exec (.hildRunStart k) s = .next (runMemFail k m u)) ∧
      (failed = none → u.supers[k].hild.cur = some c → partOf u k = some p →
        (∀ st d2, runBad u p k c = some (st, d2) →
          (r.desc = none → exec (.hildRunStart k) s = .next (postEvent p evFault st k (BitVec.ofNat 56 d2) ended)) ∧
          (∀ d, r.desc = some d → exec (.hildRunStart k) s = .next (endPart k d st 0 (BitVec.ofNat 56 d2) c.bytes ended))) ∧
        (runBad u p k c = none →
          let v := (hildReseed k c u).1
          (nextValid c0 0 = r.count →
            (r.gate ≠ none → exec (.hildRunStart k) s = .next u) ∧
            (r.gate = none → (putCommit k 1 r 0 u).supers[k].hild.cur = some c →
              exec (.hildRunStart k) s = .next (putCommit k 1 r 0 u))) ∧
          ((hildReseed k c u).2 = true → exec (.hildRunStart k) s =
            .next (runGroup k (if r.gate ≠ none then v else putCommit k 1 r 0 v))) ∧
          (nextValid c0 0 < r.count → u.combs[k].rng.state = 1 → u.supers[k].hild.step ≠ some r.step →
            (hildReseed k c u).2 = true ∧ v.supers[k].hild.rounding = { seed := some u.combs[k].rng.seed } ∧
            v.supers[k].hild.noise = { seed := some u.combs[k].rng.seed } ∧ v.supers[k].hild.step = some r.step ∧
            v.combs[k].rng.reseeds = (u.combs[k].rng.reseeds + 1) % 2 ^ 16) ∧
          (u.combs[k].rng.state ≠ 1 → runPrivate u k c = true → u.supers[k].hild.step ≠ some r.step → u.parts[p].recov = [] →
            Does (.hildRunStart k) s fun t => Stopped p stInternal u t ∧
              t.supers[k].hild.seedFail = hit 16 u.supers[k].hild.seedFail ∧ t.combs[k].rng.skip = hit 16 u.combs[k].rng.skip))))) ∧
  (h.cur = none ∨ (h.state ≠ 1 ∧ h.state ≠ 2) → exec (.hildGroupDone k) s = .next s) ∧
  (h.cur = none ∨ h.state ≠ 2 → exec (.hildRunDone k) s = .next s) ∧
  (∀ c, h.cur = some c → h.state = 1 → c.run.count ≤ c.next →
    (c.run.gate ≠ none ∨ ckptHolds s k c.run = true ∨ commitServes s k = false → exec (.hildGroupDone k) s = .next s) ∧
    (c.run.gate = none → ckptHolds s k c.run = false → commitServes s k = true →
      ∀ u, putCommit k 1 c.run c.done (s.modHild k fun h => { h with state := 2 }) = u → partOf u k = some p →
        u.supers[k].hild.cur = some c → (c.staged.all fun w => ppaServes u k p w.ppa w.data.length) = true →
        ∀ w, putAll p c.staged u = (w, none) → w.supers[k].hild.cur = some c → exec (.hildGroupDone k) s =
          .next (w.modHild k fun h => { h with cur := some { c with staged := [], done := c.done + c.inBuffer, inBuffer := 0 } }))) ∧
  (∀ c, h.cur = some c → h.state = 2 →
    (ckptHolds s k c.run = true → exec (.hildGroupDone k) s = .next s ∧ exec (.hildRunDone k) s = .next s) ∧
    (c.next < c.run.count ∨ c.staged ≠ [] ∨ commitServes s k = false → exec (.hildRunDone k) s = .next s) ∧
    (ckptHolds s k c.run = false →
      (c.run.count ≤ c.next → (c.staged.all fun w => ppaServes s k p w.ppa w.data.length) = true →
        ∀ w, putAll p c.staged s = (w, none) → w.supers[k].hild.cur = some c → exec (.hildGroupDone k) s =
          .next (w.modHild k fun h => { h with cur := some { c with staged := [], done := c.done + c.inBuffer, inBuffer := 0 } })) ∧
      (c.computed = true → c.next < c.run.count → c.staged = [] → c.inBuffer = 0 →
        let t1 : StagedWrite := ⟨h.gtab.toNat + 256 * (c.run.first + c.next) + 4, leBytes 4 (entT (c.ent c.next) + 1)⟩
        let ws := if entStats (c.ent c.next) ∧ c.run.stats ≠ 0 then
          [t1, ⟨c.run.stats.toNat + 32 * (sizeOf s p * c.next + posOf p k), statsRec k c⟩] else [t1]
        let serves := hildServes s p k (ws.map fun w => (w.ppa, w.data.length))
        (serves = false → exec (.hildGroupDone k) s = .next s) ∧
        (∀ u m, serves = true → putAll p ws s = (u, some m) → exec (.hildGroupDone k) s = .next (runMemFail k m u)) ∧
        (∀ u, serves = true → putAll p ws s = (u, none) → u.supers[k].hild.cur = some c →
          let v := u.modHild k fun h => { h with cur := some { c with
            done := c.done + 1, next := nextValid c (c.next + 1), computed := false, bytes := c.bytes + stagedBytes ws } }
          exec (.hildGroupDone k) s = .next (if nextValid c (c.next + 1) = c.run.count then v else runGroup k v))) ∧
      (c.run.count ≤ c.next → c.staged = [] →
        let ended : State := s.modHild k fun h => { h with cur := none, state := 0 }
        (h.commit = 0 →
          (∀ d, c.run.desc = some d → exec (.hildRunDone k) s = .next (match c.poison with
            | none => endPart k d stOK 0 0 c.bytes ended
            | some a => endPart k d stPoison 0 (BitVec.ofNat 56 a) c.bytes ended)) ∧
          (c.run.desc = none → exec (.hildRunDone k) s = .next (match c.poison with
            | none => ended
            | some a => postEvent p evFault stPoison k (BitVec.ofNat 56 a) ended))) ∧
        (h.commit ≠ 0 → commitServes s k = true → (putCommit k 2 c.run c.done s).supers[k].hild.cur = some c →
          exec (.hildRunDone k) s = .next (endRun k stOK 0 0 ((putCommit k 2 c.run c.done s).modHild k fun h =>
            { h with cur := some { c with bytes := c.bytes + 128 } }))))))

/-- R201, R284–R287, R294, R298, R300, R301, R304: an instruction of a program that has not ended writes its register from its
sources and changes nothing else; LD reads the element as it stood before the run and voids the block at a poisoned line; ST stores
the converted value; ST and RND take one draw of their lane under SR to a format other than FP32, NOISE two; END ends the program.
A program that names slot 7 in an LD or an ST, or in a private group another B than q15 in a NOISE, never starts: such an
instruction leaves its lane (the model's choice of what its command does, log entry 1). -/
def Obligations.HildInstructions : Prop := ∀ (s : State) (k : Super),
  let h := s.supers[k].hild
  let L := h.lane
  let lane : State → LaneState := fun t => t.supers[k].hild.lane
  let only : State → Prop := fun t => (∀ j : Super, j ≠ k → t.supers[j] = s.supers[j]) ∧ Within [.hild] s t
  let leaves : HReg → Word → Gens → Gens → State → Prop := fun d v rounding noise t =>
    (∀ i : HReg, (lane t).regs[i] = if i = d then v else L.regs[i]) ∧ { lane t with regs := L.regs } = L ∧
    { t.supers[k].hild with lane := L, rounding := h.rounding, noise := h.noise } = h ∧
    t.supers[k].hild.rounding = rounding ∧ t.supers[k].hild.noise = noise ∧ only t
  let puts : HReg → Word → State → Prop := fun d v => leaves d v h.rounding h.noise
  (L.ended = true → ∀ d a b, exec (.hldAdd k d a b) s = .next s ∧ exec (.hldLd k d 0) s = .next s) ∧
  (∀ d, exec (.hldLd k d 7) s = .next s) ∧
  (∀ a round, Does (.hldSt k a 7 round) s fun t => lane t = L ∧ only t) ∧
  (∀ d a b, L.isPriv = true → b ≠ 0x1F → Does (.noise k d a b) s fun t => lane t = L ∧ only t) ∧
  (Does (.hldEnd k) s fun t => lane t = { L with ended := true } ∧ { t.supers[k].hild with lane := L } = h ∧ only t) ∧
  (L.ended = false → ∀ (d : HReg) (a b c : BitVec 6), selOk a.toNat = true → selOk b.toNat = true → selOk c.toNat = true →
    let x := L.src a
    let y := L.src b
    let z := L.src c
    Does (.hldAdd k d a b) s (puts d (fAdd x y)) ∧ Does (.hldSub k d a b) s (puts d (fSub x y)) ∧
    Does (.hldMul k d a b) s (puts d (fMul x y)) ∧ Does (.hldFma k d a b c) s (puts d (fFma x y z)) ∧
    Does (.hldDiv k d a b) s (puts d (fDiv x y)) ∧ Does (.hldSqrt k d a) s (puts d (fSqrt x)) ∧
    Does (.hldRsqrt k d a) s (puts d (aRsqrt x)) ∧ Does (.hldMax k d a b) s (puts d (fMax x y)) ∧
    Does (.hldMin k d a b) s (puts d (fMin x y)) ∧ Does (.hldAbs k d a) s (puts d (fAbs x)) ∧
    Does (.sign k d a) s (puts d (if fIsNaN x then fNaN else if fIsZero x then x else if fSign x then 0xBF800000 else 0x3F800000)) ∧
    (∀ cond : BitVec 3, cond.toNat ≤ 4 → Does (.hldCmp k d a b cond) s (puts d (if fCond cond.toNat x y then 0xFFFFFFFF else 0))) ∧
    Does (.hldSel k d a b c) s (puts d (if x.getLsbD 31 then y else z)) ∧ Does (.clamp k d a b c) s (puts d (fMin (fMax x y) z)) ∧
    Does (.hldExp k d a) s (puts d (aExp x)) ∧
    (L.isPriv = false ∨ b = 0x1F → Does (.noise k d a b) s
      (leaves d (fFma y (aGauss (noiseDraw s k L.lane 0) (noiseDraw s k L.lane 1)) x) h.rounding (h.noise.take [(L.lane, 2)]))) ∧
    (∀ (round : BitVec 2) (fmt : BitVec 3), fmt.toNat ≤ 4 → roundOk round.toNat fmt.toNat = true → Does (.rnd k d a round fmt) s
      (leaves d (widen fmt.toNat (convertTo fmt.toNat round.toNat (roundDraw s k L.lane 0) x))
        (h.rounding.take [(L.lane, if round = 1 ∧ fmt.toNat < 4 then 1 else 0)]) h.noise)) ∧
    (∀ slot : BitVec 3, slot ≠ 7 → Does (.hldLd k d slot) s fun t =>
      (∀ i : HReg, (lane t).regs[i] = if i = d then L.streams[slot.toNat]'(by omega) else L.regs[i]) ∧
      (lane t).voided = (L.voided || L.badSlots.getLsbD slot.toNat) ∧
      { lane t with regs := L.regs, voided := L.voided } = L ∧ t.supers[k].hild.poison =
        (if L.badSlots.getLsbD slot.toNat ∧ L.voided = false then hit 16 h.poison else h.poison) ∧
      { t.supers[k].hild with lane := L, poison := h.poison } = h ∧ only t) ∧
    (∀ (slot : BitVec 3) (round : BitVec 2), slot ≠ 7 →
      let fmt := (L.fmts[slot.toNat]'(by omega)).toNat
      let mode := if slot = 0 ∧ fmt = 2 then 1 else round.toNat
      let v := convertTo fmt mode (roundDraw s k L.lane 0) x
      roundOk mode fmt = true → Does (.hldSt k a slot round) s fun t => (lane t).outs = L.outs ++ [(slot.toNat, w32 v)] ∧
        { lane t with outs := L.outs, nonfin := L.nonfin } = L ∧
        t.supers[k].hild.rounding = h.rounding.take [(L.lane, if mode = 1 ∧ fmt ≠ 4 then 1 else 0)] ∧
        t.supers[k].hild.nonfinite = (if meetsSpecial fmt x v then hit 16 h.nonfinite else h.nonfinite) ∧ only t))

/-! ### Supers and Propolis (R316–R333, R342–R366) -/

/-- R318–R321, R359: a commit locks a table whose entries pass and allocates within the limits, else sets ERR with the first check
that fails; the initialised regions read as zero sectors and READY is set. R349: a formatted tree is READY and its super ACTIVE, and
what waited proceeds. R323, R326, R310–R313, R328, R329: refresh, scrub and row repair. R333, R363–R366: a flit that fails its CRC
is replayed, a link fault or an authentication failure stops the partition of the comb, a flit that verifies is taken. -/
def Obligations.SupersServeTheirLayers : Prop := ∀ (s : State),
  (∀ p : Part, regsServed s = true → s.parts[p].live = true →
    (s.parts[p].locked = true → exec (.regionCommit p) s = .next s) ∧
    (s.parts[p].locked = false → (Does (.regionCommit p) s fun t => t.parts[p].locked = decide (commitTable s p = 0) ∧
        t.parts[p].mapErr = BitVec.ofNat 4 (commitTable s p) ∧ t.parts[p].rgn = s.parts[p].rgn ∧
        (∀ k : Super, inPart s p k = true → commitTable s p = 0 →
          t.supers[k].dataCur ≤ dataEnd k ∧ t.supers[k].sealCur ≤ metaBase) ∧
        (∀ k : Super, inPart s p k = false ∨ commitTable s p ≠ 0 → t.supers[k] = s.supers[k]) ∧ Within [.superRegs, .regions] s t) ∧
      (s.parts[p].psize = 0 → (s.parts[p].rgn[1]).kind = 0 →
        let g := s.parts[p].rgn[0]
        let room := if 3 ≤ g.kind.toNat then 32 else if p.val = 0 ∨ p.val = 4 then 908 else 916
        let e := if g.kind = 0 then 6 else if 5 ≤ g.kind.toNat ∨ g.share.toNat < 1 ∨ 916 < g.share.toNat then 1
          else if g.pos ≠ 0 then 2 else if g.keyId = 0 then 3
          else if g.share.toNat ≤ room then 0 else if 3 ≤ g.kind.toNat then 5 else 4
        Does (.regionCommit p) s fun t => t.parts[p].locked = decide (e = 0) ∧ t.parts[p].mapErr = BitVec.ofNat 4 e ∧
          (e = 0 → t.supers[p].dataCur = (if 3 ≤ g.kind.toNat then 0 else g.share.toNat * 67108864) ∧
            t.supers[p].sealCur = 0xE50000000 + (if 3 ≤ g.kind.toNat then g.share.toNat * 67108864 else 0))))) ∧
  (∀ p : Part, (s.parts[p].locked = false ∨ s.parts[p].ready = true → exec (.regionInitDone p) s = .next s) ∧
    (s.parts[p].locked = true → s.parts[p].ready = false → Does (.regionInitDone p) s fun t => t.parts[p].ready = true ∧
      (∀ (k : Super) (r : Nat × Nat), inPart s p k = true → r ∈ rangesOn s p k →
        ∀ x, r.1 / 512 ≤ x → x < r.2 / 512 → tabGet 0 t.supers[k].ctr x = 0) ∧
      (∀ k : Super, inPart s p k = false → t.supers[k] = s.supers[k]) ∧ Within [.superMem, .superTree, .regions] s t)) ∧
  (∀ k : Super, s.supers[k].powered = true →
    (s.supers[k].tree = 0 →
      let u : State := s.modSuper k fun u => { u with tree := 1, state := if u.state = 0 then 1 else u.state }
      (s.supers[k].waiting = .replicate 6 [] → exec (.treeFormatDone k) s = .next u) ∧
      (∀ i r, nextPort u.supers[k] = some (i, r, []) → (∀ j : Fin 6, j ≠ i → s.supers[k].waiting[j] = []) →
        exec (.treeFormatDone k) s = .next (serveReq k r (u.modSuper k fun u => { u with
          waiting := upd u.waiting i fun _ => [], turn := i + 1 })))) ∧
    (s.supers[k].tree ≠ 0 → exec (.treeFormatDone k) s = .next s) ∧
    (s.supers[k].state ≠ 2 → exec (.dramRefresh k) s = .next (s.modSuper k fun u => { u with refreshes := u.refreshes + 1 })) ∧
    (s.supers[k].state = 2 → exec (.dramRefresh k) s = .next s ∧
      ∀ flips, exec (.patrolScrubRead k flips) s = .next (applyFlips k flips s)) ∧
    (s.supers[k].state ≠ 2 → ∀ flips,
      let v := applyFlips k flips s
      let u := v.supers[k]
      let l := u.scrubPos / 128
      let at' : State := v.modSuper k fun u => { u with scrubPos := (128 * l + 128) % 2 ^ 36 }
      (∀ d, decodeLine u k l = some d → d.corrected = false → d.mark = none → exec (.patrolScrubRead k flips) s = .next at') ∧
      (∀ d, decodeLine u k l = some d → d.corrected = true → d.mark = none → Does (.patrolScrubRead k flips) s fun t =>
        t.supers[k].ce = hit 32 u.ce ∧ tabGet 0 t.supers[k].dramErr l = d.left ∧ t.supers[k].scrubLog = u.scrubLog ++ [(l, false)] ∧
        t.supers[k].scrubPos = (128 * l + 128) % 2 ^ 36 ∧ t.supers[k].ctr = u.ctr ∧ t.supers[k].mem = u.mem) ∧
      (∀ d m, decodeLine u k l = some d → d.mark = some m → partOf s k = none → regionDie k = none →
        Does (.patrolScrubRead k flips) s fun t => t.supers[k].dieMark = true ∧ t.supers[k].die = BitVec.ofNat 4 m.val ∧
          tabGet 0 t.supers[k].dramErr l = d.left) ∧
      (decodeLine u k l = none →
        (spaceOf (128 * l) = .tagData ∨ spaceOf (128 * l) = .sealed → Does (.patrolScrubRead k flips) s fun t =>
          t.supers[k].ue = hit 16 u.ue ∧ t.supers[k].poison.contains l = true ∧ t.supers[k].errOff = BitVec.ofNat 36 (128 * l) ∧
          t.supers[k].errSrc = 1 ∧ t.supers[k].scrubLog = u.scrubLog ++ [(l, true)] ∧ t.supers[k].ctr = u.ctr) ∧
        (spaceOf (128 * l) = .tags → Does (.patrolScrubRead k flips) s fun t =>
          ∀ x ∈ taggedLines u l, t.supers[k].poison.contains x = true) ∧
        (spaceOf (128 * l) = .tree → partOf s k = none → regionDie k = none → Does (.patrolScrubRead k flips) s fun t =>
          ∀ n ∈ nodesIn l, t.supers[k].badNodes.contains n = true) ∧
        (spaceOf (128 * l) = .control → Does (.patrolScrubRead k flips) s fun t =>
          t.supers[k].scrubLog = u.scrubLog ++ [(l, true)] ∧ t.supers[k].ue = u.ue ∧ t.supers[k].poison = u.poison))) ∧
    (s.supers[k].resetting = false →
      Does (.linkFlitCrcFail k) s (fun t => t.supers[k].retry = hit 16 s.supers[k].retry ∧ Within [.superRegs, .partRegs] s t) ∧
      (∀ p, partOf s k = some p → s.parts[p].recov = [] → Does (.linkReplayLimit k) s fun t => Stopped p stInternal s t ∧
        ∃ r, t.parts[p].recov = [r] ∧ r.unit1 = w32 (0x1400 + k.val)) ∧
      (partOf s k = none → Does (.linkReplayLimit k) s fun t => t.supers[k].state = 3 ∧ Within [.superRegs] s t)) ∧
    (s.supers[k].resetting = true → exec (.linkFlitCrcFail k) s = .next s ∧ exec (.linkReplayLimit k) s = .next s)) ∧
  (∀ k : Super, s.supers[k].powered = false → exec (.treeFormatDone k) s = .next s ∧ exec (.dramRefresh k) s = .next s ∧
    exec (.linkFlitCrcFail k) s = .next s ∧ exec (.linkReplayLimit k) s = .next s ∧
    ∀ flips, exec (.patrolScrubRead k flips) s = .next (applyFlips k flips s)) ∧
  (∀ (k : Super) (flips : Flips), (s.supers[k].repairing = none → exec (.rowRepairDone ⟨k, flips⟩) s = .next s) ∧
    (∀ r, s.supers[k].repairing = some r → s.supers[k].repairQ = [] → s.supers[k].waiting = .replicate 6 [] →
      s.dies[dieOf k].repair.length < 1024 →
      let u := (applyFlips k flips s).supers[k]
      let spare := tabGet 0 u.spares (r % 512) + 1
      ((∀ l ∈ rowLines r, (decodeLine u k l).isSome = true) → Does (.rowRepairDone ⟨k, flips⟩) s fun t =>
        t.supers[k].repairing = none ∧ t.supers[k].ppr = hit 16 u.ppr ∧ tabGet 0 t.supers[k].remap r = spare ∧
        tabGet 0 t.supers[k].spares (r % 512) = spare ∧ t.supers[k].repairLog = u.repairLog ++ [r] ∧
        (∀ l ∈ rowLines r, ∀ d, decodeLine u k l = some d → tabGet 0 t.supers[k].dramErr l = d.left) ∧
        t.dies[dieOf k].repair.length = s.dies[dieOf k].repair.length + 1) ∧
      (∀ l ∈ rowLines r, l < metaBase / 128 → decodeLine u k l = none → Does (.rowRepairDone ⟨k, flips⟩) s fun t =>
        t.supers[k].poison.contains l = true ∧ t.supers[k].errSrc = 2 ∧ tabGet 0 t.supers[k].remap r = spare))) ∧
  (∀ (link : Fin 14) (dir : Fin 2) (seq : DWord) (body : Bytes),
    let d := linkDir s link dir
    let fails := linkFlitFails d link dir seq body
    (d.dead = true → exec (.linkAuthFail link ⟨dir, seq, body⟩) s = .next s) ∧
    (d.dead = false → fails = false → seq = d.next ∧ Does (.linkAuthFail link ⟨dir, seq, body⟩) s fun t =>
      linkDir t link dir = { d with next := d.next + 1 }) ∧
    (d.dead = false → fails = true →
      (∀ k : Super, link.val = k.val → (∀ p, partOf s k = some p → s.parts[p].recov = []) →
        (partOf s k = none → s.supers[k].resetting = false) → Does (.linkAuthFail link ⟨dir, seq, body⟩) s fun t =>
          t.supers[k].linkAuth = hit 16 s.supers[k].linkAuth ∧ (linkDir t link dir).dead = true ∧
          ∀ p, partOf s k = some p → Stopped p stIntegrityFail s t) ∧
      (∀ g : Fin 4, link.val = 8 + g.val → s.parts[(0 : Part)].recov = [] → Does (.linkAuthFail link ⟨dir, seq, body⟩) s fun t =>
        t.dies[rxDieOf dir].groupAuth[g] = hit 16 s.dies[rxDieOf dir].groupAuth[g] ∧
        (∀ e, (linkDir t link e).dead = false ∧ (linkDir t link e).next = 0) ∧
        (s.parts[(0 : Part)].live = true → s.parts[(0 : Part)].psize = 3 → Stopped 0 stIntegrityFail s t)) ∧
      (link.val = 12 → partsOnDie s 1 = [] → Does (.linkAuthFail link ⟨dir, seq, body⟩) s fun t =>
        t.dies[rxDieOf dir].hostAuth = hit 16 s.dies[rxDieOf dir].hostAuth ∧
        ∀ e, (linkDir t link e).dead = false ∧ (linkDir t link e).next = 0) ∧
      (link.val = 13 → s.evt.modState = 0 → s.boot.stage = 5 → Does (.linkAuthFail link ⟨dir, seq, body⟩) s fun t =>
        t.evt.modState = 1 ∧ t.boot.stage = 0 ∧ t.evt.modlog = 0x20)))

/-- R11, R28–R30, R316, R325, R339, R343, R350–R357, R362: a request that its requester has no access for is refused, one that the
super cannot serve waits, and the waiting ones are served from each requester in turn. A read answers the line as it verifies: its
bytes, zeros for a zero sector, POISON for a poisoned or uncorrectable line, INTEGRITY_FAIL for a tag or a node that fails. A write
to a sector advances its counter by exactly 1 and stores its bytes; a retired key, an exhausted counter, a poisoned line under a
partial write and a failing tag each have their outcome. The premises on flipped bits and on the counter cache keep other lines'
failures and its write-backs silent. -/
def Obligations.MemoryRequests : Prop := ∀ (s : State) (sup : BitVec 4) (addr : BitVec 36) (who : Requester) (f g h : Flips),
  let k := devSuper sup
  let off := addr.toNat
  let line := off / 128 * 128
  let sec := off / 512
  let v := applyFlips k (f ++ g ++ h) s
  let u := v.supers[k]
  let c := tabGet 0 u.ctr sec
  let i := linkPort k who
  let open' : Prop := ∀ j, who = .comb j → routeOpen v j k = true
  let read : Instr := .memoryRead sup addr who f g h
  let put : Bytes → Instr := fun data =>
    if data.length < 128 then .partialWrite sup addr who data [] f g h else .memoryWrite sup addr who data f g h
  let op : Bytes → MemOp := fun data => if data.length < 128 then .partial' data [] else .write data
  let fits : Bytes → Prop := fun data => data ≠ [] ∧
    if data.length < 128 then off % 128 + data.length ≤ 128 else off % 128 = 0 ∧ data.length % 128 = 0
  let answers : Byte → Bytes → State → Prop := fun st bs t => t.out.head? = some (.readReply who st bs)
  let clean : Nat → Prop := fun l => tabGet 0 u.dramErr l = 0 ∧ (sealedAt k (128 * l) = true → u.dieMark = false) ∧
    (sealedAt k (128 * l) = false → tabGet 0 u.dramErr (tagLine l) = 0)
  let unmarked : Nat → Prop := fun l => (∀ d, decodeLine u k l = some d → d.mark = none) ∧
    ∀ d, decodeLine u k (tagLine l) = some d → d.mark = none
  let nodesClean : Prop := nodeBad u off = false ∧ ∀ n ∈ missingNodes u off, tabGet 0 u.dramErr (nodeLine n) = 0
  let waits : MemOp → Nat → State := fun o a => v.modSuper k fun u =>
    { u with waiting := upd u.waiting i (· ++ [⟨who, a, o, s.combs[k].hum.time⟩]) }
  (sup.getLsbD 3 = true → exec read s = .next (emit (.readReply who stAccessViolation []) s) ∧
    ∀ data, fits data → exec (put data) s = .next (emit (.readReply who stAccessViolation []) s)) ∧
  (∀ data, ¬ fits data → exec (put data) s = .next s) ∧
  (∀ i r rest, nextPort u = some (i, r, rest) → ∃ n, n < 6 ∧ i = Fin.ofNat 6 (u.turn.val + n) ∧ u.waiting[i] = r :: rest ∧
    superServes u r.off = true ∧ ∀ m, m < n → ∀ q qs, u.waiting[Fin.ofNat 6 (u.turn.val + m)] = q :: qs → superServes u q.off = false) ∧
  (sup.getLsbD 3 = false →
    (∀ dbg, accessOf v k line who = .refused dbg → exec read s = .next (refuse k who dbg v)) ∧
    (∀ dbg data, accessOf v k off who = .refused dbg → fits data → exec (put data) s = .next (refuse k who dbg v)) ∧
    (¬ open' → (∀ dbg, accessOf v k line who ≠ .refused dbg) → exec read s = .next v) ∧
    (open' → superServes u line = false ∨ u.waiting[i] ≠ [] → (∀ dbg, accessOf v k line who ≠ .refused dbg) →
      exec read s = .next (waits .read line)) ∧
    (open' → superServes u off = false ∨ u.waiting[i] ≠ [] → (∀ dbg, accessOf v k off who ≠ .refused dbg) →
      ∀ data, fits data → exec (put data) s = .next (waits (op data) off)) ∧
    (open' → superServes u line = true → u.waiting[i] = [] →
      (accessOf v k line who = .stored → exec read s = .next (emit (.readReply who stOK (storedBytes v k line 128)) v)) ∧
      (∀ key, accessOf v k line who = .ok key → u.slots[key].state ≠ 1 → Does read s fun t => answers stKeyRetired [] t ∧
        t.supers[k].keyRefused = hit 16 u.keyRefused ∧ Within [.out, .superRegs] v t) ∧
      (∀ key, accessOf v k line who = .ok key → u.slots[key].state = 1 →
        (nodesClean → (touchCtr line false u).2 = [] →
          (c = 0 → Does read s fun t => answers stOK (List.replicate 128 0) t ∧ t.supers[k].mem = u.mem ∧ t.supers[k].ctr = u.ctr ∧
            Within [.out, .superTree, .superRegs] v t) ∧
          (c ≠ 0 → u.poison.contains (line / 128) = true → Does read s fun t => answers stPoison [] t ∧
            Within [.out, .superTree, .superRegs] v t) ∧
          (c ≠ 0 → u.poison.contains (line / 128) = false →
            (clean (line / 128) → Does read s fun t => answers stOK (memRead u.mem line 128) t ∧ t.supers[k].mem = u.mem ∧
              t.supers[k].ctr = u.ctr ∧ Within [.out, .superTree, .superRegs] v t) ∧
            (∀ d, decodeLine u k (line / 128) = some d → d.left = 0 → d.corrected = true → d.mark = none →
              sealedAt k line = true ∨ tabGet 0 u.dramErr (tagLine (line / 128)) = 0 → Does read s fun t =>
                answers stOK (memRead u.mem line 128) t ∧ t.supers[k].ce = hit 32 u.ce ∧ t.supers[k].ctr = u.ctr) ∧
            (decodeLine u k (line / 128) = none → Does read s fun t => answers stPoison [] t ∧
              t.supers[k].poison.contains (line / 128) = true ∧ t.supers[k].ue = hit 16 u.ue ∧ t.supers[k].errSrc = srcOfReq who) ∧
            (readOutcome v k line = .badTag → unmarked (line / 128) → (∀ j : Super, who ≠ .hild j) →
              ∀ p m a, ownerAt v k line = some (p, m, a) → v.parts[p].recov = [] → Does read s fun t =>
                answers stIntegrityFail [] t ∧ Stopped p stIntegrityFail v t ∧ t.supers[k].tagFail = hit 16 u.tagFail))) ∧
        (nodeBad u line = true → Does read s fun t => answers stPoison [] t ∧ Within [.out, .superRegs] v t) ∧
        (∀ n p m a, nodeBad u line = false → (missingNodes u line).head? = some n → nodeVerifies u k n = false → regionDie k = none →
          (∀ j : Super, who ≠ .hild j) → ownerAt v k line = some (p, m, a) → v.parts[p].recov = [] → Does read s fun t =>
            answers stIntegrityFail [] t ∧ Stopped p stIntegrityFail v t ∧ t.supers[k].badNodes.contains n = true))) ∧
    (open' → superServes u off = true → u.waiting[i] = [] → ∀ key data, accessOf v k off who = .ok key → fits data →
      exec (put data) s = .next (serveWrite k off who data v) ∧
      (u.slots[key].state ≠ 1 → Does (put data) s fun t => answers stKeyRetired [] t ∧
        t.supers[k].keyRefused = hit 16 u.keyRefused ∧ t.supers[k].lateDrop = hit 16 u.lateDrop ∧ Within [.out, .superRegs] v t) ∧
      (u.slots[key].state = 1 → nodesClean → off % 512 + data.length ≤ 512 →
        let sector := (List.range 4).map fun x => sec * 4 + x
        (c + 1 < 2 ^ 55 → (touchCtr off true u).2 = [] → (c ≠ 0 → (∀ l ∈ sector, clean l) ∧
            (data.length < 128 → u.poison.contains (off / 128) = false)) → Does (put data) s fun t => answers stOK [] t ∧
          memRead t.supers[k].mem off data.length = data ∧
          (∀ a, a < off ∨ off + data.length ≤ a → memByte t.supers[k].mem a = memByte u.mem a) ∧
          (∀ x, tabGet 0 t.supers[k].ctr x = if x = sec then c + 1 else tabGet 0 u.ctr x) ∧
          (∀ l, off ≤ 128 * l → 128 * l + 128 ≤ off + data.length → t.supers[k].poison.contains l = false) ∧
          (∀ j : Super, j ≠ k → t.supers[j] = v.supers[j]) ∧ Within [.out, .superMem, .superTree, .superRegs] v t) ∧
        (c + 1 = 2 ^ 56 → ∀ p m a, ownerAt v k (sec * 512) = some (p, m, a) → v.parts[p].recov = [] →
          Does (put data) s fun t => answers stCounterExhausted [] t ∧ Stopped p stCounterExhausted v t ∧
            t.supers[k].ctrExh = hit 16 u.ctrExh) ∧
        (data.length < 128 → c ≠ 0 → c + 1 ≠ 2 ^ 56 → u.poison.contains (off / 128) = true → (∀ l ∈ sector, clean l) →
          exec (put data) s = .next (emit (.readReply who stPoison []) (crossLink k who 1 1 v))) ∧
        (c ≠ 0 → c + 1 ≠ 2 ^ 56 → (∀ l ∈ sector, unmarked l) → (∀ j : Super, who ≠ .hild j) →
          (∃ l ∈ sector, (∀ x ∈ wholeLines off data.length, x ≠ l) ∧ lineCheck v k l = .badTag) →
          ∀ p, (∀ l ∈ sector, ∃ m a, ownerAt v k (128 * l) = some (p, m, a)) → v.parts[p].recov = [] → Does (put data) s fun t =>
            answers stIntegrityFail [] t ∧ Stopped p stIntegrityFail v t)) ∧
      (u.slots[key].state = 1 → data.length < 128 → readOutcome v k off = .zero ∨ (∃ e, readOutcome v k off = .good e) →
        ∀ (a : BitVec 36) (bs : Bytes),
          let t := serveWrite k a.toNat (.hild k) bs (meetLine k off (srcOfReq who) v)
          exec (.partialWrite sup addr who data [(a, bs)] f g h) s = .next (serveWrite k off who data
            (if tabGet 0 t.supers[k].ctr sec = c then t else t.modSuper k fun u => { u with mergeRetry := hit 16 u.mergeRetry })))))
end

