-- ==== Sys2Proof/Laws/Dram.lean ====
section
/-! SUPPORT. What the symbol code of R310–R312 does whichever byte of a line lies on which die: the assignment is free
(`Config.dieLayout`), but each die holds 9 bytes of a line, so 13 to 16 bytes in error are beyond every trial, and the 9 bytes
of one die alone mark that die. -/

namespace Sys2Proof.Laws

open Machine

/-- Of any bytes of a line at most 9 lie on one die. -/
theorem onDie_le (d : Fin 16) (l : List (Fin 144)) (hl : l.Nodup) : (l.filter fun i => decide (byteDie i = d)).length ≤ 9 := by
  have hn : ((l.filter fun i => decide (byteDie i = d)).map Config.dieLayout).Nodup :=
    (hl.filter _).map Config.dieLayout.injective
  have hs : ((l.filter fun i => decide (byteDie i = d)).map Config.dieLayout).toFinset ⊆
      Finset.univ.filter fun j : Fin 144 => j.val / 9 = d.val := by
    intro j hj
    simp only [List.mem_toFinset, List.mem_map, List.mem_filter, decide_eq_true_eq] at hj
    obtain ⟨i, ⟨-, hi⟩, rfl⟩ := hj
    simp [← hi, byteDie]
  have hc : ∀ d : Fin 16, (Finset.univ.filter fun j : Fin 144 => j.val / 9 = d.val).card = 9 := by decide +kernel
  have h := Finset.card_le_card hs
  rwa [List.toFinset_card_of_nodup hn, List.length_map, hc] at h

/-- No byte of a line counts twice. -/
theorem badBytes_nodup (e : BitVec 1152) : (badBytes e).Nodup := (show (fins 144).Nodup by decide +kernel).filter _

/-- At least all but 9 of the bytes in error lie outside a die. -/
theorem badBytes_le (e : BitVec 1152) (d : Fin 16) : (badBytes e).length ≤ (badOutside e d).length + 9 := by
  have h := List.length_eq_length_filter_add (l := badBytes e) fun i => decide (byteDie i = d)
  have h9 := onDie_le d (badBytes e) (badBytes_nodup e)
  have ho : badOutside e d = (badBytes e).filter fun i => !decide (byteDie i = d) := by simp [badOutside]
  rw [ho]
  omega

/-- 13 to 16 bytes in error decode neither whole nor with any die erased. -/
theorem symbolDecode_many {e : BitVec 1152} (h : 13 ≤ (badBytes e).length) (h' : (badBytes e).length ≤ 16)
    (die : Option (Fin 16)) : symbolDecode e die = none := by
  cases die with
  | none =>
    simp only [symbolDecode, Option.isNone_none, if_true]
    rw [if_neg (by omega), if_pos h']
  | some d =>
    have hd := badBytes_le e d
    have hl : (badOutside e d).length ≤ (badBytes e).length := List.length_filter_le _ _
    simp only [symbolDecode, Option.isNone_some, Bool.false_eq_true, if_false]
    rw [if_neg (by omega), if_pos (by omega)]

/-- A line outside the sealed layout with 13 to 16 bytes in error is uncorrectable. -/
theorem decodeLine_many {u : SuperState} {k : Super} {l : Nat} {e : BitVec 1152} (hs : sealedAt k (128 * l) = false)
    (he : tabGet 0 u.dramErr l = e) (h : 13 ≤ (badBytes e).length) (h' : (badBytes e).length ≤ 16) :
    decodeLine u k l = none := by
  have h0 : e ≠ 0 := by
    rintro rfl
    rw [show (badBytes 0).length = 0 by decide +kernel] at h
    omega
  have hn := symbolDecode_many h h'
  have ht : dieTrials e = [] := by simp [dieTrials, hn]
  simp only [decodeLine, hs, he, hn, ht, h0, if_false, Bool.false_eq_true, ite_self]

/-- One flipped bit in each byte of a die. -/
def diePattern (d : Fin 16) : BitVec 1152 :=
  BitVec.ofNat 1152 (Nat.ofDigits 256 ((fins 144).map fun i => if byteDie i = d then 1 else 0))

/-- The pattern of a die flips the bytes of that die. -/
theorem flipByte_diePattern (d : Fin 16) (i : Fin 144) : flipByte (diePattern d) i.val = if byteDie i = d then 1 else 0 := by
  set L := (fins 144).map fun i => if byteDie i = d then 1 else 0 with hL
  have hlen : L.length = 144 := by rw [hL, List.length_map]; decide +kernel
  have hlt : ∀ x ∈ L, x < 256 := by
    intro x hx
    simp only [hL, List.mem_map] at hx
    obtain ⟨j, -, rfl⟩ := hx
    split <;> omega
  have hb : Nat.ofDigits 256 L < 2 ^ 1152 := by
    have := Nat.ofDigits_lt_base_pow_length (b := 256) (by omega) hlt
    rw [hlen] at this
    exact this.trans_eq (by decide +kernel)
  have hi : i.val < L.length := by rw [hlen]; exact i.isLt
  have hg : (fins 144)[i.val]'(by rw [show (fins 144).length = 144 by decide +kernel]; exact i.isLt) = i := by
    have : ∀ i : Fin 144, (fins 144)[i.val]'(by rw [show (fins 144).length = 144 by decide +kernel]; exact i.isLt) = i := by
      decide +kernel
    exact this i
  unfold flipByte diePattern
  rw [BitVec.toNat_ofNat, ← hL, Nat.mod_eq_of_lt hb, show (2 : Nat) ^ (8 * i.val) = 256 ^ i.val by rw [pow_mul]; norm_num,
    Nat.ofDigits_div_pow_eq_ofDigits_drop i.val (by omega) L hlt, List.drop_eq_getElem_cons hi, Nat.ofDigits_cons]
  simp only [hL, List.getElem_map, hg]
  clear hb
  split <;> omega

/-- With one flipped bit in each byte of a die, a die's trial leaves all 9 bytes in error or none. -/
theorem badOutside_diePattern (d t : Fin 16) (h9 : ((fins 144).filter fun i => decide (byteDie i = d)).length = 9) :
    (badOutside (diePattern d) t).length = if t = d then 0 else 9 := by
  have hb : badBytes (diePattern d) = (fins 144).filter fun i => decide (byteDie i = d) := by
    unfold badBytes
    congr 1
    funext i
    rw [flipByte_diePattern]
    by_cases h : byteDie i = d <;> simp [h]
  unfold badOutside
  rw [hb, List.filter_filter]
  by_cases h : t = d
  · subst h
    simp
  · rw [if_neg h, ← h9]
    congr 2
    funext i
    by_cases hi : byteDie i = d
    · simp [hi, Ne.symm h]
    · simp [hi]

/-- Each die holds exactly 9 bytes of a line (R308). -/
theorem onDie_eq (d : Fin 16) : ((fins 144).filter fun i => decide (byteDie i = d)).length = 9 := by
  have hn : (fins 144).Nodup := by decide +kernel
  have hm : ∀ i : Fin 144, i ∈ fins 144 := by decide +kernel
  have hc : ∀ d : Fin 16, (Finset.univ.filter fun j : Fin 144 => j.val / 9 = d.val).card = 9 := by decide +kernel
  have he : ((fins 144).filter fun i => decide (byteDie i = d)).toFinset =
      (Finset.univ.filter fun j : Fin 144 => j.val / 9 = d.val).map Config.dieLayout.symm.toEmbedding := by
    ext i
    simp only [List.mem_toFinset, List.mem_filter, hm, true_and, decide_eq_true_eq, Finset.mem_map, Finset.mem_filter,
      Finset.mem_univ, Equiv.coe_toEmbedding]
    constructor
    · intro h
      exact ⟨Config.dieLayout i, by simp [← h, byteDie], by simp⟩
    · rintro ⟨j, hj, rfl⟩
      simp [byteDie, hj]
  rw [← List.toFinset_card_of_nodup (hn.filter _), he, Finset.card_map, hc]

/-- The 9 bytes of one die in error mark that die and are corrected with it erased (R312). -/
theorem decodeLine_die {u : SuperState} {k : Super} {l : Nat} {d : Fin 16} (hs : sealedAt k (128 * l) = false)
    (hm : u.dieMark = false) (he : tabGet 0 u.dramErr l = diePattern d) : decodeLine u k l = some ⟨0, false, some d⟩ := by
  have ho := fun t => badOutside_diePattern d t (onDie_eq d)
  have hb : (badBytes (diePattern d)).length = 9 := by
    rw [← onDie_eq d]
    unfold badBytes
    congr 2
    funext i
    rw [flipByte_diePattern]
    by_cases h : byteDie i = d <;> simp [h]
  have h0 : diePattern d ≠ 0 := by
    intro e
    rw [e, show (badBytes 0).length = 0 by decide +kernel] at hb
    omega
  have hn : symbolDecode (diePattern d) none = none := by simp [symbolDecode, hb]
  have hd : ∀ t, symbolDecode (diePattern d) (some t) = if t = d then some 0 else none := by
    intro t
    by_cases h : t = d <;> simp [symbolDecode, ho, h]
  have ht : dieTrials (diePattern d) = [d] := by
    have : ∀ d : Fin 16, ((fins 16).filter fun t => decide (t = d)) = [d] := by decide +kernel
    rw [← this d]
    unfold dieTrials
    congr 1
    funext t
    by_cases h : t = d <;> simp [hd, h]
  simp only [decodeLine, hs, hm, he, h0, hn, ht, hd, if_false, if_true, Bool.false_eq_true, Option.map_some]

/-- Bytes without a flipped bit are as they were. -/
theorem flipBytes_zero (bs : Bytes) : flipBytes bs 0 = bs := by
  refine List.ext_getElem (by simp [flipBytes]) fun i h h' => ?_
  simp [flipBytes]

/-- A tag in error over clear data does not match (R344). -/
theorem tagMatches_false {s : State} {k : Super} {l : Nat} {tag : BitVec 64} (h : tag ≠ 0) :
    tagMatches s k l 0 tag = false := by
  have hx : ∀ x : BitVec 64, x ≠ x ^^^ tag := fun x e => h (by
    have := congrArg (x ^^^ ·) e
    simpa [← BitVec.xor_assoc] using this.symm)
  unfold tagMatches
  rw [show (0 : BitVec 1024).toNat = 0 by decide +kernel, flipBytes_zero]
  exact Bool.or_eq_false_iff.2 ⟨decide_eq_false fun a => h a.2, decide_eq_false (hx _)⟩

/-- A line whose data is clear and whose tag is left in error fails its tag (R344, R352). -/
theorem lineCheck_badTag {s : State} {k : Super} {l : Nat} {d : Decoded} {t : BitVec 64}
    (hp : s.supers[k].poison.contains l = false) (hd : decodeLine s.supers[k] k l = some d)
    (ht : tagLeft s.supers[k] k l d = some t) (hl : d.left.setWidth 1024 = 0) (h : t ≠ 0) : lineCheck s k l = .badTag := by
  simp only [lineCheck, hp, hd, ht, hl, tagMatches_false h, Bool.false_eq_true, if_false]

/-- A node in an uncorrectable line does not verify (R350). -/
theorem nodeVerifies_lost {u : SuperState} {k : Super} {n : Nat} (h : decodeLine u k (nodeLine n) = none) :
    nodeVerifies u k n = false := by
  simp [nodeVerifies, h]

/-- Where no counter node fails and the sector is written, a read meets what its line is (R352). -/
theorem readOutcome_line {s : State} {k : Super} {off : Nat} (hn : nodeBad s.supers[k] off = false)
    (hf : failingNode s.supers[k] k off = none) (hc : tabGet 0 s.supers[k].ctr (off / 512) ≠ 0) :
    readOutcome s k off = lineCheck s k (off / 128) := by
  simp only [readOutcome, hn, hf, hc, Bool.false_eq_true, if_false]

end Sys2Proof.Laws
end

