-- ==== Sys2Proof/Laws/State.lean ====
section
/-! SUPPORT. What each update of one unit leaves and changes: one lemma for each field of State and each update, so that no
proof unfolds a record update. -/

namespace Sys2Proof.Machine

/-! ### One entry of a vector -/

@[simp] theorem upd_same {α : Type} {n : Nat} (v : Vector α n) (i : Fin n) (f : α → α) : (upd v i f)[i] = f v[i] := by
  simp [upd]

theorem upd_other {α : Type} {n : Nat} (v : Vector α n) (i j : Fin n) (f : α → α) (h : i ≠ j) : (upd v i f)[j] = v[j] := by
  have : i.val ≠ j.val := fun e => h (Fin.ext e)
  simp [upd, this]

@[simp] theorem upd_same_nat {α : Type} {n : Nat} (v : Vector α n) (i : Fin n) (f : α → α) :
    (upd v i f)[i.val] = f v[i.val] := by
  simp [upd]

theorem upd_get {α : Type} {n : Nat} (v : Vector α n) (i : Fin n) (f : α → α) (j : Nat) (hj : j < n) :
    (upd v i f)[j] = if i.val = j then f v[j] else v[j] := by
  by_cases h : i.val = j <;> simp [upd, h]

theorem upd_id {α : Type} {n : Nat} (v : Vector α n) (i : Fin n) : upd v i (fun x => x) = v := by
  apply Vector.ext
  intro j hj
  simp [upd_get]

/-! ### Fields under each update -/

/-! #### modComb -/

@[simp] theorem modComb_pending (s : State) (k : Comb) (f : CombState → CombState) : (s.modComb k f).pending = s.pending := rfl
@[simp] theorem modComb_host (s : State) (k : Comb) (f : CombState → CombState) : (s.modComb k f).host = s.host := rfl
@[simp] theorem modComb_out (s : State) (k : Comb) (f : CombState → CombState) : (s.modComb k f).out = s.out := rfl
@[simp] theorem modComb_draws (s : State) (k : Comb) (f : CombState → CombState) : (s.modComb k f).draws = s.draws := rfl
@[simp] theorem modComb_supers (s : State) (k : Comb) (f : CombState → CombState) : (s.modComb k f).supers = s.supers := rfl
@[simp] theorem modComb_parts (s : State) (k : Comb) (f : CombState → CombState) : (s.modComb k f).parts = s.parts := rfl
@[simp] theorem modComb_fns (s : State) (k : Comb) (f : CombState → CombState) : (s.modComb k f).fns = s.fns := rfl
@[simp] theorem modComb_dies (s : State) (k : Comb) (f : CombState → CombState) : (s.modComb k f).dies = s.dies := rfl
@[simp] theorem modComb_ports (s : State) (k : Comb) (f : CombState → CombState) : (s.modComb k f).ports = s.ports := rfl
@[simp] theorem modComb_queen (s : State) (k : Comb) (f : CombState → CombState) : (s.modComb k f).queen = s.queen := rfl
@[simp] theorem modComb_power (s : State) (k : Comb) (f : CombState → CombState) : (s.modComb k f).power = s.power := rfl
@[simp] theorem modComb_boot (s : State) (k : Comb) (f : CombState → CombState) : (s.modComb k f).boot = s.boot := rfl
@[simp] theorem modComb_mgmt (s : State) (k : Comb) (f : CombState → CombState) : (s.modComb k f).mgmt = s.mgmt := rfl
@[simp] theorem modComb_evt (s : State) (k : Comb) (f : CombState → CombState) : (s.modComb k f).evt = s.evt := rfl
@[simp] theorem modComb_mod (s : State) (k : Comb) (f : CombState → CombState) : (s.modComb k f).mod = s.mod := rfl

/-! #### modSuper -/

@[simp] theorem modSuper_pending (s : State) (k : Super) (f : SuperState → SuperState) : (s.modSuper k f).pending = s.pending := rfl
@[simp] theorem modSuper_host (s : State) (k : Super) (f : SuperState → SuperState) : (s.modSuper k f).host = s.host := rfl
@[simp] theorem modSuper_out (s : State) (k : Super) (f : SuperState → SuperState) : (s.modSuper k f).out = s.out := rfl
@[simp] theorem modSuper_draws (s : State) (k : Super) (f : SuperState → SuperState) : (s.modSuper k f).draws = s.draws := rfl
@[simp] theorem modSuper_combs (s : State) (k : Super) (f : SuperState → SuperState) : (s.modSuper k f).combs = s.combs := rfl
@[simp] theorem modSuper_parts (s : State) (k : Super) (f : SuperState → SuperState) : (s.modSuper k f).parts = s.parts := rfl
@[simp] theorem modSuper_fns (s : State) (k : Super) (f : SuperState → SuperState) : (s.modSuper k f).fns = s.fns := rfl
@[simp] theorem modSuper_dies (s : State) (k : Super) (f : SuperState → SuperState) : (s.modSuper k f).dies = s.dies := rfl
@[simp] theorem modSuper_ports (s : State) (k : Super) (f : SuperState → SuperState) : (s.modSuper k f).ports = s.ports := rfl
@[simp] theorem modSuper_queen (s : State) (k : Super) (f : SuperState → SuperState) : (s.modSuper k f).queen = s.queen := rfl
@[simp] theorem modSuper_power (s : State) (k : Super) (f : SuperState → SuperState) : (s.modSuper k f).power = s.power := rfl
@[simp] theorem modSuper_boot (s : State) (k : Super) (f : SuperState → SuperState) : (s.modSuper k f).boot = s.boot := rfl
@[simp] theorem modSuper_mgmt (s : State) (k : Super) (f : SuperState → SuperState) : (s.modSuper k f).mgmt = s.mgmt := rfl
@[simp] theorem modSuper_evt (s : State) (k : Super) (f : SuperState → SuperState) : (s.modSuper k f).evt = s.evt := rfl
@[simp] theorem modSuper_mod (s : State) (k : Super) (f : SuperState → SuperState) : (s.modSuper k f).mod = s.mod := rfl

/-! #### modPart -/

@[simp] theorem modPart_pending (s : State) (p : Part) (f : PartState → PartState) : (s.modPart p f).pending = s.pending := rfl
@[simp] theorem modPart_host (s : State) (p : Part) (f : PartState → PartState) : (s.modPart p f).host = s.host := rfl
@[simp] theorem modPart_out (s : State) (p : Part) (f : PartState → PartState) : (s.modPart p f).out = s.out := rfl
@[simp] theorem modPart_draws (s : State) (p : Part) (f : PartState → PartState) : (s.modPart p f).draws = s.draws := rfl
@[simp] theorem modPart_combs (s : State) (p : Part) (f : PartState → PartState) : (s.modPart p f).combs = s.combs := rfl
@[simp] theorem modPart_supers (s : State) (p : Part) (f : PartState → PartState) : (s.modPart p f).supers = s.supers := rfl
@[simp] theorem modPart_fns (s : State) (p : Part) (f : PartState → PartState) : (s.modPart p f).fns = s.fns := rfl
@[simp] theorem modPart_dies (s : State) (p : Part) (f : PartState → PartState) : (s.modPart p f).dies = s.dies := rfl
@[simp] theorem modPart_ports (s : State) (p : Part) (f : PartState → PartState) : (s.modPart p f).ports = s.ports := rfl
@[simp] theorem modPart_queen (s : State) (p : Part) (f : PartState → PartState) : (s.modPart p f).queen = s.queen := rfl
@[simp] theorem modPart_power (s : State) (p : Part) (f : PartState → PartState) : (s.modPart p f).power = s.power := rfl
@[simp] theorem modPart_boot (s : State) (p : Part) (f : PartState → PartState) : (s.modPart p f).boot = s.boot := rfl
@[simp] theorem modPart_mgmt (s : State) (p : Part) (f : PartState → PartState) : (s.modPart p f).mgmt = s.mgmt := rfl
@[simp] theorem modPart_evt (s : State) (p : Part) (f : PartState → PartState) : (s.modPart p f).evt = s.evt := rfl
@[simp] theorem modPart_mod (s : State) (p : Part) (f : PartState → PartState) : (s.modPart p f).mod = s.mod := rfl

/-! #### modFn -/

@[simp] theorem modFn_pending (s : State) (n : Fn) (f : FnState → FnState) : (s.modFn n f).pending = s.pending := rfl
@[simp] theorem modFn_host (s : State) (n : Fn) (f : FnState → FnState) : (s.modFn n f).host = s.host := rfl
@[simp] theorem modFn_out (s : State) (n : Fn) (f : FnState → FnState) : (s.modFn n f).out = s.out := rfl
@[simp] theorem modFn_draws (s : State) (n : Fn) (f : FnState → FnState) : (s.modFn n f).draws = s.draws := rfl
@[simp] theorem modFn_combs (s : State) (n : Fn) (f : FnState → FnState) : (s.modFn n f).combs = s.combs := rfl
@[simp] theorem modFn_supers (s : State) (n : Fn) (f : FnState → FnState) : (s.modFn n f).supers = s.supers := rfl
@[simp] theorem modFn_parts (s : State) (n : Fn) (f : FnState → FnState) : (s.modFn n f).parts = s.parts := rfl
@[simp] theorem modFn_dies (s : State) (n : Fn) (f : FnState → FnState) : (s.modFn n f).dies = s.dies := rfl
@[simp] theorem modFn_ports (s : State) (n : Fn) (f : FnState → FnState) : (s.modFn n f).ports = s.ports := rfl
@[simp] theorem modFn_queen (s : State) (n : Fn) (f : FnState → FnState) : (s.modFn n f).queen = s.queen := rfl
@[simp] theorem modFn_power (s : State) (n : Fn) (f : FnState → FnState) : (s.modFn n f).power = s.power := rfl
@[simp] theorem modFn_boot (s : State) (n : Fn) (f : FnState → FnState) : (s.modFn n f).boot = s.boot := rfl
@[simp] theorem modFn_mgmt (s : State) (n : Fn) (f : FnState → FnState) : (s.modFn n f).mgmt = s.mgmt := rfl
@[simp] theorem modFn_evt (s : State) (n : Fn) (f : FnState → FnState) : (s.modFn n f).evt = s.evt := rfl
@[simp] theorem modFn_mod (s : State) (n : Fn) (f : FnState → FnState) : (s.modFn n f).mod = s.mod := rfl

/-! #### modDie -/

@[simp] theorem modDie_pending (s : State) (d : Die) (f : DieState → DieState) : (s.modDie d f).pending = s.pending := rfl
@[simp] theorem modDie_host (s : State) (d : Die) (f : DieState → DieState) : (s.modDie d f).host = s.host := rfl
@[simp] theorem modDie_out (s : State) (d : Die) (f : DieState → DieState) : (s.modDie d f).out = s.out := rfl
@[simp] theorem modDie_draws (s : State) (d : Die) (f : DieState → DieState) : (s.modDie d f).draws = s.draws := rfl
@[simp] theorem modDie_combs (s : State) (d : Die) (f : DieState → DieState) : (s.modDie d f).combs = s.combs := rfl
@[simp] theorem modDie_supers (s : State) (d : Die) (f : DieState → DieState) : (s.modDie d f).supers = s.supers := rfl
@[simp] theorem modDie_parts (s : State) (d : Die) (f : DieState → DieState) : (s.modDie d f).parts = s.parts := rfl
@[simp] theorem modDie_fns (s : State) (d : Die) (f : DieState → DieState) : (s.modDie d f).fns = s.fns := rfl
@[simp] theorem modDie_ports (s : State) (d : Die) (f : DieState → DieState) : (s.modDie d f).ports = s.ports := rfl
@[simp] theorem modDie_queen (s : State) (d : Die) (f : DieState → DieState) : (s.modDie d f).queen = s.queen := rfl
@[simp] theorem modDie_power (s : State) (d : Die) (f : DieState → DieState) : (s.modDie d f).power = s.power := rfl
@[simp] theorem modDie_boot (s : State) (d : Die) (f : DieState → DieState) : (s.modDie d f).boot = s.boot := rfl
@[simp] theorem modDie_mgmt (s : State) (d : Die) (f : DieState → DieState) : (s.modDie d f).mgmt = s.mgmt := rfl
@[simp] theorem modDie_evt (s : State) (d : Die) (f : DieState → DieState) : (s.modDie d f).evt = s.evt := rfl
@[simp] theorem modDie_mod (s : State) (d : Die) (f : DieState → DieState) : (s.modDie d f).mod = s.mod := rfl

/-! #### modPort -/

@[simp] theorem modPort_pending (s : State) (p : PPort) (f : PortState → PortState) : (s.modPort p f).pending = s.pending := rfl
@[simp] theorem modPort_host (s : State) (p : PPort) (f : PortState → PortState) : (s.modPort p f).host = s.host := rfl
@[simp] theorem modPort_out (s : State) (p : PPort) (f : PortState → PortState) : (s.modPort p f).out = s.out := rfl
@[simp] theorem modPort_draws (s : State) (p : PPort) (f : PortState → PortState) : (s.modPort p f).draws = s.draws := rfl
@[simp] theorem modPort_combs (s : State) (p : PPort) (f : PortState → PortState) : (s.modPort p f).combs = s.combs := rfl
@[simp] theorem modPort_supers (s : State) (p : PPort) (f : PortState → PortState) : (s.modPort p f).supers = s.supers := rfl
@[simp] theorem modPort_parts (s : State) (p : PPort) (f : PortState → PortState) : (s.modPort p f).parts = s.parts := rfl
@[simp] theorem modPort_fns (s : State) (p : PPort) (f : PortState → PortState) : (s.modPort p f).fns = s.fns := rfl
@[simp] theorem modPort_dies (s : State) (p : PPort) (f : PortState → PortState) : (s.modPort p f).dies = s.dies := rfl
@[simp] theorem modPort_queen (s : State) (p : PPort) (f : PortState → PortState) : (s.modPort p f).queen = s.queen := rfl
@[simp] theorem modPort_power (s : State) (p : PPort) (f : PortState → PortState) : (s.modPort p f).power = s.power := rfl
@[simp] theorem modPort_boot (s : State) (p : PPort) (f : PortState → PortState) : (s.modPort p f).boot = s.boot := rfl
@[simp] theorem modPort_mgmt (s : State) (p : PPort) (f : PortState → PortState) : (s.modPort p f).mgmt = s.mgmt := rfl
@[simp] theorem modPort_evt (s : State) (p : PPort) (f : PortState → PortState) : (s.modPort p f).evt = s.evt := rfl
@[simp] theorem modPort_mod (s : State) (p : PPort) (f : PortState → PortState) : (s.modPort p f).mod = s.mod := rfl

/-! #### modSeq -/

@[simp] theorem modSeq_pending (s : State) (k : Comb) (f : Seq → Seq) : (s.modSeq k f).pending = s.pending := rfl
@[simp] theorem modSeq_host (s : State) (k : Comb) (f : Seq → Seq) : (s.modSeq k f).host = s.host := rfl
@[simp] theorem modSeq_out (s : State) (k : Comb) (f : Seq → Seq) : (s.modSeq k f).out = s.out := rfl
@[simp] theorem modSeq_draws (s : State) (k : Comb) (f : Seq → Seq) : (s.modSeq k f).draws = s.draws := rfl
@[simp] theorem modSeq_supers (s : State) (k : Comb) (f : Seq → Seq) : (s.modSeq k f).supers = s.supers := rfl
@[simp] theorem modSeq_parts (s : State) (k : Comb) (f : Seq → Seq) : (s.modSeq k f).parts = s.parts := rfl
@[simp] theorem modSeq_fns (s : State) (k : Comb) (f : Seq → Seq) : (s.modSeq k f).fns = s.fns := rfl
@[simp] theorem modSeq_dies (s : State) (k : Comb) (f : Seq → Seq) : (s.modSeq k f).dies = s.dies := rfl
@[simp] theorem modSeq_ports (s : State) (k : Comb) (f : Seq → Seq) : (s.modSeq k f).ports = s.ports := rfl
@[simp] theorem modSeq_queen (s : State) (k : Comb) (f : Seq → Seq) : (s.modSeq k f).queen = s.queen := rfl
@[simp] theorem modSeq_power (s : State) (k : Comb) (f : Seq → Seq) : (s.modSeq k f).power = s.power := rfl
@[simp] theorem modSeq_boot (s : State) (k : Comb) (f : Seq → Seq) : (s.modSeq k f).boot = s.boot := rfl
@[simp] theorem modSeq_mgmt (s : State) (k : Comb) (f : Seq → Seq) : (s.modSeq k f).mgmt = s.mgmt := rfl
@[simp] theorem modSeq_evt (s : State) (k : Comb) (f : Seq → Seq) : (s.modSeq k f).evt = s.evt := rfl
@[simp] theorem modSeq_mod (s : State) (k : Comb) (f : Seq → Seq) : (s.modSeq k f).mod = s.mod := rfl

/-! #### modHum -/

@[simp] theorem modHum_pending (s : State) (k : Comb) (f : Hum → Hum) : (s.modHum k f).pending = s.pending := rfl
@[simp] theorem modHum_host (s : State) (k : Comb) (f : Hum → Hum) : (s.modHum k f).host = s.host := rfl
@[simp] theorem modHum_out (s : State) (k : Comb) (f : Hum → Hum) : (s.modHum k f).out = s.out := rfl
@[simp] theorem modHum_draws (s : State) (k : Comb) (f : Hum → Hum) : (s.modHum k f).draws = s.draws := rfl
@[simp] theorem modHum_supers (s : State) (k : Comb) (f : Hum → Hum) : (s.modHum k f).supers = s.supers := rfl
@[simp] theorem modHum_parts (s : State) (k : Comb) (f : Hum → Hum) : (s.modHum k f).parts = s.parts := rfl
@[simp] theorem modHum_fns (s : State) (k : Comb) (f : Hum → Hum) : (s.modHum k f).fns = s.fns := rfl
@[simp] theorem modHum_dies (s : State) (k : Comb) (f : Hum → Hum) : (s.modHum k f).dies = s.dies := rfl
@[simp] theorem modHum_ports (s : State) (k : Comb) (f : Hum → Hum) : (s.modHum k f).ports = s.ports := rfl
@[simp] theorem modHum_queen (s : State) (k : Comb) (f : Hum → Hum) : (s.modHum k f).queen = s.queen := rfl
@[simp] theorem modHum_power (s : State) (k : Comb) (f : Hum → Hum) : (s.modHum k f).power = s.power := rfl
@[simp] theorem modHum_boot (s : State) (k : Comb) (f : Hum → Hum) : (s.modHum k f).boot = s.boot := rfl
@[simp] theorem modHum_mgmt (s : State) (k : Comb) (f : Hum → Hum) : (s.modHum k f).mgmt = s.mgmt := rfl
@[simp] theorem modHum_evt (s : State) (k : Comb) (f : Hum → Hum) : (s.modHum k f).evt = s.evt := rfl
@[simp] theorem modHum_mod (s : State) (k : Comb) (f : Hum → Hum) : (s.modHum k f).mod = s.mod := rfl

/-! #### modRouter -/

@[simp] theorem modRouter_pending (s : State) (k : Comb) (f : Router → Router) : (s.modRouter k f).pending = s.pending := rfl
@[simp] theorem modRouter_host (s : State) (k : Comb) (f : Router → Router) : (s.modRouter k f).host = s.host := rfl
@[simp] theorem modRouter_out (s : State) (k : Comb) (f : Router → Router) : (s.modRouter k f).out = s.out := rfl
@[simp] theorem modRouter_draws (s : State) (k : Comb) (f : Router → Router) : (s.modRouter k f).draws = s.draws := rfl
@[simp] theorem modRouter_supers (s : State) (k : Comb) (f : Router → Router) : (s.modRouter k f).supers = s.supers := rfl
@[simp] theorem modRouter_parts (s : State) (k : Comb) (f : Router → Router) : (s.modRouter k f).parts = s.parts := rfl
@[simp] theorem modRouter_fns (s : State) (k : Comb) (f : Router → Router) : (s.modRouter k f).fns = s.fns := rfl
@[simp] theorem modRouter_dies (s : State) (k : Comb) (f : Router → Router) : (s.modRouter k f).dies = s.dies := rfl
@[simp] theorem modRouter_ports (s : State) (k : Comb) (f : Router → Router) : (s.modRouter k f).ports = s.ports := rfl
@[simp] theorem modRouter_queen (s : State) (k : Comb) (f : Router → Router) : (s.modRouter k f).queen = s.queen := rfl
@[simp] theorem modRouter_power (s : State) (k : Comb) (f : Router → Router) : (s.modRouter k f).power = s.power := rfl
@[simp] theorem modRouter_boot (s : State) (k : Comb) (f : Router → Router) : (s.modRouter k f).boot = s.boot := rfl
@[simp] theorem modRouter_mgmt (s : State) (k : Comb) (f : Router → Router) : (s.modRouter k f).mgmt = s.mgmt := rfl
@[simp] theorem modRouter_evt (s : State) (k : Comb) (f : Router → Router) : (s.modRouter k f).evt = s.evt := rfl
@[simp] theorem modRouter_mod (s : State) (k : Comb) (f : Router → Router) : (s.modRouter k f).mod = s.mod := rfl

/-! #### modSPort -/

@[simp] theorem modSPort_pending (s : State) (k : Comb) (p : LPort) (f : StrandPort → StrandPort) : (s.modSPort k p f).pending = s.pending := rfl
@[simp] theorem modSPort_host (s : State) (k : Comb) (p : LPort) (f : StrandPort → StrandPort) : (s.modSPort k p f).host = s.host := rfl
@[simp] theorem modSPort_out (s : State) (k : Comb) (p : LPort) (f : StrandPort → StrandPort) : (s.modSPort k p f).out = s.out := rfl
@[simp] theorem modSPort_draws (s : State) (k : Comb) (p : LPort) (f : StrandPort → StrandPort) : (s.modSPort k p f).draws = s.draws := rfl
@[simp] theorem modSPort_supers (s : State) (k : Comb) (p : LPort) (f : StrandPort → StrandPort) : (s.modSPort k p f).supers = s.supers := rfl
@[simp] theorem modSPort_parts (s : State) (k : Comb) (p : LPort) (f : StrandPort → StrandPort) : (s.modSPort k p f).parts = s.parts := rfl
@[simp] theorem modSPort_fns (s : State) (k : Comb) (p : LPort) (f : StrandPort → StrandPort) : (s.modSPort k p f).fns = s.fns := rfl
@[simp] theorem modSPort_dies (s : State) (k : Comb) (p : LPort) (f : StrandPort → StrandPort) : (s.modSPort k p f).dies = s.dies := rfl
@[simp] theorem modSPort_ports (s : State) (k : Comb) (p : LPort) (f : StrandPort → StrandPort) : (s.modSPort k p f).ports = s.ports := rfl
@[simp] theorem modSPort_queen (s : State) (k : Comb) (p : LPort) (f : StrandPort → StrandPort) : (s.modSPort k p f).queen = s.queen := rfl
@[simp] theorem modSPort_power (s : State) (k : Comb) (p : LPort) (f : StrandPort → StrandPort) : (s.modSPort k p f).power = s.power := rfl
@[simp] theorem modSPort_boot (s : State) (k : Comb) (p : LPort) (f : StrandPort → StrandPort) : (s.modSPort k p f).boot = s.boot := rfl
@[simp] theorem modSPort_mgmt (s : State) (k : Comb) (p : LPort) (f : StrandPort → StrandPort) : (s.modSPort k p f).mgmt = s.mgmt := rfl
@[simp] theorem modSPort_evt (s : State) (k : Comb) (p : LPort) (f : StrandPort → StrandPort) : (s.modSPort k p f).evt = s.evt := rfl
@[simp] theorem modSPort_mod (s : State) (k : Comb) (p : LPort) (f : StrandPort → StrandPort) : (s.modSPort k p f).mod = s.mod := rfl

/-! #### modJob -/

@[simp] theorem modJob_pending (s : State) (k : Comb) (j : JobIx) (f : JobEntry → JobEntry) : (s.modJob k j f).pending = s.pending := rfl
@[simp] theorem modJob_host (s : State) (k : Comb) (j : JobIx) (f : JobEntry → JobEntry) : (s.modJob k j f).host = s.host := rfl
@[simp] theorem modJob_out (s : State) (k : Comb) (j : JobIx) (f : JobEntry → JobEntry) : (s.modJob k j f).out = s.out := rfl
@[simp] theorem modJob_draws (s : State) (k : Comb) (j : JobIx) (f : JobEntry → JobEntry) : (s.modJob k j f).draws = s.draws := rfl
@[simp] theorem modJob_supers (s : State) (k : Comb) (j : JobIx) (f : JobEntry → JobEntry) : (s.modJob k j f).supers = s.supers := rfl
@[simp] theorem modJob_parts (s : State) (k : Comb) (j : JobIx) (f : JobEntry → JobEntry) : (s.modJob k j f).parts = s.parts := rfl
@[simp] theorem modJob_fns (s : State) (k : Comb) (j : JobIx) (f : JobEntry → JobEntry) : (s.modJob k j f).fns = s.fns := rfl
@[simp] theorem modJob_dies (s : State) (k : Comb) (j : JobIx) (f : JobEntry → JobEntry) : (s.modJob k j f).dies = s.dies := rfl
@[simp] theorem modJob_ports (s : State) (k : Comb) (j : JobIx) (f : JobEntry → JobEntry) : (s.modJob k j f).ports = s.ports := rfl
@[simp] theorem modJob_queen (s : State) (k : Comb) (j : JobIx) (f : JobEntry → JobEntry) : (s.modJob k j f).queen = s.queen := rfl
@[simp] theorem modJob_power (s : State) (k : Comb) (j : JobIx) (f : JobEntry → JobEntry) : (s.modJob k j f).power = s.power := rfl
@[simp] theorem modJob_boot (s : State) (k : Comb) (j : JobIx) (f : JobEntry → JobEntry) : (s.modJob k j f).boot = s.boot := rfl
@[simp] theorem modJob_mgmt (s : State) (k : Comb) (j : JobIx) (f : JobEntry → JobEntry) : (s.modJob k j f).mgmt = s.mgmt := rfl
@[simp] theorem modJob_evt (s : State) (k : Comb) (j : JobIx) (f : JobEntry → JobEntry) : (s.modJob k j f).evt = s.evt := rfl
@[simp] theorem modJob_mod (s : State) (k : Comb) (j : JobIx) (f : JobEntry → JobEntry) : (s.modJob k j f).mod = s.mod := rfl

/-! #### modCell -/

@[simp] theorem modCell_pending (s : State) (k : Comb) (n : PCell) (f : CellState → CellState) : (s.modCell k n f).pending = s.pending := rfl
@[simp] theorem modCell_host (s : State) (k : Comb) (n : PCell) (f : CellState → CellState) : (s.modCell k n f).host = s.host := rfl
@[simp] theorem modCell_out (s : State) (k : Comb) (n : PCell) (f : CellState → CellState) : (s.modCell k n f).out = s.out := rfl
@[simp] theorem modCell_draws (s : State) (k : Comb) (n : PCell) (f : CellState → CellState) : (s.modCell k n f).draws = s.draws := rfl
@[simp] theorem modCell_supers (s : State) (k : Comb) (n : PCell) (f : CellState → CellState) : (s.modCell k n f).supers = s.supers := rfl
@[simp] theorem modCell_parts (s : State) (k : Comb) (n : PCell) (f : CellState → CellState) : (s.modCell k n f).parts = s.parts := rfl
@[simp] theorem modCell_fns (s : State) (k : Comb) (n : PCell) (f : CellState → CellState) : (s.modCell k n f).fns = s.fns := rfl
@[simp] theorem modCell_dies (s : State) (k : Comb) (n : PCell) (f : CellState → CellState) : (s.modCell k n f).dies = s.dies := rfl
@[simp] theorem modCell_ports (s : State) (k : Comb) (n : PCell) (f : CellState → CellState) : (s.modCell k n f).ports = s.ports := rfl
@[simp] theorem modCell_queen (s : State) (k : Comb) (n : PCell) (f : CellState → CellState) : (s.modCell k n f).queen = s.queen := rfl
@[simp] theorem modCell_power (s : State) (k : Comb) (n : PCell) (f : CellState → CellState) : (s.modCell k n f).power = s.power := rfl
@[simp] theorem modCell_boot (s : State) (k : Comb) (n : PCell) (f : CellState → CellState) : (s.modCell k n f).boot = s.boot := rfl
@[simp] theorem modCell_mgmt (s : State) (k : Comb) (n : PCell) (f : CellState → CellState) : (s.modCell k n f).mgmt = s.mgmt := rfl
@[simp] theorem modCell_evt (s : State) (k : Comb) (n : PCell) (f : CellState → CellState) : (s.modCell k n f).evt = s.evt := rfl
@[simp] theorem modCell_mod (s : State) (k : Comb) (n : PCell) (f : CellState → CellState) : (s.modCell k n f).mod = s.mod := rfl

/-! #### modHild -/

@[simp] theorem modHild_pending (s : State) (k : Super) (f : Hild → Hild) : (s.modHild k f).pending = s.pending := rfl
@[simp] theorem modHild_host (s : State) (k : Super) (f : Hild → Hild) : (s.modHild k f).host = s.host := rfl
@[simp] theorem modHild_out (s : State) (k : Super) (f : Hild → Hild) : (s.modHild k f).out = s.out := rfl
@[simp] theorem modHild_draws (s : State) (k : Super) (f : Hild → Hild) : (s.modHild k f).draws = s.draws := rfl
@[simp] theorem modHild_combs (s : State) (k : Super) (f : Hild → Hild) : (s.modHild k f).combs = s.combs := rfl
@[simp] theorem modHild_parts (s : State) (k : Super) (f : Hild → Hild) : (s.modHild k f).parts = s.parts := rfl
@[simp] theorem modHild_fns (s : State) (k : Super) (f : Hild → Hild) : (s.modHild k f).fns = s.fns := rfl
@[simp] theorem modHild_dies (s : State) (k : Super) (f : Hild → Hild) : (s.modHild k f).dies = s.dies := rfl
@[simp] theorem modHild_ports (s : State) (k : Super) (f : Hild → Hild) : (s.modHild k f).ports = s.ports := rfl
@[simp] theorem modHild_queen (s : State) (k : Super) (f : Hild → Hild) : (s.modHild k f).queen = s.queen := rfl
@[simp] theorem modHild_power (s : State) (k : Super) (f : Hild → Hild) : (s.modHild k f).power = s.power := rfl
@[simp] theorem modHild_boot (s : State) (k : Super) (f : Hild → Hild) : (s.modHild k f).boot = s.boot := rfl
@[simp] theorem modHild_mgmt (s : State) (k : Super) (f : Hild → Hild) : (s.modHild k f).mgmt = s.mgmt := rfl
@[simp] theorem modHild_evt (s : State) (k : Super) (f : Hild → Hild) : (s.modHild k f).evt = s.evt := rfl
@[simp] theorem modHild_mod (s : State) (k : Super) (f : Hild → Hild) : (s.modHild k f).mod = s.mod := rfl

/-! #### modRing -/

@[simp] theorem modRing_pending (s : State) (p : Part) (r : Ring) (f : RingState → RingState) : (s.modRing p r f).pending = s.pending := rfl
@[simp] theorem modRing_host (s : State) (p : Part) (r : Ring) (f : RingState → RingState) : (s.modRing p r f).host = s.host := rfl
@[simp] theorem modRing_out (s : State) (p : Part) (r : Ring) (f : RingState → RingState) : (s.modRing p r f).out = s.out := rfl
@[simp] theorem modRing_draws (s : State) (p : Part) (r : Ring) (f : RingState → RingState) : (s.modRing p r f).draws = s.draws := rfl
@[simp] theorem modRing_combs (s : State) (p : Part) (r : Ring) (f : RingState → RingState) : (s.modRing p r f).combs = s.combs := rfl
@[simp] theorem modRing_supers (s : State) (p : Part) (r : Ring) (f : RingState → RingState) : (s.modRing p r f).supers = s.supers := rfl
@[simp] theorem modRing_fns (s : State) (p : Part) (r : Ring) (f : RingState → RingState) : (s.modRing p r f).fns = s.fns := rfl
@[simp] theorem modRing_dies (s : State) (p : Part) (r : Ring) (f : RingState → RingState) : (s.modRing p r f).dies = s.dies := rfl
@[simp] theorem modRing_ports (s : State) (p : Part) (r : Ring) (f : RingState → RingState) : (s.modRing p r f).ports = s.ports := rfl
@[simp] theorem modRing_queen (s : State) (p : Part) (r : Ring) (f : RingState → RingState) : (s.modRing p r f).queen = s.queen := rfl
@[simp] theorem modRing_power (s : State) (p : Part) (r : Ring) (f : RingState → RingState) : (s.modRing p r f).power = s.power := rfl
@[simp] theorem modRing_boot (s : State) (p : Part) (r : Ring) (f : RingState → RingState) : (s.modRing p r f).boot = s.boot := rfl
@[simp] theorem modRing_mgmt (s : State) (p : Part) (r : Ring) (f : RingState → RingState) : (s.modRing p r f).mgmt = s.mgmt := rfl
@[simp] theorem modRing_evt (s : State) (p : Part) (r : Ring) (f : RingState → RingState) : (s.modRing p r f).evt = s.evt := rfl
@[simp] theorem modRing_mod (s : State) (p : Part) (r : Ring) (f : RingState → RingState) : (s.modRing p r f).mod = s.mod := rfl

/-! #### modCtx -/

@[simp] theorem modCtx_pending (s : State) (p : Part) (f : Context → Context) : (s.modCtx p f).pending = s.pending := rfl
@[simp] theorem modCtx_host (s : State) (p : Part) (f : Context → Context) : (s.modCtx p f).host = s.host := rfl
@[simp] theorem modCtx_out (s : State) (p : Part) (f : Context → Context) : (s.modCtx p f).out = s.out := rfl
@[simp] theorem modCtx_draws (s : State) (p : Part) (f : Context → Context) : (s.modCtx p f).draws = s.draws := rfl
@[simp] theorem modCtx_combs (s : State) (p : Part) (f : Context → Context) : (s.modCtx p f).combs = s.combs := rfl
@[simp] theorem modCtx_supers (s : State) (p : Part) (f : Context → Context) : (s.modCtx p f).supers = s.supers := rfl
@[simp] theorem modCtx_fns (s : State) (p : Part) (f : Context → Context) : (s.modCtx p f).fns = s.fns := rfl
@[simp] theorem modCtx_dies (s : State) (p : Part) (f : Context → Context) : (s.modCtx p f).dies = s.dies := rfl
@[simp] theorem modCtx_ports (s : State) (p : Part) (f : Context → Context) : (s.modCtx p f).ports = s.ports := rfl
@[simp] theorem modCtx_queen (s : State) (p : Part) (f : Context → Context) : (s.modCtx p f).queen = s.queen := rfl
@[simp] theorem modCtx_power (s : State) (p : Part) (f : Context → Context) : (s.modCtx p f).power = s.power := rfl
@[simp] theorem modCtx_boot (s : State) (p : Part) (f : Context → Context) : (s.modCtx p f).boot = s.boot := rfl
@[simp] theorem modCtx_mgmt (s : State) (p : Part) (f : Context → Context) : (s.modCtx p f).mgmt = s.mgmt := rfl
@[simp] theorem modCtx_evt (s : State) (p : Part) (f : Context → Context) : (s.modCtx p f).evt = s.evt := rfl
@[simp] theorem modCtx_mod (s : State) (p : Part) (f : Context → Context) : (s.modCtx p f).mod = s.mod := rfl

/-! #### modQueen -/

@[simp] theorem modQueen_pending (s : State) (f : Queen → Queen) : (s.modQueen f).pending = s.pending := rfl
@[simp] theorem modQueen_host (s : State) (f : Queen → Queen) : (s.modQueen f).host = s.host := rfl
@[simp] theorem modQueen_out (s : State) (f : Queen → Queen) : (s.modQueen f).out = s.out := rfl
@[simp] theorem modQueen_draws (s : State) (f : Queen → Queen) : (s.modQueen f).draws = s.draws := rfl
@[simp] theorem modQueen_combs (s : State) (f : Queen → Queen) : (s.modQueen f).combs = s.combs := rfl
@[simp] theorem modQueen_supers (s : State) (f : Queen → Queen) : (s.modQueen f).supers = s.supers := rfl
@[simp] theorem modQueen_parts (s : State) (f : Queen → Queen) : (s.modQueen f).parts = s.parts := rfl
@[simp] theorem modQueen_fns (s : State) (f : Queen → Queen) : (s.modQueen f).fns = s.fns := rfl
@[simp] theorem modQueen_dies (s : State) (f : Queen → Queen) : (s.modQueen f).dies = s.dies := rfl
@[simp] theorem modQueen_ports (s : State) (f : Queen → Queen) : (s.modQueen f).ports = s.ports := rfl
@[simp] theorem modQueen_power (s : State) (f : Queen → Queen) : (s.modQueen f).power = s.power := rfl
@[simp] theorem modQueen_boot (s : State) (f : Queen → Queen) : (s.modQueen f).boot = s.boot := rfl
@[simp] theorem modQueen_mgmt (s : State) (f : Queen → Queen) : (s.modQueen f).mgmt = s.mgmt := rfl
@[simp] theorem modQueen_evt (s : State) (f : Queen → Queen) : (s.modQueen f).evt = s.evt := rfl
@[simp] theorem modQueen_mod (s : State) (f : Queen → Queen) : (s.modQueen f).mod = s.mod := rfl
@[simp] theorem modQueen_queen (s : State) (f : Queen → Queen) : (s.modQueen f).queen = f s.queen := rfl

/-! #### modEvt -/

@[simp] theorem modEvt_pending (s : State) (f : EvtRegs → EvtRegs) : (s.modEvt f).pending = s.pending := rfl
@[simp] theorem modEvt_host (s : State) (f : EvtRegs → EvtRegs) : (s.modEvt f).host = s.host := rfl
@[simp] theorem modEvt_out (s : State) (f : EvtRegs → EvtRegs) : (s.modEvt f).out = s.out := rfl
@[simp] theorem modEvt_draws (s : State) (f : EvtRegs → EvtRegs) : (s.modEvt f).draws = s.draws := rfl
@[simp] theorem modEvt_combs (s : State) (f : EvtRegs → EvtRegs) : (s.modEvt f).combs = s.combs := rfl
@[simp] theorem modEvt_supers (s : State) (f : EvtRegs → EvtRegs) : (s.modEvt f).supers = s.supers := rfl
@[simp] theorem modEvt_parts (s : State) (f : EvtRegs → EvtRegs) : (s.modEvt f).parts = s.parts := rfl
@[simp] theorem modEvt_fns (s : State) (f : EvtRegs → EvtRegs) : (s.modEvt f).fns = s.fns := rfl
@[simp] theorem modEvt_dies (s : State) (f : EvtRegs → EvtRegs) : (s.modEvt f).dies = s.dies := rfl
@[simp] theorem modEvt_ports (s : State) (f : EvtRegs → EvtRegs) : (s.modEvt f).ports = s.ports := rfl
@[simp] theorem modEvt_queen (s : State) (f : EvtRegs → EvtRegs) : (s.modEvt f).queen = s.queen := rfl
@[simp] theorem modEvt_power (s : State) (f : EvtRegs → EvtRegs) : (s.modEvt f).power = s.power := rfl
@[simp] theorem modEvt_boot (s : State) (f : EvtRegs → EvtRegs) : (s.modEvt f).boot = s.boot := rfl
@[simp] theorem modEvt_mgmt (s : State) (f : EvtRegs → EvtRegs) : (s.modEvt f).mgmt = s.mgmt := rfl
@[simp] theorem modEvt_mod (s : State) (f : EvtRegs → EvtRegs) : (s.modEvt f).mod = s.mod := rfl
@[simp] theorem modEvt_evt (s : State) (f : EvtRegs → EvtRegs) : (s.modEvt f).evt = f s.evt := rfl

/-! #### modPower -/

@[simp] theorem modPower_pending (s : State) (f : Power → Power) : (s.modPower f).pending = s.pending := rfl
@[simp] theorem modPower_host (s : State) (f : Power → Power) : (s.modPower f).host = s.host := rfl
@[simp] theorem modPower_out (s : State) (f : Power → Power) : (s.modPower f).out = s.out := rfl
@[simp] theorem modPower_draws (s : State) (f : Power → Power) : (s.modPower f).draws = s.draws := rfl
@[simp] theorem modPower_combs (s : State) (f : Power → Power) : (s.modPower f).combs = s.combs := rfl
@[simp] theorem modPower_supers (s : State) (f : Power → Power) : (s.modPower f).supers = s.supers := rfl
@[simp] theorem modPower_parts (s : State) (f : Power → Power) : (s.modPower f).parts = s.parts := rfl
@[simp] theorem modPower_fns (s : State) (f : Power → Power) : (s.modPower f).fns = s.fns := rfl
@[simp] theorem modPower_dies (s : State) (f : Power → Power) : (s.modPower f).dies = s.dies := rfl
@[simp] theorem modPower_ports (s : State) (f : Power → Power) : (s.modPower f).ports = s.ports := rfl
@[simp] theorem modPower_queen (s : State) (f : Power → Power) : (s.modPower f).queen = s.queen := rfl
@[simp] theorem modPower_boot (s : State) (f : Power → Power) : (s.modPower f).boot = s.boot := rfl
@[simp] theorem modPower_mgmt (s : State) (f : Power → Power) : (s.modPower f).mgmt = s.mgmt := rfl
@[simp] theorem modPower_evt (s : State) (f : Power → Power) : (s.modPower f).evt = s.evt := rfl
@[simp] theorem modPower_mod (s : State) (f : Power → Power) : (s.modPower f).mod = s.mod := rfl
@[simp] theorem modPower_power (s : State) (f : Power → Power) : (s.modPower f).power = f s.power := rfl

/-! #### modBoot -/

@[simp] theorem modBoot_pending (s : State) (f : Boot → Boot) : (s.modBoot f).pending = s.pending := rfl
@[simp] theorem modBoot_host (s : State) (f : Boot → Boot) : (s.modBoot f).host = s.host := rfl
@[simp] theorem modBoot_out (s : State) (f : Boot → Boot) : (s.modBoot f).out = s.out := rfl
@[simp] theorem modBoot_draws (s : State) (f : Boot → Boot) : (s.modBoot f).draws = s.draws := rfl
@[simp] theorem modBoot_combs (s : State) (f : Boot → Boot) : (s.modBoot f).combs = s.combs := rfl
@[simp] theorem modBoot_supers (s : State) (f : Boot → Boot) : (s.modBoot f).supers = s.supers := rfl
@[simp] theorem modBoot_parts (s : State) (f : Boot → Boot) : (s.modBoot f).parts = s.parts := rfl
@[simp] theorem modBoot_fns (s : State) (f : Boot → Boot) : (s.modBoot f).fns = s.fns := rfl
@[simp] theorem modBoot_dies (s : State) (f : Boot → Boot) : (s.modBoot f).dies = s.dies := rfl
@[simp] theorem modBoot_ports (s : State) (f : Boot → Boot) : (s.modBoot f).ports = s.ports := rfl
@[simp] theorem modBoot_queen (s : State) (f : Boot → Boot) : (s.modBoot f).queen = s.queen := rfl
@[simp] theorem modBoot_power (s : State) (f : Boot → Boot) : (s.modBoot f).power = s.power := rfl
@[simp] theorem modBoot_mgmt (s : State) (f : Boot → Boot) : (s.modBoot f).mgmt = s.mgmt := rfl
@[simp] theorem modBoot_evt (s : State) (f : Boot → Boot) : (s.modBoot f).evt = s.evt := rfl
@[simp] theorem modBoot_mod (s : State) (f : Boot → Boot) : (s.modBoot f).mod = s.mod := rfl
@[simp] theorem modBoot_boot (s : State) (f : Boot → Boot) : (s.modBoot f).boot = f s.boot := rfl

/-! #### modMgmt -/

@[simp] theorem modMgmt_pending (s : State) (f : Mgmt → Mgmt) : (s.modMgmt f).pending = s.pending := rfl
@[simp] theorem modMgmt_host (s : State) (f : Mgmt → Mgmt) : (s.modMgmt f).host = s.host := rfl
@[simp] theorem modMgmt_out (s : State) (f : Mgmt → Mgmt) : (s.modMgmt f).out = s.out := rfl
@[simp] theorem modMgmt_draws (s : State) (f : Mgmt → Mgmt) : (s.modMgmt f).draws = s.draws := rfl
@[simp] theorem modMgmt_combs (s : State) (f : Mgmt → Mgmt) : (s.modMgmt f).combs = s.combs := rfl
@[simp] theorem modMgmt_supers (s : State) (f : Mgmt → Mgmt) : (s.modMgmt f).supers = s.supers := rfl
@[simp] theorem modMgmt_parts (s : State) (f : Mgmt → Mgmt) : (s.modMgmt f).parts = s.parts := rfl
@[simp] theorem modMgmt_fns (s : State) (f : Mgmt → Mgmt) : (s.modMgmt f).fns = s.fns := rfl
@[simp] theorem modMgmt_dies (s : State) (f : Mgmt → Mgmt) : (s.modMgmt f).dies = s.dies := rfl
@[simp] theorem modMgmt_ports (s : State) (f : Mgmt → Mgmt) : (s.modMgmt f).ports = s.ports := rfl
@[simp] theorem modMgmt_queen (s : State) (f : Mgmt → Mgmt) : (s.modMgmt f).queen = s.queen := rfl
@[simp] theorem modMgmt_power (s : State) (f : Mgmt → Mgmt) : (s.modMgmt f).power = s.power := rfl
@[simp] theorem modMgmt_boot (s : State) (f : Mgmt → Mgmt) : (s.modMgmt f).boot = s.boot := rfl
@[simp] theorem modMgmt_evt (s : State) (f : Mgmt → Mgmt) : (s.modMgmt f).evt = s.evt := rfl
@[simp] theorem modMgmt_mod (s : State) (f : Mgmt → Mgmt) : (s.modMgmt f).mod = s.mod := rfl
@[simp] theorem modMgmt_mgmt (s : State) (f : Mgmt → Mgmt) : (s.modMgmt f).mgmt = f s.mgmt := rfl

/-! #### modMod -/

@[simp] theorem modMod_pending (s : State) (f : ModuleRegs → ModuleRegs) : (s.modMod f).pending = s.pending := rfl
@[simp] theorem modMod_host (s : State) (f : ModuleRegs → ModuleRegs) : (s.modMod f).host = s.host := rfl
@[simp] theorem modMod_out (s : State) (f : ModuleRegs → ModuleRegs) : (s.modMod f).out = s.out := rfl
@[simp] theorem modMod_draws (s : State) (f : ModuleRegs → ModuleRegs) : (s.modMod f).draws = s.draws := rfl
@[simp] theorem modMod_combs (s : State) (f : ModuleRegs → ModuleRegs) : (s.modMod f).combs = s.combs := rfl
@[simp] theorem modMod_supers (s : State) (f : ModuleRegs → ModuleRegs) : (s.modMod f).supers = s.supers := rfl
@[simp] theorem modMod_parts (s : State) (f : ModuleRegs → ModuleRegs) : (s.modMod f).parts = s.parts := rfl
@[simp] theorem modMod_fns (s : State) (f : ModuleRegs → ModuleRegs) : (s.modMod f).fns = s.fns := rfl
@[simp] theorem modMod_dies (s : State) (f : ModuleRegs → ModuleRegs) : (s.modMod f).dies = s.dies := rfl
@[simp] theorem modMod_ports (s : State) (f : ModuleRegs → ModuleRegs) : (s.modMod f).ports = s.ports := rfl
@[simp] theorem modMod_queen (s : State) (f : ModuleRegs → ModuleRegs) : (s.modMod f).queen = s.queen := rfl
@[simp] theorem modMod_power (s : State) (f : ModuleRegs → ModuleRegs) : (s.modMod f).power = s.power := rfl
@[simp] theorem modMod_boot (s : State) (f : ModuleRegs → ModuleRegs) : (s.modMod f).boot = s.boot := rfl
@[simp] theorem modMod_mgmt (s : State) (f : ModuleRegs → ModuleRegs) : (s.modMod f).mgmt = s.mgmt := rfl
@[simp] theorem modMod_evt (s : State) (f : ModuleRegs → ModuleRegs) : (s.modMod f).evt = s.evt := rfl
@[simp] theorem modMod_mod (s : State) (f : ModuleRegs → ModuleRegs) : (s.modMod f).mod = f s.mod := rfl

/-! #### modDesc -/

@[simp] theorem modDesc_pending (s : State) (p : Part) (r : Ring) (i : Word) (f : Desc → Desc) : (s.modDesc p r i f).pending = s.pending := rfl
@[simp] theorem modDesc_host (s : State) (p : Part) (r : Ring) (i : Word) (f : Desc → Desc) : (s.modDesc p r i f).host = s.host := rfl
@[simp] theorem modDesc_out (s : State) (p : Part) (r : Ring) (i : Word) (f : Desc → Desc) : (s.modDesc p r i f).out = s.out := rfl
@[simp] theorem modDesc_draws (s : State) (p : Part) (r : Ring) (i : Word) (f : Desc → Desc) : (s.modDesc p r i f).draws = s.draws := rfl
@[simp] theorem modDesc_combs (s : State) (p : Part) (r : Ring) (i : Word) (f : Desc → Desc) : (s.modDesc p r i f).combs = s.combs := rfl
@[simp] theorem modDesc_supers (s : State) (p : Part) (r : Ring) (i : Word) (f : Desc → Desc) : (s.modDesc p r i f).supers = s.supers := rfl
@[simp] theorem modDesc_fns (s : State) (p : Part) (r : Ring) (i : Word) (f : Desc → Desc) : (s.modDesc p r i f).fns = s.fns := rfl
@[simp] theorem modDesc_dies (s : State) (p : Part) (r : Ring) (i : Word) (f : Desc → Desc) : (s.modDesc p r i f).dies = s.dies := rfl
@[simp] theorem modDesc_ports (s : State) (p : Part) (r : Ring) (i : Word) (f : Desc → Desc) : (s.modDesc p r i f).ports = s.ports := rfl
@[simp] theorem modDesc_queen (s : State) (p : Part) (r : Ring) (i : Word) (f : Desc → Desc) : (s.modDesc p r i f).queen = s.queen := rfl
@[simp] theorem modDesc_power (s : State) (p : Part) (r : Ring) (i : Word) (f : Desc → Desc) : (s.modDesc p r i f).power = s.power := rfl
@[simp] theorem modDesc_boot (s : State) (p : Part) (r : Ring) (i : Word) (f : Desc → Desc) : (s.modDesc p r i f).boot = s.boot := rfl
@[simp] theorem modDesc_mgmt (s : State) (p : Part) (r : Ring) (i : Word) (f : Desc → Desc) : (s.modDesc p r i f).mgmt = s.mgmt := rfl
@[simp] theorem modDesc_evt (s : State) (p : Part) (r : Ring) (i : Word) (f : Desc → Desc) : (s.modDesc p r i f).evt = s.evt := rfl
@[simp] theorem modDesc_mod (s : State) (p : Part) (r : Ring) (i : Word) (f : Desc → Desc) : (s.modDesc p r i f).mod = s.mod := rfl

/-! #### emit -/

@[simp] theorem emit_pending (o : Output) (s : State) : (emit o s).pending = s.pending := rfl
@[simp] theorem emit_host (o : Output) (s : State) : (emit o s).host = s.host := rfl
@[simp] theorem emit_draws (o : Output) (s : State) : (emit o s).draws = s.draws := rfl
@[simp] theorem emit_combs (o : Output) (s : State) : (emit o s).combs = s.combs := rfl
@[simp] theorem emit_supers (o : Output) (s : State) : (emit o s).supers = s.supers := rfl
@[simp] theorem emit_parts (o : Output) (s : State) : (emit o s).parts = s.parts := rfl
@[simp] theorem emit_fns (o : Output) (s : State) : (emit o s).fns = s.fns := rfl
@[simp] theorem emit_dies (o : Output) (s : State) : (emit o s).dies = s.dies := rfl
@[simp] theorem emit_ports (o : Output) (s : State) : (emit o s).ports = s.ports := rfl
@[simp] theorem emit_queen (o : Output) (s : State) : (emit o s).queen = s.queen := rfl
@[simp] theorem emit_power (o : Output) (s : State) : (emit o s).power = s.power := rfl
@[simp] theorem emit_boot (o : Output) (s : State) : (emit o s).boot = s.boot := rfl
@[simp] theorem emit_mgmt (o : Output) (s : State) : (emit o s).mgmt = s.mgmt := rfl
@[simp] theorem emit_evt (o : Output) (s : State) : (emit o s).evt = s.evt := rfl
@[simp] theorem emit_mod (o : Output) (s : State) : (emit o s).mod = s.mod := rfl

/-! #### emitAll -/

@[simp] theorem emitAll_pending (os : List Output) (s : State) : (emitAll os s).pending = s.pending := rfl
@[simp] theorem emitAll_host (os : List Output) (s : State) : (emitAll os s).host = s.host := rfl
@[simp] theorem emitAll_draws (os : List Output) (s : State) : (emitAll os s).draws = s.draws := rfl
@[simp] theorem emitAll_combs (os : List Output) (s : State) : (emitAll os s).combs = s.combs := rfl
@[simp] theorem emitAll_supers (os : List Output) (s : State) : (emitAll os s).supers = s.supers := rfl
@[simp] theorem emitAll_parts (os : List Output) (s : State) : (emitAll os s).parts = s.parts := rfl
@[simp] theorem emitAll_fns (os : List Output) (s : State) : (emitAll os s).fns = s.fns := rfl
@[simp] theorem emitAll_dies (os : List Output) (s : State) : (emitAll os s).dies = s.dies := rfl
@[simp] theorem emitAll_ports (os : List Output) (s : State) : (emitAll os s).ports = s.ports := rfl
@[simp] theorem emitAll_queen (os : List Output) (s : State) : (emitAll os s).queen = s.queen := rfl
@[simp] theorem emitAll_power (os : List Output) (s : State) : (emitAll os s).power = s.power := rfl
@[simp] theorem emitAll_boot (os : List Output) (s : State) : (emitAll os s).boot = s.boot := rfl
@[simp] theorem emitAll_mgmt (os : List Output) (s : State) : (emitAll os s).mgmt = s.mgmt := rfl
@[simp] theorem emitAll_evt (os : List Output) (s : State) : (emitAll os s).evt = s.evt := rfl
@[simp] theorem emitAll_mod (os : List Output) (s : State) : (emitAll os s).mod = s.mod := rfl

/-! #### drawn -/

@[simp] theorem drawn_pending (s : State) : (drawn s).pending = s.pending := rfl
@[simp] theorem drawn_host (s : State) : (drawn s).host = s.host := rfl
@[simp] theorem drawn_out (s : State) : (drawn s).out = s.out := rfl
@[simp] theorem drawn_combs (s : State) : (drawn s).combs = s.combs := rfl
@[simp] theorem drawn_supers (s : State) : (drawn s).supers = s.supers := rfl
@[simp] theorem drawn_parts (s : State) : (drawn s).parts = s.parts := rfl
@[simp] theorem drawn_fns (s : State) : (drawn s).fns = s.fns := rfl
@[simp] theorem drawn_dies (s : State) : (drawn s).dies = s.dies := rfl
@[simp] theorem drawn_ports (s : State) : (drawn s).ports = s.ports := rfl
@[simp] theorem drawn_queen (s : State) : (drawn s).queen = s.queen := rfl
@[simp] theorem drawn_power (s : State) : (drawn s).power = s.power := rfl
@[simp] theorem drawn_boot (s : State) : (drawn s).boot = s.boot := rfl
@[simp] theorem drawn_mgmt (s : State) : (drawn s).mgmt = s.mgmt := rfl
@[simp] theorem drawn_evt (s : State) : (drawn s).evt = s.evt := rfl
@[simp] theorem drawn_mod (s : State) : (drawn s).mod = s.mod := rfl

@[simp] theorem emit_out (o : Output) (s : State) : (emit o s).out = o :: s.out := rfl
@[simp] theorem emitAll_out (os : List Output) (s : State) : (emitAll os s).out = os.reverse ++ s.out := rfl
@[simp] theorem drawn_draws (s : State) : (drawn s).draws = s.draws + 1 := rfl

/-! ### The unit an update names, and the others -/

@[simp] theorem modComb_same (s : State) (k : Comb) (f : CombState → CombState) : (s.modComb k f).combs[k.val] = f s.combs[k.val] := by
  simp [State.modComb]
theorem modComb_get (s : State) (k : Comb) (f : CombState → CombState) (j : Comb) :
    (s.modComb k f).combs[j.val] = if k = j then f s.combs[j.val] else s.combs[j.val] := by
  simp [State.modComb, upd_get, Fin.ext_iff]
theorem modComb_other (s : State) (k j : Comb) (f : CombState → CombState) (h : k ≠ j) : (s.modComb k f).combs[j.val] = s.combs[j.val] := by
  simp [modComb_get, h]
@[simp] theorem modSuper_same (s : State) (k : Super) (f : SuperState → SuperState) : (s.modSuper k f).supers[k.val] = f s.supers[k.val] := by
  simp [State.modSuper]
theorem modSuper_get (s : State) (k : Super) (f : SuperState → SuperState) (j : Super) :
    (s.modSuper k f).supers[j.val] = if k = j then f s.supers[j.val] else s.supers[j.val] := by
  simp [State.modSuper, upd_get, Fin.ext_iff]
theorem modSuper_other (s : State) (k j : Super) (f : SuperState → SuperState) (h : k ≠ j) : (s.modSuper k f).supers[j.val] = s.supers[j.val] := by
  simp [modSuper_get, h]
@[simp] theorem modPart_same (s : State) (k : Part) (f : PartState → PartState) : (s.modPart k f).parts[k.val] = f s.parts[k.val] := by
  simp [State.modPart]
theorem modPart_get (s : State) (k : Part) (f : PartState → PartState) (j : Part) :
    (s.modPart k f).parts[j.val] = if k = j then f s.parts[j.val] else s.parts[j.val] := by
  simp [State.modPart, upd_get, Fin.ext_iff]
theorem modPart_other (s : State) (k j : Part) (f : PartState → PartState) (h : k ≠ j) : (s.modPart k f).parts[j.val] = s.parts[j.val] := by
  simp [modPart_get, h]
@[simp] theorem modFn_same (s : State) (k : Fn) (f : FnState → FnState) : (s.modFn k f).fns[k.val] = f s.fns[k.val] := by
  simp [State.modFn]
theorem modFn_get (s : State) (k : Fn) (f : FnState → FnState) (j : Fn) :
    (s.modFn k f).fns[j.val] = if k = j then f s.fns[j.val] else s.fns[j.val] := by
  simp [State.modFn, upd_get, Fin.ext_iff]
theorem modFn_other (s : State) (k j : Fn) (f : FnState → FnState) (h : k ≠ j) : (s.modFn k f).fns[j.val] = s.fns[j.val] := by
  simp [modFn_get, h]
@[simp] theorem modDie_same (s : State) (k : Die) (f : DieState → DieState) : (s.modDie k f).dies[k.val] = f s.dies[k.val] := by
  simp [State.modDie]
theorem modDie_get (s : State) (k : Die) (f : DieState → DieState) (j : Die) :
    (s.modDie k f).dies[j.val] = if k = j then f s.dies[j.val] else s.dies[j.val] := by
  simp [State.modDie, upd_get, Fin.ext_iff]
theorem modDie_other (s : State) (k j : Die) (f : DieState → DieState) (h : k ≠ j) : (s.modDie k f).dies[j.val] = s.dies[j.val] := by
  simp [modDie_get, h]
@[simp] theorem modPort_same (s : State) (k : PPort) (f : PortState → PortState) : (s.modPort k f).ports[k.val] = f s.ports[k.val] := by
  simp [State.modPort]
theorem modPort_get (s : State) (k : PPort) (f : PortState → PortState) (j : PPort) :
    (s.modPort k f).ports[j.val] = if k = j then f s.ports[j.val] else s.ports[j.val] := by
  simp [State.modPort, upd_get, Fin.ext_iff]
theorem modPort_other (s : State) (k j : PPort) (f : PortState → PortState) (h : k ≠ j) : (s.modPort k f).ports[j.val] = s.ports[j.val] := by
  simp [modPort_get, h]
@[simp] theorem modSeq_same (s : State) (k : Comb) (f : Seq → Seq) :
    (s.modSeq k f).combs[k.val] = (fun c : CombState => { c with seq := f c.seq }) s.combs[k.val] := modComb_same _ _ _
theorem modSeq_other (s : State) (k j : Comb) (f : Seq → Seq) (h : k ≠ j) : (s.modSeq k f).combs[j.val] = s.combs[j.val] :=
  modComb_other s k j _ h
@[simp] theorem modHum_same (s : State) (k : Comb) (f : Hum → Hum) :
    (s.modHum k f).combs[k.val] = (fun c : CombState => { c with hum := f c.hum }) s.combs[k.val] := modComb_same _ _ _
theorem modHum_other (s : State) (k j : Comb) (f : Hum → Hum) (h : k ≠ j) : (s.modHum k f).combs[j.val] = s.combs[j.val] :=
  modComb_other s k j _ h
@[simp] theorem modRouter_same (s : State) (k : Comb) (f : Router → Router) :
    (s.modRouter k f).combs[k.val] = (fun c : CombState => { c with router := f c.router }) s.combs[k.val] := modComb_same _ _ _
theorem modRouter_other (s : State) (k j : Comb) (f : Router → Router) (h : k ≠ j) : (s.modRouter k f).combs[j.val] = s.combs[j.val] :=
  modComb_other s k j _ h
@[simp] theorem modCell_same (s : State) (k : Comb) (n : PCell) (f : CellState → CellState) :
    (s.modCell k n f).combs[k.val] = (fun c : CombState => { c with cells := upd c.cells n f }) s.combs[k.val] :=
  modComb_same _ _ _
theorem modCell_other (s : State) (k j : Comb) (n : PCell) (f : CellState → CellState) (h : k ≠ j) :
    (s.modCell k n f).combs[j.val] = s.combs[j.val] := modComb_other s k j _ h
@[simp] theorem modHild_same (s : State) (k : Super) (f : Hild → Hild) :
    (s.modHild k f).supers[k.val] = (fun u : SuperState => { u with hild := f u.hild }) s.supers[k.val] := modSuper_same _ _ _
theorem modHild_other (s : State) (k j : Super) (f : Hild → Hild) (h : k ≠ j) :
    (s.modHild k f).supers[j.val] = s.supers[j.val] := modSuper_other s k j _ h
@[simp] theorem modRing_same (s : State) (p : Part) (r : Ring) (f : RingState → RingState) :
    (s.modRing p r f).parts[p.val] = (fun q : PartState => { q with rings := upd q.rings r f }) s.parts[p.val] :=
  modPart_same _ _ _
theorem modRing_other (s : State) (p j : Part) (r : Ring) (f : RingState → RingState) (h : p ≠ j) :
    (s.modRing p r f).parts[j.val] = s.parts[j.val] := modPart_other s p j _ h

/-! ### Requests to the host -/

@[simp] theorem issueHost_post (f : Fn) (n : Nat) (o : Output) (s : State) : issueHost f (.post n o) s = emit (asSent s f o) s := rfl

/-- A request that nothing waits before and that may be issued is issued at once. -/
theorem hostPut_issued {f : Fn} {x : HostItem} {s : State} (hw : s.host.waiting[f] = []) (hm : mayIssue s f x = true) :
    hostPut f x s = issueHost f x s := by
  simp [hostPut, hw, hm]

/-- A request that may not be issued now, or behind others, waits. -/
theorem hostPut_waits {f : Fn} {x : HostItem} {s : State} (h : s.host.waiting[f] ≠ [] ∨ mayIssue s f x = false) :
    hostPut f x s = { s with host := { s.host with waiting := upd s.host.waiting f (· ++ [x]) } } := by
  unfold hostPut
  have : (s.host.waiting[f].isEmpty && mayIssue s f x) = false := by
    rcases h with h | h
    · simp only [Bool.and_eq_false_iff, List.isEmpty_eq_false_iff]
      exact .inl h
    · simp [h]
  rw [if_neg (by simp only [this]; decide)]

/-- A posted write of a function that may issue requests, outside RUN, with nothing waiting, leaves at once. -/
theorem hostPut_post {f : Fn} {n : Nat} {o : Output} {s : State} (hw : s.host.waiting[f] = []) (hc : canRequest s f = true)
    (ht : s.fns[f].tdi ≠ 2) : hostPut f (.post n o) s = emit o s := by
  rw [hostPut_issued hw (by simp [mayIssue, hc]), issueHost_post, asSent, if_neg ht]

/-- Posted writes of such a function leave in order. -/
theorem hostPutAll_posts {f : Fn} (os : List (Nat × Output)) : ∀ {s : State}, s.host.waiting[f] = [] → canRequest s f = true →
    s.fns[f].tdi ≠ 2 → hostPutAll f (os.map fun o => .post o.1 o.2) s = emitAll (os.map (·.2)) s := by
  induction os with
  | nil => intros; rfl
  | cons o r ih =>
    intro s hw hc ht
    have h1 : hostPutAll f ((o :: r).map fun o => .post o.1 o.2) s = hostPutAll f (r.map fun o => .post o.1 o.2) (emit o.2 s) := by
      unfold hostPutAll forEach
      rw [List.map_cons, List.foldl_cons, hostPut_post hw hc ht]
    rw [h1, ih (s := emit o.2 s) hw hc ht]
    simp [emitAll, emit]

end Sys2Proof.Machine
end

