-- ==== Sys2Proof/Laws/Within.lean ====
section
/-! SUPPORT. Frames by pieces: what each shared update leaves alone, stated once, so that a frame of any function is a
rewriting. -/

namespace Sys2Proof.Machine

/-! ### Within is an equivalence -/

theorem Within.refl (m : List Piece) (s : State) : Within m s s := rfl
theorem Within.trans {m : List Piece} {s t u : State} (h : Within m s t) (h' : Within m t u) : Within m s u := Eq.trans h' h

/-! ### Blanking and choice -/

@[simp] theorem without_ite (m : List Piece) (c : Prop) [Decidable c] (a b : State) :
    (if c then a else b).without m = if c then a.without m else b.without m := by split <;> rfl
@[simp] theorem comb_without_ite (m : List Piece) (c : Prop) [Decidable c] (a b : CombState) :
    (if c then a else b).without m = if c then a.without m else b.without m := by split <;> rfl
@[simp] theorem super_without_ite (m : List Piece) (c : Prop) [Decidable c] (a b : SuperState) :
    (if c then a else b).without m = if c then a.without m else b.without m := by split <;> rfl
@[simp] theorem part_without_ite (m : List Piece) (c : Prop) [Decidable c] (a b : PartState) :
    (if c then a else b).without m = if c then a.without m else b.without m := by split <;> rfl
@[simp] theorem cell_without_ite (m : List Piece) (c : Prop) [Decidable c] (a b : CellState) :
    (if c then a else b).without m = if c then a.without m else b.without m := by split <;> rfl

theorem ite_without {m : List Piece} {c : Prop} [Decidable c] {a b s : State} (ha : c → a.without m = s.without m)
    (hb : ¬c → b.without m = s.without m) : (if c then a else b).without m = s.without m := by
  by_cases h : c
  · rw [if_pos h, ha h]
  · rw [if_neg h, hb h]
theorem ite_comb_without {m : List Piece} {c : Prop} [Decidable c] {a b s : CombState} (ha : c → a.without m = s.without m)
    (hb : ¬c → b.without m = s.without m) : (if c then a else b).without m = s.without m := by
  by_cases h : c
  · rw [if_pos h, ha h]
  · rw [if_neg h, hb h]
theorem ite_super_without {m : List Piece} {c : Prop} [Decidable c] {a b s : SuperState} (ha : c → a.without m = s.without m)
    (hb : ¬c → b.without m = s.without m) : (if c then a else b).without m = s.without m := by
  by_cases h : c
  · rw [if_pos h, ha h]
  · rw [if_neg h, hb h]
theorem ite_part_without {m : List Piece} {c : Prop} [Decidable c] {a b s : PartState} (ha : c → a.without m = s.without m)
    (hb : ¬c → b.without m = s.without m) : (if c then a else b).without m = s.without m := by
  by_cases h : c
  · rw [if_pos h, ha h]
  · rw [if_neg h, hb h]

/-! ### One unit changed -/

theorem upd_map_eq {α β : Type} {n : Nat} (v : Vector α n) (i : Fin n) (f : α → α) (g : α → β) (h : ∀ x, g (f x) = g x) :
    (upd v i f).map g = v.map g := by
  apply Vector.ext
  intro j hj
  simp only [Vector.getElem_map, upd_get]
  split <;> simp [h]

theorem map_map_eq {α β : Type} {n : Nat} (v : Vector α n) (f : α → α) (g : α → β) (h : ∀ x, g (f x) = g x) :
    (v.map f).map g = v.map g := by
  apply Vector.ext
  intro j hj
  simp [h]

theorem modComb_without (m : List Piece) (s : State) (k : Comb) (f : CombState → CombState)
    (h : ∀ c, (f c).without m = c.without m) : (s.modComb k f).without m = s.without m := by
  simp [State.modComb, State.without, upd_map_eq _ _ _ _ h]

theorem modSuper_without (m : List Piece) (s : State) (k : Super) (f : SuperState → SuperState)
    (h : ∀ c, (f c).without m = c.without m) : (s.modSuper k f).without m = s.without m := by
  simp [State.modSuper, State.without, upd_map_eq _ _ _ _ h]

theorem modPart_without (m : List Piece) (s : State) (k : Part) (f : PartState → PartState)
    (h : ∀ c, (f c).without m = c.without m) : (s.modPart k f).without m = s.without m := by
  simp [State.modPart, State.without, upd_map_eq _ _ _ _ h]

theorem modFn_without (m : List Piece) (s : State) (k : Fn) (f : FnState → FnState) (h : m.contains .fns = true) :
    (s.modFn k f).without m = s.without m := by
  simp only [State.modFn, State.without, h, if_true]

theorem modDie_without (m : List Piece) (s : State) (k : Die) (f : DieState → DieState)
    (h : ∀ c, (f c).without m = c.without m) : (s.modDie k f).without m = s.without m := by
  simp [State.modDie, State.without, upd_map_eq _ _ _ _ h]

theorem modPort_without (m : List Piece) (s : State) (k : PPort) (f : PortState → PortState) (h : m.contains .ports = true) :
    (s.modPort k f).without m = s.without m := by
  simp only [State.modPort, State.without, h, if_true]

theorem modSeq_without (m : List Piece) (s : State) (k : Comb) (f : Seq → Seq) (h : m.contains .seq = true) :
    (s.modSeq k f).without m = s.without m :=
  modComb_without m s k _ fun c => by simp only [CombState.without, h, if_true]

theorem modHum_without (m : List Piece) (s : State) (k : Comb) (f : Hum → Hum) (h : m.contains .hum = true) :
    (s.modHum k f).without m = s.without m :=
  modComb_without m s k _ fun c => by simp only [CombState.without, h, if_true]

theorem modRouter_without (m : List Piece) (s : State) (k : Comb) (f : Router → Router) (h : m.contains .router = true) :
    (s.modRouter k f).without m = s.without m :=
  modComb_without m s k _ fun c => by simp only [CombState.without, h, if_true]

theorem modSPort_without (m : List Piece) (s : State) (k : Comb) (p : LPort) (f : StrandPort → StrandPort)
    (h : m.contains .router = true) : (s.modSPort k p f).without m = s.without m := modRouter_without m s k _ h

theorem modJob_without (m : List Piece) (s : State) (k : Comb) (p : JobIx) (f : JobEntry → JobEntry)
    (h : m.contains .router = true) : (s.modJob k p f).without m = s.without m := modRouter_without m s k _ h

theorem modCell_without (m : List Piece) (s : State) (k : Comb) (n : PCell) (f : CellState → CellState)
    (h : ∀ c, (f c).without m = c.without m) : (s.modCell k n f).without m = s.without m :=
  modComb_without m s k _ fun c => by simp only [CombState.without, upd_map_eq _ _ _ _ h]

theorem modHild_without (m : List Piece) (s : State) (k : Super) (f : Hild → Hild) (h : m.contains .hild = true) :
    (s.modHild k f).without m = s.without m :=
  modSuper_without m s k _ fun u => by unfold SuperState.without; rw [h]; cases m.contains .superRegs <;> rfl

theorem modRing_without (m : List Piece) (s : State) (p : Part) (r : Ring) (f : RingState → RingState)
    (h : m.contains .rings = true) : (s.modRing p r f).without m = s.without m :=
  modPart_without m s p _ fun q => by unfold PartState.without; rw [h]; cases m.contains .partRegs <;> rfl

theorem modDesc_without (m : List Piece) (s : State) (p : Part) (r : Ring) (i : Word) (f : Desc → Desc)
    (h : m.contains .rings = true) : (s.modDesc p r i f).without m = s.without m := modRing_without m s p r _ h

theorem modCtx_without (m : List Piece) (s : State) (p : Part) (f : Context → Context) (h : m.contains .ctx = true) :
    (s.modCtx p f).without m = s.without m :=
  modPart_without m s p _ fun q => by unfold PartState.without; rw [h]; cases m.contains .partRegs <;> rfl

theorem modQueen_without (m : List Piece) (s : State) (f : Queen → Queen) (h : m.contains .queen = true) :
    (s.modQueen f).without m = s.without m := by simp only [State.modQueen, State.without, h, if_true]
theorem modEvt_without (m : List Piece) (s : State) (f : EvtRegs → EvtRegs) (h : m.contains .evt = true) :
    (s.modEvt f).without m = s.without m := by simp only [State.modEvt, State.without, h, if_true]
theorem modPower_without (m : List Piece) (s : State) (f : Power → Power) (h : m.contains .power = true) :
    (s.modPower f).without m = s.without m := by simp only [State.modPower, State.without, h, if_true]
theorem modBoot_without (m : List Piece) (s : State) (f : Boot → Boot) (h : ∀ c, (f c).without m = c.without m) :
    (s.modBoot f).without m = s.without m := by simp only [State.modBoot, State.without, h]
theorem modMgmt_without (m : List Piece) (s : State) (f : Mgmt → Mgmt) (h : m.contains .mgmt = true) :
    (s.modMgmt f).without m = s.without m := by simp only [State.modMgmt, State.without, h, if_true]
theorem modMod_without (m : List Piece) (s : State) (f : ModuleRegs → ModuleRegs) (h : m.contains .mod = true) :
    (s.modMod f).without m = s.without m := by simp only [State.modMod, State.without, h, if_true]
theorem emit_without (m : List Piece) (o : Output) (s : State) (h : m.contains .out = true) :
    (emit o s).without m = s.without m := by simp only [emit, State.without, h, if_true]
theorem emitAll_without (m : List Piece) (o : List Output) (s : State) (h : m.contains .out = true) :
    (emitAll o s).without m = s.without m := by simp only [emitAll, State.without, h, if_true]
theorem host_without (m : List Piece) (h : HostPort) (s : State) (w : m.contains .host = true) :
    ({ s with host := h } : State).without m = s.without m := by simp only [State.without, w, if_true]
theorem drawn_without (m : List Piece) (s : State) (h : m.contains .draws = true) :
    (drawn s).without m = s.without m := by simp only [drawn, State.without, h, if_true]

/-! ### Fewer pieces imply more -/

/-- Whether every piece of n is one of m. -/
def sub (n m : List Piece) : Bool := n.all fun x => m.contains x

theorem sub_contains {n m : List Piece} (h : sub n m = true) (x : Piece) (hx : n.contains x = true) : m.contains x = true :=
  List.all_eq_true.mp h x (by simpa using hx)

theorem sub_trans {n m l : List Piece} (h : sub n m = true) (h' : sub m l = true) : sub n l = true :=
  List.all_eq_true.mpr fun x hx => sub_contains h' x (List.all_eq_true.mp h x hx)

theorem ite_ite_sub {α : Type} {a b : Bool} (h : a = true → b = true) (d v : α) :
    (if b = true then d else if a = true then d else v) = if b = true then d else v := by
  cases a <;> cases b <;> simp_all

/-! ### Repetition and choice -/

theorem forEach_without {α : Type} (m : List Piece) (l : List α) (f : α → State → State) (s : State)
    (h : ∀ a t, (f a t).without m = t.without m) : (forEach l f s).without m = s.without m := by
  induction l generalizing s with
  | nil => rfl
  | cons a r ih => exact (ih (f a s)).trans (h a s)

theorem doIf_without (m : List Piece) (c : Bool) (f : State → State) (s : State) (h : ∀ t, (f t).without m = t.without m) :
    (doIf c f s).without m = s.without m := by
  unfold doIf
  split
  · exact h s
  · rfl

theorem cell_without_twice {n m : List Piece} (h : sub n m = true) (c : CellState) : (c.without n).without m = c.without m := by
  simp only [CellState.without, ite_ite_sub (sub_contains h _)]
theorem comb_without_twice {n m : List Piece} (h : sub n m = true) (c : CombState) : (c.without n).without m = c.without m := by
  simp only [CombState.without, ite_ite_sub (sub_contains h _), Vector.map_map, Function.comp_def, cell_without_twice h]
theorem super_without_twice {n m : List Piece} (h : sub n m = true) (u : SuperState) : (u.without n).without m = u.without m := by
  have h1 := sub_contains h .superRegs
  simp only [SuperState.without, ite_ite_sub (sub_contains h _)]
  revert h1
  cases n.contains Piece.superRegs <;> cases m.contains Piece.superRegs <;> intro h1 <;> first | rfl | simp at h1
theorem part_without_twice {n m : List Piece} (h : sub n m = true) (u : PartState) : (u.without n).without m = u.without m := by
  have h1 := sub_contains h .partRegs
  simp only [PartState.without, ite_ite_sub (sub_contains h _)]
  revert h1
  cases n.contains Piece.partRegs <;> cases m.contains Piece.partRegs <;> intro h1 <;> first | rfl | simp at h1
theorem die_without_twice {n m : List Piece} (h : sub n m = true) (u : DieState) : (u.without n).without m = u.without m := by
  have h1 := sub_contains h .dies
  simp only [DieState.without, ite_ite_sub (sub_contains h _)]
  revert h1
  cases n.contains Piece.dies <;> cases m.contains Piece.dies <;> intro h1 <;> first | rfl | simp at h1
theorem boot_without_twice {n m : List Piece} (h : sub n m = true) (u : Boot) : (u.without n).without m = u.without m := by
  have h1 := sub_contains h .boot
  simp only [Boot.without, ite_ite_sub (sub_contains h _)]
  revert h1
  cases n.contains Piece.boot <;> cases m.contains Piece.boot <;> intro h1 <;> first | rfl | simp at h1
theorem without_twice {n m : List Piece} (h : sub n m = true) (s : State) : (s.without n).without m = s.without m := by
  simp only [State.without, ite_ite_sub (sub_contains h _), Vector.map_map, Function.comp_def, comb_without_twice h,
    super_without_twice h, part_without_twice h, die_without_twice h, boot_without_twice h]

theorem Within.mono {n m : List Piece} {s t : State} (w : Within n s t) (h : sub n m = true) : Within m s t := by
  have := congrArg (State.without m) w
  rwa [without_twice h, without_twice h] at this

theorem cell_mono {n m : List Piece} {u v : CellState} (w : u.without n = v.without n) (h : sub n m = true) : u.without m = v.without m := by
  rw [← cell_without_twice h, w, cell_without_twice h]
theorem comb_mono {n m : List Piece} {u v : CombState} (w : u.without n = v.without n) (h : sub n m = true) : u.without m = v.without m := by
  rw [← comb_without_twice h, w, comb_without_twice h]
theorem super_mono {n m : List Piece} {u v : SuperState} (w : u.without n = v.without n) (h : sub n m = true) : u.without m = v.without m := by
  rw [← super_without_twice h, w, super_without_twice h]
theorem part_mono {n m : List Piece} {u v : PartState} (w : u.without n = v.without n) (h : sub n m = true) : u.without m = v.without m := by
  rw [← part_without_twice h, w, part_without_twice h]
theorem die_mono {n m : List Piece} {u v : DieState} (w : u.without n = v.without n) (h : sub n m = true) : u.without m = v.without m := by
  rw [← die_without_twice h, w, die_without_twice h]
theorem boot_mono {n m : List Piece} {u v : Boot} (w : u.without n = v.without n) (h : sub n m = true) : u.without m = v.without m := by
  rw [← boot_without_twice h, w, boot_without_twice h]

theorem foldl_super_without {α : Type} (m : List Piece) (l : List α) (f : SuperState → α → SuperState) (u : SuperState)
    (h : ∀ u a, (f u a).without m = u.without m) : (l.foldl f u).without m = u.without m := by
  induction l generalizing u with
  | nil => rfl
  | cons a r ih => exact (ih (f u a)).trans (h u a)


theorem upd_map_eq_at {α β : Type} {n : Nat} (v : Vector α n) (i : Fin n) (f : α → α) (g : α → β) (h : g (f v[i]) = g v[i]) :
    (upd v i f).map g = v.map g := by
  apply Vector.ext
  intro j hj
  simp only [Vector.getElem_map, upd_get]
  split
  · next e => subst e; exact h
  · rfl

theorem modSuper_at_without (m : List Piece) (s : State) (k : Super) (f : SuperState → SuperState)
    (h : (f s.supers[k]).without m = s.supers[k].without m) : (s.modSuper k f).without m = s.without m := by
  simp only [State.modSuper, State.without, upd_map_eq_at _ _ _ _ h]

theorem modComb_at_without (m : List Piece) (s : State) (k : Comb) (f : CombState → CombState)
    (h : (f s.combs[k]).without m = s.combs[k].without m) : (s.modComb k f).without m = s.without m := by
  simp only [State.modComb, State.without, upd_map_eq_at _ _ _ _ h]

theorem modPart_at_without (m : List Piece) (s : State) (k : Part) (f : PartState → PartState)
    (h : (f s.parts[k]).without m = s.parts[k].without m) : (s.modPart k f).without m = s.without m := by
  simp only [State.modPart, State.without, upd_map_eq_at _ _ _ _ h]

/-- A comb whose cells are blanked whole. -/
theorem comb_cells_without {m : List Piece} {a b : CombState} (h1 : m.contains .cellMem = true) (h2 : m.contains .cellRun = true)
    (h : ({ a with cells := b.cells }).without m = b.without m) : a.without m = b.without m := by
  rw [← h]
  simp only [CombState.without]
  congr 1
  apply Vector.ext
  intro j hj
  have e : CellState.without m = fun _ => {} := funext fun c => by simp only [CellState.without, h1, h2, if_true]
  simp [e]

/-- A super, or a partition, all of whose pieces are blanked. -/
theorem super_all_without {m : List Piece} (h : sub [.superMem, .superTree, .superKeys, .superRegs, .hild] m = true)
    (u v : SuperState) : u.without m = v.without m := by
  refine super_mono (n := [.superMem, .superTree, .superKeys, .superRegs, .hild]) ?_ h
  have e : ∀ x : SuperState, x.without [.superMem, .superTree, .superKeys, .superRegs, .hild] =
    ({} : SuperState).without [.superMem, .superTree, .superKeys, .superRegs, .hild] := fun x => rfl
  rw [e u, e v]

theorem part_all_without {m : List Piece} (h : sub [.partMap, .ctx, .rings, .evq, .sems, .regions, .partRegs] m = true)
    (u v : PartState) : u.without m = v.without m := by
  refine part_mono (n := [.partMap, .ctx, .rings, .evq, .sems, .regions, .partRegs]) ?_ h
  have e : ∀ x : PartState, x.without [.partMap, .ctx, .rings, .evq, .sems, .regions, .partRegs] =
    ({} : PartState).without [.partMap, .ctx, .rings, .evq, .sems, .regions, .partRegs] := fun x => rfl
  rw [e u, e v]

theorem ite_fst_without {α : Type} {m : List Piece} {c : Prop} [Decidable c] {a b : State × α} {s : State}
    (ha : c → a.1.without m = s.without m) (hb : ¬c → b.1.without m = s.without m) :
    (if c then a else b).1.without m = s.without m := by
  by_cases h : c
  · rw [if_pos h, ha h]
  · rw [if_neg h, hb h]

/-- A comb all of whose pieces are blanked. -/
theorem comb_all_without {m : List Piece} (h : sub [.combMap, .hum, .seq, .cellMem, .cellRun, .combRegs, .combMem, .router] m = true)
    (a b : CombState) : a.without m = b.without m := by
  refine comb_mono (n := [.combMap, .hum, .seq, .cellMem, .cellRun, .combRegs, .combMem, .router]) ?_ h
  exact comb_cells_without rfl rfl rfl

/-- A function that answers a state beside another value, taken apart. -/
theorem fst_without {α : Type} {m : List Piece} {x : State × α} {t s : State} {d : α} (h : x = (t, d))
    (w : x.1.without m = s.without m) : t.without m = s.without m := by
  rw [h] at w
  exact w

theorem set_draws_without (m : List Piece) (s : State) (n : Nat) (h : m.contains .draws = true) :
    ({ s with draws := n } : State).without m = s.without m := by simp only [State.without, h, if_true]

theorem elim_without {α : Type} {m : List Piece} {o : Option α} {b s : State} {f : α → State} (hn : b.without m = s.without m)
    (hs : ∀ a, (f a).without m = s.without m) : (o.elim b f).without m = s.without m := by
  cases o with
  | none => exact hn
  | some a => exact hs a

/-! ### What a frame says of one field -/

theorem Within.out_eq {m : List Piece} {s t : State} (w : Within m s t) (h : m.contains .out = false) : t.out = s.out := by
  have := congrArg State.out w
  simpa only [State.without, h, Bool.false_eq_true, if_false] using this
theorem Within.host_eq {m : List Piece} {s t : State} (w : Within m s t) (h : m.contains .host = false) : t.host = s.host := by
  have := congrArg State.host w
  simpa only [State.without, h, Bool.false_eq_true, if_false] using this
theorem Within.draws_eq {m : List Piece} {s t : State} (w : Within m s t) (h : m.contains .draws = false) : t.draws = s.draws := by
  have := congrArg State.draws w
  simpa only [State.without, h, Bool.false_eq_true, if_false] using this
theorem Within.fns_eq {m : List Piece} {s t : State} (w : Within m s t) (h : m.contains .fns = false) : t.fns = s.fns := by
  have := congrArg State.fns w
  simpa only [State.without, h, Bool.false_eq_true, if_false] using this
theorem Within.ports_eq {m : List Piece} {s t : State} (w : Within m s t) (h : m.contains .ports = false) : t.ports = s.ports := by
  have := congrArg State.ports w
  simpa only [State.without, h, Bool.false_eq_true, if_false] using this
theorem Within.queen_eq {m : List Piece} {s t : State} (w : Within m s t) (h : m.contains .queen = false) : t.queen = s.queen := by
  have := congrArg State.queen w
  simpa only [State.without, h, Bool.false_eq_true, if_false] using this
theorem Within.power_eq {m : List Piece} {s t : State} (w : Within m s t) (h : m.contains .power = false) : t.power = s.power := by
  have := congrArg State.power w
  simpa only [State.without, h, Bool.false_eq_true, if_false] using this
theorem Within.mgmt_eq {m : List Piece} {s t : State} (w : Within m s t) (h : m.contains .mgmt = false) : t.mgmt = s.mgmt := by
  have := congrArg State.mgmt w
  simpa only [State.without, h, Bool.false_eq_true, if_false] using this
theorem Within.evt_eq {m : List Piece} {s t : State} (w : Within m s t) (h : m.contains .evt = false) : t.evt = s.evt := by
  have := congrArg State.evt w
  simpa only [State.without, h, Bool.false_eq_true, if_false] using this
theorem Within.mod_eq {m : List Piece} {s t : State} (w : Within m s t) (h : m.contains .mod = false) : t.mod = s.mod := by
  have := congrArg State.mod w
  simpa only [State.without, h, Bool.false_eq_true, if_false] using this
theorem Within.pending_eq {m : List Piece} {s t : State} (w : Within m s t) : t.pending = s.pending := by
  have := congrArg State.pending w
  exact this
theorem Within.comb {m : List Piece} {s t : State} (w : Within m s t) (k : Comb) : t.combs[k].without m = s.combs[k].without m := by
  have := congrArg (fun x => (x.combs)[k]) w
  simpa [State.without] using this
theorem Within.super {m : List Piece} {s t : State} (w : Within m s t) (k : Super) :
    t.supers[k].without m = s.supers[k].without m := by
  have := congrArg (fun x => (x.supers)[k]) w
  simpa [State.without] using this
theorem Within.part {m : List Piece} {s t : State} (w : Within m s t) (p : Part) :
    t.parts[p].without m = s.parts[p].without m := by
  have := congrArg (fun x => (x.parts)[p]) w
  simpa [State.without] using this
theorem Within.die {m : List Piece} {s t : State} (w : Within m s t) (d : Die) : t.dies[d].without m = s.dies[d].without m := by
  have := congrArg (fun x => (x.dies)[d]) w
  simpa [State.without] using this
theorem Within.cell {m : List Piece} {s t : State} (w : Within m s t) (k : Comb) (n : PCell) :
    t.combs[k].cells[n].without m = s.combs[k].cells[n].without m := by
  have := congrArg (fun x : CombState => x.cells[n]) (w.comb k)
  simpa [CombState.without] using this
theorem Within.comb_assigned {m : List Piece} {s t : State} (w : Within m s t) (k : Comb) (h : m.contains .combMap = false) :
    t.combs[k].assigned = s.combs[k].assigned := by
  have := congrArg CombState.assigned (w.comb k)
  simpa only [CombState.without, h, Bool.false_eq_true, if_false] using this
theorem Within.comb_pbase {m : List Piece} {s t : State} (w : Within m s t) (k : Comb) (h : m.contains .combMap = false) :
    t.combs[k].pbase = s.combs[k].pbase := by
  have := congrArg CombState.pbase (w.comb k)
  simpa only [CombState.without, h, Bool.false_eq_true, if_false] using this
theorem Within.comb_subst {m : List Piece} {s t : State} (w : Within m s t) (k : Comb) (h : m.contains .combMap = false) :
    t.combs[k].subst = s.combs[k].subst := by
  have := congrArg CombState.subst (w.comb k)
  simpa only [CombState.without, h, Bool.false_eq_true, if_false] using this
theorem Within.comb_hum {m : List Piece} {s t : State} (w : Within m s t) (k : Comb) (h : m.contains .hum = false) :
    t.combs[k].hum = s.combs[k].hum := by
  have := congrArg CombState.hum (w.comb k)
  simpa only [CombState.without, h, Bool.false_eq_true, if_false] using this
theorem Within.comb_seq {m : List Piece} {s t : State} (w : Within m s t) (k : Comb) (h : m.contains .seq = false) :
    t.combs[k].seq = s.combs[k].seq := by
  have := congrArg CombState.seq (w.comb k)
  simpa only [CombState.without, h, Bool.false_eq_true, if_false] using this
theorem Within.comb_cellRegs {m : List Piece} {s t : State} (w : Within m s t) (k : Comb) (h : m.contains .combRegs = false) :
    t.combs[k].cellRegs = s.combs[k].cellRegs := by
  have := congrArg CombState.cellRegs (w.comb k)
  simpa only [CombState.without, h, Bool.false_eq_true, if_false] using this
theorem Within.comb_rng {m : List Piece} {s t : State} (w : Within m s t) (k : Comb) (h : m.contains .combRegs = false) :
    t.combs[k].rng = s.combs[k].rng := by
  have := congrArg CombState.rng (w.comb k)
  simpa only [CombState.without, h, Bool.false_eq_true, if_false] using this
theorem Within.comb_clip {m : List Piece} {s t : State} (w : Within m s t) (k : Comb) (h : m.contains .combRegs = false) :
    t.combs[k].clip = s.combs[k].clip := by
  have := congrArg CombState.clip (w.comb k)
  simpa only [CombState.without, h, Bool.false_eq_true, if_false] using this
theorem Within.comb_clipSealed {m : List Piece} {s t : State} (w : Within m s t) (k : Comb) (h : m.contains .combRegs = false) :
    t.combs[k].clipSealed = s.combs[k].clipSealed := by
  have := congrArg CombState.clipSealed (w.comb k)
  simpa only [CombState.without, h, Bool.false_eq_true, if_false] using this
theorem Within.comb_store {m : List Piece} {s t : State} (w : Within m s t) (k : Comb) (h : m.contains .combMem = false) :
    t.combs[k].store = s.combs[k].store := by
  have := congrArg CombState.store (w.comb k)
  simpa only [CombState.without, h, Bool.false_eq_true, if_false] using this
theorem Within.comb_router {m : List Piece} {s t : State} (w : Within m s t) (k : Comb) (h : m.contains .router = false) :
    t.combs[k].router = s.combs[k].router := by
  have := congrArg CombState.router (w.comb k)
  simpa only [CombState.without, h, Bool.false_eq_true, if_false] using this
theorem Within.super_mem {m : List Piece} {s t : State} (w : Within m s t) (k : Super) (h : m.contains .superMem = false) :
    t.supers[k].mem = s.supers[k].mem := by
  have := congrArg SuperState.mem (w.super k)
  simpa only [SuperState.without, h, Bool.false_eq_true, if_false] using this
theorem Within.super_ctr {m : List Piece} {s t : State} (w : Within m s t) (k : Super) (h : m.contains .superTree = false) :
    t.supers[k].ctr = s.supers[k].ctr := by
  have := congrArg SuperState.ctr (w.super k)
  simpa only [SuperState.without, h, Bool.false_eq_true, if_false] using this
theorem Within.super_poison {m : List Piece} {s t : State} (w : Within m s t) (k : Super) (h : m.contains .superTree = false) :
    t.supers[k].poison = s.supers[k].poison := by
  have := congrArg SuperState.poison (w.super k)
  simpa only [SuperState.without, h, Bool.false_eq_true, if_false] using this
theorem Within.super_slots {m : List Piece} {s t : State} (w : Within m s t) (k : Super) (h : m.contains .superKeys = false) :
    t.supers[k].slots = s.supers[k].slots := by
  have := congrArg SuperState.slots (w.super k)
  simpa only [SuperState.without, h, Bool.false_eq_true, if_false] using this
theorem Within.super_hild {m : List Piece} {s t : State} (w : Within m s t) (k : Super) (h : m.contains .hild = false) :
    t.supers[k].hild = s.supers[k].hild := by
  have := congrArg SuperState.hild (w.super k)
  simpa only [SuperState.without, h, Bool.false_eq_true, if_false] using this
theorem Within.part_live {m : List Piece} {s t : State} (w : Within m s t) (p : Part) (h : m.contains .partMap = false) :
    t.parts[p].live = s.parts[p].live := by
  have := congrArg PartState.live (w.part p)
  simpa only [PartState.without, h, Bool.false_eq_true, if_false] using this
theorem Within.part_psize {m : List Piece} {s t : State} (w : Within m s t) (p : Part) (h : m.contains .partMap = false) :
    t.parts[p].psize = s.parts[p].psize := by
  have := congrArg PartState.psize (w.part p)
  simpa only [PartState.without, h, Bool.false_eq_true, if_false] using this
theorem Within.part_ctx {m : List Piece} {s t : State} (w : Within m s t) (p : Part) (h : m.contains .ctx = false) :
    t.parts[p].ctx = s.parts[p].ctx := by
  have := congrArg PartState.ctx (w.part p)
  simpa only [PartState.without, h, Bool.false_eq_true, if_false] using this
theorem Within.part_rings {m : List Piece} {s t : State} (w : Within m s t) (p : Part) (h : m.contains .rings = false) :
    t.parts[p].rings = s.parts[p].rings := by
  have := congrArg PartState.rings (w.part p)
  simpa only [PartState.without, h, Bool.false_eq_true, if_false] using this
theorem Within.part_evq {m : List Piece} {s t : State} (w : Within m s t) (p : Part) (h : m.contains .evq = false) :
    t.parts[p].evq = s.parts[p].evq := by
  have := congrArg PartState.evq (w.part p)
  simpa only [PartState.without, h, Bool.false_eq_true, if_false] using this
theorem Within.part_sems {m : List Piece} {s t : State} (w : Within m s t) (p : Part) (h : m.contains .sems = false) :
    t.parts[p].sems = s.parts[p].sems := by
  have := congrArg PartState.sems (w.part p)
  simpa only [PartState.without, h, Bool.false_eq_true, if_false] using this
theorem Within.part_rgn {m : List Piece} {s t : State} (w : Within m s t) (p : Part) (h : m.contains .regions = false) :
    t.parts[p].rgn = s.parts[p].rgn := by
  have := congrArg PartState.rgn (w.part p)
  simpa only [PartState.without, h, Bool.false_eq_true, if_false] using this
theorem Within.die_svn {m : List Piece} {s t : State} (w : Within m s t) (d : Die) (h : m.contains .fuses = false) :
    t.dies[d].svn = s.dies[d].svn := by
  have := congrArg DieState.svn (w.die d)
  simpa only [DieState.without, h, Bool.false_eq_true, if_false] using this
theorem Within.die_revoke {m : List Piece} {s t : State} (w : Within m s t) (d : Die) (h : m.contains .fuses = false) :
    t.dies[d].revoke = s.dies[d].revoke := by
  have := congrArg DieState.revoke (w.die d)
  simpa only [DieState.without, h, Bool.false_eq_true, if_false] using this
theorem Within.die_repair {m : List Piece} {s t : State} (w : Within m s t) (d : Die) (h : m.contains .fuses = false) :
    t.dies[d].repair = s.dies[d].repair := by
  have := congrArg DieState.repair (w.die d)
  simpa only [DieState.without, h, Bool.false_eq_true, if_false] using this
theorem Within.die_uv {m : List Piece} {s t : State} (w : Within m s t) (d : Die) (h : m.contains .causes = false) :
    t.dies[d].uv = s.dies[d].uv := by
  have := congrArg DieState.uv (w.die d)
  simpa only [DieState.without, h, Bool.false_eq_true, if_false] using this
theorem Within.die_overpwr {m : List Piece} {s t : State} (w : Within m s t) (d : Die) (h : m.contains .causes = false) :
    t.dies[d].overpwr = s.dies[d].overpwr := by
  have := congrArg DieState.overpwr (w.die d)
  simpa only [DieState.without, h, Bool.false_eq_true, if_false] using this
theorem Within.die_thermDie {m : List Piece} {s t : State} (w : Within m s t) (d : Die) (h : m.contains .causes = false) :
    t.dies[d].thermDie = s.dies[d].thermDie := by
  have := congrArg DieState.thermDie (w.die d)
  simpa only [DieState.without, h, Bool.false_eq_true, if_false] using this
theorem Within.die_therm4 {m : List Piece} {s t : State} (w : Within m s t) (d : Die) (h : m.contains .causes = false) :
    t.dies[d].therm4 = s.dies[d].therm4 := by
  have := congrArg DieState.therm4 (w.die d)
  simpa only [DieState.without, h, Bool.false_eq_true, if_false] using this
theorem Within.die_thermDram {m : List Piece} {s t : State} (w : Within m s t) (d : Die) (h : m.contains .causes = false) :
    t.dies[d].thermDram = s.dies[d].thermDram := by
  have := congrArg DieState.thermDram (w.die d)
  simpa only [DieState.without, h, Bool.false_eq_true, if_false] using this
theorem Within.die_temp {m : List Piece} {s t : State} (w : Within m s t) (d : Die) (h : m.contains .causes = false) :
    t.dies[d].temp = s.dies[d].temp := by
  have := congrArg DieState.temp (w.die d)
  simpa only [DieState.without, h, Bool.false_eq_true, if_false] using this
theorem Within.cell_store {m : List Piece} {s t : State} (w : Within m s t) (k : Comb) (n : PCell) (h : m.contains .cellMem = false) :
    t.combs[k].cells[n].store = s.combs[k].cells[n].store := by
  have := congrArg CellState.store (w.cell k n)
  simpa only [CellState.without, h, Bool.false_eq_true, if_false] using this
theorem Within.cell_vregs {m : List Piece} {s t : State} (w : Within m s t) (k : Comb) (n : PCell) (h : m.contains .cellMem = false) :
    t.combs[k].cells[n].vregs = s.combs[k].cells[n].vregs := by
  have := congrArg CellState.vregs (w.cell k n)
  simpa only [CellState.without, h, Bool.false_eq_true, if_false] using this
theorem Within.cell_stats {m : List Piece} {s t : State} (w : Within m s t) (k : Comb) (n : PCell) (h : m.contains .cellMem = false) :
    t.combs[k].cells[n].stats = s.combs[k].cells[n].stats := by
  have := congrArg CellState.stats (w.cell k n)
  simpa only [CellState.without, h, Bool.false_eq_true, if_false] using this
theorem Within.part_recov {m : List Piece} {s t : State} (w : Within m s t) (p : Part) (h : m.contains .partRegs = false) :
    t.parts[p].recov = s.parts[p].recov := by
  have := congrArg PartState.recov (w.part p)
  simpa only [PartState.without, h, Bool.false_eq_true, if_false] using this
theorem Within.part_stopped {m : List Piece} {s t : State} (w : Within m s t) (p : Part) (h : m.contains .partRegs = false) :
    t.parts[p].stopped = s.parts[p].stopped := by
  have := congrArg PartState.stopped (w.part p)
  simpa only [PartState.without, h, Bool.false_eq_true, if_false] using this
theorem Within.part_ckpt {m : List Piece} {s t : State} (w : Within m s t) (p : Part) (h : m.contains .partRegs = false) :
    t.parts[p].ckpt = s.parts[p].ckpt := by
  have := congrArg PartState.ckpt (w.part p)
  simpa only [PartState.without, h, Bool.false_eq_true, if_false] using this
theorem Within.part_restore {m : List Piece} {s t : State} (w : Within m s t) (p : Part) (h : m.contains .partRegs = false) :
    t.parts[p].restore = s.parts[p].restore := by
  have := congrArg PartState.restore (w.part p)
  simpa only [PartState.without, h, Bool.false_eq_true, if_false] using this
theorem Within.part_removing {m : List Piece} {s t : State} (w : Within m s t) (p : Part) (h : m.contains .partRegs = false) :
    t.parts[p].removing = s.parts[p].removing := by
  have := congrArg PartState.removing (w.part p)
  simpa only [PartState.without, h, Bool.false_eq_true, if_false] using this
theorem Within.super_ce {m : List Piece} {s t : State} (w : Within m s t) (k : Super) (h : m.contains .superRegs = false) :
    t.supers[k].ce = s.supers[k].ce := by
  have := congrArg SuperState.ce (w.super k)
  simpa only [SuperState.without, h, Bool.false_eq_true, if_false] using this
theorem Within.super_ue {m : List Piece} {s t : State} (w : Within m s t) (k : Super) (h : m.contains .superRegs = false) :
    t.supers[k].ue = s.supers[k].ue := by
  have := congrArg SuperState.ue (w.super k)
  simpa only [SuperState.without, h, Bool.false_eq_true, if_false] using this
theorem Within.super_powered {m : List Piece} {s t : State} (w : Within m s t) (k : Super) (h : m.contains .superRegs = false) :
    t.supers[k].powered = s.supers[k].powered := by
  have := congrArg SuperState.powered (w.super k)
  simpa only [SuperState.without, h, Bool.false_eq_true, if_false] using this
theorem Within.super_state {m : List Piece} {s t : State} (w : Within m s t) (k : Super) (h : m.contains .superRegs = false) :
    t.supers[k].state = s.supers[k].state := by
  have := congrArg SuperState.state (w.super k)
  simpa only [SuperState.without, h, Bool.false_eq_true, if_false] using this
theorem Within.super_resetting {m : List Piece} {s t : State} (w : Within m s t) (k : Super) (h : m.contains .superRegs = false) :
    t.supers[k].resetting = s.supers[k].resetting := by
  have := congrArg SuperState.resetting (w.super k)
  simpa only [SuperState.without, h, Bool.false_eq_true, if_false] using this
theorem Within.super_linkDead {m : List Piece} {s t : State} (w : Within m s t) (k : Super) (h : m.contains .superRegs = false) :
    t.supers[k].linkDead = s.supers[k].linkDead := by
  have := congrArg SuperState.linkDead (w.super k)
  simpa only [SuperState.without, h, Bool.false_eq_true, if_false] using this
theorem Within.boot_stage {m : List Piece} {s t : State} (w : Within m s t) (h : m.contains .boot = false) : t.boot.stage = s.boot.stage := by
  have := congrArg (fun x => x.boot.stage) w
  simpa only [State.without, Boot.without, h, Bool.false_eq_true, if_false] using this
theorem Within.boot_kind {m : List Piece} {s t : State} (w : Within m s t) (h : m.contains .boot = false) : t.boot.kind = s.boot.kind := by
  have := congrArg (fun x => x.boot.kind) w
  simpa only [State.without, Boot.without, h, Bool.false_eq_true, if_false] using this
theorem Within.boot_toRecovery {m : List Piece} {s t : State} (w : Within m s t) (h : m.contains .boot = false) : t.boot.toRecovery = s.boot.toRecovery := by
  have := congrArg (fun x => x.boot.toRecovery) w
  simpa only [State.without, Boot.without, h, Bool.false_eq_true, if_false] using this
theorem Within.boot_fail {m : List Piece} {s t : State} (w : Within m s t) (h : m.contains .boot = false) : t.boot.fail = s.boot.fail := by
  have := congrArg (fun x => x.boot.fail) w
  simpa only [State.without, Boot.without, h, Bool.false_eq_true, if_false] using this
theorem Within.boot_err {m : List Piece} {s t : State} (w : Within m s t) (h : m.contains .boot = false) : t.boot.err = s.boot.err := by
  have := congrArg (fun x => x.boot.err) w
  simpa only [State.without, Boot.without, h, Bool.false_eq_true, if_false] using this
theorem Within.boot_busy {m : List Piece} {s t : State} (w : Within m s t) (h : m.contains .boot = false) : t.boot.busy = s.boot.busy := by
  have := congrArg (fun x => x.boot.busy) w
  simpa only [State.without, Boot.without, h, Bool.false_eq_true, if_false] using this

end Sys2Proof.Machine
end

