-- ==== Sys2Proof/Laws/FramesCore.lean ====
section
/-! SUPPORT. Frames of the functions that units, resets, faults, partition memory, gates, the sequencer and the fabric share:
for each function, the pieces of the state outside of which it changes nothing. -/

namespace Sys2Proof.Machine

/-! ### Machine/Ops.lean -/

theorem issueHost_without {M : List Piece} {f : Fn} {x : HostItem} {s : State} (hM : sub [.out, .host] M = true) :
    (issueHost f x s).without M = s.without M := by
  refine Within.mono (n := [.out, .host]) ?_ hM
  unfold Within issueHost
  (try dsimp only)
  repeat' first
    | with_reducible rfl
    | intro _
    | split
    | with_reducible refine fst_without (by assumption) ?_
    | rfl

theorem hostPut_without {M : List Piece} {f : Fn} {x : HostItem} {s : State} (hM : sub [.out, .host] M = true) :
    (hostPut f x s).without M = s.without M := by
  refine Within.mono (n := [.out, .host]) ?_ hM
  unfold Within hostPut
  (try dsimp only)
  repeat' first
    | with_reducible rfl
    | intro _
    | with_reducible refine (issueHost_without (hM := by decide)).trans ?_
    | with_reducible refine ite_without (fun _ => ?_) (fun _ => ?_)
    | split
    | rfl

theorem hostPutAll_without {M : List Piece} {f : Fn} {xs : List HostItem} {s : State} (hM : sub [.out, .host] M = true) :
    (hostPutAll f xs s).without M = s.without M := by
  refine Within.mono (n := [.out, .host]) ?_ hM
  unfold Within hostPutAll
  repeat' first
    | with_reducible rfl
    | intro _
    | with_reducible refine (hostPut_without (hM := by decide)).trans ?_
    | with_reducible refine (forEach_without (h := ?_) ..).trans ?_

theorem spendDeficit_without {M : List Piece} {rd : Bool} {f : Fn} {x2 x3 : Nat} {x4 : State} (hM : sub [.out, .host] M = true) :
    (spendDeficit rd f x2 x3 x4).1.without M = x4.without M := by
  refine Within.mono (n := [.out, .host]) ?_ hM
  unfold Within
  induction x2 generalizing x3 x4 with
  | zero => rfl
  | succ n ih =>
    unfold spendDeficit
    (try dsimp only)
    repeat' first
      | with_reducible rfl
      | intro _
      | with_reducible refine (issueHost_without (hM := by decide)).trans ?_
      | with_reducible refine (ih ..).trans ?_
      | with_reducible refine ite_without (fun _ => ?_) (fun _ => ?_)
      | split
      | with_reducible refine fst_without (by assumption) ?_
      | with_reducible refine (host_without (w := by decide) ..).trans ?_

theorem arbTurn_without {M : List Piece} {rd : Bool} {s : State} (hM : sub [.out, .host] M = true) :
    (arbTurn rd s).without M = s.without M := by
  refine Within.mono (n := [.out, .host]) ?_ hM
  unfold Within arbTurn
  dsimp only
  refine (host_without _ _ _ (by decide)).trans ?_
  exact spendDeficit_without (by decide)

theorem drainTurns_without {M : List Piece} {x0 : Nat} {x1 : State} (hM : sub [.out, .host] M = true) :
    (drainTurns x0 x1).without M = x1.without M := by
  refine Within.mono (n := [.out, .host]) ?_ hM
  unfold Within
  induction x0 generalizing x1 with
  | zero => rfl
  | succ n ih =>
    unfold drainTurns
    repeat' first
      | with_reducible rfl
      | intro _
      | with_reducible refine (arbTurn_without (hM := by decide)).trans ?_
      | with_reducible refine (ih ..).trans ?_
      | with_reducible refine ite_without (fun _ => ?_) (fun _ => ?_)

theorem drainHost_without {M : List Piece} {s : State} (hM : sub [.out, .host] M = true) :
    (drainHost s).without M = s.without M := by
  refine Within.mono (n := [.out, .host]) ?_ hM
  unfold Within drainHost
  repeat' first
    | with_reducible rfl
    | intro _
    | with_reducible refine (drainTurns_without (hM := by decide)).trans ?_

theorem hostArrived_without {M : List Piece} {f : Fn} {what : HostReadKind} {s : State} (hM : sub [.out, .host] M = true) :
    (hostArrived f what s).without M = s.without M := by
  refine Within.mono (n := [.out, .host]) ?_ hM
  unfold Within hostArrived
  (try dsimp only)
  repeat' first
    | with_reducible rfl
    | intro _
    | with_reducible refine (drainHost_without (hM := by decide)).trans ?_
    | rfl

theorem hostDrop_without {M : List Piece} {f : Fn} {s : State} (hM : sub [.host] M = true) :
    (hostDrop f s).without M = s.without M := by
  refine Within.mono (n := [.host]) ?_ hM
  unfold Within hostDrop
  (try dsimp only)
  repeat' first
    | with_reducible rfl
    | intro _
    | rfl

theorem hostFetch_without {M : List Piece} {f : Fn} {rs : List (Nat × Nat)} {s : State} (hM : sub [.out] M = true) :
    (hostFetch f rs s).without M = s.without M := by
  refine Within.mono (n := [.out]) ?_ hM
  unfold Within hostFetch
  (try dsimp only)
  repeat' first
    | with_reducible rfl
    | intro _
    | with_reducible refine (emitAll_without (h := by decide) ..).trans ?_

theorem eventToPart_without {M : List Piece} {p : Part} {type cause : Byte} {comb : Comb} {detail : BitVec 56} {s : State} (hM : sub [.out, .host, .evq] M = true) :
    (eventToPart p type cause comb detail s).without M = s.without M := by
  refine Within.mono (n := [.out, .host, .evq]) ?_ hM
  unfold Within eventToPart
  repeat' first
    | with_reducible rfl
    | intro _
    | with_reducible refine (modPart_without (h := ?_) ..).trans ?_
    | with_reducible refine (hostPutAll_without (hM := by decide)).trans ?_
    | rfl

theorem eventToPf0_without {M : List Piece} {type cause : Byte} {comb : Comb} {detail : BitVec 56} {s : State} (hM : sub [.out, .host, .mod] M = true) :
    (eventToPf0 type cause comb detail s).without M = s.without M := by
  refine Within.mono (n := [.out, .host, .mod]) ?_ hM
  unfold Within eventToPf0
  repeat' first
    | with_reducible rfl
    | intro _
    | with_reducible refine (modMod_without (h := by decide) ..).trans ?_
    | with_reducible refine (hostPutAll_without (hM := by decide)).trans ?_

theorem platEvent_without {M : List Piece} {kind cause : Byte} {detail : BitVec 56} {s : State} (hM : sub [.mgmt] M = true) :
    (platEvent kind cause detail s).without M = s.without M := by
  refine Within.mono (n := [.mgmt]) ?_ hM
  unfold Within platEvent
  repeat' first
    | with_reducible rfl
    | intro _
    | with_reducible refine (modMgmt_without (h := by decide) ..).trans ?_

theorem postEvent_without {M : List Piece} {p : Part} {type cause : Byte} {comb : Comb} {detail : BitVec 56} {s : State} (hM : sub [.out, .host, .evq, .mod] M = true) :
    (postEvent p type cause comb detail s).without M = s.without M := by
  refine Within.mono (n := [.out, .host, .evq, .mod]) ?_ hM
  unfold Within postEvent
  repeat' first
    | with_reducible rfl
    | intro _
    | with_reducible refine (eventToPart_without (hM := by decide)).trans ?_
    | with_reducible refine (eventToPf0_without (hM := by decide)).trans ?_

theorem unitResetDone_without {M : List Piece} {dom : BitVec 4} {k : Comb} {s : State} (hM : sub [.out, .host, .evt, .mod] M = true) :
    (unitResetDone dom k s).without M = s.without M := by
  refine Within.mono (n := [.out, .host, .evt, .mod]) ?_ hM
  unfold Within unitResetDone
  repeat' first
    | with_reducible rfl
    | intro _
    | with_reducible refine (modEvt_without (h := by decide) ..).trans ?_
    | with_reducible refine (eventToPf0_without (hM := by decide)).trans ?_

theorem finish_without {M : List Piece} {p : Part} {r : Ring} {idx : Word} {st : Byte} {detail : Word} {detail2 : BitVec 56} {comb : Comb} {s : State} (hM : sub [.rings] M = true) :
    (finish p r idx st detail detail2 comb s).without M = s.without M := by
  refine Within.mono (n := [.rings]) ?_ hM
  unfold Within finish
  repeat' first
    | with_reducible rfl
    | intro _
    | with_reducible refine (modDesc_without (h := by decide) ..).trans ?_

theorem semPut_without {M : List Piece} {p : Part} {i : Nat} {v : DWord} {s : State} (hM : sub [.sems] M = true) :
    (semPut p i v s).without M = s.without M := by
  refine Within.mono (n := [.sems]) ?_ hM
  unfold Within semPut
  repeat' first
    | with_reducible rfl
    | intro _
    | with_reducible refine (modPart_without (h := ?_) ..).trans ?_
    | rfl

theorem semWrite_without {M : List Piece} {p : Part} {sem : Nat} {v : DWord} {s : State} (hM : sub [.seq, .rings, .sems] M = true) :
    (semWrite p sem v s).without M = s.without M := by
  refine Within.mono (n := [.seq, .rings, .sems]) ?_ hM
  unfold Within semWrite
  (try dsimp only)
  repeat' first
    | with_reducible rfl
    | intro _
    | with_reducible refine (modPart_without (h := ?_) ..).trans ?_
    | with_reducible refine (modSeq_without (h := by decide) ..).trans ?_
    | with_reducible refine (semPut_without (hM := by decide)).trans ?_
    | with_reducible refine (forEach_without (h := ?_) ..).trans ?_
    | rfl

theorem writeRecord_without {M : List Piece} {p : Part} {r : Ring} {d : Desc} {s : State} (hM : sub [.out, .host, .seq, .rings, .sems] M = true) :
    (writeRecord p r d s).without M = s.without M := by
  refine Within.mono (n := [.out, .host, .seq, .rings, .sems]) ?_ hM
  unfold Within writeRecord
  (try dsimp only)
  repeat' first
    | with_reducible rfl
    | intro _
    | with_reducible refine (modRing_without (h := by decide) ..).trans ?_
    | with_reducible refine (hostPut_without (hM := by decide)).trans ?_
    | with_reducible refine (semWrite_without (hM := by decide)).trans ?_
    | with_reducible refine ite_without (fun _ => ?_) (fun _ => ?_)

theorem stopRings_without {M : List Piece} {p : Part} {rs : List Ring} {st : Byte} {detail : Word} {detail2 : BitVec 56} {dom : BitVec 4} {s : State} (hM : sub [.rings] M = true) :
    (stopRings p rs st detail detail2 dom s).without M = s.without M := by
  refine Within.mono (n := [.rings]) ?_ hM
  unfold Within stopRings
  repeat' first
    | with_reducible rfl
    | intro _
    | with_reducible refine (modRing_without (h := by decide) ..).trans ?_
    | with_reducible refine (forEach_without (h := ?_) ..).trans ?_

theorem flushRing_without {M : List Piece} {p : Part} {r : Ring} {s : State} (hM : sub [.out, .host, .seq, .rings, .sems] M = true) :
    (flushRing p r s).without M = s.without M := by
  refine Within.mono (n := [.out, .host, .seq, .rings, .sems]) ?_ hM
  unfold Within flushRing
  repeat' first
    | with_reducible rfl
    | intro _
    | with_reducible refine (writeRecord_without (hM := by decide)).trans ?_
    | with_reducible refine (forEach_without (h := ?_) ..).trans ?_

theorem flushRings_without {M : List Piece} {p : Part} {s : State} (hM : sub [.out, .host, .seq, .rings, .sems] M = true) :
    (flushRings p s).without M = s.without M := by
  refine Within.mono (n := [.out, .host, .seq, .rings, .sems]) ?_ hM
  unfold Within flushRings
  repeat' first
    | with_reducible rfl
    | intro _
    | with_reducible refine (flushRing_without (hM := by decide)).trans ?_
    | with_reducible refine (forEach_without (h := ?_) ..).trans ?_

/-! ### Machine/Map.lean -/

theorem writeBack_without {M : List Piece} {n : Nat} {u : SuperState} (hM : sub [.superTree, .superRegs] M = true) :
    (writeBack n u).1.without M = u.without M := by
  refine super_mono (n := [.superTree, .superRegs]) ?_ hM
  unfold writeBack
  (try dsimp only)
  repeat' first
    | with_reducible rfl
    | intro _
    | with_reducible refine ite_without (fun _ => ?_) (fun _ => ?_)
    | split
    | with_reducible refine fst_without (by assumption) ?_
    | rfl

theorem touchNode_without {M : List Piece} {x0 x1 : Nat} {x2 : Bool} {x3 : SuperState} (hM : sub [.superTree, .superRegs] M = true) :
    (touchNode x0 x1 x2 x3).1.without M = x3.without M := by
  refine super_mono (n := [.superTree, .superRegs]) ?_ hM
  induction x0 generalizing x1 x2 x3 with
  | zero => rfl
  | succ f ih =>
    unfold touchNode
    split
    · rfl
    · split
      · rfl
      · have h1 := ih (x1 := nodeParent x1) (x2 := false) (x3 := { x3 with misses := x3.misses + 1 })
        generalize touchNode f (nodeParent x1) false { x3 with misses := x3.misses + 1 } = r at h1
        dsimp only
        have h2 : (({ r.1 with cache := (x1, x2) :: r.1.cache } : SuperState)).without [.superTree, .superRegs]
            = x3.without [.superTree, .superRegs] := h1
        split
        · exact h1
        · exact h1
        · next w _ =>
          have h3 := (writeBack_without (M := [.superTree, .superRegs]) (n := w) (u := { r.1 with cache := (x1, x2) :: r.1.cache }) rfl).trans h2
          generalize writeBack w { r.1 with cache := (x1, x2) :: r.1.cache } = y at h3
          split
          · exact h3
          · exact (ih ..).trans h3

theorem touchCtr_without {M : List Piece} {off : Nat} {d : Bool} {u : SuperState} (hM : sub [.superTree, .superRegs] M = true) :
    (touchCtr off d u).1.without M = u.without M := by
  refine super_mono (n := [.superTree, .superRegs]) ?_ hM
  unfold touchCtr
  repeat' first
    | with_reducible rfl
    | intro _
    | with_reducible refine (touchNode_without (hM := by decide)).trans ?_

theorem flushLevel_without {M : List Piece} {lvl : Nat} {u : SuperState} (hM : sub [.superTree, .superRegs] M = true) :
    (flushLevel lvl u).without M = u.without M := by
  refine super_mono (n := [.superTree, .superRegs]) ?_ hM
  unfold flushLevel
  refine foldl_super_without _ _ _ _ fun u e => ?_
  have h := writeBack_without (M := [.superTree, .superRegs]) (n := e.1) (u := u) rfl
  generalize writeBack e.1 u = r at h
  obtain ⟨v, x⟩ := r
  simp only at h ⊢
  by_cases hx : (x.any (·.2)) = true
  · rw [if_pos hx]
    exact h
  · rw [if_neg hx]
    exact h

theorem flushTree_without {M : List Piece} {u : SuperState} (hM : sub [.superTree, .superRegs] M = true) :
    (flushTree u).without M = u.without M := by
  unfold flushTree
  exact foldl_super_without _ _ _ _ fun u i => flushLevel_without hM

theorem formatTree_without {M : List Piece} {u : SuperState} (hM : sub [.superMem, .superTree] M = true) :
    (formatTree u).without M = u.without M := by
  refine super_mono (n := [.superMem, .superTree]) ?_ hM
  unfold formatTree
  repeat' first
    | with_reducible rfl
    | intro _
    | rfl

theorem combWrite_without {M : List Piece} {k : Comb} {a : Nat} {data : Bytes} {s : State} (hM : sub [.combMem] M = true) :
    (combWrite k a data s).without M = s.without M := by
  refine Within.mono (n := [.combMem]) ?_ hM
  unfold Within combWrite
  repeat' first
    | with_reducible rfl
    | intro _
    | with_reducible refine (modComb_without (h := ?_) ..).trans ?_
    | rfl

theorem cellWrite_without {M : List Piece} {k : Comb} {n : Cell} {a : Nat} {data : Bytes} {s : State} (hM : sub [.cellMem] M = true) :
    (cellWrite k n a data s).without M = s.without M := by
  refine Within.mono (n := [.cellMem]) ?_ hM
  unfold Within cellWrite
  (try dsimp only)
  repeat' first
    | with_reducible rfl
    | intro _
    | with_reducible refine (modCell_without (h := ?_) ..).trans ?_
    | rfl

/-! ### Machine/Dram.lean -/

theorem clearFlips_without {M : List Piece} {l lo hi : Nat} {u : SuperState} (hM : sub [.superMem] M = true) :
    (clearFlips l lo hi u).without M = u.without M := by
  refine super_mono (n := [.superMem]) ?_ hM
  unfold clearFlips
  (try dsimp only)
  repeat' first
    | with_reducible rfl
    | intro _
    | rfl

theorem settleLine_without {M : List Piece} {l : Nat} {u : SuperState} (hM : sub [.superMem] M = true) :
    (settleLine l u).without M = u.without M := by
  refine super_mono (n := [.superMem]) ?_ hM
  unfold settleLine
  repeat' first
    | with_reducible rfl
    | intro _
    | rfl

theorem settleTag_without {M : List Piece} {k : Super} {l : Nat} {u : SuperState} (hM : sub [.superMem] M = true) :
    (settleTag k l u).without M = u.without M := by
  refine super_mono (n := [.superMem]) ?_ hM
  unfold settleTag
  repeat' first
    | with_reducible rfl
    | intro _
    | with_reducible refine (clearFlips_without (hM := by decide)).trans ?_
    | with_reducible refine ite_without (fun _ => ?_) (fun _ => ?_)
    | split

theorem applyFlips_without {M : List Piece} {k : Super} {fs : Flips} {s : State} (hM : sub [.superMem] M = true) :
    (applyFlips k fs s).without M = s.without M := by
  refine Within.mono (n := [.superMem]) ?_ hM
  refine modSuper_without _ s k _ fun u => ?_
  exact foldl_super_without _ _ _ _ fun u f => rfl

/-! ### Machine/Repair.lean -/

theorem recordRepair_without {M : List Piece} {d : Die} {type loc : Nat} {s : State} (hM : sub [.out, .host, .fuses, .queen, .mod] M = true) :
    (recordRepair d type loc s).without M = s.without M := by
  refine Within.mono (n := [.out, .host, .fuses, .queen, .mod]) ?_ hM
  unfold Within recordRepair
  repeat' first
    | with_reducible rfl
    | intro _
    | with_reducible refine (modQueen_without (h := by decide) ..).trans ?_
    | with_reducible refine (modDie_without (h := ?_) ..).trans ?_
    | with_reducible refine (eventToPf0_without (hM := by decide)).trans ?_
    | with_reducible refine ite_without (fun _ => ?_) (fun _ => ?_)
    | split
    | rfl

theorem ewSuper_without {M : List Piece} {k : Super} {m : Fin 7} {s : State} (hM : sub [.partRegs] M = true) :
    (ewSuper k m s).without M = s.without M := by
  refine Within.mono (n := [.partRegs]) ?_ hM
  unfold Within ewSuper
  (try dsimp only)
  repeat' first
    | with_reducible rfl
    | intro _
    | with_reducible refine (modPart_without (h := ?_) ..).trans ?_
    | split
    | rfl

theorem needRepair_without {M : List Piece} {k : Super} {row : Nat} {s : State} (hM : sub [.superRegs, .partRegs] M = true) :
    (needRepair k row s).without M = s.without M := by
  refine Within.mono (n := [.superRegs, .partRegs]) ?_ hM
  unfold Within needRepair
  (try dsimp only)
  repeat' first
    | with_reducible rfl
    | intro _
    | with_reducible refine (modSuper_without (h := ?_) ..).trans ?_
    | with_reducible refine (ewSuper_without (hM := by decide)).trans ?_
    | with_reducible refine ite_without (fun _ => ?_) (fun _ => ?_)
    | split
    | rfl

theorem poisonLine_without {M : List Piece} {k : Super} {l : Nat} {s : State} (hM : sub [.superMem, .superTree, .superRegs, .partRegs] M = true) :
    (poisonLine k l s).without M = s.without M := by
  refine Within.mono (n := [.superMem, .superTree, .superRegs, .partRegs]) ?_ hM
  unfold Within poisonLine
  repeat' first
    | with_reducible rfl
    | intro _
    | with_reducible refine (modSuper_without (h := ?_) ..).trans ?_
    | with_reducible refine (settleLine_without (hM := by decide)).trans ?_
    | with_reducible refine (settleTag_without (hM := by decide)).trans ?_
    | with_reducible refine (needRepair_without (hM := by decide)).trans ?_
    | with_reducible refine ite_without (fun _ => ?_) (fun _ => ?_)
    | split
    | rfl

theorem lineCorrected_without {M : List Piece} {k : Super} {l : Nat} {s : State} (hM : sub [.superRegs, .partRegs] M = true) :
    (lineCorrected k l s).without M = s.without M := by
  refine Within.mono (n := [.superRegs, .partRegs]) ?_ hM
  unfold Within lineCorrected
  (try dsimp only)
  repeat' first
    | with_reducible rfl
    | intro _
    | with_reducible refine (modSuper_without (h := ?_) ..).trans ?_
    | with_reducible refine (ewSuper_without (hM := by decide)).trans ?_
    | with_reducible refine (needRepair_without (hM := by decide)).trans ?_
    | with_reducible refine ite_without (fun _ => ?_) (fun _ => ?_)
    | split
    | rfl

theorem lineUncorrectable_without {M : List Piece} {k : Super} {l : Nat} {src : BitVec 3} {s : State} (hM : sub [.superMem, .superTree, .superRegs, .partRegs] M = true) :
    (lineUncorrectable k l src s).without M = s.without M := by
  refine Within.mono (n := [.superMem, .superTree, .superRegs, .partRegs]) ?_ hM
  unfold Within lineUncorrectable
  repeat' first
    | with_reducible rfl
    | intro _
    | with_reducible refine (modSuper_without (h := ?_) ..).trans ?_
    | with_reducible refine (poisonLine_without (hM := by decide)).trans ?_
    | rfl

theorem copyLine_without {M : List Piece} {k : Super} {l : Nat} {s : State} (hM : sub [.superMem, .superTree, .superRegs, .partRegs] M = true) :
    (copyLine k l s).without M = s.without M := by
  refine Within.mono (n := [.superMem, .superTree, .superRegs, .partRegs]) ?_ hM
  unfold Within copyLine
  repeat' first
    | with_reducible rfl
    | intro _
    | with_reducible refine (modSuper_without (h := ?_) ..).trans ?_
    | with_reducible refine (lineUncorrectable_without (hM := by decide)).trans ?_
    | with_reducible refine ite_without (fun _ => ?_) (fun _ => ?_)
    | split
    | rfl

theorem effRepaired_without {M : List Piece} {k : Super} {s : State} (hM : sub [.out, .host, .superMem, .superTree, .superRegs, .partRegs, .fuses, .queen, .mod] M = true) :
    (effRepaired k s).without M = s.without M := by
  refine Within.mono (n := [.out, .host, .superMem, .superTree, .superRegs, .partRegs, .fuses, .queen, .mod]) ?_ hM
  unfold Within effRepaired
  (try dsimp only)
  repeat' first
    | with_reducible rfl
    | intro _
    | with_reducible refine (modSuper_without (h := ?_) ..).trans ?_
    | with_reducible refine (recordRepair_without (hM := by decide)).trans ?_
    | with_reducible refine (ewSuper_without (hM := by decide)).trans ?_
    | with_reducible refine (copyLine_without (hM := by decide)).trans ?_
    | with_reducible refine (forEach_without (h := ?_) ..).trans ?_
    | split
    | rfl

theorem nextRepair_without {M : List Piece} {k : Super} {s : State} (hM : sub [.superRegs, .partRegs] M = true) :
    (nextRepair k s).without M = s.without M := by
  refine Within.mono (n := [.superRegs, .partRegs]) ?_ hM
  unfold Within nextRepair
  (try dsimp only)
  repeat' first
    | with_reducible rfl
    | intro _
    | with_reducible refine (modSuper_without (h := ?_) ..).trans ?_
    | with_reducible refine (needRepair_without (hM := by decide)).trans ?_
    | with_reducible refine (forEach_without (h := ?_) ..).trans ?_
    | rfl

/-! ### Machine/Gens.lean -/

theorem takeDraws_without {M : List Piece} {x : At} {e : Engine} {ls : List (Nat × Nat)} {s : State} (hM : sub [.combRegs] M = true) :
    (takeDraws x e ls s).without M = s.without M := by
  refine Within.mono (n := [.combRegs]) ?_ hM
  unfold Within takeDraws
  repeat' first
    | with_reducible rfl
    | intro _
    | with_reducible refine (modComb_without (h := ?_) ..).trans ?_
    | with_reducible refine ite_without (fun _ => ?_) (fun _ => ?_)
    | split
    | rfl

/-! ### Machine/Resets.lean -/

theorem powerComb_without {M : List Piece} {test : Bool} {h : Hum} {c : CombState} (hM : sub [.combMap, .hum, .combRegs, .router] M = true) :
    (powerComb test h c).without M = c.without M := by
  refine comb_mono (n := [.combMap, .hum, .combRegs, .router]) ?_ hM
  unfold powerComb
  (try dsimp only)
  repeat' first
    | with_reducible rfl
    | intro _
    | with_reducible refine ite_without (fun _ => ?_) (fun _ => ?_)
    | split
    | rfl

theorem keySuperLink_without {M : List Piece} {k : Super} {s : State} (hM : sub [.draws, .superRegs] M = true) :
    (keySuperLink k s).without M = s.without M := by
  refine Within.mono (n := [.draws, .superRegs]) ?_ hM
  unfold Within keySuperLink
  repeat' first
    | with_reducible rfl
    | intro _
    | with_reducible refine (drawn_without (h := by decide) ..).trans ?_
    | with_reducible refine (modSuper_without (h := ?_) ..).trans ?_
    | rfl

theorem keyBridge_without {M : List Piece} {g : Fin 6} {s : State} (hM : sub [.draws, .mod] M = true) :
    (keyBridge g s).without M = s.without M := by
  refine Within.mono (n := [.draws, .mod]) ?_ hM
  unfold Within keyBridge
  repeat' first
    | with_reducible rfl
    | intro _
    | with_reducible refine (drawn_without (h := by decide) ..).trans ?_
    | with_reducible refine (modMod_without (h := by decide) ..).trans ?_

theorem wakeSuper_without {M : List Piece} {k : Super} {s : State} (hM : sub [.draws, .superMem, .superTree, .superKeys, .superRegs] M = true) :
    (wakeSuper k s).without M = s.without M := by
  refine Within.mono (n := [.draws, .superMem, .superTree, .superKeys, .superRegs]) ?_ hM
  unfold Within wakeSuper
  (try dsimp only)
  repeat' first
    | with_reducible rfl
    | intro _
    | with_reducible refine (drawn_without (h := by decide) ..).trans ?_
    | with_reducible refine (modSuper_without (h := ?_) ..).trans ?_
    | with_reducible refine (formatTree_without (hM := by decide)).trans ?_
    | with_reducible refine (keySuperLink_without (hM := by decide)).trans ?_
    | rfl

theorem powerSuper_without {M : List Piece} {k : Super} {s : State} (hM : sub [.draws, .superMem, .superTree, .superKeys, .superRegs] M = true) :
    (powerSuper k s).without M = s.without M := by
  refine Within.mono (n := [.draws, .superMem, .superTree, .superKeys, .superRegs]) ?_ hM
  unfold Within powerSuper
  dsimp only
  refine ite_without (fun _ => wakeSuper_without (by decide)) (fun _ => ite_without (fun _ => ?_) (fun _ => rfl))
  refine modSuper_without _ _ _ _ fun u => ?_
  have hf := flushTree_without (M := [.draws, .superMem, .superTree, .superKeys, .superRegs]) (u := u) rfl
  revert hf
  generalize flushTree u = v
  exact fun hf => hf

theorem powerAll_without {M : List Piece} {s : State} (hM : sub [.draws, .combMap, .hum, .combRegs, .router, .superMem, .superTree, .superKeys, .superRegs] M = true) :
    (powerAll s).without M = s.without M := by
  refine Within.mono (n := [.draws, .combMap, .hum, .combRegs, .router, .superMem, .superTree, .superKeys, .superRegs]) ?_ hM
  refine forEach_without _ _ _ _ fun k t => ?_
  exact (powerSuper_without (by decide)).trans (modComb_without _ _ _ _ fun c => powerComb_without (by decide))

theorem zeroStores_without {M : List Piece} {c : CombState} (hM : sub [.cellMem, .cellRun, .combMem] M = true) :
    (zeroStores c).without M = c.without M := by
  refine comb_mono (n := [.cellMem, .cellRun, .combMem]) ?_ hM
  exact comb_cells_without rfl rfl rfl

theorem resetCombState_without {M : List Piece} {c : CombState} (hM : sub [.seq, .cellMem, .cellRun, .combRegs, .combMem] M = true) :
    (resetCombState c).without M = c.without M := by
  refine comb_mono (n := [.seq, .cellMem, .cellRun, .combRegs, .combMem]) ?_ hM
  exact comb_cells_without rfl rfl rfl

theorem skipReseed_without {M : List Piece} {k : Comb} {s : State} (hM : sub [.out, .host, .combRegs, .evq, .mod] M = true) :
    (skipReseed k s).without M = s.without M := by
  refine Within.mono (n := [.out, .host, .combRegs, .evq, .mod]) ?_ hM
  unfold Within skipReseed
  (try dsimp only)
  repeat' first
    | with_reducible rfl
    | intro _
    | with_reducible refine (modComb_without (h := ?_) ..).trans ?_
    | with_reducible refine (eventToPf0_without (hM := by decide)).trans ?_
    | with_reducible refine (postEvent_without (hM := by decide)).trans ?_
    | split
    | rfl

theorem takeSeed_without {M : List Piece} {k : Comb} {s : State} (hM : sub [.draws, .combRegs] M = true) :
    (takeSeed k s).without M = s.without M := by
  refine Within.mono (n := [.draws, .combRegs]) ?_ hM
  unfold Within takeSeed
  (try dsimp only)
  repeat' first
    | with_reducible rfl
    | intro _
    | with_reducible refine (drawn_without (h := by decide) ..).trans ?_
    | with_reducible refine (modComb_without (h := ?_) ..).trans ?_
    | rfl

theorem reseed_without {M : List Piece} {k : Comb} {step : Option DWord} {s : State} (hM : sub [.out, .host, .draws, .combRegs, .evq, .mod] M = true) :
    (reseed k step s).without M = s.without M := by
  refine Within.mono (n := [.out, .host, .draws, .combRegs, .evq, .mod]) ?_ hM
  unfold Within reseed
  (try dsimp only)
  repeat' first
    | with_reducible rfl
    | intro _
    | with_reducible refine (modComb_without (h := ?_) ..).trans ?_
    | with_reducible refine (skipReseed_without (hM := by decide)).trans ?_
    | with_reducible refine (takeSeed_without (hM := by decide)).trans ?_
    | with_reducible refine ite_without (fun _ => ?_) (fun _ => ?_)
    | split
    | rfl

theorem resetCombDomain_without {M : List Piece} {k : Comb} {s : State} (hM : sub [.out, .host, .draws, .seq, .cellMem, .cellRun, .combRegs, .combMem, .evq, .mod] M = true) :
    (resetCombDomain k s).without M = s.without M := by
  refine Within.mono (n := [.out, .host, .draws, .seq, .cellMem, .cellRun, .combRegs, .combMem, .evq, .mod]) ?_ hM
  unfold Within resetCombDomain
  repeat' first
    | with_reducible rfl
    | intro _
    | with_reducible refine (modComb_without (h := ?_) ..).trans ?_
    | with_reducible refine (resetCombState_without (hM := by decide)).trans ?_
    | with_reducible refine (reseed_without (hM := by decide)).trans ?_

theorem resetSuperState_without {M : List Piece} {u : SuperState} (hM : sub [.superTree, .superRegs, .hild] M = true) :
    (resetSuperState u).without M = u.without M := by
  refine super_mono (n := [.superTree, .superRegs, .hild]) ?_ hM
  have hf := flushTree_without (M := [.superTree, .superRegs, .hild]) (u := u) rfl
  revert hf
  unfold resetSuperState
  generalize flushTree u = v
  exact fun hf => hf

theorem zeroiseSlot_without {M : List Piece} {k : Super} {id : KeyId} {s : State} (hM : sub [.superKeys] M = true) :
    (zeroiseSlot k id s).without M = s.without M := by
  refine Within.mono (n := [.superKeys]) ?_ hM
  unfold Within zeroiseSlot
  (try dsimp only)
  repeat' first
    | with_reducible rfl
    | intro _
    | with_reducible refine (modSuper_without (h := ?_) ..).trans ?_
    | with_reducible refine ite_without (fun _ => ?_) (fun _ => ?_)
    | split
    | rfl

theorem zeroiseAll_without {M : List Piece} {s : State} (hM : sub [.superKeys] M = true) :
    (zeroiseAll s).without M = s.without M := by
  refine Within.mono (n := [.superKeys]) ?_ hM
  unfold Within zeroiseAll
  repeat' first
    | with_reducible rfl
    | intro _
    | with_reducible refine (zeroiseSlot_without (hM := by decide)).trans ?_
    | with_reducible refine (forEach_without (h := ?_) ..).trans ?_

theorem flushSlots_without {M : List Piece} {k : Super} {s : State} (hM : sub [.superKeys] M = true) :
    (flushSlots k s).without M = s.without M := by
  refine Within.mono (n := [.superKeys]) ?_ hM
  unfold Within flushSlots
  repeat' first
    | with_reducible rfl
    | intro _
    | with_reducible refine (zeroiseSlot_without (hM := by decide)).trans ?_
    | with_reducible refine (forEach_without (h := ?_) ..).trans ?_

theorem abortWaiting_without {M : List Piece} {k : Super} {s : State} (hM : sub [.out, .superRegs] M = true) :
    (abortWaiting k s).without M = s.without M := by
  refine Within.mono (n := [.out, .superRegs]) ?_ hM
  unfold Within abortWaiting
  (try dsimp only)
  repeat' first
    | with_reducible rfl
    | intro _
    | with_reducible refine (emitAll_without (h := by decide) ..).trans ?_
    | with_reducible refine (modSuper_without (h := ?_) ..).trans ?_
    | rfl

theorem quietSuper_without {M : List Piece} {k : Super} {s : State} (hM : sub [.out, .host, .superMem, .superTree, .superKeys, .superRegs, .partRegs, .fuses, .queen, .mod] M = true) :
    (quietSuper k s).without M = s.without M := by
  refine Within.mono (n := [.out, .host, .superMem, .superTree, .superKeys, .superRegs, .partRegs, .fuses, .queen, .mod]) ?_ hM
  unfold Within quietSuper
  repeat' first
    | with_reducible rfl
    | intro _
    | with_reducible refine (effRepaired_without (hM := by decide)).trans ?_
    | with_reducible refine (flushSlots_without (hM := by decide)).trans ?_

theorem resetSuperDomain_without {M : List Piece} {k : Super} {s : State} (hM : sub [.out, .host, .superMem, .superTree, .superKeys, .superRegs, .hild, .partRegs, .fuses, .queen, .mod] M = true) :
    (resetSuperDomain k s).without M = s.without M := by
  refine Within.mono (n := [.out, .host, .superMem, .superTree, .superKeys, .superRegs, .hild, .partRegs, .fuses, .queen, .mod]) ?_ hM
  unfold Within resetSuperDomain
  repeat' first
    | with_reducible rfl
    | intro _
    | with_reducible refine (modSuper_without (h := ?_) ..).trans ?_
    | with_reducible refine (resetSuperState_without (hM := by decide)).trans ?_
    | with_reducible refine (abortWaiting_without (hM := by decide)).trans ?_
    | with_reducible refine (quietSuper_without (hM := by decide)).trans ?_
    | with_reducible refine ite_without (fun _ => ?_) (fun _ => ?_)

theorem dropContext_without {M : List Piece} {p : Part} {s : State} (hM : sub [.router, .ctx] M = true) :
    (dropContext p s).without M = s.without M := by
  refine Within.mono (n := [.router, .ctx]) ?_ hM
  unfold Within dropContext
  repeat' first
    | with_reducible rfl
    | intro _
    | with_reducible refine (modJob_without (h := by decide) ..).trans ?_
    | with_reducible refine (modCtx_without (h := by decide) ..).trans ?_
    | with_reducible refine (forEach_without (h := ?_) ..).trans ?_
    | with_reducible refine ite_without (fun _ => ?_) (fun _ => ?_)

theorem moduleComb_without {M : List Piece} {cold : Bool} {c : CombState} (hM : sub [.combMap, .hum, .seq, .cellMem, .cellRun, .combRegs, .combMem, .router] M = true) :
    (moduleComb cold c).without M = c.without M := by
  refine comb_mono (n := [.combMap, .hum, .seq, .cellMem, .cellRun, .combRegs, .combMem, .router]) ?_ hM
  unfold moduleComb
  dsimp only
  split <;> exact comb_cells_without rfl rfl rfl

theorem warmPart_without {M : List Piece} {q : PartState} (hM : sub [.rings, .evq, .sems, .regions, .partRegs] M = true) :
    (warmPart q).without M = q.without M := by
  refine part_mono (n := [.rings, .evq, .sems, .regions, .partRegs]) ?_ hM
  unfold warmPart
  repeat' first
    | with_reducible rfl
    | intro _
    | rfl

theorem moduleDie_without {M : List Piece} {d : DieState} (hM : sub [.dies] M = true) :
    (moduleDie d).without M = d.without M := by
  refine die_mono (n := [.dies]) ?_ hM
  unfold moduleDie
  repeat' first
    | with_reducible rfl
    | intro _
    | rfl

theorem moduleReset_without {M : List Piece} {cold : Bool} {s : State} (hM : sub faultPieces M = true) :
    (moduleReset cold s).without M = s.without M := by
  refine Within.mono (n := faultPieces) ?_ hM
  unfold Within moduleReset
  dsimp only
  refine (forEach_without _ _ _ _ fun k t => reseed_without (by decide)).trans ?_
  refine (powerAll_without rfl).trans ?_
  have hz : (forEach (fins 8) quietSuper (if cold = true then zeroiseAll s else s)).without faultPieces = s.without faultPieces := by
    refine (forEach_without _ _ _ _ fun k t => quietSuper_without (by decide)).trans ?_
    exact ite_without (fun _ => zeroiseAll_without rfl) (fun _ => rfl)
  refine Eq.trans ?_ hz
  generalize forEach (fins 8) quietSuper (if cold = true then zeroiseAll s else s) = t
  simp only [State.without]
  congr 1
  · exact map_map_eq _ _ _ fun c => moduleComb_without rfl
  · exact map_map_eq _ _ _ fun c => super_all_without rfl _ _
  · exact map_map_eq _ _ _ fun c => part_all_without rfl _ _
  · exact map_map_eq _ _ _ fun c => rfl

theorem logFirst_without {M : List Piece} {cause : Byte} {unit : Word} {s : State} (hM : sub [.evt] M = true) :
    (logFirst cause unit s).without M = s.without M := by
  refine Within.mono (n := [.evt]) ?_ hM
  unfold Within logFirst
  repeat' first
    | with_reducible rfl
    | intro _
    | with_reducible refine (modEvt_without (h := by decide) ..).trans ?_

theorem logSecond_without {M : List Piece} {cause : Byte} {unit : Word} {s : State} (hM : sub [.evt] M = true) :
    (logSecond cause unit s).without M = s.without M := by
  refine Within.mono (n := [.evt]) ?_ hM
  unfold Within logSecond
  repeat' first
    | with_reducible rfl
    | intro _
    | with_reducible refine (modEvt_without (h := by decide) ..).trans ?_

theorem holdModule_without {M : List Piece} {s : State} (hM : sub [.combMap, .superTree, .superRegs, .partRegs, .ports, .mgmt, .evt] M = true) :
    (holdModule s).without M = s.without M := by
  refine Within.mono (n := [.combMap, .superTree, .superRegs, .partRegs, .ports, .mgmt, .evt]) ?_ hM
  unfold Within holdModule
  dsimp only
  refine Eq.trans ?_ (platEvent_without (M := [.combMap, .superTree, .superRegs, .partRegs, .ports, .mgmt, .evt]) (s := s) (kind := 2) (cause := 20) (detail := 2) rfl)
  generalize platEvent 2 20 2 s = t
  simp only [State.without]
  congr 1
  · exact map_map_eq _ _ _ fun c => rfl
  · refine map_map_eq _ _ _ fun u => ?_
    have hf := flushTree_without (M := [.combMap, .superTree, .superRegs, .partRegs, .ports, .mgmt, .evt]) (u := u) rfl
    revert hf
    generalize flushTree u = v
    exact fun hf => hf
  · exact map_map_eq _ _ _ fun c => rfl

/-! ### Machine/Faults.lean -/

theorem squashHeld_without {M : List Piece} {k : Comb} {f : Held → Bool} {s : State} (hM : sub [.seq, .ctx] M = true) :
    (squashHeld k f s).without M = s.without M := by
  refine Within.mono (n := [.seq, .ctx]) ?_ hM
  unfold Within squashHeld
  (try dsimp only)
  repeat' first
    | with_reducible rfl
    | intro _
    | with_reducible refine (modCtx_without (h := by decide) ..).trans ?_
    | with_reducible refine (modSeq_without (h := by decide) ..).trans ?_
    | split

theorem squashAll_without {M : List Piece} {k : Comb} {s : State} (hM : sub [.seq, .ctx] M = true) :
    (squashAll k s).without M = s.without M := by
  refine Within.mono (n := [.seq, .ctx]) ?_ hM
  unfold Within squashAll
  repeat' first
    | with_reducible rfl
    | intro _
    | with_reducible refine (squashHeld_without (hM := by decide)).trans ?_

theorem undefine_without {M : List Piece} {k : Comb} {n : PCell} {d : Dest} {s : State} (hM : sub [.draws, .cellMem, .combMem] M = true) :
    (undefine k n d s).without M = s.without M := by
  refine Within.mono (n := [.draws, .cellMem, .combMem]) ?_ hM
  unfold Within undefine
  repeat' first
    | with_reducible rfl
    | intro _
    | with_reducible refine (modCell_without (h := ?_) ..).trans ?_
    | with_reducible refine (drawn_without (h := by decide) ..).trans ?_
    | with_reducible refine (modComb_without (h := ?_) ..).trans ?_
    | split
    | rfl

theorem stopCell_without {M : List Piece} {k : Comb} {n : PCell} {s : State} (hM : sub [.draws, .cellMem, .cellRun, .combMem] M = true) :
    (stopCell k n s).without M = s.without M := by
  refine Within.mono (n := [.draws, .cellMem, .cellRun, .combMem]) ?_ hM
  unfold Within stopCell
  (try dsimp only)
  repeat' first
    | with_reducible rfl
    | intro _
    | with_reducible refine (modCell_without (h := ?_) ..).trans ?_
    | with_reducible refine (undefine_without (hM := by decide)).trans ?_
    | with_reducible refine (forEach_without (h := ?_) ..).trans ?_
    | rfl

theorem stopCells_without {M : List Piece} {k : Comb} {s : State} (hM : sub [.draws, .cellMem, .cellRun, .combMem] M = true) :
    (stopCells k s).without M = s.without M := by
  refine Within.mono (n := [.draws, .cellMem, .cellRun, .combMem]) ?_ hM
  unfold Within stopCells
  repeat' first
    | with_reducible rfl
    | intro _
    | with_reducible refine (stopCell_without (hM := by decide)).trans ?_
    | with_reducible refine (forEach_without (h := ?_) ..).trans ?_

theorem haltSeq_without {M : List Piece} {k : Comb} {s : State} (hM : sub [.seq] M = true) :
    (haltSeq k s).without M = s.without M := by
  refine Within.mono (n := [.seq]) ?_ hM
  unfold Within haltSeq
  repeat' first
    | with_reducible rfl
    | intro _
    | with_reducible refine (modSeq_without (h := by decide) ..).trans ?_

theorem haltComb_without {M : List Piece} {k : Comb} {s : State} (hM : sub [.draws, .seq, .cellMem, .cellRun, .combMem, .ctx] M = true) :
    (haltComb k s).without M = s.without M := by
  refine Within.mono (n := [.draws, .seq, .cellMem, .cellRun, .combMem, .ctx]) ?_ hM
  unfold Within haltComb
  repeat' first
    | with_reducible rfl
    | intro _
    | with_reducible refine (squashAll_without (hM := by decide)).trans ?_
    | with_reducible refine (stopCells_without (hM := by decide)).trans ?_
    | with_reducible refine (haltSeq_without (hM := by decide)).trans ?_

theorem discardHild_without {M : List Piece} {k : Super} {f : HildRun → Bool} {s : State} (hM : sub [.hild] M = true) :
    (discardHild k f s).without M = s.without M := by
  refine Within.mono (n := [.hild]) ?_ hM
  unfold Within discardHild
  (try dsimp only)
  repeat' first
    | with_reducible rfl
    | intro _
    | with_reducible refine (modHild_without (h := by decide) ..).trans ?_

theorem reportPoison_without {M : List Piece} {k : Super} {s : State} (hM : sub [.out, .host, .evq, .mod] M = true) :
    (reportPoison k s).without M = s.without M := by
  refine Within.mono (n := [.out, .host, .evq, .mod]) ?_ hM
  unfold Within reportPoison
  repeat' first
    | with_reducible rfl
    | intro _
    | with_reducible refine (postEvent_without (hM := by decide)).trans ?_
    | with_reducible refine ite_without (fun _ => ?_) (fun _ => ?_)
    | split

theorem stopHild_without {M : List Piece} {k : Super} {s : State} (hM : sub [.out, .host, .hild, .evq, .mod] M = true) :
    (stopHild k s).without M = s.without M := by
  refine Within.mono (n := [.out, .host, .hild, .evq, .mod]) ?_ hM
  unfold Within stopHild
  repeat' first
    | with_reducible rfl
    | intro _
    | with_reducible refine (modHild_without (h := by decide) ..).trans ?_
    | with_reducible refine (reportPoison_without (hM := by decide)).trans ?_

theorem orphanCkpt_without {M : List Piece} {p : Part} {st : Byte} {s : State} (hM : sub [.out, .host, .evq, .partRegs, .mod] M = true) :
    (orphanCkpt p st s).without M = s.without M := by
  refine Within.mono (n := [.out, .host, .evq, .partRegs, .mod]) ?_ hM
  unfold Within orphanCkpt
  (try dsimp only)
  repeat' first
    | with_reducible rfl
    | intro _
    | with_reducible refine (modPart_without (h := ?_) ..).trans ?_
    | with_reducible refine (postEvent_without (hM := by decide)).trans ?_
    | with_reducible refine ite_without (fun _ => ?_) (fun _ => ?_)
    | split
    | rfl

theorem undefineSector_without {M : List Piece} {p : Part} {a n : Nat} {s : State} (hM : sub [.draws, .superMem, .superTree] M = true) :
    (undefineSector p a n s).without M = s.without M := by
  refine Within.mono (n := [.draws, .superMem, .superTree]) ?_ hM
  unfold Within undefineSector
  (try dsimp only)
  repeat' first
    | with_reducible rfl
    | intro _
    | with_reducible refine (drawn_without (h := by decide) ..).trans ?_
    | with_reducible refine (modSuper_without (h := ?_) ..).trans ?_
    | with_reducible refine ite_without (fun _ => ?_) (fun _ => ?_)
    | split
    | with_reducible refine fst_without (by assumption) ?_
    | rfl

theorem undefinePlan_without {M : List Piece} {p : Part} {list : Bytes} {s : State} (hM : sub [.draws, .superMem, .superTree] M = true) :
    (undefinePlan p list s).without M = s.without M := by
  refine Within.mono (n := [.draws, .superMem, .superTree]) ?_ hM
  unfold Within undefinePlan
  repeat' first
    | with_reducible rfl
    | intro _
    | with_reducible refine (undefineSector_without (hM := by decide)).trans ?_
    | with_reducible refine (forEach_without (h := ?_) ..).trans ?_

theorem dropRestore_without {M : List Piece} {p : Part} {s : State} (hM : sub [.draws, .superMem, .superTree, .partRegs] M = true) :
    (dropRestore p s).without M = s.without M := by
  refine Within.mono (n := [.draws, .superMem, .superTree, .partRegs]) ?_ hM
  unfold Within dropRestore
  repeat' first
    | with_reducible rfl
    | intro _
    | with_reducible refine (modPart_without (h := ?_) ..).trans ?_
    | with_reducible refine (undefinePlan_without (hM := by decide)).trans ?_
    | split
    | rfl

theorem abortJob_without {M : List Piece} {k : Comb} {j : JobIx} {rec : AlarmRec} {arrived : Option LPort} {s : State} (hM : sub [.router] M = true) :
    (abortJob k j rec arrived s).without M = s.without M := by
  refine Within.mono (n := [.router]) ?_ hM
  unfold Within abortJob
  (try dsimp only)
  repeat' first
    | with_reducible rfl
    | intro _
    | with_reducible refine (modRouter_without (h := by decide) ..).trans ?_

theorem spreadAlarm_without {M : List Piece} {p : Part} {k : Comb} {rec : AlarmRec} {s : State} (hM : sub [.router] M = true) :
    (spreadAlarm p k rec s).without M = s.without M := by
  refine Within.mono (n := [.router]) ?_ hM
  unfold Within spreadAlarm
  repeat' first
    | with_reducible rfl
    | intro _
    | with_reducible refine (modRouter_without (h := by decide) ..).trans ?_
    | with_reducible refine (abortJob_without (hM := by decide)).trans ?_
    | with_reducible refine (forEach_without (h := ?_) ..).trans ?_
    | with_reducible refine ite_without (fun _ => ?_) (fun _ => ?_)
    | split

theorem raiseAlarm_without {M : List Piece} {p : Part} {k : Comb} {cause : Byte} {s : State} (hM : sub [.router] M = true) :
    (raiseAlarm p k cause s).without M = s.without M := by
  refine Within.mono (n := [.router]) ?_ hM
  unfold Within raiseAlarm
  (try dsimp only)
  repeat' first
    | with_reducible rfl
    | intro _
    | with_reducible refine (modRouter_without (h := by decide) ..).trans ?_
    | with_reducible refine (abortJob_without (hM := by decide)).trans ?_
    | with_reducible refine (spreadAlarm_without (hM := by decide)).trans ?_
    | with_reducible refine ite_without (fun _ => ?_) (fun _ => ?_)
    | split

theorem raiseRelay_without {M : List Piece} {k : Comb} {j : JobIx} {cause : Byte} {s : State} (hM : sub [.router] M = true) :
    (raiseRelay k j cause s).without M = s.without M := by
  refine Within.mono (n := [.router]) ?_ hM
  unfold Within raiseRelay
  repeat' first
    | with_reducible rfl
    | intro _
    | with_reducible refine (modRouter_without (h := by decide) ..).trans ?_
    | with_reducible refine (abortJob_without (hM := by decide)).trans ?_
    | with_reducible refine ite_without (fun _ => ?_) (fun _ => ?_)

theorem secondEvent_without {M : List Piece} {p : Part} {f : FaultInfo} {s : State} (hM : sub [.out, .host, .evq, .mod] M = true) :
    (secondEvent p f s).without M = s.without M := by
  refine Within.mono (n := [.out, .host, .evq, .mod]) ?_ hM
  unfold Within secondEvent
  repeat' first
    | with_reducible rfl
    | intro _
    | with_reducible refine (postEvent_without (hM := by decide)).trans ?_
    | with_reducible refine ite_without (fun _ => ?_) (fun _ => ?_)

theorem clearActive_without {M : List Piece} {p : Part} {s : State} (hM : sub [.hum] M = true) :
    (clearActive p s).without M = s.without M := by
  refine Within.mono (n := [.hum]) ?_ hM
  unfold Within clearActive
  repeat' first
    | with_reducible rfl
    | intro _
    | with_reducible refine (modHum_without (h := by decide) ..).trans ?_
    | with_reducible refine (forEach_without (h := ?_) ..).trans ?_

theorem stopIssue_without {M : List Piece} {combs : List Comb} {s : State} (hM : sub [.seq, .hild, .ctx] M = true) :
    (stopIssue combs s).without M = s.without M := by
  refine Within.mono (n := [.seq, .hild, .ctx]) ?_ hM
  unfold Within stopIssue
  repeat' first
    | with_reducible rfl
    | intro _
    | with_reducible refine (squashAll_without (hM := by decide)).trans ?_
    | with_reducible refine (haltSeq_without (hM := by decide)).trans ?_
    | with_reducible refine (discardHild_without (hM := by decide)).trans ?_
    | with_reducible refine (forEach_without (h := ?_) ..).trans ?_

theorem abortSmokes_without {M : List Piece} {r : Recovery} {dom : BitVec 4} {s : State} (hM : sub [.rings] M = true) :
    (abortSmokes r dom s).without M = s.without M := by
  refine Within.mono (n := [.rings]) ?_ hM
  unfold Within abortSmokes
  repeat' first
    | with_reducible rfl
    | intro _
    | with_reducible refine (modDesc_without (h := by decide) ..).trans ?_
    | with_reducible refine (forEach_without (h := ?_) ..).trans ?_

theorem takeOver_without {M : List Piece} {p : Part} {r : Recovery} {s : State} (hM : sub [.rings, .partRegs] M = true) :
    (takeOver p r s).without M = s.without M := by
  refine Within.mono (n := [.rings, .partRegs]) ?_ hM
  unfold Within takeOver
  (try dsimp only)
  repeat' first
    | with_reducible rfl
    | intro _
    | with_reducible refine (modPart_without (h := ?_) ..).trans ?_
    | with_reducible refine (abortSmokes_without (hM := by decide)).trans ?_
    | with_reducible refine (forEach_without (h := ?_) ..).trans ?_
    | rfl

theorem stopWhole_without {M : List Piece} {p : Part} {st : Byte} {detail : Word} {detail2 : BitVec 56} {dom : BitVec 4} {s : State} (hM : sub [.out, .host, .draws, .hum, .seq, .cellMem, .cellRun, .combMem, .superMem, .superTree, .hild, .ctx, .rings, .evq, .partRegs, .mod] M = true) :
    (stopWhole p st detail detail2 dom s).without M = s.without M := by
  refine Within.mono (n := [.out, .host, .draws, .hum, .seq, .cellMem, .cellRun, .combMem, .superMem, .superTree, .hild, .ctx, .rings, .evq, .partRegs, .mod]) ?_ hM
  unfold Within stopWhole
  (try dsimp only)
  repeat' first
    | with_reducible rfl
    | intro _
    | with_reducible refine (modPart_without (h := ?_) ..).trans ?_
    | with_reducible refine (stopRings_without (hM := by decide)).trans ?_
    | with_reducible refine (haltComb_without (hM := by decide)).trans ?_
    | with_reducible refine (orphanCkpt_without (hM := by decide)).trans ?_
    | with_reducible refine (dropRestore_without (hM := by decide)).trans ?_
    | with_reducible refine (clearActive_without (hM := by decide)).trans ?_
    | with_reducible refine (stopIssue_without (hM := by decide)).trans ?_
    | with_reducible refine (forEach_without (h := ?_) ..).trans ?_
    | rfl

theorem beginRecovery_without {M : List Piece} {p : Part} {f : FaultInfo} {s : State} (hM : sub [.out, .host, .draws, .hum, .seq, .cellMem, .cellRun, .combMem, .superMem, .superTree, .hild, .ctx, .rings, .evq, .partRegs, .mod] M = true) :
    (beginRecovery p f s).without M = s.without M := by
  refine Within.mono (n := [.out, .host, .draws, .hum, .seq, .cellMem, .cellRun, .combMem, .superMem, .superTree, .hild, .ctx, .rings, .evq, .partRegs, .mod]) ?_ hM
  unfold Within beginRecovery
  (try dsimp only)
  repeat' first
    | with_reducible rfl
    | intro _
    | with_reducible refine (postEvent_without (hM := by decide)).trans ?_
    | with_reducible refine (takeOver_without (hM := by decide)).trans ?_
    | with_reducible refine (stopWhole_without (hM := by decide)).trans ?_

theorem escalateWarm_without {M : List Piece} {f : FaultInfo} {s : State} (hM : sub faultPieces M = true) :
    (escalateWarm f s).without M = s.without M := by
  refine Within.mono (n := faultPieces) ?_ hM
  unfold Within escalateWarm
  (try dsimp only)
  repeat' first
    | with_reducible rfl
    | intro _
    | with_reducible refine (modEvt_without (h := by decide) ..).trans ?_
    | with_reducible refine (moduleReset_without (hM := by decide)).trans ?_
    | with_reducible refine (logFirst_without (hM := by decide)).trans ?_
    | with_reducible refine (logSecond_without (hM := by decide)).trans ?_
    | with_reducible refine (holdModule_without (hM := by decide)).trans ?_
    | with_reducible refine ite_without (fun _ => ?_) (fun _ => ?_)

theorem escalateTo_without {M : List Piece} {p : Part} {r : Recovery} {f : FaultInfo} {s : State} (hM : sub faultPieces M = true) :
    (escalateTo p r f s).without M = s.without M := by
  refine Within.mono (n := faultPieces) ?_ hM
  unfold Within escalateTo
  (try dsimp only)
  repeat' first
    | with_reducible rfl
    | intro _
    | with_reducible refine (modEvt_without (h := by decide) ..).trans ?_
    | with_reducible refine (takeOver_without (hM := by decide)).trans ?_
    | with_reducible refine (stopWhole_without (hM := by decide)).trans ?_
    | with_reducible refine (escalateWarm_without (hM := by decide)).trans ?_
    | with_reducible refine ite_without (fun _ => ?_) (fun _ => ?_)

theorem escalate_without {M : List Piece} {p : Part} {r : Recovery} {f : FaultInfo} {s : State} (hM : sub faultPieces M = true) :
    (escalate p r f s).without M = s.without M := by
  refine Within.mono (n := faultPieces) ?_ hM
  unfold Within escalate
  repeat' first
    | with_reducible rfl
    | intro _
    | with_reducible refine (secondEvent_without (hM := by decide)).trans ?_
    | with_reducible refine (escalateTo_without (hM := by decide)).trans ?_

theorem queenFault_without {M : List Piece} {st : Byte} {s : State} (hM : sub faultPieces M = true) :
    (queenFault st s).without M = s.without M := by
  refine Within.mono (n := faultPieces) ?_ hM
  unfold Within queenFault
  repeat' first
    | with_reducible rfl
    | intro _
    | with_reducible refine (escalateWarm_without (hM := by decide)).trans ?_
    | with_reducible refine (escalateTo_without (hM := by decide)).trans ?_
    | with_reducible refine (forEach_without (h := ?_) ..).trans ?_
    | with_reducible refine ite_without (fun _ => ?_) (fun _ => ?_)
    | split

theorem partitionFault_without {M : List Piece} {p : Part} {f : FaultInfo} {s : State} (hM : sub faultPieces M = true) :
    (partitionFault p f s).without M = s.without M := by
  refine Within.mono (n := faultPieces) ?_ hM
  unfold Within partitionFault
  repeat' first
    | with_reducible rfl
    | intro _
    | with_reducible refine (beginRecovery_without (hM := by decide)).trans ?_
    | with_reducible refine (escalate_without (hM := by decide)).trans ?_
    | with_reducible refine ite_without (fun _ => ?_) (fun _ => ?_)
    | split

theorem jobFault_without {M : List Piece} {p : Part} {k : Comb} {cause st : Byte} {detail : Word} {detail2 : BitVec 56} {s : State} (hM : sub faultPieces M = true) :
    (jobFault p k cause st detail detail2 s).without M = s.without M := by
  refine Within.mono (n := faultPieces) ?_ hM
  unfold Within jobFault
  (try dsimp only)
  repeat' first
    | with_reducible rfl
    | intro _
    | with_reducible refine (raiseAlarm_without (hM := by decide)).trans ?_
    | with_reducible refine (partitionFault_without (hM := by decide)).trans ?_
    | with_reducible refine ite_without (fun _ => ?_) (fun _ => ?_)

theorem fabricAbort_without {M : List Piece} {p : Part} {k : Comb} {cause : Byte} {s : State} (hM : sub faultPieces M = true) :
    (fabricAbort p k cause s).without M = s.without M := by
  refine Within.mono (n := faultPieces) ?_ hM
  unfold Within fabricAbort
  repeat' first
    | with_reducible rfl
    | intro _
    | with_reducible refine (jobFault_without (hM := by decide)).trans ?_

theorem stopPartitionAs_without {M : List Piece} {p : Part} {k : Comb} {st : Byte} {detail : Word} {detail2 : BitVec 56} {unit : Word} {supers : List Super} {evDet : Option (BitVec 56)} {s : State} (hM : sub faultPieces M = true) :
    (stopPartitionAs p k st detail detail2 unit supers evDet s).without M = s.without M := by
  refine Within.mono (n := faultPieces) ?_ hM
  unfold Within stopPartitionAs
  (try dsimp only)
  repeat' first
    | with_reducible rfl
    | intro _
    | with_reducible refine (raiseAlarm_without (hM := by decide)).trans ?_
    | with_reducible refine (partitionFault_without (hM := by decide)).trans ?_

theorem stopPartition_without {M : List Piece} {p : Part} {k : Comb} {st : Byte} {detail : Word} {detail2 : BitVec 56} {unit : Word} {supers : List Super} {s : State} (hM : sub faultPieces M = true) :
    (stopPartition p k st detail detail2 unit supers s).without M = s.without M := by
  refine Within.mono (n := faultPieces) ?_ hM
  unfold Within stopPartition
  repeat' first
    | with_reducible rfl
    | intro _
    | with_reducible refine (stopPartitionAs_without (hM := by decide)).trans ?_

theorem stopInternal_without {M : List Piece} {p : Part} {k : Comb} {unit : Word} {supers : List Super} {s : State} (hM : sub faultPieces M = true) :
    (stopInternal p k unit supers s).without M = s.without M := by
  refine Within.mono (n := faultPieces) ?_ hM
  unfold Within stopInternal
  repeat' first
    | with_reducible rfl
    | intro _
    | with_reducible refine (stopPartition_without (hM := by decide)).trans ?_

theorem failDesc_without {M : List Piece} {p : Part} {r : Ring} {idx : Word} {st : Byte} {detail : Word} {detail2 : BitVec 56} {k : Comb} {s : State} (hM : sub faultPieces M = true) :
    (failDesc p r idx st detail detail2 k s).without M = s.without M := by
  refine Within.mono (n := faultPieces) ?_ hM
  unfold Within failDesc
  (try dsimp only)
  repeat' first
    | with_reducible rfl
    | intro _
    | with_reducible refine (finish_without (hM := by decide)).trans ?_
    | with_reducible refine (stopPartition_without (hM := by decide)).trans ?_
    | with_reducible refine ite_without (fun _ => ?_) (fun _ => ?_)

theorem endServed_without {M : List Piece} {p : Part} {k : Comb} {s : State} (hM : sub [.out, .host, .draws, .superMem, .superTree, .evq, .partRegs, .mod] M = true) :
    (endServed p k s).without M = s.without M := by
  refine Within.mono (n := [.out, .host, .draws, .superMem, .superTree, .evq, .partRegs, .mod]) ?_ hM
  unfold Within endServed
  (try dsimp only)
  repeat' first
    | with_reducible rfl
    | intro _
    | with_reducible refine (orphanCkpt_without (hM := by decide)).trans ?_
    | with_reducible refine (dropRestore_without (hM := by decide)).trans ?_
    | with_reducible refine ite_without (fun _ => ?_) (fun _ => ?_)
    | split

theorem programFault_without {M : List Piece} {k : Comb} {st : Byte} {detail : Word} {detail2 : BitVec 56} {s : State} (hM : sub progPieces M = true) :
    (programFault k st detail detail2 s).without M = s.without M := by
  refine Within.mono (n := progPieces) ?_ hM
  unfold Within programFault
  (try dsimp only)
  repeat' first
    | with_reducible rfl
    | intro _
    | with_reducible refine (modDesc_without (h := by decide) ..).trans ?_
    | with_reducible refine (modPart_without (h := ?_) ..).trans ?_
    | with_reducible refine (modSeq_without (h := by decide) ..).trans ?_
    | with_reducible refine (postEvent_without (hM := by decide)).trans ?_
    | with_reducible refine (stopRings_without (hM := by decide)).trans ?_
    | with_reducible refine (haltComb_without (hM := by decide)).trans ?_
    | with_reducible refine (discardHild_without (hM := by decide)).trans ?_
    | with_reducible refine (endServed_without (hM := by decide)).trans ?_
    | with_reducible refine (forEach_without (h := ?_) ..).trans ?_
    | with_reducible refine ite_without (fun _ => ?_) (fun _ => ?_)
    | split
    | rfl

/-! ### Machine/SuperOps.lean -/

theorem moduleFault_without {M : List Piece} {st : Byte} {unit : Word} {s : State} (hM : sub faultPieces M = true) :
    (moduleFault st unit s).without M = s.without M := by
  refine Within.mono (n := faultPieces) ?_ hM
  unfold Within moduleFault
  repeat' first
    | with_reducible rfl
    | intro _
    | with_reducible refine (drawn_without (h := by decide) ..).trans ?_
    | with_reducible refine (modEvt_without (h := by decide) ..).trans ?_
    | with_reducible refine (modBoot_without (h := ?_) ..).trans ?_
    | with_reducible refine (moduleReset_without (hM := by decide)).trans ?_
    | with_reducible refine (logFirst_without (hM := by decide)).trans ?_
    | with_reducible refine (logSecond_without (hM := by decide)).trans ?_
    | with_reducible refine (holdModule_without (hM := by decide)).trans ?_
    | with_reducible refine ite_without (fun _ => ?_) (fun _ => ?_)
    | split
    | rfl

theorem regionLost_without {M : List Piece} {d : Die} {s : State} (hM : sub faultPieces M = true) :
    (regionLost d s).without M = s.without M := by
  refine Within.mono (n := faultPieces) ?_ hM
  unfold Within regionLost
  (try dsimp only)
  repeat' first
    | with_reducible rfl
    | intro _
    | with_reducible refine (modDie_without (h := ?_) ..).trans ?_
    | with_reducible refine (queenFault_without (hM := by decide)).trans ?_
    | with_reducible refine (moduleFault_without (hM := by decide)).trans ?_
    | with_reducible refine ite_without (fun _ => ?_) (fun _ => ?_)
    | split
    | rfl

theorem markDie_without {M : List Piece} {k : Super} {die : Fin 16} {s : State} (hM : sub faultPieces M = true) :
    (markDie k die s).without M = s.without M := by
  refine Within.mono (n := faultPieces) ?_ hM
  unfold Within markDie
  (try dsimp only)
  repeat' first
    | with_reducible rfl
    | intro _
    | with_reducible refine (modSuper_without (h := ?_) ..).trans ?_
    | with_reducible refine (recordRepair_without (hM := by decide)).trans ?_
    | with_reducible refine (ewSuper_without (hM := by decide)).trans ?_
    | with_reducible refine (stopPartition_without (hM := by decide)).trans ?_
    | with_reducible refine (regionLost_without (hM := by decide)).trans ?_
    | with_reducible refine (forEach_without (h := ?_) ..).trans ?_
    | split
    | rfl

theorem nodeNote_without {M : List Piece} {k : Super} {n : Nat} {s : State} (hM : sub faultPieces M = true) :
    (nodeNote k n s).without M = s.without M := by
  refine Within.mono (n := faultPieces) ?_ hM
  unfold Within nodeNote
  (try dsimp only)
  repeat' first
    | with_reducible rfl
    | intro _
    | with_reducible refine (modSuper_without (h := ?_) ..).trans ?_
    | with_reducible refine (clearFlips_without (hM := by decide)).trans ?_
    | with_reducible refine (regionLost_without (hM := by decide)).trans ?_
    | with_reducible refine ite_without (fun _ => ?_) (fun _ => ?_)
    | split
    | rfl

theorem stopUnder_without {M : List Piece} {k : Super} {n : Nat} {ppa : BitVec 56} {s : State} (hM : sub faultPieces M = true) :
    (stopUnder k n ppa s).without M = s.without M := by
  refine Within.mono (n := faultPieces) ?_ hM
  unfold Within stopUnder
  repeat' first
    | with_reducible rfl
    | intro _
    | with_reducible refine (stopPartition_without (hM := by decide)).trans ?_
    | with_reducible refine (forEach_without (h := ?_) ..).trans ?_

theorem nodeFails_without {M : List Piece} {k : Super} {n off : Nat} {s : State} (hM : sub faultPieces M = true) :
    (nodeFails k n off s).without M = s.without M := by
  refine Within.mono (n := faultPieces) ?_ hM
  unfold Within nodeFails
  repeat' first
    | with_reducible rfl
    | intro _
    | with_reducible refine (nodeNote_without (hM := by decide)).trans ?_
    | with_reducible refine (stopUnder_without (hM := by decide)).trans ?_

theorem tagNote_without {M : List Piece} {k : Super} {l : Nat} {kind : BitVec 3} {s : State} (hM : sub [.superMem, .superTree, .superRegs, .partRegs] M = true) :
    (tagNote k l kind s).without M = s.without M := by
  refine Within.mono (n := [.superMem, .superTree, .superRegs, .partRegs]) ?_ hM
  unfold Within tagNote
  (try dsimp only)
  repeat' first
    | with_reducible rfl
    | intro _
    | with_reducible refine (modSuper_without (h := ?_) ..).trans ?_
    | with_reducible refine (poisonLine_without (hM := by decide)).trans ?_
    | rfl

theorem stopOwner_without {M : List Piece} {k : Super} {off : Nat} {st : Byte} {s : State} (hM : sub faultPieces M = true) :
    (stopOwner k off st s).without M = s.without M := by
  refine Within.mono (n := faultPieces) ?_ hM
  unfold Within stopOwner
  repeat' first
    | with_reducible rfl
    | intro _
    | with_reducible refine (stopPartition_without (hM := by decide)).trans ?_
    | split

theorem warnCtr_without {M : List Piece} {k : Super} {lo hi : Nat} {s : State} (hM : sub [.out, .host, .evq, .mod] M = true) :
    (warnCtr k lo hi s).without M = s.without M := by
  refine Within.mono (n := [.out, .host, .evq, .mod]) ?_ hM
  unfold Within warnCtr
  repeat' first
    | with_reducible rfl
    | intro _
    | with_reducible refine (postEvent_without (hM := by decide)).trans ?_
    | with_reducible refine (forEach_without (h := ?_) ..).trans ?_

theorem stopExhausted_without {M : List Piece} {k : Super} {n : Nat} {s : State} (hM : sub faultPieces M = true) :
    (stopExhausted k n s).without M = s.without M := by
  refine Within.mono (n := faultPieces) ?_ hM
  unfold Within stopExhausted
  (try dsimp only)
  repeat' first
    | with_reducible rfl
    | intro _
    | with_reducible refine (stopPartition_without (hM := by decide)).trans ?_
    | with_reducible refine (forEach_without (h := ?_) ..).trans ?_

theorem reportCtr_without {M : List Piece} {k : Super} {ev : List CtrEvent} {s : State} (hM : sub faultPieces M = true) :
    (reportCtr k ev s).without M = s.without M := by
  refine Within.mono (n := faultPieces) ?_ hM
  unfold Within reportCtr
  repeat' first
    | with_reducible rfl
    | intro _
    | with_reducible refine (warnCtr_without (hM := by decide)).trans ?_
    | with_reducible refine (stopExhausted_without (hM := by decide)).trans ?_
    | with_reducible refine (forEach_without (h := ?_) ..).trans ?_
    | with_reducible refine ite_without (fun _ => ?_) (fun _ => ?_)

theorem noteDecode_without {M : List Piece} {k : Super} {l : Nat} {s : State} (hM : sub faultPieces M = true) :
    (noteDecode k l s).without M = s.without M := by
  refine Within.mono (n := faultPieces) ?_ hM
  unfold Within noteDecode
  (try dsimp only)
  repeat' first
    | with_reducible rfl
    | intro _
    | with_reducible refine (lineCorrected_without (hM := by decide)).trans ?_
    | with_reducible refine (markDie_without (hM := by decide)).trans ?_
    | with_reducible refine ite_without (fun _ => ?_) (fun _ => ?_)
    | split

theorem noteNodes_without {M : List Piece} {k : Super} {off : Nat} {s : State} (hM : sub faultPieces M = true) :
    (noteNodes k off s).without M = s.without M := by
  refine Within.mono (n := faultPieces) ?_ hM
  unfold Within noteNodes
  (try dsimp only)
  repeat' first
    | with_reducible rfl
    | intro _
    | with_reducible refine (noteDecode_without (hM := by decide)).trans ?_
    | with_reducible refine (forEach_without (h := ?_) ..).trans ?_

theorem fetchCtr_without {M : List Piece} {k : Super} {off : Nat} {s : State} (hM : sub faultPieces M = true) :
    (fetchCtr k off s).without M = s.without M := by
  refine Within.mono (n := faultPieces) ?_ hM
  unfold Within fetchCtr
  (try dsimp only)
  repeat' first
    | with_reducible rfl
    | intro _
    | with_reducible refine (modSuper_without (h := ?_) ..).trans ?_
    | with_reducible refine (touchCtr_without (hM := by decide)).trans ?_
    | with_reducible refine (reportCtr_without (hM := by decide)).trans ?_
    | with_reducible refine (noteNodes_without (hM := by decide)).trans ?_
    | rfl

theorem noteLine_without {M : List Piece} {k : Super} {l : Nat} {s : State} (hM : sub faultPieces M = true) :
    (noteLine k l s).without M = s.without M := by
  refine Within.mono (n := faultPieces) ?_ hM
  unfold Within noteLine
  (try dsimp only)
  repeat' first
    | with_reducible rfl
    | intro _
    | with_reducible refine (noteDecode_without (hM := by decide)).trans ?_
    | with_reducible refine ite_without (fun _ => ?_) (fun _ => ?_)

theorem meetLine_without {M : List Piece} {k : Super} {off : Nat} {src : BitVec 3} {s : State} (hM : sub faultPieces M = true) :
    (meetLine k off src s).without M = s.without M := by
  refine Within.mono (n := faultPieces) ?_ hM
  unfold Within meetLine
  repeat' first
    | with_reducible rfl
    | intro _
    | with_reducible refine (lineUncorrectable_without (hM := by decide)).trans ?_
    | with_reducible refine (nodeNote_without (hM := by decide)).trans ?_
    | with_reducible refine (tagNote_without (hM := by decide)).trans ?_
    | with_reducible refine (noteNodes_without (hM := by decide)).trans ?_
    | with_reducible refine (fetchCtr_without (hM := by decide)).trans ?_
    | with_reducible refine (noteLine_without (hM := by decide)).trans ?_
    | split

/-! ### Machine/Ppa.lean -/

theorem noteErr_without {M : List Piece} {isWrite : Bool} {e : MemErr} {s : State} (hM : sub [.superRegs] M = true) :
    (noteErr isWrite e s).without M = s.without M := by
  refine Within.mono (n := [.superRegs]) ?_ hM
  unfold Within noteErr
  repeat' first
    | with_reducible rfl
    | intro _
    | with_reducible refine (modSuper_without (h := ?_) ..).trans ?_
    | with_reducible refine ite_without (fun _ => ?_) (fun _ => ?_)
    | split
    | rfl

theorem noteUnlisted_without {M : List Piece} {p : Part} {a : Nat} {s : State} (hM : sub [.superRegs] M = true) :
    (noteUnlisted p a s).without M = s.without M := by
  refine Within.mono (n := [.superRegs]) ?_ hM
  unfold Within noteUnlisted
  repeat' first
    | with_reducible rfl
    | intro _
    | with_reducible refine (noteErr_without (hM := by decide)).trans ?_
    | split

theorem touchLine_without {M : List Piece} {p : Part} {src : BitVec 3} {a : Nat} {s : State} (hM : sub faultPieces M = true) :
    (touchLine p src a s).without M = s.without M := by
  refine Within.mono (n := faultPieces) ?_ hM
  unfold Within touchLine
  (try dsimp only)
  repeat' first
    | with_reducible rfl
    | intro _
    | with_reducible refine (meetLine_without (hM := by decide)).trans ?_
    | with_reducible refine (noteErr_without (hM := by decide)).trans ?_
    | with_reducible refine ite_without (fun _ => ?_) (fun _ => ?_)
    | split

theorem touchLines_without {M : List Piece} {p : Part} {src : BitVec 3} {x2 : List (Nat × Nat)} {x3 : State} (hM : sub faultPieces M = true) :
    (touchLines p src x2 x3).without M = x3.without M := by
  refine Within.mono (n := faultPieces) ?_ hM
  unfold Within
  induction x2 generalizing x3 with
  | nil => rfl
  | cons a r ih =>
    unfold touchLines
    repeat' first
      | with_reducible rfl
      | intro _
      | with_reducible refine (touchLine_without (hM := by decide)).trans ?_
      | with_reducible refine (ih ..).trans ?_
      | split

theorem ppaTouch_without {M : List Piece} {p : Part} {src : BitVec 3} {a n : Nat} {s : State} (hM : sub faultPieces M = true) :
    (ppaTouch p src a n s).without M = s.without M := by
  refine Within.mono (n := faultPieces) ?_ hM
  unfold Within ppaTouch
  repeat' first
    | with_reducible rfl
    | intro _
    | with_reducible refine (touchLines_without (hM := by decide)).trans ?_

theorem ppaFetch_without {M : List Piece} {p : Part} {a n : Nat} {s : State} (hM : sub faultPieces M = true) :
    (ppaFetch p a n s).1.without M = s.without M := by
  refine Within.mono (n := faultPieces) ?_ hM
  unfold Within ppaFetch
  (try dsimp only)
  repeat' first
    | with_reducible rfl
    | intro _
    | with_reducible refine (ppaTouch_without (hM := by decide)).trans ?_

theorem storeSector_without {M : List Piece} {k : Super} {off : Nat} {data : Bytes} {u : SuperState} (hM : sub [.superMem, .superTree, .superRegs] M = true) :
    (storeSector k off data u).1.without M = u.without M := by
  refine super_mono (n := [.superMem, .superTree, .superRegs]) ?_ hM
  unfold storeSector
  dsimp only
  refine Eq.trans ?_ (touchCtr_without (M := [.superMem, .superTree, .superRegs]) (off := off) (d := true) (u := u) (by decide))
  generalize (touchCtr off true u).1 = v
  generalize (if tabGet 0 u.ctr (off / 512) + 1 = 1 then _ else _) = fresh
  generalize ((List.range 4).map fun i => off / 512 * 4 + i) = sector
  have h1 : (fresh.foldl (fun u l => settleLine l u) v).without [.superMem, .superTree, .superRegs] = v.without [.superMem, .superTree, .superRegs] :=
    foldl_super_without _ fresh _ v fun u l => settleLine_without (by decide)
  generalize fresh.foldl (fun u l => settleLine l u) v = x at h1
  have h2 : (sector.foldl (fun u l => settleTag k l u) x).without [.superMem, .superTree, .superRegs] = v.without [.superMem, .superTree, .superRegs] :=
    (foldl_super_without _ sector _ x fun u l => settleTag_without (by decide)).trans h1
  generalize sector.foldl (fun u l => settleTag k l u) x = w at h2
  exact h2

theorem storePiece_without {M : List Piece} {k : Super} {off : Nat} {data : Bytes} {s : State} (hM : sub faultPieces M = true) :
    (storePiece k off data s).without M = s.without M := by
  refine Within.mono (n := faultPieces) ?_ hM
  unfold Within storePiece
  (try dsimp only)
  repeat' first
    | with_reducible rfl
    | intro _
    | with_reducible refine (modSuper_without (h := ?_) ..).trans ?_
    | with_reducible refine (warnCtr_without (hM := by decide)).trans ?_
    | with_reducible refine (reportCtr_without (hM := by decide)).trans ?_
    | with_reducible refine (noteNodes_without (hM := by decide)).trans ?_
    | with_reducible refine (storeSector_without (hM := by decide)).trans ?_
    | with_reducible refine ite_without (fun _ => ?_) (fun _ => ?_)
    | split
    | rfl

theorem mergeSector_without {M : List Piece} {k : Super} {off : Nat} {data : Bytes} {src : BitVec 3} {s : State} (hM : sub faultPieces M = true) :
    (mergeSector k off data src s).1.without M = s.without M := by
  refine Within.mono (n := faultPieces) ?_ hM
  unfold Within mergeSector
  (try dsimp only)
  repeat' first
    | with_reducible rfl
    | intro _
    | with_reducible refine (lineUncorrectable_without (hM := by decide)).trans ?_
    | with_reducible refine (tagNote_without (hM := by decide)).trans ?_
    | with_reducible refine (noteNodes_without (hM := by decide)).trans ?_
    | with_reducible refine (noteLine_without (hM := by decide)).trans ?_
    | with_reducible refine (storePiece_without (hM := by decide)).trans ?_
    | with_reducible refine (forEach_without (h := ?_) ..).trans ?_
    | with_reducible refine (doIf_without (h := ?_) ..).trans ?_
    | split

theorem settleSector_without {M : List Piece} {k : Super} {key : KeyId} {off : Nat} {data : Bytes} {src : BitVec 3} {s : State} (hM : sub faultPieces M = true) :
    (settleSector k key off data src s).1.without M = s.without M := by
  refine Within.mono (n := faultPieces) ?_ hM
  unfold Within settleSector
  (try dsimp only)
  repeat' first
    | with_reducible rfl
    | intro _
    | with_reducible refine (nodeNote_without (hM := by decide)).trans ?_
    | with_reducible refine (noteNodes_without (hM := by decide)).trans ?_
    | with_reducible refine (noteErr_without (hM := by decide)).trans ?_
    | with_reducible refine (storePiece_without (hM := by decide)).trans ?_
    | with_reducible refine (mergeSector_without (hM := by decide)).trans ?_
    | with_reducible refine ite_without (fun _ => ?_) (fun _ => ?_)
    | split

theorem writeSector_without {M : List Piece} {p : Part} {a : Nat} {data : Bytes} {s : State} (hM : sub faultPieces M = true) :
    (writeSector p a data s).1.without M = s.without M := by
  refine Within.mono (n := faultPieces) ?_ hM
  unfold Within writeSector
  (try dsimp only)
  repeat' first
    | with_reducible rfl
    | intro _
    | with_reducible refine (noteErr_without (hM := by decide)).trans ?_
    | with_reducible refine (settleSector_without (hM := by decide)).trans ?_
    | with_reducible refine ite_without (fun _ => ?_) (fun _ => ?_)
    | split

theorem writePieces_without {M : List Piece} {p : Part} {a0 : Nat} {data : Bytes} {x3 : List (Nat × Nat)} {x4 : State} (hM : sub faultPieces M = true) :
    (writePieces p a0 data x3 x4).1.without M = x4.without M := by
  refine Within.mono (n := faultPieces) ?_ hM
  unfold Within
  induction x3 generalizing x4 with
  | nil => rfl
  | cons a r ih =>
    unfold writePieces
    repeat' first
      | with_reducible rfl
      | intro _
      | with_reducible refine (writeSector_without (hM := by decide)).trans ?_
      | with_reducible refine (ih ..).trans ?_
      | split
      | with_reducible refine fst_without (by assumption) ?_

theorem ppaWrite_without {M : List Piece} {p : Part} {a : Nat} {data : Bytes} {s : State} (hM : sub faultPieces M = true) :
    (ppaWrite p a data s).1.without M = s.without M := by
  refine Within.mono (n := faultPieces) ?_ hM
  unfold Within ppaWrite
  repeat' first
    | with_reducible rfl
    | intro _
    | with_reducible refine (writePieces_without (hM := by decide)).trans ?_

theorem ppaPut_without {M : List Piece} {p : Part} {a : Nat} {data : Bytes} {s : State} (hM : sub faultPieces M = true) :
    (ppaPut p a data s).without M = s.without M := by
  refine Within.mono (n := faultPieces) ?_ hM
  unfold Within ppaPut
  repeat' first
    | with_reducible rfl
    | intro _
    | with_reducible refine (ppaWrite_without (hM := by decide)).trans ?_

/-! ### Machine/Egress.lean -/

theorem noteNoIde_without {M : List Piece} {p : Part} {s : State} (hM : sub [.fns] M = true) :
    (noteNoIde p s).without M = s.without M := by
  refine Within.mono (n := [.fns]) ?_ hM
  unfold Within noteNoIde
  repeat' first
    | with_reducible rfl
    | intro _
    | with_reducible refine (modFn_without (h := by decide) ..).trans ?_
    | with_reducible refine ite_without (fun _ => ?_) (fun _ => ?_)

theorem chargeClear_without {M : List Piece} {p : Part} {cls len : Nat} {s : State} (hM : sub [.ctx] M = true) :
    (chargeClear p cls len s).without M = s.without M := by
  refine Within.mono (n := [.ctx]) ?_ hM
  unfold Within chargeClear
  repeat' first
    | with_reducible rfl
    | intro _
    | with_reducible refine (modCtx_without (h := by decide) ..).trans ?_
    | with_reducible refine ite_without (fun _ => ?_) (fun _ => ?_)

theorem refillClear_without {M : List Piece} {p : Part} {s : State} (hM : sub [.ctx] M = true) :
    (refillClear p s).without M = s.without M := by
  refine Within.mono (n := [.ctx]) ?_ hM
  unfold Within refillClear
  repeat' first
    | with_reducible rfl
    | intro _
    | with_reducible refine (modCtx_without (h := by decide) ..).trans ?_

/-! ### Machine/HildGate.lean -/

theorem endPart_without {M : List Piece} {k : Super} {d : RunDesc} {st : Byte} {detail : Word} {d2 : BitVec 56} {bytes : Nat} {s : State} (hM : sub [.rings] M = true) :
    (endPart k d st detail d2 bytes s).without M = s.without M := by
  refine Within.mono (n := [.rings]) ?_ hM
  unfold Within endPart
  repeat' first
    | with_reducible rfl
    | intro _
    | with_reducible refine (modDesc_without (h := by decide) ..).trans ?_

theorem endRun_without {M : List Piece} {k : Super} {st : Byte} {detail : Word} {d2 : BitVec 56} {s : State} (hM : sub faultPieces M = true) :
    (endRun k st detail d2 s).without M = s.without M := by
  refine Within.mono (n := faultPieces) ?_ hM
  unfold Within endRun
  (try dsimp only)
  repeat' first
    | with_reducible rfl
    | intro _
    | with_reducible refine (modHild_without (h := by decide) ..).trans ?_
    | with_reducible refine (postEvent_without (hM := by decide)).trans ?_
    | with_reducible refine (stopPartitionAs_without (hM := by decide)).trans ?_
    | with_reducible refine (endPart_without (hM := by decide)).trans ?_
    | with_reducible refine ite_without (fun _ => ?_) (fun _ => ?_)
    | split

theorem dropRun_without {M : List Piece} {k : Super} {st : Byte} {detail : Word} {d2 : BitVec 56} {s : State} (hM : sub [.hild, .rings] M = true) :
    (dropRun k st detail d2 s).without M = s.without M := by
  refine Within.mono (n := [.hild, .rings]) ?_ hM
  unfold Within dropRun
  (try dsimp only)
  repeat' first
    | with_reducible rfl
    | intro _
    | with_reducible refine (modHild_without (h := by decide) ..).trans ?_
    | with_reducible refine (endPart_without (hM := by decide)).trans ?_
    | split

theorem runMemFail_without {M : List Piece} {k : Super} {e : MemErr} {s : State} (hM : sub faultPieces M = true) :
    (runMemFail k e s).without M = s.without M := by
  refine Within.mono (n := faultPieces) ?_ hM
  unfold Within runMemFail
  (try dsimp only)
  repeat' first
    | with_reducible rfl
    | intro _
    | with_reducible refine (endRun_without (hM := by decide)).trans ?_
    | with_reducible refine (dropRun_without (hM := by decide)).trans ?_
    | with_reducible refine ite_without (fun _ => ?_) (fun _ => ?_)
    | split

theorem putAll_without {M : List Piece} {p : Part} {x1 : List StagedWrite} {x2 : State} (hM : sub faultPieces M = true) :
    (putAll p x1 x2).1.without M = x2.without M := by
  refine Within.mono (n := faultPieces) ?_ hM
  unfold Within
  induction x1 generalizing x2 with
  | nil => rfl
  | cons a r ih =>
    unfold putAll
    repeat' first
      | with_reducible rfl
      | intro _
      | with_reducible refine (ppaWrite_without (hM := by decide)).trans ?_
      | with_reducible refine (ih ..).trans ?_
      | split
      | with_reducible refine fst_without (by assumption) ?_

theorem putCommit_without {M : List Piece} {k : Super} {state : Nat} {r : HildRun} {groups : Nat} {s : State} (hM : sub faultPieces M = true) :
    (putCommit k state r groups s).without M = s.without M := by
  refine Within.mono (n := faultPieces) ?_ hM
  unfold Within putCommit
  (try dsimp only)
  repeat' first
    | with_reducible rfl
    | intro _
    | with_reducible refine (ppaWrite_without (hM := by decide)).trans ?_
    | with_reducible refine (runMemFail_without (hM := by decide)).trans ?_
    | with_reducible refine ite_without (fun _ => ?_) (fun _ => ?_)
    | split
    | with_reducible refine fst_without (by assumption) ?_

theorem drainRun_without {M : List Piece} {k : Super} {s : State} (hM : sub faultPieces M = true) :
    (drainRun k s).without M = s.without M := by
  refine Within.mono (n := faultPieces) ?_ hM
  unfold Within drainRun
  repeat' first
    | with_reducible rfl
    | intro _
    | with_reducible refine (modHild_without (h := by decide) ..).trans ?_
    | with_reducible refine (runMemFail_without (hM := by decide)).trans ?_
    | with_reducible refine (putAll_without (hM := by decide)).trans ?_
    | with_reducible refine ite_without (fun _ => ?_) (fun _ => ?_)
    | split
    | with_reducible refine fst_without (by assumption) ?_

theorem openGate_without {M : List Piece} {k : Super} {s : State} (hM : sub faultPieces M = true) :
    (openGate k s).without M = s.without M := by
  refine Within.mono (n := faultPieces) ?_ hM
  unfold Within openGate
  repeat' first
    | with_reducible rfl
    | intro _
    | with_reducible refine (modHild_without (h := by decide) ..).trans ?_
    | with_reducible refine (putCommit_without (hM := by decide)).trans ?_
    | with_reducible refine (drainRun_without (hM := by decide)).trans ?_
    | with_reducible refine ite_without (fun _ => ?_) (fun _ => ?_)
    | split

theorem resolveGate_without {M : List Piece} {k : Comb} {m : PredIx} {v : Bool} {u : Super} {s : State} (hM : sub faultPieces M = true) :
    (resolveGate k m v u s).without M = s.without M := by
  refine Within.mono (n := faultPieces) ?_ hM
  unfold Within resolveGate
  (try dsimp only)
  repeat' first
    | with_reducible rfl
    | intro _
    | with_reducible refine (modHild_without (h := by decide) ..).trans ?_
    | with_reducible refine (discardHild_without (hM := by decide)).trans ?_
    | with_reducible refine (openGate_without (hM := by decide)).trans ?_

theorem resolveGates_without {M : List Piece} {k : Comb} {m : PredIx} {v : Bool} {s : State} (hM : sub faultPieces M = true) :
    (resolveGates k m v s).without M = s.without M := by
  refine Within.mono (n := faultPieces) ?_ hM
  unfold Within resolveGates
  repeat' first
    | with_reducible rfl
    | intro _
    | with_reducible refine (resolveGate_without (hM := by decide)).trans ?_
    | with_reducible refine (forEach_without (h := ?_) ..).trans ?_

/-! ### Machine/SeqOps.lean -/

theorem setSreg_without {M : List Piece} {k : Comb} {r : SReg} {v : DWord} {s : State} (hM : sub [.seq] M = true) :
    (setSreg k r v s).without M = s.without M := by
  refine Within.mono (n := [.seq]) ?_ hM
  unfold Within setSreg
  repeat' first
    | with_reducible rfl
    | intro _
    | with_reducible refine (modSeq_without (h := by decide) ..).trans ?_
    | with_reducible refine ite_without (fun _ => ?_) (fun _ => ?_)

theorem semApply_without {M : List Piece} {p : Part} {sem : Nat} {add : Bool} {v : DWord} {s : State} (hM : sub [.seq, .rings, .sems] M = true) :
    (semApply p sem add v s).without M = s.without M := by
  refine Within.mono (n := [.seq, .rings, .sems]) ?_ hM
  unfold Within semApply
  repeat' first
    | with_reducible rfl
    | intro _
    | with_reducible refine (semWrite_without (hM := by decide)).trans ?_

theorem stallWith_without {M : List Piece} {k : Comb} {code : Nat} {s : State} (hM : sub [.seq] M = true) :
    (stallWith k code s).without M = s.without M := by
  refine Within.mono (n := [.seq]) ?_ hM
  unfold Within stallWith
  repeat' first
    | with_reducible rfl
    | intro _
    | with_reducible refine (modSeq_without (h := by decide) ..).trans ?_

theorem illegal_without {M : List Piece} {k : Comb} {s : State} (hM : sub progPieces M = true) :
    (illegal k s).without M = s.without M := by
  refine Within.mono (n := progPieces) ?_ hM
  unfold Within illegal
  repeat' first
    | with_reducible rfl
    | intro _
    | with_reducible refine (programFault_without (hM := by decide)).trans ?_

theorem progViolation_without {M : List Piece} {k : Comb} {addr : Nat} {s : State} (hM : sub progPieces M = true) :
    (progViolation k addr s).without M = s.without M := by
  refine Within.mono (n := progPieces) ?_ hM
  unfold Within progViolation
  repeat' first
    | with_reducible rfl
    | intro _
    | with_reducible refine (programFault_without (hM := by decide)).trans ?_

theorem stepPc_without {M : List Piece} {k : Comb} {next : Int} {s : State} (hM : sub [.seq] M = true) :
    (stepPc k next s).without M = s.without M := by
  refine Within.mono (n := [.seq]) ?_ hM
  unfold Within stepPc
  repeat' first
    | with_reducible rfl
    | intro _
    | with_reducible refine (modSeq_without (h := by decide) ..).trans ?_

theorem issueTo_without {M : List Piece} {k : Comb} {h : PredF} {speculable : Bool} {next : Int} {body : State → State} {s : State} (hbody : ∀ t, (body t).without M = t.without M) (hM : sub progPieces M = true) :
    (issueTo k h speculable next body s).without M = s.without M := by
  unfold issueTo
  (try dsimp only)
  repeat' first
    | with_reducible rfl
    | intro _
    | with_reducible refine (modSeq_without (h := sub_contains hM _ (by decide)) ..).trans ?_
    | with_reducible refine (stallWith_without (hM := sub_trans (by decide) hM)).trans ?_
    | with_reducible refine (illegal_without (hM := sub_trans (by decide) hM)).trans ?_
    | with_reducible refine (stepPc_without (hM := sub_trans (by decide) hM)).trans ?_
    | with_reducible refine (hbody ..).trans ?_
    | with_reducible refine ite_without (fun _ => ?_) (fun _ => ?_)
    | split

theorem issue_without {M : List Piece} {k : Comb} {h : PredF} {speculable : Bool} {body : State → State} {s : State} (hbody : ∀ t, (body t).without M = t.without M) (hM : sub progPieces M = true) :
    (issue k h speculable body s).without M = s.without M := by
  unfold issue
  repeat' first
    | with_reducible rfl
    | intro _
    | with_reducible refine (issueTo_without (hbody := ?_) (hM := sub_trans (by decide) hM)).trans ?_
    | with_reducible refine (hbody ..).trans ?_

theorem issueReg_without {M : List Piece} {k : Comb} {h : PredF} {a : SReg} {v : State → DWord} {s : State} (hM : sub progPieces M = true) :
    (issueReg k h a v s).without M = s.without M := by
  refine Within.mono (n := progPieces) ?_ hM
  unfold Within issueReg
  repeat' first
    | with_reducible rfl
    | intro _
    | with_reducible refine (setSreg_without (hM := by decide)).trans ?_
    | with_reducible refine (issue_without (hbody := ?_) (hM := by decide)).trans ?_

theorem issueIf_without {M : List Piece} {k : Comb} {h : PredF} {speculable : Bool} {check : State → Block} {body : State → State} {s : State} (hbody : ∀ t, (body t).without M = t.without M) (hM : sub progPieces M = true) :
    (issueIf k h speculable check body s).without M = s.without M := by
  unfold issueIf
  (try dsimp only)
  repeat' first
    | with_reducible rfl
    | intro _
    | with_reducible refine (programFault_without (hM := sub_trans (by decide) hM)).trans ?_
    | with_reducible refine (stallWith_without (hM := sub_trans (by decide) hM)).trans ?_
    | with_reducible refine (illegal_without (hM := sub_trans (by decide) hM)).trans ?_
    | with_reducible refine (progViolation_without (hM := sub_trans (by decide) hM)).trans ?_
    | with_reducible refine (issue_without (hbody := ?_) (hM := sub_trans (by decide) hM)).trans ?_
    | with_reducible refine (hbody ..).trans ?_
    | with_reducible refine ite_without (fun _ => ?_) (fun _ => ?_)
    | split

theorem issueNoPen_without {M : List Piece} {k : Comb} {h : PredF} {f : State → State} {s : State} (hf : ∀ t, (f t).without M = t.without M) (hM : sub progPieces M = true) :
    (issueNoPen k h f s).without M = s.without M := by
  unfold issueNoPen
  repeat' first
    | with_reducible rfl
    | intro _
    | with_reducible refine (stallWith_without (hM := sub_trans (by decide) hM)).trans ?_
    | with_reducible refine (illegal_without (hM := sub_trans (by decide) hM)).trans ?_
    | with_reducible refine (hf ..).trans ?_
    | with_reducible refine ite_without (fun _ => ?_) (fun _ => ?_)

theorem progSem_without {M : List Piece} {k : Comb} {h : PredF} {sem : Nat} {add : Bool} {v : DWord} {s : State} (hM : sub [.seq, .rings, .sems] M = true) :
    (progSem k h sem add v s).without M = s.without M := by
  refine Within.mono (n := [.seq, .rings, .sems]) ?_ hM
  unfold Within progSem
  repeat' first
    | with_reducible rfl
    | intro _
    | with_reducible refine (modSeq_without (h := by decide) ..).trans ?_
    | with_reducible refine (semApply_without (hM := by decide)).trans ?_
    | with_reducible refine ite_without (fun _ => ?_) (fun _ => ?_)
    | split

theorem setPred_without {M : List Piece} {k : Comb} {m : PredIx} {v : PState} {a : Arm} {s : State} (hM : sub [.seq] M = true) :
    (setPred k m v a s).without M = s.without M := by
  refine Within.mono (n := [.seq]) ?_ hM
  unfold Within setPred
  repeat' first
    | with_reducible rfl
    | intro _
    | with_reducible refine (modSeq_without (h := by decide) ..).trans ?_

theorem resolvePred_without {M : List Piece} {k : Comb} {m : PredIx} {v : Bool} {s : State} (hM : sub faultPieces M = true) :
    (resolvePred k m v s).without M = s.without M := by
  refine Within.mono (n := faultPieces) ?_ hM
  unfold Within resolvePred
  (try dsimp only)
  repeat' first
    | with_reducible rfl
    | intro _
    | with_reducible refine (modSeq_without (h := by decide) ..).trans ?_
    | with_reducible refine (squashHeld_without (hM := by decide)).trans ?_
    | with_reducible refine (resolveGates_without (hM := by decide)).trans ?_
    | with_reducible refine (setPred_without (hM := by decide)).trans ?_

theorem addVote_without {M : List Piece} {p : Part} {v : VotePart} {s : State} (hM : sub [.router, .partRegs] M = true) :
    (addVote p v s).without M = s.without M := by
  refine Within.mono (n := [.router, .partRegs]) ?_ hM
  unfold Within addVote
  repeat' first
    | with_reducible rfl
    | intro _
    | with_reducible refine (modJob_without (h := by decide) ..).trans ?_
    | with_reducible refine (modPart_without (h := ?_) ..).trans ?_
    | with_reducible refine ite_without (fun _ => ?_) (fun _ => ?_)
    | split
    | rfl

theorem postVote_without {M : List Piece} {k : Comb} {s : State} (hM : sub [.seq, .router, .partRegs] M = true) :
    (postVote k s).without M = s.without M := by
  refine Within.mono (n := [.seq, .router, .partRegs]) ?_ hM
  unfold Within postVote
  repeat' first
    | with_reducible rfl
    | intro _
    | with_reducible refine (setPred_without (hM := by decide)).trans ?_
    | with_reducible refine (addVote_without (hM := by decide)).trans ?_
    | with_reducible refine ite_without (fun _ => ?_) (fun _ => ?_)
    | split

theorem verdictAt_without {M : List Piece} {p : Part} {v : Bool} {s : State} (hM : sub faultPieces M = true) :
    (verdictAt p v s).without M = s.without M := by
  refine Within.mono (n := faultPieces) ?_ hM
  unfold Within verdictAt
  (try dsimp only)
  repeat' first
    | with_reducible rfl
    | intro _
    | with_reducible refine (refillClear_without (hM := by decide)).trans ?_
    | with_reducible refine (resolvePred_without (hM := by decide)).trans ?_
    | with_reducible refine (postVote_without (hM := by decide)).trans ?_
    | with_reducible refine (forEach_without (h := ?_) ..).trans ?_
    | split

theorem startProgram_without {M : List Piece} {k : Comb} {d : RunDesc} {s : State} (hM : sub [.out, .host, .draws, .seq, .combRegs, .evq, .partRegs, .mod] M = true) :
    (startProgram k d s).without M = s.without M := by
  refine Within.mono (n := [.out, .host, .draws, .seq, .combRegs, .evq, .partRegs, .mod]) ?_ hM
  unfold Within startProgram
  (try dsimp only)
  repeat' first
    | with_reducible rfl
    | intro _
    | with_reducible refine (modPart_without (h := ?_) ..).trans ?_
    | with_reducible refine (modSeq_without (h := by decide) ..).trans ?_
    | with_reducible refine (reseed_without (hM := by decide)).trans ?_
    | with_reducible refine ite_without (fun _ => ?_) (fun _ => ?_)
    | split
    | rfl

theorem startNext_without {M : List Piece} {k : Comb} {s : State} (hM : sub [.out, .host, .draws, .seq, .combRegs, .evq, .partRegs, .mod] M = true) :
    (startNext k s).without M = s.without M := by
  refine Within.mono (n := [.out, .host, .draws, .seq, .combRegs, .evq, .partRegs, .mod]) ?_ hM
  unfold Within startNext
  repeat' first
    | with_reducible rfl
    | intro _
    | with_reducible refine (modSeq_without (h := by decide) ..).trans ?_
    | with_reducible refine (startProgram_without (hM := by decide)).trans ?_
    | split

theorem endProgram_without {M : List Piece} {k : Comb} {s : State} (hM : sub [.out, .host, .draws, .seq, .combRegs, .rings, .evq, .partRegs, .mod] M = true) :
    (endProgram k s).without M = s.without M := by
  refine Within.mono (n := [.out, .host, .draws, .seq, .combRegs, .rings, .evq, .partRegs, .mod]) ?_ hM
  unfold Within endProgram
  (try dsimp only)
  repeat' first
    | with_reducible rfl
    | intro _
    | with_reducible refine (modDesc_without (h := by decide) ..).trans ?_
    | with_reducible refine (modSeq_without (h := by decide) ..).trans ?_
    | with_reducible refine (startNext_without (hM := by decide)).trans ?_
    | split

/-! ### Machine/FabricOps.lean -/

theorem setParents_without {M : List Piece} {s : State} (hM : sub [.hum] M = true) :
    (setParents s).without M = s.without M := by
  refine Within.mono (n := [.hum]) ?_ hM
  unfold Within setParents
  (try dsimp only)
  repeat' first
    | with_reducible rfl
    | intro _
    | with_reducible refine (modHum_without (h := by decide) ..).trans ?_
    | with_reducible refine (forEach_without (h := ?_) ..).trans ?_

theorem ewCount_without {M : List Piece} {k : Comb} {m : Fin 7} {n : Nat} {s : State} (hM : sub [.partRegs] M = true) :
    (ewCount k m n s).without M = s.without M := by
  refine Within.mono (n := [.partRegs]) ?_ hM
  unfold Within ewCount
  (try dsimp only)
  repeat' first
    | with_reducible rfl
    | intro _
    | with_reducible refine (modPart_without (h := ?_) ..).trans ?_
    | split
    | rfl

theorem logRefusal_without {M : List Piece} {what : String} {s : State} (hM : sub [.queen] M = true) :
    (logRefusal what s).without M = s.without M := by
  refine Within.mono (n := [.queen]) ?_ hM
  unfold Within logRefusal
  repeat' first
    | with_reducible rfl
    | intro _
    | with_reducible refine (modQueen_without (h := by decide) ..).trans ?_

theorem linkDown_without {M : List Piece} {k : Comb} {p : LPort} {mask : BitVec 56} {s : State} (hM : sub faultPieces M = true) :
    (linkDown k p mask s).without M = s.without M := by
  refine Within.mono (n := faultPieces) ?_ hM
  unfold Within linkDown
  repeat' first
    | with_reducible rfl
    | intro _
    | with_reducible refine (raiseRelay_without (hM := by decide)).trans ?_
    | with_reducible refine (jobFault_without (hM := by decide)).trans ?_
    | with_reducible refine (forEach_without (h := ?_) ..).trans ?_
    | with_reducible refine ite_without (fun _ => ?_) (fun _ => ?_)
    | split

theorem humLosesParent_without {M : List Piece} {k : Comb} {p : LPort} {s : State} (hM : sub [.hum] M = true) :
    (humLosesParent k p s).without M = s.without M := by
  refine Within.mono (n := [.hum]) ?_ hM
  unfold Within humLosesParent
  repeat' first
    | with_reducible rfl
    | intro _
    | with_reducible refine (modHum_without (h := by decide) ..).trans ?_
    | with_reducible refine ite_without (fun _ => ?_) (fun _ => ?_)

theorem strandDown_without {M : List Piece} {k : Comb} {p : LPort} {mask : BitVec 56} {stuck : Bool} {s : State} (hM : sub faultPieces M = true) :
    (strandDown k p mask stuck s).without M = s.without M := by
  refine Within.mono (n := faultPieces) ?_ hM
  unfold Within strandDown
  (try dsimp only)
  repeat' first
    | with_reducible rfl
    | intro _
    | with_reducible refine (modSPort_without (h := by decide) ..).trans ?_
    | with_reducible refine (modRouter_without (h := by decide) ..).trans ?_
    | with_reducible refine (ewCount_without (hM := by decide)).trans ?_
    | with_reducible refine (linkDown_without (hM := by decide)).trans ?_
    | with_reducible refine (humLosesParent_without (hM := by decide)).trans ?_
    | with_reducible refine ite_without (fun _ => ?_) (fun _ => ?_)

theorem modFlow_without {M : List Piece} {k : Comb} {tx : Bool} {i : Nat} {g : FlowRt → FlowRt} {s : State} (hM : sub [.router] M = true) :
    (modFlow k tx i g s).without M = s.without M := by
  refine Within.mono (n := [.router]) ?_ hM
  unfold Within modFlow
  repeat' first
    | with_reducible rfl
    | intro _
    | with_reducible refine (modRouter_without (h := by decide) ..).trans ?_

/-! ### Machine/RunAhead.lean -/

theorem queueFlits_without {M : List Piece} {k : Comb} {i : Nat} {qs : List QFlit} {s : State} (hM : sub [.router] M = true) :
    (queueFlits k i qs s).without M = s.without M := by
  refine Within.mono (n := [.router]) ?_ hM
  unfold Within queueFlits
  repeat' first
    | with_reducible rfl
    | intro _
    | with_reducible refine (modRouter_without (h := by decide) ..).trans ?_

theorem noteRetain_without {M : List Piece} {k : Comb} {b : Block} {s : State} (hM : sub [.seq] M = true) :
    (noteRetain k b s).without M = s.without M := by
  refine Within.mono (n := [.seq]) ?_ hM
  unfold Within noteRetain
  repeat' first
    | with_reducible rfl
    | intro _
    | with_reducible refine (modSeq_without (h := by decide) ..).trans ?_
    | with_reducible refine ite_without (fun _ => ?_) (fun _ => ?_)
    | split

theorem noteMove_without {M : List Piece} {k : Comb} {p : Part} {x : Xfer} {b : Block} {s : State} (hM : sub [.seq, .superRegs, .fns] M = true) :
    (noteMove k p x b s).without M = s.without M := by
  refine Within.mono (n := [.seq, .superRegs, .fns]) ?_ hM
  unfold Within noteMove
  (try dsimp only)
  repeat' first
    | with_reducible rfl
    | intro _
    | with_reducible refine (noteUnlisted_without (hM := by decide)).trans ?_
    | with_reducible refine (noteNoIde_without (hM := by decide)).trans ?_
    | with_reducible refine (noteRetain_without (hM := by decide)).trans ?_
    | with_reducible refine ite_without (fun _ => ?_) (fun _ => ?_)
    | split

theorem moveIssue_without {M : List Piece} {k : Comb} {p : Part} {h : PredF} {blk : Bytes} {f : Fin 4} {s : State} (hM : sub [.seq, .ctx] M = true) :
    (moveIssue k p h blk f s).without M = s.without M := by
  refine Within.mono (n := [.seq, .ctx]) ?_ hM
  unfold Within moveIssue
  (try dsimp only)
  repeat' first
    | with_reducible rfl
    | intro _
    | with_reducible refine (modSeq_without (h := by decide) ..).trans ?_
    | with_reducible refine (chargeClear_without (hM := by decide)).trans ?_
    | with_reducible refine ite_without (fun _ => ?_) (fun _ => ?_)

theorem effMove_without {M : List Piece} {k : Comb} {h : PredF} {b : SReg} {f : Fin 4} {s : State} (hM : sub [.out, .host, .draws, .seq, .cellMem, .cellRun, .combMem, .superMem, .superTree, .superRegs, .hild, .ctx, .rings, .evq, .partRegs, .fns, .mod] M = true) :
    (effMove k h b f s).without M = s.without M := by
  refine Within.mono (n := [.out, .host, .draws, .seq, .cellMem, .cellRun, .combMem, .superMem, .superTree, .superRegs, .hild, .ctx, .rings, .evq, .partRegs, .fns, .mod]) ?_ hM
  unfold Within effMove
  (try dsimp only)
  repeat' first
    | with_reducible rfl
    | intro _
    | with_reducible refine (issueIf_without (hbody := ?_) (hM := by decide)).trans ?_
    | with_reducible refine (noteMove_without (hM := by decide)).trans ?_
    | with_reducible refine (moveIssue_without (hM := by decide)).trans ?_
    | with_reducible refine ite_without (fun _ => ?_) (fun _ => ?_)
    | split

theorem memFault_without {M : List Piece} {k : Comb} {p : Part} {pc : Word} {e : MemErr} {s : State} (hM : sub faultPieces M = true) :
    (memFault k p pc e s).without M = s.without M := by
  refine Within.mono (n := faultPieces) ?_ hM
  unfold Within memFault
  repeat' first
    | with_reducible rfl
    | intro _
    | with_reducible refine (stopPartition_without (hM := by decide)).trans ?_
    | with_reducible refine (programFault_without (hM := by decide)).trans ?_
    | split

theorem awaitAck_without {M : List Piece} {k : Comb} {host : Bool} {issue : Nat} {held : Option Nat} {s : State} (hM : sub [.seq] M = true) :
    (awaitAck k host issue held s).without M = s.without M := by
  refine Within.mono (n := [.seq]) ?_ hM
  unfold Within awaitAck
  repeat' first
    | with_reducible rfl
    | intro _
    | with_reducible refine (modSeq_without (h := by decide) ..).trans ?_

theorem putWrite_without {M : List Piece} {k : Comb} {p : Part} {issue : Nat} {rel : Bool} {sem : Option Nat} {w : HeldKind} {s : State} (hM : sub faultPieces M = true) :
    (putWrite k p issue rel sem w s).1.without M = s.without M := by
  refine Within.mono (n := faultPieces) ?_ hM
  unfold Within putWrite
  repeat' first
    | with_reducible rfl
    | intro _
    | with_reducible refine (hostPutAll_without (hM := by decide)).trans ?_
    | with_reducible refine (ppaWrite_without (hM := by decide)).trans ?_
    | with_reducible refine (semApply_without (hM := by decide)).trans ?_
    | with_reducible refine (queueFlits_without (hM := by decide)).trans ?_
    | with_reducible refine (awaitAck_without (hM := by decide)).trans ?_
    | with_reducible refine ite_without (fun _ => ?_) (fun _ => ?_)
    | split
    | with_reducible refine fst_without (by assumption) ?_

theorem putWrites_without {M : List Piece} {k : Comb} {p : Part} {issue : Nat} {sem : Option Nat} {x4 : List HeldKind} {x5 : State} (hM : sub faultPieces M = true) :
    (putWrites k p issue sem x4 x5).1.without M = x5.without M := by
  refine Within.mono (n := faultPieces) ?_ hM
  unfold Within
  induction x4 generalizing x5 with
  | nil => rfl
  | cons a r ih =>
    unfold putWrites
    repeat' first
      | with_reducible rfl
      | intro _
      | with_reducible refine (putWrite_without (hM := by decide)).trans ?_
      | with_reducible refine (ih ..).trans ?_
      | split
      | with_reducible refine fst_without (by assumption) ?_

theorem effRelease_without {M : List Piece} {k : Comb} {s : State} (hM : sub faultPieces M = true) :
    (effRelease k s).without M = s.without M := by
  refine Within.mono (n := faultPieces) ?_ hM
  unfold Within effRelease
  repeat' first
    | with_reducible rfl
    | intro _
    | with_reducible refine (modSeq_without (h := by decide) ..).trans ?_
    | with_reducible refine (memFault_without (hM := by decide)).trans ?_
    | with_reducible refine (putWrite_without (hM := by decide)).trans ?_
    | with_reducible refine ite_without (fun _ => ?_) (fun _ => ?_)
    | split
    | with_reducible refine fst_without (by assumption) ?_

theorem readRows_without {M : List Piece} {p : Part} {n : Nat} {x2 : List Nat} {x3 : State} (hM : sub faultPieces M = true) :
    (readRows p n x2 x3).1.without M = x3.without M := by
  refine Within.mono (n := faultPieces) ?_ hM
  unfold Within
  induction x2 generalizing x3 with
  | nil => rfl
  | cons a r ih =>
    unfold readRows
    (try dsimp only)
    repeat' first
      | with_reducible rfl
      | intro _
      | with_reducible refine (ppaFetch_without (hM := by decide)).trans ?_
      | with_reducible refine (ih ..).trans ?_
      | split
      | with_reducible refine fst_without (by assumption) ?_

theorem readSrc_without {M : List Piece} {k : Comb} {p : Part} {x : Xfer} {host : Bytes} {s : State} (hM : sub faultPieces M = true) :
    (readSrc k p x host s).1.without M = s.without M := by
  refine Within.mono (n := faultPieces) ?_ hM
  unfold Within readSrc
  (try dsimp only)
  repeat' first
    | with_reducible rfl
    | intro _
    | with_reducible refine (hostFetch_without (hM := by decide)).trans ?_
    | with_reducible refine (readRows_without (hM := by decide)).trans ?_
    | with_reducible refine ite_without (fun _ => ?_) (fun _ => ?_)
    | split

theorem writeLocal_without {M : List Piece} {k : Comb} {x : Xfer} {data : Bytes} {s : State} (hM : sub [.cellMem, .combMem] M = true) :
    (writeLocal k x data s).without M = s.without M := by
  refine Within.mono (n := [.cellMem, .combMem]) ?_ hM
  unfold Within writeLocal
  repeat' first
    | with_reducible rfl
    | intro _
    | with_reducible refine (combWrite_without (hM := by decide)).trans ?_
    | with_reducible refine (cellWrite_without (hM := by decide)).trans ?_
    | with_reducible refine (forEach_without (h := ?_) ..).trans ?_
    | with_reducible refine ite_without (fun _ => ?_) (fun _ => ?_)

theorem writeOut_without {M : List Piece} {k : Comb} {p : Part} {t : Transfer} {x : Xfer} {data : Bytes} {s : State} (hM : sub faultPieces M = true) :
    (writeOut k p t x data s).1.without M = s.without M := by
  refine Within.mono (n := faultPieces) ?_ hM
  unfold Within writeOut
  (try dsimp only)
  repeat' first
    | with_reducible rfl
    | intro _
    | with_reducible refine (modCtx_without (h := by decide) ..).trans ?_
    | with_reducible refine (modSeq_without (h := by decide) ..).trans ?_
    | with_reducible refine (putWrites_without (hM := by decide)).trans ?_
    | with_reducible refine (writeLocal_without (hM := by decide)).trans ?_
    | with_reducible refine ite_without (fun _ => ?_) (fun _ => ?_)
    | split

theorem deliver_without {M : List Piece} {k : Comb} {p : Part} {t : Transfer} {x : Xfer} {data : Bytes} {s : State} (hM : sub faultPieces M = true) :
    (deliver k p t x data s).without M = s.without M := by
  refine Within.mono (n := faultPieces) ?_ hM
  unfold Within deliver
  repeat' first
    | with_reducible rfl
    | intro _
    | with_reducible refine (semApply_without (hM := by decide)).trans ?_
    | with_reducible refine (memFault_without (hM := by decide)).trans ?_
    | with_reducible refine (writeOut_without (hM := by decide)).trans ?_
    | with_reducible refine ite_without (fun _ => ?_) (fun _ => ?_)
    | split
    | with_reducible refine fst_without (by assumption) ?_

theorem cutShort_without {M : List Piece} {k : Comb} {p : Part} {t : Transfer} {x : Xfer} {data : Bytes} {fault : State → State} {s : State} (hfault : ∀ t, (fault t).without M = t.without M) (hM : sub faultPieces M = true) :
    (cutShort k p t x data fault s).without M = s.without M := by
  unfold cutShort
  repeat' first
    | with_reducible rfl
    | intro _
    | with_reducible refine (memFault_without (hM := sub_trans (by decide) hM)).trans ?_
    | with_reducible refine (writeOut_without (hM := sub_trans (by decide) hM)).trans ?_
    | with_reducible refine (hfault ..).trans ?_
    | with_reducible refine ite_without (fun _ => ?_) (fun _ => ?_)
    | split
    | with_reducible refine fst_without (by assumption) ?_

theorem settleXfer_without {M : List Piece} {k : Comb} {p : Part} {t : Transfer} {x : Xfer} {data : Bytes} {s : State} (hM : sub faultPieces M = true) :
    (settleXfer k p t x data s).without M = s.without M := by
  refine Within.mono (n := faultPieces) ?_ hM
  unfold Within settleXfer
  repeat' first
    | with_reducible rfl
    | intro _
    | with_reducible refine (programFault_without (hM := by decide)).trans ?_
    | with_reducible refine (noteUnlisted_without (hM := by decide)).trans ?_
    | with_reducible refine (deliver_without (hM := by decide)).trans ?_
    | with_reducible refine (cutShort_without (hfault := ?_) (hM := by decide)).trans ?_
    | with_reducible refine ite_without (fun _ => ?_) (fun _ => ?_)
    | split

theorem effTransfer_without {M : List Piece} {k : Comb} {f : Fin 4} {host : Bytes} {s : State} (hM : sub faultPieces M = true) :
    (effTransfer k f host s).without M = s.without M := by
  refine Within.mono (n := faultPieces) ?_ hM
  unfold Within effTransfer
  (try dsimp only)
  repeat' first
    | with_reducible rfl
    | intro _
    | with_reducible refine (modSeq_without (h := by decide) ..).trans ?_
    | with_reducible refine (memFault_without (hM := by decide)).trans ?_
    | with_reducible refine (readSrc_without (hM := by decide)).trans ?_
    | with_reducible refine (cutShort_without (hfault := ?_) (hM := by decide)).trans ?_
    | with_reducible refine (settleXfer_without (hM := by decide)).trans ?_
    | with_reducible refine ite_without (fun _ => ?_) (fun _ => ?_)
    | split
    | with_reducible refine fst_without (by assumption) ?_

theorem ownVerdict_without {M : List Piece} {p : Part} {s : State} (hM : sub faultPieces M = true) :
    (ownVerdict p s).without M = s.without M := by
  refine Within.mono (n := faultPieces) ?_ hM
  unfold Within ownVerdict
  repeat' first
    | with_reducible rfl
    | intro _
    | with_reducible refine (modPart_without (h := ?_) ..).trans ?_
    | with_reducible refine (verdictAt_without (hM := by decide)).trans ?_
    | with_reducible refine ite_without (fun _ => ?_) (fun _ => ?_)
    | split
    | rfl

theorem effResolve_without {M : List Piece} {k : Comb} {m : PredIx} {s : State} (hM : sub faultPieces M = true) :
    (effResolve k m s).without M = s.without M := by
  refine Within.mono (n := faultPieces) ?_ hM
  unfold Within effResolve
  repeat' first
    | with_reducible rfl
    | intro _
    | with_reducible refine (resolvePred_without (hM := by decide)).trans ?_
    | with_reducible refine (postVote_without (hM := by decide)).trans ?_
    | with_reducible refine (ownVerdict_without (hM := by decide)).trans ?_
    | with_reducible refine ite_without (fun _ => ?_) (fun _ => ?_)
    | split

end Sys2Proof.Machine
end

