-- ==== Sys2Proof/Laws/FramesWork.lean ====
section
/-! SUPPORT. Frames of the functions that cells, vectors, the hum, rings, descriptors, checkpoints and hive records share:
for each function, the pieces of the state outside of which it changes nothing. -/

namespace Sys2Proof.Machine

/-! ### Machine/Cells.lean -/

theorem noteMet_without {M : List Piece} {k : Comb} {met : Bool} {s : State} (hM : sub [.seq] M = true) :
    (noteMet k met s).without M = s.without M := by
  refine Within.mono (n := [.seq]) ?_ hM
  unfold Within noteMet
  repeat' first
    | with_reducible rfl
    | intro _
    | with_reducible refine (modSeq_without (h := by decide) ..).trans ?_
    | with_reducible refine (doIf_without (h := ?_) ..).trans ?_

theorem applyOut_without {M : List Piece} {x : At} {e : Engine} {o : CellOut} {s : State} (hM : sub [.draws, .seq, .cellMem, .cellRun, .combRegs] M = true) :
    (applyOut x e o s).without M = s.without M := by
  refine Within.mono (n := [.draws, .seq, .cellMem, .cellRun, .combRegs]) ?_ hM
  unfold Within applyOut
  dsimp only
  refine (noteMet_without (by decide)).trans ?_
  refine (takeDraws_without (by decide)).trans ?_
  refine (set_draws_without _ _ _ (by decide)).trans ?_
  refine (modComb_without (h := ?_) ..).trans (modCell_without (h := ?_) ..)
  · exact fun c => rfl
  · exact fun c => by simp [CellState.without]

theorem failHead_without {M : List Piece} {x : At} {b : OpBlock} {bad : BlockBad} {s : State} (hM : sub progPieces M = true) :
    (failHead x b bad s).without M = s.without M := by
  refine Within.mono (n := progPieces) ?_ hM
  unfold Within failHead
  repeat' first
    | with_reducible rfl
    | intro _
    | with_reducible refine (modCell_without (h := ?_) ..).trans ?_
    | with_reducible refine (drawn_without (h := by decide) ..).trans ?_
    | with_reducible refine (programFault_without (hM := by decide)).trans ?_
    | rfl

theorem holdOp_without {M : List Piece} {x : At} {e : Engine} {b : OpBlock} {dests : List Dest} {late : List (Nat × Bytes)} {s : State} (hM : sub [.cellRun] M = true) :
    (holdOp x e b dests late s).without M = s.without M := by
  refine Within.mono (n := [.cellRun]) ?_ hM
  unfold Within holdOp
  repeat' first
    | with_reducible rfl
    | intro _
    | with_reducible refine (modCell_without (h := ?_) ..).trans ?_
    | rfl

theorem meetHead_without {M : List Piece} {x : At} {e : Engine} {code : Nat} {check : State → PCell → Bytes → Option BlockBad} {start : OpBlock → State → State} {s : State} (hstart : ∀ a0 t, (start a0 t).without M = t.without M) (hM : sub progPieces M = true) :
    (meetHead x e code check start s).without M = s.without M := by
  unfold meetHead
  (try dsimp only)
  repeat' first
    | with_reducible rfl
    | intro _
    | with_reducible refine (failHead_without (hM := sub_trans (by decide) hM)).trans ?_
    | with_reducible refine (hstart ..).trans ?_
    | with_reducible refine ite_without (fun _ => ?_) (fun _ => ?_)
    | split

theorem startOp_without {M : List Piece} {x : At} {e : Engine} {code : Nat} {check : State → PCell → Bytes → Option BlockBad} {run : State → PCell → Draws → Bytes → CellOut} {s : State} (hM : sub [.out, .host, .draws, .seq, .cellMem, .cellRun, .combRegs, .combMem, .superMem, .superTree, .hild, .ctx, .rings, .evq, .partRegs, .mod] M = true) :
    (startOp x e code check run s).without M = s.without M := by
  refine Within.mono (n := [.out, .host, .draws, .seq, .cellMem, .cellRun, .combRegs, .combMem, .superMem, .superTree, .hild, .ctx, .rings, .evq, .partRegs, .mod]) ?_ hM
  unfold Within startOp
  (try dsimp only)
  repeat' first
    | with_reducible rfl
    | intro _
    | with_reducible refine (applyOut_without (hM := by decide)).trans ?_
    | with_reducible refine (holdOp_without (hM := by decide)).trans ?_
    | with_reducible refine (meetHead_without (hstart := ?_) (hM := by decide)).trans ?_

theorem effOpComplete_without {M : List Piece} {x : At} {e : Engine} {s : State} (hM : sub faultPieces M = true) :
    (effOpComplete x e s).without M = s.without M := by
  refine Within.mono (n := faultPieces) ?_ hM
  unfold Within effOpComplete
  (try dsimp only)
  repeat' first
    | with_reducible rfl
    | intro _
    | with_reducible refine (modCell_without (h := ?_) ..).trans ?_
    | with_reducible refine (effResolve_without (hM := by decide)).trans ?_
    | with_reducible refine (forEach_without (h := ?_) ..).trans ?_
    | with_reducible refine ite_without (fun _ => ?_) (fun _ => ?_)
    | split
    | rfl

theorem escalateSwap_without {M : List Piece} {p : Part} {k : Comb} {unit : Word} {s : State} (hM : sub faultPieces M = true) :
    (escalateSwap p k unit s).without M = s.without M := by
  refine Within.mono (n := faultPieces) ?_ hM
  unfold Within escalateSwap
  (try dsimp only)
  repeat' first
    | with_reducible rfl
    | intro _
    | with_reducible refine (modEvt_without (h := by decide) ..).trans ?_
    | with_reducible refine (takeOver_without (hM := by decide)).trans ?_
    | with_reducible refine (stopWhole_without (hM := by decide)).trans ?_
    | with_reducible refine (stopInternal_without (hM := by decide)).trans ?_
    | split

theorem cellFailed_without {M : List Piece} {k : Comb} {n : PCell} {s : State} (hM : sub [.out, .host, .combRegs, .fuses, .queen, .mod] M = true) :
    (cellFailed k n s).without M = s.without M := by
  refine Within.mono (n := [.out, .host, .combRegs, .fuses, .queen, .mod]) ?_ hM
  unfold Within cellFailed
  (try dsimp only)
  repeat' first
    | with_reducible rfl
    | intro _
    | with_reducible refine (modComb_without (h := ?_) ..).trans ?_
    | with_reducible refine (recordRepair_without (hM := by decide)).trans ?_
    | rfl

theorem logCellFault_without {M : List Piece} {k : Comb} {n : PCell} {store : BitVec 3} {offset : BitVec 24} {s : State} (hM : sub [.out, .host, .combRegs, .fuses, .queen, .mod] M = true) :
    (logCellFault k n store offset s).without M = s.without M := by
  refine Within.mono (n := [.out, .host, .combRegs, .fuses, .queen, .mod]) ?_ hM
  unfold Within logCellFault
  (try dsimp only)
  repeat' first
    | with_reducible rfl
    | intro _
    | with_reducible refine (modComb_without (h := ?_) ..).trans ?_
    | with_reducible refine (cellFailed_without (hM := by decide)).trans ?_
    | with_reducible refine ite_without (fun _ => ?_) (fun _ => ?_)
    | split
    | rfl

theorem degrade_without {M : List Piece} {k : Comb} {s : State} (hM : sub [.combMap, .combRegs] M = true) :
    (degrade k s).without M = s.without M := by
  refine Within.mono (n := [.combMap, .combRegs]) ?_ hM
  unfold Within degrade
  (try dsimp only)
  repeat' first
    | with_reducible rfl
    | intro _
    | with_reducible refine (modComb_without (h := ?_) ..).trans ?_
    | rfl

theorem testFault_without {M : List Piece} {k : Comb} {n : PCell} {s : State} (hM : sub [.combMap, .combRegs] M = true) :
    (testFault k n s).without M = s.without M := by
  refine Within.mono (n := [.combMap, .combRegs]) ?_ hM
  unfold Within testFault
  (try dsimp only)
  repeat' first
    | with_reducible rfl
    | intro _
    | with_reducible refine (modComb_without (h := ?_) ..).trans ?_
    | with_reducible refine (degrade_without (hM := by decide)).trans ?_
    | with_reducible refine ite_without (fun _ => ?_) (fun _ => ?_)
    | split
    | rfl

theorem serviceFault_without {M : List Piece} {p : Part} {k : Comb} {n : PCell} {two : Bool} {s : State} (hM : sub faultPieces M = true) :
    (serviceFault p k n two s).without M = s.without M := by
  refine Within.mono (n := faultPieces) ?_ hM
  unfold Within serviceFault
  (try dsimp only)
  repeat' first
    | with_reducible rfl
    | intro _
    | with_reducible refine (modComb_without (h := ?_) ..).trans ?_
    | with_reducible refine (stopInternal_without (hM := by decide)).trans ?_
    | with_reducible refine (escalateSwap_without (hM := by decide)).trans ?_
    | with_reducible refine (degrade_without (hM := by decide)).trans ?_
    | with_reducible refine ite_without (fun _ => ?_) (fun _ => ?_)
    | split
    | rfl

theorem effCellFault_without {M : List Piece} {k : Comb} {n : PCell} {store : BitVec 3} {offset : BitVec 24} {also : Option PCell} {s : State} (hM : sub faultPieces M = true) :
    (effCellFault k n store offset also s).without M = s.without M := by
  refine Within.mono (n := faultPieces) ?_ hM
  unfold Within effCellFault
  refine ite_without (fun _ => rfl) (fun _ => ?_)
  dsimp only
  generalize (also.any fun m => decide (m ≠ n) && cellRuns s k m) = two
  have h0 : (if two = true then (also.map fun m => logCellFault k m store offset s).getD s else s).without faultPieces = s.without faultPieces := by
    refine ite_without (fun _ => ?_) (fun _ => rfl)
    cases also with
    | none => rfl
    | some m => exact logCellFault_without (by decide)
  generalize (if two = true then (also.map fun m => logCellFault k m store offset s).getD s else s) = s0 at h0
  split
  · refine ite_without (fun _ => cellFailed_without (by decide)) (fun _ => ite_without (fun _ => ?_) (fun _ => ?_))
    · exact (degrade_without (by decide)).trans ((logCellFault_without (by decide)).trans h0)
    · exact (testFault_without (by decide)).trans ((logCellFault_without (by decide)).trans h0)
  · exact (serviceFault_without (by decide)).trans ((logCellFault_without (by decide)).trans h0)

theorem effSwapDone_without {M : List Piece} {k : Comb} {ok : Bool} {s : State} (hM : sub [.out, .host, .combMap, .cellMem, .cellRun, .combRegs, .partRegs, .fuses, .queen, .mod] M = true) :
    (effSwapDone k ok s).without M = s.without M := by
  refine Within.mono (n := [.out, .host, .combMap, .cellMem, .cellRun, .combRegs, .partRegs, .fuses, .queen, .mod]) ?_ hM
  unfold Within effSwapDone
  split
  · rfl
  · refine ite_without (fun _ => ?_) (fun _ => ?_)
    · refine (ewCount_without (by decide)).trans (modComb_without _ _ _ _ fun c => ?_)
      refine comb_mono (n := [.combMap, .cellMem, .cellRun, .combRegs]) ?_ (by decide)
      exact comb_cells_without rfl rfl rfl
    · exact (degrade_without (by decide)).trans (logCellFault_without (by decide))

theorem rngFailed_without {M : List Piece} {k : Comb} {s : State} (hM : sub [.out, .host, .evq, .mod] M = true) :
    (rngFailed k s).without M = s.without M := by
  refine Within.mono (n := [.out, .host, .evq, .mod]) ?_ hM
  unfold Within rngFailed
  repeat' first
    | with_reducible rfl
    | intro _
    | with_reducible refine (eventToPf0_without (hM := by decide)).trans ?_
    | with_reducible refine (postEvent_without (hM := by decide)).trans ?_
    | split

theorem effStartup_without {M : List Piece} {k : Comb} {raw : BitVec 4096} {s : State} (hM : sub [.out, .host, .draws, .combRegs, .evq, .mod] M = true) :
    (effStartup k raw s).without M = s.without M := by
  refine Within.mono (n := [.out, .host, .draws, .combRegs, .evq, .mod]) ?_ hM
  unfold Within effStartup
  (try dsimp only)
  repeat' first
    | with_reducible rfl
    | intro _
    | with_reducible refine (drawn_without (h := by decide) ..).trans ?_
    | with_reducible refine (modComb_without (h := ?_) ..).trans ?_
    | with_reducible refine (rngFailed_without (hM := by decide)).trans ?_
    | with_reducible refine ite_without (fun _ => ?_) (fun _ => ?_)
    | split
    | rfl

theorem effHealthFail_without {M : List Piece} {k : Comb} {raw : BitVec 1024} {s : State} (hM : sub [.combRegs] M = true) :
    (effHealthFail k raw s).without M = s.without M := by
  refine Within.mono (n := [.combRegs]) ?_ hM
  unfold Within effHealthFail
  (try dsimp only)
  repeat' first
    | with_reducible rfl
    | intro _
    | with_reducible refine (modComb_without (h := ?_) ..).trans ?_
    | with_reducible refine ite_without (fun _ => ?_) (fun _ => ?_)
    | split
    | rfl

/-! ### Machine/VecOps.lean -/

theorem vset_without {M : List Piece} {x : VCtx} {r : VReg} {vs : List Word} {s : State} (hM : sub [.cellMem] M = true) :
    (vset x r vs s).without M = s.without M := by
  refine Within.mono (n := [.cellMem]) ?_ hM
  unfold Within vset
  (try dsimp only)
  repeat' first
    | with_reducible rfl
    | intro _
    | with_reducible refine (modCell_without (h := ?_) ..).trans ?_
    | with_reducible refine ite_without (fun _ => ?_) (fun _ => ?_)
    | split
    | rfl

theorem vres_without {M : List Piece} {x : VCtx} {vd : VReg} {vs : List Word} {s : State} (hM : sub [.cellMem] M = true) :
    (vres x vd vs s).state.without M = s.without M := by
  refine Within.mono (n := [.cellMem]) ?_ hM
  unfold Within vres
  (try dsimp only)
  repeat' first
    | with_reducible rfl
    | intro _
    | with_reducible refine (vset_without (hM := by decide)).trans ?_

theorem vec1_without {M : List Piece} {f : Word → Word} {x : VCtx} {vd va : VReg} {s : State} (hM : sub [.cellMem] M = true) :
    (vec1 f x vd va s).state.without M = s.without M := by
  refine Within.mono (n := [.cellMem]) ?_ hM
  unfold Within vec1
  repeat' first
    | with_reducible rfl
    | intro _
    | with_reducible refine (vres_without (hM := by decide)).trans ?_

theorem vec2_without {M : List Piece} {f : Word → Word → Word} {x : VCtx} {vd va vb : VReg} {s : State} (hM : sub [.cellMem] M = true) :
    (vec2 f x vd va vb s).state.without M = s.without M := by
  refine Within.mono (n := [.cellMem]) ?_ hM
  unfold Within vec2
  repeat' first
    | with_reducible rfl
    | intro _
    | with_reducible refine (vres_without (hM := by decide)).trans ?_

theorem vec3_without {M : List Piece} {f : Word → Word → Word → Word} {x : VCtx} {vd va vb vc : VReg} {s : State} (hM : sub [.cellMem] M = true) :
    (vec3 f x vd va vb vc s).state.without M = s.without M := by
  refine Within.mono (n := [.cellMem]) ?_ hM
  unfold Within vec3
  repeat' first
    | with_reducible rfl
    | intro _
    | with_reducible refine (vres_without (hM := by decide)).trans ?_

theorem vecSatAdd_without {M : List Piece} {x : VCtx} {vd va vb : VReg} {s : State} (hM : sub [.cellMem, .combRegs] M = true) :
    (vecSatAdd x vd va vb s).state.without M = s.without M := by
  refine Within.mono (n := [.cellMem, .combRegs]) ?_ hM
  unfold Within vecSatAdd
  (try dsimp only)
  repeat' first
    | with_reducible rfl
    | intro _
    | with_reducible refine (modComb_without (h := ?_) ..).trans ?_
    | with_reducible refine (vec2_without (hM := by decide)).trans ?_
    | rfl

theorem vecIota_without {M : List Piece} {x : VCtx} {vd : VReg} {imm : Word} {s : State} (hM : sub [.cellMem] M = true) :
    (vecIota x vd imm s).state.without M = s.without M := by
  refine Within.mono (n := [.cellMem]) ?_ hM
  unfold Within vecIota
  repeat' first
    | with_reducible rfl
    | intro _
    | with_reducible refine (vres_without (hM := by decide)).trans ?_

theorem vecMovi_without {M : List Piece} {x : VCtx} {vd : VReg} {imm : Word} {s : State} (hM : sub [.cellMem] M = true) :
    (vecMovi x vd imm s).state.without M = s.without M := by
  refine Within.mono (n := [.cellMem]) ?_ hM
  unfold Within vecMovi
  repeat' first
    | with_reducible rfl
    | intro _
    | with_reducible refine (vres_without (hM := by decide)).trans ?_

theorem spacePut_without {M : List Piece} {x : VCtx} {comb : Bool} {f : Mem → Mem} {s : State} (hM : sub [.cellMem, .combMem] M = true) :
    (spacePut x comb f s).without M = s.without M := by
  refine Within.mono (n := [.cellMem, .combMem]) ?_ hM
  unfold Within spacePut
  repeat' first
    | with_reducible rfl
    | intro _
    | with_reducible refine (modCell_without (h := ?_) ..).trans ?_
    | with_reducible refine (modComb_without (h := ?_) ..).trans ?_
    | with_reducible refine ite_without (fun _ => ?_) (fun _ => ?_)
    | split
    | rfl

theorem vecLoad_without {M : List Piece} {x : VCtx} {vd : VReg} {m : MemArg} {s : State} (hM : sub [.cellMem] M = true) :
    (vecLoad x vd m s).state.without M = s.without M := by
  refine Within.mono (n := [.cellMem]) ?_ hM
  unfold Within vecLoad
  repeat' first
    | with_reducible rfl
    | intro _
    | with_reducible refine (vres_without (hM := by decide)).trans ?_
    | split

theorem vecLoadB_without {M : List Piece} {x : VCtx} {vd : VReg} {m : MemArg} {s : State} (hM : sub [.cellMem] M = true) :
    (vecLoadB x vd m s).state.without M = s.without M := by
  refine Within.mono (n := [.cellMem]) ?_ hM
  unfold Within vecLoadB
  repeat' first
    | with_reducible rfl
    | intro _
    | with_reducible refine (vres_without (hM := by decide)).trans ?_
    | split

theorem storeVals_without {M : List Piece} {x : VCtx} {m : MemArg} {ws : List Word} {s : State} (hM : sub [.combRegs] M = true) :
    (storeVals x m ws s).2.without M = s.without M := by
  unfold storeVals
  dsimp only
  exact ite_without (fun _ => takeDraws_without hM) (fun _ => rfl)

theorem vecStore_without {M : List Piece} {x : VCtx} {va : VReg} {m : MemArg} {s : State} (hM : sub [.seq, .cellMem, .combRegs, .combMem] M = true) :
    (vecStore x va m s).state.without M = s.without M := by
  unfold vecStore
  split
  · rfl
  · have hv := storeVals_without (x := x) (m := m) (ws := vget x va s) (s := s) (sub_trans (by decide) hM)
    generalize storeVals x m (vget x va s) s = r at hv
    obtain ⟨outs, t⟩ := r
    exact (noteMet_without (sub_trans (by decide) hM)).trans ((spacePut_without (sub_trans (by decide) hM)).trans hv)

theorem vecGather_without {M : List Piece} {x : VCtx} {vd va : VReg} {m : MemArg} {s : State} (hM : sub [.cellMem] M = true) :
    (vecGather x vd va m s).state.without M = s.without M := by
  refine Within.mono (n := [.cellMem]) ?_ hM
  unfold Within vecGather
  (try dsimp only)
  repeat' first
    | with_reducible rfl
    | intro _
    | with_reducible refine (vset_without (hM := by decide)).trans ?_
    | with_reducible refine (vres_without (hM := by decide)).trans ?_
    | split

theorem vecScatter_without {M : List Piece} {x : VCtx} {va vb : VReg} {m : MemArg} {s : State} (hM : sub [.seq, .cellMem, .combRegs, .combMem] M = true) :
    (vecScatter x va vb m s).state.without M = s.without M := by
  unfold vecScatter
  split
  · rfl
  · have hc (t : State) (n : Nat) : (t.modComb x.comb fun c => { c with vecCollide := hitN 32 n c.vecCollide }).without M = t.without M :=
      modComb_without M t _ _ fun c => comb_mono (n := [.combRegs]) rfl (sub_trans (by decide) hM)
    generalize indexed m (argSize m) (vget x vb s) = i
    obtain ⟨as, bad⟩ := i
    dsimp only
    have hv := storeVals_without (x := x) (m := m) (ws := (vget x va s).take as.length) (s := s) (sub_trans (by decide) hM)
    generalize storeVals x m ((vget x va s).take as.length) s = r at hv
    obtain ⟨outs, t⟩ := r
    exact (noteMet_without (sub_trans (by decide) hM)).trans ((hc _ _).trans ((spacePut_without (sub_trans (by decide) hM)).trans hv))

theorem vecScatAdd_without {M : List Piece} {x : VCtx} {va vb : VReg} {m : MemArg} {s : State} (hM : sub [.seq, .cellMem, .combMem] M = true) :
    (vecScatAdd x va vb m s).state.without M = s.without M := by
  refine Within.mono (n := [.seq, .cellMem, .combMem]) ?_ hM
  unfold Within vecScatAdd
  (try dsimp only)
  repeat' first
    | with_reducible rfl
    | intro _
    | with_reducible refine (noteMet_without (hM := by decide)).trans ?_
    | with_reducible refine (spacePut_without (hM := by decide)).trans ?_
    | split

theorem vecReduce_without {M : List Piece} {red : Red} {x : VCtx} {va : VReg} {m : MemArg} {s : State} (hM : sub [.seq, .cellMem, .combMem] M = true) :
    (vecReduce red x va m s).state.without M = s.without M := by
  refine Within.mono (n := [.seq, .cellMem, .combMem]) ?_ hM
  unfold Within vecReduce
  (try dsimp only)
  repeat' first
    | with_reducible rfl
    | intro _
    | with_reducible refine (noteMet_without (hM := by decide)).trans ?_
    | with_reducible refine (spacePut_without (hM := by decide)).trans ?_
    | with_reducible refine ite_without (fun _ => ?_) (fun _ => ?_)
    | split

/-! ### Machine/HumCmds.lean -/

theorem effHumCfg_without {M : List Piece} {f : Fn} {v : Word} {s : State} (hM : sub [.hum, .queen, .mod] M = true) :
    (effHumCfg f v s).without M = s.without M := by
  refine Within.mono (n := [.hum, .queen, .mod]) ?_ hM
  unfold Within effHumCfg
  (try dsimp only)
  repeat' first
    | with_reducible rfl
    | intro _
    | with_reducible refine (modHum_without (h := by decide) ..).trans ?_
    | with_reducible refine (modMod_without (h := by decide) ..).trans ?_
    | with_reducible refine (setParents_without (hM := by decide)).trans ?_
    | with_reducible refine (logRefusal_without (hM := by decide)).trans ?_
    | with_reducible refine (forEach_without (h := ?_) ..).trans ?_
    | with_reducible refine ite_without (fun _ => ?_) (fun _ => ?_)

theorem effHumSync_without {M : List Piece} {k : Comb} {port : LPort} {rec' : HumSync} {s : State} (hM : sub [.draws, .hum, .router] M = true) :
    (effHumSync k port rec' s).without M = s.without M := by
  refine Within.mono (n := [.draws, .hum, .router]) ?_ hM
  unfold Within effHumSync
  (try dsimp only)
  repeat' first
    | with_reducible rfl
    | intro _
    | with_reducible refine (modSPort_without (h := by decide) ..).trans ?_
    | with_reducible refine (modHum_without (h := by decide) ..).trans ?_
    | with_reducible refine (drawn_without (h := by decide) ..).trans ?_
    | with_reducible refine ite_without (fun _ => ?_) (fun _ => ?_)

theorem humLoss_without {M : List Piece} {k : Comb} {s : State} (hM : sub faultPieces M = true) :
    (humLoss k s).without M = s.without M := by
  refine Within.mono (n := faultPieces) ?_ hM
  unfold Within humLoss
  (try dsimp only)
  repeat' first
    | with_reducible rfl
    | intro _
    | with_reducible refine (modHum_without (h := by decide) ..).trans ?_
    | with_reducible refine (fabricAbort_without (hM := by decide)).trans ?_
    | split

theorem pollEvents_without {M : List Piece} {f : Fn} {s : State} (hM : sub [.out, .host, .evq, .mod] M = true) :
    (pollEvents f s).without M = s.without M := by
  refine Within.mono (n := [.out, .host, .evq, .mod]) ?_ hM
  unfold Within pollEvents
  (try dsimp only)
  repeat' first
    | with_reducible rfl
    | intro _
    | with_reducible refine (modMod_without (h := by decide) ..).trans ?_
    | with_reducible refine (modPart_without (h := ?_) ..).trans ?_
    | with_reducible refine (hostPut_without (hM := by decide)).trans ?_
    | with_reducible refine ite_without (fun _ => ?_) (fun _ => ?_)
    | split
    | rfl

theorem pollRing_without {M : List Piece} {p : Part} {r : Ring} {s : State} (hM : sub [.out, .host, .rings, .evq, .mod] M = true) :
    (pollRing p r s).without M = s.without M := by
  refine Within.mono (n := [.out, .host, .rings, .evq, .mod]) ?_ hM
  unfold Within pollRing
  (try dsimp only)
  repeat' first
    | with_reducible rfl
    | intro _
    | with_reducible refine (modRing_without (h := by decide) ..).trans ?_
    | with_reducible refine (hostPutAll_without (hM := by decide)).trans ?_
    | with_reducible refine (pollEvents_without (hM := by decide)).trans ?_
    | with_reducible refine (doIf_without (h := ?_) ..).trans ?_
    | with_reducible refine ite_without (fun _ => ?_) (fun _ => ?_)

theorem pollDue_without {M : List Piece} {k : Comb} {p : Part} {n : Nat} {s : State} (hM : sub [.out, .host, .rings, .evq, .mod] M = true) :
    (pollDue k p n s).without M = s.without M := by
  refine Within.mono (n := [.out, .host, .rings, .evq, .mod]) ?_ hM
  unfold Within pollDue
  repeat' first
    | with_reducible rfl
    | intro _
    | with_reducible refine (pollRing_without (hM := by decide)).trans ?_
    | with_reducible refine (forEach_without (h := ?_) ..).trans ?_

theorem effPoll64_without {M : List Piece} {f : Fn} {s : State} (hM : sub [.out, .host, .rings, .evq, .mod] M = true) :
    (effPoll64 f s).without M = s.without M := by
  refine Within.mono (n := [.out, .host, .rings, .evq, .mod]) ?_ hM
  unfold Within effPoll64
  (try dsimp only)
  repeat' first
    | with_reducible rfl
    | intro _
    | with_reducible refine (pollEvents_without (hM := by decide)).trans ?_
    | with_reducible refine (pollRing_without (hM := by decide)).trans ?_
    | with_reducible refine (forEach_without (h := ?_) ..).trans ?_
    | with_reducible refine ite_without (fun _ => ?_) (fun _ => ?_)
    | split

theorem wakeBeat_without {M : List Piece} {k : Comb} {s : State} (hM : sub [.seq] M = true) :
    (wakeBeat k s).without M = s.without M := by
  refine Within.mono (n := [.seq]) ?_ hM
  unfold Within wakeBeat
  repeat' first
    | with_reducible rfl
    | intro _
    | with_reducible refine (modSeq_without (h := by decide) ..).trans ?_
    | with_reducible refine ite_without (fun _ => ?_) (fun _ => ?_)

theorem enterGrid_without {M : List Piece} {p : Part} {t : Timetable} {k : Comb} {s : State} (hM : sub [.hum, .router] M = true) :
    (enterGrid p t k s).without M = s.without M := by
  refine Within.mono (n := [.hum, .router]) ?_ hM
  unfold Within enterGrid
  repeat' first
    | with_reducible rfl
    | intro _
    | with_reducible refine (modHum_without (h := by decide) ..).trans ?_
    | with_reducible refine (modRouter_without (h := by decide) ..).trans ?_

theorem needKey_without {M : List Piece} {p : Part} {k : Comb} {s : State} (hM : sub faultPieces M = true) :
    (needKey p k s).without M = s.without M := by
  refine Within.mono (n := faultPieces) ?_ hM
  unfold Within needKey
  repeat' first
    | with_reducible rfl
    | intro _
    | with_reducible refine (fabricAbort_without (hM := by decide)).trans ?_
    | with_reducible refine ite_without (fun _ => ?_) (fun _ => ?_)
    | split

theorem effGridStart_without {M : List Piece} {p : Part} {s : State} (hM : sub faultPieces M = true) :
    (effGridStart p s).without M = s.without M := by
  refine Within.mono (n := faultPieces) ?_ hM
  unfold Within effGridStart
  (try dsimp only)
  repeat' first
    | with_reducible rfl
    | intro _
    | with_reducible refine (modPart_without (h := ?_) ..).trans ?_
    | with_reducible refine (pollDue_without (hM := by decide)).trans ?_
    | with_reducible refine (enterGrid_without (hM := by decide)).trans ?_
    | with_reducible refine (needKey_without (hM := by decide)).trans ?_
    | with_reducible refine (forEach_without (h := ?_) ..).trans ?_
    | with_reducible refine ite_without (fun _ => ?_) (fun _ => ?_)
    | split
    | rfl

theorem recordSlack_without {M : List Piece} {k : Comb} {x : Nat} {s : State} (hM : sub [.hum, .partRegs] M = true) :
    (recordSlack k x s).without M = s.without M := by
  refine Within.mono (n := [.hum, .partRegs]) ?_ hM
  unfold Within recordSlack
  (try dsimp only)
  repeat' first
    | with_reducible rfl
    | intro _
    | with_reducible refine (modHum_without (h := by decide) ..).trans ?_
    | with_reducible refine (ewCount_without (hM := by decide)).trans ?_
    | with_reducible refine ite_without (fun _ => ?_) (fun _ => ?_)

theorem markOverflow_without {M : List Piece} {p : Part} {k : Comb} {drop : Bool} {qs : List QFlit} {s : State} (hM : sub [.rings] M = true) :
    (markOverflow p k drop qs s).without M = s.without M := by
  refine Within.mono (n := [.rings]) ?_ hM
  unfold Within markOverflow
  (try dsimp only)
  repeat' first
    | with_reducible rfl
    | intro _
    | with_reducible refine (modDesc_without (h := by decide) ..).trans ?_
    | with_reducible refine (forEach_without (h := ?_) ..).trans ?_

theorem endTxFlow_without {M : List Piece} {p : Part} {k : Comb} {fl : Flow} {f : FlowRt} {beat : BitVec 48} {s : State} (hM : sub [.seq, .combMem, .router, .rings, .sems] M = true) :
    (endTxFlow p k fl f beat s).without M = s.without M := by
  refine Within.mono (n := [.seq, .combMem, .router, .rings, .sems]) ?_ hM
  unfold Within endTxFlow
  (try dsimp only)
  repeat' first
    | with_reducible rfl
    | intro _
    | with_reducible refine (modRouter_without (h := by decide) ..).trans ?_
    | with_reducible refine (combWrite_without (hM := by decide)).trans ?_
    | with_reducible refine (semApply_without (hM := by decide)).trans ?_
    | with_reducible refine (markOverflow_without (hM := by decide)).trans ?_
    | with_reducible refine (forEach_without (h := ?_) ..).trans ?_
    | with_reducible refine ite_without (fun _ => ?_) (fun _ => ?_)

theorem endRxFlow_without {M : List Piece} {k : Comb} {fl : Flow} {f : FlowRt} {beat : BitVec 48} {s : State} (hM : sub [.combMem, .router] M = true) :
    (endRxFlow k fl f beat s).without M = s.without M := by
  refine Within.mono (n := [.combMem, .router]) ?_ hM
  unfold Within endRxFlow
  (try dsimp only)
  repeat' first
    | with_reducible rfl
    | intro _
    | with_reducible refine (modRouter_without (h := by decide) ..).trans ?_
    | with_reducible refine (combWrite_without (hM := by decide)).trans ?_
    | with_reducible refine ite_without (fun _ => ?_) (fun _ => ?_)

theorem endFlows_without {M : List Piece} {p : Part} {k : Comb} {beat : BitVec 48} {s : State} (hM : sub [.seq, .combMem, .router, .rings, .sems] M = true) :
    (endFlows p k beat s).without M = s.without M := by
  refine Within.mono (n := [.seq, .combMem, .router, .rings, .sems]) ?_ hM
  unfold Within endFlows
  repeat' first
    | with_reducible rfl
    | intro _
    | with_reducible refine (modRouter_without (h := by decide) ..).trans ?_
    | with_reducible refine (endTxFlow_without (hM := by decide)).trans ?_
    | with_reducible refine (endRxFlow_without (hM := by decide)).trans ?_
    | with_reducible refine (forEach_without (h := ?_) ..).trans ?_
    | with_reducible refine ite_without (fun _ => ?_) (fun _ => ?_)
    | split

theorem recordEnergy_without {M : List Piece} {p : Part} {uj : Word} {s : State} (hM : sub [.partRegs] M = true) :
    (recordEnergy p uj s).without M = s.without M := by
  refine Within.mono (n := [.partRegs]) ?_ hM
  unfold Within recordEnergy
  repeat' first
    | with_reducible rfl
    | intro _
    | with_reducible refine (modPart_without (h := ?_) ..).trans ?_
    | with_reducible refine ite_without (fun _ => ?_) (fun _ => ?_)
    | split
    | rfl

theorem reportEnergy_without {M : List Piece} {p : Part} {uj : Word} {s : State} (hM : sub [.out, .host, .evq, .partRegs, .mod] M = true) :
    (reportEnergy p uj s).without M = s.without M := by
  refine Within.mono (n := [.out, .host, .evq, .partRegs, .mod]) ?_ hM
  unfold Within reportEnergy
  (try dsimp only)
  repeat' first
    | with_reducible rfl
    | intro _
    | with_reducible refine (postEvent_without (hM := by decide)).trans ?_
    | with_reducible refine (recordEnergy_without (hM := by decide)).trans ?_
    | with_reducible refine ite_without (fun _ => ?_) (fun _ => ?_)
    | split

theorem keepMarkers_without {M : List Piece} {p : Part} {k : Comb} {b : Nat} {s : State} (hM : sub [.hum] M = true) :
    (keepMarkers p k b s).without M = s.without M := by
  refine Within.mono (n := [.hum]) ?_ hM
  unfold Within keepMarkers
  repeat' first
    | with_reducible rfl
    | intro _
    | with_reducible refine (modHum_without (h := by decide) ..).trans ?_
    | with_reducible refine (forEach_without (h := ?_) ..).trans ?_

theorem overrun_without {M : List Piece} {k : Comb} {p : Part} {beat : BitVec 48} {b : Nat} {s : State} (hM : sub faultPieces M = true) :
    (overrun k p beat b s).without M = s.without M := by
  refine Within.mono (n := faultPieces) ?_ hM
  unfold Within overrun
  (try dsimp only)
  repeat' first
    | with_reducible rfl
    | intro _
    | with_reducible refine (modHum_without (h := by decide) ..).trans ?_
    | with_reducible refine (jobFault_without (hM := by decide)).trans ?_
    | with_reducible refine (keepMarkers_without (hM := by decide)).trans ?_

theorem lateSample_without {M : List Piece} {k : Comb} {s : State} (hM : sub [.hum, .partRegs] M = true) :
    (lateSample k s).without M = s.without M := by
  refine Within.mono (n := [.hum, .partRegs]) ?_ hM
  unfold Within lateSample
  (try dsimp only)
  repeat' first
    | with_reducible rfl
    | intro _
    | with_reducible refine (modHum_without (h := by decide) ..).trans ?_
    | with_reducible refine (recordSlack_without (hM := by decide)).trans ?_
    | with_reducible refine ite_without (fun _ => ?_) (fun _ => ?_)
    | split

theorem effBoundary_without {M : List Piece} {k : Comb} {uj : Word} {s : State} (hM : sub faultPieces M = true) :
    (effBoundary k uj s).without M = s.without M := by
  refine Within.mono (n := faultPieces) ?_ hM
  unfold Within effBoundary
  (try dsimp only)
  repeat' first
    | with_reducible rfl
    | intro _
    | with_reducible refine (modHum_without (h := by decide) ..).trans ?_
    | with_reducible refine (pollDue_without (hM := by decide)).trans ?_
    | with_reducible refine (wakeBeat_without (hM := by decide)).trans ?_
    | with_reducible refine (recordSlack_without (hM := by decide)).trans ?_
    | with_reducible refine (endFlows_without (hM := by decide)).trans ?_
    | with_reducible refine (reportEnergy_without (hM := by decide)).trans ?_
    | with_reducible refine (overrun_without (hM := by decide)).trans ?_
    | with_reducible refine (lateSample_without (hM := by decide)).trans ?_
    | with_reducible refine ite_without (fun _ => ?_) (fun _ => ?_)
    | split

theorem combSlot_without {M : List Piece} {c : CombState} (hM : sub [.hum, .seq] M = true) :
    (combSlot c).without M = c.without M := by
  refine comb_mono (n := [.hum, .seq]) ?_ hM
  unfold combSlot
  (try dsimp only)
  repeat' first
    | with_reducible rfl
    | intro _
    | with_reducible refine ite_without (fun _ => ?_) (fun _ => ?_)
    | split
    | rfl

theorem passSlot_without {M : List Piece} {s : State} (hM : sub [.hum, .seq] M = true) :
    (passSlot s).without M = s.without M := by
  refine Within.mono (n := [.hum, .seq]) ?_ hM
  unfold Within passSlot
  simp only [State.without]
  congr 1
  exact map_map_eq _ _ _ fun c => combSlot_without (by decide)

/-! ### Machine/Rings.lean -/

theorem startFetch_without {M : List Piece} {p : Part} {r : Ring} {s : State} (hM : sub [.out, .host, .rings] M = true) :
    (startFetch p r s).without M = s.without M := by
  refine Within.mono (n := [.out, .host, .rings]) ?_ hM
  unfold Within startFetch
  (try dsimp only)
  repeat' first
    | with_reducible rfl
    | intro _
    | with_reducible refine (modRing_without (h := by decide) ..).trans ?_
    | with_reducible refine (hostPutAll_without (hM := by decide)).trans ?_
    | with_reducible refine ite_without (fun _ => ?_) (fun _ => ?_)

theorem ringFault_without {M : List Piece} {p : Part} {r : Ring} {s : State} (hM : sub [.out, .host, .rings, .evq, .mod] M = true) :
    (ringFault p r s).without M = s.without M := by
  refine Within.mono (n := [.out, .host, .rings, .evq, .mod]) ?_ hM
  unfold Within ringFault
  repeat' first
    | with_reducible rfl
    | intro _
    | with_reducible refine (modRing_without (h := by decide) ..).trans ?_
    | with_reducible refine (postEvent_without (hM := by decide)).trans ?_

theorem pollAnswer_without {M : List Piece} {p : Part} {r : Ring} {db head : DbWord} {s : State} (hM : sub [.out, .host, .rings, .evq, .mod] M = true) :
    (pollAnswer p r db head s).without M = s.without M := by
  refine Within.mono (n := [.out, .host, .rings, .evq, .mod]) ?_ hM
  unfold Within pollAnswer
  (try dsimp only)
  repeat' first
    | with_reducible rfl
    | intro _
    | with_reducible refine (modRing_without (h := by decide) ..).trans ?_
    | with_reducible refine (startFetch_without (hM := by decide)).trans ?_
    | with_reducible refine (ringFault_without (hM := by decide)).trans ?_
    | with_reducible refine ite_without (fun _ => ?_) (fun _ => ?_)

theorem effDoorbell_without {M : List Piece} {src : PollSrc} {db head : DbWord} {s : State} (hM : sub [.out, .host, .rings, .evq, .mod] M = true) :
    (effDoorbell src db head s).without M = s.without M := by
  refine Within.mono (n := [.out, .host, .rings, .evq, .mod]) ?_ hM
  unfold Within effDoorbell
  (try dsimp only)
  repeat' first
    | with_reducible rfl
    | intro _
    | with_reducible refine (modMod_without (h := by decide) ..).trans ?_
    | with_reducible refine (modPart_without (h := ?_) ..).trans ?_
    | with_reducible refine (hostArrived_without (hM := by decide)).trans ?_
    | with_reducible refine (pollAnswer_without (hM := by decide)).trans ?_
    | with_reducible refine ite_without (fun _ => ?_) (fun _ => ?_)
    | split
    | rfl

theorem effFetchDone_without {M : List Piece} {p : Part} {r : Ring} {descs : List Bytes} {s : State} (hM : sub [.out, .host, .rings, .partRegs] M = true) :
    (effFetchDone p r descs s).without M = s.without M := by
  refine Within.mono (n := [.out, .host, .rings, .partRegs]) ?_ hM
  unfold Within effFetchDone
  (try dsimp only)
  repeat' first
    | with_reducible rfl
    | intro _
    | with_reducible refine (modPart_without (h := ?_) ..).trans ?_
    | with_reducible refine (hostArrived_without (hM := by decide)).trans ?_
    | with_reducible refine ite_without (fun _ => ?_) (fun _ => ?_)
    | split
    | rfl

theorem effComplete_without {M : List Piece} {p : Part} {r : Ring} {idx : Word} {s : State} (hM : sub [.out, .host, .seq, .rings, .sems] M = true) :
    (effComplete p r idx s).without M = s.without M := by
  refine Within.mono (n := [.out, .host, .seq, .rings, .sems]) ?_ hM
  unfold Within effComplete
  repeat' first
    | with_reducible rfl
    | intro _
    | with_reducible refine (writeRecord_without (hM := by decide)).trans ?_
    | with_reducible refine ite_without (fun _ => ?_) (fun _ => ?_)
    | split

theorem writeSqCfg_without {M : List Piece} {p : Part} {r : Ring} {cfg : Word} {s : State} (hM : sub [.rings] M = true) :
    (writeSqCfg p r cfg s).without M = s.without M := by
  refine Within.mono (n := [.rings]) ?_ hM
  unfold Within writeSqCfg
  (try dsimp only)
  repeat' first
    | with_reducible rfl
    | intro _
    | with_reducible refine (modRing_without (h := by decide) ..).trans ?_
    | with_reducible refine ite_without (fun _ => ?_) (fun _ => ?_)

theorem writeEqCfg_without {M : List Piece} {f : Fn} {cfg : Word} {s : State} (hM : sub [.evq, .mod] M = true) :
    (writeEqCfg f cfg s).without M = s.without M := by
  refine Within.mono (n := [.evq, .mod]) ?_ hM
  unfold Within writeEqCfg
  repeat' first
    | with_reducible rfl
    | intro _
    | with_reducible refine (modMod_without (h := by decide) ..).trans ?_
    | with_reducible refine (modPart_without (h := ?_) ..).trans ?_
    | with_reducible refine ite_without (fun _ => ?_) (fun _ => ?_)
    | split
    | rfl

/-! ### Machine/DescOps.lean -/

theorem judgeContext_without {M : List Piece} {p : Part} {s : State} (hM : sub [.ctx] M = true) :
    (judgeContext p s).without M = s.without M := by
  refine Within.mono (n := [.ctx]) ?_ hM
  unfold Within judgeContext
  repeat' first
    | with_reducible rfl
    | intro _
    | with_reducible refine (modCtx_without (h := by decide) ..).trans ?_
    | with_reducible refine ite_without (fun _ => ?_) (fun _ => ?_)
    | split

theorem judgeComb_without {M : List Piece} {k : Comb} {s : State} (hM : sub [.ctx] M = true) :
    (judgeComb k s).without M = s.without M := by
  refine Within.mono (n := [.ctx]) ?_ hM
  unfold Within judgeComb
  repeat' first
    | with_reducible rfl
    | intro _
    | with_reducible refine (judgeContext_without (hM := by decide)).trans ?_
    | split

theorem effStart_without {M : List Piece} {p : Part} {r : Ring} {s : State} (hM : sub [.rings] M = true) :
    (effStart p r s).without M = s.without M := by
  refine Within.mono (n := [.rings]) ?_ hM
  unfold Within effStart
  (try dsimp only)
  repeat' first
    | with_reducible rfl
    | intro _
    | with_reducible refine (modRing_without (h := by decide) ..).trans ?_
    | with_reducible refine (modDesc_without (h := by decide) ..).trans ?_
    | with_reducible refine (finish_without (hM := by decide)).trans ?_
    | split

theorem activate_without {M : List Piece} {p : Part} {r : Ring} {idx : Word} {f : Desc → Desc} {s : State} (hM : sub [.rings] M = true) :
    (activate p r idx f s).without M = s.without M := by
  refine Within.mono (n := [.rings]) ?_ hM
  unfold Within activate
  repeat' first
    | with_reducible rfl
    | intro _
    | with_reducible refine (modDesc_without (h := by decide) ..).trans ?_

theorem failMem_without {M : List Piece} {p : Part} {r : Ring} {idx : Word} {e : MemErr} {s : State} (hM : sub faultPieces M = true) :
    (failMem p r idx e s).without M = s.without M := by
  refine Within.mono (n := faultPieces) ?_ hM
  unfold Within failMem
  repeat' first
    | with_reducible rfl
    | intro _
    | with_reducible refine (failDesc_without (hM := by decide)).trans ?_

/-! ### Machine/Descr.lean -/

theorem computeOn_without {M : List Piece} {d : RunDesc} {k : Comb} {s : State} (hM : sub [.out, .host, .draws, .seq, .combRegs, .evq, .partRegs, .mod] M = true) :
    (computeOn d k s).without M = s.without M := by
  refine Within.mono (n := [.out, .host, .draws, .seq, .combRegs, .evq, .partRegs, .mod]) ?_ hM
  unfold Within computeOn
  repeat' first
    | with_reducible rfl
    | intro _
    | with_reducible refine (modSeq_without (h := by decide) ..).trans ?_
    | with_reducible refine (startProgram_without (hM := by decide)).trans ?_
    | with_reducible refine ite_without (fun _ => ?_) (fun _ => ?_)

theorem effCompute_without {M : List Piece} {p : Part} {r : Ring} {s : State} (hM : sub faultPieces M = true) :
    (effCompute p r s).without M = s.without M := by
  refine Within.mono (n := faultPieces) ?_ hM
  unfold Within effCompute
  (try dsimp only)
  repeat' first
    | with_reducible rfl
    | intro _
    | with_reducible refine (failDesc_without (hM := by decide)).trans ?_
    | with_reducible refine (ppaFetch_without (hM := by decide)).trans ?_
    | with_reducible refine (activate_without (hM := by decide)).trans ?_
    | with_reducible refine (failMem_without (hM := by decide)).trans ?_
    | with_reducible refine (computeOn_without (hM := by decide)).trans ?_
    | with_reducible refine (forEach_without (h := ?_) ..).trans ?_
    | with_reducible refine ite_without (fun _ => ?_) (fun _ => ?_)
    | split
    | with_reducible refine fst_without (by assumption) ?_

theorem copyPut_without {M : List Piece} {p : Part} {k : Comb} {space a : Nat} {data : Bytes} {s : State} (hM : sub faultPieces M = true) :
    (copyPut p k space a data s).1.without M = s.without M := by
  refine Within.mono (n := faultPieces) ?_ hM
  unfold Within copyPut
  repeat' first
    | with_reducible rfl
    | intro _
    | with_reducible refine (combWrite_without (hM := by decide)).trans ?_
    | with_reducible refine (ppaWrite_without (hM := by decide)).trans ?_
    | with_reducible refine ite_without (fun _ => ?_) (fun _ => ?_)
    | split

theorem copyEnd_without {M : List Piece} {p : Part} {r : Ring} {d : Desc} {data : Bytes} {err : Option MemErr} {s : State} (hM : sub faultPieces M = true) :
    (copyEnd p r d data err s).without M = s.without M := by
  refine Within.mono (n := faultPieces) ?_ hM
  unfold Within copyEnd
  repeat' first
    | with_reducible rfl
    | intro _
    | with_reducible refine (finish_without (hM := by decide)).trans ?_
    | with_reducible refine (failMem_without (hM := by decide)).trans ?_
    | with_reducible refine (copyPut_without (hM := by decide)).trans ?_
    | split
    | with_reducible refine fst_without (by assumption) ?_

theorem copyHost_without {M : List Piece} {p : Part} {r : Ring} {d : Desc} {host : Bytes} {s : State} (hM : sub faultPieces M = true) :
    (copyHost p r d host s).without M = s.without M := by
  refine Within.mono (n := faultPieces) ?_ hM
  unfold Within copyHost
  (try dsimp only)
  repeat' first
    | with_reducible rfl
    | intro _
    | with_reducible refine (failDesc_without (hM := by decide)).trans ?_
    | with_reducible refine (noteUnlisted_without (hM := by decide)).trans ?_
    | with_reducible refine (ppaPut_without (hM := by decide)).trans ?_
    | with_reducible refine (failMem_without (hM := by decide)).trans ?_
    | with_reducible refine (copyEnd_without (hM := by decide)).trans ?_
    | with_reducible refine ite_without (fun _ => ?_) (fun _ => ?_)
    | split

theorem effCopy_without {M : List Piece} {p : Part} {r : Ring} {host : Bytes} {s : State} (hM : sub faultPieces M = true) :
    (effCopy p r host s).without M = s.without M := by
  refine Within.mono (n := faultPieces) ?_ hM
  unfold Within effCopy
  (try dsimp only)
  repeat' first
    | with_reducible rfl
    | intro _
    | with_reducible refine (hostFetch_without (hM := by decide)).trans ?_
    | with_reducible refine (ppaFetch_without (hM := by decide)).trans ?_
    | with_reducible refine (copyEnd_without (hM := by decide)).trans ?_
    | with_reducible refine (copyHost_without (hM := by decide)).trans ?_
    | with_reducible refine ite_without (fun _ => ?_) (fun _ => ?_)
    | split
    | with_reducible refine fst_without (by assumption) ?_

theorem effFabric_without {M : List Piece} {p : Part} {r : Ring} {s : State} (hM : sub faultPieces M = true) :
    (effFabric p r s).without M = s.without M := by
  refine Within.mono (n := faultPieces) ?_ hM
  unfold Within effFabric
  (try dsimp only)
  repeat' first
    | with_reducible rfl
    | intro _
    | with_reducible refine (failDesc_without (hM := by decide)).trans ?_
    | with_reducible refine (ppaFetch_without (hM := by decide)).trans ?_
    | with_reducible refine (queueFlits_without (hM := by decide)).trans ?_
    | with_reducible refine (activate_without (hM := by decide)).trans ?_
    | with_reducible refine (failMem_without (hM := by decide)).trans ?_
    | with_reducible refine ite_without (fun _ => ?_) (fun _ => ?_)
    | split
    | with_reducible refine fst_without (by assumption) ?_

theorem effUpdate_without {M : List Piece} {p : Part} {r : Ring} {s : State} (hM : sub [.hild, .rings] M = true) :
    (effUpdate p r s).without M = s.without M := by
  refine Within.mono (n := [.hild, .rings]) ?_ hM
  unfold Within effUpdate
  (try dsimp only)
  repeat' first
    | with_reducible rfl
    | intro _
    | with_reducible refine (modHild_without (h := by decide) ..).trans ?_
    | with_reducible refine (activate_without (hM := by decide)).trans ?_
    | with_reducible refine (forEach_without (h := ?_) ..).trans ?_
    | with_reducible refine ite_without (fun _ => ?_) (fun _ => ?_)
    | split

theorem syncWrite_without {M : List Piece} {p : Part} {r : Ring} {op : Nat} {s : State} (hM : sub [.seq, .rings, .sems] M = true) :
    (syncWrite p r op s).without M = s.without M := by
  refine Within.mono (n := [.seq, .rings, .sems]) ?_ hM
  unfold Within syncWrite
  repeat' first
    | with_reducible rfl
    | intro _
    | with_reducible refine (finish_without (hM := by decide)).trans ?_
    | with_reducible refine (semApply_without (hM := by decide)).trans ?_
    | split

theorem syncWait_without {M : List Piece} {p : Part} {r : Ring} {op : Nat} {s : State} (hM : sub [.rings] M = true) :
    (syncWait p r op s).without M = s.without M := by
  refine Within.mono (n := [.rings]) ?_ hM
  unfold Within syncWait
  (try dsimp only)
  repeat' first
    | with_reducible rfl
    | intro _
    | with_reducible refine (modRing_without (h := by decide) ..).trans ?_
    | with_reducible refine (finish_without (hM := by decide)).trans ?_
    | with_reducible refine (activate_without (hM := by decide)).trans ?_
    | with_reducible refine ite_without (fun _ => ?_) (fun _ => ?_)
    | split

theorem effFence_without {M : List Piece} {p : Part} {r : Ring} {s : State} (hM : sub [.rings] M = true) :
    (effFence p r s).without M = s.without M := by
  refine Within.mono (n := [.rings]) ?_ hM
  unfold Within effFence
  repeat' first
    | with_reducible rfl
    | intro _
    | with_reducible refine (finish_without (hM := by decide)).trans ?_
    | with_reducible refine (activate_without (hM := by decide)).trans ?_
    | split

theorem effEgress_without {M : List Piece} {p : Part} {r : Ring} {s : State} (hM : sub faultPieces M = true) :
    (effEgress p r s).without M = s.without M := by
  refine Within.mono (n := faultPieces) ?_ hM
  unfold Within effEgress
  (try dsimp only)
  repeat' first
    | with_reducible rfl
    | intro _
    | with_reducible refine (modCtx_without (h := by decide) ..).trans ?_
    | with_reducible refine (hostPutAll_without (hM := by decide)).trans ?_
    | with_reducible refine (finish_without (hM := by decide)).trans ?_
    | with_reducible refine (failDesc_without (hM := by decide)).trans ?_
    | with_reducible refine (ppaFetch_without (hM := by decide)).trans ?_
    | with_reducible refine (noteNoIde_without (hM := by decide)).trans ?_
    | with_reducible refine (chargeClear_without (hM := by decide)).trans ?_
    | with_reducible refine (failMem_without (hM := by decide)).trans ?_
    | with_reducible refine ite_without (fun _ => ?_) (fun _ => ?_)
    | split
    | with_reducible refine fst_without (by assumption) ?_

/-! ### Machine/Ckpt.lean -/

theorem touchCommits_without {M : List Piece} {p : Part} {x1 : List Super} {x2 : State} (hM : sub faultPieces M = true) :
    (touchCommits p x1 x2).without M = x2.without M := by
  refine Within.mono (n := faultPieces) ?_ hM
  unfold Within
  induction x1 generalizing x2 with
  | nil => rfl
  | cons a r ih =>
    unfold touchCommits
    (try dsimp only)
    repeat' first
      | with_reducible rfl
      | intro _
      | with_reducible refine (ppaTouch_without (hM := by decide)).trans ?_
      | with_reducible refine (ih ..).trans ?_
      | split

theorem readCommits_without {M : List Piece} {p : Part} {ks : List Super} {s : State} (hM : sub faultPieces M = true) :
    (readCommits p ks s).1.without M = s.without M := by
  refine Within.mono (n := faultPieces) ?_ hM
  unfold Within readCommits
  (try dsimp only)
  repeat' first
    | with_reducible rfl
    | intro _
    | with_reducible refine (touchCommits_without (hM := by decide)).trans ?_

theorem unblockCkpt_without {M : List Piece} {p : Part} {s : State} (hM : sub [.rings] M = true) :
    (unblockCkpt p s).without M = s.without M := by
  refine Within.mono (n := [.rings]) ?_ hM
  unfold Within unblockCkpt
  repeat' first
    | with_reducible rfl
    | intro _
    | with_reducible refine (modPart_without (h := ?_) ..).trans ?_
    | rfl

theorem reportCkpt_without {M : List Piece} {p : Part} {ring : Option RunDesc} {st : Byte} {d1 : Word} {d2 : BitVec 56} {step : DWord} {s : State} (hM : sub faultPieces M = true) :
    (reportCkpt p ring st d1 d2 step s).without M = s.without M := by
  refine Within.mono (n := faultPieces) ?_ hM
  unfold Within reportCkpt
  (try dsimp only)
  repeat' first
    | with_reducible rfl
    | intro _
    | with_reducible refine (postEvent_without (hM := by decide)).trans ?_
    | with_reducible refine (stopPartition_without (hM := by decide)).trans ?_
    | with_reducible refine (failDesc_without (hM := by decide)).trans ?_
    | with_reducible refine ite_without (fun _ => ?_) (fun _ => ?_)
    | split

theorem releaseHold_without {M : List Piece} {p : Part} {s : State} (hM : sub faultPieces M = true) :
    (releaseHold p s).without M = s.without M := by
  refine Within.mono (n := faultPieces) ?_ hM
  unfold Within releaseHold
  repeat' first
    | with_reducible rfl
    | intro _
    | with_reducible refine (openGate_without (hM := by decide)).trans ?_
    | with_reducible refine (forEach_without (h := ?_) ..).trans ?_

theorem endCkpt_without {M : List Piece} {p : Part} {st : Byte} {d1 : Word} {d2 : BitVec 56} {s : State} (hM : sub faultPieces M = true) :
    (endCkpt p st d1 d2 s).without M = s.without M := by
  refine Within.mono (n := faultPieces) ?_ hM
  unfold Within endCkpt
  (try dsimp only)
  repeat' first
    | with_reducible rfl
    | intro _
    | with_reducible refine (modPart_without (h := ?_) ..).trans ?_
    | with_reducible refine (unblockCkpt_without (hM := by decide)).trans ?_
    | with_reducible refine (reportCkpt_without (hM := by decide)).trans ?_
    | with_reducible refine (releaseHold_without (hM := by decide)).trans ?_
    | split
    | rfl

theorem endCkptErr_without {M : List Piece} {p : Part} {e : MemErr} {s : State} (hM : sub faultPieces M = true) :
    (endCkptErr p e s).without M = s.without M := by
  refine Within.mono (n := faultPieces) ?_ hM
  unfold Within endCkptErr
  repeat' first
    | with_reducible rfl
    | intro _
    | with_reducible refine (endCkpt_without (hM := by decide)).trans ?_

theorem clearRestore_without {M : List Piece} {p : Part} {s : State} (hM : sub [.partRegs] M = true) :
    (clearRestore p s).without M = s.without M := by
  refine Within.mono (n := [.partRegs]) ?_ hM
  unfold Within clearRestore
  repeat' first
    | with_reducible rfl
    | intro _
    | with_reducible refine (modPart_without (h := ?_) ..).trans ?_
    | rfl

theorem endRestore_without {M : List Piece} {p : Part} {st : Byte} {d1 : Word} {d2 : BitVec 56} {s : State} (hM : sub faultPieces M = true) :
    (endRestore p st d1 d2 s).without M = s.without M := by
  refine Within.mono (n := faultPieces) ?_ hM
  unfold Within endRestore
  repeat' first
    | with_reducible rfl
    | intro _
    | with_reducible refine (failDesc_without (hM := by decide)).trans ?_
    | with_reducible refine (clearRestore_without (hM := by decide)).trans ?_
    | split

theorem abortRestore_without {M : List Piece} {p : Part} {st : Byte} {d1 : Word} {d2 : BitVec 56} {s : State} (hM : sub faultPieces M = true) :
    (abortRestore p st d1 d2 s).without M = s.without M := by
  refine Within.mono (n := faultPieces) ?_ hM
  unfold Within abortRestore
  repeat' first
    | with_reducible rfl
    | intro _
    | with_reducible refine (undefinePlan_without (hM := by decide)).trans ?_
    | with_reducible refine (endRestore_without (hM := by decide)).trans ?_
    | split

theorem writeShards_without {M : List Piece} {p : Part} {c : Ckpt} {key : BitVec 256} {job : Word} {shape : BitVec 512} {x5 : List (Shard × Nat)} {x6 : Nat} {x7 : List ShardEnt} {x8 : State} (hM : sub faultPieces M = true) :
    (writeShards p c key job shape x5 x6 x7 x8).1.without M = x8.without M := by
  refine Within.mono (n := faultPieces) ?_ hM
  unfold Within
  induction x5 generalizing x6 x7 x8 with
  | nil => rfl
  | cons a r ih =>
    unfold writeShards
    (try dsimp only)
    repeat' first
      | with_reducible rfl
      | intro _
      | with_reducible refine (hostPutAll_without (hM := by decide)).trans ?_
      | with_reducible refine (ppaFetch_without (hM := by decide)).trans ?_
      | with_reducible refine (ih ..).trans ?_
      | split
      | with_reducible refine fst_without (by assumption) ?_

theorem runShards_without {M : List Piece} {p : Part} {src : List (Shard × Nat)} {s : State} (hM : sub faultPieces M = true) :
    (runShards p src s).without M = s.without M := by
  refine Within.mono (n := faultPieces) ?_ hM
  unfold Within runShards
  (try dsimp only)
  repeat' first
    | with_reducible rfl
    | intro _
    | with_reducible refine (modPart_without (h := ?_) ..).trans ?_
    | with_reducible refine (noteNoIde_without (hM := by decide)).trans ?_
    | with_reducible refine (endCkpt_without (hM := by decide)).trans ?_
    | with_reducible refine (endCkptErr_without (hM := by decide)).trans ?_
    | with_reducible refine (writeShards_without (hM := by decide)).trans ?_
    | with_reducible refine ite_without (fun _ => ?_) (fun _ => ?_)
    | split
    | with_reducible refine fst_without (by assumption) ?_
    | rfl

theorem beginShards_without {M : List Piece} {p : Part} {s : State} (hM : sub faultPieces M = true) :
    (beginShards p s).without M = s.without M := by
  refine Within.mono (n := faultPieces) ?_ hM
  unfold Within beginShards
  (try dsimp only)
  repeat' first
    | with_reducible rfl
    | intro _
    | with_reducible refine (modPart_without (h := ?_) ..).trans ?_
    | with_reducible refine (runShards_without (hM := by decide)).trans ?_
    | with_reducible refine ite_without (fun _ => ?_) (fun _ => ?_)
    | split
    | with_reducible refine fst_without (by assumption) ?_
    | rfl

theorem fixStep_without {M : List Piece} {p : Part} {ring : Option RunDesc} {auto : Nat} {salvage : Bool} {list : Bytes} {want : DWord} {s : State} (hM : sub faultPieces M = true) :
    (fixStep p ring auto salvage list want s).without M = s.without M := by
  refine Within.mono (n := faultPieces) ?_ hM
  unfold Within fixStep
  (try dsimp only)
  repeat' first
    | with_reducible rfl
    | intro _
    | with_reducible refine (drawn_without (h := by decide) ..).trans ?_
    | with_reducible refine (modPart_without (h := ?_) ..).trans ?_
    | with_reducible refine (readCommits_without (hM := by decide)).trans ?_
    | with_reducible refine (reportCkpt_without (hM := by decide)).trans ?_
    | with_reducible refine (endCkpt_without (hM := by decide)).trans ?_
    | with_reducible refine (beginShards_without (hM := by decide)).trans ?_
    | with_reducible refine ite_without (fun _ => ?_) (fun _ => ?_)
    | split
    | with_reducible refine fst_without (by assumption) ?_
    | rfl

theorem startCkpt_without {M : List Piece} {p : Part} {ring : Option RunDesc} {auto count : Nat} {list : Bytes} {want : DWord} {s : State} (hM : sub faultPieces M = true) :
    (startCkpt p ring auto count list want s).without M = s.without M := by
  refine Within.mono (n := faultPieces) ?_ hM
  unfold Within startCkpt
  (try dsimp only)
  repeat' first
    | with_reducible rfl
    | intro _
    | with_reducible refine (drawn_without (h := by decide) ..).trans ?_
    | with_reducible refine (reportCkpt_without (hM := by decide)).trans ?_
    | with_reducible refine (fixStep_without (hM := by decide)).trans ?_
    | with_reducible refine ite_without (fun _ => ?_) (fun _ => ?_)
    | split

theorem takeStanding_without {M : List Piece} {p : Part} {c : Ckpt} {list : Bytes} {s : State} (hM : sub faultPieces M = true) :
    (takeStanding p c list s).without M = s.without M := by
  refine Within.mono (n := faultPieces) ?_ hM
  unfold Within takeStanding
  (try dsimp only)
  repeat' first
    | with_reducible rfl
    | intro _
    | with_reducible refine (modPart_without (h := ?_) ..).trans ?_
    | with_reducible refine (hostArrived_without (hM := by decide)).trans ?_
    | with_reducible refine (unblockCkpt_without (hM := by decide)).trans ?_
    | with_reducible refine (startCkpt_without (hM := by decide)).trans ?_
    | with_reducible refine ite_without (fun _ => ?_) (fun _ => ?_)
    | split
    | rfl

theorem effCheckpoint_without {M : List Piece} {p : Part} {r : Ring} {list : Bytes} {s : State} (hM : sub faultPieces M = true) :
    (effCheckpoint p r list s).without M = s.without M := by
  refine Within.mono (n := faultPieces) ?_ hM
  unfold Within effCheckpoint
  repeat' first
    | with_reducible rfl
    | intro _
    | with_reducible refine (modDesc_without (h := by decide) ..).trans ?_
    | with_reducible refine (modRing_without (h := by decide) ..).trans ?_
    | with_reducible refine (hostFetch_without (hM := by decide)).trans ?_
    | with_reducible refine (failDesc_without (hM := by decide)).trans ?_
    | with_reducible refine (noteNoIde_without (hM := by decide)).trans ?_
    | with_reducible refine (activate_without (hM := by decide)).trans ?_
    | with_reducible refine (startCkpt_without (hM := by decide)).trans ?_
    | with_reducible refine (takeStanding_without (hM := by decide)).trans ?_
    | with_reducible refine ite_without (fun _ => ?_) (fun _ => ?_)
    | split

theorem autoCkpt_without {M : List Piece} {p : Part} {auto : Nat} {s : State} (hM : sub faultPieces M = true) :
    (autoCkpt p auto s).without M = s.without M := by
  refine Within.mono (n := faultPieces) ?_ hM
  unfold Within autoCkpt
  (try dsimp only)
  repeat' first
    | with_reducible rfl
    | intro _
    | with_reducible refine (drawn_without (h := by decide) ..).trans ?_
    | with_reducible refine (modPart_without (h := ?_) ..).trans ?_
    | with_reducible refine (hostPutAll_without (hM := by decide)).trans ?_
    | with_reducible refine (noteNoIde_without (hM := by decide)).trans ?_
    | with_reducible refine (reportCkpt_without (hM := by decide)).trans ?_
    | with_reducible refine ite_without (fun _ => ?_) (fun _ => ?_)
    | split
    | rfl

theorem ckptTrigger_without {M : List Piece} {p : Part} {cause : Byte} {k : Comb} {detail : BitVec 56} {s : State} (hM : sub faultPieces M = true) :
    (ckptTrigger p cause k detail s).without M = s.without M := by
  refine Within.mono (n := faultPieces) ?_ hM
  unfold Within ckptTrigger
  (try dsimp only)
  repeat' first
    | with_reducible rfl
    | intro _
    | with_reducible refine (postEvent_without (hM := by decide)).trans ?_
    | with_reducible refine (autoCkpt_without (hM := by decide)).trans ?_
    | with_reducible refine ite_without (fun _ => ?_) (fun _ => ?_)

theorem effStepReady_without {M : List Piece} {p : Part} {s : State} (hM : sub faultPieces M = true) :
    (effStepReady p s).without M = s.without M := by
  refine Within.mono (n := faultPieces) ?_ hM
  unfold Within effStepReady
  (try dsimp only)
  repeat' first
    | with_reducible rfl
    | intro _
    | with_reducible refine (drawn_without (h := by decide) ..).trans ?_
    | with_reducible refine (modPart_without (h := ?_) ..).trans ?_
    | with_reducible refine (readCommits_without (hM := by decide)).trans ?_
    | with_reducible refine (endCkpt_without (hM := by decide)).trans ?_
    | with_reducible refine (endCkptErr_without (hM := by decide)).trans ?_
    | with_reducible refine (beginShards_without (hM := by decide)).trans ?_
    | with_reducible refine ite_without (fun _ => ?_) (fun _ => ?_)
    | split
    | with_reducible refine fst_without (by assumption) ?_
    | rfl

theorem copyShards_without {M : List Piece} {p : Part} {x1 : List (Shard × Nat)} {x2 : State} (hM : sub faultPieces M = true) :
    (copyShards p x1 x2).1.without M = x2.without M := by
  refine Within.mono (n := faultPieces) ?_ hM
  unfold Within
  induction x1 generalizing x2 with
  | nil => rfl
  | cons a r ih =>
    unfold copyShards
    repeat' first
      | with_reducible rfl
      | intro _
      | with_reducible refine (ppaFetch_without (hM := by decide)).trans ?_
      | with_reducible refine (ppaWrite_without (hM := by decide)).trans ?_
      | with_reducible refine (ih ..).trans ?_
      | split
      | with_reducible refine fst_without (by assumption) ?_

theorem effSnapDone_without {M : List Piece} {p : Part} {s : State} (hM : sub faultPieces M = true) :
    (effSnapDone p s).without M = s.without M := by
  refine Within.mono (n := faultPieces) ?_ hM
  unfold Within effSnapDone
  (try dsimp only)
  repeat' first
    | with_reducible rfl
    | intro _
    | with_reducible refine (modPart_without (h := ?_) ..).trans ?_
    | with_reducible refine (releaseHold_without (hM := by decide)).trans ?_
    | with_reducible refine (endCkptErr_without (hM := by decide)).trans ?_
    | with_reducible refine (runShards_without (hM := by decide)).trans ?_
    | with_reducible refine (copyShards_without (hM := by decide)).trans ?_
    | with_reducible refine ite_without (fun _ => ?_) (fun _ => ?_)
    | split
    | with_reducible refine fst_without (by assumption) ?_
    | rfl

theorem effShardsVisible_without {M : List Piece} {p : Part} {s : State} (hM : sub faultPieces M = true) :
    (effShardsVisible p s).without M = s.without M := by
  refine Within.mono (n := faultPieces) ?_ hM
  unfold Within effShardsVisible
  (try dsimp only)
  repeat' first
    | with_reducible rfl
    | intro _
    | with_reducible refine (modPart_without (h := ?_) ..).trans ?_
    | with_reducible refine (hostPutAll_without (hM := by decide)).trans ?_
    | with_reducible refine (noteNoIde_without (hM := by decide)).trans ?_
    | with_reducible refine (releaseHold_without (hM := by decide)).trans ?_
    | with_reducible refine (endCkpt_without (hM := by decide)).trans ?_
    | with_reducible refine ite_without (fun _ => ?_) (fun _ => ?_)
    | split
    | rfl

theorem effManifestVisible_without {M : List Piece} {p : Part} {s : State} (hM : sub faultPieces M = true) :
    (effManifestVisible p s).without M = s.without M := by
  refine Within.mono (n := faultPieces) ?_ hM
  unfold Within effManifestVisible
  (try dsimp only)
  repeat' first
    | with_reducible rfl
    | intro _
    | with_reducible refine (modPart_without (h := ?_) ..).trans ?_
    | with_reducible refine (finish_without (hM := by decide)).trans ?_
    | with_reducible refine (unblockCkpt_without (hM := by decide)).trans ?_
    | with_reducible refine (reportCkpt_without (hM := by decide)).trans ?_
    | with_reducible refine ite_without (fun _ => ?_) (fun _ => ?_)
    | split
    | rfl

theorem effRestore_without {M : List Piece} {p : Part} {r : Ring} {list block : Bytes} {s : State} (hM : sub faultPieces M = true) :
    (effRestore p r list block s).without M = s.without M := by
  refine Within.mono (n := faultPieces) ?_ hM
  unfold Within effRestore
  (try dsimp only)
  repeat' first
    | with_reducible rfl
    | intro _
    | with_reducible refine (drawn_without (h := by decide) ..).trans ?_
    | with_reducible refine (modPart_without (h := ?_) ..).trans ?_
    | with_reducible refine (hostFetch_without (hM := by decide)).trans ?_
    | with_reducible refine (failDesc_without (hM := by decide)).trans ?_
    | with_reducible refine (activate_without (hM := by decide)).trans ?_
    | with_reducible refine ite_without (fun _ => ?_) (fun _ => ?_)
    | split
    | with_reducible refine fst_without (by assumption) ?_
    | rfl

theorem effPass1_without {M : List Piece} {p : Part} {records : List Bytes} {s : State} (hM : sub faultPieces M = true) :
    (effPass1 p records s).without M = s.without M := by
  refine Within.mono (n := faultPieces) ?_ hM
  unfold Within effPass1
  (try dsimp only)
  repeat' first
    | with_reducible rfl
    | intro _
    | with_reducible refine (modPart_without (h := ?_) ..).trans ?_
    | with_reducible refine (hostFetch_without (hM := by decide)).trans ?_
    | with_reducible refine (endRestore_without (hM := by decide)).trans ?_
    | with_reducible refine ite_without (fun _ => ?_) (fun _ => ?_)
    | split
    | rfl

theorem loadShards_without {M : List Piece} {p : Part} {x : Restore} {man : Manifest} {x3 : List (Shard × Bytes)} {x4 : State} (hM : sub faultPieces M = true) :
    (loadShards p x man x3 x4).1.without M = x4.without M := by
  refine Within.mono (n := faultPieces) ?_ hM
  unfold Within
  induction x3 generalizing x4 with
  | nil => rfl
  | cons a r ih =>
    unfold loadShards
    repeat' first
      | with_reducible rfl
      | intro _
      | with_reducible refine (ppaWrite_without (hM := by decide)).trans ?_
      | with_reducible refine (ih ..).trans ?_
      | split
      | with_reducible refine fst_without (by assumption) ?_

theorem restoreCommits_without {M : List Piece} {p : Part} {step : DWord} {x2 : List Super} {x3 : State} (hM : sub faultPieces M = true) :
    (restoreCommits p step x2 x3).1.without M = x3.without M := by
  refine Within.mono (n := faultPieces) ?_ hM
  unfold Within
  induction x2 generalizing x3 with
  | nil => rfl
  | cons a r ih =>
    unfold restoreCommits
    repeat' first
      | with_reducible rfl
      | intro _
      | with_reducible refine (ppaWrite_without (hM := by decide)).trans ?_
      | with_reducible refine (ih ..).trans ?_
      | split
      | with_reducible refine fst_without (by assumption) ?_

theorem effPass2_without {M : List Piece} {p : Part} {records : List Bytes} {s : State} (hM : sub faultPieces M = true) :
    (effPass2 p records s).without M = s.without M := by
  refine Within.mono (n := faultPieces) ?_ hM
  unfold Within effPass2
  (try dsimp only)
  repeat' first
    | with_reducible rfl
    | intro _
    | with_reducible refine (hostFetch_without (hM := by decide)).trans ?_
    | with_reducible refine (finish_without (hM := by decide)).trans ?_
    | with_reducible refine (undefinePlan_without (hM := by decide)).trans ?_
    | with_reducible refine (clearRestore_without (hM := by decide)).trans ?_
    | with_reducible refine (endRestore_without (hM := by decide)).trans ?_
    | with_reducible refine (loadShards_without (hM := by decide)).trans ?_
    | with_reducible refine (restoreCommits_without (hM := by decide)).trans ?_
    | with_reducible refine ite_without (fun _ => ?_) (fun _ => ?_)
    | split
    | with_reducible refine fst_without (by assumption) ?_

/-! ### Machine/Hive.lean -/

theorem writeHive_without {M : List Piece} {p : Part} {addr : DWord} {rec : Bytes} {s : State} (hM : sub [.out, .host, .partRegs] M = true) :
    (writeHive p addr rec s).1.without M = s.without M := by
  refine Within.mono (n := [.out, .host, .partRegs]) ?_ hM
  unfold Within writeHive
  repeat' first
    | with_reducible rfl
    | intro _
    | with_reducible refine (modPart_without (h := ?_) ..).trans ?_
    | with_reducible refine (hostPutAll_without (hM := by decide)).trans ?_
    | with_reducible refine ite_without (fun _ => ?_) (fun _ => ?_)
    | split
    | rfl

theorem writeHives_without {M : List Piece} {p : Part} {rec : Bytes} {x2 : List DWord} {x3 : State} (hM : sub [.out, .host, .partRegs] M = true) :
    (writeHives p rec x2 x3).1.without M = x3.without M := by
  refine Within.mono (n := [.out, .host, .partRegs]) ?_ hM
  unfold Within
  induction x2 generalizing x3 with
  | nil => rfl
  | cons a r ih =>
    unfold writeHives
    (try dsimp only)
    repeat' first
      | with_reducible rfl
      | intro _
      | with_reducible refine (writeHive_without (hM := by decide)).trans ?_
      | with_reducible refine (ih ..).trans ?_

theorem capture_without {M : List Piece} {p : Part} {r : Recovery} {s : State} (hM : sub [.out, .host, .partRegs] M = true) :
    (capture p r s).1.without M = s.without M := by
  refine Within.mono (n := [.out, .host, .partRegs]) ?_ hM
  unfold Within capture
  generalize hiveRecord = g
  dsimp only
  refine (writeHives_without (by decide)).trans ?_
  refine (modPart_without _ _ _ _ fun q => ?_).trans (modPart_without _ _ _ _ fun q => rfl)
  rfl

end Sys2Proof.Machine
end

