-- ==== Sys2Proof/Laws/FramesModule.lean ====
section
/-! SUPPORT. Frames of the functions that the fabric, recovery, Propolis, the host port, trust, power, boot, the Hild unit,
management and the registers share: for each function, the pieces of the state outside of which it changes nothing. -/

namespace Sys2Proof.Machine

/-! ### Machine/Fabric.lean -/

theorem restartPort_without {M : List Piece} {p : LPort} {s : State} (hM : sub faultPieces M = true) :
    (restartPort p s).without M = s.without M := by
  refine Within.mono (n := faultPieces) ?_ hM
  unfold Within restartPort
  repeat' first
    | with_reducible rfl
    | intro _
    | with_reducible refine (strandDown_without (hM := by decide)).trans ?_
    | with_reducible refine (forEach_without (h := ?_) ..).trans ?_

theorem startTraining_without {M : List Piece} {s : State} (hM : sub [.router] M = true) :
    (startTraining s).without M = s.without M := by
  refine Within.mono (n := [.router]) ?_ hM
  unfold Within startTraining
  (try dsimp only)
  repeat' first
    | with_reducible rfl
    | intro _
    | with_reducible refine (modSPort_without (h := by decide) ..).trans ?_
    | with_reducible refine (forEach_without (h := ?_) ..).trans ?_
    | with_reducible refine ite_without (fun _ => ?_) (fun _ => ?_)

theorem effCoord_without {M : List Piece} {f : Fn} {v : DWord} {s : State} (hM : sub faultPieces M = true) :
    (effCoord f v s).without M = s.without M := by
  refine Within.mono (n := faultPieces) ?_ hM
  unfold Within effCoord
  (try dsimp only)
  repeat' first
    | with_reducible rfl
    | intro _
    | with_reducible refine (modPort_without (h := by decide) ..).trans ?_
    | with_reducible refine (modMod_without (h := by decide) ..).trans ?_
    | with_reducible refine (setParents_without (hM := by decide)).trans ?_
    | with_reducible refine (logRefusal_without (hM := by decide)).trans ?_
    | with_reducible refine (restartPort_without (hM := by decide)).trans ?_
    | with_reducible refine (startTraining_without (hM := by decide)).trans ?_
    | with_reducible refine (forEach_without (h := ?_) ..).trans ?_
    | with_reducible refine ite_without (fun _ => ?_) (fun _ => ?_)

theorem mapPower_without {M : List Piece} {old : State} {q : PPort} {s : State} (hM : sub [.ports] M = true) :
    (mapPower old q s).without M = s.without M := by
  refine Within.mono (n := [.ports]) ?_ hM
  unfold Within mapPower
  repeat' first
    | with_reducible rfl
    | intro _
    | with_reducible refine (modPort_without (h := by decide) ..).trans ?_
    | with_reducible refine ite_without (fun _ => ?_) (fun _ => ?_)
    | split

theorem effPortmap_without {M : List Piece} {f : Fn} {v : Word} {s : State} (hM : sub faultPieces M = true) :
    (effPortmap f v s).without M = s.without M := by
  refine Within.mono (n := faultPieces) ?_ hM
  unfold Within effPortmap
  (try dsimp only)
  repeat' first
    | with_reducible rfl
    | intro _
    | with_reducible refine (modMod_without (h := by decide) ..).trans ?_
    | with_reducible refine (setParents_without (hM := by decide)).trans ?_
    | with_reducible refine (restartPort_without (hM := by decide)).trans ?_
    | with_reducible refine (startTraining_without (hM := by decide)).trans ?_
    | with_reducible refine (mapPower_without (hM := by decide)).trans ?_
    | with_reducible refine (forEach_without (h := ?_) ..).trans ?_
    | with_reducible refine ite_without (fun _ => ?_) (fun _ => ?_)

theorem portResetDone_without {M : List Piece} {k : Comb} {p : LPort} {s : State} (hM : sub [.out, .host, .evt, .mod] M = true) :
    (portResetDone k p s).without M = s.without M := by
  refine Within.mono (n := [.out, .host, .evt, .mod]) ?_ hM
  unfold Within portResetDone
  repeat' first
    | with_reducible rfl
    | intro _
    | with_reducible refine (unitResetDone_without (hM := by decide)).trans ?_
    | with_reducible refine ite_without (fun _ => ?_) (fun _ => ?_)

theorem countSwap_without {M : List Piece} {k : Comb} {s : State} (hM : sub [.router, .partRegs] M = true) :
    (countSwap k s).without M = s.without M := by
  refine Within.mono (n := [.router, .partRegs]) ?_ hM
  unfold Within countSwap
  repeat' first
    | with_reducible rfl
    | intro _
    | with_reducible refine (modRouter_without (h := by decide) ..).trans ?_
    | with_reducible refine (ewCount_without (hM := by decide)).trans ?_

theorem effLaneFail_without {M : List Piece} {q : PPort} {rx : Bool} {lane : Fin 16} {s : State} (hM : sub faultPieces M = true) :
    (effLaneFail q rx lane s).without M = s.without M := by
  refine Within.mono (n := faultPieces) ?_ hM
  unfold Within effLaneFail
  (try dsimp only)
  repeat' first
    | with_reducible rfl
    | intro _
    | with_reducible refine (modPort_without (h := by decide) ..).trans ?_
    | with_reducible refine (strandDown_without (hM := by decide)).trans ?_
    | with_reducible refine (countSwap_without (hM := by decide)).trans ?_
    | with_reducible refine ite_without (fun _ => ?_) (fun _ => ?_)
    | split

theorem sendLaneRec_without {M : List Piece} {p : LPort} {rec' : BitVec 2 × Nat × Word} {s : State} (hM : sub [.router] M = true) :
    (sendLaneRec p rec' s).without M = s.without M := by
  refine Within.mono (n := [.router]) ?_ hM
  unfold Within sendLaneRec
  repeat' first
    | with_reducible rfl
    | intro _
    | with_reducible refine (modSPort_without (h := by decide) ..).trans ?_
    | with_reducible refine (forEach_without (h := ?_) ..).trans ?_

theorem effLaneWarn_without {M : List Piece} {q : PPort} {lane : Fin 16} {s : State} (hM : sub [.router, .partRegs, .ports] M = true) :
    (effLaneWarn q lane s).without M = s.without M := by
  refine Within.mono (n := [.router, .partRegs, .ports]) ?_ hM
  unfold Within effLaneWarn
  (try dsimp only)
  repeat' first
    | with_reducible rfl
    | intro _
    | with_reducible refine (modPort_without (h := by decide) ..).trans ?_
    | with_reducible refine (modRouter_without (h := by decide) ..).trans ?_
    | with_reducible refine (ewCount_without (hM := by decide)).trans ?_
    | with_reducible refine (sendLaneRec_without (hM := by decide)).trans ?_
    | with_reducible refine ite_without (fun _ => ?_) (fun _ => ?_)
    | split

theorem effSpareTrained_without {M : List Piece} {q : PPort} {frame : Word} {s : State} (hM : sub [.router, .ports] M = true) :
    (effSpareTrained q frame s).without M = s.without M := by
  refine Within.mono (n := [.router, .ports]) ?_ hM
  unfold Within effSpareTrained
  (try dsimp only)
  repeat' first
    | with_reducible rfl
    | intro _
    | with_reducible refine (modPort_without (h := by decide) ..).trans ?_
    | with_reducible refine (sendLaneRec_without (hM := by decide)).trans ?_
    | with_reducible refine ite_without (fun _ => ?_) (fun _ => ?_)
    | split

theorem effSpareSwitch_without {M : List Piece} {q : PPort} {rx : Bool} {s : State} (hM : sub [.router, .partRegs, .ports] M = true) :
    (effSpareSwitch q rx s).without M = s.without M := by
  refine Within.mono (n := [.router, .partRegs, .ports]) ?_ hM
  unfold Within effSpareSwitch
  (try dsimp only)
  repeat' first
    | with_reducible rfl
    | intro _
    | with_reducible refine (modPort_without (h := by decide) ..).trans ?_
    | with_reducible refine (countSwap_without (hM := by decide)).trans ?_
    | with_reducible refine ite_without (fun _ => ?_) (fun _ => ?_)
    | split

theorem effJobWrite_without {M : List Piece} {f : Fn} {k : Comb} {j : JobIx} {v : DWord} {s : State} (hM : sub [.router, .queen] M = true) :
    (effJobWrite f k j v s).without M = s.without M := by
  refine Within.mono (n := [.router, .queen]) ?_ hM
  unfold Within effJobWrite
  repeat' first
    | with_reducible rfl
    | intro _
    | with_reducible refine (modJob_without (h := by decide) ..).trans ?_
    | with_reducible refine (logRefusal_without (hM := by decide)).trans ?_
    | with_reducible refine ite_without (fun _ => ?_) (fun _ => ?_)

theorem effLeaseWrite_without {M : List Piece} {f : Fn} {k : Comb} {rx : Bool} {p : LPort} {slot : Fin 512} {v : BitVec 16} {s : State} (hM : sub [.draws, .combMap, .hum, .combRegs, .router, .superMem, .superTree, .superKeys, .superRegs, .queen] M = true) :
    (effLeaseWrite f k rx p slot v s).without M = s.without M := by
  refine Within.mono (n := [.draws, .combMap, .hum, .combRegs, .router, .superMem, .superTree, .superKeys, .superRegs, .queen]) ?_ hM
  unfold Within effLeaseWrite
  repeat' first
    | with_reducible rfl
    | intro _
    | with_reducible refine (modRouter_without (h := by decide) ..).trans ?_
    | with_reducible refine (powerAll_without (hM := by decide)).trans ?_
    | with_reducible refine (logRefusal_without (hM := by decide)).trans ?_
    | with_reducible refine ite_without (fun _ => ?_) (fun _ => ?_)

theorem setLeased_without {M : List Piece} {k : Comb} {j : BitVec 4} {v : Bool} {s : State} (hM : sub [.router] M = true) :
    (setLeased k j v s).without M = s.without M := by
  refine Within.mono (n := [.router]) ?_ hM
  unfold Within setLeased
  repeat' first
    | with_reducible rfl
    | intro _
    | with_reducible refine (modJob_without (h := by decide) ..).trans ?_
    | with_reducible refine ite_without (fun _ => ?_) (fun _ => ?_)
    | split

theorem effLeaseCommit_without {M : List Piece} {k : Comb} {j : BitVec 4} {s : State} (hM : sub [.router, .ctx] M = true) :
    (effLeaseCommit k j s).without M = s.without M := by
  refine Within.mono (n := [.router, .ctx]) ?_ hM
  unfold Within effLeaseCommit
  (try dsimp only)
  repeat' first
    | with_reducible rfl
    | intro _
    | with_reducible refine (modRouter_without (h := by decide) ..).trans ?_
    | with_reducible refine (judgeComb_without (hM := by decide)).trans ?_
    | with_reducible refine (setLeased_without (hM := by decide)).trans ?_
    | with_reducible refine ite_without (fun _ => ?_) (fun _ => ?_)

theorem effLeaseRelease_without {M : List Piece} {k : Comb} {j : BitVec 4} {s : State} (hM : sub [.router, .ctx] M = true) :
    (effLeaseRelease k j s).without M = s.without M := by
  refine Within.mono (n := [.router, .ctx]) ?_ hM
  unfold Within effLeaseRelease
  (try dsimp only)
  repeat' first
    | with_reducible rfl
    | intro _
    | with_reducible refine (modRouter_without (h := by decide) ..).trans ?_
    | with_reducible refine (judgeComb_without (hM := by decide)).trans ?_
    | with_reducible refine (setLeased_without (hM := by decide)).trans ?_
    | with_reducible refine ite_without (fun _ => ?_) (fun _ => ?_)

theorem sendFrame_without {M : List Piece} {k : Comb} {q : LPort} {kind : BitVec 2} {x : Option Flit} {s : State} (hM : sub [.out] M = true) :
    (sendFrame k q kind x s).without M = s.without M := by
  refine Within.mono (n := [.out]) ?_ hM
  unfold Within sendFrame
  repeat' first
    | with_reducible rfl
    | intro _
    | with_reducible refine (emit_without (h := by decide) ..).trans ?_

theorem sentForDesc_without {M : List Piece} {p : Part} {k : Comb} {x : QFlit} {s : State} (hM : sub [.rings] M = true) :
    (sentForDesc p k x s).without M = s.without M := by
  refine Within.mono (n := [.rings]) ?_ hM
  unfold Within sentForDesc
  (try dsimp only)
  repeat' first
    | with_reducible rfl
    | intro _
    | with_reducible refine (modDesc_without (h := by decide) ..).trans ?_
    | with_reducible refine ite_without (fun _ => ?_) (fun _ => ?_)
    | split

theorem sentForMove_without {M : List Piece} {p : Part} {x : QFlit} {s : State} (hM : sub [.seq, .rings, .sems] M = true) :
    (sentForMove p x s).without M = s.without M := by
  refine Within.mono (n := [.seq, .rings, .sems]) ?_ hM
  unfold Within sentForMove
  repeat' first
    | with_reducible rfl
    | intro _
    | with_reducible refine (semApply_without (hM := by decide)).trans ?_
    | split

theorem advanceSeq_without {M : List Piece} {p : Part} {k : Comb} {j : JobIx} {s : State} (hM : sub faultPieces M = true) :
    (advanceSeq p k j s).without M = s.without M := by
  refine Within.mono (n := faultPieces) ?_ hM
  unfold Within advanceSeq
  (try dsimp only)
  repeat' first
    | with_reducible rfl
    | intro _
    | with_reducible refine (modRouter_without (h := by decide) ..).trans ?_
    | with_reducible refine (fabricAbort_without (hM := by decide)).trans ?_
    | with_reducible refine ite_without (fun _ => ?_) (fun _ => ?_)

theorem sendPad_without {M : List Piece} {k : Comb} {q : LPort} {e : JobEntry} {flow : Nat} {s : State} (hM : sub [.out, .draws] M = true) :
    (sendPad k q e flow s).without M = s.without M := by
  refine Within.mono (n := [.out, .draws]) ?_ hM
  unfold Within sendPad
  repeat' first
    | with_reducible rfl
    | intro _
    | with_reducible refine (drawn_without (h := by decide) ..).trans ?_
    | with_reducible refine (sendFrame_without (hM := by decide)).trans ?_

theorem sendClaimed_without {M : List Piece} {p : Part} {k : Comb} {q : LPort} {j : JobIx} {f : FlowRt} {fl : Flow} {d : Nat} {s : State} (hM : sub faultPieces M = true) :
    (sendClaimed p k q j f fl d s).without M = s.without M := by
  refine Within.mono (n := faultPieces) ?_ hM
  unfold Within sendClaimed
  (try dsimp only)
  repeat' first
    | with_reducible rfl
    | intro _
    | with_reducible refine (modFlow_without (hM := by decide)).trans ?_
    | with_reducible refine (sendFrame_without (hM := by decide)).trans ?_
    | with_reducible refine (sentForDesc_without (hM := by decide)).trans ?_
    | with_reducible refine (sentForMove_without (hM := by decide)).trans ?_
    | with_reducible refine (advanceSeq_without (hM := by decide)).trans ?_
    | with_reducible refine (sendPad_without (hM := by decide)).trans ?_
    | with_reducible refine ite_without (fun _ => ?_) (fun _ => ?_)
    | split

theorem effLocalTx_without {M : List Piece} {k : Comb} {q : LPort} {s : State} (hM : sub faultPieces M = true) :
    (effLocalTx k q s).without M = s.without M := by
  refine Within.mono (n := faultPieces) ?_ hM
  unfold Within effLocalTx
  (try dsimp only)
  repeat' first
    | with_reducible rfl
    | intro _
    | with_reducible refine (sendFrame_without (hM := by decide)).trans ?_
    | with_reducible refine (sendClaimed_without (hM := by decide)).trans ?_
    | with_reducible refine ite_without (fun _ => ?_) (fun _ => ?_)
    | split

theorem noteCodeword_without {M : List Piece} {k : Comb} {q : LPort} {ok : Bool} {s : State} (hM : sub [.router] M = true) :
    (noteCodeword k q ok s).without M = s.without M := by
  refine Within.mono (n := [.router]) ?_ hM
  unfold Within noteCodeword
  repeat' first
    | with_reducible rfl
    | intro _
    | with_reducible refine (modSPort_without (h := by decide) ..).trans ?_
    | with_reducible refine (modRouter_without (h := by decide) ..).trans ?_
    | with_reducible refine ite_without (fun _ => ?_) (fun _ => ?_)

theorem misroute_without {M : List Piece} {k : Comb} {s : State} (hM : sub [.router] M = true) :
    (misroute k s).without M = s.without M := by
  refine Within.mono (n := [.router]) ?_ hM
  unfold Within misroute
  repeat' first
    | with_reducible rfl
    | intro _
    | with_reducible refine (modRouter_without (h := by decide) ..).trans ?_

theorem effTransitRx_without {M : List Piece} {k : Comb} {q : LPort} {fl : Flit} {s : State} (hM : sub [.router] M = true) :
    (effTransitRx k q fl s).without M = s.without M := by
  refine Within.mono (n := [.router]) ?_ hM
  unfold Within effTransitRx
  (try dsimp only)
  repeat' first
    | with_reducible rfl
    | intro _
    | with_reducible refine (modRouter_without (h := by decide) ..).trans ?_
    | with_reducible refine (noteCodeword_without (hM := by decide)).trans ?_
    | with_reducible refine (misroute_without (hM := by decide)).trans ?_
    | with_reducible refine ite_without (fun _ => ?_) (fun _ => ?_)
    | split

theorem effTransitTx_without {M : List Piece} {k : Comb} {q : LPort} {s : State} (hM : sub [.out, .router] M = true) :
    (effTransitTx k q s).without M = s.without M := by
  refine Within.mono (n := [.out, .router]) ?_ hM
  unfold Within effTransitTx
  (try dsimp only)
  repeat' first
    | with_reducible rfl
    | intro _
    | with_reducible refine (modRouter_without (h := by decide) ..).trans ?_
    | with_reducible refine (sendFrame_without (hM := by decide)).trans ?_
    | with_reducible refine ite_without (fun _ => ?_) (fun _ => ?_)
    | split

theorem flitFails_without {M : List Piece} {p : Part} {k : Comb} {cause : Byte} {count : Router → Router} {s : State} (hM : sub faultPieces M = true) :
    (flitFails p k cause count s).without M = s.without M := by
  refine Within.mono (n := faultPieces) ?_ hM
  unfold Within flitFails
  repeat' first
    | with_reducible rfl
    | intro _
    | with_reducible refine (modRouter_without (h := by decide) ..).trans ?_
    | with_reducible refine (fabricAbort_without (hM := by decide)).trans ?_

theorem deliverFlit_without {M : List Piece} {p : Part} {k : Comb} {x : EjFlit} {s : State} (hM : sub faultPieces M = true) :
    (deliverFlit p k x s).without M = s.without M := by
  refine Within.mono (n := faultPieces) ?_ hM
  unfold Within deliverFlit
  repeat' first
    | with_reducible rfl
    | intro _
    | with_reducible refine (combWrite_without (hM := by decide)).trans ?_
    | with_reducible refine (stopPartition_without (hM := by decide)).trans ?_
    | with_reducible refine (ppaWrite_without (hM := by decide)).trans ?_
    | with_reducible refine ite_without (fun _ => ?_) (fun _ => ?_)
    | split
    | with_reducible refine fst_without (by assumption) ?_

theorem acceptFlit_without {M : List Piece} {p : Part} {k : Comb} {e : JobEntry} {f : FlowRt} {fl : Flow} {x : Flit} {s : State} (hM : sub faultPieces M = true) :
    (acceptFlit p k e f fl x s).without M = s.without M := by
  refine Within.mono (n := faultPieces) ?_ hM
  unfold Within acceptFlit
  (try dsimp only)
  repeat' first
    | with_reducible rfl
    | intro _
    | with_reducible refine (modRouter_without (h := by decide) ..).trans ?_
    | with_reducible refine (fabricAbort_without (hM := by decide)).trans ?_
    | with_reducible refine (modFlow_without (hM := by decide)).trans ?_
    | with_reducible refine (flitFails_without (hM := by decide)).trans ?_
    | with_reducible refine ite_without (fun _ => ?_) (fun _ => ?_)
    | split

theorem effDataFlit_without {M : List Piece} {k : Comb} {q : LPort} {x : Flit} {s : State} (hM : sub faultPieces M = true) :
    (effDataFlit k q x s).without M = s.without M := by
  refine Within.mono (n := faultPieces) ?_ hM
  unfold Within effDataFlit
  (try dsimp only)
  repeat' first
    | with_reducible rfl
    | intro _
    | with_reducible refine (modEvt_without (h := by decide) ..).trans ?_
    | with_reducible refine (noteCodeword_without (hM := by decide)).trans ?_
    | with_reducible refine (acceptFlit_without (hM := by decide)).trans ?_
    | with_reducible refine ite_without (fun _ => ?_) (fun _ => ?_)
    | split

theorem effVisible_without {M : List Piece} {k : Comb} {flow : Nat} {s : State} (hM : sub faultPieces M = true) :
    (effVisible k flow s).without M = s.without M := by
  refine Within.mono (n := faultPieces) ?_ hM
  unfold Within effVisible
  (try dsimp only)
  repeat' first
    | with_reducible rfl
    | intro _
    | with_reducible refine (semApply_without (hM := by decide)).trans ?_
    | with_reducible refine (modFlow_without (hM := by decide)).trans ?_
    | with_reducible refine (deliverFlit_without (hM := by decide)).trans ?_
    | with_reducible refine ite_without (fun _ => ?_) (fun _ => ?_)
    | split

theorem effWireFrame_without {M : List Piece} {k : Comb} {q : LPort} {x : Flit} {s : State} (hM : sub [.router] M = true) :
    (effWireFrame k q x s).without M = s.without M := by
  refine Within.mono (n := [.router]) ?_ hM
  unfold Within effWireFrame
  (try dsimp only)
  repeat' first
    | with_reducible rfl
    | intro _
    | with_reducible refine (noteCodeword_without (hM := by decide)).trans ?_
    | with_reducible refine (misroute_without (hM := by decide)).trans ?_
    | with_reducible refine ite_without (fun _ => ?_) (fun _ => ?_)

theorem effAlarm_without {M : List Piece} {k : Comb} {q : LPort} {a : AlarmRec} {s : State} (hM : sub faultPieces M = true) :
    (effAlarm k q a s).without M = s.without M := by
  refine Within.mono (n := faultPieces) ?_ hM
  unfold Within effAlarm
  (try dsimp only)
  repeat' first
    | with_reducible rfl
    | intro _
    | with_reducible refine (modRouter_without (h := by decide) ..).trans ?_
    | with_reducible refine (abortJob_without (hM := by decide)).trans ?_
    | with_reducible refine (spreadAlarm_without (hM := by decide)).trans ?_
    | with_reducible refine (partitionFault_without (hM := by decide)).trans ?_
    | with_reducible refine ite_without (fun _ => ?_) (fun _ => ?_)
    | split

theorem effVote_without {M : List Piece} {k : Comb} {q : LPort} {v : VoteRec} {s : State} (hM : sub [.router] M = true) :
    (effVote k q v s).without M = s.without M := by
  refine Within.mono (n := [.router]) ?_ hM
  unfold Within effVote
  (try dsimp only)
  repeat' first
    | with_reducible rfl
    | intro _
    | with_reducible refine (modJob_without (h := by decide) ..).trans ?_
    | with_reducible refine (modRouter_without (h := by decide) ..).trans ?_
    | with_reducible refine ite_without (fun _ => ?_) (fun _ => ?_)
    | split

theorem effVerdict_without {M : List Piece} {k : Comb} {q : LPort} {v : VoteRec} {s : State} (hM : sub faultPieces M = true) :
    (effVerdict k q v s).without M = s.without M := by
  refine Within.mono (n := faultPieces) ?_ hM
  unfold Within effVerdict
  (try dsimp only)
  repeat' first
    | with_reducible rfl
    | intro _
    | with_reducible refine (modRouter_without (h := by decide) ..).trans ?_
    | with_reducible refine (verdictAt_without (hM := by decide)).trans ?_
    | with_reducible refine ite_without (fun _ => ?_) (fun _ => ?_)
    | split

theorem combineAt_without {M : List Piece} {k : Comb} {s : State} (hM : sub faultPieces M = true) :
    (combineAt k s).without M = s.without M := by
  refine Within.mono (n := faultPieces) ?_ hM
  unfold Within combineAt
  (try dsimp only)
  repeat' first
    | with_reducible rfl
    | intro _
    | with_reducible refine (modJob_without (h := by decide) ..).trans ?_
    | with_reducible refine (modRouter_without (h := by decide) ..).trans ?_
    | with_reducible refine (verdictAt_without (hM := by decide)).trans ?_
    | with_reducible refine ite_without (fun _ => ?_) (fun _ => ?_)
    | split

theorem sendRecords_without {M : List Piece} {k : Comb} {s : State} (hM : sub [.out, .router] M = true) :
    (sendRecords k s).without M = s.without M := by
  refine Within.mono (n := [.out, .router]) ?_ hM
  unfold Within sendRecords
  (try dsimp only)
  repeat' first
    | with_reducible rfl
    | intro _
    | with_reducible refine (emitAll_without (h := by decide) ..).trans ?_
    | with_reducible refine (modRouter_without (h := by decide) ..).trans ?_

theorem sendSync_without {M : List Piece} {k : Comb} {p : LPort} {s : State} (hM : sub [.out, .router] M = true) :
    (sendSync k p s).without M = s.without M := by
  refine Within.mono (n := [.out, .router]) ?_ hM
  unfold Within sendSync
  (try dsimp only)
  repeat' first
    | with_reducible rfl
    | intro _
    | with_reducible refine (modSPort_without (h := by decide) ..).trans ?_
    | with_reducible refine (emit_without (h := by decide) ..).trans ?_
    | with_reducible refine ite_without (fun _ => ?_) (fun _ => ?_)
    | split

theorem effControl_without {M : List Piece} {k : Comb} {s : State} (hM : sub faultPieces M = true) :
    (effControl k s).without M = s.without M := by
  refine Within.mono (n := faultPieces) ?_ hM
  unfold Within effControl
  (try dsimp only)
  repeat' first
    | with_reducible rfl
    | intro _
    | with_reducible refine (emitAll_without (h := by decide) ..).trans ?_
    | with_reducible refine (combineAt_without (hM := by decide)).trans ?_
    | with_reducible refine (sendRecords_without (hM := by decide)).trans ?_
    | with_reducible refine (sendSync_without (hM := by decide)).trans ?_
    | with_reducible refine (forEach_without (h := ?_) ..).trans ?_
    | with_reducible refine ite_without (fun _ => ?_) (fun _ => ?_)

/-! ### Machine/Propolis.lean -/

theorem allocate_without {M : List Piece} {p : Part} {s : State} (hM : sub [.superRegs] M = true) :
    (allocate p s).without M = s.without M := by
  refine Within.mono (n := [.superRegs]) ?_ hM
  unfold Within allocate
  (try dsimp only)
  repeat' first
    | with_reducible rfl
    | intro _
    | with_reducible refine (modSuper_without (h := ?_) ..).trans ?_
    | with_reducible refine (forEach_without (h := ?_) ..).trans ?_
    | rfl

theorem effCommit_without {M : List Piece} {p : Part} {s : State} (hM : sub [.superRegs, .regions] M = true) :
    (effCommit p s).without M = s.without M := by
  refine Within.mono (n := [.superRegs, .regions]) ?_ hM
  unfold Within effCommit
  (try dsimp only)
  repeat' first
    | with_reducible rfl
    | intro _
    | with_reducible refine (modPart_without (h := ?_) ..).trans ?_
    | with_reducible refine (allocate_without (hM := by decide)).trans ?_
    | with_reducible refine ite_without (fun _ => ?_) (fun _ => ?_)
    | split
    | rfl

theorem zeroSectors_without {M : List Piece} {lo hi : Nat} {u : SuperState} (hM : sub [.superMem, .superTree] M = true) :
    (zeroSectors lo hi u).without M = u.without M := by
  refine super_mono (n := [.superMem, .superTree]) ?_ hM
  unfold zeroSectors
  repeat' first
    | with_reducible rfl
    | intro _
    | rfl

theorem effInitDone_without {M : List Piece} {p : Part} {s : State} (hM : sub [.superMem, .superTree, .regions] M = true) :
    (effInitDone p s).without M = s.without M := by
  refine Within.mono (n := [.superMem, .superTree, .regions]) ?_ hM
  unfold Within effInitDone
  (try dsimp only)
  repeat' first
    | with_reducible rfl
    | intro _
    | with_reducible refine (modSuper_without (h := ?_) ..).trans ?_
    | with_reducible refine (modPart_without (h := ?_) ..).trans ?_
    | with_reducible refine (zeroSectors_without (hM := by decide)).trans ?_
    | with_reducible refine (forEach_without (h := ?_) ..).trans ?_
    | with_reducible refine ite_without (fun _ => ?_) (fun _ => ?_)
    | split
    | rfl

theorem dbgBlock_without {M : List Piece} {k : Super} {s : State} (hM : sub [.superRegs] M = true) :
    (dbgBlock k s).without M = s.without M := by
  refine Within.mono (n := [.superRegs]) ?_ hM
  unfold Within dbgBlock
  repeat' first
    | with_reducible rfl
    | intro _
    | with_reducible refine (modSuper_without (h := ?_) ..).trans ?_
    | rfl

theorem refuse_without {M : List Piece} {k : Super} {who : Requester} {dbg : Bool} {s : State} (hM : sub [.out, .superRegs] M = true) :
    (refuse k who dbg s).without M = s.without M := by
  refine Within.mono (n := [.out, .superRegs]) ?_ hM
  unfold Within refuse
  repeat' first
    | with_reducible rfl
    | intro _
    | with_reducible refine (emit_without (h := by decide) ..).trans ?_
    | with_reducible refine (dbgBlock_without (hM := by decide)).trans ?_
    | with_reducible refine ite_without (fun _ => ?_) (fun _ => ?_)

theorem refuseKey_without {M : List Piece} {k : Super} {who : Requester} {isWrite : Bool} {s : State} (hM : sub [.out, .superRegs] M = true) :
    (refuseKey k who isWrite s).without M = s.without M := by
  refine Within.mono (n := [.out, .superRegs]) ?_ hM
  unfold Within refuseKey
  repeat' first
    | with_reducible rfl
    | intro _
    | with_reducible refine (modSuper_without (h := ?_) ..).trans ?_
    | with_reducible refine (emit_without (h := by decide) ..).trans ?_
    | with_reducible refine ite_without (fun _ => ?_) (fun _ => ?_)
    | split
    | rfl

theorem hildIntegrity_without {M : List Piece} {who : Requester} {s : State} (hM : sub [.out, .host, .hild, .evq, .mod] M = true) :
    (hildIntegrity who s).without M = s.without M := by
  refine Within.mono (n := [.out, .host, .hild, .evq, .mod]) ?_ hM
  unfold Within hildIntegrity
  repeat' first
    | with_reducible rfl
    | intro _
    | with_reducible refine (modHild_without (h := by decide) ..).trans ?_
    | with_reducible refine (reportPoison_without (hM := by decide)).trans ?_
    | split

theorem replyIntegrity_without {M : List Piece} {who : Requester} {s : State} (hM : sub [.out, .host, .hild, .evq, .mod] M = true) :
    (replyIntegrity who s).without M = s.without M := by
  refine Within.mono (n := [.out, .host, .hild, .evq, .mod]) ?_ hM
  unfold Within replyIntegrity
  repeat' first
    | with_reducible rfl
    | intro _
    | with_reducible refine (emit_without (h := by decide) ..).trans ?_
    | with_reducible refine (hildIntegrity_without (hM := by decide)).trans ?_

theorem crossLink_without {M : List Piece} {k : Super} {who : Requester} {n m : Nat} {s : State} (hM : sub [.superRegs] M = true) :
    (crossLink k who n m s).without M = s.without M := by
  refine Within.mono (n := [.superRegs]) ?_ hM
  unfold Within crossLink
  repeat' first
    | with_reducible rfl
    | intro _
    | with_reducible refine (modSuper_without (h := ?_) ..).trans ?_
    | with_reducible refine ite_without (fun _ => ?_) (fun _ => ?_)
    | split
    | rfl

theorem serveRead_without {M : List Piece} {k : Super} {off : Nat} {who : Requester} {s : State} (hM : sub faultPieces M = true) :
    (serveRead k off who s).without M = s.without M := by
  refine Within.mono (n := faultPieces) ?_ hM
  unfold Within serveRead
  (try dsimp only)
  repeat' first
    | with_reducible rfl
    | intro _
    | with_reducible refine (emit_without (h := by decide) ..).trans ?_
    | with_reducible refine (stopUnder_without (hM := by decide)).trans ?_
    | with_reducible refine (stopOwner_without (hM := by decide)).trans ?_
    | with_reducible refine (meetLine_without (hM := by decide)).trans ?_
    | with_reducible refine (refuse_without (hM := by decide)).trans ?_
    | with_reducible refine (refuseKey_without (hM := by decide)).trans ?_
    | with_reducible refine (replyIntegrity_without (hM := by decide)).trans ?_
    | with_reducible refine (crossLink_without (hM := by decide)).trans ?_
    | with_reducible refine ite_without (fun _ => ?_) (fun _ => ?_)
    | split

theorem failSector_without {M : List Piece} {k : Super} {off : Nat} {e : SectorEnd} {s : State} (hM : sub faultPieces M = true) :
    (failSector k off e s).1.without M = s.without M := by
  refine Within.mono (n := faultPieces) ?_ hM
  unfold Within failSector
  repeat' first
    | with_reducible rfl
    | intro _
    | with_reducible refine (stopUnder_without (hM := by decide)).trans ?_
    | with_reducible refine (stopOwner_without (hM := by decide)).trans ?_
    | split

theorem settleAll_without {M : List Piece} {k : Super} {key : KeyId} {base : Nat} {data : Bytes} {src : BitVec 3} {x5 : List (Nat × Nat)} {x6 : State} (hM : sub faultPieces M = true) :
    (settleAll k key base data src x5 x6).1.without M = x6.without M := by
  refine Within.mono (n := faultPieces) ?_ hM
  unfold Within
  induction x5 generalizing x6 with
  | nil => rfl
  | cons a r ih =>
    unfold settleAll
    (try dsimp only)
    repeat' first
      | with_reducible rfl
      | intro _
      | with_reducible refine (settleSector_without (hM := by decide)).trans ?_
      | with_reducible refine (failSector_without (hM := by decide)).trans ?_
      | with_reducible refine (ih ..).trans ?_

theorem serveWrite_without {M : List Piece} {k : Super} {off : Nat} {who : Requester} {data : Bytes} {s : State} (hM : sub faultPieces M = true) :
    (serveWrite k off who data s).without M = s.without M := by
  refine Within.mono (n := faultPieces) ?_ hM
  unfold Within serveWrite
  (try dsimp only)
  repeat' first
    | with_reducible rfl
    | intro _
    | with_reducible refine (emit_without (h := by decide) ..).trans ?_
    | with_reducible refine (refuse_without (hM := by decide)).trans ?_
    | with_reducible refine (refuseKey_without (hM := by decide)).trans ?_
    | with_reducible refine (hildIntegrity_without (hM := by decide)).trans ?_
    | with_reducible refine (crossLink_without (hM := by decide)).trans ?_
    | with_reducible refine (settleAll_without (hM := by decide)).trans ?_
    | with_reducible refine ite_without (fun _ => ?_) (fun _ => ?_)
    | split

theorem servePartial_without {M : List Piece} {k : Super} {off : Nat} {who : Requester} {data : Bytes} {x4 : List (Nat × Bytes)} {x5 : State} (hM : sub faultPieces M = true) :
    (servePartial k off who data x4 x5).without M = x5.without M := by
  refine Within.mono (n := faultPieces) ?_ hM
  unfold Within
  induction x4 generalizing x5 with
  | nil => exact serveWrite_without (by decide)
  | cons a r ih =>
    unfold servePartial
    (try dsimp only)
    repeat' first
      | with_reducible rfl
      | intro _
      | with_reducible refine (modSuper_without (h := ?_) ..).trans ?_
      | with_reducible refine (meetLine_without (hM := by decide)).trans ?_
      | with_reducible refine (refuseKey_without (hM := by decide)).trans ?_
      | with_reducible refine (serveWrite_without (hM := by decide)).trans ?_
      | with_reducible refine (ih ..).trans ?_
      | with_reducible refine ite_without (fun _ => ?_) (fun _ => ?_)
      | split
      | rfl

theorem serveReq_without {M : List Piece} {k : Super} {r : MemReq} {s : State} (hM : sub faultPieces M = true) :
    (serveReq k r s).without M = s.without M := by
  refine Within.mono (n := faultPieces) ?_ hM
  unfold Within serveReq
  repeat' first
    | with_reducible rfl
    | intro _
    | with_reducible refine (serveRead_without (hM := by decide)).trans ?_
    | with_reducible refine (serveWrite_without (hM := by decide)).trans ?_
    | with_reducible refine (servePartial_without (hM := by decide)).trans ?_
    | split

theorem drainSuper_without {M : List Piece} {x0 : Nat} {x1 : Super} {x2 : State} (hM : sub faultPieces M = true) :
    (drainSuper x0 x1 x2).without M = x2.without M := by
  refine Within.mono (n := faultPieces) ?_ hM
  unfold Within
  induction x0 generalizing x2 with
  | zero => rfl
  | succ n ih =>
    unfold drainSuper
    repeat' first
      | with_reducible rfl
      | intro _
      | with_reducible refine (modSuper_without (h := ?_) ..).trans ?_
      | with_reducible refine (serveReq_without (hM := by decide)).trans ?_
      | with_reducible refine (ih ..).trans ?_
      | split
      | with_reducible refine fst_without (by assumption) ?_
      | rfl

theorem resumeSuper_without {M : List Piece} {k : Super} {s : State} (hM : sub faultPieces M = true) :
    (resumeSuper k s).without M = s.without M := by
  refine Within.mono (n := faultPieces) ?_ hM
  unfold Within resumeSuper
  repeat' first
    | with_reducible rfl
    | intro _
    | with_reducible refine (drainSuper_without (hM := by decide)).trans ?_

theorem submit_without {M : List Piece} {k : Super} {r : MemReq} {s : State} (hM : sub faultPieces M = true) :
    (submit k r s).without M = s.without M := by
  refine Within.mono (n := faultPieces) ?_ hM
  unfold Within submit
  (try dsimp only)
  repeat' first
    | with_reducible rfl
    | intro _
    | with_reducible refine (modSuper_without (h := ?_) ..).trans ?_
    | with_reducible refine (refuse_without (hM := by decide)).trans ?_
    | with_reducible refine (serveReq_without (hM := by decide)).trans ?_
    | with_reducible refine ite_without (fun _ => ?_) (fun _ => ?_)
    | split
    | rfl

theorem request_without {M : List Piece} {sup : BitVec 4} {who : Requester} {flips : Flips} {off : Nat} {op : MemOp} {s : State} (hM : sub faultPieces M = true) :
    (request sup who flips off op s).without M = s.without M := by
  refine Within.mono (n := faultPieces) ?_ hM
  unfold Within request
  repeat' first
    | with_reducible rfl
    | intro _
    | with_reducible refine (emit_without (h := by decide) ..).trans ?_
    | with_reducible refine (applyFlips_without (hM := by decide)).trans ?_
    | with_reducible refine (submit_without (hM := by decide)).trans ?_
    | with_reducible refine ite_without (fun _ => ?_) (fun _ => ?_)

theorem scrubLost_without {M : List Piece} {k : Super} {l : Nat} {s : State} (hM : sub faultPieces M = true) :
    (scrubLost k l s).without M = s.without M := by
  refine Within.mono (n := faultPieces) ?_ hM
  unfold Within scrubLost
  repeat' first
    | with_reducible rfl
    | intro _
    | with_reducible refine (modSuper_without (h := ?_) ..).trans ?_
    | with_reducible refine (settleLine_without (hM := by decide)).trans ?_
    | with_reducible refine (lineUncorrectable_without (hM := by decide)).trans ?_
    | with_reducible refine (nodeFails_without (hM := by decide)).trans ?_
    | with_reducible refine (forEach_without (h := ?_) ..).trans ?_
    | split

theorem effScrub_without {M : List Piece} {k : Super} {s : State} (hM : sub faultPieces M = true) :
    (effScrub k s).without M = s.without M := by
  refine Within.mono (n := faultPieces) ?_ hM
  unfold Within effScrub
  (try dsimp only)
  repeat' first
    | with_reducible rfl
    | intro _
    | with_reducible refine (modSuper_without (h := ?_) ..).trans ?_
    | with_reducible refine (noteDecode_without (hM := by decide)).trans ?_
    | with_reducible refine (scrubLost_without (hM := by decide)).trans ?_
    | with_reducible refine ite_without (fun _ => ?_) (fun _ => ?_)
    | split
    | with_reducible refine fst_without (by assumption) ?_
    | rfl

theorem modLink_without {M : List Piece} {link : Fin 14} {dir : Fin 2} {f : LinkDir → LinkDir} {s : State} (hM : sub [.superRegs, .mod] M = true) :
    (modLink link dir f s).without M = s.without M := by
  refine Within.mono (n := [.superRegs, .mod]) ?_ hM
  unfold Within modLink
  repeat' first
    | with_reducible rfl
    | intro _
    | with_reducible refine (modSuper_without (h := ?_) ..).trans ?_
    | with_reducible refine (modMod_without (h := by decide) ..).trans ?_
    | with_reducible refine ite_without (fun _ => ?_) (fun _ => ?_)
    | split
    | rfl

theorem effLinkAuth_without {M : List Piece} {link : Fin 14} {dir : Fin 2} {s : State} (hM : sub faultPieces M = true) :
    (effLinkAuth link dir s).without M = s.without M := by
  refine Within.mono (n := faultPieces) ?_ hM
  unfold Within effLinkAuth
  (try dsimp only)
  repeat' first
    | with_reducible rfl
    | intro _
    | with_reducible refine (modDie_without (h := ?_) ..).trans ?_
    | with_reducible refine (modSuper_without (h := ?_) ..).trans ?_
    | with_reducible refine (keyBridge_without (hM := by decide)).trans ?_
    | with_reducible refine (escalateWarm_without (hM := by decide)).trans ?_
    | with_reducible refine (stopPartition_without (hM := by decide)).trans ?_
    | with_reducible refine (moduleFault_without (hM := by decide)).trans ?_
    | with_reducible refine (modLink_without (hM := by decide)).trans ?_
    | with_reducible refine (forEach_without (h := ?_) ..).trans ?_
    | with_reducible refine ite_without (fun _ => ?_) (fun _ => ?_)
    | split
    | with_reducible refine fst_without (by assumption) ?_
    | rfl

/-! ### Machine/Recovery.lean -/

theorem abandonRun_without {M : List Piece} {k : Comb} {d : RunDesc} {s : State} (hM : sub [.rings] M = true) :
    (abandonRun k d s).without M = s.without M := by
  refine Within.mono (n := [.rings]) ?_ hM
  unfold Within abandonRun
  repeat' first
    | with_reducible rfl
    | intro _
    | with_reducible refine (modDesc_without (h := by decide) ..).trans ?_

theorem abandonRuns_without {M : List Piece} {k : Comb} {s : State} (hM : sub [.rings] M = true) :
    (abandonRuns k s).without M = s.without M := by
  refine Within.mono (n := [.rings]) ?_ hM
  unfold Within abandonRuns
  repeat' first
    | with_reducible rfl
    | intro _
    | with_reducible refine (abandonRun_without (hM := by decide)).trans ?_
    | with_reducible refine (forEach_without (h := ?_) ..).trans ?_

theorem stopComb_without {M : List Piece} {p : Part} {k : Comb} {s : State} (hM : sub progPieces M = true) :
    (stopComb p k s).without M = s.without M := by
  refine Within.mono (n := progPieces) ?_ hM
  unfold Within stopComb
  (try dsimp only)
  repeat' first
    | with_reducible rfl
    | intro _
    | with_reducible refine (stopRings_without (hM := by decide)).trans ?_
    | with_reducible refine (haltComb_without (hM := by decide)).trans ?_
    | with_reducible refine (discardHild_without (hM := by decide)).trans ?_
    | with_reducible refine (endServed_without (hM := by decide)).trans ?_
    | with_reducible refine (abandonRuns_without (hM := by decide)).trans ?_
    | with_reducible refine (forEach_without (h := ?_) ..).trans ?_

theorem endUpdate_without {M : List Piece} {k : Super} {d : RunDesc} {dom : BitVec 4} {s : State} (hM : sub [.rings] M = true) :
    (endUpdate k d dom s).without M = s.without M := by
  refine Within.mono (n := [.rings]) ?_ hM
  unfold Within endUpdate
  repeat' first
    | with_reducible rfl
    | intro _
    | with_reducible refine (modDesc_without (h := by decide) ..).trans ?_

theorem stopSuper_without {M : List Piece} {k : Super} {s : State} (hM : sub [.out, .host, .hild, .rings, .evq, .mod] M = true) :
    (stopSuper k s).without M = s.without M := by
  refine Within.mono (n := [.out, .host, .hild, .rings, .evq, .mod]) ?_ hM
  unfold Within stopSuper
  (try dsimp only)
  repeat' first
    | with_reducible rfl
    | intro _
    | with_reducible refine (discardHild_without (hM := by decide)).trans ?_
    | with_reducible refine (stopHild_without (hM := by decide)).trans ?_
    | with_reducible refine (endUpdate_without (hM := by decide)).trans ?_
    | with_reducible refine (forEach_without (h := ?_) ..).trans ?_

theorem holdSmoke_without {M : List Piece} {q : Request} {s : State} (hM : sub [.rings] M = true) :
    (holdSmoke q s).without M = s.without M := by
  refine Within.mono (n := [.rings]) ?_ hM
  unfold Within holdSmoke
  repeat' first
    | with_reducible rfl
    | intro _
    | with_reducible refine (modDesc_without (h := by decide) ..).trans ?_
    | split

theorem absorb_without {M : List Piece} {p : Part} {i : Nat} {q : Request} {s : State} (hM : sub [.out, .host, .rings, .partRegs] M = true) :
    (absorb p i q s).without M = s.without M := by
  refine Within.mono (n := [.out, .host, .rings, .partRegs]) ?_ hM
  unfold Within absorb
  (try dsimp only)
  repeat' first
    | with_reducible rfl
    | intro _
    | with_reducible refine (modPart_without (h := ?_) ..).trans ?_
    | with_reducible refine (writeHive_without (hM := by decide)).trans ?_
    | with_reducible refine (holdSmoke_without (hM := by decide)).trans ?_
    | with_reducible refine ite_without (fun _ => ?_) (fun _ => ?_)
    | split
    | rfl

theorem askPartition_without {M : List Piece} {p : Part} {q : Request} {s : State} (hM : sub [.out, .host, .draws, .hum, .seq, .cellMem, .cellRun, .combMem, .router, .superMem, .superTree, .hild, .ctx, .rings, .evq, .partRegs, .mod] M = true) :
    (askPartition p q s).without M = s.without M := by
  refine Within.mono (n := [.out, .host, .draws, .hum, .seq, .cellMem, .cellRun, .combMem, .router, .superMem, .superTree, .hild, .ctx, .rings, .evq, .partRegs, .mod]) ?_ hM
  unfold Within askPartition
  (try dsimp only)
  repeat' first
    | with_reducible rfl
    | intro _
    | with_reducible refine (raiseAlarm_without (hM := by decide)).trans ?_
    | with_reducible refine (takeOver_without (hM := by decide)).trans ?_
    | with_reducible refine (stopWhole_without (hM := by decide)).trans ?_
    | with_reducible refine (holdSmoke_without (hM := by decide)).trans ?_
    | with_reducible refine (absorb_without (hM := by decide)).trans ?_
    | split

theorem askComb_without {M : List Piece} {p : Part} {k : Comb} {q : Request} {s : State} (hM : sub progPieces M = true) :
    (askComb p k q s).without M = s.without M := by
  refine Within.mono (n := progPieces) ?_ hM
  unfold Within askComb
  (try dsimp only)
  repeat' first
    | with_reducible rfl
    | intro _
    | with_reducible refine (modPart_without (h := ?_) ..).trans ?_
    | with_reducible refine (stopComb_without (hM := by decide)).trans ?_
    | with_reducible refine (holdSmoke_without (hM := by decide)).trans ?_
    | with_reducible refine (absorb_without (hM := by decide)).trans ?_
    | split
    | rfl

theorem askSuper_without {M : List Piece} {p : Part} {k : Super} {q : Request} {s : State} (hM : sub [.out, .host, .hild, .rings, .evq, .partRegs, .mod] M = true) :
    (askSuper p k q s).without M = s.without M := by
  refine Within.mono (n := [.out, .host, .hild, .rings, .evq, .partRegs, .mod]) ?_ hM
  unfold Within askSuper
  (try dsimp only)
  repeat' first
    | with_reducible rfl
    | intro _
    | with_reducible refine (modPart_without (h := ?_) ..).trans ?_
    | with_reducible refine (stopSuper_without (hM := by decide)).trans ?_
    | with_reducible refine (absorb_without (hM := by decide)).trans ?_
    | split
    | rfl

theorem takeCmd_without {M : List Piece} {s : State} (hM : sub [.evt] M = true) :
    (takeCmd s).without M = s.without M := by
  refine Within.mono (n := [.evt]) ?_ hM
  unfold Within takeCmd
  repeat' first
    | with_reducible rfl
    | intro _
    | with_reducible refine (modEvt_without (h := by decide) ..).trans ?_

theorem refuseCmd_without {M : List Piece} {err : Nat} {s : State} (hM : sub [.evt] M = true) :
    (refuseCmd err s).without M = s.without M := by
  refine Within.mono (n := [.evt]) ?_ hM
  unfold Within refuseCmd
  repeat' first
    | with_reducible rfl
    | intro _
    | with_reducible refine (modEvt_without (h := by decide) ..).trans ?_

theorem cmdComb_without {M : List Piece} {k : Comb} {s : State} (hM : sub [.out, .host, .draws, .seq, .cellMem, .cellRun, .combRegs, .combMem, .superMem, .superTree, .hild, .ctx, .rings, .evq, .partRegs, .evt, .mod] M = true) :
    (cmdComb k s).without M = s.without M := by
  refine Within.mono (n := [.out, .host, .draws, .seq, .cellMem, .cellRun, .combRegs, .combMem, .superMem, .superTree, .hild, .ctx, .rings, .evq, .partRegs, .evt, .mod]) ?_ hM
  unfold Within cmdComb
  repeat' first
    | with_reducible rfl
    | intro _
    | with_reducible refine (unitResetDone_without (hM := by decide)).trans ?_
    | with_reducible refine (resetCombDomain_without (hM := by decide)).trans ?_
    | with_reducible refine (askComb_without (hM := by decide)).trans ?_
    | with_reducible refine (takeCmd_without (hM := by decide)).trans ?_
    | split

theorem cmdSuper_without {M : List Piece} {k : Super} {s : State} (hM : sub [.out, .host, .superMem, .superTree, .superKeys, .superRegs, .hild, .rings, .evq, .partRegs, .fuses, .queen, .evt, .mod] M = true) :
    (cmdSuper k s).without M = s.without M := by
  refine Within.mono (n := [.out, .host, .superMem, .superTree, .superKeys, .superRegs, .hild, .rings, .evq, .partRegs, .fuses, .queen, .evt, .mod]) ?_ hM
  unfold Within cmdSuper
  (try dsimp only)
  repeat' first
    | with_reducible rfl
    | intro _
    | with_reducible refine (modEvt_without (h := by decide) ..).trans ?_
    | with_reducible refine (unitResetDone_without (hM := by decide)).trans ?_
    | with_reducible refine (resetSuperDomain_without (hM := by decide)).trans ?_
    | with_reducible refine (askSuper_without (hM := by decide)).trans ?_
    | with_reducible refine (takeCmd_without (hM := by decide)).trans ?_
    | with_reducible refine ite_without (fun _ => ?_) (fun _ => ?_)
    | split

theorem cmdPort_without {M : List Piece} {k : Comb} {p : LPort} {s : State} (hM : sub faultPieces M = true) :
    (cmdPort k p s).without M = s.without M := by
  refine Within.mono (n := faultPieces) ?_ hM
  unfold Within cmdPort
  (try dsimp only)
  repeat' first
    | with_reducible rfl
    | intro _
    | with_reducible refine (modEvt_without (h := by decide) ..).trans ?_
    | with_reducible refine (strandDown_without (hM := by decide)).trans ?_
    | with_reducible refine (portResetDone_without (hM := by decide)).trans ?_
    | with_reducible refine (takeCmd_without (hM := by decide)).trans ?_
    | with_reducible refine ite_without (fun _ => ?_) (fun _ => ?_)

theorem resetCmd_without {M : List Piece} {dom : Nat} {u : Fin 8} {port : Nat} {s : State} (hM : sub faultPieces M = true) :
    (resetCmd dom u port s).without M = s.without M := by
  refine Within.mono (n := faultPieces) ?_ hM
  unfold Within resetCmd
  repeat' first
    | with_reducible rfl
    | intro _
    | with_reducible refine (moduleReset_without (hM := by decide)).trans ?_
    | with_reducible refine (askPartition_without (hM := by decide)).trans ?_
    | with_reducible refine (takeCmd_without (hM := by decide)).trans ?_
    | with_reducible refine (refuseCmd_without (hM := by decide)).trans ?_
    | with_reducible refine (cmdComb_without (hM := by decide)).trans ?_
    | with_reducible refine (cmdSuper_without (hM := by decide)).trans ?_
    | with_reducible refine (cmdPort_without (hM := by decide)).trans ?_
    | with_reducible refine ite_without (fun _ => ?_) (fun _ => ?_)
    | split

theorem effSmoke_without {M : List Piece} {p : Part} {r : Ring} {s : State} (hM : sub [.out, .host, .draws, .hum, .seq, .cellMem, .cellRun, .combMem, .router, .superMem, .superTree, .hild, .ctx, .rings, .evq, .partRegs, .mod] M = true) :
    (effSmoke p r s).without M = s.without M := by
  refine Within.mono (n := [.out, .host, .draws, .hum, .seq, .cellMem, .cellRun, .combMem, .router, .superMem, .superTree, .hild, .ctx, .rings, .evq, .partRegs, .mod]) ?_ hM
  unfold Within effSmoke
  (try dsimp only)
  repeat' first
    | with_reducible rfl
    | intro _
    | with_reducible refine (askPartition_without (hM := by decide)).trans ?_
    | with_reducible refine (askComb_without (hM := by decide)).trans ?_
    | with_reducible refine ite_without (fun _ => ?_) (fun _ => ?_)
    | split

theorem retireSlot_without {M : List Piece} {k : Super} {id : KeyId} {s : State} (hM : sub [.superKeys] M = true) :
    (retireSlot k id s).without M = s.without M := by
  refine Within.mono (n := [.superKeys]) ?_ hM
  unfold Within retireSlot
  repeat' first
    | with_reducible rfl
    | intro _
    | with_reducible refine (modSuper_without (h := ?_) ..).trans ?_
    | with_reducible refine ite_without (fun _ => ?_) (fun _ => ?_)
    | split
    | rfl

theorem retireKeys_without {M : List Piece} {p : Part} {s : State} (hM : sub [.superKeys] M = true) :
    (retireKeys p s).without M = s.without M := by
  refine Within.mono (n := [.superKeys]) ?_ hM
  unfold Within retireKeys
  repeat' first
    | with_reducible rfl
    | intro _
    | with_reducible refine (retireSlot_without (hM := by decide)).trans ?_
    | with_reducible refine (forEach_without (h := ?_) ..).trans ?_

theorem settleContext_without {M : List Piece} {p : Part} {s : State} (hM : sub [.ctx, .partRegs, .queen] M = true) :
    (settleContext p s).without M = s.without M := by
  refine Within.mono (n := [.ctx, .partRegs, .queen]) ?_ hM
  unfold Within settleContext
  (try dsimp only)
  repeat' first
    | with_reducible rfl
    | intro _
    | with_reducible refine (modQueen_without (h := by decide) ..).trans ?_
    | with_reducible refine (modPart_without (h := ?_) ..).trans ?_
    | with_reducible refine ite_without (fun _ => ?_) (fun _ => ?_)
    | split
    | rfl

theorem zeroiseContext_without {M : List Piece} {p : Part} {s : State} (hM : sub [.combRegs, .router, .hild, .ctx] M = true) :
    (zeroiseContext p s).without M = s.without M := by
  refine Within.mono (n := [.combRegs, .router, .hild, .ctx]) ?_ hM
  unfold Within zeroiseContext
  (try dsimp only)
  repeat' first
    | with_reducible rfl
    | intro _
    | with_reducible refine (modComb_without (h := ?_) ..).trans ?_
    | with_reducible refine (modJob_without (h := by decide) ..).trans ?_
    | with_reducible refine (modCtx_without (h := by decide) ..).trans ?_
    | with_reducible refine (modHild_without (h := by decide) ..).trans ?_
    | with_reducible refine (forEach_without (h := ?_) ..).trans ?_
    | split
    | rfl

theorem idleComb_without {M : List Piece} {c : CombState} (hM : sub [.seq, .cellMem, .cellRun, .combMem] M = true) :
    (idleComb c).without M = c.without M := by
  refine comb_mono (n := [.seq, .cellMem, .cellRun, .combMem]) ?_ hM
  unfold idleComb
  exact comb_cells_without rfl rfl rfl

theorem beginTeardown_without {M : List Piece} {p : Part} {s : State} (hM : sub [.out, .host, .draws, .hum, .seq, .cellMem, .cellRun, .combMem, .router, .superMem, .superTree, .hild, .ctx, .rings, .evq, .partRegs, .mod] M = true) :
    (beginTeardown p s).without M = s.without M := by
  refine Within.mono (n := [.out, .host, .draws, .hum, .seq, .cellMem, .cellRun, .combMem, .router, .superMem, .superTree, .hild, .ctx, .rings, .evq, .partRegs, .mod]) ?_ hM
  unfold Within beginTeardown
  (try dsimp only)
  repeat' first
    | with_reducible rfl
    | intro _
    | with_reducible refine (modCtx_without (h := by decide) ..).trans ?_
    | with_reducible refine (raiseAlarm_without (hM := by decide)).trans ?_
    | with_reducible refine (takeOver_without (hM := by decide)).trans ?_
    | with_reducible refine (stopWhole_without (hM := by decide)).trans ?_
    | with_reducible refine ite_without (fun _ => ?_) (fun _ => ?_)

theorem dropInFlight_without {M : List Piece} {combs : List Comb} {s : State} (hM : sub [.router] M = true) :
    (dropInFlight combs s).without M = s.without M := by
  refine Within.mono (n := [.router]) ?_ hM
  unfold Within dropInFlight
  repeat' first
    | with_reducible rfl
    | intro _
    | with_reducible refine (modRouter_without (h := by decide) ..).trans ?_
    | with_reducible refine (forEach_without (h := ?_) ..).trans ?_

theorem restartPorts_without {M : List Piece} {combs : List Comb} {s : State} (hM : sub faultPieces M = true) :
    (restartPorts combs s).without M = s.without M := by
  refine Within.mono (n := faultPieces) ?_ hM
  unfold Within restartPorts
  repeat' first
    | with_reducible rfl
    | intro _
    | with_reducible refine (strandDown_without (hM := by decide)).trans ?_
    | with_reducible refine (forEach_without (h := ?_) ..).trans ?_
    | with_reducible refine ite_without (fun _ => ?_) (fun _ => ?_)

theorem applyResets_without {M : List Piece} {p : Part} {r : Recovery} {s : State} (hM : sub faultPieces M = true) :
    (applyResets p r s).without M = s.without M := by
  refine Within.mono (n := faultPieces) ?_ hM
  unfold Within applyResets
  (try dsimp only)
  repeat' first
    | with_reducible rfl
    | intro _
    | with_reducible refine (modHild_without (h := by decide) ..).trans ?_
    | with_reducible refine (resetCombDomain_without (hM := by decide)).trans ?_
    | with_reducible refine (resetSuperDomain_without (hM := by decide)).trans ?_
    | with_reducible refine (endCkpt_without (hM := by decide)).trans ?_
    | with_reducible refine (abortRestore_without (hM := by decide)).trans ?_
    | with_reducible refine (stopSuper_without (hM := by decide)).trans ?_
    | with_reducible refine (restartPorts_without (hM := by decide)).trans ?_
    | with_reducible refine (forEach_without (h := ?_) ..).trans ?_
    | with_reducible refine ite_without (fun _ => ?_) (fun _ => ?_)

theorem proceed_without {M : List Piece} {p : Part} {i : Nat} {late : Bool} {s : State} (hM : sub faultPieces M = true) :
    (proceed p i late s).without M = s.without M := by
  refine Within.mono (n := faultPieces) ?_ hM
  unfold Within proceed
  (try dsimp only)
  repeat' first
    | with_reducible rfl
    | intro _
    | with_reducible refine (modComb_without (h := ?_) ..).trans ?_
    | with_reducible refine (modEvt_without (h := by decide) ..).trans ?_
    | with_reducible refine (modPart_without (h := ?_) ..).trans ?_
    | with_reducible refine (stopHild_without (hM := by decide)).trans ?_
    | with_reducible refine (capture_without (hM := by decide)).trans ?_
    | with_reducible refine (retireKeys_without (hM := by decide)).trans ?_
    | with_reducible refine (zeroiseContext_without (hM := by decide)).trans ?_
    | with_reducible refine (idleComb_without (hM := by decide)).trans ?_
    | with_reducible refine (dropInFlight_without (hM := by decide)).trans ?_
    | with_reducible refine (applyResets_without (hM := by decide)).trans ?_
    | with_reducible refine (forEach_without (h := ?_) ..).trans ?_
    | with_reducible refine ite_without (fun _ => ?_) (fun _ => ?_)
    | split
    | with_reducible refine fst_without (by assumption) ?_
    | rfl

theorem effDrainDone_without {M : List Piece} {p : Part} {s : State} (hM : sub faultPieces M = true) :
    (effDrainDone p s).without M = s.without M := by
  refine Within.mono (n := faultPieces) ?_ hM
  unfold Within effDrainDone
  repeat' first
    | with_reducible rfl
    | intro _
    | with_reducible refine (proceed_without (hM := by decide)).trans ?_
    | split

theorem effDeadline_without {M : List Piece} {p : Part} {s : State} (hM : sub faultPieces M = true) :
    (effDeadline p s).without M = s.without M := by
  refine Within.mono (n := faultPieces) ?_ hM
  unfold Within effDeadline
  repeat' first
    | with_reducible rfl
    | intro _
    | with_reducible refine (proceed_without (hM := by decide)).trans ?_
    | split

theorem endSmoke_without {M : List Piece} {n : Nat} {m : RunDesc × DWord × Bool} {s : State} (hM : sub [.out, .host, .seq, .rings, .sems] M = true) :
    (endSmoke n m s).without M = s.without M := by
  refine Within.mono (n := [.out, .host, .seq, .rings, .sems]) ?_ hM
  unfold Within endSmoke
  (try dsimp only)
  repeat' first
    | with_reducible rfl
    | intro _
    | with_reducible refine (modDesc_without (h := by decide) ..).trans ?_
    | with_reducible refine (writeRecord_without (hM := by decide)).trans ?_
    | split

theorem reopen_without {M : List Piece} {p : Part} {s : State} (hM : sub [.router, .partRegs] M = true) :
    (reopen p s).without M = s.without M := by
  refine Within.mono (n := [.router, .partRegs]) ?_ hM
  unfold Within reopen
  (try dsimp only)
  repeat' first
    | with_reducible rfl
    | intro _
    | with_reducible refine (modRouter_without (h := by decide) ..).trans ?_
    | with_reducible refine (modPart_without (h := ?_) ..).trans ?_
    | with_reducible refine (forEach_without (h := ?_) ..).trans ?_
    | rfl

theorem stopAgain_without {M : List Piece} {p : Part} {l : List (Super × Nat)} {s : State} (hM : sub faultPieces M = true) :
    (stopAgain p l s).without M = s.without M := by
  refine Within.mono (n := faultPieces) ?_ hM
  unfold Within stopAgain
  repeat' first
    | with_reducible rfl
    | intro _
    | with_reducible refine (stopPartition_without (hM := by decide)).trans ?_
    | split

theorem finishRecovery_without {M : List Piece} {p : Part} {r : Recovery} {s : State} (hM : sub faultPieces M = true) :
    (finishRecovery p r s).without M = s.without M := by
  refine Within.mono (n := faultPieces) ?_ hM
  unfold Within finishRecovery
  (try dsimp only)
  repeat' first
    | with_reducible rfl
    | intro _
    | with_reducible refine (modEvt_without (h := by decide) ..).trans ?_
    | with_reducible refine (modPart_without (h := ?_) ..).trans ?_
    | with_reducible refine (platEvent_without (hM := by decide)).trans ?_
    | with_reducible refine (postEvent_without (hM := by decide)).trans ?_
    | with_reducible refine (flushRings_without (hM := by decide)).trans ?_
    | with_reducible refine (startNext_without (hM := by decide)).trans ?_
    | with_reducible refine (autoCkpt_without (hM := by decide)).trans ?_
    | with_reducible refine (settleContext_without (hM := by decide)).trans ?_
    | with_reducible refine (endSmoke_without (hM := by decide)).trans ?_
    | with_reducible refine (reopen_without (hM := by decide)).trans ?_
    | with_reducible refine (stopAgain_without (hM := by decide)).trans ?_
    | with_reducible refine (forEach_without (h := ?_) ..).trans ?_
    | with_reducible refine ite_without (fun _ => ?_) (fun _ => ?_)
    | split
    | rfl

theorem effRecoveryDone_without {M : List Piece} {p : Part} {s : State} (hM : sub faultPieces M = true) :
    (effRecoveryDone p s).without M = s.without M := by
  refine Within.mono (n := faultPieces) ?_ hM
  unfold Within effRecoveryDone
  repeat' first
    | with_reducible rfl
    | intro _
    | with_reducible refine (finishRecovery_without (hM := by decide)).trans ?_
    | split

theorem noteAgain_without {M : List Piece} {k : Super} {ns : List Nat} {s : State} (hM : sub [.partRegs] M = true) :
    (noteAgain k ns s).without M = s.without M := by
  refine Within.mono (n := [.partRegs]) ?_ hM
  unfold Within noteAgain
  (try dsimp only)
  repeat' first
    | with_reducible rfl
    | intro _
    | with_reducible refine (modPart_without (h := ?_) ..).trans ?_
    | with_reducible refine (forEach_without (h := ?_) ..).trans ?_
    | rfl

theorem wakeController_without {M : List Piece} {k : Super} {s : State} (hM : sub faultPieces M = true) :
    (wakeController k s).without M = s.without M := by
  refine Within.mono (n := faultPieces) ?_ hM
  unfold Within wakeController
  (try dsimp only)
  repeat' first
    | with_reducible rfl
    | intro _
    | with_reducible refine (modSuper_without (h := ?_) ..).trans ?_
    | with_reducible refine (nextRepair_without (hM := by decide)).trans ?_
    | with_reducible refine (keySuperLink_without (hM := by decide)).trans ?_
    | with_reducible refine (nodeNote_without (hM := by decide)).trans ?_
    | with_reducible refine (noteAgain_without (hM := by decide)).trans ?_
    | with_reducible refine (forEach_without (h := ?_) ..).trans ?_
    | rfl

theorem effSuperDone_without {M : List Piece} {k : Super} {s : State} (hM : sub faultPieces M = true) :
    (effSuperDone k s).without M = s.without M := by
  refine Within.mono (n := faultPieces) ?_ hM
  unfold Within effSuperDone
  (try dsimp only)
  repeat' first
    | with_reducible rfl
    | intro _
    | with_reducible refine (unitResetDone_without (hM := by decide)).trans ?_
    | with_reducible refine (resumeSuper_without (hM := by decide)).trans ?_
    | with_reducible refine (wakeController_without (hM := by decide)).trans ?_
    | with_reducible refine ite_without (fun _ => ?_) (fun _ => ?_)

theorem countWdog_without {M : List Piece} {s : State} (hM : sub [.evt] M = true) :
    (countWdog s).without M = s.without M := by
  refine Within.mono (n := [.evt]) ?_ hM
  unfold Within countWdog
  repeat' first
    | with_reducible rfl
    | intro _
    | with_reducible refine (modEvt_without (h := by decide) ..).trans ?_

theorem effCombWdog_without {M : List Piece} {k : Comb} {s : State} (hM : sub faultPieces M = true) :
    (effCombWdog k s).without M = s.without M := by
  refine Within.mono (n := faultPieces) ?_ hM
  unfold Within effCombWdog
  (try dsimp only)
  repeat' first
    | with_reducible rfl
    | intro _
    | with_reducible refine (finish_without (hM := by decide)).trans ?_
    | with_reducible refine (raiseAlarm_without (hM := by decide)).trans ?_
    | with_reducible refine (partitionFault_without (hM := by decide)).trans ?_
    | with_reducible refine (countWdog_without (hM := by decide)).trans ?_
    | with_reducible refine ite_without (fun _ => ?_) (fun _ => ?_)
    | split

theorem superHung_without {M : List Piece} {k : Super} {unit : Nat} {s : State} (hM : sub faultPieces M = true) :
    (superHung k unit s).without M = s.without M := by
  refine Within.mono (n := faultPieces) ?_ hM
  unfold Within superHung
  (try dsimp only)
  repeat' first
    | with_reducible rfl
    | intro _
    | with_reducible refine (stopInternal_without (hM := by decide)).trans ?_
    | with_reducible refine (countWdog_without (hM := by decide)).trans ?_
    | split

theorem ewTrip_without {M : List Piece} {p : Part} {m : Fin 7} {n : Nat} {s : State} (hM : sub faultPieces M = true) :
    (ewTrip p m n s).without M = s.without M := by
  refine Within.mono (n := faultPieces) ?_ hM
  unfold Within ewTrip
  (try dsimp only)
  repeat' first
    | with_reducible rfl
    | intro _
    | with_reducible refine (drawn_without (h := by decide) ..).trans ?_
    | with_reducible refine (modEvt_without (h := by decide) ..).trans ?_
    | with_reducible refine (modPart_without (h := ?_) ..).trans ?_
    | with_reducible refine (postEvent_without (hM := by decide)).trans ?_
    | with_reducible refine (ckptTrigger_without (hM := by decide)).trans ?_
    | with_reducible refine ite_without (fun _ => ?_) (fun _ => ?_)
    | split
    | rfl

theorem effWindowEnd_without {M : List Piece} {p : Part} {s : State} (hM : sub faultPieces M = true) :
    (effWindowEnd p s).without M = s.without M := by
  refine Within.mono (n := faultPieces) ?_ hM
  unfold Within effWindowEnd
  (try dsimp only)
  repeat' first
    | with_reducible rfl
    | intro _
    | with_reducible refine (modSuper_without (h := ?_) ..).trans ?_
    | with_reducible refine (modPart_without (h := ?_) ..).trans ?_
    | with_reducible refine (ewTrip_without (hM := by decide)).trans ?_
    | with_reducible refine (forEach_without (h := ?_) ..).trans ?_
    | with_reducible refine ite_without (fun _ => ?_) (fun _ => ?_)
    | split
    | rfl

/-! ### Machine/HostPort.lean -/

theorem badMmio_without {M : List Piece} {f : Fn} {s : State} (hM : sub [.fns] M = true) :
    (badMmio f s).without M = s.without M := by
  refine Within.mono (n := [.fns]) ?_ hM
  unfold Within badMmio
  repeat' first
    | with_reducible rfl
    | intro _
    | with_reducible refine (modFn_without (h := by decide) ..).trans ?_

theorem denyWindow_without {M : List Piece} {a : Nat} {s : State} (hM : sub [.mod] M = true) :
    (denyWindow a s).without M = s.without M := by
  refine Within.mono (n := [.mod]) ?_ hM
  unfold Within denyWindow
  repeat' first
    | with_reducible rfl
    | intro _
    | with_reducible refine (modMod_without (h := by decide) ..).trans ?_

theorem effBar2Read_without {M : List Piece} {off n : Nat} {s : State} (hM : sub faultPieces M = true) :
    (effBar2Read off n s).without M = s.without M := by
  refine Within.mono (n := faultPieces) ?_ hM
  unfold Within effBar2Read
  (try dsimp only)
  repeat' first
    | with_reducible rfl
    | intro _
    | with_reducible refine (emit_without (h := by decide) ..).trans ?_
    | with_reducible refine (dbgBlock_without (hM := by decide)).trans ?_
    | with_reducible refine (submit_without (hM := by decide)).trans ?_
    | with_reducible refine (denyWindow_without (hM := by decide)).trans ?_
    | with_reducible refine (forEach_without (h := ?_) ..).trans ?_
    | with_reducible refine ite_without (fun _ => ?_) (fun _ => ?_)

theorem stageWrite_without {M : List Piece} {off : Nat} {data : Bytes} {s : State} (hM : sub [.combMem] M = true) :
    (stageWrite off data s).without M = s.without M := by
  refine Within.mono (n := [.combMem]) ?_ hM
  unfold Within stageWrite
  (try dsimp only)
  repeat' first
    | with_reducible rfl
    | intro _
    | with_reducible refine (combWrite_without (hM := by decide)).trans ?_

theorem effBar2Write_without {M : List Piece} {off : Nat} {data : Bytes} {s : State} (hM : sub [.combMem, .superRegs, .mod] M = true) :
    (effBar2Write off data s).without M = s.without M := by
  refine Within.mono (n := [.combMem, .superRegs, .mod]) ?_ hM
  unfold Within effBar2Write
  (try dsimp only)
  repeat' first
    | with_reducible rfl
    | intro _
    | with_reducible refine (dbgBlock_without (hM := by decide)).trans ?_
    | with_reducible refine (denyWindow_without (hM := by decide)).trans ?_
    | with_reducible refine (stageWrite_without (hM := by decide)).trans ?_
    | with_reducible refine ite_without (fun _ => ?_) (fun _ => ?_)

theorem countFail_without {M : List Piece} {f : Fn} {fail : HostFail} {s : State} (hM : sub [.fns] M = true) :
    (countFail f fail s).without M = s.without M := by
  refine Within.mono (n := [.fns]) ?_ hM
  unfold Within countFail
  repeat' first
    | with_reducible rfl
    | intro _
    | with_reducible refine (modFn_without (h := by decide) ..).trans ?_

theorem skipPoll_without {M : List Piece} {src : PollSrc} {s : State} (hM : sub [.rings, .evq, .mod] M = true) :
    (skipPoll src s).without M = s.without M := by
  refine Within.mono (n := [.rings, .evq, .mod]) ?_ hM
  unfold Within skipPoll
  (try dsimp only)
  repeat' first
    | with_reducible rfl
    | intro _
    | with_reducible refine (modMod_without (h := by decide) ..).trans ?_
    | with_reducible refine (modPart_without (h := ?_) ..).trans ?_
    | with_reducible refine (modRing_without (h := by decide) ..).trans ?_
    | split
    | rfl

theorem failTransfer_without {M : List Piece} {k : Comb} {f : Fin 4} {fail : HostFail} {s : State} (hM : sub faultPieces M = true) :
    (failTransfer k f fail s).without M = s.without M := by
  refine Within.mono (n := faultPieces) ?_ hM
  unfold Within failTransfer
  (try dsimp only)
  repeat' first
    | with_reducible rfl
    | intro _
    | with_reducible refine (finish_without (hM := by decide)).trans ?_
    | with_reducible refine (stopInternal_without (hM := by decide)).trans ?_
    | with_reducible refine (countFail_without (hM := by decide)).trans ?_
    | with_reducible refine ite_without (fun _ => ?_) (fun _ => ?_)
    | split

theorem effReadFail_without {M : List Piece} {fail : HostFail} {what : HostReadKind} {s : State} (hM : sub faultPieces M = true) :
    (effReadFail fail what s).without M = s.without M := by
  refine Within.mono (n := faultPieces) ?_ hM
  unfold Within effReadFail
  repeat' first
    | with_reducible rfl
    | intro _
    | with_reducible refine (modRing_without (h := by decide) ..).trans ?_
    | with_reducible refine (hostArrived_without (hM := by decide)).trans ?_
    | with_reducible refine (failDesc_without (hM := by decide)).trans ?_
    | with_reducible refine (endCkpt_without (hM := by decide)).trans ?_
    | with_reducible refine (countFail_without (hM := by decide)).trans ?_
    | with_reducible refine (skipPoll_without (hM := by decide)).trans ?_
    | with_reducible refine (failTransfer_without (hM := by decide)).trans ?_
    | with_reducible refine ite_without (fun _ => ?_) (fun _ => ?_)
    | split

theorem unsecure_without {M : List Piece} {f : Fn} {s : State} (hM : sub faultPieces M = true) :
    (unsecure f s).without M = s.without M := by
  refine Within.mono (n := faultPieces) ?_ hM
  unfold Within unsecure
  (try dsimp only)
  repeat' first
    | with_reducible rfl
    | intro _
    | with_reducible refine (modFn_without (h := by decide) ..).trans ?_
    | with_reducible refine (noteNoIde_without (hM := by decide)).trans ?_
    | with_reducible refine (endCkpt_without (hM := by decide)).trans ?_
    | with_reducible refine ite_without (fun _ => ?_) (fun _ => ?_)
    | split

theorem tdiError_without {M : List Piece} {f : Fn} {s : State} (hM : sub [.fns] M = true) :
    (tdiError f s).without M = s.without M := by
  refine Within.mono (n := [.fns]) ?_ hM
  unfold Within tdiError
  repeat' first
    | with_reducible rfl
    | intro _
    | with_reducible refine (modFn_without (h := by decide) ..).trans ?_

theorem flrRings_without {M : List Piece} {p : Part} {s : State} (hM : sub [.rings, .evq, .partRegs] M = true) :
    (flrRings p s).without M = s.without M := by
  refine Within.mono (n := [.rings, .evq, .partRegs]) ?_ hM
  unfold Within flrRings
  repeat' first
    | with_reducible rfl
    | intro _
    | with_reducible refine (modPart_without (h := ?_) ..).trans ?_
    | rfl

theorem flrFn_without {M : List Piece} {f : Fn} {s : State} (hM : sub [.out, .host, .fns] M = true) :
    (flrFn f s).without M = s.without M := by
  refine Within.mono (n := [.out, .host, .fns]) ?_ hM
  unfold Within flrFn
  repeat' first
    | with_reducible rfl
    | intro _
    | with_reducible refine (modFn_without (h := by decide) ..).trans ?_
    | with_reducible refine (drainHost_without (hM := by decide)).trans ?_
    | with_reducible refine (hostDrop_without (hM := by decide)).trans ?_
    | with_reducible refine (tdiError_without (hM := by decide)).trans ?_

theorem flrVf_without {M : List Piece} {p : Part} {s : State} (hM : sub [.out, .host, .draws, .hum, .seq, .cellMem, .cellRun, .combMem, .router, .superMem, .superTree, .hild, .ctx, .rings, .evq, .partRegs, .fns, .mod] M = true) :
    (flrVf p s).without M = s.without M := by
  refine Within.mono (n := [.out, .host, .draws, .hum, .seq, .cellMem, .cellRun, .combMem, .router, .superMem, .superTree, .hild, .ctx, .rings, .evq, .partRegs, .fns, .mod]) ?_ hM
  unfold Within flrVf
  (try dsimp only)
  repeat' first
    | with_reducible rfl
    | intro _
    | with_reducible refine (modPart_without (h := ?_) ..).trans ?_
    | with_reducible refine (askPartition_without (hM := by decide)).trans ?_
    | with_reducible refine (flrRings_without (hM := by decide)).trans ?_
    | with_reducible refine (flrFn_without (hM := by decide)).trans ?_
    | with_reducible refine ite_without (fun _ => ?_) (fun _ => ?_)
    | split
    | rfl

theorem dropVfs_without {M : List Piece} {s : State} (hM : sub [.out, .host, .draws, .hum, .seq, .cellMem, .cellRun, .combMem, .router, .superMem, .superTree, .hild, .ctx, .rings, .evq, .partRegs, .fns, .mod] M = true) :
    (dropVfs s).without M = s.without M := by
  refine Within.mono (n := [.out, .host, .draws, .hum, .seq, .cellMem, .cellRun, .combMem, .router, .superMem, .superTree, .hild, .ctx, .rings, .evq, .partRegs, .fns, .mod]) ?_ hM
  unfold Within dropVfs
  repeat' first
    | with_reducible rfl
    | intro _
    | with_reducible refine (modMod_without (h := by decide) ..).trans ?_
    | with_reducible refine (flrVf_without (hM := by decide)).trans ?_
    | with_reducible refine (forEach_without (h := ?_) ..).trans ?_

theorem flrPf0_without {M : List Piece} {s : State} (hM : sub [.out, .host, .draws, .hum, .seq, .cellMem, .cellRun, .combMem, .router, .superMem, .superTree, .hild, .ctx, .rings, .evq, .partRegs, .fns, .mod] M = true) :
    (flrPf0 s).without M = s.without M := by
  refine Within.mono (n := [.out, .host, .draws, .hum, .seq, .cellMem, .cellRun, .combMem, .router, .superMem, .superTree, .hild, .ctx, .rings, .evq, .partRegs, .fns, .mod]) ?_ hM
  unfold Within flrPf0
  repeat' first
    | with_reducible rfl
    | intro _
    | with_reducible refine (modMod_without (h := by decide) ..).trans ?_
    | with_reducible refine (flrFn_without (hM := by decide)).trans ?_
    | with_reducible refine (dropVfs_without (hM := by decide)).trans ?_

theorem portReset_without {M : List Piece} {s : State} (hM : sub faultPieces M = true) :
    (portReset s).without M = s.without M := by
  refine Within.mono (n := faultPieces) ?_ hM
  unfold Within portReset
  (try dsimp only)
  repeat' first
    | with_reducible rfl
    | intro _
    | with_reducible refine (modMgmt_without (h := by decide) ..).trans ?_
    | with_reducible refine (modFn_without (h := by decide) ..).trans ?_
    | with_reducible refine (modMod_without (h := by decide) ..).trans ?_
    | with_reducible refine (unsecure_without (hM := by decide)).trans ?_
    | with_reducible refine (flrPf0_without (hM := by decide)).trans ?_
    | with_reducible refine (forEach_without (h := ?_) ..).trans ?_

theorem enableChange_without {M : List Piece} {f : Fn} {changed : Bool} {s : State} (hM : sub [.fns] M = true) :
    (enableChange f changed s).without M = s.without M := by
  refine Within.mono (n := [.fns]) ?_ hM
  unfold Within enableChange
  repeat' first
    | with_reducible rfl
    | intro _
    | with_reducible refine (tdiError_without (hM := by decide)).trans ?_
    | with_reducible refine ite_without (fun _ => ?_) (fun _ => ?_)

/-! ### Machine/Trust.lean -/

theorem broadcast_without {M : List Piece} {epoch : Word} {d : Die} {s : State} (hM : sub [.dies] M = true) :
    (broadcast epoch d s).without M = s.without M := by
  refine Within.mono (n := [.dies]) ?_ hM
  unfold Within broadcast
  repeat' first
    | with_reducible rfl
    | intro _
    | with_reducible refine (modDie_without (h := ?_) ..).trans ?_
    | with_reducible refine (forEach_without (h := ?_) ..).trans ?_
    | rfl

theorem abortSpdm_without {M : List Piece} {s : State} (hM : sub [.mgmt] M = true) :
    (abortSpdm s).without M = s.without M := by
  refine Within.mono (n := [.mgmt]) ?_ hM
  unfold Within abortSpdm
  repeat' first
    | with_reducible rfl
    | intro _
    | with_reducible refine (modMgmt_without (h := by decide) ..).trans ?_

theorem postCrown_without {M : List Piece} {epoch : Word} {d : Die} {s : State} (hM : sub [.out, .host, .evq, .mod] M = true) :
    (postCrown epoch d s).without M = s.without M := by
  refine Within.mono (n := [.out, .host, .evq, .mod]) ?_ hM
  unfold Within postCrown
  (try dsimp only)
  repeat' first
    | with_reducible rfl
    | intro _
    | with_reducible refine (eventToPart_without (hM := by decide)).trans ?_
    | with_reducible refine (eventToPf0_without (hM := by decide)).trans ?_
    | with_reducible refine (forEach_without (h := ?_) ..).trans ?_

theorem crownTo_without {M : List Piece} {epoch : Word} {d : Die} {other : BitVec 2} {s : State} (hM : sub [.out, .host, .evq, .dies, .queen, .mgmt, .mod] M = true) :
    (crownTo epoch d other s).without M = s.without M := by
  refine Within.mono (n := [.out, .host, .evq, .dies, .queen, .mgmt, .mod]) ?_ hM
  unfold Within crownTo
  (try dsimp only)
  repeat' first
    | with_reducible rfl
    | intro _
    | with_reducible refine (modQueen_without (h := by decide) ..).trans ?_
    | with_reducible refine (platEvent_without (hM := by decide)).trans ?_
    | with_reducible refine (broadcast_without (hM := by decide)).trans ?_
    | with_reducible refine (abortSpdm_without (hM := by decide)).trans ?_
    | with_reducible refine (postCrown_without (hM := by decide)).trans ?_

theorem sbFail_without {M : List Piece} {s : State} (hM : sub [.queen] M = true) :
    (sbFail s).without M = s.without M := by
  refine Within.mono (n := [.queen]) ?_ hM
  unfold Within sbFail
  repeat' first
    | with_reducible rfl
    | intro _
    | with_reducible refine (modQueen_without (h := by decide) ..).trans ?_

theorem takeMessage_without {M : List Piece} {msg : Sideband} {s : State} (hM : sub [.out, .host, .evq, .dies, .queen, .mgmt, .mod] M = true) :
    (takeMessage msg s).without M = s.without M := by
  refine Within.mono (n := [.out, .host, .evq, .dies, .queen, .mgmt, .mod]) ?_ hM
  unfold Within takeMessage
  repeat' first
    | with_reducible rfl
    | intro _
    | with_reducible refine (crownTo_without (hM := by decide)).trans ?_
    | with_reducible refine ite_without (fun _ => ?_) (fun _ => ?_)
    | split

theorem loadSlot_without {M : List Piece} {k : Super} {id : KeyId} {key : BitVec 256} {s : State} (hM : sub [.draws, .combMap, .hum, .combRegs, .router, .superMem, .superTree, .superKeys, .superRegs, .queen] M = true) :
    (loadSlot k id key s).without M = s.without M := by
  refine Within.mono (n := [.draws, .combMap, .hum, .combRegs, .router, .superMem, .superTree, .superKeys, .superRegs, .queen]) ?_ hM
  unfold Within loadSlot
  repeat' first
    | with_reducible rfl
    | intro _
    | with_reducible refine (drawn_without (h := by decide) ..).trans ?_
    | with_reducible refine (modSuper_without (h := ?_) ..).trans ?_
    | with_reducible refine (powerAll_without (hM := by decide)).trans ?_
    | with_reducible refine (logRefusal_without (hM := by decide)).trans ?_
    | with_reducible refine ite_without (fun _ => ?_) (fun _ => ?_)
    | split
    | rfl

theorem applyCfg_without {M : List Piece} {w : CfgWrite} {s : State} (hM : sub [.draws, .combMap, .hum, .combRegs, .router, .superMem, .superTree, .superKeys, .superRegs, .hild, .fuses, .queen, .mod] M = true) :
    (applyCfg w s).without M = s.without M := by
  refine Within.mono (n := [.draws, .combMap, .hum, .combRegs, .router, .superMem, .superTree, .superKeys, .superRegs, .hild, .fuses, .queen, .mod]) ?_ hM
  unfold Within applyCfg
  repeat' first
    | with_reducible rfl
    | intro _
    | with_reducible refine (modDie_without (h := ?_) ..).trans ?_
    | with_reducible refine (modComb_without (h := ?_) ..).trans ?_
    | with_reducible refine (modMod_without (h := by decide) ..).trans ?_
    | with_reducible refine (modHild_without (h := by decide) ..).trans ?_
    | with_reducible refine (logRefusal_without (hM := by decide)).trans ?_
    | with_reducible refine (effJobWrite_without (hM := by decide)).trans ?_
    | with_reducible refine (effLeaseWrite_without (hM := by decide)).trans ?_
    | with_reducible refine (modLink_without (hM := by decide)).trans ?_
    | with_reducible refine (loadSlot_without (hM := by decide)).trans ?_
    | with_reducible refine (forEach_without (h := ?_) ..).trans ?_
    | with_reducible refine ite_without (fun _ => ?_) (fun _ => ?_)
    | split
    | rfl

theorem partErr_without {M : List Piece} {e : Nat} {s : State} (hM : sub [.queen] M = true) :
    (partErr e s).without M = s.without M := by
  refine Within.mono (n := [.queen]) ?_ hM
  unfold Within partErr
  repeat' first
    | with_reducible rfl
    | intro _
    | with_reducible refine (modQueen_without (h := by decide) ..).trans ?_

theorem setLinks_without {M : List Piece} {ks : List Comb} {on : Bool} {s : State} (hM : sub [.mod] M = true) :
    (setLinks ks on s).without M = s.without M := by
  refine Within.mono (n := [.mod]) ?_ hM
  unfold Within setLinks
  repeat' first
    | with_reducible rfl
    | intro _
    | with_reducible refine (modMod_without (h := by decide) ..).trans ?_
    | with_reducible refine (forEach_without (h := ?_) ..).trans ?_

theorem makePartition_without {M : List Piece} {p : Part} {psize : BitVec 2} {s : State} (hM : sub [.out, .host, .draws, .combMap, .hum, .seq, .cellMem, .cellRun, .combRegs, .combMem, .router, .superMem, .superTree, .superKeys, .superRegs, .partMap, .ctx, .rings, .evq, .sems, .regions, .partRegs, .mod] M = true) :
    (makePartition p psize s).without M = s.without M := by
  refine Within.mono (n := [.out, .host, .draws, .combMap, .hum, .seq, .cellMem, .cellRun, .combRegs, .combMem, .router, .superMem, .superTree, .superKeys, .superRegs, .partMap, .ctx, .rings, .evq, .sems, .regions, .partRegs, .mod]) ?_ hM
  unfold Within makePartition
  (try dsimp only)
  repeat' first
    | with_reducible rfl
    | intro _
    | with_reducible refine (modComb_without (h := ?_) ..).trans ?_
    | with_reducible refine (modPart_without (h := ?_) ..).trans ?_
    | with_reducible refine (powerAll_without (hM := by decide)).trans ?_
    | with_reducible refine (resetCombDomain_without (hM := by decide)).trans ?_
    | with_reducible refine (setLinks_without (hM := by decide)).trans ?_
    | with_reducible refine (forEach_without (h := ?_) ..).trans ?_
    | rfl

theorem effCreate_without {M : List Piece} {p : Part} {psize : BitVec 2} {s : State} (hM : sub [.out, .host, .draws, .combMap, .hum, .seq, .cellMem, .cellRun, .combRegs, .combMem, .router, .superMem, .superTree, .superKeys, .superRegs, .partMap, .ctx, .rings, .evq, .sems, .regions, .partRegs, .queen, .mod] M = true) :
    (effCreate p psize s).without M = s.without M := by
  refine Within.mono (n := [.out, .host, .draws, .combMap, .hum, .seq, .cellMem, .cellRun, .combRegs, .combMem, .router, .superMem, .superTree, .superKeys, .superRegs, .partMap, .ctx, .rings, .evq, .sems, .regions, .partRegs, .queen, .mod]) ?_ hM
  unfold Within effCreate
  (try dsimp only)
  repeat' first
    | with_reducible rfl
    | intro _
    | with_reducible refine (partErr_without (hM := by decide)).trans ?_
    | with_reducible refine (makePartition_without (hM := by decide)).trans ?_
    | with_reducible refine ite_without (fun _ => ?_) (fun _ => ?_)

theorem startPartCmd_without {M : List Piece} {op : BitVec 2} {p : Part} {s : State} (hM : sub [.partRegs, .queen] M = true) :
    (startPartCmd op p s).without M = s.without M := by
  refine Within.mono (n := [.partRegs, .queen]) ?_ hM
  unfold Within startPartCmd
  repeat' first
    | with_reducible rfl
    | intro _
    | with_reducible refine (modQueen_without (h := by decide) ..).trans ?_
    | with_reducible refine (modPart_without (h := ?_) ..).trans ?_
    | rfl

theorem effRemove_without {M : List Piece} {p : Part} {s : State} (hM : sub [.out, .host, .draws, .hum, .seq, .cellMem, .cellRun, .combMem, .router, .superMem, .superTree, .hild, .ctx, .rings, .evq, .partRegs, .fns, .queen, .mod] M = true) :
    (effRemove p s).without M = s.without M := by
  refine Within.mono (n := [.out, .host, .draws, .hum, .seq, .cellMem, .cellRun, .combMem, .router, .superMem, .superTree, .hild, .ctx, .rings, .evq, .partRegs, .fns, .queen, .mod]) ?_ hM
  unfold Within effRemove
  (try dsimp only)
  repeat' first
    | with_reducible rfl
    | intro _
    | with_reducible refine (modPart_without (h := ?_) ..).trans ?_
    | with_reducible refine (stopRings_without (hM := by decide)).trans ?_
    | with_reducible refine (beginTeardown_without (hM := by decide)).trans ?_
    | with_reducible refine (tdiError_without (hM := by decide)).trans ?_
    | with_reducible refine (partErr_without (hM := by decide)).trans ?_
    | with_reducible refine (startPartCmd_without (hM := by decide)).trans ?_
    | with_reducible refine ite_without (fun _ => ?_) (fun _ => ?_)
    | split
    | rfl

theorem releaseComb_without {M : List Piece} {k : Comb} {s : State} (hM : sub [.combMap, .hum, .seq, .cellMem, .cellRun, .combRegs, .combMem, .router, .hild] M = true) :
    (releaseComb k s).without M = s.without M := by
  refine Within.mono (n := [.combMap, .hum, .seq, .cellMem, .cellRun, .combRegs, .combMem, .router, .hild]) ?_ hM
  unfold Within releaseComb
  dsimp only
  refine (modHild_without (h := by decide) ..).trans ?_
  refine (modRouter_without (h := by decide) ..).trans ?_
  refine (modHum_without (h := by decide) ..).trans ?_
  refine modComb_without _ _ _ _ fun c => ?_
  refine comb_mono (n := [.combMap, .seq, .cellMem, .cellRun, .combRegs, .combMem]) ?_ (by decide)
  exact comb_cells_without rfl rfl rfl

theorem dropPartition_without {M : List Piece} {p : Part} {s : State} (hM : sub [.out, .host, .draws, .combMap, .hum, .seq, .cellMem, .cellRun, .combRegs, .combMem, .router, .superMem, .superTree, .superKeys, .superRegs, .hild, .partMap, .ctx, .rings, .evq, .sems, .regions, .partRegs, .queen, .mod] M = true) :
    (dropPartition p s).without M = s.without M := by
  refine Within.mono (n := [.out, .host, .draws, .combMap, .hum, .seq, .cellMem, .cellRun, .combRegs, .combMem, .router, .superMem, .superTree, .superKeys, .superRegs, .hild, .partMap, .ctx, .rings, .evq, .sems, .regions, .partRegs, .queen, .mod]) ?_ hM
  unfold Within dropPartition
  (try dsimp only)
  repeat' first
    | with_reducible rfl
    | intro _
    | with_reducible refine (modQueen_without (h := by decide) ..).trans ?_
    | with_reducible refine (modPart_without (h := ?_) ..).trans ?_
    | with_reducible refine (flushRings_without (hM := by decide)).trans ?_
    | with_reducible refine (powerAll_without (hM := by decide)).trans ?_
    | with_reducible refine (setLinks_without (hM := by decide)).trans ?_
    | with_reducible refine (releaseComb_without (hM := by decide)).trans ?_
    | with_reducible refine (forEach_without (h := ?_) ..).trans ?_
    | rfl

theorem effEndContext_without {M : List Piece} {p : Part} {s : State} (hM : sub [.out, .host, .draws, .hum, .seq, .cellMem, .cellRun, .combMem, .router, .superMem, .superTree, .hild, .ctx, .rings, .evq, .partRegs, .queen, .mod] M = true) :
    (effEndContext p s).without M = s.without M := by
  refine Within.mono (n := [.out, .host, .draws, .hum, .seq, .cellMem, .cellRun, .combMem, .router, .superMem, .superTree, .hild, .ctx, .rings, .evq, .partRegs, .queen, .mod]) ?_ hM
  unfold Within effEndContext
  repeat' first
    | with_reducible rfl
    | intro _
    | with_reducible refine (beginTeardown_without (hM := by decide)).trans ?_
    | with_reducible refine (partErr_without (hM := by decide)).trans ?_
    | with_reducible refine (startPartCmd_without (hM := by decide)).trans ?_
    | with_reducible refine ite_without (fun _ => ?_) (fun _ => ?_)

theorem scrubRange_without {M : List Piece} {lo hi : Nat} {u : SuperState} (hM : sub [.superMem, .superTree] M = true) :
    (scrubRange lo hi u).without M = u.without M := by
  refine super_mono (n := [.superMem, .superTree]) ?_ hM
  unfold scrubRange
  (try dsimp only)
  repeat' first
    | with_reducible rfl
    | intro _
    | with_reducible refine (zeroSectors_without (hM := by decide)).trans ?_
    | with_reducible refine fst_without (by assumption) ?_
    | rfl

theorem clearNodes_without {M : List Piece} {k : Super} {s : State} (hM : sub [.superTree] M = true) :
    (clearNodes k s).without M = s.without M := by
  refine Within.mono (n := [.superTree]) ?_ hM
  unfold Within clearNodes
  (try dsimp only)
  repeat' first
    | with_reducible rfl
    | intro _
    | with_reducible refine (modSuper_without (h := ?_) ..).trans ?_
    | with_reducible refine ite_without (fun _ => ?_) (fun _ => ?_)
    | split
    | rfl

theorem effScrubDone_without {M : List Piece} {k : Super} {id : KeyId} {s : State} (hM : sub [.draws, .combMap, .hum, .combRegs, .router, .superMem, .superTree, .superKeys, .superRegs, .ctx, .partRegs, .queen] M = true) :
    (effScrubDone k id s).without M = s.without M := by
  refine Within.mono (n := [.draws, .combMap, .hum, .combRegs, .router, .superMem, .superTree, .superKeys, .superRegs, .ctx, .partRegs, .queen]) ?_ hM
  unfold Within effScrubDone
  (try dsimp only)
  repeat' first
    | with_reducible rfl
    | intro _
    | with_reducible refine (modSuper_without (h := ?_) ..).trans ?_
    | with_reducible refine (powerAll_without (hM := by decide)).trans ?_
    | with_reducible refine (settleContext_without (hM := by decide)).trans ?_
    | with_reducible refine (scrubRange_without (hM := by decide)).trans ?_
    | with_reducible refine (clearNodes_without (hM := by decide)).trans ?_
    | with_reducible refine (forEach_without (h := ?_) ..).trans ?_
    | with_reducible refine ite_without (fun _ => ?_) (fun _ => ?_)
    | split
    | rfl

theorem respond_without {M : List Piece} {code status : Byte} {body : Bytes} {s : State} (hM : sub [.out] M = true) :
    (respond code status body s).without M = s.without M := by
  refine Within.mono (n := [.out]) ?_ hM
  unfold Within respond
  repeat' first
    | with_reducible rfl
    | intro _
    | with_reducible refine (emit_without (h := by decide) ..).trans ?_

theorem loadAll_without {M : List Piece} {p : Part} {id : KeyId} {key : BitVec 256} {s : State} (hM : sub [.draws, .combMap, .hum, .combRegs, .router, .superMem, .superTree, .superKeys, .superRegs, .queen] M = true) :
    (loadAll p id key s).without M = s.without M := by
  refine Within.mono (n := [.draws, .combMap, .hum, .combRegs, .router, .superMem, .superTree, .superKeys, .superRegs, .queen]) ?_ hM
  unfold Within loadAll
  repeat' first
    | with_reducible rfl
    | intro _
    | with_reducible refine (loadSlot_without (hM := by decide)).trans ?_
    | with_reducible refine (forEach_without (h := ?_) ..).trans ?_

theorem loadGenerated_without {M : List Piece} {p : Part} {m : Manifest} {s : State} (hM : sub [.draws, .combMap, .hum, .combRegs, .router, .superMem, .superTree, .superKeys, .superRegs, .queen] M = true) :
    (loadGenerated p m s).without M = s.without M := by
  refine Within.mono (n := [.draws, .combMap, .hum, .combRegs, .router, .superMem, .superTree, .superKeys, .superRegs, .queen]) ?_ hM
  unfold Within loadGenerated
  repeat' first
    | with_reducible rfl
    | intro _
    | with_reducible refine (drawn_without (h := by decide) ..).trans ?_
    | with_reducible refine (loadAll_without (hM := by decide)).trans ?_
    | with_reducible refine (forEach_without (h := ?_) ..).trans ?_

theorem loadSealed_without {M : List Piece} {p : Part} {m : Manifest} {s : State} (hM : sub [.combRegs, .hild] M = true) :
    (loadSealed p m s).without M = s.without M := by
  refine Within.mono (n := [.combRegs, .hild]) ?_ hM
  unfold Within loadSealed
  repeat' first
    | with_reducible rfl
    | intro _
    | with_reducible refine (modComb_without (h := ?_) ..).trans ?_
    | with_reducible refine (modHild_without (h := by decide) ..).trans ?_
    | with_reducible refine (forEach_without (h := ?_) ..).trans ?_
    | with_reducible refine ite_without (fun _ => ?_) (fun _ => ?_)
    | split
    | rfl

theorem acceptBind_without {M : List Piece} {p : Part} {m : Manifest} {s : State} (hM : sub [.draws, .combMap, .hum, .combRegs, .router, .superMem, .superTree, .superKeys, .superRegs, .hild, .ctx, .queen] M = true) :
    (acceptBind p m s).without M = s.without M := by
  refine Within.mono (n := [.draws, .combMap, .hum, .combRegs, .router, .superMem, .superTree, .superKeys, .superRegs, .hild, .ctx, .queen]) ?_ hM
  unfold Within acceptBind
  (try dsimp only)
  repeat' first
    | with_reducible rfl
    | intro _
    | with_reducible refine (drawn_without (h := by decide) ..).trans ?_
    | with_reducible refine (modCtx_without (h := by decide) ..).trans ?_
    | with_reducible refine (judgeContext_without (hM := by decide)).trans ?_
    | with_reducible refine (loadGenerated_without (hM := by decide)).trans ?_
    | with_reducible refine (loadSealed_without (hM := by decide)).trans ?_

theorem effBind_without {M : List Piece} {p : Part} {b : Bytes} {s : State} (hM : sub [.out, .draws, .combMap, .hum, .combRegs, .router, .superMem, .superTree, .superKeys, .superRegs, .hild, .ctx, .queen] M = true) :
    (effBind p b s).without M = s.without M := by
  refine Within.mono (n := [.out, .draws, .combMap, .hum, .combRegs, .router, .superMem, .superTree, .superKeys, .superRegs, .hild, .ctx, .queen]) ?_ hM
  unfold Within effBind
  (try dsimp only)
  repeat' first
    | with_reducible rfl
    | intro _
    | with_reducible refine (modQueen_without (h := by decide) ..).trans ?_
    | with_reducible refine (logRefusal_without (hM := by decide)).trans ?_
    | with_reducible refine (respond_without (hM := by decide)).trans ?_
    | with_reducible refine (acceptBind_without (hM := by decide)).trans ?_
    | with_reducible refine ite_without (fun _ => ?_) (fun _ => ?_)

theorem loadRegionKey_without {M : List Piece} {p : Part} {id : KeyId} {key : BitVec 256} {s : State} (hM : sub [.draws, .combMap, .hum, .combRegs, .router, .superMem, .superTree, .superKeys, .superRegs, .queen] M = true) :
    (loadRegionKey p id key s).1.without M = s.without M := by
  refine Within.mono (n := [.draws, .combMap, .hum, .combRegs, .router, .superMem, .superTree, .superKeys, .superRegs, .queen]) ?_ hM
  unfold Within loadRegionKey
  (try dsimp only)
  repeat' first
    | with_reducible rfl
    | intro _
    | with_reducible refine (logRefusal_without (hM := by decide)).trans ?_
    | with_reducible refine (loadAll_without (hM := by decide)).trans ?_
    | with_reducible refine ite_without (fun _ => ?_) (fun _ => ?_)
    | split

theorem loadFabricKey_without {M : List Piece} {p : Part} {gen : BitVec 6} {key : BitVec 256} {s : State} (hM : sub [.router] M = true) :
    (loadFabricKey p gen key s).1.without M = s.without M := by
  refine Within.mono (n := [.router]) ?_ hM
  unfold Within loadFabricKey
  (try dsimp only)
  repeat' first
    | with_reducible rfl
    | intro _
    | with_reducible refine (modJob_without (h := by decide) ..).trans ?_
    | with_reducible refine (forEach_without (h := ?_) ..).trans ?_
    | with_reducible refine ite_without (fun _ => ?_) (fun _ => ?_)
    | split

theorem loadCkptKey_without {M : List Piece} {p : Part} {m : Manifest} {owner : Nat} {key : BitVec 256} {s : State} (hM : sub [.ctx] M = true) :
    (loadCkptKey p m owner key s).1.without M = s.without M := by
  refine Within.mono (n := [.ctx]) ?_ hM
  unfold Within loadCkptKey
  (try dsimp only)
  repeat' first
    | with_reducible rfl
    | intro _
    | with_reducible refine (modCtx_without (h := by decide) ..).trans ?_
    | with_reducible refine ite_without (fun _ => ?_) (fun _ => ?_)
    | split

theorem keyRequest_without {M : List Piece} {p : Part} {b : Bytes} {s : State} (hM : sub [.draws, .combMap, .hum, .combRegs, .router, .superMem, .superTree, .superKeys, .superRegs, .ctx, .queen] M = true) :
    (keyRequest p b s).1.without M = s.without M := by
  refine Within.mono (n := [.draws, .combMap, .hum, .combRegs, .router, .superMem, .superTree, .superKeys, .superRegs, .ctx, .queen]) ?_ hM
  unfold Within keyRequest
  (try dsimp only)
  repeat' first
    | with_reducible rfl
    | intro _
    | with_reducible refine (loadRegionKey_without (hM := by decide)).trans ?_
    | with_reducible refine (loadFabricKey_without (hM := by decide)).trans ?_
    | with_reducible refine (loadCkptKey_without (hM := by decide)).trans ?_
    | with_reducible refine ite_without (fun _ => ?_) (fun _ => ?_)
    | split

theorem effKey_without {M : List Piece} {p : Part} {b : Bytes} {s : State} (hM : sub [.out, .draws, .combMap, .hum, .combRegs, .router, .superMem, .superTree, .superKeys, .superRegs, .ctx, .queen] M = true) :
    (effKey p b s).without M = s.without M := by
  refine Within.mono (n := [.out, .draws, .combMap, .hum, .combRegs, .router, .superMem, .superTree, .superKeys, .superRegs, .ctx, .queen]) ?_ hM
  unfold Within effKey
  (try dsimp only)
  repeat' first
    | with_reducible rfl
    | intro _
    | with_reducible refine (modQueen_without (h := by decide) ..).trans ?_
    | with_reducible refine (judgeContext_without (hM := by decide)).trans ?_
    | with_reducible refine (respond_without (hM := by decide)).trans ?_
    | with_reducible refine (keyRequest_without (hM := by decide)).trans ?_
    | with_reducible refine ite_without (fun _ => ?_) (fun _ => ?_)

theorem effChallenge_without {M : List Piece} {s : State} (hM : sub [.out, .draws, .queen] M = true) :
    (effChallenge s).without M = s.without M := by
  refine Within.mono (n := [.out, .draws, .queen]) ?_ hM
  unfold Within effChallenge
  (try dsimp only)
  repeat' first
    | with_reducible rfl
    | intro _
    | with_reducible refine (modQueen_without (h := by decide) ..).trans ?_
    | with_reducible refine (drawn_without (h := by decide) ..).trans ?_
    | with_reducible refine (respond_without (hM := by decide)).trans ?_
    | with_reducible refine ite_without (fun _ => ?_) (fun _ => ?_)

theorem unlock_without {M : List Piece} {scope : BitVec 3} {s : State} (hM : sub [.out, .host, .draws, .hum, .seq, .cellMem, .cellRun, .combRegs, .combMem, .router, .superMem, .superTree, .hild, .ctx, .rings, .evq, .partRegs, .fuses, .queen, .mod] M = true) :
    (unlock scope s).without M = s.without M := by
  refine Within.mono (n := [.out, .host, .draws, .hum, .seq, .cellMem, .cellRun, .combRegs, .combMem, .router, .superMem, .superTree, .hild, .ctx, .rings, .evq, .partRegs, .fuses, .queen, .mod]) ?_ hM
  unfold Within unlock
  (try dsimp only)
  repeat' first
    | with_reducible rfl
    | intro _
    | with_reducible refine (modQueen_without (h := by decide) ..).trans ?_
    | with_reducible refine (modDie_without (h := ?_) ..).trans ?_
    | with_reducible refine (zeroiseContext_without (hM := by decide)).trans ?_
    | with_reducible refine (beginTeardown_without (hM := by decide)).trans ?_
    | with_reducible refine (forEach_without (h := ?_) ..).trans ?_
    | rfl

theorem effUnlock_without {M : List Piece} {t : Bytes} {auth : BitVec 256} {ageMs : Nat} {s : State} (hM : sub [.out, .host, .draws, .hum, .seq, .cellMem, .cellRun, .combRegs, .combMem, .router, .superMem, .superTree, .hild, .ctx, .rings, .evq, .partRegs, .fuses, .queen, .mod] M = true) :
    (effUnlock t auth ageMs s).without M = s.without M := by
  refine Within.mono (n := [.out, .host, .draws, .hum, .seq, .cellMem, .cellRun, .combRegs, .combMem, .router, .superMem, .superTree, .hild, .ctx, .rings, .evq, .partRegs, .fuses, .queen, .mod]) ?_ hM
  unfold Within effUnlock
  (try dsimp only)
  repeat' first
    | with_reducible rfl
    | intro _
    | with_reducible refine (modQueen_without (h := by decide) ..).trans ?_
    | with_reducible refine (respond_without (hM := by decide)).trans ?_
    | with_reducible refine (unlock_without (hM := by decide)).trans ?_
    | with_reducible refine ite_without (fun _ => ?_) (fun _ => ?_)

/-! ### Machine/TtImage.lean -/

theorem admitTt_without {M : List Piece} {p : Part} {t : Timetable} {s : State} (hM : sub [.hum, .router, .partRegs] M = true) :
    (admitTt p t s).without M = s.without M := by
  refine Within.mono (n := [.hum, .router, .partRegs]) ?_ hM
  unfold Within admitTt
  (try dsimp only)
  repeat' first
    | with_reducible rfl
    | intro _
    | with_reducible refine (modHum_without (h := by decide) ..).trans ?_
    | with_reducible refine (modJob_without (h := by decide) ..).trans ?_
    | with_reducible refine (modRouter_without (h := by decide) ..).trans ?_
    | with_reducible refine (modPart_without (h := ?_) ..).trans ?_
    | with_reducible refine (forEach_without (h := ?_) ..).trans ?_
    | with_reducible refine ite_without (fun _ => ?_) (fun _ => ?_)
    | split
    | rfl

theorem effTimetable_without {M : List Piece} {p : Part} {r : Ring} {s : State} (hM : sub faultPieces M = true) :
    (effTimetable p r s).without M = s.without M := by
  refine Within.mono (n := faultPieces) ?_ hM
  unfold Within effTimetable
  (try dsimp only)
  repeat' first
    | with_reducible rfl
    | intro _
    | with_reducible refine (finish_without (hM := by decide)).trans ?_
    | with_reducible refine (ppaFetch_without (hM := by decide)).trans ?_
    | with_reducible refine (failMem_without (hM := by decide)).trans ?_
    | with_reducible refine (admitTt_without (hM := by decide)).trans ?_
    | with_reducible refine ite_without (fun _ => ?_) (fun _ => ?_)
    | split
    | with_reducible refine fst_without (by assumption) ?_

/-! ### Machine/Power.lean -/

theorem powerDown_without {M : List Piece} {latched trip fault hk : Bool} {s : State} (hM : sub downPieces M = true) :
    (powerDown latched trip fault hk s).without M = s.without M := by
  refine Within.mono (n := downPieces) ?_ hM
  unfold Within powerDown
  simp only [State.without]
  congr 1
  · apply Vector.ext
    intro j hj
    simp only [Vector.getElem_map]
    exact comb_all_without rfl _ _
  · apply Vector.ext
    intro j hj
    simp only [Vector.getElem_map]
    exact super_all_without rfl _ _
  · apply Vector.ext
    intro j hj
    simp only [Vector.getElem_map]
    exact part_all_without rfl _ _
  · exact map_map_eq _ _ _ fun c => rfl

theorem bandEvents_without {M : List Piece} {old s : State} (hM : sub [.mgmt] M = true) :
    (bandEvents old s).without M = s.without M := by
  refine Within.mono (n := [.mgmt]) ?_ hM
  unfold Within bandEvents
  repeat' first
    | with_reducible rfl
    | intro _
    | with_reducible refine (platEvent_without (hM := by decide)).trans ?_
    | with_reducible refine (forEach_without (h := ?_) ..).trans ?_

theorem setVolt_without {M : List Piece} {mV : Nat} {s : State} (hM : sub [.power, .mgmt] M = true) :
    (setVolt mV s).without M = s.without M := by
  refine Within.mono (n := [.power, .mgmt]) ?_ hM
  unfold Within setVolt
  repeat' first
    | with_reducible rfl
    | intro _
    | with_reducible refine (modPower_without (h := by decide) ..).trans ?_
    | with_reducible refine (bandEvents_without (hM := by decide)).trans ?_

theorem postThrottle_without {M : List Piece} {cause : Byte} {ds fresh : List Die} {s : State} (hM : sub faultPieces M = true) :
    (postThrottle cause ds fresh s).without M = s.without M := by
  refine Within.mono (n := faultPieces) ?_ hM
  unfold Within postThrottle
  (try dsimp only)
  repeat' first
    | with_reducible rfl
    | intro _
    | with_reducible refine (postEvent_without (hM := by decide)).trans ?_
    | with_reducible refine (ckptTrigger_without (hM := by decide)).trans ?_
    | with_reducible refine (forEach_without (h := ?_) ..).trans ?_
    | with_reducible refine ite_without (fun _ => ?_) (fun _ => ?_)
    | split

theorem effUnder_without {M : List Piece} {mV : Nat} {s : State} (hM : sub [.out, .host, .draws, .combMap, .hum, .seq, .cellMem, .cellRun, .combRegs, .combMem, .router, .superMem, .superTree, .superKeys, .superRegs, .hild, .partMap, .ctx, .rings, .evq, .sems, .regions, .partRegs, .fns, .fuses, .causes, .dies, .ports, .queen, .power, .boot, .mgmt, .evt, .mod] M = true) :
    (effUnder mV s).without M = s.without M := by
  refine Within.mono (n := [.out, .host, .draws, .combMap, .hum, .seq, .cellMem, .cellRun, .combRegs, .combMem, .router, .superMem, .superTree, .superKeys, .superRegs, .hild, .partMap, .ctx, .rings, .evq, .sems, .regions, .partRegs, .fns, .fuses, .causes, .dies, .ports, .queen, .power, .boot, .mgmt, .evt, .mod]) ?_ hM
  unfold Within effUnder
  (try dsimp only)
  repeat' first
    | with_reducible rfl
    | intro _
    | with_reducible refine (modDie_without (h := ?_) ..).trans ?_
    | with_reducible refine (modPower_without (h := by decide) ..).trans ?_
    | with_reducible refine (setVolt_without (hM := by decide)).trans ?_
    | with_reducible refine (postThrottle_without (hM := by decide)).trans ?_
    | with_reducible refine ite_without (fun _ => ?_) (fun _ => ?_)
    | split
    | rfl

theorem overpower_without {M : List Piece} {s : State} (hM : sub [.out, .host, .draws, .combMap, .hum, .seq, .cellMem, .cellRun, .combRegs, .combMem, .router, .superMem, .superTree, .superKeys, .superRegs, .hild, .partMap, .ctx, .rings, .evq, .sems, .regions, .partRegs, .fns, .fuses, .causes, .dies, .ports, .queen, .power, .boot, .mgmt, .evt, .mod] M = true) :
    (overpower s).without M = s.without M := by
  refine Within.mono (n := [.out, .host, .draws, .combMap, .hum, .seq, .cellMem, .cellRun, .combRegs, .combMem, .router, .superMem, .superTree, .superKeys, .superRegs, .hild, .partMap, .ctx, .rings, .evq, .sems, .regions, .partRegs, .fns, .fuses, .causes, .dies, .ports, .queen, .power, .boot, .mgmt, .evt, .mod]) ?_ hM
  unfold Within overpower
  (try dsimp only)
  repeat' first
    | with_reducible rfl
    | intro _
    | with_reducible refine (modDie_without (h := ?_) ..).trans ?_
    | with_reducible refine (modPower_without (h := by decide) ..).trans ?_
    | with_reducible refine (postThrottle_without (hM := by decide)).trans ?_
    | with_reducible refine ite_without (fun _ => ?_) (fun _ => ?_)
    | split
    | rfl

theorem effPowerSample_without {M : List Piece} {watts avg mV mA : BitVec 16} {s : State} (hM : sub [.out, .host, .draws, .combMap, .hum, .seq, .cellMem, .cellRun, .combRegs, .combMem, .router, .superMem, .superTree, .superKeys, .superRegs, .hild, .partMap, .ctx, .rings, .evq, .sems, .regions, .partRegs, .fns, .fuses, .causes, .dies, .ports, .queen, .power, .boot, .mgmt, .evt, .mod] M = true) :
    (effPowerSample watts avg mV mA s).without M = s.without M := by
  refine Within.mono (n := [.out, .host, .draws, .combMap, .hum, .seq, .cellMem, .cellRun, .combRegs, .combMem, .router, .superMem, .superTree, .superKeys, .superRegs, .hild, .partMap, .ctx, .rings, .evq, .sems, .regions, .partRegs, .fns, .fuses, .causes, .dies, .ports, .queen, .power, .boot, .mgmt, .evt, .mod]) ?_ hM
  unfold Within effPowerSample
  (try dsimp only)
  repeat' first
    | with_reducible rfl
    | intro _
    | with_reducible refine (modPower_without (h := by decide) ..).trans ?_
    | with_reducible refine (bandEvents_without (hM := by decide)).trans ?_
    | with_reducible refine (overpower_without (hM := by decide)).trans ?_
    | with_reducible refine ite_without (fun _ => ?_) (fun _ => ?_)

theorem takeTemps_without {M : List Piece} {die0 die1 : Int} {dram : List Int} {s : State} (hM : sub [.superRegs, .causes, .power] M = true) :
    (takeTemps die0 die1 dram s).without M = s.without M := by
  refine Within.mono (n := [.superRegs, .causes, .power]) ?_ hM
  unfold Within takeTemps
  (try dsimp only)
  repeat' first
    | with_reducible rfl
    | intro _
    | with_reducible refine (modDie_without (h := ?_) ..).trans ?_
    | with_reducible refine (modSuper_without (h := ?_) ..).trans ?_
    | with_reducible refine (modPower_without (h := by decide) ..).trans ?_
    | with_reducible refine (forEach_without (h := ?_) ..).trans ?_
    | rfl

theorem heatDie_without {M : List Piece} {s : State} {d : Die} {x : DieState} (hM : sub [.causes] M = true) :
    (heatDie s d x).without M = x.without M := by
  refine die_mono (n := [.causes]) ?_ hM
  unfold heatDie
  (try dsimp only)
  repeat' first
    | with_reducible rfl
    | intro _
    | with_reducible refine ite_without (fun _ => ?_) (fun _ => ?_)
    | split
    | rfl

theorem countHot_without {M : List Piece} {s : State} (hM : sub [.partRegs] M = true) :
    (countHot s).without M = s.without M := by
  refine Within.mono (n := [.partRegs]) ?_ hM
  unfold Within countHot
  repeat' first
    | with_reducible rfl
    | intro _
    | with_reducible refine (ewCount_without (hM := by decide)).trans ?_
    | with_reducible refine (forEach_without (h := ?_) ..).trans ?_
    | split

theorem effThermal_without {M : List Piece} {die0 die1 : Int} {dram : List Int} {s : State} (hM : sub [.out, .host, .draws, .combMap, .hum, .seq, .cellMem, .cellRun, .combRegs, .combMem, .router, .superMem, .superTree, .superKeys, .superRegs, .hild, .partMap, .ctx, .rings, .evq, .sems, .regions, .partRegs, .fns, .fuses, .causes, .dies, .ports, .queen, .power, .boot, .mgmt, .evt, .mod] M = true) :
    (effThermal die0 die1 dram s).without M = s.without M := by
  refine Within.mono (n := [.out, .host, .draws, .combMap, .hum, .seq, .cellMem, .cellRun, .combRegs, .combMem, .router, .superMem, .superTree, .superKeys, .superRegs, .hild, .partMap, .ctx, .rings, .evq, .sems, .regions, .partRegs, .fns, .fuses, .causes, .dies, .ports, .queen, .power, .boot, .mgmt, .evt, .mod]) ?_ hM
  unfold Within effThermal
  (try dsimp only)
  repeat' first
    | with_reducible rfl
    | intro _
    | with_reducible refine (modDie_without (h := ?_) ..).trans ?_
    | with_reducible refine (modPower_without (h := by decide) ..).trans ?_
    | with_reducible refine (powerDown_without (hM := by decide)).trans ?_
    | with_reducible refine (bandEvents_without (hM := by decide)).trans ?_
    | with_reducible refine (postThrottle_without (hM := by decide)).trans ?_
    | with_reducible refine (takeTemps_without (hM := by decide)).trans ?_
    | with_reducible refine (heatDie_without (hM := by decide)).trans ?_
    | with_reducible refine (countHot_without (hM := by decide)).trans ?_
    | with_reducible refine (forEach_without (h := ?_) ..).trans ?_
    | with_reducible refine ite_without (fun _ => ?_) (fun _ => ?_)

theorem setLimit_without {M : List Piece} {w : Nat} {s : State} (hM : sub [.power, .mgmt] M = true) :
    (setLimit w s).without M = s.without M := by
  refine Within.mono (n := [.power, .mgmt]) ?_ hM
  unfold Within setLimit
  (try dsimp only)
  repeat' first
    | with_reducible rfl
    | intro _
    | with_reducible refine (modPower_without (h := by decide) ..).trans ?_
    | with_reducible refine (bandEvents_without (hM := by decide)).trans ?_

theorem effLimit_without {M : List Piece} {f : Fn} {value : Word} {s : State} (hM : sub [.power, .mgmt] M = true) :
    (effLimit f value s).without M = s.without M := by
  refine Within.mono (n := [.power, .mgmt]) ?_ hM
  unfold Within effLimit
  repeat' first
    | with_reducible rfl
    | intro _
    | with_reducible refine (setLimit_without (hM := by decide)).trans ?_
    | with_reducible refine ite_without (fun _ => ?_) (fun _ => ?_)

theorem effFabricLoss_without {M : List Piece} {s : State} (hM : sub [.out, .host, .draws, .combMap, .hum, .seq, .cellMem, .cellRun, .combRegs, .combMem, .router, .superMem, .superTree, .superKeys, .superRegs, .hild, .partMap, .ctx, .rings, .evq, .sems, .regions, .partRegs, .fns, .fuses, .dies, .ports, .queen, .power, .boot, .mgmt, .evt, .mod] M = true) :
    (effFabricLoss s).without M = s.without M := by
  refine Within.mono (n := [.out, .host, .draws, .combMap, .hum, .seq, .cellMem, .cellRun, .combRegs, .combMem, .router, .superMem, .superTree, .superKeys, .superRegs, .hild, .partMap, .ctx, .rings, .evq, .sems, .regions, .partRegs, .fns, .fuses, .dies, .ports, .queen, .power, .boot, .mgmt, .evt, .mod]) ?_ hM
  unfold Within effFabricLoss
  (try dsimp only)
  repeat' first
    | with_reducible rfl
    | intro _
    | with_reducible refine (modPower_without (h := by decide) ..).trans ?_
    | with_reducible refine (postEvent_without (hM := by decide)).trans ?_
    | with_reducible refine (strandDown_without (hM := by decide)).trans ?_
    | with_reducible refine (forEach_without (h := ?_) ..).trans ?_
    | with_reducible refine ite_without (fun _ => ?_) (fun _ => ?_)

/-! ### Machine/Boot.lean -/

theorem flashErase_without {M : List Piece} {s : State} (hM : sub [.flash] M = true) :
    (flashErase s).without M = s.without M := by
  refine Within.mono (n := [.flash]) ?_ hM
  unfold Within flashErase
  repeat' first
    | with_reducible rfl
    | intro _
    | with_reducible refine (modBoot_without (h := ?_) ..).trans ?_
    | rfl

theorem flashProg_without {M : List Piece} {a : Nat} {data : Bytes} {s : State} (hM : sub [.flash] M = true) :
    (flashProg a data s).without M = s.without M := by
  refine Within.mono (n := [.flash]) ?_ hM
  unfold Within flashProg
  repeat' first
    | with_reducible rfl
    | intro _
    | with_reducible refine (modBoot_without (h := ?_) ..).trans ?_
    | rfl

theorem logBoot_without {M : List Piece} {fail : Nat} {s : State} (hM : sub [.queen] M = true) :
    (logBoot fail s).without M = s.without M := by
  refine Within.mono (n := [.queen]) ?_ hM
  unfold Within logBoot
  repeat' first
    | with_reducible rfl
    | intro _
    | with_reducible refine (modQueen_without (h := by decide) ..).trans ?_

theorem toRecovery_without {M : List Piece} {fail : Nat} {s : State} (hM : sub [.queen, .boot] M = true) :
    (toRecovery fail s).without M = s.without M := by
  refine Within.mono (n := [.queen, .boot]) ?_ hM
  unfold Within toRecovery
  repeat' first
    | with_reducible rfl
    | intro _
    | with_reducible refine (modBoot_without (h := ?_) ..).trans ?_
    | with_reducible refine (logBoot_without (hM := by decide)).trans ?_
    | rfl

theorem reattest_without {M : List Piece} {old new : BitVec 512} {s : State} (hM : sub [.router, .superKeys, .ctx] M = true) :
    (reattest old new s).without M = s.without M := by
  refine Within.mono (n := [.router, .superKeys, .ctx]) ?_ hM
  unfold Within reattest
  repeat' first
    | with_reducible rfl
    | intro _
    | with_reducible refine (zeroiseAll_without (hM := by decide)).trans ?_
    | with_reducible refine (dropContext_without (hM := by decide)).trans ?_
    | with_reducible refine (forEach_without (h := ?_) ..).trans ?_
    | with_reducible refine ite_without (fun _ => ?_) (fun _ => ?_)

theorem firstCrown_without {M : List Piece} {s : State} (hM : sub [.dies, .queen] M = true) :
    (firstCrown s).without M = s.without M := by
  refine Within.mono (n := [.dies, .queen]) ?_ hM
  unfold Within firstCrown
  (try dsimp only)
  repeat' first
    | with_reducible rfl
    | intro _
    | with_reducible refine (modQueen_without (h := by decide) ..).trans ?_
    | with_reducible refine (broadcast_without (hM := by decide)).trans ?_

theorem applyRepair_without {M : List Piece} {w : Word} {s : State} (hM : sub [.combMap, .combRegs, .superRegs] M = true) :
    (applyRepair w s).without M = s.without M := by
  refine Within.mono (n := [.combMap, .combRegs, .superRegs]) ?_ hM
  unfold Within applyRepair
  (try dsimp only)
  repeat' first
    | with_reducible rfl
    | intro _
    | with_reducible refine (modSuper_without (h := ?_) ..).trans ?_
    | with_reducible refine (modComb_without (h := ?_) ..).trans ?_
    | with_reducible refine ite_without (fun _ => ?_) (fun _ => ?_)
    | split
    | rfl

theorem applyRepairs_without {M : List Piece} {s : State} (hM : sub [.combMap, .combRegs, .superRegs] M = true) :
    (applyRepairs s).without M = s.without M := by
  refine Within.mono (n := [.combMap, .combRegs, .superRegs]) ?_ hM
  unfold Within applyRepairs
  repeat' first
    | with_reducible rfl
    | intro _
    | with_reducible refine (applyRepair_without (hM := by decide)).trans ?_
    | with_reducible refine (forEach_without (h := ?_) ..).trans ?_
    | with_reducible refine ite_without (fun _ => ?_) (fun _ => ?_)

theorem rekeyRegion_without {M : List Piece} {k : Super} {s : State} (hM : sub [.draws, .superMem, .superKeys] M = true) :
    (rekeyRegion k s).without M = s.without M := by
  refine Within.mono (n := [.draws, .superMem, .superKeys]) ?_ hM
  unfold Within rekeyRegion
  (try dsimp only)
  repeat' first
    | with_reducible rfl
    | intro _
    | with_reducible refine (drawn_without (h := by decide) ..).trans ?_
    | with_reducible refine (modSuper_without (h := ?_) ..).trans ?_
    | rfl

theorem bringUp_without {M : List Piece} {rekey : Bool} {s : State} (hM : sub [.draws, .combMap, .hum, .combRegs, .router, .superMem, .superTree, .superKeys, .superRegs, .mod] M = true) :
    (bringUp rekey s).without M = s.without M := by
  refine Within.mono (n := [.draws, .combMap, .hum, .combRegs, .router, .superMem, .superTree, .superKeys, .superRegs, .mod]) ?_ hM
  unfold Within bringUp
  (try dsimp only)
  repeat' first
    | with_reducible rfl
    | intro _
    | with_reducible refine (keyBridge_without (hM := by decide)).trans ?_
    | with_reducible refine (powerAll_without (hM := by decide)).trans ?_
    | with_reducible refine (applyRepairs_without (hM := by decide)).trans ?_
    | with_reducible refine (rekeyRegion_without (hM := by decide)).trans ?_
    | with_reducible refine (forEach_without (h := ?_) ..).trans ?_
    | with_reducible refine (doIf_without (h := ?_) ..).trans ?_

theorem startFirmware_without {M : List Piece} {img : Image} {s : State} (hM : sub [.draws, .combMap, .hum, .combRegs, .router, .superMem, .superTree, .superKeys, .superRegs, .ctx, .dies, .queen, .boot, .mod] M = true) :
    (startFirmware img s).without M = s.without M := by
  refine Within.mono (n := [.draws, .combMap, .hum, .combRegs, .router, .superMem, .superTree, .superKeys, .superRegs, .ctx, .dies, .queen, .boot, .mod]) ?_ hM
  unfold Within startFirmware
  (try dsimp only)
  repeat' first
    | with_reducible rfl
    | intro _
    | with_reducible refine (modBoot_without (h := ?_) ..).trans ?_
    | with_reducible refine (logBoot_without (hM := by decide)).trans ?_
    | with_reducible refine (reattest_without (hM := by decide)).trans ?_
    | with_reducible refine (firstCrown_without (hM := by decide)).trans ?_
    | with_reducible refine (bringUp_without (hM := by decide)).trans ?_
    | rfl

theorem effImageLoaded_without {M : List Piece} {flashOk agree : Bool} {s : State} (hM : sub [.draws, .combMap, .hum, .combRegs, .router, .superMem, .superTree, .superKeys, .superRegs, .ctx, .dies, .queen, .boot, .mod] M = true) :
    (effImageLoaded flashOk agree s).without M = s.without M := by
  have hm (s : State) (v : BitVec 7) : (s.modBoot fun b => { b with imgSvn := v }).without M = s.without M :=
    modBoot_without M s _ fun b => boot_mono (n := [.boot]) rfl (sub_trans (by decide) hM)
  unfold effImageLoaded
  generalize flashRead s 0 512 = h
  dsimp only
  generalize hdrSvn h = v
  generalize imageFail _ _ _ = f
  refine ite_without (fun _ => rfl) (fun _ => ite_without (fun _ => ?_) (fun _ => ite_without (fun _ => ?_) (fun _ => ?_)))
  · exact toRecovery_without (sub_trans (by decide) hM)
  · exact (startFirmware_without hM).trans (hm s v)
  · exact (toRecovery_without (sub_trans (by decide) hM)).trans (hm s v)

theorem fuseSvn_without {M : List Piece} {s : State} (hM : sub [.fuses] M = true) :
    (fuseSvn s).without M = s.without M := by
  refine Within.mono (n := [.fuses]) ?_ hM
  unfold Within fuseSvn
  repeat' first
    | with_reducible rfl
    | intro _
    | with_reducible refine (modDie_without (h := ?_) ..).trans ?_
    | with_reducible refine (forEach_without (h := ?_) ..).trans ?_
    | with_reducible refine ite_without (fun _ => ?_) (fun _ => ?_)
    | split
    | rfl

theorem readySuper_without {M : List Piece} {k : Super} {s : State} (hM : sub faultPieces M = true) :
    (readySuper k s).without M = s.without M := by
  refine Within.mono (n := faultPieces) ?_ hM
  unfold Within readySuper
  (try dsimp only)
  repeat' first
    | with_reducible rfl
    | intro _
    | with_reducible refine (modSuper_without (h := ?_) ..).trans ?_
    | with_reducible refine (stopUnder_without (hM := by decide)).trans ?_
    | with_reducible refine (resumeSuper_without (hM := by decide)).trans ?_
    | with_reducible refine (wakeController_without (hM := by decide)).trans ?_
    | with_reducible refine (forEach_without (h := ?_) ..).trans ?_
    | with_reducible refine ite_without (fun _ => ?_) (fun _ => ?_)
    | split
    | rfl

theorem marchRepair_without {M : List Piece} {s : State} (hM : sub [.out, .host, .draws, .superMem, .superTree, .superRegs, .partRegs, .fuses, .queen, .mod] M = true) :
    (marchRepair s).without M = s.without M := by
  refine Within.mono (n := [.out, .host, .draws, .superMem, .superTree, .superRegs, .partRegs, .fuses, .queen, .mod]) ?_ hM
  unfold Within marchRepair
  repeat' first
    | with_reducible rfl
    | intro _
    | with_reducible refine (drawn_without (h := by decide) ..).trans ?_
    | with_reducible refine (needRepair_without (hM := by decide)).trans ?_
    | with_reducible refine (effRepaired_without (hM := by decide)).trans ?_
    | with_reducible refine (forEach_without (h := ?_) ..).trans ?_
    | with_reducible refine (doIf_without (h := ?_) ..).trans ?_

theorem effBootReady_without {M : List Piece} {s : State} (hM : sub faultPieces M = true) :
    (effBootReady s).without M = s.without M := by
  refine Within.mono (n := faultPieces) ?_ hM
  unfold Within effBootReady
  (try dsimp only)
  repeat' first
    | with_reducible rfl
    | intro _
    | with_reducible refine (modDie_without (h := ?_) ..).trans ?_
    | with_reducible refine (modEvt_without (h := by decide) ..).trans ?_
    | with_reducible refine (modBoot_without (h := ?_) ..).trans ?_
    | with_reducible refine (platEvent_without (hM := by decide)).trans ?_
    | with_reducible refine (unitResetDone_without (hM := by decide)).trans ?_
    | with_reducible refine (powerAll_without (hM := by decide)).trans ?_
    | with_reducible refine (fuseSvn_without (hM := by decide)).trans ?_
    | with_reducible refine (readySuper_without (hM := by decide)).trans ?_
    | with_reducible refine (marchRepair_without (hM := by decide)).trans ?_
    | with_reducible refine (forEach_without (h := ?_) ..).trans ?_
    | with_reducible refine (doIf_without (h := ?_) ..).trans ?_
    | with_reducible refine ite_without (fun _ => ?_) (fun _ => ?_)
    | split
    | rfl

theorem bootErr_without {M : List Piece} {e : BitVec 4} {s : State} (hM : sub [.boot] M = true) :
    (bootErr e s).without M = s.without M := by
  refine Within.mono (n := [.boot]) ?_ hM
  unfold Within bootErr
  repeat' first
    | with_reducible rfl
    | intro _
    | with_reducible refine (modBoot_without (h := ?_) ..).trans ?_
    | rfl

theorem effEnterRecovery_without {M : List Piece} {s : State} (hM : sub faultPieces M = true) :
    (effEnterRecovery s).without M = s.without M := by
  refine Within.mono (n := faultPieces) ?_ hM
  unfold Within effEnterRecovery
  repeat' first
    | with_reducible rfl
    | intro _
    | with_reducible refine (modBoot_without (h := ?_) ..).trans ?_
    | with_reducible refine (moduleReset_without (hM := by decide)).trans ?_
    | with_reducible refine (bootErr_without (hM := by decide)).trans ?_
    | with_reducible refine ite_without (fun _ => ?_) (fun _ => ?_)
    | split
    | rfl

theorem effCommitSvn_without {M : List Piece} {s : State} (hM : sub [.fuses, .boot] M = true) :
    (effCommitSvn s).without M = s.without M := by
  refine Within.mono (n := [.fuses, .boot]) ?_ hM
  unfold Within effCommitSvn
  repeat' first
    | with_reducible rfl
    | intro _
    | with_reducible refine (fuseSvn_without (hM := by decide)).trans ?_
    | with_reducible refine (bootErr_without (hM := by decide)).trans ?_
    | with_reducible refine ite_without (fun _ => ?_) (fun _ => ?_)

theorem takeStaged_without {M : List Piece} {holder len : Nat} {s : State} (hM : sub [.flash, .boot] M = true) :
    (takeStaged holder len s).without M = s.without M := by
  have hb (b : Boot) (c : Boot) (h1 : c.flash = b.flash) (h2 : c.erased = b.erased) : c.without M = b.without M := by
    have := sub_contains hM .boot (by decide)
    simp only [Boot.without, this, h1, h2, if_true]
  have hm (s : State) (f : Boot → Boot) (h1 : ∀ b, (f b).flash = b.flash) (h2 : ∀ b, (f b).erased = b.erased) :
      (s.modBoot f).without M = s.without M := modBoot_without M s f fun b => hb b _ (h1 b) (h2 b)
  unfold takeStaged
  generalize stageRead s 0 512 = h
  dsimp only
  generalize hdrSvn h = v
  generalize imageFail _ _ _ = f
  refine ite_without (fun _ => ?_) (fun _ => ?_)
  · refine Eq.trans (hm _ _ ?_ ?_) (hm _ _ ?_ ?_) <;> exact fun b => rfl
  · generalize stageRead _ 0 len = d
    refine Eq.trans (hm _ _ ?_ ?_) ?_ <;> try exact fun b => rfl
    refine (flashProg_without (sub_trans (by decide) hM)).trans ?_
    refine (flashErase_without (sub_trans (by decide) hM)).trans ?_
    refine hm _ _ ?_ ?_ <;> exact fun b => rfl

theorem effRcvGo_without {M : List Piece} {len : Nat} {s : State} (hM : sub [.flash, .boot] M = true) :
    (effRcvGo len s).without M = s.without M := by
  refine Within.mono (n := [.flash, .boot]) ?_ hM
  unfold Within effRcvGo
  repeat' first
    | with_reducible rfl
    | intro _
    | with_reducible refine (bootErr_without (hM := by decide)).trans ?_
    | with_reducible refine (takeStaged_without (hM := by decide)).trans ?_
    | with_reducible refine ite_without (fun _ => ?_) (fun _ => ?_)

theorem effFlashDone_without {M : List Piece} {ok : Bool} {s : State} (hM : sub [.draws, .combMap, .hum, .combRegs, .router, .superMem, .superTree, .superKeys, .superRegs, .ctx, .dies, .queen, .boot, .mod] M = true) :
    (effFlashDone ok s).without M = s.without M := by
  refine Within.mono (n := [.draws, .combMap, .hum, .combRegs, .router, .superMem, .superTree, .superKeys, .superRegs, .ctx, .dies, .queen, .boot, .mod]) ?_ hM
  unfold Within effFlashDone
  (try dsimp only)
  repeat' first
    | with_reducible rfl
    | intro _
    | with_reducible refine (drawn_without (h := by decide) ..).trans ?_
    | with_reducible refine (modBoot_without (h := ?_) ..).trans ?_
    | with_reducible refine (startFirmware_without (hM := by decide)).trans ?_
    | with_reducible refine ite_without (fun _ => ?_) (fun _ => ?_)
    | split
    | rfl

/-! ### Machine/HildLane.lean -/

theorem State_modLane_without {M : List Piece} {s : State} {k : Super} {f : LaneState → LaneState} (hM : sub [.hild] M = true) :
    (State.modLane s k f).without M = s.without M := by
  refine Within.mono (n := [.hild]) ?_ hM
  unfold Within State.modLane
  repeat' first
    | with_reducible rfl
    | intro _
    | with_reducible refine (modHild_without (h := by decide) ..).trans ?_

/-! ### Machine/HildUnit.lean -/

theorem hildTouch_without {M : List Piece} {s0 : State} {p : Part} {x2 : List (Nat × Nat)} {x3 : State} (hM : sub faultPieces M = true) :
    (hildTouch s0 p x2 x3).without M = x3.without M := by
  refine Within.mono (n := faultPieces) ?_ hM
  unfold Within
  induction x2 generalizing x3 with
  | nil => rfl
  | cons a r ih =>
    unfold hildTouch
    repeat' first
      | with_reducible rfl
      | intro _
      | with_reducible refine (touchLine_without (hM := by decide)).trans ?_
      | with_reducible refine (ppaTouch_without (hM := by decide)).trans ?_
      | with_reducible refine (ih ..).trans ?_
      | with_reducible refine (forEach_without (h := ?_) ..).trans ?_
      | split

theorem noteGroup_without {M : List Piece} {k : Super} {o : GroupOut} {s : State} (hM : sub [.hild] M = true) :
    (noteGroup k o s).without M = s.without M := by
  refine Within.mono (n := [.hild]) ?_ hM
  unfold Within noteGroup
  repeat' first
    | with_reducible rfl
    | intro _
    | with_reducible refine (modHild_without (h := by decide) ..).trans ?_

theorem notePoison_without {M : List Piece} {k : Super} {c : CurRun} {o : GroupOut} {s : State} (hM : sub [.rings] M = true) :
    (notePoison k c o s).without M = s.without M := by
  refine Within.mono (n := [.rings]) ?_ hM
  unfold Within notePoison
  repeat' first
    | with_reducible rfl
    | intro _
    | with_reducible refine (modDesc_without (h := by decide) ..).trans ?_
    | with_reducible refine ite_without (fun _ => ?_) (fun _ => ?_)
    | split

theorem showGroup_without {M : List Piece} {k : Super} {c : CurRun} {s : State} (hM : sub [.hild] M = true) :
    (showGroup k c s).without M = s.without M := by
  refine Within.mono (n := [.hild]) ?_ hM
  unfold Within showGroup
  repeat' first
    | with_reducible rfl
    | intro _
    | with_reducible refine (modHild_without (h := by decide) ..).trans ?_

/-- What the reads of a group's step leave alone, whether it ends the run or makes results. -/
theorem stepGroup_without {M : List Piece} {k : Super} {p : Part} {c : CurRun} {s : State} (hM : sub faultPieces M = true) :
    (∀ t, stepGroup k p c s = .ends t → t.without M = s.without M) ∧
    (∀ o t, stepGroup k p c s = .made o t → t.without M = s.without M) := by
  have ht (rs : List (Nat × Nat)) : (hildTouch s p rs s).without M = s.without M := hildTouch_without hM
  unfold stepGroup
  dsimp only
  generalize groupReads _ _ _ = rs
  have ht := ht rs
  generalize hildTouch s p rs s = u at ht
  split
  · exact ⟨fun _ e => (GroupStep.noConfusion e), fun _ _ e => (GroupStep.noConfusion e)⟩
  split
  · exact ⟨fun _ e => by cases e; exact ht, fun _ _ e => (GroupStep.noConfusion e)⟩
  generalize computeGroup s p k c c.next = g
  split
  · exact ⟨fun _ e => by cases e; exact (runMemFail_without (sub_trans (by decide) hM)).trans ht, fun _ _ e => (GroupStep.noConfusion e)⟩
  · exact ⟨fun _ e => by cases e; exact (endRun_without (sub_trans (by decide) hM)).trans ht, fun _ _ e => (GroupStep.noConfusion e)⟩
  · exact ⟨fun _ e => (GroupStep.noConfusion e), fun _ _ e => by
      cases e
      exact (notePoison_without (sub_trans (by decide) hM)).trans ((noteGroup_without (sub_trans (by decide) hM)).trans ht)⟩

theorem stageGroups_without {M : List Piece} {x0 : Nat} {x1 : Super} {x2 : State} (hM : sub faultPieces M = true) :
    (stageGroups x0 x1 x2).without M = x2.without M := by
  refine Within.mono (n := faultPieces) ?_ hM
  unfold Within
  induction x0 generalizing x2 with
  | zero => rfl
  | succ n ih =>
    unfold stageGroups
    split
    · next c p _ _ =>
      refine ite_without (fun _ => rfl) (fun _ => ?_)
      have hs : (showGroup x1 c x2).without faultPieces = x2.without faultPieces := showGroup_without (by decide)
      have hg := stepGroup_without (M := faultPieces) (k := x1) (p := p) (c := c) (s := showGroup x1 c x2) (by decide)
      generalize stepGroup x1 p c (showGroup x1 c x2) = g at hg
      split
      · rfl
      · exact (hg.1 _ rfl).trans hs
      · dsimp only
        refine ite_without (fun _ => rfl) (fun _ => ?_)
        refine (ih ..).trans ?_
        exact (modHild_without (h := by decide) ..).trans ((hg.2 _ _ rfl).trans hs)
    · rfl

theorem writeGroup_without {M : List Piece} {k : Super} {s : State} (hM : sub faultPieces M = true) :
    (writeGroup k s).without M = s.without M := by
  refine Within.mono (n := faultPieces) ?_ hM
  unfold Within writeGroup
  split
  · next c p _ _ =>
    refine ite_without (fun _ => rfl) (fun _ => ?_)
    have hs : (showGroup k c s).without faultPieces = s.without faultPieces := showGroup_without (by decide)
    have hg := stepGroup_without (M := faultPieces) (k := k) (p := p) (c := c) (s := showGroup k c s) (by decide)
    generalize stepGroup k p c (showGroup k c s) = g at hg
    split
    · rfl
    · exact (hg.1 _ rfl).trans hs
    · next o t =>
      refine ite_without (fun _ => rfl) (fun _ => ?_)
      have hp : (putAll p o.writes t).1.without faultPieces = s.without faultPieces := (putAll_without (by decide)).trans ((hg.2 _ _ rfl).trans hs)
      generalize putAll p o.writes t = r at hp
      obtain ⟨u, e⟩ := r
      cases e with
      | none => exact hp
      | some m => exact (runMemFail_without (by decide)).trans hp
  · rfl

theorem runGroup_without {M : List Piece} {k : Super} {s : State} (hM : sub faultPieces M = true) :
    (runGroup k s).without M = s.without M := by
  refine Within.mono (n := faultPieces) ?_ hM
  unfold Within runGroup
  repeat' first
    | with_reducible rfl
    | intro _
    | with_reducible refine (stageGroups_without (hM := by decide)).trans ?_
    | with_reducible refine (writeGroup_without (hM := by decide)).trans ?_
    | with_reducible refine ite_without (fun _ => ?_) (fun _ => ?_)
    | split

theorem hildReseed_without {M : List Piece} {k : Super} {c : CurRun} {s : State} (hM : sub [.out, .host, .draws, .combRegs, .hild, .evq, .mod] M = true) :
    (hildReseed k c s).1.without M = s.without M := by
  refine Within.mono (n := [.out, .host, .draws, .combRegs, .hild, .evq, .mod]) ?_ hM
  unfold Within hildReseed
  (try dsimp only)
  repeat' first
    | with_reducible rfl
    | intro _
    | with_reducible refine (modHild_without (h := by decide) ..).trans ?_
    | with_reducible refine (skipReseed_without (hM := by decide)).trans ?_
    | with_reducible refine (takeSeed_without (hM := by decide)).trans ?_
    | with_reducible refine ite_without (fun _ => ?_) (fun _ => ?_)
    | split

theorem seedFails_without {M : List Piece} {k : Super} {s : State} (hM : sub faultPieces M = true) :
    (seedFails k s).without M = s.without M := by
  refine Within.mono (n := faultPieces) ?_ hM
  unfold Within seedFails
  (try dsimp only)
  repeat' first
    | with_reducible rfl
    | intro _
    | with_reducible refine (modHild_without (h := by decide) ..).trans ?_
    | with_reducible refine (endRun_without (hM := by decide)).trans ?_

theorem beginRun_without {M : List Piece} {k : Super} {c : CurRun} {s : State} (hM : sub faultPieces M = true) :
    (beginRun k c s).without M = s.without M := by
  refine Within.mono (n := faultPieces) ?_ hM
  unfold Within beginRun
  (try dsimp only)
  repeat' first
    | with_reducible rfl
    | intro _
    | with_reducible refine (putCommit_without (hM := by decide)).trans ?_
    | with_reducible refine (runGroup_without (hM := by decide)).trans ?_
    | with_reducible refine (hildReseed_without (hM := by decide)).trans ?_
    | with_reducible refine (seedFails_without (hM := by decide)).trans ?_
    | with_reducible refine ite_without (fun _ => ?_) (fun _ => ?_)

theorem effRunStart_without {M : List Piece} {k : Super} {s : State} (hM : sub faultPieces M = true) :
    (effRunStart k s).without M = s.without M := by
  refine Within.mono (n := faultPieces) ?_ hM
  unfold Within effRunStart
  (try dsimp only)
  repeat' first
    | with_reducible rfl
    | intro _
    | with_reducible refine (modHild_without (h := by decide) ..).trans ?_
    | with_reducible refine (ppaTouch_without (hM := by decide)).trans ?_
    | with_reducible refine (endRun_without (hM := by decide)).trans ?_
    | with_reducible refine (runMemFail_without (hM := by decide)).trans ?_
    | with_reducible refine (beginRun_without (hM := by decide)).trans ?_
    | with_reducible refine (forEach_without (h := ?_) ..).trans ?_
    | with_reducible refine ite_without (fun _ => ?_) (fun _ => ?_)
    | split

theorem effGroupDone_without {M : List Piece} {k : Super} {s : State} (hM : sub faultPieces M = true) :
    (effGroupDone k s).without M = s.without M := by
  refine Within.mono (n := faultPieces) ?_ hM
  unfold Within effGroupDone
  (try dsimp only)
  repeat' first
    | with_reducible rfl
    | intro _
    | with_reducible refine (modHild_without (h := by decide) ..).trans ?_
    | with_reducible refine (runMemFail_without (hM := by decide)).trans ?_
    | with_reducible refine (putAll_without (hM := by decide)).trans ?_
    | with_reducible refine (drainRun_without (hM := by decide)).trans ?_
    | with_reducible refine (openGate_without (hM := by decide)).trans ?_
    | with_reducible refine (writeGroup_without (hM := by decide)).trans ?_
    | with_reducible refine (runGroup_without (hM := by decide)).trans ?_
    | with_reducible refine ite_without (fun _ => ?_) (fun _ => ?_)
    | split
    | with_reducible refine fst_without (by assumption) ?_

theorem effRunDone_without {M : List Piece} {k : Super} {s : State} (hM : sub faultPieces M = true) :
    (effRunDone k s).without M = s.without M := by
  refine Within.mono (n := faultPieces) ?_ hM
  unfold Within effRunDone
  (try dsimp only)
  repeat' first
    | with_reducible rfl
    | intro _
    | with_reducible refine (modHild_without (h := by decide) ..).trans ?_
    | with_reducible refine (endRun_without (hM := by decide)).trans ?_
    | with_reducible refine (putCommit_without (hM := by decide)).trans ?_
    | with_reducible refine ite_without (fun _ => ?_) (fun _ => ?_)
    | split

/-! ### Machine/Mgmt.lean -/

theorem i3cAnswer_without {M : List Piece} {data : Bytes} {s : State} (hM : sub [.out] M = true) :
    (i3cAnswer data s).without M = s.without M := by
  refine Within.mono (n := [.out]) ?_ hM
  unfold Within i3cAnswer
  repeat' first
    | with_reducible rfl
    | intro _
    | with_reducible refine (emit_without (h := by decide) ..).trans ?_
    | with_reducible refine ite_without (fun _ => ?_) (fun _ => ?_)

theorem pldmAnswer_without {M : List Piece} {d : Option Bytes} {s : State} (hM : sub [.out] M = true) :
    (pldmAnswer d s).without M = s.without M := by
  refine Within.mono (n := [.out]) ?_ hM
  unfold Within pldmAnswer
  repeat' first
    | with_reducible rfl
    | intro _
    | with_reducible refine (emit_without (h := by decide) ..).trans ?_
    | split

theorem effEffecter_without {M : List Piece} {id watts : Nat} {s : State} (hM : sub [.out, .power, .mgmt] M = true) :
    (effEffecter id watts s).without M = s.without M := by
  refine Within.mono (n := [.out, .power, .mgmt]) ?_ hM
  unfold Within effEffecter
  (try dsimp only)
  repeat' first
    | with_reducible rfl
    | intro _
    | with_reducible refine (emit_without (h := by decide) ..).trans ?_
    | with_reducible refine (setLimit_without (hM := by decide)).trans ?_
    | with_reducible refine ite_without (fun _ => ?_) (fun _ => ?_)

theorem update_without {M : List Piece} {f : State → State} {s : State} (hf : ∀ t, (f t).without M = t.without M) (hM : sub [.out] M = true) :
    (update f s).without M = s.without M := by
  unfold update
  repeat' first
    | with_reducible rfl
    | intro _
    | with_reducible refine (emit_without (h := sub_contains hM _ (by decide)) ..).trans ?_
    | with_reducible refine (hf ..).trans ?_
    | with_reducible refine ite_without (fun _ => ?_) (fun _ => ?_)

theorem updatePut_without {M : List Piece} {a : Nat} {data : Bytes} {s : State} (hM : sub [.combMem, .flash] M = true) :
    (updatePut a data s).without M = s.without M := by
  refine Within.mono (n := [.combMem, .flash]) ?_ hM
  unfold Within updatePut
  repeat' first
    | with_reducible rfl
    | intro _
    | with_reducible refine (stageWrite_without (hM := by decide)).trans ?_
    | with_reducible refine (flashProg_without (hM := by decide)).trans ?_
    | with_reducible refine ite_without (fun _ => ?_) (fun _ => ?_)

theorem effPldmUpdate_without {M : List Piece} {h : Bytes} {s : State} (hM : sub [.out, .combMem, .flash, .boot, .mgmt] M = true) :
    (effPldmUpdate h s).without M = s.without M := by
  refine Within.mono (n := [.out, .combMem, .flash, .boot, .mgmt]) ?_ hM
  unfold Within effPldmUpdate
  (try dsimp only)
  repeat' first
    | with_reducible rfl
    | intro _
    | with_reducible refine (modMgmt_without (h := by decide) ..).trans ?_
    | with_reducible refine (emit_without (h := by decide) ..).trans ?_
    | with_reducible refine (modBoot_without (h := ?_) ..).trans ?_
    | with_reducible refine (flashErase_without (hM := by decide)).trans ?_
    | with_reducible refine (updatePut_without (hM := by decide)).trans ?_
    | with_reducible refine ite_without (fun _ => ?_) (fun _ => ?_)
    | split
    | rfl

theorem effPldmTransfer_without {M : List Piece} {off : Nat} {data : Bytes} {s : State} (hM : sub [.out, .combMem, .flash, .mgmt] M = true) :
    (effPldmTransfer off data s).without M = s.without M := by
  refine Within.mono (n := [.out, .combMem, .flash, .mgmt]) ?_ hM
  unfold Within effPldmTransfer
  (try dsimp only)
  repeat' first
    | with_reducible rfl
    | intro _
    | with_reducible refine (modMgmt_without (h := by decide) ..).trans ?_
    | with_reducible refine (emit_without (h := by decide) ..).trans ?_
    | with_reducible refine (updatePut_without (hM := by decide)).trans ?_
    | with_reducible refine ite_without (fun _ => ?_) (fun _ => ?_)

theorem effVerify_without {M : List Piece} {s : State} (hM : sub [.out, .flash, .boot, .mgmt] M = true) :
    (effVerify s).without M = s.without M := by
  refine Within.mono (n := [.out, .flash, .boot, .mgmt]) ?_ hM
  unfold Within effVerify
  (try dsimp only)
  repeat' first
    | with_reducible rfl
    | intro _
    | with_reducible refine (modMgmt_without (h := by decide) ..).trans ?_
    | with_reducible refine (emit_without (h := by decide) ..).trans ?_
    | with_reducible refine (takeStaged_without (hM := by decide)).trans ?_
    | with_reducible refine ite_without (fun _ => ?_) (fun _ => ?_)

theorem effActivate_without {M : List Piece} {s : State} (hM : sub faultPieces M = true) :
    (effActivate s).without M = s.without M := by
  refine Within.mono (n := faultPieces) ?_ hM
  unfold Within effActivate
  (try dsimp only)
  repeat' first
    | with_reducible rfl
    | intro _
    | with_reducible refine (modMgmt_without (h := by decide) ..).trans ?_
    | with_reducible refine (emit_without (h := by decide) ..).trans ?_
    | with_reducible refine (moduleReset_without (hM := by decide)).trans ?_
    | with_reducible refine ite_without (fun _ => ?_) (fun _ => ?_)

theorem effCancelUpdate_without {M : List Piece} {s : State} (hM : sub [.out, .flash, .boot, .mgmt] M = true) :
    (effCancelUpdate s).without M = s.without M := by
  refine Within.mono (n := [.out, .flash, .boot, .mgmt]) ?_ hM
  unfold Within effCancelUpdate
  (try dsimp only)
  repeat' first
    | with_reducible rfl
    | intro _
    | with_reducible refine (modMgmt_without (h := by decide) ..).trans ?_
    | with_reducible refine (emit_without (h := by decide) ..).trans ?_
    | with_reducible refine (modBoot_without (h := ?_) ..).trans ?_
    | with_reducible refine (flashErase_without (hM := by decide)).trans ?_
    | with_reducible refine ite_without (fun _ => ?_) (fun _ => ?_)
    | split
    | rfl

theorem sayOk_without {M : List Piece} {ws : List DWord} {s : State} (hM : sub [.out] M = true) :
    (sayOk ws s).without M = s.without M := by
  refine Within.mono (n := [.out]) ?_ hM
  unfold Within sayOk
  repeat' first
    | with_reducible rfl
    | intro _
    | with_reducible refine (emit_without (h := by decide) ..).trans ?_

theorem sayErr_without {M : List Piece} {n : Nat} {s : State} (hM : sub [.out] M = true) :
    (sayErr n s).without M = s.without M := by
  refine Within.mono (n := [.out]) ?_ hM
  unfold Within sayErr
  repeat' first
    | with_reducible rfl
    | intro _
    | with_reducible refine (emit_without (h := by decide) ..).trans ?_

theorem monReset_without {M : List Piece} {d u : BitVec 3} {s : State} (hM : sub faultPieces M = true) :
    (monReset d u s).without M = s.without M := by
  refine Within.mono (n := faultPieces) ?_ hM
  unfold Within monReset
  (try dsimp only)
  repeat' first
    | with_reducible rfl
    | intro _
    | with_reducible refine (resetCmd_without (hM := by decide)).trans ?_
    | with_reducible refine (sayOk_without (hM := by decide)).trans ?_
    | with_reducible refine (sayErr_without (hM := by decide)).trans ?_
    | with_reducible refine ite_without (fun _ => ?_) (fun _ => ?_)

theorem monPeek_without {M : List Piece} {a n : Nat} {s : State} (hM : sub [.out, .superRegs] M = true) :
    (monPeek a n s).without M = s.without M := by
  refine Within.mono (n := [.out, .superRegs]) ?_ hM
  unfold Within monPeek
  repeat' first
    | with_reducible rfl
    | intro _
    | with_reducible refine (dbgBlock_without (hM := by decide)).trans ?_
    | with_reducible refine (sayOk_without (hM := by decide)).trans ?_
    | with_reducible refine (sayErr_without (hM := by decide)).trans ?_
    | with_reducible refine ite_without (fun _ => ?_) (fun _ => ?_)

theorem monTrace_without {M : List Piece} {on : Bool} {s : State} (hM : sub [.out, .mgmt] M = true) :
    (monTrace on s).without M = s.without M := by
  refine Within.mono (n := [.out, .mgmt]) ?_ hM
  unfold Within monTrace
  repeat' first
    | with_reducible rfl
    | intro _
    | with_reducible refine (modMgmt_without (h := by decide) ..).trans ?_
    | with_reducible refine (sayOk_without (hM := by decide)).trans ?_
    | with_reducible refine (sayErr_without (hM := by decide)).trans ?_
    | with_reducible refine ite_without (fun _ => ?_) (fun _ => ?_)

/-! ### Machine/Regs.lean -/

theorem combStickies_without {M : List Piece} {g : Nat → Sticky → Sticky} {r : Reg} {c : CombState} (hM : sub [.hum, .seq, .combRegs, .router] M = true) :
    (combStickies g r c).without M = c.without M := by
  refine comb_mono (n := [.hum, .seq, .combRegs, .router]) ?_ hM
  unfold combStickies
  (try dsimp only)
  repeat' first
    | with_reducible rfl
    | intro _
    | split
    | rfl

theorem superStickies_without {M : List Piece} {g : Nat → Sticky → Sticky} {r : Reg} {u : SuperState} (hM : sub [.superRegs, .hild] M = true) :
    (superStickies g r u).without M = u.without M := by
  refine super_mono (n := [.superRegs, .hild]) ?_ hM
  unfold superStickies
  (try dsimp only)
  repeat' first
    | with_reducible rfl
    | intro _
    | split
    | rfl

theorem partStickies_without {M : List Piece} {g : Nat → Sticky → Sticky} {r : Reg} {q : PartState} (hM : sub [.rings, .evq, .partRegs] M = true) :
    (partStickies g r q).without M = q.without M := by
  refine part_mono (n := [.rings, .evq, .partRegs]) ?_ hM
  unfold partStickies
  (try dsimp only)
  repeat' first
    | with_reducible rfl
    | intro _
    | split
    | rfl

theorem moduleStickies_without {M : List Piece} {g : Nat → Sticky → Sticky} {r : Reg} {s : State} (hM : sub [.dies, .queen, .power, .evt, .mod] M = true) :
    (moduleStickies g r s).without M = s.without M := by
  refine Within.mono (n := [.dies, .queen, .power, .evt, .mod]) ?_ hM
  unfold Within moduleStickies
  (try dsimp only)
  repeat' first
    | with_reducible rfl
    | intro _
    | with_reducible refine (modQueen_without (h := by decide) ..).trans ?_
    | with_reducible refine (modDie_without (h := ?_) ..).trans ?_
    | with_reducible refine (modEvt_without (h := by decide) ..).trans ?_
    | with_reducible refine (modMod_without (h := by decide) ..).trans ?_
    | with_reducible refine (modPower_without (h := by decide) ..).trans ?_
    | split
    | rfl

theorem mapStickies_without {M : List Piece} {f : Fn} {r : Reg} {g : Nat → Sticky → Sticky} {s : State} (hM : sub [.hum, .seq, .combRegs, .router, .superRegs, .hild, .rings, .evq, .partRegs, .fns, .dies, .queen, .power, .evt, .mod] M = true) :
    (mapStickies f r g s).without M = s.without M := by
  refine Within.mono (n := [.hum, .seq, .combRegs, .router, .superRegs, .hild, .rings, .evq, .partRegs, .fns, .dies, .queen, .power, .evt, .mod]) ?_ hM
  unfold Within mapStickies
  repeat' first
    | with_reducible rfl
    | intro _
    | with_reducible refine (modSuper_without (h := ?_) ..).trans ?_
    | with_reducible refine (modFn_without (h := by decide) ..).trans ?_
    | with_reducible refine (modComb_without (h := ?_) ..).trans ?_
    | with_reducible refine (modPart_without (h := ?_) ..).trans ?_
    | with_reducible refine (combStickies_without (hM := by decide)).trans ?_
    | with_reducible refine (superStickies_without (hM := by decide)).trans ?_
    | with_reducible refine (partStickies_without (hM := by decide)).trans ?_
    | with_reducible refine (moduleStickies_without (hM := by decide)).trans ?_
    | split
    | with_reducible refine elim_without ?_ (fun _ => ?_)

theorem refuseAccess_without {M : List Piece} {f : Fn} {isRead : Bool} {s : State} (hM : sub [.out, .fns] M = true) :
    (refuseAccess f isRead s).without M = s.without M := by
  refine Within.mono (n := [.out, .fns]) ?_ hM
  unfold Within refuseAccess
  (try dsimp only)
  repeat' first
    | with_reducible rfl
    | intro _
    | with_reducible refine (emit_without (h := by decide) ..).trans ?_
    | with_reducible refine (badMmio_without (hM := by decide)).trans ?_
    | with_reducible refine ite_without (fun _ => ?_) (fun _ => ?_)

theorem dropLatch_without {M : List Piece} {f : Fn} {r : Reg} {s : State} (hM : sub [.fns] M = true) :
    (dropLatch f r s).without M = s.without M := by
  refine Within.mono (n := [.fns]) ?_ hM
  unfold Within dropLatch
  repeat' first
    | with_reducible rfl
    | intro _
    | with_reducible refine (modFn_without (h := by decide) ..).trans ?_

theorem setLatch_without {M : List Piece} {f : Fn} {r : Reg} {w : Word} {s : State} (hM : sub [.fns] M = true) :
    (setLatch f r w s).without M = s.without M := by
  refine Within.mono (n := [.fns]) ?_ hM
  unfold Within setLatch
  repeat' first
    | with_reducible rfl
    | intro _
    | with_reducible refine (modFn_without (h := by decide) ..).trans ?_
    | with_reducible refine (dropLatch_without (hM := by decide)).trans ?_

theorem effRegRead_without {M : List Piece} {f : Fn} {r : Reg} {acc : Acc} {s : State} (hM : sub [.out, .hum, .seq, .combRegs, .router, .superRegs, .hild, .rings, .evq, .partRegs, .fns, .dies, .queen, .power, .evt, .mod] M = true) :
    (effRegRead f r acc s).without M = s.without M := by
  refine Within.mono (n := [.out, .hum, .seq, .combRegs, .router, .superRegs, .hild, .rings, .evq, .partRegs, .fns, .dies, .queen, .power, .evt, .mod]) ?_ hM
  unfold Within effRegRead
  (try dsimp only)
  repeat' first
    | with_reducible rfl
    | intro _
    | with_reducible refine (emit_without (h := by decide) ..).trans ?_
    | with_reducible refine (mapStickies_without (hM := by decide)).trans ?_
    | with_reducible refine (refuseAccess_without (hM := by decide)).trans ?_
    | with_reducible refine (dropLatch_without (hM := by decide)).trans ?_
    | with_reducible refine (setLatch_without (hM := by decide)).trans ?_
    | with_reducible refine ite_without (fun _ => ?_) (fun _ => ?_)
    | split

theorem effClear_without {M : List Piece} {f : Fn} {r : Reg} {bits : DWord} {s : State} (hM : sub [.hum, .seq, .combRegs, .router, .superRegs, .hild, .rings, .evq, .partRegs, .fns, .dies, .queen, .power, .evt, .mod] M = true) :
    (effClear f r bits s).without M = s.without M := by
  refine Within.mono (n := [.hum, .seq, .combRegs, .router, .superRegs, .hild, .rings, .evq, .partRegs, .fns, .dies, .queen, .power, .evt, .mod]) ?_ hM
  unfold Within effClear
  repeat' first
    | with_reducible rfl
    | intro _
    | with_reducible refine (mapStickies_without (hM := by decide)).trans ?_

theorem writePartReg_without {M : List Piece} {r : Reg} {v : DWord} {q : PartState} (hM : sub [.regions, .partRegs] M = true) :
    (writePartReg r v q).without M = q.without M := by
  refine part_mono (n := [.regions, .partRegs]) ?_ hM
  unfold writePartReg
  repeat' first
    | with_reducible rfl
    | intro _
    | with_reducible refine ite_without (fun _ => ?_) (fun _ => ?_)
    | split
    | rfl

theorem effRowClip_without {M : List Piece} {f : Fn} {k : Comb} {v : DWord} {s : State} (hM : sub [.combRegs] M = true) :
    (effRowClip f k v s).without M = s.without M := by
  refine Within.mono (n := [.combRegs]) ?_ hM
  unfold Within effRowClip
  repeat' first
    | with_reducible rfl
    | intro _
    | with_reducible refine (modComb_without (h := ?_) ..).trans ?_
    | with_reducible refine ite_without (fun _ => ?_) (fun _ => ?_)
    | split
    | rfl

theorem writePf0_without {M : List Piece} {r : Reg} {v : DWord} {s : State} (hM : sub [.out, .host, .draws, .combMap, .hum, .seq, .cellMem, .cellRun, .combRegs, .combMem, .router, .superMem, .superTree, .superKeys, .superRegs, .hild, .partMap, .ctx, .rings, .evq, .sems, .regions, .partRegs, .fns, .fuses, .dies, .ports, .queen, .power, .flash, .boot, .mgmt, .evt, .mod] M = true) :
    (writePf0 r v s).without M = s.without M := by
  cases r
  case supScrub k => exact modSuper_without M s k _ fun u => super_mono (n := [.superRegs]) rfl (sub_trans (by decide) hM)
  case humCfg => exact effHumCfg_without (sub_trans (by decide) hM)
  case humEpoch => exact modMod_without M s _ (sub_contains hM _ (by decide))
  case wagCoord => exact effCoord_without (sub_trans (by decide) hM)
  case wagPortmap => exact effPortmap_without (sub_trans (by decide) hM)
  case wagLeaseCmt k =>
    unfold writePf0
    exact ite_without (fun _ => effLeaseRelease_without (sub_trans (by decide) hM))
      (fun _ => effLeaseCommit_without (sub_trans (by decide) hM))
  case wagJob k j => exact effJobWrite_without (sub_trans (by decide) hM)
  case wagLease k rx p slot => exact effLeaseWrite_without (sub_trans (by decide) hM)
  case winBase => exact modMod_without M s _ (sub_contains hM _ (by decide))
  case qnPartCmd =>
    unfold writePf0
    exact ite_without (fun _ => effCreate_without (sub_trans (by decide) hM)) (fun _ => ite_without
      (fun _ => effRemove_without (sub_trans (by decide) hM)) (fun _ => ite_without
      (fun _ => effEndContext_without (sub_trans (by decide) hM)) (fun _ => rfl)))
  case evtResetCmd => exact resetCmd_without (sub_trans (by decide) hM)
  case evtDrain => exact modEvt_without M s _ (sub_contains hM _ (by decide))
  case evtWdog => exact modEvt_without M s _ (sub_contains hM _ (by decide))
  case evtEwCfg => exact modEvt_without M s _ (sub_contains hM _ (by decide))
  case pwrLimit => exact setLimit_without (sub_trans (by decide) hM)
  case qnBootCmd =>
    unfold writePf0
    exact ite_without (fun _ => effEnterRecovery_without (sub_trans (by decide) hM)) (fun _ => ite_without
      (fun _ => effCommitSvn_without (sub_trans (by decide) hM)) (fun _ => ite_without
      (fun _ => effRcvGo_without (sub_trans (by decide) hM)) (fun _ => rfl)))
  all_goals exact rfl

theorem writeConfig_without {M : List Piece} {f : Fn} {r : Reg} {v : DWord} {s : State} (hM : sub [.out, .host, .draws, .hum, .seq, .cellMem, .cellRun, .combMem, .router, .superMem, .superTree, .hild, .ctx, .rings, .evq, .partRegs, .fns, .mod] M = true) :
    (writeConfig f r v s).without M = s.without M := by
  refine Within.mono (n := [.out, .host, .draws, .hum, .seq, .cellMem, .cellRun, .combMem, .router, .superMem, .superTree, .hild, .ctx, .rings, .evq, .partRegs, .fns, .mod]) ?_ hM
  unfold Within writeConfig
  (try dsimp only)
  repeat' first
    | with_reducible rfl
    | intro _
    | with_reducible refine (modFn_without (h := by decide) ..).trans ?_
    | with_reducible refine (modMod_without (h := by decide) ..).trans ?_
    | with_reducible refine (drainHost_without (hM := by decide)).trans ?_
    | with_reducible refine (dropVfs_without (hM := by decide)).trans ?_
    | with_reducible refine (enableChange_without (hM := by decide)).trans ?_
    | with_reducible refine ite_without (fun _ => ?_) (fun _ => ?_)
    | split

theorem writeShared_without {M : List Piece} {f : Fn} {r : Reg} {v : DWord} {s : State} (hM : sub [.out, .host, .draws, .combMap, .hum, .seq, .cellMem, .cellRun, .combRegs, .combMem, .router, .superMem, .superTree, .superKeys, .superRegs, .hild, .partMap, .ctx, .rings, .evq, .sems, .regions, .partRegs, .fns, .fuses, .dies, .ports, .queen, .power, .flash, .boot, .mgmt, .evt, .mod] M = true) :
    (writeShared f r v s).without M = s.without M := by
  refine Within.mono (n := [.out, .host, .draws, .combMap, .hum, .seq, .cellMem, .cellRun, .combRegs, .combMem, .router, .superMem, .superTree, .superKeys, .superRegs, .hild, .partMap, .ctx, .rings, .evq, .sems, .regions, .partRegs, .fns, .fuses, .dies, .ports, .queen, .power, .flash, .boot, .mgmt, .evt, .mod]) ?_ hM
  unfold Within writeShared
  (try dsimp only)
  repeat' first
    | with_reducible rfl
    | intro _
    | with_reducible refine (modHum_without (h := by decide) ..).trans ?_
    | with_reducible refine (modMod_without (h := by decide) ..).trans ?_
    | with_reducible refine (modPart_without (h := ?_) ..).trans ?_
    | with_reducible refine (modHild_without (h := by decide) ..).trans ?_
    | with_reducible refine (modSeq_without (h := by decide) ..).trans ?_
    | with_reducible refine (writeEqCfg_without (hM := by decide)).trans ?_
    | with_reducible refine (effRowClip_without (hM := by decide)).trans ?_
    | with_reducible refine (writePf0_without (hM := by decide)).trans ?_
    | with_reducible refine ite_without (fun _ => ?_) (fun _ => ?_)
    | split
    | with_reducible refine elim_without ?_ (fun _ => ?_)
    | rfl

theorem effWriteReg_without {M : List Piece} {f : Fn} {r : Reg} {v : DWord} {s : State} (hM : sub [.out, .host, .draws, .combMap, .hum, .seq, .cellMem, .cellRun, .combRegs, .combMem, .router, .superMem, .superTree, .superKeys, .superRegs, .hild, .partMap, .ctx, .rings, .evq, .sems, .regions, .partRegs, .fns, .fuses, .dies, .ports, .queen, .power, .flash, .boot, .mgmt, .evt, .mod] M = true) :
    (effWriteReg f r v s).without M = s.without M := by
  refine Within.mono (n := [.out, .host, .draws, .combMap, .hum, .seq, .cellMem, .cellRun, .combRegs, .combMem, .router, .superMem, .superTree, .superKeys, .superRegs, .hild, .partMap, .ctx, .rings, .evq, .sems, .regions, .partRegs, .fns, .fuses, .dies, .ports, .queen, .power, .flash, .boot, .mgmt, .evt, .mod]) ?_ hM
  unfold Within effWriteReg
  (try dsimp only)
  repeat' first
    | with_reducible rfl
    | intro _
    | with_reducible refine (modPart_without (h := ?_) ..).trans ?_
    | with_reducible refine (modRing_without (h := by decide) ..).trans ?_
    | with_reducible refine (writeSqCfg_without (hM := by decide)).trans ?_
    | with_reducible refine (effCommit_without (hM := by decide)).trans ?_
    | with_reducible refine (writePartReg_without (hM := by decide)).trans ?_
    | with_reducible refine (writeConfig_without (hM := by decide)).trans ?_
    | with_reducible refine (writeShared_without (hM := by decide)).trans ?_
    | with_reducible refine ite_without (fun _ => ?_) (fun _ => ?_)
    | split

/-! ### Machine/Sequencer.lean -/

theorem semWait_without {M : List Piece} {k : Comb} {h : PredF} {sem : Word} {ge : Bool} {v : DWord} {s : State} (hM : sub progPieces M = true) :
    (semWait k h sem ge v s).without M = s.without M := by
  refine Within.mono (n := progPieces) ?_ hM
  unfold Within semWait
  (try dsimp only)
  repeat' first
    | with_reducible rfl
    | intro _
    | with_reducible refine (modSeq_without (h := by decide) ..).trans ?_
    | with_reducible refine (issueIf_without (hbody := ?_) (hM := by decide)).trans ?_
    | with_reducible refine ite_without (fun _ => ?_) (fun _ => ?_)
    | split
    | with_reducible refine fst_without (by assumption) ?_
    | rfl

/-! ### Machine/Vector.lean -/

theorem vecInstr_without {M : List Piece} {x : VCtx} {slots : List Nat} {i : VInstr} {s : State} (hM : sub [.seq, .cellMem, .combRegs, .combMem] M = true) :
    (vecInstr x slots i s).state.without M = s.without M := by
  refine Within.mono (n := [.seq, .cellMem, .combRegs, .combMem]) ?_ hM
  unfold Within vecInstr
  (try dsimp only)
  repeat' first
    | with_reducible rfl
    | intro _
    | with_reducible refine (vec3_without (hM := by decide)).trans ?_
    | with_reducible refine (vecSatAdd_without (hM := by decide)).trans ?_
    | with_reducible refine (vecIota_without (hM := by decide)).trans ?_
    | with_reducible refine (vecLoad_without (hM := by decide)).trans ?_
    | with_reducible refine (vecLoadB_without (hM := by decide)).trans ?_
    | with_reducible refine (vecStore_without (hM := by decide)).trans ?_
    | with_reducible refine (vecGather_without (hM := by decide)).trans ?_
    | with_reducible refine (vecScatter_without (hM := by decide)).trans ?_
    | with_reducible refine (vecScatAdd_without (hM := by decide)).trans ?_
    | with_reducible refine (vecReduce_without (hM := by decide)).trans ?_
    | with_reducible refine ite_without (fun _ => ?_) (fun _ => ?_)
    | split

theorem vecList_without {M : List Piece} {x0 : List (VCtx × List Nat × VInstr)} {x1 : State} {x2 : List Dest} (hM : sub [.seq, .cellMem, .combRegs, .combMem] M = true) :
    (vecList x0 x1 x2).1.state.without M = x1.without M := by
  induction x0 generalizing x1 x2 with
  | nil => rfl
  | cons a r ih =>
    obtain ⟨x, slots, i⟩ := a
    have h := vecInstr_without (x := x) (slots := slots) (i := i) (s := x1) hM
    unfold vecList
    revert h
    generalize vecInstr x slots i x1 = v
    obtain ⟨t, d, b⟩ := v
    intro h
    cases b with
    | none => exact ih.trans h
    | some e => exact h

theorem keepDest_without {M : List Piece} {k : Comb} {n : PCell} {old : State} {d : Dest} {s : State} (hM : sub [.cellMem, .combMem] M = true) :
    (keepDest k n old d s).without M = s.without M := by
  refine Within.mono (n := [.cellMem, .combMem]) ?_ hM
  unfold Within keepDest
  (try dsimp only)
  repeat' first
    | with_reducible rfl
    | intro _
    | with_reducible refine (modCell_without (h := ?_) ..).trans ?_
    | with_reducible refine (modComb_without (h := ?_) ..).trans ?_
    | split
    | rfl

theorem vecFault_without {M : List Piece} {x : At} {pc : Word} {e : BlockBad} {kept : List Dest} {s : State} (hM : sub progPieces M = true) :
    (vecFault x pc e kept s).without M = s.without M := by
  refine Within.mono (n := progPieces) ?_ hM
  unfold Within vecFault
  (try dsimp only)
  repeat' first
    | with_reducible rfl
    | intro _
    | with_reducible refine (programFault_without (hM := by decide)).trans ?_
    | with_reducible refine (keepDest_without (hM := by decide)).trans ?_
    | with_reducible refine (forEach_without (h := ?_) ..).trans ?_

theorem setDests_without {M : List Piece} {x : At} {ds : List Dest} {s : State} (hM : sub [.cellRun] M = true) :
    (setDests x ds s).without M = s.without M := by
  refine Within.mono (n := [.cellRun]) ?_ hM
  unfold Within setDests
  repeat' first
    | with_reducible rfl
    | intro _
    | with_reducible refine (modCell_without (h := ?_) ..).trans ?_
    | with_reducible refine ite_without (fun _ => ?_) (fun _ => ?_)
    | split
    | rfl

theorem vpStart_without {M : List Piece} {x : At} {b : OpBlock} {s : State} (hM : sub [.out, .host, .draws, .seq, .cellMem, .cellRun, .combRegs, .combMem, .superMem, .superTree, .hild, .ctx, .rings, .evq, .partRegs, .mod] M = true) :
    (vpStart x b s).without M = s.without M := by
  refine Within.mono (n := [.out, .host, .draws, .seq, .cellMem, .cellRun, .combRegs, .combMem, .superMem, .superTree, .hild, .ctx, .rings, .evq, .partRegs, .mod]) ?_ hM
  unfold Within vpStart
  (try dsimp only)
  repeat' first
    | with_reducible rfl
    | intro _
    | with_reducible refine (holdOp_without (hM := by decide)).trans ?_
    | with_reducible refine (vecList_without (hM := by decide)).trans ?_
    | with_reducible refine (vecFault_without (hM := by decide)).trans ?_
    | with_reducible refine (setDests_without (hM := by decide)).trans ?_
    | split

end Sys2Proof.Machine
end

