-- ==== Sys2Proof/Laws/Gcm.lean ====
section
/-! SUPPORT. AES-256-GCM: what sealing made, opening gives back. -/

namespace Sys2Proof.Laws

open Config

theorem gcmMask_length (key : BitVec 256) (nonce : BitVec 96) (bs : Bytes) : (gcmMask key nonce bs).length = bs.length := by
  simp [gcmMask]

theorem gcmMask_gcmMask (key : BitVec 256) (nonce : BitVec 96) (bs : Bytes) : gcmMask key nonce (gcmMask key nonce bs) = bs := by
  apply List.ext_getElem
  · simp [gcmMask]
  · intro i h1 h2
    simp [gcmMask]

/-- Opening under the key, nonce and additional data of the sealing gives the plaintext. -/
theorem gcmOpen_gcmSeal (key : BitVec 256) (nonce : BitVec 96) (aad plain : Bytes) :
    gcmOpen key nonce aad (gcmSeal key nonce aad plain) = some plain := by
  have h : (gcmSeal key nonce aad plain).length - 16 = (gcmMask key nonce plain).length := by simp [gcmSeal]
  simp only [gcmOpen, h]
  simp [gcmSeal, gcmMask_gcmMask]

/-- A body shorter than its tag opens under no key. -/
theorem gcmOpen_short {body : Bytes} (h : body.length < 16) (key : BitVec 256) (nonce : BitVec 96) (aad : Bytes) :
    gcmOpen key nonce aad body = none := by
  have hd : (body.drop (body.length - 16)).length < 16 := by
    rw [List.length_drop]
    omega
  have hne : ∀ v : Vector Byte 16, body.drop (body.length - 16) ≠ v.toList := by
    intro v e
    rw [e, Vector.length_toList] at hd
    omega
  simp [gcmOpen, hne]

end Sys2Proof.Laws
end

