-- ==== Sys2Proof/Laws/Tables.lean ====
section
/-! SUPPORT. The laws of sparse tables and memories: a read after a write, and that every operation on them keeps their
canonical form. -/

namespace Sys2Proof.Machine

section Tab

variable {α : Type} [DecidableEq α] {d : α}

/-- A canonical table from lo stays one from a lower bound. -/
theorem tabWfFrom_mono {t : Tab α} : ∀ {lo lo' : Nat}, lo' ≤ lo → tabWfFrom d lo t = true → tabWfFrom d lo' t = true := by
  cases t with
  | nil => intros; rfl
  | cons e r =>
    intro lo lo' h w
    simp only [tabWfFrom, Bool.and_eq_true, decide_eq_true_eq] at w ⊢
    exact ⟨⟨by omega, w.1.2⟩, w.2⟩

/-- Below its lower bound a canonical table holds the default. -/
theorem tabGet_below {t : Tab α} : ∀ {lo k : Nat}, tabWfFrom d lo t = true → k < lo → tabGet d t k = d := by
  induction t with
  | nil => intros; rfl
  | cons e r ih =>
    obtain ⟨a, v⟩ := e
    intro lo k w h
    simp only [tabWfFrom, Bool.and_eq_true, decide_eq_true_eq] at w
    simp only [tabGet]
    rw [if_neg (by omega)]
    exact ih w.2 (by omega)

/-- Leaving entries out keeps the canonical form. -/
theorem tabWfFrom_filter {t : Tab α} (p : Nat × α → Bool) : ∀ {lo : Nat}, tabWfFrom d lo t = true →
    tabWfFrom d lo (t.filter p) = true := by
  induction t with
  | nil => intros; rfl
  | cons e r ih =>
    obtain ⟨a, v⟩ := e
    intro lo w
    simp only [tabWfFrom, Bool.and_eq_true, decide_eq_true_eq] at w
    simp only [List.filter]
    split
    · have := ih w.2
      simp [tabWfFrom, *]
    · exact tabWfFrom_mono (by omega) (ih w.2)

theorem tabClear_wf {t : Tab α} (lo hi : Nat) (h : tabWf d t = true) : tabWf d (tabClear t lo hi) = true :=
  tabWfFrom_filter _ h

/-- Two canonical tables, one above the other, make a canonical table. -/
theorem tabWfFrom_append {t u : Tab α} {m : Nat} : ∀ {lo : Nat}, tabWfFrom d lo t = true → (∀ e ∈ t, e.1 < m) → lo ≤ m →
    tabWfFrom d m u = true → tabWfFrom d lo (t ++ u) = true := by
  induction t with
  | nil =>
    intro lo _ _ hm hu
    exact tabWfFrom_mono hm hu
  | cons e r ih =>
    obtain ⟨a, v⟩ := e
    intro lo w hb hm hu
    simp only [tabWfFrom, Bool.and_eq_true, decide_eq_true_eq] at w
    have ha : a < m := hb (a, v) (by simp)
    have := ih (lo := a + 1) w.2 (fun e he => hb e (by simp [he])) (by omega) hu
    simp [tabWfFrom, *]

theorem tabRun_wf (vs : List α) : ∀ lo, tabWfFrom d lo (tabRun d lo vs) = true ∧ ∀ e ∈ tabRun d lo vs, e.1 < lo + vs.length := by
  induction vs with
  | nil => intro lo; simp [tabRun, tabWfFrom]
  | cons v r ih =>
    intro lo
    obtain ⟨h1, h2⟩ := ih (lo + 1)
    simp only [tabRun, List.length_cons]
    split
    · refine ⟨tabWfFrom_mono (by omega) h1, fun e he => ?_⟩
      have := h2 e he
      omega
    · refine ⟨by simp [tabWfFrom, *], fun e he => ?_⟩
      simp only [List.mem_cons] at he
      rcases he with rfl | he
      · simp
      · have := h2 e he
        omega

theorem tabWfFrom_filter_ge {t : Tab α} {m : Nat} : ∀ {lo : Nat}, tabWfFrom d lo t = true →
    tabWfFrom d m (t.filter fun e => decide (m ≤ e.1)) = true := by
  induction t with
  | nil => intros; rfl
  | cons e r ih =>
    obtain ⟨a, v⟩ := e
    intro lo w
    simp only [tabWfFrom, Bool.and_eq_true, decide_eq_true_eq] at w
    by_cases h : m ≤ a
    · have := tabWfFrom_filter (fun e : Nat × α => decide (m ≤ e.1)) w.2
      simp [tabWfFrom, *]
    · simpa [h] using ih w.2

/-- Writing a run of entries keeps the canonical form. -/
theorem tabPut_wf {t : Tab α} (lo : Nat) (vs : List α) (h : tabWf d t = true) : tabWf d (tabPut d t lo vs) = true := by
  have hr := tabRun_wf (d := d) vs lo
  simp only [tabPut, List.append_assoc]
  refine tabWfFrom_append (m := lo) (tabWfFrom_filter _ h) (by simp) (Nat.zero_le _) ?_
  exact tabWfFrom_append (m := lo + vs.length) hr.1 hr.2 (by omega) (tabWfFrom_filter_ge h)

omit [DecidableEq α] in
theorem tabGet_append {t u : Tab α} {k : Nat} (h : ∀ e ∈ t, e.1 ≠ k) : tabGet d (t ++ u) k = tabGet d u k := by
  induction t with
  | nil => rfl
  | cons e r ih =>
    obtain ⟨a, v⟩ := e
    have : a ≠ k := h (a, v) (by simp)
    simp only [List.cons_append, tabGet, if_neg this]
    exact ih fun e he => h e (by simp [he])

omit [DecidableEq α] in
theorem tabGet_append_left {t u : Tab α} {k : Nat} (h : ∀ e ∈ u, e.1 ≠ k) : tabGet d (t ++ u) k = tabGet d t k := by
  induction t with
  | nil =>
    have := tabGet_append (d := d) (u := ([] : Tab α)) h
    simpa using this
  | cons e r ih =>
    obtain ⟨a, v⟩ := e
    simp only [List.cons_append, tabGet]
    split
    · rfl
    · exact ih

omit [DecidableEq α] in
theorem tabGet_filter {t : Tab α} {k : Nat} (p : Nat → Bool) (h : p k = true) :
    tabGet d (t.filter fun e => p e.1) k = tabGet d t k := by
  induction t with
  | nil => rfl
  | cons e r ih =>
    obtain ⟨a, v⟩ := e
    by_cases hk : a = k
    · subst hk; simp [h, tabGet]
    · by_cases hp : p a = true
      · simpa [hp, tabGet, hk] using ih
      · simpa [hp, tabGet, hk] using ih

theorem tabGet_tabRun (vs : List α) : ∀ (lo k : Nat), tabGet d (tabRun d lo vs) k =
    if lo ≤ k then vs.getD (k - lo) d else d := by
  induction vs with
  | nil => intro lo k; simp [tabRun, tabGet]
  | cons v r ih =>
    intro lo k
    by_cases hk : lo = k
    · subst hk
      by_cases hv : v = d
      · have := ih (lo + 1) lo
        simpa [tabRun, hv] using this
      · simp [tabRun, hv, tabGet]
    · have e : (if lo ≤ k then (v :: r).getD (k - lo) d else d) = if lo + 1 ≤ k then r.getD (k - (lo + 1)) d else d := by
        by_cases hl : lo ≤ k
        · have h1 : k - lo = (k - (lo + 1)) + 1 := by omega
          have h2 : lo + 1 ≤ k := by omega
          rw [if_pos hl, if_pos h2, h1]
          rfl
        · rw [if_neg hl, if_neg (by omega)]
      rw [e, ← ih (lo + 1) k]
      by_cases hv : v = d <;> simp [tabRun, hv, tabGet, hk]

/-- What a table holds after a run of entries was written. -/
theorem tabGet_tabPut {t : Tab α} (lo k : Nat) (vs : List α) : tabGet d (tabPut d t lo vs) k =
    if lo ≤ k ∧ k < lo + vs.length then vs.getD (k - lo) d else tabGet d t k := by
  simp only [tabPut, List.append_assoc]
  by_cases h1 : k < lo
  · rw [if_neg (by omega), tabGet_append_left]
    · exact tabGet_filter (fun a => decide (a < lo)) (by simpa using h1)
    · intro e he
      simp only [List.mem_append, List.mem_filter, decide_eq_true_eq] at he
      rcases he with he | he
      · have := tabRun_wf (d := d) vs lo
        have hlo : ∀ (vs : List α) (l : Nat), ∀ e ∈ tabRun d l vs, l ≤ e.1 := by
          intro vs
          induction vs with
          | nil => intro l e he; simp [tabRun] at he
          | cons v r ih =>
            intro l e he
            simp only [tabRun] at he
            split at he
            · have := ih _ _ he; omega
            · simp only [List.mem_cons] at he
              rcases he with rfl | he
              · exact Nat.le_refl _
              · have := ih _ _ he; omega
        have := hlo _ _ _ he
        omega
      · omega
  · rw [tabGet_append (fun e he => by simp only [List.mem_filter, decide_eq_true_eq] at he; omega)]
    by_cases h2 : k < lo + vs.length
    · rw [if_pos (by omega), tabGet_append_left, tabGet_tabRun, if_pos (by omega)]
      intro e he
      simp only [List.mem_filter, decide_eq_true_eq] at he
      omega
    · rw [if_neg (by omega), tabGet_append]
      · exact tabGet_filter (fun a => decide (lo + vs.length ≤ a)) (by simpa using (by omega : lo + vs.length ≤ k))
      · intro e he
        have := (tabRun_wf (d := d) vs lo).2 e he
        omega

/-- What tabTake reads of a canonical table. -/
theorem tabTake_getD (n : Nat) : ∀ (lo : Nat) (t : Tab α), tabWfFrom d lo t = true →
    tabTake d n lo t = (List.range n).map fun i => tabGet d t (lo + i) := by
  induction n with
  | zero => intros; simp [tabTake]
  | succ n ih =>
    intro lo t h
    rw [List.range_succ_eq_map, List.map_cons, List.map_map]
    cases t with
    | nil =>
      have := ih (lo + 1) [] rfl
      simp only [tabTake, this, tabGet]
      rfl
    | cons e r =>
      obtain ⟨a, v⟩ := e
      simp only [tabWfFrom, Bool.and_eq_true, decide_eq_true_eq] at h
      by_cases ha : a = lo
      · subst ha
        simp only [tabTake, if_true, tabGet, Nat.add_zero]
        rw [ih _ _ h.2]
        congr 1
        apply List.map_congr_left
        intro i _
        simp only [Function.comp]
        rw [if_neg (by omega)]
        congr 1
        omega
      · simp only [tabTake, if_neg ha]
        rw [ih (lo + 1) ((a, v) :: r) (by simp only [tabWfFrom, Bool.and_eq_true, decide_eq_true_eq]; exact ⟨⟨by omega, h.1.2⟩, h.2⟩)]
        congr 1
        · simp only [tabGet, Nat.add_zero, if_neg ha]
          exact (tabGet_below h.2 (by omega)).symm
        · apply List.map_congr_left
          intro i _
          simp only [Function.comp]
          congr 1
          omega

/-- A slice of a table is its entries. -/
theorem tabSlice_eq {t : Tab α} (lo n : Nat) : tabSlice d t lo n = (List.range n).map fun i => tabGet d t (lo + i) := by
  simp only [tabSlice]
  split
  · rename_i h
    rw [tabTake_getD n lo _ h]
    apply List.map_congr_left
    intro i _
    exact tabGet_filter (fun a => decide (lo ≤ a)) (by simp)
  · rfl

/-- The entry set is the one read back; the others stay. -/
theorem tabGet_tabSet {t : Tab α} (k j : Nat) (v : α) : tabGet d (tabSet d t k v) j = if j = k then v else tabGet d t j := by
  simp only [tabSet, tabGet_tabPut, List.length_singleton]
  by_cases h : j = k
  · subst h; simp
  · rw [if_neg (by omega), if_neg h]

theorem tabGet_tabSet_same {t : Tab α} {k : Nat} {v : α} : tabGet d (tabSet d t k v) k = v := by simp [tabGet_tabSet]

theorem tabGet_tabSet_other {t : Tab α} {k j : Nat} {v : α} (h : k ≠ j) : tabGet d (tabSet d t k v) j = tabGet d t j := by
  rw [tabGet_tabSet, if_neg (Ne.symm h)]

theorem tabSet_wf {t : Tab α} (k : Nat) (v : α) (h : tabWf d t = true) : tabWf d (tabSet d t k v) = true := tabPut_wf k [v] h

end Tab

/-! ### Memory -/

/-- A store keeps the canonical form. -/
theorem memWrite_wf {m : Mem} (a : Nat) (bs : Bytes) (h : m.wf = true) : (memWrite m a bs).wf = true := tabPut_wf a bs h

/-- Clearing a range keeps it. -/
theorem memClear_wf {m : Mem} (lo hi : Nat) (h : m.wf = true) : Mem.wf (tabClear m lo hi) = true := tabClear_wf lo hi h

/-- The byte at x after a store: the stored byte within the run, what was there elsewhere. -/
theorem memByte_memWrite (bs : Bytes) {m : Mem} (a x : Nat) :
    memByte (memWrite m a bs) x = if a ≤ x ∧ x < a + bs.length then bs.getD (x - a) 0 else memByte m x := tabGet_tabPut a x bs

@[simp] theorem memRead_length (m : Mem) : ∀ (n a : Nat), (memRead m a n).length = n := by
  intro n
  induction n with
  | zero => intros; rfl
  | succ n ih => intro a; simp [memRead, ih]

/-- A read is its bytes. -/
theorem memRead_eq (m : Mem) : ∀ (n a : Nat), memRead m a n = (List.range n).map fun i => memByte m (a + i) := by
  intro n
  induction n with
  | zero => intro a; simp [memRead]
  | succ n ih =>
    intro a
    rw [List.range_succ_eq_map, List.map_cons, List.map_map, memRead, ih]
    congr 1
    apply List.map_congr_left
    intro i _
    simp only [Function.comp]
    congr 1
    omega

/-- A read of the bytes a store wrote gives them back. -/
theorem memRead_memWrite (bs : Bytes) {m : Mem} (a : Nat) : memRead (memWrite m a bs) a bs.length = bs := by
  rw [memRead_eq]
  apply List.ext_getElem (by simp)
  intro i h1 h2
  simp only [List.getElem_map, List.getElem_range, memByte_memWrite]
  rw [if_pos (by omega)]
  simp [h2]

@[simp] theorem leBytes_length : ∀ (n v : Nat), (leBytes n v).length = n := by
  intro n
  induction n with
  | zero => intros; rfl
  | succ n ih => intro v; simp [leBytes, ih]

/-- The value of the bytes of a value. -/
theorem le_leBytes : ∀ (n v : Nat), le (leBytes n v) = v % 256 ^ n := by
  intro n
  induction n with
  | zero => intro v; simp [leBytes, le, Nat.mod_one]
  | succ n ih =>
    intro v
    have e : (256 : Nat) ^ (n + 1) = 256 * 256 ^ n := by rw [pow_succ, Nat.mul_comm]
    rw [leBytes, le, ih, BitVec.toNat_ofNat, e, Nat.mod_mul]

/-- A value stored and read back. -/
theorem memNat_memWrite {m : Mem} (a n v : Nat) : memNat (memWrite m a (leBytes n v)) a n = v % 256 ^ n := by
  have := memRead_memWrite (leBytes n v) (m := m) a
  rw [leBytes_length] at this
  simp [memNat, this, le_leBytes]

end Sys2Proof.Machine
end

