-- ==== Sys2Proof/Machine/Domains.lean ====
section
/-! DEFINITION. The 80 power domains and the 100 clock domains of the module (R33–R43, R549): which are on, which clocks run and
at what rate, and which reset stops and starts them. -/

namespace Sys2Proof.Machine

/-! ### Power domains (R36) -/

/-- A power domain. -/
inductive PowerDomain where
  | cellGroup (k : Comb) (g : Fin 4)
  | spareCell (k : Comb)
  | sequencer (k : Comb)
  | router (k : Comb)
  | baseDie (k : Super)
  | phy (p : PPort)
  | bridge (d : Die)
  | pcie
  | queen (d : Die)
  | debug
  | noc (d : Die)
  deriving DecidableEq, Repr

/-- The power domains of R36. -/
def powerDomains : List PowerDomain :=
  (fins 8).flatMap (fun k => (fins 4).map (PowerDomain.cellGroup k)) ++ (fins 8).map .spareCell ++ (fins 8).map .sequencer ++
  (fins 8).map .router ++ (fins 8).map .baseDie ++ (fins 8).map .phy ++ (fins 2).map .bridge ++ [.pcie] ++ (fins 2).map .queen ++
  [.debug] ++ (fins 2).map .noc

/-- Whether a power domain is on. -/
def domainOn (s : State) : PowerDomain → Bool
  | .cellGroup k g => s.combs[k].grpPwr.getLsbD g.val
  | .spareCell k => s.combs[k].sparePwr
  | .sequencer k => s.combs[k].seqPwr
  | .router k => s.combs[k].routerPwr
  | .baseDie k => s.supers[k].powered
  | .phy p => s.ports[p].on
  | .bridge d => s.power.fixed.bridge.getLsbD d.val
  | .pcie => s.power.fixed.pcie
  | .queen d => s.power.fixed.queens.getLsbD d.val
  | .debug => s.power.fixed.debug
  | .noc d => s.power.fixed.noc.getLsbD d.val

/-- The power domain of a physical cell: its group, or the spare's own. -/
def cellDomain (k : Comb) (n : PCell) : PowerDomain := if h : n.val < 20 then .cellGroup k ⟨n.val / 5, by omega⟩ else .spareCell k

/-- Whether a cell is clock-gated and isolated: it has failed; its group stays on for the others (R37). -/
def cellGated (s : State) (k : Comb) (n : PCell) : Bool := s.combs[k].cellRegs.failed.getLsbD n.val

/-- Whether a cell can run: its domain is on and it is not gated. -/
def cellPowered (s : State) (k : Comb) (n : PCell) : Bool := domainOn s (cellDomain k n) && !cellGated s k n

/-! ### Clock domains (R33, R549) -/

/-- A clock domain. -/
inductive ClockDomain where
  | array (k : Comb)
  | sequencer (k : Comb)
  | router (k : Comb)
  | superLink (k : Comb)
  | baseLogic (k : Super)
  | dramPhy (k : Super)
  | linkEnd (k : Super)
  | serdes (p : PPort) (rx : Bool)
  | noc (d : Die)
  | bridge (d : Die)
  | sideband (d : Die)
  | pciePhy
  | pcieLink
  | pcieIde
  | queenCore (d : Die)
  | queenCrypto (d : Die)
  | queenFuse (d : Die)
  | powerControl (i : Fin 2)
  | i3c
  | uart
  | spi
  | debug (i : Fin 2)
  | monitors (i : Fin 2)
  | pllControl (d : Die)
  | test (i : Fin 2)
  deriving DecidableEq, Repr

/-- The clock domains of R33. -/
def clockDomains : List ClockDomain :=
  (fins 8).map .array ++ (fins 8).map .sequencer ++ (fins 8).map .router ++ (fins 8).map .superLink ++ (fins 8).map .baseLogic ++
  (fins 8).map .dramPhy ++ (fins 8).map .linkEnd ++ (fins 8).flatMap (fun p => [.serdes p false, .serdes p true]) ++
  (fins 2).map .noc ++ (fins 2).map .bridge ++ (fins 2).map .sideband ++ [.pciePhy, .pcieLink, .pcieIde] ++
  (fins 2).flatMap (fun d => [.queenCore d, .queenCrypto d, .queenFuse d]) ++ (fins 2).map .powerControl ++ [.i3c, .uart, .spi] ++
  (fins 2).map .debug ++ (fins 2).map .monitors ++ (fins 2).map .pllControl ++ (fins 2).map .test

/-- The power domains whose units a clock domain clocks; none: it runs with the rails. -/
def clockPower : ClockDomain → List PowerDomain
  | .array k => (fins 4).map (PowerDomain.cellGroup k) ++ [.spareCell k]
  | .sequencer k | .superLink k => [.sequencer k]
  | .router k => [.router k]
  | .baseLogic k | .dramPhy k | .linkEnd k => [.baseDie k]
  | .serdes p _ => [.phy p]
  | .noc d => [.noc d]
  | .bridge d => [.bridge d]
  | .pciePhy | .pcieLink | .pcieIde => [.pcie]
  | .queenCore d | .queenCrypto d | .queenFuse d => [.queen d]
  | .debug _ => [.debug]
  | .sideband _ | .powerControl _ | .i3c | .uart | .spi | .monitors _ | .pllControl _ | .test _ => []

/-- Whether a clock domain runs: the rails are up, and a unit that it clocks is powered (R34, R549). -/
def clockRuns (s : State) (c : ClockDomain) : Bool :=
  s.power.pwrgd && ((clockPower c).isEmpty || (clockPower c).any (domainOn s))

/-- The rate of a clock domain in kHz, where the spec states one (R33, R549): an emergency throttle divides the core clocks of its die
and no others (R34, R35, R554). -/
def clockRate (s : State) : ClockDomain → Option Nat
  | .array k | .sequencer k | .superLink k => some (1800000 / 2 ^ dieDiv s.dies[dieOf k])
  | .noc d | .bridge d => some (1800000 / 2 ^ dieDiv s.dies[d])
  | .router _ => some 1250000
  | .baseLogic _ => some 1200000
  | .linkEnd _ => some 1800000
  | .serdes _ _ => some 28000000
  | .queenCore _ => some 1000000
  | .queenCrypto _ => some 500000
  | .queenFuse _ | .sideband _ | .powerControl _ => some 100000
  | .dramPhy _ | .pciePhy | .pcieLink | .pcieIde | .i3c | .uart | .spi | .debug _ | .monitors _ | .pllControl _ | .test _ => none

/-- The clock domains that a reset of R488 resets, each as one unit: a comb, a super controller, or the module, which leaves the
power controller and the crown epoch's sideband; a strand-port reset resets none of them whole. -/
def resetClocks (dom : BitVec 4) (k : Fin 8) : List ClockDomain :=
  if dom = domComb then [.array k, .sequencer k]
  else if dom = domSuper then [.baseLogic k, .dramPhy k, .linkEnd k, .superLink k]
  else if dom = domWarm ∨ dom = domCold then clockDomains.filter fun c => match c with
    | .powerControl _ | .sideband _ => false
    | _ => true
  else []

end Sys2Proof.Machine
end

