-- ==== Sys2Proof/WellFormed.lean ====
section
/-! DEFINITION. Which operands a command can carry: bounds that the operand types leave open. A sender that keeps them sends
what the spec says can arrive. exec is total: it answers every command, well-formed or not. -/

namespace Sys2Proof

/-- COUNT 1–4,096 and an iteration below 4,096 (R220). -/
def VCtx.wf (x : VCtx) : Bool := decide (1 ≤ x.count) && decide (x.count ≤ 4096) && decide (x.iter < 4096)

/-- Format, rounding, RAW and ACC of a load (R222, R223). -/
def MemArg.loadWf (m : MemArg) : Bool :=
  decide (m.fmt.toNat ≤ 4) && m.round == 0 && m.acc == 0 && (!m.raw || m.fmt == 4)
/-- The same of a store: rounding 0 or 1, or 2 with BF16 and FP16; FP32 and RAW take no rounding (R198, R228). -/
def MemArg.storeWf (m : MemArg) : Bool :=
  decide (m.fmt.toNat ≤ 4) && m.acc == 0 && (!m.raw || m.fmt == 4) && (m.fmt != 4 || m.round == 0) &&
  (decide (m.round.toNat < 2) || (m.round == 2 && (m.fmt == 2 || m.fmt == 3)))
/-- The same of SCATADD: FMT is 4 (R223). -/
def MemArg.addWf (m : MemArg) : Bool := m.fmt == 4 && m.round == 0 && !m.raw && m.acc == 0
/-- The same of a reduction: ACC 0–2 (R222). -/
def MemArg.reduceWf (m : MemArg) : Bool := m.fmt == 0 && m.round == 0 && !m.raw && decide (m.acc.toNat < 3)

/-- The payload of a data flit: at most 512 bytes (R393). -/
def Flit.wf (f : Flit) : Bool := decide (f.errs ≤ 544) && decide (f.body.length ≤ 592)

/-- Whether a BAR 2 access lies within the BAR (R420). -/
def barWf (off : BitVec 30) (n : Nat) : Bool := decide (1 ≤ n) && decide (off.toNat + n ≤ 2 ^ 30)

/-- Whether a command's operands are ones that can arrive. -/
def Instr.wf : Instr → Bool
  | .thermalSample die0 die1 dram => die0.length == 24 && die1.length == 24 && dram.length == 8 && dram.all fun t => t.length == 16
  | .descriptorFetchDone _ _ ds => !ds.isEmpty && ds.all fun d => d.length == 64
  | .memoryWrite _ off _ data _ _ _ => off.toNat % 128 == 0 && data.length % 128 == 0 && !data.isEmpty
  | .partialWrite _ off _ data _ _ _ _ => !data.isEmpty && decide (off.toNat % 128 + data.length ≤ 128) && decide (data.length < 128)
  | .bar2Read off n => barWf off n
  | .bar2Write off data => barWf off data.length
  | .wireFrameReceive _ _ f => f.wf
  | .dataFlitReceive _ _ f => f.wf
  | .transitFlitReceive _ _ f => f.wf
  | .resetStrandPort _ port => decide (port.val < 6)
  | .debugUnlock token _ _ => token.length == 144
  | .hostLinkUp gts width => [640, 320, 160, 80, 50, 25].contains gts && [8, 4, 2, 1].contains width
  | .pldmTransferData _ data => !data.isEmpty && decide (data.length ≤ 4096)
  | .bind _ m => decide (m.length ≤ 65536)
  | .key _ e => e.length == 224
  | .hldCmp _ _ _ _ cond => decide (cond.toNat ≤ 4)
  | .rnd _ _ _ round fmt => round != 3 && decide (fmt.toNat ≤ 4)
  | .hldSt _ _ slot _ => slot != 7
  | .hldLd _ _ slot => slot != 7
  | .vecLd x _ m => x.wf && m.loadWf
  | .vecLdb x _ m => x.wf && m.loadWf
  | .gather x _ _ m => x.wf && m.loadWf
  | .vecSt x _ m => x.wf && m.storeWf
  | .scatter x _ _ m => x.wf && m.storeWf
  | .scatadd x _ _ m => x.wf && m.addWf
  | .rsum x _ m => x.wf && m.reduceWf
  | .rmax x _ m => x.wf && m.reduceWf
  | .rmin x _ m => x.wf && m.reduceWf
  | .ramax x _ m => x.wf && m.reduceWf
  | .rsumsq x _ m => x.wf && m.reduceWf
  | .vecCmp x _ _ _ cond => x.wf && decide (cond.toNat ≤ 4)
  | .vecShl x _ _ imm => x.wf && decide (imm.toNat < 32)
  | .vecShr x _ _ imm => x.wf && decide (imm.toNat < 32)
  | .vecAdd x _ _ _ => x.wf
  | .vecSub x _ _ _ => x.wf
  | .vecMul x _ _ _ => x.wf
  | .vecDiv x _ _ _ => x.wf
  | .vecMax x _ _ _ => x.wf
  | .vecMin x _ _ _ => x.wf
  | .vecFma x _ _ _ _ => x.wf
  | .vecSel x _ _ _ _ => x.wf
  | .vecAddi x _ _ _ => x.wf
  | .muli x _ _ _ => x.wf
  | .fmai x _ _ _ _ => x.wf
  | .maxi x _ _ _ => x.wf
  | .mini x _ _ _ => x.wf
  | .vecAbs x _ _ => x.wf
  | .neg x _ _ => x.wf
  | .vecSqrt x _ _ => x.wf
  | .vecExp x _ _ => x.wf
  | .exp2 x _ _ => x.wf
  | .vecLog x _ _ => x.wf
  | .rcp x _ _ => x.wf
  | .vecRsqrt x _ _ => x.wf
  | .tanh x _ _ => x.wf
  | .sigmoid x _ _ => x.wf
  | .gelu x _ _ => x.wf
  | .iadd x _ _ _ => x.wf
  | .isub x _ _ _ => x.wf
  | .uaddsat x _ _ _ => x.wf
  | .vecAnd x _ _ _ => x.wf
  | .vecOr x _ _ _ => x.wf
  | .vecXor x _ _ _ => x.wf
  | .ftoi x _ _ => x.wf
  | .itof x _ _ => x.wf
  | .iota x _ _ => x.wf
  | .movi x _ _ => x.wf
  | _ => true

end Sys2Proof
end

