-- ==== Sys2Proof/Tests/Slice0.lean ====
section
/-! SUPPORT. The model's own tests: the checks of WellFormed, and for every obligation with hypotheses concrete states and
operands that meet them, clause by clause (`test_meets_<obligation>`). -/

namespace Sys2Proof.Tests

-- One theorem at a time: each `decide +kernel` waits for the kernel's verdict on everything before it, and theorems that wait
-- side by side hold one thread each.
set_option Elab.async false

open Machine

/-! ### An ill-formed term for each check of WellFormed -/

/-- A vector context of some count and iteration. -/
def vctx (n i : Nat) : VCtx := ⟨0, 0, n, false, i⟩
/-- A memory argument of some format, rounding, RAW and ACC. -/
def marg (fmt : BitVec 3) (round : BitVec 2) (raw : Bool) (acc : BitVec 2) : MemArg := ⟨0, false, fmt, round, raw, acc⟩
/-- A data flit of some body length. -/
def flitOf (n : Nat) : Flit := ⟨1, 0, 0, 0, 0, 0, 0, 0, 0, 0, List.replicate n 0⟩

theorem test_wf_count : Instr.wf (.vecAdd (vctx 0 0) 1 2 3) = false ∧ Instr.wf (.movi (vctx 4097 0) 1 2) = false := by decide
theorem test_wf_iter : Instr.wf (.vecAbs (vctx 1 4096) 1 2) = false ∧ Instr.wf (.vecAbs (vctx 4096 4095) 1 2) = true := by decide
theorem test_wf_load : Instr.wf (.vecLd (vctx 1 0) 1 (marg 5 0 false 0)) = false ∧
    Instr.wf (.vecLd (vctx 1 0) 1 (marg 2 0 true 0)) = false ∧ Instr.wf (.gather (vctx 1 0) 1 2 (marg 2 1 false 0)) = false ∧
    Instr.wf (.vecLdb (vctx 1 0) 1 (marg 2 0 false 1)) = false := by decide
theorem test_wf_store : Instr.wf (.vecSt (vctx 1 0) 1 (marg 4 1 false 0)) = false ∧
    Instr.wf (.vecSt (vctx 1 0) 1 (marg 0 2 false 0)) = false ∧ Instr.wf (.scatter (vctx 1 0) 1 2 (marg 3 2 false 0)) = true := by decide
theorem test_wf_scatadd : Instr.wf (.scatadd (vctx 1 0) 1 2 (marg 2 0 false 0)) = false := by decide
theorem test_wf_reduce : Instr.wf (.rsum (vctx 1 0) 1 (marg 0 0 false 3)) = false ∧
    Instr.wf (.rmax (vctx 1 0) 1 (marg 4 0 false 0)) = false := by decide
theorem test_wf_condition : Instr.wf (.vecCmp (vctx 1 0) 1 2 3 5) = false ∧ Instr.wf (.hldCmp 0 1 2 3 5) = false := by decide
theorem test_wf_shift : Instr.wf (.vecShl (vctx 1 0) 1 2 32) = false ∧ Instr.wf (.vecShr (vctx 1 0) 1 2 31) = true := by decide
theorem test_wf_hild : Instr.wf (.rnd 0 1 2 3 0) = false ∧ Instr.wf (.rnd 0 1 2 0 5) = false ∧ Instr.wf (.hldSt 0 1 7 0) = false ∧
    Instr.wf (.hldSt 0 1 0 3) = true ∧ Instr.wf (.hldLd 0 1 7) = false := by decide
theorem test_wf_memory : Instr.wf (.memoryWrite 0 1 .operator (List.replicate 128 0) [] [] []) = false ∧
    Instr.wf (.memoryWrite 0 128 .operator [] [] [] []) = false ∧ Instr.wf (.partialWrite 0 127 .operator [0, 0] [] [] [] []) = false := by
  decide +kernel
theorem test_wf_bar : Instr.wf (.bar2Read 0 0) = false ∧ Instr.wf (.bar2Write 0x3FFFFFFF [0, 0]) = false := by decide
theorem test_wf_flit : Instr.wf (.dataFlitReceive 0 0 (flitOf 593)) = false ∧ Instr.wf (.transitFlitReceive 0 0 (flitOf 593)) = false ∧
    Instr.wf (.wireFrameReceive 0 0 { flitOf 592 with errs := 545 }) = false ∧ Instr.wf (.wireFrameReceive 0 0 (flitOf 592)) = true := by decide +kernel
theorem test_wf_lengths : Instr.wf (.thermalSample [1] [2] [[3]]) = false ∧ Instr.wf (.descriptorFetchDone 0 0 []) = false ∧
    Instr.wf (.descriptorFetchDone 0 0 [[1]]) = false ∧ Instr.wf (.key 0 []) = false ∧ Instr.wf (.pldmTransferData 0 []) = false := by decide
theorem test_wf_port : Instr.wf (.resetStrandPort 0 6) = false ∧ Instr.wf (.hostLinkUp 640 3) = false ∧
    Instr.wf (.hostLinkUp 100 8) = false := by decide

/-! ### States the witnesses share -/

/-- A module at READY. -/
def up : State := { State.reset with boot := { stage := 5 }, queen := { q0 := 2, q1 := 1, epoch := 1 } }

/-- Counter nodes of the first 256 KiB and of the first sealed page, held in the cache. -/
def nodes : List (Nat × Bool) := (16777216 + 0xE50000, false) :: (List.range 64).map fun i => (16777216 + i, false)

/-- Partition 0 of comb 0, live, its region table of one striped region committed, key 1 active. -/
def one : State :=
  { up with
    combs := up.combs.set 0 { assigned := true, grpPwr := 15, seqPwr := true, routerPwr := true }
    supers := up.supers.set 0 { powered := true, state := 1, tree := 1, cache := nodes, slots := (Vector.replicate 64 ({} : Slot)).set 1 { state := 1 } }
    parts := up.parts.set 0 { live := true, locked := true, ready := true,
                              rgn := (Vector.replicate 16 ({} : Region)).set 0 { kind := 1, keyId := 1, share := 1 } } }

/-- `one` with a program running on comb 0. -/
def busy : State := one.modSeq 0 fun q => { q with state := 1, running := some ⟨0, 0, 0⟩, progLen := 4096 }

/-- Two partitions: 0 of combs 0 and 1 with programs, held data and memory, 4 of comb 4; supers 2 and 3 free. -/
def rich : State :=
  let comb : Nat → Part → CombState := fun n p =>
    { assigned := true, psize := if p = 0 then 1 else 0, pbase := p, grpPwr := 15, seqPwr := true, routerPwr := true
      hum := { time := 1024 * 5000 + 64 * n, state := 2 }
      seq := { state := 1, running := some ⟨p, 0, 0⟩, progLen := 4096, pc := 64, issued := 9
               regs := (Vector.replicate 32 (7 : DWord)).set 2 0x3F80000040000000
               preds := (Vector.replicate 16 PState.isTrue).set 3 .isFalse }
      rng := { state := 1, ready := true, reseeds := 65535 }
      cells := (Vector.replicate 21 ({} : CellState)).set 2 { store := [(0, 1), (5, 9)], vregs := [(1, 5)], stats := [(3, 1)] }
      store := [(4, 4), (64, 1)]
      router := { lease := [(7, 5)], jobs := (Vector.replicate 12 ({} : JobEntry)).set 1 { jobId := 3, role := 1, leased := false } } }
  let sup : SuperState :=
    { powered := true, state := 1, tree := 1, cache := nodes, mem := [(0, 1), (700, 2), (0xE50000000, 3)], ctr := [(0, 5), (1, 2), (0x7280000, 2 ^ 55 - 2)]
      slots := ((Vector.replicate 64 ({} : Slot)).set 1 { state := 1 }).set 2 { state := 1, key := 9 }, poison := [9], ce := { on := true, cnt := 2 }
      hild := { gtab := 0x1000, ptab := 0x8000, nonfinite := { on := true, cnt := 9 } } }
  let part : PartState :=
    { live := true, locked := true, ready := true, sems := [(1, 4), (9, 100)], energy := 3, peak := 9, lastStep := 4, hiveSeq := 65535, sum := 0x1234
      rgn := ((Vector.replicate 16 ({} : Region)).set 0 { kind := 1, keyId := 1, share := 2 }).set 1 { kind := 4, keyId := 2, share := 1 }
      rings := (Vector.replicate 16 ({} : RingState)).set 0 { state := 1, enable := true, consumed := 3, written := 2 } }
  { up with
    combs := ((up.combs.set 0 (comb 0 0)).set 1 (comb 1 0)).set 4 (comb 4 4)
    supers := (((up.supers.map fun _ => { sup with slots := .replicate 64 {} }).set 0 sup).set 1 sup).set 4 sup
    parts := (up.parts.set 0 { part with psize := 1 }).set 4 part
    fns := up.fns.map fun f => { f with memSpace := true, busMaster := true }
    dies := up.dies.map fun d => { d with region := true, svn := 3, repair := [0x80000001], temp := 40, crownEpoch := 1 }
    mgmt := { up.mgmt with i3cDyn := some 9, eid := 8 }
    mod := { up.mod with linkUp := true, vfEnable := true, numVfs := 8, pairLinks := [(0, 1)] }
    boot := { up.boot with flash := [(0, 7), (900, 9)], buildId := 5, imgSvn := 4 } }

/-- A descriptor of 64 bytes: its opcode and the bytes set at offsets. -/
def desc (op : Nat) (fs : List (Nat × Nat × Nat)) : Bytes :=
  fs.foldl (fun b f => b.take f.1 ++ leBytes f.2.1 f.2.2 ++ b.drop (f.1 + f.2.1)) (BitVec.ofNat 8 op :: List.replicate 63 0)

/-- What a named descriptor of a state is read as where the state holds none. -/
def noDesc : Desc := { idx := 0, bytes := [] }

/-- `rich` with one descriptor in ring 0 of partition 0. -/
def withDesc (d : Desc) : State := rich.modRing 0 0 fun g => { g with descs := [d] }

/-- A legal state with a step that answers a next state. -/
theorem test_meets_StepsKeepLegal : LegalState rich ∧ ∃ t, step rich = .next t := by
  refine ⟨?_, _, rfl⟩
  unfold LegalState
  decide +kernel

namespace Registers

def sFn : State := { one with fns := one.fns.map fun f => { f with memSpace := true, busMaster := true },
                              mod := { one.mod with linkUp := true, vfEnable := true, numVfs := 8 } }
def sLatch : State := { sFn with fns := sFn.fns.set 0 { sFn.fns[0] with latch := [(.qnCrown, 7)] } }
def sticky1 : Sticky := { on := true, cnt := 3 }
def sticky2 : Sticky := { on := true, cnt := 3, seen := 2 }
def sEvt : State := { sFn with evt := { sFn.evt with recovery := observe 0 (hit 16 {}), wdog := hit 16 {} } }
def sSeq : State := sFn.modSeq 0 fun q => { q with progFault := observe 1 (hit 16 {}), squash := hit 16 {} }

theorem test_meets_EmptyQueuePassesASlot :
    one.pending = [] := by
  decide +kernel

theorem test_meets_ReadsAndHalfWrites :
    (accessTaken sFn (0 : Fn) Reg.qnCrown = true ∧ reaches sFn (0 : Fn) Reg.qnCrown = true ∧ regWide Reg.qnCrown = true) ∧
    (accessTaken sLatch (0 : Fn) Reg.qnCrown = true ∧ reaches sLatch (0 : Fn) Reg.qnCrown = true ∧ regWide Reg.qnCrown = true ∧
      latchOf sLatch (0 : Fn) Reg.qnCrown = some (7 : Word)) ∧
    (accessTaken sFn (0 : Fn) Reg.evtStatus = true ∧ reaches sFn (0 : Fn) Reg.evtStatus = true ∧ (regWide Reg.evtStatus = false ∨
      Acc.low4 = Acc.whole)) ∧
    (accessTaken sFn (1 : Fn) (Reg.hldGtab (0 : Super)) = true ∧ reaches sFn (1 : Fn) (Reg.hldGtab (0 : Super)) = true ∧ (regWide
      (Reg.hldGtab (0 : Super)) = false ∨ Acc.whole = Acc.whole)) ∧
    (accessTaken sFn (0 : Fn) Reg.qnCrown = true ∧ regWide Reg.qnCrown = true ∧ Acc.low4 ≠ Acc.whole) ∧
    (accessTaken sFn (1 : Fn) (Reg.hldGtab (0 : Super)) = true ∧ regWide (Reg.hldGtab (0 : Super)) = true ∧ Acc.high4 ≠ Acc.whole) := by
  refine ⟨?_, ?_, ?_, ?_, ?_, ?_⟩ <;> decide +kernel

theorem test_meets_ClearsOnlySeenEvents :
    sticky1.on = true ∧
    sticky2.on = true ∧
    (3 : Fn) ≠ (4 : Fn) ∧
    (accessTaken sEvt (0 : Fn) Reg.evtStatus = true ∧ reaches sEvt (0 : Fn) Reg.evtStatus = true) ∧
    (accessTaken sSeq (1 : Fn) (Reg.seqStatus (0 : Comb)) = true ∧ reaches sSeq (1 : Fn) (Reg.seqStatus (0 : Comb)) = true) := by
  refine ⟨?_, ?_, ?_, ?_, ?_⟩ <;> decide +kernel

theorem test_meets_WritesSetTheirField :
    (accessTaken sFn (0 : Fn) Reg.evtDrain = true ∧ reaches sFn (0 : Fn) Reg.evtDrain = true) ∧
    (accessTaken sFn (0 : Fn) Reg.evtWdog = true ∧ reaches sFn (0 : Fn) Reg.evtWdog = true) ∧
    (accessTaken sFn (1 : Fn) (Reg.seqCfg (0 : Comb)) = true ∧ reaches sFn (1 : Fn) (Reg.seqCfg (0 : Comb)) = true) ∧
    ((1 : Fn) = fnOf (0 : Part) ∧ accessTaken sFn (1 : Fn) Reg.hiveAddr = true ∧ reaches sFn (1 : Fn) Reg.hiveAddr = true) ∧
    ((1 : Fn) ≠ (0 : Fn) ∧ accessTaken sFn (1 : Fn) (Reg.hldGtab (0 : Super)) = true ∧ reaches sFn (1 : Fn) (Reg.hldGtab (0 :
      Super)) = true) := by
  refine ⟨?_, ?_, ?_, ?_, ?_⟩ <;> decide +kernel

end Registers

namespace Power

def sOff : State := { State.reset with power := { rails := 0, pwrgd := false } }
def sLatched : State := { State.reset with power := { rails := 0, pwrgd := false, latched := true, thermtripN := false } }
def sLoad : State := { State.reset with boot := { stage := 1 } }
def sSelf : State := { State.reset with boot := { stage := 4, kind := .cold, commit := true, imgSvn := 5 } }
def sSvn : State := { one with boot := { one.boot with imgSvn := 5 } }
def sRcv : State := { State.reset with boot := { stage := 6, stageLen := 600, staging := 0 } }
def sRcvd : State := { State.reset with boot := { stage := 6, stageLen := 600, staging := 1, busy := true } }

theorem test_meets_PowerUpPowerDownAndLatch :
    (49000 ≤ 49000 ∧ sOff.power.pwrgd = false ∧ sOff.power.latched = false) ∧
    ((46999 < 47000 ∨ 66000 < 46999) ∧ one.power.pwrgd = true) ∧
    (19999 < 20000 ∧ sLatched.power.latched = true) ∧
    (20000 ≤ 49000) := by
  refine ⟨?_, ?_, ?_, ?_⟩
  · decide +kernel
  · decide +kernel
  · decide +kernel
  · decide +kernel

theorem test_meets_ThrottlesOfBothDies :
    (one.power.pwrgd = true ∧ 49999 < 50000) ∧
    (one.power.pwrgd = true ∧ 51000 ≤ 51000) := by
  refine ⟨?_, ?_⟩
  · decide +kernel
  · decide +kernel

theorem test_meets_TemperaturesThrottleAndTrip :
    ((9 : Int) ∈ [(9 : Int), (7 : Int), (12 : Int)]) ∧
    (one.power.pwrgd = true ∧ ((∃ x ∈ [(115 : Int)] ++ [(20 : Int)], (115 : Int) ≤ x) ∨ ∃ (k : Super), ∃ x ∈ [].getD (↑k :
      Nat) [], (100 : Int) ≤ x)) ∧
    (one.power.pwrgd = true ∧ hottestOf one.dies[(0 : Die)].temp [(99 : Int), (107 : Int)] < (115 : Int) ∧ hottestOf
      one.dies[(1 : Die)].temp [(20 : Int)] < (115 : Int) ∧ (∀ (k : Super), hottestOf one.power.tSup[k] ([].getD (↑k :
      Nat) []) < (100 : Int))) := by
  refine ⟨?_, ?_, ?_⟩
  · decide +kernel
  · decide +kernel
  · decide +kernel

theorem test_meets_LimitIsValidated :
    ((1 : Fn) ≠ (0 : Fn)) ∧
    (reaches one (0 : Fn) Reg.pwrLimit = true) ∧
    (monitorServes one = true) := by
  refine ⟨?_, ?_, ?_⟩
  · decide +kernel
  · decide +kernel
  · decide +kernel

theorem test_meets_EnergyReferencesAndPlls :
    (one.parts[(0 : Part)].live = true ∧ (∀ (k : Comb), inPart one (0 : Part) k = true → one.combs[k].hum.active =
      false)) ∧
    (one.power.frefLost = false ∧ (∀ (k : Comb) (q : LPort), jobsOnPort one.combs[k] q = [])) ∧
    (one.power.prefLost = false) ∧
    (one.power.pwrgd = true ∧ one.evt.modState ≠ (1 : BitVec 2) ∧ (one.boot.kind = BootKind.cold → 5 ≤
      one.boot.stage.toNat)) := by
  refine ⟨?_, ?_, ?_, ?_⟩
  · decide +kernel
  · decide +kernel
  · decide +kernel
  · decide +kernel

theorem test_meets_BootRunsThroughItsStages :
    (State.reset.power.pwrgd = true ∧ State.reset.boot.stage = (0 : BitVec 4) ∧ State.reset.evt.modState ≠ (2 : BitVec 2)
      ∧ State.reset.boot.toRecovery = false) ∧
    (sLoad.boot.stage = (1 : BitVec 4)) ∧
    (sSelf.boot.stage = (4 : BitVec 4) ∧ sSelf.boot.kind ≠ .powerOn ∧
      ∀ k : Super, failedPins sSelf.supers[k] k = [] ∧ sSelf.supers[k].waiting = .replicate 6 []) ∧
    (one.power.pwrgd = true ∧ one.boot.busy = false ∧ one.boot.stage = (5 : BitVec 4)) ∧
    (sSvn.power.pwrgd = true ∧ sSvn.boot.busy = false ∧ sSvn.boot.stage = (5 : BitVec 4) ∧ sSvn.dies[(0 : Die)].svn.toNat
      < sSvn.boot.imgSvn.toNat) ∧
    (sRcv.power.pwrgd = true ∧ sRcv.boot.stage = (6 : BitVec 4) ∧ sRcv.boot.busy = false ∧ sRcv.boot.staging = 0 ∧
      (BitVec.toNat (511 : BitVec 26) < 512 ∨ 33554432 < BitVec.toNat (511 : BitVec 26))) ∧
    (sRcv.power.pwrgd = true ∧ sRcv.boot.stage = (6 : BitVec 4) ∧ sRcv.boot.busy = false ∧ sRcv.boot.staging = 0 ∧ 512 ≤
      BitVec.toNat (512 : BitVec 26) ∧ BitVec.toNat (512 : BitVec 26) ≤ 33554432) ∧
    (sRcvd.power.pwrgd = true ∧ sRcvd.boot.stage = (6 : BitVec 4) ∧ sRcvd.boot.staging ≠ 0 ∧ sRcvd.boot.stageLen ≠
      0) := by
  refine ⟨?_, ?_, ?_, ?_, ?_, ?_, ?_, ?_⟩
  · decide +kernel
  · decide +kernel
  · decide +kernel
  · decide +kernel
  · decide +kernel
  · decide +kernel
  · decide +kernel
  · decide +kernel

end Power

namespace Manage

def sEv : State := { rich with mgmt := { rich.mgmt with events := [⟨1, 2, 3⟩, ⟨4, 5, 6⟩], evLost := 2 } }
def sUpd : State := { rich with boot := { rich.boot with erased := true }
                                mgmt := { rich.mgmt with updMode := true, updOk := true, updGot := 512, updHdr := [0, 0, 0, 0, 0, 4, 0, 0] } }
def sVer : State := { sUpd with mgmt := { sUpd.mgmt with verified := true } }
def sMap : State := { rich with mod := { rich.mod with mapEn := 63 }, ports := rich.ports.map fun p => { p with on := true } }
def sStuck : State := sMap.modRouter 4 fun r => { r with ports := upd r.ports 5 fun q => { q with stuck := true } }
def sHang : State := (rich.modSeq 1 fun q => { q with wdogFrames := 2385 * 64, wdogIssue := 9, queues := q.queues.set 2 [⟨[0x11], 8, ⟨false, 0, false⟩, false, 3⟩] }).modHild 1 fun h =>
  { h with state := 2, cur := some { run := ⟨1, 0, 1, 5, 0, 0, none, none⟩, next := 0 } }
def rec0 : Recovery := { domain := 5, unit := 1, combs := [0, 1], supers := [0], cause1 := 0xFF, frame := 0, smokes := [(⟨0, 0, 3⟩, 0x5000, false)] }
def sRecov : State := (rich.modPart 0 fun q => { q with recov := [rec0], stopped := true }).modSeq 0 fun q => { q with state := 3 }
def rec1 : Recovery := { rec0 with captured := true }
def sRecov1 : State := rich.modPart 0 fun q => { q with recov := [rec1], stopped := true }
def sRst : State := rich.modSuper 2 fun u => { u with resetting := true, state := 2 }
def sEw : State := { (rich.modPart 0 fun q => { q with ew := { q.ew with counts := Vector.replicate 7 100000 } }) with evt := { rich.evt with trig := 0 } }

theorem test_meets_SensorsAndPlatformEvents :
    (monitorServes rich = true ∧ (9 : Byte) ≠ (0 : Byte) ∧ (9 : Byte) ≠ (255 : Byte)) ∧
    (monitorServes rich = true ∧ ((255 : Byte) = (0 : Byte) ∨ (255 : Byte) = (255 : Byte))) ∧
    monitorServes rich = true ∧
    (monitorServes rich = true ∧ 13 < BitVec.toNat (14 : BitVec 16)) ∧
    (monitorServes sEv = true ∧ sEv.mgmt.events = [{ kind := (1 : Byte), cause := (2 : Byte), detail := (3 : BitVec 56) : PlatEvent },
      { kind := (4 : Byte), cause := (5 : Byte), detail := (6 : BitVec 56) : PlatEvent }]) ∧
    (monitorServes rich = true ∧ rich.mgmt.events = []) := by
  refine ⟨?_, ?_, ?_, ?_, ?_, ?_⟩ <;> decide +kernel

theorem test_meets_WatchdogsStopThePartition :
    (partOf sHang (1 : Comb) = some (0 : Part) ∧ sHang.parts[(0 : Part)].recov = [] ∧ combHung sHang (1 : Comb) = true) ∧
    (partOf sHang (1 : Comb) = some (0 : Part) ∧ sHang.parts[(0 : Part)].recov = [] ∧ sHang.supers[(1 : Comb)].powered = true ∧
      sHang.supers[(1 : Comb)].state ≠ (2 : BitVec 2) ∧ sHang.supers[(1 : Comb)].repairing = none ∧ sHang.supers[(1 :
      Comb)].resetting = false) ∧
    (partOf sHang (1 : Comb) = some (0 : Part) ∧ sHang.parts[(0 : Part)].recov = [] ∧ sHang.supers[(1 : Comb)].hild.state = (2 :
      BitVec 2) ∧ sHang.supers[(1 : Comb)].hild.cur.isSome = true) ∧
    (partOf sHang (1 : Comb) = some (0 : Part) ∧ sHang.parts[(0 : Part)].recov = [] ∧ sHang.combs[(1 : Comb)].seq.queues[(2 : Fin
      4)] = [{ block := [(17 : Byte)], movePc := (8 : Word), spec := { pen := false, pred := (0 : PredIx), sense := false : PredF }, held := false, issue := 3 : Transfer }]
      ∧ (decodeXfer { block := [(17 : Byte)], movePc := (8 : Word), spec := { pen := false, pred := (0 : PredIx), sense := false : PredF }, held := false, issue := 3 : Transfer }.block).srcSpace
      ≠ 0) ∧
    (partOf sHang (1 : Comb) = some (0 : Part) ∧ sHang.parts[(0 : Part)].recov = [] ∧ sHang.evt.modState = (0 : BitVec 2) ∧
      sHang.power.latched = false) := by
  refine ⟨?_, ?_, ?_, ?_, ?_⟩ <;> decide +kernel

theorem test_meets_TheI3cTargetAnswers :
    (one.power.pwrgd = true ∧ one.mgmt.i3cDyn = none) ∧
    (rich.power.pwrgd = true ∧ rich.mgmt.i3cDyn.isSome = true) := by
  refine ⟨?_, ?_⟩
  · decide +kernel
  · decide +kernel

theorem test_meets_FirmwareUpdates :
    (rich.power.pwrgd = true ∧ rich.boot.stage = (5 : BitVec 4) ∧ rich.mgmt.updMode = false ∧ rich.boot.busy = false ∧
      rich.boot.staging = 0 ∧ (List.replicate 512 (0 : Byte)).length = 512) ∧
    (sUpd.power.pwrgd = true ∧ sUpd.boot.stage = (5 : BitVec 4) ∧ sUpd.mgmt.updMode = true ∧ [(1 : Byte), (2 : Byte), (0 :
      Byte)] ≠ [] ∧ [(1 : Byte), (2 : Byte), (0 : Byte)].length ≤ 4096 ∧ sUpd.mgmt.updGot = sUpd.mgmt.updGot ∧
      sUpd.mgmt.updGot + [(1 : Byte), (2 : Byte), (0 : Byte)].length ≤ fieldAt sUpd.mgmt.updHdr 4 4 ∧ sUpd.boot.erased =
      true) ∧
    (sVer.power.pwrgd = true ∧ sVer.boot.stage = (5 : BitVec 4) ∧ sVer.mgmt.updMode = true ∧ sVer.mgmt.verified =
      true) := by
  refine ⟨?_, ?_, ?_⟩
  · decide +kernel
  · decide +kernel
  · decide +kernel

theorem test_meets_MonitorCommands :
    (rich.power.pwrgd = true ∧ readyStage rich = true ∧ 1 ≤ 64) ∧
    (rich.power.pwrgd = true ∧ readyStage rich = true ∧ 64 < 256) ∧
    (rich.power.pwrgd = true ∧ readyStage rich = true ∧ 1 ≤ 256 ∧ 256 ≤ 256 ∧ BitVec.toNat (0 : BitVec 40) + 256 ≤ 2 ^
      39) ∧
    (rich.power.pwrgd = true ∧ readyStage rich = true ∧ rich.evt.resetBusy = false ∧ 6 ≤ BitVec.toNat (6 : BitVec
      3)) := by
  refine ⟨?_, ?_, ?_, ?_⟩
  · decide +kernel
  · decide +kernel
  · decide +kernel
  · decide +kernel

theorem test_meets_ResetCommandsOfUnits :
    (regsServed rich = true ∧ rich.evt.resetBusy = false ∧ rich.evt.modState ≠ (2 : BitVec 2) ∧ partOf rich (2 : Comb) =
      none) ∧
    (regsServed rich = true ∧ rich.evt.resetBusy = false ∧ rich.evt.modState ≠ (2 : BitVec 2) ∧ partOf rich (1 : Comb) =
      some (0 : Part) ∧ rich.parts[(0 : Part)].recov = []) ∧
    (regsServed rich = true ∧ rich.evt.resetBusy = false ∧ rich.evt.modState ≠ (2 : BitVec 2) ∧ partOf rich (2 : Super) =
      none ∧ rich.supers[(2 : Super)].powered = true ∧ rich.supers[(2 : Super)].repairing = none) ∧
    (regsServed rich = true ∧ rich.evt.resetBusy = false ∧ rich.evt.modState ≠ (2 : BitVec 2) ∧ partOf rich (1 : Super) =
      some (0 : Part) ∧ rich.parts[(0 : Part)].recov = []) ∧
    (regsServed rich = true ∧ rich.evt.resetBusy = false ∧ rich.evt.modState ≠ (2 : BitVec 2) ∧ 6 ≤ (↑(6 : Fin 8) :
      Nat)) ∧
    (regsServed sMap = true ∧ sMap.evt.resetBusy = false ∧ sMap.evt.modState ≠ (2 : BitVec 2) ∧ (↑(5 : Fin 8) : Nat) < 6 ∧
      portUp sMap (2 : Comb) (5 : Fin 6) = false ∧ sMap.power.frefLost = false ∧ sMap.mod.mapEn.getLsbD (↑(5 : Fin 8) :
      Nat) = true ∧ sMap.ports[physPort sMap (5 : Fin 6)].on = true ∧ sMap.combs[(2 : Comb)].router.ports[(5 : Fin
      6)].stuck = false) ∧
    (regsServed sStuck = true ∧ sStuck.evt.resetBusy = false ∧ sStuck.evt.modState ≠ (2 : BitVec 2) ∧ (↑(5 : Fin 8) : Nat)
      < 6 ∧ portUp sStuck (4 : Comb) (5 : Fin 6) = false ∧ sStuck.combs[(4 : Comb)].router.ports[(5 : Fin 6)].stuck =
      true) ∧
    (regsServed rich = true ∧ rich.evt.resetBusy = false ∧ rich.evt.modState ≠ (2 : BitVec 2) ∧ rich.parts[(0 :
      Part)].live = true ∧ rich.parts[(0 : Part)].recov = []) ∧
    (regsServed rich = true ∧ rich.evt.resetBusy = false ∧ rich.evt.modState ≠ (2 : BitVec 2) ∧ rich.parts[(1 :
      Part)].live = false) := by
  refine ⟨?_, ?_, ?_, ?_, ?_, ?_, ?_, ?_, ?_⟩
  · decide +kernel
  · decide +kernel
  · decide +kernel
  · decide +kernel
  · decide +kernel
  · decide +kernel
  · decide +kernel
  · decide +kernel
  · decide +kernel

theorem test_meets_ModuleResets :
    (regsServed rich = true ∧ rich.evt.resetBusy = false ∧ rich.evt.modState ≠ (2 : BitVec 2)) ∧
    (100000 ≤ 100000 ∧ rich.power.pwrgd = true) ∧
    (1 ≤ 99999 ∧ 99999 < 100000 ∧ rich.power.pwrgd = true ∧ rich.evt.modState = (0 : BitVec 2) ∧ 5 ≤
      rich.boot.stage.toNat) := by
  refine ⟨?_, ?_, ?_⟩
  · decide +kernel
  · decide +kernel
  · decide +kernel

end Manage

namespace Manage2

open Manage

def sHang : State := (rich.modSeq 1 fun q => { q with wdogFrames := 2385 * 64, wdogIssue := 9 })
def rec0 : Recovery := { domain := 5, unit := 1, combs := [0, 1], supers := [0], cause1 := 0xFF, frame := 0, smokes := [(⟨0, 0, 3⟩, 0x5000, false)] }
def sRecov : State := (rich.modPart 0 fun q => { q with recov := [rec0], stopped := true }).modSeq 0 fun q => { q with state := 3 }
def dSmoke : Desc := { idx := 3, bytes := [11], stage := .started }
def sSmoke : State := rich.modRing 0 0 fun g => { g with descs := [dSmoke] }

theorem test_meets_WatchdogsStopThePartitionToo :
    partOf sHang (1 : Comb) = some (0 : Part) ∧ sHang.parts[(0 : Part)].recov = [] ∧ combHung sHang (1 : Comb) = true := by
  decide +kernel

def recoveriesSmokesAndWindowsV0 : Recovery := (Manage.sRecov.parts[(0 : Part)].recov).headD
  { domain := 0, unit := 0, combs := [], supers := [] }

theorem test_meets_RecoveriesSmokesAndWindows :
    (Manage.sRecov.parts[(0 : Part)].recov = [recoveriesSmokesAndWindowsV0] ∧ (∀ k ∈ recoveriesSmokesAndWindowsV0.supers,
      Manage.sRecov.supers[k].repairing = none) ∧ (recoveriesSmokesAndWindowsV0.scope = (0 : BitVec 2) ∨
      recoveriesSmokesAndWindowsV0.combs = [] ∨ Manage.sRecov.parts[(0 : Part)].ckpt = none) ∧
      recoveriesSmokesAndWindowsV0.captured = false ∧ drained' Manage.sRecov (0 : Part) recoveriesSmokesAndWindowsV0 =
      true ∧ recoveriesSmokesAndWindowsV0.teardown = false) ∧
    (sRecov1.parts[(0 : Part)].recov = [rec1] ∧ (∀ k ∈ rec1.supers, sRecov1.supers[k].repairing = none) ∧ (rec1.scope = (0
      : BitVec 2) ∨ rec1.combs = [] ∨ sRecov1.parts[(0 : Part)].ckpt = none) ∧ resetsDone sRecov1 rec1 = true ∧ rec1.scope
      = (0 : BitVec 2) ∧ rec1.teardown = false ∧ rec1.again = [] ∧ sRecov1.parts[(0 : Part)].autoSalv = false ∧
      sRecov1.parts[(0 : Part)].ctx.state ≠ (3 : BitVec 2)) ∧
    ((applyFlips (2 : Super) [] sRst).supers[(2 : Super)].resetting = true ∧ sRst.evt.resetSup ≠ some (2 : Super) ∧
      failedPins (applyFlips (2 : Super) [] sRst).supers[(2 : Super)] (2 : Super) = [] ∧ (applyFlips (2 : Super) []
      sRst).supers[(2 : Super)].repairQ = [] ∧ (applyFlips (2 : Super) [] sRst).supers[(2 : Super)].waiting =
      Vector.replicate 6 []) ∧
    (startedDesc sSmoke (0 : Part) (0 : Sys2Proof.Ring) opSmoke = some dSmoke ∧ dSmoke.field 28 1 % 2 = 0 ∧
      sSmoke.parts[(0 : Part)].recov = []) ∧
    (sEw.parts[(0 : Part)].live = true ∧ sEw.evt.trig = (0 : BitVec 7)) := by
  refine ⟨?_, ?_, ?_, ?_, ?_⟩
  · decide +kernel
  · decide +kernel
  · decide +kernel
  · decide +kernel
  · decide +kernel

end Manage2

namespace Trust

def sReg : State := { rich with dies := rich.dies.set 0 { rich.dies[0] with region := false } }
def sOldSeq : State := { rich with queen := { rich.queen with rxSeq := some 9 } }
def sBusyC : State := { rich with queen := { rich.queen with cmdBusy := true } }
def sCtx : State := rich.modPart 0 fun q => { q with ctx := { q.ctx with state := 2, clearLeft := 7 } }
def sRem : State := { (rich.modPart 0 fun q => { q with removing := true }) with supers := rich.supers.map fun u => { u with slots := .replicate 64 {} } }
def sRet : State := rich.modSuper 1 fun u => { u with slots := (u.slots.set 1 { state := 2, key := 5 }).set 2 { state := 3 }, toScrub := [(1, 0, 4096), (2, 0xE50000000, 0xE50010000)] }

theorem test_meets_TheCrownPasses :
    (queensServe rich = true ∧ rich.evt.resetSup = none ∧ (∀ (p : Part), rich.parts[p].recov = []) ∧ (rich.queen.die = (0
      : Die) ∧ rich.queen.q1 = (1 : BitVec 2) ∨ rich.queen.die = (1 : Die) ∧ rich.queen.q0 = (1 : BitVec 2))) ∧
    (queensServe sOldSeq = true ∧ ((0 : BitVec 64) ≠ crownMac (Sideband.heartbeat (1 : Word) (0 : Die)) (5 : Word) ∨
      seqFresh sOldSeq.queen.rxSeq (5 : Word) = false)) ∧
    (queensServe rich = true ∧ seqFresh rich.queen.rxSeq (5 : Word) = true ∧ rich.queen.epoch < (9 : Word)) := by
  refine ⟨?_, ?_, ?_⟩
  · decide +kernel
  · exact ⟨by decide +kernel, by exact .inr (by decide +kernel)⟩
  · decide +kernel

theorem test_meets_ConfigurationIsGuarded :
    ((rich.dies[targetDie (CfgWrite.fuseSvn (4 : Fin 128))].crownEpoch ≠ (2 : Word) ∨ rich.dies[targetDie
      (CfgWrite.fuseSvn (4 : Fin 128))].crownDie ≠ (0 : Die))) ∧
    (rich.supers[(0 : Super)].slots[(4 : KeyId)].state = (0 : BitVec 2) ∧ (partOf rich (0 : Super)).isSome = true ∧
      rich.supers[(0 : Super)].powered = true) ∧
    ((rich.supers[(0 : Super)].slots[(1 : KeyId)].state ≠ (0 : BitVec 2) ∨ partOf rich (0 : Super) = none)) ∧
    ((↑(4 : Fin 128) : Nat) = rich.boot.imgSvn.toNat ∧ rich.boot.stage = (5 : BitVec 4)) ∧
    (rich.dies[(0 : Die)].region = true ∧ rich.dies[(1 : Die) - (0 : Die)].region = true ∧ rich.evt.resetSup = none ∧ (∀
      (p : Part), rich.parts[p].recov = [])) ∧
    (sReg.dies[(1 : Die)].region = true ∧ sReg.dies[(1 : Die) - (1 : Die)].region = false ∧ sReg.evt.modState = (0 :
      BitVec 2) ∧ (sReg.boot.kind = BootKind.cold → 5 ≤ sReg.boot.stage.toNat)) := by
  refine ⟨?_, ?_, ?_, ?_, ?_, ?_⟩
  · decide +kernel
  · decide +kernel
  · decide +kernel
  · decide +kernel
  · decide +kernel
  · decide +kernel

theorem test_meets_PartitionsComeAndGo :
    (queensServe rich = true ∧ rich.queen.cmdBusy = false ∧ createErr rich (2 : Part) (1 : BitVec 2) = 0) ∧
    (queensServe rich = true ∧ rich.queen.cmdBusy = false ∧ createErr rich (5 : Part) (1 : BitVec 2) ≠ 0) ∧
    (queensServe sBusyC = true ∧ sBusyC.queen.cmdBusy = true) ∧
    (queensServe rich = true ∧ rich.queen.cmdBusy = false ∧ rich.parts[(0 : Part)].live = true ∧ rich.parts[(0 :
      Part)].ctx.state = (0 : BitVec 2)) ∧
    (queensServe sCtx = true ∧ sCtx.queen.cmdBusy = false ∧ sCtx.parts[(0 : Part)].live = true ∧ sCtx.parts[(0 :
      Part)].ctx.state = (2 : BitVec 2) ∧ sCtx.parts[(0 : Part)].recov = []) ∧
    (queensServe sRem = true ∧ sRem.parts[(0 : Part)].removing = true ∧ sRem.parts[(0 : Part)].ctx.state = (0 : BitVec 2)
      ∧ tearingDown sRem (0 : Part) = false ∧ slotsEmpty sRem (0 : Part) = true) := by
  refine ⟨?_, ?_, ?_, ?_, ?_, ?_⟩
  · decide +kernel
  · decide +kernel
  · decide +kernel
  · decide +kernel
  · decide +kernel
  · decide +kernel

theorem test_meets_ContextsEndAndKeysRetire :
    (queensServe rich = true ∧ rich.queen.cmdBusy = false ∧ rich.parts[(0 : Part)].live = true ∧ rich.parts[(0 :
      Part)].ctx.state = (0 : BitVec 2)) ∧
    (queensServe sCtx = true ∧ sCtx.queen.cmdBusy = false ∧ sCtx.parts[(0 : Part)].live = true ∧ (sCtx.parts[(0 :
      Part)].ctx.state = (1 : BitVec 2) ∨ sCtx.parts[(0 : Part)].ctx.state = (2 : BitVec 2)) ∧ sCtx.parts[(0 :
      Part)].recov = []) ∧
    (sRet.supers[(1 : Super)].slots[(1 : KeyId)].state = (2 : BitVec 2)) ∧
    (sRet.supers[(1 : Super)].slots[(2 : KeyId)].state = (3 : BitVec 2) ∧ sRet.supers[(1 : Super)].resetting = false ∧
      sRet.supers[(1 : Super)].powered = true) := by
  refine ⟨?_, ?_, ?_, ?_⟩
  · decide +kernel
  · decide +kernel
  · decide +kernel
  · decide +kernel

theorem test_meets_BindingKeysAndDebug :
    (queensServe rich = true ∧ rich.parts[(4 : Part)].live = true) ∧
    (queensServe rich = true ∧ rich.parts[(5 : Part)].live = false) := by
  refine ⟨?_, ?_⟩
  · decide +kernel
  · decide +kernel

end Trust

namespace HostSide

def sWin : State := { rich with mod := { rich.mod with winBase := 192 } }
def sRecM : State := { rich with boot := { stage := 6 } }
def sPoll : State := rich.modRing 0 2 fun g => { g with polled := true, fetching := 4 }
def tr0 : Transfer := ⟨[0x10], 8, ⟨false, 0, false⟩, false, 3⟩
def sTr : State := rich.modSeq 1 fun q => { q with queues := q.queues.set 2 [tr0] }
def sSec : State := { rich with mgmt := { rich.mgmt with spdmDoe := true }
                                fns := (rich.fns.set 1 { rich.fns[1] with secure := true, keySets := 2 }).set 5 { rich.fns[5] with tdi := 1, secure := true } }
def sPer : State := { rich with mod := { rich.mod with perstN := true, linkUp := false } }

theorem test_meets_WindowAccesses :
    rich.fns[(0 : Fn)].memSpace = true ∧
    (sWin.fns[(0 : Fn)].memSpace = true ∧ sWin.boot.stage = (5 : BitVec 4) ∧ 1 ≤ 96 ∧ BitVec.toNat (4000 : BitVec 30) % 4096 + 96
      ≤ 4096 ∧ superServes sWin.supers[winSuper (winAddrOf sWin (BitVec.toNat (4000 : BitVec 30)))] (winOff (winAddrOf sWin
      (BitVec.toNat (4000 : BitVec 30)))) = true ∧ (∀ i, i < 96 → winRefused sWin (winAddrOf sWin 4000 + i) = false)) ∧
    (rich.fns[(0 : Fn)].memSpace = true ∧ rich.boot.stage = (5 : BitVec 4) ∧ BitVec.toNat (0 : BitVec 30) % 4096 + 8 ≤ 4096 ∧ 3 <
      8 ∧ winRefused rich (winAddrOf rich (BitVec.toNat (0 : BitVec 30)) + 3) = true) ∧
    (sRecM.fns[(0 : Fn)].memSpace = true ∧ sRecM.boot.stage = (6 : BitVec 4) ∧ 1 ≤ 4096 ∧ BitVec.toNat (0 : BitVec 30) % 4096 +
      4096 ≤ 4096) ∧
    (rich.fns[(0 : Fn)].memSpace = true ∧ rich.boot.stage = (5 : BitVec 4)) ∧
    (sRecM.fns[(0 : Fn)].memSpace = true ∧ sRecM.boot.stage = (6 : BitVec 4) ∧ sRecM.boot.busy = false ∧ sRecM.boot.staging = 0 ∧
      BitVec.toNat (33554430 : BitVec 30) + [(1 : Byte), (2 : Byte)].length ≤ 33554432) := by
  refine ⟨?_, ?_, ?_, ?_, ?_, ?_⟩ <;> decide +kernel

theorem test_meets_InterfaceSecurity :
    (sSec.fns[(1 : Fn)].secure = true ∧ ∀ p : Part, partOfFn (1 : Fn) = some p → sSec.parts[p].ckpt ≠ none →
      ∀ k ∈ combsOf sSec p, sSec.supers[k].hild.state ≠ (1 : BitVec 2)) ∧
    sSec.fns[(5 : Fn)].secure = true ∧
    sSec.mgmt.spdmDoe = true ∧
    (sSec.mgmt.spdmDoe = true ∧ sSec.fns[(1 : Fn)].keySets.getLsbD (↑(1 : Fin 2) : Nat) = true) ∧
    (sSec.fns[fnOf (0 : Part)].tdi = (0 : BitVec 2) ∧ sSec.parts[(0 : Part)].live = true ∧ sSec.fns[fnOf (0 : Part)].secure =
      true) ∧
    (sSec.parts[(1 : Part)].live = false ∨ sSec.fns[fnOf (1 : Part)].secure = false) ∧
    sSec.fns[fnOf (4 : Part)].tdi = (1 : BitVec 2) ∧
    (sSec.fns[fnOf (4 : Part)].tdi = (1 : BitVec 2) ∨ sSec.fns[fnOf (4 : Part)].tdi = (2 : BitVec 2)) := by
  refine ⟨?_, ?_, ?_, ?_, ?_, ?_, ?_, ?_⟩ <;> decide +kernel

def failedHostReadsV0 : RunDesc := (sTr.combs[(1 : Comb)].seq.running).getD ⟨0, 0, 0⟩

theorem test_meets_FailedHostReads :
    (sPoll.parts[(0 : Part)].rings[(2 : Sys2Proof.Ring)].polled = true ∧ hostIssued sPoll (fnOf (0 : Part))
      (HostReadKind.word (PollSrc.ring (0 : Part) (2 : Sys2Proof.Ring))) = true) ∧
    (sPoll.parts[(0 : Part)].rings[(2 : Sys2Proof.Ring)].fetching ≠ 0 ∧ hostIssued sPoll (fnOf (0 : Part))
      (HostReadKind.descriptor (0 : Part) (2 : Sys2Proof.Ring)) = true) ∧
    (partOf sTr (1 : Comb) = some (0 : Part) ∧ sTr.parts[(0 : Part)].recov = [] ∧ sTr.combs[(1 : Comb)].seq.queues[(2 :
      Fin 4)] = tr0 :: sTr.combs[(1 : Comb)].seq.queues[(2 : Fin 4)].tail ∧ (decodeXfer tr0.block).srcSpace = 0 ∧
      sTr.combs[(1 : Comb)].seq.running = some failedHostReadsV0) := by
  refine ⟨?_, ?_, ?_⟩
  · decide +kernel
  · decide +kernel
  · decide +kernel

theorem test_meets_FunctionResets :
    (fnPresent rich (fnOf (0 : Part)) = true ∧ rich.parts[(0 : Part)].live = true ∧ rich.parts[(0 : Part)].recov = []) ∧
    (rich.mod.vfEnable = true) ∧
    ((Instr.hotReset = Instr.hotReset ∨ Instr.hotReset = Instr.hostLinkDown ∨ Instr.hotReset = Instr.perstNAssert) ∧
      rich.mod.linkUp = true) := by
  refine ⟨?_, ?_, ?_⟩
  · decide +kernel
  · decide +kernel
  · decide +kernel

theorem test_meets_HostLinkAndSessions :
    (sPer.mod.perstN = true ∧ sPer.power.pwrgd = true ∧ sPer.power.prefLost = false ∧ sPer.mod.linkUp = false ∧ 640 ∈
      linkRates ∧ 8 ∈ linkWidths) ∧
    (rich.boot.stage = (5 : BitVec 4) ∧ rich.mgmt.doeError = false) := by
  refine ⟨?_, ?_⟩
  · decide +kernel
  · decide +kernel

end HostSide

namespace Rings

def sStopR : State := rich.modRing 0 5 fun g => { g with state := 3, descs := [{ idx := 4, bytes := desc 5 [] }] }
def dS : Desc := { idx := 3, bytes := desc 5 [], stage := .active }
def sEq : State := rich.modPart 0 fun q => { q with evq := { q.evq with enable := true, polled := true, written := 7 } }
def g0 : RingState := { state := 1, enable := true, consumed := 3, written := 2, polled := true, dbAddr := 0x100, headAddr := 0x200, epoch := 1 }
def sG : State := { rich.modRing 0 0 fun _ => g0 with combs := rich.combs.map fun c => { c with hum := { c.hum with time := 2 ^ 19 * 128 } } }
def gp0 : RingState := { g0 with polled := false }
def sGp : State := { rich.modRing 0 0 fun _ => gp0 with combs := sG.combs }
def g1 : RingState := { g0 with fetching := 2, descs := [dS] }
def sG1 : State := rich.modRing 0 0 fun _ => g1
def dNop : Desc := { idx := 3, bytes := desc 6 [] }
def descriptorsStartAndCompleteS1 : State := withDesc dNop
def dSkip : Desc := { idx := 3, bytes := desc 6 [(2, 1, 0xC3), (3, 1, 1)] }
def descriptorsStartAndCompleteS2 : State := withDesc dSkip
def dBad : Desc := { idx := 3, bytes := desc 6 [(20, 1, 1)] }
def descriptorsStartAndCompleteS3 : State := withDesc dBad
def sPend : State := (withDesc dSkip).modSeq 0 fun q => { q with preds := q.preds.set 3 .pending }
def dDone : Desc := { idx := 3, bytes := desc 6 [(10, 2, 0x8009)], stage := .done, status := stOK, detail := 4 }
def descriptorsStartAndCompleteS4 : State := withDesc dDone
def dSync (m v : Nat) : Desc := { idx := 3, bytes := desc 5 [(16, 2, 9), (18, 1, m), (24, 8, v)], stage := .started }
def syncDescriptorsS6 : State := withDesc (dSync 2 5)
def syncDescriptorsS7 : State := withDesc (dSync 3 (2^64-1))
def syncDescriptorsS8 : State := withDesc (dSync 0 100)
def syncDescriptorsS9 : State := withDesc (dSync 0 101)
def syncDescriptorsS10 : State := withDesc (dSync 1 100)
def man1 : Manifest := ⟨3, [1], [], [], [⟨1, 0, 0⟩], [], 1, 0, 100, 0, 0, 0, 0⟩
def dComp : Desc := { idx := 3, bytes := desc 1 [(3, 1, 3), (16, 8, 0x1000), (24, 4, 64)], stage := .started }
def sComp : State := (withDesc dComp).modPart 0 fun q => { q with ctx := { q.ctx with state := 2, man := some man1 } }
def dUpd : Desc := { idx := 3, bytes := desc 4 [(3, 1, 3), (16, 2, 5), (18, 2, 2)], stage := .started }
def computeUpdateAndFenceS11 : State := withDesc dUpd
def dFence : Desc := { idx := 3, bytes := desc 6 [(16, 1, 0)], stage := .started }
def computeUpdateAndFenceS12 : State := withDesc dFence
def sFenceWait : State := rich.modRing 0 0 fun g => { g with descs := [{ idx := 2, bytes := desc 5 [], stage := .active }, dFence] }

theorem test_meets_SyncDescriptors :
    (startedDesc syncDescriptorsS6 (0 : Part) (0 : Sys2Proof.Ring) opSync = some (dSync 2 5) ∧ (dSync 2 5).field 18 1 % 4 = 2) ∧
    (startedDesc syncDescriptorsS7 (0 : Part) (0 : Sys2Proof.Ring) opSync = some (dSync 3 (2 ^ 64 - 1)) ∧ (dSync 3 (2 ^ 64 -
      1)).field 18 1 % 4 = 3) ∧
    (startedDesc syncDescriptorsS8 (0 : Part) (0 : Sys2Proof.Ring) opSync = some (dSync 0 100) ∧ (dSync 0 100).field 18 1 % 4 = 0
      ∧ (dSync 0 100).value ≤ semVal syncDescriptorsS8 (0 : Part) (dSync 0 100).sem) ∧
    (startedDesc syncDescriptorsS9 (0 : Part) (0 : Sys2Proof.Ring) opSync = some (dSync 0 101) ∧ (dSync 0 101).field 18 1 % 4 = 0
      ∧ semVal syncDescriptorsS9 (0 : Part) (dSync 0 101).sem < (dSync 0 101).value ∧ syncDescriptorsS9.parts[(0 : Part)].rings[(0 :
      Sys2Proof.Ring)].state = (1 : BitVec 2)) ∧
    (startedDesc syncDescriptorsS10 (0 : Part) (0 : Sys2Proof.Ring) opSync = some (dSync 1 100) ∧ (dSync 1 100).field 18 1 % 4 = 1
      ∧ semVal syncDescriptorsS10 (0 : Part) (dSync 1 100).sem = (dSync 1 100).value) := by
  refine ⟨?_, ?_, ?_, ?_, ?_⟩ <;> decide +kernel

theorem test_meets_RingsEnableAndDisable :
    (rich.boot.stage = (5 : BitVec 4) ∧ rich.parts[(0 : Part)].live = true ∧ BitVec.getLsbD (1295 : Word) 0 = true ∧
      rich.parts[(0 : Part)].rings[(5 : Sys2Proof.Ring)].enable = false ∧ rich.parts[(0 : Part)].rings[(5 :
      Sys2Proof.Ring)].state = (0 : BitVec 2) ∧ keepsStopped rich (0 : Part) (5 : Sys2Proof.Ring) = false) ∧
    (sStopR.boot.stage = (5 : BitVec 4) ∧ sStopR.parts[(0 : Part)].live = true ∧ BitVec.getLsbD (1295 : Word) 0 = true ∧
      sStopR.parts[(0 : Part)].rings[(5 : Sys2Proof.Ring)].enable = false ∧ sStopR.parts[(0 : Part)].rings[(5 :
      Sys2Proof.Ring)].state ≠ (0 : BitVec 2)) ∧
    (rich.boot.stage = (5 : BitVec 4) ∧ rich.parts[(0 : Part)].live = true ∧ BitVec.getLsbD (16 : Word) 0 = false ∧
      rich.parts[(0 : Part)].rings[(0 : Sys2Proof.Ring)].enable = true) ∧
    (rich.boot.stage = (5 : BitVec 4) ∧ BitVec.getLsbD (1295 : Word) 0 = true ∧ rich.mod.evq.enable = false) ∧
    (sEq.boot.stage = (5 : BitVec 4) ∧ BitVec.getLsbD (16 : Word) 0 = false ∧ sEq.parts[(0 : Part)].live = true ∧
      sEq.parts[(0 : Part)].evq.enable = true) := by
  refine ⟨?_, ?_, ?_, ?_, ?_⟩
  · decide +kernel
  · decide +kernel
  · decide +kernel
  · decide +kernel
  · decide +kernel

theorem test_meets_PollsAndFetches :
    (sGp.parts[(0 : Part)].rings[(0 : Sys2Proof.Ring)] = sGp.parts[(0 : Part)].rings[(0 : Sys2Proof.Ring)] ∧ sGp.parts[(0
      : Part)].live = true ∧ frameOf sGp (0 : Part) % 64 = 0 ∧ slotOf sGp (0 : Part) = 0 ∧ (∀ (k : Comb),
      sGp.combs[k].hum.active = false) ∧ sGp.parts[(0 : Part)].rings[(0 : Sys2Proof.Ring)].enable = true ∧ sGp.parts[(0 :
      Part)].rings[(0 : Sys2Proof.Ring)].state = (1 : BitVec 2) ∧ sGp.parts[(0 : Part)].rings[(0 : Sys2Proof.Ring)].polled
      = false ∧ canRequest sGp (fnOf (0 : Part)) = true) ∧
    (sG.parts[(0 : Part)].rings[(0 : Sys2Proof.Ring)] = sG.parts[(0 : Part)].rings[(0 : Sys2Proof.Ring)] ∧ hostIssued sG
      (fnOf (0 : Part)) (HostReadKind.word (PollSrc.ring (0 : Part) (0 : Sys2Proof.Ring))) = true ∧ sG.parts[(0 :
      Part)].rings[(0 : Sys2Proof.Ring)].polled = true ∧ sG.parts[(0 : Part)].rings[(0 : Sys2Proof.Ring)].enable = true ∧
      (sG.parts[(0 : Part)].rings[(0 : Sys2Proof.Ring)].state = (1 : BitVec 2) ∨ sG.parts[(0 : Part)].rings[(0 :
      Sys2Proof.Ring)].state = (2 : BitVec 2)) ∧ sG.parts[(0 : Part)].rings[(0 : Sys2Proof.Ring)].dbFault
      { count := (200 : Word), epoch := (1 : Word) : DbWord } = true) ∧
    (sG.parts[(0 : Part)].rings[(0 : Sys2Proof.Ring)] = sG.parts[(0 : Part)].rings[(0 : Sys2Proof.Ring)] ∧ hostIssued sG
      (fnOf (0 : Part)) (HostReadKind.word (PollSrc.ring (0 : Part) (0 : Sys2Proof.Ring))) = true ∧ sG.parts[(0 :
      Part)].rings[(0 : Sys2Proof.Ring)].polled = true ∧ sG.parts[(0 : Part)].rings[(0 : Sys2Proof.Ring)].enable = true ∧
      (sG.parts[(0 : Part)].rings[(0 : Sys2Proof.Ring)].state = (1 : BitVec 2) ∨ sG.parts[(0 : Part)].rings[(0 :
      Sys2Proof.Ring)].state = (2 : BitVec 2)) ∧ sG.parts[(0 : Part)].rings[(0 : Sys2Proof.Ring)].dbFault
      { count := (40 : Word), epoch := (1 : Word) : DbWord } = false ∧ sG.parts[(0 : Part)].rings[(0 :
      Sys2Proof.Ring)].fetching = 0 ∧ { count := (40 : Word), epoch := (1 : Word) : DbWord }.epoch = sG.parts[(0 :
      Part)].rings[(0 : Sys2Proof.Ring)].epoch ∧ { count := (2 : Word), epoch := (1 : Word) : DbWord }.epoch = sG.parts[(0
      : Part)].rings[(0 : Sys2Proof.Ring)].epoch ∧ BitVec.toNat
      ({ count := (2 : Word), epoch := (1 : Word) : DbWord }.count - sG.parts[(0 : Part)].rings[(0 :
      Sys2Proof.Ring)].head) ≤ BitVec.toNat (sG.parts[(0 : Part)].rings[(0 : Sys2Proof.Ring)].written - sG.parts[(0 :
      Part)].rings[(0 : Sys2Proof.Ring)].head)) ∧
    (sG.parts[(0 : Part)].rings[(0 : Sys2Proof.Ring)] = sG.parts[(0 : Part)].rings[(0 : Sys2Proof.Ring)] ∧ hostIssued sG
      (fnOf (0 : Part)) (HostReadKind.word (PollSrc.ring (0 : Part) (0 : Sys2Proof.Ring))) = true ∧ sG.parts[(0 :
      Part)].rings[(0 : Sys2Proof.Ring)].polled = true ∧ sG.parts[(0 : Part)].rings[(0 : Sys2Proof.Ring)].enable = true ∧
      (sG.parts[(0 : Part)].rings[(0 : Sys2Proof.Ring)].state = (1 : BitVec 2) ∨ sG.parts[(0 : Part)].rings[(0 :
      Sys2Proof.Ring)].state = (2 : BitVec 2)) ∧ sG.parts[(0 : Part)].rings[(0 : Sys2Proof.Ring)].fetching = 0 ∧
      { count := (66 : Word), epoch := (2 : Word) : DbWord }.epoch ≠ sG.parts[(0 : Part)].rings[(0 :
      Sys2Proof.Ring)].epoch ∧ { count := (0 : Word), epoch := (1 : Word) : DbWord }.epoch = sG.parts[(0 : Part)].rings[(0
      : Sys2Proof.Ring)].epoch ∧ { count := (0 : Word), epoch := (1 : Word) : DbWord }.count = sG.parts[(0 :
      Part)].rings[(0 : Sys2Proof.Ring)].head) ∧
    (sG1.parts[(0 : Part)].rings[(0 : Sys2Proof.Ring)] = sG1.parts[(0 : Part)].rings[(0 : Sys2Proof.Ring)] ∧ hostIssued
      sG1 (fnOf (0 : Part)) (HostReadKind.descriptor (0 : Part) (0 : Sys2Proof.Ring)) = true ∧ sG1.parts[(0 :
      Part)].rings[(0 : Sys2Proof.Ring)].fetching ≠ 0 ∧ [desc 5 [], desc 6 []].length = sG1.parts[(0 : Part)].rings[(0 :
      Sys2Proof.Ring)].fetching ∧ (∀ b ∈ [desc 5 [], desc 6 []], List.length b = 64)) := by
  refine ⟨?_, ?_, ?_, ?_, ?_⟩
  · decide +kernel
  · decide +kernel
  · decide +kernel
  · decide +kernel
  · decide +kernel

def descriptorsStartAndCompleteV0 : Byte × Word × BitVec 56 := ((startBad descriptorsStartAndCompleteS3 (0 : Part)
  dBad)).getD (0, 0, 0)

theorem test_meets_DescriptorsStartAndComplete :
    (nextToStart descriptorsStartAndCompleteS1.parts[(0 : Part)].rings[(0 : Sys2Proof.Ring)] = some dNop ∧ startBad
      descriptorsStartAndCompleteS1 (0 : Part) dNop = none ∧ descPred descriptorsStartAndCompleteS1 (0 : Part) dNop = some
      true) ∧
    (nextToStart descriptorsStartAndCompleteS2.parts[(0 : Part)].rings[(0 : Sys2Proof.Ring)] = some dSkip ∧ startBad
      descriptorsStartAndCompleteS2 (0 : Part) dSkip = none ∧ descPred descriptorsStartAndCompleteS2 (0 : Part) dSkip =
      some false) ∧
    (nextToStart descriptorsStartAndCompleteS3.parts[(0 : Part)].rings[(0 : Sys2Proof.Ring)] = some dBad ∧ startBad
      descriptorsStartAndCompleteS3 (0 : Part) dBad = some (descriptorsStartAndCompleteV0.1,
      descriptorsStartAndCompleteV0.2.1, (0 : BitVec 56))) ∧
    (nextToStart sPend.parts[(0 : Part)].rings[(0 : Sys2Proof.Ring)] = some dSkip ∧ startBad sPend (0 : Part) dSkip = none
      ∧ descPred sPend (0 : Part) dSkip = none) ∧
    (findDesc descriptorsStartAndCompleteS4.parts[(0 : Part)].rings[(0 : Sys2Proof.Ring)] (3 : Word) = some dDone ∧
      dDone.stage = DStage.done) ∧
    (findDesc descriptorsStartAndCompleteS1.parts[(0 : Part)].rings[(0 : Sys2Proof.Ring)] (3 : Word) = some dNop ∧
      dNop.stage ≠ DStage.done) := by
  refine ⟨?_, ?_, ?_, ?_, ?_, ?_⟩
  · decide +kernel
  · decide +kernel
  · decide +kernel
  · decide +kernel
  · decide +kernel
  · decide +kernel

theorem test_meets_ComputeUpdateAndFence :
    (startedDesc sComp (0 : Part) (0 : Sys2Proof.Ring) opCompute = some dComp ∧ sComp.parts[(0 : Part)].ctx.man = some
      man1 ∧ man1.owners.length = 1 ∧ (∀ k ∈ combsMask sComp (0 : Part) dComp.combMask, sComp.combs[k].seq.running.isSome
      = true)) ∧
    (List.find? (fun (e : Desc) => !(canSend computeUpdateAndFenceS11 (0 : Part) e).isEmpty)
      computeUpdateAndFenceS11.parts[(0 : Part)].rings[(0 : Sys2Proof.Ring)].descs = some dUpd) ∧
    (List.find? (fun (e : Desc) => e.isFence && fenceDone computeUpdateAndFenceS12 (0 : Part) (0 : Sys2Proof.Ring) e)
      computeUpdateAndFenceS12.parts[(0 : Part)].rings[(0 : Sys2Proof.Ring)].descs = some dFence) ∧
    (List.find? (fun (e : Desc) => e.isFence && fenceDone sFenceWait (0 : Part) (0 : Sys2Proof.Ring) e)
      sFenceWait.parts[(0 : Part)].rings[(0 : Sys2Proof.Ring)].descs = none ∧ startedDesc sFenceWait (0 : Part) (0 :
      Sys2Proof.Ring) opFence = some dFence) := by
  refine ⟨?_, ?_, ?_, ?_⟩
  · decide +kernel
  · decide +kernel
  · decide +kernel
  · decide +kernel

end Rings

namespace Moves

def dCopy (ss ds src dst n : Nat) : Desc := { idx := 3, bytes := desc 2 [(3, 1, 1), (16, 8, src), (24, 8, dst), (32, 4, n), (36, 1, ss), (37, 1, ds)], stage := .started }
def cA := dCopy 1 2 0 0x200 64
def copiesMoveDataS1 : State := withDesc cA
def cC := dCopy 2 1 64 0x1000 3
def copiesMoveDataS3 : State := withDesc cC
def man1 : Manifest := ⟨3, [1], [5], [], [⟨1, 0, 3⟩, ⟨2, 0, 1⟩], [], 1, 0, 100, 0, 0, 0, 0⟩
def ctx (s : State) : State := { s.modPart 0 fun q => { q with ctx := { q.ctx with state := 2, man := some man1, clearLeft := 100, ckptKey := some 4 } } with
  fns := s.fns.set 1 { s.fns[1] with secure := true } }
def cD := dCopy 0 2 0 0x200 3
def copiesMoveDataS4 : State := ctx (withDesc cD)
def cE := dCopy 0 1 0 0x200 3
def copiesMoveDataS5 : State := ctx (withDesc cE)
def man2 : Manifest := { man1 with keys := [⟨1, 0, 1⟩] }
def copiesMoveDataS6 : State := copiesMoveDataS5.modPart 0 fun q => { q with ctx := { q.ctx with man := some man2 } }
def dEg (cls rc n : Nat) : Desc := { idx := 3, bytes := desc 10 [(8, 1, cls), (9, 1, rc), (16, 8, 0), (24, 8, 0x9000), (32, 4, n)], stage := .started }
def egressIsCheckedAndCountedS6 : State := withDesc (dEg 1 0 64)
def egressIsCheckedAndCountedS8 : State := ctx (withDesc (dEg 1 0 64))
def flow1 : Flow := ⟨false, false, 1, 1, 0, 0, 0, 0, 0, 0, 0, 0, 3, 4, 8, 0, false, 0, true, 4, 0, 0, 0⟩
def tt1 : Timetable := ⟨3, 0, 5, 0, [flow1]⟩
def ttS (s : State) : State := (s.modPart 0 fun q => { q with tt := some tt1 }).modComb 1 fun c => { c with
  hum := { c.hum with active := true, beat := 7 }, router := { c.router with flows := [{ index := 0, tx := true }, { index := 0, tx := false }] } }
def dFab (b : Nat) : Desc := { idx := 3, bytes := desc 3 [(3, 1, 2), (16, 2, 0), (20, 4, 2), (24, 8, 0), (32, 8, 0x400), (40, 6, b)], stage := .started }
def fabricAndTimetablesS11 : State := ttS (withDesc (dFab 7))
def fabricAndTimetablesS12 : State := ttS (withDesc (dFab 8))
def dTt : Desc := { idx := 3, bytes := desc 7 [(16, 8, 0), (24, 4, 128)], stage := .started }
def fabricAndTimetablesS13 : State := withDesc dTt

def copiesMoveDataV0 : Desc := ((startedDesc copiesMoveDataS1 (0 : Part) (0 : Sys2Proof.Ring) opCopy)).getD noDesc
def copiesMoveDataV1 : Desc := ((startedDesc copiesMoveDataS3 (0 : Part) (0 : Sys2Proof.Ring) opCopy)).getD noDesc
def copiesMoveDataV2 : Desc := ((startedDesc copiesMoveDataS4 (0 : Part) (0 : Sys2Proof.Ring) opCopy)).getD noDesc
def copiesMoveDataV3 : Desc := ((startedDesc copiesMoveDataS5 (0 : Part) (0 : Sys2Proof.Ring) opCopy)).getD noDesc
def copiesMoveDataV4 : Desc := ((startedDesc copiesMoveDataS6 (0 : Part) (0 : Sys2Proof.Ring) opCopy)).getD noDesc

theorem test_meets_CopiesMoveData :
    (startedDesc copiesMoveDataS1 (0 : Part) (0 : Sys2Proof.Ring) opCopy = some copiesMoveDataV0 ∧ (copiesMoveDataV0.field
      37 1 % 4 = 1 → ppaServes copiesMoveDataS1 (serving copiesMoveDataS1 (0 : Part) (0 : Sys2Proof.Ring)) (0 : Part)
      (copiesMoveDataV0.field 24 8) (copiesMoveDataV0.field 32 4) = true) ∧ copiesMoveDataV0.field 37 1 % 4 = 2 ∧
      (copiesMoveDataV0.field 36 1 % 4 = 1 ∧ ppaServes copiesMoveDataS1 (serving copiesMoveDataS1 (0 : Part) (0 :
      Sys2Proof.Ring)) (0 : Part) (copiesMoveDataV0.field 16 8) (copiesMoveDataV0.field 32 4) = true ∧ ppaFetch (0 : Part)
      (copiesMoveDataV0.field 16 8) (copiesMoveDataV0.field 32 4) copiesMoveDataS1 = ((ppaFetch (0 : Part) 0 64
      copiesMoveDataS1).1, (ppaFetch (0 : Part) 0 64 copiesMoveDataS1).2.1, none) ∧ startedDesc (ppaFetch (0 : Part) 0 64
      copiesMoveDataS1).1 (0 : Part) (0 : Sys2Proof.Ring) opCopy = some copiesMoveDataV0 ∨ copiesMoveDataV0.field 36 1 % 4
      = 2 ∧ (ppaFetch (0 : Part) 0 64 copiesMoveDataS1).2.1 = combRead copiesMoveDataS1 (firstComb copiesMoveDataS1 (0 :
      Part) copiesMoveDataV0) (copiesMoveDataV0.field 16 8) (copiesMoveDataV0.field 32 4) ∧ (ppaFetch (0 : Part) 0 64
      copiesMoveDataS1).1 = copiesMoveDataS1)) ∧
    (startedDesc copiesMoveDataS3 (0 : Part) (0 : Sys2Proof.Ring) opCopy = some copiesMoveDataV1 ∧ (copiesMoveDataV1.field
      37 1 % 4 = 1 → ppaServes copiesMoveDataS3 (serving copiesMoveDataS3 (0 : Part) (0 : Sys2Proof.Ring)) (0 : Part)
      (copiesMoveDataV1.field 24 8) (copiesMoveDataV1.field 32 4) = true) ∧ copiesMoveDataV1.field 37 1 % 4 = 1 ∧
      (copiesMoveDataV1.field 36 1 % 4 = 1 ∧ ppaServes copiesMoveDataS3 (serving copiesMoveDataS3 (0 : Part) (0 :
      Sys2Proof.Ring)) (0 : Part) (copiesMoveDataV1.field 16 8) (copiesMoveDataV1.field 32 4) = true ∧ ppaFetch (0 : Part)
      (copiesMoveDataV1.field 16 8) (copiesMoveDataV1.field 32 4) copiesMoveDataS3 = (copiesMoveDataS3, [(1 : Byte), (0 :
      Byte), (0 : Byte)], none) ∧ startedDesc copiesMoveDataS3 (0 : Part) (0 : Sys2Proof.Ring) opCopy = some
      copiesMoveDataV1 ∨ copiesMoveDataV1.field 36 1 % 4 = 2 ∧ [(1 : Byte), (0 : Byte), (0 : Byte)] = combRead
      copiesMoveDataS3 (firstComb copiesMoveDataS3 (0 : Part) copiesMoveDataV1) (copiesMoveDataV1.field 16 8)
      (copiesMoveDataV1.field 32 4) ∧ copiesMoveDataS3 = copiesMoveDataS3) ∧ (ppaWrite (0 : Part) (copiesMoveDataV1.field
      24 8) [(1 : Byte), (0 : Byte), (0 : Byte)] copiesMoveDataS3).2 = none) ∧
    (startedDesc copiesMoveDataS4 (0 : Part) (0 : Sys2Proof.Ring) opCopy = some copiesMoveDataV2 ∧ (copiesMoveDataV2.field
      37 1 % 4 = 1 → ppaServes copiesMoveDataS4 (serving copiesMoveDataS4 (0 : Part) (0 : Sys2Proof.Ring)) (0 : Part)
      (copiesMoveDataV2.field 24 8) (copiesMoveDataV2.field 32 4) = true) ∧ copiesMoveDataV2.field 36 1 % 4 = 0 ∧ [(1 :
      Byte), (2 : Byte), (3 : Byte)].length = copiesMoveDataV2.field 32 4 ∧ hostOpen copiesMoveDataS4 (fnOf (0 : Part)) =
      true ∧ hostRefused (hostFetch (fnOf (0 : Part)) [(copiesMoveDataV2.field 16 8, copiesMoveDataV2.field 32 4)]
      copiesMoveDataS4) (0 : Part) (copiesMoveDataV2.field 37 1 % 4) (copiesMoveDataV2.field 24 8) (copiesMoveDataV2.field
      32 4) = true) ∧
    (startedDesc copiesMoveDataS5 (0 : Part) (0 : Sys2Proof.Ring) opCopy = some copiesMoveDataV3 ∧ (copiesMoveDataV3.field
      37 1 % 4 = 1 → ppaServes copiesMoveDataS5 (serving copiesMoveDataS5 (0 : Part) (0 : Sys2Proof.Ring)) (0 : Part)
      (copiesMoveDataV3.field 24 8) (copiesMoveDataV3.field 32 4) = true) ∧ copiesMoveDataV3.field 36 1 % 4 = 0 ∧ [(1 :
      Byte), (2 : Byte), (3 : Byte)].length = copiesMoveDataV3.field 32 4 ∧ hostOpen copiesMoveDataS5 (fnOf (0 : Part)) =
      true ∧ hostRefused (hostFetch (fnOf (0 : Part)) [(copiesMoveDataV3.field 16 8, copiesMoveDataV3.field 32 4)]
      copiesMoveDataS5) (0 : Part) (copiesMoveDataV3.field 37 1 % 4) (copiesMoveDataV3.field 24 8) (copiesMoveDataV3.field
      32 4) = false ∧ ingestKind (hostFetch (fnOf (0 : Part)) [(copiesMoveDataV3.field 16 8, copiesMoveDataV3.field 32 4)]
      copiesMoveDataS5) (0 : Part) (copiesMoveDataV3.field 24 8) = IngestKind.clear ∧ (ppaWrite (0 : Part)
      (copiesMoveDataV3.field 24 8) [(1 : Byte), (2 : Byte), (3 : Byte)] (hostFetch (fnOf (0 : Part))
      [(copiesMoveDataV3.field 16 8, copiesMoveDataV3.field 32 4)] copiesMoveDataS5)).2 = none) ∧
    (startedDesc copiesMoveDataS6 (0 : Part) (0 : Sys2Proof.Ring) opCopy = some copiesMoveDataV4 ∧ (copiesMoveDataV4.field
      37 1 % 4 = 1 → ppaServes copiesMoveDataS6 (serving copiesMoveDataS6 (0 : Part) (0 : Sys2Proof.Ring)) (0 : Part)
      (copiesMoveDataV4.field 24 8) (copiesMoveDataV4.field 32 4) = true) ∧ copiesMoveDataV4.field 36 1 % 4 = 0 ∧ [(1 :
      Byte), (2 : Byte), (3 : Byte)].length = copiesMoveDataV4.field 32 4 ∧ hostOpen copiesMoveDataS6 (fnOf (0 : Part)) =
      true ∧ hostRefused (hostFetch (fnOf (0 : Part)) [(copiesMoveDataV4.field 16 8, copiesMoveDataV4.field 32 4)]
      copiesMoveDataS6) (0 : Part) (copiesMoveDataV4.field 37 1 % 4) (copiesMoveDataV4.field 24 8) (copiesMoveDataV4.field
      32 4) = false ∧ ingestKind (hostFetch (fnOf (0 : Part)) [(copiesMoveDataV4.field 16 8, copiesMoveDataV4.field 32 4)]
      copiesMoveDataS6) (0 : Part) (copiesMoveDataV4.field 24 8) = IngestKind.delivered (0 : BitVec 256) ∧ (openIngest (0
      : BitVec 256) (jobOf (hostFetch (fnOf (0 : Part)) [(copiesMoveDataV4.field 16 8, copiesMoveDataV4.field 32 4)]
      copiesMoveDataS6) (0 : Part)) [(1 : Byte), (2 : Byte), (3 : Byte)]).2 = some 0) := by
  refine ⟨?_, ?_, ?_, ?_, ?_⟩
  · decide +kernel
  · decide +kernel
  · decide +kernel
  · decide +kernel
  · decide +kernel

def egressIsCheckedAndCountedV0 : Desc := ((startedDesc egressIsCheckedAndCountedS6 (0 : Part) (0 : Sys2Proof.Ring)
  opEgress)).getD noDesc
def egressIsCheckedAndCountedV1 : Byte × Word × BitVec 56 := ((egressCheck egressIsCheckedAndCountedS6 (0 : Part)
  (egressIsCheckedAndCountedV0.field 8 1 % 4) (egressIsCheckedAndCountedV0.field 9 1 % 16)
  (egressIsCheckedAndCountedV0.field 32 4))).getD (0, 0, 0)
def egressIsCheckedAndCountedV2 : Desc := ((startedDesc egressIsCheckedAndCountedS8 (0 : Part) (0 : Sys2Proof.Ring)
  opEgress)).getD noDesc

theorem test_meets_EgressIsCheckedAndCounted :
    (startedDesc egressIsCheckedAndCountedS6 (0 : Part) (0 : Sys2Proof.Ring) opEgress = some egressIsCheckedAndCountedV0 ∧
      egressCheck egressIsCheckedAndCountedS6 (0 : Part) (egressIsCheckedAndCountedV0.field 8 1 % 4)
      (egressIsCheckedAndCountedV0.field 9 1 % 16) (egressIsCheckedAndCountedV0.field 32 4) = some
      (egressIsCheckedAndCountedV1.1, (0 : Word), (0 : BitVec 56))) ∧
    (startedDesc egressIsCheckedAndCountedS8 (0 : Part) (0 : Sys2Proof.Ring) opEgress = some egressIsCheckedAndCountedV2 ∧
      egressCheck egressIsCheckedAndCountedS8 (0 : Part) (egressIsCheckedAndCountedV2.field 8 1 % 4)
      (egressIsCheckedAndCountedV2.field 9 1 % 16) (egressIsCheckedAndCountedV2.field 32 4) = none ∧ ppaServes
      egressIsCheckedAndCountedS8 (serving egressIsCheckedAndCountedS8 (0 : Part) (0 : Sys2Proof.Ring)) (0 : Part)
      (egressIsCheckedAndCountedV2.field 16 8) (egressIsCheckedAndCountedV2.field 32 4) = true ∧ ppaFetch (0 : Part)
      (egressIsCheckedAndCountedV2.field 16 8) (egressIsCheckedAndCountedV2.field 32 4) (chargeClear (0 : Part)
      (egressIsCheckedAndCountedV2.field 8 1 % 4) (egressIsCheckedAndCountedV2.field 32 4) egressIsCheckedAndCountedS8) =
      ((ppaFetch (0 : Part) (egressIsCheckedAndCountedV2.field 16 8) (egressIsCheckedAndCountedV2.field 32 4) (chargeClear
      (0 : Part) (egressIsCheckedAndCountedV2.field 8 1 % 4) (egressIsCheckedAndCountedV2.field 32 4)
      egressIsCheckedAndCountedS8)).1, (ppaFetch (0 : Part) (egressIsCheckedAndCountedV2.field 16 8)
      (egressIsCheckedAndCountedV2.field 32 4) (chargeClear (0 : Part) (egressIsCheckedAndCountedV2.field 8 1 % 4)
      (egressIsCheckedAndCountedV2.field 32 4) egressIsCheckedAndCountedS8)).2.1, none) ∧ startedDesc (ppaFetch (0 : Part)
      (egressIsCheckedAndCountedV2.field 16 8) (egressIsCheckedAndCountedV2.field 32 4) (chargeClear (0 : Part)
      (egressIsCheckedAndCountedV2.field 8 1 % 4) (egressIsCheckedAndCountedV2.field 32 4) egressIsCheckedAndCountedS8)).1
      (0 : Part) (0 : Sys2Proof.Ring) opEgress = some egressIsCheckedAndCountedV2) := by
  refine ⟨?_, ?_⟩
  · decide +kernel
  · decide +kernel

theorem test_meets_FabricAndTimetables :
    (startedDesc fabricAndTimetablesS11 (0 : Part) (0 : Sys2Proof.Ring) opFabric = some (dFab 7) ∧ descFlow
      fabricAndTimetablesS11 (0 : Part) ((dFab 7).field 16 2) = some ((1 : Comb), flow1) ∧ (dFab 7).combMask = 2 ^ (↑(1 :
      Comb) : Nat) ∧ beatBegun fabricAndTimetablesS11 (1 : Comb) ((dFab 7).field 40 6) = true) ∧
    (startedDesc fabricAndTimetablesS12 (0 : Part) (0 : Sys2Proof.Ring) opFabric = some (dFab 8) ∧ descFlow
      fabricAndTimetablesS12 (0 : Part) ((dFab 8).field 16 2) = some ((1 : Comb), flow1) ∧ (dFab 8).combMask = 2 ^ (↑(1 :
      Comb) : Nat) ∧ beatBegun fabricAndTimetablesS12 (1 : Comb) ((dFab 8).field 40 6) = false ∧ ppaServes
      fabricAndTimetablesS12 (serving fabricAndTimetablesS12 (0 : Part) (0 : Sys2Proof.Ring)) (0 : Part) ((dFab 8).field
      24 8) (fabricBytes (dFab 8) flow1) = true ∧ ppaFetch (0 : Part) ((dFab 8).field 24 8) (fabricBytes (dFab 8) flow1)
      fabricAndTimetablesS12 = ((ppaFetch (0 : Part) ((dFab 8).field 24 8) (fabricBytes (dFab 8) flow1)
      fabricAndTimetablesS12).1, (ppaFetch (0 : Part) ((dFab 8).field 24 8) (fabricBytes (dFab 8) flow1)
      fabricAndTimetablesS12).2.1, none) ∧ startedDesc (ppaFetch (0 : Part) ((dFab 8).field 24 8) (fabricBytes (dFab 8)
      flow1) fabricAndTimetablesS12).1 (0 : Part) (0 : Sys2Proof.Ring) opFabric = some (dFab 8)) ∧
    (startedDesc fabricAndTimetablesS13 (0 : Part) (0 : Sys2Proof.Ring) opTimetable = some dTt ∧ ppaServes
      fabricAndTimetablesS13 (serving fabricAndTimetablesS13 (0 : Part) (0 : Sys2Proof.Ring)) (0 : Part) (dTt.field 16 8)
      (dTt.field 24 4) = true ∧ ppaFetch (0 : Part) (dTt.field 16 8) (dTt.field 24 4) fabricAndTimetablesS13 = ((ppaFetch
      (0 : Part) (dTt.field 16 8) (dTt.field 24 4) fabricAndTimetablesS13).1, (ppaFetch (0 : Part) (dTt.field 16 8)
      (dTt.field 24 4) fabricAndTimetablesS13).2.1, none) ∧ startedDesc (ppaFetch (0 : Part) (dTt.field 16 8) (dTt.field
      24 4) fabricAndTimetablesS13).1 (0 : Part) (0 : Sys2Proof.Ring) opTimetable = some dTt) := by
  refine ⟨?_, ?_, ?_⟩
  · decide +kernel
  · decide +kernel
  · decide +kernel

end Moves

namespace Saves

def man1 : Manifest := ⟨3, [1], [5], [], [⟨1, 0, 3⟩, ⟨2, 0, 1⟩], [], 1, 0, 100, 0, 0, 0, 0⟩
def ctx (s : State) : State := { s.modPart 0 fun q => { q with ctx := { q.ctx with state := 2, man := some man1, clearLeft := 100, ckptKey := some 4 } } with
  fns := s.fns.set 1 { s.fns[1] with secure := true } }
def ckList (f : Nat) : Bytes := leBytes 4 0x434B4C01 ++ leBytes 4 f ++ leBytes 2 1 ++ leBytes 2 0 ++ leBytes 4 0x010101 ++ leBytes 8 0x4000 ++ leBytes 4 688 ++ leBytes 4 0 ++
  leBytes 8 (if f = 2 then 0x10000 else 0) ++ leBytes 8 (if f = 2 then 0x10000 else 0) ++ leBytes 16 0 ++ leBytes 8 0 ++ leBytes 8 4096 ++ leBytes 8 0x8000 ++ leBytes 8 8192 ++ leBytes 32 0
def dCk (step : Nat) : Desc := { idx := 3, bytes := desc 8 [(16, 8, 0x4000), (24, 4, 2), (32, 8, step)], stage := .started }
def checkpointsRunInStepsS1 : State := ctx (withDesc (dCk 5))
def badL2 : Bytes := (ckList 2).set 8 0
def ck0 : Ckpt := { ring := some ⟨0, 0, 3⟩, auto := 0, list := ckList 2, step := 5, hold := true }
def ckS (c : Ckpt) (st : Nat) (s : State) : State := (ctx s).modPart 0 fun q => { q with ckpt := some c, ckptState := BitVec.ofNat 2 st }
def checkpointsRunInStepsS2 : State := ckS ck0 1 (withDesc (dCk 6))
def commitS (st step : Nat) (s : State) : State := ppaPut 0 0x2000 (commitRec st ⟨0, 0, 1, BitVec.ofNat 64 step, 0, 0, none, none⟩ 1 0) (s.modHild 0 fun h => { h with commit := 0x2000 })
def sCm4 := commitS 2 4 (ckS ck0 1 (withDesc (dCk 5)))
def sCp := ckS ck0 2 (withDesc (dCk 5))
def ck1 : Ckpt := { ck0 with wrote := true, mseq := 7, moved := 100 }
def checkpointsRunInStepsS4 : State := ckS ck1 2 (withDesc (dCk 5))
def sNoSec := (ckS ck1 2 (withDesc (dCk 5)))
def sNoSec2 : State := { sNoSec with fns := rich.fns }
def ck9 : Ckpt := { ck1 with label := 9 }
def checkpointsRunInStepsS5 : State := ckS ck9 3 (withDesc (dCk 5))
def dRs : Desc := { idx := 3, bytes := desc 9 [(16, 8, 0x4000), (24, 4, 688), (32, 8, 0x8000), (40, 4, 2)], stage := .started }
def restoresCheckBeforeTheyWriteS6 : State := ctx (withDesc dRs)
def dRsA : Desc := { dRs with stage := .active }
def rs1 (n : Nat) : Restore := ⟨⟨0, 0, 3⟩, ckList 0, List.replicate 688 0, n⟩
def sRs (n : Nat) : State := (ctx (withDesc dRsA)).modPart 0 fun q => { q with restore := some (rs1 n) }
def restoresCheckBeforeTheyWriteS7 : State := sRs 1
def restoresCheckBeforeTheyWriteS8 : State := sRs 2

def checkpointsRunInStepsV0 : Desc := ((startedDesc checkpointsRunInStepsS1 (0 : Part) (0 : Sys2Proof.Ring)
  opCheckpoint)).getD noDesc
def checkpointsRunInStepsV1 : Desc := ((startedDesc checkpointsRunInStepsS2 (0 : Part) (0 : Sys2Proof.Ring)
  opCheckpoint)).getD noDesc
def checkpointsRunInStepsV2 : RunDesc := (ck9.ring).getD ⟨0, 0, 0⟩
def checkpointsRunInStepsV3 : Desc := ((findDesc checkpointsRunInStepsS5.parts[(0 :
  Part)].rings[checkpointsRunInStepsV2.ring] checkpointsRunInStepsV2.idx)).getD noDesc

theorem test_meets_CheckpointsRunInSteps :
    (startedDesc checkpointsRunInStepsS1 (0 : Part) (0 : Sys2Proof.Ring) opCheckpoint = some checkpointsRunInStepsV0 ∧
      checkpointsRunInStepsS1.parts[(0 : Part)].ckpt = none ∧ List.length badL2 = 64 * checkpointsRunInStepsV0.field 24 4
      ∧ 2 ≤ checkpointsRunInStepsV0.field 24 4 ∧ checkpointsRunInStepsV0.field 24 4 ≤ 8193 ∧ egressCheck
      checkpointsRunInStepsS1 (0 : Part) clsCheckpoint 0 0 = none ∧ listSalvage badL2 = false ∧ partServes
      checkpointsRunInStepsS1 (0 : Part) = true ∧ hostOpen checkpointsRunInStepsS1 (fnOf (0 : Part)) = true ∧ ckptListBad
      checkpointsRunInStepsS1 (0 : Part) false badL2 = some 8) ∧
    (startedDesc checkpointsRunInStepsS1 (0 : Part) (0 : Sys2Proof.Ring) opCheckpoint = some checkpointsRunInStepsV0 ∧
      checkpointsRunInStepsS1.parts[(0 : Part)].ckpt = none ∧ List.length (ckList 2) = 64 * checkpointsRunInStepsV0.field
      24 4 ∧ 2 ≤ checkpointsRunInStepsV0.field 24 4 ∧ checkpointsRunInStepsV0.field 24 4 ≤ 8193 ∧ egressCheck
      checkpointsRunInStepsS1 (0 : Part) clsCheckpoint 0 0 = none ∧ listSalvage (ckList 2) = false ∧ partServes
      checkpointsRunInStepsS1 (0 : Part) = true ∧ hostOpen checkpointsRunInStepsS1 (fnOf (0 : Part)) = true ∧ ckptListBad
      checkpointsRunInStepsS1 (0 : Part) false (ckList 2) = none ∧ planBad checkpointsRunInStepsS1 (0 : Part) (ckList 2)
      (listSnap (ckList 2)) = none ∧ committing checkpointsRunInStepsS1 (0 : Part) = []) ∧
    (startedDesc checkpointsRunInStepsS2 (0 : Part) (0 : Sys2Proof.Ring) opCheckpoint = some checkpointsRunInStepsV1 ∧
      checkpointsRunInStepsS2.parts[(0 : Part)].ckpt = some ck0 ∧ ck0.list ≠ []) ∧
    (sCm4.parts[(0 : Part)].ckpt = some ck0 ∧ sCm4.parts[(0 : Part)].ckptState = (1 : BitVec 2) ∧ ck0.list ≠ [] ∧
      partServes sCm4 (0 : Part) = true ∧ readCommits (0 : Part) (committing sCm4 (0 : Part)) sCm4 = ((readCommits (0 :
      Part) (committing sCm4 (0 : Part)) sCm4).1, Except.ok [((0 : Super), 2, (4 : DWord))]) ∧ [((0 : Super), 2, (4 :
      DWord))].all (stepMet (readCommits (0 : Part) (committing sCm4 (0 : Part)) sCm4).1 ck0.step) = false) ∧
    (checkpointsRunInStepsS2.parts[(0 : Part)].ckpt = some ck0 ∧ checkpointsRunInStepsS2.parts[(0 : Part)].ckptState = (1
      : BitVec 2) ∧ ck0.list ≠ [] ∧ partServes checkpointsRunInStepsS2 (0 : Part) = true ∧ readCommits (0 : Part)
      (committing checkpointsRunInStepsS2 (0 : Part)) checkpointsRunInStepsS2 = ((readCommits (0 : Part) (committing
      checkpointsRunInStepsS2 (0 : Part)) checkpointsRunInStepsS2).1, Except.ok []) ∧ [].all (stepMet (readCommits (0 :
      Part) (committing checkpointsRunInStepsS2 (0 : Part)) checkpointsRunInStepsS2).1 ck0.step) = true ∧ firstDiffer [] =
      none ∧ ck0.step ≤ (Option.map (fun (x : Super × Nat × DWord) => x.2.2) [].head?).getD ck0.step ∧ listSnap ck0.list =
      true) ∧
    (sCp.parts[(0 : Part)].ckpt = some ck0 ∧ sCp.parts[(0 : Part)].ckptState = (2 : BitVec 2) ∧ ck0.wrote = false ∧
      listSnap ck0.list = true ∧ partServes sCp (0 : Part) = true ∧ copyShards (0 : Part) (snapSources (fieldAt ck0.list
      32 8) (ownShards ck0.list)) sCp = ((copyShards (0 : Part) (snapSources (fieldAt ck0.list 32 8) (ownShards ck0.list))
      sCp).1, none)) ∧
    (checkpointsRunInStepsS4.parts[(0 : Part)].ckpt = some ck1 ∧ checkpointsRunInStepsS4.parts[(0 : Part)].ckptState = (2
      : BitVec 2) ∧ ck1.wrote = true ∧ postWaits checkpointsRunInStepsS4 (fnOf (0 : Part)) = false ∧
      checkpointsRunInStepsS4.parts[(0 : Part)].ctx.man = some man1 ∧ checkpointsRunInStepsS4.fns[fnOf (0 : Part)].secure
      = true ∧ (∀ k ∈ combsOf checkpointsRunInStepsS4 (0 : Part), checkpointsRunInStepsS4.supers[k].hild.state ≠ (1 :
      BitVec 2))) ∧
    (sNoSec2.parts[(0 : Part)].ckpt = some ck1 ∧ sNoSec2.parts[(0 : Part)].ckptState = (2 : BitVec 2) ∧ ck1.wrote = true ∧
      postWaits sNoSec2 (fnOf (0 : Part)) = false ∧ sNoSec2.parts[(0 : Part)].ctx.man = some man1 ∧ sNoSec2.fns[fnOf (0 :
      Part)].secure = false ∧ (∀ k ∈ combsOf sNoSec2 (0 : Part), sNoSec2.supers[k].hild.state ≠ (1 : BitVec 2))) ∧
    (checkpointsRunInStepsS5.parts[(0 : Part)].ckpt = some ck9 ∧ checkpointsRunInStepsS5.parts[(0 : Part)].ckptState = (3
      : BitVec 2) ∧ postWaits checkpointsRunInStepsS5 (fnOf (0 : Part)) = false ∧ ck9.ring = some checkpointsRunInStepsV2
      ∧ findDesc checkpointsRunInStepsS5.parts[(0 : Part)].rings[checkpointsRunInStepsV2.ring] checkpointsRunInStepsV2.idx
      = some checkpointsRunInStepsV3 ∧ checkpointsRunInStepsV3.stage ≠ DStage.done) := by
  refine ⟨?_, ?_, ?_, ?_, ?_, ?_, ?_, ?_, ?_⟩
  · decide +kernel
  · decide +kernel
  · decide +kernel
  · decide +kernel
  · decide +kernel
  · decide +kernel
  · decide +kernel
  · decide +kernel
  · decide +kernel

def restoresCheckBeforeTheyWriteV0 : Restore := (restoresCheckBeforeTheyWriteS7.parts[(0 : Part)].restore).getD ⟨⟨0, 0,
  0⟩, [], [], 0⟩
def restoresCheckBeforeTheyWriteV1 : Restore := (restoresCheckBeforeTheyWriteS8.parts[(0 : Part)].restore).getD ⟨⟨0, 0,
  0⟩, [], [], 0⟩

theorem test_meets_RestoresCheckBeforeTheyWrite :
    (restoresCheckBeforeTheyWriteS6.parts[(0 : Part)].ctx.man = some man1 ∧ startedDesc restoresCheckBeforeTheyWriteS6 (0
      : Part) (0 : Sys2Proof.Ring) opRestore = some dRs ∧ restoresCheckBeforeTheyWriteS6.parts[(0 : Part)].restore = none
      ∧ List.length (ckList 0) = 64 * dRs.field 40 4 ∧ (List.replicate 688 (0 : Byte)).length = dRs.field 24 4 ∧ 2 ≤
      dRs.field 40 4 ∧ dRs.field 40 4 ≤ 8193 ∧ hostOpen restoresCheckBeforeTheyWriteS6 (fnOf (0 : Part)) = true) ∧
    (restoresCheckBeforeTheyWriteS7.parts[(0 : Part)].ctx.man = some man1 ∧ restoresCheckBeforeTheyWriteS7.parts[(0 :
      Part)].restore = some restoresCheckBeforeTheyWriteV0 ∧ restoresCheckBeforeTheyWriteV0.pass = 1 ∧ [List.replicate 100
      (0 : Byte)].length = (shardsOf restoresCheckBeforeTheyWriteV0.list).length ∧ hostOpen restoresCheckBeforeTheyWriteS7
      (fnOf (0 : Part)) = true ∧ findDesc restoresCheckBeforeTheyWriteS7.parts[(0 :
      Part)].rings[restoresCheckBeforeTheyWriteV0.ring.ring] restoresCheckBeforeTheyWriteV0.ring.idx = some dRsA ∧
      dRsA.stage ≠ DStage.done) ∧
    (restoresCheckBeforeTheyWriteS8.parts[(0 : Part)].ctx.man = some man1 ∧ restoresCheckBeforeTheyWriteS8.parts[(0 :
      Part)].restore = some restoresCheckBeforeTheyWriteV1 ∧ restoresCheckBeforeTheyWriteV1.pass = 2 ∧ [List.replicate 100
      (0 : Byte)].length = (shardsOf restoresCheckBeforeTheyWriteV1.list).length ∧ hostOpen restoresCheckBeforeTheyWriteS8
      (fnOf (0 : Part)) = true ∧ partServes restoresCheckBeforeTheyWriteS8 (0 : Part) = true ∧ committing (loadShards (0 :
      Part) restoresCheckBeforeTheyWriteV1 man1 ((shardsOf restoresCheckBeforeTheyWriteV1.list).zip [List.replicate 100 (0
      : Byte)]) (hostFetch (fnOf (0 : Part)) (List.map (fun (e : Shard × Bytes) => (e.1.host, List.length e.2)) ((shardsOf
      restoresCheckBeforeTheyWriteV1.list).zip [List.replicate 100 (0 : Byte)])) restoresCheckBeforeTheyWriteS8)).1 (0 :
      Part) = []) := by
  refine ⟨?_, ?_, ?_⟩
  · decide +kernel
  · decide +kernel
  · decide +kernel

end Saves

namespace HumTests

def noJobs : State := { rich with combs := rich.combs.map fun c => { c with router := { c.router with lease := [], jobs := .replicate 12 {} } } }
def child (st : BitVec 2) : State :=
  let s := { noJobs with mod := { noJobs.mod with humRoot := false, x := 1, dimX := 3, dimY := 0, dimZ := 0, mapEn := 0x3f, attached := true } }
  { s with combs := s.combs.map fun c => { c with hum := { c.hum with state := st }, router := { c.router with ports := c.router.ports.map fun q => { q with state := 2 } } } }
def sx (e : Nat) : HumSync := ⟨2, 0, w64 (1000 + e), 900, w64 (850)⟩
def humFollowsItsParentS1 : State := child 0
def humFollowsItsParentS4 : State := child 3
def leased1 : State := { child 2 with combs := rich.combs.map fun c => { c with router := { c.router with ports := c.router.ports.map fun q => { q with state := 2 } } } }
def flow1 : Flow := ⟨false, false, 1, 1, 0, 0, 0, 0, 0, 0, 0, 0, 3, 4, 8, 0, false, 0, true, 4, 0, 0, 0⟩
def flow0 : Flow := { flow1 with pos := 0 }
def tt1 : Timetable := ⟨3, 2, 5, 0, [flow1, flow0]⟩
def atO (n : Nat) : State :=
  let s := (rich.modPart 0 fun q => { q with nextTt := some tt1 })
  { s with combs := s.combs.map fun c => { c with hum := { c.hum with due := true, origin := 2, time := frameUnits * n + 5 }, router := { c.router with jobs := upd c.router.jobs 1 fun j => { j with keyed := true } } } }
def beatsAndControlSlotsS7 : State := atO 2
def bd (m : Option Nat) (st : BitVec 2) (x : Nat) : State :=
  let s := rich.modPart 0 fun q => { q with tt := some tt1 }
  { s with combs := s.combs.map fun c => { c with
      seq := { c.seq with state := st, stall := 7 }
      hum := { c.hum with active := true, beatFrames := 2, beatStart := 4, beat := 6, marker := m, time := 7 * frameUnits + x }
      router := { c.router with flows := [{ index := 0, tx := true, sent := 4 }, { index := 1, tx := false }] } } }
def beatsAndControlSlotsS10 : State := bd (some (7 * 524288 - 1)) 2 0
def beatsAndControlSlotsS12 : State := (bd none 1 0).modHum 1 fun h => { h with active := false, missed := some (7 * 524288, some (6 * 524288)) }
def al : AlarmRec := { cause := 1, x := 0, y := 0, z := 0, relay := false, jobId := 3, frame := 5 }
def vt : VoteRec := { value := true, stepTag := 3, jobId := 3, epoch := 0 }
def cs (n : Nat) : State :=
  let s := child 2
  { s with combs := s.combs.map fun c => { c with hum := { c.hum with time := n * 1024 + 7 }, router := { c.router with alarms := [(1, al, 3)], votesOut := [(1, vt, 4)], verdictsOut := [(2, vt, 0x21)] } } }
def vs (n : Nat) : State :=
  let e : JobEntry := { jobId := 3, role := 1, vparent := 1, vchild := 4, votes := [⟨0, false, true, 8⟩, ⟨1, false, true, 8⟩, ⟨2, true, true, 8⟩], voteAt := 0 }
  let s := child 2
  { s with combs := s.combs.map fun c => { c with hum := { c.hum with time := n * 1024 + 7 }, router := { c.router with jobs := upd c.router.jobs 1 fun _ => e } } }
def beatsAndControlSlotsS17 : State := vs 256

theorem test_meets_HumFollowsItsParent :
    (regsServed noJobs = true ∧ anyLease noJobs = false) ∧
    (portUp humFollowsItsParentS1 (0 : Comb) (1 : LPort) = true ∧ ((↑(0 : Fin 5) : Nat) = 0 ∨ (↑(0 : Fin 5) : Nat) = 4) ∧
      jobsOnPort humFollowsItsParentS1.combs[(0 : Comb)] (1 : LPort) = []) ∧
    (portUp leased1 (0 : Comb) (0 : LPort) = true ∧ ((↑(0 : Fin 5) : Nat) = 0 ∨ (↑(0 : Fin 5) : Nat) = 4) ∧ jobsOnPort
      leased1.combs[(0 : Comb)] (0 : LPort) = [(1 : JobIx)] ∧ leased1.combs[(0 : Comb)].router.jobs[(1 : JobIx)].role = (1
      : BitVec 2) ∧ partOf leased1 (0 : Comb) = some (0 : Part) ∧ leased1.parts[(0 : Part)].recov = [] ∧ jobAborted
      leased1 (0 : Comb) = false) ∧
    (regsServed rich = true ∧ anyLease rich = true) ∧
    (portUp humFollowsItsParentS1 (0 : Comb) (1 : LPort) = true ∧ rootPort humFollowsItsParentS1 = some (1 : LPort) ∧ (sx
      0).tEchoTx ≠ (0 : DWord)) ∧
    (portUp humFollowsItsParentS1 (0 : Comb) (0 : LPort) = true ∧ rootPort humFollowsItsParentS1 ≠ some (0 : LPort)) ∧
    (humFollowsItsParentS4.combs[(0 : Comb)].hum.state = (3 : BitVec 2) ∧ partOf humFollowsItsParentS4 (0 : Comb) = some
      (0 : Part) ∧ humFollowsItsParentS4.parts[(0 : Part)].recov = [] ∧ jobAborted humFollowsItsParentS4 (0 : Comb) =
      false) ∧
    (humFollowsItsParentS4.combs[(6 : Comb)].hum.state = (3 : BitVec 2) ∧ partOf humFollowsItsParentS4 (6 : Comb) =
      none) ∧
    (portUp humFollowsItsParentS1 (0 : Comb) (1 : LPort) = true ∧ (↑(1 : Fin 5) : Nat) ≠ 0 ∧ (↑(1 : Fin 5) : Nat) ≠
      4) := by
  refine ⟨?_, ?_, ?_, ?_, ?_, ?_, ?_, ?_, ?_⟩
  · decide +kernel
  · decide +kernel
  · decide +kernel
  · decide +kernel
  · decide +kernel
  · decide +kernel
  · decide +kernel
  · decide +kernel
  · decide +kernel

def beatsAndControlSlotsV0 : Nat × Option Nat := (beatsAndControlSlotsS12.combs[(1 : Comb)].hum.missed).getD (0, none)

theorem test_meets_BeatsAndControlSlots :
    (beatsAndControlSlotsS7.parts[(0 : Part)].nextTt = some tt1 ∧ beatsAndControlSlotsS7.parts[(0 : Part)].stopped = false
      ∧ (∀ k ∈ combsOf beatsAndControlSlotsS7 (0 : Part), atOrigin beatsAndControlSlotsS7 k tt1 = true → ∀ (j : JobIx),
      memberJob beatsAndControlSlotsS7 k = some j → beatsAndControlSlotsS7.combs[k].router.jobs[j].keyed = true)) ∧
    (awaitsBeat0 beatsAndControlSlotsS7 (0 : Comb) = true) ∧
    (partOf beatsAndControlSlotsS10 (0 : Comb) = some (0 : Part) ∧ atBoundary beatsAndControlSlotsS10 (0 : Comb) = true ∧
      slackAt beatsAndControlSlotsS10.combs[(0 : Comb)].hum.marker (boundaryOf beatsAndControlSlotsS10.combs[(0 :
      Comb)].hum) = some 0) ∧
    (partOf beatsAndControlSlotsS12 (0 : Comb) = some (0 : Part) ∧ atBoundary beatsAndControlSlotsS12 (0 : Comb) = true ∧
      slackAt beatsAndControlSlotsS12.combs[(0 : Comb)].hum.marker (boundaryOf beatsAndControlSlotsS12.combs[(0 :
      Comb)].hum) = none ∧ beatsAndControlSlotsS12.parts[(0 : Part)].recov = [] ∧ jobAborted beatsAndControlSlotsS12 (0 :
      Comb) = false) ∧
    (partOf beatsAndControlSlotsS12 (1 : Comb) = some (0 : Part) ∧ beatsAndControlSlotsS12.combs[(1 : Comb)].hum.active =
      false ∧ beatsAndControlSlotsS12.combs[(1 : Comb)].hum.missed = some (beatsAndControlSlotsV0.1,
      beatsAndControlSlotsV0.2) ∧ inFirstSlot beatsAndControlSlotsS12.combs[(1 : Comb)].hum.time beatsAndControlSlotsV0.1
      = true) ∧
    (beatsAndControlSlotsS7.combs[(1 : Comb)].routerPwr = true ∧ slotOf beatsAndControlSlotsS7 (1 : Comb) = slotOf
      beatsAndControlSlotsS7 (1 : Comb) ∧ (slotOf beatsAndControlSlotsS7 (1 : Comb) = 0 ∨ slotOf beatsAndControlSlotsS7 (1
      : Comb) = 256) ∧ partOf beatsAndControlSlotsS7 (1 : Comb) ≠ some (1 : Comb)) ∧
    ((0 : Comb) = (0 : Comb) ∧ beatsAndControlSlotsS17.combs[(0 : Comb)].routerPwr = true ∧ slotOf beatsAndControlSlotsS17
      (0 : Comb) = 256 ∧ partOf beatsAndControlSlotsS17 (0 : Comb) = some (0 : Comb) ∧ memberJob beatsAndControlSlotsS17
      (0 : Comb) = some (1 : JobIx) ∧ beatsAndControlSlotsS17.combs[(0 : Comb)].router.jobs[(1 : JobIx)] =
      beatsAndControlSlotsS17.combs[(0 : Comb)].router.jobs[(1 : JobIx)] ∧ beatsAndControlSlotsS17.combs[(0 :
      Comb)].router.jobs[(1 : JobIx)].aborted = false ∧ votesComplete beatsAndControlSlotsS17 (0 : Comb)
      beatsAndControlSlotsS17.combs[(0 : Comb)].router.jobs[(1 : JobIx)] = true ∧ beatsAndControlSlotsS17.combs[(0 :
      Comb)].router.jobs[(1 : JobIx)].voteAt + 200 * nsUnits ≤ beatsAndControlSlotsS17.combs[(0 : Comb)].hum.time ∧
      beatsAndControlSlotsS17.combs[(0 : Comb)].router.jobs[(1 : JobIx)].vparent.toNat = (↑(1 : LPort) : Nat) ∧ portUp
      beatsAndControlSlotsS17 (0 : Comb) (1 : LPort) = true) := by
  refine ⟨?_, ?_, ?_, ?_, ?_, ?_, ?_⟩
  · decide +kernel
  · decide +kernel
  · decide +kernel
  · decide +kernel
  · decide +kernel
  · decide +kernel
  · decide +kernel

end HumTests

namespace FabricTests

def ups (s : State) (st : BitVec 2) : State := { s with combs := s.combs.map fun c => { c with router := { c.router with ports := c.router.ports.map fun q => { q with state := st } } } }
def noJobs : State := { rich with combs := rich.combs.map fun c => { c with router := { c.router with lease := [], jobs := .replicate 12 {} } } }
def att : State := ups { noJobs with mod := { noJobs.mod with humRoot := false, x := 1, dimX := 3, dimY := 0, dimZ := 0, mapEn := 0x3f, attached := true }, ports := Vector.replicate 8 ({ on := true } : PortState) } 2
def ljob : State := noJobs.modJob 0 3 fun j => { j with leased := true }
def portsTrainS1 : State := ups { att with mod := { att.mod with attached := false, mapEn := 0x15 } } 0
def portsTrainS2 : State := ups att 1
def portsTrainS3 : State := { (ups att 1) with evt := { att.evt with resetPort := some (1, 5), resetBusy := true } }
def portsTrainS4 : State := ups att 0
def sp (s : State) (q : PPort) (g : PortState → PortState) : State := { s with ports := upd s.ports q g }
def lanesAreSparedS6 : State := sp att 5 fun p => { p with spareRx := 3 }
def lanesAreSparedS7 : State := sp att 5 fun p => { p with subRx := some { lane := 4 } }
def lanesAreSparedS8 : State := sp att 5 fun p => { p with subRx := some { lane := 4, ack := true } }
def lanesAreSparedS9 : State := sp att 5 fun p => { p with subTx := some { lane := 4, ack := true } }
def lanesAreSparedS10 : State := sp att 5 fun p => { p with subTx := some { lane := 4, ack := true, frame := some (w32 (frameOf att (strandOf 4))) } }
def lanesAreSparedS11 : State := sp att 5 fun p => { p with subRx := some { lane := 4, ack := true, frame := some (w32 (frameOf att (strandOf 4))) } }
def leasesAreGuardedS12 : State := att.modJob 0 3 fun j => { j with role := 1 }
def man1 : Manifest := ⟨3, [1], [5], [], [⟨1, 0, 3⟩, ⟨2, 0, 1⟩], [], 1, 0, 100, 0, 0, 0, 0⟩
def ctxS (s : State) : State := s.modPart 0 fun q => { q with ctx := { q.ctx with state := 2, man := some man1, clearLeft := 100, ckptKey := some 4 } }
def leasesAreGuardedS13 : State := ctxS att
def flow1 : Flow := ⟨false, false, 1, 1, 0, 0, 0, 0, 0, 0, 0, 0, 3, 4, 8, 0, false, 0, true, 4, 0, 0, 0⟩
def e1 : JobEntry := { jobId := 3, role := 1, vparent := 1, vchild := 4, aports := 7, keyed := true, seq := 41, fkgen := 2 }
def e2 : JobEntry := { jobId := 9, role := 2, vparent := 1, vchild := 4, aports := 7, seq := 41, fkgen := 2 }
def tt1 : Timetable := ⟨3, 2, 5, 0, [flow1]⟩
def qf (b : Nat) : QFlit := { dstSpace := 2, dst := 64, data := [1,2], tokens := 1, fromBeat := b, xfer := 0, desc := none, last := true }
/-- A data flit from the neighbour at x 0 with the SEQ given, and its meta sealed under the job's key. -/
def flitS (q : DWord) : Flit := { kind := 1, jobId := 3, flow := 0, fkgen := 2, strand := 1, sx := 0, sy := 0, sz := 0, seq := q, body := [] }
def meta0 : FlitMeta := ⟨false, 2, 2, 1, 128, 0, 6, 5 :: 6 :: List.replicate 510 0⟩
def sealedAs (m : FlitMeta) (x : Flit) : Flit := { x with body := Config.gcmSeal (sendKey 0 x) (flitNonce x) (routeHeader x) (metaBytes m) }
def flit0 : Flit := flitS 7
def run (slot : Nat) (lease : Tab (BitVec 16)) (fl : List FlowRt) (e : JobEntry) : State :=
  let s := att.modPart 0 fun q => { q with tt := some tt1 }
  { s with combs := s.combs.map fun c => { c with
      hum := { c.hum with active := true, beatFrames := 2, beatStart := 4, beat := 6, time := 5 * frameUnits + 1024 * slot + 3 }
      router := { c.router with lease := lease, jobs := upd (upd c.router.jobs 1 fun _ => e) 11 fun _ => e2, flows := fl
                                forward := [(leaseKey false 2 7, flit0)] } } }
def slotsCarryFlitsS14 : State := run 5 [(leaseKey false 0 5, 5)] [] e1
def r1 := run 4 [(leaseKey false 0 4, 5)] [{ index := 0, tx := true, queue := [qf 6] }] e1
def flowRt1 : FlowRt := { index := 0, tx := true, queue := [qf 6] }
def tr := run 511 [(leaseKey true 0 511, 6 + 128)] [] e1
def flitV6 : Flit := { flit0 with errs := 16 }
def slotsCarryFlitsS15 : State := run 7 [(leaseKey false 2 7, 6)] [] e1
def fr : FlowRt := { index := 0, tx := false, lastSeq := some 6, visible := [⟨2, 64, [1, 2], 1⟩] }
def rx := run 4 [(leaseKey true 1 4, 5)] [fr] e1
def fk (x : Flit) : Flit := { x with sx := BitVec.ofNat 8 (srcOf rx flow1).1, sy := BitVec.ofNat 8 (srcOf rx flow1).2.1, sz := BitVec.ofNat 8 (srcOf rx flow1).2.2 }
def flitV7 : Flit := { flit0 with seq := 6 }
def rxFlit8 : Flit := fk flitV7
def rxFlit9 : Flit := fk flitV6
def padMeta0 : FlitMeta := { meta0 with pad := true }
def rxFlit15 : Flit := sealedAs padMeta0 (fk flit0)
def rxFlit16 : Flit := sealedAs meta0 (fk flit0)
def rab := run 4 [(leaseKey true 1 4, 5)] [fr] { e1 with aborted := true }
def am0 : AlarmRec := { cause := 1, x := 1, y := 2, z := 3, relay := false, jobId := 3, frame := 5 }
def am : AlarmRec := { am0 with mac := alarmMac e1 am0 }
def alarmV22 : AlarmRec := { am with frame := 70 }
def alarmV23 : AlarmRec := { am with jobId := 9 }
def vt0 (id : Word) : VoteRec := { value := true, stepTag := 3, jobId := id, epoch := 0 }
/-- A vote (TYPE 2) or verdict (TYPE 3) record of the job with its MAC. -/
def vt (type : Nat) (id : Word) : VoteRec := { vt0 id with mac := voteMac e1 type (vt0 id) }
def slotsCarryFlitsS17 : State := rx.modHum 1 fun h => { h with state := 0 }
def badEj : FlowRt := { fr with visible := [⟨1, 0x1000, [1, 2], 1⟩] }
def slotsCarryFlitsS18 : State := run 4 [(leaseKey true 1 4, 5)] [badEj] e1
def slotsCarryFlitsS20 : State := { slotsCarryFlitsS18 with supers := slotsCarryFlitsS18.supers.map fun u => { u with state := 2 } }
def voteV24 : VoteRec := { vt 2 3 with epoch := 9 }

theorem test_meets_PortsTrain :
    (regsServed ljob = true ∧ anyLeased ljob = true) ∧
    (regsServed att = true ∧ anyLeased att = false ∧ BitVec.getLsbD (2147680257 : DWord) 31 = att.mod.attached) ∧
    (regsServed att = true ∧ anyLeased att = false ∧ BitVec.getLsbD (334819028872724479 : DWord) 31 = att.mod.attached) ∧
    (regsServed portsTrainS1 = true ∧ anyLeased portsTrainS1 = false ∧ BitVec.getLsbD (2147680257 : DWord) 31 = true ∧
      portsTrainS1.mod.attached = false) ∧
    (regsServed att = true ∧ anyLeased att = false ∧ BitVec.getLsbD (196609 : DWord) 31 = false ∧ att.mod.attached = true ∧ (∀ (k
      : Comb) (q : LPort), jobsOnPort att.combs[k] q = [])) ∧
    (regsServed att = true ∧ (∀ (k : Comb) (q : LPort), jobsOnPort att.combs[k] q = [])) ∧
    (portsTrainS2.combs[(0 : Comb)].router.ports[(3 : LPort)].state = (1 : BitVec 2) ∧ portsTrainS2.combs[(0 : Comb)].routerPwr =
      true ∧ downState portsTrainS2 (3 : LPort) false = (1 : BitVec 2)) ∧
    (portsTrainS3.combs[(1 : Comb)].router.ports[(5 : LPort)].state = (1 : BitVec 2) ∧ portsTrainS3.combs[(1 : Comb)].routerPwr =
      true ∧ downState portsTrainS3 (5 : LPort) false = (1 : BitVec 2)) ∧
    portsTrainS2.combs[(0 : Comb)].router.ports[(3 : LPort)].state = (1 : BitVec 2) ∧
    (portsTrainS4.combs[(0 : Comb)].router.ports[(3 : LPort)].state = (0 : BitVec 2) ∧ portsTrainS4.combs[(0 :
      Comb)].router.ports[(3 : LPort)].stuck = false ∧ downState portsTrainS4 (3 : LPort) false = (1 : BitVec 2)) := by
  refine ⟨?_, ?_, ?_, ?_, ?_, ?_, ?_, ?_, ?_, ?_⟩ <;> decide +kernel

theorem test_meets_LanesAreSpared :
    (logPort att (0 : PPort) = some (0 : LPort) ∧ att.ports[(0 : PPort)].on = true ∧ jobsOnPort att.combs[strandOf (↑(0 : Fin 16)
      : Nat)] (0 : LPort) = []) ∧
    (logPort att (5 : PPort) = some (5 : LPort) ∧ att.ports[(5 : PPort)].on = true ∧ jobsOnPort att.combs[strandOf (↑(15 : Fin 16)
      : Nat)] (5 : LPort) = []) ∧
    (logPort att (3 : PPort) = some (3 : LPort) ∧ att.ports[(3 : PPort)].on = true) ∧
    (logPort lanesAreSparedS6 (5 : PPort) = some (5 : LPort) ∧ lanesAreSparedS6.ports[(5 : PPort)].on = true) ∧
    (lowestUp att (0 : Comb) (5 : LPort) = true ∧ att.ports[physPort att (5 : LPort)].spareTx = (31 : BitVec 5) ∧
      att.ports[physPort att (5 : LPort)].subTx = none) ∧
    (lowestUp lanesAreSparedS7 (0 : Comb) (5 : LPort) = true ∧ lanesAreSparedS7.ports[physPort lanesAreSparedS7 (5 : LPort)].subRx
      = some { lane := (4 : Fin 16) : Subst }) ∧
    (logPort lanesAreSparedS8 (5 : PPort) = some (5 : LPort) ∧ lanesAreSparedS8.ports[(5 : PPort)].subRx = some { lane := (4 : Fin 16), ack := true : Subst }
      ∧ 16 ≤ BitVec.toNat ((20 : Word) - w32 (frameOf lanesAreSparedS8 (strandOf (↑(4 : Fin 16) : Nat)))) ∧ BitVec.toNat ((20 :
      Word) - w32 (frameOf lanesAreSparedS8 (strandOf (↑(4 : Fin 16) : Nat)))) < 2147483648) ∧
    (lowestUp lanesAreSparedS9 (0 : Comb) (5 : LPort) = true ∧ lanesAreSparedS9.ports[physPort lanesAreSparedS9 (5 : LPort)].subTx
      = some { lane := (4 : Fin 16), ack := true : Subst }) ∧
    (substOf lanesAreSparedS10.ports[(5 : PPort)] false = some { lane := (4 : Fin 16), ack := true, frame := some (w32 (frameOf att (strandOf 4))) : Subst }
      ∧ { lane := (4 : Fin 16), ack := true, frame := some (w32 (frameOf att (strandOf 4))) : Subst }.frame = some (w32 (frameOf
      lanesAreSparedS10 (strandOf (↑{ lane := (4 : Fin 16), ack := true, frame := some (w32 (frameOf att (strandOf 4))) : Subst }.lane
      : Nat)))) ∧ slotOf lanesAreSparedS10 (strandOf (↑{ lane := (4 : Fin 16), ack := true, frame := some (w32 (frameOf att (strandOf 4))) : Subst }.lane
      : Nat)) = 0) ∧
    (substOf lanesAreSparedS11.ports[(5 : PPort)] true = some { lane := (4 : Fin 16), ack := true, frame := some (w32 (frameOf att (strandOf 4))) : Subst }
      ∧ { lane := (4 : Fin 16), ack := true, frame := some (w32 (frameOf att (strandOf 4))) : Subst }.frame = some (w32 (frameOf
      lanesAreSparedS11 (strandOf (↑{ lane := (4 : Fin 16), ack := true, frame := some (w32 (frameOf att (strandOf 4))) : Subst }.lane
      : Nat)))) ∧ slotOf lanesAreSparedS11 (strandOf (↑{ lane := (4 : Fin 16), ack := true, frame := some (w32 (frameOf att (strandOf 4))) : Subst }.lane
      : Nat)) = 0) := by
  refine ⟨?_, ?_, ?_, ?_, ?_, ?_, ?_, ?_, ?_, ?_⟩ <;> decide +kernel

theorem test_meets_LeasesAreGuarded :
    (regsServed att = true ∧ att.combs[(0 : Comb)].router.jobs[(11 : JobIx)].leased = false ∧ BitVec.extractLsb' 32 2 (12884901891
      : DWord) = (3 : BitVec 2)) ∧
    (regsServed leasesAreGuardedS12 = true ∧ leasesAreGuardedS12.combs[(0 : Comb)].router.jobs[(11 : JobIx)].leased = false ∧
      BitVec.extractLsb' 32 2 (4294967299 : DWord) = (1 : BitVec 2) ∧ memberRefused leasesAreGuardedS12 (0 : Comb) (11 : JobIx)
      (4294967299 : DWord) = true) ∧
    (regsServed leasesAreGuardedS13 = true ∧ leasesAreGuardedS13.combs[(0 : Comb)].router.jobs[(11 : JobIx)].leased = false ∧
      BitVec.extractLsb' 32 2 (1116919130226691 : DWord) = (1 : BitVec 2) ∧ memberRefused leasesAreGuardedS13 (0 : Comb) (11 :
      JobIx) (1116919130226691 : DWord) = false) ∧
    (regsServed att = true ∧ att.combs[(0 : Comb)].router.jobs[(11 : JobIx)].leased = false ∧ BitVec.extractLsb' 32 2
      (1116923425193987 : DWord) = (2 : BitVec 2)) ∧
    ljob.combs[(0 : Comb)].router.jobs[(3 : JobIx)].leased = true ∧
    (regsServed rich = true ∧ leaseRefused rich.combs[(0 : Comb)] true (5 : LPort) (511 : Fin 512) (511 : BitVec 16) = true) ∧
    (regsServed rich = true ∧ leaseRefused rich.combs[(0 : Comb)] false (0 : LPort) (256 : Fin 512) (5 : BitVec 16) = true) ∧
    (regsServed rich = true ∧ leaseRefused rich.combs[(0 : Comb)] true (5 : LPort) (511 : Fin 512) (4 : BitVec 16) = false) ∧
    (regsServed rich = true ∧ leaseRefused rich.combs[(0 : Comb)] false (0 : LPort) (7 : Fin 512) (65028 : BitVec 16) = false) ∧
    regsServed rich = true ∧
    regsServed ljob = true := by
  refine ⟨?_, ?_, ?_, ?_, ?_, ?_, ?_, ?_, ?_, ?_, ?_⟩ <;> decide +kernel

def slotsCarryFlitsV0 : Nat := ((slotData (slotOf tr (1 : Comb)))).getD 0
def slotsCarryFlitsV1 : EjFlit := (fr.visible).headD ⟨0, 0, [], 0⟩
def slotsCarryFlitsV2 : EjFlit := (badEj.visible).headD ⟨0, 0, [], 0⟩
/-- A flit sealed for a job's key opens as what it was sealed from. -/
theorem open_sealed (m : FlitMeta) (y : Flit) (e : JobEntry) (h : e.keyed = true ∧ y.fkgen = e.fkgen ∧ flitFresh fr y = true)
    (hk : e.fkey = 0) (hm : metaOf (metaBytes m) = m) : openFlit e fr (sealedAs m y) = some m := by
  have hb : Config.gcmOpen (sendKey e.fkey (sealedAs m y)) (flitNonce (sealedAs m y)) (routeHeader (sealedAs m y))
      (sealedAs m y).body = some (metaBytes m) := by
    rw [hk]
    exact Laws.gcmOpen_gcmSeal _ _ _ _
  have h' : e.keyed = true ∧ (sealedAs m y).fkgen = e.fkgen ∧ flitFresh fr (sealedAs m y) = true := h
  simp only [openFlit, h', hb]
  simp [hm]

theorem test_meets_SlotsCarryFlits :
    (entKind (entryNow slotsCarryFlitsS14 (1 : Comb) false (0 : LPort)) = 1 ∧ entJob (entryNow slotsCarryFlitsS14 (1 :
      Comb) false (0 : LPort)) = (↑(1 : JobIx) : Nat) ∧ portUp slotsCarryFlitsS14 (1 : Comb) (0 : LPort) = true ∧
      slotsCarryFlitsS14.combs[(1 : Comb)].routerPwr = true ∧ partOf slotsCarryFlitsS14 (1 : Comb) = some (0 : Part) ∧
      memberJob slotsCarryFlitsS14 (1 : Comb) = some (1 : JobIx) ∧ slotData (slotOf slotsCarryFlitsS14 (1 : Comb)) = some
      4 ∧ slotsCarryFlitsS14.combs[(1 : Comb)].hum.active = true ∧ slotsCarryFlitsS14.combs[(1 : Comb)].router.jobs[(1 :
      JobIx)] = slotsCarryFlitsS14.combs[(1 : Comb)].router.jobs[(1 : JobIx)] ∧ slotsCarryFlitsS14.combs[(1 :
      Comb)].router.jobs[(1 : JobIx)].aborted = false ∧ slotsCarryFlitsS14.combs[(1 : Comb)].router.jobs[(1 :
      JobIx)].keyed = true ∧ slotsCarryFlitsS14.combs[(1 : Comb)].router.jobs[(1 : JobIx)].seq ≠ BitVec.allOnes 64 ∧
      slotsCarryFlitsS14.combs[(1 : Comb)].router.jobs[(1 : JobIx)].seq + (1 : DWord) ≠ BitVec.allOnes 64 ∧ claimant
      slotsCarryFlitsS14 (0 : Part) (1 : Comb) true (0 : LPort) 4 = none) ∧
    (entKind (entryNow r1 (1 : Comb) false (0 : LPort)) = 1 ∧ entJob (entryNow r1 (1 : Comb) false (0 : LPort)) = (↑(1 :
      JobIx) : Nat) ∧ portUp r1 (1 : Comb) (0 : LPort) = true ∧ r1.combs[(1 : Comb)].routerPwr = true ∧ partOf r1 (1 :
      Comb) = some (0 : Part) ∧ memberJob r1 (1 : Comb) = some (1 : JobIx) ∧ slotData (slotOf r1 (1 : Comb)) = some 3 ∧
      r1.combs[(1 : Comb)].hum.active = true ∧ r1.combs[(1 : Comb)].router.jobs[(1 : JobIx)] = r1.combs[(1 :
      Comb)].router.jobs[(1 : JobIx)] ∧ r1.combs[(1 : Comb)].router.jobs[(1 : JobIx)].aborted = false ∧ r1.combs[(1 :
      Comb)].router.jobs[(1 : JobIx)].keyed = true ∧ r1.combs[(1 : Comb)].router.jobs[(1 : JobIx)].seq ≠ BitVec.allOnes 64
      ∧ r1.combs[(1 : Comb)].router.jobs[(1 : JobIx)].seq + (1 : DWord) ≠ BitVec.allOnes 64 ∧ claimant r1 (0 : Part) (1 :
      Comb) true (0 : LPort) 3 = some (flowRt1, flow1)) ∧
    (tr.combs[(1 : Comb)].hum.state ≠ (0 : BitVec 2) ∧ entKind (entryNow tr (1 : Comb) true (0 : LPort)) = 2 ∧ portUp tr
      (1 : Comb) (0 : LPort) = true ∧ slotData (slotOf tr (1 : Comb)) = some slotsCarryFlitsV0 ∧ jobAt tr.combs[(1 :
      Comb)] (entJob (entryNow tr (1 : Comb) true (0 : LPort))) = some e1) ∧
    (slotsCarryFlitsS17.combs[(1 : Comb)].hum.state = (0 : BitVec 2)) ∧
    (slotsCarryFlitsS15.combs[(1 : Comb)].hum.state ≠ (0 : BitVec 2) ∧ entKind (entryNow slotsCarryFlitsS15 (1 : Comb)
      false (2 : LPort)) = 2 ∧ portUp slotsCarryFlitsS15 (1 : Comb) (2 : LPort) = true) ∧
    (entKind (entryNow rx (1 : Comb) true (1 : LPort)) = 1 ∧ entJob (entryNow rx (1 : Comb) true (1 : LPort)) = (↑(1 :
      JobIx) : Nat) ∧ portUp rx (1 : Comb) (1 : LPort) = true ∧ partOf rx (1 : Comb) = some (0 : Part) ∧ memberJob rx (1 :
      Comb) = some (1 : JobIx) ∧ slotData (slotOf rx (1 : Comb)) = some 3 ∧ rx.combs[(1 : Comb)].router.jobs[(1 :
      JobIx)].aborted = false ∧ rx.combs[(1 : Comb)].hum.active = true ∧ claimant rx (0 : Part) (1 : Comb) false (1 :
      LPort) 3 = some (fr, flow1) ∧ rx.parts[(0 : Part)].recov = [] ∧ (rxFlit9.kind ≠ (1 : BitVec 2) ∨ rxFlit9.cwOk =
      false ∨ headerOk rx (1 : Comb) rx.combs[(1 : Comb)].router.jobs[(1 : JobIx)] fr flow1 rxFlit9 = false)) ∧
    (entKind (entryNow rx (1 : Comb) true (1 : LPort)) = 1 ∧ entJob (entryNow rx (1 : Comb) true (1 : LPort)) = (↑(1 :
      JobIx) : Nat) ∧ portUp rx (1 : Comb) (1 : LPort) = true ∧ partOf rx (1 : Comb) = some (0 : Part) ∧ memberJob rx (1 :
      Comb) = some (1 : JobIx) ∧ slotData (slotOf rx (1 : Comb)) = some 3 ∧ rx.combs[(1 : Comb)].router.jobs[(1 :
      JobIx)].aborted = false ∧ rx.combs[(1 : Comb)].hum.active = true ∧ claimant rx (0 : Part) (1 : Comb) false (1 :
      LPort) 3 = some (fr, flow1) ∧ rx.parts[(0 : Part)].recov = [] ∧ openFlit rx.combs[(1 : Comb)].router.jobs[(1 :
      JobIx)] fr rxFlit8 = none) ∧
    (entKind (entryNow rx (1 : Comb) true (1 : LPort)) = 1 ∧ entJob (entryNow rx (1 : Comb) true (1 : LPort)) = (↑(1 :
      JobIx) : Nat) ∧ portUp rx (1 : Comb) (1 : LPort) = true ∧ partOf rx (1 : Comb) = some (0 : Part) ∧ memberJob rx (1 :
      Comb) = some (1 : JobIx) ∧ slotData (slotOf rx (1 : Comb)) = some 3 ∧ rx.combs[(1 : Comb)].router.jobs[(1 :
      JobIx)].aborted = false ∧ rx.combs[(1 : Comb)].hum.active = true ∧ claimant rx (0 : Part) (1 : Comb) false (1 :
      LPort) 3 = some (fr, flow1) ∧ rxFlit15.kind = (1 : BitVec 2) ∧ rxFlit15.cwOk = true ∧ headerOk rx (1 : Comb)
      rx.combs[(1 : Comb)].router.jobs[(1 : JobIx)] fr flow1 rxFlit15 = true ∧ openFlit rx.combs[(1 :
      Comb)].router.jobs[(1 : JobIx)] fr rxFlit15 = some padMeta0 ∧ padMeta0.pad = true) ∧
    (entKind (entryNow rx (1 : Comb) true (1 : LPort)) = 1 ∧ entJob (entryNow rx (1 : Comb) true (1 : LPort)) = (↑(1 :
      JobIx) : Nat) ∧ portUp rx (1 : Comb) (1 : LPort) = true ∧ partOf rx (1 : Comb) = some (0 : Part) ∧ memberJob rx (1 :
      Comb) = some (1 : JobIx) ∧ slotData (slotOf rx (1 : Comb)) = some 3 ∧ rx.combs[(1 : Comb)].router.jobs[(1 :
      JobIx)].aborted = false ∧ rx.combs[(1 : Comb)].hum.active = true ∧ claimant rx (0 : Part) (1 : Comb) false (1 :
      LPort) 3 = some (fr, flow1) ∧ rxFlit16.kind = (1 : BitVec 2) ∧ rxFlit16.cwOk = true ∧ headerOk rx (1 : Comb)
      rx.combs[(1 : Comb)].router.jobs[(1 : JobIx)] fr flow1 rxFlit16 = true ∧ openFlit rx.combs[(1 :
      Comb)].router.jobs[(1 : JobIx)] fr rxFlit16 = some meta0 ∧ meta0.pad = false ∧ flitRange rx (0 : Part) meta0 = true
      ∧ ejecting rx (1 : Comb) < 512) ∧
    (partOf rx (1 : Comb) = some (0 : Part) ∧ List.find? (fun (f : FlowRt) => !f.tx && decide (f.index = 0)) rx.combs[(1 :
      Comb)].router.flows = some fr ∧ flowOf rx (0 : Part) (1 : Comb) 0 = some flow1 ∧ fr.visible = slotsCarryFlitsV1 ::
      fr.visible.tail ∧ slotsCarryFlitsV1.space = (2 : BitVec 2)) ∧
    (entKind (entryNow rab (1 : Comb) true (1 : LPort)) = 1 ∧ entJob (entryNow rab (1 : Comb) true (1 : LPort)) = (↑(1 :
      JobIx) : Nat) ∧ portUp rab (1 : Comb) (1 : LPort) = true ∧ partOf rab (1 : Comb) = some (0 : Part) ∧ memberJob rab
      (1 : Comb) = some (1 : JobIx) ∧ (slotData (slotOf rab (1 : Comb))).isSome = true ∧ rab.combs[(1 :
      Comb)].router.jobs[(1 : JobIx)].aborted = true) ∧
    (partOf slotsCarryFlitsS20 (1 : Comb) = some (0 : Part) ∧ List.find? (fun (f : FlowRt) => !f.tx && decide (f.index =
      0)) slotsCarryFlitsS20.combs[(1 : Comb)].router.flows = some badEj ∧ flowOf slotsCarryFlitsS20 (0 : Part) (1 : Comb)
      0 = some flow1 ∧ badEj.visible = slotsCarryFlitsV2 :: badEj.visible.tail ∧ slotsCarryFlitsV2.space ≠ (2 : BitVec 2)
      ∧ ppaServes slotsCarryFlitsS20 (1 : Comb) (0 : Part) (BitVec.toNat slotsCarryFlitsV2.dst) (List.length
      slotsCarryFlitsV2.data) = false) ∧
    (partOf slotsCarryFlitsS18 (1 : Comb) = some (0 : Part) ∧ List.find? (fun (f : FlowRt) => !f.tx && decide (f.index =
      0)) slotsCarryFlitsS18.combs[(1 : Comb)].router.flows = some badEj ∧ flowOf slotsCarryFlitsS18 (0 : Part) (1 : Comb)
      0 = some flow1 ∧ badEj.visible = slotsCarryFlitsV2 :: badEj.visible.tail ∧ slotsCarryFlitsV2.space ≠ (2 : BitVec 2)
      ∧ ppaServes slotsCarryFlitsS18 (1 : Comb) (0 : Part) (BitVec.toNat slotsCarryFlitsV2.dst) (List.length
      slotsCarryFlitsV2.data) = true ∧ (ppaWrite (0 : Part) (BitVec.toNat slotsCarryFlitsV2.dst) slotsCarryFlitsV2.data
      (modFlow (1 : Comb) false 0 (fun (g : FlowRt) => { g with visible := List.drop 1 g.visible }) slotsCarryFlitsS18)).2
      = none) := by
  refine ⟨?_, ?_, ?_, ?_, ?_, ?_, ?_, ?_, ?_, ?_, ?_, ?_, ?_⟩
  · decide +kernel
  · decide +kernel
  · decide +kernel
  · decide +kernel
  · decide +kernel
  · decide +kernel
  · decide +kernel
  · exact ⟨by decide +kernel, by decide +kernel, by decide +kernel, by decide +kernel, by decide +kernel,
    by decide +kernel, by decide +kernel, by decide +kernel, by decide +kernel, by decide +kernel, by decide +kernel,
    by decide +kernel, open_sealed padMeta0 (fk flit0) _ (by decide +kernel) (by decide +kernel) (by decide +kernel),
    by decide +kernel⟩
  · exact ⟨by decide +kernel, by decide +kernel, by decide +kernel, by decide +kernel, by decide +kernel,
    by decide +kernel, by decide +kernel, by decide +kernel, by decide +kernel, by decide +kernel, by decide +kernel,
    by decide +kernel, open_sealed meta0 (fk flit0) _ (by decide +kernel) (by decide +kernel) (by decide +kernel),
    by decide +kernel, by decide +kernel, by decide +kernel⟩
  · decide +kernel
  · decide +kernel
  · decide +kernel
  · decide +kernel

/-- An alarm with its own MAC passes the member's check. -/
theorem am_ok : alarmOk rx 1 rx.combs[(1 : Comb)].router.jobs[(1 : JobIx)] am = true := by
  have h : frameNear am.frame (w32 (frameOf rx 1)) = true := by decide +kernel
  have e : alarmMac e1 am = am.mac := rfl
  have r : am.relay = false := rfl
  rw [show rx.combs[(1 : Comb)].router.jobs[(1 : JobIx)] = e1 from by decide +kernel]
  simp [alarmOk, h, e, r]

/-- A vote or verdict with its own MAC passes the check of its type. -/
theorem vt_ok (type : Nat) : voteOk rx.combs[(1 : Comb)].router.jobs[(1 : JobIx)] type (vt type 3) = true := by
  have e : (vt type 3).mac = voteMac e1 type (vt type 3) := rfl
  have h : (vt type 3).epoch = e1.epoch := rfl
  rw [show rx.combs[(1 : Comb)].router.jobs[(1 : JobIx)] = e1 from by decide +kernel]
  unfold voteOk
  rw [h, ← e]
  simp

theorem test_meets_AlarmsVotesAndVerdicts :
    (jobNamed rab (1 : Comb) am.jobId = some (1 : JobIx) ∧ rab.combs[(1 : Comb)].router.jobs[(1 : JobIx)].aborted =
      true) ∧
    (jobNamed rx (1 : Comb) alarmV22.jobId = some (1 : JobIx) ∧ rx.combs[(1 : Comb)].router.jobs[(1 : JobIx)].aborted =
      false ∧ rx.combs[(1 : Comb)].router.jobs[(1 : JobIx)].role = (1 : BitVec 2) ∧ alarmOk rx (1 : Comb) rx.combs[(1 :
      Comb)].router.jobs[(1 : JobIx)] alarmV22 = false) ∧
    (jobNamed rx (1 : Comb) am.jobId = some (1 : JobIx) ∧ rx.combs[(1 : Comb)].router.jobs[(1 : JobIx)].aborted = false ∧
      rx.combs[(1 : Comb)].router.jobs[(1 : JobIx)].role = (1 : BitVec 2) ∧ alarmOk rx (1 : Comb) rx.combs[(1 :
      Comb)].router.jobs[(1 : JobIx)] am = true ∧ partOf rx (1 : Comb) = some (0 : Part) ∧ rx.parts[(0 : Part)].recov =
      []) ∧
    (jobNamed rab (1 : Comb) alarmV23.jobId = some (11 : JobIx) ∧ rab.combs[(1 : Comb)].router.jobs[(11 : JobIx)].aborted
      = false ∧ rab.combs[(1 : Comb)].router.jobs[(11 : JobIx)].role = (2 : BitVec 2)) ∧
    (jobNamed rab (1 : Comb) (vt 2 (9 : Word)).jobId = some (11 : JobIx) ∧ rab.combs[(1 : Comb)].router.jobs[(11 : JobIx)]
      = rab.combs[(1 : Comb)].router.jobs[(11 : JobIx)] ∧ rab.combs[(1 : Comb)].router.jobs[(11 : JobIx)].aborted = false
      ∧ rab.combs[(1 : Comb)].router.jobs[(11 : JobIx)].vchild.getLsbD (↑(2 : LPort) : Nat) = true ∧ rab.combs[(1 :
      Comb)].router.jobs[(11 : JobIx)].role = (2 : BitVec 2)) ∧
    (jobNamed rx (1 : Comb) (vt 2 (3 : Word)).jobId = some (1 : JobIx) ∧ rx.combs[(1 : Comb)].router.jobs[(1 : JobIx)] =
      rx.combs[(1 : Comb)].router.jobs[(1 : JobIx)] ∧ rx.combs[(1 : Comb)].router.jobs[(1 : JobIx)].aborted = false ∧
      rx.combs[(1 : Comb)].router.jobs[(1 : JobIx)].vchild.getLsbD (↑(2 : LPort) : Nat) = true ∧ rx.combs[(1 :
      Comb)].router.jobs[(1 : JobIx)].role = (1 : BitVec 2) ∧ voteOk rx.combs[(1 : Comb)].router.jobs[(1 : JobIx)] 2 (vt 2
      (3 : Word)) = true) ∧
    (jobNamed rx (1 : Comb) voteV24.jobId = some (1 : JobIx) ∧ rx.combs[(1 : Comb)].router.jobs[(1 : JobIx)] = rx.combs[(1
      : Comb)].router.jobs[(1 : JobIx)] ∧ rx.combs[(1 : Comb)].router.jobs[(1 : JobIx)].aborted = false ∧ rx.combs[(1 :
      Comb)].router.jobs[(1 : JobIx)].role = (1 : BitVec 2) ∧ rx.combs[(1 : Comb)].router.jobs[(1 : JobIx)].vchild.getLsbD
      (↑(2 : LPort) : Nat) = true ∧ voteOk rx.combs[(1 : Comb)].router.jobs[(1 : JobIx)] 2 voteV24 = false) ∧
    (jobNamed rx (1 : Comb) voteV24.jobId = some (1 : JobIx) ∧ rx.combs[(1 : Comb)].router.jobs[(1 : JobIx)] = rx.combs[(1
      : Comb)].router.jobs[(1 : JobIx)] ∧ rx.combs[(1 : Comb)].router.jobs[(1 : JobIx)].aborted = false ∧ rx.combs[(1 :
      Comb)].router.jobs[(1 : JobIx)].role = (1 : BitVec 2) ∧ rx.combs[(1 : Comb)].router.jobs[(1 : JobIx)].vparent.toNat
      = (↑(1 : LPort) : Nat) ∧ voteOk rx.combs[(1 : Comb)].router.jobs[(1 : JobIx)] 3 voteV24 = false) ∧
    (jobNamed rab (1 : Comb) (vt 2 (9 : Word)).jobId = some (11 : JobIx) ∧ rab.combs[(1 : Comb)].router.jobs[(11 : JobIx)]
      = rab.combs[(1 : Comb)].router.jobs[(11 : JobIx)] ∧ rab.combs[(1 : Comb)].router.jobs[(11 : JobIx)].aborted = false
      ∧ rab.combs[(1 : Comb)].router.jobs[(11 : JobIx)].vparent.toNat = (↑(1 : LPort) : Nat) ∧ rab.combs[(1 :
      Comb)].router.jobs[(11 : JobIx)].role = (2 : BitVec 2)) ∧
    (jobNamed rx (1 : Comb) (vt 3 (3 : Word)).jobId = some (1 : JobIx) ∧ rx.combs[(1 : Comb)].router.jobs[(1 : JobIx)] =
      rx.combs[(1 : Comb)].router.jobs[(1 : JobIx)] ∧ rx.combs[(1 : Comb)].router.jobs[(1 : JobIx)].aborted = false ∧
      rx.combs[(1 : Comb)].router.jobs[(1 : JobIx)].vparent.toNat = (↑(1 : LPort) : Nat) ∧ rx.combs[(1 :
      Comb)].router.jobs[(1 : JobIx)].role = (1 : BitVec 2) ∧ voteOk rx.combs[(1 : Comb)].router.jobs[(1 : JobIx)] 3 (vt 3
      (3 : Word)) = true ∧ partOf rx (1 : Comb) = some (0 : Part)) ∧
    (portUp rab (1 : Comb) (2 : LPort) = true ∧ entKind (entryNow rab (1 : Comb) true (2 : LPort)) = 0) := by
  refine ⟨?_, ?_, ?_, ?_, ?_, ?_, ?_, ?_, ?_, ?_, ?_⟩
  · decide +kernel
  · decide +kernel
  · exact ⟨by decide +kernel, by decide +kernel, by decide +kernel, am_ok, by decide +kernel, by decide +kernel⟩
  · decide +kernel
  · decide +kernel
  · exact ⟨by decide +kernel, by decide +kernel, by decide +kernel, by decide +kernel, by decide +kernel, vt_ok 2⟩
  · decide +kernel
  · decide +kernel
  · decide +kernel
  · exact ⟨by decide +kernel, by decide +kernel, by decide +kernel, by decide +kernel, by decide +kernel, vt_ok 3,
    by decide +kernel⟩
  · decide +kernel

end FabricTests

namespace SeqTests

def rs (f : Seq → Seq) : State := rich.modSeq 0 fun q => f { q with preds := q.preds.set 5 .pending, regs := (q.regs.set 8 (4096)).set 9 (w64 (2^64-1)) }
def r0 := rs id
def hN : PredF := ⟨false, 0, false⟩
def hF : PredF := ⟨true, 3, true⟩
def hP : PredF := ⟨true, 5, true⟩
def scalarInstructionsS2 : State := r0.modHum 0 fun h => {h with active := true, beat := 0xFFFFFFFFFFFF }
def xb (ss ds src dst n : Nat) : Bytes := leBytes 1 (ss + 16 * ds) ++ leBytes 7 0 ++ leBytes 8 src ++ leBytes 8 dst ++ leBytes 4 n ++ leBytes 4 1 ++ leBytes 32 0
def t0 (ss ds src dst n : Nat) : Transfer := ⟨xb ss ds src dst n, 0, hN, false, 1⟩
def pt (s : State) (f : Nat) (ts : List Transfer) : State := s.modSeq 0 fun q => { q with queues := upd q.queues (Fin.ofNat 4 f) fun _ => ts }
def dC : Desc := { idx := 3, bytes := desc 1 [(3, 1, 3), (16, 8, 0x1000), (24, 4, 64), (12, 1, 0)], stage := .started }
def man1 : Manifest := ⟨3, [1], [], [], [⟨1, 0, 0⟩], [], 1, 0, 100, 0, 0, 0, 0⟩
def dC1 : Desc := { dC with bytes := desc 1 [(3, 1, 1), (16, 8, 0x1000), (24, 4, 64), (8,1,1), (32, 8, 7), (40, 8, 2^64-1)] }
def sC (d : Desc) : State := (withDesc d).modPart 0 fun q => { q with ctx := { q.ctx with state := 2, man := some man1 } }
def sC1 : State := (sC dC1).modSeq 0 fun q => { q with running := none, state := 0 }
def dE : Desc := { dC1 with stage := .active, combsLeft := [0] }
def sE : State := (withDesc dE).modSeq 0 fun q => { q with ending := true, running := some ⟨0, 0, 3⟩, state := 2, stall := 12 }
def dE2 : Desc := { dE with combsLeft := [0, 1] }
def sE2 : State := (withDesc dE2).modSeq 0 fun q => { q with ending := true, running := some ⟨0, 0, 3⟩, state := 2, stall := 12 }
def programsStartAndEndS6 : State := sE2.modSeq 0 fun q => { q with retain := [⟨.semOp 1 true 1, 3, 8, ⟨false, 0, false⟩, 8, true⟩] }
def predicatesAndSemaphoresS7 : State := rs fun q => {q with preds := q.preds.set 0 .pending}
def predicatesAndSemaphoresS8 : State := rs fun q => {q with regs := q.regs.set 8 100}
def hd (k : HeldKind) : Held := ⟨k, 3, 8, ⟨true, 5, true⟩, 8, true⟩
def predicatesAndSemaphoresS9 : State := rs fun q => {q with retain := [hd (.semOp 3 true 4)]}
def cq := rs fun q => {q with regs := (q.regs.set 8 5).set 9 4096 }
def cs (a : Nat) := rs fun q => {q with regs := (q.regs.set 8 5).set 9 (w64 a) }
def mv (ss ds src dst n : Nat) : State := (rs fun q => {q with regs := (q.regs.set 8 128) }).modComb 0 fun c => { c with store := memWrite c.store 128 (xb ss ds src dst n) }
def heldWritesAndTransfersS15 : State := mv 2 2 0 256 8
def pr (v : Bool) : State := rs fun q => { q with preds := q.preds.set 5 .pending, arms := q.arms.set 5 (.resolved v), retain := [hd (.semOp 3 true 4), { hd (.semOp 3 true 4) with spec := ⟨true, 6, true⟩}] }
def heldWritesAndTransfersS17 : State := pr true
def vo : State := r0.modPart 0 fun q => { q with votes := [⟨0, false, true, 3⟩, ⟨1, false, false, 3⟩] }
def hu (k : HeldKind) : Held := ⟨k, 3, 8, ⟨false, 5, true⟩, 8, true⟩
def hl (k : HeldKind) := rs fun q => { q with retain := [hu k, hd k] }
def heldWritesAndTransfersS19 : State := hl (.semOp 9 true 4)
def heldWritesAndTransfersS21 : State := hl (.host 64 [1,2] false 0)
def heldWritesAndTransfersS23 : State := hl (.ppa 64 [1,2])
def tS (t : Transfer) : State := pt r0 1 [t, t]
def heldWritesAndTransfersS24 : State := tS (t0 2 2 0 3 8)
def sIll : State := ppaPut 0 64 (List.replicate 8 0xFF) r0
def ackS (ws : List OutWrite) (s : State) : State := s.modSeq 0 fun q => { q with unacked := ws }
def ackOwn : List OutWrite := [⟨false, 0, 1, some 3⟩, ⟨true, 0, 2, none⟩]
def heldWritesAndTransfersS27 : State := ackS ackOwn (hl (.semOp 9 true 4))
def heldWritesAndTransfersS28 : State := ackS [⟨true, 0, 2, none⟩] r0
def postW (s : State) : State := { s with host := { s.host with waiting := s.host.waiting.set 1 [.post 8 .windowAbort] } }
def heldWritesAndTransfersS29 : State := postW heldWritesAndTransfersS28
def flow1 : Flow := ⟨false, false, 1, 1, 0, 0, 0, 0, 0, 0, 0, 0, 3, 4, 8, 0, false, 0, true, 4, 0, 0, 0⟩
def tt1 : Timetable := ⟨3, 2, 5, 0, [flow1]⟩
def withTt (s : State) : State := (s.modPart 0 fun q => { q with tt := some tt1 }).modRouter 0 fun r => { r with flows := [{ index := 0, tx := true }] }
def heldWritesAndTransfersS30 : State := withTt (hl (.flits 0 0x200 true [([1, 2], 2)]))
def heldWritesAndTransfersS32 : State := (tS (t0 1 2 0 3 8)).modSeq 0 fun q => { q with retain := [{ hd (.ppa 0 [1]) with issue := 0 }] }
def heldWritesAndTransfersS33 : State := (tS (t0 1 2 1024 3 8)).modSuper 0 fun u => { u with ctr := [(2, 1)], poison := [8] }

def scalarInstructionsV0 : RunDesc := (r0.combs[(0 : Comb)].seq.running).getD ⟨0, 0, 0⟩

theorem test_meets_ScalarInstructions :
    (canIssue r0 (0 : Comb) = true ∧ fetchBad r0 (0 : Comb) = false ∧ windowFull r0.combs[(0 : Comb)].seq (guardOf r0 (0 :
      Comb) hP false) = false ∧ inImage r0 (0 : Comb) (targetOf r0 (0 : Comb) (1 : Int)) = true ∧ guardOf r0 (0 : Comb) hP
      false = Guard.wait) ∧
    (canIssue r0 (0 : Comb) = true ∧ fetchBad r0 (0 : Comb) = false ∧ windowFull r0.combs[(0 : Comb)].seq (guardOf r0 (0 :
      Comb) hF false) = false ∧ inImage r0 (0 : Comb) (targetOf r0 (0 : Comb) (1 : Int)) = true ∧ guardOf r0 (0 : Comb) hF
      false = Guard.skip) ∧
    (canIssue r0 (0 : Comb) = true ∧ fetchBad r0 (0 : Comb) = false ∧ windowFull r0.combs[(0 : Comb)].seq (guardOf r0 (0 :
      Comb) hP false) = false ∧ inImage r0 (0 : Comb) (targetOf r0 (0 : Comb) (1 : Int)) = true ∧ hP.pen = true) ∧
    (canIssue r0 (0 : Comb) = true ∧ fetchBad r0 (0 : Comb) = false ∧ windowFull r0.combs[(0 : Comb)].seq (guardOf r0 (0 :
      Comb) hN false) = false ∧ inImage r0 (0 : Comb) (targetOf r0 (0 : Comb) (1 : Int)) = true ∧ guardOf r0 (0 : Comb) hN
      false = Guard.run ∧ BitVec.toNat (sreg r0 (0 : Comb) (8 : SReg) + BitVec.signExtend 64 (4294967288 : Word)) % 8 = 0
      ∧ BitVec.toNat (sreg r0 (0 : Comb) (8 : SReg) + BitVec.signExtend 64 (4294967288 : Word)) < combStoreBytes) ∧
    (canIssue r0 (0 : Comb) = true ∧ fetchBad r0 (0 : Comb) = false ∧ windowFull r0.combs[(0 : Comb)].seq (guardOf r0 (0 :
      Comb) hN false) = false ∧ inImage r0 (0 : Comb) (targetOf r0 (0 : Comb) (1 : Int)) = true ∧ guardOf r0 (0 : Comb) hN
      false = Guard.run ∧ BitVec.toNat (sreg r0 (0 : Comb) (8 : SReg) + BitVec.signExtend 64 (3 : Word)) % 8 ≠ 0) ∧
    (canIssue r0 (0 : Comb) = true ∧ fetchBad r0 (0 : Comb) = false ∧ windowFull r0.combs[(0 : Comb)].seq (guardOf r0 (0 :
      Comb) hN false) = false ∧ inImage r0 (0 : Comb) (targetOf r0 (0 : Comb) (1 : Int)) = true ∧ guardOf r0 (0 : Comb) hN
      false = Guard.run ∧ inImage r0 (0 : Comb) (targetOf r0 (0 : Comb) (BitVec.toInt (3 : Word))) = true) ∧
    (canIssue r0 (0 : Comb) = true ∧ fetchBad r0 (0 : Comb) = false ∧ windowFull r0.combs[(0 : Comb)].seq (guardOf r0 (0 :
      Comb) hN false) = false ∧ inImage r0 (0 : Comb) (targetOf r0 (0 : Comb) (1 : Int)) = true ∧ guardOf r0 (0 : Comb) hN
      false = Guard.run ∧ inImage r0 (0 : Comb) (targetOf r0 (0 : Comb) (BitVec.toInt (4096 : Word))) = false ∧ partOf r0
      (0 : Comb) = some (0 : Part) ∧ r0.combs[(0 : Comb)].seq.running = some scalarInstructionsV0) ∧
    (canIssue r0 (0 : Comb) = true ∧ fetchBad r0 (0 : Comb) = false ∧ windowFull r0.combs[(0 : Comb)].seq (guardOf r0 (0 :
      Comb) hN false) = false ∧ inImage r0 (0 : Comb) (targetOf r0 (0 : Comb) (1 : Int)) = true ∧ hN.pen = false ∧
      r0.combs[(0 : Comb)].hum.active = false) ∧
    (canIssue r0 (0 : Comb) = true ∧ fetchBad r0 (0 : Comb) = false ∧ windowFull r0.combs[(0 : Comb)].seq (guardOf r0 (0 :
      Comb) hN false) = false ∧ inImage r0 (0 : Comb) (targetOf r0 (0 : Comb) (1 : Int)) = true ∧ hN.pen = false ∧
      fenceClear r0 (0 : Comb) (0 : BitVec 2) = true) ∧
    (canIssue r0 (0 : Comb) = true ∧ fetchBad r0 (0 : Comb) = false ∧ windowFull r0.combs[(0 : Comb)].seq (guardOf r0 (0 :
      Comb) hN false) = false ∧ inImage r0 (0 : Comb) (targetOf r0 (0 : Comb) (1 : Int)) = true ∧ guardOf r0 (0 : Comb) hN
      false = Guard.run ∧ BitVec.toNat (sreg r0 (0 : Comb) (8 : SReg) + BitVec.signExtend 64 (2147483640 : Word)) % 8 = 0
      ∧ combStoreBytes ≤ BitVec.toNat (sreg r0 (0 : Comb) (8 : SReg) + BitVec.signExtend 64 (2147483640 : Word))) ∧
    (canIssue scalarInstructionsS2 (0 : Comb) = true ∧ fetchBad scalarInstructionsS2 (0 : Comb) = false ∧ windowFull
      scalarInstructionsS2.combs[(0 : Comb)].seq (guardOf scalarInstructionsS2 (0 : Comb) hN false) = false ∧ inImage
      scalarInstructionsS2 (0 : Comb) (targetOf scalarInstructionsS2 (0 : Comb) (1 : Int)) = true ∧ hN.pen = false ∧
      scalarInstructionsS2.combs[(0 : Comb)].hum.active = true) ∧
    (canIssue heldWritesAndTransfersS19 (0 : Comb) = true ∧ fetchBad heldWritesAndTransfersS19 (0 : Comb) = false ∧
      windowFull heldWritesAndTransfersS19.combs[(0 : Comb)].seq (guardOf heldWritesAndTransfersS19 (0 : Comb) hN false) =
      false ∧ inImage heldWritesAndTransfersS19 (0 : Comb) (targetOf heldWritesAndTransfersS19 (0 : Comb) (1 : Int)) =
      true ∧ hN.pen = false ∧ fenceClear heldWritesAndTransfersS19 (0 : Comb) (3 : BitVec 2) = false) := by
  refine ⟨?_, ?_, ?_, ?_, ?_, ?_, ?_, ?_, ?_, ?_, ?_, ?_⟩
  · decide +kernel
  · decide +kernel
  · decide +kernel
  · decide +kernel
  · decide +kernel
  · decide +kernel
  · decide +kernel
  · decide +kernel
  · decide +kernel
  · decide +kernel
  · decide +kernel
  · decide +kernel

theorem test_meets_ProgramsStartAndEnd :
    (startedDesc sC1 (0 : Part) (0 : Sys2Proof.Ring) opCompute = some dC1 ∧ sC1.parts[(0 : Part)].ctx.man = some man1 ∧
      man1.owners.length = 1 ∧ combsMask sC1 (0 : Part) dC1.combMask = [(0 : Comb)] ∧ sC1.combs[(0 : Comb)].seq.running =
      none ∧ sC1.combs[(0 : Comb)].seq.state ≠ (3 : BitVec 2) ∧ findDesc sC1.parts[(0 : Part)].rings[(0 : Sys2Proof.Ring)]
      dC1.idx = some dC1) ∧
    (canIssue sIll (0 : Comb) = true ∧ fetchBad sIll (0 : Comb) = true) ∧
    (sE.combs[(0 : Comb)].seq.ending = true ∧ sE.combs[(0 : Comb)].seq.running = some
      { part := (0 : Part), ring := (0 : Sys2Proof.Ring), idx := dE.idx : RunDesc } ∧ endReady sE (0 : Comb) = true ∧
      sE.combs[(0 : Comb)].seq.waiting = [] ∧ findDesc sE.parts[(0 : Part)].rings[(0 : Sys2Proof.Ring)] dE.idx = some
      dE) ∧
    (programsStartAndEndS6.combs[(0 : Comb)].seq.ending = true ∧ endReady programsStartAndEndS6 (0 : Comb) = false) := by
  refine ⟨?_, ?_, ?_, ?_⟩
  · decide +kernel
  · decide +kernel
  · decide +kernel
  · decide +kernel

theorem test_meets_PredicatesAndSemaphores :
    (canIssue r0 (0 : Comb) = true ∧ fetchBad r0 (0 : Comb) = false ∧ guardOf r0 (0 : Comb) hN false = Guard.run ∧
      windowFull r0.combs[(0 : Comb)].seq Guard.run = false ∧ inImage r0 (0 : Comb) (targetOf r0 (0 : Comb) (1 : Int)) =
      true ∧ (0 : PredIx) = (0 : PredIx)) ∧
    (canIssue predicatesAndSemaphoresS7 (0 : Comb) = true ∧ fetchBad predicatesAndSemaphoresS7 (0 : Comb) = false ∧
      guardOf predicatesAndSemaphoresS7 (0 : Comb) hN false = Guard.run ∧ windowFull predicatesAndSemaphoresS7.combs[(0 :
      Comb)].seq Guard.run = false ∧ inImage predicatesAndSemaphoresS7 (0 : Comb) (targetOf predicatesAndSemaphoresS7 (0 :
      Comb) (1 : Int)) = true ∧ BitVec.getLsbD (6 : BitVec 16) 0 = false ∧ predicatesAndSemaphoresS7.combs[(0 :
      Comb)].seq.preds[(0 : PredIx)] = PState.pending) ∧
    (canIssue r0 (0 : Comb) = true ∧ fetchBad r0 (0 : Comb) = false ∧ guardOf r0 (0 : Comb) hN false = Guard.run ∧
      windowFull r0.combs[(0 : Comb)].seq Guard.run = false ∧ inImage r0 (0 : Comb) (targetOf r0 (0 : Comb) (1 : Int)) =
      true ∧ BitVec.getLsbD (6 : BitVec 16) 0 = false ∧ r0.combs[(0 : Comb)].seq.preds[(0 : PredIx)] ≠ PState.pending ∧
      partOf r0 (0 : Comb) = some (0 : Part) ∧ votesOnFabric r0 (0 : Part) = false) ∧
    (canIssue r0 (0 : Comb) = true ∧ fetchBad r0 (0 : Comb) = false ∧ guardOf r0 (0 : Comb) hN false = Guard.run ∧
      windowFull r0.combs[(0 : Comb)].seq Guard.run = false ∧ inImage r0 (0 : Comb) (targetOf r0 (0 : Comb) (1 : Int)) =
      true ∧ partOf r0 (0 : Comb) = some (0 : Part) ∧ BitVec.toNat (9 : Word) ≤ 4095 ∧ r0.combs[(0 : Comb)].seq.retain =
      []) ∧
    (canIssue predicatesAndSemaphoresS9 (0 : Comb) = true ∧ fetchBad predicatesAndSemaphoresS9 (0 : Comb) = false ∧
      guardOf predicatesAndSemaphoresS9 (0 : Comb) hN false = Guard.run ∧ windowFull predicatesAndSemaphoresS9.combs[(0 :
      Comb)].seq Guard.run = false ∧ inImage predicatesAndSemaphoresS9 (0 : Comb) (targetOf predicatesAndSemaphoresS9 (0 :
      Comb) (1 : Int)) = true ∧ BitVec.toNat (9 : Word) ≤ 4095 ∧ predicatesAndSemaphoresS9.combs[(0 : Comb)].seq.retain ≠
      [] ∧ heldEntries predicatesAndSemaphoresS9.combs[(0 : Comb)].seq < retainEntries) ∧
    (canIssue predicatesAndSemaphoresS8 (0 : Comb) = true ∧ fetchBad predicatesAndSemaphoresS8 (0 : Comb) = false ∧
      guardOf predicatesAndSemaphoresS8 (0 : Comb) hN false = Guard.run ∧ windowFull predicatesAndSemaphoresS8.combs[(0 :
      Comb)].seq Guard.run = false ∧ inImage predicatesAndSemaphoresS8 (0 : Comb) (targetOf predicatesAndSemaphoresS8 (0 :
      Comb) (1 : Int)) = true ∧ partOf predicatesAndSemaphoresS8 (0 : Comb) = some (0 : Part) ∧ BitVec.toNat (9 : Word) ≤
      4095 ∧ predicatesAndSemaphoresS8.combs[(0 : Comb)].seq.wait = none ∧ sreg predicatesAndSemaphoresS8 (0 : Comb) (8 :
      SReg) ≤ semVal predicatesAndSemaphoresS8 (0 : Part) (BitVec.toNat (9 : Word))) ∧
    (canIssue predicatesAndSemaphoresS8 (0 : Comb) = true ∧ fetchBad predicatesAndSemaphoresS8 (0 : Comb) = false ∧
      guardOf predicatesAndSemaphoresS8 (0 : Comb) hN false = Guard.run ∧ windowFull predicatesAndSemaphoresS8.combs[(0 :
      Comb)].seq Guard.run = false ∧ inImage predicatesAndSemaphoresS8 (0 : Comb) (targetOf predicatesAndSemaphoresS8 (0 :
      Comb) (1 : Int)) = true ∧ partOf predicatesAndSemaphoresS8 (0 : Comb) = some (0 : Part) ∧ BitVec.toNat (9 : Word) ≤
      4095 ∧ predicatesAndSemaphoresS8.combs[(0 : Comb)].seq.wait = none ∧ semVal predicatesAndSemaphoresS8 (0 : Part)
      (BitVec.toNat (9 : Word)) = sreg predicatesAndSemaphoresS8 (0 : Comb) (8 : SReg)) ∧
    (canIssue r0 (0 : Comb) = true ∧ fetchBad r0 (0 : Comb) = false ∧ guardOf r0 (0 : Comb) hN false = Guard.run ∧
      windowFull r0.combs[(0 : Comb)].seq Guard.run = false ∧ inImage r0 (0 : Comb) (targetOf r0 (0 : Comb) (1 : Int)) =
      true ∧ partOf r0 (0 : Comb) = some (0 : Part) ∧ BitVec.toNat (9 : Word) ≤ 4095 ∧ r0.combs[(0 : Comb)].seq.wait =
      none ∧ semVal r0 (0 : Part) (BitVec.toNat (9 : Word)) < sreg r0 (0 : Comb) (8 : SReg)) ∧
    (canIssue r0 (0 : Comb) = true ∧ fetchBad r0 (0 : Comb) = false ∧ guardOf r0 (0 : Comb) hN false = Guard.run ∧
      windowFull r0.combs[(0 : Comb)].seq Guard.run = false ∧ inImage r0 (0 : Comb) (targetOf r0 (0 : Comb) (1 : Int)) =
      true ∧ (5 : PredIx) ≠ 0 ∧ r0.combs[(0 : Comb)].seq.preds[(5 : PredIx)] = PState.pending ∧ (3 : BitVec 4).toNat ≤
      3) ∧
    (canIssue r0 (0 : Comb) = true ∧ fetchBad r0 (0 : Comb) = false ∧ guardOf r0 (0 : Comb) hN false = Guard.run ∧
      windowFull r0.combs[(0 : Comb)].seq Guard.run = false ∧ inImage r0 (0 : Comb) (targetOf r0 (0 : Comb) (1 : Int)) =
      true ∧ (15 : PredIx) ≠ 0 ∧ r0.combs[(0 : Comb)].seq.preds[(15 : PredIx)] ≠ PState.pending ∧ partOf r0 (0 : Comb) =
      some (0 : Part)) := by
  refine ⟨?_, ?_, ?_, ?_, ?_, ?_, ?_, ?_, ?_, ?_⟩
  · decide +kernel
  · decide +kernel
  · decide +kernel
  · decide +kernel
  · decide +kernel
  · decide +kernel
  · decide +kernel
  · decide +kernel
  · decide +kernel
  · decide +kernel

def heldWritesAndTransfersV0 : Held := (heldWritesAndTransfersS19.combs[(0 : Comb)].seq.retain).headD ⟨.semOp 0 false 0,
  0, 0, ⟨false, 0, false⟩, 0, false⟩
def heldWritesAndTransfersV1 : Held := (heldWritesAndTransfersS27.combs[(0 : Comb)].seq.retain).headD ⟨.semOp 0 false 0,
  0, 0, ⟨false, 0, false⟩, 0, false⟩
def heldWritesAndTransfersV2 : Held := (heldWritesAndTransfersS21.combs[(0 : Comb)].seq.retain).headD ⟨.semOp 0 false 0,
  0, 0, ⟨false, 0, false⟩, 0, false⟩
def heldWritesAndTransfersV3 : Held := (heldWritesAndTransfersS30.combs[(0 : Comb)].seq.retain).headD ⟨.semOp 0 false 0,
  0, 0, ⟨false, 0, false⟩, 0, false⟩
def heldWritesAndTransfersV4 : Held := (heldWritesAndTransfersS23.combs[(0 : Comb)].seq.retain).headD ⟨.semOp 0 false 0,
  0, 0, ⟨false, 0, false⟩, 0, false⟩
def heldWritesAndTransfersV5 : OutWrite := (heldWritesAndTransfersS27.combs[(0 : Comb)].seq.unacked).headD ⟨false, 0, 0,
  none⟩
def heldWritesAndTransfersV6 : OutWrite := (heldWritesAndTransfersS29.combs[(0 : Comb)].seq.unacked).headD ⟨false, 0, 0,
  none⟩
def heldWritesAndTransfersV7 : Transfer := (heldWritesAndTransfersS24.combs[(0 : Comb)].seq.queues[(1 : Fin 4)]).headD
  ⟨[], 0, ⟨false, 0, false⟩, false, 0⟩
def heldWritesAndTransfersV8 : Transfer := (heldWritesAndTransfersS32.combs[(0 : Comb)].seq.queues[(1 : Fin 4)]).headD
  ⟨[], 0, ⟨false, 0, false⟩, false, 0⟩
def heldWritesAndTransfersV9 : Transfer := (heldWritesAndTransfersS33.combs[(0 : Comb)].seq.queues[(1 : Fin 4)]).headD
  ⟨[], 0, ⟨false, 0, false⟩, false, 0⟩
def heldWritesAndTransfersV10 : MemErr := ((readSrc (0 : Comb) (0 : Part) (decodeXfer heldWritesAndTransfersV9.block) [(1
  : Byte), (2 : Byte), (3 : Byte), (4 : Byte), (5 : Byte), (6 : Byte), (7 : Byte), (8 : Byte)]
  (heldWritesAndTransfersS33.modSeq (0 : Comb) fun (q : Machine.Seq) =>
  { q with queues := upd q.queues (1 : Fin 4) fun (_ : List Transfer) => heldWritesAndTransfersS33.combs[(0 : Comb)].seq.queues[(1 : Fin 4)].tail })).2.2).getD
  .gone

theorem test_meets_HeldWritesAndTransfers :
    (canIssue cq (0 : Comb) = true ∧ fetchBad cq (0 : Comb) = false ∧ guardOf cq (0 : Comb) hN true = Guard.run ∧
      windowFull cq.combs[(0 : Comb)].seq Guard.run = false ∧ inImage cq (0 : Comb) (targetOf cq (0 : Comb) (1 : Int)) =
      true ∧ cellCheck (0 : Comb) (BitVec.toNat (sreg cq (0 : Comb) (8 : SReg))) (BitVec.toNat (sreg cq (0 : Comb) (9 :
      SReg))) cq = Block.none) ∧
    (canIssue cq (0 : Comb) = true ∧ fetchBad cq (0 : Comb) = false ∧ guardOf cq (0 : Comb) hN true = Guard.run ∧
      windowFull cq.combs[(0 : Comb)].seq Guard.run = false ∧ inImage cq (0 : Comb) (targetOf cq (0 : Comb) (1 : Int)) =
      true ∧ hildCheck (0 : Comb) (sreg cq (0 : Comb) (8 : SReg)) (sreg cq (0 : Comb) (9 : SReg)) (BitVec.toNat (4091 :
      BitVec 12)) cq = Block.none) ∧
    (canIssue heldWritesAndTransfersS15 (0 : Comb) = true ∧ fetchBad heldWritesAndTransfersS15 (0 : Comb) = false ∧
      guardOf heldWritesAndTransfersS15 (0 : Comb) hN true = Guard.run ∧ windowFull heldWritesAndTransfersS15.combs[(0 :
      Comb)].seq Guard.run = false ∧ inImage heldWritesAndTransfersS15 (0 : Comb) (targetOf heldWritesAndTransfersS15 (0 :
      Comb) (1 : Int)) = true ∧ partOf heldWritesAndTransfersS15 (0 : Comb) = some (0 : Part) ∧ moveFault (0 : Comb) (0 :
      Part) (BitVec.toNat (sreg heldWritesAndTransfersS15 (0 : Comb) (8 : SReg))) heldWritesAndTransfersS15 = Block.none ∧
      moveStall (0 : Comb) (0 : Part) hN (decodeXfer (combRead heldWritesAndTransfersS15 (0 : Comb) (BitVec.toNat (sreg
      heldWritesAndTransfersS15 (0 : Comb) (8 : SReg))) 64)) (2 : Fin 4) heldWritesAndTransfersS15 = Block.none ∧
      (decodeXfer (combRead heldWritesAndTransfersS15 (0 : Comb) (BitVec.toNat (sreg heldWritesAndTransfersS15 (0 : Comb)
      (8 : SReg))) 64)).dstSpace ≠ 5 ∧ heldWritesAndTransfersS15.combs[(0 : Comb)].seq.retain = []) ∧
    (cq.combs[(0 : Comb)].seq.unacked = []) ∧
    ((5 : PredIx) ≠ (0 : PredIx) ∧ resolution heldWritesAndTransfersS17 (0 : Comb) (5 : PredIx) = some (1 : Bool) ∧
      heldWritesAndTransfersS17.combs[(0 : Comb)].seq.arms[(0 : PredIx)] = Arm.none ∧ (∀ (u : Super),
      heldWritesAndTransfersS17.supers[u].hild.queue = [] ∧ heldWritesAndTransfersS17.supers[u].hild.cur = none)) ∧
    (partOf vo (0 : Comb) = some (0 : Part) ∧ votesOnFabric vo (0 : Part) = false ∧ Machine.sizeOf vo (0 : Part) ≤
      vo.parts[(0 : Part)].votes.length) ∧
    (heldWritesAndTransfersS19.combs[(0 : Comb)].seq.retain = heldWritesAndTransfersV0 ::
      heldWritesAndTransfersS19.combs[(0 : Comb)].seq.retain.tail ∧ partOf heldWritesAndTransfersS19 (0 : Comb) = some (0
      : Part) ∧ heldWritesAndTransfersV0.spec.pen = false ∧ heldWritesAndTransfersV0.filled = true ∧
      heldWritesAndTransfersS19.combs[(0 : Comb)].seq.state ≠ (3 : BitVec 2) ∧ heldWritesAndTransfersV0.kind =
      HeldKind.semOp 9 true (4 : DWord) ∧ (∀ w ∈ heldWritesAndTransfersS19.combs[(0 : Comb)].seq.unacked, w.held = none) ∧
      heldFlits heldWritesAndTransfersS19 (0 : Comb) = []) ∧
    (heldWritesAndTransfersS27.combs[(0 : Comb)].seq.retain = heldWritesAndTransfersV1 ::
      heldWritesAndTransfersS27.combs[(0 : Comb)].seq.retain.tail ∧ partOf heldWritesAndTransfersS27 (0 : Comb) = some (0
      : Part) ∧ heldWritesAndTransfersV1.spec.pen = false ∧ heldWritesAndTransfersV1.filled = true ∧
      heldWritesAndTransfersS27.combs[(0 : Comb)].seq.state ≠ (3 : BitVec 2) ∧ heldWritesAndTransfersV1.kind =
      HeldKind.semOp 9 true (4 : DWord) ∧ ((∃ w ∈ heldWritesAndTransfersS27.combs[(0 : Comb)].seq.unacked, w.held ≠ none)
      ∨ heldFlits heldWritesAndTransfersS27 (0 : Comb) ≠ [])) ∧
    (heldWritesAndTransfersS21.combs[(0 : Comb)].seq.retain = heldWritesAndTransfersV2 ::
      heldWritesAndTransfersS21.combs[(0 : Comb)].seq.retain.tail ∧ partOf heldWritesAndTransfersS21 (0 : Comb) = some (0
      : Part) ∧ heldWritesAndTransfersV2.spec.pen = false ∧ heldWritesAndTransfersV2.filled = true ∧
      heldWritesAndTransfersS21.combs[(0 : Comb)].seq.state ≠ (3 : BitVec 2) ∧ heldWritesAndTransfersV2.kind =
      HeldKind.host (64 : DWord) [(1 : Byte), (2 : Byte)] false 0) ∧
    (heldWritesAndTransfersS30.combs[(0 : Comb)].seq.retain = heldWritesAndTransfersV3 ::
      heldWritesAndTransfersS30.combs[(0 : Comb)].seq.retain.tail ∧ partOf heldWritesAndTransfersS30 (0 : Comb) = some (0
      : Part) ∧ heldWritesAndTransfersV3.spec.pen = false ∧ heldWritesAndTransfersV3.filled = true ∧
      heldWritesAndTransfersS30.combs[(0 : Comb)].seq.state ≠ (3 : BitVec 2) ∧ heldWritesAndTransfersV3.kind =
      HeldKind.flits 0 512 true [([(1 : Byte), (2 : Byte)], 2)] ∧ flowOf heldWritesAndTransfersS30 (0 : Part) (0 : Comb) 0
      = some flow1) ∧
    (heldWritesAndTransfersS23.combs[(0 : Comb)].seq.retain = heldWritesAndTransfersV4 ::
      heldWritesAndTransfersS23.combs[(0 : Comb)].seq.retain.tail ∧ partOf heldWritesAndTransfersS23 (0 : Comb) = some (0
      : Part) ∧ heldWritesAndTransfersV4.spec.pen = false ∧ heldWritesAndTransfersV4.filled = true ∧
      heldWritesAndTransfersS23.combs[(0 : Comb)].seq.state ≠ (3 : BitVec 2) ∧ heldWritesAndTransfersV4.kind =
      HeldKind.ppa 64 [(1 : Byte), (2 : Byte)]) ∧
    (heldWritesAndTransfersS27.combs[(0 : Comb)].seq.unacked = heldWritesAndTransfersV5 ::
      heldWritesAndTransfersS27.combs[(0 : Comb)].seq.unacked.tail ∧ (heldWritesAndTransfersV5.host = false ∨ ∀ (p :
      Part), partOf heldWritesAndTransfersS27 (0 : Comb) = some p → postWaits heldWritesAndTransfersS27 (fnOf p) =
      false)) ∧
    (heldWritesAndTransfersS29.combs[(0 : Comb)].seq.unacked = heldWritesAndTransfersV6 ::
      heldWritesAndTransfersS29.combs[(0 : Comb)].seq.unacked.tail ∧ heldWritesAndTransfersV6.host = true ∧ partOf
      heldWritesAndTransfersS29 (0 : Comb) = some (0 : Part) ∧ postWaits heldWritesAndTransfersS29 (fnOf (0 : Part)) =
      true) ∧
    (heldWritesAndTransfersS24.combs[(0 : Comb)].seq.queues[(1 : Fin 4)] = heldWritesAndTransfersV7 ::
      heldWritesAndTransfersS24.combs[(0 : Comb)].seq.queues[(1 : Fin 4)].tail ∧ partOf heldWritesAndTransfersS24 (0 :
      Comb) = some (0 : Part) ∧ heldWritesAndTransfersS24.combs[(0 : Comb)].seq.state ≠ (3 : BitVec 2) ∧
      heldWritesAndTransfersS24.combs[(0 : Comb)].seq.running.isSome = true ∧ (decodeXfer
      heldWritesAndTransfersV7.block).srcSpace = 2 ∧ (decodeXfer heldWritesAndTransfersV7.block).dstSpace = 2 ∧
      (decodeXfer heldWritesAndTransfersV7.block).rows = 1 ∧ (decodeXfer heldWritesAndTransfersV7.block).src < 2 ^ 64 ∧
      (decodeXfer heldWritesAndTransfersV7.block).dst < 2 ^ 64 ∧ (decodeXfer heldWritesAndTransfersV7.block).semEn = false
      ∧ heldWritesAndTransfersV7.held = false ∧ 0 < (decodeXfer heldWritesAndTransfersV7.block).rowBytes) ∧
    (heldWritesAndTransfersS32.combs[(0 : Comb)].seq.queues[(1 : Fin 4)] = heldWritesAndTransfersV8 ::
      heldWritesAndTransfersS32.combs[(0 : Comb)].seq.queues[(1 : Fin 4)].tail ∧ partOf heldWritesAndTransfersS32 (0 :
      Comb) = some (0 : Part) ∧ heldWritesAndTransfersS32.combs[(0 : Comb)].seq.state ≠ (3 : BitVec 2) ∧
      heldWritesAndTransfersS32.combs[(0 : Comb)].seq.running.isSome = true ∧ (overlapsHeld
      heldWritesAndTransfersS32.combs[(0 : Comb)].seq heldWritesAndTransfersV8 (decodeXfer heldWritesAndTransfersV8.block)
      = true ∨ xferServed heldWritesAndTransfersS32 (0 : Comb) (0 : Part) heldWritesAndTransfersV8 (decodeXfer
      heldWritesAndTransfersV8.block) = false)) ∧
    (heldWritesAndTransfersS24.combs[(0 : Comb)].seq.queues[(1 : Fin 4)] = heldWritesAndTransfersV7 ::
      heldWritesAndTransfersS24.combs[(0 : Comb)].seq.queues[(1 : Fin 4)].tail ∧ partOf heldWritesAndTransfersS24 (0 :
      Comb) = some (0 : Part) ∧ heldWritesAndTransfersS24.combs[(0 : Comb)].seq.state ≠ (3 : BitVec 2) ∧
      heldWritesAndTransfersS24.combs[(0 : Comb)].seq.running.isSome = true ∧ overlapsHeld
      heldWritesAndTransfersS24.combs[(0 : Comb)].seq heldWritesAndTransfersV7 (decodeXfer heldWritesAndTransfersV7.block)
      = false ∧ xferServed heldWritesAndTransfersS24 (0 : Comb) (0 : Part) heldWritesAndTransfersV7 (decodeXfer
      heldWritesAndTransfersV7.block) = true ∧ ((decodeXfer heldWritesAndTransfersV7.block).srcSpace = 0 → [(1 : Byte), (2
      : Byte), (3 : Byte), (4 : Byte), (5 : Byte), (6 : Byte), (7 : Byte), (8 : Byte)].length = (decodeXfer
      heldWritesAndTransfersV7.block).total) ∧ readSrc (0 : Comb) (0 : Part) (decodeXfer heldWritesAndTransfersV7.block)
      [(1 : Byte), (2 : Byte), (3 : Byte), (4 : Byte), (5 : Byte), (6 : Byte), (7 : Byte), (8 : Byte)]
      (heldWritesAndTransfersS24.modSeq (0 : Comb) fun (q : Machine.Seq) =>
      { q with queues := upd q.queues (1 : Fin 4) fun (_ : List Transfer) => heldWritesAndTransfersS24.combs[(0 : Comb)].seq.queues[(1 : Fin 4)].tail })
      = ((readSrc (0 : Comb) (0 : Part) (decodeXfer heldWritesAndTransfersV7.block) [(1 : Byte), (2 : Byte), (3 : Byte),
      (4 : Byte), (5 : Byte), (6 : Byte), (7 : Byte), (8 : Byte)] (heldWritesAndTransfersS24.modSeq (0 : Comb) fun (q :
      Machine.Seq) =>
      { q with queues := upd q.queues (1 : Fin 4) fun (_ : List Transfer) => heldWritesAndTransfersS24.combs[(0 : Comb)].seq.queues[(1 : Fin 4)].tail })).1,
      (readSrc (0 : Comb) (0 : Part) (decodeXfer heldWritesAndTransfersV7.block) [(1 : Byte), (2 : Byte), (3 : Byte), (4 :
      Byte), (5 : Byte), (6 : Byte), (7 : Byte), (8 : Byte)] (heldWritesAndTransfersS24.modSeq (0 : Comb) fun (q :
      Machine.Seq) =>
      { q with queues := upd q.queues (1 : Fin 4) fun (_ : List Transfer) => heldWritesAndTransfersS24.combs[(0 : Comb)].seq.queues[(1 : Fin 4)].tail })).2.1,
      none)) ∧
    (heldWritesAndTransfersS33.combs[(0 : Comb)].seq.queues[(1 : Fin 4)] = heldWritesAndTransfersV9 ::
      heldWritesAndTransfersS33.combs[(0 : Comb)].seq.queues[(1 : Fin 4)].tail ∧ partOf heldWritesAndTransfersS33 (0 :
      Comb) = some (0 : Part) ∧ heldWritesAndTransfersS33.combs[(0 : Comb)].seq.state ≠ (3 : BitVec 2) ∧
      heldWritesAndTransfersS33.combs[(0 : Comb)].seq.running.isSome = true ∧ overlapsHeld
      heldWritesAndTransfersS33.combs[(0 : Comb)].seq heldWritesAndTransfersV9 (decodeXfer heldWritesAndTransfersV9.block)
      = false ∧ xferServed heldWritesAndTransfersS33 (0 : Comb) (0 : Part) heldWritesAndTransfersV9 (decodeXfer
      heldWritesAndTransfersV9.block) = true ∧ ((decodeXfer heldWritesAndTransfersV9.block).srcSpace = 0 → [(1 : Byte), (2
      : Byte), (3 : Byte), (4 : Byte), (5 : Byte), (6 : Byte), (7 : Byte), (8 : Byte)].length = (decodeXfer
      heldWritesAndTransfersV9.block).total) ∧ heldWritesAndTransfersV10 ≠ MemErr.gone ∧ readSrc (0 : Comb) (0 : Part)
      (decodeXfer heldWritesAndTransfersV9.block) [(1 : Byte), (2 : Byte), (3 : Byte), (4 : Byte), (5 : Byte), (6 : Byte),
      (7 : Byte), (8 : Byte)] (heldWritesAndTransfersS33.modSeq (0 : Comb) fun (q : Machine.Seq) =>
      { q with queues := upd q.queues (1 : Fin 4) fun (_ : List Transfer) => heldWritesAndTransfersS33.combs[(0 : Comb)].seq.queues[(1 : Fin 4)].tail })
      = ((readSrc (0 : Comb) (0 : Part) (decodeXfer heldWritesAndTransfersV9.block) [(1 : Byte), (2 : Byte), (3 : Byte),
      (4 : Byte), (5 : Byte), (6 : Byte), (7 : Byte), (8 : Byte)] (heldWritesAndTransfersS33.modSeq (0 : Comb) fun (q :
      Machine.Seq) =>
      { q with queues := upd q.queues (1 : Fin 4) fun (_ : List Transfer) => heldWritesAndTransfersS33.combs[(0 : Comb)].seq.queues[(1 : Fin 4)].tail })).1,
      (readSrc (0 : Comb) (0 : Part) (decodeXfer heldWritesAndTransfersV9.block) [(1 : Byte), (2 : Byte), (3 : Byte), (4 :
      Byte), (5 : Byte), (6 : Byte), (7 : Byte), (8 : Byte)] (heldWritesAndTransfersS33.modSeq (0 : Comb) fun (q :
      Machine.Seq) =>
      { q with queues := upd q.queues (1 : Fin 4) fun (_ : List Transfer) => heldWritesAndTransfersS33.combs[(0 : Comb)].seq.queues[(1 : Fin 4)].tail })).2.1,
      some heldWritesAndTransfersV10)) := by
  refine ⟨?_, ?_, ?_, ?_, ?_, ?_, ?_, ?_, ?_, ?_, ?_, ?_, ?_, ?_, ?_, ?_, ?_⟩
  · decide +kernel
  · decide +kernel
  · decide +kernel
  · decide +kernel
  · decide +kernel
  · decide +kernel
  · decide +kernel
  · decide +kernel
  · decide +kernel
  · decide +kernel
  · decide +kernel
  · decide +kernel
  · decide +kernel
  · decide +kernel
  · decide +kernel
  · decide +kernel
  · decide +kernel

end SeqTests

namespace CellTests

def blk (fs : List (Nat × Nat × Nat)) : Bytes := fs.foldl (fun b f => b.take f.1 ++ leBytes f.2.1 f.2.2 ++ b.drop (f.1 + f.2.1)) (List.replicate 128 0)
def cellS (b : OpBlock) (c : Nat := 2) : State := rich.modCell 0 (Fin.ofNat 21 c) fun x => { x with
   queue := [b, b], running := [], store := (List.range 40).map fun i => (2 * i + 1, BitVec.ofNat 8 (i * 7 + 0x31)), vregs := (List.range 9).map fun i => (4096 * i, w32 (i + 1)), stats := (List.range 16).map fun i => (i, w32 (0x3F800000 + i)) }
def ob (fs : List (Nat × Nat × Nat)) : OpBlock := ⟨blk fs, 64, 3⟩
def bU := ob [(0, 1, 3)]
def cellOperationsS1 : State := cellS bU
def bMM := ob [(0,1,0),(1,1,1),(16,2,3),(18,2,3),(20,2,2),(22,1,0x00),(23,1,0x04),(28,4,0x3F800000),(32,4,0),(36,4,0x10000),(40,4,0x20000)]
def cellOperationsS3 : State := cellS bMM
def bBP := ob [(0,1,0),(1,1,2),(16,2,3),(18,2,3),(20,2,2),(22,1,0x00),(23,1,0),(24,1,0),(28,4,0x3F800000),(32,4,0x3F800000),(36,4,0),(40,4,0x10000),(44,4,0x20000),(48,4,0x30000),(52,4,0x40000),(56,4,0x60000)]
def cellOperationsS4 : State := cellS bBP
def bVP := ob [(0,1,1),(1,1,1),(16,2,3),(18,2,2),(20,1,1),(64,8,0x10 + 256 * 1)]
def cellOperationsS5 : State := cellS bVP
def rw (op : Nat) (l : List (Nat × Nat × Nat)) := ob ([(0,1,2),(1,1,op),(16,2,2),(18,2,5),(20,1,0x02),(22,2,2),(24,4,0)] ++ l)
def outsL : List (Nat × Nat × Nat) := [(28,4,0x40000),(20,1,0x42),(56,4,0x3F800000)]
def b1 := rw 1 (outsL ++ [(52,4,0x3727C5AC)])
def cellOperationsS6 : State := cellS b1
def b2 := rw 2 (outsL ++ [(52,4,0x3727C5AC)])
def cellOperationsS7 : State := cellS b2
def b3 := rw 3 (outsL ++ [(36,4,0x80000)])
def cellOperationsS8 : State := cellS b3
def b4 := rw 4 (outsL ++ [(36,4,0x80000)])
def cellOperationsS9 : State := cellS b4
def b5 := rw 5 (outsL ++ [(48,4,0x3F800000)])
def cellOperationsS10 : State := cellS b5
def b6 := rw 6 ([])
def cellOperationsS11 : State := cellS b6
def b7 := rw 7 (outsL ++ [(36,4,0x80000)])
def cellOperationsS12 : State := cellS b7
def b8 := rw 8 (outsL ++ [(36,4,0)])
def cellOperationsS13 : State := cellS b8
def b9 := rw 9 ([(36,4,0x80000)])
def cellOperationsS14 : State := cellS b9
def b10 := rw 10 (outsL ++ [(36,4,0x80000)])
def cellOperationsS15 : State := cellS b10
def b11 := rw 11 ([(36,4,0x80000),(76,2,1)])
def cellOperationsS16 : State := cellS b11
def b12 := rw 12 (outsL ++ [(76,2,2)])
def cellOperationsS18 : State := cellS b12
def attnS (b : OpBlock) : State := (cellS b).modCell 0 2 fun c => { c with store := memWrite c.store 0x20000 (leBytes 4 0x30000 ++ leBytes 4 0x40000 ++ leBytes 4 0 ++ leBytes 1 3) }
def b16 := ob [(0,1,2),(1,1,16),(16,2,2),(18,2,3),(20,2,1),(23,1,1),(36,4,0x20000),(56,4,0x3F800000)]
def cellOperationsS19 : State := attnS b16
def runS : State := (cellS b1).modCell 0 2 fun c => { c with running := [⟨.array, b1, [], [(70000, [1,2])]⟩, ⟨.row, b1, [], []⟩] }
def lastS : State := (rich.modCell 0 2 fun c => { c with running := [⟨.array, b1, [], [(70000, [1,2])]⟩] }).modSeq 0 fun q => { q with preds := q.preds.set 7 .pending, arms := q.arms.set 7 (.finite 5), finite := true }
def lastH : State := { lastS with supers := lastS.supers.map fun u => { u with hild := { u.hild with queue := [], cur := none } } }
def swS : State := rich.modComb 0 fun c => { c with cellRegs := { c.cellRegs with swapping := some 19 } }
def rg (st : BitVec 2) (f : Nat) : State := rich.modComb 0 fun c => { c with rng := { c.rng with state := st, fails := f } }
def cellFaultsEntropyAndClipS22 : State := rg 0 2
def cellFaultsEntropyAndClipS28 : State := { rich with boot := { rich.boot with stage := 4, kind := .cold } }
def recC : Recovery := { domain := 2, unit := 0, combs := [0], supers := [], cause1 := 0xFF, frame := 0 }
def cellFaultsEntropyAndClipS29 : State := swS.modPart 0 fun q => { q with recov := [recC], stopped := true }
def goodRaw : BitVec 4096 := BitVec.ofNat 4096 ((2 ^ 4096 - 1) / 3)
def vS : State := cellS bVP
def vx (n : Nat) (tz : Bool) (it : Nat) : VCtx := ⟨0, 2, n, tz, it⟩
def ma (a : Nat) (cs : Bool) (fmt : BitVec 3) (r : BitVec 2) (raw : Bool) (acc : BitVec 2) : MemArg := ⟨a, cs, fmt, r, raw, acc⟩
def ixS : State := vS.modCell 0 2 fun c => { c with vregs := (List.range 5).map (fun i => (4096 * 8 + i, w32 (3 * i))) ++ (List.range 9).map fun i => (4096 * 10 + i, w32 (0x3F800000 + 8 * i)) }
def rg5 (e : Nat) : Word := tabGet 0 (ixS.combs[(vx 5 true 0).comb].cells[vecCell (vx 5 true 0) ixS]).vregs (4096 * (8 : VReg).val + e)

def cellOperationsV0 : OpBlock := ((headOp (⟨0, 2⟩ : At) cellOperationsS1)).getD ⟨[], 0, 0⟩
def cellOperationsV1 : OpBlock := ((headOp (⟨0, 2⟩ : At) cellOperationsS3)).getD ⟨[], 0, 0⟩
def cellOperationsV2 : OpBlock := ((headOp (⟨0, 2⟩ : At) cellOperationsS4)).getD ⟨[], 0, 0⟩
def cellOperationsV3 : OpBlock := ((headOp (⟨0, 2⟩ : At) cellOperationsS5)).getD ⟨[], 0, 0⟩
def cellOperationsV4 : OpBlock := ((headOp (⟨0, 2⟩ : At) cellOperationsS19)).getD ⟨[], 0, 0⟩
def cellOperationsV5 : OpBlock := ((headOp (⟨0, 2⟩ : At) cellOperationsS6)).getD ⟨[], 0, 0⟩
def cellOperationsV6 : OpBlock := ((headOp (⟨0, 2⟩ : At) cellOperationsS15)).getD ⟨[], 0, 0⟩
def cellOperationsV7 : OpBlock := ((headOp (⟨0, 2⟩ : At) cellOperationsS16)).getD ⟨[], 0, 0⟩
def cellOperationsV8 : OpBlock := ((headOp (⟨0, 2⟩ : At) cellOperationsS18)).getD ⟨[], 0, 0⟩
def cellOperationsV9 : OpBlock := ((headOp (⟨0, 2⟩ : At) cellOperationsS7)).getD ⟨[], 0, 0⟩
def cellOperationsV10 : OpBlock := ((headOp (⟨0, 2⟩ : At) cellOperationsS8)).getD ⟨[], 0, 0⟩
def cellOperationsV11 : OpBlock := ((headOp (⟨0, 2⟩ : At) cellOperationsS9)).getD ⟨[], 0, 0⟩
def cellOperationsV12 : OpBlock := ((headOp (⟨0, 2⟩ : At) cellOperationsS10)).getD ⟨[], 0, 0⟩
def cellOperationsV13 : OpBlock := ((headOp (⟨0, 2⟩ : At) cellOperationsS11)).getD ⟨[], 0, 0⟩
def cellOperationsV14 : OpBlock := ((headOp (⟨0, 2⟩ : At) cellOperationsS12)).getD ⟨[], 0, 0⟩
def cellOperationsV15 : OpBlock := ((headOp (⟨0, 2⟩ : At) cellOperationsS13)).getD ⟨[], 0, 0⟩
def cellOperationsV16 : OpBlock := ((headOp (⟨0, 2⟩ : At) cellOperationsS14)).getD ⟨[], 0, 0⟩

theorem test_meets_CellOperations :
    (headOp (⟨0, 2⟩ : At) cellOperationsS1 = some cellOperationsV0 ∧ opKnown cellOperationsV0.bytes = false) ∧
    (headOp (⟨0, 2⟩ : At) cellOperationsS3 = some cellOperationsV1 ∧ opHeaderOk cellOperationsV1.bytes = true ∧ opEngine
      cellOperationsV1.bytes = 0 ∧ mayStart Engine.array cellOperationsV1 cellOperationsS3.combs[(⟨0, 2⟩ :
      At).comb].cells[physCell cellOperationsS3 (⟨0, 2⟩ : At).comb (⟨0, 2⟩ : At).cell] = true ∧ opCode
      cellOperationsV1.bytes = 1 ∧ mmCheck cellOperationsS3.combs[(⟨0, 2⟩ : At).comb].cells[physCell cellOperationsS3 (⟨0,
      2⟩ : At).comb (⟨0, 2⟩ : At).cell].store cellOperationsV1.bytes = none) ∧
    (headOp (⟨0, 2⟩ : At) cellOperationsS4 = some cellOperationsV2 ∧ opHeaderOk cellOperationsV2.bytes = true ∧ opEngine
      cellOperationsV2.bytes = 0 ∧ mayStart Engine.array cellOperationsV2 cellOperationsS4.combs[(⟨0, 2⟩ :
      At).comb].cells[physCell cellOperationsS4 (⟨0, 2⟩ : At).comb (⟨0, 2⟩ : At).cell] = true ∧ opCode
      cellOperationsV2.bytes = 2 ∧ bpCheck cellOperationsV2.bytes = none) ∧
    (headOp (⟨0, 2⟩ : At) cellOperationsS5 = some cellOperationsV3 ∧ opHeaderOk cellOperationsV3.bytes = true ∧ opEngine
      cellOperationsV3.bytes = 1 ∧ mayStart Engine.vector cellOperationsV3 cellOperationsS5.combs[(⟨0, 2⟩ :
      At).comb].cells[physCell cellOperationsS5 (⟨0, 2⟩ : At).comb (⟨0, 2⟩ : At).cell] = true ∧ opCode
      cellOperationsV3.bytes = 1 ∧ vpCheck cellOperationsS5 (physCell cellOperationsS5 (⟨0, 2⟩ : At).comb (⟨0, 2⟩ :
      At).cell) cellOperationsV3.bytes = none ∧ (vecList (vpSteps (⟨0, 2⟩ : At) cellOperationsV3.bytes) (holdOp (⟨0, 2⟩ :
      At) Engine.vector cellOperationsV3 [] [] cellOperationsS5) []).1.bad = none) ∧
    (headOp (⟨0, 2⟩ : At) cellOperationsS19 = some cellOperationsV4 ∧ opHeaderOk cellOperationsV4.bytes = true ∧ opEngine
      cellOperationsV4.bytes = 2 ∧ mayStart Engine.row cellOperationsV4 cellOperationsS19.combs[(⟨0, 2⟩ :
      At).comb].cells[physCell cellOperationsS19 (⟨0, 2⟩ : At).comb (⟨0, 2⟩ : At).cell] = true ∧ opCode
      cellOperationsV4.bytes = 16 ∧ atCheck cellOperationsS19.combs[(⟨0, 2⟩ : At).comb].cells[physCell cellOperationsS19
      (⟨0, 2⟩ : At).comb (⟨0, 2⟩ : At).cell].store cellOperationsV4.bytes = none) ∧
    (headOp (⟨0, 2⟩ : At) cellOperationsS6 = some cellOperationsV5 ∧ opHeaderOk cellOperationsV5.bytes = true ∧ opEngine
      cellOperationsV5.bytes = 2 ∧ mayStart Engine.row cellOperationsV5 cellOperationsS6.combs[(⟨0, 2⟩ :
      At).comb].cells[physCell cellOperationsS6 (⟨0, 2⟩ : At).comb (⟨0, 2⟩ : At).cell] = true ∧ rwCheck 0
      cellOperationsV5.bytes = none ∧ opCode cellOperationsV5.bytes = 1) ∧
    (headOp (⟨0, 2⟩ : At) cellOperationsS15 = some cellOperationsV6 ∧ opHeaderOk cellOperationsV6.bytes = true ∧ opEngine
      cellOperationsV6.bytes = 2 ∧ mayStart Engine.row cellOperationsV6 cellOperationsS15.combs[(⟨0, 2⟩ :
      At).comb].cells[physCell cellOperationsS15 (⟨0, 2⟩ : At).comb (⟨0, 2⟩ : At).cell] = true ∧ rwCheck 0
      cellOperationsV6.bytes = none ∧ opCode cellOperationsV6.bytes = 10) ∧
    (headOp (⟨0, 2⟩ : At) cellOperationsS16 = some cellOperationsV7 ∧ opHeaderOk cellOperationsV7.bytes = true ∧ opEngine
      cellOperationsV7.bytes = 2 ∧ mayStart Engine.row cellOperationsV7 cellOperationsS16.combs[(⟨0, 2⟩ :
      At).comb].cells[physCell cellOperationsS16 (⟨0, 2⟩ : At).comb (⟨0, 2⟩ : At).cell] = true ∧ rwCheck 0
      cellOperationsV7.bytes = none ∧ opCode cellOperationsV7.bytes = 11) ∧
    (headOp (⟨0, 2⟩ : At) cellOperationsS18 = some cellOperationsV8 ∧ opHeaderOk cellOperationsV8.bytes = true ∧ opEngine
      cellOperationsV8.bytes = 2 ∧ mayStart Engine.row cellOperationsV8 cellOperationsS18.combs[(⟨0, 2⟩ :
      At).comb].cells[physCell cellOperationsS18 (⟨0, 2⟩ : At).comb (⟨0, 2⟩ : At).cell] = true ∧ rwCheck 0
      cellOperationsV8.bytes = none ∧ opCode cellOperationsV8.bytes = 12) ∧
    (headOp (⟨0, 2⟩ : At) cellOperationsS7 = some cellOperationsV9 ∧ opHeaderOk cellOperationsV9.bytes = true ∧ opEngine
      cellOperationsV9.bytes = 2 ∧ mayStart Engine.row cellOperationsV9 cellOperationsS7.combs[(⟨0, 2⟩ :
      At).comb].cells[physCell cellOperationsS7 (⟨0, 2⟩ : At).comb (⟨0, 2⟩ : At).cell] = true ∧ rwCheck 0
      cellOperationsV9.bytes = none ∧ opCode cellOperationsV9.bytes = 2) ∧
    (headOp (⟨0, 2⟩ : At) cellOperationsS8 = some cellOperationsV10 ∧ opHeaderOk cellOperationsV10.bytes = true ∧ opEngine
      cellOperationsV10.bytes = 2 ∧ mayStart Engine.row cellOperationsV10 cellOperationsS8.combs[(⟨0, 2⟩ :
      At).comb].cells[physCell cellOperationsS8 (⟨0, 2⟩ : At).comb (⟨0, 2⟩ : At).cell] = true ∧ rwCheck 0
      cellOperationsV10.bytes = none ∧ opCode cellOperationsV10.bytes = 3) ∧
    (headOp (⟨0, 2⟩ : At) cellOperationsS9 = some cellOperationsV11 ∧ opHeaderOk cellOperationsV11.bytes = true ∧ opEngine
      cellOperationsV11.bytes = 2 ∧ mayStart Engine.row cellOperationsV11 cellOperationsS9.combs[(⟨0, 2⟩ :
      At).comb].cells[physCell cellOperationsS9 (⟨0, 2⟩ : At).comb (⟨0, 2⟩ : At).cell] = true ∧ rwCheck 0
      cellOperationsV11.bytes = none ∧ opCode cellOperationsV11.bytes = 4) ∧
    (headOp (⟨0, 2⟩ : At) cellOperationsS10 = some cellOperationsV12 ∧ opHeaderOk cellOperationsV12.bytes = true ∧
      opEngine cellOperationsV12.bytes = 2 ∧ mayStart Engine.row cellOperationsV12 cellOperationsS10.combs[(⟨0, 2⟩ :
      At).comb].cells[physCell cellOperationsS10 (⟨0, 2⟩ : At).comb (⟨0, 2⟩ : At).cell] = true ∧ rwCheck 0
      cellOperationsV12.bytes = none ∧ opCode cellOperationsV12.bytes = 5) ∧
    (headOp (⟨0, 2⟩ : At) cellOperationsS11 = some cellOperationsV13 ∧ opHeaderOk cellOperationsV13.bytes = true ∧
      opEngine cellOperationsV13.bytes = 2 ∧ mayStart Engine.row cellOperationsV13 cellOperationsS11.combs[(⟨0, 2⟩ :
      At).comb].cells[physCell cellOperationsS11 (⟨0, 2⟩ : At).comb (⟨0, 2⟩ : At).cell] = true ∧ rwCheck 0
      cellOperationsV13.bytes = none ∧ opCode cellOperationsV13.bytes = 6) ∧
    (headOp (⟨0, 2⟩ : At) cellOperationsS12 = some cellOperationsV14 ∧ opHeaderOk cellOperationsV14.bytes = true ∧
      opEngine cellOperationsV14.bytes = 2 ∧ mayStart Engine.row cellOperationsV14 cellOperationsS12.combs[(⟨0, 2⟩ :
      At).comb].cells[physCell cellOperationsS12 (⟨0, 2⟩ : At).comb (⟨0, 2⟩ : At).cell] = true ∧ rwCheck 0
      cellOperationsV14.bytes = none ∧ opCode cellOperationsV14.bytes = 7) ∧
    (headOp (⟨0, 2⟩ : At) cellOperationsS13 = some cellOperationsV15 ∧ opHeaderOk cellOperationsV15.bytes = true ∧
      opEngine cellOperationsV15.bytes = 2 ∧ mayStart Engine.row cellOperationsV15 cellOperationsS13.combs[(⟨0, 2⟩ :
      At).comb].cells[physCell cellOperationsS13 (⟨0, 2⟩ : At).comb (⟨0, 2⟩ : At).cell] = true ∧ rwCheck 0
      cellOperationsV15.bytes = none ∧ opCode cellOperationsV15.bytes = 8) ∧
    (headOp (⟨0, 2⟩ : At) cellOperationsS14 = some cellOperationsV16 ∧ opHeaderOk cellOperationsV16.bytes = true ∧
      opEngine cellOperationsV16.bytes = 2 ∧ mayStart Engine.row cellOperationsV16 cellOperationsS14.combs[(⟨0, 2⟩ :
      At).comb].cells[physCell cellOperationsS14 (⟨0, 2⟩ : At).comb (⟨0, 2⟩ : At).cell] = true ∧ rwCheck 0
      cellOperationsV16.bytes = none ∧ opCode cellOperationsV16.bytes = 9) := by
  refine ⟨?_, ?_, ?_, ?_, ?_, ?_, ?_, ?_, ?_, ?_, ?_, ?_, ?_, ?_, ?_, ?_, ?_⟩
  · decide +kernel
  · decide +kernel
  · decide +kernel
  · decide +kernel
  · decide +kernel
  · decide +kernel
  · decide +kernel
  · decide +kernel
  · decide +kernel
  · decide +kernel
  · decide +kernel
  · decide +kernel
  · decide +kernel
  · decide +kernel
  · decide +kernel
  · decide +kernel
  · decide +kernel

def cellFaultsEntropyAndClipV0 : Running := ((List.find? (fun (r : Running) => r.engine == Engine.array) runS.combs[(0 :
  Comb)].cells[physCell runS (0 : Comb) (2 : Cell)].running)).getD ⟨.array, ⟨[], 0, 0⟩, [], []⟩
def cellFaultsEntropyAndClipV1 : Running := (lastH.combs[(0 : Comb)].cells[physCell lastH (0 : Comb) (⟨0, 2⟩ :
  At).cell].running).headD ⟨.array, ⟨[], 0, 0⟩, [], []⟩
/-- No predicate of the state awaits a finite reading. -/
theorem no_finite (m : PredIx) (i : Nat) : runS.combs[(0 : Comb)].seq.arms[m] ≠ Arm.finite i := by
  have e : ∀ m : PredIx, runS.combs[(0 : Comb)].seq.arms[m] = Arm.none := by decide +kernel
  rw [e m]
  exact Arm.noConfusion

theorem test_meets_CellFaultsEntropyAndClip :
    (List.find? (fun (r : Running) => r.engine == Engine.array) runS.combs[(0 : Comb)].cells[physCell runS (0 : Comb) (2 :
      Cell)].running = some cellFaultsEntropyAndClipV0 ∧ (∀ (m : PredIx) (i : Nat), runS.combs[(0 : Comb)].seq.arms[m] ≠
      Arm.finite i)) ∧
    (inPart runS (5 : Part) (0 : Comb) = false) ∧
    ((⟨0, 2⟩ : At).comb = (0 : Comb) ∧ lastH.combs[(0 : Comb)].cells[physCell lastH (0 : Comb) (⟨0, 2⟩ : At).cell].running
      = [cellFaultsEntropyAndClipV1] ∧ cellFaultsEntropyAndClipV1.engine = Engine.array ∧ lastH.combs[(0 :
      Comb)].cells[physCell lastH (0 : Comb) (⟨0, 2⟩ : At).cell].queue = [] ∧ (∀ (c : PCell), c ≠ physCell lastH (0 :
      Comb) (⟨0, 2⟩ : At).cell → lastH.combs[(0 : Comb)].cells[c].running = [] ∧ lastH.combs[(0 : Comb)].cells[c].queue =
      []) ∧ (7 : PredIx) ≠ (0 : PredIx) ∧ lastH.combs[(0 : Comb)].seq.preds[(7 : PredIx)] = PState.pending ∧
      lastH.combs[(0 : Comb)].seq.arms[(7 : PredIx)] = Arm.finite 5 ∧ (∀ (i : PredIx), i ≠ (7 : PredIx) → lastH.combs[(0 :
      Comb)].seq.arms[i] = Arm.none) ∧ (∀ (u : Super), lastH.supers[u].hild.queue = [] ∧ lastH.supers[u].hild.cur =
      none)) ∧
    (cellRuns runS (0 : Comb) (0 : PCell) = true ∧ partOf runS (0 : Comb) = some (0 : Part) ∧ runS.parts[(0 : Part)].recov
      = [] ∧ runS.combs[(0 : Comb)].cellRegs.swapping = none) ∧
    (runS.combs[(0 : Comb)].routerPwr = true ∧ (rctFails 1024 (BitVec.toNat (0 : BitVec 1024)) = true ∨ aptFails
      (BitVec.toNat (0 : BitVec 1024)) = true)) ∧
    (cellRuns cellFaultsEntropyAndClipS29 (0 : Comb) (19 : PCell) = true ∧ partOf cellFaultsEntropyAndClipS29 (0 : Comb) =
      some (0 : Part) ∧ cellFaultsEntropyAndClipS29.parts[(0 : Part)].recov = [recC] ∧ (0 : Comb) ∈ recC.combs ∧
      cellFaultsEntropyAndClipS29.combs[(0 : Comb)].cellRegs.swapping.isSome = true) ∧
    (cellRuns rich (0 : Comb) (20 : PCell) = false) ∧
    (swS.combs[(0 : Comb)].cellRegs.swapping = some (19 : PCell)) ∧
    (cellRuns cellFaultsEntropyAndClipS28 (6 : Comb) (19 : PCell) = true ∧ partOf cellFaultsEntropyAndClipS28 (6 : Comb) =
      none ∧ ((↑(19 : PCell) : Nat) ≠ 20 ∨ cellFaultsEntropyAndClipS28.combs[(6 : Comb)].subst ≠ (31 : BitVec 5) ∨ ∃ (m :
      PCell), none = some m ∧ m ≠ (19 : PCell) ∧ cellRuns cellFaultsEntropyAndClipS28 (6 : Comb) m = true)) ∧
    (cellRuns cellFaultsEntropyAndClipS28 (6 : Comb) (20 : PCell) = true ∧ partOf cellFaultsEntropyAndClipS28 (6 : Comb) =
      none ∧ (↑(20 : PCell) : Nat) = 20 ∧ cellFaultsEntropyAndClipS28.combs[(6 : Comb)].subst = (31 : BitVec 5) ∧ (¬∃ (m :
      PCell), none = some m ∧ m ≠ (20 : PCell) ∧ cellRuns cellFaultsEntropyAndClipS28 (6 : Comb) m = true)) ∧
    (cellFaultsEntropyAndClipS22.combs[(0 : Comb)].routerPwr = true ∧ (cellFaultsEntropyAndClipS22.combs[(0 :
      Comb)].rng.state = (0 : BitVec 2) ∨ cellFaultsEntropyAndClipS22.combs[(0 : Comb)].rng.state = (2 : BitVec 2)) ∧
      rctFails 4096 goodRaw.toNat = false ∧ aptStartup goodRaw.toNat = false) ∧
    (cellFaultsEntropyAndClipS22.combs[(0 : Comb)].routerPwr = true ∧ (cellFaultsEntropyAndClipS22.combs[(0 :
      Comb)].rng.state = (0 : BitVec 2) ∨ cellFaultsEntropyAndClipS22.combs[(0 : Comb)].rng.state = (2 : BitVec 2)) ∧
      (rctFails 4096 (BitVec.toNat (0 : BitVec 4096)) = true ∨ aptStartup (BitVec.toNat (0 : BitVec 4096)) = true)) ∧
    (regsServed cellFaultsEntropyAndClipS22 = true ∧ inPart cellFaultsEntropyAndClipS22 (0 : Part) (0 : Comb) =
      true) := by
  refine ⟨?_, ?_, ?_, ?_, ?_, ?_, ?_, ?_, ?_, ?_, ?_, ?_, ?_⟩
  · exact ⟨by decide +kernel, no_finite⟩
  · decide +kernel
  · decide +kernel
  · decide +kernel
  · decide +kernel
  · decide +kernel
  · decide +kernel
  · decide +kernel
  · decide +kernel
  · decide +kernel
  · decide +kernel
  · decide +kernel
  · decide +kernel

theorem test_meets_VectorInstructions :
    (1 ≤ (vx 3 true 0).count ∧ (vx 3 true 0).count ≤ 4096) ∧
    (1 ≤ (vx 4096 false 1).count ∧ (vx 4096 false 1).count ≤ 4096) ∧
    ((4 : Word).toNat ≤ 4 ∧ 4 < (5 : Word).toNat ∧ (31 : Word).toNat ≤ 31 ∧ 31 < (32 : Word).toNat) ∧
    (1 ≤ (vx 5 true 0).count ∧ (vx 5 true 0).count ≤ 4096 ∧ argOk 1 (ma 0 false (4 : BitVec 3) (0 : BitVec 2) true (0 : BitVec 2))
      = true ∧ addrBad (ma 0 false (4 : BitVec 3) (0 : BitVec 2) true (0 : BitVec 2)) (argSize (ma 0 false (4 : BitVec 3) (0 :
      BitVec 2) true (0 : BitVec 2))) (vx 5 true 0).count = none) ∧
    (1 ≤ (vx 5 true 0).count ∧ (vx 5 true 0).count ≤ 4096 ∧ argOk 1 (ma 64 true (4 : BitVec 3) (0 : BitVec 2) false (0 : BitVec
      2)) = true ∧ addrBad (ma 64 true (4 : BitVec 3) (0 : BitVec 2) false (0 : BitVec 2)) (argSize (ma 64 true (4 : BitVec 3) (0 :
      BitVec 2) false (0 : BitVec 2))) (vx 5 true 0).count = none) ∧
    (1 ≤ (vx 4 true 0).count ∧ (vx 4 true 0).count ≤ 4096 ∧ argOk 1 (ma 2 false (4 : BitVec 3) (0 : BitVec 2) true (0 : BitVec 2))
      = true ∧ (ma 2 false (4 : BitVec 3) (0 : BitVec 2) true (0 : BitVec 2)).addr % argSize (ma 2 false (4 : BitVec 3) (0 : BitVec
      2) true (0 : BitVec 2)) ≠ 0) ∧
    (1 ≤ (vx 5 true 0).count ∧ (vx 5 true 0).count ≤ 4096 ∧ argOk 3 (ma 0 false (4 : BitVec 3) (0 : BitVec 2) true (0 : BitVec 2))
      = true ∧ addrBad (ma 0 false (4 : BitVec 3) (0 : BitVec 2) true (0 : BitVec 2)) (argSize (ma 0 false (4 : BitVec 3) (0 :
      BitVec 2) true (0 : BitVec 2))) (vx 5 true 0).count = none) ∧
    (1 ≤ (vx 5 true 0).count ∧ (vx 5 true 0).count ≤ 4096 ∧ argOk 3 (ma 64 true (4 : BitVec 3) (0 : BitVec 2) false (0 : BitVec
      2)) = true ∧ addrBad (ma 64 true (4 : BitVec 3) (0 : BitVec 2) false (0 : BitVec 2)) (argSize (ma 64 true (4 : BitVec 3) (0 :
      BitVec 2) false (0 : BitVec 2))) (vx 5 true 0).count = none) ∧
    (1 ≤ (vx 5 true 0).count ∧ (vx 5 true 0).count ≤ 4096 ∧ slotAddrBad (ma 0 false (4 : BitVec 3) (0 : BitVec 2) true (0 : BitVec
      2)) (argSize (ma 0 false (4 : BitVec 3) (0 : BitVec 2) true (0 : BitVec 2))) = none ∧ argOk 4 (ma 0 false (4 : BitVec 3) (0 :
      BitVec 2) true (0 : BitVec 2)) = true ∧ (∀ e, e < 5 → (ma 0 false 4 0 true 0).addr + (rg5 e).toNat * argSize (ma 0 false 4 0
      true 0) + argSize (ma 0 false 4 0 true 0) ≤ spaceEnd (ma 0 false 4 0 true 0).combStore)) ∧
    (1 ≤ (vx 5 true 0).count ∧ (vx 5 true 0).count ≤ 4096 ∧ slotAddrBad (ma 64 true (4 : BitVec 3) (0 : BitVec 2) false (0 :
      BitVec 2)) (argSize (ma 64 true (4 : BitVec 3) (0 : BitVec 2) false (0 : BitVec 2))) = none ∧ argOk 4 (ma 64 true (4 : BitVec
      3) (0 : BitVec 2) false (0 : BitVec 2)) = true ∧ (∀ e, e < 5 → (ma 64 true 4 0 false 0).addr + (rg5 e).toNat * argSize (ma 64
      true 4 0 false 0) + argSize (ma 64 true 4 0 false 0) ≤ spaceEnd (ma 64 true 4 0 false 0).combStore)) ∧
    (1 ≤ (vx 5 true 0).count ∧ (vx 5 true 0).count ≤ 4096 ∧ slotAddrBad (ma 0 false (4 : BitVec 3) (0 : BitVec 2) true (0 : BitVec
      2)) (argSize (ma 0 false (4 : BitVec 3) (0 : BitVec 2) true (0 : BitVec 2))) = none ∧ argOk 5 (ma 0 false (4 : BitVec 3) (0 :
      BitVec 2) true (0 : BitVec 2)) = true ∧ (∀ e, e < 5 → (ma 0 false 4 0 true 0).addr + (rg5 e).toNat * argSize (ma 0 false 4 0
      true 0) + argSize (ma 0 false 4 0 true 0) ≤ spaceEnd (ma 0 false 4 0 true 0).combStore) ∧ (∀ e, e < 5 → ∀ g, g < 5 → rg5 e =
      rg5 g → e = g)) ∧
    (1 ≤ (vx 5 true 0).count ∧ (vx 5 true 0).count ≤ 4096 ∧ slotAddrBad (ma 64 true (4 : BitVec 3) (0 : BitVec 2) false (0 :
      BitVec 2)) (argSize (ma 64 true (4 : BitVec 3) (0 : BitVec 2) false (0 : BitVec 2))) = none ∧ argOk 5 (ma 64 true (4 : BitVec
      3) (0 : BitVec 2) false (0 : BitVec 2)) = true ∧ (∀ e, e < 5 → (ma 64 true 4 0 false 0).addr + (rg5 e).toNat * argSize (ma 64
      true 4 0 false 0) + argSize (ma 64 true 4 0 false 0) ≤ spaceEnd (ma 64 true 4 0 false 0).combStore) ∧ (∀ e, e < 5 → ∀ g, g < 5
      → rg5 e = rg5 g → e = g)) ∧
    (1 ≤ (vx 5 true 0).count ∧ (vx 5 true 0).count ≤ 4096 ∧ slotAddrBad (ma 64 true (4 : BitVec 3) (0 : BitVec 2) false (0 :
      BitVec 2)) (argSize (ma 64 true (4 : BitVec 3) (0 : BitVec 2) false (0 : BitVec 2))) = none ∧ argOk 6 (ma 64 true (4 : BitVec
      3) (0 : BitVec 2) false (0 : BitVec 2)) = true ∧ (∀ e, e < 5 → (ma 64 true 4 0 false 0).addr + (rg5 e).toNat * argSize (ma 64
      true 4 0 false 0) + argSize (ma 64 true 4 0 false 0) ≤ spaceEnd (ma 64 true 4 0 false 0).combStore) ∧ (∀ e, e < 5 → ∀ g, g < 5
      → rg5 e = rg5 g → e = g)) ∧
    (1 ≤ (vx 5 true 0).count ∧ (vx 5 true 0).count ≤ 4096 ∧ slotAddrBad (ma 4 false (4 : BitVec 3) (0 : BitVec 2) false (0 :
      BitVec 2)) (argSize (ma 4 false (4 : BitVec 3) (0 : BitVec 2) false (0 : BitVec 2))) = none ∧ argOk 6 (ma 4 false (4 : BitVec
      3) (0 : BitVec 2) false (0 : BitVec 2)) = true ∧ (∀ e, e < 5 → (ma 4 false 4 0 false 0).addr + (rg5 e).toNat * argSize (ma 4
      false 4 0 false 0) + argSize (ma 4 false 4 0 false 0) ≤ spaceEnd (ma 4 false 4 0 false 0).combStore) ∧ (∀ e, e < 5 → ∀ g, g <
      5 → rg5 e = rg5 g → e = g)) ∧
    (1 ≤ (vx 7 true 0).count ∧ (vx 7 true 0).count ≤ 4096 ∧ argOk 80 (ma 0 false (0 : BitVec 3) (0 : BitVec 2) false (0 : BitVec
      2)) = true ∧ addrBad (ma 0 false (0 : BitVec 3) (0 : BitVec 2) false (0 : BitVec 2)) 4 1 = none) ∧
    (1 ≤ (vx 7 true 1).count ∧ (vx 7 true 1).count ≤ 4096 ∧ argOk 80 (ma 0 false (0 : BitVec 3) (0 : BitVec 2) false (0 : BitVec
      2)) = true ∧ addrBad (ma 0 false (0 : BitVec 3) (0 : BitVec 2) false (0 : BitVec 2)) 4 1 = none) := by
  refine ⟨?_, ?_, ?_, ?_, ?_, ?_, ?_, ?_, ?_, ?_, ?_, ?_, ?_, ?_, ?_, ?_⟩ <;> decide +kernel

end CellTests

namespace HildTests

def blk (n : Nat) (fs : List (Nat × Nat × Nat)) : Bytes := fs.foldl (fun b f => b.take f.1 ++ leBytes f.2.1 f.2.2 ++ b.drop (f.1 + f.2.1)) (List.replicate n 0)
def hs0 : State := (one.modPart 0 fun q => { q with rgn := (Vector.replicate 16 ({} : Region)).set 0 { kind := 2, keyId := 1, share := 2 } }).modComb 0 fun c => { c with rng := { c.rng with state := 1, ready := true } }
def ent (fl nel : Nat) : Bytes := blk 256 [(0,1,fl),(4,4,6),(8,8,nel),(64,8,0x4000 + 4 * 2^40 + 2^43),(72,8,0x5000 + 4 * 2^40 + 2^43)]
def put (s : State) (a : Nat) (d : Bytes) : State := (ppaWrite 0 a d s).1
def prog : Bytes := leBytes 8 1 ++ leBytes 8 (1 + 256 + 2 ^ 32) ++ leBytes 8 (0x10 + 2 ^ 18) ++ leBytes 8 2 ++ leBytes 8 0
def hs1 (fl : Nat) : State := put (put (put (put hs0 0x1000 (ent fl 4)) 0x8000 prog) 0x4000 (leBytes 4 0x3F800000 ++ leBytes 4 0x40000000 ++ leBytes 4 0x7F800000 ++ leBytes 4 0)) 0x5000 (leBytes 16 0x3F8000003F8000003F8000003F800000)
def hrun (g : Option PredF) (d : Option RunDesc) (st : DWord) : HildRun := ⟨0, 0, 1, 3, st, 0, g, d⟩
def hq (fl : Nat) (r : HildRun) (f : Hild → Hild := id) : State := (hs1 fl).modHild 0 fun h => f { h with gtab := 0x1000, ptab := 0x8000, queue := [r] }
def P (g : Bool) : Option PredF := if g then some ⟨true, 5, true⟩ else none
def pre (s : State) (r : HildRun) : CurRun := let ents := ppaRead s 0 (0x1000) (256); let progs := ppaRead s 0 0x8000 16384; let c0 : CurRun := { run := r, ents := ents.1, progs := progs.1, next := 0, bytes := 256 + 16384 }; { c0 with next := nextValid c0 0 }
def went (s : State) (r : HildRun) : State := s.modHild 0 fun h => { h with queue := [], cur := some (pre s r), group := BitVec.ofNat 12 r.first, state := if r.gate = none then 2 else 1 }
def qA := hq 1 (hrun (P true) none 0)
def hildRunsS1 : State := qA.modHild 0 fun h => {h with queue := []}
def hildRunsS2 : State := qA.modHild 0 fun h => {h with state := 3}
def hold (s : State) : State := s.modPart 0 fun q => { q with ckpt := some { ring := none, auto := 0, hold := true, step := 2 } }
def hildRunsS3 : State := hold qA
def qBadRead := hq 1 (hrun none none 0) fun h => { h with gtab := w64 (2 ^ 35) }
def qBadF := hq 9 (hrun none none 0)
def rd : RunDesc := ⟨0, 0, 3⟩
def qBadD := hq 9 (hrun none (some rd) 0)
def q0 (g : Bool) := hq 0 (hrun (P g) none 0)
def hildRunsS4 : State := q0 true
def noSeed (s : State) : State := s.modComb 0 fun c => { c with rng := { c.rng with state := 2 } }
def progN : Bytes := leBytes 8 1 ++ leBytes 8 (1 + 256 + 2 ^ 32) ++ leBytes 8 (0x1F + 2 ^ 12 + 0x1F * 2 ^ 18) ++ leBytes 8 2 ++ leBytes 8 0
def qPriv (g : Bool) : State := noSeed ((put (hq 1 (hrun (P g) none 0)) 0x8000 progN).modHild 0 fun h => { h with dp := [(0, 0x3F800000, 0x3F800000)] })
def hildRunsS7 : State := qPriv true
def cu (comp : Bool) (nx : Nat) (d : Option RunDesc) (st : DWord) (fl : Nat) (po : Option Nat) : CurRun := { pre (hq fl (hrun none d st)) (hrun none d st) with progs := [], computed := comp, next := nx, bytes := 4096, dw2 := 0x3F800000, counted := 7, poison := po }
def act (c : CurRun) (fl : Nat) : State := (hs1 fl).modHild 0 fun h => { h with gtab := 0x1000, ptab := 0x8000, queue := [], cur := some c, state := 2 }
def c5 := cu true 0 none 0x6000 5 none
def hildRunsS9 : State := hold (act c5 5)
def hildRunsS10 : State := act c5 5
def c1 := cu true 0 none 0x6000 1 none
def dead (s : State) : State := s.modSuper 0 fun u => { u with slots := u.slots.set 1 { state := 2 } }
def hildRunsS12 : State := dead (act c1 1)
def cE (d : Option RunDesc) (po : Option Nat) := cu false 1 d 0 1 po
def hildRunsS13 : State := act (cE none none) 1
def hildRunsS15 : State := act (cE (some rd) none) 1
def lane (f : LaneState → LaneState) : State := (hs1 1).modHild 0 fun h => { h with lane := f {
  regs := Vector.ofFn fun i : Fin 16 => w32 (0x3F800000 + i.val * 0x10000000)
  streams := Vector.ofFn fun i : Fin 8 => w32 (i.val + 100)
  fmts := Vector.ofFn fun i : Fin 8 => BitVec.ofNat 3 (i.val % 5) } }
def qNone : State := hq 0 (hrun none none 0)
def hildInstructionsS17 : State := lane fun l => { l with ended := true }
def hildInstructionsS18 : State := lane fun l => { l with isPriv := true }
def asleep (s : State) : State := s.modSuper 0 fun u => { u with state := 2 }
def hildRunsS17 : State := asleep qA
def stagedW : List StagedWrite := [⟨0x5000, [1, 2]⟩]
def cS (g : Bool) : CurRun := { cu false 1 none 0 1 none with run := hrun (P g) none 0, staged := stagedW, inBuffer := 1 }
def stg (g : Bool) (st : BitVec 2) : State := (act (cS g) 1).modHild 0 fun h => { h with state := st }
def hildRunsS18 : State := stg true 1
def hildRunsS19 : State := stg false 1
def hildRunsS20 : State := stg false 2
def hildRunsS21 : State := asleep (act c1 1)
def hildRunsS22 : State := (act (cE none none) 1).modHild 0 fun h => { h with commit := 0x6000 }
def LI := lane id

/-- What a start of run r from state s reads, holds and leaves, as the statement names them. -/
def rReads (s : State) (r : HildRun) : List (Nat × Nat) :=
  [(s.supers[(0 : Super)].hild.gtab.toNat + 256 * r.first, 256 * r.count), (s.supers[(0 : Super)].hild.ptab.toNat, 16384)]
def rEnts (s : State) (r : HildRun) := hildRead s 0 (s.supers[(0 : Super)].hild.gtab.toNat + 256 * r.first) (256 * r.count)
def rProgs (s : State) := hildRead s 0 s.supers[(0 : Super)].hild.ptab.toNat 16384
def rC0 (s : State) (r : HildRun) : CurRun :=
  { run := r, ents := (rEnts s r).1, progs := (rProgs s).1, next := 0, bytes := 256 * r.count + 16384 }
def rC (s : State) (r : HildRun) : CurRun := { rC0 s r with next := nextValid (rC0 s r) 0 }
def rU (s : State) (r : HildRun) : State :=
  forEach (rReads s r) (fun x s => ppaTouch 0 3 x.1 x.2 s) (s.modHild 0 fun h => { h with
    queue := [], cur := some (rC s r), state := if r.gate.isSome then 1 else 2, group := BitVec.ofNat 12 r.first })
def rFailed (s : State) (r : HildRun) : Option MemErr := goneIf s (rU s r) 0 ((rEnts s r).2.orElse fun _ => (rProgs s).2)

/-- Whether two lists of bytes are the same, one byte after the other. -/
def sameBytes : Bytes → Bytes → Bool
  | [], [] => true
  | a :: as, b :: bs => if a = b then sameBytes as bs else false
  | _, _ => false

theorem sameBytes_eq : ∀ {a b : Bytes}, sameBytes a b = true → a = b
  | [], [], _ => rfl
  | a :: as, b :: bs, h => by
    unfold sameBytes at h
    split at h
    · rw [‹a = b›, sameBytes_eq h]
    · cases h

/-- Whether the unit holds run c. -/
def holdsRun (o : Option CurRun) (c : CurRun) : Bool := match o with
  | none => false
  | some d => decide ({ d with ents := [], progs := [] } = { c with ents := [], progs := [] }) && (sameBytes d.ents c.ents && sameBytes d.progs c.progs)

theorem holdsRun_eq {o : Option CurRun} {c : CurRun} (h : holdsRun o c = true) : o = some c := by
  cases o with
  | none => cases h
  | some d =>
    simp only [holdsRun, Bool.and_eq_true, decide_eq_true_eq] at h
    have he := sameBytes_eq h.2.1
    have hp := sameBytes_eq h.2.2
    have h0 := h.1
    cases c
    cases d
    simp_all

/-- The run at the head of the queue may start; its reads went through; its checks passed. -/
abbrev Fetches (s : State) (r : HildRun) : Prop := partOf s (0 : Super) = some (0 : Part) ∧
  s.supers[(0 : Super)].hild.queue = [r] ∧ s.supers[(0 : Super)].hild.state = 0 ∧ s.supers[(0 : Super)].hild.cur = none ∧
  ckptHolds s 0 r = false ∧ hildServes s 0 0 (rReads s r) = true ∧ commitServes s 0 = true
abbrev Reads (s : State) (r : HildRun) : Prop := Fetches s r ∧ rFailed s r = none ∧
  holdsRun (rU s r).supers[(0 : Super)].hild.cur (rC s r) = true ∧ partOf (rU s r) (0 : Super) = some (0 : Part)
abbrev Passes (s : State) (r : HildRun) : Prop := Reads s r ∧ runBad (rU s r) 0 0 (rC s r) = none

def gated : HildRun := hrun (P true) none 0
def plain : HildRun := hrun none none 0

/-- With COMMIT 0 no commit record is written. -/
theorem putCommit_zero {n m : Nat} {r : HildRun} {s : State} (h : s.supers[(0 : Super)].hild.commit.toNat = 0) :
    putCommit 0 n r m s = s := by
  unfold putCommit
  split
  · rfl
  · exact if_pos h

theorem qNone_holds : (rU qNone plain).supers[(0 : Super)].hild.cur = some (rC qNone plain) :=
  holdsRun_eq (by decide +kernel)

/-- No commit record follows with COMMIT 0. -/
theorem qNone_commit : putCommit 0 1 plain 0 (rU qNone plain) = rU qNone plain := putCommit_zero (by decide +kernel)

theorem test_meets_HildRuns :
    (partOf hildRunsS1 (0 : Super) = some (0 : Part) ∧ hildRunsS1.supers[(0 : Super)].hild.queue = []) ∧
    (partOf hildRunsS2 (0 : Super) = some (0 : Part) ∧ hildRunsS2.supers[(0 : Super)].hild.state ≠ 0) ∧
    (partOf hildRunsS3 (0 : Super) = some (0 : Part) ∧ hildRunsS3.supers[(0 : Super)].hild.queue = [gated] ∧
      hildRunsS3.supers[(0 : Super)].hild.state = 0 ∧ hildRunsS3.supers[(0 : Super)].hild.cur = none ∧
      ckptHolds hildRunsS3 0 gated = true) ∧
    (hildRunsS17.supers[(0 : Super)].hild.queue = [gated] ∧ hildServes hildRunsS17 0 0 (rReads hildRunsS17 gated) = false) ∧
    (Fetches qBadRead plain ∧ (rFailed qBadRead plain).isSome = true) ∧
    (Reads qBadF plain ∧ runBad (rU qBadF plain) 0 0 (rC qBadF plain) = some (stFormatError, 0) ∧ plain.desc = none) ∧
    (Reads qBadD (hrun none (some rd) 0) ∧
      runBad (rU qBadD (hrun none (some rd) 0)) 0 0 (rC qBadD (hrun none (some rd) 0)) = some (stFormatError, 0)) ∧
    (Passes hildRunsS4 gated ∧ nextValid (rC0 hildRunsS4 gated) 0 = gated.count ∧ gated.gate ≠ none) ∧
    (Passes qNone plain ∧ nextValid (rC0 qNone plain) 0 = plain.count ∧ plain.gate = none ∧
      (putCommit 0 1 plain 0 (rU qNone plain)).supers[(0 : Super)].hild.cur = some (rC qNone plain)) := by
  refine ⟨?_, ?_, ?_, ?_, ?_, ?_, ?_, ?_, ?_, ?_, rfl, ?_⟩
  · decide +kernel
  · decide +kernel
  · decide +kernel
  · decide +kernel
  · decide +kernel
  · decide +kernel
  · decide +kernel
  · decide +kernel
  · decide +kernel
  · decide +kernel
  · exact qNone_commit.symm ▸ qNone_holds

theorem test_meets_HildRuns2 :
    (Passes qA gated ∧ (hildReseed 0 (rC qA gated) (rU qA gated)).2 = true ∧ nextValid (rC0 qA gated) 0 < gated.count ∧
      (rU qA gated).combs[(0 : Comb)].rng.state = 1 ∧ (rU qA gated).supers[(0 : Super)].hild.step ≠ some gated.step) ∧
    (Passes hildRunsS7 gated ∧ (rU hildRunsS7 gated).combs[(0 : Comb)].rng.state ≠ 1 ∧
      runPrivate (rU hildRunsS7 gated) 0 (rC hildRunsS7 gated) = true ∧
      (rU hildRunsS7 gated).supers[(0 : Super)].hild.step ≠ some gated.step ∧ (rU hildRunsS7 gated).parts[(0 : Part)].recov = []) := by
  refine ⟨?_, ?_⟩
  · decide +kernel
  · decide +kernel

/-- The writes a waiting or draining run puts on the way, and the state they leave. -/
def dU : State := putCommit 0 1 (cS false).run (cS false).done (hildRunsS19.modHild 0 fun h => { h with state := 2 })
def dW : State := (putAll 0 (cS false).staged dU).1
def eC : CurRun := cE none none
/-- The writes at the end of a group of c in state s. -/
def gWs (s : State) (c : CurRun) : List StagedWrite :=
  let t1 : StagedWrite := ⟨s.supers[(0 : Super)].hild.gtab.toNat + 256 * (c.run.first + c.next) + 4, leBytes 4 (entT (c.ent c.next) + 1)⟩
  if entStats (c.ent c.next) ∧ c.run.stats ≠ 0 then
    [t1, ⟨c.run.stats.toNat + 32 * (Machine.sizeOf s 0 * c.next + posOf 0 0), statsRec 0 c⟩] else [t1]
/-- The unit holds run c of partition 0 in a state, and no checkpoint holds it. -/
abbrev Holds (s : State) (c : CurRun) (st : BitVec 2) : Prop := partOf s (0 : Super) = some (0 : Part) ∧
  s.supers[(0 : Super)].hild.cur = some c ∧ s.supers[(0 : Super)].hild.state = st
abbrev AtEnd (s : State) (c : CurRun) : Prop := Holds s c 2 ∧ ckptHolds s 0 c.run = false ∧ c.computed = true ∧
  c.next < c.run.count ∧ c.staged = [] ∧ c.inBuffer = 0
def serves (s : State) (c : CurRun) : Bool := hildServes s 0 0 ((gWs s c).map fun w => (w.ppa, w.data.length))

theorem test_meets_HildRuns3 :
    (partOf qA (0 : Super) = some (0 : Part) ∧ qA.supers[(0 : Super)].hild.cur = none) ∧
    (Holds hildRunsS18 (cS true) 1 ∧ (cS true).run.count ≤ (cS true).next ∧ (cS true).run.gate ≠ none) ∧
    (Holds hildRunsS19 (cS false) 1 ∧ (cS false).run.count ≤ (cS false).next ∧ (cS false).run.gate = none ∧
      ckptHolds hildRunsS19 0 (cS false).run = false ∧ commitServes hildRunsS19 0 = true ∧ partOf dU (0 : Super) = some (0 : Part) ∧
      dU.supers[(0 : Super)].hild.cur = some (cS false) ∧
      ((cS false).staged.all fun w => ppaServes dU 0 0 w.ppa w.data.length) = true ∧ (putAll 0 (cS false).staged dU).2 = none ∧
      dW.supers[(0 : Super)].hild.cur = some (cS false)) ∧
    (Holds hildRunsS9 c5 2 ∧ ckptHolds hildRunsS9 0 c5.run = true ∧ c5.next < c5.run.count) ∧
    (Holds hildRunsS20 (cS false) 2 ∧ ckptHolds hildRunsS20 0 (cS false).run = false ∧ (cS false).run.count ≤ (cS false).next ∧
      ((cS false).staged.all fun w => ppaServes hildRunsS20 0 0 w.ppa w.data.length) = true ∧
      (putAll 0 (cS false).staged hildRunsS20).2 = none ∧
      (putAll 0 (cS false).staged hildRunsS20).1.supers[(0 : Super)].hild.cur = some (cS false)) := by
  refine ⟨?_, ?_, ?_, ?_, ?_⟩
  · decide +kernel
  · decide +kernel
  · decide +kernel
  · decide +kernel
  · decide +kernel

theorem test_meets_HildRuns4 :
    (AtEnd hildRunsS21 c1 ∧ serves hildRunsS21 c1 = false) ∧
    (AtEnd hildRunsS12 c1 ∧ serves hildRunsS12 c1 = true ∧ (putAll 0 (gWs hildRunsS12 c1) hildRunsS12).2.isSome = true) ∧
    (AtEnd hildRunsS10 c5 ∧ serves hildRunsS10 c5 = true ∧ (putAll 0 (gWs hildRunsS10 c5) hildRunsS10).2 = none ∧
      (putAll 0 (gWs hildRunsS10 c5) hildRunsS10).1.supers[(0 : Super)].hild.cur = some c5) ∧
    (Holds hildRunsS13 eC 2 ∧ ckptHolds hildRunsS13 0 eC.run = false ∧ eC.run.count ≤ eC.next ∧ eC.staged = [] ∧
      hildRunsS13.supers[(0 : Super)].hild.commit = 0 ∧ eC.run.desc = none) ∧
    (Holds hildRunsS15 (cE (some rd) none) 2 ∧ ckptHolds hildRunsS15 0 (cE (some rd) none).run = false ∧
      (cE (some rd) none).staged = [] ∧ hildRunsS15.supers[(0 : Super)].hild.commit = 0 ∧ (cE (some rd) none).run.desc = some rd) ∧
    (Holds hildRunsS22 eC 2 ∧ hildRunsS22.supers[(0 : Super)].hild.commit ≠ 0 ∧ commitServes hildRunsS22 0 = true ∧
      (putCommit 0 2 eC.run eC.done hildRunsS22).supers[(0 : Super)].hild.cur = some eC) := by
  refine ⟨?_, ?_, ?_, ?_, ?_, ?_⟩
  · decide +kernel
  · decide +kernel
  · decide +kernel
  · decide +kernel
  · decide +kernel
  · decide +kernel

theorem test_meets_HildInstructions :
    (hildInstructionsS17.supers[(0 : Super)].hild.lane.ended = true) ∧
    (hildInstructionsS18.supers[(0 : Super)].hild.lane.isPriv = true ∧ (2 : BitVec 6) ≠ (31 : BitVec 6)) ∧
    (LI.supers[(0 : Super)].hild.lane.ended = false ∧ selOk (BitVec.toNat (1 : BitVec 6)) = true ∧ selOk (BitVec.toNat (2
      : BitVec 6)) = true ∧ selOk (BitVec.toNat (5 : BitVec 6)) = true ∧ (LI.supers[(0 : Super)].hild.lane.isPriv = false
      ∨ (2 : BitVec 6) = (31 : BitVec 6))) ∧
    (LI.supers[(0 : Super)].hild.lane.ended = false ∧ selOk (BitVec.toNat (1 : BitVec 6)) = true ∧ selOk (BitVec.toNat (2
      : BitVec 6)) = true ∧ selOk (BitVec.toNat (5 : BitVec 6)) = true ∧ BitVec.toNat (0 : BitVec 3) ≤ 4 ∧ roundOk
      (BitVec.toNat (0 : BitVec 2)) (BitVec.toNat (0 : BitVec 3)) = true) ∧
    (LI.supers[(0 : Super)].hild.lane.ended = false ∧ selOk (BitVec.toNat (1 : BitVec 6)) = true ∧ selOk (BitVec.toNat (2
      : BitVec 6)) = true ∧ selOk (BitVec.toNat (5 : BitVec 6)) = true ∧ (0 : BitVec 3) ≠ (7 : BitVec 3) ∧ roundOk (if (0
      : BitVec 3) = (0 : BitVec 3) ∧ LI.supers[(0 : Super)].hild.lane.fmts[BitVec.toNat (0 : BitVec 3)].toNat = 2 then 1
      else BitVec.toNat (0 : BitVec 2)) LI.supers[(0 : Super)].hild.lane.fmts[BitVec.toNat (0 : BitVec 3)].toNat =
      true) := by
  refine ⟨?_, ?_, ?_, ?_, ?_⟩
  · decide +kernel
  · decide +kernel
  · decide +kernel
  · decide +kernel
  · decide +kernel

end HildTests

namespace SuperTests

def d12_9 : Bytes := List.replicate 12 9
def d128_7 : Bytes := List.replicate 128 7
def d128_9 : Bytes := List.replicate 128 9
def tab (s : State) (p : Part) (g : List Region) : State := s.modPart p fun q => { q with locked := false, ready := false, rgn := Vector.ofFn fun i : Fin 16 => g.getD i.val {} }
def g1 (k sh : Nat) : Region := { kind := BitVec.ofNat 3 k, keyId := 1, share := BitVec.ofNat 10 sh }
def supersServeTheirLayersS1 : State := tab one 0 [g1 1 908]
def notR : State := rich.modPart 0 fun q => { q with ready := false }
def su (f : SuperState → SuperState) : State := rich.modSuper 0 f
def supersServeTheirLayersS14 : State := su fun u => { u with tree := 0, state := 0 }
def supersServeTheirLayersS15 : State := su fun u => { u with tree := 0, state := 2 }
def supersServeTheirLayersS17 : State := su fun u => { u with scrubPos := 2 ^ 36 - 128 }
def supersServeTheirLayersS18 : State := su fun u => { u with scrubPos := 0x400, errSealed := true }
def supersServeTheirLayersS20 : State := su fun u => { u with resetting := true }
def supersServeTheirLayersS21 : State := su fun u => { u with repairing := some 513, spares := [(1, 2)] }
def noP1 : State := { rich with parts := rich.parts.set 4 {} }
def sI (f : SuperState → SuperState) := rich.modSuper 0 f
def memoryRequestsS22 : State := sI fun u => { u with state := 2 }
def retd (u : SuperState) : SuperState := { u with slots := u.slots.set 1 { state := 2 } }
def memoryRequestsS23 : State := sI retd
def memoryRequestsS25 : State := sI fun u => { u with mem := [(513, 7), (639, 8)], poison := [] }
def memoryRequestsS26 : State := sI fun u => { u with poison := [4] }
def exh (u : SuperState) : SuperState := { u with ctr := [(1, 2 ^ 56 - 1)] }
def memoryRequestsS27 : State := sI exh
def flip16 : BitVec 1152 := BitVec.ofNat 1152 ((List.range 16).map fun i => 256 ^ i).sum
def scrubAt (l : Nat) (f : SuperState → SuperState := id) : State := su fun u => f { u with scrubPos := 128 * l }
def supersServeTheirLayersS23 : State := scrubAt (tagBase / 128)
def supersServeTheirLayersS24 : State := { scrubAt (treeBase / 128) with supers := (scrubAt (treeBase / 128)).supers.map fun u => { u with scrubPos := treeBase } }
def supersServeTheirLayersS25 : State := su fun u => { u with tree := 0, state := 0, waiting := u.waiting.set 1 [⟨.comb 1, 0, .read, 7⟩] }
def supersServeTheirLayersS26 : State := su fun u => { u with powered := false, state := 0 }
def supersServeTheirLayersS27 : State := su fun u => { u with link := u.link.set 0 { u.link[0] with dead := true } }
def linkBody (s : State) (link : Fin 14) (seq : DWord) : Bytes := Config.gcmSeal (linkDir s link 0).key (linkNonce seq link 0) [] [7, 8]
def memoryRequestsS29 : State := sI fun u => { u with waiting := u.waiting.set 0 [⟨.comb 0, 0, .read, 7⟩] }
def memoryRequestsS30 : State := sI fun u => { u with waiting := u.waiting.set 1 [⟨.comb 1, 0, .read, 7⟩], turn := 3 }
def memoryRequestsS31 : State := { rich with mod := { rich.mod with pairLinks := [] } }
def memoryRequestsS32 : State := sI fun u => { u with badNodes := [16777216] }
def memoryRequestsS34 : State := rich.modSuper 1 fun u => { u with cache := [] }
def tagCode : BitVec 1152 := BitVec.ofNat 1152 (2 ^ 1024 + 0x8005 * 2 ^ 1088)

def supersServeTheirLayersV0 : Decoded := ((decodeLine (applyFlips (0 : Super) [] one).supers[(0 : Super)] (0 : Super)
  ((applyFlips (0 : Super) [] one).supers[(0 : Super)].scrubPos / 128))).getD {}
def supersServeTheirLayersV1 : Fin 6 × MemReq × List MemReq := ((nextPort (supersServeTheirLayersS25.modSuper (0 : Super)
  fun (u : SuperState) =>
  { u with tree := (1 : BitVec 2), state := if u.state = (0 : BitVec 2) then (1 : BitVec 2) else u.state }).supers[(0 :
  Super)])).getD (0, ⟨.comb 0, 0, .read, 0⟩, [])
def supersServeTheirLayersV2 : Decoded := ((decodeLine (applyFlips (0 : Super) [(8, (1 : BitVec 1152))]
  supersServeTheirLayersS18).supers[(0 : Super)] (0 : Super) ((applyFlips (0 : Super) [(8, (1 : BitVec 1152))]
  supersServeTheirLayersS18).supers[(0 : Super)].scrubPos / 128))).getD {}
def supersServeTheirLayersV3 : Nat := (supersServeTheirLayersS21.supers[(0 : Super)].repairing).getD 0
/-- A line of a super of no partition with a whole die in error. -/
def dieErr : State := rich.modSuper 2 fun u => { u with dramErr := [(0, Laws.diePattern 0)] }

/-- The line as the scrubber reads it. -/
theorem dieErr_read : tabGet 0 (applyFlips (2 : Super) [] dieErr).supers[(2 : Super)].dramErr
    ((applyFlips (2 : Super) [] dieErr).supers[(2 : Super)].scrubPos / 128) = Laws.diePattern 0 := by
  have h : (applyFlips (2 : Super) [] dieErr).supers[(2 : Super)].scrubPos = 0 := by decide +kernel
  have e : (applyFlips (2 : Super) [] dieErr).supers[(2 : Super)].dramErr = [(0, Laws.diePattern 0)] := by
    simp [applyFlips, dieErr, State.modSuper, upd]
  rw [h, e]
  simp [tabGet]

/-- A body shorter than its tag fails authentication. -/
theorem short_fails (d : LinkDir) (link : Fin 14) (dir : Fin 2) : linkFlitFails d link dir d.next [9] = true := by
  simp [linkFlitFails, Laws.gcmOpen_short]

/-- A flit sealed as the next of its direction passes. -/
theorem body_opens (s : State) (link : Fin 14) (seq : DWord) (h : (linkDir s link 0).next = seq) :
    linkFlitFails (linkDir s link 0) link 0 (linkDir s link 0).next (linkBody s link seq) = false := by
  simp [linkFlitFails, linkBody, h, Laws.gcmOpen_gcmSeal]

theorem test_meets_SupersServeTheirLayers :
    (regsServed one = true ∧ one.parts[(0 : Part)].live = true ∧ one.parts[(0 : Part)].locked = true) ∧
    (regsServed supersServeTheirLayersS1 = true ∧ supersServeTheirLayersS1.parts[(0 : Part)].live = true ∧
      supersServeTheirLayersS1.parts[(0 : Part)].locked = false ∧ supersServeTheirLayersS1.parts[(0 : Part)].psize = (0 :
      BitVec 2) ∧ supersServeTheirLayersS1.parts[(0 : Part)].rgn[1].kind = (0 : BitVec 3)) ∧
    ((one.parts[(0 : Part)].locked = false ∨ one.parts[(0 : Part)].ready = true)) ∧
    (notR.parts[(0 : Part)].locked = true ∧ notR.parts[(0 : Part)].ready = false) ∧
    (one.supers[(0 : Super)].powered = true ∧ one.supers[(0 : Super)].tree ≠ (0 : BitVec 2)) ∧
    (one.supers[(0 : Super)].powered = true ∧ one.supers[(0 : Super)].state ≠ (2 : BitVec 2) ∧ decodeLine (applyFlips (0 :
      Super) [] one).supers[(0 : Super)] (0 : Super) ((applyFlips (0 : Super) [] one).supers[(0 : Super)].scrubPos / 128)
      = some supersServeTheirLayersV0 ∧ supersServeTheirLayersV0.corrected = false ∧ supersServeTheirLayersV0.mark =
      none) ∧
    (one.supers[(0 : Super)].powered = true ∧ one.supers[(0 : Super)].resetting = false ∧ partOf one (0 : Super) = some (0
      : Part) ∧ one.parts[(0 : Part)].recov = []) ∧
    (one.supers[(0 : Super)].repairing = none) ∧
    ((linkDir one (0 : Fin 14) (0 : Fin 2)).dead = false ∧ linkFlitFails (linkDir one (0 : Fin 14) (0 : Fin 2)) (0 : Fin
      14) (0 : Fin 2) (linkDir one (0 : Fin 14) (0 : Fin 2)).next [(9 : Byte)] = true ∧ (↑(0 : Fin 14) : Nat) = (↑(0 :
      Super) : Nat) ∧ (∀ (p : Part), partOf one (0 : Super) = some p → one.parts[p].recov = []) ∧ (partOf one (0 : Super)
      = none → one.supers[(0 : Super)].resetting = false)) ∧
    (supersServeTheirLayersS14.supers[(0 : Super)].powered = true ∧ supersServeTheirLayersS14.supers[(0 : Super)].tree =
      (0 : BitVec 2) ∧ supersServeTheirLayersS14.supers[(0 : Super)].waiting = Vector.replicate 6 []) ∧
    (supersServeTheirLayersS25.supers[(0 : Super)].powered = true ∧ supersServeTheirLayersS25.supers[(0 : Super)].tree =
      (0 : BitVec 2) ∧ nextPort (supersServeTheirLayersS25.modSuper (0 : Super) fun (u : SuperState) =>
      { u with tree := 1, state := if u.state = 0 then 1 else u.state }).supers[(0 : Super)] = some ((1 : Fin 6),
      supersServeTheirLayersV1.2.1, []) ∧ (∀ (j : Fin 6), j ≠ (1 : Fin 6) → supersServeTheirLayersS25.supers[(0 :
      Super)].waiting[j] = [])) ∧
    (supersServeTheirLayersS15.supers[(0 : Super)].powered = true ∧ supersServeTheirLayersS15.supers[(0 : Super)].state =
      (2 : BitVec 2)) ∧
    (supersServeTheirLayersS26.supers[(0 : Super)].powered = false) ∧
    (supersServeTheirLayersS18.supers[(0 : Super)].powered = true ∧ supersServeTheirLayersS18.supers[(0 : Super)].state ≠
      (2 : BitVec 2) ∧ decodeLine (applyFlips (0 : Super) [(8, (1 : BitVec 1152))] supersServeTheirLayersS18).supers[(0 :
      Super)] (0 : Super) ((applyFlips (0 : Super) [(8, (1 : BitVec 1152))] supersServeTheirLayersS18).supers[(0 :
      Super)].scrubPos / 128) = some supersServeTheirLayersV2 ∧ supersServeTheirLayersV2.corrected = true ∧
      supersServeTheirLayersV2.mark = none) ∧
    (supersServeTheirLayersS18.supers[(0 : Super)].powered = true ∧ supersServeTheirLayersS18.supers[(0 : Super)].state ≠
      (2 : BitVec 2) ∧ decodeLine (applyFlips (0 : Super) [(8, flip16)] supersServeTheirLayersS18).supers[(0 : Super)] (0
      : Super) ((applyFlips (0 : Super) [(8, flip16)] supersServeTheirLayersS18).supers[(0 : Super)].scrubPos / 128) =
      none ∧ (spaceOf (128 * ((applyFlips (0 : Super) [(8, flip16)] supersServeTheirLayersS18).supers[(0 :
      Super)].scrubPos / 128)) = Space.tagData ∨ spaceOf (128 * ((applyFlips (0 : Super) [(8, flip16)]
      supersServeTheirLayersS18).supers[(0 : Super)].scrubPos / 128)) = Space.sealed)) ∧
    (supersServeTheirLayersS23.supers[(0 : Super)].powered = true ∧ supersServeTheirLayersS23.supers[(0 : Super)].state ≠
      (2 : BitVec 2) ∧ decodeLine (applyFlips (0 : Super) [(tagBase / 128, flip16)] supersServeTheirLayersS23).supers[(0 :
      Super)] (0 : Super) ((applyFlips (0 : Super) [(tagBase / 128, flip16)] supersServeTheirLayersS23).supers[(0 :
      Super)].scrubPos / 128) = none ∧ spaceOf (128 * ((applyFlips (0 : Super) [(tagBase / 128, flip16)]
      supersServeTheirLayersS23).supers[(0 : Super)].scrubPos / 128)) = Space.tags) ∧
    (supersServeTheirLayersS17.supers[(0 : Super)].powered = true ∧ supersServeTheirLayersS17.supers[(0 : Super)].state ≠
      (2 : BitVec 2) ∧ decodeLine (applyFlips (0 : Super) [(536870911, flip16)] supersServeTheirLayersS17).supers[(0 :
      Super)] (0 : Super) ((applyFlips (0 : Super) [(536870911, flip16)] supersServeTheirLayersS17).supers[(0 :
      Super)].scrubPos / 128) = none ∧ spaceOf (128 * ((applyFlips (0 : Super) [(536870911, flip16)]
      supersServeTheirLayersS17).supers[(0 : Super)].scrubPos / 128)) = Space.control) ∧
    (supersServeTheirLayersS24.supers[(2 : Super)].powered = true ∧ supersServeTheirLayersS24.supers[(2 : Super)].state ≠
      (2 : BitVec 2) ∧ decodeLine (applyFlips (2 : Super) [(treeBase / 128, flip16)] supersServeTheirLayersS24).supers[(2
      : Super)] (2 : Super) ((applyFlips (2 : Super) [(treeBase / 128, flip16)] supersServeTheirLayersS24).supers[(2 :
      Super)].scrubPos / 128) = none ∧ spaceOf (128 * ((applyFlips (2 : Super) [(treeBase / 128, flip16)]
      supersServeTheirLayersS24).supers[(2 : Super)].scrubPos / 128)) = Space.tree ∧ partOf supersServeTheirLayersS24 (2 :
      Super) = none ∧ regionDie (2 : Super) = none) ∧
    (supersServeTheirLayersS24.supers[(2 : Super)].powered = true ∧ supersServeTheirLayersS24.supers[(2 :
      Super)].resetting = false ∧ partOf supersServeTheirLayersS24 (2 : Super) = none) ∧
    (supersServeTheirLayersS20.supers[(0 : Super)].powered = true ∧ supersServeTheirLayersS20.supers[(0 :
      Super)].resetting = true) ∧
    ((linkDir supersServeTheirLayersS27 (0 : Fin 14) (0 : Fin 2)).dead = true) ∧
    ((linkDir rich (0 : Fin 14) (0 : Fin 2)).dead = false ∧ linkFlitFails (linkDir rich (0 : Fin 14) (0 : Fin 2)) (0 : Fin
      14) (0 : Fin 2) (linkDir rich (0 : Fin 14) (0 : Fin 2)).next (linkBody rich (0 : Fin 14) (0 : DWord)) = false) ∧
    ((linkDir rich (8 : Fin 14) (0 : Fin 2)).dead = false ∧ linkFlitFails (linkDir rich (8 : Fin 14) (0 : Fin 2)) (8 : Fin
      14) (0 : Fin 2) (linkDir rich (8 : Fin 14) (0 : Fin 2)).next [(9 : Byte)] = true ∧ (↑(8 : Fin 14) : Nat) = 8 + (↑(0
      : Fin 4) : Nat) ∧ rich.parts[(0 : Part)].recov = []) ∧
    ((linkDir noP1 (12 : Fin 14) (0 : Fin 2)).dead = false ∧ linkFlitFails (linkDir noP1 (12 : Fin 14) (0 : Fin 2)) (12 :
      Fin 14) (0 : Fin 2) (linkDir noP1 (12 : Fin 14) (0 : Fin 2)).next [(9 : Byte)] = true ∧ (↑(12 : Fin 14) : Nat) = 12
      ∧ partsOnDie noP1 (1 : Die) = []) ∧
    ((linkDir rich (13 : Fin 14) (0 : Fin 2)).dead = false ∧ linkFlitFails (linkDir rich (13 : Fin 14) (0 : Fin 2)) (13 :
      Fin 14) (0 : Fin 2) (linkDir rich (13 : Fin 14) (0 : Fin 2)).next [(9 : Byte)] = true ∧ (↑(13 : Fin 14) : Nat) = 13
      ∧ rich.evt.modState = (0 : BitVec 2) ∧ rich.boot.stage = (5 : BitVec 4)) ∧
    (supersServeTheirLayersS21.supers[(0 : Super)].repairing = some supersServeTheirLayersV3 ∧
      supersServeTheirLayersS21.supers[(0 : Super)].repairQ = [] ∧ supersServeTheirLayersS21.supers[(0 : Super)].waiting =
      Vector.replicate 6 [] ∧ supersServeTheirLayersS21.dies[dieOf (0 : Super)].repair.length < 1024 ∧ (∀ l ∈ rowLines
      supersServeTheirLayersV3, (decodeLine (applyFlips (0 : Super) [] supersServeTheirLayersS21).supers[(0 : Super)] (0 :
      Super) l).isSome = true)) ∧
    (supersServeTheirLayersS21.supers[(0 : Super)].repairing = some supersServeTheirLayersV3 ∧
      supersServeTheirLayersS21.supers[(0 : Super)].repairQ = [] ∧ supersServeTheirLayersS21.supers[(0 : Super)].waiting =
      Vector.replicate 6 [] ∧ supersServeTheirLayersS21.dies[dieOf (0 : Super)].repair.length < 1024 ∧ (rowLines
      513).headD 0 ∈ rowLines supersServeTheirLayersV3 ∧ (rowLines 513).headD 0 < metaBase / 128 ∧ decodeLine (applyFlips
      (0 : Super) [((rowLines 513).headD 0, flip16)] supersServeTheirLayersS21).supers[(0 : Super)] (0 : Super) ((rowLines
      513).headD 0) = none) ∧
    (dieErr.supers[(2 : Super)].powered = true ∧ dieErr.supers[(2 : Super)].state ≠ (2 : BitVec 2) ∧ decodeLine
      (applyFlips (2 : Super) [] dieErr).supers[(2 : Super)] (2 : Super) ((applyFlips (2 : Super) [] dieErr).supers[(2 :
      Super)].scrubPos / 128) = some ({ left := 0, corrected := false, mark := some 0 } : Decoded) ∧
      ({ left := 0, corrected := false, mark := some 0 } : Decoded).mark = some (0 : Fin 16) ∧ partOf dieErr (2 : Super) =
      none ∧ regionDie (2 : Super) = none) := by
  refine ⟨?_, ?_, ?_, ?_, ?_, ?_, ?_, ?_, ?_, ?_, ?_, ?_, ?_, ?_, ?_, ?_, ?_, ?_, ?_, ?_, ?_, ?_, ?_, ?_, ?_, ?_, ?_, ?_⟩
  · decide +kernel
  · decide +kernel
  · decide +kernel
  · decide +kernel
  · decide +kernel
  · decide +kernel
  · decide +kernel
  · decide +kernel
  · exact ⟨by decide +kernel, short_fails _ _ _, by decide +kernel, by decide +kernel, by decide +kernel⟩
  · decide +kernel
  · decide +kernel
  · decide +kernel
  · decide +kernel
  · decide +kernel
  · exact ⟨by decide +kernel, by decide +kernel, Laws.decodeLine_many (by decide +kernel) rfl (by decide +kernel)
    (by decide +kernel), by decide +kernel⟩
  · exact ⟨by decide +kernel, by decide +kernel, Laws.decodeLine_many (by decide +kernel) rfl (by decide +kernel)
    (by decide +kernel), by decide +kernel⟩
  · exact ⟨by decide +kernel, by decide +kernel, Laws.decodeLine_many (by decide +kernel) rfl (by decide +kernel)
    (by decide +kernel), by decide +kernel⟩
  · exact ⟨by decide +kernel, by decide +kernel, Laws.decodeLine_many (by decide +kernel) rfl (by decide +kernel)
    (by decide +kernel), by decide +kernel, by decide +kernel, by decide +kernel⟩
  · decide +kernel
  · decide +kernel
  · decide +kernel
  · exact ⟨by decide +kernel, body_opens rich (0 : Fin 14) (0 : DWord) (by decide +kernel)⟩
  · exact ⟨by decide +kernel, short_fails _ _ _, by decide +kernel, by decide +kernel⟩
  · exact ⟨by decide +kernel, short_fails _ _ _, by decide +kernel, by decide +kernel⟩
  · exact ⟨by decide +kernel, short_fails _ _ _, by decide +kernel, by decide +kernel, by decide +kernel⟩
  · decide +kernel
  · exact ⟨by decide +kernel, by decide +kernel, by decide +kernel, by decide +kernel, by decide +kernel,
    by decide +kernel, Laws.decodeLine_many (by decide +kernel) rfl (by decide +kernel) (by decide +kernel)⟩
  · exact ⟨by decide +kernel, by decide +kernel, Laws.decodeLine_die (d := 0) (by decide +kernel) (by decide +kernel)
    dieErr_read, by decide +kernel, by decide +kernel, by decide +kernel⟩

def memoryRequestsV0 : Fin 6 × MemReq × List MemReq := ((nextPort (applyFlips (0 : Super) [] memoryRequestsS29).supers[(0
  : Super)])).getD (0, ⟨.comb 0, 0, .read, 0⟩, [])
def memoryRequestsV1 : Decoded := ((decodeLine (applyFlips (0 : Super) [(5, (1 : BitVec 1152))]
  memoryRequestsS25).supers[(0 : Super)] (0 : Super) (640 / 128 * 128 / 128))).getD {}
def memoryRequestsV2 : Sys2Proof.Part × RgnMap × Nat := ((ownerAt (applyFlips (0 : Super) [((61471719424 / 128 : Nat),
  tagCode)] rich) (0 : Super) (61471719424 / 128 * 128))).getD (0, ⟨0, 0, 0, 0, 0, []⟩, 0)
def memoryRequestsV3 : Nat := ((missingNodes (applyFlips (1 : Super) [(nodeLine (16777216 * 4), flip16)]
  memoryRequestsS34).supers[(1 : Super)] (512 / 128 * 128)).head?).getD 0
def memoryRequestsV4 : Sys2Proof.Part × RgnMap × Nat := ((ownerAt (applyFlips (1 : Super) [(nodeLine (16777216 * 4),
  flip16)] memoryRequestsS34) (1 : Super) (512 / 128 * 128))).getD (0, ⟨0, 0, 0, 0, 0, []⟩, 0)
def memoryRequestsV5 : Sys2Proof.Part × RgnMap × Nat := ((ownerAt (applyFlips (0 : Super) [] memoryRequestsS27) (0 :
  Super) (512 / 512 * 512))).getD (0, ⟨0, 0, 0, 0, 0, []⟩, 0)
/-- A line with a byte in error that is corrected, one with more than can be corrected, a tag in error, a node in a lost line. -/
def fixedS : State := applyFlips 0 [(5, 1)] memoryRequestsS25
def lostS : State := applyFlips 0 [(5, flip16)] memoryRequestsS25
def tagS : State := applyFlips 0 [(0xE50000000 / 128, tagCode)] rich
def nodeS : State := applyFlips 1 [(nodeLine (16777216 * 4), flip16)] memoryRequestsS34

/-- The sector of the line whose tag is in error. -/
def tagLines : List Nat := (List.range 4).map fun x => 0xE50000000 / 512 * 4 + x

theorem mark_none {o : Option Decoded} (h : o.all (fun d => decide (d.mark = none)) = true) (d : Decoded) (e : o = some d) :
    d.mark = none := by
  subst e
  simpa using h

theorem tag_check : lineCheck tagS 0 (0xE50000000 / 128) = .badTag :=
  Laws.lineCheck_badTag (d := ⟨tagCode, false, none⟩) (t := 1) (by decide +kernel) (by decide +kernel) (by decide +kernel)
    (by decide +kernel) (by decide +kernel)

theorem tag_read : readOutcome tagS 0 (0xE50000000 / 128 * 128) = .badTag :=
  (Laws.readOutcome_line (by decide +kernel) (by decide +kernel) (by decide +kernel)).trans tag_check

theorem tag_marks : ∀ l ∈ tagLines, (∀ d, decodeLine tagS.supers[(0 : Super)] 0 l = some d → d.mark = none) ∧
    ∀ d, decodeLine tagS.supers[(0 : Super)] 0 (tagLine l) = some d → d.mark = none := by
  have h : ∀ l ∈ tagLines, (decodeLine tagS.supers[(0 : Super)] 0 l).all (fun d => decide (d.mark = none)) = true ∧
      (decodeLine tagS.supers[(0 : Super)] 0 (tagLine l)).all (fun d => decide (d.mark = none)) = true := by decide +kernel
  exact fun l hl => ⟨mark_none (h l hl).1, mark_none (h l hl).2⟩

theorem tag_line : ∃ l ∈ tagLines, (∀ x ∈ wholeLines 0xE50000000 (List.length d12_9), x ≠ l) ∧ lineCheck tagS 0 l = .badTag :=
  ⟨0xE50000000 / 128, by decide +kernel, by decide +kernel, tag_check⟩

theorem tag_owner : ∀ l ∈ tagLines, ∃ (m : RgnMap) (a : Nat), ownerAt tagS 0 (128 * l) = some ((0 : Part), m, a) := by
  have h : ∀ l ∈ tagLines, (ownerAt tagS 0 (128 * l)).map (·.1) = some 0 := by decide +kernel
  intro l hl
  have e := h l hl
  cases ho : ownerAt tagS 0 (128 * l) with
  | none => simp [ho] at e
  | some x => exact ⟨x.2.1, x.2.2, by simp [ho] at e; simp [← e]⟩

theorem test_meets_MemoryRequests :
    (BitVec.getLsbD (8 : BitVec 4) 3 = true ∧ (d128_7 ≠ [] ∧ if List.length d128_7 < 128 then 0 % 128 +
      List.length d128_7 ≤ 128 else 0 % 128 = 0 ∧ List.length d128_7 % 128 = 0)) ∧
    (¬(([] : Bytes) ≠ [] ∧ if ([] : Bytes).length < 128 then 0 % 128 + ([] : Bytes).length ≤ 128 else 0 % 128 = 0 ∧ ([] :
      Bytes).length % 128 = 0)) ∧
    (BitVec.getLsbD (0 : BitVec 4) 3 = false ∧ accessOf (applyFlips (0 : Super) [] rich) (0 : Super) (5 / 128 * 128)
      Requester.operator = Access.refused true) ∧
    (BitVec.getLsbD (0 : BitVec 4) 3 = false ∧ accessOf (applyFlips (0 : Super) [] rich) (0 : Super) 5
      Requester.operator = Access.refused true ∧ (d12_9 ≠ [] ∧ if List.length d12_9 < 128 then 5 % 128 + List.length d12_9
      ≤ 128 else 5 % 128 = 0 ∧ List.length d12_9 % 128 = 0)) ∧
    (BitVec.getLsbD (0 : BitVec 4) 3 = false ∧ (∀ (j : Comb), Requester.operator = Requester.comb j → routeOpen
      (applyFlips (0 : Super) [] rich) j (0 : Super) = true) ∧ superServes (applyFlips (0 : Super) [] rich).supers[(0 :
      Super)] (8589934592 / 128 * 128) = true ∧ (applyFlips (0 : Super) [] rich).supers[(0 : Super)].waiting[linkPort (0 :
      Super) Requester.operator] = [] ∧ accessOf (applyFlips (0 : Super) [] rich) (0 : Super) (8589934592 / 128 * 128)
      Requester.operator = Access.stored) ∧
    (BitVec.getLsbD (1 : BitVec 4) 3 = false ∧ (¬∀ (j : Comb), Requester.comb (0 : Comb) = Requester.comb j →
      routeOpen (applyFlips (1 : Super) [] memoryRequestsS31) j (1 : Super) = true) ∧ (∀ (dbg : Bool), accessOf
      (applyFlips (1 : Super) [] memoryRequestsS31) (1 : Super) (512 / 128 * 128) (Requester.comb (0 : Comb)) ≠
      Access.refused dbg)) ∧
    (nextPort (applyFlips (0 : Super) [] memoryRequestsS29).supers[(0 : Super)] = some ((0 : Fin 6), memoryRequestsV0.2.1,
      [])) ∧
    (BitVec.getLsbD (0 : BitVec 4) 3 = false ∧ (∀ (j : Comb), Requester.comb (0 : Comb) = Requester.comb j →
      routeOpen (applyFlips (0 : Super) [] memoryRequestsS22) j (0 : Super) = true) ∧ (superServes (applyFlips (0 : Super)
      [] memoryRequestsS22).supers[(0 : Super)] (4096 / 128 * 128) = false ∨ (applyFlips (0 : Super) []
      memoryRequestsS22).supers[(0 : Super)].waiting[linkPort (0 : Super) (Requester.comb (0 : Comb))] ≠ []) ∧ (∀ (dbg :
      Bool), accessOf (applyFlips (0 : Super) [] memoryRequestsS22) (0 : Super) (4096 / 128 * 128) (Requester.comb (0 :
      Comb)) ≠ Access.refused dbg)) := by
  refine ⟨?_, ?_, ?_, ?_, ?_, ?_, ?_, ?_⟩
  · decide +kernel
  · decide +kernel
  · decide +kernel
  · decide +kernel
  · decide +kernel
  · decide +kernel
  · decide +kernel
  · decide +kernel

theorem test_meets_MemoryRequests2 :
    (BitVec.getLsbD (0 : BitVec 4) 3 = false ∧ (∀ (j : Comb), Requester.comb (0 : Comb) = Requester.comb j →
      routeOpen (applyFlips (0 : Super) [] memoryRequestsS22) j (0 : Super) = true) ∧ (superServes (applyFlips (0 : Super)
      [] memoryRequestsS22).supers[(0 : Super)] 4096 = false ∨ (applyFlips (0 : Super) [] memoryRequestsS22).supers[(0 :
      Super)].waiting[linkPort (0 : Super) (Requester.comb (0 : Comb))] ≠ []) ∧ (∀ (dbg : Bool), accessOf (applyFlips (0 :
      Super) [] memoryRequestsS22) (0 : Super) 4096 (Requester.comb (0 : Comb)) ≠ Access.refused dbg) ∧ (d128_7 ≠ [] ∧ if
      List.length d128_7 < 128 then 4096 % 128 + List.length d128_7 ≤ 128 else 4096 % 128 = 0 ∧ List.length d128_7 % 128 =
      0)) ∧
    (BitVec.getLsbD (0 : BitVec 4) 3 = false ∧ (∀ (j : Comb), Requester.comb (0 : Comb) = Requester.comb j → routeOpen
      (applyFlips (0 : Super) [] memoryRequestsS30) j (0 : Super) = true) ∧ superServes (applyFlips (0 : Super) []
      memoryRequestsS30).supers[(0 : Super)] (512 / 128 * 128) = true ∧ (applyFlips (0 : Super) []
      memoryRequestsS30).supers[(0 : Super)].waiting[linkPort (0 : Super) (Requester.comb (0 : Comb))] = [] ∧ accessOf
      (applyFlips (0 : Super) [] memoryRequestsS30) (0 : Super) (512 / 128 * 128) (Requester.comb (0 : Comb)) = Access.ok
      (1 : KeyId) ∧ (applyFlips (0 : Super) [] memoryRequestsS30).supers[(0 : Super)].slots[(1 : KeyId)].state = (1 :
      BitVec 2) ∧ (nodeBad (applyFlips (0 : Super) [] memoryRequestsS30).supers[(0 : Super)] 512 = false ∧ ∀ n ∈
      missingNodes (applyFlips (0 : Super) [] memoryRequestsS30).supers[(0 : Super)] 512, tabGet (0 : BitVec 1152)
      (applyFlips (0 : Super) [] memoryRequestsS30).supers[(0 : Super)].dramErr (nodeLine n) = (0 : BitVec 1152)) ∧
      (touchCtr (512 / 128 * 128) false (applyFlips (0 : Super) [] memoryRequestsS30).supers[(0 : Super)]).2 = [] ∧ tabGet
      0 (applyFlips (0 : Super) [] memoryRequestsS30).supers[(0 : Super)].ctr (512 / 512) ≠ 0 ∧ (applyFlips (0 : Super) []
      memoryRequestsS30).supers[(0 : Super)].poison.contains (512 / 128 * 128 / 128) = false ∧ tabGet (0 : BitVec 1152)
      (applyFlips (0 : Super) [] memoryRequestsS30).supers[(0 : Super)].dramErr (512 / 128 * 128 / 128) = (0 : BitVec
      1152) ∧ (sealedAt (0 : Super) (128 * (512 / 128 * 128 / 128)) = true → (applyFlips (0 : Super) []
      memoryRequestsS30).supers[(0 : Super)].dieMark = false) ∧ (sealedAt (0 : Super) (128 * (512 / 128 * 128 / 128)) =
      false → tabGet (0 : BitVec 1152) (applyFlips (0 : Super) [] memoryRequestsS30).supers[(0 : Super)].dramErr (tagLine
      (512 / 128 * 128 / 128)) = (0 : BitVec 1152))) ∧
    (BitVec.getLsbD (0 : BitVec 4) 3 = false ∧ (∀ (j : Comb), Requester.comb (0 : Comb) = Requester.comb j → routeOpen
      (applyFlips (0 : Super) [] memoryRequestsS30) j (0 : Super) = true) ∧ superServes (applyFlips (0 : Super) []
      memoryRequestsS30).supers[(0 : Super)] 512 = true ∧ (applyFlips (0 : Super) [] memoryRequestsS30).supers[(0 :
      Super)].waiting[linkPort (0 : Super) (Requester.comb (0 : Comb))] = [] ∧ accessOf (applyFlips (0 : Super) []
      memoryRequestsS30) (0 : Super) 512 (Requester.comb (0 : Comb)) = Access.ok (1 : KeyId) ∧ (d12_9 ≠ [] ∧ if
      List.length d12_9 < 128 then 512 % 128 + List.length d12_9 ≤ 128 else 512 % 128 = 0 ∧ List.length d12_9 % 128 = 0) ∧
      (applyFlips (0 : Super) [] memoryRequestsS30).supers[(0 : Super)].slots[(1 : KeyId)].state = (1 : BitVec 2) ∧
      (nodeBad (applyFlips (0 : Super) [] memoryRequestsS30).supers[(0 : Super)] 512 = false ∧ ∀ n ∈ missingNodes
      (applyFlips (0 : Super) [] memoryRequestsS30).supers[(0 : Super)] 512, tabGet (0 : BitVec 1152) (applyFlips (0 :
      Super) [] memoryRequestsS30).supers[(0 : Super)].dramErr (nodeLine n) = (0 : BitVec 1152)) ∧ 512 % 512 + List.length
      d12_9 ≤ 512 ∧ tabGet 0 (applyFlips (0 : Super) [] memoryRequestsS30).supers[(0 : Super)].ctr (512 / 512) + 1 < 2 ^
      55 ∧ (touchCtr 512 true (applyFlips (0 : Super) [] memoryRequestsS30).supers[(0 : Super)]).2 = [] ∧ (tabGet 0
      (applyFlips (0 : Super) [] memoryRequestsS30).supers[(0 : Super)].ctr (512 / 512) ≠ 0 → (∀ l ∈ List.map (fun (x :
      Nat) => 512 / 512 * 4 + x) (List.range 4), tabGet (0 : BitVec 1152) (applyFlips (0 : Super) []
      memoryRequestsS30).supers[(0 : Super)].dramErr l = (0 : BitVec 1152) ∧ (sealedAt (0 : Super) (128 * l) = true →
      (applyFlips (0 : Super) [] memoryRequestsS30).supers[(0 : Super)].dieMark = false) ∧ (sealedAt (0 : Super) (128 * l)
      = false → tabGet (0 : BitVec 1152) (applyFlips (0 : Super) [] memoryRequestsS30).supers[(0 : Super)].dramErr
      (tagLine l) = (0 : BitVec 1152))) ∧ (List.length d12_9 < 128 → (applyFlips (0 : Super) []
      memoryRequestsS30).supers[(0 : Super)].poison.contains (512 / 128) = false))) ∧
    (BitVec.getLsbD (0 : BitVec 4) 3 = false ∧ (∀ (j : Comb), Requester.comb (0 : Comb) = Requester.comb j → routeOpen
      (applyFlips (0 : Super) [] memoryRequestsS30) j (0 : Super) = true) ∧ superServes (applyFlips (0 : Super) []
      memoryRequestsS30).supers[(0 : Super)] 512 = true ∧ (applyFlips (0 : Super) [] memoryRequestsS30).supers[(0 :
      Super)].waiting[linkPort (0 : Super) (Requester.comb (0 : Comb))] = [] ∧ accessOf (applyFlips (0 : Super) []
      memoryRequestsS30) (0 : Super) 512 (Requester.comb (0 : Comb)) = Access.ok (1 : KeyId) ∧ (d12_9 ≠ [] ∧ if
      List.length d12_9 < 128 then 512 % 128 + List.length d12_9 ≤ 128 else 512 % 128 = 0 ∧ List.length d12_9 % 128 = 0) ∧
      (applyFlips (0 : Super) [] memoryRequestsS30).supers[(0 : Super)].slots[(1 : KeyId)].state = (1 : BitVec 2) ∧
      List.length d12_9 < 128 ∧ (readOutcome (applyFlips (0 : Super) [] memoryRequestsS30) (0 : Super) 512 = LineRead.zero
      ∨ ∃ (e : BitVec 1024), readOutcome (applyFlips (0 : Super) [] memoryRequestsS30) (0 : Super) 512 = LineRead.good
      e)) ∧
    (BitVec.getLsbD (0 : BitVec 4) 3 = false ∧ (∀ (j : Comb), Requester.comb (0 : Comb) = Requester.comb j → routeOpen
      (applyFlips (0 : Super) [] memoryRequestsS23) j (0 : Super) = true) ∧ superServes (applyFlips (0 : Super) []
      memoryRequestsS23).supers[(0 : Super)] (512 / 128 * 128) = true ∧ (applyFlips (0 : Super) []
      memoryRequestsS23).supers[(0 : Super)].waiting[linkPort (0 : Super) (Requester.comb (0 : Comb))] = [] ∧ accessOf
      (applyFlips (0 : Super) [] memoryRequestsS23) (0 : Super) (512 / 128 * 128) (Requester.comb (0 : Comb)) = Access.ok
      (1 : KeyId) ∧ (applyFlips (0 : Super) [] memoryRequestsS23).supers[(0 : Super)].slots[(1 : KeyId)].state ≠ (1 :
      BitVec 2)) ∧
    (BitVec.getLsbD (0 : BitVec 4) 3 = false ∧ (∀ (j : Comb), Requester.comb (0 : Comb) = Requester.comb j → routeOpen
      (applyFlips (0 : Super) [] memoryRequestsS23) j (0 : Super) = true) ∧ superServes (applyFlips (0 : Super) []
      memoryRequestsS23).supers[(0 : Super)] 512 = true ∧ (applyFlips (0 : Super) [] memoryRequestsS23).supers[(0 :
      Super)].waiting[linkPort (0 : Super) (Requester.comb (0 : Comb))] = [] ∧ accessOf (applyFlips (0 : Super) []
      memoryRequestsS23) (0 : Super) 512 (Requester.comb (0 : Comb)) = Access.ok (1 : KeyId) ∧ (d128_7 ≠ [] ∧ if
      List.length d128_7 < 128 then 512 % 128 + List.length d128_7 ≤ 128 else 512 % 128 = 0 ∧ List.length d128_7 % 128 =
      0) ∧ (applyFlips (0 : Super) [] memoryRequestsS23).supers[(0 : Super)].slots[(1 : KeyId)].state ≠ (1 : BitVec 2)) ∧
    (BitVec.getLsbD (0 : BitVec 4) 3 = false ∧ (∀ (j : Comb), Requester.comb (1 : Comb) = Requester.comb j →
      routeOpen (applyFlips (0 : Super) [] rich) j (0 : Super) = true) ∧ superServes (applyFlips (0 : Super) []
      rich).supers[(0 : Super)] (1024 / 128 * 128) = true ∧ (applyFlips (0 : Super) [] rich).supers[(0 :
      Super)].waiting[linkPort (0 : Super) (Requester.comb (1 : Comb))] = [] ∧ accessOf (applyFlips (0 : Super) [] rich)
      (0 : Super) (1024 / 128 * 128) (Requester.comb (1 : Comb)) = Access.ok (1 : KeyId) ∧ (applyFlips (0 : Super) []
      rich).supers[(0 : Super)].slots[(1 : KeyId)].state = (1 : BitVec 2) ∧ (nodeBad (applyFlips (0 : Super) []
      rich).supers[(0 : Super)] 1024 = false ∧ ∀ n ∈ missingNodes (applyFlips (0 : Super) [] rich).supers[(0 : Super)]
      1024, tabGet (0 : BitVec 1152) (applyFlips (0 : Super) [] rich).supers[(0 : Super)].dramErr (nodeLine n) = (0 :
      BitVec 1152)) ∧ (touchCtr (1024 / 128 * 128) false (applyFlips (0 : Super) [] rich).supers[(0 : Super)]).2 = [] ∧
      tabGet 0 (applyFlips (0 : Super) [] rich).supers[(0 : Super)].ctr (1024 / 512) = 0) ∧
    (BitVec.getLsbD (0 : BitVec 4) 3 = false ∧ (∀ (j : Comb), Requester.comb (0 : Comb) = Requester.comb j → routeOpen
      (applyFlips (0 : Super) [] memoryRequestsS26) j (0 : Super) = true) ∧ superServes (applyFlips (0 : Super) []
      memoryRequestsS26).supers[(0 : Super)] (512 / 128 * 128) = true ∧ (applyFlips (0 : Super) []
      memoryRequestsS26).supers[(0 : Super)].waiting[linkPort (0 : Super) (Requester.comb (0 : Comb))] = [] ∧ accessOf
      (applyFlips (0 : Super) [] memoryRequestsS26) (0 : Super) (512 / 128 * 128) (Requester.comb (0 : Comb)) = Access.ok
      (1 : KeyId) ∧ (applyFlips (0 : Super) [] memoryRequestsS26).supers[(0 : Super)].slots[(1 : KeyId)].state = (1 :
      BitVec 2) ∧ (nodeBad (applyFlips (0 : Super) [] memoryRequestsS26).supers[(0 : Super)] 512 = false ∧ ∀ n ∈
      missingNodes (applyFlips (0 : Super) [] memoryRequestsS26).supers[(0 : Super)] 512, tabGet (0 : BitVec 1152)
      (applyFlips (0 : Super) [] memoryRequestsS26).supers[(0 : Super)].dramErr (nodeLine n) = (0 : BitVec 1152)) ∧
      (touchCtr (512 / 128 * 128) false (applyFlips (0 : Super) [] memoryRequestsS26).supers[(0 : Super)]).2 = [] ∧ tabGet
      0 (applyFlips (0 : Super) [] memoryRequestsS26).supers[(0 : Super)].ctr (512 / 512) ≠ 0 ∧ (applyFlips (0 : Super) []
      memoryRequestsS26).supers[(0 : Super)].poison.contains (512 / 128 * 128 / 128) = true) := by
  refine ⟨?_, ?_, ?_, ?_, ?_, ?_, ?_, ?_⟩
  · decide +kernel
  · decide +kernel
  · decide +kernel
  · exact ⟨by decide +kernel, by decide +kernel, by decide +kernel, by decide +kernel, by decide +kernel,
    by decide +kernel, by decide +kernel, by decide +kernel, .inr ⟨0, by decide +kernel⟩⟩
  · decide +kernel
  · decide +kernel
  · decide +kernel
  · decide +kernel

theorem test_meets_MemoryRequests3 :
    (BitVec.getLsbD (0 : BitVec 4) 3 = false ∧ (∀ (j : Comb), Requester.comb (0 : Comb) = Requester.comb j → routeOpen
      (applyFlips (0 : Super) [] memoryRequestsS26) j (0 : Super) = true) ∧ superServes (applyFlips (0 : Super) []
      memoryRequestsS26).supers[(0 : Super)] 512 = true ∧ (applyFlips (0 : Super) [] memoryRequestsS26).supers[(0 :
      Super)].waiting[linkPort (0 : Super) (Requester.comb (0 : Comb))] = [] ∧ accessOf (applyFlips (0 : Super) []
      memoryRequestsS26) (0 : Super) 512 (Requester.comb (0 : Comb)) = Access.ok (1 : KeyId) ∧ (d12_9 ≠ [] ∧ if
      List.length d12_9 < 128 then 512 % 128 + List.length d12_9 ≤ 128 else 512 % 128 = 0 ∧ List.length d12_9 % 128 = 0) ∧
      (applyFlips (0 : Super) [] memoryRequestsS26).supers[(0 : Super)].slots[(1 : KeyId)].state = (1 : BitVec 2) ∧
      (nodeBad (applyFlips (0 : Super) [] memoryRequestsS26).supers[(0 : Super)] 512 = false ∧ ∀ n ∈ missingNodes
      (applyFlips (0 : Super) [] memoryRequestsS26).supers[(0 : Super)] 512, tabGet (0 : BitVec 1152) (applyFlips (0 :
      Super) [] memoryRequestsS26).supers[(0 : Super)].dramErr (nodeLine n) = (0 : BitVec 1152)) ∧ 512 % 512 + List.length
      d12_9 ≤ 512 ∧ List.length d12_9 < 128 ∧ tabGet 0 (applyFlips (0 : Super) [] memoryRequestsS26).supers[(0 :
      Super)].ctr (512 / 512) ≠ 0 ∧ tabGet 0 (applyFlips (0 : Super) [] memoryRequestsS26).supers[(0 : Super)].ctr (512 /
      512) + 1 ≠ 2 ^ 56 ∧ (applyFlips (0 : Super) [] memoryRequestsS26).supers[(0 : Super)].poison.contains (512 / 128) =
      true ∧ (∀ l ∈ List.map (fun (x : Nat) => 512 / 512 * 4 + x) (List.range 4), tabGet (0 : BitVec 1152) (applyFlips (0
      : Super) [] memoryRequestsS26).supers[(0 : Super)].dramErr l = (0 : BitVec 1152) ∧ (sealedAt (0 : Super) (128 * l) =
      true → (applyFlips (0 : Super) [] memoryRequestsS26).supers[(0 : Super)].dieMark = false) ∧ (sealedAt (0 : Super)
      (128 * l) = false → tabGet (0 : BitVec 1152) (applyFlips (0 : Super) [] memoryRequestsS26).supers[(0 :
      Super)].dramErr (tagLine l) = (0 : BitVec 1152)))) ∧
    (BitVec.getLsbD (0 : BitVec 4) 3 = false ∧ (∀ (j : Comb), Requester.comb (0 : Comb) = Requester.comb j → routeOpen
      fixedS j (0 : Super) = true) ∧ superServes fixedS.supers[(0 : Super)] (640 / 128 * 128) = true ∧ fixedS.supers[(0 :
      Super)].waiting[linkPort (0 : Super) (Requester.comb (0 : Comb))] = [] ∧ accessOf fixedS (0 : Super) (640 / 128 *
      128) (Requester.comb (0 : Comb)) = Access.ok (1 : KeyId) ∧ fixedS.supers[(0 : Super)].slots[(1 : KeyId)].state = (1
      : BitVec 2) ∧ (nodeBad fixedS.supers[(0 : Super)] 640 = false ∧ ∀ n ∈ missingNodes fixedS.supers[(0 : Super)] 640,
      tabGet (0 : BitVec 1152) fixedS.supers[(0 : Super)].dramErr (nodeLine n) = (0 : BitVec 1152)) ∧ (touchCtr (640 / 128
      * 128) false fixedS.supers[(0 : Super)]).2 = [] ∧ tabGet 0 fixedS.supers[(0 : Super)].ctr (640 / 512) ≠ 0 ∧
      fixedS.supers[(0 : Super)].poison.contains (640 / 128 * 128 / 128) = false ∧ decodeLine fixedS.supers[(0 : Super)]
      (0 : Super) (640 / 128 * 128 / 128) = some memoryRequestsV1 ∧ memoryRequestsV1.left = (0 : BitVec 1152) ∧
      memoryRequestsV1.corrected = true ∧ memoryRequestsV1.mark = none ∧ (sealedAt (0 : Super) (640 / 128 * 128) = true ∨
      tabGet (0 : BitVec 1152) fixedS.supers[(0 : Super)].dramErr (tagLine (640 / 128 * 128 / 128)) = (0 : BitVec
      1152))) ∧
    (BitVec.getLsbD (0 : BitVec 4) 3 = false ∧ (∀ (j : Comb), Requester.comb (0 : Comb) = Requester.comb j → routeOpen
      lostS j (0 : Super) = true) ∧ superServes lostS.supers[(0 : Super)] (640 / 128 * 128) = true ∧ lostS.supers[(0 :
      Super)].waiting[linkPort (0 : Super) (Requester.comb (0 : Comb))] = [] ∧ accessOf lostS (0 : Super) (640 / 128 *
      128) (Requester.comb (0 : Comb)) = Access.ok (1 : KeyId) ∧ lostS.supers[(0 : Super)].slots[(1 : KeyId)].state = (1 :
      BitVec 2) ∧ (nodeBad lostS.supers[(0 : Super)] 640 = false ∧ ∀ n ∈ missingNodes lostS.supers[(0 : Super)] 640,
      tabGet (0 : BitVec 1152) lostS.supers[(0 : Super)].dramErr (nodeLine n) = (0 : BitVec 1152)) ∧ (touchCtr (640 / 128
      * 128) false lostS.supers[(0 : Super)]).2 = [] ∧ tabGet 0 lostS.supers[(0 : Super)].ctr (640 / 512) ≠ 0 ∧
      lostS.supers[(0 : Super)].poison.contains (640 / 128 * 128 / 128) = false ∧ decodeLine lostS.supers[(0 : Super)] (0
      : Super) (640 / 128 * 128 / 128) = none) ∧
    (BitVec.getLsbD (0 : BitVec 4) 3 = false ∧ (∀ (j : Comb), Requester.comb (0 : Comb) = Requester.comb j →
      routeOpen tagS j (0 : Super) = true) ∧ superServes tagS.supers[(0 : Super)] (0xE50000000 / 128 * 128) = true ∧
      tagS.supers[(0 : Super)].waiting[linkPort (0 : Super) (Requester.comb (0 : Comb))] = [] ∧ accessOf tagS (0 : Super)
      (0xE50000000 / 128 * 128) (Requester.comb (0 : Comb)) = Access.ok (2 : KeyId) ∧ tagS.supers[(0 : Super)].slots[(2 :
      KeyId)].state = (1 : BitVec 2) ∧ (nodeBad tagS.supers[(0 : Super)] 0xE50000000 = false ∧ ∀ n ∈ missingNodes
      tagS.supers[(0 : Super)] 0xE50000000, tabGet (0 : BitVec 1152) tagS.supers[(0 : Super)].dramErr (nodeLine n) = (0 :
      BitVec 1152)) ∧ (touchCtr (0xE50000000 / 128 * 128) false tagS.supers[(0 : Super)]).2 = [] ∧ tabGet 0 tagS.supers[(0
      : Super)].ctr (0xE50000000 / 512) ≠ 0 ∧ tagS.supers[(0 : Super)].poison.contains (0xE50000000 / 128 * 128 / 128) =
      false ∧ readOutcome tagS (0 : Super) (0xE50000000 / 128 * 128) = LineRead.badTag ∧ ((∀ (d : Decoded), decodeLine
      tagS.supers[(0 : Super)] (0 : Super) (0xE50000000 / 128 * 128 / 128) = some d → d.mark = none) ∧ ∀ (d : Decoded),
      decodeLine tagS.supers[(0 : Super)] (0 : Super) (tagLine (0xE50000000 / 128 * 128 / 128)) = some d → d.mark = none)
      ∧ (∀ (j : Super), Requester.comb (0 : Comb) ≠ Requester.hild j) ∧ ownerAt tagS (0 : Super) (0xE50000000 / 128 * 128)
      = some ((0 : Part), memoryRequestsV2.2.1, memoryRequestsV2.2.2) ∧ tagS.parts[(0 : Part)].recov = []) ∧
    (BitVec.getLsbD (0 : BitVec 4) 3 = false ∧ (∀ (j : Comb), Requester.comb (0 : Comb) = Requester.comb j →
      routeOpen tagS j (0 : Super) = true) ∧ superServes tagS.supers[(0 : Super)] 0xE50000000 = true ∧ tagS.supers[(0 :
      Super)].waiting[linkPort (0 : Super) (Requester.comb (0 : Comb))] = [] ∧ accessOf tagS (0 : Super) 0xE50000000
      (Requester.comb (0 : Comb)) = Access.ok (2 : KeyId) ∧ (d12_9 ≠ [] ∧ if List.length d12_9 < 128 then 0xE50000000 %
      128 + List.length d12_9 ≤ 128 else 0xE50000000 % 128 = 0 ∧ List.length d12_9 % 128 = 0) ∧ tagS.supers[(0 :
      Super)].slots[(2 : KeyId)].state = (1 : BitVec 2) ∧ (nodeBad tagS.supers[(0 : Super)] 0xE50000000 = false ∧ ∀ n ∈
      missingNodes tagS.supers[(0 : Super)] 0xE50000000, tabGet (0 : BitVec 1152) tagS.supers[(0 : Super)].dramErr
      (nodeLine n) = (0 : BitVec 1152)) ∧ 0xE50000000 % 512 + List.length d12_9 ≤ 512 ∧ tabGet 0 tagS.supers[(0 :
      Super)].ctr (0xE50000000 / 512) ≠ 0 ∧ tabGet 0 tagS.supers[(0 : Super)].ctr (0xE50000000 / 512) + 1 ≠ 2 ^ 56 ∧ (∀ l
      ∈ tagLines, (∀ (d : Decoded), decodeLine tagS.supers[(0 : Super)] (0 : Super) l = some d → d.mark = none) ∧ ∀ (d :
      Decoded), decodeLine tagS.supers[(0 : Super)] (0 : Super) (tagLine l) = some d → d.mark = none) ∧ (∀ (j : Super),
      Requester.comb (0 : Comb) ≠ Requester.hild j) ∧ (∃ l ∈ tagLines, (∀ x ∈ wholeLines 0xE50000000 (List.length d12_9),
      x ≠ l) ∧ lineCheck tagS (0 : Super) l = LineRead.badTag) ∧ (∀ l ∈ tagLines, ∃ (m : RgnMap) (a : Nat), ownerAt tagS
      (0 : Super) (128 * l) = some ((0 : Part), m, a)) ∧ tagS.parts[(0 : Part)].recov = []) ∧
    (BitVec.getLsbD (0 : BitVec 4) 3 = false ∧ (∀ (j : Comb), Requester.comb (0 : Comb) = Requester.comb j → routeOpen
      (applyFlips (0 : Super) [] memoryRequestsS32) j (0 : Super) = true) ∧ superServes (applyFlips (0 : Super) []
      memoryRequestsS32).supers[(0 : Super)] (512 / 128 * 128) = true ∧ (applyFlips (0 : Super) []
      memoryRequestsS32).supers[(0 : Super)].waiting[linkPort (0 : Super) (Requester.comb (0 : Comb))] = [] ∧ accessOf
      (applyFlips (0 : Super) [] memoryRequestsS32) (0 : Super) (512 / 128 * 128) (Requester.comb (0 : Comb)) = Access.ok
      (1 : KeyId) ∧ (applyFlips (0 : Super) [] memoryRequestsS32).supers[(0 : Super)].slots[(1 : KeyId)].state = (1 :
      BitVec 2) ∧ nodeBad (applyFlips (0 : Super) [] memoryRequestsS32).supers[(0 : Super)] (512 / 128 * 128) = true) ∧
    (BitVec.getLsbD (1 : BitVec 4) 3 = false ∧ (∀ (j : Comb), Requester.comb (1 : Comb) = Requester.comb j →
      routeOpen nodeS j (1 : Super) = true) ∧ superServes nodeS.supers[(1 : Super)] (512 / 128 * 128) = true ∧
      nodeS.supers[(1 : Super)].waiting[linkPort (1 : Super) (Requester.comb (1 : Comb))] = [] ∧ accessOf nodeS (1 :
      Super) (512 / 128 * 128) (Requester.comb (1 : Comb)) = Access.ok (1 : KeyId) ∧ nodeS.supers[(1 : Super)].slots[(1 :
      KeyId)].state = (1 : BitVec 2) ∧ nodeBad nodeS.supers[(1 : Super)] (512 / 128 * 128) = false ∧ (missingNodes
      nodeS.supers[(1 : Super)] (512 / 128 * 128)).head? = some memoryRequestsV3 ∧ nodeVerifies nodeS.supers[(1 : Super)]
      (1 : Super) memoryRequestsV3 = false ∧ regionDie (1 : Super) = none ∧ (∀ (j : Super), Requester.comb (1 : Comb) ≠
      Requester.hild j) ∧ ownerAt nodeS (1 : Super) (512 / 128 * 128) = some ((0 : Part), memoryRequestsV4.2.1,
      memoryRequestsV4.2.2) ∧ nodeS.parts[(0 : Part)].recov = []) ∧
    (BitVec.getLsbD (0 : BitVec 4) 3 = false ∧ (∀ (j : Comb), Requester.comb (0 : Comb) = Requester.comb j → routeOpen
      (applyFlips (0 : Super) [] memoryRequestsS27) j (0 : Super) = true) ∧ superServes (applyFlips (0 : Super) []
      memoryRequestsS27).supers[(0 : Super)] 512 = true ∧ (applyFlips (0 : Super) [] memoryRequestsS27).supers[(0 :
      Super)].waiting[linkPort (0 : Super) (Requester.comb (0 : Comb))] = [] ∧ accessOf (applyFlips (0 : Super) []
      memoryRequestsS27) (0 : Super) 512 (Requester.comb (0 : Comb)) = Access.ok (1 : KeyId) ∧ (d128_9 ≠ [] ∧ if
      List.length d128_9 < 128 then 512 % 128 + List.length d128_9 ≤ 128 else 512 % 128 = 0 ∧ List.length d128_9 % 128 =
      0) ∧ (applyFlips (0 : Super) [] memoryRequestsS27).supers[(0 : Super)].slots[(1 : KeyId)].state = (1 : BitVec 2) ∧
      (nodeBad (applyFlips (0 : Super) [] memoryRequestsS27).supers[(0 : Super)] 512 = false ∧ ∀ n ∈ missingNodes
      (applyFlips (0 : Super) [] memoryRequestsS27).supers[(0 : Super)] 512, tabGet (0 : BitVec 1152) (applyFlips (0 :
      Super) [] memoryRequestsS27).supers[(0 : Super)].dramErr (nodeLine n) = (0 : BitVec 1152)) ∧ 512 % 512 + List.length
      d128_9 ≤ 512 ∧ tabGet 0 (applyFlips (0 : Super) [] memoryRequestsS27).supers[(0 : Super)].ctr (512 / 512) + 1 = 2 ^
      56 ∧ ownerAt (applyFlips (0 : Super) [] memoryRequestsS27) (0 : Super) (512 / 512 * 512) = some ((0 : Part),
      memoryRequestsV5.2.1, memoryRequestsV5.2.2) ∧ (applyFlips (0 : Super) [] memoryRequestsS27).parts[(0 : Part)].recov
      = []) := by
  refine ⟨?_, ?_, ?_, ?_, ?_, ?_, ?_, ?_⟩
  · decide +kernel
  · decide +kernel
  · exact ⟨by decide +kernel, by decide +kernel, by decide +kernel, by decide +kernel, by decide +kernel,
    by decide +kernel, by decide +kernel, by decide +kernel, by decide +kernel, by decide +kernel, Laws.decodeLine_many
    (by decide +kernel) rfl (by decide +kernel) (by decide +kernel)⟩
  · exact ⟨by decide +kernel, by decide +kernel, by decide +kernel, by decide +kernel, by decide +kernel,
    by decide +kernel, by decide +kernel, by decide +kernel, by decide +kernel, by decide +kernel, tag_read, ⟨mark_none
    (by decide +kernel), mark_none (by decide +kernel)⟩, by decide +kernel, by decide +kernel, by decide +kernel⟩
  · exact ⟨by decide +kernel, by decide +kernel, by decide +kernel, by decide +kernel, by decide +kernel,
    by decide +kernel, by decide +kernel, by decide +kernel, by decide +kernel, by decide +kernel, by decide +kernel,
    tag_marks, by decide +kernel, tag_line, tag_owner, by decide +kernel⟩
  · decide +kernel
  · exact ⟨by decide +kernel, by decide +kernel, by decide +kernel, by decide +kernel, by decide +kernel,
    by decide +kernel, by decide +kernel, by decide +kernel, Laws.nodeVerifies_lost (Laws.decodeLine_many
    (by decide +kernel) rfl (by decide +kernel) (by decide +kernel)), by decide +kernel, by decide +kernel,
    by decide +kernel, by decide +kernel⟩
  · decide +kernel

end SuperTests

end Sys2Proof.Tests
end

section
/-! Registers as a function reads, clears and writes them, and the state after power-on (R5–R9). -/

namespace Sys2Proof.RegisterProofs

open Sys2Proof Sys2Proof.Machine

/-! ### The latch of upper halves -/

@[simp] theorem latchOf_emit (o : Output) (s : State) (f : Fn) (r : Reg) : latchOf (emit o s) f r = latchOf s f r := rfl

/-- A change of a function that leaves its latch leaves what every function has latched. -/
theorem latchOf_modFn {s : State} {n f : Fn} {h : FnState → FnState} {r : Reg} (hl : ∀ x, (h x).latch = x.latch) :
    latchOf (s.modFn n h) f r = latchOf s f r := by
  unfold latchOf
  have : (s.modFn n h).fns[f].latch = s.fns[f].latch := by
    by_cases e : n = f <;> simp [Fin.getElem_fin, modFn_get, e, hl]
  rw [this]

/-- The W1C bits of the module lie outside the functions. -/
theorem moduleStickies_fns (g : Nat → Sticky → Sticky) (r : Reg) (s : State) : (moduleStickies g r s).fns = s.fns := by
  unfold moduleStickies
  split <;> rfl

/-- Reading or clearing W1C bits leaves every latch. -/
@[simp] theorem latchOf_mapStickies (f' : Fn) (r' : Reg) (g : Nat → Sticky → Sticky) (s : State) (f : Fn) (r : Reg) :
    latchOf (mapStickies f' r' g s) f r = latchOf s f r := by
  have keep : ∀ t : State, t.fns = s.fns → latchOf t f r = latchOf s f r := fun t h => by simp only [latchOf, h]
  unfold mapStickies
  split
  case h_11 | h_12 | h_13 | h_14 => cases partOfFn f' <;> exact keep _ rfl
  case h_15 => exact latchOf_modFn fun _ => rfl
  case h_16 => exact keep _ (moduleStickies_fns ..)
  all_goals exact keep _ rfl

/-- Reading or clearing W1C bits sends nothing. -/
@[simp] theorem mapStickies_out (f : Fn) (r : Reg) (g : Nat → Sticky → Sticky) (s : State) :
    (mapStickies f r g s).out = s.out := by
  have w : Within [.hum, .seq, .combRegs, .router, .superRegs, .hild, .rings, .evq, .partRegs, .fns, .dies, .queen, .power,
      .evt, .mod] s (mapStickies f r g s) := mapStickies_without (by decide)
  exact w.out_eq (by decide)

/-- A latch that is dropped is empty, and every other register's stays. -/
theorem latchOf_dropLatch (s : State) (f : Fn) (r r' : Reg) :
    latchOf (dropLatch f r s) f r' = if r' = r then none else latchOf s f r' := by
  simp only [latchOf, dropLatch, Fin.getElem_fin, modFn_same, List.find?_filter]
  by_cases h : r' = r
  · subst h
    simp
  · have he : ∀ e : Reg × Word, (decide (decide (e.1 ≠ r) = true ∧ decide (e.1 = r') = true)) = decide (e.1 = r') := by
      intro e
      by_cases he : e.1 = r' <;> simp [he, h]
    simp only [he, if_neg h]

/-- A latch that is set is the new one, and every other register's stays. -/
theorem latchOf_setLatch (s : State) (f : Fn) (r r' : Reg) (w : Word) :
    latchOf (setLatch f r w s) f r' = if r' = r then some w else latchOf s f r' := by
  have hd := latchOf_dropLatch s f r r'
  by_cases h : r' = r
  · simp [latchOf, setLatch, h]
  · have hr : ¬ r = r' := fun e => h e.symm
    simpa [latchOf, setLatch, h, hr] using hd

@[simp] theorem dropLatch_out (f : Fn) (r : Reg) (s : State) : (dropLatch f r s).out = s.out := rfl
@[simp] theorem setLatch_out (f : Fn) (r : Reg) (w : Word) (s : State) : (setLatch f r w s).out = s.out := rfl

/-! ### Accesses that are taken and reach their register -/

section Access

variable {s : State} {f : Fn} {r : Reg} (ht : accessTaken s f r = true) (hr : reaches s f r = true)
include ht

/-- A half write of a 64-bit register changes nothing, whether it reaches the register or not (R8). -/
theorem halfWrite_ignored (hw : regWide r = true) {acc : Acc} (ha : acc ≠ .whole) (v : DWord) :
    exec (.registerWrite f r acc v) s = .next s ∧ exec (.w1cWrite f r acc v) s = .next s := by
  have hfit : writeFits r acc = false := by simp [writeFits, hw, ha]
  constructor
  · show execRegisterWrite f r acc v s = _
    simp [execRegisterWrite, done, ht, hfit]
  · show execW1cWrite f r acc v s = _
    simp [execW1cWrite, done, ht, hfit]

include hr

/-- A read of the lower half of a 64-bit register latches the upper (R8). -/
theorem exec_readLow (hw : regWide r = true) : exec (.lowHalfRead f r .low4) s =
    .next (emit (.mmioData f r (w64 (regVal s f r % 2 ^ 32))) (setLatch f r (w32 (regVal s f r / 2 ^ 32))
      (mapStickies f r (fun b t => if b < 32 then observe f t else t) s))) := by
  show execLowHalfRead f r .low4 s = _
  simp [execLowHalfRead, effRegRead, done, ht, hr, hw]

/-- A read of the upper half returns what was latched, and drops it (R8). -/
theorem exec_readHigh (hw : regWide r = true) {w : Word} (hl : latchOf s f r = some w) :
    exec (.lowHalfRead f r .high4) s = .next (emit (.mmioData f r (w.setWidth 64)) (dropLatch f r (mapStickies f r
      (fun b t => seenBit f (if b < 32 then none else some (w.getLsbD (b - 32))) t) s))) := by
  show execLowHalfRead f r .high4 s = _
  simp [execLowHalfRead, effRegRead, done, ht, hr, hw, hl]

/-- A read of the whole register, or of one of 32 bits, latches nothing (R8). -/
theorem exec_readWhole {acc : Acc} (ha : regWide r = false ∨ acc = .whole) : exec (.lowHalfRead f r acc) s =
    .next (emit (.mmioData f r (w64 (regVal s f r)))
      (mapStickies f r (fun b t => if bitShown f r b then observe f t else t) s)) := by
  show execLowHalfRead f r acc s = _
  simp [execLowHalfRead, effRegRead, done, ht, hr, ha]

/-- A write of the register's width takes effect (R5). -/
theorem exec_registerWrite {acc : Acc} (hf : writeFits r acc = true) (v : DWord) :
    exec (.registerWrite f r acc v) s = .next (effWriteReg f r v s) := by
  show execRegisterWrite f r acc v s = _
  simp [execRegisterWrite, done, ht, hr, hf]

/-- A write of ones of the register's width clears what the function has seen (R7). -/
theorem exec_w1cWrite {acc : Acc} (hf : writeFits r acc = true) (v : DWord) :
    exec (.w1cWrite f r acc v) s = .next (effClear f r v s) := by
  show execW1cWrite f r acc v s = _
  simp [execW1cWrite, done, ht, hr, hf]

end Access

/-- Settles O6: the lower half latches the upper until it is read, and a half write is ignored. -/
theorem readsAndHalfWrites : Obligations.ReadsAndHalfWrites := by
  refine ⟨fun s f r ht hr => ⟨fun hw => ?_, fun w hw hl => ?_, fun acc ha => ?_⟩, fun s f r acc v ht hw ha => ?_⟩
  · refine ⟨_, exec_readLow ht hr hw, by simp, ?_, fun g hg => ?_⟩
    · simp [latchOf_setLatch]
    · simp [latchOf_setLatch, hg]
  · refine ⟨_, exec_readHigh ht hr hw hl, by simp, ?_⟩
    simp [latchOf_dropLatch]
  · exact ⟨_, exec_readWhole ht hr ha, by simp, fun g => by simp⟩
  · exact halfWrite_ignored ht hw ha v

/-! ### The set-wins rule (R7) -/

/-- Reading a bit marks it seen by its reader exactly when it is on, and leaves what every other function has seen. -/
theorem observe_seen (f g : Fn) (x : Sticky) :
    (observe f x).seen.getLsbD g.val = if g = f then x.on else x.seen.getLsbD g.val := by
  have hb : ∀ f g : Fn, (1#9 <<< f.val).getLsbD g.val = decide (g = f) := by decide
  have hg : g.val < 9 := g.isLt
  cases ho : x.on
  · simp only [observe, ho, Bool.false_eq_true, if_false, BitVec.getLsbD_and, BitVec.getLsbD_not, hb, hg]
    by_cases h : g = f <;> simp [h]
  · simp only [observe, ho, if_true, BitVec.getLsbD_or, hb]
    by_cases h : g = f <;> simp [h]

/-- A bit that its writer has read as 1 clears, its count kept. -/
theorem clearBy_observe_self (f : Fn) {x : Sticky} (h : x.on = true) :
    clearBy f (observe f x) = { observe f x with on := false, seen := 0 } := by
  have hs := observe_seen f f x
  have ho : (observe f x).on = x.on := rfl
  simp [clearBy, hs, ho, h]

/-- What the writer has not seen stays. -/
theorem clearBy_unseen {f : Fn} {x : Sticky} (h : x.seen.getLsbD f.val = false) : clearBy f x = x := by
  simp only [clearBy, h, Bool.and_false, Bool.false_eq_true, if_false]

/-- An event is new to every function. -/
theorem hit_unseen (f : Fn) (w : Nat) (x : Sticky) : (hit w x).seen.getLsbD f.val = false := by
  simp [hit]

/-- Settles O7: only what the writing function has read as 1 clears. -/
theorem clearsOnlySeenEvents : Obligations.ClearsOnlySeenEvents := by
  refine ⟨fun f x h => ?_, fun f w x => ⟨clearBy_unseen (hit_unseen f w x), rfl, rfl⟩, fun f g w x h => ?_,
    fun s acc v ht hr => ?_, fun s f k v ht hr => ?_⟩
  · rw [clearBy_observe_self f h]
    exact ⟨rfl, rfl⟩
  · refine clearBy_unseen ?_
    rw [observe_seen, if_neg h, hit_unseen]
  · refine ⟨_, exec_w1cWrite ht hr rfl v, ?_⟩
    have he : effClear 0 .evtStatus v s = s.modEvt fun e => { e with
        recovery := if v.getLsbD 8 then clearBy 0 e.recovery else e.recovery
        escalate := if v.getLsbD 9 then clearBy 0 e.escalate else e.escalate
        drainTo := if v.getLsbD 10 then clearBy 0 e.drainTo else e.drainTo
        wdog := if v.getLsbD 11 then clearBy 0 e.wdog else e.wdog
        ewTrip := if v.getLsbD 12 then clearBy 0 e.ewTrip else e.ewTrip
        lateFlit := if v.getLsbD 13 then clearBy 0 e.lateFlit else e.lateFlit } := by
      simp [effClear, mapStickies, moduleStickies, bitShown]
    rw [he]
    exact ⟨rfl, rfl, rfl, rfl, modEvt_without _ _ _ (by decide)⟩
  · refine ⟨_, exec_w1cWrite ht hr rfl v, ?_⟩
    simp only [effClear, mapStickies, bitShown, and_true]
    rfl

/-- A partition's function serves it. -/
theorem partOfFn_fnOf (p : Part) : partOfFn (fnOf p) = some p := by simp [partOfFn, fnOf]

/-- Two changes of a Hild unit that agree on it are one. -/
theorem modHild_congr {s : State} {k : Super} {f g : Hild → Hild} (h : f s.supers[k].hild = g s.supers[k].hild) :
    s.modHild k f = s.modHild k g := by
  have h' : f s.supers[k.val].hild = g s.supers[k.val].hild := h
  simp only [State.modHild, State.modSuper, upd, Fin.getElem_fin, h']

/-- A change that leaves the Hild unit as it is leaves the state. -/
theorem modHild_fixed {s : State} {k : Super} {f : Hild → Hild} (h : f s.supers[k].hild = s.supers[k].hild) :
    s.modHild k f = s := by
  rw [modHild_congr (g := fun x => x) h]
  simp only [State.modHild, State.modSuper, upd_id]

/-- Settles O8: each of these fields takes its bits of the value, and nothing else changes. -/
theorem writesSetTheirField : Obligations.WritesSetTheirField := by
  refine fun s v => ⟨fun acc ht hr => ?_, fun acc ht hr => ?_, fun f k acc ht hr => ?_, fun f p hf ht hr => ?_,
    fun f k hf ht hr => ?_⟩
  · exact exec_registerWrite ht hr rfl v
  · exact exec_registerWrite ht hr rfl v
  · rw [exec_registerWrite ht hr rfl v]
    simp [effWriteReg, writeShared]
  · subst hf
    rw [exec_registerWrite ht hr rfl v]
    simp only [effWriteReg, partOfFn_fnOf]
    rfl
  · rw [exec_registerWrite ht hr rfl v]
    have h0 : f.val ≠ 0 := fun e => hf (Fin.ext e)
    have he : effWriteReg f (.hldGtab k) v s = s.modHild k (writeHildReg (.hldGtab k) v) := if_neg h0
    rw [he]
    congr 1
    split
    next hq => exact modHild_fixed (if_pos hq)
    next hq => exact modHild_congr (if_neg hq)

/-! ### The state after power-on -/

/-- Settles O5: every clause is read off the Reset values. -/
theorem resetIsAsTheSpecSays : Obligations.ResetIsAsTheSpecSays := by
  refine ⟨?_, rfl, rfl, rfl, fun p => ?_, fun k => ?_, rfl, rfl, rfl, rfl⟩
  · simp [LegalState, State.reset]
  · simp [State.reset]
  · simp [State.reset]

end Sys2Proof.RegisterProofs
end

section
/-! Requests to the memory of a super (R11, R28–R30, R316, R325, R339, R343, R350–R357, R362). -/

namespace Sys2Proof.MemoryProofs

open Sys2Proof Sys2Proof.Machine

/-! ### One super changed -/

theorem modSuper_at (s : State) (k : Super) (f : SuperState → SuperState) : (s.modSuper k f).supers[k] = f s.supers[k] :=
  modSuper_same s k f

/-- Two changes of a super that agree on it are one. -/
theorem modSuper_congr {s : State} {k : Super} {f g : SuperState → SuperState} (h : f s.supers[k] = g s.supers[k]) :
    s.modSuper k f = s.modSuper k g := by
  have h' : f s.supers[k.val] = g s.supers[k.val] := h
  simp only [State.modSuper, upd, Fin.getElem_fin, h']

/-- A change that leaves the super as it is leaves the state. -/
theorem modSuper_fixed {s : State} {k : Super} {f : SuperState → SuperState} (h : f s.supers[k] = s.supers[k]) :
    s.modSuper k f = s := by
  rw [modSuper_congr (g := fun u => u) h]
  simp only [State.modSuper, upd_id]

/-! ### Repetition -/

/-- A repetition each of whose steps leaves the state leaves it. -/
theorem forEach_fixed {α : Type} {l : List α} {f : α → State → State} {s : State} (h : ∀ a ∈ l, f a s = s) :
    forEach l f s = s := by
  induction l with
  | nil => rfl
  | cons a r ih =>
    show forEach r f (f a s) = s
    rw [h a (by simp), ih fun b hb => h b (by simp [hb])]

/-- What each step of a repetition keeps, the repetition keeps. -/
theorem forEach_keeps {α β : Type} (π : State → β) (l : List α) (f : α → State → State) (s : State)
    (h : ∀ a t, π (f a t) = π t) : π (forEach l f s) = π s := by
  induction l generalizing s with
  | nil => rfl
  | cons a r ih => exact (ih (f a s)).trans (h a s)

/-- What step a establishes and no step undoes holds at the end for every a of the list. -/
theorem forEach_establishes {α : Type} {P : α → State → Prop} {f : α → State → State} (hs : ∀ a s, P a (f a s))
    (hk : ∀ a b s, P a s → P a (f b s)) {l : List α} {a : α} (ha : a ∈ l) (s : State) : P a (forEach l f s) := by
  have keep : ∀ (l : List α) (s : State), P a s → P a (forEach l f s) := by
    intro l
    induction l with
    | nil => exact fun s h => h
    | cons b r ih => exact fun s h => ih _ (hk a b s h)
  induction l generalizing s with
  | nil => cases ha
  | cons b r ih =>
    rcases List.mem_cons.1 ha with rfl | hr
    · exact keep r _ (hs a s)
    · exact ih hr _

/-! ### What a frame says of the partition map -/

theorem within_part_ready {m : List Piece} {s t : State} (w : Within m s t) (p : Part) (h : m.contains .regions = false) :
    t.parts[p].ready = s.parts[p].ready := by
  have := congrArg PartState.ready (w.part p)
  simpa only [PartState.without, h, Bool.false_eq_true, if_false] using this

section Owner

variable {m : List Piece} {s t : State} (w : Within m s t) (hc : m.contains .combMap = false) (hp : m.contains .partMap = false)
include w hc hp

theorem within_partOf (k : Comb) : partOf t k = partOf s k := by
  simp only [partOf, w.comb_assigned _ hc, w.comb_pbase _ hc, w.part_live _ hp]

theorem within_inPart (p : Part) (k : Comb) : inPart t p k = inPart s p k := by
  simp only [inPart, w.comb_assigned _ hc, w.comb_pbase _ hc, w.part_live _ hp]

theorem within_combsOf (p : Part) : combsOf t p = combsOf s p := by
  simp only [combsOf, funext (within_inPart w hc hp p)]

variable (hr : m.contains .regions = false)
include hr

theorem within_ownerAt (k : Super) (off : Nat) : ownerAt t k off = ownerAt s k off := by
  have hm : ∀ p, regionMap t p = regionMap s p := fun p => by
    simp only [regionMap, Machine.sizeOf, w.part_psize _ hp, w.part_rgn _ hr]
  have hi : ∀ p m, ppaIn t p m k off = ppaIn s p m k off := fun p m => by
    have hs : Machine.sizeOf t p = Machine.sizeOf s p := by simp only [Machine.sizeOf, w.part_psize _ hp]
    unfold ppaIn
    rw [hs]
  simp only [ownerAt, within_partOf w hc hp, within_part_ready w _ hr, hm, hi]

end Owner

/-! ### Stopping a partition (R498, R499) -/

/-- Where a partition has no recovery, a fault of the partition class begins one. -/
theorem stopPartition_begins {p : Part} {k : Comb} {st : Byte} {d : Word} {d2 : BitVec 56} {unit : Word} {sup : List Super}
    {s : State} (h : s.parts[p].recov = []) : ∃ f : FaultInfo, f.status = st ∧ f.received = false ∧
      stopPartition p k st d d2 unit sup s = beginRecovery p f (raiseAlarm p k 0x07 s) := by
  have hw : Within [.router] s (raiseAlarm p k 0x07 s) := raiseAlarm_without (by decide)
  have hr : (raiseAlarm p k 0x07 s).parts[p].recov = [] := (hw.part_recov p (by decide)).trans h
  refine ⟨{ status := st, detail := d, detail2 := d2, alarm := 0x07, unit := unit, comb := k
            combs := combsOf (raiseAlarm p k 0x07 s) p, supers := sup, origin := coordWord (raiseAlarm p k 0x07 s) }, rfl, rfl, ?_⟩
  simp only [stopPartition, stopPartitionAs, partitionFault, tearingDown, hr, List.any_nil, List.find?_nil, Bool.false_eq_true,
    if_false]

/-- What a fault of the partition class may change where no recovery runs. -/
def stopPieces : List Piece := [.out, .host, .draws, .hum, .seq, .cellMem, .cellRun, .combMem, .router, .superMem, .superTree,
  .hild, .ctx, .rings, .evq, .partRegs, .mod]

theorem stopPartition_within {p : Part} {k : Comb} {st : Byte} {d : Word} {d2 : BitVec 56} {unit : Word} {sup : List Super}
    {s : State} (h : s.parts[p].recov = []) : Within stopPieces s (stopPartition p k st d d2 unit sup s) := by
  obtain ⟨f, -, -, he⟩ := stopPartition_begins (k := k) (st := st) (d := d) (d2 := d2) (unit := unit) (sup := sup) h
  rw [he]
  exact (beginRecovery_without (by decide)).trans (raiseAlarm_without (by decide))

/-- A sequencer whose held entries are squashed stays in its state. -/
theorem squashAll_seqState (j k : Comb) (s : State) : (squashAll j s).combs[k].seq.state = s.combs[k].seq.state := by
  have hq : ∀ f : Seq → Seq, (∀ q, (f q).state = q.state) → (s.modSeq j f).combs[k].seq.state = s.combs[k].seq.state := by
    intro f hf
    by_cases h : j = k
    · subst h
      simp [hf]
    · simp [modSeq_other, h]
  unfold squashAll squashHeld
  dsimp only
  split
  · exact hq _ fun _ => rfl
  · rw [modCtx_combs]
    exact hq _ fun _ => rfl

/-- The issue of every comb of the list stops: its sequencer is HALTED. -/
theorem stopIssue_halts {l : List Comb} {k : Comb} (hk : k ∈ l) (s : State) : (stopIssue l s).combs[k].seq.state = 3 := by
  have hd : ∀ (j a : Comb) (t : State), (discardHild j (fun _ => true) t).combs[a].seq = t.combs[a].seq := fun j a t =>
    Within.comb_seq (m := [.hild]) (discardHild_without (by decide)) a (by decide)
  refine forEach_establishes (P := fun a t => t.combs[a].seq.state = 3) (fun a s => ?_) (fun a b s h => ?_) hk s
  · rw [hd]
    simp [haltSeq]
  · rw [hd]
    by_cases e : b = a
    · subst e
      simp [haltSeq]
    · exact (congrArg (·.seq.state) (modSeq_other _ b a _ e)).trans ((squashAll_seqState b a s).trans h)

/-- The end of a checkpoint and the end of a restore leave the recoveries. -/
theorem orphanCkpt_recov (p q : Part) (st : Byte) (s : State) : (orphanCkpt p st s).parts[q].recov = s.parts[q].recov := by
  have hp : ∀ (x y : Byte) (k : Comb) (d : BitVec 56) (t : State), (postEvent p x y k d t).parts[q].recov = t.parts[q].recov :=
    fun x y k d t => Within.part_recov (m := [.out, .host, .evq, .mod]) (postEvent_without (by decide)) q (by decide)
  have hm : ∀ f : PartState → PartState, (∀ x, (f x).recov = x.recov) → (s.modPart p f).parts[q].recov = s.parts[q].recov := by
    intro f hf
    simp only [Fin.getElem_fin, modPart_get]
    split
    · exact hf _
    · rfl
  unfold orphanCkpt
  dsimp only
  split
  · rfl
  · split
    · exact hm _ fun _ => rfl
    · exact (hp ..).trans (hm _ fun _ => rfl)

theorem dropRestore_recov (p q : Part) (s : State) : (dropRestore p s).parts[q].recov = s.parts[q].recov := by
  unfold dropRestore
  split
  · rfl
  · refine (Within.part_recov (m := [.draws, .superMem, .superTree]) (undefinePlan_without (by decide)) q (by decide)).trans ?_
    simp only [Fin.getElem_fin, modPart_get]
    split <;> rfl

/-- The stop of a whole partition halts its combs and marks it stopped; its recoveries stay. -/
theorem stopWhole_halts (p : Part) (st : Byte) (d : Word) (d2 : BitVec 56) (dom : BitVec 4) (s : State) :
    (stopWhole p st d d2 dom s).parts[p].stopped = true ∧ (stopWhole p st d d2 dom s).parts[p].recov = s.parts[p].recov ∧
    ∀ k : Comb, inPart s p k = true → (stopWhole p st d d2 dom s).combs[k].seq.state = 3 := by
  unfold stopWhole
  dsimp only
  generalize ht : forEach (combsOf s p) (fun k s => haltComb k s) s = t
  have hst : Within [.draws, .seq, .cellMem, .cellRun, .combMem, .ctx] s t := by
    rw [← ht]
    exact forEach_without _ _ _ _ fun a t => haltComb_without (by decide)
  generalize hu : stopIssue (combsOf t p) t = u
  have htu : Within [.seq, .hild, .ctx] t u := by
    rw [← hu]
    exact stopIssue_without (by decide)
  have hur : Within [.rings] u (stopRings p (fins 16) st d d2 dom u) := stopRings_without (by decide)
  generalize stopRings p (fins 16) st d d2 dom u = v at hur
  have hc : ∀ w : State, Within [.hum] w (clearActive p w) := fun w => clearActive_without (by decide)
  refine ⟨by simp, ?_, fun k hk => ?_⟩
  · simp only [Fin.getElem_fin, modPart_same]
    rw [← Fin.getElem_fin, (hc _).part_recov p (by decide), dropRestore_recov, orphanCkpt_recov, hur.part_recov p (by decide),
      htu.part_recov p (by decide), hst.part_recov p (by decide)]
    rfl
  · have hk' : k ∈ combsOf t p := by
      rw [within_combsOf hst (by decide) (by decide)]
      simp [combsOf, fins, hk]
    have h3 : u.combs[k].seq.state = 3 := by
      rw [← hu]
      exact stopIssue_halts hk' t
    have hd : Within [.draws, .superMem, .superTree, .partRegs] (orphanCkpt p st v) (dropRestore p (orphanCkpt p st v)) :=
      dropRestore_without (by decide)
    have ho : Within [.out, .host, .evq, .partRegs, .mod] v (orphanCkpt p st v) := orphanCkpt_without (by decide)
    show (clearActive p (dropRestore p (orphanCkpt p st v))).combs[k].seq.state = 3
    rw [(hc _).comb_seq k (by decide), hd.comb_seq k (by decide), ho.comb_seq k (by decide), hur.comb_seq k (by decide), h3]

/-- A recovery that takes over none is the partition's only one. -/
theorem takeOver_none {p : Part} {r : Recovery} {s : State} (h : s.parts[p].recov = []) :
    takeOver p r s = s.modPart p fun q => { q with recov := [r] } := by
  simp only [takeOver, h]
  rfl

/-- A fault of the partition class stops a partition that has no recovery yet. -/
theorem stopPartition_stops {p : Part} {k : Comb} {st : Byte} {d : Word} {d2 : BitVec 56} {unit : Word} {sup : List Super}
    {s : State} (h : s.parts[p].recov = []) : Stopped p st s (stopPartition p k st d d2 unit sup s) := by
  obtain ⟨f, hst, hrec, he⟩ := stopPartition_begins (k := k) (st := st) (d := d) (d2 := d2) (unit := unit) (sup := sup) h
  have ha : Within [.router] s (raiseAlarm p k 0x07 s) := raiseAlarm_without (by decide)
  rw [he]
  unfold beginRecovery
  generalize raiseAlarm p k 0x07 s = a at ha
  dsimp only
  generalize he' : (if f.received = true then evAbortReceived else evFault) = ev
  have hb : Within [.out, .host, .evq, .mod] a (postEvent p ev f.status f.comb f.evDetail a) := postEvent_without (by decide)
  generalize postEvent p ev f.status f.comb f.evDetail a = b at hb
  obtain ⟨hstop, hrecov, hhalt⟩ := stopWhole_halts p f.status f.detail f.detail2 (resetCode f.supers) b
  have hnil : (stopWhole p f.status f.detail f.detail2 (resetCode f.supers) b).parts[p].recov = [] := by
    rw [hrecov, hb.part_recov p (by decide), ha.part_recov p (by decide), h]
  rw [takeOver_none hnil]
  generalize stopWhole p f.status f.detail f.detail2 (resetCode f.supers) b = c at hstop hhalt
  refine ⟨?_, ⟨newRecovery (resetCode f.supers) 0 f b, by simp, hst, rfl, rfl⟩, fun j hj => hhalt j ?_⟩
  · simpa using hstop
  · rw [within_inPart hb (by decide) (by decide), within_inPart ha (by decide) (by decide), hj]

/-! ### The traffic of the super link and of the counter cache -/

/-- A super but for its link counts and for what a counter fetch moves: node counters, the cache and its counts. -/
def counted (u : SuperState) : SuperState :=
  { u with link := .replicate 2 {}, nodeCtr := [], cache := [], hits := 0, misses := 0, ctrExh := {}, ctrWarn := {}
           perrOff := 0, perrKind := 0, perrLevel := 0, perrKey := 0 }

theorem counted_writeBack (n : Nat) (u : SuperState) : counted (writeBack n u).1 = counted u := by
  unfold writeBack
  dsimp only
  split
  · rfl
  · split <;> rfl

/-- A super with other counts on its link. -/
def setLink (l : Vector LinkDir 2) (u : SuperState) : SuperState := { u with link := l }

theorem writeBack_setLink (n : Nat) (u : SuperState) (l : Vector LinkDir 2) :
    writeBack n (setLink l u) = (setLink l (writeBack n u).1, (writeBack n u).2) := by
  unfold writeBack
  have hc : (setLink l u).nodeCtr = u.nodeCtr := rfl
  simp only [hc]
  split
  · rfl
  · split <;> rfl

/-- What a lookup of an absent node counts, and what brings a node into the cache and takes one out of it. -/
def missed (u : SuperState) : SuperState := { u with misses := u.misses + 1 }
def enters (n : Nat) (d : Bool) (u : SuperState) : SuperState := { u with cache := (n, d) :: u.cache }
def leaves (v : Nat) (u : SuperState) : SuperState := { u with cache := u.cache.filter fun e => decide (e.1 ≠ v) }

/-- The node that must leave a set leaves it: a dirty one is written back first, and dirties its parent (R350, R351). -/
def evict (f : Nat) (v : Option (Nat × Bool)) (u : SuperState) : SuperState × List CtrEvent :=
  match v with
  | none => (u, [])
  | some (v, false) => (leaves v u, [])
  | some (v, true) =>
    let w := writeBack v u
    if w.2.any (·.2) then w else
    let y := touchNode f (nodeParent v) true (leaves v w.1)
    (y.1, w.2 ++ y.2)

/-- A lookup of an absent node of levels 1 to 4: its parent is looked up, it enters, and what it displaces leaves (R350). -/
theorem touchNode_miss {f n : Nat} {d : Bool} {u : SuperState} (h5 : ¬ 5 ≤ nodeLevel n)
    (hc : (u.cache.find? fun e => decide (e.1 = n)) = none) :
    touchNode (f + 1) n d u =
      ((evict f (victim (enters n d (touchNode f (nodeParent n) false (missed u)).1) n)
        (enters n d (touchNode f (nodeParent n) false (missed u)).1)).1,
       (touchNode f (nodeParent n) false (missed u)).2 ++
        (evict f (victim (enters n d (touchNode f (nodeParent n) false (missed u)).1) n)
          (enters n d (touchNode f (nodeParent n) false (missed u)).1)).2) := by
  have hm : { u with misses := u.misses + 1 } = missed u := rfl
  rw [touchNode, if_neg h5, hc]
  dsimp only
  rw [hm]
  generalize touchNode f (nodeParent n) false (missed u) = r
  have he : { r.1 with cache := (n, d) :: r.1.cache } = enters n d r.1 := rfl
  rw [he]
  rcases victim (enters n d r.1) n with _ | ⟨w, _ | _⟩
  · simp only [evict, List.append_nil]
  · simp only [evict, List.append_nil]
    rfl
  · simp only [evict]
    split
    · rfl
    · simp only [List.append_assoc]
      rfl

theorem counted_touchNode (f n : Nat) (d : Bool) (u : SuperState) : counted (touchNode f n d u).1 = counted u := by
  induction f generalizing n d u with
  | zero => rfl
  | succ f ih =>
    have he : ∀ v u, counted (evict f v u).1 = counted u := by
      intro v u
      unfold evict
      split
      · rfl
      · rfl
      · next w =>
        dsimp only
        split
        · exact counted_writeBack w u
        · exact (ih ..).trans (counted_writeBack w u)
    by_cases h5 : 5 ≤ nodeLevel n
    · simp only [touchNode, if_pos h5]
      rfl
    · cases hc : u.cache.find? fun e => decide (e.1 = n) with
      | none =>
        rw [touchNode_miss h5 hc]
        exact (he _ _).trans (ih (nodeParent n) false (missed u))
      | some e =>
        simp only [touchNode, if_neg h5, hc]
        rfl

theorem counted_touchCtr (off : Nat) (d : Bool) (u : SuperState) : counted (touchCtr off d u).1 = counted u :=
  counted_touchNode ..

/-- The counter cache does not look at the link. -/
theorem touchNode_setLink (f n : Nat) (d : Bool) (u : SuperState) (l : Vector LinkDir 2) :
    touchNode f n d (setLink l u) = (setLink l (touchNode f n d u).1, (touchNode f n d u).2) := by
  induction f generalizing n d u with
  | zero => rfl
  | succ f ih =>
    have hm : missed (setLink l u) = setLink l (missed u) := rfl
    have he : ∀ u, enters n d (setLink l u) = setLink l (enters n d u) := fun _ => rfl
    have hl : ∀ v u, leaves v (setLink l u) = setLink l (leaves v u) := fun _ _ => rfl
    have hv : ∀ u, victim (setLink l u) n = victim u n := fun _ => rfl
    have hev : ∀ v u, evict f v (setLink l u) = (setLink l (evict f v u).1, (evict f v u).2) := by
      intro v u
      unfold evict
      split
      · rfl
      · rw [hl]
      · simp only [writeBack_setLink, hl, ih]
        split <;> rfl
    by_cases h5 : 5 ≤ nodeLevel n
    · simp only [touchNode, if_pos h5]
      rfl
    · cases hc : u.cache.find? fun e => decide (e.1 = n) with
      | none =>
        have hc' : ((setLink l u).cache.find? fun e => decide (e.1 = n)) = none := hc
        rw [touchNode_miss h5 hc, touchNode_miss h5 hc', hm, ih, he, hv, hev]
      | some e =>
        have hc' : ((setLink l u).cache.find? fun e => decide (e.1 = n)) = some e := hc
        simp only [touchNode, if_neg h5, hc, hc']
        rfl

theorem touchCtr_setLink (off : Nat) (d : Bool) (u : SuperState) (l : Vector LinkDir 2) :
    touchCtr off d (setLink l u) = (setLink l (touchCtr off d u).1, (touchCtr off d u).2) := touchNode_setLink ..

/-- The state with the counts of a super's link changed. -/
def withLink (k : Super) (l : Vector LinkDir 2) (s : State) : State := s.modSuper k (setLink l)

/-- A request and its answer change at most the counts of the link. -/
theorem crossLink_eq (k : Super) (who : Requester) (n m : Nat) (s : State) : ∃ l, crossLink k who n m s = withLink k l s := by
  unfold crossLink withLink
  split
  · exact ⟨s.supers[k].link, (modSuper_fixed rfl).symm⟩
  · exact ⟨_, modSuper_congr (g := setLink _) rfl⟩

section Link

variable (k : Super) (l : Vector LinkDir 2) (s : State)

@[simp] theorem withLink_super : (withLink k l s).supers[k] = setLink l s.supers[k] := modSuper_at ..

theorem withLink_within : Within [.superRegs] s (withLink k l s) := modSuper_without _ _ _ _ fun _ => rfl

@[simp] theorem withLink_lineCheck (x : Nat) : lineCheck (withLink k l s) k x = lineCheck s k x := by
  have hs : storedLine (withLink k l s) k x = storedLine s k x := by
    simp only [storedLine, withLink_super]
    rfl
  have ht : ∀ c, lineTag (withLink k l s) k x c = lineTag s k x c := fun c => by
    simp only [lineTag, withLink_super]
    rfl
  simp only [lineCheck, tagMatches, hs, ht, withLink_super]
  rfl

@[simp] theorem withLink_readOutcome (off : Nat) : readOutcome (withLink k l s) k off = readOutcome s k off := by
  simp only [readOutcome, withLink_lineCheck, withLink_super]
  rfl

end Link

/-! ### Lines and nodes without a flipped bit -/

theorem unflipped_toNat : (0 : BitVec 1152).toNat = 0 := by decide +kernel
theorem unflipped_data : (0 : BitVec 1152).setWidth 1024 = 0 := by decide +kernel

/-- A line none of whose bits, nor of its tag, is flipped, and that no die mark keeps unreadable. -/
def LineClean (u : SuperState) (k : Super) (l : Nat) : Prop :=
  tabGet 0 u.dramErr l = 0 ∧ (sealedAt k (128 * l) = true → u.dieMark = false) ∧
  (sealedAt k (128 * l) = false → tabGet 0 u.dramErr (tagLine l) = 0)

/-- No node over an offset is poisoned, and none that a fetch of its counter reads has a flipped bit. -/
def NodesClean (u : SuperState) (off : Nat) : Prop :=
  nodeBad u off = false ∧ ∀ n ∈ missingNodes u off, tabGet 0 u.dramErr (nodeLine n) = 0

theorem sealedAt_above {k : Super} {off : Nat} (h : metaBase ≤ off) : sealedAt k off = false := by
  have h1 : ¬ off < metaBase := by omega
  have h2 : ¬ off < sealedBase := by
    unfold metaBase at h
    unfold sealedBase
    omega
  simp [sealedAt, inQueenRegion, h1, h2]

theorem sealedAt_tagLine (k : Super) (l : Nat) : sealedAt k (128 * tagLine l) = false := by
  refine sealedAt_above ?_
  unfold tagLine tagBase metaBase
  omega

theorem sealedAt_nodeLine (k : Super) (n : Nat) : sealedAt k (128 * nodeLine n) = false := by
  refine sealedAt_above ?_
  unfold nodeLine nodeAddr treeBase metaBase
  omega

/-- A line without a flipped bit reads as it is. -/
theorem decodeLine_clear {u : SuperState} {k : Super} {l : Nat} (h : tabGet 0 u.dramErr l = 0)
    (hs : sealedAt k (128 * l) = true → u.dieMark = false) : decodeLine u k l = some {} := by
  unfold decodeLine
  by_cases hk : sealedAt k (128 * l) = true
  · simp only [hk, h, hs hk, if_true, Bool.false_eq_true, if_false]
  · simp only [hk, h, if_true, Bool.false_eq_true, if_false]

theorem decodeLine_tagLine {u : SuperState} {k : Super} {l : Nat} (h : tabGet 0 u.dramErr (tagLine l) = 0) :
    decodeLine u k (tagLine l) = some {} := decodeLine_clear h fun e => by simp [sealedAt_tagLine] at e

theorem decodeLine_nodeLine {u : SuperState} {k : Super} {n : Nat} (h : tabGet 0 u.dramErr (nodeLine n) = 0) :
    decodeLine u k (nodeLine n) = some {} := decodeLine_clear h fun e => by simp [sealedAt_nodeLine] at e

/-- A node without a flipped bit verifies (R350). -/
theorem nodeVerifies_clear {u : SuperState} {k : Super} {n : Nat} (h : tabGet 0 u.dramErr (nodeLine n) = 0) :
    nodeVerifies u k n = true := by
  simp only [nodeVerifies, decodeLine_nodeLine h, unflipped_toNat, Nat.zero_div, Nat.zero_mod, decide_true, Bool.true_or]

theorem failingNode_clean {u : SuperState} {k : Super} {off : Nat} (h : NodesClean u off) : failingNode u k off = none := by
  simp only [failingNode, List.find?_eq_none]
  exact fun n hn => by simp [nodeVerifies_clear (h.2 n hn)]

/-- Where the counter is fetched without failure a read meets a zero sector or what its line is (R352). -/
theorem readOutcome_clean {s : State} {k : Super} {off : Nat} (h : NodesClean s.supers[k] off) : readOutcome s k off =
    if tabGet 0 s.supers[k].ctr (off / 512) = 0 then .zero else lineCheck s k (off / 128) := by
  simp only [readOutcome, h.1, failingNode_clean h, Bool.false_eq_true, if_false]

theorem lineCheck_poisoned {s : State} {k : Super} {l : Nat} (h : s.supers[k].poison.contains l = true) :
    lineCheck s k l = .poisoned := by
  simp only [lineCheck, h, if_true]

theorem lineCheck_lost {s : State} {k : Super} {l : Nat} (hp : s.supers[k].poison.contains l = false)
    (h : decodeLine s.supers[k] k l = none) : lineCheck s k l = .lost := by
  simp only [lineCheck, hp, h, Bool.false_eq_true, if_false]

/-- A line that correction makes whole, with a tag that has no flipped bit, verifies (R352). -/
theorem lineCheck_whole {s : State} {k : Super} {l : Nat} {d : Decoded} (hp : s.supers[k].poison.contains l = false)
    (hd : decodeLine s.supers[k] k l = some d) (hl : d.left = 0)
    (ht : sealedAt k (128 * l) = false → tabGet 0 s.supers[k].dramErr (tagLine l) = 0) : lineCheck s k l = .good 0 := by
  have ht' : tagLeft s.supers[k] k l d = some 0 := by
    cases hs : sealedAt k (128 * l)
    · simp only [tagLeft, hs, decodeLine_tagLine (ht hs), Bool.false_eq_true, if_false, Option.map_some, unflipped_toNat,
        Nat.zero_div]
      rfl
    · simp only [tagLeft, hs, hl, if_true, unflipped_toNat, Nat.zero_div]
      rfl
  simp only [lineCheck, hp, hd, ht', hl, tagMatches, unflipped_data, Bool.false_eq_true, if_false, and_self, decide_true,
    Bool.true_or, if_true]

theorem lineCheck_clean {s : State} {k : Super} {l : Nat} (h : LineClean s.supers[k] k l)
    (hp : s.supers[k].poison.contains l = false) : lineCheck s k l = .good 0 :=
  lineCheck_whole hp (decodeLine_clear h.1 h.2.1) rfl h.2.2

/-- A clean line verifies or is poisoned. -/
theorem lineCheck_clean_or {s : State} {k : Super} {l : Nat} (h : LineClean s.supers[k] k l) :
    lineCheck s k l = .good 0 ∨ lineCheck s k l = .poisoned := by
  cases hp : s.supers[k].poison.contains l
  · exact .inl (lineCheck_clean h hp)
  · exact .inr (lineCheck_poisoned hp)

/-! ### What reads of clean lines leave behind: nothing -/

theorem noteDecode_clear {s : State} {k : Super} {l : Nat} (h : decodeLine s.supers[k] k l = some {}) : noteDecode k l s = s := by
  simp only [noteDecode, h, Bool.false_eq_true, if_false]

theorem noteLine_clean {s : State} {k : Super} {l : Nat} (h : LineClean s.supers[k] k l) : noteLine k l s = s := by
  unfold noteLine
  rw [noteDecode_clear (decodeLine_clear h.1 h.2.1)]
  cases hs : sealedAt k (128 * l)
  · simpa using noteDecode_clear (decodeLine_tagLine (h.2.2 hs))
  · rfl

theorem noteNodes_clean {s : State} {k : Super} {off : Nat} (h : NodesClean s.supers[k] off) : noteNodes k off s = s :=
  forEach_fixed fun n hn => noteDecode_clear (decodeLine_nodeLine (h.2 n ((List.takeWhile_sublist _).subset hn)))

/-- The counter of a sector fetched without failure and without a counter event. -/
theorem fetchCtr_clean {s : State} {k : Super} {off : Nat} (h : NodesClean s.supers[k] off)
    (ht : (touchCtr off false s.supers[k]).2 = []) :
    fetchCtr k off s = s.modSuper k fun _ => (touchCtr off false s.supers[k]).1 := by
  simp only [fetchCtr, noteNodes_clean h, ht]
  rfl

/-! ### What reads leave behind where no die is marked -/

/-- A super but for what a counter fetch moves, its corrected lines and the repairs that they call for. -/
def calm (u : SuperState) : SuperState :=
  { counted u with ce := {}, lineCe := [], pprExh := {}, repairing := none, repairQ := [] }

/-- From s to t at most the traffic of super k, its corrected lines and the repairs they call for have changed, and the
early-warning counts of partitions: no recovery has begun or ended. -/
structure Quiet (k : Super) (s t : State) : Prop where
  within : Within [.superTree, .superRegs, .partRegs] s t
  super : calm t.supers[k] = calm s.supers[k]
  recov : ∀ p : Part, t.parts[p].recov = s.parts[p].recov

theorem Quiet.refl (k : Super) (s : State) : Quiet k s s := ⟨rfl, rfl, fun _ => rfl⟩

theorem Quiet.trans {k : Super} {s t u : State} (h : Quiet k s t) (h' : Quiet k t u) : Quiet k s u :=
  ⟨h.within.trans h'.within, h'.super.trans h.super, fun p => (h'.recov p).trans (h.recov p)⟩

/-- Correction of a line reads nothing that a quiet change moves. -/
theorem Quiet.decodeLine {k : Super} {s t : State} (h : Quiet k s t) (l : Nat) :
    decodeLine t.supers[k] k l = decodeLine s.supers[k] k l := by
  have hc : ∀ u : SuperState, Machine.decodeLine (calm u) k l = Machine.decodeLine u k l := fun _ => rfl
  rw [← hc, h.super, hc]

theorem Quiet.ownerAt {k : Super} {s t : State} (h : Quiet k s t) (j : Super) (off : Nat) :
    ownerAt t j off = ownerAt s j off := within_ownerAt h.within (by decide) (by decide) (by decide) j off

theorem quiet_modSuper {k : Super} {s : State} {f : SuperState → SuperState} (h : calm (f s.supers[k]) = calm s.supers[k]) :
    Quiet k s (s.modSuper k f) := by
  have hc : ∀ u : SuperState, (calm u).without [.superTree, .superRegs, .partRegs] =
    u.without [.superTree, .superRegs, .partRegs] := fun _ => rfl
  refine ⟨modSuper_at_without _ _ _ _ ?_, ?_, fun _ => rfl⟩
  · rw [← hc, h, hc]
  · rw [modSuper_at, h]

theorem quiet_ewSuper (k : Super) (m : Fin 7) (s : State) : Quiet k s (ewSuper k m s) := by
  refine ⟨ewSuper_without (by decide), ?_, fun p => ?_⟩
  · unfold ewSuper
    split <;> rfl
  · unfold ewSuper
    split
    · rfl
    · simp only [Fin.getElem_fin, modPart_get]
      split <;> rfl

theorem quiet_needRepair (k : Super) (row : Nat) (s : State) : Quiet k s (needRepair k row s) := by
  unfold needRepair
  dsimp only
  split
  · exact .refl k s
  · split
    · exact (quiet_modSuper rfl).trans (quiet_ewSuper ..)
    · refine quiet_modSuper ?_
      split <;> rfl

theorem quiet_lineCorrected (k : Super) (l : Nat) (s : State) : Quiet k s (lineCorrected k l s) := by
  have h : Quiet k s (ewSuper k 0 (s.modSuper k fun u =>
      { u with ce := hit 32 u.ce, lineCe := tabSet 0 u.lineCe l (tabGet 0 s.supers[k].lineCe l + 1) })) :=
    (quiet_modSuper rfl).trans (quiet_ewSuper ..)
  unfold lineCorrected
  dsimp only
  split
  · exact h.trans (quiet_needRepair ..)
  · exact h

/-- Neither a line nor its tag, as correction reads them, marks a die. -/
def Unmarked (u : SuperState) (k : Super) (l : Nat) : Prop :=
  (∀ d, decodeLine u k l = some d → d.mark = none) ∧ ∀ d, decodeLine u k (tagLine l) = some d → d.mark = none

theorem quiet_noteDecode {k : Super} {l : Nat} {s : State} (h : ∀ d, decodeLine s.supers[k] k l = some d → d.mark = none) :
    Quiet k s (noteDecode k l s) := by
  unfold noteDecode
  split
  · exact .refl k s
  · next d hd =>
    rw [h d hd]
    dsimp only
    split
    · exact quiet_lineCorrected ..
    · exact .refl k s

theorem quiet_noteLine {k : Super} {l : Nat} {s : State} (h : Unmarked s.supers[k] k l) : Quiet k s (noteLine k l s) := by
  have h1 := quiet_noteDecode h.1
  unfold noteLine
  dsimp only
  split
  · exact h1
  · exact h1.trans (quiet_noteDecode fun d hd => h.2 d (by rwa [h1.decodeLine] at hd))

theorem quiet_noteLines {k : Super} {ls : List Nat} {s : State} (h : ∀ l ∈ ls, Unmarked s.supers[k] k l) :
    Quiet k s (forEach ls (noteLine k) s) := by
  induction ls generalizing s with
  | nil => exact .refl k s
  | cons l r ih =>
    have h1 := quiet_noteLine (h l (by simp))
    refine h1.trans (ih fun x hx => ?_)
    have hx' := h x (by simp [hx])
    exact ⟨fun d hd => hx'.1 d (by rwa [h1.decodeLine] at hd), fun d hd => hx'.2 d (by rwa [h1.decodeLine] at hd)⟩

theorem quiet_crossLink (k : Super) (who : Requester) (n m : Nat) (s : State) : Quiet k s (crossLink k who n m s) := by
  obtain ⟨l, hl⟩ := crossLink_eq k who n m s
  rw [hl]
  exact quiet_modSuper rfl

/-! ### The counter of a sector fetched for a request -/

section Fetch

variable {s : State} {k : Super} {off : Nat} {who : Requester}

theorem fetch_eq (hn : NodesClean s.supers[k] off) (ht : (touchCtr off false s.supers[k]).2 = []) :
    ∃ l, fetchCtr k off (crossLink k who 1 1 s) =
      (withLink k l s).modSuper k fun _ => setLink l (touchCtr off false s.supers[k]).1 := by
  obtain ⟨l, hl⟩ := crossLink_eq k who 1 1 s
  have hn' : NodesClean (withLink k l s).supers[k] off := by
    rw [withLink_super]
    exact hn
  have ht' : touchCtr off false (withLink k l s).supers[k] =
      (setLink l (touchCtr off false s.supers[k]).1, (touchCtr off false s.supers[k]).2) := by
    rw [withLink_super, touchCtr_setLink]
  refine ⟨l, ?_⟩
  rw [hl, fetchCtr_clean hn' (by rw [ht', ht]), ht']

variable (hn : NodesClean s.supers[k] off) (ht : (touchCtr off false s.supers[k]).2 = [])
include hn ht

theorem fetch_counted : counted (fetchCtr k off (crossLink k who 1 1 s)).supers[k] = counted s.supers[k] := by
  obtain ⟨l, hl⟩ := fetch_eq (who := who) hn ht
  rw [hl, modSuper_at]
  exact counted_touchCtr off false s.supers[k]

theorem fetch_within : Within [.superTree, .superRegs] s (fetchCtr k off (crossLink k who 1 1 s)) := by
  obtain ⟨l, hl⟩ := fetch_eq (who := who) hn ht
  have hc : ∀ u : SuperState, (counted u).without [.superTree, .superRegs] = u.without [.superTree, .superRegs] := fun _ => rfl
  rw [hl]
  refine ((withLink_within k l s).mono (by decide)).trans (modSuper_at_without _ _ _ _ ?_)
  rw [withLink_super, ← hc, ← hc (setLink l s.supers[k])]
  exact congrArg _ (counted_touchCtr off false s.supers[k])

theorem quiet_fetch : Quiet k s (fetchCtr k off (crossLink k who 1 1 s)) := by
  obtain ⟨l, hl⟩ := fetch_eq (who := who) hn ht
  have hc : ∀ u : SuperState, calm u = calm (counted u) := fun _ => rfl
  refine ⟨(fetch_within hn ht).mono (by decide), ?_, fun p => ?_⟩
  · rw [hc, fetch_counted hn ht, ← hc]
  · rw [hl]
    rfl

end Fetch

/-! ### Lines that are poisoned -/

/-- A super but for the bits that its DRAM returns wrong. -/
def undram (u : SuperState) : SuperState := { u with dramErr := [] }

theorem undram_settleTag (k : Super) (l : Nat) (u : SuperState) : undram (settleTag k l u) = undram u := by
  unfold settleTag clearFlips
  split <;> rfl

/-- A line that is poisoned for the first time joins the poisoned ones; its row may need repair (R328, R355). -/
theorem quiet_poisonLine {k : Super} {l : Nat} {s : State} (hp : s.supers[k].poison.contains l = false) :
    Quiet k (s.modSuper k fun u => settleTag k l (settleLine l { u with poison := l :: u.poison })) (poisonLine k l s) := by
  simp only [poisonLine, hp, Bool.false_eq_true, if_false]
  exact quiet_needRepair ..

/-- Beside the bits that the line settles, only the list of poisoned lines grows. -/
theorem poisonLine_super {k : Super} {l : Nat} {s : State} (hp : s.supers[k].poison.contains l = false) :
    calm (undram (poisonLine k l s).supers[k]) = calm { undram s.supers[k] with poison := l :: s.supers[k].poison } := by
  have hq := congrArg undram (quiet_poisonLine hp).super
  rw [modSuper_at] at hq
  exact hq.trans (congrArg calm (undram_settleTag ..))

/-- The registers of an uncorrectable line: UE counts, the log holds its source, and it is poisoned (R313). -/
theorem lineUncorrectable_notes {k : Super} {l : Nat} {src : BitVec 3} {s : State}
    (hp : s.supers[k].poison.contains l = false) :
    (lineUncorrectable k l src s).supers[k].poison.contains l = true ∧
    (lineUncorrectable k l src s).supers[k].ue = hit 16 s.supers[k].ue ∧
    (lineUncorrectable k l src s).supers[k].errSrc = src := by
  unfold lineUncorrectable
  generalize hu : s.modSuper k _ = t
  have ht : t.supers[k].poison = s.supers[k].poison ∧ t.supers[k].ue = hit 16 s.supers[k].ue ∧ t.supers[k].errSrc = src := by
    rw [← hu, modSuper_at]
    exact ⟨rfl, rfl, rfl⟩
  obtain ⟨hpoison, hue, hsrc⟩ := ht
  have h := poisonLine_super (k := k) (l := l) (s := t) (by rw [hpoison]; exact hp)
  refine ⟨?_, (congrArg SuperState.ue h).trans hue, (congrArg SuperState.errSrc h).trans hsrc⟩
  have h1 : (poisonLine k l t).supers[k].poison = l :: t.supers[k].poison := congrArg SuperState.poison h
  rw [h1]
  simp

/-- A tag that fails counts TAG_FAIL (R356) and moves no recovery. -/
theorem tagNote_notes (k : Super) (l : Nat) (kind : BitVec 3) (s : State) :
    (tagNote k l kind s).supers[k].tagFail = hit 16 s.supers[k].tagFail ∧
    ∀ p : Part, (tagNote k l kind s).parts[p].recov = s.parts[p].recov := by
  unfold tagNote
  dsimp only
  generalize hu : s.modSuper k _ = t
  have ht : t.supers[k].tagFail = hit 16 s.supers[k].tagFail := by
    rw [← hu, modSuper_at]
  have hr : ∀ p : Part, t.parts[p].recov = s.parts[p].recov := fun p => by
    rw [← hu]
    rfl
  cases hp : t.supers[k].poison.contains l
  · exact ⟨(congrArg SuperState.tagFail (poisonLine_super hp)).trans ht, fun p => ((quiet_poisonLine hp).recov p).trans (hr p)⟩
  · have hsame : poisonLine k l t = t := by simp only [poisonLine, hp, if_true]
    rw [hsame]
    exact ⟨ht, hr⟩

/-! ### Stops seen from the state before a request -/

/-- A partition stopped after changes that leave the partition map is stopped as its members before them see it. -/
theorem stopped_of_within {m : List Piece} {p : Part} {st : Byte} {s t u : State} (w : Within m s t)
    (hc : m.contains .combMap = false) (hp : m.contains .partMap = false) (h : Stopped p st t u) : Stopped p st s u :=
  ⟨h.1, h.2.1, fun k hk => h.2.2 k (by rw [within_inPart w hc hp, hk])⟩

/-- What leaves the sequencers, the partition registers and the partition map leaves a stop. -/
theorem stopped_kept {m : List Piece} {p : Part} {st : Byte} {s t u : State} (w : Within m t u)
    (hq : m.contains .seq = false) (hr : m.contains .partRegs = false) (h : Stopped p st s t) : Stopped p st s u := by
  obtain ⟨hstop, hrecov, hhalt⟩ := h
  refine ⟨(w.part_stopped p hr).trans hstop, ?_, fun k hk => ?_⟩
  · rw [w.part_recov p hr]
    exact hrecov
  · rw [w.comb_seq k hq]
    exact hhalt k hk

theorem stopped_emit {p : Part} {st : Byte} {s t : State} (o : Output) (h : Stopped p st s t) : Stopped p st s (emit o t) := h

/-- The owner of an offset is stopped where it has no recovery yet. -/
theorem stopOwner_eq {k : Super} {off : Nat} {st : Byte} {s : State} {p : Part} {m : RgnMap} {a : Nat}
    (ho : ownerAt s k off = some (p, m, a)) :
    stopOwner k off st s = stopPartition p k st 0 (BitVec.ofNat 56 a) 0 [] s := by
  simp only [stopOwner, ho]

theorem within_badNodes {m : List Piece} {s t : State} (w : Within m s t) (k : Super) (h : m.contains .superTree = false) :
    t.supers[k].badNodes = s.supers[k].badNodes := by
  have := congrArg SuperState.badNodes (w.super k)
  simpa only [SuperState.without, h, Bool.false_eq_true, if_false] using this

theorem within_tagFail {m : List Piece} {s t : State} (w : Within m s t) (k : Super) (h : m.contains .superRegs = false) :
    t.supers[k].tagFail = s.supers[k].tagFail := by
  have := congrArg SuperState.tagFail (w.super k)
  simpa only [SuperState.without, h, Bool.false_eq_true, if_false] using this

theorem within_ctrExh {m : List Piece} {s t : State} (w : Within m s t) (k : Super) (h : m.contains .superRegs = false) :
    t.supers[k].ctrExh = s.supers[k].ctrExh := by
  have := congrArg SuperState.ctrExh (w.super k)
  simpa only [SuperState.without, h, Bool.false_eq_true, if_false] using this

/-- Undefined contents poison no node. -/
theorem dropRestore_badNodes (p : Part) (j : Super) (s : State) :
    (dropRestore p s).supers[j].badNodes = s.supers[j].badNodes := by
  have hs : ∀ (a n : Nat) (t : State), (undefineSector p a n t).supers[j].badNodes = t.supers[j].badNodes := by
    intro a n t
    unfold undefineSector
    split
    · rfl
    · simp only [drawn_supers, Fin.getElem_fin, modSuper_get]
      split <;> rfl
  unfold dropRestore
  split
  · rfl
  · exact forEach_keeps (fun t => t.supers[j].badNodes) _ _ _ fun r t =>
      forEach_keeps (fun t => t.supers[j].badNodes) _ _ _ fun e t => hs e.1 e.2 t

/-- Stopping a partition that has no recovery poisons no node. -/
theorem stopPartition_badNodes {p : Part} {k : Comb} {st : Byte} {d : Word} {d2 : BitVec 56} {unit : Word} {sup : List Super}
    {s : State} (h : s.parts[p].recov = []) (j : Super) :
    (stopPartition p k st d d2 unit sup s).supers[j].badNodes = s.supers[j].badNodes := by
  obtain ⟨f, -, -, he⟩ := stopPartition_begins (k := k) (st := st) (d := d) (d2 := d2) (unit := unit) (sup := sup) h
  have ha : Within [.router] s (raiseAlarm p k 0x07 s) := raiseAlarm_without (by decide)
  rw [he, ← within_badNodes ha j (by decide)]
  generalize raiseAlarm p k 0x07 s = a
  unfold beginRecovery
  dsimp only
  generalize (if f.received = true then evAbortReceived else evFault) = ev
  have hb : Within [.out, .host, .evq, .mod] a (postEvent p ev f.status f.comb f.evDetail a) := postEvent_without (by decide)
  rw [← within_badNodes hb j (by decide)]
  generalize postEvent p ev f.status f.comb f.evDetail a = b
  have ht : ∀ r t, Within [.rings, .partRegs] t (takeOver p r t) := fun r t => takeOver_without (by decide)
  rw [within_badNodes (ht _ _) j (by decide)]
  unfold stopWhole
  dsimp only
  generalize hc : forEach (combsOf b p) (fun k s => haltComb k s) b = c
  have hbc : Within [.draws, .seq, .cellMem, .cellRun, .combMem, .ctx] b c := by
    rw [← hc]
    exact forEach_without _ _ _ _ fun a t => haltComb_without (by decide)
  have hi : Within [.seq, .hild, .ctx] c (stopIssue (combsOf c p) c) := stopIssue_without (by decide)
  generalize stopIssue (combsOf c p) c = e at hi
  have hr : Within [.rings] e (stopRings p (fins 16) f.status f.detail f.detail2 (resetCode f.supers) e) :=
    stopRings_without (by decide)
  generalize stopRings p (fins 16) f.status f.detail f.detail2 (resetCode f.supers) e = g at hr
  have ho : Within [.out, .host, .evq, .partRegs, .mod] g (orphanCkpt p f.status g) := orphanCkpt_without (by decide)
  have hl : ∀ t, Within [.hum] t (clearActive p t) := fun t => clearActive_without (by decide)
  show (clearActive p (dropRestore p (orphanCkpt p f.status g))).supers[j].badNodes = _
  rw [within_badNodes (hl _) j (by decide), dropRestore_badNodes, within_badNodes ho j (by decide),
    within_badNodes hr j (by decide), within_badNodes hi j (by decide), within_badNodes hbc j (by decide)]

/-! ### A node that fails (R356) -/

/-- The nodes that a counter fetch may read lie over the offset (R346). -/
theorem missingNodes_over {u : SuperState} {off n : Nat} (hn : n ∈ missingNodes u off) (ho : off < 2 ^ 36) :
    nodeBase n ≤ off ∧ off < nodeBase n + nodeSpan n := by
  unfold missingNodes at hn
  rw [List.mem_reverse, List.mem_map] at hn
  obtain ⟨i, hi, rfl⟩ := hn
  have hi4 : i < 4 := List.mem_range.1 ((List.takeWhile_sublist _).subset hi)
  have hq : off / 2 ^ (9 + 3 * (i + 1)) < 16777216 := by
    refine Nat.div_lt_of_lt_mul (ho.trans_le ?_)
    calc 2 ^ 36 = 2 ^ 12 * 16777216 := by norm_num
      _ ≤ 2 ^ (9 + 3 * (i + 1)) * 16777216 := Nat.mul_le_mul_right _ (Nat.pow_le_pow_right (by omega) (by omega))
  have hl : nodeLevel (nodeOf (i + 1) off) = i + 1 := by
    unfold nodeLevel nodeOf
    rw [Nat.mul_comm, Nat.mul_add_div (by norm_num), Nat.div_eq_of_lt hq,
      Nat.add_zero]
  have hx : nodeIndex (nodeOf (i + 1) off) = off / 2 ^ (9 + 3 * (i + 1)) := by
    unfold nodeIndex nodeOf
    rw [Nat.mul_comm, Nat.mul_add_mod, Nat.mod_eq_of_lt hq]
  unfold nodeBase nodeSpan
  rw [hl, hx]
  have hm := Nat.div_add_mod off (2 ^ (9 + 3 * (i + 1)))
  have hlt := Nat.mod_lt off (y := 2 ^ (9 + 3 * (i + 1))) (by positivity)
  rw [Nat.mul_comm] at hm
  omega

/-- Over a range that holds an owned offset, the owner is the only partition (R11, R321). -/
theorem ownersOver_owner {s : State} {k : Super} {off lo hi : Nat} {p : Part} {m : RgnMap} {a : Nat}
    (ho : ownerAt s k off = some (p, m, a)) (hlo : lo ≤ off) (hhi : off < hi) : ownersOver s k lo hi = [p] := by
  unfold ownerAt at ho
  unfold ownersOver
  cases hp : partOf s k with
  | none => simp [hp] at ho
  | some q =>
    rw [hp] at ho
    dsimp only at ho ⊢
    by_cases hr : s.parts[q].ready = true
    · rw [if_pos hr] at ho
      obtain ⟨m', hm', hf⟩ := List.exists_of_findSome?_eq_some ho
      rw [Option.map_eq_some_iff] at hf
      obtain ⟨a', ha', he⟩ := hf
      obtain ⟨rfl, -, -⟩ : q = p ∧ m' = m ∧ a' = a := by simpa using he
      have hcover : (regionMap s q).any (fun m =>
          let b := m.base.getD (posOf q k) 0
          let n := if kindLocal m.kind then (if m.pos = posOf q k then m.len else 0) else m.len / Machine.sizeOf s q
          decide (0 < n) && decide (b < hi) && decide (lo < b + n)) = true := by
        refine List.any_eq_true.2 ⟨m', hm', ?_⟩
        unfold ppaIn at ha'
        dsimp only at ha' ⊢
        by_cases hk : kindLocal m'.kind = true
        · rw [if_pos hk] at ha'
          split at ha'
          · next h =>
            rw [if_pos hk, if_pos h.1]
            simp only [Bool.and_eq_true, decide_eq_true_eq]
            omega
          · cases ha'
        · rw [if_neg hk] at ha'
          split at ha'
          · next h =>
            rw [if_neg hk]
            simp only [Bool.and_eq_true, decide_eq_true_eq]
            omega
          · cases ha'
      rw [if_pos (by rw [hr, hcover]; rfl)]
    · rw [if_neg hr] at ho
      cases ho

/-- A node that fails outside the queen regions is poisoned, and no partition's recovery or map moves. -/
theorem nodeNote_eq {k : Super} {n : Nat} {s : State} (h : regionDie k = none) :
    ∃ f : SuperState → SuperState, nodeNote k n s = s.modSuper k f ∧ (f s.supers[k]).badNodes.contains n = true ∧
      ∀ u, (f u).without [.superMem, .superTree, .superRegs] = u.without [.superMem, .superTree, .superRegs] := by
  refine ⟨fun u => clearFlips (nodeLine n) (nodeAddr n % 128) (nodeAddr n % 128 + 64) { u with
    badNodes := if u.badNodes.contains n then u.badNodes else n :: u.badNodes
    nodeFail := hit 16 u.nodeFail, tree := 2, perrOff := BitVec.ofNat 36 (nodeBase n), perrKind := 3
    perrLevel := BitVec.ofNat 4 (nodeLevel n), perrKey := 0 }, ?_, ?_, fun _ => rfl⟩
  · simp only [nodeNote, h]
    simp only [State.modSuper, upd, Fin.getElem_fin, Vector.getElem_set_self, Vector.set_set]
  · show (if s.supers[k].badNodes.contains n then s.supers[k].badNodes else n :: s.supers[k].badNodes).contains n = true
    split
    · assumption
    · simp

/-! ### Reads (R352) -/

theorem crossLink_readOutcome (k : Super) (who : Requester) (n m off : Nat) (s : State) :
    readOutcome (crossLink k who n m s) k off = readOutcome s k off := by
  obtain ⟨l, hl⟩ := crossLink_eq k who n m s
  rw [hl, withLink_readOutcome]

theorem crossLink_within (k : Super) (who : Requester) (n m : Nat) (s : State) : Within [.superRegs] s (crossLink k who n m s) := by
  obtain ⟨l, hl⟩ := crossLink_eq k who n m s
  rw [hl]
  exact withLink_within k l s

/-- Only the Hild unit is stopped by an integrity failure of its own. -/
theorem hildIntegrity_other {who : Requester} (h : ∀ j : Super, who ≠ .hild j) (s : State) : hildIntegrity who s = s := by
  cases who with
  | hild j => exact absurd rfl (h j)
  | _ => rfl

/-- A request under a retired key is refused and counted (R339). -/
theorem refuseKey_notes {k : Super} {who : Requester} {w : Bool} {s t : State} (h : refuseKey k who w s = t) :
    t.out.head? = some (.readReply who stKeyRetired []) ∧ t.supers[k].keyRefused = hit 16 s.supers[k].keyRefused ∧
    t.supers[k].lateDrop = (if w then hit 16 s.supers[k].lateDrop else s.supers[k].lateDrop) ∧ Within [.out, .superRegs] s t := by
  subst h
  have hm := modSuper_at s k fun u => { u with
    keyRefused := hit 16 u.keyRefused, lateDrop := if w then hit 16 u.lateDrop else u.lateDrop }
  exact ⟨rfl, congrArg SuperState.keyRefused hm, congrArg SuperState.lateDrop hm,
    (emit_without _ _ _ (by decide)).trans (modSuper_without _ _ _ _ fun _ => rfl)⟩

theorem ewSuper_super (k : Super) (m : Fin 7) (s : State) : (ewSuper k m s).supers[k] = s.supers[k] := by
  unfold ewSuper
  split <;> rfl

/-- A corrected line counts CE (R310). -/
theorem lineCorrected_ce (k : Super) (l : Nat) (s : State) : (lineCorrected k l s).supers[k].ce = hit 32 s.supers[k].ce := by
  have hr : ∀ row t, (needRepair k row t).supers[k].ce = t.supers[k].ce := by
    intro row t
    unfold needRepair
    dsimp only
    split
    · rfl
    · split
      · exact (congrArg SuperState.ce (ewSuper_super ..)).trans (congrArg SuperState.ce (modSuper_at ..) :)
      · refine (congrArg SuperState.ce (modSuper_at ..)).trans ?_
        split <;> rfl
  have he : ∀ f : SuperState → SuperState, (∀ u, (f u).ce = hit 32 u.ce) →
      (ewSuper k 0 (s.modSuper k f)).supers[k].ce = hit 32 s.supers[k].ce := fun f hf =>
    (congrArg SuperState.ce (ewSuper_super ..)).trans ((congrArg SuperState.ce (modSuper_at ..)).trans (hf _))
  unfold lineCorrected
  dsimp only
  split
  · exact (hr ..).trans (he _ fun _ => rfl)
  · exact he _ fun _ => rfl

/-- What a counter fetch leaves of a super. -/
theorem counted_kept {u w : SuperState} (h : counted u = counted w) : u.mem = w.mem ∧ u.ctr = w.ctr ∧ u.poison = w.poison ∧
    u.dramErr = w.dramErr ∧ u.dieMark = w.dieMark ∧ u.ce = w.ce ∧ u.ue = w.ue :=
  ⟨(congrArg SuperState.mem h :), (congrArg SuperState.ctr h :), (congrArg SuperState.poison h :),
    (congrArg SuperState.dramErr h :), (congrArg SuperState.dieMark h :), (congrArg SuperState.ce h :),
    (congrArg SuperState.ue h :)⟩

/-- What a quiet change leaves of its super. -/
theorem Quiet.kept {k : Super} {s t : State} (h : Quiet k s t) : t.supers[k].ctr = s.supers[k].ctr ∧
    t.supers[k].poison = s.supers[k].poison ∧ t.supers[k].tagFail = s.supers[k].tagFail :=
  ⟨(congrArg SuperState.ctr h.super :), (congrArg SuperState.poison h.super :), (congrArg SuperState.tagFail h.super :)⟩

/-- A line is clean by the flipped bits and the marked die alone. -/
theorem LineClean.congr {u w : SuperState} {k : Super} {l : Nat} (he : u.dramErr = w.dramErr) (hm : u.dieMark = w.dieMark)
    (h : LineClean w k l) : LineClean u k l := by
  unfold LineClean
  rw [he, hm]
  exact h

/-- Where a counter other than 0 is fetched without failure a read meets what its line is (R352). -/
theorem readOutcome_lineCheck {s : State} {k : Super} {off : Nat} (hn : NodesClean s.supers[k] off)
    (hc : tabGet 0 s.supers[k].ctr (off / 512) ≠ 0) : readOutcome s k off = lineCheck s k (off / 128) := by
  rw [readOutcome_clean hn, if_neg hc]

section Read

variable {s : State} {k : Super} {off : Nat} {who : Requester} {key : KeyId}
variable (ha : accessOf s k off who = .ok key)
include ha

theorem serveRead_retired (hk : s.supers[k].slots[key].state ≠ 1) : serveRead k off who s = refuseKey k who false s := by
  simp only [serveRead, ha, if_pos hk]

variable (hk : s.supers[k].slots[key].state = 1)
include hk

theorem serveRead_deadNode (hr : readOutcome s k off = .deadNode) :
    serveRead k off who s = emit (.readReply who stPoison []) (crossLink k who 1 1 s) := by
  simp only [serveRead, ha, hk, hr, meetLine, crossLink_readOutcome, ne_eq, not_true_eq_false, if_false]

theorem serveRead_badNode {n : Nat} (hr : readOutcome s k off = .badNode n) : serveRead k off who s =
    replyIntegrity who (stopUnder k n (ppaDetail s k off) (nodeNote k n (noteNodes k off (crossLink k who 1 1 s)))) := by
  simp only [serveRead, ha, hk, hr, meetLine, crossLink_readOutcome, ne_eq, not_true_eq_false, if_false]

theorem serveRead_zero (hr : readOutcome s k off = .zero) :
    serveRead k off who s = emit (.readReply who stOK (List.replicate 128 0)) (fetchCtr k off (crossLink k who 1 1 s)) := by
  simp only [serveRead, ha, hk, hr, meetLine, crossLink_readOutcome, ne_eq, not_true_eq_false, if_false]

theorem serveRead_poisoned (hr : readOutcome s k off = .poisoned) :
    serveRead k off who s = emit (.readReply who stPoison []) (fetchCtr k off (crossLink k who 1 1 s)) := by
  simp only [serveRead, ha, hk, hr, meetLine, crossLink_readOutcome, ne_eq, not_true_eq_false, if_false]

theorem serveRead_lost (hr : readOutcome s k off = .lost) : serveRead k off who s = emit (.readReply who stPoison [])
    (lineUncorrectable k (off / 128) (srcOfReq who) (fetchCtr k off (crossLink k who 1 1 s))) := by
  simp only [serveRead, ha, hk, hr, meetLine, crossLink_readOutcome, ne_eq, not_true_eq_false, if_false]

theorem serveRead_badTag (hr : readOutcome s k off = .badTag) : serveRead k off who s = replyIntegrity who
    (stopOwner k off stIntegrityFail (tagNote k (off / 128) 1 (noteLine k (off / 128) (fetchCtr k off (crossLink k who 1 1 s))))) := by
  simp only [serveRead, ha, hk, hr, meetLine, crossLink_readOutcome, ne_eq, not_true_eq_false, if_false]

theorem serveRead_good (hr : readOutcome s k off = .good 0) : serveRead k off who s =
    emit (.readReply who stOK (memRead s.supers[k].mem (128 * (off / 128)) 128))
      (noteLine k (off / 128) (fetchCtr k off (crossLink k who 1 1 s))) := by
  simp only [serveRead, ha, hk, hr, meetLine, crossLink_readOutcome, plainLine, ne_eq, not_true_eq_false, if_false, if_true]

/-- A read under a poisoned node answers POISON (R356). -/
theorem read_deadNode (hb : nodeBad s.supers[k] off = true) {t : State} (ht : serveRead k off who s = t) :
    t.out.head? = some (.readReply who stPoison []) ∧ Within [.out, .superRegs] s t := by
  have hr : readOutcome s k off = .deadNode := by simp only [readOutcome, hb, if_true]
  rw [serveRead_deadNode ha hk hr] at ht
  subst ht
  exact ⟨rfl, ((crossLink_within k who 1 1 s).mono (by decide)).trans (emit_without _ _ _ (by decide))⟩

section Fetched

variable (hn : NodesClean s.supers[k] off) (htouch : (touchCtr off false s.supers[k]).2 = [])
include hn htouch

/-- A read of a zero sector answers zeros. -/
theorem read_zero (hc : tabGet 0 s.supers[k].ctr (off / 512) = 0) {t : State} (ht : serveRead k off who s = t) :
    t.out.head? = some (.readReply who stOK (List.replicate 128 0)) ∧ t.supers[k].mem = s.supers[k].mem ∧
    t.supers[k].ctr = s.supers[k].ctr ∧ Within [.out, .superTree, .superRegs] s t := by
  obtain ⟨hmem, hctr, -⟩ := counted_kept (fetch_counted (who := who) hn htouch)
  rw [serveRead_zero ha hk (by rw [readOutcome_clean hn, if_pos hc])] at ht
  subst ht
  exact ⟨rfl, hmem, hctr,
    ((fetch_within hn htouch).mono (by decide)).trans (emit_without _ _ _ (by decide))⟩

/-- A tag that fails answers INTEGRITY_FAIL and stops the owner of the line (R356). -/
theorem read_badTag (hr : readOutcome s k off = .badTag) (hm : Unmarked s.supers[k] k (off / 128))
    (hw : ∀ j : Super, who ≠ .hild j) {p : Part} {m : RgnMap} {a : Nat} (ho : ownerAt s k off = some (p, m, a))
    (hv : s.parts[p].recov = []) {t : State} (ht : serveRead k off who s = t) :
    t.out.head? = some (.readReply who stIntegrityFail []) ∧ Stopped p stIntegrityFail s t ∧
    t.supers[k].tagFail = hit 16 s.supers[k].tagFail := by
  rw [serveRead_badTag ha hk hr] at ht
  have hq := quiet_fetch (who := who) hn htouch
  generalize fetchCtr k off (crossLink k who 1 1 s) = x at ht hq
  have hq' : Quiet k s (noteLine k (off / 128) x) := hq.trans (quiet_noteLine
    ⟨fun d hd => hm.1 d (by rwa [hq.decodeLine] at hd), fun d hd => hm.2 d (by rwa [hq.decodeLine] at hd)⟩)
  generalize noteLine k (off / 128) x = y at ht hq'
  obtain ⟨-, -, htag⟩ := hq'.kept
  obtain ⟨htf, hrec⟩ := tagNote_notes k (off / 128) 1 y
  have hz : Within [.superMem, .superTree, .superRegs, .partRegs] s (tagNote k (off / 128) 1 y) :=
    (hq'.within.mono (by decide)).trans (tagNote_without (by decide))
  generalize tagNote k (off / 128) 1 y = z at ht htf hrec hz
  have hoz : ownerAt z k off = some (p, m, a) := by
    rw [within_ownerAt hz (by decide) (by decide) (by decide), ho]
  have hrz : z.parts[p].recov = [] := by rw [hrec, hq'.recov, hv]
  rw [replyIntegrity, hildIntegrity_other hw, stopOwner_eq hoz] at ht
  subst ht
  refine ⟨rfl, stopped_emit _ (stopped_of_within hz (by decide) (by decide) (stopPartition_stops hrz)), ?_⟩
  rw [emit_supers, within_tagFail (stopPartition_within hrz) k (by decide), htf, htag]

variable (hc : tabGet 0 s.supers[k].ctr (off / 512) ≠ 0)
include hc

/-- A read of a poisoned line answers POISON (R355). -/
theorem read_poisoned (hp : s.supers[k].poison.contains (off / 128) = true) {t : State} (ht : serveRead k off who s = t) :
    t.out.head? = some (.readReply who stPoison []) ∧ Within [.out, .superTree, .superRegs] s t := by
  have hr : readOutcome s k off = .poisoned :=
    (readOutcome_lineCheck hn hc).trans (lineCheck_poisoned hp)
  rw [serveRead_poisoned ha hk hr] at ht
  subst ht
  exact ⟨rfl, ((fetch_within hn htouch).mono (by decide)).trans (emit_without _ _ _ (by decide))⟩

variable (hp : s.supers[k].poison.contains (off / 128) = false)
include hp

/-- A read of a line without a flipped bit answers its bytes. -/
theorem read_clean (hl : LineClean s.supers[k] k (off / 128)) {t : State} (ht : serveRead k off who s = t) :
    t.out.head? = some (.readReply who stOK (memRead s.supers[k].mem (128 * (off / 128)) 128)) ∧
    t.supers[k].mem = s.supers[k].mem ∧ t.supers[k].ctr = s.supers[k].ctr ∧ Within [.out, .superTree, .superRegs] s t := by
  obtain ⟨hmem, hctr, -, herr, hmark, -⟩ := counted_kept (fetch_counted (who := who) hn htouch)
  have hr : readOutcome s k off = .good 0 :=
    (readOutcome_lineCheck hn hc).trans (lineCheck_clean hl hp)
  rw [serveRead_good ha hk hr, noteLine_clean (hl.congr herr hmark)] at ht
  subst ht
  exact ⟨rfl, hmem, hctr,
    ((fetch_within hn htouch).mono (by decide)).trans (emit_without _ _ _ (by decide))⟩

/-- A read of a line that correction makes whole answers its bytes and counts the correction (R310, R352). -/
theorem read_corrected {d : Decoded} (hd : decodeLine s.supers[k] k (off / 128) = some d) (hl : d.left = 0)
    (hcor : d.corrected = true) (hm : d.mark = none)
    (htag : sealedAt k (128 * (off / 128)) = true ∨ tabGet 0 s.supers[k].dramErr (tagLine (off / 128)) = 0)
    {t : State} (ht : serveRead k off who s = t) :
    t.out.head? = some (.readReply who stOK (memRead s.supers[k].mem (128 * (off / 128)) 128)) ∧
    t.supers[k].ce = hit 32 s.supers[k].ce ∧ t.supers[k].ctr = s.supers[k].ctr := by
  obtain ⟨-, hctr, -, -, -, hce, -⟩ := counted_kept (fetch_counted (who := who) hn htouch)
  have hq := quiet_fetch (who := who) hn htouch
  have hr : readOutcome s k off = .good 0 := (readOutcome_lineCheck hn hc).trans
    (lineCheck_whole hp hd hl fun e => htag.resolve_left (by simp [e]))
  rw [serveRead_good ha hk hr] at ht
  generalize fetchCtr k off (crossLink k who 1 1 s) = x at ht hctr hce hq
  have hnote : noteLine k (off / 128) x = lineCorrected k (off / 128) x := by
    have hfirst : noteDecode k (off / 128) x = lineCorrected k (off / 128) x := by
      simp only [noteDecode, hq.decodeLine, hd, hcor, hm, if_true]
    unfold noteLine
    rw [hfirst]
    split
    · rfl
    · next hs =>
      refine noteDecode_clear ?_
      rw [(hq.trans (quiet_lineCorrected ..)).decodeLine]
      exact decodeLine_tagLine (htag.resolve_left hs)
  rw [hnote] at ht
  subst ht
  exact ⟨rfl, (lineCorrected_ce ..).trans (congrArg _ hce), (quiet_lineCorrected k (off / 128) x).kept.1.trans hctr⟩

/-- A read of an uncorrectable line answers POISON; the line is poisoned, counted and logged (R313, R355). -/
theorem read_lost (hd : decodeLine s.supers[k] k (off / 128) = none) {t : State} (ht : serveRead k off who s = t) :
    t.out.head? = some (.readReply who stPoison []) ∧ t.supers[k].poison.contains (off / 128) = true ∧
    t.supers[k].ue = hit 16 s.supers[k].ue ∧ t.supers[k].errSrc = srcOfReq who := by
  obtain ⟨-, -, hpois, -, -, -, hue⟩ := counted_kept (fetch_counted (who := who) hn htouch)
  have hr : readOutcome s k off = .lost := (readOutcome_lineCheck hn hc).trans (lineCheck_lost hp hd)
  rw [serveRead_lost ha hk hr] at ht
  subst ht
  obtain ⟨hpoison, hcount, hsrc⟩ := lineUncorrectable_notes (k := k) (l := off / 128) (src := srcOfReq who)
    (s := fetchCtr k off (crossLink k who 1 1 s)) (by rw [hpois, hp])
  exact ⟨rfl, hpoison, hcount.trans (congrArg _ hue), hsrc⟩

end Fetched

/-- A node that fails answers INTEGRITY_FAIL, is poisoned, and stops the owner of the line (R356). -/
theorem read_badNode {n : Nat} (hb : nodeBad s.supers[k] off = false) (hh : (missingNodes s.supers[k] off).head? = some n)
    (hbad : nodeVerifies s.supers[k] k n = false) (hreg : regionDie k = none) (hlt : off < 2 ^ 36)
    (hw : ∀ j : Super, who ≠ .hild j) {p : Part} {m : RgnMap} {a : Nat} (ho : ownerAt s k off = some (p, m, a))
    (hv : s.parts[p].recov = []) {t : State} (ht : serveRead k off who s = t) :
    t.out.head? = some (.readReply who stIntegrityFail []) ∧ Stopped p stIntegrityFail s t ∧
    t.supers[k].badNodes.contains n = true := by
  obtain ⟨ns, hns⟩ : ∃ ns, missingNodes s.supers[k] off = n :: ns := List.head?_eq_some_iff.1 hh
  have hr : readOutcome s k off = .badNode n := by
    simp only [readOutcome, hb, failingNode, hns, List.find?_cons, hbad, Bool.not_false, Bool.false_eq_true, if_false]
  obtain ⟨l, hl⟩ := crossLink_eq k who 1 1 s
  have hnodes : noteNodes k off (withLink k l s) = withLink k l s := by
    have hm' : missingNodes (withLink k l s).supers[k] off = n :: ns := by rw [withLink_super]; exact hns
    have hb' : nodeVerifies (withLink k l s).supers[k] k n = false := by rw [withLink_super]; exact hbad
    simp only [noteNodes, hm', List.takeWhile_cons, hb', Bool.false_eq_true, if_false]
    rfl
  rw [serveRead_badNode ha hk hr, hl, hnodes] at ht
  obtain ⟨f, hnote, hf, hfw⟩ := nodeNote_eq (n := n) (s := withLink k l s) hreg
  have hz : Within [.superMem, .superTree, .superRegs] s (nodeNote k n (withLink k l s)) := by
    rw [hnote]
    exact ((withLink_within k l s).mono (by decide)).trans (modSuper_without _ _ _ _ hfw)
  have hbz : (nodeNote k n (withLink k l s)).supers[k].badNodes.contains n = true := by
    rw [hnote, modSuper_at]
    exact hf
  have hrz : (nodeNote k n (withLink k l s)).parts[p].recov = [] := by
    rw [hnote]
    exact hv
  generalize nodeNote k n (withLink k l s) = z at ht hz hbz hrz
  have hoz : ownerAt z k off = some (p, m, a) := by
    rw [within_ownerAt hz (by decide) (by decide) (by decide), ho]
  have hover := missingNodes_over (n := n) (by rw [hns]; simp) hlt
  have hstop : stopUnder k n (ppaDetail s k off) z = stopPartition p k stIntegrityFail 0 (ppaDetail s k off) 0 [] z := by
    unfold stopUnder
    rw [ownersOver_owner hoz hover.1 hover.2]
    rfl
  rw [replyIntegrity, hildIntegrity_other hw, hstop] at ht
  subst ht
  refine ⟨rfl, stopped_emit _ (stopped_of_within hz (by decide) (by decide) (stopPartition_stops hrz)), ?_⟩
  rw [emit_supers, stopPartition_badNodes hrz, hbz]

end Read

/-! ### The lines and the sector of a write -/

theorem pieces_succ {u f a n : Nat} (h : n ≠ 0) : pieces u (f + 1) a n =
    (a, min n (u - a % u)) :: pieces u f (a + min n (u - a % u)) (n - min n (u - a % u)) := by rw [pieces, if_neg h]

/-- Bytes that one unit holds are one piece. -/
theorem pieces_one {u f a n : Nat} (h0 : n ≠ 0) (h : a % u + n ≤ u) : pieces u (f + 2) a n = [(a, n)] := by
  have hm : min n (u - a % u) = n := by omega
  rw [pieces_succ h0, hm, Nat.sub_self, pieces, if_pos rfl]

/-- Whole units are cut into units. -/
theorem pieces_whole {f a q : Nat} (h : a % 128 = 0) (hq : q < f) :
    pieces 128 f a (128 * q) = (List.range q).map fun i => (a + 128 * i, 128) := by
  induction q generalizing f a with
  | zero =>
    obtain ⟨f, rfl⟩ := Nat.exists_eq_succ_of_ne_zero (by omega : f ≠ 0)
    rfl
  | succ q ih =>
    obtain ⟨f, rfl⟩ := Nat.exists_eq_succ_of_ne_zero (by omega : f ≠ 0)
    have hm : min (128 * (q + 1)) (128 - a % 128) = 128 := by omega
    have hr : 128 * (q + 1) - 128 = 128 * q := by omega
    rw [pieces_succ (by omega), hm, hr, ih (by omega) (by omega), List.range_succ_eq_map, List.map_cons, List.map_map]
    refine List.cons_eq_cons.2 ⟨by rw [Nat.mul_zero, Nat.add_zero], List.map_congr_left fun i _ => ?_⟩
    simp only [Function.comp, Prod.mk.injEq, and_true]
    omega

/-- What a write command takes: fewer than 128 bytes of one line, or whole lines. -/
def Fits (off : Nat) (data : Bytes) : Prop := data ≠ [] ∧
  if data.length < 128 then off % 128 + data.length ≤ 128 else off % 128 = 0 ∧ data.length % 128 = 0

theorem Fits.length_ne {off : Nat} {data : Bytes} (h : Fits off data) : data.length ≠ 0 := by
  have := h.1
  simpa using this

/-- The lines that a write touches. -/
def touchedLines (off n : Nat) : List Nat := (linesOf off n).map fun l => l.1 / 128

/-- The lines of the sector that holds an offset. -/
def sectorLines (off : Nat) : List Nat := (List.range 4).map fun i => off / 512 * 4 + i

theorem mem_sectorLines {off l : Nat} : l ∈ sectorLines off ↔ l / 4 = off / 512 := by
  simp only [sectorLines, List.mem_map, List.mem_range]
  constructor
  · rintro ⟨i, hi, rfl⟩
    omega
  · intro h
    exact ⟨l % 4, by omega, by omega⟩

/-- A write of fewer than 128 bytes covers its line in part. -/
theorem Fits.lines_partial {off : Nat} {data : Bytes} (h : Fits off data) (hs : data.length < 128) :
    partLines off data.length = [off / 128] ∧ wholeLines off data.length = [] ∧ touchedLines off data.length = [off / 128] := by
  have h0 := h.length_ne
  have hf := h.2
  rw [if_pos hs] at hf
  have hl : linesOf off data.length = [(off, data.length)] := pieces_one h0 hf
  simp [partLines, wholeLines, touchedLines, hl, hs, hs.ne]

/-- Another write covers each of its lines whole. -/
theorem Fits.lines_whole {off : Nat} {data : Bytes} (h : Fits off data) (hs : ¬ data.length < 128) :
    partLines off data.length = [] ∧ wholeLines off data.length = touchedLines off data.length ∧
    ∀ l, l ∈ touchedLines off data.length ↔ off ≤ 128 * l ∧ 128 * l + 128 ≤ off + data.length := by
  have hf := h.2
  rw [if_neg hs] at hf
  obtain ⟨ha, hn⟩ := hf
  have hl : linesOf off data.length = (List.range (data.length / 128)).map fun i => (off + 128 * i, 128) := by
    have := pieces_whole (f := data.length / 128 + 2) (a := off) (q := data.length / 128) ha (by omega)
    rwa [Nat.mul_div_cancel' (Nat.dvd_of_mod_eq_zero hn)] at this
  refine ⟨?_, ?_, fun l => ?_⟩
  · simp [partLines, hl]
  · have hall : ∀ x ∈ linesOf off data.length, decide (x.2 = 128) = true := by
      rw [hl]
      simp
    rw [wholeLines, List.filter_eq_self.2 hall, touchedLines]
  · simp only [touchedLines, hl, List.map_map, List.mem_map, List.mem_range, Function.comp]
    constructor
    · rintro ⟨i, hi, rfl⟩
      omega
    · intro hr
      exact ⟨l - off / 128, by omega, by omega⟩

/-- The lines that a merge reads are those of the sector that the write does not cover whole. -/
theorem Fits.mem_read {off l : Nat} {data : Bytes} (h : Fits off data) (hl : l ∈ sectorLines off)
    (hw : ∀ x ∈ wholeLines off data.length, x ≠ l) : l ∈ partLines off data.length ∨ l ∈ siblings off data.length := by
  by_cases ht : l ∈ touchedLines off data.length
  · by_cases hs : data.length < 128
    · obtain ⟨hpart, -, htouch⟩ := h.lines_partial hs
      rw [htouch] at ht
      rw [hpart]
      exact .inl ht
    · obtain ⟨-, hwhole, -⟩ := h.lines_whole hs
      exact absurd rfl (hw l (hwhole ▸ ht))
  · refine .inr (List.mem_filter.2 ⟨hl, ?_⟩)
    rw [Bool.not_eq_true', ← Bool.not_eq_true, List.contains_iff_mem]
    exact ht

/-- They all lie in the sector. -/
theorem Fits.read_mem {off l : Nat} {data : Bytes} (h : Fits off data)
    (hl : l ∈ partLines off data.length ++ siblings off data.length) : l ∈ sectorLines off := by
  rcases List.mem_append.1 hl with hp | hs
  · by_cases hlen : data.length < 128
    · rw [(h.lines_partial hlen).1, List.mem_singleton] at hp
      rw [mem_sectorLines]
      omega
    · rw [(h.lines_whole hlen).1] at hp
      cases hp
  · exact (List.mem_filter.1 hs).1

/-! ### A sector stored (R343) -/

theorem foldl_kept {α β γ : Type} {π : β → γ} {f : β → α → β} (h : ∀ b a, π (f b a) = π b) (l : List α) (b : β) :
    π (l.foldl f b) = π b := by
  induction l generalizing b with
  | nil => rfl
  | cons a r ih => exact (ih _).trans (h b a)

/-- The poisoned lines that a write of a sector with counter c leaves poisoned. -/
def stillPoisoned (off n c : Nat) (l : Nat) : Bool :=
  !(wholeLines off n).contains l && !(decide (c = 1) && decide (l / 4 = off / 512))

/-- Beside node counters, counts and the bits it settles, a write of a sector changes its counter, its bytes and its poison. -/
theorem storeSector_counted (k : Super) (off : Nat) (data : Bytes) (u : SuperState) :
    undram (counted (storeSector k off data u).1) = undram (counted { u with
      ctr := tabSet 0 u.ctr (off / 512) (tabGet 0 u.ctr (off / 512) + 1)
      mem := memWrite u.mem off data
      poison := u.poison.filter (stillPoisoned off data.length (tabGet 0 u.ctr (off / 512) + 1)) }) := by
  unfold storeSector
  dsimp only
  generalize (if tabGet 0 u.ctr (off / 512) + 1 = 1 then _ else _ : List Nat) = fresh
  have hy : ∀ ls : List Nat, undram (counted (ls.foldl (fun u l => settleTag k l u)
      (fresh.foldl (fun u l => settleLine l u) (touchCtr off true u).1))) = undram (counted u) := by
    intro ls
    have h : undram (ls.foldl (fun u l => settleTag k l u) (fresh.foldl (fun u l => settleLine l u) (touchCtr off true u).1)) =
        undram (touchCtr off true u).1 :=
      (foldl_kept (fun u l => undram_settleTag k l u) ls _).trans
        (foldl_kept (π := undram) (f := fun u l => settleLine l u) (fun _ _ => rfl) fresh _)
    exact (congrArg counted h).trans (congrArg undram (counted_touchCtr off true u))
  have hs := hy ((List.range 4).map fun i => off / 512 * 4 + i)
  generalize List.foldl _ _ ((List.range 4).map fun i => off / 512 * 4 + i) = y at hs
  have hctr : y.ctr = u.ctr := (congrArg SuperState.ctr hs :)
  have hmem : y.mem = u.mem := (congrArg SuperState.mem hs :)
  have hpoison : y.poison = u.poison := (congrArg SuperState.poison hs :)
  rw [hctr, hmem, hpoison]
  exact congrArg (fun w : SuperState => { w with
    ctr := tabSet 0 u.ctr (off / 512) (tabGet 0 u.ctr (off / 512) + 1)
    mem := memWrite u.mem off data
    poison := u.poison.filter (stillPoisoned off data.length (tabGet 0 u.ctr (off / 512) + 1)) }) hs

theorem storeSector_mem (k : Super) (off : Nat) (data : Bytes) (u : SuperState) :
    (storeSector k off data u).1.mem = memWrite u.mem off data := (congrArg SuperState.mem (storeSector_counted k off data u) :)

theorem storeSector_ctr (k : Super) (off : Nat) (data : Bytes) (u : SuperState) :
    (storeSector k off data u).1.ctr = tabSet 0 u.ctr (off / 512) (tabGet 0 u.ctr (off / 512) + 1) :=
  (congrArg SuperState.ctr (storeSector_counted k off data u) :)

theorem storeSector_poison (k : Super) (off : Nat) (data : Bytes) (u : SuperState) : (storeSector k off data u).1.poison =
    u.poison.filter (stillPoisoned off data.length (tabGet 0 u.ctr (off / 512) + 1)) :=
  (congrArg SuperState.poison (storeSector_counted k off data u) :)

theorem storeSector_without (k : Super) (off : Nat) (data : Bytes) (u : SuperState) :
    (storeSector k off data u).1.without [.superMem, .superTree, .superRegs] =
      u.without [.superMem, .superTree, .superRegs] :=
  (congrArg (SuperState.without [.superMem, .superTree, .superRegs]) (storeSector_counted k off data u) :)

/-- A line that a write covers whole is not poisoned after it (R354). -/
theorem Fits.stillPoisoned_whole {off c l : Nat} {data : Bytes} (h : Fits off data) (hlo : off ≤ 128 * l)
    (hhi : 128 * l + 128 ≤ off + data.length) : stillPoisoned off data.length c l = false := by
  obtain ⟨-, hwhole, htouch⟩ := h.lines_whole (by omega)
  have hmem : l ∈ wholeLines off data.length := by
    rw [hwhole, htouch]
    exact ⟨hlo, hhi⟩
  simp [stillPoisoned, hmem]

/-! ### A sector of a write settled (R343, R354, R356) -/

section Settle

variable {s : State} {k : Super} {off : Nat} {data : Bytes} {key : KeyId} {src : BitVec 3}

theorem settleSector_exhausted (hn : NodesClean s.supers[k] off) (hc : tabGet 0 s.supers[k].ctr (off / 512) + 1 = 2 ^ 56) :
    settleSector k key off data src s = (noteErr true (.exhausted k off key 0) s, .exhausted) := by
  simp only [settleSector, hn.1, failingNode_clean hn, if_pos hc, Bool.false_eq_true, if_false]

theorem settleSector_first (hn : NodesClean s.supers[k] off) (hc : tabGet 0 s.supers[k].ctr (off / 512) = 0) :
    settleSector k key off data src s = (storePiece k off data s, .stored) := by
  simp only [settleSector, hn.1, failingNode_clean hn, hc, Bool.false_eq_true, if_false, if_true]
  rw [if_neg (by norm_num)]

theorem settleSector_merge (hn : NodesClean s.supers[k] off) (hx : tabGet 0 s.supers[k].ctr (off / 512) + 1 ≠ 2 ^ 56)
    (hc : tabGet 0 s.supers[k].ctr (off / 512) ≠ 0) :
    settleSector k key off data src s = mergeSector k off data src s := by
  simp only [settleSector, hn.1, failingNode_clean hn, if_neg hx, if_neg hc, Bool.false_eq_true, if_false]

/-- A sector stored without a counter event. -/
theorem storePiece_clean (hn : NodesClean s.supers[k] off) (ht : (touchCtr off true s.supers[k]).2 = [])
    (hc : tabGet 0 s.supers[k].ctr (off / 512) + 1 ≠ 2 ^ 55) :
    storePiece k off data s = s.modSuper k fun _ => (storeSector k off data s.supers[k]).1 := by
  have hev : (storeSector k off data s.supers[k]).2 = [] := ht
  simp only [storePiece, noteNodes_clean hn, hev, if_neg hc]
  rfl

section Merge

variable (hn : NodesClean s.supers[k] off) (hf : Fits off data)
include hn hf

/-- Reading clean lines changes nothing. -/
theorem mergeReads_clean (hl : ∀ l ∈ sectorLines off, LineClean s.supers[k] k l) :
    forEach (partLines off data.length ++ siblings off data.length) (noteLine k) (noteNodes k off s) = s := by
  rw [noteNodes_clean hn]
  exact forEach_fixed fun l h => noteLine_clean (hl l (hf.read_mem h))

/-- A merge over clean lines, the partial ones of them not poisoned, stores the sector. -/
theorem mergeSector_clean (hl : ∀ l ∈ sectorLines off, LineClean s.supers[k] k l)
    (hp : data.length < 128 → s.supers[k].poison.contains (off / 128) = false) :
    mergeSector k off data src s = (storePiece k off data s, .stored) := by
  have hread : ∀ l, l ∈ partLines off data.length ++ siblings off data.length →
      lineCheck s k l = .good 0 ∨ lineCheck s k l = .poisoned := fun l h => lineCheck_clean_or (hl l (hf.read_mem h))
  have hpart : ∀ l ∈ partLines off data.length, lineCheck s k l = .good 0 := by
    intro l h
    by_cases hs : data.length < 128
    · have hmem := hf.read_mem (List.mem_append_left _ h)
      rw [(hf.lines_partial hs).1, List.mem_singleton] at h
      exact lineCheck_clean (hl l hmem) (h ▸ hp hs)
    · rw [(hf.lines_whole hs).1] at h
      cases h
  have h1 : (partLines off data.length).find? (fun l => lineCheck s k l == .badTag) = none :=
    List.find?_eq_none.2 fun l h => by simp [hpart l h]
  have h2 : (siblings off data.length).find? (fun l => lineCheck s k l == .badTag) = none :=
    List.find?_eq_none.2 fun l h => by rcases hread l (List.mem_append_right _ h) with e | e <;> simp [e]
  have h3 : (partLines off data.length).find? (fun l => lineCheck s k l == .poisoned || lineCheck s k l == .lost) = none :=
    List.find?_eq_none.2 fun l h => by simp [hpart l h]
  have h4 : (siblings off data.length).filter (fun l => lineCheck s k l == .lost) = [] :=
    List.filter_eq_nil_iff.2 fun l h => by rcases hread l (List.mem_append_right _ h) with e | e <;> simp [e]
  simp only [mergeSector, mergeReads_clean hn hf hl, h1, h2, h3, h4]
  rfl

/-- A partial write of a poisoned line among clean ones ends as POISON and leaves the state (R354). -/
theorem mergeSector_poisoned (hs : data.length < 128) (hl : ∀ l ∈ sectorLines off, LineClean s.supers[k] k l)
    (hp : s.supers[k].poison.contains (off / 128) = true) :
    mergeSector k off data src s = (s, .poison (off / 128)) := by
  have hpart := (hf.lines_partial hs).1
  have hread := lineCheck_poisoned hp
  have h1 : (partLines off data.length).find? (fun l => lineCheck s k l == .badTag) = none := by
    rw [hpart]
    simp [hread]
  have h2 : (siblings off data.length).find? (fun l => lineCheck s k l == .badTag) = none :=
    List.find?_eq_none.2 fun l h => by
      rcases lineCheck_clean_or (hl l (hf.read_mem (List.mem_append_right _ h))) with e | e <;> simp [e]
  have h3 : (partLines off data.length).find? (fun l => lineCheck s k l == .poisoned || lineCheck s k l == .lost) =
      some (off / 128) := by
    rw [hpart]
    simp [hread]
  have h4 : (lineCheck s k (off / 128) == .lost) = false := by rw [hread]; rfl
  simp only [mergeSector, mergeReads_clean hn hf hl, h1, h2, h3, h4]
  rfl

/-- A tag that fails among the lines that a merge reads ends it (R354, R356). -/
theorem mergeSector_badTag (h : ∃ l ∈ sectorLines off, (∀ x ∈ wholeLines off data.length, x ≠ l) ∧ lineCheck s k l = .badTag) :
    ∃ l ∈ sectorLines off, ∃ kind, mergeSector k off data src s = (tagNote k l kind
      (forEach (partLines off data.length ++ siblings off data.length) (noteLine k) s), .badTag l) := by
  obtain ⟨l, hl, hw, hbad⟩ := h
  unfold mergeSector
  rw [noteNodes_clean hn]
  dsimp only
  cases h1 : (partLines off data.length).find? fun l => lineCheck s k l == .badTag with
  | some x => exact ⟨x, hf.read_mem (List.mem_append_left _ (List.mem_of_find?_eq_some h1)), 1, rfl⟩
  | none =>
    cases h2 : (siblings off data.length).find? fun l => lineCheck s k l == .badTag with
    | some x => exact ⟨x, hf.read_mem (List.mem_append_right _ (List.mem_of_find?_eq_some h2)), 2, rfl⟩
    | none =>
      rcases hf.mem_read hl hw with hp | hp
      · exact absurd (by simp [hbad]) (List.find?_eq_none.1 h1 l hp)
      · exact absurd (by simp [hbad]) (List.find?_eq_none.1 h2 l hp)

/-- A sector that a write can take is stored (R343, R354). -/
theorem settleSector_stored (hx : tabGet 0 s.supers[k].ctr (off / 512) + 1 ≠ 2 ^ 56)
    (hl : tabGet 0 s.supers[k].ctr (off / 512) ≠ 0 → (∀ l ∈ sectorLines off, LineClean s.supers[k] k l) ∧
      (data.length < 128 → s.supers[k].poison.contains (off / 128) = false)) :
    settleSector k key off data src s = (storePiece k off data s, .stored) := by
  by_cases hc : tabGet 0 s.supers[k].ctr (off / 512) = 0
  · exact settleSector_first hn hc
  · obtain ⟨hclean, hpoison⟩ := hl hc
    exact (settleSector_merge hn hx hc).trans (mergeSector_clean hn hf hclean hpoison)

end Merge

end Settle

/-! ### A write served -/

/-- What a request whose write ends with a status leaves at the Hild unit. -/
def hildEnd (who : Requester) (st : Byte) (s : State) : State :=
  if st = stIntegrityFail ∨ st = stCounterExhausted then hildIntegrity who s else s

theorem slice_all (data : Bytes) (a : Nat) : slice data (a - a) data.length = data := by
  simp [slice]

section Write

variable {s : State} {k : Super} {off : Nat} {who : Requester} {key : KeyId} {data : Bytes}
variable (ha : accessOf s k off who = .ok key)
include ha

theorem serveWrite_retired (hk : s.supers[k].slots[key].state ≠ 1) :
    serveWrite k off who data s = refuseKey k who true s := by
  simp only [serveWrite, ha, if_pos hk]

variable (hk : s.supers[k].slots[key].state = 1) (hf : Fits off data) (h1 : off % 512 + data.length ≤ 512)
include hk hf h1

/-- A write within one sector ends as its sector ends. -/
theorem serveWrite_one {w x : State} {e : SectorEnd} (hw : crossLink k who (linkFlits data.length) 1 s = w)
    (hx : settleSector k key off data (srcOfReq who) w = (x, e)) :
    serveWrite k off who data s = emit (.readReply who (failSector k off e x).2 [])
      (hildEnd who (failSector k off e x).2 (failSector k off e x).1) := by
  have hsec : sectorsOf off data.length = [(off, data.length)] := pieces_one hf.length_ne h1
  have hst : ∀ st : Byte, (if st = stOK then stOK else st) = st := fun st => by split <;> simp_all
  simp only [serveWrite, ha, hk, ne_eq, not_true_eq_false, if_false, hsec, settleAll, slice_all, hw, hx, hst, hildEnd]
  split <;> rfl

variable (hn : NodesClean s.supers[k] off)
include hn

/-- A write that its sector takes answers OK and advances the sector's counter by exactly 1 (R343). -/
theorem write_stored (hc : tabGet 0 s.supers[k].ctr (off / 512) + 1 < 2 ^ 55) (ht : (touchCtr off true s.supers[k]).2 = [])
    (hl : tabGet 0 s.supers[k].ctr (off / 512) ≠ 0 → (∀ l ∈ sectorLines off, LineClean s.supers[k] k l) ∧
      (data.length < 128 → s.supers[k].poison.contains (off / 128) = false))
    {t : State} (he : serveWrite k off who data s = t) :
    t.out.head? = some (.readReply who stOK []) ∧ memRead t.supers[k].mem off data.length = data ∧
    (∀ a, a < off ∨ off + data.length ≤ a → memByte t.supers[k].mem a = memByte s.supers[k].mem a) ∧
    (∀ x, tabGet 0 t.supers[k].ctr x =
      if x = off / 512 then tabGet 0 s.supers[k].ctr (off / 512) + 1 else tabGet 0 s.supers[k].ctr x) ∧
    (∀ l, off ≤ 128 * l → 128 * l + 128 ≤ off + data.length → t.supers[k].poison.contains l = false) ∧
    (∀ j : Super, j ≠ k → t.supers[j] = s.supers[j]) ∧ Within [.out, .superMem, .superTree, .superRegs] s t := by
  obtain ⟨b, hb⟩ := crossLink_eq k who (linkFlits data.length) 1 s
  have hw := withLink_super k b s
  have hww := withLink_within k b s
  have hwj : ∀ j : Super, j ≠ k → (withLink k b s).supers[j] = s.supers[j] := fun j hj => modSuper_other s k j _ hj.symm
  generalize withLink k b s = w at hb hw hww hwj
  have hnw : NodesClean w.supers[k] off := by rw [hw]; exact hn
  have hcw : tabGet 0 w.supers[k].ctr (off / 512) = tabGet 0 s.supers[k].ctr (off / 512) := by rw [hw]; rfl
  have htw : (touchCtr off true w.supers[k]).2 = [] := by rw [hw, touchCtr_setLink]; exact ht
  have hsettle : settleSector k key off data (srcOfReq who) w = (storePiece k off data w, .stored) :=
    settleSector_stored hnw hf (by omega) (by rw [hw]; exact hl)
  rw [serveWrite_one ha hk hf h1 hb hsettle] at he
  simp only [failSector, storePiece_clean hnw htw (by omega)] at he
  have htk : t.supers[k] = (storeSector k off data (setLink b s.supers[k])).1 := he ▸ hw ▸ modSuper_at ..
  rw [htk, storeSector_mem, storeSector_ctr, storeSector_poison]
  refine ⟨he ▸ rfl, memRead_memWrite data off, fun a h => ?_, fun x => tabGet_tabSet .., fun l hlo hhi => ?_, fun j hj => ?_, ?_⟩
  · rw [memByte_memWrite, if_neg (by omega)]
    rfl
  · rw [← Bool.not_eq_true, List.contains_iff_mem, List.mem_filter, hf.stillPoisoned_whole hlo hhi]
    exact fun h => Bool.false_ne_true h.2
  · rw [← he]
    exact (modSuper_other w k j _ hj.symm).trans (hwj j hj)
  · rw [← he]
    have hstore : Within [.superMem, .superTree, .superRegs] s (w.modSuper k fun _ => (storeSector k off data w.supers[k]).1) :=
      (hww.mono (by decide)).trans (modSuper_at_without _ _ _ _ (storeSector_without ..))
    exact (hstore.mono (by decide)).trans (emit_without _ _ _ (by decide))

/-- A write that would exhaust the counter answers COUNTER_EXHAUSTED and stops the owner of its sector (R356). -/
theorem write_exhausted (hc : tabGet 0 s.supers[k].ctr (off / 512) + 1 = 2 ^ 56) {p : Part} {m : RgnMap} {a : Nat}
    (ho : ownerAt s k (off / 512 * 512) = some (p, m, a)) (hv : s.parts[p].recov = [])
    {t : State} (he : serveWrite k off who data s = t) :
    t.out.head? = some (.readReply who stCounterExhausted []) ∧ Stopped p stCounterExhausted s t ∧
    t.supers[k].ctrExh = hit 16 s.supers[k].ctrExh := by
  obtain ⟨b, hb⟩ := crossLink_eq k who (linkFlits data.length) 1 s
  have hw := withLink_super k b s
  have hww := withLink_within k b s
  generalize withLink k b s = w at hb hw hww
  have hnw : NodesClean w.supers[k] off := by rw [hw]; exact hn
  have hcw : tabGet 0 w.supers[k].ctr (off / 512) + 1 = 2 ^ 56 := by rw [hw]; exact hc
  rw [serveWrite_one ha hk hf h1 hb (settleSector_exhausted hnw hcw)] at he
  have hz : Within [.superRegs] s (noteErr true (.exhausted k off key 0) w) := hww.trans (noteErr_without (by decide))
  have hexh : (noteErr true (.exhausted k off key 0) w).supers[k].ctrExh = hit 16 s.supers[k].ctrExh :=
    (congrArg SuperState.ctrExh (modSuper_at ..) :).trans (by rw [hw]; rfl)
  generalize noteErr true (.exhausted k off key 0) w = z at he hz hexh
  have hoz : ownerAt z k (off / 512 * 512) = some (p, m, a) := by
    rw [within_ownerAt hz (by decide) (by decide) (by decide), ho]
  have hrz : z.parts[p].recov = [] := (hz.part_recov p (by decide)).trans hv
  have hstop := stopped_of_within hz (by decide) (by decide)
    (stopPartition_stops (k := k) (st := stCounterExhausted) (d := 0) (d2 := BitVec.ofNat 56 a) (unit := 0) (sup := []) hrz)
  have hkept := within_ctrExh (stopPartition_within (k := k) (st := stCounterExhausted) (d := 0) (d2 := BitVec.ofNat 56 a)
    (unit := 0) (sup := []) hrz) k (by decide)
  have hend : ∀ x : State, Within [.out, .host, .hild, .evq, .mod] x (hildEnd who stCounterExhausted x) :=
    fun x => hildIntegrity_without (by decide)
  simp only [failSector, stopOwner_eq hoz] at he
  subst he
  refine ⟨rfl, stopped_emit _ (stopped_kept (hend _) (by decide) (by decide) hstop), ?_⟩
  rw [emit_supers, within_ctrExh (hend _) k (by decide), hkept, hexh]

/-- A partial write of a poisoned line answers POISON and stores nothing (R354). -/
theorem write_poisoned (hs : data.length < 128) (hc : tabGet 0 s.supers[k].ctr (off / 512) ≠ 0)
    (hx : tabGet 0 s.supers[k].ctr (off / 512) + 1 ≠ 2 ^ 56) (hp : s.supers[k].poison.contains (off / 128) = true)
    (hl : ∀ l ∈ sectorLines off, LineClean s.supers[k] k l) :
    serveWrite k off who data s = emit (.readReply who stPoison []) (crossLink k who 1 1 s) := by
  have hflits : linkFlits data.length = 1 := by
    unfold linkFlits ceilDiv
    omega
  obtain ⟨b, hb⟩ := crossLink_eq k who 1 1 s
  have hw := withLink_super k b s
  generalize withLink k b s = w at hb hw
  have hnw : NodesClean w.supers[k] off := by rw [hw]; exact hn
  have hsettle : settleSector k key off data (srcOfReq who) w = (w, .poison (off / 128)) := by
    rw [settleSector_merge hnw (by rw [hw]; exact hx) (by rw [hw]; exact hc)]
    exact mergeSector_poisoned hnw hf hs (fun l h => by rw [hw]; exact hl l h) (by rw [hw]; exact hp)
  rw [serveWrite_one ha hk hf h1 (by rw [hflits, hb]) hsettle, hb]
  rfl

/-- A tag that fails among the lines that a write reads answers INTEGRITY_FAIL and stops their owner (R354, R356). -/
theorem write_badTag (hc : tabGet 0 s.supers[k].ctr (off / 512) ≠ 0)
    (hx : tabGet 0 s.supers[k].ctr (off / 512) + 1 ≠ 2 ^ 56) (hu : ∀ l ∈ sectorLines off, Unmarked s.supers[k] k l)
    (hwho : ∀ j : Super, who ≠ .hild j)
    (hbad : ∃ l ∈ sectorLines off, (∀ x ∈ wholeLines off data.length, x ≠ l) ∧ lineCheck s k l = .badTag)
    {p : Part} (ho : ∀ l ∈ sectorLines off, ∃ m a, ownerAt s k (128 * l) = some (p, m, a)) (hv : s.parts[p].recov = [])
    {t : State} (he : serveWrite k off who data s = t) :
    t.out.head? = some (.readReply who stIntegrityFail []) ∧ Stopped p stIntegrityFail s t := by
  obtain ⟨b, hb⟩ := crossLink_eq k who (linkFlits data.length) 1 s
  have hw := withLink_super k b s
  have hq : Quiet k s (withLink k b s) := hb ▸ quiet_crossLink k who (linkFlits data.length) 1 s
  have hcheck := withLink_lineCheck k b s
  generalize withLink k b s = w at hb hw hq hcheck
  have hnw : NodesClean w.supers[k] off := by rw [hw]; exact hn
  obtain ⟨l, hl, kind, hmerge⟩ := mergeSector_badTag (src := srcOfReq who) hnw hf (by simpa only [hcheck] using hbad)
  have hsettle := (settleSector_merge (key := key) (data := data) (src := srcOfReq who) hnw
    (by rw [hw]; exact hx) (by rw [hw]; exact hc)).trans hmerge
  rw [serveWrite_one ha hk hf h1 hb hsettle] at he
  have hqy : Quiet k s (forEach (partLines off data.length ++ siblings off data.length) (noteLine k) w) :=
    hq.trans (quiet_noteLines fun x h => by rw [hw]; exact hu x (hf.read_mem h))
  generalize forEach (partLines off data.length ++ siblings off data.length) (noteLine k) w = y at he hqy
  have hz : Within [.superMem, .superTree, .superRegs, .partRegs] s (tagNote k l kind y) :=
    (hqy.within.mono (by decide)).trans (tagNote_without (by decide))
  have hrz : (tagNote k l kind y).parts[p].recov = [] :=
    ((tagNote_notes k l kind y).2 p).trans ((hqy.recov p).trans hv)
  generalize tagNote k l kind y = z at he hz hrz
  obtain ⟨m, a, hm⟩ := ho l hl
  have hoz : ownerAt z k (128 * l) = some (p, m, a) := by
    rw [within_ownerAt hz (by decide) (by decide) (by decide), hm]
  have hend : ∀ x, hildEnd who stIntegrityFail x = x := hildIntegrity_other hwho
  simp only [failSector, stopOwner_eq hoz, hend] at he
  subst he
  exact ⟨rfl, stopped_emit _ (stopped_of_within hz (by decide) (by decide) (stopPartition_stops hrz))⟩

end Write

/-! ### The nodes over a line -/

theorem nodeOf_line (i off : Nat) : nodeOf (i + 1) (off / 128 * 128) = nodeOf (i + 1) off := by
  have hp : 2 ^ (9 + 3 * (i + 1)) = 128 * 2 ^ (5 + 3 * i) := by
    rw [show 9 + 3 * (i + 1) = 7 + (5 + 3 * i) by omega, pow_add]
    rfl
  unfold nodeOf
  rw [hp, ← Nat.div_div_eq_div_mul, ← Nat.div_div_eq_div_mul, Nat.mul_div_cancel _ (by norm_num)]

theorem nodeBad_line (u : SuperState) (off : Nat) : nodeBad u (off / 128 * 128) = nodeBad u off := by
  simp only [nodeBad, nodeOf_line]

theorem missingNodes_line (u : SuperState) (off : Nat) : missingNodes u (off / 128 * 128) = missingNodes u off := by
  simp only [missingNodes, nodeOf_line]

theorem NodesClean.line {u : SuperState} {off : Nat} (h : NodesClean u off) : NodesClean u (off / 128 * 128) := by
  unfold NodesClean
  rw [nodeBad_line, missingNodes_line]
  exact h

/-! ### A request reaches its super -/

section Submit

variable {s : State} {k : Super} {r : MemReq}

theorem submit_refused {dbg : Bool} (h : accessOf s k r.off r.who = .refused dbg) : submit k r s = refuse k r.who dbg s := by
  simp only [submit, h]

variable (hg : ∀ dbg, accessOf s k r.off r.who ≠ .refused dbg)
include hg

/-- A request that is not refused goes nowhere over a closed route. -/
theorem submit_closed {j : Comb} (hw : r.who = .comb j) (hj : routeOpen s j k = false) : submit k r s = s := by
  unfold submit
  split
  · next dbg h => exact absurd h (hg dbg)
  · simp only [hw, hj, Bool.not_false, if_true]

variable (ho : ∀ j, r.who = .comb j → routeOpen s j k = true)
include ho

/-- Over an open route it is served, or waits. -/
theorem submit_open : submit k r s =
    if (superServes s.supers[k] r.off && s.supers[k].waiting[linkPort k r.who].isEmpty) = true then serveReq k r s
    else s.modSuper k fun u => { u with waiting := upd u.waiting (linkPort k r.who) (· ++ [r]) } := by
  obtain ⟨who, off, op, time⟩ := r
  unfold submit
  split
  · next dbg h => exact absurd h (hg dbg)
  · cases who with
    | comb j => simp only [ho j rfl, Bool.not_true, Bool.false_eq_true, if_false]
    | _ => simp only [Bool.false_eq_true, if_false]

theorem submit_served (hs : superServes s.supers[k] r.off = true) (he : s.supers[k].waiting[linkPort k r.who] = []) :
    submit k r s = serveReq k r s := by
  rw [submit_open hg ho, hs, he]
  rfl

theorem submit_waits (h : superServes s.supers[k] r.off = false ∨ s.supers[k].waiting[linkPort k r.who] ≠ []) :
    submit k r s = s.modSuper k fun u => { u with waiting := upd u.waiting (linkPort k r.who) (· ++ [r]) } := by
  rw [submit_open hg ho, if_neg]
  intro hb
  obtain ⟨hserve, hempty⟩ := Bool.and_eq_true_iff.1 hb
  rcases h with h | h
  · exact Bool.false_ne_true (h.symm.trans hserve)
  · exact h (List.isEmpty_iff.1 hempty)

end Submit

/-- The next requester of a super link is the first, from its turn on, whose oldest request can be served (R29). -/
theorem nextPort_first {u : SuperState} {i : Fin 6} {r : MemReq} {rest : List MemReq} (h : nextPort u = some (i, r, rest)) :
    ∃ n, n < 6 ∧ i = Fin.ofNat 6 (u.turn.val + n) ∧ u.waiting[i] = r :: rest ∧ superServes u r.off = true ∧
      ∀ m, m < n → ∀ q qs, u.waiting[Fin.ofNat 6 (u.turn.val + m)] = q :: qs → superServes u q.off = false := by
  unfold nextPort at h
  rw [List.findSome?_eq_some_iff] at h
  obtain ⟨before, j, after, hl, hj, hb⟩ := h
  have hlen : before.length < 6 := by
    have := congrArg List.length hl
    simp at this
    omega
  have hget : ∀ m (hm : m < 6), (before ++ j :: after)[m]'(by rw [← hl]; simpa using hm) = Fin.ofNat 6 (u.turn.val + m) := by
    intro m hm
    simp [← hl]
  have hport : j = Fin.ofNat 6 (u.turn.val + before.length) := by
    rw [← hget before.length hlen]
    simp
  split at hj
  · cases hj
  · next q qs hq =>
    split at hj
    · next hserve =>
      obtain ⟨rfl, rfl, rfl⟩ : j = i ∧ q = r ∧ qs = rest := by simpa using hj
      refine ⟨before.length, hlen, hport, hq, hserve, fun m hm q' qs' hw => ?_⟩
      have hmem : Fin.ofNat 6 (u.turn.val + m) ∈ before := by
        rw [← hget m (by omega), List.getElem_append_left hm]
        exact List.getElem_mem hm
      have hnone := hb _ hmem
      rw [hw] at hnone
      simpa using hnone
    · cases hj

/-! ### The three commands -/

section Commands

variable (s : State) (sup : BitVec 4) (addr : BitVec 36) (who : Requester) (f g h : Flips)

/-- What a write command asks of the super. -/
def putOp (data : Bytes) : MemOp := if data.length < 128 then .partial' data [] else .write data

theorem exec_partialWrite {data : Bytes} {between : List (BitVec 36 × Bytes)} (hf : Fits addr.toNat data)
    (hs : data.length < 128) : exec (.partialWrite sup addr who data between f g h) s =
    .next (request sup who (f ++ g ++ h) addr.toNat (.partial' data (between.map fun w => (w.1.toNat, w.2))) s) := by
  have hn := hf.1
  have hcase := hf.2
  rw [if_pos hs] at hcase
  show execPartialWrite sup addr who data between f g h s = _
  rw [execPartialWrite, if_neg (by rintro (e | e | e) <;> [exact hn e; omega; omega])]
  rfl

/-- A write command whose bytes fit asks its super; another does nothing. -/
theorem exec_put {data : Bytes} (hf : Fits addr.toNat data) :
    exec (if data.length < 128 then .partialWrite sup addr who data [] f g h
    else .memoryWrite sup addr who data f g h) s =
    .next (request sup who (f ++ g ++ h) addr.toNat (putOp data) s) := by
  unfold putOp
  split
  · next hs => exact exec_partialWrite s sup addr who f g h hf hs
  · next hs =>
    obtain ⟨hn, hcase⟩ := hf
    rw [if_neg hs] at hcase
    show execMemoryWrite sup addr who data f g h s = _
    rw [execMemoryWrite, if_pos ⟨hcase.1, hcase.2, hn⟩]
    rfl

theorem exec_put_unfit {data : Bytes} (hf : ¬ Fits addr.toNat data) :
    exec (if data.length < 128 then .partialWrite sup addr who data [] f g h
    else .memoryWrite sup addr who data f g h) s = .next s := by
  split
  · next hs =>
    show execPartialWrite sup addr who data [] f g h s = _
    rw [execPartialWrite, if_pos]
    · rfl
    · by_contra hc
      obtain ⟨hn, hc⟩ := not_or.1 hc
      exact hf ⟨hn, by rw [if_pos hs]; omega⟩
  · next hs =>
    show execMemoryWrite sup addr who data f g h s = _
    rw [execMemoryWrite, if_neg]
    · rfl
    · rintro ⟨ha, hl, hn⟩
      exact hf ⟨hn, by rw [if_neg hs]; exact ⟨ha, hl⟩⟩

theorem request_misrouted {fs : Flips} {off : Nat} {op : MemOp} (hb : sup.getLsbD 3 = true) :
    request sup who fs off op s = emit (.readReply who stAccessViolation []) s := by
  rw [request, if_pos hb]

theorem request_submits {fs : Flips} {off : Nat} {op : MemOp} (hb : sup.getLsbD 3 = false) : request sup who fs off op s =
    submit (devSuper sup) ⟨who, off, op, s.combs[devSuper sup].hum.time⟩ (applyFlips (devSuper sup) fs s) := by
  rw [request, if_neg (by rw [hb]; exact Bool.false_ne_true)]

theorem serveReq_put (k : Super) (off time : Nat) (data : Bytes) :
    serveReq k ⟨who, off, putOp data, time⟩ s = serveWrite k off who data s := by
  unfold putOp
  by_cases h : data.length < 128
  · rw [if_pos h]
    rfl
  · rw [if_neg h]
    rfl

end Commands

theorem not_refused {s : State} {k : Super} {off : Nat} {who : Requester} {a : Access} (h : accessOf s k off who = a)
    (hg : ∀ dbg, a ≠ .refused dbg) : ∀ dbg, accessOf s k off who ≠ .refused dbg := fun dbg e => hg dbg (h.symm.trans e)

/-- A partial write between whose read and write the Hild unit writes the sector starts again where the counter moved (R353). -/
theorem servePartial_between {s : State} {k : Super} {off : Nat} {who : Requester} {key : KeyId} {data bs : Bytes} {a : Nat}
    (ha : accessOf s k off who = .ok key) (hk : s.supers[k].slots[key].state = 1)
    (hr : readOutcome s k off = .zero ∨ ∃ e, readOutcome s k off = .good e) :
    let t := serveWrite k a (.hild k) bs (meetLine k off (srcOfReq who) s)
    servePartial k off who data [(a, bs)] s = serveWrite k off who data
      (if tabGet 0 t.supers[k].ctr (off / 512) = tabGet 0 s.supers[k].ctr (off / 512) then t
        else t.modSuper k fun u => { u with mergeRetry := hit 16 u.mergeRetry }) := by
  have hgo : ∀ t : State, (if tabGet 0 t.supers[k].ctr (off / 512) = tabGet 0 s.supers[k].ctr (off / 512) then
        servePartial k off who data [] t
      else servePartial k off who data [] (t.modSuper k fun u => { u with mergeRetry := hit 16 u.mergeRetry })) =
      serveWrite k off who data (if tabGet 0 t.supers[k].ctr (off / 512) = tabGet 0 s.supers[k].ctr (off / 512) then t
        else t.modSuper k fun u => { u with mergeRetry := hit 16 u.mergeRetry }) := fun t => by split <;> rfl
  rcases hr with hr | ⟨e, hr⟩
  · simp only [servePartial, ha, hk, hr, ne_eq, not_true_eq_false, if_false]
    exact hgo _
  · simp only [servePartial, ha, hk, hr, ne_eq, not_true_eq_false, if_false]
    exact hgo _

/-- Settles O60: a request is routed by `submit`, a served read ends as `readOutcome` says, and a served write of one sector as
`settleSector` says. -/
theorem memoryRequests : Obligations.MemoryRequests := by
  unfold Obligations.MemoryRequests
  intro s sup addr who f g h k off line sec v u c i open' read put op fits answers clean unmarked nodesClean waits
  have hlt : line < 2 ^ 36 := (Nat.div_mul_le_self off 128).trans_lt addr.isLt
  have hline : 128 * (line / 128) = line := by omega
  have hdiv : line / 512 = sec := by omega
  have hread : exec read s = .next (request sup who (f ++ g ++ h) line .read s) := rfl
  have hput : ∀ data, fits data → exec (put data) s = .next (request sup who (f ++ g ++ h) off (op data) s) :=
    fun data hf => exec_put s sup addr who f g h hf
  refine ⟨fun hb => ⟨?_, fun data hf => ?_⟩, fun data hf => exec_put_unfit s sup addr who f g h hf,
    fun i r rest hp => nextPort_first hp, fun hb => ?_⟩
  · rw [hread, request_misrouted s sup who hb]
  · rw [hput data hf, request_misrouted s sup who hb]
  replace hread : exec read s = .next (submit k ⟨who, line, .read, s.combs[k].hum.time⟩ v) :=
    hread.trans (congrArg _ (request_submits s sup who hb))
  replace hput : ∀ data, fits data → exec (put data) s = .next (submit k ⟨who, off, op data, s.combs[k].hum.time⟩ v) :=
    fun data hf => (hput data hf).trans (congrArg _ (request_submits s sup who hb))
  refine ⟨fun dbg ha => ?_, fun dbg data ha hf => ?_, fun hclosed hg => ?_, fun ho hw hg => ?_, fun ho hw hg data hf => ?_,
    fun ho hs he => ?_, fun ho hs he key data ha hf => ?_⟩
  · exact hread.trans (congrArg _ (submit_refused ha))
  · exact (hput data hf).trans (congrArg _ (submit_refused ha))
  · obtain ⟨j, hj⟩ := not_forall.1 hclosed
    obtain ⟨hwho, hshut⟩ := Classical.not_imp.1 hj
    exact hread.trans (congrArg _ (submit_closed hg hwho (Bool.eq_false_iff.2 hshut)))
  · exact hread.trans (congrArg _ (submit_waits hg ho hw))
  · exact (hput data hf).trans (congrArg _ (submit_waits hg ho hw))
  · have hserve : (∀ dbg, accessOf v k line who ≠ .refused dbg) → exec read s = .next (serveRead k line who v) :=
      fun hg => hread.trans (congrArg _ (submit_served hg ho hs he))
    refine ⟨fun ha => ?_, fun key ha hk => ?_, fun key ha hk => ⟨fun hn ht => ⟨fun hc => ?_, fun hc hp => ?_, fun hc hp =>
      ⟨fun hl => ?_, fun d hd hl hcor hm htag => ?_, fun hd => ?_, fun hr hm hwho p m a ho' hv => ?_⟩⟩, fun hb => ?_,
      fun n p m a hb hh hbad hreg hwho ho' hv => ?_⟩⟩
    · refine (hserve (not_refused ha nofun)).trans ?_
      simp only [serveRead, ha]
    all_goals refine ⟨_, hserve (not_refused ha nofun), ?_⟩
    · obtain ⟨h1, h2, -, h4⟩ := refuseKey_notes (serveRead_retired ha hk).symm
      exact ⟨h1, h2, h4⟩
    · exact read_zero ha hk (NodesClean.line hn) ht (by rw [hdiv]; exact hc) rfl
    · exact read_poisoned ha hk (NodesClean.line hn) ht (by rw [hdiv]; exact hc) hp rfl
    · have := read_clean ha hk (NodesClean.line hn) ht (by rw [hdiv]; exact hc) hp hl rfl
      rwa [hline] at this
    · have := read_corrected ha hk (NodesClean.line hn) ht (by rw [hdiv]; exact hc) hp hd hl hcor hm (by rwa [hline]) rfl
      rwa [hline] at this
    · exact read_lost ha hk (NodesClean.line hn) ht (by rw [hdiv]; exact hc) hp hd rfl
    · exact read_badTag ha hk (NodesClean.line hn) ht hr hm hwho ho' hv rfl
    · exact read_deadNode ha hk hb rfl
    · exact read_badNode ha hk hb hh hbad hreg hlt hwho ho' hv rfl
  · have hg : ∀ dbg, accessOf v k off who ≠ .refused dbg := not_refused ha nofun
    have hserve : exec (put data) s = .next (serveWrite k off who data v) :=
      (hput data hf).trans (congrArg _ ((submit_served hg ho hs he).trans (serveReq_put ..)))
    refine ⟨hserve, fun hk => ?_, fun hk hn h1 => ⟨fun hc ht hl => ?_, fun hc p m a ho' hv => ?_, fun hs hc hx hp hl => ?_,
      fun hc hx hm hwho hbad p ho' hv => ?_⟩, fun hk hlen hr a bs => ?_⟩
    · refine ⟨_, hserve, ?_⟩
      obtain ⟨h1, h2, h3, h4⟩ := refuseKey_notes (serveWrite_retired ha hk).symm
      exact ⟨h1, h2, h3, h4⟩
    · exact ⟨_, hserve, write_stored ha hk hf h1 hn hc ht hl rfl⟩
    · exact ⟨_, hserve, write_exhausted ha hk hf h1 hn hc ho' hv rfl⟩
    · exact hserve.trans (congrArg _ (write_poisoned ha hk hf h1 hn hs hc hx hp hl))
    · exact ⟨_, hserve, write_badTag ha hk hf h1 hn hc hx hm hwho hbad ho' hv rfl⟩
    · exact (exec_partialWrite s sup addr who f g h hf hlen).trans (congrArg _ ((request_submits s sup who hb).trans
        ((submit_served hg ho hs he).trans (servePartial_between ha hk hr))))

end Sys2Proof.MemoryProofs
end

section
/-! What events of a comb leave behind: single combs changed in turn, and what a job fault does to the partition, the hum and
the ports (R73, R405–R407, R498). -/

namespace Sys2Proof.JobFaultProofs

open Sys2Proof Sys2Proof.Machine Sys2Proof.MemoryProofs

/-! ### Single combs changed in turn -/

theorem modHum_hum (s : State) (j k : Comb) (f : Hum → Hum) :
    (s.modHum j f).combs[k].hum = if j = k then f s.combs[k].hum else s.combs[k].hum := by
  simp only [State.modHum, Fin.getElem_fin, modComb_get]
  split <;> rfl

theorem modRouter_router (s : State) (j k : Comb) (f : Router → Router) :
    (s.modRouter j f).combs[k].router = if j = k then f s.combs[k].router else s.combs[k].router := by
  simp only [State.modRouter, Fin.getElem_fin, modComb_get]
  split <;> rfl

/-- A change of hums leaves the routers, and one of routers leaves the hums. -/
theorem modHum_router (s : State) (j k : Comb) (f : Hum → Hum) : (s.modHum j f).combs[k].router = s.combs[k].router :=
  Within.comb_router (m := [.hum]) (modHum_without _ _ _ _ (by decide)) k (by decide)

theorem modRouter_hum (s : State) (j k : Comb) (f : Router → Router) : (s.modRouter j f).combs[k].hum = s.combs[k].hum :=
  Within.comb_hum (m := [.router]) (modRouter_without _ _ _ _ (by decide)) k (by decide)

/-- Combs changed in turn, each by what it and the module registers hold, are each changed once. -/
theorem forEach_combs {m : ModuleRegs} {f : Comb → State → State} {g : Comb → CombState → CombState}
    (hf : ∀ a s, s.mod = m → f a s = s.modComb a (g a)) {l : List Comb} (hl : l.Nodup) {s : State} (hs : s.mod = m) (k : Comb) :
    (forEach l f s).combs[k] = if k ∈ l then g k s.combs[k] else s.combs[k] := by
  induction l generalizing s with
  | nil => simp [forEach]
  | cons a r ih =>
    obtain ⟨ha, hr⟩ := List.nodup_cons.1 hl
    have hstep : (forEach (a :: r) f s).combs[k] = (forEach r f (s.modComb a (g a))).combs[k] :=
      congrArg (fun t => (forEach r f t).combs[k]) (hf a s hs)
    rw [hstep, ih hr (s := s.modComb a (g a)) hs]
    simp only [Fin.getElem_fin, modComb_get, List.mem_cons]
    by_cases hk : k = a
    · subst hk
      simp [ha]
    · simp [hk, Ne.symm hk]

theorem fins_nodup (n : Nat) : (fins n).Nodup := List.nodup_finRange n

theorem mem_fins {n : Nat} (i : Fin n) : i ∈ fins n := List.mem_finRange i

theorem mem_combsOf {s : State} {p : Part} {k : Comb} : k ∈ combsOf s p ↔ inPart s p k = true := by
  simp [combsOf, mem_fins]

theorem combsOf_nodup (s : State) (p : Part) : (combsOf s p).Nodup := (fins_nodup 8).filter _

theorem inPart_of_partOf {s : State} {p : Part} {k : Comb} (h : partOf s k = some p) : inPart s p k = true := by
  unfold partOf at h
  split at h
  · next hl =>
    obtain rfl := Option.some.inj h
    simpa [inPart, and_comm] using hl
  · cases h

/-! ### What a frame says of one field -/

theorem within_part_nextTt {m : List Piece} {s t : State} (w : Within m s t) (p : Part) (h : m.contains .partRegs = false) :
    t.parts[p].nextTt = s.parts[p].nextTt := by
  have := congrArg PartState.nextTt (w.part p)
  simpa only [PartState.without, h, Bool.false_eq_true, if_false] using this

theorem within_part_tt {m : List Piece} {s t : State} (w : Within m s t) (p : Part) (h : m.contains .partRegs = false) :
    t.parts[p].tt = s.parts[p].tt := by
  have := congrArg PartState.tt (w.part p)
  simpa only [PartState.without, h, Bool.false_eq_true, if_false] using this

theorem within_part_energy {m : List Piece} {s t : State} (w : Within m s t) (p : Part) (h : m.contains .partRegs = false) :
    t.parts[p].energy = s.parts[p].energy := by
  have := congrArg PartState.energy (w.part p)
  simpa only [PartState.without, h, Bool.false_eq_true, if_false] using this

/-! ### A partition that begins its recovery -/

/-- A hum whose beat counting has stopped (R73). -/
def quietHum (h : Hum) : Hum := { h with active := false, marker := none, due := false }

theorem clearActive_hum (p : Part) (s : State) (k : Comb) :
    (clearActive p s).combs[k].hum = if inPart s p k = true then quietHum s.combs[k].hum else s.combs[k].hum := by
  have hc : (clearActive p s).combs[k] = if k ∈ combsOf s p then { s.combs[k] with hum := quietHum s.combs[k].hum }
      else s.combs[k] :=
    forEach_combs (g := fun _ c => { c with hum := quietHum c.hum }) (fun _ _ _ => rfl) (combsOf_nodup s p) rfl k
  rw [hc]
  simp only [mem_combsOf]
  split <;> rfl

/-- Stopping a whole partition changes of the hums only that beat counting stops. -/
theorem stopWhole_hum (p : Part) (st : Byte) (d : Word) (d2 : BitVec 56) (dom : BitVec 4) (s : State) (k : Comb) :
    (stopWhole p st d d2 dom s).combs[k].hum = if inPart s p k = true then quietHum s.combs[k].hum else s.combs[k].hum := by
  unfold stopWhole
  dsimp only
  have hhalt : Within [.draws, .seq, .cellMem, .cellRun, .combMem, .ctx] s (forEach (combsOf s p) (fun k s => haltComb k s) s) :=
    forEach_without _ _ _ _ fun a t => haltComb_without (by decide)
  generalize forEach (combsOf s p) (fun k s => haltComb k s) s = t at hhalt
  have hrest : Within [.out, .host, .draws, .seq, .hild, .ctx, .rings, .superMem, .superTree, .evq, .partRegs, .mod] t
      (dropRestore p (orphanCkpt p st (stopRings p (fins 16) st d d2 dom (stopIssue (combsOf t p) t)))) :=
    (dropRestore_without (by decide)).trans <| (orphanCkpt_without (by decide)).trans <|
      (stopRings_without (by decide)).trans (stopIssue_without (by decide))
  generalize dropRestore p (orphanCkpt p st (stopRings p (fins 16) st d d2 dom (stopIssue (combsOf t p) t))) = u at hrest
  show (clearActive p u).combs[k].hum = _
  rw [clearActive_hum, within_inPart hrest (by decide) (by decide), within_inPart hhalt (by decide) (by decide),
    hrest.comb_hum k (by decide), hhalt.comb_hum k (by decide)]

theorem beginRecovery_hum (p : Part) (f : FaultInfo) (s : State) (k : Comb) :
    (beginRecovery p f s).combs[k].hum = if inPart s p k = true then quietHum s.combs[k].hum else s.combs[k].hum := by
  unfold beginRecovery
  dsimp only
  generalize (if f.received = true then evAbortReceived else evFault) = ev
  have he : Within [.out, .host, .evq, .mod] s (postEvent p ev f.status f.comb f.evDetail s) := postEvent_without (by decide)
  generalize postEvent p ev f.status f.comb f.evDetail s = t at he
  have ht : ∀ r u, Within [.rings, .partRegs] u (takeOver p r u) := fun r u => takeOver_without (by decide)
  rw [(ht _ _).comb_hum k (by decide), stopWhole_hum, within_inPart he (by decide) (by decide), he.comb_hum k (by decide)]

/-- A recovery that begins where none runs stops its partition. -/
theorem beginRecovery_stops {p : Part} {f : FaultInfo} {s : State} (h : s.parts[p].recov = []) :
    Stopped p f.status s (beginRecovery p f s) := by
  unfold beginRecovery
  dsimp only
  generalize (if f.received = true then evAbortReceived else evFault) = ev
  have he : Within [.out, .host, .evq, .mod] s (postEvent p ev f.status f.comb f.evDetail s) := postEvent_without (by decide)
  generalize postEvent p ev f.status f.comb f.evDetail s = t at he
  obtain ⟨hstop, hrecov, hhalt⟩ := stopWhole_halts p f.status f.detail f.detail2 (resetCode f.supers) t
  rw [he.part_recov p (by decide), h] at hrecov
  rw [takeOver_none hrecov]
  generalize stopWhole p f.status f.detail f.detail2 (resetCode f.supers) t = u at hstop hhalt
  refine ⟨by simpa using hstop, ⟨newRecovery (resetCode f.supers) 0 f t, by simp, rfl, rfl, rfl⟩, fun k hk => hhalt k ?_⟩
  rw [within_inPart he (by decide) (by decide), hk]

/-! ### Alarms leave the ports -/

theorem modRouter_ports {s : State} {a j : Comb} {f : Router → Router} (h : ∀ r, (f r).ports = r.ports) :
    (s.modRouter a f).combs[j].router.ports = s.combs[j].router.ports := by
  rw [modRouter_router]
  split
  · exact h _
  · rfl

theorem abortJob_ports (k : Comb) (i : JobIx) (rec : AlarmRec) (q : Option LPort) (s : State) (j : Comb) :
    (abortJob k i rec q s).combs[j].router.ports = s.combs[j].router.ports := modRouter_ports fun _ => rfl

theorem raiseAlarm_ports (p : Part) (k : Comb) (cause : Byte) (s : State) (j : Comb) :
    (raiseAlarm p k cause s).combs[j].router.ports = s.combs[j].router.ports := by
  have hspread : ∀ rec t, (spreadAlarm p k rec t).combs[j].router.ports = t.combs[j].router.ports := fun rec t =>
    forEach_keeps (fun t => t.combs[j].router.ports) _ _ _ fun a t => by
      split
      · rfl
      · split
        · rfl
        · rw [modRouter_ports (by exact fun _ => rfl), abortJob_ports]
  unfold raiseAlarm
  split
  · rfl
  · split
    · rfl
    · refine (hspread ..).trans ?_
      rw [modRouter_ports (by exact fun _ => rfl), abortJob_ports]

/-! ### A job fault (R405–R407, R498) -/

section JobFault

variable {p : Part} {k : Comb} {cause st : Byte} {d : Word} {d2 : BitVec 56} {s : State}

/-- Where the job is not aborted yet and no recovery runs, a job fault raises its alarm and begins one. -/
theorem jobFault_begins (hr : s.parts[p].recov = []) (ha : jobAborted s k = false) : ∃ f : FaultInfo, f.status = st ∧
    jobFault p k cause st d d2 s = beginRecovery p f (raiseAlarm p k cause s) := by
  have hw : Within [.router] s (raiseAlarm p k cause s) := raiseAlarm_without (by decide)
  have hr' : (raiseAlarm p k cause s).parts[p].recov = [] := (hw.part_recov p (by decide)).trans hr
  refine ⟨{ status := st, detail := d, detail2 := d2, alarm := cause, comb := k
            combs := combsOf (raiseAlarm p k cause s) p, origin := coordWord (raiseAlarm p k cause s) }, rfl, ?_⟩
  simp only [jobFault, ha, partitionFault, tearingDown, hr', List.any_nil, List.find?_nil, Bool.false_eq_true, if_false]

variable (hr : s.parts[p].recov = []) (ha : jobAborted s k = false)
include hr ha

theorem jobFault_stops : Stopped p st s (jobFault p k cause st d d2 s) := by
  obtain ⟨f, hst, he⟩ := jobFault_begins (cause := cause) (st := st) (d := d) (d2 := d2) hr ha
  have hw : Within [.router] s (raiseAlarm p k cause s) := raiseAlarm_without (by decide)
  rw [he, ← hst]
  exact stopped_of_within hw (by decide) (by decide) (beginRecovery_stops ((hw.part_recov p (by decide)).trans hr))

theorem jobFault_hum (j : Comb) : (jobFault p k cause st d d2 s).combs[j].hum =
    if inPart s p j = true then quietHum s.combs[j].hum else s.combs[j].hum := by
  obtain ⟨f, -, he⟩ := jobFault_begins (cause := cause) (st := st) (d := d) (d2 := d2) hr ha
  have hw : Within [.router] s (raiseAlarm p k cause s) := raiseAlarm_without (by decide)
  rw [he, beginRecovery_hum, within_inPart hw (by decide) (by decide), hw.comb_hum j (by decide)]

theorem jobFault_ports (j : Comb) : (jobFault p k cause st d d2 s).combs[j].router.ports = s.combs[j].router.ports := by
  obtain ⟨f, -, he⟩ := jobFault_begins (cause := cause) (st := st) (d := d) (d2 := d2) hr ha
  have hw : Within [.out, .host, .draws, .hum, .seq, .cellMem, .cellRun, .combMem, .superMem, .superTree, .hild, .ctx, .rings,
      .evq, .partRegs, .mod] (raiseAlarm p k cause s) (beginRecovery p f (raiseAlarm p k cause s)) :=
    beginRecovery_without (by decide)
  rw [he, hw.comb_router j (by decide), raiseAlarm_ports]

end JobFault

/-- Whether a job is aborted is read off the job entries. -/
theorem jobAborted_congr {s t : State} {k : Comb} (h : t.combs[k].router.jobs = s.combs[k].router.jobs) :
    jobAborted t k = jobAborted s k := by
  simp only [jobAborted, memberJob, h]

end Sys2Proof.JobFaultProofs
end

section
/-! The hum: HUM_CFG, exchanges with the parent, holdover, and slips that take a strand-port down (R50–R57, R378). -/

namespace Sys2Proof.HumProofs

open Sys2Proof Sys2Proof.Machine Sys2Proof.MemoryProofs Sys2Proof.JobFaultProofs

/-! ### HUM_CFG (R50) -/

/-- A hum after HUM_CFG: a root reads LOCKED at HUM_EPOCH, another module's is FREE. -/
def configuredHum (v : Word) (m : ModuleRegs) (h : Hum) : Hum :=
  if v.getLsbD 0 then { h with time := m.humEpoch.toNat * nsUnits, state := 2, offset := 0, slew := 0, carry := 0, okRun := 0, badRun := 0 }
  else { h with state := 0, okRun := 0, badRun := 0 }

/-- Setting the parents changes of each hum its parent only. -/
theorem setParents_hum (s : State) (k : Comb) :
    (setParents s).combs[k].hum = { s.combs[k].hum with parent := parentCode s } := by
  have hc := forEach_combs (m := s.mod) (f := fun k s' => s'.modHum k fun h => { h with parent := parentCode s })
    (g := fun _ c => { c with hum := { c.hum with parent := parentCode s } }) (fun _ _ _ => rfl)
    (fins_nodup 8) (s := s) rfl k
  exact (congrArg CombState.hum (hc.trans (if_pos (mem_fins k))))

/-- HUM_CFG written with no lease on the module configures every hum. -/
theorem exec_humCfgWrite {s : State} (hs : regsServed s = true) (v : Word) (hl : anyLease s = false) :
    exec (.humCfgWrite 0 v) s = .next (forEach (fins 8)
      (fun k s => s.modHum k (configuredHum v s.mod)) (setParents (s.modMod (humFields v)))) := by
  show execHumCfgWrite 0 v s = _
  unfold execHumCfgWrite
  rw [hs]
  simp only [done, doIf, effHumCfg, hl, if_true]
  rfl

/-- HUM_CFG written while a job holds a lease is refused and logged. -/
theorem exec_humCfgWrite_leased {s : State} (hs : regsServed s = true) (v : Word) (hl : anyLease s = true) :
    exec (.humCfgWrite 0 v) s = .next (logRefusal "HUM_CFG" s) := by
  show execHumCfgWrite 0 v s = _
  unfold execHumCfgWrite
  rw [hs]
  simp only [done, doIf, effHumCfg, hl, if_true]
  rfl

/-- What HUM_CFG leaves behind. -/
theorem humCfgWrite_configures {s : State} (hs : regsServed s = true) (v : Word) (hl : anyLease s = false) :
    Does (.humCfgWrite 0 v) s fun t => (∀ k : Comb, t.combs[k].hum.state = (if v.getLsbD 0 then 2 else 0) ∧
      t.combs[k].hum.time = (if v.getLsbD 0 then s.mod.humEpoch.toNat * nsUnits else s.combs[k].hum.time)) ∧
      t.mod = humFields v s.mod ∧ Within [.hum, .mod] s t := by
  refine ⟨_, exec_humCfgWrite hs v hl, fun k => ?_, ?_, ?_⟩
  · have hp : (setParents (s.modMod (humFields v))).mod = humFields v s.mod :=
      (Within.mod_eq (m := [.hum]) (setParents_without (by decide)) (by decide))
    have hc := forEach_combs (m := humFields v s.mod) (f := fun k s => s.modHum k (configuredHum v s.mod))
      (g := fun _ c => { c with hum := configuredHum v (humFields v s.mod) c.hum }) (fun a u hu => by simp only [hu]; rfl)
      (fins_nodup 8) hp k
    have hh := congrArg CombState.hum (hc.trans (if_pos (mem_fins k)))
    rw [hh, setParents_hum]
    unfold configuredHum
    constructor <;> split <;> rfl
  · have hw : Within [.hum] (s.modMod (humFields v)) _ :=
      (forEach_without [.hum] (fins 8) (fun k s => s.modHum k (configuredHum v s.mod)) (setParents (s.modMod (humFields v)))
        fun a t => modHum_without _ _ _ _ (by decide)).trans (setParents_without (by decide))
    exact hw.mod_eq (by decide)
  · exact (forEach_without _ _ _ _ fun a t => modHum_without _ _ _ _ (by decide)).trans <|
      (setParents_without (by decide)).trans (modMod_without _ _ _ (by decide))

/-! ### Exchanges with the parent (R52–R54) -/

/-- The times of a hum-sync record kept at its port. -/
def syncKept (k : Comb) (q : LPort) (x : HumSync) (s : State) : State :=
  s.modSPort k q fun y => { y with lastTx := x.tTx, lastRx := w64 (now16 s k) }

theorem syncKept_hum (k : Comb) (q : LPort) (x : HumSync) (s : State) (j : Comb) :
    (syncKept k q x s).combs[j].hum = s.combs[j].hum := modRouter_hum ..

/-- The slew lies within 200 ppm (R53). -/
theorem freeSlew_bounds (off : Int) (s : State) : -200 ≤ freeSlew off s ∧ freeSlew off s ≤ 200 := by
  unfold freeSlew
  generalize (drawNow 64 s).toNat = v
  dsimp only
  split
  · omega
  · split <;> omega

/-- A record from the parent with an echo gives its offset to the hum. -/
theorem exec_humSync_parent {s : State} {k : Comb} {q : LPort} {x : HumSync} (hup : portUp s k q = true)
    (hr : rootPort s = some q) (he : x.tEchoTx ≠ 0) : exec (.humSyncReceive k q x) s =
    .next ((drawn (syncKept k q x s)).modHum k fun h =>
      { humExchange (humOffset x.tTx.toNat (now16 s k) x.tEchoTx.toNat x.tEchoRx.toNat) h with
        slew := freeSlew (humOffset x.tTx.toNat (now16 s k) x.tEchoTx.toNat x.tEchoRx.toNat) (syncKept k q x s) }) := by
  have hc : rootPort (syncKept k q x s) = some q ∧ x.tEchoTx ≠ 0 := ⟨hr, he⟩
  show Host.Outcome.next (effHumSync k q x s) = _
  unfold effHumSync
  rw [hup]
  exact congrArg _ (if_pos hc)

/-- A record from another port only leaves its times. -/
theorem exec_humSync_other {s : State} {k : Comb} {q : LPort} {x : HumSync} (hup : portUp s k q = true)
    (hr : rootPort s ≠ some q) : exec (.humSyncReceive k q x) s = .next (syncKept k q x s) := by
  have hc : ¬ (rootPort (syncKept k q x s) = some q ∧ x.tEchoTx ≠ 0) := fun h => hr h.1
  show Host.Outcome.next (effHumSync k q x s) = _
  unfold effHumSync
  rw [hup]
  exact congrArg _ (if_neg hc)

/-- FREE steps to the parent's time and acquires. -/
theorem humExchange_free {h : Hum} (hs : h.state = 0) (off : Int) : humExchange off h =
    { h with offset := off, time := ((h.time : Int) - off * 5).toNat, state := 1, okRun := 0, badRun := 0 } := by
  simp [humExchange, hs]

/-- ACQUIRE counts exchanges inside ±5 ns. -/
theorem humExchange_acquire {h : Hum} (hs : h.state = 1) (off : Int) : humExchange off h =
    { h with offset := off, okRun := if -80 ≤ off ∧ off ≤ 80 then h.okRun + 1 else 0 } := by
  simp [humExchange, hs]

/-- LOCKED counts exchanges beyond ±20 ns. -/
theorem humExchange_locked {h : Hum} (hs : h.state = 2) (off : Int) : humExchange off h =
    { h with offset := off, badRun := if off < -320 ∨ 320 < off then h.badRun + 1 else 0 } := by
  simp [humExchange, hs]

/-- HOLDOVER is LOCKED again inside ±20 ns, and else acquires. -/
theorem humExchange_holdover {h : Hum} (hs : h.state = 3) (off : Int) : humExchange off h =
    if -320 ≤ off ∧ off ≤ 320 then { h with offset := off, state := 2, badRun := 0, okRun := 0 }
    else { h with offset := off, state := 1, okRun := 0 } := by
  simp [humExchange, hs]

/-- Every exchange keeps its offset, and only FREE moves its time. -/
theorem humExchange_offset (off : Int) (h : Hum) : (humExchange off h).offset = off := by
  unfold humExchange
  dsimp only
  split_ifs <;> rfl

theorem humExchange_time {h : Hum} (hs : h.state ≠ 0) (off : Int) : (humExchange off h).time = h.time := by
  unfold humExchange
  dsimp only
  rw [if_neg hs]
  split_ifs <;> rfl

/-! ### A hum loss (R57) -/

/-- The hum whose lock is lost. -/
def lostHum (h : Hum) : Hum := { h with state := 0, lockLost := hit 16 h.lockLost, okRun := 0, badRun := 0 }

theorem exec_holdoverExpire {s : State} {k : Comb} (h3 : s.combs[k].hum.state = 3) :
    exec (.holdoverExpire k) s = .next (humLoss k s) := congrArg Host.Outcome.next (if_pos h3)

theorem humLoss_unassigned {s : State} {k : Comb} (hp : partOf s k = none) : humLoss k s = s.modHum k lostHum := by
  have hw : Within [.hum] s (s.modHum k lostHum) := modHum_without _ _ _ _ (by decide)
  have hp' := (within_partOf hw (by decide) (by decide) k).trans hp
  unfold lostHum at hp' ⊢
  unfold humLoss
  dsimp only
  rw [hp']

theorem humLoss_member {s : State} {k : Comb} {p : Part} (hp : partOf s k = some p) :
    humLoss k s = fabricAbort p k 0x02 (s.modHum k lostHum) := by
  have hw : Within [.hum] s (s.modHum k lostHum) := modHum_without _ _ _ _ (by decide)
  have hp' := (within_partOf hw (by decide) (by decide) k).trans hp
  unfold lostHum at hp' ⊢
  unfold humLoss
  dsimp only
  rw [hp']

/-- A hum loss stops the partition of its comb. -/
theorem humLoss_stops {s : State} {k : Comb} {p : Part} (hp : partOf s k = some p) (hr : s.parts[p].recov = [])
    (ha : jobAborted s k = false) : Stopped p stFabricAbort s (humLoss k s) ∧
      (humLoss k s).combs[k].hum = quietHum (lostHum s.combs[k].hum) := by
  have hw : Within [.hum] s (s.modHum k lostHum) := modHum_without _ _ _ _ (by decide)
  have hr' : (s.modHum k lostHum).parts[p].recov = [] := (hw.part_recov p (by decide)).trans hr
  have ha' : jobAborted (s.modHum k lostHum) k = false :=
    (jobAborted_congr (congrArg Router.jobs (hw.comb_router k (by decide)))).trans ha
  rw [humLoss_member hp]
  refine ⟨stopped_of_within hw (by decide) (by decide) (jobFault_stops hr' ha'), ?_⟩
  refine (jobFault_hum hr' ha' k).trans ?_
  rw [within_inPart hw (by decide) (by decide), if_pos (inPart_of_partOf hp), modHum_hum, if_pos rfl]

/-! ### A strand-port that falls (R378) -/

/-- A strand-port after it has left UP, its partition's monitor counted and a LOCKED hum that loses its parent in HOLDOVER. -/
def portFallen (k : Comb) (q : LPort) (stuck : Bool) (s : State) : State :=
  humLosesParent k q (ewCount k 2 1 (s.modSPort k q fun y =>
    { y with state := downState s q stuck, stuck := stuck, fill := .replicate 2 2, uncorr := 0 }))

theorem portFallen_within (k : Comb) (q : LPort) (stuck : Bool) (s : State) :
    Within [.hum, .router, .partRegs] s (portFallen k q stuck s) :=
  (humLosesParent_without (by decide)).trans <| (ewCount_without (by decide)).trans (modSPort_without _ _ _ _ _ (by decide))

theorem portFallen_router (k : Comb) (q : LPort) (stuck : Bool) (s : State) : (portFallen k q stuck s).combs[k].router =
    { s.combs[k].router with ports := upd s.combs[k].router.ports q fun y =>
      { y with state := downState s q stuck, stuck := stuck, fill := .replicate 2 2, uncorr := 0 } } := by
  have hw : ∀ u, Within [.hum, .partRegs] u (humLosesParent k q (ewCount k 2 1 u)) := fun u =>
    (humLosesParent_without (by decide)).trans (ewCount_without (by decide))
  unfold portFallen
  rw [(hw _).comb_router k (by decide), State.modSPort, modRouter_router, if_pos rfl]

theorem humLosesParent_slip (k : Comb) (q : LPort) (s : State) :
    (humLosesParent k q s).combs[k].hum.slip = s.combs[k].hum.slip := by
  unfold humLosesParent
  split
  · rw [modHum_hum, if_pos rfl]
  · rfl

theorem ewCount_recov (k : Comb) (m : Fin 7) (n : Nat) (s : State) (p : Part) :
    (ewCount k m n s).parts[p].recov = s.parts[p].recov := by
  unfold ewCount
  split
  · rfl
  · simp only [Fin.getElem_fin, modPart_get]
    split <;> rfl

theorem portFallen_slip (k : Comb) (q : LPort) (stuck : Bool) (s : State) :
    (portFallen k q stuck s).combs[k].hum.slip = s.combs[k].hum.slip := by
  have hw : ∀ u, Within [.partRegs] u (ewCount k 2 1 u) := fun u => ewCount_without (by decide)
  unfold portFallen
  rw [humLosesParent_slip, (hw _).comb_hum k (by decide), State.modSPort, modRouter_hum]

theorem portFallen_recov (k : Comb) (q : LPort) (stuck : Bool) (s : State) (p : Part) :
    (portFallen k q stuck s).parts[p].recov = s.parts[p].recov := by
  have hw : ∀ u, Within [.hum] u (humLosesParent k q u) := fun u => humLosesParent_without (by decide)
  unfold portFallen
  rw [(hw _).part_recov p (by decide), ewCount_recov]
  rfl

theorem portFallen_jobsOnPort (k : Comb) (q : LPort) (stuck : Bool) (s : State) :
    jobsOnPort (portFallen k q stuck s).combs[k] q = jobsOnPort s.combs[k] q := by
  simp only [jobsOnPort, portFallen_router]

/-- An UP strand-port that serves no job falls, and no more. -/
theorem strandDown_idle {s : State} {k : Comb} {q : LPort} (hup : portUp s k q = true) (hj : jobsOnPort s.combs[k] q = [])
    (mask : BitVec 56) (stuck : Bool) : strandDown k q mask stuck s = portFallen k q stuck s := by
  have hj' : (jobsOnPort (portFallen k q stuck s).combs[k] q).isEmpty = true := by rw [portFallen_jobsOnPort, hj]; rfl
  unfold strandDown
  rw [hup]
  exact if_pos hj'

/-- LINK_DOWN of a port whose only job is a member's is a job fault. -/
theorem linkDown_member {s : State} {k : Comb} {q : LPort} {j : JobIx} {p : Part} (hj : jobsOnPort s.combs[k] q = [j])
    (h1 : s.combs[k].router.jobs[j].role = 1) (hp : partOf s k = some p) (mask : BitVec 56) :
    linkDown k q mask s = jobFault p k 0x03 stLinkDown (w32 q.val) mask s := by
  simp only [linkDown, hj, forEach, List.foldl_cons, List.foldl_nil, h1, hp, if_true]

/-- A fallen port whose LINK_DOWN is counted. -/
def linkDownCounted (k : Comb) (q : LPort) (stuck : Bool) (s : State) : State :=
  (portFallen k q stuck s).modRouter k fun r => { r with linkDown := hit 16 r.linkDown }

section LinkDownCounted

variable (k : Comb) (q : LPort) (stuck : Bool) (s : State)

theorem linkDownCounted_within : Within [.hum, .router, .partRegs] s (linkDownCounted k q stuck s) :=
  Within.trans (portFallen_within ..) (modRouter_without _ _ _ _ (by decide))

theorem linkDownCounted_jobs : (linkDownCounted k q stuck s).combs[k].router.jobs = s.combs[k].router.jobs := by
  rw [linkDownCounted, modRouter_router, if_pos rfl, portFallen_router]

theorem linkDownCounted_port : (linkDownCounted k q stuck s).combs[k].router.ports[q].state = downState s q stuck := by
  rw [linkDownCounted, modRouter_router, if_pos rfl, portFallen_router, upd_same]

theorem linkDownCounted_jobsOnPort : jobsOnPort (linkDownCounted k q stuck s).combs[k] q = jobsOnPort s.combs[k] q := by
  rw [← portFallen_jobsOnPort k q stuck s]
  simp only [jobsOnPort, linkDownCounted, modRouter_router, if_true]

theorem linkDownCounted_slip : (linkDownCounted k q stuck s).combs[k].hum.slip = s.combs[k].hum.slip := by
  rw [linkDownCounted, modRouter_hum, portFallen_slip]

theorem linkDownCounted_recov (p : Part) : (linkDownCounted k q stuck s).parts[p].recov = s.parts[p].recov :=
  portFallen_recov ..

end LinkDownCounted

/-- An UP strand-port that serves jobs raises LINK_DOWN for them. -/
theorem strandDown_jobs {s : State} {k : Comb} {q : LPort} (hup : portUp s k q = true) (hj : jobsOnPort s.combs[k] q ≠ [])
    (mask : BitVec 56) (stuck : Bool) : strandDown k q mask stuck s = linkDown k q mask (linkDownCounted k q stuck s) := by
  have hj' : ¬ (jobsOnPort (portFallen k q stuck s).combs[k] q).isEmpty = true := by
    rw [portFallen_jobsOnPort, List.isEmpty_iff]
    exact hj
  unfold strandDown
  rw [hup]
  exact if_neg hj'

/-- An UP strand-port whose only job is a member's takes the partition down with it. -/
theorem strandDown_member {s : State} {k : Comb} {q : LPort} {p : Part} {j : JobIx} {mask : BitVec 56} {stuck : Bool}
    (hup : portUp s k q = true) (hj : jobsOnPort s.combs[k] q = [j]) (h1 : s.combs[k].router.jobs[j].role = 1)
    (hp : partOf s k = some p) (hr : s.parts[p].recov = []) (ha : jobAborted s k = false) :
    Stopped p stLinkDown s (strandDown k q mask stuck s) ∧
      (strandDown k q mask stuck s).combs[k].router.ports[q].state = downState s q stuck ∧
      (strandDown k q mask stuck s).combs[k].hum.slip = s.combs[k].hum.slip := by
  have hw := linkDownCounted_within k q stuck s
  have hjobs := linkDownCounted_jobs k q stuck s
  have hr' := (linkDownCounted_recov k q stuck s p).trans hr
  have ha' := (jobAborted_congr hjobs).trans ha
  rw [strandDown_jobs hup (by rw [hj]; simp), linkDown_member
    ((linkDownCounted_jobsOnPort ..).trans hj) (by rw [hjobs]; exact h1) ((within_partOf hw (by decide) (by decide) k).trans hp)]
  refine ⟨stopped_of_within hw (by decide) (by decide) (jobFault_stops hr' ha'), ?_, ?_⟩
  · rw [jobFault_ports hr' ha', linkDownCounted_port]
  · rw [jobFault_hum hr' ha', ← linkDownCounted_slip k q stuck s]
    split <;> rfl

/-! ### Slips (R56) -/

/-- The elastic buffer of one direction filled anew. -/
def refilled (k : Comb) (q : LPort) (d : Fin 2) (n : Nat) (s : State) : State :=
  s.modSPort k q fun y => { y with fill := upd y.fill d fun _ => n }

/-- A slip recorded. -/
def slipped (k : Comb) (q : LPort) (d : Fin 2) (n : Nat) (s : State) : State :=
  (refilled k q d n s).modHum k fun h => { h with slip := hit 16 h.slip }

theorem refilled_ports (k : Comb) (q : LPort) (d : Fin 2) (n : Nat) (s : State) :
    (refilled k q d n s).combs[k].router.ports[q] =
      { s.combs[k].router.ports[q] with fill := upd s.combs[k].router.ports[q].fill d fun _ => n } := by
  unfold refilled State.modSPort
  rw [modRouter_router, if_pos rfl, upd_same]

theorem exec_elasticSlip_kept {s : State} {k : Comb} {q : LPort} (hup : portUp s k q = true) {d : Fin 2} {n : Fin 5}
    (h0 : n.val ≠ 0) (h4 : n.val ≠ 4) : exec (.elasticSlip k ⟨q, d, n⟩) s = .next (refilled k q d n.val s) := by
  show execElasticSlip k ⟨q, d, n⟩ s = _
  unfold execElasticSlip
  rw [hup]
  exact congrArg Host.Outcome.next (if_neg (not_or.2 ⟨h0, h4⟩))

theorem exec_elasticSlip_slips {s : State} {k : Comb} {q : LPort} (hup : portUp s k q = true) {d : Fin 2} {n : Fin 5}
    (h : n.val = 0 ∨ n.val = 4) :
    exec (.elasticSlip k ⟨q, d, n⟩) s = .next (strandDown k q 0 false (slipped k q d n.val s)) := by
  show execElasticSlip k ⟨q, d, n⟩ s = _
  unfold execElasticSlip
  rw [hup]
  exact congrArg Host.Outcome.next (if_pos h)

section Slipped

variable (k : Comb) (q : LPort) (d : Fin 2) (n : Nat) (s : State)

theorem slipped_within : Within [.hum, .router] s (slipped k q d n s) :=
  (modHum_without _ _ _ _ (by decide)).trans (modSPort_without _ _ _ _ _ (by decide))

theorem slipped_slip : (slipped k q d n s).combs[k].hum.slip = hit 16 s.combs[k].hum.slip := by
  unfold slipped refilled State.modSPort
  rw [modHum_hum, if_pos rfl, modRouter_hum]

theorem slipped_router : (slipped k q d n s).combs[k].router = (refilled k q d n s).combs[k].router := modHum_router ..

theorem slipped_jobs : (slipped k q d n s).combs[k].router.jobs = s.combs[k].router.jobs := by
  rw [slipped_router, refilled, State.modSPort, modRouter_router, if_pos rfl]

theorem slipped_jobsOnPort : jobsOnPort (slipped k q d n s).combs[k] q = jobsOnPort s.combs[k] q := by
  have hl : (slipped k q d n s).combs[k].router.lease = s.combs[k].router.lease := by
    rw [slipped_router, refilled, State.modSPort, modRouter_router, if_pos rfl]
  simp only [jobsOnPort, hl]

theorem slipped_portUp : portUp (slipped k q d n s) k q = portUp s k q := by
  simp only [portUp, slipped_router, refilled_ports]

end Slipped

/-- A slip at a port that serves no job records itself and lets the port train again. -/
theorem elasticSlip_idle {s : State} {k : Comb} {q : LPort} (hup : portUp s k q = true) {d : Fin 2} {n : Fin 5}
    (h : n.val = 0 ∨ n.val = 4) (hj : jobsOnPort s.combs[k] q = []) : Does (.elasticSlip k ⟨q, d, n⟩) s fun t =>
      t.combs[k].hum.slip = hit 16 s.combs[k].hum.slip ∧ t.combs[k].router.ports[q].state = downState s q false ∧
      t.combs[k].router.ports[q].fill = .replicate 2 2 ∧ Within [.hum, .router, .partRegs] s t := by
  have hidle := strandDown_idle ((slipped_portUp k q d n s).trans hup) ((slipped_jobsOnPort k q d n s).trans hj) 0 false
  refine ⟨_, (exec_elasticSlip_slips hup h).trans (congrArg _ hidle), ?_, ?_, ?_, ?_⟩
  · rw [portFallen_slip, slipped_slip]
  · rw [portFallen_router, upd_same]
    rfl
  · rw [portFallen_router, upd_same]
  · exact Within.trans ((slipped_within k q d n.val s).mono (by decide)) (portFallen_within ..)

/-- A slip at a port that serves a member's job stops the partition with LINK_DOWN. -/
theorem elasticSlip_member {s : State} {k : Comb} {q : LPort} {d : Fin 2} {n : Fin 5} {p : Part} {j : JobIx}
    (hup : portUp s k q = true) (h : n.val = 0 ∨ n.val = 4) (hj : jobsOnPort s.combs[k] q = [j])
    (h1 : s.combs[k].router.jobs[j].role = 1) (hp : partOf s k = some p) (hr : s.parts[p].recov = [])
    (ha : jobAborted s k = false) : Does (.elasticSlip k ⟨q, d, n⟩) s fun t => Stopped p stLinkDown s t ∧
      t.combs[k].router.ports[q].state = downState s q false ∧ t.combs[k].hum.slip = hit 16 s.combs[k].hum.slip := by
  have hw := slipped_within k q d n.val s
  have hjobs := slipped_jobs k q d n.val s
  obtain ⟨hstop, hstate, hslip⟩ := strandDown_member (mask := 0) ((slipped_portUp k q d n.val s).trans hup)
    ((slipped_jobsOnPort k q d n.val s).trans hj) (by rw [hjobs]; exact h1)
    ((within_partOf hw (by decide) (by decide) k).trans hp) ((hw.part_recov p (by decide)).trans hr)
    ((jobAborted_congr hjobs).trans ha)
  exact ⟨_, exec_elasticSlip_slips hup h, stopped_of_within hw (by decide) (by decide) hstop, hstate,
    hslip.trans (slipped_slip ..)⟩

/-- Settles O43: each event of the hum by its own rule. -/
theorem humFollowsItsParent : Obligations.HumFollowsItsParent := by
  refine fun s => ⟨fun v hs hl => ?_, fun v hs hl => ?_, fun k q x hup hr he => ?_, fun k q x hup hr => ?_, fun k => rfl,
    fun k => rfl, fun k p h3 hp hr ha => ?_, fun k h3 hp => ?_, fun k q d n hup h0 h4 => ?_,
    fun k q d n hup h hj => elasticSlip_idle hup h hj,
    fun k q d n p j hup h hj h1 hp hr ha => elasticSlip_member hup h hj h1 hp hr ha⟩
  · obtain ⟨t, ht, hhum, hmod, hw⟩ := humCfgWrite_configures hs v hl
    exact ⟨t, ht, hhum, by rw [hmod]; rfl, by rw [hmod]; rfl, by rw [hmod]; rfl, by rw [hmod]; rfl, hw⟩
  · exact ⟨_, exec_humCfgWrite_leased hs v hl, logRefusal_without (by decide)⟩
  · intro off h
    refine ⟨_, exec_humSync_parent hup hr he, ?_⟩
    generalize hsl : freeSlew _ (syncKept k q x s) = sl
    have hb : -200 ≤ sl ∧ sl ≤ 200 := by rw [← hsl]; exact freeSlew_bounds ..
    generalize ht : State.modHum _ k _ = t
    have hh : t.combs[k].hum = { humExchange off h with slew := sl } := by
      rw [← ht, modHum_hum, if_pos rfl]
      exact congrArg (fun h => ({ humExchange off h with slew := sl } : Hum)) (syncKept_hum k q x s k)
    have hw : Within [.draws, .hum, .router] s t := by
      rw [← ht]
      exact (modHum_without _ _ _ _ (by decide)).trans <|
        (drawn_without _ _ (by decide)).trans (modSPort_without _ _ _ _ _ (by decide))
    rw [hh]
    refine ⟨humExchange_offset off h, hb, fun h0 => ?_, fun h0 => humExchange_time h0 off, fun h1 => ?_, fun h2 => ?_,
      fun h3 => ?_, hw⟩
    · rw [humExchange_free h0]
      exact ⟨rfl, rfl⟩
    · rw [humExchange_acquire h1]
      exact ⟨h1, rfl⟩
    · rw [humExchange_locked h2]
      exact ⟨h2, rfl⟩
    · rw [humExchange_holdover h3]
      split <;> rfl
  · refine ⟨_, exec_humSync_other hup hr, ?_, ?_, modSPort_without _ _ _ _ _ (by decide)⟩ <;>
      simp only [syncKept, State.modSPort, modRouter_router, if_true, upd_same]
  · obtain ⟨hstop, hh⟩ := humLoss_stops hp hr ha
    exact ⟨_, exec_holdoverExpire h3, hstop, by rw [hh]; rfl, by rw [hh]; rfl⟩
  · refine ⟨_, (exec_holdoverExpire h3).trans (congrArg _ (humLoss_unassigned hp)), ?_, ?_, modHum_without _ _ _ _ (by decide)⟩ <;>
      rw [modHum_hum, if_pos rfl] <;> rfl
  · refine ⟨_, exec_elasticSlip_kept hup h0 h4, ?_, modRouter_hum .., ?_, modSPort_without _ _ _ _ _ (by decide)⟩
    · rw [refilled_ports, upd_same]
    · simpa only [portUp, refilled_ports] using hup

end Sys2Proof.HumProofs
end

section
/-! FABRIC and TIMETABLE: flits that join a flow's queue, and the image that is judged (R67, R68, R399, R402). -/

namespace Sys2Proof.TimetableProofs

open Sys2Proof Sys2Proof.Machine Sys2Proof.MemoryProofs Sys2Proof.JobFaultProofs

/-! ### One descriptor decided or at work (R99, R101) -/

section Descriptor

variable {s : State} {p : Part} {r : Ring} {d : Desc}

/-- A started descriptor stands in its ring. -/
theorem startedDesc_mem {op : Nat} (h : startedDesc s p r op = some d) :
    d ∈ s.parts[p].rings[r].descs ∧ d.stage = .started := by
  have hs := List.find?_some h
  simp only [Bool.and_eq_true, decide_eq_true_eq] at hs
  exact ⟨List.mem_of_find?_eq_some h, hs.1⟩

theorem modDesc_mem (hd : d ∈ s.parts[p].rings[r].descs) (f : Desc → Desc) :
    f d ∈ (s.modDesc p r d.idx f).parts[p].rings[r].descs := by
  have hr : (s.modDesc p r d.idx f).parts[p].rings[r] = (s.parts[p].rings[r]).modDesc d.idx f := by
    simp only [State.modDesc, Fin.getElem_fin, modRing_same]
    exact upd_same_nat ..
  rw [hr]
  exact List.mem_map.2 ⟨d, hd, if_pos rfl⟩

/-- A descriptor that is not decided yet takes the status it finishes with. -/
theorem finish_ends (hd : d ∈ s.parts[p].rings[r].descs) (hs : d.stage ≠ .done) (st : Byte) (x : Word) (y : BitVec 56)
    (k : Comb) : Ended (finish p r d.idx st x y k s) p r d st x y := by
  refine ⟨_, modDesc_mem hd fun d => d.decide' st x y k, ?_⟩
  simp [Desc.decide', hs]

theorem activate_active (hd : d ∈ s.parts[p].rings[r].descs) :
    ∃ e ∈ (activate p r d.idx id s).parts[p].rings[r].descs, e.idx = d.idx ∧ e.stage = .active :=
  ⟨_, modDesc_mem hd fun e => { e with stage := .active }, rfl, rfl⟩

end Descriptor

/-! ### FABRIC (R399, R402) -/

/-- A COMBS mask of one comb names no other. -/
theorem otherCombs_pow (k : Nat) : 2 ^ k - 2 ^ k % 2 ^ (k + 1) + 2 ^ k % 2 ^ k = 0 := by
  rw [Nat.mod_self, Nat.mod_eq_of_lt (Nat.pow_lt_pow_right (by omega) (Nat.lt_succ_self k)), Nat.sub_self]

section Fabric

variable {s u : State} {p : Part} {r : Ring} {d : Desc} {k : Comb} {fl : Flow} {data : Bytes}
  (hd : startedDesc s p r opFabric = some d) (hf : descFlow s p (d.field 16 2) = some (k, fl)) (hk : d.combMask = 2 ^ k.val)
include hd hf hk

theorem exec_fabric_begun (hb : beatBegun s k (d.field 40 6) = true) :
    exec (.fabric p r) s = .next (finish p r d.idx stTimetableReject 8 0 (serving s p r) s) := by
  show Host.Outcome.next (effFabric p r s) = _
  unfold effFabric
  simp only [hd, hf, hk, otherCombs_pow, hb, ne_eq, not_true_eq_false, if_true, if_false]
  rfl

theorem exec_fabric_queued (hb : beatBegun s k (d.field 40 6) = false)
    (hs : ppaServes s (serving s p r) p (d.field 24 8) (fabricBytes d fl) = true)
    (hr : ppaFetch p (d.field 24 8) (fabricBytes d fl) s = (u, data, none)) : exec (.fabric p r) s =
      .next (queueFlits k (d.field 16 2) (descFlits d ⟨p, r, d.idx⟩ fl data) (activate p r d.idx id u)) := by
  show Host.Outcome.next (effFabric p r s) = _
  unfold effFabric
  simp only [hd, hf, hk, otherCombs_pow, hb, hs, hr, ne_eq, not_true_eq_false, Bool.not_true, Bool.false_eq_true, if_false]

end Fabric

/-! ### TIMETABLE (R67, R68) -/

/-- One comb takes an admitted timetable: HUM_BEAT_CFG, and before a first grid its flows and its verdict count. -/
def admitComb (p : Part) (t : Timetable) (first : Bool) (k : Comb) (s : State) : State :=
  let s := s.modHum k fun h => { h with cfgFrames := BitVec.ofNat 12 (t.beatFrames - 1), origin := t.origin, due := true }
  if !first then s else
  let fl := flowsOfComb s p k t
  let s := s.modRouter k fun r => { r with flows := fl }
  match memberJob s k with
  | some j => s.modJob k j fun e => { e with epoch := 0 }
  | none => s

theorem admitTt_eq (p : Part) (t : Timetable) (s : State) :
    admitTt p t s = forEach (combsOf s p) (admitComb p t (!s.combs[p].hum.active))
      (s.modPart p fun q => { q with nextTt := some t, tt := if !s.combs[p].hum.active then none else q.tt, peak := 0 }) := by
  have hw : Within [.partRegs] s (s.modPart p fun q =>
      { q with nextTt := some t, tt := if !s.combs[p].hum.active then none else q.tt, peak := 0 }) :=
    modPart_without _ _ _ _ fun _ => rfl
  rw [← within_combsOf hw (by decide) (by decide)]
  rfl

theorem admitComb_hum (p : Part) (t : Timetable) (first : Bool) (j k : Comb) (s : State) :
    (admitComb p t first j s).combs[k].hum = if j = k then
      { s.combs[k].hum with cfgFrames := BitVec.ofNat 12 (t.beatFrames - 1), origin := t.origin, due := true }
      else s.combs[k].hum := by
  rw [← modHum_hum s j k fun h => { h with cfgFrames := BitVec.ofNat 12 (t.beatFrames - 1), origin := t.origin, due := true }]
  unfold admitComb
  dsimp only
  split
  · rfl
  · split <;> simp only [State.modJob, modRouter_hum]

theorem admitComb_within (p : Part) (t : Timetable) (first : Bool) (k : Comb) (s : State) :
    Within [.hum, .router] s (admitComb p t first k s) := by
  have hr : ∀ (f : Router → Router) (u : State), Within [.hum, .router] u (u.modRouter k f) := fun f u =>
    modRouter_without _ _ _ _ (by decide)
  have hh := modHum_without [.hum, .router] s k
    (fun h => { h with cfgFrames := BitVec.ofNat 12 (t.beatFrames - 1), origin := t.origin, due := true }) (by decide)
  unfold admitComb
  dsimp only
  split
  · exact hh
  · split
    · exact Within.trans hh (Within.trans (hr _ _) (hr _ _))
    · exact Within.trans hh (hr _ _)

/-- An admitted timetable is the partition's next, and HUM_BEAT_CFG of its combs has its origin and beat length. -/
theorem admitTt_admits (p : Part) (t : Timetable) (s : State) : (admitTt p t s).parts[p].nextTt = some t ∧
    (∀ k ∈ combsOf s p, (admitTt p t s).combs[k].hum.origin = t.origin ∧
      (admitTt p t s).combs[k].hum.cfgFrames = BitVec.ofNat 12 (t.beatFrames - 1)) ∧
    Within [.hum, .router, .partRegs] s (admitTt p t s) ∧ (admitTt p t s).parts[p].rings = s.parts[p].rings := by
  rw [admitTt_eq]
  generalize (!s.combs[p].hum.active) = first
  generalize hu : s.modPart p _ = u
  have hnext : u.parts[p].nextTt = some t ∧ u.parts[p].rings = s.parts[p].rings := by
    rw [← hu]
    simp
  have hsu : Within [.partRegs] s u := by
    rw [← hu]
    exact modPart_without _ _ _ _ fun _ => rfl
  have hw : Within [.hum, .router] u (forEach (combsOf s p) (admitComb p t first) u) :=
    forEach_without _ _ _ _ fun a v => admitComb_within p t first a v
  refine ⟨(within_part_nextTt hw p (by decide)).trans hnext.1, fun k hk => ?_,
    Within.trans (hsu.mono (by decide)) (hw.mono (by decide)), (hw.part_rings p (by decide)).trans hnext.2⟩
  refine forEach_establishes (P := fun k v => v.combs[k].hum.origin = t.origin ∧
    v.combs[k].hum.cfgFrames = BitVec.ofNat 12 (t.beatFrames - 1)) (fun a v => ?_) (fun a b v h => ?_) hk u
  · rw [admitComb_hum, if_pos rfl]
    exact ⟨rfl, rfl⟩
  · rw [admitComb_hum]
    split
    · exact ⟨rfl, rfl⟩
    · exact h

/-- What a judged image leaves behind: an admitted timetable, or nothing. -/
def judged (p : Part) (img : Bytes) (s : State) : State :=
  if (judge s p img).1 = stOK then admitTt p (decodeTt img) s else s

/-- A TIMETABLE whose image has been read ends as the image is judged. -/
theorem exec_timetable_judged {s u : State} {p : Part} {r : Ring} {d : Desc} {img : Bytes}
    (hd : startedDesc s p r opTimetable = some d) (hs : ppaServes s (serving s p r) p (d.field 16 8) (d.field 24 4) = true)
    (hr : ppaFetch p (d.field 16 8) (d.field 24 4) s = (u, img, none)) : exec (.timetable p r) s =
      .next (finish p r d.idx (judge u p img).1 (w32 (judge u p img).2) 0 (serving (judged p img u) p r) (judged p img u)) := by
  show Host.Outcome.next (effTimetable p r s) = _
  unfold effTimetable
  simp only [hd, hs, hr, Bool.not_true, Bool.false_eq_true, if_false]
  rfl

/-- Settles O40: FABRIC by whether its beat has begun, TIMETABLE by what its image is judged to be. -/
theorem fabricAndTimetables : Obligations.FabricAndTimetables := by
  refine fun s p r d => ⟨fun k fl hd hf hk => ⟨fun hb => ?_, fun data u hb hs hr hu => ?_⟩, fun img u hd hs hr hu => ?_⟩
  · obtain ⟨hmem, hst⟩ := startedDesc_mem hd
    exact ⟨_, exec_fabric_begun hd hf hk hb, finish_ends hmem (by rw [hst]; decide) _ _ _ _, finish_without (by decide)⟩
  · have hact : Within [.rings] u (activate p r d.idx id u) := modDesc_without _ _ _ _ _ _ (by decide)
    have hq : ∀ i qs v, Within [.router] v (queueFlits k i qs v) := fun i qs v => modRouter_without _ _ _ _ (by decide)
    refine ⟨_, exec_fabric_queued hd hf hk hb hs hr, ?_, ?_, Within.trans (hact.mono (by decide)) ((hq _ _ _).mono (by decide))⟩
    · rw [queueFlits, modRouter_router, if_pos rfl, hact.comb_router k (by decide)]
    · rw [(hq _ _ _).part_rings p (by decide)]
      exact activate_active (startedDesc_mem hu).1
  · obtain ⟨hmem, hst⟩ := startedDesc_mem hu
    have hnd : d.stage ≠ .done := by rw [hst]; decide
    have hfin : ∀ st x y k v, Within [.rings] v (finish p r d.idx st x y k v) := fun st x y k v => finish_without (by decide)
    refine ⟨_, exec_timetable_judged hd hs hr, ?_⟩
    unfold judged
    by_cases hok : (judge u p img).1 = stOK
    · obtain ⟨hnext, hcfg, hw, hrings⟩ := admitTt_admits p (decodeTt img) u
      simp only [if_pos hok]
      refine ⟨finish_ends (by rw [hrings]; exact hmem) hnd _ _ _ _, (within_part_nextTt (hfin ..) p (by decide)).trans hnext,
        fun j hj => ?_, Within.trans (hw.mono (by decide)) ((hfin ..).mono (by decide))⟩
      rw [(hfin _ _ _ _ _).comb_hum j (by decide)]
      exact hcfg j hj
    · simp only [if_neg hok]
      exact ⟨finish_ends hmem hnd _ _ _ _, hfin ..⟩

end Sys2Proof.TimetableProofs
end

section
/-! The beat grid: sequencers that await beat 0, polls, and the start of a grid (R63, R69, R70, R91). -/

namespace Sys2Proof.GridProofs

open Sys2Proof Sys2Proof.Machine Sys2Proof.MemoryProofs Sys2Proof.JobFaultProofs

/-! ### A sequencer that awaits beat 0 issues nothing (R70) -/

theorem canIssue_awaitsBeat0 {s : State} {k : Comb} (h : awaitsBeat0 s k = true) : canIssue s k = false := by
  simp [canIssue, h]

section CannotIssue

variable {s : State} {k : Comb} (h : canIssue s k = false)
include h

theorem issueTo_stays (p : PredF) (b : Bool) (n : Int) (body : State → State) : issueTo k p b n body s = s :=
  if_pos (by simp [h])

theorem issueIf_stays (p : PredF) (b : Bool) (check : State → Block) (body : State → State) :
    issueIf k p b check body s = s := if_pos (by simp [h])

theorem issueNoPen_stays (p : PredF) (f : State → State) : issueNoPen k p f s = s := if_pos (by simp [h])

theorem effMove_stays (p : PredF) (b : SReg) (f : Fin 4) : effMove k p b f s = s := by
  have hw : wouldIssue s k p true = false := by simp [wouldIssue, h]
  unfold effMove
  split
  · rfl
  · simp only [hw, Bool.false_eq_true, if_false]
    exact issueIf_stays h ..

end CannotIssue

/-! ### Polls (R91) -/

/-- Whether a poll reads the words of a ring. -/
def pollable (s : State) (p : Part) (r : Ring) : Bool :=
  s.parts[p].rings[r].enable && (s.parts[p].rings[r].state == 1 || s.parts[p].rings[r].state == 2) && canRequest s (fnOf p)

/-- A poll of a partition's event ring leaves the module's own. -/
theorem pollEvents_part_within (p : Part) (s : State) : Within [.out, .host, .evq] s (pollEvents (fnOf p) s) := by
  have hput : ∀ x u, Within [.out, .host, .evq] u (hostPut (fnOf p) x u) := fun x u => hostPut_without (by decide)
  have hev : ∀ u : State, Within [.out, .host, .evq] u (u.modPart p fun q => { q with evq := { q.evq with polled := true } }) :=
    fun u => modPart_without _ _ _ _ fun _ => rfl
  have hf : partOfFn (fnOf p) = some p := by simp [partOfFn, fnOf]
  unfold pollEvents
  rw [hf]
  dsimp only
  split
  · exact Within.trans (hput _ _) (hev _)
  · rfl

/-- The reads of a ring's words go out, and it is polled. -/
def ringRead (p : Part) (r : Ring) (s : State) : State :=
  doIf (!s.parts[p].rings[r].polled) (fun s =>
    (hostPutAll (fnOf p) [.read s.parts[p].rings[r].dbAddr 8 (.word (.ring p r)),
      .read s.parts[p].rings[r].headAddr 8 (.word (.ring p r))] s).modRing p r fun g => { g with polled := true }) s

theorem pollRing_eq (p : Part) (r : Ring) (s : State) : pollRing p r s =
    if pollable s p r = true then (if r.val = 0 then pollEvents (fnOf p) (ringRead p r s) else ringRead p r s) else s := rfl

theorem ringRead_within (p : Part) (r : Ring) (s : State) : Within [.out, .host, .rings] s (ringRead p r s) :=
  doIf_without _ _ _ _ fun _ =>
    (modRing_without _ _ _ _ _ (by decide)).trans (hostPutAll_without (by decide))

theorem pollRing_within (p : Part) (r : Ring) (s : State) : Within [.out, .host, .rings, .evq] s (pollRing p r s) := by
  have hread := (ringRead_within p r s).mono (m := [.out, .host, .rings, .evq]) (by decide)
  rw [pollRing_eq]
  split
  · split
    · exact Within.trans hread ((pollEvents_part_within ..).mono (by decide))
    · exact hread
  · rfl

theorem ringRead_ring (p : Part) (r i : Ring) (s : State) : (ringRead p r s).parts[p].rings[i] =
    { s.parts[p].rings[i] with polled := s.parts[p].rings[i].polled || decide (r = i) } := by
  have hput : ∀ xs, (hostPutAll (fnOf p) xs s).parts[p].rings = s.parts[p].rings := fun xs =>
    Within.part_rings (m := [.out, .host]) (hostPutAll_without (by decide)) p (by decide)
  have hmod : ∀ u : State, (u.modRing p r fun g => { g with polled := true }).parts[p].rings =
      upd u.parts[p].rings r fun g => { g with polled := true } := fun u => by simp
  by_cases hp : s.parts[p].rings[r].polled = true
  · have hread : ringRead p r s = s := if_neg (by rw [hp]; decide)
    rw [hread]
    by_cases h : r = i
    · subst h
      simp only [decide_true, Bool.or_true]
      rw [← hp]
    · simp only [h, decide_false, Bool.or_false]
  · have hread : (ringRead p r s).parts[p].rings = upd s.parts[p].rings r fun g => { g with polled := true } :=
      (congrArg (fun u : State => u.parts[p].rings) (if_pos (by simpa using hp))).trans ((hmod _).trans (by rw [hput]))
    rw [hread]
    by_cases h : r = i
    · subst h
      simp only [upd_same, decide_true, Bool.or_true]
    · simp only [upd_other _ _ _ _ h, h, decide_false, Bool.or_false]

/-- A poll of a ring marks that ring polled, if it is to be read, and leaves the partition's others. -/
theorem pollRing_ring (p : Part) (r i : Ring) (s : State) : (pollRing p r s).parts[p].rings[i] =
    { s.parts[p].rings[i] with polled := s.parts[p].rings[i].polled || (decide (r = i) && pollable s p r) } := by
  have hev : ∀ u, (pollEvents (fnOf p) u).parts[p].rings = u.parts[p].rings := fun u =>
    (pollEvents_part_within p u).part_rings p (by decide)
  rw [pollRing_eq]
  by_cases h : pollable s p r = true
  · rw [if_pos h, h, Bool.and_true, ← ringRead_ring]
    by_cases h0 : r.val = 0
    · rw [if_pos h0, hev]
    · rw [if_neg h0]
  · rw [if_neg h, Bool.eq_false_iff.2 h, Bool.and_false, Bool.or_false]

theorem pollable_pollRing (p : Part) (r i : Ring) (s : State) : pollable (pollRing p r s) p i = pollable s p i := by
  have hc : canRequest (pollRing p r s) (fnOf p) = canRequest s (fnOf p) := by
    simp only [canRequest, (pollRing_within p r s).fns_eq (by decide)]
  simp only [pollable, pollRing_ring, hc]

/-- Polls of several rings: each that is to be read is polled, and a polled one stays so. -/
theorem pollRings_polled {p : Part} {i : Ring} {l : List Ring} {s : State}
    (h : s.parts[p].rings[i].polled = true ∨ (i ∈ l ∧ pollable s p i = true)) :
    (forEach l (fun r s => pollRing p r s) s).parts[p].rings[i].polled = true := by
  induction l generalizing s with
  | nil => simpa [forEach] using h
  | cons r l ih =>
    refine ih (s := pollRing p r s) ?_
    rw [pollRing_ring, pollable_pollRing]
    rcases h with h | ⟨hm, hp⟩
    · exact .inl (by simp only [h, Bool.true_or])
    · rcases List.mem_cons.1 hm with rfl | hm
      · exact .inl (by simp only [hp, decide_true, Bool.and_true, Bool.or_true])
      · exact .inr ⟨hm, hp⟩

theorem pollRings_pollable (p : Part) (i : Ring) (l : List Ring) (s : State) :
    pollable (forEach l (fun r s => pollRing p r s) s) p i = pollable s p i :=
  forEach_keeps (fun s => pollable s p i) _ _ _ fun r s => pollable_pollRing p r i s

theorem pollDue_within (k : Comb) (p : Part) (n : Nat) (s : State) : Within [.out, .host, .rings, .evq] s (pollDue k p n s) :=
  forEach_without _ _ _ _ fun r u => pollRing_within p r u

theorem within_serving {m : List Piece} {s t : State} (w : Within m s t) (h : m.contains .partMap = false) (p : Part) (r : Ring) :
    serving t p r = serving s p r := by
  simp only [serving, Machine.sizeOf, w.part_psize p h]

/-- Beat 0 is polled on every ring that the combs of a list serve. -/
theorem pollBeat0_polled {p : Part} {i : Ring} {l : List Comb} {s : State}
    (h : s.parts[p].rings[i].polled = true ∨ (serving s p i ∈ l ∧ pollable s p i = true)) :
    (forEach l (fun k s => pollDue k p 0 s) s).parts[p].rings[i].polled = true := by
  induction l generalizing s with
  | nil => simpa [forEach] using h
  | cons k l ih =>
    refine ih (s := pollDue k p 0 s) ?_
    rw [within_serving (pollDue_within k p 0 s) (by decide)]
    rcases h with h | ⟨hm, hp⟩
    · exact .inl (pollRings_polled (.inl h))
    · rcases List.mem_cons.1 hm with hk | hm
      · refine .inl (pollRings_polled (.inr ⟨?_, hp⟩))
        simp [ringsServed, mem_fins, hk]
      · exact .inr ⟨hm, (pollRings_pollable ..).trans hp⟩

/-! ### A grid starts (R63, R69) -/

/-- A comb that enters the grid of a timetable. -/
def gridComb (p : Part) (t : Timetable) (s : State) (k : Comb) (c : CombState) : CombState :=
  { c with hum := startGrid t (c.hum.time / frameUnits) c.hum
           router := { c.router with flows := carryFlows c.router.flows (flowsOfComb s p k t), txFlits := 0, rxFlits := 0 } }

/-- Two changes of a comb that agree on it are one. -/
theorem modComb_congr {s : State} {k : Comb} {f g : CombState → CombState} (h : f s.combs[k] = g s.combs[k]) :
    s.modComb k f = s.modComb k g := by
  have h' : f s.combs[k.val] = g s.combs[k.val] := h
  simp only [State.modComb, upd, Fin.getElem_fin, h']

theorem modComb_modComb (s : State) (k : Comb) (f g : CombState → CombState) :
    (s.modComb k f).modComb k g = s.modComb k fun c => g (f c) := by
  simp [State.modComb, upd]

/-- The flows of a comb are read off the timetable and the module's place. -/
theorem flowsOfComb_congr {s u : State} (h : u.mod = s.mod) (p : Part) (k : Comb) (t : Timetable) :
    flowsOfComb u p k t = flowsOfComb s p k t := by
  have hm : flowsOfComb u p k t = flowsOfComb { s with mod := u.mod } p k t := rfl
  rw [hm, h]

theorem enterGrid_eq (p : Part) (t : Timetable) (k : Comb) (s : State) : enterGrid p t k s = s.modComb k (gridComb p t s k) :=
  (modComb_modComb ..).trans (modComb_congr rfl)

/-- Combs that enter a grid in turn each enter it once. -/
theorem enterGrids_comb (p : Part) (t : Timetable) {l : List Comb} (hl : l.Nodup) (s : State) (k : Comb) :
    (forEach l (enterGrid p t) s).combs[k] = if k ∈ l then gridComb p t s k s.combs[k] else s.combs[k] :=
  forEach_combs (m := s.mod) (fun a u hu => by
    rw [enterGrid_eq]
    exact modComb_congr (by simp only [gridComb, flowsOfComb_congr hu])) hl rfl k

/-- Flows carried over keep the directions and numbers of the new grid. -/
theorem carryFlows_flows (old new : List FlowRt) :
    ((carryFlows old new).map fun f => (f.tx, f.index)) = new.map fun f => (f.tx, f.index) := by
  simp only [carryFlows, List.map_map]
  refine List.map_congr_left fun f _ => ?_
  dsimp only [Function.comp_apply]
  split <;> rfl

/-- The combs that stand at slot 0 of the origin frame. -/
def atOriginCombs (s : State) (p : Part) (t : Timetable) : List Comb := (combsOf s p).filter fun k => atOrigin s k t

/-- The state after they have entered the grid, the timetable taken once none is left to wait. -/
def gridEntered (p : Part) (t : Timetable) (s : State) : State :=
  let s := forEach (atOriginCombs s p t) (enterGrid p t) s
  if (combsOf s p).any fun k => s.combs[k].hum.due then s
  else s.modPart p fun q => { q with tt := some t, nextTt := none }

/-- A member comb whose job has its fabric key goes on. -/
theorem needKey_keyed {p : Part} {k : Comb} {s : State}
    (h : ∀ j, memberJob s k = some j → s.combs[k].router.jobs[j].keyed = true) : needKey p k s = s := by
  unfold needKey
  split
  · rfl
  · next j hj => exact if_pos (h j hj)

section Grid

variable {s : State} {p : Part} {t : Timetable}

theorem mem_atOriginCombs {k : Comb} : k ∈ atOriginCombs s p t ↔ k ∈ combsOf s p ∧ atOrigin s k t = true := by
  simp [atOriginCombs]

theorem entered_comb (k : Comb) : (forEach (atOriginCombs s p t) (enterGrid p t) s).combs[k] =
    if k ∈ atOriginCombs s p t then gridComb p t s k s.combs[k] else s.combs[k] :=
  enterGrids_comb p t ((combsOf_nodup s p).filter _) s k

theorem gridEntered_comb (k : Comb) : (gridEntered p t s).combs[k] =
    if k ∈ atOriginCombs s p t then gridComb p t s k s.combs[k] else s.combs[k] := by
  rw [← entered_comb]
  unfold gridEntered
  dsimp only
  split <;> rfl

theorem entered_within : Within [.hum, .router] s (forEach (atOriginCombs s p t) (enterGrid p t) s) :=
  forEach_without _ _ _ _ fun k u => enterGrid_without (by decide)

theorem gridEntered_within : Within [.hum, .router, .partRegs] s (gridEntered p t s) := by
  have hw := entered_within (s := s) (p := p) (t := t)
  have hp : ∀ u : State, Within [.hum, .router, .partRegs] u (u.modPart p fun q => { q with tt := some t, nextTt := none }) :=
    fun u => modPart_without _ _ _ _ fun _ => rfl
  unfold gridEntered
  dsimp only
  split
  · exact hw.mono (by decide)
  · exact Within.trans (hw.mono (by decide)) (hp _)

/-- A comb of the partition still waits exactly where it waited and stood elsewhere. -/
theorem entered_due : ((combsOf (forEach (atOriginCombs s p t) (enterGrid p t) s) p).any fun k =>
      (forEach (atOriginCombs s p t) (enterGrid p t) s).combs[k].hum.due) = true ↔
    ∃ k ∈ combsOf s p, s.combs[k].hum.due = true ∧ atOrigin s k t = false := by
  rw [within_combsOf entered_within (by decide) (by decide), List.any_eq_true]
  refine exists_congr fun k => and_congr_right fun hk => ?_
  rw [entered_comb]
  by_cases ho : atOrigin s k t = true
  · simp [mem_atOriginCombs, hk, ho, gridComb, startGrid]
  · simp [mem_atOriginCombs, ho]

/-- The timetable in force and the next one after the start. -/
theorem gridEntered_tt (hn : s.parts[p].nextTt = some t) :
    if ∃ k ∈ combsOf s p, s.combs[k].hum.due = true ∧ atOrigin s k t = false then
      (gridEntered p t s).parts[p].tt = s.parts[p].tt ∧ (gridEntered p t s).parts[p].nextTt = some t
    else (gridEntered p t s).parts[p].tt = some t ∧ (gridEntered p t s).parts[p].nextTt = none := by
  have hw := entered_within (s := s) (p := p) (t := t)
  unfold gridEntered
  dsimp only
  simp only [entered_due]
  split
  · exact ⟨within_part_tt hw p (by decide), (within_part_nextTt hw p (by decide)).trans hn⟩
  · simp

/-- The start of a grid on combs whose jobs have their keys: they enter it, and beat 0 of a first grid is polled. -/
theorem effGridStart_eq (hn : s.parts[p].nextTt = some t) (hs : s.parts[p].stopped = false)
    (hk : ∀ k ∈ combsOf s p, atOrigin s k t = true → ∀ j, memberJob s k = some j → s.combs[k].router.jobs[j].keyed = true) :
    effGridStart p s = forEach ((atOriginCombs s p t).filter fun k => !s.combs[k].hum.active) (fun k s => pollDue k p 0 s)
      (gridEntered p t s) := by
  have hkeys : forEach (atOriginCombs s p t) (needKey p) (gridEntered p t s) = gridEntered p t s := by
    refine forEach_fixed fun k hm => needKey_keyed ?_
    have hjobs : (gridEntered p t s).combs[k].router.jobs = s.combs[k].router.jobs := by
      rw [gridEntered_comb, if_pos hm]
      rfl
    have hmem : memberJob (gridEntered p t s) k = memberJob s k := by simp only [memberJob, hjobs]
    rw [hmem, hjobs]
    obtain ⟨hc, ho⟩ := mem_atOriginCombs.1 hm
    exact hk k hc ho
  refine Eq.trans ?_ (congrArg _ hkeys)
  unfold effGridStart
  rw [hn]
  dsimp only
  rw [if_neg (by rw [hs]; decide)]
  rfl

/-- A comb that stood at the origin has entered the grid. -/
theorem gridEntered_hum {k : Comb} (hk : k ∈ combsOf s p) (ho : atOrigin s k t = true) :
    (gridEntered p t s).combs[k].hum = startGrid t (frameOf s k) s.combs[k].hum := by
  rw [gridEntered_comb, if_pos (mem_atOriginCombs.2 ⟨hk, ho⟩)]
  rfl

theorem gridEntered_flows {k : Comb} (hk : k ∈ combsOf s p) (ho : atOrigin s k t = true) :
    ((gridEntered p t s).combs[k].router.flows.map fun f => (f.tx, f.index)) =
      (flowsOfComb s p k t).map fun f => (f.tx, f.index) := by
  rw [gridEntered_comb, if_pos (mem_atOriginCombs.2 ⟨hk, ho⟩)]
  exact carryFlows_flows ..

/-- A comb that stood elsewhere has not. -/
theorem gridEntered_elsewhere {k : Comb} (ho : atOrigin s k t = false) : (gridEntered p t s).combs[k] = s.combs[k] := by
  rw [gridEntered_comb, if_neg fun h => by simp [(mem_atOriginCombs.1 h).2] at ho]

/-- The words of a running ring of a comb that begins its first grid are to be read. -/
theorem gridEntered_pollable {r : Ring} (hc : canRequest s (fnOf p) = true) (he : s.parts[p].rings[r].enable = true)
    (h1 : s.parts[p].rings[r].state = 1) : pollable (gridEntered p t s) p r = true := by
  have hw := gridEntered_within (s := s) (p := p) (t := t)
  have hc' : canRequest (gridEntered p t s) (fnOf p) = true := by
    simp only [canRequest, hw.fns_eq (by decide)]
    exact hc
  simp only [pollable, hw.part_rings p (by decide), he, h1, hc', BEq.rfl, Bool.true_or, Bool.and_self]

/-- The start of a grid: the combs at the origin enter it, the timetable is taken with the last of them, beat 0 is polled. -/
theorem beatGridStart_starts (hn : s.parts[p].nextTt = some t) (hs : s.parts[p].stopped = false)
    (hk : ∀ k ∈ combsOf s p, atOrigin s k t = true → ∀ j, memberJob s k = some j → s.combs[k].router.jobs[j].keyed = true) :
    Does (.beatGridStart p) s fun u =>
      (if ∃ k ∈ combsOf s p, s.combs[k].hum.due = true ∧ atOrigin s k t = false then u.parts[p].tt = s.parts[p].tt ∧
          u.parts[p].nextTt = some t else u.parts[p].tt = some t ∧ u.parts[p].nextTt = none) ∧
      (∀ k ∈ combsOf s p, atOrigin s k t = true → u.combs[k].hum.active = true ∧ u.combs[k].hum.due = false ∧
        u.combs[k].hum.beatFrames = BitVec.ofNat 12 (t.beatFrames - 1) ∧
        u.combs[k].hum.beatStart = frameOf s k ∧ u.combs[k].hum.marker = none ∧
        u.combs[k].hum.beat = (if s.combs[k].hum.active then s.combs[k].hum.beat else 0) ∧
        ((u.combs[k].router.flows.map fun f => (f.tx, f.index)) = (flowsOfComb s p k t).map fun f => (f.tx, f.index)) ∧
        (s.combs[k].hum.active = false → canRequest s (fnOf p) = true → ∀ r : Ring, serving s p r = k →
          s.parts[p].rings[r].enable = true → s.parts[p].rings[r].state = 1 → u.parts[p].rings[r].polled = true)) ∧
      (∀ k ∈ combsOf s p, atOrigin s k t = false → u.combs[k].hum = s.combs[k].hum ∧ u.combs[k].router = s.combs[k].router) ∧
      Within [.out, .host, .hum, .router, .rings, .evq, .partRegs] s u := by
  refine ⟨_, congrArg Host.Outcome.next (effGridStart_eq hn hs hk), ?_⟩
  have hg := gridEntered_within (s := s) (p := p) (t := t)
  generalize hfirst : (atOriginCombs s p t).filter (fun k => !s.combs[k].hum.active) = first
  have hw : Within [.out, .host, .rings, .evq] (gridEntered p t s) (forEach first (fun k s => pollDue k p 0 s) (gridEntered p t s)) :=
    forEach_without _ _ _ _ fun k u => pollDue_within k p 0 u
  refine ⟨?_, fun k hc ho => ?_, fun k hc ho => ?_, Within.trans (hg.mono (by decide)) (hw.mono (by decide))⟩
  · rw [within_part_tt hw p (by decide), within_part_nextTt hw p (by decide)]
    exact gridEntered_tt hn
  · rw [hw.comb_hum k (by decide), hw.comb_router k (by decide), gridEntered_hum hc ho]
    refine ⟨rfl, rfl, rfl, rfl, rfl, rfl, gridEntered_flows hc ho, fun hact hreq r hr he h1 => ?_⟩
    refine pollBeat0_polled (.inr ⟨?_, gridEntered_pollable hreq he h1⟩)
    rw [within_serving hg (by decide), hr, ← hfirst]
    exact List.mem_filter.2 ⟨mem_atOriginCombs.2 ⟨hc, ho⟩, by rw [hact]; rfl⟩
  · rw [hw.comb_hum k (by decide), hw.comb_router k (by decide), gridEntered_elsewhere ho]
    exact ⟨rfl, rfl⟩

end Grid

end Sys2Proof.GridProofs
end

section
/-! Beat boundaries: flows that end their beat, the marker sampled, the beat number advanced, and overruns (R71–R74). -/

namespace Sys2Proof.BoundaryProofs

open Sys2Proof Sys2Proof.Machine Sys2Proof.MemoryProofs Sys2Proof.JobFaultProofs Sys2Proof.GridProofs

/-! ### Flows that end their beat (R402, R403) -/

/-- What the end of a beat leaves of a comb beside its hum: the job entries, and whether its sequencer runs. -/
def beatKept (c : CombState) : Vector JobEntry 12 × BitVec 2 × BitVec 4 := (c.router.jobs, c.seq.state, c.seq.stall)

section BeatKept

variable {s t : State} {j k : Comb}

theorem modComb_beatKept {f : CombState → CombState} (h : ∀ c, beatKept (f c) = beatKept c) :
    beatKept (s.modComb j f).combs[k] = beatKept s.combs[k] := by
  simp only [Fin.getElem_fin, modComb_get]
  split
  · exact h _
  · rfl

theorem within_beatKept {m : List Piece} (w : Within m s t) (hr : m.contains .router = false) (hs : m.contains .seq = false) :
    beatKept t.combs[k] = beatKept s.combs[k] := by
  simp only [beatKept, w.comb_router k hr, w.comb_seq k hs]

/-- What is done only where a condition fails leaves what it leaves where it is done. -/
theorem unless_beatKept {c : Prop} [Decidable c] {f : State → State}
    (hf : ∀ u, beatKept (f u).combs[k] = beatKept u.combs[k]) (u : State) :
    beatKept (if c then u else f u).combs[k] = beatKept u.combs[k] := by
  split
  · rfl
  · exact hf u

theorem semApply_beatKept (p : Part) (i : Nat) (add : Bool) (v : DWord) (s : State) :
    beatKept (semApply p i add v s).combs[k] = beatKept s.combs[k] :=
  forEach_keeps (fun s => beatKept s.combs[k]) _ _ _ fun _ _ => modComb_beatKept fun _ => rfl

theorem combWrite_beatKept (j : Comb) (a : Nat) (bs : Bytes) (s : State) :
    beatKept (combWrite j a bs s).combs[k] = beatKept s.combs[k] := modComb_beatKept fun _ => rfl

theorem markOverflow_beatKept (p : Part) (j : Comb) (drop : Bool) (qs : List QFlit) (s : State) :
    beatKept (markOverflow p j drop qs s).combs[k] = beatKept s.combs[k] :=
  within_beatKept (m := [.rings]) (markOverflow_without (by decide)) (by decide) (by decide)

theorem endTxFlow_beatKept (p : Part) (j : Comb) (fl : Flow) (f : FlowRt) (beat : BitVec 48) (s : State) :
    beatKept (endTxFlow p j fl f beat s).combs[k] = beatKept s.combs[k] := by
  have hsems : ∀ (l : List Nat) (u : State),
      beatKept (forEach l (fun i s => semApply p i true 1 s) u).combs[k] = beatKept u.combs[k] := fun l u =>
    forEach_keeps (fun s => beatKept s.combs[k]) _ _ _ fun i s => semApply_beatKept p i true 1 s
  unfold endTxFlow
  dsimp only
  refine (modComb_beatKept (by exact fun _ => rfl)).trans ?_
  refine (unless_beatKept (fun u => combWrite_beatKept j _ _ u) _).trans ?_
  refine (unless_beatKept (fun u => hsems _ u) _).trans ?_
  refine (modComb_beatKept (by exact fun _ => rfl)).trans ?_
  exact unless_beatKept (fun u => markOverflow_beatKept p j _ _ u) _

theorem endRxFlow_beatKept (j : Comb) (fl : Flow) (f : FlowRt) (beat : BitVec 48) (s : State) :
    beatKept (endRxFlow j fl f beat s).combs[k] = beatKept s.combs[k] := by
  unfold endRxFlow
  dsimp only
  refine (modComb_beatKept (by exact fun _ => rfl)).trans ?_
  exact unless_beatKept (fun u => combWrite_beatKept j _ _ u) _

theorem endFlows_beatKept (p : Part) (j : Comb) (beat : BitVec 48) (s : State) :
    beatKept (endFlows p j beat s).combs[k] = beatKept s.combs[k] :=
  forEach_keeps (fun s => beatKept s.combs[k]) _ _ _ fun f u => by
    split
    · rfl
    · split
      · exact modComb_beatKept fun _ => rfl
      · split
        · exact endTxFlow_beatKept ..
        · exact endRxFlow_beatKept ..

end BeatKept

theorem endFlows_within (p : Part) (k : Comb) (beat : BitVec 48) (s : State) :
    Within [.seq, .combMem, .router, .rings, .sems] s (endFlows p k beat s) := endFlows_without (by decide)

/-! ### The slack and the next beat (R71, R74, R547) -/

theorem recordSlack_hum (k : Comb) (x : Nat) (s : State) : (recordSlack k x s).combs[k].hum =
    { s.combs[k].hum with lastSlack := x, slackLow := if x * 64 < s.combs[k].hum.warn.toNat *
        (s.combs[k].hum.beatFrames.toNat + 1) * 512 then hit 16 s.combs[k].hum.slackLow else s.combs[k].hum.slackLow } := by
  have hew : ∀ u, (ewCount k 5 1 u).combs[k].hum = u.combs[k].hum := fun u =>
    Within.comb_hum (m := [.partRegs]) (ewCount_without (by decide)) k (by decide)
  unfold recordSlack slackIsLow
  dsimp only
  by_cases hlow : x * 64 < s.combs[k].hum.warn.toNat * (s.combs[k].hum.beatFrames.toNat + 1) * 512
  · simp only [hlow, decide_true, if_true, hew, modHum_hum]
  · simp only [hlow, decide_false, Bool.false_eq_true, if_false, if_true, modHum_hum]

theorem recordSlack_within (k : Comb) (x : Nat) (s : State) : Within [.hum, .partRegs] s (recordSlack k x s) :=
  recordSlack_without (by decide)

/-- A hum at the first slot of its next beat. -/
def nextBeat (h : Hum) : Hum := { h with beat := h.beat + 1, beatStart := h.beatStart + h.beatFrames.toNat + 1, marker := none }

/-- A beat ends on a comb: its number advances, BEAT_DONE goes on, the lowest comb reports the energy. -/
def beatEnded (k : Comb) (p : Part) (uj : Word) (s : State) : State :=
  if k = p then reportEnergy p uj (wakeBeat k (s.modHum k nextBeat)) else wakeBeat k (s.modHum k nextBeat)

section BeatEnded

variable (k : Comb) (p : Part) (uj : Word) (s : State)

theorem reportEnergy_within : Within [.out, .host, .evq, .partRegs, .mod] s (reportEnergy p uj s) :=
  reportEnergy_without (by decide)

theorem wakeBeat_within : Within [.seq] s (wakeBeat k s) := wakeBeat_without (by decide)

/-- Reporting the energy changes of its partition the energy and the peak, and the event ring. -/
theorem reportEnergy_part : (reportEnergy p uj s).parts[p].energy = uj ∧ ∀ q : Part,
    (reportEnergy p uj s).parts[q].recov = s.parts[q].recov := by
  have hpost : ∀ x y c d u, Within [.out, .host, .evq, .mod] u (postEvent p x y c d u) := fun x y c d u =>
    postEvent_without (by decide)
  have hrec : (recordEnergy p uj s).parts[p].energy = uj ∧ ∀ q : Part,
      (recordEnergy p uj s).parts[q].recov = s.parts[q].recov := by
    refine ⟨by simp [recordEnergy], fun q => ?_⟩
    simp only [recordEnergy, Fin.getElem_fin, modPart_get]
    split <;> rfl
  unfold reportEnergy
  dsimp only
  split
  · exact hrec
  · split
    · exact ⟨(within_part_energy (hpost ..) p (by decide)).trans hrec.1,
        fun q => ((hpost ..).part_recov q (by decide)).trans (hrec.2 q)⟩
    · exact hrec

theorem beatEnded_within : Within [.out, .host, .hum, .seq, .evq, .partRegs, .mod] s (beatEnded k p uj s) := by
  have hw : Within [.hum, .seq] s (wakeBeat k (s.modHum k nextBeat)) :=
    (wakeBeat_without (by decide)).trans (modHum_without _ _ _ _ (by decide))
  unfold beatEnded
  split
  · exact Within.trans (hw.mono (by decide)) ((reportEnergy_within ..).mono (by decide))
  · exact hw.mono (by decide)

theorem beatEnded_comb (j : Comb) : (beatEnded k p uj s).combs[j].hum = (s.modHum k nextBeat).combs[j].hum ∧
    (beatEnded k p uj s).combs[j].seq = (wakeBeat k (s.modHum k nextBeat)).combs[j].seq := by
  have hwake := (wakeBeat_within k (s.modHum k nextBeat)).comb_hum j (by decide)
  have hrep := reportEnergy_within p uj (wakeBeat k (s.modHum k nextBeat))
  unfold beatEnded
  split
  · exact ⟨(hrep.comb_hum j (by decide)).trans hwake, hrep.comb_seq j (by decide)⟩
  · exact ⟨hwake, rfl⟩

theorem beatEnded_hum (j : Comb) : (beatEnded k p uj s).combs[j].hum =
    if k = j then nextBeat s.combs[j].hum else s.combs[j].hum := by
  rw [(beatEnded_comb ..).1, modHum_hum]

/-- A sequencer that waits in BEAT_DONE goes on. -/
theorem beatEnded_wakes (h2 : s.combs[k].seq.state = 2) (h7 : s.combs[k].seq.stall = 7) :
    (beatEnded k p uj s).combs[k].seq.state = 1 ∧ (beatEnded k p uj s).combs[k].seq.stall = 0 := by
  have hs : (s.modHum k nextBeat).combs[k].seq = s.combs[k].seq :=
    Within.comb_seq (m := [.hum]) (modHum_without _ _ _ _ (by decide)) k (by decide)
  have hw : wakeBeat k (s.modHum k nextBeat) = (s.modHum k nextBeat).modSeq k fun q => { q with state := 1, stall := 0 } :=
    if_pos (by rw [hs]; exact ⟨h2, h7⟩)
  rw [(beatEnded_comb ..).2, hw]
  simp

theorem beatEnded_recov (q : Part) : (beatEnded k p uj s).parts[q].recov = s.parts[q].recov := by
  have hw : Within [.hum, .seq] s (wakeBeat k (s.modHum k nextBeat)) :=
    (wakeBeat_without (by decide)).trans (modHum_without _ _ _ _ (by decide))
  unfold beatEnded
  split
  · exact ((reportEnergy_part ..).2 q).trans (hw.part_recov q (by decide))
  · exact hw.part_recov q (by decide)

theorem beatEnded_energy (h : k = p) : (beatEnded k p uj s).parts[p].energy = uj := by
  unfold beatEnded
  rw [if_pos h]
  exact (reportEnergy_part ..).1

end BeatEnded

/-! ### Overruns (R71, R72) -/

/-- A hum that keeps its marker for a boundary at which another comb overruns. -/
def keptMarker (b : Nat) (h : Hum) : Hum := if h.active ∧ boundaryOf h = b then { h with missed := some (b, h.marker) } else h

theorem keepMarkers_hum (p : Part) (k : Comb) (b : Nat) (s : State) (j : Comb) : (keepMarkers p k b s).combs[j].hum =
    if inPart s p j = true ∧ j ≠ k then keptMarker b s.combs[j].hum else s.combs[j].hum := by
  have hc : (keepMarkers p k b s).combs[j] = if j ∈ (combsOf s p).filter fun j => decide (j ≠ k) then
      { s.combs[j] with hum := keptMarker b s.combs[j].hum } else s.combs[j] :=
    forEach_combs (g := fun _ c => { c with hum := keptMarker b c.hum }) (fun _ _ _ => rfl)
      ((combsOf_nodup s p).filter _) rfl j
  rw [hc]
  simp only [List.mem_filter, mem_combsOf, decide_eq_true_eq]
  split <;> rfl

/-- The hums of a partition at an overrun of comb k, before its recovery begins. -/
def overrunMarked (k : Comb) (p : Part) (b : Nat) (s : State) : State :=
  keepMarkers p k b (s.modHum k fun h => { h with overrun := hit 16 h.overrun })

theorem overrunMarked_within (k : Comb) (p : Part) (b : Nat) (s : State) : Within [.hum] s (overrunMarked k p b s) :=
  (keepMarkers_without (by decide)).trans (modHum_without _ _ _ _ (by decide))

theorem overrunMarked_hum (k : Comb) (p : Part) (b : Nat) (s : State) (j : Comb) : (overrunMarked k p b s).combs[j].hum =
    if k = j then { s.combs[j].hum with overrun := hit 16 s.combs[j].hum.overrun }
    else if inPart s p j = true then keptMarker b s.combs[j].hum else s.combs[j].hum := by
  have hw := modHum_without [.hum] s k (fun h => { h with overrun := hit 16 h.overrun }) (by decide)
  unfold overrunMarked
  rw [keepMarkers_hum, modHum_hum, within_inPart hw (by decide) (by decide)]
  by_cases h : k = j
  · simp [h]
  · simp [h, Ne.symm h]

/-- An overrun stops the partition, is counted at its comb, and leaves the other combs at that boundary their markers. -/
theorem overrun_stops {k : Comb} {p : Part} {s : State} (hr : s.parts[p].recov = []) (ha : jobAborted s k = false)
    (hk : inPart s p k = true) (beat : BitVec 48) (b : Nat) : Stopped p stBeatOverrun s (overrun k p beat b s) ∧
      (overrun k p beat b s).combs[k].hum.overrun = hit 16 s.combs[k].hum.overrun ∧
      (overrun k p beat b s).combs[k].hum.active = false ∧
      ∀ j : Comb, inPart s p j = true → j ≠ k → s.combs[j].hum.active = true → boundaryOf s.combs[j].hum = b →
        (overrun k p beat b s).combs[j].hum.missed = some (b, s.combs[j].hum.marker) := by
  have hw := overrunMarked_within k p b s
  have hr' := (hw.part_recov p (by decide)).trans hr
  have ha' := (jobAborted_congr (congrArg Router.jobs (hw.comb_router k (by decide)))).trans ha
  have hhum : ∀ j : Comb, inPart s p j = true →
      (overrun k p beat b s).combs[j].hum = quietHum (overrunMarked k p b s).combs[j].hum := fun j hj => by
    refine (jobFault_hum hr' ha' j).trans (if_pos ?_)
    rw [within_inPart hw (by decide) (by decide), hj]
  refine ⟨stopped_of_within hw (by decide) (by decide) (jobFault_stops hr' ha'), ?_, ?_, fun j hj hne hact hb => ?_⟩
  · rw [hhum k hk, overrunMarked_hum, if_pos rfl]
    rfl
  · rw [hhum k hk]
    rfl
  · rw [hhum j hj, overrunMarked_hum, if_neg (Ne.symm hne), if_pos hj, keptMarker, if_pos ⟨hact, hb⟩]
    rfl

/-- A marker kept for a boundary that is reached gives its slack. -/
theorem lateSample_slack {k : Comb} {s : State} {b : Nat} {m : Option Nat} (hm : s.combs[k].hum.missed = some (b, m))
    (ht : inFirstSlot s.combs[k].hum.time b = true) {x : Nat} (hx : slackAt m b = some x) :
    lateSample k s = recordSlack k x (s.modHum k fun h => { h with missed := none }) := by
  unfold lateSample
  simp only [hm, ht, hx, Bool.not_true, Bool.false_eq_true, if_false]

/-- An absent one is an overrun of its own. -/
theorem lateSample_overruns {k : Comb} {s : State} {b : Nat} {m : Option Nat} (hm : s.combs[k].hum.missed = some (b, m))
    (ht : inFirstSlot s.combs[k].hum.time b = true) (hx : slackAt m b = none) : lateSample k s =
      (s.modHum k fun h => { h with missed := none }).modHum k fun h => { h with overrun := hit 16 h.overrun } := by
  unfold lateSample
  simp only [hm, ht, hx, Bool.not_true, Bool.false_eq_true, if_false]

/-! ### The boundary (R71–R74) -/

section Boundary

variable {s : State} {k : Comb} {p : Part} (hp : partOf s k = some p)
include hp

theorem effBoundary_inTime (uj : Word) (hb : atBoundary s k = true) {x : Nat}
    (hx : slackAt s.combs[k].hum.marker (boundaryOf s.combs[k].hum) = some x) : effBoundary k uj s =
      pollDue k p (s.combs[k].hum.beat.toNat + 1) (beatEnded k p uj (recordSlack k x (endFlows p k s.combs[k].hum.beat s))) := by
  unfold effBoundary
  simp only [hp, hb, hx, Bool.not_true, Bool.false_eq_true, if_false, Option.isNone_some]
  rfl

theorem effBoundary_overrun (uj : Word) (hb : atBoundary s k = true)
    (hx : slackAt s.combs[k].hum.marker (boundaryOf s.combs[k].hum) = none) : effBoundary k uj s =
      pollDue k p (s.combs[k].hum.beat.toNat + 1) (overrun k p s.combs[k].hum.beat (boundaryOf s.combs[k].hum)
        (beatEnded k p uj (endFlows p k s.combs[k].hum.beat s))) := by
  unfold effBoundary
  simp only [hp, hb, hx, Bool.not_true, Bool.false_eq_true, if_false, Option.isNone_none, if_true]
  rfl

theorem effBoundary_elsewhere (uj : Word) (hb : atBoundary s k = false) : effBoundary k uj s = lateSample k s := by
  unfold effBoundary
  simp only [hp, hb, Bool.not_false, if_true]

/-- At a boundary with a marker before it the slack is recorded and the next beat begins. -/
theorem beatBoundary_inTime (uj : Word) (hb : atBoundary s k = true) {x : Nat}
    (hx : slackAt s.combs[k].hum.marker (boundaryOf s.combs[k].hum) = some x) : Does (.beatBoundary k uj) s fun t =>
      t.combs[k].hum = nextBeat (recordSlack k x s).combs[k].hum ∧
      (s.combs[k].seq.state = 2 → s.combs[k].seq.stall = 7 → t.combs[k].seq.state = 1 ∧ t.combs[k].seq.stall = 0) ∧
      (k = p → t.parts[p].energy = uj) ∧
      Within [.out, .host, .hum, .seq, .combMem, .router, .rings, .evq, .sems, .partRegs, .mod] s t := by
  refine ⟨_, congrArg Host.Outcome.next (effBoundary_inTime hp uj hb hx), ?_⟩
  have hflows := endFlows_within p k s.combs[k].hum.beat s
  have hkept : beatKept (endFlows p k s.combs[k].hum.beat s).combs[k] = beatKept s.combs[k] := endFlows_beatKept ..
  generalize endFlows p k s.combs[k].hum.beat s = a at hflows hkept
  have hslack := recordSlack_within k x a
  have hend := beatEnded_within k p uj (recordSlack k x a)
  have hpoll := pollDue_within k p (s.combs[k].hum.beat.toNat + 1) (beatEnded k p uj (recordSlack k x a))
  refine ⟨?_, fun h2 h7 => ?_, fun hkp => ?_, ?_⟩
  · rw [hpoll.comb_hum k (by decide), beatEnded_hum, if_pos rfl, recordSlack_hum, recordSlack_hum,
      hflows.comb_hum k (by decide)]
  · have hseq := hslack.comb_seq k (by decide)
    obtain ⟨-, hstate, hstall⟩ : a.combs[k].router.jobs = s.combs[k].router.jobs ∧
      a.combs[k].seq.state = s.combs[k].seq.state ∧ a.combs[k].seq.stall = s.combs[k].seq.stall := by
      simpa only [beatKept, Prod.mk.injEq] using hkept
    rw [hpoll.comb_seq k (by decide)]
    exact beatEnded_wakes _ _ _ _ (by rw [hseq, hstate, h2]) (by rw [hseq, hstall, h7])
  · rw [within_part_energy hpoll p (by decide)]
    exact beatEnded_energy _ _ _ _ hkp
  · exact Within.trans (hflows.mono (by decide)) <| Within.trans (hslack.mono (by decide)) <|
      Within.trans (hend.mono (by decide)) (hpoll.mono (by decide))

/-- At a boundary without one the comb overruns. -/
theorem beatBoundary_overrun (uj : Word) (hb : atBoundary s k = true)
    (hx : slackAt s.combs[k].hum.marker (boundaryOf s.combs[k].hum) = none) (hr : s.parts[p].recov = [])
    (ha : jobAborted s k = false) : Does (.beatBoundary k uj) s fun t => Stopped p stBeatOverrun s t ∧
      t.combs[k].hum.overrun = hit 16 s.combs[k].hum.overrun ∧ t.combs[k].hum.active = false ∧
      ∀ j ∈ combsOf s p, j ≠ k → s.combs[j].hum.active = true → boundaryOf s.combs[j].hum = boundaryOf s.combs[k].hum →
        t.combs[j].hum.missed = some (boundaryOf s.combs[k].hum, s.combs[j].hum.marker) := by
  refine ⟨_, congrArg Host.Outcome.next (effBoundary_overrun hp uj hb hx), ?_⟩
  have hflows := endFlows_within p k s.combs[k].hum.beat s
  have hkept : beatKept (endFlows p k s.combs[k].hum.beat s).combs[k] = beatKept s.combs[k] := endFlows_beatKept ..
  generalize endFlows p k s.combs[k].hum.beat s = a at hflows hkept
  have hend := beatEnded_within k p uj a
  have hw : Within [.out, .host, .hum, .seq, .combMem, .router, .rings, .evq, .sems, .partRegs, .mod] s (beatEnded k p uj a) :=
    Within.trans (hflows.mono (by decide)) (hend.mono (by decide))
  have hin : ∀ j : Comb, inPart (beatEnded k p uj a) p j = inPart s p j := within_inPart hw (by decide) (by decide) p
  have hrec : (beatEnded k p uj a).parts[p].recov = [] :=
    (beatEnded_recov ..).trans ((hflows.part_recov p (by decide)).trans hr)
  have hab : jobAborted (beatEnded k p uj a) k = false :=
    (jobAborted_congr ((congrArg Router.jobs (hend.comb_router k (by decide))).trans (congrArg Prod.fst hkept))).trans ha
  have hhum : ∀ j : Comb, j ≠ k → (beatEnded k p uj a).combs[j].hum = s.combs[j].hum := fun j hj => by
    rw [beatEnded_hum, if_neg (Ne.symm hj), hflows.comb_hum j (by decide)]
  have hover : (beatEnded k p uj a).combs[k].hum.overrun = s.combs[k].hum.overrun := by
    rw [beatEnded_hum, if_pos rfl, hflows.comb_hum k (by decide)]
    rfl
  obtain ⟨hstop, hcount, hact, hmiss⟩ := overrun_stops hrec hab ((hin k).trans (inPart_of_partOf hp))
    s.combs[k].hum.beat (boundaryOf s.combs[k].hum)
  have hpoll := pollDue_within k p (s.combs[k].hum.beat.toNat + 1)
    (overrun k p s.combs[k].hum.beat (boundaryOf s.combs[k].hum) (beatEnded k p uj a))
  refine ⟨stopped_kept hpoll (by decide) (by decide) (stopped_of_within hw (by decide) (by decide) hstop), ?_, ?_,
    fun j hj hne hact' hb' => ?_⟩
  · rw [hpoll.comb_hum k (by decide), hcount, hover]
  · rw [hpoll.comb_hum k (by decide), hact]
  · have hm := hmiss j ((hin j).trans (mem_combsOf.1 hj)) hne (by rw [hhum j hne]; exact hact') (by rw [hhum j hne]; exact hb')
    rw [hpoll.comb_hum j (by decide), hm, hhum j hne]

/-- A comb whose partition another comb has stopped samples the marker that it kept. -/
theorem beatBoundary_late (uj : Word) {b : Nat} {m : Option Nat} (hact : s.combs[k].hum.active = false)
    (hm : s.combs[k].hum.missed = some (b, m)) (ht : inFirstSlot s.combs[k].hum.time b = true) :
    Does (.beatBoundary k uj) s fun t => t.combs[k].hum.missed = none ∧ t.combs[k].hum.overrun =
      (if slackAt m b = none then hit 16 s.combs[k].hum.overrun else s.combs[k].hum.overrun) ∧
      (∀ x, slackAt m b = some x → t.combs[k].hum.lastSlack = x) ∧ Within [.hum, .partRegs] s t := by
  have hb : atBoundary s k = false := by simp only [atBoundary, hact, Bool.false_and]
  refine ⟨_, congrArg Host.Outcome.next (effBoundary_elsewhere hp uj hb), ?_⟩
  have hw : Within [.hum, .partRegs] s (lateSample k s) := lateSample_without (by decide)
  cases hx : slackAt m b with
  | none =>
    refine ⟨?_, ?_, nofun, hw⟩
    all_goals
      rw [lateSample_overruns hm ht hx]
      simp only [modHum_hum, if_true]
  | some x =>
    refine ⟨?_, ?_, fun y hy => ?_, hw⟩
    all_goals
      rw [lateSample_slack hm ht hx, recordSlack_hum]
      simp only [modHum_hum, if_true]
    · simp
    · exact Option.some.inj hy

end Boundary

end Sys2Proof.BoundaryProofs
end

section
/-! Control slots: the frame on every UP port, hum-sync and lane records, and the records that wait (R52, R60, R405, R409). -/

namespace Sys2Proof.ControlSlotProofs

open Sys2Proof Sys2Proof.Machine Sys2Proof.MemoryProofs Sys2Proof.JobFaultProofs Sys2Proof.GridProofs Sys2Proof.BoundaryProofs

/-! ### What control slot 0 sends first (R52, R404) -/

/-- A strand-port without its lane records, and a router without those of its ports. -/
def laneless (q : StrandPort) : StrandPort := { q with laneRecs := [] }
def lanesBlanked (r : Router) : Router := { r with ports := r.ports.map laneless }

/-- Routers that differ in lane records only hold the same ports otherwise. -/
theorem lanesBlanked_port {a b : Router} (h : lanesBlanked a = lanesBlanked b) (q : LPort) :
    a.ports[q].state = b.ports[q].state ∧ a.ports[q].lastTx = b.ports[q].lastTx ∧ a.ports[q].lastRx = b.ports[q].lastRx := by
  have hq := congrArg (fun r : Router => r.ports[q]) h
  simp only [lanesBlanked, laneless, Fin.getElem_fin, Vector.getElem_map, StrandPort.mk.injEq] at hq
  obtain ⟨hstate, -, -, -, htx, hrx, -⟩ := hq
  exact ⟨hstate, htx, hrx⟩

/-- What a sender of records reads of the state: the hum, the module registers, and the router but for its lane records. -/
structure SameSender (k : Comb) (s t : State) : Prop where
  hum : t.combs[k].hum = s.combs[k].hum
  mod : t.mod = s.mod
  router : lanesBlanked t.combs[k].router = lanesBlanked s.combs[k].router

section Sync

variable {k : Comb} {s t : State}

theorem SameSender.portUp (h : SameSender k s t) (q : LPort) : portUp t k q = portUp s k q := by
  simp only [Machine.portUp, (lanesBlanked_port h.router q).1]

theorem SameSender.now16 (h : SameSender k s t) : now16 t k = now16 s k := by
  simp only [Machine.now16, h.hum]

/-- The records of control slot 0 leave the sender as it was. -/
theorem sendSync_same (q : LPort) (s : State) : SameSender k s (sendSync k q s) := by
  have hlane : ∀ (f : StrandPort → StrandPort) (u : State), (∀ y, laneless (f y) = laneless y) →
      lanesBlanked (u.modSPort k q f).combs[k].router = lanesBlanked u.combs[k].router := fun f u hf => by
    rw [State.modSPort, modRouter_router, if_pos rfl]
    simp only [lanesBlanked, upd_map_eq _ _ _ _ hf]
  unfold sendSync
  split
  · exact ⟨rfl, rfl, rfl⟩
  · dsimp only
    split
    · exact ⟨rfl, rfl, rfl⟩
    · exact ⟨modRouter_hum .., rfl, hlane _ _ fun _ => rfl⟩

theorem sendSync_out {o : Output} (q : LPort) {s : State} (h : o ∈ s.out) : o ∈ (sendSync k q s).out := by
  unfold sendSync
  split
  · exact h
  · dsimp only
    split
    · exact List.mem_cons_of_mem _ h
    · exact List.mem_cons_of_mem _ (List.mem_cons_of_mem _ h)

theorem sendSync_within (q : LPort) (s : State) : Within [.out, .router] s (sendSync k q s) := by
  have he : ∀ o u, Within [.out, .router] u (emit o u) := fun o u => emit_without _ _ _ (by decide)
  unfold sendSync
  split
  · rfl
  · dsimp only
    split
    · exact he _ _
    · exact Within.trans (he _ _) (Within.trans (he _ _) (modSPort_without _ _ _ _ _ (by decide)))

/-- A hum-sync record of comb k on a port, with the times of its hum and of the port's latest record. -/
def SyncSent (k : Comb) (q : LPort) (s t : State) : Prop := ∃ x : HumSync, .humSync k q x ∈ t.out ∧
  x.state = s.combs[k].hum.state ∧ x.tTx = w64 (now16 s k) ∧ x.tEchoTx = s.combs[k].router.ports[q].lastTx ∧
  x.tEchoRx = s.combs[k].router.ports[q].lastRx

theorem sendSync_sends {q : LPort} {s : State} (h : portUp s k q = true) : SyncSent k q s (sendSync k q s) := by
  unfold sendSync
  simp only [h, Bool.not_true, Bool.false_eq_true, if_false]
  split
  · exact ⟨_, List.mem_cons_self, rfl, rfl, rfl, rfl⟩
  · exact ⟨_, List.mem_cons_of_mem _ List.mem_cons_self, rfl, rfl, rfl, rfl⟩

/-- Control slot 0 sends one on every UP port. -/
theorem sendSyncs_send {l : List LPort} {s u : State} (hu : SameSender k s u) :
    SameSender k s (forEach l (fun q s => sendSync k q s) u) ∧
    Within [.out, .router] u (forEach l (fun q s => sendSync k q s) u) ∧
    (∀ o ∈ u.out, o ∈ (forEach l (fun q s => sendSync k q s) u).out) ∧
    ∀ q ∈ l, portUp s k q = true → SyncSent k q s (forEach l (fun q s => sendSync k q s) u) := by
  induction l generalizing u with
  | nil => exact ⟨hu, rfl, fun _ h => h, nofun⟩
  | cons a l ih =>
    have hs := sendSync_same (k := k) a u
    have hu' : SameSender k s (sendSync k a u) := ⟨hs.hum.trans hu.hum, hs.mod.trans hu.mod, hs.router.trans hu.router⟩
    obtain ⟨hsame, hw, hkeep, hsend⟩ := ih hu'
    refine ⟨hsame, Within.trans (sendSync_within a u) hw, fun o ho => hkeep o (sendSync_out a ho), fun q hq hup => ?_⟩
    rcases List.mem_cons.1 hq with rfl | hq
    · obtain ⟨x, hx, h1, h2, h3, h4⟩ := sendSync_sends (k := k) ((hu.portUp q).trans hup)
      obtain ⟨-, htx, hrx⟩ := lanesBlanked_port hu.router q
      exact ⟨x, hkeep _ hx, by rw [h1, hu.hum], by rw [h2, hu.now16], by rw [h3, htx], by rw [h4, hrx]⟩
    · exact hsend q hq hup

end Sync

/-! ### Records that wait are sent (R405, R409) -/

section Records

variable {k : Comb} {s t : State}

theorem mem_sendPorts {m : BitVec 6} {q : LPort} : q ∈ sendPorts s k m ↔ m.getLsbD q.val = true ∧ portUp s k q = true := by
  simp [sendPorts, mem_fins]

/-- A record's MAC is computed under the job's fabric key. -/
theorem recordMac_congr {a b : JobEntry} (h : a.fkey = b.fkey) (type n : Nat) (c : RecFrom) (body : Bytes) :
    recordMac a type n c body = recordMac b type n c body := by
  simp only [recordMac, controlKey, h]

theorem signVote_congr {j : JobIx} (hr : t.combs[k].router.jobs[j].role = s.combs[k].router.jobs[j].role)
    (hf : t.combs[k].router.jobs[j].fkey = s.combs[k].router.jobs[j].fkey) (hm : t.mod = s.mod) (type : Nat) (v : VoteRec)
    (q : LPort) : signVote t k j type v q = signVote s k j type v q := by
  simp only [signVote, voteMac, recordMac_congr hf, sentFrom, hm, hr]

theorem signAlarm_congr {j : JobIx} (hr : t.combs[k].router.jobs[j].role = s.combs[k].router.jobs[j].role)
    (hf : t.combs[k].router.jobs[j].fkey = s.combs[k].router.jobs[j].fkey) (hm : t.mod = s.mod) (a : AlarmRec)
    (q : LPort) : signAlarm t k j a q = signAlarm s k j a q := by
  simp only [signAlarm, alarmMac, recordMac_congr hf, sentFrom, hm, hr]

/-- Every record that waits goes out on the UP ports of its mask, and none waits any more. -/
theorem sendRecords_sends (k : Comb) (s : State) : (∀ o ∈ s.out, o ∈ (sendRecords k s).out) ∧
    (∀ e ∈ s.combs[k].router.alarms, ∀ q ∈ sendPorts s k e.2.2,
      .record k q 1 (signAlarm s k e.1 e.2.1 q) noVote ∈ (sendRecords k s).out) ∧
    (∀ e ∈ s.combs[k].router.votesOut, ∀ q ∈ sendPorts s k e.2.2,
      .record k q 2 noAlarm (signVote s k e.1 2 e.2.1 q) ∈ (sendRecords k s).out) ∧
    (∀ e ∈ s.combs[k].router.verdictsOut, ∀ q ∈ sendPorts s k e.2.2,
      .record k q 3 noAlarm (signVote s k e.1 3 e.2.1 q) ∈ (sendRecords k s).out) ∧
    (sendRecords k s).combs[k].router = { s.combs[k].router with alarms := [], votesOut := [], verdictsOut := [] } ∧
    Within [.out, .router] s (sendRecords k s) := by
  have hout : ∀ o, o ∈ (sendRecords k s).out ↔ o ∈
      ((s.combs[k].router.alarms.map fun (j, a, m) => (sendPorts s k m).map fun p =>
          Output.record k p 1 (signAlarm s k j a p) noVote).flatten ++
        (s.combs[k].router.votesOut.map fun (j, v, m) => (sendPorts s k m).map fun p =>
          Output.record k p 2 noAlarm (signVote s k j 2 v p)).flatten ++
        (s.combs[k].router.verdictsOut.map fun (j, v, m) => (sendPorts s k m).map fun p =>
          Output.record k p 3 noAlarm (signVote s k j 3 v p)).flatten) ∨ o ∈ s.out := fun o => by
    rw [← List.mem_reverse (as := _ ++ _), ← List.mem_append]
    rfl
  refine ⟨fun o ho => (hout o).2 (.inr ho), fun e he q hq => (hout _).2 (.inl ?_), fun e he q hq => (hout _).2 (.inl ?_),
    fun e he q hq => (hout _).2 (.inl ?_), ?_, ?_⟩
  · exact List.mem_append_left _ (List.mem_append_left _ (List.mem_flatten.2 ⟨_, List.mem_map_of_mem he, List.mem_map_of_mem hq⟩))
  · exact List.mem_append_left _ (List.mem_append_right _ (List.mem_flatten.2 ⟨_, List.mem_map_of_mem he, List.mem_map_of_mem hq⟩))
  · exact List.mem_append_right _ (List.mem_flatten.2 ⟨_, List.mem_map_of_mem he, List.mem_map_of_mem hq⟩)
  · unfold sendRecords
    dsimp only
    rw [modRouter_router, if_pos rfl]
    rfl
  · exact (modRouter_without _ _ _ _ (by decide)).trans (emitAll_without _ _ _ (by decide))

end Records

/-! ### A control slot (R60) -/

/-- The frames of a control slot, and in slot 0 its hum-sync and lane records. -/
def slotOpened (k : Comb) (s : State) : State :=
  let u := emitAll (((fins 6).filter fun p => portUp s k p).map fun p => .frame k p (linkWord s k 3) none) s
  if slotOf s k = 0 then forEach (fins 6) (fun p s => sendSync k p s) u else u

section Slot

variable {k : Comb} {s : State}

theorem exec_controlSlot (hp : s.combs[k].routerPwr = true) (hn : slotOf s k = 0 ∨ slotOf s k = 256) :
    exec (.controlSlot k) s = .next (sendRecords k (combineAt k (slotOpened k s))) := by
  have hc : ¬ ((!s.combs[k].routerPwr) = true ∨ slotOf s k ≠ 0 ∧ slotOf s k ≠ 256) := by
    rw [hp]
    rintro (h | ⟨h0, h1⟩)
    · cases h
    · exact hn.elim h0 h1
  show Host.Outcome.next (effControl k s) = _
  unfold effControl
  dsimp only
  rw [if_neg hc]
  rfl

theorem slotOpened_sends (k : Comb) (s : State) : SameSender k s (slotOpened k s) ∧ Within [.out, .router] s (slotOpened k s) ∧
    ∀ q : LPort, portUp s k q = true → .frame k q (linkWord s k 3) none ∈ (slotOpened k s).out ∧
      (slotOf s k = 0 → SyncSent k q s (slotOpened k s)) := by
  unfold slotOpened
  dsimp only
  generalize hl : ((fins 6).filter fun p => portUp s k p).map (fun p => Output.frame k p (linkWord s k 3) none) = l
  have hframe : ∀ q : LPort, portUp s k q = true → .frame k q (linkWord s k 3) none ∈ (emitAll l s).out := fun q hq => by
    rw [emitAll_out, ← hl]
    exact List.mem_append_left _ (List.mem_reverse.2 (List.mem_map.2 ⟨q, by simp [mem_fins, hq], rfl⟩))
  have hu : SameSender k s (emitAll l s) := ⟨rfl, rfl, rfl⟩
  have hw : Within [.out, .router] s (emitAll l s) := emitAll_without _ _ _ (by decide)
  split
  · obtain ⟨hsame, hsync, hkeep, hsend⟩ := sendSyncs_send (l := fins 6) hu
    exact ⟨hsame, Within.trans hw hsync, fun q hq => ⟨hkeep _ (hframe q hq), fun _ => hsend q (mem_fins q) hq⟩⟩
  · next h0 => exact ⟨hu, hw, fun q hq => ⟨hframe q hq, fun h => absurd h h0⟩⟩

/-- Where comb k is not the lowest of its partition it combines no votes. -/
theorem combineAt_other (hp : partOf s k ≠ some k) : combineAt k s = s := by
  unfold combineAt
  split
  · next p j hpk hj =>
    have hne : k ≠ p := fun h => hp (h ▸ hpk)
    exact if_pos (.inr (.inl hne))
  · rfl

/-- The vote that a router combines of its parts. -/
def combinedVote (e : JobEntry) : VoteRec := VoteRec.mk (combineVotes e.votes) (voteTag e.votes) e.jobId e.epoch 0 {}

/-- At the lowest comb a complete vote, 200 ns old, waits for the parent port. -/
theorem combineAt_toParent {j : JobIx} {r : LPort} (hp : partOf s k = some k) (hj : memberJob s k = some j)
    (ha : s.combs[k].router.jobs[j].aborted = false) (hv : votesComplete s k s.combs[k].router.jobs[j] = true)
    (ht : s.combs[k].router.jobs[j].voteAt + 200 * nsUnits ≤ s.combs[k].hum.time)
    (hr : s.combs[k].router.jobs[j].vparent.toNat = r.val) : combineAt k s =
      (s.modJob k j fun e => { e with votes := [] }).modRouter k fun y => { y with
        votesOut := y.votesOut ++ [(j, combinedVote s.combs[k].router.jobs[j], portMask s.combs[k].router.jobs[j].vparent)] } := by
  have h15 : s.combs[k].router.jobs[j].vparent ≠ 15 := fun h => by
    rw [h] at hr
    have := r.isLt
    simp at hr
    omega
  have hgo : ¬ (s.combs[k].router.jobs[j].aborted = true ∨ k ≠ k ∨ (!votesComplete s k s.combs[k].router.jobs[j]) = true ∨
      s.combs[k].hum.time < s.combs[k].router.jobs[j].voteAt + 200 * nsUnits) := by
    simp only [ha, hv, Bool.false_eq_true, ne_eq, not_true_eq_false, Bool.not_true, false_or, not_lt]
    exact ht
  unfold combineAt
  simp only [hp, hj]
  rw [if_neg hgo, if_neg h15]
  rfl

theorem portMask_port {v : BitVec 4} {r : LPort} (h : v.toNat = r.val) : (portMask v).getLsbD r.val = true := by
  have hm : ∀ r : LPort, (1#6 <<< r.val).getLsbD r.val = true := by decide
  rw [portMask, h, if_pos r.isLt]
  exact hm r

/-- What a sender's job entries and queues of records hold is what they held. -/
theorem SameSender.records {u : State} (h : SameSender k s u) : u.combs[k].router.jobs = s.combs[k].router.jobs ∧
    u.combs[k].router.alarms = s.combs[k].router.alarms ∧ u.combs[k].router.votesOut = s.combs[k].router.votesOut ∧
    u.combs[k].router.verdictsOut = s.combs[k].router.verdictsOut := by
  have hj := congrArg Router.jobs h.router
  have ha := congrArg Router.alarms h.router
  have hv := congrArg Router.votesOut h.router
  have hd := congrArg Router.verdictsOut h.router
  exact ⟨hj, ha, hv, hd⟩

/-- A control slot of a comb that combines no votes sends its frames and everything that waits. -/
theorem controlSlot_sends (hpw : s.combs[k].routerPwr = true) (hn : slotOf s k = 0 ∨ slotOf s k = 256)
    (hp : partOf s k ≠ some k) : Does (.controlSlot k) s fun t =>
      (∀ q : LPort, portUp s k q = true → .frame k q (linkWord s k 3) none ∈ t.out ∧
        (slotOf s k = 0 → SyncSent k q s t) ∧
        (∀ e ∈ s.combs[k].router.alarms, e.2.2.getLsbD q.val = true →
          .record k q 1 (signAlarm s k e.1 e.2.1 q) noVote ∈ t.out) ∧
        (∀ e ∈ s.combs[k].router.votesOut, e.2.2.getLsbD q.val = true →
          .record k q 2 noAlarm (signVote s k e.1 2 e.2.1 q) ∈ t.out) ∧
        (∀ e ∈ s.combs[k].router.verdictsOut, e.2.2.getLsbD q.val = true →
          .record k q 3 noAlarm (signVote s k e.1 3 e.2.1 q) ∈ t.out)) ∧
      t.combs[k].router.alarms = [] ∧ t.combs[k].router.votesOut = [] ∧ t.combs[k].router.verdictsOut = [] ∧
      Within [.out, .router] s t := by
  obtain ⟨hsame, hw, hsend⟩ := slotOpened_sends k s
  have hp' : partOf (slotOpened k s) k ≠ some k := by
    rw [within_partOf hw (by decide) (by decide)]
    exact hp
  refine ⟨_, exec_controlSlot hpw hn, ?_⟩
  rw [combineAt_other hp']
  generalize slotOpened k s = u at hsame hw hsend
  obtain ⟨hkeep, hal, hvo, hve, hrouter, hws⟩ := sendRecords_sends k u
  obtain ⟨hjobs, ha, hv, hd⟩ := hsame.records
  have hport : ∀ (m : BitVec 6) (q : LPort), portUp s k q = true → m.getLsbD q.val = true → q ∈ sendPorts u k m :=
    fun m q hq hm => mem_sendPorts.2 ⟨hm, (hsame.portUp q).trans hq⟩
  have hvote : ∀ j type v q, signVote u k j type v q = signVote s k j type v q := fun j type v q =>
    signVote_congr (by rw [hjobs]) (by rw [hjobs]) hsame.mod type v q
  refine ⟨fun q hq => ⟨hkeep _ (hsend q hq).1, fun h0 => ?_, fun e he hm => ?_, fun e he hm => ?_, fun e he hm => ?_⟩,
    by rw [hrouter], by rw [hrouter], by rw [hrouter], Within.trans hw hws⟩
  · obtain ⟨x, hx, hfields⟩ := (hsend q hq).2 h0
    exact ⟨x, hkeep _ hx, hfields⟩
  · rw [← signAlarm_congr (by rw [hjobs]) (by rw [hjobs]) hsame.mod]
    exact hal e (by rw [ha]; exact he) q (hport _ q hq hm)
  · rw [← hvote]
    exact hvo e (by rw [hv]; exact he) q (hport _ q hq hm)
  · rw [← hvote]
    exact hve e (by rw [hd]; exact he) q (hport _ q hq hm)

/-- The lowest comb's complete vote goes out on the parent port with the control slot. -/
theorem controlSlot_combines {j : JobIx} {r : LPort} (hpw : s.combs[k].routerPwr = true) (hn : slotOf s k = 0 ∨ slotOf s k = 256)
    (hp : partOf s k = some k) (hj : memberJob s k = some j) (ha : s.combs[k].router.jobs[j].aborted = false)
    (hv : votesComplete s k s.combs[k].router.jobs[j] = true)
    (ht : s.combs[k].router.jobs[j].voteAt + 200 * nsUnits ≤ s.combs[k].hum.time)
    (hr : s.combs[k].router.jobs[j].vparent.toNat = r.val) (hup : portUp s k r = true) : Does (.controlSlot k) s fun t =>
      .record k r 2 noAlarm (signVote s k j 2 (combinedVote s.combs[k].router.jobs[j]) r) ∈ t.out ∧
      t.combs[k].router.jobs[j].votes = [] ∧ Within [.out, .router] s t := by
  obtain ⟨hsame, hw, -⟩ := slotOpened_sends k s
  refine ⟨_, exec_controlSlot hpw hn, ?_⟩
  generalize slotOpened k s = u at hsame hw
  have hjobs := hsame.records.1
  have hcombined := combineAt_toParent (k := k) (s := u) (j := j) (r := r)
    ((within_partOf hw (by decide) (by decide) k).trans hp) (by simp only [memberJob, hjobs]; exact hj) (by rw [hjobs]; exact ha)
    (by simp only [votesComplete, Machine.sizeOf, hjobs, hw.part_psize k (by decide)]; exact hv)
    (by rw [hjobs, hsame.hum]; exact ht) (by rw [hjobs]; exact hr)
  rw [hcombined, hjobs]
  generalize hc : State.modRouter _ k _ = c
  have hrouter : c.combs[k].router = { u.combs[k].router with
      jobs := upd u.combs[k].router.jobs j fun e => { e with votes := [] }
      votesOut := u.combs[k].router.votesOut ++
        [(j, combinedVote s.combs[k].router.jobs[j], portMask s.combs[k].router.jobs[j].vparent)] } := by
    rw [← hc, modRouter_router, if_pos rfl, State.modJob, modRouter_router, if_pos rfl]
  have hwc : Within [.out, .router] u c := by
    rw [← hc]
    exact (modRouter_without _ _ _ _ (by decide)).trans (modJob_without _ _ _ _ _ (by decide))
  have hentry : c.combs[k].router.jobs[j] = { s.combs[k].router.jobs[j] with votes := [] } := by rw [hrouter, upd_same, hjobs]
  have hupc : portUp c k r = true := by
    have hports : c.combs[k].router.ports = u.combs[k].router.ports := by rw [hrouter]
    have huu := (hsame.portUp r).trans hup
    simpa only [portUp, hports] using huu
  obtain ⟨-, -, hvo, -, hsent, hws⟩ := sendRecords_sends k c
  refine ⟨?_, by rw [hsent, hentry], Within.trans hw (Within.trans hwc hws)⟩
  rw [← signVote_congr (t := c) (by rw [hentry]) (by rw [hentry]) ((hwc.mod_eq (by decide)).trans hsame.mod)]
  exact hvo (j, combinedVote s.combs[k].router.jobs[j], portMask s.combs[k].router.jobs[j].vparent)
    (by rw [hrouter]; exact List.mem_append_right _ List.mem_cons_self) r (mem_sendPorts.2 ⟨portMask_port hr, hupc⟩)

end Slot

/-- Settles O44: the grid, its boundaries and the control slots, each by its own rule. -/
theorem beatsAndControlSlots : Obligations.BeatsAndControlSlots := by
  refine fun s => ⟨fun p tt hn hs hk => beatGridStart_starts hn hs hk, fun k h hw => ?_, fun k p uj x hp hb hx => ?_,
    fun k p uj hp hb hx hr ha => beatBoundary_overrun hp uj hb hx hr ha,
    fun k p uj b m hp hact hm ht => beatBoundary_late hp uj hact hm ht, fun k n hpw hn h => ?_, ?_⟩
  · have hc := canIssue_awaitsBeat0 hw
    exact ⟨congrArg Host.Outcome.next (issueNoPen_stays hc ..), fun a b c => ⟨congrArg Host.Outcome.next (issueTo_stays hc ..),
      congrArg Host.Outcome.next (effMove_stays hc ..), congrArg Host.Outcome.next (issueIf_stays hc ..)⟩⟩
  · obtain ⟨t, ht, hhum, hseq, henergy, hw⟩ := beatBoundary_inTime hp uj hb hx
    rw [recordSlack_hum] at hhum
    exact ⟨t, ht, by rw [hhum]; rfl, by rw [hhum]; rfl, by rw [hhum]; rfl, by rw [hhum]; rfl, by rw [hhum]; rfl,
      by rw [hhum]; rfl, hseq, henergy, hw⟩
  · subst hn
    exact controlSlot_sends hpw h
  · rintro k q r j e rfl hpw hn hp hj rfl ha hv ht hr hup
    exact controlSlot_combines hpw (.inr hn) hp hj ha hv ht hr hup

end Sys2Proof.ControlSlotProofs
end

section
/-! Rings: what a change of one ring leaves and changes, and the writes that enable and disable them (R84, R88). -/

namespace Sys2Proof.RingProofs

open Sys2Proof Sys2Proof.Machine Sys2Proof.RegisterProofs

theorem does_of_exec {c : Instr} {s t : State} {P : State → Prop} (h : exec c s = .next t) (ht : P t) : Does c s P := ⟨t, h, ht⟩

/-! ### One ring changed -/

theorem modPart_at (s : State) (p : Part) (f : PartState → PartState) : (s.modPart p f).parts[p] = f s.parts[p] :=
  modPart_same s p f

theorem modRing_at (s : State) (p : Part) (r : Ring) (f : RingState → RingState) :
    (s.modRing p r f).parts[p].rings[r] = f s.parts[p].rings[r] := by
  rw [State.modRing, modPart_at]
  exact upd_same ..

theorem modRing_at_other (s : State) (p : Part) {r q : Ring} (f : RingState → RingState) (h : q ≠ r) :
    (s.modRing p r f).parts[p].rings[q] = s.parts[p].rings[q] := by
  rw [State.modRing, modPart_at]
  exact upd_other _ _ _ _ h.symm

theorem modRing_within (s : State) (p : Part) (r : Ring) (f : RingState → RingState) : Within [.rings] s (s.modRing p r f) :=
  modRing_without _ _ _ _ _ (by decide)

/-! ### What a written HST_SQ_CFG makes of a ring (R84, R88) -/

section WriteCfg

variable {g : RingState} {k : Comb} {cfg : Word}

theorem writeCfg_starts (he : g.enable = false) (h0 : g.state = 0) (hc : cfg.getLsbD 0 = true) :
    g.writeCfg k cfg = (cfgFields cfg g).start := by
  have h0' : (cfgFields cfg g).state = 0 := h0
  simp only [RingState.writeCfg, he, hc, h0', Bool.false_eq_true, if_false, and_self, if_true]

/-- ENABLE 1 takes no effect before the ring has reached DISABLED. -/
theorem writeCfg_early (he : g.enable = false) (h0 : g.state ≠ 0) : g.writeCfg k cfg = cfgFields cfg g := by
  have h0' : (cfgFields cfg g).state ≠ 0 := h0
  simp only [RingState.writeCfg, he, h0', Bool.false_eq_true, if_false, and_false]

theorem writeCfg_disables (he : g.enable = true) (hc : cfg.getLsbD 0 = false) :
    g.writeCfg k cfg = { g with pollDiv := cfg.extractLsb' 8 6 }.disable k := by
  simp only [RingState.writeCfg, he, hc, Bool.false_eq_true, if_false, if_true]

end WriteCfg

/-- A ring after its HST_SQ_CFG is written: one enabled during the recovery that stopped it stays STOPPED (R483). -/
def sqCfgWritten (s : State) (p : Part) (r : Ring) (cfg : Word) (g : RingState) : RingState :=
  if (g.writeCfg (serving s p r) cfg).enable && keepsStopped s p r then { g.writeCfg (serving s p r) cfg with state := 3 }
  else g.writeCfg (serving s p r) cfg

theorem sqCfgWritten_runs {s : State} {p : Part} {r : Ring} (h : keepsStopped s p r = false) (cfg : Word) (g : RingState) :
    sqCfgWritten s p r cfg g = g.writeCfg (serving s p r) cfg := if_neg (by simp [h])

theorem sqCfgWritten_off {s : State} {p : Part} {r : Ring} {cfg : Word} {g : RingState}
    (h : (g.writeCfg (serving s p r) cfg).enable = false) :
    sqCfgWritten s p r cfg g = g.writeCfg (serving s p r) cfg := if_neg (by simp [h])

/-! ### RING_ENABLE, RING_DISABLE and the event rings' commands in stage READY -/

section Ready

variable {s : State} (hs : s.boot.stage = 5)
include hs

theorem regsServed_ready : regsServed s = true := by simp [regsServed, hs]

theorem exec_eventRingEnable {cfg : Word} (h : cfg.getLsbD 0 = true) (f : Fn) :
    exec (.eventRingEnable f cfg) s = .next (writeEqCfg f cfg s) :=
  congrArg Host.Outcome.next (if_pos ⟨h, regsServed_ready hs⟩)

theorem exec_eventRingDisable {cfg : Word} (h : cfg.getLsbD 0 = false) (f : Fn) :
    exec (.eventRingDisable f cfg) s = .next (writeEqCfg f cfg s) :=
  congrArg Host.Outcome.next (if_neg (by rw [h, regsServed_ready hs]; decide))

variable {p : Part} (hl : s.parts[p].live = true)
include hl

theorem exec_ringEnable {cfg : Word} (h : cfg.getLsbD 0 = true) (r : Ring) :
    exec (.ringEnable p r cfg) s = .next (s.modRing p r (sqCfgWritten s p r cfg)) :=
  congrArg Host.Outcome.next ((if_pos ⟨h, regsServed_ready hs⟩).trans (if_pos hl))

theorem exec_ringDisable {cfg : Word} (h : cfg.getLsbD 0 = false) (r : Ring) :
    exec (.ringDisable p r cfg) s = .next (s.modRing p r (sqCfgWritten s p r cfg)) :=
  congrArg Host.Outcome.next ((if_neg (by rw [h, regsServed_ready hs]; decide)).trans (if_pos hl))

end Ready

/-- A fetched descriptor of a ring that is disabled is decided with RESET_ABORTED (R84). -/
theorem disable_fetched {g : RingState} {d : Desc} (hd : d ∈ g.descs) (hf : d.stage = .fetched) (k : Comb) :
    d.decide' stResetAborted 0 0 k ∈ (g.disable k).descs :=
  List.mem_map.2 ⟨d, hd, if_pos (.inl hf)⟩

/-- Settles O33: each write by what it makes of its ring, per case of ENABLE and STATE. -/
theorem ringsEnableAndDisable : Obligations.RingsEnableAndDisable := by
  refine fun s hs => ⟨fun p r cfg hl hc he h0 hk => ?_, fun p r cfg hl hc he h0 => ?_, fun p r cfg hl hc he => ?_,
    fun cfg hc he => ?_, fun p cfg hc hl he => ?_⟩
  · refine does_of_exec (exec_ringEnable hs hl hc r) ?_
    rw [modRing_at, sqCfgWritten_runs hk, writeCfg_starts he h0 hc]
    exact ⟨rfl, rfl, rfl, rfl, rfl, rfl, rfl, rfl, rfl, fun q hq => modRing_at_other _ _ _ hq, modRing_within ..⟩
  · refine does_of_exec (exec_ringEnable hs hl hc r) ?_
    have hw := writeCfg_early (k := serving s p r) (cfg := cfg) he h0
    rw [modRing_at, sqCfgWritten_off (by rw [hw]; exact he), hw]
    exact ⟨he, rfl, modRing_within ..⟩
  · refine does_of_exec (exec_ringDisable hs hl hc r) ?_
    have hw := writeCfg_disables (k := serving s p r) he hc
    rw [modRing_at, sqCfgWritten_off (by rw [hw]; rfl), hw]
    exact ⟨rfl, rfl, rfl, fun d hd hf => disable_fetched hd hf _, fun h => if_pos (List.isEmpty_iff.2 h), modRing_within ..⟩
  · refine ⟨_, exec_eventRingEnable hs hc 0, ?_, modMod_without _ _ _ (by decide)⟩
    show s.mod.evq.writeCfg cfg = _
    simp only [EvRing.writeCfg, he, hc, Bool.false_eq_true, if_false, if_true]
  · refine does_of_exec (exec_eventRingDisable hs hc _) ?_
    have hw : writeEqCfg (fnOf p) cfg s = s.modPart p fun q => { q with evq := q.evq.writeCfg cfg } := by
      unfold writeEqCfg
      rw [partOfFn_fnOf]
      exact if_pos hl
    rw [hw, modPart_at]
    refine ⟨?_, modPart_without _ _ _ _ fun _ => rfl⟩
    simp only [EvRing.writeCfg, he, hc, Bool.false_eq_true, if_false, if_true]

end Sys2Proof.RingProofs
end

section
/-! Polls and fetches: requests presented to the host, the answers of a poll, and the descriptors that arrive (R89–R92). -/

namespace Sys2Proof.PollProofs

open Sys2Proof Sys2Proof.Machine Sys2Proof.MemoryProofs Sys2Proof.JobFaultProofs Sys2Proof.GridProofs
  Sys2Proof.RegisterProofs Sys2Proof.RingProofs

/-! ### Requests presented to the host (R426) -/

/-- A request of function f has left the module, or waits behind others. -/
def Presented (f : Fn) (x : HostItem) (s : State) : Prop := x.sent s f ∈ s.out ∨ x ∈ s.host.waiting[f]

section Presented

variable {f : Fn} {x : HostItem}

theorem sent_congr {s t : State} (h : t.fns = s.fns) : x.sent t f = x.sent s f := by
  cases x <;> simp only [HostItem.sent, asSent, h]

theorem hostPut_presents (f : Fn) (x : HostItem) (s : State) : Presented f x (hostPut f x s) := by
  by_cases h : (s.host.waiting[f].isEmpty && mayIssue s f x) = true
  · rw [hostPut, if_pos h]
    cases x with
    | read a n what => exact .inl List.mem_cons_self
    | post n o => exact .inl List.mem_cons_self
  · rw [hostPut, if_neg h]
    exact .inr (by simp)

theorem Presented.hostPut {s : State} (h : Presented f x s) (e : Fn) (y : HostItem) : Presented f x (hostPut e y s) := by
  have hs : x.sent (Machine.hostPut e y s) f = x.sent s f :=
    sent_congr (Within.fns_eq (m := [.out, .host]) (hostPut_without (by decide)) (by decide))
  rw [Presented, hs]
  unfold Machine.hostPut
  split
  · cases y <;> exact h.imp (List.mem_cons_of_mem _) id
  · refine h.imp id fun hw => ?_
    by_cases he : e = f
    · subst he
      simp only [upd_same]
      exact List.mem_append_left _ hw
    · simp only [upd_other _ _ _ _ he]
      exact hw

theorem hostPutAll_presents {xs : List HostItem} (h : x ∈ xs) (s : State) : Presented f x (hostPutAll f xs s) :=
  forEach_establishes (P := Presented f) (hostPut_presents f) (fun _ y _ hx => hx.hostPut f y) h s

theorem Presented.hostPutAll {s : State} (h : Presented f x s) (e : Fn) (ys : List HostItem) :
    Presented f x (hostPutAll e ys s) :=
  List.foldlRecOn ys _ h fun _ ht y _ => ht.hostPut e y

theorem Presented.modPart {s : State} (h : Presented f x s) (p : Part) (g : PartState → PartState) :
    Presented f x (s.modPart p g) := h

theorem Presented.pollEvents {s : State} (h : Presented f x s) (p : Part) : Presented f x (pollEvents (fnOf p) s) := by
  unfold Machine.pollEvents
  rw [partOfFn_fnOf]
  dsimp only
  split
  · exact (h.hostPut _ _).modPart _ _
  · exact h

theorem Presented.ringRead {s : State} (h : Presented f x s) (p : Part) (r : Ring) : Presented f x (ringRead p r s) := by
  unfold GridProofs.ringRead doIf
  split
  · exact (h.hostPutAll _ _).modPart _ _
  · exact h

theorem Presented.pollRing {s : State} (h : Presented f x s) (p : Part) (r : Ring) : Presented f x (pollRing p r s) := by
  rw [pollRing_eq]
  split
  · split
    · exact (h.ringRead p r).pollEvents p
    · exact h.ringRead p r
  · exact h

end Presented

/-! ### A poll of a partition's rings (R91) -/

/-- The read of a word at address a for a poll of ring r. -/
def wordRead (p : Part) (r : Ring) (a : DWord) : HostItem := .read a 8 (.word (.ring p r))

/-- A poll of a ring that no poll has under way presents the reads of its doorbell and its head word. -/
theorem pollRing_presents {s : State} {p : Part} {r : Ring} (hp : pollable s p r = true) (hn : s.parts[p].rings[r].polled = false)
    {a : DWord} (ha : a = s.parts[p].rings[r].dbAddr ∨ a = s.parts[p].rings[r].headAddr) :
    Presented (fnOf p) (wordRead p r a) (pollRing p r s) := by
  have hread : Presented (fnOf p) (wordRead p r a) (ringRead p r s) := by
    unfold ringRead doIf
    rw [if_pos (by simp only [hn, Bool.not_false])]
    refine (hostPutAll_presents ?_ s).modPart _ _
    rcases ha with rfl | rfl
    · exact List.mem_cons_self
    · exact List.mem_cons_of_mem _ List.mem_cons_self
  rw [pollRing_eq, if_pos hp]
  split
  · exact hread.pollEvents p
  · exact hread

/-- A poll of another ring leaves this one. -/
theorem pollRing_other {s : State} {p : Part} {r i : Ring} (h : r ≠ i) :
    (pollRing p r s).parts[p].rings[i] = s.parts[p].rings[i] := by
  rw [pollRing_ring]
  simp only [h, decide_false, Bool.false_and, Bool.or_false]

theorem pollRings_present {p : Part} {i : Ring} {l : List Ring} {s : State} (hm : i ∈ l) (hp : pollable s p i = true)
    (hn : s.parts[p].rings[i].polled = false) {a : DWord}
    (ha : a = s.parts[p].rings[i].dbAddr ∨ a = s.parts[p].rings[i].headAddr) :
    Presented (fnOf p) (wordRead p i a) (forEach l (fun r s => pollRing p r s) s) := by
  induction l generalizing s with
  | nil => cases hm
  | cons r l ih =>
    by_cases h : r = i
    · subst h
      exact List.foldlRecOn l _ (pollRing_presents hp hn ha) fun _ ht r _ => ht.pollRing p r
    · have hr := pollRing_other (s := s) (p := p) h
      exact ih ((List.mem_cons.1 hm).resolve_left (Ne.symm h)) ((pollable_pollRing ..).trans hp) (by rw [hr]; exact hn)
        (by rw [hr]; exact ha)

section Poll64

variable {s : State} {p : Part} (hl : s.parts[p].live = true) (hf : frameOf s p % 64 = 0) (hs : slotOf s p = 0)
  (hh : ∀ k : Comb, s.combs[k].hum.active = false)
include hl hf hs hh

/-- Without a beat grid, FRAME64_POLL at slot 0 polls every ring of its partition, then perhaps the event ring. -/
theorem effPoll64_rings : effPoll64 (fnOf p) s = forEach (fins 16) (fun r s => pollRing p r s) s ∨
    effPoll64 (fnOf p) s = pollEvents (fnOf p) (forEach (fins 16) (fun r s => pollRing p r s) s) := by
  have hall : ((fins 16).filter fun r => !(s.combs[serving s p r]).hum.active) = fins 16 :=
    List.filter_eq_self.2 fun r _ => by rw [hh]; rfl
  unfold effPoll64
  rw [partOfFn_fnOf]
  simp only [hl, hf, hs, hall, Bool.not_true, Bool.false_eq_true, ne_eq, not_true_eq_false, or_self, if_false]
  split
  · exact .inr rfl
  · exact .inl rfl

theorem frame64Poll_polls {r : Ring} (hp : pollable s p r = true) (hn : s.parts[p].rings[r].polled = false) :
    Does (.frame64Poll (fnOf p)) s fun t => t.parts[p].rings[r].polled = true ∧
      ∀ a, a = s.parts[p].rings[r].dbAddr ∨ a = s.parts[p].rings[r].headAddr →
        (wordRead p r a).sent s (fnOf p) ∈ t.out ∨ wordRead p r a ∈ t.host.waiting[fnOf p] := by
  have hpolled := pollRings_polled (p := p) (i := r) (l := fins 16) (s := s) (.inr ⟨mem_fins r, hp⟩)
  have hread := fun a => pollRings_present (p := p) (l := fins 16) (a := a) (mem_fins r) hp hn
  have hfns : (effPoll64 (fnOf p) s).fns = s.fns :=
    Within.fns_eq (m := [.out, .host, .rings, .evq, .mod]) (effPoll64_without (by decide)) (by decide)
  have hall : (effPoll64 (fnOf p) s).parts[p].rings[r].polled = true ∧
      ∀ a, a = s.parts[p].rings[r].dbAddr ∨ a = s.parts[p].rings[r].headAddr →
        Presented (fnOf p) (wordRead p r a) (effPoll64 (fnOf p) s) := by
    rcases effPoll64_rings hl hf hs hh with h | h
    · rw [h]
      exact ⟨hpolled, hread⟩
    · rw [h, (pollEvents_part_within ..).part_rings p (by decide)]
      exact ⟨hpolled, fun a ha => (hread a ha).pollEvents p⟩
  obtain ⟨hpolled, hread⟩ := hall
  exact does_of_exec rfl ⟨hpolled, fun a ha => by rw [← sent_congr hfns]; exact hread a ha⟩

end Poll64

/-! ### The words of a poll arrive (R89, R90, R92) -/

/-- A ring whose poll has been answered, its head word judged. -/
def headJudged (head : DbWord) (g : RingState) : RingState := { g with polled := false }.takeHead head

/-- The descriptors that a ring's limits let it fetch (R92). -/
def fetchable (g : RingState) : Nat := min g.wanted g.slotsFree

theorem fetchable_lt_wanted (g : RingState) : fetchable g < g.wanted ↔ g.slotsFree < g.wanted := by simp [fetchable]

/-- A ring that fetches n descriptors. -/
def fetchBegun (n : Nat) (g : RingState) : RingState :=
  { g with fetching := n, cqFull := if n < g.wanted then hit 16 g.cqFull else g.cqFull }

/-- A ring after a ring fault (R90). -/
def ringFaulted (g : RingState) : RingState := { g with state := 3, before := 3, fault := hit 16 g.fault, fetching := 0 }

section HeadJudged

variable (head : DbWord) (g : RingState)

/-- The head word changes of a ring its head count or its count of stale words only. -/
theorem headJudged_eq : headJudged head g = { g with
    polled := false, head := (headJudged head g).head, staleDb := (headJudged head g).staleDb } := by
  unfold headJudged RingState.takeHead
  split <;> rfl

variable {head g}

theorem headJudged_accepted (he : head.epoch = g.epoch) (hw : (head.count - g.head).toNat ≤ (g.written - g.head).toNat) :
    headJudged head g = { g with polled := false, head := head.count } :=
  if_pos (by simp only [headOk, he, hw, decide_true, Bool.and_self])

end HeadJudged

theorem hostArrived_within (f : Fn) (what : HostReadKind) (s : State) : Within [.out, .host] s (hostArrived f what s) :=
  hostArrived_without (by decide)

theorem hostPutAll_within (f : Fn) (xs : List HostItem) (s : State) : Within [.out, .host] s (hostPutAll f xs s) :=
  hostPutAll_without (by decide)

theorem startFetch_eq (p : Part) (r : Ring) (s : State) : startFetch p r s =
    if s.parts[p].rings[r].fetching ≠ 0 then s else
    if fetchable s.parts[p].rings[r] = 0 then s.modRing p r (fetchBegun (fetchable s.parts[p].rings[r]))
    else hostPutAll (fnOf p)
      (fetchReads (s.modRing p r (fetchBegun (fetchable s.parts[p].rings[r]))) p r s.parts[p].rings[r]
        (fetchable s.parts[p].rings[r]))
      (s.modRing p r (fetchBegun (fetchable s.parts[p].rings[r]))) := rfl

theorem startFetch_ring {s : State} {p : Part} {r : Ring} (h : s.parts[p].rings[r].fetching = 0) :
    (startFetch p r s).parts[p].rings[r] = fetchBegun (fetchable s.parts[p].rings[r]) s.parts[p].rings[r] := by
  have hput : ∀ xs u, (hostPutAll (fnOf p) xs u).parts[p].rings = u.parts[p].rings := fun xs u =>
    (hostPutAll_within (fnOf p) xs u).part_rings p (by decide)
  rw [startFetch_eq, if_neg (not_not.2 h)]
  split
  · exact modRing_at ..
  · exact (congrArg (·[r]) (hput _ _)).trans (modRing_at ..)

theorem ringFault_ring (p : Part) (r : Ring) (s : State) :
    (ringFault p r s).parts[p].rings[r] = ringFaulted s.parts[p].rings[r] := by
  have hpost : ∀ u x, (postEvent p evFault 0xE0 (serving s p r) x u).parts[p].rings = u.parts[p].rings := fun u x =>
    Within.part_rings (m := [.out, .host, .evq, .mod]) (postEvent_without (by decide)) p (by decide)
  unfold ringFault
  rw [hpost]
  exact modRing_at ..

/-- A poll answered for a ring that runs or waits: a ring fault, or the doorbell taken and a fetch begun. -/
theorem pollAnswer_eq {s : State} {p : Part} {r : Ring} (db head : DbWord) (hp : s.parts[p].rings[r].polled = true)
    (he : s.parts[p].rings[r].enable = true) (hst : s.parts[p].rings[r].state = 1 ∨ s.parts[p].rings[r].state = 2) :
    ∃ u, u.parts[p].rings[r] = headJudged head s.parts[p].rings[r] ∧ Within [.rings] s u ∧ pollAnswer p r db head s =
      if s.parts[p].rings[r].dbFault db = true then ringFault p r u else startFetch p r (u.modRing p r fun g => g.takeDb db) := by
  refine ⟨(s.modRing p r fun g => { g with polled := false }).modRing p r fun g => g.takeHead head, ?_,
    Within.trans (modRing_within ..) (modRing_within ..), ?_⟩
  · rw [modRing_at, modRing_at]
    rfl
  · have hrun : ¬((!s.parts[p].rings[r].enable) = true ∨ s.parts[p].rings[r].state ≠ 1 ∧ s.parts[p].rings[r].state ≠ 2) := by
      rw [he]
      rintro (h | ⟨h1, h2⟩)
      · cases h
      · exact hst.elim h1 h2
    exact (if_neg (by rw [hp]; decide)).trans (if_neg hrun)

/-- Once its reads have been issued, the words of a poll of such a ring are taken. -/
theorem doorbell_answered {s : State} {p : Part} {r : Ring} {g : RingState} (hg : s.parts[p].rings[r] = g)
    (hi : hostIssued s (fnOf p) (.word (.ring p r)) = true) (db head : DbWord) (hp : g.polled = true) (he : g.enable = true)
    (hst : g.state = 1 ∨ g.state = 2) :
    ∃ u, u.parts[p].rings[r] = headJudged head g ∧ Within [.out, .host, .rings] s u ∧
      exec (.doorbellReadDone (.ring p r) db head) s = .next
        (if g.dbFault db = true then ringFault p r u else startFetch p r (u.modRing p r fun g => g.takeDb db)) := by
  have ha := hostArrived_within (fnOf p) (.word (.ring p r)) s
  obtain rfl := ((congrArg (·[r]) (ha.part_rings p (by decide))).trans hg).symm
  obtain ⟨u, hu, hw, hanswer⟩ := pollAnswer_eq db head hp he hst
  refine ⟨u, hu, Within.trans (ha.mono (by decide)) (hw.mono (by decide)), ?_⟩
  rw [← hanswer]
  exact congrArg Host.Outcome.next (if_neg (by simp [pollFn, hi]))

/-- The doorbell word leaves of a ring what the head word has judged. -/
theorem takeDb_fetching (db : DbWord) (g : RingState) : (g.takeDb db).fetching = g.fetching := by
  unfold RingState.takeDb
  split <;> rfl

section Answer

variable {s : State} {p : Part} {r : Ring} {g : RingState} (hg : s.parts[p].rings[r] = g)
  (hi : hostIssued s (fnOf p) (.word (.ring p r)) = true) (hp : g.polled = true) (he : g.enable = true)
  (hst : g.state = 1 ∨ g.state = 2)
include hg hi hp he hst

theorem doorbell_faults {db : DbWord} (head : DbWord) (hf : g.dbFault db = true) :
    Does (.doorbellReadDone (.ring p r) db head) s fun t => t.parts[p].rings[r] = ringFaulted (headJudged head g) := by
  obtain ⟨u, hu, -, hx⟩ := doorbell_answered hg hi db head hp he hst
  rw [if_pos hf] at hx
  exact does_of_exec hx ((ringFault_ring p r u).trans (congrArg ringFaulted hu))

theorem doorbell_fetches {db : DbWord} (head : DbWord) (hf : g.dbFault db = false) (h0 : g.fetching = 0) :
    Does (.doorbellReadDone (.ring p r) db head) s fun t =>
      t.parts[p].rings[r] = fetchBegun (fetchable ((headJudged head g).takeDb db)) ((headJudged head g).takeDb db) ∧
      Within [.out, .host, .rings] s t := by
  obtain ⟨u, hu, hw, hx⟩ := doorbell_answered hg hi db head hp he hst
  rw [if_neg (Bool.eq_false_iff.1 hf)] at hx
  have hring : (u.modRing p r fun g => g.takeDb db).parts[p].rings[r] = (headJudged head g).takeDb db := by
    rw [modRing_at, hu]
  have hfetch : (headJudged head g).fetching = 0 := by
    rw [headJudged_eq]
    exact h0
  refine does_of_exec hx ⟨?_, ?_⟩
  · rw [startFetch_ring (by rw [hring, takeDb_fetching]; exact hfetch), hring]
  · exact Within.trans hw (Within.trans ((modRing_within ..).mono (by decide)) (startFetch_without (by decide)))

end Answer

/-! ### Descriptors arrive (R86, R92) -/

theorem within_part_fetchNo {m : List Piece} {s t : State} (w : Within m s t) (p : Part) (h : m.contains .partRegs = false) :
    t.parts[p].fetchNo = s.parts[p].fetchNo := by
  have := congrArg PartState.fetchNo (w.part p)
  simpa only [PartState.without, h, Bool.false_eq_true, if_false] using this

/-- The fetched descriptors of a ring, each by its number and its bytes. -/
theorem fetched_numbered (base : Word) (n : Nat) (ds : List Bytes) :
    ((fetched base n ds).map fun d => (d.idx, d.bytes)) = ds.mapIdx fun i b => (base + w32 i, b) := by
  simp [fetched, List.mapIdx_eq_zipIdx_map, Function.comp_def]

/-- A ring whose fetch has brought ds, the n-th descriptors of its partition and on. -/
def descsArrived (n : Nat) (ds : List Bytes) (g : RingState) : RingState :=
  { g with fetching := 0, consumed := g.consumed + w32 ds.length, descs := g.descs ++ fetched g.consumed n ds }

theorem fetchDone_arrives {s : State} {p : Part} {r : Ring} {g : RingState} (hg : s.parts[p].rings[r] = g)
    (hi : hostIssued s (fnOf p) (.descriptor p r) = true) {ds : List Bytes} (h0 : g.fetching ≠ 0) (hl : ds.length = g.fetching)
    (hb : ∀ b ∈ ds, b.length = 64) : Does (.descriptorFetchDone p r ds) s fun t =>
      t.parts[p].rings[r] = descsArrived s.parts[p].fetchNo ds g ∧ Within [.out, .host, .rings, .partRegs] s t := by
  have ha := hostArrived_within (fnOf p) (.descriptor p r) s
  have hn := within_part_fetchNo ha p (by decide)
  have hu : (hostArrived (fnOf p) (.descriptor p r) s).parts[p].rings[r] = g :=
    (congrArg (·[r]) (ha.part_rings p (by decide))).trans hg
  have hx : exec (.descriptorFetchDone p r ds) s = .next ((hostArrived (fnOf p) (.descriptor p r) s).modPart p fun q =>
      { q with fetchNo := (hostArrived (fnOf p) (.descriptor p r) s).parts[p].fetchNo + ds.length
               rings := upd q.rings r (descsArrived (hostArrived (fnOf p) (.descriptor p r) s).parts[p].fetchNo ds) }) := by
    refine congrArg Host.Outcome.next ((if_neg (by rw [hi]; decide)).trans (if_neg ?_))
    rw [hu]
    simpa [h0, hl] using hb
  refine does_of_exec hx ⟨?_, Within.trans (ha.mono (by decide)) (modPart_without _ _ _ _ fun _ => rfl)⟩
  rw [modPart_at, hn, upd_same, hu]

/-- Settles O34: the poll, its three answers and the fetch, each by its own rule. -/
theorem pollsAndFetches : Obligations.PollsAndFetches := by
  refine fun s p r g hg => ⟨?_, fun hi db head hp he hst hf => ?_, fun hi db head hp he hst hf h0 hde hhe hw => ?_,
    fun hi db head hp he hst h0 hde hhe hh => ?_, fun hi ds h0 hl hb => ?_⟩
  · rintro hl hf hs hh he h1 hn hc
    subst hg
    exact frame64Poll_polls hl hf hs hh (by rw [pollable, he, h1, hc]; rfl) hn
  · obtain ⟨t, ht, hring⟩ := doorbell_faults hg hi hp he hst head hf
    rw [headJudged_eq] at hring
    exact does_of_exec ht (by rw [hring]; exact ⟨rfl, rfl, rfl, rfl⟩)
  · obtain ⟨t, ht, hring, hwithin⟩ := doorbell_fetches hg hi hp he hst head hf h0
    rw [headJudged_accepted hhe hw, RingState.takeDb, if_pos hde] at hring
    refine does_of_exec ht ?_
    rw [hring]
    exact ⟨rfl, rfl, rfl, if_congr (fetchable_lt_wanted _) rfl rfl, rfl, hwithin⟩
  · have hf : g.dbFault db = false := by simp [RingState.dbFault, hde]
    obtain ⟨t, ht, hring, -⟩ := doorbell_fetches hg hi hp he hst head hf h0
    have hw : (head.count - g.head).toNat ≤ (g.written - g.head).toNat := by simp [hh]
    rw [headJudged_accepted hhe hw, RingState.takeDb, if_neg hde] at hring
    exact does_of_exec ht (by rw [hring]; exact ⟨rfl, rfl⟩)
  · obtain ⟨t, ht, hring, hwithin⟩ := fetchDone_arrives hg hi h0 hl hb
    refine does_of_exec ht ?_
    rw [hring]
    exact ⟨rfl, rfl, by rw [descsArrived, List.map_append, fetched_numbered], hwithin⟩

end Sys2Proof.PollProofs
end

section
/-! Descriptors: their start, their completion records, and SYNC (R84, R95–R101). -/

namespace Sys2Proof.DescriptorProofs

open Sys2Proof Sys2Proof.Machine Sys2Proof.MemoryProofs Sys2Proof.JobFaultProofs Sys2Proof.TimetableProofs
  Sys2Proof.RingProofs Sys2Proof.PollProofs

/-! ### A semaphore takes a value (R98–R100) -/

/-- A ring whose waits have seen a value of a semaphore (R100). -/
def ringSees (sem : Nat) (v : DWord) (g : RingState) : RingState := RingState.unwait { g with descs := g.descs.map (syncSees sem v) }

/-- A started descriptor that waits for nothing sees no value. -/
theorem syncSees_idle {d : Desc} (h : d.stage ≠ .active) (sem : Nat) (v : DWord) : syncSees sem v d = d := if_neg fun hc => h hc.1

section SemWrite

variable (p : Part) (sem : Nat) (v : DWord) (s : State)

theorem semWrite_part : (semWrite p sem v s).parts[p] =
    { s.parts[p] with sems := tabSet 0 s.parts[p].sems sem v, rings := s.parts[p].rings.map (ringSees sem v) } := by
  have hseq : ∀ (l : List Comb) (u : State), (forEach l (fun k s => s.modSeq k fun q =>
      { q with arms := q.arms.map (armSees sem v), wait := waitSees sem v q.wait }) u).parts = u.parts := fun l u =>
    forEach_keeps (fun s => s.parts) _ _ _ fun _ _ => rfl
  unfold semWrite
  rw [modPart_at, hseq, semPut, modPart_at]
  rfl

theorem semWrite_ring (r : Ring) : (semWrite p sem v s).parts[p].rings[r] = ringSees sem v s.parts[p].rings[r] := by
  rw [semWrite_part]
  exact Vector.getElem_map ..

theorem semVal_semWrite (i : Nat) : semVal (semWrite p sem v s) p i = if i = sem then v else semVal s p i := by
  unfold semVal
  rw [semWrite_part]
  exact tabGet_tabSet ..

theorem semWrite_within : Within [.seq, .rings, .sems] s (semWrite p sem v s) := semWrite_without (by decide)

end SemWrite

/-- Whether a semaphore satisfies a wait for a value: GE, or EQ (R100). -/
def waitHolds (s : State) (p : Part) (i : Nat) (ge : Bool) (v : DWord) : Bool :=
  if ge then decide (v ≤ semVal s p i) else decide (semVal s p i = v)

theorem semVal_congr {s t : State} {p : Part} (h : t.parts[p].sems = s.parts[p].sems) (i : Nat) : semVal t p i = semVal s p i :=
  congrArg (tabGet 0 · i) h

/-! ### SYNC (R99, R100) -/

theorem finish_within (p : Part) (r : Ring) (idx : Word) (st : Byte) (x : Word) (y : BitVec 56) (k : Comb) (s : State) :
    Within [.rings] s (finish p r idx st x y k s) := finish_without (by decide)

/-- Descriptor d of a ring is decided with OK (R101). -/
def EndedOk (t : State) (p : Part) (r : Ring) (d : Desc) : Prop :=
  ∃ e ∈ t.parts[p].rings[r].descs, e.idx = d.idx ∧ e.stage = .done ∧ e.status = stOK

/-- A descriptor of a ring that is not decided yet finishes with OK. -/
theorem finish_endsOk {s : State} {p : Part} {r : Ring} {d : Desc} (hm : d ∈ s.parts[p].rings[r].descs) (hs : d.stage ≠ .done)
    (k : Comb) : EndedOk (finish p r d.idx stOK 0 0 k s) p r d := by
  obtain ⟨e, he, hi, hst, hok, -, -⟩ := finish_ends hm hs stOK 0 0 k
  exact ⟨e, he, hi, hst, hok⟩

section Sync

variable {s : State} {p : Part} {r : Ring} {d : Desc} (hd : startedDesc s p r opSync = some d)
include hd

theorem sync_mem : d ∈ s.parts[p].rings[r].descs ∧ d.stage ≠ .done ∧ d.stage ≠ .active := by
  obtain ⟨hm, hs⟩ := startedDesc_mem hd
  exact ⟨hm, by rw [hs]; decide, by rw [hs]; decide⟩

variable {op : Nat} (hop : d.field 18 1 % 4 = op)
include hop

theorem startedSync_eq : startedSync s p r op = some d := by
  unfold startedSync
  rw [hd]
  exact if_pos hop

theorem syncWrite_eq : syncWrite p r op s = finish p r d.idx stOK 0 0 (serving s p r) (semApply p d.sem (op == 3) d.value s) := by
  unfold syncWrite
  rw [startedSync_eq hd hop]

/-- SET and ADD: the semaphore changes, the descriptor completes. -/
theorem syncWrite_does : (∀ i, semVal (syncWrite p r op s) p i =
      if i = d.sem then (if op == 3 then semVal s p d.sem + d.value else d.value) else semVal s p i) ∧
    EndedOk (syncWrite p r op s) p r d ∧ Within [.seq, .rings, .sems] s (syncWrite p r op s) := by
  obtain ⟨hm, hs, ha⟩ := sync_mem hd
  refine ⟨fun i => ?_, ?_, syncWrite_without (by decide)⟩
  · rw [syncWrite_eq hd hop, semVal_congr ((finish_within ..).part_sems p (by decide))]
    exact semVal_semWrite ..
  · rw [syncWrite_eq hd hop]
    refine finish_endsOk ?_ hs _
    rw [semApply, semWrite_ring]
    exact List.mem_map.2 ⟨d, hm, syncSees_idle ha ..⟩

theorem syncWait_eq : syncWait p r op s =
    if waitHolds s p d.sem (op == 0) d.value = true then finish p r d.idx stOK 0 0 (serving s p r) s
    else (activate p r d.idx id s).modRing p r fun g => { g with state := if g.state = 1 then 2 else g.state } := by
  unfold syncWait
  rw [startedSync_eq hd hop]
  simp only [waitHolds, beq_iff_eq]

theorem syncWait_met (hw : waitHolds s p d.sem (op == 0) d.value = true) :
    EndedOk (syncWait p r op s) p r d ∧ Within [.rings] s (syncWait p r op s) := by
  obtain ⟨hm, hs, -⟩ := sync_mem hd
  rw [syncWait_eq hd hop, if_pos hw]
  exact ⟨finish_endsOk hm hs _, finish_within ..⟩

theorem syncWait_waits (hw : waitHolds s p d.sem (op == 0) d.value = false) (h1 : s.parts[p].rings[r].state = 1) :
    (syncWait p r op s).parts[p].rings[r].state = 2 ∧
    (∃ e ∈ (syncWait p r op s).parts[p].rings[r].descs, e.idx = d.idx ∧ e.stage = .active) ∧
    Within [.rings] s (syncWait p r op s) := by
  have h1' : (activate p r d.idx id s).parts[p].rings[r].state = 1 := by
    rw [activate, State.modDesc, modRing_at]
    exact h1
  refine ⟨?_, ?_, syncWait_without (by decide)⟩ <;> rw [syncWait_eq hd hop, if_neg (by rw [hw]; decide), modRing_at]
  · exact if_pos h1'
  · exact activate_active (sync_mem hd).1

end Sync

/-- Settles O36: SET and ADD by what they write, the waits by whether their semaphore satisfies them. -/
theorem syncDescriptors : Obligations.SyncDescriptors := by
  refine fun s p r d hd => ⟨fun h => ?_, fun h => ?_, fun h hv => ?_, fun h hv h1 => ?_, fun h hv => ?_⟩
  · exact does_of_exec rfl (syncWrite_does hd h)
  · obtain ⟨hv, hok, hw⟩ := syncWrite_does hd h
    refine does_of_exec rfl ⟨fun i => ?_, hok, hw⟩
    rw [hv]
    split
    · next hi => rw [hi]; rfl
    · rfl
  · exact does_of_exec rfl (syncWait_met hd h (decide_eq_true hv))
  · exact does_of_exec rfl (syncWait_waits hd h (decide_eq_false (BitVec.not_le.2 hv)) h1)
  · exact does_of_exec rfl (syncWait_met hd h (decide_eq_true hv))

/-! ### A descriptor starts (R95–R97) -/

theorem nextToStart_mem {g : RingState} {d : Desc} (h : nextToStart g = some d) : d ∈ g.descs ∧ d.stage = .fetched := by
  unfold nextToStart at h
  split at h
  · cases h
  · next e he =>
    obtain rfl : e = d := by
      dsimp only at h
      split at h
      · cases h
      · exact Option.some.inj h
    exact ⟨List.mem_of_find?_eq_some he, by simpa using List.find?_some he⟩

section Start

variable {s : State} {p : Part} {r : Ring} {d : Desc} (hn : nextToStart s.parts[p].rings[r] = some d)
include hn

/-- The next descriptor decided before it starts. -/
theorem start_ends (st : Byte) (x : Word) (y : BitVec 56) (k : Comb) :
    Ended (finish p r d.idx st x y k (s.modRing p r fun g => { g with afterWait := false })) p r d st x y := by
  obtain ⟨hm, hf⟩ := nextToStart_mem hn
  exact finish_ends (by rw [modRing_at]; exact hm) (by rw [hf]; decide) st x y k

theorem start_fails {st : Byte} {x : Word} {y : BitVec 56} (hb : startBad s p d = some (st, x, y)) :
    Ended (effStart p r s) p r d st x y := by
  have he : effStart p r s = finish p r d.idx st x y (serving s p r) (s.modRing p r fun g => { g with afterWait := false }) := by
    unfold effStart
    rw [hn]
    dsimp only
    rw [hb]
  rw [he]
  exact start_ends hn ..

variable (hb : startBad s p d = none)
include hb

theorem start_skips (hp : descPred s p d = some false) : ∃ x, Ended (effStart p r s) p r d stSkipped x 0 := by
  have he : effStart p r s = finish p r d.idx stSkipped (w32 (d.field 2 1 % 16)) 0 (serving s p r)
      (s.modRing p r fun g => { g with afterWait := false }) := by
    unfold effStart
    rw [hn]
    dsimp only
    rw [hb, hp]
  rw [he]
  exact ⟨_, start_ends hn ..⟩

theorem start_waits (hp : descPred s p d = none) : effStart p r s = s := by
  unfold effStart
  rw [hn]
  dsimp only
  rw [hb, hp]

theorem start_starts (hp : descPred s p d = some true) :
    ∃ e ∈ (effStart p r s).parts[p].rings[r].descs, e.idx = d.idx ∧ e.stage = .started := by
  have he : effStart p r s = s.modRing p r fun g =>
      { g.modDesc d.idx fun e => { e with stage := .started, comb := serving s p r, begun := true } with afterWait := d.isWait } := by
    unfold effStart
    rw [hn]
    dsimp only
    rw [hb, hp]
  rw [he, modRing_at]
  exact ⟨_, List.mem_map.2 ⟨d, (nextToStart_mem hn).1, if_pos rfl⟩, rfl, rfl⟩

end Start

/-! ### A completion record is written (R84, R99, R101) -/

/-- A posted write presented in a state leaves or waits there (R426). -/
theorem hostPut_posted (f : Fn) (n : Nat) (o : Output) (s : State) : Posted f [.post n o] s (hostPut f (.post n o) s) := by
  have hmay : mayIssue s f (.post n o) = canRequest s f := Bool.and_true _
  unfold Posted
  split
  · next h => rw [hostPut_issued h.1 (hmay.trans h.2)]; exact ⟨rfl, rfl⟩
  · next h =>
    rw [hostPut_waits (by rw [hmay]; simpa [Classical.or_iff_not_imp_left] using h)]
    exact ⟨rfl, by simp⟩

theorem posted_congr {f : Fn} {xs : List HostItem} {s t s' t' : State} (h : Posted f xs s t) (hf : s'.fns = s.fns)
    (hh : s'.host = s.host) (ho : s'.out = s.out) (hth : t'.host = t.host) (hto : t'.out = t.out) : Posted f xs s' t' := by
  have hs : HostItem.sent s' f = HostItem.sent s f := funext fun x => sent_congr hf
  have hc : canRequest s' f = canRequest s f := by simp only [canRequest, hf]
  rwa [Posted, hs, hc, hh, ho, hth, hto]

/-- The semaphore that a descriptor's completion increments, where SIG_EN is set and the status signals (R99). -/
def signalled (p : Part) (d : Desc) (s : State) : State :=
  if bits (fieldAt d.bytes 10 2) 15 15 = 1 ∧ signals d.status then
    semWrite p (bits (fieldAt d.bytes 10 2) 11 0) (semVal s p (bits (fieldAt d.bytes 10 2) 11 0) + 1) s
  else s

/-- The write of a descriptor's completion record: into the next slot of the ring's pass. -/
def recordPost (s : State) (p : Part) (r : Ring) (d : Desc) : HostItem :=
  .post 32 (.completion p r (s.parts[p].rings[r].slotAddr s.parts[p].rings[r].written)
    (completionRec d r (beatOf s (serving s p r)) (phaseOf s.parts[p].rings[r].written (ringLog s.parts[p].rings[r].pass))))

section Record

variable {s : State} {p : Part} {r : Ring} {d : Desc}

theorem signalled_within : Within [.seq, .rings, .sems] s (signalled p d s) := by
  unfold signalled
  split
  · exact semWrite_within ..
  · rfl

theorem signalled_written : (signalled p d s).parts[p].rings[r].written = s.parts[p].rings[r].written := by
  unfold signalled
  split
  · rw [semWrite_ring]; rfl
  · rfl

theorem semVal_signalled (i : Nat) : semVal (signalled p d s) p i = semVal s p i +
    if bits (fieldAt d.bytes 10 2) 15 15 = 1 ∧ signals d.status = true ∧ i = bits (fieldAt d.bytes 10 2) 11 0 then 1 else 0 := by
  unfold signalled
  by_cases h : bits (fieldAt d.bytes 10 2) 15 15 = 1 ∧ signals d.status = true
  · rw [if_pos h, semVal_semWrite]
    by_cases hi : i = bits (fieldAt d.bytes 10 2) 11 0
    · rw [if_pos hi, if_pos ⟨h.1, h.2, hi⟩, hi]
    · rw [if_neg hi, if_neg (fun hc => hi hc.2.2), add_zero]
  · rw [if_neg h, if_neg (fun hc => h ⟨hc.1, hc.2.1⟩), add_zero]

theorem writeRecord_eq : writeRecord p r d s =
    (hostPut (fnOf p) (recordPost s p r d) (signalled p d s)).modRing p r fun g => g.retire d.idx := by
  have hb : beatOf (signalled p d s) (serving s p r) = beatOf s (serving s p r) := by
    unfold beatOf
    rw [signalled_within.comb_hum _ (by decide)]
  unfold recordPost
  rw [← hb]
  rfl

theorem writeRecord_posts : Posted (fnOf p) [recordPost s p r d] s (writeRecord p r d s) := by
  have hw : Within [.seq, .rings, .sems] s (signalled p d s) := signalled_within
  rw [writeRecord_eq]
  exact posted_congr (hostPut_posted ..) (hw.fns_eq (by decide)).symm (hw.host_eq (by decide)).symm (hw.out_eq (by decide)).symm
    rfl rfl

theorem hostPut_within (f : Fn) (x : HostItem) (s : State) : Within [.out, .host] s (hostPut f x s) := hostPut_without (by decide)

theorem writeRecord_ring : (writeRecord p r d s).parts[p].rings[r] = ((signalled p d s).parts[p].rings[r]).retire d.idx := by
  rw [writeRecord_eq, modRing_at]
  exact congrArg (fun v : Vector RingState 16 => v[r].retire d.idx) ((hostPut_within ..).part_rings p (by decide))

theorem semVal_writeRecord (i : Nat) : semVal (writeRecord p r d s) p i = semVal (signalled p d s) p i := by
  rw [writeRecord_eq]
  exact (semVal_congr ((modRing_within ..).part_sems p (by decide)) i).trans
    (semVal_congr ((hostPut_within ..).part_sems p (by decide)) i)

end Record

theorem findDesc_idx {g : RingState} {idx : Word} {d : Desc} (h : findDesc g idx = some d) : d.idx = idx := by
  simpa using List.find?_some h

/-- What DESCRIPTOR_COMPLETE makes of a decided descriptor. -/
theorem complete_writes {s : State} {p : Part} {r : Ring} {idx : Word} {d : Desc}
    (hd : findDesc s.parts[p].rings[r] idx = some d) (hs : d.stage = .done) : effComplete p r idx s = writeRecord p r d s := by
  unfold effComplete
  rw [hd]
  exact if_pos hs

theorem complete_stays {s : State} {p : Part} {r : Ring} {idx : Word} {d : Desc}
    (hd : findDesc s.parts[p].rings[r] idx = some d) (hs : d.stage ≠ .done) : effComplete p r idx s = s := by
  unfold effComplete
  rw [hd]
  exact if_neg hs

/-- Settles O35: the start by its check and its predicate, the completion by the record written. -/
theorem descriptorsStartAndComplete : Obligations.DescriptorsStartAndComplete := by
  refine ⟨fun s p r d hn => ⟨fun hb hp => ?_, fun hb hp => ?_, fun st x y hb => ?_, fun hb hp => ?_⟩,
    fun s p r idx d hd => ⟨fun hs => ?_, fun hs => ?_⟩⟩
  · exact does_of_exec rfl ⟨start_starts hn hb hp, effStart_without (by decide)⟩
  · obtain ⟨x, e, he, hi, hst, hok, -, -⟩ := start_skips hn hb hp
    exact does_of_exec rfl ⟨⟨e, he, hi, hst, hok⟩, effStart_without (by decide)⟩
  · exact does_of_exec rfl ⟨start_fails hn hb, effStart_without (by decide)⟩
  · exact congrArg Host.Outcome.next (start_waits hn hb hp)
  · obtain rfl := findDesc_idx hd
    refine does_of_exec (congrArg Host.Outcome.next (complete_writes hd hs)) ⟨writeRecord_posts, ?_, fun e he => ?_, fun i => ?_,
      writeRecord_without (by decide)⟩
    · rw [writeRecord_ring, ← signalled_written (d := d)]
      rfl
    · rw [writeRecord_ring] at he
      simpa using (List.mem_filter.1 he).2
    · rw [semVal_writeRecord, semVal_signalled]
  · exact congrArg Host.Outcome.next (complete_stays hd hs)

end Sys2Proof.DescriptorProofs
end

section
/-! The issue of one instruction whose predicate lets it run, and the predicate and semaphore instructions (R115, R123–R130,
R134). -/

namespace Sys2Proof.PredicateProofs

open Sys2Proof Sys2Proof.Machine Sys2Proof.MemoryProofs Sys2Proof.JobFaultProofs Sys2Proof.RingProofs Sys2Proof.DescriptorProofs

/-! ### One sequencer changed -/

theorem modSeq_seq (s : State) (k : Comb) (f : Seq → Seq) : (s.modSeq k f).combs[k].seq = f s.combs[k].seq :=
  congrArg CombState.seq (modSeq_same s k f)

theorem modSeq_within (s : State) (k : Comb) (f : Seq → Seq) : Within [.seq] s (s.modSeq k f) :=
  modSeq_without _ _ _ _ (by decide)

/-- The state after comb k's sequencer has stepped to its next instruction. -/
def stepped (k : Comb) (s : State) : State := stepPc k (targetOf s k 1) s

section Stepped

variable (k : Comb) (s : State)

theorem stepped_seq : (stepped k s).combs[k].seq = { s.combs[k].seq with
    pc := s.combs[k].seq.pc + 8, issued := s.combs[k].seq.issued + 1, state := 1, stall := 0, wait := none } := by
  have hpc : w32 (targetOf s k 1).toNat = s.combs[k].seq.pc + 8 := by
    have ht : (targetOf s k 1).toNat = s.combs[k].seq.pc.toNat + 8 := by
      unfold targetOf
      omega
    apply BitVec.eq_of_toNat_eq
    simp [w32, ht]
  rw [stepped, stepPc, modSeq_seq, hpc]

theorem stepped_within : Within [.seq] s (stepped k s) := stepPc_without (by decide)

theorem sreg_stepped (r : SReg) : sreg (stepped k s) k r = sreg s k r := by
  simp only [sreg, stepped_seq]

theorem partOf_stepped : partOf (stepped k s) k = partOf s k := within_partOf (stepped_within k s) (by decide) (by decide) k

end Stepped

/-! ### An instruction whose predicate lets it run (R115, R132, R133) -/

/-- Comb k's sequencer issues an instruction that runs and falls through within the image. -/
structure Issues (s : State) (k : Comb) (h : PredF) : Prop where
  can : canIssue s k = true
  word : fetchBad s k = false
  run : guardOf s k h false = .run
  window : windowFull s.combs[k].seq .run = false
  fall : inImage s k (targetOf s k 1) = true

section Issue

variable {s : State} {k : Comb} {h : PredF} (hi : Issues s k h)
include hi

/-- The predicate of an instruction that runs is not pending. -/
theorem Issues.resolved : (h.pen && s.combs[k].seq.preds[h.pred] == .pending) = false := by
  have hr := hi.run
  unfold guardOf at hr
  cases hp : h.pen with
  | false => rfl
  | true =>
    cases hv : s.combs[k].seq.preds[h.pred] with
    | pending =>
      rw [hp, hv] at hr
      cases hr
    | isTrue => rfl
    | isFalse => rfl

theorem Issues.guard (b : Bool) : guardOf s k h b = .run := by
  have hr := hi.run
  have hn := hi.resolved
  unfold guardOf at hr ⊢
  cases hp : h.pen with
  | false => rfl
  | true =>
    cases hv : s.combs[k].seq.preds[h.pred] with
    | pending =>
      rw [hp, hv] at hn
      cases hn
    | isTrue => rwa [hp, hv] at hr
    | isFalse => rwa [hp, hv] at hr

theorem Issues.issue (b : Bool) (body : State → State) : issue k h b body s = body (stepped k s) := by
  unfold Machine.issue issueTo
  simp only [hi.can, hi.word, hi.guard b, hi.window, hi.fall, Bool.not_true, Bool.false_eq_true, if_false, if_true]
  rfl

variable {b : Bool} {check : State → Block} (body : State → State)

theorem Issues.runs (hc : check s = .none) : issueIf k h b check body s = body (stepped k s) := by
  unfold issueIf
  simp only [hi.can, hi.word, hi.guard b, hi.window, hc, hi.issue, Bool.not_true, Bool.false_eq_true, or_self, if_false]

theorem Issues.stalls {c : Nat} (hc : check s = .stall c) : issueIf k h b check body s = stallWith k c s := by
  unfold issueIf
  simp only [hi.can, hi.word, hi.guard b, hi.window, hc, Bool.not_true, Bool.false_eq_true, or_self, if_false]

theorem Issues.refuses (hc : check s = .bad) : issueIf k h b check body s = illegal k s := by
  unfold issueIf
  simp only [hi.can, hi.word, hi.guard b, hi.window, hc, Bool.not_true, Bool.false_eq_true, or_self, if_false]

end Issue

theorem stallWith_seq (k : Comb) (c : Nat) (s : State) :
    (stallWith k c s).combs[k].seq = { s.combs[k].seq with state := 2, stall := BitVec.ofNat 4 c } := modSeq_seq ..

theorem stallWith_within (k : Comb) (c : Nat) (s : State) : Within [.seq] s (stallWith k c s) := stallWith_without (by decide)

/-! ### A target armed or resolved (R123–R125) -/

/-- Comb k has stepped, and predicate m has taken a state. -/
def Takes (s : State) (k : Comb) (m : PredIx) (v : PState) (t : State) : Prop := t.combs[k].seq.pc = s.combs[k].seq.pc + 8 ∧
  (∀ i : PredIx, t.combs[k].seq.preds[i] = if i = m then v else s.combs[k].seq.preds[i]) ∧ Within [.seq] s t

/-- Comb k stalls on a target that is still PENDING (R124). -/
def StallsOnTarget (s : State) (k : Comb) (t : State) : Prop := t.combs[k].seq.stall = 5 ∧ t.combs[k].seq.state = 2 ∧
  t.combs[k].seq.preds = s.combs[k].seq.preds ∧ t.combs[k].seq.pc = s.combs[k].seq.pc ∧ Within [.seq] s t

theorem stallWith_onTarget (s : State) (k : Comb) : StallsOnTarget s k (stallWith k 5 s) := by
  unfold StallsOnTarget
  rw [stallWith_seq]
  exact ⟨rfl, rfl, rfl, rfl, stallWith_within ..⟩

theorem setPred_seq (k : Comb) (m : PredIx) (v : PState) (a : Arm) (s : State) : (setPred k m v a s).combs[k].seq =
    { s.combs[k].seq with preds := upd s.combs[k].seq.preds m fun _ => v, arms := upd s.combs[k].seq.arms m fun _ => a } :=
  modSeq_seq ..

theorem upd_at {α : Type} {n : Nat} (v : Vector α n) (m : Fin n) (x : α) (i : Fin n) :
    (upd v m fun _ => x)[i] = if i = m then x else v[i] := by
  simp only [Fin.getElem_fin, upd_get, Fin.ext_iff, eq_comm]

theorem setPred_takes (k : Comb) (m : PredIx) (v : PState) (a : Arm) (s : State) :
    Takes s k m v (setPred k m v a (stepped k s)) := by
  refine ⟨?_, fun i => ?_, Within.trans (stepped_within k s) (setPred_without (by decide))⟩
  · rw [setPred_seq, stepped_seq]
  · rw [setPred_seq, stepped_seq]
    exact upd_at ..

section Target

variable {s : State} {k : Comb} {m : PredIx}

theorem armCheck_p0 (extra : Bool) (s : State) (k : Comb) : armCheck k 0 extra s = .bad := if_pos (.inl rfl)

theorem armCheck_pending (hm : m ≠ 0) (hp : s.combs[k].seq.preds[m] = .pending) : armCheck k m false s = .stall 5 := by
  have hm' : m.val ≠ 0 := fun e => hm (Fin.ext e)
  simp only [armCheck, hm', hp, Bool.false_eq_true, or_self, if_false, if_true]

theorem armCheck_free (hm : m ≠ 0) (hp : s.combs[k].seq.preds[m] ≠ .pending) : armCheck k m false s = .none := by
  have hm' : m.val ≠ 0 := fun e => hm (Fin.ext e)
  simp only [armCheck, hm', hp, Bool.false_eq_true, or_self, if_false]

variable {h : PredF} (hi : Issues s k h)
include hi

/-- An instruction whose target is PENDING stalls, whatever it would do (R124). -/
theorem target_stalls (hm : m ≠ 0) (hp : s.combs[k].seq.preds[m] = .pending) (body : State → State) :
    StallsOnTarget s k (issueIf k h false (armCheck k m false) body s) := by
  rw [hi.stalls body (armCheck_pending hm hp)]
  exact stallWith_onTarget s k

variable (hm : m ≠ 0) (hp : s.combs[k].seq.preds[m] ≠ .pending)
include hm hp

theorem pset_takes (v : Bool) : Does (.pset k h m v) s (Takes s k m (pstate v)) :=
  does_of_exec (congrArg Host.Outcome.next (hi.runs _ (armCheck_free hm hp))) (setPred_takes ..)

theorem pcheck_arms (b c : SReg) : Does (.pcheck k h b c m 0) s fun t =>
    Takes s k m .pending t ∧ t.combs[k].seq.arms[m] = .finite (s.combs[k].seq.issued + 1) := by
  refine does_of_exec (congrArg Host.Outcome.next (hi.runs _ (armCheck_free hm hp))) ⟨setPred_takes .., ?_⟩
  simp only [if_true, setPred_seq, upd_same, stepped_seq]

/-- PCHECK in a mode other than FINITE resolves its target at once (R128). -/
theorem pcheck_resolves {mode : BitVec 4} (h0 : mode ≠ 0) (h3 : mode.toNat ≤ 3) (b c : SReg) :
    Does (.pcheck k h b c m mode) s (Takes s k m (pstate (pcheckNow mode (sreg s k b) (sreg s k c)))) := by
  have hx : decide (3 < mode.toNat) = false := decide_eq_false (by omega)
  have hc : armCheck k m (decide (3 < mode.toNat)) s = .none := by rw [hx]; exact armCheck_free hm hp
  refine does_of_exec (congrArg Host.Outcome.next (hi.runs _ hc)) ?_
  simp only [h0, if_false, sreg_stepped]
  exact setPred_takes ..

/-- PSEM GE resolves its target at once; PSEM DECISION arms it (R130). -/
theorem psem_takes {p : Part} (hpart : partOf s k = some p) (b : SReg) (ge : Bool) (sem : BitVec 12) :
    Does (.psem k h b m ge sem) s
      (Takes s k m (if ge then pstate (decide (sreg s k b ≤ semVal s p sem.toNat)) else .pending)) := by
  refine does_of_exec (congrArg Host.Outcome.next (hi.runs _ (armCheck_free hm hp))) ?_
  have hv : semVal (stepped k s) p sem.toNat = semVal s p sem.toNat := rfl
  simp only [partOf_stepped, hpart, sreg_stepped, hv]
  cases ge with
  | true => exact setPred_takes ..
  | false =>
    cases decision (semVal s p sem.toNat) with
    | none => exact setPred_takes ..
    | some r => exact setPred_takes ..

end Target

/-! ### PVOTE (R129) -/

theorem maskResolved_congr {s t : State} {k : Comb} {mask : BitVec 16}
    (h : ∀ m : PredIx, mask.getLsbD m.val = true → t.combs[k].seq.preds[m] = s.combs[k].seq.preds[m]) :
    maskResolved t k mask = maskResolved s k mask ∧ maskTrue t k mask = maskTrue s k mask := by
  have hm : ∀ (f : PState → Bool) (m : PredIx), (!mask.getLsbD m.val || f t.combs[k].seq.preds[m]) =
      (!mask.getLsbD m.val || f s.combs[k].seq.preds[m]) := fun f m => by
    cases hb : mask.getLsbD m.val with
    | false => rfl
    | true => rw [h m hb]
  exact ⟨congrArg (fins 16).all (funext (hm (· != .pending))), congrArg (fins 16).all (funext (hm (· == .isTrue)))⟩

theorem votesOnFabric_congr {m : List Piece} {s t : State} (w : Within m s t) (hr : m.contains .router = false)
    (hp : m.contains .partRegs = false) (p : Part) : votesOnFabric t p = votesOnFabric s p := by
  unfold votesOnFabric memberJob
  rw [within_part_tt w p hp, within_part_nextTt w p hp, w.comb_router p hr]

/-- Comb k awaits the verdict over a mask, and its part v has joined its partition's votes. -/
def votePosted (k : Comb) (p : Part) (mask tag : BitVec 16) (v : Bool) (s : State) : State :=
  (setPred k 0 .pending (.verdict mask tag true) s).modPart p fun q => { q with votes := q.votes ++ [⟨posOf p k, false, v, tag⟩] }

section Vote

variable {s : State} {k : Comb} {p : Part} {mask tag : BitVec 16}

/-- A comb that awaits its mask posts its part to its partition, which votes among its own combs, once the mask has resolved. -/
theorem postVote_eq (ha : s.combs[k].seq.arms[(0 : PredIx)] = .verdict mask tag false) (hp : partOf s k = some p)
    (hv : votesOnFabric s p = false) : postVote k s =
      if maskResolved s k mask = true then votePosted k p mask tag (maskTrue s k mask) s else s := by
  have hv' : votesOnFabric (setPred k 0 .pending (.verdict mask tag true) s) p = false :=
    (votesOnFabric_congr (m := [.seq]) (setPred_without (by decide)) (by decide) (by decide) p).trans hv
  have hadd : ∀ v, addVote p v (setPred k 0 .pending (.verdict mask tag true) s) =
      (setPred k 0 .pending (.verdict mask tag true) s).modPart p fun q => { q with votes := q.votes ++ [v] } := fun v =>
    if_neg (by rw [hv']; decide)
  unfold postVote
  rw [ha, hp]
  simp only [hadd]
  rfl

/-- The state in which PVOTE has armed p0. -/
def voteArmed (k : Comb) (mask : BitVec 16) (s : State) : State :=
  setPred k 0 .pending (.verdict mask ((sreg s k 2).setWidth 16) false) (stepped k s)

theorem voteArmed_mask (h0 : mask.getLsbD 0 = false) : maskResolved (voteArmed k mask s) k mask = maskResolved s k mask ∧
    maskTrue (voteArmed k mask s) k mask = maskTrue s k mask := by
  refine maskResolved_congr fun m hm => ?_
  have hm0 : m ≠ 0 := by
    rintro rfl
    exact absurd hm (by rw [show (0 : PredIx).val = 0 from rfl, h0]; decide)
  obtain ⟨-, hpreds, -⟩ := setPred_takes k 0 .pending (.verdict mask ((sreg s k 2).setWidth 16) false) s
  exact (hpreds m).trans (if_neg hm0)

theorem voteArmed_within : Within [.seq] s (voteArmed k mask s) :=
  Within.trans (stepped_within k s) (setPred_without (by decide))

variable {h : PredF} (hi : Issues s k h) (h0 : mask.getLsbD 0 = false)
include hi h0

theorem pvote_stalls (hpend : s.combs[k].seq.preds[(0 : PredIx)] = .pending) :
    Does (.pvote k h mask) s (StallsOnTarget s k) :=
  does_of_exec (congrArg Host.Outcome.next (hi.stalls _ (by simp only [h0, hpend, Bool.false_eq_true, if_false, if_true])))
    (stallWith_onTarget s k)

theorem exec_pvote (hfree : s.combs[k].seq.preds[(0 : PredIx)] ≠ .pending) (hp : partOf s k = some p)
    (hv : votesOnFabric s p = false) : exec (.pvote k h mask) s = .next (if maskResolved s k mask = true then
      votePosted k p mask ((sreg s k 2).setWidth 16) (maskTrue s k mask) (voteArmed k mask s)
      else voteArmed k mask s) := by
  have harm : (voteArmed k mask s).combs[k].seq.arms[(0 : PredIx)] = .verdict mask ((sreg s k 2).setWidth 16) false := by
    unfold voteArmed
    rw [setPred_seq, upd_same]
  have hpart : partOf (voteArmed k mask s) k = some p :=
    (within_partOf voteArmed_within (by decide) (by decide) k).trans hp
  have hvote : votesOnFabric (voteArmed k mask s) p = false :=
    (votesOnFabric_congr voteArmed_within (by decide) (by decide) p).trans hv
  obtain ⟨hres, htrue⟩ := voteArmed_mask (s := s) (k := k) h0
  rw [← hres, ← htrue, ← postVote_eq harm hpart hvote]
  unfold voteArmed
  rw [← sreg_stepped k s 2]
  exact congrArg Host.Outcome.next (hi.runs _ (by simp only [h0, hfree, Bool.false_eq_true, if_false]))

theorem pvote_votes (hfree : s.combs[k].seq.preds[(0 : PredIx)] ≠ .pending) (hp : partOf s k = some p)
    (hv : votesOnFabric s p = false) : Does (.pvote k h mask) s fun t =>
      t.combs[k].seq.preds[(0 : PredIx)] = .pending ∧ t.combs[k].seq.pc = s.combs[k].seq.pc + 8 ∧
      t.parts[p].votes = (if maskResolved s k mask = true then
        s.parts[p].votes ++ [⟨posOf p k, false, maskTrue s k mask, (sreg s k 2).setWidth 16⟩] else s.parts[p].votes) ∧
      Within [.seq, .partRegs] s t := by
  have hwithin : Within [.seq, .partRegs] s (voteArmed k mask s) := voteArmed_within.mono (by decide)
  obtain ⟨hpc, hpreds, -⟩ := setPred_takes k 0 .pending (.verdict mask ((sreg s k 2).setWidth 16) false) s
  have hx := exec_pvote hi h0 hfree hp hv
  by_cases hres : maskResolved s k mask = true
  · rw [if_pos hres] at hx
    refine does_of_exec hx ⟨?_, ?_, ?_, Within.trans hwithin
      (Within.trans (setPred_without (by decide)) (modPart_without _ _ _ _ fun _ => rfl))⟩
    · rw [votePosted, modPart_combs, setPred_seq, upd_same]
    · rw [votePosted, modPart_combs, setPred_seq]
      exact hpc
    · rw [votePosted, modPart_at, if_pos hres]
      rfl
  · rw [if_neg hres] at hx
    exact does_of_exec hx ⟨(hpreds 0).trans (if_pos rfl), hpc, (if_neg hres).symm, hwithin⟩

end Vote

/-! ### Semaphore operations and waits (R99, R100, R134, R135) -/

/-- A semaphore that takes a value moves no program counter. -/
theorem semApply_pc (p : Part) (i : Nat) (add : Bool) (v : DWord) (s : State) (k : Comb) :
    (semApply p i add v s).combs[k].seq.pc = s.combs[k].seq.pc :=
  forEach_keeps (fun s => s.combs[k].seq.pc) _ _ _ fun j u => by
    simp only [State.modSeq, Fin.getElem_fin, modComb_get]
    split <;> rfl

section Semaphores

variable {s : State} {k : Comb} {h : PredF} (hi : Issues s k h)
include hi

/-- An instruction that runs is held only behind what the retention buffer holds (R135). -/
theorem mustHold_runs : mustHold s k h = !s.combs[k].seq.retain.isEmpty := by
  rw [mustHold, hi.resolved, Bool.false_or]

theorem mustHold_stepped : mustHold (stepped k s) k h = !s.combs[k].seq.retain.isEmpty := by
  rw [← mustHold_runs hi, mustHold, mustHold, stepped_seq]

variable {sem : Word} (hsem : sem.toNat ≤ 4095)
include hsem

theorem semCheck_passes (hr : s.combs[k].seq.retain = [] ∨ heldEntries s.combs[k].seq < retainEntries) :
    semCheck k h sem s = .none := by
  refine (if_neg (by omega)).trans (if_neg ?_)
  rw [mustHold_runs hi]
  rintro ⟨hn, hf⟩
  rcases hr with hr | hr
  · rw [hr] at hn
    cases hn
  · omega

/-- SEM_SET and SEM_ADD with nothing held before them change their semaphore at once. -/
theorem semOp_applies {p : Part} (hp : partOf s k = some p) (hr : s.combs[k].seq.retain = []) (add : Bool) (b : SReg) :
    ∃ t, issueIf k h true (semCheck k h sem) (fun s => progSem k h sem.toNat add (sreg s k b) s) s = t ∧
      (∀ i, semVal t p i = if i = sem.toNat then (if add then semVal s p i + sreg s k b else sreg s k b) else semVal s p i) ∧
      t.combs[k].seq.pc = s.combs[k].seq.pc + 8 ∧ Within [.seq, .rings, .sems] s t := by
  have happly : progSem k h sem.toNat add (sreg (stepped k s) k b) (stepped k s) =
      semApply p sem.toNat add (sreg s k b) (stepped k s) := by
    unfold progSem
    rw [mustHold_stepped hi, hr, partOf_stepped, hp, sreg_stepped]
    rfl
  refine ⟨_, (hi.runs _ (semCheck_passes hi hsem (.inl hr))).trans happly, fun i => ?_, ?_,
    Within.trans ((stepped_within k s).mono (by decide)) (semApply_without (by decide))⟩
  · rw [semApply, semVal_semWrite]
    by_cases hs : i = sem.toNat
    · rw [if_pos hs, if_pos hs, hs]
      rfl
    · rw [if_neg hs, if_neg hs]
      rfl
  · rw [semApply_pc, stepped_seq]

/-- SEM_ADD behind held writes is held itself (R134). -/
theorem semAdd_held (hr : s.combs[k].seq.retain ≠ []) (hf : heldEntries s.combs[k].seq < retainEntries) (b : SReg) :
    Does (.semAdd k h b sem) s fun t => t.combs[k].seq.retain.length = s.combs[k].seq.retain.length + 1 ∧
      t.combs[k].seq.pc = s.combs[k].seq.pc + 8 ∧ Within [.seq] s t := by
  have hm : mustHold (stepped k s) k h = true := by
    rw [mustHold_stepped hi]
    simpa using hr
  refine does_of_exec (congrArg Host.Outcome.next ((hi.runs _ (semCheck_passes hi hsem (.inr hf))).trans (if_pos hm)))
    ⟨?_, ?_, Within.trans (stepped_within k s) (modSeq_within ..)⟩
  · rw [modSeq_seq, stepped_seq]
    exact List.length_append
  · rw [modSeq_seq, stepped_seq]

variable {p : Part} (hp : partOf s k = some p) (hw : s.combs[k].seq.wait = none) {ge : Bool} {v : DWord}
include hp hw

theorem semWait_eq : semWait k h sem ge v s =
    let s' := issueIf k h false (fun _ => if waitHolds s p sem.toNat ge v = true then .none else .stall 6) id s
    if s'.combs[k].seq.stall = 6 then s'.modSeq k fun q => { q with wait := some (sem.toNat, v, ge, false) } else s' := by
  unfold semWait
  rw [if_neg (by rw [hi.can]; decide)]
  simp only [hw, hp, Bool.false_or, if_neg (Nat.not_lt.2 hsem)]
  rfl

theorem semWait_holds (hv : waitHolds s p sem.toNat ge v = true) : semWait k h sem ge v s = stepped k s := by
  have hstall : (stepped k s).combs[k].seq.stall ≠ 6 := by
    rw [stepped_seq]
    show (0 : BitVec 4) ≠ 6
    decide
  rw [semWait_eq hi hsem hp hw, hi.runs id (if_pos hv)]
  exact if_neg hstall

theorem semWait_waits (hv : waitHolds s p sem.toNat ge v = false) : semWait k h sem ge v s =
    (stallWith k 6 s).modSeq k fun q => { q with wait := some (sem.toNat, v, ge, false) } := by
  rw [semWait_eq hi hsem hp hw, hi.stalls id (if_neg (Bool.eq_false_iff.1 hv))]
  exact if_pos (congrArg Seq.stall (stallWith_seq k 6 s))

/-- A wait that is satisfied goes on. -/
theorem semWait_goesOn (hv : waitHolds s p sem.toNat ge v = true) : (semWait k h sem ge v s).combs[k].seq.state = 1 ∧
    (semWait k h sem ge v s).combs[k].seq.stall = 0 ∧ (semWait k h sem ge v s).combs[k].seq.pc = s.combs[k].seq.pc + 8 ∧
    Within [.seq] s (semWait k h sem ge v s) := by
  rw [semWait_holds hi hsem hp hw hv]
  refine ⟨?_, ?_, ?_, stepped_within k s⟩ <;> rw [stepped_seq]

theorem semWait_stalls (hv : waitHolds s p sem.toNat ge v = false) : (semWait k h sem ge v s).combs[k].seq.state = 2 ∧
    (semWait k h sem ge v s).combs[k].seq.stall = 6 ∧ (semWait k h sem ge v s).combs[k].seq.pc = s.combs[k].seq.pc ∧
    (semWait k h sem ge v s).combs[k].seq.wait = some (sem.toNat, v, ge, false) ∧ Within [.seq] s (semWait k h sem ge v s) := by
  rw [semWait_waits hi hsem hp hw hv]
  refine ⟨?_, ?_, ?_, ?_, Within.trans (stallWith_within ..) (modSeq_within ..)⟩ <;> rw [modSeq_seq, stallWith_seq]
  rfl

end Semaphores

/-- Settles O52: every instruction by what it makes of its target, its vote or its semaphore, once its predicate lets it run. -/
theorem predicatesAndSemaphores : Obligations.PredicatesAndSemaphores := by
  intro s k h m b c hcan hword hrun hwin hfall takes stalls
  have hi : Issues s k h := ⟨hcan, hword, hrun, hwin, hfall⟩
  refine ⟨?_, fun hm hp => ⟨fun v => ?_, fun mode h3 => ?_, fun ge sem => ?_⟩, fun mask h0 hp => pvote_stalls hi h0 hp,
    fun hm hp => ⟨fun v => pset_takes hi hm hp v, pcheck_arms hi hm hp b c,
      pcheck_resolves hi hm hp (by decide) (by decide) b c, pcheck_resolves hi hm hp (by decide) (by decide) b c,
      pcheck_resolves hi hm hp (by decide) (by decide) b c,
      fun p sem hpart => ⟨psem_takes hi hm hp hpart b true sem, psem_takes hi hm hp hpart b false sem⟩⟩,
    fun mask p h0 hp hpart hv => pvote_votes hi h0 hp hpart hv, fun p sem hpart hs hr => ⟨?_, ?_⟩,
    fun sem hs hr hf => semAdd_held hi hs hr hf b, fun p sem hpart hs hw => ⟨fun hv => ?_, fun hv => ?_, fun hv => ?_⟩⟩
  · rintro rfl v
    exact congrArg Host.Outcome.next (hi.refuses _ (armCheck_p0 ..))
  · exact does_of_exec rfl (target_stalls hi hm hp _)
  · have hx : decide (3 < mode.toNat) = false := decide_eq_false (by omega)
    refine does_of_exec rfl ?_
    rw [hx]
    exact target_stalls hi hm hp _
  · exact does_of_exec rfl (target_stalls hi hm hp _)
  · obtain ⟨t, rfl, ht⟩ := semOp_applies hi hs hpart hr false b
    exact does_of_exec rfl ht
  · obtain ⟨t, rfl, ht⟩ := semOp_applies hi hs hpart hr true b
    exact does_of_exec rfl ht
  · exact does_of_exec rfl (semWait_goesOn hi hs hpart hw (decide_eq_true hv))
  · exact does_of_exec rfl (semWait_goesOn hi hs hpart hw (decide_eq_true hv))
  · exact does_of_exec rfl (semWait_stalls hi hs hpart hw (decide_eq_false (BitVec.not_le.2 hv)))

end Sys2Proof.PredicateProofs
end

section
/-! Scalar sequencer instructions: those that write one register, loads and stores, branches, and those that take no predicate
(R115–R117, R120, R132, R145, R146). -/

namespace Sys2Proof.ScalarProofs

open Sys2Proof Sys2Proof.Machine Sys2Proof.MemoryProofs Sys2Proof.RingProofs Sys2Proof.PredicateProofs

/-! ### One comb changed -/

theorem modComb_at (s : State) (k : Comb) (f : CombState → CombState) : (s.modComb k f).combs[k] = f s.combs[k] :=
  modComb_same s k f

theorem modComb_at_other (s : State) {k j : Comb} (f : CombState → CombState) (h : j ≠ k) :
    (s.modComb k f).combs[j] = s.combs[j] := modComb_other s k j f h.symm

theorem modSeq_at_other (s : State) {k j : Comb} (f : Seq → Seq) (h : j ≠ k) : (s.modSeq k f).combs[j] = s.combs[j] :=
  modComb_at_other s _ h

/-- A register read depends on the register file alone. -/
theorem sreg_congr {s t : State} {k : Comb} (h : t.combs[k].seq.regs = s.combs[k].seq.regs) (i : SReg) :
    sreg t k i = sreg s k i := by
  simp only [sreg, h]

theorem setSreg_seq (k : Comb) (a : SReg) (v : DWord) (s : State) : (setSreg k a v s).combs[k].seq =
    { s.combs[k].seq with regs := if a.val = 0 then s.combs[k].seq.regs else upd s.combs[k].seq.regs a fun _ => v } := by
  unfold setSreg
  split
  · rfl
  · exact modSeq_seq ..

/-- What a register reads after a write: writes to s0 are ignored (R111). -/
theorem sreg_setSreg (k : Comb) (a : SReg) (v : DWord) (s : State) (i : SReg) :
    sreg (setSreg k a v s) k i = if i = a ∧ a.val ≠ 0 then v else sreg s k i := by
  unfold sreg
  rw [setSreg_seq]
  by_cases ha : a.val = 0
  · simp only [ha, if_true, ne_eq, not_true_eq_false, and_false, if_false]
  · simp only [ha, if_false, ne_eq, not_false_eq_true, and_true]
    by_cases hi : i = a
    · rw [if_pos hi, hi, if_neg ha]
      exact upd_same ..
    · rw [if_neg hi, upd_other _ _ _ _ (Ne.symm hi)]

theorem setSreg_other (k : Comb) (a : SReg) (v : DWord) (s : State) {j : Comb} (h : j ≠ k) :
    (setSreg k a v s).combs[j] = s.combs[j] := by
  unfold setSreg
  split
  · rfl
  · exact modSeq_at_other s _ h

theorem setSreg_within (k : Comb) (a : SReg) (v : DWord) (s : State) : Within [.seq] s (setSreg k a v s) :=
  setSreg_without (by decide)

/-! ### The program counter moves -/

/-- Comb k has issued one instruction and goes on at v; no other comb changed. -/
def GoesOn (s : State) (k : Comb) (v : Word) (t : State) : Prop := t.combs[k].seq.pc = v ∧
  t.combs[k].seq.issued = s.combs[k].seq.issued + 1 ∧ t.combs[k].seq.state = 1 ∧ t.combs[k].seq.stall = 0 ∧
  ∀ j : Comb, j ≠ k → t.combs[j] = s.combs[j]

/-- No scalar register of comb k changed. -/
def SameRegs (s : State) (k : Comb) (t : State) : Prop := ∀ i : SReg, sreg t k i = sreg s k i

/-- Comb k has stepped to its next instruction and written one register. -/
def Wrote (s : State) (k : Comb) (a : SReg) (v : DWord) (t : State) : Prop := GoesOn s k (s.combs[k].seq.pc + 8) t ∧
  Within [.seq] s t ∧ ∀ i : SReg, sreg t k i = if i = a ∧ a.val ≠ 0 then v else sreg s k i

section Moves

variable (s : State) (k : Comb)

theorem stepPc_seq (goal : Int) : (stepPc k goal s).combs[k].seq = { s.combs[k].seq with
    pc := w32 goal.toNat, issued := s.combs[k].seq.issued + 1, state := 1, stall := 0, wait := none } := modSeq_seq ..

theorem stepPc_within (goal : Int) : Within [.seq] s (stepPc k goal s) := stepPc_without (by decide)

theorem stepPc_other (goal : Int) {j : Comb} (h : j ≠ k) : (stepPc k goal s).combs[j] = s.combs[j] := modSeq_at_other s _ h

theorem w32_next : w32 (targetOf s k 1).toNat = s.combs[k].seq.pc + 8 := by
  have h := congrArg Seq.pc (stepped_seq k s)
  rwa [stepped, stepPc_seq] at h

theorem stepPc_sameRegs (goal : Int) : SameRegs s k (stepPc k goal s) := sreg_congr (by rw [stepPc_seq])

/-- A change of comb k that leaves where its sequencer goes on. -/
theorem goesOn_congr {v : Word} {t u : State} (h : GoesOn s k v t)
    (hs : u.combs[k].seq.pc = t.combs[k].seq.pc ∧ u.combs[k].seq.issued = t.combs[k].seq.issued ∧
      u.combs[k].seq.state = t.combs[k].seq.state ∧ u.combs[k].seq.stall = t.combs[k].seq.stall)
    (ho : ∀ j : Comb, j ≠ k → u.combs[j] = t.combs[j]) : GoesOn s k v u := by
  obtain ⟨hpc, hissued, hstate, hstall, hothers⟩ := h
  obtain ⟨epc, eissued, estate, estall⟩ := hs
  exact ⟨epc.trans hpc, eissued.trans hissued, estate.trans hstate, estall.trans hstall,
    fun j hj => (ho j hj).trans (hothers j hj)⟩

theorem stepPc_goesOn (goal : Int) : GoesOn s k (w32 goal.toNat) (stepPc k goal s) := by
  refine ⟨?_, ?_, ?_, ?_, fun j hj => stepPc_other s k goal hj⟩ <;> rw [stepPc_seq]

theorem stepped_goesOn : GoesOn s k (s.combs[k].seq.pc + 8) (stepped k s) := by
  rw [← w32_next]
  exact stepPc_goesOn ..

theorem stepped_sameRegs : SameRegs s k (stepped k s) := stepPc_sameRegs s k _

theorem setSreg_goesOn {v : Word} {t : State} (h : GoesOn s k v t) (a : SReg) (x : DWord) : GoesOn s k v (setSreg k a x t) := by
  refine goesOn_congr s k h ?_ fun j hj => setSreg_other k a x t hj
  rw [setSreg_seq]
  exact ⟨rfl, rfl, rfl, rfl⟩

theorem setSreg_stepped_wrote (a : SReg) (x : DWord) : Wrote s k a x (setSreg k a x (stepped k s)) := by
  refine ⟨setSreg_goesOn s k (stepped_goesOn s k) a x, Within.trans (stepped_within k s) (setSreg_within ..), fun i => ?_⟩
  rw [sreg_setSreg, sreg_stepped]

end Moves

/-! ### The predicate of an instruction (R115, R132) -/

section Guard

variable {s : State} {k : Comb} {h : PredF} (hcan : canIssue s k = true) (hword : fetchBad s k = false)
include hcan hword

/-- An instruction whose predicate is PENDING stalls. -/
theorem issue_waits (hg : guardOf s k h false = .wait) (hwin : windowFull s.combs[k].seq .wait = false) (body : State → State) :
    issue k h false body s = stallWith k 4 s := by
  unfold issue issueTo
  simp only [hcan, hword, hg, hwin, Bool.not_true, Bool.false_eq_true, if_false]

/-- An instruction whose predicate differs from its SENSE only moves on. -/
theorem issue_skips (hg : guardOf s k h false = .skip) (hwin : windowFull s.combs[k].seq .skip = false)
    (hfall : inImage s k (targetOf s k 1) = true) (body : State → State) : issue k h false body s = stepped k s := by
  unfold issue issueTo
  simp only [hcan, hword, hg, hwin, hfall, Bool.not_true, Bool.false_eq_true, if_false, if_true]
  rfl

end Guard

section Issue

variable {s : State} {k : Comb} {h : PredF} (hi : Issues s k h)
include hi

/-- An instruction that runs goes where it says, or past the image's end is a program fault (R116). -/
theorem issues_issueTo (goal : Int) (body : State → State) : issueTo k h false goal body s =
    if inImage s k goal = true then body (stepPc k goal s) else illegal k s := by
  unfold issueTo
  simp only [hi.can, hi.word, hi.run, hi.window, Bool.not_true, Bool.false_eq_true, if_false]

theorem issues_violates {b : Bool} {check : State → Block} (body : State → State) {a : Nat} (hc : check s = .violation a) :
    issueIf k h b check body s = progViolation k a s := by
  unfold issueIf
  simp only [hi.can, hi.word, hi.guard b, hi.window, hc, Bool.not_true, Bool.false_eq_true, or_self, if_false]

/-- An instruction that writes one register writes what it reads off the state it issues in. -/
theorem issueReg_wrote {c : Instr} {a : SReg} (v : State → DWord) (he : exec c s = .next (issueReg k h a v s)) :
    Does c s (Wrote s k a (v s)) := by
  refine does_of_exec he ?_
  rw [issueReg, hi.issue]
  exact setSreg_stepped_wrote ..

theorem nop_wrote : Does (.nop k h) s (Wrote s k 0 0) := by
  refine does_of_exec (congrArg Host.Outcome.next (hi.issue false id)) ⟨stepped_goesOn s k, stepped_within k s, fun i => ?_⟩
  rw [if_neg (by simp)]
  exact sreg_stepped ..

theorem rdbeat_wrote (a : SReg) :
    Does (.rdbeat k h a) s (Wrote s k a (if s.combs[k].hum.active then s.combs[k].hum.beat.setWidth 64 else 0)) := by
  have hbeat : (beatOf s k).setWidth 64 = if s.combs[k].hum.active then s.combs[k].hum.beat.setWidth 64 else 0 := by
    rw [beatOf]
    split <;> rfl
  rw [← hbeat]
  exact issueReg_wrote hi (v := fun s => (beatOf s k).setWidth 64) rfl

theorem fclr_clears : Does (.fclr k h) s fun t => GoesOn s k (s.combs[k].seq.pc + 8) t ∧ SameRegs s k t ∧
    t.combs[k].seq.finite = false ∧ Within [.seq] s t := by
  refine does_of_exec (congrArg Host.Outcome.next (hi.issue false _)) ⟨goesOn_congr s k (stepped_goesOn s k) ?_ fun j hj =>
    modSeq_at_other _ _ hj, fun i => (sreg_congr ?_ i).trans (sreg_stepped k s i), ?_, Within.trans (stepped_within k s)
    (modSeq_within ..)⟩
  · rw [modSeq_seq]
    exact ⟨rfl, rfl, rfl, rfl⟩
  · rw [modSeq_seq]
  · rw [modSeq_seq]

/-! ### Loads and stores (R115, R146) -/

variable (a b : SReg) (imm : Word)

theorem ldst_misaligned (hal : ldstAddr s k b imm % 8 ≠ 0) :
    exec (.seqLd k h a b imm) s = .next (illegal k s) ∧ exec (.seqSt k h a b imm) s = .next (illegal k s) := by
  have hc : ldstCheck k b imm s = .bad := if_pos hal
  exact ⟨congrArg Host.Outcome.next (hi.refuses _ hc), congrArg Host.Outcome.next (hi.refuses _ hc)⟩

variable (hal : ldstAddr s k b imm % 8 = 0)
include hal

theorem ldst_beyond (hend : combStoreBytes ≤ ldstAddr s k b imm) :
    exec (.seqLd k h a b imm) s = .next (progViolation k (ldstAddr s k b imm) s) ∧
    exec (.seqSt k h a b imm) s = .next (progViolation k (ldstAddr s k b imm) s) := by
  have hc : ldstCheck k b imm s = .violation (ldstAddr s k b imm) := by
    simp only [ldstCheck, hal, hend, ne_eq, not_true_eq_false, if_false, if_true]
  exact ⟨congrArg Host.Outcome.next (issues_violates hi _ hc), congrArg Host.Outcome.next (issues_violates hi _ hc)⟩

variable (hin : ldstAddr s k b imm < combStoreBytes)
include hin

omit hi in
theorem ldstCheck_passes : ldstCheck k b imm s = .none := by
  simp only [ldstCheck, hal, Nat.not_le.2 hin, ne_eq, not_true_eq_false, if_false]

theorem seqLd_wrote : Does (.seqLd k h a b imm) s
    (Wrote s k a (BitVec.ofNat 64 (memNat s.combs[k].store (ldstAddr s k b imm) 8))) :=
  does_of_exec (congrArg Host.Outcome.next (hi.runs _ (ldstCheck_passes b imm hal hin))) (setSreg_stepped_wrote ..)

theorem seqSt_stores : Does (.seqSt k h a b imm) s fun t => GoesOn s k (s.combs[k].seq.pc + 8) t ∧ SameRegs s k t ∧
    memNat t.combs[k].store (ldstAddr s k b imm) 8 = (sreg s k a).toNat ∧
    (∀ x, x < ldstAddr s k b imm ∨ ldstAddr s k b imm + 8 ≤ x → memByte t.combs[k].store x = memByte s.combs[k].store x) ∧
    Within [.seq, .combMem] s t := by
  have hstore : (stepped k s).combs[k].store = s.combs[k].store := (stepped_within k s).comb_store k (by decide)
  have hlt : (sreg s k a).toNat < 256 ^ 8 := (sreg s k a).isLt
  refine does_of_exec (congrArg Host.Outcome.next (hi.runs _ (ldstCheck_passes b imm hal hin))) ⟨?_, fun i => ?_, ?_,
    fun x hx => ?_, Within.trans ((stepped_within k s).mono (by decide)) (combWrite_without (by decide))⟩
  · refine goesOn_congr s k (stepped_goesOn s k) ?_ fun j hj => modComb_at_other _ _ hj
    rw [combWrite, modComb_at]
    exact ⟨rfl, rfl, rfl, rfl⟩
  · refine (sreg_congr ?_ i).trans (sreg_stepped k s i)
    rw [combWrite, modComb_at]
  · rw [combWrite, modComb_at]
    exact (memNat_memWrite ..).trans (Nat.mod_eq_of_lt hlt)
  · rw [combWrite, modComb_at]
    refine (memByte_memWrite ..).trans ((if_neg ?_).trans (by rw [hstore]))
    rw [leBytes_length]
    omega

end Issue

/-! ### Branches (R115, R116) -/

section Branch

variable {s : State} {k : Comb} {h : PredF} (hi : Issues s k h)
include hi

theorem branch_goes {goal : Int} (hin : inImage s k goal = true) (body : State → State) :
    issueTo k h false goal body s = body (stepPc k goal s) := (issues_issueTo hi goal body).trans (if_pos hin)

variable {imm : Word} (hin : inImage s k (targetOf s k imm.toInt) = true)
include hin

theorem jump_goesOn : Does (.jump k h imm) s fun t => GoesOn s k (w32 (targetOf s k imm.toInt).toNat) t ∧ SameRegs s k t ∧
    Within [.seq] s t :=
  does_of_exec (congrArg Host.Outcome.next (branch_goes hi hin id)) ⟨stepPc_goesOn .., stepPc_sameRegs s k _, stepPc_within ..⟩

/-- A conditional branch goes on within the image: at the next instruction, or where IMM says. -/
theorem condBranch_goesOn (c : Prop) [Decidable c] : inImage s k (targetOf s k (if c then 1 else imm.toInt)) = true ∧
    GoesOn s k (if c then s.combs[k].seq.pc + 8 else w32 (targetOf s k imm.toInt).toNat)
      (stepPc k (targetOf s k (if c then 1 else imm.toInt)) s) := by
  split
  · exact ⟨hi.fall, stepped_goesOn ..⟩
  · exact ⟨hin, stepPc_goesOn ..⟩

theorem bnz_goesOn (a : SReg) : Does (.bnz k h a imm) s fun t =>
    GoesOn s k (if sreg s k a = 0 then s.combs[k].seq.pc + 8 else w32 (targetOf s k imm.toInt).toNat) t ∧ SameRegs s k t ∧
    Within [.seq] s t := by
  obtain ⟨himage, hgoes⟩ := condBranch_goesOn hi hin (sreg s k a = 0)
  exact does_of_exec (congrArg Host.Outcome.next (branch_goes hi himage id)) ⟨hgoes, stepPc_sameRegs s k _, stepPc_within ..⟩

theorem loop_goesOn (a : SReg) : Does (.loop k h a imm) s fun t =>
    GoesOn s k (if a.val = 0 ∨ sreg s k a = 1 then s.combs[k].seq.pc + 8 else w32 (targetOf s k imm.toInt).toNat) t ∧
    (∀ i : SReg, sreg t k i = if i = a ∧ a.val ≠ 0 then sreg s k a - 1 else sreg s k i) ∧ Within [.seq] s t := by
  have hzero : (if a.val = 0 then 0 else sreg s k a - 1) = (0 : DWord) ↔ a.val = 0 ∨ sreg s k a = 1 := by
    by_cases ha : a.val = 0
    · simp [ha]
    · rw [if_neg ha, or_iff_right ha]
      exact sub_eq_zero
  obtain ⟨himage, hgoes⟩ := condBranch_goesOn hi hin ((if a.val = 0 then 0 else sreg s k a - 1) = (0 : DWord))
  rw [if_congr hzero rfl rfl] at hgoes
  refine does_of_exec (congrArg Host.Outcome.next (branch_goes hi himage _)) ⟨setSreg_goesOn s k hgoes .., fun i => ?_,
    Within.trans (stepPc_within ..) (setSreg_within ..)⟩
  rw [sreg_setSreg, stepPc_sameRegs]

end Branch

/-! ### A program fault (R146) -/

/-- What a program fault does once its comb is halted leaves the sequencers alone. -/
def faultSpread : List Piece := [.out, .host, .draws, .superMem, .superTree, .hild, .rings, .evq, .partRegs, .mod]

theorem haltComb_seq (k : Comb) (s : State) : (haltComb k s).combs[k].seq.state = 3 ∧ (haltComb k s).combs[k].seq.retain = [] ∧
    (haltComb k s).combs[k].seq.progFault = s.combs[k].seq.progFault := by
  have hcells : ∀ u, Within [.draws, .cellMem, .cellRun, .combMem] u (stopCells k u) := fun u => stopCells_without (by decide)
  have hsquash : (squashAll k s).combs[k].seq.retain = [] ∧
      (squashAll k s).combs[k].seq.progFault = s.combs[k].seq.progFault := by
    unfold squashAll squashHeld
    dsimp only
    split <;> simp only [modCtx_combs, modSeq_seq, Bool.not_true, List.filter_false, and_self]
  rw [haltComb, (hcells _).comb_seq k (by decide), haltSeq, modSeq_seq]
  exact ⟨rfl, hsquash⟩

theorem programFault_seq {s : State} {k : Comb} {p : Part} {d : RunDesc} (hp : partOf s k = some p)
    (hr : s.combs[k].seq.running = some d) (st : Byte) (x : Word) (y : BitVec 56) : (programFault k st x y s).combs[k].seq =
      { (haltComb k s).combs[k].seq with progFault := hit 16 (haltComb k s).combs[k].seq.progFault, running := none } := by
  unfold programFault
  rw [hp, hr, ← modSeq_seq (haltComb k s) k fun q => { q with progFault := hit 16 q.progFault, running := none }]
  dsimp only
  generalize (haltComb k s).modSeq k _ = u
  refine Within.comb_seq (m := faultSpread) ?_ k (by decide)
  generalize he : endServed p k _ = v
  have hv : Within faultSpread u v := by
    rw [← he]
    refine (endServed_without (by decide)).trans <| (stopRings_without (by decide)).trans <|
      (modDesc_without _ _ _ _ _ _ (by decide)).trans ?_
    exact forEach_without _ _ _ _ fun _ _ => discardHild_without (by decide)
  refine Within.trans hv (ite_without (fun _ => rfl) fun _ => ite_without (fun _ => ?_) fun _ => ?_)
  · exact postEvent_without (by decide)
  · refine (modPart_without _ _ _ _ fun _ => ?_).trans (postEvent_without (by decide))
    rfl

/-- A branch past the image's end halts its comb (R116, R146). -/
theorem jump_faults {s : State} {k : Comb} {h : PredF} (hi : Issues s k h) {imm : Word}
    (hout : inImage s k (targetOf s k imm.toInt) = false) {p : Part} {d : RunDesc} (hp : partOf s k = some p)
    (hr : s.combs[k].seq.running = some d) : Does (.jump k h imm) s fun t => t.combs[k].seq.state = 3 ∧
      t.combs[k].seq.running = none ∧ t.combs[k].seq.progFault = hit 16 s.combs[k].seq.progFault ∧
      t.combs[k].seq.retain = [] := by
  obtain ⟨hstate, hretain, hfault⟩ := haltComb_seq k s
  refine does_of_exec (congrArg Host.Outcome.next ((issues_issueTo hi _ id).trans (if_neg (by rw [hout]; decide)))) ?_
  rw [illegal, programFault_seq hp hr, hfault]
  dsimp only
  exact ⟨hstate, rfl, rfl, hretain⟩

/-! ### Instructions without a predicate (R115) -/

/-- A hum that posts its marker: the time of the first BEAT_DONE of the beat (R70). -/
def postMarker (m : Hum) : Hum := { m with marker := m.marker.orElse fun _ => some m.time }

section NoPen

variable {s : State} {k : Comb} {h : PredF} (hcan : canIssue s k = true)
include hcan

theorem issueNoPen_illegal (hpen : h.pen = true) (f : State → State) : issueNoPen k h f s = illegal k s := by
  unfold issueNoPen
  simp only [hcan, hpen, Bool.not_true, Bool.false_eq_true, true_or, if_false, if_true]

variable (hword : fetchBad s k = false) (hpen : h.pen = false) (hwin : windowFull s.combs[k].seq .run = false)
include hword hpen hwin

theorem issueNoPen_runs (f : State → State) : issueNoPen k h f s = f s := by
  unfold issueNoPen
  simp only [hcan, hpen, hword, hwin, Bool.not_true, Bool.false_eq_true, or_self, if_false]

/-- END stops issue until its conditions hold (R145). -/
theorem endProg_ends : Does (.endProg k h) s fun t => t.combs[k].seq.ending = true ∧ t.combs[k].seq.state = 2 ∧
    t.combs[k].seq.stall = 12 ∧ SameRegs s k t ∧ Within [.seq] s t := by
  refine does_of_exec (congrArg Host.Outcome.next (issueNoPen_runs hcan hword hpen hwin _)) ⟨?_, ?_, ?_, sreg_congr ?_,
    Within.trans (stallWith_within ..) (modSeq_within ..)⟩ <;> rw [modSeq_seq, stallWith_seq]
  rfl

variable (hfall : inImage s k (targetOf s k 1) = true)
include hfall

theorem seqFence_passes {sc : BitVec 2} (hf : fenceClear s k sc = true) : Does (.seqFence k h sc) s fun t =>
    GoesOn s k (s.combs[k].seq.pc + 8) t ∧ SameRegs s k t ∧ Within [.seq] s t := by
  have he : exec (.seqFence k h sc) s = .next (stepped k s) := by
    refine congrArg Host.Outcome.next ((issueNoPen_runs hcan hword hpen hwin _).trans ?_)
    simp only [hfall, hf, Bool.not_true, Bool.false_eq_true, if_false, if_true]
    rfl
  exact does_of_exec he ⟨stepped_goesOn .., stepped_sameRegs s k, stepped_within ..⟩

theorem seqFence_stalls {sc : BitVec 2} (hf : fenceClear s k sc = false) : Does (.seqFence k h sc) s fun t =>
    t.combs[k].seq.state = 2 ∧ t.combs[k].seq.stall = 8 ∧ t.combs[k].seq.pc = s.combs[k].seq.pc ∧ SameRegs s k t ∧
    Within [.seq] s t := by
  have he : exec (.seqFence k h sc) s = .next (stallWith k 8 s) := by
    refine congrArg Host.Outcome.next ((issueNoPen_runs hcan hword hpen hwin _).trans ?_)
    simp only [hfall, hf, Bool.not_true, Bool.false_eq_true, if_false]
  refine does_of_exec he ⟨?_, ?_, ?_, sreg_congr ?_, stallWith_within ..⟩ <;> rw [stallWith_seq]
  rfl

theorem beatDone_goesOn (ha : s.combs[k].hum.active = false) : Does (.beatDone k h) s fun t =>
    GoesOn s k (s.combs[k].seq.pc + 8) t ∧ SameRegs s k t ∧ Within [.seq] s t := by
  have hact : (stepPc k (targetOf s k 1) s).combs[k].hum.active = false := by rw [(stepPc_within ..).comb_hum k (by decide), ha]
  have he : exec (.beatDone k h) s = .next (stepped k s) := by
    refine congrArg Host.Outcome.next ((issueNoPen_runs hcan hword hpen hwin _).trans ?_)
    simp only [hfall, hact, Bool.not_true, Bool.false_eq_true, if_false]
    rfl
  exact does_of_exec he ⟨stepped_goesOn .., stepped_sameRegs s k, stepped_within ..⟩

theorem beatDone_stalls (ha : s.combs[k].hum.active = true) : Does (.beatDone k h) s fun t => t.combs[k].seq.state = 2 ∧
    t.combs[k].seq.stall = 7 ∧ t.combs[k].seq.pc = s.combs[k].seq.pc + 8 ∧ SameRegs s k t ∧ t.combs[k].hum.marker =
      (match s.combs[k].hum.marker with | some m => some m | none => some s.combs[k].hum.time) ∧ Within [.seq, .hum] s t := by
  have hhum : (stepped k s).combs[k].hum = s.combs[k].hum := (stepped_within k s).comb_hum k (by decide)
  have hact : (stepPc k (targetOf s k 1) s).combs[k].hum.active = true := (congrArg Hum.active hhum).trans ha
  have he : exec (.beatDone k h) s = .next (stallWith k 7 ((stepped k s).modHum k postMarker)) := by
    refine congrArg Host.Outcome.next ((issueNoPen_runs hcan hword hpen hwin _).trans ?_)
    simp only [hfall, hact, Bool.not_true, Bool.false_eq_true, if_false, if_true]
    rfl
  have hmarked : Within [.hum] (stepped k s) ((stepped k s).modHum k postMarker) := modHum_without _ _ _ _ (by decide)
  have hseq := hmarked.comb_seq k (by decide)
  refine does_of_exec he ⟨?_, ?_, ?_, fun i => (sreg_congr ?_ i).trans (sreg_stepped k s i), ?_,
    Within.trans ((stepped_within k s).mono (by decide))
      (Within.trans (hmarked.mono (by decide)) (stallWith_without (by decide)))⟩
  · rw [stallWith_seq]
  · rw [stallWith_seq]
    rfl
  · rw [stallWith_seq, hseq, stepped_seq]
  · rw [stallWith_seq, hseq]
  · rw [(stallWith_within ..).comb_hum k (by decide), JobFaultProofs.modHum_hum, if_pos rfl, hhum, postMarker]
    cases s.combs[k].hum.marker <;> rfl

end NoPen

/-- Settles O50: every scalar instruction by what its predicate makes of it, then by the register, the store or the program
counter that it changes. -/
theorem scalarInstructions : Obligations.ScalarInstructions := by
  intro s k h hcan hword hwin hfall at' next wrote same
  refine ⟨fun hg a b c => ?_, fun hg a b c => ?_, fun hg => ?_, fun hpen => ?_, fun hpen sc => ?_⟩
  · rw [hg] at hwin
    refine does_of_exec (congrArg Host.Outcome.next (issue_waits hcan hword hg hwin _)) ⟨?_, ?_, ?_, sreg_congr ?_,
      stallWith_within ..⟩ <;> rw [stallWith_seq]
    rfl
  · rw [hg] at hwin
    exact does_of_exec (congrArg Host.Outcome.next (issue_skips hcan hword hg hwin hfall _))
      ⟨stepped_goesOn .., stepped_sameRegs s k, stepped_within ..⟩
  · rw [hg] at hwin
    have hi : Issues s k h := ⟨hcan, hword, hg, hwin, hfall⟩
    exact fun a b c imm => ⟨nop_wrote hi, issueReg_wrote hi (fun _ => simm imm) rfl,
      issueReg_wrote hi (fun s => imm ++ lowWord (sreg s k a)) rfl, issueReg_wrote hi (fun s => sreg s k b + sreg s k c) rfl,
      issueReg_wrote hi (fun s => sreg s k b + simm imm) rfl, issueReg_wrote hi (fun s => sreg s k b - sreg s k c) rfl,
      issueReg_wrote hi (fun s => sreg s k b * sreg s k c) rfl, issueReg_wrote hi (fun s => sreg s k b &&& sreg s k c) rfl,
      issueReg_wrote hi (fun s => sreg s k b ||| sreg s k c) rfl, issueReg_wrote hi (fun s => sreg s k b ^^^ sreg s k c) rfl,
      fun sh => ⟨issueReg_wrote hi (fun s => sreg s k b <<< sh.toNat) rfl,
        issueReg_wrote hi (fun s => sreg s k b >>> sh.toNat) rfl⟩,
      rdbeat_wrote hi a, issueReg_wrote hi (fun s => humNs s k) rfl, fclr_clears hi,
      ⟨fun hal hin => ⟨seqLd_wrote hi a b imm hal hin, seqSt_stores hi a b imm hal hin⟩,
        fun hal => ldst_misaligned hi a b imm hal, fun hal hend => ldst_beyond hi a b imm hal hend⟩,
      fun hin => ⟨jump_goesOn hi hin, bnz_goesOn hi hin a, loop_goesOn hi hin a⟩,
      fun p d hout hp hr => jump_faults hi hout hp hr⟩
  · have hrun : guardOf s k h false = .run := by
      unfold guardOf
      rw [hpen]
      rfl
    rw [hrun] at hwin
    exact ⟨beatDone_goesOn hcan hword hpen hwin hfall, beatDone_stalls hcan hword hpen hwin hfall,
      fun sc => seqFence_passes hcan hword hpen hwin hfall, fun sc => seqFence_stalls hcan hword hpen hwin hfall,
      endProg_ends hcan hword hpen hwin⟩
  · have refused : ∀ f, done (issueNoPen k h f s) = .next (illegal k s) := fun f =>
      congrArg done (issueNoPen_illegal hcan hpen f)
    exact ⟨refused _, refused _, refused _⟩

end Sys2Proof.ScalarProofs
end

section
/-! Programs: their start by COMPUTE with registers and a reseed, words that spell no instruction, and their end (R109–R115,
R145, R147, R202, R203). -/

namespace Sys2Proof.ProgramProofs

open Sys2Proof Sys2Proof.Machine Sys2Proof.MemoryProofs Sys2Proof.JobFaultProofs Sys2Proof.RingProofs Sys2Proof.TimetableProofs
  Sys2Proof.DescriptorProofs Sys2Proof.PredicateProofs Sys2Proof.ScalarProofs

/-! ### The descriptor a program runs for -/

/-- A ring's descriptor is found again after a change that keeps its number. -/
theorem findDesc_modDesc {g : RingState} {i : Word} {d : Desc} {f : Desc → Desc} (h : findDesc g i = some d)
    (hf : ∀ e, (f e).idx = e.idx) : findDesc (g.modDesc i f) i = some (f d) := by
  have hidx : ∀ e : Desc, (if e.idx = i then f e else e).idx = e.idx := fun e => by
    split
    · exact hf e
    · rfl
  have hp : ((fun e : Desc => e.idx == i) ∘ fun e => if e.idx = i then f e else e) = fun e => e.idx == i :=
    funext fun e => congrArg (· == i) (hidx e)
  unfold findDesc at h ⊢
  rw [RingState.modDesc, List.find?_map, hp, h]
  exact congrArg some (if_pos (findDesc_idx h))

theorem findDesc_mem {g : RingState} {i : Word} {d : Desc} (h : findDesc g i = some d) : d ∈ g.descs :=
  List.mem_of_find?_eq_some h

/-! ### COMPUTE reaches its combs (R109, R113) -/

/-- The state in which a COMPUTE is at work and owes a part on every comb it names. -/
def computeOwed (p : Part) (r : Ring) (d : Desc) (s : State) : State :=
  activate p r d.idx (fun e => { e with combsLeft := combsMask s p d.combMask }) s

/-- A COMPUTE of a context with one owner needs no digest: it reaches every comb it names. -/
theorem effCompute_eq {s : State} {p : Part} {r : Ring} {d : Desc} {m : Manifest} (hd : startedDesc s p r opCompute = some d)
    (hm : s.parts[p].ctx.man = some m) (ho : m.owners.length = 1) : effCompute p r s =
      forEach (combsMask s p d.combMask) (fun k s => computeOn ⟨p, r, d.idx⟩ k s) (computeOwed p r d s) := by
  unfold effCompute
  simp only [hd, hm, ho, digestOk, ne_eq, not_true_eq_false, false_and, decide_true, Bool.true_or, Bool.not_true,
    Bool.false_eq_true, if_true, if_false]
  rfl

theorem computeOwed_within (p : Part) (r : Ring) (d : Desc) (s : State) : Within [.rings] s (computeOwed p r d s) :=
  modDesc_without _ _ _ _ _ _ (by decide)

/-! ### A program starts (R109–R111, R203) -/

/-- The registers a program starts with (R111). -/
def startRegs (s : State) (p : Part) (k : Comb) (e : Desc) : Vector DWord 32 := Vector.ofFn fun i : SReg =>
  if i.val = 1 then w64 (fieldAt e.bytes 32 8) else if i.val = 2 then w64 (fieldAt e.bytes 40 8)
  else if i.val = 3 then w64 (posOf p k) else if i.val = 4 then w64 (sizeOf s p) else 0

/-- The sequencer as a program for descriptor e starts. -/
def startSeq (d : RunDesc) (e : Desc) (regs : Vector DWord 32) (q : Seq) : Seq := { q with
  state := 1, stall := 0, running := some d, sqIndex := d.idx, pc := w32 (fieldAt e.bytes 28 4)
  progPpa := w64 (fieldAt e.bytes 16 8), progLen := w32 (fieldAt e.bytes 24 4), progStep := w64 (fieldAt e.bytes 40 8)
  regs := regs, progNo := q.progNo + 1, issued := 0, specs := [], ending := false, squashFirst := none, squashBytes := 0, wait := none
  wdogFrames := 0, wdogIssue := 0 }

/-- The state in which a comb's generators are seeded for a STEP: a new one reseeds them (R203). -/
def seededFor (k : Comb) (p : Part) (step : DWord) (s : State) : State :=
  (if s.combs[k].rng.step = step then s else reseed k (some step) s).modPart p fun q => { q with lastCompute := step }

section Seeded

variable (k : Comb) (p : Part) {step : DWord} {s : State}

theorem seededFor_within : Within [.out, .host, .draws, .combRegs, .evq, .partRegs, .mod] s (seededFor k p step s) := by
  refine (modPart_without _ _ _ _ fun _ => ?_).trans (ite_without (fun _ => rfl) fun _ => reseed_without (by decide))
  rfl

theorem seededFor_same (h : s.combs[k].rng.step = step) : (seededFor k p step s).combs[k].gens = s.combs[k].gens := by
  rw [seededFor, if_pos h, modPart_combs]

/-- A new STEP seeds the generators with the conditioned seed where the source is OK (R202). -/
theorem seededFor_new (h : s.combs[k].rng.step ≠ step) (hok : s.combs[k].rng.state = 1) :
    (seededFor k p step s).combs[k].gens = { seed := some s.combs[k].rng.seed } ∧
    (seededFor k p step s).combs[k].rng.step = step := by
  rw [seededFor, if_neg h, modPart_combs, reseed, if_pos hok, modComb_at]
  exact ⟨rfl, rfl⟩

end Seeded

theorem startProgram_eq {s : State} {d : RunDesc} {e : Desc} (h : descOf s d = some e) (k : Comb) : startProgram k d s =
    (seededFor k d.part (w64 (fieldAt e.bytes 40 8)) s).modSeq k
      (startSeq d e (startRegs (seededFor k d.part (w64 (fieldAt e.bytes 40 8)) s) d.part k e)) := by
  unfold startProgram
  rw [h]
  rfl

/-- The registers of a program read as R111 gives them. -/
theorem sreg_startRegs {s t : State} {p : Part} {k : Comb} {e : Desc} (h : t.combs[k].seq.regs = startRegs s p k e) (i : SReg) :
    sreg t k i = if i.val = 1 then w64 (fieldAt e.bytes 32 8) else if i.val = 2 then w64 (fieldAt e.bytes 40 8)
      else if i.val = 3 then w64 (posOf p k) else if i.val = 4 then w64 (sizeOf s p) else 0 := by
  unfold sreg
  rw [h, startRegs, Fin.getElem_fin, Vector.getElem_ofFn]
  by_cases h0 : i.val = 0
  · simp [h0]
  · rw [if_neg h0]

section Start

variable {s : State} {p : Part} {r : Ring} {d : Desc} {k : Comb} {m : Manifest} (hd : startedDesc s p r opCompute = some d)
  (hm : s.parts[p].ctx.man = some m) (ho : m.owners.length = 1) (hk : combsMask s p d.combMask = [k])
  (hidle : s.combs[k].seq.running = none) (hlive : s.combs[k].seq.state ≠ 3) (hf : findDesc s.parts[p].rings[r] d.idx = some d)
include hd hm ho hk hidle hlive hf

/-- COMPUTE on one idle comb starts its program there. -/
theorem effCompute_starts : ∃ e, e.bytes = d.bytes ∧
    effCompute p r s = (seededFor k p (w64 (d.field 40 8)) (computeOwed p r d s)).modSeq k
      (startSeq ⟨p, r, d.idx⟩ e (startRegs (seededFor k p (w64 (d.field 40 8)) (computeOwed p r d s)) p k e)) := by
  have hseq : (computeOwed p r d s).combs[k].seq = s.combs[k].seq := (computeOwed_within p r d s).comb_seq k (by decide)
  have hdesc : ∃ e, e.bytes = d.bytes ∧ descOf (computeOwed p r d s) ⟨p, r, d.idx⟩ = some e := by
    refine ⟨{ d with stage := .active, combsLeft := combsMask s p d.combMask }, rfl, ?_⟩
    rw [descOf, computeOwed, activate, State.modDesc, modRing_at]
    exact findDesc_modDesc hf fun _ => rfl
  obtain ⟨e, he, hdesc⟩ := hdesc
  have hon : computeOn ⟨p, r, d.idx⟩ k (computeOwed p r d s) = startProgram k ⟨p, r, d.idx⟩ (computeOwed p r d s) := by
    unfold computeOn
    rw [hseq, hidle]
    exact if_pos ⟨rfl, hlive⟩
  refine ⟨e, he, ?_⟩
  have hone : effCompute p r s = computeOn ⟨p, r, d.idx⟩ k (computeOwed p r d s) := by
    rw [effCompute_eq hd hm ho, hk]
    rfl
  rw [hone, hon, startProgram_eq hdesc, he]
  rfl

/-- The program starts at ENTRY with its registers; a new STEP reseeds the cell generators. -/
theorem compute_starts : Does (.compute p r) s fun t =>
    t.combs[k].seq.running = some ⟨p, r, d.idx⟩ ∧ t.combs[k].seq.state = 1 ∧ t.combs[k].seq.pc = w32 (d.field 28 4) ∧
    t.combs[k].seq.progPpa = w64 (d.field 16 8) ∧ t.combs[k].seq.progLen = w32 (d.field 24 4) ∧
    (∀ i : SReg, sreg t k i = if i.val = 1 then w64 (d.field 32 8) else if i.val = 2 then w64 (d.field 40 8)
      else if i.val = 3 then w64 (posOf p k) else if i.val = 4 then w64 (sizeOf s p) else 0) ∧
    t.combs[k].seq.preds = s.combs[k].seq.preds ∧ t.combs[k].store = s.combs[k].store ∧
    (s.combs[k].rng.step = w64 (d.field 40 8) → t.combs[k].gens = s.combs[k].gens) ∧
    (s.combs[k].rng.step ≠ w64 (d.field 40 8) → s.combs[k].rng.state = 1 →
      t.combs[k].gens = { seed := some s.combs[k].rng.seed } ∧ t.combs[k].rng.step = w64 (d.field 40 8)) := by
  obtain ⟨e, he, heq⟩ := effCompute_starts hd hm ho hk hidle hlive hf
  have hrng : (computeOwed p r d s).combs[k].rng = s.combs[k].rng := (computeOwed_within p r d s).comb_rng k (by decide)
  have hgens : (computeOwed p r d s).combs[k].gens = s.combs[k].gens := rfl
  have hw : Within [.out, .host, .draws, .combRegs, .rings, .evq, .partRegs, .mod] s
      (seededFor k p (w64 (d.field 40 8)) (computeOwed p r d s)) :=
    Within.trans ((computeOwed_within p r d s).mono (by decide)) ((seededFor_within k p).mono (by decide))
  have hsame := seededFor_same k p (s := computeOwed p r d s) (step := w64 (d.field 40 8))
  have hnew := seededFor_new k p (s := computeOwed p r d s) (step := w64 (d.field 40 8))
  rw [hrng] at hsame hnew
  rw [hgens] at hsame
  have hsize : sizeOf (seededFor k p (w64 (d.field 40 8)) (computeOwed p r d s)) p = sizeOf s p := by
    simp only [Machine.sizeOf, hw.part_psize p (by decide)]
  refine does_of_exec (congrArg Host.Outcome.next heq) ?_
  generalize seededFor k p (w64 (d.field 40 8)) (computeOwed p r d s) = u at hw hsame hnew hsize
  have hcomb : ∀ f : Seq → Seq, (u.modSeq k f).combs[k] = { u.combs[k] with seq := f u.combs[k].seq } := modSeq_same u k
  refine ⟨?_, ?_, ?_, ?_, ?_, fun i => ?_, ?_, ?_, fun h => ?_, fun h hok => ?_⟩
  · rw [modSeq_seq]; rfl
  · rw [modSeq_seq]; rfl
  · rw [modSeq_seq, startSeq, he]; rfl
  · rw [modSeq_seq, startSeq, he]; rfl
  · rw [modSeq_seq, startSeq, he]; rfl
  · rw [sreg_startRegs (s := u) (p := p) (e := e) (by rw [modSeq_seq]; rfl), he, hsize]
    rfl
  · rw [modSeq_seq, ← hw.comb_seq k (by decide)]; rfl
  · rw [hcomb, ← hw.comb_store k (by decide)]
  · rw [hcomb]
    exact hsame h
  · rw [hcomb]
    exact hnew h hok

end Start

/-! ### A word that spells no instruction (R114, R115) -/

section BadWord

variable {s : State} {k : Comb} (hcan : canIssue s k = true) (hbad : fetchBad s k = true) (h : PredF)
include hcan hbad

theorem issueTo_badWord (b : Bool) (goal : Int) (body : State → State) : issueTo k h b goal body s = illegal k s := by
  unfold issueTo
  simp only [hcan, hbad, Bool.not_true, Bool.false_eq_true, if_false, if_true]

theorem issueIf_badWord (b : Bool) (check : State → Block) (body : State → State) :
    issueIf k h b check body s = illegal k s := by
  unfold issueIf
  simp only [hcan, hbad, Bool.not_true, Bool.false_eq_true, true_or, if_false, if_true]
  exact issueTo_badWord hcan hbad h b _ body

theorem issueNoPen_badWord (f : State → State) : issueNoPen k h f s = illegal k s := by
  unfold issueNoPen
  simp only [hcan, hbad, Bool.not_true, Bool.false_eq_true, or_true, if_false, if_true]

end BadWord

/-! ### A program ends (R145, R147) -/

/-- The part of its descriptor that a program without a fault ends with: OK, or SQUASHED under its first squashed predicate. -/
def endedPart (q : Seq) (k : Comb) (e : Desc) : Desc :=
  match q.squashFirst with
  | some m => e.combEnd k stSquashed (w32 m.val) (BitVec.ofNat 56 q.squashBytes)
  | none => e.combEnd k stOK 0 0

/-- A sequencer whose program has ended. -/
def idleSeq (q : Seq) : Seq :=
  { q with state := 0, stall := 0, running := none, ending := false, wait := none, regs := .replicate 32 0, specs := [] }

/-- The one value that a search over distinct keys can find. -/
theorem findSome?_at {α β : Type} [DecidableEq α] {l : List α} {k : α} (h : k ∈ l) (x : β) :
    l.findSome? (fun c => if c = k then some x else none) = some x := by
  induction l with
  | nil => cases h
  | cons c l ih =>
    rw [List.findSome?_cons]
    by_cases hc : c = k
    · rw [if_pos hc]
    · rw [if_neg hc]
      exact ih ((List.mem_cons.1 h).resolve_left (Ne.symm hc))

theorem combEnd_left {d : Desc} {k : Comb} (h : d.combsLeft = [k]) (st : Byte) (x : Word) (y : BitVec 56) :
    (d.combEnd k st x y).combsLeft = [] := by
  simp [Desc.combEnd, h]

/-- The state in which a program's part of descriptor i has ended and its sequencer is idle. -/
def partEnded (k : Comb) (p : Part) (r : Ring) (i : Word) (s : State) : State :=
  (s.modDesc p r i fun e => (endedPart s.combs[k].seq k e).settle (serving s p r)).modSeq k idleSeq

section Settle

variable {d : Desc} (hleft : d.combsLeft = [])
include hleft

theorem settle_ok (hfails : d.fails = []) (j : Comb) : d.settle j = d.decide' stOK (w32 d.moved) 0 j := by
  unfold Desc.settle Desc.worst Desc.squashedPart
  rw [hleft, hfails]
  rfl

/-- A descriptor one of whose parts was squashed, and none failed, is decided SQUASHED. -/
theorem settle_squashed {a : Word} {b : BitVec 56} {k : Comb} (hfails : d.fails = [(stSquashed, a, b, k)]) (j : Comb) :
    ∃ y, d.settle j = d.decide' stSquashed a y k := by
  have hfind : ∀ c : Comb, d.fails.find? (fun f => decide (f.1 = stSquashed) && decide (f.2.2.2 = c)) =
      if c = k then some (stSquashed, a, b, k) else none := fun c => by
    rw [hfails]
    by_cases hc : c = k <;> simp [hc, Ne.symm]
  have hpart : d.squashedPart = some (stSquashed, a, b, k) := by
    unfold Desc.squashedPart
    simp only [hfind]
    exact findSome?_at (mem_fins k) _
  have hworst : d.worst = none := by
    unfold Desc.worst
    rw [hfails]
    rfl
  exact ⟨_, by simp only [Desc.settle, hleft, hworst, hpart]; rfl⟩

end Settle

section End

variable {s : State} {p : Part} {r : Ring} {i : Word} {k : Comb} (hrun : s.combs[k].seq.running = some ⟨p, r, i⟩)
  (hwait : s.combs[k].seq.waiting = [])
include hrun hwait

/-- A program that no other waits behind leaves its sequencer idle. -/
theorem endProgram_eq : endProgram k s = (partEnded k p r i s).modSeq k fun q => { q with waiting := [] } := by
  have hw : (partEnded k p r i s).combs[k].seq.waiting = [] := by
    rw [partEnded, modSeq_seq]
    exact hwait
  have he : endProgram k s = startNext k (partEnded k p r i s) := by
    unfold endProgram
    rw [hrun]
    rfl
  rw [he, startNext, hw]
  rfl

theorem endProgram_seq : (endProgram k s).combs[k].seq = { idleSeq s.combs[k].seq with waiting := [] } := by
  rw [endProgram_eq hrun hwait, modSeq_seq, partEnded, modSeq_seq]
  rfl

theorem endProgram_within : Within [.seq, .rings] s (endProgram k s) := by
  rw [endProgram_eq hrun hwait]
  exact (modSeq_without _ _ _ _ (by decide)).trans <| (modSeq_without _ _ _ _ (by decide)).trans
    (modDesc_without _ _ _ _ _ _ (by decide))

theorem sreg_endProgram (a : SReg) : sreg (endProgram k s) k a = 0 := by
  unfold sreg
  rw [endProgram_seq hrun hwait]
  split
  · rfl
  · exact Vector.getElem_replicate ..

end End

section Outcome

variable {s : State} {p : Part} {r : Ring} {d : Desc} {k : Comb} (hrun : s.combs[k].seq.running = some ⟨p, r, d.idx⟩)
  (hwait : s.combs[k].seq.waiting = []) (hf : findDesc s.parts[p].rings[r] d.idx = some d)
include hrun hwait hf

/-- The descriptor of an ended program stands in its ring with its part ended. -/
theorem endProgram_settles :
    (endedPart s.combs[k].seq k d).settle (serving s p r) ∈ (endProgram k s).parts[p].rings[r].descs := by
  rw [endProgram_eq hrun hwait]
  exact modDesc_mem (findDesc_mem hf) fun e => (endedPart s.combs[k].seq k e).settle (serving s p r)

variable (hleft : d.combsLeft = [k]) (hfails : d.fails = []) (hdone : d.stage ≠ .done)
include hleft hfails hdone

theorem endProgram_ok (hs : s.combs[k].seq.squashFirst = none) : Ended (endProgram k s) p r d stOK (w32 d.moved) 0 := by
  have hmem := endProgram_settles hrun hwait hf
  have hpart : endedPart s.combs[k].seq k d = d.combEnd k stOK 0 0 := by
    unfold endedPart
    rw [hs]
  rw [hpart, settle_ok (d := d.combEnd k stOK 0 0) (combEnd_left hleft ..) hfails] at hmem
  refine ⟨_, hmem, ?_⟩
  simp [Desc.decide', Desc.combEnd, hdone]

theorem endProgram_squashed {m : PredIx} (hs : s.combs[k].seq.squashFirst = some m) :
    ∃ y, Ended (endProgram k s) p r d stSquashed (w32 m.val) y := by
  have hmem := endProgram_settles hrun hwait hf
  have hpart : endedPart s.combs[k].seq k d =
      d.combEnd k stSquashed (w32 m.val) (BitVec.ofNat 56 s.combs[k].seq.squashBytes) := by
    unfold endedPart
    rw [hs]
  obtain ⟨y, hy⟩ := settle_squashed (d := d.combEnd k stSquashed (w32 m.val) (BitVec.ofNat 56 s.combs[k].seq.squashBytes))
    (combEnd_left hleft ..) (by rw [Desc.combEnd, hfails]; rfl) (serving s p r)
  rw [hpart, hy] at hmem
  refine ⟨y, _, hmem, ?_⟩
  simp [Desc.decide', Desc.combEnd, hdone]

end Outcome

/-- Settles O51: the start by the descriptor's fields, the end by whether END's conditions hold. -/
theorem programsStartAndEnd : Obligations.ProgramsStartAndEnd := by
  refine fun s p r d k => ⟨fun m hd hm ho hk hidle hlive hf => compute_starts hd hm ho hk hidle hlive hf,
    fun h a b c hcan hbad => ⟨?_, ?_, ?_, ?_⟩, fun hend hrun hready hwait hf => ?_, fun hend hready => ?_⟩
  · exact congrArg Host.Outcome.next (issueTo_badWord hcan hbad h _ _ _)
  · exact congrArg Host.Outcome.next (issueTo_badWord hcan hbad h _ _ _)
  · exact congrArg Host.Outcome.next (issueIf_badWord hcan hbad h _ _ _)
  · exact congrArg Host.Outcome.next (issueNoPen_badWord hcan hbad h _)
  · have he : exec (.programEnd k) s = .next (endProgram k s) :=
      congrArg Host.Outcome.next (if_pos (by rw [hend, hrun, hready]; rfl))
    have hseq := endProgram_seq hrun hwait
    refine does_of_exec he ⟨by rw [hseq]; rfl, by rw [hseq]; rfl, sreg_endProgram hrun hwait, endProgram_within hrun hwait,
      fun hleft hfails hdone => ⟨endProgram_ok hrun hwait hf hleft hfails hdone,
        fun m hs => endProgram_squashed hrun hwait hf hleft hfails hdone hs⟩⟩
  · exact congrArg Host.Outcome.next (if_neg (by rw [hready, Bool.and_false]; decide))

end Sys2Proof.ProgramProofs
end

section
/-! MOVE, CELL and HILD, predicates that resolve, held writes that leave, and transfers that complete (R118, R124, R132–R139,
R146, R160, R271). -/

namespace Sys2Proof.HeldWriteProofs

open Sys2Proof Sys2Proof.Machine Sys2Proof.MemoryProofs Sys2Proof.JobFaultProofs Sys2Proof.RingProofs Sys2Proof.PollProofs
  Sys2Proof.DescriptorProofs Sys2Proof.PredicateProofs Sys2Proof.ScalarProofs

/-! ### An instruction issues behind the one before it -/

/-- An instruction that runs where it could also be speculated runs where it could not. -/
theorem guardOf_run {s : State} {k : Comb} {h : PredF} (hg : guardOf s k h true = .run) : guardOf s k h false = .run := by
  unfold guardOf at hg ⊢
  cases hp : h.pen with
  | false => rfl
  | true =>
    rw [hp] at hg
    cases hv : s.combs[k].seq.preds[h.pred] with
    | pending =>
      simp only [hv, Bool.not_true, Bool.false_eq_true, if_false] at hg
      split at hg <;> cases hg
    | isTrue => rwa [hv] at hg
    | isFalse => rwa [hv] at hg

section Stepped

variable (s : State) (k : Comb)

/-- The instruction that has just issued, by its place and its number. -/
theorem stepped_place : (stepped k s).combs[k].seq.pc - 8 = s.combs[k].seq.pc ∧
    (stepped k s).combs[k].seq.issued - 1 = s.combs[k].seq.issued := by
  rw [stepped_seq]
  dsimp only
  exact ⟨add_sub_cancel_right _ _, Nat.add_sub_cancel _ _⟩

theorem combRead_stepped (a n : Nat) : combRead (stepped k s) k a n = combRead s k a n := by
  rw [combRead, (stepped_within k s).comb_store k (by decide), combRead]

end Stepped

/-- The predicate of an instruction that runs is not pending: what it queues waits under none (R138). -/
theorem specOf_stepped {s : State} {k : Comb} {h : PredF} (hi : Issues s k h) :
    specOf (stepped k s) k h = { h with pen := false } ∧ specOf s k h = { h with pen := false } := by
  have hn := hi.resolved
  unfold specOf
  rw [stepped_seq]
  exact ⟨by rw [hn], by rw [hn]⟩

/-! ### CELL (R160) -/

/-- The block that CELL copies into the queue of each cell it names. -/
def cellBlock (s : State) (k : Comb) (a : Nat) : OpBlock :=
  ⟨combRead s k a 128, s.combs[k].seq.pc - 8, s.combs[k].seq.issued - 1⟩

/-- One named cell takes the block into its queue. -/
def queueBlock (k : Comb) (a : Nat) (q : Seq) (n : Cell) (s : State) : State :=
  s.modCell k (physCell s k n) fun cs => { cs with queue := cs.queue ++ [⟨combRead s k a 128, q.pc - 8, q.issued - 1⟩] }

/-- Two logical cells of a comb are two physical ones: the spare stands in for at most one (R178). -/
theorem physCell_inj {s : State} {k : Comb} {n m : Cell} (h : physCell s k n = physCell s k m) : n = m := by
  have hlast : ∀ c : Cell, c.castSucc ≠ (20 : PCell) := fun c => Fin.ne_of_lt c.castSucc_lt_last
  unfold physCell at h
  split at h <;> split at h
  · next hn hm => exact Fin.ext (hn.symm.trans hm)
  · exact absurd h.symm (hlast m)
  · exact absurd h (hlast n)
  · exact Fin.castSucc_injective 20 h

theorem modCell_cells (s : State) (k : Comb) (c : PCell) (f : CellState → CellState) (n : PCell) :
    (s.modCell k c f).combs[k].cells[n] = if c = n then f s.combs[k].cells[n] else s.combs[k].cells[n] := by
  rw [State.modCell, modComb_at]
  simp only [Fin.getElem_fin, upd_get, Fin.ext_iff]

section Cell

variable (k : Comb) (a : Nat) (q : Seq)

theorem queueBlock_within (n : Cell) (s : State) : Within [.cellRun] s (queueBlock k a q n s) :=
  modCell_without _ _ _ _ _ fun _ => rfl

theorem physCell_congr {m : List Piece} {s t : State} (w : Within m s t) (h : m.contains .combMap = false) (n : Cell) :
    physCell t k n = physCell s k n := by
  unfold physCell
  rw [w.comb_subst k h]

/-- Each named cell takes the block at the end of its queue. -/
theorem queueBlocks_queue {l : List Cell} (hl : l.Nodup) {n : Cell} {j : PCell} {s : State} (hj : physCell s k n = j) :
    (forEach l (queueBlock k a q) s).combs[k].cells[j].queue = s.combs[k].cells[j].queue ++
      if n ∈ l then [⟨combRead s k a 128, q.pc - 8, q.issued - 1⟩] else [] := by
  induction l generalizing s with
  | nil => exact (List.append_nil _).symm
  | cons c l ih =>
    obtain ⟨hc, hl⟩ := List.nodup_cons.1 hl
    have hw := queueBlock_within k a q c s
    have hread : combRead (queueBlock k a q c s) k a 128 = combRead s k a 128 := by
      rw [combRead, hw.comb_store k (by decide), combRead]
    refine (ih hl ((physCell_congr k hw (by decide) n).trans hj)).trans ?_
    rw [hread, queueBlock, modCell_cells]
    by_cases hn : n = c
    · subst hn
      rw [if_pos hj, if_neg hc, if_pos (List.mem_cons_self ..)]
      exact List.append_nil _
    · have hne : physCell s k c ≠ j := fun h => hn (physCell_inj (hj.trans h.symm))
      simp only [if_neg hne, List.mem_cons, hn, false_or]

theorem queueBlocks_within (l : List Cell) (s : State) : Within [.cellRun] s (forEach l (queueBlock k a q) s) :=
  forEach_without _ _ _ _ fun n t => queueBlock_within k a q n t

end Cell

theorem cellsOf_nodup (mask : Nat) : (cellsOf mask).Nodup := (fins_nodup 20).filter _

section Queue

variable {s : State} {k : Comb} {h : PredF} (hi : Issues s k h) (b c : SReg)
include hi

theorem cell_queues (hc : cellCheck k (sreg s k b).toNat (sreg s k c).toNat s = .none) : Does (.cell k h b c) s fun t =>
    (∀ n ∈ cellsOf (sreg s k b).toNat, t.combs[k].cells[physCell s k n].queue = s.combs[k].cells[physCell s k n].queue ++
      [⟨combRead s k (sreg s k c).toNat 128, s.combs[k].seq.pc, s.combs[k].seq.issued⟩]) ∧
    t.combs[k].seq.pc = s.combs[k].seq.pc + 8 ∧ Within [.seq, .cellRun] s t := by
  obtain ⟨hpc, hissued⟩ := stepped_place s k
  have hw := queueBlocks_within k (sreg s k c).toNat (stepped k s).combs[k].seq (cellsOf (sreg s k b).toNat) (stepped k s)
  refine does_of_exec (congrArg Host.Outcome.next (hi.runs _ hc)) ⟨fun n hn => ?_, ?_,
    Within.trans ((stepped_within k s).mono (by decide)) (hw.mono (by decide))⟩
  · have hq := queueBlocks_queue k (sreg s k c).toNat (stepped k s).combs[k].seq (cellsOf_nodup (sreg s k b).toNat)
      (physCell_congr k (stepped_within k s) (by decide) n)
    rw [if_pos hn, hpc, hissued, combRead_stepped] at hq
    refine hq.trans (congrArg (· ++ _) ?_)
    rw [stepped, stepPc, State.modSeq, modComb_at]
  · exact (congrArg Seq.pc (hw.comb_seq k (by decide))).trans (by rw [stepped_seq])

/-! ### HILD (R271) -/

theorem hild_queues {first : BitVec 12} (hc : hildCheck k (sreg s k b) (sreg s k c) first.toNat s = .none) :
    Does (.hild k h b c first) s fun t => t.supers[k].hild.queue = s.supers[k].hild.queue ++
        [⟨k, first.toNat, (sreg s k b).toNat, sreg s k 2, sreg s k c, s.combs[k].seq.progNo, none, none⟩] ∧
      t.combs[k].seq.pc = s.combs[k].seq.pc + 8 ∧ Within [.seq, .hild] s t := by
  have hgate := (specOf_stepped hi).1
  have hprog : (stepped k s).combs[k].seq.progNo = s.combs[k].seq.progNo := by rw [stepped_seq]
  refine does_of_exec (congrArg Host.Outcome.next (hi.runs _ hc)) ⟨?_, ?_,
    Within.trans ((stepped_within k s).mono (by decide)) (modHild_without _ _ _ _ (by decide))⟩
  · dsimp only
    rw [State.modHild, modSuper_at, hgate, hprog, sreg_stepped]
    rfl
  · exact congrArg Seq.pc (stepped_seq k s)

/-! ### MOVE (R118) -/

/-- A MOVE that passes its checks behind an empty retention buffer joins its forager's queue. -/
theorem move_queues {p : Part} {f : Fin 4} (hp : partOf s k = some p) (hfault : moveFault k p (sreg s k b).toNat s = .none)
    (hstall : moveStall k p h (decodeXfer (combRead s k (sreg s k b).toNat 64)) f s = .none)
    (hdst : (decodeXfer (combRead s k (sreg s k b).toNat 64)).dstSpace ≠ 5) (hr : s.combs[k].seq.retain = []) :
    Does (.move k h b f) s fun t => t.combs[k].seq.queues[pickForager s.combs[k].seq f] =
        s.combs[k].seq.queues[pickForager s.combs[k].seq f] ++
          [⟨combRead s k (sreg s k b).toNat 64, s.combs[k].seq.pc, specOf s k h, false, s.combs[k].seq.issued⟩] ∧
      t.combs[k].seq.pc = s.combs[k].seq.pc + 8 ∧ t.combs[k].seq.retain = [] ∧ Within [.seq] s t := by
  obtain ⟨hpc, hissued⟩ := stepped_place s k
  obtain ⟨hspec', hspec⟩ := specOf_stepped hi
  generalize hblk : combRead s k (sreg s k b).toNat 64 = blk at hstall hdst
  have hhold : mustHold (stepped k s) k h = false := by rw [mustHold_stepped hi, hr]; rfl
  have hnote : ∀ t, noteMove k p (decodeXfer blk) .none t = t := fun t => by
    simp only [noteMove, noteRetain, if_neg hdst]
  have he : exec (.move k h b f) s = .next (moveIssue k p h blk f (stepped k s)) := by
    refine congrArg Host.Outcome.next ?_
    unfold effMove
    simp only [hp, hblk, hfault, hstall, hnote, ite_self]
    exact hi.runs _ (by simp only [hfault, hstall])
  have hseq : (moveIssue k p h blk f (stepped k s)).combs[k].seq = { (stepped k s).combs[k].seq with
      queues := upd (stepped k s).combs[k].seq.queues (pickForager (stepped k s).combs[k].seq f) fun ts =>
        ts ++ [⟨blk, s.combs[k].seq.pc, specOf s k h, false, s.combs[k].seq.issued⟩] } := by
    unfold moveIssue
    simp only [hhold, if_neg hdst, modSeq_seq, Bool.false_and, Bool.false_eq_true, if_false, hpc, hissued, hspec', hspec]
  have hpick : pickForager (stepped k s).combs[k].seq f = pickForager s.combs[k].seq f := by
    rw [stepped_seq]
    rfl
  refine does_of_exec he ⟨?_, ?_, ?_, ?_⟩
  · rw [hseq, hpick, upd_same, stepped_seq]
  · rw [hseq, stepped_seq]
  · rw [hseq, stepped_seq]
    exact hr
  · unfold moveIssue
    simp only [if_neg hdst]
    exact Within.trans (stepped_within k s) (modSeq_within ..)

end Queue

/-! ### A predicate resolves (R125, R138, R139) -/

/-- No Hild unit has a run queued or at work. -/
def HildIdle (s : State) : Prop := ∀ u : Super, s.supers[u].hild.queue = [] ∧ s.supers[u].hild.cur = none

theorem openGate_idle {u : Super} {s : State} (h : s.supers[u].hild.cur = none) : openGate u s = s := by
  unfold openGate
  rw [h]

theorem modHild_hild (s : State) (u w : Super) (f : Hild → Hild) :
    (s.modHild u f).supers[w].hild = if u = w then f s.supers[w].hild else s.supers[w].hild := by
  simp only [State.modHild, Fin.getElem_fin, modSuper_get]
  split <;> rfl

theorem modHild_idle {s : State} (h : HildIdle s) (u : Super) {f : Hild → Hild}
    (hf : ∀ g : Hild, g.queue = [] → g.cur = none → (f g).queue = [] ∧ (f g).cur = none) :
    HildIdle (s.modHild u f) := fun w => by
  obtain ⟨hq, hc⟩ := h w
  rw [modHild_hild]
  split
  · exact hf _ hq hc
  · exact ⟨hq, hc⟩

theorem modHild_within (s : State) (u : Super) (f : Hild → Hild) : Within [.hild] s (s.modHild u f) :=
  modHild_without _ _ _ _ (by decide)

/-- Where no run is queued or at work, a predicate that resolves touches the Hild units alone. -/
theorem resolveGate_idle {s : State} (h : HildIdle s) (k : Comb) (m : PredIx) (v : Bool) (u : Super) :
    HildIdle (resolveGate k m v u s) ∧ Within [.hild] s (resolveGate k m v u s) := by
  obtain ⟨x, hx, hidle, hw⟩ : ∃ x, resolveGate k m v u s = openGate u x ∧ HildIdle x ∧ Within [.hild] s x := by
    refine ⟨_, rfl, modHild_idle (modHild_idle (modHild_idle h u ?_) u ?_) u ?_,
      Within.trans (modHild_within ..) (Within.trans (modHild_within ..) (modHild_within ..))⟩
    · exact fun g hq hc => by simp [hq, hc]
    · exact fun g hq hc => ⟨hq, hc⟩
    · exact fun g hq hc => by simp [hq, hc]
  rw [hx, openGate_idle (hidle u).2]
  exact ⟨hidle, hw⟩

theorem resolveGates_idle {s : State} (h : HildIdle s) (k : Comb) (m : PredIx) (v : Bool) :
    Within [.hild] s (resolveGates k m v s) := by
  suffices hl : ∀ (l : List Super) (t : State), HildIdle t → Within [.hild] t (forEach l (resolveGate k m v) t) from hl _ s h
  intro l
  induction l with
  | nil => exact fun t _ => rfl
  | cons u l ih =>
    intro t ht
    obtain ⟨hi, hw⟩ := resolveGate_idle ht k m v u
    exact Within.trans hw (ih _ hi)

theorem squashHeld_seq (k : Comb) (f : Held → Bool) (s : State) : (squashHeld k f s).combs[k].seq = { s.combs[k].seq with
    retain := s.combs[k].seq.retain.filter fun e => !f e
    squash := hitN 16 (issuesOf (s.combs[k].seq.retain.filter f)).length s.combs[k].seq.squash } := by
  unfold squashHeld
  dsimp only
  split
  · exact modSeq_seq ..
  · rw [modCtx_combs]
    exact modSeq_seq ..

/-- A held entry whose predicate m has resolved to v against its SENSE. -/
def lostUnder (m : PredIx) (v : Bool) (e : Held) : Bool := e.spec.pen && decide (e.spec.pred = m) && (e.spec.sense != v)

/-- A held entry that waits under predicate m no longer. -/
def letGo (m : PredIx) (e : Held) : Held := if e.spec.pred = m then { e with spec := { e.spec with pen := false } } else e

theorem resolvePred_idle {s : State} (h : HildIdle s) (k : Comb) (m : PredIx) (v : Bool) :
    Within [.seq, .ctx, .hild] s (resolvePred k m v s) ∧
    (resolvePred k m v s).combs[k].seq.preds[m] = pstate v ∧
    (resolvePred k m v s).combs[k].seq.retain = (s.combs[k].seq.retain.filter fun e => !lostUnder m v e).map (letGo m) ∧
    (resolvePred k m v s).combs[k].seq.arms = upd s.combs[k].seq.arms m fun _ => .none := by
  obtain ⟨x, hx, hw, hseq⟩ : ∃ x, resolvePred k m v s = resolveGates k m v x ∧ Within [.seq, .ctx] s x ∧
      x.combs[k].seq.preds[m] = pstate v ∧
      x.combs[k].seq.retain = (s.combs[k].seq.retain.filter fun e => !lostUnder m v e).map (letGo m) ∧
      x.combs[k].seq.arms = upd s.combs[k].seq.arms m fun _ => .none := by
    refine ⟨_, rfl, Within.trans (squashHeld_without (k := k) (by decide)) (Within.trans (setPred_without (by decide))
      (modSeq_without _ _ _ _ (by decide))), ?_⟩
    rw [modSeq_seq, setPred_seq, squashHeld_seq]
    exact ⟨upd_same .., rfl, rfl⟩
  have hgates : Within [.hild] x (resolveGates k m v x) := resolveGates_idle (fun u => by
    rw [hw.super_hild u (by decide)]
    exact h u) k m v
  rw [hx, hgates.comb_seq k (by decide)]
  exact ⟨Within.trans (hw.mono (by decide)) (hgates.mono (by decide)), hseq⟩

/-- A comb that awaits no verdict posts no vote. -/
theorem postVote_none {s : State} {k : Comb} (h : s.combs[k].seq.arms[(0 : PredIx)] = .none) : postVote k s = s := by
  unfold postVote
  rw [h]

theorem predicateResolve_lets {s : State} {k : Comb} {m : PredIx} {v : Bool} (hm : m ≠ 0) (hv : resolution s k m = some v)
    (ha : s.combs[k].seq.arms[(0 : PredIx)] = .none) (hidle : HildIdle s) : Does (.predicateResolve k m) s fun t =>
      t.combs[k].seq.preds[m] = pstate v ∧
      t.combs[k].seq.retain = (s.combs[k].seq.retain.filter fun e => !lostUnder m v e).map (letGo m) ∧
      Within [.seq, .ctx, .hild] s t := by
  obtain ⟨hw, hpred, hretain, harms⟩ := resolvePred_idle hidle k m v
  have hnone : (resolvePred k m v s).combs[k].seq.arms[(0 : PredIx)] = .none := by
    rw [harms, upd_other _ _ _ _ hm]
    exact ha
  have he : exec (.predicateResolve k m) s = .next (resolvePred k m v s) := by
    refine congrArg Host.Outcome.next ?_
    unfold effResolve
    rw [if_neg (show ¬m.val = 0 from fun h0 => hm (Fin.ext h0)), hv]
    exact postVote_none hnone
  exact does_of_exec he ⟨hpred, hretain, hw⟩

theorem exec_ownVerdict {s : State} {k : Comb} {p : Part} (hp : partOf s k = some p) (hv : votesOnFabric s p = false)
    (hn : sizeOf s p ≤ s.parts[p].votes.length) : exec (.predicateResolve k 0) s =
      .next (verdictAt p (combineVotes s.parts[p].votes) (s.modPart p fun q => { q with votes := [] })) := by
  refine congrArg Host.Outcome.next ?_
  unfold effResolve
  rw [if_pos (show (0 : PredIx).val = 0 from rfl), hp]
  unfold ownVerdict
  exact if_neg (by rw [hv]; simpa using hn)

/-! ### Held writes leave (R134, R138) -/

theorem hostWrites_posts (s : State) (f : Fn) (a : Nat) (bs : Bytes) (data : Bool) :
    ∀ x ∈ hostWrites s f a bs data, ∃ n o, x = .post n o := by
  intro x hx
  obtain ⟨e, -, rfl⟩ := List.mem_map.1 hx
  exact ⟨_, _, rfl⟩

section Posts

variable {f : Fn} {xs : List HostItem} (hx : ∀ x ∈ xs, ∃ n o, x = .post n o)
include hx

theorem hostPutAll_leave {s : State} (hw : s.host.waiting[f] = []) (hc : canRequest s f = true) :
    hostPutAll f xs s = { s with out := (xs.map (HostItem.sent s f)).reverse ++ s.out } := by
  induction xs generalizing s with
  | nil => rfl
  | cons x xs ih =>
    obtain ⟨n, o, rfl⟩ := hx x (List.mem_cons_self ..)
    have hmay : mayIssue s f (.post n o) = canRequest s f := Bool.and_true _
    have hput : hostPut f (.post n o) s = emit (asSent s f o) s :=
      (hostPut_issued hw (hmay.trans hc)).trans (issueHost_post ..)
    have hsent : HostItem.sent (emit (asSent s f o) s) f = HostItem.sent s f := funext fun y => sent_congr rfl
    have hstep : hostPutAll f (.post n o :: xs) s = hostPutAll f xs (emit (asSent s f o) s) := congrArg (hostPutAll f xs) hput
    rw [hstep, ih (fun y hy => hx y (List.mem_cons_of_mem _ hy)) (s := emit (asSent s f o) s) hw hc, hsent]
    simp [emit, HostItem.sent]

theorem hostPutAll_wait {s : State} (h : ¬(s.host.waiting[f] = [] ∧ canRequest s f = true)) :
    (hostPutAll f xs s).out = s.out ∧ (hostPutAll f xs s).host.waiting[f] = s.host.waiting[f] ++ xs := by
  induction xs generalizing s with
  | nil => exact ⟨rfl, (List.append_nil _).symm⟩
  | cons x xs ih =>
    obtain ⟨n, o, rfl⟩ := hx x (List.mem_cons_self ..)
    have hmay : mayIssue s f (.post n o) = canRequest s f := Bool.and_true _
    have hput := hostPut_waits (f := f) (x := .post n o) (s := s)
      (by rw [hmay]; simpa [Classical.or_iff_not_imp_left] using h)
    have hwait : (hostPut f (.post n o) s).host.waiting[f] = s.host.waiting[f] ++ [.post n o] := by
      rw [hput]
      exact upd_same ..
    obtain ⟨hout, hq⟩ := ih (fun y hy => hx y (List.mem_cons_of_mem _ hy)) (s := hostPut f (.post n o) s)
      fun hc => by simp [hwait] at hc
    refine ⟨hout.trans (by rw [hput]), hq.trans ?_⟩
    rw [hwait, List.append_assoc]
    rfl

/-- Posted writes presented in order leave or wait in order (R426). -/
theorem hostPutAll_posted (s : State) : Posted f xs s (hostPutAll f xs s) := by
  unfold Posted
  split
  · next h =>
    rw [hostPutAll_leave hx h.1 h.2]
    exact ⟨rfl, rfl⟩
  · next h => exact hostPutAll_wait hx h

end Posts

theorem flowOf_congr {s t : State} {p : Part} {k : Comb} (hh : t.combs[k].hum = s.combs[k].hum) (hp : t.parts = s.parts)
    (i : Nat) : flowOf t p k i = flowOf s p k i := by
  simp only [flowOf, ttOf, hh, hp]

/-- A semaphore that takes a value leaves what is held. -/
theorem semApply_retain (p : Part) (i : Nat) (add : Bool) (v : DWord) (s : State) (k : Comb) :
    (semApply p i add v s).combs[k].seq.retain = s.combs[k].seq.retain :=
  forEach_keeps (fun s => s.combs[k].seq.retain) _ _ _ fun j u => by
    simp only [State.modSeq, Fin.getElem_fin, modComb_get]
    split <;> rfl

section Release

variable {s : State} {k : Comb} {e : Held} {l : List Held} {p : Part} (hr : s.combs[k].seq.retain = e :: l)
  (hp : partOf s k = some p)
include hr hp

theorem effRelease_waits (hs : entryServed s k p e.kind = false) : effRelease k s = s := by
  unfold effRelease
  rw [hr, hp]
  exact if_pos (.inr (.inr (.inl hs)))

/-- A semaphore operation waits for what was released before it. -/
theorem effRelease_semOp_waits {i : Nat} {add : Bool} {v : DWord} (hk : e.kind = .semOp i add v)
    (hb : (∃ w ∈ s.combs[k].seq.unacked, w.held ≠ none) ∨ heldFlits s k ≠ []) : effRelease k s = s := by
  refine effRelease_waits hr hp ?_
  rw [hk, entryServed, Bool.and_eq_false_iff, List.all_eq_false]
  exact hb.imp (fun ⟨w, hw, hh⟩ => ⟨w, hw, by simpa using hh⟩) (fun hf => by simpa using hf)

variable (hpen : e.spec.pen = false) (hfill : e.filled = true) (hstate : s.combs[k].seq.state ≠ 3)
include hpen hfill hstate

/-- A head entry that is served leaves the buffer for its destination. -/
theorem effRelease_leaves (hs : entryServed s k p e.kind = true) : effRelease k s =
    match putWrite k p e.issue true none e.kind (s.modSeq k fun q => { q with retain := l }) with
    | (u, none) => u
    | (u, some m) => memFault k p e.pc m u := by
  unfold effRelease
  rw [hr, hp]
  refine if_neg ?_
  rw [hpen, hfill, hs]
  simp only [Bool.false_eq_true, Bool.true_eq_false, false_or]
  exact hstate

/-- A semaphore operation that nothing released before it is unacknowledged changes its semaphore. -/
theorem release_semOp {i : Nat} {add : Bool} {v : DWord} (hk : e.kind = .semOp i add v)
    (ha : ∀ w ∈ s.combs[k].seq.unacked, w.held = none) (hf : heldFlits s k = []) : Does (.retentionRelease k) s fun t =>
      t.combs[k].seq.retain = l ∧ semVal t p i = (if add then semVal s p i + v else v) ∧ Within [.seq, .rings, .sems] s t := by
  have hs : entryServed s k p e.kind = true := by
    rw [hk, entryServed, hf, Bool.and_eq_true, List.all_eq_true]
    exact ⟨fun w hw => by rw [ha w hw]; rfl, rfl⟩
  have he : exec (.retentionRelease k) s = .next (semApply p i add v (s.modSeq k fun q => { q with retain := l })) := by
    refine congrArg Host.Outcome.next ((effRelease_leaves hr hp hpen hfill hstate hs).trans ?_)
    rw [hk]
    rfl
  refine does_of_exec he ⟨?_, ?_, Within.trans ((modSeq_within ..).mono (by decide)) (semApply_without (by decide))⟩
  · rw [semApply_retain, modSeq_seq]
  · rw [semApply, semVal_semWrite, if_pos rfl]
    rfl

theorem release_host {a : DWord} {b : Bytes} {c : Bool} {x : Nat} (hk : e.kind = .host a b c x) :
    Does (.retentionRelease k) s fun t => t.combs[k].seq.retain = l ∧
      t.combs[k].seq.unacked = s.combs[k].seq.unacked ++ [⟨true, s.combs[k].seq.progNo, e.issue, some 0⟩] ∧
      Posted (fnOf p) (hostWrites s (fnOf p) a.toNat b true) s t ∧ Within [.out, .host, .seq] s t := by
  generalize hu : s.modSeq k (fun q => { q with retain := l }) = u
  have hsu : Within [.seq] s u := by rw [← hu]; exact modSeq_within ..
  have hposted := hostPutAll_posted (f := fnOf p) (hostWrites_posts s (fnOf p) a.toNat b true) u
  have he : exec (.retentionRelease k) s =
      .next (awaitAck k true e.issue (some 0) (hostPutAll (fnOf p) (hostWrites s (fnOf p) a.toNat b true) u)) := by
    refine congrArg Host.Outcome.next ((effRelease_leaves hr hp hpen hfill hstate (by rw [hk]; rfl)).trans ?_)
    rw [hk, ← hu]
    rfl
  have hput : Within [.out, .host] u (hostPutAll (fnOf p) (hostWrites s (fnOf p) a.toNat b true) u) :=
    hostPutAll_without (by decide)
  generalize hostPutAll (fnOf p) (hostWrites s (fnOf p) a.toNat b true) u = w at hposted he hput
  have hseq : w.combs[k].seq = { s.combs[k].seq with retain := l } := by rw [hput.comb_seq k (by decide), ← hu, modSeq_seq]
  refine does_of_exec he ⟨?_, ?_, ?_, Within.trans (hsu.mono (by decide)) (Within.trans (hput.mono (by decide))
    (awaitAck_without (by decide)))⟩
  · rw [awaitAck, modSeq_seq, hseq]
  · rw [awaitAck, modSeq_seq, hseq]
  · exact posted_congr hposted (hsu.fns_eq (by decide)).symm (hsu.host_eq (by decide)).symm (hsu.out_eq (by decide)).symm
      rfl rfl

theorem release_flits {i n : Nat} {z : Bool} {fs : List (Bytes × Nat)} {fl : Flow} (hk : e.kind = .flits i n z fs)
    (hf : flowOf s p k i = some fl) : exec (.retentionRelease k) s = .next
      (queueFlits k i (xferFlits fl s.combs[k].seq.progNo true none n z fs) (s.modSeq k fun q => { q with retain := l })) := by
  have hflow : flowOf (s.modSeq k fun q => { q with retain := l }) p k i = some fl :=
    (flowOf_congr ((modSeq_within ..).comb_hum k (by decide)) rfl i).trans hf
  refine congrArg Host.Outcome.next ((effRelease_leaves hr hp hpen hfill hstate (by rw [hk]; rfl)).trans ?_)
  rw [hk]
  simp only [putWrite, hflow, modSeq_seq]

theorem release_ppa {a : Nat} {b : Bytes} (hk : e.kind = .ppa a b) (hs : ppaServes s k p a b.length = true) :
    exec (.retentionRelease k) s = .next
      (match ppaWrite p a b (s.modSeq k fun q => { q with retain := l }) with
      | (u, none) => awaitAck k false e.issue (some (a / 4096)) u
      | (u, some m) => memFault k p e.pc m u) := by
  refine congrArg Host.Outcome.next ((effRelease_leaves hr hp hpen hfill hstate (by rw [hk]; exact hs)).trans ?_)
  rw [hk, putWrite]
  rcases ppaWrite p a b (s.modSeq k fun q => { q with retain := l }) with ⟨u, _ | m⟩ <;> rfl

end Release

/-! ### Acknowledgements (R138) -/

section Ack

variable {s : State} {k : Comb} {w : OutWrite} {ws : List OutWrite} (hu : s.combs[k].seq.unacked = w :: ws)
include hu

/-- The oldest outstanding write is acknowledged: a memory write, or a host write that has been issued. -/
theorem exec_ack_taken (hw : w.host = false ∨ ∀ p, partOf s k = some p → postWaits s (fnOf p) = false) :
    exec (.memoryWriteAck k) s = .next (s.modSeq k fun q => { q with unacked := ws }) := by
  refine congrArg Host.Outcome.next ?_
  rw [hu]
  refine if_neg fun ⟨hh, hany⟩ => ?_
  obtain ⟨p, hp, hpost⟩ := (Option.any_eq_true ..).1 hany
  rcases hw with hw | hw
  · exact absurd (hw.symm.trans hh) (by decide)
  · exact absurd ((hw p hp).symm.trans hpost) (by decide)

theorem exec_ack_waits {p : Part} (hw : w.host = true) (hp : partOf s k = some p) (hpost : postWaits s (fnOf p) = true) :
    exec (.memoryWriteAck k) s = .next s := by
  refine congrArg Host.Outcome.next ?_
  rw [hu]
  exact if_pos ⟨hw, by rw [hp]; exact hpost⟩

end Ack

/-! ### Transfers complete (R119, R140, R146) -/

theorem rowStarts_one {a : Nat} (h : a < 2 ^ 64) (stride : Nat) : rowStarts a stride 1 = [a] := by
  simp only [rowStarts, List.range_one, List.map_cons, List.map_nil, Nat.zero_mul, Nat.add_zero, Nat.mod_eq_of_lt h]

/-- A transfer of one row from a comb store to a comb store, as its bytes leave and reach it. -/
theorem writeLocal_row {k : Comb} {x : Xfer} (hd : x.dstSpace = 2) (h1 : x.rows = 1) (hdst : x.dst < 2 ^ 64) {data : Bytes}
    (hl : data.length = x.rowBytes) (hn : 0 < x.rowBytes) (s : State) : writeLocal k x data s = combWrite k x.dst data s := by
  have hne : data.isEmpty = false := by
    cases data with
    | nil => simp at hl; omega
    | cons _ _ => rfl
  have hrows : dstRows x data = [(x.dst, data)] := by
    rw [dstRows, h1, rowStarts_one hdst]
    simp [rowsOfBytes, hne, ← hl]
  unfold writeLocal
  rw [hrows]
  exact if_pos hd

section Transfer

variable {s : State} {k : Comb} {f : Fin 4} {t0 : Transfer} {ts : List Transfer} {p : Part}
  (hq : s.combs[k].seq.queues[f] = t0 :: ts) (hp : partOf s k = some p)
include hq hp

theorem effTransfer_waits (host : Bytes) (h : overlapsHeld s.combs[k].seq t0 (decodeXfer t0.block) = true ∨
    xferServed s k p t0 (decodeXfer t0.block) = false) : effTransfer k f host s = s := by
  unfold effTransfer
  rw [hq, hp]
  refine if_pos ?_
  rcases h with h | h
  · exact .inr (.inr (.inl h))
  · exact .inr (.inr (.inr (.inr (by rw [h]; rfl))))

variable (hstate : s.combs[k].seq.state ≠ 3) (hrun : s.combs[k].seq.running.isSome = true)
  (hov : overlapsHeld s.combs[k].seq t0 (decodeXfer t0.block) = false)
  (hserved : xferServed s k p t0 (decodeXfer t0.block) = true)
include hstate hrun hov hserved

/-- A transfer that nothing holds back reads its source, then ends by what the read gave. -/
theorem effTransfer_reads {host : Bytes}
    (hlen : (decodeXfer t0.block).srcSpace = 0 → host.length = (decodeXfer t0.block).total) :
    effTransfer k f host s =
      match readSrc k p (decodeXfer t0.block) host (s.modSeq k fun q => { q with queues := upd q.queues f fun _ => ts }) with
      | (u, _, some .gone) => u
      | (u, data, some e) => cutShort k p t0 (decodeXfer t0.block) data (memFault k p t0.movePc e) u
      | (u, data, none) => settleXfer k p t0 (decodeXfer t0.block) data u := by
  have hnone : ¬(s.combs[k].seq.running.isNone = true) := by
    rw [Option.isNone_iff_eq_none]
    exact Option.isSome_iff_ne_none.1 hrun
  unfold effTransfer
  rw [hq, hp]
  refine if_neg ?_
  rw [hov, hserved]
  rintro (h | h | h | ⟨h0, h⟩ | h)
  · exact hstate h
  · exact hnone h
  · cases h
  · exact h (hlen h0)
  · cases h

end Transfer

/-- A transfer of one row between places of its comb store moves its bytes. -/
theorem transfer_moves {s : State} {k : Comb} {f : Fin 4} {t0 : Transfer} {ts : List Transfer} {p : Part} {host : Bytes}
    (hq : s.combs[k].seq.queues[f] = t0 :: ts) (hp : partOf s k = some p) (hstate : s.combs[k].seq.state ≠ 3)
    (hrun : s.combs[k].seq.running.isSome = true) {x : Xfer} (hx : decodeXfer t0.block = x) (h2 : x.srcSpace = 2)
    (hd : x.dstSpace = 2) (h1 : x.rows = 1) (hsrc : x.src < 2 ^ 64) (hdst : x.dst < 2 ^ 64) (hsem : x.semEn = false)
    (hheld : t0.held = false) (hn : 0 < x.rowBytes) : Does (.transferComplete k f host) s fun t =>
      t.combs[k].seq.queues[f] = ts ∧ combRead t k x.dst x.rowBytes = combRead s k x.src x.rowBytes ∧
      Within [.seq, .combMem] s t := by
  generalize hu : s.modSeq k (fun q => { q with queues := upd q.queues f fun _ => ts }) = u
  have hsu : Within [.seq] s u := by rw [← hu]; exact modSeq_within ..
  have hov : overlapsHeld s.combs[k].seq t0 x = false := by
    unfold overlapsHeld
    rw [h2]
    rfl
  have hserved : xferServed s k p t0 x = true := by
    unfold xferServed
    rw [h2, hd]
    rfl
  have hread : readSrc k p x host u = (u, combRead s k x.src x.rowBytes, none) := by
    have hstore : combRead u k x.src x.rowBytes = combRead s k x.src x.rowBytes := by
      rw [combRead, hsu.comb_store k (by decide), combRead]
    unfold readSrc
    rw [h2, h1, rowStarts_one hsrc]
    simp [hstore]
  have hlen : (combRead s k x.src x.rowBytes).length = x.rowBytes := memRead_length ..
  have hext : ∀ v, extWrites v p k x (combRead s k x.src x.rowBytes) = [] := fun v => by
    unfold extWrites
    rw [hd]
    rfl
  have hsettle : settleXfer k p t0 x (combRead s k x.src x.rowBytes) u =
      combWrite k x.dst (combRead s k x.src x.rowBytes) u := by
    unfold settleXfer deliver writeOut
    simp only [h2, hd, hext, hsem, hheld, writeLocal_row hd h1 hdst hlen hn, putWrites]
    rfl
  have he : exec (.transferComplete k f host) s = .next (combWrite k x.dst (combRead s k x.src x.rowBytes) u) := by
    refine congrArg Host.Outcome.next ?_
    rw [effTransfer_reads hq hp hstate hrun (by rw [hx]; exact hov) (by rw [hx]; exact hserved)
      (fun h0 => by rw [hx, h2] at h0; cases h0), hx, hu, hread]
    exact hsettle
  refine does_of_exec he ⟨?_, ?_, Within.trans (hsu.mono (by decide)) (combWrite_without (by decide))⟩
  · have hseq : (combWrite k x.dst (combRead s k x.src x.rowBytes) u).combs[k].seq = u.combs[k].seq := by
      rw [combWrite, modComb_at]
    rw [hseq, ← hu, modSeq_seq]
    exact upd_same ..
  · rw [combRead, combWrite, modComb_at]
    have hback := memRead_memWrite (combRead s k x.src x.rowBytes) (m := u.combs[k].store) x.dst
    rwa [hlen] at hback

/-- Settles O53: each instruction by what it queues, each event of the retention buffer and the foragers by what it lets go. -/
theorem heldWritesAndTransfers : Obligations.HeldWritesAndTransfers := by
  refine fun s k => ⟨fun h b c hcan hword hg hwin hfall => ?_,
    fun m v hm hv ha hidle => predicateResolve_lets hm hv ha hidle, fun p hp hv hn => exec_ownVerdict hp hv hn,
    fun e l p hr hp hpen hfill hstate => ⟨fun i add v hk => ⟨release_semOp hr hp hpen hfill hstate hk,
        fun hb => congrArg Host.Outcome.next (effRelease_semOp_waits hr hp hk hb)⟩,
      fun a b c x hk => release_host hr hp hpen hfill hstate hk,
      fun i n z fs fl hk hf => release_flits hr hp hpen hfill hstate hk hf, fun a b hk => ?_⟩, fun hu => ?_,
    fun w ws hu => ⟨exec_ack_taken hu, fun p hw hp hpost => exec_ack_waits hu hw hp hpost⟩,
    fun f t0 ts p host hq hp hstate hrun => ⟨?_, fun hb => congrArg Host.Outcome.next (effTransfer_waits hq hp host hb),
      fun u data hov hserved hlen => ⟨fun hread => ?_, fun e he hread => ?_⟩⟩⟩
  · have hi : Issues s k h := ⟨hcan, hword, guardOf_run hg, hwin, hfall⟩
    exact ⟨cell_queues hi b c, fun first => hild_queues hi b c, fun p f => move_queues hi b⟩
  · split
    · next hs => exact release_ppa hr hp hpen hfill hstate hk hs
    · next hs => exact congrArg Host.Outcome.next (effRelease_waits hr hp (by rw [hk]; exact Bool.eq_false_iff.2 hs))
  · refine congrArg Host.Outcome.next ?_
    rw [hu]
  · exact fun h2 hd h1 hsrc hdst hsem hheld hn => transfer_moves hq hp hstate hrun rfl h2 hd h1 hsrc hdst hsem hheld hn
  · refine congrArg Host.Outcome.next ((effTransfer_reads hq hp hstate hrun hov hserved hlen).trans ?_)
    rw [hread]
  · refine congrArg Host.Outcome.next ((effTransfer_reads hq hp hstate hrun hov hserved hlen).trans ?_)
    rw [hread]
    cases e with
    | gone => exact absurd rfl he
    | _ => rfl

end Sys2Proof.HeldWriteProofs
end

section
/-! COMPUTE that waits behind running programs, UPDATE and FENCE (R103, R109, R113, R271, R273). -/

namespace Sys2Proof.DescriptorWorkProofs

open Sys2Proof Sys2Proof.Machine Sys2Proof.MemoryProofs Sys2Proof.JobFaultProofs Sys2Proof.RingProofs Sys2Proof.TimetableProofs
  Sys2Proof.DescriptorProofs Sys2Proof.PredicateProofs Sys2Proof.ScalarProofs Sys2Proof.ProgramProofs

/-! ### COMPUTE on combs whose programs run (R113) -/

theorem combsMask_nodup (s : State) (p : Part) (mask : Nat) : (combsMask s p mask).Nodup := by
  unfold combsMask
  split
  · exact combsOf_nodup s p
  · exact (fins_nodup 8).filter _

/-- A COMPUTE waits for the program that runs on a comb. -/
theorem computeOn_waits {d : RunDesc} {k : Comb} {s : State} (h : s.combs[k].seq.running.isSome = true) :
    computeOn d k s = s.modSeq k fun q => { q with waiting := q.waiting ++ [d] } := by
  unfold computeOn
  refine if_neg fun ⟨hn, _⟩ => ?_
  rw [Option.isNone_iff_eq_none.1 hn] at h
  cases h

/-- Each comb of a list whose programs run has the COMPUTE wait there once. -/
theorem computeOns_wait {d : RunDesc} {l : List Comb} (hl : l.Nodup) {s : State}
    (hr : ∀ k ∈ l, s.combs[k].seq.running.isSome = true) :
    Within [.seq] s (forEach l (fun k s => computeOn d k s) s) ∧
    ∀ k : Comb, (forEach l (fun k s => computeOn d k s) s).combs[k].seq =
      if k ∈ l then { s.combs[k].seq with waiting := s.combs[k].seq.waiting ++ [d] } else s.combs[k].seq := by
  induction l generalizing s with
  | nil => exact ⟨rfl, fun k => rfl⟩
  | cons c l ih =>
    obtain ⟨hc, hl⟩ := List.nodup_cons.1 hl
    have hon := computeOn_waits (d := d) (hr c (List.mem_cons_self ..))
    have hother : ∀ k : Comb, k ≠ c → (computeOn d c s).combs[k] = s.combs[k] := fun k hk => by
      rw [hon]
      exact modSeq_at_other _ _ hk
    obtain ⟨hw, hseq⟩ := ih hl (s := computeOn d c s) fun k hk => by
      rw [hother k (fun e => hc (e ▸ hk))]
      exact hr k (List.mem_cons_of_mem _ hk)
    refine ⟨Within.trans (by rw [hon]; exact modSeq_within ..) hw, fun k => (hseq k).trans ?_⟩
    by_cases hk : k = c
    · subst hk
      rw [if_neg hc, if_pos (List.mem_cons_self ..), hon, modSeq_seq]
    · simp only [hother k hk, List.mem_cons, hk, false_or]

/-- COMPUTE of a single-owner context owes a part on every comb it names and waits for the programs that run there. -/
theorem compute_waits {s : State} {p : Part} {r : Ring} {d : Desc} {m : Manifest} (hd : startedDesc s p r opCompute = some d)
    (hm : s.parts[p].ctx.man = some m) (ho : m.owners.length = 1)
    (hr : ∀ k ∈ combsMask s p d.combMask, s.combs[k].seq.running.isSome = true) : Does (.compute p r) s fun t =>
      (∃ e ∈ t.parts[p].rings[r].descs, e.idx = d.idx ∧ e.stage = .active ∧ e.combsLeft = combsMask s p d.combMask) ∧
      (∀ k ∈ combsMask s p d.combMask, t.combs[k].seq.waiting = s.combs[k].seq.waiting ++ [⟨p, r, d.idx⟩] ∧
        t.combs[k].seq.running = s.combs[k].seq.running) ∧ Within [.seq, .rings] s t := by
  have howed := computeOwed_within p r d s
  have hseq : ∀ k : Comb, (computeOwed p r d s).combs[k].seq = s.combs[k].seq := fun k => howed.comb_seq k (by decide)
  obtain ⟨hw, hwait⟩ := computeOns_wait (d := ⟨p, r, d.idx⟩) (combsMask_nodup s p d.combMask) (s := computeOwed p r d s)
    fun k hk => by rw [hseq]; exact hr k hk
  refine does_of_exec (congrArg Host.Outcome.next (effCompute_eq hd hm ho)) ⟨?_, fun k hk => ?_,
    Within.trans (howed.mono (by decide)) (hw.mono (by decide))⟩
  · rw [hw.part_rings p (by decide)]
    exact ⟨_, modDesc_mem (startedDesc_mem hd).1 _, rfl, rfl, rfl⟩
  · rw [hwait k, if_pos hk, hseq]
    exact ⟨rfl, rfl⟩

/-! ### UPDATE (R271, R273) -/

/-- The run that an UPDATE queues on super k. -/
def updateRun (p : Part) (r : Ring) (d : Desc) (k : Super) : HildRun :=
  ⟨k, d.field 16 2, d.field 18 2, w64 (d.field 24 8), w64 (d.field 32 8), 0, none, some ⟨p, r, d.idx⟩⟩

/-- Super k takes the run of an UPDATE. -/
def queueRun (p : Part) (r : Ring) (d : Desc) (k : Super) (s : State) : State :=
  s.modHild k fun h => { h with queue := h.queue ++ [updateRun p r d k] }

/-- A Hild unit that has taken n runs of an UPDATE. -/
def withRuns (p : Part) (r : Ring) (d : Desc) (k : Super) (n : Nat) (u : SuperState) : SuperState :=
  { u with hild := { u.hild with queue := u.hild.queue ++ List.replicate n (updateRun p r d k) } }

section Update

variable {p : Part} {r : Ring} {d : Desc}

theorem withRuns_zero (k : Super) (u : SuperState) : withRuns p r d k 0 u = u := by
  simp [withRuns]

/-- A super takes as many runs as a list names it. -/
theorem queueRuns_super (l : List Super) (s : State) (k : Super) :
    (forEach l (queueRun p r d) s).supers[k] = withRuns p r d k (l.count k) s.supers[k] := by
  induction l generalizing s with
  | nil => exact (withRuns_zero ..).symm
  | cons c l ih =>
    refine (ih (queueRun p r d c s)).trans ?_
    by_cases hc : c = k
    · subst hc
      rw [queueRun, State.modHild, modSuper_at, List.count_cons_self]
      simp [withRuns, List.replicate_succ]
    · have hother : (queueRun p r d c s).supers[k] = s.supers[k] := modHild_other s c k _ hc
      rw [hother, List.count_cons_of_ne hc]

theorem queueRuns_within (l : List Super) (s : State) : Within [.hild] s (forEach l (queueRun p r d) s) :=
  forEach_without _ _ _ _ fun k t => modHild_without _ _ _ _ (by decide)

/-- The supers that an UPDATE sends a run to are named once where those it still has to send to are. -/
theorem canSend_nodup (s : State) (p : Part) (hn : d.unsent.Nodup) : (canSend s p d).Nodup := by
  refine List.Nodup.filter _ ?_
  unfold toSend
  split
  · exact List.nodup_nil
  · split
    · exact combsMask_nodup ..
    · split
      · exact hn
      · exact List.nodup_nil

variable {s : State} (hd : (s.parts[p].rings[r].descs.find? fun e => !(canSend s p e).isEmpty) = some d)
include hd

/-- UPDATE queues a run for every naming of a super with room, and keeps the others to be sent. -/
theorem update_queues : Does (.update p r) s fun t =>
    (∀ k : Super, t.supers[k] = withRuns p r d k ((canSend s p d).count k) s.supers[k]) ∧
    (∃ e ∈ t.parts[p].rings[r].descs, e.idx = d.idx ∧ e.stage = .active ∧
      e.unsent = (toSend s p d).filter fun k => !(canSend s p d).contains k) ∧ Within [.rings, .hild] s t := by
  have hact : ∀ f, Within [.rings] s (activate p r d.idx f s) := fun f => modDesc_without _ _ _ _ _ _ (by decide)
  have he : ∃ f, (∀ e, (f e).idx = e.idx ∧ (f e).stage = e.stage ∧
        (f e).unsent = (toSend s p d).filter fun k => !(canSend s p d).contains k) ∧
      effUpdate p r s = forEach (canSend s p d) (queueRun p r d) (activate p r d.idx f s) := by
    refine ⟨fun e => { e with combsLeft := if d.stage = .started then combsMask s p d.combMask else e.combsLeft, unsent := _ },
      fun e => ⟨rfl, rfl, rfl⟩, ?_⟩
    unfold effUpdate
    rw [hd]
    rfl
  obtain ⟨f, hf, he⟩ := he
  have hq := queueRuns_within (p := p) (r := r) (d := d) (canSend s p d) (activate p r d.idx f s)
  refine does_of_exec (congrArg Host.Outcome.next he) ⟨fun k => queueRuns_super .., ?_,
    Within.trans ((hact f).mono (by decide)) (hq.mono (by decide))⟩
  rw [hq.part_rings p (by decide)]
  obtain ⟨hidx, hstage, hunsent⟩ := hf { d with stage := .active }
  exact ⟨_, modDesc_mem (List.mem_of_find?_eq_some hd) _, hidx, hstage, hunsent⟩

/-- Where no super is named twice, an UPDATE queues one run on each super with room and nothing on the others. -/
theorem update_queues_one (hn : d.unsent.Nodup) : Does (.update p r) s fun t =>
    (∀ k : Super, if k ∈ canSend s p d then t.supers[k].hild.queue = s.supers[k].hild.queue ++ [updateRun p r d k]
      else t.supers[k] = s.supers[k]) ∧
    (∃ e ∈ t.parts[p].rings[r].descs, e.idx = d.idx ∧ e.stage = .active ∧
      e.unsent = (toSend s p d).filter fun k => !(canSend s p d).contains k) ∧ Within [.rings, .hild] s t := by
  obtain ⟨t, he, hsupers, hrest⟩ := update_queues hd
  refine ⟨t, he, fun k => ?_, hrest⟩
  rw [hsupers k]
  split
  · next hk =>
    rw [List.count_eq_one_of_mem (canSend_nodup s p hn) hk]
    rfl
  · next hk =>
    rw [List.count_eq_zero_of_not_mem hk]
    exact withRuns_zero ..

end Update

/-! ### FENCE (R103) -/

/-- A FENCE whose scope has drained completes. -/
theorem fence_completes {s : State} {p : Part} {r : Ring} {d : Desc}
    (hd : (s.parts[p].rings[r].descs.find? fun e => e.isFence && fenceDone s p r e) = some d) :
    Does (.fence p r) s fun t => EndedOk t p r d ∧ Within [.rings] s t := by
  have hs := List.find?_some hd
  obtain ⟨hfence, -⟩ := Bool.and_eq_true_iff.1 hs
  have hnd : d.stage ≠ .done := fun h => by
    rw [Desc.isFence, h] at hfence
    cases hfence
  have he : exec (.fence p r) s = .next (finish p r d.idx stOK 0 0 (serving s p r) s) := by
    refine congrArg Host.Outcome.next ?_
    unfold effFence
    rw [hd]
  exact does_of_exec he ⟨finish_endsOk (List.mem_of_find?_eq_some hd) hnd _, finish_within ..⟩

/-- A FENCE just started whose scope has not drained waits. -/
theorem fence_waits {s : State} {p : Part} {r : Ring} {d : Desc}
    (hn : (s.parts[p].rings[r].descs.find? fun e => e.isFence && fenceDone s p r e) = none)
    (hd : startedDesc s p r opFence = some d) : Does (.fence p r) s fun t =>
      (∃ e ∈ t.parts[p].rings[r].descs, e.idx = d.idx ∧ e.stage = .active) ∧ Within [.rings] s t := by
  have he : exec (.fence p r) s = .next (activate p r d.idx id s) := by
    refine congrArg Host.Outcome.next ?_
    unfold effFence
    rw [hn, hd]
  exact does_of_exec he ⟨activate_active (startedDesc_mem hd).1, modDesc_without _ _ _ _ _ _ (by decide)⟩

/-! ### The statement fails where a descriptor names a super twice -/

/-- An UPDATE at work whose list of supers to send a run to names super 0 twice. -/
def twiceNamed : Desc := { idx := 0, bytes := [4], stage := .active, unsent := [0, 0] }

/-- The module after reset, with that descriptor on ring 0 of partition 0. -/
def twiceNamedState : State := State.reset.modRing 0 0 fun g => { g with descs := [twiceNamed] }

/-- Refutes O37: its UPDATE clause speaks of any descriptor, and one whose list of supers still to be sent to names super 0
twice queues two runs there. Where that list names none twice the clause is `update_queues_one`; the other clauses are
`compute_waits`, `fence_completes` and `fence_waits`. -/
theorem not_computeUpdateAndFence : ¬ Obligations.ComputeUpdateAndFence := by
  intro h
  have hfind : (twiceNamedState.parts[(0 : Part)].rings[(0 : Ring)].descs.find? fun e =>
      !(canSend twiceNamedState 0 e).isEmpty) = some twiceNamed := by decide
  have hsend : canSend twiceNamedState 0 twiceNamed = [0, 0] := by decide
  obtain ⟨-, hupdate, -⟩ := h twiceNamedState 0 0 twiceNamed
  obtain ⟨t, ht, hone, -⟩ := hupdate hfind
  obtain ⟨u, hu, htwo, -⟩ := update_queues hfind
  obtain rfl : t = u := Host.Outcome.next.inj (ht.symm.trans hu)
  have h0 := hone 0
  rw [if_pos (by rw [hsend]; decide)] at h0
  obtain ⟨run, hqueue, -⟩ := h0
  have hlen := congrArg List.length hqueue
  rw [htwo 0, hsend] at hlen
  simp [withRuns] at hlen

end Sys2Proof.DescriptorWorkProofs
end

section
/-! Operations of the array, vector and row engines: the block at the head of a cell's queue starts, its engine holds it, and the
cell takes its results (R154, R160–R163, R166, R170, R201, R220, R229, R243–R265). -/

namespace Sys2Proof.CellOperationProofs

open Sys2Proof Sys2Proof.Machine Sys2Proof.RingProofs Sys2Proof.PredicateProofs Sys2Proof.ScalarProofs
  Sys2Proof.HeldWriteProofs

/-- What a command does implies whatever follows from it. -/
theorem does_imp {c : Instr} {s : State} {P Q : State → Prop} (h : Does c s P) (hpq : ∀ t, P t → Q t) : Does c s Q := by
  obtain ⟨t, ht, hp⟩ := h
  exact ⟨t, ht, hpq t hp⟩

/-! ### The cell that takes an effect -/

/-- What a frame without the pieces of cells says of one cell. -/
theorem cell_of_within {m : List Piece} {s t : State} (w : Within m s t) (k : Comb) (n : PCell)
    (hmem : m.contains .cellMem = false) (hrun : m.contains .cellRun = false) : t.combs[k].cells[n] = s.combs[k].cells[n] := by
  have hwhole : ∀ c : CellState, c.without m = c := fun c => by
    simp only [CellState.without, hmem, hrun, Bool.false_eq_true, if_false]
  rw [← hwhole t.combs[k].cells[n], w.cell k n, hwhole]

/-- What a frame without the registers of combs says of the generators. -/
theorem gens_of_within {m : List Piece} {s t : State} (w : Within m s t) (k : Comb) (h : m.contains .combRegs = false) :
    t.combs[k].gens = s.combs[k].gens := by
  have := congrArg CombState.gens (w.comb k)
  simpa only [CombState.without, h, Bool.false_eq_true, if_false] using this

/-- A cell that takes the effect of an operation. -/
def takeOut (o : CellOut) (c : CellState) : CellState := { c with
  store := o.mem.foldl (fun m w => memWrite m w.1 w.2) c.store
  vregs := o.vregs.foldl (fun t w => tabPut 0 t w.1 w.2) c.vregs
  stats := o.stats.foldl (fun t w => tabSet 0 t w.1 w.2) c.stats
  banks := if o.fills.isEmpty then c.banks else Vector.ofFn fun i : Fin 8 => o.fills[i.val]? }

/-- The tile buffer afterwards: the tiles of the first fills, or as it was without any. -/
theorem takeOut_banks (o : CellOut) (c : CellState) (i : Fin 8) :
    (takeOut o c).banks[i] = if o.fills = [] then c.banks[i] else o.fills[i.val]? := by
  simp only [takeOut, List.isEmpty_iff]
  split
  · rfl
  · simp

section Effect

variable (x : At) (e : Engine) (o : CellOut) (s : State)

/-- The effect on a cell's comb besides the cell: the counted rows and the values drawn. -/
def countOut : State :=
  { s.modComb x.comb fun c => { c with rowEmpty := hitN 24 o.empty c.rowEmpty, rowIgnored := hitN 24 o.ignored c.rowIgnored } with
    draws := s.draws + o.draws }

/-- An effect in its four parts: the cell, the counts, the lanes' draws and the finiteness accumulator. -/
theorem applyOut_eq : applyOut x e o s = noteMet x.comb o.met (takeDraws x e o.taken
    (countOut x o (s.modCell x.comb (physCell s x.comb x.cell) (takeOut o)))) := rfl

theorem takeOut_within (n : PCell) : Within [.cellMem, .cellRun] s (s.modCell x.comb n (takeOut o)) :=
  modCell_without _ _ _ _ _ fun _ => rfl

theorem countOut_within : Within [.draws, .combRegs] s (countOut x o s) :=
  (set_draws_without _ _ _ (by decide)).trans (modComb_without _ _ _ _ fun _ => rfl)

theorem countOut_gens : (countOut x o s).combs[x.comb].gens = s.combs[x.comb].gens := by
  simp only [countOut, modComb_at]

theorem noteMet_finite (k : Comb) (met : Bool) :
    (noteMet k met s).combs[k].seq.finite = (s.combs[k].seq.finite || met) := by
  cases met with
  | false => exact (Bool.or_false _).symm
  | true =>
    rw [Bool.or_true]
    exact congrArg Seq.finite (modSeq_seq s k fun q => { q with finite := true })

/-- What a comb's generators are after draws depends on what they were alone. -/
theorem takeDraws_gens_congr {s t : State} (h : t.combs[x.comb].gens = s.combs[x.comb].gens) (ls : List (Nat × Nat)) :
    (takeDraws x e ls t).combs[x.comb].gens = (takeDraws x e ls s).combs[x.comb].gens := by
  unfold takeDraws
  split
  · exact h
  · simp only [modComb_at, h]

theorem applyOut_cells (m : PCell) : (applyOut x e o s).combs[x.comb].cells[m] =
    if physCell s x.comb x.cell = m then takeOut o s.combs[x.comb].cells[m] else s.combs[x.comb].cells[m] := by
  rw [applyOut_eq, ← modCell_cells]
  exact (cell_of_within (m := [.seq]) (noteMet_without (by decide)) _ _ (by decide) (by decide)).trans
    ((cell_of_within (m := [.combRegs]) (takeDraws_without (by decide)) _ _ (by decide) (by decide)).trans
      (cell_of_within (countOut_within ..) _ _ (by decide) (by decide)))

theorem applyOut_gens : (applyOut x e o s).combs[x.comb].gens = (takeDraws x e o.taken s).combs[x.comb].gens := by
  rw [applyOut_eq, gens_of_within (noteMet_without (M := [.seq]) (by decide)) _ (by decide)]
  refine takeDraws_gens_congr x e ?_ o.taken
  rw [countOut_gens, gens_of_within (takeOut_within ..) _ (by decide)]

theorem applyOut_finite : (applyOut x e o s).combs[x.comb].seq.finite = (s.combs[x.comb].seq.finite || o.met) := by
  rw [applyOut_eq, noteMet_finite, Within.comb_seq (takeDraws_without (M := [.combRegs]) (by decide)) _ (by decide),
    (countOut_within ..).comb_seq _ (by decide), (takeOut_within ..).comb_seq _ (by decide)]

theorem applyOut_draws : (applyOut x e o s).draws = s.draws + o.draws := by
  rw [applyOut_eq]
  rw [Within.draws_eq (noteMet_without (M := [.seq]) (by decide)) (by decide),
    Within.draws_eq (takeDraws_without (M := [.combRegs]) (by decide)) (by decide)]
  rfl

end Effect

/-! ### An operation starts (R160–R163) -/

/-- From s to t the block b at the head of cell x's queue has left it, engine e holds it, and the cell has taken effect o. -/
def Ran (s : State) (x : At) (b : OpBlock) (e : Engine) (o : CellOut) (t : State) : Prop :=
  let n := physCell s x.comb x.cell
  let cs := s.combs[x.comb].cells[n]
  t.combs[x.comb].cells[n].queue = cs.queue.drop 1 ∧
  t.combs[x.comb].gens = (takeDraws x e o.taken s).combs[x.comb].gens ∧
  (∀ i : Fin 8, t.combs[x.comb].cells[n].banks[i] = if o.fills = [] then cs.banks[i] else o.fills[i.val]?) ∧
  (∃ r, t.combs[x.comb].cells[n].running = cs.running ++ [r] ∧ r.engine = e ∧ r.block = b ∧ r.late = o.late) ∧
  t.combs[x.comb].cells[n].store = o.mem.foldl (fun m w => memWrite m w.1 w.2) cs.store ∧
  t.combs[x.comb].cells[n].vregs = o.vregs.foldl (fun t w => tabPut 0 t w.1 w.2) cs.vregs ∧
  t.combs[x.comb].cells[n].stats = o.stats.foldl (fun t w => tabSet 0 t w.1 w.2) cs.stats ∧
  t.combs[x.comb].seq.finite = (s.combs[x.comb].seq.finite || o.met) ∧ t.draws = s.draws + o.draws ∧
  (∀ m : PCell, m ≠ n → t.combs[x.comb].cells[m] = s.combs[x.comb].cells[m]) ∧
  Within [.draws, .seq, .cellMem, .cellRun, .combRegs] s t

/-- An operation held by its engine whose effect its cell takes has run. -/
theorem applyOut_holdOp_ran (s : State) (x : At) (b : OpBlock) (e : Engine) (o : CellOut) (ds : List Dest) :
    Ran s x b e o (applyOut x e o (holdOp x e b ds o.late s)) := by
  have hheld : Within [.cellRun] s (holdOp x e b ds o.late s) := holdOp_without (by decide)
  have hphys := physCell_congr x.comb hheld (by decide) x.cell
  have hcells : ∀ m : PCell, (holdOp x e b ds o.late s).combs[x.comb].cells[m] = _ := modCell_cells s x.comb _ _
  have hcell := (applyOut_cells x e o (holdOp x e b ds o.late s) (physCell s x.comb x.cell)).trans (if_pos hphys)
  rw [hcells, if_pos rfl] at hcell
  unfold Ran
  dsimp only
  rw [hcell]
  refine ⟨rfl, ?_, takeOut_banks o _, ⟨_, rfl, rfl, rfl, rfl⟩, rfl, rfl, rfl, ?_, applyOut_draws .., fun m hm => ?_, ?_⟩
  · exact (applyOut_gens ..).trans (takeDraws_gens_congr x e (gens_of_within hheld _ (by decide)) _)
  · exact (applyOut_finite ..).trans (congrArg (fun q : Seq => q.finite || o.met) (hheld.comb_seq _ (by decide)))
  · rw [applyOut_cells, hphys, if_neg (Ne.symm hm), hcells, if_neg (Ne.symm hm)]
  · exact Within.trans (hheld.mono (by decide)) (applyOut_without (by decide))

section Head

variable {s : State} {x : At} {b : OpBlock} (hb : headOp x s = some b) {e : Engine} {code : Nat}
  {check : State → PCell → Bytes → Option BlockBad}
include hb

/-- A block that names no operation leaves the queue with a FORMAT_ERROR (R163), whichever operation's command meets it. -/
theorem meetHead_unknown (hk : opKnown b.bytes = false) (start : OpBlock → State → State) :
    meetHead x e code check start s = failHead x b .format s := by
  simp only [meetHead, hb, hk, Bool.not_false, if_true]

/-- A block that passes its checks and whose engine is free starts (R161, R163). -/
theorem meetHead_starts (hk : opKnown b.bytes = true) (he : opEngine b.bytes = engineCode e) (hc : opCode b.bytes = code)
    (hh : opHeaderOk b.bytes = true) (hcheck : check s (physCell s x.comb x.cell) b.bytes = none)
    (hm : mayStart e b s.combs[x.comb].cells[physCell s x.comb x.cell] = true) (start : OpBlock → State → State) :
    meetHead x e code check start s = start b s := by
  simp only [meetHead, hb, hk, he, hc, hh, hcheck, hm, Bool.not_true, Bool.false_eq_true, if_false, if_true, ne_eq,
    not_true_eq_false, or_self]

/-- An operation whose effect is a function of its cell starts, and its cell takes that effect. -/
theorem startOp_runs {c : Instr} {run : State → PCell → Draws → Bytes → CellOut}
    (hexec : exec c s = done (startOp x e code check run s)) (hk : opKnown b.bytes = true)
    (he : opEngine b.bytes = engineCode e) (hc : opCode b.bytes = code) (hh : opHeaderOk b.bytes = true)
    (hcheck : check s (physCell s x.comb x.cell) b.bytes = none)
    (hm : mayStart e b s.combs[x.comb].cells[physCell s x.comb x.cell] = true) :
    Does c s (Ran s x b e (run s (physCell s x.comb x.cell) (cellDraw s x e) b.bytes)) := by
  have hstarts := meetHead_starts hb hk he hc hh hcheck hm fun b s =>
    let n := physCell s x.comb x.cell
    let o := run s n (cellDraw s x e) b.bytes
    applyOut x e o (holdOp x e b o.dests o.late s)
  exact does_of_exec (hexec.trans (congrArg Host.Outcome.next hstarts)) (applyOut_holdOp_ran ..)

end Head

/-- The operations of each engine are known (R165, R220, R243). -/
theorem opKnown_array {b : Bytes} (he : opEngine b = 0) (hc : opCode b = 1 ∨ opCode b = 2) : opKnown b = true := by
  simpa only [opKnown, he, Bool.or_eq_true, beq_iff_eq] using hc

theorem opKnown_vector {b : Bytes} (he : opEngine b = 1) (hc : opCode b = 1) : opKnown b = true := by
  simp only [opKnown, he, hc, BEq.rfl]

theorem opKnown_row {b : Bytes} (he : opEngine b = 2) (hc : 1 ≤ opCode b ∧ opCode b ≤ 12 ∨ opCode b = 16) :
    opKnown b = true := by
  simpa only [opKnown, he, Bool.or_eq_true, Bool.and_eq_true, decide_eq_true_eq, beq_iff_eq] using hc

/-! ### MATMUL, BWD_PAIR and ATTN (R165–R170, R259–R262) -/

section Operations

variable {s : State} {x : At} {b : OpBlock} (hb : headOp x s = some b) (hh : opHeaderOk b.bytes = true)
include hb hh

theorem matmul_runs (he : opEngine b.bytes = 0) (hc : opCode b.bytes = 1)
    (hm : mayStart .array b s.combs[x.comb].cells[physCell s x.comb x.cell] = true)
    (hcheck : mmCheck s.combs[x.comb].cells[physCell s x.comb x.cell].store b.bytes = none) :
    Does (.matmul x) s (Ran s x b .array
      (mmRun s.combs[x.comb].cells[physCell s x.comb x.cell].store s.draws (cellDraw s x .array) b.bytes)) :=
  startOp_runs (c := .matmul x) hb rfl (opKnown_array he (.inl hc)) he hc hh hcheck hm

theorem bwdPair_runs (he : opEngine b.bytes = 0) (hc : opCode b.bytes = 2)
    (hm : mayStart .array b s.combs[x.comb].cells[physCell s x.comb x.cell] = true) (hcheck : bpCheck b.bytes = none) :
    Does (.bwdPair x) s (Ran s x b .array
      (bpRun s.combs[x.comb].cells[physCell s x.comb x.cell].store (cellDraw s x .array) b.bytes)) :=
  startOp_runs (c := .bwdPair x) hb rfl (opKnown_array he (.inr hc)) he hc hh hcheck hm

theorem attn_runs (he : opEngine b.bytes = 2) (hc : opCode b.bytes = 16)
    (hm : mayStart .row b s.combs[x.comb].cells[physCell s x.comb x.cell] = true)
    (hcheck : atCheck s.combs[x.comb].cells[physCell s x.comb x.cell].store b.bytes = none) :
    Does (.attn x) s (Ran s x b .row
      (attnRun s.combs[x.comb].cells[physCell s x.comb x.cell] (cellDraw s x .row) b.bytes)) :=
  startOp_runs (c := .attn x) hb rfl (opKnown_row he (.inr hc)) he hc hh hcheck hm

end Operations

/-! ### Tables after several writes -/

/-- What is left to read after steps each of which either settles it at v or keeps it. -/
theorem foldl_settles {α β γ : Type} {π : β → γ} {f : β → α → β} {P : α → Prop} [DecidablePred P] {v : γ} {l : List α}
    (h : ∀ a ∈ l, ∀ b, π (f b a) = if P a then v else π b) (b : β) :
    π (l.foldl f b) = if ∃ a ∈ l, P a then v else π b := by
  induction l generalizing b with
  | nil => simp
  | cons a l ih =>
    rw [List.foldl_cons, ih fun a' ha' => h a' (List.mem_cons_of_mem _ ha'), h a (List.mem_cons_self ..)]
    by_cases hl : ∃ a' ∈ l, P a'
    · rw [if_pos hl, if_pos (hl.imp fun a' ha' => ⟨List.mem_cons_of_mem _ ha'.1, ha'.2⟩)]
    · simp only [List.exists_mem_cons_iff, hl, or_false, if_false]

/-- A word that no write names is as it was. -/
theorem tabGet_writes_other {l : List (Nat × Word)} {k : Nat} (h : ∀ w ∈ l, w.1 ≠ k) (t : Tab Word) :
    tabGet 0 (l.foldl (fun t w => tabSet 0 t w.1 w.2) t) k = tabGet 0 t k := by
  refine (foldl_settles (π := fun t => tabGet 0 t k) (P := fun _ => False) (v := 0) (fun w hw t => ?_) t).trans (by simp)
  rw [if_neg id]
  exact tabGet_tabSet_other (h w hw)

/-- A word whose writes all write v holds v. -/
theorem tabGet_writes {l : List (Nat × Word)} {k : Nat} {v : Word} (hall : ∀ w ∈ l, w.1 = k → w.2 = v) (hsome : (k, v) ∈ l)
    (t : Tab Word) : tabGet 0 (l.foldl (fun t w => tabSet 0 t w.1 w.2) t) k = v := by
  refine (foldl_settles (π := fun t => tabGet 0 t k) (P := fun w => w.1 = k) (fun w hw t => ?_) t).trans
    (if_pos ⟨_, hsome, rfl⟩)
  rw [tabGet_tabSet]
  by_cases hk : w.1 = k
  · rw [if_pos hk, if_pos hk.symm, hall w hw hk]
  · rw [if_neg hk, if_neg (Ne.symm hk)]

/-! ### Statistics records (R246, R247) -/

theorem foldl_plus_stats (l : List CellOut) (o : CellOut) :
    (l.foldl CellOut.plus o).stats = o.stats ++ l.flatMap CellOut.stats := by
  induction l generalizing o with
  | nil => exact (List.append_nil _).symm
  | cons a l ih => rw [List.foldl_cons, ih, List.flatMap_cons, ← List.append_assoc, CellOut.plus]

theorem outs_stats (l : List CellOut) : (outs l).stats = l.flatMap CellOut.stats := foldl_plus_stats l {}

section Records

variable {s : State} {x : At} {b : OpBlock} {e : Engine} {o : CellOut} {t : State} {n i : Nat}

theorem Ran.stats (h : Ran s x b e o t) : t.combs[x.comb].cells[physCell s x.comb x.cell].stats =
    o.stats.foldl (fun t w => tabSet 0 t w.1 w.2) s.combs[x.comb].cells[physCell s x.comb x.cell].stats := by
  obtain ⟨-, -, -, -, -, -, hstats, -⟩ := h
  exact hstats

/-- An effect that writes n records from record i leaves in each its two words. -/
theorem Ran.records {w0 w1 : Nat → Word} (h : Ran s x b e o t)
    (ho : o.stats = (outs ((List.range n).map fun r => recOut (i + r) (w0 r) (w1 r))).stats) {r : Nat} (hr : r < n) :
    statWord t.combs[x.comb].cells[physCell s x.comb x.cell] (i + r) 0 = w0 r ∧
    statWord t.combs[x.comb].cells[physCell s x.comb x.cell] (i + r) 1 = w1 r := by
  have hmem : ∀ w, w ∈ o.stats ↔ ∃ r < n, w = (2 * (i + r), w0 r) ∨ w = (2 * (i + r) + 1, w1 r) := fun w => by
    simp [ho, outs_stats, List.flatMap_map, recOut]
  unfold statWord
  rw [h.stats]
  constructor
  · refine tabGet_writes (fun w hw hk => ?_) ((hmem _).2 ⟨r, hr, .inl rfl⟩) _
    obtain ⟨r', -, rfl | rfl⟩ := (hmem w).1 hw
    · obtain rfl : r' = r := by dsimp only at hk; omega
      rfl
    · dsimp only at hk; omega
  · refine tabGet_writes (fun w hw hk => ?_) ((hmem _).2 ⟨r, hr, .inr rfl⟩) _
    obtain ⟨r', -, rfl | rfl⟩ := (hmem w).1 hw
    · dsimp only at hk; omega
    · obtain rfl : r' = r := by dsimp only at hk; omega
      rfl

/-- An effect that writes word 0 of n records from record i leaves it in each, and word 1 as it was. -/
theorem Ran.firstWords {w0 : Nat → Word} (h : Ran s x b e o t)
    (ho : o.stats = (outs ((List.range n).map fun r => recOut0 (i + r) (w0 r))).stats) {r : Nat} (hr : r < n) :
    statWord t.combs[x.comb].cells[physCell s x.comb x.cell] (i + r) 0 = w0 r ∧
    statWord t.combs[x.comb].cells[physCell s x.comb x.cell] (i + r) 1 =
      statWord s.combs[x.comb].cells[physCell s x.comb x.cell] (i + r) 1 := by
  have hmem : ∀ w, w ∈ o.stats ↔ ∃ r < n, w = (2 * (i + r), w0 r) := fun w => by
    simp [ho, outs_stats, List.flatMap_map, recOut0]
  unfold statWord
  rw [h.stats]
  constructor
  · refine tabGet_writes (fun w hw hk => ?_) ((hmem _).2 ⟨r, hr, rfl⟩) _
    obtain ⟨r', -, rfl⟩ := (hmem w).1 hw
    obtain rfl : r' = r := by dsimp only at hk; omega
    rfl
  · refine tabGet_writes_other (fun w hw => ?_) _
    obtain ⟨r', -, rfl⟩ := (hmem w).1 hw
    dsimp only
    omega

end Records

/-! ### MATMUL and its accumulator registers (R166, R167) -/

theorem blockBad_none {f : Bool} {rs : List (Nat × Nat)} {l : Nat} (h : blockBad f rs l = none) : f = false := by
  cases f with
  | false => rfl
  | true => cases h

/-- A MATMUL that passes its checks has rows and columns. -/
theorem mmCheck_extents {st : Mem} {b : Bytes} (h : mmCheck st b = none) : 1 ≤ mmM b ∧ 1 ≤ mmN b := by
  have hform : mmForm b = true := by
    have := (Bool.or_eq_false_iff.1 (blockBad_none h)).1
    simpa only [Bool.not_eq_false'] using this
  constructor
  · by_contra hz
    simp [mmForm, within, hz] at hform
  · by_contra hz
    simp [mmForm, within, hz] at hform

theorem tiles_one {n : Nat} (h1 : 1 ≤ n) (h : n ≤ 128) : tiles n = 1 := by
  unfold tiles ceilDiv
  omega

theorem mmVregs_oneTile {st : Mem} {b : Bytes} (hm : tiles (mmM b) = 1) (hn : tiles (mmN b) = 1) :
    mmVregs st b = accRuns (mmAccVreg b) (mmTile st b 0) := by
  simp [mmVregs, hm, hn]

/-- Four registers after an accumulator tile was written to them hold it, 32 rows each. -/
theorem tabGet_accRuns (v0 : Nat) (tile : Nat → Nat → Word) (t : Tab Word) {q e : Nat} (hq : q < 4) (he : e < 4096) :
    tabGet 0 ((accRuns v0 tile).foldl (fun t w => tabPut 0 t w.1 w.2) t) (4096 * (v0 + q) + e) =
      tile (32 * q + e / 128) (e % 128) := by
  unfold accRuns
  rw [List.foldl_map]
  refine (foldl_settles (π := fun t => tabGet 0 t (4096 * (v0 + q) + e)) (P := fun j => j = q) (fun j _ t => ?_) t).trans
    (if_pos ⟨q, List.mem_range.2 hq, rfl⟩)
  rw [tabGet_tabPut, List.length_map, List.length_range]
  by_cases hj : j = q
  · subst hj
    rw [if_pos rfl, if_pos (by omega), Nat.add_sub_cancel_left, List.getD_eq_getElem?_getD, List.getElem?_map,
      List.getElem?_range he]
    rfl
  · rw [if_neg hj, if_neg (by omega)]

/-- A MATMUL of one output tile leaves its sums in its four registers. -/
theorem Ran.accumulators {s : State} {x : At} {b : OpBlock} {e : Engine} {st : Mem} {n : Nat} {d : Draws} {t : State}
    (h : Ran s x b e (mmRun st n d b.bytes) t) (hcheck : mmCheck st b.bytes = none) (hm : mmM b.bytes ≤ 128)
    (hn : mmN b.bytes ≤ 128) {q i : Nat} (hq : q < 4) (hi : i < 4096) :
    tabGet 0 t.combs[x.comb].cells[physCell s x.comb x.cell].vregs (4096 * (mmAccVreg b.bytes + q) + i) =
      mmTile st b.bytes 0 (32 * q + i / 128) (i % 128) := by
  obtain ⟨hm1, hn1⟩ := mmCheck_extents hcheck
  obtain ⟨-, -, -, -, -, hvregs, -⟩ := h
  rw [hvregs]
  show tabGet 0 ((mmVregs st b.bytes).foldl _ _) _ = _
  rw [mmVregs_oneTile (tiles_one hm1 hm) (tiles_one hn1 hn)]
  exact tabGet_accRuns _ _ _ hq hi

/-! ### VPROG (R220, R229) -/

section Vprog

variable {x : At} {b : OpBlock} {s : State}

theorem vpStart_completes (h : (vecList (vpSteps x b.bytes) (holdOp x .vector b [] [] s) []).1.bad = none) :
    vpStart x b s = setDests x (vecList (vpSteps x b.bytes) (holdOp x .vector b [] [] s) []).1.dests
      (vecList (vpSteps x b.bytes) (holdOp x .vector b [] [] s) []).1.state := by
  simp only [vpStart, h]

theorem vpStart_faults {e : BlockBad}
    (h : (vecList (vpSteps x b.bytes) (holdOp x .vector b [] [] s) []).1.bad = some e) :
    vpStart x b s = vecFault x b.cellPc e (vecList (vpSteps x b.bytes) (holdOp x .vector b [] [] s) []).2
      (setDests x (vecList (vpSteps x b.bytes) (holdOp x .vector b [] [] s) []).1.dests
        (vecList (vpSteps x b.bytes) (holdOp x .vector b [] [] s) []).1.state) := by
  simp only [vpStart, h]

end Vprog

/-! ### Row operations (R243–R265) -/

/-- A common body that passes its checks does so whatever the free offset of R245. -/
theorem rwCheck_none {b : Bytes} (h : rwCheck 0 b = none) (free : Nat) : rwCheck free b = none := by
  unfold rwCheck at h ⊢
  split at h
  · cases h
  · split at h
    · cases h
    · next hrecords => exact if_neg hrecords

/-- A row operation starts, and its cell takes its effect. -/
theorem startRow_runs {s : State} {x : At} {b : OpBlock} (hb : headOp x s = some b) (hh : opHeaderOk b.bytes = true)
    (he : opEngine b.bytes = 2) (hm : mayStart .row b s.combs[x.comb].cells[physCell s x.comb x.cell] = true)
    (hcheck : rwCheck 0 b.bytes = none) (c : Instr) (code : Nat) (run : State → CellState → Draws → Bytes → CellOut)
    (hexec : exec c s = startRow x code run s) (hrange : 1 ≤ code ∧ code ≤ 12) (hc : opCode b.bytes = code) :
    Does c s (Ran s x b .row (run s s.combs[x.comb].cells[physCell s x.comb x.cell] (cellDraw s x .row) b.bytes)) := by
  subst hc
  exact startOp_runs hb hexec (opKnown_row he (.inl hrange)) he rfl hh (rwCheck_none hcheck _) hm

/-- SM_FWD writes its records whether or not it writes OUT. -/
theorem smFwdRun_stats (cs : CellState) (d : Draws) (b : Bytes) : (smFwdRun cs d b).stats =
    (outs (perRow b fun r => recOut (rwStats b + r) (smStats (rowZ cs b r)).1 (smStats (rowZ cs b r)).2)).stats := by
  unfold smFwdRun
  cases rwModeBit b <;> exact List.append_nil _

/-! ### The statement -/

/-- Settles O54: an unknown block by the failure of the head, every other by the effect of its operation; what the results hold is
read off the writes of that effect. -/
theorem cellOperations : Obligations.CellOperations := by
  intro s x b hb n cs array row ran word
  refine ⟨fun hk => ?_, fun hh he hm => ?_, fun hh he hm hc hcheck => ?_, fun hh he hm => ?_⟩
  · have hfails {e code check} (start) : meetHead x e code check start s = failHead x b .format s := meetHead_unknown hb hk start
    exact ⟨congrArg Host.Outcome.next (hfails _), congrArg Host.Outcome.next (hfails _), congrArg Host.Outcome.next (hfails _)⟩
  · exact ⟨fun hc hcheck => does_imp (matmul_runs hb hh he hc hm hcheck) fun t ht =>
        ⟨ht, fun hM hN q e hq hi => ht.accumulators hcheck hM hN hq hi⟩,
      fun hc hcheck => bwdPair_runs hb hh he hc hm hcheck⟩
  · have hstarts := meetHead_starts (e := .vector) (check := vpCheck) hb (opKnown_vector he hc) he hc hh hcheck hm
    exact ⟨fun h => congrArg Host.Outcome.next ((hstarts _).trans (vpStart_completes h)),
      fun e h => congrArg Host.Outcome.next ((hstarts _).trans (vpStart_faults h))⟩
  · refine ⟨fun hc hcheck => attn_runs hb hh he hc hm hcheck, fun hcheck => ?_⟩
    have runs := startRow_runs hb hh he hm hcheck
    exact ⟨fun hc => does_imp (runs (.lnFwd x) 1 (fun _ => lnFwdRun) rfl (by decide) hc) fun t ht =>
        ⟨ht, fun r hr => ht.records (List.append_nil _) hr⟩,
      fun hc => does_imp (runs (.rmsFwd x) 2 (fun _ => rmsFwdRun) rfl (by decide) hc) fun t ht =>
        ⟨ht, fun r hr => ht.records (List.append_nil _) hr⟩,
      runs (.lnBwd x) 3 (fun _ => normBwdRun false) rfl (by decide),
      runs (.rmsBwd x) 4 (fun _ => normBwdRun true) rfl (by decide),
      fun hc => does_imp (runs (.smFwd x) 5 (fun _ => smFwdRun) rfl (by decide) hc) fun t ht =>
        ⟨ht, fun r hr => ht.records (smFwdRun_stats ..) hr⟩,
      fun hc => does_imp (runs (.smMerge x) 6 (fun _ => smMergeRun) rfl (by decide) hc) fun t ht =>
        ⟨ht, fun r hr => ht.records rfl hr⟩,
      runs (.smBwd x) 7 (fun _ => smBwdRun) rfl (by decide),
      runs (.xent x) 8 (fun _ => xentRun) rfl (by decide),
      fun hc => does_imp (runs (.rowdot x) 9 (fun _ => rowdotRun) rfl (by decide) hc) fun t ht =>
        ⟨ht, fun r hr => ht.firstWords rfl hr⟩,
      runs (.attnDs x) 10 (fun _ => attnDsRun) rfl (by decide),
      fun hc => does_imp (runs (.pexnorm x) 11 (fun _ => pexnormRun) rfl (by decide) hc) fun t ht =>
        ⟨ht, fun e he => (ht.firstWords rfl he).1⟩,
      runs (.clipscale x) 12 (fun s => clipscaleRun s.combs[x.comb].clip) rfl (by decide)⟩

end Sys2Proof.CellOperationProofs
end

section
/-! Elements of a store rewritten in order: what each holds afterwards, and which bytes stay. -/

namespace Sys2Proof.StoreElementProofs

open Sys2Proof Sys2Proof.Machine

/-- The first n elements of sz bytes rewritten in order: element e, which stands at addr e, takes val e of what it held. -/
def updateElems (sz : Nat) (addr : Nat → Nat) (val : Nat → Nat → Nat) : Nat → Mem → Mem
  | 0, m => m
  | n + 1, m =>
    let u := updateElems sz addr val n m
    memWrite u (addr n) (leBytes sz (val n (memNat u (addr n) sz)))

theorem memNat_congr {m u : Mem} {a sz : Nat} (h : ∀ y, a ≤ y → y < a + sz → memByte u y = memByte m y) :
    memNat u a sz = memNat m a sz := by
  simp only [memNat, memRead_eq]
  exact congrArg le (List.map_congr_left fun i hi => h _ (Nat.le_add_right ..) (Nat.add_lt_add_left (List.mem_range.1 hi) a))

/-- A word is the value of its four bytes. -/
theorem toNat_mod_word (w : Word) : w.toNat % 256 ^ 4 = w.toNat := Nat.mod_eq_of_lt w.isLt

/-- An element of an array ends where the next begins, or before. -/
theorem element_below (a sz : Nat) {i j : Nat} (h : i < j) : a + i * sz + sz ≤ a + j * sz := by
  have := Nat.mul_le_mul_right sz h
  rw [Nat.succ_mul] at this
  omega

/-- Elements at different numbers of an array do not overlap. -/
theorem elements_apart (a sz : Nat) {i j : Nat} (h : i ≠ j) :
    a + i * sz + sz ≤ a + j * sz ∨ a + j * sz + sz ≤ a + i * sz :=
  (Nat.lt_or_gt_of_ne h).imp (element_below a sz) (element_below a sz)

/-- No two of n elements overlap. -/
def Apart (sz n : Nat) (addr : Nat → Nat) : Prop :=
  ∀ e f, e < n → f < n → e ≠ f → addr e + sz ≤ addr f ∨ addr f + sz ≤ addr e

section Elements

variable {sz n : Nat} {addr : Nat → Nat} {m : Mem}

/-- A byte of no element stays. -/
theorem memByte_updateElems_other {val : Nat → Nat → Nat} {y : Nat} (h : ∀ e, e < n → y < addr e ∨ addr e + sz ≤ y) :
    memByte (updateElems sz addr val n m) y = memByte m y := by
  induction n with
  | zero => rfl
  | succ n ih =>
    have hlast := h n (Nat.lt_succ_self n)
    rw [updateElems, memByte_memWrite, leBytes_length, if_neg (by omega)]
    exact ih fun e he => h e (Nat.lt_succ_of_lt he)

/-- Where no two elements overlap, each takes its value of what it held before the first was rewritten. -/
theorem memNat_updateElems {val : Nat → Nat → Nat} (hd : Apart sz n addr) {e : Nat} (he : e < n) :
    memNat (updateElems sz addr val n m) (addr e) sz = val e (memNat m (addr e) sz) % 256 ^ sz := by
  induction n with
  | zero => exact absurd he (Nat.not_lt_zero e)
  | succ n ih =>
    rcases Nat.lt_succ_iff_lt_or_eq.1 he with hlt | rfl
    · have hlast := hd e n he (Nat.lt_succ_self n) (Nat.ne_of_lt hlt)
      rw [← ih (fun e f he hf => hd e f (Nat.lt_succ_of_lt he) (Nat.lt_succ_of_lt hf)) hlt]
      refine memNat_congr fun y hlo hhi => ?_
      rw [updateElems, memByte_memWrite, leBytes_length, if_neg (by omega)]
    · have hold : memNat (updateElems sz addr val e m) (addr e) sz = memNat m (addr e) sz := by
        refine memNat_congr fun y hlo hhi => memByte_updateElems_other fun f hf => ?_
        have := hd f e (Nat.lt_succ_of_lt hf) he (Nat.ne_of_lt hf)
        omega
      rw [updateElems, memNat_memWrite, hold]

/-- A store of consecutive elements at once is one of each in order. -/
theorem memByte_memWrite_elements (a : Nat) (val : Nat → Nat) (y : Nat) :
    memByte (memWrite m a ((List.range n).map fun e => leBytes sz (val e)).flatten) y =
      memByte (updateElems sz (fun e => a + e * sz) (fun e _ => val e) n m) y := by
  induction n with
  | zero => rw [memByte_memWrite, if_neg (by simp)]; rfl
  | succ n ih =>
    have hlen : (((List.range n).map fun e => leBytes sz (val e)).flatten).length = n * sz := by
      simp [List.length_flatten, Function.comp_def]
    rw [updateElems, memByte_memWrite (leBytes _ _), ← ih, memByte_memWrite, memByte_memWrite, List.range_succ, List.map_append,
      List.flatten_append, List.length_append, hlen]
    simp only [List.map_cons, List.map_nil, List.flatten_cons, List.flatten_nil, List.append_nil, leBytes_length]
    by_cases hlast : a + n * sz ≤ y ∧ y < a + n * sz + sz
    · rw [if_pos (by omega), if_pos hlast, List.getD_append_right _ _ _ _ (by omega), hlen, Nat.sub_sub]
    · rw [if_neg hlast]
      by_cases hfirst : a ≤ y ∧ y < a + n * sz
      · rw [if_pos (by omega), if_pos hfirst, List.getD_append _ _ _ _ (by omega)]
      · rw [if_neg (by omega), if_neg hfirst]

/-- A fold that stores each element is all of them stored in order. -/
theorem foldl_memWrite (val : Nat → Nat) : ((List.range n).foldl (fun st e => memWrite st (addr e) (leBytes sz (val e))) m) =
    updateElems sz addr (fun e _ => val e) n m := by
  induction n with
  | zero => rfl
  | succ n ih => rw [List.range_succ, List.foldl_append, ih]; rfl

end Elements

end Sys2Proof.StoreElementProofs
end

section
/-! Vector instructions that write a register, elementwise, and the checks they share (R216, R223–R227, R232). -/

namespace Sys2Proof.VectorRegisterProofs

open Sys2Proof Sys2Proof.Machine Sys2Proof.RingProofs Sys2Proof.ScalarProofs Sys2Proof.HeldWriteProofs
  Sys2Proof.CellOperationProofs

/-! ### Registers -/

section Registers

variable (x : VCtx) (s : State)

/-- Element e of register r in t, on the cell where an instruction of s runs. -/
def elemIn (t : State) (r : VReg) (e : Nat) : Word := tabGet 0 (t.combs[x.comb].cells[vecCell x s]).vregs (4096 * r.val + e)

/-- From s to t register vd has taken f in its first COUNT elements and +0 beyond them with TAILZ; no other memory of a cell of
the comb has changed. -/
def Puts (vd : VReg) (f : Nat → Word) (t : State) : Prop := (∀ (r : VReg) (e : Nat), e < 4096 → elemIn x s t r e =
    if r = vd then (if e < x.count then f e else if x.tailz then 0 else elemIn x s s r e) else elemIn x s s r e) ∧
  (t.combs[x.comb].cells[vecCell x s]).store = (s.combs[x.comb].cells[vecCell x s]).store ∧
  ∀ n : PCell, n ≠ vecCell x s → t.combs[x.comb].cells[n] = s.combs[x.comb].cells[n]

/-- Register vd has taken f, and nothing else has changed. -/
def Gives (vd : VReg) (f : Nat → Word) (t : State) : Prop := Puts x s vd f t ∧ Within [.cellMem] s t

theorem vget_eq (r : VReg) : vget x r s = (List.range x.count).map (elemIn x s s r) := tabSlice_eq _ _

theorem vset_cells (r : VReg) (vs : List Word) (n : PCell) : (vset x r vs s).combs[x.comb].cells[n] =
    let cs := s.combs[x.comb].cells[n]
    let tail := if x.tailz then List.replicate (4096 - x.count) 0 else []
    if vecCell x s = n then { cs with vregs := tabPut 0 cs.vregs (4096 * r.val) (vs ++ tail) } else cs := modCell_cells ..

/-- An element of the elements written and the zeros behind them. -/
theorem getD_written {n e : Nat} (f : Nat → Word) (hz : e < 4096) (z : Bool) :
    ((List.range n).map f ++ if z then List.replicate (4096 - n) 0 else []).getD e 0 = if e < n then f e else 0 := by
  by_cases he : e < n
  · rw [if_pos he, List.getD_append _ _ _ _ (by simpa using he), List.getD_eq_getElem?_getD]
    simp [he]
  · rw [if_neg he, List.getD_append_right _ _ _ _ (by simpa using he), List.getD_eq_getElem?_getD]
    cases z with
    | false => rfl
    | true => simp [Nat.sub_lt_sub_right (Nat.not_lt.1 he) hz]

theorem vset_puts (hn : x.count ≤ 4096) (vd : VReg) (f : Nat → Word) :
    Puts x s vd f (vset x vd ((List.range x.count).map f) s) := by
  refine ⟨fun r e he => ?_, ?_, fun n hne => ?_⟩
  · have hlen : ((List.range x.count).map f ++ if x.tailz then List.replicate (4096 - x.count) (0 : Word) else []).length =
        if x.tailz then 4096 else x.count := by
      cases x.tailz with
      | false => simp
      | true => simp [hn]
    rw [elemIn, vset_cells, if_pos rfl]
    dsimp only
    rw [tabGet_tabPut, hlen]
    by_cases hr : r = vd
    · subst hr
      rw [if_pos rfl, Nat.add_sub_cancel_left, getD_written f he]
      by_cases hc : e < x.count
      · rw [if_pos hc, if_pos hc, if_pos (by split <;> omega)]
      · rw [if_neg hc, if_neg hc]
        cases x.tailz with
        | false => exact if_neg (by simp only [Bool.false_eq_true, if_false]; omega)
        | true => exact if_pos (by simp only [if_true]; omega)
    · have hne : r.val ≠ vd.val := fun h => hr (Fin.ext h)
      rw [if_neg hr, if_neg (by split <;> omega)]
      rfl
  · rw [vset_cells, if_pos rfl]
  · rw [vset_cells, if_neg (Ne.symm hne)]

variable {x s} in
/-- What a register has taken is there after a change of the registers of combs. -/
theorem Puts.of_combRegs {vd : VReg} {f : Nat → Word} {t u : State} (h : Puts x s vd f t) (w : Within [.combRegs] t u) :
    Puts x s vd f u := by
  have hcells := fun n => cell_of_within w x.comb n (by decide) (by decide)
  simpa only [Puts, elemIn, hcells] using h

end Registers

/-! ### An instruction that writes a register (R223–R227) -/

section Results

variable {x : VCtx} {s : State} {c : Instr}

/-- An instruction that passes its checks. -/
theorem vecIf_passes {ok : Bool} (h : ok = true) (f : State → VRes) : vecIf x ok f s = vecDone x (f s) := by
  rw [vecIf, if_pos h]

/-- A FORMAT_ERROR is a program fault of the comb. -/
theorem vecDone_format :
    vecDone x ⟨s, [], some .format⟩ = .next (programFault x.comb stFormatError (vecPc x s) 0 (drawn s)) := by
  simp only [vecDone, vecFault, forEach, List.foldl_nil, BlockBad.status, done]

theorem vecIf_refused {ok : Bool} (h : ok = false) (f : State → VRes) :
    vecIf x ok f s = .next (programFault x.comb stFormatError (vecPc x s) 0 (drawn s)) := by
  rw [vecIf, if_neg (Bool.eq_false_iff.1 h), vecDone_format]

theorem zip3_map (f : Word → Word → Word → Word) (a b d : Nat → Word) (l : List Nat) :
    zip3 f (l.map a) (l.map b) (l.map d) = l.map fun e => f (a e) (b e) (d e) := by
  induction l with
  | nil => rfl
  | cons e l ih => simp only [List.map_cons, zip3, ih]

theorem zipWith_vget {α : Type} (f : Word → Word → α) (va vb : VReg) : List.zipWith f (vget x va s) (vget x vb s) =
    (List.range x.count).map fun e => f (elemIn x s s va e) (elemIn x s s vb e) := by
  rw [vget_eq, vget_eq, List.zipWith_map, List.zipWith_self]

theorem vec1_eq (f : Word → Word) (vd va : VReg) :
    vec1 f x vd va s = vres x vd ((List.range x.count).map fun e => f (elemIn x s s va e)) s := by
  rw [vec1, vget_eq, List.map_map]
  rfl

theorem vec2_eq (f : Word → Word → Word) (vd va vb : VReg) : vec2 f x vd va vb s =
    vres x vd ((List.range x.count).map fun e => f (elemIn x s s va e) (elemIn x s s vb e)) s := by
  rw [vec2, zipWith_vget]

theorem vec3_eq (f : Word → Word → Word → Word) (vd va vb vc : VReg) : vec3 f x vd va vb vc s =
    vres x vd ((List.range x.count).map fun e => f (elemIn x s s va e) (elemIn x s s vb e) (elemIn x s s vc e)) s := by
  rw [vec3, vget_eq, vget_eq, vget_eq, zip3_map]

/-- How many elements of two registers saturate when added. -/
def satCount (x : VCtx) (s : State) (va vb : VReg) : Nat :=
  ((List.range x.count).filter fun e => uaddOver (elemIn x s s va e) (elemIn x s s vb e)).length

theorem satCount_eq (va vb : VReg) :
    ((List.zipWith uaddOver (vget x va s) (vget x vb s)).filter id).length = satCount x s va vb := by
  rw [zipWith_vget, List.filter_map, List.length_map]
  rfl

variable (hn : x.count ≤ 4096)
include hn

theorem vres_gives {vd : VReg} {r : VRes} (f : Nat → Word) (hc : exec c s = vecDone x r)
    (hr : r = vres x vd ((List.range x.count).map f) s) : Does c s (Gives x s vd f) := by
  subst hr
  exact does_of_exec hc ⟨vset_puts x s hn vd f, vset_without (by decide)⟩

theorem vec1_gives {vd va : VReg} (f : Word → Word) (hc : exec c s = vecDone x (vec1 f x vd va s)) :
    Does c s (Gives x s vd fun e => f (elemIn x s s va e)) := vres_gives hn _ hc (vec1_eq ..)

theorem vec2_gives {vd va vb : VReg} (f : Word → Word → Word) (hc : exec c s = vecDone x (vec2 f x vd va vb s)) :
    Does c s (Gives x s vd fun e => f (elemIn x s s va e) (elemIn x s s vb e)) := vres_gives hn _ hc (vec2_eq ..)

theorem vec3_gives {vd va vb vc : VReg} (f : Word → Word → Word → Word) (hc : exec c s = vecDone x (vec3 f x vd va vb vc s)) :
    Does c s (Gives x s vd fun e => f (elemIn x s s va e) (elemIn x s s vb e) (elemIn x s s vc e)) :=
  vres_gives hn _ hc (vec3_eq ..)

/-- A shift by less than the width of a word. -/
theorem vecShift_gives {vd va : VReg} {i : Word} (hi : i.toNat ≤ 31) (f : Word → Nat → Word)
    (hc : exec c s = vecIf x (decide (i.toNat ≤ 31)) (vec1 (fun a => f a (i.toNat % 32)) x vd va) s) :
    Does c s (Gives x s vd fun e => f (elemIn x s s va e) i.toNat) := by
  rw [Nat.mod_eq_of_lt (Nat.lt_succ_of_le hi)] at hc
  exact vec1_gives hn (fun a => f a i.toNat) (hc.trans (vecIf_passes (decide_eq_true hi) _))

/-- UADDSAT also counts the elements that saturate (R232). -/
theorem uaddsat_gives (vd va vb : VReg) : Does (.uaddsat x vd va vb) s fun t =>
    Puts x s vd (fun e => uaddSat (elemIn x s s va e) (elemIn x s s vb e)) t ∧
    t.combs[x.comb].vecSat = hitN 32 (satCount x s va vb) s.combs[x.comb].vecSat ∧ Within [.cellMem, .combRegs] s t := by
  obtain ⟨ds, hr⟩ : ∃ ds, vecSatAdd x vd va vb s = ⟨State.modComb (vset x vd ((List.range x.count).map fun e =>
      uaddSat (elemIn x s s va e) (elemIn x s s vb e)) s) x.comb fun c =>
        { c with vecSat := hitN 32 (satCount x s va vb) c.vecSat }, ds, none⟩ := by
    rw [vecSatAdd, vec2_eq, satCount_eq]
    exact ⟨_, rfl⟩
  have hw : ∀ t : State, Within [.combRegs] t (t.modComb x.comb fun c =>
      { c with vecSat := hitN 32 (satCount x s va vb) c.vecSat }) := fun t => modComb_without _ _ _ _ fun _ => rfl
  refine does_of_exec (congrArg (vecDone x) hr) ⟨(vset_puts x s hn vd _).of_combRegs (hw _), ?_,
    Within.trans (vset_without (by decide)) ((hw _).mono (by decide))⟩
  rw [modComb_at, vset, State.modCell, modComb_at]

end Results

end Sys2Proof.VectorRegisterProofs
end

section
/-! Vector instructions that load, store, gather, scatter and reduce (R221, R228–R231). -/

namespace Sys2Proof.VectorProofs

open Sys2Proof Sys2Proof.Machine Sys2Proof.RingProofs Sys2Proof.ScalarProofs Sys2Proof.HeldWriteProofs
  Sys2Proof.CellOperationProofs Sys2Proof.StoreElementProofs Sys2Proof.VectorRegisterProofs

/-! ### The stores (R221, R228) -/

section Stores

variable (x : VCtx) (s : State)

/-- In t, the store that an instruction of s addresses. -/
def storeIn (b : Bool) (t : State) : Mem := if b then t.combs[x.comb].store else (t.combs[x.comb].cells[vecCell x s]).store

/-- From s to t an instruction has changed no register: at most the stores, the generators, VEC counters and FINITE. -/
def Kept (t : State) : Prop := (∀ (r : VReg) (e : Nat), e < 4096 → elemIn x s t r e = elemIn x s s r e) ∧
  Within [.seq, .cellMem, .combMem, .combRegs] s t

variable {x s} {u t : State} {b : Bool} {f : Mem → Mem}

theorem vecCell_congr {m : List Piece} (w : Within m s t) (h : m.contains .combMap = false) : vecCell x t = vecCell x s :=
  physCell_congr x.comb w h x.cell

theorem spacePut_cells (n : PCell) : (spacePut x b f s).combs[x.comb].cells[n] = if b = false ∧ vecCell x s = n then
    { s.combs[x.comb].cells[n] with store := f s.combs[x.comb].cells[n].store } else s.combs[x.comb].cells[n] := by
  cases b with
  | true => rw [if_neg (by simp), spacePut, if_pos rfl, modComb_at]
  | false => simp only [spacePut, Bool.false_eq_true, if_false, true_and, modCell_cells]

theorem spacePut_store : storeIn x s b (spacePut x b f s) = f (storeIn x s b s) := by
  cases b with
  | true => simp only [storeIn, spacePut, if_true, modComb_at]
  | false =>
    simp only [storeIn, Bool.false_eq_true, if_false]
    rw [spacePut_cells, if_pos ⟨rfl, rfl⟩]

/-- A store changed between a change of the generators and one of counters and FINITE keeps every register, and holds what it is
changed to from what it held. -/
theorem spacePut_kept (hu : Within [.combRegs] s u) (ht : Within [.seq, .combRegs] (spacePut x b f u) t) :
    Kept x s t ∧ storeIn x s b t = f (storeIn x s b s) := by
  have hcells := fun n => cell_of_within ht x.comb n (by decide) (by decide)
  have hold := fun n => cell_of_within hu x.comb n (by decide) (by decide)
  have hcell : vecCell x u = vecCell x s := vecCell_congr hu (by decide)
  have hstore : ∀ v, storeIn x s b v = storeIn x u b v := fun v => by simp only [storeIn, hcell]
  refine ⟨⟨fun r e _ => ?_, ?_⟩, ?_⟩
  · rw [elemIn, elemIn, hcells, spacePut_cells, apply_ite CellState.vregs, ite_self, hold]
  · exact Within.trans (hu.mono (by decide)) (Within.trans (spacePut_without (by decide)) (ht.mono (by decide)))
  · calc storeIn x s b t = storeIn x s b (spacePut x b f u) := by
          rw [storeIn, storeIn, hcells, ht.comb_store _ (by decide)]
      _ = f (storeIn x s b u) := by rw [hstore, hstore, spacePut_store]
      _ = f (storeIn x s b s) := by rw [storeIn, storeIn, hold, hu.comb_store _ (by decide)]

end Stores

/-! ### Addresses (R163, R229) -/

section Addresses

variable {m : MemArg} {size n : Nat}

theorem addrBad_none_iff : addrBad m size n = none ↔ m.addr % size = 0 ∧ m.addr + n * size ≤ spaceEnd m.combStore := by
  unfold addrBad blockBad
  by_cases h : m.addr % size = 0 <;> simp [h]

theorem addrBad_misaligned (h : m.addr % size ≠ 0) : addrBad m size n = some .format := by
  rw [addrBad, blockBad, if_pos (decide_eq_true h)]

/-- Where n elements lie in the space, so does the first. -/
theorem addrBad_first (h : addrBad m size n = none) (hn : 1 ≤ n) : addrBad m size 1 = none := by
  obtain ⟨halign, hend⟩ := addrBad_none_iff.1 h
  have := Nat.mul_le_mul_right size hn
  exact addrBad_none_iff.2 ⟨halign, by omega⟩

/-- Indices of elements within the space name their addresses, and none faults. -/
theorem indexed_within {ws : List Word} (h : ∀ i ∈ ws, m.addr + i.toNat * size + size ≤ spaceEnd m.combStore) :
    indexed m size ws = (ws.map fun i => m.addr + i.toNat * size, none) := by
  induction ws with
  | nil => rfl
  | cons i ws ih =>
    obtain ⟨hi, hws⟩ := List.forall_mem_cons.1 h
    rw [indexed]
    dsimp only
    rw [if_neg (Nat.not_lt.2 hi), ih hws]
    rfl

end Addresses

/-! ### An instruction that loads (R228, R229) -/

section Loads

variable {x : VCtx} {s : State} {c : Instr} {vd : VReg} {m : MemArg}

/-- Element e as an indexed access addresses it. -/
def indexAddr (x : VCtx) (s : State) (m : MemArg) (size : Nat) (vi : VReg) (e : Nat) : Nat :=
  m.addr + (elemIn x s s vi e).toNat * size

theorem indexed_vget {size : Nat} {vi : VReg}
    (h : ∀ e, e < x.count → indexAddr x s m size vi e + size ≤ spaceEnd m.combStore) :
    indexed m size (vget x vi s) = ((List.range x.count).map (indexAddr x s m size vi), none) := by
  rw [vget_eq, indexed_within, List.map_map]
  · rfl
  · exact List.forall_mem_map.2 fun e he => h e (List.mem_range.1 he)

theorem vecLoad_misaligned (h : m.addr % argSize m ≠ 0) : vecLoad x vd m s = ⟨s, [], some .format⟩ := by
  rw [vecLoad, addrBad_misaligned h]

variable (hn : x.count ≤ 4096)
include hn

theorem vecLd_gives (hok : argOk 1 m = true) (ha : addrBad m (argSize m) x.count = none) : Does (.vecLd x vd m) s
    (Gives x s vd fun e => loadVal m (memNat (storeIn x s m.combStore s) (m.addr + e * argSize m) (argSize m))) :=
  vres_gives hn _ (vecIf_passes hok _) (by rw [vecLoad, ha]; rfl)

theorem vecLdb_gives (hok : argOk 1 m = true) (ha : addrBad m (argSize m) 1 = none) : Does (.vecLdb x vd m) s
    (Gives x s vd fun _ => loadVal m (memNat (storeIn x s m.combStore s) m.addr (argSize m))) := by
  refine vres_gives hn _ (vecIf_passes (show argOk 2 m = true from hok) _) ?_
  rw [vecLoadB, ha, List.map_const', List.length_range]
  rfl

theorem gather_gives {vi : VReg} (hok : argOk 4 m = true) (ha : slotAddrBad m (argSize m) = none)
    (hin : ∀ e, e < x.count → indexAddr x s m (argSize m) vi e + argSize m ≤ spaceEnd m.combStore) : Does (.gather x vd vi m) s
    (Gives x s vd fun e =>
      loadVal m (memNat (storeIn x s m.combStore s) (indexAddr x s m (argSize m) vi e) (argSize m))) := by
  refine vres_gives hn _ (vecIf_passes hok _) ?_
  rw [vecGather, ha]
  dsimp only
  rw [indexed_vget hin, List.map_map]
  rfl

end Loads

/-! ### An instruction that stores (R228, R230, R231) -/

section StoreOps

variable {x : VCtx} {s : State} {v : VReg} {m : MemArg}

/-- Element e of register v as a store writes it, with its lane's draw (R201, R228). -/
def storedVal (x : VCtx) (s : State) (m : MemArg) (v : VReg) (e : Nat) : Nat × Bool :=
  storeVal m (cellDraw s ⟨x.comb, x.cell⟩ .vector (e % 128) (e / 128)) (elemIn x s s v e)

/-- The lanes' draws for a store taken. -/
def drawnFor (x : VCtx) (m : MemArg) (s : State) : State :=
  if storeRandom m then takeDraws ⟨x.comb, x.cell⟩ .vector (laneDraws 1 x.count) s else s

theorem drawnFor_within : Within [.combRegs] s (drawnFor x m s) :=
  ite_without (fun _ => takeDraws_without (by decide)) fun _ => rfl

theorem vget_length : (vget x v s).length = x.count := by rw [vget_eq, List.length_map, List.length_range]

theorem storeVals_vget : storeVals x m (vget x v s) s = ((List.range x.count).map (storedVal x s m v), drawnFor x m s) := by
  rw [storeVals, vget_length, drawnFor, vget_eq]
  exact congrArg (·, _) (List.ext_getElem (by simp) fun e _ _ => by simp [storedVal])

/-- The store of t holds elements rewritten in that of s, and nothing else has changed there. -/
def Rewritten (x : VCtx) (s : State) (b : Bool) (size : Nat) (addr : Nat → Nat) (val : Nat → Nat → Nat) (t : State) : Prop :=
  (∀ e, e < x.count → memNat (storeIn x s b t) (addr e) size =
    val e (memNat (storeIn x s b s) (addr e) size) % 256 ^ size) ∧
  ∀ a, (∀ e, e < x.count → a < addr e ∨ addr e + size ≤ a) → memByte (storeIn x s b t) a = memByte (storeIn x s b s) a

theorem rewritten_of_bytes {b : Bool} {size : Nat} {addr : Nat → Nat} {val : Nat → Nat → Nat} {t : State}
    (hd : Apart size x.count addr)
    (ht : ∀ y, memByte (storeIn x s b t) y = memByte (updateElems size addr val x.count (storeIn x s b s)) y) :
    Rewritten x s b size addr val t :=
  ⟨fun _ he => (memNat_congr fun y _ _ => ht y).trans (memNat_updateElems hd he),
    fun a ha => (ht a).trans (memByte_updateElems_other ha)⟩

theorem vecSt_stores (hok : argOk 3 m = true) (ha : addrBad m (argSize m) x.count = none) : Does (.vecSt x v m) s fun t =>
    Kept x s t ∧
    Rewritten x s m.combStore (argSize m) (fun e => m.addr + e * argSize m) (fun e _ => (storedVal x s m v e).1) t ∧
    t.combs[x.comb].gens = (drawnFor x m s).combs[x.comb].gens := by
  obtain ⟨met, ds, hr⟩ : ∃ met ds, vecStore x v m s = ⟨noteMet x.comb met (spacePut x m.combStore
      (fun st => memWrite st m.addr ((List.range x.count).map fun e => leBytes (argSize m) (storedVal x s m v e).1).flatten)
      (drawnFor x m s)), ds, none⟩ := by
    rw [vecStore, ha]
    dsimp only
    rw [storeVals_vget, List.map_map]
    exact ⟨_, _, rfl⟩
  refine does_of_exec ((vecIf_passes hok _).trans (congrArg (vecDone x) hr)) ?_
  obtain ⟨hkept, hstore⟩ := spacePut_kept drawnFor_within (Within.mono (noteMet_without (M := [.seq]) (by decide)) (by decide))
  refine ⟨hkept, rewritten_of_bytes (fun e f _ _ hne => elements_apart _ _ hne) fun y => ?_, ?_⟩
  · rw [hstore, memByte_memWrite_elements]
  · exact (gens_of_within (noteMet_without (M := [.seq]) (by decide)) _ (by decide)).trans
      (gens_of_within (spacePut_without (M := [.cellMem, .combMem]) (by decide)) _ (by decide))

/-- The fold of SCATADD adds to each element in order. -/
theorem foldl_addElems (addr : Nat → Nat) (w : Nat → Word) (n : Nat) (st : Mem) :
    ((List.range n).foldl (fun (acc : Mem × Bool) e =>
      let y := fAdd (widen 4 (memNat acc.1 (addr e) 4)) (w e)
      (memWrite acc.1 (addr e) (leBytes 4 y.toNat), acc.2 || !fIsFinite y)) (st, false)).1 =
    updateElems 4 addr (fun e old => (fAdd (widen 4 old) (w e)).toNat) n st := by
  induction n with
  | zero => rfl
  | succ n ih =>
    rw [List.range_succ, List.foldl_append, updateElems, ← ih]
    rfl

section Indexed

variable {vi : VReg} {size : Nat} (hin : ∀ e, e < x.count → indexAddr x s m size vi e + size ≤ spaceEnd m.combStore)
  (hinj : ∀ e f, e < x.count → f < x.count → elemIn x s s vi e = elemIn x s s vi f → e = f)

include hinj in
/-- Elements at distinct indices do not overlap. -/
theorem indexAddr_apart : Apart size x.count (indexAddr x s m size vi) := fun e f he hf hne =>
  elements_apart _ _ fun h => hne (hinj e f he hf (BitVec.eq_of_toNat_eq h))

include hin hinj

theorem scatter_stores (hs : argSize m = size) (hok : argOk 5 m = true) (ha : slotAddrBad m size = none) :
    Does (.scatter x v vi m) s fun t =>
      Kept x s t ∧ Rewritten x s m.combStore size (indexAddr x s m size vi) (fun e _ => (storedVal x s m v e).1) t := by
  subst hs
  obtain ⟨met, ds, f, hr⟩ : ∃ met ds, ∃ f : CombState → Sticky, vecScatter x v vi m s = ⟨noteMet x.comb met (State.modComb
      (spacePut x m.combStore
        (updateElems (argSize m) (indexAddr x s m (argSize m) vi) (fun e _ => (storedVal x s m v e).1) x.count)
        (drawnFor x m s)) x.comb fun c => { c with vecCollide := f c }), ds, none⟩ := by
    rw [vecScatter, ha]
    dsimp only
    rw [indexed_vget hin]
    dsimp only
    rw [List.take_of_length_le (by simp [vget_length]), storeVals_vget, List.zip_map']
    simp only [List.foldl_map, foldl_memWrite]
    exact ⟨_, _, _, rfl⟩
  refine does_of_exec ((vecIf_passes hok _).trans (congrArg (vecDone x) hr)) ?_
  obtain ⟨hkept, hstore⟩ := spacePut_kept drawnFor_within (Within.trans
    (modComb_without [.seq, .combRegs] _ x.comb (fun c => { c with vecCollide := f c }) fun _ => rfl)
    (noteMet_without (by decide)))
  exact ⟨hkept, rewritten_of_bytes (indexAddr_apart hinj) fun y => by rw [hstore]⟩

theorem scatadd_stores (hs : size = 4) (hok : argOk 6 m = true) (ha : slotAddrBad m size = none) :
    Does (.scatadd x v vi m) s fun t => Kept x s t ∧ Rewritten x s m.combStore 4 (indexAddr x s m size vi)
      (fun e old => (fAdd (widen 4 old) (elemIn x s s v e)).toNat) t := by
  subst hs
  obtain ⟨met, ds, hr⟩ : ∃ met ds, vecScatAdd x v vi m s = ⟨noteMet x.comb met (spacePut x m.combStore
      (fun _ => updateElems 4 (indexAddr x s m 4 vi) (fun e old => (fAdd (widen 4 old) (elemIn x s s v e)).toNat) x.count
        (storeIn x s m.combStore s)) s), ds, none⟩ := by
    rw [vecScatAdd, ha]
    dsimp only
    rw [indexed_vget hin, vget_eq]
    dsimp only
    rw [List.zip_map', List.foldl_map, foldl_addElems]
    exact ⟨_, _, rfl⟩
  refine does_of_exec ((vecIf_passes hok _).trans (congrArg (vecDone x) hr)) ?_
  obtain ⟨hkept, hstore⟩ := spacePut_kept (Within.refl _ _) (noteMet_without (M := [.seq, .combRegs]) (by decide))
  exact ⟨hkept, rewritten_of_bytes (indexAddr_apart hinj) fun y => by rw [hstore]⟩

end Indexed

/-- SCATADD takes FP32 elements (R223). -/
theorem argSize_scatadd (hok : argOk 6 m = true) : argSize m = 4 := by
  have hctl : (m.fmt.toNat == 4 && m.round.toNat == 0 && !m.raw && m.acc.toNat == 0) = true := hok
  simp only [Bool.and_eq_true, beq_iff_eq] at hctl
  obtain ⟨⟨⟨hfmt, -⟩, -⟩, -⟩ := hctl
  rw [argSize, hfmt]
  rfl

/-- The word a reduction leaves: joined to what stood at the slot address, as ACC says (R231). -/
def reducedWord (red : Red) (x : VCtx) (s : State) (v : VReg) (m : MemArg) : Word :=
  let r := reduce red ((List.range x.count).map (elemIn x s s v))
  if m.acc = 2 ∨ (m.acc = 1 ∧ x.iter ≠ 0) then red.join (widen 4 (memNat (storeIn x s m.combStore s) m.addr 4)) r else r

theorem vecReduce_stores {c : Instr} {red : Red} (hc : exec c s = vecDone x (vecReduce red x v m s))
    (ha : addrBad m 4 1 = none) : Does c s fun t => Kept x s t ∧
      memNat (storeIn x s m.combStore t) m.addr 4 = (reducedWord red x s v m).toNat ∧
      ∀ a, a < m.addr ∨ m.addr + 4 ≤ a → memByte (storeIn x s m.combStore t) a = memByte (storeIn x s m.combStore s) a := by
  obtain ⟨met, ds, hr⟩ : ∃ met ds, vecReduce red x v m s = ⟨noteMet x.comb met (spacePut x m.combStore
      (fun st => memWrite st m.addr (leBytes 4 (reducedWord red x s v m).toNat)) s), ds, none⟩ := by
    rw [vecReduce, ha, vget_eq]
    exact ⟨_, _, rfl⟩
  refine does_of_exec (hc.trans (congrArg (vecDone x) hr)) ?_
  obtain ⟨hkept, hstore⟩ := spacePut_kept (Within.refl _ _) (noteMet_without (M := [.seq, .combRegs]) (by decide))
  refine ⟨hkept, ?_, fun a hout => ?_⟩
  · rw [hstore, memNat_memWrite, toNat_mod_word]
  · rw [hstore, memByte_memWrite, leBytes_length, if_neg (by omega)]

end StoreOps

/-! ### The statement -/

/-- Settles O56: a register instruction by the elements it writes, a memory instruction by the store it rewrites in order. The
approximation functions and the draws stay free values throughout (log entries 1 and 2). -/
theorem vectorInstructions : Obligations.VectorInstructions := by
  intro s x hn1 hn reg puts gives bad
  refine ⟨fun vd va vb vc i => ?_, fun v vb m => ?_⟩
  · have g1 := fun {c} => vec1_gives (c := c) (s := s) hn (vd := vd) (va := va)
    have g2 := fun {c} => vec2_gives (c := c) (s := s) hn (vd := vd) (va := va) (vb := vb)
    have g3 := fun {c} => vec3_gives (c := c) (s := s) hn (vd := vd) (va := va) (vb := vb) (vc := vc)
    refine ⟨g2 fAdd rfl, g2 fSub rfl, g2 fMul rfl, g3 fFma rfl, g3 fSel rfl, g1 (fun a => fAdd a i) rfl,
      g1 (fun a => fMul a i) rfl, g2 (fun a b => fFma a i b) rfl, g2 fMax rfl, g2 fMin rfl, g1 (fun a => fMax a i) rfl,
      g1 (fun a => fMin a i) rfl, g1 fAbs rfl, g1 fNeg rfl, g2 fDiv rfl, g1 fSqrt rfl, g1 aExp rfl, g1 aExp2 rfl, g1 aLog rfl,
      g1 aRcp rfl, g1 aRsqrt rfl, g1 aTanh rfl, g1 aSigmoid rfl, g1 aGelu rfl, g2 (fun a b => a + b) rfl,
      g2 (fun a b => a - b) rfl, g2 (fun a b => a &&& b) rfl, g2 (fun a b => a ||| b) rfl, g2 (fun a b => a ^^^ b) rfl,
      g1 fToInt rfl, g1 intToF rfl, vres_gives hn (fun e => i + w32 e) rfl rfl, ?_, uaddsat_gives hn vd va vb, fun hi => ?_,
      fun hi => ?_, fun hi => ⟨?_, ?_⟩, fun hi => ⟨?_, ?_⟩⟩
    · exact vres_gives hn (r := vecMovi x vd i s) (fun _ => i) rfl (by rw [vecMovi, List.map_const', List.length_range])
    · exact g2 (fun a b => fMask (fCond i.toNat a b)) (vecIf_passes (decide_eq_true hi) _)
    · exact vecIf_refused (decide_eq_false (Nat.not_le.2 hi)) _
    · exact vecShift_gives hn hi (fun a n => a <<< n) rfl
    · exact vecShift_gives hn hi (fun a n => a >>> n) rfl
    · exact vecIf_refused (decide_eq_false (Nat.not_le.2 hi)) _
    · exact vecIf_refused (decide_eq_false (Nat.not_le.2 hi)) _
  · intro sz mem ix kept put
    refine ⟨fun hok ha => ⟨vecLd_gives hn hok ha, vecLdb_gives hn hok (addrBad_first ha hn1)⟩, fun hok ha => ?_,
      fun hok ha => ?_, fun ha hin => ⟨fun hok => gather_gives hn hok ha hin, fun hinj => ⟨fun hok => ?_, fun hok => ?_⟩⟩,
      fun hok ha => ?_⟩
    · exact (vecIf_passes hok _).trans ((congrArg (vecDone x) (vecLoad_misaligned ha)).trans vecDone_format)
    · refine does_imp (vecSt_stores hok ha) fun t ⟨hkept, ⟨helems, hrest⟩, hgens⟩ =>
        ⟨hkept, helems, hgens, fun a hout => hrest a fun e he => ?_⟩
      exact hout.imp (Nat.lt_add_right _) (element_below m.addr sz he).trans
    · exact scatter_stores hin hinj rfl hok ha
    · exact does_imp (scatadd_stores hin hinj (argSize_scatadd hok) hok ha) fun t ⟨hkept, helems, hrest⟩ =>
        ⟨hkept, fun e he => (helems e he).trans (toNat_mod_word _), hrest⟩
    · have left := fun {c red} h => vecReduce_stores (c := c) (s := s) (x := x) (v := v) (m := m) (red := red) h ha
      exact ⟨left (vecIf_passes hok _), left (vecIf_passes (show argOk 0x51 m = true from hok) _),
        left (vecIf_passes (show argOk 0x52 m = true from hok) _), left (vecIf_passes (show argOk 0x53 m = true from hok) _),
        left (vecIf_passes (show argOk 0x54 m = true from hok) _)⟩

end Sys2Proof.VectorProofs
end

section
/-! Runs of a Hild unit: the start with its checks and its reseed, the groups, the drained buffer and the end (R202, R203, R273,
R277, R289, R295–R298, R302). -/

namespace Sys2Proof.HildRunProofs

open Sys2Proof Sys2Proof.Machine Sys2Proof.RegisterProofs Sys2Proof.MemoryProofs Sys2Proof.JobFaultProofs
  Sys2Proof.RingProofs Sys2Proof.HeldWriteProofs

/-! ### A run at work (R295) -/

section Run

variable {s : State} {k : Super} {p : Part} {c : CurRun}

/-- The run c is the one at work in the unit of super k. -/
def setRun (k : Super) (c : CurRun) (s : State) : State := s.modHild k fun h => { h with cur := some c }

/-- A run whose buffer has drained. -/
def drained (c : CurRun) : CurRun := { c with staged := [], done := c.done + c.inBuffer, inBuffer := 0 }

/-- The unit once its run has left it. -/
def ended (k : Super) (s : State) : State := s.modHild k fun h => { h with cur := none, state := 0 }

theorem setRun_cur (s : State) : (setRun k c s).supers[k].hild.cur = some c := by
  rw [setRun, modHild_hild, if_pos rfl]

section AtWork

variable (hc : s.supers[k].hild.cur = some c)
include hc

theorem setRun_same : setRun k c s = s := modHild_fixed (by simp only [hc.symm])

theorem setRun_map (f : CurRun → CurRun) : (s.modHild k fun h => { h with cur := h.cur.map f }) = setRun k (f c) s :=
  modHild_congr (by simp only [hc, Option.map_some])

/-! A run with no group left, or whose group waits for its end, computes nothing. -/

theorem stageGroups_done (hn : c.run.count ≤ c.next) (n : Nat) : stageGroups n k s = s := by
  cases n with
  | zero => rfl
  | succ n =>
    rw [stageGroups, hc]
    cases partOf s k with
    | none => rfl
    | some p => exact if_pos (.inr hn)

theorem writeGroup_rests (h : c.computed = true ∨ c.run.count ≤ c.next) : writeGroup k s = s := by
  rw [writeGroup, hc]
  cases partOf s k with
  | none => rfl
  | some p => exact if_pos (.inr (h.imp id .inl))

theorem runGroup_done (hn : c.run.count ≤ c.next) : runGroup k s = s := by
  rw [runGroup, hc]
  dsimp only
  split
  · exact stageGroups_done hc hn _
  · exact writeGroup_rests hc (.inr hn)

/-- A buffer whose writes are all served drains. -/
theorem drainRun_drains (hp : partOf s k = some p) (hs : (c.staged.all fun w => ppaServes s k p w.ppa w.data.length) = true)
    {w : State} (hw : putAll p c.staged s = (w, none)) (hcw : w.supers[k].hild.cur = some c) :
    drainRun k s = setRun k (drained c) w := by
  rw [drainRun, hc, hp]
  dsimp only
  rw [if_neg (by simp only [hs]; decide), hw]
  exact setRun_map hcw drained

omit hc in
theorem drained_empty (hst : c.staged = []) (hb : c.inBuffer = 0) : drained c = c := by
  cases c
  dsimp only at hst hb
  subst hst hb
  rfl

/-- An empty buffer drains into nothing. -/
theorem drainRun_empty (hp : partOf s k = some p) (hst : c.staged = []) (hb : c.inBuffer = 0) : drainRun k s = s := by
  rw [drainRun_drains hc hp (by rw [hst]; rfl) (by rw [hst]; rfl) hc, drained_empty hst hb,
    setRun_same hc]

/-- A staging run stays behind a gate, a checkpoint or a commit record that cannot be written now. -/
theorem openGate_shut (h : c.run.gate ≠ none ∨ ckptHolds s k c.run = true ∨ commitServes s k = false) :
    openGate k s = s := by
  rw [openGate, hc]
  cases partOf s k with
  | none => rfl
  | some p =>
    refine if_neg fun ⟨_, hg, hh, hs⟩ => ?_
    rcases h with h | h | h
    · exact h (Option.isNone_iff_eq_none.1 hg)
    · simp [h] at hh
    · simp [h] at hs

theorem openGate_opens (hp : partOf s k = some p) (h1 : s.supers[k].hild.state = 1) (hg : c.run.gate = none)
    (hh : ckptHolds s k c.run = false) (hs : commitServes s k = true) :
    openGate k s = drainRun k (putCommit k 1 c.run c.done (s.modHild k fun h => { h with state := 2 })) := by
  rw [openGate, hc, hp]
  exact if_pos ⟨h1, by rw [hg]; rfl, by rw [hh]; rfl, hs⟩

end AtWork

/-- Without a COMMIT no commit record is written (R296). -/
theorem putCommit_none (h : s.supers[k].hild.commit = 0) (n : Nat) (r : HildRun) (m : Nat) : putCommit k n r m s = s := by
  rw [putCommit]
  cases partOf s k with
  | none => rfl
  | some p => exact if_pos (by rw [h]; rfl)

/-! ### A run leaves its unit (R107, R275, R297, R298) -/

section Ends

variable {st : Byte} {x : Word} {y : BitVec 56} (hc : s.supers[k].hild.cur = some c) (hp : partOf s k = some p)
include hc hp

section Goes

variable (hs : stopsPartition st = false)
include hs

theorem endRun_part {d : RunDesc} (hd : c.run.desc = some d) : endRun k st x y s =
    endPart k d (runStatus c st x y).1 (runStatus c st x y).2.1 (runStatus c st x y).2.2 c.bytes (ended k s) := by
  have hh : (st == stIntegrityFail || st == stCounterExhausted) = false := (Bool.or_eq_false_iff.1 hs).1
  simp only [endRun, hc, hp, hd, hs, hh, Bool.false_eq_true, if_false]
  rfl

theorem endRun_event (hd : c.run.desc = none) : endRun k st x y s =
    if (runStatus c st x y).1 = stOK ∨ stopsPartition (runStatus c st x y).1 = true then ended k s
    else postEvent p evFault (runStatus c st x y).1 k (runStatus c st x y).2.2 (ended k s) := by
  have hh : (st == stIntegrityFail || st == stCounterExhausted) = false := (Bool.or_eq_false_iff.1 hs).1
  simp only [endRun, hc, hp, hd, hs, hh, Bool.false_eq_true, if_false]
  rfl

end Goes

/-- A run that ends with INTERNAL stops its partition; before, at most its descriptor has changed. -/
theorem endRun_internal (hv : c.poison = none) : ∃ e v, Within [.rings] (ended k s) v ∧
    endRun k stInternal x y s = stopPartitionAs p k stInternal x y x [] e v := by
  have hs : runStatus c stInternal x y = (stInternal, x, y) := by rw [runStatus, hv]
  simp only [endRun, hc, hp, hs]
  cases c.run.desc with
  | none => exact ⟨_, _, .refl _ _, rfl⟩
  | some d => exact ⟨_, _, endPart_without (by decide), rfl⟩

end Ends

end Run

/-! ### The checks and the reseed (R202, R203, R289, R302) -/

section Checks

variable {s : State} {k : Super} {p : Part} {c : CurRun}

/-- The checks of a run find a bad field or a bad address. -/
theorem groupBad_status {g : Nat} {e progs : Bytes} {st : Byte} {d2 : Nat} (h : groupBad s p k g e progs = some (st, d2)) :
    st = stFormatError ∨ st = stAccessViolation := by
  unfold groupBad at h
  dsimp only at h
  split at h
  · cases h
  · split at h
    · cases h
      exact .inl rfl
    · split at h
      · cases h
        exact .inl rfl
      · split at h
        · cases h
          exact .inl rfl
        · obtain ⟨a, -, ha⟩ := Option.map_eq_some_iff.1 h
          exact .inr (congrArg Prod.fst ha).symm

theorem runBad_status {st : Byte} {d2 : Nat} (h : runBad s p k c = some (st, d2)) :
    st = stFormatError ∨ st = stAccessViolation := by
  unfold runBad at h
  dsimp only at h
  split at h
  · cases h
    exact .inl rfl
  · obtain ⟨i, -, hi⟩ := List.exists_of_findSome?_eq_some h
    exact groupBad_status hi

/-- Neither status stops a partition, nor is it OK. -/
theorem checked_goes {st : Byte} (h : st = stFormatError ∨ st = stAccessViolation) :
    stopsPartition st = false ∧ st ≠ stOK := by
  rcases h with rfl | rfl
  · decide
  · decide

/-- A run with a VALID group has a first one. -/
theorem nextValid_lt {i : Nat} (hi : i < c.run.count) (hv : entValid (c.ent i) = true) : nextValid c 0 < c.run.count := by
  have hmem : i ∈ (List.range c.run.count).filter fun j => decide (0 ≤ j) && entValid (c.ent j) := by simp [hi, hv]
  have hne := List.ne_nil_of_mem hmem
  rw [nextValid, List.head?_eq_some_head hne, Option.getD_some]
  exact List.mem_range.1 (List.mem_filter.1 (List.head_mem hne)).1

/-- A run that contains a group with sealed parameters (R299) has a first group. -/
theorem nextValid_private (h : runPrivate s k c = true) : nextValid c 0 < c.run.count := by
  obtain ⟨i, hi, hv⟩ := List.any_eq_true.1 h
  exact nextValid_lt (List.mem_range.1 hi) (Bool.and_eq_true_iff.1 hv).1

/-- A run without groups takes no seed. -/
theorem hildReseed_empty (h : nextValid c 0 = c.run.count) : hildReseed k c s = (s, true) := if_pos (.inl h)

theorem takeSeed_reseeds : (takeSeed k s).combs[k].rng.reseeds = (s.combs[k].rng.reseeds + 1) % 2 ^ 16 := by
  simp [takeSeed]

section Fresh

variable (hn : nextValid c 0 < c.run.count) (hst : s.supers[k].hild.step ≠ some c.run.step)
include hn hst

/-- A new step loads both kinds of generators from the seed that is ready. -/
theorem hildReseed_loads (h : s.combs[k].rng.state = 1) : hildReseed k c s = ((takeSeed k s).modHild k fun h =>
    { h with step := some c.run.step, rounding := { seed := some s.combs[k].rng.seed }
             noise := { seed := some s.combs[k].rng.seed } }, true) := by
  rw [hildReseed, if_neg (not_or.2 ⟨Nat.ne_of_lt hn, hst⟩), if_pos h]

theorem hildReseed_fresh (h : s.combs[k].rng.state = 1) {t : State} (ht : (hildReseed k c s).1 = t) :
    (hildReseed k c s).2 = true ∧ t.supers[k].hild.rounding = { seed := some s.combs[k].rng.seed } ∧
    t.supers[k].hild.noise = { seed := some s.combs[k].rng.seed } ∧ t.supers[k].hild.step = some c.run.step ∧
    t.combs[k].rng.reseeds = (s.combs[k].rng.reseeds + 1) % 2 ^ 16 := by
  rw [hildReseed_loads hn hst h] at ht ⊢
  subst ht
  rw [modHild_hild, if_pos rfl]
  exact ⟨rfl, rfl, rfl, rfl, takeSeed_reseeds⟩

/-- Without a ready seed the reseed is skipped, and a run whose groups need one (R302) may not go on. -/
theorem hildReseed_skips (h : s.combs[k].rng.state ≠ 1) :
    hildReseed k c s = (skipReseed k s, !runPrivate s k c) := by
  rw [hildReseed, if_neg (not_or.2 ⟨Nat.ne_of_lt hn, hst⟩), if_neg h]

end Fresh

theorem skipReseed_within : Within [.out, .host, .combRegs, .evq, .mod] s (skipReseed k s) := skipReseed_without (by decide)

theorem skipReseed_skip : (skipReseed k s).combs[k].rng.skip = hit 16 s.combs[k].rng.skip := by
  unfold skipReseed
  dsimp only
  generalize hu : s.modComb k _ = u
  have hk : u.combs[k].rng.skip = hit 16 s.combs[k].rng.skip := by simp [← hu]
  have hev : ∀ t : State, Within [.out, .host, .evq, .mod] u t → t.combs[k].rng.skip = hit 16 s.combs[k].rng.skip :=
    fun t ht => (congrArg Rng.skip (ht.comb_rng k (by decide))).trans hk
  split
  · exact hev _ (postEvent_without (by decide))
  · exact hev _ (eventToPf0_without (by decide))

end Checks

/-! ### A run that needs a fresh seed finds none (R302, R499) -/

section SeedFails

variable {s : State} {k : Super} {p : Part} {c : CurRun}

/-- Discarded runs leave the count of failed seeds. -/
theorem discardHild_seedFail (j : Super) (f : HildRun → Bool) (s : State) :
    (discardHild j f s).supers[k].hild.seedFail = s.supers[k].hild.seedFail := by
  rw [discardHild, modHild_hild]
  split <;> rfl

theorem stopIssue_seedFail (l : List Comb) (s : State) :
    (stopIssue l s).supers[k].hild.seedFail = s.supers[k].hild.seedFail :=
  forEach_keeps (fun t => t.supers[k].hild.seedFail) _ _ _ fun a t => by
    have hw : Within [.seq, .ctx] t (haltSeq a (squashAll a t)) :=
      (haltSeq_without (by decide)).trans (squashAll_without (by decide))
    rw [discardHild_seedFail, hw.super_hild k (by decide)]

theorem stopWhole_seedFail (st : Byte) (x : Word) (y : BitVec 56) (dom : BitVec 4) (s : State) :
    (stopWhole p st x y dom s).supers[k].hild.seedFail = s.supers[k].hild.seedFail := by
  unfold stopWhole
  dsimp only
  have hhalt : Within [.draws, .seq, .cellMem, .cellRun, .combMem, .ctx] s (forEach (combsOf s p) (fun k s => haltComb k s) s) :=
    forEach_without _ _ _ _ fun a t => haltComb_without (by decide)
  generalize forEach (combsOf s p) (fun k s => haltComb k s) s = t at hhalt
  have hrest : Within [.out, .host, .draws, .hum, .rings, .superMem, .superTree, .evq, .partRegs, .mod] (stopIssue (combsOf t p) t)
      (clearActive p (dropRestore p (orphanCkpt p st (stopRings p (fins 16) st x y dom (stopIssue (combsOf t p) t))))) :=
    (clearActive_without (by decide)).trans <| (dropRestore_without (by decide)).trans <|
      (orphanCkpt_without (by decide)).trans (stopRings_without (by decide))
  rw [modPart_supers, hrest.super_hild k (by decide), stopIssue_seedFail, hhalt.super_hild k (by decide)]

theorem beginRecovery_seedFail (f : FaultInfo) (s : State) :
    (beginRecovery p f s).supers[k].hild.seedFail = s.supers[k].hild.seedFail := by
  unfold beginRecovery
  dsimp only
  generalize (if f.received = true then evAbortReceived else evFault) = ev
  have he : Within [.out, .host, .evq, .mod] s (postEvent p ev f.status f.comb f.evDetail s) := postEvent_without (by decide)
  have ht : ∀ r u, Within [.rings, .partRegs] u (takeOver p r u) := fun r u => takeOver_without (by decide)
  rw [(ht _ _).super_hild k (by decide), stopWhole_seedFail, he.super_hild k (by decide)]

/-- Where no recovery runs, a fault of the partition class raises its alarm and begins one. -/
theorem stopPartitionAs_begins {st : Byte} {x unit : Word} {y : BitVec 56} {sup : List Super} {e : Option (BitVec 56)}
    (h : s.parts[p].recov = []) : ∃ f : FaultInfo, f.status = st ∧
      stopPartitionAs p k st x y unit sup e s = beginRecovery p f (raiseAlarm p k 0x07 s) := by
  have hw : Within [.router] s (raiseAlarm p k 0x07 s) := raiseAlarm_without (by decide)
  have hr : (raiseAlarm p k 0x07 s).parts[p].recov = [] := (hw.part_recov p (by decide)).trans h
  refine ⟨{ status := st, detail := x, detail2 := y, alarm := 0x07, unit := unit, comb := k
            combs := combsOf (raiseAlarm p k 0x07 s) p, supers := sup, origin := coordWord (raiseAlarm p k 0x07 s)
            evDet := e }, rfl, ?_⟩
  simp only [stopPartitionAs, partitionFault, tearingDown, hr, List.any_nil, List.find?_nil, Bool.false_eq_true, if_false]

theorem stopPartitionAs_effect {st : Byte} {x unit : Word} {y : BitVec 56} {sup : List Super} {e : Option (BitVec 56)}
    (h : s.parts[p].recov = []) : Stopped p st s (stopPartitionAs p k st x y unit sup e s) ∧
      (stopPartitionAs p k st x y unit sup e s).supers[k].hild.seedFail = s.supers[k].hild.seedFail ∧
      (stopPartitionAs p k st x y unit sup e s).combs[k].rng = s.combs[k].rng := by
  obtain ⟨f, rfl, he⟩ := stopPartitionAs_begins (k := k) (st := st) (x := x) (unit := unit) (y := y) (sup := sup) (e := e) h
  have ha : Within [.router] s (raiseAlarm p k 0x07 s) := raiseAlarm_without (by decide)
  have hb : Within stopPieces s (beginRecovery p f (raiseAlarm p k 0x07 s)) :=
    (beginRecovery_without (by decide)).trans (raiseAlarm_without (by decide))
  rw [he]
  refine ⟨stopped_of_within ha (by decide) (by decide) (beginRecovery_stops ((ha.part_recov p (by decide)).trans h)), ?_,
    hb.comb_rng k (by decide)⟩
  rw [beginRecovery_seedFail, ha.super_hild k (by decide)]

/-- The failed seed counts, and the partition stops with INTERNAL. -/
theorem seedFails_effect (hc : s.supers[k].hild.cur = some c) (hp : partOf s k = some p) (hv : c.poison = none)
    (hr : s.parts[p].recov = []) : Stopped p stInternal s (seedFails k s) ∧
      (seedFails k s).supers[k].hild.seedFail = hit 16 s.supers[k].hild.seedFail ∧
      (seedFails k s).combs[k].rng = s.combs[k].rng := by
  obtain ⟨t, hst, htc, htf, he⟩ : ∃ t, Within [.hild] s t ∧ t.supers[k].hild.cur = some c ∧
      t.supers[k].hild.seedFail = hit 16 s.supers[k].hild.seedFail ∧
      seedFails k s = endRun k stInternal (w32 (0x0D00 + k.val)) 0 t := by
    refine ⟨_, modHild_within s k _, ?_, ?_, rfl⟩
    · rw [modHild_hild, if_pos rfl, hc]
    · rw [modHild_hild, if_pos rfl]
  obtain ⟨e, v, hev, hs⟩ := endRun_internal (x := w32 (0x0D00 + k.val)) (y := 0) htc
    ((within_partOf hst (by decide) (by decide) k).trans hp) hv
  have hw : Within [.hild, .rings] s v :=
    (hst.mono (by decide)).trans <| Within.trans ((modHild_within t k _).mono (by decide)) (hev.mono (by decide))
  obtain ⟨hstop, hseed, hrng⟩ := stopPartitionAs_effect (k := k) (st := stInternal) (x := w32 (0x0D00 + k.val)) (y := 0)
    (unit := w32 (0x0D00 + k.val)) (sup := []) (e := e) ((hw.part_recov p (by decide)).trans hr)
  rw [he, hs]
  refine ⟨stopped_of_within hw (by decide) (by decide) hstop, ?_, hrng.trans (hw.comb_rng k (by decide))⟩
  rw [hseed, hev.super_hild k (by decide), ended, modHild_hild, if_pos rfl, htf]

end SeedFails

/-! ### HILD_RUN_START (R273, R277, R289, R302) -/

section Start

variable (s : State) (k : Super) (p : Part) (r : HildRun) (rest : List HildRun)

/-- What the start of a run reads: the entries of its groups and the program table. -/
def startReads : List (Nat × Nat) :=
  [(s.supers[k].hild.gtab.toNat + 256 * r.first, 256 * r.count), (s.supers[k].hild.ptab.toNat, 16384)]

/-- What the two reads of a start return. -/
def readEnts : Bytes × Option MemErr := hildRead s p (s.supers[k].hild.gtab.toNat + 256 * r.first) (256 * r.count)
def readProgs : Bytes × Option MemErr := hildRead s p s.supers[k].hild.ptab.toNat 16384

/-- The run as it is fetched, before its first group is sought, and then. -/
def readRun : CurRun :=
  { run := r, ents := (readEnts s k p r).1, progs := (readProgs s k p).1, next := 0, bytes := 256 * r.count + 16384 }
def startRun : CurRun := { readRun s k p r with next := nextValid (readRun s k p r) 0 }

/-- The state in which the run is checked. -/
def fetched : State := forEach (startReads s k r) (fun x s => ppaTouch p 3 x.1 x.2 s) (s.modHild k fun h => { h with
  queue := rest, cur := some (startRun s k p r), state := if r.gate.isSome then 1 else 2, group := BitVec.ofNat 12 r.first })

/-- The failure of the reads. -/
def readFail : Option MemErr := goneIf s (fetched s k p r rest) p ((readEnts s k p r).2.orElse fun _ => (readProgs s k p).2)

variable {s k p r rest}

/-- Nothing starts in a unit without a queued run or with one at work. -/
theorem effRunStart_rests (h : s.supers[k].hild.queue = [] ∨ s.supers[k].hild.state ≠ 0 ∨ s.supers[k].hild.cur ≠ none) :
    effRunStart k s = s := by
  unfold effRunStart
  dsimp only
  split
  next hq hp =>
    refine if_pos ?_
    rcases h with h | h | h
    · rw [hq] at h
      cases h
    · exact .inl h
    · exact .inr (.inl (Option.isSome_iff_ne_none.2 h))
  · rfl

variable (hp : partOf s k = some p) (hq : s.supers[k].hild.queue = r :: rest)
include hp hq

/-- The run at the head of the queue waits for a checkpoint, or for a super on the way. -/
theorem effRunStart_waits
    (h : ckptHolds s k r = true ∨ hildServes s p k (startReads s k r) = false ∨ commitServes s k = false) :
    effRunStart k s = s := by
  unfold effRunStart
  simp only [hq, hp]
  split
  · rfl
  next hn =>
    refine if_pos ?_
    rcases h with h | h | h
    · exact absurd (.inr (.inr h)) hn
    · exact .inl (by rw [← startReads, h]; rfl)
    · exact .inr (by rw [h]; rfl)

variable (h0 : s.supers[k].hild.state = 0) (hc : s.supers[k].hild.cur = none) (hh : ckptHolds s k r = false)
  (hs : hildServes s p k (startReads s k r) = true) (hm : commitServes s k = true)
include h0 hc hh hs hm

/-- A run that leaves the queue ends with the failure of its reads or of its checks, or begins. -/
theorem effRunStart_eq : effRunStart k s = (readFail s k p r rest).elim
    ((runBad (fetched s k p r rest) p k (startRun s k p r)).elim (beginRun k (startRun s k p r) (fetched s k p r rest))
      fun b => endRun k b.1 0 (BitVec.ofNat 56 b.2) (fetched s k p r rest))
    fun m => runMemFail k m (fetched s k p r rest) := by
  unfold effRunStart
  simp only [hq, hp]
  rw [if_neg (by rw [h0, hc, hh]; decide), if_neg (by rw [← startReads, hs, hm]; decide)]
  show (match readFail s k p r rest with
    | some m => runMemFail k m (fetched s k p r rest)
    | none => _) = _
  cases readFail s k p r rest with
  | some m => rfl
  | none =>
    show (match runBad (fetched s k p r rest) p k (startRun s k p r) with
      | some (st, d2) => endRun k st 0 (BitVec.ofNat 56 d2) (fetched s k p r rest)
      | none => _) = _
    cases runBad (fetched s k p r rest) p k (startRun s k p r) <;> rfl

theorem exec_start_readFails {m : MemErr} (hf : readFail s k p r rest = some m) :
    exec (.hildRunStart k) s = .next (runMemFail k m (fetched s k p r rest)) := by
  show Host.Outcome.next (effRunStart k s) = _
  rw [effRunStart_eq hp hq h0 hc hh hs hm, hf]
  rfl

section Read

variable (hf : readFail s k p r rest = none)
include hf

theorem exec_start_refused {st : Byte} {d2 : Nat}
    (hb : runBad (fetched s k p r rest) p k (startRun s k p r) = some (st, d2)) :
    exec (.hildRunStart k) s = .next (endRun k st 0 (BitVec.ofNat 56 d2) (fetched s k p r rest)) := by
  show Host.Outcome.next (effRunStart k s) = _
  rw [effRunStart_eq hp hq h0 hc hh hs hm, hf, hb]
  rfl

theorem exec_start_begins (hb : runBad (fetched s k p r rest) p k (startRun s k p r) = none) :
    exec (.hildRunStart k) s = .next (beginRun k (startRun s k p r) (fetched s k p r rest)) := by
  show Host.Outcome.next (effRunStart k s) = _
  rw [effRunStart_eq hp hq h0 hc hh hs hm, hf, hb]
  rfl

end Read

end Start

section Begin

variable {s : State} {k : Super} {p : Part} {c : CurRun}

/-- A run whose reseed lets it go on computes its first group, an ungated one after its commit record. -/
theorem beginRun_goes (h : (hildReseed k c s).2 = true) : beginRun k c s =
    runGroup k (if c.run.gate ≠ none then (hildReseed k c s).1 else putCommit k 1 c.run 0 (hildReseed k c s).1) := by
  have hb : beginRun k c s = if !(hildReseed k c s).2 then seedFails k (hildReseed k c s).1
    else if c.run.gate.isSome then runGroup k (hildReseed k c s).1
    else runGroup k (putCommit k 1 c.run 0 (hildReseed k c s).1) := rfl
  rw [hb, h, if_neg (by decide)]
  cases c.run.gate <;> rfl

/-- A run that finds no group to compute has only its commit record to write. -/
theorem beginRun_empty (hn : c.next = c.run.count) (he : nextValid c 0 = c.run.count) (hc : s.supers[k].hild.cur = some c) :
    (c.run.gate ≠ none → beginRun k c s = s) ∧
    (c.run.gate = none → (putCommit k 1 c.run 0 s).supers[k].hild.cur = some c → beginRun k c s = putCommit k 1 c.run 0 s) := by
  have hb := beginRun_goes (k := k) (s := s) (congrArg Prod.snd (hildReseed_empty he))
  rw [hildReseed_empty he] at hb
  refine ⟨fun hg => ?_, fun hg hw => ?_⟩
  · rw [hb, if_pos hg, runGroup_done hc hn.ge]
  · rw [hb, if_neg (not_not.2 hg), runGroup_done hw hn.ge]

/-- A run that needs a fresh seed and finds none stops its partition (R302). -/
theorem beginRun_seedFails (hc : s.supers[k].hild.cur = some c) (hp : partOf s k = some p) (hv : c.poison = none)
    (h : s.combs[k].rng.state ≠ 1) (hpriv : runPrivate s k c = true) (hst : s.supers[k].hild.step ≠ some c.run.step)
    (hr : s.parts[p].recov = []) : Stopped p stInternal s (beginRun k c s) ∧
      (beginRun k c s).supers[k].hild.seedFail = hit 16 s.supers[k].hild.seedFail ∧
      (beginRun k c s).combs[k].rng.skip = hit 16 s.combs[k].rng.skip := by
  have hb : beginRun k c s = seedFails k (skipReseed k s) := by
    rw [beginRun, hildReseed_skips (nextValid_private hpriv) hst h, hpriv]
    rfl
  have hw : Within [.out, .host, .combRegs, .evq, .mod] s (skipReseed k s) := skipReseed_within
  obtain ⟨hstop, hseed, hrng⟩ := seedFails_effect (k := k) (p := p) (s := skipReseed k s) (c := c)
    ((congrArg Hild.cur (hw.super_hild k (by decide))).trans hc) ((within_partOf hw (by decide) (by decide) k).trans hp) hv
    ((hw.part_recov p (by decide)).trans hr)
  rw [hb]
  refine ⟨stopped_of_within hw (by decide) (by decide) hstop, ?_, ?_⟩
  · rw [hseed, hw.super_hild k (by decide)]
  · rw [hrng, skipReseed_skip]

end Begin

/-! ### HILD_GROUP_DONE (R295, R303, R304) -/

section GroupDone

variable {s : State} {k : Super} {p : Part} {c : CurRun}

/-- What a unit does before it looks at the end of a group: it drains and writes, or computes and asks its gate. -/
def advanced (k : Super) (s : State) : State :=
  if s.supers[k].hild.state = 2 ∧ !(s.supers[k].hild.cur.any fun c => ckptHolds s k c.run) then writeGroup k (drainRun k s)
  else if s.supers[k].hild.state = 1 then openGate k (runGroup k s) else s

theorem advanced_staging (h : s.supers[k].hild.state = 1) : advanced k s = openGate k (runGroup k s) := by
  rw [advanced, if_neg (by rw [h]; exact fun e => absurd e.1 (by decide)), if_pos h]

theorem advanced_idle (h : s.supers[k].hild.state ≠ 1 ∧ s.supers[k].hild.state ≠ 2) : advanced k s = s := by
  rw [advanced, if_neg (fun e => h.2 e.1), if_neg h.1]

/-- A unit without a run at work does nothing. -/
theorem advanced_none (hc : s.supers[k].hild.cur = none) : advanced k s = s := by
  have hd : drainRun k s = s := by rw [drainRun, hc]
  have hw : writeGroup k s = s := by rw [writeGroup, hc]
  have hr : runGroup k s = s := by rw [runGroup, hc]
  rw [advanced, hd, hw, hr, openGate_idle hc, ite_self, ite_self]

section Writing

variable (hc : s.supers[k].hild.cur = some c) (h2 : s.supers[k].hild.state = 2)
include hc h2

theorem advanced_held (hh : ckptHolds s k c.run = true) : advanced k s = s := by
  rw [advanced, if_neg (by rw [hc, Option.any_some, hh]; exact fun e => Bool.noConfusion e.2), if_neg (by rw [h2]; decide)]

theorem advanced_writing (hh : ckptHolds s k c.run = false) : advanced k s = writeGroup k (drainRun k s) := by
  rw [advanced, if_pos (by rw [hc, Option.any_some, hh]; exact ⟨h2, rfl⟩)]

end Writing

/-- No group ends where none has been computed, the run has no group left or is held, or no run is in WRITING. -/
theorem effGroupDone_rests {t : State} (ht : advanced k s = t) (h : ∀ c, t.supers[k].hild.cur = some c →
    t.supers[k].hild.state ≠ 2 ∨ c.run.count ≤ c.next ∨ ckptHolds t k c.run = true) : effGroupDone k s = t := by
  unfold effGroupDone
  extract_lets u
  have hu : u = t := ht
  clear_value u
  subst hu
  split
  next c p hc hp =>
    refine if_pos ?_
    rcases h c hc with h | h | h
    · exact .inl h
    · exact .inr (.inr (.inl h))
    · exact .inr (.inr (.inr h))
  · rfl

/-- A staged run that has drained goes on to nothing but its end. -/
theorem exec_groupDone_drained {w : State} (ht : advanced k s = setRun k (drained c) w) (hn : c.run.count ≤ c.next) :
    exec (.hildGroupDone k) s = .next (setRun k (drained c) w) := by
  refine congrArg Host.Outcome.next (effGroupDone_rests ht fun c' h' => .inr (.inl ?_))
  rw [setRun_cur] at h'
  cases h'
  exact hn

/-- A run whose current group has ended with the writes ws. -/
def groupEnded (c : CurRun) (ws : List StagedWrite) : CurRun := { c with
  done := c.done + 1, next := nextValid c (c.next + 1), computed := false, bytes := c.bytes + stagedBytes ws }

section GroupEnds

variable (ht : advanced k s = s) (hc : s.supers[k].hild.cur = some c) (hp : partOf s k = some p)
  (h2 : s.supers[k].hild.state = 2) (hcomp : c.computed = true) (hn : c.next < c.run.count) (hh : ckptHolds s k c.run = false)
  {ws : List StagedWrite} (hws : groupEndWrites s p k c = ws)
include ht hc hp h2 hcomp hn hh hws

/-- A computed group waits until its last writes are served, ends its run where one fails, and else goes on to the next group. -/
theorem effGroupDone_ends : effGroupDone k s = if hildServes s p k (ws.map fun w => (w.ppa, w.data.length)) = false then s else
    (putAll p ws s).2.elim (runGroup k ((putAll p ws s).1.modHild k fun h => { h with cur := h.cur.map (groupEnded · ws) }))
      fun m => runMemFail k m (putAll p ws s).1 := by
  unfold effGroupDone
  extract_lets u
  have hu : u = s := ht
  clear_value u
  subst hu hws
  simp only [hc, hp]
  rw [if_neg (by simp only [h2, hcomp, hh, Nat.not_le.2 hn]; decide)]
  cases hildServes u p k ((groupEndWrites u p k c).map fun w => (w.ppa, w.data.length)) with
  | false => rfl
  | true =>
    cases putAll p (groupEndWrites u p k c) u with
    | mk v e => cases e <;> rfl

theorem exec_groupDone_waits (hs : hildServes s p k (ws.map fun w => (w.ppa, w.data.length)) = false) :
    exec (.hildGroupDone k) s = .next s :=
  congrArg Host.Outcome.next ((effGroupDone_ends ht hc hp h2 hcomp hn hh hws).trans (if_pos hs))

variable (hs : hildServes s p k (ws.map fun w => (w.ppa, w.data.length)) = true) {u : State}
include hs

theorem exec_groupDone_fails {m : MemErr} (hw : putAll p ws s = (u, some m)) :
    exec (.hildGroupDone k) s = .next (runMemFail k m u) := by
  show Host.Outcome.next (effGroupDone k s) = _
  rw [effGroupDone_ends ht hc hp h2 hcomp hn hh hws, if_neg (by simp [hs]), hw]
  rfl

theorem exec_groupDone_ends (hw : putAll p ws s = (u, none)) (hcu : u.supers[k].hild.cur = some c) :
    exec (.hildGroupDone k) s = .next (if nextValid c (c.next + 1) = c.run.count then setRun k (groupEnded c ws) u
      else runGroup k (setRun k (groupEnded c ws) u)) := by
  show Host.Outcome.next (effGroupDone k s) = _
  rw [effGroupDone_ends ht hc hp h2 hcomp hn hh hws, if_neg (by simp [hs]), hw]
  dsimp only [Option.elim]
  rw [setRun_map hcu (groupEnded · ws)]
  split
  next he => exact congrArg Host.Outcome.next (runGroup_done (setRun_cur u) (Nat.le_of_eq he.symm))
  · rfl

end GroupEnds

end GroupDone

/-! ### HILD_RUN_DONE (R274, R296, R298) -/

section RunDone

variable {s : State} {k : Super} {p : Part} {c : CurRun}

/-- No run ends outside WRITING, before its last group and its last write, or held by a checkpoint or its commit record. -/
theorem effRunDone_rests (h : ∀ c, s.supers[k].hild.cur = some c → s.supers[k].hild.state ≠ 2 ∨ c.next < c.run.count ∨
    c.staged ≠ [] ∨ ckptHolds s k c.run = true ∨ commitServes s k = false) : effRunDone k s = s := by
  unfold effRunDone
  split
  next c hc =>
    refine if_pos ?_
    rcases h c hc with h | h | h | h | h
    · exact .inl h
    · exact .inr (.inl h)
    · exact .inr (.inr (.inl h))
    · exact .inr (.inr (.inr (.inl h)))
    · exact .inr (.inr (.inr (.inr (by rw [h]; rfl))))
  · rfl

section RunEnds

variable (hc : s.supers[k].hild.cur = some c) (h2 : s.supers[k].hild.state = 2) (hn : c.run.count ≤ c.next)
  (hst : c.staged = []) (hh : ckptHolds s k c.run = false)
include hc h2 hn hst hh

/-- A finished run ends OK, its two commit records counted where it has any. -/
theorem effRunDone_ends (hm : commitServes s k = true) : effRunDone k s = endRun k stOK 0 0
    ((putCommit k 2 c.run c.done s).modHild k fun h => { h with cur := h.cur.map fun c =>
      { c with bytes := c.bytes + if s.supers[k].hild.commit = 0 then 0 else 128 } }) := by
  unfold effRunDone
  simp only [hc]
  rw [if_neg (by simp only [h2, hst, hh, hm, Nat.not_lt.2 hn]; decide)]

theorem exec_runDone_commits (h0 : s.supers[k].hild.commit ≠ 0) (hm : commitServes s k = true)
    (hw : (putCommit k 2 c.run c.done s).supers[k].hild.cur = some c) : exec (.hildRunDone k) s =
      .next (endRun k stOK 0 0 (setRun k { c with bytes := c.bytes + 128 } (putCommit k 2 c.run c.done s))) := by
  show Host.Outcome.next (effRunDone k s) = _
  rw [effRunDone_ends hc h2 hn hst hh hm, if_neg h0, setRun_map hw fun c => { c with bytes := c.bytes + 128 }]

theorem exec_runDone_plain (h0 : s.supers[k].hild.commit = 0) :
    exec (.hildRunDone k) s = .next (endRun k stOK 0 0 s) := by
  have hm : commitServes s k = true := by
    rw [commitServes, h0]
    rfl
  show Host.Outcome.next (effRunDone k s) = _
  rw [effRunDone_ends hc h2 hn hst hh hm, putCommit_none h0, if_pos h0, setRun_map hc fun c => { c with bytes := c.bytes + 0 }]
  exact congrArg (fun t => Host.Outcome.next (endRun k stOK 0 0 t)) (setRun_same hc)

end RunEnds

end RunDone

/-! ### The obligation -/

/-- Settles O57: each command by whether it waits, then by the first thing that stops the run, else by what it goes on to. -/
theorem hildRuns : Obligations.HildRuns := by
  intro s k p hp h
  refine ⟨fun hi => congrArg Host.Outcome.next (effRunStart_rests hi), fun r rest hq h0 hc => ?_, fun hi => ?_, fun hi => ?_,
    fun c hc h1 hn => ?_, fun c hc h2 => ?_⟩
  · intro reads ents progs c0 c u ended' failed
    refine ⟨fun hw => congrArg Host.Outcome.next (effRunStart_waits hp hq hw), fun hh hs hm =>
      ⟨fun m hf => exec_start_readFails hp hq h0 hc hh hs hm hf, fun hf huc hup => ⟨fun st d2 hb => ?_, fun hb => ?_⟩⟩⟩
    · obtain ⟨hgo, hok⟩ := checked_goes (runBad_status hb)
      have he := exec_start_refused hp hq h0 hc hh hs hm hf hb
      refine ⟨fun hd => he.trans (congrArg Host.Outcome.next ?_), fun d hd => he.trans (congrArg Host.Outcome.next ?_)⟩
      · exact (endRun_event huc hup hgo hd).trans (if_neg (not_or.2 ⟨hok, Bool.eq_false_iff.1 hgo⟩))
      · exact endRun_part huc hup hgo hd
    · have he := exec_start_begins hp hq h0 hc hh hs hm hf hb
      intro v
      refine ⟨fun hn => ?_, fun hgo => he.trans (congrArg Host.Outcome.next (beginRun_goes hgo)),
        fun hn hst hfresh => hildReseed_fresh (c := c) hn hfresh hst rfl,
        fun hst hpriv hfresh hr => does_of_exec he (beginRun_seedFails huc hup rfl hst hpriv hfresh hr)⟩
      obtain ⟨hgated, hungated⟩ := beginRun_empty (c := c) hn hn huc
      exact ⟨fun hg => he.trans (congrArg Host.Outcome.next (hgated hg)),
        fun hg hw => he.trans (congrArg Host.Outcome.next (hungated hg hw))⟩
  · refine congrArg Host.Outcome.next ?_
    rcases hi with hc | hi
    · exact effGroupDone_rests (advanced_none hc) fun c h => absurd (hc.symm.trans h) (Option.some_ne_none c).symm
    · exact effGroupDone_rests (advanced_idle hi) fun _ _ => .inl hi.2
  · refine congrArg Host.Outcome.next (effRunDone_rests fun c h => ?_)
    exact .inl (hi.resolve_left fun hc => Option.some_ne_none c (h.symm.trans hc))
  · have hwork : advanced k s = openGate k s := by rw [advanced_staging h1, runGroup_done hc hn]
    refine ⟨fun hshut => ?_, fun hg hh hm u hu hup huc hsv w hw hcw => ?_⟩
    · exact congrArg Host.Outcome.next (effGroupDone_rests (hwork.trans (openGate_shut hc hshut)) fun _ _ => .inl (by
        rw [show s.supers[k].hild.state = 1 from h1]
        decide))
    · refine exec_groupDone_drained (hwork.trans ?_) hn
      rw [openGate_opens hc hp h1 hg hh hm, hu, drainRun_drains huc hup hsv hw hcw]
  · have atWork : ∀ {P : CurRun → Prop}, P c → ∀ c', s.supers[k].hild.cur = some c' → P c' := fun hP c' h' =>
      Option.some.inj (hc.symm.trans h') ▸ hP
    refine ⟨fun hh => ⟨?_, ?_⟩, fun hw => ?_, fun hh =>
      ⟨fun hn hsv w hw hcw => ?_, fun hcomp hn hst hb => ?_, fun hn hst => ?_⟩⟩
    · exact congrArg Host.Outcome.next (effGroupDone_rests (advanced_held hc h2 hh) (atWork (.inr (.inr hh))))
    · exact congrArg Host.Outcome.next (effRunDone_rests (atWork (.inr (.inr (.inr (.inl hh))))))
    · refine congrArg Host.Outcome.next (effRunDone_rests (atWork ?_))
      rcases hw with hw | hw | hw
      · exact .inr (.inl hw)
      · exact .inr (.inr (.inl hw))
      · exact .inr (.inr (.inr (.inr hw)))
    · refine exec_groupDone_drained ?_ hn
      rw [advanced_writing hc h2 hh, drainRun_drains hc hp hsv hw hcw]
      exact writeGroup_rests (setRun_cur w) (.inr hn)
    · have ht : advanced k s = s := by
        rw [advanced_writing hc h2 hh, drainRun_empty hc hp hst hb, writeGroup_rests hc (.inl hcomp)]
      intro t1 ws serves
      have hws : groupEndWrites s p k c = ws := by
        simp only [groupEndWrites, ws]
        split <;> rfl
      exact ⟨exec_groupDone_waits ht hc hp h2 hcomp hn hh hws,
        fun u m hs hw => exec_groupDone_fails ht hc hp h2 hcomp hn hh hws hs hw,
        fun u hs hw hcu => exec_groupDone_ends ht hc hp h2 hcomp hn hh hws hs hw hcu⟩
    · intro ended'
      refine ⟨fun h0 => ?_, fun h0 hm hw => exec_runDone_commits hc h2 hn hst hh h0 hm hw⟩
      have he := exec_runDone_plain hc h2 hn hst hh h0
      refine ⟨fun d hd => he.trans (congrArg Host.Outcome.next ?_), fun hd => he.trans (congrArg Host.Outcome.next ?_)⟩
      · rw [endRun_part hc hp (by decide) hd, runStatus]
        cases c.poison <;> rfl
      · rw [endRun_event hc hp (by decide) hd, runStatus]
        cases c.poison with
        | none => exact if_pos (.inl rfl)
        | some a => exact if_neg (show ¬(stPoison = stOK ∨ stopsPartition stPoison = true) by decide)

end Sys2Proof.HildRunProofs
end

section
/-! The lane instructions of a Hild unit: what each leaves in the lane, the counts and the generators (R284–R287, R300, R301). -/

namespace Sys2Proof.HildLaneProofs

open Sys2Proof Sys2Proof.Machine Sys2Proof.RegisterProofs Sys2Proof.RingProofs Sys2Proof.HeldWriteProofs

/-! ### The operations on a lane -/

/-- A slot as the model reads it from a vector of eight. -/
theorem slot_get {α : Type} (v : Vector α 8) (slot : BitVec 3) :
    v[Fin.ofNat 8 slot.toNat] = v[slot.toNat]'(by omega) := by
  simp only [Fin.getElem_fin, Fin.val_ofNat, Nat.mod_eq_of_lt slot.isLt]

section Lane

variable {L : LaneState} (d : HReg) {a b c : BitVec 6}

theorem put_regs (v : Word) (i : HReg) : (L.put d v).regs[i] = if i = d then v else L.regs[i] := by
  simp only [LaneState.put, Fin.getElem_fin, upd_get, Fin.ext_iff, eq_comm]

/-- A lane whose program has ended stays as it is. -/
theorem lane2_ended (h : L.ended = true) (f : Word → Word → Word) : lane2 f d a b L = L :=
  if_neg (by simp [LaneState.runs, h])

theorem laneLd_ended {slot : BitVec 3} (h : L.ended = true ∨ slot = 7) : laneLd d slot L = L := if_pos h

theorem laneLd_loads {slot : BitVec 3} (h : L.ended = false) (hs : slot ≠ 7) : laneLd d slot L =
    { L.put d (L.streams[slot.toNat]'(by omega)) with voided := L.voided || L.badSlots.getLsbD slot.toNat } := by
  rw [laneLd, if_neg (not_or.2 ⟨Bool.eq_false_iff.1 h, hs⟩), slot_get]

/-- The mode of an ST to a slot of format fmt (R287). -/
theorem stMode_eq (slot : BitVec 3) (round : BitVec 2) : stMode L slot round =
    if slot = 0 ∧ (L.fmts[slot.toNat]'(by omega)).toNat = 2 then 1 else round.toNat := by
  simp only [stMode, slot_get, BitVec.toNat_eq]
  rfl

section Sources

variable (he : L.ended = false) (ha : selOk a.toNat = true) (hb : selOk b.toNat = true) (hc : selOk c.toNat = true)
include he ha

theorem runs1 : L.runs [a] = true := by simp [LaneState.runs, he, ha]

theorem lane1_runs (f : Word → Word) : lane1 f d a L = L.put d (f (L.src a)) := if_pos (runs1 he ha)

include hb

theorem runs2 : L.runs [a, b] = true := by simp [LaneState.runs, he, ha, hb]

theorem lane2_runs (f : Word → Word → Word) : lane2 f d a b L = L.put d (f (L.src a) (L.src b)) := if_pos (runs2 he ha hb)

include hc

theorem lane3_runs (f : Word → Word → Word → Word) :
    lane3 f d a b c L = L.put d (f (L.src a) (L.src b) (L.src c)) :=
  if_pos (by simp [LaneState.runs, he, ha, hb, hc])

end Sources

/-- An ST that executes stores the converted value and counts a NaN or an infinity (R285, R287, R304). -/
theorem laneSt_stores {slot : BitVec 3} {round : BitVec 2} {r fmt mode : Nat} (he : L.ended = false)
    (ha : selOk a.toNat = true) (hs : slot ≠ 7) (hf : (L.fmts[slot.toNat]'(by omega)).toNat = fmt)
    (hm : stMode L slot round = mode) (ho : roundOk mode fmt = true) :
    laneSt r a slot round L = { L with
      outs := L.outs ++ [(slot.toNat, w32 (convertTo fmt mode r (L.src a)))]
      nonfin := L.nonfin + b2n (meetsSpecial fmt (L.src a) (convertTo fmt mode r (L.src a))) } := by
  subst hf hm
  rw [laneSt, slot_get]
  exact if_pos (by rw [runs1 he ha, ho, bne_iff_ne.2 hs]; rfl)

/-- An ST draws under SR to a format other than FP32. -/
theorem stDraws_eq {slot : BitVec 3} {round : BitVec 2} {fmt mode : Nat} (he : L.ended = false)
    (ha : selOk a.toNat = true) (hs : slot ≠ 7) (hf : (L.fmts[slot.toNat]'(by omega)).toNat = fmt)
    (hm : stMode L slot round = mode) : b2n (stDraws L a slot round) = if mode = 1 ∧ fmt ≠ 4 then 1 else 0 := by
  subst hf hm
  rw [stDraws, slot_get, runs1 he ha, bne_iff_ne.2 hs]
  simp [b2n, BitVec.toNat_eq]

theorem rndDraws_eq {round : BitVec 2} {fmt : BitVec 3} (he : L.ended = false) (ha : selOk a.toNat = true) :
    b2n (rndDraws L a round fmt) = if round = 1 ∧ fmt.toNat < 4 then 1 else 0 := by
  simp [rndDraws, runs1 he ha, b2n]

end Lane

/-- A NOISE that executes adds B times a Gaussian of its two draws, and takes them (R300, R301). -/
theorem laneNoise_adds {L : LaneState} {a b : BitVec 6} (hn : L.isPriv = false ∨ b = 0x1F) (r : L.runs [a, b] = true)
    (x y : Word) (d : HReg) :
    laneNoise x y d a b L = L.put d (fFma (L.src b) (aGauss x y) (L.src a)) ∧
    (if L.runs [a, b] && !(L.isPriv && b != 0x1F) then 2 else 0) = 2 := by
  have hopen : (L.isPriv && b != 0x1F) = false := by
    rcases hn with hn | rfl
    · rw [hn, Bool.false_and]
    · simp
  rw [laneNoise, hopen, r]
  exact ⟨if_pos r, rfl⟩

/-- A poisoned line counts where the lane was not voided before it (R298). -/
theorem newlyVoided_iff (voided bad : Bool) : ((voided || bad) && !voided) = true ↔ bad = true ∧ voided = false := by
  cases voided with
  | false => simp
  | true => simp

/-- One event counted as a sum of events. -/
theorem hitN_b2n (c : Bool) (x : Sticky) : hitN 16 (b2n c) x = if c then hit 16 x else x := by
  cases c <;> rfl

/-! ### What an instruction leaves in the unit -/

section Unit

variable (s : State) (k : Super)

/-- From s to t nothing has changed but the Hild unit of super k. -/
def Only (t : State) : Prop := (∀ j : Super, j ≠ k → t.supers[j] = s.supers[j]) ∧ Within [.hild] s t

/-- Register d of the lane has taken v, the generators have become as given, and nothing else has changed. -/
def Leaves (d : HReg) (v : Word) (rounding noise : Gens) (t : State) : Prop :=
  (∀ i : HReg, t.supers[k].hild.lane.regs[i] = if i = d then v else s.supers[k].hild.lane.regs[i]) ∧
  { t.supers[k].hild.lane with regs := s.supers[k].hild.lane.regs } = s.supers[k].hild.lane ∧
  { t.supers[k].hild with
    lane := s.supers[k].hild.lane, rounding := s.supers[k].hild.rounding, noise := s.supers[k].hild.noise } = s.supers[k].hild ∧
  t.supers[k].hild.rounding = rounding ∧ t.supers[k].hild.noise = noise ∧ Only s k t

theorem modHild_only (f : Hild → Hild) : Only s k (s.modHild k f) :=
  ⟨fun j hj => modHild_other s k j f (Ne.symm hj), modHild_within s k f⟩

variable {s k}

/-- The unit after an instruction, by what the instruction makes of it. -/
theorem does_modHild {i : Instr} {f : Hild → Hild} {h' : Hild} {P : State → Prop} (hx : exec i s = .next (s.modHild k f))
    (hf : f s.supers[k].hild = h') (hP : ∀ t : State, t.supers[k].hild = h' → Only s k t → P t) : Does i s P :=
  does_of_exec hx (hP _ ((modHild_hild s k k f).trans ((if_pos rfl).trans hf)) (modHild_only s k f))

/-- An instruction that writes a register and takes draws. -/
theorem does_leaves {i : Instr} {f : Hild → Hild} {d : HReg} {v : Word} {rounding noise : Gens}
    (hx : exec i s = .next (s.modHild k f)) (hf : f s.supers[k].hild = { s.supers[k].hild with
      lane := s.supers[k].hild.lane.put d v, rounding := rounding, noise := noise }) :
    Does i s (Leaves s k d v rounding noise) := by
  refine does_modHild hx hf fun t ht ho => ?_
  rw [Leaves, ht]
  exact ⟨put_regs d v, rfl, rfl, rfl, rfl, ho⟩

/-- An instruction that writes a register. -/
theorem does_puts {i : Instr} {f : LaneState → LaneState} {d : HReg} {v : Word} (hx : exec i s = .next (s.modLane k f))
    (hf : f s.supers[k].hild.lane = s.supers[k].hild.lane.put d v) :
    Does i s (Leaves s k d v s.supers[k].hild.rounding s.supers[k].hild.noise) := by
  refine does_leaves hx ?_
  rw [← hf]

/-- An LD after the end of its program, or of slot 7, leaves the state. -/
theorem exec_hldLd_idle {d : HReg} {slot : BitVec 3} (h : s.supers[k].hild.lane.ended = true ∨ slot = 7) :
    exec (.hldLd k d slot) s = .next s := by
  refine congrArg Host.Outcome.next (modHild_fixed ?_)
  dsimp only
  rw [laneLd_ended d h, Bool.and_not_self]
  rfl

end Unit

/-- Settles O58: an instruction that leaves its lane by the check that refuses it, every other by what it writes and draws. -/
theorem hildInstructions : Obligations.HildInstructions := by
  intro s k h L lane only leaves puts
  refine ⟨fun he d a b => ⟨?_, exec_hldLd_idle (.inl he)⟩, fun d => exec_hldLd_idle (.inr rfl), fun a round => ?_,
    fun d a b hpriv hb => ?_, ?_, fun he d a b c ha hb hc => ?_⟩
  · exact congrArg Host.Outcome.next (modHild_fixed (congrArg (fun L : LaneState => { h with lane := L }) (lane2_ended d he fAdd)))
  · refine does_modHild rfl rfl fun t ht ho => ⟨?_, ho⟩
    show t.supers[k].hild.lane = L
    rw [ht]
    exact if_neg (by simp)
  · refine does_modHild rfl rfl fun t ht ho => ⟨?_, ho⟩
    show t.supers[k].hild.lane = L
    rw [ht]
    exact if_pos (Bool.and_eq_true_iff.2 ⟨hpriv, bne_iff_ne.2 hb⟩)
  · refine does_modHild rfl rfl fun t ht ho => ⟨?_, ?_, ho⟩
    · exact congrArg Hild.lane ht
    · rw [ht]
  · intro x y z
    have one := fun f {i : Instr} (hx : exec i s = .next (s.modLane k (lane1 f d a))) => does_puts hx (lane1_runs d he ha f)
    have two := fun f {i : Instr} (hx : exec i s = .next (s.modLane k (lane2 f d a b))) =>
      does_puts hx (lane2_runs d he ha hb f)
    have three := fun f {i : Instr} (hx : exec i s = .next (s.modLane k (lane3 f d a b c))) =>
      does_puts hx (lane3_runs d he ha hb hc f)
    refine ⟨two fAdd rfl, two fSub rfl, two fMul rfl, three fFma rfl, two fDiv rfl, one fSqrt rfl, one aRsqrt rfl, two fMax rfl,
      two fMin rfl, one fAbs rfl, one fSignum rfl, fun cond hcond => ?_, three fSel rfl,
      three (fun x y z => fMin (fMax x y) z) rfl, one aExp rfl, fun hn => ?_,
      fun round fmt hf hr => ?_, fun slot hs => ?_, fun slot round hs => ?_⟩
    · exact does_puts rfl ((if_pos hcond).trans (lane2_runs d he ha hb _))
    · obtain ⟨hlane, hdraws⟩ := laneNoise_adds hn (runs2 he ha hb) (noiseDraw s k L.lane 0) (noiseDraw s k L.lane 1) d
      refine does_leaves rfl ?_
      dsimp only
      rw [hlane, hdraws]
    · refine does_leaves rfl ?_
      dsimp only
      rw [laneRnd, if_pos ⟨hf, hr⟩, lane1_runs d he ha, rndDraws_eq he ha]
      rfl
    · refine does_modHild rfl (h' := { h with
        lane := { L.put d (L.streams[slot.toNat]'(by omega)) with voided := L.voided || L.badSlots.getLsbD slot.toNat }
        poison := if L.badSlots.getLsbD slot.toNat ∧ L.voided = false then hit 16 h.poison else h.poison }) ?_ fun t ht ho => ?_
      · dsimp only
        rw [laneLd_loads d he hs]
        simp only [← newlyVoided_iff]
        rfl
      · dsimp only [lane]
        rw [ht]
        exact ⟨put_regs d _, rfl, rfl, rfl, rfl, ho⟩
    · intro fmt mode v hr
      have hm : stMode L slot round = mode := stMode_eq slot round
      have hlane := laneSt_stores (r := roundDraw s k L.lane 0) he ha hs rfl hm hr
      refine does_modHild rfl rfl fun t ht ho => ?_
      dsimp only [lane]
      rw [ht]
      dsimp only
      rw [hlane, stDraws_eq he ha hs rfl hm, Nat.add_sub_cancel_left, hitN_b2n]
      exact ⟨rfl, rfl, rfl, rfl, ho⟩

end Sys2Proof.HildLaneProofs
end

section
/-! Region tables committed and initialised, trees formatted, and refresh (R318–R323, R349, R359). -/

namespace Sys2Proof.RegionProofs

open Sys2Proof Sys2Proof.Machine Sys2Proof.MemoryProofs Sys2Proof.JobFaultProofs Sys2Proof.RingProofs

/-! ### Single supers changed in turn -/

/-- Supers changed in turn, each by what it and the partitions hold, are each changed once. -/
theorem forEach_supers {q : Vector PartState 8} {f : Super → State → State} {g : Super → SuperState → SuperState}
    (hf : ∀ k s, s.parts = q → f k s = s.modSuper k (g k)) {l : List Super} (hl : l.Nodup) {s : State} (hs : s.parts = q)
    (j : Super) : (forEach l f s).supers[j] = if j ∈ l then g j s.supers[j] else s.supers[j] := by
  induction l generalizing s with
  | nil => simp [forEach]
  | cons k r ih =>
    obtain ⟨hk, hr⟩ := List.nodup_cons.1 hl
    have hstep : (forEach (k :: r) f s).supers[j] = (forEach r f (s.modSuper k (g k))).supers[j] :=
      congrArg (fun t => (forEach r f t).supers[j]) (hf k s hs)
    rw [hstep, ih hr (s := s.modSuper k (g k)) hs]
    simp only [Fin.getElem_fin, modSuper_get, List.mem_cons]
    by_cases h : j = k
    · subst h
      simp [hk]
    · simp [h, Ne.symm h]

/-! ### The cursors of a table (R319–R321) -/

/-- Cursors that fit lie within their limits, and so does a default that fits. -/
theorem getD_of_cursorsFit {lim : Nat → Nat} {cur : List Nat} (h : cursorsFit lim cur = true) {d i : Nat} (hd : d ≤ lim i) :
    cur.getD i d ≤ lim i := by
  rw [List.getD_eq_getElem?_getD]
  by_cases hi : i < cur.length
  · have hm : decide (cur[i] ≤ lim i) ∈ cur.mapIdx fun i c => decide (c ≤ lim i) :=
      List.mem_mapIdx.2 ⟨i, hi, rfl⟩
    have hfit := List.all_eq_true.1 h _ hm
    simpa [List.getElem?_eq_getElem hi] using hfit
  · simpa [List.getElem?_eq_none (Nat.le_of_not_lt hi)] using hd

/-- The cursors of a table whose entries pass lie within the limits (R321). -/
theorem tableCursors_fit {p : Part} {n : Nat} {l : List Region} {dc sc : List Nat} (h : tableErr p n l dc sc = 0)
    (hd : cursorsFit (fun i => dataEnd (combAt p i)) dc = true) (hs : cursorsFit (fun _ => metaBase) sc = true) :
    cursorsFit (fun i => dataEnd (combAt p i)) (tableCursors l dc sc).1 = true ∧
      cursorsFit (fun _ => metaBase) (tableCursors l dc sc).2 = true := by
  induction l generalizing dc sc with
  | nil => exact ⟨hd, hs⟩
  | cons g r ih =>
    simp only [tableErr] at h
    simp only [tableCursors]
    by_cases hk : g.kind = 0
    · simpa only [hk, if_true] using ⟨hd, hs⟩
    rw [if_neg hk] at h ⊢
    by_cases he : regionErr n g = 0
    · rw [if_neg (not_not.2 he)] at h
      by_cases hsl : kindSealed g.kind.toNat = true
      · rw [if_pos hsl] at h ⊢
        split at h
        · next hfit => exact ih h hd hfit
        · cases h
      · rw [if_neg hsl] at h ⊢
        split at h
        · next hfit => exact ih h hfit hs
        · cases h
    · rw [if_pos he] at h
      exact absurd h he

theorem cursorsFit_replicate {lim : Nat → Nat} {n c : Nat} (h : ∀ i, c ≤ lim i) : cursorsFit lim (.replicate n c) = true := by
  refine List.all_eq_true.2 fun b hb => ?_
  obtain ⟨i, hi, rfl⟩ := List.mem_mapIdx.1 hb
  simpa using h i

/-! ### REGION_COMMIT (R318–R321) -/

/-- The region table of a partition after the verdict e on it: LOCKED where it passed, and ERR (R320). -/
def judged (e : Nat) (q : PartState) : PartState := { q with locked := decide (e = 0), mapErr := BitVec.ofNat 4 e }

/-- A super of a partition whose table passed, its cursors behind the regions (R321). -/
def allocated (s : State) (p : Part) (k : Super) (u : SuperState) : SuperState :=
  let x := tableCursors s.parts[p].rgn.toList (.replicate (Machine.sizeOf s p) 0) (.replicate (Machine.sizeOf s p) sealedBase)
  { u with dataCur := x.1.getD (posOf p k) 0, sealCur := x.2.getD (posOf p k) sealedBase }

theorem allocate_super (p : Part) (s : State) (k : Super) : (allocate p s).supers[k] =
    if inPart s p k = true then allocated s p k s.supers[k] else s.supers[k] := by
  have h := forEach_supers (q := s.parts) (f := fun k t => t.modSuper k (allocated s p k)) (g := allocated s p)
    (fun _ _ _ => rfl) (combsOf_nodup s p) rfl k
  simp only [mem_combsOf] at h
  exact h

theorem allocate_within (p : Part) (s : State) : Within [.superRegs] s (allocate p s) := allocate_without (by decide)

theorem allocate_part (p q : Part) (s : State) : (allocate p s).parts[q] = s.parts[q] :=
  forEach_keeps (fun t => t.parts[q]) _ _ _ fun _ _ => rfl

/-- The verdict leaves what an allocation reads. -/
theorem allocated_judged (s : State) (p : Part) (e : Nat) (k : Super) :
    allocated (s.modPart p (judged e)) p k = allocated s p k ∧ inPart (s.modPart p (judged e)) p k = inPart s p k := by
  have h : (s.modPart p (judged e)).parts[p] = judged e s.parts[p] := modPart_at s p _
  constructor
  · funext u
    simp only [allocated, Machine.sizeOf, h, judged]
  · simp only [inPart, h, judged, modPart_combs]
    rfl

section Commit

variable {s : State} {p : Part} (hs : regsServed s = true)
include hs

/-- A commit of a locked table is ignored (R320). -/
theorem regionCommit_locked (hk : s.parts[p].locked = true) : exec (.regionCommit p) s = .next s := by
  refine congrArg Host.Outcome.next ?_
  rw [hs]
  simp only [doIf, effCommit, hk, or_true, if_true]

variable (hlive : s.parts[p].live = true) (hl : s.parts[p].locked = false)
include hlive hl

theorem exec_regionCommit : exec (.regionCommit p) s = .next
    (let t := s.modPart p (judged (commitTable s p)); if commitTable s p = 0 then allocate p t else t) := by
  refine congrArg Host.Outcome.next ?_
  rw [hs]
  simp only [doIf, effCommit, hlive, hl, Bool.not_true, Bool.false_eq_true, or_self, if_true, if_false]
  rfl

/-- A commit judges the table; where it passes, the cursors of every super of the partition advance, and no other super changes
(R320, R321). -/
theorem regionCommit_supers : Does (.regionCommit p) s fun t =>
    (∀ k : Super, t.supers[k] =
      if commitTable s p = 0 ∧ inPart s p k = true then allocated s p k s.supers[k] else s.supers[k]) ∧
    t.parts[p] = judged (commitTable s p) s.parts[p] ∧ Within [.superRegs, .regions] s t := by
  have hw : Within [.superRegs, .regions] s (s.modPart p (judged (commitTable s p))) := modPart_without _ _ _ _ fun _ => rfl
  refine does_of_exec (exec_regionCommit hs hlive hl) ?_
  dsimp only
  split
  · next he =>
    refine ⟨fun k => ?_, ?_, hw.trans ((allocate_within ..).mono (by decide))⟩
    · obtain ⟨ha, hi⟩ := allocated_judged s p (commitTable s p) k
      rw [allocate_super, ha, hi]
      simp only [he, true_and, modPart_supers]
    · exact (allocate_part ..).trans (modPart_at s p _)
  · next he => exact ⟨fun k => by simp only [he, false_and, if_false, modPart_supers], modPart_at s p _, hw⟩

end Commit

/-- A table that passes passes entry by entry from empty supers (R319, R320). -/
theorem tableErr_of_commitTable {s : State} {p : Part} (h : commitTable s p = 0) :
    tableErr p (Machine.sizeOf s p) s.parts[p].rgn.toList (.replicate (Machine.sizeOf s p) 0)
      (.replicate (Machine.sizeOf s p) sealedBase) = 0 := by
  unfold commitTable at h
  dsimp only at h
  split at h
  · cases h
  · split at h
    · cases h
    · exact h

/-- A passed table's cursors on a super of the partition lie within the limits (R321). -/
theorem allocated_within {s : State} {p : Part} {k : Super} (h : commitTable s p = 0) (hpk : p.val ≤ k.val) (u : SuperState) :
    (allocated s p k u).dataCur ≤ dataEnd k ∧ (allocated s p k u).sealCur ≤ metaBase := by
  have hk : combAt p (posOf p k) = k := Fin.ext (by simp [combAt, posOf]; omega)
  obtain ⟨hdata, hseal⟩ := tableCursors_fit (tableErr_of_commitTable h) (cursorsFit_replicate fun i => Nat.zero_le _)
    (cursorsFit_replicate fun _ => by decide)
  refine ⟨?_, getD_of_cursorsFit hseal (by decide)⟩
  have hfit := getD_of_cursorsFit hdata (i := posOf p k) (d := 0) (Nat.zero_le _)
  rwa [hk] at hfit

/-! ### A table of one region (R318–R321) -/

/-- Units of 64 MiB that a region of a partition of one comb finds: in the sealed window, or below it, where the supers of the
queen regions hold 8 units less (R315). -/
def soleRoom (p : Part) (g : Region) : Nat :=
  if 3 ≤ g.kind.toNat then 32 else if p.val = 0 ∨ p.val = 4 then 908 else 916

/-- ERR of a table whose first entry is g and whose second is disabled, on a partition of one comb (R319, R320). -/
def soleErr (p : Part) (g : Region) : Nat :=
  if g.kind = 0 then 6 else if 5 ≤ g.kind.toNat ∨ g.share.toNat < 1 ∨ 916 < g.share.toNat then 1
  else if g.pos ≠ 0 then 2 else if g.keyId = 0 then 3
  else if g.share.toNat ≤ soleRoom p g then 0 else if 3 ≤ g.kind.toNat then 5 else 4

section Sole

variable {p : Part} {g : Region} {l : List Region}

theorem regionErr_one (g : Region) : regionErr 1 g =
    if 5 ≤ g.kind.toNat ∨ g.share.toNat < 1 ∨ 916 < g.share.toNat then 1 else if g.pos ≠ 0 then 2
    else if g.keyId = 0 then 3 else 0 := by
  have hpos : 1 ≤ g.pos.toNat ↔ ¬ g.pos = 0 := by
    rw [Nat.one_le_iff_ne_zero, ne_eq, ← BitVec.toNat_inj]
    rfl
  simp only [regionErr, hpos, ne_eq, ite_self, decide_eq_true_eq]

/-- The sealed kinds are those from 3 on. -/
theorem kindSealed_iff {n : Nat} (h : n < 5) : kindSealed n = decide (3 ≤ n) := by
  interval_cases n <;> rfl

/-- The cursor of the partition's one super after its one region. -/
theorem advance_one (h : g.pos = 0) (c : Nat) : advance g [c] = [c + shareBytes g] := by
  simp [advance, usesPos, h]

theorem combAt_zero : combAt p 0 = p := Fin.ext (by simp [combAt])

theorem cursorsFit_one (lim : Nat → Nat) (c : Nat) : cursorsFit lim [c] = decide (c ≤ lim 0) := by
  simp [cursorsFit]

/-- Whether a region's bytes fit is whether its share is at most the room it finds (R315, R321). -/
theorem share_fits (p : Part) (g : Region) :
    (shareBytes g ≤ dataEnd p ↔ g.share.toNat ≤ if p.val = 0 ∨ p.val = 4 then 908 else 916) ∧
    (sealedBase + shareBytes g ≤ metaBase ↔ g.share.toNat ≤ 32) := by
  unfold shareBytes dataEnd queenBase sealedBase metaBase
  split <;> omega

/-- The verdict on a first entry behind which the table ends. -/
theorem tableErr_sole (hl : ∀ dc sc, tableErr p 1 l dc sc = 0) (h0 : g.kind ≠ 0) :
    tableErr p 1 (g :: l) [0] [sealedBase] = soleErr p g := by
  obtain ⟨hdata, hseal⟩ := share_fits p g
  simp only [soleErr, tableErr, hl, regionErr_one, h0, if_false]
  by_cases h1 : 5 ≤ g.kind.toNat ∨ g.share.toNat < 1 ∨ 916 < g.share.toNat
  · simp only [h1, if_true, ne_eq, one_ne_zero, not_false_eq_true]
  by_cases h2 : g.pos = 0
  · by_cases h3 : g.keyId = 0
    · simp only [h1, h2, h3, ne_eq, not_true, if_true, if_false, OfNat.ofNat_ne_zero, not_false_eq_true]
    have hk : kindSealed g.kind.toNat = decide (3 ≤ g.kind.toNat) := kindSealed_iff (by omega)
    simp only [h1, h2, h3, ne_eq, not_true, if_false, hk, advance_one h2, cursorsFit_one, combAt_zero, Nat.zero_add, hdata,
      hseal, soleRoom, decide_eq_true_eq]
    by_cases hs : 3 ≤ g.kind.toNat
    · simp only [hs, if_true]
    · simp only [hs, if_false]
  · simp only [h1, h2, if_false, ne_eq, not_false_eq_true, if_true, OfNat.ofNat_ne_zero]

/-- The cursors behind it, where it passes. -/
theorem tableCursors_sole (hl : ∀ dc sc, tableCursors l dc sc = (dc, sc)) (h : soleErr p g = 0) :
    tableCursors (g :: l) [0] [sealedBase] = ([if 3 ≤ g.kind.toNat then 0 else shareBytes g],
      [sealedBase + if 3 ≤ g.kind.toNat then shareBytes g else 0]) := by
  unfold soleErr at h
  split at h
  · cases h
  next h0 =>
  split at h
  · cases h
  next h1 =>
  split at h
  · cases h
  next h2 =>
  have hk : kindSealed g.kind.toNat = decide (3 ≤ g.kind.toNat) := kindSealed_iff (by omega)
  simp only [tableCursors, h0, hk, hl, advance_one (not_not.1 h2), if_false, decide_eq_true_eq]
  by_cases hs : 3 ≤ g.kind.toNat
  · simp only [hs, if_true]
  · simp only [hs, if_false, Nat.zero_add, Nat.add_zero]

theorem rgn_toList (q : PartState) : ∃ r, q.rgn.toList = q.rgn[0] :: q.rgn[1] :: r := by
  obtain ⟨a, b, r, h⟩ : ∃ a b r, q.rgn.toList = a :: b :: r := by
    have hlen : q.rgn.toList.length = 16 := Vector.length_toList
    match hl : q.rgn.toList with
    | [] | [_] => simp [hl] at hlen
    | a :: b :: r => exact ⟨a, b, r, rfl⟩
  have h0 : q.rgn[0] = a := by simp [← Vector.getElem_toList, h]
  have h1 : q.rgn[1] = b := by simp [← Vector.getElem_toList, h]
  exact ⟨r, by rw [h, h0, h1]⟩

variable {s : State} (hp : s.parts[p].psize = 0) (hg : (s.parts[p].rgn[1]).kind = 0)
include hp

theorem sizeOf_one : Machine.sizeOf s p = 1 := by
  simp only [Machine.sizeOf, hp]
  rfl

include hg

/-- The verdict on a table of one region (R319, R320). -/
theorem commitTable_sole : commitTable s p = soleErr p s.parts[p].rgn[0] := by
  obtain ⟨r, hr⟩ := rgn_toList s.parts[p]
  unfold commitTable
  rw [sizeOf_one hp, hr]
  simp only [List.head?_cons, List.replicate_one]
  by_cases h0 : s.parts[p].rgn[0].kind = 0
  · simp only [h0, if_true, soleErr]
  · rw [if_neg h0, tableErr_sole (fun dc sc => by rw [tableErr, if_pos hg]) h0]

/-- The cursors of the partition's super where its one region passes (R321). -/
theorem allocated_sole (h : soleErr p s.parts[p].rgn[0] = 0) (u : SuperState) :
    (allocated s p p u).dataCur = (if 3 ≤ s.parts[p].rgn[0].kind.toNat then 0 else s.parts[p].rgn[0].share.toNat * 67108864) ∧
    (allocated s p p u).sealCur = 0xE50000000 +
      if 3 ≤ s.parts[p].rgn[0].kind.toNat then s.parts[p].rgn[0].share.toNat * 67108864 else 0 := by
  obtain ⟨r, hr⟩ := rgn_toList s.parts[p]
  have hpos : posOf p p = 0 := Nat.sub_self _
  simp only [allocated, sizeOf_one hp, hr, hpos, List.replicate_one]
  rw [tableCursors_sole (fun dc sc => by rw [tableCursors, if_pos hg]) h]
  exact ⟨rfl, rfl⟩

end Sole

/-! ### REGION_COMMIT where the partition's combs stand at its place -/

section Placed

variable {s : State} {p : Part} (hs : regsServed s = true) (hlive : s.parts[p].live = true) (hl : s.parts[p].locked = false)
include hs hlive hl

/-- Where no comb of the partition lies below it, a commit that passes allocates within the limits (R320, R321). -/
theorem regionCommit_allocates (hplace : ∀ k : Super, inPart s p k = true → p.val ≤ k.val) : Does (.regionCommit p) s fun t =>
    t.parts[p].locked = decide (commitTable s p = 0) ∧ t.parts[p].mapErr = BitVec.ofNat 4 (commitTable s p) ∧
    t.parts[p].rgn = s.parts[p].rgn ∧
    (∀ k : Super, inPart s p k = true → commitTable s p = 0 →
      t.supers[k].dataCur ≤ dataEnd k ∧ t.supers[k].sealCur ≤ metaBase) ∧
    (∀ k : Super, inPart s p k = false ∨ commitTable s p ≠ 0 → t.supers[k] = s.supers[k]) ∧
    Within [.superRegs, .regions] s t := by
  obtain ⟨t, ht, hsupers, hpart, hw⟩ := regionCommit_supers hs hlive hl
  refine ⟨t, ht, by rw [hpart]; rfl, by rw [hpart]; rfl, by rw [hpart]; rfl, fun k hk he => ?_, fun k hk => ?_, hw⟩
  · rw [hsupers, if_pos ⟨he, hk⟩]
    exact allocated_within he (hplace k hk) _
  · rw [hsupers, if_neg]
    rintro ⟨he, hi⟩
    rcases hk with hk | hk
    · rw [hi] at hk
      cases hk
    · exact hk he

/-- Where comb p is the partition's, a table of one region is judged by its entry, and a commit that passes advances one
cursor of super p by its share (R319–R321). -/
theorem regionCommit_sole (hin : inPart s p p = true) (hp : s.parts[p].psize = 0) (hg : (s.parts[p].rgn[1]).kind = 0) :
    Does (.regionCommit p) s fun t =>
      let g := s.parts[p].rgn[0]
      t.parts[p].locked = decide (soleErr p g = 0) ∧ t.parts[p].mapErr = BitVec.ofNat 4 (soleErr p g) ∧ (soleErr p g = 0 →
        t.supers[p].dataCur = (if 3 ≤ g.kind.toNat then 0 else g.share.toNat * 67108864) ∧
        t.supers[p].sealCur = 0xE50000000 + (if 3 ≤ g.kind.toNat then g.share.toNat * 67108864 else 0)) := by
  obtain ⟨t, ht, hsupers, hpart, -⟩ := regionCommit_supers hs hlive hl
  rw [commitTable_sole hp hg] at hpart
  refine ⟨t, ht, by rw [hpart]; rfl, by rw [hpart]; rfl, fun he => ?_⟩
  have hc : commitTable s p = 0 := (commitTable_sole hp hg).trans he
  rw [hsupers p, if_pos ⟨hc, hin⟩]
  exact allocated_sole hp hg he _

end Placed

/-! ### REGION_INIT_DONE (R320, R359) -/

theorem tabGet_tabClear {α : Type} {d : α} {t : Tab α} {lo hi x : Nat} (hlo : lo ≤ x) (hhi : x < hi) :
    tabGet d (tabClear t lo hi) x = d := by
  have h := tabGet_append (d := d) (t := tabClear t lo hi) (u := []) (k := x) fun e he => by
    have hout := (List.mem_filter.1 he).2
    simp only [Bool.or_eq_true, decide_eq_true_eq] at hout
    omega
  rwa [List.append_nil] at h

theorem tabGet_tabClear_other {α : Type} {d : α} {t : Tab α} {lo hi x : Nat} (h : x < lo ∨ hi ≤ x) :
    tabGet d (tabClear t lo hi) x = tabGet d t x :=
  tabGet_filter (fun k => decide (k < lo) || decide (hi ≤ k)) (by simpa using h)

/-- The ranges of a super become zero sectors, one after another. -/
def zeroRanges (l : List (Nat × Nat)) (u : SuperState) : SuperState := l.foldl (fun u r => zeroSectors r.1 r.2 u) u

/-- A counter that is 0 stays 0 as further ranges become zero sectors. -/
theorem zeroRanges_kept (l : List (Nat × Nat)) {u : SuperState} {x : Nat} (h : tabGet 0 u.ctr x = 0) :
    tabGet 0 (zeroRanges l u).ctr x = 0 := by
  induction l generalizing u with
  | nil => exact h
  | cons r l ih =>
    refine ih ?_
    by_cases hx : r.1 / 512 ≤ x ∧ x < r.2 / 512
    · exact tabGet_tabClear hx.1 hx.2
    · exact (tabGet_tabClear_other (by omega)).trans h

/-- Every sector of every range counts from 0 again. -/
theorem zeroRanges_zero {l : List (Nat × Nat)} {r : Nat × Nat} (hr : r ∈ l) (u : SuperState) {x : Nat} (hlo : r.1 / 512 ≤ x)
    (hhi : x < r.2 / 512) : tabGet 0 (zeroRanges l u).ctr x = 0 := by
  induction l generalizing u with
  | nil => cases hr
  | cons a l ih =>
    rcases List.mem_cons.1 hr with rfl | h
    · exact zeroRanges_kept l (tabGet_tabClear hlo hhi)
    · exact ih h _

/-- The ranges of one super zeroed in turn are zeroed at once. -/
theorem forEach_zeroSectors (k : Super) (l : List (Nat × Nat)) (s : State) :
    forEach l (fun r s => s.modSuper k (zeroSectors r.1 r.2)) s = s.modSuper k (zeroRanges l) := by
  induction l generalizing s with
  | nil => exact (modSuper_fixed rfl).symm
  | cons r l ih =>
    refine (ih _).trans ?_
    simp only [State.modSuper, upd, Fin.getElem_fin, Vector.getElem_set_self, Vector.set_set]
    rfl

section Init

variable {s : State} {p : Part}

/-- Regions are initialised once, behind a commit (R320). -/
theorem regionInitDone_ignored (h : s.parts[p].locked = false ∨ s.parts[p].ready = true) :
    exec (.regionInitDone p) s = .next s := by
  refine congrArg Host.Outcome.next ?_
  unfold effInitDone
  rcases h with h | h
  · simp only [h, Bool.not_false, true_or, if_true]
  · simp only [h, or_true, if_true]

/-- Every sector of every region becomes a zero sector, no other super changes, and READY is set (R320, R359). -/
theorem regionInitDone_zeroes (hl : s.parts[p].locked = true) (hr : s.parts[p].ready = false) :
    Does (.regionInitDone p) s fun t => t.parts[p].ready = true ∧
      (∀ k : Super, t.supers[k] = if inPart s p k = true then zeroRanges (rangesOn s p k) s.supers[k] else s.supers[k]) ∧
      Within [.superMem, .superTree, .regions] s t := by
  refine does_of_exec (t := effInitDone p s) rfl ⟨?_, fun k => ?_, effInitDone_without (by decide)⟩
  all_goals simp only [effInitDone, hl, hr, Bool.not_true, Bool.false_eq_true, or_self, if_false]
  · rw [modPart_at]
  · have hranges : ∀ (k : Super) (t : State), t.parts = s.parts → rangesOn t p k = rangesOn s p k := fun k t ht => by
      simp only [rangesOn, regionMap, Machine.sizeOf, ht]
      rfl
    have h := forEach_supers (q := s.parts) (g := fun k => zeroRanges (rangesOn s p k))
      (f := fun k s => forEach (rangesOn s p k) (fun r s => s.modSuper k (zeroSectors r.1 r.2)) s)
      (fun k t ht => by rw [hranges k t ht]; exact forEach_zeroSectors ..) (combsOf_nodup s p) rfl k
    simp only [mem_combsOf] at h
    exact h

/-- The counters of the initialised regions (R359). -/
theorem regionInitDone_counters (hl : s.parts[p].locked = true) (hr : s.parts[p].ready = false) :
    Does (.regionInitDone p) s fun t => t.parts[p].ready = true ∧
      (∀ (k : Super) (r : Nat × Nat), inPart s p k = true → r ∈ rangesOn s p k →
        ∀ x, r.1 / 512 ≤ x → x < r.2 / 512 → tabGet 0 t.supers[k].ctr x = 0) ∧
      (∀ k : Super, inPart s p k = false → t.supers[k] = s.supers[k]) ∧ Within [.superMem, .superTree, .regions] s t := by
  obtain ⟨t, ht, hready, hsupers, hw⟩ := regionInitDone_zeroes hl hr
  refine ⟨t, ht, hready, fun k r hk hm x hlo hhi => ?_, fun k hk => ?_, hw⟩
  · rw [hsupers, if_pos hk]
    exact zeroRanges_zero hm _ hlo hhi
  · rw [hsupers, if_neg (by simp [hk])]

end Init

/-! ### TREE_FORMAT_DONE and DRAM_REFRESH (R323, R349) -/

/-- The requests that wait, counted by requester. -/
theorem waiting_sum (v : Vector (List MemReq) 6) : (v.toList.map List.length).sum = ∑ i : Fin 6, v[i].length := by
  have h : v.toList = List.ofFn fun i : Fin 6 => v[i] := by
    rw [← Vector.toList_ofFn]
    simp
  rw [h, List.map_ofFn, List.sum_ofFn]
  rfl

/-- Where nothing waits at a super, nothing is resumed. -/
theorem resumeSuper_idle {k : Super} {s : State} (h : s.supers[k].waiting = .replicate 6 []) : resumeSuper k s = s := by
  unfold resumeSuper
  rw [h]
  rfl

/-- One waiting request is served in its turn (R29). -/
theorem resumeSuper_one {k : Super} {s : State} {i : Fin 6} {r : MemReq} (hn : nextPort s.supers[k] = some (i, r, []))
    (ho : ∀ j : Fin 6, j ≠ i → s.supers[k].waiting[j] = []) : resumeSuper k s = serveReq k r (s.modSuper k fun u =>
      { u with waiting := upd u.waiting i fun _ => [], turn := i + 1 }) := by
  obtain ⟨n, -, -, hi, -⟩ := nextPort_first hn
  have hsum : (s.supers[k].waiting.toList.map List.length).sum = 1 := by
    rw [waiting_sum, Finset.sum_eq_single i (fun j _ hj => by rw [ho j hj]; rfl) (by simp), hi]
    rfl
  unfold resumeSuper
  rw [hsum, drainSuper, hn]
  rfl

/-- A super whose tree was formatted: READY, and out of INIT (R349). -/
def formatted (u : SuperState) : SuperState := { u with tree := 1, state := if u.state = 0 then 1 else u.state }

section Format

variable {s : State} {k : Super} (hp : s.supers[k].powered = true)
include hp

theorem exec_treeFormatDone (ht : s.supers[k].tree = 0) :
    exec (.treeFormatDone k) s = .next (resumeSuper k (s.modSuper k formatted)) :=
  congrArg Host.Outcome.next (if_pos ⟨hp, ht⟩)

/-- A formatted tree is READY and its super ACTIVE; with nothing waiting that is all (R349). -/
theorem treeFormatDone_idle (ht : s.supers[k].tree = 0) (hw : s.supers[k].waiting = .replicate 6 []) :
    exec (.treeFormatDone k) s = .next (s.modSuper k formatted) := by
  rw [exec_treeFormatDone hp ht, resumeSuper_idle (by rw [modSuper_at]; exact hw)]

/-- One request that waited is served (R29, R349). -/
theorem treeFormatDone_serves (ht : s.supers[k].tree = 0) {i : Fin 6} {r : MemReq}
    (hn : nextPort (s.modSuper k formatted).supers[k] = some (i, r, []))
    (ho : ∀ j : Fin 6, j ≠ i → s.supers[k].waiting[j] = []) :
    exec (.treeFormatDone k) s = .next (serveReq k r ((s.modSuper k formatted).modSuper k fun u =>
      { u with waiting := upd u.waiting i fun _ => [], turn := i + 1 })) := by
  rw [exec_treeFormatDone hp ht, resumeSuper_one hn fun j hj => by rw [modSuper_at]; exact ho j hj]

omit hp in
/-- Without power, or behind a formatting, no tree is formatted. -/
theorem treeFormatDone_ignored (h : s.supers[k].powered = false ∨ s.supers[k].tree ≠ 0) :
    exec (.treeFormatDone k) s = .next s := by
  refine congrArg Host.Outcome.next (if_neg ?_)
  rintro ⟨hon, ht⟩
  rcases h with h | h
  · rw [hon] at h
    cases h
  · exact h ht

/-- Rows are refreshed out of self-refresh (R323). -/
theorem dramRefresh_counts (hn : s.supers[k].state ≠ 2) :
    exec (.dramRefresh k) s = .next (s.modSuper k fun u => { u with refreshes := u.refreshes + 1 }) :=
  congrArg Host.Outcome.next (if_pos ⟨hp, hn⟩)

omit hp in
theorem dramRefresh_asleep (h : s.supers[k].powered = false ∨ s.supers[k].state = 2) : exec (.dramRefresh k) s = .next s := by
  refine congrArg Host.Outcome.next (if_neg ?_)
  rintro ⟨hon, hn⟩
  rcases h with h | h
  · rw [hon] at h
    cases h
  · exact hn h

end Format

end Sys2Proof.RegionProofs
end

section
/-! Supers and Propolis: lines beyond correction, patrol scrub, row repair and links, and the statement (R310–R313, R326–R333,
R363–R366). -/

namespace Sys2Proof.SuperProofs

open Sys2Proof Sys2Proof.Machine Sys2Proof.MemoryProofs Sys2Proof.JobFaultProofs Sys2Proof.RingProofs Sys2Proof.RegionProofs

/-! ### Lines that stay uncorrectable (R313, R326, R355) -/

/-- A super with line l in error beyond correction: UE, the error log with its SOURCE, and poison (R313). -/
def lostLine (k : Super) (l : Nat) (src : BitVec 3) (u : SuperState) : SuperState :=
  { u with ue := hit 16 u.ue, errOff := BitVec.ofNat 36 (128 * l), errSrc := src, errSealed := sealedAt k (128 * l)
           errSet := true, poison := if u.poison.contains l then u.poison else l :: u.poison }

theorem lostLine_poison (k : Super) (l : Nat) (src : BitVec 3) (u : SuperState) :
    (lostLine k l src u).poison.contains l = true := by
  show (if u.poison.contains l then u.poison else l :: u.poison).contains l = true
  split
  · assumption
  · simp

theorem lostLine_kept {k : Super} {l x : Nat} {src : BitVec 3} {u : SuperState} (h : u.poison.contains x = true) :
    (lostLine k l src u).poison.contains x = true := by
  show (if u.poison.contains l then u.poison else l :: u.poison).contains x = true
  split
  · exact h
  · rw [List.contains_cons, h, Bool.or_true]

/-- Beside the bits that the line settles and the repairs it calls for, an uncorrectable line is noted as `lostLine` says. -/
theorem lineUncorrectable_super (k : Super) (l : Nat) (src : BitVec 3) (s : State) :
    calm (undram (lineUncorrectable k l src s).supers[k]) = calm (undram (lostLine k l src s.supers[k])) := by
  unfold lineUncorrectable
  generalize ht : s.modSuper k _ = t
  have hk : t.supers[k] = { s.supers[k] with
      ue := hit 16 s.supers[k].ue, errOff := BitVec.ofNat 36 (128 * l), errSrc := src, errSealed := sealedAt k (128 * l)
      errSet := true } := by
    rw [← ht, modSuper_at]
  have hpt : t.supers[k].poison = s.supers[k].poison := by rw [hk]
  cases hp : s.supers[k].poison.contains l
  · rw [poisonLine_super (by rw [hpt, hp]), hk]
    simp only [lostLine, hp, Bool.false_eq_true, if_false]
    rfl
  · have hsame : poisonLine k l t = t := by simp only [poisonLine, hpt, hp, if_true]
    rw [hsame, hk]
    simp only [lostLine, hp, if_true]

/-- The registers that the note of an uncorrectable line leaves (R313). -/
theorem lostLine_regs {k : Super} {l : Nat} {src : BitVec 3} {u w : SuperState}
    (h : calm (undram w) = calm (undram (lostLine k l src u))) : w.ue = hit 16 u.ue ∧ w.errOff = BitVec.ofNat 36 (128 * l) ∧
      w.errSrc = src ∧ w.scrubLog = u.scrubLog ∧ w.ctr = u.ctr ∧ w.poison = (lostLine k l src u).poison :=
  ⟨(congrArg SuperState.ue h :), (congrArg SuperState.errOff h :), (congrArg SuperState.errSrc h :),
    (congrArg SuperState.scrubLog h :), (congrArg SuperState.ctr h :), (congrArg SuperState.poison h :)⟩

theorem lineUncorrectable_poison (k : Super) (l : Nat) (src : BitVec 3) (s : State) :
    (lineUncorrectable k l src s).supers[k].poison = (lostLine k l src s.supers[k]).poison := by
  obtain ⟨-, -, -, -, -, hpoison⟩ := lostLine_regs (lineUncorrectable_super k l src s)
  exact hpoison

/-! ### PATROL_SCRUB_READ (R310–R313, R326) -/

/-- Flipped bits change no register of a super. -/
theorem applyFlips_within (k : Super) (flips : Flips) (s : State) : Within [.superMem] s (applyFlips k flips s) :=
  applyFlips_without (by decide)

/-- Nothing is read of a super that is not powered or in self-refresh (R326, R327). -/
theorem effScrub_asleep {v : State} {k : Super} (h : v.supers[k].powered = false ∨ v.supers[k].state = 2) :
    effScrub k v = v := by
  unfold effScrub
  dsimp only
  rw [if_pos (by simpa only [Bool.not_eq_true', Bool.not_eq_eq_eq_not, Bool.not_true] using h)]

theorem patrolScrubRead_asleep {s : State} {k : Super} (h : s.supers[k].powered = false ∨ s.supers[k].state = 2)
    (flips : Flips) : exec (.patrolScrubRead k flips) s = .next (applyFlips k flips s) := by
  have hw := applyFlips_within k flips s
  refine congrArg Host.Outcome.next (effScrub_asleep ?_)
  rw [hw.super_powered k (by decide), hw.super_state k (by decide)]
  exact h

/-- What reading a line that decodes leaves behind: a correction counted, then a die marked (R310, R312). -/
theorem noteDecode_some {s : State} {k : Super} {l : Nat} {d : Decoded} (hd : decodeLine s.supers[k] k l = some d) :
    ∃ t, Quiet k s t ∧ (d.corrected = true → t.supers[k].ce = hit 32 s.supers[k].ce) ∧
      (d.mark = none → noteDecode k l s = t) ∧ ∀ m, d.mark = some m → noteDecode k l s = markDie k m t := by
  have hnote : (d.mark = none → noteDecode k l s = if d.corrected then lineCorrected k l s else s) ∧
      ∀ m, d.mark = some m → noteDecode k l s = markDie k m (if d.corrected then lineCorrected k l s else s) := by
    unfold noteDecode
    rw [hd]
    dsimp only
    exact ⟨fun h => by rw [h], fun m h => by rw [h]⟩
  refine ⟨_, ?_, fun hc => ?_, hnote⟩
  · split
    · exact quiet_lineCorrected k l s
    · exact .refl k s
  · rw [if_pos hc]
    exact lineCorrected_ce k l s

theorem recordRepair_super (d : Die) (type loc : Nat) (s : State) (k : Super) :
    (recordRepair d type loc s).supers[k] = s.supers[k] := by
  unfold recordRepair
  split
  · rfl
  · have h : ∀ t xs, Within [.out, .host] t (hostPutAll 0 xs t) := fun t xs => hostPutAll_without (by decide)
    exact (h _ _).super k

/-- Nothing of a super of no partition has an owner. -/
theorem ownersOver_none {s : State} {k : Super} (h : partOf s k = none) (lo hi : Nat) : ownersOver s k lo hi = [] := by
  unfold ownersOver
  rw [h]

/-- A die marked on a super of no partition that holds no queen region (R312). -/
theorem markDie_alone {s : State} {k : Super} {m : Fin 16} (hp : partOf s k = none) (hr : regionDie k = none) :
    (markDie k m s).supers[k] = { s.supers[k] with dieMark := true, die := BitVec.ofNat 4 m.val } := by
  unfold markDie
  dsimp only
  generalize ht : s.modSuper k _ = t
  have hmark : Within [.superRegs] s t := by
    rw [← ht]
    exact modSuper_without _ _ _ _ fun _ => rfl
  have hw : Within [.superRegs, .out, .host, .fuses, .queen, .mod, .partRegs] s
      (ewSuper k 1 (recordRepair (dieOf k) 2 (k.val + 8 * m.val) t)) :=
    (hmark.mono (by decide)).trans <| Within.trans
      (t := recordRepair (dieOf k) 2 (k.val + 8 * m.val) t) (recordRepair_without (by decide)) (ewSuper_without (by decide))
  rw [hr, ownersOver_none (by rw [within_partOf hw (by decide) (by decide), hp])]
  refine (ewSuper_super ..).trans ((recordRepair_super ..).trans ?_)
  rw [← ht, modSuper_at]

/-- What each step of a repetition establishes where I holds, and none undoes, holds at the end. -/
theorem forEach_establishes_under {α : Type} {I : State → Prop} {P : α → State → Prop} {f : α → State → State}
    (hi : ∀ a s, I s → I (f a s)) (hs : ∀ a s, I s → P a (f a s)) (hk : ∀ a b s, I s → P a s → P a (f b s)) {l : List α}
    {a : α} (ha : a ∈ l) {s : State} (h : I s) : P a (forEach l f s) := by
  have keep : ∀ (l : List α) (s : State), I s → P a s → P a (forEach l f s) := by
    intro l
    induction l with
    | nil => exact fun s _ hp => hp
    | cons b r ih => exact fun s h hp => ih _ (hi b s h) (hk a b s h hp)
  induction l generalizing s with
  | nil => cases ha
  | cons b r ih =>
    rcases List.mem_cons.1 ha with rfl | hr
    · exact keep r _ (hi a s h) (hs a s h)
    · exact ih hr (hi b s h)

section Nodes

variable {k : Super} (hr : regionDie k = none)
include hr

/-- A failing node joins the poisoned ones (R356). -/
theorem nodeNote_badNodes (n : Nat) (s : State) : (nodeNote k n s).supers[k].badNodes =
    if s.supers[k].badNodes.contains n then s.supers[k].badNodes else n :: s.supers[k].badNodes := by
  unfold nodeNote
  dsimp only
  rw [hr, modSuper_at, modSuper_at]
  rfl

/-- A node that fails on a super of no partition stops nothing. -/
theorem nodeFails_alone {s : State} (hp : partOf s k = none) (n off : Nat) : nodeFails k n off s = nodeNote k n s := by
  obtain ⟨f, hf, -⟩ := nodeNote_eq (n := n) (s := s) hr
  have hpart : partOf (nodeNote k n s) k = none := by
    rw [hf]
    exact hp
  simp only [nodeFails, stopUnder, ownersOver_none hpart]
  rfl

theorem nodesFail_alone {l : List Nat} {n : Nat} (hn : n ∈ l) {s : State} (hp : partOf s k = none) :
    (forEach l (fun n s => nodeFails k n (nodeBase n) s) s).supers[k].badNodes.contains n = true := by
  refine forEach_establishes_under (I := fun s => partOf s k = none) (P := fun n s => s.supers[k].badNodes.contains n = true)
    (fun a s h => ?_) (fun a s h => ?_) (fun a b s h hb => ?_) hn hp
  all_goals rw [nodeFails_alone hr h]
  · obtain ⟨f, hf, -⟩ := nodeNote_eq (n := a) (s := s) hr
    rw [hf]
    exact h
  all_goals rw [nodeNote_badNodes hr]; split
  · assumption
  · simp
  · exact hb
  · rw [List.contains_cons, hb, Bool.or_true]

end Nodes

section Scrub

variable {v : State} {k : Super} (hp : v.supers[k].powered = true) (hn : v.supers[k].state ≠ 2)

/-- The scrubber's position behind the line that it reads. -/
def scrubOn (k : Super) (v : State) : State :=
  v.modSuper k fun u => { u with scrubPos := (128 * (v.supers[k].scrubPos / 128) + 128) % 2 ^ 36 }

/-- The scrub log with what a read of line l found. -/
def scrubLogged (k : Super) (l : Nat) (lost : Bool) (v : State) : State :=
  v.modSuper k fun u => { u with scrubLog := u.scrubLog ++ [(l, lost)] }

theorem scrubOn_super : (scrubOn k v).supers[k] =
    { v.supers[k] with scrubPos := (128 * (v.supers[k].scrubPos / 128) + 128) % 2 ^ 36 } := modSuper_at ..

include hp hn

/-- A line without error is passed by. -/
theorem effScrub_clean {d : Decoded} (hd : decodeLine v.supers[k] k (v.supers[k].scrubPos / 128) = some d)
    (hc : d.corrected = false) (hm : d.mark = none) : effScrub k v = scrubOn k v := by
  unfold effScrub
  dsimp only
  rw [hd]
  simp only [hp, hn, hc, hm, Bool.not_true, Bool.false_eq_true, or_self, if_false, Option.isSome_none]
  rfl

/-- A line corrected, or whose correction marks a die, is noted and written back (R310, R312, R326). -/
theorem effScrub_notes {d : Decoded} (hd : decodeLine v.supers[k] k (v.supers[k].scrubPos / 128) = some d)
    (h : d.corrected = true ∨ d.mark.isSome = true) : effScrub k v =
      (noteDecode k (v.supers[k].scrubPos / 128) (scrubOn k v)).modSuper k fun u => { u with
        dramErr := tabSet 0 u.dramErr (v.supers[k].scrubPos / 128) d.left
        scrubLog := u.scrubLog ++ [(v.supers[k].scrubPos / 128, false)] } := by
  unfold effScrub
  dsimp only
  rw [hd]
  simp only [hp, hn, h, Bool.not_true, Bool.false_eq_true, or_self, if_false, if_true]
  rfl

/-- A line beyond correction is logged and lost (R313, R326). -/
theorem effScrub_lost (hd : decodeLine v.supers[k] k (v.supers[k].scrubPos / 128) = none) : effScrub k v =
    scrubLost k (v.supers[k].scrubPos / 128) (scrubLogged k (v.supers[k].scrubPos / 128) true (scrubOn k v)) := by
  unfold effScrub
  dsimp only
  rw [hd]
  simp only [hp, hn, Bool.not_true, Bool.false_eq_true, or_self, if_false]
  rfl

/-- A corrected line counts CE, is written back as it corrects, and is logged (R310, R326). -/
theorem effScrub_corrected {d : Decoded} (hd : decodeLine v.supers[k] k (v.supers[k].scrubPos / 128) = some d)
    (hc : d.corrected = true) (hm : d.mark = none) :
    let l := v.supers[k].scrubPos / 128
    let u := v.supers[k]
    let w := (effScrub k v).supers[k]
    w.ce = hit 32 u.ce ∧ tabGet 0 w.dramErr l = d.left ∧ w.scrubLog = u.scrubLog ++ [(l, false)] ∧
      w.scrubPos = (128 * l + 128) % 2 ^ 36 ∧ w.ctr = u.ctr ∧ w.mem = u.mem := by
  obtain ⟨t, hq, hce, hnote, -⟩ := noteDecode_some (s := scrubOn k v) (k := k) (by rw [scrubOn_super]; exact hd)
  have hce := hce hc
  have hsuper := hq.super
  rw [scrubOn_super] at hce hsuper
  dsimp only
  rw [effScrub_notes hp hn hd (.inl hc), hnote hm, modSuper_at]
  refine ⟨hce, tabGet_tabSet_same, ?_, (congrArg SuperState.scrubPos hsuper :), (congrArg SuperState.ctr hsuper :),
    (congrArg SuperState.mem hsuper :)⟩
  exact congrArg (· ++ [(v.supers[k].scrubPos / 128, false)]) (congrArg SuperState.scrubLog hsuper :)

/-- A read that marks a die of a super of no partition, without a queen region (R312). -/
theorem effScrub_marks {d : Decoded} {m : Fin 16} (hd : decodeLine v.supers[k] k (v.supers[k].scrubPos / 128) = some d)
    (hm : d.mark = some m) (hpart : partOf v k = none) (hr : regionDie k = none) :
    let w := (effScrub k v).supers[k]
    w.dieMark = true ∧ w.die = BitVec.ofNat 4 m.val ∧ tabGet 0 w.dramErr (v.supers[k].scrubPos / 128) = d.left := by
  obtain ⟨t, hq, -, -, hnote⟩ := noteDecode_some (s := scrubOn k v) (k := k) (by rw [scrubOn_super]; exact hd)
  have hpt : partOf t k = none := (within_partOf hq.within (by decide) (by decide) k).trans hpart
  dsimp only
  rw [effScrub_notes hp hn hd (.inr (by rw [hm]; rfl)), hnote m hm, modSuper_at]
  dsimp only
  rw [markDie_alone hpt hr]
  exact ⟨rfl, rfl, tabGet_tabSet_same⟩

/-! A line beyond correction, by the space that it lies in. -/

variable (hd : decodeLine v.supers[k] k (v.supers[k].scrubPos / 128) = none)
include hd

/-- A lost line of data is poisoned and logged as patrol scrub's (R313, R326). -/
theorem effScrub_lostData (hs : spaceOf (128 * (v.supers[k].scrubPos / 128)) = .tagData ∨
      spaceOf (128 * (v.supers[k].scrubPos / 128)) = .sealed) :
    let l := v.supers[k].scrubPos / 128
    let u := v.supers[k]
    let w := (effScrub k v).supers[k]
    w.ue = hit 16 u.ue ∧ w.poison.contains l = true ∧ w.errOff = BitVec.ofNat 36 (128 * l) ∧ w.errSrc = 1 ∧
      w.scrubLog = u.scrubLog ++ [(l, true)] ∧ w.ctr = u.ctr := by
  rw [effScrub_lost hp hn hd]
  generalize v.supers[k].scrubPos / 128 = l at hs
  have hlost : ∀ s, scrubLost k l s = lineUncorrectable k l 1 s := fun s => by
    unfold scrubLost
    rcases hs with h | h <;> rw [h]
  dsimp only
  rw [hlost]
  have hlog : (scrubLogged k l true (scrubOn k v)).supers[k].ue = v.supers[k].ue ∧
      (scrubLogged k l true (scrubOn k v)).supers[k].scrubLog = v.supers[k].scrubLog ++ [(l, true)] ∧
      (scrubLogged k l true (scrubOn k v)).supers[k].ctr = v.supers[k].ctr := by
    rw [scrubLogged, modSuper_at, scrubOn_super]
    exact ⟨rfl, rfl, rfl⟩
  generalize scrubLogged k l true (scrubOn k v) = w at hlog
  obtain ⟨hue, hscrub, hctr⟩ := hlog
  obtain ⟨hue', hoff, hsrc, hscrub', hctr', hpoison⟩ := lostLine_regs (lineUncorrectable_super k l 1 w)
  rw [hue', hscrub', hctr', hpoison, hue, hscrub, hctr]
  exact ⟨rfl, lostLine_poison .., hoff, hsrc, rfl, rfl⟩

/-- The data whose tags a lost line held is poisoned (R313). -/
theorem effScrub_lostTags (hs : spaceOf (128 * (v.supers[k].scrubPos / 128)) = .tags) :
    ∀ x ∈ taggedLines v.supers[k] (v.supers[k].scrubPos / 128), (effScrub k v).supers[k].poison.contains x = true := by
  intro x hx
  rw [effScrub_lost hp hn hd]
  have hsame : taggedLines (scrubLogged k (v.supers[k].scrubPos / 128) true (scrubOn k v)).supers[k]
      (v.supers[k].scrubPos / 128) = taggedLines v.supers[k] (v.supers[k].scrubPos / 128) := by
    rw [scrubLogged, modSuper_at, scrubOn_super]
    rfl
  unfold scrubLost
  rw [hs]
  dsimp only
  rw [hsame]
  exact forEach_establishes (P := fun a t => t.supers[k].poison.contains a = true)
    (fun a t => by rw [lineUncorrectable_poison]; exact lostLine_poison ..)
    (fun a b t h => by rw [lineUncorrectable_poison]; exact lostLine_kept h) hx _

/-- The nodes in a lost line of the tree area of a super of no partition are poisoned (R356). -/
theorem effScrub_lostTree (hs : spaceOf (128 * (v.supers[k].scrubPos / 128)) = .tree) (hpart : partOf v k = none)
    (hr : regionDie k = none) :
    ∀ n ∈ nodesIn (v.supers[k].scrubPos / 128), (effScrub k v).supers[k].badNodes.contains n = true := by
  intro n hx
  rw [effScrub_lost hp hn hd]
  unfold scrubLost
  rw [hs]
  exact nodesFail_alone hr hx hpart

/-- A lost line of the controller area is logged (R326). -/
theorem effScrub_lostControl (hs : spaceOf (128 * (v.supers[k].scrubPos / 128)) = .control) :
    let u := v.supers[k]
    let w := (effScrub k v).supers[k]
    w.scrubLog = u.scrubLog ++ [(v.supers[k].scrubPos / 128, true)] ∧ w.ue = u.ue ∧ w.poison = u.poison := by
  rw [effScrub_lost hp hn hd]
  unfold scrubLost
  rw [hs]
  dsimp only
  rw [modSuper_at, scrubLogged, modSuper_at, scrubOn_super]
  exact ⟨rfl, rfl, rfl⟩

end Scrub

/-! ### LINK_FLIT_CRC_FAIL and LINK_REPLAY_LIMIT (R333) -/

/-- The recovery that begins where none runs is its partition's only one. -/
theorem beginRecovery_recov {p : Part} {f : FaultInfo} {s : State} (h : s.parts[p].recov = []) :
    ∃ t, (beginRecovery p f s).parts[p].recov = [newRecovery (resetCode f.supers) 0 f t] := by
  unfold beginRecovery
  dsimp only
  generalize (if f.received = true then evAbortReceived else evFault) = ev
  have he : Within [.out, .host, .evq, .mod] s (postEvent p ev f.status f.comb f.evDetail s) := postEvent_without (by decide)
  generalize postEvent p ev f.status f.comb f.evDetail s = t at he
  obtain ⟨-, hrecov, -⟩ := stopWhole_halts p f.status f.detail f.detail2 (resetCode f.supers) t
  rw [he.part_recov p (by decide), h] at hrecov
  exact ⟨t, by rw [takeOver_none hrecov, modPart_at]⟩

/-- A link fault where no recovery runs stops the partition, with its unit code in the recovery (R333). -/
theorem stopInternal_stops {p : Part} {k : Comb} {unit : Word} {sup : List Super} {s : State} (h : s.parts[p].recov = []) :
    Stopped p stInternal s (stopInternal p k unit sup s) ∧
      ∃ r, (stopInternal p k unit sup s).parts[p].recov = [r] ∧ r.unit1 = unit := by
  refine ⟨stopPartition_stops h, ?_⟩
  have ha : Within [.router] s (raiseAlarm p k 0x07 s) := raiseAlarm_without (by decide)
  have hr : (raiseAlarm p k 0x07 s).parts[p].recov = [] := (ha.part_recov p (by decide)).trans h
  simp only [stopInternal, stopPartition, stopPartitionAs, partitionFault, tearingDown, hr, List.any_nil, List.find?_nil,
    Bool.false_eq_true, if_false]
  obtain ⟨t, ht⟩ := beginRecovery_recov (f := {
    status := stInternal, detail := unit, detail2 := 0, alarm := 0x07, unit := unit, comb := k
    combs := combsOf (raiseAlarm p k 0x07 s) p, supers := sup, origin := coordWord (raiseAlarm p k 0x07 s) }) hr
  exact ⟨_, ht, rfl⟩

/-- A link without power, or of a super under reset, has no flit to fail. -/
theorem link_down {s : State} {k : Super} (h : s.supers[k].powered = false ∨ s.supers[k].resetting = true) :
    exec (.linkFlitCrcFail k) s = .next s ∧ exec (.linkReplayLimit k) s = .next s := by
  have hc : (!s.supers[k].powered) = true ∨ s.supers[k].resetting = true := by simpa only [Bool.not_eq_true'] using h
  exact ⟨congrArg Host.Outcome.next (if_pos hc), congrArg Host.Outcome.next (if_pos hc)⟩

section Link

variable {s : State} {k : Super} (hp : s.supers[k].powered = true) (hn : s.supers[k].resetting = false)
include hp hn

theorem link_up : ¬ ((!s.supers[k].powered) = true ∨ s.supers[k].resetting = true) := by
  rw [hp, hn]
  decide

/-- A flit that fails its CRC is replayed and counted (R333). -/
theorem linkFlitCrcFail_counts : Does (.linkFlitCrcFail k) s fun t =>
    t.supers[k].retry = hit 16 s.supers[k].retry ∧ Within [.superRegs, .partRegs] s t := by
  refine does_of_exec (congrArg Host.Outcome.next (if_neg (link_up hp hn))) ?_
  dsimp only
  generalize ht : s.modSuper k _ = t
  have hretry : t.supers[k].retry = hit 16 s.supers[k].retry := by rw [← ht, modSuper_at]
  have hw : Within [.superRegs, .partRegs] s t := by
    rw [← ht]
    exact modSuper_without _ _ _ _ fun _ => rfl
  split
  · exact ⟨by rw [ewSuper_super, hretry], hw.trans (ewSuper_without (by decide))⟩
  · exact ⟨hretry, hw⟩

/-- A super whose link has failed (R333). -/
def linkFailed (u : SuperState) : SuperState := { u with state := 3, linkDead := true }

/-- A link fault: the super FAILED, then the stop of its comb's partition, if it has one (R333). -/
theorem exec_linkReplayLimit : exec (.linkReplayLimit k) s = .next ((partOf s k).elim (s.modSuper k linkFailed) fun p =>
    stopInternal p k (w32 (0x1400 + k.val)) [k] (s.modSuper k linkFailed)) := by
  have hpart : partOf (s.modSuper k linkFailed) k = partOf s k := rfl
  refine congrArg Host.Outcome.next ((if_neg (link_up hp hn)).trans ?_)
  dsimp only
  rw [← hpart]
  generalize ht : s.modSuper k linkFailed = t
  have ht' : (s.modSuper k fun u => { u with state := 3, linkDead := true }) = t := ht
  rw [ht']
  cases partOf t k <;> rfl

/-- A link fault stops the partition of its comb (R333). -/
theorem linkReplayLimit_stops {p : Part} (hpart : partOf s k = some p) (hr : s.parts[p].recov = []) :
    Does (.linkReplayLimit k) s fun t =>
      Stopped p stInternal s t ∧ ∃ r, t.parts[p].recov = [r] ∧ r.unit1 = w32 (0x1400 + k.val) := by
  obtain ⟨hstop, hunit⟩ := stopInternal_stops (p := p) (k := k) (unit := w32 (0x1400 + k.val)) (sup := [k])
    (s := s.modSuper k linkFailed) hr
  refine does_of_exec (exec_linkReplayLimit hp hn) ?_
  have hw : Within [.superRegs] s (s.modSuper k linkFailed) := modSuper_without _ _ _ _ fun _ => rfl
  rw [hpart, Option.elim_some]
  exact ⟨stopped_of_within hw (by decide) (by decide) hstop, hunit⟩

/-- The link of a super of no partition reads FAILED, and nothing else changes (R333). -/
theorem linkReplayLimit_alone (hpart : partOf s k = none) :
    Does (.linkReplayLimit k) s fun t => t.supers[k].state = 3 ∧ Within [.superRegs] s t := by
  refine does_of_exec (exec_linkReplayLimit hp hn) ?_
  rw [hpart]
  refine ⟨?_, modSuper_without _ _ _ _ fun _ => rfl⟩
  show (s.modSuper k linkFailed).supers[k].state = 3
  rw [modSuper_at]
  rfl

end Link

/-! ### ROW_REPAIR_DONE (R328, R329, R565) -/

theorem modDie_at (s : State) (d : Die) (f : DieState → DieState) : (s.modDie d f).dies[d] = f s.dies[d] := modDie_same s d f

/-- Correction reads the marked die and the flipped bits of its line. -/
theorem decodeLine_congr {u w : SuperState} {k : Super} {l : Nat} (hm : u.dieMark = w.dieMark) (hd : u.die = w.die)
    (he : tabGet 0 u.dramErr l = tabGet 0 w.dramErr l) : decodeLine u k l = decodeLine w k l := by
  unfold decodeLine
  rw [hm, hd, he]

theorem copyLine_some {s : State} {k : Super} {l : Nat} {d : Decoded} (h : decodeLine s.supers[k] k l = some d) :
    copyLine k l s = s.modSuper k fun u => { u with dramErr := tabSet 0 u.dramErr l d.left } := by
  unfold copyLine
  rw [h]

theorem copyLine_none {s : State} {k : Super} {l : Nat} (h : decodeLine s.supers[k] k l = none) :
    copyLine k l s = if l < metaBase / 128 then lineUncorrectable k l 2 s else s := by
  unfold copyLine
  rw [h]

theorem rowLines_nodup (row : Nat) : (rowLines row).Nodup :=
  List.nodup_range.map fun _ _ h => Nat.add_left_cancel h

/-- Lines that all decode are copied as they correct (R328). -/
theorem copyLines_decode {k : Super} {ls : List Nat} (hl : ls.Nodup) {s : State}
    (h : ∀ l ∈ ls, (decodeLine s.supers[k] k l).isSome = true) : ∃ e : Tab (BitVec 1152),
      forEach ls (copyLine k) s = s.modSuper k (fun u => { u with dramErr := e }) ∧
      (∀ l ∈ ls, ∀ d, decodeLine s.supers[k] k l = some d → tabGet 0 e l = d.left) ∧
      ∀ l, l ∉ ls → tabGet 0 e l = tabGet 0 s.supers[k].dramErr l := by
  induction ls generalizing s with
  | nil => exact ⟨s.supers[k].dramErr, (modSuper_fixed rfl).symm, by simp, fun _ _ => rfl⟩
  | cons a r ih =>
    obtain ⟨ha, hr⟩ := List.nodup_cons.1 hl
    obtain ⟨d, hd⟩ := Option.isSome_iff_exists.1 (h a (by simp))
    obtain ⟨t, ht⟩ : ∃ t, s.modSuper k (fun u => { u with dramErr := tabSet 0 u.dramErr a d.left }) = t := ⟨_, rfl⟩
    have hk : t.supers[k] = { s.supers[k] with dramErr := tabSet 0 s.supers[k].dramErr a d.left } := by
      rw [← ht, modSuper_at]
    have hsame : ∀ l, l ≠ a → decodeLine t.supers[k] k l = decodeLine s.supers[k] k l := fun l hla =>
      decodeLine_congr (by rw [hk]) (by rw [hk]) (by rw [hk]; exact tabGet_tabSet_other hla.symm)
    have hne : ∀ l ∈ r, l ≠ a := fun l hlr hla => ha (hla ▸ hlr)
    obtain ⟨e, he, hin, hout⟩ := ih hr (s := t) fun l hlr => by
      rw [hsame l (hne l hlr)]
      exact h l (by simp [hlr])
    refine ⟨e, ?_, fun l hlr d' hd' => ?_, fun l hlr => ?_⟩
    · show forEach r (copyLine k) (copyLine k a s) = _
      rw [copyLine_some hd, ht, he, ← ht]
      simp only [State.modSuper, upd, Fin.getElem_fin, Vector.getElem_set_self, Vector.set_set]
    · rcases List.mem_cons.1 hlr with rfl | hlr
      · rw [hd] at hd'
        rw [hout l ha, hk, ← Option.some.inj hd']
        exact tabGet_tabSet_same
      · exact hin l hlr d' (by rw [hsame l (hne l hlr), hd'])
    · obtain ⟨hla, hlr⟩ := not_or.1 (mt List.mem_cons.2 hlr)
      rw [hout l hlr, hk]
      exact tabGet_tabSet_other (Ne.symm hla)

/-- A super but for its data's bits, its poisoned lines and the log of uncorrectable ones. -/
def unlost (u : SuperState) : SuperState :=
  { u with dramErr := [], poison := [], ue := {}, errOff := 0, errSrc := 0, errSealed := false, errSet := false }

/-- What copying lines may do to a super: lines are corrected or lost, and poison stays. -/
structure Copied (u w : SuperState) : Prop where
  only : calm (unlost w) = calm (unlost u)
  poison : ∀ x, u.poison.contains x = true → w.poison.contains x = true
  source : w.errSrc = u.errSrc ∨ w.errSrc = 2

theorem Copied.refl (u : SuperState) : Copied u u := ⟨rfl, fun _ h => h, .inl rfl⟩

theorem Copied.trans {u v w : SuperState} (h : Copied u v) (h' : Copied v w) : Copied u w := by
  refine ⟨h'.only.trans h.only, fun x hx => h'.poison x (h.poison x hx), ?_⟩
  rcases h'.source with hs | hs
  · rw [hs]
    exact h.source
  · exact .inr hs

theorem lostLine_unlost {k : Super} {l : Nat} {src : BitVec 3} {u w : SuperState}
    (h : calm (undram w) = calm (undram (lostLine k l src u))) : calm (unlost w) = calm (unlost u) :=
  (congrArg unlost h :)

theorem lineUncorrectable_copied (k : Super) (l : Nat) (s : State) :
    Copied s.supers[k] (lineUncorrectable k l 2 s).supers[k] := by
  have h := lineUncorrectable_super k l 2 s
  obtain ⟨-, -, hsrc, -⟩ := lostLine_regs h
  refine ⟨lostLine_unlost h, fun x hx => ?_, .inr hsrc⟩
  rw [lineUncorrectable_poison]
  exact lostLine_kept hx

/-- What copying lines leaves of a super. -/
theorem Copied.kept {u w : SuperState} (h : Copied u w) : w.dieMark = u.dieMark ∧ w.die = u.die ∧ w.spares = u.spares ∧
    w.waiting = u.waiting :=
  ⟨(congrArg SuperState.dieMark h.only :), (congrArg SuperState.die h.only :), (congrArg SuperState.spares h.only :),
    (congrArg SuperState.waiting h.only :)⟩

theorem copyLine_copied (k : Super) (l : Nat) (s : State) : Copied s.supers[k] (copyLine k l s).supers[k] := by
  cases h : decodeLine s.supers[k] k l with
  | some d =>
    rw [copyLine_some h, modSuper_at]
    exact ⟨rfl, fun _ h => h, .inl rfl⟩
  | none =>
    rw [copyLine_none h]
    split
    · exact lineUncorrectable_copied ..
    · exact .refl _

theorem copyLines_copied (k : Super) (ls : List Nat) (s : State) :
    Copied s.supers[k] (forEach ls (copyLine k) s).supers[k] := by
  induction ls generalizing s with
  | nil => exact .refl _
  | cons a r ih => exact (copyLine_copied k a s).trans (ih _)

/-- A tag that is settled leaves the bits of every other line of data. -/
theorem settleTag_dram {k : Super} {l x : Nat} (hx : l ≠ x) (hl : l < metaBase / 128) (u : SuperState) :
    tabGet 0 (settleTag k x u).dramErr l = tabGet 0 u.dramErr l := by
  have htag : tagLine x ≠ l := by
    unfold tagLine tagBase
    unfold metaBase at hl
    omega
  unfold settleTag clearFlips
  split
  · exact tabGet_tabSet_other hx.symm
  · exact tabGet_tabSet_other htag

/-- A line that is lost settles its own bits and its tag's: no other line of data reads differently. -/
theorem lineUncorrectable_dram {k : Super} {l x : Nat} {src : BitVec 3} {s : State} (hx : l ≠ x) (hl : l < metaBase / 128) :
    tabGet 0 (lineUncorrectable k x src s).supers[k].dramErr l = tabGet 0 s.supers[k].dramErr l := by
  unfold lineUncorrectable
  generalize ht : s.modSuper k _ = t
  have hk : t.supers[k].dramErr = s.supers[k].dramErr := by rw [← ht, modSuper_at]
  rw [← hk]
  cases hp : t.supers[k].poison.contains x
  · have hsuper := (quiet_poisonLine hp).super
    rw [modSuper_at] at hsuper
    have hdram := (congrArg SuperState.dramErr hsuper :)
    rw [show (poisonLine k x t).supers[k].dramErr = _ from hdram]
    exact (settleTag_dram hx hl _).trans (tabGet_tabSet_other hx.symm)
  · have hsame : poisonLine k x t = t := by simp only [poisonLine, hp, if_true]
    rw [hsame]

/-- A lost line of data among those copied is poisoned, with the repair as its SOURCE (R313, R328). -/
theorem copyLines_lost {k : Super} {ls : List Nat} {l : Nat} (hm : l ∈ ls) (hl : l < metaBase / 128) {s : State}
    (h : decodeLine s.supers[k] k l = none) : (forEach ls (copyLine k) s).supers[k].poison.contains l = true ∧
      (forEach ls (copyLine k) s).supers[k].errSrc = 2 := by
  induction ls generalizing s with
  | nil => cases hm
  | cons a r ih =>
    by_cases ha : l = a
    · subst ha
      have hc : copyLine k l s = lineUncorrectable k l 2 s := by rw [copyLine_none h, if_pos hl]
      have hrest := copyLines_copied k r (copyLine k l s)
      have hsrc : (copyLine k l s).supers[k].errSrc = 2 := by
        obtain ⟨-, -, hs, -⟩ := lostLine_regs (lineUncorrectable_super k l 2 s)
        rw [hc, hs]
      refine ⟨hrest.poison l ?_, ?_⟩
      · rw [hc, lineUncorrectable_poison]
        exact lostLine_poison ..
      · rcases hrest.source with hs | hs
        · exact hs.trans hsrc
        · exact hs
    · refine ih ((List.mem_cons.1 hm).resolve_left ha) (s := copyLine k a s) ?_
      obtain ⟨hmark, hdie, -⟩ := (copyLine_copied k a s).kept
      rw [← h]
      refine decodeLine_congr hmark hdie ?_
      cases hd : decodeLine s.supers[k] k a with
      | some d =>
        rw [copyLine_some hd, modSuper_at]
        exact tabGet_tabSet_other (Ne.symm ha)
      | none =>
        rw [copyLine_none hd]
        split
        · exact lineUncorrectable_dram ha hl
        · rfl

/-- A super whose row r is remapped to the bank's next spare (R328, R329). -/
def repaired (r : Nat) (u : SuperState) : SuperState :=
  { u with spares := tabSet 0 u.spares (r % 512) (tabGet 0 u.spares (r % 512) + 1)
           remap := tabSet 0 u.remap r (tabGet 0 u.spares (r % 512) + 1)
           ppr := hit 16 u.ppr, repairing := none, repairLog := u.repairLog ++ [r] }

/-- What a repair leaves of a super, and where its row lies now. -/
theorem repaired_kept (r : Nat) (u : SuperState) : (repaired r u).poison = u.poison ∧ (repaired r u).errSrc = u.errSrc ∧
    (repaired r u).waiting = u.waiting ∧ tabGet 0 (repaired r u).remap r = tabGet 0 u.spares (r % 512) + 1 :=
  ⟨rfl, rfl, rfl, tabGet_tabSet_same⟩

/-- Repairs that wait are taken up without another change. -/
theorem quiet_nextRepair (k : Super) (s : State) : Quiet k s (nextRepair k s) := by
  have hall : ∀ (q : List Nat) (t : State), Quiet k t (forEach q (fun r s => needRepair k r s) t) := by
    intro q
    induction q with
    | nil => exact .refl k
    | cons r q ih => exact fun t => (quiet_needRepair k r t).trans (ih _)
  exact (quiet_modSuper rfl).trans (hall ..)

/-- What a change that keeps a super calm leaves of it. -/
theorem calm_kept {u w : SuperState} (h : calm u = calm w) : u.poison = w.poison ∧ u.errSrc = w.errSrc ∧ u.remap = w.remap ∧
    u.waiting = w.waiting :=
  ⟨(congrArg SuperState.poison h :), (congrArg SuperState.errSrc h :), (congrArg SuperState.remap h :),
    (congrArg SuperState.waiting h :)⟩

section Repair

variable {s : State} {k : Super} {r : Nat} (hr : s.supers[k].repairing = some r)
include hr

theorem effRepaired_eq : effRepaired k s = ewSuper k 6 (recordRepair (dieOf k) 3
    (k.val + 8 * (r % 512 / 16) + 256 * (r % 16) + 4096 * (r / 512))
    ((forEach (rowLines r) (copyLine k) s).modSuper k (repaired r))) := by
  unfold effRepaired
  rw [hr]
  rfl

theorem effRepaired_super :
    (effRepaired k s).supers[k] = repaired r (forEach (rowLines r) (copyLine k) s).supers[k] := by
  rw [effRepaired_eq hr, ewSuper_super, recordRepair_super, modSuper_at]

omit hr in
theorem effRepaired_within : Within [.superMem, .superTree, .superRegs, .partRegs] s
    ((forEach (rowLines r) (copyLine k) s).modSuper k (repaired r)) :=
  Within.trans (forEach_without _ _ _ _ fun _ _ => copyLine_without (by decide)) (modSuper_without _ _ _ _ fun _ => rfl)

/-- A repair is recorded while the record has room (R565). -/
theorem effRepaired_record (hlen : s.dies[dieOf k].repair.length < 1024) :
    (effRepaired k s).dies[dieOf k].repair.length = s.dies[dieOf k].repair.length + 1 := by
  have hw := effRepaired_within (s := s) (k := k) (r := r)
  rw [effRepaired_eq hr]
  generalize (forEach (rowLines r) (copyLine k) s).modSuper k (repaired r) = t at hw
  have hrep : t.dies[dieOf k].repair = s.dies[dieOf k].repair := hw.die_repair _ (by decide)
  have hew : ∀ u : State, (ewSuper k 6 u).dies[dieOf k].repair = u.dies[dieOf k].repair := fun u =>
    Within.die_repair (m := [.partRegs]) (ewSuper_without (by decide)) _ (by decide)
  rw [hew, recordRepair, hrep, if_pos hlen, modDie_at]
  simp only [hrep, List.length_append, List.length_singleton]

/-- A row all of whose lines decode moves to its spare as it corrects (R328). -/
theorem effRepaired_decodes (h : ∀ l ∈ rowLines r, (decodeLine s.supers[k] k l).isSome = true) : ∃ e,
      (effRepaired k s).supers[k] = repaired r { s.supers[k] with dramErr := e } ∧
      ∀ l ∈ rowLines r, ∀ d, decodeLine s.supers[k] k l = some d → tabGet 0 e l = d.left := by
  obtain ⟨e, he, hin, -⟩ := copyLines_decode (rowLines_nodup r) h
  exact ⟨e, by rw [effRepaired_super hr, he, modSuper_at], hin⟩

/-- A row with a line of data beyond correction moves to its spare, the line poisoned (R328). -/
theorem effRepaired_loses {l : Nat} (hm : l ∈ rowLines r) (hl : l < metaBase / 128)
    (h : decodeLine s.supers[k] k l = none) {t : State} (ht : nextRepair k (effRepaired k s) = t) :
    t.supers[k].poison.contains l = true ∧ t.supers[k].errSrc = 2 ∧
      tabGet 0 t.supers[k].remap r = tabGet 0 s.supers[k].spares (r % 512) + 1 ∧ t.supers[k].waiting = s.supers[k].waiting := by
  obtain ⟨hpoison, hsrc⟩ := copyLines_lost hm hl h
  obtain ⟨-, -, hspares, hwait⟩ := (copyLines_copied k (rowLines r) s).kept
  obtain ⟨hp, hs, hremap, hw⟩ := calm_kept (quiet_nextRepair k (effRepaired k s)).super
  obtain ⟨hp', hs', hw', hremap'⟩ := repaired_kept r (forEach (rowLines r) (copyLine k) s).supers[k]
  rw [effRepaired_super hr, ht] at hp hs hremap hw
  exact ⟨by rw [hp, hp', hpoison], hs.trans (hs'.trans hsrc), by rw [hremap, hremap', hspares], hw.trans (hw'.trans hwait)⟩

end Repair

/-- No row under repair, nothing to complete. -/
theorem rowRepairDone_none {s : State} {k : Super} (h : s.supers[k].repairing = none) (flips : Flips) :
    exec (.rowRepairDone ⟨k, flips⟩) s = .next s := by
  refine congrArg Host.Outcome.next (if_pos ?_)
  dsimp only
  rw [h]
  rfl

/-- What a repair reads of its super before the flipped bits are taken. -/
theorem applyFlips_regs (k : Super) (flips : Flips) (s : State) :
    (applyFlips k flips s).supers[k].repairing = s.supers[k].repairing ∧
    (applyFlips k flips s).supers[k].repairQ = s.supers[k].repairQ ∧
    (applyFlips k flips s).supers[k].waiting = s.supers[k].waiting := by
  have h := (applyFlips_within k flips s).super k
  exact ⟨(congrArg SuperState.repairing h :), (congrArg SuperState.repairQ h :), (congrArg SuperState.waiting h :)⟩

section Done

variable {s : State} {k : Super} {r : Nat} (flips : Flips) (hr : s.supers[k].repairing = some r)
include hr

theorem exec_rowRepairDone : exec (.rowRepairDone ⟨k, flips⟩) s =
    .next (resumeSuper k (nextRepair k (effRepaired k (applyFlips k flips s)))) := by
  refine congrArg Host.Outcome.next (if_neg ?_)
  dsimp only
  rw [hr]
  exact Bool.false_ne_true

variable (hw : s.supers[k].waiting = .replicate 6 [])
include hw

/-- A row all of whose lines decode is copied as it corrects, remapped to the bank's next spare, logged and recorded
(R328, R329, R565). -/
theorem rowRepairDone_decodes (hq : s.supers[k].repairQ = []) (hlen : s.dies[dieOf k].repair.length < 1024)
    (h : ∀ l ∈ rowLines r, (decodeLine (applyFlips k flips s).supers[k] k l).isSome = true) :
    Does (.rowRepairDone ⟨k, flips⟩) s fun t =>
      let u := (applyFlips k flips s).supers[k]
      let spare := tabGet 0 u.spares (r % 512) + 1
      t.supers[k].repairing = none ∧ t.supers[k].ppr = hit 16 u.ppr ∧ tabGet 0 t.supers[k].remap r = spare ∧
      tabGet 0 t.supers[k].spares (r % 512) = spare ∧ t.supers[k].repairLog = u.repairLog ++ [r] ∧
      (∀ l ∈ rowLines r, ∀ d, decodeLine u k l = some d → tabGet 0 t.supers[k].dramErr l = d.left) ∧
      t.dies[dieOf k].repair.length = s.dies[dieOf k].repair.length + 1 := by
  obtain ⟨hr', hq', hw'⟩ := applyFlips_regs k flips s
  have hdies : (applyFlips k flips s).dies = s.dies := rfl
  refine does_of_exec (exec_rowRepairDone flips hr) ?_
  rw [hr] at hr'
  rw [hq] at hq'
  rw [hw] at hw'
  generalize applyFlips k flips s = v at h hr' hq' hw' hdies
  rw [← hdies] at hlen
  have hrec := effRepaired_record hr' hlen
  obtain ⟨e, he, hin⟩ := effRepaired_decodes hr' h
  generalize effRepaired k v = t at he hrec
  have hnext : nextRepair k t = t.modSuper k fun u => { u with repairQ := [] } := by
    unfold nextRepair
    dsimp only
    rw [show t.supers[k].repairQ = [] by rw [he]; exact hq']
    rfl
  rw [hnext, resumeSuper_idle (by rw [modSuper_at, he]; exact hw')]
  dsimp only
  rw [modSuper_at, he, modSuper_dies, hrec, hdies]
  exact ⟨rfl, rfl, tabGet_tabSet_same, tabGet_tabSet_same, rfl, hin, rfl⟩

/-- A line of data beyond correction is poisoned, and its row remapped all the same (R328). -/
theorem rowRepairDone_loses {l : Nat} (hm : l ∈ rowLines r) (hl : l < metaBase / 128)
    (h : decodeLine (applyFlips k flips s).supers[k] k l = none) : Does (.rowRepairDone ⟨k, flips⟩) s fun t =>
      t.supers[k].poison.contains l = true ∧ t.supers[k].errSrc = 2 ∧
      tabGet 0 t.supers[k].remap r = tabGet 0 (applyFlips k flips s).supers[k].spares (r % 512) + 1 := by
  obtain ⟨hr', -, hw'⟩ := applyFlips_regs k flips s
  refine does_of_exec (exec_rowRepairDone flips hr) ?_
  obtain ⟨hpoison, hsrc, hremap, hwait⟩ := effRepaired_loses (hr'.trans hr) hm hl h rfl
  rw [resumeSuper_idle (hwait.trans (hw'.trans hw))]
  exact ⟨hpoison, hsrc, hremap⟩

end Done

/-! ### LINK_AUTH_FAIL (R363–R366) -/

theorem within_linkAuth {m : List Piece} {s t : State} (w : Within m s t) (k : Super) (h : m.contains .superRegs = false) :
    t.supers[k].linkAuth = s.supers[k].linkAuth ∧ t.supers[k].link = s.supers[k].link := by
  have ha := congrArg SuperState.linkAuth (w.super k)
  have hl := congrArg SuperState.link (w.super k)
  simp only [SuperState.without, h, Bool.false_eq_true, if_false] at ha hl
  exact ⟨ha, hl⟩

theorem within_auth {m : List Piece} {s t : State} (w : Within m s t) (d : Die) (h : m.contains .dies = false) :
    t.dies[d].groupAuth = s.dies[d].groupAuth ∧ t.dies[d].hostAuth = s.dies[d].hostAuth := by
  have hg := congrArg DieState.groupAuth (w.die d)
  have hh := congrArg DieState.hostAuth (w.die d)
  simp only [DieState.without, h, Bool.false_eq_true, if_false] at hg hh
  exact ⟨hg, hh⟩

/-! #### The bridge links through a stop -/

/-- An event moves the PF0 ring's registers, and no bridge link. -/
theorem postEvent_bridge (p : Part) (x y : Byte) (k : Comb) (d : BitVec 56) (s : State) :
    (postEvent p x y k d s).mod.bridge = s.mod.bridge := by
  have hp : Within [.out, .host, .evq] s (eventToPart p x y k d s) := eventToPart_without (by decide)
  unfold postEvent
  generalize eventToPart p x y k d s = t at hp
  have hh : ∀ xs, Within [.out, .host] t (hostPutAll 0 xs t) := fun xs => hostPutAll_without (by decide)
  unfold eventToPf0
  rw [modMod_mod, (hh _).mod_eq (by decide), hp.mod_eq (by decide)]

theorem orphanCkpt_bridge (p : Part) (st : Byte) (s : State) : (orphanCkpt p st s).mod.bridge = s.mod.bridge := by
  unfold orphanCkpt
  dsimp only
  split
  · rfl
  · split
    · rfl
    · exact postEvent_bridge ..

theorem stopWhole_bridge (p : Part) (st : Byte) (d : Word) (d2 : BitVec 56) (dom : BitVec 4) (s : State) :
    (stopWhole p st d d2 dom s).mod.bridge = s.mod.bridge := by
  unfold stopWhole
  dsimp only
  have hhalt : Within [.draws, .seq, .cellMem, .cellRun, .combMem, .ctx] s (forEach (combsOf s p) (fun k s => haltComb k s) s) :=
    forEach_without _ _ _ _ fun a t => haltComb_without (by decide)
  generalize forEach (combsOf s p) (fun k s => haltComb k s) s = t at hhalt
  have hissue : Within [.seq, .hild, .ctx] t (stopIssue (combsOf t p) t) := stopIssue_without (by decide)
  generalize stopIssue (combsOf t p) t = u at hissue
  have hrings : Within [.rings] u (stopRings p (fins 16) st d d2 dom u) := stopRings_without (by decide)
  generalize stopRings p (fins 16) st d d2 dom u = v at hrings
  have hdrop : Within [.draws, .superMem, .superTree, .partRegs] (orphanCkpt p st v) (dropRestore p (orphanCkpt p st v)) :=
    dropRestore_without (by decide)
  generalize dropRestore p (orphanCkpt p st v) = w at hdrop
  have hclear : Within [.hum] w (clearActive p w) := clearActive_without (by decide)
  rw [modPart_mod, hclear.mod_eq (by decide), hdrop.mod_eq (by decide), orphanCkpt_bridge, hrings.mod_eq (by decide),
    hissue.mod_eq (by decide), hhalt.mod_eq (by decide)]

/-- A stop leaves the bridge links. -/
theorem stopPartition_bridge {p : Part} {k : Comb} {st : Byte} {d : Word} {d2 : BitVec 56} {unit : Word} {sup : List Super}
    {s : State} (h : s.parts[p].recov = []) : (stopPartition p k st d d2 unit sup s).mod.bridge = s.mod.bridge := by
  obtain ⟨f, -, -, he⟩ := stopPartition_begins (k := k) (st := st) (d := d) (d2 := d2) (unit := unit) (sup := sup) h
  have ha : Within [.router] s (raiseAlarm p k 0x07 s) := raiseAlarm_without (by decide)
  rw [he, ← ha.mod_eq (by decide)]
  generalize raiseAlarm p k 0x07 s = a
  unfold beginRecovery
  dsimp only
  have ht : ∀ r t, Within [.rings, .partRegs] t (takeOver p r t) := fun r t => takeOver_without (by decide)
  rw [(ht _ _).mod_eq (by decide), stopWhole_bridge, postEvent_bridge]

/-! #### One direction of a link -/

theorem linkDir_super {s : State} {link : Fin 14} {k : Super} (h : link.val = k.val) (dir : Fin 2) :
    linkDir s link dir = s.supers[k].link[dir] := by
  have hlt : link.val < 8 := h ▸ k.isLt
  have hk : (⟨link.val, hlt⟩ : Super) = k := Fin.ext h
  simp only [linkDir, dif_pos hlt, hk]

theorem linkDir_bridge {s : State} {link : Fin 14} {g : Fin 6} (h : link.val = 8 + g.val) (dir : Fin 2) :
    linkDir s link dir = s.mod.bridge[g][dir] := by
  have hlt : ¬ link.val < 8 := by omega
  have hg : (⟨link.val - 8, by omega⟩ : Fin 6) = g := Fin.ext (by dsimp only; omega)
  simp only [linkDir, dif_neg hlt, hg]

theorem modLink_super {link : Fin 14} {k : Super} (h : link.val = k.val) (dir : Fin 2) (f : LinkDir → LinkDir) (s : State) :
    modLink link dir f s = s.modSuper k fun u => { u with link := upd u.link dir f } := by
  have hlt : link.val < 8 := h ▸ k.isLt
  have hk : (⟨link.val, hlt⟩ : Super) = k := Fin.ext h
  simp only [modLink, dif_pos hlt, hk]

theorem modLink_bridge {link : Fin 14} {g : Fin 6} (h : link.val = 8 + g.val) (dir : Fin 2) (f : LinkDir → LinkDir)
    (s : State) : modLink link dir f s = s.modMod fun m => { m with bridge := upd m.bridge g fun v => upd v dir f } := by
  have hlt : ¬ link.val < 8 := by omega
  have hg : (⟨link.val - 8, by omega⟩ : Fin 6) = g := Fin.ext (by dsimp only; omega)
  simp only [modLink, dif_neg hlt, hg]

/-- A link is a super's or one of the bridge. -/
theorem link_cases (link : Fin 14) : (∃ k : Super, link.val = k.val) ∨ ∃ g : Fin 6, link.val = 8 + g.val := by
  by_cases h : link.val < 8
  · exact .inl ⟨⟨link.val, h⟩, rfl⟩
  · exact .inr ⟨⟨link.val - 8, by omega⟩, by dsimp only; omega⟩

theorem linkDir_modLink (link : Fin 14) (dir : Fin 2) (f : LinkDir → LinkDir) (s : State) :
    linkDir (modLink link dir f s) link dir = f (linkDir s link dir) := by
  rcases link_cases link with ⟨k, h⟩ | ⟨g, h⟩
  · rw [modLink_super h, linkDir_super h, linkDir_super h, modSuper_at]
    exact upd_same ..
  · rw [modLink_bridge h, linkDir_bridge h, linkDir_bridge h, modMod_mod, upd_same, upd_same]

section Flit

variable {s : State} {link : Fin 14} {dir : Fin 2} {seq : DWord} {body : Bytes}

/-- On a key already failed a flit is discarded (R365). -/
theorem linkAuthFail_dead (h : (linkDir s link dir).dead = true) : exec (.linkAuthFail link ⟨dir, seq, body⟩) s = .next s :=
  congrArg Host.Outcome.next (if_pos h)

variable (hd : (linkDir s link dir).dead = false)
include hd

/-- A flit that verifies is the next one, and is taken (R364). -/
theorem linkAuthFail_takes (hf : linkFlitFails (linkDir s link dir) link dir seq body = false) :
    seq = (linkDir s link dir).next ∧ Does (.linkAuthFail link ⟨dir, seq, body⟩) s fun t =>
      linkDir t link dir = { linkDir s link dir with next := (linkDir s link dir).next + 1 } := by
  constructor
  · unfold linkFlitFails at hf
    simpa using (Bool.or_eq_false_iff.1 hf).1
  · refine does_of_exec (t := modLink link dir (fun d => { d with next := d.next + 1 }) s) ?_ (linkDir_modLink ..)
    refine congrArg Host.Outcome.next ?_
    dsimp only
    rw [hd, hf]
    rfl

theorem exec_linkAuthFail (hf : linkFlitFails (linkDir s link dir) link dir seq body = true) :
    exec (.linkAuthFail link ⟨dir, seq, body⟩) s = .next (effLinkAuth link dir s) := by
  refine congrArg Host.Outcome.next ?_
  dsimp only
  rw [hd, hf]
  rfl

end Flit

/-! #### A flit that fails on a super link -/

/-- A super one direction of whose link failed authentication (R365). -/
def authFailed (dir : Fin 2) (u : SuperState) : SuperState :=
  { u with link := upd u.link dir fun d => { d with dead := true }, linkAuth := hit 16 u.linkAuth }

section SuperLink

variable {s : State} {link : Fin 14} {dir : Fin 2} {k : Super} (hk : link.val = k.val)
include hk

theorem linkOwners_super : linkOwners s link = ((partOf s k).toList, [k]) := by
  have hlt : link.val < 8 := hk ▸ k.isLt
  have he : (⟨link.val, hlt⟩ : Super) = k := Fin.ext hk
  simp only [linkOwners, dif_pos hlt, he]

/-- The super counts the failure and its link is dead; the partition of its comb is stopped (R363, R365). -/
theorem effLinkAuth_super (hreset : partOf s k = none → s.supers[k].resetting = false) :
    effLinkAuth link dir s = forEach (partOf s k).toList (fun p t => stopPartition p k stIntegrityFail 0 0 0 [k] t)
      (s.modSuper k (authFailed dir)) := by
  have hlt : link.val < 8 := hk ▸ k.isLt
  have he : (⟨link.val, hlt⟩ : Super) = k := Fin.ext hk
  have hboth : (modLink link dir (fun d => { d with dead := true }) s).modSuper k (fun u =>
      { u with linkAuth := hit 16 u.linkAuth }) = s.modSuper k (authFailed dir) := by
    rw [modLink_super hk]
    simp only [State.modSuper, upd, Fin.getElem_fin, Vector.getElem_set_self, Vector.set_set]
    rfl
  unfold effLinkAuth
  dsimp only
  rw [dif_pos hlt, he, hboth, if_neg (by omega), linkOwners_super hk]
  have hpart : partOf (s.modSuper k (authFailed dir)) k = partOf s k := rfl
  rw [hpart]
  dsimp only
  have hno : ¬ ((partOf s k).toList = [] ∧ ([k].any fun j => (s.modSuper k (authFailed dir)).supers[j].resetting) = true) := by
    rintro ⟨hnil, hany⟩
    have hres : (s.modSuper k (authFailed dir)).supers[k].resetting = s.supers[k].resetting := by rw [modSuper_at]; rfl
    rw [List.any_cons, List.any_nil, Bool.or_false, hres, hreset (Option.toList_eq_nil_iff.1 hnil)] at hany
    cases hany
  rw [if_neg hno, dif_pos hlt]
  cases partOf s k <;> rfl

/-- An authentication failure on a super link (R363, R365). -/
theorem linkAuthFail_super (hrecov : ∀ p, partOf s k = some p → s.parts[p].recov = [])
    (hreset : partOf s k = none → s.supers[k].resetting = false) {t : State} (ht : effLinkAuth link dir s = t) :
    t.supers[k].linkAuth = hit 16 s.supers[k].linkAuth ∧ (linkDir t link dir).dead = true ∧
      ∀ p, partOf s k = some p → Stopped p stIntegrityFail s t := by
  rw [effLinkAuth_super hk hreset] at ht
  have hsuper : (s.modSuper k (authFailed dir)).supers[k] = authFailed dir s.supers[k] := modSuper_at ..
  have hkept : t.supers[k].linkAuth = (authFailed dir s.supers[k]).linkAuth ∧
      t.supers[k].link = (authFailed dir s.supers[k]).link ∧ ∀ p, partOf s k = some p → Stopped p stIntegrityFail s t := by
    cases hp : partOf s k with
    | none =>
      simp only [hp, Option.toList_none, forEach, List.foldl_nil] at ht
      rw [← ht, hsuper]
      exact ⟨rfl, rfl, fun p h => by cases h⟩
    | some p =>
      simp only [hp, Option.toList_some, forEach, List.foldl_cons, List.foldl_nil] at ht
      have hr : (s.modSuper k (authFailed dir)).parts[p].recov = [] := hrecov p hp
      have hw := stopPartition_within (k := k) (st := stIntegrityFail) (d := 0) (d2 := 0) (unit := 0) (sup := [k]) hr
      have hs := stopPartition_stops (k := k) (st := stIntegrityFail) (d := 0) (d2 := 0) (unit := 0) (sup := [k]) hr
      rw [ht] at hw hs
      obtain ⟨hauth, hlink⟩ := within_linkAuth hw k (by decide)
      rw [hsuper] at hauth hlink
      refine ⟨hauth, hlink, fun q hq => ?_⟩
      obtain rfl := Option.some.inj hq
      exact hs
  obtain ⟨hauth, hlink, hstop⟩ := hkept
  refine ⟨hauth, ?_, hstop⟩
  rw [linkDir_super hk, hlink]
  exact congrArg LinkDir.dead (upd_same ..)

end SuperLink

/-! #### A flit that fails on a bridge link -/

/-- A bridge link rekeyed accepts flits from sequence 0 in both directions (R364). -/
theorem keyBridge_fresh {link : Fin 14} {g : Fin 6} (h : link.val = 8 + g.val) (s : State) (e : Fin 2) :
    (linkDir (keyBridge g s) link e).dead = false ∧ (linkDir (keyBridge g s) link e).next = 0 := by
  have hlink : linkDir (keyBridge g s) link e = (freshLink (drawNow 512 s))[e] := by
    rw [linkDir_bridge h]
    show (upd s.mod.bridge g fun _ => freshLink (drawNow 512 s))[g][e] = _
    rw [upd_same]
  rw [hlink]
  simp only [freshLink, Fin.getElem_fin, Vector.getElem_ofFn]
  split <;> exact ⟨rfl, rfl⟩

/-- The count of an authentication failure at a bridge link's receiver (R366). -/
def bridgeFailed (link : Fin 14) (d : DieState) : DieState :=
  if h : link.val < 12 then { d with groupAuth := upd d.groupAuth ⟨link.val - 8, by omega⟩ (hit 16) }
  else if link.val = 12 then { d with hostAuth := hit 16 d.hostAuth }
  else { d with mgmtAuth := hit 16 d.mgmtAuth }

/-- The state in which a bridge link's key is dead and the failure counted (R365, R366). -/
def bridgeCounted (link : Fin 14) (dir : Fin 2) (s : State) : State :=
  (modLink link dir (fun d => { d with dead := true }) s).modDie (rxDieOf dir) (bridgeFailed link)

section Bridge

variable {s : State} {link : Fin 14} {dir : Fin 2} (hb : 8 ≤ link.val)
include hb

/-- A failure on a bridge link: the link rekeyed and its owners stopped, or a module fault on the management channel
(R363, R365, R481). -/
theorem effLinkAuth_bridge : effLinkAuth link dir s =
    if link.val = 13 then moduleFault stIntegrityFail 0 (bridgeCounted link dir s)
    else forEach (linkOwners (bridgeCounted link dir s) link).1 (fun p t => stopPartition p p stIntegrityFail 0 0 0 [] t)
      (keyBridge ⟨link.val - 8, by omega⟩ (bridgeCounted link dir s)) := by
  have hlt : ¬ link.val < 8 := by omega
  unfold effLinkAuth
  dsimp only
  rw [dif_neg hlt]
  have hcount : (modLink link dir (fun d => { d with dead := true }) s).modDie (rxDieOf dir) (fun d =>
      if h : link.val < 12 then { d with groupAuth := upd d.groupAuth ⟨link.val - 8, by omega⟩ (hit 16) }
      else if link.val = 12 then { d with hostAuth := hit 16 d.hostAuth } else { d with mgmtAuth := hit 16 d.mgmtAuth }) =
    bridgeCounted link dir s := rfl
  rw [hcount]
  generalize bridgeCounted link dir s = t
  by_cases h13 : link.val = 13
  · rw [if_pos h13, if_pos h13]
  · rw [if_neg h13, if_neg h13, dif_neg hlt]
    have hnone : (linkOwners t link).2 = [] := by
      unfold linkOwners
      rw [dif_neg hlt]
      split <;> rfl
    rw [hnone, if_neg (by simp)]
    rfl

end Bridge

/-- The state in which the link is rekeyed behind that (R364). -/
def bridgeRekeyed (link : Fin 14) (g : Fin 6) (dir : Fin 2) (s : State) : State := keyBridge g (bridgeCounted link dir s)

section Rekeyed

variable {s : State} {link : Fin 14} {g : Fin 6} {dir : Fin 2} (hg : link.val = 8 + g.val)

include hg

theorem bridgeRekeyed_within : Within [.draws, .dies, .mod] s (bridgeRekeyed link g dir s) := by
  have hfail : ∀ d : DieState, (bridgeFailed link d).without [.draws, .dies, .mod] = d.without [.draws, .dies, .mod] := by
    intro d
    unfold bridgeFailed
    split
    · rfl
    · split <;> rfl
  unfold bridgeRekeyed bridgeCounted
  rw [modLink_bridge hg]
  exact Within.trans (modMod_without _ _ _ (by decide)) <|
    Within.trans (modDie_without _ _ _ _ hfail) (keyBridge_without (by decide))

theorem bridgeRekeyed_die : (bridgeRekeyed link g dir s).dies[rxDieOf dir] = bridgeFailed link s.dies[rxDieOf dir] := by
  unfold bridgeRekeyed bridgeCounted
  rw [modLink_bridge hg]
  exact modDie_at ..

/-- A failure on a comb-group or the host channel: the link rekeyed, then its owners stopped (R363, R364). -/
theorem effLinkAuth_owners (hn : link.val ≠ 13) : effLinkAuth link dir s =
    forEach (linkOwners s link).1 (fun p t => stopPartition p p stIntegrityFail 0 0 0 [] t) (bridgeRekeyed link g dir s) := by
  have hk : (⟨link.val - 8, by omega⟩ : Fin 6) = g := Fin.ext (by dsimp only; omega)
  have hsame : linkOwners (bridgeCounted link dir s) link = linkOwners s link := by
    rw [bridgeCounted, modLink_bridge hg]
    rfl
  rw [effLinkAuth_bridge (by omega), if_neg hn, hsame, hk]
  rfl

/-- An authentication failure on a comb-group link (R363–R366). -/
theorem linkAuthFail_group {c : Fin 4} (hc : g.val = c.val) (hr : s.parts[(0 : Part)].recov = []) {t : State}
    (ht : effLinkAuth link dir s = t) :
    t.dies[rxDieOf dir].groupAuth[c] = hit 16 s.dies[rxDieOf dir].groupAuth[c] ∧
      (∀ e, (linkDir t link e).dead = false ∧ (linkDir t link e).next = 0) ∧
      (s.parts[(0 : Part)].live = true → s.parts[(0 : Part)].psize = 3 → Stopped 0 stIntegrityFail s t) := by
  have hw := bridgeRekeyed_within (s := s) (dir := dir) hg
  have hfresh : ∀ e, (linkDir (bridgeRekeyed link g dir s) link e).dead = false ∧
      (linkDir (bridgeRekeyed link g dir s) link e).next = 0 := keyBridge_fresh hg _
  have hcount : (bridgeRekeyed link g dir s).dies[rxDieOf dir].groupAuth[c] = hit 16 s.dies[rxDieOf dir].groupAuth[c] := by
    have hx : (⟨link.val - 8, by omega⟩ : Fin 4) = c := Fin.ext (by dsimp only; omega)
    rw [bridgeRekeyed_die hg, bridgeFailed, dif_pos (by omega), hx]
    exact upd_same ..
  have howners : (linkOwners s link).1 = if s.parts[(0 : Part)].live && s.parts[(0 : Part)].psize == 3 then [0] else [] := by
    rw [linkOwners, dif_neg (by omega), if_pos (by omega)]
  rw [effLinkAuth_owners hg (by omega), howners] at ht
  generalize bridgeRekeyed link g dir s = w at hw hfresh hcount ht
  split at ht
  · have hrw : w.parts[(0 : Part)].recov = [] := (hw.part_recov 0 (by decide)).trans hr
    simp only [forEach, List.foldl_cons, List.foldl_nil] at ht
    have hin := stopPartition_within (k := 0) (st := stIntegrityFail) (d := 0) (d2 := 0) (unit := 0) (sup := []) hrw
    have hbridge := stopPartition_bridge (k := 0) (st := stIntegrityFail) (d := 0) (d2 := 0) (unit := 0) (sup := []) hrw
    have hstop := stopPartition_stops (k := 0) (st := stIntegrityFail) (d := 0) (d2 := 0) (unit := 0) (sup := []) hrw
    rw [ht] at hin hbridge hstop
    refine ⟨?_, fun e => ?_, fun _ _ => stopped_of_within hw (by decide) (by decide) hstop⟩
    · rw [(within_auth hin _ (by decide)).1, hcount]
    · rw [linkDir_bridge hg, hbridge, ← linkDir_bridge hg]
      exact hfresh e
  · next hno =>
    rw [← ht]
    refine ⟨hcount, hfresh, fun hlive hsize => absurd ?_ hno⟩
    rw [hlive, hsize]
    rfl

/-- An authentication failure on the host channel with no partition on die 1 (R363–R366). -/
theorem linkAuthFail_host (hc : link.val = 12) (hnone : partsOnDie s 1 = []) {t : State} (ht : effLinkAuth link dir s = t) :
    t.dies[rxDieOf dir].hostAuth = hit 16 s.dies[rxDieOf dir].hostAuth ∧
      ∀ e, (linkDir t link e).dead = false ∧ (linkDir t link e).next = 0 := by
  have howners : (linkOwners s link).1 = [] := by rw [linkOwners, dif_neg (by omega), if_neg (by omega), hnone]
  rw [effLinkAuth_owners hg (by omega), howners] at ht
  have he : bridgeRekeyed link g dir s = t := ht
  rw [← he]
  refine ⟨?_, keyBridge_fresh hg _⟩
  rw [bridgeRekeyed_die hg, bridgeFailed, dif_neg (by omega), if_pos hc]

end Rekeyed

/-! #### A module fault at READY (R503, R511) -/

/-- A module warm reset keeps its log and reads RECOVERING, from stage ROM (R511, R562). -/
theorem moduleReset_warm (s : State) :
    (moduleReset false s).evt.modState = 1 ∧ (moduleReset false s).boot.stage = 0 ∧
      (moduleReset false s).evt.modlog = s.evt.modlog := by
  unfold moduleReset
  dsimp only
  have hreseed : ∀ l t, Within [.out, .host, .draws, .combRegs, .evq, .mod] t (forEach l (fun k s => reseed k none s) t) :=
    fun l t => forEach_without _ _ _ _ fun a u => reseed_without (by decide)
  have hpower : ∀ t, Within [.draws, .combMap, .hum, .combRegs, .router, .superMem, .superTree, .superKeys, .superRegs] t
      (powerAll t) := fun t => powerAll_without (by decide)
  have hquiet : Within [.out, .host, .superMem, .superTree, .superKeys, .superRegs, .partRegs, .fuses, .queen, .mod] s
      (forEach (fins 8) quietSuper s) := forEach_without _ _ _ _ fun a u => quietSuper_without (by decide)
  rw [(hreseed _ _).evt_eq (by decide), (hreseed _ _).boot_stage (by decide), (hpower _).evt_eq (by decide),
    (hpower _).boot_stage (by decide)]
  refine ⟨rfl, rfl, ?_⟩
  simp only [Bool.false_eq_true, if_false]
  rw [hquiet.evt_eq (by decide)]

/-- A module fault where no reset runs (R503). -/
theorem moduleFault_ready {s : State} (hm : s.evt.modState = 0) (hb : s.boot.stage = 5) (st : Byte) :
    (moduleFault st 0 s).evt.modState = 1 ∧ (moduleFault st 0 s).boot.stage = 0 ∧
      (moduleFault st 0 s).evt.modlog = w64 st.toNat := by
  have hf : moduleFault st 0 s = moduleReset false (logFirst st 0 s) := by
    unfold moduleFault
    rw [if_neg (by rw [hb]; exact fun h => absurd h.2 (by decide)), if_neg (by rw [hm]; decide)]
  obtain ⟨hstate, hstage, hlog⟩ := moduleReset_warm (logFirst st 0 s)
  rw [hf]
  exact ⟨hstate, hstage, hlog⟩

/-- An authentication failure on the management channel is a module fault (R363). -/
theorem linkAuthFail_management {s : State} {link : Fin 14} {dir : Fin 2} (hc : link.val = 13) (hm : s.evt.modState = 0)
    (hb : s.boot.stage = 5) {t : State} (ht : effLinkAuth link dir s = t) :
    t.evt.modState = 1 ∧ t.boot.stage = 0 ∧ t.evt.modlog = 0x20 := by
  rw [effLinkAuth_bridge (by omega), if_pos hc] at ht
  have hsame : (bridgeCounted link dir s).evt = s.evt ∧ (bridgeCounted link dir s).boot = s.boot := by
    rw [bridgeCounted, modLink_bridge (g := 5) hc]
    exact ⟨rfl, rfl⟩
  obtain ⟨hevt, hboot⟩ := hsame
  rw [← ht]
  exact moduleFault_ready (by rw [hevt, hm]) (by rw [hboot, hb]) stIntegrityFail

/-! ### The statement fails where a partition's own comb is not assigned to it -/

/-- A module at READY with partition 0 live, a region table of one region in it, and no comb assigned to it. -/
def combless : State :=
  (State.reset.modBoot fun b => { b with stage := 5 }).modPart 0 fun q =>
    { q with live := true, rgn := q.rgn.set 0 { kind := 1, keyId := 1, share := 1 } }

/-- Refutes O59: its clause on a table of one region says that a commit that passes advances the cursors of super p, in every
state where partition p is live; where comb p is not assigned to the partition, super p is not the partition's, and the commit
leaves it. Where comb p is assigned the clause is `regionCommit_sole`, and where no comb of the partition lies below p the one
on the limits is `regionCommit_allocates`. The other clauses are `regionCommit_locked`, `regionInitDone_ignored`,
`regionInitDone_counters`; `treeFormatDone_idle`, `treeFormatDone_serves`, `treeFormatDone_ignored`, `dramRefresh_counts`,
`dramRefresh_asleep`; `patrolScrubRead_asleep`, and of `effScrub`, which PATROL_SCRUB_READ runs behind the flipped bits, those
named `effScrub_…`; `linkFlitCrcFail_counts`, `linkReplayLimit_stops`, `linkReplayLimit_alone`, `link_down`;
`rowRepairDone_none`, `rowRepairDone_decodes`, `rowRepairDone_loses`; `linkAuthFail_dead`, `linkAuthFail_takes`, and behind
`exec_linkAuthFail` `linkAuthFail_super`, `linkAuthFail_group`, `linkAuthFail_host` and `linkAuthFail_management`. -/
theorem not_supersServeTheirLayers : ¬ Obligations.SupersServeTheirLayers := by
  intro h
  have hs : regsServed combless = true := by decide
  have hlive : combless.parts[(0 : Part)].live = true := by decide
  have hl : combless.parts[(0 : Part)].locked = false := by decide
  obtain ⟨hcommit, -⟩ := h combless
  obtain ⟨-, hunlocked⟩ := hcommit 0 hs hlive
  obtain ⟨-, hone⟩ := hunlocked hl
  obtain ⟨t, ht, -, -, hcur⟩ := hone (by decide) (by decide)
  obtain ⟨u, hu, hsupers, -⟩ := regionCommit_supers (p := 0) hs hlive hl
  obtain rfl : t = u := Host.Outcome.next.inj (ht.symm.trans hu)
  have hkept : t.supers[(0 : Super)].dataCur = 0 := by
    rw [hsupers 0, if_neg (by decide)]
    decide
  obtain ⟨hadvanced, -⟩ := hcur (by decide)
  rw [hkept] at hadvanced
  exact absurd hadvanced (by decide)

end Sys2Proof.SuperProofs
end

section
/-! The end of a context, and key slots that retire (R360, R456, R463, R506). -/

namespace Sys2Proof.TeardownProofs

open Sys2Proof Sys2Proof.Machine Sys2Proof.MemoryProofs Sys2Proof.JobFaultProofs Sys2Proof.RingProofs

/-! ### A context's state through the stop of its partition -/

/-- Squashed entries give CLEAR charges back to a context (R473); its state stays. -/
theorem squashAll_ctxState (j : Comb) (p : Part) (s : State) :
    (squashAll j s).parts[p].ctx.state = s.parts[p].ctx.state := by
  unfold squashAll squashHeld
  dsimp only
  split
  · rfl
  · simp only [State.modCtx, Fin.getElem_fin, modPart_get]
    split <;> rfl

theorem haltComb_ctxState (j : Comb) (p : Part) (s : State) :
    (haltComb j s).parts[p].ctx.state = s.parts[p].ctx.state := by
  have h : Within [.draws, .seq, .cellMem, .cellRun, .combMem] (squashAll j s) (haltComb j s) :=
    (stopCells_without (by decide)).trans (haltSeq_without (by decide))
  rw [h.part_ctx p (by decide), squashAll_ctxState]

theorem stopIssue_ctxState (l : List Comb) (p : Part) (s : State) :
    (stopIssue l s).parts[p].ctx.state = s.parts[p].ctx.state := by
  refine forEach_keeps (fun t => t.parts[p].ctx.state) _ _ _ fun j t => ?_
  have h : Within [.seq, .hild] (squashAll j t) (discardHild j (fun _ => true) (haltSeq j (squashAll j t))) :=
    (discardHild_without (by decide)).trans (haltSeq_without (by decide))
  rw [h.part_ctx p (by decide), squashAll_ctxState]

theorem stopWhole_ctxState (p : Part) (st : Byte) (x : Word) (y : BitVec 56) (dom : BitVec 4) (s : State) :
    (stopWhole p st x y dom s).parts[p].ctx.state = s.parts[p].ctx.state := by
  have hhalt : ∀ l, (forEach l (fun k s => haltComb k s) s).parts[p].ctx.state = s.parts[p].ctx.state := fun l =>
    forEach_keeps (fun t => t.parts[p].ctx.state) _ _ _ fun j t => haltComb_ctxState j p t
  unfold stopWhole
  dsimp only
  generalize hs : forEach (combsOf s p) (fun k s => haltComb k s) s = t
  have hrest : Within [.out, .host, .draws, .hum, .rings, .superMem, .superTree, .evq, .partRegs, .mod]
      (stopIssue (combsOf t p) t)
      (clearActive p (dropRestore p (orphanCkpt p st (stopRings p (fins 16) st x y dom (stopIssue (combsOf t p) t))))) :=
    (clearActive_without (by decide)).trans <| (dropRestore_without (by decide)).trans <|
      (orphanCkpt_without (by decide)).trans (stopRings_without (by decide))
  rw [modPart_at, hrest.part_ctx p (by decide), stopIssue_ctxState, ← hs, hhalt]

/-! ### Teardown (R463, R506) -/

/-- What the first step of a context's teardown leaves where no recovery runs. -/
structure TearsDown (p : Part) (s t : State) : Prop where
  ctx : t.parts[p].ctx.state = 3
  stopped : t.parts[p].stopped = true
  combs : ∀ k : Comb, inPart s p k = true → t.combs[k].seq.state = 3 ∧ t.combs[k].hum.active = false
  recov : ∃ r, t.parts[p].recov = [r] ∧ r.teardown = true ∧ r.domain = 8

theorem beginTeardown_tearsDown {p : Part} {s : State} (hc : s.parts[p].ctx.state = 1 ∨ s.parts[p].ctx.state = 2)
    (hr : s.parts[p].recov = []) : TearsDown p s (beginTeardown p s) := by
  have hlive : ¬ (s.parts[p].ctx.state = 0 ∨ s.parts[p].ctx.state = 3) := by
    rcases hc with h | h <;> rw [h] <;> decide
  rw [beginTeardown, if_neg hlive]
  dsimp only
  generalize hm : s.modCtx p (fun c => { c with state := 3 }) = m
  have hsm : Within [.ctx] s m := by
    rw [← hm]
    exact modCtx_without _ _ _ _ (by decide)
  have hma : Within [.router] m (raiseAlarm p p 0x08 m) := raiseAlarm_without (by decide)
  generalize raiseAlarm p p 0x08 m = a at hma
  have hsa : Within [.ctx, .router] s a :=
    (Within.mono hsm (by decide)).trans (Within.mono hma (by decide))
  have hctx : a.parts[p].ctx.state = 3 := by
    rw [hma.part_ctx p (by decide), ← hm, State.modCtx, modPart_at]
  obtain ⟨hstopped, hrecov, hhalt⟩ := stopWhole_halts p stResetAborted 8 0 domTeardown a
  have hstate := stopWhole_ctxState p stResetAborted 8 0 domTeardown a
  have hhum := stopWhole_hum p stResetAborted 8 0 domTeardown a
  have hnone : (stopWhole p stResetAborted 8 0 domTeardown a).parts[p].recov = [] := by
    rw [hrecov, hsa.part_recov p (by decide), hr]
  rw [takeOver_none hnone]
  generalize stopWhole p stResetAborted 8 0 domTeardown a = w at hstopped hhalt hstate hhum
  refine ⟨?_, ?_, fun k hk => ?_, ⟨_, by rw [modPart_at], rfl, rfl⟩⟩
  · rw [modPart_at, hstate, hctx]
  · rw [modPart_at, hstopped]
  · have hin : inPart a p k = true := by rw [within_inPart hsa (by decide) (by decide), hk]
    refine ⟨hhalt k hin, ?_⟩
    show w.combs[k].hum.active = false
    rw [hhum, if_pos hin]
    rfl

section EndContext

variable {s : State} {p : Part} (hs : queensServe s = true) (hb : s.queen.cmdBusy = false) (hl : s.parts[p].live = true)
include hs hb hl

/-- END_CONTEXT where a command of the queen may run. -/
theorem exec_endContext : exec (.endContext p) s =
    .next (if s.parts[p].ctx.state = 0 then partErr 0 s else beginTeardown p (startPartCmd 3 p s)) := by
  refine congrArg Host.Outcome.next ?_
  simp only [effEndContext, hs, hb, hl, Bool.not_true, Bool.false_eq_true, if_false]

/-- Without a context the command is complete at once. -/
theorem endContext_none (hc : s.parts[p].ctx.state = 0) : Does (.endContext p) s fun t =>
    t.queen = { s.queen with cmdErr := 0 } ∧ Within [.queen] s t :=
  does_of_exec (by rw [exec_endContext hs hb hl, if_pos hc]) ⟨rfl, partErr_without (by decide)⟩

/-- A bound or running context is torn down, and the queen is busy until it is gone (R463). -/
theorem endContext_tearsDown (hc : s.parts[p].ctx.state = 1 ∨ s.parts[p].ctx.state = 2) (hr : s.parts[p].recov = []) :
    Does (.endContext p) s fun t => t.queen.cmdBusy = true ∧ TearsDown p s t := by
  have hne : s.parts[p].ctx.state ≠ 0 := by rcases hc with h | h <;> rw [h] <;> decide
  have hcmd : (startPartCmd 3 p s).parts[p] = { s.parts[p] with busyCmd := 3 } := modPart_at ..
  have hw : Within [.partRegs, .queen] s (startPartCmd 3 p s) := startPartCmd_without (by decide)
  have ht : TearsDown p (startPartCmd 3 p s) (beginTeardown p (startPartCmd 3 p s)) :=
    beginTeardown_tearsDown (by rw [hcmd]; exact hc) (by rw [hcmd]; exact hr)
  refine does_of_exec (by rw [exec_endContext hs hb hl, if_neg hne]) ⟨?_, { ht with combs := fun k hk => ht.combs k ?_ }⟩
  · have hq : Within [.out, .host, .draws, .hum, .seq, .cellMem, .cellRun, .combMem, .router, .superMem, .superTree, .hild,
        .ctx, .rings, .evq, .partRegs, .mod] (startPartCmd 3 p s) (beginTeardown p (startPartCmd 3 p s)) :=
      beginTeardown_without (by decide)
    rw [hq.queen_eq (by decide)]
    rfl
  · rw [within_inPart hw (by decide) (by decide), hk]

end EndContext

/-! ### A slot whose flush is done (R360 step 3) -/

/-- The key of a retiring slot is zeroised and the slot scrubs. -/
theorem retireFlushDone_scrubs {s : State} {k : Super} {id : KeyId} (h : s.supers[k].slots[id].state = 2) :
    Does (.retireFlushDone k id) s fun t => t.supers[k].slots[id] = { state := 3 } ∧
      (∀ j : KeyId, j ≠ id → t.supers[k].slots[j] = s.supers[k].slots[j]) ∧ Within [.superKeys] s t := by
  have hne : s.supers[k].slots[id].state ≠ 0 := by rw [h]; decide
  refine does_of_exec (t := zeroiseSlot k id s) (congrArg Host.Outcome.next (if_pos h)) ⟨?_, fun j hj => ?_,
    zeroiseSlot_without (by decide)⟩
  all_goals rw [zeroiseSlot, if_neg hne, modSuper_at]
  · exact upd_same ..
  · exact upd_other _ _ _ _ hj.symm

/-! ### What a frame says of the scrubbed ranges -/

theorem zeroed_of_without {m : List Piece} {u w : SuperState} (h : w.without m = u.without m)
    (hm : m.contains .superMem = false) : w.zeroed = u.zeroed := by
  have := congrArg SuperState.zeroed h
  simpa only [SuperState.without, hm, Bool.false_eq_true, if_false] using this

theorem toScrub_of_without {m : List Piece} {u w : SuperState} (h : w.without m = u.without m)
    (hm : m.contains .superKeys = false) : w.toScrub = u.toScrub := by
  have := congrArg SuperState.toScrub h
  simpa only [SuperState.without, hm, Bool.false_eq_true, if_false] using this

/-- Nodes written back leave the ranges of the keys. -/
theorem flushTree_zeroed (u : SuperState) : (flushTree u).zeroed = u.zeroed :=
  zeroed_of_without (m := [.superTree, .superRegs]) (flushTree_without (by decide)) (by decide)

theorem flushTree_toScrub (u : SuperState) : (flushTree u).toScrub = u.toScrub :=
  toScrub_of_without (m := [.superTree, .superRegs]) (flushTree_without (by decide)) (by decide)

/-! ### The keys of a powered super as the domains follow their conditions (R40, R43) -/

/-- Key slots and scrubbed ranges stay, but that the slot of the queen region may become EMPTY. -/
structure KeepsKeys (u w : SuperState) : Prop where
  slots : ∀ j : KeyId, w.slots[j] = u.slots[j] ∨ j = 0 ∧ w.slots[j] = {}
  zeroed : w.zeroed = u.zeroed
  toScrub : w.toScrub = u.toScrub

theorem KeepsKeys.of_eq {u w : SuperState} (h : w = u) : KeepsKeys u w := h ▸ ⟨fun _ => .inl rfl, rfl, rfl⟩

/-- A super that is on stays on or goes off; either way its tenants' keys stay. -/
theorem powerSuper_keepsKeys {k : Super} {s : State} (h : s.supers[k].powered = true) :
    KeepsKeys s.supers[k] (powerSuper k s).supers[k] := by
  unfold powerSuper
  dsimp only
  split
  · next hwake =>
    rw [h, Bool.not_true, Bool.and_false] at hwake
    exact absurd hwake Bool.false_ne_true
  · split
    · rw [modSuper_at]
      have hz := flushTree_zeroed s.supers[k]
      have ht := flushTree_toScrub s.supers[k]
      generalize flushTree s.supers[k] = v at hz ht
      refine ⟨fun j => ?_, hz, ht⟩
      by_cases hj : j = 0
      · subst hj
        exact .inr ⟨rfl, upd_same ..⟩
      · exact .inl (upd_other _ _ _ _ (Ne.symm hj))
    · exact .of_eq rfl

/-- The domain of one super leaves the others. -/
theorem powerSuper_other {j k : Super} (h : j ≠ k) (s : State) : (powerSuper j s).supers[k] = s.supers[k] := by
  have hm : ∀ (t : State) (f : SuperState → SuperState), (t.modSuper j f).supers[k] = t.supers[k] := fun t f =>
    modSuper_other t j k f h
  unfold powerSuper
  dsimp only
  split
  · exact (hm _ _).trans (hm _ _)
  · split
    · exact hm _ _
    · rfl

/-- Where each step of a repetition changes one super only, a super is changed once, at its own step. -/
theorem forEach_super_once {f : Super → State → State} {k : Super} {R : SuperState → SuperState → Prop}
    (ho : ∀ j s, j ≠ k → (f j s).supers[k] = s.supers[k]) {l : List Super} (hl : l.Nodup) (hk : k ∈ l) {s : State}
    (hr : ∀ t : State, t.supers[k] = s.supers[k] → R s.supers[k] (f k t).supers[k]) :
    R s.supers[k] (forEach l f s).supers[k] := by
  have hrest : ∀ (r : List Super) (t : State), k ∉ r → (forEach r f t).supers[k] = t.supers[k] := by
    intro r
    induction r with
    | nil => exact fun _ _ => rfl
    | cons a r ih =>
      intro t hr
      obtain ⟨ha, hr⟩ := not_or.1 (mt List.mem_cons.2 hr)
      exact (ih (f a t) hr).trans (ho a t (Ne.symm ha))
  obtain ⟨a, b, rfl⟩ := List.append_of_mem hk
  obtain ⟨-, hb, hd⟩ := List.nodup_append.1 hl
  have hka : k ∉ a := fun h => hd k h k (by simp) rfl
  have hkb : k ∉ b := (List.nodup_cons.1 hb).1
  have hsplit : forEach (a ++ k :: b) f s = forEach b f (f k (forEach a f s)) := by simp [forEach]
  rw [hsplit, hrest b _ hkb]
  exact hr _ (hrest a s hka)

theorem powerAll_keepsKeys {k : Super} {s : State} (h : s.supers[k].powered = true) :
    KeepsKeys s.supers[k] (powerAll s).supers[k] := by
  refine forEach_super_once (fun j t hj => ?_) (fins_nodup 8) (mem_fins k) fun t ht => ?_
  · exact powerSuper_other hj _
  · have hk : (t.modComb k (powerComb (cellTest t) (freshHum t))).supers[k] = s.supers[k] := ht
    rw [← hk] at h ⊢
    exact powerSuper_keepsKeys h

/-! ### A slot whose scrub is done (R360 steps 4 and 5, R456) -/

/-- The ranges that super k scrubs for a key ID read as zeros. -/
def scrubRanges (k : Super) (id : KeyId) (s : State) : State :=
  forEach (s.supers[k].toScrub.filter fun e => decide (e.1 = id)) (fun e s => s.modSuper k (scrubRange e.2.1 e.2.2)) s

/-- The slot of a key ID is EMPTY and has nothing left to scrub. -/
def emptySlot (id : KeyId) (u : SuperState) : SuperState :=
  { u with toScrub := u.toScrub.filter fun e => decide (e.1 ≠ id), slots := upd u.slots id fun _ => {} }

/-- Every context all of whose slots are EMPTY is gone. -/
def settleAll (s : State) : State := forEach (liveParts s) (fun p s => settleContext p s) s

section Scrub

variable {s : State} {k : Super} {id : KeyId}

theorem effScrubDone_eq (h : s.supers[k].slots[id].state = 3) (hr : s.supers[k].resetting = false)
    (hp : s.supers[k].powered = true) :
    effScrubDone k id s = powerAll (settleAll (clearNodes k ((scrubRanges k id s).modSuper k (emptySlot id)))) := by
  simp only [effScrubDone, h, hr, hp, ne_eq, not_true_eq_false, Bool.not_true, Bool.false_eq_true, or_self, if_false]
  rfl

theorem scrubRanges_within : Within [.superMem, .superTree] s (scrubRanges k id s) :=
  forEach_without _ _ _ _ fun _ _ => modSuper_without _ _ _ _ fun _ => scrubRange_without (by decide)

theorem scrubRanges_zeroed {e : KeyId × Nat × Nat} (he : e ∈ s.supers[k].toScrub) (hid : e.1 = id) :
    (e.2.1, e.2.2) ∈ (scrubRanges k id s).supers[k].zeroed := by
  have hstep : ∀ (d : KeyId × Nat × Nat) (t : State), (t.modSuper k (scrubRange d.2.1 d.2.2)).supers[k].zeroed =
      (d.2.1, d.2.2) :: t.supers[k].zeroed := fun d t => by rw [modSuper_at]; rfl
  have hmem : e ∈ s.supers[k].toScrub.filter fun e => decide (e.1 = id) := List.mem_filter.2 ⟨he, decide_eq_true hid⟩
  refine forEach_establishes (P := fun e t => (e.2.1, e.2.2) ∈ t.supers[k].zeroed) (fun d t => ?_) (fun d c t hd => ?_) hmem s
  · rw [hstep]
    exact List.mem_cons_self
  · rw [hstep]
    exact List.mem_cons_of_mem _ hd

/-- The end of a scrub but for the domains that follow it, on its super. -/
theorem settled_super {t : State} (ht : settleAll (clearNodes k ((scrubRanges k id s).modSuper k (emptySlot id))) = t) :
    t.supers[k].slots = upd s.supers[k].slots id (fun _ => {}) ∧
    t.supers[k].toScrub = s.supers[k].toScrub.filter (fun e => decide (e.1 ≠ id)) ∧
    t.supers[k].zeroed = (scrubRanges k id s).supers[k].zeroed ∧ t.supers[k].powered = s.supers[k].powered := by
  have hscrub : Within [.superMem, .superTree] s (scrubRanges k id s) := scrubRanges_within
  have hw : Within [.superTree, .ctx, .partRegs, .queen] ((scrubRanges k id s).modSuper k (emptySlot id)) t := by
    rw [← ht]
    exact (forEach_without _ _ _ _ fun _ _ => settleContext_without (by decide)).trans (clearNodes_without (by decide))
  have he : ((scrubRanges k id s).modSuper k (emptySlot id)).supers[k] = emptySlot id (scrubRanges k id s).supers[k] :=
    modSuper_at ..
  rw [hw.super_slots k (by decide), toScrub_of_without (hw.super k) (by decide), zeroed_of_without (hw.super k) (by decide),
    hw.super_powered k (by decide), he, ← hscrub.super_slots k (by decide), ← toScrub_of_without (hscrub.super k) (by decide),
    ← hscrub.super_powered k (by decide)]
  exact ⟨rfl, rfl, rfl, rfl⟩

/-- The slot is EMPTY, the other tenants' slots stay, and its ranges read as zeros (R360). -/
theorem keyScrubDone_empties (h : s.supers[k].slots[id].state = 3) (hr : s.supers[k].resetting = false)
    (hp : s.supers[k].powered = true) : Does (.keyScrubDone k id) s fun t => t.supers[k].slots[id] = {} ∧
      (∀ j : KeyId, j ≠ id → 0 < j.val → t.supers[k].slots[j] = s.supers[k].slots[j]) ∧
      (∀ e ∈ s.supers[k].toScrub, e.1 = id → (e.2.1, e.2.2) ∈ t.supers[k].zeroed) ∧
      ∀ e ∈ t.supers[k].toScrub, e.1 ≠ id := by
  refine does_of_exec (t := effScrubDone k id s) rfl ?_
  rw [effScrubDone_eq h hr hp]
  generalize ht : settleAll (clearNodes k ((scrubRanges k id s).modSuper k (emptySlot id))) = t
  obtain ⟨hslots, hto, hzeroed, hpow⟩ := settled_super ht
  have hkeep := powerAll_keepsKeys (hpow.trans hp)
  refine ⟨?_, fun j hj h0 => ?_, fun e he hid => ?_, fun e he => ?_⟩
  · rcases hkeep.slots id with hid | ⟨-, hid⟩
    · rw [hid, hslots]
      exact upd_same ..
    · exact hid
  · rcases hkeep.slots j with hsame | ⟨rfl, -⟩
    · rw [hsame, hslots]
      exact upd_other _ _ _ _ hj.symm
    · exact absurd h0 (by decide)
  · rw [hkeep.zeroed, hzeroed]
    exact scrubRanges_zeroed he hid
  · rw [hkeep.toScrub, hto] at he
    exact of_decide_eq_true (List.mem_filter.1 he).2

end Scrub

/-- Settles O26: the end of a context by the first step of its teardown, of which the stop of the partition keeps the context's
state; the retirement by what each of its two commands leaves of the super's slots and ranges. -/
theorem contextsEndAndKeysRetire : Obligations.ContextsEndAndKeysRetire := by
  intro s
  refine ⟨fun p hs hb hl hc => endContext_none hs hb hl hc, fun p hs hb hl hc hr => ?_,
    fun k id h => retireFlushDone_scrubs h, fun k id h hr hp => keyScrubDone_empties h hr hp⟩
  obtain ⟨t, ht, hbusy, htears⟩ := endContext_tearsDown hs hb hl hc hr
  exact ⟨t, ht, hbusy, htears.ctx, htears.stopped, htears.combs, htears.recov⟩

end Sys2Proof.TeardownProofs
end

section
/-! Strand-ports: coordinates, the port map and training, and the lanes of a port with their spares (R372–R374, R377–R381). -/

namespace Sys2Proof.PortProofs

open Sys2Proof Sys2Proof.Machine Sys2Proof.MemoryProofs Sys2Proof.JobFaultProofs Sys2Proof.HumProofs Sys2Proof.RingProofs

/-! ### Registers that are served, and repetitions that reach one unit once -/

theorem doIf_served {s : State} (hs : regsServed s = true) (f : State → State) : doIf (regsServed s) f s = f s := if_pos hs

theorem forEach_invariant {α : Type} {I : State → Prop} {f : α → State → State} (hi : ∀ a t, I t → I (f a t)) (l : List α)
    {s : State} (hs : I s) : I (forEach l f s) := by
  induction l generalizing s with
  | nil => exact hs
  | cons a r ih => exact ih (hi a s hs)

/-- Where every step keeps I and step a alone changes what π sees, by g, a repetition changes it by g at most once. -/
theorem forEach_once {α β : Type} [DecidableEq α] {I : State → Prop} (π : State → β) {g : β → β} {f : α → State → State} {a : α}
    (hi : ∀ b t, I t → I (f b t)) (ha : ∀ t, I t → π (f a t) = g (π t)) (ho : ∀ b t, b ≠ a → I t → π (f b t) = π t)
    {l : List α} (hl : l.Nodup) {s : State} (hs : I s) : π (forEach l f s) = if a ∈ l then g (π s) else π s := by
  induction l generalizing s with
  | nil => simp [forEach]
  | cons b r ih =>
    obtain ⟨hb, hr⟩ := List.nodup_cons.1 hl
    refine (ih hr (hi b s hs)).trans ?_
    by_cases hab : b = a
    · subst hab
      rw [if_neg hb, if_pos List.mem_cons_self, ha s hs]
    · rw [ho b s hab hs]
      simp only [List.mem_cons, Ne.symm hab, false_or]

theorem forEach_once_mem {α β : Type} [DecidableEq α] {I : State → Prop} (π : State → β) {g : β → β} {f : α → State → State}
    {a : α} (hi : ∀ b t, I t → I (f b t)) (ha : ∀ t, I t → π (f a t) = g (π t)) (ho : ∀ b t, b ≠ a → I t → π (f b t) = π t)
    {l : List α} (hl : l.Nodup) (hm : a ∈ l) {s : State} (hs : I s) : π (forEach l f s) = g (π s) :=
  (forEach_once π hi ha ho hl hs).trans (if_pos hm)

/-! ### One port changed -/

theorem modSPort_port (s : State) (k j : Comb) (p q : LPort) (f : StrandPort → StrandPort) :
    (s.modSPort k p f).combs[j].router.ports[q] =
      if k = j ∧ p = q then f s.combs[j].router.ports[q] else s.combs[j].router.ports[q] := by
  rw [State.modSPort, modRouter_router]
  by_cases hk : k = j
  · simp only [hk, if_true, true_and, Fin.getElem_fin, upd_get, Fin.ext_iff]
  · rw [if_neg hk, if_neg fun h => hk h.1]

theorem modPort_port (s : State) (p q : PPort) (f : PortState → PortState) :
    (s.modPort p f).ports[q] = if p = q then f s.ports[q] else s.ports[q] := modPort_get s p f q

theorem physPort_congr {s t : State} (h : t.mod = s.mod) (p : LPort) : physPort t p = physPort s p := by
  simp only [physPort, h]

theorem logPort_congr {s t : State} (h : t.mod = s.mod) (q : PPort) : logPort t q = logPort s q := by
  simp only [logPort, physPort_congr h]

/-- The physical port behind a logical port serves one. -/
theorem logPort_physPort (s : State) (p : LPort) : (logPort s (physPort s p)).isSome = true := by
  simp only [logPort, List.find?_isSome, decide_eq_true_eq]
  exact ⟨p, mem_fins p, rfl⟩

theorem physPort_of_logPort {s : State} {q : PPort} {p : LPort} (h : logPort s q = some p) : physPort s p = q := by
  simpa using List.find?_some h

/-- What a strand-port falls to is read off the port map, the references and its port's power. -/
theorem downState_congr {s t : State} (hm : t.mod = s.mod) (hp : t.power = s.power) {p : LPort}
    (ho : t.ports[physPort s p].on = s.ports[physPort s p].on) (stuck : Bool) : downState t p stuck = downState s p stuck := by
  simp only [downState, physPort_congr hm, hm, hp, ho]

theorem downState_within {m : List Piece} {s t : State} (w : Within m s t) (hm : m.contains .mod = false)
    (hp : m.contains .power = false) (ho : m.contains .ports = false) (p : LPort) (stuck : Bool) :
    downState t p stuck = downState s p stuck :=
  downState_congr (w.mod_eq hm) (w.power_eq hp) (by rw [w.ports_eq ho]) stuck

theorem downState_ne_two (s : State) (p : LPort) (stuck : Bool) : downState s p stuck ≠ 2 := by
  unfold downState
  split <;> decide

theorem downState_stuck (s : State) (p : LPort) : downState s p true = 0 := rfl

theorem downState_off {s : State} {p : LPort} (h : s.ports[physPort s p].on = false) (stuck : Bool) : downState s p stuck = 0 := by
  simp only [downState, h, Bool.and_false, Bool.false_eq_true, if_false]

/-- A port that may come up: the fabric reference runs, and it is enabled and powered (R377, R550). -/
theorem downState_one_iff {s : State} {p : LPort} : downState s p false = 1 ↔
    s.power.frefLost = false ∧ s.mod.mapEn.getLsbD p.val = true ∧ s.ports[physPort s p].on = true := by
  unfold downState
  by_cases h : s.power.frefLost = false ∧ s.mod.mapEn.getLsbD p.val = true ∧ s.ports[physPort s p].on = true
  · obtain ⟨hf, he, ho⟩ := h
    simp [hf, he]
  · refine iff_of_false ?_ h
    split
    · next hc =>
      simp only [Bool.not_false, Bool.true_and, Bool.and_eq_true, Bool.not_eq_true'] at hc
      exact absurd ⟨hc.1.1, hc.1.2, hc.2⟩ h
    · decide

/-! ### Strand-ports that serve no job fall and train again (R374, R377) -/

/-- No job has a lease entry at a port. -/
def Jobless (s : State) : Prop := ∀ (k : Comb) (q : LPort), jobsOnPort s.combs[k] q = []

theorem jobsOnPort_congr {c d : CombState} (h : d.router.lease = c.router.lease) (p : LPort) : jobsOnPort d p = jobsOnPort c p := by
  simp only [jobsOnPort, h]

/-- A strand-port that has left UP, or restarts. -/
def dropped (st : BitVec 2) (stuck : Bool) (y : StrandPort) : StrandPort :=
  { y with state := st, stuck := stuck, fill := .replicate 2 2, uncorr := 0 }

/-- A port that serves no job falls: beyond the strand-port itself the hum and the partition's monitor at most change. -/
theorem strandDown_jobless {s : State} {k : Comb} {p : LPort} (hj : jobsOnPort s.combs[k] p = []) (mask : BitVec 56)
    (stuck : Bool) : Within [.hum, .partRegs] (s.modSPort k p (dropped (downState s p stuck) stuck)) (strandDown k p mask stuck s) := by
  cases hup : portUp s k p with
  | true =>
    rw [strandDown_idle hup hj]
    exact (humLosesParent_without (by decide)).trans (ewCount_without (by decide))
  | false =>
    unfold strandDown
    rw [hup]
    rfl

section StrandDown

variable {s : State} {k : Comb} {p : LPort} (hj : jobsOnPort s.combs[k] p = []) (mask : BitVec 56) (stuck : Bool)
include hj

theorem strandDown_within : Within [.hum, .router, .partRegs] s (strandDown k p mask stuck s) :=
  Within.trans (modSPort_without _ _ _ _ _ (by decide)) ((strandDown_jobless hj mask stuck).mono (by decide))

theorem strandDown_router (j : Comb) : (strandDown k p mask stuck s).combs[j].router =
    (s.modSPort k p (dropped (downState s p stuck) stuck)).combs[j].router :=
  (strandDown_jobless hj mask stuck).comb_router j (by decide)

theorem strandDown_port (j : Comb) (q : LPort) : (strandDown k p mask stuck s).combs[j].router.ports[q] =
    if k = j ∧ p = q then dropped (downState s p stuck) stuck s.combs[j].router.ports[q] else s.combs[j].router.ports[q] := by
  rw [strandDown_router hj, modSPort_port]

theorem strandDown_jobsOnPort (j : Comb) (q : LPort) :
    jobsOnPort (strandDown k p mask stuck s).combs[j] q = jobsOnPort s.combs[j] q := by
  refine jobsOnPort_congr ?_ q
  rw [strandDown_router hj, State.modSPort, modRouter_router]
  split <;> rfl

end StrandDown

/-- What restarts of jobless ports keep. -/
def Restarting (s t : State) : Prop := Within [.hum, .router, .partRegs] s t ∧ Jobless t

theorem Restarting.downState {s t : State} (h : Restarting s t) (p : LPort) (stuck : Bool) :
    downState t p stuck = downState s p stuck := downState_within h.1 (by decide) (by decide) (by decide) p stuck

theorem strandDown_restarting {s t : State} (h : Restarting s t) (k : Comb) (p : LPort) :
    Restarting s (strandDown k p 0 false t) :=
  ⟨h.1.trans (strandDown_within (h.2 k p) 0 false), fun j q => (strandDown_jobsOnPort (h.2 k p) 0 false j q).trans (h.2 j q)⟩

theorem restartPort_restarting {s t : State} (h : Restarting s t) (p : LPort) : Restarting s (restartPort p t) :=
  forEach_invariant (I := Restarting s) (fun k _ h => strandDown_restarting h k p) _ h

theorem restartPort_port {s t : State} (h : Restarting s t) (p : LPort) (k : Comb) (q : LPort) :
    (restartPort p t).combs[k].router.ports[q] =
      if p = q then dropped (downState s p false) false t.combs[k].router.ports[q] else t.combs[k].router.ports[q] := by
  have hstep : ∀ (j : Comb) (u : State), Restarting s u → (strandDown j p 0 false u).combs[k].router.ports[q] =
      if j = k ∧ p = q then dropped (downState s p false) false u.combs[k].router.ports[q] else u.combs[k].router.ports[q] :=
    fun j u hu => by rw [strandDown_port (hu.2 j p), hu.downState]
  unfold restartPort
  exact forEach_once_mem (α := Fin 8) (I := Restarting s) (π := fun u => u.combs[k].router.ports[q]) (l := fins 8) (s := t)
    (f := fun j u => strandDown j p 0 false u) (g := fun y => if p = q then dropped (downState s p false) false y else y)
    (fun j u hu => strandDown_restarting hu j p) (fun u hu => (hstep k u hu).trans (by simp only [true_and]))
    (fun j u hjk hu => (hstep j u hu).trans (if_neg fun hc => hjk hc.1)) (fins_nodup 8) (mem_fins k) h

/-- Ports restarted in turn. -/
theorem restartPorts_port {s : State} (hj : Jobless s) {l : List LPort} (hl : l.Nodup) (k : Comb) (q : LPort) :
    (forEach l restartPort s).combs[k].router.ports[q] =
      if q ∈ l then dropped (downState s q false) false s.combs[k].router.ports[q] else s.combs[k].router.ports[q] :=
  forEach_once (I := Restarting s) (π := fun u => u.combs[k].router.ports[q])
    (g := dropped (downState s q false) false) (fun p _ h => restartPort_restarting h p)
    (fun u hu => by rw [restartPort_port hu, if_pos rfl]) (fun p u hpq hu => by rw [restartPort_port hu, if_neg hpq]) hl ⟨rfl, hj⟩

theorem restartPorts_restarting {s : State} (hj : Jobless s) (l : List LPort) : Restarting s (forEach l restartPort s) :=
  forEach_invariant (I := Restarting s) (fun p _ h => restartPort_restarting h p) l ⟨rfl, hj⟩

/-! ### Training begins (R377) -/

/-- A strand-port that trains where it is down, not held, and its port may come up. -/
def trained (st : BitVec 2) (y : StrandPort) : StrandPort :=
  if y.state = 0 ∧ (!y.stuck) = true ∧ st = 1 then { y with state := 1 } else y

theorem trained_up {y : StrandPort} (h : y.state = 2) (st : BitVec 2) : trained st y = y :=
  if_neg fun hc => absurd (h.symm.trans hc.1) (by decide)

theorem trained_ne_two {y : StrandPort} (h : y.state ≠ 2) (st : BitVec 2) : (trained st y).state ≠ 2 := by
  unfold trained
  split
  · exact (by decide : (1 : BitVec 2) ≠ 2)
  · exact h

/-- One strand-port begins to train. -/
def trainPort (k : Comb) (p : LPort) (s : State) : State :=
  if s.combs[k].router.ports[p].state = 0 ∧ (!s.combs[k].router.ports[p].stuck) = true ∧ downState s p false = 1 then
    s.modSPort k p fun y => { y with state := 1 } else s

theorem trainPort_within (k : Comb) (p : LPort) (s : State) : Within [.router] s (trainPort k p s) :=
  ite_without (fun _ => modSPort_without _ _ _ _ _ (by decide)) fun _ => rfl

theorem trainPort_port (k j : Comb) (p q : LPort) (s : State) : (trainPort k p s).combs[j].router.ports[q] =
    if k = j ∧ p = q then trained (downState s q false) s.combs[j].router.ports[q] else s.combs[j].router.ports[q] := by
  unfold trainPort trained
  by_cases hkp : k = j ∧ p = q
  · obtain ⟨rfl, rfl⟩ := hkp
    simp only [and_self, if_true]
    split
    · rw [modSPort_port, if_pos ⟨rfl, rfl⟩]
    · rfl
  · rw [if_neg hkp]
    split
    · rw [modSPort_port, if_neg hkp]
    · rfl

theorem startTraining_eq (s : State) : startTraining s = forEach (fins 8) (fun j => forEach (fins 6) (trainPort j)) s := by
  unfold startTraining
  rfl

/-- Every strand-port that may train begins to. -/
theorem startTraining_port (s : State) (k : Comb) (q : LPort) : (startTraining s).combs[k].router.ports[q] =
    trained (downState s q false) s.combs[k].router.ports[q] := by
  have hdown : ∀ t, Within [.router] s t → downState t q false = downState s q false := fun t w =>
    downState_within w (by decide) (by decide) (by decide) q false
  have hcomb : ∀ (j : Comb) (t : State), Within [.router] s t →
      (forEach (fins 6) (trainPort j) t).combs[k].router.ports[q] =
        if j = k then trained (downState s q false) t.combs[k].router.ports[q] else t.combs[k].router.ports[q] := fun j t ht =>
    forEach_once_mem (I := Within [.router] s) (π := fun u => u.combs[k].router.ports[q]) (f := trainPort j)
      (g := fun y => if j = k then trained (downState s q false) y else y) (fun p u hu => hu.trans (trainPort_within j p u))
      (fun u hu => by simp only [trainPort_port, hdown u hu, and_true])
      (fun p u hpq _ => (trainPort_port ..).trans (if_neg fun hc => hpq hc.2)) (fins_nodup 6) (mem_fins q) ht
  rw [startTraining_eq]
  exact forEach_once_mem (α := Fin 8) (I := Within [.router] s) (π := fun u => u.combs[k].router.ports[q]) (l := fins 8) (s := s)
    (f := fun j => forEach (fins 6) (trainPort j)) (g := trained (downState s q false))
    (fun j t ht => ht.trans (forEach_without _ _ _ _ fun p u => trainPort_within j p u))
    (fun t ht => (hcomb k t ht).trans (if_pos rfl)) (fun j t hjk ht => (hcomb j t ht).trans (if_neg hjk)) (fins_nodup 8)
    (mem_fins k) (Within.refl _ s)

/-! ### WAG_COORD (R372, R41) -/

/-- The fields of WAG_COORD taken, and the parents that follow from them. -/
def coordTaken (v : DWord) (s : State) : State := setParents (s.modMod (coordFields v))

theorem coordTaken_mod (v : DWord) (s : State) : (coordTaken v s).mod = coordFields v s.mod :=
  Within.mod_eq (m := [.hum]) (setParents_without (by decide)) (by decide)

theorem coordTaken_within (v : DWord) (s : State) : Within [.hum, .mod] s (coordTaken v s) :=
  (setParents_without (by decide)).trans (modMod_without _ _ _ (by decide))

/-- Every port domain switched as ATTACHED and the port map say. -/
def portsSwitched (s : State) : State :=
  forEach (fins 8) (fun q s => s.modPort q (portPower (s.mod.attached && (logPort s q).isSome))) s

theorem portsSwitched_within (s : State) : Within [.ports] s (portsSwitched s) :=
  forEach_without _ _ _ _ fun _ _ => modPort_without _ _ _ _ (by decide)

theorem portsSwitched_port (s : State) (q : PPort) :
    (portsSwitched s).ports[q] = portPower (s.mod.attached && (logPort s q).isSome) s.ports[q] := by
  exact forEach_once_mem (I := fun t => t.mod = s.mod) (π := fun t => t.ports[q])
    (f := fun q s => s.modPort q (portPower (s.mod.attached && (logPort s q).isSome)))
    (g := portPower (s.mod.attached && (logPort s q).isSome)) (fun _ _ h => h)
    (fun t ht => ((modPort_port ..).trans (if_pos rfl)).trans (by rw [ht, logPort_congr ht]))
    (fun p t hpq _ => (modPort_port ..).trans (if_neg hpq)) (fins_nodup 8) (mem_fins q) rfl

section Coord

variable {s : State} (hs : regsServed s = true) {v : DWord}
include hs

theorem exec_coordWrite (f : State → State) (hf : effCoord 0 v s = f s) : exec (.coordWrite 0 v) s = .next (f s) :=
  congrArg Host.Outcome.next ((doIf_served hs _).trans hf)

theorem coordWrite_refused (hl : anyLeased s = true) : Does (.coordWrite 0 v) s (Within [.queen] s) := by
  refine does_of_exec (exec_coordWrite hs (logRefusal "WAG_COORD") ?_) (logRefusal_without (by decide))
  unfold effCoord
  rw [hl]
  rfl

variable (hl : anyLeased s = false)
include hl

/-- A write that leaves ATTACHED sets the fields. -/
theorem exec_coordWrite_kept (ha : v.getLsbD 31 = s.mod.attached) :
    exec (.coordWrite 0 v) s = .next (coordTaken v s) := by
  have hm : (coordTaken v s).mod.attached = s.mod.attached := by rw [coordTaken_mod]; exact ha
  refine exec_coordWrite hs (coordTaken v) ?_
  unfold effCoord
  rw [hl]
  exact if_pos hm

/-- A write that changes ATTACHED switches the port domains. -/
theorem exec_coordWrite_switches (ha : v.getLsbD 31 ≠ s.mod.attached) : exec (.coordWrite 0 v) s =
    .next (if v.getLsbD 31 = true then startTraining (portsSwitched (coordTaken v s))
      else forEach (fins 6) restartPort (portsSwitched (coordTaken v s))) := by
  have hm : (coordTaken v s).mod.attached = v.getLsbD 31 := by rw [coordTaken_mod]; rfl
  have hsw : (portsSwitched (coordTaken v s)).mod.attached = v.getLsbD 31 := by
    rw [(portsSwitched_within _).mod_eq (by decide), hm]
  refine exec_coordWrite hs (fun s => if v.getLsbD 31 = true then startTraining (portsSwitched (coordTaken v s))
    else forEach (fins 6) restartPort (portsSwitched (coordTaken v s))) ?_
  unfold effCoord
  rw [hl]
  refine (if_neg (c := (coordTaken v s).mod.attached = s.mod.attached) (hm ▸ ha)).trans ?_
  rw [← hsw]
  rfl

theorem coordWrite_sets (ha : v.getLsbD 31 = s.mod.attached) : Does (.coordWrite 0 v) s fun t =>
    t.mod = coordFields v s.mod ∧ Within [.hum, .mod] s t :=
  does_of_exec (exec_coordWrite_kept hs hl ha) ⟨coordTaken_mod v s, coordTaken_within v s⟩

theorem coordWrite_attaches (h1 : v.getLsbD 31 = true) (h0 : s.mod.attached = false) : Does (.coordWrite 0 v) s fun t =>
    t.mod = coordFields v s.mod ∧
    (∀ (k : Comb) (q : LPort), t.combs[k].router.ports[q].state = if s.combs[k].router.ports[q].state = 0 ∧
      s.combs[k].router.ports[q].stuck = false ∧ s.power.frefLost = false ∧ s.mod.mapEn.getLsbD q.val = true then 1
      else s.combs[k].router.ports[q].state) ∧
    (∀ q : LPort, t.ports[physPort s q].on = true) ∧ Within [.hum, .router, .ports, .mod] s t := by
  refine does_of_exec (exec_coordWrite_switches hs hl (by rw [h1, h0]; decide)) ?_
  rw [if_pos h1]
  have hcm := coordTaken_mod v s
  have hcw := coordTaken_within v s
  generalize coordTaken v s = c at hcm hcw
  have hpw := portsSwitched_within c
  have hport := portsSwitched_port c
  generalize portsSwitched c = u at hpw hport
  have huw : Within [.hum, .ports, .mod] s u := Within.trans (hcw.mono (by decide)) (hpw.mono (by decide))
  have hmod : u.mod = coordFields v s.mod := (hpw.mod_eq (by decide)).trans hcm
  have hphys : ∀ q : LPort, physPort c q = physPort s q := fun q => by simp only [physPort, hcm]; rfl
  have hon : ∀ q : LPort, u.ports[physPort s q].on = true := fun q => by
    rw [hport, ← hphys, logPort_physPort, hcm]
    simp only [coordFields, h1, Bool.and_self, portPower, if_true]
  have htw : Within [.router] u (startTraining u) := startTraining_without (by decide)
  refine ⟨(htw.mod_eq (by decide)).trans hmod, fun k q => ?_, fun q => by rw [htw.ports_eq (by decide), hon q],
    Within.trans (huw.mono (by decide)) (htw.mono (by decide))⟩
  have hdown : downState u q false = 1 ↔ s.power.frefLost = false ∧ s.mod.mapEn.getLsbD q.val = true := by
    have hq : physPort u q = physPort s q := (physPort_congr (hpw.mod_eq (by decide)) q).trans (hphys q)
    simp only [downState_one_iff, hq, hon q, huw.power_eq (by decide), hmod, coordFields, and_true]
  rw [startTraining_port, huw.comb_router k (by decide)]
  simp only [trained, hdown, Bool.not_eq_true']
  split <;> rfl

theorem coordWrite_detaches (h0 : v.getLsbD 31 = false) (h1 : s.mod.attached = true) (hj : Jobless s) :
    Does (.coordWrite 0 v) s fun t => t.mod.attached = false ∧ (∀ q : PPort, t.ports[q] = {}) ∧
      (∀ (k : Comb) (q : LPort), t.combs[k].router.ports[q].state = 0) ∧
      Within [.hum, .router, .ports, .partRegs, .mod] s t := by
  refine does_of_exec (exec_coordWrite_switches hs hl (by rw [h1, h0]; decide)) ?_
  rw [if_neg (by rw [h0]; decide)]
  have hcm := coordTaken_mod v s
  have hcw := coordTaken_within v s
  generalize coordTaken v s = c at hcm hcw
  have hpw := portsSwitched_within c
  have hport := portsSwitched_port c
  generalize portsSwitched c = u at hpw hport
  have huw : Within [.hum, .ports, .mod] s u := Within.trans (hcw.mono (by decide)) (hpw.mono (by decide))
  have hc0 : c.mod.attached = false := by rw [hcm]; exact h0
  have hoff : ∀ q : PPort, u.ports[q] = {} := fun q => by rw [hport, hc0]; rfl
  have hju : Jobless u := fun k q => (jobsOnPort_congr (by rw [huw.comb_router k (by decide)]) q).trans (hj k q)
  obtain ⟨htw, -⟩ := restartPorts_restarting hju (fins 6)
  refine ⟨?_, fun q => by rw [htw.ports_eq (by decide), hoff], fun k q => ?_,
    Within.trans (huw.mono (by decide)) (htw.mono (by decide))⟩
  · rw [htw.mod_eq (by decide), hpw.mod_eq (by decide), hc0]
  · rw [restartPorts_port hju (fins_nodup 6), if_pos (mem_fins q), downState_off (by rw [hoff])]
    rfl

end Coord

/-! ### WAG_PORTMAP (R373, R374) -/

/-- The fields of WAG_PORTMAP. -/
def mapFields (v : Word) (m : ModuleRegs) : ModuleRegs :=
  { m with mapEn := v.extractLsb' 0 6, zpSkip := v.getLsbD 6, znSkip := v.getLsbD 7 }

/-- The port map taken: the port domains follow it, and the parents. -/
def mapTaken (v : Word) (s : State) : State :=
  setParents (forEach (fins 8) (fun q t => mapPower s q t) (s.modMod (mapFields v)))

theorem mapTaken_mod (v : Word) (s : State) : (mapTaken v s).mod = mapFields v s.mod := by
  have hw : Within [.hum, .ports] (s.modMod (mapFields v)) (mapTaken v s) :=
    (setParents_without (by decide)).trans (forEach_without _ _ _ _ fun _ _ => mapPower_without (by decide))
  exact hw.mod_eq (by decide)

theorem mapTaken_within (v : Word) (s : State) : Within [.hum, .ports, .mod] s (mapTaken v s) :=
  (setParents_without (by decide)).trans <|
    (forEach_without _ _ _ _ fun _ _ => mapPower_without (by decide)).trans (modMod_without _ _ _ (by decide))

theorem exec_portmapWrite {s : State} (hs : regsServed s = true) (v : Word) : exec (.portmapWrite 0 v) s =
    .next (startTraining (forEach ((fins 6).filter fun p => portChanged s (mapTaken v s) p) restartPort (mapTaken v s))) :=
  congrArg Host.Outcome.next (doIf_served hs _)

theorem portChanged_congr {s t u : State} (h : t.mod = u.mod) (p : LPort) : portChanged s t p = portChanged s u p := by
  simp only [portChanged, physPort_congr h, h]

/-- A port-map write takes down the ports that it changes and no other. -/
theorem portmapWrite_restarts {s : State} (hs : regsServed s = true) (v : Word) (hj : Jobless s) :
    Does (.portmapWrite 0 v) s fun t => t.mod = mapFields v s.mod ∧
      (∀ (k : Comb) (q : LPort), (portChanged s t q = true → t.combs[k].router.ports[q].state ≠ 2) ∧
        (portChanged s t q = false → portUp s k q = true → portUp t k q = true)) ∧
      Within [.hum, .router, .ports, .partRegs, .mod] s t := by
  refine does_of_exec (exec_portmapWrite hs v) ?_
  have hmod := mapTaken_mod v s
  have huw := mapTaken_within v s
  generalize mapTaken v s = u at hmod huw
  have hju : Jobless u := fun k q => (jobsOnPort_congr (by rw [huw.comb_router k (by decide)]) q).trans (hj k q)
  obtain ⟨hrw, -⟩ := restartPorts_restarting hju ((fins 6).filter fun p => portChanged s u p)
  have hport := restartPorts_port hju ((fins_nodup 6).filter fun p => portChanged s u p)
  generalize forEach ((fins 6).filter fun p => portChanged s u p) restartPort u = w at hrw hport
  have htw : Within [.router] w (startTraining w) := startTraining_without (by decide)
  have htu : (startTraining w).mod = u.mod := (htw.mod_eq (by decide)).trans (hrw.mod_eq (by decide))
  refine ⟨htu.trans hmod, fun k q => ?_, Within.trans (huw.mono (by decide)) (Within.trans (hrw.mono (by decide))
    (htw.mono (by decide)))⟩
  rw [portChanged_congr htu]
  have hq := hport k q
  simp only [List.mem_filter, mem_fins, true_and] at hq
  refine ⟨fun hch => ?_, fun hch hup => ?_⟩
  · rw [startTraining_port]
    refine trained_ne_two ?_ _
    rw [hq, if_pos hch]
    exact downState_ne_two u q false
  · have hw2 : w.combs[k].router.ports[q].state = 2 := by
      rw [hq, if_neg (by rw [hch]; decide), huw.comb_router k (by decide)]
      exact eq_of_beq hup
    simp only [portUp, startTraining_port, trained_up hw2, hw2, beq_self_eq_true]

/-! ### Training ends (R377) -/

section Training

variable {s : State} {k : Comb} {q : LPort}

theorem portResetDone_other (h : s.evt.resetPort ≠ some (k, q)) : portResetDone k q s = s := if_neg h

/-- The reset of a strand-port ends with its training (R488). -/
theorem portResetDone_evt (h : s.evt.resetPort = some (k, q)) : (portResetDone k q s).evt =
    { s.evt with recovery := hit 16 s.evt.recovery, resetBusy := false, resetPort := none, resetSup := none } := by
  unfold portResetDone
  rw [if_pos h]
  exact Within.evt_eq (m := [.out, .host, .mod]) (eventToPf0_without (by decide)) (by decide)

theorem portResetDone_within (k : Comb) (q : LPort) (s : State) : Within [.out, .host, .evt, .mod] s (portResetDone k q s) :=
  portResetDone_without (by decide)

/-- What a strand-port's training leaves of it, where its end is also that of a reset. -/
theorem trainingEnds (f : StrandPort → StrandPort) :
    (portResetDone k q (s.modSPort k q f)).combs[k].router.ports[q] = f s.combs[k].router.ports[q] ∧
    (s.evt.resetPort ≠ some (k, q) → Within [.router] s (portResetDone k q (s.modSPort k q f))) := by
  refine ⟨?_, fun h => ?_⟩
  · rw [(portResetDone_within ..).comb_router k (by decide), modSPort_port, if_pos ⟨rfl, rfl⟩]
  · rw [portResetDone_other (s := s.modSPort k q f) h]
    exact modSPort_without _ _ _ _ _ (by decide)

theorem trainingDone_up (h1 : s.combs[k].router.ports[q].state = 1) (hp : s.combs[k].routerPwr = true)
    (hd : downState s q false = 1) : Does (.trainingDone k q) s fun t => portUp t k q = true ∧
      (s.evt.resetPort ≠ some (k, q) → Within [.router] s t) ∧ (s.evt.resetPort = some (k, q) →
        t.evt.resetPort = none ∧ t.evt.resetBusy = false ∧ t.evt.recovery = hit 16 s.evt.recovery) := by
  obtain ⟨hport, hw⟩ := trainingEnds (s := s) (k := k) (q := q) fun y => { y with state := 2, uncorr := 0 }
  refine does_of_exec (congrArg Host.Outcome.next (if_pos ⟨h1, hp, hd⟩)) ⟨?_, hw, fun h => ?_⟩
  · simp only [portUp, hport, beq_self_eq_true]
  · rw [portResetDone_evt (s := s.modSPort k q _) h]
    exact ⟨rfl, rfl, rfl⟩

theorem trainingTimeout_down (h1 : s.combs[k].router.ports[q].state = 1) : Does (.trainingTimeout k q) s fun t =>
    t.combs[k].router.ports[q].state = 0 ∧ (s.evt.resetPort ≠ some (k, q) → Within [.router] s t) := by
  obtain ⟨hport, hw⟩ := trainingEnds (s := s) (k := k) (q := q) fun y => { y with state := 0 }
  exact does_of_exec (congrArg Host.Outcome.next (if_pos h1)) ⟨by rw [hport], hw⟩

theorem trainingRetry_trains (h0 : s.combs[k].router.ports[q].state = 0) (hk : s.combs[k].router.ports[q].stuck = false)
    (hd : downState s q false = 1) : Does (.trainingRetry k q) s fun t =>
      t.combs[k].router.ports[q].state = 1 ∧ Within [.router] s t := by
  refine does_of_exec (t := trainPort k q s) rfl ⟨?_, trainPort_within k q s⟩
  rw [trainPort_port, if_pos ⟨rfl, rfl⟩, trained, if_pos ⟨h0, by rw [hk]; rfl, hd⟩]

end Training

/-- Settles O45: a written coordinate or port map by what it makes of the fields, the port domains and the strand-ports, the
ends of training each by its own rule. -/
theorem portsTrain : Obligations.PortsTrain := by
  refine fun s => ⟨fun v hs hl => coordWrite_refused hs hl, fun v hs hl ha => ?_, fun v hs hl h1 h0 => ?_,
    fun v hs hl h0 h1 hj => coordWrite_detaches hs hl h0 h1 hj, fun v hs hj => ?_,
    fun k q h1 hp hd => trainingDone_up h1 hp hd, fun k q h1 => trainingTimeout_down h1,
    fun k q h0 hk hd => trainingRetry_trains h0 hk hd⟩
  · obtain ⟨t, ht, hm, hw⟩ := coordWrite_sets hs hl ha
    exact ⟨t, ht, by rw [hm]; rfl, by rw [hm]; rfl, by rw [hm]; rfl, by rw [hm]; rfl, by rw [hm]; rfl, by rw [hm]; rfl,
      by rw [hm]; exact ha, hw⟩
  · obtain ⟨t, ht, hm, hstate, hon, hw⟩ := coordWrite_attaches hs hl h1 h0
    exact ⟨t, ht, by rw [hm]; exact h1, by rw [hm]; rfl, hstate, hon, hw⟩
  · obtain ⟨t, ht, hm, hports, hw⟩ := portmapWrite_restarts hs v hj
    exact ⟨t, ht, by rw [hm]; rfl, by rw [hm]; rfl, by rw [hm]; rfl, hports, hw⟩

end Sys2Proof.PortProofs
end

section
/-! The lanes of a port: hard failures, and the substitution of the spare by lane records (R379–R381). -/

namespace Sys2Proof.LaneProofs

open Sys2Proof Sys2Proof.Machine Sys2Proof.MemoryProofs Sys2Proof.JobFaultProofs Sys2Proof.RingProofs Sys2Proof.PortProofs

/-! ### The registers of a port -/

/-- A port with a lane failed, and no substitution in progress (R379, R380). -/
def laneFailed (rx : Bool) (lane : Fin 16) (y : PortState) : PortState :=
  setSubst true none (setSubst false none (failLane rx lane y))

/-- The FAILED field of a direction. -/
def failedOf (y : PortState) (rx : Bool) : BitVec 17 := if rx then y.failedRx else y.failedTx

section Port

variable (rx : Bool) (lane : Fin 16) (y : PortState)

theorem failedOf_laneFailed : (failedOf (laneFailed rx lane y) rx).getLsbD lane.val = true := by
  have hbit : ∀ lane : Fin 16, (1#17 <<< lane.val).getLsbD lane.val = true := by decide
  cases rx <;> simp [failedOf, laneFailed, failLane, setSubst, hbit lane, -BitVec.getLsbD_shiftLeft]

theorem laneFailed_kept : spareOf (laneFailed rx lane y) rx = spareOf y rx ∧ (laneFailed rx lane y).on = y.on ∧
    (laneFailed rx lane y).subTx = none ∧ (laneFailed rx lane y).subRx = none := by
  cases rx <;> exact ⟨rfl, rfl, rfl, rfl⟩

theorem takeSpare_spare : spareOf (takeSpare rx lane y) rx = BitVec.ofNat 5 lane.val := by cases rx <;> rfl

theorem takeSpare_kept : failedOf (takeSpare rx lane y) rx = failedOf y rx ∧ (takeSpare rx lane y).on = y.on ∧
    (takeSpare rx lane y).subTx = y.subTx ∧ (takeSpare rx lane y).subRx = y.subRx := by cases rx <;> exact ⟨rfl, rfl, rfl, rfl⟩

theorem substOf_setSubst (u : Option Subst) : substOf (setSubst rx u y) rx = u := by cases rx <;> rfl

theorem spareOf_setSubst (u : Option Subst) : spareOf (setSubst rx u y) rx = spareOf y rx := by cases rx <;> rfl

end Port

/-! ### What the counts and the lane records change -/

theorem countSwap_within (k : Comb) (s : State) : Within [.router, .partRegs] s (countSwap k s) := countSwap_without (by decide)

theorem countSwap_router (k : Comb) (s : State) :
    (countSwap k s).combs[k].router = { s.combs[k].router with spareSwap := hit 16 s.combs[k].router.spareSwap } := by
  have hw : ∀ u, Within [.partRegs] u (ewCount k 1 1 u) := fun u => ewCount_without (by decide)
  rw [countSwap, (hw _).comb_router k (by decide), modRouter_router, if_pos rfl]

theorem sendLaneRec_within (p : LPort) (x : BitVec 2 × Nat × Word) (s : State) : Within [.router] s (sendLaneRec p x s) :=
  sendLaneRec_without (by decide)

/-- A lane record waits on every strand of its port (R381). -/
theorem sendLaneRec_router (p : LPort) (x : BitVec 2 × Nat × Word) (s : State) (k : Comb) :
    (sendLaneRec p x s).combs[k].router = { s.combs[k].router with
      ports := upd s.combs[k].router.ports p fun q => { q with laneRecs := q.laneRecs ++ [x] } } := by
  have hc := forEach_combs (m := s.mod) (f := fun k s => s.modSPort k p fun q => { q with laneRecs := q.laneRecs ++ [x] })
    (g := fun _ c => { c with router := { c.router with
      ports := upd c.router.ports p fun q => { q with laneRecs := q.laneRecs ++ [x] } } })
    (fun _ _ _ => rfl) (fins_nodup 8) (s := s) rfl k
  exact congrArg CombState.router (hc.trans (if_pos (mem_fins k)))

theorem sendLaneRec_recs (p : LPort) (x : BitVec 2 × Nat × Word) (s : State) (k : Comb) :
    (sendLaneRec p x s).combs[k].router.ports[p].laneRecs = s.combs[k].router.ports[p].laneRecs ++ [x] := by
  rw [sendLaneRec_router, upd_same]

/-! ### Hard failures (R379) -/

section HardFail

variable {s : State} {q : PPort} {p : LPort} (hl : logPort s q = some p) (ho : s.ports[q].on = true)
include hl ho

theorem exec_laneHardFail_spared {rx : Bool} (hf : spareOf s.ports[q] rx = 31) {lane : Fin 16} {k : Comb} {u : State}
    (hk : strandOf lane.val = k)
    (hu : countSwap k ((s.modPort q (laneFailed rx lane)).modPort q (takeSpare rx lane)) = u) :
    exec (.laneHardFail q rx lane) s = .next (strandDown k p (failedMask u p) u.combs[k].router.ports[p].stuck u) := by
  subst hk hu
  show Host.Outcome.next (effLaneFail q rx lane s) = _
  unfold effLaneFail
  rw [hl]
  simp only [ho, hf]
  rfl

theorem exec_laneHardFail_down {rx : Bool} (hf : spareOf s.ports[q] rx ≠ 31) {lane : Fin 16} {k : Comb}
    (hk : strandOf lane.val = k) : exec (.laneHardFail q rx lane) s =
    .next (strandDown k p (failedMask (s.modPort q (laneFailed rx lane)) p) true (s.modPort q (laneFailed rx lane))) := by
  subst hk
  show Host.Outcome.next (effLaneFail q rx lane s) = _
  unfold effLaneFail
  rw [hl]
  simp only [ho, hf]
  rfl

variable {rx : Bool} {lane : Fin 16} {k : Comb} (hk : strandOf lane.val = k) (hj : jobsOnPort s.combs[k] p = [])
include hk hj

/-- A free spare takes the failed lane, and the strand-port trains again with it. -/
theorem laneHardFail_spared (hf : spareOf s.ports[q] rx = 31) : Does (.laneHardFail q rx lane) s fun t =>
    t.ports[q] = takeSpare rx lane (laneFailed rx lane s.ports[q]) ∧ Within [.hum, .router, .ports, .partRegs] s t ∧
    t.combs[k].router.spareSwap = hit 16 s.combs[k].router.spareSwap ∧
    t.combs[k].router.ports[p].state = downState s p s.combs[k].router.ports[p].stuck := by
  have hw := countSwap_within k ((s.modPort q (laneFailed rx lane)).modPort q (takeSpare rx lane))
  have hr := countSwap_router k ((s.modPort q (laneFailed rx lane)).modPort q (takeSpare rx lane))
  generalize hu : countSwap k _ = u at hw hr
  have hport : u.ports[q] = takeSpare rx lane (laneFailed rx lane s.ports[q]) := by
    rw [hw.ports_eq (by decide), modPort_port, modPort_port, if_pos rfl, if_pos rfl]
  have hon : u.ports[q].on = s.ports[q].on := by
    rw [hport, (takeSpare_kept ..).2.1, (laneFailed_kept ..).2.1]
  have hdown : ∀ stuck, downState u p stuck = downState s p stuck := downState_congr (s := s) (hw.mod_eq (by decide))
    (hw.power_eq (by decide)) (by simpa only [physPort_of_logPort hl] using hon)
  have hju : jobsOnPort u.combs[k] p = [] := (jobsOnPort_congr (by rw [hr]; rfl) p).trans hj
  have hsw : Within [.router, .ports, .partRegs] s u := Within.trans
    ((modPort_without _ _ _ _ (by decide)).trans (modPort_without _ _ _ _ (by decide))) (hw.mono (by decide))
  have hdw := strandDown_within hju (failedMask u p) u.combs[k].router.ports[p].stuck
  refine does_of_exec (exec_laneHardFail_spared hl ho hf hk hu) ⟨?_, Within.trans (hsw.mono (by decide)) (hdw.mono (by decide)),
    ?_, ?_⟩
  · rw [hdw.ports_eq (by decide), hport]
  · rw [strandDown_router hju, State.modSPort, modRouter_router, if_pos rfl, hr]
    rfl
  · rw [strandDown_port hju, if_pos ⟨rfl, rfl⟩, hdown, hr]
    rfl

/-- With the spare in use the strand-port stays down. -/
theorem laneHardFail_down (hf : spareOf s.ports[q] rx ≠ 31) : Does (.laneHardFail q rx lane) s fun t =>
    t.ports[q] = laneFailed rx lane s.ports[q] ∧ Within [.hum, .router, .ports, .partRegs] s t ∧
    t.combs[k].router.ports[p].state = 0 ∧ t.combs[k].router.ports[p].stuck = true := by
  have hju : jobsOnPort (s.modPort q (laneFailed rx lane)).combs[k] p = [] := hj
  have hdw := strandDown_within hju (failedMask (s.modPort q (laneFailed rx lane)) p) true
  have hport := strandDown_port hju (failedMask (s.modPort q (laneFailed rx lane)) p) true k p
  rw [if_pos ⟨rfl, rfl⟩, downState_stuck] at hport
  refine does_of_exec (exec_laneHardFail_down hl ho hf hk) ⟨?_, Within.trans (modPort_without _ _ _ _ (by decide))
    (hdw.mono (by decide)), by rw [hport]; rfl, by rw [hport]; rfl⟩
  rw [hdw.ports_eq (by decide), modPort_port, if_pos rfl]

end HardFail

/-! ### Lane warnings and the records of a substitution (R380, R381) -/

/-- LANE_WARN of a strand counted. -/
def laneWarned (k : Comb) (s : State) : State := ewCount k 3 1 (s.modRouter k fun r => { r with laneWarn := hit 16 r.laneWarn })

section Warn

variable (k : Comb) (s : State)

theorem laneWarned_within : Within [.router, .partRegs] s (laneWarned k s) :=
  (ewCount_without (by decide)).trans (modRouter_without _ _ _ _ (by decide))

theorem laneWarned_router (j : Comb) : (laneWarned k s).combs[j].router =
    if k = j then { s.combs[j].router with laneWarn := hit 16 s.combs[j].router.laneWarn } else s.combs[j].router := by
  have hw : ∀ u, Within [.partRegs] u (ewCount k 3 1 u) := fun u => ewCount_without (by decide)
  rw [laneWarned, (hw _).comb_router j (by decide), modRouter_router]

theorem laneWarned_ports (j : Comb) : (laneWarned k s).combs[j].router.ports = s.combs[j].router.ports := by
  rw [laneWarned_router]
  split <;> rfl

end Warn

section Window

variable {s : State} {q : PPort} {p : LPort} (hl : logPort s q = some p) (ho : s.ports[q].on = true) (lane : Fin 16)
include hl ho

theorem exec_laneErrorWindow : exec (.laneErrorWindow q lane) s =
    .next (if s.ports[q].spareRx = 31 ∧ s.ports[q].subRx = none then
      sendLaneRec p (1, lane.val, 0) ((laneWarned (strandOf lane.val) s).modPort q (setSubst true (some { lane := lane })))
      else laneWarned (strandOf lane.val) s) := by
  have hports : (laneWarned (strandOf lane.val) s).ports = s.ports := (laneWarned_within ..).ports_eq (by decide)
  show Host.Outcome.next (effLaneWarn q lane s) = _
  rw [← hports]
  unfold effLaneWarn
  rw [hl]
  simp only [ho]
  rfl

/-- A warning counts; with a free receive spare a substitution begins. -/
theorem laneErrorWindow_warns : Does (.laneErrorWindow q lane) s fun t =>
    t.combs[strandOf lane.val].router.laneWarn = hit 16 s.combs[strandOf lane.val].router.laneWarn ∧
    Within [.router, .ports, .partRegs] s t ∧
    if s.ports[q].spareRx = 31 ∧ s.ports[q].subRx = none then t.ports[q] = { s.ports[q] with subRx := some { lane := lane } } ∧
      ∀ k : Comb, t.combs[k].router.ports[p].laneRecs = s.combs[k].router.ports[p].laneRecs ++ [(1, lane.val, 0)]
    else t.ports = s.ports := by
  refine does_of_exec (exec_laneErrorWindow hl ho lane) ?_
  have hw := laneWarned_within (strandOf lane.val) s
  have hr := laneWarned_router (strandOf lane.val) s (strandOf lane.val)
  have hp := laneWarned_ports (strandOf lane.val) s
  generalize laneWarned (strandOf lane.val) s = u at hw hr hp
  rw [if_pos rfl] at hr
  by_cases hc : s.ports[q].spareRx = 31 ∧ s.ports[q].subRx = none
  · rw [if_pos hc, if_pos hc]
    have hs := sendLaneRec_within p (1, lane.val, 0) (u.modPort q (setSubst true (some { lane := lane })))
    refine ⟨?_, Within.trans (hw.mono (by decide)) (Within.trans (modPort_without _ _ _ _ (by decide)) (hs.mono (by decide))), ?_,
      fun k => ?_⟩
    · rw [sendLaneRec_router, modPort_combs, hr]
    · rw [hs.ports_eq (by decide), modPort_port, if_pos rfl, hw.ports_eq (by decide)]
      rfl
    · rw [sendLaneRec_recs, modPort_combs, hp]
  · rw [if_neg hc, if_neg hc]
    exact ⟨by rw [hr], hw.mono (by decide), hw.ports_eq (by decide)⟩

end Window

section Records

variable {s : State}

/-- A substitution set in progress on a port, its record sent on every strand. -/
theorem substituted (q : PPort) (p : LPort) (rx : Bool) (u : Subst) (x : BitVec 2 × Nat × Word) :
    (sendLaneRec p x (s.modPort q (setSubst rx (some u)))).ports[q] = setSubst rx (some u) s.ports[q] ∧
    (∀ j : Comb, (sendLaneRec p x (s.modPort q (setSubst rx (some u)))).combs[j].router.ports[p].laneRecs =
      s.combs[j].router.ports[p].laneRecs ++ [x]) ∧
    Within [.router, .ports] s (sendLaneRec p x (s.modPort q (setSubst rx (some u)))) := by
  have hs := sendLaneRec_within p x (s.modPort q (setSubst rx (some u)))
  refine ⟨?_, fun j => by rw [sendLaneRec_recs, modPort_combs], Within.trans (modPort_without _ _ _ _ (by decide))
    (hs.mono (by decide))⟩
  rw [hs.ports_eq (by decide), modPort_port, if_pos rfl]

variable {k : Comb} {p : LPort} {lane : Fin 16}

theorem spareReq_answers (hw : lowestUp s k p = true) (hf : s.ports[physPort s p].spareTx = 31)
    (hn : s.ports[physPort s p].subTx = none) : Does (.spareReq k p lane) s fun t =>
      t.ports[physPort s p] = { s.ports[physPort s p] with subTx := some { lane := lane, ack := true } } ∧
      (∀ j : Comb, t.combs[j].router.ports[p].laneRecs = s.combs[j].router.ports[p].laneRecs ++ [(2, lane.val, 0)]) ∧
      Within [.router, .ports] s t :=
  does_of_exec (congrArg Host.Outcome.next (if_pos ⟨hw, hf, hn⟩))
    (substituted (physPort s p) p false { lane := lane, ack := true } (2, lane.val, 0))

theorem spareAck_trains (hw : lowestUp s k p = true) (hn : s.ports[physPort s p].subRx = some { lane := lane }) :
    Does (.spareAck k p lane) s fun t =>
      t.ports[physPort s p] = { s.ports[physPort s p] with subRx := some { lane := lane, ack := true } } ∧ Within [.ports] s t :=
  does_of_exec (congrArg Host.Outcome.next (if_pos ⟨hw, hn⟩))
    ⟨(modPort_port ..).trans (if_pos rfl), modPort_without _ _ _ _ (by decide)⟩

theorem spareSwitch_names (frame : Word) (hw : lowestUp s k p = true)
    (hn : s.ports[physPort s p].subTx = some { lane := lane, ack := true }) : Does (.spareSwitch k p lane frame) s fun t =>
      t.ports[physPort s p].subTx = some { lane := lane, ack := true, frame := some frame } ∧ Within [.ports] s t := by
  refine does_of_exec (congrArg Host.Outcome.next (if_pos ⟨hw, hn⟩)) ⟨?_, modPort_without _ _ _ _ (by decide)⟩
  rw [modPort_port, if_pos rfl]
  rfl

/-- The trained spare's receiver names a switch frame 16 to 2³¹ − 1 frames ahead. -/
theorem spareTrainDone_names {q : PPort} {frame : Word} (hl : logPort s q = some p)
    (hn : s.ports[q].subRx = some { lane := lane, ack := true })
    (h16 : 16 ≤ (frame - w32 (frameOf s (strandOf lane.val))).toNat)
    (h31 : (frame - w32 (frameOf s (strandOf lane.val))).toNat < 2147483648) : Does (.spareTrainDone q frame) s fun t =>
      t.ports[q].subRx = some { lane := lane, ack := true, frame := some frame } ∧
      (∀ j : Comb, t.combs[j].router.ports[p].laneRecs = s.combs[j].router.ports[p].laneRecs ++ [(3, lane.val, frame)]) ∧
      Within [.router, .ports] s t := by
  obtain ⟨hport, hrecs, hw⟩ := substituted (s := s) q p true { lane := lane, ack := true, frame := some frame }
    (3, lane.val, frame)
  refine does_of_exec (congrArg Host.Outcome.next ?_) ⟨by rw [hport]; rfl, hrecs, hw⟩
  unfold effSpareTrained
  rw [hn, hl]
  exact if_pos ⟨rfl, rfl, h16, h31⟩

/-- At slot 0 of the switch frame the spare takes the lane. -/
theorem spareSwitchFrame_moves {q : PPort} {rx : Bool} {u : Subst} (hn : substOf s.ports[q] rx = some u)
    (hf : u.frame = some (w32 (frameOf s (strandOf u.lane.val)))) (h0 : slotOf s (strandOf u.lane.val) = 0) :
    Does (.spareSwitchFrame q rx) s fun t => spareOf t.ports[q] rx = BitVec.ofNat 5 u.lane.val ∧ substOf t.ports[q] rx = none ∧
      t.combs[strandOf u.lane.val].router.spareSwap = hit 16 s.combs[strandOf u.lane.val].router.spareSwap ∧
      Within [.router, .ports, .partRegs] s t := by
  have hexec : exec (.spareSwitchFrame q rx) s = .next (countSwap (strandOf u.lane.val)
      (s.modPort q fun y => setSubst rx none (takeSpare rx u.lane y))) := by
    refine congrArg Host.Outcome.next ?_
    unfold effSpareSwitch
    rw [hn]
    exact if_pos ⟨hf, h0⟩
  have hw := countSwap_within (strandOf u.lane.val) (s.modPort q fun y => setSubst rx none (takeSpare rx u.lane y))
  refine does_of_exec hexec ⟨?_, ?_, by rw [countSwap_router, modPort_combs],
    Within.trans (modPort_without _ _ _ _ (by decide)) (hw.mono (by decide))⟩ <;>
    rw [hw.ports_eq (by decide), modPort_port, if_pos rfl]
  · rw [spareOf_setSubst, takeSpare_spare]
  · exact substOf_setSubst ..

end Records

/-- Settles O46: a hard failure by whether the spare is free, a warning and the records of a substitution each by its own rule. -/
theorem lanesAreSpared : Obligations.LanesAreSpared := by
  refine fun s => ⟨fun q rx lane p hl ho hj => ?_, fun q lane p hl ho => laneErrorWindow_warns hl ho lane,
    fun k p lane hw hf hn => spareReq_answers hw hf hn, fun k p lane hw hn => spareAck_trains hw hn,
    fun q p lane frame hl hn h16 h31 => spareTrainDone_names hl hn h16 h31,
    fun k p lane frame hw hn => spareSwitch_names frame hw hn, fun q rx u hn hf h0 => spareSwitchFrame_moves hn hf h0⟩
  obtain ⟨hspare, -, htx, hrx⟩ := laneFailed_kept rx lane s.ports[q]
  have hbit := failedOf_laneFailed rx lane s.ports[q]
  by_cases hf : spareOf s.ports[q] rx = 31
  · obtain ⟨t, ht, hport, hw, hswap, hstate⟩ := laneHardFail_spared hl ho rfl hj hf
    obtain ⟨hfailed, -, htx', hrx'⟩ := takeSpare_kept rx lane (laneFailed rx lane s.ports[q])
    rw [← hport] at hfailed htx' hrx'
    rw [← hfailed] at hbit
    exact ⟨t, ht, hbit, htx'.trans htx, hrx'.trans hrx, hw,
      fun _ => ⟨by rw [hport, takeSpare_spare], hswap, hstate⟩, fun h => absurd hf h⟩
  · obtain ⟨t, ht, hport, hw, hstate⟩ := laneHardFail_down hl ho rfl hj hf
    rw [← hport] at hspare htx hrx hbit
    exact ⟨t, ht, hbit, htx, hrx, hw, fun h => absurd h hf, fun _ => ⟨hspare, hstate⟩⟩

end Sys2Proof.LaneProofs
end

section
/-! Job entries, slot-table entries, and the commit and release of leases (R382–R386, R411). -/

namespace Sys2Proof.LeaseProofs

open Sys2Proof Sys2Proof.Machine Sys2Proof.MemoryProofs Sys2Proof.JobFaultProofs Sys2Proof.RingProofs Sys2Proof.PortProofs

/-! ### WAG_JOB (R382, R411) -/

theorem modJob_job (s : State) (k : Comb) (i j : JobIx) (f : JobEntry → JobEntry) : (s.modJob k i f).combs[k].router.jobs[j] =
    if i = j then f s.combs[k].router.jobs[j] else s.combs[k].router.jobs[j] := by
  rw [State.modJob, modRouter_router, if_pos rfl]
  simp only [Fin.getElem_fin, upd_get, Fin.ext_iff]

/-- The fields of a written job entry are those of the value. -/
theorem jobFields_fields (v : DWord) (e : JobEntry) : (jobFields v e).jobId = v.setWidth 32 ∧
    (jobFields v e).role = v.extractLsb' 32 2 ∧ (jobFields v e).vparent = v.extractLsb' 34 4 ∧
    (jobFields v e).vchild = v.extractLsb' 38 6 ∧ (jobFields v e).aports = v.extractLsb' 44 6 := by
  unfold jobFields
  dsimp only
  split <;> exact ⟨rfl, rfl, rfl, rfl, rfl⟩

/-- Whether a write to a job entry is refused (R382). -/
def JobRefused (s : State) (k : Comb) (j : JobIx) (v : DWord) : Prop :=
  v.extractLsb' 32 2 = (3 : BitVec 2) ∨ v.extractLsb' 32 2 = (1 : BitVec 2) ∧ memberRefused s k j v = true

section JobWrite

variable {s : State} {k : Comb} {j : JobIx} {v : DWord}

theorem exec_wagJobWrite_leased (h : s.combs[k].router.jobs[j].leased = true) : exec (.wagJobWrite 0 k j v) s = .next s := by
  have he : effJobWrite 0 k j v s = s := if_pos (.inr h)
  refine congrArg Host.Outcome.next ?_
  unfold doIf
  rw [he, ite_self]

variable (hs : regsServed s = true) (h : s.combs[k].router.jobs[j].leased = false)
include hs h

theorem exec_wagJobWrite (f : State → State) (hf : (if v.extractLsb' 32 2 = (3 : BitVec 2) then logRefusal "WAG_JOB" s
    else if v.extractLsb' 32 2 = (1 : BitVec 2) ∧ memberRefused s k j v = true then logRefusal "WAG_JOB" s
    else s.modJob k j (jobFields v)) = f s) : exec (.wagJobWrite 0 k j v) s = .next (f s) := by
  have hgo : ¬ ((0 : Fn).val ≠ 0 ∨ s.combs[k].router.jobs[j].leased = true) := by
    rw [h]
    decide
  exact congrArg Host.Outcome.next ((doIf_served hs _).trans ((if_neg hgo).trans hf))

theorem wagJobWrite_refused (hr : JobRefused s k j v) : Does (.wagJobWrite 0 k j v) s (Within [.queen] s) := by
  refine does_of_exec (exec_wagJobWrite hs h (logRefusal "WAG_JOB") ?_) (logRefusal_without (by decide))
  rcases hr with h3 | h1
  · exact if_pos h3
  · rw [if_pos h1, ite_self]

theorem wagJobWrite_sets (hr : ¬ JobRefused s k j v) : Does (.wagJobWrite 0 k j v) s fun t =>
    t.combs[k].router.jobs[j].jobId = v.setWidth 32 ∧ t.combs[k].router.jobs[j].role = v.extractLsb' 32 2 ∧
    t.combs[k].router.jobs[j].vparent = v.extractLsb' 34 4 ∧ t.combs[k].router.jobs[j].vchild = v.extractLsb' 38 6 ∧
    t.combs[k].router.jobs[j].aports = v.extractLsb' 44 6 ∧
    (∀ i : JobIx, i ≠ j → t.combs[k].router.jobs[i] = s.combs[k].router.jobs[i]) ∧ Within [.router] s t := by
  obtain ⟨h3, h1⟩ := not_or.1 hr
  refine does_of_exec (exec_wagJobWrite hs h (fun s => s.modJob k j (jobFields v)) ?_) ?_
  · rw [if_neg h3, if_neg h1]
  · obtain ⟨hid, hrole, hparent, hchild, hports⟩ := jobFields_fields v s.combs[k].router.jobs[j]
    have hj := (modJob_job s k j j (jobFields v)).trans (if_pos rfl)
    refine ⟨by rw [hj, hid], by rw [hj, hrole], by rw [hj, hparent], by rw [hj, hchild], by rw [hj, hports], fun i hi => ?_,
      modJob_without _ _ _ _ _ (by decide)⟩
    rw [modJob_job, if_neg hi.symm]

end JobWrite

/-! ### WAG_LEASE (R383, R384) -/

theorem leaseKey_inj {rx rx' : Bool} {p p' : LPort} {slot slot' : Fin 512} :
    leaseKey rx' p'.val slot'.val = leaseKey rx p.val slot.val ↔ rx' = rx ∧ p' = p ∧ slot' = slot := by
  have hp := p.isLt
  have hp' := p'.isLt
  have hs := slot.isLt
  have hs' := slot'.isLt
  simp only [leaseKey, Fin.ext_iff]
  cases rx <;> cases rx' <;> simp <;> omega

/-- Switching power domains leaves the slot tables. -/
theorem powerAll_lease (s : State) (k : Comb) : (powerAll s).combs[k].router.lease = s.combs[k].router.lease := by
  have hcomb : ∀ b h (c : CombState), (powerComb b h c).router.lease = c.router.lease := fun b h c => by
    unfold powerComb
    dsimp only
    split <;> split <;> rfl
  unfold powerAll
  refine forEach_keeps (α := Fin 8) (fun s => s.combs[k].router.lease) (fins 8) _ s fun j t => ?_
  have hw : ∀ u, Within [.draws, .superMem, .superTree, .superKeys, .superRegs] u (powerSuper j u) := fun u =>
    powerSuper_without (by decide)
  rw [(hw _).comb_router k (by decide)]
  simp only [Fin.getElem_fin, modComb_get]
  split
  · exact hcomb ..
  · rfl

section LeaseWrite

variable {s : State} (hs : regsServed s = true) {k : Comb} {rx : Bool} {p : LPort} {slot : Fin 512} {v : BitVec 16}
include hs

theorem exec_wagLeaseWrite : exec (.wagLeaseWrite 0 k rx p slot v) s =
    .next (if leaseRefused s.combs[k] rx p slot v = true then logRefusal "WAG_LEASE" s
      else powerAll (s.modRouter k fun r => { r with lease := tabSet 0 r.lease (leaseKey rx p.val slot.val) (v &&& 0x1FF) })) :=
  congrArg Host.Outcome.next (doIf_served hs _)

theorem wagLeaseWrite_refused (h : leaseRefused s.combs[k] rx p slot v = true) :
    Does (.wagLeaseWrite 0 k rx p slot v) s (Within [.queen] s) :=
  does_of_exec ((exec_wagLeaseWrite hs).trans (congrArg _ (if_pos h))) (logRefusal_without (by decide))

theorem wagLeaseWrite_stores (h : leaseRefused s.combs[k] rx p slot v = false) : Does (.wagLeaseWrite 0 k rx p slot v) s fun t =>
    ∀ (rx' : Bool) (p' : LPort) (slot' : Fin 512), leaseAt t.combs[k] rx' p'.val slot'.val =
      if rx' = rx ∧ p' = p ∧ slot' = slot then v &&& 0x1FF else leaseAt s.combs[k] rx' p'.val slot'.val := by
  refine does_of_exec ((exec_wagLeaseWrite hs).trans (congrArg _ (if_neg (by rw [h]; decide)))) fun rx' p' slot' => ?_
  unfold leaseAt
  rw [powerAll_lease, modRouter_router, if_pos rfl, tabGet_tabSet]
  simp only [leaseKey_inj]

end LeaseWrite

/-! ### Commit and release (R385) -/

/-- A commit or release with its result code: LEASED is written where it is 0. -/
def leaseJudged (k : Comb) (j err : BitVec 4) (v : Bool) (s : State) : State :=
  let u := s.modRouter k fun r => { r with cmtErr := err }
  if err = 0 then judgeComb k (setLeased k j v u) else u

theorem setLeased_eq (k : Comb) (j : JobIx) (v : Bool) (s : State) :
    setLeased k (BitVec.ofNat 4 j.val) v s = s.modJob k j fun e => { e with leased := v } := by
  have hj : (BitVec.ofNat 4 j.val).toNat = j.val := by
    rw [BitVec.toNat_ofNat]
    exact Nat.mod_eq_of_lt (by have := j.isLt; omega)
  have hx : ∀ h : (BitVec.ofNat 4 j.val).toNat < 12, (⟨(BitVec.ofNat 4 j.val).toNat, h⟩ : JobIx) = j := fun _ => Fin.ext hj
  unfold setLeased
  rw [dif_pos (by rw [hj]; exact j.isLt), hx]

theorem leaseJudged_does (k : Comb) (j : JobIx) (err : BitVec 4) (v : Bool) (s : State) :
    (leaseJudged k (BitVec.ofNat 4 j.val) err v s).combs[k].router.cmtErr = err ∧
    (leaseJudged k (BitVec.ofNat 4 j.val) err v s).combs[k].router.jobs[j].leased =
      (if err = 0 then v else s.combs[k].router.jobs[j].leased) ∧
    Within [.ctx, .router] s (leaseJudged k (BitVec.ofNat 4 j.val) err v s) := by
  have hu : Within [.ctx, .router] s (s.modRouter k fun r => { r with cmtErr := err }) := modRouter_without _ _ _ _ (by decide)
  have hr := (modRouter_router s k k fun r => { r with cmtErr := err }).trans (if_pos rfl)
  by_cases h0 : err = 0
  · have he : leaseJudged k (BitVec.ofNat 4 j.val) err v s =
        judgeComb k ((s.modRouter k fun r => { r with cmtErr := err }).modJob k j fun e => { e with leased := v }) := by
      rw [← setLeased_eq]
      exact if_pos h0
    have hjudge : ∀ t, Within [.ctx] t (judgeComb k t) := fun t => judgeComb_without (by decide)
    rw [he, if_pos h0, (hjudge _).comb_router k (by decide)]
    refine ⟨?_, by rw [modJob_job, if_pos rfl], Within.trans hu (Within.trans (modJob_without _ _ _ _ _ (by decide))
      ((hjudge _).mono (by decide)))⟩
    rw [State.modJob, modRouter_router, if_pos rfl, hr]
  · have he : leaseJudged k (BitVec.ofNat 4 j.val) err v s = s.modRouter k fun r => { r with cmtErr := err } := if_neg h0
    rw [he, if_neg h0]
    exact ⟨by rw [hr], by rw [hr], hu⟩

section Commit

variable {s : State} (hs : regsServed s = true) (k : Comb) (j : BitVec 4)
include hs

theorem exec_leaseCommit : exec (.leaseCommit 0 k j) s = .next (leaseJudged k j (commitErr s k j) true s) :=
  congrArg Host.Outcome.next (if_neg (by rw [hs]; decide))

theorem exec_leaseRelease : exec (.leaseRelease 0 k j) s = .next (leaseJudged k j (releaseErr s k j) false s) :=
  congrArg Host.Outcome.next (if_neg (by rw [hs]; decide))

end Commit

/-- Settles O47: a written entry by whether it is refused, a commit and a release by their result codes. -/
theorem leasesAreGuarded : Obligations.LeasesAreGuarded := by
  refine fun s => ⟨fun k j v hs h => ⟨fun hr => wagJobWrite_refused hs h hr, fun hr => wagJobWrite_sets hs h ?_⟩,
    fun k j v h => exec_wagJobWrite_leased h,
    fun k rx p slot v hs => ⟨wagLeaseWrite_refused hs, wagLeaseWrite_stores hs⟩, fun k j hs => ?_, fun k j hs => ?_⟩
  · rintro (h3 | ⟨h1, hm⟩)
    · rw [h3] at hr
      simp at hr
    · rw [h1, hm] at hr
      simp at hr
  · obtain ⟨herr, hleased, hw⟩ := leaseJudged_does k j (commitErr s k (BitVec.ofNat 4 j.val)) true s
    refine does_of_exec (exec_leaseCommit hs k _) ⟨herr, hleased.trans ?_, hw⟩
    by_cases h0 : commitErr s k (BitVec.ofNat 4 j.val) = 0
    · rw [if_pos h0, decide_eq_true h0, Bool.or_true]
    · rw [if_neg h0, decide_eq_false h0, Bool.or_false]
  · obtain ⟨herr, hleased, hw⟩ := leaseJudged_does k j (releaseErr s k (BitVec.ofNat 4 j.val)) false s
    refine does_of_exec (exec_leaseRelease hs k _) ⟨herr, hleased.trans ?_, hw⟩
    by_cases h0 : releaseErr s k (BitVec.ofNat 4 j.val) = 0
    · rw [if_pos h0, decide_eq_false (not_not.2 h0), Bool.and_false]
    · rw [if_neg h0, decide_eq_true h0, Bool.and_true]

end Sys2Proof.LeaseProofs
end

section
/-! Slots and their flits: local and transit slots, received flits, and their writes (R57, R119, R387–R389, R393–R398). -/

namespace Sys2Proof.FlitProofs

open Sys2Proof Sys2Proof.Machine Sys2Proof.MemoryProofs Sys2Proof.JobFaultProofs Sys2Proof.RingProofs Sys2Proof.DescriptorProofs
  Sys2Proof.PortProofs

/-! ### A flit leaves its router (R393, R395, R396) -/

theorem modFlow_router (k : Comb) (tx : Bool) (i : Nat) (g : FlowRt → FlowRt) (s : State) :
    (modFlow k tx i g s).combs[k].router = { s.combs[k].router with
      flows := s.combs[k].router.flows.map fun f => if f.tx = tx ∧ f.index = i then g f else f } := by
  rw [modFlow, modRouter_router, if_pos rfl]

/-- A job entry after one flit of its job has left. -/
def seqAdvanced (j : JobIx) (r : Router) : Router :=
  { r with jobs := upd r.jobs j fun e => { e with seq := e.seq + 1 }, txFlits := r.txFlits + 1 }

/-- A counter below its limit advances and raises nothing. -/
theorem advanceSeq_below {p : Part} {k : Comb} {j : JobIx} {s : State}
    (h : s.combs[k].router.jobs[j].seq + 1 ≠ BitVec.allOnes 64) : advanceSeq p k j s = s.modRouter k (seqAdvanced j) := by
  have hr : (s.modRouter k (seqAdvanced j)).combs[k].router.jobs[j].seq = s.combs[k].router.jobs[j].seq + 1 := by
    rw [modRouter_router, if_pos rfl, seqAdvanced, upd_same]
  exact if_neg (c := (s.modRouter k (seqAdvanced j)).combs[k].router.jobs[j].seq = BitVec.allOnes 64) (hr ▸ h)

/-- Flit x went out on a port in this slot, its job's counter not advanced yet. -/
structure FlitOut (k : Comb) (q : LPort) (x : Flit) (s t : State) : Prop where
  out : t.out = .frame k q (linkWord s k 1) (some x) :: s.out
  jobs : t.combs[k].router.jobs = s.combs[k].router.jobs
  txFlits : t.combs[k].router.txFlits = s.combs[k].router.txFlits
  within : Within [.out, .draws, .seq, .router, .rings, .sems] s t

/-- The meta that a claimed slot carries (R393, R396): the head flit's where it is ready, else a pad's; `t`: where the head flit
completes a transfer of a MOVE, its semaphore counts it (R119). -/
def MetaOfHead (s t : State) (p : Part) (k : Comb) (f : FlowRt) (fl : Flow) (d : Nat) (m : FlitMeta) : Prop :=
  m.beat = s.combs[k].hum.beat ∧ match f.queue.head? with
  | some y => if flitReady s k fl d y = true then m.pad = false ∧ m.payload = padTo 512 y.data ∧
      m.tokens = BitVec.ofNat 16 y.tokens ∧ m.dstSpace = y.dstSpace ∧
      (∀ i, y.sem = some i → semVal t p i = semVal s p i + 1) else m.pad = true
  | none => m.pad = true

section Sending

variable {s : State} {p : Part} {k : Comb} {q : LPort} {j : JobIx} {f : FlowRt} {fl : Flow} {d : Nat}

theorem sendPad_out (e : JobEntry) (i : Nat) : FlitOut k q (mkFlit s k e i (padMeta s k)) s (sendPad k q e i s) :=
  ⟨rfl, rfl, rfl, sendPad_without (by decide)⟩

/-- The head flit leaves its queue, for its descriptor and its transfer (R119, R399). -/
def headSent (p : Part) (k : Comb) (i : Nat) (y : QFlit) (g : FlowRt → FlowRt) (s : State) : State :=
  sentForMove p y (sentForDesc p k y (modFlow k true i g s))

theorem headSent_kept (i : Nat) (y : QFlit) (g : FlowRt → FlowRt) :
    (headSent p k i y g s).out = s.out ∧ (headSent p k i y g s).combs[k].router.jobs = s.combs[k].router.jobs ∧
    (headSent p k i y g s).combs[k].router.txFlits = s.combs[k].router.txFlits ∧
    Within [.seq, .router, .rings, .sems] s (headSent p k i y g s) ∧
    ∀ m, y.sem = some m → semVal (headSent p k i y g s) p m = semVal s p m + 1 := by
  have hr := modFlow_router k true i g s
  have hf : Within [.router] s (modFlow k true i g s) := modFlow_without (by decide)
  have hd : Within [.rings] (modFlow k true i g s) (sentForDesc p k y (modFlow k true i g s)) := sentForDesc_without (by decide)
  have hm : Within [.seq, .rings, .sems] (sentForDesc p k y (modFlow k true i g s)) (headSent p k i y g s) :=
    sentForMove_without (by decide)
  refine ⟨by rw [hm.out_eq (by decide), hd.out_eq (by decide), hf.out_eq (by decide)], ?_, ?_,
    (hf.mono (by decide)).trans ((hd.mono (by decide)).trans (hm.mono (by decide))), fun m hy => ?_⟩
  · rw [hm.comb_router k (by decide), hd.comb_router k (by decide), hr]
  · rw [hm.comb_router k (by decide), hd.comb_router k (by decide), hr]
  · have hsem : semVal (sentForDesc p k y (modFlow k true i g s)) p m = semVal s p m :=
      semVal_congr ((hd.part_sems p (by decide)).trans (hf.part_sems p (by decide))) m
    have he : headSent p k i y g s = semApply p m true 1 (sentForDesc p k y (modFlow k true i g s)) := by
      unfold headSent sentForMove
      rw [hy]
    rw [he, semApply, semVal_semWrite, if_pos rfl, if_pos rfl, hsem]

/-- Where a head flit goes: its flow's receive window gives it its place, or it names its own (R400). -/
def headDst (f : FlowRt) (fl : Flow) (y : QFlit) : DWord :=
  if (fl.dispatch || y.desc.isNone) = true then w64 (fl.rxBase + 512 * (f.sent % fl.rxFlits)) else y.dst

/-- A flow whose head flit has left its queue. -/
def headTaken (fl : Flow) (y : QFlit) (g : FlowRt) : FlowRt :=
  { g with queue := g.queue.drop 1, sent := (if (fl.dispatch || y.desc.isNone) = true then g.sent + 1 else g.sent)
           beatTokens := g.beatTokens + y.tokens, beatFlits := g.beatFlits + 1 }

theorem sendClaimed_ready {y : QFlit} {r : List QFlit} (hq : f.queue = y :: r) (hready : flitReady s k fl d y = true) :
    sendClaimed p k q j f fl d s = advanceSeq p k j (headSent p k f.index y (headTaken fl y) (sendFrame k q 1
      (some (mkFlit s k s.combs[k].router.jobs[j] f.index (flitMeta s k y (headDst f fl y)))) s)) := by
  unfold sendClaimed
  rw [hq]
  exact if_pos hready

theorem sendClaimed_pads (h : ∀ y ∈ f.queue.head?, flitReady s k fl d y = false) : sendClaimed p k q j f fl d s =
    advanceSeq p k j (sendPad k q s.combs[k].router.jobs[j] f.index s) := by
  unfold sendClaimed
  cases hq : f.queue with
  | nil => rfl
  | cons y r => exact if_neg (by rw [h y (by rw [hq]; rfl)]; decide)

/-- A flow's claimed slot sends one flit, made of its head or a pad; the counter advances after it. -/
theorem sendClaimed_sends {e : JobEntry} (he : s.combs[k].router.jobs[j] = e) : ∃ u m,
    sendClaimed p k q j f fl d s = advanceSeq p k j u ∧ FlitOut k q (mkFlit s k e f.index m) s u ∧
    MetaOfHead s u p k f fl d m := by
  subst he
  have hpad : FlitOut k q (mkFlit s k s.combs[k].router.jobs[j] f.index (padMeta s k)) s
      (sendPad k q s.combs[k].router.jobs[j] f.index s) := sendPad_out _ _
  unfold MetaOfHead
  cases hq : f.queue with
  | nil => exact ⟨_, padMeta s k, sendClaimed_pads (by rw [hq]; nofun), hpad, rfl, rfl⟩
  | cons y r =>
    simp only [List.head?_cons]
    cases hready : flitReady s k fl d y with
    | false =>
      refine ⟨_, padMeta s k, sendClaimed_pads fun z hz => ?_, hpad, rfl, rfl⟩
      rw [hq] at hz
      obtain rfl := Option.some.inj hz
      exact hready
    | true =>
      refine ⟨_, flitMeta s k y (headDst f fl y), sendClaimed_ready hq hready, ?_⟩
      generalize hu : sendFrame k q 1 (some (mkFlit s k s.combs[k].router.jobs[j] f.index
        (flitMeta s k y (headDst f fl y)))) s = u
      have hout : u.out = .frame k q (linkWord s k 1)
          (some (mkFlit s k s.combs[k].router.jobs[j] f.index (flitMeta s k y (headDst f fl y)))) :: s.out := by rw [← hu]; rfl
      have hw : Within [.out] s u := by rw [← hu]; exact sendFrame_without (by decide)
      obtain ⟨ho, hj, htx, hh, hsem⟩ := headSent_kept (s := u) (p := p) (k := k) f.index y (headTaken fl y)
      refine ⟨⟨ho.trans hout, ?_, ?_, (hw.mono (by decide)).trans (hh.mono (by decide))⟩, rfl, rfl, rfl, rfl, rfl,
        fun m hm => ?_⟩
      · rw [hj, hw.comb_router k (by decide)]
      · rw [htx, hw.comb_router k (by decide)]
      · rw [hsem m hm, semVal_congr (hw.part_sems p (by decide))]

end Sending

/-! ### LOCAL slots (R396) -/

section LocalTx

variable {s : State} {k : Comb} {q : LPort} {p : Part} {j : JobIx} {d : Nat} {e : JobEntry}
  (hkind : entKind (entryNow s k false q) = 1) (hjob : entJob (entryNow s k false q) = j.val) (hup : portUp s k q = true)
  (hpw : s.combs[k].routerPwr = true) (hp : partOf s k = some p) (hm : memberJob s k = some j)
  (hd : slotData (slotOf s k) = some d) (ha : s.combs[k].hum.active = true) (he : s.combs[k].router.jobs[j] = e)
  (hab : e.aborted = false) (hkey : e.keyed = true) (hseq : e.seq ≠ BitVec.allOnes 64)
include hkind hjob hup hpw hp hm hd ha he hab hkey hseq

/-- In a LOCAL slot of an active grid's keyed job the claimant decides. -/
theorem effLocalTx_eq : effLocalTx k q s = match claimant s p k true q d with
    | none => sendFrame k q 0 none s
    | some (f, fl) => sendClaimed p k q j f fl d s := by
  have hgo : ¬ (entKind (entryNow s k false q) ≠ 1 ∨ (!portUp s k q) = true ∨ (!s.combs[k].routerPwr) = true) := by
    rw [hkind, hup, hpw]
    decide
  have hrun : ¬ ((!s.combs[k].hum.active) = true ∨ s.combs[k].router.jobs[j].aborted = true ∨
      (!s.combs[k].router.jobs[j].keyed) = true ∨ s.combs[k].router.jobs[j].seq = BitVec.allOnes 64 ∨
      entJob (entryNow s k false q) ≠ j.val) := by
    rw [he, ha, hab, hkey, hjob]
    simpa only [Bool.not_true, Bool.false_eq_true, false_or, ne_eq, not_true_eq_false, or_false] using hseq
  unfold effLocalTx
  simp only [hp, hm, hd]
  exact (if_neg hgo).trans (if_neg hrun)

theorem localTxSlot_idle (hc : claimant s p k true q d = none) :
    exec (.localTxSlot k q) s = .next { s with out := .frame k q (linkWord s k 0) none :: s.out } := by
  refine congrArg Host.Outcome.next ((effLocalTx_eq hkind hjob hup hpw hp hm hd ha he hab hkey hseq).trans ?_)
  rw [hc]
  rfl

/-- A claimed slot sends one flit of the flow, sealed with the job's SEQ, which advances. -/
theorem localTxSlot_sends (hnext : e.seq + 1 ≠ BitVec.allOnes 64) {f : FlowRt} {fl : Flow}
    (hc : claimant s p k true q d = some (f, fl)) : Does (.localTxSlot k q) s fun t => ∃ m : FlitMeta,
      t.out = .frame k q (linkWord s k 1) (some (mkFlit s k e f.index m)) :: s.out ∧ MetaOfHead s t p k f fl d m ∧
      t.combs[k].router.jobs[j].seq = e.seq + 1 ∧ t.combs[k].router.txFlits = s.combs[k].router.txFlits + 1 ∧
      Within [.out, .draws, .seq, .router, .rings, .sems] s t := by
  obtain ⟨u, m, hsend, ⟨hout, hjobs, htx, hw⟩, hmeta⟩ := sendClaimed_sends (s := s) (p := p) (k := k) (q := q) (j := j) (f := f)
    (fl := fl) (d := d) he
  have hu : u.combs[k].router.jobs[j] = e := by rw [hjobs, he]
  have hr := (modRouter_router u k k (seqAdvanced j)).trans (if_pos rfl)
  refine does_of_exec (t := u.modRouter k (seqAdvanced j)) (congrArg Host.Outcome.next ?_) ⟨m, hout, hmeta, ?_, ?_,
    hw.trans (modRouter_without _ _ _ _ (by decide))⟩
  · rw [effLocalTx_eq hkind hjob hup hpw hp hm hd ha he hab hkey hseq, hc]
    exact hsend.trans (advanceSeq_below (by rw [hu]; exact hnext))
  · rw [hr, seqAdvanced, upd_same, hu]
  · rw [hr, seqAdvanced, htx]

end LocalTx

/-! ### TRANSIT slots (R57, R387, R389) -/

/-- A received codeword changes its strand-port and, where it is uncorrectable, CW_UNCORR. -/
theorem noteCodeword_router (k : Comb) (q : LPort) (ok : Bool) (s : State) : ∃ ports,
    (noteCodeword k q ok s).combs[k].router = { s.combs[k].router with
      ports := ports, cwUncorr := if ok then s.combs[k].router.cwUncorr else hit 16 s.combs[k].router.cwUncorr } := by
  unfold noteCodeword State.modSPort
  cases ok with
  | true =>
    simp only [if_true, modRouter_router]
    exact ⟨_, rfl⟩
  | false =>
    simp only [Bool.false_eq_true, if_false, if_true, modRouter_router]
    exact ⟨_, rfl⟩

theorem noteCodeword_within (k : Comb) (q : LPort) (ok : Bool) (s : State) : Within [.router] s (noteCodeword k q ok s) :=
  noteCodeword_without (by decide)

section Transit

variable {s : State} {k : Comb} {q : LPort}

/-- While the hum is FREE no transit flit passes. -/
theorem transit_stops (h : s.combs[k].hum.state = 0) : transitOn s k = false := by
  rw [transitOn, h]
  rfl

theorem exec_transitFlitReceive_stopped (h : s.combs[k].hum.state = 0) (x : Flit) :
    exec (.transitFlitReceive k q x) s = .next s := by
  refine congrArg Host.Outcome.next ?_
  unfold effTransitRx
  dsimp only
  split
  · exact if_pos (.inr (.inr (by rw [transit_stops h]; rfl)))
  · rfl

theorem exec_transitTxSlot_stopped (h : s.combs[k].hum.state = 0) : exec (.transitTxSlot k q) s = .next s :=
  congrArg Host.Outcome.next (if_pos (.inr (.inr (by rw [transit_stops h]; rfl))))

variable (hs : s.combs[k].hum.state ≠ 0)
include hs

theorem transit_passes : transitOn s k = true := by
  simpa only [transitOn, bne_iff_ne] using hs

/-- A transit flit of the entry's job waits for its slot two data slots later; any other frame is a MISROUTE. -/
theorem transitFlitReceive_forwards {x : Flit} {d : Nat} {e : JobEntry} (hkind : entKind (entryNow s k true q) = 2)
    (hup : portUp s k q = true) (hd : slotData (slotOf s k) = some d)
    (he : jobAt s.combs[k] (entJob (entryNow s k true q)) = some e) : Does (.transitFlitReceive k q x) s fun t =>
      Within [.router] s t ∧ if x.cwOk = true ∧ x.kind = 1 ∧ x.jobId = e.jobId then
      t.combs[k].router.forward = s.combs[k].router.forward ++
        [(leaseKey false (entPort (entryNow s k true q)) (dataSlot ((d + 2) % 510)), { x with errs := 0 })]
      else t.combs[k].router.misroute = hit 16 s.combs[k].router.misroute ∧
        t.combs[k].router.forward = s.combs[k].router.forward := by
  have hgo : ¬ (entKind (entryNow s k true q) ≠ 2 ∨ (!portUp s k q) = true ∨ (!transitOn s k) = true) := by
    simp [hkind, hup, transit_passes hs]
  have heff : effTransitRx k q x s = if x.cwOk = true ∧ x.kind = 1 ∧ x.jobId = e.jobId then
      (noteCodeword k q x.cwOk s).modRouter k fun r => { r with forward := r.forward ++
        [(leaseKey false (entPort (entryNow s k true q)) (dataSlot ((d + 2) % 510)), { x with errs := 0 })] }
      else misroute k (noteCodeword k q x.cwOk s) := by
    unfold effTransitRx
    simp only [hd, he]
    exact if_neg hgo
  obtain ⟨ports, hr⟩ := noteCodeword_router k q x.cwOk s
  refine does_of_exec (t := effTransitRx k q x s) rfl ⟨effTransitRx_without (by decide), ?_⟩
  rw [heff]
  by_cases hc : x.cwOk = true ∧ x.kind = 1 ∧ x.jobId = e.jobId
  · rw [if_pos hc, if_pos hc, modRouter_router, if_pos rfl, hr]
  · rw [if_neg hc, if_neg hc, misroute, modRouter_router, if_pos rfl, hr]
    exact ⟨rfl, rfl⟩

/-- A TRANSIT slot sends the flit that waits for it, or a void frame. -/
theorem transitTxSlot_sends (hkind : entKind (entryNow s k false q) = 2) (hup : portUp s k q = true) :
    Does (.transitTxSlot k q) s fun t => Within [.out, .router] s t ∧ t.out = (match s.combs[k].router.forward.find? fun e =>
      decide (e.1 = leaseKey false q.val (slotOf s k)) with
      | some e => .frame k q (linkWord s k 1) (some e.2)
      | none => .frame k q (linkWord s k 2) none) :: s.out := by
  have hgo : ¬ (entKind (entryNow s k false q) ≠ 2 ∨ (!portUp s k q) = true ∨ (!transitOn s k) = true) := by
    simp [hkind, hup, transit_passes hs]
  refine does_of_exec (t := effTransitTx k q s) rfl ⟨effTransitTx_without (by decide), ?_⟩
  unfold effTransitTx
  rw [if_neg hgo]
  dsimp only
  generalize List.find? _ s.combs[k].router.forward = o
  cases o <;> rfl

end Transit

/-! ### LOCAL slots received (R397, R398) -/

/-- A job that is not aborted takes its partition down with FABRIC_ABORT. -/
theorem fabricAbort_stops {p : Part} {k : Comb} {s : State} (hr : s.parts[p].recov = []) (ha : jobAborted s k = false)
    (cause : Byte) : Stopped p stFabricAbort s (fabricAbort p k cause s) := jobFault_stops hr ha

/-- A state that received a flit: the router alone differs, its job entries do not. -/
structure FlitSeen (k : Comb) (s t : State) : Prop where
  within : Within [.router] s t
  jobs : t.combs[k].router.jobs = s.combs[k].router.jobs

section Receiving

variable {s t : State} {p : Part} {k : Comb}

theorem FlitSeen.modRouter (h : FlitSeen k s t) {c : Router → Router} (hc : ∀ r, (c r).jobs = r.jobs) :
    FlitSeen k s (t.modRouter k c) :=
  ⟨h.within.trans (modRouter_without _ _ _ _ (by decide)), by rw [modRouter_router, if_pos rfl, hc, h.jobs]⟩

theorem FlitSeen.noteCodeword (q : LPort) (ok : Bool) (s : State) : FlitSeen k s (noteCodeword k q ok s) := by
  obtain ⟨ports, hr⟩ := noteCodeword_router k q ok s
  exact ⟨noteCodeword_within k q ok s, by rw [hr]⟩

theorem FlitSeen.aborts (h : FlitSeen k s t) (hr : s.parts[p].recov = []) (ha : jobAborted s k = false) (cause : Byte) :
    Stopped p stFabricAbort s (fabricAbort p k cause t) :=
  stopped_of_within h.within (by decide) (by decide)
    (fabricAbort_stops ((h.within.part_recov p (by decide)).trans hr) ((jobAborted_congr h.jobs).trans ha) cause)

theorem srcOf_congr (h : t.mod = s.mod) (fl : Flow) : srcOf t fl = srcOf s fl := by
  unfold srcOf
  rw [h]

theorem headerOk_congr (h : t.mod = s.mod) (e : JobEntry) (f : FlowRt) (fl : Flow) (x : Flit) :
    headerOk t k e f fl x = headerOk s k e f fl x := by
  unfold headerOk
  rw [srcOf_congr h]

theorem flitRange_within (w : Within [.router] s t) (x : FlitMeta) : flitRange t p x = flitRange s p x := by
  have hmap : regionMap t p = regionMap s p := by
    unfold regionMap Machine.sizeOf
    rw [w.part_psize p (by decide), w.part_rgn p (by decide)]
  unfold flitRange inPpa ppaEnd
  rw [hmap, within_part_ready w p (by decide)]

/-- The ejection buffer holds what it held where the visible flits of every flow stay. -/
theorem ejecting_modFlow {i : Nat} {g : FlowRt → FlowRt} (hg : ∀ f, (g f).visible = f.visible) (s : State) :
    ejecting (modFlow k false i g s) k = ejecting s k := by
  unfold ejecting
  rw [modFlow_router, List.map_map]
  refine congrArg List.sum (List.map_congr_left fun f _ => ?_)
  simp only [Function.comp_apply]
  split
  · rw [hg]
  · rfl

/-- A flit that R397 accepts, counted and its SEQ kept. -/
def flitTaken (k : Comb) (i : Nat) (x : Flit) (s : State) : State :=
  (modFlow k false i (fun g => { g with lastSeq := some x.seq }) s).modRouter k fun r => { r with rxFlits := r.rxFlits + 1 }

theorem FlitSeen.flitTaken (h : FlitSeen k s t) (i : Nat) (x : Flit) : FlitSeen k s (flitTaken k i x t) := by
  refine FlitSeen.modRouter ⟨h.within.trans (modFlow_without (by decide)), ?_⟩ fun _ => rfl
  rw [modFlow_router]
  exact h.jobs

theorem ejecting_flitTaken (i : Nat) (x : Flit) (s : State) : ejecting (flitTaken k i x s) k = ejecting s k := by
  rw [← ejecting_modFlow (g := fun g => { g with lastSeq := some x.seq }) (i := i) (fun _ => rfl) s]
  simp only [ejecting, FlitProofs.flitTaken, modRouter_router, if_true]

theorem ejecting_noteCodeword (q : LPort) (ok : Bool) (s : State) : ejecting (Machine.noteCodeword k q ok s) k = ejecting s k := by
  obtain ⟨ports, hr⟩ := noteCodeword_router k q ok s
  simp only [ejecting, hr]

variable {e : JobEntry} {f : FlowRt} {fl : Flow} {x : Flit}

/-- A flit that fails a check of R397 raises the alarm from a state that has only seen it. -/
theorem acceptFlit_fails (h : FlitSeen k s t) (hej : ejecting t k = ejecting s k)
    (hbad : x.kind ≠ 1 ∨ x.cwOk = false ∨ headerOk s k e f fl x = false ∨ match openFlit e f x with
      | none => True
      | some m => m.pad = false ∧ (flitRange s p m = false ∨ 512 ≤ ejecting s k)) :
    ∃ cause u, acceptFlit p k e f fl x t = fabricAbort p k cause u ∧ FlitSeen k s u := by
  unfold acceptFlit
  by_cases hcw : x.kind ≠ 1 ∨ (!x.cwOk) = true
  · rw [if_pos hcw]
    exact ⟨_, _, rfl, h.modRouter fun _ => rfl⟩
  rw [if_neg hcw, headerOk_congr (h.within.mod_eq (by decide))]
  cases hhead : headerOk s k e f fl x with
  | false => exact ⟨_, _, rfl, h.modRouter fun _ => rfl⟩
  | true =>
    obtain ⟨hkind, hok⟩ := not_or.1 hcw
    have hrest := ((hbad.resolve_left hkind).resolve_left (by simpa using hok)).resolve_left (by rw [hhead]; decide)
    cases hopen : openFlit e f x with
    | none => exact ⟨_, _, rfl, h.modRouter fun _ => rfl⟩
    | some m =>
      rw [hopen] at hrest
      obtain ⟨hpad, hbad⟩ := hrest
      simp only [hpad, flitRange_within h.within]
      cases hrange : flitRange s p m with
      | false => exact ⟨_, _, rfl, h⟩
      | true =>
        have hfull : 512 ≤ ejecting (FlitProofs.flitTaken k f.index x t) k := by
          rw [ejecting_flitTaken, hej]
          exact hbad.resolve_left (by rw [hrange]; decide)
        exact ⟨_, _, if_pos hfull, (h.flitTaken f.index x).modRouter fun _ => rfl⟩

section Good

variable {m : FlitMeta} (h : FlitSeen k s t) (hkind : x.kind = 1) (hok : x.cwOk = true)
  (hhead : headerOk s k e f fl x = true) (hopen : openFlit e f x = some m)
include h hkind hok hhead hopen

/-- A pad that passes R397's checks is counted, and no more. -/
theorem acceptFlit_pad (hpad : m.pad = true) : acceptFlit p k e f fl x t = flitTaken k f.index x t := by
  unfold acceptFlit
  rw [if_neg (by simp [hkind, hok]), headerOk_congr (h.within.mod_eq (by decide)), hhead, hopen]
  simp only [hpad]
  rfl

/-- A flit that passes them waits in the ejection buffer. -/
theorem acceptFlit_ejects (hej : ejecting t k = ejecting s k) (hpad : m.pad = false) (hrange : flitRange s p m = true)
    (hroom : ejecting s k < 512) : acceptFlit p k e f fl x t = modFlow k false f.index (fun g => { g with
      visible := g.visible ++ [ejFlit fl m], beatTokens := g.beatTokens + m.tokens.toNat, beatFlits := g.beatFlits + 1 })
      (flitTaken k f.index x t) := by
  have hfull : ¬ 512 ≤ ejecting (FlitProofs.flitTaken k f.index x t) k := by
    rw [ejecting_flitTaken, hej]
    omega
  unfold acceptFlit
  rw [if_neg (by simp [hkind, hok]), headerOk_congr (h.within.mod_eq (by decide)), hhead, hopen]
  simp only [hpad, flitRange_within h.within, hrange]
  exact if_neg hfull

end Good

end Receiving

section LocalRx

variable {s : State} {k : Comb} {q : LPort} {x : Flit} {p : Part} {j : JobIx} {d : Nat}
  (hkind : entKind (entryNow s k true q) = 1) (hjob : entJob (entryNow s k true q) = j.val) (hup : portUp s k q = true)
  (hp : partOf s k = some p) (hm : memberJob s k = some j) (hd : slotData (slotOf s k) = some d)
include hkind hjob hup hp hm hd

/-- A frame in a LOCAL entry of an aborted job counts as late where it is a data flit (R500). -/
theorem effDataFlit_late (hab : s.combs[k].router.jobs[j].aborted = true) : effDataFlit k q x s =
    if x.kind = 1 ∧ x.cwOk = true then (noteCodeword k q x.cwOk s).modEvt fun v => { v with lateFlit := hit 32 v.lateFlit }
    else noteCodeword k q x.cwOk s := by
  have hgo : ¬ (entKind (entryNow s k true q) ≠ 1 ∨ entJob (entryNow s k true q) ≠ j.val ∨ (!portUp s k q) = true) := by
    simp [hkind, hjob, hup]
  unfold effDataFlit
  simp only [hp, hm, hd]
  rw [if_neg hgo, if_pos hab]

theorem dataFlitReceive_late (hab : s.combs[k].router.jobs[j].aborted = true) : Does (.dataFlitReceive k q x) s fun t =>
    t.evt.lateFlit = (if x.kind = 1 ∧ x.cwOk = true then hit 32 s.evt.lateFlit else s.evt.lateFlit) ∧
    Within [.router, .evt] s t := by
  have hw := noteCodeword_within k q x.cwOk s
  refine does_of_exec (congrArg Host.Outcome.next (effDataFlit_late hkind hjob hup hp hm hd hab)) ?_
  split
  · exact ⟨by rw [modEvt_evt, hw.evt_eq (by decide)], (hw.mono (by decide)).trans (modEvt_without _ _ _ (by decide))⟩
  · exact ⟨by rw [hw.evt_eq (by decide)], hw.mono (by decide)⟩

variable (hab : s.combs[k].router.jobs[j].aborted = false) (ha : s.combs[k].hum.active = true) {f : FlowRt} {fl : Flow}
  (hc : claimant s p k false q d = some (f, fl))
include hab ha hc

/-- In a claimed LOCAL entry of an active grid the checks of R397 decide. -/
theorem effDataFlit_accepts : effDataFlit k q x s =
    acceptFlit p k s.combs[k].router.jobs[j] f fl x (noteCodeword k q x.cwOk s) := by
  have hgo : ¬ (entKind (entryNow s k true q) ≠ 1 ∨ entJob (entryNow s k true q) ≠ j.val ∨ (!portUp s k q) = true) := by
    simp [hkind, hjob, hup]
  unfold effDataFlit
  simp only [hp, hm, hd]
  rw [if_neg hgo, if_neg (by rw [hab]; decide), if_neg (by rw [ha]; decide), hc]

theorem dataFlitReceive_aborts (hr : s.parts[p].recov = [])
    (hbad : x.kind ≠ 1 ∨ x.cwOk = false ∨ headerOk s k s.combs[k].router.jobs[j] f fl x = false ∨
      match openFlit s.combs[k].router.jobs[j] f x with
      | none => True
      | some m => m.pad = false ∧ (flitRange s p m = false ∨ 512 ≤ ejecting s k)) :
    Does (.dataFlitReceive k q x) s (Stopped p stFabricAbort s) := by
  have hna : jobAborted s k = false := by simp only [jobAborted, hm, hab]
  obtain ⟨cause, u, hu, hseen⟩ := acceptFlit_fails (FlitSeen.noteCodeword q x.cwOk s) (ejecting_noteCodeword ..) hbad
  exact does_of_exec (congrArg Host.Outcome.next ((effDataFlit_accepts hkind hjob hup hp hm hd hab ha hc).trans hu))
    (hseen.aborts hr hna cause)

end LocalRx

/-! ### A flit's write is visible (R397) -/

/-- The oldest flit of a flow has left its ejection buffer. -/
def ejected (k : Comb) (i : Nat) (s : State) : State := modFlow k false i (fun g => { g with visible := g.visible.drop 1 }) s

section Visible

variable {s : State} {k : Comb} {i : Nat} {p : Part} {f : FlowRt} {fl : Flow} {x : EjFlit} {l : List EjFlit}
  (hp : partOf s k = some p) (hf : (s.combs[k].router.flows.find? fun f => !f.tx && decide (f.index = i)) = some f)
  (hfl : flowOf s p k i = some fl) (hv : f.visible = x :: l)
include hp hf hfl hv

theorem effVisible_eq : effVisible k i s = if x.space ≠ 2 ∧ (!ppaServes s k p x.dst.toNat x.data.length) = true then s
    else if fl.rxSemEn then semApply p fl.rxSem true (w64 x.tokens) (deliverFlit p k x (ejected k i s))
    else deliverFlit p k x (ejected k i s) := by
  unfold effVisible
  simp only [hp, hf, hfl, hv]
  rfl

theorem flitWriteVisible_comb (h2 : x.space = 2) : Does (.flitWriteVisible k i) s fun t =>
    combRead t k x.dst.toNat x.data.length = x.data ∧
    (∀ m, semVal t p m = if fl.rxSemEn = true ∧ m = fl.rxSem then semVal s p m + w64 x.tokens else semVal s p m) ∧
    Within [.combMem, .seq, .router, .rings, .sems] s t := by
  have hexec : exec (.flitWriteVisible k i) s = .next (if fl.rxSemEn then semApply p fl.rxSem true (w64 x.tokens)
      (combWrite k x.dst.toNat x.data (ejected k i s)) else combWrite k x.dst.toNat x.data (ejected k i s)) := by
    have hd : deliverFlit p k x (ejected k i s) = combWrite k x.dst.toNat x.data (ejected k i s) := if_pos h2
    rw [← hd]
    exact congrArg Host.Outcome.next ((effVisible_eq hp hf hfl hv).trans (if_neg fun hc => hc.1 h2))
  have hwf : Within [.router] s (ejected k i s) := modFlow_without (by decide)
  generalize ejected k i s = u at hexec hwf
  have hwc : Within [.combMem] u (combWrite k x.dst.toNat x.data u) := combWrite_without (by decide)
  have hread : combRead (combWrite k x.dst.toNat x.data u) k x.dst.toNat x.data.length = x.data := by
    simp only [combRead, combWrite, Fin.getElem_fin, modComb_same]
    exact memRead_memWrite _ _
  generalize combWrite k x.dst.toNat x.data u = w at hexec hwc hread
  have hw : Within [.combMem, .seq, .router, .rings, .sems] s w := (hwf.mono (by decide)).trans (hwc.mono (by decide))
  have hsem : ∀ m, semVal w p m = semVal s p m := semVal_congr
    ((hwc.part_sems p (by decide)).trans (hwf.part_sems p (by decide)))
  refine does_of_exec hexec ?_
  cases fl.rxSemEn with
  | false => exact ⟨hread, fun m => (hsem m).trans (if_neg fun hc => absurd hc.1 (by decide)).symm, hw⟩
  | true =>
    have hws : Within [.seq, .rings, .sems] w (semApply p fl.rxSem true (w64 x.tokens) w) := semApply_without (by decide)
    refine ⟨?_, fun m => ?_, hw.trans (hws.mono (by decide))⟩
    · rw [if_pos rfl, combRead, hws.comb_store k (by decide)]
      exact hread
    · rw [if_pos rfl, semApply, semVal_semWrite]
      by_cases hm : m = fl.rxSem
      · subst hm
        simp only [if_true, and_self, hsem]
      · rw [if_neg hm, if_neg fun hc => hm hc.2, hsem]

theorem exec_flitWriteVisible_waits (h2 : x.space ≠ 2) (hserve : ppaServes s k p x.dst.toNat x.data.length = false) :
    exec (.flitWriteVisible k i) s = .next s :=
  congrArg Host.Outcome.next ((effVisible_eq hp hf hfl hv).trans (if_pos ⟨h2, by rw [hserve]; rfl⟩))

theorem exec_flitWriteVisible_ppa (h2 : x.space ≠ 2) (hserve : ppaServes s k p x.dst.toNat x.data.length = true)
    (hw : (ppaWrite p x.dst.toNat x.data (ejected k i s)).2 = none) : exec (.flitWriteVisible k i) s = .next
      (if fl.rxSemEn then semApply p fl.rxSem true (w64 x.tokens) (ppaWrite p x.dst.toNat x.data (ejected k i s)).1
        else (ppaWrite p x.dst.toNat x.data (ejected k i s)).1) := by
  have hd : deliverFlit p k x (ejected k i s) = (ppaWrite p x.dst.toNat x.data (ejected k i s)).1 := by
    unfold deliverFlit
    rw [if_neg h2]
    generalize ppaWrite p x.dst.toNat x.data (ejected k i s) = w at hw
    obtain ⟨u, err⟩ := w
    subst hw
    rfl
  rw [← hd]
  exact congrArg Host.Outcome.next ((effVisible_eq hp hf hfl hv).trans (if_neg fun hc => absurd hc.2 (by rw [hserve]; decide)))

end Visible

/-- Settles O48: a slot by its entry and its claimant, a received flit by the checks it passes, its write by where it goes. -/
theorem slotsCarryFlits : Obligations.SlotsCarryFlits := by
  refine fun s => ⟨fun k q p j d e hkind hjob hup hpw hp hm hd ha he hab hkey hseq hnext => ⟨fun hc => ?_, fun f fl hc => ?_⟩,
    fun k q x h => ⟨exec_transitFlitReceive_stopped h x, exec_transitTxSlot_stopped h⟩,
    fun k q x d e hs hkind hup hd he => transitFlitReceive_forwards hs hkind hup hd he,
    fun k q hs hkind hup => transitTxSlot_sends hs hkind hup,
    fun k q x p j d f fl hkind hjob hup hp hm hd hab ha hc => ⟨fun hbad hr => ?_, fun m h1 hok hhead hopen => ?_⟩,
    fun k q x p j hkind hjob hup hp hm hd hab => ?_,
    fun k i p f fl x l hp hf hfl hv => ⟨flitWriteVisible_comb hp hf hfl hv, exec_flitWriteVisible_waits hp hf hfl hv,
      exec_flitWriteVisible_ppa hp hf hfl hv⟩⟩
  · exact localTxSlot_idle hkind hjob hup hpw hp hm hd ha he hab hkey hseq hc
  · obtain ⟨t, ht, m, hout, ⟨hbeat, hmeta⟩, hrest⟩ := localTxSlot_sends hkind hjob hup hpw hp hm hd ha he hab hkey hseq hnext hc
    exact ⟨t, ht, ⟨_, m, hout, rfl, rfl, rfl, rfl, rfl, rfl, rfl, hbeat, hmeta⟩, hrest⟩
  · exact dataFlitReceive_aborts hkind hjob hup hp hm hd hab ha hc hr hbad
  · have hexec := effDataFlit_accepts (x := x) hkind hjob hup hp hm hd hab ha hc
    have hseen : FlitSeen k s (noteCodeword k q true s) := FlitSeen.noteCodeword q true s
    rw [hok] at hexec
    exact ⟨fun hpad => congrArg Host.Outcome.next (hexec.trans (acceptFlit_pad hseen h1 hok hhead hopen hpad)),
      fun hpad hrange hroom => congrArg Host.Outcome.next (hexec.trans
        (acceptFlit_ejects hseen h1 hok hhead hopen (ejecting_noteCodeword ..) hpad hrange hroom))⟩
  · obtain ⟨d, hd⟩ := Option.isSome_iff_exists.1 hd
    exact dataFlitReceive_late hkind hjob hup hp hm hd hab

end Sys2Proof.FlitProofs
end

section
/-! Alarms, votes and verdicts that a router receives, and frames that no entry takes (R389, R407, R409–R411). -/

namespace Sys2Proof.AlarmProofs

open Sys2Proof Sys2Proof.Machine Sys2Proof.MemoryProofs Sys2Proof.JobFaultProofs Sys2Proof.RingProofs Sys2Proof.LeaseProofs
  Sys2Proof.FlitProofs

/-! ### Alarms (R407) -/

/-- What each step for an element of the list keeps, the repetition keeps. -/
theorem forEach_keeps_mem {α β : Type} (π : State → β) {l : List α} {f : α → State → State}
    (h : ∀ a ∈ l, ∀ t, π (f a t) = π t) (s : State) : π (forEach l f s) = π s := by
  induction l generalizing s with
  | nil => rfl
  | cons a r ih => exact (ih (fun b hb => h b (List.mem_cons_of_mem _ hb)) (f a s)).trans (h a List.mem_cons_self s)

/-- An alarm reaches the other combs of the partition only: the router that received it stays. -/
theorem spreadAlarm_router (p : Part) (k : Comb) (a : AlarmRec) (s : State) :
    (spreadAlarm p k a s).combs[k].router = s.combs[k].router := by
  refine forEach_keeps_mem (fun s => s.combs[k].router) (fun c hc t => ?_) s
  have hck : c ≠ k := of_decide_eq_true (List.mem_filter.1 hc).2
  split
  · rfl
  · split
    · rfl
    · rw [modRouter_router, if_neg hck, abortJob, modRouter_router, if_neg hck]

/-- A received alarm begins the recovery of a partition that has none. -/
theorem partitionFault_received {p : Part} {f : FaultInfo} {s : State} (hr : s.parts[p].recov = []) (hf : f.received = true) :
    partitionFault p f s = beginRecovery p f s := by
  simp only [partitionFault, tearingDown, hr, hf, List.any_nil, Bool.false_eq_true, if_false, if_true]

/-- An alarm taken: ABORTED, counted, and on its way to every other APORTS port. -/
def alarmTaken (k : Comb) (q : LPort) (j : JobIx) (a : AlarmRec) (s : State) : State :=
  (abortJob k j a (some q) s).modRouter k fun r => { r with alarmRx := hit 16 r.alarmRx }

section Taken

variable (k : Comb) (q : LPort) (j : JobIx) (a : AlarmRec) (s : State)

theorem alarmTaken_within : Within [.router] s (alarmTaken k q j a s) :=
  (modRouter_without _ _ _ _ (by decide)).trans (abortJob_without (by decide))

theorem alarmTaken_router : (alarmTaken k q j a s).combs[k].router.jobs[j].aborted = true ∧
    (alarmTaken k q j a s).combs[k].router.alarmRx = hit 16 s.combs[k].router.alarmRx ∧
    (j, a, s.combs[k].router.jobs[j].aports &&& ~~~(1#6 <<< q.val)) ∈ (alarmTaken k q j a s).combs[k].router.alarms := by
  unfold alarmTaken abortJob
  rw [modRouter_router, if_pos rfl, modRouter_router, if_pos rfl]
  refine ⟨?_, rfl, List.mem_append_right _ List.mem_cons_self⟩
  rw [upd_same]

end Taken

/-- A record that a member's check fails counts in AUTH_FAIL. -/
theorem countAuth_counts (s : State) (k : Comb) :
    (s.modRouter k countAuth).combs[k].router.authFail = hit 16 s.combs[k].router.authFail ∧
    (s.modRouter k countAuth).combs[k].router.jobs = s.combs[k].router.jobs ∧ Within [.router] s (s.modRouter k countAuth) := by
  refine ⟨?_, ?_, modRouter_without _ _ _ _ (by decide)⟩ <;> rw [modRouter_router, if_pos rfl] <;> rfl

section Alarm

variable {s : State} {k : Comb} {q : LPort} {a : AlarmRec} {j : JobIx} (hj : jobNamed s k a.jobId = some j)
include hj

theorem exec_alarmReceive_aborted (hab : s.combs[k].router.jobs[j].aborted = true) : exec (.alarmReceive k q a) s = .next s := by
  refine congrArg Host.Outcome.next ?_
  unfold effAlarm
  rw [hj]
  exact if_pos hab

variable (hab : s.combs[k].router.jobs[j].aborted = false)
include hab

/-- A member refuses an alarm that its checks fail. -/
theorem alarmReceive_refused (h1 : s.combs[k].router.jobs[j].role = 1)
    (hbad : alarmOk s k s.combs[k].router.jobs[j] a = false) : Does (.alarmReceive k q a) s fun t =>
      t.combs[k].router.authFail = hit 16 s.combs[k].router.authFail ∧ t.combs[k].router.jobs = s.combs[k].router.jobs ∧
      Within [.router] s t := by
  have he : effAlarm k q a s = s.modRouter k countAuth := by
    unfold effAlarm
    rw [hj]
    exact (if_neg (by rw [hab]; decide)).trans (if_pos ⟨h1, by rw [hbad]; rfl⟩)
  exact does_of_exec (congrArg Host.Outcome.next he) (countAuth_counts s k)

/-- The fault of a partition whose member router took an alarm: FABRIC_ABORT with the alarm's own origin. -/
def alarmFault (p : Part) (k : Comb) (a : AlarmRec) (s : State) : FaultInfo :=
  { status := stFabricAbort, detail := a.cause.setWidth 32, detail2 := (originWord a).setWidth 56
    alarm := a.cause, comb := k, combs := combsOf s p, received := true, origin := originWord a }

/-- A member's alarm that its checks pass is taken, spread, and a fault of the partition. -/
theorem effAlarm_member {p : Part} (h1 : s.combs[k].router.jobs[j].role = 1)
    (hok : alarmOk s k s.combs[k].router.jobs[j] a = true) (hp : partOf s k = some p) : effAlarm k q a s =
      partitionFault p (alarmFault p k a (alarmTaken k q j a s)) (spreadAlarm p k a (alarmTaken k q j a s)) := by
  have hp' : partOf (alarmTaken k q j a s) k = some p :=
    (within_partOf (alarmTaken_within k q j a s) (by decide) (by decide) k).trans hp
  have hgo : ¬ (s.combs[k].router.jobs[j].role = 1 ∧ (!alarmOk s k s.combs[k].router.jobs[j] a) = true) := by
    rw [hok]
    exact fun h => absurd h.2 (by decide)
  unfold effAlarm
  rw [hj]
  refine (if_neg (by rw [hab]; decide)).trans ((if_neg hgo).trans ?_)
  dsimp only
  split
  · next hp'' =>
    obtain rfl := Option.some.inj (hp'.symm.trans hp'')
    exact if_pos h1
  · next hn => exact absurd (hp'.symm.trans hn) (by simp)

/-- An alarm that its checks pass stops the member's partition. -/
theorem alarmReceive_stops {p : Part} (h1 : s.combs[k].router.jobs[j].role = 1)
    (hok : alarmOk s k s.combs[k].router.jobs[j] a = true) (hp : partOf s k = some p) (hr : s.parts[p].recov = []) :
    Does (.alarmReceive k q a) s fun t => Stopped p stFabricAbort s t ∧
      t.combs[k].router.jobs[j].aborted = true ∧ t.combs[k].router.alarmRx = hit 16 s.combs[k].router.alarmRx ∧
      (j, a, s.combs[k].router.jobs[j].aports &&& ~~~(1#6 <<< q.val)) ∈ t.combs[k].router.alarms := by
  have hws : Within [.router] s (spreadAlarm p k a (alarmTaken k q j a s)) :=
    (alarmTaken_within k q j a s).trans (spreadAlarm_without (by decide))
  have hr' : (spreadAlarm p k a (alarmTaken k q j a s)).parts[p].recov = [] := (hws.part_recov p (by decide)).trans hr
  have he := (effAlarm_member hj hab (q := q) h1 hok hp).trans (partitionFault_received hr' rfl)
  have hb : Within [.out, .host, .draws, .hum, .seq, .cellMem, .cellRun, .combMem, .superMem, .superTree, .hild, .ctx, .rings,
      .evq, .partRegs, .mod] (spreadAlarm p k a (alarmTaken k q j a s))
      (beginRecovery p (alarmFault p k a (alarmTaken k q j a s)) (spreadAlarm p k a (alarmTaken k q j a s))) :=
    beginRecovery_without (by decide)
  refine does_of_exec (congrArg Host.Outcome.next he) ⟨stopped_of_within hws (by decide) (by decide)
    (beginRecovery_stops hr'), ?_⟩
  rw [hb.comb_router k (by decide), spreadAlarm_router]
  exact alarmTaken_router k q j a s

/-- A relay passes an alarm on unchecked. -/
theorem alarmReceive_relayed (h2 : s.combs[k].router.jobs[j].role = 2) : Does (.alarmReceive k q a) s fun t =>
    t.combs[k].router.jobs[j].aborted = true ∧ Within [.router] s t ∧
    (j, a, s.combs[k].router.jobs[j].aports &&& ~~~(1#6 <<< q.val)) ∈ t.combs[k].router.alarms := by
  have h1 : ¬ s.combs[k].router.jobs[j].role = 1 := by
    rw [h2]
    decide
  have he : effAlarm k q a s = alarmTaken k q j a s := by
    unfold effAlarm
    rw [hj]
    refine (if_neg (by rw [hab]; decide)).trans ((if_neg fun h => h1 h.1).trans ?_)
    dsimp only
    split
    · exact if_neg h1
    · rfl
  obtain ⟨haborted, -, hmem⟩ := alarmTaken_router k q j a s
  exact does_of_exec (congrArg Host.Outcome.next he) ⟨haborted, alarmTaken_within k q j a s, hmem⟩

end Alarm

/-! ### Votes and verdicts (R409, R410) -/

/-- A member's entry with a verdict taken: EPOCH advances, and the record goes on to the children. -/
def verdictTaken (j : JobIx) (v : VoteRec) (vchild : BitVec 6) (r : Router) : Router :=
  { r with jobs := upd r.jobs j fun e => { e with epoch := e.epoch + 1, votes := [] }
           verdictsOut := r.verdictsOut ++ [(j, v, vchild)] }

theorem not_relay {e : JobEntry} (h : e.role = 1) : ¬ e.role = 2 := by
  rw [h]
  decide

section Records

variable {s : State} {k : Comb} {q : LPort} {v : VoteRec} {j : JobIx} (hj : jobNamed s k v.jobId = some j)
  (hab : s.combs[k].router.jobs[j].aborted = false)
include hj hab

/-- A vote from a child port: passed on by a relay, checked and collected by a member. -/
theorem effVote_eq (hc : s.combs[k].router.jobs[j].vchild.getLsbD q.val = true) : effVote k q v s =
    if s.combs[k].router.jobs[j].role = 2 then
      s.modRouter k fun r => { r with votesOut := r.votesOut ++ [(j, v, portMask s.combs[k].router.jobs[j].vparent)] }
    else if (!voteOk s.combs[k].router.jobs[j] 2 v) = true then s.modRouter k countAuth
    else s.modJob k j fun e => { e with votes := e.votes ++ [⟨q.val, true, v.value, v.stepTag⟩], voteAt := s.combs[k].hum.time } := by
  unfold effVote
  rw [hj]
  exact if_neg (by rw [hab, hc]; decide)

/-- A verdict from the parent port: passed on by a relay, checked and taken by a member. -/
theorem effVerdict_eq (hq : s.combs[k].router.jobs[j].vparent.toNat = q.val) : effVerdict k q v s =
    if s.combs[k].router.jobs[j].role = 2 then
      s.modRouter k fun r => { r with verdictsOut := r.verdictsOut ++ [(j, v, s.combs[k].router.jobs[j].vchild)] }
    else if (!voteOk s.combs[k].router.jobs[j] 3 v) = true then s.modRouter k countAuth
    else match partOf s k with
      | some p => verdictAt p v.value (s.modRouter k (verdictTaken j v s.combs[k].router.jobs[j].vchild))
      | none => s.modRouter k (verdictTaken j v s.combs[k].router.jobs[j].vchild) := by
  have hp : partOf (s.modRouter k (verdictTaken j v s.combs[k].router.jobs[j].vchild)) k = partOf s k :=
    within_partOf (m := [.router]) (modRouter_without _ _ _ _ (by decide)) (by decide) (by decide) k
  rw [← hp]
  unfold effVerdict
  rw [hj]
  exact if_neg (by rw [hab, hq]; simp)

theorem voteRecord_relayed (hc : s.combs[k].router.jobs[j].vchild.getLsbD q.val = true)
    (h2 : s.combs[k].router.jobs[j].role = 2) : Does (.voteRecordReceive k q v) s fun t =>
      t.combs[k].router.votesOut = s.combs[k].router.votesOut ++ [(j, v, portMask s.combs[k].router.jobs[j].vparent)] ∧
      Within [.router] s t := by
  refine does_of_exec (congrArg Host.Outcome.next ((effVote_eq hj hab hc).trans (if_pos h2)))
    ⟨?_, modRouter_without _ _ _ _ (by decide)⟩
  rw [modRouter_router, if_pos rfl]

theorem verdictRecord_relayed (hq : s.combs[k].router.jobs[j].vparent.toNat = q.val)
    (h2 : s.combs[k].router.jobs[j].role = 2) : Does (.verdictRecordReceive k q v) s fun t =>
      t.combs[k].router.verdictsOut = s.combs[k].router.verdictsOut ++ [(j, v, s.combs[k].router.jobs[j].vchild)] ∧
      Within [.router] s t := by
  refine does_of_exec (congrArg Host.Outcome.next ((effVerdict_eq hj hab hq).trans (if_pos h2)))
    ⟨?_, modRouter_without _ _ _ _ (by decide)⟩
  rw [modRouter_router, if_pos rfl]

variable (h1 : s.combs[k].router.jobs[j].role = 1)
include h1

theorem voteRecord_collected (hc : s.combs[k].router.jobs[j].vchild.getLsbD q.val = true)
    (hok : voteOk s.combs[k].router.jobs[j] 2 v = true) : Does (.voteRecordReceive k q v) s fun t =>
      t.combs[k].router.jobs[j].votes = s.combs[k].router.jobs[j].votes ++ [⟨q.val, true, v.value, v.stepTag⟩] ∧
      Within [.router] s t := by
  refine does_of_exec (congrArg Host.Outcome.next ((effVote_eq hj hab hc).trans
    ((if_neg (not_relay h1)).trans (if_neg (by rw [hok]; decide))))) ⟨?_, modJob_without _ _ _ _ _ (by decide)⟩
  rw [modJob_job, if_pos rfl]

theorem voteRecord_refused (hc : s.combs[k].router.jobs[j].vchild.getLsbD q.val = true)
    (hbad : voteOk s.combs[k].router.jobs[j] 2 v = false) : Does (.voteRecordReceive k q v) s fun t =>
      t.combs[k].router.authFail = hit 16 s.combs[k].router.authFail ∧ t.combs[k].router.jobs = s.combs[k].router.jobs ∧
      Within [.router] s t :=
  does_of_exec (congrArg Host.Outcome.next ((effVote_eq hj hab hc).trans
    ((if_neg (not_relay h1)).trans (if_pos (by rw [hbad]; rfl))))) (countAuth_counts s k)

theorem verdictRecord_refused (hq : s.combs[k].router.jobs[j].vparent.toNat = q.val)
    (hbad : voteOk s.combs[k].router.jobs[j] 3 v = false) : Does (.verdictRecordReceive k q v) s fun t =>
      t.combs[k].router.authFail = hit 16 s.combs[k].router.authFail ∧ t.combs[k].router.jobs = s.combs[k].router.jobs ∧
      Within [.router] s t :=
  does_of_exec (congrArg Host.Outcome.next ((effVerdict_eq hj hab hq).trans
    ((if_neg (not_relay h1)).trans (if_pos (by rw [hbad]; rfl))))) (countAuth_counts s k)

theorem exec_verdictRecord_resolves {p : Part} (hq : s.combs[k].router.jobs[j].vparent.toNat = q.val)
    (hok : voteOk s.combs[k].router.jobs[j] 3 v = true) (hp : partOf s k = some p) : exec (.verdictRecordReceive k q v) s =
      .next (verdictAt p v.value (s.modRouter k (verdictTaken j v s.combs[k].router.jobs[j].vchild))) := by
  refine congrArg Host.Outcome.next ((effVerdict_eq hj hab hq).trans
    ((if_neg (not_relay h1)).trans ((if_neg (by rw [hok]; decide)).trans ?_)))
  rw [hp]

end Records

/-! ### Frames that no entry takes (R389, R411) -/

/-- A frame in an idle entry is counted: an uncorrectable codeword, or a data flit that is misrouted. -/
theorem wireFrameReceive_counts {s : State} {k : Comb} {q : LPort} (hup : portUp s k q = true)
    (h0 : entKind (entryNow s k true q) = 0) (x : Flit) : Does (.wireFrameReceive k q x) s fun t =>
      t.combs[k].router.cwUncorr = (if x.cwOk then s.combs[k].router.cwUncorr else hit 16 s.combs[k].router.cwUncorr) ∧
      t.combs[k].router.misroute = (if x.cwOk = true ∧ x.kind = 1 then hit 16 s.combs[k].router.misroute
        else s.combs[k].router.misroute) ∧ Within [.router] s t := by
  have he : effWireFrame k q x s = if x.cwOk = true ∧ x.kind = 1 then misroute k (noteCodeword k q x.cwOk s)
      else noteCodeword k q x.cwOk s := by
    unfold effWireFrame
    dsimp only
    rw [if_neg]
    · simp only [h0, and_true]
    · rw [hup, h0]
      rintro (h | h | h)
      · cases h
      · cases h
      · split at h <;> simp at h
  obtain ⟨ports, hr⟩ := noteCodeword_router k q x.cwOk s
  have hw := noteCodeword_within k q x.cwOk s
  refine does_of_exec (congrArg Host.Outcome.next he) ?_
  by_cases hc : x.cwOk = true ∧ x.kind = 1
  · rw [if_pos hc, if_pos hc, misroute, modRouter_router, if_pos rfl, hr]
    exact ⟨rfl, rfl, hw.trans (modRouter_without _ _ _ _ (by decide))⟩
  · rw [if_neg hc, if_neg hc, hr]
    exact ⟨rfl, rfl, hw⟩

/-- Settles O49: an alarm by the entry of its job, a vote and a verdict by the role of theirs, any other frame by what it counts. -/
theorem alarmsVotesAndVerdicts : Obligations.AlarmsVotesAndVerdicts := by
  refine fun s k q => ⟨fun a j hj => ⟨exec_alarmReceive_aborted hj, fun hab h1 hbad => alarmReceive_refused hj hab h1 hbad,
      fun p hab h1 hok hp hr => alarmReceive_stops hj hab h1 hok hp hr, fun hab h2 => alarmReceive_relayed hj hab h2⟩,
    fun j => rfl, fun v j e hj he hab => ?_, fun x hup h0 => wireFrameReceive_counts hup h0 x⟩
  subst he
  exact ⟨fun hc h2 => voteRecord_relayed hj hab hc h2, fun hc h1 hok => voteRecord_collected hj hab h1 hc hok,
    fun h1 => ⟨fun hc hbad => voteRecord_refused hj hab h1 hc hbad, fun hq hbad => verdictRecord_refused hj hab h1 hq hbad⟩,
    fun hq h2 => verdictRecord_relayed hj hab hq h2,
    fun p hq h1 hok hp => exec_verdictRecord_resolves hj hab h1 hq hok hp⟩

end Sys2Proof.AlarmProofs
end

section
/-! What a fault leaves of the host functions: their registers as they were, or all at their reset values where the fault has
grown into a module reset (R481, R488, R503). -/

namespace Sys2Proof.FunctionFaultProofs

open Sys2Proof Sys2Proof.Machine Sys2Proof.MemoryProofs

/-! ### Functions kept or reset -/

/-- From s to t the functions keep their registers, or a module reset has cleared all of them (R488). -/
def KeepsFns (s t : State) : Prop := t.fns = s.fns ∨ t.fns = .replicate 9 {}

/-- What a fault may change short of a module reset: no function. -/
def unitPieces : List Piece := faultPieces.filter fun x => decide (x ≠ .fns)

theorem KeepsFns.of_eq {s t : State} (h : t.fns = s.fns) : KeepsFns s t := .inl h

theorem KeepsFns.refl (s : State) : KeepsFns s s := .of_eq rfl

theorem KeepsFns.trans {s t u : State} (h : KeepsFns s t) (h' : KeepsFns t u) : KeepsFns s u :=
  h'.elim (fun e => h.elim (fun e' => .inl (e.trans e')) fun e' => .inr (e.trans e')) .inr

theorem KeepsFns.of_frame {s t : State} (w : t.without unitPieces = s.without unitPieces) : KeepsFns s t :=
  .of_eq (Within.fns_eq w (by decide))

theorem KeepsFns.ite {c : Prop} [Decidable c] {s a b : State} (ha : KeepsFns s a) (hb : KeepsFns s b) :
    KeepsFns s (if c then a else b) := by
  split
  · exact ha
  · exact hb

theorem KeepsFns.forEach {α : Type} {l : List α} {f : α → State → State} (h : ∀ a t, KeepsFns t (f a t)) (s : State) :
    KeepsFns s (forEach l f s) := by
  induction l generalizing s with
  | nil => exact .refl s
  | cons a r ih => exact (h a s).trans (ih (f a s))

/-! ### Module resets and the faults of a partition (R498, R499, R503) -/

theorem moduleReset_fns (cold : Bool) (s : State) : (moduleReset cold s).fns = .replicate 9 {} := by
  have hup : ∀ t : State, (Machine.forEach ((fins 8).filter fun k => (powerAll t).combs[k].seqPwr)
      (fun k s => reseed k none s) (powerAll t)).fns = t.fns := fun t =>
    Within.fns_eq (m := unitPieces) ((forEach_without _ _ _ _ fun _ _ => reseed_without (by decide)).trans
      (powerAll_without (by decide))) (by decide)
  exact hup _

theorem escalateWarm_keepsFns (f : FaultInfo) (s : State) : KeepsFns s (escalateWarm f s) := by
  unfold escalateWarm
  exact .ite (.of_eq rfl) (.inr (moduleReset_fns ..))

theorem escalateTo_keepsFns (p : Part) (r : Recovery) (f : FaultInfo) (s : State) : KeepsFns s (escalateTo p r f s) := by
  unfold escalateTo
  exact .ite (escalateWarm_keepsFns f s) (.of_frame ((takeOver_without (by decide)).trans <|
    (stopWhole_without (by decide)).trans (modEvt_without _ _ _ (by decide))))

theorem queenFault_keepsFns (st : Byte) (s : State) : KeepsFns s (queenFault st s) := by
  unfold queenFault
  refine .ite (escalateWarm_keepsFns ..) (.forEach (fun p t => .ite (.refl t) ?_) s)
  split
  · exact .refl t
  · exact escalateTo_keepsFns ..

theorem partitionFault_keepsFns (p : Part) (f : FaultInfo) (s : State) : KeepsFns s (partitionFault p f s) := by
  have hbegin : KeepsFns s (beginRecovery p f s) := .of_frame (beginRecovery_without (by decide))
  unfold partitionFault
  refine .ite (.refl s) (.ite (.ite (.refl s) hbegin) ?_)
  split
  · exact (KeepsFns.of_frame (secondEvent_without (by decide))).trans (escalateTo_keepsFns ..)
  · exact hbegin

theorem stopPartitionAs_keepsFns (p : Part) (k : Comb) (st : Byte) (d : Word) (d2 : BitVec 56) (unit : Word)
    (sup : List Super) (e : Option (BitVec 56)) (s : State) : KeepsFns s (stopPartitionAs p k st d d2 unit sup e s) :=
  (KeepsFns.of_frame (raiseAlarm_without (by decide))).trans (partitionFault_keepsFns ..)

theorem stopPartition_keepsFns (p : Part) (k : Comb) (st : Byte) (d : Word) (d2 : BitVec 56) (unit : Word)
    (sup : List Super) (s : State) : KeepsFns s (stopPartition p k st d d2 unit sup s) := stopPartitionAs_keepsFns ..

theorem failDesc_keepsFns (p : Part) (r : Ring) (i : Word) (st : Byte) (d : Word) (d2 : BitVec 56) (k : Comb) (s : State) :
    KeepsFns s (failDesc p r i st d d2 k s) := by
  have hend : KeepsFns s (finish p r i st d d2 k s) := .of_frame (finish_without (by decide))
  exact .ite (hend.trans (stopPartition_keepsFns ..)) hend

/-! ### Faults that an access to a super meets (R312, R354–R357, R446) -/

theorem moduleFault_keepsFns (st : Byte) (unit : Word) (s : State) : KeepsFns s (moduleFault st unit s) := by
  unfold moduleFault
  exact .ite (.of_eq rfl) (.ite (.of_eq rfl) (.inr (moduleReset_fns ..)))

theorem regionLost_keepsFns (d : Die) (s : State) : KeepsFns s (regionLost d s) := by
  unfold regionLost
  exact .ite ((queenFault_keepsFns stIntegrityFail (s.modDie d fun e => { e with region := false })).trans (.of_eq rfl))
    (moduleFault_keepsFns stIntegrityFail 0 (s.modDie d fun e => { e with region := false }))

theorem markDie_keepsFns (k : Super) (die : Fin 16) (s : State) : KeepsFns s (markDie k die s) := by
  unfold markDie
  dsimp only
  generalize hm : s.modSuper k _ = m
  have hmark : KeepsFns s m := .of_eq (by rw [← hm]; rfl)
  have hnote : Within [.out, .host, .fuses, .queen, .mod, .partRegs] m
      (ewSuper k 1 (recordRepair (dieOf k) 2 (k.val + 8 * die.val) m)) :=
    (ewSuper_without (by decide)).trans (recordRepair_without (by decide))
  generalize ewSuper k 1 (recordRepair (dieOf k) 2 (k.val + 8 * die.val) m) = n at hnote
  have hstop := (hmark.trans (.of_frame (hnote.mono (by decide)))).trans (.forEach (l := ownersOver n k sealedBase metaBase)
    (f := fun p s => stopPartition p k stIntegrityFail 0 0 0 [] s) (fun p t => stopPartition_keepsFns ..) n)
  split
  · exact hstop.trans (regionLost_keepsFns ..)
  · exact hstop

theorem nodeNote_keepsFns (k : Super) (n : Nat) (s : State) : KeepsFns s (nodeNote k n s) := by
  unfold nodeNote
  dsimp only
  generalize hm : (s.modSuper k _).modSuper k _ = m
  have hnote : KeepsFns s m := .of_eq (by rw [← hm]; rfl)
  split
  · exact .ite (hnote.trans (regionLost_keepsFns ..)) hnote
  · exact hnote

theorem reportCtr_keepsFns (k : Super) (ev : List CtrEvent) (s : State) : KeepsFns s (reportCtr k ev s) :=
  .forEach (fun e _ => .ite (.forEach (fun _ _ => stopPartition_keepsFns ..) _) (.of_frame (warnCtr_without (by decide)))) s

theorem noteDecode_keepsFns (k : Super) (l : Nat) (s : State) : KeepsFns s (noteDecode k l s) := by
  unfold noteDecode
  split
  · exact .refl s
  · next d _ =>
    have hline : KeepsFns s (if d.corrected then lineCorrected k l s else s) :=
      .ite (.of_frame (lineCorrected_without (by decide))) (.refl s)
    dsimp only
    split
    · exact hline.trans (markDie_keepsFns ..)
    · exact hline

theorem noteNodes_keepsFns (k : Super) (off : Nat) (s : State) : KeepsFns s (noteNodes k off s) :=
  .forEach (fun _ _ => noteDecode_keepsFns ..) s

theorem noteLine_keepsFns (k : Super) (l : Nat) (s : State) : KeepsFns s (noteLine k l s) :=
  .ite (noteDecode_keepsFns k l s) ((noteDecode_keepsFns k l s).trans (noteDecode_keepsFns ..))

/-! ### Writes to partition memory (R343, R354) -/

theorem storePiece_keepsFns (k : Super) (off : Nat) (data : Bytes) (s : State) : KeepsFns s (storePiece k off data s) := by
  have hctr : ∀ u ev, KeepsFns s (reportCtr k ev ((noteNodes k off s).modSuper k fun _ => u)) := fun u ev =>
    (noteNodes_keepsFns k off s).trans ((KeepsFns.of_eq rfl).trans (reportCtr_keepsFns ..))
  unfold storePiece
  exact .ite ((hctr ..).trans (.of_frame (warnCtr_without (by decide)))) (hctr ..)

theorem mergeSector_keepsFns (k : Super) (off : Nat) (data : Bytes) (src : BitVec 3) (s : State) :
    KeepsFns s (mergeSector k off data src s).1 := by
  have hread : KeepsFns s (forEach (partLines off data.length ++ siblings off data.length) (noteLine k) (noteNodes k off s)) :=
    (noteNodes_keepsFns k off s).trans (.forEach (fun _ _ => noteLine_keepsFns ..) _)
  have htag : ∀ l kind t, KeepsFns t (tagNote k l kind t) := fun _ _ _ => .of_frame (tagNote_without (by decide))
  have hlost : ∀ l t, KeepsFns t (lineUncorrectable k l src t) := fun _ _ => .of_frame (lineUncorrectable_without (by decide))
  unfold mergeSector
  dsimp only
  split
  · exact hread.trans (htag ..)
  · split
    · exact hread.trans (htag ..)
    · split
      · exact hread.trans (.ite (hlost ..) (.refl _))
      · exact hread.trans ((KeepsFns.forEach (fun _ _ => hlost ..) _).trans (storePiece_keepsFns ..))

theorem settleSector_keepsFns (k : Super) (key : KeyId) (off : Nat) (data : Bytes) (src : BitVec 3) (s : State) :
    KeepsFns s (settleSector k key off data src s).1 := by
  unfold settleSector
  dsimp only
  split
  · exact .refl s
  · split
    · exact (noteNodes_keepsFns ..).trans (nodeNote_keepsFns ..)
    · split
      · exact .of_frame (noteErr_without (by decide))
      · split
        · exact storePiece_keepsFns ..
        · exact mergeSector_keepsFns ..

theorem writeSector_keepsFns (p : Part) (a : Nat) (data : Bytes) (s : State) : KeepsFns s (writeSector p a data s).1 := by
  unfold writeSector
  split
  · exact .refl s
  · dsimp only
    split
    · exact .of_frame (noteErr_without (by decide))
    · exact settleSector_keepsFns ..

theorem writePieces_keepsFns (p : Part) (a0 : Nat) (data : Bytes) (l : List (Nat × Nat)) (s : State) :
    KeepsFns s (writePieces p a0 data l s).1 := by
  induction l generalizing s with
  | nil => exact .refl s
  | cons a r ih =>
    have hw := writeSector_keepsFns p a.1 (slice data (a.1 - a0) a.2) s
    unfold writePieces
    split
    · next h => rwa [h] at hw
    · next h =>
      rw [h] at hw
      exact hw.trans (ih _)

theorem ppaWrite_keepsFns (p : Part) (a : Nat) (data : Bytes) (s : State) : KeepsFns s (ppaWrite p a data s).1 :=
  writePieces_keepsFns ..

theorem putAll_keepsFns (p : Part) (l : List StagedWrite) (s : State) : KeepsFns s (putAll p l s).1 := by
  induction l generalizing s with
  | nil => exact .refl s
  | cons w r ih =>
    have hw := ppaWrite_keepsFns p w.ppa w.data s
    unfold putAll
    split
    · next h => rwa [h] at hw
    · next h =>
      rw [h] at hw
      exact hw.trans (ih _)

/-! ### Hild runs let go, and the end of a checkpoint (R295, R297, R533) -/

theorem endRun_keepsFns (k : Super) (st : Byte) (d : Word) (d2 : BitVec 56) (s : State) : KeepsFns s (endRun k st d d2 s) := by
  unfold endRun
  split
  · next c p _ _ =>
    dsimp only
    generalize hm : s.modHild k _ = m
    have hsm : KeepsFns s m := .of_eq (by rw [← hm]; rfl)
    have hpart : ∀ est ed ed2, KeepsFns s (match c.run.desc with
        | some d => endPart k d est ed ed2 c.bytes m
        | none => if est = stOK ∨ stopsPartition est then m else postEvent p evFault est k ed2 m) := fun est ed ed2 => by
      split
      · exact hsm.trans (.of_frame (endPart_without (by decide)))
      · exact .ite hsm (hsm.trans (.of_frame (postEvent_without (by decide))))
    exact .ite ((hpart ..).trans (stopPartitionAs_keepsFns ..)) (hpart ..)
  · exact .refl s

theorem runMemFail_keepsFns (k : Super) (e : MemErr) (s : State) : KeepsFns s (runMemFail k e s) := by
  unfold runMemFail
  dsimp only
  split
  · exact .refl s
  · exact .ite (.of_frame (dropRun_without (by decide))) (endRun_keepsFns ..)

theorem putCommit_keepsFns (k : Super) (state : Nat) (r : HildRun) (n : Nat) (s : State) :
    KeepsFns s (putCommit k state r n s) := by
  unfold putCommit
  dsimp only
  split
  · exact .refl s
  · next p _ =>
    refine .ite (.refl s) ?_
    have hw := ppaWrite_keepsFns p s.supers[k].hild.commit.toNat (commitRec state r n (humNs s k)) s
    split
    · next h => rwa [h] at hw
    · next h =>
      rw [h] at hw
      exact hw.trans (runMemFail_keepsFns ..)

theorem drainRun_keepsFns (k : Super) (s : State) : KeepsFns s (drainRun k s) := by
  unfold drainRun
  split
  · next c p _ _ =>
    refine .ite (.refl s) ?_
    have hw := putAll_keepsFns p c.staged s
    split
    · next h =>
      rw [h] at hw
      exact hw.trans (.of_eq rfl)
    · next h =>
      rw [h] at hw
      exact hw.trans (runMemFail_keepsFns ..)
  · exact .refl s

theorem openGate_keepsFns (k : Super) (s : State) : KeepsFns s (openGate k s) := by
  unfold openGate
  split
  · next c _ _ _ =>
    have hopen : KeepsFns s (putCommit k 1 c.run c.done (s.modHild k fun h => { h with state := 2 })) :=
      (KeepsFns.of_eq rfl).trans (putCommit_keepsFns ..)
    exact .ite (hopen.trans (drainRun_keepsFns ..)) (.refl s)
  · exact .refl s

theorem reportCkpt_keepsFns (p : Part) (ring : Option RunDesc) (st : Byte) (d1 : Word) (d2 : BitVec 56) (step : DWord)
    (s : State) : KeepsFns s (reportCkpt p ring st d1 d2 step s) := by
  have hevent : ∀ x, KeepsFns s (postEvent p evCheckpointTrigger 0xB0 p x s) := fun _ => .of_frame (postEvent_without (by decide))
  unfold reportCkpt
  split
  · exact failDesc_keepsFns ..
  · exact .ite ((hevent _).trans (stopPartition_keepsFns ..)) (hevent _)

/-- The end of a checkpoint lets staged runs go, whose writes may meet any fault of partition memory. -/
theorem endCkpt_keepsFns (p : Part) (st : Byte) (d1 : Word) (d2 : BitVec 56) (s : State) : KeepsFns s (endCkpt p st d1 d2 s) := by
  unfold endCkpt
  split
  · exact .refl s
  · next c _ =>
    dsimp only
    generalize hm : s.modPart p _ = m
    have hend : KeepsFns s m := .of_eq (by rw [← hm]; rfl)
    have hopen : ∀ t, KeepsFns t (releaseHold p (unblockCkpt p t)) := fun t =>
      (KeepsFns.of_frame (unblockCkpt_without (by decide))).trans (.forEach (fun _ _ => openGate_keepsFns ..) _)
    exact (hend.trans (reportCkpt_keepsFns ..)).trans (hopen _)

end Sys2Proof.FunctionFaultProofs
end

section
/-! One host function changed: enables, power states, IDE keys and TDISP requests, and the host link with its sessions (R412,
R430–R433, R574). -/

namespace Sys2Proof.FunctionProofs

open Sys2Proof Sys2Proof.Machine Sys2Proof.RegisterProofs Sys2Proof.RingProofs

/-! ### One function changed -/

theorem modFn_fn (s : State) (f g : Fn) (h : FnState → FnState) :
    (s.modFn f h).fns[g] = if f = g then h s.fns[g] else s.fns[g] := modFn_get s f h g

theorem modFn_at (s : State) (f : Fn) (h : FnState → FnState) : (s.modFn f h).fns[f] = h s.fns[f] := modFn_same s f h

theorem modFn_within (s : State) (f : Fn) (h : FnState → FnState) : Within [.fns] s (s.modFn f h) :=
  modFn_without _ _ _ _ (by decide)

/-- A command that changes one function leaves it so changed, and every other piece of the state. -/
theorem does_modFn {c : Instr} {s : State} {f : Fn} {h : FnState → FnState} (hx : exec c s = .next (s.modFn f h)) :
    Does c s fun t => t.fns[f] = h s.fns[f] ∧ Within [.fns] s t :=
  does_of_exec hx ⟨modFn_at s f h, modFn_within s f h⟩

/-- The interface state after an error (R431). -/
def erred (x : FnState) : FnState := { x with tdi := if x.tdi = 1 ∨ x.tdi = 2 then 3 else x.tdi }

theorem tdiError_eq (f : Fn) (s : State) : tdiError f s = s.modFn f erred := rfl

theorem erred_locked {x : FnState} (h : x.tdi = 1 ∨ x.tdi = 2) : erred x = { x with tdi := 3 } := by
  unfold erred
  rw [if_pos h]

/-- An enable cleared: a locked interface goes to ERROR where it had been set (R431). -/
def enableCleared (was : Bool) (x : FnState) : FnState := if was then erred x else x

theorem enableChange_fn (f : Fn) (was : Bool) (s : State) : (enableChange f was s).fns[f] = enableCleared was s.fns[f] := by
  cases was
  · rfl
  · exact modFn_at ..

theorem enableCleared_kept (was : Bool) (x : FnState) :
    (enableCleared was x).memSpace = x.memSpace ∧ (enableCleared was x).busMaster = x.busMaster := by
  cases was <;> exact ⟨rfl, rfl⟩

/-! ### Enables and D3hot (R433) -/

theorem d3hotEnter_stops (f : Fn) (s : State) : Does (.d3hotEnter f) s fun t =>
    t.fns[f] = { s.fns[f] with d3 := true } ∧ canRequest t f = false ∧ Within [.fns] s t := by
  have h := modFn_at s f fun x => { x with d3 := true }
  refine does_of_exec rfl ⟨h, ?_, modFn_within ..⟩
  simp only [canRequest, h, Bool.not_true, Bool.and_false, Bool.false_and]

section Enable

variable (f : Fn) (s : State)

theorem busMasterClear_stops : Does (.busMasterClear f) s fun t => t.fns[f].busMaster = false ∧ canRequest t f = false ∧
    t.fns[f].memSpace = s.fns[f].memSpace ∧ Within [.fns] s t := by
  have h := modFn_at (enableChange f s.fns[f].busMaster s) f fun x => { x with busMaster := false }
  refine does_of_exec rfl ⟨by rw [h], ?_, ?_, Within.trans (enableChange_without (by decide)) (modFn_within ..)⟩
  · simp only [canRequest, h, Bool.false_and]
  · rw [h, enableChange_fn]
    exact (enableCleared_kept ..).1

theorem memorySpaceClear_closes : Does (.memorySpaceClear f) s fun t => t.fns[f].memSpace = false ∧ mmioOpen t f = false ∧
    t.fns[f].busMaster = s.fns[f].busMaster ∧ Within [.fns] s t := by
  have h := modFn_at (enableChange f s.fns[f].memSpace s) f fun x => { x with memSpace := false }
  refine does_of_exec rfl ⟨by rw [h], ?_, ?_, Within.trans (enableChange_without (by decide)) (modFn_within ..)⟩
  · simp only [mmioOpen, h, Bool.and_false]
  · rw [h, enableChange_fn]
    exact (enableCleared_kept ..).2

end Enable

/-! ### The link and the sessions (R412, R432, R574) -/

/-- A port released from reset trains to any rate and width of R412 while the module is powered and its reference runs. -/
theorem exec_hostLinkUp {s : State} (hn : s.mod.perstN = true) (hg : s.power.pwrgd = true) (hr : s.power.prefLost = false)
    (hl : s.mod.linkUp = false) {g w : Nat} (hrate : g ∈ linkRates) (hwidth : w ∈ linkWidths) : exec (.hostLinkUp g w) s =
      .next { s with mod := { s.mod with linkUp := true, gts := g, width := w } } :=
  congrArg Host.Outcome.next (if_pos ⟨hn, hg, by rw [hr]; rfl, by rw [hl]; rfl, List.contains_iff_mem.2 hrate,
    List.contains_iff_mem.2 hwidth⟩)

theorem exec_spdmSession {s : State} (h5 : s.boot.stage = 5) (chan : SpdmChan) : exec (.spdmSessionEstablish chan) s =
    .next (match chan with
      | .doe => if s.mgmt.doeError then s else s.modMgmt fun m => { m with spdmDoe := true }
      | .mctp => s.modMgmt fun m => { m with spdmMctp := true }) :=
  congrArg Host.Outcome.next (if_neg (by rw [h5]; decide))

/-- Settles O32: each command by the one register it changes. -/
theorem hostLinkAndSessions : Obligations.HostLinkAndSessions := by
  refine fun s => ⟨fun f => d3hotEnter_stops f s, fun f => busMasterClear_stops f s, fun f => memorySpaceClear_closes f s, rfl,
    fun hn hg hr hl g hrate w hwidth => exec_hostLinkUp hn hg hr hl hrate hwidth, rfl, fun h5 he => ?_,
    fun h5 => exec_spdmSession h5 .mctp⟩
  exact (exec_spdmSession h5 .doe).trans (congrArg Host.Outcome.next (if_neg (by rw [he]; decide)))

end Sys2Proof.FunctionProofs
end

section
/-! The device-memory window of BAR 2, malformed accesses, and the staging buffer of recovery mode (R421, R422, R564). -/

namespace Sys2Proof.WindowProofs

open Sys2Proof Sys2Proof.Machine Sys2Proof.RingProofs Sys2Proof.FunctionProofs

/-! ### The staging buffer -/

/-- Where byte i of the staging buffer lies. -/
def stageByte (s : State) (i : Nat) : Byte :=
  memByte s.combs[if i < combStoreBytes then (0 : Comb) else 1].store (i % combStoreBytes)

theorem stageRead_eq (s : State) (off n : Nat) : stageRead s off n = (List.range n).map fun i => stageByte s (off + i) := rfl

theorem combWrite_store (k j : Comb) (a : Nat) (data : Bytes) (s : State) : (combWrite k a data s).combs[j].store =
    if k = j then memWrite s.combs[j].store a data else s.combs[j].store := by
  refine (congrArg CombState.store (modComb_get s k _ j)).trans ?_
  split <;> rfl

/-- A write of the staging buffer is read at every byte it covers. -/
theorem stageByte_stageWrite {off : Nat} {data : Bytes} (hfit : off + data.length ≤ 33554432) {i : Nat} (hi : i < data.length)
    (s : State) : stageByte (stageWrite off data s) (off + i) = data.getD i 0 := by
  have hnot : ¬ 33554432 < off + data.length := by omega
  unfold stageByte stageWrite
  dsimp only
  rw [if_neg hnot, combWrite_store, combWrite_store]
  by_cases hlow : off + i < combStoreBytes
  · rw [if_pos hlow, if_neg (by decide), if_pos rfl, Nat.mod_eq_of_lt hlow, memByte_memWrite,
      if_pos ⟨by omega, by rw [List.length_take]; omega⟩, Nat.add_sub_cancel_left]
    simp only [List.getD_eq_getElem?_getD, List.getElem?_take]
    rw [if_pos (by omega)]
  · have hmod : (off + i) % combStoreBytes = off + i - combStoreBytes := by
      unfold combStoreBytes at hlow ⊢
      omega
    rw [if_neg hlow, if_pos rfl, if_neg (by decide), hmod, memByte_memWrite,
      if_pos ⟨by omega, by rw [List.length_drop]; omega⟩]
    have hat : combStoreBytes - off + (off + i - combStoreBytes - (off - combStoreBytes)) = i := by omega
    simp only [List.getD_eq_getElem?_getD, List.getElem?_drop, hat]

theorem stageRead_stageWrite {off : Nat} {data : Bytes} (hfit : off + data.length ≤ 33554432) (s : State) :
    stageRead (stageWrite off data s) off data.length = data := by
  rw [stageRead_eq]
  refine List.ext_getElem (by simp) fun i h1 h2 => ?_
  rw [List.getElem_map, List.getElem_range, stageByte_stageWrite hfit h2]
  simp [h2]

/-! ### Accesses that reach PF0 -/

theorem regsServed_ready {s : State} (h5 : s.boot.stage = 5) : regsServed s = true := by
  unfold regsServed
  rw [h5]
  rfl

section Window

variable {s : State} (hm : s.fns[(0 : Fn)].memSpace = true)
include hm

theorem mmioOpen_pf0 : mmioOpen s 0 = true := by
  unfold mmioOpen
  rw [hm]
  rfl

theorem malformedMmio_counts (isRead : Bool) : Does (.malformedMmio 0 isRead) s fun t =>
    t.out = .mmioRefused 0 isRead :: s.out ∧ t.fns[(0 : Fn)].badMmio = hit 16 s.fns[(0 : Fn)].badMmio ∧
    Within [.out, .fns] s t := by
  have hx : exec (.malformedMmio 0 isRead) s = .next (emit (.mmioRefused 0 isRead) (badMmio 0 s)) := by
    refine congrArg Host.Outcome.next ?_
    rw [if_pos (mmioOpen_pf0 hm)]
  refine does_of_exec hx ⟨rfl, congrArg FnState.badMmio (modFn_at s 0 _), ?_⟩
  exact Within.trans ((modFn_within s 0 _).mono (by decide)) (emit_without _ _ _ (by decide))

section Read

variable {off : BitVec 30} {n : Nat} (hn : off.toNat % 4096 + n ≤ 4096)
include hn

/-- A read of the window of a page in recovery mode returns zeros: the staging buffer is write-only (R564). -/
theorem exec_bar2Read_recovery (h1 : 1 ≤ n) (h6 : s.boot.stage = 6) : exec (.bar2Read off n) s =
    .next (emit (.windowData (List.replicate n 0)) s) := by
  refine congrArg Host.Outcome.next ((if_neg (by omega)).trans ((if_neg ?_).trans (if_pos h6)))
  rw [mmioOpen_pf0 hm]
  decide

variable (h5 : s.boot.stage = 5)
include h5

/-- A read of the window while its registers are served, by whether a byte of it is refused (R422). -/
theorem effBar2Read_served (h1 : 1 ≤ n) {a : Nat} (ha : winAddrOf s off.toNat = a) :
    (((List.range n).map (a + ·)).any (winRefused s) = true → effBar2Read off.toNat n s = emit .windowAbort (denyWindow a
      (if ((List.range n).map (a + ·)).any (winTenant s) then dbgBlock (winSuper a) s else s))) ∧
    (((List.range n).map (a + ·)).any (winRefused s) = false → superServes s.supers[winSuper a] (winOff a) = true →
      effBar2Read off.toNat n s = emit (.windowData (storedBytes s (winSuper a) (winOff a) n)) s) := by
  have hfits : ¬ (n = 0 ∨ 4096 < off.toNat % 4096 + n) := by omega
  have hready : ¬ s.boot.stage = 6 := by
    rw [h5]
    decide
  subst ha
  unfold effBar2Read
  rw [if_neg hfits, mmioOpen_pf0 hm, if_neg hready, regsServed_ready h5]
  simp only [Bool.not_true, Bool.false_eq_true, if_false]
  exact ⟨fun hany => if_pos hany, fun hnone hs => (if_neg (by rw [hnone]; decide)).trans (if_pos hs)⟩

/-- A read none of whose bytes is refused returns what is stored. -/
theorem exec_bar2Read_returns (h1 : 1 ≤ n) (hok : ∀ i, i < n → winRefused s (winAddrOf s off.toNat + i) = false)
    (hs : superServes s.supers[winSuper (winAddrOf s off.toNat)] (winOff (winAddrOf s off.toNat)) = true) :
    exec (.bar2Read off n) s = .next (emit (.windowData (storedBytes s (winSuper (winAddrOf s off.toNat))
      (winOff (winAddrOf s off.toNat)) n)) s) := by
  have hnone : ((List.range n).map (winAddrOf s off.toNat + ·)).any (winRefused s) = false := by
    simp only [List.any_eq_false, List.mem_map, List.mem_range]
    rintro _ ⟨i, hi, rfl⟩
    rw [hok i hi]
    decide
  exact congrArg Host.Outcome.next ((effBar2Read_served hm hn h5 h1 rfl).2 hnone hs)

/-- One refused byte aborts the read, and the denial is noted. -/
theorem bar2Read_denied {i : Nat} (hi : i < n) (hbad : winRefused s (winAddrOf s off.toNat + i) = true) :
    Does (.bar2Read off n) s fun t => t.out = .windowAbort :: s.out ∧ t.mod.winDenied = hit 16 s.mod.winDenied ∧
      t.mod.winAddr = BitVec.ofNat 40 (winAddrOf s off.toNat) ∧ Within [.out, .superRegs, .mod] s t := by
  have hany : ((List.range n).map (winAddrOf s off.toNat + ·)).any (winRefused s) = true :=
    List.any_eq_true.2 ⟨_, List.mem_map.2 ⟨i, List.mem_range.2 hi, rfl⟩, hbad⟩
  refine does_of_exec (congrArg Host.Outcome.next ((effBar2Read_served hm hn h5 (by omega) rfl).1 hany)) ?_
  have hblock : ∀ c : Bool, Within [.superRegs] s (if c then dbgBlock (winSuper (winAddrOf s off.toNat)) s else s) := fun c =>
    ite_without (fun _ => dbgBlock_without (by decide)) fun _ => rfl
  have hb := hblock (((List.range n).map (winAddrOf s off.toNat + ·)).any (winTenant s))
  generalize (if ((List.range n).map (winAddrOf s off.toNat + ·)).any (winTenant s) = true then _ else s) = b at hb
  have hdeny : Within [.out, .superRegs, .mod] b (emit .windowAbort (denyWindow (winAddrOf s off.toNat) b)) :=
    (emit_without _ _ _ (by decide)).trans (denyWindow_without (by decide))
  refine ⟨?_, ?_, rfl, (hb.mono (by decide)).trans hdeny⟩
  · show _ :: b.out = _
    rw [hb.out_eq (by decide)]
  · show hit 16 b.mod.winDenied = _
    rw [hb.mod_eq (by decide)]

end Read

/-- A write of the window is dropped and noted as denied. -/
theorem bar2Write_denied (off : BitVec 30) (data : Bytes) (h5 : s.boot.stage = 5) : Does (.bar2Write off data) s fun t =>
    t.mod.winDenied = hit 16 s.mod.winDenied ∧ Within [.superRegs, .mod] s t := by
  have hblock : ∀ c : Bool, Within [.superRegs] s (if c then dbgBlock (winSuper (winAddrOf s off.toNat)) s else s) := fun c =>
    ite_without (fun _ => dbgBlock_without (by decide)) fun _ => rfl
  have hx : effBar2Write off.toNat data s = denyWindow (winAddrOf s off.toNat)
      (if (List.range data.length).any fun i => winTenant s (winAddrOf s off.toNat + i) then
        dbgBlock (winSuper (winAddrOf s off.toNat)) s else s) := by
    have hready : ¬ s.boot.stage = 6 := by
      rw [h5]
      decide
    unfold effBar2Write
    rw [mmioOpen_pf0 hm, if_neg hready, regsServed_ready h5]
    rfl
  have hb := hblock ((List.range data.length).any fun i => winTenant s (winAddrOf s off.toNat + i))
  refine does_of_exec (congrArg Host.Outcome.next hx) ⟨?_, (hb.mono (by decide)).trans (denyWindow_without (by decide))⟩
  show hit 16 (ModuleRegs.winDenied (State.mod _)) = _
  rw [hb.mod_eq (by decide)]

/-- In recovery mode a write fills the staging buffer, unless PLDM holds it (R564). -/
theorem bar2Write_stages {off : BitVec 30} {data : Bytes} (h6 : s.boot.stage = 6) (hb : s.boot.busy = false)
    (h0 : s.boot.staging = 0) (hfit : off.toNat + data.length ≤ 33554432) : Does (.bar2Write off data) s fun t =>
    stageRead t off.toNat data.length = data ∧ Within [.combMem] s t := by
  have hfree : ¬ (s.boot.busy = true ∨ s.boot.staging = 2 ∨ 33554432 < off.toNat + data.length) := by
    rw [hb, h0]
    simpa using hfit
  have hx : effBar2Write off.toNat data s = stageWrite off.toNat data s := by
    refine (if_neg ?_).trans ((if_pos h6).trans (if_neg hfree))
    rw [mmioOpen_pf0 hm]
    decide
  exact does_of_exec (congrArg Host.Outcome.next hx) ⟨stageRead_stageWrite hfit s, stageWrite_without (by decide)⟩

end Window

/-- Settles O28: an access that reaches PF0 by its kind, the stage, and whether a byte of it is refused. -/
theorem windowAccesses : Obligations.WindowAccesses := fun _ hm =>
  ⟨fun isRead => malformedMmio_counts hm isRead,
    fun _ _ h5 h1 hn hok hs => does_of_exec (exec_bar2Read_returns hm hn h5 h1 hok hs) rfl,
    fun _ _ _ h5 hn hi hbad => bar2Read_denied hm hn h5 hi hbad,
    fun _ _ h6 h1 hn => does_of_exec (exec_bar2Read_recovery hm hn h1 h6) rfl,
    fun off data h5 => bar2Write_denied hm off data h5,
    fun _ _ h6 hb h0 hfit => bar2Write_stages hm h6 hb h0 hfit⟩

end Sys2Proof.WindowProofs
end

section
/-! Host reads that fail: of a poll, of a descriptor, of a transfer's data (R427). -/

namespace Sys2Proof.HostReadProofs

open Sys2Proof Sys2Proof.Machine Sys2Proof.MemoryProofs Sys2Proof.JobFaultProofs Sys2Proof.RingProofs Sys2Proof.PollProofs
  Sys2Proof.SuperProofs Sys2Proof.FunctionProofs

theorem countFail_within (f : Fn) (fail : HostFail) (s : State) : Within [.fns] s (countFail f fail s) :=
  countFail_without (by decide)

theorem countFail_timeout (f : Fn) (s : State) : (countFail f .timeout s).fns[f].timeout = hit 16 s.fns[f].timeout :=
  congrArg FnState.timeout (modFn_at ..)

theorem countFail_badCompletion (f : Fn) (s : State) : (countFail f .badCompletion s).fns[f].cplBad = hit 16 s.fns[f].cplBad :=
  congrArg FnState.cplBad (modFn_at ..)

section Failed

variable {s : State} {p : Part} {r : Ring}

/-- A failed poll is over, and counted. -/
theorem hostReadFail_poll (hp : s.parts[p].rings[r].polled = true)
    (hi : hostIssued s (fnOf p) (.word (.ring p r)) = true) : Does (.hostReadFail .timeout (.word (.ring p r))) s fun t =>
      t.parts[p].rings[r] = { s.parts[p].rings[r] with polled := false } ∧
      t.fns[fnOf p].timeout = hit 16 s.fns[fnOf p].timeout ∧ Within [.out, .host, .rings, .fns] s t := by
  have ha := hostArrived_within (fnOf p) (.word (.ring p r)) s
  have hx : effReadFail .timeout (.word (.ring p r)) s =
      (countFail (fnOf p) .timeout (hostArrived (fnOf p) (.word (.ring p r)) s)).modRing p r fun g => { g with polled := false } :=
    if_pos (by rw [pollOpen, pollFn, hp, hi]; rfl)
  have hc := countFail_timeout (fnOf p) (hostArrived (fnOf p) (.word (.ring p r)) s)
  have hw := countFail_within (fnOf p) .timeout (hostArrived (fnOf p) (.word (.ring p r)) s)
  refine does_of_exec (congrArg Host.Outcome.next hx) ⟨?_, ?_, ?_⟩
  · rw [modRing_at, hw.part_rings p (by decide), ha.part_rings p (by decide)]
  · rw [← ha.fns_eq (by decide)]
    exact hc
  · exact (ha.mono (by decide)).trans ((hw.mono (by decide)).trans ((modRing_within ..).mono (by decide)))

/-- A failed descriptor read leaves the descriptor to the next poll, and is counted. -/
theorem hostReadFail_descriptor (hf : s.parts[p].rings[r].fetching ≠ 0) (hi : hostIssued s (fnOf p) (.descriptor p r) = true) :
    Does (.hostReadFail .badCompletion (.descriptor p r)) s fun t =>
      t.parts[p].rings[r] = { s.parts[p].rings[r] with fetching := 0 } ∧
      t.fns[fnOf p].cplBad = hit 16 s.fns[fnOf p].cplBad ∧ Within [.out, .host, .rings, .fns] s t := by
  have ha := hostArrived_within (fnOf p) (.descriptor p r) s
  have hx : effReadFail .badCompletion (.descriptor p r) s =
      (countFail (fnOf p) .badCompletion (hostArrived (fnOf p) (.descriptor p r) s)).modRing p r fun g => { g with fetching := 0 } :=
    if_neg (by rw [hi]; simpa using hf)
  have hc := countFail_badCompletion (fnOf p) (hostArrived (fnOf p) (.descriptor p r) s)
  have hw := countFail_within (fnOf p) .badCompletion (hostArrived (fnOf p) (.descriptor p r) s)
  refine does_of_exec (congrArg Host.Outcome.next hx) ⟨?_, ?_, ?_⟩
  · rw [modRing_at, hw.part_rings p (by decide), ha.part_rings p (by decide)]
  · rw [← ha.fns_eq (by decide)]
    exact hc
  · exact (ha.mono (by decide)).trans ((hw.mono (by decide)).trans ((modRing_within ..).mono (by decide)))

end Failed

/-- Where no recovery runs, a fault of the partition class begins one with its unit code and its supers. -/
theorem stopInternal_recov {p : Part} {k : Comb} {unit : Word} {sup : List Super} {s : State} (h : s.parts[p].recov = []) :
    ∃ r, (stopInternal p k unit sup s).parts[p].recov = [r] ∧ r.unit1 = unit ∧ r.supers = sup := by
  have ha : Within [.router] s (raiseAlarm p k 0x07 s) := raiseAlarm_without (by decide)
  have hr : (raiseAlarm p k 0x07 s).parts[p].recov = [] := (ha.part_recov p (by decide)).trans h
  obtain ⟨f, hunit, hsup, he⟩ : ∃ f : FaultInfo, f.unit = unit ∧ f.supers = sup ∧
      stopInternal p k unit sup s = beginRecovery p f (raiseAlarm p k 0x07 s) := by
    refine ⟨{ status := stInternal, detail := unit, alarm := 0x07, unit := unit, comb := k
              combs := combsOf (raiseAlarm p k 0x07 s) p, supers := sup, origin := coordWord (raiseAlarm p k 0x07 s) },
      rfl, rfl, ?_⟩
    simp only [stopInternal, stopPartition, stopPartitionAs, partitionFault, tearingDown, hr, List.any_nil, List.find?_nil,
      Bool.false_eq_true, if_false]
  obtain ⟨t, ht⟩ := beginRecovery_recov (f := f) hr
  exact ⟨_, he ▸ ht, hunit, hsup⟩

/-- A failed read of a transfer's host data stops the partition with the function's unit code (R427, R498). -/
theorem hostReadFail_transfer {s : State} {p : Part} {k : Comb} {f : Fin 4} {x : Transfer} {l : List Transfer} {d : RunDesc}
    (hp : partOf s k = some p) (hr : s.parts[p].recov = []) (hq : s.combs[k].seq.queues[f] = x :: l)
    (hs : (decodeXfer x.block).srcSpace = 0) (hd : s.combs[k].seq.running = some d) :
    Does (.hostReadFail .timeout (.transferData k f)) s fun t => Stopped p stInternal s t ∧
      t.fns[fnOf p].timeout = hit 16 s.fns[fnOf p].timeout ∧
      ∃ r, t.parts[p].recov = [r] ∧ r.unit1 = w32 (0x0E00 + (fnOf p).val) ∧ r.supers = [] := by
  have hx : failTransfer k f .timeout s = stopInternal p k (hostUnit (fnOf p)) []
      (finish d.part d.ring d.idx stInternal (hostUnit (fnOf p)) 0 k (countFail (fnOf p) .timeout s)) := by
    unfold failTransfer
    rw [hp, hq, hd]
    exact if_neg (by rw [hs]; decide)
  have hc := countFail_timeout (fnOf p) s
  have hcw := countFail_within (fnOf p) .timeout s
  generalize countFail (fnOf p) .timeout s = c at hx hc hcw
  have hfw : Within [.rings] c (finish d.part d.ring d.idx stInternal (hostUnit (fnOf p)) 0 k c) := finish_without (by decide)
  generalize finish d.part d.ring d.idx stInternal (hostUnit (fnOf p)) 0 k c = u at hx hfw
  have hsu : Within [.rings, .fns] s u := (hcw.mono (by decide)).trans (hfw.mono (by decide))
  have hru : u.parts[p].recov = [] := (hsu.part_recov p (by decide)).trans hr
  refine does_of_exec (congrArg Host.Outcome.next hx) ⟨stopped_of_within hsu (by decide) (by decide) (stopPartition_stops hru),
    ?_, stopInternal_recov hru⟩
  have hw : Within stopPieces u (stopInternal p k (hostUnit (fnOf p)) [] u) := stopPartition_within hru
  rw [hw.fns_eq (by decide), hfw.fns_eq (by decide)]
  exact hc

/-- Settles O29: each failed read by what it was read for. -/
theorem failedHostReads : Obligations.FailedHostReads := fun _ _ =>
  ⟨fun _ hp hi => hostReadFail_poll hp hi, fun _ hf hi => hostReadFail_descriptor hf hi,
    fun _ _ _ _ _ hp hr hq hs hd => hostReadFail_transfer hp hr hq hs hd⟩

end Sys2Proof.HostReadProofs
end

section
/-! Function resets: an FLR of a VF and of PF0, STOP_INTERFACE_REQUEST, VF Enable, and the resets of the host port (R431, R433). -/

namespace Sys2Proof.FunctionResetProofs

open Sys2Proof Sys2Proof.Machine Sys2Proof.MemoryProofs Sys2Proof.JobFaultProofs Sys2Proof.RingProofs Sys2Proof.PortProofs
  Sys2Proof.CellOperationProofs Sys2Proof.FunctionFaultProofs Sys2Proof.FunctionProofs

/-! ### The function's own registers -/

/-- A function that issues no request, and that no memory request reaches. -/
def Closed (x : FnState) : Prop := x.busMaster = false ∧ x.memSpace = false

/-- The registers of a function after its FLR. -/
def flrReset (x : FnState) : FnState :=
  erred { x with busMaster := false, memSpace := false, d3 := false, mps := 0, mrrs := 2, relaxed := true, latch := [] }

theorem flrFn_fn (f g : Fn) (s : State) : (flrFn f s).fns[g] = if f = g then flrReset s.fns[g] else s.fns[g] := by
  have hdrop : ∀ t, Within [.out, .host] t (drainHost (hostDrop f t)) := fun t =>
    (drainHost_without (by decide)).trans (hostDrop_without (by decide))
  unfold flrFn
  rw [(hdrop _).fns_eq (by decide), tdiError_eq, modFn_fn, modFn_fn]
  split <;> rfl

theorem flrFn_within (f : Fn) (s : State) : Within [.out, .host, .fns] s (flrFn f s) := flrFn_without (by decide)

theorem flrVf_dead {p : Part} {s : State} (h : (flrFn (fnOf p) s).parts[p].live = false) :
    flrVf p s = flrRings p (flrFn (fnOf p) s) := by
  unfold flrVf
  exact if_pos (by rw [h]; rfl)

theorem flrVf_live {p : Part} {s : State} (h : (flrFn (fnOf p) s).parts[p].live = true) :
    flrVf p s = (flrRings p (askPartition p .flr (flrFn (fnOf p) s))).modPart p fun q =>
      { q with recov := q.recov.map (keepLost (inFlight (flrFn (fnOf p) s) p)) } := by
  unfold flrVf
  exact if_neg (by rw [h]; decide)

theorem flrRings_fns (p : Part) (s : State) : (flrRings p s).fns = s.fns := modPart_fns ..

theorem flrVf_fns (p : Part) (s : State) : (flrVf p s).fns = (flrFn (fnOf p) s).fns := by
  cases h : (flrFn (fnOf p) s).parts[p].live
  · rw [flrVf_dead h, flrRings_fns]
  · rw [flrVf_live h, modPart_fns, flrRings_fns]
    exact Within.fns_eq (m := unitPieces) (askPartition_without (by decide)) (by decide)

/-- An FLR of a VF changes the registers of that function alone. -/
theorem flrVf_fn (p : Part) (g : Fn) (s : State) :
    (flrVf p s).fns[g] = if fnOf p = g then flrReset s.fns[g] else s.fns[g] :=
  (congrArg (fun v : Vector FnState 9 => v[g]) (flrVf_fns p s)).trans (flrFn_fn ..)

theorem flrVf_closes (p : Part) (s : State) : Closed (flrVf p s).fns[fnOf p] := by
  rw [flrVf_fn, if_pos rfl]
  exact ⟨rfl, rfl⟩

theorem flrVf_keepsClosed (p : Part) {g : Fn} {s : State} (h : Closed s.fns[g]) : Closed (flrVf p s).fns[g] := by
  rw [flrVf_fn]
  split
  · exact ⟨rfl, rfl⟩
  · exact h

/-! ### The reset of the partition that an FLR starts (R433, R489) -/

/-- The recovery that an FLR begins. -/
def flrRecovery (p : Part) (s : State) : Recovery :=
  { (newRecovery domPartition 0 (noFault s p (combsOf s p) (combsOf s p)) s).mark .flr false with alarm1 := 0x08 }

/-- Where no recovery runs, an FLR raises the alarm and smokes the whole partition. -/
theorem askPartition_flr {p : Part} {s : State} (h : s.parts[p].recov = []) : askPartition p .flr s =
    takeOver p (flrRecovery p (raiseAlarm p p 0x08 s)) (stopWhole p stResetAborted 5 0 domPartition (raiseAlarm p p 0x08 s)) := by
  unfold askPartition
  rw [h]
  rfl

theorem askPartition_flr_begins {p : Part} {s : State} (h : s.parts[p].recov = []) :
    (askPartition p .flr s).parts[p].stopped = true ∧
    (askPartition p .flr s).parts[p].recov = [flrRecovery p (raiseAlarm p p 0x08 s)] := by
  rw [askPartition_flr h]
  have ha : (raiseAlarm p p 0x08 s).parts[p].recov = s.parts[p].recov :=
    Within.part_recov (m := [.router]) (raiseAlarm_without (by decide)) p (by decide)
  generalize raiseAlarm p p 0x08 s = u at ha
  obtain ⟨hstop, hrecov, -⟩ := stopWhole_halts p stResetAborted 5 0 domPartition u
  generalize stopWhole p stResetAborted 5 0 domPartition u = v at hstop hrecov
  rw [takeOver_none (hrecov.trans (ha.trans h)), modPart_at]
  exact ⟨hstop, rfl⟩

/-- What an FLR of a VF leaves of its partition: registers at their reset values, and a partition reset begun. -/
structure FlrBegun (p : Part) (t : State) : Prop where
  rings : ∀ r : Ring, t.parts[p].rings[r] = {}
  evq : t.parts[p].evq = {}
  hiveAddr : t.parts[p].hiveAddr = 0
  stopped : t.parts[p].stopped = true
  recov : ∃ r, t.parts[p].recov = [r] ∧ r.domain = 5 ∧ r.noHost = true

theorem flrVf_begins {p : Part} {s : State} (hl : s.parts[p].live = true) (hr : s.parts[p].recov = []) :
    FlrBegun p (flrVf p s) := by
  have hw := flrFn_within (fnOf p) s
  have hlive : (flrFn (fnOf p) s).parts[p].live = true := (hw.part_live p (by decide)).trans hl
  obtain ⟨hstop, hrecov⟩ := askPartition_flr_begins ((hw.part_recov p (by decide)).trans hr)
  rw [flrVf_live hlive]
  generalize flrFn (fnOf p) s = u at hstop hrecov
  generalize askPartition p .flr u = a at hstop hrecov
  unfold flrRings
  refine ⟨fun r => ?_, ?_, ?_, ?_, ?_⟩ <;> rw [modPart_at, modPart_at]
  · exact Vector.getElem_replicate _
  · exact hstop
  · rw [hrecov]
    exact ⟨_, rfl, rfl, rfl⟩

/-- The region table and the semaphores outlive an FLR (R433). -/
theorem flrVf_keeps (p : Part) (s : State) :
    (flrVf p s).parts[p].rgn = s.parts[p].rgn ∧ (flrVf p s).parts[p].sems = s.parts[p].sems := by
  have hw : Within (.fns :: stopPieces) s (flrVf p s) := flrVf_without (by decide)
  exact ⟨hw.part_rgn p (by decide), hw.part_sems p (by decide)⟩

/-! ### What an FLR leaves of the module registers -/

/-- From s to t, of the module registers at most the event ring of PF0 changes. -/
def EventsOnly (s t : State) : Prop := t.mod = { s.mod with evq := t.mod.evq }

theorem EventsOnly.of_eq {s t : State} (h : t.mod = s.mod) : EventsOnly s t := by
  unfold EventsOnly
  rw [h]

theorem EventsOnly.winBase {s t : State} (h : EventsOnly s t) : t.mod.winBase = s.mod.winBase := by
  unfold EventsOnly at h
  rw [h]

theorem EventsOnly.trans {s t u : State} (h : EventsOnly s t) (h' : EventsOnly t u) : EventsOnly s u :=
  Eq.trans h' (congrArg (fun m : ModuleRegs => { m with evq := u.mod.evq }) h)

theorem postEvent_eventsOnly (p : Part) (x y : Byte) (k : Comb) (d : BitVec 56) (s : State) :
    EventsOnly s (postEvent p x y k d s) := by
  have hp : Within [.out, .host, .evq] s (eventToPart p x y k d s) := eventToPart_without (by decide)
  have hh : ∀ xs t, Within [.out, .host] t (hostPutAll 0 xs t) := fun xs t => hostPutAll_without (by decide)
  unfold EventsOnly postEvent eventToPf0
  rw [modMod_mod, (hh _ _).mod_eq (by decide), hp.mod_eq (by decide)]

theorem orphanCkpt_eventsOnly (p : Part) (st : Byte) (s : State) : EventsOnly s (orphanCkpt p st s) := by
  unfold orphanCkpt
  split
  · exact .of_eq rfl
  · dsimp only
    generalize hu : s.modPart p _ = u
    have hm : u.mod = s.mod := by
      rw [← hu]
      rfl
    split
    · exact .of_eq hm
    · exact (EventsOnly.of_eq hm).trans (postEvent_eventsOnly ..)

theorem orphanCkpt_none {p : Part} {s : State} (h : s.parts[p].ckpt = none) (st : Byte) : orphanCkpt p st s = s := by
  unfold orphanCkpt
  rw [h]

theorem modPart_ckpt {f : PartState → PartState} (hf : ∀ x, (f x).ckpt = x.ckpt) (p q : Part) (s : State) :
    (s.modPart p f).parts[q].ckpt = s.parts[q].ckpt := by
  refine (congrArg PartState.ckpt (modPart_get s p f q)).trans ?_
  split
  · exact hf _
  · rfl

theorem dropRestore_ckpt (p q : Part) (s : State) : (dropRestore p s).parts[q].ckpt = s.parts[q].ckpt := by
  unfold dropRestore
  split
  · rfl
  · refine (Within.part_ckpt (m := [.draws, .superMem, .superTree]) (undefinePlan_without (by decide)) q (by decide)).trans ?_
    exact modPart_ckpt (by exact fun _ => rfl) ..

/-- Of the steps that stop a whole partition, the end of its checkpoint alone reaches the module registers and checkpoints. -/
theorem stopWhole_orphans (p : Part) (st : Byte) (d : Word) (d2 : BitVec 56) (dom : BitVec 4) (s : State) :
    ∃ v, Within [.draws, .seq, .cellMem, .cellRun, .combMem, .ctx, .hild, .rings] s v ∧
      (stopWhole p st d d2 dom s).mod = (orphanCkpt p st v).mod ∧
      ∀ q : Part, (stopWhole p st d d2 dom s).parts[q].ckpt = (orphanCkpt p st v).parts[q].ckpt := by
  unfold stopWhole
  dsimp only
  have hhalt : Within [.draws, .seq, .cellMem, .cellRun, .combMem, .ctx] s (forEach (combsOf s p) (fun k s => haltComb k s) s) :=
    forEach_without _ _ _ _ fun a t => haltComb_without (by decide)
  generalize forEach (combsOf s p) (fun k s => haltComb k s) s = t at hhalt
  have hstop : Within [.seq, .hild, .ctx, .rings] t (stopRings p (fins 16) st d d2 dom (stopIssue (combsOf t p) t)) :=
    (stopRings_without (by decide)).trans (stopIssue_without (by decide))
  generalize stopRings p (fins 16) st d d2 dom (stopIssue (combsOf t p) t) = v at hstop
  refine ⟨v, (hhalt.mono (by decide)).trans (hstop.mono (by decide)), ?_, fun q => ?_⟩
  · have hrest : Within [.draws, .hum, .superMem, .superTree, .partRegs] (orphanCkpt p st v)
        (clearActive p (dropRestore p (orphanCkpt p st v))) :=
      (clearActive_without (by decide)).trans (dropRestore_without (by decide))
    exact hrest.mod_eq (by decide)
  · have hclear : Within [.hum] (dropRestore p (orphanCkpt p st v)) (clearActive p (dropRestore p (orphanCkpt p st v))) :=
      clearActive_without (by decide)
    rw [modPart_ckpt (by exact fun _ => rfl), hclear.part_ckpt q (by decide), dropRestore_ckpt]

/-- No partition has a checkpoint. -/
def Ckptless (s : State) : Prop := ∀ q : Part, s.parts[q].ckpt = none

/-- A step at which only an event may reach the module registers, and none does where no checkpoint runs. -/
structure QuietStep (s t : State) : Prop where
  events : EventsOnly s t
  ckptless : Ckptless s → Ckptless t ∧ t.mod = s.mod

theorem QuietStep.of_kept {s t : State} (hm : t.mod = s.mod) (hc : ∀ q : Part, t.parts[q].ckpt = s.parts[q].ckpt) :
    QuietStep s t := ⟨.of_eq hm, fun h => ⟨fun q => (hc q).trans (h q), hm⟩⟩

theorem QuietStep.trans {s t u : State} (h : QuietStep s t) (h' : QuietStep t u) : QuietStep s u := by
  refine ⟨h.events.trans h'.events, fun hs => ?_⟩
  obtain ⟨ht, htm⟩ := h.ckptless hs
  obtain ⟨hu, hum⟩ := h'.ckptless ht
  exact ⟨hu, hum.trans htm⟩

theorem QuietStep.of_within {m : List Piece} {s t : State} (w : Within m s t) (hm : m.contains .mod = false)
    (hp : m.contains .partRegs = false) : QuietStep s t := .of_kept (w.mod_eq hm) fun q => w.part_ckpt q hp

theorem QuietStep.modPart {f : PartState → PartState} (hf : ∀ x, (f x).ckpt = x.ckpt) (p : Part) (s : State) :
    QuietStep s (s.modPart p f) := .of_kept rfl fun q => modPart_ckpt hf p q s

theorem stopWhole_quiet (p : Part) (st : Byte) (d : Word) (d2 : BitVec 56) (dom : BitVec 4) (s : State) :
    QuietStep s (stopWhole p st d d2 dom s) := by
  obtain ⟨v, hsv, hmod, hckpt⟩ := stopWhole_orphans p st d d2 dom s
  have hv : QuietStep s v := .of_within hsv (by decide) (by decide)
  refine ⟨hv.events.trans ((orphanCkpt_eventsOnly p st v).trans (.of_eq hmod)), fun hs => ?_⟩
  obtain ⟨hnone, hvm⟩ := hv.ckptless hs
  rw [orphanCkpt_none (hnone p)] at hmod hckpt
  exact ⟨fun q => (hckpt q).trans (hnone q), hmod.trans hvm⟩

theorem takeOver_quiet (p : Part) (r : Recovery) (s : State) : QuietStep s (takeOver p r s) := by
  have hsmokes : Within [.rings] s (forEach s.parts[p].recov (fun o s => abortSmokes o r.domain s) s) :=
    forEach_without _ _ _ _ fun o t => abortSmokes_without (by decide)
  exact (QuietStep.of_within hsmokes (by decide) (by decide)).trans (.modPart (by exact fun _ => rfl) p _)

theorem absorb_flr_quiet (p : Part) (i : Nat) (s : State) : QuietStep s (absorb p i .flr s) := by
  unfold absorb
  dsimp only [holdSmoke]
  split
  · exact .of_kept rfl fun _ => rfl
  · exact .modPart (by exact fun _ => rfl) p s

theorem askPartition_flr_quiet (p : Part) (s : State) : QuietStep s (askPartition p .flr s) := by
  unfold askPartition
  dsimp only [holdSmoke]
  split
  · exact absorb_flr_quiet ..
  · have ha : Within [.router] s (raiseAlarm p p 0x08 s) := raiseAlarm_without (by decide)
    exact (QuietStep.of_within ha (by decide) (by decide)).trans ((stopWhole_quiet ..).trans (takeOver_quiet ..))

theorem flrVf_quiet (p : Part) (s : State) : QuietStep s (flrVf p s) := by
  have hf : QuietStep s (flrFn (fnOf p) s) := .of_within (flrFn_within ..) (by decide) (by decide)
  have hrings : ∀ t, QuietStep t (flrRings p t) := fun t => .modPart (by exact fun _ => rfl) p t
  cases h : (flrFn (fnOf p) s).parts[p].live
  · rw [flrVf_dead h]
    exact hf.trans (hrings _)
  · rw [flrVf_live h]
    exact hf.trans ((askPartition_flr_quiet ..).trans ((hrings _).trans (.modPart (by exact fun _ => rfl) p _)))

/-! ### VF Enable, and an FLR of PF0 -/

theorem fn_cases (f : Fn) : f = 0 ∨ ∃ p : Part, f = fnOf p := by
  by_cases h : f.val = 0
  · exact .inl (Fin.ext h)
  · exact .inr ⟨⟨f.val - 1, by omega⟩, Fin.ext (show f.val = f.val - 1 + 1 by omega)⟩

theorem fnOf_ne_zero (p : Part) : fnOf p ≠ 0 := fun h => absurd (congrArg Fin.val h) (Nat.succ_ne_zero p.val)

theorem dropVfs_fns (s : State) : (dropVfs s).fns = (forEach (fins 8) flrVf s).fns := by
  unfold dropVfs
  exact modMod_fns ..

theorem dropVfs_disables (s : State) : (dropVfs s).mod.vfEnable = false := by
  unfold dropVfs
  rw [modMod_mod]

theorem dropVfs_closes (p : Part) (s : State) : Closed (dropVfs s).fns[fnOf p] := by
  rw [dropVfs_fns]
  exact forEach_establishes (P := fun p t => Closed t.fns[fnOf p]) flrVf_closes (fun _ b _ h => flrVf_keepsClosed b h)
    (mem_fins p) s

theorem dropVfs_pf0 (s : State) : (dropVfs s).fns[(0 : Fn)] = s.fns[(0 : Fn)] := by
  rw [dropVfs_fns]
  exact forEach_keeps (fun t => t.fns[(0 : Fn)]) _ _ s fun p t => (flrVf_fn p 0 t).trans (if_neg (fnOf_ne_zero p))

theorem flrVfs_quiet (s : State) : QuietStep s (forEach (fins 8) flrVf s) :=
  forEach_invariant (I := QuietStep s) (fun p t h => h.trans (flrVf_quiet p t)) (fins 8)
    (.of_within (Within.refl [] s) rfl rfl)

/-- What an FLR of PF0 leaves of a state in which only its own registers are reset. -/
theorem dropVfs_mod {s : State} (hb : s.mod.winBase = 0) (he : s.mod.evq = {}) : (dropVfs s).mod.winBase = 0 ∧
    (Ckptless s → (dropVfs s).mod.evq = {}) := by
  obtain ⟨hevents, hckpt⟩ := flrVfs_quiet s
  unfold dropVfs
  generalize forEach (fins 8) flrVf s = u at hevents hckpt
  rw [modMod_mod]
  exact ⟨hevents.winBase.trans hb, fun hc => (congrArg ModuleRegs.evq (hckpt hc).2).trans he⟩

theorem flrPf0_closes (f : Fn) (s : State) : Closed (flrPf0 s).fns[f] := by
  unfold flrPf0
  rcases fn_cases f with rfl | ⟨p, rfl⟩
  · rw [dropVfs_pf0, modMod_fns, flrFn_fn, if_pos rfl]
    exact ⟨rfl, rfl⟩
  · exact dropVfs_closes ..

theorem flrPf0_mod (s : State) : (flrPf0 s).mod.vfEnable = false ∧ (flrPf0 s).mod.winBase = 0 ∧
    (Ckptless s → (flrPf0 s).mod.evq = {}) := by
  have hckpt (h : Ckptless s) : Ckptless (flrFn 0 s) := fun q => ((flrFn_within 0 s).part_ckpt q (by decide)).trans (h q)
  unfold flrPf0
  generalize flrFn 0 s = u at hckpt
  obtain ⟨hbase, hevq⟩ := dropVfs_mod (s := u.modMod fun m => { m with evq := {}, winBase := 0 }) rfl rfl
  exact ⟨dropVfs_disables _, hbase, fun h => hevq (hckpt h)⟩

/-! ### A stream that leaves Secure (R429) -/

/-- A function whose stream is Insecure, its key sets gone. -/
def unsecured (x : FnState) : FnState := { x with secure := false, keySets := 0 }

theorem noteNoIde_fn (p : Part) (g : Fn) (s : State) : ∃ n, (noteNoIde p s).fns[g] = { s.fns[g] with noIde := n } := by
  unfold noteNoIde
  split
  · exact ⟨_, rfl⟩
  · rw [modFn_fn]
    split <;> exact ⟨_, rfl⟩

/-- The end of a checkpoint that a lost stream brings (R429). -/
def loseCkpt (p : Part) (s : State) : State := endCkpt p stEgressDenied (w32 clsCheckpoint) 0 (noteNoIde p s)

/-- A stream that leaves Secure changes its own function, and may end a checkpoint of its partition. -/
theorem unsecure_eq (f : Fn) (s : State) : unsecure f s = s.modFn f unsecured ∨
    ∃ p, partOfFn f = some p ∧ s.parts[p].ckpt ≠ none ∧ unsecure f s = loseCkpt p (s.modFn f unsecured) := by
  unfold unsecure
  dsimp only
  split
  · next p hp =>
    split
    · next h =>
      exact .inr ⟨p, hp, fun hn => by rw [modFn_parts, hn] at h; simp at h, rfl⟩
    · exact .inl rfl
  · exact .inl rfl

/-- A stream that leaves Secure may end a checkpoint, and that a module reset; else only its own function changes. -/
theorem unsecure_fn (f g : Fn) (s : State) : (unsecure f s).fns[g] = {} ∨
    ∃ n, (unsecure f s).fns[g] = { (if f = g then unsecured s.fns[g] else s.fns[g]) with noIde := n } := by
  rw [← modFn_fn]
  rcases unsecure_eq f s with h | ⟨p, -, -, h⟩ <;> rw [h]
  · exact .inr ⟨_, rfl⟩
  · generalize s.modFn f unsecured = u
    obtain ⟨n, hn⟩ := noteNoIde_fn p g u
    unfold loseCkpt
    rcases endCkpt_keepsFns p stEgressDenied (w32 clsCheckpoint) 0 (noteNoIde p u) with h | h <;> rw [h]
    · exact .inr ⟨n, hn⟩
    · exact .inl (Vector.getElem_replicate _)

/-- What a stream that leaves Secure does to any property of a function that the reset values have and that no count and no
loss of its stream takes from it. -/
theorem unsecure_keeps {P : FnState → Prop} (hreset : P {}) (hnote : ∀ x n, P x → P { x with noIde := n })
    (hlose : ∀ x, P x → P (unsecured x)) (f g : Fn) {s : State} (h : P s.fns[g]) : P (unsecure f s).fns[g] := by
  rcases unsecure_fn f g s with e | ⟨n, e⟩
  · rw [e]
    exact hreset
  · rw [e]
    refine hnote _ _ ?_
    split
    · exact hlose _ h
    · exact h

/-- A function without a Secure stream. -/
def Insecure (x : FnState) : Prop := x.secure = false ∧ x.keySets = 0

theorem unsecure_insecure (f : Fn) (s : State) : Insecure (unsecure f s).fns[f] := by
  rcases unsecure_fn f f s with e | ⟨n, e⟩
  · rw [e]
    exact ⟨rfl, rfl⟩
  · rw [e, if_pos rfl]
    exact ⟨rfl, rfl⟩

theorem unsecureAll_insecure (f : Fn) (s : State) : Insecure (forEach (fins 9) unsecure s).fns[f] :=
  forEach_establishes (P := fun f t => Insecure t.fns[f]) unsecure_insecure
    (fun a b _ h => unsecure_keeps (P := Insecure) ⟨rfl, rfl⟩ (fun _ _ h => h) (fun _ _ => ⟨rfl, rfl⟩) b a h) (mem_fins f) s

theorem unsecureAll_closed (f : Fn) {s : State} (h : Closed s.fns[f]) : Closed (forEach (fins 9) unsecure s).fns[f] :=
  forEach_invariant (I := fun t => Closed t.fns[f])
    (fun a _ ht => unsecure_keeps (P := Closed) ⟨rfl, rfl⟩ (fun _ _ h => h) (fun _ h => h) a f ht) (fins 9) h

/-! ### Resets of the host port (R433) -/

/-- An interface unlocked, its key set deselected. -/
def unlocked (x : FnState) : FnState := { x with tdi := 0, activeSet := 0 }

theorem unlockAll_fn (f : Fn) (s : State) : (forEach (fins 9) (fun f s => s.modFn f unlocked) s).fns[f] = unlocked s.fns[f] :=
  forEach_once_mem (I := fun _ => True) (fun t => t.fns[f]) (fun _ _ _ => trivial) (fun t _ => modFn_at t f unlocked)
    (fun b t hb _ => (modFn_fn t b f unlocked).trans (if_neg hb)) (fins_nodup 9) (mem_fins f) trivial

/-- The state a reset of the host port leaves, from the functions reset one by one. -/
theorem portReset_eq (s : State) : portReset s =
    ((forEach (fins 9) (fun f s => s.modFn f unlocked) (forEach (fins 9) unsecure (flrPf0 s))).modMgmt fun m =>
      { m with spdmDoe := false, spdmMctp := false }).modMod fun m => { m with linkUp := false, gts := 0, width := 0 } := by
  unfold portReset
  rfl

/-- What a reset of the host port leaves. -/
structure PortDown (t : State) : Prop where
  link : t.mod.linkUp = false
  doe : t.mgmt.spdmDoe = false
  mctp : t.mgmt.spdmMctp = false
  fns : ∀ f : Fn, t.fns[f].secure = false ∧ t.fns[f].keySets = 0 ∧ t.fns[f].tdi = 0 ∧ t.fns[f].busMaster = false

theorem portReset_down (s : State) : PortDown (portReset s) := by
  rw [portReset_eq]
  have hclosed (f : Fn) := unsecureAll_closed f (flrPf0_closes f s)
  have hinsecure (f : Fn) := unsecureAll_insecure f (flrPf0 s)
  generalize forEach (fins 9) unsecure (flrPf0 s) = u at hclosed hinsecure
  have hx (f : Fn) := unlockAll_fn f u
  generalize forEach (fins 9) (fun f s => s.modFn f unlocked) u = v at hx
  refine ⟨rfl, rfl, rfl, fun f => ?_⟩
  obtain ⟨hsecure, hkeys⟩ := hinsecure f
  obtain ⟨hmaster, -⟩ := hclosed f
  rw [modMod_fns, modMgmt_fns, hx]
  exact ⟨hsecure, hkeys, rfl, hmaster⟩

theorem exec_hotReset {s : State} (h : s.mod.linkUp = true) : exec .hotReset s = .next (portReset s) :=
  congrArg Host.Outcome.next (if_pos h)

theorem exec_hostLinkDown {s : State} (h : s.mod.linkUp = true) : exec .hostLinkDown s = .next (portReset s) :=
  congrArg Host.Outcome.next (if_pos h)

theorem portCommand_down {c : Instr} {s : State} (hc : c = .hotReset ∨ c = .hostLinkDown ∨ c = .perstNAssert)
    (hl : s.mod.linkUp = true) : Does c s fun t => PortDown t ∧ (c = .perstNAssert → t.mod.perstN = false) := by
  obtain ⟨hlink, hdoe, hmctp, hfns⟩ := portReset_down s
  rcases hc with rfl | rfl | rfl
  · exact does_of_exec (exec_hotReset hl) ⟨⟨hlink, hdoe, hmctp, hfns⟩, fun h => by cases h⟩
  · exact does_of_exec (exec_hostLinkDown hl) ⟨⟨hlink, hdoe, hmctp, hfns⟩, fun h => by cases h⟩
  · generalize hu : portReset s = u at hlink hdoe hmctp hfns
    have hx : exec .perstNAssert s = .next (u.modMod fun m => { m with perstN := false }) := by
      rw [← hu]
      rfl
    exact does_of_exec hx ⟨⟨hlink, hdoe, hmctp, hfns⟩, fun _ => rfl⟩

/-! ### The statement -/

theorem exec_vfFlr {s : State} {p : Part} (h : fnPresent s (fnOf p) = true) : exec (.vfFlr p) s = .next (flrVf p s) :=
  congrArg Host.Outcome.next (if_pos h)

theorem exec_vfEnableClear {s : State} (h : s.mod.vfEnable = true) : exec .vfEnableClear s = .next (dropVfs s) :=
  congrArg Host.Outcome.next (if_pos h)

theorem vfFlr_begins {s : State} {p : Part} (hf : fnPresent s (fnOf p) = true) (hl : s.parts[p].live = true)
    (hr : s.parts[p].recov = []) : Does (.vfFlr p) s fun t => FlrBegun p t ∧ Closed t.fns[fnOf p] ∧
      t.parts[p].rgn = s.parts[p].rgn ∧ t.parts[p].sems = s.parts[p].sems :=
  does_of_exec (exec_vfFlr hf) ⟨flrVf_begins hl hr, flrVf_closes p s, flrVf_keeps p s⟩

theorem stopInterface_begins {s : State} {p : Part} (hl : s.parts[p].live = true) (hr : s.parts[p].recov = []) :
    Does (.stopInterfaceRequest p) s fun t => FlrBegun p t ∧ t.fns[fnOf p].busMaster = false ∧ t.fns[fnOf p].tdi = 0 := by
  obtain ⟨hrings, hevq, hhive, hstop, hrecov⟩ := flrVf_begins hl hr
  obtain ⟨hmaster, -⟩ := flrVf_closes p s
  generalize hu : flrVf p s = u at hrings hevq hhive hstop hrecov hmaster
  have hx : exec (.stopInterfaceRequest p) s = .next (u.modFn (fnOf p) fun x => { x with tdi := 0 }) := by
    rw [← hu]
    rfl
  refine does_of_exec hx ⟨⟨hrings, hevq, hhive, hstop, hrecov⟩, ?_, ?_⟩ <;> rw [modFn_at]
  exact hmaster

/-- Settles O30: an FLR by the registers it resets and the recovery it begins, the larger resets function by function. -/
theorem functionResets : Obligations.FunctionResets := by
  refine fun s => ⟨fun p hf hl hr => ?_, fun p hl hr => ?_, ?_, fun hv => ?_, fun c hc hl => ?_⟩
  · refine does_imp (vfFlr_begins hf hl hr) fun t ⟨h, ⟨hmaster, hmem⟩, hrgn, hsems⟩ => ?_
    exact ⟨h.rings, h.evq, h.hiveAddr, hrgn, hsems, hmaster, hmem, h.stopped, h.recov⟩
  · refine does_imp (stopInterface_begins hl hr) fun t ⟨h, hmaster, htdi⟩ => ?_
    obtain ⟨r, hr, hdom, -⟩ := h.recov
    exact ⟨htdi, hmaster, h.rings, r, hr, hdom⟩
  · obtain ⟨hvf, hbase, hevq⟩ := flrPf0_mod s
    exact does_of_exec rfl ⟨hevq, hbase, hvf, fun f => flrPf0_closes f s⟩
  · exact does_of_exec (exec_vfEnableClear hv) ⟨dropVfs_disables s, dropVfs_pf0 s, fun p => dropVfs_closes p s⟩
  · exact does_imp (portCommand_down hc hl) fun t ⟨h, hperst⟩ => ⟨h.link, h.doe, h.mctp, h.fns, hperst⟩

end Sys2Proof.FunctionResetProofs
end

section
/-! The security of an interface: a failed IDE check, key sets, LOCK, START, and watched changes (R428–R432). -/

namespace Sys2Proof.InterfaceProofs

open Sys2Proof Sys2Proof.Machine Sys2Proof.MemoryProofs Sys2Proof.RingProofs Sys2Proof.CellOperationProofs Sys2Proof.FunctionProofs
  Sys2Proof.FunctionResetProofs

/-! ### A checkpoint's end that opens no gate -/

/-- A status that stops no partition is only reported: by the descriptor's record, or by an event (R517). -/
theorem reportCkpt_within (p : Part) (ring : Option RunDesc) {st : Byte} (hst : stopsPartition st = false) (d1 : Word)
    (d2 : BitVec 56) (step : DWord) (s : State) :
    Within [.out, .host, .evq, .mod, .rings] s (reportCkpt p ring st d1 d2 step s) := by
  unfold reportCkpt
  split
  · unfold failDesc
    dsimp only
    rw [hst]
    exact finish_without (by decide)
  · dsimp only
    rw [hst]
    exact postEvent_without (by decide)

/-- The gate of a Hild unit that is not staging stays as it is (R295). -/
theorem openGate_notStaging {k : Super} {s : State} (h : s.supers[k].hild.state ≠ 1) : openGate k s = s := by
  unfold openGate
  split
  · exact if_neg fun hgate => h hgate.1
  · rfl

/-- No Hild unit of partition p is staging. -/
def NoneStaging (p : Part) (s : State) : Prop := ∀ k ∈ combsOf s p, s.supers[k].hild.state ≠ 1

theorem releaseHold_noneStaging {p : Part} {s : State} (h : NoneStaging p s) : releaseHold p s = s :=
  forEach_fixed fun k hk => openGate_notStaging (h k hk)

theorem NoneStaging.of_within {m : List Piece} {p : Part} {s t : State} (h : NoneStaging p s) (w : Within m s t)
    (hc : m.contains .combMap = false) (hp : m.contains .partMap = false) (hh : m.contains .hild = false) : NoneStaging p t := by
  intro k hk
  rw [within_combsOf w hc hp] at hk
  rw [w.super_hild k hh]
  exact h k hk

theorem endCkpt_fns {p : Part} {st : Byte} (hst : stopsPartition st = false) (d1 : Word) (d2 : BitVec 56) {s : State}
    (h : NoneStaging p s) : (endCkpt p st d1 d2 s).fns = s.fns := by
  unfold endCkpt
  split
  · rfl
  · next c _ =>
    dsimp only
    generalize hu : s.modPart p _ = u
    have hdrop : Within [.partRegs] s u := by
      rw [← hu]
      exact modPart_without _ _ _ _ fun _ => rfl
    have hreport := reportCkpt_within p c.ring hst d1 d2 c.step u
    generalize reportCkpt p c.ring st d1 d2 c.step u = v at hreport
    have hunblock : Within [.rings] v (unblockCkpt p v) := unblockCkpt_without (by decide)
    have hw : Within [.partRegs, .out, .host, .evq, .mod, .rings] s (unblockCkpt p v) :=
      ((hdrop.mono (by decide)).trans (hreport.mono (by decide))).trans (hunblock.mono (by decide))
    rw [releaseHold_noneStaging (h.of_within hw (by decide) (by decide) (by decide))]
    exact hw.fns_eq (by decide)

/-! ### A failed check of a received TLP (R428, R429) -/

/-- A stream that leaves Secure changes no other register of its function than the count of EGRESS_NOIDE. -/
theorem unsecure_own {f : Fn} {s : State} (h : ∀ p, partOfFn f = some p → s.parts[p].ckpt ≠ none → NoneStaging p s) :
    ∃ n, (unsecure f s).fns[f] = { unsecured s.fns[f] with noIde := n } := by
  rw [← modFn_at s f unsecured]
  rcases unsecure_eq f s with e | ⟨p, hp, hc, e⟩ <;> rw [e]
  · exact ⟨_, rfl⟩
  · have hfn := modFn_within s f unsecured
    have hnone : NoneStaging p (s.modFn f unsecured) := (h p hp hc).of_within hfn (by decide) (by decide) (by decide)
    generalize s.modFn f unsecured = u at hnone
    have hnote : Within [.fns] u (noteNoIde p u) := noteNoIde_without (by decide)
    unfold loseCkpt
    rw [endCkpt_fns (by decide) _ _ (hnone.of_within hnote (by decide) (by decide) (by decide))]
    exact noteNoIde_fn p f u

/-- The TLP that fails its check is counted (R428). -/
def checkFailed (x : FnState) : FnState := { x with ideFail := hit 16 x.ideFail }

theorem exec_ideCheckFail {f : Fn} {s : State} (h : s.fns[f].secure = true) :
    exec (.ideCheckFail f) s = .next (tdiError f (unsecure f (s.modFn f checkFailed))) :=
  congrArg Host.Outcome.next (if_pos h)

theorem ideCheckFail_unsecures {f : Fn} {s : State} (hs : s.fns[f].secure = true)
    (h : ∀ p, partOfFn f = some p → s.parts[p].ckpt ≠ none → NoneStaging p s) :
    Does (.ideCheckFail f) s fun t => ∃ n, t.fns[f] = erred { unsecured (checkFailed s.fns[f]) with noIde := n } := by
  have hfn := modFn_within s f checkFailed
  have hnone (p : Part) (hp : partOfFn f = some p) (hc : (s.modFn f checkFailed).parts[p].ckpt ≠ none) :
      NoneStaging p (s.modFn f checkFailed) :=
    (h p hp hc).of_within hfn (by decide) (by decide) (by decide)
  obtain ⟨n, hn⟩ := unsecure_own hnone
  refine does_of_exec (exec_ideCheckFail hs) ⟨n, ?_⟩
  rw [tdiError_eq, modFn_at, hn, modFn_at]

/-! ### Key sets and TDISP requests (R430–R432) -/

theorem bit_programmed (keys : BitVec 2) (i : Fin 2) : (keys ||| 1#2 <<< i.val).getLsbD i.val = true := by
  have hi : i.val ≤ 1 := by omega
  simp [hi]

theorem keyProg_programs {f : Fn} {i : Fin 2} {s : State} (h : s.mgmt.spdmDoe = true) :
    Does (.keyProg f i) s fun t => t.fns[f].keySets.getLsbD i.val = true ∧ t.fns[f].secure = s.fns[f].secure ∧ Within [.fns] s t := by
  refine does_imp (does_modFn (congrArg Host.Outcome.next (if_pos h))) fun t ⟨hx, hw⟩ => ⟨?_, ?_, hw⟩ <;> rw [hx]
  exact bit_programmed ..

theorem exec_kSetGo {f : Fn} {i : Fin 2} {s : State} (hd : s.mgmt.spdmDoe = true) (hk : s.fns[f].keySets.getLsbD i.val = true) :
    exec (.kSetGo f i) s = .next (s.modFn f fun x => { x with activeSet := i.val, secure := true }) :=
  congrArg Host.Outcome.next (if_pos ⟨hd, hk⟩)

section Interface

variable {p : Part} {s : State}

theorem exec_lock (ht : s.fns[fnOf p].tdi = 0) (hl : s.parts[p].live = true) (hs : s.fns[fnOf p].secure = true) :
    exec (.lockInterfaceRequest p) s = .next (s.modFn (fnOf p) fun x => { x with tdi := 1 }) :=
  congrArg Host.Outcome.next (if_pos ⟨ht, hl, hs⟩)

theorem exec_lock_refused (h : s.parts[p].live = false ∨ s.fns[fnOf p].secure = false) :
    exec (.lockInterfaceRequest p) s = .next s := by
  refine congrArg Host.Outcome.next (if_neg fun ⟨_, hl, hs⟩ => ?_)
  rcases h with h | h
  · exact absurd hl (by rw [h]; decide)
  · exact absurd hs (by rw [h]; decide)

theorem exec_start (ht : s.fns[fnOf p].tdi = 1) :
    exec (.startInterfaceRequest p) s = .next (s.modFn (fnOf p) fun x => { x with tdi := 2 }) :=
  congrArg Host.Outcome.next (if_pos ht)

end Interface

/-- Settles O31: each command by the function it changes; an ended checkpoint opens no gate where no Hild unit is staging. -/
theorem interfaceSecurity : Obligations.InterfaceSecurity := by
  refine fun s => ⟨fun f hs hc => ?_, fun f i h => keyProg_programs h,
    fun f i hd hk => does_modFn (exec_kSetGo hd hk), fun p ht hl hs => does_modFn (exec_lock ht hl hs),
    fun p h => exec_lock_refused h, fun p ht => does_modFn (exec_start ht), fun p w h => ?_⟩
  · refine does_imp (ideCheckFail_unsecures hs hc) fun t ⟨n, h⟩ => ?_
    rw [h]
    exact ⟨rfl, rfl, rfl, rfl⟩
  · rw [← erred_locked h]
    exact does_modFn (congrArg Host.Outcome.next (tdiError_eq (fnOf p) s))

end Sys2Proof.InterfaceProofs
end

section
/-! The pieces of the state that each command keeps to (`touches`), from the frames of the functions that it calls; what one step
does. -/

namespace Sys2Proof.CommandProofs

open Sys2Proof Sys2Proof.Machine

/-- A command keeps to the pieces of the function that it calls. -/
theorem does_within {c : Instr} {s t : State} {m : List Piece} (h : exec c s = .next t) (w : t.without m = s.without m) :
    Does c s (Within m s) := ⟨t, h, w⟩

/-! ### Commands of more than one function -/

section Compound

variable (s : State)

theorem undervoltageClear_within (mV : Nat) : Does (.undervoltageClear mV) s (Within [.causes, .power, .mgmt] s) :=
  does_within rfl (ite_without (fun _ => .trans (modDie_without _ _ _ _ fun _ => rfl)
    (.trans (modDie_without _ _ _ _ fun _ => rfl) (setVolt_without rfl))) fun _ => rfl)

theorem thermalClear_within (scope : ThermScope) : Does (.thermalClear scope) s (Within [.causes] s) := by
  cases scope <;> exact does_within rfl (modDie_without _ _ _ _ fun _ => rfl)

theorem pcieRefLoss_within : Does .pcieRefLoss s (Within (.power :: faultPieces) s) := by
  refine does_within rfl (ite_without (fun _ => rfl) fun _ => ?_)
  dsimp only
  split
  · exact .trans (portReset_without rfl) (modPower_without _ _ _ rfl)
  · exact modPower_without _ _ _ rfl

theorem refReturn_within (ref : RefClk) : Does (.refReturn ref) s (Within [.router, .power] s) := by
  cases ref
  · exact does_within rfl (.trans (startTraining_without rfl) (modPower_without _ _ _ rfl))
  · exact does_within rfl (modPower_without _ _ _ rfl)

theorem bootStart_within : Does .bootStart s (Within [.queen, .power, .boot] s) := by
  refine does_within rfl (ite_without (fun _ => rfl) fun _ => ite_without (fun _ => ?_) fun _ => ?_)
  · exact .trans (toRecovery_without rfl) (.trans (modPower_without _ _ _ rfl) (modBoot_without _ _ _ fun _ => rfl))
  · exact .trans (modBoot_without _ _ _ fun _ => rfl)
      (.trans (modPower_without _ _ _ rfl) (modBoot_without _ _ _ fun _ => rfl))

theorem setEndpointId_within (e : Byte) : Does (.setEndpointId e) s (Within [.out, .mgmt] s) :=
  does_within rfl (ite_without (fun _ => rfl) fun _ => ite_without (fun _ => emit_without _ _ _ rfl)
    fun _ => .trans (emit_without _ _ _ rfl) (modMgmt_without _ _ _ rfl))

theorem pollForPlatformEventMessage_within : Does .pollForPlatformEventMessage s (Within [.out, .mgmt] s) := by
  refine does_within rfl (ite_without (fun _ => rfl) fun _ => ?_)
  split
  · exact emit_without _ _ _ rfl
  · exact .trans (emit_without _ _ _ rfl) (modMgmt_without _ _ _ rfl)

/-- A monitor command that prints something or an error only prints. -/
theorem monitorIf_within {c : Prop} [Decidable c] (g : State → State) (hg : ∀ t, (g t).without [.out] = t.without [.out])
    (n : Nat) : (doIf s.power.pwrgd (if c then g else sayErr n) s).without [.out] = s.without [.out] :=
  doIf_without _ _ _ _ fun t => by
    split
    · exact hg t
    · exact sayErr_without rfl

theorem log_within (n : Nat) : Does (.log n) s (Within [.out] s) :=
  does_within rfl (doIf_without _ _ _ _ fun t => by
    split
    · exact sayErr_without rfl
    · split
      · exact sayErr_without rfl
      · exact sayOk_without rfl)

theorem modRstNRelease_within (us : Nat) : Does (.modRstNRelease us) s (Within faultPieces s) :=
  does_within rfl (ite_without (fun _ => rfl) fun _ => ite_without (fun _ => moduleReset_without rfl)
    fun _ => ite_without (fun _ => rfl) fun _ => moduleReset_without rfl)

theorem hildWatchdog_within (k : Super) : Does (.hildWatchdog k) s (Within faultPieces s) := by
  refine does_within rfl ?_
  split
  · exact ite_without (fun _ => superHung_without rfl) fun _ => rfl
  · rfl

theorem foragerWatchdog_within (k : Comb) (f : Fin 4) : Does (.foragerWatchdog k f) s (Within faultPieces s) := by
  refine does_within rfl ?_
  split
  · exact ite_without (fun _ => rfl) fun _ => .trans (stopInternal_without rfl) (countWdog_without rfl)
  · rfl

theorem sidebandMessageReceive_within (seq : Word) (mac : DWord) (msg : Sideband) :
    Does (.sidebandMessageReceive seq mac msg) s (Within [.out, .host, .evq, .dies, .queen, .mgmt, .mod] s) :=
  does_within rfl (ite_without (fun _ => rfl) fun _ => ite_without (fun _ => sbFail_without rfl)
    fun _ => .trans (takeMessage_without rfl) (modQueen_without _ _ _ rfl))

theorem supersedure_within : Does .supersedure s (Within faultPieces s) :=
  does_within rfl (ite_without (fun _ => rfl) fun _ =>
    ite_without (fun _ => .trans (crownTo_without rfl) (queenFault_without rfl)) fun _ => rfl)

theorem configWrite_within (epoch : Word) (die : Die) (w : CfgWrite) :
    Does (.configWrite epoch die w) s (Within (touches (.configWrite epoch die w)) s) :=
  does_within rfl (ite_without (fun _ => applyCfg_without rfl)
    fun _ => .trans (logRefusal_without rfl) (modQueen_without _ _ _ rfl))

theorem getMeasurements_within (index : Byte) (nonce : BitVec 256) : Does (.getMeasurements index nonce) s (Within [.out] s) := by
  refine does_within rfl (ite_without (fun _ => rfl) fun _ => ?_)
  split
  · exact respond_without rfl
  · rfl

theorem elasticSlip_within (k : Comb) (x : Slip) : Does (.elasticSlip k x) s (Within faultPieces s) :=
  does_within rfl (ite_without (fun _ => rfl) fun _ => ite_without
    (fun _ => .trans (strandDown_without rfl) (.trans (modHum_without _ _ _ _ rfl) (modSPort_without _ _ _ _ _ rfl)))
    fun _ => modSPort_without _ _ _ _ _ rfl)

theorem endProg_within (k : Comb) (h : PredF) : Does (.endProg k h) s (Within progPieces s) :=
  does_within rfl (issueNoPen_without (fun _ => .trans (modSeq_without _ _ _ _ rfl) (stallWith_without rfl)) rfl)

theorem beatDone_within (k : Comb) (h : PredF) : Does (.beatDone k h) s (Within (.hum :: progPieces) s) :=
  does_within rfl (issueNoPen_without (fun _ => ite_without (fun _ => illegal_without rfl) fun _ => ite_without
    (fun _ => .trans (stallWith_without rfl) (.trans (modHum_without _ _ _ _ rfl) (stepPc_without rfl)))
    fun _ => stepPc_without rfl) rfl)

theorem seqFence_within (k : Comb) (h : PredF) (scope : BitVec 2) : Does (.seqFence k h scope) s (Within progPieces s) :=
  does_within rfl (issueNoPen_without (fun _ => ite_without (fun _ => illegal_without rfl) fun _ => ite_without
    (fun _ => stepPc_without rfl) fun _ => stallWith_without rfl) rfl)

theorem pcheck_within (k : Comb) (h : PredF) (b c : SReg) (target : PredIx) (mode : BitVec 4) :
    Does (.pcheck k h b c target mode) s (Within progPieces s) :=
  does_within rfl (issueIf_without (fun _ => ite_without (fun _ => setPred_without rfl) fun _ => setPred_without rfl) rfl)

theorem psem_within (k : Comb) (h : PredF) (b : SReg) (target : PredIx) (ge : Bool) (sem : BitVec 12) :
    Does (.psem k h b target ge sem) s (Within progPieces s) :=
  does_within rfl (issueIf_without (fun t => ite_without (fun _ => setPred_without rfl) fun _ => by
    split
    · exact setPred_without rfl
    · exact setPred_without rfl) rfl)

theorem cell_within (k : Comb) (h : PredF) (b c : SReg) : Does (.cell k h b c) s (Within progPieces s) :=
  does_within rfl (issueIf_without (fun _ => forEach_without _ _ _ _ fun _ _ => modCell_without _ _ _ _ _ fun _ => rfl) rfl)

theorem memoryWriteAck_within (k : Comb) : Does (.memoryWriteAck k) s (Within [.seq] s) := by
  refine does_within rfl ?_
  split
  · rfl
  · exact ite_without (fun _ => rfl) fun _ => modSeq_without _ _ _ _ rfl

theorem linkFlitCrcFail_within (k : Super) : Does (.linkFlitCrcFail k) s (Within [.superRegs, .partRegs] s) :=
  does_within rfl (ite_without (fun _ => rfl) fun _ => ite_without
    (fun _ => .trans (ewSuper_without rfl) (modSuper_without _ _ _ _ fun _ => rfl)) fun _ => modSuper_without _ _ _ _ fun _ => rfl)

theorem linkReplayLimit_within (k : Super) : Does (.linkReplayLimit k) s (Within faultPieces s) := by
  refine does_within rfl (ite_without (fun _ => rfl) fun _ => ?_)
  dsimp only
  split
  · exact .trans (stopInternal_without rfl) (modSuper_without _ _ _ _ fun _ => rfl)
  · exact modSuper_without _ _ _ _ fun _ => rfl

theorem linkAuthFail_within (link : Fin 14) (x : LinkFlit) : Does (.linkAuthFail link x) s (Within faultPieces s) :=
  does_within rfl (ite_without (fun _ => rfl) fun _ => ite_without (fun _ => effLinkAuth_without rfl) fun _ => modLink_without rfl)

theorem spdmSessionEstablish_within (chan : SpdmChan) : Does (.spdmSessionEstablish chan) s (Within [.mgmt] s) := by
  refine does_within rfl (ite_without (fun _ => rfl) fun _ => ?_)
  cases chan
  · exact ite_without (fun _ => rfl) fun _ => modMgmt_without _ _ _ rfl
  · exact modMgmt_without _ _ _ rfl

end Compound

/-! ### Vector instructions -/

/-- A vector instruction keeps to the pieces of a program fault and of what its operation changes. -/
theorem vecDone_within (x : VCtx) {c : Instr} {s : State} {r : VRes} {m : List Piece} (h : exec c s = vecDone x r)
    (w : r.state.without m = s.without m) (hm : sub progPieces m = true) : Does c s (Within m s) := by
  refine ⟨_, h, ?_⟩
  unfold Within
  split
  · exact w
  · exact .trans (vecFault_without hm) (.trans (drawn_without _ _ (sub_contains hm _ rfl)) w)

/-- A vector instruction that checks its fields first. -/
theorem vecIf_within (x : VCtx) {c : Instr} {s : State} {ok : Bool} {f : State → VRes} {m : List Piece}
    (h : exec c s = vecIf x ok f s) (w : (f s).state.without m = s.without m) (hm : sub progPieces m = true) :
    Does c s (Within m s) :=
  vecDone_within x h (by split <;> [exact w; rfl]) hm

/-- Settles O3: each command keeps to the pieces of the functions that it calls. -/
theorem commandsKeepToTheirPieces : Obligations.CommandsKeepToTheirPieces := by
  intro c s
  cases c with
  | registerWrite => exact does_within rfl (ite_without (fun _ => refuseAccess_without rfl) fun _ =>
      ite_without (fun _ => effWriteReg_without rfl) fun _ => rfl)
  | w1cWrite => exact does_within rfl (ite_without (fun _ => refuseAccess_without rfl) fun _ =>
      ite_without (fun _ => effClear_without rfl) fun _ => rfl)
  | lowHalfRead => exact does_within rfl (effRegRead_without rfl)
  | inputPowerGood => exact does_within rfl (ite_without (fun _ => rfl) fun _ => rfl)
  | undervoltageDetect => exact does_within rfl (effUnder_without rfl)
  | undervoltageClear => exact undervoltageClear_within ..
  | inputFault => exact does_within rfl (ite_without (fun _ => powerDown_without rfl) fun _ => rfl)
  | railFault => exact does_within rfl (ite_without (fun _ => rfl) fun _ => powerDown_without rfl)
  | latchRelease => exact does_within rfl (ite_without (fun _ => modPower_without _ _ _ rfl) fun _ => rfl)
  | powerSample => exact does_within rfl (effPowerSample_without rfl)
  | overpowerSustained => exact does_within rfl (ite_without (fun _ => overpower_without rfl) fun _ => rfl)
  | overpowerClear => exact does_within rfl (.trans (modDie_without _ _ _ _ fun _ => rfl) (modDie_without _ _ _ _ fun _ => rfl))
  | thermalSample => exact does_within rfl (effThermal_without rfl)
  | thermalDiv4End => exact does_within rfl (modDie_without _ _ _ _ fun _ => rfl)
  | thermalClear => exact thermalClear_within ..
  | pwrLimitWrite => exact does_within rfl (effLimit_without rfl)
  | energyReport64 => exact does_within rfl (ite_without (fun _ => recordEnergy_without rfl) fun _ => rfl)
  | fabricRefLoss => exact does_within rfl (effFabricLoss_without rfl)
  | pcieRefLoss => exact pcieRefLoss_within ..
  | refReturn => exact refReturn_within ..
  | pllUnlock =>
    exact does_within rfl (ite_without (fun _ => .trans (moduleFault_without rfl) (modPower_without _ _ _ rfl)) fun _ => rfl)
  | bootStart => exact bootStart_within ..
  | imageLoaded => exact does_within rfl (effImageLoaded_without rfl)
  | bootReady => exact does_within rfl (effBootReady_without rfl)
  | enterRecovery => exact does_within rfl (doIf_without _ _ _ _ fun _ => effEnterRecovery_without rfl)
  | commitSvn => exact does_within rfl (doIf_without _ _ _ _ fun _ => effCommitSvn_without rfl)
  | rcvGo => exact does_within rfl (doIf_without _ _ _ _ fun _ => effRcvGo_without rfl)
  | recoveryFlashDone => exact does_within rfl (effFlashDone_without rfl)
  | entdaa | setdasa => exact does_within rfl (ite_without (fun _ => modMgmt_without _ _ _ rfl) fun _ => rfl)
  | rstdaa | doeAbort => exact does_within rfl (modMgmt_without _ _ _ rfl)
  | getpid | getbcr | getdcr | getmxds => exact does_within rfl (i3cAnswer_without rfl)
  | setEndpointId => exact setEndpointId_within ..
  | getSensorReading | getStateSensorReadings =>
    exact does_within rfl (ite_without (fun _ => pldmAnswer_without rfl) fun _ => rfl)
  | setNumericEffecterValue => exact does_within rfl (effEffecter_without rfl)
  | pollForPlatformEventMessage => exact pollForPlatformEventMessage_within ..
  | pldmUpdateComponent => exact does_within rfl (update_without (fun _ => effPldmUpdate_without rfl) rfl)
  | pldmTransferData => exact does_within rfl (update_without (fun _ => effPldmTransfer_without rfl) rfl)
  | verifyComplete => exact does_within rfl (update_without (fun _ => effVerify_without rfl) rfl)
  | activateFirmware => exact does_within rfl (update_without (fun _ => effActivate_without rfl) rfl)
  | help | ver | stat => exact does_within rfl (doIf_without _ _ _ _ fun _ => sayOk_without rfl)
  | sum | sens => exact does_within rfl (monitorIf_within _ _ (fun _ => sayOk_without rfl) _)
  | log => exact log_within ..
  | reset => exact does_within rfl (doIf_without _ _ _ _ fun _ => monReset_without rfl)
  | peek => exact does_within rfl (doIf_without _ _ _ _ fun _ => monPeek_without rfl)
  | traceOn | traceOff => exact does_within rfl (doIf_without _ _ _ _ fun _ => monTrace_without rfl)
  | modRstNRelease => exact modRstNRelease_within ..
  | perstNRelease => exact does_within rfl (modMod_without _ _ _ rfl)
  | resetComb | resetSuper | resetStrandPort | resetPartition | resetModuleWarm | resetModuleCold =>
    exact does_within rfl (doIf_without _ _ _ _ fun _ => resetCmd_without rfl)
  | superResetDone => exact does_within rfl (.trans (effSuperDone_without rfl) (applyFlips_without rfl))
  | combWatchdog => exact does_within rfl (effCombWdog_without rfl)
  | superWatchdog => exact does_within rfl (ite_without (fun _ => superHung_without rfl) fun _ => rfl)
  | hildWatchdog => exact hildWatchdog_within ..
  | foragerWatchdog => exact foragerWatchdog_within ..
  | crownSidebandSilent => exact does_within rfl (ite_without (fun _ => rfl) fun _ => moduleFault_without rfl)
  | smokeDrainDone => exact does_within rfl (effDrainDone_without rfl)
  | drainDeadline => exact does_within rfl (effDeadline_without rfl)
  | recoveryDone => exact does_within rfl (effRecoveryDone_without rfl)
  | ewWindowEnd => exact does_within rfl (effWindowEnd_without rfl)
  | heartbeat =>
    exact does_within rfl (ite_without (fun _ => .trans (modQueen_without _ _ _ rfl) (emit_without _ _ _ rfl)) fun _ => rfl)
  | sidebandMessageReceive => exact sidebandMessageReceive_within ..
  | supersedure => exact supersedure_within ..
  | configWrite => exact configWrite_within ..
  | queenRegionLoss => exact does_within rfl (ite_without (fun _ => regionLost_without rfl) fun _ => rfl)
  | partitionCreate => exact does_within rfl (effCreate_without rfl)
  | partitionRemove => exact does_within rfl (effRemove_without rfl)
  | removeSlotsEmpty => exact does_within rfl (ite_without (fun _ => dropPartition_without rfl) fun _ => rfl)
  | endContext => exact does_within rfl (effEndContext_without rfl)
  | retireFlushDone => exact does_within rfl (ite_without (fun _ => zeroiseSlot_without rfl) fun _ => rfl)
  | keyScrubDone => exact does_within rfl (effScrubDone_without rfl)
  | bind => exact does_within rfl (effBind_without rfl)
  | key => exact does_within rfl (effKey_without rfl)
  | debugChallenge => exact does_within rfl (effChallenge_without rfl)
  | debugUnlock => exact does_within rfl (effUnlock_without rfl)
  | getMeasurements => exact getMeasurements_within ..
  | humCfgWrite => exact does_within rfl (doIf_without _ _ _ _ fun _ => effHumCfg_without rfl)
  | humSyncReceive => exact does_within rfl (effHumSync_without rfl)
  | humLockAcquired | humOffsetExceeded => exact does_within rfl (ite_without (fun _ => modHum_without _ _ _ _ rfl) fun _ => rfl)
  | holdoverExpire => exact does_within rfl (ite_without (fun _ => humLoss_without rfl) fun _ => rfl)
  | elasticSlip => exact elasticSlip_within ..
  | controlSlot => exact does_within rfl (effControl_without rfl)
  | beatGridStart => exact does_within rfl (effGridStart_without rfl)
  | beatBoundary => exact does_within rfl (effBoundary_without rfl)
  | frame64Poll => exact does_within rfl (effPoll64_without rfl)
  | doorbellReadDone => exact does_within rfl (effDoorbell_without rfl)
  | descriptorFetchDone => exact does_within rfl (effFetchDone_without rfl)
  | descriptorStart => exact does_within rfl (effStart_without rfl)
  | compute => exact does_within rfl (effCompute_without rfl)
  | copy => exact does_within rfl (effCopy_without rfl)
  | fabric => exact does_within rfl (effFabric_without rfl)
  | update => exact does_within rfl (effUpdate_without rfl)
  | syncSet | syncAdd => exact does_within rfl (syncWrite_without rfl)
  | syncWaitGe | syncWaitEq => exact does_within rfl (syncWait_without rfl)
  | fence => exact does_within rfl (effFence_without rfl)
  | timetable => exact does_within rfl (effTimetable_without rfl)
  | checkpoint => exact does_within rfl (effCheckpoint_without rfl)
  | checkpointStepReady => exact does_within rfl (effStepReady_without rfl)
  | snapshotCopyDone => exact does_within rfl (effSnapDone_without rfl)
  | checkpointShardsVisible => exact does_within rfl (effShardsVisible_without rfl)
  | checkpointManifestVisible => exact does_within rfl (effManifestVisible_without rfl)
  | restore => exact does_within rfl (effRestore_without rfl)
  | restorePass1Done => exact does_within rfl (effPass1_without rfl)
  | restorePass2Done => exact does_within rfl (effPass2_without rfl)
  | egress => exact does_within rfl (effEgress_without rfl)
  | smoke => exact does_within rfl (effSmoke_without rfl)
  | descriptorComplete => exact does_within rfl (effComplete_without rfl)
  | ringEnable => exact does_within rfl (ite_without (fun _ => writeSqCfg_without rfl) fun _ => rfl)
  | ringDisable => exact does_within rfl (ite_without (fun _ => rfl) fun _ => writeSqCfg_without rfl)
  | eventRingEnable => exact does_within rfl (ite_without (fun _ => writeEqCfg_without rfl) fun _ => rfl)
  | eventRingDisable => exact does_within rfl (ite_without (fun _ => rfl) fun _ => writeEqCfg_without rfl)
  | nop => exact does_within rfl (issue_without (fun _ => rfl) rfl)
  | endProg => exact endProg_within ..
  | programEnd => exact does_within rfl (ite_without (fun _ => endProgram_without rfl) fun _ => rfl)
  | jump | bnz => exact does_within rfl (issueTo_without (fun _ => rfl) rfl)
  | loop => exact does_within rfl (issueTo_without (fun _ => setSreg_without rfl) rfl)
  | beatDone => exact beatDone_within ..
  | seqFence => exact seqFence_within ..
  | ldi | ldhi | seqAdd | seqAddi | seqSub | seqMul | seqAnd | seqOr | seqXor | seqShl | seqShr | rdbeat | rdhum =>
    exact does_within rfl (issueReg_without rfl)
  | seqLd => exact does_within rfl (issueIf_without (fun _ => setSreg_without rfl) rfl)
  | seqSt => exact does_within rfl (issueIf_without (fun _ => combWrite_without rfl) rfl)
  | pcheck => exact pcheck_within ..
  | pvote => exact does_within rfl (issueIf_without (fun _ => .trans (postVote_without rfl) (setPred_without rfl)) rfl)
  | psem => exact psem_within ..
  | pset => exact does_within rfl (issueIf_without (fun _ => setPred_without rfl) rfl)
  | fclr => exact does_within rfl (issue_without (fun _ => modSeq_without _ _ _ _ rfl) rfl)
  | move => exact does_within rfl (effMove_without rfl)
  | cell => exact cell_within ..
  | hild => exact does_within rfl (issueIf_without (fun _ => modHild_without _ _ _ _ rfl) rfl)
  | semSet | semAdd => exact does_within rfl (issueIf_without (fun _ => progSem_without rfl) rfl)
  | semWaitGe | semWaitEq => exact does_within rfl (semWait_without rfl)
  | predicateResolve => exact does_within rfl (effResolve_without rfl)
  | retentionRelease => exact does_within rfl (effRelease_without rfl)
  | transferComplete => exact does_within rfl (effTransfer_without rfl)
  | memoryWriteAck => exact memoryWriteAck_within ..
  | matmul | bwdPair | lnFwd | rmsFwd | lnBwd | rmsBwd | smFwd | smMerge | smBwd | xent | rowdot | attnDs | pexnorm
  | clipscale | attn => exact does_within rfl (startOp_without rfl)
  | cellOpComplete => exact does_within rfl (effOpComplete_without rfl)
  | cellFault => exact does_within rfl (effCellFault_without rfl)
  | cellCorrectedError =>
    exact does_within rfl (ite_without (fun _ => .trans (ewCount_without rfl) (modComb_without _ _ _ _ fun _ => rfl)) fun _ => rfl)
  | spareSwapDone => exact does_within rfl (effSwapDone_without rfl)
  | entropyStartupDone => exact does_within rfl (effStartup_without rfl)
  | entropyHealthFail => exact does_within rfl (effHealthFail_without rfl)
  | vprog => exact does_within rfl (meetHead_without (fun _ _ => vpStart_without rfl) rfl)
  | vecLd x => exact vecIf_within x rfl (vecLoad_without rfl) rfl
  | vecLdb x => exact vecIf_within x rfl (vecLoadB_without rfl) rfl
  | vecSt x => exact vecIf_within x rfl (vecStore_without rfl) rfl
  | gather x => exact vecIf_within x rfl (vecGather_without rfl) rfl
  | scatter x => exact vecIf_within x rfl (vecScatter_without rfl) rfl
  | scatadd x => exact vecIf_within x rfl (vecScatAdd_without rfl) rfl
  | vecAdd x | vecSub x | vecMul x | fmai x | vecMax x | vecMin x | vecDiv x | iadd x | isub x | vecAnd x | vecOr x
  | vecXor x => exact vecDone_within x rfl (vec2_without rfl) rfl
  | vecFma x | vecSel x => exact vecDone_within x rfl (vec3_without rfl) rfl
  | vecAddi x | muli x | maxi x | mini x | vecAbs x | neg x | vecSqrt x | vecExp x | exp2 x | vecLog x | rcp x
  | vecRsqrt x | tanh x | sigmoid x | gelu x | ftoi x | itof x => exact vecDone_within x rfl (vec1_without rfl) rfl
  | vecCmp x => exact vecIf_within x rfl (vec2_without rfl) rfl
  | uaddsat x => exact vecDone_within x rfl (vecSatAdd_without rfl) rfl
  | vecShl x | vecShr x => exact vecIf_within x rfl (vec1_without rfl) rfl
  | iota x => exact vecDone_within x rfl (vecIota_without rfl) rfl
  | movi x => exact vecDone_within x rfl (vecMovi_without rfl) rfl
  | rsum x | rmax x | rmin x | ramax x | rsumsq x => exact vecIf_within x rfl (vecReduce_without rfl) rfl
  | rowClipWrite => exact does_within rfl (doIf_without _ _ _ _ fun _ => effRowClip_without rfl)
  | hildRunStart => exact does_within rfl (effRunStart_without rfl)
  | hildGroupDone => exact does_within rfl (effGroupDone_without rfl)
  | hildRunDone => exact does_within rfl (effRunDone_without rfl)
  | hldEnd | hldAdd | hldSub | hldMul | hldFma | hldDiv | hldSqrt | hldRsqrt | hldMax | hldMin | hldAbs | sign | hldCmp
  | hldSel | clamp | hldExp => exact does_within rfl (State_modLane_without rfl)
  | hldLd | hldSt | noise | rnd => exact does_within rfl (modHild_without _ _ _ _ rfl)
  | regionCommit => exact does_within rfl (doIf_without _ _ _ _ fun _ => effCommit_without rfl)
  | regionInitDone => exact does_within rfl (effInitDone_without rfl)
  | memoryRead => exact does_within rfl (request_without rfl)
  | memoryWrite => exact does_within rfl (ite_without (fun _ => request_without rfl) fun _ => rfl)
  | partialWrite => exact does_within rfl (ite_without (fun _ => rfl) fun _ => request_without rfl)
  | treeFormatDone =>
    exact does_within rfl (ite_without (fun _ => .trans (resumeSuper_without rfl) (modSuper_without _ _ _ _ fun _ => rfl)) fun _ => rfl)
  | dramRefresh => exact does_within rfl (ite_without (fun _ => modSuper_without _ _ _ _ fun _ => rfl) fun _ => rfl)
  | patrolScrubRead => exact does_within rfl (.trans (effScrub_without rfl) (applyFlips_without rfl))
  | rowRepairDone => exact does_within rfl (ite_without (fun _ => rfl) fun _ => .trans (resumeSuper_without rfl)
      (.trans (nextRepair_without rfl) (.trans (effRepaired_without rfl) (applyFlips_without rfl))))
  | linkFlitCrcFail => exact linkFlitCrcFail_within ..
  | linkReplayLimit => exact linkReplayLimit_within ..
  | linkAuthFail => exact linkAuthFail_within ..
  | bar2Read => exact does_within rfl (effBar2Read_without rfl)
  | bar2Write => exact does_within rfl (effBar2Write_without rfl)
  | malformedMmio =>
    exact does_within rfl (.trans (emit_without _ _ _ rfl) (ite_without (fun _ => badMmio_without rfl) fun _ => rfl))
  | hostReadFail => exact does_within rfl (effReadFail_without rfl)
  | ideCheckFail => exact does_within rfl (ite_without (fun _ => .trans (tdiError_without rfl)
      (.trans (unsecure_without rfl) (modFn_without _ _ _ _ rfl))) fun _ => rfl)
  | kSetGo | lockInterfaceRequest | startInterfaceRequest | keyProg =>
    exact does_within rfl (ite_without (fun _ => modFn_without _ _ _ _ rfl) fun _ => rfl)
  | stopInterfaceRequest => exact does_within rfl (.trans (modFn_without _ _ _ _ rfl) (flrVf_without rfl))
  | pciConfigWrite => exact does_within rfl (tdiError_without rfl)
  | vfFlr => exact does_within rfl (ite_without (fun _ => flrVf_without rfl) fun _ => rfl)
  | pf0Flr => exact does_within rfl (flrPf0_without rfl)
  | vfEnableClear => exact does_within rfl (ite_without (fun _ => dropVfs_without rfl) fun _ => rfl)
  | hotReset | hostLinkDown => exact does_within rfl (ite_without (fun _ => portReset_without rfl) fun _ => rfl)
  | perstNAssert => exact does_within rfl (.trans (modMod_without _ _ _ rfl) (portReset_without rfl))
  | d3hotEnter => exact does_within rfl (modFn_without _ _ _ _ rfl)
  | busMasterClear | memorySpaceClear => exact does_within rfl (.trans (modFn_without _ _ _ _ rfl) (enableChange_without rfl))
  | coordWrite => exact does_within rfl (doIf_without _ _ _ _ fun _ => effCoord_without rfl)
  | portmapWrite => exact does_within rfl (doIf_without _ _ _ _ fun _ => effPortmap_without rfl)
  | trainingDone | trainingTimeout =>
    exact does_within rfl (ite_without (fun _ => .trans (portResetDone_without rfl) (modSPort_without _ _ _ _ _ rfl)) fun _ => rfl)
  | trainingRetry => exact does_within rfl (ite_without (fun _ => modSPort_without _ _ _ _ _ rfl) fun _ => rfl)
  | laneHardFail => exact does_within rfl (effLaneFail_without rfl)
  | laneErrorWindow => exact does_within rfl (effLaneWarn_without rfl)
  | spareReq =>
    exact does_within rfl (ite_without (fun _ => .trans (sendLaneRec_without rfl) (modPort_without _ _ _ _ rfl)) fun _ => rfl)
  | spareAck | spareSwitch => exact does_within rfl (ite_without (fun _ => modPort_without _ _ _ _ rfl) fun _ => rfl)
  | spareTrainDone => exact does_within rfl (effSpareTrained_without rfl)
  | spareSwitchFrame => exact does_within rfl (effSpareSwitch_without rfl)
  | wagJobWrite => exact does_within rfl (doIf_without _ _ _ _ fun _ => effJobWrite_without rfl)
  | wagLeaseWrite => exact does_within rfl (doIf_without _ _ _ _ fun _ => effLeaseWrite_without rfl)
  | leaseCommit => exact does_within rfl (ite_without (fun _ => rfl) fun _ => effLeaseCommit_without rfl)
  | leaseRelease => exact does_within rfl (ite_without (fun _ => rfl) fun _ => effLeaseRelease_without rfl)
  | localTxSlot => exact does_within rfl (effLocalTx_without rfl)
  | transitFlitReceive => exact does_within rfl (effTransitRx_without rfl)
  | transitTxSlot => exact does_within rfl (effTransitTx_without rfl)
  | dataFlitReceive => exact does_within rfl (effDataFlit_without rfl)
  | flitWriteVisible => exact does_within rfl (effVisible_without rfl)
  | alarmReceive => exact does_within rfl (effAlarm_without rfl)
  | voteRecordReceive => exact does_within rfl (effVote_without rfl)
  | verdictRecordReceive => exact does_within rfl (effVerdict_without rfl)
  | abortedExpire => exact does_within rfl (ite_without (fun _ => modJob_without _ _ _ _ _ rfl) fun _ => rfl)
  | wireFrameReceive => exact does_within rfl (effWireFrame_without rfl)
  | hostLinkUp => exact does_within rfl (ite_without (fun _ => modMod_without _ _ _ rfl) fun _ => rfl)
  | spdmSessionEstablish => exact spdmSessionEstablish_within ..
  | cancelUpdate => exact does_within rfl (update_without (fun _ => effCancelUpdate_without rfl) rfl)

/-! ### One step -/

/-- Settles O1: the step function takes the command at the front of the queue, and no word spells a command. -/
theorem stepRunsFront : Obligations.StepRunsFront := ⟨fun _ _ => rfl, fun _ _ _ => ⟨rfl, rfl⟩⟩

/-- In a slot the hum runs on by 16 router clocks, one more or less where the slew has gathered one, and never skips a slot. -/
theorem humSlot_runs (h : Hum) : ∃ (n : Nat) (c : Int), humSlot h = { h with time := h.time + n, carry := c } ∧
    (n = 960 ∨ n = 1024 ∨ n = 1088) ∧ (h.time + n) / 1024 ≤ h.time / 1024 + 1 ∧ (h.slew = 0 → h.carry = 0 → n = 1024) := by
  have hslot : slotUnits = 1024 := rfl
  have hclock : clockUnits = 64 := rfl
  unfold humSlot
  simp only [hslot, hclock]
  split
  case isTrue hup => exact ⟨1088, _, rfl, by omega, by omega, fun hs hc => by simp [hs, hc] at hup⟩
  case isFalse =>
    split
    case isTrue hdown =>
      refine ⟨960, h.carry + 1024 * h.slew + 64 * 1000000, ?_, by omega, by omega, fun hs hc => by simp [hs, hc] at hdown⟩
      congr 1
    case isFalse => exact ⟨1024, _, rfl, by omega, by omega, fun _ _ => rfl⟩

theorem passSlot_comb (s : State) (k : Comb) : (passSlot s).combs[k] = combSlot s.combs[k] := by
  simp [passSlot]

theorem combSlot_off {c : CombState} (h : c.routerPwr = false) : combSlot c = c := by simp [combSlot, h]

theorem combSlot_hum {c : CombState} (h : c.routerPwr = true) : (combSlot c).hum = humSlot c.hum := by simp [combSlot, h]

/-- Within a frame the sequencer's watchdog does not count. -/
theorem combSlot_seq {c : CombState} (h : (combSlot c).hum.time / frameUnits = c.hum.time / frameUnits) :
    (combSlot c).seq = c.seq := by
  cases hp : c.routerPwr
  · rw [combSlot_off hp]
  · rw [combSlot_hum hp] at h
    simp [combSlot, hp, h]

/-- Settles O2: a step on an empty queue is `passSlot`, which is `combSlot` on every comb. -/
theorem emptyQueuePassesASlot : Obligations.EmptyQueuePassesASlot := by
  intro s hs
  refine ⟨passSlot s, by simp only [step, hs], fun k hk => ?_, fun k hk => ?_, fun k hk => ?_, passSlot_without rfl⟩
  · rw [passSlot_comb, combSlot_off hk]
  · rw [passSlot_comb, combSlot_hum hk]
    exact humSlot_runs _
  · have hk' : (passSlot s).combs[k].hum.time / frameUnits = s.combs[k].hum.time / frameUnits := hk
    rw [passSlot_comb] at hk' ⊢
    exact combSlot_seq hk'

end Sys2Proof.CommandProofs
end

section
/-! The management interfaces of 18_boot_management.md: the I3C target, PLDM sensors and events, the monitor. -/

namespace Sys2Proof.ManagementProofs

open Sys2Proof Sys2Proof.Machine

/-! ### The I3C target -/

/-- A target that has an address sends what it is asked for. -/
theorem i3cAnswer_of_isSome {s : State} (h : s.mgmt.i3cDyn.isSome = true) (b : Bytes) :
    i3cAnswer b s = emit (.i3c b) s := if_pos h

/-- Whatever BCR the module is given, the bits for roles and modes that the target does not have read 0 (R566). -/
theorem bcr_and_mask (b : Byte) : (b &&& 0x19) &&& 0xE6 = 0 := by
  rw [BitVec.and_assoc]
  simp

/-- A powered target without an address takes one. -/
theorem takesAddress {s : State} (hp : s.power.pwrgd = true) (h : s.mgmt.i3cDyn = none) (a : BitVec 7) :
    exec (.entdaa a) s = .next { s with mgmt := { s.mgmt with i3cDyn := some a } } ∧
    exec (.setdasa a) s = .next { s with mgmt := { s.mgmt with i3cDyn := some a } } := by
  have hc : s.power.pwrgd = true ∧ s.mgmt.i3cDyn.isNone = true := ⟨hp, by rw [h]; rfl⟩
  exact ⟨congrArg Host.Outcome.next (if_pos hc), congrArg Host.Outcome.next (if_pos hc)⟩

/-- A target that has an address keeps it. -/
theorem keepsAddress {s : State} (h : s.mgmt.i3cDyn.isSome = true) (a : BitVec 7) :
    exec (.entdaa a) s = .next s ∧ exec (.setdasa a) s = .next s := by
  have hc : ¬ (s.power.pwrgd = true ∧ s.mgmt.i3cDyn.isNone = true) := fun hn => by
    obtain ⟨a, ha⟩ := Option.isSome_iff_exists.mp h
    exact absurd hn.2 (by rw [ha]; exact Bool.false_ne_true)
  exact ⟨congrArg Host.Outcome.next (if_neg hc), congrArg Host.Outcome.next (if_neg hc)⟩

/-- Settles O15: each command code is one test of the address and one answer. -/
theorem theI3cTargetAnswers : Obligations.TheI3cTargetAnswers := by
  unfold Obligations.TheI3cTargetAnswers
  intro s hp
  refine ⟨fun a h => takesAddress hp h a, rfl, fun h => ⟨keepsAddress h, ?_, ?_, ?_, ?_⟩⟩
  · exact ⟨_, rfl, i3cAnswer_of_isSome h _⟩
  · exact ⟨_, rfl, _, bcr_and_mask _, i3cAnswer_of_isSome h _⟩
  · exact ⟨_, rfl, i3cAnswer_of_isSome h _⟩
  · exact ⟨_, rfl, i3cAnswer_of_isSome h _⟩

/-! ### Sensors and platform events -/

section Sensors

variable {s : State} (hs : monitorServes s = true)
include hs

/-- A sensor that exists answers its value. -/
theorem getSensorReading_some {id : BitVec 16} {v : Int} (h : sensorValue s id.toNat = some v) :
    exec (.getSensorReading id) s = .next (emit (.pldm true (leBytes 4 (BitVec.ofInt 32 v).toNat)) s) := by
  refine congrArg Host.Outcome.next ((if_pos hs).trans ?_)
  rw [h]
  rfl

/-- A sensor that does not exist answers an error. -/
theorem getSensorReading_none {id : BitVec 16} (h : sensorValue s id.toNat = none) :
    exec (.getSensorReading id) s = .next (emit (.pldm false []) s) := by
  refine congrArg Host.Outcome.next ((if_pos hs).trans ?_)
  rw [h]
  rfl

theorem getStateSensorReadings_some {id : BitVec 16} {n : Nat} (h : stateReading s id.toNat = some n) :
    exec (.getStateSensorReadings id) s = .next (emit (.pldm true (leBytes 8 n)) s) := by
  refine congrArg Host.Outcome.next ((if_pos hs).trans ?_)
  rw [h]
  rfl

/-- Any endpoint ID but 0 and 0xFF is taken. -/
theorem setEndpointId_taken {e : Byte} (h0 : e ≠ 0) (hF : e ≠ 0xFF) :
    exec (.setEndpointId e) s = .next { s with mgmt := { s.mgmt with eid := e }, out := .pldm true [e] :: s.out } := by
  have hm : mctpServes s = true := (Bool.and_eq_true_iff.mp hs).1
  refine congrArg Host.Outcome.next ((if_neg ?_).trans ((if_neg ?_).trans rfl))
  · rw [hm]; decide
  · exact not_or.mpr ⟨h0, hF⟩

theorem setEndpointId_refused {e : Byte} (h : e = 0 ∨ e = 0xFF) :
    exec (.setEndpointId e) s = .next { s with out := .pldm false [] :: s.out } := by
  have hm : mctpServes s = true := (Bool.and_eq_true_iff.mp hs).1
  refine congrArg Host.Outcome.next ((if_neg ?_).trans ((if_pos h).trans rfl))
  rw [hm]; decide

/-- The oldest event that waits is delivered with the count of those lost before it. -/
theorem pollForEvent {e : PlatEvent} {r : List PlatEvent} (h : s.mgmt.events = e :: r) :
    exec .pollForPlatformEventMessage s = .next { s with
      mgmt := { s.mgmt with events := r, evLost := 0 }, out := .pldm true (eventBytes e s.mgmt.evLost) :: s.out } := by
  refine congrArg Host.Outcome.next ((if_neg (by rw [hs]; decide)).trans ?_)
  rw [h]
  rfl

theorem pollForEvent_none (h : s.mgmt.events = []) :
    exec .pollForPlatformEventMessage s = .next { s with out := .pldm true [] :: s.out } := by
  refine congrArg Host.Outcome.next ((if_neg (by rw [hs]; decide)).trans ?_)
  rw [h]
  rfl

end Sensors

/-- A reading of 16 bits is unchanged in the 32 bits of a sensor's answer. -/
theorem toNat_ofInt_word (v : BitVec 16) : (BitVec.ofInt 32 (v.toNat : Int)).toNat = v.toNat := by
  have hv := v.isLt
  rw [BitVec.toNat_ofInt]
  omega

/-- Sensors 6 to 13 are the supers' temperatures. -/
theorem sensorValue_super (s : State) (k : Super) : sensorValue s (BitVec.ofNat 16 (6 + k.val)).toNat = some s.power.tSup[k] := by
  have hk := k.isLt
  have hid : (BitVec.ofNat 16 (6 + k.val)).toNat = 6 + k.val := by
    rw [BitVec.toNat_ofNat]; omega
  have hf : (Fin.ofNat 8 (6 + k.val - 6)) = k := Fin.ext (by show (6 + k.val - 6) % 8 = k.val; omega)
  rw [hid, sensorValue, if_neg (by omega), if_neg (by omega), if_neg (by omega), if_neg (by omega), if_neg (by omega),
    if_pos (by omega)]
  exact congrArg (fun j : Super => some s.power.tSup[j]) hf

theorem sensorValue_none (s : State) {n : Nat} (h : 13 < n) : sensorValue s n = none := by
  rw [sensorValue, if_neg (by omega), if_neg (by omega), if_neg (by omega), if_neg (by omega), if_neg (by omega), if_neg (by omega)]

/-- State sensors 30 to 37 are the partitions' summaries. -/
theorem stateReading_sum (s : State) (p : Part) :
    stateReading s (BitVec.ofNat 16 (30 + p.val)).toNat = some s.parts[p].sum.toNat := by
  have hp := p.isLt
  have hid : (BitVec.ofNat 16 (30 + p.val)).toNat = 30 + p.val := by
    rw [BitVec.toNat_ofNat]; omega
  have hf : (Fin.ofNat 8 (30 + p.val - 30)) = p := Fin.ext (by show (30 + p.val - 30) % 8 = p.val; omega)
  rw [hid, stateReading, if_neg (by omega), if_neg (by omega), if_neg (by omega), if_pos (by omega)]
  exact congrArg (fun j : Part => some s.parts[j].sum.toNat) hf

/-- Settles O16: each answer is the register that the sensor names, or the oldest event. -/
theorem sensorsAndPlatformEvents : Obligations.SensorsAndPlatformEvents := by
  unfold Obligations.SensorsAndPlatformEvents
  intro s hs
  refine ⟨fun e h0 hF => ⟨_, setEndpointId_taken hs h0 hF, rfl⟩, fun e h => ⟨_, setEndpointId_refused hs h, rfl⟩, ?_, ?_, ?_, ?_, ?_,
    fun e r h => ⟨_, pollForEvent hs h, rfl⟩, fun h => ⟨_, pollForEvent_none hs h, rfl⟩⟩
  · refine ⟨_, getSensorReading_some hs (v := s.power.volt.toNat) rfl, ?_⟩
    exact congrArg (fun n => emit (.pldm true (leBytes 4 n)) s) (toNat_ofInt_word s.power.volt)
  · exact fun k => ⟨_, getSensorReading_some hs (sensorValue_super s k), rfl⟩
  · exact fun id h => ⟨_, getSensorReading_none hs (sensorValue_none s h), rfl⟩
  · exact fun p => ⟨_, getStateSensorReadings_some hs (stateReading_sum s p), rfl⟩
  · exact ⟨_, getStateSensorReadings_some hs (n := s.evt.modState.toNat) rfl, rfl⟩

/-! ### The monitor -/

section Monitor

variable {s : State} (hp : s.power.pwrgd = true)

/-- A powered module serves its monitor. -/
theorem monitor_served (hp : s.power.pwrgd = true) (f : State → State) : monitor f s = .next (f s) :=
  congrArg Host.Outcome.next (if_pos hp)

/-- At stage READY the monitor's own test passes. -/
theorem monitor_ready (hp : s.power.pwrgd = true) (hr : readyStage s = true) (f g : State → State) :
    monitor (if readyStage s = true then f else g) s = .next (f s) :=
  (monitor_served hp _).trans (by rw [if_pos hr])

/-- At stage READY PF0 reaches every register that no virtual function owns. -/
theorem reaches_ready (hr : readyStage s = true) {r : Reg} (h : regOfVf r = false) : reaches s 0 r = true := by
  have h5 : (s.boot.stage == 5) = true := (Bool.and_eq_true_iff.mp hr).1
  have hs : stageServes s 0 r = true := by
    unfold stageServes
    rw [h5, Bool.or_true, Bool.true_or, Bool.true_or]
  exact Bool.and_eq_true_iff.mpr ⟨hs, by show (!regOfVf r) = true; rw [h]; rfl⟩

/-- HELP at stage READY: the six commands that need no scope, and those of the scopes that are open. -/
theorem allowedMask_bits (hr : readyStage s = true) : (∀ b, b < 6 → (w64 (allowedMask s)).getLsbD b = true) ∧
    (w64 (allowedMask s)).getLsbD 6 = scopeOpen s 0 ∧ (w64 (allowedMask s)).getLsbD 7 = scopeOpen s 0 ∧
    (w64 (allowedMask s)).getLsbD 8 = scopeOpen s 1 := by
  rw [allowedMask, hr]
  generalize scopeOpen s 0 = a
  generalize scopeOpen s 1 = b
  revert a b
  decide

/-- Outside its debug scope a monitor command answers ERR 2. -/
theorem scope_closed {n : Nat} (h : scopeOpen s n = false) : (!decide (readyStage s = true ∧ scopeOpen s n = true)) = true := by
  simp [h]

theorem scope_opened {n : Nat} (hr : readyStage s = true) (h : scopeOpen s n = true) :
    ¬ (!decide (readyStage s = true ∧ scopeOpen s n = true)) = true := by
  simp [h, hr]

/-- TRACE sets the trace under debug scope 1. -/
theorem monTrace_eq (hr : readyStage s = true) (on : Bool) : monTrace on s = if scopeOpen s 1 = true
    then { s with mgmt := { s.mgmt with trace := on }, out := .uart [] 0 :: s.out } else { s with out := .uart [] 2 :: s.out } := by
  cases h : scopeOpen s 1
  · exact if_pos (scope_closed h)
  · exact if_neg (scope_opened hr h)

/-- EVT_RESET_CMD's domain 6 is a warm reset of the module, except in holding. -/
theorem resetCmd_warm (hb : s.evt.resetBusy = false) (hm : ¬ s.evt.modState = 2) (u : Fin 8) (port : Nat) :
    resetCmd 6 u port s = moduleReset false s := by
  unfold resetCmd
  rw [if_neg (by omega), if_neg (by rw [hb]; decide), if_neg fun h => hm h.1, if_neg (by omega), if_neg (by omega), if_neg (by omega),
    if_neg (by omega), if_pos rfl]

/-- EVT_RESET_CMD's domain 7 is a cold reset of the module. -/
theorem resetCmd_cold (hb : s.evt.resetBusy = false) (u : Fin 8) (port : Nat) : resetCmd 7 u port s = moduleReset true s := by
  unfold resetCmd
  rw [if_neg (by omega), if_neg (by rw [hb]; decide), if_neg fun h => h.2 rfl, if_neg (by omega), if_neg (by omega), if_neg (by omega),
    if_neg (by omega), if_neg (by omega), if_pos rfl]

/-- RESET of a module domain is EVT_RESET_CMD's, under debug scope 0. -/
theorem monReset_module (hr : readyStage s = true) (hb : s.evt.resetBusy = false) (d u : BitVec 3) (hd : 6 ≤ d.toNat) :
    monReset d u s = if scopeOpen s 0 = true then moduleReset (decide (d = 7)) s else { s with out := .uart [] 2 :: s.out } := by
  cases h : scopeOpen s 0
  · exact if_pos (scope_closed h)
  · have h7 : d = 6 ∨ d = 7 := by
      have := d.isLt
      rcases (by omega : d.toNat = 6 ∨ d.toNat = 7) with e | e
      · exact .inl (BitVec.eq_of_toNat_eq e)
      · exact .inr (BitVec.eq_of_toNat_eq e)
    have hm : ¬ s.evt.modState = 2 := of_decide_eq_true (Bool.and_eq_true_iff.mp hr).2
    unfold monReset
    rw [if_neg (scope_opened hr h), if_neg (by rcases h7 with rfl | rfl <;> decide), if_neg (by rw [hb]; decide), if_pos hd,
      if_pos rfl]
    rcases h7 with rfl | rfl
    · exact resetCmd_warm hb hm _ _
    · exact resetCmd_cold hb _ _

/-- The first sensor of SENS is the input voltage. -/
theorem sensors_first (s : State) : (sensorIds.map (fun i => BitVec.ofInt 64 ((sensorValue s i).getD 0)) ++
    ([20, 21, 22] ++ (List.range 8).map (30 + ·)).map (fun i => w64 ((stateReading s i).getD 0)))[0]? =
    some (s.power.volt.setWidth 64) := by
  have hv := s.power.volt.isLt
  refine congrArg some (BitVec.eq_of_toNat_eq ?_)
  show (BitVec.ofInt 64 (s.power.volt.toNat : Int)).toNat = _
  rw [BitVec.toNat_ofInt, BitVec.toNat_setWidth]
  omega

/-- PEEK of a block inside a window, case by case. -/
theorem monPeek_eq (hr : readyStage s = true) {a n : Nat} (h1 : 1 ≤ n) (hn : n ≤ 256) (ha : a + n ≤ 2 ^ 39) : monPeek a n s =
    if scopeOpen s 0 = false then { s with out := .uart [] 2 :: s.out }
    else if ∃ i, i < n ∧ metaBase ≤ winOff (a + i) then { s with out := .uart [] 4 :: s.out }
    else if ∃ i, i < n ∧ winTenant s (a + i) = true then sayErr 3 (dbgBlock (winSuper a) s)
    else { s with out := .uart (wordsOf ((n + 7) / 8) ((List.range n).flatMap fun i =>
      storedBytes s (winSuper (a + i)) (winOff (a + i)) 1)) 0 :: s.out } := by
  have hm : (n = 0 ∨ 256 < n ∨ 2 ^ 39 < a + n ∨ (List.range n).any (fun i => decide (metaBase ≤ winOff (a + i))) = true) ↔
      ∃ i, i < n ∧ metaBase ≤ winOff (a + i) := by
    simp only [List.any_eq_true, List.mem_range, decide_eq_true_eq]
    refine ⟨fun h => ?_, fun h => .inr (.inr (.inr h))⟩
    rcases h with h | h | h | h
    · omega
    · omega
    · omega
    · exact h
  have ht : ((List.range n).any fun i => winTenant s (a + i)) = true ↔ ∃ i, i < n ∧ winTenant s (a + i) = true := by
    simp only [List.any_eq_true, List.mem_range]
  cases h : scopeOpen s 0
  · exact if_pos (scope_closed h)
  · rw [monPeek, if_neg (scope_opened hr h), if_neg (by decide : ¬ true = false)]
    simp only [hm, ht]
    rfl

end Monitor

/-- Settles O18: each command prints what its one line of the model says; the scopes decide the four debug commands. -/
theorem monitorCommands : Obligations.MonitorCommands := by
  unfold Obligations.MonitorCommands
  refine ⟨fun s hp hr => ⟨?_, ?_, ?_, ?_, ?_, ?_, ?_⟩, fun s hp hr => ⟨?_, ?_, ?_, ?_⟩⟩
  · exact ⟨_, monitor_served hp _, _, rfl, (allowedMask_bits hr).1, (allowedMask_bits hr).2⟩
  · exact ⟨_, monitor_served hp _, _, rfl⟩
  · refine ⟨_, monitor_served hp _, ?_⟩
    rw [regVal, regVal, regVal, regVal, reaches_ready hr rfl, reaches_ready hr rfl, reaches_ready hr rfl, reaches_ready hr rfl]
    rfl
  · exact fun k => ⟨_, monitor_ready hp hr _ _, _, rfl⟩
  · exact ⟨_, monitor_ready hp hr _ _, _, rfl, sensors_first s, rfl⟩
  · intro n hn
    refine ⟨_, monitor_served hp _, ?_⟩
    rw [hr, if_neg (by decide), if_neg (by omega)]
    rfl
  · intro n hn
    refine ⟨_, monitor_served hp _, ?_⟩
    rw [hr, if_neg (by decide), if_pos hn]
    rfl
  · intro a n h1 hn ha
    refine ⟨_, monitor_served hp _, ?_⟩
    rw [monPeek_eq hr h1 hn ha]
    split
    · rfl
    split
    · rfl
    split
    · exact ⟨congrArg (Output.uart [] 3 :: ·) (Within.out_eq (m := [.superRegs]) (dbgBlock_without rfl) rfl),
        .trans (dbgBlock_without rfl) (emit_without _ _ _ rfl)⟩
    · rfl
  · exact (monitor_served hp _).trans (congrArg _ (monTrace_eq hr true))
  · exact (monitor_served hp _).trans (congrArg _ (monTrace_eq hr false))
  · exact fun d u hb hd => (monitor_served hp _).trans (congrArg _ (monReset_module hr hb d u hd))

end Sys2Proof.ManagementProofs
end

section
/-! Power, thermal and clocks (17_power_clocks.md). -/

namespace Sys2Proof.PowerProofs

open Sys2Proof Sys2Proof.Machine Sys2Proof.MemoryProofs Sys2Proof.JobFaultProofs Sys2Proof.PortProofs Sys2Proof.SuperProofs
  Sys2Proof.RingProofs Sys2Proof.FunctionResetProofs

/-! ### Power up, power down and the latch (R540, R543, R544) -/

theorem inputPowerGood_comesUp {s : State} {mV : Nat} (hv : 49000 ≤ mV) (hp : s.power.pwrgd = false)
    (hl : s.power.latched = false) : Does (.inputPowerGood mV) s fun t =>
    t.power.rails = 0x3FF ∧ t.power.pwrgd = true ∧ t.power.limit = 1500 ∧ t.power.thermtripN = true ∧
    Within [.power, .boot] s t := by
  refine ⟨_, congrArg Host.Outcome.next (if_pos ⟨hv, ?_, ?_⟩), rfl, rfl, rfl, rfl, rfl⟩
  · rw [hp]; rfl
  · rw [hl]; rfl

theorem inputPowerGood_latched {s : State} (hl : s.power.latched = true) (mV : Nat) : exec (.inputPowerGood mV) s = .next s :=
  congrArg Host.Outcome.next (if_neg fun h => by
    obtain ⟨-, -, hn⟩ := h
    rw [hl] at hn
    exact absurd hn (by decide))

/-- What a power-down leaves: the power controller's off state, and the latch as it was decided. -/
theorem powerDown_off (latched trip fault hk : Bool) (s : State) :
    (powerDown latched trip fault hk s).power = offPower latched trip fault hk ∧
    Within downPieces s (powerDown latched trip fault hk s) := ⟨rfl, powerDown_without rfl⟩

/-- Settles O9: every one of these commands is one test and one assignment to the power controller. -/
theorem powerUpPowerDownAndLatch : Obligations.PowerUpPowerDownAndLatch := by
  unfold Obligations.PowerUpPowerDownAndLatch
  intro s
  refine ⟨fun mV hv hp hl => inputPowerGood_comesUp hv hp hl, fun mV hl => inputPowerGood_latched hl mV, ?_, ?_, ?_, ?_⟩
  · intro rail hl
    exact ⟨_, congrArg Host.Outcome.next (if_neg (by rw [hl]; decide)), rfl, rfl, rfl, powerDown_without rfl⟩
  · intro mV hv hp
    refine ⟨_, congrArg Host.Outcome.next (if_pos ⟨hv, hp⟩), ?_, rfl, rfl, powerDown_without rfl⟩
    show (if decide (20000 < mV) = true then (1 : BitVec 10) else 0) = _
    simp only [decide_eq_true_eq]
  · exact fun mV hv hl => ⟨_, congrArg Host.Outcome.next (if_pos ⟨hv, hl⟩), rfl, modPower_without _ _ _ rfl⟩
  · exact fun mV hv => congrArg Host.Outcome.next (if_neg fun h => by omega)

/-! ### The power limit (R546, R568) -/

/-- Sensor bands that change report events only. -/
theorem bandEvents_within (old s : State) : Within [.mgmt] s (bandEvents old s) := bandEvents_without rfl

theorem bandEvents_power (old s : State) : (bandEvents old s).power = s.power := (bandEvents_within old s).power_eq rfl

theorem setLimit_power (w : Nat) (s : State) : (setLimit w s).power =
    { s.power with limErr := BitVec.ofNat 2 (limitErr s w), limit := if limitErr s w = 0 then BitVec.ofNat 11 w else s.power.limit } :=
  bandEvents_power _ _

theorem setLimit_within (w : Nat) (s : State) : Within [.power, .mgmt] s (setLimit w s) := setLimit_without rfl

theorem limitErr_range {s : State} {w : Nat} (h : w < 900 ∨ 1500 < w) : limitErr s w = 1 := if_pos h

theorem limitErr_admitted {s : State} {w : Nat} (hl : 900 ≤ w) (hu : w ≤ 1500)
    (h : energyFits s (((liveParts s).map (partPower s)).sum) w = false) : limitErr s w = 2 :=
  (if_neg (by omega)).trans (if_pos (by rw [h]; rfl))

theorem limitErr_fits {s : State} {w : Nat} (hl : 900 ≤ w) (hu : w ≤ 1500)
    (h : energyFits s (((liveParts s).map (partPower s)).sum) w = true) : limitErr s w = 0 :=
  (if_neg (by omega)).trans (if_neg (by rw [h]; decide))

/-- A limit refused leaves LIMIT and reads its ERR. -/
theorem setLimit_refused {s : State} {w e : Nat} (he : limitErr s w = e) (h0 : e ≠ 0) :
    (setLimit w s).power = { s.power with limErr := BitVec.ofNat 2 e } := by
  rw [setLimit_power, he, if_neg h0]

/-- A limit that passes takes effect. -/
theorem setLimit_taken {s : State} {w : Nat} (he : limitErr s w = 0) (hw : w ≤ 1500) :
    (setLimit w s).power.limErr = 0 ∧ (setLimit w s).power.limit.toNat = w := by
  rw [setLimit_power, he, if_pos rfl]
  exact ⟨rfl, (BitVec.toNat_ofNat _ _).trans (Nat.mod_eq_of_lt (by omega))⟩

theorem effLimit_pf0 {s : State} (h : reaches s 0 .pwrLimit = true) (v : Word) :
    exec (.pwrLimitWrite 0 v) s = .next (setLimit (v.toNat % 2048) s) := congrArg Host.Outcome.next (if_pos ⟨rfl, h⟩)

/-- The effecter 100 is PWR_LIMIT by PLDM. -/
theorem effEffecter_limit {s : State} (hs : monitorServes s = true) {id : Nat} (hid : id = 100) (w : Nat) :
    effEffecter id w s = emit (.pldm (decide ((setLimit w s).power.limErr = 0)) []) (setLimit w s) := by
  unfold effEffecter
  rw [if_neg (by rw [hs]; decide), if_neg (by omega)]

theorem effecter_limit {s : State} (hs : monitorServes s = true) (w : Word) : exec (.setNumericEffecterValue 100 w) s =
    .next (emit (.pldm (decide ((setLimit w.toNat s).power.limErr = 0)) []) (setLimit w.toNat s)) := by
  have hexec : ∀ id : BitVec 16, exec (.setNumericEffecterValue id w) s = .next (effEffecter id.toNat w.toNat s) := fun _ => rfl
  have hid : (100 : BitVec 16).toNat = 100 := by decide
  exact (hexec 100).trans (congrArg _ (effEffecter_limit hs hid w.toNat))

/-- The effecter's answer of a state says whether ERR reads 0. -/
theorem effecterAnswer {s u : State} (hout : u.out = s.out) {b : Bool} (h : decide (u.power.limErr = 0) = b) :
    (emit (.pldm (decide (u.power.limErr = 0)) []) u).power = u.power ∧
      (emit (.pldm (decide (u.power.limErr = 0)) []) u).out = .pldm b [] :: s.out := by
  rw [h, ← hout]
  exact ⟨rfl, rfl⟩

/-- Settles O12: both ways to the limit are `setLimit`, whose error is `limitErr`. -/
theorem limitIsValidated : Obligations.LimitIsValidated := by
  unfold Obligations.LimitIsValidated
  intro s
  refine ⟨fun f v hf => congrArg Host.Outcome.next (if_neg fun h => hf (Fin.ext h.1)), fun v hr => ?_, fun w hs => ?_⟩
  · refine ⟨_, effLimit_pf0 hr v, setLimit_within _ s, ?_, ?_, ?_⟩
    · exact fun h => setLimit_refused (limitErr_range h) (by decide)
    · exact fun hl hu h => setLimit_refused (limitErr_admitted hl hu h) (by decide)
    · exact fun hl hu h => setLimit_taken (limitErr_fits hl hu h) hu
  · have hout : (setLimit w.toNat s).out = s.out := (setLimit_within _ s).out_eq rfl
    refine ⟨_, effecter_limit hs w, ((setLimit_within _ s).mono rfl).trans (emit_without _ _ _ rfl), fun h => ?_, fun hl hu h => ?_⟩
    · have hp := setLimit_refused (limitErr_range (s := s) h) (by decide)
      have ha := effecterAnswer hout (b := false) (by rw [hp]; rfl)
      exact ⟨ha.1.trans hp, ha.2⟩
    · obtain ⟨he, hw⟩ := setLimit_taken (limitErr_fits hl hu h) hu
      have ha := effecterAnswer hout (b := true) (by rw [he]; rfl)
      exact ⟨(congrArg (fun p : Power => p.limit.toNat) ha.1).trans hw, ha.2⟩

/-! ### Throttles of both dies (R545, R554) -/

/-- A change of both dies. -/
theorem modDies_at (s : State) (f : DieState → DieState) (d : Die) : ((s.modDie 0 f).modDie 1 f).dies[d] = f s.dies[d] := by
  match d with
  | 0 => exact (modDie_other _ 1 0 f (by decide)).trans (modDie_same s 0 f)
  | 1 => exact (modDie_same _ 1 f).trans (congrArg f (modDie_other s 0 1 f (by decide)))

theorem modDies_power (s : State) (f : DieState → DieState) : ((s.modDie 0 f).modDie 1 f).power = s.power := rfl

theorem modDies_within {m : List Piece} {s : State} {f : DieState → DieState} (h : ∀ d, (f d).without m = d.without m) :
    Within m s ((s.modDie 0 f).modDie 1 f) := (modDie_without m _ 1 f h).trans (modDie_without m s 0 f h)

/-- No die has the property exactly where the list of those with it is empty. -/
theorem diesWith_isEmpty {s : State} {f : DieState → Bool} : (diesWith s f).isEmpty = true ↔ ∀ d : Die, f s.dies[d] = false := by
  simp only [diesWith, List.isEmpty_iff, List.filter_eq_nil_iff, mem_fins, true_imp_iff, Bool.not_eq_true]

theorem setVolt_volt (mV : Nat) (s : State) : (setVolt mV s).power.volt = voltField mV := by
  unfold setVolt
  rw [bandEvents_power]
  rfl

/-- A change of the management interfaces leaves the dies. -/
theorem within_mgmt_die {s t : State} (w : Within [.mgmt] s t) (d : Die) : t.dies[d] = s.dies[d] := w.die d

theorem setVolt_die (mV : Nat) (s : State) (d : Die) : (setVolt mV s).dies[d] = s.dies[d] := by
  unfold setVolt
  exact within_mgmt_die (bandEvents_within s _) d

theorem voltField_of_lt {mV : Nat} (h : mV < 50000) : voltField mV = BitVec.ofNat 16 mV := by
  unfold voltField
  rw [Nat.min_eq_left (by omega)]

/-- What a throttle of both dies posts and triggers: neither the power controller nor the causes. -/
theorem postThrottle_within (cause : Byte) (ds fresh : List Die) (s : State) : Within faultPieces s (postThrottle cause ds fresh s) :=
  postThrottle_without rfl

section Overpower

variable (s : State)

/-- Where no die is left to take the cause, an overpower does nothing. -/
theorem overpower_taken (h : ∀ d : Die, s.dies[d].overpwr = true) : overpower s = s := by
  have hds : (diesWith s fun d => !d.overpwr).isEmpty = true := diesWith_isEmpty.mpr fun d => by rw [h d]; rfl
  unfold overpower
  dsimp only
  rw [if_pos hds]

/-- The causes of an overpower, before its events. -/
def overpowered (s : State) : State :=
  ((s.modPower fun w => { w with overpwr := hit 16 w.overpwr }).modDie 0 fun d => { d with overpwr := true }).modDie 1
    fun d => { d with overpwr := true }

/-- An overpower where a die does not have the cause yet. -/
theorem overpower_fresh (h : ∃ d : Die, s.dies[d].overpwr = false) : Within faultPieces (overpowered s) (overpower s) := by
  have hds : ¬ (diesWith s fun d => !d.overpwr).isEmpty = true := fun he => by
    obtain ⟨d, hd⟩ := h
    have := diesWith_isEmpty.mp he d
    rw [hd] at this
    exact absurd this (by decide)
  unfold overpower
  dsimp only
  rw [if_neg hds]
  exact postThrottle_within _ _ _ _

/-- After an overpower both dies have the cause, and only its counter moved in the power controller. -/
theorem overpower_causes : (∀ d : Die, (overpower s).dies[d].overpwr = true) ∧
    ∃ c, (overpower s).power = { s.power with overpwr := c } := by
  by_cases h : ∀ d : Die, s.dies[d].overpwr = true
  · rw [overpower_taken s h]
    exact ⟨h, _, rfl⟩
  · have w := overpower_fresh s (by simpa only [not_forall, Bool.not_eq_true] using h)
    exact ⟨fun d => (w.die_overpwr d rfl).trans (congrArg DieState.overpwr (modDies_at _ _ d)), _, w.power_eq rfl⟩

end Overpower

/-- What an undervoltage does once its voltage is taken: cause, count and events. -/
def underTaken (s : State) : State :=
  let ds := diesWith s fun d => !d.uv
  if ds.isEmpty then s else
  postThrottle 0xC1 ds (diesWith s fun d => !throttled d) (((s.modPower fun w => { w with uv := hit 16 w.uv }).modDie 0
    fun d => { d with uv := true }).modDie 1 fun d => { d with uv := true })

theorem effUnder_eq {s : State} (hp : s.power.pwrgd = true) {mV : Nat} (hv : mV < 50000) :
    effUnder mV s = underTaken (setVolt mV s) := by
  unfold effUnder
  rw [if_neg (by simp [hv, hp])]
  rfl

/-- An undervoltage leaves the cause on both dies, and the voltage that was sampled. -/
theorem underTaken_throttles (s : State) :
    (∀ d : Die, (underTaken s).dies[d].uv = true) ∧ (underTaken s).power.volt = s.power.volt := by
  unfold underTaken
  dsimp only
  split
  · next he => exact ⟨fun d => by simpa using diesWith_isEmpty.mp he d, rfl⟩
  · have w := postThrottle_within 0xC1 (diesWith s fun d => !d.uv) (diesWith s fun d => !throttled d)
      (((s.modPower fun w => { w with uv := hit 16 w.uv }).modDie 0 fun d => { d with uv := true }).modDie 1
        fun d => { d with uv := true })
    exact ⟨fun d => (w.die_uv d rfl).trans (congrArg DieState.uv (modDies_at _ _ d)), (congrArg Power.volt (w.power_eq rfl)).trans rfl⟩

/-- A sample is taken whole; one above 1,600 W is an overpower too. -/
theorem effPowerSample_eq {s : State} (hp : s.power.pwrgd = true) (watts avg mV mA : BitVec 16) : ∃ u : State,
    effPowerSample watts avg mV mA s = (if 1600 < watts.toNat then overpower u else u) ∧ Within [.power, .mgmt] s u ∧
    u.power = { s.power with volt := mV, curr := mA, watts := watts, avg := avg } := by
  refine ⟨bandEvents s (s.modPower fun w => { w with volt := mV, curr := mA, watts := watts, avg := avg }), ?_,
    Within.trans (modPower_without _ _ _ rfl) ((bandEvents_within _ _).mono rfl), bandEvents_power _ _⟩
  unfold effPowerSample
  rw [if_neg (by rw [hp]; decide)]

theorem undervoltageDetect_throttles {s : State} (hp : s.power.pwrgd = true) {mV : Nat} (hv : mV < 50000) :
    Does (.undervoltageDetect mV) s fun t => (∀ d : Die, t.dies[d].uv = true) ∧
      t.power.volt = BitVec.ofNat 16 mV ∧ Within (.causes :: .power :: faultPieces) s t := by
  obtain ⟨huv, hvolt⟩ := underTaken_throttles (setVolt mV s)
  rw [setVolt_volt, voltField_of_lt hv, ← effUnder_eq hp hv] at hvolt
  rw [← effUnder_eq hp hv] at huv
  exact ⟨_, rfl, huv, hvolt, effUnder_without rfl⟩

theorem undervoltageClear_clears {s : State} (hp : s.power.pwrgd = true) {mV : Nat} (hv : 51000 ≤ mV) :
    Does (.undervoltageClear mV) s fun t => (∀ d : Die, t.dies[d] = { s.dies[d] with uv := false }) ∧
      t.power.volt = BitVec.ofNat 16 (min mV 65535) ∧ Within [.causes, .power, .mgmt] s t := by
  have hw : Within [.causes, .power, .mgmt] s (setVolt mV s) := setVolt_without rfl
  have hvolt : (setVolt mV s).power.volt = BitVec.ofNat 16 (min mV 65535) := setVolt_volt mV s
  refine ⟨_, congrArg Host.Outcome.next (if_pos ⟨hv, hp⟩), fun d => ?_, (congrArg Power.volt (modDies_power _ _)).trans hvolt,
    hw.trans (modDies_within fun _ => rfl)⟩
  rw [modDies_at, setVolt_die]

theorem powerSample_taken {s : State} (hp : s.power.pwrgd = true) (watts avg mV mA : BitVec 16) :
    Does (.powerSample watts avg mV mA) s fun t =>
      t.power.volt = mV ∧ t.power.curr = mA ∧ t.power.watts = watts ∧ t.power.avg = avg ∧
      (1600 < watts.toNat → ∀ d : Die, t.dies[d].overpwr = true) ∧ (watts.toNat ≤ 1600 → Within [.power, .mgmt] s t) := by
  obtain ⟨u, he, hu, hpow⟩ := effPowerSample_eq hp watts avg mV mA
  by_cases hw : 1600 < watts.toNat
  · obtain ⟨hover, c, hupow⟩ := overpower_causes u
    rw [hpow] at hupow
    refine ⟨_, congrArg Host.Outcome.next (he.trans (if_pos hw)), ?_⟩
    simp only [hupow, true_and]
    exact ⟨fun _ => hover, fun h => absurd hw (by omega)⟩
  · refine ⟨_, congrArg Host.Outcome.next (he.trans (if_neg hw)), ?_⟩
    simp only [hpow, true_and]
    exact ⟨fun h => absurd h hw, fun _ => hu⟩

/-- Settles O10: each throttle is `modDies_at` under the frame of its events. -/
theorem throttlesOfBothDies : Obligations.ThrottlesOfBothDies := by
  unfold Obligations.ThrottlesOfBothDies
  intro s hp
  refine ⟨fun mV hv => undervoltageDetect_throttles hp hv, fun mV hv => undervoltageClear_clears hp hv,
    fun watts avg mV mA => powerSample_taken hp watts avg mV mA, ?_, ?_⟩
  · exact ⟨_, congrArg Host.Outcome.next (if_pos hp), (overpower_causes s).1,
      fun h => congrArg Power.overpwr ((overpower_fresh s h).power_eq rfl)⟩
  · exact ⟨_, rfl, fun d => modDies_at s _ d, modDies_within fun _ => rfl⟩

/-! ### Temperatures (R551 to R553) -/

theorem foldl_max_mem (x : Int) (l : List Int) : l.foldl max x ∈ x :: l ∧ ∀ y ∈ x :: l, y ≤ l.foldl max x := by
  induction l generalizing x with
  | nil => simp
  | cons a r ih =>
    obtain ⟨hmem, hle⟩ := ih (max x a)
    have hmax := hle (max x a) List.mem_cons_self
    refine ⟨?_, fun y hy => ?_⟩
    · rcases List.mem_cons.mp hmem with h | h
      · show (a :: r).foldl max x ∈ _
        rw [List.foldl_cons, h]
        rcases max_choice x a with hm | hm <;> simp [hm]
      · exact List.mem_cons_of_mem _ (List.mem_cons_of_mem _ h)
    · rcases List.mem_cons.mp hy with rfl | hy
      · exact (le_max_left _ _).trans hmax
      rcases List.mem_cons.mp hy with rfl | hy
      · exact (le_max_right _ _).trans hmax
      · exact hle y (List.mem_cons_of_mem _ hy)

/-- Every sample is at most the hottest of its scope. -/
theorem le_hottestOf (last : Int) {x : Int} {l : List Int} (h : x ∈ l) : x ≤ hottestOf last l := by
  cases l with
  | nil => cases h
  | cons a r => exact (foldl_max_mem a r).2 x h

/-- The reading of super k in a list with one reading for each super. -/
theorem dramTemp_map (s : State) (g : Super → Int) (k : Super) : dramTemp s ((fins 8).map g) k = g k := by
  have hk : ((fins 8).map g)[k.val]? = some (g k) := by
    simp [fins]
  rw [dramTemp, hk]
  rfl

/-- One die's share of a die sample. -/
def tempOf (die0 die1 : Int) (d : Die) : Int := if d = 0 then die0 else die1

/-- What the readings leave before any cause: the temperatures and the hot flags. -/
structure Sampled (die0 die1 : Int) (dram : List Int) (s v : State) : Prop where
  within : Within [.superRegs, .causes, .power, .mgmt, .partRegs] s v
  pwrgd : v.power.pwrgd = s.power.pwrgd
  tSup : ∀ k : Super, v.power.tSup[k] = dramTemp s dram k
  dies : ∀ d : Die, v.dies[d] = { s.dies[d] with temp := tempOf die0 die1 d }

/-- The readings, before the supers' hot flags. -/
def tempsTaken (die0 die1 : Int) (dram : List Int) (s : State) : State :=
  ((s.modPower fun w => { w with tSup := Vector.ofFn fun k => dramTemp s dram k
                                 tDram := (Vector.ofFn fun k => dramTemp s dram k)[hottest (Vector.ofFn fun k => dramTemp s dram k)]
                                 tDramSup := hottest (Vector.ofFn fun k => dramTemp s dram k) }).modDie 0
    fun d => { d with temp := die0 }).modDie 1 fun d => { d with temp := die1 }

theorem tempsTaken_sampled (die0 die1 : Int) (dram : List Int) (s : State) :
    Sampled die0 die1 dram s (tempsTaken die0 die1 dram s) := by
  refine ⟨Eq.trans (modDie_without _ _ _ _ fun _ => rfl) (Eq.trans (modDie_without _ _ _ _ fun _ => rfl) (modPower_without _ _ _ rfl)),
    rfl, fun k => Vector.getElem_ofFn _, fun d => ?_⟩
  match d with
  | 0 => exact (modDie_other _ 1 0 _ (by decide)).trans (modDie_same _ 0 _)
  | 1 => exact (modDie_same _ 1 _).trans (congrArg (fun x : DieState => { x with temp := die1 }) (modDie_other _ 0 1 _ (by decide)))

/-- What changes flags, counts and events only leaves the sample. -/
theorem Sampled.of_within {die0 die1 : Int} {dram : List Int} {s v u : State} (h : Sampled die0 die1 dram s v)
    (w : Within [.superRegs, .partRegs, .mgmt] v u) : Sampled die0 die1 dram s u := by
  have hp := w.power_eq rfl
  exact ⟨h.within.trans (w.mono rfl), (congrArg Power.pwrgd hp).trans h.pwrgd, fun k => by rw [hp]; exact h.tSup k,
    fun d => (w.die d).trans (h.dies d)⟩

theorem takeTemps_sampled (die0 die1 : Int) (dram : List Int) (s : State) : Sampled die0 die1 dram s (takeTemps die0 die1 dram s) :=
  (tempsTaken_sampled die0 die1 dram s).of_within (forEach_without _ _ _ _ fun _ _ => modSuper_without _ _ _ _ fun _ => rfl)

/-- The hot counts change the partitions' monitors only. -/
theorem countHot_within (s : State) : Within [.partRegs] s (countHot s) := countHot_without rfl

theorem counted_sampled (die0 die1 : Int) (dram : List Int) (s old : State) :
    Sampled die0 die1 dram s (countHot (bandEvents old (takeTemps die0 die1 dram s))) :=
  (takeTemps_sampled die0 die1 dram s).of_within (((bandEvents_within old _).mono rfl).trans ((countHot_within _).mono rfl))

/-! #### The causes that heat gives a die -/

/-- A bit once set stays set while supers above their limit are collected, and each of them sets its own. -/
theorem hotDrams_bits (c : Super → Prop) [DecidablePred c] (l : List Super) (m : BitVec 8) (i : Nat) :
    (l.foldl (fun (m : BitVec 8) k => if c k then m ||| (1#8 <<< k.val) else m) m).getLsbD i =
      (m.getLsbD i || l.any fun k => decide (c k ∧ k.val = i)) := by
  induction l generalizing m with
  | nil => simp
  | cons a r ih =>
    rw [List.foldl_cons, ih, List.any_cons]
    by_cases hc : c a
    · have hbit : (1#8 <<< a.val).getLsbD i = decide (a.val = i) := by
        have ha := a.isLt
        rw [BitVec.getLsbD_shiftLeft, BitVec.getLsbD_one]
        by_cases hi : a.val = i
        · subst hi; simp [ha]
        · simp [hi]; omega
      simp [hc, hbit, Bool.or_assoc]
    · simp [hc]

/-- A heated die: its two causes, and a bit for each of its DRAM dies above the limit. -/
theorem heatDie_causes (s : State) (d : Die) (x : DieState) :
    (heatDie s d x).thermDie = (x.thermDie || decide (100 ≤ x.temp)) ∧
    (heatDie s d x).therm4 = (x.therm4 || decide (108 ≤ x.temp)) ∧ (heatDie s d x).temp = x.temp ∧
    ∀ k : Super, dieOf k = d → 90 ≤ s.power.tSup[k] → (heatDie s d x).thermDram.getLsbD k.val = true := by
  refine ⟨rfl, rfl, rfl, fun k hk ht => ?_⟩
  refine (hotDrams_bits (fun k => dieOf k = d ∧ 90 ≤ s.power.tSup[k]) (fins 8) _ k.val).trans ?_
  rw [Bool.or_eq_true_iff]
  exact .inr (List.any_eq_true.mpr ⟨k, mem_fins k, decide_eq_true ⟨⟨hk, ht⟩, rfl⟩⟩)

/-- Both dies take their causes. -/
def heated (s : State) : State := forEach (fins 2) (fun d t => t.modDie d fun x => heatDie s d x) s

theorem heated_within (s : State) : Within [.causes] s (heated s) :=
  forEach_without _ _ _ _ fun _ _ => modDie_without _ _ _ _ fun _ => heatDie_without rfl

theorem heated_die (s : State) (d : Die) : (heated s).dies[d] = heatDie s d s.dies[d] := by
  show ((s.modDie 0 fun x => heatDie s 0 x).modDie 1 fun x => heatDie s 1 x).dies[d] = _
  match d with
  | 0 => exact (modDie_other _ 1 0 _ (by decide)).trans (modDie_same _ 0 _)
  | 1 => exact (modDie_same _ 1 _).trans (congrArg (heatDie s 1) (modDie_other _ 0 1 _ (by decide)))

/-- The causes of heat, and the events of those that are new. -/
def heatEvents (s : State) : State :=
  let ds := diesWith s fun d => !thermal d
  let un := diesWith s fun d => !throttled d
  let t := heated s
  let began := ds.filter fun d => thermal t.dies[d]
  if began.isEmpty then t else
  postThrottle 0xC2 began (un.filter (began.contains ·)) (t.modPower fun w => { w with therm := hitN 16 began.length w.therm })

theorem heatEvents_within (s : State) :
    ∃ c, Within faultPieces ((heated s).modPower fun w => { w with therm := c }) (heatEvents s) := by
  unfold heatEvents
  dsimp only
  split
  · exact ⟨(heated s).power.therm, rfl⟩
  · exact ⟨_, postThrottle_within _ _ _ _⟩

/-- A sample below the trip temperatures. -/
theorem effThermal_cool {s : State} (hp : s.power.pwrgd = true) {die0 die1 : Int} {dram : List Int} (h0 : die0 < 115) (h1 : die1 < 115)
    (hd : ∀ k : Super, dramTemp s dram k < 100) :
    effThermal die0 die1 dram s = heatEvents (countHot (bandEvents s (takeTemps die0 die1 dram s))) := by
  have hc : ¬ (115 ≤ die0 ∨ 115 ≤ die1 ∨ (fins 8).any (fun k => decide (100 ≤ dramTemp s dram k)) = true) := by
    simp only [List.any_eq_true, decide_eq_true_eq, not_or, not_exists, not_and, not_le]
    exact ⟨h0, h1, fun k _ => hd k⟩
  unfold effThermal
  rw [if_neg (by rw [hp]; decide), if_neg hc]
  rfl

/-- A junction sensor at 115 °C or a DRAM sensor at 100 °C trips the module. -/
theorem effThermal_hot {s : State} (hp : s.power.pwrgd = true) {die0 die1 : Int} {dram : List Int}
    (h : 115 ≤ die0 ∨ 115 ≤ die1 ∨ ∃ k : Super, 100 ≤ dramTemp s dram k) :
    effThermal die0 die1 dram s = powerDown true true false true s := by
  have hc : 115 ≤ die0 ∨ 115 ≤ die1 ∨ (fins 8).any (fun k => decide (100 ≤ dramTemp s dram k)) = true := by
    simp only [List.any_eq_true, decide_eq_true_eq]
    exact h.imp_right (Or.imp_right fun ⟨k, hk⟩ => ⟨k, mem_fins k, hk⟩)
  unfold effThermal
  rw [if_neg (by rw [hp]; decide), if_pos hc]

/-- The readings of one sample: the hottest of each scope. -/
def readings (s : State) (dram : List (List Int)) : List Int := (fins 8).map fun k => hottestOf s.power.tSup[k] (dram.getD k.val [])

/-- What a sample below every trip temperature leaves. -/
theorem heatEvents_sampled {s v t : State} {die0 die1 : Int} {dram : List Int} (hs : Sampled die0 die1 dram s v)
    (ht : heatEvents v = t) :
    (∀ d : Die, t.dies[d].temp = tempOf die0 die1 d ∧ t.dies[d].thermDie = (s.dies[d].thermDie || decide (100 ≤ t.dies[d].temp)) ∧
      t.dies[d].therm4 = (s.dies[d].therm4 || decide (108 ≤ t.dies[d].temp))) ∧
    (∀ k : Super, t.power.tSup[k] = dramTemp s dram k ∧ (90 ≤ t.power.tSup[k] →
      t.dies[dieOf k].thermDram.getLsbD k.val = true)) ∧ t.power.pwrgd = s.power.pwrgd := by
  obtain ⟨c, w⟩ := heatEvents_within v
  rw [ht] at w
  have hpow := w.power_eq rfl
  have hhot := (heated_within v).power_eq rfl
  have hkept : (heated v).power.tSup = v.power.tSup ∧ (heated v).power.pwrgd = v.power.pwrgd := by rw [hhot]; exact ⟨rfl, rfl⟩
  have htsup : t.power.tSup = v.power.tSup := (congrArg Power.tSup hpow).trans hkept.1
  have hdie : ∀ d : Die, t.dies[d].thermDie = (heatDie v d v.dies[d]).thermDie ∧ t.dies[d].therm4 = (heatDie v d v.dies[d]).therm4 ∧
      t.dies[d].thermDram = (heatDie v d v.dies[d]).thermDram ∧ t.dies[d].temp = (heatDie v d v.dies[d]).temp := fun d => by
    rw [← heated_die]
    exact ⟨w.die_thermDie d rfl, w.die_therm4 d rfl, w.die_thermDram d rfl, w.die_temp d rfl⟩
  refine ⟨fun d => ?_, fun k => ?_, ?_⟩
  · obtain ⟨hd1, hd4, -, hdt⟩ := hdie d
    rw [hd1, hd4, hdt, hs.dies d]
    exact ⟨rfl, rfl, rfl⟩
  · obtain ⟨-, -, hdram, -⟩ := hdie (dieOf k)
    rw [hdram, htsup]
    exact ⟨hs.tSup k, (heatDie_causes v (dieOf k) v.dies[dieOf k]).2.2.2 k rfl⟩
  · exact (congrArg Power.pwrgd hpow).trans (hkept.2.trans hs.pwrgd)

/-- A clear of one DRAM die's cause clears its bit alone. -/
theorem clearBit (m : BitVec 8) (k : Super) (i : Nat) :
    (m &&& ~~~ (1#8 <<< k.val)).getLsbD i = (m.getLsbD i && decide (i ≠ k.val)) := by
  have hk := k.isLt
  by_cases hi : i < 8
  · rw [BitVec.getLsbD_and, BitVec.getLsbD_not, BitVec.getLsbD_shiftLeft, BitVec.getLsbD_one]
    by_cases he : i = k.val
    · subst he; simp [hi]
    · simp [hi, he]; omega
  · rw [BitVec.getLsbD_of_ge _ _ (by omega), BitVec.getLsbD_of_ge _ _ (by omega), Bool.false_and]

/-- A change of one die's causes. -/
theorem modCauses {s : State} (d : Die) {f : DieState → DieState} (hf : ∀ x, (f x).without [.causes] = x.without [.causes]) :
    (s.modDie d f).dies[d] = f s.dies[d] ∧ (∀ e : Die, e ≠ d → (s.modDie d f).dies[e] = s.dies[e]) ∧
      Within [.causes] s (s.modDie d f) :=
  ⟨modDie_same s d f, fun e he => modDie_other s d e f he.symm, modDie_without _ _ _ _ hf⟩

/-- Settles O11: the hottest reading of each scope decides between a trip and `thermalSample_cool`. -/
theorem temperaturesThrottleAndTrip : Obligations.TemperaturesThrottleAndTrip := by
  unfold Obligations.TemperaturesThrottleAndTrip
  refine ⟨fun last x l => ⟨rfl, foldl_max_mem x l⟩, fun s => ⟨fun die0 die1 dram hp h => ?_, fun die0 die1 dram hp h0 h1 hd => ?_,
    fun d => ?_, fun d => ?_, fun k => ?_⟩⟩
  · have hc : 115 ≤ hottestOf s.dies[(0 : Die)].temp die0 ∨ 115 ≤ hottestOf s.dies[(1 : Die)].temp die1 ∨
        ∃ k : Super, 100 ≤ dramTemp s (readings s dram) k := by
      rcases h with ⟨x, hx, hle⟩ | ⟨k, x, hx, hle⟩
      · rcases List.mem_append.mp hx with hx | hx
        · exact .inl (hle.trans (le_hottestOf _ hx))
        · exact .inr (.inl (hle.trans (le_hottestOf _ hx)))
      · exact .inr (.inr ⟨k, by rw [readings, dramTemp_map]; exact hle.trans (le_hottestOf _ hx)⟩)
    exact ⟨_, congrArg Host.Outcome.next (effThermal_hot hp hc), rfl, rfl, rfl, rfl, powerDown_without rfl⟩
  · have hd' : ∀ k : Super, dramTemp s (readings s dram) k < 100 := fun k => by rw [readings, dramTemp_map]; exact hd k
    obtain ⟨hdies, hsup, hpw⟩ := heatEvents_sampled (counted_sampled _ _ (readings s dram) s s)
      (effThermal_cool hp h0 h1 hd').symm
    refine ⟨_, rfl, (hdies 0).1, (hdies 1).1, fun d => (hdies d).2, fun k => ?_, hpw.trans hp, effThermal_without rfl⟩
    refine ⟨(hsup k).1.trans ?_, (hsup k).2⟩
    rw [readings, dramTemp_map]
  · exact ⟨_, rfl, modCauses d fun _ => rfl⟩
  · exact ⟨_, rfl, modCauses d fun _ => rfl⟩
  · obtain ⟨hdie, hother, hw⟩ := modCauses (s := s) (dieOf k) (f := fun x => { x with thermDram := x.thermDram &&& ~~~ (1#8 <<< k.val) })
      fun _ => rfl
    exact ⟨_, rfl, fun i => (congrArg (fun x : DieState => x.thermDram.getLsbD i) hdie).trans (clearBit _ k i), hother, hw⟩

/-! ### References and PLLs (R547 to R550, R556) -/

/-- An energy report of a partition that does not hum (R547). -/
theorem energyReport_recorded {s : State} {p : Part} (uj : Word) (hl : s.parts[p].live = true)
    (hh : ∀ k, inPart s p k = true → s.combs[k].hum.active = false) :
    exec (.energyReport64 p uj) s = .next (recordEnergy p uj s) := by
  refine congrArg Host.Outcome.next (if_pos ⟨hl, ?_⟩)
  simp only [Bool.not_eq_true', List.any_eq_false, combsOf, List.mem_filter, mem_fins, true_and, Bool.not_eq_true]
  exact hh

/-- Where the fabric reference is lost a strand-port that leaves UP is DOWN (R548). -/
theorem downState_noReference {s : State} (h : s.power.frefLost = true) (p : LPort) (stuck : Bool) : downState s p stuck = 0 := by
  unfold downState
  rw [h]
  simp

/-- One strand-port loses the reference. -/
def loseReference (k : Comb) (p : LPort) (s : State) : State :=
  if s.combs[k].router.ports[p].state = 0 then s else strandDown k p 0 s.combs[k].router.ports[p].stuck s

/-- What the loss of references keeps. -/
def Unreferenced (s t : State) : Prop := Within [.hum, .router, .partRegs] s t ∧ Jobless t ∧ t.power.frefLost = true

theorem loseReference_keeps {s t : State} (h : Unreferenced s t) (k : Comb) (p : LPort) : Unreferenced s (loseReference k p t) := by
  obtain ⟨hw, hj, hl⟩ := h
  unfold loseReference
  split
  · exact ⟨hw, hj, hl⟩
  · have w := strandDown_within (hj k p) 0 t.combs[k].router.ports[p].stuck
    exact ⟨hw.trans w, fun j q => (strandDown_jobsOnPort (hj k p) 0 _ j q).trans (hj j q), by rw [w.power_eq rfl]; exact hl⟩

theorem loseReference_port {s t : State} (h : Unreferenced s t) (k j : Comb) (p q : LPort) :
    (loseReference k p t).combs[j].router.ports[q].state =
      if k = j ∧ p = q then 0 else t.combs[j].router.ports[q].state := by
  obtain ⟨-, hj, hl⟩ := h
  unfold loseReference
  split
  · next h0 => split
               · next he => obtain ⟨rfl, rfl⟩ := he; exact h0
               · rfl
  · rw [strandDown_port (hj k p), downState_noReference hl]
    split <;> rfl

/-- Every strand-port loses the reference. -/
def loseReferences (s : State) : State := forEach (fins 8) (fun k => forEach (fins 6) (loseReference k)) s

theorem loseReferences_keeps {s : State} (hj : Jobless s) (hl : s.power.frefLost = true) : Unreferenced s (loseReferences s) :=
  forEach_invariant (I := Unreferenced s) (fun k _ h => forEach_invariant (I := Unreferenced s)
    (fun p _ h => loseReference_keeps h k p) _ h) _ ⟨rfl, hj, hl⟩

theorem loseReferences_port {s : State} (hj : Jobless s) (hl : s.power.frefLost = true) (j : Comb) (q : LPort) :
    (loseReferences s).combs[j].router.ports[q].state = 0 := by
  have hcomb : ∀ (k : Comb) (t : State), Unreferenced s t → (forEach (fins 6) (loseReference k) t).combs[j].router.ports[q].state =
      if k = j then 0 else t.combs[j].router.ports[q].state := fun k t ht =>
    forEach_once_mem (I := Unreferenced s) (π := fun u => u.combs[j].router.ports[q].state) (f := loseReference k)
      (g := fun x => if k = j then 0 else x) (a := q) (fun p _ h => loseReference_keeps h k p)
      (fun u hu => by rw [loseReference_port hu]; simp only [and_true])
      (fun p u hpq hu => by rw [loseReference_port hu, if_neg fun h => hpq h.2]) (fins_nodup 6) (mem_fins q) ht
  unfold loseReferences
  exact forEach_once_mem (α := Fin 8) (I := Unreferenced s) (π := fun u => u.combs[j].router.ports[q].state) (g := fun _ => 0)
    (f := fun k => forEach (fins 6) (loseReference k)) (l := fins 8) (s := s) (a := j)
    (fun k _ h => forEach_invariant (I := Unreferenced s) (fun p _ h => loseReference_keeps h k p) _ h)
    (fun u hu => (hcomb j u hu).trans (if_pos rfl)) (fun k u hkj hu => (hcomb k u hu).trans (if_neg hkj)) (fins_nodup 8)
    (mem_fins j) ⟨rfl, hj, hl⟩

/-- The power controller without its fabric reference. -/
def fabricLost (w : Power) : Power := { w with frefLost := true, frefOk := false, frefLoss := hit 16 w.frefLoss }

/-- What a lost fabric reference reports to the partitions. -/
def reportReference (s : State) : State :=
  if !queensServe s then s else
  forEach (liveParts s) (fun p s => postEvent p evWarning 0xC4 p (Config.openDetail evWarning 0xC4) s) s

theorem reportReference_within (s : State) : Within [.out, .host, .evq, .mod] s (reportReference s) :=
  ite_without (fun _ => rfl) fun _ => forEach_without _ _ _ _ fun _ _ => postEvent_without rfl

theorem effFabricLoss_eq {s : State} (h : s.power.frefLost = false) :
    effFabricLoss s = reportReference (loseReferences (s.modPower fabricLost)) := by
  unfold effFabricLoss
  rw [if_neg (by rw [h]; decide)]
  rfl

/-- A lost fabric reference where no job hums: every strand-port is DOWN. -/
theorem effFabricLoss_down {s : State} (h : s.power.frefLost = false) (hj : Jobless s) :
    (effFabricLoss s).power = fabricLost s.power ∧ ∀ (k : Comb) (q : LPort), (effFabricLoss s).combs[k].router.ports[q].state = 0 := by
  have hj' : Jobless (s.modPower fabricLost) := hj
  have hports := loseReferences_port hj' rfl
  obtain ⟨hlost, -, -⟩ := loseReferences_keeps hj' rfl
  have w := reportReference_within (loseReferences (s.modPower fabricLost))
  have hpower := (w.power_eq rfl).trans (hlost.power_eq rfl)
  rw [effFabricLoss_eq h]
  exact ⟨hpower, fun k q => by rw [w.comb_router k rfl, hports k q]⟩

/-- A PCIe link that is up falls with its reference; one that is down stays so (R549). -/
theorem pcieRefLoss_down {s : State} (h : s.power.prefLost = false) : Does .pcieRefLoss s fun t => t.mod.linkUp = false ∧
    t.power = { s.power with prefLost := true, prefOk := false, prefLoss := hit 16 s.power.prefLoss } := by
  refine ⟨_, congrArg Host.Outcome.next (if_neg (by rw [h]; decide)), ?_⟩
  dsimp only
  split
  · have w (u : State) : Within faultPieces u (portReset u) := portReset_without rfl
    exact ⟨(portReset_down _).link, (w _).power_eq rfl⟩
  · next hl => exact ⟨by simpa using hl, rfl⟩

/-- A PLL that loses lock is a fault of the module: it resets warm, its log naming the PLL. -/
theorem pllUnlock_resets {s : State} {pll : Fin 23} (hp : s.power.pwrgd = true) (hm : s.evt.modState ≠ 1)
    (hb : s.boot.kind = .cold → 5 ≤ s.boot.stage.toNat) : exec (.pllUnlock pll) s = .next (moduleReset false
      (logFirst stInternal (w32 (0x1300 + pll.val)) (s.modPower fun w => { w with pllUnlock := hit 16 w.pllUnlock }))) := by
  refine congrArg Host.Outcome.next ((if_pos hp).trans ?_)
  exact (if_neg fun h => Nat.not_lt.mpr (hb h.1) h.2).trans (if_neg hm)

/-- The reset counts the lock that was lost and names the PLL in the log. -/
theorem pllReset (pll : Fin 23) (s : State) :
    let t := moduleReset false (logFirst stInternal (w32 (0x1300 + pll.val)) (s.modPower fun w => { w with pllUnlock := hit 16 w.pllUnlock }))
    t.power = { s.power with pllUnlock := hit 16 s.power.pllUnlock } ∧ t.evt.modState = 1 ∧ t.boot.stage = 0 ∧
      t.evt.modlog = w64 (0xFF + 256 * (0x1300 + pll.val)) := by
  obtain ⟨hstate, hstage, hlog⟩ := moduleReset_warm (logFirst stInternal (w32 (0x1300 + pll.val))
    (s.modPower fun w => { w with pllUnlock := hit 16 w.pllUnlock }))
  have w : Within faultPieces _ _ := moduleReset_without (cold := false) (s := logFirst stInternal (w32 (0x1300 + pll.val))
    (s.modPower fun w => { w with pllUnlock := hit 16 w.pllUnlock })) rfl
  refine ⟨w.power_eq rfl, hstate, hstage, hlog.trans (congrArg w64 ?_)⟩
  have hpll := pll.isLt
  show 255 + 256 * ((BitVec.ofNat 32 (0x1300 + pll.val)).toNat % 65536) = _
  rw [BitVec.toNat_ofNat]
  omega

/-- Settles O13: the fabric reference by its strand-ports one by one, a PLL by the module's warm reset. -/
theorem energyReferencesAndPlls : Obligations.EnergyReferencesAndPlls := by
  unfold Obligations.EnergyReferencesAndPlls
  intro s
  refine ⟨fun p uj hl hh => ?_, fun hf hj => ?_, fun h => pcieRefLoss_down h, ?_, ?_, fun pll hp hm hb => ?_⟩
  · refine ⟨_, energyReport_recorded uj hl hh, ?_, ?_, recordEnergy_without rfl⟩
    · exact congrArg PartState.energy (modPart_at s p _)
    · exact congrArg PartState.peak (modPart_at s p _)
  · exact ⟨_, rfl, effFabricLoss_down hf hj⟩
  · exact ⟨_, rfl, rfl, modPower_without _ _ _ rfl⟩
  · have w : Within [.router] _ _ := startTraining_without (s := s.modPower fun w => { w with frefLost := false, frefOk := true }) rfl
    exact ⟨_, rfl, w.power_eq rfl, Within.trans (modPower_without _ _ _ rfl) (w.mono rfl)⟩
  · exact ⟨_, pllUnlock_resets hp hm hb, pllReset pll s⟩

end Sys2Proof.PowerProofs
end

section
/-! Module resets: what each keeps and removes (R488, R489, R511). -/

namespace Sys2Proof.ModuleResetProofs

open Sys2Proof Sys2Proof.Machine Sys2Proof.MemoryProofs Sys2Proof.JobFaultProofs Sys2Proof.PortProofs Sys2Proof.SuperProofs
  Sys2Proof.RingProofs Sys2Proof.ManagementProofs Sys2Proof.LeaseProofs Sys2Proof.AlarmProofs

/-! ### The four parts of a module reset -/

/-- Repairs that run are finished, and slots that load are zeroised. -/
def quietAll (s : State) : State := forEach (fins 8) quietSuper s

/-- The state of every unit after the reset, before power and seeds come back. -/
def resetBase (cold : Bool) (s : State) : State := { s with
  combs := s.combs.map (moduleComb cold)
  supers := s.supers.map fun u => { resetSuperState u with
    resetting := false, waiting := .replicate 6 [], lineCe := if cold then [] else u.lineCe, hild := if cold then {} else { resetHild u.hild with state := 0 } }
  parts := s.parts.map (if cold then fun q => { energy := q.energy, peak := q.peak } else warmPart)
  fns := .replicate 9 {}
  dies := s.dies.map moduleDie
  ports := .replicate 8 {}
  queen := moduleQueen cold s.queen
  boot := { kind := if cold then .cold else .warm, boots := s.boot.boots, toRecovery := s.boot.toRecovery
            erased := s.boot.erased, flash := s.boot.flash, cdi1 := s.boot.cdi1, dQueen := s.boot.dQueen, dSeq := s.boot.dSeq
            dHild := s.boot.dHild }
  mgmt := {}
  evt := { modlog := s.evt.modlog, modState := if cold then 0 else 1 }
  mod := { perstN := s.mod.perstN, pairLinks := if cold then [] else s.mod.pairLinks
           groupLinks := if cold then 0 else s.mod.groupLinks }
  host := {} }

/-- Seeds for the combs that are powered. -/
def reseedAll (s : State) : State := forEach ((fins 8).filter fun k => s.combs[k].seqPwr) (fun k s => reseed k none s) s

/-- The quiet units that a module reset starts from. -/
def resetFrom (cold : Bool) (s : State) : State := quietAll (if cold then zeroiseAll s else s)

theorem resetFrom_warm (s : State) : resetFrom false s = quietAll s := rfl

theorem resetFrom_cold (s : State) : resetFrom true s = quietAll (zeroiseAll s) := rfl

theorem moduleReset_eq (cold : Bool) (s : State) : moduleReset cold s =
    reseedAll (powerAll (resetBase cold (resetFrom cold s))) := by
  unfold moduleReset reseedAll resetBase resetFrom quietAll
  rfl

/-- What power and seeds change after a module reset. -/
def afterReset : List Piece := [.out, .host, .draws, .combMap, .hum, .combRegs, .router, .superMem, .superTree, .superKeys, .superRegs,
  .evq, .mod]

theorem reseedAll_within (s : State) : Within [.out, .host, .draws, .combRegs, .evq, .mod] s (reseedAll s) :=
  forEach_without _ _ _ _ fun _ _ => reseed_without rfl

theorem powerAll_within (s : State) : Within [.draws, .combMap, .hum, .combRegs, .router, .superMem, .superTree, .superKeys, .superRegs] s
    (powerAll s) := powerAll_without rfl

theorem moduleReset_after (cold : Bool) (s : State) :
    Within afterReset (resetBase cold (resetFrom cold s)) (moduleReset cold s) := by
  rw [moduleReset_eq]
  exact ((powerAll_within _).mono rfl).trans ((reseedAll_within _).mono rfl)

/-! ### No repair runs: the units become quiet by their key slots alone -/

/-- No row is under repair. -/
def Calm (s : State) : Prop := ∀ k : Super, s.supers[k].repairing = none

theorem effRepaired_calm {s : State} {k : Super} (h : s.supers[k].repairing = none) : effRepaired k s = s := by
  unfold effRepaired
  rw [h]

theorem Calm.of_keys {s t : State} (h : Calm s) (w : Within [.superKeys] s t) : Calm t := fun k => by
  have hk : t.supers[k].repairing = s.supers[k].repairing := by
    simpa [SuperState.without] using congrArg SuperState.repairing (w.super k)
  rw [hk, h k]

theorem quietSuper_calm {s : State} (h : Calm s) (k : Super) : quietSuper k s = flushSlots k s := by
  unfold quietSuper
  rw [effRepaired_calm (h k)]

theorem flushSlots_within (k : Super) (s : State) : Within [.superKeys] s (flushSlots k s) := flushSlots_without rfl

theorem quietAll_calm {s : State} (h : Calm s) : Within [.superKeys] s (quietAll s) :=
  forEach_invariant (I := Within [.superKeys] s) (fun k t hw => by
    rw [quietSuper_calm (h.of_keys hw)]
    exact hw.trans (flushSlots_within k t)) _ rfl

/-! ### Key slots -/

/-- A super whose slot of a key ID waits for its scrub. -/
def slotZeroised (id : KeyId) (rs : List (KeyId × Nat × Nat)) (u : SuperState) : SuperState :=
  { u with slots := upd u.slots id fun _ => .scrubbing, toScrub := if u.slots[id].state = 3 then u.toScrub else u.toScrub ++ rs }

theorem zeroiseSlot_eq {k : Super} {id : KeyId} {s : State} (h : s.supers[k].slots[id].state ≠ 0) :
    zeroiseSlot k id s = s.modSuper k (slotZeroised id (keyRanges s k id)) := if_neg h

/-- Zeroising changes the slot of its key ID alone. -/
theorem zeroiseSlot_other {k j : Super} {i id : KeyId} (h : k ≠ j ∨ id ≠ i) (s : State) :
    (zeroiseSlot k id s).supers[j].slots[i] = s.supers[j].slots[i] := by
  by_cases h0 : s.supers[k].slots[id].state = 0
  · rw [zeroiseSlot, if_pos h0]
  rw [zeroiseSlot_eq h0]
  by_cases hk : k = j
  · subst hk
    rw [modSuper_at]
    exact upd_other _ _ _ _ (h.resolve_left fun hn => hn rfl)
  · exact congrArg (fun u : SuperState => u.slots[i]) (modSuper_other s k j _ hk)

/-- A zeroised slot is EMPTY or waits for its scrub. -/
def Zeroised (s : State) (k : Super) (i : KeyId) : Prop := s.supers[k].slots[i].state = 0 ∨ s.supers[k].slots[i].state = 3

theorem zeroiseSlot_zeroised (k : Super) (i : KeyId) (s : State) : Zeroised (zeroiseSlot k i s) k i := by
  unfold Zeroised
  by_cases h0 : s.supers[k].slots[i].state = 0
  · rw [zeroiseSlot, if_pos h0]
    exact .inl h0
  · rw [zeroiseSlot_eq h0, modSuper_at]
    exact .inr (congrArg Slot.state (upd_same ..))

theorem Zeroised.step {s : State} {k : Super} {i : KeyId} (h : Zeroised s k i) (j : Super) (id : KeyId) :
    Zeroised (zeroiseSlot j id s) k i := by
  by_cases he : j = k ∧ id = i
  · obtain ⟨rfl, rfl⟩ := he
    exact zeroiseSlot_zeroised j id s
  · have hs := zeroiseSlot_other (not_and_or.mp he) s
    unfold Zeroised at h ⊢
    rw [hs]
    exact h

/-- Zeroising every slot leaves each key slot zeroised (R498). -/
theorem zeroiseAll_zeroised (s : State) (k : Super) {i : KeyId} (hi : 0 < i.val) : Zeroised (zeroiseAll s) k i := by
  unfold zeroiseAll
  refine forEach_establishes (α := Super) (P := fun k t => Zeroised t k i) (fun j t => ?_) (fun a b t h => ?_) (mem_fins k) s
  · exact forEach_establishes (P := fun i t => Zeroised t j i) (fun i t => zeroiseSlot_zeroised j i t) (fun a b t h => h.step j b)
      (List.mem_filter.mpr ⟨mem_fins i, decide_eq_true hi⟩) t
  · exact forEach_invariant (I := fun t => Zeroised t a i) (fun id t h => h.step b id) _ h

theorem flushSlots_zeroised {s : State} {k : Super} {i : KeyId} (h : Zeroised s k i) (j : Super) : Zeroised (flushSlots j s) k i :=
  forEach_invariant (I := fun t => Zeroised t k i) (fun id _ h => h.step j id) _ h

/-- A slot that does not load keeps its key when its super is quiet. -/
theorem flushSlots_slot {s : State} {k : Super} {i : KeyId} (h : s.supers[k].slots[i].state ≠ 2) (j : Super) :
    (flushSlots j s).supers[k].slots[i] = s.supers[k].slots[i] := by
  unfold flushSlots
  refine forEach_keeps_mem (fun t : State => t.supers[k].slots[i]) (f := zeroiseSlot j) (fun id hid t => zeroiseSlot_other ?_ t) s
  rw [← not_and_or]
  rintro ⟨rfl, rfl⟩
  exact h (of_decide_eq_true (List.mem_filter.mp hid).2)

theorem quietAll_slot {s : State} (hc : Calm s) {k : Super} {i : KeyId} (h : s.supers[k].slots[i].state ≠ 2) :
    (quietAll s).supers[k].slots[i] = s.supers[k].slots[i] := by
  refine (forEach_invariant (I := fun t => Within [.superKeys] s t ∧ t.supers[k].slots[i] = s.supers[k].slots[i])
    (fun j t ht => ?_) _ ⟨rfl, rfl⟩).2
  obtain ⟨hw, hs⟩ := ht
  rw [quietSuper_calm (hc.of_keys hw)]
  refine ⟨hw.trans (flushSlots_within j t), (flushSlots_slot ?_ j).trans hs⟩
  rw [hs]
  exact h

/-! ### Power comes back while no queen reigns -/

/-- A super whose stored bytes and tenants' slots are as they were. -/
def KeepsStored (u v : SuperState) : Prop := v.mem = u.mem ∧ ∀ i : KeyId, 0 < i.val → v.slots[i] = u.slots[i]

theorem KeepsStored.refl (u : SuperState) : KeepsStored u u := ⟨rfl, fun _ _ => rfl⟩

theorem KeepsStored.trans {u v w : SuperState} (h : KeepsStored u v) (g : KeepsStored v w) : KeepsStored u w :=
  ⟨g.1.trans h.1, fun i hi => (g.2 i hi).trans (h.2 i hi)⟩

theorem flushTree_keepsStored (u : SuperState) : KeepsStored u (flushTree u) := by
  have w : (flushTree u).without [.superTree, .superRegs] = u.without [.superTree, .superRegs] := flushTree_without rfl
  have hm : (flushTree u).mem = u.mem := by simpa [SuperState.without] using congrArg SuperState.mem w
  have hs : (flushTree u).slots = u.slots := by simpa [SuperState.without] using congrArg SuperState.slots w
  exact ⟨hm, fun i _ => by rw [hs]⟩

theorem resetSuperState_keepsStored (u : SuperState) : KeepsStored u (resetSuperState u) := by
  have h := flushTree_keepsStored u
  unfold resetSuperState
  generalize flushTree u = v at h
  exact h

/-- A super whose domain goes off. -/
def superOff (u : SuperState) : SuperState :=
  { flushTree u with powered := false, state := 2, cache := [], slots := upd u.slots 0 fun _ => {}, link := .replicate 2 {} }

theorem superOff_keepsStored (u : SuperState) : KeepsStored u (superOff u) := by
  have hm := (flushTree_keepsStored u).1
  unfold superOff
  generalize flushTree u = v at hm
  exact ⟨hm, fun i hi => upd_other _ _ _ _ fun h => absurd (congrArg Fin.val h) (by simpa using hi.ne)⟩

theorem powerSuper_noQueen {s : State} (h : s.boot.stage = 0) (k : Super) :
    powerSuper k s = s ∨ powerSuper k s = s.modSuper k superOff := by
  have hq : queenReigns s = false := by unfold queenReigns; rw [h]; rfl
  unfold powerSuper
  dsimp only
  rw [hq, Bool.and_false, Bool.false_and, if_neg Bool.false_ne_true]
  split
  · exact .inr rfl
  · exact .inl rfl

theorem powerSuper_keepsStored {s : State} (h : s.boot.stage = 0) (j k : Super) :
    KeepsStored s.supers[k] (powerSuper j s).supers[k] := by
  rcases powerSuper_noQueen h j with he | he
  · rw [he]; exact .refl _
  · rw [he]
    by_cases hk : j = k
    · subst hk
      rw [modSuper_at]
      exact superOff_keepsStored _
    · have := modSuper_other s j k superOff hk
      simp only [Fin.getElem_fin] at this ⊢
      rw [this]
      exact .refl _

theorem powerAll_keepsStored {s : State} (h : s.boot.stage = 0) (k : Super) : KeepsStored s.supers[k] (powerAll s).supers[k] :=
  (forEach_invariant (I := fun t => t.boot.stage = 0 ∧ KeepsStored s.supers[k] t.supers[k]) (fun j t ht => by
    obtain ⟨hb, hk⟩ := ht
    have w : Within [.draws, .superMem, .superTree, .superKeys, .superRegs] _ _ :=
      powerSuper_without (k := j) (s := t.modComb j (powerComb (cellTest t) (freshHum t))) rfl
    exact ⟨(w.boot_stage rfl).trans hb, hk.trans (powerSuper_keepsStored (s := t.modComb j (powerComb (cellTest t) (freshHum t))) hb j k)⟩)
    _ ⟨h, .refl _⟩).2

theorem powerAll_assigned (s : State) (k : Comb) : (powerAll s).combs[k].assigned = s.combs[k].assigned := by
  have hcomb : ∀ b h (c : CombState), (powerComb b h c).assigned = c.assigned := fun b h c => by
    unfold powerComb
    dsimp only
    split <;> split <;> rfl
  unfold powerAll
  refine forEach_keeps (α := Fin 8) (fun s => s.combs[k].assigned) (fins 8) _ s fun j t => ?_
  have hw : ∀ u, Within [.draws, .superMem, .superTree, .superKeys, .superRegs] u (powerSuper j u) := fun u =>
    powerSuper_without rfl
  rw [(hw _).comb_assigned k rfl]
  simp only [Fin.getElem_fin, modComb_get]
  split
  · exact hcomb ..
  · rfl

/-! ### What a module reset leaves, unit by unit -/

section Left

variable (cold : Bool) (s : State)

theorem resetBase_part (p : Part) : (resetBase cold s).parts[p] =
    if cold then { energy := s.parts[p].energy, peak := s.parts[p].peak } else warmPart s.parts[p] := by
  cases cold <;> exact Vector.getElem_map ..

theorem resetBase_comb (k : Comb) : (resetBase cold s).combs[k] = moduleComb cold s.combs[k] := Vector.getElem_map ..

theorem resetBase_super (k : Super) : KeepsStored s.supers[k] (resetBase cold s).supers[k] := by
  have h := resetSuperState_keepsStored s.supers[k]
  have hk : (resetBase cold s).supers[k] = _ := Vector.getElem_map ..
  rw [hk]
  generalize resetSuperState s.supers[k] = v at h ⊢
  exact h

theorem reseedAll_super (k : Super) : (reseedAll s).supers[k] = s.supers[k] := by
  have w := (reseedAll_within s).super k
  exact w

theorem resetBase_evt : (resetBase cold s).evt = { modlog := s.evt.modlog, modState := if cold then 0 else 1 } := rfl

theorem resetBase_epoch : (resetBase false s).queen.epoch = s.queen.epoch := rfl

/-- The stored bytes and tenants' slots are those of the state in which the supers are quiet. -/
theorem moduleReset_keepsStored (k : Super) : KeepsStored (resetFrom cold s).supers[k] (moduleReset cold s).supers[k] := by
  rw [moduleReset_eq, reseedAll_super]
  exact (resetBase_super cold _ k).trans (powerAll_keepsStored rfl k)

/-- The registers of boot, events and queens after a module reset. -/
theorem moduleReset_registers :
    (moduleReset cold s).boot.stage = 0 ∧ (moduleReset cold s).boot.kind = (if cold then .cold else .warm) ∧
    (moduleReset cold s).evt.modState = (if cold then 0 else 1) ∧ (moduleReset cold s).evt.modlog = s.evt.modlog := by
  have w := moduleReset_after cold s
  have hq : Within [.out, .host, .superMem, .superTree, .superKeys, .superRegs, .partRegs, .fuses, .queen, .mod] s
      (resetFrom cold s) := by
    refine Eq.trans (forEach_without _ _ _ _ fun _ _ => quietSuper_without rfl) ?_
    exact ite_without (fun _ => zeroiseAll_without rfl) fun _ => rfl
  have hlog : (resetFrom cold s).evt.modlog = s.evt.modlog := by rw [hq.evt_eq rfl]
  refine ⟨w.boot_stage rfl, w.boot_kind rfl, ?_, ?_⟩
  · rw [w.evt_eq rfl, resetBase_evt]
  · rw [w.evt_eq rfl, resetBase_evt]
    dsimp only
    rw [hlog]

/-- A partition after a module reset: nothing of a recovery, and what the reset keeps of its map and context. -/
theorem moduleReset_part (p : Part) : (moduleReset cold s).parts[p].recov = [] ∧ (moduleReset cold s).parts[p].sems = [] ∧
    (moduleReset cold s).parts[p].live = (if cold then false else (resetFrom cold s).parts[p].live) ∧
    (moduleReset cold s).parts[p].ctx = (if cold then {} else (resetFrom cold s).parts[p].ctx) ∧
    (moduleReset cold s).parts[p].rgn = (if cold then .replicate 16 {} else (resetFrom cold s).parts[p].rgn) := by
  have w := moduleReset_after cold s
  rw [w.part_recov p rfl, w.part_sems p rfl, w.part_live p rfl, w.part_ctx p rfl, w.part_rgn p rfl, resetBase_part]
  generalize resetFrom cold s = v
  cases cold <;> exact ⟨rfl, rfl, rfl, rfl, rfl⟩

/-- A comb's sequencer and store after a module reset. -/
theorem moduleReset_comb (k : Comb) : (moduleReset cold s).combs[k].seq = {} ∧ (moduleReset cold s).combs[k].store = [] := by
  have w := moduleReset_after cold s
  rw [w.comb_seq k rfl, w.comb_store k rfl, resetBase_comb]
  cases cold <;> exact ⟨rfl, rfl⟩

end Left

/-! ### Warm and cold -/

/-- A slot zeroised stays so while the supers become quiet and their domains change. -/
theorem quietSuper_zeroised {s : State} {k : Super} {i : KeyId} (h : Zeroised s k i) (j : Super) : Zeroised (quietSuper j s) k i := by
  refine flushSlots_zeroised (s := effRepaired j s) ?_ j
  have w : Within [.out, .host, .superMem, .superTree, .superRegs, .partRegs, .fuses, .queen, .mod] s (effRepaired j s) :=
    effRepaired_without rfl
  unfold Zeroised
  rw [w.super_slots k rfl]
  exact h

theorem coldReset_zeroised (s : State) (k : Super) {i : KeyId} (hi : 0 < i.val) : Zeroised (moduleReset true s) k i := by
  have hq : Zeroised (quietAll (zeroiseAll s)) k i :=
    forEach_invariant (I := fun t => Zeroised t k i) (fun j t h => quietSuper_zeroised h j) _ (zeroiseAll_zeroised s k hi)
  have hs := (moduleReset_keepsStored true s k).2 i hi
  rw [resetFrom_cold] at hs
  unfold Zeroised
  rw [hs]
  exact hq

/-- Leases and assignments after a module reset. -/
theorem moduleReset_router (cold : Bool) (s : State) (k : Comb) :
    (moduleReset cold s).combs[k].router.lease =
      (moduleComb cold (resetFrom cold s).combs[k]).router.lease ∧
    (moduleReset cold s).combs[k].assigned = (moduleComb cold (resetFrom cold s).combs[k]).assigned := by
  rw [moduleReset_eq, (reseedAll_within _).comb_router k rfl, (reseedAll_within _).comb_assigned k rfl, powerAll_lease,
    powerAll_assigned, resetBase_comb]
  exact ⟨rfl, rfl⟩

theorem warmComb_lease (c : CombState) : (moduleComb false c).router.lease = c.router.lease := rfl

/-- What a warm reset keeps where no row is under repair. -/
theorem warmReset_calm {s : State} (h : Calm s) :
    (moduleReset false s).queen.epoch = s.queen.epoch ∧
    (∀ p : Part, (moduleReset false s).parts[p].live = s.parts[p].live ∧ (moduleReset false s).parts[p].ctx = s.parts[p].ctx ∧
      (moduleReset false s).parts[p].rgn = s.parts[p].rgn) ∧
    (∀ k : Comb, (moduleReset false s).combs[k].router.lease = s.combs[k].router.lease) ∧
    ∀ k : Super, (moduleReset false s).supers[k].mem = s.supers[k].mem ∧ ∀ i : KeyId, 0 < i.val →
      s.supers[k].slots[i].state ≠ 2 → (moduleReset false s).supers[k].slots[i] = s.supers[k].slots[i] := by
  have hq : Within [.superKeys] s (quietAll s) := quietAll_calm h
  have hw := moduleReset_after false s
  have hkept := moduleReset_keepsStored false s
  have hrouter := moduleReset_router false s
  have hpart := moduleReset_part false s
  simp only [resetFrom_warm, Bool.false_eq_true, if_false, warmComb_lease] at hw hkept hrouter hpart
  refine ⟨?_, fun p => ?_, fun k => ?_, fun k => ⟨?_, fun i hi hs => ?_⟩⟩
  · rw [hw.queen_eq rfl, resetBase_epoch]
    exact congrArg Queen.epoch (hq.queen_eq rfl)
  · obtain ⟨-, -, hlive, hctx, hrgn⟩ := hpart p
    exact ⟨hlive.trans (hq.part_live p rfl), hctx.trans (hq.part_ctx p rfl), hrgn.trans (hq.part_rgn p rfl)⟩
  · exact (hrouter k).1.trans (congrArg Router.lease (hq.comb_router k rfl))
  · exact (hkept k).1.trans (hq.super_mem k rfl)
  · exact ((hkept k).2 i hi).trans (quietAll_slot h hs)

/-- Settles O20: both resets are `moduleReset`, seen unit by unit; the two commands and the pin reach it. -/
theorem moduleResets : Obligations.ModuleResets := by
  unfold Obligations.ModuleResets
  intro s calm warm cold
  have hwarm : warm (moduleReset false s) := by
    obtain ⟨hstage, hkind, hstate, hlog⟩ := moduleReset_registers false s
    have hpart := moduleReset_part false s
    refine ⟨hstage, hkind, hstate, fun p => ⟨(hpart p).1, (hpart p).2.1⟩, moduleReset_comb false s,
      fun h => ?_, moduleReset_without rfl⟩
    · obtain ⟨hepoch, hparts, hleases, hsupers⟩ := warmReset_calm h
      refine ⟨hepoch, hlog, ?_, ?_, ?_⟩
      · exact hparts
      · exact fun k => by rw [hleases k]
      · exact hsupers
  have hcold : cold (moduleReset true s) := by
    obtain ⟨hstage, hkind, hstate, hlog⟩ := moduleReset_registers true s
    have hpart := moduleReset_part true s
    refine ⟨hstage, hkind, hstate, fun _ => hlog, fun p => ?_,
      fun k i hi => coldReset_zeroised s k hi, fun k => ?_, moduleReset_without rfl⟩
    · obtain ⟨-, -, hlive, hctx, -⟩ := hpart p
      exact ⟨hlive, hctx⟩
    · obtain ⟨hlease, hassigned⟩ := moduleReset_router true s k
      refine ⟨hassigned, ?_⟩
      rw [hlease]
      rfl
  refine ⟨fun hs hb hm => ?_, fun hs hb => ?_, fun us hus hp => ?_, fun us h1 hus hp hm hb => ?_⟩
  · exact ⟨_, congrArg Host.Outcome.next ((doIf_served hs _).trans (resetCmd_warm hb hm 0 0)), hwarm⟩
  · exact ⟨_, congrArg Host.Outcome.next ((doIf_served hs _).trans (resetCmd_cold hb 0 0)), hcold⟩
  · refine ⟨_, congrArg Host.Outcome.next ((if_neg ?_).trans (if_pos hus)), hcold⟩
    rw [hp]
    simp only [Bool.not_true, Bool.false_eq_true, false_or]
    omega
  · refine ⟨_, congrArg Host.Outcome.next ((if_neg ?_).trans ((if_neg (by omega)).trans (if_neg ?_))), hwarm⟩
    · rw [hp]
      simp only [Bool.not_true, Bool.false_eq_true, false_or]
      omega
    · rw [hm]
      simp only [ne_eq, not_true_eq_false, false_or]
      omega

end Sys2Proof.ModuleResetProofs
end

section
/-! Watchdogs and resets of a comb, a super, a strand-port and a partition (R485 to R490, R498). -/

namespace Sys2Proof.UnitResetProofs

open Sys2Proof Sys2Proof.Machine Sys2Proof.MemoryProofs Sys2Proof.JobFaultProofs Sys2Proof.PortProofs Sys2Proof.SuperProofs
  Sys2Proof.RingProofs Sys2Proof.ManagementProofs Sys2Proof.ModuleResetProofs Sys2Proof.ScalarProofs

/-! ### A fault of a partition that recovers from nothing (R498) -/

theorem partitionFault_begins {p : Part} {f : FaultInfo} {s : State} (hr : s.parts[p].recov = []) (hf : f.received = false) :
    partitionFault p f s = beginRecovery p f s := by
  simp only [partitionFault, tearingDown, hr, hf, List.any_nil, List.find?_nil, Bool.false_eq_true, if_false]

/-- A stop as seen from a state that differs in routers only. -/
theorem stopped_of_within {p : Part} {st : Byte} {m : List Piece} {s u t : State} (w : Within m s u)
    (hc : m.contains .combMap = false) (hp : m.contains .partMap = false) (h : Stopped p st u t) : Stopped p st s t := by
  obtain ⟨hstop, hrec, hhalt⟩ := h
  exact ⟨hstop, hrec, fun k hk => hhalt k ((within_inPart w hc hp p k).trans hk)⟩

/-- The partition's only recovery, of the given units and unit code. -/
def OnlyRecovery (p : Part) (t : State) (combs : List Comb) (supers : List Super) (unit : Word) : Prop :=
  ∃ r, t.parts[p].recov = [r] ∧ r.combs = combs ∧ r.supers = supers ∧ r.unit1 = unit

/-- A fault of the partition class stops the partition, and begins a recovery of the units that it names. -/
theorem partitionFault_stops {p : Part} {f : FaultInfo} {s : State} (hr : s.parts[p].recov = []) (hf : f.received = false) :
    Stopped p f.status s (partitionFault p f s) ∧ OnlyRecovery p (partitionFault p f s) f.combs f.supers f.unit := by
  rw [partitionFault_begins hr hf]
  obtain ⟨t, ht⟩ := beginRecovery_recov (f := f) hr
  exact ⟨beginRecovery_stops hr, _, ht, rfl, rfl, rfl⟩

theorem raiseAlarm_within (p : Part) (k : Comb) (cause : Byte) (s : State) : Within [.router] s (raiseAlarm p k cause s) :=
  raiseAlarm_without rfl

/-- An INTERNAL fault of a unit of the partition. -/
theorem stopInternal_begins {p : Part} {k : Comb} {unit : Word} {sup : List Super} {s : State} (h : s.parts[p].recov = []) :
    Stopped p stInternal s (stopInternal p k unit sup s) ∧
    OnlyRecovery p (stopInternal p k unit sup s) (combsOf s p) sup unit := by
  have ha := raiseAlarm_within p k 0x07 s
  obtain ⟨hstop, hrec⟩ := partitionFault_stops (f := { status := stInternal, detail := unit, detail2 := 0, alarm := 0x07, unit := unit
                                                       comb := k, combs := combsOf (raiseAlarm p k 0x07 s) p, supers := sup
                                                       origin := coordWord (raiseAlarm p k 0x07 s) })
    ((ha.part_recov p rfl).trans h) rfl
  rw [within_combsOf ha rfl rfl] at hstop hrec
  unfold stopInternal stopPartition stopPartitionAs
  dsimp only
  rw [within_combsOf ha rfl rfl]
  exact ⟨stopped_of_within ha rfl rfl hstop, hrec⟩

/-! ### Watchdogs (R485 to R487) -/

theorem countWdog_within (s : State) : Within [.evt] s (countWdog s) := modEvt_without _ _ _ rfl

/-- What a watchdog of partition p leaves. -/
def Watched (p : Part) (supers : List Super) (unit : Word) (s t : State) : Prop :=
  Stopped p stInternal s t ∧ t.evt.wdog = hit 16 s.evt.wdog ∧ OnlyRecovery p t (combsOf s p) supers unit

/-- An INTERNAL fault that a watchdog counts. -/
theorem stopInternal_watched {p : Part} {k : Comb} {unit : Word} {sup : List Super} {s : State} (h : s.parts[p].recov = []) :
    Watched p sup unit s (stopInternal p k unit sup (countWdog s)) := by
  have hr : (countWdog s).parts[p].recov = [] := h
  obtain ⟨hstop, hrec⟩ := stopInternal_begins (k := k) (unit := unit) (sup := sup) hr
  have hevt := (stopPartition_within (k := k) (st := stInternal) (d := unit) (d2 := 0) (unit := unit) (sup := sup) hr).evt_eq rfl
  rw [within_combsOf (countWdog_within s) rfl rfl] at hrec
  exact ⟨stopped_of_within (countWdog_within s) rfl rfl hstop, congrArg EvtRegs.wdog hevt, hrec⟩

theorem superHung_watched {p : Part} {k : Super} {n : Nat} {s : State} (hp : partOf s k = some p) (h : s.parts[p].recov = []) :
    Watched p [k] (w32 n) s (superHung k n s) := by
  have hp' : partOf (countWdog s) k = some p := hp
  unfold superHung
  dsimp only
  rw [hp']
  exact stopInternal_watched h

/-- The program of a hung comb ends with INTERNAL. -/
def endHung (k : Comb) (unit : Word) (s : State) : State :=
  match s.combs[k].seq.running with
  | some d => finish d.part d.ring d.idx stInternal unit 0 k s
  | none => s

theorem endHung_within (k : Comb) (unit : Word) (s : State) : Within [.rings] s (endHung k unit s) := by
  unfold endHung
  split
  · exact finish_without rfl
  · rfl

/-- The fault of a hung comb. -/
def hungFault (p : Part) (k : Comb) (s : State) : FaultInfo :=
  { status := stInternal, detail := w32 (0x0F00 + k.val), alarm := 0x21, unit := w32 (0x0F00 + k.val), comb := k
    combs := combsOf s p, origin := coordWord s }

theorem effCombWdog_eq {p : Part} {k : Comb} {s : State} (hp : partOf s k = some p) (hh : combHung s k = true) :
    effCombWdog k s = partitionFault p (hungFault p k (raiseAlarm p k 0x21 (endHung k (w32 (0x0F00 + k.val)) (countWdog s))))
      (raiseAlarm p k 0x21 (endHung k (w32 (0x0F00 + k.val)) (countWdog s))) := by
  unfold effCombWdog
  rw [hp]
  dsimp only
  rw [hh, if_neg (by decide)]
  rfl

theorem effCombWdog_watched {p : Part} {k : Comb} {s : State} (hp : partOf s k = some p) (h : s.parts[p].recov = [])
    (hh : combHung s k = true) : Watched p [] (w32 (0x0F00 + k.val)) s (effCombWdog k s) := by
  have hw : Within [.router, .rings] (countWdog s) (raiseAlarm p k 0x21 (endHung k (w32 (0x0F00 + k.val)) (countWdog s))) :=
    ((endHung_within k _ _).mono rfl).trans ((raiseAlarm_within p k 0x21 _).mono rfl)
  rw [effCombWdog_eq hp hh]
  generalize raiseAlarm p k 0x21 (endHung k (w32 (0x0F00 + k.val)) (countWdog s)) = u at hw ⊢
  have hc : combsOf u p = combsOf s p := (within_combsOf hw rfl rfl p).trans (within_combsOf (countWdog_within s) rfl rfl p)
  have hr : u.parts[p].recov = [] := (hw.part_recov p rfl).trans h
  obtain ⟨hstop, hrec⟩ := partitionFault_stops (f := hungFault p k u) hr rfl
  have hevt : Within stopPieces u (partitionFault p (hungFault p k u) u) := by
    rw [partitionFault_begins hr rfl]
    exact beginRecovery_without rfl
  refine ⟨stopped_of_within (countWdog_within s) rfl rfl (stopped_of_within hw rfl rfl hstop), ?_, hc ▸ hrec⟩
  rw [hevt.evt_eq rfl, hw.evt_eq rfl]
  rfl

/-- A silent crown sideband is a fault of the module: it resets warm (R487). -/
theorem crownSidebandSilent_resets {s : State} (hm : s.evt.modState = 0) (hp : s.power.pwrgd = true)
    (hb : s.boot.kind = .cold → 5 ≤ s.boot.stage.toNat) : exec .crownSidebandSilent s =
      .next (moduleReset false (logFirst stInternal 0 s)) := by
  refine congrArg Host.Outcome.next ((if_neg ?_).trans ((if_neg fun h => Nat.not_lt.mpr (hb h.1) h.2).trans (if_neg ?_)))
  · rw [hm, hp]
    decide
  · rw [hm]
    decide

/-- Settles O21: each watchdog counts and then is one INTERNAL fault of the partition. -/
theorem watchdogsStopThePartition : Obligations.WatchdogsStopThePartition := by
  unfold Obligations.WatchdogsStopThePartition
  intro s p k hp hr
  refine ⟨fun hh => ⟨_, rfl, effCombWdog_watched hp hr hh⟩, fun h1 h2 h3 h4 => ?_, fun hs hc => ?_, fun f x l hq hx => ?_,
    fun hm hw hb => ?_⟩
  · refine ⟨_, congrArg Host.Outcome.next (if_pos ⟨h1, h2, ?_, ?_⟩), superHung_watched hp hr⟩
    · rw [h3]; rfl
    · rw [h4]; rfl
  · obtain ⟨c, hc⟩ := Option.isSome_iff_exists.mp hc
    obtain ⟨hstop, -, hrec⟩ := superHung_watched (n := 0x1100 + k.val) hp hr
    refine ⟨_, congrArg Host.Outcome.next ?_, hstop, hrec⟩
    rw [hc]
    exact if_pos (.inl hs)
  · obtain ⟨hstop, -, hrec⟩ := stopInternal_watched (k := k) (unit := w32 (0x1200 + 4 * k.val + f.val)) (sup := []) hr
    refine ⟨_, congrArg Host.Outcome.next ?_, hstop, hrec⟩
    rw [hp, hq]
    exact if_neg hx
  · obtain ⟨hstate, hstage, hlog⟩ := moduleReset_warm (logFirst stInternal 0 s)
    exact ⟨_, crownSidebandSilent_resets hm hw hb, hstate, hstage, hlog⟩

/-! ### Units that frames leave -/

/-- The pieces of a comb. -/
def combPieces : List Piece := [.combMap, .hum, .seq, .cellMem, .cellRun, .combRegs, .combMem, .router]

theorem cellState_without {m : List Piece} (h : ∀ x ∈ combPieces, m.contains x = false) (c : CellState) : c.without m = c := by
  simp only [CellState.without, h .cellMem (by decide), h .cellRun (by decide), Bool.false_eq_true, if_false]

theorem combState_without {m : List Piece} (h : ∀ x ∈ combPieces, m.contains x = false) (c : CombState) : c.without m = c := by
  have hcells : c.cells.map (CellState.without m) = c.cells := by
    rw [show CellState.without m = id from funext (cellState_without h)]
    exact Vector.map_id _
  simp only [CombState.without, hcells, h .combMap (by decide), h .hum (by decide), h .seq (by decide), h .combRegs (by decide),
    h .combMem (by decide), h .router (by decide), Bool.false_eq_true, if_false]

/-- What touches no piece of the combs leaves every comb. -/
theorem within_combs {m : List Piece} {s t : State} (w : Within m s t) (h : ∀ x ∈ combPieces, m.contains x = false) :
    t.combs = s.combs := by
  refine Vector.ext fun i hi => ?_
  have hk := w.comb ⟨i, hi⟩
  rw [combState_without h, combState_without h] at hk
  exact hk

/-- What a unit's end of reset may change: neither combs, nor partitions, nor supers. -/
theorem within_units {s t : State} (w : Within [.out, .host, .evt, .mod] s t) :
    t.combs = s.combs ∧ t.parts = s.parts ∧ t.supers = s.supers :=
  ⟨within_combs w (by decide), Vector.ext fun i hi => w.part ⟨i, hi⟩, Vector.ext fun i hi => w.super ⟨i, hi⟩⟩

theorem takeCmd_within (s : State) : Within [.evt] s (takeCmd s) := modEvt_without _ _ _ rfl

/-- The end of a unit's reset: RECOVERY_DONE to PF0, counted, and the command no longer busy (R490). -/
theorem unitResetDone_done (dom : BitVec 4) (k : Comb) (s : State) : (unitResetDone dom k s).combs = s.combs ∧
    (unitResetDone dom k s).parts = s.parts ∧ (unitResetDone dom k s).supers = s.supers ∧
    (unitResetDone dom k s).evt.resetBusy = false ∧ (unitResetDone dom k s).evt.recovery = hit 16 s.evt.recovery := by
  obtain ⟨hc, hp, hs⟩ := within_units (unitResetDone_without (dom := dom) (k := k) (s := s) rfl)
  have he : (unitResetDone dom k s).evt = { s.evt with recovery := hit 16 s.evt.recovery, resetBusy := false, resetPort := none, resetSup := none } :=
    Within.evt_eq (m := [.out, .host, .mod]) (eventToPf0_without rfl) rfl
  rw [he]
  exact ⟨hc, hp, hs, rfl, rfl⟩

/-! ### A comb of no partition -/

theorem partOf_modComb {s : State} {k : Comb} {f : CombState → CombState} (ha : ∀ c, (f c).assigned = c.assigned)
    (hb : ∀ c, (f c).pbase = c.pbase) : partOf (s.modComb k f) k = partOf s k := by
  simp only [partOf, Fin.getElem_fin, modComb_same, modComb_parts, ha, hb]

/-- A comb reseeded: its generators and its entropy registers. -/
def reseeded (g : Gens) (r : Rng) (c : CombState) : CombState := { c with gens := g, rng := r }

/-- A reseed changes a comb's generators and entropy registers; without a partition its warning reaches PF0 only. -/
theorem reseed_unassigned {k : Comb} {s : State} (hp : partOf s k = none) :
    (∃ g r, (reseed k none s).combs[k] = reseeded g r s.combs[k]) ∧
    (∀ j : Comb, j ≠ k → (reseed k none s).combs[j] = s.combs[j]) ∧ (reseed k none s).parts = s.parts ∧
    (reseed k none s).supers = s.supers := by
  unfold reseed
  split
  · refine ⟨⟨{ seed := some s.combs[k].rng.seed }, (takeSeed k s).combs[k].rng, ?_⟩, fun j hj => ?_, rfl, rfl⟩
    · have ht : (takeSeed k s).combs[k] = reseeded s.combs[k].gens (takeSeed k s).combs[k].rng s.combs[k] := by
        unfold takeSeed reseeded
        simp
      rw [modComb_at, ht]
      rfl
    · exact (modComb_other _ k j _ hj.symm).trans (modComb_other s k j _ hj.symm)
  · have hp' : partOf (s.modComb k fun c => { c with rng := { c.rng with skip := hit 16 c.rng.skip } }) k = none := by
      rw [← hp]
      exact partOf_modComb (fun _ => rfl) fun _ => rfl
    unfold skipReseed
    dsimp only
    rw [hp']
    obtain ⟨hc, hq, hs⟩ := within_units (eventToPf0_without (type := evWarning) (cause := 0x80) (comb := k)
      (detail := Config.openDetail evWarning 0x80) (s := s.modComb k fun c => { c with rng := { c.rng with skip := hit 16 c.rng.skip } }) rfl)
    dsimp only
    simp only [hc, hq, hs]
    exact ⟨⟨s.combs[k].gens, { s.combs[k].rng with skip := hit 16 s.combs[k].rng.skip }, modComb_at s k _⟩,
      fun j hj => modComb_other s k j _ hj.symm, rfl, rfl⟩

/-- A comb of no partition resets alone (R488, R490). -/
theorem resetCombDomain_unassigned {k : Comb} {s : State} (hp : partOf s k = none) :
    (∃ g r, (resetCombDomain k s).combs[k] = reseeded g r (resetCombState s.combs[k])) ∧
    (∀ j : Comb, j ≠ k → (resetCombDomain k s).combs[j] = s.combs[j]) ∧ (resetCombDomain k s).parts = s.parts ∧
    (resetCombDomain k s).supers = s.supers := by
  have hp' : partOf (s.modComb k resetCombState) k = none := by
    rw [← hp]
    exact partOf_modComb (fun _ => rfl) fun _ => rfl
  obtain ⟨⟨g, r, hk⟩, hj, hq, hs⟩ := reseed_unassigned hp'
  unfold resetCombDomain
  refine ⟨⟨g, r, ?_⟩, fun j hn => (hj j hn).trans (modComb_other s k j _ hn.symm), hq, hs⟩
  rw [hk, modComb_at]

/-! ### EVT_RESET_CMD's domains of single units (R488) -/

section Command

variable {s : State} (hb : s.evt.resetBusy = false) (hm : ¬ s.evt.modState = 2)
include hb hm

/-- Past the tests that every domain shares, the domain decides. -/
theorem resetCmd_unit {dom : Nat} (h0 : dom ≠ 0) (h6 : dom < 6) (u : Fin 8) (port : Nat) : resetCmd dom u port s =
    if dom = 2 then (if cmdBlocked s (partOf s u) then refuseCmd 3 s else cmdComb u s)
    else if dom = 3 then (if cmdBlocked s (partOf s u) then refuseCmd 3 s else cmdSuper u s)
    else if dom = 4 then (if h : port < 6 then cmdPort u ⟨port, h⟩ s else refuseCmd 5 s)
    else if dom = 5 then
      (if !s.parts[u].live then refuseCmd 2 s else if cmdBlocked s (some u) then refuseCmd 3 s
       else askPartition u .command (takeCmd s))
    else refuseCmd 1 s := by
  unfold resetCmd
  rw [if_neg h0, if_neg (by rw [hb]; decide), if_neg fun h => hm h.1]
  simp only [if_neg (by omega : ¬ dom = 6), if_neg (by omega : ¬ dom = 7)]

theorem resetCmd_comb (u : Fin 8) : resetCmd 2 u 0 s = if cmdBlocked s (partOf s u) then refuseCmd 3 s else cmdComb u s :=
  (resetCmd_unit hb hm (by omega) (by omega) u 0).trans (if_pos rfl)

theorem resetCmd_super (u : Fin 8) : resetCmd 3 u 0 s = if cmdBlocked s (partOf s u) then refuseCmd 3 s else cmdSuper u s :=
  (resetCmd_unit hb hm (by omega) (by omega) u 0).trans ((if_neg (by omega)).trans (if_pos rfl))

theorem resetCmd_port (u : Fin 8) (port : Nat) :
    resetCmd 4 u port s = if h : port < 6 then cmdPort u ⟨port, h⟩ s else refuseCmd 5 s :=
  (resetCmd_unit hb hm (by omega) (by omega) u port).trans ((if_neg (by omega)).trans ((if_neg (by omega)).trans (if_pos rfl)))

theorem resetCmd_partition (u : Fin 8) : resetCmd 5 u 0 s =
    if !s.parts[u].live then refuseCmd 2 s else if cmdBlocked s (some u) then refuseCmd 3 s
    else askPartition u .command (takeCmd s) :=
  (resetCmd_unit hb hm (by omega) (by omega) u 0).trans
    ((if_neg (by omega)).trans ((if_neg (by omega)).trans ((if_neg (by omega)).trans (if_pos rfl))))

end Command

/-- No partition tears down where it recovers from nothing. -/
theorem cmdBlocked_idle {s : State} {p : Part} (h : s.parts[p].recov = []) : cmdBlocked s (some p) = false := by
  show s.parts[p].recov.any _ = false
  rw [h]
  rfl

/-! ### A super of no partition -/

/-- The requests that stay at a super whose own are dropped. -/
def keptWaiting (s : State) (k : Super) (u : SuperState) : SuperState :=
  { u with waiting := u.waiting.map fun q => q.filter fun r => !ofOwner s k r }

/-- Dropped requests answer; beyond that the super only loses them. -/
theorem abortWaiting_units (k : Super) (s : State) : (abortWaiting k s).supers = (s.modSuper k (keptWaiting s k)).supers ∧
    (abortWaiting k s).combs = s.combs ∧ (abortWaiting k s).parts = s.parts ∧ (abortWaiting k s).evt = s.evt :=
  ⟨rfl, rfl, rfl, rfl⟩

theorem writeBack_kept (n : Nat) (u : SuperState) : (writeBack n u).1.ce = u.ce ∧ (writeBack n u).1.powered = u.powered := by
  unfold writeBack
  dsimp only
  split
  · exact ⟨rfl, rfl⟩
  split <;> exact ⟨rfl, rfl⟩

/-- A flush of the counter tree corrects no error and keeps the power. -/
theorem flushTree_kept (u : SuperState) : (flushTree u).ce = u.ce ∧ (flushTree u).powered = u.powered := by
  have hlevel : ∀ (lvl : Nat) (v : SuperState), v.ce = u.ce ∧ v.powered = u.powered →
      (flushLevel lvl v).ce = u.ce ∧ (flushLevel lvl v).powered = u.powered := fun lvl v hv => by
    unfold flushLevel
    refine List.foldlRecOn (motive := fun w : SuperState => w.ce = u.ce ∧ w.powered = u.powered) _ _ hv fun w hw e _ => ?_
    obtain ⟨hc, hp⟩ := writeBack_kept e.1 w
    dsimp only
    split
    · exact ⟨hc.trans hw.1, hp.trans hw.2⟩
    · exact ⟨hc.trans hw.1, hp.trans hw.2⟩
  unfold flushTree
  exact List.foldlRecOn (motive := fun w : SuperState => w.ce = u.ce ∧ w.powered = u.powered) _ _ ⟨rfl, rfl⟩
    fun v hv i _ => hlevel (i + 1) v hv

/-- A super whose controller resets: its stored bytes and its error count stay. -/
theorem resetSuperState_kept (u : SuperState) : (resetSuperState u).resetting = u.powered ∧ (resetSuperState u).state = 2 ∧
    (resetSuperState u).mem = u.mem ∧ (resetSuperState u).ce = u.ce := by
  obtain ⟨hc, hp⟩ := flushTree_kept u
  have hm : (flushTree u).mem = u.mem := (flushTree_keepsStored u).1
  unfold resetSuperState
  generalize flushTree u = v at hc hp hm
  exact ⟨hp, rfl, hm, hc⟩

/-- The reset of a powered super that repairs no row. -/
theorem resetSuperDomain_reset {k : Super} {s : State} (hp : s.supers[k].powered = true) (hr : s.supers[k].repairing = none) :
    (resetSuperDomain k s).supers[k].resetting = true ∧ (resetSuperDomain k s).supers[k].state = 2 ∧
    (resetSuperDomain k s).supers[k].mem = s.supers[k].mem ∧ (resetSuperDomain k s).supers[k].ce = s.supers[k].ce ∧
    (resetSuperDomain k s).parts = s.parts ∧ (resetSuperDomain k s).combs = s.combs ∧ (resetSuperDomain k s).evt = s.evt := by
  have hq : quietSuper k s = flushSlots k s := by rw [quietSuper, effRepaired_calm hr]
  have w := flushSlots_within k s
  unfold resetSuperDomain
  rw [if_pos hp, hq]
  generalize flushSlots k s = v at w
  have hv : v.supers[k].powered = true ∧ v.supers[k].mem = s.supers[k].mem ∧ v.supers[k].ce = s.supers[k].ce :=
    ⟨(w.super_powered k rfl).trans hp, w.super_mem k rfl, w.super_ce k rfl⟩
  obtain ⟨hsup, hcombs, hparts, hevt⟩ := abortWaiting_units k v
  have hk : (abortWaiting k v).supers[k] = keptWaiting v k v.supers[k] := by
    rw [← modSuper_at v k (keptWaiting v k)]
    exact congrArg (fun x : Vector SuperState 8 => x[k]) hsup
  obtain ⟨h1, h2, h3, h4⟩ := resetSuperState_kept (keptWaiting v k v.supers[k])
  rw [modSuper_at, hk]
  exact ⟨h1.trans hv.1, h2, h3.trans hv.2.1, h4.trans hv.2.2, hparts.trans (Vector.ext fun i hi => w.part ⟨i, hi⟩),
    hcombs.trans (within_combs w (by decide)), hevt.trans (w.evt_eq rfl)⟩

/-! ### A strand-port (R488, R490) -/

/-- A strand-port that a command takes from DOWN or training to where its fall leaves it. -/
def portTaken (k : Comb) (p : LPort) (s : State) : State :=
  ((takeCmd s).modEvt fun e => { e with resetPort := some (k, p) }).modSPort k p
    (dropped (downState s p s.combs[k].router.ports[p].stuck) s.combs[k].router.ports[p].stuck)

theorem portTaken_within (k : Comb) (p : LPort) (s : State) : Within [.router, .evt] s (portTaken k p s) :=
  Eq.trans (modSPort_without _ _ _ _ _ rfl) (Eq.trans (modEvt_without _ _ _ rfl) (modEvt_without _ _ _ rfl))

theorem portTaken_state (k : Comb) (p : LPort) (s : State) :
    (portTaken k p s).combs[k].router.ports[p].state = downState s p s.combs[k].router.ports[p].stuck := by
  unfold portTaken
  rw [modSPort_port, if_pos ⟨rfl, rfl⟩]
  rfl

/-- A reset of a port that is not UP: it trains at once, or its reset is done (R488). -/
theorem cmdPort_down {s : State} {k : Comb} {p : LPort} (hu : portUp s k p = false) : cmdPort k p s =
    if downState s p s.combs[k].router.ports[p].stuck = 1 then portTaken k p s else portResetDone k p (portTaken k p s) := by
  have hu' : portUp ((takeCmd s).modEvt fun e => { e with resetPort := some (k, p) }) k p = false := hu
  have hfall : strandDown k p 0 s.combs[k].router.ports[p].stuck ((takeCmd s).modEvt fun e => { e with resetPort := some (k, p) }) =
      portTaken k p s := by
    unfold strandDown
    rw [hu']
    rfl
  unfold cmdPort
  rw [hfall]
  dsimp only
  rw [portTaken_state]

/-! ### Units of a partition: a recovery of the unit begins (R489) -/

/-- A checkpoint whose comb stops is abandoned. -/
def orphanServed (p : Part) (k : Comb) (s : State) : State :=
  match s.parts[p].ckpt with
  | some c => if c.ring.any (fun (d : RunDesc) => decide (serving s p d.ring = k)) then orphanCkpt p stResetAborted s else s
  | none => s

/-- A restore whose comb stops is dropped. -/
def dropServed (p : Part) (k : Comb) (s : State) : State :=
  match s.parts[p].restore with
  | some x => if serving s p x.ring.ring = k then dropRestore p s else s
  | none => s

theorem endServed_eq (p : Part) (k : Comb) (s : State) : endServed p k s = dropServed p k (orphanServed p k s) := by
  unfold endServed dropServed orphanServed
  rfl

theorem orphanServed_recov (p : Part) (k : Comb) (s : State) : (orphanServed p k s).parts[p].recov = s.parts[p].recov := by
  unfold orphanServed
  split
  · split
    · exact orphanCkpt_recov p p _ s
    · rfl
  · rfl

theorem dropServed_recov (p : Part) (k : Comb) (s : State) : (dropServed p k s).parts[p].recov = s.parts[p].recov := by
  unfold dropServed
  split
  · split
    · exact dropRestore_recov p p s
    · rfl
  · rfl

theorem endServed_recov (p : Part) (k : Comb) (s : State) : (endServed p k s).parts[p].recov = s.parts[p].recov := by
  rw [endServed_eq, dropServed_recov, orphanServed_recov]

/-- What the stop of a comb does after it halts leaves its sequencer. -/
theorem stopComb_stops (p : Part) (k : Comb) (s : State) :
    (stopComb p k s).combs[k].seq.state = 3 ∧ (stopComb p k s).parts[p].recov = s.parts[p].recov := by
  have hh := (haltComb_seq k s).1
  have w : Within [.draws, .seq, .cellMem, .cellRun, .combMem, .ctx] s (haltComb k s) := haltComb_without rfl
  unfold stopComb
  dsimp only
  generalize haltComb k s = u at hh w
  have w' : Within [.rings, .hild] u (abandonRuns k (stopRings p (ringsServed (forEach (combsOf u p) (fun u s => discardHild u
      (fun r => decide (r.comb = k) && r.desc.isNone) s) u) p k) stResetAborted 2 0 domComb (forEach (combsOf u p) (fun u s =>
        discardHild u (fun r => decide (r.comb = k) && r.desc.isNone) s) u))) :=
    Eq.trans (abandonRuns_without rfl) (Eq.trans (stopRings_without rfl) (forEach_without _ _ _ _ fun _ _ => discardHild_without rfl))
  generalize abandonRuns k _ = v at w' ⊢
  have we : Within [.out, .host, .draws, .superMem, .superTree, .evq, .partRegs, .mod] v (endServed p k v) := endServed_without rfl
  rw [we.comb_seq k rfl, w'.comb_seq k rfl, endServed_recov, w'.part_recov p rfl, w.part_recov p rfl]
  exact ⟨hh, rfl⟩

/-- The recovery of one comb that a command begins. -/
def combRecovery (k : Comb) (s : State) : Recovery := (newRecovery domComb 1 (noFault s k [k] []) s).mark .command false

theorem askComb_begins {p : Part} {k : Comb} {s : State} (h : s.parts[p].recov = []) :
    askComb p k .command s = (stopComb p k s).modPart p fun x => { x with recov := x.recov ++ [combRecovery k s] } := by
  unfold askComb
  rw [h]
  rfl

/-- The recovery of one super that a command begins. -/
def superRecovery (k : Super) (s : State) : Recovery := (newRecovery domSuper 2 (noFault s k [] [k]) s).mark .command false

theorem askSuper_begins {p : Part} {k : Super} {s : State} (h : s.parts[p].recov = []) :
    askSuper p k .command s = (stopSuper k s).modPart p fun x => { x with recov := x.recov ++ [superRecovery k s] } := by
  unfold askSuper
  rw [h]
  rfl

/-- A reset of a whole partition that recovers from nothing. -/
theorem askPartition_begins {p : Part} {s : State} (q : Request) (h : s.parts[p].recov = []) :
    (askPartition p q s).parts[p].stopped = true ∧ (∀ k, inPart s p k = true → (askPartition p q s).combs[k].seq.state = 3) ∧
    ∃ t, (askPartition p q s).parts[p].recov =
      [{ (newRecovery domPartition 0 (noFault t p (combsOf s p) (combsOf s p)) t).mark q false with alarm1 := 0x08 }] := by
  have hw : Within [.router, .rings] s (raiseAlarm p p 0x08 (holdSmoke q s)) :=
    Eq.trans (raiseAlarm_without rfl) (holdSmoke_without rfl)
  unfold askPartition
  rw [h]
  dsimp only [List.findIdx?_nil]
  generalize raiseAlarm p p 0x08 (holdSmoke q s) = u at hw ⊢
  obtain ⟨hstop, hrec, hhalt⟩ := stopWhole_halts p stResetAborted 5 0 domPartition u
  rw [within_combsOf hw rfl rfl]
  generalize stopWhole p stResetAborted 5 0 domPartition u = v at hstop hrec hhalt ⊢
  rw [takeOver_none (hrec.trans ((hw.part_recov p rfl).trans h))]
  refine ⟨?_, fun k hk => hhalt k ((within_inPart hw rfl rfl p k).trans hk), u, ?_⟩
  · rw [modPart_at]
    exact hstop
  · rw [modPart_at]

/-! ### The commands themselves -/

section Commands

variable {s : State} (hs : regsServed s = true) (hb : s.evt.resetBusy = false) (hm : ¬ s.evt.modState = 2)
include hs hb hm

theorem exec_resetComb (k : Comb) (h : cmdBlocked s (partOf s k) = false) : exec (.resetComb k) s = .next (cmdComb k s) :=
  congrArg Host.Outcome.next ((doIf_served hs _).trans ((resetCmd_comb hb hm k).trans (if_neg (by rw [h]; decide))))

theorem exec_resetSuper (k : Super) (h : cmdBlocked s (partOf s k) = false) : exec (.resetSuper k) s = .next (cmdSuper k s) :=
  congrArg Host.Outcome.next ((doIf_served hs _).trans ((resetCmd_super hb hm k).trans (if_neg (by rw [h]; decide))))

theorem exec_resetStrandPort (k : Comb) (port : Fin 8) (h : port.val < 6) :
    exec (.resetStrandPort k port) s = .next (cmdPort k ⟨port.val, h⟩ s) :=
  congrArg Host.Outcome.next ((doIf_served hs _).trans ((resetCmd_port hb hm k port.val).trans (dif_pos h)))

theorem exec_resetPartition (p : Part) (hl : s.parts[p].live = true) (hr : s.parts[p].recov = []) :
    exec (.resetPartition p) s = .next (askPartition p .command (takeCmd s)) :=
  congrArg Host.Outcome.next ((doIf_served hs _).trans ((resetCmd_partition hb hm p).trans
    ((if_neg (by rw [hl]; decide)).trans (if_neg (by rw [cmdBlocked_idle hr]; decide)))))

theorem resetComb_unassigned {k : Comb} (hp : partOf s k = none) : Does (.resetComb k) s fun t =>
    t.combs[k].seq = { waiting := s.combs[k].seq.waiting, progNo := s.combs[k].seq.progNo } ∧ t.combs[k].store = [] ∧
    (∀ n : PCell, t.combs[k].cells[n] = {}) ∧ t.combs[k].router = s.combs[k].router ∧ t.combs[k].hum = s.combs[k].hum ∧
    (∀ j : Comb, j ≠ k → t.combs[j] = s.combs[j]) ∧ t.evt.resetBusy = false ∧ t.evt.recovery = hit 16 s.evt.recovery ∧
    t.parts = s.parts ∧ t.supers = s.supers := by
  have hp' : partOf (takeCmd s) k = none := hp
  have he := exec_resetComb hs hb hm k (by rw [hp]; rfl)
  have hc : cmdComb k s = unitResetDone domComb k (resetCombDomain k (takeCmd s)) := by
    unfold cmdComb
    rw [hp]
  have hw : Within [.out, .host, .draws, .seq, .cellMem, .cellRun, .combRegs, .combMem, .evq, .mod] (takeCmd s)
    (resetCombDomain k (takeCmd s)) := resetCombDomain_without rfl
  obtain ⟨⟨g, r, hk⟩, hj, hparts, hsupers⟩ := resetCombDomain_unassigned hp'
  obtain ⟨hcombs, hq, hu, hbusy, hcount⟩ := unitResetDone_done domComb k (resetCombDomain k (takeCmd s))
  refine ⟨_, he.trans (congrArg _ hc), ?_⟩
  generalize unitResetDone domComb k (resetCombDomain k (takeCmd s)) = t at hcombs hq hu hbusy hcount
  rw [hw.evt_eq rfl] at hcount
  simp only [hcombs, hk]
  exact ⟨rfl, rfl, fun n => Vector.getElem_replicate .., rfl, rfl, fun j hn => hj j hn, hbusy, hcount, hq.trans hparts, hu.trans hsupers⟩

theorem resetComb_assigned {k : Comb} {p : Part} (hp : partOf s k = some p) (hr : s.parts[p].recov = []) :
    Does (.resetComb k) s fun t => t.combs[k].seq.state = 3 ∧ t.evt.resetBusy = true ∧ t.evt.resetErr = 0 ∧
      ∃ r, t.parts[p].recov = [r] ∧ r.domain = 2 ∧ r.combs = [k] ∧ r.supers = [] ∧ r.byCmd = true := by
  have he := exec_resetComb hs hb hm k (by rw [hp]; exact cmdBlocked_idle hr)
  have hr' : (takeCmd s).parts[p].recov = [] := hr
  have hc : cmdComb k s = askComb p k .command (takeCmd s) := by
    unfold cmdComb
    rw [hp]
  have hw : Within progPieces (takeCmd s) (askComb p k .command (takeCmd s)) := askComb_without rfl
  obtain ⟨hseq, hrec⟩ := stopComb_stops p k (takeCmd s)
  have hevt := hw.evt_eq rfl
  rw [askComb_begins hr'] at hevt hc
  refine ⟨_, he.trans (congrArg _ hc), ?_, congrArg EvtRegs.resetBusy hevt, congrArg EvtRegs.resetErr hevt, combRecovery k (takeCmd s),
    ?_, rfl, rfl, rfl, rfl⟩
  · rw [modPart_combs, hseq]
  · rw [modPart_at, hrec, hr']
    rfl

theorem resetSuper_unassigned {k : Super} (hp : partOf s k = none) (hw : s.supers[k].powered = true)
    (hrep : s.supers[k].repairing = none) : Does (.resetSuper k) s fun t =>
    t.supers[k].resetting = true ∧ t.supers[k].state = 2 ∧ t.supers[k].mem = s.supers[k].mem ∧ t.supers[k].ce = s.supers[k].ce ∧
    t.evt.resetBusy = true ∧ t.evt.resetSup = some k ∧ t.parts = s.parts ∧ t.combs = s.combs := by
  have he := exec_resetSuper hs hb hm k (by rw [hp]; rfl)
  obtain ⟨hres, hstate, hmem, hce, hparts, hcombs, hevt⟩ := resetSuperDomain_reset (s := takeCmd s) hw hrep
  have hc : cmdSuper k s = (resetSuperDomain k (takeCmd s)).modEvt fun e => { e with resetSup := some k } := by
    unfold cmdSuper
    rw [hp]
    exact if_pos hres
  refine ⟨_, he.trans (congrArg _ hc), hres, hstate, hmem, hce, congrArg EvtRegs.resetBusy hevt, rfl, hparts, hcombs⟩

theorem resetSuper_assigned {k : Super} {p : Part} (hp : partOf s k = some p) (hr : s.parts[p].recov = []) :
    Does (.resetSuper k) s fun t => t.evt.resetBusy = true ∧
      ∃ r, t.parts[p].recov = [r] ∧ r.domain = 3 ∧ r.combs = [] ∧ r.supers = [k] := by
  have he := exec_resetSuper hs hb hm k (by rw [hp]; exact cmdBlocked_idle hr)
  have hr' : (takeCmd s).parts[p].recov = [] := hr
  have hc : cmdSuper k s = askSuper p k .command (takeCmd s) := by
    unfold cmdSuper
    rw [hp]
  have hw : Within [.out, .host, .hild, .rings, .evq, .mod] (takeCmd s) (stopSuper k (takeCmd s)) := stopSuper_without rfl
  rw [askSuper_begins hr'] at hc
  refine ⟨_, he.trans (congrArg _ hc), congrArg EvtRegs.resetBusy (hw.evt_eq rfl), superRecovery k (takeCmd s), ?_, rfl, rfl, rfl⟩
  rw [modPart_at, hw.part_recov p rfl, hr']
  rfl

theorem resetStrandPort_trains {k : Comb} {port : Fin 8} (h : port.val < 6) (hu : portUp s k ⟨port.val, h⟩ = false)
    (hd : downState s ⟨port.val, h⟩ s.combs[k].router.ports[(⟨port.val, h⟩ : LPort)].stuck = 1) :
    Does (.resetStrandPort k port) s fun t =>
      t.combs[k].router.ports[(⟨port.val, h⟩ : LPort)].state = 1 ∧ t.evt.resetBusy = true ∧
      t.evt.resetPort = some (k, ⟨port.val, h⟩) ∧ Within [.router, .evt] s t := by
  have hc := (cmdPort_down hu).trans (if_pos hd)
  exact ⟨_, (exec_resetStrandPort hs hb hm k port h).trans (congrArg _ hc), (portTaken_state k _ s).trans hd, rfl, rfl,
    portTaken_within k _ s⟩

theorem resetStrandPort_down {k : Comb} {port : Fin 8} (h : port.val < 6) (hu : portUp s k ⟨port.val, h⟩ = false)
    (hd : downState s ⟨port.val, h⟩ s.combs[k].router.ports[(⟨port.val, h⟩ : LPort)].stuck = 0) :
    Does (.resetStrandPort k port) s fun t =>
      t.combs[k].router.ports[(⟨port.val, h⟩ : LPort)].state = 0 ∧ t.evt.resetBusy = false ∧
      t.evt.recovery = hit 16 s.evt.recovery := by
  have hdone : portResetDone k ⟨port.val, h⟩ (portTaken k ⟨port.val, h⟩ s) = unitResetDone domStrandPort k (portTaken k ⟨port.val, h⟩ s) :=
    if_pos rfl
  have hc := (cmdPort_down hu).trans ((if_neg (by rw [hd]; decide)).trans hdone)
  obtain ⟨hcombs, -, -, hbusy, hcount⟩ := unitResetDone_done domStrandPort k (portTaken k ⟨port.val, h⟩ s)
  have hstate := (portTaken_state k ⟨port.val, h⟩ s).trans hd
  rw [← hcombs] at hstate
  exact ⟨_, (exec_resetStrandPort hs hb hm k port h).trans (congrArg _ hc), hstate, hbusy, hcount⟩

theorem resetPartition_begins {p : Part} (hl : s.parts[p].live = true) (hr : s.parts[p].recov = []) :
    Does (.resetPartition p) s fun t => t.parts[p].stopped = true ∧ (∀ k, inPart s p k = true → t.combs[k].seq.state = 3) ∧
      ∃ r, t.parts[p].recov = [r] ∧ r.domain = 5 ∧ r.combs = combsOf s p ∧ r.supers = combsOf s p := by
  have hr' : (takeCmd s).parts[p].recov = [] := hr
  obtain ⟨hstop, hhalt, u, hrec⟩ := askPartition_begins .command hr'
  exact ⟨_, exec_resetPartition hs hb hm p hl hr, hstop, hhalt, _, hrec, rfl, rfl, rfl⟩

end Commands

/-- Settles O19: each domain of EVT_RESET_CMD by the operation that it is. -/
theorem resetCommandsOfUnits : Obligations.ResetCommandsOfUnits := by
  unfold Obligations.ResetCommandsOfUnits
  intro s hs hb hm
  refine ⟨fun k hp => resetComb_unassigned hs hb hm hp, fun k p hp hr => resetComb_assigned hs hb hm hp hr,
    fun k hp hw hrep => resetSuper_unassigned hs hb hm hp hw hrep, fun k p hp hr => resetSuper_assigned hs hb hm hp hr,
    fun k port h6 => ?_, fun k port h6 hu hf he ho hk => ?_, fun k port h6 hu hk => ?_,
    fun p hl hr => resetPartition_begins hs hb hm hl hr, fun p hl => ?_⟩
  · exact congrArg Host.Outcome.next ((doIf_served hs _).trans ((resetCmd_port hb hm k port.val).trans (dif_neg (by omega))))
  · refine resetStrandPort_trains hs hb hm h6 hu ?_
    unfold downState
    rw [hk, hf, he, ho]
    rfl
  · refine resetStrandPort_down hs hb hm h6 hu ?_
    unfold downState
    rw [hk]
    rfl
  · exact congrArg Host.Outcome.next ((doIf_served hs _).trans ((resetCmd_partition hb hm p).trans (if_pos (by rw [hl]; rfl))))


end Sys2Proof.UnitResetProofs
end

section
/-! Recoveries, smokes, super resets and early-warning windows (R491 to R493, R499, R501, R509). -/

namespace Sys2Proof.RecoveryProofs

open Sys2Proof Sys2Proof.Machine Sys2Proof.MemoryProofs Sys2Proof.JobFaultProofs Sys2Proof.PortProofs Sys2Proof.SuperProofs
  Sys2Proof.RingProofs Sys2Proof.ManagementProofs Sys2Proof.ModuleResetProofs Sys2Proof.UnitResetProofs Sys2Proof.ScalarProofs

/-! ### What the resets of a recovery keep of the recovery itself -/

/-- The recoveries, the record count and the checkpoint of a partition, and the event registers. -/
def KeepsRun (p : Part) (s t : State) : Prop :=
  t.parts[p].recov = s.parts[p].recov ∧ t.parts[p].hiveSeq = s.parts[p].hiveSeq ∧ t.parts[p].ckpt = s.parts[p].ckpt ∧ t.evt = s.evt

theorem KeepsRun.trans {p : Part} {s t u : State} (h : KeepsRun p s t) (g : KeepsRun p t u) : KeepsRun p s u :=
  ⟨g.1.trans h.1, g.2.1.trans h.2.1, g.2.2.1.trans h.2.2.1, g.2.2.2.trans h.2.2.2⟩

theorem KeepsRun.refl (p : Part) (s : State) : KeepsRun p s s := ⟨rfl, rfl, rfl, rfl⟩

theorem KeepsRun.of_within {p : Part} {m : List Piece} {s t : State} (w : Within m s t) (hp : m.contains .partRegs = false)
    (he : m.contains .evt = false) : KeepsRun p s t := by
  refine ⟨w.part_recov p hp, ?_, w.part_ckpt p hp, w.evt_eq he⟩
  have := congrArg PartState.hiveSeq (w.part p)
  simpa only [PartState.without, hp, Bool.false_eq_true, if_false] using this

/-- The power of every super, and that it repairs no row where none did. -/
def KeepsSupers (s t : State) : Prop := ∀ k : Super, t.supers[k].powered = s.supers[k].powered ∧
  (s.supers[k].repairing = none → t.supers[k].repairing = none)

theorem KeepsSupers.trans {s t u : State} (h : KeepsSupers s t) (g : KeepsSupers t u) : KeepsSupers s u :=
  fun k => ⟨(g k).1.trans (h k).1, fun hr => (g k).2 ((h k).2 hr)⟩

theorem KeepsSupers.refl (s : State) : KeepsSupers s s := fun _ => ⟨rfl, id⟩

theorem KeepsSupers.of_within {m : List Piece} {s t : State} (w : Within m s t) (h : m.contains .superRegs = false) :
    KeepsSupers s t := fun k => by
  refine ⟨w.super_powered k h, fun hr => ?_⟩
  have := congrArg SuperState.repairing (w.super k)
  simp only [SuperState.without, h, Bool.false_eq_true, if_false] at this
  exact this.trans hr

/-! ### Super controllers -/

theorem stopSuper_within (k : Super) (s : State) : Within [.out, .host, .hild, .rings, .evq, .mod] s (stopSuper k s) := stopSuper_without rfl

/-- The reset of a super that repairs no row keeps to its own super. -/
theorem resetSuperDomain_within {k : Super} {s : State} (hr : s.supers[k].repairing = none) :
    Within [.out, .superTree, .superKeys, .superRegs, .hild] s (resetSuperDomain k s) := by
  unfold resetSuperDomain
  split
  · have hq : quietSuper k s = flushSlots k s := by rw [quietSuper, effRepaired_calm hr]
    rw [hq]
    refine Eq.trans (modSuper_without _ _ _ _ fun u => resetSuperState_without rfl) ?_
    exact Eq.trans (abortWaiting_without rfl) (flushSlots_without rfl)
  · rfl

theorem resetSuperDomain_other {j k : Super} (h : j ≠ k) {s : State} (hr : s.supers[j].repairing = none) :
    (resetSuperDomain j s).supers[k].powered = s.supers[k].powered ∧
    (resetSuperDomain j s).supers[k].repairing = s.supers[k].repairing ∧
    (resetSuperDomain j s).supers[k].resetting = s.supers[k].resetting := by
  unfold resetSuperDomain
  split
  · have hq : quietSuper j s = flushSlots j s := by rw [quietSuper, effRepaired_calm hr]
    have w := flushSlots_within j s
    rw [hq]
    generalize flushSlots j s = v at w
    obtain ⟨hsup, -⟩ := abortWaiting_units j v
    have hk : ((abortWaiting j v).modSuper j resetSuperState).supers[k] = v.supers[k] := by
      refine (modSuper_other _ j k _ h).trans ?_
      exact (congrArg (fun x : Vector SuperState 8 => x[k]) hsup).trans (modSuper_other v j k _ h)
    rw [hk]
    refine ⟨w.super_powered k rfl, ?_, w.super_resetting k rfl⟩
    simpa [SuperState.without] using congrArg SuperState.repairing (w.super k)
  · exact ⟨rfl, rfl, rfl⟩

theorem resetSuperState_idle (u : SuperState) : (resetSuperState u).repairing = none ∧ (resetSuperState u).powered = u.powered := by
  have hp := (flushTree_kept u).2
  unfold resetSuperState
  generalize flushTree u = v at hp
  exact ⟨rfl, hp⟩

/-- One super of a recovery is stopped and its controller reset. -/
def superReset (k : Super) (s : State) : State := resetSuperDomain k (stopSuper k s)

section SuperReset

variable {k : Super} {s : State} (hr : s.supers[k].repairing = none)
include hr

theorem stopSuper_idle : (stopSuper k s).supers[k].repairing = none := (KeepsSupers.of_within (stopSuper_within k s) rfl k).2 hr

theorem superReset_within : Within [.out, .host, .superTree, .superKeys, .superRegs, .hild, .rings, .evq, .mod] s (superReset k s) :=
  ((stopSuper_within k s).mono rfl).trans ((resetSuperDomain_within (stopSuper_idle hr)).mono rfl)

theorem superReset_resetting (hp : s.supers[k].powered = true) : (superReset k s).supers[k].resetting = true :=
  (resetSuperDomain_reset (((stopSuper_within k s).super_powered k rfl).trans hp) (stopSuper_idle hr)).1

theorem superReset_keepsResetting {j : Super} (h : s.supers[j].resetting = true) (hp : s.supers[j].powered = true) :
    (superReset k s).supers[j].resetting = true := by
  by_cases hk : k = j
  · subst hk
    exact superReset_resetting hr hp
  · exact ((resetSuperDomain_other hk (stopSuper_idle hr)).2.2.trans ((stopSuper_within k s).super_resetting j rfl)).trans h

theorem superReset_keepsSupers : KeepsSupers s (superReset k s) := by
  refine (KeepsSupers.of_within (stopSuper_within k s) rfl).trans fun j => ?_
  have hi := stopSuper_idle hr
  unfold superReset
  generalize stopSuper k s = u at hi
  by_cases hk : k = j
  · subst hk
    unfold resetSuperDomain
    split
    · have hq : quietSuper k u = flushSlots k u := by rw [quietSuper, effRepaired_calm hi]
      have w := flushSlots_within k u
      rw [hq]
      generalize flushSlots k u = v at w
      obtain ⟨hsup, -⟩ := abortWaiting_units k v
      have hk : (abortWaiting k v).supers[k] = keptWaiting v k v.supers[k] := by
        rw [← modSuper_at v k (keptWaiting v k)]
        exact congrArg (fun x : Vector SuperState 8 => x[k]) hsup
      obtain ⟨hrep, hpow⟩ := resetSuperState_idle (keptWaiting v k v.supers[k])
      rw [modSuper_at, hk]
      exact ⟨hpow.trans (w.super_powered k rfl), fun _ => hrep⟩
    · exact ⟨rfl, id⟩
  · obtain ⟨hpow, hrep, -⟩ := resetSuperDomain_other hk hi
    exact ⟨hpow, fun h => hrep.trans h⟩

end SuperReset

/-- The supers of a recovery, none of which repairs a row, are all reset. -/
theorem superResets_done {l : List Super} {s : State} (hr : ∀ k ∈ l, s.supers[k].repairing = none) :
    Within [.out, .host, .superTree, .superKeys, .superRegs, .hild, .rings, .evq, .mod] s (forEach l superReset s) ∧
    ∀ k : Super, s.supers[k].powered = true → k ∈ l ∨ s.supers[k].resetting = true → (forEach l superReset s).supers[k].resetting = true := by
  induction l generalizing s with
  | nil => exact ⟨rfl, fun k _ h => h.resolve_left (by simp)⟩
  | cons a r ih =>
    have ha := hr a List.mem_cons_self
    have hkeep := superReset_keepsSupers ha
    obtain ⟨hw, hres⟩ := ih (s := superReset a s) fun k hk => (hkeep k).2 (hr k (List.mem_cons_of_mem _ hk))
    refine ⟨(superReset_within ha).trans hw, fun k hp hk => hres k ((hkeep k).1.trans hp) ?_⟩
    rcases hk with hk | hk
    · rcases List.mem_cons.mp hk with rfl | hk
      · exact .inr (superReset_resetting ha hp)
      · exact .inl hk
    · exact .inr (superReset_keepsResetting ha hk hp)

/-! ### Combs -/

/-- A comb in its state after a reset of its domain, as far as sequencer and store go. -/
def CombReset (t : State) (k : Comb) : Prop :=
  t.combs[k].seq = { waiting := t.combs[k].seq.waiting, progNo := t.combs[k].seq.progNo } ∧ t.combs[k].store = []

/-- A reseed leaves sequencers and stores, and every other comb. -/
theorem reseed_comb (k : Comb) (s : State) : (∀ j : Comb, (reseed k none s).combs[j].seq = s.combs[j].seq ∧
    (reseed k none s).combs[j].store = s.combs[j].store) := fun j => by
  have w : Within [.out, .host, .draws, .combRegs, .evq, .mod] s (reseed k none s) := reseed_without rfl
  exact ⟨w.comb_seq j rfl, w.comb_store j rfl⟩

theorem resetCombDomain_resets (k : Comb) (s : State) : CombReset (resetCombDomain k s) k := by
  obtain ⟨hseq, hstore⟩ := reseed_comb k (s.modComb k resetCombState) k
  unfold CombReset resetCombDomain
  rw [hseq, hstore, modComb_at]
  exact ⟨rfl, rfl⟩

theorem resetCombDomain_other {j k : Comb} (h : j ≠ k) {s : State} (hk : CombReset s k) : CombReset (resetCombDomain j s) k := by
  obtain ⟨hseq, hstore⟩ := reseed_comb j (s.modComb j resetCombState) k
  have hc : (s.modComb j resetCombState).combs[k] = s.combs[k] := modComb_other s j k _ h
  unfold CombReset resetCombDomain
  rw [hseq, hstore, hc]
  exact hk

/-- Every comb of a recovery is reset. -/
theorem combResets_done {l : List Comb} {k : Comb} (hk : k ∈ l) (s : State) : CombReset (forEach l resetCombDomain s) k :=
  forEach_establishes (P := fun k t => CombReset t k) (fun k t => resetCombDomain_resets k t) (fun a b t h => by
    by_cases hb : b = a
    · subst hb
      exact resetCombDomain_resets b t
    · exact resetCombDomain_other hb h) hk s

theorem CombReset.of_within {m : List Piece} {s t : State} {k : Comb} (h : CombReset s k) (w : Within m s t)
    (hs : m.contains .seq = false) (hm : m.contains .combMem = false) : CombReset t k := by
  unfold CombReset
  rw [w.comb_seq k hs, w.comb_store k hm]
  exact h

theorem combResets_within (l : List Comb) (s : State) :
    Within [.out, .host, .draws, .seq, .cellMem, .cellRun, .combRegs, .combMem, .evq, .mod] s (forEach l resetCombDomain s) :=
  forEach_without _ _ _ _ fun _ _ => resetCombDomain_without rfl

/-! ### Ports, and what a recovery of some units ends -/

/-- Strand-ports that are not UP start again: no job falls with them. -/
theorem restartPorts_within (l : List Comb) (s : State) : Within [.router] s (restartPorts l s) := by
  refine forEach_without _ _ _ _ fun k t => forEach_without _ _ _ _ fun q u => ?_
  split
  · rfl
  · next hup =>
    unfold strandDown
    dsimp only
    rw [if_pos (by simpa using hup)]
    exact modSPort_without _ _ _ _ _ rfl

theorem abortRestore_keeps (p : Part) (d1 : Word) (d2 : BitVec 56) (s : State) :
    KeepsRun p s (abortRestore p stResetAborted d1 d2 s) ∧ KeepsSupers s (abortRestore p stResetAborted d1 d2 s) := by
  unfold abortRestore
  split
  · exact ⟨.refl p s, .refl s⟩
  · next x _ =>
    have w : Within [.draws, .superMem, .superTree] s (undefinePlan p x.list s) := undefinePlan_without rfl
    generalize undefinePlan p x.list s = u at w
    have hu : KeepsRun p s u ∧ KeepsSupers s u := ⟨.of_within w rfl rfl, .of_within w rfl⟩
    refine ⟨hu.1.trans ?_, hu.2.trans ?_⟩ <;> unfold endRestore <;> split
    · exact .refl p u
    · refine KeepsRun.trans (t := clearRestore p u) ?_ (.of_within (m := [.rings]) (finish_without rfl) rfl rfl)
      unfold clearRestore KeepsRun
      rw [modPart_at]
      exact ⟨rfl, rfl, rfl, rfl⟩
    · exact .refl u
    · exact KeepsSupers.trans (t := clearRestore p u) (.of_within (m := [.partRegs]) (clearRestore_without rfl) rfl)
        (.of_within (m := [.rings]) (finish_without rfl) rfl)

/-! ### The resets of a recovery (R493) -/

/-- What a recovery of single combs ends first: checkpoint and restore of the partition. -/
def endRuns (p : Part) (r : Recovery) (s : State) : State :=
  if r.scope = 0 ∨ r.combs = [] then s
  else abortRestore p stResetAborted (r.domain.setWidth 32) 0 (endCkpt p stResetAborted (r.domain.setWidth 32) 0 s)

/-- The Hild units and ports of a whole partition start again. -/
def restartUnits (p : Part) (r : Recovery) (s : State) : State :=
  if r.domain = domPartition then
    restartPorts (combsOf s p) (forEach (combsOf s p) (fun k s => s.modHild k fun h => { h with state := 0 }) s)
  else s

theorem applyResets_eq (p : Part) (r : Recovery) (s : State) : applyResets p r s =
    restartUnits p r (forEach r.combs resetCombDomain (forEach r.supers superReset (endRuns p r s))) := by
  unfold applyResets endRuns restartUnits superReset
  rfl

theorem endRuns_keeps {p : Part} {r : Recovery} {s : State} (h : r.scope = 0 ∨ r.combs = [] ∨ s.parts[p].ckpt = none) :
    KeepsRun p s (endRuns p r s) ∧ KeepsSupers s (endRuns p r s) := by
  unfold endRuns
  split
  · exact ⟨.refl p s, .refl s⟩
  · next hn =>
    have hc : s.parts[p].ckpt = none := (or_assoc.mpr h).resolve_left hn
    have he : endCkpt p stResetAborted (r.domain.setWidth 32) 0 s = s := by
      unfold endCkpt
      rw [hc]
    rw [he]
    exact abortRestore_keeps p _ _ s

theorem restartUnits_within (p : Part) (r : Recovery) (s : State) : Within [.hild, .router] s (restartUnits p r s) := by
  unfold restartUnits
  split
  · refine Eq.trans ((restartPorts_within _ _).mono rfl) ?_
    exact forEach_without _ _ _ _ fun _ _ => modHild_without _ _ _ _ rfl
  · rfl

/-- After its resets a recovery's combs and supers are reset, and the recovery itself is as it was. -/
theorem applyResets_done {p : Part} {r : Recovery} {s : State} (h : r.scope = 0 ∨ r.combs = [] ∨ s.parts[p].ckpt = none)
    (hr : ∀ k ∈ r.supers, s.supers[k].repairing = none) :
    KeepsRun p s (applyResets p r s) ∧ (∀ k ∈ r.combs, CombReset (applyResets p r s) k) ∧
    ∀ k ∈ r.supers, s.supers[k].powered = true → (applyResets p r s).supers[k].resetting = true := by
  obtain ⟨hrun, hsup⟩ := endRuns_keeps h
  rw [applyResets_eq]
  generalize endRuns p r s = u at hrun hsup
  obtain ⟨hv, hres⟩ := superResets_done (l := r.supers) (s := u) fun k hk => (hsup k).2 (hr k hk)
  generalize forEach r.supers superReset u = v at hv hres
  have hw := combResets_within r.combs v
  have hcomb : ∀ k ∈ r.combs, CombReset (forEach r.combs resetCombDomain v) k := fun k hk => combResets_done hk v
  generalize forEach r.combs resetCombDomain v = w at hw hcomb
  have hx := restartUnits_within p r w
  generalize restartUnits p r w = x at hx
  refine ⟨((hrun.trans (.of_within hv rfl rfl)).trans (.of_within hw rfl rfl)).trans (.of_within hx rfl rfl),
    fun k hk => (hcomb k hk).of_within hx rfl rfl, fun k hk hp => ?_⟩
  rw [hx.super_resetting k rfl, hw.super_resetting k rfl]
  exact hres k ((hsup k).1.trans hp) (.inl hk)

/-! ### The capture (R492) -/

/-- A partition's recoveries, record count and checkpoint, which the writing of records leaves. -/
def KeepsCapture (p : Part) (s t : State) : Prop :=
  t.parts[p].recov = s.parts[p].recov ∧ t.parts[p].hiveSeq = s.parts[p].hiveSeq ∧ t.parts[p].ckpt = s.parts[p].ckpt

theorem KeepsCapture.trans {p : Part} {s t u : State} (h : KeepsCapture p s t) (g : KeepsCapture p t u) : KeepsCapture p s u :=
  ⟨g.1.trans h.1, g.2.1.trans h.2.1, g.2.2.trans h.2.2⟩

theorem KeepsCapture.of_within {p : Part} {m : List Piece} {s t : State} (w : Within m s t) (hp : m.contains .partRegs = false) :
    KeepsCapture p s t := by
  refine ⟨w.part_recov p hp, ?_, w.part_ckpt p hp⟩
  have := congrArg PartState.hiveSeq (w.part p)
  simpa only [PartState.without, hp, Bool.false_eq_true, if_false] using this

theorem KeepsCapture.modPart {p : Part} {s : State} {f : PartState → PartState} (hr : ∀ q, (f q).recov = q.recov)
    (hs : ∀ q, (f q).hiveSeq = q.hiveSeq) (hc : ∀ q, (f q).ckpt = q.ckpt) : KeepsCapture p s (s.modPart p f) := by
  unfold KeepsCapture
  rw [modPart_at]
  exact ⟨hr _, hs _, hc _⟩

theorem writeHive_keeps (p : Part) (a : DWord) (b : Bytes) (s : State) : KeepsCapture p s (writeHive p a b s).1 := by
  unfold writeHive
  split
  · have w : Within [.out, .host] s (hostPutAll (fnOf p) (hostWrites s (fnOf p) a.toNat b false) s) := hostPutAll_without rfl
    obtain ⟨h1, h2, h3, -⟩ := KeepsRun.of_within (p := p) w rfl rfl
    exact KeepsCapture.trans ⟨h1, h2, h3⟩ (.modPart (fun _ => rfl) (fun _ => rfl) fun _ => rfl)
  · exact .modPart (fun _ => rfl) (fun _ => rfl) fun _ => rfl

theorem writeHives_keeps (p : Part) (b : Bytes) (l : List DWord) (s : State) : KeepsCapture p s (writeHives p b l s).1 := by
  induction l generalizing s with
  | nil => exact ⟨rfl, rfl, rfl⟩
  | cons a r ih => exact (writeHive_keeps p a b s).trans (ih _)

/-- A recovery once captured, with its record and whether a host has it. -/
def recorded (r : Recovery) (n : BitVec 16) (b : Bytes) (w : Bool) : Recovery :=
  { r with captured := true, seq := n + 1, record := b, hiveWritten := w }

/-- The record is numbered, copied and written; the recovery reads captured. -/
theorem capture_captures (p : Part) (r : Recovery) (s : State) :
    (capture p r s).1.parts[p].recov = s.parts[p].recov ∧ (capture p r s).1.parts[p].hiveSeq = s.parts[p].hiveSeq + 1 ∧
    (capture p r s).1.parts[p].ckpt = s.parts[p].ckpt ∧ Within [.out, .host, .partRegs] s (capture p r s).1 ∧
    ∃ b w, (capture p r s).2 = recorded r s.parts[p].hiveSeq b w := by
  have hw : Within [.out, .host, .partRegs] s (capture p r s).1 := capture_without rfl
  unfold capture at hw ⊢
  dsimp only at hw ⊢
  refine ⟨?_, ?_, ?_, hw, _, _, rfl⟩
  all_goals
    generalize hiveRecord _ p _ = b
    generalize hiveTargets _ p _ = l
    obtain ⟨h1, h2, h3⟩ := writeHives_keeps p b l
      ((s.modPart p fun q => { q with hiveSeq := s.parts[p].hiveSeq + 1 }).modPart p fun q => { q with hiveCopy := b })
    rw [modPart_at, modPart_at] at h1 h2 h3
  · exact h1
  · exact h2
  · exact h3

/-! ### A smoke that has drained, or whose deadline passed (R491 to R493) -/

/-- A deadline that passes counts, and the flits still under way are dropped. -/
def lateDrop (p : Part) (r : Recovery) (late : Bool) (s : State) : State :=
  if late then dropInFlight (domainCombs s p r) (s.modEvt fun e => { e with drainTo := hit 16 e.drainTo }) else s

theorem lateDrop_within (p : Part) (r : Recovery) (late : Bool) (s : State) : Within [.router, .evt] s (lateDrop p r late s) := by
  unfold lateDrop
  split
  · exact Eq.trans (dropInFlight_without rfl) (modEvt_without _ _ _ rfl)
  · rfl

theorem lateDrop_evt (p : Part) (r : Recovery) (late : Bool) (s : State) :
    (lateDrop p r late s).evt = if late then { s.evt with drainTo := hit 16 s.evt.drainTo } else s.evt := by
  unfold lateDrop
  split
  · exact Within.evt_eq (m := [.router]) (dropInFlight_without rfl) rfl
  · rfl

/-- The recovery that proceeds. -/
def proceeding (r : Recovery) (late : Bool) : Recovery := { r with drainTo := r.drainTo || late }

section Proceed

variable {s : State} {p : Part} {r : Recovery} (hrec : s.parts[p].recov = [r])
include hrec

theorem proceed_eq (late : Bool) (ht : r.teardown = false) : proceed p 0 late s =
    applyResets p (capture p (proceeding r late) (lateDrop p (proceeding r late) late s)).2
      ((capture p (proceeding r late) (lateDrop p (proceeding r late) late s)).1.modPart p fun q =>
        { q with recov := q.recov.set 0 (capture p (proceeding r late) (lateDrop p (proceeding r late) late s)).2 }) := by
  have hi : s.parts[p].recov[0]? = some r := by rw [hrec]; rfl
  unfold proceed
  rw [hi]
  dsimp only
  rw [if_neg (by rw [ht]; decide)]
  rfl

/-- The recovery is captured once, and its units are reset. -/
theorem proceed_captures (late : Bool) (ht : r.teardown = false) (hs : ∀ k ∈ r.supers, s.supers[k].repairing = none)
    (hc : r.scope = 0 ∨ r.combs = [] ∨ s.parts[p].ckpt = none) {t : State} (he : proceed p 0 late s = t) :
    (∃ r', t.parts[p].recov = [r'] ∧ r'.captured = true ∧ r'.drainTo = (r.drainTo || late) ∧ r'.seq = s.parts[p].hiveSeq + 1) ∧
    t.parts[p].hiveSeq = s.parts[p].hiveSeq + 1 ∧
    t.evt = (if late then { s.evt with drainTo := hit 16 s.evt.drainTo } else s.evt) ∧
    (∀ k ∈ r.combs, CombReset t k) ∧ ∀ k ∈ r.supers, s.supers[k].powered = true → t.supers[k].resetting = true := by
  have hl := lateDrop_within p (proceeding r late) late s
  have hevt := lateDrop_evt p (proceeding r late) late s
  rw [proceed_eq hrec late ht] at he
  generalize lateDrop p (proceeding r late) late s = u at he hl hevt
  obtain ⟨hr, hseq, hck, hw, b, w, hr2⟩ := capture_captures p (proceeding r late) u
  rw [hr2] at he
  obtain ⟨hrec0, hseq0, hck0⟩ := KeepsCapture.of_within (p := p) hl rfl
  generalize (capture p (proceeding r late) u).1 = v at he hr hseq hck hw
  have hv : (v.modPart p fun q => { q with recov := q.recov.set 0 (recorded (proceeding r late) u.parts[p].hiveSeq b w) }).parts[p].recov =
      [recorded (proceeding r late) u.parts[p].hiveSeq b w] := by
    rw [modPart_at, hr, hrec0, hrec]
    rfl
  have hq : (v.modPart p fun q => { q with recov := q.recov.set 0 (recorded (proceeding r late) u.parts[p].hiveSeq b w) }).parts[p].hiveSeq =
      s.parts[p].hiveSeq + 1 := by
    rw [modPart_at, hseq0.symm]
    exact hseq
  have hk : KeepsSupers s v := .of_within (m := [.router, .evt, .out, .host, .partRegs]) ((hl.mono rfl).trans (hw.mono rfl)) rfl
  obtain ⟨⟨h1, h2, -, h4⟩, hcombs, hsupers⟩ := applyResets_done (p := p) (r := recorded (proceeding r late) u.parts[p].hiveSeq b w)
    (s := v.modPart p fun q => { q with recov := q.recov.set 0 (recorded (proceeding r late) u.parts[p].hiveSeq b w) })
    (hc.imp_right (Or.imp_right fun h => by rw [modPart_at]; exact hck.trans (hck0.trans h))) fun k hk' => (hk k).2 (hs k hk')
  rw [he] at h1 h2 h4 hcombs hsupers
  refine ⟨⟨_, h1.trans hv, rfl, rfl, congrArg (· + 1) hseq0⟩, h2.trans hq, ?_, hcombs, fun k hk' hp => hsupers k hk' ((hk k).1.trans hp)⟩
  exact h4.trans ((hw.evt_eq rfl).trans hevt)

end Proceed

/-- A recovery not yet captured that is drained is the one that its drain's end captures. -/
theorem effDrainDone_eq {s : State} {p : Part} {r : Recovery} (hrec : s.parts[p].recov = [r]) (hc : r.captured = false)
    (hd : drained' s p r = true) : effDrainDone p s = proceed p 0 false s := by
  have hf : s.parts[p].recov.findIdx? (fun r => !r.captured && drained' s p r) = some 0 := by
    rw [hrec, List.findIdx?_cons, if_pos (by rw [hc, hd]; rfl)]
  unfold effDrainDone
  rw [hf]

theorem effDeadline_eq {s : State} {p : Part} {r : Recovery} (hrec : s.parts[p].recov = [r]) (hc : r.captured = false) :
    effDeadline p s = proceed p 0 true s := by
  have hf : s.parts[p].recov.findIdx? (fun r => !r.captured) = some 0 := by
    rw [hrec, List.findIdx?_cons, if_pos (by rw [hc]; rfl)]
  unfold effDeadline
  rw [hf]

/-! ### The end of a recovery -/

theorem filter_ne_self (r : Recovery) : [r].filter (fun x => decide (x ≠ r)) = [] := by
  simp

theorem within_part_autoSalv {m : List Piece} {s t : State} (w : Within m s t) (p : Part) (h : m.contains .partRegs = false) :
    t.parts[p].autoSalv = s.parts[p].autoSalv := by
  have := congrArg PartState.autoSalv (w.part p)
  simpa only [PartState.without, h, Bool.false_eq_true, if_false] using this

/-- A recovery of the whole partition, nothing to stop again: its rings flushed, its smokes ended, its record reported. -/
def recoveryReported (p : Part) (r : Recovery) (s : State) : State :=
  let n := if r.hiveWritten then r.record.length else 0
  let s := flushRings p s
  let s := forEach (r.smokes.filter fun m => !m.2.2) (endSmoke n) s
  let s := s.modPart p fun q => { q with recov := q.recov.filter fun x => decide (x ≠ r), sum := sumWord s r }
  let s := platEvent 2 (BitVec.ofNat 8 (30 + p.val)) (s.parts[p].sum.setWidth 56) s
  let s := s.modEvt fun e => { e with recovery := hit 16 e.recovery, resetBusy := e.resetBusy && !r.byCmd }
  let s := postEvent p evRecoveryDone r.cause1 r.unit (doneDetail r) s
  forEach (r.smokes.filter (·.2.2)) (endSmoke n) s

theorem endSmokes_within (n : Nat) (l : List (RunDesc × DWord × Bool)) (s : State) :
    Within [.out, .host, .seq, .rings, .sems] s (forEach l (endSmoke n) s) :=
  forEach_without _ _ _ _ fun _ _ => endSmoke_without rfl

theorem recoveryReported_after {p : Part} {r : Recovery} {s t : State} (hrec : s.parts[p].recov = [r])
    (ht : recoveryReported p r s = t) :
    t.parts[p].recov = [] ∧ t.evt.recovery = hit 16 s.evt.recovery ∧ t.parts[p].autoSalv = s.parts[p].autoSalv ∧
    Within [.out, .host, .seq, .rings, .sems, .partRegs, .mgmt, .evt, .evq, .mod] s t := by
  unfold recoveryReported at ht
  dsimp only at ht
  generalize hn : (if r.hiveWritten then r.record.length else 0) = n at ht
  have w1 : Within [.out, .host, .seq, .rings, .sems] s
      (forEach (r.smokes.filter fun m => !m.2.2) (endSmoke n) (flushRings p s)) :=
    Eq.trans (endSmokes_within _ _ _) (flushRings_without rfl)
  generalize forEach (r.smokes.filter fun m => !m.2.2) (endSmoke n) (flushRings p s) = u at ht w1
  have hrecov : (u.modPart p fun q => { q with recov := q.recov.filter fun x => decide (x ≠ r), sum := sumWord u r }).parts[p].recov
      = [] := by
    rw [modPart_at, w1.part_recov p rfl, hrec]
    exact filter_ne_self r
  have hsalv : (u.modPart p fun q => { q with recov := q.recov.filter fun x => decide (x ≠ r), sum := sumWord u r }).parts[p].autoSalv
      = s.parts[p].autoSalv := by
    rw [modPart_at]
    exact within_part_autoSalv w1 p rfl
  have w2 : Within [.partRegs] u
      (u.modPart p fun q => { q with recov := q.recov.filter fun x => decide (x ≠ r), sum := sumWord u r }) :=
    modPart_without _ _ _ _ fun _ => rfl
  generalize (u.modPart p fun q => { q with recov := q.recov.filter fun x => decide (x ≠ r), sum := sumWord u r }) = v
    at ht hrecov hsalv w2
  have w3 : Within [.mgmt] v (platEvent 2 (BitVec.ofNat 8 (30 + p.val)) (v.parts[p].sum.setWidth 56) v) := platEvent_without rfl
  generalize platEvent 2 (BitVec.ofNat 8 (30 + p.val)) (v.parts[p].sum.setWidth 56) v = x at ht w3
  have hevt : (x.modEvt fun e => { e with recovery := hit 16 e.recovery, resetBusy := e.resetBusy && !r.byCmd }).evt.recovery =
      hit 16 s.evt.recovery :=
    congrArg (fun e : EvtRegs => hit 16 e.recovery) ((w3.evt_eq rfl).trans ((w2.evt_eq rfl).trans (w1.evt_eq rfl)))
  have w4 : Within [.evt] x (x.modEvt fun e => { e with recovery := hit 16 e.recovery, resetBusy := e.resetBusy && !r.byCmd }) :=
    modEvt_without _ _ _ rfl
  generalize (x.modEvt fun e => { e with recovery := hit 16 e.recovery, resetBusy := e.resetBusy && !r.byCmd }) = y at ht hevt w4
  have w5 : Within [.out, .host, .seq, .rings, .sems, .evq, .mod] y t := by
    rw [← ht]
    have w : Within [.out, .host, .evq, .mod] y (postEvent p evRecoveryDone r.cause1 r.unit (doneDetail r) y) := postEvent_without rfl
    exact (w.mono rfl).trans ((endSmokes_within n _ _).mono rfl)
  have w345 : Within [.out, .host, .seq, .rings, .sems, .mgmt, .evt, .evq, .mod] v t :=
    (w3.mono rfl).trans ((w4.mono rfl).trans (w5.mono rfl))
  refine ⟨(w345.part_recov p rfl).trans hrecov, ?_, (within_part_autoSalv w345 p rfl).trans hsalv,
    (w1.mono rfl).trans ((w2.mono rfl).trans (w345.mono rfl))⟩
  rw [w5.evt_eq rfl]
  exact hevt

/-- A finished recovery of the whole partition reopens it: what its doors then say. -/
theorem reopen_after {p : Part} {s t : State} (ht : reopen p s = t) :
    t.parts[p].tt = none ∧ t.parts[p].stopped = (combsOf s p).any (fun k => s.combs[k].cellRegs.degraded) ∧
    t.parts[p].recov = s.parts[p].recov ∧ t.parts[p].autoSalv = s.parts[p].autoSalv ∧ Within [.router, .partRegs] s t := by
  have w : Within [.router] s (forEach (combsOf s p) (fun k s => s.modRouter k fun r => { r with flows := [] }) s) :=
    forEach_without _ _ _ _ fun _ _ => modRouter_without _ _ _ _ rfl
  refine ⟨?_, ?_, ?_, ?_, ht ▸ reopen_without rfl⟩
  all_goals
    subst ht
    unfold reopen
    dsimp only
    generalize forEach (combsOf s p) (fun k s => s.modRouter k fun r => { r with flows := [] }) s = u at w
    rw [modPart_at]
  · simp only [within_combsOf w rfl rfl, w.comb_cellRegs _ rfl]
  · exact w.part_recov p rfl
  · exact within_part_autoSalv w p rfl

theorem settleContext_open {p : Part} {s : State} (h : s.parts[p].ctx.state ≠ 3) : settleContext p s = s := by
  unfold settleContext
  exact if_neg fun hc => h hc.1

section Finish

variable {p : Part} {r : Recovery} {s : State} (hrec : s.parts[p].recov = [r]) (h0 : r.scope = 0) (ha : r.again = [])
  (hsalv : s.parts[p].autoSalv = false) (hctx : s.parts[p].ctx.state ≠ 3)
include hrec h0 ha hsalv hctx

theorem finishRecovery_eq : finishRecovery p r s = reopen p (recoveryReported p r s) := by
  obtain ⟨-, -, hs, w⟩ := recoveryReported_after hrec (t := recoveryReported p r s) rfl
  generalize hu : recoveryReported p r s = u at hs w
  have hf : finishRecovery p r s =
      (let t := stopAgain p r.again (settleContext p (if r.scope = 0 then reopen p (recoveryReported p r s)
        else forEach r.combs (fun k s => startNext k s) (recoveryReported p r s)))
      if t.parts[p].autoSalv ∧ t.parts[p].ctx.state = 2 ∧ !r.teardown ∧ r.again = [] then autoCkpt p 2 t else t) := by
    unfold finishRecovery recoveryReported
    rfl
  obtain ⟨-, -, -, hsalv', w'⟩ := reopen_after (p := p) (s := u) (t := reopen p u) rfl
  have hc : (reopen p u).parts[p].ctx.state ≠ 3 := by
    rw [w'.part_ctx p rfl, w.part_ctx p rfl]
    exact hctx
  rw [hf, hu, if_pos h0, settleContext_open hc, ha]
  dsimp only [stopAgain]
  refine if_neg fun h => ?_
  rw [hsalv', hs, hsalv] at h
  exact absurd h.1 (by decide)

/-- A finished recovery ends with one RECOVERY_DONE; context and region table stay, the timetable is gone (R499). -/
theorem finishRecovery_after {t : State} (ht : finishRecovery p r s = t) :
    t.parts[p].recov = [] ∧ t.evt.recovery = hit 16 s.evt.recovery ∧
    t.parts[p].tt = none ∧ t.parts[p].ctx = s.parts[p].ctx ∧ t.parts[p].rgn = s.parts[p].rgn ∧
    t.parts[p].stopped = (combsOf s p).any (fun k => s.combs[k].cellRegs.degraded) := by
  rw [finishRecovery_eq hrec h0 ha hsalv hctx] at ht
  obtain ⟨hr, he, -, w⟩ := recoveryReported_after hrec (t := recoveryReported p r s) rfl
  generalize recoveryReported p r s = u at ht hr he w
  obtain ⟨htt, hst, hrec', -, w'⟩ := reopen_after ht
  refine ⟨hrec'.trans hr, ?_, htt, (w'.part_ctx p rfl).trans (w.part_ctx p rfl), (w'.part_rgn p rfl).trans (w.part_rgn p rfl), ?_⟩
  · rw [w'.evt_eq rfl]
    exact he
  · rw [hst, within_combsOf w rfl rfl]
    simp only [w.comb_cellRegs _ rfl]

end Finish

theorem effRecoveryDone_eq {s : State} {p : Part} {r : Recovery} (hrec : s.parts[p].recov = [r]) (hd : resetsDone s r = true) :
    effRecoveryDone p s = finishRecovery p r s := by
  have hf : s.parts[p].recov.find? (resetsDone s) = some r := by rw [hrec, List.find?_cons, hd]
  unfold effRecoveryDone
  rw [hf]

/-! ### The end of a super controller's reset (R501) -/

theorem noteAgain_within (k : Super) (l : List Nat) (s : State) : Within [.partRegs] s (noteAgain k l s) := by
  unfold noteAgain
  exact forEach_without _ _ _ _ fun _ _ => modPart_without _ _ _ _ fun _ => rfl

/-- A super awake again: out of reset, ACTIVE, its link under fresh keys. -/
def awake (w : BitVec 512) (u : SuperState) : SuperState := { u with resetting := false, state := 1, link := freshLink w }

/-- The state whose super k is awake, the value of its link keys drawn. -/
def superAwake (k : Super) (s : State) : State := (keySuperLink k s).modSuper k fun u => { u with resetting := false, state := 1 }

theorem superAwake_super (k : Super) (s : State) : (superAwake k s).supers[k] = awake (drawNow 512 s) s.supers[k] := by
  have h : (keySuperLink k s).supers[k] = { s.supers[k] with link := freshLink (drawNow 512 s) } := modSuper_at _ _ _
  unfold superAwake
  rw [modSuper_at, h]
  rfl

theorem superAwake_within (k : Super) (s : State) : Within [.draws, .superRegs] s (superAwake k s) := by
  have w : Within [.superRegs] s (s.modSuper k fun u => { u with link := freshLink (drawNow 512 s) }) :=
    modSuper_without _ _ _ _ fun _ => rfl
  have w' : Within [.superRegs] (keySuperLink k s) (superAwake k s) := modSuper_without _ _ _ _ fun _ => rfl
  have wd : Within [.draws, .superRegs] (s.modSuper k fun u => { u with link := freshLink (drawNow 512 s) }) (keySuperLink k s) := rfl
  exact (w.mono rfl).trans (wd.trans (w'.mono rfl))

theorem superAwake_draws (k : Super) (s : State) : (superAwake k s).draws = s.draws + 1 := rfl

theorem within_super {m : List Piece} {s t : State} (w : Within m s t) (k : Super) (h : m = [.partRegs]) :
    t.supers[k] = s.supers[k] := by
  subst h
  exact w.super k

theorem nextRepair_idle {k : Super} {s : State} (h : s.supers[k].repairQ = []) :
    nextRepair k s = s.modSuper k fun u => { u with repairQ := [] } := by
  unfold nextRepair
  dsimp only
  rw [h]
  rfl

/-- A controller that wakes with no failed pin and no repair waiting: its super as it was, awake. -/
theorem wakeController_clean {k : Super} {s t : State} (hf : failedPins s.supers[k] k = []) (hq : s.supers[k].repairQ = [])
    (ht : wakeController k s = t) : t.supers[k] = awake (drawNow 512 s) s.supers[k] ∧ t.draws = s.draws + 1 ∧ t.evt = s.evt ∧
      Within [.draws, .superRegs, .partRegs] s t := by
  have hs := superAwake_super k s
  have w := superAwake_within k s
  have hd := superAwake_draws k s
  have hw : wakeController k s =
      (let ns := failedPins (superAwake k s).supers[k] k
      nextRepair k (noteAgain k ns (forEach ns (fun n s => nodeNote k n s) (superAwake k s)))) := rfl
  generalize superAwake k s = u at hs w hd hw
  have hp : failedPins u.supers[k] k = [] := by
    rw [hs]
    exact hf
  rw [hw] at ht
  dsimp only at ht
  rw [hp] at ht
  change nextRepair k (noteAgain k [] u) = t at ht
  have wa := noteAgain_within k [] u
  generalize noteAgain k [] u = v at ht wa
  have hv : v.supers[k] = awake (drawNow 512 s) s.supers[k] := (wa.super k).trans hs
  have hr : v.supers[k].repairQ = [] := by
    rw [hv]
    exact hq
  rw [nextRepair_idle hr] at ht
  have wr : Within [.superRegs] v t := ht ▸ modSuper_without _ _ _ _ fun _ => rfl
  refine ⟨?_, (wr.draws_eq rfl).trans ((wa.draws_eq rfl).trans hd), (wr.evt_eq rfl).trans ((wa.evt_eq rfl).trans (w.evt_eq rfl)),
    (w.mono rfl).trans ((wa.mono rfl).trans (wr.mono rfl))⟩
  rw [← ht, modSuper_at, ← hr]
  exact hv

theorem freshLink_fresh (w : BitVec 512) (d : Fin 2) :
    (freshLink w)[d].sent = 0 ∧ (freshLink w)[d].next = 0 ∧ (freshLink w)[d].dead = false := by
  have h : (freshLink w)[d] = if d.val = 0 then { key := w.extractLsb' 0 256 } else { key := w.extractLsb' 256 256 } :=
    Vector.getElem_ofFn _
  rw [h]
  split <;> exact ⟨rfl, rfl, rfl⟩

/-- The end of a super's reset where no pin fails and nothing waits. -/
theorem superResetDone_wakes {s : State} {k : Super} (flips : Flips) {v : State} (hv : applyFlips k flips s = v)
    (hre : v.supers[k].resetting = true) (hno : s.evt.resetSup ≠ some k) (hf : failedPins v.supers[k] k = [])
    (hq : v.supers[k].repairQ = []) (hw : v.supers[k].waiting = .replicate 6 []) :
    Does (.superResetDone k flips) s fun t =>
      t.supers[k] = { v.supers[k] with resetting := false, state := 1, link := t.supers[k].link } ∧
      (∀ d : Fin 2, t.supers[k].link[d].sent = 0 ∧ t.supers[k].link[d].next = 0 ∧ t.supers[k].link[d].dead = false) ∧
      t.draws = s.draws + 1 ∧ Within [.draws, .superMem, .superRegs, .partRegs] s t := by
  have wf : Within [.superMem] s v := hv ▸ applyFlips_within k flips s
  obtain ⟨hs, hd, he, w⟩ := wakeController_clean hf hq (t := wakeController k v) rfl
  have hexec : effSuperDone k v = wakeController k v := by
    unfold effSuperDone
    rw [hre]
    generalize wakeController k v = t at hs he
    have hwait : t.supers[k].waiting = .replicate 6 [] := by
      rw [hs]
      exact hw
    simp only [Bool.not_true, Bool.false_eq_true, if_false, RegionProofs.resumeSuper_idle hwait]
    refine if_neg ?_
    rw [he, wf.evt_eq rfl]
    exact hno
  refine ⟨wakeController k v, congrArg Host.Outcome.next ((congrArg (effSuperDone k) hv).trans hexec), ?_⟩
  generalize wakeController k v = t at hs hd w
  refine ⟨?_, fun d => ?_, hd.trans (congrArg (· + 1) (wf.draws_eq rfl)), (wf.mono rfl).trans (w.mono rfl)⟩
  · rw [hs]
    rfl
  · rw [hs]
    exact freshLink_fresh _ d

/-! ### A SMOKE of the whole partition (R489, R491) -/

theorem smoke_begins {s : State} {p : Part} {r : Ring} {d : Desc} (hd : startedDesc s p r opSmoke = some d)
    (h0 : d.field 28 1 % 2 = 0) (hrec : s.parts[p].recov = []) : Does (.smoke p r) s fun t => t.parts[p].stopped = true ∧
      ∃ x, t.parts[p].recov = [x] ∧ x.domain = 5 ∧ x.byDesc = true ∧ x.combs = combsOf s p ∧ x.supers = combsOf s p ∧
        x.smokes = [(⟨p, r, d.idx⟩, w64 (d.field 16 8), false)] := by
  have he : effSmoke p r s = askPartition p (.smoke ⟨p, r, d.idx⟩ (w64 (d.field 16 8))) s := by
    unfold effSmoke
    rw [hd]
    exact if_pos h0
  obtain ⟨hstop, -, u, hrecov⟩ := askPartition_begins (.smoke ⟨p, r, d.idx⟩ (w64 (d.field 16 8))) hrec
  exact ⟨_, congrArg Host.Outcome.next he, hstop, _, hrecov, rfl, rfl, rfl, rfl, rfl⟩

/-! ### The end of an early-warning window (R509) -/

/-- What the monitors of partition p read stays, and no trip asks for a checkpoint. -/
def Monitored (p : Part) (s t : State) : Prop :=
  t.evt.trig = 0 ∧ ∀ m : Fin 7, ewThreshold t.evt m = ewThreshold s.evt m ∧ ewValue t p m = ewValue s p m

theorem ewValue_of_within {m : List Piece} {p : Part} {s t : State} (w : Within m s t) (hc : m.contains .combMap = false)
    (hp : m.contains .partMap = false) (hd : m.contains .causes = false) (he : t.parts[p].ew.counts = s.parts[p].ew.counts)
    (hm : t.evt.margin = s.evt.margin) (i : Fin 7) : ewValue t p i = ewValue s p i := by
  have hn : nearHot t p = nearHot s p := by
    simp only [nearHot, within_combsOf w hc hp, hm, w.die_temp _ hd]
  unfold ewValue
  rw [he, hn]

/-- A trip while no monitor asks for a checkpoint is one event. -/
theorem ewTrip_untriggered {p : Part} {m : Fin 7} {n : Nat} {s t : State} (h : s.evt.trig = 0) (ht : ewTrip p m n s = t) :
    t.evt = { s.evt with ewTrip := hit 16 s.evt.ewTrip } ∧ Within [.draws, .out, .host, .evq, .mod, .evt] s t := by
  have he : ∃ c k d, t = postEvent p evWarning c k d ((drawn s).modEvt fun e => { e with ewTrip := hit 16 e.ewTrip }) := by
    refine ⟨_, _, _, ht.symm.trans (if_neg fun hc => ?_)⟩
    have hk : ∀ (k : Comb) (c : Byte) (d : BitVec 56),
        (postEvent p evWarning c k d ((drawn s).modEvt fun e => { e with ewTrip := hit 16 e.ewTrip })).evt.trig = 0 := fun k c d => by
      have w : Within [.out, .host, .evq, .mod] ((drawn s).modEvt fun e => { e with ewTrip := hit 16 e.ewTrip })
        (postEvent p evWarning c k d ((drawn s).modEvt fun e => { e with ewTrip := hit 16 e.ewTrip })) := postEvent_without rfl
      rw [w.evt_eq rfl]
      exact h
    rw [hk] at hc
    simp at hc
  obtain ⟨c, k, d, rfl⟩ := he
  have w : Within [.draws] s (drawn s) := rfl
  have w1 : Within [.evt] (drawn s) ((drawn s).modEvt fun e => { e with ewTrip := hit 16 e.ewTrip }) := modEvt_without _ _ _ rfl
  have he1 : ((drawn s).modEvt fun e => { e with ewTrip := hit 16 e.ewTrip }).evt = { s.evt with ewTrip := hit 16 s.evt.ewTrip } := rfl
  generalize (drawn s).modEvt (fun e => { e with ewTrip := hit 16 e.ewTrip }) = u at w1 he1
  have w2 : Within [.out, .host, .evq, .mod] u (postEvent p evWarning c k d u) := postEvent_without rfl
  exact ⟨(w2.evt_eq rfl).trans he1, (w.mono rfl).trans ((w1.mono rfl).trans (w2.mono rfl))⟩

theorem within_part_ew {m : List Piece} {s t : State} (w : Within m s t) (p : Part) (h : m.contains .partRegs = false) :
    t.parts[p].ew = s.parts[p].ew := by
  have := congrArg PartState.ew (w.part p)
  simpa only [PartState.without, h, Bool.false_eq_true, if_false] using this

/-- One monitor evaluated. -/
def evalMonitor (p : Part) (m : Fin 7) (s : State) : State :=
  if ewThreshold s.evt m ≤ ewValue s p m then ewTrip p m (ewValue s p m) s else s

section Monitor

variable {p : Part} {s : State}

theorem evalMonitor_monitored {m : Fin 7} {t : State} (h : Monitored p s t) : Monitored p s (evalMonitor p m t) := by
  unfold evalMonitor
  split
  · obtain ⟨he, w⟩ := ewTrip_untriggered h.1 (t := ewTrip p m (ewValue t p m) t) rfl
    generalize ewTrip p m (ewValue t p m) t = u at he w
    refine ⟨by rw [he]; exact h.1, fun i => ⟨by rw [he]; exact (h.2 i).1, ?_⟩⟩
    exact (ewValue_of_within w rfl rfl rfl (by rw [within_part_ew w p rfl]) (by rw [he]) i).trans (h.2 i).2
  · exact h

theorem evalMonitor_on {m : Fin 7} {t : State} (h : Monitored p s t) (hon : t.evt.ewTrip.on = true) :
    (evalMonitor p m t).evt.ewTrip.on = true := by
  unfold evalMonitor
  split
  · rw [(ewTrip_untriggered h.1 (t := ewTrip p m (ewValue t p m) t) rfl).1]
    rfl
  · exact hon

theorem evalMonitor_trips {m : Fin 7} {t : State} (h : Monitored p s t) (hm : ewThreshold s.evt m ≤ ewValue s p m) :
    (evalMonitor p m t).evt.ewTrip.on = true := by
  unfold evalMonitor
  rw [if_pos (by rw [(h.2 m).1, (h.2 m).2]; exact hm), (ewTrip_untriggered h.1 (t := ewTrip p m (ewValue t p m) t) rfl).1]
  rfl

theorem evalMonitors_trip {m : Fin 7} (hm : ewThreshold s.evt m ≤ ewValue s p m) {l : List (Fin 7)} (hl : m ∈ l) {t : State}
    (h : Monitored p s t) : (forEach l (evalMonitor p) t).evt.ewTrip.on = true :=
  forEach_establishes_under (I := Monitored p s) (f := evalMonitor p) (P := fun m u => ewThreshold s.evt m ≤ ewValue s p m → u.evt.ewTrip.on = true)
    (fun _ _ => evalMonitor_monitored) (fun _ _ hi => evalMonitor_trips hi) (fun _ _ _ hi hon hm => evalMonitor_on hi (hon hm)) hl h hm

theorem evalMonitors_quiet (hq : ∀ m : Fin 7, ewValue s p m < ewThreshold s.evt m) (l : List (Fin 7)) :
    forEach l (evalMonitor p) s = s :=
  forEach_fixed fun m _ => if_neg (by have := hq m; omega)

theorem evalMonitor_within {m : Fin 7} {t : State} (h : Monitored p s t) :
    Within [.draws, .out, .host, .evq, .mod, .evt] t (evalMonitor p m t) := by
  unfold evalMonitor
  split
  · exact (ewTrip_untriggered h.1 rfl).2
  · rfl

theorem evalMonitors_within {l : List (Fin 7)} {t : State} (h : Monitored p s t) :
    Within [.draws, .out, .host, .evq, .mod, .evt] t (forEach l (evalMonitor p) t) := by
  induction l generalizing t with
  | nil => rfl
  | cons a r ih => exact (evalMonitor_within h).trans (ih (evalMonitor_monitored h))

end Monitor

/-- The counts of a window that has ended begin anew. -/
def windowCleared (p : Part) (s : State) : State :=
  (forEach (combsOf s p) (fun k s => s.modSuper k fun u => { u with replays := 0 }) s).modPart p fun q =>
    { q with ew := { q.ew with counts := .replicate 7 0 } }

theorem windowCleared_after {p : Part} {s t : State} (ht : windowCleared p s = t) :
    (∀ m : Fin 7, t.parts[p].ew.counts[m] = 0) ∧ (∀ k, inPart s p k = true → t.supers[k].replays = 0) ∧
    Within [.partRegs, .superRegs] s t := by
  have hrep : ∀ k, inPart s p k = true →
      (forEach (combsOf s p) (fun k s => s.modSuper k fun u => { u with replays := 0 }) s).supers[k].replays = 0 := fun k hk =>
    forEach_once_mem (I := fun _ => True) (g := fun _ => 0) (fun t : State => t.supers[k].replays) (fun _ _ h => h)
      (fun t _ => by rw [modSuper_at]) (fun b t hb _ => congrArg SuperState.replays (modSuper_other _ _ _ _ hb))
      (combsOf_nodup s p) (mem_combsOf.mpr hk) trivial
  have w : Within [.superRegs] s (forEach (combsOf s p) (fun k s => s.modSuper k fun u => { u with replays := 0 }) s) :=
    forEach_without _ _ _ _ fun _ _ => modSuper_without _ _ _ _ fun _ => rfl
  unfold windowCleared at ht
  generalize forEach (combsOf s p) (fun k s => s.modSuper k fun u => { u with replays := 0 }) s = u at ht hrep w
  have w' : Within [.partRegs] u t := ht ▸ modPart_without _ _ _ _ fun _ => rfl
  refine ⟨fun m => ?_, fun k hk => ?_, (w.mono rfl).trans (w'.mono rfl)⟩
  · rw [← ht, modPart_at]
    exact Vector.getElem_replicate _
  · rw [← ht]
    exact hrep k hk

/-- The partition's windows since its last trigger, one more. -/
def windowCounted (p : Part) (s : State) : State :=
  s.modPart p fun q => { q with ew := { q.ew with sinceTrigger := q.ew.sinceTrigger + 1 } }

theorem effWindowEnd_eq {p : Part} {s : State} (h : s.parts[p].live = true) :
    effWindowEnd p s = windowCleared p (forEach (fins 7) (evalMonitor p) (windowCounted p s)) := by
  unfold effWindowEnd
  rw [h]
  rfl

theorem ewWindowEnd_restarts {p : Part} {s : State} (hl : s.parts[p].live = true) (ht : s.evt.trig = 0) :
    Does (.ewWindowEnd p) s fun t =>
      (∀ m : Fin 7, t.parts[p].ew.counts[m] = 0) ∧ (∀ k, inPart s p k = true → t.supers[k].replays = 0) ∧
      ((∃ m : Fin 7, ewThreshold s.evt m ≤ ewValue s p m) → t.evt.ewTrip.on = true) ∧
      ((∀ m : Fin 7, ewValue s p m < ewThreshold s.evt m) → Within [.partRegs, .superRegs] s t) := by
  refine ⟨_, congrArg Host.Outcome.next (effWindowEnd_eq hl), ?_⟩
  have w : Within [.partRegs] s (windowCounted p s) := modPart_without _ _ _ _ fun _ => rfl
  have hew : (windowCounted p s).parts[p].ew.counts = s.parts[p].ew.counts := by
    unfold windowCounted
    rw [modPart_at]
  have hevt : (windowCounted p s).evt = s.evt := rfl
  generalize windowCounted p s = u at w hew hevt
  have hmon : Monitored p s u :=
    ⟨by rw [hevt]; exact ht, fun m => ⟨by rw [hevt], ewValue_of_within w rfl rfl rfl hew (by rw [hevt]) m⟩⟩
  have w1 := evalMonitors_within (l := fins 7) hmon
  have htrip := fun (m : Fin 7) hm => evalMonitors_trip (m := m) hm (mem_fins m) hmon
  have hquiet : (∀ m : Fin 7, ewValue s p m < ewThreshold s.evt m) → forEach (fins 7) (evalMonitor p) u = u := fun h =>
    evalMonitors_quiet (fun m => by rw [(hmon.2 m).1, (hmon.2 m).2]; exact h m) _
  generalize forEach (fins 7) (evalMonitor p) u = v at w1 htrip hquiet
  obtain ⟨hcounts, hreplays, w2⟩ := windowCleared_after (p := p) (t := windowCleared p v) rfl
  generalize windowCleared p v = t at hcounts hreplays w2
  refine ⟨hcounts, fun k hk => hreplays k ?_, fun ⟨m, hm⟩ => ?_, fun h => ?_⟩
  · rw [within_inPart w1 rfl rfl, within_inPart w rfl rfl]
    exact hk
  · rw [w2.evt_eq rfl]
    exact htrip m hm
  · rw [hquiet h] at w2
    exact (w.mono rfl).trans w2

/-- Settles O22: a recovery by its capture and its resets, then its end; the super, the smoke and the window each by its command. -/
theorem recoveriesSmokesAndWindows : Obligations.RecoveriesSmokesAndWindows := by
  unfold Obligations.RecoveriesSmokesAndWindows
  refine ⟨fun s p r hrec hs hc => ⟨fun hcap hd htd => ?_, fun hcap htd => ?_, fun hd h0 htd ha hsalv hctx => ?_⟩,
    fun s => ⟨fun k flips hre hno hf hq hw => superResetDone_wakes flips rfl hre hno hf hq hw,
      fun p r d hd h0 hrec => smoke_begins hd h0 hrec, fun p hl ht => ewWindowEnd_restarts hl ht⟩⟩
  · obtain ⟨⟨r', hr, hr1, hr2, hr3⟩, hseq, -, hcombs, hsupers⟩ := proceed_captures hrec false htd hs hc (t := proceed p 0 false s) rfl
    exact ⟨_, congrArg Host.Outcome.next (effDrainDone_eq hrec hcap hd), ⟨r', hr, hr1, hr2.trans (Bool.or_false _), hr3⟩, hseq,
      hcombs, hsupers⟩
  · obtain ⟨⟨r', hr, hr1, hr2, -⟩, -, hevt, hcombs, -⟩ := proceed_captures hrec true htd hs hc (t := proceed p 0 true s) rfl
    exact ⟨_, congrArg Host.Outcome.next (effDeadline_eq hrec hcap), ⟨r', hr, hr1, hr2.trans (Bool.or_true _)⟩,
      congrArg EvtRegs.drainTo hevt, hcombs⟩
  · exact ⟨_, congrArg Host.Outcome.next (effRecoveryDone_eq hrec hd), finishRecovery_after hrec h0 ha hsalv hctx rfl⟩

end Sys2Proof.RecoveryProofs
end

section
/-! The crown and the configuration writes (R440 to R446). -/

namespace Sys2Proof.CrownProofs

open Sys2Proof Sys2Proof.Machine Sys2Proof.MemoryProofs Sys2Proof.JobFaultProofs Sys2Proof.PortProofs Sys2Proof.SuperProofs
  Sys2Proof.RingProofs Sys2Proof.ManagementProofs Sys2Proof.ModuleResetProofs Sys2Proof.UnitResetProofs Sys2Proof.ScalarProofs

theorem die_of_within {m : List Piece} {s t : State} (w : Within m s t) (x : Die) (h : m.contains .dies = false) :
    t.dies[x].crownEpoch = s.dies[x].crownEpoch ∧ t.dies[x].crownDie = s.dies[x].crownDie ∧ t.dies[x].region = s.dies[x].region := by
  have hd := w.die x
  have he := congrArg DieState.crownEpoch hd
  have hc := congrArg DieState.crownDie hd
  have hr := congrArg DieState.region hd
  simp only [DieState.without, h, Bool.false_eq_true, if_false] at he hc hr
  exact ⟨he, hc, hr⟩

/-! ### A change of the crown (R441, R442) -/

theorem broadcast_dies (e : Word) (d : Die) (s : State) (x : Die) : (broadcast e d s).dies[x].crownEpoch = e ∧
    (broadcast e d s).dies[x].crownDie = d := by
  have h : (broadcast e d s).dies[x] = { s.dies[x] with crownEpoch := e, crownDie := d } :=
    forEach_once_mem (I := fun _ => True) (g := fun y => { y with crownEpoch := e, crownDie := d }) (fun t : State => t.dies[x])
      (fun _ _ h => h) (fun t _ => modDie_at _ _ _) (fun b t hb _ => modDie_other _ _ _ _ hb) (fins_nodup 2) (mem_fins x) trivial
  rw [h]
  exact ⟨rfl, rfl⟩

/-- The queens after die d took the crown with an epoch, the other in state o. -/
def crowned (e : Word) (d : Die) (o : BitVec 2) (q : Queen) : Queen :=
  reign d o { q with epoch := e, die := d, crownChg := hit 16 q.crownChg, journal := q.journal.filter (·.touched)
                     log := (.crown e d :: q.log).take 64 }

theorem crownTo_after (e : Word) (d : Die) (o : BitVec 2) {s t : State} (ht : crownTo e d o s = t) :
    t.queen = crowned e d o s.queen ∧ (∀ x : Die, t.dies[x].crownEpoch = e ∧ t.dies[x].crownDie = d) ∧
    Within [.out, .host, .evq, .dies, .queen, .mgmt, .mod] s t := by
  have w : Within [.out, .host, .evq, .dies, .queen, .mgmt, .mod] s t := ht ▸ crownTo_without rfl
  have hd := broadcast_dies e d (s.modQueen (crowned e d o))
  have hq : (broadcast e d (s.modQueen (crowned e d o))).queen = crowned e d o s.queen := by
    have wb : Within [.dies] (s.modQueen (crowned e d o)) (broadcast e d (s.modQueen (crowned e d o))) := broadcast_without rfl
    exact wb.queen_eq rfl
  have he : crownTo e d o s = platEvent 2 22 (BitVec.ofNat 56 d.val) (postCrown e d (abortSpdm (broadcast e d (s.modQueen (crowned e d o))))) := rfl
  rw [he] at ht
  generalize broadcast e d (s.modQueen (crowned e d o)) = u at hd hq ht
  have wu : Within [.out, .host, .evq, .mgmt, .mod] u t := by
    have w1 : Within [.mgmt] u (abortSpdm u) := modMgmt_without _ _ _ rfl
    have w2 : Within [.out, .host, .evq, .mod] (abortSpdm u) (postCrown e d (abortSpdm u)) := postCrown_without rfl
    have w3 : Within [.mgmt] (postCrown e d (abortSpdm u)) t := ht ▸ platEvent_without rfl
    exact (w1.mono rfl).trans ((w2.mono rfl).trans (w3.mono rfl))
  refine ⟨(wu.queen_eq rfl).trans hq, fun x => ?_, w⟩
  obtain ⟨he, hc, -⟩ := die_of_within wu x rfl
  exact ⟨he.trans (hd x).1, hc.trans (hd x).2⟩

theorem crowned_token (e : Word) (d : Die) (o : BitVec 2) (q : Queen) : (crowned e d o q).epoch = e ∧ (crowned e d o q).die = d ∧
    (crowned e d o q).rxSeq = q.rxSeq ∧ (crowned e d o q).crownChg = hit 16 q.crownChg ∧
    (if d.val = 0 then (crowned e d o q).q0 = 2 ∧ (crowned e d o q).q1 = o else (crowned e d o q).q0 = o ∧ (crowned e d o q).q1 = 2) := by
  unfold crowned reign
  split <;> exact ⟨rfl, rfl, rfl, rfl, rfl, rfl⟩

/-- A fault of a queen where no reset of a super and no recovery runs leaves every partition alone (R486). -/
theorem queenFault_calm {s : State} (hs : s.evt.resetSup = none) (hr : ∀ p : Part, s.parts[p].recov = []) (st : Byte) :
    queenFault st s = s := by
  unfold queenFault
  rw [hs]
  simp only [Option.isSome_none, Bool.false_eq_true, if_false]
  refine forEach_fixed fun p _ => ?_
  split
  · rfl
  · rw [hr p]

/-! ### The crown's own messages and claims -/

section Crown

variable {s : State} (hs : queensServe s = true)
include hs

theorem heartbeat_sends : Does .heartbeat s fun t =>
    t.out = .sideband (.heartbeat s.queen.epoch s.queen.die) (s.queen.sbSeq + 1) :: s.out ∧
    t.queen = { s.queen with sbSeq := s.queen.sbSeq + 1 } ∧ Within [.out, .queen] s t :=
  ⟨_, congrArg Host.Outcome.next (if_pos hs), rfl, rfl, rfl⟩

theorem supersedure_takes (hn : s.evt.resetSup = none) (hr : ∀ p : Part, s.parts[p].recov = [])
    (hq : s.queen.die = 0 ∧ s.queen.q1 = 1 ∨ s.queen.die = 1 ∧ s.queen.q0 = 1) :
    exec .supersedure s = .next (crownTo (s.queen.epoch + 1) (1 - s.queen.die) 3 s) := by
  have ho : (if (1 - s.queen.die).val = 0 then s.queen.q0 else s.queen.q1) = 1 := by
    rcases hq with ⟨hd, h1⟩ | ⟨hd, h0⟩
    · rw [hd]
      exact h1
    · rw [hd]
      exact h0
  have he : exec .supersedure s = .next (if !queensServe s then s else
      if (if (1 - s.queen.die).val = 0 then s.queen.q0 else s.queen.q1) = 1
      then crownTo (s.queen.epoch + 1) (1 - s.queen.die) 3 (queenFault stInternal s) else s) := rfl
  rw [he, hs, queenFault_calm hn hr, if_pos ho]
  rfl

/-- A message that is not authentic or not fresh is counted, nothing else (R445). -/
theorem sideband_discarded {seq : Word} {mac : BitVec 64} {msg : Sideband}
    (h : mac ≠ crownMac msg seq ∨ seqFresh s.queen.rxSeq seq = false) : Does (.sidebandMessageReceive seq mac msg) s fun t =>
    t.queen = { s.queen with sbMac := hit 16 s.queen.sbMac } ∧ Within [.queen] s t := by
  refine ⟨sbFail s, congrArg Host.Outcome.next ?_, rfl, rfl⟩
  rw [hs]
  simp only [Bool.not_true, Bool.false_eq_true, if_false]
  exact if_pos (h.imp_right fun hf => by rw [hf]; rfl)

theorem sideband_accepted {seq : Word} (hf : seqFresh s.queen.rxSeq seq = true) (msg : Sideband) :
    exec (.sidebandMessageReceive seq (crownMac msg seq) msg) s =
      .next (takeMessage msg (s.modQueen fun q => { q with rxSeq := some seq })) := by
  refine congrArg Host.Outcome.next ?_
  rw [hs, hf]
  simp only [Bool.not_true, Bool.false_eq_true, if_false]
  exact if_neg fun h => h.elim (fun h => h rfl) fun h => h

end Crown

theorem one_sub_die (d : Die) : (1 - d).val = 0 ↔ d ≠ 0 := by
  revert d
  decide

/-- Settles O23: each message through the rule of a crown that passes. -/
theorem theCrownPasses : Obligations.TheCrownPasses := by
  unfold Obligations.TheCrownPasses
  intro s hs
  refine ⟨heartbeat_sends hs, fun hn hr hq => ?_, fun seq mac msg h => sideband_discarded hs h, fun seq e d hf he => ?_, fun seq hf => ?_⟩
  · obtain ⟨hqueen, hdies, w⟩ := crownTo_after (s.queen.epoch + 1) (1 - s.queen.die) 3
      (t := crownTo (s.queen.epoch + 1) (1 - s.queen.die) 3 s) rfl
    refine ⟨_, supersedure_takes hs hn hr hq, ?_⟩
    generalize crownTo (s.queen.epoch + 1) (1 - s.queen.die) 3 s = t at hqueen hdies w
    obtain ⟨he, hd, -, hc, hst⟩ := crowned_token (s.queen.epoch + 1) (1 - s.queen.die) 3 s.queen
    rw [← hqueen] at he hd hc hst
    refine ⟨he, hd, ?_, hc, hdies, within_combs w (by decide), Vector.ext fun i hi => w.super ⟨i, hi⟩, w⟩
    by_cases h0 : s.queen.die = 0
    · rw [if_pos h0]
      rw [if_neg (mt (one_sub_die _).mp (not_not.mpr h0))] at hst
      exact hst.symm
    · rw [if_neg h0]
      rw [if_pos ((one_sub_die _).mpr h0)] at hst
      exact hst
  · obtain ⟨hqueen, hdies, -⟩ := crownTo_after e d 1 (s := s.modQueen fun q => { q with rxSeq := some seq }) rfl
    refine ⟨_, (sideband_accepted hs hf (.claim e d)).trans (congrArg Host.Outcome.next (if_pos (Or.inl he))), ?_⟩
    generalize crownTo e d 1 (s.modQueen fun q => { q with rxSeq := some seq }) = t at hqueen hdies
    obtain ⟨he, hd, hx, -, -⟩ := crowned_token e d 1 (s.modQueen fun q => { q with rxSeq := some seq }).queen
    rw [← hqueen] at he hd hx
    exact ⟨he, hd, hx, hdies⟩
  · exact ⟨_, (sideband_accepted hs hf _).trans (congrArg Host.Outcome.next (if_neg (BitVec.lt_irrefl _))), rfl, rfl⟩

/-! ### Powering leaves an assigned comb's powered super alone (R42, R326) -/

theorem powerComb_assigned (b : Bool) (h : Hum) (c : CombState) : (powerComb b h c).assigned = c.assigned := by
  unfold powerComb
  dsimp only
  split <;> split <;> rfl

theorem powerSuper_on {k : Super} {s : State} (ha : s.combs[k].assigned = true) (hp : s.supers[k].powered = true) :
    powerSuper k s = s := by
  have ho : superOn k s.combs[k].assigned s.supers[k] = true := by
    unfold superOn
    rw [ha]
    rfl
  unfold powerSuper
  dsimp only
  rw [ho, hp]
  simp

theorem powerAll_powered {k : Super} {s : State} (ha : s.combs[k].assigned = true) (hp : s.supers[k].powered = true) :
    (powerAll s).supers[k] = s.supers[k] :=
  (forEach_invariant (I := fun t : State => t.combs[k].assigned = true ∧ t.supers[k] = s.supers[k]) (fun j t ht => by
    obtain ⟨hc, hu⟩ := ht
    have hc' : (t.modComb j (powerComb (cellTest t) (freshHum t))).combs[k].assigned = true := by
      simp only [Fin.getElem_fin, modComb_get]
      split
      · rw [powerComb_assigned]
        exact hc
      · exact hc
    have hu' : (t.modComb j (powerComb (cellTest t) (freshHum t))).supers[k] = s.supers[k] := hu
    generalize t.modComb j (powerComb (cellTest t) (freshHum t)) = v at hc' hu'
    have w : Within [.draws, .superMem, .superTree, .superKeys, .superRegs] v (powerSuper j v) := powerSuper_without rfl
    refine ⟨(w.comb_assigned k rfl).trans hc', ?_⟩
    by_cases h : j = k
    · subst h
      rw [powerSuper_on hc' (by rw [hu']; exact hp)]
      exact hu'
    · rw [TeardownProofs.powerSuper_other h]
      exact hu') _ ⟨ha, rfl⟩).2

/-! ### Configuration writes (R441) -/

section Write

variable {s : State}

theorem configWrite_stale {e : Word} {d : Die} {w : CfgWrite}
    (h : s.dies[targetDie w].crownEpoch ≠ e ∨ s.dies[targetDie w].crownDie ≠ d) : Does (.configWrite e d w) s fun t =>
    t.queen.staleWr = hit 16 s.queen.staleWr ∧ Within [.queen] s t :=
  ⟨_, congrArg Host.Outcome.next (if_neg fun hc => h.elim (fun h => h hc.1) fun h => h hc.2), rfl, rfl⟩

/-- A write that carries its target's epoch and die is applied. -/
theorem configWrite_current (w : CfgWrite) :
    exec (.configWrite s.dies[targetDie w].crownEpoch s.dies[targetDie w].crownDie w) s = .next (applyCfg w s) :=
  congrArg Host.Outcome.next (if_pos ⟨rfl, rfl⟩)

theorem partOf_assigned {k : Comb} (h : (partOf s k).isSome = true) : s.combs[k].assigned = true := by
  unfold partOf at h
  split at h
  · next hc => exact (Bool.and_eq_true_iff.mp hc).1
  · cases h

theorem loadSlot_loads {k : Super} {id : KeyId} {key : BitVec 256} (h0 : s.supers[k].slots[id].state = 0)
    (hp : (partOf s k).isSome = true) (hw : s.supers[k].powered = true) : ∃ salt, (loadSlot k id key s).supers[k] =
      { s.supers[k] with slots := upd s.supers[k].slots id fun _ => loadedSlot k id key salt } := by
  refine ⟨drawNow 256 s, ?_⟩
  unfold loadSlot
  rw [if_pos ⟨h0, hp⟩]
  have hu : (drawn (s.modSuper k fun u => { u with slots := upd u.slots id fun _ => loadedSlot k id key (drawNow 256 s) })).supers[k] =
      { s.supers[k] with slots := upd s.supers[k].slots id fun _ => loadedSlot k id key (drawNow 256 s) } := modSuper_at _ _ _
  have hc : (drawn (s.modSuper k fun u => { u with slots := upd u.slots id fun _ => loadedSlot k id key (drawNow 256 s) })).combs[k] =
      s.combs[k] := rfl
  generalize drawn (s.modSuper k fun u => { u with slots := upd u.slots id fun _ => loadedSlot k id key (drawNow 256 s) }) = v at hu hc
  rw [powerAll_powered (by rw [hc]; exact partOf_assigned hp) (by rw [hu]; exact hw)]
  exact hu

theorem loadSlot_refused {k : Super} {id : KeyId} {key : BitVec 256} (h : s.supers[k].slots[id].state ≠ 0 ∨ partOf s k = none) :
    loadSlot k id key s = logRefusal "key load" s := by
  unfold loadSlot
  refine if_neg fun hc => h.elim (fun h => h hc.1) fun h => ?_
  rw [h] at hc
  exact absurd hc.2 (by decide)

/-- A die whose fused SVN is at least v. -/
def fusedTo (v : Fin 128) (x : DieState) : DieState := { x with svn := if x.svn.toNat < v.val then BitVec.ofNat 7 v.val else x.svn }

theorem fusedTo_svn (v : Fin 128) (x : DieState) : (fusedTo v x).svn.toNat = max x.svn.toNat v.val := by
  have hv : v.val < 2 ^ 7 := v.isLt
  unfold fusedTo
  dsimp only
  split
  · rw [BitVec.toNat_ofNat, Nat.mod_eq_of_lt hv]
    omega
  · omega

theorem fuseSvn_fuses (v : Fin 128) (d : Die) : (forEach (fins 2) (fun d s => s.modDie d (fusedTo v)) s).dies[d] = fusedTo v s.dies[d] :=
  forEach_once_mem (I := fun _ => True) (g := fusedTo v) (fun t : State => t.dies[d]) (fun _ _ h => h)
    (fun t _ => modDie_at _ _ _) (fun b t hb _ => modDie_other _ _ _ _ hb) (fins_nodup 2) (mem_fins d) trivial

end Write

/-! ### A lost queen region (R446) -/

/-- The die's region, marked lost. -/
def regionMarked (d : Die) (s : State) : State := s.modDie d fun e => { e with region := false }

/-- The die's region, good as b says. -/
def regionWritten (d : Die) (b : Bool) (s : State) : State := s.modDie d fun e => { e with region := b }

theorem regionLost_eq (d : Die) (s : State) : regionLost d s = if (regionMarked d s).dies[(1 - d : Die)].region
    
    then regionWritten d (!(regionMarked d s).supers[regionSuper d].dieMark) (queenFault stIntegrityFail (regionMarked d s))
    else moduleFault stIntegrityFail 0 (regionMarked d s) := by
  unfold regionLost regionMarked regionWritten
  rfl

theorem one_sub_ne (d : Die) : d ≠ 1 - d := by
  revert d
  decide

theorem regionMarked_other (d : Die) (s : State) :
    (regionMarked d s).dies[(1 - d : Die)].region = s.dies[(1 - d : Die)].region := by
  rw [Fin.getElem_fin, regionMarked, modDie_other _ _ _ _ (one_sub_ne d)]
  rfl

theorem moduleFault_running {s : State} (hm : s.evt.modState = 0) (hb : s.boot.kind = .cold → 5 ≤ s.boot.stage.toNat) (st : Byte)
    (unit : Word) : moduleFault st unit s = moduleReset false (logFirst st unit s) := by
  unfold moduleFault
  rw [if_neg (fun hc => absurd (hb hc.1) (Nat.not_le.mpr hc.2)), if_neg (by rw [hm]; decide)]

section Region

variable {s : State} {d : Die} (hd : s.dies[d].region = true)
include hd

theorem queenRegionLoss_rewritten (ho : s.dies[(1 - d : Die)].region = true) (hs : s.evt.resetSup = none)
    (hr : ∀ p : Part, s.parts[p].recov = []) : Does (.queenRegionLoss d) s fun t =>
    t.dies[d].region = !s.supers[regionSuper d].dieMark ∧ Within [.dies] s t := by
  have hl : regionLost d s = regionWritten d (!(regionMarked d s).supers[regionSuper d].dieMark) (regionMarked d s) := by
    rw [regionLost_eq, if_pos ((regionMarked_other d s).trans ho), queenFault_calm (s := regionMarked d s) hs hr]
  have w : Within [.dies] s (regionMarked d s) := modDie_without _ _ _ _ fun _ => rfl
  have hm : (regionMarked d s).supers = s.supers := rfl
  refine ⟨_, congrArg Host.Outcome.next ((if_pos hd).trans hl), ?_⟩
  generalize regionMarked d s = u at w hm
  refine ⟨?_, w.trans (modDie_without _ _ _ _ fun _ => rfl)⟩
  unfold regionWritten
  rw [modDie_at, hm]

theorem queenRegionLoss_resets (ho : s.dies[(1 - d : Die)].region = false) (hm : s.evt.modState = 0)
    (hb : s.boot.kind = .cold → 5 ≤ s.boot.stage.toNat) : Does (.queenRegionLoss d) s fun t => t.evt.modState = 1 ∧ t.boot.stage = 0 := by
  have hl : regionLost d s = moduleReset false (logFirst stIntegrityFail 0 (regionMarked d s)) := by
    rw [regionLost_eq, if_neg (by rw [regionMarked_other d s, ho]; decide)]
    exact moduleFault_running (s := regionMarked d s) hm hb _ _
  obtain ⟨hstage, -, hstate, -⟩ := moduleReset_registers false (logFirst stIntegrityFail 0 (regionMarked d s))
  exact ⟨_, congrArg Host.Outcome.next ((if_pos hd).trans hl), hstate, hstage⟩

end Region

/-- Settles O24: a write by whether it is current; a lost region by whether the other stands. -/
theorem configurationIsGuarded : Obligations.ConfigurationIsGuarded := by
  unfold Obligations.ConfigurationIsGuarded
  intro s
  refine ⟨fun e d w h => configWrite_stale h, fun k id key h0 hp hw => ?_, fun k id key h => ?_, fun v hv hb => ?_, fun k v b => ?_,
    fun d hd ho hs hr => queenRegionLoss_rewritten hd ho hs hr, fun d hd ho hm hb => queenRegionLoss_resets hd ho hm hb⟩
  · obtain ⟨salt, hu⟩ := loadSlot_loads (key := BitVec.ofNat 256 key) h0 hp hw
    refine ⟨_, configWrite_current (.keySlotLoad k id key), ⟨salt, ?_⟩, fun j hj => ?_⟩
    · change (loadSlot k id (BitVec.ofNat 256 key) s).supers[k].slots[id] = _
      rw [hu]
      exact upd_same _ _ _
    · change (loadSlot k id (BitVec.ofNat 256 key) s).supers[k].slots[j] = _
      rw [hu]
      exact upd_other _ _ _ _ (Ne.symm hj)
  · exact ⟨_, (configWrite_current (.keySlotLoad k id key)).trans (congrArg Host.Outcome.next (loadSlot_refused h)), rfl⟩
  · refine ⟨_, (configWrite_current (.fuseSvn v)).trans (congrArg Host.Outcome.next (if_pos ⟨hv, hb⟩)), fun d => ?_, ?_⟩
    · exact (congrArg (fun x : DieState => x.svn.toNat) (fuseSvn_fuses v d)).trans (fusedTo_svn v _)
    · exact forEach_without _ _ _ _ fun _ _ => modDie_without _ _ _ _ fun _ => rfl
  · refine ⟨_, configWrite_current (.rowClip k v b), ?_, ?_, modComb_without _ _ _ _ fun _ => rfl⟩
    · exact congrArg CombState.clip (modComb_at s k _)
    · exact congrArg CombState.clipSealed (modComb_at s k _)

end Sys2Proof.CrownProofs
end

section
/-! CREATE and REMOVE of a partition (R452 to R454). -/

namespace Sys2Proof.PartitionProofs

open Sys2Proof Sys2Proof.Machine Sys2Proof.MemoryProofs Sys2Proof.JobFaultProofs Sys2Proof.PortProofs Sys2Proof.SuperProofs
  Sys2Proof.RingProofs Sys2Proof.ManagementProofs Sys2Proof.ModuleResetProofs Sys2Proof.UnitResetProofs Sys2Proof.ScalarProofs
  Sys2Proof.RecoveryProofs Sys2Proof.CrownProofs Sys2Proof.TeardownProofs

/-! ### Powering a comb (R42) -/

theorem powerComb_on {c : CombState} (h : c.assigned = true) (b : Bool) (m : Hum) : (powerComb b m c).seqPwr = true ∧
    (powerComb b m c).routerPwr = true := by
  have hs : (powerComb b m c).seqPwr = c.assigned := by
    unfold powerComb
    dsimp only
    split <;> split <;> rfl
  refine ⟨hs.trans h, ?_⟩
  unfold powerComb
  dsimp only
  rw [h]
  rfl

theorem powerComb_pbase (b : Bool) (m : Hum) (c : CombState) : (powerComb b m c).pbase = c.pbase := by
  unfold powerComb
  dsimp only
  split <;> split <;> rfl

/-- One comb and its super powered. -/
def powerUnit (j : Comb) (s : State) : State := powerSuper j (s.modComb j (powerComb (cellTest s) (freshHum s)))

theorem powerUnit_comb (j : Comb) (s : State) :
    (powerUnit j s).combs = (s.modComb j (powerComb (cellTest s) (freshHum s))).combs := by
  unfold powerUnit
  generalize s.modComb j (powerComb (cellTest s) (freshHum s)) = u
  have w : Within [.draws, .superMem, .superTree, .superKeys, .superRegs] u (powerSuper j u) := powerSuper_without rfl
  exact within_combs w (by decide)

/-- Powering leaves to which partition a comb belongs. -/
theorem powerUnit_owner (j k : Comb) (s : State) : (powerUnit j s).combs[k].assigned = s.combs[k].assigned ∧
    (powerUnit j s).combs[k].pbase = s.combs[k].pbase := by
  rw [powerUnit_comb]
  by_cases h : j = k
  · subst h
    rw [modComb_at, powerComb_assigned, powerComb_pbase]
    exact ⟨rfl, rfl⟩
  · rw [modComb_at_other s _ (Ne.symm h)]
    exact ⟨rfl, rfl⟩

theorem powerAll_owner (k : Comb) (s : State) : (powerAll s).combs[k].assigned = s.combs[k].assigned ∧
    (powerAll s).combs[k].pbase = s.combs[k].pbase :=
  forEach_invariant (f := powerUnit) (I := fun t : State => t.combs[k].assigned = s.combs[k].assigned ∧ t.combs[k].pbase = s.combs[k].pbase)
    (fun j t ht => ⟨(powerUnit_owner j k t).1.trans ht.1, (powerUnit_owner j k t).2.trans ht.2⟩) _ ⟨rfl, rfl⟩

theorem powerAll_on {k : Comb} {s : State} (ha : s.combs[k].assigned = true) :
    (powerAll s).combs[k].seqPwr = true ∧ (powerAll s).combs[k].routerPwr = true :=
  forEach_establishes_under (f := powerUnit) (I := fun t : State => t.combs[k].assigned = true)
    (P := fun j t => j = k → t.combs[k].seqPwr = true ∧ t.combs[k].routerPwr = true)
    (fun j t h => ((powerUnit_owner j k t).1.trans h))
    (fun j t h e => by
      subst e
      rw [powerUnit_comb, modComb_at]
      exact powerComb_on h _ _)
    (fun j i t h hp e => by
      by_cases hi : i = k
      · subst hi
        rw [powerUnit_comb, modComb_at]
        exact powerComb_on h _ _
      · rw [powerUnit_comb, modComb_at_other t _ (Ne.symm hi)]
        exact hp e) (mem_fins k) ha rfl

/-! ### The resets of a partition's combs reach no other partition -/

theorem eventToPart_otherPart {p q : Part} (h : q ≠ p) (ty c : Byte) (k : Comb) (d : BitVec 56) (s : State) :
    (eventToPart p ty c k d s).parts[q] = s.parts[q] := by
  have w : Within [.out, .host] s (hostPutAll (fnOf p) (evOut (fnOf p) s.parts[p].evq ty c k (humNs s k) (beatOf s k) d) s) :=
    hostPutAll_without rfl
  unfold eventToPart
  generalize hostPutAll (fnOf p) (evOut (fnOf p) s.parts[p].evq ty c k (humNs s k) (beatOf s k) d) s = u at w ⊢
  exact (modPart_other u p q _ (Ne.symm h)).trans (w.part q)

theorem postEvent_otherPart {p q : Part} (h : q ≠ p) (ty c : Byte) (k : Comb) (d : BitVec 56) (s : State) :
    (postEvent p ty c k d s).parts[q] = s.parts[q] := by
  have w : Within [.out, .host, .mod] (eventToPart p ty c k d s) (postEvent p ty c k d s) := eventToPf0_without rfl
  exact (w.part q).trans (eventToPart_otherPart h ..)

/-- A reseed of a comb of partition p warns that partition and PF0 only. -/
theorem reseed_otherPart {k : Comb} {p q : Part} {s : State} (hp : partOf s k = some p) (hq : q ≠ p) :
    (reseed k none s).parts[q] = s.parts[q] := by
  unfold reseed
  split
  · rfl
  · have hp' : partOf (s.modComb k fun c => { c with rng := { c.rng with skip := hit 16 c.rng.skip } }) k = some p := by
      rw [← hp]
      exact partOf_modComb (fun _ => rfl) fun _ => rfl
    have hs : (s.modComb k fun c => { c with rng := { c.rng with skip := hit 16 c.rng.skip } }).parts = s.parts := rfl
    unfold skipReseed
    dsimp only
    generalize (s.modComb k fun c => { c with rng := { c.rng with skip := hit 16 c.rng.skip } }) = u at hp' hs ⊢
    rw [hp']
    exact (postEvent_otherPart hq ..).trans (by rw [hs])

theorem resetCombDomain_otherPart {k : Comb} {p q : Part} {s : State} (hp : partOf s k = some p) (hq : q ≠ p) :
    (resetCombDomain k s).parts[q] = s.parts[q] := by
  have hp' : partOf (s.modComb k resetCombState) k = some p := by
    rw [← hp]
    exact partOf_modComb (fun _ => rfl) fun _ => rfl
  exact reseed_otherPart hp' hq

theorem combResets_otherPart {p q : Part} (hq : q ≠ p) {l : List Comb} {s : State} (hp : ∀ k ∈ l, partOf s k = some p) :
    (forEach l resetCombDomain s).parts[q] = s.parts[q] := by
  induction l generalizing s with
  | nil => rfl
  | cons a r ih =>
    have w : Within [.out, .host, .draws, .seq, .cellMem, .cellRun, .combRegs, .combMem, .evq, .mod] s (resetCombDomain a s) :=
      resetCombDomain_without rfl
    refine (ih fun k hk => ?_).trans (resetCombDomain_otherPart (hp a List.mem_cons_self) hq)
    rw [within_partOf w rfl rfl]
    exact hp k (List.mem_cons_of_mem _ hk)

/-- Resets leave what waits at a comb's sequencer. -/
theorem combResets_waiting (l : List Comb) (k : Comb) (s : State) :
    ((forEach l resetCombDomain s).combs[k].seq.waiting, (forEach l resetCombDomain s).combs[k].seq.progNo) =
      (s.combs[k].seq.waiting, s.combs[k].seq.progNo) :=
  forEach_keeps (fun t : State => (t.combs[k].seq.waiting, t.combs[k].seq.progNo)) l _ s fun j t => by
    obtain ⟨hseq, -⟩ := reseed_comb j (t.modComb j resetCombState) k
    unfold resetCombDomain
    rw [hseq]
    by_cases h : j = k
    · subst h
      rw [modComb_at]
      rfl
    · rw [modComb_at_other t _ (Ne.symm h)]

/-! ### CREATE (R453) -/

theorem partOf_owner {s : State} {k : Comb} {p : Part} (ha : s.combs[k].assigned = true) (hb : s.combs[k].pbase = p)
    (hl : s.parts[p].live = true) : partOf s k = some p := by
  subst hb
  unfold partOf
  rw [ha, hl]
  rfl

theorem within_comb_power {m : List Piece} {s t : State} (w : Within m s t) (k : Comb) (h : m.contains .combMap = false) :
    t.combs[k].seqPwr = s.combs[k].seqPwr ∧ t.combs[k].routerPwr = s.combs[k].routerPwr := by
  have hs := congrArg CombState.seqPwr (w.comb k)
  have hr := congrArg CombState.routerPwr (w.comb k)
  simp only [CombState.without, h, Bool.false_eq_true, if_false] at hs hr
  exact ⟨hs, hr⟩

/-- A comb given to partition p. -/
def givenTo (p : Part) (n : BitVec 2) (c : CombState) : CombState := { c with assigned := true, psize := n, pbase := p }

/-- The state whose combs of a list belong to partition p, new and live. -/
def formed (p : Part) (n : BitVec 2) (ks : List Comb) (s : State) : State :=
  (forEach ks (fun k s => s.modComb k (givenTo p n)) s).modPart p fun q => { live := true, psize := n, energy := q.energy, peak := q.peak }

theorem formed_owner {p : Part} {n : BitVec 2} {ks : List Comb} {k : Comb} (hk : k ∈ ks) (s : State) :
    (formed p n ks s).combs[k].assigned = true ∧ (formed p n ks s).combs[k].pbase = p :=
  forEach_establishes (f := fun (k : Comb) (s : State) => s.modComb k (givenTo p n))
    (P := fun (k : Comb) (t : State) => t.combs[k].assigned = true ∧ t.combs[k].pbase = p)
    (fun k t => by
      rw [modComb_at]
      exact ⟨rfl, rfl⟩)
    (fun k j t h => by
      by_cases hj : j = k
      · subst hj
        rw [modComb_at]
        exact ⟨rfl, rfl⟩
      · rw [modComb_at_other t _ (Ne.symm hj)]
        exact h) hk s

theorem formed_frame (p : Part) (n : BitVec 2) (ks : List Comb) (s : State) :
    (∀ k : Comb, (formed p n ks s).combs[k].seq = s.combs[k].seq) ∧
    (formed p n ks s).parts[p] = { live := true, psize := n, energy := s.parts[p].energy, peak := s.parts[p].peak } ∧
    (∀ q : Part, q ≠ p → (formed p n ks s).parts[q] = s.parts[q]) ∧ (formed p n ks s).queen = s.queen := by
  have w : Within [.combMap] s (forEach ks (fun k s => s.modComb k (givenTo p n)) s) :=
    forEach_without _ _ _ _ fun _ _ => modComb_without _ _ _ _ fun _ => rfl
  unfold formed
  generalize forEach ks (fun k s => s.modComb k (givenTo p n)) s = u at w ⊢
  have hp : ∀ q : Part, u.parts[q] = s.parts[q] := fun q => w.part q
  refine ⟨fun k => w.comb_seq k rfl, ?_, fun q hq => ?_, w.queen_eq rfl⟩
  · rw [modPart_at, hp]
  · exact (modPart_other u p q _ (Ne.symm hq)).trans (hp q)

theorem makePartition_eq (p : Part) (n : BitVec 2) (s : State) : makePartition p n s =
    setLinks (formCombs p n) true (forEach (formCombs p n) resetCombDomain (powerAll (formed p n (formCombs p n) s))) := rfl

theorem makePartition_makes {p : Part} {n : BitVec 2} {s t : State} (ht : makePartition p n s = t) :
    t.parts[p].live = true ∧ t.parts[p].psize = n ∧ t.parts[p].ctx = {} ∧ t.queen = s.queen ∧
    (∀ k ∈ formCombs p n, inPart t p k = true ∧ t.combs[k].seqPwr = true ∧ t.combs[k].routerPwr = true ∧
      t.combs[k].seq = { waiting := s.combs[k].seq.waiting, progNo := s.combs[k].seq.progNo } ∧ t.combs[k].store = []) ∧
    (∀ q : Part, q ≠ p → t.parts[q] = s.parts[q]) := by
  rw [makePartition_eq] at ht
  have howner := fun (k : Comb) (hk : k ∈ formCombs p n) => formed_owner (p := p) (n := n) hk s
  obtain ⟨hseq, hp, hq, hqueen⟩ := formed_frame p n (formCombs p n) s
  generalize formed p n (formCombs p n) s = u at ht howner hseq hp hq hqueen
  have wp : Within [.draws, .combMap, .hum, .combRegs, .router, .superMem, .superTree, .superKeys, .superRegs] u (powerAll u) :=
    powerAll_without rfl
  have hon := fun (k : Comb) (hk : k ∈ formCombs p n) => powerAll_on (howner k hk).1
  have hown := fun k => powerAll_owner k u
  generalize powerAll u = v at ht wp hon hown
  have hlive : v.parts[p].live = true := by
    rw [wp.part_live p rfl, hp]
  have hpart : ∀ k ∈ formCombs p n, partOf v k = some p := fun k hk => by
    obtain ⟨ha, hb⟩ := howner k hk
    exact partOf_owner ((hown k).1.trans ha) ((hown k).2.trans hb) hlive
  have wr := combResets_within (formCombs p n) v
  have hother := fun (q : Part) (h : q ≠ p) => combResets_otherPart h hpart
  have hwait := fun k => combResets_waiting (formCombs p n) k v
  have hreset := fun (k : Comb) (hk : k ∈ formCombs p n) => combResets_done hk v
  generalize forEach (formCombs p n) resetCombDomain v = x at ht wr hother hwait hreset
  have wl : Within [.mod] x t := ht ▸ setLinks_without rfl
  have wxt : Within [.out, .host, .draws, .seq, .cellMem, .cellRun, .combRegs, .combMem, .evq, .mod] v t :=
    wr.trans (wl.mono rfl)
  refine ⟨?_, ?_, ?_, ?_, fun k hk => ⟨?_, ?_, ?_, ?_, ?_⟩, fun q h => ?_⟩
  · rw [wxt.part_live p rfl, hlive]
  · rw [wxt.part_psize p rfl, wp.part_psize p rfl, hp]
  · rw [wxt.part_ctx p rfl, wp.part_ctx p rfl, hp]
  · rw [wxt.queen_eq rfl, wp.queen_eq rfl, hqueen]
  · unfold inPart
    rw [wxt.part_live p rfl, hlive, wxt.comb_assigned k rfl, wxt.comb_pbase k rfl, (hown k).1, (hown k).2, (howner k hk).1,
      (howner k hk).2]
    simp
  · exact (within_comb_power wxt k rfl).1.trans (hon k hk).1
  · exact (within_comb_power wxt k rfl).2.trans (hon k hk).2
  · obtain ⟨hw1, hw2⟩ := Prod.mk.inj (hwait k)
    rw [wl.comb_seq k rfl, (hreset k hk).1, hw1, hw2, wp.comb_seq k rfl, hseq]
  · rw [wl.comb_store k rfl]
    exact (hreset k hk).2
  · have hl : t.parts[q] = x.parts[q] := wl.part q
    have hv : v.parts[q] = u.parts[q] := wp.part q
    rw [hl, hother q h, hv, hq q h]

section Create

variable {s : State} (hs : queensServe s = true) (p : Part) (n : BitVec 2)
include hs

/-- CREATE where no other command of the queen runs. -/
theorem effCreate_free (hb : s.queen.cmdBusy = false) : effCreate p n s =
    if createErr s p n ≠ 0 then partErr (createErr s p n) s else makePartition p n (partErr 0 s) := by
  unfold effCreate
  rw [hs, hb]
  rfl

theorem effCreate_busy (hb : s.queen.cmdBusy = true) : effCreate p n s = partErr 6 s := by
  unfold effCreate
  rw [hs, hb]
  rfl

end Create

/-! ### REMOVE (R454) -/

/-- The state in which a REMOVE has begun. -/
def removeBegun (p : Part) (s : State) : State :=
  tdiError (fnOf p) ((startPartCmd 2 p s).modPart p fun q => { q with removing := true })

theorem removeBegun_frame (p : Part) (s : State) : (removeBegun p s).queen.cmdBusy = true ∧
    (removeBegun p s).parts[p] = { s.parts[p] with busyCmd := 2, removing := true } ∧
    (removeBegun p s).combs = s.combs ∧ (removeBegun p s).supers = s.supers := by
  refine ⟨rfl, ?_, rfl, rfl⟩
  have w : ∀ u : State, (tdiError (fnOf p) u).parts = u.parts := fun _ => rfl
  have hb : (startPartCmd 2 p s).parts[p] = { s.parts[p] with busyCmd := 2 } := modPart_at _ _ _
  unfold removeBegun
  rw [w]
  generalize startPartCmd 2 p s = u at hb ⊢
  rw [modPart_at, hb]

/-- What one ring's stop says of a ring that was enabled: it is still, and it is STOPPED where it was its own. -/
theorem stopRing_step {p : Part} {r : Ring} {t : State} (h : t.parts[p].rings[r].enable = true) (i : Ring) (st : Byte) (x : Word)
    (y : BitVec 56) (k : Comb) (dom : BitVec 4) :
    (t.modRing p i fun g => g.stop st x y k dom).parts[p].rings[r].enable = true ∧
    (i = r ∨ t.parts[p].rings[r].state = 3 → (t.modRing p i fun g => g.stop st x y k dom).parts[p].rings[r].state = 3) := by
  by_cases e : i = r
  · subst e
    rw [modRing_at]
    exact ⟨h, fun _ => if_pos h⟩
  · rw [modRing_at_other _ _ _ (Ne.symm e)]
    exact ⟨h, fun hs => hs.resolve_left e⟩

/-- An enabled ring that stops is STOPPED. -/
theorem stopRings_stopped {p : Part} {r : Ring} {s : State} (he : s.parts[p].rings[r].enable = true) (st : Byte) (x : Word)
    (y : BitVec 56) (dom : BitVec 4) : (stopRings p (fins 16) st x y dom s).parts[p].rings[r].state = 3 :=
  forEach_establishes_under (I := fun t : State => t.parts[p].rings[r].enable = true)
    (P := fun (i : Ring) (t : State) => i = r → t.parts[p].rings[r].state = 3)
    (f := fun r s => s.modRing p r fun g => g.stop st x y (serving s p r) dom)
    (fun i _ h => (stopRing_step h i ..).1) (fun i _ h e => (stopRing_step h i ..).2 (.inl e))
    (fun _ j _ h hp e => (stopRing_step h j ..).2 (.inr (hp e))) (mem_fins r) he rfl

theorem modPart_removing {f : PartState → PartState} (hf : ∀ x, (f x).removing = x.removing) (p q : Part) (s : State) :
    (s.modPart p f).parts[q].removing = s.parts[q].removing := by
  simp only [Fin.getElem_fin, modPart_get]
  split
  · exact hf _
  · rfl

/-- The end of a checkpoint and of a restore leave whether a REMOVE runs. -/
theorem orphanCkpt_removing (p q : Part) (st : Byte) (s : State) : (orphanCkpt p st s).parts[q].removing = s.parts[q].removing := by
  unfold orphanCkpt
  split
  · rfl
  · dsimp only
    split
    · exact modPart_removing (by exact fun _ => rfl) p q s
    · exact (Within.part_removing (m := [.out, .host, .evq, .mod]) (postEvent_without rfl) q rfl).trans
        (modPart_removing (by exact fun _ => rfl) p q s)

theorem dropRestore_removing (p q : Part) (s : State) : (dropRestore p s).parts[q].removing = s.parts[q].removing := by
  unfold dropRestore
  split
  · rfl
  · exact (Within.part_removing (m := [.draws, .superMem, .superTree]) (undefinePlan_without rfl) q rfl).trans
      (modPart_removing (by exact fun _ => rfl) p q s)

theorem stopWhole_removing (p q : Part) (st : Byte) (x : Word) (y : BitVec 56) (dom : BitVec 4) (s : State) :
    (stopWhole p st x y dom s).parts[q].removing = s.parts[q].removing := by
  unfold stopWhole
  dsimp only
  have hhalt : Within [.draws, .seq, .cellMem, .cellRun, .combMem, .ctx] s (forEach (combsOf s p) (fun k s => haltComb k s) s) :=
    forEach_without _ _ _ _ fun _ _ => haltComb_without rfl
  generalize forEach (combsOf s p) (fun k s => haltComb k s) s = t at hhalt ⊢
  have hstop : Within [.seq, .hild, .ctx, .rings] t (stopRings p (fins 16) st x y dom (stopIssue (combsOf t p) t)) :=
    Eq.trans (stopRings_without rfl) (stopIssue_without rfl)
  generalize stopRings p (fins 16) st x y dom (stopIssue (combsOf t p) t) = v at hstop ⊢
  have hclear : Within [.hum] (dropRestore p (orphanCkpt p st v)) (clearActive p (dropRestore p (orphanCkpt p st v))) :=
    clearActive_without rfl
  generalize hu : clearActive p (dropRestore p (orphanCkpt p st v)) = u at hclear ⊢
  rw [modPart_removing (by exact fun _ => rfl), hclear.part_removing q rfl, dropRestore_removing, orphanCkpt_removing, hstop.part_removing q rfl,
    hhalt.part_removing q rfl]

theorem beginTeardown_removing (p q : Part) (s : State) : (beginTeardown p s).parts[q].removing = s.parts[q].removing := by
  unfold beginTeardown
  split
  · rfl
  · have hsa : Within [.ctx, .router] s (raiseAlarm p p 0x08 (s.modCtx p fun c => { c with state := 3 })) :=
      Eq.trans (raiseAlarm_without rfl) (modCtx_without _ _ _ _ rfl)
    dsimp only
    generalize raiseAlarm p p 0x08 (s.modCtx p fun c => { c with state := 3 }) = a at hsa ⊢
    have hw := stopWhole_removing p q stResetAborted 8 0 domTeardown a
    generalize stopWhole p stResetAborted 8 0 domTeardown a = u at hw ⊢
    have hsmokes : Within [.rings] u (forEach u.parts[p].recov (fun o s => abortSmokes o domTeardown s) u) :=
      forEach_without _ _ _ _ fun _ _ => abortSmokes_without rfl
    exact (modPart_removing (by exact fun _ => rfl) p q _).trans ((hsmokes.part_removing q rfl).trans (hw.trans (hsa.part_removing q rfl)))

section Remove

variable {s : State} {p : Part} (hs : queensServe s = true) (hb : s.queen.cmdBusy = false) (hl : s.parts[p].live = true)
include hs hb hl

theorem effRemove_begins : effRemove p s = if (removeBegun p s).parts[p].ctx.state = 0
    then stopRings p (fins 16) stResetAborted 8 0 domTeardown (removeBegun p s) else beginTeardown p (removeBegun p s) := by
  unfold effRemove
  rw [hs, hb, hl]
  rfl

/-- REMOVE of a partition without a context stops its rings. -/
theorem partitionRemove_unbound (hc : s.parts[p].ctx.state = 0) : Does (.partitionRemove p) s fun t =>
    t.queen.cmdBusy = true ∧ t.parts[p].removing = true ∧ t.parts[p].ctx = s.parts[p].ctx ∧
    (∀ r : Ring, s.parts[p].rings[r].enable = true → t.parts[p].rings[r].state = 3) ∧ t.combs = s.combs ∧ t.supers = s.supers := by
  refine ⟨_, congrArg Host.Outcome.next (effRemove_begins hs hb hl), ?_⟩
  obtain ⟨hbusy, hpart, hcombs, hsupers⟩ := removeBegun_frame p s
  generalize removeBegun p s = u at hbusy hpart hcombs hsupers ⊢
  rw [if_pos (by rw [hpart]; exact hc)]
  have w : Within [.rings] u (stopRings p (fins 16) stResetAborted 8 0 domTeardown u) := stopRings_without rfl
  have hstop := fun (r : Ring) (h : u.parts[p].rings[r].enable = true) => stopRings_stopped h stResetAborted 8 0 domTeardown
  generalize stopRings p (fins 16) stResetAborted 8 0 domTeardown u = t at w hstop
  refine ⟨?_, ?_, ?_, fun r hr => hstop r (by rw [hpart]; exact hr), (within_combs w (by decide)).trans hcombs,
    (Vector.ext fun i hi => w.super ⟨i, hi⟩ : t.supers = u.supers).trans hsupers⟩
  · rw [w.queen_eq rfl]
    exact hbusy
  · rw [w.part_removing p rfl, hpart]
  · rw [w.part_ctx p rfl, hpart]

/-- REMOVE of a partition with a context begins the context's teardown. -/
theorem partitionRemove_bound (hc : s.parts[p].ctx.state = 2) (hr : s.parts[p].recov = []) : Does (.partitionRemove p) s fun t =>
    t.queen.cmdBusy = true ∧ t.parts[p].removing = true ∧ t.parts[p].ctx.state = 3 ∧ t.parts[p].stopped = true ∧
      ∃ r, t.parts[p].recov = [r] ∧ r.teardown = true ∧ r.domain = 8 := by
  refine ⟨_, congrArg Host.Outcome.next (effRemove_begins hs hb hl), ?_⟩
  obtain ⟨hbusy, hpart, -, -⟩ := removeBegun_frame p s
  generalize removeBegun p s = u at hbusy hpart ⊢
  rw [if_neg (by rw [hpart, hc]; decide)]
  obtain ⟨hctx, hstop, -, hrec⟩ := beginTeardown_tearsDown (p := p) (s := u) (by rw [hpart]; exact .inr hc) (by rw [hpart]; exact hr)
  have hq : (beginTeardown p u).queen = u.queen := Within.queen_eq (beginTeardown_without (M := [.out, .host, .draws, .hum, .seq,
    .cellMem, .cellRun, .combMem, .router, .superMem, .superTree, .hild, .ctx, .rings, .evq, .partRegs, .mod]) rfl) rfl
  have hrem := beginTeardown_removing p p u
  generalize beginTeardown p u = t at hctx hstop hrec hq hrem
  refine ⟨?_, ?_, hctx, hstop, hrec⟩
  · rw [hq]
    exact hbusy
  · rw [hrem, hpart]

end Remove

/-! ### The end of a REMOVE: its combs are free (R454) -/

theorem within_part_meter {m : List Piece} {s t : State} (w : Within m s t) (p : Part) (h : m.contains .partRegs = false) :
    t.parts[p].energy = s.parts[p].energy ∧ t.parts[p].peak = s.parts[p].peak := by
  have he := congrArg PartState.energy (w.part p)
  have hp := congrArg PartState.peak (w.part p)
  simp only [PartState.without, h, Bool.false_eq_true, if_false] at he hp
  exact ⟨he, hp⟩

/-- What of comb k and its Hild unit a release sets. -/
def combAndHild (k : Comb) (t : State) : Bool × Tab Byte × Seq × Hild :=
  (t.combs[k].assigned, t.combs[k].store, t.combs[k].seq, t.supers[k].hild)

theorem releaseComb_own (k : Comb) (s : State) : combAndHild k (releaseComb k s) =
    (false, [], {}, { rounding := s.supers[k].hild.rounding, noise := s.supers[k].hild.noise }) := by
  unfold combAndHild releaseComb
  simp [resetCombState, zeroStores]

theorem releaseComb_other {j k : Comb} (h : j ≠ k) (s : State) : combAndHild k (releaseComb j s) = combAndHild k s := by
  have hc : (releaseComb j s).combs[k] = s.combs[k] := by
    unfold releaseComb
    dsimp only
    rw [modHild_combs]
    exact (modRouter_other _ j k _ h).trans ((modHum_other _ j k _ h).trans (modComb_other s j k _ h))
  have hu : (releaseComb j s).supers[k] = s.supers[k] := modHild_other _ j k _ h
  unfold combAndHild
  rw [hc, hu]

theorem releaseCombs_release {l : List Comb} (hn : l.Nodup) {k : Comb} (hk : k ∈ l) (s : State) :
    combAndHild k (forEach l releaseComb s) =
      (false, [], {}, { rounding := s.supers[k].hild.rounding, noise := s.supers[k].hild.noise }) :=
  forEach_once_mem (I := fun _ => True) (combAndHild k)
    (g := fun x => (false, [], {}, { rounding := x.2.2.2.rounding, noise := x.2.2.2.noise })) (fun _ _ h => h)
    (fun t _ => releaseComb_own k t) (fun _ t h _ => releaseComb_other h t) hn hk trivial

/-- The state whose combs of partition p are out of every partition. -/
def combsReleased (p : Part) (s : State) : State := forEach (combsOf s p) releaseComb (setLinks (combsOf s p) false (flushRings p s))

/-- The queens without the REMOVE of partition p. -/
def withoutRemove (p : Part) (q : Queen) : Queen :=
  { q with cmdBusy := false, journal := q.journal.filter fun e => !(decide (e.part = p) && decide (e.op = 2)) }

theorem dropPartition_eq (p : Part) (s : State) : dropPartition p s =
    powerAll (((combsReleased p s).modPart p fun q => { energy := q.energy, peak := q.peak }).modQueen (withoutRemove p)) := rfl

theorem combsReleased_frame (p : Part) (s : State) : (∀ k, inPart s p k = true → combAndHild k (combsReleased p s) =
      (false, [], {}, { rounding := s.supers[k].hild.rounding, noise := s.supers[k].hild.noise })) ∧
    (combsReleased p s).parts[p].energy = s.parts[p].energy ∧ (combsReleased p s).parts[p].peak = s.parts[p].peak := by
  have w : Within [.out, .host, .seq, .rings, .sems, .mod] s (setLinks (combsOf s p) false (flushRings p s)) :=
    Eq.trans (setLinks_without rfl) (flushRings_without rfl)
  unfold combsReleased
  generalize setLinks (combsOf s p) false (flushRings p s) = u at w ⊢
  have wr : Within [.combMap, .hum, .seq, .cellMem, .cellRun, .combRegs, .combMem, .router, .hild] u (forEach (combsOf s p) releaseComb u) :=
    forEach_without _ _ _ _ fun _ _ => releaseComb_without rfl
  have hr := fun k (hk : inPart s p k = true) => releaseCombs_release (combsOf_nodup s p) (mem_combsOf.mpr hk) u
  generalize forEach (combsOf s p) releaseComb u = v at wr hr ⊢
  have hh : ∀ k : Super, u.supers[k].hild = s.supers[k].hild := fun k => congrArg SuperState.hild (w.super k)
  refine ⟨fun k hk => (hr k hk).trans (by rw [hh k]), ?_, ?_⟩
  · exact (within_part_meter wr p rfl).1.trans (within_part_meter w p rfl).1
  · exact (within_part_meter wr p rfl).2.trans (within_part_meter w p rfl).2

/-- A partition whose slots are EMPTY and whose context is gone ends, and its combs are free. -/
theorem dropPartition_frees {p : Part} {s t : State} (ht : dropPartition p s = t) :
    t.parts[p] = { energy := s.parts[p].energy, peak := s.parts[p].peak } ∧ t.queen.cmdBusy = false ∧
    ∀ k, inPart s p k = true → t.combs[k].assigned = false ∧ t.combs[k].store = [] ∧ t.combs[k].seq = {} ∧
      t.supers[k].hild = { rounding := s.supers[k].hild.rounding, noise := s.supers[k].hild.noise } := by
  rw [dropPartition_eq] at ht
  obtain ⟨hfree, he, hp⟩ := combsReleased_frame p s
  generalize combsReleased p s = u at ht hfree he hp
  have hpart : ((u.modPart p fun q => { energy := q.energy, peak := q.peak }).modQueen (withoutRemove p)).parts[p] =
      { energy := s.parts[p].energy, peak := s.parts[p].peak } := by
    rw [State.modQueen, modPart_at, he, hp]
  have hq : ((u.modPart p fun q => { energy := q.energy, peak := q.peak }).modQueen (withoutRemove p)).queen.cmdBusy = false := rfl
  have hc : ∀ k, combAndHild k ((u.modPart p fun q => { energy := q.energy, peak := q.peak }).modQueen (withoutRemove p)) =
      combAndHild k u := fun _ => rfl
  generalize (u.modPart p fun q => { energy := q.energy, peak := q.peak }).modQueen (withoutRemove p) = v at ht hpart hq hc
  have w : Within [.draws, .combMap, .hum, .combRegs, .router, .superMem, .superTree, .superKeys, .superRegs] v t :=
    ht ▸ powerAll_without rfl
  have ho := fun k => powerAll_owner k v
  rw [ht] at ho
  refine ⟨(w.part p).trans hpart, ?_, fun k hk => ?_⟩
  · rw [w.queen_eq rfl]
    exact hq
  · obtain ⟨ha, hst, hseq, hh⟩ : _ ∧ _ ∧ _ ∧ _ := by simpa only [combAndHild, Prod.mk.injEq] using (hc k).trans (hfree k hk)
    exact ⟨(ho k).1.trans ha, (w.comb_store k rfl).trans hst, (w.comb_seq k rfl).trans hseq,
      (congrArg SuperState.hild (w.super k)).trans hh⟩

/-- Settles O25: CREATE by what it makes, REMOVE by whether a context is there, and its end by what it frees. -/
theorem partitionsComeAndGo : Obligations.PartitionsComeAndGo := by
  unfold Obligations.PartitionsComeAndGo
  intro s p hs
  refine ⟨fun n hb he => ?_, fun n hb he => ?_, fun hb => ?_, fun hb hl hc => partitionRemove_unbound hs hb hl hc,
    fun hb hl hc hr => partitionRemove_bound hs hb hl hc hr, fun hrm hc ht he => ?_⟩
  · obtain ⟨hlive, hsize, hctx, hq, hcombs, hothers⟩ := makePartition_makes (t := makePartition p n (partErr 0 s)) rfl
    have hc : effCreate p n s = makePartition p n (partErr 0 s) := (effCreate_free hs p n hb).trans (if_neg (not_not.mpr he))
    exact ⟨_, congrArg Host.Outcome.next hc, hlive, hsize, hctx, congrArg Queen.cmdErr hq, hcombs, hothers⟩
  · exact ⟨_, congrArg Host.Outcome.next ((effCreate_free hs p n hb).trans (if_pos he)), rfl, rfl⟩
  · exact ⟨_, congrArg Host.Outcome.next (effCreate_busy hs p 0 hb), rfl, rfl⟩
  · refine ⟨_, congrArg Host.Outcome.next (if_pos ⟨hrm, hc, ?_, he⟩), dropPartition_frees rfl⟩
    rw [ht]
    rfl


end Sys2Proof.PartitionProofs
end

section
/-! BIND, KEY, the debug challenge and unlock, and the measurements (R457 to R468, R475 to R479). -/

namespace Sys2Proof.TrustProofs

open Sys2Proof Sys2Proof.Machine Sys2Proof.MemoryProofs Sys2Proof.JobFaultProofs Sys2Proof.PortProofs Sys2Proof.SuperProofs
  Sys2Proof.RingProofs Sys2Proof.ManagementProofs Sys2Proof.ModuleResetProofs Sys2Proof.UnitResetProofs Sys2Proof.ScalarProofs
  Sys2Proof.RecoveryProofs Sys2Proof.CrownProofs Sys2Proof.TeardownProofs Sys2Proof.PartitionProofs

/-! ### Powering changes no tenant's key slot (R338) -/

/-- A super that wakes. -/
theorem wakeSuper_slot {k : Super} {id : KeyId} (h : id ≠ 0) (s : State) :
    (wakeSuper k s).supers[k].slots[id] = s.supers[k].slots[id] := by
  have hk : ∀ t : State, (keySuperLink k t).supers[k].slots = t.supers[k].slots := fun t => by
    have w : Within [.draws, .superRegs] t (keySuperLink k t) := keySuperLink_without rfl
    exact (congrArg SuperState.slots (w.super k) :)
  unfold wakeSuper
  dsimp only
  rw [hk]
  have hm := modSuper_at s k fun u => { formatTree u with
    powered := true, state := 0, tree := 0, kTree := (drawNow 512 s).extractLsb' 0 256, kPoison := (drawNow 512 s).extractLsb' 256 256
    slots := upd u.slots 0 fun _ => loadedSlot k 0 (qregKey s.boot.cdi1) (drawNow 256 (drawn s)) }
  exact (congrArg (fun u : SuperState => u.slots[id]) hm).trans (upd_other _ _ _ _ (Ne.symm h))

theorem powerSuper_slot {id : KeyId} (h : id ≠ 0) (j k : Super) (s : State) :
    (powerSuper j s).supers[k].slots[id] = s.supers[k].slots[id] := by
  by_cases hj : j = k
  · subst hj
    unfold powerSuper
    dsimp only
    split
    · exact wakeSuper_slot h s
    · split
      · have hm := modSuper_at s j superOff
        exact (congrArg (fun u : SuperState => u.slots[id]) hm).trans ((superOff_keepsStored _).2 id (Fin.pos_of_ne_zero h))
      · rfl
  · rw [powerSuper_other hj]

theorem powerAll_slot {id : KeyId} (h : id ≠ 0) (k : Super) (s : State) :
    (powerAll s).supers[k].slots[id] = s.supers[k].slots[id] :=
  forEach_keeps (fun t : State => t.supers[k].slots[id]) _ powerUnit s fun j t => by
    unfold powerUnit
    rw [powerSuper_slot h]
    rfl

/-! ### Keys loaded on every super of a partition (R337, R467) -/

/-- Comb k is partition p's, which lives. -/
def Belongs (p : Part) (k : Comb) (s : State) : Prop :=
  s.combs[k].assigned = true ∧ s.combs[k].pbase = p ∧ s.parts[p].live = true

theorem belongs_iff {p : Part} {k : Comb} {s : State} : Belongs p k s ↔ inPart s p k = true := by
  simp only [Belongs, inPart, Bool.and_eq_true, decide_eq_true_eq]
  constructor
  · rintro ⟨ha, hb, hl⟩
    exact ⟨⟨hl, ha⟩, hb⟩
  · rintro ⟨⟨hl, ha⟩, hb⟩
    exact ⟨ha, hb, hl⟩

/-- A key loaded or refused changes no comb's partition. -/
theorem loadSlot_belongs {p : Part} {k : Comb} {s : State} (j : Super) (id : KeyId) (key : BitVec 256) (h : Belongs p k s) :
    Belongs p k (loadSlot j id key s) := by
  unfold loadSlot
  split
  · have hv : Belongs p k (drawn (s.modSuper j fun u => { u with slots := upd u.slots id fun _ => loadedSlot j id key (drawNow 256 s) })) := h
    generalize drawn (s.modSuper j fun u => { u with slots := upd u.slots id fun _ => loadedSlot j id key (drawNow 256 s) }) = v at hv ⊢
    obtain ⟨ha, hb, hl⟩ := hv
    obtain ⟨hpa, hpb⟩ := powerAll_owner k v
    have w : Within [.draws, .combMap, .hum, .combRegs, .router, .superMem, .superTree, .superKeys, .superRegs] v (powerAll v) :=
      powerAll_without rfl
    exact ⟨hpa.trans ha, hpb.trans hb, (w.part_live p rfl).trans hl⟩
  · exact h

/-- A key slot's state after a load: an EMPTY slot is loaded, any other stays. -/
def loadedState (x : BitVec 2) : BitVec 2 := if x = 0 then 1 else x

theorem loadSlot_own {p : Part} {k : Super} {id : KeyId} (h : id ≠ 0) {s : State} (hp : Belongs p k s) (key : BitVec 256) :
    (loadSlot k id key s).supers[k].slots[id].state = loadedState s.supers[k].slots[id].state := by
  obtain ⟨ha, hb, hl⟩ := hp
  unfold loadSlot loadedState
  by_cases h0 : s.supers[k].slots[id].state = 0
  · rw [if_pos ⟨h0, by rw [partOf_owner ha hb hl]; rfl⟩, if_pos h0, powerAll_slot h]
    have hm := modSuper_at s k fun u => { u with slots := upd u.slots id fun _ => loadedSlot k id key (drawNow 256 s) }
    refine (congrArg (fun u : SuperState => u.slots[id].state) hm).trans ?_
    exact congrArg Slot.state (upd_same s.supers[k].slots id fun _ => loadedSlot k id key (drawNow 256 s))
  · rw [if_neg fun hc => h0 hc.1, if_neg h0]
    rfl

theorem loadSlot_other {j k : Super} (hj : j ≠ k) {id : KeyId} (h : id ≠ 0) (s : State) (key : BitVec 256) :
    (loadSlot j id key s).supers[k].slots[id].state = s.supers[k].slots[id].state := by
  unfold loadSlot
  split
  · rw [powerAll_slot h]
    exact congrArg (fun u : SuperState => u.slots[id].state) (modSuper_other s j k _ hj)
  · rfl

theorem loadAll_state {p : Part} {k : Super} {id : KeyId} (h : id ≠ 0) {s : State} (hk : inPart s p k = true) (key : BitVec 256) :
    (loadAll p id key s).supers[k].slots[id].state = loadedState s.supers[k].slots[id].state :=
  forEach_once_mem (I := Belongs p k) (fun t : State => t.supers[k].slots[id].state) (g := loadedState)
    (fun j t ht => loadSlot_belongs j id key ht) (fun t ht => loadSlot_own h ht key)
    (fun j t hj _ => loadSlot_other hj h t key) (combsOf_nodup s p) (mem_combsOf.mpr hk) (belongs_iff.mpr hk)

/-- A key loaded or refused counts no refused manifest and no refused envelope. -/
theorem loadSlot_rejects (k : Super) (id : KeyId) (key : BitVec 256) (s : State) :
    ((loadSlot k id key s).queen.manRej, (loadSlot k id key s).queen.envRej) = (s.queen.manRej, s.queen.envRej) := by
  unfold loadSlot
  split
  · have w : ∀ v, Within [.draws, .combMap, .hum, .combRegs, .router, .superMem, .superTree, .superKeys, .superRegs] v (powerAll v) :=
      fun _ => powerAll_without rfl
    rw [(w _).queen_eq rfl]
    rfl
  · rfl

theorem loadAll_rejects (p : Part) (id : KeyId) (key : BitVec 256) (s : State) :
    ((loadAll p id key s).queen.manRej, (loadAll p id key s).queen.envRej) = (s.queen.manRej, s.queen.envRej) :=
  forEach_keeps (fun t : State => (t.queen.manRej, t.queen.envRej)) _ _ s fun k t => loadSlot_rejects k id key t

theorem loadGenerated_rejects (p : Part) (m : Manifest) (s : State) :
    ((loadGenerated p m s).queen.manRej, (loadGenerated p m s).queen.envRej) = (s.queen.manRej, s.queen.envRej) :=
  forEach_keeps (fun t : State => (t.queen.manRej, t.queen.envRej)) _ _ s fun e t => loadAll_rejects p e.id (drawNow 256 t) (drawn t)

/-! ### BIND (R460, R461) -/

theorem judgeContext_ctx {p : Part} {s : State} {m : Manifest} (hm : s.parts[p].ctx.man = some m)
    (h : s.parts[p].ctx.state = 1 ∨ s.parts[p].ctx.state = 2) : (judgeContext p s).parts[p].ctx.man = some m ∧
    (judgeContext p s).parts[p].ctx.clearLeft = s.parts[p].ctx.clearLeft ∧
    ((judgeContext p s).parts[p].ctx.state = 1 ∨ (judgeContext p s).parts[p].ctx.state = 2) := by
  unfold judgeContext
  rw [hm]
  dsimp only
  rw [if_pos h, State.modCtx, modPart_at]
  refine ⟨hm, rfl, ?_⟩
  dsimp only
  split
  · exact .inr rfl
  · exact .inl rfl

theorem acceptBind_binds (p : Part) (m : Manifest) {s t : State} (ht : acceptBind p m s = t) :
    t.parts[p].ctx.man = some m ∧ t.parts[p].ctx.clearLeft = m.clearBudget ∧ (t.parts[p].ctx.state = 1 ∨ t.parts[p].ctx.state = 2) ∧
    t.queen.manRej = s.queen.manRej ∧ t.out = s.out := by
  unfold acceptBind at ht
  dsimp only at ht
  have hc : ((drawn s).modCtx p fun _ => { state := 1, man := some m, ctxKey := drawNow 256 s, clearLeft := m.clearBudget }).parts[p].ctx =
      { state := 1, man := some m, ctxKey := drawNow 256 s, clearLeft := m.clearBudget } := by
    rw [State.modCtx, modPart_at]
  have hq : ((drawn s).modCtx p fun _ => { state := 1, man := some m, ctxKey := drawNow 256 s, clearLeft := m.clearBudget }).queen =
      s.queen := rfl
  have ho : ((drawn s).modCtx p fun _ => { state := 1, man := some m, ctxKey := drawNow 256 s, clearLeft := m.clearBudget }).out =
      s.out := rfl
  generalize (drawn s).modCtx p (fun _ => { state := 1, man := some m, ctxKey := drawNow 256 s, clearLeft := m.clearBudget }) = u
    at ht hc hq ho
  have wg : Within [.draws, .combMap, .hum, .combRegs, .router, .superMem, .superTree, .superKeys, .superRegs, .queen] u
      (loadGenerated p m u) := loadGenerated_without rfl
  have hr := (Prod.mk.inj (loadGenerated_rejects p m u)).1
  generalize loadGenerated p m u = v at ht wg hr
  have ws : Within [.combRegs, .hild] v (loadSealed p m v) := loadSealed_without rfl
  generalize loadSealed p m v = w at ht ws
  have hwc : w.parts[p].ctx = { state := 1, man := some m, ctxKey := drawNow 256 s, clearLeft := m.clearBudget } :=
    (ws.part_ctx p rfl).trans ((wg.part_ctx p rfl).trans hc)
  obtain ⟨hman, hclear, hstate⟩ := judgeContext_ctx (p := p) (s := w) (m := m) (by rw [hwc]) (by rw [hwc]; exact .inl rfl)
  have wj : Within [.ctx] w (judgeContext p w) := judgeContext_without rfl
  rw [ht] at hman hclear hstate wj
  refine ⟨hman, hclear.trans (by rw [hwc]), hstate, ?_, ?_⟩
  · rw [wj.queen_eq rfl, ws.queen_eq rfl, hr, hq]
  · rw [wj.out_eq rfl, ws.out_eq rfl, wg.out_eq rfl, ho]

/-- What a refused BIND does. -/
def bindRefused (st : Byte) (s : State) : State :=
  respond 1 st [] ((if st = rspSlotBusy then logRefusal "key load" s else s).modQueen fun q => { q with manRej := hit 16 q.manRej })

theorem effBind_eq {s : State} (hs : queensServe s = true) (p : Part) (b : Bytes) : effBind p b s =
    if bindStatus s p b = rspOk then respond 1 (bindStatus s p b) [] (acceptBind p (parseManifest b) s)
    else bindRefused (bindStatus s p b) s := by
  unfold effBind bindRefused
  rw [hs]
  rfl

theorem bindRefused_counts (st : Byte) (s : State) : (bindRefused st s).out = .spdm 1 st [] :: s.out ∧
    (bindRefused st s).queen = { s.queen with manRej := hit 16 s.queen.manRej, log := (bindRefused st s).queen.log } ∧
    Within [.out, .queen] s (bindRefused st s) := by
  unfold bindRefused
  split <;> exact ⟨rfl, rfl, rfl⟩

/-! ### KEY (R466 to R468) -/

/-- A FABRIC key in an entry. -/
def rekeyed (gen : BitVec 6) (key : BitVec 256) (x : JobEntry) : JobEntry := { x with keyed := true, fkgen := gen, fkey := key, seq := 0 }

/-- The entries that a FABRIC key changes. -/
def toRekey (s : State) (p : Part) (gen : BitVec 6) : List (Comb × JobIx) := (memberEntries s p).filter fun e =>
  !s.combs[e.1].router.jobs[e.2].keyed || decide (s.combs[e.1].router.jobs[e.2].fkgen ≠ gen)

theorem memberEntries_nodup (s : State) (p : Part) : (memberEntries s p).Nodup := by
  refine (combsOf_nodup s p).filterMap fun a c e ha hc => ?_
  obtain ⟨i, -, hi⟩ := Option.map_eq_some_iff.mp ha
  obtain ⟨j, -, hj⟩ := Option.map_eq_some_iff.mp hc
  exact (congrArg Prod.fst hi).trans (congrArg Prod.fst hj).symm

theorem modJob_otherEntry {e c : Comb × JobIx} (h : c ≠ e) (f : JobEntry → JobEntry) (s : State) :
    (s.modJob c.1 c.2 f).combs[e.1].router.jobs[e.2] = s.combs[e.1].router.jobs[e.2] := by
  by_cases hk : c.1 = e.1
  · have hj : c.2 ≠ e.2 := fun hj => h (Prod.ext hk hj)
    rw [hk, LeaseProofs.modJob_job, if_neg hj]
  · have hc : (s.modJob c.1 c.2 f).combs[e.1] = s.combs[e.1] := modRouter_other s c.1 e.1 _ hk
    rw [hc]

/-- Every entry of the partition's routers, under the key that a FABRIC key delivery leaves there. -/
theorem rekey_entry {s t : State} {p : Part} {e : Comb × JobIx} {gen : BitVec 6} {key : BitVec 256}
    (ht : forEach (toRekey s p gen) (fun e s => s.modJob e.1 e.2 (rekeyed gen key)) s = t) :
    (e ∈ toRekey s p gen → t.combs[e.1].router.jobs[e.2] = rekeyed gen key s.combs[e.1].router.jobs[e.2]) ∧
    (e ∉ toRekey s p gen → t.combs[e.1].router.jobs[e.2] = s.combs[e.1].router.jobs[e.2]) := by
  have h := forEach_once (I := fun _ => True) (fun t : State => t.combs[e.1].router.jobs[e.2]) (g := rekeyed gen key)
    (f := fun e s => s.modJob e.1 e.2 (rekeyed gen key)) (a := e) (l := toRekey s p gen) (s := s) (fun _ _ h => h)
    (fun t _ => (LeaseProofs.modJob_job t e.1 e.2 e.2 _).trans (if_pos rfl)) (fun c t hc _ => modJob_otherEntry hc _ t)
    ((memberEntries_nodup s p).filter _) trivial
  subst ht
  exact ⟨fun hm => h.trans (if_pos hm), fun hm => h.trans (if_neg hm)⟩

theorem loadFabricKey_refused {s : State} {p : Part} {gen : BitVec 6} {key : BitVec 256} (h : (loadFabricKey p gen key s).2 ≠ rspOk) :
    (loadFabricKey p gen key s).1 = s := by
  unfold loadFabricKey at h ⊢
  dsimp only at h ⊢
  split
  · rfl
  · next h1 =>
    rw [if_neg h1] at h
    split
    · rfl
    · next h2 =>
      rw [if_neg h2] at h
      exact absurd rfl h

theorem loadFabricKey_ok {s : State} {p : Part} {gen : BitVec 6} {key : BitVec 256} (h : (loadFabricKey p gen key s).2 = rspOk) :
    (loadFabricKey p gen key s).1 = forEach (toRekey s p gen) (fun e s => s.modJob e.1 e.2 (rekeyed gen key)) s := by
  unfold loadFabricKey at h ⊢
  dsimp only at h ⊢
  split
  · next h1 =>
    rw [if_pos h1] at h
    exact absurd (show rspAlready = rspOk from h) (by decide)
  · next h1 =>
    rw [if_neg h1] at h
    split
    · next h2 =>
      rw [if_pos h2] at h
      exact absurd (show rspWrongState = rspOk from h) (by decide)
    · rfl

theorem loadFabricKey_keys {s : State} {p : Part} {gen : BitVec 6} {key : BitVec 256} (h : (loadFabricKey p gen key s).2 = rspOk)
    {e : Comb × JobIx} (he : e ∈ memberEntries s p) {x : JobEntry}
    (hx : (loadFabricKey p gen key s).1.combs[e.1].router.jobs[e.2] = x) : x.keyed = true ∧ x.fkgen = gen ∧
    (s.combs[e.1].router.jobs[e.2].keyed = false ∨ s.combs[e.1].router.jobs[e.2].fkgen ≠ gen → x.seq = 0) := by
  obtain ⟨hin, hout⟩ := rekey_entry (e := e) (loadFabricKey_ok h).symm
  rw [hx] at hin hout
  have hm : e ∈ toRekey s p gen ↔ s.combs[e.1].router.jobs[e.2].keyed = false ∨ s.combs[e.1].router.jobs[e.2].fkgen ≠ gen := by
    simp only [toRekey, List.mem_filter, he, true_and, Bool.or_eq_true, Bool.not_eq_true', decide_eq_true_eq]
  rw [← hm]
  by_cases hc : e ∈ toRekey s p gen
  · rw [hin hc]
    exact ⟨rfl, rfl, fun _ => rfl⟩
  · have hn := mt hm.mpr hc
    rw [not_or, Bool.not_eq_false, not_not] at hn
    rw [hout hc]
    exact ⟨hn.1, hn.2, fun h => absurd h hc⟩

theorem loadRegionKey_refused {s : State} {p : Part} {id : KeyId} {key : BitVec 256} (h : (loadRegionKey p id key s).2 ≠ rspOk) :
    (loadRegionKey p id key s).1 = s ∨ (loadRegionKey p id key s).1 = logRefusal "key load" s := by
  unfold loadRegionKey at h ⊢
  dsimp only at h ⊢
  split
  · exact .inl rfl
  · next h1 =>
    rw [if_neg h1] at h
    split
    · next h2 =>
      rw [if_pos h2] at h
      exact absurd rfl h
    · exact .inr rfl

/-- A REGION key is loaded where every slot was EMPTY. -/
theorem loadRegionKey_ok {s : State} {p : Part} {id : KeyId} {key : BitVec 256} (h : (loadRegionKey p id key s).2 = rspOk) :
    (loadRegionKey p id key s).1 = loadAll p id key s ∧ ∀ k, inPart s p k = true → s.supers[k].slots[id].state = 0 := by
  unfold loadRegionKey at h ⊢
  dsimp only at h ⊢
  split
  · next h1 =>
    rw [if_pos h1] at h
    exact absurd (show rspAlready = rspOk from h) (by decide)
  · next h1 =>
    rw [if_neg h1] at h
    split
    · next h2 =>
      refine ⟨rfl, fun k hk => ?_⟩
      rw [List.all_map, List.all_eq_true] at h2
      exact of_decide_eq_true (h2 k (mem_combsOf.mpr hk))
    · next h2 =>
      rw [if_neg h2] at h
      exact absurd (show rspSlotBusy = rspOk from h) (by decide)

theorem loadCkptKey_within (p : Part) (m : Manifest) (o : Nat) (key : BitVec 256) (s : State) :
    Within [.ctx] s (loadCkptKey p m o key s).1 ∧ ((loadCkptKey p m o key s).2 ≠ rspOk → (loadCkptKey p m o key s).1 = s) := by
  have hc : ∀ f, Within [.ctx] s (s.modCtx p f) := fun f => modCtx_without _ _ _ _ rfl
  unfold loadCkptKey
  dsimp only
  split
  · exact ⟨rfl, fun _ => rfl⟩
  · split
    · exact ⟨hc _, fun h => absurd rfl h⟩
    · split
      · exact ⟨hc _, fun h => absurd rfl h⟩
      · exact ⟨hc _, fun h => absurd rfl h⟩

/-- The key of an envelope that passed its checks, delivered to what it is for. -/
def deliver (p : Part) (m : Manifest) (e : Envelope) (key : BitVec 256) (s : State) : State × Byte :=
  if e.usage = 1 then loadRegionKey p e.keyId key s
  else if e.usage = 2 then loadFabricKey p e.fkgen key s
  else loadCkptKey p m e.owner key s

/-- A KEY request is refused by a check, or its key is delivered. -/
theorem keyRequest_cases (p : Part) (b : Bytes) (s : State) : (∃ x, x ≠ rspOk ∧ keyRequest p b s = (s, x)) ∨
    (s.parts[p].live = true ∧ envFormatOk b = true ∧ ∃ m key, keyRequest p b s = deliver p m (parseEnvelope b) key s) := by
  unfold keyRequest
  dsimp only
  split
  · exact .inl ⟨_, by decide, rfl⟩
  next hl =>
  split
  · exact .inl ⟨_, by decide, rfl⟩
  next m _ =>
  split
  · exact .inl ⟨_, by decide, rfl⟩
  split
  · exact .inl ⟨_, by decide, rfl⟩
  next hf =>
  split
  · exact .inl ⟨_, by decide, rfl⟩
  split
  · exact .inl ⟨_, by decide, rfl⟩
  split
  · exact .inl ⟨_, by decide, rfl⟩
  next key _ => exact .inr ⟨by simpa using hl, by simpa using hf, m, key, rfl⟩

theorem deliver_refused {p : Part} {m : Manifest} {e : Envelope} {key : BitVec 256} {s : State}
    (h : (deliver p m e key s).2 ≠ rspOk) : (deliver p m e key s).1 = s ∨ (deliver p m e key s).1 = logRefusal "key load" s := by
  unfold deliver at h ⊢
  split
  · next h1 =>
    rw [if_pos h1] at h
    exact loadRegionKey_refused h
  · next h1 =>
    rw [if_neg h1] at h
    split
    · next h2 =>
      rw [if_pos h2] at h
      exact .inl (loadFabricKey_refused h)
    · next h2 =>
      rw [if_neg h2] at h
      exact .inl ((loadCkptKey_within ..).2 h)

/-- What a delivered key leaves: the trace, the partition's life and the count of refused envelopes. -/
theorem deliver_frame {p : Part} {m : Manifest} {e : Envelope} {key : BitVec 256} {s t : State}
    (h : (deliver p m e key s).2 = rspOk) (ht : (deliver p m e key s).1 = t) :
    t.out = s.out ∧ t.parts[p].live = s.parts[p].live ∧ t.queen.envRej = s.queen.envRej := by
  unfold deliver at h ht
  split at ht
  · next h1 =>
    rw [if_pos h1] at h
    rw [(loadRegionKey_ok h).1] at ht
    have w : Within [.draws, .combMap, .hum, .combRegs, .router, .superMem, .superTree, .superKeys, .superRegs, .queen] s t :=
      ht ▸ loadAll_without rfl
    exact ⟨w.out_eq rfl, w.part_live p rfl, ht ▸ (Prod.mk.inj (loadAll_rejects p e.keyId key s)).2⟩
  · next h1 =>
    rw [if_neg h1] at h
    split at ht
    · next h2 =>
      rw [if_pos h2] at h
      rw [loadFabricKey_ok h] at ht
      have w : Within [.router] s t := ht ▸ forEach_without _ _ _ _ fun _ _ => modJob_without _ _ _ _ _ rfl
      exact ⟨w.out_eq rfl, w.part_live p rfl, congrArg Queen.envRej (w.queen_eq rfl)⟩
    · have w : Within [.ctx] s t := ht ▸ (loadCkptKey_within ..).1
      exact ⟨w.out_eq rfl, w.part_live p rfl, congrArg Queen.envRej (w.queen_eq rfl)⟩

/-- A REGION key ID lies in 1 to 63. -/
theorem envFormatOk_keyId {b : Bytes} (h : envFormatOk b = true) (h1 : (parseEnvelope b).usage = 1) : (parseEnvelope b).keyId ≠ 0 := by
  have hu : fieldAt b 8 1 = 1 := h1
  unfold envFormatOk at h
  simp only [Bool.and_eq_true] at h
  obtain ⟨⟨⟨⟨-, hid⟩, -⟩, -⟩, -⟩ := h
  rw [if_pos hu] at hid
  simp only [Bool.and_eq_true, decide_eq_true_eq] at hid
  intro hz
  have hv := congrArg Fin.val hz
  simp only [parseEnvelope, Fin.ofNat_eq_cast, Fin.val_natCast, Fin.val_zero] at hv
  omega

section Key

variable {s : State} (hs : queensServe s = true) (p : Part) (b : Bytes)
include hs

/-- The state that a KEY request leaves, its refusal counted. -/
def keyCounted (p : Part) (b : Bytes) (s : State) : State :=
  if (keyRequest p b s).2 = rspOk ∨ (keyRequest p b s).2 = rspAlready then (keyRequest p b s).1
  else (keyRequest p b s).1.modQueen fun q => { q with envRej := hit 16 q.envRej }

theorem effKey_eq : effKey p b s = respond 2 (keyRequest p b s).2 [] (judgeContext p (keyCounted p b s)) := by
  unfold effKey keyCounted
  rw [hs]
  rfl

end Key

theorem keyCounted_refused {p : Part} {b : Bytes} {s : State} (h : (keyRequest p b s).2 ≠ rspOk) :
    (keyCounted p b s).queen.envRej = (if (keyRequest p b s).2 = rspAlready then s.queen.envRej else hit 16 s.queen.envRej) ∧
    (keyCounted p b s).out = s.out ∧ Within [.queen] s (keyCounted p b s) := by
  have hk : (keyRequest p b s).1 = s ∨ (keyRequest p b s).1 = logRefusal "key load" s := by
    rcases keyRequest_cases p b s with ⟨x, -, hx⟩ | ⟨-, -, m, key, hd⟩
    · rw [hx]
      exact .inl rfl
    · rw [hd] at h ⊢
      exact deliver_refused h
  unfold keyCounted
  by_cases ha : (keyRequest p b s).2 = rspAlready
  · rw [if_pos (.inr ha), if_pos ha]
    rcases hk with hk | hk <;> rw [hk] <;> exact ⟨rfl, rfl, rfl⟩
  · rw [if_neg (not_or.mpr ⟨h, ha⟩), if_neg ha]
    rcases hk with hk | hk <;> rw [hk] <;> exact ⟨rfl, rfl, rfl⟩

/-- Of a delivered key: what it leaves, and what it loads. -/
theorem keyCounted_ok {p : Part} {b : Bytes} {s t : State} (h : (keyRequest p b s).2 = rspOk) (ht : keyCounted p b s = t) :
    t.out = s.out ∧ t.queen.envRej = s.queen.envRej ∧ t.parts[p].live = true ∧
    ((parseEnvelope b).usage = 1 → ∀ k, inPart s p k = true → t.supers[k].slots[(parseEnvelope b).keyId].state = 1) ∧
    ((parseEnvelope b).usage = 2 → ∀ e ∈ memberEntries s p, t.combs[e.1].router.jobs[e.2].keyed = true ∧
      t.combs[e.1].router.jobs[e.2].fkgen = (parseEnvelope b).fkgen ∧
      (s.combs[e.1].router.jobs[e.2].keyed = false ∨ s.combs[e.1].router.jobs[e.2].fkgen ≠ (parseEnvelope b).fkgen →
        t.combs[e.1].router.jobs[e.2].seq = 0)) := by
  unfold keyCounted at ht
  rw [if_pos (.inl h)] at ht
  rcases keyRequest_cases p b s with ⟨x, hx, hk⟩ | ⟨hl, hf, m, key, hd⟩
  · rw [hk] at h
    exact absurd h hx
  rw [hd] at h ht
  obtain ⟨hout, hlive, hrej⟩ := deliver_frame h ht
  refine ⟨hout, hrej, hlive.trans hl, fun h1 k hk => ?_, fun h2 e he => ?_⟩
  · rw [deliver, if_pos h1] at h ht
    obtain ⟨hall, hempty⟩ := loadRegionKey_ok h
    rw [← ht, hall, loadAll_state (envFormatOk_keyId hf h1) hk, hempty k hk]
    rfl
  · rw [deliver, if_neg (by rw [h2]; decide), if_pos h2] at h ht
    exact loadFabricKey_keys h he (congrArg (fun u : State => u.combs[e.1].router.jobs[e.2]) ht)

/-! ### The debug challenge and unlock (R475 to R479) -/

/-- A fused count of unlocks, one more. -/
def oneUnlockMore (x : DieState) : DieState := { x with unlocks := x.unlocks + 1 }

theorem unlock_opens {scope : BitVec 3} {s t : State} (ht : unlock scope s = t) : t.queen.dbgActive = true ∧ t.queen.scope = scope ∧
    t.queen.challenge = s.queen.challenge ∧ ∀ d : Die, t.dies[d].unlocks = s.dies[d].unlocks + 1 := by
  have hd : ∀ d : Die, (forEach (fins 2) (fun d s => s.modDie d oneUnlockMore) s).dies[d] = oneUnlockMore s.dies[d] := fun d =>
    forEach_once_mem (I := fun _ => True) (g := oneUnlockMore) (fun t : State => t.dies[d]) (fun _ _ h => h)
      (fun t _ => modDie_at _ _ _) (fun b t hb _ => modDie_other _ _ _ _ hb) (fins_nodup 2) (mem_fins d) trivial
  have hq : (forEach (fins 2) (fun d s => s.modDie d oneUnlockMore) s).queen = s.queen := by
    have w : Within [.dies, .fuses] s (forEach (fins 2) (fun d s => s.modDie d oneUnlockMore) s) :=
      forEach_without _ _ _ _ fun _ _ => modDie_without _ _ _ _ fun _ => rfl
    exact w.queen_eq rfl
  have he : unlock scope s = (forEach (liveParts (forEach (fins 2) (fun d s => s.modDie d oneUnlockMore) s))
      (fun p s => zeroiseContext p (beginTeardown p s)) (forEach (fins 2) (fun d s => s.modDie d oneUnlockMore) s)).modQueen fun q =>
        { q with dbgUnlock := hit 16 q.dbgUnlock, dbgActive := true, scope := scope } := rfl
  rw [he] at ht
  generalize forEach (fins 2) (fun d s => s.modDie d oneUnlockMore) s = u at ht hd hq
  have w : Within [.out, .host, .draws, .hum, .seq, .cellMem, .cellRun, .combRegs, .combMem, .router, .superMem, .superTree, .hild,
      .ctx, .rings, .evq, .partRegs, .mod] u (forEach (liveParts u) (fun p s => zeroiseContext p (beginTeardown p s)) u) :=
    forEach_without _ _ _ _ fun _ _ => Eq.trans (zeroiseContext_without rfl) (beginTeardown_without rfl)
  generalize forEach (liveParts u) (fun p s => zeroiseContext p (beginTeardown p s)) u = v at ht w
  subst ht
  refine ⟨rfl, rfl, ?_, fun d => ?_⟩
  · have hv : v.queen = s.queen := (w.queen_eq rfl).trans hq
    exact (congrArg (fun q : Queen => q.challenge) hv :)
  · exact (congrArg DieState.unlocks (w.die d)).trans (congrArg DieState.unlocks (hd d))

section Debug

variable {s : State} (hs : queensServe s = true)
include hs

theorem debugChallenge_leaves : Does .debugChallenge s fun t => ∃ c : BitVec 256, t.queen.challenge = some c ∧
    t.out = .spdm 3 0 (leBytes 32 c.toNat) :: s.out ∧ Within [.out, .draws, .queen] s t := by
  refine ⟨_, congrArg Host.Outcome.next (if_neg (by rw [hs]; decide)), drawNow 256 s, rfl, rfl, rfl⟩

/-- The state whose challenge is used up. -/
def challengeUsed (s : State) : State := s.modQueen fun q => { q with challenge := none, unlocking := false }

theorem effUnlock_eq (tok : Bytes) (auth : BitVec 256) (age : Nat) : effUnlock tok auth age s =
    respond 4 (unlockStatus s tok auth age) [] (if unlockStatus s tok auth age = rspOk
      then unlock (BitVec.ofNat 3 (fieldAt tok 72 1)) (challengeUsed s) else challengeUsed s) := by
  unfold effUnlock challengeUsed
  rw [hs]
  rfl

theorem debugUnlock_checks (tok : Bytes) (auth : BitVec 256) (age : Nat) : Does (.debugUnlock tok auth age) s fun t =>
    t.queen.challenge = none ∧ if unlockStatus s tok auth age = rspOk
      then t.queen.dbgActive = true ∧ t.queen.scope = BitVec.ofNat 3 (fieldAt tok 72 1) ∧
        ∀ d : Die, t.dies[d].unlocks = s.dies[d].unlocks + 1
      else t.queen = { s.queen with challenge := none, unlocking := false } ∧
        t.out = .spdm 4 (unlockStatus s tok auth age) [] :: s.out ∧ Within [.out, .queen] s t := by
  refine ⟨_, congrArg Host.Outcome.next (effUnlock_eq hs tok auth age), ?_⟩
  beta_reduce
  by_cases h : unlockStatus s tok auth age = rspOk
  · rw [if_pos h, if_pos h]
    obtain ⟨hactive, hscope, hchal, hcount⟩ := unlock_opens (scope := BitVec.ofNat 3 (fieldAt tok 72 1)) (s := challengeUsed s) rfl
    exact ⟨hchal, hactive, hscope, hcount⟩
  · rw [if_neg h, if_neg h]
    exact ⟨rfl, rfl, rfl, rfl⟩

theorem getMeasurements_eq (i : Byte) (nonce : BitVec 256) : exec (.getMeasurements i nonce) s =
    .next (match measurement s i.toNat nonce with | some b => respond 0 rspOk b s | none => s) :=
  congrArg Host.Outcome.next (if_neg (by rw [hs]; decide))

end Debug

theorem measurement_part (s : State) (p : Part) (nonce : BitVec 256) : measurement s (BitVec.ofNat 8 (0x31 + p.val)).toNat nonce =
    if s.parts[p].live then some (report s (some p) nonce) else none := by
  have hi : (BitVec.ofNat 8 (0x31 + p.val)).toNat = 0x31 + p.val := by
    rw [BitVec.toNat_ofNat]
    omega
  have hp : (⟨0x31 + p.val - 0x31, by omega⟩ : Part) = p := Fin.ext (Nat.add_sub_cancel_left ..)
  unfold measurement
  rw [hi, if_neg (by omega), if_neg (by omega), if_neg (by omega), if_neg (by omega), if_neg (by omega), dif_pos (by omega)]
  simp only [hp]

/-- Settles O27: BIND and KEY by their status, the unlock by its token's, a measurement by its index. -/
theorem bindingKeysAndDebug : Obligations.BindingKeysAndDebug := by
  unfold Obligations.BindingKeysAndDebug
  refine ⟨fun s p b hs => ⟨?_, ?_⟩, fun s hs => ⟨debugChallenge_leaves hs, fun tok auth age => debugUnlock_checks hs tok auth age,
    fun nonce => ⟨_, getMeasurements_eq hs 2 nonce, rfl⟩, fun p nonce hl => ?_, fun p nonce hl => ?_⟩⟩
  · refine ⟨_, congrArg Host.Outcome.next (effBind_eq hs p b), ?_⟩
    beta_reduce
    by_cases h : bindStatus s p b = rspOk
    · rw [if_pos h, if_pos h]
      obtain ⟨hman, hclear, hstate, hrej, hout⟩ := acceptBind_binds p (parseManifest b) (s := s) rfl
      exact ⟨congrArg (_ :: ·) hout, hman, hclear, hstate, hrej⟩
    · rw [if_neg h, if_neg h]
      exact bindRefused_counts _ s
  · refine ⟨_, congrArg Host.Outcome.next (effKey_eq hs p b), ?_⟩
    beta_reduce
    by_cases h : (keyRequest p b s).2 = rspOk
    · rw [if_pos h]
      obtain ⟨hout, hrej, hlive, hregion, hfabric⟩ := keyCounted_ok h rfl
      generalize keyCounted p b s = u at hout hrej hlive hregion hfabric
      have w : Within [.ctx] u (judgeContext p u) := judgeContext_without rfl
      generalize judgeContext p u = v at w
      refine ⟨congrArg (_ :: ·) ((w.out_eq rfl).trans hout), ?_, (w.part_live p rfl).trans hlive, fun h1 k hk => ?_, fun h2 e he => ?_⟩
      · exact congrArg (fun q : Queen => q.envRej) (w.queen_eq rfl) |>.trans hrej
      · exact (congrArg (fun x : SuperState => x.slots[(parseEnvelope b).keyId].state) (w.super k)).trans (hregion h1 k hk)
      · rw [← within_combs w (by decide)] at hfabric
        exact hfabric h2 e he
    · rw [if_neg h]
      obtain ⟨hrej, hout, w⟩ := keyCounted_refused h
      generalize keyCounted p b s = u at hrej hout w
      have wj : Within [.ctx] u (judgeContext p u) := judgeContext_without rfl
      generalize judgeContext p u = v at wj
      have wr : Within [.out] v (respond 2 (keyRequest p b s).2 [] v) := rfl
      refine ⟨congrArg (_ :: ·) ((wj.out_eq rfl).trans hout), ?_, (w.mono rfl).trans ((wj.mono rfl).trans (wr.mono rfl))⟩
      exact congrArg (fun q : Queen => q.envRej) (wj.queen_eq rfl) |>.trans hrej
  · refine ⟨_, getMeasurements_eq hs _ nonce, ?_⟩
    rw [measurement_part s, if_pos hl]
    rfl
  · rw [getMeasurements_eq hs, measurement_part s, if_neg (by rw [hl]; decide)]

end Sys2Proof.TrustProofs
end

section
/-! COPY and EGRESS (R469 to R473). -/

namespace Sys2Proof.TransferProofs

open Sys2Proof Sys2Proof.Machine Sys2Proof.MemoryProofs Sys2Proof.JobFaultProofs Sys2Proof.RingProofs Sys2Proof.ScalarProofs
  Sys2Proof.UnitResetProofs Sys2Proof.TimetableProofs Sys2Proof.HeldWriteProofs

/-! ### A descriptor that fails without a stop of its partition (R101) -/

theorem failDesc_finishes {st : Byte} (h : stopsPartition st = false) (p : Part) (r : Ring) (i : Word) (x : Word) (y : BitVec 56)
    (k : Comb) (s : State) : failDesc p r i st x y k s = finish p r i st x y k s := by
  unfold failDesc
  rw [h]
  rfl

theorem finish_within (p : Part) (r : Ring) (i : Word) (st : Byte) (x : Word) (y : BitVec 56) (k : Comb) (s : State) :
    Within [.rings] s (finish p r i st x y k s) := finish_without rfl

/-- A started descriptor ends where its ring is still what it was. -/
theorem finish_started {s u : State} {p : Part} {r : Ring} {d : Desc} {op : Nat} (h : startedDesc s p r op = some d)
    (hu : u.parts[p].rings = s.parts[p].rings) (st : Byte) (x : Word) (y : BitVec 56) (k : Comb) :
    Ended (finish p r d.idx st x y k u) p r d st x y := by
  obtain ⟨hm, hs⟩ := startedDesc_mem h
  rw [← hu] at hm
  exact finish_ends hm (by rw [hs]; decide) st x y k

theorem ended_of_rings {s t : State} {p : Part} {r : Ring} {d : Desc} {st : Byte} {x : Word} {y : BitVec 56} (h : Ended s p r d st x y)
    (ht : t.parts[p].rings = s.parts[p].rings) : Ended t p r d st x y := by
  unfold Ended
  rw [ht]
  exact h

/-! ### EGRESS (R470 to R473) -/

/-- A refused EGRESS is denied or over its budget, never a stop of the partition. -/
theorem egressCheck_status {s : State} {p : Part} {cls r n : Nat} {st : Byte} {x : Word} {y : BitVec 56}
    (h : egressCheck s p cls r n = some (st, x, y)) : st = stEgressDenied ∨ st = stEgressBudget := by
  have denied : ∀ {a : Word} {b : BitVec 56}, some (stEgressDenied, a, b) = some (st, x, y) → st = stEgressDenied ∨ st = stEgressBudget :=
    fun e => .inl (Prod.mk.inj (Option.some.inj e)).1.symm
  unfold egressCheck at h
  dsimp only at h
  split at h
  · exact denied h
  split at h
  · exact denied h
  split at h
  · exact denied h
  split at h
  · exact denied h
  split at h
  · exact denied h
  split at h
  · exact denied h
  split at h
  · exact .inr (Prod.mk.inj (Option.some.inj h)).1.symm
  split at h
  · exact denied h
  · cases h

section Egress

variable {s : State} {p : Part} {r : Ring} {d : Desc} (hd : startedDesc s p r opEgress = some d)
include hd

/-- A refused EGRESS ends at once. -/
theorem egress_refused {st : Byte} {x : Word} {y : BitVec 56}
    (h : egressCheck s p (d.field 8 1 % 4) (d.field 9 1 % 16) (d.field 32 4) = some (st, x, y)) : Does (.egress p r) s fun t =>
    Ended t p r d st x y ∧ (st = stEgressDenied ∨ st = stEgressBudget) ∧
      (s.fns[fnOf p].secure = false → t.fns[fnOf p].noIde = hit 16 s.fns[fnOf p].noIde) ∧ Within [.rings, .fns] s t := by
  have hst := egressCheck_status h
  have hstop : stopsPartition st = false := by rcases hst with h | h <;> rw [h] <;> decide
  have he : effEgress p r s = finish p r d.idx st x y (serving s p r) (noteNoIde p s) := by
    unfold effEgress
    rw [hd]
    dsimp only
    rw [h]
    exact failDesc_finishes hstop ..
  have wn : Within [.fns] s (noteNoIde p s) := noteNoIde_without rfl
  have hn : s.fns[fnOf p].secure = false → (noteNoIde p s).fns[fnOf p].noIde = hit 16 s.fns[fnOf p].noIde := fun hs => by
    unfold noteNoIde
    rw [if_neg (by rw [hs]; decide)]
    exact congrArg FnState.noIde (modFn_same s (fnOf p) _)
  refine ⟨_, congrArg Host.Outcome.next he, ?_⟩
  generalize noteNoIde p s = u at wn hn
  have wf := finish_within p r d.idx st x y (serving s p r) u
  refine ⟨finish_started hd (wn.part_rings p rfl) .., hst, fun hs => ?_, (wn.mono rfl).trans (wf.mono rfl)⟩
  rw [wf.fns_eq rfl]
  exact hn hs

theorem effEgress_reads {u : State} {data : Bytes}
    (h : egressCheck s p (d.field 8 1 % 4) (d.field 9 1 % 16) (d.field 32 4) = none)
    (hs : ppaServes s (serving s p r) p (d.field 16 8) (d.field 32 4) = true)
    (hr : ppaFetch p (d.field 16 8) (d.field 32 4) (chargeClear p (d.field 8 1 % 4) (d.field 32 4) s) = (u, data, none)) :
    effEgress p r s = finish p r d.idx stOK (w32 (egressBytes u p (d.field 8 1 % 4) (d.field 9 1 % 16) data).length) 0 (serving s p r)
      ((hostPutAll (fnOf p) (hostWrites u (fnOf p) (d.field 24 8) (egressBytes u p (d.field 8 1 % 4) (d.field 9 1 % 16) data) true) u).modCtx p
        fun c => bumpSeq c (d.field 8 1 % 4) (d.field 9 1 % 16) (d.field 32 4)) := by
  unfold effEgress
  rw [hd]
  dsimp only
  rw [h, hs, hr]
  rfl

end Egress

/-- What a sealed or checkpoint record advances (R472). -/
theorem bumpSeq_counts (c : Context) (cls r n : Nat) : (bumpSeq c cls r n).clearLeft = c.clearLeft ∧
    (cls = clsSealed → seqFor (bumpSeq c cls r n) r = seqFor c r + BitVec.ofNat 64 (chunkCount n)) ∧
    (bumpSeq c cls r n).seqCkpt = (if cls = clsCheckpoint then c.seqCkpt + BitVec.ofNat 64 (chunkCount n) else c.seqCkpt) := by
  unfold bumpSeq
  by_cases h1 : cls = clsSealed
  · rw [if_pos h1, if_neg (by rw [h1]; decide)]
    refine ⟨rfl, fun _ => ?_, rfl⟩
    simp [seqFor]
  · rw [if_neg h1]
    split <;> exact ⟨rfl, fun h => absurd h h1, rfl⟩

theorem chargeClear_left (p : Part) (cls n : Nat) (s : State) : (chargeClear p cls n s).parts[p].ctx.clearLeft =
    if cls = clsClear then s.parts[p].ctx.clearLeft - n else s.parts[p].ctx.clearLeft := by
  unfold chargeClear
  split
  · rw [State.modCtx, modPart_at]
  · rfl

/-- A record that leaves: posted at its address, its counter advanced, its descriptor ended. -/
theorem recordLeft_after {u t : State} {p : Part} {r : Ring} {d : Desc} {a cls rc n : Nat} {out : Bytes} {k : Comb}
    (hd : startedDesc u p r opEgress = some d)
    (ht : finish p r d.idx stOK (w32 out.length) 0 k ((hostPutAll (fnOf p) (hostWrites u (fnOf p) a out true) u).modCtx p
      fun c => bumpSeq c cls rc n) = t) :
    Posted (fnOf p) (hostWrites u (fnOf p) a out true) u t ∧ Ended t p r d stOK (w32 out.length) 0 ∧
    t.parts[p].ctx = bumpSeq u.parts[p].ctx cls rc n ∧ Within [.out, .host, .ctx, .rings] u t := by
  have hpost := hostPutAll_posted (f := fnOf p) (hostWrites_posts u (fnOf p) a out true) u
  have wp : Within [.out, .host] u (hostPutAll (fnOf p) (hostWrites u (fnOf p) a out true) u) := hostPutAll_without rfl
  generalize hostPutAll (fnOf p) (hostWrites u (fnOf p) a out true) u = v at ht hpost wp
  have wc : Within [.ctx] v (v.modCtx p fun c => bumpSeq c cls rc n) := modCtx_without _ _ _ _ rfl
  have hc : (v.modCtx p fun c => bumpSeq c cls rc n).parts[p].ctx = bumpSeq u.parts[p].ctx cls rc n := by
    rw [State.modCtx, modPart_at, ← wp.part_ctx p rfl]
  generalize (v.modCtx p fun c => bumpSeq c cls rc n) = w at ht wc hc
  have wf : Within [.rings] w t := ht ▸ finish_within ..
  have wvt : Within [.ctx, .rings] v t := (wc.mono rfl).trans (wf.mono rfl)
  refine ⟨DescriptorProofs.posted_congr hpost rfl rfl rfl (wvt.host_eq rfl) (wvt.out_eq rfl), ?_, (wf.part_ctx p rfl).trans hc,
    (wp.mono rfl).trans (wvt.mono rfl)⟩
  rw [← ht]
  exact finish_started hd ((wc.part_rings p rfl).trans (wp.part_rings p rfl)) ..

/-- Settles O39: an EGRESS by what its checks say. -/
theorem egressIsCheckedAndCounted : Obligations.EgressIsCheckedAndCounted := by
  unfold Obligations.EgressIsCheckedAndCounted
  intro s p r d hd
  dsimp only
  refine ⟨fun st x y h => egress_refused hd h, fun data u h hs => ⟨chargeClear_left .., fun hr hu => ?_⟩⟩
  obtain ⟨hpost, hend, hctx, w⟩ := recordLeft_after (a := d.field 24 8) (cls := d.field 8 1 % 4) (rc := d.field 9 1 % 16)
    (n := d.field 32 4) (out := egressBytes u p (d.field 8 1 % 4) (d.field 9 1 % 16) data) (k := serving s p r) hu rfl
  obtain ⟨hleft, hseq, hckpt⟩ := bumpSeq_counts u.parts[p].ctx (d.field 8 1 % 4) (d.field 9 1 % 16) (d.field 32 4)
  rw [← hctx] at hleft hseq hckpt
  exact ⟨_, congrArg Host.Outcome.next (effEgress_reads hd h hs hr), hpost, hend, hleft, hseq, hckpt, w⟩

/-! ### COPY (R469) -/

/-- A COPY's data written to a comb store: its end and what it changes. -/
theorem combCopied_after {u t : State} {p : Part} {r : Ring} {d : Desc} {k : Comb} {a n : Nat} {data : Bytes} {j : Comb}
    (hd : startedDesc u p r opCopy = some d) (ht : finish p r d.idx stOK (w32 n) 0 j (combWrite k a data u) = t) :
    combRead t k a data.length = data ∧ Ended t p r d stOK (w32 n) 0 ∧
      (∀ x, x < a ∨ a + data.length ≤ x → memByte t.combs[k].store x = memByte u.combs[k].store x) ∧
      (∀ j : Comb, j ≠ k → t.combs[j] = u.combs[j]) ∧ Within [.combMem, .rings] u t := by
  have ww : Within [.combMem] u (combWrite k a data u) := combWrite_without rfl
  have hstore : (combWrite k a data u).combs[k].store = memWrite u.combs[k].store a data :=
    congrArg CombState.store (modComb_at u k _)
  have hother : ∀ j : Comb, j ≠ k → (combWrite k a data u).combs[j] = u.combs[j] := fun j hj => modComb_at_other u _ hj
  generalize combWrite k a data u = v at ht ww hstore hother
  have hend := finish_started (u := v) hd (ww.part_rings p rfl) stOK (w32 n) 0 j
  have wf := finish_within p r d.idx stOK (w32 n) 0 j v
  rw [ht] at hend wf
  have hc : t.combs = v.combs := within_combs wf (by decide)
  refine ⟨?_, hend, fun x hx => ?_, fun j hj => ?_, (ww.mono rfl).trans (wf.mono rfl)⟩
  · unfold combRead
    rw [hc, hstore, memRead_memWrite]
  · rw [hc, hstore, memByte_memWrite, if_neg (by omega)]
  · rw [hc, hother j hj]

theorem copyEnd_comb {p : Part} {r : Ring} {d : Desc} {data : Bytes} {s : State} (h : d.field 37 1 % 4 = 2) :
    copyEnd p r d data none s = finish p r d.idx stOK (w32 (d.field 32 4)) 0
      (serving (combWrite (firstComb s p d) (d.field 24 8) data s) p r) (combWrite (firstComb s p d) (d.field 24 8) data s) := by
  unfold copyEnd copyPut
  rw [if_neg (by rw [h]; decide)]

theorem copyEnd_ppa {p : Part} {r : Ring} {d : Desc} {data : Bytes} {s : State} (h : d.field 37 1 % 4 = 1)
    (hw : (ppaWrite p (d.field 24 8) data s).2 = none) : copyEnd p r d data none s =
      finish p r d.idx stOK (w32 (d.field 32 4)) 0 (serving (ppaWrite p (d.field 24 8) data s).1 p r)
        (ppaWrite p (d.field 24 8) data s).1 := by
  unfold copyEnd copyPut
  rw [if_pos h]
  generalize ppaWrite p (d.field 24 8) data s = x at hw ⊢
  obtain ⟨u, e⟩ := x
  cases hw
  rfl

section Copy

variable {s : State} {p : Part} {r : Ring} {d : Desc} (hd : startedDesc s p r opCopy = some d)
  (hs : d.field 37 1 % 4 = 1 → ppaServes s (serving s p r) p (d.field 24 8) (d.field 32 4) = true)
include hd hs

/-- A COPY whose destination answers, by its source. -/
theorem effCopy_eq (host : Bytes) : effCopy p r host s =
    if d.field 36 1 % 4 = 0 then
      (if host.length = d.field 32 4 ∧ hostOpen s (fnOf p)
        then copyHost p r d host (hostFetch (fnOf p) [(d.field 16 8, d.field 32 4)] s) else s)
    else if d.field 36 1 % 4 = 1 then
      if !ppaServes s (serving s p r) p (d.field 16 8) (d.field 32 4) then s else
      match ppaFetch p (d.field 16 8) (d.field 32 4) s with
      | (s, _, some .gone) => s
      | (s, data, err) => copyEnd p r d data err s
    else copyEnd p r d (combRead s (firstComb s p d) (d.field 16 8) (d.field 32 4)) none s := by
  unfold effCopy
  rw [hd]
  refine if_neg fun hc => ?_
  rw [hs hc.1] at hc
  exact absurd hc.2 (by decide)

/-- A COPY from the partition's memory or the comb store writes what it read. -/
theorem effCopy_moves {host data : Bytes} {u : State} (hm : (d.field 36 1 % 4 = 1 ∧
      ppaServes s (serving s p r) p (d.field 16 8) (d.field 32 4) = true ∧
      ppaFetch p (d.field 16 8) (d.field 32 4) s = (u, data, none) ∧ startedDesc u p r opCopy = some d) ∨
    (d.field 36 1 % 4 = 2 ∧ data = combRead s (firstComb s p d) (d.field 16 8) (d.field 32 4) ∧ u = s)) :
    effCopy p r host s = copyEnd p r d data none u ∧ startedDesc u p r opCopy = some d := by
  rw [effCopy_eq hd hs]
  rcases hm with ⟨h1, hserve, hf, hu⟩ | ⟨h2, rfl, rfl⟩
  · rw [if_neg (by rw [h1]; decide), if_pos h1, hserve, hf]
    exact ⟨rfl, hu⟩
  · rw [if_neg (by rw [h2]; decide), if_neg (by rw [h2]; decide)]
    exact ⟨rfl, hd⟩

/-- A COPY from the host, once the host can be read. -/
theorem effCopy_host {host : Bytes} (h0 : d.field 36 1 % 4 = 0) (hl : host.length = d.field 32 4) (ho : hostOpen s (fnOf p) = true) :
    effCopy p r host s = copyHost p r d host (hostFetch (fnOf p) [(d.field 16 8, d.field 32 4)] s) := by
  rw [effCopy_eq hd hs, if_pos h0, if_pos ⟨hl, ho⟩]

end Copy

section Host

variable {p : Part} {r : Ring} {d : Desc} {host : Bytes} {s : State}

theorem copyHost_refused (h : hostRefused s p (d.field 37 1 % 4) (d.field 24 8) (d.field 32 4) = true) :
    copyHost p r d host s = finish p r d.idx stAccessViolation 0 (BitVec.ofNat 56 (d.field 24 8)) (serving s p r) s := by
  unfold copyHost
  dsimp only
  rw [h]
  exact failDesc_finishes (rfl : stopsPartition stAccessViolation = false) ..

/-- A host source that is not refused goes to the partition's memory. -/
theorem hostRefused_space {a n : Nat} (h : hostRefused s p (d.field 37 1 % 4) a n = false) : d.field 37 1 % 4 = 1 := by
  unfold hostRefused at h
  simpa using (Bool.or_eq_false_iff.mp h).1

theorem copyHost_clear (h : hostRefused s p (d.field 37 1 % 4) (d.field 24 8) (d.field 32 4) = false)
    (hk : ingestKind s p (d.field 24 8) = .clear) : copyHost p r d host s = copyEnd p r d host none s := by
  unfold copyHost
  dsimp only
  rw [h, hk]
  rfl

theorem copyHost_badChunk {key : BitVec 256} {o : Nat}
    (h : hostRefused s p (d.field 37 1 % 4) (d.field 24 8) (d.field 32 4) = false)
    (hk : ingestKind s p (d.field 24 8) = .delivered key) (ho : (openIngest key (jobOf s p) host).2 = some o) :
    copyHost p r d host s = finish p r d.idx stFormatError (w32 o) 0 (serving s p r)
      (ppaPut p (d.field 24 8) (openIngest key (jobOf s p) host).1 s) := by
  unfold copyHost
  dsimp only
  rw [h, hk]
  dsimp only
  generalize openIngest key (jobOf s p) host = x at ho ⊢
  obtain ⟨plain, e⟩ := x
  cases ho
  rw [if_neg Bool.false_ne_true]
  dsimp only
  rw [failDesc_finishes (rfl : stopsPartition stFormatError = false)]

end Host

/-- Settles O38: a COPY by its source and its destination. -/
theorem copiesMoveData : Obligations.CopiesMoveData := by
  unfold Obligations.CopiesMoveData
  intro s p r d host hd
  dsimp only
  intro hs
  refine ⟨fun data u h2 hm => ?_, fun data u h1 hm hw => ?_, fun h0 hl ho => ⟨fun hr => ?_, fun hr hk hw => ?_, fun key o hr hk hf => ?_⟩⟩
  · obtain ⟨he, hu⟩ := effCopy_moves (host := host) hd hs hm
    exact ⟨_, congrArg Host.Outcome.next (he.trans (copyEnd_comb h2)), combCopied_after hu rfl⟩
  · obtain ⟨he, -⟩ := effCopy_moves (host := host) hd hs hm
    exact congrArg Host.Outcome.next (he.trans (copyEnd_ppa h1 hw))
  · have he := (effCopy_host hd hs h0 hl ho).trans (copyHost_refused hr)
    have wh : Within [.out] s (hostFetch (fnOf p) [(d.field 16 8, d.field 32 4)] s) := hostFetch_without rfl
    refine ⟨_, congrArg Host.Outcome.next he, ?_⟩
    generalize hostFetch (fnOf p) [(d.field 16 8, d.field 32 4)] s = u at wh
    exact ⟨finish_started hd (wh.part_rings p rfl) .., (wh.mono rfl).trans ((finish_within ..).mono rfl)⟩
  · exact congrArg Host.Outcome.next
      ((effCopy_host hd hs h0 hl ho).trans ((copyHost_clear hr hk).trans (copyEnd_ppa (hostRefused_space hr) hw)))
  · exact congrArg Host.Outcome.next ((effCopy_host hd hs h0 hl ho).trans (copyHost_badChunk hr hk hf))

end Sys2Proof.TransferProofs
end

section
/-! RESTORE (R534 to R537). -/

namespace Sys2Proof.RestoreProofs

open Sys2Proof Sys2Proof.Machine Sys2Proof.MemoryProofs Sys2Proof.JobFaultProofs Sys2Proof.RingProofs Sys2Proof.ScalarProofs
  Sys2Proof.UnitResetProofs Sys2Proof.TimetableProofs Sys2Proof.HeldWriteProofs Sys2Proof.TransferProofs

/-! ### The checks before a RESTORE (R534, R535) -/

/-- The statuses with which the checks refuse a RESTORE: none of them stops the partition. -/
theorem restoreBad_status {s : State} {p : Part} {man : Manifest} {list block : Bytes} {st : Byte} {x : Word} {y : BitVec 56}
    (h : restoreBad s p man list block = some (st, x, y)) : stopsPartition st = false := by
  have ends : ∀ {b : Byte} {w : Word} {z : BitVec 56}, stopsPartition b = false → some (b, w, z) = some (st, x, y) →
      stopsPartition st = false := fun hb e => by
    rw [← (Prod.mk.inj (Option.some.inj e)).1]
    exact hb
  unfold restoreBad at h
  dsimp only at h
  split at h
  · exact ends rfl h
  split at h
  · exact ends rfl h
  split at h
  · exact ends rfl h
  split at h
  · exact ends rfl h
  split at h
  · exact ends rfl h
  split at h
  · exact ends rfl h
  · obtain ⟨i, -, hi⟩ := Option.map_eq_some_iff.mp h
    exact ends rfl (congrArg some hi)

/-- What a RESTORE reads of the host first: its shard list and its manifests. -/
def planFetched (p : Part) (d : Desc) (s : State) : State :=
  hostFetch (fnOf p) [(d.field 32 8, 64 * d.field 40 4), (d.field 16 8, d.field 24 4)] s

theorem planFetched_within (p : Part) (d : Desc) (s : State) : Within [.out] s (planFetched p d s) := hostFetch_without rfl

/-- A RESTORE whose plan may be read goes by its checks. -/
theorem effRestore_eq {s : State} {p : Part} {r : Ring} {d : Desc} {man : Manifest} {list block : Bytes}
    (hd : startedDesc s p r opRestore = some d) (hm : s.parts[p].ctx.man = some man) (hn : s.parts[p].restore = none)
    (hl : list.length = 64 * d.field 40 4) (hb : block.length = d.field 24 4) (h2 : 2 ≤ d.field 40 4) (h8 : d.field 40 4 ≤ 8193)
    (ho : hostOpen s (fnOf p) = true) : effRestore p r list block s =
      match restoreBad (planFetched p d s) p man list block with
      | some (st, a, b) => failDesc p r d.idx st a b (serving (planFetched p d s) p r) (planFetched p d s)
      | none => (activate p r d.idx id (planFetched p d s)).modPart p fun q =>
          { q with restore := some ⟨⟨p, r, d.idx⟩, list, block, 1⟩ } := by
  have hg : listGiven (d.field 40 4) list = true := by
    unfold listGiven
    rw [hl]
    simp
  have hin : ¬(d.field 40 4 < 2 ∨ 8193 < d.field 40 4) := by omega
  unfold effRestore
  rw [hd, hm]
  dsimp only
  rw [if_neg (by rw [hn, hg, ho, hb]; simp), if_neg hin]
  rfl

/-- A RESTORE ends with the status of the check that refuses it, or pass 1 begins. -/
theorem restore_checks {s : State} {p : Part} {r : Ring} {d : Desc} {man : Manifest} {list block : Bytes}
    (hd : startedDesc s p r opRestore = some d) (hm : s.parts[p].ctx.man = some man) (hn : s.parts[p].restore = none)
    (hl : list.length = 64 * d.field 40 4) (hb : block.length = d.field 24 4) (h2 : 2 ≤ d.field 40 4) (h8 : d.field 40 4 ≤ 8193)
    (ho : hostOpen s (fnOf p) = true) : Does (.restore p r list block) s fun t => match restoreBad (planFetched p d s) p man list block with
      | some (st, x, y) => Ended t p r d st x y ∧ Within [.out, .rings] s t
      | none => t.parts[p].restore = some ⟨⟨p, r, d.idx⟩, list, block, 1⟩ ∧
          (∃ e ∈ t.parts[p].rings[r].descs, e.idx = d.idx ∧ e.stage = .active) ∧ Within [.out, .rings, .partRegs] s t := by
  refine ⟨_, congrArg Host.Outcome.next (effRestore_eq hd hm hn hl hb h2 h8 ho), ?_⟩
  beta_reduce
  have w := planFetched_within p d s
  generalize planFetched p d s = u at w ⊢
  obtain ⟨hmem, -⟩ := startedDesc_mem hd
  rw [← w.part_rings p rfl] at hmem
  generalize hbad : restoreBad u p man list block = x
  rcases x with _ | ⟨st, a, b⟩
  · obtain ⟨e, he, hidx, hstage⟩ := activate_active hmem
    have wa : Within [.rings] u (activate p r d.idx id u) := activate_without rfl
    generalize activate p r d.idx id u = v at he wa ⊢
    have wp : Within [.partRegs] v (v.modPart p fun q => { q with restore := some ⟨⟨p, r, d.idx⟩, list, block, 1⟩ }) :=
      modPart_without _ _ _ _ fun _ => rfl
    refine ⟨by rw [modPart_at], ⟨e, ?_, hidx, hstage⟩, (w.mono rfl).trans ((wa.mono rfl).trans (wp.mono rfl))⟩
    rw [wp.part_rings p rfl]
    exact he
  · dsimp only
    rw [failDesc_finishes (restoreBad_status hbad)]
    exact ⟨finish_started hd (w.part_rings p rfl) .., (w.mono rfl).trans ((finish_within ..).mono rfl)⟩

/-! ### Pass 1 (R536) -/

/-- A RESTORE that ends takes its descriptor with it. -/
theorem endRestore_ends {s t : State} {p : Part} {x : Restore} {d : Desc} {st : Byte} (hx : s.parts[p].restore = some x)
    (hf : findDesc s.parts[p].rings[x.ring.ring] x.ring.idx = some d) (hs : d.stage ≠ .done) (hst : stopsPartition st = false)
    {a : Word} {b : BitVec 56} (ht : endRestore p st a b s = t) :
    t.parts[p].restore = none ∧ Ended t p x.ring.ring d st a b ∧ Within [.rings, .partRegs] s t := by
  have wc : Within [.partRegs] s (clearRestore p s) := modPart_without _ _ _ _ fun _ => rfl
  have hn : (clearRestore p s).parts[p].restore = none := congrArg PartState.restore (modPart_at s p _)
  unfold endRestore at ht
  rw [hx] at ht
  dsimp only at ht
  rw [failDesc_finishes hst] at ht
  generalize clearRestore p s = u at ht wc hn
  have hi : d.idx = x.ring.idx := DescriptorProofs.findDesc_idx hf
  rw [← hi] at ht
  have wf : Within [.rings] u t := ht ▸ finish_within ..
  refine ⟨(wf.part_restore p rfl).trans hn, ?_, (wc.mono rfl).trans (wf.mono rfl)⟩
  rw [← ht]
  refine finish_ends ?_ hs _ _ _ _
  rw [wc.part_rings p rfl]
  exact List.mem_of_find?_eq_some hf

/-- The records of a RESTORE, read of the host. -/
def recordsFetched (p : Part) (list : Bytes) (recs : List Bytes) (s : State) : State :=
  hostFetch (fnOf p) (((shardsOf list).zip recs).map fun e => (e.1.host, e.2.length)) s

theorem recordsFetched_within (p : Part) (list : Bytes) (recs : List Bytes) (s : State) :
    Within [.out] s (recordsFetched p list recs s) := hostFetch_without rfl

section Pass1

variable {s : State} {p : Part} {x : Restore} {man : Manifest} {recs : List Bytes} (hx : s.parts[p].restore = some x)
  (hm : s.parts[p].ctx.man = some man) (hl : recs.length = (shardsOf x.list).length) (ho : hostOpen s (fnOf p) = true)
include hx hm hl ho

theorem effPass1_eq (h1 : x.pass = 1) : effPass1 p recs s =
    match ((shardsOf x.list).zip recs).find? fun e => !recordOk x man.jobId e.1 e.2 with
    | some e => endRestore p stRestoreDigest (w32 e.1.index) 0 (recordsFetched p x.list recs s)
    | none => (recordsFetched p x.list recs s).modPart p fun q => { q with restore := some { x with pass := 2 } } := by
  unfold effPass1
  rw [hx, hm]
  dsimp only
  rw [if_neg (by rw [h1, hl, ho]; simp)]
  rfl

theorem restorePass1Done_checks (h1 : x.pass = 1) {d : Desc} (hf : findDesc s.parts[p].rings[x.ring.ring] x.ring.idx = some d)
    (hs : d.stage ≠ .done) : Does (.restorePass1Done p recs) s fun t =>
      match ((shardsOf x.list).zip recs).find? fun e => !recordOk x man.jobId e.1 e.2 with
      | some e => t.parts[p].restore = none ∧ Ended t p x.ring.ring d stRestoreDigest (w32 e.1.index) 0 ∧
          Within [.out, .rings, .partRegs] s t
      | none => t.parts[p].restore = some { x with pass := 2 } ∧ Within [.out, .partRegs] s t := by
  refine ⟨_, congrArg Host.Outcome.next (effPass1_eq hx hm hl ho h1), ?_⟩
  beta_reduce
  have w := recordsFetched_within p x.list recs s
  generalize recordsFetched p x.list recs s = u at w ⊢
  generalize ((shardsOf x.list).zip recs).find? (fun e => !recordOk x man.jobId e.1 e.2) = y
  rcases y with _ | e
  · refine ⟨by rw [modPart_at], (w.mono rfl).trans ?_⟩
    exact modPart_without _ _ _ _ fun _ => rfl
  · obtain ⟨hn, hend, we⟩ := endRestore_ends (st := stRestoreDigest) (a := w32 e.1.index) (b := 0)
      ((w.part_restore p rfl).trans hx) (by rw [w.part_rings p rfl]; exact hf) hs rfl rfl
    exact ⟨hn, hend, (w.mono rfl).trans (we.mono rfl)⟩

/-! ### Pass 2 (R536, R537) -/

/-- Pass 2 where the supers answer and no commit record is owed: each record opened and written, then the end. -/
theorem restorePass2Done_writes (h2 : x.pass = 2) (hp : partServes s p = true)
    (hc : committing (loadShards p x man ((shardsOf x.list).zip recs) (recordsFetched p x.list recs s)).1 p = []) :
    exec (.restorePass2Done p recs) s = .next
      (match loadShards p x man ((shardsOf x.list).zip recs) (recordsFetched p x.list recs s) with
      | (u, some (.digest i)) => endRestore p stRestoreDigest (w32 i) 0 (undefinePlan p x.list u)
      | (u, some (.mem e)) => endRestore p e.status.1 e.status.2.1 e.status.2.2 (undefinePlan p x.list u)
      | (u, none) => finish p x.ring.ring x.ring.idx stOK (w32 ((shardsOf x.list).map (·.len)).sum) 0
          (serving u p x.ring.ring) (clearRestore p u)) := by
  refine congrArg Host.Outcome.next ?_
  unfold effPass2
  rw [hx, hm]
  dsimp only
  rw [if_neg (by rw [h2, hl, ho, hp]; simp)]
  change (match loadShards p x man ((shardsOf x.list).zip recs) (recordsFetched p x.list recs s) with
    | (s, some (.digest i)) => _ | (s, some (.mem e)) => _ | (s, none) => _) = _
  generalize loadShards p x man ((shardsOf x.list).zip recs) (recordsFetched p x.list recs s) = y at hc ⊢
  obtain ⟨u, _ | e⟩ := y
  · dsimp only at hc ⊢
    rw [hc]
    rfl
  · cases e <;> rfl

end Pass1

/-- Settles O42: a RESTORE by its checks, its first pass and its second. -/
theorem restoresCheckBeforeTheyWrite : Obligations.RestoresCheckBeforeTheyWrite := by
  unfold Obligations.RestoresCheckBeforeTheyWrite
  intro s p man hm
  exact ⟨fun r d list block hd hn hl hb h2 h8 ho => restore_checks hd hm hn hl hb h2 h8 ho,
    fun x d recs hx h1 hl ho hf hs => restorePass1Done_checks hx hm hl ho h1 hf hs,
    fun x recs hx h2 hl ho hp hc => restorePass2Done_writes hx hm hl ho h2 hp hc⟩

end Sys2Proof.RestoreProofs
end

section
/-! CHECKPOINT (R514, R530): what CHECKPOINT_STEP_READY does with records above the checkpoint's step. -/

namespace Sys2Proof.CheckpointProofs

open Sys2Proof Sys2Proof.Machine Sys2Proof.MemoryProofs Sys2Proof.JobFaultProofs Sys2Proof.RingProofs Sys2Proof.ScalarProofs
  Sys2Proof.UnitResetProofs Sys2Proof.TimetableProofs Sys2Proof.HeldWriteProofs Sys2Proof.TransferProofs

section Ready

variable {s u : State} {p : Part} {c : Ckpt} {rs : List (Super × Nat × DWord)} (hc : s.parts[p].ckpt = some c)
  (h1 : s.parts[p].ckptState = 1) (hl : c.list ≠ []) (hp : partServes s p = true) (hr : readCommits p (committing s p) s = (u, .ok rs))
include hc h1 hl hp hr

/-- CHECKPOINT_STEP_READY where the supers answer and the commit records can be read. -/
theorem effStepReady_read : effStepReady p s =
    if !rs.all (stepMet u c.step) then u
    else match firstDiffer rs with
    | some x => endCkpt p stRestoreMismatchStep 0 (BitVec.ofNat 56 x.toNat) u
    | none =>
      let x := (rs.head?.map (·.2.2)).getD c.step
      if c.step < x then drawn (endCkpt p stRestoreMismatchStep 0 (drawNow 56 u) u)
      else beginShards p (u.modPart p fun q => { q with ckpt := some { c with label := x } }) := by
  unfold effStepReady
  rw [hc]
  dsimp only
  rw [if_neg (by rw [h1, hp]; simp [hl]), hr] <;> rfl

/-- A super that has not met the step makes the checkpoint wait. -/
theorem stepReady_waits (ha : rs.all (stepMet u c.step) = false) : exec (.checkpointStepReady p) s = .next u := by
  refine congrArg Host.Outcome.next ((effStepReady_read hc h1 hl hp hr).trans ?_)
  rw [ha]
  rfl

/-- Records that agree on a step not above the checkpoint's begin the copy of a SNAP checkpoint (R514, R530). -/
theorem stepReady_begins (ha : rs.all (stepMet u c.step) = true) (hf : firstDiffer rs = none)
    (hx : ¬c.step < (rs.head?.map (·.2.2)).getD c.step) (hsnap : listSnap c.list = true) : Does (.checkpointStepReady p) s fun t =>
      t.parts[p].ckptState = 2 ∧ t.parts[p].ckpt = some { c with label := (rs.head?.map (·.2.2)).getD c.step } ∧
      Within [.partRegs] u t := by
  have he := effStepReady_read hc h1 hl hp hr
  rw [ha, hf] at he
  dsimp only at he
  rw [if_neg (by decide), if_neg hx] at he
  have hk := congrArg PartState.ckpt
    (modPart_at u p fun q => { q with ckpt := some { c with label := (rs.head?.map (·.2.2)).getD c.step } })
  have w : Within [.partRegs] u (u.modPart p fun q => { q with ckpt := some { c with label := (rs.head?.map (·.2.2)).getD c.step } }) :=
    modPart_without _ _ _ _ fun _ => rfl
  generalize u.modPart p (fun q => { q with ckpt := some { c with label := (rs.head?.map (·.2.2)).getD c.step } }) = v at he hk w
  have hb : beginShards p v = v.modPart p fun q => { q with ckptState := 2 } := by
    unfold beginShards
    rw [hk]
    exact if_pos hsnap
  refine ⟨_, congrArg Host.Outcome.next (he.trans hb), ?_, ?_, w.trans (modPart_without _ _ _ _ fun _ => rfl)⟩
  · rw [modPart_at]
  · rw [modPart_at]
    exact hk

end Ready

/-! ### The statement fails where a record reads a step above the checkpoint's -/

/-- A checkpoint of step 0 with SNAP. -/
def stepZero : Ckpt := { ring := none, auto := 0, list := [0, 0, 0, 0, 2], step := 0 }

/-- Super 0 of a partition of comb 0: its commit record at PPA 64 reads DONE with STEP 1, and a run of step 0 was discarded. -/
def aheadSuper : SuperState :=
  { powered := true, state := 1, tree := 1, mem := [(64, 2), (72, 1)], ctr := [(0, 1)], cache := [(nodeOf 1 64, false)]
    slots := (Vector.replicate 64 ({} : Slot)).set 1 { state := 1 }, hild := { commit := 64, discarded := [0] } }

/-- Partition 0, its region table of one region under key 1, the checkpoint of step 0 waiting. -/
def aheadPart : PartState :=
  { live := true, ready := true, rgn := (Vector.replicate 16 ({} : Region)).set 0 { kind := 1, keyId := 1, share := 1 }
    ckpt := some stepZero, ckptState := 1 }

/-- The module after reset, with that partition. -/
def aheadState : State :=
  ((State.reset.modComb 0 fun c => { c with assigned := true }).modSuper 0 fun _ => aheadSuper).modPart 0 fun _ => aheadPart

/-- The commit record of that partition: DONE, STEP 1. -/
def aheadRecords : List (Super × Nat × DWord) := [(0, 2, 1)]

theorem eq_ok_of_toOption {α ε β : Type} {x : α × Except ε β} {r : β} (h : x.2.toOption = some r) : x = (x.1, .ok r) := by
  obtain ⟨a, e | b⟩ := x
  · cases h
  · exact congrArg (fun b => (a, Except.ok b)) (Option.some.inj h)

theorem aheadState_reads : readCommits 0 (committing aheadState 0) aheadState =
    ((readCommits 0 (committing aheadState 0) aheadState).1, .ok aheadRecords) :=
  eq_ok_of_toOption (by decide +kernel)

/-- Refutes O41: its clause on CHECKPOINT_STEP_READY lets the records read a STEP above the checkpoint's, where R514 ends the
checkpoint with RESTORE_MISMATCH_STEP; here a super whose run of step 0 was discarded reads DONE with STEP 1, and the model ends
the checkpoint. Where no record reads a STEP above it the clause is `stepReady_begins`, and its first half `stepReady_waits`. -/
theorem not_checkpointsRunInSteps : ¬ Obligations.CheckpointsRunInSteps := by
  unfold Obligations.CheckpointsRunInSteps
  intro h
  obtain ⟨-, -, hready, -⟩ := h aheadState 0
  obtain ⟨-, hbegin⟩ := hready stepZero aheadRecords _ (by decide +kernel) (by decide +kernel) (by decide) (by decide +kernel)
    aheadState_reads
  obtain ⟨t, ht, hstate, -⟩ := hbegin (by decide +kernel) (by decide) (by decide) (by decide)
  obtain rfl : effStepReady 0 aheadState = t := Host.Outcome.next.inj ht
  have hended : (effStepReady 0 aheadState).parts[(0 : Part)].ckptState = 0 := by decide +kernel
  rw [hended] at hstate
  exact absurd hstate (by decide)

end Sys2Proof.CheckpointProofs
end

section
/-! The boot flash and firmware updates over PLDM (R557, R560, R569). -/

namespace Sys2Proof.FirmwareProofs

open Sys2Proof Sys2Proof.Machine Sys2Proof.MemoryProofs Sys2Proof.PortProofs Sys2Proof.ManagementProofs
  Sys2Proof.ModuleResetProofs

/-! ### What the flash reads -/

/-- Bytes in a table after a run of them is written from offset a. -/
theorem tabGet_programmed (data : Bytes) (t : Tab Byte) (a j : Nat) :
    tabGet 0xFF ((data.zipIdx a).foldl (fun t e => tabSet 0xFF t e.2 e.1) t) j =
      if a ≤ j then (data[j - a]?).getD (tabGet 0xFF t j) else tabGet 0xFF t j := by
  induction data generalizing t a with
  | nil => simp
  | cons b data ih =>
    rw [List.zipIdx_cons, List.foldl_cons, ih, tabGet_tabSet]
    by_cases hlt : a + 1 ≤ j
    · have hj : j - a = j - (a + 1) + 1 := by omega
      rw [if_pos hlt, if_neg (by omega), if_pos (by omega), hj, List.getElem?_cons_succ]
    · rw [if_neg hlt]
      by_cases hj : j = a
      · rw [if_pos hj, if_pos (Nat.le_of_eq hj.symm), hj, Nat.sub_self]
        rfl
      · rw [if_neg hj, if_neg (by omega)]

/-- What was just programmed into an erased flash reads back. -/
theorem flashRead_flashProg {s : State} (h : s.boot.erased = true) (a : Nat) (data : Bytes) :
    flashRead (flashProg a data s) a data.length = data := by
  refine List.ext_getElem (by simp [flashRead]) fun i hi hd => ?_
  have he : (flashProg a data s).boot.erased = true := h
  refine (List.getElem_map ..).trans ?_
  rw [List.getElem_range, flashAt, if_pos he]
  refine (tabGet_programmed data s.boot.flash a (a + i)).trans ?_
  rw [if_pos (by omega), Nat.add_sub_cancel_left, List.getElem?_eq_getElem hd]
  rfl

/-- The flash reads the same in states that hold the same flash. -/
theorem flashRead_congr {s t : State} (he : t.boot.erased = s.boot.erased) (hf : t.boot.flash = s.boot.flash) :
    flashRead t = flashRead s := by
  unfold flashRead flashAt
  rw [he, hf]

/-- An erased flash reads 0xFF throughout. -/
theorem flashRead_flashErase (s : State) (a n : Nat) : flashRead (flashErase s) a n = List.replicate n 0xFF := by
  refine List.ext_getElem (by simp [flashRead]) fun i hi hr => (List.getElem_map ..).trans ?_
  rw [List.getElem_replicate]
  exact if_pos rfl

/-! ### The checks of an image -/

/-- A header's checks read nothing but die 0. -/
theorem headerFail_congr {s t : State} (h : t.dies[(0 : Die)] = s.dies[(0 : Die)]) (b : Bytes) : headerFail t b = headerFail s b := by
  unfold headerFail
  rw [h]

theorem imageFail_congr {s t : State} (h : t.dies[(0 : Die)] = s.dies[(0 : Die)]) (img : Image) (agree : Bool) :
    imageFail t img agree = imageFail s img agree := by
  unfold imageFail
  dsimp only
  rw [headerFail_congr h]

/-- What leaves the flash alone keeps it. -/
theorem boot_flash_of_within {m : List Piece} {s t : State} (w : Within m s t) (h : m.contains .flash = false) :
    t.boot.flash = s.boot.flash ∧ t.boot.erased = s.boot.erased := by
  have hf := congrArg (fun x => x.boot.flash) w
  have he := congrArg (fun x => x.boot.erased) w
  simp only [State.without, Boot.without, h, Bool.false_eq_true, if_false] at hf he
  exact ⟨hf, he⟩

/-- Erased flash holds no header. -/
theorem layoutOk_blank : layoutOk (List.replicate 512 0xFF) = false := by
  have hm : ¬ fieldAt (List.replicate 512 0xFF) 0 4 = 0x46485701 := by decide
  unfold layoutOk
  simp only [decide_eq_false hm, Bool.false_and]

theorem imageFail_flashErase (s : State) (agree : Bool) : imageFail s (flashRead (flashErase s)) agree ≠ 0 := by
  have hb : headerFail s (flashRead (flashErase s) 0 512) = 2 := by
    rw [flashRead_flashErase, headerFail, layoutOk_blank]
    rfl
  unfold imageFail
  dsimp only
  rw [hb, if_pos (by decide)]
  decide

/-! ### Updates at stage READY -/

section Ready

variable {s : State} (hp : s.power.pwrgd = true) (h5 : s.boot.stage = 5)
include hp h5

theorem update_ready (f : State → State) : update f s = f s := by
  have hs : updateServes s = true := by
    unfold updateServes mctpServes
    rw [hp, h5]
    rfl
  exact if_pos hs

theorem exec_update (f : State → State) : done (update f s) = .next (f s) := congrArg Host.Outcome.next (update_ready hp h5 f)

end Ready

/-- At stage READY a block goes to the flash. -/
theorem updatePut_ready {s : State} (h5 : s.boot.stage = 5) (a : Nat) (data : Bytes) : updatePut a data s = flashProg a data s :=
  if_neg (by rw [h5]; decide)

/-- The update that a header begins. -/
def begun (h : Bytes) (m : Mgmt) : Mgmt :=
  { m with updMode := true, updErased := true, updOk := true, updHdr := h, updGot := 512, verified := false }

/-- The component ends that a block reaches hold their digests. -/
def endsGood (off upto : Nat) (m : Mgmt) (s : State) : Bool :=
  ((List.range 3).filter fun c => decide (off < compOff m.updHdr c + compLen m.updHdr c) &&
    decide (compOff m.updHdr c + compLen m.updHdr c ≤ upto)).all (compOk (updateGet s) m.updHdr)

/-- An update that is over. -/
def idle (m : Mgmt) : Mgmt :=
  { m with updMode := false, updErased := false, updOk := false, updHdr := [], updGot := 0, verified := false }

/-- An image in the flash that passes R560 is erased where an update had begun to write. -/
def eraseValid (s : State) : State :=
  if s.mgmt.updErased = true ∧ imageFail s (flashRead s) true = 0 then flashErase s else s

/-- The staging area an update held is free. -/
def unstage (b : Boot) : Boot := if b.staging = 2 ∧ b.stageLen = 0 then { b with staging := 0 } else b

section Update

variable {s : State} (h5 : s.boot.stage = 5)
include h5

theorem effPldmUpdate_refused {h : Bytes} (hm : s.mgmt.updMode = false) (hb : s.boot.busy = false) (hs : s.boot.staging = 0)
    (hf : headerFail s h ≠ 0) : effPldmUpdate h s = emit (.pldm false []) s := by
  have h6 : ¬ (s.boot.stage = 6 ∧ h.length = 512) := by rw [h5]; exact fun hc => absurd hc.1 (by decide)
  unfold effPldmUpdate
  rw [if_neg (by simp [hm, hb, hs]), if_pos (.inr hf), if_neg h6]

theorem effPldmUpdate_begins {h : Bytes} (hm : s.mgmt.updMode = false) (hb : s.boot.busy = false) (hs : s.boot.staging = 0)
    (hl : h.length = 512) (hf : headerFail s h = 0) :
    effPldmUpdate h s = emit (.pldm true []) (flashProg 0 h ((flashErase s).modMgmt (begun h))) := by
  have h6 : ¬ s.boot.stage = 6 := by rw [h5]; decide
  unfold effPldmUpdate
  rw [if_neg (by simp [hm, hb, hs]), if_neg (by simp [hl, hf]), if_neg h6]
  exact congrArg (emit _) (updatePut_ready (s := (flashErase s).modMgmt (begun h)) h5 0 h)

theorem effPldmTransfer_takes {off : Nat} {data : Bytes} (hm : s.mgmt.updMode = true) (hd : data ≠ []) (hl : data.length ≤ 4096)
    (ho : off = s.mgmt.updGot) (hlen : off + data.length ≤ fieldAt s.mgmt.updHdr 4 4) :
    effPldmTransfer off data s = emit (.pldm true []) ((flashProg off data s).modMgmt fun m =>
      { m with updGot := off + data.length
               updOk := m.updOk && endsGood off (off + data.length) s.mgmt (flashProg off data s) }) := by
  have hc : ¬ (!s.mgmt.updMode ∨ data = [] ∨ 4096 < data.length ∨ off ≠ s.mgmt.updGot ∨
      fieldAt s.mgmt.updHdr 4 4 < off + data.length) := by
    simp [hm, hd, ← ho]; omega
  unfold effPldmTransfer
  refine (if_neg hc).trans ?_
  rw [updatePut_ready h5]
  rfl

theorem effVerify_answers (hm : s.mgmt.updMode = true) {ok : Bool}
    (hok : (s.mgmt.updOk && decide (fieldAt s.mgmt.updHdr 4 4 ≤ s.mgmt.updGot)) = ok) :
    effVerify s = emit (.pldm ok []) (s.modMgmt fun m => { m with verified := ok }) := by
  subst hok
  have h6 : ¬ s.boot.stage = 6 := by rw [h5]; decide
  unfold effVerify
  rw [if_neg (by simp [hm])]
  exact congrArg (emit _) (if_neg fun hc => h6 hc.1)

theorem effActivate_resets (hm : s.mgmt.updMode = true) (hv : s.mgmt.verified = true) :
    effActivate s = moduleReset false (emit (.pldm true [6, 0]) s) := by
  have h6 : ¬ s.boot.stage = 6 := by rw [h5]; decide
  unfold effActivate
  rw [if_neg (by simp [hm, hv])]
  exact if_neg h6

theorem effCancelUpdate_ends (hm : s.mgmt.updMode = true) :
    effCancelUpdate s = emit (.pldm true []) (((eraseValid s).modMgmt idle).modBoot unstage) := by
  unfold effCancelUpdate
  rw [if_neg (by simp [hm])]
  unfold eraseValid
  simp only [h5, true_and]
  rfl

end Update

/-! ### What each leaves -/

/-- The flash and the management registers are all that a header begun changes beside its answer. -/
theorem begun_within (s : State) (h : Bytes) :
    Within [.out, .mgmt, .flash] s (emit (.pldm true []) (flashProg 0 h ((flashErase s).modMgmt (begun h)))) := by
  have hm : Within [.out, .mgmt, .flash] (flashErase s) ((flashErase s).modMgmt (begun h)) := modMgmt_without _ _ _ rfl
  have he : Within [.out, .mgmt, .flash] s (flashErase s) := flashErase_without rfl
  exact Eq.trans (emit_without _ _ _ rfl) (Eq.trans (flashProg_without rfl) (hm.trans he))

theorem block_within (s : State) (off : Nat) (data : Bytes) (f : Mgmt → Mgmt) :
    Within [.out, .mgmt, .flash] s (emit (.pldm true []) ((flashProg off data s).modMgmt f)) := by
  have he : Within [.out, .mgmt, .flash] s (flashProg off data s) := flashProg_without rfl
  exact Eq.trans (emit_without _ _ _ rfl) (Eq.trans (modMgmt_without _ _ _ rfl) he)

theorem verified_within (s : State) (ok : Bool) (f : Mgmt → Mgmt) : Within [.out, .mgmt] s (emit (.pldm ok []) (s.modMgmt f)) :=
  Eq.trans (emit_without _ _ _ rfl) (modMgmt_without _ _ _ rfl)

/-! ### The end of an update -/

theorem eraseValid_within (s : State) : Within [.flash] s (eraseValid s) :=
  ite_without (fun _ => flashErase_without rfl) fun _ => rfl

/-- Erasing the flash changes neither the output nor a die. -/
theorem eraseValid_out (s : State) : (eraseValid s).out = s.out := (eraseValid_within s).out_eq rfl

theorem eraseValid_dies (s : State) : (eraseValid s).dies = s.dies := by
  unfold eraseValid
  split <;> rfl

/-- Releasing the staging area keeps everything of the boot registers but its holder. -/
theorem unstage_flash (b : Boot) : (unstage b).flash = b.flash ∧ (unstage b).erased = b.erased := by
  unfold unstage
  split <;> exact ⟨rfl, rfl⟩

theorem cancelled_within (s : State) :
    Within [.out, .mgmt, .boot, .flash] s (emit (.pldm true []) (((eraseValid s).modMgmt idle).modBoot unstage)) := by
  have he : Within [.out, .mgmt, .boot, .flash] s (eraseValid s) := (eraseValid_within s).mono rfl
  have hb : Within [.out, .mgmt, .boot, .flash] ((eraseValid s).modMgmt idle) (((eraseValid s).modMgmt idle).modBoot unstage) :=
    modBoot_without _ _ _ fun b => by
      obtain ⟨hf, hr⟩ := unstage_flash b
      simp [Boot.without]
  have hm : Within [.out, .mgmt, .boot, .flash] (eraseValid s) ((eraseValid s).modMgmt idle) := modMgmt_without _ _ _ rfl
  exact Eq.trans (emit_without _ _ _ rfl) ((he.trans hm).trans hb)

/-- The flash an ended update leaves reads as the one its erasing left. -/
theorem flashRead_cancelled (s : State) :
    flashRead (emit (.pldm true []) (((eraseValid s).modMgmt idle).modBoot unstage)) = flashRead (eraseValid s) := by
  obtain ⟨hf, he⟩ := unstage_flash (eraseValid s).boot
  exact flashRead_congr he hf

/-- After an update that began to write, no image passes R560. -/
theorem eraseValid_fails (s : State) (h : s.mgmt.updErased = true) : imageFail s (flashRead (eraseValid s)) true ≠ 0 := by
  unfold eraseValid
  by_cases hf : imageFail s (flashRead s) true = 0
  · rw [if_pos ⟨h, hf⟩]
    exact imageFail_flashErase s true
  · rw [if_neg fun hc => hf hc.2]
    exact hf

theorem eraseValid_keeps {s : State} (h : imageFail s (flashRead s) true ≠ 0) : eraseValid s = s := if_neg fun hc => h hc.2

/-! ### The reset that activates an image -/

/-- No event ring is enabled: events that are posted are counted, none is written (R488). -/
def Muted (s : State) : Prop := s.mod.evq.enable = false ∧ ∀ p : Part, s.parts[p].evq.enable = false

theorem evOut_disabled {e : EvRing} (h : e.enable = false) (f : Fn) (ty c : Byte) (k : Comb) (t : DWord) (b : BitVec 48)
    (d : BitVec 56) : evOut f e ty c k t b d = [] := if_neg (by simp [EvRing.free, h])

theorem push_enable (e : EvRing) : e.push.enable = e.enable := by
  unfold EvRing.push
  split <;> rfl

/-- A muted module stays muted and nothing leaves it. -/
def Silent (s t : State) : Prop := Muted t ∧ t.out = s.out

theorem eventToPf0_silent {s : State} (h : Muted s) (ty c : Byte) (k : Comb) (d : BitVec 56) : Silent s (eventToPf0 ty c k d s) := by
  unfold eventToPf0
  rw [evOut_disabled h.1]
  exact ⟨⟨(push_enable _).trans h.1, h.2⟩, rfl⟩

theorem eventToPart_silent {s : State} (h : Muted s) (p : Part) (ty c : Byte) (k : Comb) (d : BitVec 56) :
    Silent s (eventToPart p ty c k d s) := by
  unfold eventToPart
  rw [evOut_disabled (h.2 p)]
  refine ⟨⟨h.1, fun q => ?_⟩, rfl⟩
  by_cases hq : p = q
  · subst hq
    exact (congrArg (fun x : PartState => x.evq.enable) (modPart_same ..)).trans ((push_enable _).trans (h.2 p))
  · exact (congrArg (fun x : PartState => x.evq.enable) (modPart_other _ _ _ _ hq)).trans (h.2 q)

theorem skipReseed_silent {s : State} (h : Muted s) (k : Comb) : Silent s (skipReseed k s) := by
  unfold skipReseed
  dsimp only
  split
  · next p _ =>
    have h1 := eventToPart_silent (s := s.modComb k fun c => { c with rng := { c.rng with skip := hit 16 c.rng.skip } }) h p
      evWarning 0x80 k (Config.openDetail evWarning 0x80)
    have h2 := eventToPf0_silent h1.1 evWarning 0x80 k (Config.openDetail evWarning 0x80)
    exact ⟨h2.1, h2.2.trans h1.2⟩
  · exact eventToPf0_silent (s := s.modComb k fun c => { c with rng := { c.rng with skip := hit 16 c.rng.skip } }) h _ _ _ _

theorem reseed_silent {s : State} (h : Muted s) (k : Comb) : Silent s (reseed k none s) := by
  unfold reseed
  split
  · exact ⟨h, rfl⟩
  · exact skipReseed_silent h k

theorem reseedAll_silent {s : State} (h : Muted s) : Silent s (reseedAll s) :=
  forEach_invariant (I := Silent s) (fun k t ht => by
    have hr := reseed_silent ht.1 k
    exact ⟨hr.1, hr.2.trans ht.2⟩) _ ⟨h, rfl⟩

/-- Event rings are disabled as the units come out of a module reset. -/
theorem resetBase_muted (cold : Bool) (s : State) : Muted (powerAll (resetBase cold s)) := by
  have w := powerAll_within (resetBase cold s)
  refine ⟨by rw [w.mod_eq rfl]; rfl, fun p => ?_⟩
  rw [w.part_evq p rfl, resetBase_part]
  cases cold <;> rfl

theorem resetBase_out (cold : Bool) (s : State) : (resetBase cold s).out = s.out := rfl

theorem resetBase_flash (cold : Bool) (s : State) : (resetBase cold s).boot.flash = s.boot.flash := rfl

theorem warmReset_out {s : State} (h : Calm s) : (moduleReset false s).out = s.out := by
  have hq : (quietAll s).out = s.out := (quietAll_calm h).out_eq rfl
  rw [moduleReset_eq, (reseedAll_silent (resetBase_muted ..)).2, (powerAll_within _).out_eq rfl, resetBase_out, resetFrom_warm, hq]

/-- A module reset keeps the flash. -/
theorem warmReset_flash (s : State) : (moduleReset false s).boot.flash = s.boot.flash := by
  have hq : Within [.out, .host, .superMem, .superTree, .superKeys, .superRegs, .partRegs, .fuses, .queen, .mod] s (quietAll s) :=
    forEach_without _ _ _ _ fun _ _ => quietSuper_without rfl
  have hb := (boot_flash_of_within (moduleReset_after false s) rfl).1
  rw [hb, resetBase_flash, resetFrom_warm, (boot_flash_of_within hq rfl).1]

/-- Settles O17: at stage READY each request is one update of the flash and the management registers and one answer. -/
theorem firmwareUpdates : Obligations.FirmwareUpdates := by
  unfold Obligations.FirmwareUpdates
  intro s hp h5
  refine ⟨fun h hm hb hs hl => ⟨_, exec_update hp h5 _, ?_⟩, fun off data hm hd hl ho hlen he => ⟨_, exec_update hp h5 _, ?_⟩,
    fun hm => ⟨_, exec_update hp h5 _, ?_⟩, fun hm hv => ⟨_, exec_update hp h5 _, ?_⟩, fun hm => ⟨_, exec_update hp h5 _, ?_⟩⟩
  · split
    · next hf =>
      rw [effPldmUpdate_begins h5 hm hb hs hl hf]
      refine ⟨rfl, rfl, rfl, ?_, begun_within s h⟩
      have hr := flashRead_flashProg (s := (flashErase s).modMgmt (begun h)) rfl 0 h
      rw [hl] at hr
      exact hr
    · next hf =>
      rw [effPldmUpdate_refused h5 hm hb hs hf]
      rfl
  · rw [effPldmTransfer_takes h5 hm hd hl ho hlen]
    exact ⟨rfl, rfl, flashRead_flashProg he off data, block_within s off data _⟩
  · rw [effVerify_answers h5 hm rfl]
    exact ⟨rfl, rfl, verified_within s _ _⟩
  · rw [effActivate_resets h5 hm hv]
    obtain ⟨hst, hk, hmod, -⟩ := moduleReset_registers false (emit (.pldm true [6, 0]) s)
    exact ⟨fun hc => warmReset_out hc, hst, hk, hmod, warmReset_flash _⟩
  · rw [effCancelUpdate_ends h5 hm]
    refine ⟨congrArg (_ :: ·) (eraseValid_out s), rfl, fun he => ?_, fun hf => ?_, cancelled_within s⟩
    · rw [flashRead_cancelled, imageFail_congr (s := s) ?_]
      · exact eraseValid_fails s he
      · exact congrArg (fun ds : Vector DieState 2 => ds[(0 : Die)]) (eraseValid_dies s)
    · exact (unstage_flash _).1.trans (congrArg (fun t : State => t.boot.flash) (eraseValid_keeps hf) :)

end Sys2Proof.FirmwareProofs
end

section
/-! Boot: the stages, recovery mode and the fused SVN (R560–R564). -/

namespace Sys2Proof.BootProofs

open Sys2Proof Sys2Proof.Machine Sys2Proof.MemoryProofs Sys2Proof.JobFaultProofs Sys2Proof.PortProofs Sys2Proof.SuperProofs
  Sys2Proof.ScalarProofs Sys2Proof.ModuleResetProofs Sys2Proof.RecoveryProofs Sys2Proof.CrownProofs Sys2Proof.FirmwareProofs

/-- What leaves the boot registers and the flash alone keeps both. -/
theorem boot_of_within {m : List Piece} {s t : State} (w : Within m s t) (hb : m.contains .boot = false)
    (hf : m.contains .flash = false) : t.boot = s.boot := by
  have h := congrArg State.boot w
  simpa only [State.without, Boot.without, hb, hf, Bool.false_eq_true, if_false] using h

/-! ### From stage ROM to a checked image (R560, R562) -/

section Rom

variable {s : State}

theorem bootStart_loads (hp : s.power.pwrgd = true) (h0 : s.boot.stage = 0) (hm : s.evt.modState ≠ 2)
    (hr : s.boot.toRecovery = false) : exec .bootStart s = .next { s with
      boot := { s.boot with boots := s.boot.boots + 1, stage := 1 }
      power := { s.power with frefOk := !s.power.frefLost, prefOk := !s.power.prefLost
                              fixed := { queens := 3, pcie := true, debug := true, noc := 3, bridge := 3 } } } := by
  have hc : ¬ (!decide (s.power.pwrgd = true ∧ s.boot.stage = 0 ∧ s.evt.modState ≠ 2)) = true := by simp [hp, h0]; exact hm
  refine congrArg Host.Outcome.next ((if_neg hc).trans (if_neg ?_))
  show ¬ s.boot.toRecovery = true
  rw [hr]
  decide

theorem loads_within (b : Boot) (p : Power) (hf : b.flash = s.boot.flash) (he : b.erased = s.boot.erased) :
    Within [.power, .boot] s { s with boot := b, power := p } := by
  simp [Within, State.without, Boot.without, hf, he]

/-- Recovery mode: the stage, the FAIL code, and the crown as it was. -/
theorem toRecovery_enters (f : Nat) (s : State) : (toRecovery f s).boot.stage = 6 ∧ (toRecovery f s).boot.fail = BitVec.ofNat 4 f ∧
    (toRecovery f s).queen.epoch = s.queen.epoch := ⟨rfl, rfl, rfl⟩

end Rom

/-- The boot registers under a checked image. -/
def checked (h : Bytes) (new : BitVec 512) (b : Boot) : Boot := { b with
  stage := 4, imgSvn := hdrSvn h, commit := hdrCommit h, buildId := w64 (fieldAt h 16 8), dQueen := measured h 1
  dSeq := measured h 2, dHild := measured h 3, cdi1 := new, toRecovery := false, busy := false, staging := 0 }

/-- The state in which die 0 takes the crown. -/
def beforeCrown (img : Image) (s : State) : State :=
  let new := cdi1Of (measured (img 0 512) 1) (measured (img 0 512) 2) (measured (img 0 512) 3) (hdrSvn (img 0 512))
  reattest s.boot.cdi1 new (logBoot 0 (s.modBoot (checked (img 0 512) new)))

theorem beforeCrown_keeps (img : Image) (s : State) : (beforeCrown img s).queen.epoch = s.queen.epoch ∧
    ∃ new, (beforeCrown img s).boot = checked (img 0 512) new s.boot := by
  unfold beforeCrown
  dsimp only
  generalize cdi1Of _ _ _ _ = new
  have w : ∀ old t, Within [.router, .superKeys, .ctx] t (reattest old new t) := fun _ _ => reattest_without rfl
  have hq := (w s.boot.cdi1 (logBoot 0 (s.modBoot (checked (img 0 512) new)))).queen_eq rfl
  exact ⟨by rw [hq]; rfl, new, boot_of_within (w _ _) rfl rfl⟩

/-- Die 0 reigns; the epoch is 1, or goes on after a warm reset (R440, R562). -/
theorem firstCrown_crowns (s : State) : (firstCrown s).queen.die = 0 ∧ (firstCrown s).queen.q0 = 2 ∧
    (firstCrown s).queen.epoch = (if s.boot.kind = .warm then s.queen.epoch + 1 else 1) ∧ (firstCrown s).boot = s.boot := by
  have w : ∀ e d t, Within [.dies] t (broadcast e d t) := fun _ _ _ => broadcast_without rfl
  unfold firstCrown
  dsimp only
  have hq := fun e t => (w e 0 t).queen_eq rfl
  have hb := fun e t => boot_of_within (w e 0 t) rfl rfl
  rw [hq, hb]
  exact ⟨rfl, rfl, rfl, rfl⟩

/-- The image checked, stage FIRMWARE is passed: die 0 reigns over a module in self-test. -/
theorem startFirmware_starts (img : Image) (s : State) : (startFirmware img s).queen.die = 0 ∧ (startFirmware img s).queen.q0 = 2 ∧
    (startFirmware img s).queen.epoch = (if s.boot.kind = .warm then s.queen.epoch + 1 else 1) ∧
    ∃ new, (startFirmware img s).boot = checked (img 0 512) new s.boot := by
  obtain ⟨he, new, hb⟩ := beforeCrown_keeps img s
  obtain ⟨hdie, hq0, hep, hboot⟩ := firstCrown_crowns (beforeCrown img s)
  have w : ∀ c t, Within [.draws, .combMap, .hum, .combRegs, .router, .superMem, .superTree, .superKeys, .superRegs, .mod] t
      (bringUp c t) := fun _ _ => bringUp_without rfl
  have hs : ∃ c, startFirmware img s = bringUp c (firstCrown (beforeCrown img s)) := ⟨_, rfl⟩
  obtain ⟨c, hs⟩ := hs
  have hk : (beforeCrown img s).boot.kind = s.boot.kind := by rw [hb]; rfl
  rw [hs, (w c _).queen_eq rfl, boot_of_within (w c _) rfl rfl, hboot]
  refine ⟨hdie, hq0, ?_, new, hb⟩
  rw [hep, hk, he]

/-- IMAGE_LOADED with an answering flash: the image runs, or recovery mode names the check that failed. -/
theorem effImageLoaded_read {s : State} (h1 : s.boot.stage = 1) (agree : Bool) :
    effImageLoaded true agree s = (let u : State := { s with boot := { s.boot with imgSvn := hdrSvn (flashRead s 0 512) } }
      if imageFail u (flashRead u) agree = 0 then startFirmware (flashRead u) u
      else toRecovery (imageFail u (flashRead u) agree) u) := by
  unfold effImageLoaded
  rw [if_neg (not_not_intro h1), if_neg (by decide)]
  unfold State.modBoot
  rfl

theorem effImageLoaded_noFlash {s : State} (h1 : s.boot.stage = 1) (agree : Bool) : effImageLoaded false agree s = toRecovery 1 s := by
  unfold effImageLoaded
  rw [if_neg (not_not_intro h1)]
  rfl

/-! ### BOOT_READY (R562, R563) -/

/-- No super has a pinned node that fails or a request that waits. -/
def Sound (s : State) : Prop := ∀ k : Super, failedPins s.supers[k] k = [] ∧ s.supers[k].waiting = .replicate 6 []

theorem Sound.of_supers {s t : State} (h : Sound s) (e : t.supers = s.supers) : Sound t := by
  unfold Sound
  rw [e]
  exact h

theorem Sound.of_within {s t : State} (h : Sound s) (w : Within [.partRegs] s t) : Sound t := fun k => by
  rw [within_super w k rfl]
  exact h k

theorem Sound.modSuper {s : State} (h : Sound s) (k : Super) {f : SuperState → SuperState}
    (hf : ∀ u, failedPins (f u) k = failedPins u k ∧ (f u).waiting = u.waiting) : Sound (s.modSuper k f) := fun j => by
  by_cases hj : k = j
  · subst hj
    rw [modSuper_at, (hf _).1, (hf _).2]
    exact h k
  · have e : (s.modSuper k f).supers[j] = s.supers[j] := modSuper_other s k j f hj
    rw [e]
    exact h j

theorem ewSuper_within (k : Super) (m : Fin 7) (s : State) : Within [.partRegs] s (ewSuper k m s) := ewSuper_without rfl

theorem Sound.needRepair {s : State} (h : Sound s) (k : Super) (r : Nat) : Sound (needRepair k r s) := by
  unfold Machine.needRepair
  dsimp only
  split
  · exact h
  · split
    · exact (h.modSuper k (f := fun u => { u with pprExh := hit 16 u.pprExh }) fun u => ⟨rfl, rfl⟩).of_within (ewSuper_within ..)
    · refine h.modSuper k fun u => ?_
      split <;> exact ⟨rfl, rfl⟩

theorem Sound.nextRepair {s : State} (h : Sound s) (k : Super) : Sound (nextRepair k s) :=
  forEach_invariant (I := Sound) (fun r _ ht => ht.needRepair k r) _ (h.modSuper k fun _ => ⟨rfl, rfl⟩)

theorem Sound.superAwake {s : State} (h : Sound s) (k : Super) : Sound (superAwake k s) := by
  have hk : Sound (keySuperLink k s) :=
    (h.modSuper k (f := fun u => { u with link := freshLink (drawNow 512 s) }) fun _ => ⟨rfl, rfl⟩).of_supers rfl
  exact hk.modSuper k fun _ => ⟨rfl, rfl⟩

/-- A sound super wakes without touching a context, a fuse or the boot registers. -/
theorem wakeController_sound {s : State} (h : Sound s) (k : Super) :
    Sound (wakeController k s) ∧ Within [.draws, .superRegs, .partRegs] s (wakeController k s) := by
  have ha := h.superAwake k
  have he : wakeController k s = nextRepair k (noteAgain k [] (superAwake k s)) := by
    have hw : wakeController k s =
        (let ns := failedPins (superAwake k s).supers[k] k
        nextRepair k (noteAgain k ns (forEach ns (fun n s => nodeNote k n s) (superAwake k s)))) := rfl
    rw [hw]
    generalize superAwake k s = u at ha
    dsimp only
    rw [(ha k).1]
    rfl
  have wa : Within [.draws, .superRegs, .partRegs] s (superAwake k s) := (superAwake_within k s).mono rfl
  have wn : Within [.draws, .superRegs, .partRegs] (superAwake k s) (noteAgain k [] (superAwake k s)) := (noteAgain_within ..).mono rfl
  have wr : Within [.draws, .superRegs, .partRegs] (noteAgain k [] (superAwake k s)) (nextRepair k (noteAgain k [] (superAwake k s))) :=
    nextRepair_without rfl
  rw [he]
  exact ⟨(ha.of_within (noteAgain_within ..)).nextRepair k, wa.trans (wn.trans wr)⟩

/-- What a sound super coming up after self-test changes. -/
abbrev readyPieces : List Piece := [.draws, .superRegs, .superTree, .partRegs]

theorem readySuper_sound {s : State} (h : Sound s) (k : Super) : Sound (readySuper k s) ∧ Within readyPieces s (readySuper k s) := by
  obtain ⟨hw, w⟩ := wakeController_sound h k
  have ht : Sound ((wakeController k s).modSuper k fun u => { u with tree := if u.tree = 0 then 1 else u.tree }) :=
    hw.modSuper k fun _ => ⟨rfl, rfl⟩
  have wt : Within readyPieces (wakeController k s)
      ((wakeController k s).modSuper k fun u => { u with tree := if u.tree = 0 then 1 else u.tree }) :=
    modSuper_without _ _ _ _ fun _ => rfl
  unfold readySuper
  split
  · exact ⟨h, rfl⟩
  · dsimp only
    rw [(h k).1, RegionProofs.resumeSuper_idle (ht k).2]
    exact ⟨ht, (w.mono rfl).trans wt⟩

/-- Where no row fails the march test, self-test draws at most its value. -/
theorem marchRepair_clean {s : State} (h : s.boot.kind ≠ .powerOn ∨ Config.marchRows s.draws = []) :
    (marchRepair s).supers = s.supers ∧ Within [.draws] s (marchRepair s) := by
  unfold marchRepair doIf
  split
  · next hk =>
    rcases h with h | h
    · exact absurd (beq_iff_eq.mp hk) h
    · beta_reduce
      rw [h]
      exact ⟨rfl, rfl⟩
  · exact ⟨rfl, rfl⟩

/-- The fused SVN of a die as fuseSvn leaves it. -/
theorem fuseSvn_die (s : State) (d : Die) : (fuseSvn s).dies[d].svn =
    if s.dies[d].svn.toNat < s.boot.imgSvn.toNat then s.boot.imgSvn else s.dies[d].svn := by
  have h := forEach_once_mem (I := fun t => t.boot.imgSvn = s.boot.imgSvn) (a := d) (l := fins 2) (s := s)
    (g := fun v => if v.toNat < s.boot.imgSvn.toNat then s.boot.imgSvn else v) (fun t : State => t.dies[d].svn)
    (f := fun d s => s.modDie d fun x => { x with svn := if x.svn.toNat < s.boot.imgSvn.toNat then s.boot.imgSvn else x.svn })
    (fun _ _ h => h) (fun t ht => by rw [modDie_at, ht])
    (fun b t hb _ => congrArg DieState.svn (modDie_other t b d _ hb)) (fins_nodup 2) (mem_fins d) rfl
  exact h

/-- The state when the supers are ready and stage READY begins. -/
def readied (s : State) : State := powerAll ((forEach (fins 8) readySuper (marchRepair s)).modBoot fun b => { b with stage := 5 })

/-- The queen regions open. -/
def regionsOpen (s : State) : State :=
  forEach (fins 2) (fun d s => s.modDie d fun x => { x with region := !s.supers[regionSuper d].dieMark }) s

/-- The reset that a boot ends is reported (R511). -/
def bootReported (s : State) : State :=
  match s.boot.kind with
  | .powerOn => s
  | .cold => unitResetDone domCold 0 s
  | .warm => unitResetDone domWarm 0 s

/-- The registers a boot leaves when it is done. -/
def bootOpened (s : State) : State :=
  platEvent 2 21 5 (platEvent 2 20 0 ((doIf (regionsOpen s).boot.commit fuseSvn (regionsOpen s)).modEvt fun e => { e with modState := 0 }))

theorem effBootReady_eq {s : State} (h : s.boot.stage = 4) : effBootReady s = bootReported (bootOpened (readied s)) := by
  unfold effBootReady
  rw [if_neg (not_not_intro h)]
  extract_lets a b c d e f
  have hb : b = readied s := by unfold readied; with_reducible rfl
  have hc : c = regionsOpen b := by unfold regionsOpen; with_reducible rfl
  have hf : f = bootOpened b := by unfold bootOpened; rw [← hc]
  rw [← hb, ← hf]
  clear_value f
  rfl

theorem regionsOpen_within (s : State) : Within [.dies] s (regionsOpen s) :=
  forEach_without _ _ _ _ fun _ _ => modDie_without _ _ _ _ fun _ => rfl

theorem unitResetDone_keeps (d : BitVec 4) (s : State) : (unitResetDone d 0 s).boot = s.boot ∧ (unitResetDone d 0 s).dies = s.dies ∧
    (unitResetDone d 0 s).evt.modState = s.evt.modState := by
  have w : ∀ t, Within [.out, .host, .mod] t (eventToPf0 evRecoveryDone 0 0 (d.setWidth 56) t) := fun _ => eventToPf0_without rfl
  have wd : Within [.out, .host, .evt, .mod] s (unitResetDone d 0 s) := unitResetDone_without rfl
  refine ⟨boot_of_within wd rfl rfl, Vector.ext fun i hi => wd.die ⟨i, hi⟩, ?_⟩
  unfold unitResetDone
  rw [(w _).evt_eq rfl]
  rfl

theorem bootReported_keeps (s : State) : (bootReported s).boot = s.boot ∧ (bootReported s).dies = s.dies ∧
    (bootReported s).evt.modState = s.evt.modState := by
  unfold bootReported
  split
  · exact ⟨rfl, rfl, rfl⟩
  · exact unitResetDone_keeps ..
  · exact unitResetDone_keeps ..

/-- The opened registers: the boot registers as they were, the module state 0. -/
theorem bootOpened_keeps (s : State) : (bootOpened s).boot.stage = s.boot.stage ∧ (bootOpened s).evt.modState = 0 := by
  have wr := regionsOpen_within s
  have wf : Within [.fuses] (regionsOpen s) (doIf (regionsOpen s).boot.commit fuseSvn (regionsOpen s)) :=
    ite_without (fun _ => fuseSvn_without rfl) fun _ => rfl
  exact ⟨(wf.boot_stage rfl).trans (wr.boot_stage rfl), rfl⟩

/-- The fuses BOOT_READY leaves (R563). -/
theorem bootOpened_svn (s : State) (d : Die) : (bootOpened s).dies[d].svn =
    if s.boot.commit = true ∧ s.dies[d].svn.toNat < s.boot.imgSvn.toNat then s.boot.imgSvn else s.dies[d].svn := by
  have wr := regionsOpen_within s
  have hb := boot_of_within wr rfl rfl
  have hd := wr.die_svn d rfl
  have ho : (bootOpened s).dies[d].svn = (doIf (regionsOpen s).boot.commit fuseSvn (regionsOpen s)).dies[d].svn := rfl
  rw [ho]
  unfold doIf
  rw [hb]
  split
  · next hc => rw [fuseSvn_die, hb, hd]; simp only [hc, true_and]
  · next hc => rw [hd, if_neg fun h => hc h.1]

theorem readied_stage (s : State) : (readied s).boot.stage = 5 := by
  unfold readied
  rw [(powerAll_within _).boot_stage rfl, modBoot_boot]

/-- A clean self-test leaves the fuses and the image's registers alone. -/
theorem readied_clean {s : State} (hm : s.boot.kind ≠ .powerOn ∨ Config.marchRows s.draws = []) (hs : Sound s) (d : Die) :
    (readied s).dies[d].svn = s.dies[d].svn ∧ (readied s).boot.commit = s.boot.commit ∧ (readied s).boot.imgSvn = s.boot.imgSvn := by
  obtain ⟨hsup, wm⟩ := marchRepair_clean hm
  have hr : Within readyPieces s (forEach (fins 8) readySuper (marchRepair s)) :=
    (forEach_invariant (I := fun t => Sound t ∧ Within readyPieces s t) (fun k t ht => by
      obtain ⟨hk, wk⟩ := readySuper_sound ht.1 k
      exact ⟨hk, ht.2.trans wk⟩) _ ⟨hs.of_supers hsup, wm.mono rfl⟩).2
  generalize hu : forEach (fins 8) readySuper (marchRepair s) = u at hr
  have hb := boot_of_within hr rfl rfl
  have hp := powerAll_within (u.modBoot fun b => { b with stage := 5 })
  unfold readied
  rw [hu, hp.die_svn d rfl, boot_of_within hp rfl rfl, modBoot_dies, modBoot_boot, hr.die_svn d rfl, hb]
  exact ⟨rfl, rfl, rfl⟩

theorem bootReady_opens {s : State} (h : s.boot.stage = 4) : (effBootReady s).boot.stage = 5 ∧ (effBootReady s).evt.modState = 0 := by
  obtain ⟨hb, -, he⟩ := bootReported_keeps (bootOpened (readied s))
  obtain ⟨hs, hm⟩ := bootOpened_keeps (readied s)
  rw [effBootReady_eq h, hb, he]
  exact ⟨hs.trans (readied_stage s), hm⟩

theorem bootReady_svn {s : State} (h : s.boot.stage = 4) (hm : s.boot.kind ≠ .powerOn ∨ Config.marchRows s.draws = []) (hs : Sound s)
    (d : Die) : (effBootReady s).dies[d].svn =
      if s.boot.commit = true ∧ s.dies[d].svn.toNat < s.boot.imgSvn.toNat then s.boot.imgSvn else s.dies[d].svn := by
  obtain ⟨-, hd, -⟩ := bootReported_keeps (bootOpened (readied s))
  obtain ⟨hsvn, hc, hi⟩ := readied_clean hm hs d
  rw [effBootReady_eq h, hd, bootOpened_svn, hsvn, hc, hi]

/-! ### QN_BOOT_CMD and recovery mode (R563, R564) -/

section Command

variable {s : State} (hp : s.power.pwrgd = true)
include hp

/-- PF0 of a powered module is served in every stage. -/
theorem open_pf0 (f : State → State) : done (doIf (bootCmdOpen 0 s) f s) = .next (f s) := by
  have h : bootCmdOpen 0 s = true := by simp [bootCmdOpen, hp]
  rw [h]
  rfl

theorem enterRecovery_resets (hb : s.boot.busy = false) (h5 : s.boot.stage = 5) :
    exec (.enterRecovery 0) s = .next (moduleReset false (s.modBoot fun b => { b with toRecovery := true })) := by
  refine (open_pf0 hp _).trans (congrArg Host.Outcome.next ?_)
  unfold effEnterRecovery
  rw [if_neg (by rw [hb]; decide), if_neg (not_not_intro h5)]

theorem commitSvn_fuses (hb : s.boot.busy = false) (h5 : s.boot.stage = 5)
    (hv : s.dies[(0 : Die)].svn.toNat < s.boot.imgSvn.toNat) : exec (.commitSvn 0) s = .next (bootErr 0 (fuseSvn s)) := by
  refine (open_pf0 hp _).trans (congrArg Host.Outcome.next ?_)
  unfold effCommitSvn
  rw [if_neg (by rw [hb]; decide), if_neg (not_not_intro h5), if_neg (by omega)]

section RcvGo

variable (len : BitVec 26) (h6 : s.boot.stage = 6) (hb : s.boot.busy = false) (hs : s.boot.staging = 0)
include h6 hb hs

theorem rcvGo_refused (hl : len.toNat < 512 ∨ 33554432 < len.toNat) : exec (.rcvGo 0 len) s = .next (bootErr 5 s) := by
  refine (open_pf0 hp _).trans (congrArg Host.Outcome.next ?_)
  unfold effRcvGo
  rw [if_neg (not_not_intro h6), if_neg (by simp [hb, hs]), if_pos hl]

theorem rcvGo_takes (hl : 512 ≤ len.toNat) (hh : len.toNat ≤ 33554432) : exec (.rcvGo 0 len) s = .next (takeStaged 1 len.toNat s) := by
  refine (open_pf0 hp _).trans (congrArg Host.Outcome.next ?_)
  unfold effRcvGo
  rw [if_neg (not_not_intro h6), if_neg (by simp [hb, hs]), if_neg (by omega)]

end RcvGo

end Command

theorem resetBase_toRecovery (cold : Bool) (s : State) : (resetBase cold s).boot.toRecovery = s.boot.toRecovery := rfl

/-- A module reset keeps the request for recovery mode. -/
theorem warmReset_toRecovery (s : State) : (moduleReset false s).boot.toRecovery = s.boot.toRecovery := by
  have hq : Within [.out, .host, .superMem, .superTree, .superKeys, .superRegs, .partRegs, .fuses, .queen, .mod] s (quietAll s) :=
    forEach_without _ _ _ _ fun _ _ => quietSuper_without rfl
  rw [(moduleReset_after false s).boot_toRecovery rfl, resetBase_toRecovery, resetFrom_warm, hq.boot_toRecovery rfl]

theorem commitSvn_within (s : State) : Within [.fuses, .boot] s (bootErr 0 (fuseSvn s)) := by
  have w : Within [.fuses, .boot] s (fuseSvn s) := fuseSvn_without rfl
  exact w.trans (modBoot_without _ _ _ fun _ => rfl)

/-- Naming the image's SVN changes the boot registers alone. -/
theorem named_within (v : BitVec 7) (s : State) : Within [.boot] s { s with boot := { s.boot with imgSvn := v } } :=
  modBoot_without [.boot] s (fun b => { b with imgSvn := v }) fun _ => rfl

theorem named_keeps (v : BitVec 7) {s u : State} (hu : { s with boot := { s.boot with imgSvn := v } } = u) :
    u.boot.kind = s.boot.kind ∧ u.boot.fail = s.boot.fail ∧ u.queen = s.queen ∧ stageRead u = stageRead s := by
  subst hu
  exact ⟨rfl, rfl, rfl, rfl⟩

section Staged

variable {s u : State} (hu : { s with boot := { s.boot with imgSvn := hdrSvn (stageRead s 0 512) } } = u)
include hu

/-- A staged image that fails R560 is named in FAIL, the flash is as it was (R564). -/
theorem takeStaged_fails (len : Nat) (hf : imageFail u (stageRead u) true ≠ 0) : takeStaged 1 len s = u.modBoot fun b =>
    { b with err := 3, fail := BitVec.ofNat 4 (imageFail u (stageRead u) true), staging := 0 } := by
  have hm : s.modBoot (fun b => { b with imgSvn := hdrSvn (stageRead s 0 512) }) = u := hu
  unfold takeStaged
  rw [hm]
  exact if_pos hf

/-- One that passes is in the flash, to be read back. -/
theorem takeStaged_writes (len : Nat) (hf : imageFail u (stageRead u) true = 0) : takeStaged 1 len s =
    (flashProg 0 (stageRead u 0 len) (flashErase u)).modBoot fun b => { b with busy := true, staging := 1, stageLen := len, err := 0 } := by
  have hm : s.modBoot (fun b => { b with imgSvn := hdrSvn (stageRead s 0 512) }) = u := hu
  unfold takeStaged
  rw [hm]
  exact if_neg (not_not_intro hf)

end Staged

theorem stageRead_length (s : State) (a n : Nat) : (stageRead s a n).length = n := by simp [stageRead]

section Leaves

variable {s u : State} {v : Nat}

/-- What IMAGE_LOADED leaves, by whether the image passes R560. -/
theorem imageLoaded_leaves (h1 : s.boot.stage = 1) (agree : Bool)
    (hu : { s with boot := { s.boot with imgSvn := hdrSvn (flashRead s 0 512) } } = u) (hv : imageFail u (flashRead u) agree = v) :
    if v = 0
    then (effImageLoaded true agree s).boot.stage = 4 ∧ (effImageLoaded true agree s).boot.fail = s.boot.fail ∧
      (effImageLoaded true agree s).queen.die = 0 ∧ (effImageLoaded true agree s).queen.q0 = 2 ∧
      (effImageLoaded true agree s).queen.epoch = (if s.boot.kind = .warm then s.queen.epoch + 1 else 1)
    else (effImageLoaded true agree s).boot.stage = 6 ∧ (effImageLoaded true agree s).boot.fail = BitVec.ofNat 4 v ∧
      (effImageLoaded true agree s).queen.epoch = s.queen.epoch := by
  obtain ⟨hkind, hfail, hqueen, -⟩ := named_keeps _ hu
  have he := effImageLoaded_read h1 agree
  rw [hu] at he
  dsimp only at he
  rw [hv] at he
  generalize effImageLoaded true agree s = t at he
  subst he
  by_cases hf : v = 0
  · obtain ⟨hdie, hq0, hep, new, hb⟩ := startFirmware_starts (flashRead u) u
    rw [if_pos hf, if_pos hf, hb, hdie, hq0, hep, hkind, hqueen]
    exact ⟨rfl, hfail, rfl, rfl, rfl⟩
  · obtain ⟨hst, hfl, hep⟩ := toRecovery_enters v u
    rw [if_neg hf, if_neg hf, hst, hfl, hep, hqueen]
    exact ⟨rfl, rfl, rfl⟩

/-- What RCV_GO leaves of a staged image, by whether it passes R560. -/
theorem takeStaged_leaves (len : Nat) (hu : { s with boot := { s.boot with imgSvn := hdrSvn (stageRead s 0 512) } } = u)
    (hv : imageFail u (stageRead u) true = v) :
    if v = 0
    then (takeStaged 1 len s).boot.busy = true ∧ (takeStaged 1 len s).boot.err = 0 ∧
      flashRead (takeStaged 1 len s) 0 len = stageRead s 0 len ∧ Within [.boot, .flash] s (takeStaged 1 len s)
    else (takeStaged 1 len s).boot.err = 3 ∧ (takeStaged 1 len s).boot.fail = BitVec.ofNat 4 v ∧
      Within [.boot] s (takeStaged 1 len s) := by
  obtain ⟨-, -, -, hr⟩ := named_keeps _ hu
  have wu : Within [.boot] s u := hu ▸ named_within _ s
  have wt : Within [.boot, .flash] s (takeStaged 1 len s) := takeStaged_without rfl
  by_cases hf : v = 0
  · have he := takeStaged_writes hu len (hv.trans hf)
    have hflash := flashRead_flashProg (s := flashErase u) rfl 0 (stageRead s 0 len)
    rw [stageRead_length] at hflash
    rw [hr] at he
    generalize flashProg 0 (stageRead s 0 len) (flashErase u) = p at he hflash
    generalize takeStaged 1 len s = t at he wt
    subst he
    rw [if_pos hf]
    exact ⟨rfl, rfl, hflash, wt⟩
  · have he := takeStaged_fails hu len (hv ▸ hf)
    rw [hv] at he
    rw [if_neg hf, he]
    exact ⟨rfl, rfl, wu.trans (modBoot_without _ _ _ fun _ => rfl)⟩

end Leaves

theorem flashDone_boots {s : State} (h6 : s.boot.stage = 6) (hs : s.boot.staging ≠ 0) (hl : s.boot.stageLen ≠ 0) :
    effFlashDone true s = startFirmware (flashRead s) (s.modBoot fun b => { b with stageLen := 0 }) := by
  unfold effFlashDone
  rw [if_neg (by simp [h6, hs, hl]), if_pos rfl]

/-- Settles O14: each stage's command is one change of the boot registers, around the crown, the fuses or the flash. -/
theorem bootRunsThroughItsStages : Obligations.BootRunsThroughItsStages := by
  unfold Obligations.BootRunsThroughItsStages
  refine ⟨fun s => ⟨?_, ?_, ?_, ?_⟩, fun s hp => ⟨?_, ?_, ?_, ?_, ?_⟩⟩
  · intro hp h0 hm hr
    exact ⟨_, bootStart_loads hp h0 hm hr, rfl, loads_within _ _ rfl rfl, rfl⟩
  · intro h1 agree
    obtain ⟨hst, hf, -⟩ := toRecovery_enters 1 s
    exact ⟨_, congrArg Host.Outcome.next (effImageLoaded_noFlash h1 agree), hst, hf⟩
  · intro h1 agree
    refine ⟨effImageLoaded true agree s, rfl, ?_⟩
    beta_reduce
    intro u
    have hu : { s with boot := { s.boot with imgSvn := hdrSvn (flashRead s 0 512) } } = u := rfl
    clear_value u
    generalize hv : imageFail u (flashRead u) agree = v
    exact imageLoaded_leaves h1 agree hu hv
  · intro h4
    obtain ⟨hst, he⟩ := bootReady_opens h4
    exact ⟨_, rfl, hst, he, fun hm hs d => bootReady_svn h4 hm hs d⟩
  · intro hb h5
    obtain ⟨hst, -, hm, -⟩ := moduleReset_registers false (s.modBoot fun b => { b with toRecovery := true })
    exact ⟨_, enterRecovery_resets hp hb h5, hst, warmReset_toRecovery _, hm⟩
  · intro hb h5 hv
    refine ⟨_, commitSvn_fuses hp hb h5 hv, ?_, ?_, rfl, commitSvn_within s⟩
    · exact (fuseSvn_die s 0).trans (if_pos hv)
    · have h1 : (bootErr 0 (fuseSvn s)).dies[(1 : Die)].svn = _ := fuseSvn_die s 1
      rw [h1]
      split <;> omega
  · intro len h6 hb hs hl
    exact rcvGo_refused hp len h6 hb hs hl
  · intro len h6 hb hs hl hh
    refine ⟨takeStaged 1 len.toNat s, rcvGo_takes hp len h6 hb hs hl hh, ?_⟩
    beta_reduce
    intro u
    have hu : { s with boot := { s.boot with imgSvn := hdrSvn (stageRead s 0 512) } } = u := rfl
    clear_value u
    generalize hv : imageFail u (stageRead u) true = v
    exact takeStaged_leaves len.toNat hu hv
  · intro h6 hs hl
    obtain ⟨hdie, -, -, new, hb⟩ := startFirmware_starts (flashRead s) (s.modBoot fun b => { b with stageLen := 0 })
    refine ⟨_, congrArg Host.Outcome.next (flashDone_boots h6 hs hl), ?_, ?_, ?_, hdie⟩ <;> rw [hb] <;> rfl

end Sys2Proof.BootProofs
end

section
/-! The boot stage and the module state stay among those the spec names (R489, R557, R562): one lemma per function of the model
that can change either, through the functions it calls; what changes neither has a frame (`X_without`). -/

namespace Sys2Proof.NamedProofs
open Sys2Proof Sys2Proof.Machine Sys2Proof.ModuleResetProofs Sys2Proof.BootProofs

/-- A boot stage that the spec names (R557, R562). -/
abbrev NamedStage (v : BitVec 4) : Prop := v = 0 ∨ v = 1 ∨ v = 4 ∨ v = 5 ∨ v = 6

/-- The boot stage and the module state are ones the spec names (R489, R557, R562). -/
def Named (s : State) : Prop := NamedStage s.boot.stage ∧ s.evt.modState.toNat ≤ 2

/-- Every piece of the state but boot and the event registers. -/
def quietPieces : List Piece := [.out, .host, .draws, .combMap, .hum, .seq, .cellMem, .cellRun, .combRegs, .combMem, .router,
  .superMem, .superTree, .superKeys, .superRegs, .hild, .partMap, .ctx, .rings, .evq, .sems, .regions, .partRegs, .fns, .fuses,
  .causes, .dies, .ports, .queen, .power, .flash, .mgmt, .mod]

variable {s t : State}

theorem Named.of_frame (w : t.without quietPieces = s.without quietPieces) (h : Named s) : Named t := by
  have hb : t.boot.stage = s.boot.stage := Within.boot_stage w (by decide)
  have he : t.evt = s.evt := Within.evt_eq w (by decide)
  simpa only [Named, hb, he] using h

theorem Named.ite {c : Prop} [Decidable c] {a b : State} (ha : c → Named a) (hb : ¬c → Named b) : Named (if c then a else b) := by
  split
  · exact ha ‹_›
  · exact hb ‹_›

theorem Named.iteFst {α : Type} {c : Prop} [Decidable c] {a b : State × α} (ha : c → Named a.1) (hb : ¬c → Named b.1) :
    Named (if c then a else b).1 := by
  split
  · exact ha ‹_›
  · exact hb ‹_›

theorem Named.dite {c : Prop} [Decidable c] {a : c → State} {b : ¬c → State} (ha : ∀ h, Named (a h)) (hb : ∀ h, Named (b h)) :
    Named (if h : c then a h else b h) := by
  split
  · exact ha ‹_›
  · exact hb ‹_›

theorem Named.forEach {α : Type} {l : List α} {f : α → State → State} (h : ∀ a t, Named t → Named (f a t)) (hs : Named s) :
    Named (forEach l f s) := by
  induction l generalizing s with
  | nil => exact hs
  | cons a r ih => exact ih (h a s hs)

theorem Named.modPart {p : Part} {f : PartState → PartState} (h : Named s) : Named (s.modPart p f) := h
theorem Named.modSuper {k : Super} {f : SuperState → SuperState} (h : Named s) : Named (s.modSuper k f) := h
theorem Named.modHild {k : Super} {f : Hild → Hild} (h : Named s) : Named (s.modHild k f) := h
theorem Named.emit {o : Output} (h : Named s) : Named (Machine.emit o s) := h
theorem Named.emitAll {o : List Output} (h : Named s) : Named (Machine.emitAll o s) := h
theorem Named.drawn (h : Named s) : Named (Machine.drawn s) := h
theorem Named.modDie {d : Die} {f : DieState → DieState} (h : Named s) : Named (s.modDie d f) := h
theorem Named.modRouter {k : Comb} {f : Router → Router} (h : Named s) : Named (s.modRouter k f) := h
theorem Named.modMod {f : ModuleRegs → ModuleRegs} (h : Named s) : Named (s.modMod f) := h
theorem Named.modPower {f : Power → Power} (h : Named s) : Named (s.modPower f) := h
theorem Named.modSeq {k : Comb} {f : Seq → Seq} (h : Named s) : Named (s.modSeq k f) := h
theorem Named.modMgmt {f : Mgmt → Mgmt} (h : Named s) : Named (s.modMgmt f) := h
theorem Named.modHum {k : Comb} {f : Hum → Hum} (h : Named s) : Named (s.modHum k f) := h
theorem Named.modComb {k : Comb} {f : CombState → CombState} (h : Named s) : Named (s.modComb k f) := h
theorem Named.modRing {p : Part} {r : Ring} {f : RingState → RingState} (h : Named s) : Named (s.modRing p r f) := h
theorem Named.modFn {n : Fn} {f : FnState → FnState} (h : Named s) : Named (s.modFn n f) := h
theorem Named.modCtx {p : Part} {f : Context → Context} (h : Named s) : Named (s.modCtx p f) := h
theorem Named.modPort {p : PPort} {f : PortState → PortState} (h : Named s) : Named (s.modPort p f) := h
theorem Named.modSPort {k : Comb} {p : LPort} {f : StrandPort → StrandPort} (h : Named s) : Named (s.modSPort k p f) := h
theorem Named.modCell {k : Comb} {n : PCell} {f : CellState → CellState} (h : Named s) : Named (s.modCell k n f) := h
theorem Named.modDesc {p : Part} {r : Ring} {i : Word} {f : Desc → Desc} (h : Named s) : Named (s.modDesc p r i f) := h
theorem Named.modJob {k : Comb} {j : JobIx} {f : JobEntry → JobEntry} (h : Named s) : Named (s.modJob k j f) := h
theorem Named.modQueen {f : Queen → Queen} (h : Named s) : Named (s.modQueen f) := h

theorem Named.modEvt {f : EvtRegs → EvtRegs} (hf : ∀ e, (f e).modState = e.modState) (h : Named s) : Named (s.modEvt f) := by
  obtain ⟨hb, he⟩ := h
  exact ⟨hb, by rw [modEvt_evt, hf]; exact he⟩

theorem Named.modBoot {f : Boot → Boot} (hf : ∀ b, (f b).stage = b.stage) (h : Named s) : Named (s.modBoot f) := by
  obtain ⟨hb, he⟩ := h
  exact ⟨by rw [modBoot_boot, hf]; exact hb, he⟩

/-- A boot stage that the spec names is entered. -/
theorem Named.enters {v : BitVec 4} {f : Boot → Boot} (hv : NamedStage v) (hf : ∀ b, (f b).stage = v) (h : Named s) :
    Named (s.modBoot f) := by
  obtain ⟨-, he⟩ := h
  exact ⟨by rw [modBoot_boot, hf]; exact hv, he⟩

theorem powerDown_named {latched trip fault hk : Bool} : Named (powerDown latched trip fault hk s) := ⟨.inl rfl, Nat.zero_le 2⟩

theorem unstage_stage (b : Boot) : (if b.staging = 2 ∧ b.stageLen = 0 then { b with staging := 0 } else b).stage = b.stage := by
  split <;> rfl

theorem Named.fst {α : Type} {x : State × α} {t : State} {d : α} (hx : x = (t, d)) (h : Named x.1) : Named t := by
  rw [hx] at h
  exact h

theorem Named.elim {α : Type} {o : Option α} {b : State} {f : α → State} (hn : Named b) (hs : ∀ a, Named (f a)) :
    Named (o.elim b f) := by
  cases o with
  | none => exact hn
  | some a => exact hs a

theorem Named.doIf {c : Bool} {f : State → State} (hf : Named s → Named (f s)) (h : Named s) : Named (doIf c f s) := by
  unfold Machine.doIf
  split
  · exact hf h
  · exact h

/-! ### Machine/Ops.lean -/

theorem unitResetDone_named {dom : BitVec 4} {k : Comb} {s : State} (h : Named s) : Named (unitResetDone dom k s) := by
  unfold unitResetDone
  exact .of_frame (eventToPf0_without (by decide)) (.modEvt (fun _ => rfl) h)

/-! ### Machine/Resets.lean -/

theorem moduleReset_named {cold : Bool} {s : State} : Named (moduleReset cold s) := by
  obtain ⟨hst, -, hm, -⟩ := moduleReset_registers cold s
  refine ⟨.inl hst, ?_⟩
  rw [hm]
  cases cold <;> decide

theorem logFirst_named {cause : Byte} {unit : Word} {s : State} (h : Named s) : Named (logFirst cause unit s) := by
  unfold logFirst
  exact .modEvt (fun _ => rfl) h

theorem logSecond_named {cause : Byte} {unit : Word} {s : State} (h : Named s) : Named (logSecond cause unit s) := by
  unfold logSecond
  exact .modEvt (fun _ => rfl) h

theorem holdModule_named {s : State} (h : Named s) : Named (holdModule s) := by
  have hb : (holdModule s).boot.stage = s.boot.stage := rfl
  exact ⟨hb ▸ h.1, Nat.le_refl 2⟩

/-! ### Machine/Faults.lean -/

theorem escalateWarm_named {f : FaultInfo} {s : State} (h : Named s) : Named (escalateWarm f s) := by
  unfold escalateWarm
  dsimp only
  exact .ite (fun _ => holdModule_named (logSecond_named (.modEvt (fun _ => rfl) h))) fun _ => moduleReset_named

theorem escalateTo_named {p : Part} {r : Recovery} {f : FaultInfo} {s : State} (h : Named s) : Named (escalateTo p r f s) := by
  unfold escalateTo
  dsimp only
  exact .ite (fun _ => escalateWarm_named h) fun _ => .of_frame (takeOver_without (by decide)) (.of_frame (stopWhole_without
      (by decide)) (.modEvt (fun _ => rfl) h))

theorem escalate_named {p : Part} {r : Recovery} {f : FaultInfo} {s : State} (h : Named s) : Named (escalate p r f s) := by
  unfold escalate
  exact escalateTo_named (.of_frame (secondEvent_without (by decide)) h)

theorem queenFault_named {st : Byte} {s : State} (h : Named s) : Named (queenFault st s) := by
  unfold queenFault
  refine .ite (fun _ => escalateWarm_named h) fun _ => ?_
  refine .forEach (fun _ _ h1 => ?_) h
  refine .ite (fun _ => h1) fun _ => ?_
  split
  · exact h1
  · exact escalateTo_named h1

theorem partitionFault_named {p : Part} {f : FaultInfo} {s : State} (h : Named s) : Named (partitionFault p f s) := by
  unfold partitionFault
  refine .ite (fun _ => h) fun _ => ?_
  refine .ite (fun _ => .ite (fun _ => h) fun _ => .of_frame (beginRecovery_without (by decide)) h) fun _ => ?_
  split
  · exact escalate_named h
  · exact .of_frame (beginRecovery_without (by decide)) h

theorem jobFault_named {p : Part} {k : Comb} {cause st : Byte} {detail : Word} {detail2 : BitVec 56} {s : State} (h : Named s) :
    Named (jobFault p k cause st detail detail2 s) := by
  unfold jobFault
  dsimp only
  exact .ite (fun _ => h) fun _ => partitionFault_named (.of_frame (raiseAlarm_without (by decide)) h)

theorem fabricAbort_named {p : Part} {k : Comb} {cause : Byte} {s : State} (h : Named s) : Named (fabricAbort p k cause s) := by
  unfold fabricAbort
  exact jobFault_named h

theorem stopPartitionAs_named {p : Part} {k : Comb} {st : Byte} {detail : Word} {detail2 : BitVec 56} {unit : Word} {supers :
    List Super} {evDet : Option (BitVec 56)} {s : State} (h : Named s) :
    Named (stopPartitionAs p k st detail detail2 unit supers evDet s) := by
  unfold stopPartitionAs
  dsimp only
  exact partitionFault_named (.of_frame (raiseAlarm_without (by decide)) h)

theorem stopPartition_named {p : Part} {k : Comb} {st : Byte} {detail : Word} {detail2 : BitVec 56} {unit : Word} {supers :
    List Super} {s : State} (h : Named s) :
    Named (stopPartition p k st detail detail2 unit supers s) := by
  unfold stopPartition
  exact stopPartitionAs_named h

theorem stopInternal_named {p : Part} {k : Comb} {unit : Word} {supers : List Super} {s : State} (h : Named s) :
    Named (stopInternal p k unit supers s) := by
  unfold stopInternal
  exact stopPartition_named h

theorem failDesc_named {p : Part} {r : Ring} {idx : Word} {st : Byte} {detail : Word} {detail2 : BitVec 56} {k : Comb} {s :
    State} (h : Named s) :
    Named (failDesc p r idx st detail detail2 k s) := by
  unfold failDesc
  dsimp only
  exact .ite (fun _ => stopPartition_named (.of_frame (finish_without (by decide)) h)) fun _ => .of_frame (finish_without (by
      decide)) h

/-! ### Machine/SuperOps.lean -/

theorem moduleFault_named {st : Byte} {unit : Word} {s : State} (h : Named s) : Named (moduleFault st unit s) := by
  unfold moduleFault
  exact .ite (fun _ => .drawn (.enters (v := 6) (by decide) (fun _ => rfl) h)) fun _ => .ite
    (fun _ => holdModule_named (logSecond_named (.modEvt (fun _ => rfl) h))) fun _ => moduleReset_named

theorem regionLost_named {d : Die} {s : State} (h : Named s) : Named (regionLost d s) := by
  unfold regionLost
  dsimp only
  exact .ite (fun _ => .modDie (queenFault_named (.modDie h))) fun _ => moduleFault_named (.modDie h)

theorem markDie_named {k : Super} {die : Fin 16} {s : State} (h : Named s) : Named (markDie k die s) := by
  unfold markDie
  dsimp only
  split
  · exact regionLost_named (.forEach (fun _ _ h1 => stopPartition_named h1) (.of_frame (ewSuper_without (by decide)) (.of_frame
        (recordRepair_without (by decide)) (.modSuper h))))
  · exact .forEach (fun _ _ h1 => stopPartition_named h1) (.of_frame (ewSuper_without (by decide)) (.of_frame
        (recordRepair_without (by decide)) (.modSuper h)))

theorem nodeNote_named {k : Super} {n : Nat} {s : State} (h : Named s) : Named (nodeNote k n s) := by
  unfold nodeNote
  dsimp only
  split
  · exact .ite (fun _ => regionLost_named (.modSuper (.modSuper h))) fun _ => .modSuper (.modSuper h)
  · exact .modSuper (.modSuper h)

theorem stopUnder_named {k : Super} {n : Nat} {ppa : BitVec 56} {s : State} (h : Named s) : Named (stopUnder k n ppa s) := by
  unfold stopUnder
  exact .forEach (fun _ _ h1 => stopPartition_named h1) h

theorem nodeFails_named {k : Super} {n off : Nat} {s : State} (h : Named s) : Named (nodeFails k n off s) := by
  unfold nodeFails
  exact stopUnder_named (nodeNote_named h)

theorem stopOwner_named {k : Super} {off : Nat} {st : Byte} {s : State} (h : Named s) : Named (stopOwner k off st s) := by
  unfold stopOwner
  split
  · exact stopPartition_named h
  · exact h

theorem stopExhausted_named {k : Super} {n : Nat} {s : State} (h : Named s) : Named (stopExhausted k n s) := by
  unfold stopExhausted
  dsimp only
  exact .forEach (fun _ _ h1 => stopPartition_named h1) h

theorem reportCtr_named {k : Super} {ev : List CtrEvent} {s : State} (h : Named s) : Named (reportCtr k ev s) := by
  unfold reportCtr
  exact .forEach (fun _ _ h1 => .ite (fun _ => stopExhausted_named h1) fun _ => .of_frame (warnCtr_without (by decide)) h1) h

theorem noteDecode_named {k : Super} {l : Nat} {s : State} (h : Named s) : Named (noteDecode k l s) := by
  unfold noteDecode
  dsimp only
  split
  · exact h
  · split
    · exact markDie_named (.ite (fun _ => .of_frame (lineCorrected_without (by decide)) h) fun _ => h)
    · exact .ite (fun _ => .of_frame (lineCorrected_without (by decide)) h) fun _ => h

theorem noteNodes_named {k : Super} {off : Nat} {s : State} (h : Named s) : Named (noteNodes k off s) := by
  unfold noteNodes
  dsimp only
  exact .forEach (fun _ _ h1 => noteDecode_named h1) h

theorem fetchCtr_named {k : Super} {off : Nat} {s : State} (h : Named s) : Named (fetchCtr k off s) := by
  unfold fetchCtr
  dsimp only
  exact reportCtr_named (.modSuper (noteNodes_named h))

theorem noteLine_named {k : Super} {l : Nat} {s : State} (h : Named s) : Named (noteLine k l s) := by
  unfold noteLine
  dsimp only
  exact .ite (fun _ => noteDecode_named h) fun _ => noteDecode_named (noteDecode_named h)

theorem meetLine_named {k : Super} {off : Nat} {src : BitVec 3} {s : State} (h : Named s) : Named (meetLine k off src s) := by
  unfold meetLine
  split
  · exact h
  · exact nodeNote_named (noteNodes_named h)
  · exact fetchCtr_named h
  · exact fetchCtr_named h
  · exact .of_frame (lineUncorrectable_without (by decide)) (fetchCtr_named h)
  · exact .of_frame (tagNote_without (by decide)) (noteLine_named (fetchCtr_named h))
  · exact noteLine_named (fetchCtr_named h)

/-! ### Machine/Ppa.lean -/

theorem touchLine_named {p : Part} {src : BitVec 3} {a : Nat} {s : State} (h : Named s) : Named (touchLine p src a s) := by
  unfold touchLine
  dsimp only
  split
  · exact h
  · exact .ite (fun _ => .of_frame (noteErr_without (by decide)) h) fun _ => meetLine_named h

theorem touchLines_named {p : Part} {src : BitVec 3} {x2 : List (Nat × Nat)} {x3 : State} (h : Named x3) :
    Named (touchLines p src x2 x3) := by
  induction x2 generalizing x3 with
  | nil => exact h
  | cons a r ih =>
    unfold touchLines
    split
    · exact touchLine_named h
    · exact ih (touchLine_named h)

theorem ppaTouch_named {p : Part} {src : BitVec 3} {a n : Nat} {s : State} (h : Named s) : Named (ppaTouch p src a n s) := by
  unfold ppaTouch
  exact touchLines_named h

theorem ppaFetch_named {p : Part} {a n : Nat} {s : State} (h : Named s) : Named (ppaFetch p a n s).1 := by
  unfold ppaFetch
  dsimp only
  exact ppaTouch_named h

theorem storePiece_named {k : Super} {off : Nat} {data : Bytes} {s : State} (h : Named s) :
    Named (storePiece k off data s) := by
  unfold storePiece
  dsimp only
  exact .ite (fun _ => .of_frame (warnCtr_without (by decide)) (reportCtr_named (.modSuper (noteNodes_named h)))) fun _ =>
      reportCtr_named (.modSuper (noteNodes_named h))

theorem mergeSector_named {k : Super} {off : Nat} {data : Bytes} {src : BitVec 3} {s : State} (h : Named s) :
    Named (mergeSector k off data src s).1 := by
  unfold mergeSector
  dsimp only
  have hn : Named (forEach (partLines off data.length ++ siblings off data.length) (noteLine k) (noteNodes k off s)) :=
    .forEach (fun _ _ => noteLine_named) (noteNodes_named h)
  generalize forEach (partLines off data.length ++ siblings off data.length) (noteLine k) (noteNodes k off s) = t at hn
  split
  · dsimp only
    exact .of_frame (tagNote_without (by decide)) hn
  · split
    · dsimp only
      exact .of_frame (tagNote_without (by decide)) hn
    · split
      · exact .doIf (.of_frame (lineUncorrectable_without (by decide))) hn
      · exact storePiece_named (.forEach (fun _ _ h1 => .of_frame (lineUncorrectable_without (by decide)) h1) hn)

theorem settleSector_named {k : Super} {key : KeyId} {off : Nat} {data : Bytes} {src : BitVec 3} {s : State} (h : Named s) :
    Named (settleSector k key off data src s).1 := by
  unfold settleSector
  dsimp only
  refine .iteFst (fun _ => h) fun _ => ?_
  split
  · exact nodeNote_named (noteNodes_named h)
  · exact .iteFst (fun _ => .of_frame (noteErr_without (by decide)) h) fun _ => .iteFst (fun _ => storePiece_named h) fun _ =>
        mergeSector_named h

theorem writeSector_named {p : Part} {a : Nat} {data : Bytes} {s : State} (h : Named s) : Named (writeSector p a data s).1 := by
  unfold writeSector
  dsimp only
  split
  · exact h
  · exact .iteFst (fun _ => .of_frame (noteErr_without (by decide)) h) fun _ => settleSector_named h

theorem writePieces_named {p : Part} {a0 : Nat} {data : Bytes} {x3 : List (Nat × Nat)} {x4 : State} (h : Named x4) :
    Named (writePieces p a0 data x3 x4).1 := by
  induction x3 generalizing x4 with
  | nil => exact h
  | cons a r ih =>
    unfold writePieces
    split
    next hx => exact .fst hx (writeSector_named h)
    next hx => exact ih (.fst hx (writeSector_named h))

theorem ppaWrite_named {p : Part} {a : Nat} {data : Bytes} {s : State} (h : Named s) : Named (ppaWrite p a data s).1 := by
  unfold ppaWrite
  exact writePieces_named h

theorem ppaPut_named {p : Part} {a : Nat} {data : Bytes} {s : State} (h : Named s) : Named (ppaPut p a data s) := by
  unfold ppaPut
  exact ppaWrite_named h

/-! ### Machine/HildGate.lean -/

theorem endRun_named {k : Super} {st : Byte} {detail : Word} {d2 : BitVec 56} {s : State} (h : Named s) :
    Named (endRun k st detail d2 s) := by
  have he (p : Part) (c : CurRun) (f : Hild → Hild) (est : Byte) (ed : Word) (ed2 : BitVec 56) : Named (match c.run.desc with
      | some d => endPart k d est ed ed2 c.bytes (s.modHild k f)
      | none => if est = stOK ∨ stopsPartition est then s.modHild k f else postEvent p evFault est k ed2 (s.modHild k f)) := by
    split
    · exact .of_frame (endPart_without (by decide)) (.modHild h)
    · exact .ite (fun _ => .modHild h) fun _ => .of_frame (postEvent_without (by decide)) (.modHild h)
  unfold endRun
  split
  · exact .ite (fun _ => stopPartitionAs_named (he ..)) fun _ => he ..
  · exact h

theorem runMemFail_named {k : Super} {e : MemErr} {s : State} (h : Named s) : Named (runMemFail k e s) := by
  unfold runMemFail
  dsimp only
  split
  · exact h
  · exact .ite (fun _ => .of_frame (dropRun_without (by decide)) h) fun _ => endRun_named h

theorem putAll_named {p : Part} {x1 : List StagedWrite} {x2 : State} (h : Named x2) : Named (putAll p x1 x2).1 := by
  induction x1 generalizing x2 with
  | nil => exact h
  | cons a r ih =>
    unfold putAll
    split
    next hx => exact .fst hx (ppaWrite_named h)
    next hx => exact ih (.fst hx (ppaWrite_named h))

theorem putCommit_named {k : Super} {state : Nat} {r : HildRun} {groups : Nat} {s : State} (h : Named s) :
    Named (putCommit k state r groups s) := by
  unfold putCommit
  dsimp only
  split
  · exact h
  · refine .ite (fun _ => h) fun _ => ?_
    split
    next hx => exact .fst hx (ppaWrite_named h)
    next hx => exact runMemFail_named (.fst hx (ppaWrite_named h))

theorem drainRun_named {k : Super} {s : State} (h : Named s) : Named (drainRun k s) := by
  unfold drainRun
  split
  · refine .ite (fun _ => h) fun _ => ?_
    split
    next hx => exact .modHild (.fst hx (putAll_named h))
    next hx => exact runMemFail_named (.fst hx (putAll_named h))
  · exact h

theorem openGate_named {k : Super} {s : State} (h : Named s) : Named (openGate k s) := by
  unfold openGate
  split
  · exact .ite (fun _ => drainRun_named (putCommit_named (.modHild h))) fun _ => h
  · exact h

theorem resolveGate_named {k : Comb} {m : PredIx} {v : Bool} {u : Super} {s : State} (h : Named s) :
    Named (resolveGate k m v u s) := by
  unfold resolveGate
  dsimp only
  exact openGate_named (.modHild (.modHild (.of_frame (discardHild_without (by decide)) h)))

theorem resolveGates_named {k : Comb} {m : PredIx} {v : Bool} {s : State} (h : Named s) : Named (resolveGates k m v s) := by
  unfold resolveGates
  exact .forEach (fun _ _ => resolveGate_named) h

/-! ### Machine/SeqOps.lean -/

theorem resolvePred_named {k : Comb} {m : PredIx} {v : Bool} {s : State} (h : Named s) : Named (resolvePred k m v s) := by
  unfold resolvePred
  dsimp only
  exact resolveGates_named (.modSeq (.of_frame (setPred_without (by decide)) (.of_frame (squashHeld_without (by decide)) h)))

theorem verdictAt_named {p : Part} {v : Bool} {s : State} (h : Named s) : Named (verdictAt p v s) := by
  unfold verdictAt
  dsimp only
  refine .forEach (fun _ _ h1 => ?_) (.of_frame (refillClear_without (by decide)) h)
  split
  · exact .of_frame (postVote_without (by decide)) (resolvePred_named h1)
  · exact h1

/-! ### Machine/FabricOps.lean -/

theorem linkDown_named {k : Comb} {p : LPort} {mask : BitVec 56} {s : State} (h : Named s) : Named (linkDown k p mask s) := by
  unfold linkDown
  refine .forEach (fun _ _ h1 => ?_) h
  refine .ite (fun _ => ?_) fun _ => .ite (fun _ => .of_frame (raiseRelay_without (by decide)) h1) fun _ => h1
  split
  · exact jobFault_named h1
  · exact h1

theorem strandDown_named {k : Comb} {p : LPort} {mask : BitVec 56} {stuck : Bool} {s : State} (h : Named s) :
    Named (strandDown k p mask stuck s) := by
  unfold strandDown
  dsimp only
  exact .ite (fun _ => .modSPort h) fun _ => .ite (fun _ => .of_frame (humLosesParent_without (by decide)) (.of_frame
      (ewCount_without (by decide)) (.modSPort h))) fun _ => linkDown_named (.modRouter (.of_frame (humLosesParent_without (by
      decide)) (.of_frame (ewCount_without (by decide)) (.modSPort h))))

/-! ### Machine/RunAhead.lean -/

theorem memFault_named {k : Comb} {p : Part} {pc : Word} {e : MemErr} {s : State} (h : Named s) :
    Named (memFault k p pc e s) := by
  unfold memFault
  split
  · exact .of_frame (programFault_without (by decide)) h
  · exact .of_frame (programFault_without (by decide)) h
  · exact .of_frame (programFault_without (by decide)) h
  · exact stopPartition_named h
  · exact stopPartition_named h
  · exact h

theorem putWrite_named {k : Comb} {p : Part} {issue : Nat} {rel : Bool} {sem : Option Nat} {w : HeldKind} {s : State} (h :
    Named s) :
    Named (putWrite k p issue rel sem w s).1 := by
  unfold putWrite
  split
  · split
    next hx => exact .of_frame (awaitAck_without (by decide)) (.fst hx (ppaWrite_named h))
    next hx => exact .fst hx (ppaWrite_named h)
  · split
    · exact h
    · exact .of_frame (queueFlits_without (by decide)) h
  · exact .of_frame (awaitAck_without (by decide)) (.of_frame (hostPutAll_without (by decide)) h)
  · exact .of_frame (semApply_without (by decide)) h

theorem putWrites_named {k : Comb} {p : Part} {issue : Nat} {sem : Option Nat} {x4 : List HeldKind} {x5 : State} (h : Named x5)
    :
    Named (putWrites k p issue sem x4 x5).1 := by
  induction x4 generalizing x5 with
  | nil => exact h
  | cons a r ih =>
    unfold putWrites
    split
    next hx => exact ih (.fst hx (putWrite_named h))
    next hx => exact .fst hx (putWrite_named h)

theorem effRelease_named {k : Comb} {s : State} (h : Named s) : Named (effRelease k s) := by
  unfold effRelease
  split
  · refine .ite (fun _ => h) fun _ => ?_
    split
    next hx => exact .fst hx (putWrite_named (.modSeq h))
    next hx => exact memFault_named (.fst hx (putWrite_named (.modSeq h)))
  · exact h

theorem readRows_named {p : Part} {n : Nat} {x2 : List Nat} {x3 : State} (h : Named x3) : Named (readRows p n x2 x3).1 := by
  induction x2 generalizing x3 with
  | nil => exact h
  | cons a r ih =>
    unfold readRows
    dsimp only
    split
    next hx => exact .fst hx (ppaFetch_named h)
    next hx => exact ih (.fst hx (ppaFetch_named h))

theorem readSrc_named {k : Comb} {p : Part} {x : Xfer} {host : Bytes} {s : State} (h : Named s) :
    Named (readSrc k p x host s).1 := by
  unfold readSrc
  dsimp only
  exact .iteFst (fun _ => .of_frame (hostFetch_without (by decide)) h) fun _ => .iteFst (fun _ => readRows_named h) fun _ =>
      .iteFst (fun _ => h) fun _ => h

theorem writeOut_named {k : Comb} {p : Part} {t : Transfer} {x : Xfer} {data : Bytes} {s : State} (h : Named s) :
    Named (writeOut k p t x data s).1 := by
  unfold writeOut
  dsimp only
  exact .iteFst (fun _ => .modSeq (.ite (fun _ => .modCtx (.ite (fun _ => .of_frame (writeLocal_without (by decide)) h) fun _
      => h)) fun _ => .ite (fun _ => .of_frame (writeLocal_without (by decide)) h) fun _ => h)) fun _ => putWrites_named (.ite
      (fun _ => .modCtx (.ite (fun _ => .of_frame (writeLocal_without (by decide)) h) fun _ => h)) fun _ => .ite (fun _ =>
      .of_frame (writeLocal_without (by decide)) h) fun _ => h)

theorem deliver_named {k : Comb} {p : Part} {t : Transfer} {x : Xfer} {data : Bytes} {s : State} (h : Named s) :
    Named (deliver k p t x data s) := by
  unfold deliver
  split
  next hx => exact memFault_named (.fst hx (writeOut_named h))
  next hx =>
    have hw := Named.fst hx (writeOut_named h)
    exact .ite (fun _ => .of_frame (semApply_without (by decide)) hw) fun _ => hw

theorem cutShort_named {k : Comb} {p : Part} {t : Transfer} {x : Xfer} {data : Bytes} {fault : State → State} {s : State}
    (hf : ∀ t, Named t → Named (fault t)) (h : Named s) : Named (cutShort k p t x data fault s) := by
  unfold cutShort
  refine .ite (fun _ => hf _ h) fun _ => ?_
  split
  next hx => exact memFault_named (.fst hx (writeOut_named h))
  next hx => exact hf _ (.fst hx (writeOut_named h))

theorem settleXfer_named {k : Comb} {p : Part} {t : Transfer} {x : Xfer} {data : Bytes} {s : State} (h : Named s) :
    Named (settleXfer k p t x data s) := by
  unfold settleXfer
  refine .ite (fun _ => ?_) fun _ => deliver_named h
  split
  · split
    · exact deliver_named h
    · exact cutShort_named (fun _ h => .of_frame (programFault_without (by decide)) h) h
  · exact deliver_named h
  · exact .of_frame (programFault_without (by decide)) h
  · exact .of_frame (programFault_without (by decide)) (.of_frame (noteUnlisted_without (by decide)) h)

theorem effTransfer_named {k : Comb} {f : Fin 4} {host : Bytes} {s : State} (h : Named s) : Named (effTransfer k f host s) := by
  unfold effTransfer
  dsimp only
  split
  · refine .ite (fun _ => h) fun _ => ?_
    split
    next hx => exact .fst hx (readSrc_named (.modSeq h))
    next hx => exact cutShort_named (fun _ h => memFault_named h) (.fst hx (readSrc_named (.modSeq h)))
    next hx => exact settleXfer_named (.fst hx (readSrc_named (.modSeq h)))
  · exact h

theorem ownVerdict_named {p : Part} {s : State} (h : Named s) : Named (ownVerdict p s) := by
  unfold ownVerdict
  exact .ite (fun _ => h) fun _ => verdictAt_named (.modPart h)

theorem effResolve_named {k : Comb} {m : PredIx} {s : State} (h : Named s) : Named (effResolve k m s) := by
  unfold effResolve
  refine .ite (fun _ => ?_) fun _ => ?_
  · split
    · exact ownVerdict_named h
    · exact h
  · split
    · exact .of_frame (postVote_without (by decide)) (resolvePred_named h)
    · exact h

/-! ### Machine/Cells.lean -/

theorem effOpComplete_named {x : At} {e : Engine} {s : State} (h : Named s) : Named (effOpComplete x e s) := by
  unfold effOpComplete
  dsimp only
  split
  · exact h
  · refine .forEach (fun _ _ h1 => ?_) (.modCell h)
    split
    · exact effResolve_named h1
    · exact h1

theorem escalateSwap_named {p : Part} {k : Comb} {unit : Word} {s : State} (h : Named s) : Named (escalateSwap p k unit s) := by
  unfold escalateSwap
  dsimp only
  split
  · exact stopInternal_named h
  · exact .of_frame (takeOver_without (by decide)) (.of_frame (stopWhole_without (by decide)) (.modEvt (fun _ => rfl) h))

theorem serviceFault_named {p : Part} {k : Comb} {n : PCell} {two : Bool} {s : State} (h : Named s) :
    Named (serviceFault p k n two s) := by
  unfold serviceFault
  dsimp only
  exact .ite (fun _ => escalateSwap_named (.of_frame (degrade_without (by decide)) h)) fun _ => .ite (fun _ =>
      stopInternal_named (.of_frame (degrade_without (by decide)) h)) fun _ => .modComb (stopInternal_named h)

theorem effCellFault_named {k : Comb} {n : PCell} {store : BitVec 3} {offset : BitVec 24} {also : Option PCell} {s : State}
    (h : Named s) : Named (effCellFault k n store offset also s) := by
  unfold effCellFault
  refine .ite (fun _ => h) fun _ => ?_
  dsimp only
  generalize (also.any fun m => decide (m ≠ n) && cellRuns s k m) = two
  have hl : Named (if two = true then (also.map fun m => logCellFault k m store offset s).getD s else s) := by
    refine .ite (fun _ => ?_) fun _ => h
    cases also with
    | none => exact h
    | some m => exact .of_frame (logCellFault_without (by decide)) h
  generalize (if two = true then (also.map fun m => logCellFault k m store offset s).getD s else s) = t at hl
  have hn : Named (logCellFault k n store offset t) := .of_frame (logCellFault_without (by decide)) hl
  split
  · exact .ite (fun _ => .of_frame (cellFailed_without (by decide)) h) fun _ => .ite
      (fun _ => .of_frame (degrade_without (by decide)) hn) fun _ => .of_frame (testFault_without (by decide)) hn
  · exact serviceFault_named hn

/-! ### Machine/HumCmds.lean -/

theorem humLoss_named {k : Comb} {s : State} (h : Named s) : Named (humLoss k s) := by
  unfold humLoss
  dsimp only
  split
  · exact .modHum h
  · exact fabricAbort_named (.modHum h)

theorem needKey_named {p : Part} {k : Comb} {s : State} (h : Named s) : Named (needKey p k s) := by
  unfold needKey
  split
  · exact h
  · exact .ite (fun _ => h) fun _ => fabricAbort_named h

theorem effGridStart_named {p : Part} {s : State} (h : Named s) : Named (effGridStart p s) := by
  unfold effGridStart
  dsimp only
  split
  · exact h
  · exact .ite (fun _ => h) fun _ => .forEach (fun _ _ h1 => .of_frame (pollDue_without (by decide)) h1) (.forEach (fun _ _ =>
        needKey_named) (.ite (fun _ => .forEach (fun _ _ => .of_frame (enterGrid_without (by decide))) h) fun _ => .modPart
        (.forEach (fun _ _ => .of_frame (enterGrid_without (by decide))) h)))

theorem overrun_named {k : Comb} {p : Part} {beat : BitVec 48} {b : Nat} {s : State} (h : Named s) :
    Named (overrun k p beat b s) := by
  unfold overrun
  dsimp only
  exact jobFault_named (.of_frame (keepMarkers_without (by decide)) (.modHum h))

theorem effBoundary_named {k : Comb} {uj : Word} {s : State} (h : Named s) : Named (effBoundary k uj s) := by
  unfold effBoundary
  dsimp only
  split
  · exact h
  · refine .ite (fun _ => .of_frame (lateSample_without (by decide)) h) fun _ => ?_
    refine .of_frame (pollDue_without (by decide)) ?_
    refine .ite (fun _ => ?_) fun _ => ?_
    · refine overrun_named ?_
      refine .ite (fun _ => ?_) fun _ => ?_
      · refine .of_frame (reportEnergy_without (by decide)) ?_
        refine .of_frame (wakeBeat_without (by decide)) ?_
        refine .modHum ?_
        split
        · exact .of_frame (recordSlack_without (by decide)) (.of_frame (endFlows_without (by decide)) h)
        · exact .of_frame (endFlows_without (by decide)) h
      · refine .of_frame (wakeBeat_without (by decide)) ?_
        refine .modHum ?_
        split
        · exact .of_frame (recordSlack_without (by decide)) (.of_frame (endFlows_without (by decide)) h)
        · exact .of_frame (endFlows_without (by decide)) h
    · refine .ite (fun _ => ?_) fun _ => ?_
      · refine .of_frame (reportEnergy_without (by decide)) ?_
        refine .of_frame (wakeBeat_without (by decide)) ?_
        refine .modHum ?_
        split
        · exact .of_frame (recordSlack_without (by decide)) (.of_frame (endFlows_without (by decide)) h)
        · exact .of_frame (endFlows_without (by decide)) h
      · refine .of_frame (wakeBeat_without (by decide)) ?_
        refine .modHum ?_
        split
        · exact .of_frame (recordSlack_without (by decide)) (.of_frame (endFlows_without (by decide)) h)
        · exact .of_frame (endFlows_without (by decide)) h

/-! ### Machine/DescOps.lean -/

theorem failMem_named {p : Part} {r : Ring} {idx : Word} {e : MemErr} {s : State} (h : Named s) :
    Named (failMem p r idx e s) := by
  unfold failMem
  exact failDesc_named h

/-! ### Machine/Descr.lean -/

theorem effCompute_named {p : Part} {r : Ring} {s : State} (h : Named s) : Named (effCompute p r s) := by
  unfold effCompute
  dsimp only
  split
  · refine .ite (fun _ => h) fun _ => ?_
    split
    next hx => exact failMem_named (.fst hx (.iteFst (fun _ => h) fun _ => ppaFetch_named h))
    next hx => exact .ite (fun _ => failDesc_named (.fst hx (.iteFst (fun _ => h) fun _ => ppaFetch_named h))) fun _ =>
        .forEach (fun _ _ h1 => .of_frame (computeOn_without (by decide)) h1) (.of_frame (activate_without (by decide)) (.fst
        hx (.iteFst (fun _ => h) fun _ => ppaFetch_named h)))
  · exact h

theorem copyPut_named {p : Part} {k : Comb} {space a : Nat} {data : Bytes} {s : State} (h : Named s) :
    Named (copyPut p k space a data s).1 := by
  unfold copyPut
  exact .iteFst (fun _ => ppaWrite_named h) fun _ => .of_frame (combWrite_without (by decide)) h

theorem copyEnd_named {p : Part} {r : Ring} {d : Desc} {data : Bytes} {err : Option MemErr} {s : State} (h : Named s) :
    Named (copyEnd p r d data err s) := by
  unfold copyEnd
  split
  next hx => exact failMem_named (.fst hx (copyPut_named h))
  next hx =>
    split
    · exact failMem_named (.fst hx (copyPut_named h))
    · exact .of_frame (finish_without (by decide)) (.fst hx (copyPut_named h))

theorem copyHost_named {p : Part} {r : Ring} {d : Desc} {host : Bytes} {s : State} (h : Named s) :
    Named (copyHost p r d host s) := by
  unfold copyHost
  dsimp only
  refine .ite (fun _ => failDesc_named h) fun _ => ?_
  split
  · split
    · exact copyEnd_named h
    · exact failDesc_named (ppaPut_named h)
  · exact failMem_named (.of_frame (noteUnlisted_without (by decide)) h)
  · exact copyEnd_named h

theorem effCopy_named {p : Part} {r : Ring} {host : Bytes} {s : State} (h : Named s) : Named (effCopy p r host s) := by
  unfold effCopy
  dsimp only
  split
  · exact h
  · refine .ite (fun _ => h) fun _ => ?_
    refine .ite (fun _ => .ite (fun _ => copyHost_named (.of_frame (hostFetch_without (by decide)) h)) fun _ => h) fun _ => ?_
    refine .ite (fun _ => ?_) fun _ => copyEnd_named h
    refine .ite (fun _ => h) fun _ => ?_
    split
    next hx => exact .fst hx (ppaFetch_named h)
    next hx => exact copyEnd_named (.fst hx (ppaFetch_named h))

theorem effFabric_named {p : Part} {r : Ring} {s : State} (h : Named s) : Named (effFabric p r s) := by
  unfold effFabric
  dsimp only
  split
  · exact h
  · split
    · exact failDesc_named h
    · refine .ite (fun _ => failDesc_named h) fun _ => ?_
      refine .ite (fun _ => failDesc_named h) fun _ => ?_
      refine .ite (fun _ => h) fun _ => ?_
      split
      next hx => exact failMem_named (.fst hx (ppaFetch_named h))
      next hx => exact .of_frame (queueFlits_without (by decide)) (.of_frame (activate_without (by decide)) (.fst hx
          (ppaFetch_named h)))

theorem effEgress_named {p : Part} {r : Ring} {s : State} (h : Named s) : Named (effEgress p r s) := by
  unfold effEgress
  dsimp only
  split
  · exact h
  · split
    · exact failDesc_named (.of_frame (noteNoIde_without (by decide)) h)
    · refine .ite (fun _ => h) fun _ => ?_
      split
      next hx => exact failMem_named (.fst hx (ppaFetch_named (.of_frame (chargeClear_without (by decide)) h)))
      next hx => exact .of_frame (finish_without (by decide)) (.modCtx (.of_frame (hostPutAll_without (by decide)) (.fst hx
          (ppaFetch_named (.of_frame (chargeClear_without (by decide)) h)))))

/-! ### Machine/Ckpt.lean -/

theorem touchCommits_named {p : Part} {x1 : List Super} {x2 : State} (h : Named x2) : Named (touchCommits p x1 x2) := by
  induction x1 generalizing x2 with
  | nil => exact h
  | cons a r ih =>
    unfold touchCommits
    dsimp only
    split
    · exact ih (ppaTouch_named h)
    · exact ppaTouch_named h

theorem readCommits_named {p : Part} {ks : List Super} {s : State} (h : Named s) : Named (readCommits p ks s).1 := by
  unfold readCommits
  dsimp only
  exact touchCommits_named h

theorem reportCkpt_named {p : Part} {ring : Option RunDesc} {st : Byte} {d1 : Word} {d2 : BitVec 56} {step : DWord} {s : State}
    (h : Named s) :
    Named (reportCkpt p ring st d1 d2 step s) := by
  unfold reportCkpt
  dsimp only
  split
  · exact failDesc_named h
  · exact .ite (fun _ => stopPartition_named (.of_frame (postEvent_without (by decide)) h)) fun _ => .of_frame
        (postEvent_without (by decide)) h

theorem releaseHold_named {p : Part} {s : State} (h : Named s) : Named (releaseHold p s) := by
  unfold releaseHold
  exact .forEach (fun _ _ h1 => openGate_named h1) h

theorem endCkpt_named {p : Part} {st : Byte} {d1 : Word} {d2 : BitVec 56} {s : State} (h : Named s) :
    Named (endCkpt p st d1 d2 s) := by
  unfold endCkpt
  dsimp only
  split
  · exact h
  · exact releaseHold_named (.of_frame (unblockCkpt_without (by decide)) (reportCkpt_named (.modPart h)))

theorem endCkptErr_named {p : Part} {e : MemErr} {s : State} (h : Named s) : Named (endCkptErr p e s) := by
  unfold endCkptErr
  exact endCkpt_named h

theorem endRestore_named {p : Part} {st : Byte} {d1 : Word} {d2 : BitVec 56} {s : State} (h : Named s) :
    Named (endRestore p st d1 d2 s) := by
  unfold endRestore
  split
  · exact h
  · exact failDesc_named (.of_frame (clearRestore_without (by decide)) h)

theorem abortRestore_named {p : Part} {st : Byte} {d1 : Word} {d2 : BitVec 56} {s : State} (h : Named s) :
    Named (abortRestore p st d1 d2 s) := by
  unfold abortRestore
  split
  · exact h
  · exact endRestore_named (.of_frame (undefinePlan_without (by decide)) h)

theorem writeShards_named {p : Part} {c : Ckpt} {key : BitVec 256} {job : Word} {shape : BitVec 512} {x5 : List (Shard × Nat)}
    {x6 : Nat} {x7 : List ShardEnt} {x8 : State} (h : Named x8) :
    Named (writeShards p c key job shape x5 x6 x7 x8).1 := by
  induction x5 generalizing x6 x7 x8 with
  | nil => exact h
  | cons a r ih =>
    unfold writeShards
    dsimp only
    split
    next hx => exact .fst hx (ppaFetch_named h)
    next hx => exact ih (.of_frame (hostPutAll_without (by decide)) (.fst hx (ppaFetch_named h)))

theorem runShards_named {p : Part} {src : List (Shard × Nat)} {s : State} (h : Named s) : Named (runShards p src s) := by
  unfold runShards
  dsimp only
  split
  · refine .ite (fun _ => endCkpt_named (.of_frame (noteNoIde_without (by decide)) h)) fun _ => ?_
    split
    next hx => exact endCkptErr_named (.fst hx (writeShards_named h))
    next hx => exact .modPart (.fst hx (writeShards_named h))
  · exact h

theorem beginShards_named {p : Part} {s : State} (h : Named s) : Named (beginShards p s) := by
  unfold beginShards
  dsimp only
  split
  · exact h
  · exact .ite (fun _ => .modPart h) fun _ => runShards_named (.modPart h)

theorem fixStep_named {p : Part} {ring : Option RunDesc} {auto : Nat} {salvage : Bool} {list : Bytes} {want : DWord} {s :
    State} (h : Named s) :
    Named (fixStep p ring auto salvage list want s) := by
  unfold fixStep
  dsimp only
  split
  next hx => exact reportCkpt_named (.fst hx (readCommits_named h))
  next hx =>
    refine .ite (fun _ => .modPart (.drawn (.drawn (.fst hx (readCommits_named h))))) fun _ => ?_
    split
    · exact endCkpt_named (.modPart (.drawn (.drawn (.fst hx (readCommits_named h)))))
    · exact beginShards_named (.modPart (.modPart (.drawn (.drawn (.fst hx (readCommits_named h))))))

theorem startCkpt_named {p : Part} {ring : Option RunDesc} {auto count : Nat} {list : Bytes} {want : DWord} {s : State} (h :
    Named s) :
    Named (startCkpt p ring auto count list want s) := by
  unfold startCkpt
  dsimp only
  refine .ite (fun _ => .drawn (reportCkpt_named h)) fun _ => ?_
  split
  · exact reportCkpt_named h
  · split
    · exact reportCkpt_named h
    · exact fixStep_named h

theorem takeStanding_named {p : Part} {c : Ckpt} {list : Bytes} {s : State} (h : Named s) :
    Named (takeStanding p c list s) := by
  unfold takeStanding
  dsimp only
  exact .ite (fun _ => h) fun _ => .of_frame (unblockCkpt_without (by decide)) (startCkpt_named (.modPart (.of_frame
      (hostArrived_without (by decide)) h)))

theorem effCheckpoint_named {p : Part} {r : Ring} {list : Bytes} {s : State} (h : Named s) :
    Named (effCheckpoint p r list s) := by
  unfold effCheckpoint
  split
  · refine .ite (fun _ => takeStanding_named h) fun _ => ?_
    split
    · exact h
    · exact .modRing (.modDesc h)
  · split
    · exact h
    · refine .ite (fun _ => h) fun _ => ?_
      split
      · exact failDesc_named (.of_frame (noteNoIde_without (by decide)) h)
      · exact startCkpt_named (.of_frame (hostFetch_without (by decide)) (.of_frame (activate_without (by decide)) h))

theorem autoCkpt_named {p : Part} {auto : Nat} {s : State} (h : Named s) : Named (autoCkpt p auto s) := by
  unfold autoCkpt
  dsimp only
  refine .ite (fun _ => .modPart h) fun _ => ?_
  split
  · exact .drawn (reportCkpt_named (.ite (fun _ => h) fun _ => .of_frame (noteNoIde_without (by decide)) h))
  · exact .modPart (.of_frame (hostPutAll_without (by decide)) h)

theorem ckptTrigger_named {p : Part} {cause : Byte} {k : Comb} {detail : BitVec 56} {s : State} (h : Named s) :
    Named (ckptTrigger p cause k detail s) := by
  unfold ckptTrigger
  dsimp only
  exact .ite (fun _ => autoCkpt_named (.of_frame (postEvent_without (by decide)) h)) fun _ => .of_frame (postEvent_without (by
      decide)) h

theorem effStepReady_named {p : Part} {s : State} (h : Named s) : Named (effStepReady p s) := by
  unfold effStepReady
  dsimp only
  split
  · exact h
  · refine .ite (fun _ => h) fun _ => ?_
    split
    next hx => exact endCkptErr_named (.fst hx (readCommits_named h))
    next hx =>
      refine .ite (fun _ => .fst hx (readCommits_named h)) fun _ => ?_
      split
      · exact endCkpt_named (.fst hx (readCommits_named h))
      · exact .ite (fun _ => .drawn (endCkpt_named (.fst hx (readCommits_named h)))) fun _ => beginShards_named (.modPart (.fst
            hx (readCommits_named h)))

theorem copyShards_named {p : Part} {x1 : List (Shard × Nat)} {x2 : State} (h : Named x2) : Named (copyShards p x1 x2).1 := by
  induction x1 generalizing x2 with
  | nil => exact h
  | cons a r ih =>
    unfold copyShards
    split
    next hx => exact .fst hx (ppaFetch_named h)
    next hr =>
      have hf := Named.fst hr (ppaFetch_named h)
      split
      next hx => exact .fst hx (ppaWrite_named hf)
      next hx => exact ih (.fst hx (ppaWrite_named hf))

theorem effSnapDone_named {p : Part} {s : State} (h : Named s) : Named (effSnapDone p s) := by
  unfold effSnapDone
  dsimp only
  split
  · exact h
  · refine .ite (fun _ => h) fun _ => ?_
    split
    next hx => exact endCkptErr_named (.fst hx (copyShards_named h))
    next hx => exact runShards_named (releaseHold_named (.modPart (.fst hx (copyShards_named h))))

theorem effShardsVisible_named {p : Part} {s : State} (h : Named s) : Named (effShardsVisible p s) := by
  unfold effShardsVisible
  dsimp only
  split
  · exact .ite (fun _ => h) fun _ => .ite (fun _ => endCkpt_named (.of_frame (noteNoIde_without (by decide)) h)) fun _ =>
        releaseHold_named (.modPart (.of_frame (hostPutAll_without (by decide)) h))
  · exact h

theorem effManifestVisible_named {p : Part} {s : State} (h : Named s) : Named (effManifestVisible p s) := by
  unfold effManifestVisible
  dsimp only
  split
  · exact h
  · refine .ite (fun _ => h) fun _ => ?_
    refine .of_frame (unblockCkpt_without (by decide)) ?_
    split
    · exact .of_frame (finish_without (by decide)) (.modPart h)
    · exact reportCkpt_named (.modPart h)

theorem effRestore_named {p : Part} {r : Ring} {list block : Bytes} {s : State} (h : Named s) :
    Named (effRestore p r list block s) := by
  unfold effRestore
  dsimp only
  split
  · refine .ite (fun _ => h) fun _ => ?_
    refine .ite (fun _ => .drawn (failDesc_named h)) fun _ => ?_
    split
    · exact failDesc_named (.of_frame (hostFetch_without (by decide)) h)
    · exact .modPart (.of_frame (activate_without (by decide)) (.of_frame (hostFetch_without (by decide)) h))
  · exact h

theorem effPass1_named {p : Part} {records : List Bytes} {s : State} (h : Named s) : Named (effPass1 p records s) := by
  unfold effPass1
  dsimp only
  split
  · refine .ite (fun _ => h) fun _ => ?_
    split
    · exact endRestore_named (.of_frame (hostFetch_without (by decide)) h)
    · exact .modPart (.of_frame (hostFetch_without (by decide)) h)
  · exact h

theorem loadShards_named {p : Part} {x : Restore} {man : Manifest} {x3 : List (Shard × Bytes)} {x4 : State} (h : Named x4) :
    Named (loadShards p x man x3 x4).1 := by
  induction x3 generalizing x4 with
  | nil => exact h
  | cons a r ih =>
    unfold loadShards
    split
    · exact h
    · split
      next hx => exact .fst hx (ppaWrite_named h)
      next hx => exact ih (.fst hx (ppaWrite_named h))

theorem restoreCommits_named {p : Part} {step : DWord} {x2 : List Super} {x3 : State} (h : Named x3) :
    Named (restoreCommits p step x2 x3).1 := by
  induction x2 generalizing x3 with
  | nil => exact h
  | cons a r ih =>
    unfold restoreCommits
    split
    next hx => exact .fst hx (ppaWrite_named h)
    next hx => exact ih (.fst hx (ppaWrite_named h))

theorem effPass2_named {p : Part} {records : List Bytes} {s : State} (h : Named s) : Named (effPass2 p records s) := by
  unfold effPass2
  dsimp only
  split
  · refine .ite (fun _ => h) fun _ => ?_
    have hh : ∀ l, Named (hostFetch (fnOf p) l s) := fun _ => .of_frame (hostFetch_without (by decide)) h
    split
    next hx => exact endRestore_named (.of_frame (undefinePlan_without (by decide)) (.fst hx (loadShards_named (hh _))))
    next hx => exact endRestore_named (.of_frame (undefinePlan_without (by decide)) (.fst hx (loadShards_named (hh _))))
    next hl =>
      have hs := Named.fst hl (loadShards_named (hh _))
      split
      next hx => exact endRestore_named (.fst hx (restoreCommits_named hs))
      next hx => exact .of_frame (finish_without (by decide)) (.of_frame (clearRestore_without (by decide))
          (.fst hx (restoreCommits_named hs)))
  · exact h

/-! ### Machine/Fabric.lean -/

theorem restartPort_named {p : LPort} {s : State} (h : Named s) : Named (restartPort p s) := by
  unfold restartPort
  exact .forEach (fun _ _ h1 => strandDown_named h1) h

theorem effCoord_named {f : Fn} {v : DWord} {s : State} (h : Named s) : Named (effCoord f v s) := by
  unfold effCoord
  dsimp only
  exact .ite (fun _ => h) fun _ => .ite (fun _ => .of_frame (logRefusal_without (by decide)) h) fun _ => .ite (fun _ =>
      .of_frame (setParents_without (by decide)) (.modMod h)) fun _ => .ite (fun _ => .of_frame (startTraining_without (by
      decide)) (.forEach (fun _ _ h1 => .modPort h1) (.of_frame (setParents_without (by decide)) (.modMod h)))) fun _ =>
      .forEach (fun _ _ => restartPort_named) (.forEach (fun _ _ h1 => .modPort h1) (.of_frame (setParents_without (by decide))
      (.modMod h)))

theorem effPortmap_named {f : Fn} {v : Word} {s : State} (h : Named s) : Named (effPortmap f v s) := by
  unfold effPortmap
  dsimp only
  exact .ite (fun _ => h) fun _ => .of_frame (startTraining_without (by decide)) (.forEach (fun _ _ => restartPort_named)
      (.of_frame (setParents_without (by decide)) (.forEach (fun _ _ h1 => .of_frame (mapPower_without (by decide)) h1)
      (.modMod h))))

theorem portResetDone_named {k : Comb} {p : LPort} {s : State} (h : Named s) : Named (portResetDone k p s) := by
  unfold portResetDone
  exact .ite (fun _ => unitResetDone_named h) fun _ => h

theorem effLaneFail_named {q : PPort} {rx : Bool} {lane : Fin 16} {s : State} (h : Named s) :
    Named (effLaneFail q rx lane s) := by
  unfold effLaneFail
  dsimp only
  split
  · exact h
  · exact .ite (fun _ => h) fun _ => strandDown_named (.ite (fun _ => .of_frame (countSwap_without (by decide)) (.modPort
        (.modPort h))) fun _ => .modPort h)

theorem advanceSeq_named {p : Part} {k : Comb} {j : JobIx} {s : State} (h : Named s) : Named (advanceSeq p k j s) := by
  unfold advanceSeq
  dsimp only
  exact .ite (fun _ => fabricAbort_named (.modRouter (.modRouter h))) fun _ => .modRouter h

theorem sendClaimed_named {p : Part} {k : Comb} {q : LPort} {j : JobIx} {f : FlowRt} {fl : Flow} {d : Nat} {s : State} (h :
    Named s) :
    Named (sendClaimed p k q j f fl d s) := by
  unfold sendClaimed
  dsimp only
  split
  · exact .ite (fun _ => advanceSeq_named (.of_frame (sentForMove_without (by decide)) (.of_frame (sentForDesc_without (by
        decide)) (.of_frame (modFlow_without (by decide)) (.of_frame (sendFrame_without (by decide)) h))))) fun _ =>
        advanceSeq_named (.of_frame (sendPad_without (by decide)) h)
  · exact advanceSeq_named (.of_frame (sendPad_without (by decide)) h)

theorem effLocalTx_named {k : Comb} {q : LPort} {s : State} (h : Named s) : Named (effLocalTx k q s) := by
  unfold effLocalTx
  dsimp only
  refine .ite (fun _ => h) fun _ => ?_
  split
  · refine .ite (fun _ => .of_frame (sendFrame_without (by decide)) h) fun _ => ?_
    split
    · exact .of_frame (sendFrame_without (by decide)) h
    · exact sendClaimed_named h
  · exact .of_frame (sendFrame_without (by decide)) h

theorem flitFails_named {p : Part} {k : Comb} {cause : Byte} {count : Router → Router} {s : State} (h : Named s) :
    Named (flitFails p k cause count s) := by
  unfold flitFails
  exact fabricAbort_named (.modRouter h)

theorem deliverFlit_named {p : Part} {k : Comb} {x : EjFlit} {s : State} (h : Named s) : Named (deliverFlit p k x s) := by
  unfold deliverFlit
  refine .ite (fun _ => .of_frame (combWrite_without (by decide)) h) fun _ => ?_
  split
  next hx => exact stopPartition_named (.fst hx (ppaWrite_named h))
  next hx => exact stopPartition_named (.fst hx (ppaWrite_named h))
  next hx => exact .fst hx (ppaWrite_named h)

theorem acceptFlit_named {p : Part} {k : Comb} {e : JobEntry} {f : FlowRt} {fl : Flow} {x : Flit} {s : State} (h : Named s) :
    Named (acceptFlit p k e f fl x s) := by
  unfold acceptFlit
  dsimp only
  refine .ite (fun _ => flitFails_named h) fun _ => ?_
  refine .ite (fun _ => flitFails_named h) fun _ => ?_
  split
  · exact flitFails_named h
  · exact .ite (fun _ => fabricAbort_named h) fun _ => .ite (fun _ => .modRouter (.of_frame (modFlow_without (by decide)) h))
        fun _ => .ite (fun _ => flitFails_named (.modRouter (.of_frame (modFlow_without (by decide)) h))) fun _ => .of_frame
        (modFlow_without (by decide)) (.modRouter (.of_frame (modFlow_without (by decide)) h))

theorem effDataFlit_named {k : Comb} {q : LPort} {x : Flit} {s : State} (h : Named s) : Named (effDataFlit k q x s) := by
  unfold effDataFlit
  dsimp only
  split
  · refine .ite (fun _ => h) fun _ => ?_
    refine .ite (fun _ => .ite (fun _ => .modEvt (fun _ => rfl) (.of_frame (noteCodeword_without (by decide)) h)) fun _ =>
        .of_frame (noteCodeword_without (by decide)) h) fun _ => ?_
    refine .ite (fun _ => h) fun _ => ?_
    split
    · exact h
    · exact acceptFlit_named (.of_frame (noteCodeword_without (by decide)) h)
  · exact h

theorem effVisible_named {k : Comb} {flow : Nat} {s : State} (h : Named s) : Named (effVisible k flow s) := by
  unfold effVisible
  dsimp only
  split
  · exact h
  · split
    · split
      · exact h
      · exact .ite (fun _ => h) fun _ => .ite (fun _ => .of_frame (semApply_without (by decide)) (deliverFlit_named (.of_frame
            (modFlow_without (by decide)) h))) fun _ => deliverFlit_named (.of_frame (modFlow_without (by decide)) h)
    · exact h

theorem effAlarm_named {k : Comb} {q : LPort} {a : AlarmRec} {s : State} (h : Named s) : Named (effAlarm k q a s) := by
  unfold effAlarm
  dsimp only
  split
  · exact h
  · refine .ite (fun _ => h) fun _ => ?_
    refine .ite (fun _ => .modRouter h) fun _ => ?_
    split
    · exact .ite (fun _ => partitionFault_named (.of_frame (spreadAlarm_without (by decide)) (.modRouter (.of_frame
          (abortJob_without (by decide)) h)))) fun _ => .modRouter (.of_frame (abortJob_without (by decide)) h)
    · exact .modRouter (.of_frame (abortJob_without (by decide)) h)

theorem effVerdict_named {k : Comb} {q : LPort} {v : VoteRec} {s : State} (h : Named s) : Named (effVerdict k q v s) := by
  unfold effVerdict
  dsimp only
  split
  · exact h
  · refine .ite (fun _ => h) fun _ => ?_
    refine .ite (fun _ => .modRouter h) fun _ => ?_
    refine .ite (fun _ => .modRouter h) fun _ => ?_
    split
    · exact verdictAt_named (.modRouter h)
    · exact .modRouter h

theorem combineAt_named {k : Comb} {s : State} (h : Named s) : Named (combineAt k s) := by
  unfold combineAt
  dsimp only
  split
  · exact .ite (fun _ => h) fun _ => .ite (fun _ => verdictAt_named (.modRouter (.modJob h))) fun _ => .modRouter (.modJob h)
  · exact h

theorem effControl_named {k : Comb} {s : State} (h : Named s) : Named (effControl k s) := by
  unfold effControl
  dsimp only
  exact .ite (fun _ => h) fun _ => .of_frame (sendRecords_without (by decide)) (combineAt_named (.ite (fun _ => .forEach (fun _
      _ h1 => .of_frame (sendSync_without (by decide)) h1) (.emitAll h)) fun _ => .emitAll h))

/-! ### Machine/Propolis.lean -/

theorem serveRead_named {k : Super} {off : Nat} {who : Requester} {s : State} (h : Named s) :
    Named (serveRead k off who s) := by
  unfold serveRead
  dsimp only
  split
  · exact .of_frame (refuse_without (by decide)) h
  · exact .emit h
  · refine .ite (fun _ => .of_frame (refuseKey_without (by decide)) h) fun _ => ?_
    split
    · exact .emit (meetLine_named (.of_frame (crossLink_without (by decide)) h))
    · exact .emit (meetLine_named (.of_frame (crossLink_without (by decide)) h))
    · exact .emit (meetLine_named (.of_frame (crossLink_without (by decide)) h))
    · exact .emit (meetLine_named (.of_frame (crossLink_without (by decide)) h))
    · exact .emit (meetLine_named (.of_frame (crossLink_without (by decide)) h))
    · exact .of_frame (replyIntegrity_without (by decide)) (stopUnder_named (meetLine_named (.of_frame (crossLink_without (by
          decide)) h)))
    · exact .of_frame (replyIntegrity_without (by decide)) (stopOwner_named (meetLine_named (.of_frame (crossLink_without (by
          decide)) h)))

theorem failSector_named {k : Super} {off : Nat} {e : SectorEnd} {s : State} (h : Named s) :
    Named (failSector k off e s).1 := by
  unfold failSector
  split
  · exact h
  · exact h
  · exact stopUnder_named h
  · exact stopOwner_named h
  · exact stopOwner_named h

theorem settleAll_named {k : Super} {key : KeyId} {base : Nat} {data : Bytes} {src : BitVec 3} {x5 : List (Nat × Nat)} {x6 :
    State} (h : Named x6) :
    Named (settleAll k key base data src x5 x6).1 := by
  induction x5 generalizing x6 with
  | nil => exact h
  | cons a r ih =>
    unfold settleAll
    dsimp only
    exact ih (failSector_named (settleSector_named h))

theorem serveWrite_named {k : Super} {off : Nat} {who : Requester} {data : Bytes} {s : State} (h : Named s) :
    Named (serveWrite k off who data s) := by
  unfold serveWrite
  dsimp only
  split
  · exact .of_frame (refuse_without (by decide)) h
  · exact .of_frame (refuse_without (by decide)) h
  · exact .ite (fun _ => .of_frame (refuseKey_without (by decide)) h) fun _ => .ite (fun _ => .emit (.of_frame
        (hildIntegrity_without (by decide)) (settleAll_named (.of_frame (crossLink_without (by decide)) h)))) fun _ => .emit
        (settleAll_named (.of_frame (crossLink_without (by decide)) h))

theorem servePartial_named {k : Super} {off : Nat} {who : Requester} {data : Bytes} {x4 : List (Nat × Bytes)} {x5 : State} (h :
    Named x5) :
    Named (servePartial k off who data x4 x5) := by
  induction x4 generalizing x5 with
  | nil => exact serveWrite_named h
  | cons a r ih =>
    unfold servePartial
    dsimp only
    split
    · refine .ite (fun _ => .of_frame (refuseKey_without (by decide)) h) fun _ => ?_
      split
      · exact .ite (fun _ => ih (serveWrite_named (meetLine_named h))) fun _ => ih (.modSuper (serveWrite_named (meetLine_named
            h)))
      · exact .ite (fun _ => ih (serveWrite_named (meetLine_named h))) fun _ => ih (.modSuper (serveWrite_named (meetLine_named
            h)))
      · exact serveWrite_named h
    · exact serveWrite_named h

theorem serveReq_named {k : Super} {r : MemReq} {s : State} (h : Named s) : Named (serveReq k r s) := by
  unfold serveReq
  split
  · exact serveRead_named h
  · exact serveWrite_named h
  · exact servePartial_named h

theorem drainSuper_named {x0 : Nat} {x1 : Super} {x2 : State} (h : Named x2) : Named (drainSuper x0 x1 x2) := by
  induction x0 generalizing x2 with
  | zero => exact h
  | succ n ih =>
    unfold drainSuper
    split
    · exact h
    · exact ih (serveReq_named (.modSuper h))

theorem resumeSuper_named {k : Super} {s : State} (h : Named s) : Named (resumeSuper k s) := by
  unfold resumeSuper
  exact drainSuper_named h

theorem submit_named {k : Super} {r : MemReq} {s : State} (h : Named s) : Named (submit k r s) := by
  unfold submit
  dsimp only
  split
  · exact .of_frame (refuse_without (by decide)) h
  · exact .ite (fun _ => h) fun _ => .ite (fun _ => serveReq_named h) fun _ => .modSuper h

theorem request_named {sup : BitVec 4} {who : Requester} {flips : Flips} {off : Nat} {op : MemOp} {s : State} (h : Named s) :
    Named (request sup who flips off op s) := by
  unfold request
  exact .ite (fun _ => .emit h) fun _ => submit_named (.of_frame (applyFlips_without (by decide)) h)

theorem scrubLost_named {k : Super} {l : Nat} {s : State} (h : Named s) : Named (scrubLost k l s) := by
  unfold scrubLost
  split
  · exact .of_frame (lineUncorrectable_without (by decide)) h
  · exact .of_frame (lineUncorrectable_without (by decide)) h
  · exact .forEach (fun _ _ h1 => .of_frame (lineUncorrectable_without (by decide)) h1) (.modSuper h)
  · exact .forEach (fun _ _ h1 => nodeFails_named h1) (.modSuper h)
  · exact .modSuper h

theorem effScrub_named {k : Super} {s : State} (h : Named s) : Named (effScrub k s) := by
  unfold effScrub
  dsimp only
  refine .ite (fun _ => h) fun _ => ?_
  split
  · exact scrubLost_named (.modSuper (.modSuper h))
  · exact .ite (fun _ => .modSuper (noteDecode_named (.modSuper h))) fun _ => .modSuper h

theorem effLinkAuth_named {link : Fin 14} {dir : Fin 2} {s : State} (h : Named s) : Named (effLinkAuth link dir s) := by
  unfold effLinkAuth
  dsimp only
  have hm : Named (modLink link dir (fun d => { d with dead := true }) s) := .of_frame (modLink_without (by decide)) h
  generalize modLink link dir (fun d => { d with dead := true }) s = t at hm
  by_cases h8 : link.val < 8
  · simp only [dif_pos h8]
    exact .ite (fun _ => moduleFault_named (.modSuper hm)) fun _ => .ite (fun _ => escalateWarm_named (.modSuper hm)) fun _ =>
      .forEach (fun _ _ h1 => stopPartition_named h1) (.modSuper hm)
  · simp only [dif_neg h8]
    exact .ite (fun _ => moduleFault_named (.modDie hm)) fun _ => .ite (fun _ => escalateWarm_named (.modDie hm)) fun _ =>
      .forEach (fun _ _ h1 => stopPartition_named h1) (.of_frame (keyBridge_without (by decide)) (.modDie hm))

/-! ### Machine/Recovery.lean -/

theorem takeCmd_named {s : State} (h : Named s) : Named (takeCmd s) := by
  unfold takeCmd
  exact .modEvt (fun _ => rfl) h

theorem refuseCmd_named {err : Nat} {s : State} (h : Named s) : Named (refuseCmd err s) := by
  unfold refuseCmd
  exact .modEvt (fun _ => rfl) h

theorem cmdComb_named {k : Comb} {s : State} (h : Named s) : Named (cmdComb k s) := by
  unfold cmdComb
  split
  · exact .of_frame (askComb_without (by decide)) (takeCmd_named h)
  · exact unitResetDone_named (.of_frame (resetCombDomain_without (by decide)) (takeCmd_named h))

theorem cmdSuper_named {k : Super} {s : State} (h : Named s) : Named (cmdSuper k s) := by
  unfold cmdSuper
  dsimp only
  split
  · exact .of_frame (askSuper_without (by decide)) (takeCmd_named h)
  · exact .ite (fun _ => .modEvt (fun _ => rfl) (.of_frame (resetSuperDomain_without (by decide)) (takeCmd_named h))) fun _ =>
        unitResetDone_named (.of_frame (resetSuperDomain_without (by decide)) (takeCmd_named h))

theorem cmdPort_named {k : Comb} {p : LPort} {s : State} (h : Named s) : Named (cmdPort k p s) := by
  unfold cmdPort
  dsimp only
  exact .ite (fun _ => strandDown_named (.modEvt (fun _ => rfl) (takeCmd_named h))) fun _ => portResetDone_named
      (strandDown_named (.modEvt (fun _ => rfl) (takeCmd_named h)))

theorem resetCmd_named {dom : Nat} {u : Fin 8} {port : Nat} {s : State} (h : Named s) : Named (resetCmd dom u port s) := by
  unfold resetCmd
  exact .ite (fun _ => h) fun _ => .ite (fun _ => refuseCmd_named h) fun _ => .ite (fun _ => refuseCmd_named h) fun _ => .ite
      (fun _ => .ite (fun _ => refuseCmd_named h) fun _ => cmdComb_named h) fun _ => .ite (fun _ => .ite (fun _ =>
      refuseCmd_named h) fun _ => cmdSuper_named h) fun _ => .ite (fun _ => .dite (fun _ => cmdPort_named h) fun _ =>
      refuseCmd_named h) fun _ => .ite (fun _ => .ite (fun _ => refuseCmd_named h) fun _ => .ite (fun _ => refuseCmd_named h)
      fun _ => .of_frame (askPartition_without (by decide)) (takeCmd_named h)) fun _ => .ite (fun _ => moduleReset_named) fun
      _ => .ite (fun _ => moduleReset_named) fun _ => refuseCmd_named h

theorem restartPorts_named {combs : List Comb} {s : State} (h : Named s) : Named (restartPorts combs s) := by
  unfold restartPorts
  exact .forEach (fun _ _ h1 => .forEach (fun _ _ h2 => .ite (fun _ => h2) fun _ => strandDown_named h2) h1) h

theorem applyResets_named {p : Part} {r : Recovery} {s : State} (h : Named s) : Named (applyResets p r s) := by
  unfold applyResets
  dsimp only
  exact .ite (fun _ => restartPorts_named (.forEach (fun _ _ h1 => .modHild h1) (.forEach (fun _ _ h1 => .of_frame
      (resetCombDomain_without (by decide)) h1) (.forEach (fun _ _ h1 => .of_frame (resetSuperDomain_without (by decide))
      (.of_frame (stopSuper_without (by decide)) h1)) (.ite (fun _ => h) fun _ => abortRestore_named (endCkpt_named h)))))) fun
      _ => .forEach (fun _ _ h1 => .of_frame (resetCombDomain_without (by decide)) h1) (.forEach (fun _ _ h1 => .of_frame
      (resetSuperDomain_without (by decide)) (.of_frame (stopSuper_without (by decide)) h1)) (.ite (fun _ => h) fun _ =>
      abortRestore_named (endCkpt_named h)))

theorem proceed_named {p : Part} {i : Nat} {late : Bool} {s : State} (h : Named s) : Named (proceed p i late s) := by
  unfold proceed
  dsimp only
  split
  · exact h
  next r _ =>
    have hd : Named (if late = true then dropInFlight (domainCombs s p { r with drainTo := r.drainTo || late })
        (s.modEvt fun e => { e with drainTo := hit 16 e.drainTo }) else s) :=
      .ite (fun _ => .of_frame (dropInFlight_without (by decide)) (.modEvt (fun _ => rfl) h)) fun _ => h
    generalize (if late = true then dropInFlight (domainCombs s p { r with drainTo := r.drainTo || late })
        (s.modEvt fun e => { e with drainTo := hit 16 e.drainTo }) else s) = t at hd
    refine .ite (fun _ => .of_frame (zeroiseContext_without (by decide)) (.of_frame (retireKeys_without (by decide)) (.forEach
        (fun _ _ h1 => .modComb h1) (applyResets_named (.forEach (fun _ _ h1 => .of_frame (stopHild_without (by decide)) h1)
        (.modPart hd)))))) fun _ => ?_
    exact applyResets_named (.modPart (.of_frame (capture_without (by decide)) hd))

theorem effDrainDone_named {p : Part} {s : State} (h : Named s) : Named (effDrainDone p s) := by
  unfold effDrainDone
  split
  · exact proceed_named h
  · exact h

theorem effDeadline_named {p : Part} {s : State} (h : Named s) : Named (effDeadline p s) := by
  unfold effDeadline
  split
  · exact proceed_named h
  · exact h

theorem stopAgain_named {p : Part} {l : List (Super × Nat)} {s : State} (h : Named s) : Named (stopAgain p l s) := by
  unfold stopAgain
  split
  · exact h
  · exact stopPartition_named h

theorem finishRecovery_named {p : Part} {r : Recovery} {s : State} (h : Named s) : Named (finishRecovery p r s) := by
  unfold finishRecovery
  dsimp only
  exact .ite (fun _ => autoCkpt_named (stopAgain_named (.of_frame (settleContext_without (by decide)) (.ite (fun _ => .of_frame
      (reopen_without (by decide)) (.forEach (fun _ _ => .of_frame (endSmoke_without (by decide))) (.of_frame
      (postEvent_without (by decide)) (.modEvt (fun _ => rfl) (.of_frame (platEvent_without (by decide)) (.modPart (.forEach
      (fun _ _ => .of_frame (endSmoke_without (by decide))) (.of_frame (flushRings_without (by decide)) h)))))))) fun _ =>
      .forEach (fun _ _ h1 => .of_frame (startNext_without (by decide)) h1) (.forEach (fun _ _ => .of_frame (endSmoke_without
      (by decide))) (.of_frame (postEvent_without (by decide)) (.modEvt (fun _ => rfl) (.of_frame (platEvent_without (by
      decide)) (.modPart (.forEach (fun _ _ => .of_frame (endSmoke_without (by decide))) (.of_frame (flushRings_without (by
      decide)) h))))))))))) fun _ => stopAgain_named (.of_frame (settleContext_without (by decide)) (.ite (fun _ => .of_frame
      (reopen_without (by decide)) (.forEach (fun _ _ => .of_frame (endSmoke_without (by decide))) (.of_frame
      (postEvent_without (by decide)) (.modEvt (fun _ => rfl) (.of_frame (platEvent_without (by decide)) (.modPart (.forEach
      (fun _ _ => .of_frame (endSmoke_without (by decide))) (.of_frame (flushRings_without (by decide)) h)))))))) fun _ =>
      .forEach (fun _ _ h1 => .of_frame (startNext_without (by decide)) h1) (.forEach (fun _ _ => .of_frame (endSmoke_without
      (by decide))) (.of_frame (postEvent_without (by decide)) (.modEvt (fun _ => rfl) (.of_frame (platEvent_without (by
      decide)) (.modPart (.forEach (fun _ _ => .of_frame (endSmoke_without (by decide))) (.of_frame (flushRings_without (by
      decide)) h)))))))))

theorem effRecoveryDone_named {p : Part} {s : State} (h : Named s) : Named (effRecoveryDone p s) := by
  unfold effRecoveryDone
  split
  · exact finishRecovery_named h
  · exact h

theorem wakeController_named {k : Super} {s : State} (h : Named s) : Named (wakeController k s) := by
  unfold wakeController
  dsimp only
  exact .of_frame (nextRepair_without (by decide)) (.of_frame (noteAgain_without (by decide)) (.forEach (fun _ _ h1 =>
      nodeNote_named h1) (.modSuper (.of_frame (keySuperLink_without (by decide)) h))))

theorem effSuperDone_named {k : Super} {s : State} (h : Named s) : Named (effSuperDone k s) := by
  unfold effSuperDone
  dsimp only
  exact .ite (fun _ => h) fun _ => .ite (fun _ => unitResetDone_named (resumeSuper_named (wakeController_named h))) fun _ =>
      resumeSuper_named (wakeController_named h)

theorem countWdog_named {s : State} (h : Named s) : Named (countWdog s) := by
  unfold countWdog
  exact .modEvt (fun _ => rfl) h

theorem effCombWdog_named {k : Comb} {s : State} (h : Named s) : Named (effCombWdog k s) := by
  unfold effCombWdog
  dsimp only
  split
  · exact h
  · refine .ite (fun _ => h) fun _ => ?_
    refine partitionFault_named ?_
    refine .of_frame (raiseAlarm_without (by decide)) ?_
    split
    · exact .of_frame (finish_without (by decide)) (countWdog_named h)
    · exact countWdog_named h

theorem superHung_named {k : Super} {unit : Nat} {s : State} (h : Named s) : Named (superHung k unit s) := by
  unfold superHung
  dsimp only
  split
  · exact stopInternal_named (countWdog_named h)
  · exact countWdog_named h

theorem ewTrip_named {p : Part} {m : Fin 7} {n : Nat} {s : State} (h : Named s) : Named (ewTrip p m n s) := by
  unfold ewTrip
  dsimp only
  exact .ite (fun _ => ckptTrigger_named (.modPart (.of_frame (postEvent_without (by decide)) (.modEvt (fun _ => rfl) (.drawn
      h))))) fun _ => .of_frame (postEvent_without (by decide)) (.modEvt (fun _ => rfl) (.drawn h))

theorem effWindowEnd_named {p : Part} {s : State} (h : Named s) : Named (effWindowEnd p s) := by
  unfold effWindowEnd
  dsimp only
  exact .ite (fun _ => h) fun _ => .modPart (.forEach (fun _ _ h1 => .modSuper h1) (.forEach (fun _ _ h1 => .ite (fun _ =>
      ewTrip_named h1) fun _ => h1) (.modPart h)))

/-! ### Machine/HostPort.lean -/

theorem effBar2Read_named {off n : Nat} {s : State} (h : Named s) : Named (effBar2Read off n s) := by
  unfold effBar2Read
  dsimp only
  exact .ite (fun _ => h) fun _ => .ite (fun _ => .emit h) fun _ => .ite (fun _ => .emit h) fun _ => .ite (fun _ => h) fun _ =>
      .ite (fun _ => .emit (.of_frame (denyWindow_without (by decide)) (.ite (fun _ => .of_frame (dbgBlock_without (by decide))
      h) fun _ => h))) fun _ => .ite (fun _ => .emit h) fun _ => .forEach (fun _ _ h1 => submit_named h1) h

theorem failTransfer_named {k : Comb} {f : Fin 4} {fail : HostFail} {s : State} (h : Named s) :
    Named (failTransfer k f fail s) := by
  unfold failTransfer
  dsimp only
  split
  · exact .ite (fun _ => h) fun _ => stopInternal_named (.of_frame (finish_without (by decide)) (.of_frame (countFail_without
        (by decide)) h))
  · exact h

theorem effReadFail_named {fail : HostFail} {what : HostReadKind} {s : State} (h : Named s) :
    Named (effReadFail fail what s) := by
  unfold effReadFail
  split
  · exact .ite (fun _ => .of_frame (skipPoll_without (by decide)) (.of_frame (countFail_without (by decide)) (.of_frame
        (hostArrived_without (by decide)) h))) fun _ => h
  · exact .ite (fun _ => h) fun _ => .modRing (.of_frame (countFail_without (by decide)) (.of_frame (hostArrived_without (by
        decide)) h))
  · split
    · exact h
    · exact failDesc_named (.of_frame (countFail_without (by decide)) h)
  · exact failTransfer_named h
  · split
    · exact .ite (fun _ => endCkpt_named (.of_frame (countFail_without (by decide)) (.of_frame (hostArrived_without (by
          decide)) h))) fun _ => h
    · exact h

theorem unsecure_named {f : Fn} {s : State} (h : Named s) : Named (unsecure f s) := by
  unfold unsecure
  dsimp only
  split
  · exact .ite (fun _ => endCkpt_named (.of_frame (noteNoIde_without (by decide)) (.modFn h))) fun _ => .modFn h
  · exact .modFn h

theorem portReset_named {s : State} (h : Named s) : Named (portReset s) := by
  unfold portReset
  dsimp only
  exact .modMod (.modMgmt (.forEach (fun _ _ h1 => .modFn h1) (.forEach (fun _ _ => unsecure_named) (.of_frame (flrPf0_without
      (by decide)) h))))

/-! ### Machine/TtImage.lean -/

theorem effTimetable_named {p : Part} {r : Ring} {s : State} (h : Named s) : Named (effTimetable p r s) := by
  unfold effTimetable
  dsimp only
  split
  · exact h
  · refine .ite (fun _ => h) fun _ => ?_
    split
    next hx => exact failMem_named (.fst hx (ppaFetch_named h))
    next hx =>
      have hf := Named.fst hx (ppaFetch_named h)
      exact .of_frame (finish_without (by decide)) (.ite (fun _ => .of_frame (admitTt_without (by decide)) hf) fun _ => hf)

/-! ### Machine/Power.lean -/

theorem postThrottle_named {cause : Byte} {ds fresh : List Die} {s : State} (h : Named s) :
    Named (postThrottle cause ds fresh s) := by
  unfold postThrottle
  dsimp only
  refine .ite (fun _ => h) fun _ => ?_
  refine .forEach (fun _ _ h1 => ?_) ?_
  · split
    · exact ckptTrigger_named h1
    · exact h1
  · refine .forEach (fun _ _ h1 => ?_) h
    split
    · exact .of_frame (postEvent_without (by decide)) h1
    · exact h1

theorem effUnder_named {mV : Nat} {s : State} (h : Named s) : Named (effUnder mV s) := by
  unfold effUnder
  dsimp only
  exact .ite (fun _ => h) fun _ => .ite (fun _ => .of_frame (setVolt_without (by decide)) h) fun _ => postThrottle_named
      (.modDie (.modDie (.modPower (.of_frame (setVolt_without (by decide)) h))))

theorem overpower_named {s : State} (h : Named s) : Named (overpower s) := by
  unfold overpower
  dsimp only
  exact .ite (fun _ => h) fun _ => postThrottle_named (.modDie (.modDie (.modPower h)))

theorem effPowerSample_named {watts avg mV mA : BitVec 16} {s : State} (h : Named s) :
    Named (effPowerSample watts avg mV mA s) := by
  unfold effPowerSample
  dsimp only
  exact .ite (fun _ => h) fun _ => .ite (fun _ => overpower_named (.of_frame (bandEvents_without (by decide)) (.modPower h)))
      fun _ => .of_frame (bandEvents_without (by decide)) (.modPower h)

theorem effThermal_named {die0 die1 : Int} {dram : List Int} {s : State} (h : Named s) :
    Named (effThermal die0 die1 dram s) := by
  unfold effThermal
  dsimp only
  have hc : Named (countHot (bandEvents s (takeTemps die0 die1 dram s))) := .of_frame (countHot_without (by decide))
    (.of_frame (bandEvents_without (by decide)) (.of_frame (takeTemps_without (by decide)) h))
  have ht (f : Die → DieState → DieState) : Named (forEach (fins 2) (fun d t => t.modDie d (f d))
      (countHot (bandEvents s (takeTemps die0 die1 dram s)))) := .forEach (fun _ _ h1 => .modDie h1) hc
  exact .ite (fun _ => h) fun _ => .ite (fun _ => powerDown_named) fun _ => .ite (fun _ => ht _) fun _ =>
    postThrottle_named (.modPower (ht _))

theorem effFabricLoss_named {s : State} (h : Named s) : Named (effFabricLoss s) := by
  unfold effFabricLoss
  dsimp only
  exact .ite (fun _ => h) fun _ => .ite (fun _ => .forEach (fun _ _ h1 => .forEach (fun _ _ h2 => .ite (fun _ => h2) fun _ =>
      strandDown_named h2) h1) (.modPower h)) fun _ => .forEach (fun _ _ h1 => .of_frame (postEvent_without (by decide)) h1)
      (.forEach (fun _ _ h1 => .forEach (fun _ _ h2 => .ite (fun _ => h2) fun _ => strandDown_named h2) h1) (.modPower h))

/-! ### Machine/Boot.lean -/

theorem toRecovery_named {fail : Nat} {s : State} (h : Named s) : Named (toRecovery fail s) := by
  unfold toRecovery
  exact .of_frame (logBoot_without (by decide)) (.enters (v := 6) (by decide) (fun _ => rfl) h)

theorem startFirmware_named {img : Image} {s : State} (h : Named s) : Named (startFirmware img s) := by
  unfold startFirmware
  dsimp only
  exact .of_frame (bringUp_without (by decide)) (.of_frame (firstCrown_without (by decide)) (.of_frame
    (reattest_without (by decide)) (.of_frame (logBoot_without (by decide)) (.enters (v := 4) (by decide) (fun _ => rfl) h))))

theorem effImageLoaded_named {flashOk agree : Bool} {s : State} (h : Named s) : Named (effImageLoaded flashOk agree s) := by
  unfold effImageLoaded
  dsimp only
  exact .ite (fun _ => h) fun _ => .ite (fun _ => toRecovery_named h) fun _ => .ite (fun _ => startFirmware_named (.modBoot
      (fun _ => rfl) h)) fun _ => toRecovery_named (.modBoot (fun _ => rfl) h)

theorem readySuper_named {k : Super} {s : State} (h : Named s) : Named (readySuper k s) := by
  unfold readySuper
  dsimp only
  exact .ite (fun _ => h) fun _ => .forEach (fun _ _ h1 => stopUnder_named h1) (resumeSuper_named (.modSuper
      (wakeController_named h)))

theorem effBootReady_named {s : State} (h : Named s) : Named (effBootReady s) := by
  by_cases h4 : s.boot.stage = 4
  · obtain ⟨hst, hm⟩ := bootReady_opens h4
    exact ⟨by rw [hst]; decide, by rw [hm]; decide⟩
  · have he : effBootReady s = s := if_pos h4
    exact he.symm ▸ h

theorem bootErr_named {e : BitVec 4} {s : State} (h : Named s) : Named (bootErr e s) := by
  unfold bootErr
  exact .modBoot (fun _ => rfl) h

theorem effEnterRecovery_named {s : State} (h : Named s) : Named (effEnterRecovery s) := by
  unfold effEnterRecovery
  exact .ite (fun _ => bootErr_named h) fun _ => .ite (fun _ => bootErr_named h) fun _ => moduleReset_named

theorem effCommitSvn_named {s : State} (h : Named s) : Named (effCommitSvn s) := by
  unfold effCommitSvn
  exact .ite (fun _ => bootErr_named h) fun _ => .ite (fun _ => bootErr_named h) fun _ => .ite (fun _ => bootErr_named h) fun _
      => bootErr_named (.of_frame (fuseSvn_without (by decide)) h)

theorem takeStaged_named {holder len : Nat} {s : State} (h : Named s) : Named (takeStaged holder len s) := by
  unfold takeStaged
  dsimp only
  exact .ite (fun _ => .modBoot (fun _ => rfl) (.modBoot (fun _ => rfl) h)) fun _ => .modBoot (fun _ => rfl) (.of_frame
      (flashProg_without (by decide)) (.of_frame (flashErase_without (by decide)) (.modBoot (fun _ => rfl) h)))

theorem effRcvGo_named {len : Nat} {s : State} (h : Named s) : Named (effRcvGo len s) := by
  unfold effRcvGo
  exact .ite (fun _ => bootErr_named h) fun _ => .ite (fun _ => bootErr_named h) fun _ => .ite (fun _ => bootErr_named h) fun _
      => takeStaged_named h

theorem effFlashDone_named {ok : Bool} {s : State} (h : Named s) : Named (effFlashDone ok s) := by
  unfold effFlashDone
  dsimp only
  exact .ite (fun _ => h) fun _ => .ite (fun _ => startFirmware_named (.modBoot (fun _ => rfl) h)) fun _ => .modBoot (fun _ =>
      rfl) (.drawn h)

/-! ### Machine/HildUnit.lean -/

theorem hildTouch_named {s0 : State} {p : Part} {x2 : List (Nat × Nat)} {x3 : State} (h : Named x3) :
    Named (hildTouch s0 p x2 x3) := by
  induction x2 generalizing x3 with
  | nil => exact h
  | cons a r ih =>
    unfold hildTouch
    split
    · exact ih (ppaTouch_named h)
    · exact ih (.forEach (fun _ _ h1 => touchLine_named h1) h)
    · exact ppaTouch_named h

theorem stepGroup_named {k : Super} {p : Part} {c : CurRun} {s : State} (h : Named s) :
    (∀ t, stepGroup k p c s = .ends t → Named t) ∧ ∀ o t, stepGroup k p c s = .made o t → Named t := by
  have ht (rs : List (Nat × Nat)) : Named (hildTouch s p rs s) := hildTouch_named h
  unfold stepGroup
  dsimp only
  generalize groupReads _ _ _ = rs
  have ht := ht rs
  generalize hildTouch s p rs s = u at ht
  split
  · exact ⟨fun _ e => GroupStep.noConfusion e, fun _ _ e => GroupStep.noConfusion e⟩
  split
  · exact ⟨fun _ e => GroupStep.ends.inj e ▸ ht, fun _ _ e => GroupStep.noConfusion e⟩
  generalize computeGroup s p k c c.next = g
  split
  · exact ⟨fun _ e => GroupStep.ends.inj e ▸ runMemFail_named ht, fun _ _ e => GroupStep.noConfusion e⟩
  · exact ⟨fun _ e => GroupStep.ends.inj e ▸ endRun_named ht, fun _ _ e => GroupStep.noConfusion e⟩
  · exact ⟨fun _ e => GroupStep.noConfusion e, fun _ _ e => (GroupStep.made.inj e).2 ▸ .of_frame (notePoison_without (by decide))
      (.of_frame (noteGroup_without (by decide)) ht)⟩

theorem stageGroups_named {x0 : Nat} {x1 : Super} {x2 : State} (h : Named x2) : Named (stageGroups x0 x1 x2) := by
  induction x0 generalizing x2 with
  | zero => exact h
  | succ n ih =>
    unfold stageGroups
    dsimp only
    split
    next c p _ _ =>
      refine .ite (fun _ => h) fun _ => ?_
      obtain ⟨he, hm⟩ := stepGroup_named (k := x1) (p := p) (c := c) (.of_frame (showGroup_without (by decide)) h)
      split
      · exact h
      next hx => exact he _ hx
      next hx => exact .ite (fun _ => h) fun _ => ih (.modHild (hm _ _ hx))
    · exact h

theorem writeGroup_named {k : Super} {s : State} (h : Named s) : Named (writeGroup k s) := by
  unfold writeGroup
  split
  next c p _ _ =>
    refine .ite (fun _ => h) fun _ => ?_
    obtain ⟨he, hm⟩ := stepGroup_named (k := k) (p := p) (c := c) (.of_frame (showGroup_without (by decide)) h)
    split
    · exact h
    next hx => exact he _ hx
    next hg =>
      refine .ite (fun _ => h) fun _ => ?_
      split
      next hx => exact .fst hx (putAll_named (hm _ _ hg))
      next hx => exact runMemFail_named (.fst hx (putAll_named (hm _ _ hg)))
  · exact h

theorem runGroup_named {k : Super} {s : State} (h : Named s) : Named (runGroup k s) := by
  unfold runGroup
  split
  · exact h
  · exact .ite (fun _ => stageGroups_named h) fun _ => writeGroup_named h

theorem seedFails_named {k : Super} {s : State} (h : Named s) : Named (seedFails k s) := by
  unfold seedFails
  dsimp only
  exact endRun_named (.modHild h)

theorem beginRun_named {k : Super} {c : CurRun} {s : State} (h : Named s) : Named (beginRun k c s) := by
  have hr : Named (hildReseed k c s).1 := .of_frame (hildReseed_without (by decide)) h
  unfold beginRun
  exact .ite (fun _ => seedFails_named hr) fun _ => .ite (fun _ => runGroup_named hr) fun _ => runGroup_named (putCommit_named hr)

theorem effRunStart_named {k : Super} {s : State} (h : Named s) : Named (effRunStart k s) := by
  unfold effRunStart
  dsimp only
  split
  · refine .ite (fun _ => h) fun _ => .ite (fun _ => h) fun _ => ?_
    have ht (p : Part) (l : List (Nat × Nat)) (f : Hild → Hild) :
        Named (forEach l (fun x s => ppaTouch p 3 x.1 x.2 s) (s.modHild k f)) :=
      .forEach (fun _ _ h1 => ppaTouch_named h1) (.modHild h)
    split
    · exact runMemFail_named (ht ..)
    · split
      · exact endRun_named (ht ..)
      · exact beginRun_named (ht ..)
  · exact h

theorem effGroupDone_named {k : Super} {s : State} (h : Named s) : Named (effGroupDone k s) := by
  unfold effGroupDone
  dsimp only
  split
  · refine .ite (fun _ => .ite (fun _ => writeGroup_named (drainRun_named h)) fun _ => .ite (fun _ => openGate_named
        (runGroup_named h)) fun _ => h) fun _ => ?_
    refine .ite (fun _ => .ite (fun _ => writeGroup_named (drainRun_named h)) fun _ => .ite (fun _ => openGate_named
        (runGroup_named h)) fun _ => h) fun _ => ?_
    split
    next hx => exact runMemFail_named (.fst hx (putAll_named (.ite (fun _ => writeGroup_named (drainRun_named h)) fun _ => .ite
        (fun _ => openGate_named (runGroup_named h)) fun _ => h)))
    next hx => exact runGroup_named (.modHild (.fst hx (putAll_named (.ite (fun _ => writeGroup_named (drainRun_named h)) fun _
        => .ite (fun _ => openGate_named (runGroup_named h)) fun _ => h))))
  · exact .ite (fun _ => writeGroup_named (drainRun_named h)) fun _ => .ite (fun _ => openGate_named (runGroup_named h)) fun _
        => h

theorem effRunDone_named {k : Super} {s : State} (h : Named s) : Named (effRunDone k s) := by
  unfold effRunDone
  dsimp only
  split
  · exact .ite (fun _ => h) fun _ => endRun_named (.modHild (putCommit_named h))
  · exact h

/-! ### Machine/Mgmt.lean -/

theorem effPldmUpdate_named {hdr : Bytes} {s : State} (h : Named s) : Named (effPldmUpdate hdr s) := by
  unfold effPldmUpdate
  dsimp only
  exact .ite (fun _ => .emit h) fun _ => .ite (fun _ => .emit (.ite (fun _ => .modBoot (fun _ => rfl) h) fun _ => h)) fun _ =>
      .emit (.of_frame (updatePut_without (by decide)) (.modMgmt (.ite (fun _ => .modBoot (fun _ => rfl) h) fun _ => .of_frame
      (flashErase_without (by decide)) h)))

theorem effVerify_named {s : State} (h : Named s) : Named (effVerify s) := by
  unfold effVerify
  dsimp only
  exact .ite (fun _ => .emit h) fun _ => .emit (.ite (fun _ => takeStaged_named (.modMgmt h)) fun _ => .modMgmt h)

theorem effActivate_named {s : State} (h : Named s) : Named (effActivate s) := by
  unfold effActivate
  dsimp only
  exact .ite (fun _ => .emit h) fun _ => .ite (fun _ => .modMgmt (.emit h)) fun _ => moduleReset_named

theorem effCancelUpdate_named {s : State} (h : Named s) : Named (effCancelUpdate s) := by
  unfold effCancelUpdate
  dsimp only
  exact .ite (fun _ => .emit h) fun _ => .emit (.modBoot unstage_stage (.modMgmt (.ite
    (fun _ => .of_frame (flashErase_without (by decide)) h) fun _ => h)))

theorem monReset_named {d u : BitVec 3} {s : State} (h : Named s) : Named (monReset d u s) := by
  unfold monReset
  dsimp only
  exact .ite (fun _ => .of_frame (sayErr_without (by decide)) h) fun _ => .ite (fun _ => .of_frame (sayOk_without (by decide))
      h) fun _ => .ite (fun _ => .of_frame (sayErr_without (by decide)) h) fun _ => .ite (fun _ => resetCmd_named h) fun _ =>
      .ite (fun _ => .of_frame (sayOk_without (by decide)) (resetCmd_named h)) fun _ => .ite (fun _ => .of_frame
      (sayErr_without (by decide)) (resetCmd_named h)) fun _ => .of_frame (sayErr_without (by decide)) (resetCmd_named h)

/-! ### Machine/Regs.lean -/

theorem moduleStickies_named {g : Nat → Sticky → Sticky} {r : Reg} {s : State} (h : Named s) :
    Named (moduleStickies g r s) := by
  unfold moduleStickies
  dsimp only
  split
  · exact .modMod h
  · exact .modMod h
  · exact .modDie h
  · exact .modQueen h
  · exact .modQueen h
  · exact .modEvt (fun _ => rfl) h
  · exact .modPower h
  · exact .modPower h
  · exact h

theorem mapStickies_named {f : Fn} {r : Reg} {g : Nat → Sticky → Sticky} {s : State} (h : Named s) :
    Named (mapStickies f r g s) := by
  unfold mapStickies
  split
  · exact .modComb h
  · exact .modComb h
  · exact .modComb h
  · exact .modComb h
  · exact .modComb h
  · exact .modComb h
  · exact .modComb h
  · exact .modSuper h
  · exact .modSuper h
  · exact .modSuper h
  · exact .elim h fun _ => .modPart h
  · exact .elim h fun _ => .modPart h
  · exact .elim h fun _ => .modPart h
  · exact .elim (moduleStickies_named h) fun _ => .modPart h
  · exact .modFn h
  · exact moduleStickies_named h

theorem effRegRead_named {f : Fn} {r : Reg} {acc : Acc} {s : State} (h : Named s) : Named (effRegRead f r acc s) := by
  unfold effRegRead
  dsimp only
  refine .ite (fun _ => .of_frame (refuseAccess_without (by decide)) h) fun _ => ?_
  refine .ite (fun _ => .emit h) fun _ => ?_
  refine .ite (fun _ => .emit (mapStickies_named h)) fun _ => ?_
  split
  · split
    · exact .emit (.of_frame (dropLatch_without (by decide)) (mapStickies_named h))
    · exact .emit (mapStickies_named h)
  · exact .emit (.of_frame (setLatch_without (by decide)) (mapStickies_named h))

theorem effClear_named {f : Fn} {r : Reg} {bits : DWord} {s : State} (h : Named s) : Named (effClear f r bits s) := by
  unfold effClear
  exact mapStickies_named h

theorem writePf0_named {r : Reg} {v : DWord} {s : State} (h : Named s) : Named (writePf0 r v s) := by
  cases r
  case supScrub => exact .modSuper h
  case humCfg => exact .of_frame (effHumCfg_without (by decide)) h
  case humEpoch => exact .modMod h
  case wagCoord => exact effCoord_named h
  case wagPortmap => exact effPortmap_named h
  case wagLeaseCmt =>
    exact .ite (fun _ => .of_frame (effLeaseRelease_without (by decide)) h) fun _ =>
      .of_frame (effLeaseCommit_without (by decide)) h
  case wagJob => exact .of_frame (effJobWrite_without (by decide)) h
  case wagLease => exact .of_frame (effLeaseWrite_without (by decide)) h
  case winBase => exact .modMod h
  case qnPartCmd =>
    exact .ite (fun _ => .of_frame (effCreate_without (by decide)) h) fun _ => .ite
      (fun _ => .of_frame (effRemove_without (by decide)) h) fun _ => .ite
      (fun _ => .of_frame (effEndContext_without (by decide)) h) fun _ => h
  case evtResetCmd => exact resetCmd_named h
  case evtDrain => exact .modEvt (fun _ => rfl) h
  case evtWdog => exact .modEvt (fun _ => rfl) h
  case evtEwCfg => exact .modEvt (fun _ => rfl) h
  case pwrLimit => exact .of_frame (setLimit_without (by decide)) h
  case qnBootCmd =>
    exact .ite (fun _ => effEnterRecovery_named h) fun _ => .ite (fun _ => effCommitSvn_named h) fun _ => .ite
      (fun _ => effRcvGo_named h) fun _ => h
  all_goals exact h

theorem writeShared_named {f : Fn} {r : Reg} {v : DWord} {s : State} (h : Named s) : Named (writeShared f r v s) := by
  unfold writeShared
  split
  · exact .ite (fun _ => .modSeq h) fun _ => h
  · exact .ite (fun _ => h) fun _ => .modHum h
  · exact .of_frame (effRowClip_without (by decide)) h
  · exact .ite (fun _ => h) fun _ => .modHild h
  · exact .ite (fun _ => h) fun _ => .modHild h
  · exact .ite (fun _ => h) fun _ => .modHild h
  · exact .elim (.modMod h) fun _ => .modPart h
  · exact .elim (.modMod h) fun _ => .modPart h
  · exact .elim (.modMod h) fun _ => .modPart h
  · exact .of_frame (writeEqCfg_without (by decide)) h
  · exact .ite (fun _ => writePf0_named h) fun _ => h

theorem effWriteReg_named {f : Fn} {r : Reg} {v : DWord} {s : State} (h : Named s) : Named (effWriteReg f r v s) := by
  unfold effWriteReg
  split
  · exact .modRing h
  · exact .modRing h
  · exact .modRing h
  · exact .modRing h
  · exact .modRing h
  · exact .of_frame (writeSqCfg_without (by decide)) h
  · exact .modPart h
  · exact .modPart h
  · exact .modPart h
  · exact .modPart h
  · exact .ite (fun _ => .of_frame (effCommit_without (by decide)) h) fun _ => h
  · exact .of_frame (writeConfig_without (by decide)) h
  · exact .of_frame (writeConfig_without (by decide)) h
  · exact .of_frame (writeConfig_without (by decide)) h
  · exact .of_frame (writeConfig_without (by decide)) h
  · exact writeShared_named h

end Sys2Proof.NamedProofs
end

section
/-! Every step keeps the power controller, the boot stage and the module state among those the spec names (R489, R538, R557). -/

namespace Sys2Proof.LegalProofs

open Sys2Proof Sys2Proof.Machine Sys2Proof.NamedProofs

/-! ### Boot stage and module state, command by command -/

/-- Whether a command's pieces leave the boot registers and the event registers alone. -/
def leavesStages (c : Instr) : Bool := sub (touches c) quietPieces

theorem does_named_of_leavesStages {c : Instr} {s : State} (hc : leavesStages c = true) (h : Named s) : Does c s Named := by
  obtain ⟨t, ht, w⟩ := CommandProofs.commandsKeepToTheirPieces c s
  exact ⟨t, ht, .of_frame (Within.mono w hc) h⟩

theorem update_named {f : State → State} {s : State} (hf : ∀ t, Named t → Named (f t)) (h : Named s) : Named (update f s) :=
  .ite (fun _ => hf s h) fun _ => .ite (fun _ => .emit h) fun _ => h

section Commands

variable {s : State} (h : Named s)
include h

theorem inputPowerGood_named (mV : Nat) : Does (.inputPowerGood mV) s Named := by
  refine ⟨_, rfl, .ite (fun _ => ?_) fun _ => h⟩
  exact h

theorem pcieRefLoss_named : Does .pcieRefLoss s Named :=
  ⟨_, rfl, .ite (fun _ => h) fun _ => .ite (fun _ => portReset_named (.modPower h)) fun _ => .modPower h⟩

theorem bootStart_named : Does .bootStart s Named :=
  ⟨_, rfl, .ite (fun _ => h) fun _ => .ite (fun _ => toRecovery_named (.modPower (.modBoot (fun _ => rfl) h))) fun _ =>
    .enters (v := 1) (by decide) (fun _ => rfl) (.modPower (.modBoot (fun _ => rfl) h))⟩

theorem supersedure_named : Does .supersedure s Named :=
  ⟨_, rfl, .ite (fun _ => h) fun _ => .ite (fun _ => .of_frame (crownTo_without (by decide)) (queenFault_named h)) fun _ => h⟩

theorem hildWatchdog_named (k : Super) : Does (.hildWatchdog k) s Named := by
  refine ⟨_, rfl, ?_⟩
  split
  · exact .ite (fun _ => superHung_named h) fun _ => h
  · exact h

theorem foragerWatchdog_named (k : Comb) (f : Fin 4) : Does (.foragerWatchdog k f) s Named := by
  refine ⟨_, rfl, ?_⟩
  split
  · exact .ite (fun _ => h) fun _ => stopInternal_named (countWdog_named h)
  · exact h

theorem linkReplayLimit_named (k : Super) : Does (.linkReplayLimit k) s Named := by
  refine ⟨_, rfl, .ite (fun _ => h) fun _ => ?_⟩
  dsimp only
  split
  · exact stopInternal_named (.modSuper h)
  · exact .modSuper h

end Commands

/-! ### The power controller, command by command -/

/-- The limit is within R546's range, a latched module is off, and of a module that is off no rail but VDD_HK is on. -/
def Supplied (s : State) : Prop :=
  900 ≤ s.power.limit.toNat ∧ s.power.limit.toNat ≤ 1500 ∧ (s.power.latched = true → s.power.pwrgd = false) ∧
  (s.power.pwrgd = false → s.power.rails.toNat ≤ 1)

/-- Every piece of the state but the power controller. -/
def allButPower : List Piece := .causes :: .flash :: faultPieces

variable {s t : State}

theorem Supplied.of_eq (h : Supplied s) (e : t.power = s.power) : Supplied t := by
  unfold Supplied
  rw [e]
  exact h

theorem Supplied.of_frame (w : t.without allButPower = s.without allButPower) (h : Supplied s) : Supplied t :=
  h.of_eq (Within.power_eq w (by decide))

theorem Supplied.ite {c : Prop} [Decidable c] {a b : State} (ha : c → Supplied a) (hb : ¬c → Supplied b) :
    Supplied (if c then a else b) := by
  split
  · exact ha ‹_›
  · exact hb ‹_›

/-- A reading, a count or a reference recorded in the power controller. -/
theorem Supplied.recorded {f : Power → Power} (h : Supplied s) (hf : ∀ w, (f w).limit = w.limit ∧ (f w).latched = w.latched ∧
    (f w).pwrgd = w.pwrgd ∧ (f w).rails = w.rails) : Supplied (s.modPower f) := by
  obtain ⟨hlimit, hlatched, hpwrgd, hrails⟩ := hf s.power
  unfold Supplied
  rw [modPower_power, hlimit, hlatched, hpwrgd, hrails]
  exact h

theorem Supplied.modDie {d : Die} {f : DieState → DieState} (h : Supplied s) : Supplied (s.modDie d f) := h
theorem Supplied.modSuper {k : Super} {f : SuperState → SuperState} (h : Supplied s) : Supplied (s.modSuper k f) := h
theorem Supplied.modComb {k : Comb} {f : CombState → CombState} (h : Supplied s) : Supplied (s.modComb k f) := h
theorem Supplied.modPart {p : Part} {f : PartState → PartState} (h : Supplied s) : Supplied (s.modPart p f) := h
theorem Supplied.modFn {n : Fn} {f : FnState → FnState} (h : Supplied s) : Supplied (s.modFn n f) := h
theorem Supplied.modMod {f : ModuleRegs → ModuleRegs} (h : Supplied s) : Supplied (s.modMod f) := h
theorem Supplied.modQueen {f : Queen → Queen} (h : Supplied s) : Supplied (s.modQueen f) := h
theorem Supplied.modEvt {f : EvtRegs → EvtRegs} (h : Supplied s) : Supplied (s.modEvt f) := h
theorem Supplied.modBoot {f : Boot → Boot} (h : Supplied s) : Supplied (s.modBoot f) := h
theorem Supplied.emit {o : Output} (h : Supplied s) : Supplied (Machine.emit o s) := h

theorem Supplied.forEach {α : Type} {l : List α} {f : α → State → State} (hf : ∀ a t, Supplied t → Supplied (f a t))
    (h : Supplied s) : Supplied (forEach l f s) := PortProofs.forEach_invariant hf l h

theorem Supplied.modSeq {k : Comb} {f : Seq → Seq} (h : Supplied s) : Supplied (s.modSeq k f) := h
theorem Supplied.modHum {k : Comb} {f : Hum → Hum} (h : Supplied s) : Supplied (s.modHum k f) := h
theorem Supplied.modHild {k : Super} {f : Hild → Hild} (h : Supplied s) : Supplied (s.modHild k f) := h
theorem Supplied.modRing {p : Part} {r : Ring} {f : RingState → RingState} (h : Supplied s) : Supplied (s.modRing p r f) := h

theorem Supplied.elim {α : Type} {o : Option α} {b : State} {f : α → State} (hn : Supplied b) (hs : ∀ a, Supplied (f a)) :
    Supplied (o.elim b f) := by
  cases o with
  | none => exact hn
  | some a => exact hs a

theorem powerDown_supplied {latched trip fault hk : Bool} : Supplied (powerDown latched trip fault hk s) := by
  have hr : (if hk then 1 else 0 : BitVec 10).toNat ≤ 1 := by cases hk <;> decide
  exact ⟨Nat.le_of_ble_eq_true rfl, Nat.le_of_ble_eq_true rfl, fun _ => rfl, fun _ => hr⟩

section Effects

variable (h : Supplied s)
include h

theorem bandEvents_supplied {old : State} : Supplied (bandEvents old s) := .of_frame (bandEvents_without (by decide)) h

theorem setVolt_supplied {mV : Nat} : Supplied (setVolt mV s) := by
  unfold setVolt
  generalize voltField mV = v
  refine bandEvents_supplied (.recorded h ?_)
  exact fun _ => ⟨rfl, rfl, rfl, rfl⟩

/-- Only a limit within the range is taken (R546). -/
theorem setLimit_supplied {w : Nat} : Supplied (setLimit w s) := by
  obtain ⟨hlow, hhigh, hrest⟩ := h
  have hp := PowerProofs.setLimit_power w s
  unfold Supplied
  rw [hp]
  by_cases he : limitErr s w = 0
  · have hw : 900 ≤ w ∧ w ≤ 1500 := by
      by_contra hc
      have hr := PowerProofs.limitErr_range (s := s) (w := w) (by omega)
      omega
    have hn : (BitVec.ofNat 11 w).toNat = w := by rw [BitVec.toNat_ofNat]; omega
    rw [if_pos he, hn]
    exact ⟨hw.1, hw.2, hrest⟩
  · rw [if_neg he]
    exact ⟨hlow, hhigh, hrest⟩

theorem postThrottle_supplied {c : Byte} {ds fresh : List Die} : Supplied (postThrottle c ds fresh s) :=
  .of_frame (postThrottle_without (by decide)) h

theorem overpower_supplied : Supplied (overpower s) := by
  unfold overpower
  refine .ite (fun _ => h) fun _ => postThrottle_supplied (.modDie (.modDie ?_))
  exact .recorded h fun _ => ⟨rfl, rfl, rfl, rfl⟩

theorem effUnder_supplied {mV : Nat} : Supplied (effUnder mV s) := by
  have hv := setVolt_supplied h (mV := mV)
  unfold effUnder
  dsimp only
  generalize setVolt mV s = u at hv
  refine .ite (fun _ => h) fun _ => .ite (fun _ => hv) fun _ => postThrottle_supplied (.modDie (.modDie ?_))
  exact .recorded hv fun _ => ⟨rfl, rfl, rfl, rfl⟩

theorem effPowerSample_supplied {watts avg mV mA : BitVec 16} : Supplied (effPowerSample watts avg mV mA s) := by
  have hr : Supplied (s.modPower fun w => { w with volt := mV, curr := mA, watts := watts, avg := avg }) :=
    .recorded h fun _ => ⟨rfl, rfl, rfl, rfl⟩
  have hb := bandEvents_supplied hr (old := s)
  unfold effPowerSample
  dsimp only
  generalize bandEvents s (s.modPower fun w => { w with volt := mV, curr := mA, watts := watts, avg := avg }) = u at hb
  exact .ite (fun _ => h) fun _ => .ite (fun _ => overpower_supplied hb) fun _ => hb

theorem takeTemps_supplied {die0 die1 : Int} {dram : List Int} : Supplied (takeTemps die0 die1 dram s) := by
  unfold takeTemps
  dsimp only
  refine .forEach (fun _ _ h => h.modSuper) (.modDie (.modDie ?_))
  exact .recorded h fun _ => ⟨rfl, rfl, rfl, rfl⟩

theorem effThermal_supplied {die0 die1 : Int} {dram : List Int} : Supplied (effThermal die0 die1 dram s) := by
  have hc : Supplied (countHot (bandEvents s (takeTemps die0 die1 dram s))) := .of_frame (countHot_without (by decide))
    (bandEvents_supplied (takeTemps_supplied h))
  unfold effThermal
  dsimp only
  generalize countHot (bandEvents s (takeTemps die0 die1 dram s)) = u at hc
  have ht (f : Die → DieState → DieState) : Supplied (forEach (fins 2) (fun d t => t.modDie d (f d)) u) :=
    .forEach (fun _ _ h => h.modDie) hc
  refine .ite (fun _ => h) fun _ => .ite (fun _ => powerDown_supplied) fun _ => .ite (fun _ => ht _) fun _ =>
    postThrottle_supplied ?_
  exact .recorded (ht _) fun _ => ⟨rfl, rfl, rfl, rfl⟩

theorem effFabricLoss_supplied : Supplied (effFabricLoss s) := by
  have hp (l : List Part) (t : State) (ht : Supplied t) :
      Supplied (forEach l (fun p s => postEvent p evWarning 0xC4 p (Config.openDetail evWarning 0xC4) s) t) :=
    .forEach (fun _ _ h => .of_frame (postEvent_without (by decide)) h) ht
  have hd (t : State) (ht : Supplied t) : Supplied (forEach (fins 8) (fun k s => forEach (fins 6) (fun p s =>
      if s.combs[k].router.ports[p].state = 0 then s else strandDown k p 0 s.combs[k].router.ports[p].stuck s) s) t) :=
    .forEach (fun _ _ h => .forEach (fun _ _ h => .ite (fun _ => h) fun _ => .of_frame (strandDown_without (by decide)) h) h) ht
  have hl : Supplied (s.modPower fun w => { w with frefLost := true, frefOk := false, frefLoss := hit 16 w.frefLoss }) :=
    .recorded h fun _ => ⟨rfl, rfl, rfl, rfl⟩
  have hr := hd _ hl
  unfold effFabricLoss
  exact .ite (fun _ => h) fun _ => .ite (fun _ => hr) fun _ => hp _ _ hr

/-! ### Registers -/

theorem moduleStickies_supplied {g : Nat → Sticky → Sticky} {r : Reg} : Supplied (moduleStickies g r s) := by
  cases r
  case pwrStatus => exact .recorded h fun _ => ⟨rfl, rfl, rfl, rfl⟩
  case clkStatus => exact .recorded h fun _ => ⟨rfl, rfl, rfl, rfl⟩
  all_goals exact h

theorem mapStickies_supplied {f : Fn} {r : Reg} {g : Nat → Sticky → Sticky} : Supplied (mapStickies f r g s) := by
  unfold mapStickies
  split
  · exact .modComb h
  · exact .modComb h
  · exact .modComb h
  · exact .modComb h
  · exact .modComb h
  · exact .modComb h
  · exact .modComb h
  · exact .modSuper h
  · exact .modSuper h
  · exact .modSuper h
  · exact .elim h fun _ => .modPart h
  · exact .elim h fun _ => .modPart h
  · exact .elim h fun _ => .modPart h
  · exact .elim (moduleStickies_supplied h) fun _ => .modPart h
  · exact .modFn h
  · exact moduleStickies_supplied h

theorem effRegRead_supplied {f : Fn} {r : Reg} {acc : Acc} : Supplied (effRegRead f r acc s) := by
  have hm : ∀ g, Supplied (mapStickies f r g s) := fun _ => mapStickies_supplied h
  unfold effRegRead
  refine .ite (fun _ => .of_frame (refuseAccess_without (by decide)) h) fun _ => .ite (fun _ => h.emit) fun _ =>
    .ite (fun _ => (hm _).emit) fun _ => ?_
  split
  · split
    · exact .emit (.of_frame (dropLatch_without (by decide)) (hm _))
    · exact (hm _).emit
  · exact .emit (.of_frame (setLatch_without (by decide)) (hm _))

/-- PWR_LIMIT is the one register of PF0 that reaches the power controller. -/
theorem writePf0_supplied {r : Reg} {v : DWord} : Supplied (writePf0 r v s) := by
  cases r
  case pwrLimit => exact setLimit_supplied h
  case humCfg => exact .of_frame (effHumCfg_without (by decide)) h
  case wagCoord => exact .of_frame (effCoord_without (by decide)) h
  case wagPortmap => exact .of_frame (effPortmap_without (by decide)) h
  case wagLeaseCmt =>
    exact .ite (fun _ => .of_frame (effLeaseRelease_without (by decide)) h) fun _ =>
      .of_frame (effLeaseCommit_without (by decide)) h
  case wagJob => exact .of_frame (effJobWrite_without (by decide)) h
  case wagLease => exact .of_frame (effLeaseWrite_without (by decide)) h
  case qnPartCmd =>
    exact .ite (fun _ => .of_frame (effCreate_without (by decide)) h) fun _ => .ite
      (fun _ => .of_frame (effRemove_without (by decide)) h) fun _ => .ite
      (fun _ => .of_frame (effEndContext_without (by decide)) h) fun _ => h
  case evtResetCmd => exact .of_frame (resetCmd_without (by decide)) h
  case qnBootCmd =>
    exact .ite (fun _ => .of_frame (effEnterRecovery_without (by decide)) h) fun _ => .ite
      (fun _ => .of_frame (effCommitSvn_without (by decide)) h) fun _ => .ite
      (fun _ => .of_frame (effRcvGo_without (by decide)) h) fun _ => h
  all_goals exact h

theorem writeShared_supplied {f : Fn} {r : Reg} {v : DWord} : Supplied (writeShared f r v s) := by
  unfold writeShared
  split
  · exact .ite (fun _ => .modSeq h) fun _ => h
  · exact .ite (fun _ => h) fun _ => .modHum h
  · exact .of_frame (effRowClip_without (by decide)) h
  · exact .ite (fun _ => h) fun _ => .modHild h
  · exact .ite (fun _ => h) fun _ => .modHild h
  · exact .ite (fun _ => h) fun _ => .modHild h
  · exact .elim (.modMod h) fun _ => .modPart h
  · exact .elim (.modMod h) fun _ => .modPart h
  · exact .elim (.modMod h) fun _ => .modPart h
  · exact .of_frame (writeEqCfg_without (by decide)) h
  · exact .ite (fun _ => writePf0_supplied h) fun _ => h

theorem effWriteReg_supplied {f : Fn} {r : Reg} {v : DWord} : Supplied (effWriteReg f r v s) := by
  unfold effWriteReg
  split
  · exact .modRing h
  · exact .modRing h
  · exact .modRing h
  · exact .modRing h
  · exact .modRing h
  · exact .of_frame (writeSqCfg_without (by decide)) h
  · exact .modPart h
  · exact .modPart h
  · exact .modPart h
  · exact .modPart h
  · exact .ite (fun _ => .of_frame (effCommit_without (by decide)) h) fun _ => h
  · exact .of_frame (writeConfig_without (by decide)) h
  · exact .of_frame (writeConfig_without (by decide)) h
  · exact .of_frame (writeConfig_without (by decide)) h
  · exact .of_frame (writeConfig_without (by decide)) h
  · exact writeShared_supplied h

/-! ### Commands of more than one function -/

theorem inputPowerGood_supplied (mV : Nat) : Does (.inputPowerGood mV) s Supplied :=
  ⟨_, rfl, .ite (fun _ => ⟨Nat.le_of_ble_eq_true rfl, Nat.le_refl 1500, nofun, nofun⟩) fun _ => h⟩

theorem latchRelease_supplied (mV : Nat) : Does (.latchRelease mV) s Supplied := by
  obtain ⟨hlow, hhigh, hlatch, -⟩ := id h
  exact ⟨_, rfl, .ite (fun _ => ⟨hlow, hhigh, nofun, fun _ => Nat.zero_le 1⟩) fun _ => h⟩

theorem pcieRefLoss_supplied : Does .pcieRefLoss s Supplied := by
  have hl : Supplied (s.modPower fun w => { w with prefLost := true, prefOk := false, prefLoss := hit 16 w.prefLoss }) :=
    .recorded h fun _ => ⟨rfl, rfl, rfl, rfl⟩
  exact ⟨_, rfl, .ite (fun _ => h) fun _ => .ite (fun _ => .of_frame (portReset_without (by decide)) hl) fun _ => hl⟩

theorem pllUnlock_supplied (pll : Fin 23) : Does (.pllUnlock pll) s Supplied := by
  have hl : Supplied (s.modPower fun w => { w with pllUnlock := hit 16 w.pllUnlock }) :=
    .recorded h fun _ => ⟨rfl, rfl, rfl, rfl⟩
  exact ⟨_, rfl, .ite (fun _ => .of_frame (moduleFault_without (by decide)) hl) fun _ => h⟩

theorem refReturn_supplied (ref : RefClk) : Does (.refReturn ref) s Supplied := by
  cases ref
  · exact ⟨_, rfl, .of_frame (startTraining_without (by decide))
      (.recorded (f := fun w => { w with frefLost := false, frefOk := true }) h fun _ => ⟨rfl, rfl, rfl, rfl⟩)⟩
  · exact ⟨_, rfl, .recorded (f := fun w => { w with prefLost := false, prefOk := true }) h fun _ => ⟨rfl, rfl, rfl, rfl⟩⟩

theorem bootStart_supplied : Does .bootStart s Supplied := by
  have hp : Supplied ((s.modBoot fun b => { b with boots := b.boots + 1 }).modPower fun w => { w with
      frefOk := !w.frefLost, prefOk := !w.prefLost
      fixed := { queens := 3, pcie := true, debug := true, noc := 3, bridge := 3 } }) :=
    .recorded h.modBoot fun _ => ⟨rfl, rfl, rfl, rfl⟩
  exact ⟨_, rfl, .ite (fun _ => h) fun _ => .ite (fun _ => .of_frame (toRecovery_without (by decide)) hp) fun _ => hp.modBoot⟩

theorem registerWrite_supplied (f : Fn) (r : Reg) (acc : Acc) (v : DWord) : Does (.registerWrite f r acc v) s Supplied :=
  ⟨_, rfl, .ite (fun _ => .of_frame (refuseAccess_without (by decide)) h) fun _ =>
    .ite (fun _ => effWriteReg_supplied h) fun _ => h⟩

theorem w1cWrite_supplied (f : Fn) (r : Reg) (acc : Acc) (v : DWord) : Does (.w1cWrite f r acc v) s Supplied :=
  ⟨_, rfl, .ite (fun _ => .of_frame (refuseAccess_without (by decide)) h) fun _ =>
    .ite (fun _ => mapStickies_supplied h) fun _ => h⟩

end Effects

/-! ### Every command -/

/-- Every command keeps the boot stage and the module state among those the spec names. -/
theorem exec_named (c : Instr) (h : Named s) : Does c s Named := by
  by_cases hc : leavesStages c = true
  · exact does_named_of_leavesStages hc h
  cases c
  case alarmReceive => exact ⟨_, rfl, effAlarm_named h⟩
  case bar2Read => exact ⟨_, rfl, effBar2Read_named h⟩
  case beatBoundary => exact ⟨_, rfl, effBoundary_named h⟩
  case beatGridStart => exact ⟨_, rfl, effGridStart_named h⟩
  case bootReady => exact ⟨_, rfl, effBootReady_named h⟩
  case cellFault => exact ⟨_, rfl, effCellFault_named h⟩
  case cellOpComplete => exact ⟨_, rfl, effOpComplete_named h⟩
  case checkpoint => exact ⟨_, rfl, effCheckpoint_named h⟩
  case checkpointManifestVisible => exact ⟨_, rfl, effManifestVisible_named h⟩
  case checkpointShardsVisible => exact ⟨_, rfl, effShardsVisible_named h⟩
  case checkpointStepReady => exact ⟨_, rfl, effStepReady_named h⟩
  case combWatchdog => exact ⟨_, rfl, effCombWdog_named h⟩
  case compute => exact ⟨_, rfl, effCompute_named h⟩
  case controlSlot => exact ⟨_, rfl, effControl_named h⟩
  case copy => exact ⟨_, rfl, effCopy_named h⟩
  case dataFlitReceive => exact ⟨_, rfl, effDataFlit_named h⟩
  case drainDeadline => exact ⟨_, rfl, effDeadline_named h⟩
  case egress => exact ⟨_, rfl, effEgress_named h⟩
  case ewWindowEnd => exact ⟨_, rfl, effWindowEnd_named h⟩
  case fabric => exact ⟨_, rfl, effFabric_named h⟩
  case fabricRefLoss => exact ⟨_, rfl, effFabricLoss_named h⟩
  case flitWriteVisible => exact ⟨_, rfl, effVisible_named h⟩
  case hildGroupDone => exact ⟨_, rfl, effGroupDone_named h⟩
  case hildRunDone => exact ⟨_, rfl, effRunDone_named h⟩
  case hildRunStart => exact ⟨_, rfl, effRunStart_named h⟩
  case hostReadFail => exact ⟨_, rfl, effReadFail_named h⟩
  case imageLoaded => exact ⟨_, rfl, effImageLoaded_named h⟩
  case laneHardFail => exact ⟨_, rfl, effLaneFail_named h⟩
  case localTxSlot => exact ⟨_, rfl, effLocalTx_named h⟩
  case lowHalfRead => exact ⟨_, rfl, effRegRead_named h⟩
  case powerSample => exact ⟨_, rfl, effPowerSample_named h⟩
  case predicateResolve => exact ⟨_, rfl, effResolve_named h⟩
  case recoveryDone => exact ⟨_, rfl, effRecoveryDone_named h⟩
  case recoveryFlashDone => exact ⟨_, rfl, effFlashDone_named h⟩
  case restore => exact ⟨_, rfl, effRestore_named h⟩
  case restorePass1Done => exact ⟨_, rfl, effPass1_named h⟩
  case restorePass2Done => exact ⟨_, rfl, effPass2_named h⟩
  case retentionRelease => exact ⟨_, rfl, effRelease_named h⟩
  case smokeDrainDone => exact ⟨_, rfl, effDrainDone_named h⟩
  case snapshotCopyDone => exact ⟨_, rfl, effSnapDone_named h⟩
  case thermalSample => exact ⟨_, rfl, effThermal_named h⟩
  case timetable => exact ⟨_, rfl, effTimetable_named h⟩
  case transferComplete => exact ⟨_, rfl, effTransfer_named h⟩
  case undervoltageDetect => exact ⟨_, rfl, effUnder_named h⟩
  case verdictRecordReceive => exact ⟨_, rfl, effVerdict_named h⟩
  case activateFirmware => exact ⟨_, rfl, update_named (fun _ => effActivate_named) h⟩
  case cancelUpdate => exact ⟨_, rfl, update_named (fun _ => effCancelUpdate_named) h⟩
  case verifyComplete => exact ⟨_, rfl, update_named (fun _ => effVerify_named) h⟩
  case pldmUpdateComponent => exact ⟨_, rfl, update_named (fun _ => effPldmUpdate_named) h⟩
  case commitSvn => exact ⟨_, rfl, .doIf effCommitSvn_named h⟩
  case rcvGo => exact ⟨_, rfl, .doIf effRcvGo_named h⟩
  case enterRecovery => exact ⟨_, rfl, .doIf effEnterRecovery_named h⟩
  case coordWrite => exact ⟨_, rfl, .doIf effCoord_named h⟩
  case portmapWrite => exact ⟨_, rfl, .doIf effPortmap_named h⟩
  case resetComb | resetSuper | resetStrandPort | resetPartition | resetModuleWarm | resetModuleCold =>
    exact ⟨_, rfl, .doIf resetCmd_named h⟩
  case memoryRead => exact ⟨_, rfl, request_named h⟩
  case memoryWrite => exact ⟨_, rfl, .ite (fun _ => request_named h) fun _ => h⟩
  case partialWrite => exact ⟨_, rfl, .ite (fun _ => h) fun _ => request_named h⟩
  case crownSidebandSilent => exact ⟨_, rfl, .ite (fun _ => h) fun _ => moduleFault_named h⟩
  case elasticSlip =>
    exact ⟨_, rfl, .ite (fun _ => h) fun _ => .ite (fun _ => strandDown_named (.modHum (.modSPort h))) fun _ => .modSPort h⟩
  case holdoverExpire => exact ⟨_, rfl, .ite (fun _ => humLoss_named h) fun _ => h⟩
  case hostLinkDown => exact ⟨_, rfl, .ite (fun _ => portReset_named h) fun _ => h⟩
  case hotReset => exact ⟨_, rfl, .ite (fun _ => portReset_named h) fun _ => h⟩
  case ideCheckFail =>
    exact ⟨_, rfl, .ite (fun _ => .of_frame (tdiError_without (by decide)) (unsecure_named (.modFn h))) fun _ => h⟩
  case inputFault => exact ⟨_, rfl, .ite (fun _ => powerDown_named) fun _ => h⟩
  case railFault => exact ⟨_, rfl, .ite (fun _ => h) fun _ => powerDown_named⟩
  case linkAuthFail =>
    exact ⟨_, rfl, .ite (fun _ => h) fun _ => .ite (fun _ => effLinkAuth_named h) fun _ =>
      .of_frame (modLink_without (by decide)) h⟩
  case modRstNRelease =>
    exact ⟨_, rfl, .ite (fun _ => h) fun _ => .ite (fun _ => moduleReset_named) fun _ => .ite (fun _ => h) fun _ =>
      moduleReset_named⟩
  case overpowerSustained => exact ⟨_, rfl, .ite (fun _ => overpower_named h) fun _ => h⟩
  case patrolScrubRead => exact ⟨_, rfl, effScrub_named (.of_frame (applyFlips_without (by decide)) h)⟩
  case superResetDone => exact ⟨_, rfl, effSuperDone_named (.of_frame (applyFlips_without (by decide)) h)⟩
  case rowRepairDone =>
    exact ⟨_, rfl, .ite (fun _ => h) fun _ => resumeSuper_named (.of_frame (nextRepair_without (by decide))
      (.of_frame (effRepaired_without (by decide)) (.of_frame (applyFlips_without (by decide)) h)))⟩
  case perstNAssert => exact ⟨_, rfl, .modMod (portReset_named h)⟩
  case pllUnlock => exact ⟨_, rfl, .ite (fun _ => moduleFault_named (.modPower h)) fun _ => h⟩
  case queenRegionLoss => exact ⟨_, rfl, .ite (fun _ => regionLost_named h) fun _ => h⟩
  case registerWrite =>
    exact ⟨_, rfl, .ite (fun _ => .of_frame (refuseAccess_without (by decide)) h) fun _ =>
      .ite (fun _ => effWriteReg_named h) fun _ => h⟩
  case w1cWrite =>
    exact ⟨_, rfl, .ite (fun _ => .of_frame (refuseAccess_without (by decide)) h) fun _ =>
      .ite (fun _ => effClear_named h) fun _ => h⟩
  case reset => exact ⟨_, rfl, .doIf monReset_named h⟩
  case superWatchdog => exact ⟨_, rfl, .ite (fun _ => superHung_named h) fun _ => h⟩
  case trainingDone => exact ⟨_, rfl, .ite (fun _ => portResetDone_named (.modSPort h)) fun _ => h⟩
  case trainingTimeout => exact ⟨_, rfl, .ite (fun _ => portResetDone_named (.modSPort h)) fun _ => h⟩
  case treeFormatDone => exact ⟨_, rfl, .ite (fun _ => resumeSuper_named (.modSuper h)) fun _ => h⟩
  case inputPowerGood => exact inputPowerGood_named h ..
  case pcieRefLoss => exact pcieRefLoss_named h ..
  case bootStart => exact bootStart_named h ..
  case supersedure => exact supersedure_named h ..
  case foragerWatchdog => exact foragerWatchdog_named h ..
  case hildWatchdog => exact hildWatchdog_named h ..
  case linkReplayLimit => exact linkReplayLimit_named h ..
  all_goals exact absurd rfl hc

/-- Every command keeps the power controller legal. -/
theorem exec_supplied (c : Instr) (h : Supplied s) : Does c s Supplied := by
  by_cases hc : (touches c).contains .power = false
  · obtain ⟨t, ht, w⟩ := CommandProofs.commandsKeepToTheirPieces c s
    exact ⟨t, ht, h.of_eq (w.power_eq hc)⟩
  cases c
  case undervoltageDetect => exact ⟨_, rfl, effUnder_supplied h⟩
  case powerSample => exact ⟨_, rfl, effPowerSample_supplied h⟩
  case overpowerSustained => exact ⟨_, rfl, .ite (fun _ => overpower_supplied h) fun _ => h⟩
  case thermalSample => exact ⟨_, rfl, effThermal_supplied h⟩
  case undervoltageClear => exact ⟨_, rfl, .ite (fun _ => .modDie (.modDie (setVolt_supplied h))) fun _ => h⟩
  case inputFault => exact ⟨_, rfl, .ite (fun _ => powerDown_supplied) fun _ => h⟩
  case railFault => exact ⟨_, rfl, .ite (fun _ => h) fun _ => powerDown_supplied⟩
  case inputPowerGood => exact inputPowerGood_supplied h ..
  case latchRelease => exact latchRelease_supplied h ..
  case pwrLimitWrite => exact ⟨_, rfl, .ite (fun _ => setLimit_supplied h) fun _ => h⟩
  case setNumericEffecterValue =>
    exact ⟨_, rfl, .ite (fun _ => h) fun _ => .ite (fun _ => .emit h) fun _ => .emit (setLimit_supplied h)⟩
  case fabricRefLoss => exact ⟨_, rfl, effFabricLoss_supplied h⟩
  case pcieRefLoss => exact pcieRefLoss_supplied h
  case pllUnlock => exact pllUnlock_supplied h ..
  case refReturn => exact refReturn_supplied h ..
  case bootStart => exact bootStart_supplied h
  case lowHalfRead => exact ⟨_, rfl, effRegRead_supplied h⟩
  case w1cWrite => exact w1cWrite_supplied h ..
  case registerWrite => exact registerWrite_supplied h ..
  all_goals exact absurd rfl hc

/-! ### Every step -/

theorem legalState_iff (s : State) : LegalState s ↔ Supplied s ∧ Named s := by
  unfold LegalState Supplied Named
  constructor
  · rintro ⟨hlow, hhigh, hlatch, hrails, hstage, hmod⟩
    exact ⟨⟨hlow, hhigh, hlatch, hrails⟩, hstage, hmod⟩
  · rintro ⟨⟨hlow, hhigh, hlatch, hrails⟩, hstage, hmod⟩
    exact ⟨hlow, hhigh, hlatch, hrails, hstage, hmod⟩

/-- Settles O4: each command keeps the power controller and the stages, whatever it does to the rest; a slot that passes touches
neither. -/
theorem stepsKeepLegal : Obligations.StepsKeepLegal := by
  unfold Obligations.StepsKeepLegal
  intro s t hs ht
  obtain ⟨hp, hn⟩ := (legalState_iff s).mp hs
  refine (legalState_iff t).mpr ?_
  unfold step at ht
  split at ht
  · cases ht
    exact ⟨.of_frame (passSlot_without (by decide)) hp, .of_frame (passSlot_without (by decide)) hn⟩
  · next c cs _ =>
    obtain ⟨u, hu, hup⟩ := exec_supplied c (s := { s with pending := cs }) hp
    obtain ⟨v, hv, hvn⟩ := exec_named c (s := { s with pending := cs }) hn
    cases hu.symm.trans ht
    cases hv.symm.trans ht
    exact ⟨hup, hvn⟩

end Sys2Proof.LegalProofs
end
